-- ==== Sys2Proof/Word.lean ====
section
/-!
DEFINITION. Word.lean: the word types of the block. Every register is 32 bits wide (03 R51), a byte is 8 bits (00 R6).
-/
namespace Sys2Proof

/-- A register's contents: every register is 32 bits wide (03 R51). -/
abbrev Word := BitVec 32

/-- One byte of memory, of a frame or of a record (00 R6). -/
abbrev Byte := BitVec 8

end Sys2Proof
end

