-- ==== Sys2Proof/Syntax.lean ====
section
/-!
DEFINITION. Syntax.lean: the commands of the block, one constructor per row of spec/opcode_table.json, each with the
operands that come from outside the block (a requester, an address, a value, what a pin, a sensor, a peer or host
memory presents). The rule in each docstring is the row's own.
-/
namespace Sys2Proof

/-- A pair of an encoder input (02 Encoder input). -/
inductive EncPair | a | b | z
  deriving DecidableEq, Repr

/-- An action scheduled at a clapper time or an axis tick: a clapper event, a transaction slot, a segment start (02). -/
inductive ActionRef
  | cev (n : Nat)
  | slot (site k : Nat)
  | seg (site a : Nat)
  deriving DecidableEq, Repr

/-- A PTP event or general message as received (02 R35): port, transport (0 UDP/IPv4, 1 IEEE 802.3), domain, sequence, master
identity, the two-step flag, its timestamp in ns, its correction in ns, a Sync's logSyncInterval, and of a Delay_Resp the master's
logMinDelayReqInterval and whether its requestingPortIdentity is this port's. -/
structure PtpMsg where
  port : Nat := 0
  transport : Nat := 0
  domain : Nat := 127
  seq : Nat := 0
  gm : Nat := 0
  twoStep : Bool := false
  originNs : Nat := 0
  corrNs : Int := 0
  logSync : Int := 0
  logMinDelay : Int := 0
  toUs : Bool := true
  deriving DecidableEq, Repr

/-- The dataset of an Announce message that the default best-master algorithm compares, in its order (02 R35). -/
structure PtpAnnounce where
  port : Nat := 0
  transport : Nat := 0
  domain : Nat := 127
  prio1 : Nat := 128
  cls : Nat := 248
  acc : Nat := 254
  var : Nat := 0
  prio2 : Nat := 128
  gm : Nat := 0
  steps : Nat := 0
  utc : Nat := 0
  utcValid : Bool := false
  deriving DecidableEq, Repr

/-- A limit input's level at a sample (15 R331): above the band, below it, or inside it. -/
inductive LimitLevel | high | low | band
  deriving DecidableEq, Repr

/-- What an axis senses in one PWM period (15 Axes and groups, R323, R326): the codes of coils A and B, sampled every 20 ticks (2 MS/s)
from the period's start, and the observer's load angle and confidence. -/
structure Observer where
  samples : List (Int × Int) := []
  angle : Int := 0
  conf : Nat := 0
  deriving DecidableEq, Repr

/-- What one meter conversion gives (17 R356 to R365): the modulator codes of its phases (one, or two in a switched
mode), the sensed excitation as FP32 words, whether the source is at compliance, and the internal
cold-junction sensor's reading where it was refreshed since (FP32 °C). -/
structure MeterSample where
  codes : List Int := []
  excs : List Word := []
  compliance : Bool := false
  cj : Option Word := none
  deriving DecidableEq, Repr

/-- What a calibration step measures (18 R378): the sum of its CAL_N modulator codes, and for a sense step the reference
resistor's voltage and the sensed current as FP32 words; a clamp overlapping it; and what the checks before the first
step measured (REFR with nominal factors). -/
structure CalSample where
  sum : Int := 0
  vRefr : Word := 0
  iSense : Word := 0
  refrOhm : Word := 0
  clamped : Bool := false
  deriving DecidableEq, Repr

/-- The two health tests of SP 800-90B (20 R405). -/
inductive HealthTest | repetition | proportion | startup
  deriving DecidableEq, Repr

/-- What formation finds over the running ports (21 R423): how many packages, whether the wiring matches the topology,
which of them are ready and idle, which pass authentication, whether it completes within 2 s; and which lost packages
are reachable again. -/
structure EnsFound where
  packages : Nat := 1
  wired : Bool := true
  idle : Bool := true
  authenticated : Bool := true
  inTime : Bool := true
  back : Nat := 0
  deriving DecidableEq, Repr

/-- What a peer sends at keying and what its checks give (21 R427). -/
structure PeerStatement where
  package : Nat := 0
  port : Nat := 0
  onX2 : Bool := false
  chainOk : Bool := true
  sigOk : Bool := true
  fwMeasure : Nat := 0
  asm : Nat := 0
  deriving DecidableEq, Repr

/-- A relay frame as received (21 R425): header fields, whether every codeword was corrected and the tag verified, and
for a TIME frame the lead's time and the measured link delay in ns. -/
structure RelayFrame where
  bulk : Bool := false
  carriage : Bool := false
  srcPkg : Nat := 0
  dstPkg : Nat := 0
  len : Nat := 0
  hops : Nat := 0
  seq : Nat := 0
  fecOk : Bool := true
  fecCorrected : Nat := 0
  tagOk : Bool := true
  ackSeq : Nat := 0
  leadNs : Nat := 0
  delayNs : Nat := 0
  msg : Nat := 0
  arg : Nat := 0
  deriving DecidableEq, Repr

/-- Why the lead declares a package lost (21 R439). -/
inductive LossCause | noRoute | pkgFatal | mainReset
  deriving DecidableEq, Repr

/-- What found a guard's condition (22 R446): an entry's channel A or B input, the supply guard or die heat. -/
inductive DemandSource
  | entry (e : Nat) (chanB : Bool)
  | supply (mv : Nat)
  | dieHeat (temp : Int)
  deriving DecidableEq, Repr

/-- The diagnostics of a test interval (22 R454). -/
inductive DiagFault | clock | crc | compare | memory | supply
  deriving DecidableEq, Repr

/-- The data of a bus write (03 R51): 32 bits, or with `hi` the two halves of 64. -/
structure WriteData where
  lo : Word
  hi : Option Word := none
  deriving DecidableEq, Repr

/-- What a bus read names (03 R51): an address, of 32 bits or `wide` of 64. -/
structure ReadAt where
  addr : Nat
  wide : Bool := false
  deriving DecidableEq, Repr

/-- A regulator's slave frame that answers a Voltage write (04 R74, R75): the voltage in mV, whether its CRC holds, and its status alert. -/
structure AvsAnswer where
  mv : Nat
  crcOk : Bool := true
  alert : Bool := false
  deriving DecidableEq, Repr

/-- A PCIe configuration request (05 R100; 06 R107): the function it names, and where it writes the PF's SR-IOV capability the number of
virtual functions enabled. -/
structure ConfigReq where
  fn : Nat
  vfs : Option Nat := none
  deriving DecidableEq, Repr

/-- The energy estimate of 10 µs in nJ (19 R390): the package's, and each compute die's share by site. -/
structure Energy where
  pkg : Nat
  dies : List Nat := []
  deriving DecidableEq, Repr

/-- The commands. `req` is a requester code of REJ_INFO (03): 0-15 a PCIe function, 16 the control core of the page's
site, 17 the boot master, 18 a relay, 19 the debug port. `site` is a site code (03 R49). -/
inductive Instr
  /-- REGISTER_WRITE (R51): A host or internal requester writes a register that has no row of its own; it takes effect, lands in a shadow, or is rejected with REJ_INFO and WR_REJECT. -/
  | registerWrite (req addr : Nat) (val : WriteData) (be : Nat)
  /-- ABSENT_WRITE (R19): A write reaches a page of an empty site, absent block or down die; it is rejected and ABSENT_WRITE and ABSENT_WR_ADDR are set. -/
  | absentWrite (req addr : Nat)
  /-- CTRL_EN_SET (R54): A write of CTRL.EN := 1 starts a block from OFF, sets PENDING_EN during STOPPING, or is rejected in FAULT or LOCKED. -/
  | ctrlEnSet (req site blk : Nat)
  /-- CTRL_EN_CLEAR (R54): A write of CTRL.EN := 0 moves a block to STOPPING, or cancels a pending start and sets PENDING_DROPPED. -/
  | ctrlEnClear (req site blk : Nat)
  /-- SOFT_RESET (R56): CTRL.SOFT_RESET, accepted only in OFF or FAULT, returns the page's registers to reset values and aborts any slot holding the page. -/
  | softReset (req site blk : Nat)
  /-- BLOCK_READY (R54): A STARTING block finishes its start-up and enters RUNNING. -/
  | blockReady (site blk : Nat)
  /-- STOP_COMPLETE (R55): A STOPPING block finishes its stop and enters OFF. -/
  | stopComplete (site blk : Nat)
  /-- PENDING_START (R55): One block clock after a stop completes with PENDING_EN set, the block enters STARTING and clears PENDING_EN. -/
  | pendingStart (site blk : Nat)
  /-- EVT_RAW_CLEAR (R57): A W1C write to EVT_RAW clears the latched event bits unless their condition recurs in the same block clock. -/
  | evtRawClear (req site blk : Nat) (mask recur : Word)
  /-- FAULT_CODE_CLEAR (R58): A write of 0 to FAULT_CODE clears the record when STATE is not FAULT; any other write is rejected with STATE. -/
  | faultCodeClear (req site blk : Nat) (val : Word)
  /-- OPEN (R59): TXN_CTRL.OPEN opens a transaction slot or joins the page to the requester's open slot. -/
  | txnOpen (req site blk : Nat) (val : Word)
  /-- COMMIT (R62): TXN_CTRL.COMMIT arms the slot with the page's WHEN and POLICY, including CROSS groups, after checking owner, state, overflow and WHEN. -/
  | txnCommit (req site blk : Nat) (val : Word)
  /-- ABORT (R67): TXN_CTRL.ABORT from the owner discards every entry of an OPEN, ARMED or STAGED slot with reason HOST_ABORT. -/
  | txnAbort (req site blk : Nat) (val : Word)
  /-- TXN_STAGED (R63): An armed slot finishes staging its entries one per block clock and becomes STAGED. -/
  | txnStaged (site slot : Nat)
  /-- TXN_BOUNDARY (R64): At a slot's boundary the device makes its state checks and applies every staged entry in one block clock, or aborts the slot. -/
  | txnBoundary (site slot : Nat)
  /-- STAGED_REPORT (R69): A member site of a cross-site group reports to the boot master that its slot is staged and its checks passed, or reports the failure. -/
  | stagedReport (pkg site group : Nat)
  /-- GROUP_REPORT_DEADLINE (R69): At WHEN - 10 µs with a report missing, a DISCARD group aborts with DISCARDED_LATE and an EXECUTE group starts waiting until WHEN + 1 ms. -/
  | groupReportDeadline (group : Nat)
  /-- GROUP_ABORT (R69): At WHEN + 1 ms with a report still missing, firmware aborts every slot of the group with GROUP_ABORT. -/
  | groupAbort (group : Nat)
  /-- CROSS_APPLY (R70): At the first sample where its clapper copy reaches T_GO, each member site applies its slot if GO is set, or aborts with GROUP_ABORT. -/
  | crossApply (site group : Nat)
  /-- ENCODER_EDGE (R23): A filtered edge of A or B moves the encoder count by one in the direction of the quadrature phase, with REVERSE on a change of direction. -/
  | encoderEdge (site e : Nat) (lineB : Bool)
  /-- QERR (R24): Both filtered quadrature lines change in one sample; the count holds, QERR_CNT increments and UNC widens by 2. -/
  | qerr (site e : Nat)
  /-- ENC_LINE_BROKEN (R26): A differential pair held at fail-safe level for 2 µs puts the encoder in FAULT with ENC_LINE_BROKEN. -/
  | encLineBroken (site e : Nat) (pair : EncPair)
  /-- INDEX (R30): A filtered Z edge captures INDEX_POS and INDEX_DEV, and verifies the count and clears UNC or raises INDEX_MISMATCH. -/
  | index (site e : Nat) (rising : Bool)
  /-- PERIOD_NO_MOTION (R28): The gap since the last filtered edge reaches 0xFF_FFFF samples and PERIOD reads no motion. -/
  | periodNoMotion (site e : Nat)
  /-- UNC_CLR (R29): ENC_CMD.UNC_CLR returns UNC to 0 after the host re-establishes position, rejected in FAULT. -/
  | uncClr (req site e : Nat)
  /-- LINE_TRIGGER (R31): POS reaches NEXT_POS moving forward; the position unit triggers the next line, runs LINE actions due there and sets NEXT_POS. -/
  | lineTrigger (site g : Nat)
  /-- LATE_TRIGGER (R33): A line whose trigger position was reached before the sensor was ready starts as soon as the sensor is ready, flagged LATE_TRIGGER. -/
  | lateTrigger (site g : Nat)
  /-- PITCH_ARM (R42): PITCH_CTL.ARM arms a line-pitch change with PITCH_NEXT and PITCH_WHEN, replacing any armed change. -/
  | pitchArm (req site g : Nat) (val : Word)
  /-- CEV_ARM (R42): CEVn_CTL.ARM arms clapper event n with its WHEN and policy. -/
  | cevArm (req n : Nat) (val : Word)
  /-- CLAPPER_ACTION (R40): At the first sample where the clapper reaches an armed CLAPPER WHEN, the action (clapper event, commit or segment start) runs. -/
  | clapperAction (act : ActionRef)
  /-- TICK_ACTION (R41): The axis tick counter reaches an armed TICK WHEN and the action runs. -/
  | tickAction (act : ActionRef)
  /-- PTP_SYNC (R36): A PTP Sync (and its follow-up) with a delay measurement gives an offset that steps or slews the clapper. -/
  | ptpSync (m : PtpMsg)
  /-- PTP_FOLLOW_UP (R35): A Follow_Up message from a two-step master supplies the precise Sync timestamp. -/
  | ptpFollowUp (m : PtpMsg)
  /-- DELAY_REQ (R35): The clapper sends a Delay_Req at the master's logMinDelayReqInterval. -/
  | delayReq
  /-- PTP_DELAY_RESP (R35): A Delay_Resp completes the end-to-end delay measurement. -/
  | ptpDelayResp (m : PtpMsg)
  /-- PTP_ANNOUNCE (R35): An Announce message feeds the best-master algorithm; a change of grandmaster enters ACQUIRING. -/
  | ptpAnnounce (a : PtpAnnounce)
  /-- ANNOUNCE_RECEIPT_TIMEOUT (R38): The Announce receipt timeout expires and the clapper enters HOLDOVER at its last servo rate. -/
  | announceReceiptTimeout
  /-- PPS_IN_EDGE (R37): A rising edge on the PPS input moves the clapper's nanosecond field toward 0 by slewing or stepping. -/
  | ppsInEdge
  /-- PPS_MISSING (R38): No PPS edge 1.5 s after the previous one; the clapper enters HOLDOVER. -/
  | ppsMissing
  /-- HOLDOVER_MAX_EXPIRE (R38): After HOLDOVER_MAX seconds in HOLDOVER, LOCK becomes FREE at the last servo rate. -/
  | holdoverMaxExpire
  /-- PPS_OUT (R37): The PPS output rises at each whole second of the clapper and stays high for PPS_WIDTH ms. -/
  | ppsOut
  /-- CLK_CMD_SET (R37): CLK_CMD.SET loads the clapper from SET_NS and SET_SEC at once and counts as a step, rejected under PTP. -/
  | clkCmdSet (req : Nat) (val : Word)
  /-- CLK_CFG_WRITE (R36): A write of CLK_CFG changing SOURCE enters ACQUIRING for PTP or PPS, or FREE with nominal INCR. -/
  | clkCfgWrite (req : Nat) (val : Word)
  /-- TO_BACKUP (R77): VAON_A falls below 3.0 V while VAON_B is fit and the switch selects VAON_B within 20 µs, or sets BACKUP_ABSENT. -/
  | toBackup (aMv bMv : Nat)
  /-- TO_MAIN (R78): VAON_A has stayed at or above 3.10 V for 100 ms and the switch returns to VAON_A. -/
  | toMain
  /-- VAON_B_FALL (R78): VAON_B falls below 3.0 V; the switch returns to a fit VAON_A at once, or raises VAON_B_LOW while VAON_A is selected. -/
  | vaonBFall (aMv bMv : Nat)
  /-- FIO_TO_BACKUP (R79): VFIO_A falls below 19.0 V and the field die switches to VFIO_B. -/
  | fioToBackup (site aMv bMv : Nat)
  /-- FIO_TO_MAIN (R79): VFIO_A has stayed at or above 20.0 V for 100 ms and the field die returns to it. -/
  | fioToMain (site : Nat)
  /-- FIO_LOST (R79): The selected VFIO falls below 17.0 V; field I/O de-energises, limits read ASSERTED and the supply guard acts. -/
  | fioLost (site aMv bMv : Nat)
  /-- FIO_RESTORED (R376): The selected VFIO returns above 17.0 V; meter channels restart and limits and comparators must qualify again. -/
  | fioRestored (site aMv bMv : Nat)
  /-- MAIN_LOST (R82): MAIN_PG falls; the main domain is isolated within 5 µs and MAIN_LOST_AT is recorded. -/
  | mainLost
  /-- MAIN_PG_RISE (R82): MAIN_PG rises with the always-on domain out of reset, starting the 1 ms release delay. -/
  | mainPgRise
  /-- MAIN_RELEASE (R82): 1 ms after MAIN_PG rises, the device releases the main domain from reset. -/
  | mainRelease
  /-- AON_POWER_ON_RESET (R83): The selected VAON input below 2.70 V for 1 µs, or first power-up, resets the whole package. -/
  | aonPowerOnReset
  /-- POR_N (R83): POR_N held low for 1 µs resets the whole package. -/
  | porN (lowNs : Nat)
  /-- RST_CMD (R83): The write pair 0x52 then 0xA5 from one permitted requester within 1 ms starts a package reset 10 µs later. -/
  | rstCmd (req : Nat) (val : Word)
  /-- SYS_RST_N (R83): SYS_RST_N held low for 1 µs resets the main domain and makes a supply-loss splice. -/
  | sysRstN (lowNs : Nat)
  /-- PERST (R138): PCIe PERST# resets the endpoint, ends every take and session and clears take-queue and dailies pages without records. -/
  | perst
  /-- TRST_N (R83): TRST_N low resets the debug logic only. -/
  | trstN (lowNs : Nat)
  /-- AVS_FAULT (R75): A VDD_C regulator fails three attempts at a frame or raises its alert; the gaffer holds that die at 0.40 GHz. -/
  | avsFault (rail : Nat) (alert : Bool)
  /-- AVS_ACK (R393): A regulator acknowledges a Voltage write-and-commit, after which a clock raise may proceed 20 µs later. -/
  | avsAck (rail : Nat) (answer : AvsAnswer)
  /-- WATCHDOG_EXPIRE (R91): A control core's 100 ms watchdog expires, making a die-fatal error or restarting that core alone. -/
  | watchdogExpire (site core : Nat)
  /-- AON_BOOT (R97): The always-on domain leaves reset and the boot ROM samples BOOT_REC_N, selects a slot, loads always-on firmware and sets AON_READY. -/
  | aonBoot (bootRecN ensLeadN : Bool)
  /-- MAIN_BOOT (R98): With the main domain released and AON_READY set, the boot master re-checks the slot, brings up sites in order, checks the fitting and sets READY. -/
  | mainBoot (failedSites failedLinks : Nat)
  /-- PCIE_CONFIG_REQUEST (R100): A PCIe configuration request is answered with retry status until the host die's main part runs, and normally after. -/
  | pcieConfigRequest (r : ConfigReq)
  /-- REC_CMD_GO (R101): REC_CMD.GO in RECOVERY_WAIT makes the boot master read the recovery image by DMA, check it and boot it or record the failure. -/
  | recCmdGo (req : Nat) (val : Word)
  /-- MB_ACK (R103): A write of MB_ACK returns a DONE mailbox to IDLE. -/
  | mbAck (req t : Nat) (val : Word)
  /-- GET_FW_INFO (R103): Mailbox opcode 0x0001 returns SEQ, SVN, booted slot, BOOT_SRC and MIN_SVN. -/
  | getFwInfo (t : Nat)
  /-- SVN_RAISE (R103): Mailbox opcode 0x0002 from tenant 0 raises the fused MIN_SVN to the running image's SVN. -/
  | svnRaise (t : Nat)
  /-- READ (R104): Flash command READ copies 256 bytes at FL_ADDR into FL_BUF. -/
  | flRead (req : Nat)
  /-- PROGRAM (R105): Flash command PROGRAM writes FL_BUF to one page and reads it back, unless misaligned or in the active slot. -/
  | flProgram (req : Nat)
  /-- ERASE_4K (R104): Flash command ERASE_4K erases an aligned 4 KiB block outside the active slot. -/
  | erase4K (req : Nat)
  /-- ERASE_64K (R104): Flash command ERASE_64K erases an aligned 64 KiB block where SFDP declares it, outside the active slot. -/
  | erase64K (req : Nat)
  /-- FL_DONE (R105): A flash command completes or times out and FL_STATUS shows DONE_OK or DONE_ERR. -/
  | flDone (err us : Nat)
  /-- LINK_FAIL (R108): No PCIe width of x16 or x8 trains; the endpoint stays in Detect and sets LINK_FAIL. -/
  | linkFail
  /-- LINK_CHANGE (R107): The PCIe link changes width or rate and LINK_CHANGE is raised. -/
  | linkChange (width rate : Nat)
  /-- SQ_TAIL (R114): A doorbell write of SQ_TAIL submits descriptors, or is rejected with QUEUE_FULL or RANGE. -/
  | sqTail (req t q : Nat) (val : Word)
  /-- TAKE (R116): The device fetches a TAKE descriptor, checks it and its deadline, and accepts it or refuses it with a status. -/
  | take (t q : Nat) (desc : List Byte)
  /-- FENCE (R115): The device fetches a FENCE descriptor, which starts nothing until every earlier entry of the queue has completed. -/
  | fence (t q : Nat) (desc : List Byte)
  /-- TAKE_START (R122): The gaffer chooses an eligible queue head by weighted deficit round robin and energy fit and starts the take on free cores. -/
  | takeStart
  /-- TAKE_END (R118): A take finishes on all its cores and its completion record becomes ready, with LATE if past its deadline. -/
  | takeEnd (t q idx : Nat)
  /-- COMPLETION_RECORD (R120): Once every earlier entry of its queue has its record, the device writes a take's completion record after its data. -/
  | completionRecord (t q : Nat)
  /-- INT_MOD_DELAY (R111): The INT_MOD longest-delay timer expires and the pending MSI-X message is sent. -/
  | intModDelay (t q : Nat)
  /-- ABORT_ALL (R123): TQ_CMD.ABORT_ALL gives every entry up to SQ_TAIL an ABORTED_HOST record in order and cancels running takes by epoch. -/
  | abortAll (req t q : Nat) (val : Word) (tags : List Nat)
  /-- FLR (R138): A function-level reset ends the function's takes and sessions without records and, for a VF, unloads its slates. -/
  | flr (fn : Nat)
  /-- DAILIES_WRITE (R125): With room in the record and data rings, the writer writes held payloads and records, clearing DRAIN_STALL. -/
  | dailiesWrite (d : Nat)
  /-- EXPORT_DATA (R134): With DEST = NET the device sends a DATA frame of the flow's byte stream within the receiver's window. -/
  | exportData (d : Nat)
  /-- EXPORT_ACK (R135): An ACK frame advances the acknowledged position and window, freeing ring space; an ACK of unsent bytes is ignored. -/
  | exportAck (d ackPsn window : Nat)
  /-- EXPORT_RETRY (R135): No ACK advances within 1 ms and the device resends from the first unacknowledged PSN with RETRANSMIT. -/
  | exportRetry (d : Nat)
  /-- MATMUL (R149): The sequencer runs a MATMUL op through the array with its fixed output stage. -/
  | matmul (site core : Nat)
  /-- MATMUL_ACT (R149): The sequencer runs a MATMUL_ACT op with an activation tensor as W. -/
  | matmulAct (site core : Nat)
  /-- CONV2D (R149): The sequencer runs a CONV2D op by implicit im2col on the array. -/
  | conv2d (site core : Nat)
  /-- EW (R149): The vector unit runs an element-wise op. -/
  | ew (site core : Nat)
  /-- ACT (R149): The vector unit runs an activation op. -/
  | act (site core : Nat)
  /-- CONVERT (R144): The vector unit converts between formats or requantises. -/
  | convert (site core : Nat)
  /-- NORM (R149): The vector unit runs LayerNorm or RMSNorm. -/
  | norm (site core : Nat)
  /-- SOFTMAX (R148): The vector unit runs a row softmax with optional run-time length. -/
  | softmax (site core : Nat)
  /-- REDUCE (R148): The vector unit reduces rows by sum, max or mean. -/
  | reduce (site core : Nat)
  /-- POOL (R149): The vector unit runs max or average pooling. -/
  | pool (site core : Nat)
  /-- DWCONV (R149): The vector unit runs a depthwise convolution. -/
  | dwconv (site core : Nat)
  /-- TRANSPOSE (R149): The vector unit transposes in 64 × 64 blocks. -/
  | transpose (site core : Nat)
  /-- GATHER (R149): The vector unit gathers table rows by an index vector. -/
  | gather (site core : Nat)
  /-- COPY (R149): The vector unit runs a strided copy with padding. -/
  | copy (site core : Nat)
  /-- BARRIER (R151): A core reaches a BARRIER op and waits for its group, drain and combines. -/
  | barrier (site core : Nat)
  /-- BARRIER_RELEASE (R151): Every condition of the barrier holds and all cores of the group leave it in one cycle. -/
  | barrierRelease (site core : Nat)
  /-- FLAG_WAIT (R210): A FLAG_WAIT op waits until a bin flag meets its threshold, as an acquire. -/
  | flagWait (site core : Nat)
  /-- FLAG_SET (R210): A FLAG_SET op sets or adds to a bin flag as a release. -/
  | flagSet (site core : Nat)
  /-- CUE_PUSH (R210): A CUE_PUSH op pushes a handle into a cue queue as a release, waiting while the queue is full. -/
  | cuePush (site core : Nat)
  /-- CUE_POP (R210): A CUE_POP op pops a handle as an acquire, waiting while the queue is empty and discarding stale handles. -/
  | cuePop (site core : Nat)
  /-- DMA (R201): A DMA op issues a descriptor to one of the core's DMA queues, stalling while 16 wait. -/
  | dma (site core : Nat)
  /-- END (R149): An END op ends the take on the core. -/
  | endOp (site core : Nat)
  /-- OP_RETIRE (R150): An op writes its last output and retires, releasing ring slots and letting the next op start. -/
  | opRetire (site core : Nat)
  /-- OP_OVERRUN (R191): An op's counted cycles exceed its CYC_BOUND and the take takes a KIND 8 bound fault. -/
  | opOverrun (site core : Nat)
  /-- PROF_CLR (R154): PROF_CTL.CLR zeroes the core's eight profiling counters, rejected while confidential. -/
  | profClr (req site core : Nat) (val : Word)
  /-- PARTIAL_ARRIVE (R167): A leaf's or node's partial rows arrive at a combine unit, rejected with CMB_STRAY if no node holds them. -/
  | partialArrive (site bay node : Nat) (right : Bool) (tile core : Nat)
  /-- COMBINE_NODE_TILE (R167): With both operands of a tile present, a combine node sums LEFT + RIGHT, and the root applies the output stage. -/
  | combineNodeTile (site bay node tile core : Nat)
  /-- CMB_PARITY (R175): A parity error in a combine operand buffer is a contained error of the take. -/
  | cmbParity (site bay : Nat)
  /-- SLATE_LOAD (R184): Mailbox SLATE_LOAD runs every admission check, places groups and returns a handle, or refuses with one code. -/
  | slateLoad (t : Nat) (cont : List Byte)
  /-- SLATE_UNLOAD (R198): Mailbox SLATE_UNLOAD marks a slate unloading, refusing further descriptors. -/
  | slateUnload (t : Nat)
  /-- UNLOAD_COMPLETE (R198): The last accepted take of an unloading slate has its record and the slate's resources are released with the response. -/
  | unloadComplete (handle : Nat)
  /-- SLATE_QUERY (R182): Mailbox SLATE_QUERY returns a slate's kind, state, certified rate, floor and placement. -/
  | slateQuery (t : Nat)
  /-- BOUND_RECORD (R194): Mailbox BOUND_RECORD returns the 32-byte bound record named by DETAIL. -/
  | boundRecord (t : Nat)
  /-- CLEAR_ALL (R194): BND_CMD.CLEAR_ALL empties the bounds page's record ring. -/
  | clearAll (req site : Nat) (val : Word)
  /-- EPOCH_CANCEL (R220): A take's epoch advances; the old number is cancelled on every die and stale flags, handles and slots are discarded. -/
  | epochCancel (epoch : Nat)
  /-- DMA_TRANSFER (R200): A queue issues its next transfer of at most 4 KiB when its limits, the die cap, tokens and ring space allow, translating it first. -/
  | dmaTransfer (site core q : Nat)
  /-- DMA_TRANSFER_DONE (R203): A transfer's last byte lands; completion actions and slot publication follow once the descriptor and its predecessors complete. -/
  | dmaTransferDone (site core q : Nat)
  /-- RELAY_TILE (R215): A RELAY tile enters a bay's weight-relay chain and is written into each destination core store as it passes. -/
  | relayTile (site core q : Nat)
  /-- DMA_TIMEOUT (R241): A transfer not completed 2 ms after issue is a contained error. -/
  | dmaTimeout (site core q : Nat)
  /-- DMA_PARITY (R241): A parity error in a transfer buffer is a contained error. -/
  | dmaParity (site core q : Nat)
  /-- RELAY_PARITY (R241): A parity error on a weight-relay chain port is a contained error. -/
  | relayParity (site core : Nat)
  /-- CLR_PEAK (R202): MV_CMD.CLR_PEAK clears the peak of transfers in flight. -/
  | clrPeak (req site : Nat) (val : Word)
  /-- MMU_CMD_INVALIDATE (R232): MMU_CMD.INVALIDATE starts invalidation of cached entries for INV_TA over INV_PAGES. -/
  | mmuCmdInvalidate (req t : Nat) (val : Word)
  /-- INV_DONE (R232): An invalidation completes when no cached copy and no old-entry transfer remains; halted units walk again. -/
  | invDone (t : Nat)
  /-- MMU_CMD_RESUME (R235): MMU_CMD.RESUME in retry mode makes every unit halted on a record walk again and continue or halt anew. -/
  | mmuCmdResume (req t : Nat) (val : Word)
  /-- MMU_CMD_RESUME_FAIL (R235): MMU_CMD.RESUME in Fail mode turns every halted access on the record into a MAP_ABSENT contained error. -/
  | mmuCmdResumeFail (req t : Nat) (val : Word)
  /-- MMU_SET_ROOT (R230): Mailbox MMU_SET_ROOT sets a tenant's table root, refused with MMU_BUSY while slates or queues are active. -/
  | mmuSetRoot (t : Nat)
  /-- MMU_INVALIDATE (R232): Mailbox MMU_INVALIDATE invalidates a TA range and responds when R232's completion holds. -/
  | mmuInvalidate (t : Nat)
  /-- FAULT_LIST (R234): Mailbox FAULT_LIST returns up to 15 pending fault records. -/
  | faultList (t : Nat)
  /-- RESUME (R235): Mailbox RESUME resumes a fault record in retry or fail mode, or completes with NO_SUCH_FAULT. -/
  | resume (t : Nat)
  /-- GRAN_OWNER (R229): A write of GRAN_OWNER assigns or unassigns a 2 MiB granule and starts its zeroing. -/
  | granOwner (req : Nat) (val : Word)
  /-- GRAN_DONE (R229): The zeroing of a granule completes and waiting accesses proceed. -/
  | granDone
  /-- CORRECTED_ERROR (R238): A correctable error is corrected, written back and counted, raising CE_HIGH past CE_THRESH. -/
  | correctedError (site kind unit : Nat)
  /-- UNCORRECTABLE_ERROR (R239): An uncorrectable memory word is marked poisoned, an error only when consumed. -/
  | uncorrectableError (site kind addr : Nat)
  /-- SCRUB (R240): The scrubber reads the next line or word in its pass, correcting or poisoning it. -/
  | scrub (site ctl result : Nat)
  /-- DIE_FATAL_ERROR (R242): A die-fatal error drops SITE_UP, cancels epochs, aborts takes, splice-stops streams, aborts slots and resets the die. -/
  | dieFatalError (site code : Nat)
  /-- SITE_RETURNED (R242): A die finishes its die-fatal reset and reboot, SITE_UP rises and SITE_RETURNED is set. -/
  | siteReturned (site : Nat)
  /-- PKG_FATAL (R243): A package-fatal error ends every take, splice-stops every stream and withdraws queues and gates until reset. -/
  | pkgFatal (code : Nat)
  /-- LINK_REPLAY (R237): A die-to-die flit fails its CRC and is replayed, becoming package-fatal after 8 replays. -/
  | linkReplay (site n : Nat)
  /-- FILTER_UNIT (R249): With its triggers met and ring space free, a filter engine starts its next stripe unit. -/
  | filterUnit (site e : Nat)
  /-- PYRAMID_UNIT (R253): With its triggers met, a pyramid engine starts its next stripe unit and writes its level windows. -/
  | pyramidUnit (site e : Nat)
  /-- MATCH_UNIT (R254): A match engine pops a frame descriptor and registers the frame against its reference. -/
  | matchUnit (site e : Nat)
  /-- UNIT_DONE (R249): An engine unit's writes become readable and the engine adds 1 to DONE, publishing its outputs. -/
  | unitDone (site e : Nat)
  /-- UNIT_OVERRUN (R260): An engine unit's counted cycles exceed CYC_UNIT and the stage takes a bound fault. -/
  | unitOverrun (site e : Nat)
  /-- CLR_MAX (R260): ENG_CMD.CLR_MAX clears CYC_MAX. -/
  | clrMax (req site e : Nat) (val : Word)
  /-- TAP_BURST (R273): A correctly marked burst of one tap arrives on every data lane within the readout window and is accepted. -/
  | tapBurst (site g tap : Nat) (words : List Nat)
  /-- RD_CLOSE (R273): At RD_CLOSE, unreceived taps are lost, the line is shaded, filled, laid out and written, and gate faults are judged. -/
  | rdClose (site g : Nat)
  /-- DCO_LOST (R276): DCO absent for 1 µs while the gate runs is a gate fault. -/
  | dcoLost (site g : Nat)
  /-- DCO_RETURN (R277): DCO returns; ALIGNED falls and the gate realigns its lanes. -/
  | dcoReturn (site g : Nat)
  /-- ALIGNED (R271): The gate measures f_DCO and aligns every lane to TRAIN_WORD, setting ALIGNED. -/
  | aligned (site g khz : Nat)
  /-- ALIGN_FAIL (R271): Alignment fails within 1 ms, or the rate or bursts do not fit; the gate enters FAULT and its running streams splice. -/
  | alignFail (site g : Nat)
  /-- SENSOR_POLL (R285): Every POLL_LINES lines at RD_CLOSE the SPI master sends POLL_TX and compares the reply, a mismatch being a gate fault. -/
  | sensorPoll (site g : Nat)
  /-- GO_SPI (R284): SPI_CTL.GO starts a sensor SPI transfer, at once or before a committed line. -/
  | goSpi (req site g : Nat) (val : Word)
  /-- SPI_DONE (R284): A sensor SPI transfer completes and SPI_RX holds the received bytes. -/
  | spiDone (site g rx : Nat)
  /-- SHD_DATA_WRITE (R279): A write of SHD_DATA writes one shading entry and advances SHD_ADDR, rejected while the half is in use. -/
  | shdDataWrite (req site g : Nat) (val : Word)
  /-- SHD_DATA_READ (R279): A read of SHD_DATA returns one shading entry and advances SHD_ADDR. -/
  | shdDataRead (req site g : Nat)
  /-- SLOT_PUBLISH (R281): The gate publishes a ring slot once its last line's row and tag are written and that line is final. -/
  | slotPublish (site str : Nat)
  /-- PIPE_SET (R294): Mailbox PIPE_SET orders stages, binds links and layers and returns LAG and HOLD_LINES, or unbinds with NSTAGES = 0. -/
  | pipeSet (t : Nat)
  /-- PERF_REPORT (R299): The detector pops a stripe's perforation report and, once reports cover the window, chooses the frame boundary. -/
  | perfReport (site str : Nat)
  /-- FRAME_DESC_PUSH (R301): When the pyramid has published the frame's last support row, the detector pushes the frame descriptor to the match cue. -/
  | frameDescPush (site str : Nat)
  /-- LAYER_RECEIVE (R302): The dailies writer pops a layer handle or slot and copies its rows or part into the frame's reservation. -/
  | layerReceive (site k layer : Nat)
  /-- FRAME_EMIT (R304): A frame whose layers are complete, or whose hold has expired, is emitted in order as a FRAME record after its payloads. -/
  | frameEmit (site str : Nat)
  /-- FRAME_HOLD_EXPIRE (R305): Frame n + FRAME_HOLD falls due while frame n lacks a layer; the layer is marked ABSENT and the frame emitted. -/
  | frameHoldExpire (site str : Nat)
  /-- SEG_TAIL (R316): A write of SEG_TAIL checks and appends new segments, or is rejected with RANGE. -/
  | segTail (req site a : Nat) (val : Word)
  /-- SEG_ARM (R318): SEG_CTL.ARM on the leader's page arms a segment start, rejected on other axes or while a limit clamps a follower. -/
  | segArm (req site a : Nat) (val : Word)
  /-- SEG_START (R318): An armed segment start runs at its boundary and starts the waiting WAIT segment on every axis of the group. -/
  | segStart (site a : Nat)
  /-- SEG_DONE (R317): Segment time reaches DURATION; SEG_HEAD advances to the next segment with SEG_DONE raised. -/
  | segDone (site a : Nat)
  /-- PWM_PERIOD (R326): At each PWM period the axis samples speed, sets duty and runs the observer, judging stall and lock. -/
  | pwmPeriod (site a : Nat) (obs : Observer)
  /-- MODE_SWITCH (R324): A pending quiet/strong mode change takes effect at the next zero crossing of coil A's demand. -/
  | modeSwitch (site a : Nat)
  /-- AT_HOLD (R325): An axis at rest for 100 ms drops its current to I_HOLD. -/
  | atHold (site a : Nat)
  /-- CLR_LOCK (R327): AX_CMD.CLR_LOCK clears LOCK_LOST at rest, rejected in motion. -/
  | clrLock (req site a : Nat) (val : Word)
  /-- GRP_CMD_STOP (R328): GRP_CMD.STOP starts a HOST group stop. -/
  | grpCmdStop (req site g : Nat) (val : Word)
  /-- AT_REST (R328): Every axis of a stopping group reaches rest; AT_REST is set, SPLICE_DONE follows and category-1 pairs de-energise. -/
  | atRest (site g : Nat)
  /-- GRP_CMD_RELEASE (R328): GRP_CMD.RELEASE releases a group at rest with no cause present. -/
  | grpCmdRelease (req site g : Nat) (val : Word)
  /-- LIMIT_QUALIFY (R331): A limit input holds a level outside the band for 16 samples and its qualified state changes, possibly starting a LIMIT stop. -/
  | limitQualify (site idx : Nat) (level : LimitLevel)
  /-- OVERCURRENT (R333): Sensed current at or above I_MAX in two samples faults the axis with its bridges low. -/
  | overcurrent (site a : Nat)
  /-- SENSE_FAIL (R333): No current-sense sample for 10 µs, or an offset out of range at start, faults the axis. -/
  | senseFail (site a : Nat)
  /-- PACE_STEP (R317): Every 25 µs PACE moves toward PACE_TARGET within PACE_SLEW. -/
  | paceStep (site g : Nat)
  /-- PACING_TICK (R337): Every 250 µs the pacing controller reads margins and computes PACE_TARGET, declaring a pacing splice at p_buf = 0. -/
  | pacingTick (site g : Nat)
  /-- ACHIEVED_REPORT (R339): Each second while PACED, a change of ACHIEVED by more than 1 % writes an EVENT 0x0002 record. -/
  | achievedReport (site g : Nat)
  /-- PC_CMD_STOP (R340): PC_CMD.STOP declares a HOST_STOP splice. -/
  | pcCmdStop (req site g : Nat) (val : Word)
  /-- PC_CMD_RESUME (R345): PC_CMD.RESUME releases the group and starts the restart run from L_r. -/
  | pcCmdResume (req site g : Nat) (val : Word)
  /-- PC_CMD_SKIP (R349): PC_CMD.RESUME with SKIP restarts at RESTART_LINE and writes a RESUME_SKIP GAP record. -/
  | pcCmdSkip (req site g : Nat) (val : Word)
  /-- RESTART_RUN_UP (R346): The back-off reaches rest behind TP(L_r) - RUNUP and the leader accelerates forward to the restart cruise. -/
  | restartRunUp (site g : Nat)
  /-- AUTO_RESUMED (R350): With AUTO_RESUME, a pacing splice at rest with p_buf ≥ 0.75 restarts without a host write. -/
  | autoResumed (site g : Nat)
  /-- METER_CONVERSION (R356): A meter conversion or pair ends; the channel linearises, auto-ranges, updates VSTATE, VALUE and the comparator. -/
  | meterConversion (site m : Nat) (conv : MeterSample)
  /-- EXC_OVERCURRENT (R360): VEXC current reaches 25 mA; excitation is cut with EXC_FAULT and POLICY_OVERRIDDEN. -/
  | excOvercurrent (site m : Nat)
  /-- EXC_RETURN (R364): 100 ms after an overcurrent or clamp ends, excitation returns as a range change. -/
  | excReturn (site m : Nat)
  /-- CLAMP (R364): A meter pin leaves its linear range; the clamp holds, CLAMP is set and excitation is cut. -/
  | clamp (site m : Nat)
  /-- CLAMP_FAULT (R364): A clamp lasting 100 ms puts the channel in FAULT with CLAMP_FAULT. -/
  | clampFault (site m : Nat)
  /-- ADC_FAIL (R375): The modulator gives no output for 4 conversion periods; the channel page enters FAULT with excitation zeroed. -/
  | adcFail (site m : Nat)
  /-- REF_FAULT (R376): REFIN leaves 1.0–2.6 V and every running channel takes cause REF_FAULT. -/
  | refFault (site mv : Nat)
  /-- METER_CONFIG_WRITE (R374): A change of curve, source, coefficients or burn-out on a running channel returns it to NO_VALUE. -/
  | meterConfigWrite (req site m off : Nat) (val : Word)
  /-- OUTPUT_PERIOD (R372): A meter output starts a new PWM or frequency period with the code for its source's present state. -/
  | outputPeriod (site o : Nat)
  /-- CAL_CMD_START (R380): CAL_CMD.START queues a full or partial calibration run on named channels. -/
  | calCmdStart (req site : Nat) (val : Word)
  /-- CAL_STEP (R378): A calibration step's conversions complete; the step is judged and retried, and the run advances or ends. -/
  | calStep (site : Nat) (res : CalSample)
  /-- CAL_CMD_ABORT (R383): CAL_CMD.ABORT aborts the active calibration run with no entry changed. -/
  | calCmdAbort (req site : Nat) (val : Word)
  /-- CAL_CMD_RESTORE (R387): CAL_CMD.RESTORE checks CAL_CRC_IN against word 31 and sets CAL_VALID, or is rejected. -/
  | calCmdRestore (req site : Nat) (val : Word)
  /-- CAL_DATA_WRITE (R387): A write of CAL_DATA writes one calibration word and advances CAL_ADDR, clearing CAL_VALID. -/
  | calDataWrite (req site : Nat) (val : Word)
  /-- CAL_DATA_READ (R387): A read of CAL_DATA returns one calibration word and advances CAL_ADDR. -/
  | calDataRead (req site : Nat)
  /-- SC_CMD_DARK (R385): SC_CMD.DARK starts a dark shading measurement into the named half. -/
  | scCmdDark (req site g : Nat) (val : Word)
  /-- SC_CMD_FLAT (R385): SC_CMD.FLAT starts a flat-field shading measurement into the named half. -/
  | scCmdFlat (req site g : Nat) (val : Word)
  /-- SC_CMD_ABORT (R384): SC_CMD.ABORT ends a shading measurement, leaving the half unchanged. -/
  | scCmdAbort (req site g : Nat) (val : Word)
  /-- SHADE_EXPOSURE (R384): The calibration timer starts an exposure whose codes are summed, or discarded on tap loss. -/
  | shadeExposure (site g : Nat) (codes : List Nat) (lost : Bool)
  /-- ENERGY_TICK (R390): Every 10 µs the gaffer updates E_ACC from the package energy estimate. -/
  | energyTick (e : Energy)
  /-- GAFFER_TICK (R394): Every 1 ms the gaffer sets each die's clock within floors, thermal limits and AVS_HOLD, and writes GAFFER_CAP. -/
  | gafferTick (temps : List (List Int))
  /-- TRIP (R397): A compute-die sensor reaching 115 °C stops the die's core, combine and engine clocks within 10 µs. -/
  | trip (site : Nat) (temps : List Int)
  /-- TRIP_CLEAR (R397): Every sensor of a tripped die falls below 100 °C and its clocks restart at 400 MHz. -/
  | tripClear (site : Nat) (temps : List Int)
  /-- PKG_BUDGET_WRITE (R389): A write of PKG_BUDGET or BURST_MS within its limits sets the budget and refills E_ACC to E_CAP. -/
  | pkgBudgetWrite (req off : Nat) (val : Word)
  /-- TRNG_VALID (R405): The TRNG gathers 256 tested bits, instantiates its DRBG and sets VALID. -/
  | trngValid
  /-- HEALTH_FAIL (R406): A TRNG health test fails; the pool is discarded and start-up testing restarts, or three failures in 1 s fault it. -/
  | healthFail (kind : HealthTest)
  /-- ENTROPY_FAIL (R405): VALID not set within 40 ms of release puts the TRNG in FAULT. -/
  | entropyFail
  /-- DRBG_RESEED (R406): Every 10 s or 2^20 requests the DRBG reseeds with 256 fresh bits. -/
  | drbgReseed
  /-- RAND (R407): A read of RAND returns 32 DRBG bits, or 0 while VALID is 0. -/
  | rand (req : Nat)
  /-- SESSION_OPEN (R411): Mailbox SESSION_OPEN makes an ephemeral key and writes a signed attestation report. -/
  | sessionOpen (t : Nat)
  /-- SESSION_BIND (R412): Mailbox SESSION_BIND checks the owner's key and derives K_wrap. -/
  | sessionBind (t : Nat)
  /-- SESSION_CLOSE (R418): Mailbox SESSION_CLOSE ends a non-confidential session and destroys its keys. -/
  | sessionClose (t : Nat)
  /-- CONF_ENTER (R416): Mailbox CONF_ENTER locks the debug page, zeroes the tenant's granules under a new key and sets CONF. -/
  | confEnter (t : Nat)
  /-- CONF_EXIT (R418): Mailbox CONF_EXIT clears the tenant's leftovers, destroys its keys and clears CONF. -/
  | confExit (t : Nat)
  /-- ATTEST_CERT (R411): Mailbox ATTEST_CERT writes the identity and intermediate certificates to tenant memory. -/
  | attestCert (t : Nat)
  /-- DBG_WIN_DATA_WRITE (R417): A write of DBG_WIN_DATA writes a word through the debug window and advances the address. -/
  | dbgWinDataWrite (req : Nat) (val : Word)
  /-- DBG_WIN_DATA_READ (R417): A read of DBG_WIN_DATA returns a word through the debug window and advances the address. -/
  | dbgWinDataRead (req : Nat)
  /-- ENS_FORM (R423): Mailbox ENS_FORM discovers, authenticates, numbers, routes and synchronises the packages and sets FORMED. -/
  | ensForm (t : Nat) (found : EnsFound)
  /-- ENS_REJOIN (R442): ENS_FORM with REJOIN readmits reachable lost packages under their former numbers. -/
  | ensRejoin (t : Nat) (found : EnsFound)
  /-- ENS_DISSOLVE (R442): Mailbox ENS_DISSOLVE returns every package to SOLO. -/
  | ensDissolve (t : Nat)
  /-- PORT_TRAINED (R425): A relay port reaches lane lock, deskew and FEC lock and proceeds to keying. -/
  | portTrained (site p : Nat)
  /-- TRAIN_FAIL (R425): A relay port fails to train within 100 ms and enters FAULT, retrying every 1 s. -/
  | trainFail (site p : Nat)
  /-- PEER_AUTH (R427): Peer key, certificate chain and measurement statement arrive and are verified; a failure faults the port. -/
  | peerAuth (site p : Nat) (peer : PeerStatement)
  /-- DATA_FRAME (R426): A relay DATA frame is received, checked and acknowledged, or a replay is requested. -/
  | dataFrame (site p : Nat) (f : RelayFrame)
  /-- ACK_FRAME (R426): A relay ACK frame acknowledges sent DATA frames. -/
  | ackFrame (site p : Nat) (f : RelayFrame)
  /-- TIME_FRAME (R432): A TIME frame lets a member discipline its clapper to the lead's. -/
  | timeFrame (site p : Nat) (f : RelayFrame)
  /-- CONTROL_FRAME (R425): A relay CONTROL frame carries formation, keying and loss messages. -/
  | controlFrame (site p : Nat) (f : RelayFrame)
  /-- LOSS_OF_SIGNAL (R426): No valid frame for 10 µs puts the port in FAULT and routes are replaced. -/
  | lossOfSignal (site p : Nat)
  /-- PKG_LOST (R440): No route reaches a package for 1 ms, or it reports a fatal error or main reset; the lead degrades the ensemble and aborts its takes. -/
  | pkgLost (p : Nat) (cause : LossCause)
  /-- ISOLATED (R441): A package losing every route to the lead ends its takes, splices its streams and unloads its slates. -/
  | isolated
  /-- GUARD_DEMAND (R450): A guard entry or fixed guard detects its condition and its pairs react in category 0 or 1. -/
  | guardDemand (site : Nat) (src : DemandSource)
  /-- MOTION_WINDOW (R448): Each 1 ms window the motion guard compares encoder and axis speed and discrepancy. -/
  | motionWindow (site : Nat)
  /-- INPUT_FAULT (R449): An input-pair discrepancy lasting DISC_MS sets INPUT_FAULT on the entry. -/
  | inputFault (site e : Nat)
  /-- INPUT_FAULT_CLEAR (R449): Both inputs agree without demanding for 100 ms and INPUT_FAULT clears. -/
  | inputFaultClear (site e : Nat)
  /-- STOP_MS_EXPIRE (R450): STOP_MS elapses in a category-1 stop and the pair is de-energised and latched. -/
  | stopMsExpire (site n : Nat)
  /-- MON_CMD_RESET (R452): MON_CMD.RESET energises latched pairs with no demand or fault present and releases their locks. -/
  | monCmdReset (req site : Nat) (val : Word)
  /-- RESET_IN (R452): A qualified press of RESET_IN lasting 100 ms to 5 s acts as a RESET when RESET_EN is 1. -/
  | resetIn (site ms : Nat)
  /-- TEST_PULSE (R453): Every 10 ms each energised output is pulsed off and read back, a failure de-energising the pair. -/
  | testPulse (site n : Nat) (outB ok : Bool)
  /-- DIAG_INTERVAL (R454): Every 10 ms the two channels run their diagnostics, a failure entering MON_FAULT and locking the die's field pages. -/
  | diagInterval (site : Nat) (fail : Option DiagFault)
  /-- MON_CMD_UNLOCK (R455): MON_ARG := CFG_CRC then MON_CMD.UNLOCK enters CONFIG when pairs are off and groups rest. -/
  | monCmdUnlock (req site : Nat) (val : Word)
  /-- MON_CMD_COMMIT (R456): MON_ARG := CRC then MON_CMD.COMMIT checks the configuration and enters SELF_TEST. -/
  | monCmdCommit (req site : Nat) (val : Word)
  /-- MON_CMD_ABORT_CFG (R455): MON_CMD.ABORT_CFG restores the committed region and returns to the prior state. -/
  | monCmdAbortCfg (req site : Nat) (val : Word)
  /-- SELF_TEST_DONE (R456): The monitor's self-test completes and it enters ACTIVE with pairs latched, or MON_FAULT. -/
  | selfTestDone (site : Nat) (ok : Bool)
  /-- SSO_CURRENT_LIMIT (R466): A safe-stop output in current limit for 5 ms switches off and reads back as a fault. -/
  | ssoCurrentLimit (site n : Nat) (outB : Bool)
  /-- LATCHED_READ (R53): A read of the lowest register of a multi-register value (POS_LO, TIME_NS, LINE_IDX_LO, TICK_LO, AX_POS_LO, WATERMARK_LO, SPL_LINE_LO and the like) latches the other registers for that requester alone. -/
  | latchedRead (req : Nat) (at_ : ReadAt)
  /-- REG_PARITY (R241): A register parity error on a field die faults its block with REG_PARITY. -/
  | regParity (site blk : Nat)
  /-- VAON_A_RETURN (R78): While VAON_B is selected, VAON_A rising to 3.10 V starts the 100 ms return count and sets RETURN_TIMING, and a dip below 3.10 V restarts it. -/
  | vaonAReturn (aMv bMv : Nat)
  /-- VFIO_A_RETURN (R79): While VFIO_B is selected, VFIO_A rising to 20.0 V starts the 100 ms return count and sets RETURN_TIMING, and a dip restarts it. -/
  | vfioAReturn (site aMv bMv : Nat)
  /-- CLAMP_END (R364): The last clamped pin of a meter channel returns to its linear range, clearing CLAMP and starting the 100 ms before excitation returns. -/
  | clampEnd (site m : Nat)
  /-- POLL_END (R285): A sensor status poll transfer ends; its reply is compared with POLL_EXPECT under POLL_MASK, a mismatch being a SENSOR_STATUS gate fault, and a waiting host transfer starts. -/
  | pollEnd (site g rx : Nat)
  /-- TAP_INSTRUCTION (R417): An instruction loaded into the IEEE 1149.1 TAP takes effect, selecting BYPASS in place of any instruction other than IDCODE, BYPASS and SAMPLE/PRELOAD while a tenant is confidential. -/
  | tapInstruction (code : Nat)
  deriving DecidableEq, Repr

end Sys2Proof
end

