-- ==== Sys2Proof/WellFormed.lean ====
section
/-!
DEFINITION. WellFormed.lean: which commands are well formed: every operand lies in the range that its own name has in the
manual (requester codes of REJ_INFO, 03; site codes and blocks, 03 R49; the instances of each unit, 01). Every command has its
meaning; one that is not well formed names nothing that the block has.
-/
namespace Sys2Proof

/-- A requester code of REJ_INFO (03): a PCIe function 0-15, the control core, the boot master, a relay, the debug port. -/
def reqOk (r : Nat) : Bool := decide (r < 20)
/-- A site code (03 R49; 24): compute sites 0-3, X0 to X3 at 8-11. -/
def siteOk (x : Nat) : Bool := decide (x < 4) || (decide (8 ≤ x) && decide (x < 12))
/-- A block index within a site (03 R49). -/
def blkOk (b : Nat) : Bool := decide (b < 1024)
/-- A core of a compute die (07). -/
def coreOk (c : Nat) : Bool := decide (c < 64)
/-- A tenant (06). -/
def tenantOk (t : Nat) : Bool := decide (t < 16)
/-- A dailies ring (06): one a stream, and the event ring. -/
def ringOk (d : Nat) : Bool := decide (d ≤ 32)
/-- A BAR0 offset (06 R109: 64 MiB, 1 GiB at a lead), or from 2^32 on a BAR2 offset. -/
def addrOk (a : Nat) : Bool := decide (a < 2 ^ 30) || (decide (2 ^ 32 ≤ a) && decide (a < 2 ^ 32 + 2 ^ 13))
/-- A register offset within a page (03 R49). -/
def offOk (o : Nat) : Bool := decide (o < 4096) && o % 4 == 0
/-- A node of a combine tree held by a bay's unit (08). -/
def nodeOk (n : Nat) : Bool := decide (n < 64)
/-- A limit input (15 R331). -/
def inputOk (i : Nat) : Bool := decide (i < 32)
/-- A take descriptor is 256 bytes (06 R115). -/
def descOk (d : List Byte) : Bool := d.length == 256
/-- An epoch number (10). -/
def epochOk (e : Nat) : Bool := decide (e < 1024)
def lt4 (x : Nat) : Bool := decide (x < 4)
def lt6 (x : Nat) : Bool := decide (x < 6)
def lt8 (x : Nat) : Bool := decide (x < 8)
def lt16 (x : Nat) : Bool := decide (x < 16)
/-- A PTP message: ports 0 and 1, an 8-bit domain, a 16-bit sequence, a 64-bit clockIdentity (02 R35). -/
def msgOk (m : PtpMsg) : Bool := decide (m.port < 8) && decide (m.domain < 256) && decide (m.transport < 2) && decide (m.seq < 65536) && decide (m.gm < 2 ^ 64)
/-- An Announce dataset (02 R35). -/
def annOk (a : PtpAnnounce) : Bool := decide (a.domain < 256) && decide (a.prio1 < 256) && decide (a.prio2 < 256) && decide (a.gm < 2 ^ 64)
/-- A scheduled action (02). -/
def actOk : ActionRef → Bool
  | .cev n => lt4 n
  | .slot site k => siteOk site && lt4 k
  | .seg site a => siteOk site && lt16 a
/-- A relay frame names packages 0-15 (21 R424). -/
def frameOk (f : RelayFrame) : Bool := decide (f.srcPkg < 16) && decide (f.dstPkg < 16)
/-- A peer statement names a package 0-15 and a port 0-3 (21 R427). -/
def peerOk (x : PeerStatement) : Bool := decide (x.package < 16) && decide (x.port < 4)

/-- Whether a command is well formed. -/
def Instr.wf (i : Instr) : Bool :=
  match i with
  | .registerWrite req addr val be => reqOk req && addrOk addr && decide (be < (if val.hi.isSome then 256 else 16))
  | .absentWrite req addr => reqOk req && addrOk addr
  | .ctrlEnSet req site blk => reqOk req && siteOk site && blkOk blk
  | .ctrlEnClear req site blk => reqOk req && siteOk site && blkOk blk
  | .softReset req site blk => reqOk req && siteOk site && blkOk blk
  | .blockReady site blk => siteOk site && blkOk blk
  | .stopComplete site blk => siteOk site && blkOk blk
  | .pendingStart site blk => siteOk site && blkOk blk
  | .evtRawClear req site blk _ _ => reqOk req && siteOk site && blkOk blk
  | .faultCodeClear req site blk _ => reqOk req && siteOk site && blkOk blk
  | .txnOpen req site blk _ => reqOk req && siteOk site && blkOk blk
  | .txnCommit req site blk _ => reqOk req && siteOk site && blkOk blk
  | .txnAbort req site blk _ => reqOk req && siteOk site && blkOk blk
  | .txnStaged site slot => siteOk site && lt4 slot
  | .txnBoundary site slot => siteOk site && lt4 slot
  | .stagedReport pkg site group => lt16 pkg && siteOk site && lt16 group
  | .groupReportDeadline group => lt16 group
  | .groupAbort group => lt16 group
  | .crossApply site group => siteOk site && lt16 group
  | .encoderEdge site e _ => siteOk site && lt8 e
  | .qerr site e => siteOk site && lt8 e
  | .encLineBroken site e _ => siteOk site && lt8 e
  | .index site e _ => siteOk site && lt8 e
  | .periodNoMotion site e => siteOk site && lt8 e
  | .uncClr req site e => reqOk req && siteOk site && lt8 e
  | .lineTrigger site g => siteOk site && lt8 g
  | .lateTrigger site g => siteOk site && lt8 g
  | .pitchArm req site g _ => reqOk req && siteOk site && lt8 g
  | .cevArm req n _ => reqOk req && lt4 n
  | .clapperAction x => actOk x
  | .tickAction x => actOk x
  | .ptpSync m => msgOk m
  | .ptpFollowUp m => msgOk m
  | .delayReq => true
  | .ptpDelayResp m => msgOk m
  | .ptpAnnounce a => annOk a
  | .announceReceiptTimeout => true
  | .ppsInEdge => true
  | .ppsMissing => true
  | .holdoverMaxExpire => true
  | .ppsOut => true
  | .clkCmdSet req _ => reqOk req
  | .clkCfgWrite req _ => reqOk req
  | .toBackup _ _ => true
  | .toMain => true
  | .vaonBFall _ _ => true
  | .fioToBackup site _ _ => siteOk site
  | .fioToMain site => siteOk site
  | .fioLost site _ _ => siteOk site
  | .fioRestored site _ _ => siteOk site
  | .mainLost => true
  | .mainPgRise => true
  | .mainRelease => true
  | .aonPowerOnReset => true
  | .porN _ => true
  | .rstCmd req _ => reqOk req
  | .sysRstN _ => true
  | .perst => true
  | .trstN _ => true
  | .avsFault _ _ => true
  | .avsAck _ _ => true
  | .watchdogExpire site core => siteOk site && coreOk core
  | .aonBoot _ _ => true
  | .mainBoot _ _ => true
  | .pcieConfigRequest r => lt16 r.fn && (match r.vfs with | some n => lt16 n | none => true)
  | .recCmdGo req _ => reqOk req
  | .mbAck req t _ => reqOk req && tenantOk t
  | .getFwInfo t => tenantOk t
  | .svnRaise t => tenantOk t
  | .flRead req => reqOk req
  | .flProgram req => reqOk req
  | .erase4K req => reqOk req
  | .erase64K req => reqOk req
  | .flDone _ _ => true
  | .linkFail => true
  | .linkChange _ _ => true
  | .sqTail req t q _ => reqOk req && tenantOk t && lt8 q
  | .take t q desc => tenantOk t && lt8 q && descOk desc
  | .fence t q desc => tenantOk t && lt8 q && descOk desc
  | .takeStart => true
  | .takeEnd t q _ => tenantOk t && lt8 q
  | .completionRecord t q => tenantOk t && lt8 q
  | .intModDelay t q => tenantOk t && lt8 q
  | .abortAll req t q _ _ => reqOk req && tenantOk t && lt8 q
  | .flr fn => lt16 fn
  | .dailiesWrite d => ringOk d
  | .exportData d => ringOk d
  | .exportAck d _ _ => ringOk d
  | .exportRetry d => ringOk d
  | .matmul site core => siteOk site && coreOk core
  | .matmulAct site core => siteOk site && coreOk core
  | .conv2d site core => siteOk site && coreOk core
  | .ew site core => siteOk site && coreOk core
  | .act site core => siteOk site && coreOk core
  | .convert site core => siteOk site && coreOk core
  | .norm site core => siteOk site && coreOk core
  | .softmax site core => siteOk site && coreOk core
  | .reduce site core => siteOk site && coreOk core
  | .pool site core => siteOk site && coreOk core
  | .dwconv site core => siteOk site && coreOk core
  | .transpose site core => siteOk site && coreOk core
  | .gather site core => siteOk site && coreOk core
  | .copy site core => siteOk site && coreOk core
  | .barrier site core => siteOk site && coreOk core
  | .barrierRelease site core => siteOk site && coreOk core
  | .flagWait site core => siteOk site && coreOk core
  | .flagSet site core => siteOk site && coreOk core
  | .cuePush site core => siteOk site && coreOk core
  | .cuePop site core => siteOk site && coreOk core
  | .dma site core => siteOk site && coreOk core
  | .endOp site core => siteOk site && coreOk core
  | .opRetire site core => siteOk site && coreOk core
  | .opOverrun site core => siteOk site && coreOk core
  | .profClr req site core _ => reqOk req && siteOk site && coreOk core
  | .partialArrive site bay node _ _ core => siteOk site && lt4 bay && nodeOk node && coreOk core
  | .combineNodeTile site bay node _ core => siteOk site && lt4 bay && nodeOk node && coreOk core
  | .cmbParity site bay => siteOk site && lt4 bay
  | .slateLoad t _ => tenantOk t
  | .slateUnload t => tenantOk t
  | .unloadComplete _ => true
  | .slateQuery t => tenantOk t
  | .boundRecord t => tenantOk t
  | .clearAll req site _ => reqOk req && siteOk site
  | .epochCancel epoch => epochOk epoch
  | .dmaTransfer site core q => siteOk site && coreOk core && lt4 q
  | .dmaTransferDone site core q => siteOk site && coreOk core && lt4 q
  | .relayTile site core q => siteOk site && coreOk core && lt4 q
  | .dmaTimeout site core q => siteOk site && coreOk core && lt4 q
  | .dmaParity site core q => siteOk site && coreOk core && lt4 q
  | .relayParity site core => siteOk site && coreOk core
  | .clrPeak req site _ => reqOk req && siteOk site
  | .mmuCmdInvalidate req t _ => reqOk req && tenantOk t
  | .invDone t => tenantOk t
  | .mmuCmdResume req t _ => reqOk req && tenantOk t
  | .mmuCmdResumeFail req t _ => reqOk req && tenantOk t
  | .mmuSetRoot t => tenantOk t
  | .mmuInvalidate t => tenantOk t
  | .faultList t => tenantOk t
  | .resume t => tenantOk t
  | .granOwner req _ => reqOk req
  | .granDone => true
  | .correctedError site _ _ => siteOk site
  | .uncorrectableError site _ _ => siteOk site
  | .scrub site _ _ => siteOk site
  | .dieFatalError site _ => siteOk site
  | .siteReturned site => siteOk site
  | .pkgFatal _ => true
  | .linkReplay site _ => siteOk site
  | .filterUnit site e => siteOk site && lt6 e
  | .pyramidUnit site e => siteOk site && lt6 e
  | .matchUnit site e => siteOk site && lt6 e
  | .unitDone site e => siteOk site && lt6 e
  | .unitOverrun site e => siteOk site && lt6 e
  | .clrMax req site e _ => reqOk req && siteOk site && lt6 e
  | .tapBurst site g tap words => siteOk site && lt8 g && lt16 tap && words.all (fun w => decide (w < 2 ^ 16))
  | .rdClose site g => siteOk site && lt8 g
  | .dcoLost site g => siteOk site && lt8 g
  | .dcoReturn site g => siteOk site && lt8 g
  | .aligned site g _ => siteOk site && lt8 g
  | .alignFail site g => siteOk site && lt8 g
  | .sensorPoll site g => siteOk site && lt8 g
  | .goSpi req site g _ => reqOk req && siteOk site && lt8 g
  | .spiDone site g _ => siteOk site && lt8 g
  | .shdDataWrite req site g _ => reqOk req && siteOk site && lt8 g
  | .shdDataRead req site g => reqOk req && siteOk site && lt8 g
  | .slotPublish site str => siteOk site && lt16 str
  | .pipeSet t => tenantOk t
  | .perfReport site str => siteOk site && lt16 str
  | .frameDescPush site str => siteOk site && lt16 str
  | .layerReceive site k layer => siteOk site && lt16 k && lt16 layer
  | .frameEmit site str => siteOk site && lt16 str
  | .frameHoldExpire site str => siteOk site && lt16 str
  | .segTail req site a _ => reqOk req && siteOk site && lt16 a
  | .segArm req site a _ => reqOk req && siteOk site && lt16 a
  | .segStart site a => siteOk site && lt16 a
  | .segDone site a => siteOk site && lt16 a
  | .pwmPeriod site a _ => siteOk site && lt16 a
  | .modeSwitch site a => siteOk site && lt16 a
  | .atHold site a => siteOk site && lt16 a
  | .clrLock req site a _ => reqOk req && siteOk site && lt16 a
  | .grpCmdStop req site g _ => reqOk req && siteOk site && lt8 g
  | .atRest site g => siteOk site && lt8 g
  | .grpCmdRelease req site g _ => reqOk req && siteOk site && lt8 g
  | .limitQualify site idx _ => siteOk site && inputOk idx
  | .overcurrent site a => siteOk site && lt16 a
  | .senseFail site a => siteOk site && lt16 a
  | .paceStep site g => siteOk site && lt8 g
  | .pacingTick site g => siteOk site && lt8 g
  | .achievedReport site g => siteOk site && lt8 g
  | .pcCmdStop req site g _ => reqOk req && siteOk site && lt8 g
  | .pcCmdResume req site g _ => reqOk req && siteOk site && lt8 g
  | .pcCmdSkip req site g _ => reqOk req && siteOk site && lt8 g
  | .restartRunUp site g => siteOk site && lt8 g
  | .autoResumed site g => siteOk site && lt8 g
  | .meterConversion site m _ => siteOk site && lt8 m
  | .excOvercurrent site m => siteOk site && lt8 m
  | .excReturn site m => siteOk site && lt8 m
  | .clamp site m => siteOk site && lt8 m
  | .clampFault site m => siteOk site && lt8 m
  | .adcFail site m => siteOk site && lt8 m
  | .refFault site _ => siteOk site
  | .meterConfigWrite req site m off _ => reqOk req && siteOk site && lt8 m && offOk off
  | .outputPeriod site o => siteOk site && lt8 o
  | .calCmdStart req site _ => reqOk req && siteOk site
  | .calStep site _ => siteOk site
  | .calCmdAbort req site _ => reqOk req && siteOk site
  | .calCmdRestore req site _ => reqOk req && siteOk site
  | .calDataWrite req site _ => reqOk req && siteOk site
  | .calDataRead req site => reqOk req && siteOk site
  | .scCmdDark req site g _ => reqOk req && siteOk site && lt8 g
  | .scCmdFlat req site g _ => reqOk req && siteOk site && lt8 g
  | .scCmdAbort req site g _ => reqOk req && siteOk site && lt8 g
  | .shadeExposure site g codes _ => siteOk site && lt8 g && codes.all (fun w => decide (w < 2 ^ 16))
  | .energyTick _ => true
  | .gafferTick _ => true
  | .trip site _ => siteOk site
  | .tripClear site _ => siteOk site
  | .pkgBudgetWrite req off _ => reqOk req && offOk off
  | .trngValid => true
  | .healthFail _ => true
  | .entropyFail => true
  | .drbgReseed => true
  | .rand req => reqOk req
  | .sessionOpen t => tenantOk t
  | .sessionBind t => tenantOk t
  | .sessionClose t => tenantOk t
  | .confEnter t => tenantOk t
  | .confExit t => tenantOk t
  | .attestCert t => tenantOk t
  | .dbgWinDataWrite req _ => reqOk req
  | .dbgWinDataRead req => reqOk req
  | .ensForm t _ => tenantOk t
  | .ensRejoin t _ => tenantOk t
  | .ensDissolve t => tenantOk t
  | .portTrained site p => siteOk site && lt4 p
  | .trainFail site p => siteOk site && lt4 p
  | .peerAuth site p peer => siteOk site && lt4 p && peerOk peer
  | .dataFrame site p f => siteOk site && lt4 p && frameOk f
  | .ackFrame site p f => siteOk site && lt4 p && frameOk f
  | .timeFrame site p f => siteOk site && lt4 p && frameOk f
  | .controlFrame site p f => siteOk site && lt4 p && frameOk f
  | .lossOfSignal site p => siteOk site && lt4 p
  | .pkgLost p _ => lt16 p
  | .isolated => true
  | .guardDemand site _ => siteOk site
  | .motionWindow site => siteOk site
  | .inputFault site e => siteOk site && lt16 e
  | .inputFaultClear site e => siteOk site && lt16 e
  | .stopMsExpire site n => siteOk site && lt4 n
  | .monCmdReset req site _ => reqOk req && siteOk site
  | .resetIn site _ => siteOk site
  | .testPulse site n _ _ => siteOk site && lt4 n
  | .diagInterval site _ => siteOk site
  | .monCmdUnlock req site _ => reqOk req && siteOk site
  | .monCmdCommit req site _ => reqOk req && siteOk site
  | .monCmdAbortCfg req site _ => reqOk req && siteOk site
  | .selfTestDone site _ => siteOk site
  | .ssoCurrentLimit site n _ => siteOk site && lt4 n
  | .latchedRead req at_ => reqOk req && addrOk at_.addr
  | .regParity site blk => siteOk site && blkOk blk
  | .vaonAReturn _ _ => true
  | .vfioAReturn site _ _ => siteOk site
  | .clampEnd site m => siteOk site && lt8 m
  | .pollEnd site g _ => siteOk site && lt8 g
  | .tapInstruction _ => true

end Sys2Proof
end

