-- ==== Sys2Proof/Decode.lean ====
section
/-!
DEFINITION. Decode.lean: the command table gives its rows no bits (spec/opcode_table.json: every row's "fields" is empty), because
a command of this block arrives as a bus access, a message or a pin event with its operands, and no word spells it.
-/
namespace Sys2Proof

/-- The command that a word of `nbits` bits spells by the table's bits: none, as no row of the table gives bits. -/
def decodeTableWord (_nbits _w : Nat) : Option Instr := none

end Sys2Proof
end

