-- ==== Sys2Proof/Machine/Sparse.lean ====
section
/-!
DEFINITION. Machine/Sparse.lean: sparse tables in one canonical form (keys strictly rising, no entry equal to what an
unlisted key reads as). Registers, memories and the per-instance records of every unit are held in such tables, so
that equal contents are equal data. And the bit-field helpers over a 32-bit register (00 R6).
-/
namespace Sys2Proof.Machine

/-- What key `k` of the table holds; `d` is what an unlisted key reads as. -/
def tabGet {β : Type} (d : β) : List (Nat × β) → Nat → β
  | [], _ => d
  | (a, b) :: t, k => if a = k then b else tabGet d t k

/-- Insert an entry before the first greater key. -/
def tabIns {β : Type} (k : Nat) (v : β) : List (Nat × β) → List (Nat × β)
  | [] => [(k, v)]
  | (a, b) :: t => if a < k then (a, b) :: tabIns k v t else (k, v) :: (a, b) :: t

/-- Drop the entry of a key. -/
def tabDrop {β : Type} (k : Nat) : List (Nat × β) → List (Nat × β)
  | [] => []
  | (a, b) :: t => if a = k then tabDrop k t else (a, b) :: tabDrop k t

/-- Write key `k`: a value equal to the unlisted reading `d` removes the entry. -/
def tabPut {β : Type} [DecidableEq β] (d : β) (t : List (Nat × β)) (k : Nat) (v : β) : List (Nat × β) :=
  if v = d then tabDrop k t else tabIns k v (tabDrop k t)

/-- Keys strictly rise, and each is at least `lo`. -/
def tabRising {β : Type} (lo : Nat) : List (Nat × β) → Bool
  | [] => true
  | (a, _) :: t => decide (lo ≤ a) && tabRising (a + 1) t

/-- The canonical form of a table whose unlisted key `k` reads as `d k`. -/
def tabWf {β : Type} [DecidableEq β] (d : Nat → β) (t : List (Nat × β)) : Bool :=
  tabRising 0 t && t.all (fun p => decide (p.2 ≠ d p.1))

/-- Write a run of values at rising keys. -/
def tabPutList {β : Type} [DecidableEq β] (d : β) (t : List (Nat × β)) (k : Nat) : List β → List (Nat × β)
  | [] => t
  | v :: vs => tabPutList d (tabPut d t k v) (k + 1) vs

/-- Read `n` values at rising keys. -/
def tabGetList {β : Type} (d : β) (t : List (Nat × β)) (k : Nat) : Nat → List β
  | 0 => []
  | n + 1 => tabGet d t k :: tabGetList d t (k + 1) n

/-- Drop every entry whose key lies in [lo, lo + n). -/
def tabDropRange {β : Type} (lo n : Nat) : List (Nat × β) → List (Nat × β)
  | [] => []
  | (a, b) :: t => if lo ≤ a ∧ a < lo + n then tabDropRange lo n t else (a, b) :: tabDropRange lo n t

/-- The field of `w` bits from bit `lo` of a register, as a number. -/
def fld (v : Word) (lo w : Nat) : Nat := v.toNat / 2 ^ lo % 2 ^ w

/-- The mask of the field of `w` bits from bit `lo`. -/
def fldMask (lo w : Nat) : Word := BitVec.ofNat 32 ((2 ^ w - 1) * 2 ^ lo)

/-- `v` with the field of `w` bits from bit `lo` set to `x` (truncated to the field). -/
def setFld (v : Word) (lo w x : Nat) : Word :=
  (v &&& ~~~ fldMask lo w) ||| BitVec.ofNat 32 (x % 2 ^ w * 2 ^ lo)

/-- Bit `i` of a register. -/
def bitOf (v : Word) (i : Nat) : Bool := v.getLsbD i

/-- `v` with bit `i` set to `b`. -/
def setBit (v : Word) (i : Nat) (b : Bool) : Word :=
  if b then v ||| (1#32 <<< i) else v &&& ~~~ (1#32 <<< i)

/-- A signed number as a 32-bit two's-complement register value. -/
def wordOfInt (x : Int) : Word := BitVec.ofInt 32 x

/-- Saturation of a signed number to `[-m, m]`. -/
def satInt (m x : Int) : Int := if x < -m then -m else if x > m then m else x

/-- Saturation of a counter at `m`. -/
def satNat (m x : Nat) : Nat := if m < x then m else x

/-- A signed number modulo 2^48 read as a signed 48-bit value. -/
def wrapS48 (x : Int) : Int := (x + 2 ^ 47) % 2 ^ 48 - 2 ^ 47

/-- Division rounding to the nearest integer, ties to even: the manual's rne(n ÷ d) for d > 0. -/
def rneDiv (n : Int) (d : Nat) : Int :=
  let q := n / (d : Int)
  let r := n % (d : Int)
  if 2 * r < d then q else if (d : Int) < 2 * r then q + 1 else if q % 2 = 0 then q else q + 1

end Sys2Proof.Machine
end

