-- ==== Sys2Proof/Machine/Pages.lean ====
section
/-!
DEFINITION. Machine/Pages.lean: the page map (24) and the register tables of every page: which page lies at a site and
block (24 R479, R480), and for each register its offset, access code (00 R5), reset value, writable bits, reserved bits
that are checked (00 R7) and field limits. Each chapter's own page tables give the rows.
-/
namespace Sys2Proof.Machine

/-- Register access codes (00 R5). `cmd` is a write-only register whose write is a command of its own. -/
inductive Acc | ro | rw | rws | rwl | wo
  deriving DecidableEq, Repr

/-- One row of a page's register table; `n` registers lie `step` bytes apart. -/
structure RegDef where
  off : Nat
  acc : Acc
  rst : Nat := 0
  wm : Nat := 0xFFFFFFFF
  chk : Nat := 0
  w1c : Nat := 0
  lims : List (Nat × Nat × Nat × Nat) := []
  offOnly : Bool := false
  n : Nat := 1
  step : Nat := 4
  deriving DecidableEq, Repr

/-- The die types (01 What each die contains). -/
inductive Die | none | compute | host | link | field
  deriving DecidableEq, Repr

/-- Which die sits at a site in fitting `asm` (01 R11): 0 SB-4C8M-HL, 1 SB-4C8M-HLL, 2 SB-4C4M-HLF, 3 SB-2C2M-HFF. -/
def dieAt (asm site : Nat) : Die :=
  if site < 2 then .compute
  else if site < 4 then (if asm = 3 then .none else .compute)
  else if site = 8 then .host
  else if site = 9 then (if asm = 3 then .field else .link)
  else if site = 10 then (if asm = 1 then .link else .none)
  else if site = 11 then (if asm = 2 ∨ asm = 3 then .field else .none)
  else .none

/-- Whether stack `m` is fitted (01 R11): all eight, or M0, M2, M4, M6, or M0 and M2. -/
def stackFitted (asm m : Nat) : Bool :=
  if asm ≤ 1 then decide (m < 8) else if asm = 2 then decide (m < 8) && m % 2 == 0 else m == 0 || m == 2

/-- Stacks fitted, and STACK_LIST (11 R226): four bits a position, the pair and the odd one of it. -/
def stackTotal (asm : Nat) : Nat := ((List.range 8).filter (stackFitted asm)).length
def stackList (asm : Nat) : Nat :=
  let l := (List.range 8).filter (stackFitted asm)
  (List.range l.length).foldl (fun t k => t + (l.getD k 0 / 2 + l.getD k 0 % 2 * 8) * 16 ^ k) 0

/-- Streams of the assembly: 16 on each field die (01). -/
def streamCount (asm : Nat) : Nat := if asm = 2 then 16 else if asm = 3 then 32 else 0

/-- Sustained budget ASM_BUDGET in watts (19 R389). -/
def asmBudget (asm : Nat) : Nat := if asm ≤ 1 then 520 else if asm = 2 then 450 else 280

/-- SITE_FITTED (01): bits 3:0 C, 11:4 M, 15:12 X. -/
def siteFitted (asm : Nat) : Nat :=
  if asm = 0 then 0x3FFF else if asm = 1 then 0x7FFF else if asm = 2 then 0xB55F else 0xB053

/-- IO_TYPE (01): four bits each for X0-X3; 0 empty, 1 H, 2 L, 3 F. -/
def ioType (asm : Nat) : Nat :=
  if asm = 0 then 0x0021 else if asm = 1 then 0x0221 else if asm = 2 then 0x3021 else 0x3031

/-- Block type code of the page at a site and block, 0 where the map lists none (24 R479, R480). -/
def pageType (asm site blk : Nat) : Nat :=
  match dieAt asm site with
  | .none => 0
  | .host =>
    if blk = 0 then 0x01 else if blk = 1 then 0x02 else if blk = 2 then 0x03 else if blk = 3 then 0x04
    else if blk = 4 then 0x05 else if blk = 5 then 0x0B else if blk = 6 then 0x07 else if blk = 7 then 0x0C
    else if blk = 8 then 0x0D else if blk = 9 then 0x0E else if blk = 10 then 0x0F else if blk = 12 then 0x10
    else if 0x20 ≤ blk ∧ blk < 0x30 then 0x06 else if 0x40 ≤ blk ∧ blk < 0x50 then 0x0A
    else if 0x80 ≤ blk ∧ blk < 0x80 + streamCount asm then 0x09 else if blk = 0xA0 then 0x09
    else if 0x100 ≤ blk ∧ blk < 0x180 then 0x08 else 0
  | .compute =>
    if blk = 8 then 0x46 else if blk = 9 then 0x45 else if blk = 10 then 0x48 else if blk = 11 then 0x4C
    else if blk = 12 ∨ blk = 13 then 0x47 else if 0x50 ≤ blk ∧ blk < 0x54 then 0x44
    else if blk = 0x60 ∨ blk = 0x61 then 0x49 else if blk = 0x62 ∨ blk = 0x63 then 0x4A
    else if blk = 0x64 ∨ blk = 0x65 then 0x4B
    else if 0x100 ≤ blk ∧ blk < 0x140 then 0x40 else if 0x140 ≤ blk ∧ blk < 0x180 then 0x41 else 0
  | .link => if 0x10 ≤ blk ∧ blk < 0x14 then 0x50 else 0
  | .field =>
    if blk = 2 then 0x32 else if 0x10 ≤ blk ∧ blk < 0x18 then 0x30 else if 0x18 ≤ blk ∧ blk < 0x20 then 0x31
    else if 0x20 ≤ blk ∧ blk < 0x28 then 0x33 else if 0x28 ≤ blk ∧ blk < 0x38 then 0x34
    else if 0x38 ≤ blk ∧ blk < 0x40 then 0x35 else if 0x40 ≤ blk ∧ blk < 0x50 then 0x37
    else if 0x50 ≤ blk ∧ blk < 0x58 then 0x38 else if blk = 0x58 then 0x39
    else if 0x60 ≤ blk ∧ blk < 0x70 then 0x36 else if 0x70 ≤ blk ∧ blk < 0x78 then 0x3A
    else if 0x78 ≤ blk ∧ blk < 0x80 then 0x3B else if 0x80 ≤ blk ∧ blk < 0x88 then 0x3C
    else if blk = 0x88 then 0x3D else if blk = 0x90 then 0x3E else 0

/-- PAGE_CAP.HAS_CTRL of a block type. -/
def hasCtrl (ty : Nat) : Bool :=
  ty == 0x30 || ty == 0x33 || ty == 0x34 || ty == 0x35 || ty == 0x37 || ty == 0x3B || ty == 0x3C || ty == 0x08
    || ty == 0x09 || ty == 0x0A || ty == 0x0F || ty == 0x40 || ty == 0x44 || ty == 0x47 || ty == 0x49 || ty == 0x4A
    || ty == 0x4B || ty == 0x50

/-- PAGE_CAP.HAS_TXN of a block type. -/
def hasTxn (ty : Nat) : Bool :=
  ty == 0x30 || ty == 0x31 || ty == 0x33 || ty == 0x34 || ty == 0x35 || ty == 0x36 || ty == 0x37 || ty == 0x38
    || ty == 0x39 || ty == 0x3A || ty == 0x3B || ty == 0x3C

/-- PAGE_CAP.HAS_RWL of a block type. -/
def hasRwl (ty : Nat) : Bool :=
  ty == 0x37 || ty == 0x39 || ty == 0x0F || ty == 0x40 || ty == 0x41 || ty == 0x44 || ty == 0x45 || ty == 0x49
    || ty == 0x4A || ty == 0x4B

/-- The common layout's registers below 0x040 that the generic write rule reaches (03 Control). CTRL, EVT_RAW,
FAULT_CODE and TXN_CTRL have rows of their own. -/
def commonRegs : List RegDef :=
  [{ off := 0x000, acc := .ro }, { off := 0x004, acc := .ro }, { off := 0x008, acc := .rws, wm := 1, chk := 0xFFFFFFF8 },
   { off := 0x00C, acc := .ro }, { off := 0x010, acc := .rw, wm := 0, w1c := 0x7FFFFFFF }, { off := 0x014, acc := .rw },
   { off := 0x018, acc := .ro }, { off := 0x01C, acc := .rw },
   { off := 0x020, acc := .rw, wm := 0x00FF0F8B, chk := 0xFF00F004 }, { off := 0x024, acc := .ro },
   { off := 0x028, acc := .rw }, { off := 0x02C, acc := .rw }, { off := 0x030, acc := .ro }, { off := 0x034, acc := .ro },
   { off := 0x038, acc := .ro }, { off := 0x03C, acc := .ro }]

/-- Encoder, position unit and clapper pages (02 Control). -/
def regsPosition (ty : Nat) : List RegDef :=
  if ty = 0x30 then
    [{ off := 0x040, acc := .rws, rst := 0x00080008, wm := 0x00FF07FF, chk := 0xFF00F800, lims := [(0, 8, 2, 255), (16, 8, 1, 255)] },
     { off := 0x044, acc := .rws }, { off := 0x048, acc := .ro }, { off := 0x04C, acc := .ro }, { off := 0x050, acc := .ro },
     { off := 0x054, acc := .rw, lims := [(0, 32, 0, 0)] }, { off := 0x058, acc := .ro, rst := 0xFFFFFF },
     { off := 0x05C, acc := .ro }, { off := 0x060, acc := .ro }, { off := 0x064, acc := .rw, rst := 0xFFFF },
     { off := 0x068, acc := .rw, rst := 4 }, { off := 0x06C, acc := .wo }]
  else if ty = 0x31 then
    [{ off := 0x040, acc := .rws, wm := 7, chk := 0xFFFFFFF8 }, { off := 0x044, acc := .rws, rst := 0x10000, lims := [(0, 32, 1, 0xFFFFFFFF)] },
     { off := 0x048, acc := .rws }, { off := 0x04C, acc := .rws, wm := 0xFFFF }, { off := 0x050, acc := .rw },
     { off := 0x054, acc := .rw }, { off := 0x058, acc := .rw }, { off := 0x05C, acc := .rw, wm := 2, w1c := 0x200 },
     { off := 0x060, acc := .ro }, { off := 0x064, acc := .ro }, { off := 0x068, acc := .ro }, { off := 0x06C, acc := .ro },
     { off := 0x070, acc := .ro }]
  else
    [{ off := 0x040, acc := .rw, rst := 0x00647F00, wm := 0xFFFFFF1F, chk := 0xE0, lims := [(0, 2, 0, 2), (8, 8, 0, 127), (16, 8, 1, 250)] },
     { off := 0x044, acc := .ro }, { off := 0x048, acc := .ro }, { off := 0x04C, acc := .ro }, { off := 0x050, acc := .ro },
     { off := 0x054, acc := .wo }, { off := 0x058, acc := .wo }, { off := 0x05C, acc := .wo, wm := 0xFFFF },
     { off := 0x060, acc := .wo }, { off := 0x064, acc := .ro, rst := 0x28000000 }, { off := 0x068, acc := .rw, rst := 100000 },
     { off := 0x06C, acc := .ro }, { off := 0x070, acc := .rw, rst := 1000000 }, { off := 0x074, acc := .ro },
     { off := 0x078, acc := .ro }, { off := 0x07C, acc := .ro },
     { off := 0x080, acc := .rw, n := 4, step := 16 }, { off := 0x084, acc := .rw, n := 4, step := 16 },
     { off := 0x088, acc := .rw, wm := 6, w1c := 0x200, n := 4, step := 16 }, { off := 0x08C, acc := .ro, n := 4, step := 16 }]

/-- Assembly, supply, boot, flash, mailbox and interrupt pages (01, 04, 05, 06 Control). -/
def regsHostA (ty : Nat) : List RegDef :=
  if ty = 0x01 then
    [{ off := 0x040, acc := .ro, n := 6 }, { off := 0x058, acc := .ro, rst := 16 }]
  else if ty = 0x03 then
    [{ off := 0x040, acc := .ro, n := 11 }, { off := 0x06C, acc := .wo }]
  else if ty = 0x32 then [{ off := 0x040, acc := .ro, n := 5 }]
  else if ty = 0x04 then
    [{ off := 0x040, acc := .ro, n := 6 }, { off := 0x058, acc := .rw, n := 3 }, { off := 0x064, acc := .wo, wm := 1 },
     { off := 0x068, acc := .ro }]
  else if ty = 0x05 then
    [{ off := 0x040, acc := .ro, rst := 0x32000218 }, { off := 0x044, acc := .rw }, { off := 0x048, acc := .wo, wm := 7 },
     { off := 0x04C, acc := .ro }, { off := 0x050, acc := .ro }, { off := 0x100, acc := .rw, n := 64 }]
  else if ty = 0x06 then
    [{ off := 0x040, acc := .wo }, { off := 0x044, acc := .ro }, { off := 0x048, acc := .wo }, { off := 0x100, acc := .rw, n := 64 },
     { off := 0x200, acc := .ro, n := 64 }]
  else [{ off := 0x040, acc := .ro }, { off := 0x100, acc := .ro, n := 128 }, { off := 0x500, acc := .ro, n := 128 }]

/-- Take-queue and dailies pages (06 Control). -/
def regsHostB (ty : Nat) : List RegDef :=
  if ty = 0x08 then
    [{ off := 0x040, acc := .rw, wm := 0xFFFFF000, lims := [(0, 12, 0, 0)], offOnly := true }, { off := 0x044, acc := .rw, offOnly := true },
     { off := 0x048, acc := .rw, wm := 0xFFFFF000, lims := [(0, 12, 0, 0)], offOnly := true }, { off := 0x04C, acc := .rw, offOnly := true },
     { off := 0x050, acc := .rw, rst := 4, wm := 0xF, lims := [(0, 4, 4, 12)], offOnly := true },
     { off := 0x054, acc := .rw }, { off := 0x058, acc := .ro }, { off := 0x05C, acc := .ro }, { off := 0x060, acc := .rw },
     { off := 0x064, acc := .rw, rst := 1, lims := [(0, 16, 1, 65535)] }, { off := 0x068, acc := .ro }, { off := 0x06C, acc := .wo, wm := 1 },
     { off := 0x070, acc := .rw, rst := 16, wm := 0xFF }, { off := 0x074, acc := .ro }]
  else
    [{ off := 0x040, acc := .rw, wm := 0xF, offOnly := true }, { off := 0x044, acc := .rw, wm := 0xF, lims := [(1, 2, 0, 2)], offOnly := true },
     { off := 0x048, acc := .rw, wm := 0xFFFFF000, lims := [(0, 12, 0, 0)], offOnly := true }, { off := 0x04C, acc := .rw, offOnly := true },
     { off := 0x050, acc := .rw, rst := 12, lims := [(0, 32, 12, 30)], offOnly := true },
     { off := 0x054, acc := .rw, wm := 0xFFFFF000, lims := [(0, 12, 0, 0)], offOnly := true }, { off := 0x058, acc := .rw, offOnly := true },
     { off := 0x05C, acc := .rw, rst := 16, lims := [(0, 32, 16, 36)], offOnly := true },
     { off := 0x060, acc := .ro }, { off := 0x064, acc := .rw }, { off := 0x068, acc := .ro }, { off := 0x06C, acc := .rw },
     { off := 0x070, acc := .rw, rst := 1, lims := [(0, 16, 1, 65535)] }, { off := 0x074, acc := .ro },
     { off := 0x078, acc := .rw, wm := 0x01FFFFF7 }, { off := 0x07C, acc := .rw, n := 3 }, { off := 0x088, acc := .rw },
     { off := 0x08C, acc := .rw, wm := 0xFFFF }, { off := 0x090, acc := .rw, rst := 0x100000 }]

/-- Memory, MMU, gaffer, key manager, TRNG, debug and ensemble pages (11, 19, 20, 21 Control). -/
def regsHostC (ty : Nat) : List RegDef :=
  if ty = 0x0B then
    [{ off := 0x040, acc := .rw, wm := 0xFF01, chk := 0xFFFF0000 }, { off := 0x044, acc := .ro }, { off := 0x048, acc := .ro },
     { off := 0x04C, acc := .rw, wm := 0xFFFF }, { off := 0x050, acc := .rw, wm := 0x8F }, { off := 0x054, acc := .rw, rst := 1024 }]
  else if ty = 0x0A then
    [{ off := 0x040, acc := .rw, wm := 0xFFFFF000, lims := [(0, 12, 0, 0)], offOnly := true }, { off := 0x044, acc := .rw, offOnly := true },
     { off := 0x048, acc := .rw, wm := 0xFFFFF000, lims := [(0, 12, 0, 0)] }, { off := 0x04C, acc := .rw, wm := 0xFFFF },
     { off := 0x050, acc := .rw }, { off := 0x054, acc := .wo }, { off := 0x058, acc := .ro }, { off := 0x100, acc := .ro, n := 128 }]
  else if ty = 0x0C then
    [{ off := 0x040, acc := .rw, wm := 0x3FF }, { off := 0x044, acc := .ro }, { off := 0x048, acc := .rw, rst := 100, wm := 0x3FF, lims := [(0, 10, 10, 1000)] },
     { off := 0x04C, acc := .ro, n := 8 }]
  else if ty = 0x0D then [{ off := 0x040, acc := .ro, n := 4 }, { off := 0x050, acc := .ro, n := 12 }]
  else if ty = 0x0E then [{ off := 0x040, acc := .ro, n := 6 }]
  else if ty = 0x0F then
    [{ off := 0x040, acc := .ro }, { off := 0x044, acc := .rwl, wm := 0x0FFF0F0F }, { off := 0x048, acc := .rwl, lims := [(0, 2, 0, 0)] },
     { off := 0x04C, acc := .rwl }]
  else
    [{ off := 0x040, acc := .ro }, { off := 0x044, acc := .ro, rst := 1 }, { off := 0x048, acc := .ro, n := 2 }, { off := 0x050, acc := .ro, n := 16 },
     { off := 0x090, acc := .rw, wm := 0xFFFF, n := 16 }, { off := 0x0D0, acc := .ro }]

/-- Compute-die pages and relay ports (07 to 12, 19, 21 Control). -/
def regsCompute (ty : Nat) : List RegDef :=
  if ty = 0x40 then
    [{ off := 0x040, acc := .ro, n := 3 }, { off := 0x04C, acc := .ro, rst := 800 },
     { off := 0x050, acc := .rwl, rst := 1, wm := 5, chk := 0xFFFFFFF8 }, { off := 0x060, acc := .ro, n := 16 }]
  else if ty = 0x41 then [{ off := 0x040, acc := .ro, n := 14 }]
  else if ty = 0x44 then [{ off := 0x040, acc := .ro, n := 4 }]
  else if ty = 0x45 then [{ off := 0x040, acc := .ro, n := 5 }, { off := 0x054, acc := .wo, wm := 1, chk := 0xFFFFFFFE }]
  else if ty = 0x46 then [{ off := 0x040, acc := .ro }, { off := 0x044, acc := .wo, wm := 1 }, { off := 0x100, acc := .ro, n := 512 }]
  else if ty = 0x47 then [{ off := 0x040, acc := .ro, n := 4 }]
  else if ty = 0x48 then [{ off := 0x040, acc := .ro, n := 6 }]
  else if ty = 0x4C then
    [{ off := 0x040, acc := .rw, rst := 0x06400190, wm := 0x0FFF0FFF }, { off := 0x044, acc := .ro, rst := 800 }, { off := 0x048, acc := .ro, rst := 800 },
     { off := 0x04C, acc := .ro, rst := 1600 }, { off := 0x050, acc := .ro, n := 18 }, { off := 0x100, acc := .ro, n := 49 }]
  else if ty = 0x50 then [{ off := 0x040, acc := .ro, n := 6 }]
  else [{ off := 0x040, acc := .ro, n := 6 }, { off := 0x058, acc := .wo, wm := 1, chk := 0xFFFFFFFE }]

/-- Gate, stream, sensor SPI and pipeline pages (13, 14, 16, 18 Control). -/
def regsGate (ty : Nat) : List RegDef :=
  if ty = 0x33 then
    [{ off := 0x040, acc := .rws, wm := 0x7FFF, chk := 0xFFFF8000, lims := [(0, 2, 0, 2)] },
     { off := 0x044, acc := .rws, rst := 0x4000, wm := 0x7FFF, chk := 0xFFFF8000, lims := [(0, 15, 64, 16384)] },
     { off := 0x048, acc := .rws, wm := 0xFFFF, n := 3 }, { off := 0x054, acc := .rws, rst := 12, wm := 0x3F, lims := [(0, 6, 4, 60)] },
     { off := 0x058, acc := .rws, rst := 10000, wm := 0xFFFF, lims := [(0, 16, 3333, 65535)] }, { off := 0x05C, acc := .rws },
     { off := 0x060, acc := .rws, wm := 0x000FFFFF, chk := 0xFFF00000, n := 16 }, { off := 0x0A0, acc := .rws, wm := 0xF },
     { off := 0x0A4, acc := .ro, n := 2 }, { off := 0x0AC, acc := .rw, lims := [(0, 32, 0, 0)], n := 2 }, { off := 0x0B4, acc := .ro, n := 2 },
     { off := 0x0BC, acc := .rw, wm := 0x1FFFF }, { off := 0x0C0, acc := .rw }, { off := 0x0C4, acc := .ro, n := 2 },
     { off := 0x0CC, acc := .rw, rst := 4, wm := 0xF1F, chk := 0xFFFFF0E0, lims := [(0, 4, 0, 8)] }, { off := 0x0D0, acc := .rw, rst := 10000 },
     { off := 0x0D4, acc := .rw, wm := 0xFFFF }, { off := 0x0D8, acc := .rw, rst := 0xFFFF2000 }, { off := 0x0DC, acc := .rw, rst := 0x7FFF, wm := 0xFFFF },
     { off := 0x0E0, acc := .wo, wm := 7 }, { off := 0x0E4, acc := .ro, n := 2 }]
  else if ty = 0x34 then
    [{ off := 0x040, acc := .rws, wm := 0xFF, chk := 0xFFFFFF00, lims := [(4, 2, 0, 2)] }, { off := 0x044, acc := .rws },
     { off := 0x048, acc := .rw, rst := 16000, lims := [(0, 32, 1, 60000)] }, { off := 0x04C, acc := .ro, n := 5 },
     { off := 0x080, acc := .ro, n := 10 }, { off := 0x0A8, acc := .rw }, { off := 0x0AC, acc := .ro, n := 2 }]
  else if ty = 0x35 then
    [{ off := 0x040, acc := .rws, rst := 0x1071C, wm := 0x00FF7FFF, chk := 0xFF008000, lims := [(2, 6, 3, 63), (8, 5, 7, 31), (16, 8, 1, 32)] },
     { off := 0x044, acc := .rws, wm := 0 }, { off := 0x048, acc := .rw, wm := 0x00FFFFFF, lims := [(16, 8, 0, 32)] }, { off := 0x04C, acc := .rw, n := 2 },
     { off := 0x100, acc := .rws, n := 8 }, { off := 0x120, acc := .ro, n := 8 }, { off := 0x140, acc := .rw, n := 8 }]
  else
    [{ off := 0x040, acc := .rw, rst := 0x10, wm := 0x03FFFF7B, chk := 0xFC000084 }, { off := 0x044, acc := .rws },
     { off := 0x048, acc := .rw }, { off := 0x04C, acc := .rw, wm := 0xFFFF }, { off := 0x050, acc := .rw },
     { off := 0x054, acc := .rw, wm := 0xFFFF, lims := [(0, 16, 1, 65535)] }, { off := 0x058, acc := .rw, rst := 256, wm := 0xFFFF },
     { off := 0x05C, acc := .ro, n := 10 }, { off := 0x084, acc := .rw, lims := [(0, 32, 0, 0)], n := 2 }]

/-- Axis, axis group, dolly and pacing pages (15, 16 Control). -/
def regsDolly (ty : Nat) : List RegDef :=
  if ty = 0x37 then
    [{ off := 0x040, acc := .rws, rst := 0x108, wm := 0x00FF777F, chk := 0xFF008880, lims := [(0, 4, 0, 8), (4, 2, 0, 2), (8, 2, 0, 2)] },
     { off := 0x044, acc := .rws, rst := 0x000403E8, wm := 0x00FF0FFF, lims := [(0, 12, 500, 2000)] }, { off := 0x048, acc := .rws, wm := 0x07FF07FF },
     { off := 0x04C, acc := .rwl, rst := 0x7FF, wm := 0x7FF }, { off := 0x050, acc := .rws, rst := 0x00788804 }, { off := 0x054, acc := .rws, wm := 0x0FFF0FFF },
     { off := 0x058, acc := .rws, rst := 0x0190012C }, { off := 0x05C, acc := .rws, rst := 0xD5400064 }, { off := 0x060, acc := .rws },
     { off := 0x064, acc := .rws, rst := 0x7FFFFFFF, wm := 0x7FFFFFFF }, { off := 0x068, acc := .rwl, wm := 0x7F3F }, { off := 0x06C, acc := .rws, wm := 0xF },
     { off := 0x070, acc := .rws, rst := 0x10000 }, { off := 0x074, acc := .rws, n := 3 }, { off := 0x080, acc := .rws, wm := 0x7FFFFFFF },
     { off := 0x084, acc := .ro, n := 10 }, { off := 0x0AC, acc := .rw, wm := 0xFF }, { off := 0x0B0, acc := .rw, n := 2 },
     { off := 0x0B8, acc := .rw, wm := 2, w1c := 0x200 }, { off := 0x0BC, acc := .ro }, { off := 0x0C0, acc := .wo, wm := 1 },
     { off := 0x400, acc := .rw, n := 256 }]
  else if ty = 0x38 then
    [{ off := 0x040, acc := .rw, wm := 0x1F }, { off := 0x044, acc := .rws, rst := 0xDBE7, lims := [(0, 32, 1, 0xFFFFFFFF)] },
     { off := 0x048, acc := .ro, rst := 0x10000, n := 2 }, { off := 0x050, acc := .rw, rst := 0x100, wm := 0x1FFFF, lims := [(0, 17, 1, 0x1FFFF)] },
     { off := 0x054, acc := .ro }, { off := 0x058, acc := .wo, wm := 3 }]
  else if ty = 0x39 then
    [{ off := 0x040, acc := .rw, rst := 0xFFFFFFFF, n := 2 }, { off := 0x048, acc := .rwl }, { off := 0x04C, acc := .ro, rst := 0xFFFFFFFF },
     { off := 0x050, acc := .ro, n := 2 }]
  else
    [{ off := 0x040, acc := .rws, rst := 1, wm := 7, chk := 0xFFFFFFF8 }, { off := 0x044, acc := .rws, rst := 0x00400010 },
     { off := 0x048, acc := .rws, rst := 2048 }, { off := 0x04C, acc := .rws, rst := 8192 }, { off := 0x050, acc := .rws, wm := 0x1FFFF },
     { off := 0x054, acc := .rws, rst := 0x10000, wm := 0x1FFFF }, { off := 0x058, acc := .ro, rst := 60000000 }, { off := 0x05C, acc := .ro, n := 3 },
     { off := 0x068, acc := .rws, rst := 6250 }, { off := 0x06C, acc := .rws }, { off := 0x070, acc := .rw }, { off := 0x074, acc := .rw, wm := 0xFFFF },
     { off := 0x078, acc := .wo, wm := 7, chk := 0xFFFFFFF8 }]

/-- Meter channel, output and common pages, and the continuity monitor page (17, 18, 22 Control). -/
def regsMeter (ty : Nat) : List RegDef :=
  if ty = 0x3B then
    [{ off := 0x040, acc := .rws, rst := 0x50, wm := 0x0007FFFF, chk := 0xFFF80000, lims := [(0, 4, 0, 6), (4, 4, 0, 10), (15, 2, 0, 2), (17, 2, 0, 2)] },
     { off := 0x044, acc := .rws, rst := 0x700, wm := 0x777, chk := 0xFFFFF888 }, { off := 0x048, acc := .rws, wm := 0x1FFF07FF, chk := 0xE000F800 },
     { off := 0x04C, acc := .rws, rst := 0x88, wm := 0xFF, lims := [(0, 4, 0, 9), (4, 4, 0, 9)] }, { off := 0x050, acc := .rws, n := 2 },
     { off := 0x058, acc := .rws, rst := 50, wm := 0xFFFF, lims := [(0, 16, 1, 65535)] }, { off := 0x05C, acc := .rws, wm := 3 },
     { off := 0x060, acc := .rws, n := 3 }, { off := 0x070, acc := .ro, rst := 0x40 }, { off := 0x074, acc := .ro, n := 6 },
     { off := 0x100, acc := .rws, n := 20 }]
  else if ty = 0x3C then
    [{ off := 0x040, acc := .rws, wm := 0xF, chk := 0xFFFFFFF0 }, { off := 0x044, acc := .rws, n := 2 }, { off := 0x04C, acc := .ro, n := 2 }]
  else if ty = 0x3D then
    [{ off := 0x040, acc := .ro, n := 3 }, { off := 0x04C, acc := .rw, n := 2 },
     { off := 0x054, acc := .rw, rst := 0x408, wm := 0x11F3F, chk := 0xFFFEE0C0, lims := [(0, 6, 1, 32), (8, 5, 1, 16)] },
     { off := 0x058, acc := .wo }, { off := 0x05C, acc := .rw }, { off := 0x060, acc := .ro }, { off := 0x064, acc := .rw, wm := 0xFF }, { off := 0x068, acc := .rw }]
  else
    [{ off := 0x040, acc := .ro }, { off := 0x044, acc := .wo, wm := 0xF, chk := 0xFFFFFFF0 }, { off := 0x048, acc := .rw }, { off := 0x04C, acc := .ro, n := 2 },
     { off := 0x054, acc := .rws, wm := 0x3F }, { off := 0x058, acc := .ro, n := 7 }, { off := 0x100, acc := .rw, n := 64 }]

/-- The block-specific registers of a block type. -/
def pageRegs (ty : Nat) : List RegDef :=
  if ty = 0x30 ∨ ty = 0x31 ∨ ty = 0x02 then regsPosition ty
  else if ty = 0x08 ∨ ty = 0x09 then regsHostB ty
  else if ty = 0x0A ∨ ty = 0x0B ∨ ty = 0x0C ∨ ty = 0x0D ∨ ty = 0x0E ∨ ty = 0x0F ∨ ty = 0x10 then regsHostC ty
  else if ty ≤ 0x07 ∨ ty = 0x32 then regsHostA ty
  else if 0x40 ≤ ty then regsCompute ty
  else if 0x33 ≤ ty ∧ ty ≤ 0x36 then regsGate ty
  else if 0x37 ≤ ty ∧ ty ≤ 0x3A then regsDolly ty
  else regsMeter ty

/-- Whether a row of a register table covers an offset. -/
def regCovers (off : Nat) (r : RegDef) : Bool :=
  decide (r.off ≤ off) && decide (off < r.off + r.n * r.step) && (off - r.off) % r.step == 0

/-- The register at an offset of a page of type `ty`, if its field tables define one (03 R50). -/
def findReg (ty off : Nat) : Option RegDef :=
  if off < 0x40 then commonRegs.find? (regCovers off) else (pageRegs ty).find? (regCovers off)

/-- The site a BAR0 offset names (03 R49). -/
def siteOf (addr : Nat) : Nat := addr / 0x400000
/-- The block a BAR0 offset names. -/
def blkOf (addr : Nat) : Nat := addr / 0x1000 % 1024
/-- The register offset a BAR0 offset names. -/
def offOf (addr : Nat) : Nat := addr % 0x1000
/-- The BAR0 offset of a page (03 R49). -/
def pg (site blk : Nat) : Nat := site % 16 * 0x400000 + blk % 1024 * 0x1000

/-- PAGE_ID (03): block type, block, site, VERSION 1 (24 R479). -/
def pageIdOf (ty site blk : Nat) : Nat := ty + blk % 1024 * 2 ^ 8 + site % 16 * 2 ^ 18 + 2 ^ 24

/-- PAGE_CAP (03): HAS_CTRL, HAS_TXN, HAS_RWL, and STACK_PRESENT on a memory controller page (01 R20). -/
def pageCapOf (asm ty site blk : Nat) : Nat :=
  (if hasCtrl ty then 1 else 0) + (if hasTxn ty then 2 else 0) + (if hasRwl ty then 4 else 0)
    + (if ty = 0x47 ∧ stackFitted asm (2 * site + (blk - 12)) then 2 ^ 16 else 0)

/-- The fused clock table of the die power pages: mV for 400 + 25 i MHz (19 VF_i), a DESIGN CHOICE rising from 600 to
950 mV in steps of 5 mV (log 2). -/
def vfTable (i : Nat) : Nat := 600 + (350 * i / 48) / 5 * 5

/-- Pages without CTRL whose STATE reads RUNNING throughout (02 R484, 04, 14, 15, 16, 19, 20, 21, 22). -/
def alwaysRunning (ty : Nat) : Bool :=
  ty == 0x31 || ty == 0x02 || ty == 0x03 || ty == 0x32 || ty == 0x36 || ty == 0x3A || ty == 0x3E
    || ty == 0x0B || ty == 0x0C || ty == 0x10 || ty == 0x45 || ty == 0x46

/-- The reset value of the register at a BAR0 offset in fitting `asm` (03 R72 and the page tables). -/
def regReset (asm addr : Nat) : Word :=
  let site := siteOf addr
  let blk := blkOf addr
  let off := offOf addr
  let ty := pageType asm site blk
  if ty = 0 then 0#32
  else if off = 0 then BitVec.ofNat 32 (pageIdOf ty site blk)
  else if off = 4 then BitVec.ofNat 32 (pageCapOf asm ty site blk)
  else if off = 0xC then (if alwaysRunning ty then 2#32 else 0#32)
  else if ty = 0x01 ∧ off = 0x40 then BitVec.ofNat 32 asm
  else if ty = 0x01 ∧ off = 0x44 then BitVec.ofNat 32 (siteFitted asm)
  else if ty = 0x01 ∧ off = 0x48 then BitVec.ofNat 32 (ioType asm)
  else if ty = 0x03 ∧ off = 0x40 then 6#32
  else if ty = 0x03 ∧ off = 0x44 then 1#32
  else if ty = 0x32 ∧ off = 0x40 then 0x16#32
  else if ty = 0x3E ∧ off = 0x4C then 0xd968558#32
  else if ty = 0x0B ∧ off = 0x44 then BitVec.ofNat 32 (stackTotal asm * 0x10101)
  else if ty = 0x0B ∧ off = 0x48 then BitVec.ofNat 32 (stackList asm)
  else if ty = 0x0C ∧ (off = 0x40 ∨ off = 0x44) then BitVec.ofNat 32 (asmBudget asm)
  else if ty = 0x4C ∧ 0x100 ≤ off then (if off < 0x100 + 49 * 4 then BitVec.ofNat 32 (vfTable ((off - 0x100) / 4)) else 0#32)
  else match findReg ty off with
    | some r => BitVec.ofNat 32 r.rst
    | none => 0#32

end Sys2Proof.Machine
end

