-- ==== Sys2Proof/Machine/State.lean ====
section
/-!
DEFINITION. Machine/State.lean: everything the spec gives the block, as plain data. Every register of every page is held
in `regs`, a sparse table keyed by BAR0 offset whose unlisted keys read as the register's reset value
(Machine/Pages.lean, `regReset`); what a unit holds beside its registers is a record of its own, in a sparse table keyed
by the unit's number. INVENTORY.md lists every field with the rule that names it and its reset value.
-/
namespace Sys2Proof.Machine

/-- A WHEN value decoded (02 R39): KIND 0 NOW, 1 LINE, 2 TICK, 3 CLAPPER. -/
structure When where
  kind : Nat := 0
  stream : Nat := 0
  value : Nat := 0
  deriving DecidableEq, Repr

/-- An armed action: its WHEN, its policy (`discard`), its place in the arming order (02 R44) and, once it is late, the
boundary at which an EXECUTE action runs (02 R42). -/
structure Armed where
  at_ : When := {}
  discard : Bool := false
  order : Nat := 0
  late : Bool := false
  lateAt : Nat := 0
  deriving DecidableEq, Repr

/-- An encoder beside its page (02 R23 to R30): filtered levels, integer count, direction of the last edge, whether the
last two edges differ in direction, the sample of the last filtered edge of either line and of each line, the held
period, the previous index count, and for the QERR window the count of valid edges and the edge counts of the errors
still inside it. -/
structure Enc where
  a : Bool := false
  b : Bool := false
  z : Bool := false
  count : Int := 0
  dir : Option Bool := none
  turned : Bool := false
  last : Option Nat := none
  lastA : Option Nat := none
  lastB : Option Nat := none
  period : Option Nat := none
  idx : Option Int := none
  edges : Nat := 0
  errs : List Nat := []
  deriving DecidableEq, Repr

/-- A position unit beside its page (02 R31 to R33): NEXT_POS in 1/65536 count, the index of the next line, whether POS
has been below NEXT_POS since it was set, the sample of the last trigger, the armed pitch change with the pitch taken at
ARM, and the trigger positions of this run as runs of one pitch (first line, its trigger position in 1/65536 count,
pitch), newest first (TP(L) of 14 and 16). -/
structure Pos where
  next : Int := 0
  line : Nat := 0
  below : Bool := false
  lastTrig : Option Nat := none
  pitchArm : Option Armed := none
  pitchNext : Nat := 0
  runs : List (Nat × Int × Nat) := []
  deriving DecidableEq, Repr

/-- A transaction slot (03 R59 to R67). `st` is the code of SLOT_STATE; entries are (BAR0 offset, value). -/
structure Slot where
  st : Nat := 0
  owner : Nat := 0
  members : List Nat := []
  entries : List (Nat × Word) := []
  arm : Armed := {}
  cross : Bool := false
  group : Nat := 0
  sites : Nat := 0
  overflow : Bool := false
  late : Bool := false
  reason : Nat := 0
  deriving DecidableEq, Repr

/-- A cross-site group at the boot master (03 R69, R70): GO with T_GO, the staged reports received as
(package, site, reason) with reason 0 for staged, and whether EXECUTE waits past WHEN - 10 µs. -/
structure Group where
  go : Bool := false
  tGo : Nat := 0
  reports : List (Nat × Nat × Nat) := []
  waiting : Bool := false
  deriving DecidableEq, Repr

/-- The clapper's servo state (02 R35 to R38, R483): measurements in a row without a step, measurements in a row over
STEP_THRESH, the pending Sync with its receive time, the Delay_Req send time with the sequence number of that request and of the
next, the sample of the last Delay_Req, the master's logMinDelayReqInterval, the last mean path delay, the best
master's dataset, the sample of the last PPS edge, the sample at which holdover began, and the last whole second for
which the PPS output rose. -/
structure Clk where
  good : Nat := 0
  overs : Nat := 0
  sync : Option (PtpMsg × Nat) := none
  t1t2 : Option (Nat × Nat) := none
  t3 : Option Nat := none
  reqSeq : Nat := 0
  nextSeq : Nat := 0
  reqAt : Option Nat := none
  minDelay : Int := 0
  delay : Option Int := none
  best : Option PtpAnnounce := none
  lastPps : Option Nat := none
  holdAt : Option Nat := none
  ppsSec : Nat := 0
  ppsHigh : Option Nat := none
  deriving DecidableEq, Repr

/-- A held dailies record (06 R125 to R131): its bytes with SEQ still 0, its payload with the place of the payload's
offset in the record, the line it delivers, the last line of the frame it delivers; or a STOP record, taken from the
splice registers when it is written. `after` is a STOP record's SPLICE_LINE, whose lines it follows; `placed` and `done` are the
writer's saved position (11 R233): where in the data ring the payload has been placed, and how much of it is written. -/
structure DRec where
  stop : Bool := false
  body : List Byte := []
  payload : List Byte := []
  offAt : Nat := 0
  line : Option Nat := none
  frame : Option (Nat × Nat) := none
  after : Option Nat := none
  placed : Option Nat := none
  done : Nat := 0
  deriving DecidableEq, Repr

/-- A record written to a ring under DEST = NET and not yet acknowledged (06 R134 to R136): where it ends in the flow's byte stream,
where its bytes lie as (tenant address, length), its payloads' offsets in the data ring, REC_TAIL after it, and the record. -/
structure Span where
  stop : Nat := 0
  parts : List (Nat × Nat) := []
  pays : List Nat := []
  recTo : Nat := 0
  held : DRec := {}
  deriving DecidableEq, Repr

/-- A dailies ring's writer and export sender (06): held records, SEQ, PHASE, the next free byte of the data ring (free-running),
records since the last message and the sample of the first of them, the frame layer that waits for space; and for export the records
not yet acknowledged, the bytes of the stream queued, the unacknowledged frames as (PSN, offset, length), next PSN, bytes sent and
acknowledged, the window, resends in a row, and the sample of the last progress. -/
structure DRing where
  queue : List DRec := []
  seq : Nat := 0
  phase : Bool := true
  dnext : Nat := 0
  since : Nat := 0
  firstAt : Option Nat := none
  hold : Option Nat := none
  spans : List Span := []
  total : Nat := 0
  sent : List (Nat × Nat × Nat) := []
  psn : Nat := 0
  sentTo : Nat := 0
  acked : Nat := 0
  window : Nat := 0
  resends : Nat := 0
  progress : Nat := 0
  deriving DecidableEq, Repr

/-- A captured line of a stream, not yet published (13 R281): its index, flags, position,
uncertainty, time, row, corrected pixels by plane × 16384 + column, whether it is final and has been recorded. -/
structure LRow where
  line : Nat := 0
  flags : Nat := 0
  pos : Int := 0
  unc : Nat := 0
  ns : Nat := 0
  sec : Nat := 0
  data : List Byte := []
  vals : List (Nat × Nat) := []
  final : Bool := true
  sent : Bool := false
  deriving DecidableEq, Repr

/-- A layer of a pipeline (14 R302). -/
structure LayerDef where
  kind : Nat := 0
  source : Nat := 0
  stage : Nat := 0
  index : Nat := 0
  rowBytes : Nat := 0
  format : Nat := 0
  part : Nat := 0
  deriving DecidableEq, Repr

/-- What PIPE_SET binds (14 R294, R295): stage handles with their links, layers, and the perforation and match stages
with their cues. -/
structure PipeB where
  stages : List (Nat × Nat) := []
  layers : List LayerDef := []
  perfStage : Nat := 0
  perfCue : Nat := 0
  matchStage : Nat := 0
  matchCue : Nat := 0
  lag : Nat := 0
  hold : Nat := 0
  stripeH : Nat := 0
  halo : Nat := 0
  tenant : Nat := 0
  deriving DecidableEq, Repr

/-- A frame under way (14 R303 to R305): its index, first line, last line once known, layers as (data-ring offset, bytes
so far, complete, absent), whether its reservations stand, the position and time of its first line, whether its
descriptor has been pushed, and FRAME_PITCH as it stood when the frame began (14 R298). -/
structure Frame where
  idx : Nat := 0
  first : Nat := 0
  last : Option Nat := none
  layers : List (Nat × Nat × Bool × Bool) := []
  reserved : Bool := false
  pos : Int := 0
  ns : Nat := 0
  sec : Nat := 0
  pushed : Bool := false
  afterGap : Bool := false
  pitch : Nat := 0
  deriving DecidableEq, Repr

/-- A stream beside its page (13, 14, 16): the state before HALTED, its first line, the last line taken, the line from
which it takes lines again, unpublished rows, the previous emitted line's pixels by plane × 16384 + column, slots
published, the bound pipeline, frames under way, frames whose record is not yet delivered, the first line and start of the frame now open, the frame index to
open next, perforation reports by stripe, the lines' positions and flags since the oldest frame, lost and priming, the splice lines so far,
the next line each layer's rows are for or the next frame of a frame layer, the writer's saved position in a layer (11 R233: the layer,
the line or data-ring offset, and the bytes written), the lines of the frame last described to the
match engine, and the rate samples of the present second. -/
structure Strm where
  back : Nat := 2
  l0 : Option Nat := none
  last : Option Nat := none
  from_ : Nat := 0
  rows : List LRow := []
  prev : List (Nat × Nat) := []
  pub : Nat := 0
  rmax : Option Nat := none
  pipe : Option PipeB := none
  frames : List Frame := []
  sentF : List Frame := []
  open_ : Option Nat := none
  fidx : Nat := 0
  reports : List (Nat × List (Nat × Nat)) := []
  hist : List LRow := []
  lost : Bool := false
  priming : Bool := false
  resumed : Bool := false
  gapTo : Option Nat := none
  lastAch : Nat := 0
  achSum : Nat := 0
  achN : Nat := 0
  splices : List Nat := []
  dLine : Option Nat := none
  dFrame : Option Nat := none
  layerNext : List Nat := []
  parts : List (Nat × Nat × Nat) := []
  refF : Option (Nat × Nat) := none
  deriving DecidableEq, Repr

/-- The line a gate is reading out (13 R269 to R273). -/
structure Cap where
  line : Nat := 0
  trig : Nat := 0
  late : Bool := false
  retaken : Bool := false
  pos : Int := 0
  unc : Nat := 0
  ns : Nat := 0
  sec : Nat := 0
  takers : List Nat := []
  taps : List (Nat × List Nat) := []
  cfg : List Word := []
  deriving DecidableEq, Repr

/-- A gate beside its page (13): the line being read out, a trigger that waits for the sensor, the first line of the
TAP_LOSS run, triggers stopped by a gate fault, configuration snapshots as (first line, registers, taking streams)
newest first, lines ever
triggered in the run, lines since the last status poll, a host SPI transfer waiting for a poll, the shading memory by
half × 65536 + entry, a shading measurement under way (flat or dark) with its sums, exposures and discards, the half and N its command
named and the sample from which the calibration timer may start the next exposure, the edge table the last trigger restarted
(TG_EDGE_0 to 15, TG_IDLE), and whether the sensor SPI has made a transfer since power-up (04 R88). -/
structure Gate where
  cur : Option Cap := none
  late : Bool := false
  runFirst : Option Nat := none
  stopped : Bool := false
  snaps : List (Nat × List Word × List Nat) := []
  top : Nat := 0
  polls : Nat := 0
  spiWait : Bool := false
  shd : List (Nat × Word) := []
  shade : Option Bool := none
  sums : List Nat := []
  exps : Nat := 0
  fails : Nat := 0
  shHalf : Nat := 0
  shN : Nat := 1
  shAt : Nat := 0
  tg : List Word := []
  spiUsed : Bool := false
  deriving DecidableEq, Repr

/-- A dolly axis beside its page (15): position in 2^-32 microstep, VEL, the running segment's start state and segment
time in 2^-16 tick, a hard stop, the fraction of a VEL unit of STOP_DECEL, the sample at which
it came to rest, mode, a mode change waiting and whether coil A's demand has crossed zero since, AX_POS at which CONF fell (R327), the
integral term of the tension loop and the conversion it last used, the coarse target held; the signed duty codes of coils A and B in the
present PWM period (R322, R323), whether the next period keeps them (R324), the ticks of T_OFF that each chopper still waits, the sums
of |I| and |I_T| and their count at the chopper's switching points of the electrical period under way, that period's number, and what
saturates: TRIM, VEL and OFFS. -/
structure Axis where
  phase : Int := 0
  vel : Int := 0
  p0 : Int := 0
  v0 : Int := 0
  tau : Nat := 0
  run : Bool := false
  hard : Bool := false
  dacc : Nat := 0
  restAt : Nat := 0
  modeTo : Option Bool := none
  confAt : Option Int := none
  trimI : Word := 0#32
  conv : Nat := 0
  lastDir : Int := 0
  tgt : Int := 0
  crossed : Bool := false
  duty : Int × Int := (0, 0)
  keep : Bool := false
  wait : Nat × Nat := (0, 0)
  chop : Nat × Nat × Nat := (0, 0, 0)
  eper : Int := 0
  satT : Bool := false
  satV : Bool := false
  satO : Bool := false
  deriving DecidableEq, Repr

/-- An axis group beside its page (15, 16): stop state for a lone axis, the step of PACE within its ms, the restart stage
(0 none, 1 back-off, 2 at rest behind, 3 run-up, 4 cruise), the restart line, RUN_VEL in force, the fraction of the
run-up's acceleration, and for a retake the range, the attempt and whether it has failed. -/
structure Grp where
  stopping : Bool := false
  atRest : Bool := false
  cause : Nat := 0
  paceK : Nat := 0
  stage : Nat := 0
  lr : Nat := 0
  runVel : Int := 0
  acc : Nat := 0
  external : Bool := false
  retake : Option (Nat × Nat) := none
  bad : Bool := false
  skipTo : Option Nat := none
  deriving DecidableEq, Repr

/-- A slot ring beside its mover page (10 R207): the space it lies in and its base there, slot bytes, producer and
consumer kinds, and the epoch of each published slot, oldest first. -/
structure SRing where
  sp : Nat := 0
  base : Nat := 0
  slotBytes : Nat := 0
  prod : Nat := 0
  cons : Nat := 0
  period : Nat := 0
  epochs : List Nat := []
  deriving DecidableEq, Repr

/-- Where a slate's group lies (09 R177): site, and the start of its bin window, cue queues and flags. -/
structure GroupAt where
  site : Nat := 0
  bin : Nat := 0
  cue : Nat := 0
  flag : Nat := 0
  deriving DecidableEq, Repr

/-- A loaded slate (09): handle, tenant, kind (1 take, 2 stage), state (1 LOADED, 2 UNLOADING, 3 LOST), stream, container, stream-class
B/s by group, weights as the reserve granules hold them (20 R410),
groups, floor in MHz, certified R_max in Hz, worst-case power in µW as a fraction, the mailbox that waits for its unload, and the
cues and flags that a pipeline has bound to another slate's as (local index, site, physical index); for a stage its cores as
(slate-local core, site, physical core), its engines as (site, engine), the stripe under way and its epoch, with the epochs of
stripes dispatched ahead, the stripes dispatched and not done, and the handles popped for this stripe (site, queue, handle); the stage
before it in its pipeline with whether a FLAG link joins them, and the ranges (offset, bytes) that handles popped over a CUE link have
named (14 R294). -/
structure Slate where
  handle : Nat := 0
  tenant : Nat := 0
  kind : Nat := 1
  state : Nat := 1
  stream : Nat := 0xFF
  cont : List Byte := []
  groups : List GroupAt := []
  floor : Nat := 0
  rmax : Nat := 0
  power : Nat × Nat := (0, 1)
  bws : List Nat := []
  weights : List Byte := []
  waiter : Option Nat := none
  cues : List (Nat × Nat × Nat) := []
  flags : List (Nat × Nat × Nat) := []
  stripe : Nat := 0
  backlog : List Nat := []
  disp : Nat := 0
  took : List (Nat × Nat × Nat) := []
  pre : Option (Nat × Bool) := none
  seen : List (Nat × Nat) := []
  epoch : Nat := 0
  running : Bool := false
  faulted : Bool := false
  halted : Bool := false
  cores : List (Nat × Nat × Nat) := []
  engs : List (Nat × Nat) := []
  deriving DecidableEq, Repr

/-- What a core, a queue or an engine works for (09 R177): entry `n` (free-running count) of take queue q of tenant t, or
the present stripe of a stage slate. -/
inductive Work
  | take (t q n : Nat)
  | stage (handle : Nat)
  deriving DecidableEq, Repr

/-- An entry of a take queue that has been fetched and whose record has not been released (06 R115 to R120): its
free-running count, opcode (1 TAKE, 2 FENCE), FLAGS, TAG, slate, argument block, DYN_LENs, DEADLINE; its state (0 waiting,
1 running, 2 halted, 3 its record is ready), STATUS, DETAIL, start, cycles, whether it is late, its epoch, and the
cores it runs on as (slate-local core, site, physical core). -/
structure Entry where
  n : Nat := 0
  op : Nat := 1
  flags : Nat := 0
  tag : Nat := 0
  slate : Nat := 0
  args : Nat := 0
  argsLen : Nat := 0
  dyn : List Nat := []
  deadline : Nat := 0
  st : Nat := 0
  status : Nat := 0
  detail : Option Nat := none
  startUs : Nat := 0
  cycles : Nat := 0
  late : Bool := false
  epoch : Nat := 0
  cores : List (Nat × Nat × Nat) := []
  deriving DecidableEq, Repr

/-- A take queue beside its page (06): entries in submission order, E of R117 in µs, the PHASE of the next record, records
since the last message and the sample of the first of them. -/
structure TQ where
  entries : List Entry := []
  est : Nat := 0
  phase : Bool := true
  since : Nat := 0
  firstAt : Option Nat := none
  deriving DecidableEq, Repr

/-- The gaffer's choice of takes (06 R122): credit in core-cycles and next queue by tenant, the tenant whose turn it is,
and the head passed over, as its queue and entry, with how many times in a row. -/
structure Sched where
  credit : List (Nat × Nat) := []
  nextQ : List (Nat × Nat) := []
  turn : Nat := 0
  passed : Option (Nat × Nat × Nat × Nat) := none
  deriving DecidableEq, Repr

/-- A transfer in flight (10 R200): its descriptor, where its bytes go (an on-package space and address, or host memory),
the bytes, the sample of issue, for a RELAY tile the cores it goes to and the chain heads it enters, the descriptors of transfers
merged into it (R206), where it starts in its source and destination spaces, and for arbitration its class, slack in ps, point and
share of bulk (R211, R212). -/
structure Xfer where
  serial : Nat := 0
  host : Bool := false
  sp : Nat := 0
  addr : Nat := 0
  data : List Byte := []
  issued : Nat := 0
  more : List (Nat × Nat) := []
  heads : Nat := 1
  joins : List Nat := []
  src : Nat × Nat := (0, 0)
  dst : Nat × Nat := (0, 0)
  stream : Bool := false
  slack : Nat := 0
  point : Option Nat := none
  share : Nat := 0
  deriving DecidableEq, Repr

/-- An arbitration point (10 R212): stream-class grants in a row while bulk waits, the place in the frame of 16, and by share the unit
served last, plus 1. -/
structure Arb where
  run : Nat := 0
  frame : Nat := 0
  last : List Nat := []
  deriving DecidableEq, Repr

/-- The cap of a die on transfers in flight (10 R202): the queues that wait for a place with their class, and the unit served last,
plus 1. -/
structure CapQ where
  wait : List (Nat × Bool) := []
  last : Nat := 0
  deriving DecidableEq, Repr

/-- A descriptor issued to a DMA queue (10 R201 to R204): its number in the queue, its record's index in the core's
section, the rows in force, the position of the next transfer as row and byte, its slots as (ring, slot), transfers in
flight, the epochs it derives from, whether it has been abandoned, and whether the DMA op that issued it, or its record, sets
LAYER_OUT (07 R147, R151). -/
structure IDesc where
  serial : Nat := 0
  idx : Nat := 0
  rows : Nat := 0
  row : Nat := 0
  col : Nat := 0
  dstSlot : Option (Nat × Nat) := none
  srcSlot : Option (Nat × Nat) := none
  flying : Nat := 0
  used : List Nat := []
  dead : Bool := false
  layerOut : Bool := false
  deriving DecidableEq, Repr

/-- A DMA queue of a core (10 R201): its work and epoch, its descriptors, its transfers in flight, whether it is HALTED and since which
sample, and the sample from which it waits on a bucket. -/
structure DQ where
  work : Option Work := none
  epoch : Nat := 0
  descs : List IDesc := []
  flights : List Xfer := []
  serial : Nat := 0
  halted : Bool := false
  haltAt : Nat := 0
  waitFrom : Option Nat := none
  deriving DecidableEq, Repr

/-- A neural core beside its page (07): what it works for, its slate-local index, the tenant it last worked for, op index,
layer, phase (0 before an op, 1 the op's output is written, 2 at a barrier, 3 ended), the op's counted cycles, slot rings
to release and to publish at retirement, epochs consumed by the op, cycles of the take, partial rows of the layer's leaf ops
by output tile with the tiles sent, the mask of the barrier it waits at, the sample from which it waits for data, and the array's
two accumulator buffers and two weight registers, where an empty list is all zero (07 R140, R155), and the epochs of the handle it
popped last and of the flags it has passed since (10 R221). -/
structure Core where
  work : Option Work := none
  loc : Nat := 0
  lastTenant : Option Nat := none
  pc : Nat := 0
  layer : Nat := 0
  phase : Nat := 0
  cost : Nat := 0
  relRings : List Nat := []
  pubRings : List Nat := []
  used : List Nat := []
  cycles : Nat := 0
  partials : List (Nat × List Word) := []
  sent : List Nat := []
  mask : Nat := 0
  waitFrom : Option Nat := none
  accs : List Word × List Word := ([], [])
  wregs : List Byte × List Byte := ([], [])
  held : List Nat := []
  deriving DecidableEq, Repr

/-- A combine-tree node held by a combine unit (08 R165 to R168): its work, layer and number, the rows of each operand
and of its result by output tile. -/
structure Node where
  work : Work := .stage 0
  layer : Nat := 0
  idx : Nat := 0
  left : List (Nat × List Word) := []
  right : List (Nat × List Word) := []
  outs : List (Nat × List Word) := []
  tiles : Nat := 0
  deriving DecidableEq, Repr

/-- A combine unit beside its page (08). -/
structure Cmb where
  nodes : List Node := []
  lastTenant : Option Nat := none
  deriving DecidableEq, Repr

/-- A vision engine beside its page (12): its job's slate, group and record, unit number, whether a unit is under way, the
rows it carries (level, row, pixels) with those saved at the start of the unit, next output row by level, the epochs the unit
consumed, the unit and line from which its rows count, counted cycles, saturations of the unit, what the unit writes (space, address, bytes), whether it
publishes a slot, and the tenant it last worked for. -/
structure Eng where
  handle : Nat := 0
  group : Nat := 0
  job : List Byte := []
  unit : Nat := 0
  busy : Bool := false
  rows : List (Nat × Nat × List Int) := []
  saved : List (Nat × Nat × List Int) := []
  next : List Nat := []
  savedNext : List Nat := []
  base : Option (Nat × Nat) := none
  begun : Nat := 0
  used : List Nat := []
  cost : Nat := 0
  sats : Nat := 0
  writes : List (Nat × Nat × List Byte) := []
  pubs : Bool := false
  lastTenant : Option Nat := none
  deriving DecidableEq, Repr

/-- A unit halted on a not-present page, or waiting for a fault record (11 R233, R234): the record it holds, the unit's
kind (0 DMA queue, 1 relay-chain head, 2 vision engine, 3 dailies writer, 4 combine unit), site and number, the TA page,
WRITE, whether a host page is wanted, the level at which V = 0 was met, and SQ_INDEX and QUEUE of the record. -/
structure HUnit where
  slot : Option Nat := none
  kind : Nat := 0
  site : Nat := 0
  unit : Nat := 0
  ta : Nat := 0
  write : Bool := false
  level : Nat := 0
  sq : Nat := 0
  queue : Nat := 0
  work : Option Work := none
  deriving DecidableEq, Repr

/-- A tenant's MMU beside its page (11): halted units, and whether the mailbox waits for an invalidation. -/
structure Mmu where
  units : List HUnit := []
  waiter : Bool := false
  deriving DecidableEq, Repr

/-- What the boot ROM and the boot master hold beside the boot and flash pages (05): digest of the running image's header
(FW_MEASURE), whether it came from recovery, the header hash kept of a recovery image (R102), the slot booted from flash, and
the flash command in progress (0 none, 1 READ, 2 PROGRAM, 3 ERASE_4K, 4 ERASE_64K) with its address, and the recovery image that the
boot now under way reads. -/
structure Boot where
  measure : Nat := 0
  recovery : Bool := false
  headerHash : Nat := 0
  slot : Option Nat := none
  flOp : Nat := 0
  flAddr : Nat := 0
  image : List Byte := []
  deriving DecidableEq, Repr

/-- A meter channel beside its page (17): the excitation is on, the sample at which a clamp or an overcurrent began or
ended, conversions since the last burn-out one and the last normal code, the run of valid values beyond CMP_CLR, whether
a range change is under way, the sample of the last valid value, whether there has been one; and the sample from which a conversion is
settled, that of the last range change, the range index of that normal code, and the outputs that stay low until the next valid value. -/
structure Meter where
  excOn : Bool := false
  clampAt : Option Nat := none
  cutEnd : Option Nat := none
  overCur : Bool := false
  sinceBo : Nat := 0
  prevCode : Int := 0
  run : Nat := 0
  ranging : Bool := false
  lastValid : Option Nat := none
  everValid : Bool := false
  settle : Nat := 0
  changedAt : Option Nat := none
  prevIdx : Nat := 0
  outWait : List Nat := []
  deriving DecidableEq, Repr

/-- One step of a calibration run (18 R378). -/
inductive CalKind
  | zero (i : Nat)
  | gain (i : Nat)
  | tiaOff (f : Nat)
  | tiaGain (f : Nat)
  | senseL
  | senseH
  | div10
  deriving DecidableEq, Repr

/-- A field die's calibration state (18): the channel tables (channel × 32 + word, GAIN and factors reset to 1.0), the
runs pending, the active run's channel, steps left, retries of the present step, whether the checks before the first
step have passed, whether a live value is owed before the next step, and the entries measured so far as (word, value). -/
structure Calib where
  words : List (Nat × Word) := []
  pendingRuns : List Nat := []
  active : Option Nat := none
  full : Bool := false
  checked : Bool := false
  steps : List CalKind := []
  tries : Nat := 0
  waitLive : Bool := false
  got : List (Nat × Word) := []
  deriving DecidableEq, Repr

/-- The gaffer (19): whether it adapts, E_ACC in nJ, the package's and each compute die's energy since the last tick in nJ, ticks of
energy in this ms, the clock in MHz that each die is to be raised to once its voltage has settled (R393); and of AVSBus (04 R74, R75)
whether a Voltage command has gone out since the main domain's reset and the failed attempts at each rail's present frame. -/
structure Gaffer where
  running : Bool := false
  eAcc : Int := 0
  tickNj : Nat := 0
  dieNj : List (Nat × Nat) := []
  ticks : Nat := 0
  raise : List (Nat × Nat) := []
  avsUsed : Bool := false
  avsTries : List (Nat × Nat) := []
  deriving DecidableEq, Repr

/-- A tenant's session and keys (20 R408 to R418). Key values never leave the package; a key the DRBG made is the number of its
request, and the wrap key what R412 derives. -/
structure Tenant where
  session : Nat := 0
  sessionId : Nat := 0
  nonce : List Byte := []
  ephemeral : Nat := 0
  wrapKey : Option Nat := none
  memKey : Option Nat := none
  deriving DecidableEq, Repr

/-- Security state of the main part (20): when the main domain was released and start-up testing last began, the sample of each recent
failure, the DRBG's instantiation, whether a reseed that did not complete is owed, the counters that number keys and sessions, per-tenant sessions, and the TAP instruction. -/
structure Sec where
  releasedAt : Nat := 0
  trngAt : Nat := 0
  owed : Bool := false
  fails : List Nat := []
  instantiated : Bool := false
  everValid : Bool := false
  drbgCount : Nat := 0
  reseedAt : Nat := 0
  keyCount : Nat := 0
  sessionCount : Nat := 0
  reserveKey : Option Nat := none
  tap : Nat := 0
  deriving DecidableEq, Repr

/-- The package's place in an ensemble beside its page (21). -/
structure Ens where
  lead : Bool := false
  carriage : List Nat := []
  grp : Nat := 0
  deriving DecidableEq, Repr

/-- A relay port beside its page (21 R425, R426): next SEQ to send and expected, unacknowledged frames as (SEQ, package), consecutive
failures of the present frame, the port's key number. -/
structure Port where
  txSeq : Nat := 0
  rxSeq : Nat := 0
  unacked : List (Nat × Nat) := []
  fails : Nat := 0
  key : Option Nat := none
  deriving DecidableEq, Repr

/-- A guard entry's run-time state (22 R446 to R449): demand of each channel, the sample at which a discrepancy or an
agreement began, INPUT_FAULT, lock-loss demand; and for TYPE 4 the counts and microsteps of the last windows, newest
first. -/
structure Guard where
  demA : Bool := false
  demB : Bool := false
  discAt : Option Nat := none
  agreeAt : Option Nat := none
  fault : Bool := false
  counts : List Int := []
  steps : List Int := []
  overA : Bool := false
  overB : Bool := false
  motion : Bool := false
  deriving DecidableEq, Repr

/-- A safe-stop output pair (22 R450 to R453): 0 de-energised, 1 energised, 2 stopping; latched; readback fault and
the samples since which outputs A and B have read low; the first demanding entry; the sample of the category-1 deadline and the gates
whose stop the pair awaits. -/
structure Pair where
  st : Nat := 0
  latched : Bool := false
  fault : Bool := false
  lowA : Option Nat := none
  lowB : Option Nat := none
  first : Nat := 0
  deadline : Option Nat := none
  stopGates : List Nat := []
  lockGates : List Nat := []
  deriving DecidableEq, Repr

/-- A continuity monitor (22 R455): MON_STATE, the state UNLOCK came from, the committed region, MON_ARG's writer and
sample, CFG_VALID and CFG_ERR, whether a monitor fault has locked the die's pages, the fixed demands, entries and pairs. -/
structure Mon where
  st : Nat := 0
  from_ : Nat := 0
  committed : List Word := []
  committedReset : Word := 0
  argBy : Option (Nat × Nat) := none
  cfgValid : Bool := false
  cfgErr : Nat := 0
  lockAll : Bool := false
  supply : Bool := false
  dieHeat : Bool := false
  entries : List (Nat × Guard) := []
  pairs : List (Nat × Pair) := []
  deriving DecidableEq, Repr

/-- The supply switch and reset pins beside the supply pages (04): input levels in mV, the samples for which the supplies have been
good while the always-on domain is held in reset (R81; none while it is not held), the sample at which the 100 ms return count
started, the sample at which MAIN_PG rose, the first write of the RST_CMD pair as (requester, sample), and the sample of an
accepted second write. -/
structure Sup where
  vaonA : Nat := 3300
  vaonB : Nat := 3300
  vioAon : Nat := 1800
  held : Option Nat := none
  retAt : Option Nat := none
  pgAt : Option Nat := none
  rstFirst : Option (Nat × Nat) := none
  rstAt : Option Nat := none
  deriving DecidableEq, Repr

/-- A field die's VFIO switch (04 R79), whether its outputs have been let go since its reset (04 R81), and the gates whose groups the
supply-loss splice under way concerns (04 R85). -/
structure Fio where
  a : Nat := 24000
  b : Nat := 24000
  retAt : Option Nat := none
  up : Bool := true
  splicing : List Nat := []
  deriving DecidableEq, Repr

/-- The AVSBus commands that the device issues (04 R74). -/
inductive AvsCmd
  | voltageWrite (mv : Nat)
  | voltageRead
  | statusRead
  deriving DecidableEq, Repr

/-- What a command drives out of the package. -/
inductive Output
  | aerInternal (code : Nat)
  | msix (fn vec : Nat)
  | ptpDelayReq (port seq t3Ns : Nat)
  | ppsRise (sec : Nat)
  | ppsFall
  | pcieConfig (fn : Nat) (retry : Bool)
  | etherFrame (port : Nat) (bytes : List Byte)
  | relay (site port type seq : Nat)
  | avs (rail : Nat) (cmd : AvsCmd)
  | spi (site g cs mode div bits : Nat) (lsb : Bool) (bytes : List Byte)
  | mclk (site g : Nat) (on : Bool)
  deriving DecidableEq, Repr

/-- Reasons a command can stop the machine. No command of this block does: a rejected write, a refused request and a
block in FAULT are all next states by the manual (00 R4), so this type is empty. -/
inductive Fault
  deriving DecidableEq, Repr

/-- Reasons a command has no meaning here. -/
inductive Refusal
  /-- Raised by `exec` alone, for a command whose meaning is not written; safe: the machine stops where the block goes
  on. -/
  | notModelled (mnemonic : String)
  deriving DecidableEq, Repr

/-- The state of the block. -/
structure State where
  /-- fitting code of the package fuses (01 R11) -/
  asm : Nat := 2
  /-- ENS_LEAD_N read low at always-on reset (21 R422) -/
  lead : Bool := false
  /-- every register, keyed by BAR0 offset -/
  regs : List (Nat × Word) := []
  /-- per-requester read latches (03 R53), keyed by requester × 2^30 + BAR0 offset -/
  latch : List (Nat × Word) := []
  /-- the data of the latest read: a 32-bit read's, or the lower half of a 64-bit read's -/
  rdata : Word := 0#32
  /-- the upper half of the latest 64-bit read; 0 after a 32-bit read -/
  rdataHi : Word := 0#32
  /-- the state that each HALTED page held before HALTED (03 R54), by the page's BAR0 offset; a stream's is its own record's -/
  back : List (Nat × Nat) := []
  /-- each function's MSI-X table and pending-bit array (06 R109), keyed by function × 2^13 + BAR2 offset -/
  bar2 : List (Nat × Word) := []
  /-- everything the package has driven out since reset, oldest first (the MODEL's own record, log 5) -/
  out : List Output := []
  /-- 5 ns samples since the always-on domain left reset (02) -/
  now : Nat := 0
  /-- clapper time in 2^-24 ns (02) -/
  clapper : Nat := 0
  /-- the clapper servo -/
  clk : Clk := {}
  /-- supply inputs, switch and reset sequencing -/
  sup : Sup := {}
  /-- VFIO switch by field-die site -/
  fios : List (Nat × Fio) := []
  /-- axis tick counter per field die (02 R41) -/
  ticks : List (Nat × Nat) := []
  /-- encoders, key site × 8 + e -/
  encs : List (Nat × Enc) := []
  /-- position units, key site × 8 + g -/
  poss : List (Nat × Pos) := []
  /-- armed clapper events by n -/
  cevs : List (Nat × Armed) := []
  /-- armed segment starts, key site × 16 + leader axis -/
  segArms : List (Nat × Armed) := []
  /-- transaction slots, key site × 4 + k -/
  slots : List (Nat × Slot) := []
  /-- cross-site groups -/
  groups : List (Nat × Group) := []
  /-- number of armings so far (02 R44) -/
  order : Nat := 0
  /-- meter channels, key site × 8 + m -/
  meters : List (Nat × Meter) := []
  /-- calibration state by field-die site -/
  calibs : List (Nat × Calib) := []
  /-- the gaffer -/
  gaffer : Gaffer := {}
  /-- sessions and keys by tenant -/
  tenants : List (Nat × Tenant) := []
  /-- TRNG, key manager and TAP -/
  sec : Sec := {}
  /-- ensemble membership -/
  ens : Ens := {}
  /-- relay ports, key site × 4 + p -/
  ports : List (Nat × Port) := []
  /-- continuity monitors by site -/
  mons : List (Nat × Mon) := []
  /-- the running image -/
  boot : Boot := {}
  /-- on-package memories: control-core memories, bins, core stores, line buffers and stacks, keyed by `ramKey` -/
  ram : List (Nat × Byte) := []
  /-- host memory as the device's DMA sees it, by host address (log 10) -/
  hmem : List (Nat × Byte) := []
  /-- host words of 8 bytes, by address ÷ 8, whose reads complete poisoned or in error (11 R231; log 76) -/
  badCpl : List Nat := []
  /-- after a package-fatal error the host die's main part can no longer write records (11 R243; log 77) -/
  mute : Bool := false
  /-- the boot flash, by byte address; an unlisted byte is erased and reads 0xFF (05 R92; log 47) -/
  flash : List (Nat × Byte) := []
  /-- bits of a flash byte that read 0 or 1 anew at each read, by byte address (05 R106) -/
  weak : List (Nat × Byte) := []
  /-- tenants whose SLATE_LOAD or SLATE_UNLOAD request waits, in the order of their doorbells (09 R180) -/
  loads : List Nat := []
  /-- the sample until which the control core of a field die or of the boot master restarts, by site (05 R91; log 36) -/
  restarts : List (Nat × Nat) := []
  /-- dailies rings by d -/
  rings : List (Nat × DRing) := []
  /-- streams, key site × 16 + s -/
  strms : List (Nat × Strm) := []
  /-- gates, key site × 8 + g -/
  gates : List (Nat × Gate) := []
  /-- axes, key site × 16 + a -/
  axes : List (Nat × Axis) := []
  /-- axis groups, key site × 32 + g, or + 8 + a for an axis of no gate -/
  grps : List (Nat × Grp) := []
  /-- slot rings, key (site × 256 + core) × 8 + r -/
  slotRings : List (Nat × SRing) := []
  /-- cue queues of handles, key site × 4096 + physical queue -/
  cueQs : List (Nat × List Nat) := []
  /-- bin flags as EPOCH × 2^16 + VALUE, key site × 65536 + physical flag -/
  binFlags : List (Nat × Nat) := []
  /-- loaded slates by handle index -/
  slates : List (Nat × Slate) := []
  /-- generation of each handle index (09 R181) -/
  gens : List (Nat × Nat) := []
  /-- cancelled epochs by die -/
  cancels : List (Nat × List Nat) := []
  /-- take queues, key t × 8 + q -/
  tqs : List (Nat × TQ) := []
  /-- the choice of takes -/
  sched : Sched := {}
  /-- DMA queues, key (site × 256 + core) × 4 + q -/
  dqs : List (Nat × DQ) := []
  /-- neural cores, key site × 256 + core -/
  cores : List (Nat × Core) := []
  /-- combine units, key site × 4 + bay -/
  cmbs : List (Nat × Cmb) := []
  /-- vision engines, key site × 8 + e -/
  engs : List (Nat × Eng) := []
  /-- MMUs by tenant -/
  mmus : List (Nat × Mmu) := []
  /-- owner of each 2 MiB granule as tenant + 1, 0 unassigned -/
  grans : List (Nat × Nat) := []
  /-- the granule being zeroed -/
  granBusy : Option Nat := none
  /-- `ramKey` of the first byte of every poisoned word or line -/
  poison : List Nat := []
  /-- token buckets (10 R214): key (handle index × 64 + group) × 4 + kind, spent tokens in 1/320000 byte and the sample of the last spending -/
  buckets : List (Nat × Nat × Nat) := []
  /-- arbitration points (10 R212): key site × 64 + a bin bank 0–15, 16 + memory controller, 32 + the die at a link's far end, 48 + a
  bay's relay port -/
  arbs : List (Nat × Arb) := []
  /-- the cap on transfers in flight by die (10 R202) -/
  capQs : List (Nat × CapQ) := []
  /-- sample + 1 of the last regulator acknowledge by compute site (19 R393) -/
  avs : List (Nat × Nat) := []
  /-- works whose first bound fault has been recorded, as (t or 16, q, n or handle) -/
  bndTaken : List (Nat × Nat × Nat) := []
  /-- corrected errors of a die in the present clapper hour, by site: the hour and the count (11 CE_THRESH) -/
  ces : List (Nat × Nat × Nat) := []
  /-- next line of a stack's scrub pass, key site × 2 + controller (11 R240) -/
  scrubs : List (Nat × Nat) := []
  /-- the MODEL's own counter of free values drawn (log 4); nothing rests on its value -/
  free : Nat := 0
  /-- the queue of commands waiting, first in first out -/
  pending : List Instr := []
  deriving DecidableEq, Repr

/-- The machine right after reset: every register at its reset value (`regs` lists nothing), every unit idle, no command
waiting. -/
def State.reset : State := {}

end Sys2Proof.Machine
end

