-- ==== Sys2Proof/Machine/Ops.lean ====
section
/-!
DEFINITION. Machine/Ops.lean: the named operations every command is built from: reading and writing registers, events
and interrupts (03 R57, 06 R111), fault records (03 R58), rejections (03 R71), the page state machine (03 R54), presence
(24 R479, R481), reach (06 R110) and time.
-/
namespace Sys2Proof.Machine

/-- What the register at a BAR0 offset holds. -/
def State.reg (s : State) (a : Nat) : Word := tabGet (regReset s.asm a) s.regs a

/-- Write the register at a BAR0 offset. -/
def State.setReg (s : State) (a : Nat) (v : Word) : State := { s with regs := tabPut (regReset s.asm a) s.regs a v }

/-- The field of `w` bits from bit `lo` of a register. -/
def State.regFld (s : State) (a lo w : Nat) : Nat := fld (s.reg a) lo w

/-- Set a field of a register. -/
def State.putFld (s : State) (a lo w x : Nat) : State := s.setReg a (setFld (s.reg a) lo w x)

/-- A bit of a register. -/
def State.regBit (s : State) (a i : Nat) : Bool := bitOf (s.reg a) i

/-- Set a bit of a register. -/
def State.putBit (s : State) (a i : Nat) (b : Bool) : State := s.setReg a (setBit (s.reg a) i b)

/-- Add to a counter register, saturating at 2^32 - 1. -/
def State.addSat (s : State) (a n : Nat) : State := s.setReg a (BitVec.ofNat 32 (satNat 0xFFFFFFFF ((s.reg a).toNat + n)))

/-- Add to a counter register, wrapping. -/
def State.addWrap (s : State) (a n : Nat) : State := s.setReg a (s.reg a + BitVec.ofNat 32 n)

/-- Write a register with a number. -/
def State.setNat (s : State) (a n : Nat) : State := s.setReg a (BitVec.ofNat 32 n)

/-- Write the register pair LO, HI with a number of up to 64 bits. -/
def State.setWide (s : State) (a n : Nat) : State := (s.setNat a (n % 2 ^ 32)).setNat (a + 4) (n / 2 ^ 32)

/-- The register pair LO, HI as a number. -/
def State.wide (s : State) (a : Nat) : Nat := (s.reg a).toNat + (s.reg (a + 4)).toNat * 2 ^ 32

/-- Drive something out of the package. -/
def State.emit (s : State) (o : Output) : State := { s with out := s.out ++ [o] }

/-- Draw a free value's number: the MODEL's own counter advances (log 4). -/
def State.draw (s : State) : State := { s with free := s.free + 1 }

/-- Clapper time in whole ns (02). -/
def State.ns (s : State) : Nat := s.clapper / 2 ^ 24

/-- Clapper time in whole µs. -/
def State.us (s : State) : Nat := s.ns / 1000

/-- MAIN_OK: the main domain is powered and out of reset (04 SUP_STATUS [5]). -/
def State.mainOk (s : State) : Bool := s.regBit (pg 8 2 + 0x40) 5

/-- The bit of SITE_UP and SITE_FITTED of a site (01). -/
def siteBit (site : Nat) : Nat := if site < 4 then site else 12 + (site - 8)

/-- SITE_UP of a site (01). -/
def State.siteUp (s : State) (site : Nat) : Bool := s.regBit (pg 8 0 + 0x4C) (siteBit site)

/-- Whether a site carries a field die. -/
def State.isField (s : State) (site : Nat) : Bool := dieAt s.asm site == .field

/-- Whether a field die's outputs have been let go (05 R97, R101; 04 R81): its firmware has been started (CORE_UP) and its selected VFIO
input has reached 19.2 V. Until then every field pin holds its power-up state. -/
def State.fieldUp (s : State) (site : Nat) : Bool :=
  s.regBit (pg 8 3 + 0x54) (site % 8 + 8) && (tabGet ({} : Fio) s.fios site).up

/-- The block type of the page at a site and block. -/
def State.typeAt (s : State) (site blk : Nat) : Nat := pageType s.asm site blk

/-- Whether a page is present now (24 R479, R481; 01 R22): field-die pages and the always-on pages of X0 always, the
rest of X0 while MAIN_OK is 1, compute and link pages while their die is up as well. -/
def State.present (s : State) (site blk : Nat) : Bool :=
  s.typeAt site blk != 0 &&
    (match dieAt s.asm site with
     | .field => true
     | .host => decide (blk ≤ 4) || s.mainOk
     | .compute => s.mainOk && s.siteUp site
     | .link => s.mainOk && s.siteUp site
     | .none => false)

/-- Whether a page belongs to a tenant (06 R110): a mailbox, a take queue or a dailies ring. -/
def tenantOwned (ty : Nat) : Bool := ty == 0x06 || ty == 0x08 || ty == 0x09

/-- The function and vector that a page's EVT_PEND signals (06 R111). -/
def irqRoute (s : State) (p : Nat) : Nat × Nat :=
  let site := siteOf p
  let blk := blkOf p
  let ty := s.typeAt site blk
  if ty = 0x06 then (blk - 0x20, 24)
  else if ty = 0x08 then ((blk - 0x100) / 8, 16 + (blk - 0x100) % 8)
  else if ty = 0x09 then (s.regFld (p + 0x40) 0 4, 32 + (blk - 0x80))
  else (0, site)

/-- EVT_PEND of a page: EVT_RAW AND EVT_MASK (03 R57). -/
def State.pend (s : State) (p : Nat) : Word := s.reg (p + 0x10) &&& s.reg (p + 0x14)

/-- A word of a function's BAR2 (06 R109): the MSI-X table of 128 entries from 0, of 16 bytes each (address, data, vector control), and
the pending-bit array from 0x1000. -/
def bar2At (fn off : Nat) : Nat := fn % 16 * 2 ^ 13 + off % 2 ^ 13
/-- PRESUMED (PCI Express, log 72): an entry's vector control is reset with its mask bit set; the spec gives no reset value. -/
def bar2Reset (k : Nat) : Word := if k % 2 ^ 13 < 0x800 ∧ k % 16 = 12 then 1#32 else 0#32
def State.bar2Reg (s : State) (k : Nat) : Word := tabGet (bar2Reset k) s.bar2 k
def State.setBar2 (s : State) (k : Nat) (v : Word) : State := { s with bar2 := tabPut (bar2Reset k) s.bar2 k v }

/-- Signal a function's vector (06 R109, R111): the message goes out, or, while the vector is masked, its pending bit is set. -/
def State.msix (s : State) (fn vec : Nat) : State :=
  let pba := bar2At fn (0x1000 + vec / 32 % 4 * 4)
  if bitOf (s.bar2Reg (bar2At fn (vec % 128 * 16 + 12))) 0 then s.setBar2 pba (setBit (s.bar2Reg pba) (vec % 32) true)
  else s.emit (.msix fn vec)

/-- A write of a word of a function's MSI-X table (06 R109): a vector that is unmasked while it is pending is signalled. PRESUMED (PCI
Express, log 72): of vector control the mask bit alone is held; the pending-bit array is read-only. -/
def State.bar2Write (s : State) (fn off : Nat) (val : Word) : State :=
  let k := bar2At fn off
  let vec := off / 16 % 128
  let pba := bar2At fn (0x1000 + vec / 32 % 4 * 4)
  if 0x800 ≤ off then s
  else if off % 16 ≠ 12 then s.setBar2 k val
  else
    let s1 := s.setBar2 k (val &&& 1#32)
    if bitOf val 0 = false ∧ bitOf (s.bar2Reg pba) (vec % 32) = true then (s1.setBar2 pba (setBit (s.bar2Reg pba) (vec % 32) false)).emit (.msix fn vec) else s1

/-- A function's MSI-X table and pending bits return to their reset values (06 R138). -/
def State.bar2Clear (s : State) (fn : Nat) : State := { s with bar2 := s.bar2.filter (fun x => x.1 / 2 ^ 13 != fn) }

/-- Signal the page's vector if its EVT_PEND has just become non-zero and PCIe is up (06 R111, R112). -/
def State.signal (s : State) (before : Word) (p : Nat) : State :=
  if before = 0#32 ∧ s.pend p ≠ 0#32 ∧ s.mainOk = true then s.msix (irqRoute s p).1 (irqRoute s p).2 else s

/-- EVT_PEND of a page as it reads, and its bit of PEND_MAP on the interrupt page while the main domain is up (03 R57; 06). -/
def State.showPend (s : State) (p : Nat) : State :=
  let s1 := s.setReg (p + 0x18) (s.pend p)
  if s.mainOk then s1.putBit (pg 8 6 + 0x100 + 0x80 * siteOf p + 4 * (blkOf p / 32)) (blkOf p % 32) (s.pend p != 0#32) else s1

/-- Latch an event bit of a page (03 R57), after the state change it reports (06 R112). -/
def State.evt (s : State) (p bit : Nat) : State :=
  ((s.putBit (p + 0x10) bit true).showPend p).signal (s.pend p) p

/-- Latch an event bit if a condition holds. -/
def State.evtIf (s : State) (c : Bool) (p bit : Nat) : State := if c then s.evt p bit else s

/-- Record a rejected write (03 R71): REJ_INFO and WR_REJECT. -/
def State.reject (s : State) (req p off reason : Nat) : State :=
  (s.setNat (p + 0x34) (off % 4096 + reason * 2 ^ 12 + req % 32 * 2 ^ 16)).evt p 24

/-- Record a write to an absent page (01 R19). -/
def State.absent (s : State) (addr : Nat) : State :=
  (s.setNat (pg 8 0 + 0x50) addr).evt (pg 8 0) 0

/-- STATE of a page (03): 0 OFF, 1 STARTING, 2 RUNNING, 3 STOPPING, 4 HALTED, 5 FAULT, 6 PACED, 7 LOCKED. -/
def State.st (s : State) (p : Nat) : Nat := s.regFld (p + 0xC) 0 3

/-- Move a page to a state; a change sets STATE_CHANGE (03). -/
def State.setSt (s : State) (p x : Nat) : State :=
  if s.st p = x then s else (s.putFld (p + 0xC) 0 3 x).evt p 25

/-- RUNNING or PACED. -/
def State.active (s : State) (p : Nat) : Bool := s.st p == 2 || s.st p == 6

/-- Record a fault (03 R58): a later fault overwrites the record only if its class is higher; otherwise OVERFLOWED. DESIGN CHOICE
(log 69): the overwrite writes the record whole, so OVERFLOWED is then 0; R58 does not say whether it is kept. -/
def State.faultRec (s : State) (p code cls : Nat) : State :=
  if s.regFld (p + 0x1C) 16 3 < cls then s.setNat (p + 0x1C) (code + cls * 2 ^ 16) else s.putBit (p + 0x1C) 31 true

/-- Put a page in FAULT with a code and class (03 R54, R55, R58): PENDING_EN is cleared, FAULT is set. -/
def State.toFault (s : State) (p code cls : Nat) : State :=
  (((s.faultRec p code cls).putBit (p + 8) 1 false).setSt p 5).evt p 26

/-- A block fault by the table of 03 R54: it moves the page from STARTING, RUNNING, PACED, HALTED and STOPPING; in OFF
and LOCKED it only records its code. -/
def State.blockFault (s : State) (p code cls : Nat) : State :=
  if s.st p = 0 ∨ s.st p = 7 then s.faultRec p code cls
  else if s.st p = 5 then s.faultRec p code cls
  else s.toFault p code cls

/-- HALTED from RUNNING or PACED alone, keeping the state held before (03 R54). -/
def State.halt (s : State) (p : Nat) : State :=
  if s.active p then { s.setSt p 4 with back := tabPut 2 s.back p (s.st p) } else s

/-- A resume: HALTED back to the state held before (03 R54). -/
def State.unhalt (s : State) (p : Nat) : State :=
  if s.st p = 4 then { s.setSt p (tabGet 2 s.back p) with back := tabDrop p s.back } else s

/-- Put a page in LOCKED for the continuity monitor (`safety`) or for security (03 R54, R56). DESIGN CHOICE (log 69): EN and
PENDING_EN are cleared, so that the release leaves the page in OFF with no start pending; the table of R54 does not say what
becomes of them. -/
def State.lock (s : State) (p : Nat) (safety : Bool) : State :=
  (((s.putBit (p + 0xC) (if safety then 4 else 5) true).putBit (p + 8) 1 false).setSt p 7).putBit (p + 8) 0 false

/-- Release one owner's lock: the page goes to OFF once no lock is left (03 R54). -/
def State.unlock (s : State) (p : Nat) (safety : Bool) : State :=
  let s1 := s.putBit (p + 0xC) (if safety then 4 else 5) false
  if s1.st p = 7 ∧ s1.regFld (p + 0xC) 4 2 = 0 then s1.setSt p 0 else s1

/-- Whether a requester may reach a page (06 R110; 20 Debug page, R417). Tenant 0, control cores, the boot master and
the relay reach every page; the debug port reaches field-die pages and the always-on pages of X0, and every page while
the debug page is RUNNING. -/
def State.reach (s : State) (req site blk : Nat) : Bool :=
  if req = 0 ∨ req = 16 ∨ req = 17 ∨ req = 18 then true
  else if req = 19 then
    dieAt s.asm site == .field || (site == 8 && decide (blk ≤ 4)) || s.st (pg 8 0x0A) == 2
  else
    site == 8 && (blk == 0x20 + req || (decide (0x100 + 8 * req ≤ blk) && decide (blk < 0x108 + 8 * req))
      || (s.typeAt 8 blk == 0x09 && s.regFld (pg 8 blk + 0x40) 0 4 == req))

/-- ENS_STATE's state code (21): 0 SOLO, 1 FORMING, 2 FORMED, 3 DEGRADED, 4 ISOLATED. -/
def State.ensSt (s : State) : Nat := s.regFld (pg 8 0x0C + 0x40) 0 3

/-- Whether this package is a member, not the lead, of a formed ensemble (21 R430). -/
def State.isMember (s : State) : Bool := (s.ensSt == 2 || s.ensSt == 3) && !s.lead

/-- Whether a write by a requester is turned away with LOCKED by reach alone (06 R110): tenant 0 may not write another
tenant's take-queue page, TENANT_WEIGHT apart; a mailbox page takes writes from its own function alone (05 R103), the flash page
from tenant 0 and the boot master alone (05 R104), the monitor page from tenant 0
alone (22 R458). -/
def State.writeReach (s : State) (req site blk off : Nat) : Bool :=
  s.reach req site blk &&
    !(req == 0 && s.typeAt site blk == 0x08 && decide (0x108 ≤ blk) && !(off == 0x70)) &&
    !(s.typeAt site blk == 0x06 && !(req == blk - 0x20)) &&
    !(s.typeAt site blk == 0x05 && !(req == 0 || req == 17)) &&
    !(s.typeAt site blk == 0x3E && !(req == 0 || (req == 18 && s.isMember)))

/-- What BAR0 exposes: in RECOVERY_WAIT the host-die pages alone, to function 0 (05 R101); on a member of an ensemble its own
function 0 reaches the always-on pages of X0 and the ensemble page, and no requester a take queue or mailbox (21 R430). -/
def State.bar0 (s : State) (req site blk : Nat) : Bool :=
  (!(decide (req < 16) && s.regFld (pg 8 3 + 0x40) 0 3 == 5) || (site == 8 && req == 0)) &&
    !(s.isMember && ((decide (req < 16) && !(req == 0 && site == 8 && (decide (blk ≤ 4) || blk == 0x0C || blk == 0x20)))
      || (decide (16 < req) && (s.typeAt site blk == 0x08 || s.typeAt site blk == 0x06))))

/-- What a write command meets before its own rule (01 R19; 03 R50; 04 R81; 05 R101; 06 R110): `some s'` is the outcome of a write that
is turned away, `none` lets it on. While the always-on domain is held in reset nothing answers. -/
def State.gateWrite (s : State) (req site blk off : Nat) : Option State :=
  if s.sup.held ≠ none then some s
  else if s.present site blk = false ∨ s.bar0 req site blk = false then some (s.absent (pg site blk + off))
  else if s.writeReach req site blk off = false then some (s.reject req (pg site blk) off 4)
  else none

/-- Run a write command's own rule, on a page of block type `ty`, once presence and reach let it on. A command that
names a page of another type is no such command and changes nothing. -/
def State.asWrite (s : State) (ty req site blk off : Nat) (k : State → State) : State :=
  match s.gateWrite req site blk off with
  | some s' => s'
  | none => if s.typeAt site blk = ty then k s else s

/-- A write's effect on a register's bits: writable bits take the value, W1C bits clear where it holds 1. -/
def maskedWrite (r : RegDef) (old v : Word) : Word :=
  ((old &&& ~~~ BitVec.ofNat 32 r.wm) ||| (v &&& BitVec.ofNat 32 r.wm)) &&& ~~~ (v &&& BitVec.ofNat 32 r.w1c)

/-- The checks of a write that need no state (00 R5, R7; 03 R71): READ_ONLY, RESERVED_BIT, RANGE. -/
def staticReason (r : RegDef) (v : Word) : Option Nat :=
  if r.acc = .ro then some 1
  else if v &&& BitVec.ofNat 32 r.chk ≠ 0#32 then some 2
  else if r.lims.all (fun l => decide (l.2.2.1 ≤ fld v l.1 l.2.1) && decide (fld v l.1 l.2.1 ≤ l.2.2.2)) then none
  else some 3

/-- A value's WHEN decoded (02 R39): `none` for a reserved KIND, an absent stream or a reserved bit set. -/
def decodeWhen (asm : Nat) (w : Nat) : Option When :=
  let kind := w / 2 ^ 60
  if kind = 0 then (if w % 2 ^ 60 = 0 then some { kind := 0 } else none)
  else if kind = 1 then
    let str := w / 2 ^ 55 % 32
    if w / 2 ^ 48 % 2 ^ 7 = 0 ∧ str < streamCount asm then some { kind := 1, stream := str, value := w % 2 ^ 48 } else none
  else if kind = 2 then (if w / 2 ^ 48 % 2 ^ 12 = 0 then some { kind := 2, value := w % 2 ^ 48 } else none)
  else if kind = 3 then (if w / 2 ^ 56 % 16 = 0 then some { kind := 3, value := w % 2 ^ 56 } else none)
  else none

/-- The field die that carries a package stream, and its local number (01, 24): streams 0-15 lie at X3 of the Gate node
and at X1 of the Gate head, 16-31 at X3 of the Gate head. -/
def streamSite (asm str : Nat) : Nat := if asm = 3 ∧ str < 16 then 9 else 11

/-- The package stream of local stream `k` of a field die. -/
def packageStream (asm site k : Nat) : Nat := if asm = 3 ∧ site = 11 then k + 16 else k

/-- The axis tick counter of a field die (02 R41). -/
def State.tick (s : State) (site : Nat) : Nat := tabGet 0 s.ticks site

/-- The tick counter has reached a value (02 R41). -/
def tickReached (ctr v : Nat) : Bool := decide ((ctr + 2 ^ 48 - v % 2 ^ 48) % 2 ^ 48 < 2 ^ 47)

/-- The position unit of a local gate. -/
def State.pos (s : State) (site g : Nat) : Pos := tabGet {} s.poss (site * 8 + g)
/-- Write a position unit. -/
def State.setPos (s : State) (site g : Nat) (x : Pos) : State := { s with poss := tabPut {} s.poss (site * 8 + g) x }

/-- The first line of a package stream's gate that has not been triggered in the present run, nor passed by a SKIP (02 R40): a
retake or a restart scans lines below it again without making them new. -/
def State.nextLine (s : State) (str : Nat) : Nat :=
  let site := streamSite s.asm str
  max (s.pos site (str % 16 / 2)).line (tabGet ({} : Gate) s.gates (site * 8 + str % 16 / 2)).top

/-- Whether an action's WHEN has passed (02 R40), on the field die of `site` for a TICK. A LINE action armed while its
gate is OFF waits for the next run (02 R46). -/
def State.passed (s : State) (site : Nat) (w : When) : Bool :=
  if w.kind = 1 then
    let gs := streamSite s.asm w.stream
    decide (w.value < s.nextLine w.stream) && !(s.st (pg gs (0x20 + w.stream % 16 / 2)) == 0)
  else if w.kind = 2 then tickReached (s.tick site) w.value
  else if w.kind = 3 then decide (w.value * 1000 ≤ s.ns)
  else false

/-- The next boundary of a KIND (02 R40): for a CLAPPER action the next whole µs, for a TICK action the next tick. -/
def State.nextBoundary (s : State) (site kind : Nat) : Nat :=
  if kind = 3 then s.us + 1 else if kind = 2 then s.tick site + 1 else 0

/-- Arm an action: it takes its place in the arming order (02 R44); one that is already late runs at the next boundary
of its kind (02 R40, R42). -/
def State.armed (s : State) (site : Nat) (w : When) (discard : Bool) : Armed :=
  { at_ := w, discard := discard, order := s.order, late := s.passed site w, lateAt := s.nextBoundary site w.kind }

/-- Whether an armed CLAPPER or TICK action is due now (02 R40). -/
def State.due (s : State) (site : Nat) (a : Armed) : Bool :=
  if a.at_.kind = 3 then decide ((if a.late then a.lateAt else a.at_.value) * 1000 ≤ s.ns)
  else if a.at_.kind = 2 then tickReached (s.tick site) (if a.late then a.lateAt else a.at_.value)
  else a.at_.kind == 0

/-- How long ago an armed action's boundary came, in µs or ticks (02 R40): of two actions that wait, the one whose boundary came
first is the larger. -/
def State.overdue (s : State) (site : Nat) (a : Armed) : Nat :=
  let v := if a.late then a.lateAt else a.at_.value
  if a.at_.kind = 3 then s.us - v else if a.at_.kind = 2 then (s.tick site + 2 ^ 48 - v % 2 ^ 48) % 2 ^ 48 else 0

/-- Whether action `a` runs before action `b` (02 R44; 03 R66): its boundary came first, or at the same boundary it was armed first. -/
def State.runsBefore (s : State) (site : Nat) (a b : Armed) : Bool :=
  decide (s.overdue site b < s.overdue site a) || (s.overdue site a == s.overdue site b && decide (a.order < b.order))

/-- What TXN_LATE, PITCH_LATE, CEVn_LATE and SEG_LATE record: the line, tick or µs at which a late action runs. -/
def State.lateStamp (s : State) (site line : Nat) (a : Armed) : Nat :=
  (if a.at_.kind = 3 then s.us else if a.at_.kind = 2 then s.tick site else line) % 2 ^ 32

/-- Bytes of a list as one little-endian number (00 R6). -/
def leNat : List Byte → Nat
  | [] => 0
  | b :: bs => b.toNat + 256 * leNat bs

/-- A number as `n` little-endian bytes. -/
def leBytes (n x : Nat) : List Byte :=
  match n with
  | 0 => []
  | k + 1 => BitVec.ofNat 8 x :: leBytes k (x / 256)

/-- The `n` bytes of a block from an offset, as a number; bytes past its end read 0. -/
def leAt (bs : List Byte) (off n : Nat) : Nat := leNat ((bs.drop off).take n)

/-- One step of the CRC-32 of IEEE 802.3 over one byte, on the reflected register. -/
def crcByte (crc : Nat) (b : Byte) : Nat :=
  (List.range 8).foldl (fun c _ => if c % 2 = 1 then (c / 2) ^^^ 0xEDB88320 else c / 2) (crc ^^^ b.toNat)

/-- CRC-32 of a run of bytes (05 R94). -/
def crc32 (bs : List Byte) : Nat := (bs.foldl crcByte 0xFFFFFFFF) ^^^ 0xFFFFFFFF

/-- The bytes of a run of registers. -/
def State.regBytes (s : State) (a n : Nat) : List Byte :=
  (List.range n).flatMap (fun i => leBytes 4 (s.reg (a + 4 * i)).toNat)

/-- The package's own number (21 R424): the package field of records and epochs. -/
def State.pkg (s : State) : Nat := s.regFld (pg 8 12 + 0x40) 4 4

end Sys2Proof.Machine
end

