-- ==== Sys2Proof/Machine/MonOps.lean ====
section
/-!
DEFINITION. Machine/MonOps.lean: reading the continuity monitor's records and committed guard entries (22 Control).
-/
namespace Sys2Proof.Machine

/-- A set of the numbers below n as a bit mask. -/
def maskOf (n : Nat) (f : Nat → Bool) : Nat := (List.range n).foldl (fun a i => if f i then a + 2 ^ i else a) 0

/-- The monitor page of a field die. -/
def monPage (site : Nat) : Nat := pg site 0x90

/-- A field die's monitor. -/
def State.mon (s : State) (site : Nat) : Mon := tabGet {} s.mons site
/-- Write a field die's monitor. -/
def State.setMon (s : State) (site : Nat) (x : Mon) : State := { s with mons := tabPut {} s.mons site x }

/-- A guard entry's and a pair's record. -/
def Mon.entry (m : Mon) (e : Nat) : Guard := tabGet {} m.entries e
def Mon.pair (m : Mon) (n : Nat) : Pair := tabGet {} m.pairs n
def Mon.setEntry (m : Mon) (e : Nat) (x : Guard) : Mon := { m with entries := tabPut {} m.entries e x }
def Mon.setPair (m : Mon) (n : Nat) (x : Pair) : Mon := { m with pairs := tabPut {} m.pairs n x }

/-- Word w of committed guard entry e (22 Control). -/
def Mon.word (m : Mon) (e w : Nat) : Word := m.committed.getD (4 * e + w) 0#32
/-- Fields of a committed guard entry. -/
def Mon.type (m : Mon) (e : Nat) : Nat := fld (m.word e 0) 0 3
def Mon.gate (m : Mon) (e : Nat) : Nat := fld (m.word e 0) 4 3
def Mon.pairs_ (m : Mon) (e : Nat) : Nat := fld (m.word e 0) 8 4
def Mon.cat1 (m : Mon) (e : Nat) : Bool := bitOf (m.word e 0) 12
def Mon.names (m : Mon) (e n : Nat) : Bool := m.type e != 0 && m.pairs_ e / 2 ^ n % 2 == 1

/-- Whether an ACTIVE monitor uses meter channel ch as a guard input (18 R381; 22 R457). -/
def State.guardMeter (s : State) (site ch : Nat) : Bool :=
  let m := s.mon site
  m.st == 3 && (List.range 16).any (fun e =>
    (m.type e == 1 || m.type e == 2) && (fld (m.word e 1) 0 3 == ch || fld (m.word e 1) 8 3 == ch))

/-- Whether an ACTIVE monitor's motion guard uses encoder e, or axis a (22 R457). -/
def State.guardEncoder (s : State) (site enc : Nat) : Bool :=
  let m := s.mon site
  m.st == 3 && (List.range 16).any (fun e => m.type e == 4 && fld (m.word e 1) 0 3 == enc)
def State.guardAxis (s : State) (site a : Nat) : Bool :=
  let m := s.mon site
  m.st == 3 && (List.range 16).any (fun e => m.type e == 4 && fld (m.word e 1) 4 4 == a)

end Sys2Proof.Machine
end

