-- ==== Sys2Proof/Config.lean ====
section
/-!
DEFINITION. Config.lean: what the manual leaves open. Each is a constant without a body, so nothing can be proved of its
value: a statement that holds, holds for every value. The log entry that declares each is named.
-/
namespace Sys2Proof.Config

/-- A free value (log 4): the n-th value the manual leaves open on this run. -/
opaque freeWord : Nat → Word

/-- A free choice (log 4): where the manual allows either of two outcomes. -/
opaque freeBool : Nat → Bool

/-- The firmware servo's wanted INCR from the measured offset in ns and the present INCR (02: the servo's law is not
given, only its bounds; log 7). -/
opaque servoIncr : Int → Nat → Int

/-- The bits that a platinum curve c gives a resistance (FP32) in °C (FP32): 17 R366 asks for 0.005 °C and no more (log 8). -/
opaque rtd : Nat → Word → Word

/-- The reference function of thermocouple curve c (17 R366, R367): mV, as a fraction, at a temperature in °C (FP32). The spec names
IEC 60584-1 and does not give it (log 8). -/
opaque emf : Nat → Word → Int × Nat

/-- Its inverse (17 R367): °C (FP32) from mV as a fraction in lowest terms (log 8). -/
opaque emfTemp : Nat → Int → Nat → Word

/-- SHA-384 of a run of bytes as a 384-bit number (05 R94, 20; log 9). -/
opaque sha384 : List Byte → Nat

/-- ECDSA P-384 verification: public key, digest, signature (05 R94, 20, 21; log 9). -/
opaque ecdsaVerify : List Byte → Nat → List Byte → Bool

/-- ECDSA P-384 signature by the identity key over a digest, 96 bytes as a number (20 R411; log 9). -/
opaque identitySign : Nat → Nat

/-- Whether 96 bytes are a point of P-384 other than infinity (20 R412; log 9). -/
opaque onCurve : List Byte → Bool

/-- The public point of the ephemeral key of a number (20 R411; log 9). -/
opaque ephemeralPub : Nat → Nat

/-- The public identity key's SHA-384, 12 words (20 ID_HASH; log 9). -/
opaque idHash : Nat → Word

/-- Z of R412: the x-coordinate of the shared point of an ephemeral key's number and an owner's public key (20; log 9). -/
opaque ecdhX : Nat → List Byte → List Byte

/-- HKDF (RFC 5869) with SHA-384 of 32 bytes: salt, input keying material, info (20 R412; log 9). -/
opaque hkdf : List Byte → List Byte → List Byte → Nat

/-- The identity and intermediate certificates as DER, at most 4096 bytes (20 R411; log 9). -/
opaque certChain : List Byte

/-- The HMAC_DRBG's 32-bit output number n of instantiation k (20 R405, R407; log 9). -/
opaque drbg : Nat → Nat → Word

/-- AES-256-GCM tag check and plaintext of one chunk under a wrap key: key, nonce, additional data, ciphertext
and tag (20 R413; log 9). -/
opaque gcmOpen : Nat → List Byte → List Byte → List Byte → Option (List Byte)

/-- The longest time in µs that the flash's SFDP declares for a 4 KiB erase (0) and a 64 KiB erase (1) (05 R92, R105; log 2). -/
opaque eraseMaxUs : Nat → Nat

/-- The MAC address of an Ethernet port, and the time to live and identification of an export frame's IPv4 header (06 R134; log 72). -/
opaque netMac : Nat → Nat
opaque netTtl : Nat
opaque netIpId : List (BitVec 8) → Nat

/-- The displacement that a frame descriptor carries (12 Match; 14 R301), in 1/256 of a level-0 pixel, down (0) and across (1), from the
trigger positions of the frame's first line and of its reference's; the manual calls it encoder-derived and gives no formula (log 54). -/
opaque framePred : Nat → Int → Int → BitVec 32

/-- The motion of block i of a BAD_FRAME unit with a reference, {DX, DY}: job record, descriptor, i; not stated (12 R258; log 54). -/
opaque badMotion : List (BitVec 8) → Nat → Nat → BitVec 32

/-- Whether a unit reads the n-th poisoned word of its line buffer before it overwrites it: the buffer's layout is the engine's own (11
R239; 12 R259; log 76). -/
opaque lineRead : Nat → Bool

/-- AES-256-XTS of one 64-byte stack line: key number, the line's DPA, plaintext (11 R229; log 9). -/
opaque xtsLine : Nat → Nat → List (BitVec 8) → List (BitVec 8)

/-- The fused hash of the firmware public key (05 R95; log 9). -/
opaque fwKeyHash : Nat

/-- The vector unit's functions (07 Vector unit: a fixed table and polynomial, within 2 ULP; bits not given; log 42), on an FP32
word: 0 exp, 1 reciprocal, 2 reciprocal square root, 3 tanh, 4 sigmoid, 5 GELU, 6 SiLU. -/
opaque vecFn : Nat → Word → Word

/-- The data-ring lines of a stream whose DRAIN_BPL is 0, from the free bytes: a quotient that the manual leaves open (16 R336; log 26). -/
opaque noBpl : Nat → Nat

/-- Magnitudes of the fixed 1024-entry cosine table of 12-bit values (15 R315; values not given; log 80). -/
opaque coilCos : Nat → BitVec 12

/-- Whether a quotient that is not whole is rounded up where the manual gives no rounding (15 R322, R323; log 80). -/
opaque roundUp : Nat → Nat → Bool

/-- The duty of a coil held with I_RUN 0, for which the manual's quotient has no value (15 R325; log 80). -/
opaque holdDuty : Nat → BitVec 12

/-- Cycles that a core's op waits for banks (07 R146; log 73). -/
opaque bankStall : Nat → Nat

/-- The value of a pooling maximum over a window that holds no element of the input (07 R149; log 44). -/
opaque emptyMax : Word

end Sys2Proof.Config
end

