-- ==== Sys2Proof/Machine/Float.lean ====
section
/-!
DEFINITION. Machine/Float.lean: binary floating-point numbers as exact rationals, and rounding to nearest, ties to even,
into a format. Used by the meter channels (17 R368, R370), the neural cores (07) and every FP32 register.
-/
namespace Sys2Proof.Machine

/-- A floating-point value: a signed rational (a zero keeps its sign), an infinity, or not a number. -/
inductive Fp
  | nan
  | inf (neg : Bool)
  | fin (neg : Bool) (num den : Nat)
  deriving DecidableEq, Repr

/-- A binary format: exponent bits, fraction bits, and whether it has no infinities (E4M3). -/
structure Fmt where
  eb : Nat
  mb : Nat
  noInf : Bool := false
  deriving DecidableEq, Repr

def fp32 : Fmt := { eb := 8, mb := 23 }
def fp16 : Fmt := { eb := 5, mb := 10 }
def bf16 : Fmt := { eb := 8, mb := 7 }
def e4m3 : Fmt := { eb := 4, mb := 3, noInf := true }
def e5m2 : Fmt := { eb := 5, mb := 2 }

/-- The exponent bias of a format. -/
def fmtBias (f : Fmt) : Nat := 2 ^ (f.eb - 1) - 1

/-- The rational m × 2^(e - k) as (numerator, denominator). -/
def scaleQ (m e k : Nat) : Nat × Nat := if k ≤ e then (m * 2 ^ (e - k), 1) else (m, 2 ^ (k - e))

/-- The value a bit pattern of a format holds. -/
def fpDecode (f : Fmt) (bits : Nat) : Fp :=
  let neg := bits / 2 ^ (f.eb + f.mb) % 2 == 1
  let e := bits / 2 ^ f.mb % 2 ^ f.eb
  let m := bits % 2 ^ f.mb
  let k := fmtBias f + f.mb
  if e = 2 ^ f.eb - 1 ∧ f.noInf = false then (if m = 0 then .inf neg else .nan)
  else if e = 2 ^ f.eb - 1 ∧ f.noInf = true ∧ m = 2 ^ f.mb - 1 then .nan
  else if e = 0 then let q := scaleQ m 1 k; .fin neg q.1 q.2
  else let q := scaleQ (2 ^ f.mb + m) e k; .fin neg q.1 q.2

/-- Nearest integer to n ÷ d, ties to even. -/
def rneNat (n d : Nat) : Nat :=
  let q := n / d
  let r := n % d
  if 2 * r < d then q else if d < 2 * r then q + 1 else if q % 2 = 0 then q else q + 1

/-- floor(log2(n ÷ d)) for n, d > 0. -/
def log2Q (n d : Nat) : Int :=
  let k : Int := (Nat.log2 n : Int) - (Nat.log2 d : Int)
  if 0 ≤ k then (if n < d * 2 ^ k.toNat then k - 1 else k) else (if n * 2 ^ (-k).toNat < d then k - 1 else k)

/-- The bits of the format's value nearest to a signed rational, ties to even; beyond the largest finite value an
infinity, or NaN in a format that has none. -/
def fpRound (f : Fmt) (neg : Bool) (n d : Nat) : Nat :=
  let sgn := if neg then 2 ^ (f.eb + f.mb) else 0
  if n = 0 then sgn
  else
    let lo : Int := 1 - (fmtBias f : Int) - (f.mb : Int)
    let q := max (log2Q n d - (f.mb : Int)) lo
    let mant := if 0 ≤ q then rneNat n (d * 2 ^ q.toNat) else rneNat (n * 2 ^ (-q).toNat) d
    let mag := if mant < 2 ^ f.mb then mant else (q - lo + 1).toNat * 2 ^ f.mb + (mant - 2 ^ f.mb)
    let top := if f.noInf then 2 ^ (f.eb + f.mb) - 1 else (2 ^ f.eb - 1) * 2 ^ f.mb
    sgn + (if top ≤ mag then top else mag)

/-- The quiet NaN of a format (log 13). -/
def fpNan (f : Fmt) : Nat := if f.noInf then 2 ^ (f.eb + f.mb) - 1 else (2 ^ f.eb - 1) * 2 ^ f.mb + 2 ^ (f.mb - 1)

/-- The bits of a value in a format. -/
def fpEncode (f : Fmt) : Fp → Nat
  | .nan => fpNan f
  | .inf neg => if f.noInf then fpNan f else (if neg then 2 ^ (f.eb + f.mb) else 0) + (2 ^ f.eb - 1) * 2 ^ f.mb
  | .fin neg n d => fpRound f neg n d

/-- Exact sum; an exact cancellation gives +0, and the sum of two negative zeros -0. -/
def fpAdd : Fp → Fp → Fp
  | .nan, _ => .nan
  | _, .nan => .nan
  | .inf a, .inf b => if a = b then .inf a else .nan
  | .inf a, .fin .. => .inf a
  | .fin .., .inf b => .inf b
  | .fin a n d, .fin b m e =>
    let x : Int := (if a then -(n * e : Int) else (n * e : Int)) + (if b then -(m * d : Int) else (m * d : Int))
    if x = 0 then .fin (a && b && n == 0 && m == 0) 0 1 else .fin (decide (x < 0)) x.natAbs (d * e)

/-- Negation. -/
def fpNeg : Fp → Fp
  | .nan => .nan
  | .inf a => .inf (!a)
  | .fin a n d => .fin (!a) n d

/-- Exact product. -/
def fpMul : Fp → Fp → Fp
  | .nan, _ => .nan
  | _, .nan => .nan
  | .inf a, .inf b => .inf (a != b)
  | .inf a, .fin b m _ => if m = 0 then .nan else .inf (a != b)
  | .fin a n _, .inf b => if n = 0 then .nan else .inf (a != b)
  | .fin a n d, .fin b m e => .fin (a != b) (n * m) (d * e)

/-- Exact quotient; a non-zero value over zero is an infinity. -/
def fpDiv : Fp → Fp → Fp
  | .nan, _ => .nan
  | _, .nan => .nan
  | .inf _, .inf _ => .nan
  | .inf a, .fin b _ _ => .inf (a != b)
  | .fin a _ _, .inf b => .fin (a != b) 0 1
  | .fin a n d, .fin b m e => if m = 0 then (if n = 0 then .nan else .inf (a != b)) else .fin (a != b) (n * e) (d * m)

/-- a < b; false where either is NaN. -/
def fpLt : Fp → Fp → Bool
  | .nan, _ => false
  | _, .nan => false
  | .inf a, .inf b => a && !b
  | .inf a, .fin .. => a
  | .fin .., .inf b => !b
  | .fin a n d, .fin b m e =>
    decide ((if a then -(n * e : Int) else (n * e : Int)) < (if b then -(m * d : Int) else (m * d : Int)))

/-- a ≤ b; false where either is NaN. -/
def fpLe (a b : Fp) : Bool := fpLt a b || (match a, b with
  | .nan, _ => false
  | _, .nan => false
  | _, _ => !fpLt b a)

/-- Whether a value is finite. -/
def fpFinite : Fp → Bool
  | .fin .. => true
  | _ => false

/-- A value rounded to a format and read back. -/
def fpRnd (f : Fmt) (x : Fp) : Fp := fpDecode f (fpEncode f x)

/-- An integer as a value. -/
def fpOfInt (x : Int) : Fp := .fin (decide (x < 0)) x.natAbs 1

/-- An FP32 register's value. -/
def f32 (w : Word) : Fp := fpDecode fp32 w.toNat

/-- A value as an FP32 register. -/
def toF32 (x : Fp) : Word := BitVec.ofNat 32 (fpEncode fp32 x)

/-- FP32 sum, product and quotient, each rounded to nearest even. -/
def f32Add (a b : Word) : Word := toF32 (fpAdd (f32 a) (f32 b))
def f32Sub (a b : Word) : Word := toF32 (fpAdd (f32 a) (fpNeg (f32 b)))
def f32Mul (a b : Word) : Word := toF32 (fpMul (f32 a) (f32 b))
def f32Div (a b : Word) : Word := toF32 (fpDiv (f32 a) (f32 b))

/-- rne of a finite value to an integer; 0 for a value that is not finite (a case the callers exclude). -/
def fpRne : Fp → Int
  | .fin neg n d => if neg then -(rneNat n d : Int) else (rneNat n d : Int)
  | _ => 0

/-- floor of a finite value. -/
def fpFloor : Fp → Int
  | .fin neg n d => if neg then -(((n + d - 1) / d : Nat) : Int) else ((n / d : Nat) : Int)
  | _ => 0

end Sys2Proof.Machine
end

