-- ==== Sys2Proof/Machine/MeterOps.lean ====
section
/-!
DEFINITION. Machine/MeterOps.lean: the shared operations of the meter channels, outputs and calibration (17, 18):
corrected codes, the signal x of each mode, linearisation, value states, the comparator and range changes.
-/
namespace Sys2Proof.Machine

/-- The page of meter channel m, of meter output o, and the meter common page of a field die. -/
def mtrPage (site m : Nat) : Nat := pg site (0x78 + m % 8)
def outPage (site o : Nat) : Nat := pg site (0x80 + o % 8)
def mcomPage (site : Nat) : Nat := pg site 0x88

/-- A meter channel's record. -/
def State.meter (s : State) (site m : Nat) : Meter := tabGet {} s.meters (site * 8 + m)
/-- Write a meter channel's record. -/
def State.setMeter (s : State) (site m : Nat) (x : Meter) : State := { s with meters := tabPut {} s.meters (site * 8 + m) x }

/-- A field die's calibration record. -/
def State.calib (s : State) (site : Nat) : Calib := tabGet {} s.calibs site
/-- Write a field die's calibration record. -/
def State.setCalib (s : State) (site : Nat) (x : Calib) : State := { s with calibs := tabPut {} s.calibs site x }

/-- The reset value of calibration word w: gains and factors 1.0, the rest 0 (18 Control). -/
def calReset (w : Nat) : Word :=
  if w < 24 then (if w % 2 = 1 then 0x3F800000#32 else 0#32) else if w < 27 then 0x3F800000#32 else 0#32

/-- Calibration word w (0-30) of a channel as stored. -/
def State.calWord (s : State) (site ch w : Nat) : Word := tabGet (calReset w) (s.calib site).words (ch * 32 + w)

/-- Write calibration word w of a channel. -/
def State.setCalWord (s : State) (site ch w : Nat) (v : Word) : State :=
  let c := s.calib site
  s.setCalib site { c with words := tabPut (calReset w) c.words (ch * 32 + w) v }

/-- Word 31: the CRC-32 over words 0-30 (18 Control). -/
def State.calCrc (s : State) (site ch : Nat) : Word :=
  BitVec.ofNat 32 (crc32 ((List.range 31).flatMap (fun w => leBytes 4 (s.calWord site ch w).toNat)))

/-- CAL_VALID of a channel. -/
def State.calValid (s : State) (site ch : Nat) : Bool := s.regBit (mcomPage site + 0x60) ch

/-- A calibration word in force: while CAL_VALID is 0 the channel converts with OFF = 0 and every gain and factor 1.0
(18 R378). -/
def State.calUse (s : State) (site ch w : Nat) : Word := if s.calValid site ch then s.calWord site ch w else calReset w

/-- MTR_CFG fields (17). -/
def mMode (s : State) (site m : Nat) : Nat := s.regFld (mtrPage site m + 0x40) 0 4
def mRate (s : State) (site m : Nat) : Nat := s.regFld (mtrPage site m + 0x40) 4 4
def mCurve (s : State) (site m : Nat) : Nat := s.regFld (mtrPage site m + 0x40) 8 4
def mPoly (s : State) (site m : Nat) : Bool := s.regBit (mtrPage site m + 0x40) 12
def mAuto (s : State) (site m : Nat) : Bool := s.regBit (mtrPage site m + 0x40) 13
def mDiv10 (s : State) (site m : Nat) : Bool := s.regBit (mtrPage site m + 0x40) 14
def mBo (s : State) (site m : Nat) : Nat := s.regFld (mtrPage site m + 0x40) 15 2
def mBoI (s : State) (site m : Nat) : Nat := s.regFld (mtrPage site m + 0x40) 17 2
/-- MTR_STATUS fields (17). -/
def mVstate (s : State) (site m : Nat) : Nat := s.regFld (mtrPage site m + 0x70) 0 3
def mRange (s : State) (site m : Nat) : Nat := s.regFld (mtrPage site m + 0x70) 3 3
def mCause (s : State) (site m : Nat) : Nat := s.regFld (mtrPage site m + 0x70) 16 7

/-- RTD modes and switched modes (17 R357). -/
def isRtd (mode : Nat) : Bool := mode == 2 || mode == 3 || mode == 4
def isSwitched (mode bo : Nat) : Bool := mode == 3 || mode == 4 || bo == 2

/-- Conversions per second of a RATE code, times 10 (17 R356). -/
def rateTenths (r : Nat) : Nat := [25, 50, 100, 250, 500, 1000, 2500, 5000, 10000, 20000, 40000].getD r 25

/-- Ticks of 5 ns that one value takes (17 R356, R358): 1 ÷ RATE, and 2 ÷ RATE for the pair of RTD_3W and RTD_4W. -/
def convTicks (s : State) (site m : Nat) : Nat :=
  (if mMode s site m = 3 ∨ mMode s site m = 4 then 2 else 1) * (2000000000 / rateTenths (mRate s site m))

/-- The settling of a change to range index i (17 R363), in ticks of 5 ns: 100 µs for a gain, 50 µs, 200 µs, 2 ms or 20 ms for a
feedback. -/
def settleIdx (mode i : Nat) : Nat := if mode = 6 then [10000, 40000, 400000, 4000000].getD i 10000 else 20000
/-- The settling of an excitation change (17 R363), 1 ms, and the ramp of an excitation (R359), 100 µs, in ticks of 5 ns. -/
def settleExc : Nat := 200000
def excRamp : Nat := 20000

/-- FIO_OK of a field die (04 R79). -/
def State.fioOk (s : State) (site : Nat) : Bool := s.regBit (pg site 2 + 0x40) 4

/-- Whether a channel's excitation is driven once it starts (17 R359, R360, R364, R376): its mode uses one, none of its cuts is in
force and FIO_OK is 1. -/
def State.excWanted (s : State) (site m : Nat) : Bool :=
  (isRtd (mMode s site m) || mMode s site m == 5) && !s.regBit (mtrPage site m + 0x70) 11 && s.fioOk site

/-- A modulator code corrected by the table entries of its range index (18 R378): sat(rne((code - OFF) × GAIN)). -/
def State.corrected (s : State) (site m : Nat) (code : Int) : Int :=
  let i := mRange s site m
  let w := if mMode s site m = 6 then 16 + 2 * i else 2 * i
  satInt (2 ^ 23 - 1) (fpRne (fpMul (fpOfInt (satInt (2 ^ 23 - 1) code - (s.calUse site m w).toInt)) (f32 (s.calUse site m (w + 1)))))

/-- The voltage, or in CURRENT the current, that a corrected code stands for at range index i (17 R356, R361): code × VREF ÷
(G × 2^23), with VREF the certified reference (18). -/
def State.codeValueAt (s : State) (site m i : Nat) (code : Int) : Fp :=
  let g : Nat := if mMode s site m = 6 then [10000, 100000, 1000000, 10000000].getD i 10000 else 2 ^ i
  let v := fpDiv (fpMul (fpOfInt code) (f32 (s.reg (mcomPage site + 0x4C)))) (fpOfInt (g * 2 ^ 23))
  if mDiv10 s site m = true ∧ mMode s site m = 0 then fpMul (fpMul v (fpOfInt 10)) (f32 (s.calUse site m 26)) else v

/-- The same at the present range index. -/
def State.codeValue (s : State) (site m : Nat) (code : Int) : Fp := s.codeValueAt site m (mRange s site m) code

/-- A sensed excitation with the sense factor of its range applied (18 R378): low up to 150 µA, high above; a voltage
excitation has none. -/
def State.excTrue (s : State) (site m : Nat) (w : Word) : Fp :=
  if isRtd (mMode s site m) then
    fpMul (f32 w) (f32 (s.calUse site m (if s.regFld (mtrPage site m + 0x48) 0 11 ≤ 150 then 24 else 25)))
  else f32 w

/-- The signal x of R357 and R358 from the voltages and excitations of the phases. -/
def State.signalX (s : State) (site m : Nat) (vs is : List Fp) : Fp :=
  let v0 := vs.getD 0 (.fin false 0 1)
  let v1 := vs.getD 1 (.fin false 0 1)
  let i0 := is.getD 0 (.fin false 0 1)
  let i1 := is.getD 1 (.fin false 0 1)
  match mMode s site m with
  | 2 => fpAdd (fpDiv v0 i0) (fpNeg (f32 (s.reg (mtrPage site m + 0x68))))
  | 3 => fpAdd (fpDiv v0 i0) (fpNeg (fpDiv v1 i1))
  | 4 => fpDiv (fpAdd v0 (fpNeg v1)) (fpAdd i0 i1)
  | 5 => fpDiv v0 i0
  | _ => v0

/-- A temperature source of SRC_CFG (17 R367): a channel's VALUE, CJ_TEMP or the fixed value at `fixedOff`. -/
def State.tempSrc (s : State) (site m code fixedOff : Nat) : Word :=
  if code < 8 then s.reg (mtrPage site code + 0x74)
  else if code = 8 then s.reg (mcomPage site + 0x40) else s.reg (mtrPage site m + fixedOff)

/-- Whether a cold-junction source is usable: a channel VALID, or RANGING, whose held VALUE is used (17 R367). -/
def State.tempOk (s : State) (site code : Nat) : Bool := decide (8 ≤ code) || mVstate s site code == 1 || mVstate s site code == 2

/-- Whether the polynomial's temperature source is usable: a channel VALID (17 R368). -/
def State.tsrcOk (s : State) (site code : Nat) : Bool := decide (8 ≤ code) || mVstate s site code == 1

/-- R ÷ R0 of a platinum resistor at t °C (17 R366). -/
def rtdRatio (t : Fp) : Fp :=
  let t2 := fpMul t t
  let c : Fp := if fpLt t (.fin false 0 1) then .fin true 4183 (10 ^ 15) else .fin false 0 1
  fpAdd (fpAdd (fpAdd (.fin false 1 1) (fpMul (.fin false 39083 (10 ^ 7)) t)) (fpMul (.fin true 5775 (10 ^ 10)) t2))
    (fpMul (fpMul c (fpAdd t (fpOfInt (-100)))) (fpMul t2 t))

/-- The greatest k in [lo, hi) with rtdRatio (k ÷ 512) ≤ r, by bisection; `n` halvings. -/
def rtdFind (r : Fp) : Nat → Int → Int → Int
  | 0, lo, _ => lo
  | n + 1, lo, hi =>
    let mid := (lo + hi) / 2
    if fpLe (rtdRatio (fpDiv (fpOfInt mid) (fpOfInt 512))) r then rtdFind r n mid hi else rtdFind r n lo mid

/-- Whether v °C lies within 0.005 °C of the exact solution of R ÷ R0 = r (17 R366): the ratio rises with the temperature. -/
def rtdNear (r : Fp) (v : Word) : Bool :=
  fpFinite (f32 v) && fpLe (rtdRatio (fpAdd (f32 v) (.fin true 5 1000))) r && fpLe r (rtdRatio (fpAdd (f32 v) (.fin false 5 1000)))

/-- The temperature of a platinum resistor of curve c at x Ω, none outside -200 to 850 °C (17 R366): Config.rtd where it lies within
0.005 °C of the exact solution, which is all the rule asks (log 8); else the solution to 1/512 °C. -/
def rtdValue (c : Nat) (x : Word) : Option Word :=
  let r := fpDiv (f32 x) (fpOfInt ([50, 100, 200, 500, 1000].getD (c - 1) 100))
  if fpLe (rtdRatio (fpOfInt (-200))) r && fpLe r (rtdRatio (fpOfInt 850)) then
    some (if rtdNear r (Config.rtd c x) then Config.rtd c x else toF32 (fpDiv (fpOfInt (rtdFind r 20 (-102400) 435201)) (fpOfInt 512)))
  else none

/-- The ranges in °C of thermocouple curves 6 to 15 (17 R366). -/
def tcRange (c : Nat) : Int × Int :=
  ([(0, 1820), (-270, 1000), (-210, 1200), (-270, 1372), (-270, 1300), (-50, 1768), (-50, 1768), (-270, 400), (0, 2315), (0, 2500)]
    : List (Int × Int)).getD (c - 6) (0, 0)

/-- A finite value as a fraction in lowest terms; 0 for a value that is not finite. -/
def fpQ : Fp → Int × Nat
  | .fin neg n d => ((if neg then -((n / Nat.gcd n d : Nat) : Int) else ((n / Nat.gcd n d : Nat) : Int)), d / Nat.gcd n d)
  | _ => (0, 1)

/-- The temperature of thermocouple curve c for x V with its reference junction at tcj °C, none outside the curve's range (17 R366,
R367): E := 1000·x + E(T_cj) in mV and T(E), with the reference functions of IEC 60584-1, which the spec only names (log 8). -/
def tcValue (c : Nat) (x tcj : Word) : Option Word :=
  let cj := Config.emf c tcj
  let e := fpQ (fpAdd (fpMul (fpOfInt 1000) (f32 x)) (.fin (decide (cj.1 < 0)) cj.1.natAbs cj.2))
  let t := Config.emfTemp c e.1 e.2
  if fpLe (fpOfInt (tcRange c).1) (f32 t) && fpLe (f32 t) (fpOfInt (tcRange c).2) then some t else none

/-- The polynomial of R368 in FP32, round to nearest even at each operation. -/
def polyValue (c : Nat → Nat → Word) (t x : Word) : Word :=
  let p (i : Nat) : Word := f32Add (f32Mul (f32Add (f32Mul (f32Add (f32Mul (f32Add (f32Mul (c i 4) x) (c i 3)) x) (c i 2)) x) (c i 1)) x) (c i 0)
  f32Add (f32Mul (f32Add (f32Mul (f32Add (f32Mul (p 3) t) (p 2)) t) (p 1)) t) (p 0)

/-- VALUE of a signal x, or none where VSTATE is OVER (17 R366 to R369). -/
def State.linearise (s : State) (site m : Nat) (x : Word) : Option Word :=
  let p := mtrPage site m
  if mPoly s site m then
    let y := polyValue (fun i j => s.reg (p + 0x100 + 4 * (5 * i + j))) (s.tempSrc site m (s.regFld (p + 0x4C) 4 4) 0x54) x
    if fpFinite (f32 y) then some y else none
  else if mCurve s site m = 0 then some x
  else if mCurve s site m < 6 then rtdValue (mCurve s site m) x
  else tcValue (mCurve s site m) x (s.tempSrc site m (s.regFld (p + 0x4C) 0 4) 0x50)

/-- Move the comparator, raising CMP_CHANGE and CMP_KNOWN (17 R371). -/
def State.setCmp (s : State) (site m : Nat) (asserted known : Bool) : State :=
  let p := mtrPage site m
  let s1 := ((s.putBit (p + 0x70) 6 asserted).putBit (p + 0x70) 7 known)
  (s1.evtIf (s.regBit (p + 0x70) 6 != asserted) p 8).evtIf (known && !s.regBit (p + 0x70) 7) p 9

/-- VSTATE, with VALUE_FAULT and OVER_RANGE on entry, and the comparator ASSERTED in NO_VALUE, OVER and FAULT (17 R369,
R371). -/
def State.setVstate (s : State) (site m vs : Nat) : State :=
  let p := mtrPage site m
  let old := mVstate s site m
  let s1 := ((s.putFld (p + 0x70) 0 3 vs).evtIf (vs == 4 && old != 4) p 3).evtIf (vs == 3 && old != 3) p 4
  if vs = 0 ∨ vs = 3 ∨ vs = 4 then
    (s1.setMeter site m { s1.meter site m with run := 0 }).setCmp site m true (s1.regBit (p + 0x70) 7)
  else s1

/-- A cause bit of MTR_STATUS set or cleared. -/
def State.setCause (s : State) (site m bit : Nat) (on : Bool) : State := s.putBit (mtrPage site m + 0x70) (16 + bit) on

/-- A range change that settles in `dur` ticks (17 R363): RANGING, RANGE_CHANGE, everything holds until the first conversion that began
after the settling. Of changes at one instant the longer settling applies; a further change restarts with its own. FAULT, OVER and
NO_VALUE stand over RANGING (R369, R374). -/
def State.rangeChange (s : State) (site m idx dur : Nat) : State :=
  let p := mtrPage site m
  let k := s.meter site m
  let till := if k.changedAt = some s.now then max k.settle (s.now + dur) else s.now + dur
  let s1 := (s.putFld (p + 0x70) 3 3 idx).setMeter site m { k with ranging := true, changedAt := some s.now, settle := till }
  (if mVstate s site m = 1 then s1.putFld (p + 0x70) 0 3 2 else s1).evt p 1

/-- The comparator after a valid value (17 R371). Its qualification, which CMP_KNOWN waits for, is the sixteenth value of a run (log 27). -/
def State.cmpValue (s : State) (site m : Nat) (v : Word) : State :=
  let p := mtrPage site m
  if s.regBit (p + 0x5C) 0 then
    let set := f32 (s.reg (p + 0x60))
    let clr := f32 (s.reg (p + 0x64))
    let high := s.regBit (p + 0x5C) 1
    let unsafe_ := if high then fpLe set (f32 v) else fpLe (f32 v) set
    let beyond := if high then fpLt (f32 v) clr else fpLt clr (f32 v)
    let k := s.meter site m
    if unsafe_ then (s.setMeter site m { k with run := 0 }).setCmp site m true (s.regBit (p + 0x70) 7)
    else if beyond then
      let s1 := s.setMeter site m { k with run := k.run + 1 }
      if 16 ≤ k.run + 1 then s1.setCmp site m false true else s1
    else s.setMeter site m { k with run := 0 }
  else s

/-- A gate whose shading follows a temperature raises SHADE_DUE when it has moved by more than CAL_DT (18 R386). -/
def State.shadeDue (s : State) (site m : Nat) (v : Word) : State :=
  (List.range 8).foldl (fun s g =>
    let p := pg site (0x20 + g)
    let d := fpAdd (f32 v) (fpNeg (f32 (s.reg (p + 0xE8))))
    let lim := Fp.fin false (s.regFld (mcomPage site + 0x54) 0 6) 2
    s.evtIf (s.regBit (p + 0xCC) 11 && s.regFld (p + 0xCC) 8 3 == m && (fpLt lim d || fpLt d (fpNeg lim))) p 8) s

/-- A valid value (17 R369): VALUE, SIGNAL, VALUE_TIME, CONV_CNT, the VALUE event and the comparator. -/
def State.validValue (s : State) (site m : Nat) (x v : Word) : State :=
  let p := mtrPage site m
  let s1 := (((s.setReg (p + 0x74) v).setReg (p + 0x78) x).setNat (p + 0x84) (s.us % 2 ^ 32)).addWrap (p + 0x88) 1
  let k := s1.meter site m
  let s2 := (s1.setMeter site m { k with lastValid := some s.now, everValid := true, ranging := false, outWait := [] }).setVstate site m 1
  (((s2.evtIf k.ranging p 2).evt p 0).cmpValue site m v).shadeDue site m v

/-- Auto-ranging after a conversion of greatest |code| `c` (17 R362). -/
def State.autoRange (s : State) (site m : Nat) (c : Nat) : State :=
  let p := mtrPage site m
  if mAuto s site m then
    let i : Int := mRange s site m
    let down := if mMode s site m = 6 then 0x0A0000 else 0x300000
    let want : Int := if 0x700000 ≤ c then i - 1 else if c < down then i + 1 else i
    if want < s.regFld (p + 0x44) 4 3 ∨ (s.regFld (p + 0x44) 8 3 : Int) < want then
      (s.putBit (p + 0x70) 9 true).evtIf (!s.regBit (p + 0x70) 9) p 6
    else if want = i then s.putBit (p + 0x70) 9 false
    else s.rangeChange site m want.toNat (settleIdx (mMode s site m) want.toNat)
  else s

/-- Whether |a - b| exceeds 2 % of b (17 R360). -/
def off2pc (a b : Fp) : Bool :=
  let d := fpAdd a (fpNeg b)
  let lim := fpDiv (fpMul b (fpOfInt 2)) (fpOfInt 100)
  fpLt lim d || fpLt d (fpNeg lim)

/-- Zero a channel's excitation and report a cut (17 R360, R364). -/
def State.cutExc (s : State) (site m : Nat) : State :=
  let p := mtrPage site m
  let s1 := s.setMeter site m { s.meter site m with excOn := false }
  ((s1.putBit (p + 0x70) 11 true).putBit (p + 0x70) 10 true).evtIf (!s.regBit (p + 0x70) 10) p 7

/-- The outputs that follow channel m go steady low at their next period and stay so until its next valid value (17 R372, R374,
R375): no period is truncated. -/
def State.outsLow (s : State) (site m : Nat) : State := s.setMeter site m { s.meter site m with outWait := List.range 8 }

/-- Every output of a die is driven steady low at once: its supply is lost, or its page is locked (17 R376; 22 R454). -/
def State.outsZero (s : State) (site : Nat) : State :=
  (List.range 8).foldl (fun s o => (s.setNat (outPage site o + 0x4C) 0).setNat (outPage site o + 0x50) 0) s

/-- A channel's value state starts over: NO_VALUE, outputs low, comparator ASSERTED (17 R369, R374). -/
def State.noValue (s : State) (site m : Nat) : State :=
  ((s.setMeter site m { s.meter site m with ranging := false, run := 0 }).setVstate site m 0).outsLow site m

/-- EN := 1, or the return of FIO_OK (17 R371, R375, R376): the excitation ramps and settles; RANGE in force, NO_VALUE, no cause, VALUE,
SIGNAL and VALUE_TIME 0, comparator ASSERTED and not known, outputs low. A clamp and a cut that last stay. -/
def State.meterStart (s : State) (site m : Nat) : State :=
  let p := mtrPage site m
  let k := s.meter site m
  let s1 := s.setMeter site m { excOn := s.excWanted site m, clampAt := k.clampAt, cutEnd := k.cutEnd, overCur := k.overCur
                                settle := s.now + excRamp + settleExc, outWait := List.range 8 }
  let st := 0x40 + s.regFld (p + 0x44) 0 3 * 8 + s.regFld (p + 0x70) 8 1 * 2 ^ 8 + s.regFld (p + 0x70) 10 2 * 2 ^ 10
  (((s1.setNat (p + 0x70) st).setNat (p + 0x74) 0).setNat (p + 0x78) 0).setNat (p + 0x84) 0

/-- What a channel does on reaching RUNNING (17 R375, R376): its first conversion begins now at RANGE; a reference out of range and a
lost VFIO are causes of every running channel. -/
def State.meterRun (s : State) (site m : Nat) : State :=
  let p := mtrPage site m
  let s1 := (s.putFld (p + 0x70) 3 3 (s.regFld (p + 0x44) 0 3)).setMeter site m
    { s.meter site m with excOn := s.excWanted site m, settle := s.now }
  let s2 := (s1.setCause site m 4 (!s.regBit (mcomPage site + 0x48) 0)).setCause site m 6 (!s.fioOk site)
  if mCause s2 site m ≠ 0 then s2.setVstate site m 4 else s2

/-- EN := 0, a lock or a fault of a channel page: excitation zero, NO_VALUE, comparator ASSERTED and not known, outputs low (17 R375;
22 R454). -/
def State.meterStop (s : State) (site m : Nat) : State :=
  let s1 := s.noValue site m
  (s1.setMeter site m { s1.meter site m with excOn := false }).setCmp site m true false

/-- The enable checks of a channel page (17 R373): true where EN := 1 is acceptable. -/
def State.meterEnOk (s : State) (site m : Nat) : Bool :=
  let p := mtrPage site m
  let mode := mMode s site m
  let iexc := s.regFld (p + 0x48) 0 11
  let vexc := s.regFld (p + 0x48) 16 13
  let r := s.regFld (p + 0x44) 0 3
  let lo := s.regFld (p + 0x44) 4 3
  let hi := s.regFld (p + 0x44) 8 3
  let c := mCurve s site m
  !(isRtd mode && (decide (iexc < 10) || decide (1500 < iexc))) &&
  !(mode == 5 && (decide (vexc < 500) || decide (5000 < vexc))) &&
  !(mRate s site m == 10 && isSwitched mode (mBo s site m)) &&
  !(decide (1 ≤ c) && decide (c ≤ 5) && !isRtd mode) && !(decide (6 ≤ c) && mode != 1) &&
  !(mPoly s site m && c != 0) &&
  decide (lo ≤ hi) && decide (lo ≤ r) && decide (r ≤ hi) && !(mode == 6 && decide (3 < hi)) &&
  !(mBo s site m != 0 && decide (1 < mode)) &&
  s.regFld (p + 0x4C) 0 4 != m && s.regFld (p + 0x4C) 4 4 != m &&
  !(s.regBit (p + 0x5C) 0 &&
    !(if s.regBit (p + 0x5C) 1 then fpLt (f32 (s.reg (p + 0x64))) (f32 (s.reg (p + 0x60)))
      else fpLt (f32 (s.reg (p + 0x60))) (f32 (s.reg (p + 0x64)))))

/-- The enable check of an output page (17 R373). -/
def State.outEnOk (s : State) (site o : Nat) : Bool :=
  fpLt (f32 (s.reg (outPage site o + 0x44))) (f32 (s.reg (outPage site o + 0x48)))

/-- What a changed configuration register does to a running channel (17 R374): NO_VALUE for a curve, coefficient, source
or burn-out change, else a range change for a range or excitation change; with AUTO_RANGE back at 0 the range is RANGE (R362). A
changed CMP_CFG starts the comparator over (log 27). An excitation changed in STARTING settles anew. -/
def State.meterChanged (s : State) (site m off : Nat) (old new : Word) : State :=
  let rangeTo (i : Nat) : State := s.rangeChange site m i (settleIdx (mMode s site m) i)
  let k := s.meter site m
  if old = new then s
  else if off = 0x5C then (s.setMeter site m { k with run := 0 }).setCmp site m true false
  else if s.active (mtrPage site m) = false then
    if off = 0x48 ∧ s.st (mtrPage site m) = 1 then s.setMeter site m { k with settle := max k.settle (s.now + settleExc) } else s
  else if off = 0x40 then
    if fld old 8 5 != fld new 8 5 || fld old 15 4 != fld new 15 4 then s.noValue site m
    else if bitOf new 13 = false ∧ mRange s site m ≠ s.regFld (mtrPage site m + 0x44) 0 3 then rangeTo (s.regFld (mtrPage site m + 0x44) 0 3)
    else s
  else if off = 0x44 then
    let i := mRange s site m
    if fld old 0 3 ≠ fld new 0 3 then rangeTo (fld new 0 3)
    else if i < fld new 4 3 then rangeTo (fld new 4 3)
    else if fld new 8 3 < i then rangeTo (fld new 8 3) else s
  else if off = 0x48 then s.rangeChange site m (mRange s site m) settleExc
  else if off = 0x4C ∨ off = 0x50 ∨ off = 0x54 ∨ off = 0x68 ∨ (0x100 ≤ off ∧ off < 0x150) then s.noValue site m
  else s

/-- The settling back to the live input after a step of a run (17 R363; 18 R382): the excitation's after a sense step, else the
present range's. -/
def State.stepSettle (s : State) (site ch : Nat) : Nat :=
  match (s.calib site).steps with
  | .senseL :: _ => settleExc
  | .senseH :: _ => settleExc
  | _ => settleIdx (mMode s site ch) (mRange s site ch)

/-- A step has ended: the channel's converter settles back to its live input (18 R382). -/
def State.stepBack (s : State) (site ch : Nat) : State :=
  s.setMeter site ch { s.meter site ch with settle := s.now + s.stepSettle site ch, changedAt := none }

/-- The steps of a run (18 R378, R380): full on a channel that is OFF, partial on a RUNNING one. -/
def calSteps (s : State) (site ch : Nat) (full : Bool) : List CalKind :=
  let p := mtrPage site ch
  let zg (l : List Nat) : List CalKind := l.flatMap (fun i => [.zero i, .gain i])
  let tia (l : List Nat) : List CalKind := l.flatMap (fun f => [.tiaOff f, .tiaGain f])
  if full then zg (List.range 8) ++ tia (List.range 4) ++ [.senseL, .senseH, .div10]
  else
    let lo := s.regFld (p + 0x44) 4 3
    let idx := (List.range 8).filter (fun i => decide (lo ≤ i) && decide (i ≤ s.regFld (p + 0x44) 8 3))
    if mMode s site ch = 6 then tia (idx.filter (· < 4))
    else zg idx ++ (if isRtd (mMode s site ch) then [if s.regFld (p + 0x48) 0 11 ≤ 150 then .senseL else .senseH] else [])
      ++ (if mMode s site ch = 0 ∧ mDiv10 s site ch = true then [.div10] else [])

/-- Start the next pending run of a die, lowest channel first (18 R382); a step on a RUNNING channel is a range change. -/
def State.calNext (s : State) (site : Nat) : State :=
  let c := s.calib site
  match c.active, c.pendingRuns with
  | none, ch :: rest =>
    let full := s.st (mtrPage site ch) == 0
    let s1 := (s.setCalib site { c with active := some ch, pendingRuns := rest, full := full, checked := false, steps := calSteps s site ch full, tries := 0, waitLive := false, got := [] }).putFld (mcomPage site + 0x60) 16 3 ch
    let s2 := s1.putBit (mcomPage site + 0x60) 19 true
    if full then s2 else s2.rangeChange site ch (mRange s2 site ch) 0
  | _, _ => s

/-- The active run of a die ends with a result code (18 R379, R383). -/
def State.calEnd (s : State) (site result : Nat) : State :=
  let p := mcomPage site
  let c := s.calib site
  let s0 := match c.active with
    | some ch => if s.active (mtrPage site ch) then s.stepBack site ch else s
    | none => s
  let s1 := (s0.putFld (p + 0x60) 20 4 result).putBit (p + 0x60) 19 (!c.pendingRuns.isEmpty)
  s1.setCalib site { c with active := none, steps := [], got := [], tries := 0, checked := false }

/-- Abort any run of a channel with a result code (18 R383): an active one ends and the next one pending starts, a pending one is
dropped. -/
def State.calAbortCh (s : State) (site ch result : Nat) : State :=
  let c := s.calib site
  let rest := c.pendingRuns.erase ch
  if c.active = some ch then ((s.calEnd site result).evt (mcomPage site) 2).calNext site
  else if ch ∈ c.pendingRuns then
    ((s.setCalib site { c with pendingRuns := rest }).putFld (mcomPage site + 0x60) 20 4 result).putBit (mcomPage site + 0x60) 19
      (c.active.isSome || !rest.isEmpty)
  else s

/-- Abort every run of a die with a result code (18 R383): those pending, then the active one. -/
def State.calAbortAll (s : State) (site result : Nat) : State :=
  let c := s.calib site
  let s1 := if c.pendingRuns = [] then s
    else ((s.setCalib site { c with pendingRuns := [] }).putFld (mcomPage site + 0x60) 20 4 result).putBit (mcomPage site + 0x60) 19 c.active.isSome
  if c.active = none then s1 else (s1.calEnd site result).evt (mcomPage site) 2

/-- A channel falls due (18 R381): its CAL_VALID is 0 or |CJ_TEMP - T_CAL| exceeds CAL_DT. -/
def State.calDue (s : State) (site ch : Nat) : Bool :=
  !s.calValid site ch ||
    (let d := fpAdd (f32 (s.reg (mcomPage site + 0x40))) (fpNeg (f32 (s.calWord site ch 27)))
     let lim := Fp.fin false (s.regFld (mcomPage site + 0x54) 0 6) 2
     fpLt lim d || fpLt d (fpNeg lim))

/-- Refresh a channel's DUE bit, raising CAL_DUE when it sets (18 R381). -/
def State.refreshDue (s : State) (site ch : Nat) : State :=
  let p := mcomPage site
  let d := s.calDue site ch
  (s.putBit (p + 0x60) (8 + ch) d).evtIf (d && !s.regBit (p + 0x60) (8 + ch)) p 0

end Sys2Proof.Machine
end

