-- ==== Sys2Proof/Machine/MemOps.lean ====
section
/-!
DEFINITION. Machine/MemOps.lean: the byte memories (on-package RAM and what the device writes to tenant memory) and the
mailbox protocol (05 R103).
-/
namespace Sys2Proof.Machine

/-- Space numbers of the on-package memories of a site: its control-core memory, its bin, its engines' line buffers and
its cores' stores; and the stacks, addressed by DPA. -/
def spCtl (site : Nat) : Nat := site * 256
def spBin (site : Nat) : Nat := site * 256 + 1
def spLine (site e : Nat) : Nat := site * 256 + 2 + e
def spCore (site n : Nat) : Nat := site * 256 + 64 + n
def spStack : Nat := 4096

/-- The key of a byte of a space. -/
def ramKey (sp a : Nat) : Nat := sp * 2 ^ 48 + a

/-- Read and write on-package memory. A byte nothing has written reads 0 (log 11). -/
def State.ramGet (s : State) (sp a n : Nat) : List Byte := tabGetList 0#8 s.ram (ramKey sp a) n
def State.ramPut (s : State) (sp a : Nat) (bs : List Byte) : State := { s with ram := tabPutList 0#8 s.ram (ramKey sp a) bs }

/-- Zero a run of a space. -/
def State.ramZero (s : State) (sp a n : Nat) : State := { s with ram := tabDropRange (ramKey sp a) n s.ram }

/-- Zero a whole space. -/
def State.ramClear (s : State) (sp : Nat) : State := s.ramZero sp 0 (2 ^ 48)

/-- Host memory as the device's DMA sees it (log 10). -/
def State.hmemGet (s : State) (a n : Nat) : List Byte := tabGetList 0#8 s.hmem a n
def State.hmemPut (s : State) (a : Nat) (bs : List Byte) : State := { s with hmem := tabPutList 0#8 s.hmem a bs }

/-- Write a run of registers with bytes, little-endian. -/
def State.putBytes (s : State) (a : Nat) : List Byte → State
  | [] => s
  | [b0] => s.setNat a (leNat [b0])
  | [b0, b1] => s.setNat a (leNat [b0, b1])
  | [b0, b1, b2] => s.setNat a (leNat [b0, b1, b2])
  | b0 :: b1 :: b2 :: b3 :: bs => (s.setNat a (leNat [b0, b1, b2, b3])).putBytes (a + 4) bs

/-- The mailbox page of tenant t. -/
def mbPage (t : Nat) : Nat := pg 8 (0x20 + t % 32)

/-- BOOT_STATE of the boot page: 4 READY (05). -/
def State.bootSt (s : State) : Nat := s.regFld (pg 8 3 + 0x40) 0 3

/-- READY (05 R98). -/
def State.ready (s : State) : Bool := s.bootSt == 4 && s.mainOk

/-- Request payload bytes of a mailbox. -/
def State.mbReq (s : State) (t off n : Nat) : List Byte := ((s.regBytes (mbPage t + 0x108) 62).drop off).take n
def State.mbArg (s : State) (t off n : Nat) : Nat := leNat (s.mbReq t off n)

/-- The response to a request (05 R103): STATUS, LENGTH, tag, payload; DONE; RESP_READY. -/
def State.mbReply (s : State) (t status : Nat) (payload : List Byte) : State :=
  let p := mbPage t
  let s1 := s.putBytes (p + 0x200) (leBytes 2 status ++ leBytes 2 payload.length ++ leBytes 4 (s.reg (p + 0x40)).toNat ++ payload)
  ({ s1.setNat (p + 0x44) 2 with loads := s1.loads.filter (· != t) }).evt p 0

/-- Whether the control core of a field die or of the boot master restarts (05 R91). -/
def State.restarting (s : State) (site : Nat) : Bool := decide (s.now < tabGet 0 s.restarts site)

/-- The requests that are handled one at a time, in the order of their doorbells (09 R180; 20 R419): loads and unloads of slates, and
those of sessions, certificates and confidential mode. -/
def mbOrdered (op : Nat) : Bool := op == 0x10 || op == 0x11 || (decide (0x40 ≤ op) && decide (op ≤ 0x45))

/-- Whether a request of an opcode must wait for earlier ones. -/
def State.mbWaits (s : State) (t op : Nat) : Bool := mbOrdered op && !(s.loads.head? == some t)

/-- Serve a mailbox request of an opcode: only a BUSY page holding that opcode is served, and a slate's load or unload in its turn;
NOT_READY, NOT_PERMITTED at a member (21 R430) and BAD_LENGTH are answered first. -/
def State.mbServe (s : State) (t op len : Nat) (k : State → State) : State :=
  let p := mbPage t
  if s.mainOk = false ∨ 16 ≤ t ∨ s.regFld (p + 0x44) 0 2 ≠ 1 ∨ s.regFld (p + 0x100) 0 16 ≠ op ∨ s.mbWaits t op = true then s
  else if s.ready = false ∨ s.restarting 8 = true then s.mbReply t 4 []
  else if s.isMember = true ∧ op ≠ 1 then s.mbReply t 3 []
  else if s.regFld (p + 0x100) 16 16 ≠ len then s.mbReply t 2 []
  else k s

end Sys2Proof.Machine
end

