-- ==== Sys2Proof/Machine/DailiesOps.lean ====
section
/-!
DEFINITION. Machine/DailiesOps.lean: the records of the dailies rings (06 R126 to R131) and the queue they wait in.
-/
namespace Sys2Proof.Machine

/-- The page of dailies ring d. -/
def drPage (d : Nat) : Nat := pg 8 (0x80 + d % 128)
/-- A dailies ring's record. -/
def State.ring (s : State) (d : Nat) : DRing := tabGet {} s.rings d
/-- Write a dailies ring's record. -/
def State.setRing (s : State) (d : Nat) (x : DRing) : State := { s with rings := tabPut {} s.rings d x }

/-- A signed number as `n` little-endian bytes, modulo 256^n. -/
def leInt (n : Nat) (x : Int) : List Byte := leBytes n ((x % (256 ^ n : Nat)).toNat)

/-- The record header (06 R126), SEQ still 0. -/
def recHead (typ units ns sec : Nat) : List Byte :=
  leBytes 1 typ ++ [0#8] ++ leBytes 2 units ++ leBytes 4 0 ++ leBytes 4 ns ++ leBytes 4 sec

/-- Pad a record with zeros to its length. -/
def padTo (n : Nat) (b : List Byte) : List Byte := (b ++ List.replicate n 0#8).take n

/-- A LINE record (06 R127); `len` is DATA_LEN, DATA_OFF is filled in at 0x20 when the payload is placed. -/
def lineRec (str : Nat) (r : LRow) (len : Nat) : List Byte :=
  padTo 64 (recHead 1 1 r.ns r.sec ++ leBytes 6 r.line ++ leBytes 1 str ++ leBytes 1 r.flags ++ leInt 6 r.pos ++ leBytes 2 r.unc
    ++ leBytes 8 0 ++ leBytes 4 len)

/-- A GAP record (06 R129). -/
def gapRec (str reason first last ns sec : Nat) : List Byte :=
  padTo 64 (recHead 3 1 ns sec ++ leBytes 6 first ++ leBytes 1 str ++ leBytes 1 reason ++ leBytes 6 last)

/-- A SPLICE record (06 R130). -/
def spliceRec (str line cause : Nat) (pos : Int) (unc kind ns sec : Nat) : List Byte :=
  padTo 64 (recHead 4 1 ns sec ++ leBytes 6 line ++ leBytes 1 str ++ leBytes 1 cause ++ leInt 6 pos ++ leBytes 2 unc ++ leBytes 1 kind)

/-- An EVENT record (06 R131). -/
def eventRec (code site blk data line ns sec : Nat) : List Byte :=
  padTo 64 (recHead 5 1 ns sec ++ leBytes 2 code ++ leBytes 1 site ++ [0#8] ++ leBytes 2 blk ++ [0#8, 0#8] ++ leBytes 8 data ++ leBytes 6 line)

/-- Clapper nanoseconds and seconds now. -/
def State.tNs (s : State) : Nat := s.ns % 10 ^ 9
def State.tSec (s : State) : Nat := s.ns / 10 ^ 9 % 2 ^ 32

/-- The line a held record delivers, or the last line of the frame it delivers. -/
def DRec.upTo (r : DRec) : Option Nat := match r.line with | some l => some l | none => r.frame.map (·.2)

/-- Whether line `l` lies at or below a splice line; 2^48 - 1 stands for the line before line 0 (16). -/
def upToSplice (l splice : Nat) : Bool := splice != 2 ^ 48 - 1 && decide (l ≤ splice)

/-- A record's place among those held (06 R130): behind the others, but before a STOP record whose splice its lines do not pass. -/
def holdRec (r : DRec) : List DRec → List DRec
  | [] => [r]
  | x :: xs => if (match r.upTo, x.after with | some l, some b => upToSplice l b | _, _ => false) then r :: x :: xs else x :: holdRec r xs

/-- Hold a record for ring d (06 R125). -/
def State.queueRec (s : State) (d : Nat) (r : DRec) : State := s.setRing d { s.ring d with queue := holdRec r (s.ring d).queue }

/-- The records of a ring that have not been delivered: those under export and those held. Their places in the data ring are given up. -/
def DRing.undelivered (x : DRing) : List DRec := (x.spans.map (·.held) ++ x.queue).map (fun r => { r with placed := none, done := 0 })

/-- Hold an EVENT record for a ring that is enabled (06 R131). -/
def State.eventTo (s : State) (d code site blk data line : Nat) : State :=
  if s.st (drPage d) = 0 ∨ s.mainOk = false then s
  else s.queueRec d { body := eventRec code site blk data line s.tNs s.tSec }

/-- A stream event: to the stream's ring when EVENTS is 1 (06 R131). -/
def State.streamEvent (s : State) (d code site blk data line : Nat) : State :=
  if s.regBit (drPage d + 0x44) 3 then s.eventTo d code site blk data line else s

/-- EVENT 0x0004: a LINE action of a stream's gate ran late, at this line (06 R131; 02 R42). -/
def State.lateLine (s : State) (a : Armed) (line : Nat) : State :=
  if a.at_.kind = 1 then s.streamEvent a.at_.stream 4 (streamSite s.asm a.at_.stream) (0x28 + a.at_.stream % 16) line line else s

end Sys2Proof.Machine
end

