-- ==== Sys2Proof/Machine/Encoder.lean ====
section
/-!
DEFINITION. Machine/Encoder.lean: encoders (02 R23 to R30): edges, errors, interpolation, index.
-/
namespace Sys2Proof.Machine

/-- The page of encoder e. -/
def encPage (site e : Nat) : Nat := pg site (0x10 + e % 8)
/-- The page of position unit g. -/
def puPage (site g : Nat) : Nat := pg site (0x18 + g % 8)
/-- The page of gate g. -/
def gatePage (site g : Nat) : Nat := pg site (0x20 + g % 8)

/-- An encoder's record. -/
def State.enc (s : State) (site e : Nat) : Enc := tabGet {} s.encs (site * 8 + e)
/-- Write an encoder's record. -/
def State.setEnc (s : State) (site e : Nat) (x : Enc) : State := { s with encs := tabPut {} s.encs (site * 8 + e) x }

/-- The interpolated fraction at the present sample (02 R28). -/
def State.encFrac (s : State) (site e : Nat) : Nat :=
  let x := s.enc site e
  match x.period, x.last with
  | some p, some t =>
    if (s.reg (encPage site e + 0x64)).toNat < p ∨ x.turned = true ∨ p = 0 then 0 else min 255 (256 * (s.now - t) / p)
  | _, _ => 0

/-- POS at the present sample, in 1/256 count, before it wraps at 48 bits (02 R28). -/
def State.encPos (s : State) (site e : Nat) : Int :=
  let x := s.enc site e
  if x.dir = some false then x.count * 256 - s.encFrac site e else x.count * 256 + s.encFrac site e

/-- Set UNC (02 R29). -/
def State.setUnc (s : State) (site e u : Nat) : State := s.setNat (encPage site e + 0x50) u

/-- Add 2 to UNC, saturating at 0xFFFE; unknown stays unknown (02 R24, R25). -/
def State.widenUnc (s : State) (site e : Nat) : State :=
  let u := s.regFld (encPage site e + 0x50) 0 16
  if u = 0xFFFF then s else s.setUnc site e (satNat 0xFFFE (u + 2))

/-- An encoder fault, from any state (02 R27): the page enters FAULT, UNC becomes unknown. -/
def State.encFault (s : State) (site e code : Nat) : State :=
  let p := encPage site e
  let s1 := s.setUnc site e 0xFFFF
  (if s1.st p = 5 then s1.faultRec p code 1 else s1.toFault p code 1).evt p 1

/-- Note an error inside the window of 1024 valid edges, and fault past QERR_LIMIT (02 R24, R25). -/
def State.encErr (s : State) (site e : Nat) : State :=
  let x := s.enc site e
  let errs := x.edges :: x.errs.filter (fun k => decide (x.edges < k + 1024))
  let s1 := s.setEnc site e { x with errs := errs }
  if s.regFld (encPage site e + 0x40) 16 8 < errs.length then s1.encFault site e 0x0100 else s1

/-- A position unit notes whether POS is below its NEXT_POS (02 R31), at 1/256 count. -/
def State.trackPos (s : State) (site e : Nat) : State :=
  (List.range 8).foldl (fun s g =>
    let x := s.pos site g
    if s.regFld (puPage site g + 0x40) 0 3 = e ∧ s.encPos site e < x.next / 256 ∧ x.below = false then s.setPos site g { x with below := true } else s) s

/-- The encoder after a filtered edge of line B (or A) that toggles it (02 R23, R25): direction from the other line's
level, A leading B forward; count, period, direction change, edge stamps. -/
def encEdge (x : Enc) (lineB inv : Bool) (now : Nat) : Enc :=
  let a := if lineB then x.a else !x.a
  let b := if lineB then !x.b else x.b
  let fwd := (if lineB then b == a else a != b) != inv
  { x with
    a := a, b := b, count := if fwd then x.count + 1 else x.count - 1,
    dir := some fwd, turned := (match x.dir with | some d => d != fwd | none => false),
    last := some now, lastA := if lineB then x.lastA else some now, lastB := if lineB then some now else x.lastB,
    period := (match x.last with | some t => some (now - t) | none => x.period), edges := x.edges + 1 }

/-- Whether an edge of a line is an overrate edge (02 R25). -/
def overrate (x : Enc) (lineB : Bool) (filt now : Nat) : Bool :=
  match (if lineB then x.lastB else x.lastA) with
  | some t => decide (now - t < 2 * (filt + 1))
  | none => false

/-- What a filtered edge does (02 R23 to R25, R28). -/
def State.encEdgeDo (s : State) (site e : Nat) (lineB : Bool) : State :=
  let p := encPage site e
  let s0 := s.trackPos site e
  let x := s0.enc site e
  let fast := overrate x lineB (s.regFld (p + 0x40) 0 8) s.now
  let y := encEdge x lineB (s.regBit (p + 0x40) 8) s.now
  let s1 := s0.setEnc site e y
  let s2 := (match y.period with
    | some d => s1.setNat (p + 0x58) (satNat 0xFFFFFF d)
    | none => s1).evtIf y.turned p 5
  let s3 := if fast then ((s2.widenUnc site e).evt p 4).encErr site e else s2
  s3.trackPos site e

/-- ENCODER_EDGE (02 R23, R25): a filtered edge of A or B. -/
def execEncoderEdge (site e : Nat) (lineB : Bool) (s : State) : Host.Outcome State Fault Refusal :=
  if s.isField site = true ∧ e < 8 then .next (s.encEdgeDo site e lineB) else .next s

/-- QERR (02 R24): both filtered lines change in one sample. -/
def State.qerrDo (s : State) (site e : Nat) : State :=
  let p := encPage site e
  let x := s.enc site e
  let s1 := s.setEnc site e { x with a := !x.a, b := !x.b, lastA := some s.now, lastB := some s.now }
  let s2 := s1.setNat (p + 0x54) (satNat 0xFFFF ((s1.reg (p + 0x54)).toNat + 1))
  ((s2.widenUnc site e).evt p 0).encErr site e

def execQerr (site e : Nat) (s : State) : Host.Outcome State Fault Refusal :=
  if s.isField site = true ∧ e < 8 then .next (s.qerrDo site e) else .next s

/-- ENC_LINE_BROKEN (02 R26): a pair at the fail-safe level for 2 µs; a broken Z pair only when Z_EN is 1. -/
def execEncLineBroken (site e : Nat) (pair : EncPair) (s : State) : Host.Outcome State Fault Refusal :=
  if s.isField site = true ∧ e < 8 ∧ (pair ≠ .z ∨ s.regBit (encPage site e + 0x40) 9 = true) then
    .next ((s.encFault site e 0x0101).evt (encPage site e) 6)
  else .next s

/-- A Z edge that Z_POL selects (02 R30). DESIGN CHOICE (log 23): where no edge of A or B has been filtered since reset, the expected
count is the previous index count + ENC_CPR, as after a forward edge; the rule gives the forward and the backward case alone. -/
def State.indexDo (s : State) (site e : Nat) : State :=
  let p := encPage site e
  let x := s.enc site e
  let cpr : Int := (s.reg (p + 0x44)).toNat
  let unc := s.regFld (p + 0x50) 0 16
  let s1 := ((s.setEnc site e { x with idx := some x.count }).setReg (p + 0x5C) (wordOfInt x.count)).evt p 2
  match x.idx with
  | none => s1
  | some k =>
    let dev := x.count - (if x.dir = some false then k - cpr else k + cpr)
    let s2 := s1.setReg (p + 0x60) (wordOfInt dev)
    if (unc = 0xFFFF ∧ dev ≠ 0) ∨ (unc ≠ 0xFFFF ∧ unc < dev.natAbs) then s2.evt p 3
    else if s.st p = 5 then s2
    else s2.setUnc site e 0

/-- INDEX (02 R30): a filtered Z edge; the level follows it whether or not it is used. -/
def execIndex (site e : Nat) (rising : Bool) (s : State) : Host.Outcome State Fault Refusal :=
  if s.isField site = true ∧ e < 8 then
    let p := encPage site e
    let s1 := s.setEnc site e { s.enc site e with z := rising }
    if s.regBit (p + 0x40) 9 = true ∧ s.reg (p + 0x44) ≠ 0#32 ∧ rising ≠ s.regBit (p + 0x40) 10 then .next (s1.indexDo site e)
    else .next s1
  else .next s

/-- PERIOD_NO_MOTION (02 R28): the gap since the last edge reaches 0xFF_FFFF samples; the held period stays. -/
def execPeriodNoMotion (site e : Nat) (s : State) : Host.Outcome State Fault Refusal :=
  match (s.enc site e).last with
  | some t => if s.isField site = true ∧ e < 8 ∧ t + 0xFFFFFF ≤ s.now then .next (s.setNat (encPage site e + 0x58) 0xFFFFFF) else .next s
  | none => .next s

/-- ENC_CMD.UNC_CLR (02 R29, R484). -/
def State.uncClr (s : State) (req site e : Nat) : State :=
  if s.st (encPage site e) = 5 then s.reject req (encPage site e) 0x6C 5 else s.setUnc site e 0

end Sys2Proof.Machine
end

