-- ==== Sys2Proof/Machine/StreamOps.lean ====
section
/-!
DEFINITION. Machine/StreamOps.lean: streams and gates beside their pages, trigger positions TP(L) (14 R298) and the
declaration of a splice on a gate's streams (16 R341 to R344).
-/
namespace Sys2Proof.Machine

/-- The page of local stream k, of its pipeline, and of the pacing controller of gate g. -/
def strPage (site k : Nat) : Nat := pg site (0x28 + k % 16)
def pipePage (site k : Nat) : Nat := pg site (0x60 + k % 16)
def pacePage (site g : Nat) : Nat := pg site (0x70 + g % 8)
def grpPage (site g : Nat) : Nat := pg site (0x50 + g % 8)
def axPage (site a : Nat) : Nat := pg site (0x40 + a % 16)
def dollyPage (site : Nat) : Nat := pg site 0x58
def spiPage (site g : Nat) : Nat := pg site (0x38 + g % 8)

def State.strm (s : State) (site k : Nat) : Strm := tabGet {} s.strms (site * 16 + k)
def State.setStrm (s : State) (site k : Nat) (x : Strm) : State := { s with strms := tabPut {} s.strms (site * 16 + k) x }
def State.gate (s : State) (site g : Nat) : Gate := tabGet {} s.gates (site * 8 + g)
def State.setGate (s : State) (site g : Nat) (x : Gate) : State := { s with gates := tabPut {} s.gates (site * 8 + g) x }
def State.axis (s : State) (site a : Nat) : Axis := tabGet {} s.axes (site * 16 + a)
def State.setAxis (s : State) (site a : Nat) (x : Axis) : State := { s with axes := tabPut {} s.axes (site * 16 + a) x }
def State.grp (s : State) (site g : Nat) : Grp := tabGet {} s.grps (site * 32 + g)
def State.setGrp (s : State) (site g : Nat) (x : Grp) : State := { s with grps := tabPut {} s.grps (site * 32 + g) x }

/-- The dailies ring, which is the package stream, of a local stream. -/
def State.ringOf (s : State) (site k : Nat) : Nat := packageStream s.asm site k

/-- Trigger position of line L in 1/65536 count, from the runs of one pitch (02 R31, R44; 16 R349). -/
def tpOf : List (Nat × Int × Nat) → Nat → Int
  | [], _ => 0
  | (f, tp, pitch) :: rest, l => if f ≤ l then tp + ((l - f : Nat) : Int) * pitch else tpOf rest l

/-- TP(L) of a gate's present run. -/
def State.tp (s : State) (site g l : Nat) : Int := tpOf (s.pos site g).runs l

/-- SPL_STATE and CAUSE of a stream (16). -/
def State.splState (s : State) (site k : Nat) : Nat := s.regFld (strPage site k + 0x80) 0 2
def State.splCause (s : State) (site k : Nat) : Nat := s.regFld (strPage site k + 0x80) 4 3
/-- SPLICE_LINE of a stream. -/
def State.splLine (s : State) (site k : Nat) : Nat := (s.reg (strPage site k + 0x84)).toNat + s.regFld (strPage site k + 0x88) 0 16 * 2 ^ 32
/-- The field die and local stream of ring d (01, 24). -/
def State.ringStream (s : State) (d : Nat) : Nat × Nat := (streamSite s.asm d, d % 16)

/-- The STOP record, from the splice registers (06 R130, R133); its reference instant is not stated (log 40). -/
def State.stopRec (s : State) (d : Nat) : List Byte :=
  let site := (s.ringStream d).1
  let k := (s.ringStream d).2
  let p := strPage site k
  let posn : Int := wrapS48 (((s.reg (p + 0x8C)).toNat + s.regFld (p + 0x90) 0 16 * 2 ^ 32 : Nat) : Int)
  spliceRec d (s.splLine site k) (s.splCause site k) posn (s.regFld (p + 0x94) 0 16) 0 (Config.freeWord s.free).toNat (Config.freeWord (s.free + 1)).toNat

/-- A STOP record still held when its splice record ends keeps the splice registers' values, and its place. -/
def State.fixStop (s : State) (site k : Nat) : State :=
  let d := s.ringOf site k
  let x := s.ring d
  if x.queue.any (fun r => r.stop) then
    ((s.setRing d { x with queue := x.queue.map (fun r => if r.stop then { r with stop := false, body := s.stopRec d } else r) }).draw).draw
  else s

/-- WATERMARK of a stream (14 R306). -/
def State.watermark (s : State) (site k : Nat) : Nat := (s.reg (pipePage site k + 0x64)).toNat + s.regFld (pipePage site k + 0x68) 0 16 * 2 ^ 32

/-- Whether a stream is halted at a splice. -/
def State.spliced (s : State) (site k : Nat) : Bool := s.st (strPage site k) == 4 && s.splState site k != 0

/-- Whether a stream takes part in pacing (16 Pacing inputs): RUNNING or PACED, or HALTED on a not-present fault. -/
def State.takesPart (s : State) (site k : Nat) : Bool := s.active (strPage site k) || (s.st (strPage site k) == 4 && s.splState site k == 0)

/-- The line a splice names as its last: the last line triggered; -1, which is 2^48 - 1, before any. -/
def State.lastTriggered (s : State) (site g : Nat) : Nat := (2 ^ 48 + (s.pos site g).line - 1) % 2 ^ 48

/-- POS, UNC of the start of a line a stream still keeps, else its trigger position (16 SPL_POS). -/
def State.lineStart (s : State) (site k l : Nat) : Int × Nat :=
  match (s.strm site k).hist.find? (fun r => r.line == l) with
  | some r => (r.pos, r.unc)
  | none => (s.tp site (k / 2) l / 256, 0)

/-- Write a splice record into a stream's registers (16 R344, Control): SPL_STATE STOPPING. -/
def State.writeSplice (s : State) (site k cause line : Nat) (vel : Int) : State :=
  let p := strPage site k
  let st := s.lineStart site k line
  let s1 := ((s.setNat (p + 0x80) (1 + cause * 16 + (if (s.strm site k).lost then 512 else 0))).setNat (p + 0x84) (line % 2 ^ 32)).setNat (p + 0x88) (line / 2 ^ 32 % 2 ^ 16)
  let w (s : State) (a : Nat) (x : Int) : State := (s.setReg a (wordOfInt x)).setNat (a + 4) ((x / 2 ^ 32) % 2 ^ 16).toNat
  let s2 := (w s1 (p + 0x8C) st.1).setNat (p + 0x94) st.2
  ((w s2 (p + 0x98) (s.tp site (k / 2) ((line + 1) % 2 ^ 48) / 256)).setReg (p + 0xA0) (wordOfInt vel)).setNat (p + 0xA4) (s.us % 2 ^ 32)

/-- Rows after the splice point never enter the ring (14 R307; 16 R342). -/
def State.dropRows (s : State) (site k line : Nat) : State :=
  let x := s.strm site k
  let keep (r : LRow) : Bool := line != 2 ^ 48 - 1 && decide (r.line ≤ line)
  s.setStrm site k { x with rows := x.rows.filter keep, hist := x.hist.filter keep }

/-- A stream at a splice whose group is at rest (16 R342). -/
def State.spliceRest (s : State) (site k : Nat) : State :=
  let p := strPage site k
  if s.splState site k = 1 then (s.putFld (p + 0x80) 0 2 2).evt p 4 else s

/-- A stream's pipeline has lost its state (14 R308): LOST, and STATE_LOST in its splice record where it is halted at one. -/
def State.losePipe (s : State) (site k : Nat) : State :=
  let s1 := s.setStrm site k { s.strm site k with lost := true }
  if s.splState site k ≠ 0 then s1.putBit (strPage site k + 0x80) 9 true else s1

/-- Declare a splice on one stream (16 R342): HALTED, the splice record, SPLICE_SET; its STOP record waits behind the
records of the lines at or below SPLICE_LINE. A stream that keeps an earlier splice is unchanged (16 R343). A group that is at rest already
makes it AT_REST. -/
def State.spliceOne (s : State) (site k cause line : Nat) (vel : Int) : State :=
  let p := strPage site k
  if s.takesPart site k then
    let back := if s.st p = 4 then (s.strm site k).back else s.st p
    let s1 := (s.writeSplice site k cause line vel).dropRows site k line
    let s2 := s1.setStrm site k { s1.strm site k with back := back, splices := line :: (s1.strm site k).splices }
    let s3 := ((s2.setSt p 4).evt p 3).queueRec (s.ringOf site k) { stop := true, after := some line }
    if (s.grp site (k / 2)).atRest then s3.spliceRest site k else s3
  else s

/-- A stream that has reached OFF (13 R288; 16 R344; 14 R311): its splice record ends, and what its next run starts from. -/
def State.clearSplice (s : State) (site k : Nat) : State := s.setNat (strPage site k + 0x80) 0

end Sys2Proof.Machine
end

