-- ==== Sys2Proof/Machine/RingOps.lean ====
section
/-!
DEFINITION. Machine/RingOps.lean: slot rings, cue queues and bin flags (10 R207 to R210, R221), whose heads, tails and
counts a core's mover page holds.
-/
namespace Sys2Proof.Machine

/-- The mover page of a core, and its RINGr register. -/
def mvPage (site core : Nat) : Nat := pg site (0x140 + core % 64)
def ringReg (site core r : Nat) : Nat := mvPage site core + 0x50 + 4 * (r % 8)

def State.sring (s : State) (site core r : Nat) : SRing := tabGet {} s.slotRings ((site * 256 + core) * 8 + r)
def State.setSring (s : State) (site core r : Nat) (x : SRing) : State := { s with slotRings := tabPut {} s.slotRings ((site * 256 + core) * 8 + r) x }

/-- SLOTS, HEAD, TAIL and COUNT. -/
def State.ringSlots (s : State) (site core r : Nat) : Nat := s.regFld (ringReg site core r) 0 5
def State.ringHead (s : State) (site core r : Nat) : Nat := s.regFld (ringReg site core r) 5 4
def State.ringTail (s : State) (site core r : Nat) : Nat := s.regFld (ringReg site core r) 9 4
def State.ringCount (s : State) (site core r : Nat) : Nat := s.regFld (ringReg site core r) 13 5
/-- Slots that stand between HEAD and TAIL: the published ones, and those whose result was discarded (10 R207, R221). -/
def State.ringUsed (s : State) (site core r : Nat) : Nat := max (s.ringCount site core r) (s.sring site core r).epochs.length
def State.ringFree (s : State) (site core r : Nat) : Nat := s.ringSlots site core r - s.ringUsed site core r

/-- The mark of a slot that was released unpublished or discarded between others (10 R220, R221; log 75): no epoch. -/
def voidSlot : Nat := 2 ^ 16

/-- The address of a slot's byte in its space. -/
def State.slotAddr (s : State) (site core r slot : Nat) : Nat := (s.sring site core r).base + slot * (s.sring site core r).slotBytes

/-- Publish the slot at TAIL with its producer's epoch (10 R207, R221). -/
def State.publish (s : State) (site core r epoch : Nat) : State :=
  let n := s.ringSlots site core r
  let x := s.sring site core r
  let s1 := s.setSring site core r { x with epochs := x.epochs ++ [epoch] }
  (s1.putFld (ringReg site core r) 9 4 (if n = 0 then 0 else (s.ringTail site core r + 1) % n)).putFld (ringReg site core r) 13 5 (s.ringCount site core r + 1)

/-- HEAD passes the discarded slots it stands at. -/
def State.passVoids (s : State) (site core r : Nat) : State :=
  let x := s.sring site core r
  let k := (x.epochs.takeWhile (· == voidSlot)).length
  let n := s.ringSlots site core r
  if k = 0 then s
  else (s.setSring site core r { x with epochs := x.epochs.drop k }).putFld (ringReg site core r) 5 4 (if n = 0 then 0 else (s.ringHead site core r + k) % n)

/-- Release the slot at TAIL unpublished while later slots are being filled (10 R221). -/
def State.skipSlot (s : State) (site core r : Nat) : State :=
  let n := s.ringSlots site core r
  let x := s.sring site core r
  ((s.setSring site core r { x with epochs := x.epochs ++ [voidSlot] }).putFld (ringReg site core r) 9 4 (if n = 0 then 0 else (s.ringTail site core r + 1) % n)).passVoids site core r

/-- Discard a die's published slots that carry an epoch (10 R220). -/
def State.discardSlots (s : State) (site e : Nat) : State :=
  s.slotRings.foldl (fun s x =>
    let n := (x.2.epochs.filter (· == e)).length
    if x.1 / 2048 = site ∧ 0 < n then
      let core := x.1 / 8 % 256
      let r := x.1 % 8
      ((s.setSring site core r { x.2 with epochs := x.2.epochs.map (fun y => if y = e then voidSlot else y) }).putFld (ringReg site core r) 13 5 (s.ringCount site core r - n)).passVoids site core r
    else s) s

/-- Release the slot at HEAD (10 R208). -/
def State.release (s : State) (site core r : Nat) : State :=
  let n := s.ringSlots site core r
  let x := s.sring site core r
  if s.ringCount site core r = 0 then s
  else
    let s1 := s.setSring site core r { x with epochs := x.epochs.drop 1 }
    ((s1.putFld (ringReg site core r) 5 4 (if n = 0 then 0 else (s.ringHead site core r + 1) % n)).putFld (ringReg site core r) 13 5 (s.ringCount site core r - 1)).passVoids site core r

/-- The place in a ring, from HEAD on, of its p-th published slot. -/
def State.slotNth (s : State) (site core r p : Nat) : Nat :=
  let es := (s.sring site core r).epochs
  (((List.range es.length).filter (fun i => es.getD i 0 != voidSlot))[p]?).getD p

/-- A cue queue; 64 handles deep (10). -/
def State.cue (s : State) (site q : Nat) : List Nat := tabGet [] s.cueQs (site * 4096 + q)
def State.setCue (s : State) (site q : Nat) (hs : List Nat) : State := { s with cueQs := tabPut [] s.cueQs (site * 4096 + q) hs }

/-- A handle (10): offset in bytes, length in 64-byte units, TAG, epoch. -/
def mkHandle (off len tag epoch : Nat) : Nat := off % 2 ^ 26 + len % 2 ^ 16 * 2 ^ 26 + tag % 64 * 2 ^ 42 + epoch % 2 ^ 16 * 2 ^ 48
def handleOff (h : Nat) : Nat := h % 2 ^ 26
def handleLen (h : Nat) : Nat := h / 2 ^ 26 % 2 ^ 16 * 64
def handleEpoch (h : Nat) : Nat := h / 2 ^ 48 % 2 ^ 16

/-- A bin flag's word. -/
def State.bflag (s : State) (site i : Nat) : Nat := tabGet 0 s.binFlags (site * 65536 + i)
def State.setBflag (s : State) (site i v : Nat) : State := { s with binFlags := tabPut 0 s.binFlags (site * 65536 + i) v }

/-- Whether an epoch is cancelled on a die (10 R220): epochs there are marked until their counter comes round. -/
def State.cancelled (s : State) (site e : Nat) : Bool := (tabGet [] s.cancels site).contains e

/-- A flag's VALUE as FLAG_WAIT reads it: 0 where its epoch is cancelled (10 R221). -/
def State.flagValue (s : State) (site i : Nat) : Nat :=
  let w := s.bflag site i
  if s.cancelled site (w / 65536) then 0 else w % 65536

/-- Set a flag, or add to it modulo 2^16, starting again from 0 over a cancelled epoch (10 R210, R221). -/
def State.flagSet (s : State) (site i v epoch : Nat) (add : Bool) : State :=
  s.setBflag site i ((if add then s.flagValue site i + v else v) % 65536 + epoch * 65536)

/-- The handles of a queue that are not stale (10 R221). -/
def State.cueLive (s : State) (site q : Nat) : List Nat := (s.cue site q).filter (fun h => !s.cancelled site (handleEpoch h))

/-- A slate and where its group's local cue or flag lies, through a pipeline's binding where it has one (10, 14 R294). -/
def State.slate (s : State) (handle : Nat) : Option Slate :=
  (s.slates.find? (fun p => p.2.handle == handle)).map (·.2)
def State.setSlate (s : State) (x : Slate) : State := { s with slates := tabIns (x.handle % 65536) x (tabDrop (x.handle % 65536) s.slates) }
def Slate.cueAt (x : Slate) (g i : Nat) : Nat × Nat :=
  match x.cues.find? (fun c => c.1 == g * 64 + i) with
  | some c => c.2
  | none => let a := x.groups.getD g {}; (a.site, a.cue + i)
def Slate.flagAt (x : Slate) (g i : Nat) : Nat × Nat :=
  match x.flags.find? (fun c => c.1 == g * 1024 + i) with
  | some c => c.2
  | none => let a := x.groups.getD g {}; (a.site, a.flag + i)

end Sys2Proof.Machine
end

