-- ==== Sys2Proof/Machine/FrameOps.lean ====
section
/-!
DEFINITION. Machine/FrameOps.lean: frames under way (14 R298 to R306) and the space of the data ring (06 R125; 14 R303).
-/
namespace Sys2Proof.Machine

/-- PIPE_CFG fields (14). -/
def State.framesEn (s : State) (site k : Nat) : Bool := s.regBit (pipePage site k + 0x40) 0
def State.perfEn (s : State) (site k : Nat) : Bool := s.regBit (pipePage site k + 0x40) 1
def State.frameHold (s : State) (site k : Nat) : Nat := s.regFld (pipePage site k + 0x40) 3 4
def State.perfWin (s : State) (site k : Nat) : Nat := s.regFld (pipePage site k + 0x40) 16 10
def State.frameMax (s : State) (site k : Nat) : Nat := s.regFld (pipePage site k + 0x54) 0 16
def State.framePitch (s : State) (site k : Nat) : Nat := (s.reg (pipePage site k + 0x44)).toNat

/-- Free bytes of a ring's data ring, reserved space counted as used (14 R303; 16 R336); 0 while the ring is off. -/
def State.dataFree (s : State) (d : Nat) : Nat :=
  if s.mainOk = false ∨ s.st (drPage d) = 0 then 0
  else 2 ^ (s.reg (drPage d + 0x5C)).toNat - ((s.ring d).dnext - (s.reg (drPage d + 0x6C)).toNat * 64 + 2 ^ 38) % 2 ^ 38

/-- Free 64-byte units of a ring's record ring. -/
def State.recFree (s : State) (d : Nat) : Nat :=
  if s.mainOk = false ∨ s.st (drPage d) = 0 then 0
  else 2 ^ (s.reg (drPage d + 0x50)).toNat / 64 - ((s.reg (drPage d + 0x60)) - (s.reg (drPage d + 0x64))).toNat

/-- Where the next `n` bytes of the data ring begin, as a free-running count: a payload that would straddle its end starts at offset 0
(06 R125). -/
def State.dataAt (s : State) (d n : Nat) : Nat :=
  let at_ := (s.ring d).dnext
  let size := 2 ^ (s.reg (drPage d + 0x5C)).toNat
  if at_ % size + n ≤ size then at_ else at_ + (size - at_ % size)

/-- Whether the data ring has room for `n` more bytes. -/
def State.dataRoom (s : State) (d n : Nat) : Bool := decide (s.dataAt d n - (s.ring d).dnext + n ≤ s.dataFree d)

/-- Take `n` bytes of the data ring at a 64-byte boundary. -/
def State.allocData (s : State) (d n : Nat) : Option (Nat × State) :=
  if s.dataRoom d n then
    let nx := (s.dataAt d n + n + 63) / 64 * 64
    some (s.dataAt d n % 2 ^ (s.reg (drPage d + 0x5C)).toNat, (s.setRing d { s.ring d with dnext := nx % 2 ^ 38 }).setNat (drPage d + 0x68) (nx / 64 % 2 ^ 32))
  else none

/-- Whether ring d lacks space for a held record (06 R125): a PAD goes before one that would not fit at the record ring's end. -/
def State.lacksRoom (s : State) (d : Nat) (r : DRec) : Bool :=
  let units := if r.stop then 1 else r.body.length / 64
  let ring := 2 ^ (s.reg (drPage d + 0x50)).toNat / 64
  let pad := if (s.reg (drPage d + 0x60)).toNat % ring + units ≤ ring then 0 else 1
  decide (s.recFree d < units + pad) || (r.placed.isNone && !r.payload.isEmpty && !s.dataRoom d r.payload.length)

/-- DRAIN_STALL (06 R125): either ring lacks space for what waits, a record, a frame's reservation (14 R303) or a frame layer. -/
def State.drainStall (s : State) (d : Nat) : Bool :=
  let x := s.ring d
  let y := s.strm (streamSite s.asm d) (d % 16)
  s.mainOk && s.st (drPage d) != 0 &&
    ((match x.queue with | r :: _ => s.lacksRoom d r | [] => false) || x.hold.isSome || (decide (d < 32) && y.pipe.isSome && y.frames.any (fun f => !f.reserved)))

/-- DR_STATUS (06): DRAIN_STALL with its event on a rising edge, and the free data space. -/
def State.showRing (s : State) (d : Nat) : State :=
  let p := drPage d
  let stall := s.drainStall d
  (s.setNat (p + 0x74) ((if stall then 1 else 0) + satNat 0xFFFF (s.dataFree d / 65536) * 2 ^ 16)).evtIf (stall && !s.regBit (p + 0x74) 0) p 1

/-- The prime line P (14 R308): the start of the stripe that holds FIRST_LINE(W_f) - PRIME_LINES, or L0. -/
def State.primeLine (s : State) (site k : Nat) : Nat :=
  let x := s.strm site k
  let l0 := x.l0.getD 0
  let wf := (s.reg (pipePage site k + 0x70)).toNat + s.regFld (pipePage site k + 0x74) 0 16 * 2 ^ 32
  let h := match x.pipe with | some b => max 1 b.stripeH | none => 1
  let t := wf - s.regFld (pipePage site k + 0x58) 0 16
  if t ≤ l0 then l0 else l0 + (t - l0) / h * h

/-- The least line a restart may still rescan for a stream. -/
def State.leastRescan (s : State) (site k : Nat) : Nat := if s.framesEn site k then s.primeLine site k else s.watermark site k

/-- Open a frame at line L (14 R298, R300). -/
def State.openFrame (s : State) (site k l : Nat) (gap : Bool) : State :=
  let x := s.strm site k
  let row := (x.hist.find? (fun r => r.line == l)).getD {}
  let n := match x.pipe with | some b => b.layers.length | none => 0
  let f : Frame := { idx := x.fidx, first := l, layers := List.replicate n (0, 0, false, false), pos := row.pos, ns := row.ns, sec := row.sec, afterGap := gap || x.fidx == 0, pitch := s.framePitch site k }
  s.setStrm site k { x with frames := x.frames ++ [f], open_ := some l, fidx := x.fidx + 1 }

/-- Close the open frame at its last line (14 R300). -/
def State.closeFrame (s : State) (site k last : Nat) : State :=
  let x := s.strm site k
  s.setStrm site k { x with frames := x.frames.map (fun f => if f.last.isNone then { f with last := some last } else f), open_ := none }

/-- FRAME_PITCH of the open frame, as it stood when the frame began: a commit changes the prediction from the next boundary on (14 R298). -/
def State.openPitch (s : State) (site k : Nat) : Nat :=
  match (s.strm site k).frames.find? (fun f => f.last.isNone) with | some f => f.pitch | none => s.framePitch site k

/-- Whether the open frame, which begins at b, is predicted to end before line l (14 R298). -/
def State.pastFrame (s : State) (site k b l : Nat) : Bool :=
  decide (s.tp site (k / 2) b + s.openPitch site k ≤ s.tp site (k / 2) l)

/-- B_pred: the first line whose TP is at or above TP(B) + FRAME_PITCH, within FRAME_MAX lines (14 R298, R300). -/
def State.predict (s : State) (site k b : Nat) : Nat :=
  match (List.range (s.frameMax site k)).find? (fun i => s.pastFrame site k b (b + i)) with
  | some i => b + i
  | none => b + s.frameMax site k

/-- The detector at a triggered line (14 R298 to R300), without perforation refinement: a frame begins at the first line
at or above FRAME_ORIGIN, and ends where the next is predicted, at most FRAME_MAX lines on. DEDUCED (log 55): without a bound layer there
is no frame, since a FRAME record names 1 to 5 of them (06 R128). -/
def State.frameLine (s : State) (site k l : Nat) (afterGap : Bool) : State :=
  let x := s.strm site k
  if s.framesEn site k = false ∨ (match x.pipe with | some b => b.layers.isEmpty | none => true) = true then s
  else
    match x.open_ with
    | none =>
      let org : Int := wrapS48 (((s.reg (pipePage site k + 0x48)).toNat + s.regFld (pipePage site k + 0x4C) 0 16 * 2 ^ 32 : Nat) : Int)
      if (afterGap = true ∧ x.fidx ≠ 0) ∨ (x.fidx = 0 ∧ org * 256 ≤ s.tp site (k / 2) l) then s.openFrame site k l afterGap else s
    | some b =>
      if afterGap then ((s.closeFrame site k ((x.last.getD 0))).evt (pipePage site k) 5).openFrame site k l true
      else if s.perfEn site k = false ∧ (s.pastFrame site k b l = true ∨ b + s.frameMax site k ≤ l) then
        (s.closeFrame site k (l - 1)).openFrame site k l false
      else s

/-- Give frames their reservations in order: FRAME_MAX × ROW_BYTES for each ROWS_CUE layer (14 R303); DRAIN_STALL where
the data ring lacks space. -/
def State.reserveLayers (s : State) (site k d : Nat) (defs : List LayerDef) : Option (List (Nat × Nat × Bool × Bool) × State) :=
  match defs with
  | [] => some ([], s)
  | l :: ls =>
    if l.source = 0 then
      match s.allocData d (s.frameMax site k * l.rowBytes) with
      | none => none
      | some (off, s1) => match s1.reserveLayers site k d ls with
        | none => none
        | some (r, s2) => some ((off, 0, false, false) :: r, s2)
    else match s.reserveLayers site k d ls with
      | none => none
      | some (r, s2) => some ((0, 0, false, false) :: r, s2)

def State.reserve (s : State) (site k : Nat) : State :=
  let d := s.ringOf site k
  (s.strm site k).frames.foldl (fun s f =>
    if f.reserved then s
    else match (s.strm site k).pipe with
      | none => s
      | some b => match s.reserveLayers site k d b.layers with
        | none => s.showRing d
        | some (ls, s1) =>
          let x := s1.strm site k
          s1.setStrm site k { x with frames := x.frames.map (fun h => if h.idx = f.idx then { h with reserved := true, layers := ls } else h) }) s

/-- A frame is due when its stream triggers line LAST_LINE + LAG (14 R305). -/
def State.frameDue (s : State) (site k : Nat) (f : Frame) : Bool :=
  match f.last, (s.strm site k).pipe with
  | some l, some b => decide (l + b.lag < (s.pos site (k / 2)).line)
  | _, _ => false

/-- Whether layer i of a frame is complete: a ROWS_CUE layer once every line's row is there, a frame layer once taken. -/
def Frame.layerDone (f : Frame) (def_ : LayerDef) (i : Nat) : Bool :=
  let l := f.layers.getD i (0, 0, false, false)
  if def_.source = 0 then (match f.last with | some e => l.2.1 == (e + 1 - f.first) * def_.rowBytes | none => false) else l.2.2.1

/-- The layers of a frame still missing, and not marked ABSENT. -/
def Frame.missing (f : Frame) (defs : List LayerDef) : List Nat :=
  (List.range defs.length).filter (fun i => !f.layerDone (defs.getD i {}) i && !(f.layers.getD i (0, 0, false, false)).2.2.2)

/-- FRAME_HELD when a frame falls due at this line with a layer missing (14 R305). -/
def State.heldAt (s : State) (site k line : Nat) : State :=
  match (s.strm site k).pipe with
  | none => s
  | some b => s.evtIf ((s.strm site k).frames.any (fun f => (match f.last with | some l => l + b.lag == line | none => false) && !(f.missing b.layers).isEmpty)) (pipePage site k) 0

/-- PIPE_STATUS (14): BOUND, LOST, PRIMING, DRAINING, frames due and held, stages in FAULT or LOST, stages, layers. -/
def State.showPipe (s : State) (site k : Nat) : State :=
  let x := s.strm site k
  let b (c : Bool) (i : Nat) : Nat := if c then 2 ^ i else 0
  let stages := match x.pipe with | some p => p.stages | none => []
  let bad (h : Nat) : Bool := match s.slate h with | some y => y.state == 3 || y.faulted | none => true
  let mask := (List.range stages.length).foldl (fun m i => m + (if bad (stages.getD i (0, 0)).1 then 2 ^ (8 + i) else 0)) 0
  let held := satNat 15 (x.frames.filter (fun f => s.frameDue site k f)).length
  s.setNat (pipePage site k + 0x80) (b x.pipe.isSome 0 + b x.lost 1 + b x.priming 2 + b ((s.st (strPage site k) == 3 || s.st (strPage site k) == 0) && !x.frames.isEmpty) 3
    + held * 16 + mask + stages.length * 2 ^ 16 + (match x.pipe with | some p => p.layers.length | none => 0) * 2 ^ 20)

end Sys2Proof.Machine
end

