-- ==== Sys2Proof/Machine/MmuOps.lean ====
section
/-!
DEFINITION. Machine/MmuOps.lean: stack addresses, granules, translation and fault records (11 R226 to R235), and poison
(11 R239).
-/
namespace Sys2Proof.Machine

def memPage : Nat := pg 8 5
def mmuPage (t : Nat) : Nat := pg 8 (0x40 + t % 64)

/-- CONF bit of a tenant (20). -/
def State.conf (s : State) (t : Nat) : Bool := s.regBit (pg 8 8 + 0x48) t

/-- Present stacks, and the sizes of the DPA space and of its firmware reserve (11 R226). -/
def stackCount (asm : Nat) : Nat := ((List.range 8).filter (stackFitted asm)).length
def dpaEnd (asm : Nat) : Nat := stackCount asm * 2 ^ 34
def dpaTenantEnd (asm : Nat) : Nat := stackCount asm * (2 ^ 34 - 2 ^ 30)

/-- The interleave (11 R227): position and offset within the stack of a DPA. -/
def dpaPlace (asm : Nat) (big : Bool) (dpa : Nat) : Nat × Nat :=
  let g := if big then 65536 else 4096
  let n := stackCount asm
  (dpa / g % n, dpa / g / n * g + dpa % g)

/-- The compute die that serves a DPA (11 R227; 01 R12). -/
def State.dpaSite (s : State) (dpa : Nat) : Nat :=
  (((List.range 8).filter (stackFitted s.asm)).getD (dpaPlace s.asm (s.regBit (memPage + 0x40) 0) dpa).1 0) / 2

/-- The memory-controller page of the stack that holds a DPA (01 R12). -/
def State.ctlPage (s : State) (dpa : Nat) : Nat :=
  let m := ((List.range 8).filter (stackFitted s.asm)).getD (dpaPlace s.asm (s.regBit (memPage + 0x40) 0) dpa).1 0
  pg (m / 2) (12 + m % 2)

/-- What a translation gives (11 R230 to R233): a stack address, a host address (`dev`: of type DEVREG), a contained error,
not present at a level, or a granule under zeroing to wait for. -/
inductive Walk
  | stack (dpa : Nat)
  | host (addr : Nat) (dev : Bool)
  | bad (code : Nat)
  | absent (level : Nat)
  | wait
  deriving DecidableEq, Repr

/-- The walk from the table at `base` of level `lvl` (11 R230, R231): MAP_FORMAT before MAP_PERM. A walk read of a host word that
completes poisoned or in error is MAP_FORMAT (log 76). -/
def State.walkFrom (s : State) (ta : Nat) (write : Bool) : Nat → Nat → Walk
  | lvl, base =>
    let at_ := base + ta / 2 ^ (12 + 9 * lvl) % 512 * 8
    let e := leNat (s.hmemGet at_ 8)
    let addr := e / 2 ^ 12 % 2 ^ 40 * 2 ^ 12
    if s.badCpl.contains (at_ / 8) then .bad 0x100
    else if e % 2 = 0 then .absent lvl
    else if e / 2 ^ 5 % 2 ^ 7 ≠ 0 ∨ e / 2 ^ 52 ≠ 0 then .bad 0x100
    else if e / 2 % 2 = 0 then
      match lvl with
      | 0 => .bad 0x100
      | l + 1 => s.walkFrom ta write l addr
    else
      let ty := e / 4 % 4
      let size := 2 ^ (12 + 9 * lvl)
      if lvl = 3 ∨ ty = 3 ∨ addr % size ≠ 0 then .bad 0x100
      else if write = true ∧ e / 16 % 2 = 0 then .bad 0x101
      else
        let pa := addr + ta % size
        if ty = 0 then .stack pa else .host pa (ty == 2)

/-- What a unit wants of a page (11 R231; 06 R136): stack memory, host memory, a ring page under DEST = HOST, a ring page under
DEST = NET. -/
inductive Want | stack | host | ringHost | ringNet
  deriving DecidableEq, Repr

def Want.takesStack : Want → Bool
  | .stack => true | .ringNet => true | .host => false | .ringHost => false
def Want.takesHost : Want → Bool → Bool
  | .stack, _ => false | .host, _ => true | .ringHost, dev => !dev | .ringNet, dev => !dev

/-- Owner of the granule of a DPA, as tenant + 1 (11 R229). -/
def State.granOwner (s : State) (dpa : Nat) : Nat := tabGet 0 s.grans (dpa / 2 ^ 21)

/-- Where a stack leaf's address lies (11 R230; 21 R431): in an ensemble it is package × 2^40 + that package's own DPA. `none` for a
package outside it or lost; its own DPA for this one. -/
def State.ensDpa (s : State) (dpa : Nat) : Option (Nat × Nat) :=
  if s.ensSt = 2 ∨ s.ensSt = 3 then
    (if s.regBit (pg 8 0x0C + 0x44) (dpa / 2 ^ 40) = true ∧ dpa / 2 ^ 40 < 16 then some (dpa / 2 ^ 40, dpa % 2 ^ 40) else none)
  else some (s.pkg, dpa)

/-- Translate one access of a tenant (11 R229 to R231; 21 R431). An access to another package's stack goes by the relays and ends there,
outside this State: it waits (log 82). -/
def State.translate (s : State) (t ta : Nat) (write : Bool) (want : Want) : Walk :=
  if s.st (mmuPage t) = 0 then .bad 0x100
  else match s.walkFrom (ta % 2 ^ 48) write 3 (s.wide (mmuPage t + 0x40)) with
    | .stack dpa =>
      if want.takesStack = false then .bad 0x102
      else match s.ensDpa dpa with
      | none => .bad 0x103
      | some (k, dpa) =>
        if k ≠ s.pkg then .wait
        else if dpaTenantEnd s.asm ≤ dpa then .bad 0x103
        else if s.granBusy = some (dpa / 2 ^ 21) then .wait
        else if s.granOwner dpa ≠ t + 1 then .bad 0x104
        else .stack dpa
    | .host a dev => if want.takesHost dev then .host a dev else .bad 0x102
    | w => w

/-- Poison (11 R239): whether a read of `n` bytes meets a poisoned word (8 bytes; 64 bytes in a stack), and the words
that a write of `n` bytes covers wholly lose their mark. -/
def wordLen (sp : Nat) : Nat := if sp = spStack then 64 else 8
def State.poisoned (s : State) (sp a n : Nat) : Bool :=
  s.poison.any (fun k => decide (k < ramKey sp (a + n)) && decide (ramKey sp a < k + wordLen sp))
/-- Poison consumed (11 R239): the counters of the die and the memory page, POISON_CONSUMED, and the page that records the code. -/
def State.consumePoison (s : State) (site page code : Nat) : State :=
  let s1 := (s.addSat (pg site 0x0A + 0x54) 1).evt memPage 1
  if page = 0 then s1 else s1.faultRec page code 2

/-- Zero a whole space, which clears its poison (11 R239). -/
def State.scrub (s : State) (sp : Nat) : State := let s1 := s.ramClear sp; { s1 with poison := s1.poison.filter (fun k => k / 2 ^ 48 != sp) }

/-- The page that records poison consumed in a space, 0 for a core store (its core's page records it), and the contained code (11 R239;
07). -/
def State.poisonSite (s : State) (site sp a : Nat) : Nat × Nat :=
  if sp = spStack then (s.ctlPage a, 0x0101) else if sp % 256 = 1 then (pg site 0x0A, 0x0100) else if sp % 256 < 64 then (pg site 0x0A, 0x0102) else (0, 0x0103)

/-- The memory controller's check of an access by a tenant (11 R229): a stack address lies in a granule of the tenant's. -/
def State.ownsAt (s : State) (t sp a : Nat) : Bool := sp != spStack || s.granOwner a == t + 1
/-- An access waits while its granule is zeroed (11 R229). -/
def State.zeroing (s : State) (sp a : Nat) : Bool := sp == spStack && s.granBusy == some (a / 2 ^ 21)

/-- A 64-byte line as its stack, the fabric and a relay carry it (11 R229; 10 R217): ciphertext under the memory key of the granule's
owner, tweaked by the line's DPA. The model keeps what the owner's units read and write; a granule that nobody owns has no key and is
not accessed (log 76). -/
def State.stackLine (s : State) (dpa : Nat) : Option (List Byte) :=
  match s.granOwner dpa with
  | 0 => none
  | t + 1 => (tabGet {} s.tenants t).memKey.map (fun k => Config.xtsLine k (dpa / 64 * 64) (s.ramGet spStack (dpa / 64 * 64) 64))

def State.ramWrite (s : State) (sp a : Nat) (bs : List Byte) : State :=
  let s1 := s.ramPut sp a bs
  { s1 with poison := s1.poison.filter (fun k => !(decide (ramKey sp a ≤ k) && decide (k + wordLen sp ≤ ramKey sp (a + bs.length)))) }

/-- Write tenant memory from a TA, page by page; a page that does not translate stops it with the pages before it
written (11 R233). -/
def State.taPut (s : State) (t : Nat) (want : Want) : Nat → Nat → List Byte → State × Option (Nat × Walk)
  | 0, _, _ => (s, none)
  | f + 1, ta, bs =>
    if bs.isEmpty then (s, none)
    else
      let n := 4096 - ta % 4096
      match s.translate t ta true want with
      | .stack dpa => (s.ramWrite spStack dpa (bs.take n)).taPut t want f (ta + n) (bs.drop n)
      | .host a _ => (s.hmemPut a (bs.take n)).taPut t want f (ta + n) (bs.drop n)
      | w => (s, some (ta, w))

def State.taWrite (s : State) (t : Nat) (want : Want) (ta : Nat) (bs : List Byte) : State × Option (Nat × Walk) :=
  s.taPut t want (bs.length / 4096 + 2) ta bs

/-- Read tenant memory from a TA, page by page. -/
def State.taGet (s : State) (t : Nat) (want : Want) : Nat → Nat → Nat → List Byte × Option (Nat × Walk)
  | 0, _, _ => ([], none)
  | f + 1, ta, len =>
    if len = 0 then ([], none)
    else
      let n := min len (4096 - ta % 4096)
      match s.translate t ta false want with
      | .stack dpa => let r := s.taGet t want f (ta + n) (len - n); (s.ramGet spStack dpa n ++ r.1, r.2)
      | .host a _ => let r := s.taGet t want f (ta + n) (len - n); (s.hmemGet a n ++ r.1, r.2)
      | w => ([], some (ta, w))

def State.taRead (s : State) (t : Nat) (want : Want) (ta len : Nat) : List Byte × Option (Nat × Walk) :=
  s.taGet t want (len / 4096 + 2) ta len

/-- The first poisoned stack line that a tenant's read of `len` bytes would meet, page by page, as its DPA (11 R239). -/
def State.taPoisoned (s : State) (t : Nat) (want : Want) : Nat → Nat → Nat → Option Nat
  | 0, _, _ => none
  | f + 1, ta, len =>
    if len = 0 then none
    else
      let n := min len (4096 - ta % 4096)
      match s.translate t ta false want with
      | .stack dpa => if s.poisoned spStack dpa n then some dpa else s.taPoisoned t want f (ta + n) (len - n)
      | .host _ _ => s.taPoisoned t want f (ta + n) (len - n)
      | _ => none

/-- Firmware's own write of a response to tenant memory; pages that do not translate are left. -/
def State.tmemPut (s : State) (t ta : Nat) (bs : List Byte) : State := (s.taWrite t .host ta bs).1

def State.mmu (s : State) (t : Nat) : Mmu := tabGet {} s.mmus t
def State.setMmu (s : State) (t : Nat) (x : Mmu) : State := { s with mmus := tabPut {} s.mmus t x }

/-- Fault record i of a tenant's MMU page (11 FLTi). -/
def fltReg (t i : Nat) : Nat := mmuPage t + 0x100 + 16 * i
def State.fltValid (s : State) (t i : Nat) : Bool := s.regBit (fltReg t i) 0
def State.fltTa (s : State) (t i : Nat) : Nat := s.wide (fltReg t i) / 4096

/-- MMU_STATUS's count of records (11). -/
def State.showFlt (s : State) (t : Nat) : State :=
  s.putFld (mmuPage t + 0x58) 8 6 ((List.range 32).filter (fun i => s.fltValid t i)).length

/-- The record for a faulting page: one that holds it, else the first free one (11 R234). -/
def State.fltFor (s : State) (t ta : Nat) : Option (Nat × Bool) :=
  match (List.range 32).find? (fun i => s.fltValid t i && s.fltTa t i == ta / 4096 % 2 ^ 36) with
  | some i => some (i, true)
  | none => match (List.range 32).find? (fun i => !s.fltValid t i) with
    | some i => some (i, false)
    | none => none

/-- Halt a unit on a not-present page (11 R233, R234): a record taken or shared, PAGE_FAULT with the vector of its queue or ring
(11; 06 R111), the MMU page HALTED; without a free record FLT_OVERFLOW. `vec` is that vector. -/
def State.haltUnit (s : State) (t : Nat) (u : HUnit) (vec : Option Nat) : State :=
  let p := mmuPage t
  let m := s.mmu t
  match s.fltFor t u.ta with
  | none => (s.setMmu t { m with units := m.units ++ [{ u with slot := none }] }).putBit (p + 0x58) 1 true
  | some (i, shared) =>
    let a := fltReg t i
    let s1 := s.setMmu t { m with units := m.units ++ [{ u with slot := some i }] }
    let s2 := if shared then s1.putFld (a + 12) 24 8 (s1.regFld (a + 12) 24 8 + 1)
      else
        let v := u.ta / 4096 % 2 ^ 36 * 4096 + 1 + (if u.write then 2 else 0) + u.level * 4
        ((s1.setWide a v).setNat (a + 8) (u.kind + (u.site + s.pkg * 16) * 2 ^ 8 + (if u.kind ≤ 1 then u.site * 256 + u.unit else u.unit) % 65536 * 2 ^ 16)).setNat (a + 12)
          (u.sq % 65536 + u.queue * 2 ^ 16 + 2 ^ 24)
    let s3 := ((s2.showFlt t).halt p).evt p 0
    match vec with
    | some v => if s3.mainOk then s3.msix t v else s3
    | none => s3

/-- Free a fault record. -/
def State.freeFlt (s : State) (t i : Nat) : State :=
  let a := fltReg t i
  ((((s.setNat a 0).setNat (a + 4) 0).setNat (a + 8) 0).setNat (a + 12) 0).showFlt t

/-- The MMU page leaves HALTED when no record is pending (11 Control). -/
def State.mmuUnhalt (s : State) (t : Nat) : State :=
  if (List.range 32).all (fun i => !s.fltValid t i) then s.unhalt (mmuPage t) else s

/-- Drop the halted units for which `gone` holds, freeing records that no unit holds any more (11 R234, R245). -/
def State.dropUnits (s : State) (t : Nat) (gone : HUnit → Bool) : State :=
  let m := s.mmu t
  let keep := m.units.filter (fun u => !gone u)
  let s1 := s.setMmu t { m with units := keep }
  let s2 := (List.range 32).foldl (fun s i =>
    if s.fltValid t i then
      let n := (keep.filter (fun u => u.slot == some i)).length
      if n = 0 then s.freeFlt t i else s.putFld (fltReg t i + 12) 24 8 n
    else s) s1
  s2.mmuUnhalt t

end Sys2Proof.Machine
end

