-- ==== Sys2Proof/Machine/TakeOps.lean ====
section
/-!
DEFINITION. Machine/TakeOps.lean: slate containers (09 R182, R183), what a take or a stage's stripe is made of, its epoch
(09 R195; 10 R220, R221), its halt, its end and its record (06 R115 to R124; 09 R191 to R194; 11 R233).
-/
namespace Sys2Proof.Machine

def State.tq (s : State) (t q : Nat) : TQ := tabGet {} s.tqs (t * 8 + q)
def State.setTq (s : State) (t q : Nat) (x : TQ) : State := { s with tqs := tabPut {} s.tqs (t * 8 + q) x }
def State.core (s : State) (site c : Nat) : Core := tabGet {} s.cores (site * 256 + c)
def State.setCore (s : State) (site c : Nat) (x : Core) : State := { s with cores := tabPut {} s.cores (site * 256 + c) x }
def State.dq (s : State) (site c q : Nat) : DQ := tabGet {} s.dqs ((site * 256 + c) * 4 + q)
def State.setDq (s : State) (site c q : Nat) (x : DQ) : State := { s with dqs := tabPut {} s.dqs ((site * 256 + c) * 4 + q) x }
def State.cmb (s : State) (site b : Nat) : Cmb := tabGet {} s.cmbs (site * 4 + b)
def State.setCmb (s : State) (site b : Nat) (x : Cmb) : State := { s with cmbs := tabPut {} s.cmbs (site * 4 + b) x }
def State.eng (s : State) (site e : Nat) : Eng := tabGet {} s.engs (site * 8 + e)
def State.setEng (s : State) (site e : Nat) (x : Eng) : State := { s with engs := tabPut {} s.engs (site * 8 + e) x }
def State.tenant (s : State) (t : Nat) : Tenant := tabGet {} s.tenants t
def State.setTenant (s : State) (t : Nat) (x : Tenant) : State := { s with tenants := tabPut {} s.tenants t x }

def tqPage (t q : Nat) : Nat := pg 8 (0x100 + (8 * t + q) % 128)
def corePage (site c : Nat) : Nat := pg site (0x100 + c % 64)
def movePage (site : Nat) : Nat := pg site 9
def bndPage (site : Nat) : Nat := pg site 8
def cmbPage (site b : Nat) : Nat := pg site (0x50 + b % 16)
def engPage (site e : Nat) : Nat := pg site (0x60 + e % 16)

/-- Whether a site carries a compute die that is up, and whether its core, combine and engine clocks run (19 R397). -/
def State.dieUp (s : State) (site : Nat) : Bool := dieAt s.asm site == .compute && s.mainOk && s.siteUp site
def State.clocked (s : State) (site : Nat) : Bool := s.dieUp site && !s.regBit (pg site 0x0B + 0x94) 1

/-- Header fields of a container (09 R182). -/
def cCores (c : List Byte) : Nat := leAt c 0x12 2
def cArgs (c : List Byte) : Nat := leAt c 0x18 4
def cCs (c : List Byte) : Nat := leAt c 0x1C 4
def cBin (c : List Byte) : Nat := leAt c 0x20 4
def cCues (c : List Byte) : Nat := leAt c 0x24 1
def cRings (c : List Byte) : Nat := leAt c 0x25 1
def cFlags (c : List Byte) : Nat := leAt c 0x26 2
def cDmaOut (c : List Byte) (q : Nat) : Nat := leAt c (0x28 + q) 1
def cBw (c : List Byte) (i : Nat) : Nat := leAt c (0x2C + 4 * i) 4
def cEnergy (c : List Byte) : Nat := leAt c 0x38 4
def cDynMin (c : List Byte) (i : Nat) : Nat := leAt c (0x3C + 4 * i) 4
def cDynMax (c : List Byte) (i : Nat) : Nat := leAt c (0x4C + 4 * i) 4

/-- A directory entry: TYPE, UNIT, OFFSET, LENGTH. -/
structure DirEnt where
  ty : Nat := 0
  unit : Nat := 0
  off : Nat := 0
  len : Nat := 0
  deriving DecidableEq, Repr

def cSecs (c : List Byte) : List DirEnt :=
  (List.range (leAt c 0x10 2)).map (fun i => { ty := leAt c (0x80 + 16 * i) 2, unit := leAt c (0x82 + 16 * i) 2, off := leAt c (0x84 + 16 * i) 4, len := leAt c (0x88 + 16 * i) 4 })

/-- The sections of a type, and the bytes of the first one that serves a unit. -/
def cSec (c : List Byte) (ty unit : Nat) : List Byte :=
  match (cSecs c).find? (fun x => x.ty == ty && x.unit == unit) with
  | some x => (c.drop x.off).take x.len
  | none => []

/-- Record `i` of 64 bytes of a section. -/
def rec64 (bs : List Byte) (i : Nat) : List Byte := (bs.drop (64 * i)).take 64

/-- The cycle table as (L_MAX, CYCLES), and the declared cycles of a take (09 R183). -/
def cycTable (c : List Byte) : List (Nat × Nat) :=
  match (cSecs c).find? (fun x => x.ty == 8) with
  | some x => (List.range (x.len / 8)).map (fun i => (leAt c (x.off + 8 * i) 4, leAt c (x.off + 8 * i + 4) 4))
  | none => []
def declaredCycles (c : List Byte) (dyn : List Nat) : Nat :=
  match (cycTable c).find? (fun e => decide (dyn.getD (leAt c 0x16 1) 0 ≤ e.1)) with
  | some e => e.2
  | none => 0

/-- STRIPE_H, HALO, CYC_STRIPE and BYTES_STRIPE of a stage (09 R182). -/
def stageDecl (c : List Byte) : Nat × Nat × Nat × Nat :=
  match (cSecs c).find? (fun x => x.ty == 9) with
  | some x => (leAt c x.off 2, leAt c (x.off + 2) 1, leAt c (x.off + 4) 4, leAt c (x.off + 8) 4)
  | none => (0, 0, 0, 0)

/-- BUFFER_DECL entry i: ARG_OFF and ACCESS. -/
def bufferDecl (c : List Byte) (i : Nat) : Option (Nat × Nat) :=
  match (cSecs c).find? (fun x => x.ty == 10) with
  | some x => if 8 * i + 8 ≤ x.len then some (leAt c (x.off + 8 * i) 4, leAt c (x.off + 8 * i + 4) 1) else none
  | none => none

/-- Groups of a slate, and the cores of one. -/
def cGroups (c : List Byte) : Nat := (cCores c + 63) / 64
def cGroupCores (c : List Byte) (g : Nat) : Nat := min 64 (cCores c - 64 * g)

/-- Powers in µW are kept as fractions: their sum, order, maximum, and their rounding up to 0.1 W. -/
def powAdd (a b : Nat × Nat) : Nat × Nat := (a.1 * b.2 + b.1 * a.2, a.2 * b.2)
def powLe (a b : Nat × Nat) : Bool := decide (a.1 * b.2 ≤ b.1 * a.2)
def powMax (a b : Nat × Nat) : Nat × Nat := if powLe a b then b else a
def deciWatts (a : Nat × Nat) : Nat := (a.1 + a.2 * 100000 - 1) / (a.2 * 100000)

/-- Power of a take by its declared cycles (19 R391), and of a stage at a line rate in mHz. -/
def takePower (c : List Byte) (cycles : Nat) : Nat × Nat := if cycles = 0 then (0, 1) else (cEnergy c * 1600000000, cycles)
def stagePower (c : List Byte) (mhz : Nat) : Nat × Nat := let h := (stageDecl c).1; if h = 0 then (0, 1) else (cEnergy c * mhz, 1000 * h)

def State.findEntry (s : State) (t q n : Nat) : Option Entry := (s.tq t q).entries.find? (fun e => e.n == n)
def State.updEntry (s : State) (t q n : Nat) (f : Entry → Entry) : State :=
  let x := s.tq t q
  s.setTq t q { x with entries := x.entries.map (fun e => if e.n == n then f e else e) }

/-- What a work is made of. -/
def State.workSlate (s : State) : Work → Option Slate
  | .take t q n => match s.findEntry t q n with | some e => s.slate e.slate | none => none
  | .stage h => s.slate h
def State.workTenant (s : State) : Work → Nat
  | .take t _ _ => t
  | .stage h => match s.slate h with | some x => x.tenant | none => 0
def State.workCores (s : State) : Work → List (Nat × Nat × Nat)
  | .take t q n => match s.findEntry t q n with | some e => e.cores | none => []
  | .stage h => match s.slate h with | some x => x.cores | none => []
def State.workEpoch (s : State) : Work → Nat
  | .take t q n => match s.findEntry t q n with | some e => e.epoch | none => 0
  | .stage h => match s.slate h with | some x => x.epoch | none => 0
def State.workDyn (s : State) (i : Nat) : Work → Nat
  | .take t q n => match s.findEntry t q n with | some e => e.dyn.getD i 0 | none => 0
  | .stage _ => 0
/-- SQ_INDEX and QUEUE of a record (09 BND_REC; 11 FLT). -/
def State.workSq (s : State) : Work → Nat × Nat
  | .take t q n => (n % 2 ^ (s.regFld (tqPage t q + 0x50) 0 4), q)
  | .stage h => (match s.slate h with | some x => x.stripe % 65536 | none => 0, 0xFF)
def workVec : Work → Option Nat
  | .take _ q _ => some (16 + q)
  | .stage _ => none
/-- The dies a work uses. -/
def State.workDies (s : State) (w : Work) : List Nat := ((s.workCores w).map (fun c => c.2.1)).eraseDups

/-- Physical place of a slate-local core of a work. -/
def State.corePlace (s : State) (w : Work) (loc : Nat) : Option (Nat × Nat) :=
  ((s.workCores w).find? (fun c => c.1 == loc)).map (·.2)

/-- Allocate an epoch on a die (10 R220): every flag, handle and slot there that still carries the number is discarded first. -/
def State.allocEpoch (s : State) (site : Nat) : Nat × State :=
  let p := movePage site + 0x48
  let c := s.regFld p 0 10
  let e := (s.pkg * 4 + site) * 1024 + c
  let onDie (k m : Nat) : Bool := k / m == site
  let s1 : State := { s with
    binFlags := s.binFlags.filter (fun f => !(onDie f.1 65536 && f.2 / 65536 == e && f.2 != 0)),
    cueQs := s.cueQs.map (fun (x : Nat × List Nat) => if onDie x.1 4096 then (x.1, x.2.filter (fun h => handleEpoch h != e)) else x),
    cancels := s.cancels.map (fun (x : Nat × List Nat) => if x.1 == site then (x.1, x.2.filter (· != e)) else x) }
  let s2 := { s1 with cueQs := s1.cueQs.filter (fun x => !x.2.isEmpty), cancels := s1.cancels.filter (fun x => !x.2.isEmpty) }
  (e, (s2.discardSlots site e).setNat p ((c + 1) % 1024))

/-- A vision engine on a cancelled epoch's die abandons a unit that consumed it (12 R263): its writes are discarded, its stale
input slot is released, its carried rows are restored, and DISCARDED latches. -/
def State.abandonEngs (s : State) (site e : Nat) : State :=
  (List.range 6).foldl (fun s i =>
    let x := s.eng site i
    if x.busy = true ∧ x.used.contains e = true then
      let s1 := s.setEng site i { x with busy := false, rows := x.saved, next := x.savedNext, used := [], writes := [], sats := 0, cost := 0, pubs := false }
      let first : Nat × Nat := match s.slate x.handle with
        | some y => match y.cores.find? (fun (c : Nat × Nat × Nat) => c.1 == 64 * x.group) with | some c => c.2 | none => (site, 64)
        | none => (site, 64)
      let r := leAt x.job 4 4 % 8
      let s2 := if leAt x.job 3 1 / 4 % 2 = 1 ∧ leAt x.job 0 1 < 2 ∧ (s1.sring first.1 first.2 r).epochs.head? = some e then s1.release first.1 first.2 r else s1
      ((s2.putFld (engPage site i + 0x40) 5 3 0).evt (engPage site i) 1)
    else s) s

/-- Mark an epoch cancelled on dies (10 R220); a confidential work's share is not counted (10 R223). -/
def State.cancelOn (s : State) (conf : Bool) (e : Nat) (dies : List Nat) : State :=
  dies.foldl (fun s d =>
    let old := tabGet [] s.cancels d
    if old.contains e then s
    else
      let s1 := ({ s with cancels := tabPut [] s.cancels d (old ++ [e]) }).abandonEngs d e
      if conf then s1 else (s1.addSat (movePage d + 0x4C) 1).evt (movePage d) 2) s

/-- The registers a core shows (07 R154). -/
def State.showCore (s : State) (site c : Nat) : State :=
  let x := s.core site c
  let p := corePage site c
  match x.work with
  | none => ((s.setNat (p + 0x40) 0).setNat (p + 0x44) 0).setNat (p + 0x48) 0
  | some w =>
    let t := s.workTenant w
    let h := match s.workSlate w with | some y => y.handle | none => 0
    if s.conf t then ((s.setNat (p + 0x40) (t + 16)).setNat (p + 0x44) 0).setNat (p + 0x48) 0
    else ((s.setNat (p + 0x40) (t + (if x.phase = 3 then 0 else 32))).setNat (p + 0x44) (x.pc % 65536 + x.layer % 4096 * 65536)).setNat (p + 0x48) h

/-- Add to a profiling counter while RUN is 1 and the tenant is not confidential; 48 bits, saturating (07 R154). -/
def State.prof (s : State) (site phys i n : Nat) : State :=
  let p := corePage site phys
  let conf := match (s.core site phys).work with | some w => s.conf (s.workTenant w) | none => false
  if s.regBit (p + 0x50) 0 = true ∧ conf = false then s.setWide (p + 0x60 + 8 * i) (satNat (2 ^ 48 - 1) (s.wide (p + 0x60 + 8 * i) + n)) else s

/-- A core begins to wait for a slot ring, flag, cue, DMA queue or barrier, or at its END for the rest of its take (07 R153). -/
def State.coreWait (s : State) (site c : Nat) : State :=
  let x := s.core site c
  s.setCore site c { x with waitFrom := some (x.waitFrom.getD s.now) }

/-- The core cycles a core has waited so far are counted, at the clock it waited at (07 R153): busy, and in STALL_DATA but for a core
that has ended its list. `again` tells whether the wait goes on. -/
def State.coreGo (s : State) (site c : Nat) (again : Bool) : State :=
  let x := s.core site c
  match x.waitFrom with
  | none => s
  | some t =>
    let n := (s.now - t) * 5 * s.regFld (pg site 0x0B + 0x44) 0 12 / 1000
    let s1 := (s.setCore site c { x with waitFrom := if again then some s.now else none, cycles := x.cycles + n }).prof site c 0 n
    if x.phase = 3 then s1 else s1.prof site c 3 n

/-- The wait of a DMA queue on a bucket is counted in REG_WAIT, at the clock it waited at (10 R214), but for a confidential work (R223).
`again` tells whether the wait goes on. -/
def State.queueGo (s : State) (site c q : Nat) (again : Bool) : State :=
  let d := s.dq site c q
  match d.waitFrom with
  | none => s
  | some t =>
    let n := (s.now - t) * 5 * s.regFld (pg site 0x0B + 0x44) 0 12 / 1000
    let s1 := s.setDq site c q { d with waitFrom := if again then some s.now else none }
    if (match d.work with | some w => s.conf (s.workTenant w) | none => true) then s1 else s1.addSat (mvPage site c + 0x74) n

def bucketKey (y : Slate) (g k : Nat) : Nat := ((y.handle % 65536) * 64 + g) * 4 + k
/-- What of a bucket is spent now, in 1/320000 byte (10 R214). -/
def State.spent (s : State) (y : Slate) (g k : Nat) : Nat :=
  let b := tabGet (0, 0) s.buckets (bucketKey y g k)
  let f := s.regFld (pg (y.groups.getD g {}).site 0x0B + 0x44) 0 12
  b.1 - cBw y.cont k * f * (s.now - b.2)
/-- Spend tokens of a bucket. -/
def State.spend (s : State) (y : Slate) (g k n : Nat) : State :=
  { s with buckets := tabPut (0, 0) s.buckets (bucketKey y g k) (s.spent y g k + n * 320000, s.now) }
/-- The buckets of a die's groups are brought up to now at the die's clock. -/
def State.settleBuckets (s : State) (site : Nat) : State :=
  s.slates.foldl (fun s x => (List.range x.2.groups.length).foldl (fun s g =>
    if (x.2.groups.getD g {}).site = site then [0, 1, 2].foldl (fun s k => if (tabGet (0, 0) s.buckets (bucketKey x.2 g k)).1 = 0 then s else s.spend x.2 g k 0) s else s) s) s

/-- A die's core clock in MHz changes (19 R393); its cores' and queues' waits and its buckets so far are counted at the clock
before (07 R153; 10 R214). -/
def State.setMhz (s : State) (site mhz : Nat) : State :=
  let s1 := (List.range 64).foldl (fun s c => [0, 1, 2, 3].foldl (fun s q => s.queueGo site c q true) (s.coreGo site c true)) s
  (s1.settleBuckets site).putFld (pg site 0x0B + 0x44) 0 12 mhz

/-- A land of a tenant's transfers in flight: the bytes arrive and nothing else happens (10 R225). The memory controller takes none for
a granule that is no longer the tenant's (11 R229). -/
def State.landFlights (s : State) (t : Nat) (fs : List Xfer) : State :=
  fs.foldl (fun s x => let s1 := if x.host then s.hmemPut x.addr x.data else if s.ownsAt t x.sp x.addr then s.ramWrite x.sp x.addr x.data else s
    x.more.foldl (fun s m => s.ramWrite m.1 m.2 x.data) s1) s

/-- Transfers in flight of a die (10 INFLIGHT). -/
def State.inflight (s : State) (site : Nat) : Nat :=
  s.dqs.foldl (fun n d => if d.1 / 1024 == site then d.2.flights.foldl (fun n f => n + f.heads) n else n) 0
/-- INFLIGHT and CAP_REACHED (10 R202); a confidential work's transfers are not counted in the register (R223). -/
def State.showInflight (s : State) (site : Nat) : State :=
  let open_ (d : DQ) : Bool := match d.work with | some w => !s.conf (s.workTenant w) | none => true
  let n := s.dqs.foldl (fun n d => if d.1 / 1024 == site && open_ d.2 then d.2.flights.foldl (fun n f => n + f.heads) n else n) 0
  let p := movePage site + 0x40
  ((s.putFld p 0 9 n).putFld p 16 9 (max n (s.regFld p 16 9))).evtIf (decide (256 ≤ s.inflight site)) (movePage site) 1
/-- DQq_STATUS of a core's mover page; 0 under a confidential tenant (10 R223). -/
def State.showDq (s : State) (site c q : Nat) : State :=
  let x := s.dq site c q
  let a := mvPage site c + 0x40 + 4 * q
  match x.work with
  | none => s.setNat a 0
  | some w =>
    if s.conf (s.workTenant w) then s.setNat a 0
    else
      let lim := match s.workSlate w with | some y => cDmaOut y.cont q | none => 0
      s.setNat a (x.flights.length % 128 + lim % 64 * 2 ^ 8 + (s.regFld a 14 1) * 2 ^ 14 + (if x.halted then 2 ^ 15 else 0) + x.descs.length % 32 * 2 ^ 16)

/-- A core stands at the first op of its list again, with nothing of an op under way (07 R156; 14 R293). -/
def State.restartCore (s : State) (w : Work) (c : Nat × Nat × Nat) : State :=
  let s := s.coreGo c.2.1 c.2.2 false
  (s.setCore c.2.1 c.2.2 { work := some w, loc := c.1, lastTenant := some (s.workTenant w), wregs := (s.core c.2.1 c.2.2).wregs }).showCore c.2.1 c.2.2

/-- Free a core of its work (07 R153, R156; 10 R225): CTRL.EN is cleared, its queues' transfers in flight land, nothing more is issued,
its rings are empty. An abandoned op's accumulators are discarded; what a finished list left stands until the next tenant's scrub
(R155). -/
def State.freeCore (s : State) (site c : Nat) : State :=
  let x := s.core site c
  let w := x.work
  let s1 := [0, 1, 2, 3].foldl (fun s q =>
    let d := s.dq site c q
    ((s.landFlights (match w with | some w => s.workTenant w | none => 0) d.flights).setDq site c q {}).showDq site c q) s
  let s2 := (List.range 8).foldl (fun s r => (s.setSring site c r {}).setNat (ringReg site c r) 0) s1
  let last := match w with | some w => some (s.workTenant w) | none => x.lastTenant
  let s3 := s2.setCore site c { lastTenant := last, accs := if x.phase = 3 then x.accs else ([], []), wregs := x.wregs }
  let s4 := (if s3.st (corePage site c) = 5 then s3 else s3.setSt (corePage site c) 0).putBit (corePage site c + 8) 0 false
  (s4.showCore site c).showInflight site

/-- CMB_STATUS (08 R176): TENANT and CONF alone while the unit holds a node of a confidential tenant. -/
def State.showCmb (s : State) (site b : Nat) : State :=
  let x := s.cmb site b
  let p := cmbPage site b
  match x.nodes.find? (fun n => s.conf (s.workTenant n.work)), x.nodes with
  | some n, _ => s.setNat (p + 0x40) (s.workTenant n.work + 16)
  | none, [] => s.setNat (p + 0x40) 0
  | none, n :: _ => s.setNat (p + 0x40) (s.workTenant n.work + 32 + x.nodes.length % 64 * 256)

/-- Combine units keep only the nodes that a test selects; a unit left with none is OFF (08 Control, R176). -/
def State.keepNodes (s : State) (keep : Node → Bool) : State :=
  (List.range 16).foldl (fun s i =>
    let x := s.cmb (i / 4) (i % 4)
    let p := cmbPage (i / 4) (i % 4)
    let left := x.nodes.filter keep
    if left.length = x.nodes.length then s
    else
      let s1 := s.setCmb (i / 4) (i % 4) { x with nodes := left }
      (if left.isEmpty ∧ s1.st p = 2 then s1.setSt p 0 else s1).showCmb (i / 4) (i % 4)) s

/-- Combine units drop a work's nodes (08 R175). -/
def State.dropNodes (s : State) (w : Work) : State := s.keepNodes (fun n => n.work != w)

/-- FENCE entries complete once every earlier entry has (06 R115). -/
def fenceFrom : Bool → List Entry → List Entry
  | _, [] => []
  | ok, e :: es =>
    let e2 := if e.op = 2 ∧ e.st = 0 ∧ ok = true then { e with st := 3 } else e
    e2 :: fenceFrom (ok && e2.st == 3) es
def State.fences (s : State) (t q : Nat) : State := let x := s.tq t q; s.setTq t q { x with entries := fenceFrom true x.entries }

/-- The take-queue page shows a halted take while any entry is halted (06 R124, R139; 11 R233, R235). A STOPPING page goes on
STOPPING (03 R54). -/
def State.showHalt (s : State) (t q : Nat) : State :=
  let p := tqPage t q
  if (s.tq t q).entries.any (fun e => e.st == 2) then (s.halt p).putBit (p + 0x68) 1 true
  else (s.unhalt p).putBit (p + 0x68) 1 false

/-- Show the head passed over (19 Control). -/
def State.showPass (s : State) : State :=
  match s.sched.passed with
  | none => ((s.setNat (pg 8 7 + 0x60) 0).putBit (pg 8 7 + 0x5C) 2 false).putFld (pg 8 7 + 0x5C) 4 7 0
  | some (t, q, _, n) =>
    let lock := decide (8 ≤ n)
    let s1 := (s.setNat (pg 8 7 + 0x60) (min n 8)).putFld (pg 8 7 + 0x5C) 4 7 (t + q * 16)
    (s1.putBit (pg 8 7 + 0x5C) 2 lock).evtIf (lock && !s.regBit (pg 8 7 + 0x5C) 2) (pg 8 7) 6

/-- A head passed over that no longer waits, because it was aborted or ended, holds nothing back (06 R122, R123). -/
def State.dropPass (s : State) : State :=
  match s.sched.passed with
  | none => s
  | some (t, q, n, _) =>
    if (s.tq t q).entries.any (fun e => e.n == n && e.st == 0) then s
    else { s with sched := { s.sched with passed := none } }.showPass

/-- Core cycles summed over the cores of an entry (06 R119). -/
def State.entryCycles (s : State) (e : Entry) : Nat := satNat 0xFFFFFFFF (e.cores.foldl (fun n c => n + (s.core c.2.1 c.2.2).cycles) 0)

/-- A take ends with a status (06 R118, R119, R123, R124): its cores, nodes and halted units are freed and its record is ready. -/
def State.endTake (s : State) (t q n status : Nat) (detail : Option Nat) : State :=
  match s.findEntry t q n with
  | none => s
  | some e =>
    let w := Work.take t q n
    let s := e.cores.foldl (fun s c => s.coreGo c.2.1 c.2.2 false) s
    let s1 := if status = 0 ∨ e.st = 0 then s else s.cancelOn (s.conf t) e.epoch (s.workDies w)
    let s2 := e.cores.foldl (fun s c => s.freeCore c.2.1 c.2.2) (s1.dropNodes w)
    let s3 := s2.dropUnits t (fun u => u.work == some w)
    let late := e.flags / 2 % 2 == 1 && decide (e.deadline < s.us)
    let s4 := s3.updEntry t q n (fun e => { e with st := 3, status := status, detail := detail, cores := [], late := late && status == 0, cycles := s.entryCycles e })
    ((s4.fences t q).showHalt t q).dropPass

/-- A stage faults (07 R156; 08 R175; 09 R192; 12 R267): its stripe's epoch is cancelled, its cores abandon their op, partials and
accumulators, its engines stop, STAGE_FAULT. -/
def State.faultStage (s : State) (h : Nat) : State :=
  match s.slate h with
  | none => s
  | some x =>
    let w := Work.stage h
    let s1 := s.cancelOn (s.conf x.tenant) x.epoch (s.workDies w)
    let s2 := (s1.dropNodes w).dropUnits x.tenant (fun u => u.work == some w)
    let s3 := x.cores.foldl (fun s c =>
      let s1 := [0, 1, 2, 3].foldl (fun s q => let d := s.dq c.2.1 c.2.2 q
        ((s.landFlights x.tenant d.flights).setDq c.2.1 c.2.2 q { d with descs := [], flights := [], halted := false }).showDq c.2.1 c.2.2 q) s
      s1.restartCore w c) s2
    let s4 := s3.setSlate { x with faulted := true, running := false, halted := false }
    let site := streamSite s.asm x.stream
    let k := x.stream % 16
    ((s4.setNat (pipePage site k + 0x60) 0).evt (pipePage site k) 4).showPipe site k

/-- A contained error of a work (11 R241): a take ends FAULTED_CONTAINED with DETAIL the code; a stage faults. -/
def State.contained (s : State) (w : Work) (code : Nat) : State :=
  match w with
  | .take t q n => s.endTake t q n 0x0202 (some code)
  | .stage h => s.faultStage h

/-- Poison consumed for a work (11 R239): counted, recorded, a contained error. -/
def State.eatPoison (s : State) (site : Nat) (w : Work) (sp a : Nat) : State :=
  let r := s.poisonSite site sp a
  (s.consumePoison site r.1 r.2).contained w r.2

/-- Number a work for the record of its first offence. -/
def workKey : Work → Nat × Nat × Nat
  | .take t q n => (t, q, n)
  | .stage h => (16, 0, h)

/-- A work starts with no offence of its own recorded (09 R193). -/
def State.freshBnd (s : State) (w : Work) : State := { s with bndTaken := s.bndTaken.filter (· != workKey w) }

/-- A bound fault (09 R191 to R194): the first offending access of a work is recorded, others only count; the work ends. How many of
its other cores offend before they abandon their work, in the same cycle or within the 64 that R156 allows, is a free value (log 74).
The record names a core by its physical number, die × 64 + core, and a DMA queue by physical core × 4 + queue (00 Numbering; 11). -/
def State.boundFault (s : State) (site kind unit unitNo : Nat) (w : Work) (op addr limit : Nat) : State :=
  let p := bndPage site
  let t := s.workTenant w
  let conf := s.conf t
  let h := match s.workSlate w with | some y => y.handle | none => 0
  let next := s.regFld (p + 0x40) 0 6
  if s.bndTaken.contains (workKey w) then s.putFld (p + 0x40) 16 16 (satNat 65535 (s.regFld (p + 0x40) 16 16 + 1))
  else
    let a := p + 0x100 + 32 * next
    let sq := s.workSq w
    let z (x : Nat) : Nat := if conf then 0 else x
    let words := [kind + z (unit * 2 ^ 8 + (if unit = 0 then site * 64 + unitNo else if unit = 1 then site * 256 + unitNo else unitNo) % 65536 * 2 ^ 16), t + (if conf then 256 else 0) + z (op % 65536 * 2 ^ 16), h,
      z (sq.1 % 65536 + sq.2 * 2 ^ 16), z (addr % 2 ^ 32), z (addr / 2 ^ 32 % 2 ^ 32), z limit, z (s.us % 2 ^ 32)]
    let s1 := (List.range 8).foldl (fun s i => s.setNat (a + 4 * i) (words.getD i 0)) s
    let s2 := (s1.putFld (p + 0x40) 0 6 (next + 1)).putFld (p + 0x40) 8 7 (min 64 (s.regFld (p + 0x40) 8 7 + 1))
    let others := (Config.freeWord s.free).toNat % max 1 (s.workCores w).length
    let s3 := ({ s2 with bndTaken := s2.bndTaken ++ [workKey w], free := s2.free + 1 }.putFld (p + 0x40) 16 16 (satNat 65535 (s2.regFld (p + 0x40) 16 16 + others))).evt p 0
    match w with
    | .take t q n => s3.endTake t q n 0x0201 (some (next + site * 2 ^ 8 + s.pkg * 2 ^ 12))
    | .stage h => s3.faultStage h

/-- Halt a work at one of its units (11 R233): the take or stage and its cores are HALTED. -/
def State.haltWork (s : State) (w : Work) : State :=
  let s1 := (s.workCores w).foldl (fun s c => if s.st (corePage c.2.1 c.2.2) = 2 then s.setSt (corePage c.2.1 c.2.2) 4 else s) s
  match w with
  | .take t q n => (s1.updEntry t q n (fun e => { e with st := 2 })).showHalt t q
  | .stage h => match s1.slate h with | some x => s1.setSlate { x with halted := true } | none => s1

/-- A work leaves HALTED when none of its units remains halted (11 R235). -/
def State.unhaltWork (s : State) (w : Work) : State :=
  if (s.mmu (s.workTenant w)).units.any (fun u => u.work == some w) then s
  else
    let s1 := (s.workCores w).foldl (fun s c => if s.st (corePage c.2.1 c.2.2) = 4 then s.setSt (corePage c.2.1 c.2.2) 2 else s) s
    match w with
    | .take t q n => (s1.updEntry t q n (fun e => if e.st = 2 then { e with st := 1 } else e)).showHalt t q
    | .stage h => match s1.slate h with | some x => s1.setSlate { x with halted := false } | none => s1

/-- A transfer or unit meets a page that does not translate (11 R231, R233): not present halts it, a broken check is a
contained error of its work. -/
def State.pageStop (s : State) (w : Work) (kind site unit ta : Nat) (write : Bool) : Walk → State
  | .absent lvl =>
    let sq := s.workSq w
    (s.haltUnit (s.workTenant w) { kind := kind, site := site, unit := unit, ta := ta, write := write, level := lvl, sq := sq.1, queue := sq.2, work := some w } (workVec w)).haltWork w
  | .bad code => s.contained w code
  | _ => s

/-- Slates of a tenant (20 R416; 11 MMU_BUSY). -/
def State.hasSlates (s : State) (t : Nat) : Bool := s.slates.any (fun x => x.2.tenant == t)

/-- Release every resource of a slate (09 R198): a stage's cores and engines, and its handle. -/
def State.dropSlate (s : State) (h : Nat) : State :=
  match s.slate h with
  | none => s
  | some x =>
    let w := Work.stage h
    let s0 := if x.kind = 2 then (s.dropNodes w).dropUnits x.tenant (fun u => u.work == some w) else s
    let s1 := x.cores.foldl (fun s c => s.freeCore c.2.1 c.2.2) s0
    let s2 := x.engs.foldl (fun s e =>
      let y := s.eng e.1 e.2
      let s := s.setEng e.1 e.2 { lastTenant := some x.tenant, unit := 0, job := [], handle := 0, rows := [], group := 0, next := y.next.filter (fun _ => false) }
      let p := engPage e.1 e.2
      ((if s.st p = 5 then s else s.setSt p 0).setNat (p + 0x40) 0).setNat (p + 0x44) 0) s1
    let s3 := x.groups.foldl (fun s g => { s with
      cueQs := s.cueQs.filter (fun c => !(decide (g.site * 4096 + g.cue ≤ c.1) && decide (c.1 < g.site * 4096 + g.cue + cCues x.cont))),
      binFlags := s.binFlags.filter (fun c => !(decide (g.site * 65536 + g.flag ≤ c.1) && decide (c.1 < g.site * 65536 + g.flag + cFlags x.cont))) }) s2
    { s3 with slates := tabDrop (h % 65536) s3.slates, bndTaken := s3.bndTaken.filter (· != workKey w) }

/-- Floors, runs and powers that the gaffer reads (19 R389, R391, R394, R398). -/
def State.dieFloor (s : State) (site : Nat) : Nat :=
  s.slates.foldl (fun m x => if x.2.kind = 2 ∧ x.2.state ≠ 3 ∧ x.2.groups.any (fun g => g.site == site) = true then max m x.2.floor else m) 0
def State.dieTake (s : State) (site : Nat) : Bool :=
  s.cores.any (fun c => c.1 / 256 == site && (match c.2.work with | some (.take _ _ _) => true | _ => false))
def State.gateStages (s : State) (site g : Nat) : List (Nat × Nat × Nat) :=
  s.slates.flatMap (fun x => if x.2.kind = 2 ∧ x.2.state ≠ 3 ∧ streamSite s.asm x.2.stream = site ∧ x.2.stream % 16 / 2 = g then
    x.2.groups.map (fun a => (a.site, x.2.rmax, x.2.floor)) else [])
/-- COMMIT_W in µW: stages at their streams' present rate, and the takes that run (19 R391). -/
def State.commitUw (s : State) : Nat × Nat :=
  let st := s.slates.foldl (fun n x => if x.2.kind = 2 ∧ x.2.state ≠ 3 then
    powAdd n (stagePower x.2.cont (s.reg (strPage (streamSite s.asm x.2.stream) (x.2.stream % 16) + 0xB0)).toNat) else n) (0, 1)
  s.tqs.foldl (fun n x => x.2.entries.foldl (fun n e => if e.st = 1 ∨ e.st = 2 then
    (match s.slate e.slate with | some y => powAdd n (takePower y.cont (declaredCycles y.cont e.dyn)) | none => n) else n) n) st
def State.commitW (s : State) : Nat := deciWatts s.commitUw
/-- STREAM_W and TAKE_W in µW, and their registers in 0.1 W (19 R389). -/
def State.streamUw (s : State) : Nat × Nat := s.slates.foldl (fun n x => if x.2.kind = 2 then powAdd n x.2.power else n) (0, 1)
def State.takeUw (s : State) : Nat × Nat := s.slates.foldl (fun n x => if x.2.kind = 1 then powMax n x.2.power else n) (0, 1)
def State.showPower (s : State) : State :=
  ((s.setNat (pg 8 7 + 0x54) (satNat 65535 (deciWatts s.streamUw))).setNat (pg 8 7 + 0x68) (satNat 65535 (deciWatts s.takeUw))).setNat (pg 8 7 + 0x58) (satNat 65535 s.commitW)

/-- The last regulator acknowledge of a compute site (19 R393). -/
def State.avsAt (s : State) (site : Nat) : Option Nat := match tabGet 0 s.avs site with | 0 => none | n + 1 => some n
def State.setAvsAt (s : State) (site at_ : Nat) : State := { s with avs := tabPut 0 s.avs site (at_ + 1) }

/-- End every take of a tenant without records (06 R138; 20 R418). -/
def State.endTakes (s : State) (t : Nat) : State :=
  (List.range 8).foldl (fun s q =>
    let s1 := (s.tq t q).entries.foldl (fun s e => if e.st = 1 ∨ e.st = 2 then s.endTake t q e.n 0x0301 none else s) s
    ((s1.setTq t q { s1.tq t q with entries := [] }).showHalt t q).dropPass) s

/-- Unload every slate of a tenant (06 R138). -/
def State.unloadTenant (s : State) (t : Nat) : State :=
  (s.slates.foldl (fun s x => if x.2.tenant = t then s.dropSlate x.2.handle else s) s).showPower

/-- Zero a tenant's granules, and what it last ran on (20 R416, R418). -/
def State.zeroGranules (s : State) (t : Nat) : State :=
  s.grans.foldl (fun s g => if g.2 = t + 1 then s.ramZero spStack (g.1 * 2 ^ 21) (2 ^ 21) else s) s
def State.zeroUnits (s : State) (t : Nat) : State :=
  let s1 := s.cores.foldl (fun s c => if c.2.lastTenant = some t then (s.scrub (spCore (c.1 / 256) (c.1 % 256))).setCore (c.1 / 256) (c.1 % 256) { c.2 with lastTenant := none, accs := ([], []), wregs := ([], []) } else s) s
  let s2 := s1.cmbs.foldl (fun s c => if c.2.lastTenant = some t then s.setCmb (c.1 / 4) (c.1 % 4) { c.2 with lastTenant := none } else s) s1
  s2.engs.foldl (fun s e => if e.2.lastTenant = some t then (s.scrub (spLine (e.1 / 8) (e.1 % 8))).setEng (e.1 / 8) (e.1 % 8) { e.2 with lastTenant := none } else s) s2

end Sys2Proof.Machine
end

