-- ==== Sys2Proof/Machine/TileOps.lean ====
section
/-!
DEFINITION. Machine/TileOps.lean: op records, tile plans and combine trees of a slate (07 R147; 08 R164 to R167).
-/
namespace Sys2Proof.Machine

/-- Ceiling division. -/
def cdiv (a b : Nat) : Nat := if b = 0 then 0 else (a + b - 1) / b

/-- An op record's fields (07 R147). -/
structure Op where
  code : Nat := 0
  sub : Nat := 0
  fa : Nat := 0
  fw : Nat := 0
  fo : Nat := 0
  loop : Nat := 0
  bias : Bool := false
  satFin : Bool := false
  dyn : Bool := false
  dynIdx : Nat := 0
  dynDim : Nat := 0
  perCh : Bool := false
  layerOut : Bool := false
  resv : Bool := false
  mt : Nat := 0
  m : Nat := 0
  n : Nat := 0
  k : Nat := 0
  a : Nat := 0
  w : Nat := 0
  out : Nat := 0
  param : Nat := 0
  sa : Nat := 0
  so : Nat := 0
  geom : List Nat := []
  shift : Nat := 0
  zp : Nat := 0
  mult : Nat := 0
  bound : Nat := 0
  deriving DecidableEq, Repr

def decodeOp (b : List Byte) : Op :=
  let fmt := leAt b 2 2
  let fl := leAt b 4 2
  { code := leAt b 0 1, sub := leAt b 1 1, fa := fmt % 16, fw := fmt / 16 % 16, fo := fmt / 256 % 16, loop := fmt / 4096 % 8,
    bias := fl % 2 == 1, satFin := fl / 2 % 2 == 1, dyn := fl / 4 % 2 == 1, dynIdx := fl / 8 % 4, dynDim := fl / 32 % 4,
    perCh := fl / 128 % 2 == 1, layerOut := fl / 256 % 2 == 1, resv := fmt / 2 ^ 15 != 0 || fl / 512 != 0 || leAt b 0x36 2 != 0,
    mt := leAt b 6 2, m := leAt b 8 4, n := leAt b 12 4, k := leAt b 16 4,
    a := leAt b 0x14 4, w := leAt b 0x18 4, out := leAt b 0x1C 4, param := leAt b 0x20 4,
    sa := leAt b 0x24 4, so := leAt b 0x28 4, geom := (List.range 8).map (fun i => leAt b (0x2C + i) 1),
    shift := leAt b 0x34 1 % 32, zp := leAt b 0x35 1, mult := leAt b 0x38 4, bound := leAt b 0x3C 4 }

/-- Op `i` of a core's list (07 R147; 09 R182). -/
def opAt (c : List Byte) (loc i : Nat) : Op := decodeOp (rec64 (cSec c 1 loc) i)
def opCount (c : List Byte) (loc : Nat) : Nat := (cSec c 1 loc).length / 64

/-- DMA descriptor record `i` of a core's section (10 R204). -/
def descAt (c : List Byte) (loc i : Nat) : List Byte := rec64 (cSec c 4 loc) i
def descCount (c : List Byte) (loc : Nat) : Nat := (cSec c 4 loc).length / 64

/-- The tile plans of a slate (08 Tile-plan record). -/
def tilePlans (c : List Byte) : List (List Byte) :=
  (cSecs c).flatMap (fun x => if x.ty = 2 then (List.range (x.len / 64)).map (fun i => (c.drop (x.off + 64 * i)).take 64) else [])
def planSplit (p : List Byte) : Nat × Nat × Nat := (leAt p 0x1C 2, leAt p 0x1E 2, leAt p 0x20 2)
def planTree (p : List Byte) : Nat := leAt p 0x24 4
def planCores (c : List Byte) (p : List Byte) : List Nat :=
  let sp := planSplit p
  (List.range (min 4096 (sp.1 * sp.2.1 * sp.2.2))).map (fun i => leAt c (leAt p 0x30 4 + 2 * i) 2)

/-- Dimension i of a plan: 0-2 M2, N2, K2; 3-5 M1, N1, K1. -/
def planDim (p : List Byte) (i : Nat) : Nat := leAt p (4 + 4 * i) 4
/-- The plan of a core's layer. -/
def planOf (c : List Byte) (layer loc : Nat) : Option (List Byte) := (tilePlans c).find? (fun p => leAt p 0 2 == layer && (planCores c p).contains loc)
/-- A core's place in a plan's split along M, N and K: K fastest, then N, then M (08 Tile-plan record). -/
def splitIndex (c p : List Byte) (loc d : Nat) : Nat :=
  let i := (planCores c p).idxOf loc
  let sp := planSplit p
  if d = 0 then i / (sp.2.1 * sp.2.2) else if d = 1 then i / sp.2.2 % sp.2.1 else i % sp.2.2
/-- The loops of a loop-order code from outer to inner: 0 M, 1 N, 2 K (08 R161). -/
def loopOrder (code : Nat) : List Nat := [[0, 1, 2], [0, 2, 1], [1, 0, 2], [1, 2, 0], [2, 0, 1], [2, 1, 0]].getD code []

/-- An array op (07 R149). -/
def isArray (o : Op) : Bool := decide (1 ≤ o.code) && decide (o.code ≤ 3)
def Op.dim (o : Op) (d : Nat) : Nat := if d = 0 then o.m else if d = 1 then o.n else o.k
/-- The layer that follows a layer: a barrier ends one, and a list that walks its layers again, patch by patch, begins with the first
again (07 R151; 09 LAYERS and the worked example; log 74). -/
def nextLayer (c : List Byte) (l : Nat) : Nat := (l + 1) % max 1 (leAt c 0x14 2)

/-- Ops of a core with their indices and layers. -/
def layered (c : List Byte) (loc : Nat) : List (Nat × Nat × Op) :=
  ((List.range (opCount c loc)).foldl (fun (a : Nat × List (Nat × Nat × Op)) i =>
    let o := opAt c loc i
    (if o.code = 0x20 then nextLayer c a.1 else a.1, a.2 ++ [(i, a.1, o)])) (0, [])).2

/-- The array ops of a core's layer with their indices. -/
def layerOps (c : List Byte) (loc layer : Nat) : List (Nat × Op) :=
  (layered c loc).filterMap (fun x => if x.2.1 = layer ∧ isArray x.2.2 = true then some (x.1, x.2.2) else none)

/-- Where an op's share of a dimension begins in its layer (08 R164, R171, R173; log 73): the shares of the cores before it in the split,
and the T1 tiles before it in the walk of LOOP1. A fold's M counts within each problem (R171). -/
def opOffset (c : List Byte) (loc layer pc : Nat) (o : Op) (d : Nat) : Nat :=
  match planOf c layer loc with
  | none => 0
  | some p =>
    if d = 0 ∧ o.code ≠ 3 ∧ 1 < o.sub % 128 then 0
    else
      let ops := layerOps c loc layer
      let cnt (x : Nat) : Nat := cdiv (planDim p x) (planDim p (x + 3))
      let j := (ops.map (fun x => x.1)).idxOf pc
      let ord := loopOrder (leAt p 3 1 % 8)
      let inner := (ord.drop (ord.idxOf d + 1)).foldl (fun n x => n * cnt x) 1
      let tile := if ops.length = cnt 0 * cnt 1 * cnt 2 then j / max 1 inner % max 1 (cnt d) else 0
      let share := if leAt p 0x22 1 = 1 then planDim p d else ((layerOps c ((planCores c p).headD 0) layer).map (fun x => x.2.dim d)).headD 0
      splitIndex c p loc d * share + tile * planDim p (d + 3)

/-- The K-split plan of a layer. -/
def treeOf (c : List Byte) (layer : Nat) : Option Nat :=
  match (tilePlans c).find? (fun p => leAt p 0 2 == layer && decide (1 < (planSplit p).2.2)) with
  | some p => some (planTree p)
  | none => none

/-- A K-split layer has one tree for each M × N block of its split, at rising offsets from TREE_OFF; node `i` of block `b` is
numbered 64 b + i (08 R164, R165; log 48). -/
def treeHead (c : List Byte) (off i : Nat) : Nat := off + i / 64 * (16 + 8 * leAt c off 1)

/-- Node `i` of the trees at an offset: LEFT and RIGHT, each a node (true) or a leaf (08 Combine-tree record). -/
def nodeOps (c : List Byte) (off i : Nat) : (Bool × Nat) × (Bool × Nat) :=
  let r (x : Nat) : Bool × Nat := if x / 2 ^ 15 = 1 then (true, i / 64 * 64 + x % 64) else (false, x % 4096)
  let a := treeHead c off i + 16 + 8 * (i % 64)
  (r (leAt c a 2), r (leAt c (a + 2) 2))
def nodeCount (c : List Byte) (off : Nat) : Nat := leAt c off 1
/-- Numbers of every node of the trees at an offset. -/
def nodeNums (c : List Byte) (off : Nat) : List Nat :=
  let blocks := match (tilePlans c).find? (fun p => planTree p == off && decide (1 < (planSplit p).2.2)) with
    | some p => (planSplit p).1 * (planSplit p).2.1
    | none => 1
  (List.range blocks).flatMap (fun b => (List.range (nodeCount c off)).map (fun i => 64 * b + i))

/-- The leftmost leaf of a node's subtree (08 R167). -/
def leftLeaf (c : List Byte) (off : Nat) : Nat → Nat → Nat
  | 0, i => i
  | f + 1, i => match (nodeOps c off i).1 with
    | (true, j) => leftLeaf c off f j
    | (false, l) => l

/-- The parent of a leaf or node: (node, right). -/
def parentOf (c : List Byte) (off : Nat) (isNode : Bool) (x : Nat) : Option (Nat × Bool) :=
  match (nodeNums c off).find? (fun i => (nodeOps c off i).1 == (isNode, x) || (nodeOps c off i).2 == (isNode, x)) with
  | some i => some (i, !((nodeOps c off i).1 == (isNode, x)))
  | none => none

/-- Node `idx` of a work's layer in a combine unit. -/
def Cmb.node (x : Cmb) (w : Work) (layer idx : Nat) : Option Node :=
  x.nodes.find? (fun n => n.work == w && n.layer == layer && n.idx == idx)

/-- The value of a tile in a list of rows by tile. -/
def tileOf (l : List (Nat × List Word)) (tile : Nat) : Option (List Word) :=
  match l.find? (fun p => p.1 == tile) with | some p => some p.2 | none => none

/-- Where a node of a work executes: site and bay (08 R167). -/
def State.nodePlace (s : State) (w : Work) (c : List Byte) (off i : Nat) : Nat × Nat :=
  match s.corePlace w (leftLeaf c off 64 i) with
  | some (site, phys) => (site, phys / 16)
  | none => (0, 0)

/-- The root of the tree that a core of a layer is a leaf of: the trees' offset and the node's number (08 R164, R165; log 48). -/
def rootOf (c : List Byte) (layer loc : Nat) : Option (Nat × Nat) :=
  match (tilePlans c).find? (fun p => leAt p 0 2 == layer && decide (1 < (planSplit p).2.2) && (planCores c p).contains loc) with
  | some p => some (planTree p, (planCores c p).idxOf loc / (planSplit p).2.2 * 64 + (nodeCount c (planTree p) - 1))
  | none => none

/-- Whether the combine units have finished every partial sum of a core's layer that its ops have sent (07 R151). -/
def State.sumsDone (s : State) (w : Work) (c : List Byte) (x : Core) : Bool :=
  x.partials.length == x.sent.length &&
    (match rootOf c x.layer x.loc with
     | none => true
     | some (off, i) =>
       let pl := s.nodePlace w c off i
       match (s.cmb pl.1 pl.2).node w x.layer i with
       | none => true
       | some n => x.partials.all (fun p => (tileOf n.outs p.1).isSome))

/-- Put the nodes of every tree of a slate into their combine units for a work (08 R167, R176). -/
def State.installTrees (s : State) (w : Work) (c : List Byte) : State :=
  (tilePlans c).foldl (fun s p =>
    if (planSplit p).2.2 ≤ 1 then s
    else
      let off := planTree p
      (nodeNums c off).foldl (fun s i =>
        let pl := s.nodePlace w c off i
        let x := s.cmb pl.1 pl.2
        let s1 := s.setCmb pl.1 pl.2 { x with nodes := x.nodes ++ [{ work := w, layer := leAt p 0 2, idx := i }], lastTenant := some (s.workTenant w) }
        (s1.setSt (cmbPage pl.1 pl.2) 2).showCmb pl.1 pl.2) s) s

/-- Declare the slot rings of a core for a work from its RING records (10 Slot rings). -/
def State.declareRings (s : State) (site phys loc : Nat) (c : List Byte) (bin : Nat) : State :=
  (List.range (descCount c loc)).foldl (fun s i =>
    let d := descAt c loc i
    if leAt d 0 1 ≠ 3 then s
    else
      let r := leAt d 2 1 % 8
      let inBin := leAt d 3 1 == 1
      let x : SRing := { sp := if inBin then spBin site else spCore site phys, base := leAt d 4 8 + (if inBin then bin else 0), slotBytes := leAt d 0xC 4, prod := leAt d 0x11 1, cons := leAt d 0x12 1, period := leAt d 0x14 4 }
      (s.setSring site phys r x).setNat (ringReg site phys r) (leAt d 0x10 1 % 32 + (if inBin then 2 ^ 18 else 0))) s

/-- The profiling counters of a core are zeroed where CLR_ON_TAKE is set, at a take's or a stripe's start (07 R153, R154; 09 R177). -/
def State.clrOnTake (s : State) (w : Work) (site phys : Nat) : State :=
  if s.regBit (corePage site phys + 0x50) 2 = true ∧ s.conf (s.workTenant w) = false then (List.range 16).foldl (fun s i => s.setNat (corePage site phys + 0x60 + 4 * i) 0) s else s

/-- Give a core to a work (07 R153, R155): STARTING, with CTRL.EN. -/
def State.giveCore (s : State) (w : Work) (cont : List Byte) (bin : Nat) (pl : Nat × Nat × Nat) : State :=
  let site := pl.2.1
  let phys := pl.2.2
  let p := corePage site phys
  let x := s.core site phys
  let s1 := s.setCore site phys { work := some w, loc := pl.1, lastTenant := x.lastTenant, accs := x.accs, wregs := x.wregs }
  let s2 := [0, 1, 2, 3].foldl (fun s q => (s.setDq site phys q { work := some w }).showDq site phys q) s1
  let s3 := (s2.declareRings site phys pl.1 cont bin).setSt p 1
  (((s3.clrOnTake w site phys).putBit (p + 8) 0 true).evt p 0).showCore site phys

/-- A core's scrub is done (07 R153, R155): where the tenant changes, the core store, both accumulator buffers and both weight
registers are zeroed, in 2048 cycles of STARTING; it holds its work. -/
def State.coreReady (s : State) (site phys : Nat) : State :=
  let x := s.core site phys
  match x.work with
  | none => s
  | some w =>
    let t := s.workTenant w
    if x.lastTenant = some t then s.showCore site phys
    else
      (((s.scrub (spCore site phys)).setCore site phys { x with lastTenant := some t, accs := ([], []), wregs := ([], []), cycles := x.cycles + 2048 }).prof site phys 0 2048).showCore site phys

/-- Begin a stage's stripe again under a new epoch (09 R195; 10 R220). -/
def State.restripe (s : State) (h : Nat) : State :=
  match s.slate h with
  | none => s
  | some y =>
    let w := Work.stage h
    let s1 := (s.cancelOn (s.conf y.tenant) y.epoch (s.workDies w)).dropNodes w
    let ep := s1.allocEpoch (y.groups.headD {}).site
    let again (h : Nat) : Nat := if handleEpoch h = y.epoch then h / 2 ^ 64 * 2 ^ 64 + h % 2 ^ 48 + ep.1 * 2 ^ 48 else h
    let r0 := ep.2.setSlate { y with epoch := ep.1, took := [] }
    let r1 := y.took.reverse.foldl (fun (s : State) (t : Nat × Nat × Nat) => s.setCue t.1 t.2.1 (t.2.2 :: s.cue t.1 t.2.1)) r0
    let c0 := y.cueAt 0 0
    let r2 := r1.setCue c0.1 c0.2 ((r1.cue c0.1 c0.2).map again)
    let s2 : State := { r2 with slotRings := r2.slotRings.map (fun (p : Nat × SRing) => if y.cores.any (fun c => p.1 / 8 == c.2.1 * 256 + c.2.2) && p.2.prod == 2 then (p.1, { p.2 with epochs := p.2.epochs.map (fun e => if e = y.epoch then ep.1 else e) }) else p) }
    let s3 := y.cores.foldl (fun s c =>
      let s := [0, 1, 2, 3].foldl (fun s q => let d := s.dq c.2.1 c.2.2 q
        ((s.landFlights y.tenant d.flights).setDq c.2.1 c.2.2 q { work := some w, epoch := ep.1, serial := d.serial }).showDq c.2.1 c.2.2 q) s
      s.restartCore w c) s2
    s3.installTrees w y.cont

/-- Whether a stage has begun anything since it stood at its first op. -/
def State.begunAhead (s : State) (y : Slate) : Bool :=
  y.cores.any (fun c => let x := s.core c.2.1 c.2.2; x.pc != 0 || x.phase != 0 || (List.range 4).any (fun q => !(s.dq c.2.1 c.2.2 q).descs.isEmpty))

/-- Cancel what the stages of a stream's pipeline have run ahead of any stripe that they hold (09 R195; 14 R292; log 79): a stage that
holds none has popped no handle and has none waiting. A stage behind a FLAG link pops nothing by which to tell, and goes on. -/
def State.cancelAhead (s : State) (site k : Nat) : State :=
  match (tabGet {} s.strms (site * 16 + k)).pipe with
  | none => s
  | some b => b.stages.foldl (fun s st => match s.slate st.1 with
    | none => s
    | some y =>
      let q := y.cueAt 0 0
      let free := y.took.isEmpty && y.disp == 0 && (s.cue q.1 q.2).isEmpty && (match y.pre with | some p => !p.2 | none => true)
      if y.running = true ∧ y.faulted = false ∧ free = true ∧ s.begunAhead y = true then s.restripe y.handle else s) s

end Sys2Proof.Machine
end

