-- ==== Sys2Proof/Machine/Motion.lean ====
section
/-!
DEFINITION. Machine/Motion.lean: axis groups and their stops, limits, segments and the axis tick (15 R313 to R332; 16
R346). An axis assigned to no gate is group 8 + a (R485).
-/
namespace Sys2Proof.Machine

/-- The group of an axis: its gate, or 8 + a (15 R313, R485). -/
def State.grpOf (s : State) (site a : Nat) : Nat :=
  let v := s.regFld (dollyPage site + 0x40 + 4 * (a / 8)) (4 * (a % 8)) 4
  if v < 8 then v else 8 + a

/-- The axes of a group. -/
def State.groupAxes (s : State) (site g : Nat) : List Nat := (List.range 16).filter (fun a => s.grpOf site a == g)

/-- The leader of a gate's group (15 R313). -/
def State.leader (s : State) (site g : Nat) : Option Nat :=
  if g < 8 ∧ s.regBit (grpPage site g + 0x40) 4 = true then some (s.regFld (grpPage site g + 0x40) 0 4) else none

/-- SOURCE of an axis: 0 SEGMENT, 1 COARSE, 2 FOLLOWER. -/
def State.axSource (s : State) (site a : Nat) : Nat := s.regFld (axPage site a + 0x40) 4 2
/-- VMAX of an axis. -/
def State.vmax (s : State) (site a : Nat) : Int := s.regFld (axPage site a + 0x64) 0 31
/-- AX_POS: whole microsteps (15 R314). -/
def State.axisPos (s : State) (site a : Nat) : Int := (s.axis site a).phase / 2 ^ 32
/-- Whether an axis may move: RUNNING, PACED, or STOPPING with its group. -/
def State.axLive (s : State) (site a : Nat) : Bool := s.active (axPage site a) || s.st (axPage site a) == 3

/-- A stop is in progress or held (15 GRP_STATUS.HELD). -/
def State.groupHeld (s : State) (site g : Nat) : Bool := (s.grp site g).stopping || (s.grp site g).atRest
/-- AT_REST of a group. -/
def State.groupAtRest (s : State) (site g : Nat) : Bool := (s.grp site g).atRest
/-- Every axis of the group but its followers is still: their tension loops go on at rest (15 R321, R328). -/
def State.groupStill (s : State) (site g : Nat) : Bool :=
  (s.groupAxes site g).all (fun a => s.axSource site a == 2 || (s.axis site a).vel == 0)
/-- A group is at rest or its axes are all OFF (22 R455). -/
def State.groupQuiet (s : State) (site g : Nat) : Bool :=
  s.groupAtRest site g || (s.groupAxes site g).all (fun a => s.st (axPage site a) == 0)

/-- Write a group's record and, for a gate's group, GRP_STATUS. -/
def State.putGrp (s : State) (site g : Nat) (x : Grp) : State :=
  let s1 := s.setGrp site g x
  if g < 8 then
    s1.setNat (grpPage site g + 0x54) ((if x.stopping then 1 else 0) + x.cause * 2 + (if x.atRest then 16 else 0) + (if x.stopping || x.atRest then 32 else 0))
  else s1

/-- Abandon the segments of an axis: SEG_HEAD := SEG_TAIL (15 R328). -/
def State.abandon (s : State) (site a : Nat) : State :=
  (s.setNat (axPage site a + 0xA8) (s.regFld (axPage site a + 0xAC) 0 8)).setAxis site a { s.axis site a with run := false, dacc := 0 }

/-- Begin a group stop, or add a cause to one (15 R328, R330); no splice. -/
def State.stopCore (s : State) (site g cause : Nat) : State :=
  let x := s.grp site g
  if s.groupHeld site g then (if g < 8 then s.evt (grpPage site g) 3 else s)
  else
    let s1 := s.putGrp site g { x with stopping := true, atRest := false, cause := cause, stage := 0 }
    let s2 := (s1.groupAxes site g).foldl (fun s a => s.abandon site a) s1
    if g < 8 then s2.evt (grpPage site g) 0 else s2

/-- The leader's VEL (16 SPL_VEL), 0 without one. -/
def State.leaderVel (s : State) (site g : Nat) : Int :=
  match s.leader site g with
  | some a => (s.axis site a).vel
  | none => 0

/-- The splice point of a cause that names the last line triggered: F - 1 while a retake is under way (16 R341, R353). -/
def State.splicePoint (s : State) (site g : Nat) : Nat :=
  match (s.grp site g).retake with
  | some (f, _) => (2 ^ 48 + f - 1) % 2 ^ 48
  | none => s.lastTriggered site g

/-- Splice both streams of a gate at one line (16 R342); their stages' run-ahead is cancelled (14 R292). -/
def State.spliceGate (s : State) (site g cause line : Nat) : State :=
  let v := s.leaderVel site g
  [2 * g, 2 * g + 1].foldl (fun s k => if s.takesPart site k then (s.spliceOne site k cause line v).cancelAhead site k else s) s

/-- A further cause ends a retake (16 R353): the next restart is its next attempt, on the host's RESUME. -/
def State.endRetake (s : State) (site g : Nat) : State :=
  if g < 8 ∧ (s.grp site g).retake.isSome = true then s.putBit (pacePage site g + 0x64) 5 false else s

/-- A group stop with its splice (15 R328 to R330): 1 HOST, 2 LIMIT, 3 LOCK_LOST, 4 SUPPLY_LOSS, 5 AXIS_FAULT,
6 UNDERRUN, 7 SAFETY. -/
def State.groupStop (s : State) (site g cause : Nat) : State :=
  let line := s.splicePoint site g
  let s1 := (s.stopCore site g cause).endRetake site g
  if s.groupHeld site g = true ∨ cause = 4 ∨ 8 ≤ g then s1
  else s1.spliceGate site g (if cause = 3 then 3 else if cause = 1 ∨ cause = 6 then 6 else 7) line

/-- A splice declared by another cause than a group stop (16 R342): the streams splice and the group stops as HOST. -/
def State.declareSplice (s : State) (site g cause line : Nat) : State :=
  let s1 := s.spliceGate site g cause line
  if s1.groupHeld site g then s1 else s1.stopCore site g 1

/-- LIM_POS and LIM_NEG of an axis: the input that guards a direction, if any (15 R331). -/
def State.guardInput (s : State) (site a : Nat) (dir : Int) : Option Nat :=
  let p := axPage site a + 0x68
  if 0 < dir then (if s.regBit p 5 then some (s.regFld p 0 5) else none)
  else if dir < 0 then (if s.regBit p 13 then some (s.regFld p 8 5) else none)
  else none

/-- A direction guarded by an input not yet qualified is clamped; by one that is ASSERTED it stops (15 R331, R332). -/
def State.limUnknown (s : State) (site a : Nat) (dir : Int) : Bool :=
  match s.guardInput site a dir with
  | some i => !s.regBit (dollyPage site + 0x50) i
  | none => false
def State.limAsserted (s : State) (site a : Nat) (dir : Int) : Bool :=
  match s.guardInput site a dir with
  | some i => s.regBit (dollyPage site + 0x50) i && s.regBit (dollyPage site + 0x4C) i
  | none => false

/-- The limit bits of AX_STATUS. -/
def State.showLims (s : State) (site a : Nat) : State :=
  let p := axPage site a + 0x94
  let asserted (d : Int) : Bool := match s.guardInput site a d with
    | some i => s.regBit (dollyPage site + 0x4C) i
    | none => false
  (((s.putBit p 2 (s.limUnknown site a 1)).putBit p 3 (s.limUnknown site a (-1))).putBit p 4 (asserted 1)).putBit p 5 (asserted (-1))

/-- Segment c of an axis: duration, end position in 2^-32 microstep, end velocity, WAIT (15 Segment tables). -/
structure Seg where
  dur : Nat := 0
  pos : Int := 0
  vel : Int := 0
  wait : Bool := false
  deriving DecidableEq, Repr

def State.seg (s : State) (site a c : Nat) : Seg :=
  let b := axPage site a + 0x400 + 16 * (c % 64)
  let w2 := s.reg (b + 8)
  let p48 : Int := ((s.reg (b + 4)).toNat + fld w2 0 16 * 2 ^ 32 : Nat)
  { dur := (s.reg b).toNat, pos := wrapS48 p48 * 2 ^ 32, vel := (s.reg (b + 12)).toInt, wait := bitOf w2 16 }

/-- SEG_HEAD and SEG_TAIL. -/
def State.segHead (s : State) (site a : Nat) : Nat := s.regFld (axPage site a + 0xA8) 0 8
def State.segTail (s : State) (site a : Nat) : Nat := s.regFld (axPage site a + 0xAC) 0 8

/-- The Hermite curve at segment time n of D, both in 2^-16 tick, as a numerator over D³, in 2^-32 microstep (15 R317). -/
def hermiteNum (p0 v0 p1 v1 : Int) (t n d : Int) : Int :=
  (2 * n ^ 3 - 3 * n ^ 2 * d + d ^ 3) * p0 + (n ^ 3 - 2 * n ^ 2 * d + n * d ^ 2) * t * v0
    + (3 * n ^ 2 * d - 2 * n ^ 3) * p1 + (n ^ 3 - n ^ 2 * d) * t * v1

/-- The target position at segment time `tau`, rounded to 2^-32 microstep, ties to even; the end position past it. -/
def segAt (p0 v0 : Int) (g : Seg) (tau : Nat) : Int :=
  let d := 65536 * g.dur
  if d ≤ tau then g.pos else rneDiv (hermiteNum p0 v0 g.pos g.vel g.dur tau d) (d ^ 3)

/-- VEL a segment wants after its time has reached `tau` (15 R317): a unit held back by VMAX is repaid here. -/
def State.segVel (s : State) (site a tau : Nat) : Int :=
  let x := s.axis site a
  satInt (s.vmax site a) (segAt x.p0 x.v0 (s.seg site a (s.segHead site a)) tau - x.phase)

/-- Microsteps per full step, N (15 R315). -/
def State.stepsN (s : State) (site a : Nat) : Nat := 2 ^ s.regFld (axPage site a + 0x40) 0 4

/-- The electrical angle θ of a position in microsteps, in 1/1024 period (15 R315). -/
def thetaAt (n : Nat) (pos : Int) : Nat := ((pos % (4 * n : Nat)).toNat * 256 / n + 128) % 1024

/-- The sign of coil A's demand at θ: that of cos θ, 0 at 256 and 768. -/
def cosSign (th : Nat) : Int := if th = 256 ∨ th = 768 then 0 else if 256 < th ∧ th < 768 then -1 else 1

/-- Division rounding away from zero (15 R320; log 30). -/
def divAway (n : Int) (d : Nat) : Int := if n < 0 then -((-n + (d : Int) - 1) / d) else (n + (d : Int) - 1) / d

/-- VEL of a coarse-step axis (15 R320); PERIOD counts 5 ns samples, five to a tick. -/
def State.coarseVel (s : State) (site a : Nat) : Int :=
  let e := s.regFld (axPage site a + 0x40) 12 3
  let per := s.regFld (encPage site e + 0x58) 0 24
  let ns5 := if per = 0xFFFFFF then 40000000 else max 1 per
  satInt (s.vmax site a) (divAway (((s.axis site a).tgt * 2 ^ 32 - (s.axis site a).phase) * 5) ns5)

/-- VEL of a follower (15 R321): the leader's scaled, plus TRIM. -/
def State.followVel (s : State) (site a : Nat) : Int :=
  let lv := s.leaderVel site (s.grpOf site a)
  rneDiv (lv * (s.reg (axPage site a + 0x70)).toInt) 65536 + (s.reg (axPage site a + 0xA4)).toInt

/-- VEL one tick nearer to a target at STOP_DECEL, with the fraction of |VEL| kept (15 R328; 16 R346): |VEL| is reckoned exactly in
2^-16 units and VEL is its whole part. -/
def rampTo (v target : Int) (acc decel : Nat) : Int × Nat :=
  let neg := decide (v < 0) || (v == 0 && decide (target < 0))
  let mag : Int := (v.natAbs * 65536 + acc : Nat)
  let x := if neg then -mag else mag
  let t := target * 65536
  let y := if x < t then min t (x + decel) else max t (x - decel)
  (if y < 0 then -((y.natAbs / 65536 : Nat) : Int) else ((y.natAbs / 65536 : Nat) : Int), y.natAbs % 65536)

/-- STOP_DECEL of a group; its reset value for a lone axis (15 R485). -/
def State.stopDecel (s : State) (site g : Nat) : Nat := if g < 8 then (s.reg (grpPage site g + 0x44)).toNat else 0xDBE7
/-- PACE of a group. -/
def State.pace (s : State) (site g : Nat) : Nat := if g < 8 then s.regFld (grpPage site g + 0x48) 0 17 else 0x10000
/-- The encoder a gate's position unit follows. -/
def State.encOf (s : State) (site g : Nat) : Nat := s.regFld (puPage site g + 0x40) 0 3

/-- POS has come back to TP(L_r) - RUNUP (16 R346). -/
def State.behind (s : State) (site g : Nat) : Bool :=
  decide (s.encPos site (s.encOf site g) * 256 ≤ s.tp site g (s.grp site g).lr - ((s.reg (pacePage site g + 0x68)).toNat : Int) * 65536)

/-- The velocity an axis is to take this tick and the fraction kept, before limits. -/
def State.wantVel (s : State) (site a : Nat) : Int × Nat :=
  let x := s.axis site a
  let g := s.grpOf site a
  let gr := s.grp site g
  let dec := s.stopDecel site g
  if s.axLive site a = false then (0, 0)
  else if s.axSource site a = 2 then (s.followVel site a, 0)
  else if gr.stopping then (if x.hard then (0, 0) else rampTo x.vel 0 x.dacc dec)
  else if gr.atRest then (0, 0)
  else if gr.stage ≠ 0 ∧ s.leader site g = some a then
    if gr.stage = 1 then (if s.behind site g then rampTo x.vel 0 x.dacc dec else rampTo x.vel (-gr.runVel) x.dacc dec)
    else if gr.stage = 2 then rampTo x.vel 0 x.dacc dec
    else if gr.stage = 3 then rampTo x.vel (gr.runVel * s.pace site g / 65536) x.dacc dec
    else (gr.runVel * s.pace site g / 65536, 0)
  else if s.axSource site a = 1 then (s.coarseVel site a, 0)
  else if x.run then (s.segVel site a (x.tau + s.pace site g), 0)
  else (0, 0)

/-- Take a velocity for one tick (15 R314); a microstep may take coil A's demand through zero (R324). -/
def State.moveAxis (s : State) (site a : Nat) (v : Int) (acc : Nat) : State :=
  let p := axPage site a
  let x := s.axis site a
  let y := { x with phase := x.phase + v, vel := v, dacc := acc, restAt := if v = 0 then (if x.vel = 0 then x.restAt else s.now) else x.restAt,
                    lastDir := if 0 < v then 1 else if v < 0 then -1 else x.lastDir }
  let th := thetaAt (s.stepsN site a) (x.phase / 2 ^ 32)
  let th2 := thetaAt (s.stepsN site a) (y.phase / 2 ^ 32)
  let z := { y with crossed := x.crossed || (th != th2 && (cosSign th2 == 0 || cosSign th != cosSign th2)) }
  let s1 := ((s.setAxis site a z).setReg (p + 0x90) (wordOfInt v)).putBit (p + 0x94) 0 (v != 0)
  if y.phase / 2 ^ 32 ≠ x.phase / 2 ^ 32 then s1.putBit (p + 0x94) 10 false else s1

/-- Keep what saturates and show SATURATED, with its event on a rising edge (15 R321, R323). -/
def State.axSat (s : State) (site a : Nat) (x : Axis) : State :=
  let on := x.satT || x.satV || x.satO
  ((s.setAxis site a x).putBit (axPage site a + 0x94) 7 on).evtIf (on && !s.regBit (axPage site a + 0x94) 7) (axPage site a) 7

/-- The tension loop of a follower, at each new valid conversion of its channel (15 R321). -/
def State.tension (s : State) (site a : Nat) : State :=
  let p := axPage site a
  if s.regBit (p + 0x6C) 3 = true ∧ s.axSource site a = 2 ∧ s.active p = true then
    let m := s.regFld (p + 0x6C) 0 3
    let cnt := (s.reg (mtrPage site m + 0x88)).toNat
    let x := s.axis site a
    if mVstate s site m ≠ 1 then s.evt p 10
    else if cnt = x.conv then s
    else
      let e := f32Sub (s.reg (p + 0x74)) (s.reg (mtrPage site m + 0x74))
      let mx := toF32 (fpOfInt (s.regFld (p + 0x80) 0 31))
      let kpe := f32Mul (s.reg (p + 0x78)) e
      let lo := f32Sub (f32Sub 0#32 mx) kpe
      let hi := f32Sub mx kpe
      let cl (v lo hi : Word) : Word := if fpLt (f32 v) (f32 lo) then lo else if fpLt (f32 hi) (f32 v) then hi else v
      let i := cl (f32Add x.trimI (f32Mul (s.reg (p + 0x7C)) e)) lo hi
      let raw := f32Add kpe i
      let t := cl raw (f32Sub 0#32 mx) mx
      (s.setReg (p + 0xA4) (wordOfInt (fpRne (f32 t)))).axSat site a { x with trimI := i, conv := cnt, satT := t != raw }
  else s

/-- The coarse target follows the encoder's count; a faulted encoder holds it (15 R320). -/
def State.coarse (s : State) (site a : Nat) : State :=
  let p := axPage site a
  if s.axSource site a = 1 ∧ s.axLive site a = true then
    let e := s.regFld (p + 0x40) 12 3
    let s1 := if s.st (encPage site e) = 5 then s else s.setAxis site a { s.axis site a with tgt := (s.enc site e).count * s.regFld (p + 0x40) 16 8 }
    if s.regFld (encPage site e + 0x58) 0 24 < 400 then s1.evt p 9 else s1
  else s

/-- Whether an axis's segment begins by itself this tick: it has no WAIT and its group moves freely (15 R317). -/
def State.autoRun (s : State) (site a : Nat) : State :=
  let x := s.axis site a
  let g := s.grpOf site a
  if x.run = false ∧ s.axSource site a = 0 ∧ s.active (axPage site a) = true ∧ s.segHead site a ≠ s.segTail site a ∧
      (s.seg site a (s.segHead site a)).wait = false ∧ s.groupHeld site g = false ∧ (s.grp site g).stage = 0 then
    s.setAxis site a { x with run := true, tau := 0, p0 := x.phase, v0 := x.vel }
  else s

/-- One axis in one tick: the direction a limit guards is clamped; a paced group shows PACED (15 R331 to R333). -/
def State.tickAxis (s : State) (site a : Nat) (frozen : Bool) : State :=
  let p := axPage site a
  let g := s.grpOf site a
  let x := s.axis site a
  if s.axLive site a = false ∧ x.vel = 0 then s
  else
    let w := s.wantVel site a
    let seg := x.run && s.axSource site a == 0 && !s.groupHeld site g
    let dir := w.1
    let clamped := s.limUnknown site a dir || s.limAsserted site a dir
    let sat := satInt (s.vmax site a) w.1
    let v := if clamped || (frozen && seg) then 0 else sat
    let s1 := if seg && !frozen then s.setAxis site a { x with tau := x.tau + s.pace site g } else s
    let s2 := s1.moveAxis site a v w.2
    let s3 := if s.axSource site a = 2 ∧ x.satV ≠ decide (sat ≠ w.1) then s2.axSat site a { s2.axis site a with satV := decide (sat ≠ w.1) } else s2
    let slow := decide (s.pace site g < 0x10000) && v != 0
    if s3.st p = 2 ∧ slow = true then s3.setSt p 6 else if s3.st p = 6 ∧ slow = false then s3.setSt p 2 else s3

/-- A cause of R328 that is still present for an axis: an asserted limit in the direction of its last motion, FAULT, or a
safety lock. -/
def State.causePresent (s : State) (site a : Nat) : Bool :=
  s.limAsserted site a (s.axis site a).lastDir || s.st (axPage site a) == 5 || s.regBit (axPage site a + 0xC) 4

/-- RELEASE of a group at rest (15 R328). -/
def State.releaseGroup (s : State) (site g : Nat) : State :=
  let s1 := s.putGrp site g { s.grp site g with stopping := false, atRest := false, cause := 0 }
  let s2 := (s1.groupAxes site g).foldl (fun s a => s.setAxis site a { s.axis site a with hard := false }) s1
  if g < 8 then s2.evt (grpPage site g) 2 else s2

/-- One group in one 25 ns tick (15 R314 to R321, R328, R331, R332). -/
def State.tickGroup (s : State) (site g : Nat) : State :=
  let axes := s.groupAxes site g
  if axes.all (fun a => s.axLive site a == false && (s.axis site a).vel == 0) then s
  else
    let s1 := axes.foldl (fun s a => ((s.autoRun site a).coarse site a).tension site a) s
    let bad := axes.filter (fun a => s1.axLive site a && !(s1.axis site a).hard && s1.limAsserted site a (s1.wantVel site a).1)
    let s2 := if bad.isEmpty then s1
      else
        let t := s1.groupStop site g 2
        let t := axes.foldl (fun s a => if bad.contains a || s.regBit (axPage site a + 0x68) 14 then s.setAxis site a { s.axis site a with hard := true } else s) t
        bad.foldl (fun s a => s.evt (axPage site a) 3) t
    let frozen := axes.any (fun a => (s2.axis site a).run && s2.axSource site a == 0 && s2.active (axPage site a) && s2.limUnknown site a (s2.wantVel site a).1)
    let lead := match s2.leader site g with | some a => [a] | none => []
    let s3 := (lead ++ axes.filter (fun a => !lead.contains a)).foldl (fun s a => s.tickAxis site a frozen) s2
    let gr := s3.grp site g
    if gr.stage = 1 ∧ s3.behind site g = true then s3.setGrp site g { gr with stage := 2 }
    else if gr.stage = 3 ∧ s3.leaderVel site g = gr.runVel * s3.pace site g / 65536 then s3.setGrp site g { gr with stage := 4 }
    else if 8 ≤ g ∧ gr.stopping = true ∧ s3.groupStill site g = true ∧ axes.all (fun a => !s3.causePresent site a) = true then s3.releaseGroup site g
    else s3

/-- One axis tick of a field die (02 R41; 15): the tick counter advances in every state of the die. -/
def State.tickDie (s : State) (site : Nat) : State :=
  let s1 : State := { s with ticks := tabPut 0 s.ticks site ((s.tick site + 1) % 2 ^ 48) }
  (List.range 24).foldl (fun s g => s.tickGroup site g) s1

/-- An axis fault (15 R332, R333): bridges low, VEL 0, its group makes an AXIS_FAULT stop. -/
def State.axisFault (s : State) (site a code : Nat) : State :=
  let p := axPage site a
  if s.st p = 0 ∨ s.st p = 7 ∨ s.st p = 5 then s.faultRec p code 1
  else
    let s1 := (s.blockFault p code 1).moveAxis site a 0 0
    s1.groupStop site (s.grpOf site a) 5

/-- Lock or release every axis of a gate's group for the continuity monitor (15 R333; 22 R450). -/
def State.lockAxis (s : State) (site a : Nat) : State := (s.lock (axPage site a) true).moveAxis site a 0 0
def State.lockGateAxes (s : State) (site g : Nat) : State := (s.groupAxes site g).foldl (fun s a => s.lockAxis site a) s
def State.unlockGateAxes (s : State) (site g : Nat) : State := (s.groupAxes site g).foldl (fun s a => s.unlock (axPage site a) true) s

/-- Lock or release every axis, meter channel and meter output page of a field die (22 R454). -/
def State.lockFieldPages (s : State) (site : Nat) : State :=
  let s1 := (List.range 16).foldl (fun s a => s.lockAxis site a) s
  let s2 := (List.range 8).foldl (fun s m => (s.lock (mtrPage site m) true).meterStop site m) (s1.calAbortAll site 2)
  ((List.range 8).foldl (fun s o => s.lock (outPage site o) true) s2).outsZero site
def State.unlockFieldPages (s : State) (site : Nat) : State :=
  let s1 := (List.range 16).foldl (fun s a => s.unlock (axPage site a) true) s
  let s2 := (List.range 8).foldl (fun s m => s.unlock (mtrPage site m) true) s1
  (List.range 8).foldl (fun s o => s.unlock (outPage site o) true) s2

end Sys2Proof.Machine
end

