-- ==== Sys2Proof/Machine/Dolly.lean ====
section
/-!
DEFINITION. Machine/Dolly.lean: the commands of the dolly axes and their groups (15).
-/
namespace Sys2Proof.Machine

/-- Whether a segment's curve keeps |P'| within VMAX throughout (15 R316): its derivative over s in [0,1] is quadratic,
judged at both ends and at its vertex, exactly. -/
def curveOk (p0 v0 : Int) (g : Seg) (vmax : Int) : Bool :=
  let t : Int := g.dur
  let d := g.pos - p0
  let a := 3 * t * (v0 + g.vel) - 6 * d
  let b := 6 * d - t * (4 * v0 + 2 * g.vel)
  let inside := decide ((0 < a ∧ 0 < -b ∧ -b < 2 * a) ∨ (a < 0 ∧ 0 < b ∧ b < -(2 * a)))
  decide (v0.natAbs ≤ vmax) && decide (g.vel.natAbs ≤ vmax) &&
    !(inside && decide (4 * a.natAbs * t * vmax < (4 * a * t * v0 - b * b).natAbs))

/-- Check `n` new segments from count `c`, given the predecessor's end state (15 R316). -/
def State.segsOk (s : State) (site a : Nat) : Nat → Nat → Int → Int → Bool
  | 0, _, _, _ => true
  | n + 1, c, p0, v0 =>
    let g := s.seg site a c
    decide (g.dur ≠ 0) && curveOk p0 v0 g (s.vmax site a) && !(g.wait && v0 != 0) && s.segsOk site a n (c + 1) g.pos g.vel

/-- The end state of the segment before count `c`: the axis's own where the table is empty; RUN_VEL in a restart cruise
(15 R316; 16 R348). -/
def State.predecessor (s : State) (site a c : Nat) : Int × Int :=
  let g := s.grpOf site a
  let x := s.axis site a
  if s.segHead site a = s.segTail site a then
    (x.phase, if (s.grp site g).stage ≠ 0 ∧ s.leader site g = some a then (s.grp site g).runVel else x.vel)
  else let p := s.seg site a ((c + 255) % 256); (p.pos, p.vel)

/-- A write of SEG_TAIL (15 R316). -/
def State.writeSegTail (s : State) (req site a : Nat) (val : Word) : State :=
  let head := s.segHead site a
  let tail := s.segTail site a
  let n := (fld val 0 8 + 256 - head) % 256
  let n0 := (tail + 256 - head) % 256
  let pr := s.predecessor site a tail
  if 64 < n ∨ n < n0 ∨ s.segsOk site a (n - n0) tail pr.1 pr.2 = false then s.reject req (axPage site a) 0xAC 3
  else s.setNat (axPage site a + 0xAC) (fld val 0 8)

/-- The segment start an axis page holds. -/
def State.segArm (s : State) (site a : Nat) : Option Armed := (s.segArms.find? (fun p => p.1 == site * 16 + a)).map (·.2)
def State.setSegArm (s : State) (site a : Nat) (x : Armed) : State := { s with segArms := tabIns (site * 16 + a) x (tabDrop (site * 16 + a) s.segArms) }
/-- Clear an armed segment start and its ARMED bit. -/
def State.clearSegArm (s : State) (site a : Nat) : State :=
  ({ s with segArms := tabDrop (site * 16 + a) s.segArms } : State).putBit (axPage site a + 0xB8) 8 false

/-- Start the waiting segment of every axis of a group; the leader's of a restart cruise starts from its present state
(15 R318; 16 R348). -/
def State.startSegs (s : State) (site g : Nat) : State :=
  let cruise := (s.grp site g).stage != 0
  let s1 := (s.groupAxes site g).foldl (fun s a =>
    let x := s.axis site a
    let here := cruise && s.leader site g == some a
    if x.run = false ∧ s.axSource site a = 0 ∧ s.segHead site a ≠ s.segTail site a ∧
        ((s.seg site a (s.segHead site a)).wait = true ∨ here = true) ∧ s.active (axPage site a) = true then
      s.setAxis site a { x with run := true, tau := 0, p0 := x.phase, v0 := x.vel }
    else s) s
  if cruise then s1.setGrp site g { s1.grp site g with stage := 0 } else s1

/-- A segment start's boundary has come (15 R318; 02 R42): while the group is stopping or held it is late, and waits for
RELEASE or is dropped. -/
def State.fireSeg (s : State) (site a line : Nat) (x : Armed) : State :=
  let p := axPage site a
  let g := s.grpOf site a
  let held := s.groupHeld site g
  let isLate := x.late || held
  if isLate ∧ x.discard = true then ((s.clearSegArm site a).putBit (p + 0xB8) 9 true).evt p 6
  else if held then s.setSegArm site a { x with late := true }
  else
    let s1 := (s.startSegs site g).clearSegArm site a
    if isLate then (((s1.putBit (p + 0xB8) 9 true).setNat (p + 0xBC) (s.lateStamp site line x)).evt p 6).lateLine x line else s1

/-- A start armed for `w` takes its place in arming order; one for now, or one already late that is to be discarded,
runs at once (02 R40, R42; 15 R318). -/
def State.armSeg (s : State) (site a : Nat) (w : When) (x : Armed) : State :=
  let s1 := ({ s with order := s.order + 1 } : State).setSegArm site a x
  if w.kind = 0 ∨ (x.late = true ∧ x.discard = true) then s1.fireSeg site a 0 x else s1

/-- A write of SEG_CTL (15 R318, R331, R485; 02 R42). -/
def State.writeSegCtl (s : State) (req site a : Nat) (val : Word) : State :=
  let p := axPage site a
  let g := s.grpOf site a
  let place := s.leader site g == some a || ((s.leader site g).isNone && (s.groupAxes site g).length == 1)
  let clamped := (s.groupAxes site g).any (fun b => s.axSource site b == 2 && (s.limUnknown site b 1 || s.limUnknown site b (-1)))
  let base := ((s.putBit (p + 0xB8) 1 (bitOf val 1)).putBit (p + 0xB8) 9 (s.regBit (p + 0xB8) 9 && !bitOf val 9))
  if bitOf val 0 = false then base
  else if place = false ∨ clamped = true ∨ (8 ≤ g ∧ s.groupHeld site g = true) then s.reject req p 0xB8 5
  else match decodeWhen s.asm (s.wide (p + 0xB0)) with
    | none => s.reject req p 0xB8 9
    | some w => (base.putBit (p + 0xB8) 8 true).armSeg site a w (s.armed site w (bitOf val 1))

/-- SEG_START (15 R318): an armed start whose CLAPPER or TICK boundary has come, or that a stop made late, runs. -/
def execSegStart (site a : Nat) (s : State) : Host.Outcome State Fault Refusal :=
  match s.segArm site a with
  | some x =>
    if s.isField site = true ∧ a < 16 ∧ (s.due site x = true ∨ (x.late = true ∧ x.at_.kind ≠ 1 ∧ s.groupHeld site (s.grpOf site a) = false)) then
      .next (s.fireSeg site a 0 x)
    else .next s
  | none => .next s

/-- SEG_DONE (15 R317, R319): segment time has reached DURATION. The excess carries into a next segment without WAIT,
within the same tick. -/
def State.endSeg (s : State) (site a : Nat) : State :=
  let p := axPage site a
  let x := s.axis site a
  let head := s.segHead site a
  let g := s.seg site a head
  let s1 := (s.setNat (p + 0xA8) ((head + 1) % 256)).evt p 4
  let y := { x with p0 := g.pos, v0 := g.vel, tau := x.tau - 65536 * g.dur }
  if (head + 1) % 256 = s.segTail site a then
    let s2 := s1.setAxis site a { y with run := false, tau := 0 }
    if g.vel = 0 then s2 else (s2.evt p 5).groupStop site (s.grpOf site a) 6
  else if (s.seg site a (head + 1)).wait then s1.setAxis site a { y with run := false, tau := 0 }
  else
    let s2 := s1.setAxis site a y
    let v := satInt (max 0 (s.vmax site a - x.vel.natAbs)) (s2.segVel site a y.tau)
    s2.moveAxis site a v 0 |>.setReg (p + 0x90) (wordOfInt (x.vel + v)) |> fun s3 => s3.setAxis site a { s3.axis site a with vel := x.vel + v }

def execSegDone (site a : Nat) (s : State) : Host.Outcome State Fault Refusal :=
  let x := s.axis site a
  if s.isField site = true ∧ a < 16 ∧ x.run = true ∧ 65536 * (s.seg site a (s.segHead site a)).dur ≤ x.tau then .next (s.endSeg site a) else .next s

/-- Whether |f_fs| is at least `f` full steps/s (15 R324), exactly. -/
def State.speedGe (s : State) (site a f : Nat) : Bool :=
  decide (f * 2 ^ 32 * 2 ^ s.regFld (axPage site a + 0x40) 0 4 ≤ (s.axis site a).vel.natAbs * 40000000)

/-- Whether |f_fs| is above `f` full steps/s. -/
def State.speedGt (s : State) (site a f : Nat) : Bool :=
  decide (f * 2 ^ 32 * 2 ^ s.regFld (axPage site a + 0x40) 0 4 < (s.axis site a).vel.natAbs * 40000000)

/-- The motion guards of an ACTIVE monitor count a lock loss of their reference axis (22 R446, R448). -/
def State.countLock (s : State) (site a : Nat) : State :=
  if s.guardAxis site a then (s.addSat (monPage site + 0x6C) 1).evt (monPage site) 7 else s

/-- Declare loss of lock, once (15 R327). -/
def State.loseLock (s : State) (site a : Nat) : State :=
  let p := axPage site a
  if s.regBit (p + 0x94) 6 then s
  else
    let g := s.grpOf site a
    let s1 := ((s.putBit (p + 0x94) 6 true).evt p 0).countLock site a
    let s2 := if g < 8 then s1.setUnc site (s.encOf site g) 0xFFFF else s1
    if s.regBit (p + 0x40) 10 then s2 else s2.groupStop site g 3

/-- The observer's judgement in one PWM period (15 R326, R327). -/
def State.observe (s : State) (site a : Nat) (o : Observer) : State :=
  let p := axPage site a
  if s.speedGe site a (s.regFld (p + 0x5C) 0 16) then
    let s1 := (s.putBit (p + 0x94) 9 true).setNat (p + 0x98) ((BitVec.ofInt 11 o.angle).toNat + o.conf % 256 * 2 ^ 16)
    let x := s.axis site a
    if s.regFld (p + 0x5C) 16 8 ≤ o.conf then
      let s2 := (s1.setAxis site a { x with confAt := none }).evtIf (decide (s.regFld (p + 0x5C) 24 8 ≤ o.angle.natAbs)) p 1
      if 256 < o.angle.natAbs then s2.loseLock site a else s2
    else
      let pos := s.axisPos site a
      let at_ := x.confAt.getD pos
      let s2 := s1.setAxis site a { x with confAt := some at_ }
      if 16 * 2 ^ s.regFld (p + 0x40) 0 4 ≤ (pos - at_).natAbs then s2.loseLock site a else s2
  else (s.putBit (p + 0x94) 9 false).setAxis site a { s.axis site a with confAt := none }

/-- OFFS of an axis. -/
def State.axOffs (s : State) (site a : Nat) : Int := (BitVec.ofNat 8 (s.regFld (axPage site a + 0x9C) 0 8)).toInt

/-- The chopper's offset moves one code toward removing the difference, within its bounds (15 R323). -/
def State.chopOffs (s : State) (site a : Nat) (d : Int) : State :=
  let p := axPage site a
  let offs := s.axOffs site a
  let lo := (BitVec.ofNat 8 (s.regFld (p + 0x50) 8 8)).toInt
  let hi := (BitVec.ofNat 8 (s.regFld (p + 0x50) 16 8)).toInt
  let want := if 0 < d then offs - 1 else if d < 0 then offs + 1 else offs
  let n := max lo (min hi want)
  (s.setNat (p + 0x9C) (BitVec.ofInt 8 n).toNat).axSat site a { s.axis site a with satO := n != want }

/-- A quotient for which the manual gives no rounding (log 80). -/
def quotOpen (n d : Nat) : Nat := n / d + (if n % d ≠ 0 ∧ Config.roundUp n d = true then 1 else 0)

/-- The table's signed value at θ, and the demands of coils A and B (15 R315): cos θ and sin θ; DIR_INV swaps the sense of B. -/
def coilTable (th : Nat) : Int := cosSign (th % 1024) * ((Config.coilCos (th % 1024)).toNat : Int)
def State.theta (s : State) (site a : Nat) : Nat := thetaAt (s.stepsN site a) (s.axisPos site a)
def State.demand (s : State) (site a : Nat) : Int × Int :=
  let th := s.theta site a
  let b := coilTable (th + 768)
  (coilTable th, if s.regBit (axPage site a + 0x40) 6 then -b else b)

/-- Give a magnitude the sign of a demand; a demand of 0 drives neither output. -/
def signed (dem : Int) (m : Nat) : Int := if dem < 0 then -(m : Int) else if dem = 0 then 0 else m

/-- A of the quiet mode (15 R322, R324, R325): from |f_fs| = |VEL| × 40 MHz ÷ (2^32 × N); at hold, A × I_HOLD ÷ I_RUN. -/
def State.amplitude (s : State) (site a : Nat) : Nat :=
  let p := axPage site a
  let k := s.regFld (p + 0x54) 16 12
  let n := min 4095 (s.regFld (p + 0x54) 0 12 + quotOpen (k * (s.axis site a).vel.natAbs * 40000000) (2 ^ 32 * s.stepsN site a * 1024))
  let run := s.regFld (p + 0x48) 0 11
  if s.regBit (p + 0x94) 10 = false then n
  else if run = 0 then (Config.holdDuty n).toNat
  else min 4095 (quotOpen (n * s.regFld (p + 0x48) 16 11) run)

/-- |I_T| of a coil in strong mode (15 R323, R325). -/
def State.target (s : State) (site a : Nat) (dem : Int) : Nat :=
  let p := axPage site a
  quotOpen ((if s.regBit (p + 0x94) 10 then s.regFld (p + 0x48) 16 11 else s.regFld (p + 0x48) 0 11) * dem.natAbs) 4095

/-- One channel's hysteresis chopper in a PWM period: driving or decaying, the tick of its last switch, ticks driven, and the sum of |I|
and the number of its switching points. -/
structure Chop where
  on : Bool := true
  at_ : Nat := 0
  ticks : Nat := 0
  sum : Nat := 0
  n : Nat := 0
  deriving DecidableEq, Repr

/-- One sense sample at tick t (15 R323): drive until |I| reaches `hi`, decay until it is at `lo` or below and T_OFF has passed. -/
def Chop.sample (c : Chop) (hi lo : Int) (toff t m : Nat) : Chop :=
  if t < c.at_ then c
  else if c.on then (if hi ≤ m then { on := false, at_ := t, ticks := c.ticks + (t - c.at_), sum := c.sum + m, n := c.n + 1 } else c)
  else if (m : Int) ≤ lo ∧ c.at_ + toff ≤ t then { c with on := true, at_ := t, sum := c.sum + m, n := c.n + 1 }
  else c

/-- A channel over one period of `per` ticks, which begins to drive after `wait` ticks: (ticks driven, ticks of T_OFF left at its end,
Σ|I| and count of switching points). -/
def chopPeriod (hi lo : Int) (toff per wait : Nat) (codes : List Int) : Nat × Nat × Nat × Nat :=
  let c := ((List.range codes.length).zip codes).foldl (fun (c : Chop) x => if 20 * x.1 < per then c.sample hi lo toff (20 * x.1) x.2.natAbs else c) { at_ := wait }
  (c.ticks + (if c.on then per - c.at_ else 0), if c.on then 0 else c.at_ + toff - per, c.sum, c.n)

/-- Strong mode in one PWM period (15 R323): the choppers of both coils, whose drive is a duty of the period. -/
def State.chopDrive (s : State) (site a : Nat) (codes : List (Int × Int)) : State :=
  let p := axPage site a
  let x := s.axis site a
  let dem := s.demand site a
  let per := s.regFld (p + 0x44) 0 12
  let h : Int := s.regFld (p + 0x50) 0 8
  let toff := s.regFld (p + 0x50) 24 8
  let run (d : Int) (wait : Nat) (cs : List Int) : Nat × Nat × Nat × Nat := chopPeriod ((s.target site a d : Int) + s.axOffs site a + h) ((s.target site a d : Int) + s.axOffs site a - h) toff per wait cs
  let ca := run dem.1 x.wait.1 (codes.map (·.1))
  let cb := run dem.2 x.wait.2 (codes.map (·.2))
  s.setAxis site a { x with
    duty := (signed dem.1 (quotOpen (ca.1 * 4095) per), signed dem.2 (quotOpen (cb.1 * 4095) per))
    wait := (ca.2.1, cb.2.1)
    chop := (x.chop.1 + ca.2.2.1 + cb.2.2.1, x.chop.2.1 + ca.2.2.2 * s.target site a dem.1 + cb.2.2.2 * s.target site a dem.2, x.chop.2.2 + ca.2.2.2 + cb.2.2.2) }

/-- The drive of one PWM period (15 R322 to R324): the first one in a new mode keeps the duty last applied. -/
def State.drive (s : State) (site a : Nat) (codes : List (Int × Int)) : State :=
  let x := s.axis site a
  if x.keep then s.setAxis site a { x with keep := false }
  else if s.regBit (axPage site a + 0x94) 1 then s.chopDrive site a codes
  else
    let dem := s.demand site a
    let n := s.amplitude site a
    let s1 := s.setAxis site a { x with duty := (signed dem.1 (quotOpen (n * dem.1.natAbs) 4095), signed dem.2 (quotOpen (n * dem.2.natAbs) 4095)), wait := (0, 0) }
    if x.satO then s1.axSat site a { s1.axis site a with satO := false } else s1

/-- Once per electrical period, which is 4N microsteps, OFFS moves by the means at the switching points (15 R323). -/
def State.electrical (s : State) (site a : Nat) : State :=
  let x := s.axis site a
  let e := s.axisPos site a / (4 * s.stepsN site a : Nat)
  if e = x.eper then s
  else
    let s1 := s.setAxis site a { x with eper := e, chop := (0, 0, 0) }
    if s.regBit (axPage site a + 0x94) 1 = true ∧ x.chop.2.2 ≠ 0 then s1.chopOffs site a ((x.chop.1 : Int) - x.chop.2.1) else s1

/-- The duty codes of outputs IN1 and IN2 of a channel (15 Coil-current regulation, R333): all low unless the axis is driven. -/
def State.bridge (s : State) (site a ch : Nat) : Nat × Nat :=
  let d := if ch = 0 then (s.axis site a).duty.1 else (s.axis site a).duty.2
  if s.axLive site a = false then (0, 0) else (d.toNat, (-d).toNat)

/-- Mode policy in one PWM period (15 R324): AUTO switches at the thresholds; a lock loss forces strong mode. -/
def State.modePolicy (s : State) (site a : Nat) : State :=
  let p := axPage site a
  let x := s.axis site a
  let strong := s.regBit (p + 0x94) 1
  let policy := s.regFld (p + 0x40) 8 2
  if s.regBit (p + 0x94) 6 then
    let s1 := (s.putBit (p + 0x94) 1 true).setAxis site a { x with modeTo := none, keep := x.keep || !strong }
    let forced := policy == 1
    ((s1.putBit (p + 0x94) 8 forced).evtIf (forced && !s.regBit (p + 0x94) 8) p 8).evtIf (!strong) p 2
  else
    let want := if policy = 1 then false else if policy = 2 then true
      else if strong = false ∧ s.speedGe site a (s.regFld (p + 0x58) 16 16) = true then true
      else if strong = true ∧ s.speedGt site a (s.regFld (p + 0x58) 0 16) = false then false else strong
    let next := if want == strong then none else some want
    (s.putBit (p + 0x94) 8 false).setAxis site a { x with modeTo := next, crossed := x.crossed && x.modeTo == next }

/-- I_SENSE: the last sample of each coil. -/
def State.senseShow (s : State) (site a : Nat) (codes : List (Int × Int)) : State :=
  match codes.getLast? with
  | some c => s.setNat (axPage site a + 0xA0) ((BitVec.ofInt 12 c.1).toNat + (BitVec.ofInt 12 c.2).toNat * 2 ^ 16)
  | none => s

/-- PWM_PERIOD (15 R322 to R327): one PWM period of a driven axis: its mode, its drive, and the observer's judgement. -/
def execPwmPeriod (site a : Nat) (obs : Observer) (s : State) : Host.Outcome State Fault Refusal :=
  if s.isField site = true ∧ a < 16 ∧ s.axLive site a = true then
    .next (((((s.modePolicy site a).drive site a obs.samples).electrical site a).senseShow site a obs.samples).observe site a obs)
  else .next s

/-- MODE_SWITCH (15 R324): the waiting mode takes effect at a zero crossing of coil A's demand; the first period in it keeps the duty. -/
def execModeSwitch (site a : Nat) (s : State) : Host.Outcome State Fault Refusal :=
  match (s.axis site a).modeTo with
  | some m =>
    if s.isField site = true ∧ a < 16 ∧ ((s.axis site a).crossed = true ∨ cosSign (s.theta site a) = 0) then
      .next (((s.setAxis site a { s.axis site a with modeTo := none, keep := true }).putBit (axPage site a + 0x94) 1 m).evt (axPage site a) 2)
    else .next s
  | none => .next s

/-- An axis that has measured its offsets is energised at I_HOLD, in the mode its policy names (15 R324, R333). A follower with TEN_EN
keeps I_RUN (R325). -/
def State.axisReady (s : State) (site a : Nat) : State :=
  let p := axPage site a
  let hold := !(s.axSource site a == 2 && s.regBit (p + 0x6C) 3)
  let strong := s.regFld (p + 0x40) 8 2 == 2 || s.regBit (p + 0x94) 6
  ((s.putBit (p + 0x94) 10 hold).putBit (p + 0x94) 1 strong).setAxis site a { s.axis site a with
    modeTo := none, crossed := false, duty := (0, 0), keep := false, wait := (0, 0), chop := (0, 0, 0), eper := s.axisPos site a / (4 * s.stepsN site a : Nat), restAt := s.now }

/-- AT_HOLD (15 R325): at rest for 100 ms; a follower with TEN_EN keeps I_RUN. -/
def execAtHold (site a : Nat) (s : State) : Host.Outcome State Fault Refusal :=
  let x := s.axis site a
  if s.isField site = true ∧ a < 16 ∧ s.active (axPage site a) = true ∧ x.vel = 0 ∧ x.restAt + 20000000 ≤ s.now ∧
      ¬(s.axSource site a = 2 ∧ s.regBit (axPage site a + 0x6C) 3 = true) then
    .next (s.putBit (axPage site a + 0x94) 10 true)
  else .next s

/-- AX_CMD.CLR_LOCK (15 R327): only at rest. -/
def State.clrLock (s : State) (req site a : Nat) (val : Word) : State :=
  let p := axPage site a
  if bitOf val 0 = false then s
  else if (s.axis site a).vel ≠ 0 then s.reject req p 0xC0 5
  else (s.putBit (p + 0x94) 6 false).putBit (p + 0x94) 8 false

/-- A write of GRP_CMD (15 R328): STOP makes a HOST stop; RELEASE is rejected before AT_REST, while a cause is present,
and beside STOP. -/
def State.grpCmd (s : State) (req site g : Nat) (val : Word) : State :=
  if bitOf val 1 then
    if bitOf val 0 = true ∨ s.groupAtRest site g = false ∨ (s.groupAxes site g).any (fun a => s.causePresent site a) = true then s.reject req (grpPage site g) 0x58 5
    else s.releaseGroup site g
  else if bitOf val 0 then s.groupStop site g 1
  else s

/-- OVERCURRENT (15 R333): |I| at or above I_MAX in two consecutive samples. -/
def execOvercurrent (site a : Nat) (s : State) : Host.Outcome State Fault Refusal :=
  if s.isField site = true ∧ a < 16 ∧ (s.axLive site a = true ∨ s.st (axPage site a) = 1) then .next (s.axisFault site a 0x0100) else .next s

/-- SENSE_FAIL (15 R333). -/
def execSenseFail (site a : Nat) (s : State) : Host.Outcome State Fault Refusal :=
  if s.isField site = true ∧ a < 16 ∧ (s.axLive site a = true ∨ s.st (axPage site a) = 1) then .next (s.axisFault site a 0x0101) else .next s

/-- PACE_STEP (15 Axis group page): the k-th step of the ms moves PACE toward PACE_TARGET. -/
def execPaceStep (site g : Nat) (s : State) : Host.Outcome State Fault Refusal :=
  if s.isField site = true ∧ g < 8 then
    let p := grpPage site g
    let k := (s.grp site g).paceK + 1
    let slew := s.regFld (p + 0x50) 0 17
    let step := k * slew / 40 - (k - 1) * slew / 40
    let pace := s.regFld (p + 0x48) 0 17
    let tgt := s.regFld (p + 0x4C) 0 17
    let n := if pace < tgt then min tgt (pace + step) else max tgt (pace - step)
    .next ((s.setGrp site g { s.grp site g with paceK := k % 40 }).setNat (p + 0x48) n)
  else .next s

end Sys2Proof.Machine
end

