-- ==== Sys2Proof/Machine/Clapper.lean ====
section
/-!
DEFINITION. Machine/Clapper.lean: the clapper (02 R34 to R38, R483): its servo, PTP, PPS and holdover.
-/
namespace Sys2Proof.Machine

def clkPage : Nat := pg 8 1

/-- SOURCE of CLK_CFG: 0 FREE, 1 PTP, 2 PPS. -/
def State.clkSource (s : State) : Nat := s.regFld (clkPage + 0x40) 0 2
/-- LOCK of CLK_STATUS: 0 FREE, 1 ACQUIRING, 2 LOCKED, 3 HOLDOVER. -/
def State.clkLock (s : State) : Nat := s.regFld (clkPage + 0x44) 0 2

/-- Write the clapper's servo record. -/
def State.setClk (s : State) (c : Clk) : State := { s with clk := c }

/-- Change LOCK, with its event; HOLDOVER starts its count (02 R38). -/
def State.setLock (s : State) (l : Nat) : State :=
  if s.clkLock = l then s
  else
    let s1 := (s.putFld (clkPage + 0x44) 0 2 l).putFld (clkPage + 0x44) 16 16 0
    let s2 := s1.setClk { s1.clk with holdAt := if l = 3 then some s.now else none }
    ((s2.evtIf (l == 2) clkPage 0).evtIf (l == 3) clkPage 1).evtIf (l == 0) clkPage 2

/-- Enter ACQUIRING (02 R36): the runs of measurements start over. -/
def State.acquire (s : State) : State :=
  let s1 := s.setLock 1
  s1.setClk { s1.clk with good := 0, overs := 0 }

/-- An armed CLAPPER action that a forward step has passed is late (02 R45). -/
def Armed.stepped (a : Armed) (ns : Nat) : Armed :=
  if a.at_.kind = 3 ∧ a.late = false ∧ a.at_.value * 1000 ≤ ns then { a with late := true, lateAt := ns / 1000 + 1 } else a

/-- Load the clapper: a step (02 R36, R37, R45). Times taken before it no longer count. -/
def State.stepClapper (s : State) (t : Nat) : State :=
  let ns := t / 2 ^ 24
  let s1 : State := { s with clapper := t }
  let s2 : State := { s1 with cevs := s1.cevs.map (fun (p : Nat × Armed) => (p.1, p.2.stepped ns)) }
  let s3 : State := { s2 with segArms := s2.segArms.map (fun (p : Nat × Armed) => (p.1, p.2.stepped ns)) }
  let s4 : State := { s3 with slots := s3.slots.map (fun (p : Nat × Slot) => (p.1, if p.2.cross then p.2 else { p.2 with arm := p.2.arm.stepped ns })) }
  (s4.setClk { s4.clk with good := 0, sync := none, t1t2 := none, t3 := none, ppsSec := ns / 10 ^ 9 }).evt clkPage 3

/-- Slew towards the source: INCR is what the servo wants, within RATE_BOUND (02 R36), SATURATED where it would leave
it. -/
def State.slew (s : State) (off : Int) : State :=
  let nom : Int := 0x28000000
  let bound : Int := (0x28000000 * (s.reg (clkPage + 0x68)).toNat / 10 ^ 9 : Nat)
  let want := Config.servoIncr off (s.reg (clkPage + 0x64)).toNat
  let d := satInt bound (want - nom)
  let sat := d != want - nom
  let s1 := (s.setReg (clkPage + 0x64) (BitVec.ofInt 32 (nom + d))).evtIf (sat && !s.regBit (clkPage + 0x44) 2) clkPage 9
  s1.putBit (clkPage + 0x44) 2 sat

/-- A clapper time `off` ns earlier, never before 0. -/
def clapperLess (t : Nat) (off : Int) : Nat := ((t : Int) - off * 2 ^ 24).toNat

/-- One measurement of the offset from the source, in ns (02 R36, R38, R483). -/
def State.measure (s : State) (off : Int) : State :=
  let s0 := s.setReg (clkPage + 0x6C) (wordOfInt (satInt (2 ^ 31 - 1) off))
  let s1 := if s0.clkLock = 3 ∨ s0.clkLock = 0 then s0.acquire else s0
  let big := decide ((s1.reg (clkPage + 0x70)).toNat < off.natAbs)
  if s1.clkLock = 1 then
    if big then s1.stepClapper (clapperLess s1.clapper off)
    else
      let s2 := s1.slew off
      let good := if off.natAbs ≤ 1000 ∧ s2.regBit (clkPage + 0x44) 2 = false then s2.clk.good + 1 else 0
      let s3 := s2.setClk { s2.clk with good := good, overs := 0 }
      if 16 ≤ good then s3.setLock 2 else s3
  else
    let s2 := s1.slew off
    let overs := if big then s2.clk.overs + 1 else 0
    let s3 := s2.setClk { s2.clk with overs := overs }
    if 3 ≤ overs then s3.acquire else s3

/-- Whether a PTP message is one the clapper listens to (02 R35): PTP is the source, Ethernet is up, the port, the transport and the
domain are those of CLK_CFG. PROFILE changes no value the manual states (log 24). -/
def State.ptpHears (s : State) (port transport domain : Nat) : Bool :=
  s.clkSource == 1 && s.mainOk && port == s.regFld (clkPage + 0x40) 2 1 && transport == s.regFld (clkPage + 0x40) 4 1 &&
    domain == s.regFld (clkPage + 0x40) 8 8

/-- Whether a message comes from the best master (02 R35). -/
def State.fromMaster (s : State) (m : PtpMsg) : Bool :=
  s.ptpHears m.port m.transport m.domain && (match s.clk.best with | some b => b.gm == m.gm | none => false)

/-- The logSyncInterval values that are accepted (02 R35). -/
def syncAccepted (m : PtpMsg) : Bool := decide (-7 ≤ m.logSync) && decide (m.logSync ≤ 1)

/-- 2^k seconds in 5 ns samples, for a message interval's logarithm k (02 R35). -/
def logInterval (k : Int) : Nat := if 0 ≤ k then 200000000 * 2 ^ k.toNat else 200000000 / 2 ^ (-k).toNat

/-- A Sync complete with its origin time: with a delay known it is a measurement (02 R36). -/
def State.synced (s : State) (t1 : Int) (t2 : Nat) : State :=
  let s1 := s.setClk { s.clk with sync := none, t1t2 := some (t1.toNat, t2) }
  match s1.clk.delay with
  | some d => s1.measure ((t2 : Int) - t1 - d)
  | none => s1

/-- PTP_SYNC (02 R35, R36): a Sync of the best master; a two-step one waits for its Follow_Up. -/
def execPtpSync (m : PtpMsg) (s : State) : Host.Outcome State Fault Refusal :=
  if s.fromMaster m = true ∧ syncAccepted m = true then
    if m.twoStep then .next (s.setClk { s.clk with sync := some (m, s.ns) })
    else .next (s.synced ((m.originNs : Int) + m.corrNs) s.ns)
  else .next s

/-- PTP_FOLLOW_UP (02 R35): the precise time of the Sync of the same sequence. -/
def execPtpFollowUp (m : PtpMsg) (s : State) : Host.Outcome State Fault Refusal :=
  match s.clk.sync with
  | some (y, t2) =>
    if s.fromMaster m = true ∧ y.seq = m.seq ∧ y.gm = m.gm then .next (s.synced ((m.originNs : Int) + m.corrNs + y.corrNs) t2) else .next s
  | none => .next s

/-- Whether a Delay_Req may be sent now (02 R35): a master is heard, and its logMinDelayReqInterval has passed since the last one. -/
def State.delayReqDue (s : State) : Bool :=
  s.clkSource == 1 && s.mainOk && s.clk.best.isSome &&
    (match s.clk.reqAt with | some t => decide (t + logInterval s.clk.minDelay ≤ s.now) | none => true)

/-- DELAY_REQ (02 R35): sent at the master's interval; its send time and its sequence number are kept. -/
def execDelayReq (s : State) : Host.Outcome State Fault Refusal :=
  if s.delayReqDue then
    .next ((s.setClk { s.clk with t3 := some s.ns, reqSeq := s.clk.nextSeq, nextSeq := (s.clk.nextSeq + 1) % 2 ^ 16, reqAt := some s.now }).emit
      (.ptpDelayReq (s.regFld (clkPage + 0x40) 2 1) s.clk.nextSeq s.ns))
  else .next s

/-- Whether a Delay_Resp answers the Delay_Req that waits (02 R35): the master's, with the request's sequence number, to this port. -/
def State.answersReq (s : State) (m : PtpMsg) : Bool := s.fromMaster m && m.toUs && m.seq == s.clk.reqSeq

/-- PTP_DELAY_RESP (02 R35): the mean path delay and the master's logMinDelayReqInterval; the first one completes the waiting Sync's
measurement. -/
def execPtpDelayResp (m : PtpMsg) (s : State) : Host.Outcome State Fault Refusal :=
  match s.clk.t3, s.clk.t1t2 with
  | some t3, some (t1, t2) =>
    if s.answersReq m then
      let t4 : Int := (m.originNs : Int) - m.corrNs
      let d : Int := (((t2 : Int) - t1) + (t4 - t3)) / 2
      let s1 := s.setClk { s.clk with t3 := none, delay := some d, minDelay := m.logMinDelay }
      match s.clk.delay with
      | none => .next (s1.measure ((t2 : Int) - t1 - d))
      | some _ => .next s1
    else .next s
  | _, _ => .next s

/-- The order of the default best-master algorithm (02 R35): smaller is better, field by field. -/
def betterMaster (a b : PtpAnnounce) : Bool :=
  let x := [a.prio1, a.cls, a.acc, a.var, a.prio2, a.gm, a.steps]
  let y := [b.prio1, b.cls, b.acc, b.var, b.prio2, b.gm, b.steps]
  decide (x < y)

/-- A grandmaster identity's octets `lo`, `lo`+1, `lo`+2, `lo`+3 with the first in [7:0] (02 GM_ID); octet 0 is the most
significant of the number that is compared. -/
def gmWord (gm lo : Nat) : Nat :=
  let o (i : Nat) : Nat := gm / 256 ^ (7 - (lo + i)) % 256
  o 0 + o 1 * 2 ^ 8 + o 2 * 2 ^ 16 + o 3 * 2 ^ 24

/-- PTP_ANNOUNCE (02 R35, R36): the best-master algorithm; a change of grandmaster enters ACQUIRING. -/
def State.announce (s : State) (a : PtpAnnounce) : State :=
  let fresh := match s.clk.best with | some b => a.gm == b.gm || betterMaster a b | none => true
  if fresh then
    let changed := match s.clk.best with | some b => a.gm != b.gm | none => true
    let s1 := s.setClk { s.clk with best := some a }
    let s2 := ((s1.setNat (clkPage + 0x74) (gmWord a.gm 0)).setNat (clkPage + 0x78) (gmWord a.gm 4)).setNat (clkPage + 0x7C)
      (a.utc % 2 ^ 16 + (if a.utcValid then 2 ^ 16 else 0))
    if changed then (s2.setClk { s2.clk with sync := none, t1t2 := none, t3 := none, delay := none }).acquire else s2
  else s

def execPtpAnnounce (a : PtpAnnounce) (s : State) : Host.Outcome State Fault Refusal :=
  if s.ptpHears a.port a.transport a.domain then .next (s.announce a) else .next s

/-- The disciplining source is lost (02 R38): HOLDOVER at the last servo rate. -/
def State.sourceLost (s : State) : State := if s.clkLock = 1 ∨ s.clkLock = 2 then s.setLock 3 else s

/-- ANNOUNCE_RECEIPT_TIMEOUT (02 R38). -/
def execAnnounceReceiptTimeout (s : State) : Host.Outcome State Fault Refusal :=
  if s.clkSource = 1 then .next ((s.setClk { s.clk with best := none, sync := none, t1t2 := none, t3 := none, delay := none }).sourceLost) else .next s

/-- The distance in ns of the clapper's nanosecond field from the nearest whole second (02 R36). DESIGN CHOICE (log 24): exactly half
a second from both, it is measured from the earlier one, +500 000 000 ns; the rule names the nearest whole second alone. -/
def secDistance (ns : Nat) : Int :=
  let r : Nat := ns % 10 ^ 9
  if 5 * 10 ^ 8 < r then (r : Int) - 10 ^ 9 else r

/-- PPS_IN_EDGE (02 R36, R37): an edge is a measurement when SOURCE is PPS. -/
def execPpsInEdge (s : State) : Host.Outcome State Fault Refusal :=
  let s1 := (s.setClk { s.clk with lastPps := some s.now }).putBit (clkPage + 0x44) 3 true
  if s.clkSource = 2 then .next (s1.measure (secDistance s.ns)) else .next s1

/-- PPS_MISSING (02 R38): no edge 1.5 s after the previous one. -/
def execPpsMissing (s : State) : Host.Outcome State Fault Refusal :=
  match s.clk.lastPps with
  | some t =>
    if t + 300000000 ≤ s.now then
      let s1 := s.putBit (clkPage + 0x44) 3 false
      .next (if s.clkSource = 2 then s1.sourceLost else s1)
    else .next s
  | none => .next s

/-- HOLDOVER_MAX in 5 ns samples (02 R38). -/
def State.holdoverMax (s : State) : Nat :=
  let h := s.regFld (clkPage + 0x40) 24 8
  (if h = 0 then 600 else h * 10) * 200000000

/-- HOLDOVER_MAX_EXPIRE (02 R38): LOCK becomes FREE, the rate stays. -/
def execHoldoverMaxExpire (s : State) : Host.Outcome State Fault Refusal :=
  match s.clk.holdAt with
  | some t => if s.clkLock = 3 ∧ t + s.holdoverMax ≤ s.now then .next (s.setLock 0) else .next s
  | none => .next s

/-- PPS_OUT (02 R37): the output rises at each whole second of the clapper. -/
def execPpsOut (s : State) : Host.Outcome State Fault Refusal :=
  let sec := s.ns / 10 ^ 9
  if s.clk.ppsSec ≠ sec then .next ((s.setClk { s.clk with ppsSec := sec, ppsHigh := some s.now }).emit (.ppsRise sec)) else .next s

/-- CLK_CMD.SET (02 R37): loads the clapper at once, a step; rejected while SOURCE is PTP. -/
def State.clkSet (s : State) (req : Nat) (val : Word) : State :=
  if bitOf val 0 = false then s
  else if s.clkSource = 1 then s.reject req clkPage 0x60 5
  else
    let sec := (s.reg (clkPage + 0x58)).toNat + s.regFld (clkPage + 0x5C) 0 16 * 2 ^ 32
    s.stepClapper ((sec * 10 ^ 9 + (s.reg (clkPage + 0x54)).toNat) * 2 ^ 24)

def execClkCmdSet (req : Nat) (val : Word) (s : State) : Host.Outcome State Fault Refusal :=
  .next (s.asWrite 0x02 req 8 1 0x60 (fun s => s.clkSet req val))

/-- CLK_CFG_WRITE (02 R36, R37): a change of SOURCE enters ACQUIRING, or FREE with nominal INCR; a change of source, port
or domain starts PTP over. -/
def State.clkCfg (s : State) (req : Nat) (val : Word) : State :=
  match findReg 0x02 0x40 with
  | none => s
  | some r =>
    match staticReason r val with
    | some why => s.reject req clkPage 0x40 why
    | none =>
      if s.isMember = true ∧ fld val 0 2 ≠ s.clkSource then s.reject req clkPage 0x40 5 else
      let old := s.reg (clkPage + 0x40)
      let new := maskedWrite r old val
      let s1 := s.setReg (clkPage + 0x40) new
      let s2 := if fld old 0 3 ≠ fld new 0 3 ∨ fld old 8 8 ≠ fld new 8 8 then s1.setClk { s1.clk with sync := none, t1t2 := none, t3 := none, delay := none, best := none } else s1
      if fld old 0 2 = fld new 0 2 then s2
      else if fld new 0 2 = 0 then ((s2.setLock 0).setNat (clkPage + 0x64) 0x28000000).putBit (clkPage + 0x44) 2 false
      else s2.acquire

def execClkCfgWrite (req : Nat) (val : Word) (s : State) : Host.Outcome State Fault Refusal :=
  .next (s.asWrite 0x02 req 8 1 0x40 (fun s => s.clkCfg req val))

end Sys2Proof.Machine
end

