-- ==== Sys2Proof/Machine/Gaffer.lean ====
section
/-!
DEFINITION. Machine/Gaffer.lean: the energy account, clocks, heat and GAFFER_CAP (19), and the regulators' answers
(04 R74, R75).
-/
namespace Sys2Proof.Machine

def gafPage : Nat := pg 8 7
/-- The die power page of a compute site. -/
def dpPage (site : Nat) : Nat := pg site 0x0B

/-- E_CAP in nJ: PKG_BUDGET × BURST_MS (19 R390). -/
def State.eCap (s : State) : Int := (s.reg (gafPage + 0x40)).toNat * (s.reg (gafPage + 0x48)).toNat * 1000000

/-- Set the account and its register, in whole mJ, saturating (19 Control). -/
def State.setEacc (s : State) (x : Int) : State :=
  ({ s with gaffer := { s.gaffer with eAcc := x } }).setReg (gafPage + 0x50) (wordOfInt (satInt (2 ^ 31 - 1) (x / 1000000)))

/-- ENERGY_TICK (19 R390): every 10 µs, with the package's estimated energy and each compute die's share of it, in nJ. -/
def execEnergyTick (e : Energy) (s : State) : Host.Outcome State Fault Refusal :=
  if s.mainOk = true ∧ s.gaffer.running = true then
    let s1 := s.setEacc (min s.eCap (s.gaffer.eAcc + (s.reg (gafPage + 0x40)).toNat * 10000 - e.pkg))
    let dieNj := [0, 1, 2, 3].foldl (fun l c => tabPut 0 l c (tabGet 0 l c + e.dies.getD c 0)) s1.gaffer.dieNj
    .next { s1 with gaffer := { s1.gaffer with tickNj := s1.gaffer.tickNj + e.pkg, dieNj := dieNj, ticks := s1.gaffer.ticks + 1 } }
  else .next s

/-- PKG_BUDGET_WRITE (19 R389, R390): a write of PKG_BUDGET (0x40) or BURST_MS (0x48) within its limits refills E_ACC to
E_CAP. STREAM_W and TAKE_W are in 0.1 W. -/
def State.budgetWrite (s : State) (req off : Nat) (val : Word) : State :=
  let w := fld val 0 10
  if off = 0x40 then
    if asmBudget s.asm < w ∨ powLe s.streamUw (w * 1000000, 1) = false ∨ powLe (powAdd s.streamUw s.takeUw) (2 * w * 1000000, 1) = false then s.reject req gafPage 0x40 3
    else let s1 := s.setNat (gafPage + 0x40) w; s1.setEacc s1.eCap
  else
    if w < 10 ∨ 1000 < w then s.reject req gafPage 0x48 3
    else let s1 := s.setNat (gafPage + 0x48) w; s1.setEacc s1.eCap

def execPkgBudgetWrite (req off : Nat) (val : Word) (s : State) : Host.Outcome State Fault Refusal :=
  .next (s.asWrite 0x0C req 8 7 (if off = 0x40 then 0x40 else 0x48) (fun s => s.budgetWrite req off val))

/-- GAFFER_CAP for a stage held at f MHz (19 R398): 60 000 000 mHz at or above its floor, else R_max × f ÷ f_floor rounded
down to 1 mHz, 0 while its die is tripped. -/
def stageCap (s : State) (die rmax floor : Nat) : Nat :=
  let f := s.regFld (dpPage die + 0x44) 0 12
  if s.regBit (dpPage die + 0x94) 1 then 0
  else if floor ≤ f then 60000000 else rmax * 1000 * f / floor

/-- Write every gate's GAFFER_CAP (19 R398), with CAP_CHANGE when one changes. -/
def State.writeCaps (s : State) : State :=
  [9, 11].foldl (fun s site => if s.isField site then
    (List.range 8).foldl (fun s g =>
      let cap := (s.gateStages site g).foldl (fun c st => min c (stageCap s st.1 st.2.1 st.2.2)) 60000000
      if (s.reg (pg site (0x70 + g) + 0x58)).toNat = cap then s
      else (s.setNat (pg site (0x70 + g) + 0x58) cap).evt gafPage 5) s
    else s) s

/-- T_DIE in 1/16 °C: the hottest of a die's 16 sensors (19). -/
def tDie (s : State) (site : Nat) : Int :=
  (List.range 16).foldl (fun m k => max m ((BitVec.ofNat 16 (s.regFld (dpPage site + 0x50 + 4 * k) 0 16)).toInt)) (-32768)

/-- Record sensor readings, 1/16 °C. -/
def State.setTemps (s : State) (site : Nat) (ts : List Int) : State :=
  (List.range 16).foldl (fun s k => match ts[k]? with
    | some t => s.setNat (dpPage site + 0x50 + 4 * k) (BitVec.ofInt 16 t).toNat
    | none => s) s

/-- Set a status bit with its event on a rising edge, on the die page and the gaffer page (19 R399). -/
def State.dpBit (s : State) (site b evb gevb : Nat) (on : Bool) : State :=
  let p := dpPage site
  let rise := on && !s.regBit (p + 0x94) b
  (((s.putBit (p + 0x94) b on).evtIf rise p evb)).evtIf (rise && decide (gevb < 32)) gafPage gevb

/-- The voltage that a clock needs, by the die's fused table (19). -/
def voltsFor (f : Nat) : Nat := vfTable ((f - 400) / 25)

/-- Whether a die's acknowledged voltage supports a clock, 20 µs after the acknowledgement (19 R393). -/
def State.voltsOk (s : State) (site f : Nat) : Bool :=
  decide (voltsFor f ≤ s.regFld (dpPage site + 0x48) 0 10) && (s.avsAt site).all (fun at_ => decide (at_ + 4000 ≤ s.now))

/-- The device issues an AVSBus command on a rail (04 R74). -/
def State.avsSend (s : State) (rail : Nat) (c : AvsCmd) : State :=
  { s with gaffer := { s.gaffer with avsUsed := s.gaffer.avsUsed || (match c with | .voltageWrite _ => true | _ => false) } }.emit (.avs rail c)

/-- A die's clock after a tick (19 R393): a lower clock is switched at once and its voltage written after; a higher one is switched
once a voltage that supports it was acknowledged 20 µs ago, the voltage being written first. -/
def State.clockTo (s : State) (site next : Nat) : State :=
  let p := dpPage site
  let f := s.regFld (p + 0x44) 0 12
  let hold := s.regBit (p + 0x94) 5
  let switch (s : State) : State := { s.setMhz site next with gaffer := { s.gaffer with raise := tabDrop site s.gaffer.raise } }
  if next = f then { s with gaffer := { s.gaffer with raise := tabDrop site s.gaffer.raise } }
  else if next < f then (if hold then switch s else (switch s).avsSend site (.voltageWrite (voltsFor next)))
  else if s.voltsOk site next then switch s
  else { s with gaffer := { s.gaffer with raise := tabPut 0 s.gaffer.raise site next } }.avsSend site (.voltageWrite (voltsFor next))

/-- Clocks whose voltage has settled are raised (19 R393); GAFFER_CAP follows (R398). -/
def State.raiseClocks (s : State) : State :=
  s.gaffer.raise.foldl (fun s x => if s.siteUp x.1 = true ∧ s.regBit (dpPage x.1 + 0x94) 1 = false ∧ s.voltsOk x.1 x.2 = true then (s.clockTo x.1 x.2).writeCaps else s) s

/-- One die at a gaffer tick (19 R393 to R396, R399; 04 R75): the power loop's clock within floor and want, held by the protections as
they stand, then the thermal limit for the next tick, as the worked example of 19 has it. SATURATED shows whether the loop's own clock, before it is held within floor and want, lies below the floor;
POLICY_OVERRIDDEN whether throttling holds the clock below the floor, or AVS_HOLD holds it. -/
def State.gafferDie (s : State) (site : Nat) : State :=
  let p := dpPage site
  if s.siteUp site = false ∨ s.regBit (p + 0x94) 1 = true then s
  else
    let f := s.regFld (p + 0x44) 0 12
    let fmin := s.regFld (p + 0x40) 0 12
    let fmax := s.regFld (p + 0x40) 16 12
    let floor := max fmin (s.dieFloor site)
    let take := s.dieTake site
    let t := tDie s site
    let lim0 := (s.reg (p + 0x4C)).toNat
    let want := if take then fmax else floor
    let acc := s.gaffer.eAcc
    let raw := if acc < 0 ∧ take = true then f - 25 else if s.eCap ≤ 4 * acc then f + 25 else f
    let pw := min (max raw floor) (max want floor)
    let hold := s.regBit (p + 0x94) 5
    let next := max 400 (min pw (min lim0 (if hold then 400 else 1600)))
    let s1 := (s.putFld (p + 0x44) 16 12 floor).clockTo site next
    let now := s1.regFld (p + 0x44) 0 12
    let lim := if 1600 ≤ t then max 400 (now - 25) else if t < 1552 then min 1600 (lim0 + 25) else lim0
    let s2 := ((s1.setNat (p + 0x4C) lim).dpBit site 0 0 2 (decide (lim < 1600))).dpBit site 2 3 32 (decide (now < floor))
    let s3 := s2.dpBit site 3 4 32 (decide (raw < floor))
    (s3.dpBit site 4 5 32 (hold || (decide (now < floor) && decide (lim0 < floor)))).putBit (p + 0x94) 6 take

/-- A mean power over a ms in 0.1 W, of an energy in nJ over `ticks` of 10 µs (19). -/
def meanPower (nJ ticks : Nat) : Nat := if ticks = 0 then 0 else satNat 65535 (nJ / (ticks * 1000))

/-- GAFFER_TICK (19 R394, R396, R398): every 1 ms, with each compute die's sensor readings; each regulator's status is read (04 R74). -/
def execGafferTick (temps : List (List Int)) (s : State) : Host.Outcome State Fault Refusal :=
  if s.mainOk = true ∧ s.gaffer.running = true then
    let s1 := [0, 1, 2, 3].foldl (fun s c => if dieAt s.asm c = .compute then
        (((s.setTemps c (temps.getD c [])).gafferDie c).setNat (dpPage c + 0x90) (meanPower (tabGet 0 s.gaffer.dieNj c) s.gaffer.ticks)).avsSend c .statusRead
      else s) s
    let sat := [0, 1, 2, 3].any (fun c => s1.siteUp c && s1.regBit (dpPage c + 0x94) 3)
    let pol := [0, 1, 2, 3].any (fun c => s1.siteUp c && s1.regBit (dpPage c + 0x94) 4)
    let s2 := (s1.setNat (gafPage + 0x4C) (meanPower s.gaffer.tickNj s.gaffer.ticks)).setNat (gafPage + 0x58) (satNat 65535 s1.commitW)
    let s3 := ((s2.putBit (gafPage + 0x5C) 0 sat).evtIf (sat && !s.regBit (gafPage + 0x5C) 0) gafPage 0)
    let s4 := ((s3.putBit (gafPage + 0x5C) 1 pol).evtIf (pol && !s.regBit (gafPage + 0x5C) 1) gafPage 1)
    .next ({ s4 with gaffer := { s4.gaffer with tickNj := 0, dieNj := [], ticks := 0 } }.writeCaps)
  else .next s

/-- TRIP (19 R397): a sensor of a compute die reaches 115 °C; its clocks stop with state kept, GAFFER_CAP reads 0 for the
gates it serves. -/
def execTrip (site : Nat) (temps : List Int) (s : State) : Host.Outcome State Fault Refusal :=
  let p := dpPage site
  if s.present site 0x0B = true ∧ s.typeAt site 0x0B = 0x4C ∧ s.regBit (p + 0x94) 1 = false ∧ temps.any (fun t => decide (1840 ≤ t)) = true then
    let s1 := (s.setTemps site temps).setMhz site 0
    .next ((((s1.dpBit site 1 1 3 true).dpBit site 4 5 1 true).putBit (gafPage + 0x5C) 1 true).writeCaps)
  else .next s

/-- TRIP_CLEAR (19 R397): every sensor reads below 100 °C; the clocks restart at 400 MHz from the same cycle. -/
def execTripClear (site : Nat) (temps : List Int) (s : State) : Host.Outcome State Fault Refusal :=
  let p := dpPage site
  if s.present site 0x0B = true ∧ s.typeAt site 0x0B = 0x4C ∧ s.regBit (p + 0x94) 1 = true ∧ temps.length = 16 ∧ temps.all (fun t => decide (t < 1600)) = true then
    let s1 := (((s.setTemps site temps).setMhz site 400).setNat (p + 0x4C) 400).putBit (p + 0x94) 1 false
    .next (((s1.evt p 2).evt gafPage 4).writeCaps)
  else .next s

/-- A regulator is at fault (04 R75; 19 R399): AVS_FAULT with its rail, and its die held at 400 MHz at once, a protection, until the
next main-domain reset. -/
def State.avsDown (s : State) (rail : Nat) (alert : Bool) : State :=
  let s1 := (s.putBit (pg 8 2 + 0x58) (if alert then 4 + rail else rail) true).evt (pg 8 2) 6
  let s2 : State := { s1 with gaffer := { s1.gaffer with avsTries := tabPut 0 s1.gaffer.avsTries rail 0, raise := tabDrop rail s1.gaffer.raise } }
  if s2.siteUp rail then
    let p := dpPage rail
    let s3 := (s2.putBit (p + 0x94) 5 true).dpBit rail 4 5 1 true
    let s4 := s3.putBit (gafPage + 0x5C) 1 true
    (if 400 < s4.regFld (p + 0x44) 0 12 then (s4.setMhz rail 400).dpBit rail 2 3 32 (decide (400 < s4.regFld (p + 0x44) 16 12)) else s4).writeCaps
  else s2

/-- AVS_FAULT (04 R75): a regulator gives no valid response to three attempts at one frame, or raises its alert. -/
def execAvsFault (rail : Nat) (alert : Bool) (s : State) : Host.Outcome State Fault Refusal :=
  if rail < 4 ∧ dieAt s.asm rail = .compute ∧ s.mainOk = true then .next (s.avsDown rail alert) else .next s

/-- Whether the device could have requested a voltage (04 R74): 0.600 to 0.950 V in 5 mV steps. -/
def avsVolts (mv : Nat) : Bool := decide (600 ≤ mv) && decide (mv ≤ 950) && mv % 5 == 0

/-- AVS_ACK (19 R393; 04 R74, R75): a regulator's slave frame answers a Voltage write. A frame whose CRC fails is no valid response: the
frame is sent again, and the third failure faults the rail. A valid one acknowledges the voltage, and a clock raise may proceed
20 µs later; the status alert is sampled after it. -/
def execAvsAck (rail : Nat) (answer : AvsAnswer) (s : State) : Host.Outcome State Fault Refusal :=
  let mv := answer.mv
  if rail < 4 ∧ dieAt s.asm rail = .compute ∧ s.mainOk = true ∧ s.regBit (dpPage rail + 0x94) 5 = false ∧ avsVolts mv = true then
    let tries := tabGet 0 s.gaffer.avsTries rail + 1
    let put (n : Nat) : State := { s with gaffer := { s.gaffer with avsTries := tabPut 0 s.gaffer.avsTries rail n } }
    if answer.crcOk = false then .next (if 3 ≤ tries then s.avsDown rail false else (put tries).avsSend rail (.voltageWrite mv))
    else
      let s1 := ((put 0).setNat (pg 8 2 + 0x5C + 4 * rail) mv).putBit (pg 8 2 + 0x58) rail false
      let s2 := if s1.siteUp rail then (s1.setNat (dpPage rail + 0x48) mv).setAvsAt rail s.now else s1
      .next (if answer.alert then s2.avsDown rail true else s2.putBit (pg 8 2 + 0x58) (4 + rail) false)
  else .next s

end Sys2Proof.Machine
end

