-- ==== Sys2Proof/Machine/NumOps.lean ====
section
/-!
DEFINITION. Machine/NumOps.lean: the number formats of the neural cores, conversion between them (07 R144, R145) and the
arithmetic of the array and the combine units (07 R142, R143; 08 R166).
-/
namespace Sys2Proof.Machine

/-- The format of a code of R147, for the floating codes. -/
def fmtOf (code : Nat) : Fmt :=
  if code = 2 then e4m3 else if code = 3 then e5m2 else if code = 4 then bf16 else if code = 5 then fp16 else fp32
def isIntFmt (code : Nat) : Bool := code == 0 || code == 1 || code == 7
/-- Bits of an element. -/
def fmtBits (code : Nat) : Nat := if code = 1 then 4 else if code = 0 ∨ code = 2 ∨ code = 3 then 8 else if code = 4 ∨ code = 5 then 16 else 32

/-- A number in flight: an integer, or an FP value with the sign of a NaN's source. -/
inductive Num
  | int (x : Int)
  | flt (x : Fp) (neg : Bool)
  deriving DecidableEq, Repr

/-- Read an element's bits. -/
def numOf (code bits : Nat) : Num :=
  if code = 0 then .int (BitVec.ofNat 8 bits).toInt
  else if code = 1 then .int (BitVec.ofNat 4 bits).toInt
  else if code = 7 then .int (BitVec.ofNat 32 bits).toInt
  else let f := fmtOf code; .flt (fpDecode f bits) (bits / 2 ^ (f.eb + f.mb) % 2 == 1)

def Num.fp : Num → Fp
  | .int x => fpRnd fp32 (fpOfInt x)
  | .flt x _ => x
def Num.isInt : Num → Bool
  | .int _ => true
  | .flt _ _ => false

/-- Saturate to a two's-complement width: the value and whether it saturated. -/
def satBits (w : Nat) (x : Int) : Int × Bool :=
  if x < -2 ^ (w - 1) then (-2 ^ (w - 1), true) else if 2 ^ (w - 1) ≤ x then (2 ^ (w - 1) - 1, true) else (x, false)
def intBits (w : Nat) (x : Int) : Nat := (x % 2 ^ w).toNat

/-- Convert a number to a format under R144: its bits and whether it saturated. -/
def convertNum (code : Nat) (satFin : Bool) (v : Num) : Nat × Bool :=
  if isIntFmt code then
    match v with
    | .int x => let r := satBits (fmtBits code) x; (intBits (fmtBits code) r.1, r.2)
    | .flt .nan _ => (0, false)
    | .flt (.inf neg) _ => (intBits (fmtBits code) (if neg then -2 ^ (fmtBits code - 1) else 2 ^ (fmtBits code - 1) - 1), true)
    | .flt x _ => let r := satBits (fmtBits code) (fpRne x); (intBits (fmtBits code) r.1, r.2)
  else
    let f := fmtOf code
    let (x, nneg) := match v with | .int x => (fpOfInt x, false) | .flt x b => (x, b)
    match x with
    | .nan =>
      if code = 2 then (if nneg then 0xFF else 0x7F, false)
      else if code = 3 then (if nneg then 0xFE else 0x7E, false)
      else (fpNan f, false)
    | .inf neg =>
      if code = 2 then (if neg then 0xFE else 0x7E, true)
      else if code = 3 ∧ satFin = true then (if neg then 0xFB else 0x7B, true)
      else (fpEncode f (.inf neg), false)
    | .fin neg n d =>
      let b := fpRound f neg n d
      let ovf := match fpDecode f b with | .fin _ _ _ => false | _ => true
      if ovf = true ∧ code = 2 then (if neg then 0xFE else 0x7E, true)
      else if ovf = true ∧ code = 3 ∧ satFin = true then (if neg then 0xFB else 0x7B, true)
      else (b, false)

/-- Requantisation (07 R145). -/
def requant (acc bias mult : Int) (shift : Nat) (zp : Int) : Nat × Bool :=
  let y := zp + rneDiv ((acc + bias) * mult) (2 ^ (31 + shift))
  let r := satBits 8 y
  (intBits 8 r.1, r.2)

/-- Whether an activation and weight format may enter the array, with K₀, tile bytes, cycles a row and L_w (07 R140). -/
def pairing (fa fw : Nat) : Option (Nat × Nat × Nat × Nat) :=
  if fa = 0 ∧ fw = 0 then some (16, 1024, 1, 16)
  else if (fa = 2 ∨ fa = 3) ∧ (fw = 2 ∨ fw = 3) then some (16, 1024, 1, 16)
  else if fa = 0 ∧ fw = 1 then some (32, 1024, 1, 16)
  else if (fa = 4 ∧ fw = 4) ∨ (fa = 5 ∧ fw = 5) then some (16, 2048, 4, 32)
  else none

/-- FP32 sum of bits with one rounding, any NaN canonical (07 R143). -/
def addF (a b : Nat) : Nat := fpEncode fp32 (fpAdd (fpDecode fp32 a) (fpDecode fp32 b))

/-- A balanced binary tree over a list, pairing neighbours: `d` halvings. -/
def pairUp (f : Nat → Nat → Nat) : List Nat → List Nat
  | a :: b :: rest => f a b :: pairUp f rest
  | l => l
def treeFold (f : Nat → Nat → Nat) : Nat → List Nat → Nat
  | 0, l => l.headD 0
  | d + 1, l => treeFold f d (pairUp f l)

/-- One column's accumulation over one tile: INT32 with saturation at each addition (07 R142), or the fixed tree of 16
products and one addition in FP32 (07 R143). The counts of saturations ride along. -/
def accTile (isInt : Bool) (acc : Nat × Nat) (prods : List Nat) : Nat × Nat :=
  if isInt then
    prods.foldl (fun (a : Nat × Nat) p => let r := satBits 32 ((BitVec.ofNat 32 a.1).toInt + (BitVec.ofNat 32 p).toInt); (intBits 32 r.1, if r.2 then a.2 + 1 else a.2)) acc
  else (addF acc.1 (treeFold addF 4 prods), acc.2)

/-- One product, as 32 bits. -/
def product (fa fw a w : Nat) : Nat :=
  match numOf fa a, numOf fw w with
  | .int x, .int y => intBits 32 (x * y)
  | x, y => fpEncode fp32 (fpMul x.fp y.fp)

/-- A combine node's sum of one entry (08 R166): bits and whether it saturated. -/
def nodeSum (isInt : Bool) (a b : Nat) : Nat × Bool :=
  if isInt then let r := satBits 32 ((BitVec.ofNat 32 a).toInt + (BitVec.ofNat 32 b).toInt); (intBits 32 r.1, r.2) else (addF a b, false)

/-- The output stage of an op or a tree for one entry (07 R144, R145; 08 R166): bias, then requantisation from INT32 to INT8,
else conversion. `bias` is INT32 for an integer accumulator and FP32 otherwise. -/
def outEntry (isInt : Bool) (fo : Nat) (satFin biasEn : Bool) (acc bias : Nat) (mult : Int) (shift : Nat) (zp : Int) : Nat × Bool :=
  let b := if biasEn then bias else 0
  if isInt then
    let a := (BitVec.ofNat 32 acc).toInt
    let bi := (BitVec.ofNat 32 b).toInt
    if fo = 0 then requant a bi mult shift zp
    else convertNum fo satFin (.int (a + bi))
  else convertNum fo satFin (.flt (fpDecode fp32 (if biasEn then addF acc b else acc)) false)

end Sys2Proof.Machine
end

