-- ==== Sys2Proof/Machine/CoreOps.lean ====
section
/-!
DEFINITION. Machine/CoreOps.lean: how a core's sequencer reaches its operands, faults and finishes an op (07 R147, R149 to
R157; 09 R191, R192; 10 R208; 11 R239).
-/
namespace Sys2Proof.Machine

/-- A core fault (07 Control): the page in FAULT with a contained code, the work ends. -/
def State.coreFault (s : State) (site c : Nat) (w : Work) (code : Nat) : State :=
  (s.toFault (corePage site c) code 2).contained w code

/-- A bound fault of a core's access (09 R192): kinds 1 and 8 also record the core's own code. -/
def State.coreBound (s : State) (site c : Nat) (w : Work) (kind addr limit : Nat) : State :=
  let x := s.core site c
  let s1 := if kind = 1 then s.toFault (corePage site c) 0x0101 2 else if kind = 8 then (s.toFault (corePage site c) 0x0102 2).evt (corePage site c) 3 else s
  s1.boundFault site kind 0 c w x.pc addr limit



/-- How an op reaches an operand: a space and base with the bytes it may reach, waiting for a ring, or a broken limit. -/
inductive Place
  | at_ (sp base room : Nat)
  | wait
  | broken (kind addr limit : Nat)
  deriving DecidableEq, Repr

/-- Resolve an operand address of an op (07 R147; 10 R208): `out` names the slot at TAIL. -/
def State.place (s : State) (site c : Nat) (cont : List Byte) (addr : Nat) (out : Bool) : Place :=
  if addr / 2 ^ 31 = 1 then
    let r := addr % 8
    let x := s.sring site c r
    if cRings cont ≤ r then .broken 5 r (cRings cont)
    else if out then
      if s.ringFree site c r = 0 then .wait
      else .at_ x.sp (s.slotAddr site c r (s.ringTail site c r) + addr / 256 % 2 ^ 22 * 256) (x.slotBytes - addr / 256 % 2 ^ 22 * 256)
    else if s.ringCount site c r = 0 then .wait
    else .at_ x.sp (s.slotAddr site c r (s.ringHead site c r) + addr / 256 % 2 ^ 22 * 256) (x.slotBytes - addr / 256 % 2 ^ 22 * 256)
  else .at_ (spCore site c) addr (cCs cont - addr)

/-- Operands of an op: a place and the bytes it spans, with its address as the record spells it. -/
structure Operand where
  addr : Nat := 0
  len : Nat := 0
  out : Bool := false
  deriving DecidableEq, Repr

/-- What checking an op's operands gives. -/
inductive Ready
  | go (places : List (Nat × Nat))
  | wait
  | bound (kind addr limit : Nat)
  | poison (code : Nat)

/-- Check each operand in order (09 R191; 11 R239): ring free or filled, inside its region, not poisoned where it is read. -/
def State.checkOps (s : State) (site c : Nat) (cont : List Byte) : List Operand → Ready
  | [] => .go []
  | o :: os =>
    if o.len = 0 then (match s.checkOps site c cont os with | .go ps => .go ((0, 0) :: ps) | r => r)
    else match s.place site c cont o.addr o.out with
      | .wait => .wait
      | .broken k a l => .bound k a l
      | .at_ sp base room =>
        if room < o.len then .bound (if o.addr / 2 ^ 31 = 1 then 5 else 1) (if o.addr / 2 ^ 31 = 1 then o.addr % 8 else max o.addr (cCs cont)) (if o.addr / 2 ^ 31 = 1 then cRings cont else cCs cont)
        else if o.out = false ∧ s.poisoned sp base o.len = true then .poison (if sp = spCore site c then 0x0103 else 0x0100)
        else match s.checkOps site c cont os with
          | .go ps => .go ((sp, base) :: ps)
          | r => r

/-- Rings that an op's operands release at retirement (not under HOLD), and that its output publishes (10 R208). -/
def opRings (o : Op) : List Nat × List Nat :=
  let rel := ([o.a, o.w, o.param].filter (fun x => x / 2 ^ 31 == 1 && x / 2 ^ 30 % 2 == 0)).map (· % 8)
  (rel.eraseDups, if o.out / 2 ^ 31 = 1 then [o.out % 8] else [])

/-- Epochs an op consumes from its ring operands (10 R221). -/
def State.ringEpochs (s : State) (site c : Nat) (o : Op) : List Nat :=
  ([o.a, o.w, o.param].filter (fun x => x / 2 ^ 31 == 1)).filterMap (fun x => (s.sring site c (x % 8)).epochs.head?)

/-- Finish the work of an op: its wait, if any, is counted, and its own cycles, and the rings it holds; it waits to retire (07 R150). -/
def State.opDone (s : State) (site c cost : Nat) (o : Op) (used : List Nat) : State :=
  let s := s.coreGo site c false
  let x := s.core site c
  let p := corePage site c
  let s1 := s.setCore site c { x with phase := 1, cost := cost, relRings := (opRings o).1, pubRings := (opRings o).2, used := x.used ++ used }
  let conf := match x.work with | some w => s.conf (s.workTenant w) | none => false
  if conf then s1 else (s1.putBit (p + 0x40) 6 (decide (o.code < 0x10))).putBit (p + 0x40) 7 (decide (0x10 ≤ o.code) && decide (o.code < 0x20))

/-- Saturations of an op (07 R142, R144, R157). -/
def State.countSats (s : State) (site c n : Nat) : State := if n = 0 then s else (s.prof site c 7 n).evt (corePage site c) 2

/-- The opcodes of the op set (07 R149). -/
def opCodes : List Nat := [1, 2, 3, 0x10, 0x11, 0x12, 0x13, 0x14, 0x15, 0x16, 0x17, 0x18, 0x19, 0x1A, 0x20, 0x21, 0x22, 0x23, 0x24, 0x25, 0x2F]

/-- Run a core's present op where it has the given opcode: the core is RUNNING, its clock runs, its work goes on, the last op
has retired (07 R150). An opcode outside the op set is BAD_OP (R149). -/
def State.runOp (s : State) (site c code : Nat) (k : State → Work → List Byte → Op → State) : State :=
  let x := s.core site c
  match x.work with
  | none => s
  | some w =>
    match s.workSlate w with
    | none => s
    | some y =>
      let o := opAt y.cont x.loc x.pc
      let live := match w with | .stage _ => y.running && !y.faulted | .take _ _ _ => true
      if s.clocked site = true ∧ c < 64 ∧ s.st (corePage site c) = 2 ∧ x.phase = 0 ∧ live = true ∧ x.pc < opCount y.cont x.loc then
        (if o.code = code then k s w y.cont o else if opCodes.contains o.code then s else s.coreFault site c w 0x0100)
      else s

/-- Run the body of an op on its checked operands, waiting for a slot ring where one lacks a slot (R153); an undefined form is BAD_OP
(07 R149). -/
def State.withOps (s : State) (site c : Nat) (w : Work) (cont : List Byte) (ok : Bool) (ops : List Operand) (k : List (Nat × Nat) → State) : State :=
  if ok = false then s.coreFault site c w 0x0100
  else match s.checkOps site c cont ops with
    | .go ps => k ps
    | .wait => s.coreWait site c
    | .bound kind a l => s.coreBound site c w kind a l
    | .poison code => if code = 0x0103 then (s.consumePoison site 0 0).coreFault site c w code else (s.consumePoison site (pg site 0x0A) code).contained w code

/-- Element `i` of a run of a format at a space's address. -/
def State.elem (s : State) (code : Nat) (pl : Nat × Nat) (byteOff i : Nat) : Nat :=
  if code = 1 then leNat (s.ramGet pl.1 (pl.2 + byteOff + i / 2) 1) / (if i % 2 = 0 then 1 else 16) % 16
  else let n := fmtBits code / 8; leNat (s.ramGet pl.1 (pl.2 + byteOff + i * n) n)

/-- The bytes of a run of elements, INT4 packed two to a byte. -/
def packElems (code : Nat) : List Nat → List Byte
  | [] => []
  | [x] => leBytes (if code = 1 then 1 else fmtBits code / 8) x
  | x :: y :: rest =>
    if code = 1 then leBytes 1 (x % 16 + y % 16 * 16) ++ packElems code rest
    else leBytes (fmtBits code / 8) x ++ leBytes (fmtBits code / 8) y ++ packElems code rest

/-- Write one element at a bit offset from a base, INT4 into its half of a byte (07 R145). -/
def State.putElem (s : State) (code sp base bit v : Nat) : State :=
  let a := base + bit / 8
  if code = 1 then
    let b := leNat (s.ramGet sp a 1)
    s.ramWrite sp a (leBytes 1 (if bit % 8 = 0 then b / 16 * 16 + v % 16 else b % 16 + v % 16 * 16))
  else s.ramWrite sp a (leBytes (fmtBits code / 8) v)

/-- Bytes a run of `n` elements takes. -/
def runBytes (code n : Nat) : Nat := (n * fmtBits code + 7) / 8



/-- Bytes spanned by `rows` rows of `rowBytes` at a stride. -/
def span (rows rowBytes stride : Nat) : Nat := if rows = 0 then 0 else (rows - 1) * stride + rowBytes

/-- The run-time length of a dimension of a core's op `pc`: what L′ leaves of its share (08 R171, R173). -/
def State.runLen (s : State) (w : Work) (cont : List Byte) (loc layer pc : Nat) (o : Op) (dim len : Nat) : Nat :=
  if o.dyn = true ∧ o.dynDim = dim then min len (s.workDyn o.dynIdx w - opOffset cont loc layer pc o dim) else len

/-- PARAM bytes of an op with `n` columns: N bias words, N MULT words where PER_CHANNEL, N SHIFT bytes (07 R147). -/
def paramLen (o : Op) (n : Nat) : Nat := if o.bias = false ∧ o.perCh = false then 0 else 4 * n + (if o.perCh then 5 * n else n)

/-- Bias, MULT and SHIFT of a column. -/
def State.colParam (s : State) (o : Op) (pl : Nat × Nat) (n j : Nat) : Nat × Int × Nat :=
  let wd (i : Nat) : Nat := leNat (s.ramGet pl.1 (pl.2 + 4 * i) 4)
  (if o.bias then wd j else 0, if o.perCh then (BitVec.ofNat 32 (wd (n + j))).toInt else (BitVec.ofNat 32 o.mult).toInt,
    if o.perCh then leNat (s.ramGet pl.1 (pl.2 + 8 * n + j) 1) % 32 else o.shift)

end Sys2Proof.Machine
end

