-- ==== Sys2Proof/Machine/Dailies.lean ====
section
/-!
DEFINITION. Machine/Dailies.lean: the dailies writer and its export sender (06 R125 to R136).
-/
namespace Sys2Proof.Machine



/-- Owner and DEST of a ring, and the sizes of its parts. -/
def State.drOwner (s : State) (d : Nat) : Nat := s.regFld (drPage d + 0x40) 0 4
def State.drNet (s : State) (d : Nat) : Bool := s.regBit (drPage d + 0x44) 0
def State.drWant (s : State) (d : Nat) : Want := if s.drNet d then .ringNet else .ringHost
def State.recBytes (s : State) (d : Nat) : Nat := 2 ^ (s.reg (drPage d + 0x50)).toNat

/-- WATERMARK from what has been delivered (14 R306). -/
def State.showWatermark (s : State) (site k : Nat) : State :=
  let x := s.strm site k
  let lines := s.regFld (drPage (s.ringOf site k) + 0x44) 1 2 != 0
  let w := if s.framesEn site k then
      (match x.dFrame, x.dLine with
       | some f, some l => if lines then some (min f l) else some f
       | f, none => if lines then none else f
       | none, some _ => none)
    else x.dLine
  match w with
  | some v => (s.setNat (pipePage site k + 0x64) (v % 2 ^ 32)).setNat (pipePage site k + 0x68) (v / 2 ^ 32)
  | none => s

/-- What the delivery of a record does (14 R306, R308; 16 R342). -/
def State.delivered (s : State) (d : Nat) (r : DRec) : State :=
  if 32 ≤ d then s
  else
    let site := (s.ringStream d).1
    let k := (s.ringStream d).2
    let p := pipePage site k
    let s1 : State := match r.line with
      | some l => (s.setStrm site k { s.strm site k with dLine := some l }).showWatermark site k
      | none => s
    let s2 : State := match r.frame with
      | some (f, l) =>
        let x := s1.strm site k
        (((s1.setNat (p + 0x70) (f % 2 ^ 32)).setNat (p + 0x74) (f / 2 ^ 32)).setStrm site k { x with
          dFrame := some l, sentF := x.sentF.filter (fun g => decide (f < g.first)), splices := x.splices.filter (fun c => decide (l ≤ c)) }).showWatermark site k
      | none => s1
    if r.stop = true ∧ s2.splState site k ≠ 0 then s2.putBit (strPage site k + 0x80) 8 true else s2



/-- Replace the `bs.length` bytes of a record at an offset. -/
def patch (body : List Byte) (off : Nat) (bs : List Byte) : List Byte := body.take off ++ bs ++ body.drop (off + bs.length)

/-- The layers that a FRAME record names, in layer order, as (offset in the data ring, length): its payload in the export stream
(06 R134). -/
def frameLayers (body : List Byte) : List (Nat × Nat) :=
  ((List.range 5).map (fun i => (leAt body (0x38 + 16 * i) 8, leAt body (0x34 + 16 * i) 4))).filter (fun x => x.2 != 0)

/-- Whether no record of a line at or below a splice line can still come before the STOP record (06 R130; 16 R342): no such line is
being read out, none waits for its LINE record, and no frame that ends there is due or complete. DESIGN CHOICE (log 40): a frame whose
layers need lines beyond the splice is recorded after the restart. -/
def State.stopReady (s : State) (site k line : Nat) : Bool :=
  let x := s.strm site k
  let defs := match x.pipe with | some b => b.layers | none => []
  (match (s.gate site (k / 2)).cur with | some c => !(c.takers.contains k && upToSplice c.line line) | none => true)
    && (s.regFld (drPage (s.ringOf site k) + 0x44) 1 2 == 0 || !x.rows.any (fun r => !r.sent && upToSplice r.line line))
    && !(!defs.isEmpty && x.frames.any (fun f => match f.last with
      | some l => upToSplice l line && (s.frameDue site k f || (f.missing defs).isEmpty)
      | none => false))

/-- Whether a held record may be written now: a STOP record waits for the records it follows. -/
def State.recReady (s : State) (d : Nat) (r : DRec) : Bool :=
  !r.stop || s.stopReady (s.ringStream d).1 (s.ringStream d).2 (r.after.getD (2 ^ 48 - 1))

/-- How one held record goes: written; not yet; no room; or a ring page that does not translate. -/
inductive RecOut
  | wrote (s : State)
  | notYet
  | noRoom
  | page (s : State) (ta : Nat) (w : Walk)

/-- The record message (06 R111): one message for every INT_MOD records. -/
def State.recMessage (s : State) (d : Nat) : State :=
  let p := drPage d
  let x := s.ring d
  let n := x.since + 1
  let s1 := (s.putBit (p + 0x10) 0 true).showPend p
  if s.regFld (p + 0x70) 0 16 ≤ n then
    let s2 := s1.setRing d { x with since := 0, firstAt := none }
    if s.regBit (p + 0x14) 0 then s2.msix (s.drOwner d) (32 + d) else s2
  else s1.setRing d { x with since := n, firstAt := some (x.firstAt.getD s.now) }

/-- Place a record's payload in the data ring, unless it has been placed before. -/
def State.placePayload (s : State) (d : Nat) (r : DRec) : Option (Nat × State) :=
  match r.placed with
  | some off => some (off, s)
  | none => if r.payload.isEmpty then some (0, s) else s.allocData d r.payload.length

/-- The record's last words, once its bytes stand in the ring (06 R111, R134, R137): under DEST = NET it waits for its acknowledgement,
otherwise it is delivered. `parts` are its bytes' places, `recTo` REC_TAIL after it, `wrap` whether the record ring came round. -/
def State.recWritten (s : State) (d : Nat) (r : DRec) (parts : List (Nat × Nat)) (pays : List Nat) (seq recTo : Nat) (wrap : Bool) : State :=
  let x := s.ring d
  let x2 : DRing := { x with seq := seq, phase := if wrap then !x.phase else x.phase }
  if s.drNet d then
    let upTo := x2.total + parts.foldl (fun n y => n + y.2) 0
    (s.setRing d { x2 with total := upTo, spans := x2.spans ++ [{ stop := upTo, parts := parts, pays := pays, recTo := recTo, held := r }] }).recMessage d
  else ((s.setRing d x2).delivered d r).recMessage d

/-- Write one record: its payload first, a PAD before a FRAME that would not fit, SEQ, then the record (06 R125, R126). Where a page does
not translate the writer keeps its position in the held record (11 R233). -/
def State.writeRec (s : State) (d : Nat) (r : DRec) (rs : List DRec) : RecOut :=
  let p := drPage d
  let body0 := if r.stop then s.stopRec d else r.body
  let units := body0.length / 64
  let ring := s.recBytes d / 64
  let tail := (s.reg (p + 0x60)).toNat
  let pad := if tail % ring + units ≤ ring then 0 else 1
  if s.recReady d r = false then .notYet
  else if s.recFree d < units + pad then .noRoom
  else
    let t := s.drOwner d
    let want := s.drWant d
    match s.placePayload d r with
    | none => .noRoom
    | some (off, s0) =>
      let hold (s1 : State) (done : Nat) : State :=
        s1.setRing d { s1.ring d with queue := { r with placed := if r.payload.isEmpty then none else some off, done := done } :: rs }
      let at0 := s.wide (p + 0x54) + off
      let w1 := s0.taWrite t want (at0 + r.done) (r.payload.drop r.done)
      match w1.2 with
      | some (ta, w) => .page (hold w1.1 (ta - at0)) ta w
      | none =>
        let seq := (s.ring d).seq
        let body1 := if r.payload.isEmpty then body0 else patch body0 r.offAt (leBytes 8 off)
        let padRec := if pad = 1 then padTo 64 (leBytes 1 6 ++ [0#8] ++ leBytes 2 1 ++ leBytes 4 seq) else []
        let body := patch body1 4 (leBytes 4 (seq + pad))
        let at_ (u : Nat) := s.wide (p + 0x48) + (tail + u) % ring * 64
        let w2 := w1.1.taWrite t want (at_ 0) padRec
        let w3 := match w2.2 with | none => w2.1.taWrite t want (at_ pad) body | some _ => w2
        match w3.2 with
        | some (ta, w) => .page (hold w3.1 r.payload.length) ta w
        | none =>
          let recTo := (tail + units + pad) % 2 ^ 32
          let s3 := w3.1.setNat (p + 0x60) recTo
          let s4 := if r.stop then s3.draw.draw else s3
          let pays := if r.payload.isEmpty then (if r.frame.isSome then frameLayers body else []) else [(off, r.payload.length)]
          let parts := [(at_ 0, padRec.length), (at_ pad, body.length)] ++ pays.map (fun y => (s.wide (p + 0x54) + y.1, y.2))
          .wrote (s4.recWritten d r (parts.filter (fun y => y.2 != 0)) (pays.map (·.1)) ((seq + pad + 1) % 2 ^ 32) recTo (decide (ring ≤ tail % ring + units + pad)))

/-- A page that stops the writer or the export sender: not present halts the ring with the unit's record (11 R233); a broken check puts
the page in FAULT (11 R231; log 41); a granule under zeroing is waited for. -/
def State.ringPage (s : State) (d ta : Nat) (write : Bool) : Walk → State
  | .absent lvl =>
    let t := s.drOwner d
    ((s.haltUnit t { kind := 3, site := 8, unit := d, ta := ta, write := write, level := lvl, queue := 0xFF } (some (32 + d))).halt (drPage d)).showRing d
  | .bad code => s.toFault (drPage d) code 2
  | _ => s

/-- The writer takes held records in order until one must wait, finds no room or no page (06 R125). -/
def State.writeRecs (s : State) (d : Nat) : List DRec → State
  | [] => (s.setRing d { s.ring d with queue := [] }).showRing d
  | r :: rs =>
    match s.writeRec d r rs with
    | .wrote s1 => s1.writeRecs d rs
    | .notYet => (s.setRing d { s.ring d with queue := r :: rs }).showRing d
    | .noRoom => (s.setRing d { s.ring d with queue := r :: rs }).showRing d
    | .page s1 ta w => s1.ringPage d ta true w

/-- Whether ring d's page lets its writer and its export sender run: they wait while they are halted on a page (11 R233). -/
def State.ringRuns (s : State) (d : Nat) : Bool :=
  s.typeAt 8 (0x80 + d) == 0x09 && s.mainOk && !s.mute && (s.st (drPage d) == 2 || s.st (drPage d) == 3) &&
    !(s.mmu (s.drOwner d)).units.any (fun u => u.kind == 3 && u.unit == d)

def execDailiesWrite (d : Nat) (s : State) : Host.Outcome State Fault Refusal :=
  .next (if s.ringRuns d then s.writeRecs d (s.ring d).queue else s)

/-- The UDP payload of a DATA frame (06 R134). -/
def dataFrameBytes (d pkg psn off : Nat) (again : Bool) (data : List Byte) : List Byte :=
  leBytes 2 0x4B59 ++ leBytes 1 1 ++ leBytes 1 1 ++ leBytes 2 (d + pkg * 64) ++ leBytes 2 (if again then 1 else 0) ++ leBytes 4 psn
    ++ leBytes 2 data.length ++ leBytes 2 0 ++ leBytes 8 off ++ data

/-- Most stream bytes of one frame: the MTU less the IP, UDP and export headers (06 R134). -/
def State.exportMax (s : State) (d : Nat) : Nat := if s.regBit (drPage d + 0x78) 1 then 9000 - 52 else 1500 - 52

/-- A number as `n` bytes, the most significant first: network order. -/
def beBytes (n x : Nat) : List Byte := (leBytes n x).reverse

/-- The Internet checksum of a run of bytes of even length (IPv4, UDP). -/
def ipSum : List Byte → Nat
  | a :: b :: rest => a.toNat * 256 + b.toNat + ipSum rest
  | [a] => a.toNat * 256
  | [] => 0
def ipChecksum (bs : List Byte) : Nat :=
  let x := ipSum bs
  65535 - (x - 1) % 65535 * (if x = 0 then 0 else 1) - (if x = 0 then 0 else 1)

/-- An export frame from its destination address to the end of its payload (06 R134): Ethernet, one 802.1Q tag where VLAN_EN is 1, IPv4
with DF and no options, UDP. What NET_CFG and its neighbours do not name (source address, identification, time to live) is a free value of
the implementation; the frame check sequence is the MAC's (log 72). -/
def State.netFrame (s : State) (d : Nat) (payload : List Byte) : List Byte :=
  let p := drPage d
  let udpLen := payload.length + 8
  let src := (s.reg (p + 0x7C)).toNat
  let dst := (s.reg (p + 0x80)).toNat
  let ip (sum : Nat) : List Byte := [0x45#8] ++ beBytes 1 (s.regFld (p + 0x78) 19 6 * 4) ++ beBytes 2 (udpLen + 20) ++ beBytes 2 (Config.netIpId payload) ++ beBytes 2 0x4000
    ++ beBytes 1 Config.netTtl ++ [17#8] ++ beBytes 2 sum ++ beBytes 4 src ++ beBytes 4 dst
  let udp (sum : Nat) : List Byte := beBytes 2 (s.regFld (p + 0x84) 16 16) ++ beBytes 2 (s.regFld (p + 0x84) 0 16) ++ beBytes 2 udpLen ++ beBytes 2 sum
  let pseudo := beBytes 4 src ++ beBytes 4 dst ++ [0#8, 17#8] ++ beBytes 2 udpLen
  let sum := ipChecksum (pseudo ++ udp 0 ++ payload)
  let tag := if s.regBit (p + 0x78) 2 then beBytes 2 0x8100 ++ beBytes 2 (s.regFld (p + 0x78) 4 12 + s.regFld (p + 0x78) 16 3 * 2 ^ 13) else []
  leBytes 4 (s.reg (p + 0x88)).toNat ++ leBytes 2 (s.regFld (p + 0x8C) 0 16) ++ beBytes 6 (Config.netMac (s.regFld (p + 0x78) 0 1)) ++ tag ++ beBytes 2 0x0800
    ++ ip (ipChecksum (ip 0)) ++ udp (if sum = 0 then 65535 else sum) ++ payload

/-- Bytes of a flow's stream as the rings hold them (06 R136), from `off` on: parts read back one by one. A poisoned line stops the
sender with the line's code, as a broken page does: none leaves the device (11 R239; log 41). -/
def State.readParts (s : State) (d : Nat) : List (Nat × Nat) → Nat → Nat → List Byte × Option (Nat × Walk)
  | [], _, _ => ([], none)
  | (ta, len) :: rest, off, n =>
    if n = 0 then ([], none)
    else if len ≤ off then s.readParts d rest (off - len) n
    else
      let m := min n (len - off)
      let a := s.taRead (s.drOwner d) (s.drWant d) (ta + off) m
      match a.2, s.taPoisoned (s.drOwner d) (s.drWant d) (m / 4096 + 2) (ta + off) m with
      | some e, _ => ([], some e)
      | none, some _ => ([], some (ta + off, .bad 0x0101))
      | none, none => let b := s.readParts d rest 0 (n - m); (a.1 ++ b.1, b.2)

/-- The stream's bytes that stand unacknowledged begin here. -/
def DRing.oldest (x : DRing) : Nat := match x.spans with | y :: _ => y.stop - y.parts.foldl (fun n z => n + z.2) 0 | [] => x.total

/-- Send one frame of the stream: the sender reads its bytes back from the rings (06 R136). -/
def State.sendFrame (s : State) (d : Nat) (again : Bool) (f : Nat × Nat × Nat) : State :=
  let x := s.ring d
  let b := s.readParts d (x.spans.flatMap (·.parts)) (f.2.1 - x.oldest) f.2.2
  match b.2 with
  | some (ta, w) => s.ringPage d ta false w
  | none => s.emit (.etherFrame (s.regFld (drPage d + 0x78) 0 1) (s.netFrame d (dataFrameBytes d s.pkg f.1 f.2.1 again b.1)))

/-- EXPORT_DATA (06 R134, R135): the next frame within the window. -/
def execExportData (d : Nat) (s : State) : Host.Outcome State Fault Refusal :=
  let x := s.ring d
  let n := min (s.exportMax d) (min (x.total - x.sentTo) (x.acked + x.window - x.sentTo))
  if s.ringRuns d = true ∧ s.drNet d = true ∧ 0 < n then
    let f := (x.psn, x.sentTo, n)
    match s.readParts d (x.spans.flatMap (·.parts)) (f.2.1 - x.oldest) n with
    | (_, some (ta, w)) => .next (s.ringPage d ta false w)
    | (_, none) =>
      let s1 := s.setRing d { x with sent := x.sent ++ [f], psn := (x.psn + 1) % 2 ^ 32, sentTo := x.sentTo + n, progress := if x.sent.isEmpty then s.now else x.progress }
      .next (s1.sendFrame d false f)
  else .next s

/-- Records whose last byte is acknowledged are delivered (06 R135); REC_HEAD passes them. -/
def State.ackSpans (s : State) (d upto : Nat) : List Span → State
  | [] => s.setRing d { s.ring d with spans := [] }
  | x :: rest =>
    if x.stop ≤ upto then ((s.setNat (drPage d + 0x64) x.recTo).delivered d x.held).ackSpans d upto rest
    else s.setRing d { s.ring d with spans := x :: rest }

/-- Bytes of the data ring that are still needed under DEST = NET (06 R136; 14 R303): back from its next free byte to the oldest payload of
an unacknowledged or held record or of a frame under way. -/
def State.dataHeld (s : State) (d : Nat) : Nat :=
  let x := s.ring d
  let size := 2 ^ (s.reg (drPage d + 0x5C)).toNat
  let back (off : Nat) : Nat := size - (off + size - x.dnext % size) % size
  let held := x.queue.flatMap (fun r => r.placed.toList ++ (if r.frame.isSome then (frameLayers r.body).map (·.1) else []))
  let y := s.strm (s.ringStream d).1 (s.ringStream d).2
  let defs := match y.pipe with | some b => b.layers | none => []
  let rows (i : Nat) : Bool := (defs.getD i {}).source == 0
  let under := y.frames.flatMap (fun f => (List.range f.layers.length).filterMap (fun i =>
    let l := f.layers.getD i (0, 0, false, false)
    if !l.2.2.2 && (if rows i then f.reserved else l.2.2.1) then some l.1 else none))
  let part := y.parts.filterMap (fun z => if rows z.1 then none else some z.2.1)
  (x.spans.flatMap (·.pays) ++ held ++ (if 32 ≤ d then [] else under ++ part)).foldl (fun n off => max n (back off)) 0

/-- DATA_HEAD under DEST = NET: space is freed on acknowledgement alone, in the order it was taken (06 R136). -/
def State.freeData (s : State) (d : Nat) : State :=
  s.setNat (drPage d + 0x6C) (((s.ring d).dnext + 2 ^ 38 - s.dataHeld d) / 64 % 2 ^ 32)

/-- EXPORT_ACK (06 R135): an ACK of bytes never sent, or of nothing still unacknowledged, is ignored. -/
def execExportAck (d ackPsn window : Nat) (s : State) : Host.Outcome State Fault Refusal :=
  let x := s.ring d
  let first := match x.sent with | f :: _ => f.1 | [] => x.psn
  let ahead := (ackPsn + 2 ^ 32 - first) % 2 ^ 32
  if s.ringRuns d = true ∧ s.drNet d = true ∧ ahead ≤ x.sent.length then
    let rest := x.sent.drop ahead
    let acked := match rest with | f :: _ => f.2.1 | [] => x.sentTo
    let x2 : DRing := { x with sent := rest, acked := acked, window := window % 2 ^ 32 }
    let x3 : DRing := if ahead = 0 then x2 else { x2 with resends := 0, progress := s.now }
    .next ((((s.setRing d x3).ackSpans d acked x.spans).freeData d).showRing d)
  else .next s

/-- EXPORT_RETRY (06 R135): 1 ms without an advance; after 64 resends EXPORT_TIMEOUT. -/
def execExportRetry (d : Nat) (s : State) : Host.Outcome State Fault Refusal :=
  let x := s.ring d
  if s.ringRuns d = true ∧ s.drNet d = true ∧ x.sent ≠ [] ∧ x.progress + 200000 ≤ s.now then
    if 64 ≤ x.resends then .next (s.toFault (drPage d) 0x0101 1)
    else
      let s1 := s.setRing d { x with resends := x.resends + 1, progress := s.now }
      .next ((x.sent.foldl (fun s f => s.sendFrame d true f) s1).evt (drPage d) 2)
  else .next s

end Sys2Proof.Machine
end

