-- ==== Sys2Proof/Machine/GateOps.lean ====
section
/-!
DEFINITION. Machine/GateOps.lean: capturing a line, filling and laying it out, gate faults, retakes and the restart run
(13 R268 to R283; 16 R345 to R353).
-/
namespace Sys2Proof.Machine

/-- Bytes of a pixel in OUT_FMT, and of a row with PLANE_MASK planes of X_COUNT pixels (13 R280). -/
def pixBytes (fmt : Nat) : Nat := if fmt = 2 then 1 else 2
def planeCount (mask : Nat) : Nat := ((List.range 4).filter (fun p => mask / 2 ^ p % 2 == 1)).length
def rowBytes (cfg win : Word) : Nat := planeCount (fld cfg 0 4) * ((fld win 16 16 * pixBytes (fld cfg 4 2) + 63) / 64 * 64)

/-- LINE_BYTES of a stream under its present configuration. -/
def State.lineBytes (s : State) (site k : Nat) : Nat := rowBytes (s.reg (strPage site k + 0x40)) (s.reg (strPage site k + 0x44))

/-- ATTACHED, site, core and ring of ST_DEST, whose physical core number is die × 64 + core (00 Numbering); ROWS of ST_SLOT (13). -/
def State.attached (s : State) (site k : Nat) : Bool := s.regBit (strPage site k + 0x4C) 15
def State.destSite (s : State) (site k : Nat) : Nat := s.regFld (strPage site k + 0x4C) 0 4
def State.destCore (s : State) (site k : Nat) : Nat := s.regFld (strPage site k + 0x4C) 4 8 % 64
def State.destRing (s : State) (site k : Nat) : Nat := s.regFld (strPage site k + 0x4C) 12 3
def State.slotRows (s : State) (site k : Nat) : Nat := s.regFld (strPage site k + 0x50) 0 16

/-- A pass-through ring has no slate: the writer takes each slot as it is published (13 R281; log 31). -/
def State.passThrough (s : State) (site k : Nat) : Bool := s.attached site k && (s.strm site k).rmax.isNone

/-- Free slots of the destination ring: a pass-through ring always has one while its die is up. -/
def State.destFree (s : State) (site k : Nat) : Nat :=
  if s.attached site k = false ∨ s.mainOk = false ∨ s.siteUp (s.destSite site k) = false then 0
  else if s.passThrough site k then 16
  else s.ringFree (s.destSite site k) (s.destCore site k) (s.destRing site k)

/-- The compute dies from the nearest to a field die: those that adjoin it, then the others, the lower site first (01 R11, R14). -/
def adjoins (field die : Nat) : Bool := if field = 9 then die == 1 || die == 3 else die == 0 || die == 2
def nearestDies (field : Nat) : List Nat := [0, 1, 2, 3].filter (fun d => adjoins field d) ++ [0, 1, 2, 3].filter (fun d => !adjoins field d)

/-- Bytes of the gate FIFO in use: the rows that no free slot has room for (13 R282). -/
def State.fifoUsed (s : State) (site g : Nat) : Nat :=
  [2 * g, 2 * g + 1].foldl (fun n k => n + ((s.strm site k).rows.length - s.destFree site k * s.slotRows site k) * s.lineBytes site k) 0

/-- The sensor is ready for a new line (13 R270). -/
def State.sensorReady (s : State) (site g : Nat) : Bool :=
  (match (s.pos site g).lastTrig with
   | some t => decide (t + s.regFld (gatePage site g + 0x58) 0 16 ≤ s.now)
   | none => true) && s.regBit (gatePage site g + 0xA4) 0 && (s.gate site g).cur.isNone &&
    decide (s.fifoUsed site g + ([2 * g, 2 * g + 1].foldl (fun n k => n + if s.active (strPage site k) then s.lineBytes site k else 0) 0) ≤ 393216)

/-- Bytes that one line takes in a gate's FIFO: LINE_BYTES of each running stream, and of stream k itself (13 R270; 14 R297). -/
def State.fifoLine (s : State) (site k : Nat) : Nat :=
  [2 * (k / 2), 2 * (k / 2) + 1].foldl (fun n j => n + if j = k ∨ s.active (strPage site j) = true then s.lineBytes site j else 0) 0

/-- Whole lines that the FIFO has free with `used` of its bytes taken (14 R297). -/
def State.fifoLines (s : State) (site k used : Nat) : Nat := (393216 - used) / max 1 (s.fifoLine site k)

/-- Slots of the entry ring that hold a stripe not yet done: all that are in use but the one held for halo (14 R293). -/
def State.stripesHeld (s : State) (site k halo : Nat) : Nat :=
  let used := s.ringUsed (s.destSite site k) (s.destCore site k) (s.destRing site k)
  let disp := match (s.strm site k).pipe with
    | some b => (match b.stages with | st :: _ => (match s.slate st.1 with | some y => y.disp | none => used) | [] => used)
    | none => used
  if 0 < halo ∧ disp < used then used - 1 else used

/-- HEADROOM of a stream's pipeline, in lines (14 R297); 0 while a stage is faulted or LOST. With the ring and the FIFO empty it is
HOLD_LINES, (SLOTS - 1 - [h > 0]) × H and the FIFO's lines (DEDUCED, log 79). -/
def State.headroomOf (s : State) (site k : Nat) : Nat :=
  let fifo := s.fifoLines site k (s.fifoUsed site (k / 2))
  let x := s.strm site k
  let slots := s.regFld (strPage site k + 0x50) 16 16
  let n := s.slotRows site k
  match x.pipe with
  | none => if s.passThrough site k then (slots - 1) * n - x.rows.length + fifo else 0
  | some b =>
    if b.stages.any (fun st => match s.slate st.1 with | some y => y.state == 3 || y.faulted | none => true) then 0
    else (slots - 1 - (if b.halo = 0 then 0 else 1) - s.stripesHeld site k b.halo) * n - x.rows.length + fifo

/-- Refresh LINE_BYTES and HEADROOM. -/
def State.showStream (s : State) (site k : Nat) : State :=
  (s.setNat (strPage site k + 0x54) (s.lineBytes site k)).setNat (pipePage site k + 0x60) (s.headroomOf site k)

/-- Stream-class B/s that pass-through rings on a die are written at: LINE_BYTES × LINE_RATE_MAX of each stream (13 R282). -/
def State.passBw (s : State) (die : Nat) : Nat :=
  [9, 11, 12, 14].foldl (fun n f => (List.range 16).foldl (fun n k =>
    if dieAt s.asm f = .field ∧ s.passThrough f k = true ∧ s.destSite f k = die then n + s.lineBytes f k * (s.reg (strPage f k + 0x48)).toNat else n) n) 0

/-- Stream-class B/s admitted on a die (10 R213). -/
def State.admitted (s : State) (site : Nat) : Nat :=
  s.slates.foldl (fun n x => if x.2.state = 3 then n else
    n + (List.range x.2.groups.length).foldl (fun m i => if (x.2.groups.getD i {}).site = site then m + x.2.bws.getD i 0 else m) 0) (s.passBw site)
/-- STREAM_ADMIT of every compute die (10). -/
def State.showAdmit (s : State) : State :=
  [0, 1, 2, 3].foldl (fun s d => if dieAt s.asm d = .compute ∧ s.mainOk = true ∧ s.siteUp d = true then s.setNat (pg d 9 + 0x44) (cdiv (s.admitted d) 1000000) else s) s

/-- The slack in ps of a gate's transfers (13 R282): the FIFO's free bytes over its running streams' LINE_BYTES × the least
LINE_RATE_MAX. -/
def State.gateSlack (s : State) (site g : Nat) : Nat :=
  let ks := [2 * g, 2 * g + 1].filter (fun k => s.active (strPage site k))
  let bytes := ks.foldl (fun n k => n + s.lineBytes site k) 0
  let rate := ks.foldl (fun m k => min m (s.reg (strPage site k + 0x48)).toNat) 60000
  if bytes * rate = 0 then 1000000000000 else (393216 - s.fifoUsed site g) * 1000000000000 / (bytes * rate)

/-- Firmware attaches a destination ring to a stream: ST_DEST, ST_SLOT and ATTACHED; or takes it away: DETACHED (13 R281). -/
def State.attach (s : State) (site k die core ring rows slots : Nat) : State :=
  let p := strPage site k
  let s1 := s.setNat (p + 0x4C) (die + (die * 64 + core) * 16 + ring * 2 ^ 12 + 2 ^ 15 + s.pkg * 2 ^ 16)
  (((s1.setNat (p + 0x50) (rows + slots * 2 ^ 16)).evt p 0).showStream site k).showAdmit
def State.detach (s : State) (site k : Nat) : State :=
  let p := strPage site k
  let s1 := (s.setNat (p + 0x4C) 0).setNat (p + 0x50) 0
  ((if s.attached site k then s1.evt p 1 else s1).showStream site k).showAdmit

/-- With no stage loaded for a stream, firmware attaches a pass-through ring on the nearest compute die that is up (13 R281); its
core and its ring are 0, its slots hold 64 rows and are 4 (DESIGN CHOICE, log 31). -/
def State.attachPass (s : State) (site k : Nat) : State :=
  if (s.strm site k).rmax.isSome = true ∨ s.mainOk = false ∨ (s.attached site k = true ∧ s.siteUp (s.destSite site k) = true) then s
  else match (nearestDies site).find? (fun d => dieAt s.asm d == .compute && s.siteUp d) with
    | some d => s.attach site k d 0 0 64 4
    | none => s

/-- A pass-through ring is lost with its compute die (11 R242; log 31). -/
def State.losePass (s : State) (site k : Nat) : State :=
  if s.passThrough site k = true ∧ (s.mainOk = false ∨ s.siteUp (s.destSite site k) = false) then s.detach site k else s

/-- GATE_STATUS's free FIFO in KiB. -/
def State.showFifo (s : State) (site g : Nat) : State := s.putFld (gatePage site g + 0xA4) 16 16 ((393216 - s.fifoUsed site g) / 1024)

/-- The edge table (13 R269): TG_EDGE_0 to 15 and TG_IDLE. -/
def State.tgTable (s : State) (site g : Nat) : List Word :=
  (List.range 16).map (fun i => s.reg (gatePage site g + 0x60 + 4 * i)) ++ [s.reg (gatePage site g + 0xA0)]

/-- Whether output o of a gate is high by its edge table, `t` ticks after the trigger that restarted it (13 R269): TG_IDLE before its
first edge and after the table's last one, else the level of its latest edge. -/
def tgAt (tg : List Word) (o t : Nat) : Bool :=
  let es := (tg.take 16).filter (fun e => bitOf e 19)
  let mine := es.filter (fun e => fld e 16 2 == o && decide (fld e 0 16 ≤ t))
  if es.any (fun e => decide (t ≤ fld e 0 16)) then
    match mine.foldl (fun (b : Option Word) e => match b with | none => some e | some x => if fld x 0 16 ≤ fld e 0 16 then some e else some x) none with
    | some e => bitOf e 18
    | none => bitOf (tg.getD 16 0#32) o
  else bitOf (tg.getD 16 0#32) o

/-- The level of output TGo of a gate now (13 R269, R289): low while MCLK is off, TG_IDLE before the first trigger. -/
def State.tgLevel (s : State) (site g o : Nat) : Bool :=
  if s.regBit (gatePage site g + 0xA4) 1 = false then false
  else match (s.pos site g).lastTrig, (s.gate site g).tg with
    | some t, e :: es => tgAt (e :: es) o (s.now - t)
    | _, _ => bitOf (s.reg (gatePage site g + 0xA0)) o

/-- The configuration a line is captured under (13 R283): GATE_CFG, GATE_PIX, LINE_MIN, RD_WIN, ST_CFG and ST_WIN of both streams,
SYNC_SOL, SYNC_EOL and the edge table. -/
def State.lineCfg (s : State) (site g : Nat) : List Word :=
  let p := gatePage site g
  [s.reg (p + 0x40), s.reg (p + 0x44), s.reg (p + 0x58), s.reg (p + 0x5C),
   s.reg (strPage site (2 * g) + 0x40), s.reg (strPage site (2 * g) + 0x44),
   s.reg (strPage site (2 * g + 1) + 0x40), s.reg (strPage site (2 * g + 1) + 0x44), s.reg (p + 0x48), s.reg (p + 0x4C)] ++ s.tgTable site g

/-- Snapshots that no restart can need any more are dropped (13 R283). -/
def keepSnaps (least : Nat) : List (Nat × List Word × List Nat) → List (Nat × List Word × List Nat)
  | [] => []
  | (f, c, t) :: rest => (f, c, t) :: (if f ≤ least then [] else keepSnaps least rest)

/-- The least line that a retake or a restart may still rescan for a gate's streams; none while both are OFF (13 R283). -/
def State.gateRescan (s : State) (site g : Nat) : Option Nat :=
  [2 * g, 2 * g + 1].foldl (fun m k =>
    if s.st (strPage site k) = 0 then m
    else
      let l := max ((s.strm site k).l0.getD (s.pos site g).line) (s.leastRescan site k)
      match m with | none => some l | some n => some (min n l)) none

/-- The snapshots a gate keeps (13 R283). -/
def State.keptSnaps (s : State) (site g : Nat) : List (Nat × List Word × List Nat) :=
  match s.gateRescan site g with | some l => keepSnaps l (s.gate site g).snaps | none => []

/-- Configurations among snapshots: lines whose takers alone differ share one. -/
def snapCount : List (Nat × List Word × List Nat) → Nat
  | [] => 0
  | (_, c, _) :: rest => (match rest with | (_, d, _) :: _ => if c = d then 0 else 1 | [] => 1) + snapCount rest

/-- Whether the configuration that `t` holds may be the next line's (13 R283): it needs no ninth snapshot. -/
def State.snapRoom (s t : State) (site g : Nat) : Bool :=
  let kept := s.keptSnaps site g
  decide (snapCount kept < 8) || (match kept with | (_, c, _) :: _ => c == t.lineCfg site g | [] => true)

/-- Streams of a gate that would take line L now (13 R268; 16 R346). -/
def State.takersNow (s : State) (site g l : Nat) : List Nat :=
  [2 * g, 2 * g + 1].filter (fun k => s.active (strPage site k) && decide ((s.strm site k).from_ ≤ l))

/-- The first line a stream takes since it left OFF (13; 14 L0). -/
def State.firstLine (s : State) (site k l : Nat) : State :=
  let x := s.strm site k
  if x.l0.isSome then s
  else
    let s1 := s.setStrm site k { x with l0 := some l, layerNext := [] }
    let s2 := ((s1.setNat (pipePage site k + 0x78) (l % 2 ^ 32)).setNat (pipePage site k + 0x7C) (l / 2 ^ 32 % 2 ^ 16)).evt (strPage site k) 2
    if (s.ring (s.ringOf site k)).seq = 0 then s2
    else
      let a := (Config.freeWord s2.free).toNat
      let b := (Config.freeWord (s2.free + 1)).toNat
      (s2.draw.draw).queueRec (s.ringOf site k) { body := gapRec (s.ringOf site k) 2 a b s.tNs s.tSec }

/-- The RESUMED record, and the GAP record of a skip, before the first line a stream takes again (16 R346, R349); its
splice record ends. -/
def State.resumeAt (s : State) (site k l : Nat) : State :=
  let p := strPage site k
  if s.splState site k ≠ 3 ∨ (l ≤ s.splLine site k ∧ s.splLine site k ≠ 2 ^ 48 - 1) then s
  else
    let d := s.ringOf site k
    let sl := s.splLine site k
    let posn : Int := wrapS48 (((s.reg (p + 0x8C)).toNat + s.regFld (p + 0x90) 0 16 * 2 ^ 32 : Nat) : Int)
    let s0 := s.fixStop site k
    let ns := (Config.freeWord s0.free).toNat
    let sec := (Config.freeWord (s0.free + 1)).toNat
    let s1 := (s0.draw.draw).queueRec d { body := spliceRec d sl (s.splCause site k) posn (s.regFld (p + 0x94) 0 16) 1 ns sec }
    let n := (sl + 1) % 2 ^ 48
    let gap := decide (n < l)
    let s2 := if gap then s1.queueRec d { body := gapRec d 1 n (l - 1) s.tNs s.tSec } else s1
    let s3 := (s2.clearSplice site k).evt p 5
    s3.setStrm site k { s3.strm site k with gapTo := if gap then some l else none, priming := false }

/-- RESTART_DONE once every stream of the gate has taken its line again (16). -/
def State.restartDone (s : State) (site g : Nat) : State :=
  let p := pacePage site g
  if s.regBit (p + 0x64) 4 = true ∧ s.splState site (2 * g) = 0 ∧ s.splState site (2 * g + 1) = 0 then (s.putBit (p + 0x64) 4 false).evt p 6 else s

/-- A stream takes a triggered line: L0, the resume records, and the detector (13 R268; 14 R298; 16 R346). -/
def State.takeLine (s : State) (site k : Nat) (row : LRow) : State :=
  let s1 := (s.firstLine site k row.line).resumeAt site k row.line
  let x := s1.strm site k
  let gap := x.gapTo == some row.line
  let s2 := s1.setStrm site k { x with hist := (x.hist.filter (fun r => r.line != row.line)) ++ [row], gapTo := none }
  let fresh := match (s.strm site k).last with | some l => decide (l < row.line) | none => true
  let s3 := if fresh then s2.frameLine site k row.line gap else s2
  let s4 := s3.setStrm site k { s3.strm site k with
    last := if fresh then some row.line else (s.strm site k).last
    frames := (s3.strm site k).frames.map (fun f => if f.first = row.line then { f with pos := row.pos, ns := row.ns, sec := row.sec } else f) }
  if fresh then ((s4.reserve site k).heldAt site k row.line).showPipe site k else s4

/-- Trigger the gate's next line now (02 R31, R44; 13 R268, R269, R283). Where POS already stands at or past the next line's trigger
position, that line is late in its turn and is not skipped (02 R33; log 22). -/
def State.capture (s : State) (site g : Nat) (late : Bool) : State :=
  let x := s.pos site g
  let l := x.line
  let gt := s.gate site g
  let rescan := decide (l < gt.top)
  let e := s.encOf site g
  let pitch := (s.reg (puPage site g + 0x44)).toNat
  let runs := match x.runs with
    | [] => [(0, x.next, pitch)]
    | (f, tp, p) :: rest => if rescan ∨ p = pitch then (f, tp, p) :: rest else (l, x.next, pitch) :: (f, tp, p) :: rest
  let now := (s.lineCfg site g, s.takersNow site g l)
  let old := (gt.snaps.find? (fun t => decide (t.1 ≤ l))).map (·.2)
  let used := if rescan then (match old with | some o => (o.1, o.2.filter (fun k => now.2.contains k)) | none => now) else now
  let snaps := if rescan ∨ old = some now then gt.snaps else (l, now.1, now.2) :: gt.snaps
  let unc := s.regFld (encPage site e + 0x50) 0 16
  let retaken := match (s.grp site g).retake with | some (f, t) => decide (f ≤ l) && decide (l ≤ t) | none => false
  let flags := (if late then 1 else 0) + (if (s.reg (encPage site e + 0x68)).toNat < unc then 16 else 0) + (if retaken then 32 else 0)
  let at_ := wrapS48 (s.encPos site e)
  let cap : Cap := { line := l, trig := s.now, late := late, retaken := retaken, pos := at_, unc := unc, ns := s.tNs, sec := s.tSec, takers := used.2, cfg := used.1 }
  let s1 := s.setGate site g { gt with cur := some cap, late := false, snaps := keepSnaps ((s.gateRescan site g).getD l) snaps, top := max gt.top (l + 1), tg := used.1.drop 10 }
  let nx := tpOf runs (l + 1)
  let s2 := s1.setPos site g { x with line := l + 1, next := nx, below := false, lastTrig := some s.now, runs := runs }
  let p := puPage site g
  let s3 := (((s2.setNat (p + 0x6C) (l % 2 ^ 32)).setNat (p + 0x70) (l / 2 ^ 32 % 2 ^ 16)).setReg (p + 0x64) (wordOfInt (nx / 256))).setNat (p + 0x68) ((nx / 256 / 2 ^ 32) % 2 ^ 16).toNat
  let row : LRow := { line := l, flags := flags, pos := at_, unc := unc, ns := s.tNs, sec := s.tSec }
  let s4 := ((used.2.foldl (fun s k => s.takeLine site k row) s3).restartDone site g).trackPos site e
  if nx / 256 ≤ s.encPos site e then (s4.setGate site g { s4.gate site g with late := true }).evt p 2 else s4

/-- DEPTH in bits, TAPS, PIXELS and PLANES of a captured configuration (13 GATE_CFG). -/
def capDepth (c : List Word) : Nat := 10 + 2 * fld (c.getD 0 0#32) 9 2
def capTaps (c : List Word) : Nat := 2 ^ fld (c.getD 0 0#32) 0 2
def capPixels (c : List Word) : Nat := fld (c.getD 1 0#32) 0 15
def capPlanes (c : List Word) : Nat := fld (c.getD 0 0#32) 12 2 + 1
def capStr (c : List Word) (i : Nat) : Word × Word := (c.getD (4 + 2 * i) 0#32, c.getD (5 + 2 * i) 0#32)

/-- The raw code of a pixel from the accepted bursts (13 R272), if its tap was accepted. -/
def rawPixel (cap : Cap) (p x : Nat) : Option Nat :=
  let taps := capTaps cap.cfg
  match cap.taps.find? (fun t => t.1 == x % taps) with
  | some t => some (t.2.getD (p * (capPixels cap.cfg / taps) + x / taps) 0 % 2 ^ capDepth cap.cfg)
  | none => none

/-- A shading entry of a gate: OFF in [15:0], GAIN in [31:16]. -/
def State.shade (s : State) (site g half i : Nat) : Word := tabGet 0#32 (s.gate site g).shd (half * 65536 + i)
def defective (w : Word) : Bool := w == 0x8000#32

/-- The shading formula (13 R278). -/
def shaded (w : Word) (depth x : Nat) : Nat :=
  let off := (BitVec.ofNat 16 (fld w 0 16)).toInt
  let y := rneDiv (((x : Int) - off) * (fld w 16 16 : Int)) 16384
  min (2 ^ depth - 1) y.toNat

/-- The corrected value of a pixel, if it is neither lost nor defective (13 R274, R278). -/
def State.goodPixel (s : State) (site g : Nat) (cap : Cap) (cfg : Word) (p x : Nat) : Option Nat :=
  match rawPixel cap p x with
  | none => none
  | some r =>
    if bitOf cfg 6 then
      let w := s.shade site g (fld cfg 7 1) (p * 16384 + x)
      if defective w then none else some (shaded w (capDepth cap.cfg) r)
    else some r

/-- The nearest good pixel among a list of columns. -/
def nearest (f : Nat → Option Nat) : List Nat → Option (Nat × Nat)
  | [] => none
  | x :: xs => match f x with
    | some y => some (x, y)
    | none => nearest f xs

/-- A pixel after filling (13 R274, R275); `prev` is the stream's previous emitted line. -/
def State.filledPixel (s : State) (site g : Nat) (cap : Cap) (cfg : Word) (prev : List (Nat × Nat)) (p x : Nat) : Nat :=
  match s.goodPixel site g cap cfg p x with
  | some y => y
  | none =>
    let f := s.goodPixel site g cap cfg p
    let left := nearest f ((List.range x).reverse)
    let right := nearest f ((List.range (capPixels cap.cfg - x)).map (· + x))
    match left, right with
    | some (i, a), some (j, b) => (rneDiv (((j - x) * a + (x - i) * b : Nat) : Int) (j - i)).toNat
    | some (_, a), none => a
    | none, some (_, b) => b
    | none, none => tabGet 0 prev (p * 16384 + x)

/-- A pixel encoded by OUT_FMT (13 R280). -/
def encodePixel (fmt depth y : Nat) : List Byte :=
  if fmt = 0 then leBytes 2 (y * 2 ^ (16 - depth))
  else if fmt = 1 then leBytes 2 y
  else leBytes 1 (min 255 (rneDiv (y : Int) (2 ^ (depth - 8))).toNat)

/-- A captured line as stream `k`'s row and the pixels it carries (13 R274 to R280). -/
def State.buildRow (s : State) (site g k : Nat) (cap : Cap) : List Byte × List (Nat × Nat) :=
  let c := capStr cap.cfg (k % 2)
  let x0 := fld c.2 0 16
  let n := fld c.2 16 16
  let sx := s.strm site k
  let prev := match sx.rows.getLast? with | some r => r.vals | none => sx.prev
  let planes := (List.range 4).filter (fun p => fld c.1 0 4 / 2 ^ p % 2 == 1)
  let rows := planes.map (fun p => (List.range n).map (fun i => (p * 16384 + x0 + i, s.filledPixel site g cap c.1 prev p (x0 + i))))
  let fmt := fld c.1 4 2
  (rows.flatMap (fun r => padTo ((n * pixBytes fmt + 63) / 64 * 64) (r.flatMap (fun v => encodePixel fmt (capDepth cap.cfg) v.2))), rows.flatten)

/-- Record the rows that have become final, in line order (06 R127; 14 R292). -/
def State.recordRows (s : State) (site k : Nat) : List LRow → List LRow × State
  | [] => ([], s)
  | r :: rs =>
    if r.final = false then (r :: rs, s)
    else
      let d := s.ringOf site k
      let rec_ := s.regFld (drPage d + 0x44) 1 2
      let skip := r.sent || rec_ == 0 || (((s.strm site k).lost || (s.strm site k).priming) && decide (r.line ≤ s.watermark site k))
      let s1 := if skip then s
        else s.queueRec d { body := lineRec d r (if rec_ = 2 then r.data.length else 0), payload := if rec_ = 2 then r.data else [], offAt := 0x20, line := some r.line }
      let t := s1.recordRows site k rs
      ({ r with sent := true } :: t.1, t.2)

def State.finalRows (s : State) (site k : Nat) (all : Bool) : State :=
  let x := s.strm site k
  let rows := x.rows.map (fun r => if all then { r with final := true } else r)
  let t := s.recordRows site k rows
  t.2.setStrm site k { t.2.strm site k with rows := t.1 }

/-- Place the leader of a gate's group in back-off, after RELEASE and the streams' return (16 R345, R346, R349). A stream that no splice
has touched takes no line again that it has taken (06 R132). -/
def State.beginRestart (s : State) (site g lr : Nat) : State :=
  let x := s.pos site g
  let runs := match x.runs with
    | [] => [(0, x.next, (s.reg (puPage site g + 0x44)).toNat)]
    | r => r
  let head := runs.headD (0, 0, 0)
  let runs2 := if (s.gate site g).top ≤ lr ∧ head.2.2 ≠ (s.reg (puPage site g + 0x44)).toNat then (lr, tpOf runs lr, (s.reg (puPage site g + 0x44)).toNat) :: runs else runs
  let nx := tpOf runs2 lr
  let s1 := s.setPos site g { x with line := lr, next := nx, below := false, runs := runs2 }
  let pp := puPage site g
  let s2 := (s1.setReg (pp + 0x64) (wordOfInt (nx / 256))).setNat (pp + 0x68) ((nx / 256 / 2 ^ 32) % 2 ^ 16).toNat
  let s3 := ((s2.setNat (pp + 0x6C) ((2 ^ 48 + lr - 1) % 2 ^ 48 % 2 ^ 32)).setNat (pp + 0x70) ((2 ^ 48 + lr - 1) % 2 ^ 48 / 2 ^ 32))
  let spl := fun k => s.splState site k != 0
  let least := if spl (2 * g) ∧ (spl (2 * g + 1) = false ∨ s.splLine site (2 * g) ≤ s.splLine site (2 * g + 1)) then 2 * g else 2 * g + 1
  let rv := (s.reg (pacePage site g + 0x6C)).toNat
  let v : Int := if rv = 0 then ((s.reg (strPage site least + 0xA0)).toInt.natAbs : Int) else rv
  let ext := s.regBit (pacePage site g + 0x40) 2
  let s4 := s3.releaseGroup site g
  let s5 := s4.setGrp site g { s4.grp site g with stage := if ext then 0 else 1, lr := lr, runVel := v }
  let s6 := [2 * g, 2 * g + 1].foldl (fun s k =>
    if s.splState site k ≠ 0 ∧ s.st (strPage site k) = 4 then
      let y := s.strm site k
      let prime := y.lost
      let s := s.setStrm site k { y with from_ := if prime then min lr (s.primeLine site k) else (s.splLine site k + 1) % 2 ^ 48, lost := false, priming := prime }
      let s := (s.putFld (strPage site k + 0x80) 0 2 3).putBit (strPage site k + 0x80) 10 prime
      (s.setSt (strPage site k) y.back)
    else if s.active (strPage site k) then
      let y := s.strm site k
      s.setStrm site k { y with from_ := match y.last with | some l => max y.from_ (l + 1) | none => y.from_ }
    else s) s5
  let s7 := s6.setGate site g { s6.gate site g with stopped := false, late := false }
  (s7.putBit (pacePage site g + 0x64) 4 true).trackPos site (s.encOf site g)

/-- PC_STATUS's retake bit and attempt, and GATE_STATUS's attempt. -/
def State.showRetake (s : State) (site g : Nat) (on : Bool) (attempt : Nat) : State :=
  ((s.putBit (pacePage site g + 0x64) 5 on).putFld (pacePage site g + 0x64) 6 2 attempt).putFld (gatePage site g + 0xA4) 8 2 attempt

/-- The attempt of the retake under way. -/
def State.attempt (s : State) (site g : Nat) : Nat := s.regFld (gatePage site g + 0xA4) 8 2

/-- Start a retake attempt over F to L_f (16 R351): the streams splice at F - 1 with CAUSE 2, the group stops, and the
restart follows from rest. -/
def State.retakeStart (s : State) (site g f lf attempt : Nat) : State :=
  let s1 := s.declareSplice site g 2 ((2 ^ 48 + f - 1) % 2 ^ 48)
  let s2 := s1.setGrp site g { s1.grp site g with retake := some (f, lf), bad := false }
  let s3 := s2.setGate site g { s2.gate site g with stopped := true }
  s3.showRetake site g true attempt

/-- A gate fault (13 R276, R277) over the lines `first` to `last`. -/
def State.gateFault (s : State) (site g code first last : Nat) : State :=
  let p := gatePage site g
  let s1 := (s.faultRec p code 1).evt p 1
  let gr := s.grp site g
  if (s.gate site g).top = 0 ∨ (s.gate site g).stopped = true then s1
  else match gr.retake with
    | some _ => s1.setGrp site g { gr with bad := true }
    | none =>
      let s2 := (s1.setNat (p + 0xC4) (first % 2 ^ 32)).setNat (p + 0xC8) (first / 2 ^ 32 % 2 ^ 16)
      if s.regBit (p + 0x40) 14 then (s2.retakeStart site g first last 1).evt (pacePage site g) 4
      else
        let s3 := (s2.finalRows site (2 * g) true).finalRows site (2 * g + 1) true
        let s4 := s3.declareSplice site g 2 last
        s4.setGate site g { s4.gate site g with stopped := true }

/-- A retake attempt is judged once line L_f has been captured (16 R352). -/
def State.judgeRetake (s : State) (site g : Nat) : State :=
  let gr := s.grp site g
  match gr.retake with
  | none => s
  | some (f, lf) =>
    let fin (s : State) : State := (s.finalRows site (2 * g) true).finalRows site (2 * g + 1) true
    let clear (s : State) : State := s.setGrp site g { s.grp site g with retake := none, bad := false }
    if gr.bad = false then ((clear (fin s)).showRetake site g false 0).evt (pacePage site g) 5
    else if s.attempt site g < 3 then s.retakeStart site g f lf (s.attempt site g + 1)
    else
      let p := gatePage site g
      let s1 := (((clear (fin s)).showRetake site g false 3).faultRec p 0x0105 1).evt p 6
      let s2 := s1.declareSplice site g 2 lf
      s2.setGate site g { s2.gate site g with stopped := true }

/-- A group at rest with a retake waiting restarts by itself (16 R351). -/
def State.retakeRest (s : State) (site g : Nat) : State :=
  match (s.grp site g).retake with
  | some (f, _) => if (s.gate site g).stopped = true ∧ s.regBit (pacePage site g + 0x64) 5 = true then s.beginRestart site g f else s
  | none => s

end Sys2Proof.Machine
end

