-- ==== Sys2Proof/Machine/Monitor.lean ====
section
/-!
DEFINITION. Machine/Monitor.lean: the continuity monitor's commands (22).
-/
namespace Sys2Proof.Machine

/-- Whether a guard meter channel demands (22 R447). -/
def guardChannel (s : State) (site ch : Nat) : Bool :=
  let p := mtrPage site ch
  let periods := if mMode s site ch = 3 ∨ mMode s site ch = 4 then 2 else 1
  s.regBit (p + 0x70) 6 || !s.regBit (p + 0x70) 7 || mVstate s site ch != 1 || s.regBit (p + 0x70) 8 || s.st p != 2 ||
    (match (s.meter site ch).lastValid with
     | none => true
     | some t => decide (2 * periods * 2000000000 < (s.now - t) * rateTenths (mRate s site ch)))

/-- Whether channel A (or B) of entry e finds its condition now (22 R446 to R448). -/
def guardCond (s : State) (site e : Nat) (chanB : Bool) : Bool :=
  let m := s.mon site
  let w1 := m.word e 1
  let g := m.entry e
  if m.type e = 1 ∨ m.type e = 2 then guardChannel s site (if chanB then fld w1 8 3 else fld w1 0 3)
  else if m.type e = 3 then s.regBit (pg site 0x58 + 0x4C) (if chanB then fld w1 8 5 else fld w1 0 5)
  else if m.type e = 4 then
    g.motion || s.st (pg site (0x10 + fld w1 0 3)) == 5 ||
      (bitOf (m.word e 0) 13 && s.regBit (pg site (0x40 + fld w1 4 4) + 0x94) 6)
  else false

/-- Whether an entry demands now: either channel's condition, or INPUT_FAULT (22 R445, R449). -/
def entryDemands (s : State) (site e : Nat) : Bool :=
  guardCond s site e false || guardCond s site e true || ((s.mon site).entry e).fault

/-- The entries of an ACTIVE monitor that demand now, as a mask. -/
def demandMask (s : State) (site : Nat) : Nat :=
  if (s.mon site).st = 3 then maskOf 16 (fun e => (s.mon site).type e != 0 && entryDemands s site e) else 0

/-- Write the monitor's status registers from its record (22 Control). -/
def State.showMon (s : State) (site : Nat) : State :=
  let p := monPage site
  let m := s.mon site
  let s1 := s.setNat (p + 0x40) (m.st + (if m.cfgValid then 8 else 0) + m.cfgErr * 2 ^ 4 + maskOf 4 (fun n => (m.pair n).st == 1) * 2 ^ 8
    + maskOf 4 (fun n => (m.pair n).latched) * 2 ^ 12 + demandMask s site * 2 ^ 16)
  let s2 := (s1.setNat (p + 0x50) ((if m.supply then 1 else 0) + (if m.dieHeat then 2 else 0) + (if (List.range 16).any (fun e => (m.entry e).fault) then 4 else 0))).setNat
    (p + 0x68) (maskOf 16 (fun e => (m.entry e).fault))
  (List.range 4).foldl (fun s n =>
    let x := m.pair n
    let left := match x.deadline with
      | some d => if x.st = 2 then satNat 65535 ((d - s.now) / 200000) else 0
      | none => 0
    if n < 4 then s.setNat (p + 0x58 + 4 * n) (x.st + (if x.latched then 4 else 0) + (if x.fault then 8 else 0) + x.first * 2 ^ 4 + left * 2 ^ 16) else s) s2

/-- The lowest-numbered entry that names a pair (22 R450). -/
def ruler (m : Mon) (n : Nat) : Option Nat := (List.range 16).find? (fun e => m.names e n)

/-- The gates of every entry that names a pair. -/
def pairGates (m : Mon) (n : Nat) : List Nat := ((List.range 16).filter (fun e => m.names e n)).map (fun e => m.gate e)

/-- De-energise a pair and latch it, and lock the axes of the gates given and of those whose stop it awaited (22 R450). -/
def State.pairOff (s : State) (site n : Nat) (gates : List Nat) : State :=
  let m := s.mon site
  let x := m.pair n
  let was := x.st != 0
  let gs := x.stopGates ++ gates
  let s1 := s.setMon site (m.setPair n { x with
    st := 0, latched := true, deadline := none, stopGates := [], lockGates := x.lockGates ++ gs
    lowA := if was then some s.now else x.lowA, lowB := if was then some s.now else x.lowB })
  (gs.foldl (fun s g => s.lockGateAxes site g) s1).evtIf was (monPage site) 1

/-- A category-1 stop of a pair (22 R450, R451): it awaits the gate's stop until the earlier of the deadlines given; an energised pair
reads STOPPING. -/
def Pair.await (x : Pair) (g deadline : Nat) : Pair :=
  { x with st := if x.st = 1 then 2 else x.st, stopGates := x.stopGates ++ [g], deadline := some (min deadline (x.deadline.getD deadline)) }

/-- A pair's reaction to a demand that stops gate g (22 R450, R451): category 0 at once; category 1 once the group is at rest or STOP_MS
has passed. -/
def State.pairStop (s : State) (site n : Nat) (cat1 : Bool) (stopMs g : Nat) : State :=
  let s1 := s.groupStop site g 7
  if cat1 = true ∧ s1.groupAtRest site g = false then
    s1.setMon site ((s1.mon site).setPair n (((s1.mon site).pair n).await g (s.now + stopMs * 200000)))
  else s1.pairOff site n [g]

/-- A guard entry's reaction on every pair it names, in the entry's own category (22 R450; log 62). -/
def State.entryReact (s : State) (site e : Nat) : State :=
  let m := s.mon site
  ((List.range 4).foldl (fun s n =>
    if m.names e n then
      let x := (s.mon site).pair n
      (s.setMon site ((s.mon site).setPair n { x with first := if x.st = 1 then e else x.first })).pairStop site n (m.cat1 e) (fld (m.word e 0) 16 16) (m.gate e)
    else s) s).evt (monPage site) 0

/-- Die heat acts on every pair: in the category and with the STOP_MS of the lowest-numbered entry that names it, on the gates of the
entries that do; any other pair in category 0 (22 R450). -/
def State.heatReact (s : State) (site : Nat) : State :=
  let m := s.mon site
  (List.range 4).foldl (fun s n =>
    match ruler m n with
    | some r => (pairGates m n).eraseDups.foldl (fun s g => s.pairStop site n (m.cat1 r) (fld (m.word r 0) 16 16) g) s
    | none => s.pairOff site n []) s

/-- Every pair in category 0, locking the gates of the entries that name it (22 R450: supply guard, die heat; R454). -/
def State.allPairsOff (s : State) (site : Nat) : State :=
  (List.range 4).foldl (fun s n =>
    let gates := (pairGates (s.mon site) n).eraseDups
    (gates.foldl (fun s g => s.groupStop site g 7) s).pairOff site n gates) s

/-- Follow discrepancy and agreement of every input pair (22 R449). -/
def State.monTrack (s : State) (site : Nat) : State :=
  let m := s.mon site
  if m.st ≠ 3 then s
  else
    s.setMon site ((List.range 16).foldl (fun m e =>
      if m.type e = 1 ∨ m.type e = 2 ∨ m.type e = 3 then
        let a := guardCond s site e false
        let b := guardCond s site e true
        let g := m.entry e
        m.setEntry e { g with demA := a, demB := b, discAt := if a != b then some (g.discAt.getD s.now) else none, agreeAt := if a || b then none else some (g.agreeAt.getD s.now) }
      else m) m)

/-- GUARD_DEMAND (22 R446, R450): an entry's condition, the supply guard or die heat is detected, and the pairs react. A
condition that does not hold changes nothing; the supply guard's and die heat's own demand follows what is presented. -/
def execGuardDemand (site : Nat) (src : DemandSource) (s : State) : Host.Outcome State Fault Refusal :=
  if s.isField site = false then .next s
  else match src with
    | .entry e chanB =>
      let s1 := s.monTrack site
      if (s1.mon site).st = 3 ∧ e < 16 ∧ guardCond s1 site e chanB = true then .next ((s1.entryReact site e).showMon site) else .next (s1.showMon site)
    | .supply mv =>
      let bad := !s.regBit (pg site 2 + 0x40) 4 || decide (31000 < mv)
      let s1 := s.setMon site { s.mon site with supply := bad }
      .next ((if bad then (s1.allPairsOff site).evt (monPage site) 0 else s1).showMon site)
    | .dieHeat temp =>
      let bad := decide (115 ≤ temp)
      let s1 := (s.setMon site { s.mon site with dieHeat := bad })
      let s2 := if s.mainOk then s1.putFld (pg 8 7 + 0x64) (if site = 9 then 0 else 8) 8 (BitVec.ofInt 8 temp).toNat else s1
      .next ((if bad then (s2.heatReact site).evt (monPage site) 0 else s2).showMon site)

/-- One motion-guard entry over one more 1 ms window (22 R448): speed of either channel in two consecutive windows, and
the discrepancy over the last 4 ms. -/
def motionEntry (s : State) (site e : Nat) (g : Guard) : Guard :=
  let m := s.mon site
  let w1 := m.word e 1
  let ratio : Int := (m.word e 3).toNat
  let smax : Int := (m.word e 2).toNat
  let c := (s.enc site (fld w1 0 3)).count
  let u := s.axisPos site (fld w1 4 4)
  let counts := (c :: g.counts).take 5
  let steps := (u :: g.steps).take 5
  let dc := c - g.counts.getD 0 c
  let du := u - g.steps.getD 0 u
  let fastA := decide (smax < 1000 * dc.natAbs)
  let fastB := decide (smax * 2 ^ 24 < 1000 * ratio * du.natAbs)
  let oc := counts.getLastD c
  let ou := steps.getLastD u
  let disc := decide ((fld w1 16 16 : Int) * 2 ^ 24 < ((c - oc) * 2 ^ 24 - ratio * (u - ou)).natAbs)
  { g with counts := counts, steps := steps, overA := fastA, overB := fastB, motion := (fastA && g.overA) || (fastB && g.overB) || disc }

/-- MOTION_WINDOW (22 R448): each 1 ms the motion guards of an ACTIVE monitor judge speed and discrepancy. -/
def execMotionWindow (site : Nat) (s : State) : Host.Outcome State Fault Refusal :=
  if s.isField site = false ∨ (s.mon site).st ≠ 3 then .next s
  else
    .next (((List.range 16).foldl (fun s e =>
      let m := s.mon site
      if m.type e = 4 then
        let g := motionEntry s site e (m.entry e)
        let s1 := s.setMon site (m.setEntry e g)
        if g.motion then s1.entryReact site e else s1
      else s) s).showMon site)

/-- INPUT_FAULT (22 R449): a discrepancy of an input pair has lasted DISC_MS. -/
def execInputFault (site e : Nat) (s : State) : Host.Outcome State Fault Refusal :=
  let m := s.mon site
  let g := m.entry e
  match g.discAt with
  | some t =>
    if s.isField site = true ∧ m.st = 3 ∧ e < 16 ∧ g.fault = false ∧ t + fld (m.word e 2) 0 16 * 200000 ≤ s.now then
      .next (((((s.setMon site (m.setEntry e { g with fault := true })).evt (monPage site) 3).entryReact site e)).showMon site)
    else .next s
  | none => .next s

/-- INPUT_FAULT_CLEAR (22 R449): both inputs have agreed, not demanding, for 100 ms. -/
def execInputFaultClear (site e : Nat) (s : State) : Host.Outcome State Fault Refusal :=
  let m := s.mon site
  let g := m.entry e
  match g.agreeAt with
  | some t =>
    if s.isField site = true ∧ e < 16 ∧ g.fault = true ∧ t + 20000000 ≤ s.now ∧ guardCond s site e false = false ∧ guardCond s site e true = false then
      .next ((s.setMon site (m.setEntry e { g with fault := false })).showMon site)
    else .next s
  | none => .next s



/-- STOP_MS_EXPIRE (22 R450): a category-1 stop's deadline passes. -/
def execStopMsExpire (site n : Nat) (s : State) : Host.Outcome State Fault Refusal :=
  let x := (s.mon site).pair n
  match x.deadline with
  | some d => if s.isField site = true ∧ n < 4 ∧ d ≤ s.now then .next ((s.pairOff site n []).showMon site) else .next s
  | none => .next s

/-- Whether a latched pair may not be energised (22 R452). -/
def pairBlocked (s : State) (site n : Nat) : Bool :=
  let m := s.mon site
  let x := m.pair n
  (List.range 16).any (fun e => m.names e n && entryDemands s site e) ||
    (x.fault && [x.lowA, x.lowB].any (fun o => match o with | some t => decide (s.now < t + 2000000) | none => true))

/-- LATCHED pairs. -/
def Mon.latchedPairs (m : Mon) : List Nat := (List.range 4).filter (fun n => (m.pair n).latched)

/-- Whether a RESET is rejected (22 R452). A die whose field pins hold their power-up states energises none (05 R97; log 71). -/
def State.monResetBad (s : State) (site : Nat) : Bool :=
  let m := s.mon site
  m.st != 3 || !s.fieldUp site || m.supply || !s.regBit (pg site 2 + 0x40) 4 || m.dieHeat || m.latchedPairs.any (fun n => pairBlocked s site n)

/-- An accepted RESET (22 R452): every LATCHED pair is energised and the pages the monitor holds LOCKED for it are released to OFF. -/
def State.monReset (s : State) (site : Nat) : State :=
  let m := s.mon site
  let gates := m.latchedPairs.flatMap (fun n => (m.pair n).lockGates)
  let s1 := s.setMon site (m.latchedPairs.foldl (fun m n => m.setPair n { st := 1, first := (m.pair n).first }) { m with lockAll := false })
  let s2 := gates.foldl (fun s g => s.unlockGateAxes site g) s1
  let s3 := if m.lockAll then s2.unlockFieldPages site else s2
  (s3.evtIf (!m.latchedPairs.isEmpty) (monPage site) 2).showMon site

/-- RESET_IN (22 R452): a qualified press of 100 ms to 5 s acts as a RESET when RESET_EN is 1. -/
def execResetIn (site ms : Nat) (s : State) : Host.Outcome State Fault Refusal :=
  if s.isField site = true ∧ bitOf (s.mon site).committedReset 5 = true ∧ 100 ≤ ms ∧ ms ≤ 5000 then
    .next (if s.monResetBad site then s.evt (monPage site) 8 else s.monReset site)
  else .next s

/-- A pair's outputs fail their readback (22 R453): READBACK_FAULT, both outputs off in category 0. An output of a de-energised pair
that reads high (`cross`: A or B) has not read low since. -/
def State.readbackFault (s : State) (site n : Nat) (crossA crossB : Bool) : State :=
  let gates := (pairGates (s.mon site) n).eraseDups
  let s1 := (gates.foldl (fun s g => s.groupStop site g 7) s).pairOff site n gates
  let m := s1.mon site
  let x := m.pair n
  ((s1.setMon site (m.setPair n { x with fault := true, lowA := if crossA then none else x.lowA, lowB := if crossB then none else x.lowB })).evt
    (monPage site) 4).showMon site

/-- TEST_PULSE (22 R453): an output is pulsed and read back; `ok` is whether it followed, or for a de-energised output
whether it reads low. -/
def execTestPulse (site n : Nat) (outB ok : Bool) (s : State) : Host.Outcome State Fault Refusal :=
  let m := s.mon site
  let x := m.pair n
  let off := decide (x.st = 0)
  if s.isField site = false ∨ 4 ≤ n then .next s
  else if ok = false then .next (s.readbackFault site n (off && !outB) (off && outB))
  else if off then
    .next (s.setMon site (m.setPair n (if outB then { x with lowB := some (x.lowB.getD s.now) } else { x with lowA := some (x.lowA.getD s.now) })))
  else .next s

/-- SSO_CURRENT_LIMIT (23 R466): an output in current limit for 5 ms switches off, which reads back as a fault of its pair, whichever of
the two it is. -/
def execSsoCurrentLimit (site n : Nat) (_outB : Bool) (s : State) : Host.Outcome State Fault Refusal :=
  if s.isField site = true ∧ n < 4 ∧ ((s.mon site).pair n).st ≠ 0 then .next (s.readbackFault site n false false) else .next s

/-- MON_FAULT (22 R454): every pair off in category 0, every axis, meter channel and meter output page LOCKED. -/
def State.monFault (s : State) (site code : Nat) : State :=
  let s1 := s.allPairsOff site
  let s2 := (s1.setMon site { s1.mon site with st := 4, lockAll := true }).lockFieldPages site
  ((((s2.faultRec (monPage site) code 1).setSt (monPage site) 5).evt (monPage site) 26).evt (monPage site) 5).showMon site

/-- DIAG_INTERVAL (22 R454): a 10 ms test interval completes, or one of its diagnostics fails. -/
def execDiagInterval (site : Nat) (fail : Option DiagFault) (s : State) : Host.Outcome State Fault Refusal :=
  if s.isField site = false then .next s
  else match fail with
    | none => .next (s.addWrap (monPage site + 0x70) 1)
    | some d =>
      if (s.mon site).st = 4 then .next s
      else .next (s.monFault site (match d with | .clock => 0x100 | .crc => 0x101 | .compare => 0x102 | .memory => 0x103 | .supply => 0x104))

/-- The second step of a two-step sequence (22 R455): MON_ARG was written by the same requester within 1 ms. -/
def twoStepOk (s : State) (req site : Nat) : Bool :=
  match (s.mon site).argBy with
  | some (r, t) => r == req && decide (s.now ≤ t + 200000)
  | none => false

/-- Why MON_CMD.UNLOCK is rejected (22 R455). -/
def State.monUnlockWhy (s : State) (req site : Nat) : Option Nat :=
  let m := s.mon site
  let idle := (List.range 4).all (fun n => (m.pair n).st == 0) && (List.range 8).all (fun g => s.groupQuiet site g)
  if twoStepOk s req site = false ∨ idle = false ∨ m.st = 1 ∨ m.st = 2 then some 5
  else if s.reg (monPage site + 0x48) ≠ s.reg (monPage site + 0x4C) then some 3
  else none

/-- MON_CMD.UNLOCK (22 R455). -/
def State.monUnlock (s : State) (site : Nat) : State :=
  let m := s.mon site
  ((s.setMon site { m with st := 1, from_ := m.st, argBy := none }).setSt (monPage site) 2).showMon site

/-- The region 0x100-0x1FC as written. -/
def monRegion (s : State) (site : Nat) : List Word := (List.range 64).map (fun i => s.reg (monPage site + 0x100 + 4 * i))

/-- Whether a guard meter channel of an entry meets the COMMIT checks (22 R456); `limMs` is the detection time. -/
def guardMeterOk (s : State) (site ch limMs : Nat) : Bool :=
  let p := mtrPage site ch
  let periods := if mMode s site ch = 3 ∨ mMode s site ch = 4 then 2 else 1
  s.st p == 2 && s.regBit (p + 0x5C) 0 && !mAuto s site ch && mBo s site ch != 2 && decide (2 * periods * 10000 ≤ limMs * rateTenths (mRate s site ch))

/-- Whether an entry passes the COMMIT checks (22 R456). -/
def entryOk (s : State) (site : Nat) (w : List Word) (e : Nat) : Bool :=
  let w0 := w.getD (4 * e) 0#32
  let w1 := w.getD (4 * e + 1) 0#32
  let w2 := w.getD (4 * e + 2) 0#32
  let w3 := w.getD (4 * e + 3) 0#32
  let ty := fld w0 0 3
  let cat1 := bitOf w0 12
  if ty = 0 then w0 == 0#32 && w1 == 0#32 && w2 == 0#32 && w3 == 0#32
  else if 4 < ty then false
  else
    let m0 : Word := BitVec.ofNat 32 (0x1F77 + (if ty = 4 then 0x2000 else 0) + (if cat1 then 0xFFFF0000 else 0))
    let m1 : Word := if ty = 4 then 0xFFFF00F7#32 else if ty = 3 then 0x1F1F#32 else 0x0707#32
    (w0 &&& ~~~m0) == 0#32 && (w1 &&& ~~~m1) == 0#32 && (ty == 4 || ((w2 &&& 0xFFFF0000#32) == 0#32 && w3 == 0#32)) &&
    (!cat1 || (decide (10 ≤ fld w0 16 16) && decide (fld w0 16 16 ≤ 10000))) &&
    (if ty = 4 then w2 != 0#32 && w3 != 0#32 && fld w1 16 16 != 0
     else if ty = 3 then fld w1 0 5 != fld w1 8 5
     else fld w1 0 3 != fld w1 8 3 && guardMeterOk s site (fld w1 0 3) (if ty = 1 then 2 else 100) && guardMeterOk s site (fld w1 8 3) (if ty = 1 then 2 else 100))
    && !(s.regBit (monPage site + 0x54) 5 && ty == 3 && (fld w1 0 5 == s.regFld (monPage site + 0x54) 0 5 || fld w1 8 5 == s.regFld (monPage site + 0x54) 0 5))

/-- The CRC-32 of the region as written. -/
def monCrc (s : State) (site : Nat) : Word := BitVec.ofNat 32 (crc32 ((monRegion s site).flatMap (fun x => leBytes 4 x.toNat)))

/-- The first entry that fails the COMMIT checks (22 R456). -/
def badEntry (s : State) (site : Nat) : Option Nat := (List.range 16).find? (fun e => !entryOk s site (monRegion s site) e)

/-- Why MON_CMD.COMMIT is rejected (22 R455, R456). -/
def State.monCommitWhy (s : State) (req site : Nat) : Option Nat :=
  if (s.mon site).st ≠ 1 ∨ twoStepOk s req site = false then some 5
  else if s.reg (monPage site + 0x48) ≠ monCrc s site ∨ (badEntry s site).isSome = true then some 3
  else none

/-- A COMMIT rejected with RANGE: CFG_ERR names the first failing entry; 0 where the CRC fails, which names none (22 R456; log 62). -/
def State.monCommitFail (s : State) (site : Nat) : State :=
  let e := if s.reg (monPage site + 0x48) ≠ monCrc s site then 0 else (badEntry s site).getD 0
  (s.setMon site { s.mon site with cfgErr := e }).showMon site

/-- MON_CMD.COMMIT (22 R455, R456). -/
def State.monCommit (s : State) (site : Nat) : State :=
  let p := monPage site
  let m' : Mon := { s.mon site with
    st := 2, committed := monRegion s site, committedReset := s.reg (p + 0x54), cfgValid := true, cfgErr := 0, argBy := none, entries := [] }
  ((s.setMon site m').setReg (p + 0x4C) (monCrc s site)).showMon site

/-- MON_CMD.ABORT_CFG (22 R455), in CONFIG. -/
def State.monAbortCfg (s : State) (site : Nat) : State :=
  let p := monPage site
  let m := s.mon site
  let s1 := (List.range 64).foldl (fun s i => s.setReg (p + 0x100 + 4 * i) (m.committed.getD i 0#32)) s
  ((s1.setReg (p + 0x54) m.committedReset).setMon site { m with st := if m.from_ = 4 then 0 else m.from_ }).showMon site

/-- A write of MON_CMD (22): rejected whole where one of its commands is (03 R71); else UNLOCK, COMMIT, RESET and ABORT_CFG in turn. -/
def State.monCmd (s : State) (req site : Nat) (val : Word) : State :=
  let p := monPage site
  if val &&& 0xFFFFFFF0#32 ≠ 0#32 then s.reject req p 0x44 2
  else match if bitOf val 0 then s.monUnlockWhy req site else none with
  | some r => s.reject req p 0x44 r
  | none =>
    match if bitOf val 1 then s.monCommitWhy req site else none with
    | some r => (if r = 3 then s.monCommitFail site else s).reject req p 0x44 r
    | none =>
      if bitOf val 2 = true ∧ s.monResetBad site = true then (s.evt p 8).reject req p 0x44 5
      else if bitOf val 3 = true ∧ (s.mon site).st ≠ 1 then s.reject req p 0x44 5
      else
        let s1 := if bitOf val 0 then s.monUnlock site else s
        let s2 := if bitOf val 1 then s1.monCommit site else s1
        let s3 := if bitOf val 2 then s2.monReset site else s2
        if bitOf val 3 then s3.monAbortCfg site else s3

/-- SELF_TEST_DONE (22 R456): ACTIVE with every pair LATCHED, or MON_FAULT with SELFTEST_FAIL. -/
def execSelfTestDone (site : Nat) (ok : Bool) (s : State) : Host.Outcome State Fault Refusal :=
  let m := s.mon site
  if s.isField site = false ∨ m.st ≠ 2 then .next s
  else if ok = false then .next (s.monFault site 0x105)
  else
    let m' := (List.range 4).foldl (fun m n => m.setPair n { m.pair n with st := 0, latched := true }) { m with st := 3 }
    .next (((s.setMon site m').evt (monPage site) 6).showMon site)

end Sys2Proof.Machine
end

