-- ==== Sys2Proof/Machine/Rest.lean ====
section
/-!
DEFINITION. Machine/Rest.lean: a group coming to rest (15 R328) and the limit inputs (15 R331, R332), with what the
continuity monitor and the splices take from them.
-/
namespace Sys2Proof.Machine

/-- A field die's VFIO switch record. -/
def State.fio (s : State) (site : Nat) : Fio := tabGet {} s.fios site
def State.setFio (s : State) (site : Nat) (x : Fio) : State := { s with fios := tabPut {} s.fios site x }



/-- Pairs in a category-1 stop of gate g, whose group is now at rest, de-energise (22 R450). -/
def State.pairsRest (s : State) (site g : Nat) : State :=
  (List.range 4).foldl (fun s n => if ((s.mon site).pair n).stopGates.contains g then s.pairOff site n [] else s) s

/-- SPLICE_DONE once every group concerned in a supply-loss splice is at rest (04 R85). -/
def State.spliceDone (s : State) (site : Nat) : State :=
  if (s.fio site).splicing ≠ [] ∧ (s.fio site).splicing.all (fun g => !(s.grp site g).stopping) = true then
    (s.setFio site { s.fio site with splicing := [] }).evt (pg site 2) 6
  else s

/-- AT_REST (15 R328; 16 R342; 22 R450). -/
def State.comeToRest (s : State) (site g : Nat) : State :=
  let s1 := (s.putGrp site g { s.grp site g with stopping := false, atRest := true }).evt (grpPage site g) 1
  let s2 := (s1.spliceRest site (2 * g)).spliceRest site (2 * g + 1)
  (((s2.pairsRest site g).showMon site).spliceDone site).retakeRest site g

def execAtRest (site g : Nat) (s : State) : Host.Outcome State Fault Refusal :=
  if s.isField site = true ∧ g < 8 ∧ (s.grp site g).stopping = true ∧ s.groupStill site g = true then .next (s.comeToRest site g) else .next s

/-- An axis that names a limit input that has qualified (15 R331, R332). -/
def State.limAxis (s : State) (site a i : Nat) (first asserted : Bool) : State :=
  let p := axPage site a
  let names := s.guardInput site a 1 == some i || s.guardInput site a (-1) == some i
  if names then
    let s1 := (s.showLims site a).evtIf first p 11
    let v := (s.axis site a).vel
    if asserted = true ∧ v ≠ 0 ∧ s.guardInput site a v = some i then
      let s2 := s1.groupStop site (s1.grpOf site a) 2
      let s3 := if s2.regBit (p + 0x68) 14 then
          (s2.groupAxes site (s2.grpOf site a)).foldl (fun s b => s.setAxis site b { s.axis site b with hard := true }) s2
        else s2
      s3.evt p 3
    else s1
  else s

/-- A limit input qualifies at a level outside the band (15 R331, R332). -/
def State.qualify (s : State) (site i : Nat) (high : Bool) : State :=
  let p := dollyPage site
  let asserted := high == s.regBit (p + 0x48) i
  let first := !s.regBit (p + 0x50) i
  let s1 := ((s.putBit (p + 0x54) i false).putBit (p + 0x50) i true).putBit (p + 0x4C) i asserted
  let s2 := s1.evtIf (s.regBit (p + 0x4C) i != asserted) p 0
  ((List.range 16).foldl (fun s a => s.limAxis site a i first asserted) s2).monTrack site

/-- LIMIT_QUALIFY (15 R331, R332): sixteen samples of an input at one level outside the band, or a sample inside it. -/
def execLimitQualify (site i : Nat) (level : LimitLevel) (s : State) : Host.Outcome State Fault Refusal :=
  if s.isField site = true ∧ i < 32 ∧ s.regBit (pg site 2 + 0x40) 4 = true then
    match level with
    | .band => .next (s.putBit (dollyPage site + 0x54) i true)
    | .high => .next (s.qualify site i true)
    | .low => .next (s.qualify site i false)
  else .next s

end Sys2Proof.Machine
end

