-- ==== Sys2Proof/Machine/SlotOps.lean ====
section
/-!
DEFINITION. Machine/SlotOps.lean: transaction slots beside their commands (03 R59 to R72): TXN_STATUS, an abort, and the
aborts of a cross-site group.
-/
namespace Sys2Proof.Machine

def State.slot (s : State) (site k : Nat) : Slot := tabGet {} s.slots (site * 4 + k)
def State.setSlot (s : State) (site k : Nat) (x : Slot) : State := { s with slots := tabPut {} s.slots (site * 4 + k) x }
def State.group (s : State) (g : Nat) : Group := tabGet {} s.groups g
def State.setGroup (s : State) (g : Nat) (x : Group) : State := { s with groups := tabPut {} s.groups g x }

/-- Blocks of a site whose pages may join a slot. -/
def txnBlocks (asm site : Nat) : List Nat := (List.range 0x91).filter (fun b => hasTxn (pageType asm site b))

/-- TXN_STATUS of one page (03). -/
def State.showTxnPage (s : State) (site blk : Nat) : State :=
  let p := pg site blk
  let x := s.slot site (s.regFld (p + 0x20) 0 2)
  s.setNat (p + 0x24) (x.st + (if x.late then 8 else 0) + (if x.overflow then 16 else 0) + (if x.members.contains blk then 32 else 0)
    + x.entries.length * 2 ^ 8 + x.reason * 2 ^ 20)

/-- TXN_STATUS of every page of a site that selects slot k. -/
def State.showTxn (s : State) (site k : Nat) : State :=
  (txnBlocks s.asm site).foldl (fun s b => if s.regFld (pg site b + 0x20) 0 2 = k then s.showTxnPage site b else s) s

/-- Abort a slot (03 R67): every entry discarded, TXN_ABORT on every member page, and TXN_LATE where it was late. -/
def State.abortSlot (s : State) (site k reason : Nat) (late : Bool) : State :=
  let x := s.slot site k
  let s1 := s.setSlot site k { x with st := 5, entries := [], reason := reason, late := x.late || late }
  let s2 := x.members.foldl (fun s b => (s.evt (pg site b) 29).evtIf late (pg site b) 28) s1
  s2.showTxn site k

/-- The armed slots of a cross-site group, as (site, slot). -/
def State.groupSlots (s : State) (g : Nat) : List (Nat × Nat) :=
  (s.slots.filter (fun p => p.2.cross && p.2.group == g && (p.2.st == 2 || p.2.st == 3))).map (fun p => (p.1 / 4, p.1 % 4))

/-- Abort every slot of a group (03 R68 to R70): the group is then free. -/
def State.abortGroup (s : State) (g reason : Nat) (late : Bool) : State :=
  ((s.groupSlots g).foldl (fun s k => s.abortSlot k.1 k.2 reason late) s).setGroup g {}

/-- Abort one slot for a reason of its own; before GO the others of its group abort with GROUP_ABORT (03 R70). -/
def State.abortMember (s : State) (site k reason : Nat) (late : Bool) : State :=
  let x := s.slot site k
  let s1 := s.abortSlot site k reason late
  if x.cross = true ∧ (x.st = 2 ∨ x.st = 3) ∧ (s.group x.group).go = false then s1.abortGroup x.group 9 false else s1

/-- The bit of a SITES mask (03 TXN_CTRL). -/
def sitesBit (site : Nat) : Nat := if site < 4 then site else site - 4

/-- A site goes down (03 R67, R70, R72): its slots are lost, and every group that names it and whose GO is not set aborts with
SITE_DOWN. -/
def State.siteSlotsLost (s : State) (site : Nat) : State :=
  let s1 := (List.range 16).foldl (fun s g =>
    if (s.group g).go = false ∧ (s.slots.any (fun p => p.2.cross && p.2.group == g && (p.2.st == 2 || p.2.st == 3) && p.2.sites / 2 ^ sitesBit site % 2 == 1)) = true
    then s.abortGroup g 8 false else s) s
  (List.range 4).foldl (fun s k => s.setSlot site k {}) s1

end Sys2Proof.Machine
end

