-- ==== Sys2Proof/Machine/DieOps.lean ====
section
/-!
DEFINITION. Machine/DieOps.lean: what a lost die or package does to takes, streams, slots and slates (11 R242, R243; 09 R199;
16 R340 to R343, R353; 01 R22).
-/
namespace Sys2Proof.Machine

/-- The last delivered line of a stream's run: its WATERMARK, or the line before line 0 while nothing is delivered (14 R306). -/
def State.deliveredLine (s : State) (site k : Nat) : Nat :=
  let x := s.strm site k
  if x.dLine.isNone ∧ x.dFrame.isNone then 2 ^ 48 - 1 else s.watermark site k

/-- Records held for a ring that lie above a splice point are not emitted: their lines are captured afresh (16 R343, R347), and their
frames are under way again (14 R308). -/
def State.dropRecs (s : State) (site k line : Nat) : State :=
  let d := s.ringOf site k
  let above (l : Nat) : Bool := line == 2 ^ 48 - 1 || decide (line < l)
  let gone (r : DRec) : Bool := (match r.line with | some l => above l | none => false) || (match r.frame with | some (_, l) => above l | none => false)
  let x := s.ring d
  let y := s.strm site k
  let back := y.sentF.filter (fun f => (x.queue.filter gone).any (fun r => r.frame.map (·.1) == some f.first))
  let s1 := (s.setRing d { x with queue := x.queue.filter (fun r => !gone r) }).setStrm site k
    { y with frames := back ++ y.frames, sentF := y.sentF.filter (fun f => !back.contains f) }
  match back with
  | f :: _ => s1.setNat (pipePage site k + 0x6C) (f.idx % 2 ^ 32)
  | [] => s1

/-- A stream's splice at its WATERMARK for SUPPLY_LOSS (4) or DIE_FATAL (5): a new one, or a splice whose STOP record is not
yet delivered moved there (16 R341, R343). The stream's stages have lost their state or will (14 R308): it must prime. -/
def State.hardSpliceOne (s : State) (site k cause : Nat) (v : Int) : State :=
  let line := s.deliveredLine site k
  if s.takesPart site k then (s.spliceOne site k cause line v).dropRecs site k line
  else if s.spliced site k = true ∧ s.regBit (strPage site k + 0x80) 8 = false then
    let st := s.splState site k
    let x := s.strm site k
    let d := s.ringOf site k
    let s1 := ((((s.writeSplice site k cause line v).putFld (strPage site k + 0x80) 0 2 st).setStrm site k { x with splices := line :: x.splices.drop 1 }).dropRows site k line).dropRecs site k line
    s1.setRing d { s1.ring d with queue := (s1.ring d).queue.map (fun r => if r.stop then { r with after := some line } else r) }
  else s

/-- Splice streams of a gate so, and stop its group as HOST (16 R342); a retake whose splice point moves below F - 1 is
abandoned (16 R353; log 45). -/
def State.hardSplice (s : State) (site g : Nat) (ks : List Nat) (cause : Nat) (stop : Bool) : State :=
  let v := s.leaderVel site g
  let hit (k : Nat) : Bool := s.takesPart site k || (s.spliced site k && !s.regBit (strPage site k + 0x80) 8)
  let touched := ks.filter hit
  if touched.isEmpty then s
  else
    let s1 := touched.foldl (fun s k => s.hardSpliceOne site k cause v) s
    let low := touched.foldl (fun m k => min m ((s.deliveredLine site k + 1) % 2 ^ 48)) (2 ^ 48)
    let s2 : State := match (s.grp site g).retake with
      | some (f, _) => if low < f then (s1.setGrp site g { s1.grp site g with retake := none, bad := false }).showRetake site g false 0 else s1
      | none => s1
    if stop = false ∨ s2.groupHeld site g = true then s2 else s2.stopCore site g 1

/-- Streams of every field die, as (site, stream). -/
def State.allStreams (s : State) : List (Nat × Nat) :=
  ([9, 11].filter (fun x => s.isField x)).flatMap (fun x => (List.range 16).map (fun k => (x, k)))

/-- Whether a stream has a stage, or its destination ring, on a compute site. -/
def State.streamOn (s : State) (site : Nat) (x : Nat × Nat) : Bool :=
  s.slates.any (fun y => y.2.kind == 2 && streamSite s.asm y.2.stream == x.1 && y.2.stream % 16 == x.2 && y.2.groups.any (fun g => g.site == site))
    || (s.attached x.1 x.2 && s.destSite x.1 x.2 == site)

/-- End in submission order within each queue every take for which `hit` holds (11 R242, R243). -/
def State.endTakesFor (s : State) (hit : Entry → Bool) (status : Nat) (detail : Option Nat) : State :=
  s.tqs.foldl (fun s x => x.2.entries.foldl (fun s e =>
    if e.st ≤ 2 ∧ e.op = 1 ∧ hit e = true then s.endTake (x.1 / 8) (x.1 % 8) e.n status detail else s) s) s

/-- A pipeline one of whose stages is LOST has lost its state (14 R308, R312). -/
def State.pipeLost (x : Slate) (h : Nat) (s : State) : State :=
  let site := streamSite s.asm x.stream
  let k := x.stream % 16
  let y := s.strm site k
  match y.pipe with
  | some b => if b.stages.any (fun st => st.1 == h) then (((s.losePipe site k).setNat (pipePage site k + 0x60) 0).showPipe site k) else s
  | none => s

def State.pipeLostOf (s : State) (x : Slate) : State := State.pipeLost x x.handle s

/-- A slate whose die or power is lost (09 R199; 10 R225): LOST, its cores and engines gone, the epoch of a running stage's stripe
cancelled on its dies; a waiting unload completes at once. -/
def State.loseSlate (s : State) (h : Nat) : State :=
  match s.slate h with
  | none => s
  | some x =>
    let w := Work.stage h
    let s0 := if x.kind = 2 ∧ x.running = true then s.cancelOn (s.conf x.tenant) x.epoch (s.workDies w) else s
    let s1 := if x.kind = 2 then (s0.dropNodes w).dropUnits x.tenant (fun u => u.work == some w) else s0
    let s2 := x.cores.foldl (fun s c => s.freeCore c.2.1 c.2.2) s1
    let s3 := x.engs.foldl (fun s e => (s.setEng e.1 e.2 {}).setSt (engPage e.1 e.2) 0) s2
    if x.state = 2 then
      let s4 := (s3.dropSlate h).showPower
      (match x.waiter with | some t => s4.mbReply t 0 [] | none => s4)
    else State.pipeLost x h (s3.setSlate { x with state := 3, cores := [], engs := [], running := false, halted := false, faulted := false, groups := x.groups })

def State.loseSlates (s : State) (hit : Slate → Bool) : State :=
  (s.slates.foldl (fun s x => if hit x.2 ∧ x.2.state ≠ 3 then s.loseSlate x.2.handle else s) s).showPower

/-- Everything a compute die holds beside its memory controllers is at reset (11 R242): stores, bins, flags, cue queues, line
buffers and register pages. -/
def State.wipeDie (s : State) (site : Nat) : State :=
  let mine (m k : Nat) : Bool := k / m == site
  let pendMap (a : Nat) : Bool := decide (pg 8 6 + 0x100 + 0x80 * site ≤ a) && decide (a < pg 8 6 + 0x180 + 0x80 * site)
  let s1 : State := { s with
    regs := s.regs.filter (fun r => !((siteOf r.1 == site && !(blkOf r.1 == 12 || blkOf r.1 == 13)) || pendMap r.1))
    latch := s.latch.filter (fun r => !(siteOf (r.1 % 2 ^ 30) == site))
    back := s.back.filter (fun r => !(siteOf r.1 == site))
    ram := tabDropRange (ramKey (site * 256) 0) (2 ^ 56) s.ram
    poison := s.poison.filter (fun k => k / 2 ^ 56 != site)
    cores := s.cores.filter (fun c => !mine 256 c.1)
    dqs := s.dqs.filter (fun c => !mine 1024 c.1)
    cmbs := s.cmbs.filter (fun c => !mine 4 c.1)
    engs := s.engs.filter (fun c => !mine 8 c.1)
    slotRings := s.slotRings.filter (fun c => !mine 2048 c.1)
    cueQs := s.cueQs.filter (fun c => !mine 4096 c.1)
    binFlags := s.binFlags.filter (fun c => !mine 65536 c.1)
    arbs := s.arbs.filter (fun c => !mine 64 c.1)
    capQs := s.capQs.filter (fun c => c.1 != site)
    cancels := s.cancels.filter (fun c => c.1 != site)
    ports := s.ports.filter (fun c => !mine 4 c.1) }
  (s1.showPend (pg site 12)).showPend (pg site 13)

/-- CORE_UP of a main die's control cores (05). -/
def State.coresUp (s : State) (site : Nat) (on : Bool) : State :=
  let p := pg 8 3 + 0x54
  if site < 4 then (s.putBit p (2 * site) on).putBit p (2 * site + 1) on else s.putBit p (site % 8 + 8) on

/-- A die's SITE_UP bit falls or rises, its control cores' bits with it (01 R22; 05 CORE_UP). -/
def State.siteDown (s : State) (site : Nat) : State := if s.siteUp site then ((s.coresUp site false).putBit (pg 8 0 + 0x4C) (siteBit site) false).evt (pg 8 0) 1 else s
def State.siteBack (s : State) (site : Nat) : State := if s.siteUp site then s else ((s.coresUp site true).putBit (pg 8 0 + 0x4C) (siteBit site) true).evt (pg 8 0) 2

/-- Pass-through rings after dies have fallen or come back (13 R281; log 31): lost with their die, and attached anew on the
nearest die for a stream that has left OFF. -/
def State.passRings (s : State) : State :=
  s.allStreams.foldl (fun s x =>
    let s1 := s.losePass x.1 x.2
    if s1.st (strPage x.1 x.2) = 0 then s1 else s1.attachPass x.1 x.2) s

/-- Whether a site carries a compute or link die. -/
def State.mainDie (s : State) (site : Nat) : Bool := dieAt s.asm site == .compute || dieAt s.asm site == .link

/-- A die that goes down loses its transfers in flight (10 R225). -/
def State.loseFlights (s : State) (site : Nat) : State :=
  { s with dqs := s.dqs.map (fun d => if d.1 / 1024 == site then (d.1, { d.2 with flights := [] }) else d) }

/-- A die-fatal error on a compute or link die (11 R242, steps 1 to 5 but the return). -/
def State.dieFatal (s : State) (site : Nat) : State :=
  if s.mainDie site = false ∨ s.siteUp site = false ∨ s.mainOk = false then s
  else
    let uses (e : Entry) : Bool := match s.slate e.slate with | some x => x.groups.any (fun g => g.site == site) | none => false
    let s1 := (s.loseFlights site).siteDown site
    let s2 := s1.endTakesFor uses 0x0302 none
    let ss := s.allStreams.filter (fun x => s.streamOn site x)
    let s3 := ss.foldl (fun s x => s.hardSplice x.1 (x.2 / 2) [x.2] 5 true) s2
    let s4 := s3.siteSlotsLost site
    let s5 := s4.loseSlates (fun y => y.groups.any (fun g => g.site == site))
    (s5.wipeDie site).passRings

/-- A package-fatal error (11 R243): class 4, PKG_FATAL, the memory page in FAULT, an AER report; every take ends, every running stream
splices; an ensemble becomes DEGRADED. Whether the host die's main part can still write records after an error of its own (HOST_UE) is a
free value (log 77). -/
def State.pkgFatal (s : State) (code : Nat) : State :=
  if s.mainOk = false then s
  else if s.st memPage = 5 then s.faultRec memPage code 4
  else
    let s0 : State := if code = 0x100 then { s.draw with mute := Config.freeBool s.free } else s
    let s1 := ((s0.toFault memPage code 4).evt memPage 2).emit (.aerInternal code)
    let s2 := s1.endTakesFor (fun _ => true) 0x0302 (some code)
    let s3 := s2.allStreams.foldl (fun s x => s.hardSplice x.1 (x.2 / 2) [x.2] 5 true) s2
    if s3.ensSt = 2 then (s3.putFld (pg 8 0x0C + 0x40) 0 3 3).evt (pg 8 0x0C) 1 else s3

end Sys2Proof.Machine
end

