-- ==== Sys2Proof/Machine/Security.lean ====
section
/-!
DEFINITION. Machine/Security.lean: TRNG, sessions, confidential mode, the debug window and the TAP (20).
-/
namespace Sys2Proof.Machine

def kmPage : Nat := pg 8 8
def trngPage : Nat := pg 8 9
def dbgPage : Nat := pg 8 0x0A

/-- TRNG VALID (20). -/
def State.trngOk (s : State) : Bool := s.regBit (trngPage + 0x40) 2

/-- The status that answers a request needing a key while VALID is 0 (20 R407). -/
def State.entropyStatus (s : State) : Nat := if s.regFld (trngPage + 0x40) 0 2 = 2 then 0x141 else 0x140

/-- The samples of the noise source, at 0.5 MS/s, since start-up testing began (20 R405). -/
def State.trngSamples (s : State) : Nat := (s.now - s.sec.trngAt) / 400

/-- POOL_BITS (20 R405): half a bit of each sample after the 1024 of start-up testing, at most 256; held once the TRNG has left
STARTUP. -/
def State.poolBits (s : State) : Nat :=
  if s.mainOk = true ∧ s.regFld (trngPage + 0x40) 0 2 = 0 then min 256 ((s.trngSamples - 1024) / 2) else (s.reg (trngPage + 0x44)).toNat

/-- TRNG_STATUS [9:8] (20): continuous failures in the present 1 s. -/
def State.recentFails (s : State) : Nat := satNat 3 (s.sec.fails.filter (fun t => decide (s.now < t + 200000000))).length

/-- TRNG_VALID (20 R405): the 1024 samples of start-up testing and 512 more are in, the DRBG is instantiated, VALID is set; the reserve
memory key comes into being at the first VALID after a release (R408). -/
def execTrngValid (s : State) : Host.Outcome State Fault Refusal :=
  if s.mainOk = true ∧ s.trngOk = false ∧ s.regFld (trngPage + 0x40) 0 2 = 0 ∧ 1536 ≤ s.trngSamples then
    let s1 := (((s.putFld (trngPage + 0x40) 0 2 1).putBit (trngPage + 0x40) 2 true).setNat (trngPage + 0x44) 256)
    let s2 := if s.sec.everValid then s1 else s1.setNat (trngPage + 0x54) ((s.now - s.sec.releasedAt) / 200)
    let s3 := { s2 with sec := { s2.sec with instantiated := true, everValid := true, drbgCount := 0, reseedAt := s.now, keyCount := s2.sec.keyCount + 1,
                                             reserveKey := some (s2.sec.reserveKey.getD (s2.sec.keyCount + 1)) } }
    .next ((s3.putBit (kmPage + 0x40) 0 true).evt trngPage 0)
  else .next s

/-- Start-up testing begins again; VALID falls with VALID_LOST if it was set (20 R406). -/
def State.trngRestart (s : State) : State :=
  let s1 := ((s.putFld (trngPage + 0x40) 0 2 0).putBit (trngPage + 0x40) 2 false).setNat (trngPage + 0x44) 0
  ({ s1 with sec := { s1.sec with trngAt := s.now, owed := false } }).evtIf s.trngOk trngPage 1

/-- The TRNG enters FAULT with ENTROPY_FAIL (20 R405, R406). -/
def State.trngFault (s : State) : State :=
  let s1 := (s.trngRestart.putFld (trngPage + 0x40) 0 2 2)
  (s1.faultRec trngPage 0x0100 1).evt trngPage 26

/-- HEALTH_FAIL (20 R406): a failed start-up test starts over; a continuous failure while READY discards the pool and
drops VALID, and the third within 1 s faults the TRNG. -/
def execHealthFail (kind : HealthTest) (s : State) : Host.Outcome State Fault Refusal :=
  let stt := s.regFld (trngPage + 0x40) 0 2
  if s.mainOk = false ∨ stt = 2 then .next s
  else
    let s1 := match kind with
      | .repetition => s.addSat (trngPage + 0x4C) 1
      | .proportion => s.addSat (trngPage + 0x50) 1
      | .startup => s
    if stt = 1 ∧ kind ≠ .startup then
      let fails := (s.sec.fails.filter (fun t => decide (s.now < t + 200000000))) ++ [s.now]
      let s2 := { s1 with sec := { s1.sec with fails := fails } }.putFld (trngPage + 0x40) 8 2 (satNat 3 fails.length)
      .next (if 3 ≤ fails.length then (s2.evt trngPage 2).trngFault else (s2.trngRestart).evt trngPage 2)
    else .next (s1.trngRestart.evt trngPage 2)

/-- ENTROPY_FAIL (20 R405): VALID not set within 40 ms of release. -/
def execEntropyFail (s : State) : Host.Outcome State Fault Refusal :=
  if s.mainOk = true ∧ s.trngOk = false ∧ s.regFld (trngPage + 0x40) 0 2 ≠ 2 ∧ s.sec.everValid = false ∧ s.sec.releasedAt + 8000000 ≤ s.now then
    .next s.trngFault
  else .next s

/-- DRBG_RESEED (20 R406): after 10 s or 2^20 requests the DRBG is reseeded with 256 fresh bits: a new instantiation. A reseed that
cannot complete clears VALID until it does; whether the noise source lets this one complete is a free value (log 9). -/
def execDrbgReseed (s : State) : Host.Outcome State Fault Refusal :=
  if s.mainOk = true ∧ (s.sec.owed = true ∨ (s.trngOk = true ∧ (2 ^ 20 ≤ s.sec.drbgCount ∨ s.sec.reseedAt + 2000000000 ≤ s.now))) then
    let ok := Config.freeBool s.free
    let s1 := s.draw.putBit (trngPage + 0x40) 2 ok
    if ok then
      .next ({ s1 with sec := { s1.sec with drbgCount := 0, reseedAt := s.now, keyCount := s.sec.keyCount + 1, owed := false } }.evtIf s.sec.owed trngPage 0)
    else .next ({ s1 with sec := { s1.sec with owed := true } }.evtIf s.trngOk trngPage 1)
  else .next s

/-- RAND (20 R407): a read returns 32 DRBG bits, or 0 while VALID is 0 or where the requester does not reach the page. -/
def execRand (req : Nat) (s : State) : Host.Outcome State Fault Refusal :=
  if s.present 8 9 = true ∧ s.reach req 8 9 = true ∧ s.trngOk = true then
    .next { s with rdata := Config.drbg s.sec.keyCount s.sec.drbgCount, sec := { s.sec with drbgCount := s.sec.drbgCount + 1 } }
  else .next { s with rdata := 0#32 }

/-- SESS_STATE of a tenant. -/
def State.setSess (s : State) (t x : Nat) : State := s.putFld (kmPage + 0x44) (2 * t) 2 x

/-- The 208 bytes of an attestation report that its signature covers (20 R411). -/
def reportBody (s : State) (t sid key : Nat) (nonce : List Byte) : List Byte :=
  let boot := pg 8 3
  leBytes 4 0x54524B44 ++ leBytes 2 1 ++ leBytes 1 t ++
    leBytes 1 ((if s.conf t then 1 else 0) + (if s.st dbgPage = 2 then 2 else if s.regBit (dbgPage + 0x40) 1 then 1 else 0) * 2) ++
    leBytes 4 sid ++ leBytes 4 s.asm ++ leBytes 4 (s.reg (boot + 0x44)).toNat ++ leBytes 4 (s.reg (boot + 0x48)).toNat ++
    leBytes 4 (s.reg (boot + 0x4C)).toNat ++ leBytes 4 0 ++ nonce ++ leBytes 48 s.boot.measure ++ leBytes 96 (Config.ephemeralPub key)

/-- SESSION_OPEN (20 R411, R412). -/
def execSessionOpen (t : Nat) (s : State) : Host.Outcome State Fault Refusal :=
  .next (s.mbServe t 0x40 40 (fun s =>
    let x := s.tenant t
    if x.session ≠ 0 then s.mbReply t 0x142 []
    else if s.trngOk = false then s.mbReply t s.entropyStatus []
    else
      let sid := s.sec.sessionCount + 1
      let key := s.sec.keyCount + 1
      let nonce := s.mbReq t 8 32
      let body := reportBody s t sid key nonce
      let s1 := { s with sec := { s.sec with sessionCount := sid, keyCount := key, drbgCount := s.sec.drbgCount + 1 } }
      let s2 := s1.setTenant t { x with session := 1, sessionId := sid, nonce := nonce, ephemeral := key, wrapKey := none }
      let s3 := (s2.tmemPut t (s.mbArg t 0 8) (body ++ leBytes 96 (Config.identitySign (Config.sha384 body)))).setSess t 1
      (s3.evt kmPage 0).mbReply t 0 (leBytes 4 sid ++ leBytes 4 304)))

/-- K_wrap of a session (20 R412): HKDF over Z, salted with the NONCE, for "SB-SEAL" ‖ SESSION_ID ‖ TENANT. -/
def wrapKey (x : Tenant) (t : Nat) (pub : List Byte) : Nat :=
  Config.hkdf x.nonce (Config.ecdhX x.ephemeral pub) ([0x53#8, 0x42#8, 0x2D#8, 0x53#8, 0x45#8, 0x41#8, 0x4C#8] ++ leBytes 4 x.sessionId ++ leBytes 1 t)

/-- SESSION_BIND (20 R412). -/
def execSessionBind (t : Nat) (s : State) : Host.Outcome State Fault Refusal :=
  .next (s.mbServe t 0x41 96 (fun s =>
    let x := s.tenant t
    if x.session ≠ 1 then s.mbReply t 0x142 []
    else if Config.onCurve (s.mbReq t 0 96) = false then s.mbReply t 0x143 []
    else
      ((s.setTenant t { x with session := 2, wrapKey := some (wrapKey x t (s.mbReq t 0 96)), ephemeral := 0 }).setSess t 2).mbReply t 0 []))

/-- End a tenant's session: its session keys are destroyed (20 R418). -/
def State.endSession (s : State) (t : Nat) : State :=
  let x := s.tenant t
  if x.session = 0 then s
  else ((s.setTenant t { x with session := 0, sessionId := 0, nonce := [], ephemeral := 0, wrapKey := none }).setSess t 0).evt kmPage 1

/-- SESSION_CLOSE (20 R418). -/
def execSessionClose (t : Nat) (s : State) : Host.Outcome State Fault Refusal :=
  .next (s.mbServe t 0x42 0 (fun s =>
    if (s.tenant t).session = 0 then s.mbReply t 0x142 []
    else if s.conf t = true then s.mbReply t 0x144 []
    else (s.endSession t).mbReply t 0 []))

/-- Destroy a tenant's memory key (20 R409). -/
def State.endMemory (s : State) (t : Nat) : State :=
  (s.setTenant t { s.tenant t with memKey := none }).putBit (kmPage + 0x4C) t false

/-- A tenant that first needs a memory key gets one (20 R409). -/
def State.needKey (s : State) (t : Nat) : State :=
  if (s.tenant t).memKey.isSome then s
  else ({ s with sec := { s.sec with keyCount := s.sec.keyCount + 1 } }.setTenant t { s.tenant t with memKey := some (s.sec.keyCount + 1) }).putBit (kmPage + 0x4C) t true

/-- Whether a container stores weights (09 R182). -/
def storesWeights (cont : List Byte) : Bool := (cSecs cont).any (fun x => x.ty == 6 || x.ty == 7)

/-- A tenant's memory session ends with its last granule, those of its loaded weights among them (20 R409, R410). -/
def State.memCheck (s : State) (t : Nat) : State :=
  if s.grans.any (fun g => g.2 == t + 1) || s.slates.any (fun x => x.2.tenant == t && storesWeights x.2.cont) then s else s.endMemory t

/-- CONF_BUSY: the tenant has a slate loaded or a take-queue page that is not OFF (20 R416, R418). -/
def State.confBusy (s : State) (t : Nat) : Bool :=
  s.hasSlates t || (List.range 8).any (fun q => s.st (tqPage t q) != 0)

/-- CONF_ENTER (20 R404, R416): the debug page locks, the tenant's granules are zeroed under a new key, CONF is set. -/
def execConfEnter (t : Nat) (s : State) : Host.Outcome State Fault Refusal :=
  .next (s.mbServe t 0x43 0 (fun s =>
    let x := s.tenant t
    if t = 0 then s.mbReply t 3 []
    else if x.session ≠ 2 ∨ s.conf t = true then s.mbReply t 0x142 []
    else if s.trngOk = false then s.mbReply t s.entropyStatus []
    else if s.confBusy t = true then s.mbReply t 0x144 []
    else
      let s1 := (if s.st dbgPage = 7 then s else s.lock dbgPage false).putBit (dbgPage + 0x40) 0 false
      let s2 := s1.zeroGranules t
      let s3 := if x.memKey.isSome then { s2 with sec := { s2.sec with keyCount := s2.sec.keyCount + 1 } }.setTenant t { x with memKey := some (s2.sec.keyCount + 1) } else s2
      (((s3.putBit (kmPage + 0x48) t true)).evt kmPage 2).mbReply t 0 []))

/-- Leave confidential mode (20 R418): takes end, slates unload, the tenant's units and granules are zeroed, its keys and
session are destroyed, CONF clears, and the debug page unlocks when no tenant remains confidential. -/
def State.endConf (s : State) (t : Nat) : State :=
  if s.conf t then
    let s1 := ((s.endTakes t).unloadTenant t).zeroUnits t
    let s2 := ((s1.zeroGranules t).endMemory t).endSession t
    let s3 := (s2.putBit (kmPage + 0x48) t false)
    (if s3.regFld (kmPage + 0x48) 0 16 = 0 then s3.unlock dbgPage false else s3).evt kmPage 3
  else s

/-- CONF_EXIT (20 R418). -/
def execConfExit (t : Nat) (s : State) : Host.Outcome State Fault Refusal :=
  .next (s.mbServe t 0x44 0 (fun s =>
    if t = 0 then s.mbReply t 3 []
    else if s.conf t = false then s.mbReply t 0x142 []
    else if s.confBusy t = true then s.mbReply t 0x144 []
    else (s.endConf t).mbReply t 0 []))

/-- ATTEST_CERT (20 R411): the certificates as DER in tenant memory, or CERT_SPACE. -/
def execAttestCert (t : Nat) (s : State) : Host.Outcome State Fault Refusal :=
  .next (s.mbServe t 0x45 12 (fun s =>
    let c := Config.certChain.take 4096
    if s.mbArg t 8 4 < c.length then s.mbReply t 0x145 []
    else (s.tmemPut t (s.mbArg t 0 8) c).mbReply t 0 (leBytes 4 c.length)))

/-- The memory the debug window names (20 Debug page). -/
def dbgSpace (s : State) : Nat :=
  let v := s.reg (dbgPage + 0x44)
  let site := fld v 0 4
  match fld v 8 4 with
  | 0 => spCtl site
  | 1 => spBin site
  | _ => spCore site (fld v 16 12)

/-- Whether the debug window serves a requester: the debug port while the page is RUNNING (20; 06 R109). -/
def dbgOpen (req : Nat) (s : State) : Bool := s.present 8 0x0A && req == 19 && s.st dbgPage == 2 && decide (fld (s.reg (dbgPage + 0x44)) 8 4 ≤ 2)

/-- DBG_WIN_DATA_WRITE (20 R417). -/
def execDbgWinDataWrite (req : Nat) (val : Word) (s : State) : Host.Outcome State Fault Refusal :=
  .next (s.asWrite 0x0F req 8 0x0A 0x4C (fun s =>
    if dbgOpen req s then
      let a := (s.reg (dbgPage + 0x48)).toNat
      (s.ramPut (dbgSpace s) a (leBytes 4 val.toNat)).addWrap (dbgPage + 0x48) 4
    else s.reject req dbgPage 0x4C 4))

/-- DBG_WIN_DATA_READ (20 R417). -/
def execDbgWinDataRead (req : Nat) (s : State) : Host.Outcome State Fault Refusal :=
  if dbgOpen req s then
    let a := (s.reg (dbgPage + 0x48)).toNat
    .next ({ s with rdata := BitVec.ofNat 32 (leNat (s.ramGet (dbgSpace s) a 4)) }.addWrap (dbgPage + 0x48) 4)
  else .next { s with rdata := 0#32 }

/-- TAP_INSTRUCTION (20 R417): codes 0 IDCODE, 1 BYPASS, 2 SAMPLE/PRELOAD (log 12); while a tenant is confidential every
other instruction selects BYPASS. -/
def execTapInstruction (code : Nat) (s : State) : Host.Outcome State Fault Refusal :=
  let confAny := s.mainOk && s.regFld (kmPage + 0x48) 0 16 != 0
  .next { s with sec := { s.sec with tap := if confAny && decide (2 < code) then 1 else code } }

end Sys2Proof.Machine
end

