-- ==== Sys2Proof/Machine/MmuCmds.lean ====
section
/-!
DEFINITION. Machine/MmuCmds.lean: the MMU page and mailbox, granules, and the error classes (11).
-/
namespace Sys2Proof.Machine

/-- A halted unit goes on from its saved transfer (11 R235). -/
def State.unitResume (s : State) (u : HUnit) : State :=
  if u.kind ≤ 1 then
    let d := s.dq u.site (u.unit / 4) (u.unit % 4)
    (s.setDq u.site (u.unit / 4) (u.unit % 4) { d with halted := false, flights := d.flights.map (fun f => { f with issued := f.issued + (s.now - d.haltAt) }) }).showDq u.site (u.unit / 4) (u.unit % 4)
  else if u.kind = 2 then s.unhalt (engPage u.site u.unit)
  else if u.kind = 3 then s.unhalt (drPage u.unit)
  else s

/-- Units for which `pick` holds walk again (11 R234, R235): one that still meets V = 0 halts under a new record, the rest go on, their
next access waiting where its granule is being zeroed (R229); works and the MMU page leave HALTED when none of their units remains
halted. -/
def State.rewalk (s : State) (t : Nat) (pick : HUnit → Bool) : State :=
  let us := (s.mmu t).units.filter pick
  let s1 := s.dropUnits t pick
  let s2 := us.foldl (fun s u =>
    match s.translate t u.ta u.write .stack with
    | .absent lvl => s.haltUnit t { u with slot := none, level := lvl } (if u.kind = 3 then some (32 + u.unit) else match u.work with | some w => workVec w | none => none)
    | _ => s.unitResume u) s1
  let s3 := us.foldl (fun s u => match u.work with | some w => s.unhaltWork w | none => s) s2
  s3.putBit (mmuPage t + 0x58) 1 ((s3.mmu t).units.any (fun u => u.slot.isNone))

/-- RESUME of a record (11 R235); `none` where the record is free. -/
def State.resumeRec (s : State) (t id : Nat) (fail : Bool) : Option State :=
  if 32 ≤ id ∨ s.fltValid t id = false then none
  else if fail then
    let us := (s.mmu t).units.filter (fun u => u.slot == some id)
    let s1 := s.dropUnits t (fun u => u.slot == some id)
    let s2 := us.foldl (fun s u => match u.work with
      | some w => s.contained w 0x0105
      | none => if u.kind = 3 then s.toFault (drPage u.unit) 0x0105 2 else s) s1
    some (s2.rewalk t (fun u => u.slot.isNone))
  else some (s.rewalk t (fun u => u.slot == some id || u.slot.isNone))

/-- MMU_CMD (11): INVALIDATE starts an invalidation; RESUME names a record, rejected with RANGE where it is free. -/
def State.mmuCmd (s : State) (req t : Nat) (val : Word) : State :=
  let p := mmuPage t
  if s.isMember = true ∧ s.ensSt = 2 then s.reject req p 0x54 5 else
  let r : Option State := if bitOf val 1 then s.resumeRec t (fld val 8 5) (bitOf val 2) else some s
  match r with
  | none => s.reject req p 0x54 3
  | some s1 => if bitOf val 0 then s1.putBit (p + 0x58) 0 true else s1

def State.mmuWrite (s : State) (req t : Nat) (val : Word) (c : Bool) : State :=
  if c = true ∧ t < 16 then s.asWrite 0x0A req 8 (0x40 + t) 0x54 (fun s => s.mmuCmd req t val) else s

/-- MMU_CMD.INVALIDATE (11 R232). -/
def execMmuCmdInvalidate (req t : Nat) (val : Word) (s : State) : Host.Outcome State Fault Refusal :=
  .next (s.mmuWrite req t val (bitOf val 0))
/-- MMU_CMD.RESUME in retry mode (11 R235). -/
def execMmuCmdResume (req t : Nat) (val : Word) (s : State) : Host.Outcome State Fault Refusal :=
  .next (s.mmuWrite req t val (bitOf val 1 && !bitOf val 2))
/-- MMU_CMD.RESUME in Fail mode (11 R235). -/
def execMmuCmdResumeFail (req t : Nat) (val : Word) (s : State) : Host.Outcome State Fault Refusal :=
  .next (s.mmuWrite req t val (bitOf val 1 && bitOf val 2))

/-- Serve a mailbox request that tenant 0 may end with TENANT (11 Mailbox opcodes; log 46). -/
def State.mbServeFor (s : State) (t op len : Nat) (k : Nat → State → State) : State :=
  if t = 0 ∧ s.regFld (mbPage 0 + 0x100) 16 16 = len + 1 then
    s.mbServe 0 op (len + 1) (fun s => if 16 ≤ s.mbArg 0 len 1 then s.mbReply 0 3 [] else k (s.mbArg 0 len 1) s)
  else s.mbServe t op len (k t)

/-- MMU_SET_ROOT (11 R230): MMU_BUSY while a slate is loaded or a take-queue page is not OFF. -/
def execMmuSetRoot (t : Nat) (s : State) : Host.Outcome State Fault Refusal :=
  .next (s.mbServeFor t 0x20 8 (fun x s =>
    if s.hasSlates x = true ∨ (List.range 8).any (fun q => s.st (tqPage x q) != 0) = true then s.mbReply t 0x0120 []
    else (s.setWide (mmuPage x + 0x40) (s.mbArg t 0 8 / 4096 * 4096)).mbReply t 0 []))

/-- MMU_INVALIDATE (11 R232): the answer waits for INV_DONE. -/
def execMmuInvalidate (t : Nat) (s : State) : Host.Outcome State Fault Refusal :=
  .next (s.mbServeFor t 0x21 12 (fun x s =>
    let p := mmuPage x
    let s1 := ((s.setNat (p + 0x48) (s.mbArg t 0 4 / 4096 * 4096)).setNat (p + 0x4C) (s.mbArg t 4 2)).setNat (p + 0x50) (s.mbArg t 8 4)
    (s1.setMmu x { s1.mmu x with waiter := true }).putBit (p + 0x58) 0 true))

/-- The tenant on whose MMU a busy MMU_INVALIDATE of mailbox m waits. -/
def State.invTenant (s : State) (m : Nat) : Option Nat :=
  if s.regFld (mbPage m + 0x44) 0 2 = 1 ∧ s.regFld (mbPage m + 0x100) 0 16 = 0x21 then
    some (if m = 0 ∧ s.regFld (mbPage 0 + 0x100) 16 16 = 13 then s.mbArg 0 12 1 else m)
  else none

/-- INV_DONE (11 R232, R234, R245): no transfer of the tenant remains in flight, an engine unit's translated stack writes among them;
units without a record, and those on an invalidated page, walk again. -/
def execInvDone (t : Nat) (s : State) : Host.Outcome State Fault Refusal :=
  let p := mmuPage t
  let flying := s.dqs.any (fun d => !d.2.flights.isEmpty && (match d.2.work with | some w => s.workTenant w == t | none => false))
    || s.engs.any (fun e => e.2.busy && e.2.writes.any (fun w => w.1 == spStack) && e.2.lastTenant == some t)
  .next (if s.mainOk = false ∨ 16 ≤ t ∨ s.regBit (p + 0x58) 0 = false ∨ flying = true then s
    else
      let ta := ((s.reg (p + 0x48)).toNat + s.regFld (p + 0x4C) 0 16 * 2 ^ 32) / 4096
      let n := (s.reg (p + 0x50)).toNat
      let hit (u : HUnit) : Bool := u.slot.isNone || n == 0xFFFFFFFF || (decide (ta ≤ u.ta / 4096) && decide (u.ta / 4096 < ta + n))
      let s1 := ((s.putBit (p + 0x58) 0 false).evt p 1).rewalk t hit
      if (s1.mmu t).waiter then
        (List.range 16).foldl (fun s m => if s.invTenant m = some t then s.mbReply m 0 [] else s) (s1.setMmu t { s1.mmu t with waiter := false })
      else s1)

/-- FAULT_LIST (11 R234): up to 15 pending records, in index order. -/
def execFaultList (t : Nat) (s : State) : Host.Outcome State Fault Refusal :=
  .next (s.mbServeFor t 0x22 0 (fun x s =>
    let l := ((List.range 32).filter (fun i => s.fltValid x i)).take 15
    s.mbReply t 0 (leBytes 1 l.length ++ leBytes 7 0 ++ l.flatMap (fun i => s.regBytes (fltReg x i) 4))))

/-- RESUME (11 R235): NO_SUCH_FAULT for a free record. -/
def execResume (t : Nat) (s : State) : Host.Outcome State Fault Refusal :=
  .next (s.mbServeFor t 0x23 2 (fun x s =>
    match s.resumeRec x (s.mbArg t 0 1) (s.mbArg t 1 1 != 0) with
    | none => s.mbReply t 0x0121 []
    | some s1 => s1.mbReply t 0 []))

/-- What GRAN_OWNER reads: the owner of granule GRAN_IDX, and whether a granule is being zeroed (11). -/
def State.showGran (s : State) : State :=
  let o := tabGet 0 s.grans (s.regFld (memPage + 0x4C) 0 16)
  s.setNat (memPage + 0x50) ((if o = 0 then 0 else o - 1 + 128) + (if s.granBusy.isSome then 256 else 0))

/-- GRAN_OWNER (11 R229; 20 R409): the granule changes hands and is zeroed; accesses to it wait. -/
def execGranOwner (req : Nat) (val : Word) (s : State) : Host.Outcome State Fault Refusal :=
  .next (s.asWrite 0x0B req 8 5 0x50 (fun s =>
    let i := s.regFld (memPage + 0x4C) 0 16
    if s.granBusy.isSome then s.reject req memPage 0x50 5
    else if dpaTenantEnd s.asm ≤ i * 2 ^ 21 then s.reject req memPage 0x50 3
    else
      let old := tabGet 0 s.grans i
      let s1 : State := { s with grans := tabPut 0 s.grans i (if bitOf val 7 then fld val 0 4 + 1 else 0), granBusy := some i }
      let s2 := if old = 0 then s1 else s1.memCheck (old - 1)
      (if bitOf val 7 then s2.needKey (fld val 0 4) else s2).showGran))

/-- GRAN_DONE (11 R229). -/
def execGranDone (s : State) : Host.Outcome State Fault Refusal :=
  .next (match s.granBusy with
    | none => s
    | some i => if s.mainOk = false then s
      else
        let s1 := s.ramZero spStack (i * 2 ^ 21) (2 ^ 21)
        (({ s1 with granBusy := none, poison := s1.poison.filter (fun k => !(decide (ramKey spStack (i * 2 ^ 21) ≤ k) && decide (k < ramKey spStack ((i + 1) * 2 ^ 21)))) }).showGran).evt memPage 3)

/-- Count a corrected error of a die in its clapper hour, CE_HIGH from CE_THRESH on (11 R238). -/
def State.countCe (s : State) (site : Nat) : State :=
  let h := s.ns / (3600 * 10 ^ 9)
  let c := tabGet (0, 0) s.ces site
  let n := if c.1 = h then c.2 + 1 else 1
  ({ s with ces := tabPut (0, 0) s.ces site (h, n) }).evtIf (decide ((s.reg (memPage + 0x54)).toNat ≤ n)) memPage 0

/-- Whether controller k of a compute site has its stack. -/
def State.stackAt (s : State) (site k : Nat) : Bool := decide (k < 2) && dieAt s.asm site == .compute && s.mainOk && stackFitted s.asm (2 * site + k)

/-- CORRECTED_ERROR (11 R238): kind 0 a stack of controller `unit`, 1 bin, flags and cue queues, 2 core store, 3 line
buffers, 4 a control-core memory. -/
def execCorrectedError (site kind unit : Nat) (s : State) : Host.Outcome State Fault Refusal :=
  .next (if kind = 0 then (if s.stackAt site unit then (s.addSat (pg site (12 + unit) + 0x40) 1).countCe site else s)
    else if 5 ≤ kind then s
    else if s.dieUp site then (s.addSat (pg site 0x0A + 0x40 + 4 * (kind - 1)) 1).countCe site
    else if kind = 4 ∧ dieAt s.asm site ≠ .none ∧ dieAt s.asm site ≠ .compute ∧ s.mainOk = true then s.countCe site
    else s)

/-- Mark a word poisoned (11 R239). -/
def State.poisonAt (s : State) (sp a : Nat) : State :=
  let k := ramKey sp (a / wordLen sp * wordLen sp)
  if s.poison.contains k then s else { s with poison := s.poison ++ [k] }

/-- FLAG_UE (11 R239): a contained error of the work whose group holds the flag or cue queue. -/
def State.flagUe (s : State) (site : Nat) (holds : Slate → GroupAt → Bool) : State :=
  match s.slates.find? (fun x => x.2.state != 3 && x.2.groups.any (fun g => g.site == site && holds x.2 g)) with
  | none => s
  | some (_, x) =>
    let s1 := s.faultRec (pg site 0x0A) 0x0101 2
    if x.kind = 2 then s1.contained (.stage x.handle) 0x0101
    else s1.tqs.foldl (fun s q => q.2.entries.foldl (fun s e => if e.slate = x.handle ∧ (e.st = 1 ∨ e.st = 2) then s.contained (.take (q.1 / 8) (q.1 % 8) e.n) 0x0101 else s) s) s1

/-- A mailbox request in progress is answered NOT_READY, and nothing waits to answer it any more (05 R91, R103). -/
def State.mbNotReady (s : State) (t : Nat) : State :=
  if s.regFld (mbPage t + 0x44) 0 2 = 1 then
    let s1 : State := { s with slates := s.slates.map (fun (x : Nat × Slate) => (x.1, { x.2 with waiter := if x.2.waiter = some t then none else x.2.waiter })) }
    let s2 := match s1.invTenant t with | some x => s1.setMmu x { s1.mmu x with waiter := false } | none => s1
    s2.mbReply t 4 []
  else s

/-- A restart of the control core of a field die or of the boot master (05 R91; 03 R70): CORE_RESTART. How long it takes the manual
does not say: a free number of samples (log 36). The boot master's restart answers every mailbox request in progress NOT_READY and
aborts the groups it has not set GO for. -/
def State.coreRestart (s : State) (site : Nat) : State :=
  let s1 : State := { s with restarts := tabPut 0 s.restarts site (s.now + (Config.freeWord s.free).toNat), free := s.free + 1 }
  let s2 := s1.evt (pg 8 3) 3
  if site = 8 then
    let s3 := (List.range 16).foldl (fun s g => if (s.group g).go = false then s.abortGroup g 9 false else s) s2
    if s3.mainOk then (List.range 16).foldl (fun s t => s.mbNotReady t) s3 else s3
  else s2

/-- UNCORRECTABLE_ERROR (11 R239, R241): kind 0 a stack line at DPA `addr`, 1 a bin word, 2 a core-store word (core × 2^20 +
offset), 3 a line-buffer word (engine × 2^24 + offset), 4 a bin flag, 5 a cue queue, 6 a control-core memory. -/
def execUncorrectableError (site kind addr : Nat) (s : State) : Host.Outcome State Fault Refusal :=
  .next (if kind = 0 then
      (if s.mainOk = true ∧ addr < dpaEnd s.asm ∧ s.dpaSite addr = site then (s.poisonAt spStack addr).addSat (s.ctlPage addr + 0x44) 1 else s)
    else if kind = 6 then
      (if s.mainDie site then (if s.siteUp site then (s.faultRec (pg site 0x0A) 0x0103 3).dieFatal site else s)
       else if s.isField site = true ∨ site = 8 then s.coreRestart site else s)
    else if s.dieUp site = false then s
    else if kind = 1 then s.poisonAt (spBin site) (addr % 2 ^ 26)
    else if kind = 2 then s.poisonAt (spCore site (addr / 2 ^ 20 % 64)) (addr % 2 ^ 20)
    else if kind = 3 then (if addr / 2 ^ 24 < 6 ∧ addr % 2 ^ 24 < 2 ^ 19 then s.poisonAt (spLine site (addr / 2 ^ 24)) (addr % 2 ^ 24) else s)
    else if kind = 4 then s.flagUe site (fun x g => decide (g.flag ≤ addr) && decide (addr < g.flag + cFlags x.cont))
    else if kind = 5 then s.flagUe site (fun x g => decide (g.cue ≤ addr) && decide (addr < g.cue + cCues x.cont))
    else s)

/-- The DPA of a line of a stack (11 R227): position and offset to address. -/
def State.stackDpa (s : State) (m off : Nat) : Nat :=
  let g := if s.regBit (memPage + 0x40) 0 then 65536 else 4096
  let l := (List.range 8).filter (stackFitted s.asm)
  ((off / g) * l.length + (l.findIdx? (· == m)).getD 0) * g + off % g

/-- SCRUB (11 R240): the next line of a stack's pass is read; result 1 corrected, 2 uncorrectable, else clean. -/
def execScrub (site ctl result : Nat) (s : State) : Host.Outcome State Fault Refusal :=
  .next (if s.stackAt site ctl = false then s
    else
      let i := tabGet 0 s.scrubs (site * 2 + ctl)
      let p := pg site (12 + ctl)
      let s1 := if result = 1 then (s.addSat (p + 0x40) 1).countCe site
        else if result = 2 then (s.poisonAt spStack (s.stackDpa (2 * site + ctl) (i * 64))).addSat (p + 0x44) 1 else s
      let last := decide (2 ^ 28 ≤ i + 1)
      let j := if last then 0 else i + 1
      let s2 := ({ s1 with scrubs := tabPut 0 s1.scrubs (site * 2 + ctl) j }).setNat (p + 0x48) (j / 1024)
      if last then s2.addSat (p + 0x4C) 1 else s2)

/-- DIE_FATAL_ERROR (11 R242). -/
def execDieFatalError (site _code : Nat) (s : State) : Host.Outcome State Fault Refusal := .next (s.dieFatal site)



/-- PKG_FATAL (11 R243): HOST_UE 0x0100, LINK_DOWN 0x0101, STACK_FAIL 0x0102. -/
def execPkgFatal (code : Nat) (s : State) : Host.Outcome State Fault Refusal :=
  .next (if 0x0100 ≤ code ∧ code ≤ 0x0102 then s.pkgFatal code else s)

/-- LINK_REPLAY (11 R237, R241): a replay of a compute site's link, counted; `n` the flit's replays so far; past 8 LINK_DOWN. -/
def execLinkReplay (site n : Nat) (s : State) : Host.Outcome State Fault Refusal :=
  .next (if s.dieUp site = false then s
    else if 8 < n then s.pkgFatal 0x0101 else s.addSat (pg site 0x0A + 0x50) 1)

end Sys2Proof.Machine
end

