-- ==== Sys2Proof/Machine/SupplyOps.lean ====
section
/-!
DEFINITION. Machine/SupplyOps.lean: what the supplies and resets reach (04 R76, R81 to R87; 05 R105, R106).
-/
namespace Sys2Proof.Machine

def supPage : Nat := pg 8 2
def bootPage : Nat := pg 8 3
def flashPage : Nat := pg 8 4
def fioPage (site : Nat) : Nat := pg site 2

/-- Sites that carry a field die. -/
def State.fieldSites (s : State) : List Nat := [9, 11].filter (fun x => s.isField x)
/-- Sites that carry a compute or link die. -/
def State.mainSites (s : State) : List Nat := [0, 1, 2, 3, 9, 10, 11].filter (fun x => s.mainDie x)

/-- A supply event, with its record on ring 32 (04; 06 R131 code 5). -/
def State.supEvt (s : State) (bit : Nat) : State :=
  let s1 := s.evt supPage bit
  s1.eventTo 32 5 8 2 (s1.reg (supPage + 0x10)).toNat 0

/-- Whether a register lies in the main domain (04 R76). -/
def mainAddr (asm addr : Nat) : Bool :=
  match dieAt asm (siteOf addr) with
  | .field => false
  | .host => decide (5 ≤ blkOf addr)
  | _ => true

/-- A supply-loss splice on one field die (04 R85): each stream that is RUNNING or PACED splices at its watermark with CAUSE 4, and its
gate's group makes a SUPPLY_LOSS stop. A stream already HALTED whose STOP record is not delivered only has its splice point moved to
the watermark (16 R343). -/
def State.supplySplice (s : State) (site : Nat) : State :=
  let live := (List.range 16).filter (fun k => s.takesPart site k)
  let old := (List.range 16).filter (fun k => s.spliced site k && !s.regBit (strPage site k + 0x80) 8)
  let gatesOf (ks : List Nat) : List Nat := (List.range 8).filter (fun g => ks.contains (2 * g) || ks.contains (2 * g + 1))
  let gs := gatesOf live
  let s1 := (gatesOf (live ++ old)).foldl (fun s g => s.hardSplice site g ((live ++ old).filter (fun k => k / 2 == g)) 4 false) s
  if live.isEmpty then s1
  else
    let s2 := gs.foldl (fun s g => s.groupStop site g 4) s1
    let s3 := (s2.setNat (fioPage site + 0x48) (live.foldl (fun m k => m + 2 ^ k) 0)).setFio site { s2.fio site with splicing := gs }
    (s3.evt (fioPage site) 5).spliceDone site

/-- The main domain loses its state (04 R76, R83): every page of it reads its reset values, every slate is LOST (09 R199), no key,
take, stripe or transfer survives, and the groups that name its sites abort (03 R72). Host memory is not the device's. DEDUCED (log
71): BOOT_STATE goes back to AON_READY where an image has been booted, FAIL stands, and CORE_UP keeps the cores of X0 to X3. -/
def State.resetMain (s : State) : State :=
  let s0 := s.putBit (supPage + 0x40) 5 false
  let s1 := s0.mainSites.foldl (fun s x => (s.siteDown x).siteSlotsLost x) s0
  let s2 := (s1.putFld (pg 8 0 + 0x4C) 4 8 0).setNat (pg 8 0 + 0x54) 0
  let s3 := s2.slates.foldl (fun s x => s.pipeLostOf x.2) s2
  let keep (sp : Nat) : Bool := sp == spCtl 8 || s.fieldSites.any (fun x => sp == spCtl x)
  let s4 : State := { s3 with
    regs := s3.regs.filter (fun r => !mainAddr s.asm r.1)
    latch := s3.latch.filter (fun r => !mainAddr s.asm (r.1 % 2 ^ 30))
    back := s3.back.filter (fun r => !mainAddr s.asm r.1)
    boot := { s3.boot with image := [] }
    gaffer := {}
    tenants := []
    sec := { tap := s3.sec.tap, keyCount := s3.sec.keyCount, drbgCount := s3.sec.drbgCount }
    ens := {}
    ports := []
    rings := []
    bar2 := []
    loads := []
    ram := s3.ram.filter (fun r => keep (r.1 / 2 ^ 48))
    slotRings := []
    cueQs := []
    binFlags := []
    slates := (s3.slates.filter (fun x => x.2.state != 2)).map (fun (x : Nat × Slate) => (x.1, { x.2 with state := 3, cores := [], engs := [], running := false, halted := false, faulted := false }))
    cancels := []
    tqs := []
    sched := {}
    dqs := []
    cores := []
    cmbs := []
    engs := []
    mmus := []
    grans := []
    granBusy := none
    poison := []
    buckets := []
    arbs := []
    capQs := []
    avs := []
    bndTaken := []
    mute := false
    ces := []
    scrubs := [] }
  let s5 := s4.fieldSites.foldl (fun s x => s.putBit (fioPage x + 0x40) 5 false) s4
  let s6 := if s5.bootSt = 3 ∨ s5.bootSt = 4 ∨ (s5.bootSt = 5 ∧ s5.boot.slot.isSome = true) then s5.putFld (bootPage + 0x40) 0 3 2 else s5
  let aon := s6.fieldSites.foldl (fun n x => n + 2 ^ (x % 8 + 8)) 0x100
  (s6.setReg (bootPage + 0x54) (s6.reg (bootPage + 0x54) &&& BitVec.ofNat 32 aon)).passRings

/-- PEND_MAP as the pages that kept their events show it (06), after a release of the main domain. -/
def State.showPends (s : State) : State :=
  ((8 :: s.fieldSites).flatMap (fun x => (List.range 0xA0).map (fun b => pg x b))).foldl (fun s p =>
    if s.pend p = 0#32 then s else s.showPend p) s

/-- With the main domain released and AON_READY set, the boot of the main domain begins (05 R98): MAIN_BOOTING. -/
def State.mainBooting (s : State) : State := if s.mainOk = true ∧ s.bootSt = 2 then s.putFld (bootPage + 0x40) 0 3 3 else s

/-- The main domain leaves reset (04 R82; 05 R98, R102): MAIN_OK, MAIN_RESTORED, MAIN_BOOTING; recovery firmware alone does not boot it
again. -/
def State.mainUp (s : State) : State :=
  let s1 := s.putBit (supPage + 0x40) 5 true
  let s2 := s1.fieldSites.foldl (fun s x => s.putBit (fioPage x + 0x40) 5 true) { s1 with sec := { s1.sec with releasedAt := s1.now, trngAt := s1.now } }
  let s3 := s2.showPends.supEvt 3
  if s3.boot.recovery then ((s3.putFld (bootPage + 0x40) 0 3 5).putFld (bootPage + 0x40) 8 8 6).evt bootPage 2 else s3.mainBooting

/-- A main-domain reset while main stays powered: the splices of R85, and the domain leaves reset again if it was out of it. -/
def State.mainReset (s : State) (cause : Nat) : State :=
  let s1 := s.fieldSites.foldl (fun s x => s.supplySplice x) s
  let s2 := s1.resetMain.setNat (supPage + 0x44) cause
  if s.mainOk then s2.mainUp else s2

/-- What a read of a flash byte gives (05 R106): every bit that is surely 1, and of its weak bits those that a free value has. -/
def weakByte (sure weak free : Byte) : Byte := sure ||| (free &&& weak)

/-- A read of the boot flash. A weak bit reads as a free value, drawn for this read (log 4): the reader passes the counter on. -/
def State.flashGet (s : State) (a n : Nat) : List Byte :=
  (List.range n).map (fun i => weakByte (tabGet 0xFF#8 s.flash (a + i)) (tabGet 0#8 s.weak (a + i)) ((Config.freeWord (s.free + i)).setWidth 8))

/-- Cells of the boot flash: the bits that are surely 1 and the weak ones, byte by byte. -/
def State.flashCells (s : State) (a n : Nat) : List (Byte × Byte) :=
  (List.range n).map (fun i => (tabGet 0xFF#8 s.flash (a + i), tabGet 0#8 s.weak (a + i)))
def State.flashPut (s : State) (a : Nat) (cells : List (Byte × Byte)) : State :=
  { s with flash := tabPutList 0xFF#8 s.flash a (cells.map (·.1)), weak := tabPutList 0#8 s.weak a (cells.map (·.2)) }

/-- Density of the flash in bytes. -/
def State.flashSize (s : State) : Nat := 2 ^ s.regFld (flashPage + 0x40) 0 8

/-- The cells a PROGRAM of FL_BUF leaves of a page: each bit may only fall. -/
def State.progCells (s : State) : List (Byte × Byte) :=
  let buf := s.regBytes (flashPage + 0x100) 64
  (List.range 256).map (fun i => let c := (s.flashCells (s.boot.flAddr + i) 1).getD 0 (0#8, 0#8); (c.1 &&& buf.getD i 0#8, c.2 &&& buf.getD i 0#8))

/-- Bytes that the flash command in progress changes. -/
def State.flashSpan (s : State) : Nat :=
  if s.boot.flOp = 2 then 256 else if s.boot.flOp = 3 then 4096 else if s.boot.flOp = 4 then 65536 else 0

/-- A flash command broken off, or ended in an error: of a page being programmed every bit that was to fall is weak (05 R106); of a
block being erased every bit that was 0 (log 47). -/
def State.flashTorn (s : State) : State :=
  let old := s.flashCells s.boot.flAddr s.flashSpan
  let new := s.progCells
  s.flashPut s.boot.flAddr ((List.range s.flashSpan).map (fun i =>
    let o := old.getD i (0#8, 0#8)
    let w := new.getD i (0#8, 0#8)
    if s.boot.flOp = 2 then (w.1, (o.1 ||| o.2) &&& ~~~ w.1) else (o.1, ~~~ o.1)))

/-- A flash command runs to its end in the flash: a program's bits fall, an erased block reads 0xFF (05 R105). -/
def State.flashEnd (s : State) : State :=
  if s.boot.flOp = 2 then s.flashPut s.boot.flAddr s.progCells
  else { s with flash := tabDropRange s.boot.flAddr s.flashSpan s.flash, weak := tabDropRange s.boot.flAddr s.flashSpan s.weak }

/-- SUP_STATUS's inputs from the levels at the pins (04). -/
def State.showSup (s : State) : State :=
  (s.putBit (supPage + 0x40) 1 (decide (3000 ≤ s.sup.vaonA))).putBit (supPage + 0x40) 2 (decide (3000 ≤ s.sup.vaonB))
/-- The level at the VFIO input that a field die has selected, in mV. -/
def State.fioSel (s : State) (site : Nat) : Nat := if s.regBit (fioPage site + 0x40) 0 then (s.fio site).b else (s.fio site).a
def State.showFio (s : State) (site : Nat) : State :=
  let f := s.fio site
  let p := fioPage site + 0x40
  ((s.putBit p 1 (decide (19000 ≤ f.a))).putBit p 2 (decide (19000 ≤ f.b))).putBit p 4 (decide (17000 ≤ s.fioSel site))
/-- A field die's outputs are let go once its selected VFIO input has stood at or above 19.2 V (04 R81). -/
def State.fioLetGo (s : State) (site : Nat) : State :=
  s.setFio site { s.fio site with up := (s.fio site).up || decide (19200 ≤ s.fioSel site) }

/-- Whether the supplies of the always-on domain let it leave reset (04 R81): the selected VAON input at or above 3.0 V and VIO_AON at
or above 1.71 V. -/
def State.aonFit (s : State) : Bool :=
  decide (3000 ≤ (if s.regBit (supPage + 0x40) 0 then s.sup.vaonB else s.sup.vaonA)) && decide (1710 ≤ s.sup.vioAon)

/-- A reset that reaches the whole package (04 R83, R87): everything but fuses, the flash, host memory and the levels at the supply
pins is at reset; the command trace, the model's counters and the waiting commands stand. The always-on power-on reset (CAUSE 1) breaks
a flash command off (05 R106) and holds the always-on domain until its supplies have been good for 2 ms (R81); the others leave the
flash to end its command, which the device never interrupts (05 R105). DESIGN CHOICE (log 71): with MAIN_PG high through the reset
the 1 ms of R82 runs from the reset; the encoders' pins, whatever they stood at, are taken as low until their first edge. -/
def State.packageReset (s : State) (cause : Nat) : State :=
  let t := if s.boot.flOp = 0 then s else if cause = 1 then s.flashTorn else s.flashEnd
  let pgHigh := s.regBit (supPage + 0x40) 4
  let r : State := { State.reset with
    asm := s.asm
    out := s.out
    hmem := s.hmem
    badCpl := s.badCpl
    flash := t.flash
    weak := t.weak
    free := t.free
    pending := s.pending
    sup := { vaonA := s.sup.vaonA, vaonB := s.sup.vaonB, vioAon := s.sup.vioAon, held := if cause = 1 then some 0 else none,
             pgAt := if pgHigh then some 0 else none }
    fios := s.fios.map (fun (x : Nat × Fio) => (x.1, { a := x.2.a, b := x.2.b, up := false }))
    sec := { keyCount := s.sec.keyCount, drbgCount := s.sec.drbgCount } }
  let r1 := (r.setReg (bootPage + 0x4C) (s.reg (bootPage + 0x4C))).setNat (supPage + 0x44) cause
  let r2 := ((r1.putBit (supPage + 0x40) 0 (decide (s.sup.vaonA < 3000) && decide (3000 ≤ s.sup.vaonB))).putBit (supPage + 0x40) 4 pgHigh).showSup
  r2.fieldSites.foldl (fun r x => ((r.putBit (fioPage x + 0x40) 0 (decide ((r.fio x).a < 19000) && decide (19000 ≤ (r.fio x).b))).showFio x).fioLetGo x) r2

end Sys2Proof.Machine
end

