-- ==== Sys2Proof/Machine/Boot.lean ====
section
/-!
DEFINITION. Machine/Boot.lean: control cores, firmware images, the boot flash and the mailbox's own requests (05), and the PCIe
endpoint's resets and link (06 R107, R108, R138).
-/
namespace Sys2Proof.Machine

/-- Bytes 0x008 to 0x24F of an image header, which its SIG covers (05 R94). -/
def signedHead (img : List Byte) : List Byte := (img.drop 8).take 0x248
def imgBody (img : List Byte) : List Byte := (img.drop 0x1000).take (leAt img 0x14 4)

/-- Check 1 of 05 R95, for a slot or image of `room` bytes; a recovery image's SEQ is ignored (05 R101). -/
def headerOk (room : Nat) (recovery : Bool) (img : List Byte) : Bool :=
  let n := leAt img 0x18 2
  let len := leAt img 0x14 4
  leAt img 0 4 == 0x57464B44 && leAt img 8 2 == 1 && leAt img 0xA 2 == 0x1000 && leAt img 0x1A 6 == 0
    && leAt img 0x310 3312 == 0 && (recovery || leAt img 0xC 4 != 0xFFFFFFFF) && decide (1 ≤ n) && decide (n ≤ 32) && decide (0x1000 + len ≤ room)
    && len % 256 == 0 && (List.range 32).all (fun i => leAt img (0x22 + 16 * i) 2 == 0)
    && (List.range n).all (fun i => decide (leAt img (0x24 + 16 * i) 4 + leAt img (0x28 + 16 * i) 4 ≤ len))

/-- Checks 1 to 3 of 05 R95 as SLOT_RESULT codes; 1 where all pass. -/
def checkHead (minSvn room : Nat) (recovery : Bool) (img : List Byte) : Nat :=
  if headerOk room recovery img = false then 2
  else if Config.sha384 ((img.drop 0x2B0).take 96) ≠ Config.fwKeyHash then 3
  else if leAt img 0x10 4 < minSvn then 4 else 1

/-- Checks 4 to 6 of 05 R95; 1 where all pass. -/
def checkBody (img : List Byte) : Nat :=
  if crc32 ((img.take (0x1000 + leAt img 0x14 4)).drop 8) ≠ leAt img 4 4 then 5
  else if Config.sha384 (imgBody img) ≠ leAt img 0x220 48 then 6
  else if Config.ecdsaVerify ((img.drop 0x2B0).take 96) (Config.sha384 (signedHead img)) ((img.drop 0x250).take 96) = false then 7 else 1

/-- What slot x of the flash holds (05 R93). -/
def State.slotImage (s : State) (x : Nat) : List Byte := s.flashGet (x * (s.flashSize / 2)) (s.flashSize / 2)

def State.slotHead (s : State) (x : Nat) : Nat := checkHead (s.reg (bootPage + 0x4C)).toNat (s.flashSize / 2) false (s.slotImage x)

/-- The slots in the order the ROM tries them (05 R96). -/
def State.slotOrder (s : State) : List Nat :=
  let sq (x : Nat) : Nat := leAt (s.slotImage x) 0xC 4
  ((if sq 0 < sq 1 then [1, 0] else [0, 1]).filter (fun x => s.slotHead x == 1))

/-- Slots tried in turn, each with its result, up to the first valid one (05 R96). -/
def State.trySlots (s : State) : List Nat → List (Nat × Nat)
  | [] => []
  | x :: xs => let r := checkBody (s.slotImage x); if r = 1 then [(x, 1)] else (x, r) :: s.trySlots xs

/-- Load into a site's control-core memory the sections of an image that have a type and name it in DIE_MASK by bit `i` (05 R94, R97,
R98). -/
def State.loadSection (s : State) (img : List Byte) (type site i : Nat) : State :=
  (List.range (leAt img 0x18 2)).foldl (fun s k =>
    let e := 0x20 + 16 * k
    if leAt img e 1 = type ∧ leAt img (e + 1) 1 / 2 ^ i % 2 = 1 then
      s.ramPut (spCtl site) (leAt img (e + 12) 4) (((imgBody img).drop (leAt img (e + 4) 4)).take (leAt img (e + 8) 4))
    else s) s

/-- The boot master's and the field dies' sections (05 R97). -/
def State.loadAon (s : State) (img : List Byte) : State :=
  s.fieldSites.foldl (fun s x => s.loadSection img 2 x (x - 8)) (s.loadSection img 1 8 0)

/-- The main domain's sections, for the dies that have come up (05 R98). -/
def State.loadMain (s : State) (img : List Byte) : State :=
  s.mainSites.foldl (fun s x => if s.siteUp x = false then s else if x < 4 then s.loadSection img 4 x x else s.loadSection img 5 x (x - 8)) (s.loadSection img 3 8 0)

/-- Enter RECOVERY_WAIT (05 R101). -/
def State.recoveryWait (s : State) (fail : Nat) : State :=
  ((s.putFld (bootPage + 0x40) 0 3 5).putFld (bootPage + 0x40) 8 8 fail).evt bootPage 2

/-- SITE_UP bits and control cores of the always-on dies (01; 05 CORE_UP). -/
def State.aonUp (s : State) : State :=
  let s1 := (s.putBit (pg 8 0 + 0x4C) (siteBit 8) true).putBit (bootPage + 0x54) 8 true
  s1.fieldSites.foldl (fun s x => (s.putBit (pg 8 0 + 0x4C) (siteBit x) true).putBit (bootPage + 0x54) (x % 8 + 8) true) s1

/-- Start an image in the always-on domain (05 R97): its sections are loaded, AON_READY; the main domain's boot begins if it is already
released (R98). -/
def State.aonStart (s : State) (img : List Byte) (slot : Option Nat) : State :=
  let p := bootPage
  let s1 := (((s.setNat (p + 0x40) 2).putBit (p + 0x40) 4 (slot == some 1)).putBit (p + 0x40) 5 slot.isNone).setNat (p + 0x44) (leAt img 0xC 4)
  let s2 := ((s1.setNat (p + 0x48) (leAt img 0x10 4)).loadAon img).aonUp
  let b : Boot := { s2.boot with measure := Config.sha384 (signedHead img), headerHash := Config.sha384 (signedHead img), recovery := slot.isNone, slot := slot, image := if slot.isNone then img else [] }
  (({ s2 with boot := b }).evt p 0).mainBooting

/-- AON_BOOT (05 R92, R96, R97; 04 R81; 21 R422): the ROM runs once the always-on domain has left reset. It reads each slot's header, and
then the slots it tries whole: a weak bit of the flash may read otherwise the second time (R106). -/
def execAonBoot (bootRecN ensLeadN : Bool) (s0 : State) : Host.Outcome State Fault Refusal :=
  .next (if s0.bootSt ≠ 0 ∨ s0.sup.held ≠ none ∨ s0.boot.flOp ≠ 0 then s0
    else
      let s : State := { s0 with lead := !ensLeadN && s0.asm != 3 }
      let dens := s.regFld (flashPage + 0x40) 0 8
      if bootRecN = false then s.recoveryWait 2
      else if dens < 24 ∨ 26 < dens then s.recoveryWait 1
      else
        let r : State := { s with free := s.free + s.flashSize }
        let tried := r.trySlots s.slotOrder
        let s1 := [0, 1].foldl (fun t x => if s.slotHead x = 1 then t else t.putFld (bootPage + 0x50) (4 * x) 4 (s.slotHead x)) { r with free := r.free + s.flashSize }
        let s2 := tried.foldl (fun t x => t.putFld (bootPage + 0x50) (4 * x.1) 4 x.2) s1
        match tried.find? (fun x => x.2 == 1) with
        | some (x, _) => s2.aonStart (r.slotImage x) (some x)
        | none => s2.recoveryWait 1)

/-- Links the fitting lists, in the layout of LINK_UP (01 R13). -/
def linksFitted (asm : Nat) : Nat :=
  let up (x : Nat) : Bool := dieAt asm x != .none
  let cc : List (Nat × Nat) := [(0, 1), (2, 3), (0, 2), (1, 3), (8, 0), (8, 1), (9, 1), (9, 3), (10, 2), (10, 3), (11, 0), (11, 2)]
  (List.range 12).foldl (fun n i => let l := cc.getD i (0, 0); if up l.1 && up l.2 then n + 2 ^ i else n) 0
    + (List.range 8).foldl (fun n m => if stackFitted asm m then n + 2 ^ (12 + m) else n) 0

/-- ASSEMBLY_MISMATCH's code and class (01 R21 names it and gives neither; log 4). -/
def State.assemblyMismatch (s : State) : State :=
  let code := (Config.freeWord s.free).toNat % 2 ^ 16
  let cls := 1 + (Config.freeWord (s.free + 1)).toNat % 4
  (({ s with free := s.free + 2 }).toFault (pg 8 0) code cls).recoveryWait 3

/-- The main domain's sites, links and cores come up (05 R98), but those that fail. -/
def State.bringUp (s : State) (failedSites failedLinks : Nat) : State :=
  let p := pg 8 0
  let up := (List.range 16).foldl (fun n i => if siteFitted s.asm / 2 ^ i % 2 = 1 ∧ failedSites / 2 ^ i % 2 = 0 then n + 2 ^ i else n) 0
  let links := (List.range 20).foldl (fun n i =>
    if linksFitted s.asm / 2 ^ i % 2 = 1 ∧ failedLinks / 2 ^ i % 2 = 0 then n + 2 ^ i else n) 0
  let s1 := (s.setNat (p + 0x4C) up).setNat (p + 0x54) links
  s1.mainSites.foldl (fun s x =>
    if s.siteUp x = false then s
    else if x < 4 then (s.putBit (bootPage + 0x54) (2 * x) true).putBit (bootPage + 0x54) (2 * x + 1) true
    else
      -- relay ports begin training; a port of X2 leaves OFF only once its far end is found (21 R424, R425)
      let s2 := s.putBit (bootPage + 0x54) (x % 8 + 8) true
      if dieAt s.asm x = .link ∧ x ≠ 10 then [0, 1, 2, 3].foldl (fun s q => s.setSt (pg x (0x10 + q)) 1) s2 else s2) s1

/-- The voltage of each fitted rail is read as the gaffer starts (04 R74; DESIGN CHOICE, log 71: R74 names Voltage read and says nowhere
when it is issued). -/
def State.readVolts (s : State) : State :=
  [0, 1, 2, 3].foldl (fun s c => if dieAt s.asm c = .compute then s.avsSend c .voltageRead else s) s

/-- The image that the main domain's dies boot (05 R99, R101; 11 R242): that of the booted slot, read anew, or the recovery image. -/
def State.mainImage (s : State) : List Byte := match s.boot.slot with | some x => s.slotImage x | none => s.boot.image

/-- MAIN_BOOT (05 R98, R99, R105; 01 R21; 19 R402): once no flash command is in progress the slot booted is read and checked again, the
sites come up with their sections, READY. -/
def execMainBoot (failedSites failedLinks : Nat) (s0 : State) : Host.Outcome State Fault Refusal :=
  .next (if s0.mainOk = false ∨ (s0.bootSt ≠ 2 ∧ s0.bootSt ≠ 3) ∨ s0.boot.flOp ≠ 0 then s0
    else
      let img := s0.mainImage
      let s : State := { s0 with free := if s0.boot.slot.isSome then s0.free + s0.flashSize else s0.free }
      let bad : Option (Nat × Nat) := match s.boot.slot with
        | some x => let r := checkBody img; if r = 1 then none else some (x, r)
        | none => none
      match bad with
      | some (x, r) => (s.putFld (bootPage + 0x50) (4 * x) 4 r).recoveryWait 4
      | none =>
        let s1 := (s.bringUp failedSites failedLinks).loadMain img
        if s1.reg (pg 8 0 + 0x4C) ≠ BitVec.ofNat 32 (siteFitted s.asm) ∨ s1.reg (pg 8 0 + 0x54) ≠ BitVec.ofNat 32 (linksFitted s.asm) then s1.assemblyMismatch
        else
          let s2 := ((s1.putFld (bootPage + 0x40) 0 3 4).putFld (bootPage + 0x40) 8 8 0).setNat (bootPage + 0x68) ((s.now - s.sec.releasedAt) / 200000)
          let s3 : State := { s2 with gaffer := { s2.gaffer with running := true } }
          ((((s3.setEacc s3.eCap).setSt (pg 8 0) 2).evt bootPage 1).readVolts).passRings)

/-- SITE_RETURNED (11 R242; 01 R22): the die has rebooted from the running image, its section loaded again. -/
def execSiteReturned (site : Nat) (s : State) : Host.Outcome State Fault Refusal :=
  .next (if s.mainDie site = true ∧ s.mainOk = true ∧ s.siteUp site = false ∧ s.ready = true then
      (let s1 : State := { s with free := if s.boot.slot.isSome then s.free + s.flashSize else s.free }
       ((if site < 4 then s1.loadSection s.mainImage 4 site site else s1.loadSection s.mainImage 5 site (site - 8)).siteBack site).passRings)
    else s)

/-- The VFs enabled mask of PCIE_STATUS (06 R107; Control): VF 1 to VF `n`. -/
def State.enableVfs (s : State) (n : Nat) : State := s.putFld (pg 8 6 + 0x40) 16 16 (2 ^ (min n 15 + 1) - 2)

/-- PCIE_CONFIG_REQUEST (05 R100, R101; 06 R107): retry status until the main part of the host die runs; in RECOVERY_WAIT function 0
alone. -/
def execPcieConfigRequest (r : ConfigReq) (s : State) : Host.Outcome State Fault Refusal :=
  .next (if s.mainOk = true ∧ (s.bootSt = 4 ∨ s.bootSt = 5) then
      (if r.fn < (if s.bootSt = 5 then 1 else 16) then
        (match r.vfs with
         | some n => if r.fn = 0 then (s.enableVfs n).emit (.pcieConfig r.fn false) else s.emit (.pcieConfig r.fn false)
         | none => s.emit (.pcieConfig r.fn false))
       else s)
    else s.emit (.pcieConfig r.fn true))

/-- REC_CMD.GO (05 R101, R102): the image at REC_ADDR is read, checked and booted, or its failed check recorded. DEDUCED (log 71): while
recovery firmware runs the comparison of R102 applies in every RECOVERY_WAIT, one entered for ASSEMBLY_MISMATCH too: the main domain
never runs firmware other than that of the always-on domain. -/
def execRecCmdGo (req : Nat) (val : Word) (s : State) : Host.Outcome State Fault Refusal :=
  .next (s.asWrite 0x04 req 8 3 0x64 (fun s =>
    let p := bootPage
    if bitOf val 0 = false then s
    else if req ≠ 0 ∨ s.bootSt ≠ 5 then s.reject req p 0x64 5
    else
      let len := (s.reg (p + 0x60)).toNat
      let img := s.hmemGet (s.wide (p + 0x58)) len
      let h := checkHead (s.reg (p + 0x4C)).toNat len true img
      let r := if h = 1 then checkBody img else h
      if r ≠ 1 then (s.putFld (p + 0x50) 8 4 r).putFld (p + 0x40) 8 8 5
      else if s.boot.recovery then
        (if Config.sha384 (signedHead img) = s.boot.headerHash then
          ({ ((s.putFld (p + 0x50) 8 4 1).putFld (p + 0x40) 8 8 0).putFld (p + 0x40) 0 3 2 with boot := { s.boot with image := img } }).mainBooting
         else (s.putFld (p + 0x50) 8 4 8).putFld (p + 0x40) 8 8 7)
      else (s.putFld (p + 0x50) 8 4 1).aonStart img none))

/-- WATCHDOG_EXPIRE (05 R91; 11 R241; 03 R70): the control core of a compute or link die takes the die down; a field die's and the
boot master restart alone, and the boot master aborts the groups it has not set GO for. -/
def execWatchdogExpire (site _core : Nat) (s : State) : Host.Outcome State Fault Refusal :=
  .next (if s.mainDie site then (if s.siteUp site = true ∧ s.mainOk = true then (s.faultRec (pg site 0x0A) 0x0104 3).dieFatal site else s)
    else if s.isField site = true ∨ site = 8 then s.coreRestart site
    else s)

/-- MB_ACK (05 R103): DONE to IDLE. -/
def execMbAck (req t : Nat) (val : Word) (s : State) : Host.Outcome State Fault Refusal :=
  .next (if t < 16 then s.asWrite 0x06 req 8 (0x20 + t) 0x48 (fun s =>
      if bitOf val 0 = true ∧ s.regFld (mbPage t + 0x44) 0 2 = 2 then s.setNat (mbPage t + 0x44) 0 else s) else s)

/-- GET_FW_INFO (05 R103): SEQ, SVN, the booted slot, BOOT_SRC and MIN_SVN. DESIGN CHOICE (log 36), the manual giving the fields and no
layout: SEQ and SVN 4 bytes each, slot and BOOT_SRC 1 byte each, 2 bytes of 0, MIN_SVN 4 bytes. -/
def execGetFwInfo (t : Nat) (s : State) : Host.Outcome State Fault Refusal :=
  .next (s.mbServe t 1 0 (fun s =>
    let p := bootPage
    s.mbReply t 0 (leBytes 4 (s.reg (p + 0x44)).toNat ++ leBytes 4 (s.reg (p + 0x48)).toNat ++ leBytes 1 (s.regFld (p + 0x40) 4 1)
      ++ leBytes 1 (s.regFld (p + 0x40) 5 1) ++ leBytes 2 0 ++ leBytes 4 (s.reg (p + 0x4C)).toNat)))

/-- SVN_RAISE (05 R103): tenant 0 alone; the fused MIN_SVN rises to the running image's SVN and never falls. -/
def execSvnRaise (t : Nat) (s : State) : Host.Outcome State Fault Refusal :=
  .next (s.mbServe t 2 0 (fun s =>
    if t ≠ 0 then s.mbReply t 3 []
    else (s.setNat (bootPage + 0x4C) (max (s.reg (bootPage + 0x4C)).toNat (s.reg (bootPage + 0x48)).toNat)).mbReply t 0 []))

/-- The flash address of FL_ADDR; addresses past the density wrap (log 47). -/
def State.flAddr (s : State) : Nat := (s.reg (flashPage + 0x44)).toNat % s.flashSize

/-- Whether an address lies in the active slot (05 R101, R104). -/
def State.inActive (s : State) (a : Nat) : Bool :=
  match s.boot.slot with | some x => a / (s.flashSize / 2) == x | none => false

/-- A flash command (05 R104): op 1 READ, 2 PROGRAM, 3 ERASE_4K, 4 ERASE_64K. -/
def State.flCmd (s : State) (req op : Nat) : State :=
  s.asWrite 0x05 req 8 4 0x48 (fun s =>
    let p := flashPage
    let a := s.flAddr
    let unit := if op = 1 then 1 else if op = 2 then 256 else if op = 3 then 4096 else 65536
    if req ≠ 0 ∧ req ≠ 17 then s.reject req p 0x48 4
    else if s.regFld (p + 0x4C) 0 2 = 1 then s.reject req p 0x48 5
    else if a % unit ≠ 0 ∨ (op = 4 ∧ s.regBit (p + 0x40) 9 = false) then s.reject req p 0x48 3
    else if op ≠ 1 ∧ s.inActive a = true then s.reject req p 0x48 5
    else ({ s with boot := { s.boot with flOp := op, flAddr := a } }).setNat (p + 0x4C) 1)

/-- READ (05 R104). -/
def execFlRead (req : Nat) (s : State) : Host.Outcome State Fault Refusal := .next (s.flCmd req 1)
/-- PROGRAM (05 R104, R105). -/
def execFlProgram (req : Nat) (s : State) : Host.Outcome State Fault Refusal := .next (s.flCmd req 2)
/-- ERASE_4K (05 R104). -/
def execErase4K (req : Nat) (s : State) : Host.Outcome State Fault Refusal := .next (s.flCmd req 3)
/-- ERASE_64K (05 R104). -/
def execErase64K (req : Nat) (s : State) : Host.Outcome State Fault Refusal := .next (s.flCmd req 4)

/-- FL_DONE (05 R105): the command in progress ends after `us` µs; err 0 where the flash reports none. TIMEOUT past 3 ms for a
program, and for an erase past the maximum that SFDP declares, never later than 2 s; a command that ends in an error leaves its target
torn. A program is read back. -/
def execFlDone (err us : Nat) (s : State) : Host.Outcome State Fault Refusal :=
  let op := s.boot.flOp
  let p := flashPage
  let late := (op = 2 ∧ 3000 < us) ∨ (2 < op ∧ min 2000000 (Config.eraseMaxUs (op - 3)) < us)
  .next (if op = 0 then s
    else
      let fin (s : State) (st : Nat) : State := ((({ s with boot := { s.boot with flOp := 0 } }).setNat (p + 0x4C) st).setNat (p + 0x50) us).evt p 0
      let a := s.boot.flAddr
      if late then fin s.flashTorn (3 + 16)
      else if err ≠ 0 then fin s.flashTorn (3 + 3 * 16)
      else if op = 1 then
        let bs := (List.range 256).flatMap (fun i => ({ s with free := s.free + i } : State).flashGet ((a + i) % s.flashSize) 1)
        fin ({ s.putBytes (p + 0x100) bs with free := s.free + 256 }) 2
      else if op = 2 then
        let s1 := s.flashEnd
        fin { s1 with free := s1.free + 256 } (if s1.flashGet a 256 = s.regBytes (p + 0x100) 64 then 2 else 3 + 2 * 16)
      else fin s.flashEnd 2)

/-- LINK_FAIL (06 R108): no width trains. -/
def execLinkFail (s : State) : Host.Outcome State Fault Refusal :=
  .next (if s.mainOk then (s.setReg (pg 8 6 + 0x40) ((s.reg (pg 8 6 + 0x40) &&& 0xFFFF0000#32) ||| 0x100#32)).evt (pg 8 6) 0 else s)

/-- LINK_CHANGE (06 R107): the link has another width or rate. -/
def execLinkChange (width rate : Nat) (s : State) : Host.Outcome State Fault Refusal :=
  .next (if s.mainOk then
      (((s.putFld (pg 8 6 + 0x40) 0 5 width).putFld (pg 8 6 + 0x40) 5 3 rate).putBit (pg 8 6 + 0x40) 8 false).evt (pg 8 6) 1
    else s)

/-- A page returns to its reset values (06 R138). -/
def State.clearPage (s : State) (p : Nat) : State :=
  let shown := s.pend p != 0#32
  let s1 : State := { s with regs := s.regs.filter (fun r => !(r.1 / 0x1000 == p / 0x1000)), latch := s.latch.filter (fun r => !(r.1 % 2 ^ 30 / 0x1000 == p / 0x1000)) }
  if shown then s1.showPend p else s1

/-- What a ring's data held is gone with its page (06 R138). DESIGN CHOICE (log 72): layers already placed of frames not yet delivered are
then ABSENT, and frames under way take new reservations. -/
def State.loseData (s : State) (d : Nat) : State :=
  let site := (s.ringStream d).1
  let k := (s.ringStream d).2
  let x := s.strm site k
  let gone (f : Frame) : Frame := { f with reserved := false, layers := f.layers.map (fun l => if l.2.1 ≠ 0 ∨ l.2.2.1 = true then (0, 0, false, true) else (0, 0, false, l.2.2.2)) }
  let absent (b : List Byte) : List Byte := patch ((List.range 5).foldl (fun b i => if leAt b (0x34 + 16 * i) 4 = 0 then b else
    patch (patch b (0x31 + 16 * i) [1#8]) (0x34 + 16 * i) (leBytes 12 0)) b) 0x16 (leBytes 1 (leAt b 0x16 1 / 2 * 2 + (if (frameLayers b).isEmpty then leAt b 0x16 1 % 2 else 1)))
  let y := s.ring d
  let s1 := s.setRing d { y with queue := y.queue.map (fun r => if r.frame.isSome then { r with body := absent r.body } else r) }
  if 32 ≤ d then s1 else s1.setStrm site k { x with frames := x.frames.map gone, parts := [] }

/-- Tenant t's takes, take-queue pages, dailies pages and session end without a record (06 R138; 20 R418). -/
def State.resetTenant (s : State) (t : Nat) : State :=
  let s1 := (List.range 8).foldl (fun s q => (s.clearPage (tqPage t q)).setTq t q {}) (s.endTakes t)
  let mine (d : Nat) : Bool := s.typeAt 8 (0x80 + d) == 0x09 && s.regFld (drPage d + 0x40) 0 4 == t
  let s2 := ((List.range 33).filter mine).foldl (fun s d => (((s.clearPage (drPage d)).setRing d { queue := (s.ring d).undelivered }).loseData d).dropUnits t (fun u => u.kind == 3 && u.unit == d)) s1
  ((s2.endConf t).endSession t).bar2Clear t

/-- Every function is reset with the endpoint (06 R107, R138): its virtual functions are enabled no more (PRESUMED, PCI Express SR-IOV, log
72). -/
def State.resetFunctions (s : State) : State := ((List.range 16).foldl (fun s t => s.resetTenant t) s).putFld (pg 8 6 + 0x40) 16 16 0

/-- PERST# (06 R83, R138): the endpoint is reset as well, so that no link stands until LINK_CHANGE. -/
def execPerst (s : State) : Host.Outcome State Fault Refusal :=
  .next (if s.mainOk then s.resetFunctions.setNat (pg 8 6 + 0x40) 0 else s)

/-- FLR (06 R138): of the PF as PERST# but for the link, of VF t for tenant t alone, whose slates are unloaded. -/
def execFlr (fn : Nat) (s : State) : Host.Outcome State Fault Refusal :=
  .next (if s.mainOk = false ∨ 16 ≤ fn then s
    else if fn = 0 then s.resetFunctions
    else (s.resetTenant fn).unloadTenant fn)

end Sys2Proof.Machine
end

