-- ==== Sys2Proof/Machine/Ensemble.lean ====
section
/-!
DEFINITION. Machine/Ensemble.lean: relay ports, their keys and frames, formation, routes, loss and recovery as one package of an
ensemble sees them (21).
-/
namespace Sys2Proof.Machine

def ensPage : Nat := pg 8 0x0C
def rpPage (site p : Nat) : Nat := pg site (0x10 + p % 16)
def State.port (s : State) (site p : Nat) : Port := tabGet {} s.ports (site * 4 + p)
def State.setPort (s : State) (site p : Nat) (x : Port) : State := { s with ports := tabPut {} s.ports (site * 4 + p) x }

/-- N and TORUS of ENS_STATE. -/
def State.ensN (s : State) : Nat := s.regFld (ensPage + 0x40) 8 5
def State.torus (s : State) : Bool := s.regBit (ensPage + 0x40) 13
def State.formed (s : State) : Bool := s.ensSt == 2 || s.ensSt == 3
def State.ensUp (s : State) (p : Nat) : Bool := s.regBit (ensPage + 0x44) p

/-- The link sites of this package, X1 before X2 (01; 21 R424). -/
def State.linkSites (s : State) : List Nat := [9, 10, 11].filter (fun x => dieAt s.asm x == .link)

/-- A relay port that this package has, on a die that is up. -/
def State.hasPort (s : State) (site p : Nat) : Bool := dieAt s.asm site == .link && decide (p < 4) && s.mainOk && s.siteUp site

/-- Ports that are RUNNING, as (port, site). -/
def State.upPorts (s : State) : List (Nat × Nat) :=
  (List.range 4).flatMap (fun p => (s.linkSites.filter (fun x => s.hasPort x p && s.st (rpPage x p) == 2)).map (fun x => (p, x)))

/-- The package that port p leads to, and the least hops between two packages (21 R424). -/
def neighbour (n : Nat) (torus : Bool) (me p : Nat) : Nat :=
  if torus then
    let x := me % 4
    let y := me / 4
    if p = 0 then 4 * y + (x + 1) % 4 else if p = 1 then 4 * y + (x + 3) % 4 else if p = 2 then 4 * ((y + 3) % 4) + x else 4 * ((y + 1) % 4) + x
  else if p % 2 = 0 then (me + 1) % n else (me + n - 1) % n
def ringHops (n d : Nat) : Nat := min (d % n) (n - d % n)
def hopsBetween (n : Nat) (torus : Bool) (a b : Nat) : Nat :=
  if torus then ringHops 4 (b % 4 + 4 - a % 4) + ringHops 4 (b / 4 + 4 - a / 4) else ringHops n (b + n - a)

/-- Hops to a package over a first port: in a ring the whole way round in its direction. -/
def hopsVia (n : Nat) (torus : Bool) (me d p : Nat) : Nat :=
  if torus then 1 + hopsBetween n torus (neighbour n torus me p) d
  else if p % 2 = 0 then (d + n - me) % n else (me + n - d) % n

/-- The port by which formation sends traffic first (21 R429). -/
def firstPort (n : Nat) (torus : Bool) (me d : Nat) : Nat :=
  if torus then
    let e := (d % 4 + 4 - me % 4) % 4
    let v := (d / 4 + 4 - me / 4) % 4
    if e ≠ 0 then (if e ≤ 2 then 0 else 1) else if v ≤ 2 then 3 else 2
  else
    let e := (d + n - me) % n
    if 2 * e ≤ n then 0 else 1

/-- Set ROUTE_p. -/
def State.setRoute (s : State) (d port site hops : Nat) : State := s.setNat (ensPage + 0x50 + 4 * d) (port + (if site = 10 then 8 else 0) + hops % 16 * 16)

/-- The route of fewest hops over ports that are up, by the lowest first port (21 R429). -/
def State.reroute (s : State) (d : Nat) : State :=
  let me := s.pkg
  let cands := s.upPorts.map (fun (q : Nat × Nat) => (hopsVia s.ensN s.torus me d q.1, q.1, q.2))
  match cands with
  | [] => s.setNat (ensPage + 0x50 + 4 * d) 0
  | c :: cs =>
    let b := cs.foldl (fun (m q : Nat × Nat × Nat) => if q.1 < m.1 then q else m) c
    s.setRoute d b.2.1 b.2.2 b.1

/-- Formation's routes from this package (21 R429). -/
def State.formRoutes (s : State) : State :=
  (List.range 16).foldl (fun s d =>
    if d = s.pkg ∨ s.ensUp d = false then s.setNat (ensPage + 0x50 + 4 * d) 0
    else
      let p := firstPort s.ensN s.torus s.pkg d
      let same (q : Nat) : Bool := if s.torus then q == p else q % 2 == p % 2
      match s.upPorts.find? (fun (q : Nat × Nat) => same q.1) with
      | some q => s.setRoute d q.1 q.2 (hopsBetween s.ensN s.torus s.pkg d)
      | none => s.reroute d) s

/-- Site and port of a package's route. -/
def State.routePort (s : State) (d : Nat) : Option (Nat × Nat) :=
  if s.regFld (ensPage + 0x50 + 4 * d) 4 4 = 0 then none
  else
    let p := s.regFld (ensPage + 0x50 + 4 * d) 0 3
    let x2 := s.regBit (ensPage + 0x50 + 4 * d) 3
    (s.linkSites.find? (fun x => (x == 10) == x2)).map (fun x => (x, p))

/-- Send a frame of a type out of a port; a DATA frame is kept until it is acknowledged (21 R425, R426). -/
def State.sendRelay (s : State) (site p ty dst : Nat) : State :=
  let x := s.port site p
  (s.setPort site p { x with txSeq := x.txSeq + 1, unacked := if ty = 1 then x.unacked ++ [(x.txSeq, dst)] else x.unacked }).emit (.relay site p ty x.txSeq)

/-- Send a DATA frame on its way to a package. -/
def State.forward (s : State) (dst : Nat) : State :=
  match s.routePort dst with
  | some q => s.sendRelay q.1 q.2 1 dst
  | none => s

/-- A port fault (21 R426, R438): its key and lock are gone; in an ensemble its routes are replaced, PORT_DOWN is set and its
unacknowledged frames go by the new routes. -/
def State.portDown (s : State) (site p code : Nat) : State :=
  let x := s.port site p
  let s1 := (s.toFault (rpPage site p) code 1).putFld (rpPage site p + 0x40) 0 3 0
  let s2 := s1.setPort site p {}
  if s.formed = false then s2
  else
    let s3 := (List.range 16).foldl (fun s d => if s.routePort d = some (site, p) then s.reroute d else s) s2
    (x.unacked.foldl (fun s f => s.forward f.2) s3).evt ensPage 3

/-- PORT_TRAINED (21 R425): lock and FEC; keying follows. A port of X2, and one that is down, trains from where it stands. -/
def execPortTrained (site p : Nat) (s : State) : Host.Outcome State Fault Refusal :=
  let a := rpPage site p
  .next (if s.hasPort site p = true ∧ (s.st a = 1 ∨ s.st a = 5 ∨ (site = 10 ∧ s.st a = 0)) then
    ((((s.putBit (a + 8) 0 true).setSt a 1).putBit (a + 0x40) 0 true).putBit (a + 0x40) 1 true)
  else s)

/-- TRAIN_FAIL (21 R425). -/
def execTrainFail (site p : Nat) (s : State) : Host.Outcome State Fault Refusal :=
  .next (if s.hasPort site p = true ∧ s.st (rpPage site p) = 1 then (s.toFault (rpPage site p) 0x0100 1).putFld (rpPage site p + 0x40) 0 3 0 else s)

/-- PEER_AUTH (21 R427, R428): a peer that passes gives the port its key; one that does not faults it. -/
def execPeerAuth (site p : Nat) (peer : PeerStatement) (s : State) : Host.Outcome State Fault Refusal :=
  let a := rpPage site p
  .next (if s.hasPort site p = true ∧ s.st a = 1 ∧ s.regFld (a + 0x40) 0 2 = 3 then
    (if peer.chainOk = false ∨ peer.sigOk = false ∨ peer.fwMeasure ≠ s.boot.measure ∨ peer.asm = 3 then (s.toFault a 0x0102 1).putFld (a + 0x40) 0 3 0
     else
       let key := s.sec.keyCount + 1
       let s1 : State := { s with sec := { s.sec with keyCount := key } }
       let s2 := (s1.setPort site p { key := some key }).setNat (a + 0x40) (7 + peer.package % 16 * 16 + peer.port % 8 * 2 ^ 8 + (if peer.onX2 then 2 ^ 11 else 0))
       s2.setSt a 2)
  else s)

/-- A frame arrives at a port (21 R425, R426): a frame that cannot be corrected or verified, or that leaves one out, is asked for
again, and the eighth failure in a row faults the port; one that repeats a frame already taken is only acknowledged. -/
def State.relayIn (s : State) (site p : Nat) (f : RelayFrame) (k : State → State) : State :=
  let a := rpPage site p
  if s.hasPort site p = false ∨ s.st a ≠ 2 then s
  else
    let x := s.port site p
    let s1 := s.addSat (a + 0x44) f.fecCorrected
    if f.fecOk = false ∨ f.tagOk = false then
      let s2 := if f.fecOk = false then s1.addSat (a + 0x48) 1 else s1.addSat (a + 0x50) 1
      let s3 := (s2.addSat (a + 0x4C) 1).setPort site p { x with fails := x.fails + 1 }
      if 8 ≤ x.fails + 1 then s3.portDown site p 0x0101 else s3.sendRelay site p 2 0
    else if x.rxSeq < f.seq then (s1.addSat (a + 0x4C) 1).sendRelay site p 2 0
    else if f.seq < x.rxSeq then s1.sendRelay site p 2 0
    else k (s1.setPort site p { x with rxSeq := x.rxSeq + 1, fails := 0 })

/-- DATA_FRAME (21 R426, R429): acknowledged, and sent on where it is for another package. What it carries arrives as the commands
of requester 18. -/
def execDataFrame (site p : Nat) (f : RelayFrame) (s : State) : Host.Outcome State Fault Refusal :=
  .next (s.relayIn site p f (fun s =>
    let s1 := s.sendRelay site p 2 0
    if s.formed = true ∧ f.dstPkg ≠ s.pkg then s1.forward f.dstPkg else s1))

/-- ACK_FRAME (21 R426). -/
def execAckFrame (site p : Nat) (f : RelayFrame) (s : State) : Host.Outcome State Fault Refusal :=
  .next (s.relayIn site p f (fun s =>
    let x := s.port site p
    s.setPort site p { x with unacked := x.unacked.filter (fun u => decide (f.ackSeq < u.1)) }))

/-- TIME_FRAME (21 R432): a member measures its clapper against the lead's and slews; LOCKED within 12 ns a hop. -/
def execTimeFrame (site p : Nat) (f : RelayFrame) (s : State) : Host.Outcome State Fault Refusal :=
  .next (s.relayIn site p f (fun s =>
    if s.isMember = false then s
    else
      let off : Int := (s.ns : Int) - (f.leadNs + f.delayNs : Nat)
      let s1 := s.setReg (ensPage + 0xD0) (wordOfInt (satInt (2 ^ 31 - 1) off))
      (s1.slew off).setLock (if off.natAbs ≤ 12 * (f.hops + 1) then 2 else 1)))

/-- Destroy every ensemble key, and with `links` the link keys (21 R428): the ports train again. -/
def State.dropKeys (s : State) (links : Bool) : State :=
  let s1 : State := { s with ens := { s.ens with carriage := [] } }
  if links then
    s1.linkSites.foldl (fun s x => (List.range 4).foldl (fun s p =>
      if s.hasPort x p = true ∧ s.st (rpPage x p) = 2 then ((s.setPort x p {}).putFld (rpPage x p + 0x40) 0 3 0).setSt (rpPage x p) 1 else s) s) s1
  else s1

/-- SOLO again (21 R442, R444). -/
def State.solo (s : State) (fail : Nat) : State :=
  let lead := if s.lead then 8 else 0
  let s1 := ((s.setNat (ensPage + 0x40) (lead + fail * 2 ^ 16)).setNat (ensPage + 0x44) 1).setNat (ensPage + 0x48) 0
  (List.range 16).foldl (fun s d => s.setNat (ensPage + 0x50 + 4 * d) 0) s1

/-- Take a place in an ensemble (21 R423, R424). -/
def State.formAs (s : State) (me n : Nat) (torus : Bool) (st up lost : Nat) : State :=
  let lead := if s.lead then 8 else 0
  let s1 := ((s.setNat (ensPage + 0x40) (st + lead + me % 16 * 16 + n % 32 * 256 + (if torus then 2 ^ 13 else 0))).setNat (ensPage + 0x44) up).setNat (ensPage + 0x48) lost
  let s2 : State := { s1 with ens := { s1.ens with carriage := (List.range n).filter (fun d => d != me && up / 2 ^ d % 2 == 1) } }
  s2.formRoutes

/-- No slate, no session, every take queue and stream OFF, READY (21 R423). -/
def State.ensIdle (s : State) : Bool :=
  s.ready && s.slates.isEmpty && (List.range 16).all (fun t => (s.tenant t).session == 0) && (List.range 128).all (fun i => s.st (tqPage (i / 8) (i % 8)) == 0) &&
    s.allStreams.all (fun x => s.st (strPage x.1 x.2) == 0)

/-- Serve a formation opcode: tenant 0 of a lead alone (21 Mailbox opcodes). -/
def State.ensServe (s : State) (t op len : Nat) (k : State → State) : State :=
  s.mbServe t op len (fun s => if t ≠ 0 ∨ s.lead = false ∨ s.linkSites.isEmpty = true then s.mbReply t 3 [] else k s)

/-- ENS_FORM (21 R423, R424, R428, R429). -/
def execEnsForm (t : Nat) (found : EnsFound) (s : State) : Host.Outcome State Fault Refusal :=
  .next (if s.mbArg t 2 1 % 2 = 1 then s
    else s.ensServe t 0x50 4 (fun s =>
      let n := s.mbArg t 0 1
      let torus := s.mbArg t 1 1 == 1
      let fail (code f : Nat) : State := (s.solo f).mbReply t code []
      if s.ensSt ≠ 0 ∨ s.ensIdle = false ∨ found.idle = false then s.mbReply t 0x150 []
      else if (if torus then n ≠ 16 else n < 2 ∨ 15 < n) ∨ 1 < s.mbArg t 1 1 ∨ found.packages ≠ n ∨ found.wired = false then fail 0x151 1
      else if found.authenticated = false then fail 0x152 2
      else if found.inTime = false then fail 0x153 3
      else
        let s1 := (s.formAs 0 n torus 2 (2 ^ n - 1) 0).evt ensPage 0
        s1.mbReply t 0 (leBytes 2 (2 ^ n - 1) ++ leBytes 2 0)))

/-- ENS_FORM with REJOIN (21 R442): the lost packages that are back are readmitted under their numbers. -/
def execEnsRejoin (t : Nat) (found : EnsFound) (s : State) : Host.Outcome State Fault Refusal :=
  .next (if s.mbArg t 2 1 % 2 = 0 then s
    else s.ensServe t 0x50 4 (fun s =>
      if s.ensSt ≠ 3 then s.mbReply t 0x150 []
      else if s.mbArg t 0 1 ≠ s.ensN ∨ (s.mbArg t 1 1 == 1) ≠ s.torus ∨ 1 < s.mbArg t 1 1 ∨ found.wired = false then s.mbReply t 0x151 []
      else if found.authenticated = false then s.mbReply t 0x152 []
      else if found.inTime = false then s.mbReply t 0x153 []
      else
        let lost := (s.reg (ensPage + 0x48)).toNat
        let back := lost &&& found.back
        let up := (s.reg (ensPage + 0x44)).toNat ||| back
        let left := lost ^^^ back
        let s1 := s.formAs s.pkg s.ensN s.torus (if left = 0 then 2 else 3) up left
        let s2 := (s1.evtIf (back != 0) ensPage 5).evtIf (left == 0) ensPage 0
        s2.mbReply t 0 (leBytes 2 up ++ leBytes 2 0)))

/-- ENS_DISSOLVE (21 R442). -/
def execEnsDissolve (t : Nat) (s : State) : Host.Outcome State Fault Refusal :=
  .next (s.ensServe t 0x51 0 (fun s =>
    if s.formed = false ∨ s.ensIdle = false then s.mbReply t 0x150 []
    else ((s.solo 0).dropKeys true).mbReply t 0 []))

/-- The relay ports whose peer is package p lose their link key and train again (21 R428, R440). -/
def State.dropPeer (s : State) (p : Nat) : State :=
  s.upPorts.foldl (fun s q =>
    let a := rpPage q.2 q.1
    if s.regFld (a + 0x40) 4 4 = p then ((s.setPort q.2 q.1 {}).putFld (a + 0x40) 0 3 0).setSt a 1 else s) s

/-- A package is gone (21 R440): DEGRADED, its bits, the keys shared with it; groups that name it abort with SITE_DOWN; routes avoid it.
No take of this State has work on another package (log 82). -/
def State.losePackage (s : State) (p : Nat) : State :=
  let deg := s.ensSt != 3
  let s1 := ((s.putFld (ensPage + 0x40) 0 3 3).putBit (ensPage + 0x44) p false).putBit (ensPage + 0x48) p true
  let s2 : State := { s1 with ens := { s1.ens with carriage := s1.ens.carriage.filter (· != p) } }
  let s3 := (s2.evtIf deg ensPage 1).evt ensPage 2
  let s4 := (List.range 16).foldl (fun s g => if s.regBit (ensPage + 0x90 + 4 * g) p = true then s.abortGroup g 8 false else s) (s3.dropPeer p)
  (List.range 16).foldl (fun s d => if d = p ∨ d = s.pkg ∨ s.ensUp d = false then s.setNat (ensPage + 0x50 + 4 * d) 0
    else match s.routePort d with
      | some q => if s.st (rpPage q.1 q.2) = 2 then s else s.reroute d
      | none => s.reroute d) s4

/-- PKG_LOST (21 R439, R440), at the lead. -/
def execPkgLost (p : Nat) (_cause : LossCause) (s : State) : Host.Outcome State Fault Refusal :=
  .next (if s.mainOk = true ∧ s.formed = true ∧ s.lead = true ∧ p < 16 ∧ p ≠ s.pkg ∧ s.ensUp p = true then s.losePackage p else s)

/-- ISOLATED (21 R441, R444): a member that has lost every route to the lead. -/
def State.isolate (s : State) : State :=
  let s1 := (List.range 16).foldl (fun s t => s.endTakes t) s
  let gates := ([9, 11].filter (fun x => s.isField x)).flatMap (fun x => (List.range 8).map (fun g => (x, g)))
  let s2 := gates.foldl (fun (s : State) (q : Nat × Nat) => s.hardSplice q.1 q.2 ([2 * q.2, 2 * q.2 + 1].filter (fun k => s.active (strPage q.1 k))) 5 true) s1
  let s3 := (List.range 16).foldl (fun s t => s.unloadTenant t) s2
  let s4 := (s3.dropKeys true).putFld (ensPage + 0x40) 0 3 4
  (s4.sourceLost).evt ensPage 4

def execIsolated (s : State) : Host.Outcome State Fault Refusal :=
  .next (if s.mainOk = true ∧ s.isMember = true then s.isolate else s)

/-- The debug page locks while a tenant is confidential anywhere in the ensemble, and unlocks when none is (20 R416, R418; 21 R443). -/
def State.ensConf (s : State) (on : Bool) : State :=
  if on then (if s.st dbgPage = 7 then s else s.lock dbgPage false).putBit (dbgPage + 0x40) 0 false
  else if s.regFld (kmPage + 0x48) 0 16 = 0 then s.unlock dbgPage false else s

/-- CONTROL_FRAME (21 R425, R430, R439, R440, R442, R443). The manual does not lay its messages out (log 58): 1 forms this package
(argument: number [3:0], count [8:4], torus [9], a tenant confidential [10], packages up [31:16]), 2 reports a package lost, 3 dissolves,
4 carries a page's pending interrupt to the lead (argument: package [3:0], site [7:4], pending [8]), 5 that of a dailies ring (package
[3:0], function [7:4]), 6 a member's package-fatal error or main-domain reset to the lead (package [3:0]), 7 whether a tenant of the lead
is confidential ([0]); any other carries keying and moves nothing else. -/
def execControlFrame (site p : Nat) (f : RelayFrame) (s : State) : Host.Outcome State Fault Refusal :=
  .next (s.relayIn site p f (fun s =>
    let pk := f.arg % 16
    if f.msg = 1 ∧ s.lead = false ∧ (s.ensSt = 0 ∨ s.ensSt = 4) ∧ s.ready = true then
      ((if f.arg / 1024 % 2 = 1 then s.ensConf true else s).formAs pk (f.arg / 16 % 32) (f.arg / 512 % 2 == 1) 2 (f.arg / 2 ^ 16 % 2 ^ 16) 0).evt ensPage 0
    else if f.msg = 2 ∧ s.isMember = true ∧ pk ≠ s.pkg ∧ s.ensUp pk = true then s.losePackage pk
    else if f.msg = 3 ∧ s.isMember = true then (s.solo 0).dropKeys true
    else if f.msg = 4 ∧ s.lead = true ∧ s.formed = true then
      (let on := f.arg / 256 % 2 == 1
       let s1 := s.putBit (ensPage + 0x4C) pk on
       if on then s1.msix 0 (f.arg / 16 % 16) else s1)
    else if f.msg = 5 ∧ s.lead = true ∧ s.formed = true ∧ pk ≠ 0 then s.msix (f.arg / 16 % 16) (64 + pk)
    else if f.msg = 6 ∧ s.lead = true ∧ s.formed = true ∧ pk ≠ s.pkg ∧ s.ensUp pk = true then s.losePackage pk
    else if f.msg = 7 ∧ s.isMember = true then s.ensConf (f.arg % 2 == 1)
    else s))

/-- LOSS_OF_SIGNAL (21 R426): no valid frame for 10 µs. -/
def execLossOfSignal (site p : Nat) (s : State) : Host.Outcome State Fault Refusal :=
  .next (if s.hasPort site p = true ∧ s.st (rpPage site p) = 2 then s.portDown site p 0x0103 else s)

end Sys2Proof.Machine
end

