-- ==== Sys2Proof/Machine/Gate.lean ====
section
/-!
DEFINITION. Machine/Gate.lean: the commands of the gates and their sensors (13, 18 R384 to R386).
-/
namespace Sys2Proof.Machine

/-- Streams that still take a captured line: running or stopping, or halted at a splice at or after it (16 R342). -/
def State.stillTakes (s : State) (site k l : Nat) : Bool :=
  let st := s.st (strPage site k)
  st == 2 || st == 6 || st == 3 || (st == 4 && (s.splState site k == 0 || (s.splLine site k != 2 ^ 48 - 1 && decide (l ≤ s.splLine site k))))

/-- TAP_BURST (13 R273): a burst of one tap with every word, inside the readout window; a second burst of a tap, or one
outside, counts as stray words. -/
def execTapBurst (site g tap : Nat) (words : List Nat) (s : State) : Host.Outcome State Fault Refusal :=
  if s.isField site = true ∧ g < 8 then
    let gt := s.gate site g
    let p := gatePage site g
    let stray : State := (s.setNat (p + 0xB0) (satNat 0xFFFFFFFF ((s.reg (p + 0xB0)).toNat + words.length))).evt p 4
    match gt.cur with
    | none => if s.active p then .next stray else .next s
    | some cap =>
      let win := cap.cfg.getD 3 0#32
      let inside := decide (cap.trig + fld win 0 16 ≤ s.now) && decide (s.now ≤ cap.trig + fld win 16 16)
      let good := inside && decide (tap < capTaps cap.cfg) && words.length == capPixels cap.cfg * capPlanes cap.cfg / capTaps cap.cfg
        && !cap.taps.any (fun t => t.1 == tap)
      if good then .next (s.setGate site g { gt with cur := some { cap with taps := cap.taps ++ [(tap, words)] } }) else .next stray
  else .next s

/-- A stream's row of a captured line joins its rows (13 R274 to R282; 14 R292). -/
def State.addRow (s : State) (site g k : Nat) (cap : Cap) (flags : Nat) (clean : Bool) : State :=
  if s.stillTakes site k cap.line then
    let r := s.buildRow site g k cap
    let x := s.strm site k
    let row : LRow := { line := cap.line, flags := flags, pos := cap.pos, unc := cap.unc, ns := cap.ns, sec := cap.sec, data := r.1, vals := r.2, final := clean }
    let s1 := s.setStrm site k { x with rows := x.rows ++ [row] }
    let p := strPage site k
    let s2 := (s1.setNat (p + 0x58) (cap.line % 2 ^ 32)).setNat (p + 0x5C) (cap.line / 2 ^ 32 % 2 ^ 16)
    (s2.finalRows site k clean).showStream site k
  else s

/-- The readout of a line closes (13 R273 to R277, R285; 16 R352). -/
def State.closeLine (s : State) (site g : Nat) (cap : Cap) : State :=
  let p := gatePage site g
  let lost := (List.range (capTaps cap.cfg)).filter (fun t => !cap.taps.any (fun u => u.1 == t))
  let clean := lost.isEmpty
  let gt := s.gate site g
  let run := if clean then 0 else min 3 (s.regFld (p + 0xA4) 4 2 + 1)
  let first := if clean then none else some (gt.runFirst.getD cap.line)
  let flags := (if cap.late then 1 else 0) + (if clean then 0 else 2 + lost.headD 0 % 4 * 4)
    + (if (s.reg (encPage site (s.encOf site g) + 0x68)).toNat < cap.unc then 16 else 0) + (if cap.retaken then 32 else 0)
  let s1 := s.setGate site g { gt with cur := none, runFirst := first, polls := gt.polls + 1 }
  let s2 := s1.putFld (p + 0xA4) 4 2 run
  let s3 := if clean then s2 else (s2.setNat (p + 0xAC) (satNat 0xFFFFFFFF ((s2.reg (p + 0xAC)).toNat + 1))).evt p 0
  let s4 := (cap.takers.foldl (fun s k => s.addRow site g k cap flags clean) s3).showFifo site g
  let multi := decide (2 ≤ lost.length) || (!clean && lost.length == capTaps cap.cfg)
  if cap.retaken then
    let s5 := if clean then s4 else s4.setGrp site g { s4.grp site g with bad := true }
    match (s5.grp site g).retake with
    | some (_, lf) => if cap.line = lf then s5.judgeRetake site g else s5
    | none => s5
  else if multi then s4.gateFault site g 0x0101 (first.getD cap.line) cap.line
  else if clean = false ∧ run = 3 then s4.gateFault site g 0x0100 (first.getD cap.line) cap.line
  else s4

/-- RD_CLOSE (13 R273). -/
def execRdClose (site g : Nat) (s : State) : Host.Outcome State Fault Refusal :=
  match (s.gate site g).cur with
  | some cap => if s.isField site = true ∧ g < 8 ∧ cap.trig + fld (cap.cfg.getD 3 0#32) 16 16 ≤ s.now then .next (s.closeLine site g cap) else .next s
  | none => .next s

/-- A shading measurement ends without writing its half (18 R384). -/
def State.shadeFail (s : State) (site g result : Nat) : State :=
  let p := gatePage site g
  if (s.gate site g).shade.isSome then
    (s.setGate site g { s.gate site g with shade := none, sums := [], exps := 0, fails := 0 }).setNat (p + 0xE4) (s.regFld (p + 0xE4) 1 2 * 2 + result * 16)
  else s

/-- A gate fault whose faulting line is the last one triggered (13 R276). -/
def State.gateFaultLast (s : State) (site g code : Nat) : State :=
  let l := s.lastTriggered site g
  s.gateFault site g code ((s.gate site g).runFirst.getD l) l

/-- DCO_LOST (13 R276). -/
def execDcoLost (site g : Nat) (s : State) : Host.Outcome State Fault Refusal :=
  let p := gatePage site g
  if s.isField site = true ∧ g < 8 ∧ s.active p = true ∧ s.regBit (p + 0xA4) 2 = true then
    .next ((((s.putBit (p + 0xA4) 2 false).evt p 3).shadeFail site g 4).gateFaultLast site g 0x0102)
  else .next s

/-- DCO_RETURN (13 R270, R277): ALIGNED falls and the gate realigns. -/
def execDcoReturn (site g : Nat) (s : State) : Host.Outcome State Fault Refusal :=
  let p := gatePage site g
  if s.isField site = true ∧ g < 8 ∧ s.active p = true ∧ s.regBit (p + 0xA4) 2 = false then
    .next ((s.putBit (p + 0xA4) 2 true).putBit (p + 0xA4) 0 false)
  else .next s

/-- Alignment fails (13 R271): FAULT with ALIGN_FAIL; running streams splice with CAUSE 2 at the last line triggered. -/
def State.alignFail (s : State) (site g : Nat) : State :=
  let p := gatePage site g
  let s1 := (s.putBit (p + 0xA4) 0 false).blockFault p 0x0103 1
  if s.active (strPage site (2 * g)) = true ∨ s.active (strPage site (2 * g + 1)) = true then
    (s1.declareSplice site g 2 (s.splicePoint site g)).endRetake site g
  else s1

/-- Whether a gate is aligning: STARTING, or RUNNING after DCO has returned. -/
def State.aligning (s : State) (site g : Nat) : Bool :=
  let p := gatePage site g
  s.st p == 1 || (s.active p && !s.regBit (p + 0xA4) 0 && s.regBit (p + 0xA4) 2)

/-- Whether the bursts of a line fit the readout window at f_DCO (13 R271, R272). -/
def State.burstsFit (s : State) (site g khz : Nat) : Bool :=
  let p := gatePage site g
  let taps := 2 ^ s.regFld (p + 0x40) 0 2
  let lv := s.regBit (p + 0x40) 5
  let lanes := s.regFld (p + 0x40) 2 3 + 1
  let data := if lv then lanes - 1 else lanes
  let w := s.regFld (p + 0x44) 0 15 * (s.regFld (p + 0x40) 12 2 + 1) / (taps * data)
  let bits := taps * (if lv then w else w + 2) * (10 + 2 * s.regFld (p + 0x40) 9 2)
  decide (bits * 1000000 ≤ 10 * khz * (s.regFld (p + 0x5C) 16 16 - s.regFld (p + 0x5C) 0 16))

/-- ALIGNED (13 R271): f_DCO measured and every lane aligned; a rate above 750 MHz or bursts that do not fit fail. -/
def execAligned (site g khz : Nat) (s : State) : Host.Outcome State Fault Refusal :=
  let p := gatePage site g
  if s.isField site = true ∧ g < 8 ∧ s.aligning site g = true then
    if 750000 < khz ∨ s.burstsFit site g khz = false then .next (s.alignFail site g)
    else
      let s1 := ((s.setNat (p + 0xA8) khz).putBit (p + 0xA4) 0 true).putBit (p + 0xA4) 2 true
      let s2 := (s1.setReg (p + 0xB4) (Config.freeWord s1.free &&& 0x3F3F3F3F#32)).setReg (p + 0xB8) (Config.freeWord (s1.free + 1) &&& 0x3F3F3F3F#32)
      .next (s2.draw.draw.evt p 2)
  else .next s

/-- ALIGN_FAIL (13 R271): not aligned within 1 ms. -/
def execAlignFail (site g : Nat) (s : State) : Host.Outcome State Fault Refusal :=
  if s.isField site = true ∧ g < 8 ∧ s.aligning site g = true then .next (s.alignFail site g) else .next s

/-- The bytes that a gate's SPI master sends, with chip select, MODE, DIV, word bits and bit order of SPI_CFG (13 R284). -/
def State.spiSend (s : State) (site g : Nat) (tx : List Byte) : State :=
  let p := spiPage site g + 0x40
  (s.setGate site g { s.gate site g with spiUsed := true }).emit
    (.spi site g (s.regFld p 13 1) (s.regFld p 0 2) (s.regFld p 2 6) (s.regFld p 8 5 + 1) (s.regBit p 14) tx)

/-- Start a host SPI transfer (13 R284): it waits for a poll in progress. -/
def State.spiStart (s : State) (site g : Nat) : State :=
  let p := spiPage site g
  let s1 := s.putBit (p + 0x44) 8 true
  if s.regBit (p + 0x44) 9 then s1.setGate site g { s1.gate site g with spiWait := true }
  else s1.spiSend site g ((s.regBytes (p + 0x100) 8).take (s.regFld (p + 0x40) 16 8))

/-- SENSOR_POLL (13 R285): every POLL_LINES lines; skipped while a host transfer is BUSY. -/
def execSensorPoll (site g : Nat) (s : State) : Host.Outcome State Fault Refusal :=
  let p := spiPage site g
  let n := s.regFld (p + 0x48) 0 16
  if s.isField site = true ∧ g < 8 ∧ n ≠ 0 ∧ s.active (gatePage site g) = true ∧ n ≤ (s.gate site g).polls then
    let s1 := s.setGate site g { s.gate site g with polls := 0 }
    if s.regBit (p + 0x44) 8 then .next s1
    else .next ((s1.putBit (p + 0x44) 9 true).spiSend site g ((s.regBytes (p + 0x140) 8).take (s.regFld (p + 0x48) 16 8)))
  else .next s

/-- POLL_END (13 R285): the reply is compared, and a waiting host transfer starts. -/
def execPollEnd (site g rx : Nat) (s : State) : Host.Outcome State Fault Refusal :=
  let p := spiPage site g
  if s.isField site = true ∧ g < 8 ∧ s.regBit (p + 0x44) 9 = true then
    let s1 := s.putBit (p + 0x44) 9 false
    let bad := BitVec.ofNat 32 rx &&& s.reg (p + 0x4C) != s.reg (p + 0x50)
    let s2 := if bad then (((s1.evt p 1).evt (gatePage site g) 5).shadeFail site g 5).gateFaultLast site g 0x0104 else s1
    if (s2.gate site g).spiWait then .next ((s2.setGate site g { s2.gate site g with spiWait := false }).spiStart site g) else .next s2
  else .next s

/-- SPI_DONE (13 R284). -/
def execSpiDone (site g rx : Nat) (s : State) : Host.Outcome State Fault Refusal :=
  let p := spiPage site g
  if s.isField site = true ∧ g < 8 ∧ s.regBit (p + 0x44) 8 = true ∧ (s.gate site g).spiWait = false then
    .next (((s.putBytes (p + 0x120) (padTo 32 (leBytes (s.regFld (p + 0x40) 16 8) rx))).putBit (p + 0x44) 8 false).evt p 0)
  else .next s

/-- Whether a shading half is in use (13 R279): a stream not OFF reads it, or a kept snapshot names it. -/
def State.halfInUse (s : State) (site g half : Nat) : Bool :=
  [2 * g, 2 * g + 1].any (fun k => s.st (strPage site k) != 0 && s.regBit (strPage site k + 0x40) 6 && s.regFld (strPage site k + 0x40) 7 1 == half) ||
    (s.keptSnaps site g).any (fun t => t.2.2.any (fun k => bitOf (capStr t.2.1 (k % 2)).1 6 && fld (capStr t.2.1 (k % 2)).1 7 1 == half))

/-- Advance SHD_ADDR within its half. -/
def State.shdNext (s : State) (site g : Nat) : State :=
  s.putFld (gatePage site g + 0xBC) 0 16 ((s.regFld (gatePage site g + 0xBC) 0 16 + 1) % 65536)

def State.shdWrite (s : State) (req site g : Nat) (val : Word) : State :=
  let p := gatePage site g
  let half := s.regFld (p + 0xBC) 16 1
  let busy := (s.gate site g).shade.isSome && (s.gate site g).shHalf == half
  if s.halfInUse site g half = true ∨ busy = true then s.reject req p 0xC0 5
  else
    let gt := s.gate site g
    (s.setGate site g { gt with shd := tabPut 0#32 gt.shd (half * 65536 + s.regFld (p + 0xBC) 0 16) val }).shdNext site g

/-- SHD_DATA_READ (13 R279): a read by a requester that does not reach the page returns 0 and advances nothing. -/
def execShdDataRead (req site g : Nat) (s : State) : Host.Outcome State Fault Refusal :=
  if s.isField site = true ∧ g < 8 ∧ s.reach req site (0x20 + g) = true then
    let p := gatePage site g
    let s1 : State := { s with rdata := s.shade site g (s.regFld (p + 0xBC) 16 1) (s.regFld (p + 0xBC) 0 16) }
    .next (s1.shdNext site g)
  else .next { s with rdata := 0#32 }

/-- A write of SC_CMD (18 R384). -/
def State.scCmd (s : State) (req site g : Nat) (val : Word) : State :=
  let p := gatePage site g
  let dark := bitOf val 0
  let flat := bitOf val 1
  if bitOf val 2 then s.shadeFail site g 2
  else if dark = false ∧ flat = false then s
  else if dark = true ∧ flat = true then s.reject req p 0xE0 3
  else if flat = true ∧ s.regFld (p + 0xD4) 0 16 = 0 then s.reject req p 0xE0 3
  else if s.st p ≠ 2 ∨ s.regBit (p + 0xA4) 0 = false ∨ s.st (strPage site (2 * g)) ≠ 0 ∨ s.st (strPage site (2 * g + 1)) ≠ 0 ∨
      s.halfInUse site g (s.regFld (p + 0xCC) 4 1) = true ∨ (s.gate site g).shade.isSome = true then s.reject req p 0xE0 5
  else
    (s.setGate site g { s.gate site g with shade := some flat, sums := [], exps := 0, fails := 0, shHalf := s.regFld (p + 0xCC) 4 1, shN := 2 ^ s.regFld (p + 0xCC) 0 4, shAt := s.now }).setNat (p + 0xE4) (1 + s.regFld (p + 0xE4) 1 2 * 2)

/-- Sum of two lists of codes, the longer kept. -/
def addCodes : List Nat → List Nat → List Nat
  | [], ys => ys
  | xs, [] => xs
  | x :: xs, y :: ys => (x + y) :: addCodes xs ys

/-- The nearest integer to a quotient of integers, ties to even; `d` not 0. -/
def rneQ (n d : Int) : Int := if d < 0 then rneDiv (-n) d.natAbs else rneDiv n d.natAbs

/-- The entry DARK or FLAT writes (18 R385) from the sum of N exposures. -/
def shadeEntry (flat : Bool) (old : Word) (sum n target gmin gmax darkMax : Nat) : Word :=
  if flat then
    let off := (BitVec.ofNat 16 (fld old 0 16)).toInt
    let d : Int := (sum : Int) - off * n
    let gain := rneQ ((target : Int) * 16384 * n) d
    if defective old ∨ d ≤ 0 ∨ gain < gmin ∨ (gmax : Int) < gain ∨ 0xFFFF < gain then 0x8000#32
    else BitVec.ofNat 32 (fld old 0 16 + gain.toNat * 65536)
  else
    let off := satInt 32767 (rneDiv (sum : Int) n)
    if (BitVec.ofNat 16 darkMax).toInt < off then 0x8000#32 else BitVec.ofNat 32 ((BitVec.ofInt 16 off).toNat + 0x4000 * 65536)

/-- Write the half when the last exposure is taken (18 R385); a DARK notes its temperature (R386). -/
def State.shadeDone (s : State) (site g : Nat) (flat : Bool) (sums : List Nat) (n : Nat) : State :=
  let p := gatePage site g
  let half := (s.gate site g).shHalf
  let pixels := s.regFld (p + 0x44) 0 15
  let planes := s.regFld (p + 0x40) 12 2 + 1
  let cells := (List.range planes).flatMap (fun q => (List.range pixels).map (fun c => (q * 16384 + c, sums.getD (q * pixels + c) 0)))
  let entries := cells.map (fun c => (c.1, shadeEntry flat (s.shade site g half c.1) c.2 n (s.regFld (p + 0xD4) 0 16) (s.regFld (p + 0xD8) 0 16) (s.regFld (p + 0xD8) 16 16) (s.regFld (p + 0xDC) 0 16)))
  let gt := s.gate site g
  let s1 := s.setGate site g { gt with shade := none, sums := [], exps := 0, fails := 0, shd := entries.foldl (fun t e => tabPut 0#32 t (half * 65536 + e.1) e.2) gt.shd }
  let bad := (entries.filter (fun e => defective e.2)).length
  let done := if flat then s.regFld (p + 0xE4) 1 1 * 2 + 4 else 2 + s.regFld (p + 0xE4) 2 1 * 4
  let s2 := s1.setNat (p + 0xE4) (done + 16 + bad % 65536 * 65536)
  let s3 := if flat = false then s2.setReg (p + 0xE8) (s2.reg (mtrPage site (s2.regFld (p + 0xCC) 8 3) + 0x74)) else s2
  s3.evt p 7

/-- SHADE_EXPOSURE (18 R384, R385): the raw codes of one exposure, plane by plane; one with a lost tap is discarded. The calibration
timer starts one every max(SC_PERIOD, LINE_MIN) ticks. -/
def execShadeExposure (site g : Nat) (codes : List Nat) (lost : Bool) (s : State) : Host.Outcome State Fault Refusal :=
  let gt := s.gate site g
  match gt.shade with
  | none => .next s
  | some flat =>
    let next := s.now + max (s.reg (gatePage site g + 0xD0)).toNat (s.reg (gatePage site g + 0x48)).toNat
    if s.isField site = false ∨ 8 ≤ g ∨ s.now < gt.shAt then .next s
    else if lost then
      if 16 ≤ gt.fails + 1 then .next (s.shadeFail site g 3) else .next (s.setGate site g { gt with fails := gt.fails + 1, shAt := next })
    else
      let n := gt.shN
      let depth := 10 + 2 * s.regFld (gatePage site g + 0x40) 9 2
      let sums := addCodes gt.sums (codes.map (fun c => c % 2 ^ depth))
      let s1 := s.setGate site g { gt with sums := sums, exps := gt.exps + 1, fails := 0, shAt := next }
      if n ≤ gt.exps + 1 then .next (s1.shadeDone site g flat sums n) else .next s1

end Sys2Proof.Machine
end

