-- ==== Sys2Proof/Machine/Array.lean ====
section
/-!
DEFINITION. Machine/Array.lean: the array ops MATMUL, MATMUL_ACT and CONV2D (07 R140 to R145, R149; 08 R159, R160, R169 to
R173).
-/
namespace Sys2Proof.Machine

/-- The shape an array op works on: problems, rows of each, columns, reduction length, with the run-time lengths in
force (ml, nl, kl), and whether each problem has a W of its own (08 R169 to R171). -/
structure Shape where
  g : Nat := 1
  perW : Bool := false
  mp : Nat := 0
  n : Nat := 0
  k : Nat := 0
  ml : Nat := 0
  nl : Nat := 0
  kl : Nat := 0
  deriving DecidableEq, Repr

/-- The declared shape of an op. -/
def declShape (o : Op) : Shape :=
  let g := if o.code = 3 then 1 else max 1 (o.sub % 128)
  let mp := o.m / g
  { g := g, perW := o.code != 3 && decide (128 ≤ o.sub), mp := mp, n := o.n, k := o.k, ml := mp, nl := o.n, kl := o.k }

/-- The shape of op `pc` of a core under the run-time lengths of its work. -/
def State.shapeOf (s : State) (w : Work) (cont : List Byte) (loc layer pc : Nat) (o : Op) : Shape :=
  let d := declShape o
  { d with ml := s.runLen w cont loc layer pc o 0 d.mp, nl := s.runLen w cont loc layer pc o 1 o.n, kl := s.runLen w cont loc layer pc o 2 o.k }

/-- The op's whole share lies at or beyond a run-time length: every tile is skipped (08 R171). -/
def Shape.dead (sh : Shape) : Bool := sh.ml == 0 || sh.nl == 0 || sh.kl == 0

/-- Convolution geometry (07 R149): kh, kw, sh, sw, dh, dw, pads, and from K, STRIDES and M the input channels of the whole
op, its width, the output width, the output and input heights (log 43). -/
structure Conv where
  kh : Nat := 1
  kw : Nat := 1
  sh : Nat := 1
  sw : Nat := 1
  dh : Nat := 1
  dw : Nat := 1
  ph : Nat := 0
  pw : Nat := 0
  groups : Nat := 1
  cg : Nat := 0
  w : Nat := 0
  wo : Nat := 0
  h : Nat := 0
  deriving DecidableEq, Repr

def convOf (o : Op) : Conv :=
  let g (i : Nat) : Nat := o.geom.getD i 0
  let groups := max 1 o.sub
  let cg := if g 0 * g 1 = 0 then 0 else o.k / (g 0 * g 1)
  let cin := cg * groups
  let w := if cin = 0 then 0 else o.sa * 8 / (cin * fmtBits o.fa)
  let wo := if o.n = 0 then 0 else o.so * 8 / (o.n * fmtBits o.fo)
  let ho := if wo = 0 then 0 else o.m / wo
  { kh := g 0, kw := g 1, sh := g 2, sw := g 3, dh := g 4, dw := g 5, ph := g 6, pw := g 7, groups := groups, cg := cg, w := w, wo := wo,
    h := (ho - 1) * g 2 + g 4 * (g 0 - 1) + 1 - 2 * g 6 }

/-- The forms of R149 and R140 that an array op may take; anything else is BAD_OP. -/
def arrayOk (o : Op) : Bool :=
  (pairing o.fa o.fw).isSome && (o.loop == 0 || o.loop == 2) && decide (1 ≤ o.mt) && decide (o.mt ≤ 256) && decide (o.fo ≤ 7) && !o.resv &&
    (if o.code = 3 then
      let c := convOf o
      decide (1 ≤ c.kh) && decide (c.kh ≤ 7) && decide (1 ≤ c.kw) && decide (c.kw ≤ 7) && decide (1 ≤ c.sh) && decide (c.sh ≤ 4) && decide (1 ≤ c.sw) && decide (c.sw ≤ 4)
        && decide (1 ≤ c.dh) && decide (c.dh ≤ 4) && decide (1 ≤ c.dw) && decide (c.dw ≤ 4) && decide (c.ph ≤ 7) && decide (c.pw ≤ 7) && decide (1 ≤ o.sub)
        && o.k % (c.kh * c.kw) == 0 && o.n % c.groups == 0
     else o.m % max 1 (o.sub % 128) == 0)

/-- Activation element (row, reduction index) of a convolution's group: zero outside the input (07 R149, implicit im2col with the
channel fastest; log 43). -/
def State.convElem (s : State) (o : Op) (c : Conv) (pa : Nat × Nat) (grp row kk : Nat) : Nat :=
  let ch := kk % c.cg
  let kx := kk / c.cg % c.kw
  let ky := kk / c.cg / c.kw
  let y : Int := ((row / c.wo * c.sh + ky * c.dh : Nat) : Int) - c.ph
  let x : Int := ((row % c.wo * c.sw + kx * c.dw : Nat) : Int) - c.pw
  if 0 ≤ y ∧ y < c.h ∧ 0 ≤ x ∧ x < c.w then s.elem o.fa pa (y.toNat * o.sa) (x.toNat * (c.cg * c.groups) + grp * c.cg + ch) else 0

/-- Weight element of tile layout (08 R160), of the W at a byte offset. -/
def State.weight' (s : State) (o : Op) (pw : Nat × Nat) (base k0 bt nk kk j : Nat) : Nat :=
  let tile := base + (j / 64 * nk + kk / k0) * bt
  let i := kk % k0
  if o.fw = 1 then leNat (s.ramGet pw.1 (pw.2 + tile + i / 2 * 64 + j % 64) 1) / (if i % 2 = 0 then 1 else 16) % 16
  else let n := fmtBits o.fw / 8; leNat (s.ramGet pw.1 (pw.2 + tile + (i * 64 + j % 64) * n) n)

/-- One accumulator entry over all K tiles (07 R142, R143; 08 R172): masked elements give exact zero products. -/
def accEntry (isInt : Bool) (k0 kl : Nat) (prod : Nat → Nat) (nk : Nat) : Nat × Nat :=
  (List.range nk).foldl (fun acc t =>
    if kl ≤ t * k0 then acc
    else accTile isInt acc ((List.range k0).map (fun i => if t * k0 + i < kl then prod (t * k0 + i) else 0))) (0, 0)

/-- The accumulator entry of problem or group `g`, row `r` of it, column `j` of it. -/
def State.arrayEntry (s : State) (o : Op) (sh : Shape) (pa pw : Nat × Nat) (g r j : Nat) : Nat × Nat :=
  match pairing o.fa o.fw with
  | none => (0, 0)
  | some (k0, bt, _, _) =>
    let c := convOf o
    let nk := cdiv sh.k k0
    let nn := if o.code = 3 then cdiv (sh.n / c.groups) 64 else cdiv sh.n 64
    let base := if o.code = 3 ∨ sh.perW = true then g * (nk * nn * bt) else 0
    accEntry (isIntFmt o.fa) k0 sh.kl (fun kk =>
      let a := if o.code = 3 then s.convElem o c pa g r kk else s.elem o.fa pa ((g * sh.mp + r) * o.sa) kk
      product o.fa o.fw a (s.weight' o pw base k0 bt nk kk j)) nk

/-- M tiles and 64-column tiles of an op's output: a head fold starts a new M tile with each problem, a convolution's groups a new
column tile (07 R149; 08 R169, R170). -/
def mTiles (o : Op) (sh : Shape) : Nat := if sh.perW then sh.g * cdiv sh.mp o.mt else cdiv (sh.g * sh.mp) o.mt
def nTiles (o : Op) (sh : Shape) : Nat := if o.code = 3 then (convOf o).groups * cdiv (sh.n / (convOf o).groups) 64 else cdiv sh.n 64

/-- The rows of an M tile that stream into the array: those below the run-time length, and all of a share wholly beyond it, whose
partials are zero (08 R172, R173). -/
def tileRows (o : Op) (sh : Shape) (i : Nat) : List Nat :=
  let rows := if sh.perW then
      let nm := max 1 (cdiv sh.mp o.mt)
      (List.range (min o.mt (sh.mp - i % nm * o.mt))).map (fun r => i / nm * sh.mp + i % nm * o.mt + r)
    else (List.range (min o.mt (sh.g * sh.mp - i * o.mt))).map (fun r => i * o.mt + r)
  if sh.dead then rows else rows.filter (fun row => decide (row % max 1 sh.mp < sh.ml))

/-- Lane x of column tile j: its group, its column there, and its column of the whole output. -/
def tileCol (o : Op) (sh : Shape) (j x : Nat) : Option (Nat × Nat × Nat) :=
  let gs := if o.code = 3 then (convOf o).groups else 1
  let ng := sh.n / max 1 gs
  let nn := max 1 (cdiv ng 64)
  if j % nn * 64 + x < ng then some (j / nn, j % nn * 64 + x, j / nn * ng + j % nn * 64 + x) else none

/-- The output tiles of an op that are not skipped, in the order of its T0 loop (07 R141; 08 R171). -/
def liveTiles (o : Op) (sh : Shape) : List Nat :=
  let nm := mTiles o sh
  let nn := nTiles o sh
  let all := if o.loop = 2 then (List.range nn).flatMap (fun j => (List.range nm).map (fun i => i * nn + j)) else List.range (nm * nn)
  all.filter (fun t => !(tileRows o sh (t / nn)).isEmpty && (sh.dead || (match tileCol o sh (t % nn) 0 with | some c => decide (c.2.2 < sh.nl) | none => false)))

/-- The accumulator entries of an output tile, row by row, with their saturations: zero beyond N, beyond a run-time length and in a
share wholly beyond it (08 R159, R172, R173). -/
def State.tileEntries (s : State) (o : Op) (sh : Shape) (pa pw : Nat × Nat) (t : Nat) : List (Nat × Nat) :=
  let nn := max 1 (nTiles o sh)
  (tileRows o sh (t / nn)).flatMap (fun row => (List.range 64).map (fun x =>
    match tileCol o sh (t % nn) x with
    | none => (0, 0)
    | some c => if sh.dead = true ∨ sh.nl ≤ c.2.2 then (0, 0)
      else if o.code = 3 then s.arrayEntry o sh pa pw c.1 row c.2.1 else s.arrayEntry o sh pa pw (row / max 1 sh.mp) (row % max 1 sh.mp) c.2.1))

/-- The element of a list's even (or odd) places that stands last. -/
def lastAt {α : Type} (odd : Bool) (l : List α) : Option α :=
  (((List.range l.length).zip l).filter (fun x => (x.1 % 2 == 1) == odd)).getLast?.map (fun x => x.2)

/-- What an op leaves in the two accumulator buffers, which its output tiles fill in turn (07 R140). -/
def State.accsOf (s : State) (o : Op) (sh : Shape) (pa pw : Nat × Nat) : List Word × List Word :=
  let ts := if sh.dead then [] else liveTiles o sh
  let f (odd : Bool) : List Word := match lastAt odd ts with | some t => (s.tileEntries o sh pa pw t).map (fun e => BitVec.ofNat 32 e.1) | none => []
  (f false, f true)

/-- What an op leaves in the two weight registers, into which its T0 weight tiles load in turn (07 R140; 08 R160). -/
def State.wregsOf (s : State) (o : Op) (sh : Shape) (pw : Nat × Nat) : List Byte × List Byte :=
  match pairing o.fa o.fw with
  | none => ([], [])
  | some (k0, bt, _, _) =>
    let nk := cdiv sh.k k0
    let nn := max 1 (nTiles o sh)
    let per := max 1 (if o.code = 3 then cdiv (sh.n / (convOf o).groups) 64 else nn)
    let prob (t : Nat) : Nat := if o.code = 3 then t % nn / per else if sh.perW then t / nn / max 1 (cdiv sh.mp o.mt) else 0
    let loads := (if sh.dead then [] else liveTiles o sh).flatMap (fun t => (List.range (cdiv sh.kl k0)).map (fun k => (prob t * per + t % nn % per) * nk + k))
    let f (odd : Bool) : List Byte := match lastAt odd loads with | some k => s.ramGet pw.1 (pw.2 + k * bt) bt | none => []
    (f false, f true)

/-- Cycles in which the array accepts rows or loads a tile beyond the first (07 R149; 08 R170, R171): partial M tiles by their
rows, skipped tiles at none. -/
def arrayPasses (o : Op) (sh : Shape) : Nat :=
  match pairing o.fa o.fw with
  | none => 0
  | some (k0, _, r, lw) =>
    let c := convOf o
    let nn := if o.code = 3 then c.groups * cdiv (min (sh.n / c.groups) sh.nl) 64 else cdiv sh.nl 64
    let nk := cdiv sh.kl k0
    let passes (rows : Nat) : Nat := (List.range (cdiv rows o.mt)).foldl (fun t i => t + max (min o.mt (rows - i * o.mt) * r) lw) 0
    let p := if sh.perW then sh.g * passes sh.ml
      else if sh.ml = sh.mp then passes (sh.g * sh.mp)
      else (List.range (cdiv (sh.g * sh.mp) o.mt)).foldl (fun t i =>
        let live := ((List.range o.mt).filter (fun x => decide (i * o.mt + x < sh.g * sh.mp) && decide ((i * o.mt + x) % max 1 sh.mp < sh.ml))).length
        if live = 0 then t else t + max (live * r) lw) 0
    p * nn * nk

/-- Cycles of an array op (07 R149; 08 R171). -/
def arrayCost (o : Op) (sh : Shape) : Nat := if arrayPasses o sh = 0 then 24 else 24 + arrayPasses o sh + o.mt

/-- Cycles of CYC_ARRAY: the passes and the first weight tile's load within the fill (07 R149, R153). -/
def arrayBusy (o : Op) (sh : Shape) : Nat :=
  if arrayPasses o sh = 0 then 0 else arrayPasses o sh + (match pairing o.fa o.fw with | some (_, _, _, lw) => min 24 lw | none => 0)

/-- Rows that the output stage drains (07 R140). -/
def drainRows (o : Op) (sh : Shape) (leaf : Bool) : Nat :=
  if leaf = false ∧ sh.dead = true then 0 else (liveTiles o sh).foldl (fun n t => n + (tileRows o sh (t / max 1 (nTiles o sh))).length) 0

/-- The operands of an array op. -/
def arrayOps (o : Op) (sh : Shape) (leaf : Bool) : List Operand :=
  match pairing o.fa o.fw with
  | none => []
  | some (k0, bt, _, _) =>
    let c := convOf o
    let nk := cdiv sh.k k0
    let wt := if o.code = 3 then c.groups * (nk * cdiv (sh.n / c.groups) 64 * bt) else (if sh.perW then sh.g else 1) * (nk * cdiv sh.n 64 * bt)
    let live := decide (0 < sh.ml) && decide (0 < sh.nl) && decide (0 < sh.kl)
    let al := if live = false then 0 else if o.code = 3 then span c.h (runBytes o.fa (c.w * c.cg * c.groups)) o.sa
      else span (sh.g * sh.mp) (runBytes o.fa sh.k) o.sa
    let outRows := if o.code = 3 then cdiv o.m (max 1 c.wo) else sh.g * sh.mp
    let outRow := if o.code = 3 then runBytes o.fo (c.wo * sh.n) else runBytes o.fo sh.n
    [{ addr := o.a, len := al }, { addr := o.w, len := if live then wt else 0 }, { addr := o.param, len := if leaf then 0 else paramLen o sh.n },
     { addr := o.out, len := if leaf ∨ live = false then 0 else span outRows outRow o.so, out := true }]

/-- The number of a leaf op's first output tile: the tiles of a layer's leaf ops are numbered one op after the other (log 48). -/
def tileBase (cont : List Byte) (loc layer pc : Nat) : Nat :=
  ((layerOps cont loc layer).filter (fun x => decide (x.1 < pc))).foldl (fun n x => n + mTiles x.2 (declShape x.2) * nTiles x.2 (declShape x.2)) 0

/-- Write the output of an array op: every row and column below the run-time lengths, and nothing where one of
them is 0 (08 R171, R172). -/
def State.arrayWrite (s0 s : State) (o : Op) (sh : Shape) (pa pw pp po : Nat × Nat) : State × Nat :=
  let c := convOf o
  let isInt := isIntFmt o.fa
  let groups := if sh.kl = 0 then 0 else if o.code = 3 then c.groups else sh.g
  let cols := if o.code = 3 then sh.n / c.groups else sh.n
  let zp := (BitVec.ofNat 8 o.zp).toInt
  (List.range groups).foldl (fun acc g =>
    (List.range (min sh.ml (if o.code = 3 then o.m else sh.mp))).foldl (fun (acc : State × Nat) r =>
      (List.range cols).foldl (fun (acc : State × Nat) j =>
        let col := if o.code = 3 then g * cols + j else j
        if sh.nl ≤ col then acc
        else
          let a := s0.arrayEntry o sh pa pw g r j
          let pr := s0.colParam o pp sh.n col
          let y := outEntry isInt o.fo o.satFin o.bias a.1 pr.1 pr.2.1 pr.2.2 zp
          let row := if o.code = 3 then r / max 1 c.wo else g * sh.mp + r
          let bit := row * o.so * 8 + (if o.code = 3 then (r % max 1 c.wo * sh.n + col) else col) * fmtBits o.fo
          (acc.1.putElem o.fo po.1 po.2 bit y.1, acc.2 + a.2 + (if y.2 then 1 else 0))) acc) acc) (s, 0)

/-- Whether the core's array op in this layer is a leaf of a combine tree (08 R165, R166). -/
def isLeaf (cont : List Byte) (layer loc : Nat) : Bool :=
  match treeOf cont layer with
  | some off => (parentOf cont off false loc).isSome
  | none => false

/-- A leaf op as its output layout is read: OUT_STRIDE counts in the format of its tree (08 R166). -/
def leafView (cont : List Byte) (layer : Nat) (o : Op) : Op :=
  match treeOf cont layer with
  | some off => { o with fo := leAt cont (off + 1) 1 % 16 }
  | none => o

/-- An array op (07 R149): a leaf of a combine tree sends its rows by output tile, any other op writes its output (08 R166). -/
def State.runArray (s : State) (site c : Nat) (w : Work) (cont : List Byte) (o : Op) : State :=
  let x := s.core site c
  let leaf := isLeaf cont x.layer x.loc
  let o := if leaf then leafView cont x.layer o else o
  let sh := s.shapeOf w cont x.loc x.layer x.pc o
  s.withOps site c w cont (arrayOk o) (arrayOps o sh leaf) (fun ps =>
    let pa := ps.getD 0 (0, 0)
    let pw := ps.getD 1 (0, 0)
    let used := s.ringEpochs site c o
    let cost := arrayCost o sh
    let macs := sh.g * sh.ml * sh.nl * sh.kl / 1024
    let s1 := ((s.prof site c 1 (arrayBusy o sh)).prof site c 2 (drainRows o sh leaf)).prof site c 5 macs
    let x1 : Core := { x with accs := s.accsOf o sh pa pw, wregs := s.wregsOf o sh pw }
    if leaf then
      let ts := (liveTiles o sh).map (fun t => (tileBase cont x.loc x.layer x.pc + t, s.tileEntries o sh pa pw t))
      let s2 := s1.setCore site c { x1 with partials := x.partials ++ ts.map (fun t => (t.1, t.2.map (fun e => BitVec.ofNat 32 e.1))) }
      (s2.countSats site c (ts.foldl (fun n t => t.2.foldl (fun n e => n + e.2) n) 0)).opDone site c cost { o with out := 0 } used
    else
      let r := s.arrayWrite (s1.setCore site c x1) o sh pa pw (ps.getD 2 (0, 0)) (ps.getD 3 (0, 0))
      (r.1.countSats site c r.2).opDone site c cost o used)

def execMatmul (site core : Nat) (s : State) : Host.Outcome State Fault Refusal :=
  .next (s.runOp site core 0x01 (fun s w cont o => s.runArray site core w cont o))

def execMatmulAct (site core : Nat) (s : State) : Host.Outcome State Fault Refusal :=
  .next (s.runOp site core 0x02 (fun s w cont o => s.runArray site core w cont o))

def execConv2d (site core : Nat) (s : State) : Host.Outcome State Fault Refusal :=
  .next (s.runOp site core 0x03 (fun s w cont o => s.runArray site core w cont o))

end Sys2Proof.Machine
end

