-- ==== Sys2Proof/Machine/Arbiter.lean ====
section
/-!
DEFINITION. Machine/Arbiter.lean: the die-wide cap on transfers in flight and the arbitration points of a compute die (10 R202, R211,
R212; log 75). A transfer is the unit that is capped and arbitrated (10 R200); it contends at one point of its path.
-/
namespace Sys2Proof.Machine

/-- A transfer waiting at an arbitration point: its queue's number and its place there, class, slack left in ps, share of bulk. -/
structure Req where
  unit : Nat := 0
  pos : Nat := 0
  stream : Bool := false
  slack : Nat := 0
  share : Nat := 0
  deriving DecidableEq, Repr

/-- Slack left in ps, a sample being 5 ns (10 R211). -/
def Xfer.slackLeft (f : Xfer) (now : Nat) : Nat := f.slack - (now - f.issued) * 5000

/-- The requests at a point. -/
def State.reqsAt (s : State) (p : Nat) : List Req :=
  s.dqs.flatMap (fun d => ((List.range d.2.flights.length).zip d.2.flights).filterMap (fun x =>
    if x.2.point = some p then some { unit := d.1, pos := x.1, stream := x.2.stream, slack := x.2.slackLeft s.now, share := x.2.share } else none))

/-- The request of least key; the first of equals. -/
def leastBy (key : Req → Nat) (rs : List Req) : Option Req :=
  rs.foldl (fun b r => match b with | none => some r | some x => if key r < key x then some r else some x) none

/-- The next unit in a round after `last` (the unit served last, plus 1; 0 for none). -/
def nextUnit (last : Nat) (rs : List Req) : Option Req :=
  match leastBy (fun r => r.unit) (rs.filter (fun r => decide (last ≤ r.unit))) with
  | some r => some r
  | none => leastBy (fun r => r.unit) rs

/-- The share that a place of the frame of 16 belongs to: 8 local reads, 5 local writes, 3 remote requests (10 R212; log 75). -/
def frameShare (i : Nat) : Nat := if i < 8 then 0 else if i < 13 then 1 else 2

/-- The request a point grants (10 R211, R212): stream class by least slack, ties to the lower site and unit, but bulk after three
stream grants while it waits; a bulk grant to the frame's share or the next waiting share, within a share round robin. -/
def Arb.choose (a : Arb) (rs : List Req) : Option Req :=
  let st := rs.filter (fun r => r.stream)
  let bk := rs.filter (fun r => !r.stream)
  if st.isEmpty = false ∧ (bk.isEmpty = true ∨ a.run < 3) then leastBy (fun r => r.slack * 2 ^ 20 + r.unit) st
  else
    let k := frameShare a.frame
    match [k, (k + 1) % 3, (k + 2) % 3].find? (fun k => bk.any (fun r => r.share == k)) with
    | some k => nextUnit (a.last.getD k 0) (bk.filter (fun r => r.share == k))
    | none => none

def State.arb (s : State) (p : Nat) : Arb := tabGet {} s.arbs p

/-- Whether a transfer of a queue is granted at its point now. -/
def State.granted (s : State) (unit pos : Nat) (f : Xfer) : Bool :=
  match f.point with
  | none => true
  | some p => match (s.arb p).choose (s.reqsAt p) with
    | some r => r.unit == unit && r.pos == pos
    | none => false

/-- A grant at a transfer's point (10 R211, R212): the point's counts, and SLACK_MISS for a stream-class grant whose slack has run
out, but for a confidential work (10 R223). -/
def State.grant (s : State) (site unit : Nat) (conf : Bool) (f : Xfer) : State :=
  match f.point with
  | none => s
  | some p =>
    let a := s.arb p
    let bulk := (s.reqsAt p).any (fun r => !r.stream)
    let b : Arb := if f.stream then { a with run := if bulk then a.run + 1 else 0 }
      else { run := 0, frame := (a.frame + 1) % 16, last := (List.range 3).map (fun k => if k = f.share then unit + 1 else a.last.getD k 0) }
    let s1 : State := { s with arbs := tabPut {} s.arbs p b }
    if f.stream = true ∧ f.slackLeft s.now = 0 ∧ conf = false then (s1.addSat (movePage site + 0x50) 1).evt (movePage site) 0 else s1

/-- A descriptor's place in the queue that is not yet wholly issued. -/
def DQ.next (d : DQ) : Option IDesc := d.descs.find? (fun i => decide (i.row < i.rows))

def State.capQ (s : State) (site : Nat) : CapQ := tabGet {} s.capQs site

/-- The queues that wait for a place under the cap of a die and still have a transfer to issue. -/
def State.capWaiting (s : State) (site : Nat) : List (Nat × Bool) :=
  (s.capQ site).wait.filter (fun x => let d := tabGet {} s.dqs x.1; d.work.isSome && !d.halted && d.next.isSome)

/-- Whether a queue may issue a transfer of `n` places now (10 R202): within 256, and where places are fewer than the queues waiting,
stream class first and in a round within a class. -/
def State.hasPlace (s : State) (site unit n : Nat) (stream : Bool) : Bool :=
  let ws := (s.capWaiting site).filter (fun x => x.1 != unit)
  let rs : List Req := (ws ++ [(unit, stream)]).map (fun x => { unit := x.1, stream := x.2 })
  let first := match nextUnit (s.capQ site).last (if rs.any (fun r => r.stream) then rs.filter (fun r => r.stream) else rs) with | some r => r.unit | none => unit
  decide (s.inflight site + n ≤ 256) && (decide (s.inflight site + n + ws.length ≤ 256) || first == unit)

/-- A queue waits for a place. -/
def State.waitPlace (s : State) (site unit : Nat) (stream : Bool) : State :=
  let c := s.capQ site
  { s with capQs := tabPut {} s.capQs site { c with wait := c.wait.filter (fun x => x.1 != unit) ++ [(unit, stream)] } }

/-- A queue has had its turn for a place. -/
def State.turnPlace (s : State) (site unit : Nat) : State :=
  let c := s.capQ site
  if c.wait.any (fun x => x.1 == unit) then { s with capQs := tabPut {} s.capQs site { wait := c.wait.filter (fun x => x.1 != unit), last := unit + 1 } } else s

end Sys2Proof.Machine
end

