-- ==== Sys2Proof/Machine/Sequencer.lean ====
section
/-!
DEFINITION. Machine/Sequencer.lean: the sequencer's own ops, retirement, overrun and the profiling counters (07 R149 to
R157; 10 R208 to R210, R221).
-/
namespace Sys2Proof.Machine

/-- A flag or cue reference of an op (10 R209): group and index, if the group exists and the index is declared. -/
def refOk (x : Slate) (limit r : Nat) : Bool := decide (r / 2 ^ 16 % 2 ^ 12 < x.groups.length) && decide (r % 2 ^ 10 < limit)

/-- BARRIER (07 R147, R149, R151): the core reads its group's mask at PARAM_ADDR and waits at the barrier. -/
def execBarrier (site core : Nat) (s : State) : Host.Outcome State Fault Refusal :=
  .next (s.runOp site core 0x20 (fun s w cont o =>
    s.withOps site core w cont (o.sub == 0 && !o.resv) [{ addr := o.param, len := 8 }] (fun ps =>
      let s := s.coreGo site core false
      let pl := ps.getD 0 (0, 0)
      (s.setCore site core { s.core site core with phase := 2, cost := 8, mask := leNat (s.ramGet pl.1 pl.2 8), relRings := (opRings { o with a := 0, w := 0 }).1 }).coreWait site core)))

/-- The cores of a barrier: the slate-local cores of its group that the mask it read names (07 R149). -/
def State.barrierCores (s : State) (site core : Nat) : List (Nat × Nat × Nat) :=
  let x := s.core site core
  match x.work with
  | none => []
  | some w => match s.workSlate w with
    | none => []
    | some _ => (s.workCores w).filter (fun c => c.1 / 64 == x.loc / 64 && x.mask / 2 ^ (c.1 % 64) % 2 == 1)



/-- Whether a core meets the barrier of another (07 R151): it waits at the same one, its LAYER_OUT transfers have completed, and the
combine units have finished its layer's partial sums. -/
def State.barrierMet (s : State) (w : Work) (y : Slate) (at_ : Core) (c : Nat × Nat × Nat) : Bool :=
  let x := s.core c.2.1 c.2.2
  x.phase == 2 && x.mask == at_.mask && x.layer == at_.layer && decide (x.cost ≤ (opAt y.cont x.loc x.pc).bound) &&
    (List.range 4).all (fun q => (s.dq c.2.1 c.2.2 q).descs.all (fun d => !d.layerOut || d.dead || (decide (d.rows ≤ d.row) && d.flying == 0))) &&
    s.sumsDone w y.cont x

/-- BARRIER_RELEASE (07 R151): every core of the barrier leaves it together. -/
def execBarrierRelease (site core : Nat) (s : State) : Host.Outcome State Fault Refusal :=
  let x := s.core site core
  .next (match x.work with
    | none => s
    | some w => match s.workSlate w with
      | none => s
      | some y =>
        let cs := s.barrierCores site core
        if s.clocked site = true ∧ s.st (corePage site core) = 2 ∧ x.phase = 2 ∧ cs.all (fun c => s.barrierMet w y x c) = true then
          (cs ++ (if cs.contains (x.loc, site, core) then [] else [(x.loc, site, core)])).foldl (fun s c =>
            let s := s.coreGo c.2.1 c.2.2 false
            let z := s.core c.2.1 c.2.2
            let s1 := z.relRings.foldl (fun s r => s.release c.2.1 c.2.2 r) s
            ((((s1.setCore c.2.1 c.2.2 { z with phase := 0, pc := z.pc + 1, layer := nextLayer y.cont z.layer, cycles := z.cycles + z.cost, cost := 0, relRings := [], partials := [], sent := [] }).prof c.2.1 c.2.2 0 z.cost).prof c.2.1 c.2.2 6 1).showCore c.2.1 c.2.2)) s
        else s)

/-- FLAG_WAIT (10 R209, R210): passes once the condition holds, as an acquire. -/
def execFlagWait (site core : Nat) (s : State) : Host.Outcome State Fault Refusal :=
  .next (s.runOp site core 0x21 (fun s w _ o =>
    match s.workSlate w with
    | none => s
    | some y =>
      if 1 < o.sub ∨ o.resv = true then s.coreFault site core w 0x0100
      else if refOk y (cFlags y.cont) o.m = false then s.coreBound site core w 4 (o.m % 1024) (cFlags y.cont)
      else
        let f := y.flagAt (o.m / 2 ^ 16 % 2 ^ 12) (o.m % 1024)
        let v := s.flagValue f.1 f.2
        let met := if o.sub = 0 then decide (o.n ≤ v) else v == o.n
        if met then
          let x := s.core site core
          let e := s.bflag f.1 f.2 / 65536
          (s.setCore site core { x with held := if x.held.contains e then x.held else x.held ++ [e] }).opDone site core 4 { o with a := 0, w := 0, out := 0, param := 0 } [e]
        else s.coreWait site core))

/-- Whether a core acts on something that a cancelled epoch produced: what it would publish is discarded (10 R221). -/
def State.staleCore (s : State) (site core : Nat) : Bool := (s.core site core).held.any (fun e => s.cancelled site e)

/-- FLAG_SET (10 R209, R210): set or added to, as a release. -/
def execFlagSet (site core : Nat) (s : State) : Host.Outcome State Fault Refusal :=
  .next (s.runOp site core 0x22 (fun s w _ o =>
    match s.workSlate w with
    | none => s
    | some y =>
      if 1 < o.sub then s.coreFault site core w 0x0100
      else if refOk y (cFlags y.cont) o.m = false then s.coreBound site core w 4 (o.m % 1024) (cFlags y.cont)
      else
        let f := y.flagAt (o.m / 2 ^ 16 % 2 ^ 12) (o.m % 1024)
        (if s.staleCore site core then s else s.flagSet f.1 f.2 o.n (s.workEpoch w) (o.sub == 1)).opDone site core 4 { o with a := 0, w := 0, out := 0, param := 0 } []))

/-- CUE_PUSH (10 R209, R210): waits while the queue holds 64 handles. -/
def execCuePush (site core : Nat) (s : State) : Host.Outcome State Fault Refusal :=
  .next (s.runOp site core 0x23 (fun s w _ o =>
    match s.workSlate w with
    | none => s
    | some y =>
      if o.sub ≠ 0 then s.coreFault site core w 0x0100
      else if refOk y (cCues y.cont) (o.m / 2 ^ 16 * 2 ^ 16 + o.m % 64) = false then s.coreBound site core w 3 (o.m % 64) (cCues y.cont)
      else
        let q := y.cueAt (o.m / 2 ^ 16 % 2 ^ 12) (o.m % 64)
        if 64 ≤ (s.cue q.1 q.2).length then s.coreWait site core
        else (if s.staleCore site core then s else s.setCue q.1 q.2 (s.cue q.1 q.2 ++ [mkHandle o.a o.n o.k (s.workEpoch w)])).opDone site core 4 { o with a := 0, w := 0, out := 0, param := 0 } []))

/-- The ranges that a linked stage's handles have named, with those of handle h (14 R294). -/
def Slate.sees (y : Slate) (h : Nat) : List (Nat × Nat) :=
  if y.seen.contains (handleOff h, handleLen h) then y.seen else y.seen ++ [(handleOff h, handleLen h)]

/-- CUE_POP (10 R209, R210, R221): the next handle that is not stale, written to the core store. -/
def execCuePop (site core : Nat) (s : State) : Host.Outcome State Fault Refusal :=
  .next (s.runOp site core 0x24 (fun s w cont o =>
    match s.workSlate w with
    | none => s
    | some y =>
      if o.sub ≠ 0 then s.coreFault site core w 0x0100
      else if refOk y (cCues cont) (o.m / 2 ^ 16 * 2 ^ 16 + o.m % 64) = false then s.coreBound site core w 3 (o.m % 64) (cCues cont)
      else
        let q := y.cueAt (o.m / 2 ^ 16 % 2 ^ 12) (o.m % 64)
        match s.cueLive q.1 q.2 with
        | [] => (s.setCue q.1 q.2 []).coreWait site core
        | h :: rest =>
          s.withOps site core w cont true [{ addr := o.out % 2 ^ 31, len := 8, out := true }] (fun _ =>
            let s := match w with
              | .stage _ => s.setSlate { y with took := y.took ++ [(q.1, q.2, h)], seen := if y.pre.isSome = true ∧ q = y.cueAt 0 0 then y.sees h else y.seen }
              | .take _ _ _ => s
            (((s.setCue q.1 q.2 rest).ramWrite (spCore site core) o.out (leBytes 8 h)).setCore site core { s.core site core with held := [handleEpoch h] }).opDone site core 4 { o with a := 0, w := 0, out := 0, param := 0 } [handleEpoch h])))

/-- DMA (10 R201): issue a descriptor to a queue, unless 16 wait there. -/
def execDma (site core : Nat) (s : State) : Host.Outcome State Fault Refusal :=
  .next (s.runOp site core 0x25 (fun s w cont o =>
    let x := s.core site core
    let q := o.sub % 4
    let d := s.dq site core q
    let b := descAt cont x.loc o.m
    if 4 ≤ o.sub ∨ descCount cont x.loc ≤ o.m ∨ (leAt b 0 1 ≠ 1 ∧ leAt b 0 1 ≠ 2) then s.coreFault site core w 0x0100
    else if 16 ≤ d.descs.length then s.coreWait site core
    else
      let dy := leAt b 0x2C 1
      let rows := leAt b 0x18 4
      let n := if dy % 2 = 1 then min rows (s.workDyn (dy / 2 % 4) w * leAt b 0x2D 1) else rows
      let i : IDesc := { serial := d.serial, idx := o.m, rows := n, used := x.held ++ [s.workEpoch w], layerOut := o.layerOut || leAt b 1 1 / 4 % 2 == 1 }
      let s1 := s.setDq site core q { d with work := some w, epoch := s.workEpoch w, descs := d.descs ++ [i], serial := d.serial + 1 }
      let s2 := (s1.putBit (mvPage site core + 0x40 + 4 * q) 14 (leAt b 1 1 % 2 == 1)).showDq site core q
      s2.opDone site core 4 { o with a := 0, w := 0, out := 0, param := 0 } []))

/-- A stage's stripe is done once every core of it has ended (09 R177; 14 R293): the entry slot is released and the cores
stand again at their first op. -/
def State.stripeDone (s : State) (h : Nat) : State :=
  match s.slate h with
  | none => s
  | some y =>
    if y.running = true ∧ y.cores.all (fun c => (s.core c.2.1 c.2.2).phase == 3 && (List.range 4).all (fun q => (s.dq c.2.1 c.2.2 q).descs.isEmpty)) = true then
      let site := streamSite s.asm y.stream
      let k := y.stream % 16
      let entry := match (s.strm site k).pipe with | some b => (match b.stages with | st :: _ => st.1 == h | [] => false) | none => false
      let halo := (stageDecl y.cont).2.1
      let dst := (s.destSite site k, s.destCore site k, s.destRing site k)
      let rel := entry && (halo == 0 || decide (1 ≤ y.stripe))
      let s1 := if rel then s.release dst.1 dst.2.1 dst.2.2 else s
      let ep := match y.backlog with | e :: _ => (e, s1) | [] => s1.allocEpoch (y.groups.headD {}).site
      let s2 := y.cores.foldl (fun s c => (s.evt (corePage c.2.1 c.2.2) 1)) ep.2
      let s3 := s2.setSlate { y with stripe := y.stripe + 1, epoch := ep.1, backlog := y.backlog.drop 1, disp := y.disp - 1, took := [] }
      let w := Work.stage h
      let s4 := y.cores.foldl (fun s c => ((s.restartCore w c).clrOnTake w c.2.1 c.2.2).evt (corePage c.2.1 c.2.2) 0) s3
      s4.installTrees w y.cont
    else s

/-- END (07 R149): the take ends on this core, in 4 cycles that its CYC_BOUND must cover (09 R191). -/
def execEndOp (site core : Nat) (s : State) : Host.Outcome State Fault Refusal :=
  .next (s.runOp site core 0x2F (fun s w _ o =>
    if o.sub ≠ 0 ∨ o.resv = true then s.coreFault site core w 0x0100
    else if o.bound < 4 then s.coreBound site core w 8 4 o.bound
    else
    let x := s.core site core
    let s1 := ((((s.setCore site core { x with phase := 3, cycles := x.cycles + 4 }).prof site core 0 4).prof site core 6 1).coreWait site core).showCore site core
    match w with
    | .stage h => s1.stripeDone h
    | .take _ _ _ => s1))

/-- OP_RETIRE (07 R146, R150, R153; 10 R208, R221): ring slots are released and published; a result from a cancelled epoch is not. The
cycles that the op waited for banks, which its declared bound includes, are a free value (log 73). -/
def execOpRetire (site core : Nat) (s : State) : Host.Outcome State Fault Refusal :=
  let x := s.core site core
  .next (match x.work with
    | none => s
    | some w => match s.workSlate w with
      | none => s
      | some y =>
        let o := opAt y.cont x.loc x.pc
        if s.clocked site = true ∧ s.st (corePage site core) = 2 ∧ x.phase = 1 ∧ x.cost ≤ o.bound then
          let stale := s.staleCore site core || x.used.any (fun e => s.cancelled site e)
          let s1 := x.relRings.foldl (fun s r => s.release site core r) s
          let s2 := if stale then s1 else x.pubRings.foldl (fun s r => s.publish site core r (s.workEpoch w)) s1
          let bank := Config.bankStall s.free % (o.bound + 1 - x.cost)
          let s3 := s2.draw.setCore site core { x with phase := 0, pc := x.pc + 1, cost := 0, relRings := [], pubRings := [], used := [], cycles := x.cycles + x.cost + bank }
          (((s3.prof site core 0 (x.cost + bank)).prof site core 4 bank).prof site core 6 1).showCore site core
        else s)

/-- OP_OVERRUN (07; 09 R191): the op's counted cycles exceed its CYC_BOUND. -/
def execOpOverrun (site core : Nat) (s : State) : Host.Outcome State Fault Refusal :=
  let x := s.core site core
  .next (match x.work with
    | none => s
    | some w => match s.workSlate w with
      | none => s
      | some y =>
        let o := opAt y.cont x.loc x.pc
        if s.clocked site = true ∧ s.st (corePage site core) = 2 ∧ (x.phase = 1 ∨ x.phase = 2) ∧ o.bound < x.cost then s.coreBound site core w 8 x.cost o.bound else s)

/-- PROF_CLR (07 R154): PROF_CTL written with CLR; rejected while the core's tenant is confidential. -/
def execProfClr (req site core : Nat) (val : Word) (s : State) : Host.Outcome State Fault Refusal :=
  .next (if core < 64 then s.asWrite 0x40 req site (0x100 + core) 0x50 (fun s =>
    let p := corePage site core
    let conf := match (s.core site core).work with | some w => s.conf (s.workTenant w) | none => false
    if conf then s.reject req p 0x50 4
    else if val &&& 0xFFFFFFF8#32 ≠ 0#32 then s.reject req p 0x50 2
    else
      let s1 := (s.coreGo site core true).setReg (p + 0x50) (val &&& 5#32)
      if bitOf val 1 then (List.range 16).foldl (fun s i => s.setNat (p + 0x60 + 4 * i) 0) s1 else s1) else s)

end Sys2Proof.Machine
end

