-- ==== Sys2Proof/Machine/Movement.lean ====
section
/-!
DEFINITION. Machine/Movement.lean: DMA queues, merging, the weight relay and epochs (10 R200 to R206, R211, R214, R215, R219 to R225;
11 R241).
-/
namespace Sys2Proof.Machine

/-- A descriptor record's fields (10 R204). -/
structure Desc where
  kind : Nat := 0
  stream : Bool := false
  ahead : Bool := false
  onDone : Nat := 0
  srcSp : Nat := 0
  srcRing : Nat := 0
  dstSp : Nat := 0
  dstRing : Nat := 0
  src : Nat := 0
  dst : Nat := 0
  rowBytes : Nat := 0
  srcStride : Nat := 0
  dstStride : Nat := 0
  doneRef : Nat := 0
  doneVal : Nat := 0
  mask : Nat := 0
  deriving DecidableEq, Repr

def decodeDesc (b : List Byte) : Desc :=
  let f := leAt b 1 1
  { kind := leAt b 0 1, stream := f % 2 == 1, ahead := f / 2 % 2 == 1, onDone := f / 8 % 4, srcSp := leAt b 2 1 % 16, srcRing := leAt b 2 1 / 16,
    dstSp := leAt b 3 1 % 16, dstRing := leAt b 3 1 / 16, src := leAt b 4 8, dst := leAt b 0xC 8, rowBytes := leAt b 0x14 4,
    srcStride := leAt b 0x1C 4, dstStride := leAt b 0x20 4, doneRef := leAt b 0x24 4, doneVal := leAt b 0x28 4, mask := leAt b 0x30 8 }

/-- Where a transfer starts in one of its spaces: an on-package byte, a tenant address with what it wants and the room
there, waiting, or a broken limit. -/
inductive Spot
  | mem (sp addr : Nat)
  | ta (addr : Nat) (want : Want)
  | wait
  | broken (kind addr limit : Nat)
  | page (addr : Nat) (w : Walk)

/-- A tenant buffer: base and length from the argument block (09 R182, BUFFER_DECL). -/
def State.buffer (s : State) (w : Work) (cont : List Byte) (i : Nat) : Except (Option (Nat × Walk)) (Nat × Nat × Nat) :=
  match bufferDecl cont i, w with
  | some (off, acc), .take t q n =>
    match s.findEntry t q n with
    | none => .error none
    | some e =>
      if e.argsLen < off + 16 then .error none
      else match s.taRead t .host (e.args + off) 16 with
        | (bs, none) => .ok (leAt bs 0 8, leAt bs 8 8, acc)
        | (_, some f) => .error (some f)
  | _, _ => .error none

/-- Whether a stage may read `len` bytes at `o` of the group-0 window of the stage before it (14 R294): a FLAG link opens the whole window,
a CUE link the ranges that its handles name, popped or waiting. -/
def State.preReads (s : State) (y : Slate) (flag : Bool) (o len : Nat) : Bool :=
  let q := y.cueAt 0 0
  flag || (y.seen ++ (s.cue q.1 q.2).map (fun h => (handleOff h, handleLen h))).any (fun r => decide (r.1 ≤ o) && decide (o + len ≤ r.1 + r.2))

/-- The window of the stage before `y`, as a group that follows its own ones (14 R294; DESIGN CHOICE, log 79: the spec gives these reads
no form of their own). -/
def State.preSpot (s : State) (y : Slate) (o len : Nat) : Spot :=
  match y.pre.bind (fun p => (s.slate p.1).map (fun x => (x, p.2))) with
  | none => .broken 2 o 0
  | some (x, flag) =>
    if cBin x.cont < o + len ∨ s.preReads y flag o len = false then .broken 2 (max o (cBin x.cont)) (cBin x.cont)
    else .mem (spBin (x.groups.headD {}).site) ((x.groups.headD {}).bin + o)

/-- Resolve a place of a descriptor, `off` bytes on (09 R191; 10 R204). `slot` is the slot of a ring space. -/
def State.spot (s : State) (site c : Nat) (w : Work) (y : Slate) (loc sp ring base off len : Nat) (write : Bool) (d : Desc) (slot : Nat) : Spot :=
  let bin (g o : Nat) : Spot :=
    if y.groups.length ≤ g then (if write = false ∧ g = y.groups.length then s.preSpot y o len else .broken 2 o 0)
    else if cBin y.cont < o + len then .broken 2 (max o (cBin y.cont)) (cBin y.cont)
    else let a := y.groups.getD g {}; .mem (spBin a.site) (a.bin + o)
  if sp = 0 then (if cCs y.cont < base + off + len then .broken 1 (max (base + off) (cCs y.cont)) (cCs y.cont) else .mem (spCore site c) (base + off))
  else if sp = 1 then bin (loc / 64) (base + off)
  else if sp = 2 then .ta (base + off) .stack
  else if sp = 3 then
    match s.buffer w y.cont (base % 65536) with
    | .error none => .broken 6 (base / 65536 + off) 0
    | .error (some f) => .page f.1 f.2
    | .ok (b, l, acc) =>
      let need := (if write then acc / 2 % 2 == 1 else acc % 2 == 1) && (!d.ahead || acc / 4 % 2 == 1)
      if need = false ∨ l < base / 65536 + off + len then .broken 6 (b + base / 65536 + off) l else .ta (b + base / 65536 + off) .host
  else if sp = 4 then
    if cRings y.cont ≤ ring then .broken 5 ring (cRings y.cont)
    else
      let x := s.sring site c ring
      if x.slotBytes < base + off + len then .broken 5 ring (cRings y.cont) else .mem x.sp (x.base + slot * x.slotBytes + base + off)
  else if sp = 5 then bin (base % 4096) (base / 2 ^ 32 + off)
  else .broken 2 base 0

/-- Descriptors of a core that already hold a slot of a ring, as its producer or its consumer. -/
def State.pendingSlots (s : State) (site c r : Nat) (dst : Bool) : Nat :=
  (List.range 4).foldl (fun n q => n + ((s.dq site c q).descs.filter (fun i => match (if dst then i.dstSlot else i.srcSlot) with | some p => p.1 == r | none => false)).length) 0

/-- The slots of a descriptor's ring spaces (10 R207, R208): `none` while it must wait. -/
def State.takeSlots (s : State) (site c : Nat) (d : Desc) (i : IDesc) : Option IDesc :=
  let a := if d.dstSp = 4 ∧ i.dstSlot = none then
      (let n := s.ringSlots site c d.dstRing
       let p := s.pendingSlots site c d.dstRing true
       if s.ringUsed site c d.dstRing + p < n then some { i with dstSlot := some (d.dstRing, (s.ringTail site c d.dstRing + p) % max 1 n) } else none)
    else some i
  match a with
  | none => none
  | some i1 =>
    if d.srcSp = 4 ∧ i1.srcSlot = none then
      let n := s.ringSlots site c d.srcRing
      let p := s.pendingSlots site c d.srcRing false
      if p < s.ringCount site c d.srcRing then
        let j := s.slotNth site c d.srcRing p
        some { i1 with srcSlot := some (d.srcRing, (s.ringHead site c d.srcRing + j) % max 1 n), used := i1.used ++ ((s.sring site c d.srcRing).epochs.drop j).take 1 }
      else none
    else some i1

/-- The token bucket a bulk transfer draws on (10 R214): 0 local reads, 1 local writes, 2 remote requests. -/
def bucketOf (site : Nat) (other dstSp : Nat) : Nat := if other ≠ site then 2 else if dstSp = 0 ∨ dstSp = 1 ∨ dstSp = 4 then 0 else 1

/-- Replace a descriptor of a queue. -/
def DQ.put (d : DQ) (i : IDesc) : DQ := { d with descs := d.descs.map (fun j => if j.serial = i.serial then i else j) }

/-- Whether a descriptor derives from a cancelled epoch (10 R221, R222). -/
def State.staleDesc (s : State) (site : Nat) (i : IDesc) : Bool := i.dead || i.used.any (fun e => s.cancelled site e)

/-- The completion action of a descriptor (10 R203, R204, R207, R210); `none` while its cue is full. A stale one's output slot is
released unpublished: it stays the slot at TAIL, or is passed over where later slots are being filled (R221). -/
def State.doneAction (s : State) (site c : Nat) (w : Work) (y : Slate) (loc : Nat) (d : Desc) (i : IDesc) : Option State :=
  let stale := s.staleDesc site i
  let s1 := match i.srcSlot with | some (r, _) => s.release site c r | none => s
  let s2 := match i.dstSlot with
    | some (r, _) => if stale = false then s1.publish site c r (s.workEpoch w) else if 1 < s.pendingSlots site c r true then s1.skipSlot site c r else s1
    | none => s1
  if stale = true ∨ d.onDone = 0 then some s2
  else if d.onDone = 1 then
    if refOk y (cFlags y.cont) d.doneRef = false then some (s2.boundFault site 4 1 (c * 4) w 0 (d.doneRef % 1024) (cFlags y.cont))
    else let f := y.flagAt (d.doneRef / 2 ^ 16 % 2 ^ 12) (d.doneRef % 1024)
      some (s2.flagSet f.1 f.2 d.doneVal (s.workEpoch w) true)
  else
    if refOk y (cCues y.cont) (d.doneRef / 2 ^ 16 * 2 ^ 16 + d.doneRef % 64) = false then some (s2.boundFault site 3 1 (c * 4) w 0 (d.doneRef % 64) (cCues y.cont))
    else
      let q := y.cueAt (d.doneRef / 2 ^ 16 % 2 ^ 12) (d.doneRef % 64)
      if 64 ≤ (s.cue q.1 q.2).length then none
      else
        let off := match i.dstSlot with
          | some (r, sl) => s.slotAddr site c r sl - (y.groups.getD (loc / 64) {}).bin + d.dst
          | none => if d.dstSp = 5 then d.dst / 2 ^ 32 else d.dst
        let len := cdiv (if i.rows = 0 then 0 else (i.rows - 1) * d.dstStride + d.rowBytes) 64
        some (s2.setCue q.1 q.2 (s2.cue q.1 q.2 ++ [mkHandle off len d.doneVal (s.workEpoch w)]))

/-- Retire finished descriptors from the front of a queue, in order (10 R203). -/
def State.retireDescs (s : State) (site c q : Nat) (w : Work) (y : Slate) (loc : Nat) : List IDesc → State
  | [] => s
  | i :: rest =>
    if i.rows ≤ i.row ∧ i.flying = 0 then
      match s.doneAction site c w y loc (decodeDesc (descAt y.cont loc i.idx)) i with
      | none => s
      | some s1 =>
        if (s1.core site c).work = some w then
          let d := s1.dq site c q
          (s1.setDq site c q { d with descs := d.descs.filter (fun j => j.serial != i.serial) }).retireDescs site c q w y loc rest
        else s1
    else s

/-- Run a DMA-queue command: the core's die is up with its clocks, and the queue has a live work (10). -/
def State.onQueue (s : State) (site c q : Nat) (k : Work → Slate → DQ → State) : State :=
  let d := s.dq site c q
  match d.work with
  | none => s
  | some w => match s.workSlate w with
    | none => s
    | some y => if s.clocked site = true ∧ c < 64 ∧ q < 4 ∧ (s.core site c).work = some w then k w y d else s

/-- A DMA queue stops at a page (10 R224; 11 R233). -/
def State.queueStop (s : State) (site c q : Nat) (w : Work) (kind ta : Nat) (write : Bool) (wk : Walk) : State :=
  match wk with
  | .absent _ =>
    let s1 := s.setDq site c q { s.dq site c q with halted := true, haltAt := s.now }
    (s1.pageStop w kind site (c * 4 + q) ta write wk).showDq site c q
  | .bad _ => s.pageStop w kind site (c * 4 + q) ta write wk
  | _ => s

/-- The on-package place or translation of a spot. -/
inductive Land
  | ram (sp addr : Nat)
  | host (addr : Nat) (dev : Bool)
  | stop (ta : Nat) (w : Walk)
def State.land (s : State) (t : Nat) (write : Bool) : Spot → Land
  | .mem sp a => .ram sp a
  | .ta a want => match s.translate t a write want with
    | .stack dpa => .ram spStack dpa
    | .host h dev => .host h dev
    | w => .stop a w
  | .page a w => .stop a w
  | _ => .stop 0 .wait

/-- The address of a spot within 4 KiB, for cutting (10 R200). -/
def Spot.page4 : Spot → Nat
  | .mem _ a => a % 4096
  | .ta a _ => a % 4096
  | _ => 0

/-- The space and address where a spot starts, for merging (10 R206). -/
def Spot.start : Spot → Nat × Nat
  | .mem sp a => (sp, a)
  | .ta a _ => (2 ^ 16, a)
  | _ => (0, 0)

/-- The die at the far end of a transfer. -/
def State.landSite (s : State) (site : Nat) : Land → Nat
  | .ram sp a => if sp = spStack then s.dpaSite a else sp / 256
  | _ => site

/-- The arbitration point at which a transfer of a die contends (10 Arbitration classes; log 75): the end of the link it crosses, else
the memory controller of its stack end, else the bank port of its bin end. -/
def State.arbPoint (s : State) (site : Nat) (ls ld : Land) : Option Nat :=
  let far := if s.landSite site ls = site then s.landSite site ld else s.landSite site ls
  let ctl (l : Land) : Option Nat := match l with | .ram sp a => if sp = spStack then some (site * 64 + 16 + blkOf (s.ctlPage a) % 2) else none | _ => none
  let bank (l : Land) : Option Nat := match l with | .ram sp a => if sp = spBin site then some (site * 64 + a / 64 % 16) else none | _ => none
  if far ≠ site then some (site * 64 + 32 + far % 16) else (ctl ls).or ((ctl ld).or ((bank ls).or (bank ld)))

/-- Whether a tenant address is of a page typed as device registers now (09 R191, KIND 7). -/
def State.devPage (s : State) (t ta : Nat) (write : Bool) : Bool :=
  match s.walkFrom (ta % 2 ^ 48) write 3 (s.wide (mmuPage t + 0x40)) with | .host _ dev => dev | _ => false

/-- Whether transfer `f` of a descriptor merges into the transfer that its queue issued last (10 R206): of one class, RUN_AHEAD and
spaces, each under 512 B, end to start in both spaces and within one 4 KiB block of each, no completion action on the earlier, and
ready within 8 core cycles of it. -/
def State.merges (s : State) (site : Nat) (cont : List Byte) (loc : Nat) (dq : DQ) (i : IDesc) (f : Xfer) : Bool :=
  match dq.flights.getLast? with
  | none => false
  | some a =>
    let last := a.joins.getLast?.getD a.serial
    let d := decodeDesc (descAt cont loc i.idx)
    let same := match dq.descs.find? (fun j => j.serial == last) with
      | some j => let e := decodeDesc (descAt cont loc j.idx)
        e.kind == 1 && e.stream == d.stream && e.ahead == d.ahead && e.srcSp == d.srcSp && e.dstSp == d.dstSp && (last == i.serial || e.onDone == 0)
      | none => false
    let n := a.data.length
    let m := f.data.length
    let joined (x y : Nat × Nat) : Bool := x.1 == y.1 && x.2 + n == y.2 && x.2 / 4096 == (y.2 + m - 1) / 4096
    same && a.host == f.host && decide (n < 512) && decide (m < 512) && joined a.src f.src && joined a.dst f.dst
      && decide ((s.now - a.issued) * 5 * s.regFld (pg site 0x0B + 0x44) 0 12 ≤ 8000)

/-- Put a transfer in flight (10 R201, R202, R206): merged into the last one where R206 allows, else in a place of its own, for which
the queue may have to wait. The descriptor moves on by its bytes. -/
def State.launch (s : State) (site c q : Nat) (w : Work) (y : Slate) (i : IDesc) (bulk : Option Nat) (f : Xfer) (n rowBytes : Nat) : State :=
  let loc := (s.core site c).loc
  let unit := (site * 256 + c) * 4 + q
  let dq := s.dq site c q
  let join := s.merges site y.cont loc dq i f
  if join = false ∧ max 1 (cDmaOut y.cont q) ≤ dq.flights.length then s
  else if join = false ∧ s.hasPlace site unit f.heads f.stream = false then s.waitPlace site unit f.stream
  else
    let j : IDesc := if i.col + n < rowBytes then { i with col := i.col + n } else { i with row := i.row + 1, col := 0 }
    let s1 := match bulk with | some k => s.spend y (loc / 64) k n | none => s
    let s2 := (s1.queueGo site c q false).turnPlace site unit
    let fs := if join then dq.flights.dropLast ++ (match dq.flights.getLast? with | some a => [{ a with data := a.data ++ f.data, joins := a.joins ++ [f.serial] }] | none => []) else dq.flights ++ [f]
    let s3 := s2.setDq site c q { ((s2.dq site c q).put { j with flying := j.flying + 1 }) with flights := fs }
    let s4 := if join = true ∧ s.conf (s.workTenant w) = false then s3.addSat (mvPage site c + 0x70) 1 else s3
    (s4.showDq site c q).showInflight site

/-- A bulk transfer waits for its bucket (10 R214). -/
def State.bucketWait (s : State) (site c q : Nat) : State := let dq := s.dq site c q; s.setDq site c q { dq with waitFrom := some (dq.waitFrom.getD s.now) }

/-- Issue the next transfer of a queue (10 R200 to R202, R206, R207, R211, R214, R222; 09 R191; 11 R231, R233, R239). -/
def State.issue (s : State) (site c q : Nat) (w : Work) (y : Slate) (dq : DQ) : State :=
  let loc := (s.core site c).loc
  match dq.next with
  | none => (s.retireDescs site c q w y loc dq.descs).showDq site c q
  | some i0 =>
    let d := decodeDesc (descAt y.cont loc i0.idx)
    if d.kind ≠ 1 ∨ dq.halted = true then s
    else match s.takeSlots site c d i0 with
      | none => s
      | some i =>
        let sOff := i.row * d.srcStride + i.col
        let dOff := i.row * d.dstStride + i.col
        let left := d.rowBytes - i.col
        let spS (n : Nat) := s.spot site c w y loc d.srcSp d.srcRing d.src sOff n false d ((i.srcSlot.map (·.2)).getD 0)
        let spD (n : Nat) := s.spot site c w y loc d.dstSp d.dstRing d.dst dOff n true d ((i.dstSlot.map (·.2)).getD 0)
        let n := min left (min (4096 - (spS 1).page4) (4096 - (spD 1).page4))
        let ahead : Bool := d.ahead && (match spS n with | .ta a _ => s.devPage y.tenant a false | _ => false)
        match spS n, spD n with
        | .broken k a l, _ => s.boundFault site k 1 (c * 4 + q) w 0 a l
        | _, .broken k a l => s.boundFault site k 1 (c * 4 + q) w 0 a l
        | src, dst =>
          if ahead then s.boundFault site 7 1 (c * 4 + q) w 0 src.start.2 0
          else match s.land y.tenant false src, s.land y.tenant true dst with
          | .stop ta wk, _ => s.queueStop site c q w 0 ta false wk
          | _, .stop ta wk => s.queueStop site c q w 0 ta true wk
          | ls, ld =>
            let toHost := match ld with | .host _ _ => true | _ => false
            let poison := match ls with | .ram sp a => s.poisoned sp a n | _ => false
            let far := if s.landSite site ls = site then s.landSite site ld else s.landSite site ls
            let k := bucketOf site far d.dstSp
            if toHost = true ∧ s.staleDesc site i = true then
              let j : IDesc := { i with row := i.rows, dead := true }
              (s.setDq site c q (dq.put j)).retireDescs site c q w y loc (dq.put j).descs
            else if d.stream = false ∧ 65536 * 320000 < s.spent y (loc / 64) k + n * 320000 then s.bucketWait site c q
            else if poison = true then (match ls with | .ram sp a => s.eatPoison site w sp a | _ => s)
            else
              let data := match ls with | .ram sp a => s.ramGet sp a n | .host a _ => s.hmemGet a n | _ => []
              let ring := s.sring site c d.dstRing
              let slack := if d.stream = true ∧ d.dstSp = 4 then s.ringCount site c d.dstRing * ring.period * 1000000 / max 1 (s.regFld (pg site 0x0B + 0x44) 0 12) else 0
              let f0 : Xfer := { serial := i.serial, data := data, issued := s.now, src := src.start, dst := dst.start, stream := d.stream, slack := slack, point := s.arbPoint site ls ld, share := k }
              let f : Xfer := match ld with
                | .ram sp a => { f0 with sp := sp, addr := a }
                | .host a _ => { f0 with host := true, addr := a }
                | .stop _ _ => f0
              s.launch site c q w y i (if d.stream then none else some k) f n d.rowBytes

def execDmaTransfer (site core q : Nat) (s : State) : Host.Outcome State Fault Refusal :=
  .next (s.onQueue site core q (fun w y d => s.issue site core q w y d))

/-- DMA_TRANSFER_DONE (10 R201, R203, R211, R212): a transfer in flight that is granted at its point lands. The transfers of a queue may
complete in any order: which of them does is a free choice (log 75). -/
def State.landOne (s : State) (site c q : Nat) (w : Work) (y : Slate) (dq : DQ) : State :=
  let unit := (site * 256 + c) * 4 + q
  let ok := (List.range dq.flights.length).filter (fun i => match dq.flights[i]? with | some f => s.granted unit i f | none => false)
  match ok[(Config.freeWord s.free).toNat % max 1 ok.length]?.bind (fun i => dq.flights[i]?.map (fun f => (i, f))) with
  | none => s
  | some (i, f) =>
    if s.zeroing f.sp f.addr = true ∧ f.host = false then s
    else if s.ownsAt y.tenant f.sp f.addr = false ∧ f.host = false then s.contained w 0x0104
    else
    let s1 := (s.draw.grant site unit (s.conf y.tenant) f).landFlights y.tenant [f]
    let d2 : DQ := { dq with flights := dq.flights.eraseIdx i, descs := dq.descs.map (fun i => { i with flying := i.flying - ((f.serial :: f.joins).filter (· == i.serial)).length }) }
    (((s1.setDq site c q d2).retireDescs site c q w y (s.core site c).loc d2.descs).showDq site c q).showInflight site

def execDmaTransferDone (site core q : Nat) (s : State) : Host.Outcome State Fault Refusal :=
  let d := s.dq site core q
  .next (match d.work with
    | none => s
    | some w => match s.workSlate w with
      | none => s
      | some y => if s.dieUp site = true ∧ core < 64 ∧ q < 4 ∧ (s.core site core).work = some w then s.landOne site core q w y d else s)

/-- RELAY_TILE (10 R200, R202, R215): the next transfer of a RELAY's tile enters the chains of the bays that hold its destination cores,
counting once at each chain's head; its source is the slate's own weights where it stores any (20 R410; 21 R436; log 49), else the
tenant's stack memory. A tile whose mask names no core goes nowhere. -/
def State.relay (s : State) (site c q : Nat) (w : Work) (y : Slate) (dq : DQ) : State :=
  let loc := (s.core site c).loc
  match dq.next with
  | none => (s.retireDescs site c q w y loc dq.descs).showDq site c q
  | some i =>
    let d := decodeDesc (descAt y.cont loc i.idx)
    if d.kind ≠ 2 ∨ dq.halted = true then s
    else
      let dests := (s.workCores w).filter (fun x => x.1 / 64 == loc / 64 && d.mask / 2 ^ (x.1 % 64) % 2 == 1)
      let at_ := d.dst + i.row * d.rowBytes + i.col
      let ta := d.src + i.row * d.srcStride + i.col
      let n := min (d.rowBytes - i.col) (min (4096 - ta % 4096) (4096 - at_ % 4096))
      let own := !y.weights.isEmpty
      if cCs y.cont < at_ + n then s.boundFault site 1 1 (c * 4 + q) w 0 (max at_ (cCs y.cont)) (cCs y.cont)
      else if own = false ∧ d.ahead = true ∧ s.devPage y.tenant ta false = true then s.boundFault site 7 1 (c * 4 + q) w 0 ta 0
      else match (if own then ((y.weights.drop ta).take n, none) else s.taRead y.tenant .stack ta n) with
        | (_, some (a, wk)) => s.queueStop site c q w 1 a false wk
        | (data, none) =>
          let dpa := match s.translate y.tenant ta false .stack with | .stack x => x | _ => 0
          let k := bucketOf site (if own then site else s.dpaSite dpa) 0
          if own = false ∧ s.poisoned spStack dpa n = true then s.eatPoison site w spStack dpa
          else if 65536 * 320000 < s.spent y (loc / 64) k + n * 320000 then s.bucketWait site c q
          else
            let bays := ((dests.map (fun x => x.2.2 / 16)).eraseDups)
            let goal := dests.map (fun x => (spCore x.2.1 x.2.2, at_))
            let f : Xfer := { serial := i.serial, sp := (goal.headD (spCore site c, 0)).1, addr := at_, data := if goal.isEmpty then [] else data, issued := s.now, more := goal.drop 1, heads := max 1 bays.length,
                              point := bays.head?.map (fun b => site * 64 + 48 + b), share := k }
            s.launch site c q w y i (some k) f n d.rowBytes

def execRelayTile (site core q : Nat) (s : State) : Host.Outcome State Fault Refusal :=
  .next (s.onQueue site core q (fun w y d => s.relay site core q w y d))

/-- A contained error of the movement page (10 Control). -/
def State.moveFault (s : State) (site : Nat) (w : Work) (code : Nat) : State := (s.faultRec (movePage site) code 2).contained w code

/-- DMA_TIMEOUT (10 Control): a transfer in flight was issued 2 ms ago, time HALTED not counted. -/
def execDmaTimeout (site core q : Nat) (s : State) : Host.Outcome State Fault Refusal :=
  .next (s.onQueue site core q (fun w _ d =>
    if d.halted = false ∧ d.flights.any (fun f => decide (f.issued + 400000 ≤ s.now)) = true then s.moveFault site w 0x0102 else s))

/-- DMA_PARITY (10 Control). -/
def execDmaParity (site core q : Nat) (s : State) : Host.Outcome State Fault Refusal :=
  .next (s.onQueue site core q (fun w _ d => if d.flights.isEmpty then s else s.moveFault site w 0x0100))

/-- Whether a relay tile is on the chain of a bay of a die (10 R215). -/
def Xfer.onChain (f : Xfer) (site bay : Nat) : Bool :=
  f.point.any (fun p => decide (48 ≤ p % 64)) && ((f.sp, f.addr) :: f.more).any (fun m => m.1 / 256 == site && (m.1 % 256 - 64) / 16 == bay)

/-- RELAY_PARITY (10 Control): a chain port of a core; the work whose tile is on that bay's chain. -/
def execRelayParity (site core : Nat) (s : State) : Host.Outcome State Fault Refusal :=
  .next (match s.dqs.find? (fun d => d.1 / 1024 == site && d.2.flights.any (fun f => f.onChain site (core / 16))) with
    | some (_, d) => (match d.work with
      | some w => if s.dieUp site = true ∧ core < 64 then s.moveFault site w 0x0101 else s
      | none => s)
    | none => s)

/-- CLR_PEAK (10 R202). -/
def execClrPeak (req site : Nat) (val : Word) (s : State) : Host.Outcome State Fault Refusal :=
  .next (s.asWrite 0x45 req site 9 0x54 (fun s =>
    if val &&& 0xFFFFFFFE#32 ≠ 0#32 then s.reject req (movePage site) 0x54 2
    else if bitOf val 0 then s.putFld (movePage site + 0x40) 16 9 (s.regFld (movePage site + 0x40) 0 9) else s))

/-- EPOCH_CANCEL (09 R195; 10 R220, R221): the epoch of a running take or of a stage's stripe advances. -/
def execEpochCancel (epoch : Nat) (s : State) : Host.Outcome State Fault Refusal :=
  .next (match s.slates.find? (fun x => x.2.kind == 2 && x.2.running && x.2.epoch == epoch) with
    | some (_, y) => s.restripe y.handle
    | none => match (List.range 128).find? (fun k => (s.tq (k / 8) (k % 8)).entries.any (fun e => (e.st == 1 || e.st == 2) && e.epoch == epoch)) with
      | none => s
      | some k => match (s.tq (k / 8) (k % 8)).entries.find? (fun e => (e.st == 1 || e.st == 2) && e.epoch == epoch) with
        | some e => s.endTake (k / 8) (k % 8) e.n 0x0301 none
        | none => s)

end Sys2Proof.Machine
end

