-- ==== Sys2Proof/Machine/Vector.lean ====
section
/-!
DEFINITION. Machine/Vector.lean: the vector ops (07 R144, R145, R148, R149). Rows and row lengths are M and N; the second
operand lies at W_ADDR (log 44).
-/
namespace Sys2Proof.Machine

def fnF (i x : Nat) : Nat := (Config.vecFn i (BitVec.ofNat 32 x)).toNat
def f32One : Nat := 0x3F800000
def f32NegInf : Nat := 0xFF800000

/-- A number as FP32 bits, and FP32 bits as a number. -/
def Num.bits (v : Num) : Nat := fpEncode fp32 v.fp
def ofF (x : Nat) : Num := .flt (fpDecode fp32 x) (x / 2 ^ 31 == 1)
def sat32 (x : Int) : Num := .int (satBits 32 x).1
def mulF (a b : Nat) : Nat := fpEncode fp32 (fpMul (fpDecode fp32 a) (fpDecode fp32 b))
def subF (a b : Nat) : Nat := fpEncode fp32 (fpAdd (fpDecode fp32 a) (fpNeg (fpDecode fp32 b)))
/-- Greater and lesser of two FP32 words; any NaN gives the canonical one (07 R143). -/
def maxF (a b : Nat) : Nat :=
  match fpDecode fp32 a, fpDecode fp32 b with
  | .nan, _ => fpNan fp32
  | _, .nan => fpNan fp32
  | x, y => if fpLt x y then b else a
def minF (a b : Nat) : Nat :=
  match fpDecode fp32 a, fpDecode fp32 b with
  | .nan, _ => fpNan fp32
  | _, .nan => fpNan fp32
  | x, y => if fpLt y x then b else a

/-- The fixed-order reduction of R148: chunks of 64 folded into 64 lanes, the lanes combined in a balanced tree. -/
def lanesOf (f : Nat → Nat → Nat) : Nat → List Nat → List Nat → List Nat
  | 0, acc, _ => acc
  | k + 1, acc, xs => if xs.isEmpty then acc else
    lanesOf f k ((List.range 64).map (fun i => if i < xs.length then f (acc.getD i 0) (xs.getD i 0) else acc.getD i 0)) (xs.drop 64)
def reduce (f : Nat → Nat → Nat) (start : Nat) (xs : List Nat) : Nat :=
  treeFold f 6 (lanesOf f (xs.length / 64 + 1) (List.replicate 64 start) xs)

/-- A row of an operand as numbers. -/
def State.rowOf (s : State) (code : Nat) (pl : Nat × Nat) (byteOff n : Nat) : List Num :=
  (List.range n).map (fun i => numOf code (s.elem code pl byteOff i))

/-- Write a row of numbers in the output format; the state and the saturations. -/
def State.putRow (s : State) (o : Op) (po : Nat × Nat) (byteOff : Nat) (xs : List Num) : State × Nat :=
  let c := xs.map (convertNum o.fo o.satFin)
  (s.ramWrite po.1 (po.2 + byteOff) (packElems o.fo (c.map (·.1))), (c.filter (·.2)).length)

/-- Write rows at the output stride. -/
def State.putRows (s : State) (o : Op) (po : Nat × Nat) (rows : List (List Num)) : State × Nat :=
  (List.range rows.length).foldl (fun (acc : State × Nat) r => let t := acc.1.putRow o po (r * o.so) (rows.getD r []); (t.1, acc.2 + t.2)) (s, 0)

/-- The two operands of an element-wise vector op and its output. -/
def vecOps (o : Op) (aLen wLen pLen outLen : Nat) : List Operand :=
  [{ addr := o.a, len := aLen }, { addr := o.w, len := wLen }, { addr := o.param, len := pLen }, { addr := o.out, len := outLen, out := true }]

/-- Run a vector op: its operands checked, its rows computed and written, its cycles counted. -/
def State.runVec (s : State) (site c : Nat) (w : Work) (cont : List Byte) (o : Op) (ok : Bool) (ops : List Operand) (cost : Nat)
    (rows : List (Nat × Nat) → List (List Num)) : State :=
  s.withOps site c w cont (ok && !o.resv && decide (o.fa ≤ 7) && decide (o.fo ≤ 7)) ops (fun ps =>
    let r := s.putRows o (ps.getD 3 (0, 0)) (rows ps)
    ((r.1.countSats site c r.2).prof site c 2 cost).opDone site c cost o (s.ringEpochs site c o))

/-- w of the cycle column: 1 when every operand is 16 bits or narrower. -/
def wideFactor (fs : List Nat) : Nat := if fs.all (fun f => decide (fmtBits f ≤ 16)) then 1 else 2

/-- EW (07 R149): K gives the broadcast of B: 0 none, 1 one row, 2 one column (log 44). -/
def ewNum (sub : Nat) (a b : Num) : Num :=
  match a, b with
  | .int x, .int y => if sub = 0 then sat32 (x + y) else if sub = 1 then sat32 (x - y) else if sub = 2 then sat32 (x * y) else if sub = 3 then .int (max x y) else .int (min x y)
  | a, b =>
    let x := a.bits
    let y := b.bits
    ofF (if sub = 0 then addF x y else if sub = 1 then subF x y else if sub = 2 then mulF x y else if sub = 3 then maxF x y else minF x y)

def execEw (site core : Nat) (s : State) : Host.Outcome State Fault Refusal :=
  .next (s.runOp site core 0x10 (fun s w cont o =>
    let ra := runBytes o.fa o.n
    let rb := runBytes o.fw (if o.k = 2 then 1 else o.n)
    let sb := if o.k = 1 then 0 else if o.k = 2 then rb else o.sa * fmtBits o.fw / fmtBits o.fa
    s.runVec site core w cont o (decide (o.sub ≤ 4) && decide (o.fw ≤ 7) && decide (o.k ≤ 2)) (vecOps o (span o.m ra o.sa) (span o.m rb sb) 0 (span o.m (runBytes o.fo o.n) o.so))
      (16 + cdiv (o.m * o.n) 64 * wideFactor [o.fa, o.fw, o.fo]) (fun ps =>
        (List.range o.m).map (fun r =>
          let xa := s.rowOf o.fa (ps.getD 0 (0, 0)) (r * o.sa) o.n
          let xb := s.rowOf o.fw (ps.getD 1 (0, 0)) (r * sb) (if o.k = 2 then 1 else o.n)
          (List.range o.n).map (fun i => ewNum o.sub (xa.getD i (.int 0)) (xb.getD (if o.k = 2 then 0 else i) (.int 0)))))))

/-- ACT (07 R149). -/
def actNum (sub mult : Nat) (v : Num) : Num :=
  match sub, v with
  | 0, .int x => .int (max x 0)
  | 1, .int x => .int (min (max x 0) 6)
  | sub, v =>
    let x := v.bits
    let pos := maxF x 0
    ofF (if sub = 0 then pos else if sub = 1 then minF pos 0x40C00000
      else if sub = 2 then (if fpLt (fpDecode fp32 x) (.fin false 0 1) then mulF x mult else x)
      else if sub = 3 then fnF 5 x else if sub = 4 then fnF 6 x else if sub = 5 then fnF 4 x else if sub = 6 then fnF 3 x else fnF 0 x)

def execAct (site core : Nat) (s : State) : Host.Outcome State Fault Refusal :=
  .next (s.runOp site core 0x11 (fun s w cont o =>
    s.runVec site core w cont o (decide (o.sub ≤ 7)) (vecOps o (span o.m (runBytes o.fa o.n) o.sa) 0 0 (span o.m (runBytes o.fo o.n) o.so))
      (16 + cdiv (o.m * o.n) 64 * (if o.sub ≤ 2 then 1 else 2)) (fun ps =>
        (List.range o.m).map (fun r => (s.rowOf o.fa (ps.getD 0 (0, 0)) (r * o.sa) o.n).map (actNum o.sub o.mult)))))

/-- CONVERT's number of an element (07 R144, R145): requantisation with the op's or each column's parameters from INT32 to INT8, the
value itself in every other form. -/
def State.requant (s : State) (o : Op) (pa pp : Nat × Nat) (r i : Nat) : Num :=
  let v := numOf o.fa (s.elem o.fa pa (r * o.sa) i)
  if o.fa = 7 ∧ o.fo = 0 then
    let p := s.colParam o pp o.n i
    match v with
    | .int acc => .int (rneDiv ((acc + (if o.bias then (BitVec.ofNat 32 p.1).toInt else 0)) * p.2.1) (2 ^ (31 + p.2.2)) + (BitVec.ofNat 8 o.zp).toInt)
    | v => v
  else v

def execConvert (site core : Nat) (s : State) : Host.Outcome State Fault Refusal :=
  .next (s.runOp site core 0x12 (fun s w cont o =>
    s.runVec site core w cont o (o.sub == 0) (vecOps o (span o.m (runBytes o.fa o.n) o.sa) 0 (if o.fa = 7 ∧ o.fo = 0 then paramLen o o.n else 0) (span o.m (runBytes o.fo o.n) o.so))
      (16 + cdiv (o.m * o.n) 64 * wideFactor [o.fa, o.fo]) (fun ps =>
        (List.range o.m).map (fun r => (List.range o.n).map (fun i => s.requant o (ps.getD 0 (0, 0)) (ps.getD 2 (0, 0)) r i)))))

/-- NORM (07 R149): LayerNorm or RMSNorm by the unit's reductions, reciprocal and reciprocal square root (log 44). -/
def normRow (sub eps : Nat) (gamma beta xs : List Nat) : List Nat :=
  let inv := fnF 1 (fpEncode fp32 (fpOfInt xs.length))
  let mean := if sub = 0 then mulF (reduce addF 0 xs) inv else 0
  let d := if sub = 0 then xs.map (fun x => subF x mean) else xs
  let r := fnF 2 (addF (mulF (reduce addF 0 (d.map (fun x => mulF x x))) inv) eps)
  (List.range xs.length).map (fun i => addF (mulF (mulF (d.getD i 0) r) (gamma.getD i 0)) (beta.getD i 0))

def execNorm (site core : Nat) (s : State) : Host.Outcome State Fault Refusal :=
  .next (s.runOp site core 0x13 (fun s w cont o =>
    s.runVec site core w cont o (decide (o.sub ≤ 1)) (vecOps o (span o.m (runBytes o.fa o.n) o.sa) 0 (8 * o.n) (span o.m (runBytes o.fo o.n) o.so))
      (16 + o.m * (3 * cdiv o.n 64 + 12)) (fun ps =>
        let p := ps.getD 2 (0, 0)
        let gb := (List.range (2 * o.n)).map (fun i => s.elem 6 p 0 i)
        (List.range o.m).map (fun r => (normRow o.sub o.mult (gb.take o.n) (gb.drop o.n) ((s.rowOf o.fa (ps.getD 0 (0, 0)) (r * o.sa) o.n).map Num.bits)).map ofF))))

/-- SOFTMAX (07 R148): elements from L′ on are −∞ and written as 0. -/
def softRow (scale live : Nat) (xs : List Nat) : List Nat :=
  let ys := (xs.take live).map (fun x => mulF x scale)
  let m := reduce maxF f32NegInf ys
  let es := ys.map (fun y => fnF 0 (subF y m))
  let inv := fnF 1 (reduce addF 0 es)
  es.map (fun e => mulF e inv) ++ List.replicate (xs.length - ys.length) 0

def execSoftmax (site core : Nat) (s : State) : Host.Outcome State Fault Refusal :=
  .next (s.runOp site core 0x14 (fun s w cont o =>
    let live := if o.dyn then min o.n (s.workDyn o.dynIdx w) else o.n
    s.runVec site core w cont o (o.sub == 0) (vecOps o (span o.m (runBytes o.fa o.n) o.sa) 0 0 (span o.m (runBytes o.fo o.n) o.so))
      (16 + o.m * (4 * cdiv o.n 64 + 20)) (fun ps =>
        (List.range o.m).map (fun r => (softRow o.mult live ((s.rowOf o.fa (ps.getD 0 (0, 0)) (r * o.sa) o.n).map Num.bits)).map ofF))))

/-- REDUCE (07 R148): one element a row. -/
def reduceRow (sub : Nat) (xs : List Num) : Num :=
  if xs.all Num.isInt = true ∧ sub ≠ 2 then
    let ints := xs.map (fun v => match v with | .int x => x | _ => 0)
    if sub = 0 then sat32 (ints.foldl (fun a x => a + x) 0) else .int (ints.foldl max (ints.headD 0))
  else
    let bs := xs.map Num.bits
    ofF (if sub = 0 then reduce addF 0 bs else if sub = 1 then reduce maxF f32NegInf bs else mulF (reduce addF 0 bs) (fnF 1 (fpEncode fp32 (fpOfInt xs.length))))

def execReduce (site core : Nat) (s : State) : Host.Outcome State Fault Refusal :=
  .next (s.runOp site core 0x15 (fun s w cont o =>
    s.runVec site core w cont o (decide (o.sub ≤ 2)) (vecOps o (span o.m (runBytes o.fa o.n) o.sa) 0 0 (span o.m (runBytes o.fo 1) o.so))
      (16 + o.m * (cdiv o.n 64 + 6)) (fun ps => (List.range o.m).map (fun r => [reduceRow o.sub (s.rowOf o.fa (ps.getD 0 (0, 0)) (r * o.sa) o.n)]))))

/-- The window geometry of POOL and DWCONV: N channels, input width from the A stride, output width from the output
stride (log 43). -/
structure Win where
  kh : Nat := 1
  kw : Nat := 1
  sh : Nat := 1
  sw : Nat := 1
  ph : Nat := 0
  pw : Nat := 0
  w : Nat := 0
  wo : Nat := 0
  h : Nat := 0
  deriving DecidableEq, Repr

def winOf (o : Op) : Win :=
  let g (i : Nat) : Nat := o.geom.getD i 0
  let wo := if o.n = 0 then 0 else o.so * 8 / (o.n * fmtBits o.fo)
  let ho := if wo = 0 then 0 else o.m / wo
  { kh := g 0, kw := g 1, sh := g 2, sw := g 3, ph := g 6, pw := g 7, w := if o.n = 0 then 0 else o.sa * 8 / (o.n * fmtBits o.fa), wo := wo, h := (ho - 1) * g 2 + g 0 - 2 * g 6 }

def winOk (v : Win) (kMax sMax : Nat) : Bool :=
  decide (1 ≤ v.kh) && decide (v.kh ≤ kMax) && decide (1 ≤ v.kw) && decide (v.kw ≤ kMax) && decide (1 ≤ v.sh) && decide (v.sh ≤ sMax) && decide (1 ≤ v.sw) && decide (v.sw ≤ sMax)

/-- The input elements under a window at an output pixel and channel, in row-major order; outside the input none. -/
def State.window (s : State) (o : Op) (v : Win) (pa : Nat × Nat) (pix ch : Nat) : List (Option Num) :=
  (List.range (v.kh * v.kw)).map (fun i =>
    let y : Int := ((pix / v.wo * v.sh + i / v.kw : Nat) : Int) - v.ph
    let x : Int := ((pix % v.wo * v.sw + i % v.kw : Nat) : Int) - v.pw
    if 0 ≤ y ∧ y < v.h ∧ 0 ≤ x ∧ x < v.w then some (numOf o.fa (s.elem o.fa pa (y.toNat * o.sa) (x.toNat * o.n + ch))) else none)

/-- Output rows of a window op: one row of wo pixels by N channels. -/
def winRows (o : Op) (v : Win) (f : Nat → Nat → Num) : List (List Num) :=
  (List.range (cdiv o.m (max 1 v.wo))).map (fun r => (List.range (min v.wo (o.m - r * v.wo))).flatMap (fun x => (List.range o.n).map (fun ch => f (r * v.wo + x) ch)))

/-- Sum of numbers in order: INT32 saturating at the end, or FP32 rounded at each step (log 44). -/
def sumNums (isInt : Bool) (xs : List Num) : Num :=
  if isInt then sat32 (xs.foldl (fun a v => match v with | .int x => a + x | _ => a) 0)
  else ofF (xs.foldl (fun a v => addF a v.bits) 0)

/-- POOL (07 R149): the maximum of the input elements under the window, a free value where there are none, or their sum over the
window's size (log 44). -/
def poolNum (isInt : Bool) (sub count : Nat) (xs : List (Option Num)) : Num :=
  let ys := xs.filterMap id
  if sub = 0 then
    (match ys with
     | [] => if isInt then .int Config.emptyMax.toInt else ofF Config.emptyMax.toNat
     | y :: _ =>
       if isInt then .int (ys.foldl (fun a v => match v with | .int x => max a x | _ => a) (match y with | .int x => x | _ => 0))
       else ofF (ys.foldl (fun a v => maxF a v.bits) f32NegInf))
  else ofF (mulF (sumNums isInt ys).bits (fnF 1 (fpEncode fp32 (fpOfInt count))))

def execPool (site core : Nat) (s : State) : Host.Outcome State Fault Refusal :=
  .next (s.runOp site core 0x16 (fun s w cont o =>
    let v := winOf o
    let rows := cdiv o.m (max 1 v.wo)
    s.runVec site core w cont o (decide (o.sub ≤ 1) && winOk v 8 8) (vecOps o (span v.h (runBytes o.fa (v.w * o.n)) o.sa) 0 0 (span rows (runBytes o.fo (v.wo * o.n)) o.so))
      (16 + cdiv (o.m * o.n) 64 * (v.kh * v.kw)) (fun ps => winRows o v (fun pix ch => poolNum (isIntFmt o.fa) o.sub (v.kh * v.kw) (s.window o v (ps.getD 0 (0, 0)) pix ch)))))

/-- DWCONV (07 R149): each channel with its own kh × kw weights, tap by tap, and the bias. -/
def dwNum (isInt : Bool) (bias : Option Nat) (xs : List (Option Num)) (ws : List Num) : Num :=
  let pr := (List.range xs.length).filterMap (fun i => (xs.getD i none).map (fun x => ewNum 2 x (ws.getD i (.int 0))))
  match bias, sumNums isInt pr with
  | some b, .int x => sat32 (x + (BitVec.ofNat 32 b).toInt)
  | some b, v => ofF (addF v.bits b)
  | none, v => v

def execDwconv (site core : Nat) (s : State) : Host.Outcome State Fault Refusal :=
  .next (s.runOp site core 0x17 (fun s w cont o =>
    let v := winOf o
    let rows := cdiv o.m (max 1 v.wo)
    s.runVec site core w cont o (o.sub == 0 && decide (o.fw ≤ 7) && winOk v 7 4) (vecOps o (span v.h (runBytes o.fa (v.w * o.n)) o.sa) (runBytes o.fw (v.kh * v.kw * o.n)) (if o.bias then 4 * o.n else 0)
        (span rows (runBytes o.fo (v.wo * o.n)) o.so))
      (16 + cdiv (o.m * o.n) 64 * (v.kh * v.kw)) (fun ps => winRows o v (fun pix ch =>
        dwNum (isIntFmt o.fa && isIntFmt o.fw) (if o.bias then some (s.elem 7 (ps.getD 2 (0, 0)) 0 ch) else none) (s.window o v (ps.getD 0 (0, 0)) pix ch)
          ((List.range (v.kh * v.kw)).map (fun i => numOf o.fw (s.elem o.fw (ps.getD 1 (0, 0)) 0 (i * o.n + ch))))))))

/-- TRANSPOSE (07 R149): M rows of N become N rows of M. -/
def execTranspose (site core : Nat) (s : State) : Host.Outcome State Fault Refusal :=
  .next (s.runOp site core 0x18 (fun s w cont o =>
    s.runVec site core w cont o (o.sub == 0) (vecOps o (span o.m (runBytes o.fa o.n) o.sa) 0 0 (span o.n (runBytes o.fo o.m) o.so))
      (16 + 2 * cdiv (o.m * o.n) 64) (fun ps => (List.range o.n).map (fun i => (List.range o.m).map (fun r => numOf o.fa (s.elem o.fa (ps.getD 0 (0, 0)) (r * o.sa) i))))))

/-- GATHER (07 R149): row r of the output is the table row that index r names; an index outside the region breaks it. -/
def execGather (site core : Nat) (s : State) : Host.Outcome State Fault Refusal :=
  .next (s.runOp site core 0x19 (fun s w cont o =>
    match s.place site core cont o.w false with
    | .wait => s.coreWait site core
    | .broken k a l => s.coreBound site core w k a l
    | .at_ sp base _ =>
      let idx := (List.range o.m).map (fun r => (s.elem 7 (sp, base) 0 r))
      let top := idx.foldl max 0
      s.runVec site core w cont o (o.sub == 0) (vecOps o (top * o.sa + runBytes o.fa o.n) (4 * o.m) 0 (span o.m (runBytes o.fo o.n) o.so))
        (16 + o.m * (cdiv o.n 64 + 2)) (fun ps => idx.map (fun i => s.rowOf o.fa (ps.getD 0 (0, 0)) (i * o.sa) o.n))))

/-- COPY (07 R149): M rows of N elements with pad_h rows and pad_w elements of the value in MULT around them. -/
def execCopy (site core : Nat) (s : State) : Host.Outcome State Fault Refusal :=
  .next (s.runOp site core 0x1A (fun s w cont o =>
    let ph := o.geom.getD 6 0
    let pw := o.geom.getD 7 0
    let rows := o.m + 2 * ph
    let cols := o.n + 2 * pw
    let pad := numOf o.fa (o.mult % 2 ^ fmtBits o.fa)
    s.runVec site core w cont o (o.sub == 0) (vecOps o (span o.m (runBytes o.fa o.n) o.sa) 0 0 (span rows (runBytes o.fo cols) o.so))
      (16 + cdiv (rows * cols) 64 * wideFactor [o.fa, o.fo]) (fun ps =>
        (List.range rows).map (fun r =>
          if r < ph ∨ ph + o.m ≤ r then List.replicate cols pad
          else List.replicate pw pad ++ s.rowOf o.fa (ps.getD 0 (0, 0)) ((r - ph) * o.sa) o.n ++ List.replicate pw pad))))

end Sys2Proof.Machine
end

