-- ==== Sys2Proof/Machine/Slates.lean ====
section
/-!
DEFINITION. Machine/Slates.lean: the container checks of slate admission in the order of 09 R184 (07 R140, R149; 08 R158 to R174; 10
R205, R207, R209; 12 R247 to R260; 14 R291; 20 R413, R414).
-/
namespace Sys2Proof.Machine

/-- Every record of the sections of a type: directory entry, record, UNIT, bytes. -/
def secRecs (c : List Byte) (ty size : Nat) : List (Nat × Nat × Nat × List Byte) :=
  let l := cSecs c
  (List.range l.length).flatMap (fun i =>
    let x := l.getD i {}
    if x.ty = ty then (List.range (x.len / size)).map (fun j => (i, j, x.unit, (c.drop (x.off + size * j)).take size)) else [])

/-- The first record a test refuses, as FAIL_INDEX. -/
def firstBad (l : List (Nat × Nat × Nat × List Byte)) (bad : Nat → List Byte → Bool) : Option Nat :=
  (l.find? (fun r => bad r.2.2.1 r.2.2.2)).map (fun r => r.1 * 65536 + r.2.1)

/-- The first of several checks that refuses. -/
def firstOf : List (Option Nat) → Option Nat
  | [] => none
  | some x :: _ => some x
  | none :: rest => firstOf rest

def failIf (c : Bool) : Option Nat := if c then some 0 else none

def isStage (c : List Byte) : Bool := leAt c 6 1 == 2

/-- Reserved fields of the combine trees of a plan that are not 0 (08 Combine-tree record): FLAGS, QPARAM and the nodes' last word. -/
def treeResv (c p : List Byte) : Bool :=
  let sp := planSplit p
  decide (1 < sp.2.2) && (List.range (min (sp.1 * sp.2.1) (c.length / 16))).any (fun i =>
    let hd := treeHead c (planTree p) (64 * i)
    leAt c (hd + 2) 2 / 256 != 0 || leAt c (hd + 2) 2 / 4 % 32 != 0 || leAt c (hd + 6) 2 != 0 || (List.range (leAt c hd 1)).any (fun j => leAt c (hd + 16 + 8 * j + 4) 4 != 0))

/-- 0x0100 CONTAINER: the container's frame, and reserved bytes of its records. -/
def chkContainer (c : List Byte) (len : Nat) : Option Nat :=
  let n := leAt c 0x10 2
  let l := cSecs c
  firstOf
    [failIf (leAt c 0 4 != 0x4C534D41 || leAt c 4 2 != 1 || leAt c 8 4 != len || c.length != len || len % 64 != 0 || decide (len < 0x80 + 16 * n)
        || crc32 (c.drop 0x10) != leAt c 0xC 4 || leAt c 7 1 / 4 != 0 || leAt c 0x17 1 != 0 || leAt c 0x5C 36 != 0),
     ((List.range l.length).find? (fun i => leAt c (0x8C + 16 * i) 4 != 0 || decide (len < (l.getD i {}).off + (l.getD i {}).len))).map (fun i => i * 65536),
     firstBad (secRecs c 9 16) (fun _ b => leAt b 3 1 != 0 || leAt b 12 4 != 0),
     firstBad (secRecs c 1 64) (fun _ b => (decodeOp b).resv),
     firstBad (secRecs c 10 8) (fun _ b => leAt b 5 3 != 0 || decide (8 ≤ leAt b 4 1)),
     firstBad (secRecs c 2 64) (fun _ b => decide (8 ≤ leAt b 2 1) || decide (8 ≤ leAt b 3 1) || leAt b 0x23 1 != 0 || leAt b 0x34 12 != 0 || treeResv c b),
     firstBad (secRecs c 4 64) (fun _ b => leAt b 0 1 != 3 && (decide (32 ≤ leAt b 1 1) || decide (8 ≤ leAt b 0x2C 1) || leAt b 0x2E 2 != 0 || leAt b 0x38 8 != 0))]

/-- A section of sealed weights: its plaintext, or `none` with the chunk that fails (20 R413, R414). -/
def unsealChunks (key : Nat) (b head : List Byte) (log prefix_ : Nat) : Nat → Nat → Nat → Except Nat (List Byte)
  | 0, _, _ => .ok []
  | f + 1, i, left =>
    if left = 0 then .ok []
    else
      let n := min left (2 ^ log)
      match Config.gcmOpen key (leBytes 4 prefix_ ++ leBytes 8 i) head (b.take (n + 16)) with
      | none => .error i
      | some p => match unsealChunks key (b.drop (n + 16)) head log prefix_ f (i + 1) (left - n) with
        | .ok r => .ok (p ++ r)
        | .error e => .error e

/-- The container with its CRC and its sealed sections zeroed, which BIND_DIGEST covers (20 R413). -/
def bindImage (c : List Byte) : List Byte :=
  let z (bs : List Byte) (a n : Nat) : List Byte := bs.take a ++ List.replicate (min n (bs.length - a)) 0#8 ++ bs.drop (a + n)
  (cSecs c).foldl (fun bs x => if x.ty = 7 then z bs x.off x.len else bs) (z c 0xC 4)

def unsealSection (x : Tenant) (c b : List Byte) : Except Nat (List Byte) :=
  let plain := leAt b 0x10 8
  let log := leAt b 0x18 1
  let chunks := (plain + 2 ^ log - 1) / 2 ^ log
  if leAt b 0 4 ≠ 0x53454B44 ∨ leAt b 4 2 ≠ 1 ∨ leAt b 6 2 ≠ 0 ∨ leAt b 8 4 ≠ x.sessionId ∨ log < 12 ∨ 20 < log ∨ plain % 64 ≠ 0 ∨ leAt b 0x19 7 ≠ 0 ∨ leAt b 0x50 16 ≠ 0
    ∨ 65535 < chunks ∨ b.length ≠ 96 + plain + 16 * chunks ∨ leAt b 0x20 48 ≠ Config.sha384 (bindImage c) then .error 0
  else match x.wrapKey with
    | none => .error 0
    | some k => unsealChunks k (b.drop 96) (b.take 96) log (leAt b 0xC 4) chunks 0 plain

/-- The weights a slate stores, in directory order, or the first section and chunk that fail (20 R410, R413). -/
def State.slateWeights (s : State) (t : Nat) (c : List Byte) : Except Nat (List Byte) :=
  let l := cSecs c
  (List.range l.length).foldl (fun acc i =>
    match acc with
    | .error e => .error e
    | .ok w =>
      let x := l.getD i {}
      let b := (c.drop x.off).take x.len
      if x.ty = 6 then .ok (w ++ b)
      else if x.ty = 7 then
        match unsealSection (s.tenant t) c b with
        | .ok p => .ok (w ++ p)
        | .error k => .error (i * 65536 + k % 65536)
      else .ok w) (.ok [])

/-- 0x0101 SEAL; sealed weights in a container that is not SEALED do not unseal (log 50). -/
def State.chkSeal (s : State) (t : Nat) (c : List Byte) : Option Nat :=
  let fl := leAt c 7 1
  if (fl / 2 % 2 = 1 ∧ s.conf t = false) ∨ (fl % 2 = 1 ∧ (s.tenant t).session ≠ 2) ∨ (fl % 2 = 0 ∧ (cSecs c).any (fun x => x.ty == 7) = true) then some 0
  else match s.slateWeights t c with
    | .ok _ => none
    | .error k => some k

/-- A ring declaration's fields (10 Slot rings): ring, in the bin, base, slot bytes, slots, producer, consumer. -/
structure RingDecl where
  core : Nat := 0
  ring : Nat := 0
  bin : Bool := false
  base : Nat := 0
  slotBytes : Nat := 0
  slots : Nat := 0
  prod : Nat := 0
  cons : Nat := 0
  deriving DecidableEq, Repr

def ringOfRec (core : Nat) (b : List Byte) : RingDecl :=
  { core := core, ring := leAt b 2 1, bin := leAt b 3 1 == 1, base := leAt b 4 8, slotBytes := leAt b 0xC 4, slots := leAt b 0x10 1, prod := leAt b 0x11 1, cons := leAt b 0x12 1 }

def ringDecls (c : List Byte) : List RingDecl := (secRecs c 4 64).flatMap (fun r => if leAt r.2.2.2 0 1 = 3 then [ringOfRec r.2.2.1 r.2.2.2] else [])



def isRing (a : Nat) : Bool := a / 2 ^ 31 % 2 == 1
def usesA (o : Op) : Bool := (decide (1 ≤ o.code) && decide (o.code ≤ 3)) || (decide (0x10 ≤ o.code) && decide (o.code ≤ 0x1A))
def usesW (o : Op) : Bool := (decide (1 ≤ o.code) && decide (o.code ≤ 3)) || o.code == 0x10 || o.code == 0x17 || o.code == 0x19
def usesOut (o : Op) : Bool := usesA o || o.code == 0x24
def usesParam (o : Op) : Bool :=
  o.code == 0x13 || o.code == 0x20 || ((o.bias || o.perCh) && ((decide (1 ≤ o.code) && decide (o.code ≤ 3)) || o.code == 0x12 || o.code == 0x17))

/-- The ops of a core's list. -/
def opsOf (c : List Byte) (loc : Nat) : List Op := (List.range (opCount c loc)).map (opAt c loc)

/-- The core addresses an op reads, and all it names. -/
def opReads (o : Op) : List Nat := (if usesA o then [o.a] else []) ++ (if usesW o then [o.w] else []) ++ (if usesParam o then [o.param] else [])
def opAddrs (o : Op) : List Nat := opReads o ++ (if usesOut o then [o.out] else [])

/-- The DMA queues of a core that issue descriptor i. -/
def issuers (ops : List Op) (i : Nat) : List Nat := ((ops.filter (fun o => o.code == 0x25 && o.m == i)).map (fun o => o.sub % 4)).eraseDups

/-- Units that fill (dst) or empty a ring of a core: 1 the ops, 10 + q DMA queue q, 100 + j the engine of the group's job j (10 R207). -/
def ringUsers (c : List Byte) (core r : Nat) (dst : Bool) : List Nat :=
  let ops := opsOf c core
  let byOp := ops.any (fun o => if dst then usesOut o && isRing o.out && o.out % 8 == r else (opReads o).any (fun a => isRing a && a % 8 == r))
  let byDma := (List.range (descCount c core)).flatMap (fun i =>
    let d := decodeDesc (descAt c core i)
    if d.kind ≤ 2 ∧ (if dst then d.dstSp = 4 ∧ d.dstRing = r else d.srcSp = 4 ∧ d.srcRing = r) then (issuers ops i).map (fun q => 10 + q) else [])
  let js := (secRecs c 11 64).map (fun r => r.2.2)
  let byEng := (List.range js.length).filter (fun i =>
    let j := (js.getD i (0, [])).2
    core % 64 == 0 && (js.getD i (0, [])).1 == core / 64 && (if dst then leAt j 0 1 != 1 && isRing (leAt j 0xC 4) && leAt j 0xC 4 % 8 == r
      else leAt j 0 1 != 2 && leAt j 3 1 / 4 % 2 == 1 && leAt j 4 4 % 8 == r))
  ((if byOp then [1] else []) ++ byDma ++ byEng.map (fun i => 100 + i)).eraseDups

/-- R207 for one ring: one producer and one consumer, of the kinds declared. -/
def ringBad (c : List Byte) (x : RingDecl) : Bool :=
  let ps := ringUsers c x.core x.ring true
  let cs := ringUsers c x.core x.ring false
  let fits (k : Nat) (u : Nat) : Bool := (k == 0 && decide (10 ≤ u) && decide (u < 100)) || (k == 1 && u == 1) || (k == 3 && decide (100 ≤ u)) || (k == 4 && u == 1)
  decide (1 < ps.length) || decide (1 < cs.length) || ps.any (fun u => !fits x.prod u) || cs.any (fun u => !fits x.cons u)
    || decide (x.slots < 3) || decide (16 < x.slots) || decide (8 ≤ x.ring) || decide (4 < x.prod) || decide (4 < x.cons) || x.slotBytes == 0 || x.slotBytes % 256 != 0
    || decide (1 < ((ringDecls c).filter (fun y => y.core == x.core && y.ring == x.ring)).length)

/-- Units that push (or pop) a cue of a group: core loc as loc × 8, its DMA queue q as loc × 8 + 1 + q, the engine of job j as 2^20 + j (10 R209). -/
def cueUsers (c : List Byte) (ref : Nat) (push : Bool) : List Nat :=
  let same (r : Nat) : Bool := r % 64 == ref % 64 && r / 2 ^ 16 % 2 ^ 12 == ref / 2 ^ 16 % 2 ^ 12
  let cores := (List.range (cCores c)).flatMap (fun l =>
    let ops := opsOf c l
    let own := if ops.any (fun o => o.code == (if push then 0x23 else 0x24) && same o.m) then [l * 8] else []
    own ++ (if push then (List.range (descCount c l)).flatMap (fun i =>
      let d := decodeDesc (descAt c l i)
      if d.kind ≤ 2 ∧ d.onDone = 2 ∧ same d.doneRef = true then (issuers ops i).map (fun q => l * 8 + 1 + q) else []) else []))
  let js := (secRecs c 11 64).map (fun r => r.2.2.2)
  (cores ++ (if push then [] else ((List.range js.length).filter (fun i => leAt (js.getD i []) 0 1 == 2 && same (leAt (js.getD i []) 0x18 4))).map (fun i => 2 ^ 20 + i))).eraseDups

/-- Every cue a slate's ops, descriptors and jobs name. -/
def cueRefs (c : List Byte) : List Nat :=
  let ofCore (l : Nat) : List Nat :=
    ((opsOf c l).filter (fun o => o.code == 0x23 || o.code == 0x24)).map (fun o => o.m % 2 ^ 28)
      ++ (((List.range (descCount c l)).map (fun i => decodeDesc (descAt c l i))).filter (fun (d : Desc) => decide (d.kind ≤ 2) && d.onDone == 2)).map (fun (d : Desc) => d.doneRef % 2 ^ 28)
  let ofJobs : List Nat := ((secRecs c 11 64).filter (fun (j : Nat × Nat × Nat × List Byte) => leAt j.2.2.2 0 1 == 2)).map (fun (j : Nat × Nat × Nat × List Byte) => leAt j.2.2.2 0x18 4 % 2 ^ 28)
  ((List.range (cCores c)).flatMap ofCore ++ ofJobs).eraseDups

/-- Whether two cores set one flag with SUB 0 in one layer (10 R209). -/
def flagClash (c : List Byte) : Bool :=
  let sets := (List.range (cCores c)).flatMap (fun l => (layered c l).flatMap (fun x => if x.2.2.code = 0x22 ∧ x.2.2.sub = 0 then [(l, x.2.1, x.2.2.m % 2 ^ 28)] else []))
  sets.any (fun a => sets.any (fun b => a.1 != b.1 && a.2 == b.2))

/-- R205 for one descriptor, and values its fields do not define. -/
def descBad (c : List Byte) (core : Nat) (b : List Byte) : Bool :=
  let d := decodeDesc b
  if d.kind = 3 then ringBad c (ringOfRec core b)
  else
    d.kind == 0 || decide (3 < d.kind) || d.onDone == 3 || decide (5 < d.srcSp) || (d.kind == 1 && decide (5 < d.dstSp)) || (d.kind == 2 && d.dstSp != 6)
      || (d.ahead && (d.dstSp == 2 || d.dstSp == 3 || d.dstSp == 5)) || (d.stream && d.dstSp != 4)
      || (d.kind == 2 && (d.srcSp != 2 || (List.range 64).any (fun j => d.mask / 2 ^ j % 2 == 1 && decide (cGroupCores c (core / 64) ≤ j))))

/-- Width of a pyramid level, bytes of a vision pixel, ⌈a ÷ b⌉. -/
def lvlWidth (w l : Nat) : Nat := (w + 2 ^ l - 1) / 2 ^ l
def vPix (fmt : Nat) : Nat := if fmt = 0 then 1 else 2

/-- Fields of a job record (12 R248). -/
structure Job where
  engine : Nat := 0
  func : Nat := 0
  fin : Nat := 0
  fout : Nat := 0
  border : Nat := 0
  inRing : Bool := false
  inp : Nat := 0
  inStride : Nat := 0
  out : Nat := 0
  outStride : Nat := 0
  width : Nat := 0
  rows : Nat := 0
  trigIn : Nat := 0
  trigOut : Nat := 0
  lead : Nat := 0
  done : Nat := 0
  cyc : Nat := 0
  bytes : Nat := 0
  par : List Byte := []
  deriving DecidableEq, Repr

def decodeJob (b : List Byte) : Job :=
  { engine := leAt b 0 1, func := leAt b 1 1, fin := leAt b 2 1 % 16, fout := leAt b 2 1 / 16, border := leAt b 3 1 % 4, inRing := leAt b 3 1 / 4 % 2 == 1,
    inp := leAt b 4 4, inStride := leAt b 8 4, out := leAt b 0xC 4, outStride := leAt b 0x10 4, width := leAt b 0x14 2, rows := leAt b 0x16 2,
    trigIn := leAt b 0x18 4, trigOut := leAt b 0x1C 4, lead := leAt b 0x20 2, done := leAt b 0x24 4, cyc := leAt b 0x28 4, bytes := leAt b 0x2C 4, par := b.drop 0x30 }

def Job.p (j : Job) (i n : Nat) : Nat := leAt j.par i n
/-- Filter: KH, KW. Pyramid: LEVELS. Match: LVL_C, LVL_F, B, RC_X, RC_Y, RF, CR, T_LO, T_HI, PEAK_MIN, FRAME_LINES_MIN, FRAME_LINES_MAX. -/
def Job.kh (j : Job) : Nat := j.p 0 1
def Job.kw (j : Job) : Nat := j.p 1 1
def Job.lvlC (j : Job) : Nat := j.p 0 1
def Job.lvlF (j : Job) : Nat := j.p 1 1
def Job.bsz (j : Job) : Nat := j.p 2 1
def Job.rcx (j : Job) : Nat := j.p 3 1
def Job.rcy (j : Job) : Nat := j.p 4 1
def Job.rf (j : Job) : Nat := j.p 5 1
def Job.cr (j : Job) : Nat := j.p 6 1
def Job.linesMin (j : Job) : Nat := j.p 12 2
def Job.linesMax (j : Job) : Nat := j.p 14 2
/-- LVL_OFF of a pyramid job (PARAM) or of a match job (IN). -/
def Job.lvlOff (j : Job) : Nat := if j.engine = 1 then j.p 4 4 else j.inp

/-- The slate's PARAM section (12 R248). -/
def paramSec (c : List Byte) : List Byte :=
  match (cSecs c).find? (fun x => x.ty == 5) with
  | some x => (c.drop x.off).take x.len
  | none => []

/-- A level table entry (12 R248): BASE, STRIDE, ROWS, SPACE. -/
structure Lvl where
  base : Nat := 0
  stride : Nat := 0
  rows : Nat := 0
  space : Nat := 0
  deriving DecidableEq, Repr

def Job.lvl (j : Job) (c : List Byte) (l : Nat) : Lvl :=
  let a := j.lvlOff + 16 * l
  let b := paramSec c
  { base := leAt b a 8, stride := leAt b (a + 8) 4, rows := leAt b (a + 12) 2, space := leAt b (a + 14) 1 }

/-- A job's tables lie in the PARAM section and hold what R248 lays out: a level table of `n` entries, each with a space of the two and a
zero byte; coefficients of a filter's taps. -/
def levelsBad (c : List Byte) (j : Job) (n : Nat) : Bool :=
  decide ((paramSec c).length < j.lvlOff + 16 * n)
    || (List.range n).any (fun l => !((j.lvl c l).space == 1 || (j.lvl c l).space == 2) || leAt (paramSec c) (j.lvlOff + 16 * l + 15) 1 != 0)
def tapsBad (c : List Byte) (j : Job) : Bool :=
  decide (j.func < 2) && decide ((paramSec c).length < j.p 8 4 + 2 * (if j.func = 0 then j.kw + j.kh else j.kw * j.kh))

/-- Line-buffer bytes a job needs (12 R259). -/
def Job.need (j : Job) : Nat :=
  let px := vPix j.fin
  if j.engine = 0 then (j.kh + 1) * j.width * px
  else if j.engine = 1 then 6 * px * ((List.range (j.p 0 1)).foldl (fun n l => n + lvlWidth j.width l) 0)
  else
    let top := (j.bsz + 2 * j.rcy + 2 * j.cr) * lvlWidth j.width j.lvlC
    2 * px * ((List.range (j.lvlC - j.lvlF)).foldl (fun n i => max n ((j.bsz + 2 * j.rf + 2 * j.cr) * lvlWidth j.width (j.lvlF + i))) top)

/-- Blocks of a level of a frame of n lines from line `first`. -/
def blocksAt (w l b first last : Nat) : Nat × Nat := (cdiv (lvlWidth w l) b, cdiv (last / 2 ^ l - first / 2 ^ l + 1) b)

/-- Cycles of a unit (12 R260); `nb l` is the block count of level l. -/
def Job.cycles (j : Job) (nb : Nat → Nat) : Nat :=
  if j.engine = 0 then 32 + j.rows * cdiv j.width 8 * (if j.func = 2 ∧ j.kh = 5 then 3 else 1)
  else if j.engine = 1 then 32 + (List.range (j.p 0 1)).foldl (fun n l => n + j.rows / 2 ^ l * cdiv (lvlWidth j.width l) 8) 0
  else 64 + (List.range (j.lvlC + 1 - j.lvlF)).foldl (fun n i =>
    let l := j.lvlF + i
    let x := if l = j.lvlC then j.rcx else j.rf
    let y := if l = j.lvlC then j.rcy else j.rf
    n + nb l * (cdiv (j.bsz * j.bsz * (2 * x + 1) * (2 * y + 1)) 256 + (if l = j.lvlF then cdiv (j.bsz * j.bsz * (2 * j.cr + 1) * (2 * j.cr + 1)) 256 else 0) + 24)) 0

def Job.worst (j : Job) : Nat := j.cycles (fun l => let b := (cdiv (lvlWidth j.width l) j.bsz, cdiv (cdiv j.linesMax (2 ^ l)) j.bsz); b.1 * b.2)

/-- The rules of 12 R247 to R259 for one job. -/
def jobBad (c : List Byte) (unit : Nat) (b : List Byte) : Bool :=
  let j := decodeJob b
  let h := (stageDecl c).1
  let same := (secRecs c 11 64).filter (fun r => r.2.2.1 == unit && leAt r.2.2.2 0 1 == j.engine)
  let odd (lo hi x : Nat) : Bool := decide (lo ≤ x) && decide (x ≤ hi) && x % 2 == 1
  decide (8 ≤ leAt b 3 1) || leAt b 0x22 2 != 0 || decide (cGroups c ≤ unit) || decide (2 < j.engine) || decide (2 < j.fin) || decide (2 < j.fout) || decide (2 < j.border) || j.width == 0 || decide (16384 < j.width)
    || j.rows != (if j.engine = 2 then 0 else h) || (j.engine != 0 && (j.func != 0 || j.outStride != 0)) || (j.engine == 1 && j.out != 0) || decide (2 < same.length) || decide (524288 < j.need)
    || (if j.engine = 0 then
          decide (7 < j.func) || j.p 6 2 != 0 || j.p 12 4 != 0 || tapsBad c j
            || !(if j.func = 0 then odd 1 15 j.kh && odd 1 15 j.kw else if j.func = 1 then odd 1 5 j.kh && odd 1 5 j.kw
              else if j.func ≤ 4 then (j.kh == 3 || j.kh == 5) && j.kw == j.kh else j.kh == 3 && j.kw == 3)
        else if j.engine = 1 then
          j.p 0 1 == 0 || decide (6 < j.p 0 1) || j.p 1 3 != 0 || j.p 8 8 != 0 || h % 2 ^ (j.p 0 1) != 0 || levelsBad c j (j.p 0 1 + 1)
        else
          decide (j.lvlC < j.lvlF) || !(j.bsz == 8 || j.bsz == 16 || j.bsz == 32) || j.rcx == 0 || decide (16 < j.rcx) || j.rcy == 0 || decide (16 < j.rcy) || j.rf == 0 || decide (4 < j.rf)
            || j.cr == 0 || decide (4 < j.cr) || decide (j.p 8 1 ≤ j.p 7 1) || j.p 9 1 != 0 || j.linesMin == 0 || decide (j.linesMax < j.linesMin) || !isRing j.out || j.inRing
            || !((secRecs c 11 64).any (fun r => let y := decodeJob r.2.2.2; y.engine == 1 && y.lvlOff == j.lvlOff && decide (j.lvlC ≤ y.p 0 1))))

/-- 0x0102 DECL. `lineBytes` is the stream's at load. -/
def chkDecl (c : List Byte) (stream place lineBytes : Nat) : Option Nat :=
  let st := isStage c
  let secs := cSecs c
  let cyc := cycTable c
  let sd := stageDecl c
  let rises (l : List Nat) (strict : Bool) : Bool := (List.range (l.length - 1)).all (fun i => if strict then decide (l.getD i 0 < l.getD (i + 1) 0) else decide (l.getD i 0 ≤ l.getD (i + 1) 0))
  let entry := (ringDecls c).find? (fun r => r.prod == 2)
  firstOf
    [failIf (leAt c 6 1 == 0 || decide (2 < leAt c 6 1) || leAt c 0x10 2 == 0 || decide (8192 < leAt c 0x10 2) || cCores c == 0 || decide (4096 < cCores c)
        || leAt c 0x14 2 == 0 || decide (4095 < leAt c 0x14 2) || decide (3 < leAt c 0x16 1) || cArgs c % 64 != 0 || decide (65536 < cArgs c)
        || cCs c % 512 != 0 || decide (1048576 < cCs c) || cBin c % 4096 != 0 || decide (2 ^ 26 < cBin c) || decide (64 < cCues c) || decide (8 < cRings c) || decide (1024 < cFlags c)
        || (List.range 4).any (fun q => cDmaOut c q == 0 || decide (64 < cDmaOut c q)) || (List.range 4).any (fun i => decide (cDynMax c i < cDynMin c i))
        || (!st && (stream != 0xFF || place != 0))),
     ((List.range secs.length).find? (fun i =>
        let x := secs.getD i {}
        x.ty == 0 || decide (11 < x.ty) || (st && x.ty == 8) || (!st && (x.ty == 9 || x.ty == 11)) || ((x.ty == 1 || x.ty == 4) && decide (cCores c ≤ x.unit)))).map (fun i => i * 65536),
     failIf (!st && (cyc.isEmpty || decide (16 < cyc.length) || !rises (cyc.map (fun e => e.1)) true || !rises (cyc.map (fun e => e.2)) false
        || (cyc.getLast?.map (fun e => e.1)) != some (cDynMax c (leAt c 0x16 1)))),
     failIf (st && (!secs.any (fun x => x.ty == 9) || decide (sd.1 < 8) || decide (256 < sd.1) || sd.1 % 8 != 0 || decide (32 < sd.2.1) || decide (sd.1 < 2 * sd.2.1)
        || (match entry with | some r => decide (r.slotBytes < sd.1 * (lineBytes + 32)) | none => false))),
     firstBad (secRecs c 4 64) (descBad c),
     firstBad (secRecs c 1 64) (fun _ b => let o := decodeOp b; usesOut o && isRing o.out && (opReads o).any (fun a => isRing a && a % 8 == o.out % 8)),
     failIf ((cueRefs c).any (fun r => decide (1 < (cueUsers c r true).length) || decide (1 < (cueUsers c r false).length)) || flagClash c),
     firstBad (secRecs c 11 64) (jobBad c)]

/-- 0x0103 OPCODE: the forms of 07 R149 and the pairings of R140. -/
def opForm (o : Op) : Bool :=
  decide (o.fo ≤ 7) &&
    (if isArray o then arrayOk { o with loop := 0, mt := 1, sub := if o.code = 3 then o.sub else 0 }
     else decide (o.fa ≤ 7) &&
      (match o.code with
       | 0x10 => decide (o.sub ≤ 4) && decide (o.fw ≤ 7) && decide (o.k ≤ 2)
       | 0x11 => decide (o.sub ≤ 7)
       | 0x13 => decide (o.sub ≤ 1)
       | 0x15 => decide (o.sub ≤ 2)
       | 0x16 => decide (o.sub ≤ 1) && winOk (winOf o) 8 8
       | 0x17 => o.sub == 0 && decide (o.fw ≤ 7) && winOk (winOf o) 7 4
       | 0x21 => decide (o.sub ≤ 1)
       | 0x22 => decide (o.sub ≤ 1)
       | 0x25 => decide (o.sub ≤ 3)
       | 0x12 => o.sub == 0 | 0x14 => o.sub == 0 | 0x18 => o.sub == 0 | 0x19 => o.sub == 0 | 0x1A => o.sub == 0 | 0x20 => o.sub == 0 | 0x23 => o.sub == 0 | 0x24 => o.sub == 0 | 0x2F => o.sub == 0
       | _ => false))

def chkOpcode (c : List Byte) : Option Nat := firstBad (secRecs c 1 64) (fun _ b => !opForm (decodeOp b))

/-- 0x0104 LOOP_CODE (07 R141; 08 R158, R174). -/
def chkLoop (c : List Byte) : Option Nat :=
  firstOf [firstBad (secRecs c 2 64) (fun _ b => decide (5 < leAt b 2 1 % 8) || decide (5 < leAt b 3 1 % 8)),
    firstBad (secRecs c 1 64) (fun _ b => let o := decodeOp b; isArray o && !(o.loop == 0 || o.loop == 2))]

/-- The array ops of a plan's layer on each of its cores. -/
def planOps (c b : List Byte) : List (Nat × List Op) := (planCores c b).map (fun l => (l, (layerOps c l (leAt b 0 2)).map (fun x => x.2)))
/-- Tiles of a dimension at T1 within a T2 tile, which for a bin-resident T2 is the share (08 R158, R159). -/
def planTiles (b : List Byte) (d : Nat) : Nat := cdiv (planDim b d) (planDim b (d + 3))
/-- The sum of a dimension over ops. -/
def dimSum (os : List Op) (d : Nat) : Nat := os.foldl (fun n o => n + o.dim d) 0

/-- Whether a core's share under a bin-resident T2 is M2 × N2 × K2, which its ops walk in T1 tiles; the last core along a split
dimension may have less (08 R159). -/
def shareOk (c b : List Byte) (loc : Nat) (os : List Op) : Bool :=
  let sp := planSplit b
  let last (d : Nat) : Bool := let n := if d = 0 then sp.1 else if d = 1 then sp.2.1 else sp.2.2; decide (1 < n) && splitIndex c b loc d + 1 == n
  let n := planTiles b 0 * planTiles b 1 * planTiles b 2
  if [0, 1, 2].any last then decide (os.length ≤ n) && [0, 1, 2].all (fun d => os.all (fun o => decide (o.dim d ≤ planDim b d)))
  else os.length == n && [0, 1, 2].all (fun d => dimSum os d * planTiles b d == planDim b d * n)

/-- 0x0105 TILE_SHAPE (08 R159; log 51). -/
def chkShape (c : List Byte) : Option Nat :=
  firstOf [firstBad (secRecs c 2 64) (fun _ b =>
      let d := planDim b
      (List.range 6).any (fun i => d i == 0) || d 4 % 64 != 0
        || (planOps c b).any (fun x => x.2.any (fun o => match pairing o.fa o.fw with | some (k0, _, _, _) => d 3 % max 1 o.mt != 0 || d 5 % k0 != 0 | none => false))
        || (if leAt b 0x22 1 = 0 then (List.range 3).any (fun i => d i % max 1 (d (i + 3)) != 0) else (planOps c b).any (fun x => !shareOk c b x.1 x.2))),
    firstBad (secRecs c 1 64) (fun _ b => let o := decodeOp b; isArray o && (o.mt == 0 || decide (256 < o.mt)))]

/-- Bytes of a tile of m × n × k for an op: input with its halo, weights, output (08 R163). -/
def tileBytes (o : Op) (m n k : Nat) : Nat :=
  let a := if o.code = 3 then
      let v := convOf o
      let rows := (cdiv m (max 1 v.wo) - 1) * v.sh + (v.kh - 1) * v.dh + 1
      let cols := (min v.wo (max 1 m) - 1) * v.sw + (v.kw - 1) * v.dw + 1
      runBytes o.fa (rows * cols * v.cg * v.groups)
    else m * runBytes o.fa k
  a + runBytes o.fw (k * n) + runBytes o.fo (m * n)

/-- The output moves in partial passes (08 R161): K is not the effective inner loop and has more than one tile. -/
def partialPasses (code nm nn nk : Nat) : Bool :=
  let live := (loopOrder code).filter (fun x => decide (1 < (if x = 0 then nm else if x = 1 then nn else nk)))
  decide (1 < nk) && live.getLast? != some 2

/-- Footprints of a plan on one of its cores (08 R163): T1 in the core store with each PARAM once, and T2 in the bin. A T2 walk of
more than one tile carries partials where K is not its inner loop and the layer adds 32-bit partials (08 R162; log 51). -/
def footprints (c b : List Byte) (loc : Nat) (os : List Op) : Nat × Nat :=
  let d := planDim b
  let grid := planTiles b 0 * planTiles b 1 * planTiles b 2
  let one := decide (os.length ≤ grid)
  let cap (i : Nat) : Nat := if one then min (d i) (max 1 (dimSum os i / max 1 (os.length / max 1 (planTiles b i)))) else d i
  let t1 := os.foldl (fun n o => max n (tileBytes o (min (d 3) (max 1 o.m)) (min (d 4) (max 1 o.n)) (min (d 5) (max 1 o.k)))) 0
  let t2 := os.foldl (fun n o => max n (tileBytes o (cap 0) (cap 1) (cap 2))) 0
  let par := ((os.map (fun o => (o.param, paramLen o o.n))).eraseDups).foldl (fun n x => n + x.2) 0
  let adds := (layered c loc).any (fun x => x.2.1 == leAt b 0 2 && x.2.2.code == 0x10 && x.2.2.sub == 0 && (x.2.2.fo == 6 || x.2.2.fo == 7))
  let p1 := if partialPasses (leAt b 3 1 % 8) (planTiles b 0) (planTiles b 1) (planTiles b 2) then d 3 * d 4 * 4 else 0
  let p2 := if !one && adds && (loopOrder (leAt b 2 1 % 8)).getLast? != some 2 then d 0 * d 1 * 4 else 0
  (2 * t1 + p1 + par, 2 * t2 + p2)

/-- 0x0106 TILE_FOOTPRINT (08 R163). -/
def chkFoot (c : List Byte) : Option Nat :=
  firstBad (secRecs c 2 64) (fun _ b =>
    (planOps c b).any (fun x => let f := footprints c b x.1 x.2; decide (leAt b 0x2C 4 < f.1) || decide (leAt b 0x28 4 < f.2))
      || decide (cCs c < leAt b 0x2C 4) || decide (cBin c < leAt b 0x28 4))

/-- 0x0107 SPLIT (08 R164). -/
def chkSplit (c : List Byte) : Option Nat :=
  firstBad (secRecs c 2 64) (fun _ b =>
    let sp := planSplit b
    let n := sp.1 * sp.2.1 * sp.2.2
    sp.1 == 0 || decide (4096 < sp.1) || sp.2.1 == 0 || decide (4096 < sp.2.1) || sp.2.2 == 0 || decide (64 < sp.2.2) || decide (cCores c < n) || decide (c.length < leAt b 0x30 4 + 2 * n)
      || (planCores c b).any (fun l => decide (cCores c ≤ l)) || (planCores c b).eraseDups.length != n)

/-- 0x0108 TREE (08 R165, R166) for the tree of one M × N block. -/
def treeBad (c : List Byte) (off blk sk layer : Nat) (leaves : List Nat) : Bool :=
  let n := sk - 1
  let hd := treeHead c off (64 * blk)
  let refs := (List.range n).flatMap (fun i => let o := nodeOps c off (64 * blk + i); [(i, o.1), (i, o.2)])
  let nodes := (refs.filter (fun r => r.2.1)).map (fun r => r.2.2 % 64)
  let ls := (refs.filter (fun r => !r.2.1)).map (fun r => r.2.2)
  leAt c hd 1 != n || decide (c.length < hd + 16 + 8 * n) || refs.any (fun r => r.2.1 && decide (r.1 ≤ r.2.2 % 64)) || nodes.eraseDups.length != nodes.length || nodes.length + 1 != n
    || ls.length != sk || ls.eraseDups.length != sk || ls.any (fun l => !leaves.contains l)
    || ls.any (fun l => (layerOps c l layer).isEmpty || (layerOps c l layer).any (fun x => x.2.bias || x.2.fo != (if isIntFmt x.2.fa then 7 else 6)))

def chkTree (c : List Byte) : Option Nat :=
  firstBad (secRecs c 2 64) (fun _ b =>
    let sp := planSplit b
    if sp.2.2 = 1 then leAt b 0x24 4 != 0
    else leAt b 0x24 4 == 0 || (List.range (sp.1 * sp.2.1)).any (fun i => treeBad c (planTree b) i sp.2.2 (leAt b 0 2) (((planCores c b).drop (i * sp.2.2)).take sp.2.2)))

/-- 0x0109 FOLD (08 R169, R170): M a multiple of G; an M split that cuts a head-folded problem shows in problems of unequal rows on
the plan's cores (log 51). -/
def chkFold (c : List Byte) : Option Nat :=
  firstOf [firstBad (secRecs c 1 64) (fun _ b => let o := decodeOp b; (o.code == 1 || o.code == 2) && o.m % max 1 (o.sub % 128) != 0),
    firstBad (secRecs c 2 64) (fun _ b =>
      let mps := (planOps c b).flatMap (fun x => (x.2.filter (fun o => (o.code == 1 || o.code == 2) && decide (128 ≤ o.sub))).map (fun o => o.m / max 1 (o.sub % 128)))
      decide (1 < (planSplit b).1) && decide (1 < mps.eraseDups.length))]

/-- Whether a reference lies outside the slate's groups or its declared count (10 R209). -/
def refBad (c : List Byte) (limit r : Nat) : Bool := decide (cGroups c ≤ r / 2 ^ 16 % 2 ^ 12) || decide (limit ≤ r % 2 ^ 10)

/-- Whether a core address of an op lies outside the declared regions (09 R191; 10 R208). -/
def addrBad (c : List Byte) (a : Nat) : Bool := if isRing a then decide (cRings c ≤ a % 8) || a / 8 % 32 != 0 else decide (cCs c ≤ a)

def opBound (c : List Byte) (core : Nat) (o : Op) : Bool :=
  (if o.code = 0x20 then decide (cCs c < o.param + 8)
   else if o.code = 0x21 ∨ o.code = 0x22 then refBad c (cFlags c) o.m
   else if o.code = 0x23 then refBad c (cCues c) o.m || decide (cBin c < o.a + 64 * o.n)
   else if o.code = 0x24 then refBad c (cCues c) o.m || addrBad c o.out
   else if o.code = 0x25 then decide (descCount c core ≤ o.m)
   else (opAddrs o).any (addrBad c)) || o.bound == 0

/-- The extent of a descriptor in one of its spaces against the declared regions. -/
def descEnd (c : List Byte) (core : Nat) (weights : Nat) (d : Desc) (rows sp ring base stride : Nat) (src : Bool) : Bool :=
  let n := span rows d.rowBytes stride
  if sp = 0 then decide (cCs c < base + n)
  else if sp = 1 then decide (cBin c < base + n)
  else if sp = 2 then d.kind == 2 && decide (0 < weights) && decide (weights < base + n)
  else if sp = 3 then (bufferDecl c (base % 65536)).isNone
  else if sp = 4 then decide (cRings c ≤ ring) || (match (ringDecls c).find? (fun r => r.core == core && r.ring == ring) with | some r => decide (r.slotBytes < base + n) | none => true)
  else if sp = 5 then !(src && isStage c && base % 4096 == cGroups c) && (decide (cGroups c ≤ base % 4096) || decide (cBin c < base / 2 ^ 32 + n))
  else false

def descBound (c : List Byte) (core weights : Nat) (b : List Byte) : Bool :=
  let d := decodeDesc b
  if d.kind = 3 then
    let r := ringOfRec core b
    decide (cRings c ≤ r.ring) || decide ((if r.bin then cBin c else cCs c) < r.base + r.slots * r.slotBytes)
  else
    let rows := leAt b 0x18 4
    descEnd c core weights d rows d.srcSp d.srcRing d.src d.srcStride true
      || (if d.kind = 2 then decide (cCs c < d.dst + rows * d.rowBytes) else descEnd c core weights d rows d.dstSp d.dstRing d.dst d.dstStride false)
      || (d.onDone == 1 && refBad c (cFlags c) d.doneRef) || (d.onDone == 2 && refBad c (cCues c) d.doneRef)

def jobBound (c : List Byte) (b : List Byte) : Bool :=
  let j := decodeJob b
  let px := vPix j.fin
  decide (j.cyc < j.worst) || (if j.engine = 2 then refBad c (cCues c) j.trigIn else refBad c (cFlags c) j.trigIn) || refBad c (cFlags c) j.done
    || (j.trigOut != 0xFFFFFFFF && refBad c (cFlags c) j.trigOut)
    || (j.engine != 2 && (if j.inRing then decide (cRings c ≤ j.inp % 8) else decide (cBin c < j.inp + span j.rows (j.width * px) j.inStride)))
    || (j.engine != 1 && (if isRing j.out then decide (cRings c ≤ j.out % 8) else decide (cBin c ≤ j.out)))

/-- 0x010A BOUND_DECL. -/
def chkBound (c : List Byte) (weights : Nat) : Option Nat :=
  let limit := if isStage c then (stageDecl c).2.2.1 else ((cycTable c).getLast?.map (fun e => e.2)).getD 0
  let secs := cSecs c
  firstOf [firstBad (secRecs c 1 64) (fun u b => opBound c u (decodeOp b)), firstBad (secRecs c 4 64) (fun u b => descBound c u weights b), firstBad (secRecs c 11 64) (fun _ b => jobBound c b),
    ((List.range secs.length).find? (fun i => let x := secs.getD i {}; x.ty == 1 && decide (limit < (opsOf c x.unit).foldl (fun n o => n + o.bound) 0))).map (fun i => i * 65536)]

/-- 0x010B DEVICE_PAGE: a run-ahead MOVE or RELAY whose stack addresses resolve to device registers at load. The bases of tenant buffers
are not known before a take names its argument block (log 51). -/
def State.chkDevice (s : State) (t : Nat) (c : List Byte) : Option Nat :=
  let dev (ta : Nat) : Bool := s.devPage t ta false
  firstBad (secRecs c 4 64) (fun _ b =>
    let d := decodeDesc b
    (d.kind == 1 || d.kind == 2) && d.ahead && d.srcSp == 2 && (List.range (leAt b 0x18 4)).any (fun i =>
      let a := d.src + i * d.srcStride
      (List.range (d.rowBytes / 4096 + 2)).any (fun k => decide (a / 4096 + k ≤ (a + d.rowBytes - 1) / 4096) && dev ((a / 4096 + k) * 4096))))

/-- The container checks in order: the first refusal's code and FAIL_INDEX (09 R184). -/
def State.chkAll (s : State) (t : Nat) (c : List Byte) (len stream place lineBytes : Nat) : Option (Nat × Nat) :=
  let w (x : Except Nat (List Byte)) : Nat := match x with | .ok b => b.length | .error _ => 0
  match chkContainer c len with
  | some k => some (0x100, k)
  | none => match s.chkSeal t c with
    | some k => some (0x101, k)
    | none =>
      let rest : List (Nat × Option Nat) := [(0x102, chkDecl c stream place lineBytes), (0x103, chkOpcode c), (0x104, chkLoop c), (0x105, chkShape c), (0x106, chkFoot c), (0x107, chkSplit c),
        (0x108, chkTree c), (0x109, chkFold c), (0x10A, chkBound c (w (s.slateWeights t c))), (0x10B, s.chkDevice t c)]
      (rest.find? (fun x => x.2.isSome)).map (fun x => (x.1, x.2.getD 0))

end Sys2Proof.Machine
end

