-- ==== Sys2Proof/Machine/Takes.lean ====
section
/-!
DEFINITION. Machine/Takes.lean: take queues (06 R113 to R124, R139).
-/
namespace Sys2Proof.Machine

def State.tqSize (s : State) (t q : Nat) : Nat := 2 ^ s.regFld (tqPage t q + 0x50) 0 4
/-- Difference of two free-running counts. -/
def cntSub (a b : Nat) : Nat := (a + 2 ^ 32 - b) % 2 ^ 32

/-- SQ_TAIL (06 R114). -/
def State.doorbell (s : State) (req t q : Nat) (val : Word) : State :=
  let p := tqPage t q
  let v := val.toNat
  if s.tqSize t q < cntSub v (s.reg (p + 0x60)).toNat then ((s.putBit (p + 0x68) 0 true).evt p 1).reject req p 0x54 3
  else if s.tqSize t q < cntSub v (s.reg (p + 0x54)).toNat then s.reject req p 0x54 3
  else (s.setReg (p + 0x54) val).putBit (p + 0x68) 0 false

def execSqTail (req t q : Nat) (val : Word) (s : State) : Host.Outcome State Fault Refusal :=
  .next (if t < 16 ∧ q < 8 then s.asWrite 0x08 req 8 (0x100 + 8 * t + q) 0x54 (fun s => s.doorbell req t q val) else s)

/-- Whether the queue's page lets the device fetch its next descriptor (06 R139; 11 R236, R243). -/
def State.fetches (s : State) (t q : Nat) : Bool :=
  decide (t < 16) && decide (q < 8) && s.mainOk && s.st memPage != 5 && (s.st (tqPage t q) == 2 || s.st (tqPage t q) == 4) &&
    s.reg (tqPage t q + 0x58) != s.reg (tqPage t q + 0x54)

/-- Record a fetched entry: SQ_HEAD advances (06 R113). -/
def State.pushEntry (s : State) (t q : Nat) (e : Entry) : State :=
  let x := s.tq t q
  let p := tqPage t q
  ((s.setTq t q { x with entries := x.entries ++ [{ e with n := (s.reg (p + 0x58)).toNat }] }).addWrap (p + 0x58) 1).fences t q

/-- Refuse a descriptor (06 R116): its record waits its turn. -/
def State.refuseTake (s : State) (t q status : Nat) (e : Entry) : State :=
  let p := tqPage t q
  let idx := (s.reg (p + 0x58)).toNat % s.tqSize t q
  let s1 := s.pushEntry t q { e with st := 3, status := status }
  (s1.setNat (p + 0x74) (status + idx * 2 ^ 16)).evt p 2

/-- The entry a descriptor spells (06 R115). -/
def entryOf (d : List Byte) : Entry :=
  { op := leAt d 0 1, flags := leAt d 1 1, slate := leAt d 4 4, tag := leAt d 8 8, args := leAt d 0x10 8, argsLen := leAt d 0x18 4,
    dyn := (List.range 4).map (fun i => leAt d (0x20 + 4 * i) 4), deadline := leAt d 0x30 8 % 2 ^ 56 }

/-- The refusals of R116 but the last, in order. -/
def State.takeRefusal (s : State) (t : Nat) (d : List Byte) : Option Nat :=
  let e := entryOf d
  if e.op ≠ 1 ∨ e.flags / 8 ≠ 0 ∨ leAt d 2 2 ≠ 0 ∨ leAt d 0x1C 4 ≠ 0 ∨ leAt d 0x37 1 ≠ 0 ∨ leAt d 0x38 8 ≠ 0 ∨ e.args % 64 ≠ 0 then some 0x0101
  else match s.slate e.slate with
    | none => some 0x0102
    | some x =>
      if x.tenant ≠ t ∨ x.kind ≠ 1 ∨ x.state ≠ 1 then some 0x0102
      else if cArgs x.cont < e.argsLen ∨ (s.taRead t .host e.args e.argsLen).2.isSome = true then some 0x0103
      else if (List.range 4).any (fun i => decide (e.dyn.getD i 0 < cDynMin x.cont i) || decide (cDynMax x.cont i < e.dyn.getD i 0)) then some 0x0104
      else none

/-- TAKE (06 R116, R117): the fetched descriptor is refused or accepted; E is held in cycles of 1.6 GHz. -/
def State.fetchTake (s : State) (t q : Nat) (d : List Byte) : State :=
  let e := entryOf d
  match s.takeRefusal t d with
  | some st => s.refuseTake t q st e
  | none =>
    let f := match s.slate e.slate with | some x => declaredCycles x.cont e.dyn | none => 0
    let now := s.us * 1600
    let x := s.tq t q
    let est := if e.flags / 4 % 2 = 1 then max x.est now + f else max x.est (now + f)
    if e.flags / 2 % 2 = 1 ∧ e.deadline * 1600 < est then s.refuseTake t q 0x0105 e
    else (s.setTq t q { x with est := est }).pushEntry t q e

def execTake (t q : Nat) (desc : List Byte) (s : State) : Host.Outcome State Fault Refusal :=
  .next (if s.fetches t q = true ∧ leAt desc 0 1 ≠ 2 then s.fetchTake t q desc else s)

/-- FENCE (06 R115, R117). -/
def State.fetchFence (s : State) (t q : Nat) (d : List Byte) : State :=
  let e := entryOf d
  let clean := (d.drop 2).take 6 ++ (d.drop 16).take 48
  if e.flags / 8 ≠ 0 ∨ clean.any (fun b => b != 0#8) = true then s.refuseTake t q 0x0101 e
  else
    let x := s.tq t q
    (s.setTq t q { x with est := max x.est (s.us * 1600) }).pushEntry t q { op := 2, flags := e.flags % 2, tag := e.tag }

def execFence (t q : Nat) (desc : List Byte) (s : State) : Host.Outcome State Fault Refusal :=
  .next (if s.fetches t q = true ∧ leAt desc 0 1 = 2 then s.fetchFence t q desc else s)

/-- The queue head: the first waiting entry, if nothing before it holds it back (06 R115, R120). -/
def headFrom : Bool → List Entry → Option Entry
  | _, [] => none
  | done, e :: es =>
    if e.st = 0 then (if e.op = 1 ∧ (e.flags / 4 % 2 = 0 ∨ done = true) then some e else none)
    else headFrom (done && e.st == 3) es

/-- Whether a loaded stage reserves a core (09 R177). -/
def State.coreReserved (s : State) (site c : Nat) : Bool := s.slates.any (fun x => x.2.cores.any (fun y => y.2 == (site, c)))

/-- Free cores of a die, lowest first (09 R177; 07 R153). -/
def State.freeCores (s : State) (site : Nat) : List Nat :=
  if s.clocked site then (List.range 64).filter (fun c => s.st (corePage site c) == 0 && (s.core site c).work.isNone && !s.coreReserved site c) else []

/-- Place a take's cores group by group on its groups' dies: none where a die lacks free cores (09 R177). -/
def State.placeGroups (s : State) (cont : List Byte) (used : List (Nat × Nat × Nat)) : Nat → List GroupAt → Option (List (Nat × Nat × Nat))
  | _, [] => some used
  | g, a :: rest =>
    let free := (s.freeCores a.site).filter (fun c => !used.any (fun u => u.2.1 == a.site && u.2.2 == c))
    let n := cGroupCores cont g
    if free.length < n then none
    else s.placeGroups cont (used ++ (List.range n).map (fun i => (64 * g + i, a.site, free.getD i 0))) (g + 1) rest

/-- The head of a queue: entry, the cores it would run on where those it needs are free, cost in core-cycles (06 R122). -/
def State.candidate (s : State) (t q : Nat) : Option (Entry × Option (List (Nat × Nat × Nat)) × Nat) :=
  if s.st (tqPage t q) = 2 ∨ s.st (tqPage t q) = 3 ∨ s.st (tqPage t q) = 4 then
    match headFrom true (s.tq t q).entries with
    | none => none
    | some e => match s.slate e.slate with
      | none => none
      | some x => if x.state = 3 then none else some (e, s.placeGroups x.cont [] 0 x.groups, declaredCycles x.cont e.dyn * cCores x.cont)
  else none

/-- Whether a head fits (19 R391): the energy bound, E_ACC in nJ, and free cores. -/
def State.fits (s : State) (e : Entry) (cores : Option (List (Nat × Nat × Nat))) : Bool :=
  match s.slate e.slate with
  | none => false
  | some x =>
    let p := takePower x.cont (declaredCycles x.cont e.dyn)
    let burst := (s.reg (gafPage + 0x48)).toNat
    cores.isSome && powLe (powAdd p s.commitUw) (powAdd ((s.reg (gafPage + 0x40)).toNat * 1000000, 1) ((max 0 s.gaffer.eAcc).toNat, max 1 burst))

/-- A tenant's weight, credit and next queue. -/
def State.weight (s : State) (t : Nat) : Nat := s.regFld (tqPage t 0 + 0x70) 0 8
def State.credit (s : State) (t : Nat) : Nat := tabGet 0 s.sched.credit t
def State.queueOrder (s : State) (t : Nat) : List Nat := let n := tabGet 0 s.sched.nextQ t; (List.range 8).map (fun i => (n + i) % 8)

/-- A candidate: tenant, queue, entry, cores where they are free, cost. -/
abbrev Cand := Nat × Nat × Entry × Option (List (Nat × Nat × Nat)) × Nat

/-- Heads that may be chosen, tenants in turn and each tenant's queues in turn (06 R122). -/
def State.candidates (s : State) : List Cand :=
  let all := (List.range 16).flatMap (fun i =>
    let t := (s.sched.turn + i) % 16
    (s.queueOrder t).filterMap (fun q => (s.candidate t q).map (fun c => (t, q, c))))
  if all.any (fun c => decide (0 < s.weight c.1)) then all.filter (fun c => decide (0 < s.weight c.1)) else all

/-- Rounds of credit until a tenant covers a cost (06 R122). -/
def roundsFor (credit weight cost : Nat) : Nat := if cost ≤ credit then 0 else (cost - credit + weight * 2 ^ 20 - 1) / (weight * 2 ^ 20)

/-- Give each waiting tenant `k` rounds of credit. -/
def State.giveCredit (s : State) (k : Nat) (ts : List Nat) : State :=
  ts.foldl (fun s t => { s with sched := { s.sched with credit := tabPut 0 s.sched.credit t (s.credit t + k * s.weight t * 2 ^ 20) } }) s



/-- Start a take on its cores (06 R122; 09 R195; 10 R220). -/
def State.startTake (s : State) (t q : Nat) (e : Entry) (cores : List (Nat × Nat × Nat)) (cost : Nat) : State :=
  match s.slate e.slate with
  | none => s
  | some x =>
    let w := Work.take t q e.n
    let ep := (s.freshBnd w).allocEpoch (x.groups.headD {}).site
    let s1 := ep.2.updEntry t q e.n (fun e => { e with st := 1, startUs := s.us % 2 ^ 32, epoch := ep.1, cores := cores })
    let s2 := cores.foldl (fun s c => s.giveCore w x.cont ((x.groups.getD (c.1 / 64) {}).bin) c) s1
    let s3 := s2.installTrees w x.cont
    let sc := s3.sched
    let cr := if s.weight t = 0 then s.credit t else s3.credit t - cost
    { s3 with sched := { sc with credit := tabPut 0 sc.credit t cr, nextQ := tabPut 0 sc.nextQ t ((q + 1) % 8), turn := t } }.showPower

/-- Whether a candidate is the head of queue q of tenant t. -/
def isHead (t q : Nat) (c : Cand) : Bool := c.1 == t && c.2.1 == q

/-- The head passed over after the take of queue q of tenant t has been chosen, `before` being the heads that came before it in the
order of R122 and did not fit. DEDUCED (log 17): one head is counted at a time, until it starts, so that the lock always comes (19
R392); a selection that does not reach it leaves the count as it is. -/
def passAfter (old : Option (Nat × Nat × Nat × Nat)) (t q : Nat) (before : List Cand) : Option (Nat × Nat × Nat × Nat) :=
  match old with
  | some (pt, pq, pn, n) => if pt = t ∧ pq = q then (before.head?.map (fun c => (c.1, c.2.1, c.2.2.1.n, 1)))
      else some (pt, pq, pn, if before.any (isHead pt pq) then n + 1 else n)
  | none => before.head?.map (fun c => (c.1, c.2.1, c.2.2.1.n, 1))

/-- TAKE_START (06 R122; 19 R391): deficit round robin over the eligible heads; a head that does not fit is passed over,
at most 8 times in a row. The rounds of credit go on until a head that fits can be charged. -/
def State.chooseTake (s : State) : State :=
  let cs := s.candidates
  let may := match s.sched.passed with | some (t, q, _, n) => if 8 ≤ n then cs.filter (isHead t q) else cs | none => cs
  let fitting := may.filter (fun (c : Cand) => s.fits c.2.2.1 c.2.2.2.1)
  let weighted := cs.any (fun (c : Cand) => decide (0 < s.weight c.1))
  match fitting with
  | [] => s
  | _ =>
    let k := if weighted then (fitting.map (fun (c : Cand) => roundsFor (s.credit c.1) (s.weight c.1) c.2.2.2.2)).foldl min (roundsFor 0 1 (2 ^ 64)) else 0
    let s1 := s.giveCredit k ((cs.map (·.1)).eraseDups)
    let afford := may.filter (fun (c : Cand) => decide (c.2.2.2.2 ≤ s1.credit c.1) || !weighted)
    match afford.find? (fun (c : Cand) => s.fits c.2.2.1 c.2.2.2.1) with
    | none => s
    | some (t, q, e, cores, cost) =>
      let before := afford.takeWhile (fun (c : Cand) => !isHead t q c)
      let s2 := s1.startTake t q e (cores.getD []) cost
      { s2 with sched := { s2.sched with passed := passAfter s.sched.passed t q before } }.showPass

def execTakeStart (s : State) : Host.Outcome State Fault Refusal :=
  .next (if s.mainOk = true ∧ s.ready = true then s.chooseTake else s)

/-- TAKE_END (06 R118): every core of the take has ended; `idx` is its SQ_INDEX. -/
def execTakeEnd (t q idx : Nat) (s : State) : Host.Outcome State Fault Refusal :=
  .next (match (s.tq t q).entries.find? (fun e => e.n % s.tqSize t q == idx && e.st == 1) with
    | none => s
    | some e =>
      if e.cores.all (fun c => (s.core c.2.1 c.2.2).phase == 3 && (List.range 4).all (fun k => (s.dq c.2.1 c.2.2 k).descs.isEmpty)) then
        ((e.cores.foldl (fun s c => s.evt (corePage c.2.1 c.2.2) 1) s).endTake t q e.n 0 none).showPower
      else s)

/-- A completion record (06 R119). -/
def State.complRec (s : State) (t q : Nat) (e : Entry) : List Byte :=
  leBytes 8 e.tag ++ leBytes 2 e.status ++ leBytes 2 ((if (s.tq t q).phase then 1 else 0) + (if e.late then 2 else 0) + (if e.detail.isSome then 4 else 0))
    ++ leBytes 2 (e.n % s.tqSize t q) ++ leBytes 1 q ++ [0#8] ++ leBytes 4 e.startUs ++ leBytes 4 s.us
    ++ leBytes 4 (if s.conf t then 0 else e.cycles) ++ leBytes 4 (e.detail.getD 0)

/-- COMPLETION_RECORD (06 R111, R119, R120): the oldest entry's record, once ready. -/
def State.releaseRecord (s : State) (t q : Nat) : State :=
  let x := s.tq t q
  match x.entries with
  | [] => s
  | e :: es =>
    if e.st ≠ 3 then s
    else
      let p := tqPage t q
      let size := s.tqSize t q
      let tail := (s.reg (p + 0x5C)).toNat
      match s.taWrite t .host (s.wide (p + 0x48) + tail % size * 32) (s.complRec t q e) with
      | (_, some _) => s
      | (s1, none) =>
        let wrap := tail % size + 1 == size
        let n := x.since + 1
        let now := e.flags % 2 == 1 || decide (s.regFld (p + 0x64) 0 16 ≤ n)
        let x2 : TQ := { x with entries := es, phase := if wrap then !x.phase else x.phase, since := if now then 0 else n, firstAt := if now then none else some (x.firstAt.getD s.now) }
        let s2 := (s1.setTq t q x2).addWrap (p + 0x5C) 1
        let s3 := (s2.putBit (p + 0x10) 0 true).showPend p
        let s4 := (s3.evtIf (e.status != 0) p 3).evtIf e.late p 4
        if now = true ∧ s4.regBit (p + 0x14) 0 = true then s4.msix t (16 + q) else s4

def execCompletionRecord (t q : Nat) (s : State) : Host.Outcome State Fault Refusal :=
  .next (if t < 16 ∧ q < 8 ∧ s.mainOk = true ∧ s.mute = false ∧ s.st (tqPage t q) ≠ 0 then s.releaseRecord t q else s)

/-- INT_MOD_DELAY (06 R111): the longest delay of queue q of tenant t, or of dailies ring q where t is 16, has run out. -/
def execIntModDelay (t q : Nat) (s : State) : Host.Outcome State Fault Refusal :=
  if t < 16 then
    let p := tqPage t q
    let x := s.tq t q
    let d := s.regFld (p + 0x64) 16 16
    match x.firstAt with
    | some f => if q < 8 ∧ d ≠ 0 ∧ f + d * 200 ≤ s.now ∧ s.mainOk = true then
        let s1 := s.setTq t q { x with since := 0, firstAt := none }
        .next (if s1.regBit (p + 0x14) 0 then s1.msix t (16 + q) else s1)
      else .next s
    | none => .next s
  else
    let p := drPage q
    let x := s.ring q
    let d := s.regFld (p + 0x70) 16 16
    match x.firstAt with
    | some f => if s.ringRuns q = true ∧ d ≠ 0 ∧ f + d * 200 ≤ s.now then
        let s1 := s.setRing q { x with since := 0, firstAt := none }
        .next (if s1.regBit (p + 0x14) 0 then s1.msix (s.drOwner q) (32 + q) else s1)
      else .next s
    | none => .next s

/-- ABORT_ALL (06 R123, R139): every entry up to SQ_TAIL whose record has not been released; `tags` are the TAGs of those not
yet fetched. -/
def State.abortQueue (s : State) (t q : Nat) (tags : List Nat) : State :=
  let p := tqPage t q
  let s1 := (s.tq t q).entries.foldl (fun s e =>
    if e.st = 3 then s.updEntry t q e.n (fun e => { e with status := 0x0301, detail := none, late := false })
    else s.endTake t q e.n 0x0301 none) s
  let left := cntSub (s.reg (p + 0x54)).toNat (s.reg (p + 0x58)).toNat
  let s2 := (List.range (min left (s.tqSize t q))).foldl (fun s i => s.pushEntry t q { tag := tags.getD i 0 % 2 ^ 64, st := 3, status := 0x0301 }) s1
  s2.showPower

def execAbortAll (req t q : Nat) (val : Word) (tags : List Nat) (s : State) : Host.Outcome State Fault Refusal :=
  .next (if t < 16 ∧ q < 8 then s.asWrite 0x08 req 8 (0x100 + 8 * t + q) 0x6C (fun s => if bitOf val 0 then s.abortQueue t q tags else s) else s)

end Sys2Proof.Machine
end

