-- ==== Sys2Proof/Machine/Loader.lean ====
section
/-!
DEFINITION. Machine/Loader.lean: slate placement, admission against the machine, loading and unloading (09 R177 to R190, R198,
R199; 12 R247, R261; 14 R290), and the bounds page's commands (09 R194).
-/
namespace Sys2Proof.Machine

/-- The least start of `n` free units below `cap`, where the runs (start, length) are taken. -/
def firstGap (used : List (Nat × Nat)) (cap n : Nat) : Option Nat :=
  let fits (a : Nat) : Bool := decide (a + n ≤ cap) && used.all (fun u => u.2 == 0 || decide (a + n ≤ u.1) || decide (u.1 + u.2 ≤ a))
  let ok := (0 :: used.map (fun u => u.1 + u.2)).filter fits
  if n = 0 then some 0 else ok.foldl (fun m a => match m with | none => some a | some b => some (min a b)) none

/-- What the slates loaded hold of a die. -/
def State.binUsed (s : State) (site : Nat) : List (Nat × Nat) := s.slates.flatMap (fun x => (x.2.groups.filter (fun g => g.site == site && x.2.state != 3)).map (fun g => (g.bin, cBin x.2.cont)))
def State.cueUsed (s : State) (site : Nat) : List (Nat × Nat) := s.slates.flatMap (fun x => (x.2.groups.filter (fun g => g.site == site && x.2.state != 3)).map (fun g => (g.cue, cCues x.2.cont)))
def State.flagUsed (s : State) (site : Nat) : List (Nat × Nat) := s.slates.flatMap (fun x => (x.2.groups.filter (fun g => g.site == site && x.2.state != 3)).map (fun g => (g.flag, cFlags x.2.cont)))
def State.binFree (s : State) (site : Nat) : Nat := 2 ^ 26 - (s.binUsed site).foldl (fun n u => n + u.2) 0

/-- Cores and engines of a die that no work and no stage holds (09 R177; 12 R247). -/
def State.stageCores (s : State) (site : Nat) : List Nat := (List.range 64).filter (fun c => s.st (corePage site c) == 0 && (s.core site c).work.isNone && !s.coreReserved site c)
def State.freeEngs (s : State) (site kind : Nat) : List Nat :=
  [2 * kind, 2 * kind + 1].filter (fun e => s.st (engPage site e) == 0 && !s.slates.any (fun x => x.2.engs.contains (site, e)))

/-- The job records of a group, and the engines they take on a die in order, where enough are free. -/
def groupJobs (c : List Byte) (g : Nat) : List (List Byte) := ((secRecs c 11 64).filter (fun r => r.2.2.1 == g)).map (fun r => r.2.2.2)
def State.takeEngs (s : State) (site : Nat) (used : List Nat) : List (List Byte) → Option (List Nat)
  | [] => some used
  | j :: js => match (s.freeEngs site (leAt j 0 1)).find? (fun e => !used.contains e) with
    | some e => s.takeEngs site (used ++ [e]) js
    | none => none

/-- Choose a group's die (09 R178): among `dies`, one that adjoins the field die, then the most free bin, then the lowest site. -/
def State.bestDie (s : State) (field : Option Nat) (dies : List Nat) : Option Nat :=
  let key (d : Nat) : Nat := (match field with | some f => if adjoins f d then 2 ^ 32 else 0 | none => 0) + s.binFree d
  dies.foldl (fun b d => match b with | none => some d | some e => if key e < key d then some d else some e) none

/-- A group's place with its cores and engines. -/
structure Placed where
  at_ : GroupAt := {}
  cores : List Nat := []
  engs : List Nat := []
  deriving DecidableEq, Repr

/-- Place groups g, g + 1, … (09 R178, R179); on failure 0x010E CORES, 0x010F BIN or 0x0110 QUEUES. -/
def State.placeAll (s : State) (c : List Byte) (field with_ : Option Nat) (done : List Placed) : List Nat → Except Nat (List Placed)
  | [] => .ok done
  | g :: gs =>
    let st := isStage c
    let all := [0, 1, 2, 3].filter (fun d => s.dieUp d && !done.any (fun p => p.at_.site == d))
    let dies := match with_ with | some d => if g = 0 then all.filter (· == d) else all | none => all
    let n := cGroupCores c g
    let d1 := if st then dies.filter (fun d => decide (n ≤ (s.stageCores d).length) && (s.takeEngs d [] (groupJobs c g)).isSome) else dies
    let d2 := d1.filter (fun d => (firstGap (s.binUsed d) (2 ^ 26) (cBin c)).isSome)
    let d3 := d2.filter (fun d => (firstGap (s.cueUsed d) 64 (cCues c)).isSome && (firstGap (s.flagUsed d) 1024 (cFlags c)).isSome)
    match s.bestDie field d3 with
    | none => .error (if st = true ∧ d1.isEmpty = true then 0x10E else if d2.isEmpty then 0x10F else 0x110)
    | some d =>
      let at_ : GroupAt := { site := d, bin := (firstGap (s.binUsed d) (2 ^ 26) (cBin c)).getD 0, cue := (firstGap (s.cueUsed d) 64 (cCues c)).getD 0, flag := (firstGap (s.flagUsed d) 1024 (cFlags c)).getD 0 }
      let p : Placed := { at_ := at_, cores := if st then (s.stageCores d).take n else [], engs := if st then (s.takeEngs d [] (groupJobs c g)).getD [] else [] }
      s.placeAll c field with_ (done ++ [p]) gs

/-- The entry ring of a stage: the ring it declares with PROD = 2 (14 R290). -/
def entryRing (c : List Byte) : Option RingDecl := (ringDecls c).find? (fun r => r.prod == 2)

/-- Stream-class B/s of a stage's groups at R_max (09 R188; 10 R213; 12 R261). -/
def stageBws (c : List Byte) (rmax lineBytes : Nat) : List Nat :=
  let sd := stageDecl c
  (List.range (cGroups c)).map (fun g =>
    cdiv (sd.2.2.2 * rmax) sd.1
      + (groupJobs c g).foldl (fun n b => let j := decodeJob b; n + cdiv (j.bytes * rmax) (if j.engine = 2 then j.linesMin else j.rows)) 0
      + (match entryRing c with | some r => if r.core / 64 = g then lineBytes * rmax else 0 | none => 0))



/-- Certification of 09 R186 at a clock in MHz, and the jobs' of 12 R261. -/
def certAt (c : List Byte) (rmax mhz : Nat) : Bool := let sd := stageDecl c; decide (sd.2.2.1 * rmax * 16 ≤ mhz * 1000000 * sd.1 * 15)
def certJobs (c : List Byte) (rmax : Nat) : Bool :=
  (secRecs c 11 64).all (fun r => let j := decodeJob r.2.2.2; decide (j.cyc * rmax * 16 ≤ 1000000000 * (if j.engine = 2 then j.linesMin else j.rows) * 15))
/-- MIN_FLOOR_MHZ (09 R187). -/
def minFloor (c : List Byte) (rmax : Nat) : Nat := (((List.range 49).map (fun i => 400 + 25 * i)).find? (certAt c rmax)).getD 0

/-- The take bound of 19 R389 in µW, before and after more stream power. -/
def State.overBound (s : State) (more p : Nat × Nat) : Bool :=
  !powLe p (asmBudget s.asm * 1000000, 1) || !powLe (powAdd p (powAdd s.streamUw more)) (2 * (s.reg (pg 8 7 + 0x40)).toNat * 1000000, 1)

/-- The checks of a load against the machine (0x010C to 0x0114), with the placement. -/
def State.chkMachine (s : State) (t : Nat) (c : List Byte) (stream floor place rmax lineBytes : Nat) : List Placed × Nat :=
  let st := isStage c
  let dies := [0, 1, 2, 3].filter (fun d => dieAt s.asm d == .compute)
  let mate := s.slates.find? (fun x => x.2.handle == place && x.2.tenant == t && x.2.kind == 2 && x.2.stream == stream)
  if place ≠ 0 ∧ mate.isNone = true then ([], 0x116)
  else if 64 ≤ (s.slates.filter (fun x => x.2.tenant == t)).length ∨ 1024 ≤ s.slates.length then ([], 0x10C)
  else if dies.length < cGroups c ∨ (st = true ∧ streamCount s.asm ≤ stream) then ([], 0x10D)
  else
    let field := if st then some (streamSite s.asm stream) else none
    match s.placeAll c field (mate.map (fun x => (x.2.groups.getD 0 {}).site)) [] (List.range (cGroups c)) with
    | .error code => ([], code)
    | .ok ps =>
      let bws := if st then stageBws c rmax lineBytes else []
      let wide := st && (List.range ps.length).any (fun i => decide (256000 * 1000000 < s.admitted (ps.getD i {}).at_.site + bws.getD i 0))
      let watts := if st then stagePower c (rmax * 1000) else takePower c ((cycTable c).headD (0, 0)).2
      let hot := if st then !powLe (powAdd s.streamUw watts) (asmBudget s.asm * 1000000, 1) || s.overBound watts s.takeUw else s.overBound (0, 1) watts
      let cold := st && (decide (floor < 400) || decide (1600 < floor) || floor % 25 != 0
        || ps.any (fun p => decide (s.regFld (pg p.at_.site 0x0B + 0x40) 16 12 < floor) || (s.regBit (pg p.at_.site 0x0B + 0x94) 5 && decide (400 < floor))))
      (ps, if wide then 0x111 else if hot then 0x112 else if st = true ∧ (certAt c rmax floor = false ∨ certJobs c rmax = false) then 0x113 else if cold then 0x114 else 0)

/-- The response payload of SLATE_LOAD (09 Mailbox opcodes). -/
def loadReply (handle fail minF pkg : Nat) (ps : List Placed) : List Byte :=
  leBytes 4 handle ++ leBytes 4 fail ++ leBytes 2 minF ++ leBytes 2 0 ++ leBytes 2 ps.length ++ leBytes 2 0 ++ ps.flatMap (fun p => leBytes 2 (p.at_.site + pkg * 16))

/-- Reserve an engine for a job (12 R265, R266). -/
def State.giveEng (s : State) (t handle g site e : Nat) (job : List Byte) : State :=
  let p := engPage site e
  let x := s.eng site e
  let s1 := (s.setEng site e { handle := handle, group := g, job := job, lastTenant := x.lastTenant }).putBit (p + 8) 0 true
  let s2 := (s1.setSt p 1).setNat (p + 0x40) (t + (if s.conf t then 16 else 0))
  if s.conf t then s2 else s2.setNat (p + 0x44) handle

/-- The least R_max that the stages loaded for a stream have recorded (09 R190), and its destination ring (14 R290). -/
def State.showDest (s : State) (stream : Nat) : State :=
  let site := streamSite s.asm stream
  let k := stream % 16
  let ls := s.slates.filter (fun x => x.2.kind == 2 && x.2.stream == stream)
  let r : Option Nat := ls.foldl (fun m x => match m with | none => some x.2.rmax | some n => some (min n x.2.rmax)) none
  let s1 := s.setStrm site k { s.strm site k with rmax := r }
  match ls.find? (fun x => x.2.state != 3 && (entryRing x.2.cont).isSome) with
  | none => let s2 := s1.detach site k; if ls.isEmpty = true ∧ s2.st (strPage site k) ≠ 0 then s2.attachPass site k else s2
  | some (_, x) =>
    match entryRing x.cont with
    | none => s1
    | some e => match x.cores.find? (fun c => c.1 == e.core) with
      | none => s1
      | some c =>
        s1.attach site k c.2.1 c.2.2 (e.ring % 8) (stageDecl x.cont).1 (e.slots % 2 ^ 16)

/-- Load an admitted slate (09 R180, R181): its handle, its reservations, the weights it stores. -/
def State.admitSlate (s : State) (t : Nat) (c : List Byte) (stream floor rmax lineBytes : Nat) (ps : List Placed) : Nat × State :=
  let idx := ((List.range 65536).find? (fun i => decide (0 < i) && !s.slates.any (fun x => x.1 == i))).getD 1
  let gen := tabGet 0 s.gens idx
  let handle := idx + gen % 65536 * 65536
  let st := isStage c
  let cores := (List.range ps.length).flatMap (fun g => let p := ps.getD g {}; (List.range p.cores.length).map (fun i => (64 * g + i, p.at_.site, p.cores.getD i 0)))
  let engs := ps.flatMap (fun p => p.engs.map (fun e => (p.at_.site, e)))
  let w : List Byte := match s.slateWeights t c with | .ok b => b | .error _ => []
  let x : Slate := { handle := handle, tenant := t, kind := if st then 2 else 1, stream := stream, cont := c, groups := ps.map (fun p => p.at_), floor := if st then floor else 0, rmax := if st then rmax else 0,
                     power := if st then stagePower c (rmax * 1000) else takePower c ((cycTable c).headD (0, 0)).2, bws := if st then stageBws c rmax lineBytes else [], weights := w, cores := cores, engs := engs }
  let s1 := ({ s with gens := tabPut 0 s.gens idx ((gen + 1) % 65536) }).setSlate x
  let s2 := if storesWeights c then s1.needKey t else s1
  let s3 := (List.range ps.length).foldl (fun s g =>
    let p := ps.getD g {}
    let js := groupJobs c g
    (List.range p.engs.length).foldl (fun s i => s.giveEng t handle g p.at_.site (p.engs.getD i 0) (js.getD i [])) s) s2
  let s4 := if st then s3.showDest stream else s3
  (handle, s4.showPower.showAdmit)

/-- SLATE_LOAD (09 R180, R184 to R190; 20 R410): `cont` is the container as firmware reads it at CONT_ADDR. -/
def execSlateLoad (t : Nat) (cont : List Byte) (s : State) : Host.Outcome State Fault Refusal :=
  .next (s.mbServe t 0x10 20 (fun s =>
    let stream := s.mbArg t 12 1
    let dry := s.mbArg t 13 1 % 2 == 1
    let floor := s.mbArg t 14 2
    let place := s.mbArg t 16 4
    let site := streamSite s.asm stream
    let real := decide (stream < streamCount s.asm)
    let lb := if real then s.lineBytes site (stream % 16) else 0
    let rmax := if real then (s.reg (strPage site (stream % 16) + 0x48)).toNat else 0
    if s.sec.reserveKey.isNone then s.mbReply t 4 []
    else
      let mf := if isStage cont = true ∧ real = true then minFloor cont rmax else 0
      match s.chkAll t cont (s.mbArg t 8 4) stream place lb with
      | some (code, k) => (s.evtIf (code == 0x101) kmPage 4).mbReply t code (loadReply 0 k mf s.pkg [])
      | none =>
        let r := s.chkMachine t cont stream floor place rmax lb
        if r.2 = 0x116 then s.mbReply t 0x116 []
        else if r.2 ≠ 0 ∨ dry = true then s.mbReply t r.2 (loadReply 0 0 mf s.pkg (if dry then r.1 else []))
        else
          let a := s.admitSlate t cont stream floor rmax lb r.1
          a.2.mbReply t 0 (loadReply a.1 0 mf s.pkg r.1)))

/-- Release a slate (09 R198): its handle and resources, its stream's destination, its pipeline's binding. -/
def State.unload (s : State) (x : Slate) : State :=
  let s1 := s.dropSlate x.handle
  let s2 := if x.kind = 1 then s1
    else
      let site := streamSite s.asm x.stream
      let k := x.stream % 16
      let y := s1.strm site k
      let bound := match y.pipe with | some b => b.stages.any (fun st => st.1 == x.handle) | none => false
      let s2 := if bound = true ∧ s1.st (strPage site k) = 0 then (s1.setStrm site k { y with pipe := none }).setNat (pipePage site k + 0x5C) 0
        else if bound then s1.losePipe site k else s1
      (s2.showDest x.stream).showPipe site k
  (s2.memCheck x.tenant).showPower.showAdmit

/-- A tenant's slate by its handle. -/
def State.ownSlate (s : State) (t h : Nat) : Option Slate :=
  match s.slate h with | some x => if x.tenant = t then some x else none | none => none

/-- Whether a take accepted for a slate still lacks its completion record (09 R198). -/
def State.slateBusy (s : State) (h : Nat) : Bool := s.tqs.any (fun q => q.2.entries.any (fun e => e.op == 1 && e.slate == h))

/-- SLATE_UNLOAD (09 R198, R199). -/
def execSlateUnload (t : Nat) (s : State) : Host.Outcome State Fault Refusal :=
  .next (s.mbServe t 0x11 4 (fun s =>
    match s.ownSlate t (s.mbArg t 0 4) with
    | none => s.mbReply t 0x116 []
    | some x =>
      if x.state = 3 then (s.unload x).mbReply t 0 []
      else if x.kind = 2 then
        (if s.st (strPage (streamSite s.asm x.stream) (x.stream % 16)) ≠ 0 then s.mbReply t 0x115 [] else (s.unload x).mbReply t 0 [])
      else if s.slateBusy x.handle then s.setSlate { x with state := 2, waiter := some t }
      else (s.unload x).mbReply t 0 []))

/-- UNLOAD_COMPLETE (09 R198): the last take of an unloading slate has its completion record. -/
def execUnloadComplete (handle : Nat) (s : State) : Host.Outcome State Fault Refusal :=
  .next (match s.slate handle with
    | some x => if x.state = 2 ∧ s.slateBusy handle = false then
        (match x.waiter with
         | some t => (s.unload x).mbReply t 0 []
         | none => s.unload x)
      else s
    | none => s)

/-- SLATE_QUERY (09 Mailbox opcodes). -/
def execSlateQuery (t : Nat) (s : State) : Host.Outcome State Fault Refusal :=
  .next (s.mbServe t 0x12 4 (fun s =>
    match s.ownSlate t (s.mbArg t 0 4) with
    | none => s.mbReply t 0x116 []
    | some x => s.mbReply t 0 (leBytes 1 x.kind ++ leBytes 1 x.state ++ leBytes 2 0 ++ leBytes 8 (x.rmax * 1000) ++ leBytes 2 x.floor ++ leBytes 2 0 ++ leBytes 2 x.groups.length ++ leBytes 2 0
        ++ x.groups.flatMap (fun g => leBytes 2 (g.site + s.pkg * 16)))))

/-- BOUND_RECORD (09 R192, R194): the tenant's own record that a DETAIL names, RECORD_GONE otherwise. -/
def execBoundRecord (t : Nat) (s : State) : Host.Outcome State Fault Refusal :=
  .next (s.mbServe t 0x13 4 (fun s =>
    let d := s.mbArg t 0 4
    let n := d % 256
    let site := d / 256 % 16
    let p := bndPage site
    if d / 65536 ≠ 0 ∨ d / 4096 % 16 ≠ s.pkg ∨ s.dieUp site = false ∨ 64 ≤ n ∨ s.regFld (p + 0x40) 8 7 ≤ n ∨ s.regFld (p + 0x100 + 32 * n + 4) 0 8 ≠ t then s.mbReply t 0x117 []
    else s.mbReply t 0 (s.regBytes (p + 0x100 + 32 * n) 8)))

/-- CLEAR_ALL (09 Bounds page). -/
def execClearAll (req site : Nat) (val : Word) (s : State) : Host.Outcome State Fault Refusal :=
  .next (s.asWrite 0x46 req site 8 0x44 (fun s =>
    if bitOf val 0 then (List.range 512).foldl (fun s i => s.setNat (bndPage site + 0x100 + 4 * i) 0) (s.setNat (bndPage site + 0x40) 0) else s))

end Sys2Proof.Machine
end

