-- ==== Sys2Proof/Machine/Pacing.lean ====
section
/-!
DEFINITION. Machine/Pacing.lean: the pacing law, splices by the controller and the host, and the restart (16).
-/
namespace Sys2Proof.Machine

/-- DRAIN_LINES of a stream (16 R336); the quotient by a DRAIN_BPL of 0 is a free value (log 26). -/
def State.drainLines (s : State) (site k : Nat) : Nat :=
  let d := s.ringOf site k
  let inflight : Int := ((s.pos site (k / 2)).line : Int) - 1 - s.watermark site k
  let bpl := (s.reg (strPage site k + 0xA8)).toNat
  let off := s.mainOk = false ∨ s.st (drPage d) = 0
  let byData : Int := (if off then 0 else if bpl = 0 then Config.noBpl (s.dataFree d) else s.dataFree d / bpl : Nat) - inflight
  let byRec : Int := (s.recFree d : Int) - inflight
  (if s.regFld (drPage d + 0x44) 1 2 = 0 then byData else min byData byRec).toNat

/-- ramp(x, lo, hi) of the pacing law in 1/65536, rounded down (16 R337). -/
def ramp16 (x lo hi : Nat) : Nat := if x ≤ lo then 0 else if hi ≤ x then 65536 else (x - lo) * 65536 / (hi - lo)

/-- A stream's two margins, HEADROOM and DRAIN_LINES. -/
def State.margins (s : State) (site k : Nat) : Nat × Nat := (s.headroomOf site k, s.drainLines site k)

/-- p_buf over some streams in 1/65536, and whether it is exactly 0 (16 R337). -/
def State.pBuf (s : State) (site g : Nat) (ks : List Nat) : Nat × Bool :=
  let p := pacePage site g
  let hs := s.regFld (p + 0x44) 0 16
  let hf := s.regFld (p + 0x44) 16 16
  let ds := (s.reg (p + 0x48)).toNat
  let df := (s.reg (p + 0x4C)).toNat
  ks.foldl (fun a k =>
    let m := s.margins site k
    (min a.1 (min (ramp16 m.1 hs hf) (ramp16 m.2 ds df)), a.2 || decide (m.1 ≤ hs) || decide (m.2 ≤ ds))) (65536, false)

/-- R in mHz as a quotient: 200 MHz × 65536 ÷ (PERIOD × PITCH); none when PERIOD reads no motion (16 R337). -/
def State.rateQ (s : State) (site g : Nat) : Option (Nat × Nat) :=
  let per := s.regFld (encPage site (s.encOf site g) + 0x58) 0 24
  let pitch := (s.reg (puPage site g + 0x44)).toNat
  if per = 0xFFFFFF ∨ per * pitch = 0 then none else some (200000000 * 65536 * 1000, per * pitch)
/-- R in whole mHz. -/
def State.rateMhz (s : State) (site g : Nat) : Nat := match s.rateQ site g with | some (n, d) => n / d | none => 0

/-- Streams of a gate that take part in pacing. -/
def State.taking (s : State) (site g : Nat) : List Nat := [2 * g, 2 * g + 1].filter (fun k => s.takesPart site k)

/-- C of the pacing law in mHz (16 R337). -/
def State.capMhz (s : State) (site g : Nat) (ks : List Nat) : Nat :=
  ks.foldl (fun c k => min c ((s.reg (strPage site k + 0x48)).toNat * 1000)) (s.reg (pacePage site g + 0x58)).toNat

/-- p_cap in 1/65536 (16 R337). -/
def State.pCap (s : State) (site g : Nat) (ks : List Nat) : Nat :=
  match s.rateQ site g with
  | none => 65536
  | some (n, d) =>
    let cp := s.capMhz site g ks * s.pace site g
    if n * 65536 ≤ cp * d then 65536 else cp * d / n

/-- A stream's PACED state and its EVENT records (16 R339). -/
def State.pacedStream (s : State) (site g k : Nat) (slow : Bool) : State :=
  let p := strPage site k
  let d := s.ringOf site k
  let l := s.lastTriggered site g
  if s.st p = 2 ∧ slow = true then
    let s1 := (s.setSt p 6).streamEvent d 2 site (0x28 + k) (s.rateMhz site g) l
    s1.setStrm site k { s1.strm site k with lastAch := s.rateMhz site g }
  else if s.st p = 6 ∧ slow = false then
    (s.setSt p 2).streamEvent d 3 site (0x28 + k) (if s.pace site g = 0 then 0 else s.rateMhz site g * 65536 / s.pace site g) l
  else s

/-- The margin registers: DRAIN_LINES and HEADROOM of each stream, and MARGIN. -/
def State.showMargins (s : State) (site g : Nat) (ks : List Nat) : State :=
  let s1 := ks.foldl (fun s k => (s.showStream site k).setNat (strPage site k + 0xAC) (satNat 0xFFFFFFFF (s.drainLines site k))) s
  let least := ks.foldl (fun (a : Nat × Nat × Nat) k =>
    let m := s.margins site k
    let b := if m.2 < m.1 then (m.2, 1, k) else (m.1, 0, k)
    if b.1 < a.1 then b else a) (65535, 0, ks.headD 0)
  s1.setNat (pacePage site g + 0x60) (least.1 + least.2.1 * 2 ^ 16 + least.2.2 % 16 * 2 ^ 20)

/-- A PC_STATUS bit with its event on a rising edge. -/
def State.pcBit (s : State) (site g b : Nat) (on : Bool) : State :=
  (s.putBit (pacePage site g + 0x64) b on).evtIf (on && !s.regBit (pacePage site g + 0x64) b) (pacePage site g) b

/-- The pacing law at one 250 µs computation (16 R337, R338, R340). -/
def State.paceLaw (s : State) (site g : Nat) (ks : List Nat) : State :=
  let p := pacePage site g
  let b := s.pBuf site g ks
  let mn := s.regFld (p + 0x50) 0 17
  let mx := s.regFld (p + 0x54) 0 17
  let cap := s.pCap site g ks
  let buf := max mn (min b.1 mx)
  let tgt := if s.regBit (p + 0x40) 0 then min buf cap else 65536
  let sat := decide (b.1 < mn) || decide (mx < b.1)
  let past := decide (cap < mn) && decide (cap < buf)
  let limit := if tgt = 65536 then 0 else if cap < buf then 2 else if sat then 3 else 1
  let s1 := (s.showMargins site g ks).setNat (p + 0x5C) (s.rateMhz site g % 2 ^ 32)
  let s2 := ((s1.pcBit site g 0 sat).pcBit site g 1 past).putFld (p + 0x64) 2 2 limit
  let s3 := s2.putFld (grpPage site g + 0x4C) 0 17 tgt
  let slow := (decide (s.pace site g < 65536) || decide (tgt < 65536)) && (s.rateQ site g).isSome
  let s4 := ks.foldl (fun s k => (s.pacedStream site g k slow).setStrm site k
    { (s.pacedStream site g k slow).strm site k with achSum := (s.strm site k).achSum + s.rateMhz site g, achN := (s.strm site k).achN + 1 }) s3
  let stage := (s.grp site g).stage
  if b.2 = true ∧ (stage = 0 ∨ stage = 4) ∧ s.groupHeld site g = false then
    let s5 := ((s4.declareSplice site g 1 (s4.splicePoint site g)).endRetake site g).evt p 2
    if mn < s.pace site g then s5.pcBit site g 1 true else s5
  else s4

/-- PACING_TICK (16 R337): every 250 µs, unless every stream of the gate is off or halted at a splice (R355). -/
def execPacingTick (site g : Nat) (s : State) : Host.Outcome State Fault Refusal :=
  if s.isField site = true ∧ g < 8 ∧ s.taking site g ≠ [] then .next (s.paceLaw site g (s.taking site g)) else .next s

/-- One stream's second (16 R339): ACHIEVED, and an EVENT 0x0002 where it has moved by more than 1 %. -/
def State.achieved (s : State) (site g k : Nat) : State :=
  let p := strPage site k
  let x := s.strm site k
  let a := if x.achN = 0 then 0 else x.achSum / x.achN
  let s1 := (s.setStrm site k { x with achSum := 0, achN := 0 }).setNat (p + 0xB0) a
  let diff := if a < x.lastAch then x.lastAch - a else a - x.lastAch
  if s.st p = 6 ∧ x.lastAch < diff * 100 then
    (s1.streamEvent (s.ringOf site k) 2 site (0x28 + k) a (s.lastTriggered site g)).setStrm site k { (s1.streamEvent (s.ringOf site k) 2 site (0x28 + k) a (s.lastTriggered site g)).strm site k with lastAch := a }
  else s1

/-- ACHIEVED_REPORT (16 R339). -/
def execAchievedReport (site g : Nat) (s : State) : Host.Outcome State Fault Refusal :=
  if s.isField site = true ∧ g < 8 then .next ((s.taking site g).foldl (fun s k => s.achieved site g k) s) else .next s

/-- The streams of a gate halted at a splice. -/
def State.splicedStreams (s : State) (site g : Nat) : List Nat := [2 * g, 2 * g + 1].filter (fun k => s.spliced site k)

/-- RESTART_LINE. -/
def State.restartLine (s : State) (site g : Nat) : Nat := (s.reg (pacePage site g + 0x70)).toNat + s.regFld (pacePage site g + 0x74) 0 16 * 2 ^ 32

/-- Whether a RESUME is accepted (16 R345). -/
def State.resumeOk (s : State) (site g : Nat) (skip : Bool) : Bool :=
  let ks := s.splicedStreams site g
  let e := s.encOf site g
  ks.any (fun k => s.splState site k == 2) && !(s.groupAxes site g).any (fun a => s.causePresent site a) && s.groupAtRest site g &&
    ks.all (fun k => s.passThrough site k || (match (s.strm site k).pipe with
      | some b => b.stages.all (fun st => match s.slate st.1 with | some y => y.state != 3 && !y.faulted | none => false)
      | none => false)) &&
    decide (s.regFld (encPage site e + 0x50) 0 16 ≤ (s.reg (encPage site e + 0x68)).toNat) &&
    !(skip && ks.any (fun k => s.splLine site k != 2 ^ 48 - 1 && decide (s.restartLine site g ≤ s.splLine site k))) &&
    (s.regBit (pacePage site g + 0x40) 2 || (match s.leader site g with | some a => s.axSource site a == 0 | none => false))

/-- L_r of a restart (16 R346, R353). -/
def State.restartAt (s : State) (site g : Nat) (skip : Bool) : Nat :=
  if skip then s.restartLine site g
  else match (s.grp site g).retake with
    | some (f, _) => f
    | none => (s.splicedStreams site g).foldl (fun m k => min m (if (s.strm site k).lost then s.primeLine site k else (s.splLine site k + 1) % 2 ^ 48)) (2 ^ 48 - 1)

/-- An accepted RESUME (16 R345, R346, R349). A retake that a cause had ended goes on as its next attempt. -/
def State.resumeGate (s : State) (site g : Nat) (skip : Bool) : State :=
  let s1 := s.beginRestart site g (s.restartAt site g skip)
  match (s.grp site g).retake with
  | some _ => if skip then (s1.setGrp site g { s1.grp site g with retake := none }).showRetake site g false 0 else (s1.setGrp site g { s1.grp site g with bad := false }).putBit (pacePage site g + 0x64) 5 true
  | none => s1

/-- A write of PC_CMD (16). -/
def State.pcCmd (s : State) (req site g : Nat) (val : Word) : State :=
  let p := pacePage site g
  if val &&& 0xFFFFFFF8#32 ≠ 0#32 then s.reject req p 0x78 2
  else if bitOf val 0 then
    if bitOf val 1 = true ∨ s.resumeOk site g (bitOf val 2) = false then s.reject req p 0x78 5
    else s.resumeGate site g (bitOf val 2)
  else if bitOf val 1 then (s.declareSplice site g 6 (s.splicePoint site g)).endRetake site g
  else s

/-- RESTART_RUN_UP (16 R346): the back-off has come to rest behind TP(L_r) - RUNUP and the leader runs up. -/
def execRestartRunUp (site g : Nat) (s : State) : Host.Outcome State Fault Refusal :=
  let gr := s.grp site g
  if s.isField site = true ∧ g < 8 ∧ (gr.stage = 1 ∨ gr.stage = 2) ∧ s.behind site g = true ∧ s.leaderVel site g = 0 then
    .next (s.setGrp site g { gr with stage := 3 })
  else .next s

/-- AUTO_RESUMED (16 R350): a pacing splice at rest with p_buf at or above 0.75 restarts by itself. -/
def execAutoResumed (site g : Nat) (s : State) : Host.Outcome State Fault Refusal :=
  let ks := s.splicedStreams site g
  if s.isField site = true ∧ g < 8 ∧ s.regBit (pacePage site g + 0x40) 1 = true ∧ ks ≠ [] ∧ ks.all (fun k => s.splCause site k == 1 && s.splState site k == 2) = true ∧
      49152 ≤ (s.pBuf site g ks).1 ∧ s.resumeOk site g false = true then
    .next ((s.resumeGate site g false).evt (pacePage site g) 3)
  else .next s

end Sys2Proof.Machine
end

