-- ==== Sys2Proof/Machine/Vision.lean ====
section
/-!
DEFINITION. Machine/Vision.lean: the filter, pyramid and match engines (12).
-/
namespace Sys2Proof.Machine



/-- A pixel of a format: 0 U8, 1 U16, 2 S16 (12 R248). -/
def pixOf (fmt x : Nat) : Int :=
  if fmt = 0 then (x % 256 : Nat) else if fmt = 1 then (x % 65536 : Nat) else if x % 65536 < 32768 then (x % 65536 : Nat) else (x % 65536 : Nat) - 65536
def rowPix (fmt n : Nat) (bs : List Byte) : List Int := (List.range n).map (fun i => pixOf fmt (leAt bs (i * vPix fmt) (vPix fmt)))
/-- Saturation to an output format, and whether it changed the value (12 R251). -/
def satPix (fmt : Nat) (x : Int) : Int × Bool :=
  let lo : Int := if fmt = 2 then -32768 else 0
  let hi : Int := if fmt = 0 then 255 else if fmt = 1 then 65535 else 32767
  if x < lo then (lo, true) else if hi < x then (hi, true) else (x, false)
def pixPut (fmt : Nat) (x : Int) : List Byte := leBytes (vPix fmt) (x % 65536).toNat

/-- A row's image at the border (12 R252): `none` is the constant. -/
def edgeIdx (border n : Nat) (x : Int) : Option Nat :=
  if 0 ≤ x ∧ x < n then some x.toNat
  else if border = 0 then some (if x < 0 then 0 else n - 1)
  else if border = 1 then
    (if n ≤ 1 then some 0
     else
       let m := (x % (2 * (n - 1) : Nat)).toNat
       some (if n ≤ m then 2 * (n - 1) - m else m))
  else none

/-- Rows held as (level, row, pixels): the pixel at a row and column of a level, rows below `lo` under the border rule. -/
def heldRow (rows : List (Nat × Nat × List Int)) (l r : Nat) : List Int :=
  match rows.find? (fun x => x.1 == l && x.2.1 == r) with
  | some x => x.2.2
  | none => []
def pixAt (rows : List (Nat × Nat × List Int)) (l border : Nat) (bval : Int) (w lo : Nat) (r x : Int) : Int :=
  let rr : Option Nat := if (lo : Int) ≤ r then some r.toNat else if border = 0 then some lo else if border = 1 then some (2 * lo - r).toNat else none
  match rr, edgeIdx border w x with
  | some a, some b => (heldRow rows l a).getD b 0
  | _, _ => bval

def insertInt (x : Int) : List Int → List Int
  | [] => [x]
  | y :: ys => if x ≤ y then x :: y :: ys else y :: insertInt x ys
def sortInt (l : List Int) : List Int := l.foldr insertInt []
def sumInt (l : List Int) : Int := l.foldl (· + ·) 0

/-- One output pixel of a filter from its window, row-major (12 R251), before saturation. `coef` are the S16 coefficients. -/
def filterPix (j : Job) (coef : List Int) (win : List Int) : Int :=
  let n := j.kw
  let idx := List.range win.length
  let dot (k : Nat → Int) : Int := sumInt (idx.map (fun i => k i * win.getD i 0))
  let off := pixOf 2 (j.p 2 2)
  let gx : Int := dot (fun i => [-1, 0, 1, -2, 0, 2, -1, 0, 1].getD i 0)
  let gy : Int := dot (fun i => [-1, -2, -1, 0, 0, 0, 1, 2, 1].getD i 0)
  if j.func = 0 then rneDiv (dot (fun i => coef.getD (i % n) 0 * coef.getD (n + i / n) 0)) (2 ^ 28) + off
  else if j.func = 1 then rneDiv (dot (fun i => coef.getD i 0)) (2 ^ 14) + off
  else if j.func = 2 then (sortInt win).getD (win.length / 2) 0
  else if j.func = 3 then win.foldl min (win.headD 0)
  else if j.func = 4 then win.foldl max (win.headD 0)
  else if j.func = 5 then gx
  else if j.func = 6 then gy
  else (gx.natAbs : Int) + gy.natAbs

/-- Lines by which a job's input trails its stripe: the rows a filter that feeds it has yet to publish (12 R250; log 52). -/
def jobLag (c : List Byte) (g : Nat) : Nat → Job → Nat
  | 0, _ => 0
  | f + 1, j =>
    match ((groupJobs c g).map decodeJob).find? (fun y => y.engine == 0 && y.done == j.trigIn) with
    | some y => y.kh / 2 + jobLag c g f y
    | none => 0

/-- The physical ring of a job's ring reference: one of the group's first core (log 52). -/
def Slate.engRing (y : Slate) (g a : Nat) : Nat × Nat × Nat :=
  match y.cores.find? (fun (c : Nat × Nat × Nat) => c.1 == 64 * g) with
  | some c => (c.2.1, c.2.2, a % 8)
  | none => (0, 64, a % 8)

/-- A flag of a job has reached a target (12 R248). -/
def State.flagReached (s : State) (y : Slate) (ref lead target : Nat) : Bool :=
  let f := y.flagAt (ref / 2 ^ 16 % 2 ^ 12) (ref % 1024)
  decide ((s.flagValue f.1 f.2 + lead + (65536 - target % 65536)) % 65536 < 32768)
def State.flagEpoch (s : State) (y : Slate) (ref : Nat) : Nat := let f := y.flagAt (ref / 2 ^ 16 % 2 ^ 12) (ref % 1024); s.bflag f.1 f.2 / 65536

/-- Whether the triggers of an engine's next unit are met: input, and output with ring space (12 R249). -/
def State.unitIn (s : State) (y : Slate) (x : Eng) (j : Job) : Bool :=
  if j.engine = 2 then (let q := y.cueAt (j.trigIn / 2 ^ 16 % 2 ^ 12) (j.trigIn % 64); !(s.cueLive q.1 q.2).isEmpty)
  else s.flagReached y j.trigIn 0 (x.unit + 1) && (!j.inRing || (let r := y.engRing x.group j.inp; decide (0 < s.ringCount r.1 r.2.1 r.2.2)))
def State.unitOut (s : State) (y : Slate) (x : Eng) (j : Job) : Bool :=
  (j.trigOut == 0xFFFFFFFF || s.flagReached y j.trigOut j.lead (x.unit + 1)) &&
    (j.engine == 1 || !isRing j.out || (let r := y.engRing x.group j.out; decide (0 < s.ringFree r.1 r.2.1 r.2.2)))

/-- ENG_STATUS, zeroed but for TENANT and CONF under a confidential tenant (12 R266). -/
def State.showEng (s : State) (site e : Nat) : State :=
  let x := s.eng site e
  let p := engPage site e + 0x40
  match s.slate x.handle with
  | none => s
  | some y =>
    if s.conf y.tenant then s.setNat p (y.tenant + 16)
    else
      let j := decodeJob x.job
      let wi := !x.busy && !s.unitIn y x j
      let wo := !x.busy && !wi && !s.unitOut y x j
      s.setNat p (y.tenant + (if x.busy then 32 else 0) + (if wi then 64 else 0) + (if wo then 128 else 0))

/-- Run an engine that holds a job of its kind and stands between units (12 R249, R265). -/
def State.onEngine (s : State) (site e kind : Nat) (k : State → Eng → Slate → Job → State) : State :=
  let x := s.eng site e
  match s.slate x.handle with
  | none => s
  | some y =>
    let j := decodeJob x.job
    if s.clocked site = true ∧ e < 6 ∧ e / 2 = kind ∧ s.st (engPage site e) = 2 ∧ x.job ≠ [] ∧ j.engine = kind ∧ y.faulted = false ∧ y.state ≠ 3 then k s x y j else s

/-- A bound fault or a contained error of an engine's unit (12 R260, R267). -/
def State.engBound (s : State) (site e kind addr limit : Nat) (x : Eng) : State := s.boundFault site kind 3 e (.stage x.handle) 0 addr limit

/-- Poisoned words of the line-buffer bytes that a job uses (12 R259). -/
def State.linePoison (s : State) (site e : Nat) (j : Job) : List Nat :=
  s.poison.filter (fun k => decide (ramKey (spLine site e) 0 ≤ k) && decide (k < ramKey (spLine site e) j.need))

/-- A unit begins on its line buffer (11 R239; 12 Control): a poisoned word that it reads is LB_UE, a fault of the engine and a
contained error of its stage; one that it overwrites first is clear (log 76). -/
def State.onLine (s : State) (site e : Nat) (x : Eng) (j : Job) (k : State → State) : State :=
  let ps := s.linePoison site e j
  if ps.isEmpty then k s
  else
    let s1 := s.draw
    if Config.lineRead s.free then (((s1.consumePoison site (pg site 0x0A) 0x0102).toFault (engPage site e) 0x0101 2)).contained (.stage x.handle) 0x0102
    else k { s1 with poison := s1.poison.filter (fun q => !ps.contains q) }

/-- T_unit of a job in ns (12 R261), rounded up: stripes at R_max, for a match the shortest frame. -/
def Job.unitNs (j : Job) (rmax : Nat) : Nat := cdiv ((if j.engine = 2 then j.linesMin else j.rows) * 10 ^ 9) (max 1 rmax)

/-- The slack in ns of an engine's transfer with `left` declared cycles of its unit still to run (12 R262; 10 R211). -/
def State.engSlack (s : State) (y : Slate) (x : Eng) (j : Job) (left : Nat) : Nat := 5 * x.begun + j.unitNs y.rmax - 5 * s.now - left

/-- The unit's input rows: where they start, with the epochs consumed (12 R249, R250). -/
def State.unitInput (s : State) (y : Slate) (x : Eng) (j : Job) : Nat × Nat × Nat × List Nat :=
  let ep := s.flagEpoch y j.trigIn
  if j.inRing then
    let r := y.engRing x.group j.inp
    let z := s.sring r.1 r.2.1 r.2.2
    let o := j.inp / 256 % 2 ^ 22 * 256
    (z.sp, s.slotAddr r.1 r.2.1 r.2.2 (s.ringHead r.1 r.2.1 r.2.2) + o, z.slotBytes - o, z.epochs.take 1 ++ [ep])
  else let a := y.groups.getD x.group {}; (spBin a.site, a.bin + j.inp, cBin y.cont - j.inp, [ep])

/-- A filter or pyramid unit begins (12 R249, R250): its triggers and its input are checked; `k` receives the first line of its
input, the carried rows with the unit's own, the first line of all and the epochs consumed. -/
def State.stripeUnit (s : State) (site e : Nat) (x : Eng) (y : Slate) (j : Job) (k : State → Nat → List (Nat × Nat × List Int) → Nat → List Nat → State) : State :=
  if x.busy = true ∨ s.unitIn y x j = false ∨ s.unitOut y x j = false then s
  else
    let px := vPix j.fin
    let inp := s.unitInput y x j
    let len := span j.rows (j.width * px) j.inStride
    if inp.2.2.1 < len then s.engBound site e (if j.inRing then 5 else 2) (if j.inRing then j.inp % 8 else max j.inp (cBin y.cont)) (if j.inRing then cRings y.cont else cBin y.cont) x
    else if s.poisoned inp.1 inp.2.1 len then s.eatPoison site (.stage x.handle) inp.1 inp.2.1
    else s.onLine site e x j (fun s =>
      let b := x.base.getD (x.unit, 0)
      let lag := jobLag y.cont x.group 4 j
      let first := b.2 + (x.unit - b.1) * j.rows
      let own := (List.range j.rows).filterMap (fun i =>
        if b.2 + lag ≤ first + i then some (0, first + i - lag, rowPix j.fin j.width (s.ramGet inp.1 (inp.2.1 + i * j.inStride) (j.width * px))) else none)
      k s (first - lag) (x.rows ++ own) b.2 inp.2.2.2)

/-- Where a filter or match unit's output starts, and the room there (12 R248). -/
def State.unitOutput (s : State) (y : Slate) (x : Eng) (j : Job) : Nat × Nat × Nat :=
  if isRing j.out then
    let r := y.engRing x.group j.out
    let z := s.sring r.1 r.2.1 r.2.2
    let o := j.out / 256 % 2 ^ 22 * 256
    (z.sp, s.slotAddr r.1 r.2.1 r.2.2 (s.ringTail r.1 r.2.1 r.2.2) + o, z.slotBytes - o)
  else let a := y.groups.getD x.group {}; (spBin a.site, a.bin + j.out, cBin y.cont - j.out)

/-- FILTER_UNIT (12 R249 to R252): every output row whose support has been received, each at its place in the unit's stripe of
output, which trails the input by half the kernel (log 52). -/
def execFilterUnit (site e : Nat) (s : State) : Host.Outcome State Fault Refusal :=
  .next (s.onEngine site e 0 (fun s x y j => s.stripeUnit site e x y j (fun s _ rows lo used =>
    let d := j.kh / 2
    let lag := jobLag y.cont x.group 4 j
    let b := x.base.getD (x.unit, 0)
    let stripe := b.2 + (x.unit - b.1) * j.rows
    let last := stripe + j.rows - 1 - lag
    let from_ := x.next.headD lo
    let n := if from_ + d ≤ last then last - d + 1 - from_ else 0
    let coef := rowPix 2 (if j.func = 0 then j.kw + j.kh else j.kw * j.kh) ((paramSec y.cont).drop (j.p 8 4))
    let bval := pixOf j.fin (j.p 4 2)
    let pixel (r c : Nat) : Int := filterPix j coef ((List.range j.kh).flatMap (fun (a : Nat) => (List.range j.kw).map (fun (v : Nat) =>
      pixAt rows 0 j.border bval j.width lo ((r + a : Nat) - (d : Int)) ((c + v : Nat) - ((j.kw / 2 : Nat) : Int)))))
    let outs : List (Nat × List (Int × Bool)) := (List.range n).map (fun i => (from_ + i, (List.range j.width).map (fun c => satPix j.fout (pixel (from_ + i) c))))
    let out := s.unitOutput y x j
    let place (r : Nat) : Nat := (r + lag + d - stripe) * j.outStride
    let rowLen := j.width * vPix j.fout
    match outs.find? (fun o => decide (out.2.2 < place o.1 + rowLen)) with
    | some _ => s.engBound site e (if isRing j.out then 5 else 2) (if isRing j.out then j.out % 8 else max j.out (cBin y.cont)) (if isRing j.out then cRings y.cont else cBin y.cont) x
    | none =>
      let writes := outs.map (fun o => (out.1, out.2.1 + place o.1, o.2.flatMap (fun v => pixPut j.fout v.1)))
      let sats := outs.foldl (fun m o => m + (o.2.filter (fun v => v.2)).length) 0
      let keep := rows.filter (fun r => decide (from_ + n ≤ r.2.1 + d))
      (s.setEng site e { x with busy := true, begun := s.now, saved := x.rows, savedNext := x.next, rows := keep, next := [from_ + n], used := used, cost := j.cycles (fun _ => 0), sats := sats, writes := writes, pubs := isRing j.out }).showEng site e)))

/-- Rows of a level that its predecessor's rows now give: (level, row, pixels) from `from_`, up to the last whose support has
been received (12 R253). `lo` is the predecessor's first row, `hi` its last row received + 1. -/
def pyrLevel (rows : List (Nat × Nat × List Int)) (l w lo hi from_ : Nat) : List (Nat × Nat × List Int) :=
  let n := if 2 * from_ + 3 ≤ hi then (hi - 3) / 2 + 1 - from_ else 0
  let wt : List Int := [1, 4, 6, 4, 1]
  (List.range n).map (fun i =>
    let r := from_ + i
    (l + 1, r, (List.range (lvlWidth w 1)).map (fun (c : Nat) =>
      rneDiv (sumInt ((List.range 5).flatMap (fun (a : Nat) => (List.range 5).map (fun (v : Nat) =>
        wt.getD a 0 * wt.getD v 0 * pixAt rows l 1 0 w lo ((2 * r + a : Nat) - 2) ((2 * c + v : Nat) - 2))))) 256)))

/-- The levels of a unit in turn: the rows of each, its next row, the level after it. -/
def pyrAll (w base : Nat) (next : List Nat) : Nat → Nat → Nat → List (Nat × Nat × List Int) → List (Nat × Nat × List Int) × List Nat
  | 0, _, _, rows => (rows, [])
  | f + 1, l, hi, rows =>
    let lo (i : Nat) : Nat := (base + 2 ^ i - 1) / 2 ^ i
    let from_ := next.getD l (lo (l + 1))
    let new := pyrLevel rows l (lvlWidth w l) (lo l) hi from_
    let r := pyrAll w base next f (l + 1) (from_ + new.length) (rows ++ new)
    (r.1, (from_ + new.length) :: r.2)

/-- Write a level row into its window: on-package bytes for a bin window, physical stack bytes for a tenant address (12 R253). -/
def State.lvlPlace (s : State) (y : Slate) (g : Nat) (v : Lvl) (r : Nat) (len : Nat) (write : Bool) : Except (Nat × Walk) (List (Nat × Nat × Nat)) :=
  let o := v.base + r % v.rows * v.stride
  if v.space = 2 then
    (List.range (len / 4096 + 2)).foldl (fun acc i =>
      match acc with
      | .error f => .error f
      | .ok ps =>
        let a := if i = 0 then o else (o / 4096 + i) * 4096
        if o + len ≤ a then .ok ps
        else match s.translate y.tenant a write .stack with
          | .stack dpa => .ok (ps ++ [(spStack, dpa, min (o + len) ((a / 4096 + 1) * 4096) - a)])
          | f => .error (a, f)) (.ok [])
  else let p := y.groups.getD g {}; .ok [(spBin p.site, p.bin + o, len)]

/-- Bytes cut into the runs of a place. -/
def cutWrites : List (Nat × Nat × Nat) → List Byte → List (Nat × Nat × List Byte)
  | [], _ => []
  | p :: ps, bs => (p.1, p.2.1, bs.take p.2.2) :: cutWrites ps (bs.drop p.2.2)

/-- Whether a level row's bin place breaks the group's window. -/
def lvlBroken (c : List Byte) (v : Lvl) (r len : Nat) : Bool := v.space != 2 && decide (cBin c < v.base + r % v.rows * v.stride + len)

/-- An engine stops on a level-window page that does not translate (12 R265; 11 R233). -/
def State.engPageStop (s : State) (site e ta : Nat) (write : Bool) (x : Eng) (f : Walk) : State :=
  let s1 := s.pageStop (.stage x.handle) 2 site e ta write f
  match f with
  | .absent _ => s1.halt (engPage site e)
  | _ => s1

/-- Gather the places of several level rows. -/
def State.lvlPlaces (s : State) (y : Slate) (g : Nat) (write : Bool) : List (Lvl × Nat × Nat) → Except (Nat × Walk) (List (List (Nat × Nat × Nat)))
  | [] => .ok []
  | q :: qs =>
    match s.lvlPlace y g q.1 q.2.1 q.2.2 write with
    | .error f => .error f
    | .ok p => match s.lvlPlaces y g write qs with
      | .error f => .error f
      | .ok ps => .ok (p :: ps)

/-- PYRAMID_UNIT (12 R249, R250, R253): each level's rows whose support has been received, written to the level windows. -/
def execPyramidUnit (site e : Nat) (s : State) : Host.Outcome State Fault Refusal :=
  .next (s.onEngine site e 1 (fun s x y j => s.stripeUnit site e x y j (fun s first rows lo used =>
    let lag := jobLag y.cont x.group 4 j
    let levels := j.p 0 1
    let b := x.base.getD (x.unit, 0)
    let hi := b.2 + (x.unit - b.1) * j.rows + j.rows - lag
    let r := pyrAll j.width lo x.next levels 0 hi rows
    let new := r.1.filter (fun q => if q.1 = 0 then decide (first ≤ q.2.1) else decide (x.next.getD (q.1 - 1) 0 ≤ q.2.1))
    let ws := new.filter (fun q => 0 < (j.lvl y.cont q.1).rows)
    let reqs : List (Lvl × Nat × Nat) := ws.map (fun q => (j.lvl y.cont q.1, q.2.1, q.2.2.length * vPix j.fout))
    match reqs.find? (fun q => lvlBroken y.cont q.1 q.2.1 q.2.2) with
    | some _ => s.engBound site e 2 (cBin y.cont) (cBin y.cont) x
    | none => match s.lvlPlaces y x.group true reqs with
      | .error f => s.engPageStop site e f.1 true x f.2
      | .ok ps =>
        let sat (q : List Int) : List (Int × Bool) := q.map (satPix j.fout)
        let writes := (List.range ws.length).flatMap (fun i => cutWrites (ps.getD i []) ((sat (ws.getD i (0, 0, [])).2.2).flatMap (fun v => pixPut j.fout v.1)))
        let keep := r.1.filter (fun q => decide (q.1 < levels) && decide (2 * r.2.getD q.1 0 ≤ q.2.1 + 2))
        (s.setEng site e { x with busy := true, begun := s.now, saved := x.rows, savedNext := x.next, rows := keep, next := r.2, used := used, cost := j.cycles (fun _ => 0), sats := 0, writes := writes, pubs := false }).showEng site e)))

/-- A frame at a level: its rows and width; pixels outside are replicated from its edge (12 R254). -/
structure Img where
  rows : List (List Int) := []
  w : Nat := 0
  deriving DecidableEq, Repr

def clampIdx (n : Nat) (x : Int) : Nat := if x < 0 then 0 else if (n : Int) ≤ x then n - 1 else x.toNat
def Img.at_ (m : Img) (r x : Int) : Int := (m.rows.getD (clampIdx m.rows.length r) []).getD (clampIdx m.w x) 0

/-- Sum of absolute differences of a block of `a` at (y, x) and of `b` displaced by (dy, dx) (12 R254). -/
def sad (a b : Img) (y x : Int) (h w : Nat) (d : Int × Int) : Nat :=
  (List.range h).foldl (fun n (i : Nat) => (List.range w).foldl (fun n (k : Nat) => n + (a.at_ (y + i) (x + k) - b.at_ (y + i + d.1) (x + k + d.2)).natAbs) n) 0

/-- What a search gives: integer offset and vector in 1/16 pixel as (dy, dx), the least cost, whether it lies on the window's
edge, and the least cost at Chebyshev distance 2 or more from it. -/
structure Found where
  best : Int × Int := (0, 0)
  vec : Int × Int := (0, 0)
  cost : Nat := 0
  edge : Bool := false
  far : Option Nat := none
  deriving DecidableEq, Repr

def cheb (a b : Int × Int) : Nat := max (a.1 - b.1).natAbs (a.2 - b.2).natAbs

/-- The sub-pixel step in 1/16 pixel (12 R255). -/
def subStep (cm c0 cp : Nat) : Int :=
  let den : Int := (cm : Int) - 2 * c0 + cp
  let num : Int := 8 * ((cm : Int) - cp)
  let q := if den = 0 then 0 else if den < 0 then rneDiv (-num) den.natAbs else rneDiv num den.natAbs
  max (-8) (min 8 q)

/-- Full search of a window (12 R254, R255): least cost, then least Chebyshev distance from the centre, then lower dy, then
lower dx. -/
def search (a b : Img) (y x : Int) (h w : Nat) (c : Int × Int) (ry rx : Nat) : Found :=
  let cands : List (Int × Int) := (List.range (2 * ry + 1)).flatMap (fun (i : Nat) => (List.range (2 * rx + 1)).map (fun (k : Nat) => (c.1 + i - ry, c.2 + k - rx)))
  let costs : List ((Int × Int) × Nat) := cands.map (fun d => (d, sad a b y x h w d))
  let less (p q : (Int × Int) × Nat) : Bool := decide (p.2 < q.2) || (p.2 == q.2 && decide (cheb p.1 c < cheb q.1 c))
  let best := costs.foldl (fun m q => if less q m then q else m) (costs.headD ((c, 0)))
  let at_ (d : Int × Int) : Nat := match costs.find? (fun q => q.1 == d) with | some q => q.2 | none => 0
  let ey := (best.1.1 - c.1).natAbs == ry
  let ex := (best.1.2 - c.2).natAbs == rx
  let sy := if ey then 0 else subStep (at_ (best.1.1 - 1, best.1.2)) best.2 (at_ (best.1.1 + 1, best.1.2))
  let sx := if ex then 0 else subStep (at_ (best.1.1, best.1.2 - 1)) best.2 (at_ (best.1.1, best.1.2 + 1))
  let far := (costs.filter (fun q => decide (2 ≤ cheb q.1 best.1))).map (fun q => q.2)
  { best := best.1, vec := (16 * best.1.1 + sy, 16 * best.1.2 + sx), cost := best.2, edge := ey || ex, far := match far with | [] => none | z :: zs => some (zs.foldl min z) }

/-- The block grid of a level: columns and rows (12 R254). -/
def Img.grid (m : Img) (b : Nat) : Nat × Nat := (cdiv m.w b, cdiv m.rows.length b)
def Img.block (m : Img) (b i : Nat) : Nat × Nat × Nat × Nat :=
  let g := m.grid b
  let bx := i % g.1
  let by_ := i / g.1
  (by_ * b, bx * b, min b (m.rows.length - by_ * b), min b (m.w - bx * b))

/-- One level of a match (12 R254): a found vector per block, centred on the prediction or on the parents' vectors. -/
def matchLevel (cur ref : Img) (b ry rx : Nat) (centre : Nat → Nat → Int × Int) : List Found :=
  let g := cur.grid b
  (List.range (g.1 * g.2)).map (fun i => let k := cur.block b i; search cur ref k.1 k.2.1 k.2.2.1 k.2.2.2 (centre (i % g.1) (i / g.1)) ry rx)

/-- The levels of a match from the coarsest down: the blocks found at each, with the finest last. -/
def matchLevels (j : Job) (img : Nat → Img × Img) (centre : Nat → Nat → Int × Int) : Nat → Nat → List Found
  | 0, l => matchLevel (img l).1 (img l).2 j.bsz j.rcy j.rcx centre
  | f + 1, l =>
    let up := matchLevels j img centre f (l + 1)
    let g := (img (l + 1)).1.grid j.bsz
    matchLevel (img l).1 (img l).2 j.bsz j.rf j.rf (fun bx by_ =>
      let p := up.getD (min (by_ / 2) (g.2 - 1) * g.1 + min (bx / 2) (g.1 - 1)) {}
      (rneDiv p.vec.1 8, rneDiv p.vec.2 8))

/-- CONF and FLAGS of a block from its forward result and its backward vector (12 R256). -/
def confFlags (j : Job) (f : Found) (vb : Int × Int) (part : Bool) : Nat × Nat :=
  let e := min 255 (max (f.vec.1 + vb.1).natAbs (f.vec.2 + vb.2).natAbs)
  let tlo := j.p 7 1
  let thi := j.p 8 1
  let flat := match f.far with | some c => decide (c < f.cost + j.p 10 2 * j.bsz * j.bsz) | none => false
  let inc := decide (thi ≤ e)
  let conf := if f.edge || flat || inc then 0 else if e ≤ tlo then 255 else 255 * (thi - e) / (thi - tlo)
  (conf, (if f.edge then 1 else 0) + (if flat then 2 else 0) + (if inc then 4 else 0) + (if part then 16 else 0))

/-- The backward vector of a block (12 R256). -/
def backward (j : Job) (cur ref : Img) (k : Nat × Nat × Nat × Nat) (f : Found) : Int × Int :=
  let r := (rneDiv f.vec.1 16, rneDiv f.vec.2 16)
  (search ref cur (k.1 + r.1) (k.2.1 + r.2) k.2.2.1 k.2.2.2 (-r.1, -r.2) j.cr j.cr).vec

/-- The slot a match unit writes: motion, then confidence from the next 64-byte boundary (12 R257). -/
def matchSlot (motion : List (Int × Int)) (cf : List (Nat × Nat)) : List Byte :=
  let m := motion.flatMap (fun v => pixPut 2 v.2 ++ pixPut 2 v.1)
  m ++ List.replicate ((64 - m.length % 64) % 64) 0#8 ++ cf.flatMap (fun q => leBytes 1 q.1 ++ leBytes 1 q.2)

/-- A frame descriptor (12 Match): FRAME_INDEX, FIRST_LINE, LAST_LINE, REF_FIRST_LINE, REF_LAST_LINE, REF_VALID, PRED_DY, PRED_DX, as
the cue delivers it beside its handle (log 53). -/
structure FDesc where
  idx : Nat := 0
  first : Nat := 0
  last : Nat := 0
  refFirst : Nat := 0
  refLast : Nat := 0
  valid : Bool := false
  dy : Int := 0
  dx : Int := 0
  deriving DecidableEq, Repr

def decodeFDesc (h : Nat) : FDesc :=
  let b := leBytes 64 (h / 2 ^ 64)
  { idx := leAt b 0 4, first := leAt b 4 6, last := leAt b 10 6, refFirst := leAt b 16 6, refLast := leAt b 22 6, valid := leAt b 28 1 == 1,
    dy := (BitVec.ofNat 32 (leAt b 29 4)).toInt, dx := (BitVec.ofNat 32 (leAt b 33 4)).toInt }

/-- The rows a match reads at a level, current frame then reference (12 R254). -/
def matchRows (j : Job) (c : List Byte) (d : FDesc) (l : Nat) : List (Lvl × Nat × Nat) :=
  let rows (a b : Nat) : List (Lvl × Nat × Nat) := (List.range (b / 2 ^ l + 1 - a / 2 ^ l)).map (fun i => (j.lvl c l, a / 2 ^ l + i, lvlWidth j.width l * vPix j.fin))
  rows d.first d.last ++ rows d.refFirst d.refLast

/-- Bytes gathered from the runs of a place. -/
def State.gather (s : State) (ps : List (Nat × Nat × Nat)) : List Byte := ps.flatMap (fun p => s.ramGet p.1 p.2.1 p.2.2)

/-- Begin a match unit's output of `bytes` (12 R249, R257). -/
def State.matchBegin (s : State) (site e : Nat) (x : Eng) (y : Slate) (j : Job) (q : Nat × Nat) (h : Nat) (rest : List Nat) (cost : Nat) (bytes : List Byte) : State :=
  let out := s.unitOutput y x j
  if out.2.2 < bytes.length then s.engBound site e 5 (j.out % 8) (cRings y.cont) x
  else
    ((s.setCue q.1 q.2 rest).setEng site e { x with busy := true, begun := s.now, saved := x.rows, savedNext := x.next, used := [handleEpoch h], cost := cost, sats := 0, writes := [(out.1, out.2.1, bytes)], pubs := true }).showEng site e

/-- MATCH_UNIT (12 R249, R254 to R258): a frame registered against its reference. -/
def execMatchUnit (site e : Nat) (s : State) : Host.Outcome State Fault Refusal :=
  .next (s.onEngine site e 2 (fun s x y j =>
    if x.busy = true ∨ s.unitIn y x j = false ∨ s.unitOut y x j = false then s
    else
      let q := y.cueAt (j.trigIn / 2 ^ 16 % 2 ^ 12) (j.trigIn % 64)
      match s.cueLive q.1 q.2 with
      | [] => s
      | h :: rest => s.onLine site e x j (fun s =>
        let d := decodeFDesc h
        let n := d.last + 1 - d.first
        let bad := decide (n < j.linesMin) || decide (j.linesMax < n)
        let nb (l : Nat) : Nat := let g := blocksAt j.width l j.bsz d.first d.last; g.1 * g.2
        let worst := cdiv (lvlWidth j.width j.lvlF) j.bsz * cdiv (cdiv j.linesMax (2 ^ j.lvlF)) j.bsz
        if bad then
          -- the motion of a bad frame with a reference is not stated: a free value of its inputs; its blocks count as the longest
          -- frame's, so that it is no overrun (log 54)
          let m : List (Int × Int) := (List.range worst).map (fun i =>
            let v := (Config.badMotion x.job (h / 2 ^ 64) i).toNat
            if d.valid then (pixOf 2 (v / 65536), pixOf 2 (v % 65536)) else (0, 0))
          let s2 := (s.evtIf (!d.valid) (engPage site e) 2).evt (engPage site e) 3
          s2.matchBegin site e x y j q h rest j.worst (matchSlot m (List.replicate worst (0, 32 + (if d.valid then 0 else 8))))
        else if d.valid = false then
          let s1 := s.evt (engPage site e) 2
          s1.matchBegin site e x y j q h rest (j.cycles nb) (matchSlot (List.replicate (nb j.lvlF) (0, 0)) (List.replicate (nb j.lvlF) (0, 8)))
        else
          let ls := (List.range (j.lvlC + 1 - j.lvlF)).map (fun i => j.lvlF + i)
          let reqs := ls.flatMap (matchRows j y.cont d)
          if reqs.any (fun r => r.1.rows == 0 || lvlBroken y.cont r.1 r.2.1 r.2.2) then s.engBound site e 2 (cBin y.cont) (cBin y.cont) x
          else match s.lvlPlaces y x.group false reqs with
            | .error f => s.engPageStop site e f.1 false x f.2
            | .ok ps =>
              match ps.findSome? (fun p => p.find? (fun r => s.poisoned r.1 r.2.1 r.2.2)) with
              | some r => s.eatPoison site (.stage x.handle) r.1 r.2.1
              | none =>
                let rowsOf (l : Nat) : List (List Int) := ((List.range reqs.length).filter (fun i => (ls.flatMap (fun m => List.replicate (matchRows j y.cont d m).length m)).getD i 0 == l)).map (fun i =>
                  rowPix j.fin (lvlWidth j.width l) (s.gather (ps.getD i [])))
                let img (l : Nat) : Img × Img :=
                  let r := rowsOf l
                  let k := d.last / 2 ^ l + 1 - d.first / 2 ^ l
                  ({ rows := r.take k, w := lvlWidth j.width l }, { rows := r.drop k, w := lvlWidth j.width l })
                let c : Int × Int := (rneDiv d.dy (2 ^ (8 + j.lvlC)), rneDiv d.dx (2 ^ (8 + j.lvlC)))
                let fs := matchLevels j img (fun _ _ => c) (j.lvlC - j.lvlF) j.lvlF
                let fine := img j.lvlF
                let cf := (List.range fs.length).map (fun i =>
                  let f := fs.getD i {}
                  let k := fine.1.block j.bsz i
                  confFlags j f (backward j fine.1 fine.2 k f) (decide (k.2.2.1 < j.bsz) || decide (k.2.2.2 < j.bsz)))
                let m := fs.map (fun f => ((satPix 2 (f.vec.1 * 2 ^ j.lvlF)).1, (satPix 2 (f.vec.2 * 2 ^ j.lvlF)).1))
                s.matchBegin site e x y j q h rest (j.cycles nb) (matchSlot m cf))))

/-- UNIT_DONE (12 R249, R260, R262, R263, R266): the unit's writes are readable; its output is published, its input slot released and 1
added to DONE. Its counted cycles hold waits at arbitration, a free value within CYC_UNIT (log 73); its writes are taken as granted here,
with no declared cycles left (log 75). -/
def execUnitDone (site e : Nat) (s : State) : Host.Outcome State Fault Refusal :=
  .next (s.onEngine site e (e / 2) (fun s x y j =>
    if x.busy = false ∨ j.cyc < x.cost ∨ x.writes.any (fun w => s.zeroing w.1 w.2.1) = true then s
    else if x.writes.any (fun w => !s.ownsAt y.tenant w.1 w.2.1) = true then s.contained (.stage x.handle) 0x0104
    else
      let p := engPage site e
      let cost := x.cost + Config.bankStall s.free % (j.cyc + 1 - x.cost)
      let miss := s.engSlack y x j 0 == 0 && !s.conf y.tenant
      match x.used.find? (fun ep => s.cancelled site ep) with
      | some ep => s.abandonEngs site ep
      | none =>
        let ep := x.used.headD 0
        let s0 := if miss then (s.draw.addSat (movePage site + 0x50) 1).evt (movePage site) 0 else s.draw
        let s1 := x.writes.foldl (fun s w => s.ramWrite w.1 w.2.1 w.2.2) s0
        let s2 := if x.pubs then (let r := y.engRing x.group j.out; s1.publish r.1 r.2.1 r.2.2 ep) else s1
        let s3 := if j.engine < 2 ∧ j.inRing = true then (let r := y.engRing x.group j.inp; s2.release r.1 r.2.1 r.2.2) else s2
        let f := y.flagAt (j.done / 2 ^ 16 % 2 ^ 12) (j.done % 1024)
        let s4 := s3.flagSet f.1 f.2 1 ep true
        let s5 := s4.setEng site e { x with busy := false, unit := x.unit + 1, saved := [], savedNext := [], used := [], writes := [], sats := 0, cost := 0, pubs := false }
        let s6 := if s.conf y.tenant then s5
          else ((((s5.addWrap (p + 0x48) 1).setNat (p + 0x4C) cost).setNat (p + 0x50) (max cost (s.reg (p + 0x50)).toNat)).addSat (p + 0x54) x.sats)
        ((s6.showEng site e).evt p 0).evtIf (decide (0 < x.sats)) p 4))

/-- UNIT_OVERRUN (12 R260, R267): the unit's counted cycles, with the waits at arbitration, have passed CYC_UNIT. -/
def execUnitOverrun (site e : Nat) (s : State) : Host.Outcome State Fault Refusal :=
  .next (s.onEngine site e (e / 2) (fun s x _ j =>
    if x.busy = false then s
    else
      let s1 := s.setEng site e { x with busy := false, rows := x.saved, next := x.savedNext, used := [], writes := [], sats := 0, cost := 0, pubs := false }
      (s1.toFault (engPage site e) 0x0100 2).engBound site e 8 (max x.cost (j.cyc + 1)) j.cyc x))

/-- CLR_MAX (12 Control): ENG_CMD. -/
def execClrMax (req site e : Nat) (val : Word) (s : State) : Host.Outcome State Fault Refusal :=
  .next (if e < 6 then
    s.asWrite (0x49 + e / 2) req site (0x60 + e) 0x58 (fun s =>
      if val &&& 0xFFFFFFFE#32 ≠ 0#32 then s.reject req (engPage site e) 0x58 2
      else if bitOf val 0 then s.setNat (engPage site e + 0x50) 0 else s) else s)

end Sys2Proof.Machine
end

