-- ==== Sys2Proof/Machine/Pipe.lean ====
section
/-!
DEFINITION. Machine/Pipe.lean: slots dispatched to a pipeline, PIPE_SET, the frame detector and the assembly of frame
records (13 R281; 14).
-/
namespace Sys2Proof.Machine

/-- The tag of a row (13 R281). -/
def rowTag (str : Nat) (r : LRow) : List Byte :=
  leBytes 6 r.line ++ leBytes 1 r.flags ++ leBytes 1 str ++ leInt 6 r.pos ++ leBytes 2 r.unc ++ leBytes 4 r.ns ++ leBytes 4 r.sec ++ List.replicate 8 0#8

/-- The entry stage of a stream's pipeline. -/
def State.entryStage (s : State) (site k : Nat) : Option Slate :=
  match (s.strm site k).pipe with
  | some b => (match b.stages with | st :: _ => s.slate st.1 | [] => none)
  | none => none

/-- PRIME_DONE once the first line after WATERMARK is dispatched (14 R308). -/
def State.primeDone (s : State) (site k : Nat) (rows : List LRow) : State :=
  let x := s.strm site k
  if x.priming = true ∧ rows.any (fun r => decide (s.watermark site k < r.line)) = true then
    ((s.setStrm site k { x with priming := false }).evt (pipePage site k) 3).showPipe site k
  else s

/-- The engines of a pipeline whose rows have no base yet count them from this line (12 R253; 14 R290). -/
def State.baseEngines (s : State) (site k line : Nat) : State :=
  match (s.strm site k).pipe with
  | none => s
  | some b => b.stages.foldl (fun s st => match s.slate st.1 with
    | none => s
    | some y => y.engs.foldl (fun s e => let x := s.eng e.1 e.2
      if x.base.isNone then s.setEng e.1 e.2 { x with base := some (x.unit, line) } else s) s) s

/-- Whether a stream that stops takes no line any more: none of its own is being read out. -/
def State.lineDone (s : State) (site k : Nat) : Bool :=
  match (s.gate site (k / 2)).cur with | some c => !c.takers.contains k | none => true

/-- A stream-class transfer granted with its slack run out counts on its die (10 R211). -/
def State.slackMissed (s : State) (die slack : Nat) : State := if slack = 0 then (s.addSat (movePage die + 0x50) 1).evt (movePage die) 0 else s

/-- SLOT_PUBLISH (13 R281, R288; 14 R290, R292, R311): a full slot of final lines, or the last one of a stream that stops, is
written, published and dispatched to the entry cue. Rows of a pass-through ring are taken by the writer as their records
are held (log 31). -/
def State.slotPublish (s0 : State) (site k : Nat) : State :=
  let stopping := s0.st (strPage site k) == 3 && s0.lineDone site k
  let s := if stopping then s0.finalRows site k true else s0
  let x := s.strm site k
  let n := s.slotRows site k
  let last := stopping && decide (x.rows.length ≤ n)
  let rows := x.rows.take n
  let done (s1 : State) : State :=
    let s2 := s1.setStrm site k { s1.strm site k with rows := x.rows.drop n, prev := match rows.getLast? with | some r => r.vals | none => x.prev, pub := x.pub + 1 }
    ((s2.primeDone site k rows).showStream site k).showFifo site (k / 2)
  if s.isField site = false ∨ 16 ≤ k ∨ n = 0 ∨ rows.isEmpty = true ∨ (rows.length < n ∧ last = false) ∨ rows.all (fun r => r.final) = false ∨ s.destFree site k = 0 then s0
  else if s.passThrough site k then done (s.slackMissed (s.destSite site k) (s.gateSlack site (k / 2)))
  else match s.entryStage site k with
    | none => s0
    | some y =>
      let dst := (s.destSite site k, s.destCore site k, s.destRing site k)
      let q := y.cueAt 0 0
      if 64 ≤ (s.cue q.1 q.2).length then s0
      else
        let ep := if y.disp = 0 then (y.epoch, s) else s.allocEpoch (y.groups.headD {}).site
        let r := ep.2.sring dst.1 dst.2.1 dst.2.2
        let data := rows.flatMap (fun r => r.data)
        let bytes := (padTo (n * ((rows.headD {}).data).length) data ++ rows.flatMap (rowTag (packageStream s.asm site k))).take r.slotBytes
        let a := ep.2.slotAddr dst.1 dst.2.1 dst.2.2 (ep.2.ringTail dst.1 dst.2.1 dst.2.2)
        let first := (rows.headD {}).line
        let s1 := ((ep.2.ramWrite r.sp a bytes).publish dst.1 dst.2.1 dst.2.2 ep.1).baseEngines site k first
        let prime := x.priming && rows.any (fun r => decide (r.line ≤ s.watermark site k))
        let tag := (if first = x.l0.getD 0 then 1 else 0) + (if last then 2 else 0) + (if prime then 4 else 0)
        let h := mkHandle (a - (y.groups.headD {}).bin) (data.length / 64) tag ep.1
        let s2 := (s1.slackMissed dst.1 (s.gateSlack site (k / 2))).setCue q.1 q.2 (s1.cue q.1 q.2 ++ [h])
        let s3 := s2.setSlate { y with disp := y.disp + 1, backlog := if y.disp = 0 then y.backlog else y.backlog ++ [ep.1] }
        done s3

def execSlotPublish (site str : Nat) (s : State) : Host.Outcome State Fault Refusal := .next (s.slotPublish site str)

/-- PIPE_SET's request: stage and layer entries (14). -/
def State.pipeStages (s : State) (t n : Nat) : List (Nat × Nat) := (List.range n).map (fun i => (s.mbArg t (8 + 8 * i) 4, s.mbArg t (12 + 8 * i) 1))
def State.pipeLayers (s : State) (t nst n : Nat) : List LayerDef := (List.range n).map (fun i =>
  let a := 8 + 8 * nst + 12 * i
  { kind := s.mbArg t a 1, source := s.mbArg t (a + 1) 1, stage := s.mbArg t (a + 2) 1, index := s.mbArg t (a + 3) 1, rowBytes := s.mbArg t (a + 4) 4, format := s.mbArg t (a + 8) 2, part := s.mbArg t (a + 10) 1 })

/-- LAG (14 R296). -/
def State.pipeLag (s : State) (site k : Nat) (ys : List Slate) : Nat :=
  let h := (stageDecl (match ys with | y :: _ => y.cont | [] => [])).1
  let jobs := ys.flatMap (fun y => (secRecs y.cont 11 64).map (fun r => decodeJob r.2.2.2))
  ys.foldl (fun n y => n + 2 * h + (stageDecl y.cont).2.1) 0
    + jobs.foldl (fun n j => n + if j.engine = 2 then 2 ^ (j.lvlC + 1) + h + j.linesMin else h) 0
    + (if s.perfEn site k then s.perfWin site k + h else 0)

/-- HOLD_LINES (14 R297). -/
def State.holdLines (s : State) (site k : Nat) (y : Slate) : Nat :=
  let sd := stageDecl y.cont
  let slots := match entryRing y.cont with | some e => e.slots | none => 0
  (slots - 1 - (if sd.2.1 = 0 then 0 else 1)) * sd.1 + s.fifoLines site k 0

/-- Whether a layer breaks R302. -/
def layerBad (ys : List Slate) (l : LayerDef) : Bool :=
  match (if l.stage = 0 then none else ys[l.stage - 1]?) with
  | none => true
  | some y =>
    decide (2 < l.source) || decide (4 < l.kind) || decide (1 < l.part) || (l.source != 2 && l.part != 0) ||
      (if l.source = 2 then !((ringDecls y.cont).any (fun r => r.core == 0 && r.ring == l.index)) || !(ringUsers y.cont 0 l.index false).isEmpty else decide (cCues y.cont ≤ l.index)) ||
      (l.source == 0 && (l.rowBytes % 64 != 0 || l.rowBytes == 0))

/-- Whether two layers share a source other than as the two PARTs of one ring, or a source has another reader (14 R302). -/
def layersClash (ls : List LayerDef) (taken : List (Nat × Nat)) : Bool :=
  let n := ls.length
  (List.range n).any (fun i =>
    let a := ls.getD i {}
    (a.source != 2 && (taken.contains (a.stage, a.index) || a.index == 0)) ||
      (List.range i).any (fun m => let b := ls.getD m {}
        a.stage == b.stage && a.index == b.index && (a.source == 2) == (b.source == 2) && !(a.source == 2 && a.part != b.part)))

/-- The refusals of a binding PIPE_SET, 0 for none (14 R295, R302; 20 R415). -/
def State.pipeRefusal (s : State) (t site k perf perfCue match_ matchCue : Nat) (stages : List (Nat × Nat)) (ls : List LayerDef) : Nat :=
  let got := stages.map (fun st => s.ownSlate t st.1)
  let ys := got.filterMap id
  let h := (stageDecl (match ys with | y :: _ => y.cont | [] => [])).1
  let g0 (y : Slate) : Nat := (y.groups.headD {}).site
  let linkBad := (List.range (ys.length - 1)).any (fun i =>
    let a := ys.getD i {}
    let b := ys.getD (i + 1) {}
    let link := (stages.getD (i + 1) (0, 0)).2
    if link = 0 then g0 a != g0 b || decide (cCues a.cont < 2) || decide (cCues b.cont < 1)
    else if link = 1 then leAt a.cont 7 1 % 2 == 1 || decide (cFlags a.cont < 3) || decide (cFlags b.cont < 3)
    else true)
  if got.any Option.isNone ∨ stages.isEmpty = true ∨ 8 < stages.length ∨ 5 < ls.length ∨ stages.length < perf ∨ stages.length < match_
      ∨ (stages.map (fun st => st.1)).eraseDups.length ≠ stages.length
      ∨ ys.any (fun y => y.kind != 2 || y.state != 1 || y.faulted || streamSite s.asm y.stream != site || y.stream % 16 != k || y.stream != packageStream s.asm site k) = true
      ∨ (match ys with | y :: _ => (entryRing y.cont).isNone | [] => true) = true then 0x131
  else if ys.any (fun y => (stageDecl y.cont).1 != h) then 0x132
  else if linkBad then 0x133
  else
    let taken := (if perf = 0 then [] else [(perf, perfCue)]) ++ (List.range ys.length).map (fun i => (i + 2, 0))
    if ls.any (layerBad ys) ∨ layersClash ls taken = true ∨ (0 < perf ∧ (ys[perf - 1]?.map (fun y => cCues y.cont)).getD 0 ≤ perfCue)
        ∨ (0 < match_ ∧ (ys[match_ - 1]?.map (fun y => cCues y.cont)).getD 0 ≤ matchCue) then 0x134
    else 0

/-- Join each stage's exit to the next one's entry (14 R294). -/
def linkStages (stages : List (Nat × Nat)) (ys : List Slate) : List Slate :=
  (List.range ys.length).map (fun i =>
    let y := ys.getD i {}
    let pre := ys.getD (i - 1) {}
    let nxt := ys.getD (i + 1) {}
    let cueIn := if i ≠ 0 ∧ (stages.getD i (0, 0)).2 = 0 then (let c := pre.cueAt 0 1; [(0, c.1, c.2)]) else []
    let flagIn := if i ≠ 0 ∧ (stages.getD i (0, 0)).2 = 1 then (let c := pre.flagAt 0 1; [(0, c.1, c.2)]) else []
    let flagOut := if i + 1 < ys.length ∧ (stages.getD (i + 1) (0, 0)).2 = 1 then (let c := nxt.flagAt 0 2; [(2, c.1, c.2)]) else []
    { y with cues := cueIn, flags := flagIn ++ flagOut, pre := if i = 0 then none else some (pre.handle, (stages.getD i (0, 0)).2 == 1), seen := [] })

/-- Start a stage at its first op (07 R153; 09 R177). -/
def State.startStage (s : State) (y : Slate) : State :=
  let w := Work.stage y.handle
  let ep := (s.freshBnd w).allocEpoch (y.groups.headD {}).site
  let s1 := ep.2.setSlate { y with epoch := ep.1, running := true, halted := false, stripe := 0, disp := 0, backlog := [], took := [] }
  let s2 := y.cores.foldl (fun s c => s.giveCore w y.cont ((y.groups.getD (c.1 / 64) {}).bin) c) (s1.dropNodes w)
  s2.installTrees w y.cont

/-- A stage that is no longer bound gives its cores back to its slate's reservation. -/
def State.stopStage (s : State) (h : Nat) : State :=
  match s.slate h with
  | none => s
  | some y =>
    let w := Work.stage h
    let s1 := ((s.cancelOn (s.conf y.tenant) y.epoch (s.workDies w)).dropNodes w).dropUnits y.tenant (fun u => u.work == some w)
    let s2 := y.cores.foldl (fun s c => s.freeCore c.2.1 c.2.2) s1
    s2.setSlate { y with running := false, halted := false, cues := [], flags := [], stripe := 0, disp := 0, backlog := [], took := [], pre := none, seen := [] }

def State.unbind (s : State) (site k : Nat) : State :=
  match (s.strm site k).pipe with
  | none => s
  | some b =>
    let s1 := b.stages.foldl (fun s st => s.stopStage st.1) s
    (((s1.setStrm site k { s1.strm site k with pipe := none }).setNat (pipePage site k + 0x5C) 0).showStream site k).showPipe site k

/-- After a loss the frame layers, the descriptors and the reports go on from the prime line (14 R308): frames after W_f are made anew
from the lines captured again, but a held frame's missing layers are ABSENT (14 R312). -/
def State.rebind (s : State) (site k : Nat) : State :=
  let x := s.strm site k
  match x.pipe with
  | none => s
  | some b =>
    let p := s.primeLine site k
    let kp := if b.stripeH = 0 then 0 else (p - x.l0.getD 0) / b.stripeH
    let again (f : Frame) : Frame :=
      let held := s.frameDue site k f && !(f.missing b.layers).isEmpty
      { f with pushed := false, layers := (List.range b.layers.length).map (fun i =>
          let y := f.layers.getD i (0, 0, false, false)
          if held = false then (y.1, 0, false, y.2.2.2) else if f.layerDone (b.layers.getD i {}) i then y else (y.1, 0, false, true)) }
    let fs := x.frames.map again
    let nextF := match fs with | f :: _ => f.idx | [] => x.fidx
    let wf := (s.reg (pipePage site k + 0x70)).toNat + s.regFld (pipePage site k + 0x74) 0 16 * 2 ^ 32
    s.setStrm site k { x with frames := fs, layerNext := b.layers.map (fun l => if l.source = 0 then p else nextF), reports := if kp = 0 then [] else [(kp - 1, [])], parts := [],
                              refF := if x.dFrame.isSome then some (wf, s.watermark site k) else none }

/-- DRAIN_BPL as firmware sets it (16 R336): the ROWS_CUE layers' bytes of a line, and its LINE record. -/
def State.drainBpl (s : State) (site k : Nat) (ls : List LayerDef) : Nat :=
  let rec_ := s.regFld (drPage (s.ringOf site k) + 0x44) 1 2
  ls.foldl (fun n l => if l.source = 0 then n + l.rowBytes else n) 0 + (if rec_ = 0 then 0 else 64) + (if rec_ = 2 then s.lineBytes site k else 0)

/-- Bind a pipeline (14 R294, R296): its links, layers, LAG and DRAIN_BPL, and its stages at their first op. -/
def State.bind (s : State) (t site k : Nat) (stages : List (Nat × Nat)) (ls : List LayerDef) (perf perfCue match_ matchCue lag hold : Nat) : State :=
  let s0 := s.unbind site k
  let ys := linkStages stages (stages.filterMap (fun st => s0.slate st.1))
  let h := (stageDecl (match ys with | y :: _ => y.cont | [] => [])).1
  let halo := (stageDecl (match ys with | y :: _ => y.cont | [] => [])).2.1
  let s1 := ys.foldl (fun s y => s.startStage y) s0
  let b : PipeB := { stages := stages, layers := ls, perfStage := perf, perfCue := perfCue, matchStage := match_, matchCue := matchCue, lag := lag, hold := hold, stripeH := h, halo := halo, tenant := t }
  let s2 := s1.setStrm site k { s1.strm site k with pipe := some b }
  let s3 := (s2.setNat (pipePage site k + 0x5C) lag).setNat (strPage site k + 0xA8) (s.drainBpl site k ls)
  let s4 := if (s.strm site k).lost then s3.rebind site k else s3
  (s4.showStream site k).showPipe site k

/-- PIPE_SET (14 R294 to R297, R308, R312; 20 R415). A stream HALTED at a splice whose pipeline is lost takes a new binding. -/
def execPipeSet (t : Nat) (s : State) : Host.Outcome State Fault Refusal :=
  let n := s.mbArg t 1 1
  let m := s.mbArg t 2 1
  .next (s.mbServe t 0x30 (8 + 8 * n + (if n = 0 then 0 else 12 * m)) (fun s =>
    let str := s.mbArg t 0 1
    let site := streamSite s.asm str
    let k := str % 16
    if streamCount s.asm ≤ str then s.mbReply t 0x131 []
    else if s.restarting site then s.mbReply t 4 []
    else if ¬(s.st (strPage site k) = 0 ∨ (s.spliced site k = true ∧ (s.strm site k).lost = true)) then s.mbReply t 0x130 []
    else if n = 0 then
      (match (s.strm site k).pipe with
       | none => s.mbReply t 0 (leBytes 8 0)
       | some b => if b.tenant = t ∨ t = 0 then (s.unbind site k).mbReply t 0 (leBytes 8 0) else s.mbReply t 0x131 [])
    else
      let stages := s.pipeStages t n
      let ls := s.pipeLayers t n m
      let r := s.pipeRefusal t site k (s.mbArg t 3 1) (s.mbArg t 6 1) (s.mbArg t 4 1) (s.mbArg t 5 1) stages ls
      if r ≠ 0 then s.mbReply t r []
      else
        let ys := stages.filterMap (fun st => s.slate st.1)
        let lag := s.pipeLag site k ys
        let hold := s.holdLines site k (ys.headD {})
        let reply := leBytes 4 lag ++ leBytes 4 hold
        if s.mbArg t 7 1 % 2 = 1 then s.mbReply t 0 reply
        else (s.bind t site k stages ls (s.mbArg t 3 1) (s.mbArg t 6 1) (s.mbArg t 4 1) (s.mbArg t 5 1) lag hold).mbReply t 0 reply))

/-- A bound stage by its number from 1. -/
def State.boundStage (s : State) (b : PipeB) (i : Nat) : Option Slate := if i = 0 then none else match b.stages[i - 1]? with | some st => s.slate st.1 | none => none
/-- Whether a stage is faulted or LOST. -/
def State.stageBad (s : State) (b : PipeB) (i : Nat) : Bool := match s.boundStage b i with | some y => y.state == 3 || y.faulted | none => true

/-- The detector chooses boundaries while the reports cover the window of the open frame (14 R299, R300). -/
def State.chooseBounds (s : State) (site k : Nat) : Nat → State
  | 0 => s
  | f + 1 =>
    let x := s.strm site k
    match x.open_, x.pipe with
    | some b, some p =>
      let bp := s.predict site k b
      let win := s.perfWin site k
      let h := max 1 p.stripeH
      let l0 := x.l0.getD 0
      let have_ := match x.reports.getLast? with | some r => decide ((bp + win - l0) / h ≤ r.1) | none => false
      if have_ = false then s
      else
        let phase := (s.reg (pipePage site k + 0x50)).toInt
        let conf := s.regFld (pipePage site k + 0x40) 8 8
        let edges := (x.reports.flatMap (fun r => r.2)).filter (fun e => decide (conf ≤ e.2) && decide (((e.1 : Int) - phase - 16 * bp).natAbs ≤ 16 * win))
        let best := edges.foldl (fun (m : Option Nat) e => match m with
          | none => some e.1
          | some v =>
            let a := ((e.1 : Int) - phase - 16 * bp).natAbs
            let b := ((v : Int) - phase - 16 * bp).natAbs
            if a < b ∨ (a = b ∧ e.1 < v) then some e.1 else some v) none
        let bound := match best with | some e => (rneDiv ((e : Int) - phase) 16).toNat | none => bp
        let bnd := max (b + 1) (min bound (b + s.frameMax site k))
        let s1 := if best.isNone then (s.addSat (pipePage site k + 0x84) 1).evt (pipePage site k) 2 else s
        let s2 := ((s1.closeFrame site k (bnd - 1)).openFrame site k bnd false).reserve site k
        let y := s2.strm site k
        (s2.setStrm site k { y with reports := y.reports.filter (fun r => decide (r.1 + 1 = y.reports.length) || decide (bnd ≤ l0 + (r.1 + 1) * h) || (match y.reports.getLast? with | some z => z.1 == r.1 | none => false)) }).chooseBounds site k f
    | _, _ => s

/-- PERF_REPORT (14 R299, R300): the next stripe's report is popped, and boundaries it settles are chosen. -/
def execPerfReport (site str : Nat) (s : State) : Host.Outcome State Fault Refusal :=
  let x := s.strm site str
  .next (match x.pipe with
    | none => s
    | some b => match s.boundStage b b.perfStage with
      | none => s
      | some y =>
        let q := y.cueAt 0 b.perfCue
        match s.cueLive q.1 q.2 with
        | [] => s
        | h :: rest =>
          if s.mainOk = false ∨ s.perfEn site str = false ∨ s.framesEn site str = false then s
          else
            let a := y.groups.headD {}
            let rep := s.ramGet (spBin a.site) (a.bin + handleOff h) 64
            let n := match x.reports.getLast? with | some r => r.1 + 1 | none => 0
            let first := x.l0.getD 0 + n * b.stripeH
            let edges := (List.range (min 7 (leAt rep 0 1))).map (fun i => (16 * first + leAt rep (8 + 8 * i) 4, leAt rep (12 + 8 * i) 1))
            ((((s.setCue q.1 q.2 rest).setStrm site str { x with reports := x.reports ++ [(n, edges)] }).chooseBounds site str 256)).showPipe site str)

/-- The bytes of a frame descriptor (12 Match). -/
def fdescBytes (d : FDesc) : List Byte :=
  padTo 64 (leBytes 4 d.idx ++ leBytes 6 d.first ++ leBytes 6 d.last ++ leBytes 6 d.refFirst ++ leBytes 6 d.refLast ++ leBytes 1 (if d.valid then 1 else 0) ++ leInt 4 d.dy ++ leInt 4 d.dx)

/-- FRAME_DESC_PUSH (14 R301): the first frame not yet described, once the pyramid unit that holds its last support line has added
to DONE. How the displacement is derived from the encoder is not stated: a free value of the frames' positions (log 54). -/
def execFrameDescPush (site str : Nat) (s : State) : Host.Outcome State Fault Refusal :=
  let x := s.strm site str
  .next (match x.pipe with
    | none => s
    | some b => match s.boundStage b b.matchStage, x.frames.find? (fun f => !f.pushed) with
      | some y, some f =>
        (match f.last, ((secRecs y.cont 11 64).map (fun r => decodeJob r.2.2.2)).find? (fun j => j.engine == 2) with
         | some l, some j =>
           let need := l + 2 ^ (j.lvlC + 1) - 2
           let pyr := y.engs.find? (fun e => let z := decodeJob (s.eng e.1 e.2).job; z.engine == 1 && z.lvlOff == j.lvlOff)
           let ready := match pyr with
             | some e => let z := s.eng e.1 e.2
               (match z.base with | some u => decide (need < u.2 + (z.unit - u.1) * b.stripeH) | none => false)
             | none => false
           let q := y.cueAt 0 b.matchCue
           if s.mainOk = false ∨ ready = false ∨ y.faulted = true ∨ y.state = 3 ∨ 64 ≤ (s.cue q.1 q.2).length then s
           else
             let ep := match pyr with | some e => s.flagEpoch y (decodeJob (s.eng e.1 e.2).job).done | none => 0
             let ref := x.refF.getD (0, 0)
             let d : FDesc := { idx := f.idx, first := f.first, last := l, refFirst := ref.1, refLast := ref.2, valid := !f.afterGap && x.refF.isSome,
                                dy := (Config.framePred 0 (s.tp site (str / 2) f.first) (s.tp site (str / 2) ref.1)).toInt,
                                dx := (Config.framePred 1 (s.tp site (str / 2) f.first) (s.tp site (str / 2) ref.1)).toInt }
             let h := mkHandle 0 1 0 ep + leNat (fdescBytes d) * 2 ^ 64
             let s1 := s.setCue q.1 q.2 (s.cue q.1 q.2 ++ [h])
             s1.setStrm site str { x with frames := x.frames.map (fun g => if g.idx = f.idx then { g with pushed := true } else g), refF := some (f.first, l) }
         | _, _ => s)
      | _, _ => s)

/-- Where a line's row of a layer goes (14 R303): into a frame under way, nowhere any more, or not known yet. -/
inductive RowTo
  | frame (idx : Nat)
  | drop
  | wait
  deriving DecidableEq, Repr

def State.rowTo (s : State) (site k layer line : Nat) : RowTo :=
  let x := s.strm site k
  if s.framesEn site k = false then .drop
  else match x.frames.find? (fun f => decide (f.first ≤ line) && (match f.last with | some l => decide (line ≤ l) | none => true)) with
    | none => .drop
    | some f =>
      if f.last.isNone ∧ s.perfEn site k = true ∧ s.predict site k f.first ≤ line + s.perfWin site k then .wait
      else if (f.layers.getD layer (0, 0, false, false)).2.2.2 then .drop
      else if f.reserved = false then .wait
      else .frame f.idx

/-- Set one layer's place in a frame. -/
def State.setLayer (s : State) (site k idx i : Nat) (v : Nat × Nat × Bool × Bool) : State :=
  let x := s.strm site k
  s.setStrm site k { x with frames := x.frames.map (fun f => if f.idx = idx then { f with layers := f.layers.set i v } else f) }

/-- The writer's saved position in a layer (11 R233). -/
def State.setPart (s : State) (site k i : Nat) (v : Option (Nat × Nat)) : State :=
  let x := s.strm site k
  s.setStrm site k { x with parts := v.toList.map (fun y => (i, y)) ++ x.parts.filter (fun z => z.1 != i) }

/-- Copy a handle's rows into their frames, in line order (14 R302, R303), from the writer's saved position on. -/
def State.copyRows (s : State) (site k i : Nat) (def_ : LayerDef) (d sp addr line : Nat) : Nat → State × Option (Nat × Walk)
  | 0 => (s, none)
  | n + 1 =>
    let go (s : State) := s.copyRows site k i def_ d sp (addr + def_.rowBytes) (line + 1) n
    let part := (s.strm site k).parts.find? (fun z => z.1 == i)
    if (match part with | some z => decide (line < z.2.1) | none => false) then go s
    else match s.rowTo site k i line with
    | .frame idx =>
      (match (s.strm site k).frames.find? (fun f => f.idx == idx) with
       | none => go s
       | some f =>
         let v := f.layers.getD i (0, 0, false, false)
         let m := match part with | some z => if z.2.1 = line then z.2.2 else 0 | none => 0
         let at0 := s.wide (drPage d + 0x54) + v.1 + (line - f.first) * def_.rowBytes
         let w := s.taWrite (s.drOwner d) (s.drWant d) (at0 + m) ((s.ramGet sp addr def_.rowBytes).drop m)
         match w.2 with
         | some e => (w.1.setPart site k i (some (line, e.1 - at0)), some e)
         | none => go (w.1.setLayer site k idx i (v.1, v.2.1 + def_.rowBytes, false, false)))
    | _ => go s

/-- Blocks of a frame at the finest level, as its match unit laid them out (12 R257, R258). -/
def frameBlocks (j : Job) (first last : Nat) : Nat :=
  let n := last + 1 - first
  if n < j.linesMin ∨ j.linesMax < n then cdiv (lvlWidth j.width j.lvlF) j.bsz * cdiv (cdiv j.linesMax (2 ^ j.lvlF)) j.bsz
  else let g := blocksAt j.width j.lvlF j.bsz first last; g.1 * g.2

/-- The part of a ring slot that a layer names: its offset and length (14 R302; 12 R257). A slot that no match job fills has one
part, the whole of it. -/
def slotPart (y : Slate) (def_ : LayerDef) (slotBytes first last : Nat) : Nat × Nat :=
  match ((secRecs y.cont 11 64).map (fun r => decodeJob r.2.2.2)).find? (fun j => j.engine == 2 && j.out % 8 == def_.index) with
  | some j =>
    let m := 4 * frameBlocks j first last
    let o := (m + 63) / 64 * 64
    if def_.part = 0 then (0, m) else (o, 2 * frameBlocks j first last)
  | none => if def_.part = 0 then (0, slotBytes) else (slotBytes, 0)

/-- Where a frame layer lies in the data ring and how much of it is written: the writer's saved position, or a new place (14 R303). -/
def State.placeLayer (s : State) (site k i d n : Nat) : Option ((Nat × Nat) × State) :=
  match (s.strm site k).parts.find? (fun z => z.1 == i) with
  | some z => some (z.2, s)
  | none => (s.allocData d n).map (fun r => ((r.1, 0), r.2))

/-- Take a frame layer's bytes into the data ring (14 R303). -/
def State.takeFrameLayer (s : State) (site k i d idx : Nat) (bytes : List Byte) : Option (State × Option (Nat × Walk)) :=
  match s.placeLayer site k i d bytes.length with
  | none => none
  | some (at_, s1) =>
    let at0 := s.wide (drPage d + 0x54) + at_.1
    let w := s1.taWrite (s.drOwner d) (s.drWant d) (at0 + at_.2) (bytes.drop at_.2)
    match w.2 with
    | some e => some (w.1.setPart site k i (some (at_.1, e.1 - at0)), some e)
    | none => some ((w.1.setPart site k i none).setLayer site k idx i (at_.1, bytes.length, true, false), none)

/-- The layer that a ring's data space keeps waiting (06 R125). -/
def State.holdLayer (s : State) (d : Nat) (v : Option Nat) : State := (s.setRing d { s.ring d with hold := v }).showRing d
/-- That layer has gone on. -/
def State.unholdLayer (s : State) (d i : Nat) : State := if (s.ring d).hold = some i then s.holdLayer d none else s

/-- The next line or frame a layer's data are for. -/
def State.layerAt (s : State) (site k i : Nat) (rows : Bool) : Nat :=
  let x := s.strm site k
  x.layerNext.getD i (if rows then x.l0.getD 0 else 0)
def State.setLayerAt (s : State) (site k i n v : Nat) (defs : List LayerDef) : State :=
  let x := s.strm site k
  s.setStrm site k { x with layerNext := (List.range n).map (fun m => if m = i then v else s.layerAt site k m ((defs.getD m {}).source == 0)) }

/-- The first poisoned row that a handle would put into a frame (11 R239): the writer forwards none. -/
def State.rowsPoisoned (s : State) (site k i : Nat) (def_ : LayerDef) (sp addr line n : Nat) : Option Nat :=
  ((List.range n).find? (fun j => (match s.rowTo site k i (line + j) with | .frame _ => true | _ => false) && s.poisoned sp (addr + j * def_.rowBytes) def_.rowBytes)).map
    (fun j => addr + j * def_.rowBytes)

/-- LAYER_RECEIVE (14 R302, R303, R305): the writer takes a layer's next handle or slot. -/
def execLayerReceive (site k layer : Nat) (s0 : State) : Host.Outcome State Fault Refusal :=
  let s := s0.reserve site k
  let x := s.strm site k
  let d := s.ringOf site k
  .next (match x.pipe with
    | none => s0
    | some b => match b.layers[layer]? with
      | none => s0
      | some def_ => match s.boundStage b def_.stage with
        | none => s0
        | some y =>
          if s.ringRuns d = false then s0
          else
            let n := b.layers.length
            let a := y.groups.headD {}
            if def_.source = 2 then
              let r := y.engRing 0 def_.index
              let idx := s.layerAt site k layer false
              let mates := (List.range n).filter (fun i => let m := b.layers.getD i {}; m.source == 2 && m.stage == def_.stage && m.index == def_.index)
              if s.ringCount r.1 r.2.1 r.2.2 = 0 ∨ mates.any (fun i => decide (s.layerAt site k i false < idx)) = true then s
              else
                let fin (s : State) : State :=
                  let s1 := (s.unholdLayer d layer).setLayerAt site k layer n (idx + 1) b.layers
                  if mates.all (fun i => decide (idx < s1.layerAt site k i false)) then s1.release r.1 r.2.1 r.2.2 else s1
                let z := s.sring r.1 r.2.1 r.2.2
                if s.cancelled r.1 (z.epochs.headD 0) then s.release r.1 r.2.1 r.2.2
                else match x.frames.find? (fun f => f.idx == idx) with
                  | none => if idx < x.fidx then fin s else s
                  | some f => match f.last with
                    | none => s
                    | some l =>
                      if (f.layers.getD layer (0, 0, false, false)).2.2.2 then fin s
                      else
                        let part := slotPart y def_ z.slotBytes f.first l
                        let from_ := s.slotAddr r.1 r.2.1 r.2.2 (s.ringHead r.1 r.2.1 r.2.2) + part.1
                        if s.poisoned z.sp from_ part.2 then s.eatPoison a.site (.stage y.handle) z.sp from_
                        else (match s.takeFrameLayer site k layer d idx (s.ramGet z.sp from_ part.2) with
                         | none => s.holdLayer d (some layer)
                         | some (s1, some e) => s1.ringPage d e.1 true e.2
                         | some (s1, none) => fin s1)
            else
              let q := y.cueAt 0 def_.index
              match s.cueLive q.1 q.2 with
              | [] => s
              | h :: rest =>
                let pop (s : State) : State := s.setCue q.1 q.2 rest
                if def_.source = 1 then
                  let idx := s.layerAt site k layer false
                  let fin (s : State) : State := (pop (s.unholdLayer d layer)).setLayerAt site k layer n (idx + 1) b.layers
                  match x.frames.find? (fun f => f.idx == idx) with
                  | none => if idx < x.fidx then fin s else s
                  | some f =>
                    if (f.layers.getD layer (0, 0, false, false)).2.2.2 then fin s
                    else if s.poisoned (spBin a.site) (a.bin + handleOff h) (handleLen h) then s.eatPoison a.site (.stage y.handle) (spBin a.site) (a.bin + handleOff h)
                    else match s.takeFrameLayer site k layer d idx (s.ramGet (spBin a.site) (a.bin + handleOff h) (handleLen h)) with
                      | none => s.holdLayer d (some layer)
                      | some (s1, some e) => s1.ringPage d e.1 true e.2
                      | some (s1, none) => fin s1
                else
                  let line := s.layerAt site k layer true
                  let rows := if def_.rowBytes = 0 then 0 else handleLen h / def_.rowBytes
                  if (List.range rows).any (fun i => s.rowTo site k layer (line + i) == .wait) then s
                  else match s.rowsPoisoned site k layer def_ (spBin a.site) (a.bin + handleOff h) line rows with
                  | some at_ => s.eatPoison a.site (.stage y.handle) (spBin a.site) at_
                  | none =>
                    let c := s.copyRows site k layer def_ d (spBin a.site) (a.bin + handleOff h) line rows
                    match c.2 with
                    | some e => c.1.ringPage d e.1 true e.2
                    | none => (pop (c.1.setPart site k layer none)).setLayerAt site k layer n (line + rows) b.layers)

/-- Whether a frame falls due while a later hold still runs: frame n + FRAME_HOLD is due (14 R305). -/
def State.holdOver (s : State) (site k : Nat) (f : Frame) : Bool :=
  if s.frameHold site k = 0 then s.frameDue site k f
  else (s.strm site k).frames.any (fun g => g.idx == f.idx + s.frameHold site k && s.frameDue site k g)

/-- The FRAME record (06 R128; 14 R304). -/
def State.frameRec (s : State) (site k : Nat) (f : Frame) (defs : List LayerDef) (last : Nat) : List Byte :=
  let x := s.strm site k
  let d := s.ringOf site k
  let lines := x.hist.filter (fun r => decide (f.first ≤ r.line) && decide (r.line ≤ last))
  let absent := f.layers.any (fun l => l.2.2.2)
  let flags := (if absent then 1 else 0) + (if lines.any (fun r => r.flags / 32 % 2 == 1) then 2 else 0) + (if lines.any (fun r => r.flags / 16 % 2 == 1) then 4 else 0)
    + (if x.splices.any (fun l => decide (f.first ≤ l) && decide (l < last)) then 8 else 0)
  padTo 128 (recHead 2 2 f.ns f.sec ++ leBytes 4 f.idx ++ leBytes 1 d ++ leBytes 1 defs.length ++ leBytes 2 flags ++ leBytes 8 f.first ++ leBytes 8 last ++ leInt 6 f.pos ++ leBytes 2 0
    ++ (List.range defs.length).flatMap (fun i =>
      let def_ := defs.getD i {}
      let l := f.layers.getD i (0, 0, false, false)
      if l.2.2.2 then leBytes 1 def_.kind ++ leBytes 1 1 ++ leBytes 2 def_.format ++ leBytes 12 0
      else leBytes 1 def_.kind ++ leBytes 1 0 ++ leBytes 2 def_.format ++ leBytes 4 l.2.1 ++ leBytes 8 l.1))

/-- Emit a stream's next frame: its record, FRAME_NEXT, ABSENT_CNT (14 R304, R305). -/
def State.emitFrame (s : State) (site k : Nat) (f : Frame) (defs : List LayerDef) (last : Nat) : State :=
  let p := pipePage site k
  let x := s.strm site k
  let absent := (f.layers.filter (fun l => l.2.2.2)).length
  let s1 := s.queueRec (s.ringOf site k) { body := s.frameRec site k f defs last, frame := some (f.first, last) }
  let s2 := s1.setStrm site k { x with frames := x.frames.filter (fun g => g.idx != f.idx), sentF := x.sentF ++ [f], hist := x.hist.filter (fun r => decide (last < r.line)) }
  let s3 := ((s2.setNat (p + 0x6C) ((f.idx + 1) % 2 ^ 32)).addSat (p + 0x88) absent).evtIf (decide (0 < absent)) p 1
  (s3.reserve site k).showPipe site k

/-- Mark the missing layers of a frame ABSENT that `pick` names. -/
def Frame.giveUp (f : Frame) (defs : List LayerDef) (pick : Nat → Bool) : Frame :=
  { f with layers := (List.range defs.length).map (fun i =>
      let l := f.layers.getD i (0, 0, false, false)
      if (f.missing defs).contains i && pick i then (l.1, 0, false, true) else l) }

/-- FRAME_EMIT (14 R304, R305): the next frame in order, once every layer is complete or given up. -/
def execFrameEmit (site str : Nat) (s : State) : Host.Outcome State Fault Refusal :=
  let x := s.strm site str
  .next (match x.frames with
    | [] => s
    | f0 :: _ => match f0.last with
      | none => s
      | some l =>
        let defs := match x.pipe with | some b => b.layers | none => []
        let due := s.frameDue site str f0
        let f := f0.giveUp defs (fun i => due && (s.frameHold site str == 0 || (match x.pipe with | some b => s.stageBad b (defs.getD i {}).stage | none => true)))
        if s.mainOk = false ∨ s.isField site = false ∨ defs.isEmpty = true ∨ (x.priming = true ∧ l ≤ s.watermark site str) ∨ !(f.missing defs).isEmpty then s
        else s.emitFrame site str f defs l)

/-- FRAME_HOLD_EXPIRE (14 R305): frame n + FRAME_HOLD is due while frame n lacks a layer. -/
def execFrameHoldExpire (site str : Nat) (s : State) : Host.Outcome State Fault Refusal :=
  let x := s.strm site str
  .next (match x.frames with
    | [] => s
    | f0 :: _ => match f0.last with
      | none => s
      | some l =>
        let defs := match x.pipe with | some b => b.layers | none => []
        if s.mainOk = false ∨ s.isField site = false ∨ defs.isEmpty = true ∨ s.holdOver site str f0 = false ∨ (f0.missing defs).isEmpty = true then s
        else s.emitFrame site str (f0.giveUp defs (fun _ => true)) defs l)

/-- A stream that leaves OFF begins its pipeline anew (14 R290, R300; log 55): stripe 0 at L0, frame 0, rows with no line above them. -/
def State.freshStream (s : State) (site k : Nat) : State :=
  let x := s.strm site k
  let s1 := (s.setStrm site k { rmax := x.rmax, pipe := x.pipe, dLine := none }).setNat (pipePage site k + 0x6C) 0
  let s2 : State := match x.pipe with
    | none => s1
    | some b => b.stages.foldl (fun (s : State) (st : Nat × Nat) => match s.slate st.1 with
      | none => s
      | some y =>
        let s1 := s.setSlate { y with stripe := 0 }
        y.engs.foldl (fun (s : State) (e : Nat × Nat) => let z := s.eng e.1 e.2; s.setEng e.1 e.2 { z with rows := [], next := [], saved := [], savedNext := [], base := none }) s1) s1
  let s3 := if s.attached site k = true ∧ x.pipe.isSome = true then (List.range 16).foldl (fun s _ => s.release (s.destSite site k) (s.destCore site k) (s.destRing site k)) s2 else s2
  (s3.showStream site k).showPipe site k

/-- Whether a stream may leave STARTING: its pipeline is bound, or its ring is a pass-through one, and the stripes and, while its stages
work, the frames of an earlier run are done (13 R287; 14 R310, R311; log 55). -/
def State.pipeReady (s : State) (site k : Nat) : Bool :=
  match (s.strm site k).pipe with
  | none => s.passThrough site k
  | some b =>
    b.stages.all (fun (st : Nat × Nat) => match s.slate st.1 with | some y => y.faulted || y.disp == 0 | none => true) &&
      ((s.strm site k).frames.isEmpty || b.stages.any (fun (st : Nat × Nat) => match s.slate st.1 with | some y => y.faulted || y.state == 3 | none => true))

end Sys2Proof.Machine
end

