-- ==== Sys2Proof/Machine/Control.lean ====
section
/-!
DEFINITION. Machine/Control.lean: CTRL of a page: enable, the end of a start and of a stop, soft reset (03 R54 to R56), with
what each block does when it starts and stops.
-/
namespace Sys2Proof.Machine

/-- The OPEN slot of a site that holds a page (03 R59). -/
def State.openSlot (s : State) (site blk : Nat) : Option Nat :=
  [0, 1, 2, 3].find? (fun k => (s.slot site k).st == 1 && (s.slot site k).members.contains blk)

/-- Put a write into the shadow of an OPEN slot (03 R60): a second write replaces the first; a 257th entry is refused. -/
def State.shadowPut (s : State) (req site k addr : Nat) (val : Word) : State :=
  let x := s.slot site k
  let p := addr / 0x1000 * 0x1000
  if x.entries.any (fun e => e.1 == addr) then
    (s.setSlot site k { x with entries := x.entries.map (fun e => if e.1 = addr then (addr, val) else e) }).showTxn site k
  else if 256 ≤ x.entries.length then
    ((s.setSlot site k { x with overflow := true }).showTxn site k).reject req p (offOf addr) 6
  else (s.setSlot site k { x with entries := x.entries ++ [(addr, val)] }).showTxn site k

/-- An RWS write to a member page of an OPEN slot goes to the shadow, or is refused (03 R60); any other goes on. -/
def State.shadowOr (s : State) (req site blk off : Nat) (val : Word) (k : State → State) : State :=
  match s.openSlot site blk with
  | none => k s
  | some j =>
    if (s.slot site j).owner ≠ req then s.reject req (pg site blk) off 7 else s.shadowPut req site j (pg site blk + off) val


/-- The enable check of a gate page (13 R286). -/
def State.gateEnOk (s : State) (site g : Nat) : Bool :=
  let p := gatePage site g
  let px := s.regFld (p + 0x44) 0 15
  let taps := 2 ^ s.regFld (p + 0x40) 0 2
  let lv := s.regBit (p + 0x40) 5
  let lanes := s.regFld (p + 0x40) 2 3 + 1
  let data := if lv then lanes - 1 else lanes
  let lineMin := s.regFld (p + 0x58) 0 16
  let edges := ((List.range 16).map (fun i => s.reg (p + 0x60 + 4 * i))).filter (fun w => bitOf w 19)
  let spots := edges.map (fun w => fld w 0 18)
  !(lv && (decide (lanes < 2) || decide (lanes ≤ s.regFld (p + 0x40) 6 3))) &&
    decide (px * (s.regFld (p + 0x40) 12 2 + 1) % (taps * data) = 0) && decide (px % taps = 0) &&
    edges.all (fun w => decide (fld w 0 16 < lineMin)) && decide (spots.eraseDups.length = spots.length) &&
    decide (s.regFld (p + 0x5C) 0 16 < s.regFld (p + 0x5C) 16 16) && decide (s.regFld (p + 0x5C) 16 16 ≤ lineMin)

/-- The enable check of a stream page (13 R287); firmware attaches a pass-through ring where no stage is attached (R281). -/
def State.streamEnOk (s : State) (site k : Nat) : Bool :=
  let p := strPage site k
  let gp := gatePage site (k / 2)
  let mask := s.regFld (p + 0x40) 0 4
  let planes := s.regFld (gp + 0x40) 12 2 + 1
  let px := s.regFld (gp + 0x44) 0 15
  let rate := (s.reg (p + 0x48)).toNat
  decide (mask ≠ 0) && decide (mask < 2 ^ planes) && decide (s.regFld (p + 0x44) 0 16 + s.regFld (p + 0x44) 16 16 ≤ px) &&
    decide (rate * s.regFld (gp + 0x58) 0 16 * 5 ≤ 10 ^ 9) && decide (px * planes * rate ≤ 12 * 10 ^ 8) && (s.attachPass site k).attached site k

/-- The REASON with which EN := 1 is refused on a page that would start (05 R98; 11 R243; 13 R286, R287; 17 R373; 18 R384): gates
and take queues are offered only in READY, and not while the assembly or memory page is in FAULT. DEDUCED (log 71): an axis, a meter
channel or a meter output of a die whose field pins hold their power-up states does not start (05 R97, R101), REASON STATE. -/
def State.enReason (s : State) (site blk : Nat) : Option Nat :=
  let ty := s.typeAt site blk
  let offered := s.bootSt == 4 && s.st (pg 8 5) != 5 && s.st (pg 8 0) != 5
  if (ty = 0x37 ∨ ty = 0x3B ∨ ty = 0x3C) ∧ s.fieldUp site = false then some 5
  else if ty = 0x33 then (if offered = false then some 5 else if s.gateEnOk site (blk - 0x20) then none else some 3)
  else if ty = 0x08 then (if offered then none else some 5)
  else if ty = 0x34 then
    (if (s.gate site ((blk - 0x28) / 2)).shade.isSome then some 5 else if s.streamEnOk site (blk - 0x28) then none else some 3)
  else if ty = 0x3B then (if s.meterEnOk site (blk - 0x78) then none else some 3)
  else if ty = 0x3C then (if s.outEnOk site (blk - 0x80) then none else some 3)
  else none

/-- A gate leaves OFF (02 R31; 13): its line index is 0, NEXT_POS is ORIGIN, MCLK runs; no retake is under way. -/
def State.startGate (s : State) (site g : Nat) : State :=
  let p := gatePage site g
  let u := puPage site g
  let gt := s.gate site g
  let org : Int := wrapS48 (((s.reg (u + 0x48)).toNat + s.regFld (u + 0x4C) 0 16 * 2 ^ 32 : Nat) : Int)
  let x := s.pos site g
  let s1 := s.setGate site g { shd := gt.shd, spiWait := gt.spiWait, spiUsed := gt.spiUsed }
  let s2 := s1.setPos site g { next := org * 256, pitchArm := x.pitchArm, pitchNext := x.pitchNext }
  let s3 := ((s2.setReg (u + 0x64) (s2.reg (u + 0x48))).setNat (u + 0x68) (s2.regFld (u + 0x4C) 0 16)).setWide (u + 0x6C) 0
  let s4 := s3.setGrp site g { s3.grp site g with retake := none, bad := false }
  let s5 := (s4.putFld (p + 0xA4) 0 16 2).showRetake site g false 0
  (s5.showFifo site g).trackPos site (s5.encOf site g) |>.emit (.mclk site g true)

/-- A dailies ring leaves OFF (06 R125, R131, R135, R137): SEQ 0, PHASE 1, the export window at WINDOW_INIT, nothing in flight. DESIGN
CHOICE (log 72): records not yet delivered are written anew, and the flow's PSN and byte stream begin again at 0. -/
def State.startRing (s : State) (d : Nat) : State :=
  let x := s.ring d
  let s1 := s.setRing d { queue := x.undelivered, dnext := x.dnext, since := x.since, firstAt := x.firstAt, window := (s.reg (drPage d + 0x90)).toNat, progress := s.now }
  if s.drNet d then (s1.setReg (drPage d + 0x64) (s.reg (drPage d + 0x60))).freeData d else s1

/-- What a page does on entering STARTING. -/
def State.startHook (s : State) (site blk : Nat) : State :=
  let ty := s.typeAt site blk
  if ty = 0x33 then s.startGate site (blk - 0x20)
  else if ty = 0x34 then s.attachPass site (blk - 0x28)
  else if ty = 0x08 then s.setTq ((blk - 0x100) / 8) (blk % 8) { s.tq ((blk - 0x100) / 8) (blk % 8) with phase := true }
  else if ty = 0x09 then s.startRing (blk - 0x80)
  else if ty = 0x3B then s.meterStart site (blk - 0x78)
  else s

/-- A page enters STARTING. -/
def State.start (s : State) (site blk : Nat) : State := (s.startHook site blk).setSt (pg site blk) 1

/-- A stream stops taking lines (13 R288); one halted at a splice takes no line past its splice point. -/
def State.stopStream (s : State) (site k : Nat) : State :=
  let g := k / 2
  let gt := s.gate site g
  let past (c : Cap) : Bool := s.splLine site k == 2 ^ 48 - 1 || decide (s.splLine site k < c.line)
  let s1 : State := match gt.cur with
    | some c => if s.spliced site k = true ∧ past c = true then s.setGate site g { gt with cur := some { c with takers := c.takers.filter (fun j => j != k) } } else s
    | none => s
  (s1.putBit (strPage site k + 8) 0 false).setSt (strPage site k) 3

/-- What a page does on entering STOPPING (13 R288; 15 R328; 17 R374, R375). -/
def State.stopHook (s : State) (site blk : Nat) : State :=
  let ty := s.typeAt site blk
  if ty = 0x33 then
    let g := blk - 0x20
    [2 * g, 2 * g + 1].foldl (fun s k =>
      let st := s.st (strPage site k)
      if st = 1 ∨ st = 2 ∨ st = 4 ∨ st = 6 then s.stopStream site k else s) (s.shadeFail site g 2)
  else if ty = 0x37 then
    let g := s.grpOf site (blk - 0x40)
    if (s.groupAxes site g).any (fun a => (s.axis site a).vel != 0) then s.groupStop site g 1 else s
  else if ty = 0x3B then (s.calAbortCh site (blk - 0x78) 2).meterStop site (blk - 0x78)
  else s

/-- A page enters STOPPING. -/
def State.stop (s : State) (site blk : Nat) : State :=
  if s.typeAt site blk = 0x34 then s.stopStream site (blk - 0x28) else (s.stopHook site blk).setSt (pg site blk) 3

/-- EN := 1 by the table of 03 R54 and R55, once it is not refused; the same through a commit. -/
def State.enSet (s : State) (site blk : Nat) : State :=
  let p := pg site blk
  if s.st p = 0 ∧ s.regBit (p + 8) 1 = false then (s.putBit (p + 8) 0 true).start site blk
  else if s.st p = 0 ∨ s.st p = 3 then (s.putBit (p + 8) 0 true).putBit (p + 8) 1 true
  else s

/-- EN := 0 by the table of 03 R54 and R55; the same through a commit. -/
def State.enClear (s : State) (site blk : Nat) : State :=
  let p := pg site blk
  let s1 := s.putBit (p + 8) 0 false
  let s2 := if s.regBit (p + 8) 1 then (s1.putBit (p + 8) 1 false).evt p 30 else s1
  if s.st p = 1 ∨ s.st p = 2 ∨ s.st p = 4 ∨ s.st p = 5 ∨ s.st p = 6 then s2.stop site blk else s2

/-- Whether an armed action names a LINE of gate g of a site (02 R46). -/
def State.lineOf (s : State) (site g : Nat) (a : Armed) : Bool :=
  a.at_.kind == 1 && streamSite s.asm a.at_.stream == site && a.at_.stream % 16 / 2 == g

/-- Drop every action armed with a LINE WHEN on a gate's streams when its page reaches OFF (02 R46): DISARMED, SEG_DISARMED and
STREAM_OFF. -/
def State.disarmLines (s : State) (site g : Nat) : State :=
  let u := puPage site g
  let s1 := match (s.pos site g).pitchArm with
    | some a => if a.at_.kind = 1 then ((s.setPos site g { s.pos site g with pitchArm := none }).putBit (u + 0x5C) 8 false).evt u 3 else s
    | none => s
  let s2 := (List.range 16).foldl (fun s a => match s.segArm site a with
    | some x => if s.lineOf site g x then (s.clearSegArm site a).evt (axPage site a) 12 else s
    | none => s) s1
  [0, 1, 2, 3].foldl (fun s k =>
    let x := s.slot site k
    if (x.st = 2 ∨ x.st = 3) ∧ s.lineOf site g x.arm = true then s.abortMember site k 10 false else s) s2

/-- A gate page has reached OFF (02 R46; 13 R288): MCLK, the TG outputs and the terminations are off. -/
def State.gateOff (s : State) (site g : Nat) : State :=
  let p := gatePage site g
  let s1 := ((s.putFld (p + 0xA4) 0 2 0).emit (.mclk site g false)).disarmLines site g
  (s1.setGrp site g { s1.grp site g with retake := none, bad := false }).showRetake site g false 0

/-- A stream page has reached OFF (13 R288; 14 R311; 16 R344): its open frame closes at its last line, STOP records that wait are
made from the splice registers, and its splice record ends. -/
def State.streamOff (s : State) (site k : Nat) : State :=
  let s1 := match (s.strm site k).last with | some l => s.closeFrame site k l | none => s
  (((s1.fixStop site k).clearSplice site k).showPipe site k).showStream site k

/-- Whether a STOPPING page's stop is complete (03 R54; 06 R114; 13 R288; 15 R328); a meter output's last period is whole (17 R372). -/
def State.stopDone (s : State) (site blk : Nat) : Bool :=
  let ty := s.typeAt site blk
  if ty = 0x33 then s.st (strPage site (2 * (blk - 0x20))) == 0 && s.st (strPage site (2 * (blk - 0x20) + 1)) == 0
  else if ty = 0x34 then
    let k := blk - 0x28
    s.lineDone site k && ((s.strm site k).rows.isEmpty || !s.attached site k || !s.mainOk)
  else if ty = 0x37 then (s.axis site (blk - 0x40)).vel == 0 && !(s.grp site (s.grpOf site (blk - 0x40))).stopping
  else if ty = 0x08 then (s.tq ((blk - 0x100) / 8) (blk % 8)).entries.isEmpty
  else if ty = 0x3C then s.reg (pg site blk + 0x50) == 0#32
  else true

/-- What a page does on reaching OFF from STOPPING. -/
def State.offHook (s : State) (site blk : Nat) : State :=
  let ty := s.typeAt site blk
  if ty = 0x33 then s.gateOff site (blk - 0x20)
  else if ty = 0x34 then s.streamOff site (blk - 0x28)
  else if ty = 0x40 then s.freeCore site (blk - 0x100)
  else if ty = 0x44 then (s.setCmb site (blk - 0x50) { lastTenant := (s.cmb site (blk - 0x50)).lastTenant }).setNat (pg site blk + 0x40) 0
  else if ty = 0x49 ∨ ty = 0x4A ∨ ty = 0x4B then (s.setEng site (blk - 0x60) { lastTenant := (s.eng site (blk - 0x60)).lastTenant }).setNat (pg site blk + 0x40) 0
  else if ty = 0x50 then s.setNat (pg site blk + 0x40) 0
  else if ty = 0x0F then s.setNat (pg site blk + 0x40) 0
  else s

/-- STOP_COMPLETE (03 R54, R55): STOPPING to OFF. -/
def execStopComplete (site blk : Nat) (s : State) : Host.Outcome State Fault Refusal :=
  .next (if s.present site blk = true ∧ hasCtrl (s.typeAt site blk) = true ∧ s.st (pg site blk) = 3 ∧ s.stopDone site blk = true then
      (s.offHook site blk).setSt (pg site blk) 0
    else s)

/-- PENDING_START (03 R55): one block clock after a stop with PENDING_EN set, the page starts. -/
def execPendingStart (site blk : Nat) (s : State) : Host.Outcome State Fault Refusal :=
  .next (if s.present site blk = true ∧ s.st (pg site blk) = 0 ∧ s.regBit (pg site blk + 8) 1 = true then
      (s.start site blk).putBit (pg site blk + 8) 1 false
    else s)

/-- Whether a STARTING page has what its start waits for (03 R54; 07 R155; 08; 12; 13 R271, R287; 17 R375; 21 R425). A relay port leaves
STARTING by its training alone. -/
def State.startDone (s : State) (site blk : Nat) : Bool :=
  let ty := s.typeAt site blk
  if ty = 0x33 then s.regBit (pg site blk + 0xA4) 0
  else if ty = 0x34 then s.active (gatePage site ((blk - 0x28) / 2)) && s.attached site (blk - 0x28) && s.pipeReady site (blk - 0x28)
  else if ty = 0x3B then decide ((s.meter site (blk - 0x78)).settle ≤ s.now)
  else if ty = 0x40 then (s.core site (blk - 0x100)).work.isSome
  else if ty = 0x44 then !(s.cmb site (blk - 0x50)).nodes.isEmpty
  else if ty = 0x49 ∨ ty = 0x4A ∨ ty = 0x4B then !(s.eng site (blk - 0x60)).job.isEmpty
  else if ty = 0x50 then false
  else if ty = 0x47 then stackFitted s.asm (2 * site + (blk - 12))
  else true

/-- An engine's scrub is done: its line buffers are zeroed where the tenant changes (12 R266; 20). -/
def State.engReady (s : State) (site e : Nat) : State :=
  let x := s.eng site e
  let t := match s.slate x.handle with | some y => some y.tenant | none => x.lastTenant
  let s1 := if x.lastTenant = t then s else s.scrub (spLine site e)
  (s1.setEng site e { x with lastTenant := t }).showEng site e

/-- A re-enabled dailies ring whose stream is halted at a splice that was not delivered writes its STOP record first (06 R133). -/
def State.replayStop (s : State) (d : Nat) : State :=
  let site := (s.ringStream d).1
  let k := (s.ringStream d).2
  let x := s.ring d
  if d < 32 ∧ s.spliced site k = true ∧ s.regBit (strPage site k + 0x80) 8 = false ∧ x.queue.any (fun r => r.stop) = false then
    s.setRing d { x with queue := { stop := true, after := some (s.splLine site k) } :: x.queue }
  else s

/-- What a page does on reaching RUNNING from STARTING. -/
def State.readyHook (s : State) (site blk : Nat) : State :=
  let ty := s.typeAt site blk
  if ty = 0x3B then s.meterRun site (blk - 0x78)
  else if ty = 0x37 then s.axisReady site (blk - 0x40)
  else if ty = 0x34 then s.freshStream site (blk - 0x28)
  else if ty = 0x40 then s.coreReady site (blk - 0x100)
  else if ty = 0x49 ∨ ty = 0x4A ∨ ty = 0x4B then s.engReady site (blk - 0x60)
  else if ty = 0x0A then (if (s.mmu (blk - 0x40)).units.any (fun u => u.slot.isSome) then s.setSt (pg site blk) 4 else s)
  else if ty = 0x0F then s.putFld (pg site blk + 0x40) 0 2 3
  else if ty = 0x09 then (s.replayStop (blk - 0x80)).showRing (blk - 0x80)
  else s

/-- BLOCK_READY (03 R54): STARTING to RUNNING. -/
def execBlockReady (site blk : Nat) (s : State) : Host.Outcome State Fault Refusal :=
  .next (if s.present site blk = true ∧ s.st (pg site blk) = 1 ∧ s.startDone site blk = true then
      (s.setSt (pg site blk) 2).readyHook site blk
    else s)

/-- What a soft reset clears beside the page's registers (03 R56): the block's own record. Memories behind a data port stay. -/
def State.resetHook (s : State) (site blk : Nat) (was : Nat) : State :=
  let ty := s.typeAt site blk
  if ty = 0x30 then
    let x := s.enc site (blk - 0x10)
    s.setEnc site (blk - 0x10) { a := x.a, b := x.b, z := x.z }
  else if ty = 0x31 then s.setPos site (blk - 0x18) { s.pos site (blk - 0x18) with pitchArm := none, pitchNext := 0 }
  else if ty = 0x33 then
    let g := blk - 0x20
    let s1 := if was = 5 then
        ([2 * g, 2 * g + 1].foldl (fun s k =>
          let st := s.st (strPage site k)
          if st = 1 ∨ st = 2 ∨ st = 4 ∨ st = 6 then s.stopStream site k else s) s).gateOff site g
      else s
    let gt := s1.gate site g
    (s1.setGate site g { shd := gt.shd, spiWait := gt.spiWait, spiUsed := gt.spiUsed }).showFifo site g
  else if ty = 0x34 then
    let k := blk - 0x28
    let x := s.strm site k
    (s.setStrm site k { rmax := x.rmax, pipe := x.pipe, dLine := x.dLine, dFrame := x.dFrame }).showStream site k
  else if ty = 0x35 then s.setGate site (blk - 0x38) { s.gate site (blk - 0x38) with spiWait := false }
  else if ty = 0x37 then
    let a := blk - 0x40
    ((({ s with segArms := tabDrop (site * 16 + a) s.segArms } : State).setAxis site a {}).showLims site a).monTrack site
  else if ty = 0x3B then
    let x := s.meter site (blk - 0x78)
    ((s.calAbortCh site (blk - 0x78) 2).setMeter site (blk - 0x78)
      { clampAt := x.clampAt, cutEnd := x.cutEnd, overCur := x.overCur, outWait := List.range 8 }).setNat (pg site blk + 0x70)
      (0x40 + (if x.clampAt.isSome then 0x100 else 0) + (if x.clampAt.isSome || x.cutEnd.isSome then 0xC00 else 0)) |>.monTrack site
  else if ty = 0x08 then s.setTq ((blk - 0x100) / 8) (blk % 8) {}
  else if ty = 0x09 then s.setRing (blk - 0x80) { queue := (s.ring (blk - 0x80)).undelivered }
  else if ty = 0x40 then s.setCore site (blk - 0x100) { lastTenant := (s.core site (blk - 0x100)).lastTenant }
  else if ty = 0x44 then s.setCmb site (blk - 0x50) { lastTenant := (s.cmb site (blk - 0x50)).lastTenant }
  else if ty = 0x49 ∨ ty = 0x4A ∨ ty = 0x4B then s.setEng site (blk - 0x60) { lastTenant := (s.eng site (blk - 0x60)).lastTenant }
  else if ty = 0x50 then s.setPort site (blk - 0x10) {}
  else s

/-- Slots that hold a page and whose commit has not happened (03 R56, R70). -/
def State.slotsOf (s : State) (site blk : Nat) : List Nat :=
  [0, 1, 2, 3].filter (fun k => let x := s.slot site k; (x.st == 1 || x.st == 2 || x.st == 3) && x.members.contains blk)

/-- Whether an armed slot's group has its GO (03 R70). -/
def State.slotGo (s : State) (site k : Nat) : Bool :=
  let x := s.slot site k
  x.cross && (x.st == 2 || x.st == 3) && (s.group x.group).go

/-- An accepted soft reset (03 R56): every slot that holds the page aborts with MEMBER_RESET, and the page reads its reset values. -/
def State.softReset (s : State) (site blk : Nat) : State :=
  let s1 := (s.slotsOf site blk).foldl (fun s k => s.abortMember site k 6 false) s
  let s2 := (s1.clearPage (pg site blk)).resetHook site blk (s.st (pg site blk))
  if hasTxn (s.typeAt site blk) then s2.showTxnPage site blk else s2

/-- A page of a compute or link die, and a memory controller, take their CTRL from their own site's control core (07, 08, 11, 12, 21);
the debug page takes it from tenant 0 (20). -/
def ctrlOwn (ty req : Nat) : Bool :=
  if ty = 0x40 ∨ ty = 0x44 ∨ ty = 0x47 ∨ ty = 0x49 ∨ ty = 0x4A ∨ ty = 0x4B ∨ ty = 0x50 then req == 16
  else if ty = 0x0F then req == 0 else true

/-- Whether the continuity monitor holds a page's CTRL (22 R457): EN := 0 of a guard's meter channel, any write of a motion guard's
axis. -/
def State.guardCtrl (s : State) (site blk : Nat) (en : Bool) : Bool :=
  let ty := s.typeAt site blk
  (ty == 0x3B && !en && s.guardMeter site (blk - 0x78)) || (ty == 0x37 && s.guardAxis site (blk - 0x40))

/-- A write of CTRL that has reached its page (03 R54 to R56, R60, R70; 01 R20; 22 R457). A page in LOCKED rejects any write to CTRL,
whatever bits it sets (R54). DESIGN CHOICE (log 69): on a page with HAS_CTRL = 0 every such write is rejected with READ_ONLY, as 02 R484
says for the position-unit and clapper pages; for the other pages the spec names no reason. -/
def State.ctrlRule (s : State) (req site blk : Nat) (val : Word) : State :=
  let p := pg site blk
  let ty := s.typeAt site blk
  if hasCtrl ty = false then s.reject req p 8 1
  else if s.st p = 7 then s.reject req p 8 4
  else if val &&& 0xFFFFFFF8#32 ≠ 0#32 then s.reject req p 8 2
  else if ty = 0x47 ∧ stackFitted s.asm (2 * site + (blk - 12)) = false ∧ bitOf val 0 = true ∧ bitOf val 2 = false then
    (s.faultRec p 0x0100 1).reject req p 8 5
  else if ctrlOwn ty req = false then s.reject req p 8 4
  else if bitOf val 2 then
    if (s.st p ≠ 0 ∧ s.st p ≠ 5) ∨ (s.slotsOf site blk).any (fun k => s.slotGo site k) = true then s.reject req p 8 5
    else s.softReset site blk
  else s.shadowOr req site blk 8 (val &&& 1#32) (fun s =>
    if s.guardCtrl site blk (bitOf val 0) then s.reject req p 8 4
    else if bitOf val 0 then
      if s.st p = 5 then s.reject req p 8 5
      else if s.st p = 0 ∨ s.st p = 3 then
        (match s.enReason site blk with | some r => s.reject req p 8 r | none => s.enSet site blk)
      else s
    else s.enClear site blk)



/-- EVT_RAW_CLEAR (03 R57): W1C; a bit whose condition recurs in the same block clock stays set. -/
def State.evtClear (s : State) (p : Nat) (mask recur : Word) : State :=
  (s.setReg (p + 0x10) (s.reg (p + 0x10) &&& ~~~ (mask &&& 0x7FFFFFFF#32 &&& ~~~ recur))).showPend p

/-- FAULT_CODE_CLEAR (03 R58): only a write of 0, and not in FAULT. -/
def State.faultClear (s : State) (req p : Nat) (val : Word) : State :=
  if val ≠ 0#32 ∨ s.st p = 5 then s.reject req p 0x1C 5 else s.setNat (p + 0x1C) 0

/-- REG_PARITY (11 R241): a register parity error on a field die faults its block, with what the block's own faults do. -/
def State.regParity (s : State) (site blk : Nat) : State :=
  let ty := s.typeAt site blk
  let p := pg site blk
  if ty = 0x30 then s.encFault site (blk - 0x10) 1
  else if ty = 0x37 then (s.axisFault site (blk - 0x40) 1).monTrack site
  else if ty = 0x3B then (if s.active p = true ∨ s.st p = 1 ∨ s.st p = 3 then (s.calAbortCh site (blk - 0x78) 2).meterStop site (blk - 0x78) else s).blockFault p 1 1 |>.monTrack site
  else if ty = 0x3C then ((s.blockFault p 1 1).setNat (p + 0x4C) 0).setNat (p + 0x50) 0
  else if ty = 0x3E then s.monFault site 1
  else s.blockFault p 1 1

def execRegParity (site blk : Nat) (s : State) : Host.Outcome State Fault Refusal :=
  .next (if s.present site blk = false then s
    else if s.mainDie site = true then s.dieFatal site
    else if s.isField site = true then s.regParity site blk
    else if site = 8 ∧ mainAddr s.asm (pg 8 blk) = true then s.pkgFatal 0x0100
    else s)

end Sys2Proof.Machine
end

