-- ==== Sys2Proof/Machine/Meter.lean ====
section
/-!
DEFINITION. Machine/Meter.lean: the meter-channel and calibration commands (17, 18). METER_CONFIG_WRITE is a register
write and stands in Machine/RegWrite.lean.
-/
namespace Sys2Proof.Machine

/-- The causes of a conversion (17 R360, R365, R367, R368): OPEN, EXC_FAULT, CJ_FAULT and TSRC_FAULT judged anew. -/
def State.meterCauses (s : State) (site m : Nat) (conv : MeterSample) (raw : Int) (isBo : Bool) : State :=
  let p := mtrPage site m
  let mode := mMode s site m
  let is := (conv.excs.getD 0 0#32 :: conv.excs.drop 1).map (s.excTrue site m)
  let iset := fpDiv (fpOfInt (s.regFld (p + 0x48) 0 11)) (fpOfInt 1000000)
  let vset := fpDiv (fpOfInt (s.regFld (p + 0x48) 16 13)) (fpOfInt 1000)
  let bo := if mode ≤ 1 then mBo s site m else 0
  let k := s.meter site m
  let boAmp := Fp.fin false ([5, 20, 100].getD (mBoI s site m) 5) 10000000
  let rise := fpAdd (s.codeValue site m raw) (fpNeg (s.codeValueAt site m k.prevIdx k.prevCode))
  let sat := decide (2 ^ 23 - 1 ≤ raw.natAbs)
  let open_ :=
    if isRtd mode then conv.compliance
    else if bo = 1 then
      (decide (2 ^ 23 - 1 ≤ raw) && mRange s site m == s.regFld (p + 0x44) 4 3) || (s.regBit (p + 0x70) 16 && sat)
    else if bo = 2 then
      (if isBo then fpLt (fpMul boAmp (fpOfInt (1000 * s.regFld (p + 0x58) 0 16))) rise else s.regBit (p + 0x70) 16)
    else false
  let exc :=
    if isRtd mode then !conv.compliance && is.any (fun i => off2pc i iset)
    else if mode = 5 then is.any (fun v => off2pc v vset) || k.overCur
    else false
  let cj := mode == 1 && decide (6 ≤ mCurve s site m) && !s.tempOk site (s.regFld (p + 0x4C) 0 4)
  let ts := mPoly s site m && !s.tsrcOk site (s.regFld (p + 0x4C) 4 4)
  (((s.setCause site m 0 open_).setCause site m 1 exc).setCause site m 3 cj).setCause site m 5 ts

/-- Queue a partial run on channel ch where AUTO_CAL asks for one (18 R381): it is RUNNING and due and no guard uses it. -/
def State.autoCal (s : State) (site ch : Nat) : State :=
  let c := s.calib site
  if s.regBit (mcomPage site + 0x54) 16 = true ∧ s.calDue site ch = true ∧ s.st (mtrPage site ch) = 2 ∧ s.guardMeter site ch = false
      ∧ c.active ≠ some ch ∧ ch ∉ c.pendingRuns then
    (s.setCalib site { c with pendingRuns := (List.range 8).filter (fun i => decide (i ∈ c.pendingRuns) || i == ch) }).putBit (mcomPage site + 0x60) 19 true
  else s

/-- Refresh the internal cold-junction sensor (17) and every channel's DUE bit (18 R381); with AUTO_CAL the device
queues a partial run on each RUNNING due channel that no guard uses, and the first of them starts. -/
def State.refreshCj (s : State) (site : Nat) (cj : Option Word) : State :=
  match cj with
  | none => s
  | some t =>
    let s1 := s.setReg (mcomPage site + 0x40) t
    ((List.range 8).foldl (fun s ch => (s.refreshDue site ch).autoCal site ch) s1).calNext site

/-- OVER (17 R369), unless the channel is in FAULT, which it leaves by a valid conversion alone. -/
def State.overValue (s : State) (site m : Nat) : State := if mVstate s site m = 4 then s else s.setVstate site m 3

/-- What a conversion, or a pair, of corrected codes gives that is no burn-out conversion (17 R362, R369): FAULT while a cause
stands, OVER, or a valid value; and auto-ranging in each case. A live value between two steps of a run lets the next step begin (18
R382). -/
def State.convResult (s : State) (site m : Nat) (codes : List Int) (excs : List Word) : State :=
  let big := (codes.map Int.natAbs).foldl max 0
  let sat := decide (2 ^ 23 - 1 ≤ big)
  if mCause s site m ≠ 0 then (s.setVstate site m 4).autoRange site m big
  else if sat then
    (if mRange s site m = s.regFld (mtrPage site m + 0x44) 4 3 ∨ mAuto s site m = false then s.overValue site m else s).autoRange site m big
  else
    let x := toF32 (s.signalX site m (codes.map (s.codeValue site m)) (excs.map (s.excTrue site m)))
    match s.linearise site m x with
    | none => (s.overValue site m).autoRange site m big
    | some v =>
      let s4 := (s.validValue site m x v).autoRange site m big
      if (s4.calib site).active = some m then
        (s4.setCalib site { s4.calib site with waitLive := false }).rangeChange site m (mRange s4 site m) 0
      else s4

/-- METER_CONVERSION (17 R356 to R371): a conversion, or a pair in RTD_3W and RTD_4W, ends on a RUNNING channel. It is discarded where
it began before the channel had settled, overlaps a clamp, or the converter is lent to a calibration step (R363, R364; 18 R382). The
burn-out conversion of pulsed mode gives no value. -/
def meterConversionState (site m : Nat) (conv : MeterSample) (s0 : State) : State :=
  let s := s0.refreshCj site conv.cj
  let p := mtrPage site m
  let k := s.meter site m
  if s.isField site = false ∨ 8 ≤ m ∨ s.st p ≠ 2 ∨ s.regBit (p + 0x70) 8 = true ∨ s.now < k.settle + convTicks s site m
      ∨ ((s.calib site).active = some m ∧ (s.calib site).waitLive = false) then s
  else
    let codes := conv.codes.map (s.corrected site m)
    let c0 := codes.getD 0 0
    let isBo := mBo s site m == 2 && decide (mMode s site m ≤ 1) && k.sinceBo == 15
    let s1 := (s.setReg (p + 0x7C) (wordOfInt (codes.getLastD 0))).meterCauses site m conv c0 isBo
    let s2 := if isRtd (mMode s site m) || mMode s site m == 5 then s1.setReg (p + 0x80) (toF32 (s.excTrue site m (conv.excs.getLastD 0#32))) else s1
    let s3 := s2.setMeter site m { s2.meter site m with
      sinceBo := if isBo then 0 else k.sinceBo + 1, prevCode := if isBo then k.prevCode else c0, prevIdx := if isBo then k.prevIdx else mRange s site m }
    if isBo then (if mCause s3 site m ≠ 0 then s3.setVstate site m 4 else s3) else s3.convResult site m codes conv.excs

def execMeterConversion (site m : Nat) (conv : MeterSample) (s : State) : Host.Outcome State Fault Refusal :=
  .next ((meterConversionState site m conv s).monTrack site)

/-- EXC_OVERCURRENT (17 R360): the VEXC current reaches 25 mA on a BRIDGE channel that is STARTING or RUNNING. -/
def execExcOvercurrent (site m : Nat) (s : State) : Host.Outcome State Fault Refusal :=
  if s.isField site ∧ m < 8 ∧ (s.st (mtrPage site m) = 1 ∨ s.st (mtrPage site m) = 2) ∧ mMode s site m = 5 then
    let s1 := (s.cutExc site m).setCause site m 1 true
    .next (((s1.setMeter site m { s1.meter site m with cutEnd := some s.now, overCur := true }).setVstate site m 4).monTrack site)
  else .next s

/-- EXC_RETURN (17 R360, R364): 100 ms after an overcurrent or the last clamp ended, excitation returns as a range
change. -/
def execExcReturn (site m : Nat) (s : State) : Host.Outcome State Fault Refusal :=
  let p := mtrPage site m
  let k := s.meter site m
  match k.cutEnd with
  | some t =>
    if s.isField site ∧ m < 8 ∧ s.regBit (p + 0x70) 11 = true ∧ k.clampAt = none ∧ t + 20000000 ≤ s.now then
      let s1 := ((s.putBit (p + 0x70) 11 false).putBit (p + 0x70) 10 false).setMeter site m
        { k with cutEnd := none, overCur := false }
      let s1 := s1.setMeter site m { s1.meter site m with excOn := s1.excWanted site m && (s1.active p || s1.st p == 1) }
      let s2 := (s1.setCause site m 1 false).setCause site m 2 false
      .next ((if s2.st p = 2 then s2.rangeChange site m (mRange s2 site m) settleExc
        else if s2.st p = 1 then s2.setMeter site m { s2.meter site m with settle := max k.settle (s2.now + settleExc) } else s2).monTrack site)
    else .next s
  | none => .next s

/-- CLAMP (17 R364): a pin leaves its linear range; CLAMP is set, excitation is cut with EXC_CUT and
POLICY_OVERRIDDEN. -/
def execClamp (site m : Nat) (s : State) : Host.Outcome State Fault Refusal :=
  let p := mtrPage site m
  if s.isField site ∧ m < 8 ∧ s.regBit (p + 0x70) 8 = false then
    let s1 := (s.putBit (p + 0x70) 8 true).setMeter site m { s.meter site m with clampAt := some s.now, cutEnd := none }
    .next (((s1.cutExc site m).evt p 5).monTrack site)
  else .next s

/-- CLAMP_END (17 R364): the last clamped pin returns; CLAMP clears and the 100 ms before excitation returns start; a
conversion that overlaps the clamp is discarded. -/
def execClampEnd (site m : Nat) (s : State) : Host.Outcome State Fault Refusal :=
  let p := mtrPage site m
  if s.isField site ∧ m < 8 ∧ s.regBit (p + 0x70) 8 = true then
    .next (((s.putBit (p + 0x70) 8 false).setMeter site m { s.meter site m with
      clampAt := none, cutEnd := some s.now, settle := max (s.meter site m).settle s.now }).monTrack site)
  else .next s

/-- CLAMP_FAULT (17 R364): a clamp has lasted 100 ms; the channel's value state is FAULT with cause CLAMP_FAULT. -/
def execClampFault (site m : Nat) (s : State) : Host.Outcome State Fault Refusal :=
  match (s.meter site m).clampAt with
  | some t =>
    if s.isField site ∧ m < 8 ∧ t + 20000000 ≤ s.now ∧ s.active (mtrPage site m) then
      .next (((s.setCause site m 2 true).setVstate site m 4).monTrack site)
    else .next s
  | none => .next s

/-- ADC_FAIL (17 Control, R375): the modulator gives no output for 4 conversion periods; FAULT, excitation zero, outputs
low. -/
def execAdcFail (site m : Nat) (s : State) : Host.Outcome State Fault Refusal :=
  let p := mtrPage site m
  if s.isField site ∧ m < 8 ∧ (s.st p = 1 ∨ s.st p = 2 ∨ s.st p = 3) then
    .next (((s.meterStop site m).blockFault p 0x0100 1).monTrack site)
  else .next s

/-- REF_FAULT (17 R376): REFIN is measured at `mv`. Outside 1.0-2.6 V every running channel takes cause REF_FAULT;
inside, REFIN_OK is 1 and the cause clears. -/
def execRefFault (site mv : Nat) (s : State) : Host.Outcome State Fault Refusal :=
  if s.isField site then
    let ok := decide (1000 ≤ mv) && decide (mv ≤ 2600)
    let s1 := (s.setNat (mcomPage site + 0x44) (mv % 2 ^ 16)).putBit (mcomPage site + 0x48) 0 ok
    .next (((List.range 8).foldl (fun s m =>
      if ok then s.setCause site m 4 false
      else if s.active (mtrPage site m) then (s.setCause site m 4 true).setVstate site m 4 else s) s1).monTrack site)
  else .next s

/-- The code an output starts a period with, and OUT_STATUS (17 R372). With OUT_LO = OUT_HI = VALUE, which running writes can leave, s is
no number and the spec gives no code (log 81). -/
def outputCode (s : State) (site o : Nat) : Nat × Nat :=
  let p := outPage site o
  let m := s.regFld (p + 0x40) 0 3
  let freq := s.regBit (p + 0x40) 3
  let now := (s.reg (p + 0x50)).toNat
  let vs := mVstate s site m
  let sval := f32Div (f32Sub (s.reg (mtrPage site m + 0x74)) (s.reg (p + 0x44))) (f32Sub (s.reg (p + 0x48)) (s.reg (p + 0x44)))
  if s.st p ≠ 2 ∨ s.st (mtrPage site m) ≠ 2 ∨ vs = 0 ∨ o ∈ (s.meter site m).outWait then (0, 0)
  else if vs = 1 then
    if f32 sval = .nan then ((Config.freeWord s.free).toNat, 1)
    else if fpLt (f32 sval) (.fin false 0 1) then (if freq then (200000, 1) else (20000, 1))
    else if fpLt (.fin false 1 1) (f32 sval) then (if freq then (21053, 3) else (190000, 3))
    else if freq then ((fpRne (fpDiv (fpOfInt 200000000) (fpAdd (fpOfInt 1000) (fpMul (fpOfInt 8000) (f32 sval))))).toNat, 1)
    else (20000 + (fpRne (fpMul (fpOfInt 160000) (f32 sval))).toNat, 1)
  else if now = 0 then (0, 0)
  else if vs = 2 then (now, 2)
  else if vs = 3 then (if freq then (21053, 3) else (190000, 3))
  else (if freq then (400000, 4) else (10000, 4))

/-- Whether a VALID source lies below OUT_LO, which raises OUT_LOW (17 R372). -/
def outputLow (s : State) (site o : Nat) : Bool :=
  let p := outPage site o
  let m := s.regFld (p + 0x40) 0 3
  s.st p == 2 && s.st (mtrPage site m) == 2 && mVstate s site m == 1 &&
    fpLt (f32 (f32Div (f32Sub (s.reg (mtrPage site m + 0x74)) (s.reg (p + 0x44))) (f32Sub (s.reg (p + 0x48)) (s.reg (p + 0x44))))) (.fin false 0 1)

/-- OUTPUT_PERIOD (17 R372): the output starts a new period with the code of its source's present state. -/
def execOutputPeriod (site o : Nat) (s : State) : Host.Outcome State Fault Refusal :=
  if s.isField site ∧ o < 8 then
    let p := outPage site o
    let c := outputCode s site o
    let s1 := ((s.setNat (p + 0x50) c.1).setNat (p + 0x4C) c.2).draw
    .next (((s1.evtIf (outputLow s site o) p 0).evtIf (c.2 == 3) p 1).evtIf (c.2 == 4) p 2)
  else .next s

/-- Why CAL_CMD.START of the channels of `val` is rejected (18 R381, Control): STATE while a certificate is 0, a named RUNNING channel is
a guard input, or a named channel is neither OFF nor RUNNING (log 28). -/
def State.calStartWhy (s : State) (site : Nat) (val : Word) : Option Nat :=
  let p := mcomPage site
  let chs := (List.range 8).filter (fun i => bitOf val i)
  if s.reg (p + 0x4C) = 0#32 ∨ s.reg (p + 0x50) = 0#32
      ∨ chs.any (fun ch => (s.guardMeter site ch && s.st (mtrPage site ch) == 2) || !(s.st (mtrPage site ch) == 0 || s.st (mtrPage site ch) == 2)) then some 5
  else none

/-- CAL_CMD.START (18 R380, R382): the named channels' runs are queued in ascending order. -/
def State.calStart (s : State) (site : Nat) (val : Word) : State :=
  let c := s.calib site
  let named (i : Nat) : Bool := bitOf val i && decide (c.active ≠ some i)
  (s.setCalib site { c with pendingRuns := (List.range 8).filter (fun i => decide (i ∈ c.pendingRuns) || named i) }).calNext site

/-- CAL_CMD.ABORT (18 R383): the active run ends with ABORTED and changes no entry. -/
def State.calAbort (s : State) (site : Nat) : State :=
  match (s.calib site).active with
  | some ch => s.calAbortCh site ch 2
  | none => s

/-- Why CAL_CMD.RESTORE of the channel of bits [19:16] is rejected (18 R387): CAL_CRC_IN must match its word 31. -/
def State.calRestoreWhy (s : State) (site : Nat) (val : Word) : Option Nat :=
  let ch := fld val 16 4
  if 8 ≤ ch ∨ s.reg (mcomPage site + 0x5C) ≠ s.calCrc site ch then some 3 else none

/-- CAL_CMD.RESTORE (18 R387). -/
def State.calRestore (s : State) (site : Nat) (val : Word) : State :=
  let ch := fld val 16 4
  (s.putBit (mcomPage site + 0x60) ch true).refreshDue site ch

/-- A write of CAL_CMD (18): rejected whole where one of its commands is (03 R71); else START, ABORT and RESTORE in turn. -/
def State.calCmd (s : State) (req site : Nat) (val : Word) : State :=
  let start := decide (fld val 0 8 ≠ 0)
  match if start then s.calStartWhy site val else none with
  | some r => s.reject req (mcomPage site) 0x58 r
  | none =>
    match if bitOf val 20 then s.calRestoreWhy site val else none with
    | some r => s.reject req (mcomPage site) 0x58 r
    | none =>
      let s1 := if start then s.calStart site val else s
      let s2 := if bitOf val 8 then s1.calAbort site else s1
      if bitOf val 20 then s2.calRestore site val else s2

/-- The ladder tap of a TIA step (18 R378): the k in 1-16 whose current through REFR is nearest 50 % of feedback f's full
scale; 2^-k × R_f ÷ REF_R_CERT nearest 1/2. -/
def tiaTap (f : Nat) (r : Fp) : Nat :=
  let rf : Nat := [10000, 100000, 1000000, 10000000].getD f 10000
  let dist (k : Nat) : Fp :=
    let d := fpAdd (fpDiv (.fin false rf (2 ^ k)) r) (.fin true 1 2)
    if fpLt d (.fin false 0 1) then fpNeg d else d
  (List.range 16).foldl (fun b i => if fpLt (dist (i + 1)) (dist b) then i + 1 else b) 1

/-- The entry a step yields (18 R378): its table word and value, and whether it lies within the limits of R379. -/
def calResult (s : State) (site ch : Nat) (k : CalKind) (r : CalSample) : Nat × Word × Bool :=
  let c := s.calib site
  let n := s.regFld (mcomPage site + 0x54) 8 5
  let mean : Fp := fpDiv (fpOfInt r.sum) (fpOfInt n)
  let rcert := f32 (s.reg (mcomPage site + 0x50))
  let word (w : Nat) : Word := (c.got.find? (·.1 = w)).map (·.2) |>.getD (s.calUse site ch w)
  let got (w : Nat) : Fp := fpOfInt (word w).toInt
  let lim (w : Word) : Bool := fpLe (.fin false 98 100) (f32 w) && fpLe (f32 w) (.fin false 102 100)
  let offOk (x : Int) : Bool := decide (x.natAbs ≤ 2 ^ 16)
  match k with
  | .zero i => let x := fpRne mean; (2 * i, wordOfInt x, offOk x && !r.clamped)
  | .gain i =>
    let g := toF32 (fpDiv (fpOfInt (2 ^ 22)) (fpAdd mean (fpNeg (got (2 * i)))))
    (2 * i + 1, g, lim g && !r.clamped)
  | .tiaOff f => let x := fpRne mean; (16 + 2 * f, wordOfInt x, offOk x && !r.clamped)
  | .tiaGain f =>
    let rf : Nat := [10000, 100000, 1000000, 10000000].getD f 10000
    let want := fpDiv (.fin false (2 ^ 23 * rf) (2 ^ tiaTap f rcert)) rcert
    let g := toF32 (fpDiv want (fpAdd mean (fpNeg (got (16 + 2 * f)))))
    (17 + 2 * f, g, lim g && !r.clamped)
  | .senseL => let g := toF32 (fpDiv (fpDiv (f32 r.vRefr) rcert) (f32 r.iSense)); (24, g, lim g && !r.clamped)
  | .senseH => let g := toF32 (fpDiv (fpDiv (f32 r.vRefr) rcert) (f32 r.iSense)); (25, g, lim g && !r.clamped)
  | .div10 =>
    let g := toF32 (fpDiv (fpOfInt (2 ^ 22)) (fpMul (fpOfInt 10) (fpMul (fpAdd mean (fpNeg (got 0))) (f32 (word 1)))))
    (26, g, lim g && !r.clamped)

/-- The checks before a run's first step (18 R379). -/
def calRefOk (s : State) (site : Nat) (r : CalSample) : Bool :=
  let p := mcomPage site
  let v := f32 (s.reg (p + 0x4C))
  let mv := fpDiv (fpOfInt (s.regFld (p + 0x44) 0 16)) (fpOfInt 1000)
  let near (a b : Fp) (pct : Nat) : Bool :=
    let d := fpAdd a (fpNeg b)
    let l := fpDiv (fpMul b (fpOfInt pct)) (fpOfInt 100)
    fpLe d l && fpLe (fpNeg l) d
  s.regBit (p + 0x48) 0 && near mv v 1 && near (f32 r.refrOhm) (f32 (s.reg (p + 0x50))) 5

/-- A run succeeds (18 R377, R379, R380): every entry is written together with T_CAL, CAL_TIME and the certificates. -/
def State.calDone (s : State) (site ch : Nat) (got : List (Nat × Word)) (full : Bool) : State :=
  let p := mcomPage site
  let s1 := got.foldl (fun s e => s.setCalWord site ch e.1 e.2) s
  let s2 := (((s1.setCalWord site ch 27 (s.reg (p + 0x40))).setCalWord site ch 28 (BitVec.ofNat 32 (s.ns / 1000000000))).setCalWord site ch 29
    (s.reg (p + 0x4C))).setCalWord site ch 30 (s.reg (p + 0x50))
  let s3 := if full then s2.putBit (p + 0x60) ch true else s2
  (((s3.calEnd site 1).putBit (p + 0x60) (8 + ch) false).evt p 1).calNext site

/-- CAL_STEP (18 R378, R379): the active run's present step completes with `res`; it is judged, retried up to 3 times,
and the run advances or ends. -/
def calStepState (site : Nat) (res : CalSample) (s : State) : State :=
  let c := s.calib site
  match c.active, c.steps with
  | some ch, k :: rest =>
    if s.isField site = false ∨ c.waitLive = true then s
    else if c.checked = false ∧ calRefOk s site res = false then ((s.calEnd site 3).evt (mcomPage site) 2).calNext site
    else
      let clamped := res.clamped || s.regBit (mtrPage site ch + 0x70) 8
      let r := calResult s site ch k { res with clamped := clamped }
      if r.2.2 = false then
        if c.tries < 3 then s.setCalib site { c with tries := c.tries + 1, checked := true }
        else ((s.calEnd site (if clamped then 5 else 4)).evt (mcomPage site) 2).calNext site
      else
        let got := c.got ++ [(r.1, r.2.1)]
        let running := s.st (mtrPage site ch) == 2
        let s1 := if running then s.stepBack site ch else s
        if rest = [] then s1.calDone site ch got c.full
        else s1.setCalib site { c with steps := rest, tries := 0, checked := true, got := got, waitLive := running }
  | _, _ => s

def execCalStep (site : Nat) (res : CalSample) (s : State) : Host.Outcome State Fault Refusal :=
  .next (calStepState site res s)

/-- A write of CAL_DATA (18 R387, Control): word 31 is read-only; words 0-30 only while the channel is OFF with no run
pending or active. An accepted write clears CAL_VALID and advances CAL_ADDR. -/
def State.calDataWrite (s : State) (req site : Nat) (val : Word) : State :=
  let p := mcomPage site
  let a := s.regFld (p + 0x64) 0 8
  let ch := a / 32
  let c := s.calib site
  if a % 32 = 31 then s.reject req p 0x68 1
  else if s.st (mtrPage site ch) ≠ 0 ∨ c.active = some ch ∨ ch ∈ c.pendingRuns then s.reject req p 0x68 5
  else ((s.setCalWord site ch (a % 32) val).putBit (p + 0x60) ch false).setNat (p + 0x64) ((a + 1) % 256)

/-- CAL_DATA_READ (18 Control): the word at CAL_ADDR is read and CAL_ADDR advances, wrapping at 256. -/
def execCalDataRead (req site : Nat) (s : State) : Host.Outcome State Fault Refusal :=
  let p := mcomPage site
  if s.present site 0x88 = true ∧ s.reach req site 0x88 = true then
    let a := s.regFld (p + 0x64) 0 8
    let v := if a % 32 = 31 then s.calCrc site (a / 32) else s.calWord site (a / 32) (a % 32)
    .next ({ s with rdata := v }.setNat (p + 0x64) ((a + 1) % 256))
  else .next { s with rdata := 0#32 }

end Sys2Proof.Machine
end

