-- ==== Sys2Proof/Machine/RegOps.lean ====
section
/-!
DEFINITION. Machine/RegOps.lean: the rules of a register write (00 R5, R7; 03 R51, R60, R61, R71): the range checks that a field
table cannot hold, the state-dependent rules of each block, and what a block does when one of its registers has changed.
-/
namespace Sys2Proof.Machine

/-- The 64-byte unit of an AXIS_GROUP nibble: 0 to 7, or 15 (15 R313). -/
def groupNibbles (v : Word) : Bool := (List.range 8).all (fun i => decide (fld v (4 * i) 4 < 8) || fld v (4 * i) 4 == 15)

/-- Whether lines fit FRAME_MAX at the gate's pitch (14 R309): ceil(FRAME_PITCH / PITCH) + PERF_WIN. -/
def State.framesFit (s : State) (site k win : Nat) : Bool :=
  decide (cdiv (s.framePitch site k) (s.reg (puPage site (k / 2) + 0x44)).toNat + win ≤ s.frameMax site k)

/-- Whether LEAD_R lies in 0 to 1000, REF_V_CERT in 1.0 to 2.6 and REF_R_CERT in 1000 to 10 000 (17, 18 Control). -/
def fpWithin (v : Word) (lo hi : Fp) : Bool := fpLe lo (f32 v) && fpLe (f32 v) hi

/-- The pacing page's range rules over the registers it holds (16 Control). -/
def State.pacingBad (s : State) (p : Nat) : Bool :=
  decide (s.regFld (p + 0x44) 16 16 ≤ s.regFld (p + 0x44) 0 16) || decide ((s.reg (p + 0x4C)).toNat ≤ (s.reg (p + 0x48)).toNat)
    || decide (s.regFld (p + 0x54) 0 17 < s.regFld (p + 0x50) 0 17) || decide (0x10000 < s.regFld (p + 0x54) 0 17) || s.reg (p + 0x68) == 0#32

/-- Range rules beyond a register's field limits (03 R61), true where a write of `v` breaks one. -/
def State.valueBad (s : State) (site blk off : Nat) (v : Word) : Bool :=
  let ty := s.typeAt site blk
  let p := pg site blk
  if ty = 0x34 then
    let k := blk - 0x28
    (off == 0x44 && (fld v 16 16 % 64 != 0 || decide (fld v 16 16 < 64) || decide (16384 < fld v 16 16)))
      || (off == 0x48 && (match (s.strm site k).rmax with | some r => decide (r < v.toNat) | none => false))
      || (off == 0xA8 && (match (s.strm site k).pipe with | some b => decide (v.toNat < s.drainBpl site k b.layers) | none => false))
  else if ty = 0x35 then off == 0x48 && (fld v 16 8 == 0)
  else if ty = 0x36 then
    let k := blk - 0x60
    let noPerf := match (s.strm site k).pipe with | some b => b.perfStage == 0 | none => true
    (off == 0x40 && bitOf v 0 && (s.framePitch site k == 0 || !s.framesFit site k (fld v 16 10) || (bitOf v 1 && noPerf)))
      || (off == 0x44 && v == 0#32 && s.framesEn site k)
  else if ty = 0x37 then
    (off == 0x40 && fld v 4 2 == 1 && fld v 16 8 == 0) || (off == 0x58 && decide (fld v 16 16 ≤ fld v 0 16))
  else if ty = 0x38 then off == 0x40 && bitOf v 4 && !(s.groupAxes site (blk - 0x50)).contains (fld v 0 4)
  else if ty = 0x39 then (off == 0x40 || off == 0x44) && !groupNibbles v
  else if ty = 0x3A then (off == 0x44 || off == 0x48 || off == 0x4C || off == 0x50 || off == 0x54 || off == 0x68) && (s.setReg (p + off) v).pacingBad p
  else if ty = 0x3B then off == 0x68 && !fpWithin v (.fin false 0 1) (.fin false 1000 1)
  else if ty = 0x3D then
    (off == 0x4C && !fpWithin v (.fin false 1 1) (.fin false 26 10)) || (off == 0x50 && !fpWithin v (.fin false 1000 1) (.fin false 10000 1))
  else if ty = 0x0B then off == 0x40 && decide (168 < fld v 8 8)
  else if ty = 0x4C then
    let ok (f : Nat) : Bool := decide (400 ≤ f) && decide (f ≤ 1600) && f % 25 == 0
    off == 0x40 && (!ok (fld v 0 12) || !ok (fld v 16 12) || decide (fld v 16 12 < fld v 0 12) || decide (fld v 16 12 < s.dieFloor site))
  else if ty = 0x08 then
    off == 0x60 && decide (cntSub (s.reg (p + 0x5C)).toNat (s.reg (p + 0x60)).toNat < cntSub v.toNat (s.reg (p + 0x60)).toNat)
  else false

/-- The configuration of a stream after a write of ST_CFG or ST_WIN outgrows its entry ring (14 R310). -/
def State.ringOutgrown (s : State) (site k : Nat) (cfg win : Word) : Bool :=
  match (s.strm site k).pipe with
  | none => false
  | some b =>
    let slot := (s.sring (s.destSite site k) (s.destCore site k) (s.destRing site k)).slotBytes
    decide (s.lineBytes site k < rowBytes cfg win) && decide (slot < b.stripeH * (rowBytes cfg win + 32))

/-- Fields of GATE_CFG that define the sensor's geometry (13 R283): all but RETAKE. -/
def gateGeometry : Word := 0x3FFF#32

/-- Whether a write of a configuration register changes what a running gate's next line is captured under (13 R283). -/
def snapReg (ty off : Nat) : Bool :=
  (ty == 0x33 && (off == 0x40 || off == 0x44 || off == 0x48 || off == 0x4C || (decide (0x58 ≤ off) && decide (off ≤ 0xA0)))) || (ty == 0x34 && (off == 0x40 || off == 0x44))

/-- The gate that a gate or stream page belongs to. -/
def gateOfBlk (ty blk : Nat) : Nat := if ty = 0x33 then blk - 0x20 else (blk - 0x28) / 2

/-- The checks of AX_CFG and of gate geometry that hold at a direct write and at a boundary alike (13 R283; 15 Control), for a
register that would change from `old` to `new`. -/
def State.fixedWhileOn (s : State) (site blk off : Nat) (old new : Word) : Bool :=
  let ty := s.typeAt site blk
  let p := pg site blk
  if ty = 0x33 then
    s.st p != 0 && ((off == 0x40 && (old ^^^ new) &&& gateGeometry != 0#32) || ((off == 0x44 || off == 0x54) && old != new))
  else if ty = 0x37 then s.st p != 0 && off == 0x40 && (old ^^^ new) &&& 0x7F#32 != 0#32
  else false

/-- Registers that the continuity monitor holds while ACTIVE (22 R457). -/
def State.guardReg (s : State) (site blk off : Nat) : Bool :=
  let ty := s.typeAt site blk
  if ty = 0x3B then
    s.guardMeter site (blk - 0x78) && (decide (0x40 ≤ off) && decide (off ≤ 0x4C) || (decide (0x58 ≤ off) && decide (off ≤ 0x68)) || decide (0x100 ≤ off))
  else if ty = 0x37 then
    ((s.mon site).st == 3 && (off == 0x4C || off == 0x68)) || (off == 0x40 && s.st (pg site blk) != 7 && s.guardAxis site (blk - 0x40))
  else if ty = 0x39 then (s.mon site).st == 3 && off == 0x48
  else if ty = 0x30 then off == 0x40 && s.guardEncoder site (blk - 0x10)
  else false

/-- The axes whose assignment a write of AXIS_GROUP changes (15 R313). -/
def State.movedAxes (s : State) (site off : Nat) (v : Word) : List Nat :=
  let hi := off == 0x44
  let old := s.reg (dollyPage site + off)
  ((List.range 8).filter (fun i => fld old (4 * i) 4 != fld v (4 * i) 4)).map (fun i => if hi then i + 8 else i)

/-- Whether an axis leads the group of some gate. -/
def State.leads (s : State) (site a : Nat) : Bool := (List.range 8).any (fun g => s.leader site g == some a)

/-- The state rules of a direct write (03 R72): a REASON, or none. -/
def State.stateReason (s : State) (req site blk off : Nat) (old new : Word) : Option Nat :=
  let ty := s.typeAt site blk
  let p := pg site blk
  let state (b : Bool) : Option Nat := if b then some 5 else none
  if s.guardReg site blk off then some 4
  else if s.fixedWhileOn site blk off old new then some 5
  else if snapReg ty off = true ∧ old ≠ new ∧ s.active (gatePage site (gateOfBlk ty blk)) = true ∧ s.snapRoom (s.setReg (p + off) new) site (gateOfBlk ty blk) = false then some 5
  else if ty = 0x30 then
    state ((off == 0x40 || off == 0x44) && (List.range 8).any (fun g => s.encOf site g == blk - 0x10 && s.active (gatePage site g)))
  else if ty = 0x31 then
    state (((off == 0x40 || off == 0x44) && s.active (gatePage site (blk - 0x18))) || ((off == 0x48 || off == 0x4C) && s.st (gatePage site (blk - 0x18)) != 0))
  else if ty = 0x34 then
    let k := blk - 0x28
    if (off = 0x40 ∧ s.ringOutgrown site k new (s.reg (p + 0x44)) = true) ∨ (off = 0x44 ∧ s.ringOutgrown site k (s.reg (p + 0x40)) new = true) then some 3 else none
  else if ty = 0x36 then
    state ((off == 0x40 || off == 0x48 || off == 0x4C || off == 0x50 || off == 0x54) && s.st (strPage site (blk - 0x60)) != 0)
  else if ty = 0x37 then
    let i := (off - 0x400) / 16
    let a := blk - 0x40
    state (decide (0x400 ≤ off) && decide ((i + 64 - s.segHead site a % 64) % 64 < (s.segTail site a + 256 - s.segHead site a) % 256))
  else if ty = 0x38 then
    state (off == 0x40 && !(s.groupAxes site (blk - 0x50)).all (fun a => s.st (axPage site a) == 0))
  else if ty = 0x39 then
    state ((off == 0x40 || off == 0x44) && (s.movedAxes site off new).any (fun a => s.st (axPage site a) != 0 || s.leads site a))
  else if ty = 0x3E then state ((off == 0x54 || decide (0x100 ≤ off)) && (s.mon site).st != 1)
  else if ty = 0x0B then
    state (off == 0x40 && bitOf old 0 != bitOf new 0 && (s.slates.any (fun x => x.2.state != 3) || (List.range 16).any (fun t => s.st (mmuPage t) != 0)))
  else if ty = 0x0A then
    state ((s.isMember && s.ensSt == 2) || ((off == 0x40 || off == 0x44) && s.st p != 0))
  else if ty = 0x06 then state (decide (0x100 ≤ off) && s.regFld (p + 0x44) 0 2 == 1)
  else if ty = 0x05 then if req ≠ 0 ∧ req ≠ 17 then some 4 else state (decide (0x100 ≤ off) && s.regFld (p + 0x4C) 0 2 == 1)
  else if ty = 0x08 then
    if off = 0x70 then (if req = 0 then none else some 4) else state (decide (off ≤ 0x50) && decide (0x40 ≤ off) && s.st p != 0)
  else if ty = 0x09 then
    if off = 0x40 ∧ req ≠ 0 then some 4
    else state (((decide (0x40 ≤ off) && decide (off ≤ 0x5C)) || (decide (0x78 ≤ off) && decide (off ≤ 0x90))) && s.st p != 0
      || (off == 0x64 || off == 0x6C) && s.drNet (blk - 0x80))
  else if ty = 0x10 then state (decide (0x90 ≤ off) && decide (off < 0xD0) && !s.lead)
  else none

/-- LIM_POL has changed (15 R331): an input already qualified shows its level under the new polarity. -/
def State.limPol (s : State) (site : Nat) (old new : Word) : State :=
  let p := dollyPage site
  (List.range 32).foldl (fun s i =>
    if bitOf old i ≠ bitOf new i ∧ s.regBit (p + 0x50) i = true then
      (s.qualify site i (s.regBit (p + 0x4C) i == bitOf old i)).putBit (p + 0x54) i (s.regBit (p + 0x54) i)
    else s) s

/-- What a block does when one of its registers has changed from `old` to `new`. A mask that makes EVT_PEND non-zero signals the page's
interrupt (03 R57). -/
def State.regDone (s : State) (site blk off : Nat) (old new : Word) : State :=
  let ty := s.typeAt site blk
  let p := pg site blk
  if off = 0x14 then (s.showPend p).signal (s.reg (p + 0x10) &&& old) p
  else if ty = 0x30 then
    let e := blk - 0x10
    if (off = 0x40 ∧ bitOf old 9 = false ∧ bitOf new 9 = true) ∨ (off = 0x44 ∧ old ≠ new) then s.setEnc site e { s.enc site e with idx := none } else s
  else if ty = 0x31 then (if off = 0x40 then s.trackPos site (fld new 0 3) else s)
  else if ty = 0x33 then
    let g := blk - 0x20
    if off = 0x40 ∨ off = 0x44 then (s.showStream site (2 * g)).showStream site (2 * g + 1) else s
  else if ty = 0x34 then (if off = 0x40 ∨ off = 0x44 then (s.showStream site (blk - 0x28)).showAdmit else if off = 0x48 then s.showAdmit else s)
  else if ty = 0x37 then (if off = 0x68 then s.showLims site (blk - 0x40) else s)
  else if ty = 0x39 then (if off = 0x48 then s.limPol site old new else s)
  else if ty = 0x3B then
    let m := blk - 0x78
    let cfg := off == 0x40 || off == 0x44 || off == 0x48 || off == 0x4C || off == 0x50 || off == 0x54 || off == 0x68 || decide (0x100 ≤ off)
    let s1 := s.meterChanged site m off old new
    if cfg = true ∧ old ≠ new then s1.calAbortCh site m 2 else s1
  else if ty = 0x3C then
    if off = 0x40 ∧ old ≠ new then
      let x := s.meter site (fld new 0 3)
      s.setMeter site (fld new 0 3) { x with outWait := (blk - 0x80) :: x.outWait }
    else s
  else if ty = 0x0B then (if off = 0x4C then s.showGran else s)
  else if ty = 0x09 then
    let d := blk - 0x80
    if off = 0x6C then (if d < 32 then s.reserve (s.ringStream d).1 (s.ringStream d).2 else s).showRing d
    else if off = 0x64 then s.showRing d
    else s
  else s

/-- Write a register that has passed its checks, and let its block take the change. -/
def State.regApply (s : State) (site blk off : Nat) (r : RegDef) (v : Word) : State :=
  let a := pg site blk + off
  let old := s.reg a
  let new := maskedWrite r old v
  (s.setReg a new).regDone site blk off old new

/-- The state as it would be with a slot's entries of one page in place, against which a shadow write is range-checked. -/
def State.overlay (s : State) (site k : Nat) : State :=
  (s.slot site k).entries.foldl (fun s e => s.setReg e.1 e.2) s

/-- SPI_CTL.GO (13 R284). -/
def State.spiGo (s : State) (req site g : Nat) : State :=
  if s.regBit (spiPage site g + 0x44) 8 then s.reject req (spiPage site g) 0x44 5 else s.spiStart site g

/-- A register write that has reached its page and is checked and applied (03 R51, R60, R61, R71). -/
def State.regRule (s : State) (req site blk off : Nat) (r : RegDef) (v : Word) : State :=
  let p := pg site blk
  let old := s.reg (p + off)
  let rws := r.acc == .rws
  let range (t : State) : Bool := t.valueBad site blk off v
  match staticReason r v with
  | some why => s.reject req p off why
  | none =>
    if r.acc = .rwl ∧ s.st p = 7 then s.reject req p off 4
    else
      let direct (s : State) : State :=
        if range s then s.reject req p off 3
        else if s.typeAt site blk = 0x35 ∧ off = 0x44 then (if bitOf v 0 then s.spiGo req site (blk - 0x38) else s)
        else match s.stateReason req site blk off old (maskedWrite r old v) with
          | some why => s.reject req p off why
          | none => s.regApply site blk off r v
      if rws then
        match s.openSlot site blk with
        | some k => if range (s.overlay site k) then s.reject req p off 3
          else if (s.slot site k).owner ≠ req then s.reject req p off 7
          else if s.guardReg site blk off then s.reject req p off 4
          else s.shadowPut req site k (p + off) v
        | none => direct s
      else direct s

end Sys2Proof.Machine
end

