-- ==== Sys2Proof/Machine/Txn.lean ====
section
/-!
DEFINITION. Machine/Txn.lean: configuration transactions and cross-site commits (03 R59 to R70; 21 R433).
-/
namespace Sys2Proof.Machine

/-- Keep the stored fields of an accepted TXN_CTRL write: SLOT, POLICY, CROSS, GROUP, SITES. -/
def State.txnStore (s : State) (site blk : Nat) (val : Word) : State :=
  (s.setReg (pg site blk + 0x20) (val &&& 0x00FF0F8B#32)).showTxnPage site blk

/-- Whether a slot is OPEN, ARMED or STAGED. -/
def Slot.busy (x : Slot) : Bool := x.st == 1 || x.st == 2 || x.st == 3

/-- TXN_CTRL.OPEN (03 R59). -/
def State.txnOpen (s : State) (req site blk : Nat) (val : Word) : State :=
  let p := pg site blk
  let k := fld val 0 2
  let x := s.slot site k
  let other := match s.openSlot site blk with | some j => j != k | none => false
  if x.busy = true ∧ x.owner ≠ req then s.reject req p 0x20 7
  else if x.st = 2 ∨ x.st = 3 ∨ other = true then s.reject req p 0x20 8
  else
    let y : Slot := if x.st = 1 then { x with members := if x.members.contains blk then x.members else x.members ++ [blk] }
      else { st := 1, owner := req, members := [blk] }
    ((s.txnStore site blk val).setSlot site k y).showTxn site k

/-- Packages that a group spans (21 R433): more than one makes it a cross-package group. -/
def State.groupPkgs (s : State) (g : Nat) : List Nat :=
  let m := s.regFld (pg 8 0x0C + 0x90 + 4 * g) 0 16
  let l := (List.range 16).filter (fun p => m / 2 ^ p % 2 == 1)
  if 1 < l.length then l else [s.pkg]

/-- The lead of a commit's WHEN in µs at the COMMIT, and before WHEN at the boot master (03 R68, R69; 21 R433). -/
def State.groupAhead (s : State) (g : Nat) : Nat := if 1 < (s.groupPkgs g).length then 200 else 50
def State.groupMargin (s : State) (g : Nat) : Nat := if 1 < (s.groupPkgs g).length then 100 else 10

/-- Sites of a SITES mask. -/
def sitesOf (mask : Nat) : List Nat := [0, 1, 2, 3, 8, 9, 10, 11].filter (fun x => mask / 2 ^ sitesBit x % 2 == 1)

/-- Whether a WHEN fits a COMMIT at a site (03 R62, R68). -/
def State.whenOk (s : State) (site g : Nat) (cross : Bool) (w : When) : Bool :=
  if cross then w.kind == 3 && decide (s.ns + s.groupAhead g * 1000 ≤ w.value * 1000)
  else if s.isField site then w.kind != 1 || streamSite s.asm w.stream == site
  else w.kind == 0 || w.kind == 3

/-- A group's slots that differ in WHEN, POLICY or SITES from one of them (03 R68). -/
def State.groupDiffers (s : State) (g : Nat) (x : Slot) : Bool :=
  (s.groupSlots g).any (fun k => let y := s.slot k.1 k.2; y.arm.at_ != x.arm.at_ || y.arm.discard != x.arm.discard || y.sites != x.sites)

/-- A COMMIT accepted: slot `k` becomes the ARMED slot `y` in arming order, and a member that cannot agree, or whose sites are
not all up, ends its cross-site group at once (03 R62, R65, R68, R70). -/
def State.armSlot (s : State) (site k : Nat) (y : Slot) : State :=
  let s1 : State := { s with order := s.order + 1 }
  let s2 := if y.cross = true ∧ s.groupSlots y.group = [] then s1.setGroup y.group {} else s1
  let s3 := (s2.setSlot site k y).showTxn site k
  if y.cross = true ∧ s3.groupDiffers y.group y = true then s3.abortGroup y.group 7 false
  else if y.cross = true ∧ (sitesOf y.sites).any (fun z => !s3.siteUp z) = true then s3.abortGroup y.group 8 false
  else s3

/-- TXN_CTRL.COMMIT (03 R62, R65, R68). DEDUCED (log 21): the requester that opened a slot owns it while it is OPEN, ARMED or STAGED, so a
COMMIT to a DONE or ABORTED slot is rejected with TXN_STATE whoever writes it; and MEMBER keeps showing the pages of a DONE or ABORTED
slot until it is opened anew. -/
def State.txnCommit (s : State) (req site blk : Nat) (val : Word) : State :=
  let p := pg site blk
  let k := fld val 0 2
  let x := s.slot site k
  let cross := bitOf val 7
  let g := fld val 8 4
  let sites := fld val 16 8
  if x.busy = true ∧ x.owner ≠ req then s.reject req p 0x20 7
  else if x.st ≠ 1 ∨ x.members.contains blk = false ∨ (cross = true ∧ (s.groupSlots g).any (fun j => j.1 == site) = true) then s.reject req p 0x20 8
  else if x.overflow then s.reject req p 0x20 6
  else if cross = true ∧ (sites / 2 ^ sitesBit site % 2 = 0 ∨ (sitesOf sites).any (fun y => dieAt s.asm y == .none) = true) then s.reject req p 0x20 3
  else match decodeWhen s.asm (s.wide (p + 0x28)) with
    | none => s.reject req p 0x20 9
    | some w =>
      if s.whenOk site g cross w = false then s.reject req p 0x20 9
      else (s.txnStore site blk val).armSlot site k
        { x with st := 2, arm := s.armed site w (bitOf val 3), cross := cross, group := g, sites := sites }

/-- TXN_CTRL.ABORT (03 R67, R70). -/
def State.txnAbort (s : State) (req site blk : Nat) (val : Word) : State :=
  let p := pg site blk
  let k := fld val 0 2
  let x := s.slot site k
  if x.busy = false then s.reject req p 0x20 8
  else if x.owner ≠ req then s.reject req p 0x20 7
  else if s.slotGo site k then s.reject req p 0x20 8
  else (s.txnStore site blk val).abortMember site k 1 false

/-- A write of TXN_CTRL that has reached its page (03 Control). -/
def State.txnRule (s : State) (req site blk : Nat) (val : Word) : State :=
  let p := pg site blk
  let cmds := (fld val 4 1) + (fld val 5 1) + (fld val 6 1)
  if hasTxn (s.typeAt site blk) = false then s.reject req p 0x20 11
  else if val &&& 0xFF00F004#32 ≠ 0#32 then s.reject req p 0x20 2
  else if 1 < cmds then s.reject req p 0x20 8
  else if bitOf val 4 then s.txnOpen req site blk val
  else if bitOf val 5 then s.txnCommit req site blk val
  else if bitOf val 6 then s.txnAbort req site blk val
  else s.txnStore site blk val

/-- TXN_STAGED (03 R63, R65): every entry is staged; a slot whose boundary had passed when it was armed, or has passed meanwhile, is
late, and applies at the first boundary of its kind after now. -/
def execTxnStaged (site slot : Nat) (s : State) : Host.Outcome State Fault Refusal :=
  let x := s.slot site slot
  .next (if slot < 4 ∧ x.st = 2 then
      let late := x.arm.late || (!x.cross && s.passed site x.arm.at_)
      let arm := if late then { x.arm with late := true, lateAt := s.nextBoundary site x.arm.at_.kind } else x.arm
      (s.setSlot site slot { x with st := 3, arm := arm }).showTxn site slot
    else s)

/-- The state-dependent checks of one staged entry (03 R64), with the slot's other entries in place (`t`). -/
def State.entryBad (s t : State) (site : Nat) (e : Nat × Word) : Bool :=
  let blk := blkOf e.1
  let off := offOf e.1
  let ty := s.typeAt site blk
  let st := s.st (pg site blk)
  if off = 8 then
    s.guardCtrl site blk (bitOf e.2 0) || (bitOf e.2 0 && (st == 0 || st == 3) && (t.enReason site blk).isSome)
  else if ty = 0x35 ∧ off = 0x44 then bitOf e.2 0 && s.regBit (pg site blk + 0x44) 8
  else
    let k := blk - 0x28
    let grown := ty == 0x34 && (off == 0x40 || off == 0x44) && s.ringOutgrown site k (t.reg (strPage site k + 0x40)) (t.reg (strPage site k + 0x44))
    s.guardReg site blk off || s.fixedWhileOn site blk off (s.reg e.1) e.2 || grown || t.valueBad site blk off e.2 ||
      (snapReg ty off && s.reg e.1 != e.2 && s.active (gatePage site (gateOfBlk ty blk)) && !s.snapRoom t site (gateOfBlk ty blk))

/-- Whether an entry writes CTRL. -/
def entryCtrl (e : Nat × Word) : Bool := offOf e.1 == 8

/-- The state with the staged register values in place. -/
def State.staged (s : State) (site k : Nat) : State :=
  ((s.slot site k).entries.filter (fun e => !entryCtrl e)).foldl (fun s e =>
    match findReg (s.typeAt site (blkOf e.1)) (offOf e.1) with | some r => s.setReg e.1 (maskedWrite r (s.reg e.1) e.2) | none => s) s

/-- The reason a slot's boundary fails (03 R64): MEMBER_FAULT, MEMBER_LOCKED, CHECK_FAIL, in that order. -/
def State.boundaryReason (s : State) (site k : Nat) : Option Nat :=
  let x := s.slot site k
  let t := s.staged site k
  if x.members.any (fun b => s.st (pg site b) == 5) then some 4
  else if x.members.any (fun b => s.st (pg site b) == 7) then some 5
  else if x.entries.any (fun e => s.entryBad t site e) then some 3
  else none

/-- Apply one staged register value (03 R63, R70): RWL fields of a LOCKED page are discarded; a committed GO starts its
transfer. -/
def State.applyEntry (s : State) (site : Nat) (e : Nat × Word) : State :=
  let blk := blkOf e.1
  let off := offOf e.1
  let ty := s.typeAt site blk
  if ty = 0x35 ∧ off = 0x44 then (if bitOf e.2 0 then s.spiStart site (blk - 0x38) else s)
  else match findReg ty off with
    | some r => if r.acc = .rwl ∧ s.st (pg site blk) = 7 then s else s.regApply site blk off r e.2
    | none => s

/-- Apply one staged CTRL value (03 R54, R55, R70): a member in FAULT or LOCKED takes the bit and stays in its state. -/
def State.applyCtrl (s : State) (site : Nat) (e : Nat × Word) : State :=
  let blk := blkOf e.1
  let p := pg site blk
  if s.st p = 5 ∨ s.st p = 7 then s.putBit (p + 8) 0 (bitOf e.2 0)
  else if bitOf e.2 0 then s.enSet site blk else s.enClear site blk

/-- A slot applies (03 R63, R65, R66): every staged value at once, then DONE with TXN_DONE on every member page; a late one records
`stamp`, the line, tick or µs at which it applies. -/
def State.applySlot (s : State) (site k stamp : Nat) (late : Bool) : State :=
  let x := s.slot site k
  let s1 := (x.entries.filter (fun e => !entryCtrl e)).foldl (fun s e => s.applyEntry site e) s
  let s2 := (x.entries.filter entryCtrl).foldl (fun s e => s.applyCtrl site e) s1
  let s3 := s2.setSlot site k { x with st := 4, entries := [], late := late }
  let s4 := x.members.foldl (fun s b =>
    let p := pg site b
    (if late then (s.setNat (p + 0x30) stamp).evt p 28 else s).evt p 27) s3
  s4.showTxn site k

/-- The boundary of a slot that stands alone has come (03 R64 to R66); `late` where it comes late. -/
def State.boundary (s : State) (site k line : Nat) (late : Bool) : State :=
  let x := s.slot site k
  if late = true ∧ x.arm.discard = true then s.abortSlot site k 2 true
  else match s.boundaryReason site k with
    | some r => s.abortSlot site k r late
    | none =>
      let s1 := s.applySlot site k (s.lateStamp site line x.arm) late
      if late then s1.lateLine x.arm line else s1

/-- Whether the boundary of a slot that stands alone has come, LINE apart, which LINE_TRIGGER runs; a late slot under DISCARD
is dropped at once. -/
def State.slotDue (s : State) (site k : Nat) : Bool :=
  let x := s.slot site k
  decide (k < 4) && !x.cross && x.st == 3 && ((x.arm.late && x.arm.discard) || (x.arm.at_.kind != 1 && s.due site x.arm))

/-- Whether slot `k` is the one of its site whose boundary runs next: no other due slot of the same KIND comes before it (03 R66). -/
def State.slotNext (s : State) (site k : Nat) : Bool :=
  s.slotDue site k && [0, 1, 2, 3].all (fun j => j == k || !(s.slotDue site j && (s.slot site j).arm.at_.kind == (s.slot site k).arm.at_.kind &&
    s.runsBefore site (s.slot site j).arm (s.slot site k).arm))

/-- Apply or abort the next due slot of a site, LINE apart; none is due: nothing. -/
def State.commitNext (s : State) (site : Nat) : State :=
  match [0, 1, 2, 3].find? (fun k => s.slotNext site k) with
  | some k => s.boundary site k 0 (s.slot site k).arm.late
  | none => s

/-- Within one block clock a commit takes effect before any direct write that arrives in that same clock (03 R66): the due slots of a
site, four at most, go first. -/
def State.commitsFirst (s : State) (site : Nat) : State := (List.range 4).foldl (fun s _ => s.commitNext site) s

/-- Whether no slot of a site waits for a boundary that has come. -/
def State.noneDue (s : State) (site : Nat) : Bool := [0, 1, 2, 3].all (fun k => !s.slotDue site k)

/-- A write of CTRL (03 R51, R54). -/
def State.ctrlWrite (s : State) (req site blk : Nat) (val : Word) : State :=
  match s.gateWrite req site blk 8 with
  | some t => t
  | none => (s.commitsFirst site).ctrlRule req site blk val

/-- CTRL_EN_SET (03 R54). -/
def execCtrlEnSet (req site blk : Nat) (s : State) : Host.Outcome State Fault Refusal := .next (s.ctrlWrite req site blk 1#32)
/-- CTRL_EN_CLEAR (03 R54, R55). -/
def execCtrlEnClear (req site blk : Nat) (s : State) : Host.Outcome State Fault Refusal := .next (s.ctrlWrite req site blk 0#32)
/-- SOFT_RESET (03 R56). -/
def execSoftReset (req site blk : Nat) (s : State) : Host.Outcome State Fault Refusal := .next (s.ctrlWrite req site blk 4#32)

/-- The WHEN of a group's slots in µs, and its policy. -/
def State.groupWhen (s : State) (g : Nat) : Option Armed := ((s.groupSlots g).head?).map (fun k => (s.slot k.1 k.2).arm)

/-- Whether every report a group waits for is in (03 R69; 21 R433). -/
def State.allReported (s : State) (g : Nat) : Bool :=
  match s.groupSlots g with
  | [] => false
  | k :: _ => (s.groupPkgs g).all (fun p => (sitesOf (s.slot k.1 k.2).sites).all (fun x => (s.group g).reports.contains (p, x, 0)))

/-- Set GO once every report is in (03 R69, R70): at WHEN, or late under EXECUTE at the first whole µs that lies far enough
ahead; a last report that comes after WHEN + 1 ms finds the group aborted. -/
def State.setGo (s : State) (g : Nat) : State :=
  match s.groupWhen g with
  | none => s
  | some a =>
    let x := s.group g
    let late := x.waiting || decide (a.at_.value * 1000 < s.ns + s.groupMargin g * 1000)
    let ahead := if 1 < (s.groupPkgs g).length then 100000 else 20000
    if s.allReported g = false then s
    else if a.at_.value * 1000 + 1000000 < s.ns then s.abortGroup g 9 true
    else if late = false then s.setGroup g { x with go := true, tGo := a.at_.value }
    else if a.discard then s.abortGroup g 2 true
    else s.setGroup g { x with go := true, tGo := (s.ns + ahead + 999) / 1000 }

/-- STAGED_REPORT (03 R69): a member site's slot is staged; the site's checks pass, or its failure aborts the group. A report from
another package arrives over the relays as it is (21 R433). -/
def execStagedReport (pkg site group : Nat) (s : State) : Host.Outcome State Fault Refusal :=
  let add (s : State) : State := (s.setGroup group { s.group group with reports := (s.group group).reports ++ [(pkg, site, 0)] }).setGo group
  .next (if 16 ≤ group ∨ (s.group group).go = true ∨ (s.group group).reports.contains (pkg, site, 0) = true then s
    else if pkg ≠ s.pkg then (if (s.groupPkgs group).contains pkg = true ∧ s.groupSlots group ≠ [] then add s else s)
    else match (s.groupSlots group).find? (fun k => k.1 == site && (s.slot k.1 k.2).st == 3) with
      | none => s
      | some k => match s.boundaryReason k.1 k.2 with
        | some r => s.abortGroup group r false
        | none => add s)

/-- GROUP_REPORT_DEADLINE (03 R69): WHEN - 10 µs with a report missing. -/
def execGroupReportDeadline (group : Nat) (s : State) : Host.Outcome State Fault Refusal :=
  .next (match s.groupWhen group with
    | none => s
    | some a =>
      if (s.group group).go = true ∨ s.ns + s.groupMargin group * 1000 < a.at_.value * 1000 then s
      else if a.discard then s.abortGroup group 2 true
      else s.setGroup group { s.group group with waiting := true })

/-- GROUP_ABORT (03 R69): WHEN + 1 ms with a report still missing. -/
def execGroupAbort (group : Nat) (s : State) : Host.Outcome State Fault Refusal :=
  .next (match s.groupWhen group with
    | none => s
    | some a =>
      if (s.group group).go = true ∨ s.ns < a.at_.value * 1000 + 1000000 then s else s.abortGroup group 9 true)

/-- CROSS_APPLY (03 R69, R70): at T_GO a member site applies its slot, which where it is late records T′; without GO at its boundary the
slot aborts. -/
def execCrossApply (site group : Nat) (s : State) : Host.Outcome State Fault Refusal :=
  .next (match (s.groupSlots group).find? (fun k => k.1 == site) with
    | none => s
    | some k =>
      let x := s.slot k.1 k.2
      let gr := s.group group
      if gr.go then (if gr.tGo * 1000 ≤ s.ns then s.applySlot k.1 k.2 (gr.tGo % 2 ^ 32) (gr.tGo != x.arm.at_.value) else s)
      else if gr.waiting = false ∧ x.arm.at_.value * 1000 ≤ s.ns then s.abortGroup group 9 false
      else s)

end Sys2Proof.Machine
end

