-- ==== Sys2Proof/Machine/Actions.lean ====
section
/-!
DEFINITION. Machine/Actions.lean: line triggers and the scheduled actions that run at lines, ticks and clapper times (02 R31 to
R33, R39 to R46).
-/
namespace Sys2Proof.Machine

/-- An armed pitch change runs (02 R44): PITCH takes the value held at ARM. -/
def State.pitchRun (s : State) (site g line : Nat) (a : Armed) (late : Bool) : State :=
  let p := puPage site g
  let x := s.pos site g
  let s1 := (s.setPos site g { x with pitchArm := none }).putBit (p + 0x5C) 8 false
  let mark (s : State) : State := (s.putBit (p + 0x5C) 9 true).evt p 1
  if late = true ∧ a.discard = true then mark s1
  else
    let s2 := (s1.setNat (p + 0x44) x.pitchNext).evt p 0
    if late then (mark (s2.setNat (p + 0x60) (line % 2 ^ 32))).lateLine a line else s2

/-- What falls due before a line: a pitch change, a slot, a segment start. -/
inductive LineAct
  | pitch
  | slot (k : Nat)
  | seg (a : Nat)
  deriving DecidableEq, Repr

/-- The actions of a gate due before line `l`, each with its place in the arming order (02 R40, R44). -/
def State.lineActs (s : State) (site g l : Nat) : List (Nat × LineAct) :=
  let due (a : Armed) : Bool := s.lineOf site g a && decide (a.at_.value ≤ l)
  (match (s.pos site g).pitchArm with | some a => if due a then [(a.order, LineAct.pitch)] else [] | none => []) ++
    ([0, 1, 2, 3].filter (fun k => (s.slot site k).st == 3 && !(s.slot site k).cross && due (s.slot site k).arm)).map (fun k => ((s.slot site k).arm.order, LineAct.slot k)) ++
    (List.range 16).filterMap (fun a => match s.segArm site a with | some x => if due x then some (x.order, LineAct.seg a) else none | none => none)

/-- Insert an action by its arming order. -/
def insertAct (x : Nat × LineAct) : List (Nat × LineAct) → List (Nat × LineAct)
  | [] => [x]
  | y :: ys => if x.1 ≤ y.1 then x :: y :: ys else y :: insertAct x ys

/-- Run one LINE action before line `l`; it is late where its line lies behind (02 R40, R42). -/
def State.runLineAct (s : State) (site g l : Nat) : LineAct → State
  | .pitch => match (s.pos site g).pitchArm with
    | some a => s.pitchRun site g l a (a.late || decide (a.at_.value < l))
    | none => s
  | .slot k => if (s.slot site k).st = 3 then s.boundary site k l ((s.slot site k).arm.late || decide ((s.slot site k).arm.at_.value < l)) else s
  | .seg a => match s.segArm site a with
    | some x => s.fireSeg site a l { x with late := x.late || decide (x.at_.value < l) }
    | none => s

/-- Start the gate's next line (02 R31, R43, R44): the LINE actions due there run first, but not at a line scanned again. -/
def State.startLine (s : State) (site g : Nat) (late : Bool) : State :=
  let l := (s.pos site g).line
  let acts := if l < (s.gate site g).top then [] else (s.lineActs site g l).foldr insertAct []
  (acts.foldl (fun s a => s.runLineAct site g l a.2) s).capture site g late

/-- Whether a gate may trigger: RUNNING, its triggers not stopped, with a stream that takes lines (13 R268), and none of its streams
stopping or at rest at a splice (16 R342). -/
def State.triggers (s : State) (site g : Nat) : Bool :=
  s.isField site && decide (g < 8) && s.active (gatePage site g) && !(s.gate site g).stopped &&
    (s.active (strPage site (2 * g)) || s.active (strPage site (2 * g + 1))) &&
    [2 * g, 2 * g + 1].all (fun k => s.splState site k == 0 || s.splState site k == 3)

/-- LINE_TRIGGER (02 R31, R33): POS, moving forward from below, has reached NEXT_POS. -/
def execLineTrigger (site g : Nat) (s : State) : Host.Outcome State Fault Refusal :=
  let x := s.pos site g
  .next (if s.triggers site g = true ∧ x.below = true ∧ x.next / 256 ≤ s.encPos site (s.encOf site g) ∧ (s.gate site g).late = false then
      if s.sensorReady site g then s.startLine site g false
      else (s.setGate site g { s.gate site g with late := true }).evt (puPage site g) 2
    else s)

/-- LATE_TRIGGER (02 R33): the sensor is ready for a line whose trigger position was reached before. -/
def execLateTrigger (site g : Nat) (s : State) : Host.Outcome State Fault Refusal :=
  .next (if s.triggers site g = true ∧ (s.gate site g).late = true ∧ s.sensorReady site g = true then s.startLine site g true else s)

/-- A pitch change takes its place in arming order; one for now, or one already late that is to be discarded, runs at once
(02 R40, R42). -/
def State.armPitch (s : State) (site g : Nat) (w : When) (a : Armed) : State :=
  let x := s.pos site g
  let s1 := ({ s with order := s.order + 1 } : State).setPos site g { x with pitchArm := some a, pitchNext := (s.reg (puPage site g + 0x50)).toNat }
  if w.kind = 0 ∨ (a.late = true ∧ a.discard = true) then s1.pitchRun site g x.line a a.late else s1

/-- A write of PITCH_CTL (02 R42, Control). -/
def State.pitchCtl (s : State) (req site g : Nat) (val : Word) : State :=
  let p := puPage site g
  let base := (s.putBit (p + 0x5C) 1 (bitOf val 1)).putBit (p + 0x5C) 9 (s.regBit (p + 0x5C) 9 && !bitOf val 9)
  if bitOf val 0 = false then base
  else if s.reg (p + 0x50) = 0#32 then s.reject req p 0x5C 3
  else match decodeWhen s.asm (s.wide (p + 0x54)) with
    | none => s.reject req p 0x5C 9
    | some w =>
      let a := s.armed site w (bitOf val 1)
      if ¬(w.kind = 0 ∨ (w.kind = 1 ∧ s.lineOf site g a = true)) then s.reject req p 0x5C 9
      else (base.putBit (p + 0x5C) 8 true).armPitch site g w a

/-- The register CEVn_WHEN_LO. -/
def cevReg (n : Nat) : Nat := clkPage + 0x80 + 16 * n
def State.cev (s : State) (n : Nat) : Option Armed := (s.cevs.find? (fun p => p.1 == n)).map (·.2)

/-- Clapper event n runs, or is dropped late (02 R40, R42; 06 R131). -/
def State.cevRun (s : State) (n : Nat) (a : Armed) : State :=
  let r := cevReg n
  let s1 := ({ s with cevs := tabDrop n s.cevs } : State).putBit (r + 8) 8 false
  let mark (s : State) : State := (s.putBit (r + 8) 9 true).evt clkPage 8
  if a.late = true ∧ a.discard = true then mark s1
  else
    let s2 := s1.evt clkPage (4 + n)
    let s3 := if s2.regBit (r + 8) 2 then s2.eventTo 32 1 8 1 n 0 else s2
    if a.late then mark (s3.setNat (r + 12) (s.us % 2 ^ 32)) else s3

/-- A clapper event takes its place in arming order; one for now, or one already late that is to be discarded, runs at once
(02 R40, R42). -/
def State.armCev (s : State) (n : Nat) (w : When) (a : Armed) : State :=
  let s1 : State := { s with order := s.order + 1, cevs := tabIns n a (tabDrop n s.cevs) }
  if w.kind = 0 ∨ (a.late = true ∧ a.discard = true) then s1.cevRun n a else s1

/-- A write of CEVn_CTL (02 R42, Control). -/
def State.cevCtl (s : State) (req n : Nat) (val : Word) : State :=
  let r := cevReg n
  let base := ((s.putBit (r + 8) 1 (bitOf val 1)).putBit (r + 8) 2 (bitOf val 2)).putBit (r + 8) 9 (s.regBit (r + 8) 9 && !bitOf val 9)
  if bitOf val 0 = false then base
  else match decodeWhen s.asm (s.wide r) with
    | none => s.reject req clkPage (0x88 + 16 * n) 9
    | some w =>
      if ¬(w.kind = 0 ∨ w.kind = 3) then s.reject req clkPage (0x88 + 16 * n) 9
      else (base.putBit (r + 8) 8 true).armCev n w (s.armed 8 w (bitOf val 1))

/-- CEV_ARM (02 R42). -/
def execCevArm (req n : Nat) (val : Word) (s : State) : Host.Outcome State Fault Refusal :=
  .next (if n < 4 then s.asWrite 0x02 req 8 1 (0x88 + 16 * n) (fun s => s.cevCtl req n val) else s)

/-- The site whose clapper copy or tick counter an action follows. -/
def actSite : ActionRef → Nat
  | .cev _ => 8
  | .slot site _ => site
  | .seg site _ => site

/-- The armed action a reference names, where it is of a KIND and its boundary has come (02 R40). -/
def State.dueAct (s : State) (kind : Nat) : ActionRef → Option Armed
  | .cev n => (s.cev n).filter (fun a => a.at_.kind == kind && s.due 8 a)
  | .slot site k => if (s.slot site k).arm.at_.kind = kind ∧ s.slotDue site k = true then some (s.slot site k).arm else none
  | .seg site a => (s.segArm site a).filter (fun x => s.isField site && decide (a < 16) && x.at_.kind == kind && s.due site x)

/-- Every action that can be armed at a CLAPPER or TICK time. -/
def State.actRefs (s : State) : List ActionRef :=
  s.cevs.map (fun p => ActionRef.cev p.1) ++ s.slots.map (fun p => ActionRef.slot (p.1 / 4) (p.1 % 4)) ++
    s.segArms.map (fun p => ActionRef.seg (p.1 / 16) (p.1 % 16))

/-- Whether no other due action of a KIND comes before this one (02 R44; 03 R66): CLAPPER actions follow one clapper, TICK actions the
counter of their own field die. -/
def State.actNext (s : State) (kind : Nat) (act : ActionRef) (a : Armed) : Bool :=
  s.actRefs.all (fun r => r == act || (kind == 2 && actSite r != actSite act) ||
    match s.dueAct kind r with | some b => !s.runsBefore (actSite act) b a | none => true)

/-- Run an action whose boundary has come. -/
def State.runRef (s : State) (a : Armed) : ActionRef → State
  | .cev n => s.cevRun n a
  | .slot site k => s.boundary site k 0 a.late
  | .seg site n => s.fireSeg site n 0 a

/-- Run an armed action of one KIND whose boundary has come, in the order of 02 R44: while an earlier one waits it does not run. -/
def State.runAction (s : State) (kind : Nat) (act : ActionRef) : State :=
  match s.dueAct kind act with
  | some a => if s.actNext kind act a then s.runRef a act else s
  | none => s

/-- CLAPPER_ACTION (02 R40): the clapper has reached an armed action's time. -/
def execClapperAction (act : ActionRef) (s : State) : Host.Outcome State Fault Refusal := .next (s.runAction 3 act)
/-- TICK_ACTION (02 R40, R41): the tick counter has reached an armed action's tick. -/
def execTickAction (act : ActionRef) (s : State) : Host.Outcome State Fault Refusal := .next (s.runAction 2 act)

/-- TXN_BOUNDARY (03 R64, R66): a slot that stands alone, at a NOW boundary in the order of its site's slots, at a TICK or CLAPPER
boundary in the order of all the actions due there. -/
def execTxnBoundary (site slot : Nat) (s : State) : Host.Outcome State Fault Refusal :=
  let a := (s.slot site slot).arm
  .next (if s.slotNext site slot = true ∧ (a.at_.kind = 2 ∨ a.at_.kind = 3 → s.actNext a.at_.kind (.slot site slot) a = true) then
      s.boundary site slot 0 a.late
    else s)

end Sys2Proof.Machine
end

