-- ==== Sys2Proof/Machine/Combine.lean ====
section
/-!
DEFINITION. Machine/Combine.lean: the combine units (08 R165 to R168, R173, R175, R176). A sending core is named as
site × 256 + physical core; it stands for the work whose tree is meant, in that core's present layer.
-/
namespace Sys2Proof.Machine

/-- The leaf op of a core's layer that an output tile belongs to, with its index and the tile's number within it (08 R165; log 48). -/
def leafOf (cont : List Byte) (loc layer tile : Nat) : Option (Nat × Op × Nat) :=
  ((layerOps cont loc layer).find? (fun x =>
    let b := tileBase cont loc layer x.1
    decide (b ≤ tile) && decide (tile < b + mTiles x.2 (declShape x.2) * nTiles x.2 (declShape x.2)))).map (fun x => (x.1, x.2, tile - tileBase cont loc layer x.1))

/-- The output tiles that a leaf op of a core sends under the run-time lengths of its work (08 R171, R173). -/
def State.leafTiles (s : State) (w : Work) (cont : List Byte) (loc layer pc : Nat) (o : Op) : List Nat :=
  (liveTiles o (s.shapeOf w cont loc layer pc o)).map (fun t => tileBase cont loc layer pc + t)



/-- Replace a node of a combine unit. -/
def State.putNode (s : State) (site b : Nat) (n : Node) : State :=
  let x := s.cmb site b
  s.setCmb site b { x with nodes := x.nodes.map (fun m => if m.work = n.work ∧ m.layer = n.layer ∧ m.idx = n.idx then n else m) }



/-- A combine-unit fault (08 R175): the page's fault, and the contained error of the take. -/
def State.cmbFault (s : State) (site b : Nat) (w : Work) (code : Nat) : State :=
  ((s.blockFault (cmbPage site b) code 2).dropNodes w).contained w code

/-- Whether a unit holds nodes of a confidential tenant (08 R176). -/
def State.cmbConf (s : State) (site b : Nat) : Bool := (s.cmb site b).nodes.any (fun n => s.conf (s.workTenant n.work))

/-- The rows that an operand has for a tile: a leaf core's partial not yet sent, or an earlier node's result. -/
def State.operandRows (s : State) (w : Work) (cont : List Byte) (layer off : Nat) (ref : Bool × Nat) (tile : Nat) : Option (List Word) :=
  if ref.1 then
    let pl := s.nodePlace w cont off ref.2
    match (s.cmb pl.1 pl.2).node w layer ref.2 with
    | some n => tileOf n.outs tile
    | none => none
  else match s.corePlace w ref.2 with
    | some pl => if (s.core pl.1 pl.2).sent.contains tile then none else tileOf (s.core pl.1 pl.2).partials tile
    | none => none

/-- Take a tile's rows from the operand that sent them: a leaf counts them as sent. -/
def State.takeRows (s : State) (w : Work) (ref : Bool × Nat) (tile : Nat) : State :=
  if ref.1 then s
  else match s.corePlace w ref.2 with
    | some pl => let x := s.core pl.1 pl.2; s.setCore pl.1 pl.2 { x with sent := x.sent ++ [tile] }
    | none => s

/-- PARTIAL_ARRIVE (08 R167, R175): the rows of an output tile arrive at a node's LEFT or RIGHT operand; a node that the tree does
not hold is CMB_STRAY. A partial of a cancelled epoch is dropped. -/
def execPartialArrive (site bay node : Nat) (right : Bool) (tile core : Nat) (s : State) : Host.Outcome State Fault Refusal :=
  let c := s.core (core / 256) (core % 256)
  .next (match c.work with
    | none => s
    | some w => match s.workSlate w with
      | none => s
      | some y =>
        if s.clocked site = false ∨ 4 ≤ bay ∨ s.cancelled site (s.workEpoch w) = true then s
        else match treeOf y.cont c.layer, (s.cmb site bay).node w c.layer node with
          | some off, some n =>
            let ref := if right then (nodeOps y.cont off node).2 else (nodeOps y.cont off node).1
            match s.operandRows w y.cont c.layer off ref tile with
            | none => s
            | some rows =>
              let n2 := if right then { n with right := n.right ++ [(tile, rows)] } else { n with left := n.left ++ [(tile, rows)] }
              if (tileOf (if right then n.right else n.left) tile).isSome then s
              else (s.takeRows w ref tile).putNode site bay n2
          | _, _ => if c.partials.isEmpty then s else s.cmbFault site bay w 0x0101)

/-- Bit offset of an output element of an array op, and whether it is written (07 R149; 08 R172). -/
def outPlace (o : Op) (sh : Shape) (row col : Nat) : Nat × Bool :=
  let c := convOf o
  let bits := fmtBits o.fo
  let at_ := if o.code = 3 then row / max 1 c.wo * o.so * 8 + (row % max 1 c.wo * sh.n + col) * bits else row * o.so * 8 + col * bits
  (at_, decide (row % max 1 sh.mp < sh.ml) && decide (col < sh.nl))

/-- Bias, MULT and SHIFT of a column from the tree's parameters (08 Combine-tree record). -/
def treeParam (cont : List Byte) (off n j : Nat) : Nat × Int × Nat :=
  let fl := leAt cont (off + 2) 2
  let p := leAt cont (off + 12) 4
  let per := fl / 128 % 2 = 1
  (if fl % 2 = 1 then leAt cont (p + 4 * j) 4 else 0, if per then (BitVec.ofNat 32 (leAt cont (p + 4 * (n + j)) 4)).toInt else (BitVec.ofNat 32 (leAt cont (off + 8) 4)).toInt,
    if per then leAt cont (p + 8 * n + j) 1 % 32 else leAt cont (off + 4) 1 % 32)

/-- The root's output stage for one tile (08 R166): the elements to write as (bit offset, value), and saturations. -/
def rootTile (cont : List Byte) (off : Nat) (o : Op) (sh : Shape) (tile : Nat) (sums : List Nat) : List (Nat × Nat) × Nat :=
  let nn := max 1 (nTiles o sh)
  let rows := tileRows o sh (tile / nn)
  let fl := leAt cont (off + 2) 2
  let isInt := isIntFmt o.fa
  let zp := (BitVec.ofNat 8 (leAt cont (off + 5) 1)).toInt
  (List.range sums.length).foldl (fun (acc : List (Nat × Nat) × Nat) i =>
    match tileCol o sh (tile % nn) (i % 64), rows[i / 64]? with
    | some c, some row =>
      let pl := outPlace o sh row c.2.2
      if pl.2 = false then acc
      else
        let pr := treeParam cont off sh.n c.2.2
        let y := outEntry isInt o.fo (fl / 2 % 2 == 1) (fl % 2 == 1) (sums.getD i 0) pr.1 pr.2.1 pr.2.2 zp
        (acc.1 ++ [(pl.1, y.1)], acc.2 + (if y.2 then 1 else 0))
    | _, _ => acc) ([], 0)

/-- A tree of a work's layer is done: TREE_DONE, and the units drop its nodes (08 R167). -/
def State.treeDone (s : State) (w : Work) (layer block site bay : Nat) : State :=
  (s.keepNodes (fun n => !(n.work == w && n.layer == layer && n.idx / 64 == block))).evt (cmbPage site bay) 0

/-- COMBINE_NODE_TILE (08 R166 to R168, R173, R176): LEFT + RIGHT entry by entry in rows + 16 cycles; the root writes the tree's
output to the leftmost leaf's core at its leaf op's OUT_ADDR, and the root's last tile of the layer ends the tree. -/
def execCombineNodeTile (site bay node tile core : Nat) (s : State) : Host.Outcome State Fault Refusal :=
  let c := s.core (core / 256) (core % 256)
  .next (match c.work with
    | none => s
    | some w => match s.workSlate w, (s.cmb site bay).node w c.layer node with
      | some y, some n => match treeOf y.cont c.layer, tileOf n.left tile, tileOf n.right tile with
        | some off, some l, some r =>
          let loc := leftLeaf y.cont off 64 (node / 64 * 64 + nodeCount y.cont off - 1)
          match leafOf y.cont loc c.layer tile with
          | none => s
          | some (pc, lo, t) =>
          if s.clocked site = false ∨ s.st (cmbPage site bay) ≠ 2 ∨ (tileOf n.outs tile).isSome = true then s
          else
            let hd := treeHead y.cont off node
            let o := leafView y.cont c.layer lo
            let isInt := isIntFmt o.fa
            let sums := (List.range l.length).map (fun i => nodeSum isInt (l.getD i 0#32).toNat (r.getD i 0#32).toNat)
            let sats := (sums.filter (fun x => x.2)).length
            let p := cmbPage site bay
            let count (s : State) (sats : Nat) : State :=
              if s.cmbConf site bay then s
              else
                let s1 := ((s.addWrap (p + 0x44) 1).addSat (p + 0x48) sats).addSat (p + 0x4C) (l.length / 64 + 16)
                s1.evtIf (decide (0 < sats)) p 1
            let n2 : Node := { n with outs := n.outs ++ [(tile, sums.map (fun x => BitVec.ofNat 32 x.1))], tiles := n.tiles + 1 }
            if node % 64 + 1 ≠ nodeCount y.cont off then (count s sats).putNode site bay n2
            else match s.corePlace w loc with
              | none => s
              | some pl =>
                let out := rootTile y.cont hd o (s.shapeOf w y.cont loc c.layer pc o) t (sums.map (fun x => x.1))
                match s.place pl.1 pl.2 y.cont o.out true with
                | .wait => s
                | .broken k a lim => s.coreBound pl.1 pl.2 w k a lim
                | .at_ sp base room =>
                  if out.1.any (fun e => decide (room * 8 < e.1 + fmtBits o.fo)) then s.coreBound pl.1 pl.2 w 1 (max o.out (cCs y.cont)) (cCs y.cont)
                  else
                    let s1 := if s.cancelled pl.1 (s.workEpoch w) then s else out.1.foldl (fun s e => s.putElem o.fo sp base e.1 e.2) s
                    let s2 := (count s1 (sats + out.2)).putNode site bay n2
                    let ended (x : Nat × Op) : Bool := (s.leafTiles w y.cont loc c.layer x.1 x.2).all (fun k => (tileOf n2.outs k).isSome)
                    let s3 := if o.out / 2 ^ 31 = 1 ∧ ended (pc, lo) = true ∧ s.cancelled pl.1 (s.workEpoch w) = false then s2.publish pl.1 pl.2 (o.out % 8) (s.workEpoch w) else s2
                    if (layerOps y.cont loc c.layer).all ended then s3.treeDone w c.layer (node / 64) site bay else s3
        | _, _, _ => s
      | _, _ => s)

/-- CMB_PARITY (08 R175): a contained error of the take whose node the unit holds. -/
def execCmbParity (site bay : Nat) (s : State) : Host.Outcome State Fault Refusal :=
  .next (if s.dieUp site = false ∨ 4 ≤ bay then s
    else match (s.cmb site bay).nodes with
      | [] => s.blockFault (cmbPage site bay) 0x0100 2
      | n :: _ => s.cmbFault site bay n.work 0x0100)

end Sys2Proof.Machine
end

