-- ==== Sys2Proof/Machine/DirectWrites.lean ====
section
/-!
DEFINITION. Machine/DirectWrites.lean: the commands that write one register of a page that can join a configuration transaction, and
the writes of TXN_CTRL, EVT_RAW and FAULT_CODE: each acts after the commits that are due at its site (03 R66).
-/
namespace Sys2Proof.Machine

/-- A write command's own rule on a page of block type `ty`, after the commits that are due at its site (03 R66). -/
def State.directWrite (s : State) (ty req site blk off : Nat) (k : State → State) : State :=
  s.asWrite ty req site blk off (fun s => k (s.commitsFirst site))

/-- PITCH_ARM (02 R42). -/
def execPitchArm (req site g : Nat) (val : Word) (s : State) : Host.Outcome State Fault Refusal :=
  .next (s.directWrite 0x31 req site (0x18 + g) 0x5C (fun s => s.pitchCtl req site g val))

/-- SEG_TAIL (15 R316). -/
def execSegTail (req site a : Nat) (val : Word) (s : State) : Host.Outcome State Fault Refusal :=
  .next (s.directWrite 0x37 req site (0x40 + a) 0xAC (fun s => s.writeSegTail req site a val))

/-- SEG_ARM (15 R318). -/
def execSegArm (req site a : Nat) (val : Word) (s : State) : Host.Outcome State Fault Refusal :=
  .next (s.directWrite 0x37 req site (0x40 + a) 0xB8 (fun s => s.writeSegCtl req site a val))

/-- CLR_LOCK (15 R327). -/
def execClrLock (req site a : Nat) (val : Word) (s : State) : Host.Outcome State Fault Refusal :=
  .next (s.directWrite 0x37 req site (0x40 + a) 0xC0 (fun s => s.clrLock req site a val))

/-- GRP_CMD.STOP (15 R328). -/
def execGrpCmdStop (req site g : Nat) (val : Word) (s : State) : Host.Outcome State Fault Refusal :=
  .next (s.directWrite 0x38 req site (0x50 + g) 0x58 (fun s => s.grpCmd req site g val))

/-- GRP_CMD.RELEASE (15 R328). -/
def execGrpCmdRelease (req site g : Nat) (val : Word) (s : State) : Host.Outcome State Fault Refusal :=
  .next (s.directWrite 0x38 req site (0x50 + g) 0x58 (fun s => s.grpCmd req site g val))

/-- UNC_CLR (02 R29). -/
def execUncClr (req site e : Nat) (s : State) : Host.Outcome State Fault Refusal :=
  .next (s.directWrite 0x30 req site (0x10 + e) 0x6C (fun s => s.uncClr req site e))

/-- SHD_DATA_WRITE (13 R279). -/
def execShdDataWrite (req site g : Nat) (val : Word) (s : State) : Host.Outcome State Fault Refusal :=
  .next (s.directWrite 0x33 req site (0x20 + g) 0xC0 (fun s => s.shdWrite req site g val))

/-- SC_CMD_DARK, SC_CMD_FLAT and SC_CMD_ABORT (18 R384, R385). -/
def execScCmdDark (req site g : Nat) (val : Word) (s : State) : Host.Outcome State Fault Refusal :=
  .next (s.directWrite 0x33 req site (0x20 + g) 0xE0 (fun s => s.scCmd req site g val))

def execScCmdFlat (req site g : Nat) (val : Word) (s : State) : Host.Outcome State Fault Refusal :=
  .next (s.directWrite 0x33 req site (0x20 + g) 0xE0 (fun s => s.scCmd req site g val))

def execScCmdAbort (req site g : Nat) (val : Word) (s : State) : Host.Outcome State Fault Refusal :=
  .next (s.directWrite 0x33 req site (0x20 + g) 0xE0 (fun s => s.scCmd req site g val))

/-- CAL_CMD.START, ABORT and RESTORE are writes of CAL_CMD; CAL_DATA_WRITE (17 R372, R373; 18 R395). -/
def execCalCmdStart (req site : Nat) (val : Word) (s : State) : Host.Outcome State Fault Refusal :=
  .next (s.directWrite 0x3D req site 0x88 0x58 (fun s => s.calCmd req site val))

def execCalCmdAbort (req site : Nat) (val : Word) (s : State) : Host.Outcome State Fault Refusal :=
  .next (s.directWrite 0x3D req site 0x88 0x58 (fun s => s.calCmd req site val))

def execCalCmdRestore (req site : Nat) (val : Word) (s : State) : Host.Outcome State Fault Refusal :=
  .next (s.directWrite 0x3D req site 0x88 0x58 (fun s => s.calCmd req site val))

def execCalDataWrite (req site : Nat) (val : Word) (s : State) : Host.Outcome State Fault Refusal :=
  .next (s.directWrite 0x3D req site 0x88 0x68 (fun s => s.calDataWrite req site val))

/-- MON_CMD.UNLOCK, COMMIT, RESET and ABORT_CFG are writes of MON_CMD (22 R452, R455). -/
def execMonCmdReset (req site : Nat) (val : Word) (s : State) : Host.Outcome State Fault Refusal :=
  .next (s.directWrite 0x3E req site 0x90 0x44 (fun s => s.monCmd req site val))

def execMonCmdUnlock (req site : Nat) (val : Word) (s : State) : Host.Outcome State Fault Refusal :=
  .next (s.directWrite 0x3E req site 0x90 0x44 (fun s => s.monCmd req site val))

def execMonCmdCommit (req site : Nat) (val : Word) (s : State) : Host.Outcome State Fault Refusal :=
  .next (s.directWrite 0x3E req site 0x90 0x44 (fun s => s.monCmd req site val))

def execMonCmdAbortCfg (req site : Nat) (val : Word) (s : State) : Host.Outcome State Fault Refusal :=
  .next (s.directWrite 0x3E req site 0x90 0x44 (fun s => s.monCmd req site val))

/-- PC_CMD_STOP (16 R340), PC_CMD_RESUME (R345) and PC_CMD_SKIP (R349). -/
def execPcCmdStop (req site g : Nat) (val : Word) (s : State) : Host.Outcome State Fault Refusal :=
  .next (s.directWrite 0x3A req site (0x70 + g) 0x78 (fun s => s.pcCmd req site g val))

def execPcCmdResume (req site g : Nat) (val : Word) (s : State) : Host.Outcome State Fault Refusal :=
  .next (s.directWrite 0x3A req site (0x70 + g) 0x78 (fun s => s.pcCmd req site g val))

def execPcCmdSkip (req site g : Nat) (val : Word) (s : State) : Host.Outcome State Fault Refusal :=
  .next (s.directWrite 0x3A req site (0x70 + g) 0x78 (fun s => s.pcCmd req site g val))

/-- EVT_RAW_CLEAR (03 R57). -/
def execEvtRawClear (req site blk : Nat) (mask recur : Word) (s : State) : Host.Outcome State Fault Refusal :=
  .next (match s.gateWrite req site blk 0x10 with | some t => t | none => (s.commitsFirst site).evtClear (pg site blk) mask recur)

/-- FAULT_CODE_CLEAR (03 R58). -/
def execFaultCodeClear (req site blk : Nat) (val : Word) (s : State) : Host.Outcome State Fault Refusal :=
  .next (match s.gateWrite req site blk 0x1C with | some t => t | none => (s.commitsFirst site).faultClear req (pg site blk) val)

/-- A write of TXN_CTRL. -/
def State.txnWrite (s : State) (req site blk : Nat) (val : Word) : State :=
  match s.gateWrite req site blk 0x20 with
  | some t => t
  | none => (s.commitsFirst site).txnRule req site blk val

/-- OPEN (03 R59): a write of TXN_CTRL with OPEN set. -/
def execTxnOpen (req site blk : Nat) (val : Word) (s : State) : Host.Outcome State Fault Refusal := .next (s.txnWrite req site blk (val ||| 0x10#32))

/-- COMMIT (03 R62). -/
def execTxnCommit (req site blk : Nat) (val : Word) (s : State) : Host.Outcome State Fault Refusal := .next (s.txnWrite req site blk (val ||| 0x20#32))

/-- ABORT (03 R67). -/
def execTxnAbort (req site blk : Nat) (val : Word) (s : State) : Host.Outcome State Fault Refusal := .next (s.txnWrite req site blk (val ||| 0x40#32))

end Sys2Proof.Machine
end

