-- ==== Sys2Proof/Machine/Supply.lean ====
section
/-!
DEFINITION. Machine/Supply.lean: the supply switches, the main domain's power and the resets (04).
-/
namespace Sys2Proof.Machine

/-- Levels at the VAON pins, in mV. While VAON_B is selected the 100 ms return count runs as long as VAON_A stands at or above 3.10 V
(04 R78). -/
def State.vaon (s : State) (a b : Nat) : State :=
  let on := s.regBit (supPage + 0x40) 0 && decide (3100 ≤ a)
  let s1 : State := { s with sup := { s.sup with vaonA := a, vaonB := b, retAt := if on then some (s.sup.retAt.getD s.now) else none } }
  (s1.putBit (supPage + 0x40) 3 on).showSup

/-- Return to VAON_A (04 R78). -/
def State.backToA (s : State) : State :=
  let s1 := (s.putBit (supPage + 0x40) 0 false).putBit (supPage + 0x40) 3 false
  { s1 with sup := { s1.sup with retAt := none } }.supEvt 1

/-- What the always-on switch does at new levels (04 R77, R78, Control): VAON_B_LOW at a fall of VAON_B while VAON_A is selected; from
VAON_A below 3.0 V to a fit VAON_B, or BACKUP_ABSENT where there is none as VAON_A falls; from an unfit VAON_B at once back to a fit
VAON_A. `fell` says that VAON_A has just fallen. -/
def State.aonSwitch (s : State) (a b : Nat) (fell : Bool) : State :=
  let p := supPage
  let s1 := s.vaon a b
  if s.regBit (p + 0x40) 0 then (if b < 3000 ∧ 3000 ≤ a then s1.backToA else s1)
  else
    let s2 := if b < 3000 ∧ s.regBit (p + 0x40) 2 = true then s1.supEvt 5 else s1
    if 3000 ≤ a then s2
    else if b < 3000 then (if fell then s2.supEvt 4 else s2)
    else
      let s3 := (s2.putBit (p + 0x40) 0 true).putFld (p + 0x4C) 0 16 (satNat 65535 (s.regFld (p + 0x4C) 0 16 + 1))
      (s3.setNat (p + 0x50) (s.us % 2 ^ 32)).supEvt 0

/-- TO_BACKUP (04 R77): VAON_A falls below 3.0 V while it is selected. -/
def execToBackup (aMv bMv : Nat) (s : State) : Host.Outcome State Fault Refusal := .next (s.aonSwitch aMv bMv true)

/-- TO_MAIN (04 R78): VAON_A has stood at or above 3.10 V for 100 ms. -/
def execToMain (s : State) : Host.Outcome State Fault Refusal :=
  .next (match s.sup.retAt with
    | some t => if s.regBit (supPage + 0x40) 0 = true ∧ 3100 ≤ s.sup.vaonA ∧ t + 20000000 ≤ s.now then s.backToA else s
    | none => s)

/-- VAON_A_RETURN (04 R78): the 100 ms count starts at 3.10 V, and a dip below it stops the count. -/
def execVaonAReturn (aMv bMv : Nat) (s : State) : Host.Outcome State Fault Refusal :=
  .next (s.aonSwitch aMv bMv (decide (3000 ≤ s.sup.vaonA)))

/-- VAON_B_FALL (04 R78): at once back to a fit VAON_A, or VAON_B_LOW while VAON_A is selected. -/
def execVaonBFall (aMv bMv : Nat) (s : State) : Host.Outcome State Fault Refusal :=
  .next (s.aonSwitch aMv bMv (decide (3000 ≤ s.sup.vaonA)))

/-- Running channels of a die (17). -/
def State.runningMeters (s : State) (site : Nat) : List Nat := (List.range 8).filter (fun m => s.active (mtrPage site m))

/-- A field die's selected VFIO has fallen below 17.0 V (04 R79; 15 R331, R333; 17 R376; 18 R383; 22 R460): FIO_LOST, limits read
ASSERTED, pairs de-energised. -/
def State.fioDown (s : State) (site : Nat) : State :=
  let s2 := (s.setNat (dollyPage site + 0x4C) 0xFFFFFFFF).setNat (dollyPage site + 0x50) 0
  let s3 := (List.range 16).foldl (fun s a => (if s.axLive site a || s.st (axPage site a) == 1 then s.axisFault site a 0x0102 else s).showLims site a) s2
  let s4 := s3.calAbortAll site 6
  let s5 := (s4.runningMeters site).foldl (fun s m => ((s.setCause site m 6 true).setVstate site m 4).outsLow site m) s4
  let s5 := ((List.range 8).foldl (fun s m => s.setMeter site m { s.meter site m with excOn := false }) s5).outsZero site
  let s6 := (s5.evt (fioPage site) 2).setMon site { s5.mon site with supply := true }
  (((s6.allPairsOff site).evt (monPage site) 0).monTrack site).showMon site

/-- A field die's selected VFIO is again at or above 17.0 V (04 R79; 15 R331; 17 R376). -/
def State.fioUp (s : State) (site : Nat) : State :=
  let s2 := (s.setNat (dollyPage site + 0x4C) 0xFFFFFFFF).setNat (dollyPage site + 0x50) 0
  let s3 := (List.range 16).foldl (fun s a => s.showLims site a) s2
  let s4 := (s3.runningMeters site).foldl (fun s m => (s.meterStart site m).setSt (mtrPage site m) 1) s3
  (((s4.evt (fioPage site) 3).setMon site { s4.mon site with supply := decide (31000 < s4.fioSel site) }).monTrack site).showMon site

/-- FIO_OK as its input and selection now give it, with what a fall and a rise of it do (04 R79, R81). -/
def State.fioEdge (s : State) (site : Nat) : State :=
  let was := s.regBit (fioPage site + 0x40) 4
  let s1 := (s.showFio site).fioLetGo site
  let is := s1.regBit (fioPage site + 0x40) 4
  if was && !is then s1.fioDown site else if !was && is then s1.fioUp site else s1

/-- Levels at a field die's VFIO pins, in mV. While VFIO_B is selected the 100 ms return count runs as long as VFIO_A stands at or above
20.0 V (04 R79). -/
def State.vfio (s : State) (site a b : Nat) : State :=
  let on := s.regBit (fioPage site + 0x40) 0 && decide (20000 ≤ a)
  let f := s.fio site
  (s.setFio site { f with a := a, b := b, retAt := if on then some (f.retAt.getD s.now) else none }).putBit (fioPage site + 0x40) 3 on

/-- Return to VFIO_A (04 R79). -/
def State.fioBackToA (s : State) (site : Nat) : State :=
  let p := fioPage site
  let s1 := ((s.putBit (p + 0x40) 0 false).putBit (p + 0x40) 3 false).setFio site { s.fio site with retAt := none }
  (s1.fioEdge site).evt p 1

/-- What a field die's switch does at new levels (04 R79): the rules of R77 and R78 at 19.0 V and 20.0 V. `fell` says that VFIO_A has
just fallen. -/
def State.fioSwitch (s : State) (site a b : Nat) (fell : Bool) : State :=
  let p := fioPage site
  let s1 := s.vfio site a b
  if s.regBit (p + 0x40) 0 then (if b < 19000 ∧ 19000 ≤ a then s1.fioBackToA site else s1.fioEdge site)
  else if 19000 ≤ a then s1.fioEdge site
  else if b < 19000 then (s1.fioEdge site).evtIf fell p 4
  else ((s1.putBit (p + 0x40) 0 true).fioEdge site).evt p 0

/-- FIO_TO_BACKUP (04 R79): VFIO_A falls below 19.0 V while it is selected. -/
def execFioToBackup (site aMv bMv : Nat) (s : State) : Host.Outcome State Fault Refusal :=
  .next (if s.isField site then s.fioSwitch site aMv bMv true else s)

/-- FIO_TO_MAIN (04 R79). -/
def execFioToMain (site : Nat) (s : State) : Host.Outcome State Fault Refusal :=
  .next (match (s.fio site).retAt with
    | some t =>
      if s.isField site = true ∧ s.regBit (fioPage site + 0x40) 0 = true ∧ 20000 ≤ (s.fio site).a ∧ t + 20000000 ≤ s.now then s.fioBackToA site
      else s
    | none => s)

/-- VFIO_A_RETURN (04 R79). -/
def execVfioAReturn (site aMv bMv : Nat) (s : State) : Host.Outcome State Fault Refusal :=
  .next (if s.isField site then s.fioSwitch site aMv bMv (decide (19000 ≤ (s.fio site).a)) else s)

/-- FIO_LOST (04 R79): the selected VFIO falls below 17.0 V. -/
def execFioLost (site aMv bMv : Nat) (s : State) : Host.Outcome State Fault Refusal :=
  .next (if s.isField site then (s.vfio site aMv bMv).fioEdge site else s)

/-- FIO_RESTORED (04 R79; 17 R376): the selected VFIO is again at or above 17.0 V. -/
def execFioRestored (site aMv bMv : Nat) (s : State) : Host.Outcome State Fault Refusal :=
  .next (if s.isField site then (s.vfio site aMv bMv).fioEdge site else s)

/-- MAIN_LOST (04 R82, R85): MAIN_PG falls. -/
def execMainLost (s : State) : Host.Outcome State Fault Refusal :=
  .next (if s.regBit (supPage + 0x40) 4 = false then s
    else
      let s1 := (s.putBit (supPage + 0x40) 4 false).setNat (supPage + 0x54) (s.us % 2 ^ 32)
      let s2 := s1.fieldSites.foldl (fun s x => s.supplySplice x) s1
      ({ s2.resetMain with sup := { s2.sup with pgAt := none } }).evt supPage 2)

/-- MAIN_PG_RISE (04 R82, R84): a main power-on reset starts. -/
def execMainPgRise (s : State) : Host.Outcome State Fault Refusal :=
  .next (if s.regBit (supPage + 0x40) 4 = true then s
    else
      let s1 := (s.putBit (supPage + 0x40) 4 true).setNat (supPage + 0x44) 4
      let s2 := s1.fieldSites.foldl (fun s x => s.supplySplice x) s1
      { s2 with sup := { s2.sup with pgAt := some s2.now } })

/-- MAIN_RELEASE (04 R82): 1 ms after MAIN_PG has risen, the always-on domain being out of reset. -/
def execMainRelease (s : State) : Host.Outcome State Fault Refusal :=
  .next (match s.sup.pgAt with
    | some t => if s.regBit (supPage + 0x40) 4 = true ∧ s.mainOk = false ∧ s.sup.held = none ∧ t + 200000 ≤ s.now then s.mainUp else s
    | none => s)

/-- AON_POWER_ON_RESET (04 R81, R83, R87): the reset. The levels in mV to which the always-on supplies then come back are inputs that
the command does not carry: free values (log 71). -/
def execAonPowerOnReset (s : State) : Host.Outcome State Fault Refusal :=
  let mv (i : Nat) : Nat := (Config.freeWord (s.free + i)).toNat % 2 ^ 16
  .next ({ s.draw.draw.draw with sup := { s.sup with vaonA := mv 0, vaonB := mv 1, vioAon := mv 2 } }.packageReset 1)

/-- Whether a low pulse of a reset pin acts (23 R474): not below 100 ns, always from 1 µs on, in between a free choice (log 4). -/
def pulseActs (s : State) (lowNs : Nat) : Bool := decide (1000 ≤ lowNs) || (decide (100 ≤ lowNs) && Config.freeBool s.free)

/-- POR_N (04 R83). -/
def execPorN (lowNs : Nat) (s : State) : Host.Outcome State Fault Refusal :=
  .next (if pulseActs s lowNs then (s.draw).packageReset 2 else if lowNs < 100 then s else s.draw)

/-- RST_CMD (04): 0x52, then 0xA5 from the same requester within 1 ms; the reset starts 10 µs later. -/
def execRstCmd (req : Nat) (val : Word) (s : State) : Host.Outcome State Fault Refusal :=
  .next (s.asWrite 0x03 req 8 2 0x6C (fun s =>
    if val ≠ 0x52#32 ∧ val ≠ 0xA5#32 then s.reject req supPage 0x6C 3
    else if req ≠ 0 ∧ req ≠ 17 then s.reject req supPage 0x6C 5
    else if val = 0x52#32 then { s with sup := { s.sup with rstFirst := some (req, s.now) } }
    else match s.sup.rstFirst with
      | some (r, t) => if r = req ∧ s.now ≤ t + 200000 then { s with sup := { s.sup with rstFirst := none, rstAt := some s.now } } else s.reject req supPage 0x6C 5
      | none => s.reject req supPage 0x6C 5))

/-- SYS_RST_N (04 R83, R85): a reset of the main domain. -/
def execSysRstN (lowNs : Nat) (s : State) : Host.Outcome State Fault Refusal :=
  .next (if pulseActs s lowNs then
      (s.draw).mainReset 5
    else if lowNs < 100 then s else s.draw)

/-- TRST_N (04 R83): debug logic only; the TAP is at IDCODE. -/
def execTrstN (lowNs : Nat) (s : State) : Host.Outcome State Fault Refusal :=
  .next (if pulseActs s lowNs then { s with sec := { s.sec with tap := 0 }, free := s.free + 1 } else if lowNs < 100 then s else s.draw)

end Sys2Proof.Machine
end

