-- ==== Sys2Proof/Machine/RegWrite.lean ====
section
/-!
DEFINITION. Machine/RegWrite.lean: a register write of any kind (00 R5, R7; 01 R19; 03 R50, R51), and a register read with its
latches (03 R53).
-/
namespace Sys2Proof.Machine

/-- The state a command leaves; every meaning answers a next state. -/
def after (s : State) (o : Host.Outcome State Fault Refusal) : State :=
  match o with
  | .next t => t
  | .fault _ => s
  | .refused _ => s

/-- The mailbox opcodes that firmware serves (05, 09, 11, 14, 20, 21). -/
def mbOps : List Nat := [1, 2, 0x10, 0x11, 0x12, 0x13, 0x20, 0x21, 0x22, 0x23, 0x30, 0x40, 0x41, 0x42, 0x43, 0x44, 0x45, 0x50, 0x51, 0x52]

/-- MB_DOORBELL (05 R103): accepted in IDLE and DONE; an opcode that firmware does not know is answered UNKNOWN_OP. -/
def State.mbDoorbell (s : State) (req t : Nat) (val : Word) : State :=
  let p := mbPage t
  if s.regFld (p + 0x44) 0 2 = 1 then s.reject req p 0x40 5
  else
    let op := s.regFld (p + 0x100) 0 16
    let s1 := (s.setReg (p + 0x40) val).setNat (p + 0x44) 1
    if mbOrdered op then { s1 with loads := s1.loads.filter (· != t) ++ [t] }
    else if mbOps.contains op then s1
    else if s1.ready = false ∨ s1.restarting 8 = true then s1.mbReply t 4 []
    else s1.mbReply t 1 []



/-- MON_ARG (22 R455): the value, and by whom and when it was written. -/
def State.monArg (s : State) (req site : Nat) (val : Word) : State :=
  (s.setReg (monPage site + 0x48) val).setMon site { s.mon site with argBy := some (req, s.now) }

/-- The TAGs of the entries between SQ_HEAD and SQ_TAIL as host memory holds them (06 R115, R123). -/
def State.sqTags (s : State) (t q : Nat) : List Nat :=
  let p := tqPage t q
  let head := (s.reg (p + 0x58)).toNat
  let n := min (cntSub (s.reg (p + 0x54)).toNat head) (s.tqSize t q)
  (List.range n).map (fun i => leAt (s.taRead t .host (s.wide (p + 0x40) + 64 * ((head + i) % s.tqSize t q)) 16).1 8 8)

/-- FL_CMD (05 R104): a value that names no command is rejected. -/
def State.flWrite (s : State) (req : Nat) (val : Word) : State :=
  let op := fld val 0 3
  if op = 0 ∨ 4 < op then (if req ≠ 0 ∧ req ≠ 17 then s.reject req flashPage 0x48 4 else s.reject req flashPage 0x48 3) else s.flCmd req op

/-- The offsets whose write has a rule of its own (the rows of the command table but REGISTER_WRITE), and that rule. -/
def State.ownRule (s : State) (req site blk off : Nat) (val : Word) : Option State :=
  let ty := s.typeAt site blk
  let p := pg site blk
  if off = 0x08 then some (s.ctrlRule req site blk val)
  else if off = 0x10 then some (s.evtClear p val 0#32)
  else if off = 0x1C then some (s.faultClear req p val)
  else if off = 0x20 then some (s.txnRule req site blk val)
  else if ty = 0x02 then
    if off = 0x40 then some (s.clkCfg req val)
    else if off = 0x60 then some (s.clkSet req val)
    else if 0x80 ≤ off ∧ off < 0xC0 ∧ off % 16 = 8 then some (s.cevCtl req ((off - 0x88) / 16) val)
    else none
  else if ty = 0x03 then (if off = 0x6C then some (after s (execRstCmd req val s)) else none)
  else if ty = 0x04 then (if off = 0x64 then some (after s (execRecCmdGo req val s)) else none)
  else if ty = 0x05 then (if off = 0x48 then some (s.flWrite req val) else none)
  else if ty = 0x06 then
    if off = 0x40 then some (s.mbDoorbell req (blk - 0x20) val)
    else if off = 0x48 then some (after s (execMbAck req (blk - 0x20) val s))
    else none
  else if ty = 0x08 then
    let t := (blk - 0x100) / 8
    let q := blk % 8
    if off = 0x54 then some (s.doorbell req t q val)
    else if off = 0x6C then some (if bitOf val 0 then s.abortQueue t q (s.sqTags t q) else s)
    else none
  else if ty = 0x0A then (if off = 0x54 then some (s.mmuCmd req (blk - 0x40) val) else none)
  else if ty = 0x0B then (if off = 0x50 then some (after s (execGranOwner req val s)) else none)
  else if ty = 0x0C then (if off = 0x40 ∨ off = 0x48 then some (s.budgetWrite req off val) else none)
  else if ty = 0x0F then (if off = 0x4C then some (after s (execDbgWinDataWrite req val s)) else none)
  else if ty = 0x30 then
    (if off = 0x6C then some (if bitOf val 0 then s.uncClr req site (blk - 0x10) else s) else none)
  else if ty = 0x31 then (if off = 0x5C then some (s.pitchCtl req site (blk - 0x18) val) else none)
  else if ty = 0x33 then
    if off = 0xC0 then some (s.shdWrite req site (blk - 0x20) val)
    else if off = 0xE0 then some (s.scCmd req site (blk - 0x20) val)
    else none
  else if ty = 0x37 then
    let a := blk - 0x40
    if off = 0xAC then some (s.writeSegTail req site a val)
    else if off = 0xB8 then some (s.writeSegCtl req site a val)
    else if off = 0xC0 then some (s.clrLock req site a val)
    else none
  else if ty = 0x38 then (if off = 0x58 then some (s.grpCmd req site (blk - 0x50) val) else none)
  else if ty = 0x3A then (if off = 0x78 then some (s.pcCmd req site (blk - 0x70) val) else none)
  else if ty = 0x3D then
    if off = 0x58 then some (s.calCmd req site val)
    else if off = 0x68 then some (s.calDataWrite req site val)
    else none
  else if ty = 0x3E then
    if off = 0x44 then some (s.monCmd req site val)
    else if off = 0x48 then some (s.monArg req site val)
    else none
  else if ty = 0x40 then (if off = 0x50 then some (after s (execProfClr req site (blk - 0x100) val s)) else none)
  else if ty = 0x45 then (if off = 0x54 then some (after s (execClrPeak req site val s)) else none)
  else if ty = 0x46 then (if off = 0x44 then some (after s (execClearAll req site val s)) else none)
  else if ty = 0x49 ∨ ty = 0x4A ∨ ty = 0x4B then (if off = 0x58 then some (after s (execClrMax req site (blk - 0x60) val s)) else none)
  else none

/-- A write of a register of a present page that its field tables define, by a requester that reaches it. -/
def State.pageWrite (s : State) (req site blk off : Nat) (r : RegDef) (val : Word) : State :=
  match s.ownRule req site blk off val with
  | some t => t
  | none => s.regRule req site blk off r val

/-- Whether a page's field tables define a register: TENANT_WEIGHT lies on queue 0's page alone (06). -/
def State.mapped (s : State) (site blk off : Nat) : Option RegDef :=
  if s.typeAt site blk = 0x08 ∧ off = 0x70 ∧ blk % 8 ≠ 0 then none else findReg (s.typeAt site blk) off

/-- Whether an access from a function lies in the lead's 1 GiB BAR0 (21 R422): a package that is no lead has 64 MiB. -/
def State.inWindow (s : State) (req addr : Nat) : Bool := decide (req < 16) && s.lead && decide (addr < 2 ^ 30)

/-- Whether a part of the window above this package's own is another package's (21 R422, R430, R440): in an ensemble, and reachable.
Its pages are another State's (log 82). -/
def State.windowUp (s : State) (addr : Nat) : Bool := s.mainOk && s.formed && s.ensUp (addr / 2 ^ 26) && addr / 2 ^ 26 != s.pkg

/-- A register write with its byte enables (03 R50, R51, R66): to an absent page, by a requester that does not reach the page, of part
of a register, to an offset that no table defines, or the register's own rule, after the commits that are due. An address from 2^32 on is
an offset in the requester's own BAR2 (06 R109; log 72). -/
def State.write (s : State) (req addr : Nat) (val : Word) (be : Nat) : State :=
  let site := siteOf addr
  let blk := blkOf addr
  let off := offOf addr
  if 2 ^ 32 ≤ addr then (if req < 16 ∧ s.mainOk = true ∧ be = 15 ∧ addr % 4 = 0 ∧ addr < 2 ^ 32 + 2 ^ 13 then s.bar2Write req (addr - 2 ^ 32) val else s)
  else if 2 ^ 26 ≤ addr then (if s.inWindow req addr = false ∨ s.sup.held ≠ none then s else if s.windowUp addr then s.forward (addr / 2 ^ 26) else s.absent addr)
  else match s.gateWrite req site blk off with
  | some t => t
  | none =>
    if be ≠ 15 ∨ addr % 4 ≠ 0 then s.reject req (pg site blk) off 10
    else match s.mapped site blk off with
      | none => s.reject req (pg site blk) off 11
      | some r => (s.commitsFirst site).pageWrite req site blk off r val

/-- A 64-bit write (03 R51): two 32-bit writes, the lower offset first, the low four byte enables for the lower. DEDUCED (log 70): one
that is not aligned to 64 bits is rejected with SIZE in both halves. -/
def State.write64 (s : State) (req addr : Nat) (lo hi : Word) (be : Nat) : State :=
  let ok := addr % 8 = 0
  (s.write req addr lo (if ok then be % 16 else 0)).write req (addr + 4) hi (if ok then be / 16 else 0)

/-- REGISTER_WRITE (03 R51): a 32-bit write of any register, or a 64-bit one where the data have an upper half. -/
def execRegisterWrite (req addr : Nat) (val : WriteData) (be : Nat) (s : State) : Host.Outcome State Fault Refusal :=
  match val.hi with
  | none => .next (s.write req addr val.lo be)
  | some h => .next (s.write64 req addr val.lo h be)

/-- ABSENT_WRITE (01 R19): a write that names an absent page; one that names a present page is no such command. -/
def execAbsentWrite (req addr : Nat) (s : State) : Host.Outcome State Fault Refusal :=
  .next (if 2 ^ 26 ≤ addr then (if s.inWindow req addr = true ∧ s.windowUp addr = false then s.absent addr else s)
    else if s.present (siteOf addr) (blkOf addr) = false ∨ s.bar0 req (siteOf addr) (blkOf addr) = false then s.absent addr else s)

/-- GO_SPI (13 R284): a write of SPI_CTL. -/
def execGoSpi (req site g : Nat) (val : Word) (s : State) : Host.Outcome State Fault Refusal :=
  .next (if g < 8 then s.directWrite 0x35 req site (0x38 + g) 0x44 (fun s =>
      match findReg 0x35 0x44 with
      | some r => s.regRule req site (0x38 + g) 0x44 r val
      | none => s) else s)

/-- METER_CONFIG_WRITE (17 R374): a write of a configuration register of a meter channel. -/
def execMeterConfigWrite (req site m off : Nat) (val : Word) (s : State) : Host.Outcome State Fault Refusal :=
  .next (if m < 8 ∧ 0x40 ≤ off then s.directWrite 0x3B req site (0x78 + m) off (fun s =>
      match findReg 0x3B off with
      | some r => s.regRule req site (0x78 + m) off r val
      | none => s.reject req (pg site (0x78 + m)) off 11) else s)

/-- The registers that a read of the lowest register of a wide value latches (03 R53; each chapter's tables say "reading
latches"). -/
def latchedBy (ty off : Nat) : List Nat :=
  if ty = 0x30 then (if off = 0x48 then [0x4C] else [])
  else if ty = 0x31 then (if off = 0x6C then [0x70] else [])
  else if ty = 0x02 then (if off = 0x48 then [0x4C, 0x50] else [])
  else if ty = 0x32 then (if off = 0x4C then [0x50] else [])
  else if ty = 0x40 then (if 0x60 ≤ off ∧ off < 0xA0 ∧ off % 8 = 0 then [off + 4] else [])
  else if ty = 0x33 then (if off = 0xC4 then [0xC8] else [])
  else if ty = 0x34 then (if off = 0x58 then [0x5C] else if off = 0x84 then [0x88, 0x8C, 0x90, 0x94, 0x98, 0x9C] else [])
  else if ty = 0x36 then (if off = 0x64 then [0x68] else if off = 0x70 then [0x74] else if off = 0x78 then [0x7C] else [])
  else if ty = 0x37 then (if off = 0x84 then [0x88, 0x8C] else [])
  else []

/-- `w` bits of a signed number from bit `lo` of its two's complement. -/
def posBits (x : Int) (lo w : Nat) : Nat := (x / 2 ^ lo % 2 ^ w).toNat

/-- Whether a page that no tenant owns has EVT_PEND other than 0 (06 R111; 21 ENS_PEND). -/
def State.ownPending (s : State) : Bool :=
  s.regs.any (fun e => offOf e.1 == 0x18 && e.2 != 0#32 && !([0x06, 0x08, 0x09].contains (s.typeAt (siteOf e.1) (blkOf e.1))))

/-- What a register reads as now: the values that follow the clocks (the TRNG's samples among them, 20), and those that show what another record holds (a core's clock, 07;
the lead's strap and this package's own pending pages, 21; the time a stopping pair has left, 22), are computed, every other is held
(02, 04, 15 Control). -/
def State.live (s : State) (site blk off : Nat) : Word :=
  let ty := s.typeAt site blk
  let v (n : Nat) : Word := BitVec.ofNat 32 n
  if ty = 0x30 ∧ off = 0x48 then v (posBits (s.encPos site (blk - 0x10)) 0 32)
  else if ty = 0x30 ∧ off = 0x4C then v (posBits (s.encPos site (blk - 0x10)) 32 16)
  else if ty = 0x02 ∧ off = 0x48 then v (s.ns % 10 ^ 9)
  else if ty = 0x02 ∧ off = 0x4C then v (s.ns / 10 ^ 9 % 2 ^ 32)
  else if ty = 0x02 ∧ off = 0x50 then v (s.ns / 10 ^ 9 / 2 ^ 32 % 2 ^ 16 + s.clapper % 2 ^ 24 / 2 ^ 8 * 2 ^ 16)
  else if ty = 0x32 ∧ off = 0x4C then v (s.tick site % 2 ^ 32)
  else if ty = 0x32 ∧ off = 0x50 then v (s.tick site / 2 ^ 32 % 2 ^ 16)
  else if ty = 0x37 ∧ off = 0x84 then v (posBits (s.axis site (blk - 0x40)).phase 32 32)
  else if ty = 0x37 ∧ off = 0x88 then v (posBits (s.axis site (blk - 0x40)).phase 64 16)
  else if ty = 0x37 ∧ off = 0x8C then v (posBits (s.axis site (blk - 0x40)).phase 0 32)
  else if ty = 0x0E ∧ off = 0x40 then setFld (s.reg (pg site blk + off)) 8 2 (s.recentFails)
  else if ty = 0x0E ∧ off = 0x44 then v s.poolBits
  else if ty = 0x40 ∧ off = 0x4C then v (s.regFld (dpPage site + 0x44) 0 12)
  else if ty = 0x10 ∧ off = 0x40 then setBit (s.reg (pg site blk + off)) 3 s.lead
  else if ty = 0x10 ∧ off = 0x4C then setBit (s.reg (pg site blk + off)) s.pkg s.ownPending
  else if ty = 0x3E ∧ off = 0x40 then setFld (s.reg (pg site blk + off)) 16 16 (demandMask s site)
  else if ty = 0x3E ∧ 0x58 ≤ off ∧ off < 0x68 then
    (let x := (s.mon site).pair ((off - 0x58) / 4)
     setFld (s.reg (pg site blk + off)) 16 16 (match x.deadline with | some d => if x.st = 2 then satNat 65535 ((d - s.now) / 200000) else 0 | none => 0))
  else s.reg (pg site blk + off)

/-- Whether a register reads 0 because its unit serves a confidential tenant (07 R154; 08 R176; 10 R223; 12 R266). -/
def State.confHides (s : State) (site blk off : Nat) : Bool :=
  let ty := s.typeAt site blk
  let held (c : Nat) : Bool := match (s.core site c).work with | some w => s.conf (s.workTenant w) | none => false
  if ty = 0x40 then held (blk - 0x100) && (off == 0x44 || off == 0x48 || off == 0x50 || (decide (0x60 ≤ off) && decide (off < 0xE0)))
  else if ty = 0x41 then held (blk - 0x140) && decide (0x40 ≤ off) && decide (off ≤ 0x74)
  else if ty = 0x44 then s.cmbConf site (blk - 0x50) && (off == 0x44 || off == 0x48 || off == 0x4C)
  else if ty = 0x49 ∨ ty = 0x4A ∨ ty = 0x4B then
    (match s.slate (s.eng site (blk - 0x60)).handle with
     | some y => s.conf y.tenant && decide (0x44 ≤ off) && decide (off ≤ 0x54)
     | none => false)
  else false

/-- Whether a requester's read reaches a register's value (06 R109, R110; 00 R5; 03 R50; 20): a read elsewhere returns 0. -/
def State.readable (s : State) (req site blk off : Nat) : Bool :=
  s.present site blk && s.bar0 req site blk && s.reach req site blk && !s.confHides site blk off &&
    (match s.mapped site blk off with
     | some r => r.acc != .wo && !(r.acc == .rwl && s.st (pg site blk) == 7)
     | none => false)

/-- The key of a requester's latch of a register. -/
def latchKey (req a : Nat) : Nat := req * 2 ^ 30 + a

/-- A read of a register (03 R53): the lowest of a wide value latches the others for that requester alone; one of the others
returns what its requester has latched. -/
def State.read (s : State) (req addr : Nat) : State :=
  let site := siteOf addr
  let blk := blkOf addr
  let off := offOf addr
  let ty := s.typeAt site blk
  if 2 ^ 32 ≤ addr then
    { s with rdata := if req < 16 ∧ s.mainOk = true ∧ addr < 2 ^ 32 + 2 ^ 13 then s.bar2Reg (bar2At req (addr - 2 ^ 32)) else 0#32, rdataHi := 0#32 }
  else if 2 ^ 26 ≤ addr then
    (if s.inWindow req addr = true ∧ s.windowUp addr = true then
      { (s.forward (addr / 2 ^ 26)).draw with rdata := Config.freeWord s.free, rdataHi := 0#32 }
    else { s with rdata := 0#32, rdataHi := 0#32 })
  else if s.readable req site blk off = false then { s with rdata := 0#32, rdataHi := 0#32 }
  else match s.latch.find? (fun e => e.1 == latchKey req (pg site blk + off)) with
    | some e => { s with rdata := e.2, rdataHi := 0#32 }
    | none =>
      let s1 : State := (latchedBy ty off).foldl (fun s o =>
        { s with latch := (latchKey req (pg site blk + o), s.live site blk o) :: s.latch.filter (fun e => e.1 != latchKey req (pg site blk + o)) }) s
      { s1 with rdata := s.live site blk off, rdataHi := 0#32 }

/-- A 32-bit read; a partial one is answered with the whole register (03 R51). A data port's read is that port's own command (13 R279;
18; 20). -/
def State.readAny (s : State) (req addr : Nat) : State :=
  let a := addr / 4 * 4
  let site := siteOf a
  let blk := blkOf a
  let off := offOf a
  let ty := s.typeAt site blk
  if ty = 0x33 ∧ off = 0xC0 then after s (execShdDataRead req site (blk - 0x20) s)
  else if ty = 0x3D ∧ off = 0x68 then after s (execCalDataRead req site s)
  else if ty = 0x0F ∧ off = 0x4C then after s (execDbgWinDataRead req s)
  else if ty = 0x0E ∧ off = 0x48 then after s (execRand req s)
  else s.read req a

/-- A 64-bit read (03 R51, R53): the lower register, then the upper. DEDUCED (log 70): one that is not aligned to 64 bits returns 0. -/
def State.read64 (s : State) (req addr : Nat) : State :=
  if addr % 8 = 0 then
    let s1 := s.readAny req addr
    let s2 := s1.readAny req (addr + 4)
    { s2 with rdata := s1.rdata, rdataHi := s2.rdata }
  else { s with rdata := 0#32, rdataHi := 0#32 }

/-- LATCHED_READ (03 R51, R53): a 32-bit or a 64-bit read. -/
def execLatchedRead (req : Nat) (at_ : ReadAt) (s : State) : Host.Outcome State Fault Refusal :=
  .next (if at_.wide then s.read64 req at_.addr else s.readAny req at_.addr)

end Sys2Proof.Machine
end

