-- ==== Sys2Proof/Machine/Dispatch.lean ====
section
/-!
DEFINITION. Machine/Dispatch.lean: one arm per command, each one direct call of its meaning.
-/
namespace Sys2Proof.Machine

/-- The effect of a command on everything but the queue. -/
def exec (i : Instr) (s : State) : Host.Outcome State Fault Refusal :=
  match i with
  | .registerWrite req addr val be => Sys2Proof.Machine.execRegisterWrite req addr val be s
  | .absentWrite req addr => Sys2Proof.Machine.execAbsentWrite req addr s
  | .ctrlEnSet req site blk => Sys2Proof.Machine.execCtrlEnSet req site blk s
  | .ctrlEnClear req site blk => Sys2Proof.Machine.execCtrlEnClear req site blk s
  | .softReset req site blk => Sys2Proof.Machine.execSoftReset req site blk s
  | .blockReady site blk => Sys2Proof.Machine.execBlockReady site blk s
  | .stopComplete site blk => Sys2Proof.Machine.execStopComplete site blk s
  | .pendingStart site blk => Sys2Proof.Machine.execPendingStart site blk s
  | .evtRawClear req site blk mask recur => Sys2Proof.Machine.execEvtRawClear req site blk mask recur s
  | .faultCodeClear req site blk val => Sys2Proof.Machine.execFaultCodeClear req site blk val s
  | .txnOpen req site blk val => Sys2Proof.Machine.execTxnOpen req site blk val s
  | .txnCommit req site blk val => Sys2Proof.Machine.execTxnCommit req site blk val s
  | .txnAbort req site blk val => Sys2Proof.Machine.execTxnAbort req site blk val s
  | .txnStaged site slot => Sys2Proof.Machine.execTxnStaged site slot s
  | .txnBoundary site slot => Sys2Proof.Machine.execTxnBoundary site slot s
  | .stagedReport pkg site group => Sys2Proof.Machine.execStagedReport pkg site group s
  | .groupReportDeadline group => Sys2Proof.Machine.execGroupReportDeadline group s
  | .groupAbort group => Sys2Proof.Machine.execGroupAbort group s
  | .crossApply site group => Sys2Proof.Machine.execCrossApply site group s
  | .encoderEdge site e lineB => Sys2Proof.Machine.execEncoderEdge site e lineB s
  | .qerr site e => Sys2Proof.Machine.execQerr site e s
  | .encLineBroken site e pair => Sys2Proof.Machine.execEncLineBroken site e pair s
  | .index site e rising => Sys2Proof.Machine.execIndex site e rising s
  | .periodNoMotion site e => Sys2Proof.Machine.execPeriodNoMotion site e s
  | .uncClr req site e => Sys2Proof.Machine.execUncClr req site e s
  | .lineTrigger site g => Sys2Proof.Machine.execLineTrigger site g s
  | .lateTrigger site g => Sys2Proof.Machine.execLateTrigger site g s
  | .pitchArm req site g val => Sys2Proof.Machine.execPitchArm req site g val s
  | .cevArm req n val => Sys2Proof.Machine.execCevArm req n val s
  | .clapperAction act => Sys2Proof.Machine.execClapperAction act s
  | .tickAction act => Sys2Proof.Machine.execTickAction act s
  | .ptpSync m => Sys2Proof.Machine.execPtpSync m s
  | .ptpFollowUp m => Sys2Proof.Machine.execPtpFollowUp m s
  | .delayReq => Sys2Proof.Machine.execDelayReq s
  | .ptpDelayResp m => Sys2Proof.Machine.execPtpDelayResp m s
  | .ptpAnnounce a => Sys2Proof.Machine.execPtpAnnounce a s
  | .announceReceiptTimeout => Sys2Proof.Machine.execAnnounceReceiptTimeout s
  | .ppsInEdge => Sys2Proof.Machine.execPpsInEdge s
  | .ppsMissing => Sys2Proof.Machine.execPpsMissing s
  | .holdoverMaxExpire => Sys2Proof.Machine.execHoldoverMaxExpire s
  | .ppsOut => Sys2Proof.Machine.execPpsOut s
  | .clkCmdSet req val => Sys2Proof.Machine.execClkCmdSet req val s
  | .clkCfgWrite req val => Sys2Proof.Machine.execClkCfgWrite req val s
  | .toBackup aMv bMv => Sys2Proof.Machine.execToBackup aMv bMv s
  | .toMain => Sys2Proof.Machine.execToMain s
  | .vaonBFall aMv bMv => Sys2Proof.Machine.execVaonBFall aMv bMv s
  | .fioToBackup site aMv bMv => Sys2Proof.Machine.execFioToBackup site aMv bMv s
  | .fioToMain site => Sys2Proof.Machine.execFioToMain site s
  | .fioLost site aMv bMv => Sys2Proof.Machine.execFioLost site aMv bMv s
  | .fioRestored site aMv bMv => Sys2Proof.Machine.execFioRestored site aMv bMv s
  | .mainLost => Sys2Proof.Machine.execMainLost s
  | .mainPgRise => Sys2Proof.Machine.execMainPgRise s
  | .mainRelease => Sys2Proof.Machine.execMainRelease s
  | .aonPowerOnReset => Sys2Proof.Machine.execAonPowerOnReset s
  | .porN lowNs => Sys2Proof.Machine.execPorN lowNs s
  | .rstCmd req val => Sys2Proof.Machine.execRstCmd req val s
  | .sysRstN lowNs => Sys2Proof.Machine.execSysRstN lowNs s
  | .perst => Sys2Proof.Machine.execPerst s
  | .trstN lowNs => Sys2Proof.Machine.execTrstN lowNs s
  | .avsFault rail alert => Sys2Proof.Machine.execAvsFault rail alert s
  | .avsAck rail answer => Sys2Proof.Machine.execAvsAck rail answer s
  | .watchdogExpire site core => Sys2Proof.Machine.execWatchdogExpire site core s
  | .aonBoot bootRecN ensLeadN => Sys2Proof.Machine.execAonBoot bootRecN ensLeadN s
  | .mainBoot failedSites failedLinks => Sys2Proof.Machine.execMainBoot failedSites failedLinks s
  | .pcieConfigRequest r => Sys2Proof.Machine.execPcieConfigRequest r s
  | .recCmdGo req val => Sys2Proof.Machine.execRecCmdGo req val s
  | .mbAck req t val => Sys2Proof.Machine.execMbAck req t val s
  | .getFwInfo t => Sys2Proof.Machine.execGetFwInfo t s
  | .svnRaise t => Sys2Proof.Machine.execSvnRaise t s
  | .flRead req => Sys2Proof.Machine.execFlRead req s
  | .flProgram req => Sys2Proof.Machine.execFlProgram req s
  | .erase4K req => Sys2Proof.Machine.execErase4K req s
  | .erase64K req => Sys2Proof.Machine.execErase64K req s
  | .flDone err us => Sys2Proof.Machine.execFlDone err us s
  | .linkFail => Sys2Proof.Machine.execLinkFail s
  | .linkChange width rate => Sys2Proof.Machine.execLinkChange width rate s
  | .sqTail req t q val => Sys2Proof.Machine.execSqTail req t q val s
  | .take t q desc => Sys2Proof.Machine.execTake t q desc s
  | .fence t q desc => Sys2Proof.Machine.execFence t q desc s
  | .takeStart => Sys2Proof.Machine.execTakeStart s
  | .takeEnd t q idx => Sys2Proof.Machine.execTakeEnd t q idx s
  | .completionRecord t q => Sys2Proof.Machine.execCompletionRecord t q s
  | .intModDelay t q => Sys2Proof.Machine.execIntModDelay t q s
  | .abortAll req t q val tags => Sys2Proof.Machine.execAbortAll req t q val tags s
  | .flr fn => Sys2Proof.Machine.execFlr fn s
  | .dailiesWrite d => Sys2Proof.Machine.execDailiesWrite d s
  | .exportData d => Sys2Proof.Machine.execExportData d s
  | .exportAck d ackPsn window => Sys2Proof.Machine.execExportAck d ackPsn window s
  | .exportRetry d => Sys2Proof.Machine.execExportRetry d s
  | .matmul site core => Sys2Proof.Machine.execMatmul site core s
  | .matmulAct site core => Sys2Proof.Machine.execMatmulAct site core s
  | .conv2d site core => Sys2Proof.Machine.execConv2d site core s
  | .ew site core => Sys2Proof.Machine.execEw site core s
  | .act site core => Sys2Proof.Machine.execAct site core s
  | .convert site core => Sys2Proof.Machine.execConvert site core s
  | .norm site core => Sys2Proof.Machine.execNorm site core s
  | .softmax site core => Sys2Proof.Machine.execSoftmax site core s
  | .reduce site core => Sys2Proof.Machine.execReduce site core s
  | .pool site core => Sys2Proof.Machine.execPool site core s
  | .dwconv site core => Sys2Proof.Machine.execDwconv site core s
  | .transpose site core => Sys2Proof.Machine.execTranspose site core s
  | .gather site core => Sys2Proof.Machine.execGather site core s
  | .copy site core => Sys2Proof.Machine.execCopy site core s
  | .barrier site core => Sys2Proof.Machine.execBarrier site core s
  | .barrierRelease site core => Sys2Proof.Machine.execBarrierRelease site core s
  | .flagWait site core => Sys2Proof.Machine.execFlagWait site core s
  | .flagSet site core => Sys2Proof.Machine.execFlagSet site core s
  | .cuePush site core => Sys2Proof.Machine.execCuePush site core s
  | .cuePop site core => Sys2Proof.Machine.execCuePop site core s
  | .dma site core => Sys2Proof.Machine.execDma site core s
  | .endOp site core => Sys2Proof.Machine.execEndOp site core s
  | .opRetire site core => Sys2Proof.Machine.execOpRetire site core s
  | .opOverrun site core => Sys2Proof.Machine.execOpOverrun site core s
  | .profClr req site core val => Sys2Proof.Machine.execProfClr req site core val s
  | .partialArrive site bay node right tile core => Sys2Proof.Machine.execPartialArrive site bay node right tile core s
  | .combineNodeTile site bay node tile core => Sys2Proof.Machine.execCombineNodeTile site bay node tile core s
  | .cmbParity site bay => Sys2Proof.Machine.execCmbParity site bay s
  | .slateLoad t cont => Sys2Proof.Machine.execSlateLoad t cont s
  | .slateUnload t => Sys2Proof.Machine.execSlateUnload t s
  | .unloadComplete handle => Sys2Proof.Machine.execUnloadComplete handle s
  | .slateQuery t => Sys2Proof.Machine.execSlateQuery t s
  | .boundRecord t => Sys2Proof.Machine.execBoundRecord t s
  | .clearAll req site val => Sys2Proof.Machine.execClearAll req site val s
  | .epochCancel epoch => Sys2Proof.Machine.execEpochCancel epoch s
  | .dmaTransfer site core q => Sys2Proof.Machine.execDmaTransfer site core q s
  | .dmaTransferDone site core q => Sys2Proof.Machine.execDmaTransferDone site core q s
  | .relayTile site core q => Sys2Proof.Machine.execRelayTile site core q s
  | .dmaTimeout site core q => Sys2Proof.Machine.execDmaTimeout site core q s
  | .dmaParity site core q => Sys2Proof.Machine.execDmaParity site core q s
  | .relayParity site core => Sys2Proof.Machine.execRelayParity site core s
  | .clrPeak req site val => Sys2Proof.Machine.execClrPeak req site val s
  | .mmuCmdInvalidate req t val => Sys2Proof.Machine.execMmuCmdInvalidate req t val s
  | .invDone t => Sys2Proof.Machine.execInvDone t s
  | .mmuCmdResume req t val => Sys2Proof.Machine.execMmuCmdResume req t val s
  | .mmuCmdResumeFail req t val => Sys2Proof.Machine.execMmuCmdResumeFail req t val s
  | .mmuSetRoot t => Sys2Proof.Machine.execMmuSetRoot t s
  | .mmuInvalidate t => Sys2Proof.Machine.execMmuInvalidate t s
  | .faultList t => Sys2Proof.Machine.execFaultList t s
  | .resume t => Sys2Proof.Machine.execResume t s
  | .granOwner req val => Sys2Proof.Machine.execGranOwner req val s
  | .granDone => Sys2Proof.Machine.execGranDone s
  | .correctedError site kind unit => Sys2Proof.Machine.execCorrectedError site kind unit s
  | .uncorrectableError site kind addr => Sys2Proof.Machine.execUncorrectableError site kind addr s
  | .scrub site ctl result => Sys2Proof.Machine.execScrub site ctl result s
  | .dieFatalError site code => Sys2Proof.Machine.execDieFatalError site code s
  | .siteReturned site => Sys2Proof.Machine.execSiteReturned site s
  | .pkgFatal code => Sys2Proof.Machine.execPkgFatal code s
  | .linkReplay site n => Sys2Proof.Machine.execLinkReplay site n s
  | .filterUnit site e => Sys2Proof.Machine.execFilterUnit site e s
  | .pyramidUnit site e => Sys2Proof.Machine.execPyramidUnit site e s
  | .matchUnit site e => Sys2Proof.Machine.execMatchUnit site e s
  | .unitDone site e => Sys2Proof.Machine.execUnitDone site e s
  | .unitOverrun site e => Sys2Proof.Machine.execUnitOverrun site e s
  | .clrMax req site e val => Sys2Proof.Machine.execClrMax req site e val s
  | .tapBurst site g tap words => Sys2Proof.Machine.execTapBurst site g tap words s
  | .rdClose site g => Sys2Proof.Machine.execRdClose site g s
  | .dcoLost site g => Sys2Proof.Machine.execDcoLost site g s
  | .dcoReturn site g => Sys2Proof.Machine.execDcoReturn site g s
  | .aligned site g khz => Sys2Proof.Machine.execAligned site g khz s
  | .alignFail site g => Sys2Proof.Machine.execAlignFail site g s
  | .sensorPoll site g => Sys2Proof.Machine.execSensorPoll site g s
  | .goSpi req site g val => Sys2Proof.Machine.execGoSpi req site g val s
  | .spiDone site g rx => Sys2Proof.Machine.execSpiDone site g rx s
  | .shdDataWrite req site g val => Sys2Proof.Machine.execShdDataWrite req site g val s
  | .shdDataRead req site g => Sys2Proof.Machine.execShdDataRead req site g s
  | .slotPublish site str => Sys2Proof.Machine.execSlotPublish site str s
  | .pipeSet t => Sys2Proof.Machine.execPipeSet t s
  | .perfReport site str => Sys2Proof.Machine.execPerfReport site str s
  | .frameDescPush site str => Sys2Proof.Machine.execFrameDescPush site str s
  | .layerReceive site k layer => Sys2Proof.Machine.execLayerReceive site k layer s
  | .frameEmit site str => Sys2Proof.Machine.execFrameEmit site str s
  | .frameHoldExpire site str => Sys2Proof.Machine.execFrameHoldExpire site str s
  | .segTail req site a val => Sys2Proof.Machine.execSegTail req site a val s
  | .segArm req site a val => Sys2Proof.Machine.execSegArm req site a val s
  | .segStart site a => Sys2Proof.Machine.execSegStart site a s
  | .segDone site a => Sys2Proof.Machine.execSegDone site a s
  | .pwmPeriod site a obs => Sys2Proof.Machine.execPwmPeriod site a obs s
  | .modeSwitch site a => Sys2Proof.Machine.execModeSwitch site a s
  | .atHold site a => Sys2Proof.Machine.execAtHold site a s
  | .clrLock req site a val => Sys2Proof.Machine.execClrLock req site a val s
  | .grpCmdStop req site g val => Sys2Proof.Machine.execGrpCmdStop req site g val s
  | .atRest site g => Sys2Proof.Machine.execAtRest site g s
  | .grpCmdRelease req site g val => Sys2Proof.Machine.execGrpCmdRelease req site g val s
  | .limitQualify site idx level => Sys2Proof.Machine.execLimitQualify site idx level s
  | .overcurrent site a => Sys2Proof.Machine.execOvercurrent site a s
  | .senseFail site a => Sys2Proof.Machine.execSenseFail site a s
  | .paceStep site g => Sys2Proof.Machine.execPaceStep site g s
  | .pacingTick site g => Sys2Proof.Machine.execPacingTick site g s
  | .achievedReport site g => Sys2Proof.Machine.execAchievedReport site g s
  | .pcCmdStop req site g val => Sys2Proof.Machine.execPcCmdStop req site g val s
  | .pcCmdResume req site g val => Sys2Proof.Machine.execPcCmdResume req site g val s
  | .pcCmdSkip req site g val => Sys2Proof.Machine.execPcCmdSkip req site g val s
  | .restartRunUp site g => Sys2Proof.Machine.execRestartRunUp site g s
  | .autoResumed site g => Sys2Proof.Machine.execAutoResumed site g s
  | .meterConversion site m conv => Sys2Proof.Machine.execMeterConversion site m conv s
  | .excOvercurrent site m => Sys2Proof.Machine.execExcOvercurrent site m s
  | .excReturn site m => Sys2Proof.Machine.execExcReturn site m s
  | .clamp site m => Sys2Proof.Machine.execClamp site m s
  | .clampFault site m => Sys2Proof.Machine.execClampFault site m s
  | .adcFail site m => Sys2Proof.Machine.execAdcFail site m s
  | .refFault site mv => Sys2Proof.Machine.execRefFault site mv s
  | .meterConfigWrite req site m off val => Sys2Proof.Machine.execMeterConfigWrite req site m off val s
  | .outputPeriod site o => Sys2Proof.Machine.execOutputPeriod site o s
  | .calCmdStart req site val => Sys2Proof.Machine.execCalCmdStart req site val s
  | .calStep site res => Sys2Proof.Machine.execCalStep site res s
  | .calCmdAbort req site val => Sys2Proof.Machine.execCalCmdAbort req site val s
  | .calCmdRestore req site val => Sys2Proof.Machine.execCalCmdRestore req site val s
  | .calDataWrite req site val => Sys2Proof.Machine.execCalDataWrite req site val s
  | .calDataRead req site => Sys2Proof.Machine.execCalDataRead req site s
  | .scCmdDark req site g val => Sys2Proof.Machine.execScCmdDark req site g val s
  | .scCmdFlat req site g val => Sys2Proof.Machine.execScCmdFlat req site g val s
  | .scCmdAbort req site g val => Sys2Proof.Machine.execScCmdAbort req site g val s
  | .shadeExposure site g codes lost => Sys2Proof.Machine.execShadeExposure site g codes lost s
  | .energyTick e => Sys2Proof.Machine.execEnergyTick e s
  | .gafferTick temps => Sys2Proof.Machine.execGafferTick temps s
  | .trip site temps => Sys2Proof.Machine.execTrip site temps s
  | .tripClear site temps => Sys2Proof.Machine.execTripClear site temps s
  | .pkgBudgetWrite req off val => Sys2Proof.Machine.execPkgBudgetWrite req off val s
  | .trngValid => Sys2Proof.Machine.execTrngValid s
  | .healthFail kind => Sys2Proof.Machine.execHealthFail kind s
  | .entropyFail => Sys2Proof.Machine.execEntropyFail s
  | .drbgReseed => Sys2Proof.Machine.execDrbgReseed s
  | .rand req => Sys2Proof.Machine.execRand req s
  | .sessionOpen t => Sys2Proof.Machine.execSessionOpen t s
  | .sessionBind t => Sys2Proof.Machine.execSessionBind t s
  | .sessionClose t => Sys2Proof.Machine.execSessionClose t s
  | .confEnter t => Sys2Proof.Machine.execConfEnter t s
  | .confExit t => Sys2Proof.Machine.execConfExit t s
  | .attestCert t => Sys2Proof.Machine.execAttestCert t s
  | .dbgWinDataWrite req val => Sys2Proof.Machine.execDbgWinDataWrite req val s
  | .dbgWinDataRead req => Sys2Proof.Machine.execDbgWinDataRead req s
  | .ensForm t found => Sys2Proof.Machine.execEnsForm t found s
  | .ensRejoin t found => Sys2Proof.Machine.execEnsRejoin t found s
  | .ensDissolve t => Sys2Proof.Machine.execEnsDissolve t s
  | .portTrained site p => Sys2Proof.Machine.execPortTrained site p s
  | .trainFail site p => Sys2Proof.Machine.execTrainFail site p s
  | .peerAuth site p peer => Sys2Proof.Machine.execPeerAuth site p peer s
  | .dataFrame site p f => Sys2Proof.Machine.execDataFrame site p f s
  | .ackFrame site p f => Sys2Proof.Machine.execAckFrame site p f s
  | .timeFrame site p f => Sys2Proof.Machine.execTimeFrame site p f s
  | .controlFrame site p f => Sys2Proof.Machine.execControlFrame site p f s
  | .lossOfSignal site p => Sys2Proof.Machine.execLossOfSignal site p s
  | .pkgLost p cause => Sys2Proof.Machine.execPkgLost p cause s
  | .isolated => Sys2Proof.Machine.execIsolated s
  | .guardDemand site src => Sys2Proof.Machine.execGuardDemand site src s
  | .motionWindow site => Sys2Proof.Machine.execMotionWindow site s
  | .inputFault site e => Sys2Proof.Machine.execInputFault site e s
  | .inputFaultClear site e => Sys2Proof.Machine.execInputFaultClear site e s
  | .stopMsExpire site n => Sys2Proof.Machine.execStopMsExpire site n s
  | .monCmdReset req site val => Sys2Proof.Machine.execMonCmdReset req site val s
  | .resetIn site ms => Sys2Proof.Machine.execResetIn site ms s
  | .testPulse site n outB ok => Sys2Proof.Machine.execTestPulse site n outB ok s
  | .diagInterval site fail => Sys2Proof.Machine.execDiagInterval site fail s
  | .monCmdUnlock req site val => Sys2Proof.Machine.execMonCmdUnlock req site val s
  | .monCmdCommit req site val => Sys2Proof.Machine.execMonCmdCommit req site val s
  | .monCmdAbortCfg req site val => Sys2Proof.Machine.execMonCmdAbortCfg req site val s
  | .selfTestDone site ok => Sys2Proof.Machine.execSelfTestDone site ok s
  | .ssoCurrentLimit site n outB => Sys2Proof.Machine.execSsoCurrentLimit site n outB s
  | .latchedRead req at_ => Sys2Proof.Machine.execLatchedRead req at_ s
  | .regParity site blk => Sys2Proof.Machine.execRegParity site blk s
  | .vaonAReturn aMv bMv => Sys2Proof.Machine.execVaonAReturn aMv bMv s
  | .vfioAReturn site aMv bMv => Sys2Proof.Machine.execVfioAReturn site aMv bMv s
  | .clampEnd site m => Sys2Proof.Machine.execClampEnd site m s
  | .pollEnd site g rx => Sys2Proof.Machine.execPollEnd site g rx s
  | .tapInstruction code => Sys2Proof.Machine.execTapInstruction code s

end Sys2Proof.Machine
end

