-- ==== Sys2Proof/Machine/Idle.lean ====
section
/-!
DEFINITION. Machine/Idle.lean: one 5 ns sample of the block's own clocks, which is what a step does while no command waits (log 6):
time, the clapper, the axis ticks, and what runs at an instant and has no command of its own.
-/
namespace Sys2Proof.Machine

/-- The clapper advances by INCR in each 40 ns reference cycle, of eight samples (02 R36; INCR is 8.24 ns). -/
def State.idleClapper (s : State) : State :=
  if s.now % 8 = 0 then { s with clapper := (s.clapper + (s.reg (clkPage + 0x64)).toNat) % (2 ^ 48 * 10 ^ 9 * 2 ^ 24) } else s

/-- The 40 MHz axis tick of every field die, each fifth sample (02 R41; 15). -/
def State.idleTicks (s : State) : State :=
  if s.now % 5 = 0 then s.fieldSites.foldl (fun s x => s.tickDie x) s else s

/-- The PPS output falls PPS_WIDTH ms after its rise (02 R37). -/
def State.idlePps (s : State) : State :=
  match s.clk.ppsHigh with
  | some t => if t + s.regFld (clkPage + 0x40) 16 8 * 200000 ≤ s.now then (s.setClk { s.clk with ppsHigh := none }).emit .ppsFall else s
  | none => s

/-- CLK_STATUS shows the holdover seconds elapsed (02 Control). -/
def State.idleHoldover (s : State) : State :=
  match s.clk.holdAt with
  | some t => if (s.now - t) % 200000000 = 0 then s.putFld (clkPage + 0x44) 16 16 (min 0xFFFF ((s.now - t) / 200000000)) else s
  | none => s

/-- VAON_MV and VFIO_MV are refreshed every 100 µs (04 Control). -/
def State.idleVolts (s : State) : State :=
  if s.now % 20000 = 0 then
    s.fieldSites.foldl (fun s x => s.setNat (fioPage x + 0x44) ((s.fio x).a % 65536 + (s.fio x).b % 65536 * 65536))
      (s.setNat (supPage + 0x48) (s.sup.vaonA % 65536 + s.sup.vaonB % 65536 * 65536))
  else s

/-- The reset that an accepted RST_CMD pair starts 10 µs later (04 Control, R83). -/
def State.idleReset (s : State) : State :=
  match s.sup.rstAt with
  | some t => if t + 2000 ≤ s.now then s.packageReset 3 else s
  | none => s

/-- While the always-on domain is held in reset nothing runs (04 R81): it leaves reset once its supplies have been good for 2 ms. Until
they are, VIO_AON's level, which no command carries, is a free value of each sample (log 71). -/
def State.idleHeld (s : State) (n : Nat) : State :=
  if s.aonFit = false then
    { s.draw with sup := { s.sup with vioAon := (Config.freeWord s.free).toNat % 2 ^ 16, held := some 0 } }
  else { s with sup := { s.sup with held := if 400000 ≤ n + 1 then none else some (n + 1) } }

/-- One sample in which no command is taken. -/
def State.idle (s : State) : State :=
  match s.sup.held with
  | some n => s.idleHeld n
  | none => (((((({ s with now := s.now + 1 } : State).idleClapper).idleTicks).idlePps).idleHoldover).idleVolts).raiseClocks.idleReset

end Sys2Proof.Machine
end

