-- ==== Sys2Proof/Safety.lean ====
section
/-!
DEFINITION. Safety.lean: what the statements are said in: what a command may change (registers, fields of State), the canonical form
of the register file and the memories, and when two states read alike.
-/
namespace Sys2Proof.Machine

/-- The fields of State, by name. -/
inductive Field
  | asm
  | lead
  | regs
  | latch
  | rdata
  | rdataHi
  | back
  | bar2
  | out
  | now
  | clapper
  | clk
  | sup
  | fios
  | ticks
  | encs
  | poss
  | cevs
  | segArms
  | slots
  | groups
  | order
  | meters
  | calibs
  | gaffer
  | tenants
  | sec
  | ens
  | ports
  | mons
  | boot
  | ram
  | hmem
  | badCpl
  | mute
  | flash
  | weak
  | loads
  | restarts
  | rings
  | strms
  | gates
  | axes
  | grps
  | slotRings
  | cueQs
  | binFlags
  | slates
  | gens
  | cancels
  | tqs
  | sched
  | dqs
  | cores
  | cmbs
  | engs
  | mmus
  | grans
  | granBusy
  | poison
  | buckets
  | arbs
  | capQs
  | avs
  | bndTaken
  | ces
  | scrubs
  | free
  | pending
  deriving DecidableEq, Repr

/-- Two states agree in a field. -/
def Field.same (f : Field) (s t : State) : Prop :=
  match f with
  | .asm => t.asm = s.asm
  | .lead => t.lead = s.lead
  | .regs => t.regs = s.regs
  | .latch => t.latch = s.latch
  | .rdata => t.rdata = s.rdata
  | .rdataHi => t.rdataHi = s.rdataHi
  | .back => t.back = s.back
  | .bar2 => t.bar2 = s.bar2
  | .out => t.out = s.out
  | .now => t.now = s.now
  | .clapper => t.clapper = s.clapper
  | .clk => t.clk = s.clk
  | .sup => t.sup = s.sup
  | .fios => t.fios = s.fios
  | .ticks => t.ticks = s.ticks
  | .encs => t.encs = s.encs
  | .poss => t.poss = s.poss
  | .cevs => t.cevs = s.cevs
  | .segArms => t.segArms = s.segArms
  | .slots => t.slots = s.slots
  | .groups => t.groups = s.groups
  | .order => t.order = s.order
  | .meters => t.meters = s.meters
  | .calibs => t.calibs = s.calibs
  | .gaffer => t.gaffer = s.gaffer
  | .tenants => t.tenants = s.tenants
  | .sec => t.sec = s.sec
  | .ens => t.ens = s.ens
  | .ports => t.ports = s.ports
  | .mons => t.mons = s.mons
  | .boot => t.boot = s.boot
  | .ram => t.ram = s.ram
  | .hmem => t.hmem = s.hmem
  | .badCpl => t.badCpl = s.badCpl
  | .mute => t.mute = s.mute
  | .flash => t.flash = s.flash
  | .weak => t.weak = s.weak
  | .loads => t.loads = s.loads
  | .restarts => t.restarts = s.restarts
  | .rings => t.rings = s.rings
  | .strms => t.strms = s.strms
  | .gates => t.gates = s.gates
  | .axes => t.axes = s.axes
  | .grps => t.grps = s.grps
  | .slotRings => t.slotRings = s.slotRings
  | .cueQs => t.cueQs = s.cueQs
  | .binFlags => t.binFlags = s.binFlags
  | .slates => t.slates = s.slates
  | .gens => t.gens = s.gens
  | .cancels => t.cancels = s.cancels
  | .tqs => t.tqs = s.tqs
  | .sched => t.sched = s.sched
  | .dqs => t.dqs = s.dqs
  | .cores => t.cores = s.cores
  | .cmbs => t.cmbs = s.cmbs
  | .engs => t.engs = s.engs
  | .mmus => t.mmus = s.mmus
  | .grans => t.grans = s.grans
  | .granBusy => t.granBusy = s.granBusy
  | .poison => t.poison = s.poison
  | .buckets => t.buckets = s.buckets
  | .arbs => t.arbs = s.arbs
  | .capQs => t.capQs = s.capQs
  | .avs => t.avs = s.avs
  | .bndTaken => t.bndTaken = s.bndTaken
  | .ces => t.ces = s.ces
  | .scrubs => t.scrubs = s.scrubs
  | .free => t.free = s.free
  | .pending => t.pending = s.pending

/-- Every field of `a` is one of `b`. -/
def Field.sub (a b : List Field) : Bool := a.all (fun f => decide (f ∈ b))

/-- Whether a write by a requester to a register of a page of block type `ty` reaches it: the page is present and exposed, the requester
may write it (01 R19; 03 R50; 06 R110), the page is of that type, and no commit of its site is due before the write (03 R66). -/
def State.takes (s : State) (ty req site blk off : Nat) : Bool :=
  (s.gateWrite req site blk off).isNone && s.typeAt site blk == ty && s.noneDue site

/-- Whether a page's event bit is latched (03 R57). -/
def State.latched (s : State) (p bit : Nat) : Bool := s.regBit (p + 0x10) bit

/-- The canonical form of a byte memory whose unlisted bytes read `d`: addresses strictly rise and no entry equals `d`. -/
def Memory.wf (d : Byte) (m : List (Nat × Byte)) : Bool := tabWf (fun _ => d) m

/-- The canonical form of everything addressed: the register file, whose unlisted registers read their reset values; the on-package
memories and host memory, whose unlisted bytes read 0; the flash, whose unlisted bytes read 0xFF; and the weak bits of its bytes. -/
def State.wf (s : State) : Bool :=
  tabWf (regReset s.asm) s.regs && Memory.wf 0#8 s.ram && Memory.wf 0#8 s.hmem && Memory.wf 0xFF#8 s.flash && Memory.wf 0#8 s.weak

/-- The second state differs from the first in the fields of `w` at most. -/
def Only (w : List Field) (s t : State) : Prop := ∀ f : Field, f ∉ w → f.same s t

/-- The PEND_MAP word of a page (06). -/
def pendReg (p : Nat) : Nat := pg 8 6 + 0x100 + 0x80 * siteOf p + 4 * (blkOf p / 32)

/-- The registers in which a page's event shows: EVT_RAW, EVT_PEND and its PEND_MAP word (03 R57). -/
def evtRegs (p : Nat) : List Nat := [p + 0x10, p + 0x18, pendReg p]

/-- The registers a rejected write shows in: REJ_INFO and the event's (03 R71). -/
def rejRegs (p : Nat) : List Nat := (p + 0x34) :: evtRegs p

/-- The registers a change of state shows in: STATE and the event's (03 R54). -/
def stRegs (p : Nat) : List Nat := (p + 0xC) :: evtRegs p

/-- The registers entering FAULT shows in: CTRL, FAULT_CODE, STATE and the event's (03 R54, R58). -/
def faultRegs (p : Nat) : List Nat := (p + 8) :: (p + 0x1C) :: stRegs p

/-- Every register but those of `w` reads as before. -/
def RegsBut (w : List Nat) (s t : State) : Prop := ∀ a, a ∉ w → t.reg a = s.reg a

/-- Every register off the pages of `ps` reads as before. -/
def PagesBut (ps : List Nat) (s t : State) : Prop := ∀ a, a / 0x1000 * 0x1000 ∉ ps → t.reg a = s.reg a

/-- Every byte of the on-package memories, of host memory and of the flash reads as before. -/
def BytesKept (s t : State) : Prop :=
  (∀ k, tabGet 0#8 t.ram k = tabGet 0#8 s.ram k) ∧ (∀ a, tabGet 0#8 t.hmem a = tabGet 0#8 s.hmem a) ∧
    (∀ a, tabGet 0xFF#8 t.flash a = tabGet 0xFF#8 s.flash a) ∧ ∀ a, tabGet 0#8 t.weak a = tabGet 0#8 s.weak a

/-- The second state differs from the first in the fields of `w` at most, and has the canonical form if the first has it. -/
structure Kept (w : List Field) (s t : State) : Prop where
  same : Only w s t
  wf : s.wf = true → t.wf = true

end Sys2Proof.Machine
end

