-- ==== Sys2Proof/Machine/Terms.lean ====
section
/-!
DEFINITION. Machine/Terms.lean: the conditions and relations that the statements name, each of which abbreviates what a rule says of
when a unit acts and of what it leaves.
-/
namespace Sys2Proof.Machine

/-- Every byte of the on-package memories but the `n` from key `lo` reads as before. -/
def RamBut (lo n : Nat) (s t : State) : Prop := ∀ k, k < lo ∨ lo + n ≤ k → tabGet 0#8 t.ram k = tabGet 0#8 s.ram k

/-- Every byte of host memory but the `n` from `lo` reads as before. -/
def HmemBut (lo n : Nat) (s t : State) : Prop := ∀ k, k < lo ∨ lo + n ≤ k → tabGet 0#8 t.hmem k = tabGet 0#8 s.hmem k

/-- The op a core stands at (07 R147). -/
def State.presentOp (s : State) (site core : Nat) (y : Slate) : Op := opAt y.cont (s.core site core).loc (s.core site core).pc

/-- A core stands at an op of a code: its die's clocks run, its page is RUNNING, its last op has retired, and a work that goes on holds
it (07 R150). -/
def State.atOp (s : State) (site core code : Nat) (w : Work) (y : Slate) : Bool :=
  s.clocked site && decide (core < 64) && s.st (corePage site core) == 2 && (s.core site core).phase == 0 &&
    (s.core site core).work == some w && s.workSlate w == some y && (match w with | .stage _ => y.running && !y.faulted | .take _ _ _ => true) &&
    decide ((s.core site core).pc < opCount y.cont (s.core site core).loc) && (s.presentOp site core y).code == code

/-- A core waits for its op to retire or at a barrier (07 R150, R151). -/
def State.inOp (s : State) (site core phase : Nat) (w : Work) (y : Slate) : Bool :=
  s.clocked site && s.st (corePage site core) == 2 && (s.core site core).phase == phase && (s.core site core).work == some w && s.workSlate w == some y

/-- The operands of an op are ready, inside their regions and not poisoned, at these places (09 R191; 10 R208; 11 R239). -/
def State.operandsAt (s : State) (site core : Nat) (cont : List Byte) (ops : List Operand) (ps : List (Nat × Nat)) : Bool :=
  match s.checkOps site core cont ops with | .go l => l == ps | _ => false

/-- The core cycles that a core which waits has waited so far, at its die's clock (07 R153). -/
def State.waited (s : State) (site core : Nat) : Nat :=
  match (s.core site core).waitFrom with
  | some t => (s.now - t) * 5 * s.regFld (pg site 0x0B + 0x44) 0 12 / 1000
  | none => 0

/-- A core has done an op's work and waits to retire it after a number of cycles, its wait counted, its epochs, rings and place in the
list as they were (07 R150, R153). -/
def State.opRan (s t : State) (site core cost : Nat) (o : Op) (used : List Nat) : Bool :=
  let x := s.core site core
  t.core site core == { x with phase := 1, cost := cost, relRings := (opRings o).1, pubRings := (opRings o).2, used := x.used ++ used, waitFrom := none, cycles := x.cycles + s.waited site core }

/-- A DMA queue of a core is at work: its die's clocks run and its work holds the core (10 R201). -/
def State.queueAt (s : State) (site core q : Nat) (w : Work) (y : Slate) : Bool :=
  s.clocked site && decide (core < 64) && decide (q < 4) && (s.dq site core q).work == some w && (s.core site core).work == some w && s.workSlate w == some y

/-- A place of a descriptor lies in an on-package memory, at an address. -/
def Spot.isMem (p : Spot) (sp a : Nat) : Bool := match p with | .mem x b => x == sp && b == a | _ => false

/-- Where the source and the destination of a descriptor's next transfer of `n` bytes lie (10 R200, R204). -/
def State.srcSpot (s : State) (site core : Nat) (w : Work) (y : Slate) (d : Desc) (i : IDesc) (n : Nat) : Spot :=
  s.spot site core w y (s.core site core).loc d.srcSp d.srcRing d.src (i.row * d.srcStride + i.col) n false d ((i.srcSlot.map (·.2)).getD 0)
def State.dstSpot (s : State) (site core : Nat) (w : Work) (y : Slate) (d : Desc) (i : IDesc) (n : Nat) : Spot :=
  s.spot site core w y (s.core site core).loc d.dstSp d.dstRing d.dst (i.row * d.dstStride + i.col) n true d ((i.dstSlot.map (·.2)).getD 0)

/-- A vision engine stands between units, or in one, with a job of its kind for a stage that goes on (12 R249, R265). -/
def State.engineAt (s : State) (site e kind : Nat) (y : Slate) : Bool :=
  s.clocked site && decide (e < 6) && e / 2 == kind && s.st (engPage site e) == 2 && !(s.eng site e).job.isEmpty &&
    (decodeJob (s.eng site e).job).engine == kind && s.slate (s.eng site e).handle == some y && !y.faulted && y.state != 3

/-- A filter or pyramid unit may start: its triggers are met and its input is there, whole and not poisoned (12 R249; 11 R239). -/
def State.stripeReady (s : State) (x : Eng) (y : Slate) (j : Job) : Bool :=
  !x.busy && s.unitIn y x j && s.unitOut y x j && decide (span j.rows (j.width * vPix j.fin) j.inStride ≤ (s.unitInput y x j).2.2.1) &&
    !s.poisoned (s.unitInput y x j).1 (s.unitInput y x j).2.1 (span j.rows (j.width * vPix j.fin) j.inStride)

/-- The rows a unit's own stripe brings, by line (12 R250). -/
def State.unitRows (s : State) (x : Eng) (y : Slate) (j : Job) : List (Nat × Nat × List Int) :=
  let b := x.base.getD (x.unit, 0)
  let first := b.2 + (x.unit - b.1) * j.rows
  let lag := jobLag y.cont x.group 4 j
  (List.range j.rows).filterMap (fun i => if b.2 + lag ≤ first + i then
    some (0, first + i - lag, rowPix j.fin j.width (s.ramGet (s.unitInput y x j).1 ((s.unitInput y x j).2.1 + i * j.inStride) (j.width * vPix j.fin))) else none)

/-- The places of level rows, where every page translates (12 R253). -/
def State.levelsAt (s : State) (y : Slate) (g : Nat) (write : Bool) (reqs : List (Lvl × Nat × Nat)) (ps : List (List (Nat × Nat × Nat))) : Bool :=
  reqs.all (fun q => !lvlBroken y.cont q.1 q.2.1 q.2.2) && (match s.lvlPlaces y g write reqs with | .ok l => l == ps | .error _ => false)

/-- The register write that a command is, where it is one: its requester, and the site, block and offset it writes (03 R50; the registers
of the commands' own rows). -/
def writeOf : Instr → Option (Nat × Nat × Nat × Nat)
  | .registerWrite req addr val _ => if val.hi.isNone ∧ addr < 2 ^ 26 then some (req, siteOf addr, blkOf addr, offOf addr) else none
  | .ctrlEnSet req site blk => some (req, site, blk, 8)
  | .ctrlEnClear req site blk => some (req, site, blk, 8)
  | .softReset req site blk => some (req, site, blk, 8)
  | .evtRawClear req site blk _ _ => some (req, site, blk, 0x10)
  | .faultCodeClear req site blk _ => some (req, site, blk, 0x1C)
  | .txnOpen req site blk _ => some (req, site, blk, 0x20)
  | .txnCommit req site blk _ => some (req, site, blk, 0x20)
  | .txnAbort req site blk _ => some (req, site, blk, 0x20)
  | .pitchArm req site g _ => some (req, site, 0x18 + g, 0x5C)
  | .cevArm req n _ => if n < 4 then some (req, 8, 1, 0x88 + 16 * n) else none
  | .recCmdGo req _ => some (req, 8, 3, 0x64)
  | .mbAck req t _ => if t < 16 then some (req, 8, 0x20 + t, 0x48) else none
  | .flRead req => some (req, 8, 4, 0x48)
  | .flProgram req => some (req, 8, 4, 0x48)
  | .erase4K req => some (req, 8, 4, 0x48)
  | .erase64K req => some (req, 8, 4, 0x48)
  | .clkCmdSet req _ => some (req, 8, 1, 0x60)
  | .clkCfgWrite req _ => some (req, 8, 1, 0x40)
  | .segTail req site a _ => some (req, site, 0x40 + a, 0xAC)
  | .segArm req site a _ => some (req, site, 0x40 + a, 0xB8)
  | .clrLock req site a _ => some (req, site, 0x40 + a, 0xC0)
  | .grpCmdStop req site g _ => some (req, site, 0x50 + g, 0x58)
  | .grpCmdRelease req site g _ => some (req, site, 0x50 + g, 0x58)
  | .uncClr req site e => some (req, site, 0x10 + e, 0x6C)
  | .pkgBudgetWrite req off _ => some (req, 8, 7, if off = 0x40 then 0x40 else 0x48)
  | .shdDataWrite req site g _ => some (req, site, 0x20 + g, 0xC0)
  | .scCmdDark req site g _ => some (req, site, 0x20 + g, 0xE0)
  | .scCmdFlat req site g _ => some (req, site, 0x20 + g, 0xE0)
  | .scCmdAbort req site g _ => some (req, site, 0x20 + g, 0xE0)
  | .clearAll req site _ => some (req, site, 8, 0x44)
  | .calCmdStart req site _ => some (req, site, 0x88, 0x58)
  | .calCmdAbort req site _ => some (req, site, 0x88, 0x58)
  | .calCmdRestore req site _ => some (req, site, 0x88, 0x58)
  | .calDataWrite req site _ => some (req, site, 0x88, 0x68)
  | .granOwner req _ => some (req, 8, 5, 0x50)
  | .monCmdReset req site _ => some (req, site, 0x90, 0x44)
  | .monCmdUnlock req site _ => some (req, site, 0x90, 0x44)
  | .monCmdCommit req site _ => some (req, site, 0x90, 0x44)
  | .monCmdAbortCfg req site _ => some (req, site, 0x90, 0x44)
  | .clrPeak req site _ => some (req, site, 9, 0x54)
  | .pcCmdStop req site g _ => some (req, site, 0x70 + g, 0x78)
  | .pcCmdResume req site g _ => some (req, site, 0x70 + g, 0x78)
  | .pcCmdSkip req site g _ => some (req, site, 0x70 + g, 0x78)
  | .goSpi req site g _ => if g < 8 then some (req, site, 0x38 + g, 0x44) else none
  | .meterConfigWrite req site m off _ => if m < 8 ∧ 0x40 ≤ off then some (req, site, 0x78 + m, off) else none
  | .dbgWinDataWrite req _ => some (req, 8, 0x0A, 0x4C)
  | .profClr req site core _ => if core < 64 then some (req, site, 0x100 + core, 0x50) else none
  | .clrMax req site e _ => if e < 6 then some (req, site, 0x60 + e, 0x58) else none
  | .rstCmd req _ => some (req, 8, 2, 0x6C)
  | .sqTail req t q _ => if t < 16 ∧ q < 8 then some (req, 8, 0x100 + 8 * t + q, 0x54) else none
  | .abortAll req t q _ _ => if t < 16 ∧ q < 8 then some (req, 8, 0x100 + 8 * t + q, 0x6C) else none
  | _ => none

end Sys2Proof.Machine
end

