-- ==== Sys2Proof/Certificates/Slice0/Obligations.lean ====
section
/-!
DEFINITION. Certificates/Slice0/Obligations.lean: what is claimed of the model, for the provers. A clause that reads
"there is t with exec c s = next t" says where a command completes, what it then leaves in the registers, the records and the outputs, and
which fields of State it can have changed at most.
-/
open Sys2Proof Sys2Proof.Machine

/-- A step takes the command at the front of the queue; what it does on an empty queue is the model's choice (log 6)
(02_position_and_time.md R41) -/
def Obligations.StepRunsTheFrontCommand : Prop :=
  ((∀ (s : State) (c : Instr) (rest : List Instr), s.pending = c :: rest → step s = exec c { s with pending := rest })) ∧
  ((∀ (s : State), s.pending = [] → step s = .next s.idle))

/-- What reset leaves of the values the spec gives (03_register_pages.md R54, 04_supplies_and_reset.md R88, 22_continuity.md R455,
22_continuity.md R459) -/
def Obligations.ResetLeavesTheSpecsValues : Prop :=
  ((∀ site blk, site < 16 → blk < 1024 → State.reset.st (pg site blk) = (if State.reset.typeAt site blk ≠ 0 ∧ alwaysRunning (State.reset.typeAt site blk) = true then 2 else 0))) ∧
  ((∀ site n, (State.reset.mon site).st = 0 ∧ ((State.reset.mon site).pair n).st = 0)) ∧
  ((∀ site, State.reset.isField site = true → State.reset.reg (monPage site + 0x4C) = BitVec.ofNat 32 227968344)) ∧
  ((State.reset.pending = [] ∧ State.reset.slates = [] ∧ State.reset.tqs = [] ∧ State.reset.ensSt = 0 ∧ State.reset.wf = true))

/-- Every step keeps the canonical form of everything addressed, so equal contents are equal data (03_register_pages.md R50) -/
def Obligations.EveryStepKeepsTheCanonicalForm : Prop :=
  (∀ (s t : State), s.wf = true → step s = .next t → t.wf = true)

/-- No command stops the block, changes its assembly or touches the queue (01_assemblies.md R11) -/
def Obligations.EveryCommandKeepsAssemblyAndQueue : Prop :=
  ((∀ (c : Instr) (s : State), ∃ t, exec c s = .next t ∧ t.asm = s.asm ∧ t.pending = s.pending)) ∧
  ((∀ (s : State) (c : Instr) (rest : List Instr), s.pending = c :: rest → ∃ t, step s = .next t ∧ t.pending = rest ∧ t.asm = s.asm))

/-- No requester changes a page that it may not write; the always-on domain held in reset answers none (01_assemblies.md R19,
03_register_pages.md R50, 04_supplies_and_reset.md R81, 06_host_takes.md R110, 22_continuity.md R458) -/
def Obligations.WritesOutOfReachOnlyLeaveTheirRecord : Prop :=
  ((∀ (s : State) (c : Instr) (req site blk off : Nat), writeOf c = some (req, site, blk, off) → s.sup.held = none →
    s.present site blk = false ∨ s.bar0 req site blk = false →
      ∃ t, exec c s = .next t ∧ t.reg (pg 8 0 + 0x50) = BitVec.ofNat 32 (pg site blk + off) ∧ t.latched (pg 8 0) 0 = true ∧
        Only [.regs, .bar2, .out] s t ∧ RegsBut ((pg 8 0 + 0x50) :: evtRegs (pg 8 0)) s t)) ∧
  ((∀ (s : State) (c : Instr) (req site blk off : Nat), writeOf c = some (req, site, blk, off) → s.sup.held = none →
    s.present site blk = true → s.bar0 req site blk = true → s.writeReach req site blk off = false →
      ∃ t, exec c s = .next t ∧ t.reg (pg site blk + 0x34) = BitVec.ofNat 32 (off + 4 * 2 ^ 12 + req % 32 * 2 ^ 16) ∧
        t.latched (pg site blk) 24 = true ∧ Only [.regs, .bar2, .out] s t ∧ RegsBut (rejRegs (pg site blk)) s t)) ∧
  ((∀ (s : State) (c : Instr) (req site blk off : Nat), writeOf c = some (req, site, blk, off) → s.sup.held ≠ none →
      exec c s = .next s))

/-- An encoder counts each filtered edge by its quadrature phase; QERR, overrate and broken lines do what R24 to R27 say.
(02_position_and_time.md R23, 02_position_and_time.md R24, 02_position_and_time.md R25, 02_position_and_time.md R26,
02_position_and_time.md R27) -/
def Obligations.EncoderEdgesAndErrors : Prop :=
  (∀ (s : State) (site e : Nat) (lineB : Bool),
     s.isField site = true →
     e < 8 →
     overrate (s.enc site e) lineB (s.regFld (encPage site e + 0x40) 0 8) s.now = false →
       ∃ t, exec (.encoderEdge site e lineB) s = .next t ∧
         ((t.enc site e).count = if ((if lineB then (s.enc site e).a != (s.enc site e).b else (s.enc site e).a == (s.enc site e).b) == s.regBit (encPage site e + 0x40) 8) then (s.enc site e).count - 1 else (s.enc site e).count + 1) ∧
         (t.enc site e).a = (s.enc site e).a.xor (!lineB) ∧
         (t.enc site e).b = (s.enc site e).b.xor lineB ∧
         (t.enc site e).last = some s.now ∧
         (t.enc site e).edges = (s.enc site e).edges + 1 ∧
         Only [.regs, .bar2, .out, .encs, .poss] s t ∧
         RegsBut ((encPage site e + 0x58) :: evtRegs (encPage site e)) s t) ∧
  (∀ (s : State) (site e n : Nat) (lineB : Bool),
     s.isField site = true →
     e < 8 →
     overrate (s.enc site e) lineB (s.regFld (encPage site e + 0x40) 0 8) s.now = true →
     (s.enc site e).errs = [] →
     1 ≤ s.regFld (encPage site e + 0x40) 16 8 →
     s.regFld (encPage site e + 0x50) 0 16 = n →
     n < 0xFFFD →
       ∃ t, exec (.encoderEdge site e lineB) s = .next t ∧
         t.reg (encPage site e + 0x50) = BitVec.ofNat 32 (n + 2) ∧
         t.latched (encPage site e) 4 = true ∧
         (t.enc site e).edges = (s.enc site e).edges + 1 ∧
         Only [.regs, .bar2, .out, .encs, .poss] s t ∧
         RegsBut ((encPage site e + 0x50) :: (encPage site e + 0x58) :: evtRegs (encPage site e)) s t) ∧
  (∀ (s : State) (site e n c : Nat),
     s.isField site = true →
     e < 8 →
     (s.enc site e).errs = [] →
     1 ≤ s.regFld (encPage site e + 0x40) 16 8 →
     s.regFld (encPage site e + 0x50) 0 16 = n →
     n < 0xFFFD →
     (s.reg (encPage site e + 0x54)).toNat = c →
     c < 0xFFFF →
       ∃ t, exec (.qerr site e) s = .next t ∧
         (t.enc site e).count = (s.enc site e).count ∧
         (t.enc site e).a = !(s.enc site e).a ∧
         (t.enc site e).b = !(s.enc site e).b ∧
         t.reg (encPage site e + 0x54) = BitVec.ofNat 32 (c + 1) ∧
         t.reg (encPage site e + 0x50) = BitVec.ofNat 32 (n + 2) ∧
         t.latched (encPage site e) 0 = true ∧
         Only [.regs, .bar2, .out, .encs] s t ∧
         RegsBut ((encPage site e + 0x50) :: (encPage site e + 0x54) :: evtRegs (encPage site e)) s t) ∧
  (∀ (s : State) (site e : Nat),
     s.isField site = true →
     e < 8 →
     s.regFld (encPage site e + 0x40) 16 8 ≤ ((s.enc site e).errs.filter (fun k => decide ((s.enc site e).edges < k + 1024))).length →
       ∃ t, exec (.qerr site e) s = .next t ∧
         t.st (encPage site e) = 5 ∧
         t.reg (encPage site e + 0x50) = 0xFFFF#32 ∧
         t.latched (encPage site e) 1 = true ∧
         Only [.regs, .bar2, .out, .encs] s t) ∧
  (∀ (s : State) (site e : Nat) (pair : EncPair),
     s.isField site = true →
     e < 8 →
     pair ≠ .z ∨ s.regBit (encPage site e + 0x40) 9 = true →
       ∃ t, exec (.encLineBroken site e pair) s = .next t ∧
         t.st (encPage site e) = 5 ∧
         t.reg (encPage site e + 0x50) = 0xFFFF#32 ∧
         t.latched (encPage site e) 6 = true ∧
         Only [.regs, .bar2, .out] s t ∧
         RegsBut ((encPage site e + 0x50) :: faultRegs (encPage site e)) s t)

/-- An index edge is verified against UNC; UNC_CLR clears UNC outside FAULT; a still encoder reads no motion. (02_position_and_time.md
R28, 02_position_and_time.md R29, 02_position_and_time.md R30, 02_position_and_time.md R484) -/
def Obligations.IndexUncertaintyAndPeriod : Prop :=
  (∀ (s : State) (site e : Nat) (rising : Bool) (k dev : Int),
     s.isField site = true →
     e < 8 →
     s.regBit (encPage site e + 0x40) 9 = true →
     s.reg (encPage site e + 0x44) ≠ 0#32 →
     rising ≠ s.regBit (encPage site e + 0x40) 10 →
     (s.enc site e).idx = some k →
     dev = (s.enc site e).count - (if (s.enc site e).dir = some false then k - ((s.reg (encPage site e + 0x44)).toNat : Int) else k + ((s.reg (encPage site e + 0x44)).toNat : Int)) →
     s.regFld (encPage site e + 0x50) 0 16 ≠ 0xFFFF →
     dev.natAbs ≤ s.regFld (encPage site e + 0x50) 0 16 →
     s.st (encPage site e) ≠ 5 →
       ∃ t, exec (.index site e rising) s = .next t ∧
         t.reg (encPage site e + 0x5C) = wordOfInt (s.enc site e).count ∧
         t.reg (encPage site e + 0x60) = wordOfInt dev ∧
         t.reg (encPage site e + 0x50) = 0#32 ∧
         (t.enc site e).idx = some (s.enc site e).count ∧
         t.latched (encPage site e) 2 = true ∧
         Only [.regs, .bar2, .out, .encs] s t ∧
         RegsBut ((encPage site e + 0x5C) :: (encPage site e + 0x60) :: (encPage site e + 0x50) :: evtRegs (encPage site e)) s t) ∧
  (∀ (s : State) (site e : Nat) (rising : Bool) (k dev : Int),
     s.isField site = true →
     e < 8 →
     s.regBit (encPage site e + 0x40) 9 = true →
     s.reg (encPage site e + 0x44) ≠ 0#32 →
     rising ≠ s.regBit (encPage site e + 0x40) 10 →
     (s.enc site e).idx = some k →
     dev = (s.enc site e).count - (if (s.enc site e).dir = some false then k - ((s.reg (encPage site e + 0x44)).toNat : Int) else k + ((s.reg (encPage site e + 0x44)).toNat : Int)) →
     s.regFld (encPage site e + 0x50) 0 16 ≠ 0xFFFF →
     s.regFld (encPage site e + 0x50) 0 16 < dev.natAbs →
       ∃ t, exec (.index site e rising) s = .next t ∧
         t.reg (encPage site e + 0x60) = wordOfInt dev ∧
         t.reg (encPage site e + 0x50) = s.reg (encPage site e + 0x50) ∧
         t.latched (encPage site e) 3 = true ∧
         Only [.regs, .bar2, .out, .encs] s t ∧
         RegsBut ((encPage site e + 0x5C) :: (encPage site e + 0x60) :: evtRegs (encPage site e)) s t) ∧
  (∀ (s : State) (req site e : Nat),
     s.takes 0x30 req site (0x10 + e) 0x6C = true →
     s.st (encPage site e) ≠ 5 →
       ∃ t, exec (.uncClr req site e) s = .next t ∧
         t.reg (encPage site e + 0x50) = 0#32 ∧
         Only [.regs] s t ∧
         RegsBut [encPage site e + 0x50] s t) ∧
  (∀ (s : State) (req site e : Nat),
     s.takes 0x30 req site (0x10 + e) 0x6C = true →
     s.st (encPage site e) = 5 →
       ∃ t, exec (.uncClr req site e) s = .next t ∧
         t.reg (encPage site e + 0x34) = BitVec.ofNat 32 (0x6C + 5 * 2 ^ 12 + req % 32 * 2 ^ 16) ∧
         t.latched (encPage site e) 24 = true ∧
         Only [.regs, .bar2, .out] s t ∧
         RegsBut (rejRegs (encPage site e)) s t) ∧
  (∀ (s : State) (site e n : Nat),
     s.isField site = true →
     e < 8 →
     (s.enc site e).last = some n →
     n + 0xFFFFFF ≤ s.now →
       ∃ t, exec (.periodNoMotion site e) s = .next t ∧
         t.reg (encPage site e + 0x58) = 0xFFFFFF#32 ∧
         Only [.regs] s t ∧
         RegsBut [encPage site e + 0x58] s t)

/-- A line starts when POS rises to NEXT_POS and the sensor is ready; a pitch change is armed and applied as R42 says.
(02_position_and_time.md R31, 02_position_and_time.md R33, 02_position_and_time.md R39, 02_position_and_time.md R42,
02_position_and_time.md R44) -/
def Obligations.LineTriggersAndPitch : Prop :=
  (∀ (s : State) (site g l : Nat) (org : Int) (pitch : Nat),
     s.triggers site g = true →
     (s.pos site g).below = true →
     (s.pos site g).next / 256 ≤ s.encPos site (s.encOf site g) →
     (s.gate site g).late = false →
     s.sensorReady site g = true →
     s.lineActs site g (s.pos site g).line = [] →
     (s.pos site g).line = l →
     (s.gate site g).top ≤ l →
     (s.pos site g).runs = [(0, org, pitch)] →
     (s.reg (puPage site g + 0x44)).toNat = pitch →
       ∃ t, exec (.lineTrigger site g) s = .next t ∧
         (t.pos site g).line = l + 1 ∧
         (t.pos site g).next = org + ((l + 1 : Nat) : Int) * pitch ∧
         (t.pos site g).lastTrig = some s.now ∧
         Only [.regs, .bar2, .out, .encs, .poss, .segArms, .slots, .meters, .calibs, .mons, .ram, .hmem, .rings, .strms, .gates, .axes, .grps, .slotRings, .cueQs, .binFlags, .slates, .cancels, .tqs, .dqs, .cores, .cmbs, .engs, .poison, .free] s t) ∧
  (∀ (s : State) (site g : Nat),
     s.triggers site g = true →
     (s.pos site g).below = true →
     (s.pos site g).next / 256 ≤ s.encPos site (s.encOf site g) →
     (s.gate site g).late = false →
     s.sensorReady site g = false →
       ∃ t, exec (.lineTrigger site g) s = .next t ∧
         (t.gate site g).late = true ∧
         t.pos site g = s.pos site g ∧
         t.latched (puPage site g) 2 = true ∧
         Only [.regs, .bar2, .out, .gates] s t ∧
         RegsBut (evtRegs (puPage site g)) s t) ∧
  (∀ (s : State) (site g l : Nat) (org : Int) (pitch : Nat),
     s.triggers site g = true →
     (s.gate site g).late = true →
     s.sensorReady site g = true →
     s.lineActs site g (s.pos site g).line = [] →
     (s.pos site g).line = l →
     (s.gate site g).top ≤ l →
     (s.pos site g).runs = [(0, org, pitch)] →
     (s.reg (puPage site g + 0x44)).toNat = pitch →
       ∃ t, exec (.lateTrigger site g) s = .next t ∧
         (t.pos site g).line = l + 1 ∧
         (t.pos site g).next = org + ((l + 1 : Nat) : Int) * pitch ∧
         Only [.regs, .bar2, .out, .encs, .poss, .segArms, .slots, .meters, .calibs, .mons, .ram, .hmem, .rings, .strms, .gates, .axes, .grps, .slotRings, .cueQs, .binFlags, .slates, .cancels, .tqs, .dqs, .cores, .cmbs, .engs, .poison, .free] s t) ∧
  (∀ (s : State) (req site g : Nat) (val : Word) (w : When),
     s.takes 0x31 req site (0x18 + g) 0x5C = true →
     bitOf val 0 = true →
     s.reg (puPage site g + 0x50) ≠ 0#32 →
     decodeWhen s.asm (s.wide (puPage site g + 0x54)) = some w →
     w.kind = 1 →
     s.lineOf site g (s.armed site w (bitOf val 1)) = true →
     s.passed site w = false →
       ∃ t, exec (.pitchArm req site g val) s = .next t ∧
         (t.pos site g).pitchArm = some (s.armed site w (bitOf val 1)) ∧
         (t.pos site g).pitchNext = (s.reg (puPage site g + 0x50)).toNat ∧
         t.order = s.order + 1 ∧
         t.regBit (puPage site g + 0x5C) 8 = true ∧
         t.reg (puPage site g + 0x44) = s.reg (puPage site g + 0x44) ∧
         Only [.regs, .bar2, .out, .poss, .order] s t ∧
         RegsBut [puPage site g + 0x5C] s t) ∧
  (∀ (s : State) (req site g : Nat) (val : Word),
     s.takes 0x31 req site (0x18 + g) 0x5C = true →
     bitOf val 0 = true →
     s.reg (puPage site g + 0x50) ≠ 0#32 →
     s.wide (puPage site g + 0x54) = 0 →
       ∃ t, exec (.pitchArm req site g val) s = .next t ∧
         t.reg (puPage site g + 0x44) = s.reg (puPage site g + 0x50) ∧
         (t.pos site g).pitchArm = none ∧
         t.latched (puPage site g) 0 = true ∧
         Only [.regs, .bar2, .out, .poss, .order] s t ∧
         RegsBut ((puPage site g + 0x5C) :: (puPage site g + 0x44) :: evtRegs (puPage site g)) s t)

/-- Clapper events are armed by CEVn_CTL and run when due; CLAPPER and TICK actions run at their time, once. (02_position_and_time.md
R39, 02_position_and_time.md R40, 02_position_and_time.md R41, 02_position_and_time.md R42, 02_position_and_time.md R44) -/
def Obligations.ScheduledActionsRun : Prop :=
  (∀ (s : State) (req n : Nat) (val : Word) (w : When),
     n < 4 →
     s.takes 0x02 req 8 1 (0x88 + 16 * n) = true →
     bitOf val 0 = true →
     decodeWhen s.asm (s.wide (cevReg n)) = some w →
     w.kind = 3 →
     s.passed 8 w = false →
       ∃ t, exec (.cevArm req n val) s = .next t ∧
         t.cev n = some (s.armed 8 w (bitOf val 1)) ∧
         t.regBit (cevReg n + 8) 8 = true ∧
         t.order = s.order + 1 ∧
         Only [.regs, .cevs, .order] s t ∧
         RegsBut [cevReg n + 8] s t) ∧
  (∀ (s : State) (n : Nat) (a : Armed),
     n < 4 →
     s.cev n = some a →
     a.at_.kind = 3 →
     s.due 8 a = true →
     a.late = false →
     s.regBit (cevReg n + 8) 2 = false →
       ∃ t, exec (.clapperAction (.cev n)) s = .next t ∧
         t.cev n = none ∧
         t.latched clkPage (4 + n) = true ∧
         t.regBit (cevReg n + 8) 8 = false ∧
         Only [.regs, .bar2, .out, .cevs] s t ∧
         RegsBut ((cevReg n + 8) :: evtRegs clkPage) s t) ∧
  (∀ (s : State) (n : Nat) (a : Armed),
     n < 4 →
     s.cev n = some a →
     a.at_.kind = 3 →
     s.due 8 a = true →
     a.late = true →
     a.discard = true →
       ∃ t, exec (.clapperAction (.cev n)) s = .next t ∧
         t.cev n = none ∧
         t.regBit (cevReg n + 8) 9 = true ∧
         t.latched clkPage 8 = true ∧
         Only [.regs, .bar2, .out, .cevs] s t ∧
         RegsBut ((cevReg n + 8) :: evtRegs clkPage) s t) ∧
  (∀ (s : State) (site k : Nat),
     s.slotDue site k = true →
     (s.slot site k).arm.at_.kind = 3 →
     (s.slot site k).arm.late = false →
     s.boundaryReason site k = none →
       ∃ t, exec (.clapperAction (.slot site k)) s = .next t ∧
         t.slot site k = { s.slot site k with st := 4, entries := [], late := false } ∧
         Only [.regs, .bar2, .out, .encs, .poss, .cevs, .segArms, .slots, .meters, .calibs, .mons, .ram, .hmem, .rings, .strms, .gates, .axes, .grps, .slotRings, .cueQs, .binFlags, .slates, .cancels, .tqs, .dqs, .cores, .cmbs, .engs, .poison] s t) ∧
  (∀ (s : State) (site a : Nat) (x : Armed),
     s.isField site = true →
     a < 16 →
     s.segArm site a = some x →
     x.at_.kind = 2 →
     s.due site x = true →
     x.late = false →
     s.groupHeld site (s.grpOf site a) = false →
       ∃ t, exec (.tickAction (.seg site a)) s = .next t ∧
         t.segArm site a = none ∧
         t.axes = (s.startSegs site (s.grpOf site a)).axes ∧
         Only [.regs, .segArms, .axes, .grps] s t ∧
         PagesBut [axPage site a] s t)

/-- PTP messages of the best master are timed and measured; the best-master choice and its loss move LOCK. (02_position_and_time.md R35,
02_position_and_time.md R36, 02_position_and_time.md R38) -/
def Obligations.PtpMessagesDriveTheServo : Prop :=
  (∀ (s : State) (m : PtpMsg),
     s.fromMaster m = true →
     syncAccepted m = true →
     m.twoStep = true →
       ∃ t, exec (.ptpSync m) s = .next t ∧
         t.clk = { s.clk with sync := some (m, s.ns) } ∧
         Only [.clk] s t) ∧
  (∀ (s : State) (m y : PtpMsg) (rx : Nat),
     s.fromMaster m = true →
     s.clk.sync = some (y, rx) →
     y.seq = m.seq →
     y.gm = m.gm →
     s.clk.delay = none →
       ∃ t, exec (.ptpFollowUp m) s = .next t ∧
         t.clk = { s.clk with sync := none, t1t2 := some (((m.originNs : Int) + m.corrNs + y.corrNs).toNat, rx) } ∧
         Only [.clk] s t) ∧
  (∀ (s : State) (b : PtpAnnounce),
     s.clkSource = 1 →
     s.mainOk = true →
     s.clk.best = some b →
     s.clk.reqAt.all (fun a => decide (a + logInterval s.clk.minDelay ≤ s.now)) = true →
       ∃ t, exec (.delayReq) s = .next t ∧
         t.clk = { s.clk with t3 := some s.ns, reqSeq := s.clk.nextSeq, nextSeq := (s.clk.nextSeq + 1) % 2 ^ 16, reqAt := some s.now } ∧
         t.out = s.out ++ [.ptpDelayReq (s.regFld (clkPage + 0x40) 2 1) s.clk.nextSeq s.ns] ∧
         Only [.out, .clk] s t) ∧
  (∀ (s : State) (m : PtpMsg) (sent rx : Nat) (org d d0 : Nat),
     s.fromMaster m = true →
     m.toUs = true →
     m.seq = s.clk.reqSeq →
     s.clk.t3 = some sent →
     s.clk.t1t2 = some (org, rx) →
     s.clk.delay = some d0 →
     (d : Int) = (((rx : Int) - org) + ((m.originNs : Int) - m.corrNs - sent)) / 2 →
       ∃ t, exec (.ptpDelayResp m) s = .next t ∧
         t.clk = { s.clk with t3 := none, delay := some (d : Int), minDelay := m.logMinDelay } ∧
         Only [.clk] s t) ∧
  (∀ (s : State) (a : PtpAnnounce),
     s.ptpHears a.port a.transport a.domain = true →
     s.clk.best = none →
       ∃ t, exec (.ptpAnnounce a) s = .next t ∧
         t.clk.best = some a ∧
         t.clkLock = 1 ∧
         t.reg (clkPage + 0x74) = BitVec.ofNat 32 (gmWord a.gm 0) ∧
         t.reg (clkPage + 0x78) = BitVec.ofNat 32 (gmWord a.gm 4) ∧
         Only [.regs, .bar2, .out, .clk] s t ∧
         RegsBut ((clkPage + 0x44) :: (clkPage + 0x74) :: (clkPage + 0x78) :: (clkPage + 0x7C) :: evtRegs clkPage) s t) ∧
  (∀ (s : State),
     s.clkSource = 1 →
     s.clkLock = 2 →
       ∃ t, exec (.announceReceiptTimeout) s = .next t ∧
         t.clk.best = none ∧
         t.clkLock = 3 ∧
         t.latched clkPage 1 = true ∧
         t.clk.holdAt = some s.now ∧
         t.reg (clkPage + 0x64) = s.reg (clkPage + 0x64) ∧
         Only [.regs, .bar2, .out, .clk] s t ∧
         RegsBut ((clkPage + 0x44) :: evtRegs clkPage) s t)

/-- PPS edges, their loss, holdover's end, the PPS output and the clapper's writes do what R36 to R38 say. (02_position_and_time.md R36,
02_position_and_time.md R37, 02_position_and_time.md R38, 02_position_and_time.md R45) -/
def Obligations.PpsHoldoverAndClockWrites : Prop :=
  (∀ (s : State),
     s.clkSource ≠ 2 →
       ∃ t, exec (.ppsInEdge) s = .next t ∧
         t.clk.lastPps = some s.now ∧
         t.regBit (clkPage + 0x44) 3 = true ∧
         Only [.regs, .clk] s t ∧
         RegsBut [clkPage + 0x44] s t) ∧
  (∀ (s : State),
     s.clkSource = 2 →
     s.clkLock = 1 →
     s.regBit (clkPage + 0x44) 2 = false →
     (s.reg (clkPage + 0x70)).toNat < (secDistance s.ns).natAbs →
       ∃ t, exec (.ppsInEdge) s = .next t ∧
         t.clapper = clapperLess s.clapper (secDistance s.ns) ∧
         t.latched clkPage 3 = true ∧
         Only [.regs, .bar2, .out, .clapper, .clk, .cevs, .segArms, .slots] s t) ∧
  (∀ (s : State) (e : Nat),
     s.clk.lastPps = some e →
     e + 300000000 ≤ s.now →
     s.clkSource = 2 →
     s.clkLock = 2 →
       ∃ t, exec (.ppsMissing) s = .next t ∧
         t.clkLock = 3 ∧
         t.regBit (clkPage + 0x44) 3 = false ∧
         t.latched clkPage 1 = true ∧
         Only [.regs, .bar2, .out, .clk] s t ∧
         RegsBut ((clkPage + 0x44) :: evtRegs clkPage) s t) ∧
  (∀ (s : State) (e : Nat),
     s.clk.holdAt = some e →
     s.clkLock = 3 →
     e + s.holdoverMax ≤ s.now →
       ∃ t, exec (.holdoverMaxExpire) s = .next t ∧
         t.clkLock = 0 ∧
         t.latched clkPage 2 = true ∧
         t.reg (clkPage + 0x64) = s.reg (clkPage + 0x64) ∧
         Only [.regs, .bar2, .out, .clk] s t ∧
         RegsBut ((clkPage + 0x44) :: evtRegs clkPage) s t) ∧
  (∀ (s : State),
     s.clk.ppsSec ≠ s.ns / 10 ^ 9 →
       ∃ t, exec (.ppsOut) s = .next t ∧
         t.clk = { s.clk with ppsSec := s.ns / 10 ^ 9, ppsHigh := some s.now } ∧
         t.out = s.out ++ [.ppsRise (s.ns / 10 ^ 9)] ∧
         Only [.out, .clk] s t) ∧
  (∀ (s : State) (req : Nat) (val : Word),
     s.takes 0x02 req 8 1 0x60 = true →
     bitOf val 0 = true →
     s.clkSource ≠ 1 →
       ∃ t, exec (.clkCmdSet req val) s = .next t ∧
         t.clapper = (((s.reg (clkPage + 0x58)).toNat + s.regFld (clkPage + 0x5C) 0 16 * 2 ^ 32) * 10 ^ 9 + (s.reg (clkPage + 0x54)).toNat) * 2 ^ 24 ∧
         t.latched clkPage 3 = true ∧
         Only [.regs, .bar2, .out, .clapper, .clk, .cevs, .segArms, .slots] s t ∧
         RegsBut (evtRegs clkPage) s t) ∧
  (∀ (s : State) (req : Nat) (val : Word),
     s.takes 0x02 req 8 1 0x60 = true →
     bitOf val 0 = true →
     s.clkSource = 1 →
       ∃ t, exec (.clkCmdSet req val) s = .next t ∧
         t.reg (clkPage + 0x34) = BitVec.ofNat 32 (0x60 + 5 * 2 ^ 12 + req % 32 * 2 ^ 16) ∧
         t.latched clkPage 24 = true ∧
         Only [.regs, .bar2, .out] s t ∧
         RegsBut (rejRegs clkPage) s t) ∧
  (∀ (s : State) (req : Nat) (val : Word) (r : RegDef),
     s.takes 0x02 req 8 1 0x40 = true →
     findReg 0x02 0x40 = some r →
     staticReason r val = none →
     s.isMember = false →
     s.clkSource ≠ 2 →
     fld (maskedWrite r (s.reg (clkPage + 0x40)) val) 0 2 = 2 →
     s.clkLock ≠ 1 →
       ∃ t, exec (.clkCfgWrite req val) s = .next t ∧
         t.reg (clkPage + 0x40) = maskedWrite r (s.reg (clkPage + 0x40)) val ∧
         t.clkLock = 1 ∧
         t.clk.good = 0 ∧
         Only [.regs, .bar2, .out, .clk] s t ∧
         RegsBut ((clkPage + 0x40) :: (clkPage + 0x44) :: evtRegs clkPage) s t)

/-- A write to an absent page is rejected: ABSENT_WRITE is set and ABSENT_WR_ADDR records its BAR0 offset. (R19) -/
def Obligations.AbsentWriteRecorded : Prop :=
  (∀ (s : State) (req addr : Nat) (val : Word) (be : Nat),
     addr < 2 ^ 26 →
     s.sup.held = none →
     s.present (siteOf addr) (blkOf addr) = false →
       ∃ t, exec (.registerWrite req addr ⟨val, none⟩ be) s = .next t ∧
         t.reg (pg 8 0 + 0x50) = BitVec.ofNat 32 (pg (siteOf addr) (blkOf addr) + offOf addr) ∧
         t.latched (pg 8 0) 0 = true ∧
         Only [.regs, .bar2, .out] s t ∧
         RegsBut ((pg 8 0 + 0x50) :: evtRegs (pg 8 0)) s t) ∧
  (∀ (s : State) (req addr : Nat),
     addr < 2 ^ 26 →
     s.present (siteOf addr) (blkOf addr) = false →
       ∃ t, exec (.absentWrite req addr) s = .next t ∧
         t.reg (pg 8 0 + 0x50) = BitVec.ofNat 32 addr ∧
         t.latched (pg 8 0) 0 = true ∧
         Only [.regs, .bar2, .out] s t ∧
         RegsBut ((pg 8 0 + 0x50) :: evtRegs (pg 8 0)) s t)

/-- A present page answers at every offset: an undefined one reads 0 and rejects a write with UNMAPPED. (R50) -/
def Obligations.UndefinedOffsetsReadZeroAndRejectWrites : Prop :=
  (∀ (s : State) (req addr : Nat),
     s.present (siteOf addr) (blkOf addr) = true →
     s.mapped (siteOf addr) (blkOf addr) (offOf addr) = none →
     addr % 4 = 0 →
       ∃ t, exec (.latchedRead req ⟨addr, false⟩) s = .next t ∧
         t.rdata = 0#32 ∧
         t.rdataHi = 0#32 ∧
         Only [.rdata, .rdataHi] s t) ∧
  (∀ (s : State) (req addr : Nat) (val : Word),
     s.gateWrite req (siteOf addr) (blkOf addr) (offOf addr) = none →
     s.noneDue (siteOf addr) = true →
     addr % 4 = 0 →
     s.mapped (siteOf addr) (blkOf addr) (offOf addr) = none →
       ∃ t, exec (.registerWrite req addr ⟨val, none⟩ 15) s = .next t ∧
         t.reg (pg (siteOf addr) (blkOf addr) + 0x34) = BitVec.ofNat 32 (offOf addr + 11 * 2 ^ 12 + req % 32 * 2 ^ 16) ∧
         t.latched (pg (siteOf addr) (blkOf addr)) 24 = true ∧
         Only [.regs, .bar2, .out] s t ∧
         RegsBut (rejRegs (pg (siteOf addr) (blkOf addr))) s t)

/-- A register write that passes its checks stores the writable bits, and EVT_MASK shows in EVT_PEND. (03_register_pages.md R51,
03_register_pages.md R57, 03_register_pages.md R71, 00_scope.md R5) -/
def Obligations.RegisterWriteEffect : Prop :=
  (∀ (s : State) (req addr : Nat) (val : Word) (r : RegDef),
     s.gateWrite req (siteOf addr) (blkOf addr) (offOf addr) = none →
     s.noneDue (siteOf addr) = true →
     addr % 4 = 0 →
     s.mapped (siteOf addr) (blkOf addr) (offOf addr) = some r →
     offOf addr = 0x14 →
     staticReason r val = none →
     r.acc = .rw →
     s.valueBad (siteOf addr) (blkOf addr) 0x14 val = false →
     s.typeAt (siteOf addr) (blkOf addr) ≠ 0x35 →
     s.stateReason req (siteOf addr) (blkOf addr) 0x14 (s.reg addr) (maskedWrite r (s.reg addr) val) = none →
       ∃ t, exec (.registerWrite req addr ⟨val, none⟩ 15) s = .next t ∧
         t.reg addr = maskedWrite r (s.reg addr) val ∧
         t.reg (addr + 4) = s.reg (addr - 4) &&& maskedWrite r (s.reg addr) val ∧
         Only [.regs, .bar2, .out] s t ∧
         RegsBut [addr, addr + 4, pendReg (pg (siteOf addr) (blkOf addr))] s t) ∧
  (∀ (s : State) (req addr : Nat) (val : Word) (r : RegDef),
     s.gateWrite req (siteOf addr) (blkOf addr) (offOf addr) = none →
     s.noneDue (siteOf addr) = true →
     addr % 4 = 0 →
     s.mapped (siteOf addr) (blkOf addr) (offOf addr) = some r →
     offOf addr ≠ 0x14 →
     (s.ownRule req (siteOf addr) (blkOf addr) (offOf addr) val).isNone = true →
     staticReason r val = none →
     r.acc ≠ .rwl ∨ s.st (pg (siteOf addr) (blkOf addr)) ≠ 7 →
     r.acc ≠ .rws ∨ s.openSlot (siteOf addr) (blkOf addr) = none →
     s.valueBad (siteOf addr) (blkOf addr) (offOf addr) val = false →
     s.stateReason req (siteOf addr) (blkOf addr) (offOf addr) (s.reg addr) (maskedWrite r (s.reg addr) val) = none →
     s.typeAt (siteOf addr) (blkOf addr) ∉ [0x09, 0x0B, 0x30, 0x31, 0x33, 0x34, 0x35, 0x37, 0x39, 0x3B, 0x3C] →
       ∃ t, exec (.registerWrite req addr ⟨val, none⟩ 15) s = .next t ∧
         t.reg addr = maskedWrite r (s.reg addr) val ∧
         Only [.regs] s t ∧
         RegsBut [addr] s t) ∧
  (∀ (s : State) (req addr : Nat) (val : Word) (be : Nat),
     s.gateWrite req (siteOf addr) (blkOf addr) (offOf addr) = none →
     s.noneDue (siteOf addr) = true →
     be ≠ 15 →
       ∃ t, exec (.registerWrite req addr ⟨val, none⟩ be) s = .next t ∧
         t.reg (pg (siteOf addr) (blkOf addr) + 0x34) = BitVec.ofNat 32 (offOf addr + 10 * 2 ^ 12 + req % 32 * 2 ^ 16) ∧
         t.latched (pg (siteOf addr) (blkOf addr)) 24 = true ∧
         Only [.regs, .bar2, .out] s t ∧
         RegsBut (rejRegs (pg (siteOf addr) (blkOf addr))) s t) ∧
  (∀ (s a b : State) (req addr : Nat) (lo hi : Word),
     addr % 8 = 0 →
     exec (.registerWrite req addr ⟨lo, none⟩ 15) s = .next a →
     exec (.registerWrite req (addr + 4) ⟨hi, none⟩ 15) a = .next b →
       exec (.registerWrite req addr ⟨lo, some hi⟩ 255) s = .next b)

/-- CTRL.EN moves a page between states as the table of R54 and the pending rule of R55 say. (03_register_pages.md R54,
03_register_pages.md R55, 03_register_pages.md R71) -/
def Obligations.EnableStopAndPendingStart : Prop :=
  (∀ (s : State) (req site blk : Nat),
     s.gateWrite req site blk 8 = none →
     s.noneDue site = true →
     hasCtrl (s.typeAt site blk) = true →
     s.typeAt site blk ≠ 0x47 →
     ctrlOwn (s.typeAt site blk) req = true →
     s.openSlot site blk = none →
     s.guardCtrl site blk true = false →
     s.enReason site blk = none →
     s.st (pg site blk) = 0 →
     s.regBit (pg site blk + 8) 1 = false →
       ∃ t, exec (.ctrlEnSet req site blk) s = .next t ∧
         t.st (pg site blk) = 1 ∧
         Only [.regs, .latch, .bar2, .out, .encs, .poss, .segArms, .slots, .groups, .meters, .calibs, .ports, .mons, .ram, .hmem, .rings, .strms, .gates, .axes, .grps, .slotRings, .cueQs, .binFlags, .slates, .cancels, .tqs, .dqs, .cores, .cmbs, .engs, .poison] s t) ∧
  (∀ (s : State) (req site blk : Nat),
     s.gateWrite req site blk 8 = none →
     s.noneDue site = true →
     hasCtrl (s.typeAt site blk) = true →
     s.typeAt site blk ≠ 0x47 →
     ctrlOwn (s.typeAt site blk) req = true →
     s.openSlot site blk = none →
     s.guardCtrl site blk true = false →
     s.enReason site blk = none →
     s.st (pg site blk) = 3 →
       ∃ t, exec (.ctrlEnSet req site blk) s = .next t ∧
         t.regBit (pg site blk + 8) 0 = true ∧
         t.regBit (pg site blk + 8) 1 = true ∧
         Only [.regs] s t ∧
         RegsBut [pg site blk + 8] s t) ∧
  (∀ (s : State) (req site blk : Nat),
     s.gateWrite req site blk 8 = none →
     s.noneDue site = true →
     hasCtrl (s.typeAt site blk) = true →
     s.typeAt site blk ≠ 0x47 →
     ctrlOwn (s.typeAt site blk) req = true →
     s.openSlot site blk = none →
     s.guardCtrl site blk true = false →
     s.st (pg site blk) = 5 →
       ∃ t, exec (.ctrlEnSet req site blk) s = .next t ∧
         t.reg (pg site blk + 0x34) = BitVec.ofNat 32 (8 + 5 * 2 ^ 12 + req % 32 * 2 ^ 16) ∧
         t.latched (pg site blk) 24 = true ∧
         Only [.regs, .bar2, .out] s t ∧
         RegsBut (rejRegs (pg site blk)) s t) ∧
  (∀ (s : State) (req site blk : Nat),
     s.gateWrite req site blk 8 = none →
     s.noneDue site = true →
     hasCtrl (s.typeAt site blk) = true →
     ctrlOwn (s.typeAt site blk) req = true →
     s.openSlot site blk = none →
     s.guardCtrl site blk false = false →
     s.st (pg site blk) = 0 ∨ s.st (pg site blk) = 3 →
     s.regBit (pg site blk + 8) 1 = true →
       ∃ t, exec (.ctrlEnClear req site blk) s = .next t ∧
         t.regBit (pg site blk + 8) 0 = false ∧
         t.regBit (pg site blk + 8) 1 = false ∧
         t.latched (pg site blk) 30 = true ∧
         Only [.regs, .bar2, .out] s t ∧
         RegsBut ((pg site blk + 8) :: evtRegs (pg site blk)) s t) ∧
  (∀ (s : State) (req site blk : Nat),
     s.gateWrite req site blk 8 = none →
     s.noneDue site = true →
     hasCtrl (s.typeAt site blk) = true →
     ctrlOwn (s.typeAt site blk) req = true →
     s.openSlot site blk = none →
     s.guardCtrl site blk false = false →
     s.st (pg site blk) ∈ [1, 2, 4, 5, 6] →
     s.regBit (pg site blk + 8) 1 = false →
       ∃ t, exec (.ctrlEnClear req site blk) s = .next t ∧
         t.st (pg site blk) = 3 ∧
         Only [.regs, .latch, .bar2, .out, .encs, .poss, .segArms, .slots, .groups, .meters, .calibs, .ports, .mons, .ram, .hmem, .rings, .strms, .gates, .axes, .grps, .slotRings, .cueQs, .binFlags, .slates, .cancels, .tqs, .dqs, .cores, .cmbs, .engs, .poison] s t) ∧
  (∀ (s : State) (site blk : Nat),
     s.present site blk = true →
     s.st (pg site blk) = 0 →
     s.regBit (pg site blk + 8) 1 = true →
       ∃ t, exec (.pendingStart site blk) s = .next t ∧
         t.st (pg site blk) = 1 ∧
         t.regBit (pg site blk + 8) 1 = false ∧
         Only [.regs, .bar2, .out, .poss, .meters, .rings, .strms, .gates, .grps, .slotRings, .slates, .tqs, .engs] s t) ∧
  (∀ (s : State) (site blk : Nat),
     s.present site blk = true →
     hasCtrl (s.typeAt site blk) = true →
     s.st (pg site blk) = 3 →
     s.stopDone site blk = true →
       ∃ t, exec (.stopComplete site blk) s = .next t ∧
         t.st (pg site blk) = 0 ∧
         Only [.regs, .bar2, .out, .poss, .segArms, .slots, .groups, .meters, .calibs, .ram, .hmem, .rings, .strms, .gates, .axes, .grps, .slotRings, .dqs, .cores, .cmbs, .engs, .poison, .free] s t) ∧
  (∀ (s : State) (site blk : Nat),
     s.present site blk = true →
     s.st (pg site blk) = 1 →
     s.startDone site blk = true →
     s.typeAt site blk ∉ [0x09, 0x0A, 0x0F, 0x3B, 0x40, 0x49, 0x4A, 0x4B] →
       ∃ t, exec (.blockReady site blk) s = .next t ∧
         t.st (pg site blk) = 2 ∧
         t.latched (pg site blk) 25 = true ∧
         Only [.regs, .bar2, .out] s t ∧
         RegsBut (stRegs (pg site blk)) s t)

/-- SOFT_RESET, EVT_RAW's clear, FAULT_CODE's clear and a register parity error leave what R56 to R58 say. (03_register_pages.md R54,
03_register_pages.md R55, 03_register_pages.md R56, 03_register_pages.md R57, 03_register_pages.md R58, 11_memory_and_faults.md
R241) -/
def Obligations.SoftResetEventAndFaultClear : Prop :=
  (∀ (s : State) (req site blk : Nat),
     s.gateWrite req site blk 8 = none →
     s.noneDue site = true →
     hasCtrl (s.typeAt site blk) = true →
     ctrlOwn (s.typeAt site blk) req = true →
     s.st (pg site blk) = 0 ∨ s.st (pg site blk) = 5 →
     s.slotsOf site blk = [] →
     s.typeAt site blk ∉ [0x08, 0x09, 0x30, 0x31, 0x33, 0x34, 0x35, 0x37, 0x3B, 0x40, 0x44, 0x47, 0x49, 0x4A, 0x4B, 0x50] →
     hasTxn (s.typeAt site blk) = false →
       ∃ t, exec (.softReset req site blk) s = .next t ∧
         (∀ off, off < 0x1000 → t.reg (pg site blk + off) = regReset s.asm (pg site blk + off)) ∧
         Only [.regs, .latch, .bar2, .out, .encs, .poss, .segArms, .slots, .groups, .meters, .calibs, .ports, .mons, .ram, .hmem, .rings, .strms, .gates, .axes, .grps, .slotRings, .cueQs, .binFlags, .slates, .cancels, .tqs, .dqs, .cores, .cmbs, .engs, .poison] s t) ∧
  (∀ (s : State) (req site blk : Nat),
     s.gateWrite req site blk 8 = none →
     s.noneDue site = true →
     hasCtrl (s.typeAt site blk) = true →
     ctrlOwn (s.typeAt site blk) req = true →
     s.st (pg site blk) ∈ [1, 2, 3, 4, 6] →
       ∃ t, exec (.softReset req site blk) s = .next t ∧
         t.reg (pg site blk + 0x34) = BitVec.ofNat 32 (8 + 5 * 2 ^ 12 + req % 32 * 2 ^ 16) ∧
         t.latched (pg site blk) 24 = true ∧
         Only [.regs, .bar2, .out] s t ∧
         RegsBut (rejRegs (pg site blk)) s t) ∧
  (∀ (s : State) (req site blk : Nat) (mask recur : Word),
     s.gateWrite req site blk 0x10 = none →
     s.noneDue site = true →
       ∃ t, exec (.evtRawClear req site blk mask recur) s = .next t ∧
         t.reg (pg site blk + 0x10) = s.reg (pg site blk + 0x10) &&& ~~~(mask &&& 0x7FFFFFFF#32 &&& ~~~recur) ∧
         t.reg (pg site blk + 0x18) = t.reg (pg site blk + 0x10) &&& s.reg (pg site blk + 0x14) ∧
         Only [.regs] s t ∧
         RegsBut (evtRegs (pg site blk)) s t) ∧
  (∀ (s : State) (req site blk : Nat),
     s.gateWrite req site blk 0x1C = none →
     s.noneDue site = true →
     s.st (pg site blk) ≠ 5 →
       ∃ t, exec (.faultCodeClear req site blk 0#32) s = .next t ∧
         t.reg (pg site blk + 0x1C) = 0#32 ∧
         Only [.regs] s t ∧
         RegsBut [pg site blk + 0x1C] s t) ∧
  (∀ (s : State) (req site blk : Nat) (val : Word),
     s.gateWrite req site blk 0x1C = none →
     s.noneDue site = true →
     val ≠ 0#32 ∨ s.st (pg site blk) = 5 →
       ∃ t, exec (.faultCodeClear req site blk val) s = .next t ∧
         t.reg (pg site blk + 0x34) = BitVec.ofNat 32 (0x1C + 5 * 2 ^ 12 + req % 32 * 2 ^ 16) ∧
         t.latched (pg site blk) 24 = true ∧
         Only [.regs, .bar2, .out] s t ∧
         RegsBut (rejRegs (pg site blk)) s t) ∧
  (∀ (s : State) (site blk : Nat),
     s.isField site = true →
     s.present site blk = true →
     s.typeAt site blk ∉ [0x30, 0x37, 0x3B, 0x3C, 0x3E] →
     s.st (pg site blk) ∈ [1, 2, 3, 4, 6] →
       ∃ t, exec (.regParity site blk) s = .next t ∧
         t.st (pg site blk) = 5 ∧
         t.regBit (pg site blk + 8) 1 = false ∧
         t.latched (pg site blk) 26 = true ∧
         Only [.regs, .bar2, .out] s t ∧
         RegsBut (faultRegs (pg site blk)) s t)

/-- OPEN, shadowing, COMMIT, ABORT, staging and the boundary move a transaction slot as R59 to R67 say. (03_register_pages.md R59,
03_register_pages.md R62, 03_register_pages.md R63, 03_register_pages.md R64, 03_register_pages.md R66, 03_register_pages.md R67) -/
def Obligations.TransactionSlotCommands : Prop :=
  (∀ (s : State) (req site blk k : Nat),
     k < 4 →
     s.gateWrite req site blk 0x20 = none →
     s.noneDue site = true →
     hasTxn (s.typeAt site blk) = true →
     s.openSlot site blk = none →
     (s.slot site k).st ∈ [0, 4, 5] →
       ∃ t, exec (.txnOpen req site blk (BitVec.ofNat 32 k)) s = .next t ∧
         t.slot site k = { st := 1, owner := req, members := [blk] } ∧
         Only [.regs, .bar2, .out, .slots] s t) ∧
  (∀ (s : State) (req site blk k : Nat),
     k < 4 →
     s.gateWrite req site blk 0x20 = none →
     s.noneDue site = true →
     hasTxn (s.typeAt site blk) = true →
     (s.slot site k).busy = true →
     (s.slot site k).owner ≠ req →
       ∃ t, exec (.txnOpen req site blk (BitVec.ofNat 32 k)) s = .next t ∧
         t.reg (pg site blk + 0x34) = BitVec.ofNat 32 (0x20 + 7 * 2 ^ 12 + req % 32 * 2 ^ 16) ∧
         t.latched (pg site blk) 24 = true ∧
         Only [.regs, .bar2, .out] s t ∧
         RegsBut (rejRegs (pg site blk)) s t) ∧
  (∀ (s : State) (req site blk k : Nat) (val : Word) (w : When),
     s.gateWrite req site blk 0x20 = none →
     s.noneDue site = true →
     hasTxn (s.typeAt site blk) = true →
     fld val 0 2 = k →
     val &&& 0xFF00F0D4#32 = 0#32 →
     (s.slot site k).st = 1 →
     (s.slot site k).owner = req →
     (s.slot site k).members.contains blk = true →
     (s.slot site k).overflow = false →
     decodeWhen s.asm (s.wide (pg site blk + 0x28)) = some w →
     s.whenOk site (fld val 8 4) false w = true →
       ∃ t, exec (.txnCommit req site blk val) s = .next t ∧
         (t.slot site k).st = 2 ∧
         (t.slot site k).arm.at_ = w ∧
         (t.slot site k).arm.discard = bitOf val 3 ∧
         (t.slot site k).arm.order = s.order ∧
         t.order = s.order + 1 ∧
         (t.slot site k).entries = (s.slot site k).entries ∧
         Only [.regs, .bar2, .out, .slots, .order] s t) ∧
  (∀ (s : State) (req site blk k : Nat) (val : Word),
     s.gateWrite req site blk 0x20 = none →
     s.noneDue site = true →
     hasTxn (s.typeAt site blk) = true →
     fld val 0 2 = k →
     val &&& 0xFF00F034#32 = 0#32 →
     (s.slot site k).busy = true →
     (s.slot site k).owner = req →
     (s.slot site k).cross = false →
       ∃ t, exec (.txnAbort req site blk val) s = .next t ∧
         t.slot site k = { s.slot site k with st := 5, entries := [], reason := 1 } ∧
         Only [.regs, .bar2, .out, .slots] s t) ∧
  (∀ (s : State) (req site blk : Nat) (val : Word),
     s.gateWrite req site blk 0x20 = none →
     s.noneDue site = true →
     hasTxn (s.typeAt site blk) = true →
     val &&& 0xFF00F034#32 = 0#32 →
     (s.slot site (fld val 0 2)).busy = false →
       ∃ t, exec (.txnAbort req site blk val) s = .next t ∧
         t.reg (pg site blk + 0x34) = BitVec.ofNat 32 (0x20 + 8 * 2 ^ 12 + req % 32 * 2 ^ 16) ∧
         t.latched (pg site blk) 24 = true ∧
         Only [.regs, .bar2, .out] s t ∧
         RegsBut (rejRegs (pg site blk)) s t) ∧
  (∀ (s : State) (site k : Nat),
     k < 4 →
     (s.slot site k).st = 2 →
       ∃ t, exec (.txnStaged site k) s = .next t ∧
         (t.slot site k).st = 3 ∧
         (t.slot site k).entries = (s.slot site k).entries ∧
         Only [.regs, .slots] s t) ∧
  (∀ (s : State) (site k : Nat),
     s.slotDue site k = true →
     (s.slot site k).arm.late = false →
     s.boundaryReason site k = none →
       ∃ t, exec (.txnBoundary site k) s = .next t ∧
         t.slot site k = { s.slot site k with st := 4, entries := [], late := false } ∧
         Only [.regs, .bar2, .out, .encs, .poss, .slots, .meters, .calibs, .mons, .ram, .hmem, .rings, .strms, .gates, .axes, .grps, .slotRings, .cueQs, .binFlags, .slates, .cancels, .tqs, .dqs, .cores, .cmbs, .engs, .poison] s t) ∧
  (∀ (s : State) (site k blk off : Nat) (v : Word) (r : RegDef),
     s.slotDue site k = true →
     (s.slot site k).arm.late = false →
     s.boundaryReason site k = none →
     (s.slot site k).members = [blk] →
     (s.slot site k).entries = [(pg site blk + off, v)] →
     s.typeAt site blk = 0x30 →
     blk < 1024 →
     off < 0x1000 →
     0x40 ≤ off →
     findReg 0x30 off = some r →
     r.acc = .rws →
       ∃ t, exec (.txnBoundary site k) s = .next t ∧
         t.reg (pg site blk + off) = maskedWrite r (s.reg (pg site blk + off)) v ∧
         t.latched (pg site blk) 27 = true ∧
         Only [.regs, .bar2, .out, .encs, .poss, .slots, .meters, .calibs, .mons, .ram, .hmem, .rings, .strms, .gates, .axes, .grps, .slotRings, .cueQs, .binFlags, .slates, .cancels, .tqs, .dqs, .cores, .cmbs, .engs, .poison] s t) ∧
  (∀ (s : State) (site k r : Nat),
     s.slotDue site k = true →
     (s.slot site k).arm.late = false →
     s.boundaryReason site k = some r →
       ∃ t, exec (.txnBoundary site k) s = .next t ∧
         t.slot site k = { s.slot site k with st := 5, entries := [], reason := r } ∧
         Only [.regs, .bar2, .out, .slots] s t)

/-- Staged reports, their deadline, the group abort and the cross-site boundary act on a group as R69 and R70 say. (03_register_pages.md
R69, 03_register_pages.md R70) -/
def Obligations.CrossSiteGroupCommands : Prop :=
  (∀ (s : State) (site g : Nat) (k : Nat × Nat),
     g < 16 →
     (s.group g).go = false →
     (s.group g).reports.contains (s.pkg, site, 0) = false →
     (s.groupSlots g).find? (fun k => k.1 == site && (s.slot k.1 k.2).st == 3) = some k →
     s.boundaryReason k.1 k.2 = none →
     (s.setGroup g { s.group g with reports := (s.group g).reports ++ [(s.pkg, site, 0)] }).allReported g = false →
       ∃ t, exec (.stagedReport s.pkg site g) s = .next t ∧
         t.group g = { s.group g with reports := (s.group g).reports ++ [(s.pkg, site, 0)] } ∧
         Only [.groups] s t) ∧
  (∀ (s : State) (site g : Nat) (k : Nat × Nat) (a : Armed),
     g < 16 →
     (s.group g).go = false →
     (s.group g).waiting = false →
     (s.group g).reports.contains (s.pkg, site, 0) = false →
     (s.groupSlots g).find? (fun k => k.1 == site && (s.slot k.1 k.2).st == 3) = some k →
     s.boundaryReason k.1 k.2 = none →
     (s.setGroup g { s.group g with reports := (s.group g).reports ++ [(s.pkg, site, 0)] }).allReported g = true →
     s.groupWhen g = some a →
     s.ns + s.groupMargin g * 1000 ≤ a.at_.value * 1000 →
       ∃ t, exec (.stagedReport s.pkg site g) s = .next t ∧
         (t.group g).go = true ∧
         (t.group g).tGo = a.at_.value ∧
         Only [.groups] s t) ∧
  (∀ (s : State) (g : Nat) (a : Armed),
     s.groupWhen g = some a →
     (s.group g).go = false →
     a.at_.value * 1000 ≤ s.ns + s.groupMargin g * 1000 →
     a.discard = false →
       ∃ t, exec (.groupReportDeadline g) s = .next t ∧
         t.group g = { s.group g with waiting := true } ∧
         Only [.groups] s t) ∧
  (∀ (s : State) (g : Nat) (a : Armed),
     s.groupWhen g = some a →
     (s.group g).go = false →
     a.at_.value * 1000 ≤ s.ns + s.groupMargin g * 1000 →
     a.discard = true →
       ∃ t, exec (.groupReportDeadline g) s = .next t ∧
         t.group g = {} ∧
         (∀ k ∈ s.groupSlots g, (t.slot k.1 k.2).st = 5 ∧ (t.slot k.1 k.2).reason = 2 ∧ (t.slot k.1 k.2).late = true) ∧
         Only [.regs, .bar2, .out, .slots, .groups] s t) ∧
  (∀ (s : State) (g : Nat) (a : Armed),
     s.groupWhen g = some a →
     (s.group g).go = false →
     a.at_.value * 1000 + 1000000 ≤ s.ns →
       ∃ t, exec (.groupAbort g) s = .next t ∧
         t.group g = {} ∧
         (∀ k ∈ s.groupSlots g, (t.slot k.1 k.2).st = 5 ∧ (t.slot k.1 k.2).reason = 9 ∧ (t.slot k.1 k.2).late = true) ∧
         Only [.regs, .bar2, .out, .slots, .groups] s t) ∧
  (∀ (s : State) (site g : Nat) (k : Nat × Nat),
     (s.groupSlots g).find? (fun k => k.1 == site) = some k →
     (s.group g).go = true →
     (s.group g).tGo * 1000 ≤ s.ns →
       ∃ t, exec (.crossApply site g) s = .next t ∧
         (t.slot k.1 k.2).st = 4 ∧
         (t.slot k.1 k.2).entries = [] ∧
         (t.slot k.1 k.2).late = ((s.group g).tGo != (s.slot k.1 k.2).arm.at_.value) ∧
         Only [.regs, .bar2, .out, .encs, .poss, .slots, .groups, .meters, .calibs, .mons, .ram, .hmem, .rings, .strms, .gates, .axes, .grps, .slotRings, .cueQs, .binFlags, .slates, .cancels, .tqs, .dqs, .cores, .cmbs, .engs, .poison] s t) ∧
  (∀ (s : State) (site g : Nat) (k : Nat × Nat),
     (s.groupSlots g).find? (fun k => k.1 == site) = some k →
     (s.group g).go = false →
     (s.group g).waiting = false →
     (s.slot k.1 k.2).arm.at_.value * 1000 ≤ s.ns →
       ∃ t, exec (.crossApply site g) s = .next t ∧
         t.group g = {} ∧
         (∀ j ∈ s.groupSlots g, (t.slot j.1 j.2).st = 5 ∧ (t.slot j.1 j.2).reason = 9) ∧
         Only [.regs, .bar2, .out, .slots, .groups] s t)

/-- A read returns the register's value now; a latched register returns what its requester latched. (03_register_pages.md R53,
01_assemblies.md R18, 06_host_takes.md R110) -/
def Obligations.ReadsAndLatches : Prop :=
  (∀ (s : State) (req addr : Nat),
     addr % 4 = 0 →
     s.readable req (siteOf addr) (blkOf addr) (offOf addr) = true →
     (s.latch.find? (fun e => e.1 == latchKey req (pg (siteOf addr) (blkOf addr) + offOf addr))).isNone = true →
     (s.typeAt (siteOf addr) (blkOf addr), offOf addr) ∉ [(0x33, 0xC0), (0x3D, 0x68), (0x0F, 0x4C), (0x0E, 0x48)] →
       ∃ t, exec (.latchedRead req ⟨addr, false⟩) s = .next t ∧
         t.rdata = s.live (siteOf addr) (blkOf addr) (offOf addr) ∧
         (∀ e ∈ s.latch, (∀ o ∈ latchedBy (s.typeAt (siteOf addr) (blkOf addr)) (offOf addr), e.1 ≠ latchKey req (pg (siteOf addr) (blkOf addr) + o)) → e ∈ t.latch) ∧
         t.rdataHi = 0#32 ∧
         Only [.latch, .rdata, .rdataHi] s t) ∧
  (∀ (s : State) (req addr : Nat) (v : Word),
     addr % 4 = 0 →
     s.readable req (siteOf addr) (blkOf addr) (offOf addr) = true →
     s.latch.find? (fun e => e.1 == latchKey req (pg (siteOf addr) (blkOf addr) + offOf addr)) = some (latchKey req (pg (siteOf addr) (blkOf addr) + offOf addr), v) →
     (s.typeAt (siteOf addr) (blkOf addr), offOf addr) ∉ [(0x33, 0xC0), (0x3D, 0x68), (0x0F, 0x4C), (0x0E, 0x48)] →
       ∃ t, exec (.latchedRead req ⟨addr, false⟩) s = .next t ∧
         t.rdata = v ∧
         t.rdataHi = 0#32 ∧
         Only [.rdata, .rdataHi] s t) ∧
  (∀ (s : State) (req addr : Nat),
     addr % 4 = 0 →
     addr < 2 ^ 26 →
     s.present (siteOf addr) (blkOf addr) = false →
     s.typeAt (siteOf addr) (blkOf addr) ∉ [0x33, 0x3D, 0x0F, 0x0E] →
       ∃ t, exec (.latchedRead req ⟨addr, false⟩) s = .next t ∧
         t.rdata = 0#32 ∧
         t.rdataHi = 0#32 ∧
         Only [.rdata, .rdataHi] s t) ∧
  (∀ (s a b : State) (req addr : Nat),
     addr % 8 = 0 →
     exec (.latchedRead req ⟨addr, false⟩) s = .next a →
     exec (.latchedRead req ⟨addr + 4, false⟩) a = .next b →
       ∃ t, exec (.latchedRead req ⟨addr, true⟩) s = .next t ∧
         t.rdata = a.rdata ∧
         t.rdataHi = b.rdata ∧
         Only [.rdata, .rdataHi] b t)

/-- The VAON and VFIO switches change over and back as R77 to R79 say. (04_supplies_and_reset.md R77, 04_supplies_and_reset.md R78,
04_supplies_and_reset.md R79) -/
def Obligations.SupplySwitchOver : Prop :=
  (∀ (s : State) (aMv bMv : Nat),
     s.regBit (supPage + 0x40) 0 = false →
     aMv < 3000 →
     3000 ≤ bMv →
       ∃ t, exec (.toBackup aMv bMv) s = .next t ∧
         t.regBit (supPage + 0x40) 0 = true ∧
         t.latched supPage 0 = true ∧
         t.reg (supPage + 0x50) = BitVec.ofNat 32 (s.us % 2 ^ 32) ∧
         Only [.regs, .bar2, .out, .sup, .rings] s t ∧
         RegsBut ((supPage + 0x40) :: (supPage + 0x4C) :: (supPage + 0x50) :: evtRegs supPage) s t) ∧
  (∀ (s : State) (aMv bMv : Nat),
     s.regBit (supPage + 0x40) 0 = false →
     aMv < 3000 →
     bMv < 3000 →
       ∃ t, exec (.toBackup aMv bMv) s = .next t ∧
         t.regBit (supPage + 0x40) 0 = false ∧
         t.latched supPage 4 = true ∧
         Only [.regs, .bar2, .out, .sup, .rings] s t ∧
         RegsBut ((supPage + 0x40) :: evtRegs supPage) s t) ∧
  (∀ (s : State) (n : Nat),
     s.sup.retAt = some n →
     s.regBit (supPage + 0x40) 0 = true →
     n + 20000000 ≤ s.now →
     3100 ≤ s.sup.vaonA →
       ∃ t, exec (.toMain) s = .next t ∧
         t.regBit (supPage + 0x40) 0 = false ∧
         t.sup.retAt = none ∧
         t.latched supPage 1 = true ∧
         Only [.regs, .bar2, .out, .sup, .rings] s t ∧
         RegsBut ((supPage + 0x40) :: evtRegs supPage) s t) ∧
  (∀ (s : State) (aMv bMv : Nat),
     s.regBit (supPage + 0x40) 0 = true →
     3100 ≤ aMv →
     3000 ≤ bMv →
       ∃ t, exec (.vaonAReturn aMv bMv) s = .next t ∧
         t.sup.retAt = some (s.sup.retAt.getD s.now) ∧
         Only [.regs, .sup] s t ∧
         RegsBut [supPage + 0x40] s t) ∧
  (∀ (s : State) (aMv bMv : Nat),
     s.regBit (supPage + 0x40) 0 = true →
     aMv < 3100 →
     3000 ≤ bMv →
       ∃ t, exec (.vaonAReturn aMv bMv) s = .next t ∧
         t.sup.retAt = none ∧
         Only [.regs, .sup] s t ∧
         RegsBut [supPage + 0x40] s t) ∧
  (∀ (s : State) (aMv bMv : Nat),
     s.regBit (supPage + 0x40) 0 = true →
     3000 ≤ aMv →
     bMv < 3000 →
       ∃ t, exec (.vaonBFall aMv bMv) s = .next t ∧
         t.regBit (supPage + 0x40) 0 = false ∧
         t.sup.retAt = none ∧
         t.latched supPage 1 = true ∧
         Only [.regs, .bar2, .out, .sup, .rings] s t ∧
         RegsBut ((supPage + 0x40) :: evtRegs supPage) s t) ∧
  (∀ (s : State) (aMv bMv : Nat),
     s.regBit (supPage + 0x40) 0 = false →
     s.regBit (supPage + 0x40) 2 = true →
     3000 ≤ aMv →
     bMv < 3000 →
       ∃ t, exec (.vaonBFall aMv bMv) s = .next t ∧
         t.regBit (supPage + 0x40) 0 = false ∧
         t.regBit (supPage + 0x40) 2 = false ∧
         t.latched supPage 5 = true ∧
         Only [.regs, .bar2, .out, .sup, .rings] s t ∧
         RegsBut ((supPage + 0x40) :: evtRegs supPage) s t) ∧
  (∀ (s : State) (site aMv bMv : Nat),
     s.isField site = true →
     s.regBit (fioPage site + 0x40) 0 = false →
     s.regBit (fioPage site + 0x40) 4 = true →
     aMv < 19000 →
     19000 ≤ bMv →
       ∃ t, exec (.fioToBackup site aMv bMv) s = .next t ∧
         t.regBit (fioPage site + 0x40) 0 = true ∧
         t.latched (fioPage site) 0 = true ∧
         (t.fio site).a = aMv ∧
         (t.fio site).b = bMv ∧
         Only [.regs, .bar2, .out, .fios] s t ∧
         RegsBut ((fioPage site + 0x40) :: evtRegs (fioPage site)) s t) ∧
  (∀ (s : State) (site n : Nat),
     s.isField site = true →
     (s.fio site).retAt = some n →
     s.regBit (fioPage site + 0x40) 0 = true →
     s.regBit (fioPage site + 0x40) 4 = true →
     20000 ≤ (s.fio site).a →
     n + 20000000 ≤ s.now →
       ∃ t, exec (.fioToMain site) s = .next t ∧
         t.regBit (fioPage site + 0x40) 0 = false ∧
         (t.fio site).retAt = none ∧
         t.latched (fioPage site) 1 = true ∧
         Only [.regs, .bar2, .out, .fios] s t ∧
         RegsBut ((fioPage site + 0x40) :: evtRegs (fioPage site)) s t) ∧
  (∀ (s : State) (site aMv bMv : Nat),
     s.isField site = true →
     s.regBit (fioPage site + 0x40) 0 = true →
     s.regBit (fioPage site + 0x40) 4 = true →
     20000 ≤ aMv →
     19000 ≤ bMv →
       ∃ t, exec (.vfioAReturn site aMv bMv) s = .next t ∧
         (t.fio site).retAt = some ((s.fio site).retAt.getD s.now) ∧
         Only [.regs, .bar2, .out, .fios] s t ∧
         RegsBut [fioPage site + 0x40] s t)

/-- Losing VFIO faults the axes and takes every pair off; losing main power leaves no take, tenant or key and every slate LOST, and spares
the clapper, encoders and monitors. (04_supplies_and_reset.md R79, 04_supplies_and_reset.md R82, 04_supplies_and_reset.md R83,
09_slates.md R199, 15_dolly.md R331, 22_continuity.md R460) -/
def Obligations.FieldSupplyAndMainPower : Prop :=
  (∀ (s : State) (site aMv bMv : Nat),
     s.isField site = true →
     s.regBit (fioPage site + 0x40) 4 = true →
     (if s.regBit (fioPage site + 0x40) 0 then bMv else aMv) < 17000 →
       ∃ t, exec (.fioLost site aMv bMv) s = .next t ∧
         (t.fio site).a = aMv ∧
         (t.fio site).b = bMv ∧
         t.regBit (fioPage site + 0x40) 4 = false ∧
         t.latched (fioPage site) 2 = true ∧
         t.reg (dollyPage site + 0x4C) = 0xFFFFFFFF#32 ∧
         (∀ a, a < 16 → t.axLive site a = false) ∧
         (∀ n, n < 4 → ((t.mon site).pair n).st = 0) ∧
         (t.mon site).supply = true ∧
         Only [.regs, .bar2, .out, .fios, .meters, .calibs, .mons, .ram, .hmem, .rings, .strms, .axes, .grps, .slotRings, .cueQs, .binFlags, .slates, .cancels, .dqs, .cores, .cmbs, .engs, .poison] s t) ∧
  (∀ (s : State) (site aMv bMv : Nat),
     s.isField site = true →
     s.regBit (fioPage site + 0x40) 4 = false →
     17000 ≤ (if s.regBit (fioPage site + 0x40) 0 then bMv else aMv) →
       ∃ t, exec (.fioRestored site aMv bMv) s = .next t ∧
         (t.fio site).a = aMv ∧
         (t.fio site).b = bMv ∧
         t.regBit (fioPage site + 0x40) 4 = true ∧
         t.latched (fioPage site) 3 = true ∧
         (∀ a, (t.axis site a).vel = (s.axis site a).vel) ∧
         Only [.regs, .bar2, .out, .fios, .meters, .calibs, .mons, .ram, .hmem, .rings, .strms, .axes, .grps, .slotRings, .cueQs, .binFlags, .slates, .cancels, .dqs, .cores, .cmbs, .engs, .poison] s t) ∧
  (∀ (s : State),
     s.regBit (supPage + 0x40) 4 = true →
       ∃ t, exec (.mainLost) s = .next t ∧
         t.mainOk = false ∧
         t.cores = [] ∧
         t.tqs = [] ∧
         t.dqs = [] ∧
         t.mmus = [] ∧
         t.tenants = [] ∧
         t.grans = [] ∧
         t.loads = [] ∧
         (∀ x ∈ t.slates, x.2.state = 3) ∧
         (∀ a, siteOf a < 4 → t.reg a = regReset s.asm a) ∧
         t.latched supPage 2 = true ∧
         Only [.regs, .latch, .back, .bar2, .out, .sup, .fios, .slots, .groups, .gaffer, .tenants, .sec, .ens, .ports, .boot, .ram, .hmem, .mute, .loads, .rings, .strms, .axes, .grps, .slotRings, .cueQs, .binFlags, .slates, .cancels, .tqs, .sched, .dqs, .cores, .cmbs, .engs, .mmus, .grans, .granBusy, .poison, .buckets, .arbs, .capQs, .avs, .bndTaken, .ces, .scrubs] s t) ∧
  (∀ (s : State),
     s.regBit (supPage + 0x40) 4 = false →
       ∃ t, exec (.mainPgRise) s = .next t ∧
         t.regBit (supPage + 0x40) 4 = true ∧
         t.reg (supPage + 0x44) = 4#32 ∧
         t.sup.pgAt = some s.now ∧
         Only [.regs, .bar2, .out, .sup, .fios, .ram, .hmem, .rings, .strms, .axes, .grps, .slotRings, .cueQs, .binFlags, .slates, .cancels, .dqs, .cores, .cmbs, .engs, .poison] s t) ∧
  (∀ (s : State) (n : Nat),
     s.sup.pgAt = some n →
     s.regBit (supPage + 0x40) 4 = true →
     s.mainOk = false →
     n + 200000 ≤ s.now →
     s.boot.recovery = false →
     s.sup.held = none →
       ∃ t, exec (.mainRelease) s = .next t ∧
         t.mainOk = true ∧
         t.latched supPage 3 = true ∧
         t.sec.releasedAt = s.now ∧
         (s.bootSt = 2 → t.bootSt = 3) ∧
         (∀ a, siteOf a < 4 → t.reg a = s.reg a) ∧
         Only [.regs, .bar2, .out, .sec, .rings] s t)

/-- The always-on reset, POR_N and RST_CMD return all but the flash, the fuses and host memory to reset; SYS_RST_N resets the main domain;
TRST_N the debug logic. (04_supplies_and_reset.md R83, 04_supplies_and_reset.md R84, 04_supplies_and_reset.md RST_CMD, 23_electrical.md
R474) -/
def Obligations.ResetSourcesReach : Prop :=
  (∀ (s : State),
       ∃ t, exec .aonPowerOnReset s = .next t ∧
         t.reg (supPage + 0x44) = 1#32 ∧
         t.reg (bootPage + 0x4C) = s.reg (bootPage + 0x4C) ∧
         (∀ a, a ∉ [supPage + 0x40, supPage + 0x44, bootPage + 0x4C, fioPage 9 + 0x40, fioPage 11 + 0x40] → t.reg a = regReset s.asm a) ∧
         (∃ aMv bMv vioMv, t.sup = { vaonA := aMv, vaonB := bMv, vioAon := vioMv, held := some 0, pgAt := if s.regBit (supPage + 0x40) 4 then some 0 else none }) ∧
         t.sec = { keyCount := s.sec.keyCount, drbgCount := s.sec.drbgCount } ∧
         (s.boot.flOp = 0 → t.flash = s.flash ∧ t.weak = s.weak) ∧
         Only [.asm, .regs, .out, .sup, .fios, .sec, .hmem, .badCpl, .flash, .weak, .free, .pending] State.reset t ∧
         t.asm = s.asm ∧ t.out = s.out ∧ t.hmem = s.hmem ∧ t.badCpl = s.badCpl ∧ t.pending = s.pending) ∧
  (∀ (s : State) (lowNs : Nat),
     1000 ≤ lowNs →
       ∃ t, exec (.porN lowNs) s = .next t ∧
         t.reg (supPage + 0x44) = 2#32 ∧
         t.reg (bootPage + 0x4C) = s.reg (bootPage + 0x4C) ∧
         (∀ a, a ∉ [supPage + 0x40, supPage + 0x44, bootPage + 0x4C, fioPage 9 + 0x40, fioPage 11 + 0x40] → t.reg a = regReset s.asm a) ∧
         t.sup = { vaonA := s.sup.vaonA, vaonB := s.sup.vaonB, vioAon := s.sup.vioAon, pgAt := if s.regBit (supPage + 0x40) 4 then some 0 else none } ∧
         t.sec = { keyCount := s.sec.keyCount, drbgCount := s.sec.drbgCount } ∧
         (s.boot.flOp = 0 → t.flash = s.flash ∧ t.weak = s.weak) ∧
         Only [.asm, .regs, .out, .sup, .fios, .sec, .hmem, .badCpl, .flash, .weak, .free, .pending] State.reset t ∧
         t.asm = s.asm ∧ t.out = s.out ∧ t.hmem = s.hmem ∧ t.badCpl = s.badCpl ∧ t.pending = s.pending) ∧
  (∀ (s : State) (lowNs : Nat),
     lowNs < 100 →
       exec (.porN lowNs) s = .next s ∧ exec (.sysRstN lowNs) s = .next s ∧ exec (.trstN lowNs) s = .next s) ∧
  (∀ (s : State) (lowNs : Nat),
     100 ≤ lowNs →
     lowNs < 1000 →
       (exec (.porN lowNs) s = exec (.porN 1000) s ∧ exec (.sysRstN lowNs) s = exec (.sysRstN 1000) s ∧ exec (.trstN lowNs) s = exec (.trstN 1000) s) ∨
         (exec (.porN lowNs) s = .next s.draw ∧ exec (.sysRstN lowNs) s = .next s.draw ∧ exec (.trstN lowNs) s = .next s.draw)) ∧
  (∀ (s : State) (lowNs : Nat),
     1000 ≤ lowNs →
     s.mainOk = true →
     s.boot.recovery = false →
       ∃ t, exec (.sysRstN lowNs) s = .next t ∧
         t.reg (supPage + 0x44) = 5#32 ∧
         t.mainOk = true ∧
         (s.bootSt ∈ [2, 3, 4] → t.bootSt = 3) ∧
         t.cores = [] ∧
         t.tqs = [] ∧
         t.dqs = [] ∧
         t.mmus = [] ∧
         t.tenants = [] ∧
         t.grans = [] ∧
         t.loads = [] ∧
         (∀ x ∈ t.slates, x.2.state = 3) ∧
         (∀ a, siteOf a < 4 → t.reg a = regReset s.asm a) ∧
         t.latched supPage 3 = true ∧
         Only [.regs, .latch, .back, .bar2, .out, .fios, .slots, .groups, .gaffer, .tenants, .sec, .ens, .ports, .boot, .ram, .hmem, .mute, .loads, .rings, .strms, .axes, .grps, .slotRings, .cueQs, .binFlags, .slates, .cancels, .tqs, .sched, .dqs, .cores, .cmbs, .engs, .mmus, .grans, .granBusy, .poison, .buckets, .arbs, .capQs, .avs, .bndTaken, .ces, .scrubs, .free] s t) ∧
  (∀ (s : State) (lowNs : Nat),
     1000 ≤ lowNs →
       ∃ t, exec (.trstN lowNs) s = .next t ∧
         t.sec = { s.sec with tap := 0 } ∧
         Only [.sec, .free] s t) ∧
  (∀ (s : State) (req : Nat),
     s.takes 0x03 req 8 2 0x6C = true →
     req = 0 ∨ req = 17 →
       ∃ t, exec (.rstCmd req 0x52#32) s = .next t ∧
         t.sup = { s.sup with rstFirst := some (req, s.now) } ∧
         Only [.sup] s t) ∧
  (∀ (s : State) (req n : Nat),
     s.takes 0x03 req 8 2 0x6C = true →
     req = 0 ∨ req = 17 →
     s.sup.rstFirst = some (req, n) →
     s.now ≤ n + 200000 →
       ∃ t, exec (.rstCmd req 0xA5#32) s = .next t ∧
         t.sup = { s.sup with rstFirst := none, rstAt := some s.now } ∧
         Only [.sup] s t) ∧
  (∀ (s : State) (n : Nat),
     s.pending = [] →
     s.sup.held = none →
     s.sup.rstAt = some n →
     n + 2000 ≤ s.now →
       ∃ t, step s = .next t ∧
         t.reg (supPage + 0x44) = 3#32 ∧
         (∀ a, a ∉ [supPage + 0x40, supPage + 0x44, bootPage + 0x4C, fioPage 9 + 0x40, fioPage 11 + 0x40] → t.reg a = regReset s.asm a) ∧
         t.hmem = s.hmem ∧
         Only [.asm, .regs, .out, .sup, .fios, .sec, .hmem, .badCpl, .flash, .weak, .free, .pending] State.reset t) ∧
  (∀ (s : State) (req : Nat) (val : Word),
     s.takes 0x03 req 8 2 0x6C = true →
     val ≠ 0x52#32 →
     val ≠ 0xA5#32 →
       ∃ t, exec (.rstCmd req val) s = .next t ∧
         t.reg (supPage + 0x34) = BitVec.ofNat 32 (0x6C + 3 * 2 ^ 12 + req % 32 * 2 ^ 16) ∧
         t.latched supPage 24 = true ∧
         Only [.regs, .bar2, .out] s t ∧
         RegsBut (rejRegs supPage) s t)

/-- A regulator fault is shown and holds its die at 400 MHz or less; an acknowledge shows its voltage, a frame that fails is sent again; a
watchdog restarts its core or takes its die down. (04_supplies_and_reset.md R74, 04_supplies_and_reset.md R75, 05_boot_and_firmware.md
R91, 11_memory_and_faults.md R242, 03_register_pages.md R70) -/
def Obligations.RegulatorsAndWatchdogs : Prop :=
  (∀ (s : State) (rail : Nat) (alert : Bool),
     rail < 4 →
     dieAt s.asm rail = .compute →
     s.mainOk = true →
     s.siteUp rail = true →
       ∃ t, exec (.avsFault rail alert) s = .next t ∧
         t.regBit (supPage + 0x58) (if alert then 4 + rail else rail) = true ∧
         t.regBit (dpPage rail + 0x94) 5 = true ∧
         t.regFld (dpPage rail + 0x44) 0 12 ≤ 400 ∧
         t.latched supPage 6 = true ∧
         Only [.regs, .bar2, .out, .gaffer, .dqs, .cores, .buckets] s t) ∧
  (∀ (s : State) (rail mv : Nat),
     rail < 4 →
     dieAt s.asm rail = .compute →
     s.mainOk = true →
     s.siteUp rail = true →
     s.regBit (dpPage rail + 0x94) 5 = false →
     avsVolts mv = true →
       ∃ t, exec (.avsAck rail ⟨mv, true, false⟩) s = .next t ∧
         t.reg (supPage + 0x5C + 4 * rail) = BitVec.ofNat 32 mv ∧
         t.reg (dpPage rail + 0x48) = BitVec.ofNat 32 mv ∧
         t.regBit (supPage + 0x58) rail = false ∧
         tabGet 0 t.avs rail = s.now + 1 ∧
         Only [.regs, .gaffer, .avs] s t ∧
         RegsBut [supPage + 0x58, supPage + 0x5C + 4 * rail, dpPage rail + 0x48] s t) ∧
  (∀ (s : State) (rail mv : Nat) (alert : Bool),
     rail < 4 →
     dieAt s.asm rail = .compute →
     s.mainOk = true →
     s.regBit (dpPage rail + 0x94) 5 = false →
     avsVolts mv = true →
     tabGet 0 s.gaffer.avsTries rail < 2 →
       ∃ t, exec (.avsAck rail ⟨mv, false, alert⟩) s = .next t ∧
         t.out = s.out ++ [.avs rail (.voltageWrite mv)] ∧
         tabGet 0 t.gaffer.avsTries rail = tabGet 0 s.gaffer.avsTries rail + 1 ∧
         Only [.out, .gaffer] s t) ∧
  (∀ (s : State) (rail mv : Nat) (alert : Bool),
     rail < 4 →
     dieAt s.asm rail = .compute →
     s.mainOk = true →
     s.regBit (dpPage rail + 0x94) 5 = false →
     avsVolts mv = true →
     tabGet 0 s.gaffer.avsTries rail = 2 →
       exec (.avsAck rail ⟨mv, false, alert⟩) s = exec (.avsFault rail false) s) ∧
  (∀ (s : State) (core : Nat),
       ∃ t, exec (.watchdogExpire 8 core) s = .next t ∧
         t.restarts = tabPut 0 s.restarts 8 (s.now + (Config.freeWord s.free).toNat) ∧
         t.latched bootPage 3 = true ∧
         (∀ g, g < 16 → (s.group g).go = false → t.group g = {}) ∧
         Only [.regs, .bar2, .out, .slots, .groups, .loads, .restarts, .slates, .mmus, .free] s t) ∧
  (∀ (s : State) (site core : Nat),
     s.isField site = true →
       ∃ t, exec (.watchdogExpire site core) s = .next t ∧
         t.restarts = tabPut 0 s.restarts site (s.now + (Config.freeWord s.free).toNat) ∧
         t.latched bootPage 3 = true ∧
         Only [.regs, .bar2, .out, .restarts, .free] s t ∧
         RegsBut (evtRegs bootPage) s t) ∧
  (∀ (s : State) (site core : Nat),
     s.mainDie site = true →
     s.siteUp site = true →
     s.mainOk = true →
       ∃ t, exec (.watchdogExpire site core) s = .next t ∧
         t.siteUp site = false ∧
         t.latched (pg 8 0) 1 = true ∧
         (∀ c ∈ t.cores, c.1 / 256 ≠ site) ∧
         (∀ c ∈ t.cueQs, c.1 / 4096 ≠ site) ∧
         (∀ k, site * 2 ^ 56 ≤ k → k < (site + 1) * 2 ^ 56 → tabGet 0#8 t.ram k = 0#8) ∧
         Only [.regs, .latch, .back, .bar2, .out, .slots, .groups, .ports, .ram, .hmem, .loads, .rings, .strms, .axes, .grps, .slotRings, .cueQs, .binFlags, .slates, .cancels, .tqs, .sched, .dqs, .cores, .cmbs, .engs, .mmus, .poison, .arbs, .capQs, .bndTaken] s t)

/-- The ROM boots the newest valid slot or waits for recovery; the main domain boots it and is READY; recovery images load.
(05_boot_and_firmware.md R95, 05_boot_and_firmware.md R96, 05_boot_and_firmware.md R97, 05_boot_and_firmware.md R98,
05_boot_and_firmware.md R100, 05_boot_and_firmware.md R101) -/
def Obligations.FirmwareBoot : Prop :=
  (∀ (s : State) (n : Bool),
     let r : State := { s with free := s.free + s.flashSize }
     s.bootSt = 0 →
     s.sup.held = none →
     s.boot.flOp = 0 →
     24 ≤ s.regFld (flashPage + 0x40) 0 8 →
     s.regFld (flashPage + 0x40) 0 8 ≤ 26 →
       ∃ t, exec (.aonBoot true n) s = .next t ∧
         t.lead = (!n && s.asm != 3) ∧
         (∀ x ∈ (r.trySlots s.slotOrder).find? (fun x => x.2 == 1), t.bootSt = (if s.mainOk then 3 else 2) ∧ t.boot.slot = some x.1 ∧ t.boot.recovery = false ∧ t.reg (bootPage + 0x44) = BitVec.ofNat 32 (leAt (r.slotImage x.1) 0xC 4) ∧ t.latched bootPage 0 = true) ∧
         ((r.trySlots s.slotOrder).find? (fun x => x.2 == 1) = none → t.bootSt = 5 ∧ t.regFld (bootPage + 0x40) 8 8 = 1 ∧ t.latched bootPage 2 = true) ∧
         Only [.lead, .regs, .bar2, .out, .boot, .free, .ram] s t ∧
         PagesBut [bootPage, pg 8 0, pg 8 6] s t) ∧
  (∀ (s : State) (n : Bool),
     s.bootSt = 0 →
     s.sup.held = none →
     s.boot.flOp = 0 →
       ∃ t, exec (.aonBoot false n) s = .next t ∧
         t.lead = (!n && s.asm != 3) ∧
         t.bootSt = 5 ∧
         t.regFld (bootPage + 0x40) 8 8 = 2 ∧
         t.latched bootPage 2 = true ∧
         Only [.lead, .regs, .bar2, .out] s t ∧
         PagesBut [bootPage, pg 8 6] s t) ∧
  (∀ (s : State),
     s.mainOk = true →
     s.bootSt = 2 ∨ s.bootSt = 3 →
     s.boot.flOp = 0 →
     s.asm < 4 →
       ∃ t, exec (.mainBoot 0 0) s = .next t ∧
         (s.boot.slot.all (fun x => checkBody (s.slotImage x) == 1) = true → t.bootSt = 4 ∧ t.reg (pg 8 0 + 0x4C) = BitVec.ofNat 32 (siteFitted s.asm) ∧ t.reg (pg 8 0 + 0x54) = BitVec.ofNat 32 (linksFitted s.asm) ∧ t.gaffer.running = true ∧ t.latched bootPage 1 = true) ∧
         (s.boot.slot.all (fun x => checkBody (s.slotImage x) == 1) = false → t.bootSt = 5 ∧ t.regFld (bootPage + 0x40) 8 8 = 4 ∧ t.latched bootPage 2 = true) ∧
         Only [.regs, .bar2, .out, .gaffer, .free, .ram] s t) ∧
  (∀ (s : State) (fs fl i : Nat),
     s.mainOk = true →
     s.bootSt = 2 ∨ s.bootSt = 3 →
     s.boot.flOp = 0 →
     s.boot.slot.all (fun x => checkBody (s.slotImage x) == 1) = true →
     i < 16 →
     siteFitted s.asm / 2 ^ i % 2 = 1 →
     fs / 2 ^ i % 2 = 1 →
       ∃ t, exec (.mainBoot fs fl) s = .next t ∧
         t.bootSt = 5 ∧
         t.regFld (bootPage + 0x40) 8 8 = 3 ∧
         t.latched bootPage 2 = true ∧
         Only [.regs, .bar2, .out, .free, .ram] s t) ∧
  (∀ (s : State) (fn : Nat),
     s.mainOk = true →
     (s.bootSt = 4 ∧ fn < 16) ∨ (s.bootSt = 5 ∧ fn = 0) →
       ∃ t, exec (.pcieConfigRequest ⟨fn, none⟩) s = .next t ∧
         t.out = s.out ++ [.pcieConfig fn false] ∧
         Only [.out] s t) ∧
  (∀ (s : State) (k : Nat),
     s.mainOk = true →
     s.bootSt = 4 ∨ s.bootSt = 5 →
     k < 16 →
       ∃ t, exec (.pcieConfigRequest ⟨0, some k⟩) s = .next t ∧
         t.out = s.out ++ [.pcieConfig 0 false] ∧
         (∀ f, f < 16 → t.regBit (pg 8 6 + 0x40) (16 + f) = (decide (1 ≤ f) && decide (f ≤ k))) ∧
         (∀ b, b < 16 → t.regBit (pg 8 6 + 0x40) b = s.regBit (pg 8 6 + 0x40) b) ∧
         Only [.regs, .out] s t ∧
         RegsBut [pg 8 6 + 0x40] s t) ∧
  (∀ (s : State) (fn : Nat) (vfs : Option Nat),
     s.mainOk = false ∨ (s.bootSt ≠ 4 ∧ s.bootSt ≠ 5) →
       ∃ t, exec (.pcieConfigRequest ⟨fn, vfs⟩) s = .next t ∧
         t.out = s.out ++ [.pcieConfig fn true] ∧
         Only [.out] s t) ∧
  (∀ (s : State) (val : Word),
     let img := s.hmemGet (s.wide (bootPage + 0x58)) (s.reg (bootPage + 0x60)).toNat
     let hd := checkHead (s.reg (bootPage + 0x4C)).toNat (s.reg (bootPage + 0x60)).toNat true img
     let r := if hd = 1 then checkBody img else hd
     s.takes 0x04 0 8 3 0x64 = true →
     bitOf val 0 = true →
     s.bootSt = 5 →
     s.boot.recovery = false →
       ∃ t, exec (.recCmdGo 0 val) s = .next t ∧
         (r = 1 → t.bootSt = (if s.mainOk then 3 else 2) ∧ t.boot.slot = none ∧ t.boot.recovery = true ∧ t.boot.image = img ∧ t.latched bootPage 0 = true) ∧
         (r ≠ 1 → t.bootSt = 5 ∧ t.boot = s.boot ∧ t.regFld (bootPage + 0x50) 8 4 = r % 16 ∧ t.regFld (bootPage + 0x40) 8 8 = 5) ∧
         Only [.regs, .bar2, .out, .boot, .ram] s t ∧
         PagesBut [bootPage, pg 8 0, pg 8 6] s t) ∧
  (∀ (s : State) (val : Word),
     let img := s.hmemGet (s.wide (bootPage + 0x58)) (s.reg (bootPage + 0x60)).toNat
     let hd := checkHead (s.reg (bootPage + 0x4C)).toNat (s.reg (bootPage + 0x60)).toNat true img
     let r := if hd = 1 then checkBody img else hd
     s.takes 0x04 0 8 3 0x64 = true →
     bitOf val 0 = true →
     s.bootSt = 5 →
     s.boot.recovery = true →
       ∃ t, exec (.recCmdGo 0 val) s = .next t ∧
         (r = 1 ∧ Config.sha384 (signedHead img) = s.boot.headerHash → t.bootSt = (if s.mainOk then 3 else 2) ∧ t.boot = { s.boot with image := img }) ∧
         (r = 1 ∧ Config.sha384 (signedHead img) ≠ s.boot.headerHash → t.bootSt = 5 ∧ t.boot = s.boot ∧ t.regFld (bootPage + 0x50) 8 4 = 8 ∧ t.regFld (bootPage + 0x40) 8 8 = 7) ∧
         (r ≠ 1 → t.bootSt = 5 ∧ t.boot = s.boot ∧ t.regFld (bootPage + 0x50) 8 4 = r % 16 ∧ t.regFld (bootPage + 0x40) 8 8 = 5) ∧
         Only [.regs, .boot] s t ∧
         RegsBut [bootPage + 0x40, bootPage + 0x50] s t)

/-- GET_FW_INFO, SVN_RAISE and MB_ACK answer and acknowledge as the mailbox's steps and opcodes say. (05_boot_and_firmware.md R103) -/
def Obligations.MailboxFirmwareRequests : Prop :=
  (∀ (s : State) (n : Nat),
     n < 16 →
     s.ready = true →
     s.restarting 8 = false →
     s.regFld (mbPage n + 0x44) 0 2 = 1 →
     s.regFld (mbPage n + 0x100) 0 16 = 1 →
     s.regFld (mbPage n + 0x100) 16 16 = 0 →
       ∃ t, exec (.getFwInfo n) s = .next t ∧
         t.regFld (mbPage n + 0x44) 0 2 = 2 ∧
         t.reg (mbPage n + 0x200) = 0x00100000#32 ∧
         t.reg (mbPage n + 0x204) = s.reg (mbPage n + 0x40) ∧
         t.reg (mbPage n + 0x208) = s.reg (bootPage + 0x44) ∧
         t.reg (mbPage n + 0x20C) = s.reg (bootPage + 0x48) ∧
         t.reg (mbPage n + 0x210) = BitVec.ofNat 32 (s.regFld (bootPage + 0x40) 4 1 + 256 * s.regFld (bootPage + 0x40) 5 1) ∧
         t.reg (mbPage n + 0x214) = s.reg (bootPage + 0x4C) ∧
         t.latched (mbPage n) 0 = true ∧
         t.loads = s.loads.filter (· != n) ∧
         Only [.regs, .bar2, .out, .loads] s t ∧
         PagesBut [mbPage n, pg 8 6] s t) ∧
  (∀ (s : State) (n : Nat),
     n < 16 →
     s.mainOk = true →
     s.ready = false ∨ s.restarting 8 = true →
     s.regFld (mbPage n + 0x44) 0 2 = 1 →
     s.regFld (mbPage n + 0x100) 0 16 = 1 →
       ∃ t, exec (.getFwInfo n) s = .next t ∧
         t.regFld (mbPage n + 0x44) 0 2 = 2 ∧
         t.reg (mbPage n + 0x200) = 4#32 ∧
         t.reg (mbPage n + 0x204) = s.reg (mbPage n + 0x40) ∧
         t.latched (mbPage n) 0 = true ∧
         Only [.regs, .bar2, .out, .loads] s t ∧
         PagesBut [mbPage n, pg 8 6] s t) ∧
  (∀ (s : State) (n : Nat),
     n < 16 →
     s.ready = true →
     s.restarting 8 = false →
     s.regFld (mbPage n + 0x44) 0 2 = 1 →
     s.regFld (mbPage n + 0x100) 0 16 = 1 →
     s.regFld (mbPage n + 0x100) 16 16 ≠ 0 →
       ∃ t, exec (.getFwInfo n) s = .next t ∧
         t.regFld (mbPage n + 0x44) 0 2 = 2 ∧
         t.reg (mbPage n + 0x200) = 2#32 ∧
         t.reg (mbPage n + 0x204) = s.reg (mbPage n + 0x40) ∧
         t.latched (mbPage n) 0 = true ∧
         Only [.regs, .bar2, .out, .loads] s t ∧
         PagesBut [mbPage n, pg 8 6] s t) ∧
  (∀ (s : State),
     s.ready = true →
     s.restarting 8 = false →
     s.isMember = false →
     s.regFld (mbPage 0 + 0x44) 0 2 = 1 →
     s.regFld (mbPage 0 + 0x100) 0 16 = 2 →
     s.regFld (mbPage 0 + 0x100) 16 16 = 0 →
       ∃ t, exec (.svnRaise 0) s = .next t ∧
         t.reg (bootPage + 0x4C) = BitVec.ofNat 32 (max (s.reg (bootPage + 0x4C)).toNat (s.reg (bootPage + 0x48)).toNat) ∧
         t.regFld (mbPage 0 + 0x44) 0 2 = 2 ∧
         t.reg (mbPage 0 + 0x200) = 0#32 ∧
         t.latched (mbPage 0) 0 = true ∧
         (∀ a, a / 0x1000 = bootPage / 0x1000 → a ≠ bootPage + 0x4C → t.reg a = s.reg a) ∧
         Only [.regs, .bar2, .out, .loads] s t ∧
         PagesBut [mbPage 0, pg 8 6, bootPage] s t) ∧
  (∀ (s : State) (n : Nat),
     n < 16 →
     s.ready = true →
     s.restarting 8 = false →
     s.regFld (mbPage n + 0x44) 0 2 = 1 →
     s.regFld (mbPage n + 0x100) 0 16 = 2 →
     s.regFld (mbPage n + 0x100) 16 16 = 0 →
     n ≠ 0 ∨ s.isMember = true →
       ∃ t, exec (.svnRaise n) s = .next t ∧
         t.reg (mbPage n + 0x200) = 3#32 ∧
         t.regFld (mbPage n + 0x44) 0 2 = 2 ∧
         t.latched (mbPage n) 0 = true ∧
         Only [.regs, .bar2, .out, .loads] s t ∧
         PagesBut [mbPage n, pg 8 6] s t) ∧
  (∀ (s : State) (n : Nat) (val : Word),
     n < 16 →
     s.takes 0x06 n 8 (0x20 + n) 0x48 = true →
     bitOf val 0 = true →
     s.regFld (mbPage n + 0x44) 0 2 = 2 →
       ∃ t, exec (.mbAck n n val) s = .next t ∧
         t.reg (mbPage n + 0x44) = 0#32 ∧
         Only [.regs] s t ∧
         RegsBut [mbPage n + 0x44] s t)

/-- The flash page takes aligned commands outside the active slot, and their end stores, erases or reads exactly what they name.
(05_boot_and_firmware.md R104, 05_boot_and_firmware.md R105, 05_boot_and_firmware.md R106) -/
def Obligations.FlashCommands : Prop :=
  (∀ (s : State) (req : Nat),
     s.takes 0x05 req 8 4 0x48 = true →
     req = 0 ∨ req = 17 →
     s.regFld (flashPage + 0x4C) 0 2 ≠ 1 →
       ∃ t, exec (.flRead req) s = .next t ∧
         t.boot = { s.boot with flOp := 1, flAddr := s.flAddr } ∧
         t.reg (flashPage + 0x4C) = 1#32 ∧
         Only [.regs, .boot] s t ∧
         RegsBut [flashPage + 0x4C] s t) ∧
  (∀ (s : State) (req : Nat),
     s.takes 0x05 req 8 4 0x48 = true →
     req = 0 ∨ req = 17 →
     s.regFld (flashPage + 0x4C) 0 2 ≠ 1 →
     s.flAddr % 256 = 0 →
     s.inActive s.flAddr = false →
       ∃ t, exec (.flProgram req) s = .next t ∧
         t.boot = { s.boot with flOp := 2, flAddr := s.flAddr } ∧
         t.reg (flashPage + 0x4C) = 1#32 ∧
         Only [.regs, .boot] s t ∧
         RegsBut [flashPage + 0x4C] s t) ∧
  (∀ (s : State) (req : Nat),
     s.takes 0x05 req 8 4 0x48 = true →
     req = 0 ∨ req = 17 →
     s.regFld (flashPage + 0x4C) 0 2 ≠ 1 →
     s.flAddr % 4096 = 0 →
     s.inActive s.flAddr = false →
       ∃ t, exec (.erase4K req) s = .next t ∧
         t.boot = { s.boot with flOp := 3, flAddr := s.flAddr } ∧
         t.reg (flashPage + 0x4C) = 1#32 ∧
         Only [.regs, .boot] s t ∧
         RegsBut [flashPage + 0x4C] s t) ∧
  (∀ (s : State) (req : Nat),
     s.takes 0x05 req 8 4 0x48 = true →
     req = 0 ∨ req = 17 →
     s.regFld (flashPage + 0x4C) 0 2 ≠ 1 →
     s.flAddr % 65536 = 0 →
     s.regBit (flashPage + 0x40) 9 = true →
     s.inActive s.flAddr = false →
       ∃ t, exec (.erase64K req) s = .next t ∧
         t.boot = { s.boot with flOp := 4, flAddr := s.flAddr } ∧
         t.reg (flashPage + 0x4C) = 1#32 ∧
         Only [.regs, .boot] s t ∧
         RegsBut [flashPage + 0x4C] s t) ∧
  (∀ (s : State) (us a : Nat),
     s.boot.flOp = 1 →
     s.boot.flAddr = a →
       ∃ t, exec (.flDone 0 us) s = .next t ∧
         ((∀ i, i < 256 → tabGet 0#8 s.weak ((a + i) % s.flashSize) = 0#8) → t.regBytes (flashPage + 0x100) 64 = (List.range 256).map (fun i => tabGet 0xFF#8 s.flash ((a + i) % s.flashSize))) ∧
         t.reg (flashPage + 0x4C) = 2#32 ∧
         t.reg (flashPage + 0x50) = BitVec.ofNat 32 us ∧
         t.boot = { s.boot with flOp := 0 } ∧
         t.latched flashPage 0 = true ∧
         Only [.regs, .bar2, .out, .boot, .free] s t ∧
         PagesBut [flashPage, pg 8 6] s t) ∧
  (∀ (s : State) (us a : Nat),
     let buf := s.regBytes (flashPage + 0x100) 64
     s.boot.flOp = 2 →
     s.boot.flAddr = a →
     us ≤ 3000 →
       ∃ t, exec (.flDone 0 us) s = .next t ∧
         (∀ i, i < 256 → tabGet 0xFF#8 t.flash (a + i) = tabGet 0xFF#8 s.flash (a + i) &&& buf.getD i 0#8) ∧
         (∀ i, i < 256 → tabGet 0#8 t.weak (a + i) = tabGet 0#8 s.weak (a + i) &&& buf.getD i 0#8) ∧
         (∀ x, x < a ∨ a + 256 ≤ x → tabGet 0xFF#8 t.flash x = tabGet 0xFF#8 s.flash x ∧ tabGet 0#8 t.weak x = tabGet 0#8 s.weak x) ∧
         ((∀ i, i < 256 → tabGet 0xFF#8 s.flash (a + i) = 0xFF#8 ∧ tabGet 0#8 s.weak (a + i) = 0#8) → t.flashGet a 256 = buf ∧ t.reg (flashPage + 0x4C) = 2#32) ∧
         t.boot = { s.boot with flOp := 0 } ∧
         t.latched flashPage 0 = true ∧
         Only [.regs, .bar2, .out, .boot, .flash, .weak, .free] s t ∧
         RegsBut ((flashPage + 0x4C) :: (flashPage + 0x50) :: evtRegs flashPage) s t) ∧
  (∀ (s : State) (us a op n : Nat),
     (op = 3 ∧ n = 4096) ∨ (op = 4 ∧ n = 65536) →
     s.boot.flOp = op →
     s.boot.flAddr = a →
     us ≤ min 2000000 (Config.eraseMaxUs (op - 3)) →
       ∃ t, exec (.flDone 0 us) s = .next t ∧
         (∀ x, a ≤ x → x < a + n → tabGet 0xFF#8 t.flash x = 0xFF#8 ∧ tabGet 0#8 t.weak x = 0#8) ∧
         (∀ x, x < a ∨ a + n ≤ x → tabGet 0xFF#8 t.flash x = tabGet 0xFF#8 s.flash x ∧ tabGet 0#8 t.weak x = tabGet 0#8 s.weak x) ∧
         t.reg (flashPage + 0x4C) = 2#32 ∧
         t.boot = { s.boot with flOp := 0 } ∧
         t.latched flashPage 0 = true ∧
         Only [.regs, .bar2, .out, .boot, .flash, .weak] s t ∧
         RegsBut ((flashPage + 0x4C) :: (flashPage + 0x50) :: evtRegs flashPage) s t) ∧
  (∀ (s : State) (err us a : Nat),
     s.boot.flOp = 2 →
     s.boot.flAddr = a →
     err ≠ 0 ∨ 3000 < us →
       ∃ t, exec (.flDone err us) s = .next t ∧
         t.reg (flashPage + 0x4C) = (if 3000 < us then 19#32 else 51#32) ∧
         t.boot = { s.boot with flOp := 0 } ∧
         (∀ x, x < a ∨ a + 256 ≤ x → tabGet 0xFF#8 t.flash x = tabGet 0xFF#8 s.flash x ∧ tabGet 0#8 t.weak x = tabGet 0#8 s.weak x) ∧
         t.latched flashPage 0 = true ∧
         Only [.regs, .bar2, .out, .boot, .flash, .weak] s t ∧
         RegsBut ((flashPage + 0x4C) :: (flashPage + 0x50) :: evtRegs flashPage) s t) ∧
  (∀ (s : State) (req : Nat),
     s.sup.held = none →
     s.bar0 req 8 4 = true →
     s.typeAt 8 4 = 0x05 →
     s.present 8 4 = true →
     req ≠ 0 →
     req ≠ 17 →
       ∀ c ∈ [Instr.flRead req, Instr.flProgram req, Instr.erase4K req, Instr.erase64K req], ∃ t, exec c s = .next t ∧
         t.reg (flashPage + 0x34) = BitVec.ofNat 32 (0x48 + 4 * 2 ^ 12 + req % 32 * 2 ^ 16) ∧
         t.latched flashPage 24 = true ∧
         Only [.regs, .bar2, .out] s t ∧
         RegsBut (rejRegs flashPage) s t)

/-- PCIe link events show on the interrupt page; PERST# and FLR end the tenants' takes, queues and sessions. (06_host_takes.md R107,
06_host_takes.md R108, 06_host_takes.md R138) -/
def Obligations.LinkAndFunctionResets : Prop :=
  (∀ (s : State),
     s.mainOk = true →
       ∃ t, exec (.linkFail) s = .next t ∧
         t.latched (pg 8 6) 0 = true ∧
         t.regBit (pg 8 6 + 0x40) 8 = true ∧
         Only [.regs, .bar2, .out] s t ∧
         RegsBut ((pg 8 6 + 0x40) :: evtRegs (pg 8 6)) s t) ∧
  (∀ (s : State) (width rate : Nat),
     s.mainOk = true →
     width < 32 →
     rate < 8 →
       ∃ t, exec (.linkChange width rate) s = .next t ∧
         t.regFld (pg 8 6 + 0x40) 0 5 = width ∧
         t.regFld (pg 8 6 + 0x40) 5 3 = rate ∧
         t.regBit (pg 8 6 + 0x40) 8 = false ∧
         t.latched (pg 8 6) 1 = true ∧
         Only [.regs, .bar2, .out] s t ∧
         RegsBut ((pg 8 6 + 0x40) :: evtRegs (pg 8 6)) s t) ∧
  (∀ (s : State),
     s.mainOk = true →
       ∃ t, exec (.perst) s = .next t ∧
         (∀ n q, n < 16 → q < 8 → (t.tq n q).entries = []) ∧
         (∀ n, n < 16 → (t.tenant n).session = 0) ∧
         t.reg (pg 8 6 + 0x40) = 0#32 ∧
         Only [.regs, .latch, .back, .bar2, .out, .tenants, .ram, .hmem, .rings, .slotRings, .cueQs, .binFlags, .slates, .cancels, .tqs, .sched, .dqs, .cores, .cmbs, .engs, .mmus, .poison, .bndTaken, .strms] s t) ∧
  (∀ (s : State),
     s.mainOk = true →
       ∃ t, exec (.flr 0) s = .next t ∧
         (∀ n q, n < 16 → q < 8 → (t.tq n q).entries = []) ∧
         (∀ n, n < 16 → (t.tenant n).session = 0) ∧
         t.regFld (pg 8 6 + 0x40) 0 16 = s.regFld (pg 8 6 + 0x40) 0 16 ∧
         t.regFld (pg 8 6 + 0x40) 16 16 = 0 ∧
         Only [.regs, .latch, .back, .bar2, .out, .tenants, .ram, .hmem, .rings, .slotRings, .cueQs, .binFlags, .slates, .cancels, .tqs, .sched, .dqs, .cores, .cmbs, .engs, .mmus, .poison, .bndTaken, .strms] s t) ∧
  (∀ (s : State) (fn : Nat),
     s.mainOk = true →
     0 < fn →
     fn < 16 →
       ∃ t, exec (.flr fn) s = .next t ∧
         (∀ q, q < 8 → (t.tq fn q).entries = []) ∧
         (t.tenant fn).session = 0 ∧
         (∀ n q, n < 16 → n ≠ fn → q < 8 → (t.tq n q).entries.length = (s.tq n q).entries.length) ∧
         (∀ n, n < 16 → n ≠ fn → (t.tenant n).session = (s.tenant n).session) ∧
         Only [.regs, .latch, .back, .bar2, .out, .tenants, .ram, .hmem, .rings, .slotRings, .cueQs, .binFlags, .slates, .cancels, .tqs, .sched, .dqs, .cores, .cmbs, .engs, .mmus, .poison, .bndTaken, .strms] s t)

/-- The doorbell, and the fetch of takes and fences: refused with a status, or entered in submission order. (06_host_takes.md R113,
06_host_takes.md R114, 06_host_takes.md R115, 06_host_takes.md R116, 06_host_takes.md R117) -/
def Obligations.TakeQueueFetch : Prop :=
  (∀ (s : State) (n q : Nat) (val : Word),
     n < 16 →
     q < 8 →
     s.takes 0x08 n 8 (0x100 + 8 * n + q) 0x54 = true →
     cntSub val.toNat (s.reg (tqPage n q + 0x60)).toNat ≤ s.tqSize n q →
     cntSub val.toNat (s.reg (tqPage n q + 0x54)).toNat ≤ s.tqSize n q →
       ∃ t, exec (.sqTail n n q val) s = .next t ∧
         t.reg (tqPage n q + 0x54) = val ∧
         t.regBit (tqPage n q + 0x68) 0 = false ∧
         Only [.regs] s t ∧
         RegsBut [tqPage n q + 0x54, tqPage n q + 0x68] s t) ∧
  (∀ (s : State) (n q : Nat) (val : Word),
     n < 16 →
     q < 8 →
     s.takes 0x08 n 8 (0x100 + 8 * n + q) 0x54 = true →
     s.tqSize n q < cntSub val.toNat (s.reg (tqPage n q + 0x60)).toNat →
       ∃ t, exec (.sqTail n n q val) s = .next t ∧
         t.reg (tqPage n q + 0x54) = s.reg (tqPage n q + 0x54) ∧
         t.regBit (tqPage n q + 0x68) 0 = true ∧
         t.latched (tqPage n q) 1 = true ∧
         t.reg (tqPage n q + 0x34) = BitVec.ofNat 32 (0x54 + 3 * 2 ^ 12 + n % 32 * 2 ^ 16) ∧
         Only [.regs, .bar2, .out] s t ∧
         RegsBut ((tqPage n q + 0x68) :: rejRegs (tqPage n q)) s t) ∧
  (∀ (s : State) (n q : Nat) (val : Word),
     n < 16 →
     q < 8 →
     s.takes 0x08 n 8 (0x100 + 8 * n + q) 0x54 = true →
     cntSub val.toNat (s.reg (tqPage n q + 0x60)).toNat ≤ s.tqSize n q →
     s.tqSize n q < cntSub val.toNat (s.reg (tqPage n q + 0x54)).toNat →
       ∃ t, exec (.sqTail n n q val) s = .next t ∧
         t.reg (tqPage n q + 0x54) = s.reg (tqPage n q + 0x54) ∧
         t.reg (tqPage n q + 0x34) = BitVec.ofNat 32 (0x54 + 3 * 2 ^ 12 + n % 32 * 2 ^ 16) ∧
         t.latched (tqPage n q) 24 = true ∧
         Only [.regs, .bar2, .out] s t ∧
         RegsBut (rejRegs (tqPage n q)) s t) ∧
  (∀ (s : State) (n q est : Nat) (d : List Byte) (x : Slate),
     let e := entryOf d
     s.fetches n q = true →
     leAt d 0 1 ≠ 2 →
     s.takeRefusal n d = none →
     s.slate e.slate = some x →
     est = (if e.flags / 4 % 2 = 1 then max (s.tq n q).est (s.us * 1600) + declaredCycles x.cont e.dyn else max (s.tq n q).est (s.us * 1600 + declaredCycles x.cont e.dyn)) →
     e.flags / 2 % 2 = 0 ∨ est ≤ e.deadline * 1600 →
       ∃ t, exec (.take n q d) s = .next t ∧
         (t.tq n q) = { s.tq n q with est := est, entries := fenceFrom true ((s.tq n q).entries ++ [{ e with n := (s.reg (tqPage n q + 0x58)).toNat }]) } ∧
         t.reg (tqPage n q + 0x58) = s.reg (tqPage n q + 0x58) + 1#32 ∧
         (∀ k, k ≠ n * 8 + q → tabGet {} t.tqs k = tabGet {} s.tqs k) ∧
         Only [.regs, .tqs] s t ∧
         RegsBut [tqPage n q + 0x58] s t) ∧
  (∀ (s : State) (n q : Nat) (d : List Byte) (x : Slate),
     let e := entryOf d
     s.fetches n q = true →
     leAt d 0 1 ≠ 2 →
     s.takeRefusal n d = none →
     s.slate e.slate = some x →
     e.deadline * 1600 < (if e.flags / 4 % 2 = 1 then max (s.tq n q).est (s.us * 1600) + declaredCycles x.cont e.dyn else max (s.tq n q).est (s.us * 1600 + declaredCycles x.cont e.dyn)) →
     e.flags / 2 % 2 = 1 →
       ∃ t, exec (.take n q d) s = .next t ∧
         (t.tq n q) = { s.tq n q with entries := fenceFrom true ((s.tq n q).entries ++ [{ e with n := (s.reg (tqPage n q + 0x58)).toNat, st := 3, status := 0x0105 }]) } ∧
         t.reg (tqPage n q + 0x58) = s.reg (tqPage n q + 0x58) + 1#32 ∧
         t.latched (tqPage n q) 2 = true ∧
         (∀ k, k ≠ n * 8 + q → tabGet {} t.tqs k = tabGet {} s.tqs k) ∧
         Only [.regs, .bar2, .out, .tqs] s t ∧
         PagesBut [tqPage n q, pg 8 6] s t) ∧
  (∀ (s : State) (n q st : Nat) (d : List Byte),
     s.fetches n q = true →
     leAt d 0 1 ≠ 2 →
     s.takeRefusal n d = some st →
       ∃ t, exec (.take n q d) s = .next t ∧
         (t.tq n q).entries = fenceFrom true ((s.tq n q).entries ++ [{ entryOf d with n := (s.reg (tqPage n q + 0x58)).toNat, st := 3, status := st }]) ∧
         t.reg (tqPage n q + 0x58) = s.reg (tqPage n q + 0x58) + 1#32 ∧
         t.latched (tqPage n q) 2 = true ∧
         (∀ k, k ≠ n * 8 + q → tabGet {} t.tqs k = tabGet {} s.tqs k) ∧
         Only [.regs, .bar2, .out, .tqs] s t ∧
         PagesBut [tqPage n q, pg 8 6] s t) ∧
  (∀ (s : State) (n q : Nat) (d : List Byte),
     let e := entryOf d
     s.fetches n q = true →
     leAt d 0 1 = 2 →
     e.flags / 8 = 0 →
     ((d.drop 2).take 6 ++ (d.drop 16).take 48).any (fun b => b != 0#8) = false →
       ∃ t, exec (.fence n q d) s = .next t ∧
         (t.tq n q) = { s.tq n q with est := max (s.tq n q).est (s.us * 1600), entries := fenceFrom true ((s.tq n q).entries ++ [{ op := 2, flags := e.flags % 2, tag := e.tag, n := (s.reg (tqPage n q + 0x58)).toNat }]) } ∧
         t.reg (tqPage n q + 0x58) = s.reg (tqPage n q + 0x58) + 1#32 ∧
         (∀ k, k ≠ n * 8 + q → tabGet {} t.tqs k = tabGet {} s.tqs k) ∧
         Only [.regs, .tqs] s t ∧
         RegsBut [tqPage n q + 0x58] s t) ∧
  (∀ (s : State) (n q : Nat) (d : List Byte),
     let e := entryOf d
     s.fetches n q = true →
     leAt d 0 1 = 2 →
     e.flags / 8 ≠ 0 ∨ ((d.drop 2).take 6 ++ (d.drop 16).take 48).any (fun b => b != 0#8) = true →
       ∃ t, exec (.fence n q d) s = .next t ∧
         (t.tq n q).entries = fenceFrom true ((s.tq n q).entries ++ [{ e with n := (s.reg (tqPage n q + 0x58)).toNat, st := 3, status := 0x0101 }]) ∧
         t.reg (tqPage n q + 0x58) = s.reg (tqPage n q + 0x58) + 1#32 ∧
         t.latched (tqPage n q) 2 = true ∧
         (∀ k, k ≠ n * 8 + q → tabGet {} t.tqs k = tabGet {} s.tqs k) ∧
         Only [.regs, .bar2, .out, .tqs] s t ∧
         PagesBut [tqPage n q, pg 8 6] s t)

/-- A take starts on free cores, ends once its cores have, and its record is written in submission order; ABORT_ALL ends the rest.
(06_host_takes.md R111, 06_host_takes.md R118, 06_host_takes.md R119, 06_host_takes.md R120, 06_host_takes.md R122, 06_host_takes.md R123,
09_slates.md R195) -/
def Obligations.TakesStartEndAndAreRecorded : Prop :=
  (∀ (s : State) (n q cost : Nat) (e : Entry) (cores : List (Nat × Nat × Nat)) (x : Slate),
     s.mainOk = true →
     s.ready = true →
     s.candidates = [(n, q, e, some cores, cost)] →
     0 < s.weight n →
     cost ≤ s.credit n →
     s.sched.passed = none →
     s.fits e (some cores) = true →
     s.slate e.slate = some x →
       ∃ t, exec (.takeStart) s = .next t ∧
         t.sched.turn = n ∧
         tabGet 0 t.sched.credit n = s.credit n - cost ∧
         tabGet 0 t.sched.nextQ n = (q + 1) % 8 ∧
         t.sched.passed = none ∧
         (∀ y ∈ (s.tq n q).entries, y.n = e.n → ∃ z ∈ (t.tq n q).entries, z.n = e.n ∧ z.st = 1 ∧ z.cores = cores ∧ z.startUs = s.us % 2 ^ 32 ∧ z.epoch = (s.allocEpoch (x.groups.headD {}).site).1) ∧
         (∀ k, k ≠ n * 8 + q → tabGet {} t.tqs k = tabGet {} s.tqs k) ∧
         Only [.regs, .bar2, .out, .slotRings, .cueQs, .binFlags, .cancels, .tqs, .sched, .dqs, .cores, .cmbs, .bndTaken] s t) ∧
  (∀ (s : State) (n q idx : Nat) (e : Entry),
     (s.tq n q).entries.find? (fun e => e.n % s.tqSize n q == idx && e.st == 1) = some e →
     s.findEntry n q e.n = some e →
     (e.cores.all (fun c => (s.core c.2.1 c.2.2).phase == 3 && (List.range 4).all (fun k => (s.dq c.2.1 c.2.2 k).descs.isEmpty))) = true →
       ∃ t, exec (.takeEnd n q idx) s = .next t ∧
         (∃ z ∈ (t.tq n q).entries, z.n = e.n ∧ z.tag = e.tag ∧ z.st = 3 ∧ z.status = 0 ∧ z.detail = none ∧ z.cores = [] ∧ z.late = (e.flags / 2 % 2 == 1 && decide (e.deadline < s.us))) ∧
         (∀ c ∈ e.cores, (t.core c.2.1 c.2.2).work = none) ∧
         (∀ k, k ≠ n * 8 + q → tabGet {} t.tqs k = tabGet {} s.tqs k) ∧
         Only [.regs, .back, .bar2, .out, .ram, .hmem, .slotRings, .cancels, .tqs, .sched, .dqs, .cores, .cmbs, .engs, .mmus, .poison] s t) ∧
  (∀ (s m : State) (n q a : Nat) (e : Entry) (es : List Entry),
     n < 16 →
     q < 8 →
     s.mainOk = true →
     s.mute = false →
     s.st (tqPage n q) ≠ 0 →
     (s.tq n q).entries = e :: es →
     e.st = 3 →
     a = s.wide (tqPage n q + 0x48) + (s.reg (tqPage n q + 0x5C)).toNat % s.tqSize n q * 32 →
     s.taWrite n .host a (s.complRec n q e) = (m, none) →
       ∃ t, exec (.completionRecord n q) s = .next t ∧
         (t.tq n q).entries = es ∧
         (t.tq n q).phase = (if (s.reg (tqPage n q + 0x5C)).toNat % s.tqSize n q + 1 = s.tqSize n q then !(s.tq n q).phase else (s.tq n q).phase) ∧
         t.reg (tqPage n q + 0x5C) = s.reg (tqPage n q + 0x5C) + 1#32 ∧
         t.hmem = m.hmem ∧
         t.ram = m.ram ∧
         t.latched (tqPage n q) 0 = true ∧
         (∀ k, k ≠ n * 8 + q → tabGet {} t.tqs k = tabGet {} s.tqs k) ∧
         Only [.regs, .bar2, .out, .ram, .hmem, .tqs, .poison] s t ∧
         PagesBut [tqPage n q, pg 8 6] s t) ∧
  (∀ (s : State) (n q f d : Nat),
     n < 16 →
     q < 8 →
     (s.tq n q).firstAt = some f →
     s.regFld (tqPage n q + 0x64) 16 16 = d →
     d ≠ 0 →
     f + d * 200 ≤ s.now →
     s.mainOk = true →
     s.regBit (tqPage n q + 0x14) 0 = true →
       ∃ t, exec (.intModDelay n q) s = .next t ∧
         (bitOf (s.bar2Reg (bar2At n ((16 + q) * 16 + 12))) 0 = false → t.out = s.out ++ [.msix n (16 + q)] ∧ t.bar2 = s.bar2) ∧
         (bitOf (s.bar2Reg (bar2At n ((16 + q) * 16 + 12))) 0 = true → bitOf (t.bar2Reg (bar2At n 0x1000)) (16 + q) = true ∧ t.out = s.out) ∧
         t.tq n q = { s.tq n q with since := 0, firstAt := none } ∧
         (∀ k, k ≠ n * 8 + q → tabGet {} t.tqs k = tabGet {} s.tqs k) ∧
         Only [.bar2, .out, .tqs] s t) ∧
  (∀ (s : State) (k f d : Nat),
     s.ringRuns k = true →
     k ≤ 32 →
     (s.ring k).firstAt = some f →
     s.regFld (drPage k + 0x70) 16 16 = d →
     d ≠ 0 →
     f + d * 200 ≤ s.now →
     s.regBit (drPage k + 0x14) 0 = true →
     bitOf (s.bar2Reg (bar2At (s.drOwner k) ((32 + k) * 16 + 12))) 0 = false →
       ∃ t, exec (.intModDelay 16 k) s = .next t ∧
         t.out = s.out ++ [.msix (s.drOwner k) (32 + k)] ∧
         t.ring k = { s.ring k with since := 0, firstAt := none } ∧
         (∀ j, j ≠ k → t.ring j = s.ring j) ∧
         Only [.out, .rings] s t) ∧
  (∀ (s : State) (n q left : Nat) (val : Word) (tags : List Nat),
     n < 16 →
     q < 8 →
     s.takes 0x08 n 8 (0x100 + 8 * n + q) 0x6C = true →
     bitOf val 0 = true →
     left = min (cntSub (s.reg (tqPage n q + 0x54)).toNat (s.reg (tqPage n q + 0x58)).toNat) (s.tqSize n q) →
       ∃ t, exec (.abortAll n n q val tags) s = .next t ∧
         (∀ e ∈ (t.tq n q).entries, e.st = 3 ∧ e.status = 0x0301) ∧
         (t.tq n q).entries.map (fun e => e.tag) = (s.tq n q).entries.map (fun e => e.tag) ++ (List.range left).map (fun i => tags.getD i 0 % 2 ^ 64) ∧
         t.reg (tqPage n q + 0x58) = s.reg (tqPage n q + 0x58) + BitVec.ofNat 32 left ∧
         (∀ k, k ≠ n * 8 + q → tabGet {} t.tqs k = tabGet {} s.tqs k) ∧
         Only [.regs, .back, .bar2, .out, .ram, .hmem, .slotRings, .cancels, .tqs, .sched, .dqs, .cores, .cmbs, .engs, .mmus, .poison] s t)

/-- The dailies writer puts a record at REC_TAIL; the export sender sends within the window, frees on ACK, resends after 1 ms and times
out after 64 resends. (06_host_takes.md R125, 06_host_takes.md R126, 06_host_takes.md R134, 06_host_takes.md R135) -/
def Obligations.DailiesWriterAndExport : Prop :=
  (∀ (s m : State) (d tail : Nat) (b : List Byte),
     s.ringRuns d = true →
     s.drNet d = false →
     (s.ring d).queue = [{ body := b }] →
     b.length = 64 →
     (s.reg (drPage d + 0x60)).toNat = tail →
     1 ≤ s.recFree d →
     64 ≤ s.recBytes d →
     s.taWrite (s.drOwner d) .ringHost (s.wide (drPage d + 0x48) + tail % (s.recBytes d / 64) * 64) (patch b 4 (leBytes 4 (s.ring d).seq)) = (m, none) →
       ∃ t, exec (.dailiesWrite d) s = .next t ∧
         t.reg (drPage d + 0x60) = BitVec.ofNat 32 (tail + 1) ∧
         (t.ring d).queue = [] ∧
         (t.ring d).seq = ((s.ring d).seq + 1) % 2 ^ 32 ∧
         (t.ring d).phase = (if s.recBytes d / 64 ≤ tail % (s.recBytes d / 64) + 1 then !(s.ring d).phase else (s.ring d).phase) ∧
         t.hmem = m.hmem ∧
         t.ram = m.ram ∧
         t.latched (drPage d) 0 = true ∧
         (∀ j, j ≠ d → t.ring j = s.ring j) ∧
         Only [.regs, .bar2, .out, .ram, .hmem, .rings, .poison] s t ∧
         PagesBut [drPage d, pg 8 6] s t) ∧
  (∀ (s : State) (d n : Nat) (b : List Byte),
     let x := s.ring d
     s.ringRuns d = true →
     s.drNet d = true →
     n = min (s.exportMax d) (min (x.total - x.sentTo) (x.acked + x.window - x.sentTo)) →
     0 < n →
     s.readParts d (x.spans.flatMap (fun y => y.parts)) (x.sentTo - x.oldest) n = (b, none) →
       ∃ t, exec (.exportData d) s = .next t ∧
         (t.ring d).sent = x.sent ++ [(x.psn, x.sentTo, n)] ∧
         (t.ring d).psn = (x.psn + 1) % 2 ^ 32 ∧
         (t.ring d).sentTo = x.sentTo + n ∧
         t.out = s.out ++ [.etherFrame (s.regFld (drPage d + 0x78) 0 1) (s.netFrame d (dataFrameBytes d s.pkg x.psn x.sentTo false b))] ∧
         (∀ j, j ≠ d → t.ring j = s.ring j) ∧
         Only [.out, .rings] s t) ∧
  (∀ (s : State) (d window a : Nat) (f : Nat × Nat × Nat) (fs : List (Nat × Nat × Nat)) (y : Span),
     s.ringRuns d = true →
     s.drNet d = true →
     (s.ring d).sent = f :: fs →
     f.1 < 2 ^ 32 →
     a = (fs.head?.map (fun g => g.2.1)).getD (s.ring d).sentTo →
     (s.ring d).spans = [y] →
       ∃ t, exec (.exportAck d ((f.1 + 1) % 2 ^ 32) window) s = .next t ∧
         (t.ring d).sent = fs ∧
         (t.ring d).acked = a ∧
         (t.ring d).window = window % 2 ^ 32 ∧
         (t.ring d).resends = 0 ∧
         (t.ring d).progress = s.now ∧
         (y.stop ≤ a → (t.ring d).spans = [] ∧ t.reg (drPage d + 0x64) = BitVec.ofNat 32 y.recTo) ∧
         (a < y.stop → (t.ring d).spans = [y] ∧ t.reg (drPage d + 0x64) = s.reg (drPage d + 0x64)) ∧
         (∀ j, j ≠ d → t.ring j = s.ring j) ∧
         Only [.regs, .bar2, .out, .rings, .strms] s t) ∧
  (∀ (s : State) (d : Nat),
     let x := s.ring d
     s.ringRuns d = true →
     s.drNet d = true →
     x.sent ≠ [] →
     x.progress + 200000 ≤ s.now →
     x.resends < 64 →
     x.sent.all (fun f => (s.readParts d (x.spans.flatMap (fun y => y.parts)) (f.2.1 - x.oldest) f.2.2).2.isNone) = true →
       ∃ t, exec (.exportRetry d) s = .next t ∧
         (t.ring d) = { x with resends := x.resends + 1, progress := s.now } ∧
         t.out.take (s.out.length + x.sent.length) = s.out ++ x.sent.map (fun f => .etherFrame (s.regFld (drPage d + 0x78) 0 1) (s.netFrame d (dataFrameBytes d s.pkg f.1 f.2.1 true (s.readParts d (x.spans.flatMap (fun y => y.parts)) (f.2.1 - x.oldest) f.2.2).1))) ∧
         t.latched (drPage d) 2 = true ∧
         (∀ j, j ≠ d → t.ring j = s.ring j) ∧
         Only [.regs, .bar2, .out, .rings] s t ∧
         RegsBut (evtRegs (drPage d)) s t) ∧
  (∀ (s : State) (d : Nat),
     s.ringRuns d = true →
     s.drNet d = true →
     (s.ring d).sent ≠ [] →
     (s.ring d).progress + 200000 ≤ s.now →
     64 ≤ (s.ring d).resends →
       ∃ t, exec (.exportRetry d) s = .next t ∧
         t.st (drPage d) = 5 ∧
         t.latched (drPage d) 26 = true ∧
         Only [.regs, .bar2, .out] s t ∧
         RegsBut (faultRegs (drPage d)) s t)

/-- EW, ACT, CONVERT, REDUCE, NORM and SOFTMAX write each row of their function of the operands and nothing else, at their cycle cost.
(07_neural_core.md R144, 07_neural_core.md R147, 07_neural_core.md R148, 07_neural_core.md R149, 07_neural_core.md R150) -/
def Obligations.ElementwiseVectorOpsWriteTheirRows : Prop :=
  (∀ (s : State) (site core : Nat) (w : Work) (y : Slate) (ps : List (Nat × Nat)),
     let o := s.presentOp site core y
     let rb := runBytes o.fw (if o.k = 2 then 1 else o.n)
     let sb := if o.k = 1 then 0 else if o.k = 2 then rb else o.sa * fmtBits o.fw / fmtBits o.fa
     let base := ps.getD 3 (0, 0)
     s.atOp site core 0x10 w y = true →
     (!o.resv && decide (o.fa ≤ 7) && decide (o.fo ≤ 7) && decide (o.sub ≤ 4) && decide (o.fw ≤ 7) && decide (o.k ≤ 2)) = true →
     s.operandsAt site core y.cont (vecOps o (span o.m (runBytes o.fa o.n) o.sa) (span o.m rb sb) (0) (span o.m (runBytes o.fo o.n) o.so)) ps = true →
       ∃ t, exec (.ew site core) s = .next t ∧
         s.opRan t site core (16 + cdiv (o.m * o.n) 64 * wideFactor [o.fa, o.fw, o.fo]) o (s.ringEpochs site core o) = true ∧
         (∀ r, r < o.m → runBytes o.fo (o.n) ≤ o.so → t.ramGet base.1 (base.2 + r * o.so) (runBytes o.fo (o.n)) = packElems o.fo (((List.range o.n).map (fun i => ewNum o.sub ((s.rowOf o.fa (ps.getD 0 (0, 0)) (r * o.sa) o.n).getD i (.int 0)) ((s.rowOf o.fw (ps.getD 1 (0, 0)) (r * sb) (if o.k = 2 then 1 else o.n)).getD (if o.k = 2 then 0 else i) (.int 0)))).map (fun v => (convertNum o.fo o.satFin v).1))) ∧
         Only [.regs, .bar2, .out, .ram, .cores, .poison] s t ∧
         PagesBut [corePage site core, pg 8 6] s t ∧
         RamBut (ramKey base.1 base.2) (span o.m (runBytes o.fo o.n) o.so) s t) ∧
  (∀ (s : State) (site core : Nat) (w : Work) (y : Slate) (ps : List (Nat × Nat)),
     let o := s.presentOp site core y
     let base := ps.getD 3 (0, 0)
     s.atOp site core 0x11 w y = true →
     (!o.resv && decide (o.fa ≤ 7) && decide (o.fo ≤ 7) && decide (o.sub ≤ 7)) = true →
     s.operandsAt site core y.cont (vecOps o (span o.m (runBytes o.fa o.n) o.sa) (0) (0) (span o.m (runBytes o.fo o.n) o.so)) ps = true →
       ∃ t, exec (.act site core) s = .next t ∧
         (s.opRan t site core (16 + cdiv (o.m * o.n) 64 * (if o.sub ≤ 2 then 1 else 2)) o (s.ringEpochs site core o) = true) ∧
         (∀ r, r < o.m → runBytes o.fo (o.n) ≤ o.so → t.ramGet base.1 (base.2 + r * o.so) (runBytes o.fo (o.n)) = packElems o.fo (((s.rowOf o.fa (ps.getD 0 (0, 0)) (r * o.sa) o.n).map (actNum o.sub o.mult)).map (fun v => (convertNum o.fo o.satFin v).1))) ∧
         Only [.regs, .bar2, .out, .ram, .cores, .poison] s t ∧
         PagesBut [corePage site core, pg 8 6] s t ∧
         RamBut (ramKey base.1 base.2) (span o.m (runBytes o.fo o.n) o.so) s t) ∧
  (∀ (s : State) (site core : Nat) (w : Work) (y : Slate) (ps : List (Nat × Nat)),
     let o := s.presentOp site core y
     let base := ps.getD 3 (0, 0)
     s.atOp site core 0x12 w y = true →
     (!o.resv && decide (o.fa ≤ 7) && decide (o.fo ≤ 7) && o.sub == 0) = true →
     s.operandsAt site core y.cont (vecOps o (span o.m (runBytes o.fa o.n) o.sa) (0) (if o.fa = 7 ∧ o.fo = 0 then paramLen o o.n else 0) (span o.m (runBytes o.fo o.n) o.so)) ps = true →
       ∃ t, exec (.convert site core) s = .next t ∧
         s.opRan t site core (16 + cdiv (o.m * o.n) 64 * wideFactor [o.fa, o.fo]) o (s.ringEpochs site core o) = true ∧
         (∀ r, r < o.m → runBytes o.fo (o.n) ≤ o.so → t.ramGet base.1 (base.2 + r * o.so) (runBytes o.fo (o.n)) = packElems o.fo (((List.range o.n).map (fun i => s.requant o (ps.getD 0 (0, 0)) (ps.getD 2 (0, 0)) r i)).map (fun v => (convertNum o.fo o.satFin v).1))) ∧
         Only [.regs, .bar2, .out, .ram, .cores, .poison] s t ∧
         PagesBut [corePage site core, pg 8 6] s t ∧
         RamBut (ramKey base.1 base.2) (span o.m (runBytes o.fo o.n) o.so) s t) ∧
  (∀ (s : State) (site core : Nat) (w : Work) (y : Slate) (ps : List (Nat × Nat)),
     let o := s.presentOp site core y
     let base := ps.getD 3 (0, 0)
     s.atOp site core 0x15 w y = true →
     (!o.resv && decide (o.fa ≤ 7) && decide (o.fo ≤ 7) && decide (o.sub ≤ 2)) = true →
     s.operandsAt site core y.cont (vecOps o (span o.m (runBytes o.fa o.n) o.sa) (0) (0) (span o.m (runBytes o.fo 1) o.so)) ps = true →
       ∃ t, exec (.reduce site core) s = .next t ∧
         s.opRan t site core (16 + o.m * (cdiv o.n 64 + 6)) o (s.ringEpochs site core o) = true ∧
         (∀ r, r < o.m → runBytes o.fo (1) ≤ o.so → t.ramGet base.1 (base.2 + r * o.so) (runBytes o.fo (1)) = packElems o.fo (([reduceRow o.sub (s.rowOf o.fa (ps.getD 0 (0, 0)) (r * o.sa) o.n)]).map (fun v => (convertNum o.fo o.satFin v).1))) ∧
         Only [.regs, .bar2, .out, .ram, .cores, .poison] s t ∧
         PagesBut [corePage site core, pg 8 6] s t ∧
         RamBut (ramKey base.1 base.2) (span o.m (runBytes o.fo 1) o.so) s t) ∧
  (∀ (s : State) (site core : Nat) (w : Work) (y : Slate) (ps : List (Nat × Nat)),
     let o := s.presentOp site core y
     let base := ps.getD 3 (0, 0)
     s.atOp site core 0x13 w y = true →
     (!o.resv && decide (o.fa ≤ 7) && decide (o.fo ≤ 7) && decide (o.sub ≤ 1)) = true →
     s.operandsAt site core y.cont (vecOps o (span o.m (runBytes o.fa o.n) o.sa) (0) (8 * o.n) (span o.m (runBytes o.fo o.n) o.so)) ps = true →
       ∃ t, exec (.norm site core) s = .next t ∧
         s.opRan t site core (16 + o.m * (3 * cdiv o.n 64 + 12)) o (s.ringEpochs site core o) = true ∧
         (∀ r, r < o.m → runBytes o.fo (o.n) ≤ o.so → t.ramGet base.1 (base.2 + r * o.so) (runBytes o.fo (o.n)) = packElems o.fo (((normRow o.sub o.mult ((List.range o.n).map (fun i => s.elem 6 (ps.getD 2 (0, 0)) 0 i)) ((List.range o.n).map (fun i => s.elem 6 (ps.getD 2 (0, 0)) 0 (o.n + i))) ((s.rowOf o.fa (ps.getD 0 (0, 0)) (r * o.sa) o.n).map Num.bits)).map ofF).map (fun v => (convertNum o.fo o.satFin v).1))) ∧
         Only [.regs, .bar2, .out, .ram, .cores, .poison] s t ∧
         PagesBut [corePage site core, pg 8 6] s t ∧
         RamBut (ramKey base.1 base.2) (span o.m (runBytes o.fo o.n) o.so) s t) ∧
  (∀ (s : State) (site core : Nat) (w : Work) (y : Slate) (ps : List (Nat × Nat)),
     let o := s.presentOp site core y
     let base := ps.getD 3 (0, 0)
     s.atOp site core 0x14 w y = true →
     (!o.resv && decide (o.fa ≤ 7) && decide (o.fo ≤ 7) && o.sub == 0) = true →
     s.operandsAt site core y.cont (vecOps o (span o.m (runBytes o.fa o.n) o.sa) (0) (0) (span o.m (runBytes o.fo o.n) o.so)) ps = true →
       ∃ t, exec (.softmax site core) s = .next t ∧
         s.opRan t site core (16 + o.m * (4 * cdiv o.n 64 + 20)) o (s.ringEpochs site core o) = true ∧
         (∀ r, r < o.m → runBytes o.fo (o.n) ≤ o.so → t.ramGet base.1 (base.2 + r * o.so) (runBytes o.fo (o.n)) = packElems o.fo (((softRow o.mult (if o.dyn then min o.n (s.workDyn o.dynIdx w) else o.n) ((s.rowOf o.fa (ps.getD 0 (0, 0)) (r * o.sa) o.n).map Num.bits)).map ofF).map (fun v => (convertNum o.fo o.satFin v).1))) ∧
         Only [.regs, .bar2, .out, .ram, .cores, .poison] s t ∧
         PagesBut [corePage site core, pg 8 6] s t ∧
         RamBut (ramKey base.1 base.2) (span o.m (runBytes o.fo o.n) o.so) s t)

/-- POOL, DWCONV, TRANSPOSE, GATHER and COPY write each row of their output and nothing else, at their cycle cost. (07_neural_core.md
R144, 07_neural_core.md R147, 07_neural_core.md R149, 07_neural_core.md R150) -/
def Obligations.ShapedVectorOpsWriteTheirRows : Prop :=
  (∀ (s : State) (site core : Nat) (w : Work) (y : Slate) (ps : List (Nat × Nat)),
     let o := s.presentOp site core y
     let base := ps.getD 3 (0, 0)
     s.atOp site core 0x18 w y = true →
     (!o.resv && decide (o.fa ≤ 7) && decide (o.fo ≤ 7) && o.sub == 0) = true →
     s.operandsAt site core y.cont (vecOps o (span o.m (runBytes o.fa o.n) o.sa) (0) (0) (span o.n (runBytes o.fo o.m) o.so)) ps = true →
       ∃ t, exec (.transpose site core) s = .next t ∧
         s.opRan t site core (16 + 2 * cdiv (o.m * o.n) 64) o (s.ringEpochs site core o) = true ∧
         (∀ r, r < o.n → runBytes o.fo (o.m) ≤ o.so → t.ramGet base.1 (base.2 + r * o.so) (runBytes o.fo (o.m)) = packElems o.fo (((List.range o.m).map (fun j => numOf o.fa (s.elem o.fa (ps.getD 0 (0, 0)) (j * o.sa) r))).map (fun v => (convertNum o.fo o.satFin v).1))) ∧
         Only [.regs, .bar2, .out, .ram, .cores, .poison] s t ∧
         PagesBut [corePage site core, pg 8 6] s t ∧
         RamBut (ramKey base.1 base.2) (span o.n (runBytes o.fo o.m) o.so) s t) ∧
  (∀ (s : State) (site core : Nat) (w : Work) (y : Slate) (ps : List (Nat × Nat)),
     let o := s.presentOp site core y
     let ph := o.geom.getD 6 0
     let pw := o.geom.getD 7 0
     let pad := numOf o.fa (o.mult % 2 ^ fmtBits o.fa)
     let base := ps.getD 3 (0, 0)
     s.atOp site core 0x1A w y = true →
     (!o.resv && decide (o.fa ≤ 7) && decide (o.fo ≤ 7) && o.sub == 0) = true →
     s.operandsAt site core y.cont (vecOps o (span o.m (runBytes o.fa o.n) o.sa) (0) (0) (span (o.m + 2 * ph) (runBytes o.fo (o.n + 2 * pw)) o.so)) ps = true →
       ∃ t, exec (.copy site core) s = .next t ∧
         s.opRan t site core (16 + cdiv ((o.m + 2 * ph) * (o.n + 2 * pw)) 64 * wideFactor [o.fa, o.fo]) o (s.ringEpochs site core o) = true ∧
         (∀ r, r < o.m + 2 * ph → runBytes o.fo (o.n + 2 * pw) ≤ o.so → t.ramGet base.1 (base.2 + r * o.so) (runBytes o.fo (o.n + 2 * pw)) = packElems o.fo ((if r < ph ∨ ph + o.m ≤ r then List.replicate (o.n + 2 * pw) pad else List.replicate pw pad ++ s.rowOf o.fa (ps.getD 0 (0, 0)) ((r - ph) * o.sa) o.n ++ List.replicate pw pad).map (fun v => (convertNum o.fo o.satFin v).1))) ∧
         Only [.regs, .bar2, .out, .ram, .cores, .poison] s t ∧
         PagesBut [corePage site core, pg 8 6] s t ∧
         RamBut (ramKey base.1 base.2) (span (o.m + 2 * ph) (runBytes o.fo (o.n + 2 * pw)) o.so) s t) ∧
  (∀ (s : State) (site core : Nat) (w : Work) (y : Slate) (sp at_ room : Nat) (ps : List (Nat × Nat)),
     let o := s.presentOp site core y
     let base := ps.getD 3 (0, 0)
     s.atOp site core 0x19 w y = true →
     (!o.resv && decide (o.fa ≤ 7) && decide (o.fo ≤ 7) && o.sub == 0) = true →
     s.place site core y.cont o.w false = .at_ sp at_ room →
     s.operandsAt site core y.cont (vecOps o ((((List.range o.m).map (fun r => s.elem 7 (sp, at_) 0 r)).foldl max 0) * o.sa + runBytes o.fa o.n) (4 * o.m) (0) (span o.m (runBytes o.fo o.n) o.so)) ps = true →
       ∃ t, exec (.gather site core) s = .next t ∧
         s.opRan t site core (16 + o.m * (cdiv o.n 64 + 2)) o (s.ringEpochs site core o) = true ∧
         (∀ r, r < o.m → runBytes o.fo (o.n) ≤ o.so → t.ramGet base.1 (base.2 + r * o.so) (runBytes o.fo (o.n)) = packElems o.fo ((s.rowOf o.fa (ps.getD 0 (0, 0)) (s.elem 7 (sp, at_) 0 r * o.sa) o.n).map (fun v => (convertNum o.fo o.satFin v).1))) ∧
         Only [.regs, .bar2, .out, .ram, .cores, .poison] s t ∧
         PagesBut [corePage site core, pg 8 6] s t ∧
         RamBut (ramKey base.1 base.2) (span o.m (runBytes o.fo o.n) o.so) s t) ∧
  (∀ (s : State) (site core : Nat) (w : Work) (y : Slate) (ps : List (Nat × Nat)),
     let o := s.presentOp site core y
     let v := winOf o
     let base := ps.getD 3 (0, 0)
     s.atOp site core 0x16 w y = true →
     (!o.resv && decide (o.fa ≤ 7) && decide (o.fo ≤ 7) && decide (o.sub ≤ 1) && winOk v 8 8) = true →
     s.operandsAt site core y.cont (vecOps o (span v.h (runBytes o.fa (v.w * o.n)) o.sa) (0) (0) (span (cdiv o.m (max 1 v.wo)) (runBytes o.fo (v.wo * o.n)) o.so)) ps = true →
       ∃ t, exec (.pool site core) s = .next t ∧
         s.opRan t site core (16 + cdiv (o.m * o.n) 64 * (v.kh * v.kw)) o (s.ringEpochs site core o) = true ∧
         (∀ r, r < cdiv o.m (max 1 v.wo) → runBytes o.fo (min v.wo (o.m - r * v.wo) * o.n) ≤ o.so → t.ramGet base.1 (base.2 + r * o.so) (runBytes o.fo (min v.wo (o.m - r * v.wo) * o.n)) = packElems o.fo (((List.range (min v.wo (o.m - r * v.wo))).flatMap (fun x => (List.range o.n).map (fun ch => poolNum (isIntFmt o.fa) o.sub (v.kh * v.kw) (s.window o v (ps.getD 0 (0, 0)) (r * v.wo + x) ch)))).map (fun v => (convertNum o.fo o.satFin v).1))) ∧
         Only [.regs, .bar2, .out, .ram, .cores, .poison] s t ∧
         PagesBut [corePage site core, pg 8 6] s t ∧
         RamBut (ramKey base.1 base.2) (span (cdiv o.m (max 1 v.wo)) (runBytes o.fo (v.wo * o.n)) o.so) s t) ∧
  (∀ (s : State) (site core : Nat) (w : Work) (y : Slate) (ps : List (Nat × Nat)),
     let o := s.presentOp site core y
     let v := winOf o
     let base := ps.getD 3 (0, 0)
     s.atOp site core 0x17 w y = true →
     (!o.resv && decide (o.fa ≤ 7) && decide (o.fo ≤ 7) && o.sub == 0 && decide (o.fw ≤ 7) && winOk v 7 4) = true →
     s.operandsAt site core y.cont (vecOps o (span v.h (runBytes o.fa (v.w * o.n)) o.sa) (runBytes o.fw (v.kh * v.kw * o.n)) (if o.bias then 4 * o.n else 0) (span (cdiv o.m (max 1 v.wo)) (runBytes o.fo (v.wo * o.n)) o.so)) ps = true →
       ∃ t, exec (.dwconv site core) s = .next t ∧
         s.opRan t site core (16 + cdiv (o.m * o.n) 64 * (v.kh * v.kw)) o (s.ringEpochs site core o) = true ∧
         (∀ r, r < cdiv o.m (max 1 v.wo) → runBytes o.fo (min v.wo (o.m - r * v.wo) * o.n) ≤ o.so → t.ramGet base.1 (base.2 + r * o.so) (runBytes o.fo (min v.wo (o.m - r * v.wo) * o.n)) = packElems o.fo (((List.range (min v.wo (o.m - r * v.wo))).flatMap (fun x => (List.range o.n).map (fun ch => dwNum (isIntFmt o.fa && isIntFmt o.fw) (if o.bias then some (s.elem 7 (ps.getD 2 (0, 0)) 0 ch) else none) (s.window o v (ps.getD 0 (0, 0)) (r * v.wo + x) ch) ((List.range (v.kh * v.kw)).map (fun i => numOf o.fw (s.elem o.fw (ps.getD 1 (0, 0)) 0 (i * o.n + ch))))))).map (fun v => (convertNum o.fo o.satFin v).1))) ∧
         Only [.regs, .bar2, .out, .ram, .cores, .poison] s t ∧
         PagesBut [corePage site core, pg 8 6] s t ∧
         RamBut (ramKey base.1 base.2) (span (cdiv o.m (max 1 v.wo)) (runBytes o.fo (v.wo * o.n)) o.so) s t)

/-- MATMUL, MATMUL_ACT and CONV2D fill their output region at their cycle cost, a leaf of a combine tree its partials; an INT8 MATMUL
writes each requantised accumulator. (07_neural_core.md R140, 07_neural_core.md R142, 07_neural_core.md R145, 07_neural_core.md R149,
08_tiling.md R160, 08_tiling.md R171, 08_tiling.md R172) -/
def Obligations.ArrayOpsWriteRequantisedProducts : Prop :=
  (∀ (s : State) (site core : Nat) (w : Work) (y : Slate) (ps : List (Nat × Nat)),
     let o := s.presentOp site core y
     let sh := s.shapeOf w y.cont (s.core site core).loc (s.core site core).layer (s.core site core).pc o
     let base := ps.getD 3 (0, 0)
     s.atOp site core 0x01 w y = true →
     isLeaf y.cont (s.core site core).layer (s.core site core).loc = false →
     arrayOk o = true →
     s.operandsAt site core y.cont (arrayOps o sh false) ps = true →
     o.fa = 0 →
     o.fo = 0 →
     sh.g = 1 →
     o.n ≤ o.so →
       ∃ t, exec (.matmul site core) s = .next t ∧
         (s.setCore site core { s.core site core with accs := s.accsOf o sh (ps.getD 0 (0, 0)) (ps.getD 1 (0, 0)), wregs := s.wregsOf o sh (ps.getD 1 (0, 0)) }).opRan t site core (arrayCost o sh) o (s.ringEpochs site core o) = true ∧
         (∀ r j, r < sh.ml → j < sh.nl → 0 < sh.kl → t.ramGet base.1 (base.2 + r * o.so + j) 1 = leBytes 1 (outEntry true 0 o.satFin o.bias (s.arrayEntry o sh (ps.getD 0 (0, 0)) (ps.getD 1 (0, 0)) 0 r j).1 (s.colParam o (ps.getD 2 (0, 0)) sh.n j).1 (s.colParam o (ps.getD 2 (0, 0)) sh.n j).2.1 (s.colParam o (ps.getD 2 (0, 0)) sh.n j).2.2 (BitVec.ofNat 8 o.zp).toInt).1) ∧
         Only [.regs, .bar2, .out, .ram, .cores, .poison] s t ∧
         PagesBut [corePage site core, pg 8 6] s t ∧
         RamBut (ramKey base.1 base.2) (((arrayOps o sh false).getD 3 {}).len) s t) ∧
  (∀ (s : State) (site core : Nat) (w : Work) (y : Slate) (ps : List (Nat × Nat)),
     let o := s.presentOp site core y
     let sh := s.shapeOf w y.cont (s.core site core).loc (s.core site core).layer (s.core site core).pc o
     let base := ps.getD 3 (0, 0)
     s.atOp site core 0x01 w y = true →
     isLeaf y.cont (s.core site core).layer (s.core site core).loc = false →
     arrayOk o = true →
     s.operandsAt site core y.cont (arrayOps o sh false) ps = true →
       ∃ t, exec (.matmul site core) s = .next t ∧
         (s.setCore site core { s.core site core with accs := s.accsOf o sh (ps.getD 0 (0, 0)) (ps.getD 1 (0, 0)), wregs := s.wregsOf o sh (ps.getD 1 (0, 0)) }).opRan t site core (arrayCost o sh) o (s.ringEpochs site core o) = true ∧
         Only [.regs, .bar2, .out, .ram, .cores, .poison] s t ∧
         PagesBut [corePage site core, pg 8 6] s t ∧
         RamBut (ramKey base.1 base.2) (((arrayOps o sh false).getD 3 {}).len) s t) ∧
  (∀ (s : State) (site core : Nat) (w : Work) (y : Slate) (ps : List (Nat × Nat)),
     let o := s.presentOp site core y
     let sh := s.shapeOf w y.cont (s.core site core).loc (s.core site core).layer (s.core site core).pc o
     let base := ps.getD 3 (0, 0)
     s.atOp site core 0x02 w y = true →
     isLeaf y.cont (s.core site core).layer (s.core site core).loc = false →
     arrayOk o = true →
     s.operandsAt site core y.cont (arrayOps o sh false) ps = true →
     o.fa = 0 →
     o.fo = 0 →
     sh.g = 1 →
     o.n ≤ o.so →
       ∃ t, exec (.matmulAct site core) s = .next t ∧
         (s.setCore site core { s.core site core with accs := s.accsOf o sh (ps.getD 0 (0, 0)) (ps.getD 1 (0, 0)), wregs := s.wregsOf o sh (ps.getD 1 (0, 0)) }).opRan t site core (arrayCost o sh) o (s.ringEpochs site core o) = true ∧
         (∀ r j, r < sh.ml → j < sh.nl → 0 < sh.kl → t.ramGet base.1 (base.2 + r * o.so + j) 1 = leBytes 1 (outEntry true 0 o.satFin o.bias (s.arrayEntry o sh (ps.getD 0 (0, 0)) (ps.getD 1 (0, 0)) 0 r j).1 (s.colParam o (ps.getD 2 (0, 0)) sh.n j).1 (s.colParam o (ps.getD 2 (0, 0)) sh.n j).2.1 (s.colParam o (ps.getD 2 (0, 0)) sh.n j).2.2 (BitVec.ofNat 8 o.zp).toInt).1) ∧
         Only [.regs, .bar2, .out, .ram, .cores, .poison] s t ∧
         PagesBut [corePage site core, pg 8 6] s t ∧
         RamBut (ramKey base.1 base.2) (((arrayOps o sh false).getD 3 {}).len) s t) ∧
  (∀ (s : State) (site core : Nat) (w : Work) (y : Slate) (ps : List (Nat × Nat)),
     let o := s.presentOp site core y
     let sh := s.shapeOf w y.cont (s.core site core).loc (s.core site core).layer (s.core site core).pc o
     let base := ps.getD 3 (0, 0)
     s.atOp site core 0x02 w y = true →
     isLeaf y.cont (s.core site core).layer (s.core site core).loc = false →
     arrayOk o = true →
     s.operandsAt site core y.cont (arrayOps o sh false) ps = true →
       ∃ t, exec (.matmulAct site core) s = .next t ∧
         (s.setCore site core { s.core site core with accs := s.accsOf o sh (ps.getD 0 (0, 0)) (ps.getD 1 (0, 0)), wregs := s.wregsOf o sh (ps.getD 1 (0, 0)) }).opRan t site core (arrayCost o sh) o (s.ringEpochs site core o) = true ∧
         Only [.regs, .bar2, .out, .ram, .cores, .poison] s t ∧
         PagesBut [corePage site core, pg 8 6] s t ∧
         RamBut (ramKey base.1 base.2) (((arrayOps o sh false).getD 3 {}).len) s t) ∧
  (∀ (s : State) (site core : Nat) (w : Work) (y : Slate) (ps : List (Nat × Nat)),
     let o := s.presentOp site core y
     let sh := s.shapeOf w y.cont (s.core site core).loc (s.core site core).layer (s.core site core).pc o
     let base := ps.getD 3 (0, 0)
     s.atOp site core 0x03 w y = true →
     isLeaf y.cont (s.core site core).layer (s.core site core).loc = false →
     arrayOk o = true →
     s.operandsAt site core y.cont (arrayOps o sh false) ps = true →
       ∃ t, exec (.conv2d site core) s = .next t ∧
         (s.setCore site core { s.core site core with accs := s.accsOf o sh (ps.getD 0 (0, 0)) (ps.getD 1 (0, 0)), wregs := s.wregsOf o sh (ps.getD 1 (0, 0)) }).opRan t site core (arrayCost o sh) o (s.ringEpochs site core o) = true ∧
         Only [.regs, .bar2, .out, .ram, .cores, .poison] s t ∧
         PagesBut [corePage site core, pg 8 6] s t ∧
         RamBut (ramKey base.1 base.2) (((arrayOps o sh false).getD 3 {}).len) s t) ∧
  (∀ (s : State) (site core : Nat) (w : Work) (y : Slate) (ps : List (Nat × Nat)),
     let x := s.core site core
     let o := leafView y.cont x.layer (s.presentOp site core y)
     let sh := s.shapeOf w y.cont x.loc x.layer x.pc o
     let ts := (liveTiles o sh).map (fun n => (tileBase y.cont x.loc x.layer x.pc + n, (s.tileEntries o sh (ps.getD 0 (0, 0)) (ps.getD 1 (0, 0)) n).map (fun e => BitVec.ofNat 32 e.1)))
     s.atOp site core 0x01 w y = true →
     isLeaf y.cont x.layer x.loc = true →
     arrayOk o = true →
     s.operandsAt site core y.cont (arrayOps o sh true) ps = true →
       ∃ t, exec (.matmul site core) s = .next t ∧
         (s.setCore site core { x with accs := s.accsOf o sh (ps.getD 0 (0, 0)) (ps.getD 1 (0, 0)), wregs := s.wregsOf o sh (ps.getD 1 (0, 0)), partials := x.partials ++ ts }).opRan t site core (arrayCost o sh) { o with out := 0 } (s.ringEpochs site core o) = true ∧
         Only [.regs, .bar2, .out, .cores] s t ∧
         PagesBut [corePage site core, pg 8 6] s t) ∧
  (∀ (s : State) (site core : Nat) (w : Work) (y : Slate) (ps : List (Nat × Nat)),
     let x := s.core site core
     let o := leafView y.cont x.layer (s.presentOp site core y)
     let sh := s.shapeOf w y.cont x.loc x.layer x.pc o
     let ts := (liveTiles o sh).map (fun n => (tileBase y.cont x.loc x.layer x.pc + n, (s.tileEntries o sh (ps.getD 0 (0, 0)) (ps.getD 1 (0, 0)) n).map (fun e => BitVec.ofNat 32 e.1)))
     s.atOp site core 0x02 w y = true →
     isLeaf y.cont x.layer x.loc = true →
     arrayOk o = true →
     s.operandsAt site core y.cont (arrayOps o sh true) ps = true →
       ∃ t, exec (.matmulAct site core) s = .next t ∧
         (s.setCore site core { x with accs := s.accsOf o sh (ps.getD 0 (0, 0)) (ps.getD 1 (0, 0)), wregs := s.wregsOf o sh (ps.getD 1 (0, 0)), partials := x.partials ++ ts }).opRan t site core (arrayCost o sh) { o with out := 0 } (s.ringEpochs site core o) = true ∧
         Only [.regs, .bar2, .out, .cores] s t ∧
         PagesBut [corePage site core, pg 8 6] s t) ∧
  (∀ (s : State) (site core : Nat) (w : Work) (y : Slate) (ps : List (Nat × Nat)),
     let x := s.core site core
     let o := leafView y.cont x.layer (s.presentOp site core y)
     let sh := s.shapeOf w y.cont x.loc x.layer x.pc o
     let ts := (liveTiles o sh).map (fun n => (tileBase y.cont x.loc x.layer x.pc + n, (s.tileEntries o sh (ps.getD 0 (0, 0)) (ps.getD 1 (0, 0)) n).map (fun e => BitVec.ofNat 32 e.1)))
     s.atOp site core 0x03 w y = true →
     isLeaf y.cont x.layer x.loc = true →
     arrayOk o = true →
     s.operandsAt site core y.cont (arrayOps o sh true) ps = true →
       ∃ t, exec (.conv2d site core) s = .next t ∧
         (s.setCore site core { x with accs := s.accsOf o sh (ps.getD 0 (0, 0)) (ps.getD 1 (0, 0)), wregs := s.wregsOf o sh (ps.getD 1 (0, 0)), partials := x.partials ++ ts }).opRan t site core (arrayCost o sh) { o with out := 0 } (s.ringEpochs site core o) = true ∧
         Only [.regs, .bar2, .out, .cores] s t ∧
         PagesBut [corePage site core, pg 8 6] s t)

/-- FLAG_WAIT, FLAG_SET, CUE_PUSH, CUE_POP and DMA act on the flag, cue queue or DMA queue they name, in four cycles. (07_neural_core.md
R149, 10_data_movement.md R201, 10_data_movement.md R209, 10_data_movement.md R210, 10_data_movement.md R221) -/
def Obligations.SequencerOpsOnFlagsCuesAndQueues : Prop :=
  (∀ (s : State) (site core : Nat) (w : Work) (y : Slate),
     let o := s.presentOp site core y
     let x := s.core site core
     let f := y.flagAt (o.m / 2 ^ 16 % 2 ^ 12) (o.m % 1024)
     s.atOp site core 0x21 w y = true →
     o.sub ≤ 1 →
     o.resv = false →
     refOk y (cFlags y.cont) o.m = true →
     (if o.sub = 0 then decide (o.n ≤ s.flagValue f.1 f.2) else s.flagValue f.1 f.2 == o.n) = true →
       ∃ t, exec (.flagWait site core) s = .next t ∧
         (s.setCore site core { x with held := if x.held.contains (s.bflag f.1 f.2 / 65536) then x.held else x.held ++ [s.bflag f.1 f.2 / 65536] }).opRan t site core 4 { o with a := 0, w := 0, out := 0, param := 0 } [s.bflag f.1 f.2 / 65536] = true ∧
         Only [.regs, .cores] s t ∧
         PagesBut [corePage site core] s t) ∧
  (∀ (s : State) (site core : Nat) (w : Work) (y : Slate),
     let o := s.presentOp site core y
     let x := s.core site core
     let f := y.flagAt (o.m / 2 ^ 16 % 2 ^ 12) (o.m % 1024)
     s.atOp site core 0x21 w y = true →
     o.sub ≤ 1 →
     o.resv = false →
     refOk y (cFlags y.cont) o.m = true →
     (if o.sub = 0 then decide (o.n ≤ s.flagValue f.1 f.2) else s.flagValue f.1 f.2 == o.n) = false →
       ∃ t, exec (.flagWait site core) s = .next t ∧
         t.core site core = { x with waitFrom := some (x.waitFrom.getD s.now) } ∧
         (∀ j, j ≠ site * 256 + core → tabGet {} t.cores j = tabGet {} s.cores j) ∧
         Only [.cores] s t) ∧
  (∀ (s : State) (site core : Nat) (w : Work) (y : Slate),
     let o := s.presentOp site core y
     let x := s.core site core
     let f := y.flagAt (o.m / 2 ^ 16 % 2 ^ 12) (o.m % 1024)
     s.atOp site core 0x22 w y = true →
     o.sub ≤ 1 →
     refOk y (cFlags y.cont) o.m = true →
       ∃ t, exec (.flagSet site core) s = .next t ∧
         s.opRan t site core 4 { o with a := 0, w := 0, out := 0, param := 0 } [] = true ∧
         (s.staleCore site core = false → t.bflag f.1 f.2 = (if o.sub = 1 then s.flagValue f.1 f.2 + o.n else o.n) % 65536 + s.workEpoch w * 65536) ∧
         (s.staleCore site core = true → t.binFlags = s.binFlags) ∧
         Only [.regs, .binFlags, .cores] s t ∧
         PagesBut [corePage site core] s t) ∧
  (∀ (s : State) (site core : Nat) (w : Work) (y : Slate),
     let o := s.presentOp site core y
     let x := s.core site core
     let q := y.cueAt (o.m / 2 ^ 16 % 2 ^ 12) (o.m % 64)
     s.atOp site core 0x23 w y = true →
     o.sub = 0 →
     refOk y (cCues y.cont) (o.m / 2 ^ 16 * 2 ^ 16 + o.m % 64) = true →
     (s.cue q.1 q.2).length < 64 →
       ∃ t, exec (.cuePush site core) s = .next t ∧
         s.opRan t site core 4 { o with a := 0, w := 0, out := 0, param := 0 } [] = true ∧
         (s.staleCore site core = false → t.cue q.1 q.2 = s.cue q.1 q.2 ++ [mkHandle o.a o.n o.k (s.workEpoch w)]) ∧
         (s.staleCore site core = true → t.cueQs = s.cueQs) ∧
         Only [.regs, .cueQs, .cores] s t ∧
         PagesBut [corePage site core] s t) ∧
  (∀ (s : State) (site core : Nat) (w : Work) (y : Slate),
     let o := s.presentOp site core y
     let x := s.core site core
     let q := y.cueAt (o.m / 2 ^ 16 % 2 ^ 12) (o.m % 64)
     s.atOp site core 0x23 w y = true →
     o.sub = 0 →
     refOk y (cCues y.cont) (o.m / 2 ^ 16 * 2 ^ 16 + o.m % 64) = true →
     64 ≤ (s.cue q.1 q.2).length →
       ∃ t, exec (.cuePush site core) s = .next t ∧
         t.core site core = { x with waitFrom := some (x.waitFrom.getD s.now) } ∧
         (∀ j, j ≠ site * 256 + core → tabGet {} t.cores j = tabGet {} s.cores j) ∧
         Only [.cores] s t) ∧
  (∀ (s : State) (site core : Nat) (w : Work) (y : Slate) (h : Nat) (rest : List Nat),
     let o := s.presentOp site core y
     let x := s.core site core
     let q := y.cueAt (o.m / 2 ^ 16 % 2 ^ 12) (o.m % 64)
     s.atOp site core 0x24 w y = true →
     o.sub = 0 →
     refOk y (cCues y.cont) (o.m / 2 ^ 16 * 2 ^ 16 + o.m % 64) = true →
     s.cueLive q.1 q.2 = h :: rest →
     o.out + 8 ≤ cCs y.cont →
     o.out < 2 ^ 31 →
       ∃ t, exec (.cuePop site core) s = .next t ∧
         (s.setCore site core { x with held := [handleEpoch h] }).opRan t site core 4 { o with a := 0, w := 0, out := 0, param := 0 } [handleEpoch h] = true ∧
         t.cue q.1 q.2 = rest ∧
         t.ramGet (spCore site core) o.out 8 = leBytes 8 h ∧
         Only [.regs, .ram, .cueQs, .slates, .cores, .poison] s t ∧
         RamBut (ramKey (spCore site core) o.out) 8 s t ∧
         PagesBut [corePage site core] s t) ∧
  (∀ (s : State) (site core : Nat) (w : Work) (y : Slate),
     let o := s.presentOp site core y
     let x := s.core site core
     let q := y.cueAt (o.m / 2 ^ 16 % 2 ^ 12) (o.m % 64)
     s.atOp site core 0x24 w y = true →
     o.sub = 0 →
     refOk y (cCues y.cont) (o.m / 2 ^ 16 * 2 ^ 16 + o.m % 64) = true →
     s.cueLive q.1 q.2 = [] →
       ∃ t, exec (.cuePop site core) s = .next t ∧
         t.cue q.1 q.2 = [] ∧
         t.core site core = { x with waitFrom := some (x.waitFrom.getD s.now) } ∧
         (∀ j, j ≠ site * 256 + core → tabGet {} t.cores j = tabGet {} s.cores j) ∧
         Only [.cueQs, .cores] s t) ∧
  (∀ (s : State) (site core : Nat) (w : Work) (y : Slate),
     let o := s.presentOp site core y
     let x := s.core site core
     s.atOp site core 0x25 w y = true →
     o.sub < 4 →
     o.m < descCount y.cont x.loc →
     leAt (descAt y.cont x.loc o.m) 0 1 = 1 ∨ leAt (descAt y.cont x.loc o.m) 0 1 = 2 →
     (s.dq site core o.sub).descs.length < 16 →
       ∃ t, exec (.dma site core) s = .next t ∧
         s.opRan t site core 4 { o with a := 0, w := 0, out := 0, param := 0 } [] = true ∧
         (t.dq site core o.sub).descs.map (fun i => (i.serial, i.idx)) = (s.dq site core o.sub).descs.map (fun i => (i.serial, i.idx)) ++ [((s.dq site core o.sub).serial, o.m)] ∧
         (t.dq site core o.sub).work = some w ∧
         (t.dq site core o.sub).epoch = s.workEpoch w ∧
         (∀ j, j ≠ (site * 256 + core) * 4 + o.sub → tabGet {} t.dqs j = tabGet {} s.dqs j) ∧
         Only [.regs, .dqs, .cores] s t ∧
         PagesBut [corePage site core, mvPage site core] s t) ∧
  (∀ (s : State) (site core : Nat) (w : Work) (y : Slate),
     let o := s.presentOp site core y
     let x := s.core site core
     s.atOp site core 0x25 w y = true →
     o.sub < 4 →
     o.m < descCount y.cont x.loc →
     leAt (descAt y.cont x.loc o.m) 0 1 = 1 ∨ leAt (descAt y.cont x.loc o.m) 0 1 = 2 →
     16 ≤ (s.dq site core o.sub).descs.length →
       ∃ t, exec (.dma site core) s = .next t ∧
         t.core site core = { x with waitFrom := some (x.waitFrom.getD s.now) } ∧
         (∀ j, j ≠ site * 256 + core → tabGet {} t.cores j = tabGet {} s.cores j) ∧
         Only [.cores] s t)

/-- An op retires with its rings released and published, or overruns; a barrier holds its cores and releases them together; END ends the
core; PROF_CTL. (07_neural_core.md R149, 07_neural_core.md R150, 07_neural_core.md R151, 07_neural_core.md R154, 09_slates.md R191,
10_data_movement.md R221, 14_stripe_pipeline.md R293) -/
def Obligations.OpsRetireInOrder : Prop :=
  (∀ (s : State) (site core : Nat) (w : Work) (y : Slate) (ps : List (Nat × Nat)),
     let o := s.presentOp site core y
     let x := s.core site core
     let pl := ps.getD 0 (0, 0)
     s.atOp site core 0x20 w y = true →
     o.sub = 0 →
     o.resv = false →
     s.operandsAt site core y.cont [{ addr := o.param, len := 8 }] ps = true →
       ∃ t, exec (.barrier site core) s = .next t ∧
         t.core site core = { x with phase := 2, cost := 8, mask := leNat (s.ramGet pl.1 pl.2 8), relRings := (opRings { o with a := 0, w := 0 }).1, cycles := x.cycles + s.waited site core, waitFrom := some s.now } ∧
         (∀ j, j ≠ site * 256 + core → tabGet {} t.cores j = tabGet {} s.cores j) ∧
         Only [.regs, .cores] s t ∧
         PagesBut [corePage site core] s t) ∧
  (∀ (s : State) (site core : Nat) (w : Work) (y : Slate),
     s.inOp site core 2 w y = true →
     ((s.barrierCores site core).all (fun c => s.barrierMet w y (s.core site core) c)) = true →
     ((s.core site core).loc, site, core) ∈ s.barrierCores site core →
     ((s.barrierCores site core).map (fun c => c.2.1 * 256 + c.2.2)).Nodup →
       ∃ t, exec (.barrierRelease site core) s = .next t ∧
         (∀ c ∈ s.barrierCores site core, (t.core c.2.1 c.2.2).phase = 0 ∧ (t.core c.2.1 c.2.2).pc = (s.core c.2.1 c.2.2).pc + 1 ∧ (t.core c.2.1 c.2.2).layer = nextLayer y.cont (s.core c.2.1 c.2.2).layer ∧ (t.core c.2.1 c.2.2).partials = []) ∧
         (∀ j, j ∉ (s.barrierCores site core).map (fun c => c.2.1 * 256 + c.2.2) → tabGet {} t.cores j = tabGet {} s.cores j) ∧
         Only [.regs, .slotRings, .cores] s t) ∧
  (∀ (s : State) (site core : Nat) (w : Work) (y : Slate),
     let o := s.presentOp site core y
     let x := s.core site core
     let stale := s.staleCore site core || x.used.any (fun e => s.cancelled site e)
     let rel := x.relRings.foldl (fun s r => s.release site core r) s
     s.inOp site core 1 w y = true →
     x.cost ≤ o.bound →
       ∃ t, exec (.opRetire site core) s = .next t ∧
         t.core site core = { x with phase := 0, pc := x.pc + 1, cost := 0, relRings := [], pubRings := [], used := [], cycles := x.cycles + x.cost + Config.bankStall s.free % (o.bound + 1 - x.cost) } ∧
         (stale = true → t.slotRings = rel.slotRings) ∧
         (stale = false → t.slotRings = (x.pubRings.foldl (fun s r => s.publish site core r (s.workEpoch w)) rel).slotRings) ∧
         (∀ j, j ≠ site * 256 + core → tabGet {} t.cores j = tabGet {} s.cores j) ∧
         Only [.regs, .slotRings, .cores, .free] s t) ∧
  (∀ (s : State) (site core t0 q n ph : Nat) (y : Slate) (r : Nat) (e : Entry),
     let o := s.presentOp site core y
     ph = 1 ∨ ph = 2 →
     s.inOp site core ph (.take t0 q n) y = true →
     o.bound < (s.core site core).cost →
     s.regFld (bndPage site + 0x40) 0 6 = r →
     s.bndTaken.contains (workKey (.take t0 q n)) = false →
     s.findEntry t0 q n = some e →
       ∃ t, exec (.opOverrun site core) s = .next t ∧
         (∃ z ∈ (t.tq t0 q).entries, z.n = n ∧ z.st = 3 ∧ z.status = 0x0201 ∧ z.detail = some (r + site * 2 ^ 8 + s.pkg * 2 ^ 12)) ∧
         t.regFld (bndPage site + 0x100 + 32 * r) 0 8 = 8 ∧
         t.latched (corePage site core) 3 = true ∧
         Only [.regs, .back, .bar2, .out, .ram, .hmem, .slotRings, .slates, .cancels, .tqs, .sched, .dqs, .cores, .cmbs, .engs, .mmus, .poison, .bndTaken, .free] s t) ∧
  (∀ (s : State) (site core h ph : Nat) (y : Slate),
     let o := s.presentOp site core y
     ph = 1 ∨ ph = 2 →
     s.inOp site core ph (.stage h) y = true →
     o.bound < (s.core site core).cost →
     s.bndTaken.contains (workKey (.stage h)) = false →
     y.handle = h →
       ∃ t, exec (.opOverrun site core) s = .next t ∧
         (t.slate h).map (fun z => (z.faulted, z.running)) = some (true, false) ∧
         t.latched (corePage site core) 3 = true ∧
         Only [.regs, .back, .bar2, .out, .ram, .hmem, .slotRings, .slates, .cancels, .tqs, .sched, .dqs, .cores, .cmbs, .engs, .mmus, .poison, .bndTaken, .free] s t) ∧
  (∀ (s : State) (site core t0 q n : Nat) (y : Slate),
     let o := s.presentOp site core y
     let x := s.core site core
     s.atOp site core 0x2F (.take t0 q n) y = true →
     o.sub = 0 →
     o.resv = false →
     4 ≤ o.bound →
       ∃ t, exec (.endOp site core) s = .next t ∧
         t.core site core = { x with phase := 3, cycles := x.cycles + 4, waitFrom := some (x.waitFrom.getD s.now) } ∧
         (∀ j, j ≠ site * 256 + core → tabGet {} t.cores j = tabGet {} s.cores j) ∧
         Only [.regs, .cores] s t ∧
         PagesBut [corePage site core] s t) ∧
  (∀ (s : State) (site core h : Nat) (y : Slate) (loc : Nat),
     let o := s.presentOp site core y
     s.atOp site core 0x2F (.stage h) y = true →
     o.sub = 0 →
     o.resv = false →
     4 ≤ o.bound →
     ((List.range 4).all (fun q => (s.dq site core q).descs.isEmpty)) = true →
     y.cores = [(loc, site, core)] →
     y.handle = h →
       ∃ t, exec (.endOp site core) s = .next t ∧
         (t.slate h).map (fun z => (z.stripe, z.disp)) = some (y.stripe + 1, y.disp - 1) ∧
         (t.core site core).phase = 0 ∧
         (t.core site core).pc = 0 ∧
         Only [.regs, .bar2, .out, .slotRings, .cueQs, .binFlags, .slates, .cancels, .dqs, .cores, .cmbs, .engs] s t) ∧
  (∀ (s : State) (req site core : Nat) (val : Word),
     let p := corePage site core
     core < 64 →
     s.takes 0x40 req site (0x100 + core) 0x50 = true →
     (match (s.core site core).work with | some w => s.conf (s.workTenant w) | none => false) = false →
     val &&& 0xFFFFFFF8#32 = 0#32 →
       ∃ t, exec (.profClr req site core val) s = .next t ∧
         (bitOf val 1 = true → ∀ i, i < 16 → t.reg (p + 0x60 + 4 * i) = 0#32) ∧
         (bitOf val 1 = false → s.waited site core = 0 → ∀ i, i < 16 → t.reg (p + 0x60 + 4 * i) = s.reg (p + 0x60 + 4 * i)) ∧
         t.reg (p + 0x50) = val &&& 5#32 ∧
         Only [.regs, .cores] s t ∧
         RegsBut ((p + 0x50) :: (List.range 16).map (fun i => p + 0x60 + 4 * i)) s t)

/-- Partials arrive at their node once; a node adds LEFT and RIGHT entry by entry; strays and parity end the take. (08_tiling.md R165,
08_tiling.md R166, 08_tiling.md R167, 08_tiling.md R175, 08_tiling.md R176) -/
def Obligations.CombineTreeAddsInOrder : Prop :=
  (∀ (s : State) (site bay node tile core : Nat) (t0 q n0 : Nat) (y : Slate) (off : Nat) (n : Node) (rows : List Word),
     let c := s.core (core / 256) (core % 256)
     s.clocked site = true →
     bay < 4 →
     (s.core (core / 256) (core % 256)).work = some (.take t0 q n0) →
     s.workSlate (.take t0 q n0) = some y →
     treeOf y.cont c.layer = some off →
     (s.cmb site bay).node (.take t0 q n0) c.layer node = some n →
     s.operandRows (.take t0 q n0) y.cont c.layer off (nodeOps y.cont off node).1 tile = some rows →
     tileOf n.left tile = none →
     s.cancelled site (s.workEpoch (.take t0 q n0)) = false →
       ∃ t, exec (.partialArrive site bay node false tile core) s = .next t ∧
         (t.cmb site bay).node (.take t0 q n0) c.layer node = some { n with left := n.left ++ [(tile, rows)] } ∧
         Only [.cores, .cmbs] s t) ∧
  (∀ (s : State) (site bay node tile core : Nat) (t0 q n0 : Nat) (y : Slate) (off : Nat) (n : Node) (rows : List Word),
     let c := s.core (core / 256) (core % 256)
     s.clocked site = true →
     bay < 4 →
     (s.core (core / 256) (core % 256)).work = some (.take t0 q n0) →
     s.workSlate (.take t0 q n0) = some y →
     treeOf y.cont c.layer = some off →
     (s.cmb site bay).node (.take t0 q n0) c.layer node = some n →
     s.operandRows (.take t0 q n0) y.cont c.layer off (nodeOps y.cont off node).2 tile = some rows →
     tileOf n.right tile = none →
     s.cancelled site (s.workEpoch (.take t0 q n0)) = false →
       ∃ t, exec (.partialArrive site bay node true tile core) s = .next t ∧
         (t.cmb site bay).node (.take t0 q n0) c.layer node = some { n with right := n.right ++ [(tile, rows)] } ∧
         Only [.cores, .cmbs] s t) ∧
  (∀ (s : State) (site bay node tile core : Nat) (right : Bool) (t0 q n0 : Nat) (y : Slate) (e : Entry),
     let c := s.core (core / 256) (core % 256)
     s.clocked site = true →
     bay < 4 →
     (s.core (core / 256) (core % 256)).work = some (.take t0 q n0) →
     s.workSlate (.take t0 q n0) = some y →
     (s.cmb site bay).node (.take t0 q n0) c.layer node = none →
     c.partials ≠ [] →
     s.findEntry t0 q n0 = some e →
     s.cancelled site (s.workEpoch (.take t0 q n0)) = false →
       ∃ t, exec (.partialArrive site bay node right tile core) s = .next t ∧
         ((∃ z ∈ (t.tq t0 q).entries, z.n = n0 ∧ z.st = 3 ∧ z.status = 0x0202 ∧ z.detail = some 0x0101)) ∧
         Only [.regs, .back, .bar2, .out, .ram, .hmem, .slotRings, .slates, .cancels, .tqs, .sched, .dqs, .cores, .cmbs, .engs, .mmus, .poison] s t) ∧
  (∀ (s : State) (site bay node tile core : Nat) (t0 q n0 : Nat) (y : Slate) (off : Nat) (n : Node) (l r : List Word) (pc : Nat) (lo : Op) (tt : Nat),
     let c := s.core (core / 256) (core % 256)
     let loc := leftLeaf y.cont off 64 (node / 64 * 64 + nodeCount y.cont off - 1)
     let o := leafView y.cont c.layer lo
     s.clocked site = true →
     bay < 4 →
     (s.core (core / 256) (core % 256)).work = some (.take t0 q n0) →
     s.workSlate (.take t0 q n0) = some y →
     treeOf y.cont c.layer = some off →
     (s.cmb site bay).node (.take t0 q n0) c.layer node = some n →
     leafOf y.cont loc c.layer tile = some (pc, lo, tt) →
     s.st (cmbPage site bay) = 2 →
     tileOf n.left tile = some l →
     tileOf n.right tile = some r →
     tileOf n.outs tile = none →
     s.cmbConf site bay = false →
     node % 64 + 1 ≠ nodeCount y.cont off →
       ∃ t, exec (.combineNodeTile site bay node tile core) s = .next t ∧
         (t.cmb site bay).node (.take t0 q n0) c.layer node = some { n with outs := n.outs ++ [(tile, (List.range l.length).map (fun i => BitVec.ofNat 32 (nodeSum (isIntFmt o.fa) (l.getD i 0#32).toNat (r.getD i 0#32).toNat).1))], tiles := n.tiles + 1 } ∧
         t.reg (cmbPage site bay + 0x44) = s.reg (cmbPage site bay + 0x44) + 1#32 ∧
         Only [.regs, .bar2, .out, .cmbs] s t ∧
         RegsBut ([cmbPage site bay + 0x44, cmbPage site bay + 0x48, cmbPage site bay + 0x4C] ++ evtRegs (cmbPage site bay)) s t) ∧
  (∀ (s : State) (site bay node tile core : Nat) (t0 q n0 : Nat) (y : Slate) (off : Nat) (n : Node) (l r : List Word) (pc : Nat) (lo : Op) (tt : Nat) (pl : Nat × Nat) (sp base room : Nat),
     let c := s.core (core / 256) (core % 256)
     let loc := leftLeaf y.cont off 64 (node / 64 * 64 + nodeCount y.cont off - 1)
     let o := leafView y.cont c.layer lo
     let tl := rootTile y.cont (treeHead y.cont off node) o (s.shapeOf (.take t0 q n0) y.cont loc c.layer pc o) tt ((List.range l.length).map (fun i => (nodeSum (isIntFmt o.fa) (l.getD i 0#32).toNat (r.getD i 0#32).toNat).1))
     s.clocked site = true →
     bay < 4 →
     (s.core (core / 256) (core % 256)).work = some (.take t0 q n0) →
     s.workSlate (.take t0 q n0) = some y →
     treeOf y.cont c.layer = some off →
     (s.cmb site bay).node (.take t0 q n0) c.layer node = some n →
     leafOf y.cont loc c.layer tile = some (pc, lo, tt) →
     s.st (cmbPage site bay) = 2 →
     tileOf n.left tile = some l →
     tileOf n.right tile = some r →
     tileOf n.outs tile = none →
     node % 64 + 1 = nodeCount y.cont off →
     s.corePlace (.take t0 q n0) loc = some pl →
     s.place pl.1 pl.2 y.cont o.out true = .at_ sp base room →
     (tl.1.any (fun e => decide (room * 8 < e.1 + fmtBits o.fo))) = false →
     s.cancelled pl.1 (s.workEpoch (.take t0 q n0)) = false →
       ∃ t, exec (.combineNodeTile site bay node tile core) s = .next t ∧
         t.ram = (tl.1.foldl (fun s e => s.putElem o.fo sp base e.1 e.2) s).ram ∧
         Only [.regs, .bar2, .out, .ram, .slotRings, .cmbs, .poison] s t) ∧
  (∀ (s : State) (site bay : Nat) (t0 q n0 : Nat) (e : Entry) (m : Node) (ms : List Node),
     s.dieUp site = true →
     bay < 4 →
     (s.cmb site bay).nodes = m :: ms →
     m.work = .take t0 q n0 →
     s.findEntry t0 q n0 = some e →
       ∃ t, exec (.cmbParity site bay) s = .next t ∧
         ((∃ z ∈ (t.tq t0 q).entries, z.n = n0 ∧ z.st = 3 ∧ z.status = 0x0202 ∧ z.detail = some 0x0100)) ∧
         Only [.regs, .back, .bar2, .out, .ram, .hmem, .slotRings, .slates, .cancels, .tqs, .sched, .dqs, .cores, .cmbs, .engs, .mmus, .poison] s t)

/-- SLATE_LOAD answers its first failed check or loads; SLATE_UNLOAD releases, waits or is refused; queries and records of exceeded bounds
answer their own tenant alone; CLEAR_ALL. (09_slates.md R180, 09_slates.md R184, 09_slates.md R192, 09_slates.md R194, 09_slates.md R198,
09_slates.md R199) -/
def Obligations.SlatesLoadUnloadAndKeepBounds : Prop :=
  (∀ (s : State) (n : Nat) (cont : List Byte) (r : Nat × Nat),
     let stream := s.mbArg n 12 1
     let place := s.mbArg n 16 4
     let site := streamSite s.asm stream
     let real := decide (stream < streamCount s.asm)
     let lb := if real then s.lineBytes site (stream % 16) else 0
     n < 16 →
     s.ready = true →
     s.isMember = false →
     s.restarting 8 = false →
     s.loads.head? = some n →
     s.regFld (mbPage n + 0x44) 0 2 = 1 →
     s.regFld (mbPage n + 0x100) 0 16 = 16 →
     s.regFld (mbPage n + 0x100) 16 16 = 20 →
     s.sec.reserveKey.isSome = true →
     s.chkAll n cont (s.mbArg n 8 4) stream place lb = some r →
       ∃ t, exec (.slateLoad n cont) s = .next t ∧
         t.regFld (mbPage n + 0x44) 0 2 = 2 ∧
         t.regFld (mbPage n + 0x200) 0 16 = r.1 % 65536 ∧
         t.reg (mbPage n + 0x20C) = BitVec.ofNat 32 r.2 ∧
         (r.1 = 0x101 → t.latched kmPage 4 = true) ∧
         t.loads = s.loads.filter (· != n) ∧
         Only [.regs, .bar2, .out, .loads] s t ∧
         PagesBut [mbPage n, kmPage, pg 8 6] s t) ∧
  (∀ (s : State) (n : Nat) (cont : List Byte),
     let stream := s.mbArg n 12 1
     let place := s.mbArg n 16 4
     let site := streamSite s.asm stream
     let real := decide (stream < streamCount s.asm)
     let lb := if real then s.lineBytes site (stream % 16) else 0
     let rmax := if real then (s.reg (strPage site (stream % 16) + 0x48)).toNat else 0
     let m := s.chkMachine n cont stream (s.mbArg n 14 2) place rmax lb
     n < 16 →
     s.ready = true →
     s.isMember = false →
     s.restarting 8 = false →
     s.loads.head? = some n →
     s.regFld (mbPage n + 0x44) 0 2 = 1 →
     s.regFld (mbPage n + 0x100) 0 16 = 16 →
     s.regFld (mbPage n + 0x100) 16 16 = 20 →
     s.sec.reserveKey.isSome = true →
     s.chkAll n cont (s.mbArg n 8 4) stream place lb = none →
     m.2 ≠ 0 ∨ s.mbArg n 13 1 % 2 = 1 →
       ∃ t, exec (.slateLoad n cont) s = .next t ∧
         t.regFld (mbPage n + 0x44) 0 2 = 2 ∧
         t.regFld (mbPage n + 0x200) 0 16 = m.2 % 65536 ∧
         (m.2 = 0 → t.regFld (mbPage n + 0x214) 0 16 = m.1.length % 65536) ∧
         t.loads = s.loads.filter (· != n) ∧
         Only [.regs, .bar2, .out, .loads] s t ∧
         PagesBut [mbPage n, pg 8 6] s t) ∧
  (∀ (s : State) (n : Nat) (cont : List Byte),
     let stream := s.mbArg n 12 1
     let place := s.mbArg n 16 4
     let site := streamSite s.asm stream
     let real := decide (stream < streamCount s.asm)
     let lb := if real then s.lineBytes site (stream % 16) else 0
     let rmax := if real then (s.reg (strPage site (stream % 16) + 0x48)).toNat else 0
     let m := s.chkMachine n cont stream (s.mbArg n 14 2) place rmax lb
     n < 16 →
     s.ready = true →
     s.isMember = false →
     s.restarting 8 = false →
     s.loads.head? = some n →
     s.regFld (mbPage n + 0x44) 0 2 = 1 →
     s.regFld (mbPage n + 0x100) 0 16 = 16 →
     s.regFld (mbPage n + 0x100) 16 16 = 20 →
     s.sec.reserveKey.isSome = true →
     s.mbArg n 13 1 % 2 = 0 →
     s.chkAll n cont (s.mbArg n 8 4) stream place lb = none →
     m.2 = 0 →
       ∃ t, exec (.slateLoad n cont) s = .next t ∧
         t.regFld (mbPage n + 0x44) 0 2 = 2 ∧
         t.regFld (mbPage n + 0x200) 0 16 = 0 ∧
         t.regFld (mbPage n + 0x214) 0 16 = m.1.length % 65536 ∧
         (∃ p ∈ t.slates, s.slates.all (fun e => e.1 != p.1) = true ∧ p.2.tenant = n ∧ p.2.cont = cont ∧ p.2.state = 1 ∧ p.2.groups = m.1.map (fun x => x.at_) ∧ t.reg (mbPage n + 0x208) = BitVec.ofNat 32 p.2.handle) ∧
         t.loads = s.loads.filter (· != n) ∧
         Only [.regs, .bar2, .out, .tenants, .sec, .strms, .slates, .gens, .engs, .loads] s t) ∧
  (∀ (s : State) (n : Nat) (x : Slate),
     n < 16 →
     s.ready = true →
     s.isMember = false →
     s.regFld (mbPage n + 0x44) 0 2 = 1 →
     s.regFld (mbPage n + 0x100) 0 16 = 17 →
     s.regFld (mbPage n + 0x100) 16 16 = 4 →
     s.ownSlate n (s.mbArg n 0 4) = some x →
     x.kind ≠ 2 ∨ x.state = 3 ∨ s.st (strPage (streamSite s.asm x.stream) (x.stream % 16)) = 0 →
     x.kind = 2 ∨ x.state = 3 ∨ s.slateBusy x.handle = false →
     s.restarting 8 = false →
     s.loads.head? = some n →
       ∃ t, exec (.slateUnload n) s = .next t ∧
         (∀ p ∈ t.slates, p.1 ≠ x.handle % 65536) ∧
         t.regFld (mbPage n + 0x200) 0 16 = 0 ∧
         t.regFld (mbPage n + 0x44) 0 2 = 2 ∧
         t.loads = s.loads.filter (· != n) ∧
         Only [.regs, .back, .bar2, .out, .tenants, .ram, .hmem, .strms, .slotRings, .cueQs, .binFlags, .slates, .dqs, .cores, .cmbs, .engs, .mmus, .poison, .loads, .bndTaken] s t) ∧
  (∀ (s : State) (n : Nat) (x : Slate),
     n < 16 →
     s.ready = true →
     s.isMember = false →
     s.regFld (mbPage n + 0x44) 0 2 = 1 →
     s.regFld (mbPage n + 0x100) 0 16 = 17 →
     s.regFld (mbPage n + 0x100) 16 16 = 4 →
     s.ownSlate n (s.mbArg n 0 4) = some x →
     x.kind ≠ 2 →
     x.state ≠ 3 →
     s.slateBusy x.handle = true →
     s.restarting 8 = false →
     s.loads.head? = some n →
       ∃ t, exec (.slateUnload n) s = .next t ∧
         t = s.setSlate { x with state := 2, waiter := some n } ∧
         Only [.slates] s t) ∧
  (∀ (s : State) (n : Nat) (x : Slate),
     n < 16 →
     s.ready = true →
     s.isMember = false →
     s.regFld (mbPage n + 0x44) 0 2 = 1 →
     s.regFld (mbPage n + 0x100) 0 16 = 17 →
     s.regFld (mbPage n + 0x100) 16 16 = 4 →
     s.ownSlate n (s.mbArg n 0 4) = some x →
     x.kind = 2 →
     x.state ≠ 3 →
     s.st (strPage (streamSite s.asm x.stream) (x.stream % 16)) ≠ 0 →
     s.restarting 8 = false →
     s.loads.head? = some n →
       ∃ t, exec (.slateUnload n) s = .next t ∧
         t.regFld (mbPage n + 0x200) 0 16 = 0x115 ∧
         t.regFld (mbPage n + 0x44) 0 2 = 2 ∧
         t.loads = s.loads.filter (· != n) ∧
         Only [.regs, .bar2, .out, .loads] s t ∧
         PagesBut [mbPage n, pg 8 6] s t) ∧
  (∀ (s : State) (n h : Nat) (x : Slate),
     n < 16 →
     s.slate h = some x →
     x.state = 2 →
     s.slateBusy h = false →
     x.waiter = some n →
     x.handle = h →
       ∃ t, exec (.unloadComplete h) s = .next t ∧
         (∀ p ∈ t.slates, p.1 ≠ h % 65536) ∧
         t.regFld (mbPage n + 0x200) 0 16 = 0 ∧
         t.regFld (mbPage n + 0x44) 0 2 = 2 ∧
         t.loads = s.loads.filter (· != n) ∧
         Only [.regs, .back, .bar2, .out, .tenants, .ram, .hmem, .strms, .slotRings, .cueQs, .binFlags, .slates, .dqs, .cores, .cmbs, .engs, .mmus, .poison, .loads, .bndTaken] s t) ∧
  (∀ (s : State) (n : Nat) (x : Slate),
     n < 16 →
     s.ready = true →
     s.isMember = false →
     s.regFld (mbPage n + 0x44) 0 2 = 1 →
     s.regFld (mbPage n + 0x100) 0 16 = 18 →
     s.regFld (mbPage n + 0x100) 16 16 = 4 →
     s.ownSlate n (s.mbArg n 0 4) = some x →
     s.restarting 8 = false →
       ∃ t, exec (.slateQuery n) s = .next t ∧
         t.regFld (mbPage n + 0x200) 0 16 = 0 ∧
         t.regFld (mbPage n + 0x44) 0 2 = 2 ∧
         t.reg (mbPage n + 0x208) = BitVec.ofNat 32 (x.kind % 256 + x.state % 256 * 256) ∧
         t.regFld (mbPage n + 0x214) 0 16 = x.floor % 65536 ∧
         t.regFld (mbPage n + 0x218) 0 16 = x.groups.length % 65536 ∧
         t.reg (mbPage n + 0x20C) = BitVec.ofNat 32 (x.rmax * 1000) ∧
         Only [.regs, .bar2, .out, .loads] s t) ∧
  (∀ (s : State) (n : Nat),
     n < 16 →
     s.ready = true →
     s.isMember = false →
     s.regFld (mbPage n + 0x44) 0 2 = 1 →
     s.regFld (mbPage n + 0x100) 0 16 = 18 →
     s.regFld (mbPage n + 0x100) 16 16 = 4 →
     s.ownSlate n (s.mbArg n 0 4) = none →
     s.restarting 8 = false →
       ∃ t, exec (.slateQuery n) s = .next t ∧
         t.regFld (mbPage n + 0x200) 0 16 = 0x116 ∧
         t.regFld (mbPage n + 0x44) 0 2 = 2 ∧
         Only [.regs, .bar2, .out, .loads] s t ∧
         PagesBut [mbPage n, pg 8 6] s t) ∧
  (∀ (s : State) (n d : Nat),
     n < 16 →
     s.ready = true →
     s.isMember = false →
     s.regFld (mbPage n + 0x44) 0 2 = 1 →
     s.regFld (mbPage n + 0x100) 0 16 = 19 →
     s.regFld (mbPage n + 0x100) 16 16 = 4 →
     s.mbArg n 0 4 = d →
     d / 65536 = 0 →
     d / 4096 % 16 = s.pkg →
     s.dieUp (d / 256 % 16) = true →
     d % 256 < min 64 (s.regFld (bndPage (d / 256 % 16) + 0x40) 8 7) →
     s.regFld (bndPage (d / 256 % 16) + 0x100 + 32 * (d % 256) + 4) 0 8 = n →
     s.restarting 8 = false →
       ∃ t, exec (.boundRecord n) s = .next t ∧
         t.regFld (mbPage n + 0x200) 0 16 = 0 ∧
         t.regFld (mbPage n + 0x44) 0 2 = 2 ∧
         (∀ i, i < 8 → t.reg (mbPage n + 0x208 + 4 * i) = s.reg (bndPage (d / 256 % 16) + 0x100 + 32 * (d % 256) + 4 * i)) ∧
         Only [.regs, .bar2, .out, .loads] s t ∧
         PagesBut [mbPage n, pg 8 6] s t) ∧
  (∀ (s : State) (n d : Nat),
     n < 16 →
     s.ready = true →
     s.isMember = false →
     s.regFld (mbPage n + 0x44) 0 2 = 1 →
     s.regFld (mbPage n + 0x100) 0 16 = 19 →
     s.regFld (mbPage n + 0x100) 16 16 = 4 →
     s.mbArg n 0 4 = d →
     s.regFld (bndPage (d / 256 % 16) + 0x100 + 32 * (d % 256) + 4) 0 8 ≠ n →
     s.restarting 8 = false →
       ∃ t, exec (.boundRecord n) s = .next t ∧
         t.regFld (mbPage n + 0x200) 0 16 = 0x117 ∧
         t.regFld (mbPage n + 0x44) 0 2 = 2 ∧
         Only [.regs, .bar2, .out, .loads] s t ∧
         PagesBut [mbPage n, pg 8 6] s t) ∧
  (∀ (s : State) (req site : Nat) (val : Word),
     s.takes 0x46 req site 8 0x44 = true →
     bitOf val 0 = true →
       ∃ t, exec (.clearAll req site val) s = .next t ∧
         t.reg (bndPage site + 0x40) = 0#32 ∧
         (∀ i, i < 512 → t.reg (bndPage site + 0x100 + 4 * i) = 0#32) ∧
         Only [.regs] s t ∧
         RegsBut ((bndPage site + 0x40) :: (List.range 512).map (fun i => bndPage site + 0x100 + 4 * i)) s t)

/-- A transfer takes its bytes at issue and writes them when it lands; small ones in a row merge; a place of 256 is waited for; a finished
descriptor retires with its action; a relay tile lands at every core of its mask. (10_data_movement.md R200, 10_data_movement.md R201,
10_data_movement.md R202, 10_data_movement.md R203, 10_data_movement.md R204, 10_data_movement.md R206, 10_data_movement.md R215) -/
def Obligations.DmaTransfersMoveBytesInOrder : Prop :=
  (∀ (s : State) (site core q : Nat) (w : Work) (y : Slate) (i j : IDesc) (n sa a sb b : Nat),
     let d := decodeDesc (descAt y.cont (s.core site core).loc i.idx)
     let far := if s.landSite site (.ram sa a) = site then s.landSite site (.ram sb b) else s.landSite site (.ram sa a)
     let k := bucketOf site far d.dstSp
     let slack := if d.stream = true ∧ d.dstSp = 4 then s.ringCount site core d.dstRing * (s.sring site core d.dstRing).period * 1000000 / max 1 (s.regFld (pg site 0x0B + 0x44) 0 12) else 0
     let f : Xfer := { serial := j.serial, sp := sb, addr := b, data := s.ramGet sa a n, issued := s.now, src := (sa, a), dst := (sb, b), stream := d.stream, slack := slack, point := s.arbPoint site (.ram sa a) (.ram sb b), share := k }
     s.queueAt site core q w y = true →
     (s.dq site core q).next = some i →
     d.kind = 1 →
     (s.dq site core q).halted = false →
     s.takeSlots site core d i = some j →
     n = min (d.rowBytes - j.col) (min (4096 - a % 4096) (4096 - b % 4096)) →
     (s.srcSpot site core w y d j 1).isMem sa a = true →
     (s.dstSpot site core w y d j 1).isMem sb b = true →
     (s.srcSpot site core w y d j n).isMem sa a = true →
     (s.dstSpot site core w y d j n).isMem sb b = true →
     s.poisoned sa a n = false →
     d.stream = true ∨ s.spent y ((s.core site core).loc / 64) k + n * 320000 ≤ 65536 * 320000 →
     s.merges site y.cont (s.core site core).loc (s.dq site core q) j f = false →
     (s.dq site core q).flights.length < max 1 (cDmaOut y.cont q) →
     s.hasPlace site ((site * 256 + core) * 4 + q) 1 d.stream = true →
       ∃ t, exec (.dmaTransfer site core q) s = .next t ∧
         (t.dq site core q).flights = (s.dq site core q).flights ++ [f] ∧
         (t.dq site core q).descs = ((s.dq site core q).put { (if j.col + n < d.rowBytes then { j with col := j.col + n } else { j with row := j.row + 1, col := 0 } : IDesc) with flying := j.flying + 1 }).descs ∧
         (∀ u, u ≠ (site * 256 + core) * 4 + q → tabGet {} t.dqs u = tabGet {} s.dqs u) ∧
         Only [.regs, .bar2, .out, .dqs, .buckets, .capQs] s t ∧
         PagesBut [mvPage site core, movePage site, pg 8 6] s t) ∧
  (∀ (s : State) (site core q : Nat) (w : Work) (y : Slate) (i j : IDesc) (n sa a sb b : Nat),
     let d := decodeDesc (descAt y.cont (s.core site core).loc i.idx)
     let far := if s.landSite site (.ram sa a) = site then s.landSite site (.ram sb b) else s.landSite site (.ram sa a)
     let k := bucketOf site far d.dstSp
     let slack := if d.stream = true ∧ d.dstSp = 4 then s.ringCount site core d.dstRing * (s.sring site core d.dstRing).period * 1000000 / max 1 (s.regFld (pg site 0x0B + 0x44) 0 12) else 0
     let f : Xfer := { serial := j.serial, sp := sb, addr := b, data := s.ramGet sa a n, issued := s.now, src := (sa, a), dst := (sb, b), stream := d.stream, slack := slack, point := s.arbPoint site (.ram sa a) (.ram sb b), share := k }
     let l := s.dq site core q
     s.queueAt site core q w y = true →
     (s.dq site core q).next = some i →
     d.kind = 1 →
     (s.dq site core q).halted = false →
     s.takeSlots site core d i = some j →
     n = min (d.rowBytes - j.col) (min (4096 - a % 4096) (4096 - b % 4096)) →
     (s.srcSpot site core w y d j 1).isMem sa a = true →
     (s.dstSpot site core w y d j 1).isMem sb b = true →
     (s.srcSpot site core w y d j n).isMem sa a = true →
     (s.dstSpot site core w y d j n).isMem sb b = true →
     s.poisoned sa a n = false →
     d.stream = true ∨ s.spent y ((s.core site core).loc / 64) k + n * 320000 ≤ 65536 * 320000 →
     s.merges site y.cont (s.core site core).loc l j f = true →
     s.conf (s.workTenant w) = false →
       ∃ t, exec (.dmaTransfer site core q) s = .next t ∧
         (t.dq site core q).flights.map (fun x => x.data) = l.flights.dropLast.map (fun x => x.data) ++ l.flights.getLast?.toList.map (fun x => x.data ++ f.data) ∧
         (t.dq site core q).flights.map (fun x => x.joins) = l.flights.dropLast.map (fun x => x.joins) ++ l.flights.getLast?.toList.map (fun x => x.joins ++ [f.serial]) ∧
         t.reg (mvPage site core + 0x70) = (s.reg (mvPage site core + 0x70)) + (if s.reg (mvPage site core + 0x70) = 0xFFFFFFFF#32 then 0#32 else 1#32) ∧
         Only [.regs, .bar2, .out, .dqs, .buckets, .capQs] s t ∧
         PagesBut [mvPage site core, movePage site, pg 8 6] s t) ∧
  (∀ (s : State) (site core q : Nat) (w : Work) (y : Slate) (i j : IDesc) (n sa a sb b : Nat),
     let d := decodeDesc (descAt y.cont (s.core site core).loc i.idx)
     let far := if s.landSite site (.ram sa a) = site then s.landSite site (.ram sb b) else s.landSite site (.ram sa a)
     let k := bucketOf site far d.dstSp
     let slack := if d.stream = true ∧ d.dstSp = 4 then s.ringCount site core d.dstRing * (s.sring site core d.dstRing).period * 1000000 / max 1 (s.regFld (pg site 0x0B + 0x44) 0 12) else 0
     let f : Xfer := { serial := j.serial, sp := sb, addr := b, data := s.ramGet sa a n, issued := s.now, src := (sa, a), dst := (sb, b), stream := d.stream, slack := slack, point := s.arbPoint site (.ram sa a) (.ram sb b), share := k }
     s.queueAt site core q w y = true →
     (s.dq site core q).next = some i →
     d.kind = 1 →
     (s.dq site core q).halted = false →
     s.takeSlots site core d i = some j →
     n = min (d.rowBytes - j.col) (min (4096 - a % 4096) (4096 - b % 4096)) →
     (s.srcSpot site core w y d j 1).isMem sa a = true →
     (s.dstSpot site core w y d j 1).isMem sb b = true →
     (s.srcSpot site core w y d j n).isMem sa a = true →
     (s.dstSpot site core w y d j n).isMem sb b = true →
     s.poisoned sa a n = false →
     d.stream = true ∨ s.spent y ((s.core site core).loc / 64) k + n * 320000 ≤ 65536 * 320000 →
     s.merges site y.cont (s.core site core).loc (s.dq site core q) j f = false →
     (s.dq site core q).flights.length < max 1 (cDmaOut y.cont q) →
     s.hasPlace site ((site * 256 + core) * 4 + q) 1 d.stream = false →
       ∃ t, exec (.dmaTransfer site core q) s = .next t ∧
         ((site * 256 + core) * 4 + q, d.stream) ∈ (t.capQ site).wait ∧
         (∀ v, v ≠ site → t.capQ v = s.capQ v) ∧
         Only [.capQs] s t) ∧
  (∀ (s : State) (site core q : Nat) (w : Work) (y : Slate) (i : IDesc) (is : List IDesc),
     let l := s.dq site core q
     let u := (site * 256 + core) * 4 + q
     let fs := (List.range l.flights.length).zip l.flights
     s.queueAt site core q w y = true →
     l.flights.all (fun f => f.more.isEmpty && (f.host || (!s.zeroing f.sp f.addr && s.ownsAt y.tenant f.sp f.addr))) = true →
     fs.any (fun x => s.granted u x.1 x.2) = true →
     l.descs = i :: is →
     i.row < i.rows →
       ∃ t, exec (.dmaTransferDone site core q) s = .next t ∧
         (∃ x ∈ fs, s.granted u x.1 x.2 = true ∧ (t.dq site core q).flights = l.flights.eraseIdx x.1 ∧
           (x.2.host = false → t.ramGet x.2.sp x.2.addr x.2.data.length = x.2.data ∧ RamBut (ramKey x.2.sp x.2.addr) x.2.data.length s t ∧ t.hmem = s.hmem) ∧
           (x.2.host = true → t.hmemGet x.2.addr x.2.data.length = x.2.data ∧ HmemBut x.2.addr x.2.data.length s t ∧ t.ram = s.ram ∧ t.poison = s.poison)) ∧
         Only [.regs, .bar2, .out, .ram, .hmem, .dqs, .poison, .arbs, .free] s t ∧
         PagesBut [mvPage site core, movePage site, pg 8 6] s t) ∧
  (∀ (s : State) (site core q : Nat) (w : Work) (y : Slate) (f : Xfer) (i : IDesc),
     let d := decodeDesc (descAt y.cont (s.core site core).loc i.idx)
     let g := y.flagAt (d.doneRef / 2 ^ 16 % 2 ^ 12) (d.doneRef % 1024)
     s.queueAt site core q w y = true →
     (s.dq site core q).flights = [f] →
     f.more = [] →
     f.host = true ∨ s.zeroing f.sp f.addr = false ∧ s.ownsAt y.tenant f.sp f.addr = true →
     s.granted ((site * 256 + core) * 4 + q) 0 f = true →
     (s.dq site core q).descs = [i] →
     i.rows ≤ i.row →
     i.flying = 1 →
     f.serial = i.serial →
     d.onDone = 1 →
     refOk y (cFlags y.cont) d.doneRef = true →
     s.staleDesc site i = false →
       ∃ t, exec (.dmaTransferDone site core q) s = .next t ∧
         (t.dq site core q).descs = [] ∧
         (t.dq site core q).flights = [] ∧
         t.bflag g.1 g.2 = (s.flagValue g.1 g.2 + d.doneVal) % 65536 + s.workEpoch w * 65536 ∧
         Only [.regs, .bar2, .out, .ram, .hmem, .slotRings, .binFlags, .dqs, .poison, .arbs, .free] s t) ∧
  (∀ (s : State) (site core q : Nat) (w : Work) (y : Slate) (i : IDesc),
     let d := decodeDesc (descAt y.cont (s.core site core).loc i.idx)
     let dests := (s.workCores w).filter (fun x => x.1 / 64 == (s.core site core).loc / 64 && d.mask / 2 ^ (x.1 % 64) % 2 == 1)
     let src := d.src + i.row * d.srcStride + i.col
     let dst := d.dst + i.row * d.rowBytes + i.col
     let n := min (d.rowBytes - i.col) (min (4096 - src % 4096) (4096 - dst % 4096))
     let bays := (dests.map (fun x => x.2.2 / 16)).eraseDups
     let f : Xfer := { serial := i.serial, sp := ((dests.map (fun x => spCore x.2.1 x.2.2)).headD (spCore site core)), addr := dst, data := if dests.isEmpty then [] else (y.weights.drop src).take n, issued := s.now, more := (dests.map (fun x => (spCore x.2.1 x.2.2, dst))).drop 1, heads := max 1 bays.length, point := bays.head?.map (fun b => site * 64 + 48 + b), share := bucketOf site site 0 }
     s.queueAt site core q w y = true →
     (s.dq site core q).next = some i →
     d.kind = 2 →
     (s.dq site core q).halted = false →
     (s.dq site core q).flights.length < max 1 (cDmaOut y.cont q) →
     s.merges site y.cont (s.core site core).loc (s.dq site core q) i f = false →
     s.hasPlace site ((site * 256 + core) * 4 + q) f.heads false = true →
     dst + n ≤ cCs y.cont →
     y.weights ≠ [] →
     s.spent y ((s.core site core).loc / 64) (bucketOf site site 0) + n * 320000 ≤ 65536 * 320000 →
       ∃ t, exec (.relayTile site core q) s = .next t ∧
         (t.dq site core q).flights = (s.dq site core q).flights ++ [f] ∧
         (∀ u, u ≠ (site * 256 + core) * 4 + q → tabGet {} t.dqs u = tabGet {} s.dqs u) ∧
         Only [.regs, .bar2, .out, .dqs, .buckets, .capQs] s t ∧
         PagesBut [mvPage site core, movePage site, pg 8 6] s t) ∧
  (∀ (s : State) (site core q : Nat) (w : Work) (y : Slate) (f : Xfer) (i : IDesc) (is : List IDesc),
     let ms := (f.sp, f.addr) :: f.more
     s.queueAt site core q w y = true →
     (s.dq site core q).flights = [f] →
     f.host = false →
     s.zeroing f.sp f.addr = false →
     s.ownsAt y.tenant f.sp f.addr = true →
     s.granted ((site * 256 + core) * 4 + q) 0 f = true →
     (s.dq site core q).descs = i :: is →
     i.row < i.rows →
     (ms.map (fun m => m.1)).Nodup →
     ms.all (fun m => decide (m.2 + f.data.length ≤ 2 ^ 48)) = true →
       ∃ t, exec (.dmaTransferDone site core q) s = .next t ∧
         (t.dq site core q).flights = [] ∧
         (∀ m ∈ ms, t.ramGet m.1 m.2 f.data.length = f.data) ∧
         Only [.regs, .bar2, .out, .ram, .dqs, .poison, .arbs, .free] s t ∧
         PagesBut [mvPage site core, movePage site, pg 8 6] s t)

/-- A transfer 2 ms in flight or a parity error ends its take; EPOCH_CANCEL restarts a stripe or ends a take; CLR_PEAK.
(10_data_movement.md R202, 10_data_movement.md R220, 10_data_movement.md R225, 09_slates.md R195, 11_memory_and_faults.md R241) -/
def Obligations.DmaErrorsAndCancellation : Prop :=
  (∀ (s : State) (site core q t0 k n0 : Nat) (y : Slate) (e : Entry) (f : Xfer),
     s.queueAt site core q (.take t0 k n0) y = true →
     s.findEntry t0 k n0 = some e →
     f ∈ (s.dq site core q).flights →
     (s.dq site core q).halted = false →
     f.issued + 400000 ≤ s.now →
       ∃ t, exec (.dmaTimeout site core q) s = .next t ∧
         ((∃ z ∈ (t.tq t0 k).entries, z.n = n0 ∧ z.st = 3 ∧ z.status = 0x0202 ∧ z.detail = some 0x0102)) ∧
         Only [.regs, .back, .bar2, .out, .ram, .hmem, .slotRings, .slates, .cancels, .tqs, .sched, .dqs, .cores, .cmbs, .engs, .mmus, .poison] s t) ∧
  (∀ (s : State) (site core q t0 k n0 : Nat) (y : Slate) (e : Entry),
     s.queueAt site core q (.take t0 k n0) y = true →
     s.findEntry t0 k n0 = some e →
     (s.dq site core q).flights ≠ [] →
       ∃ t, exec (.dmaParity site core q) s = .next t ∧
         ((∃ z ∈ (t.tq t0 k).entries, z.n = n0 ∧ z.st = 3 ∧ z.status = 0x0202 ∧ z.detail = some 0x0100)) ∧
         Only [.regs, .back, .bar2, .out, .ram, .hmem, .slotRings, .slates, .cancels, .tqs, .sched, .dqs, .cores, .cmbs, .engs, .mmus, .poison] s t) ∧
  (∀ (s : State) (site core t0 k n0 : Nat) (e : Entry) (d : Nat × DQ),
     s.dieUp site = true →
     core < 64 →
     s.dqs.find? (fun d => d.1 / 1024 == site && d.2.flights.any (fun f => f.onChain site (core / 16))) = some d →
     d.2.work = some (.take t0 k n0) →
     s.findEntry t0 k n0 = some e →
       ∃ t, exec (.relayParity site core) s = .next t ∧
         ((∃ z ∈ (t.tq t0 k).entries, z.n = n0 ∧ z.st = 3 ∧ z.status = 0x0202 ∧ z.detail = some 0x0101)) ∧
         Only [.regs, .back, .bar2, .out, .ram, .hmem, .slotRings, .slates, .cancels, .tqs, .sched, .dqs, .cores, .cmbs, .engs, .mmus, .poison] s t) ∧
  (∀ (s : State) (req site : Nat) (val : Word),
     s.takes 0x45 req site 9 0x54 = true →
     val = 1#32 →
       ∃ t, exec (.clrPeak req site val) s = .next t ∧
         t.regFld (movePage site + 0x40) 16 9 = s.regFld (movePage site + 0x40) 0 9 ∧
         Only [.regs] s t ∧
         RegsBut [movePage site + 0x40] s t) ∧
  (∀ (s : State) (epoch : Nat) (p : Nat × Slate),
     s.slates.find? (fun x => x.2.kind == 2 && x.2.running && x.2.epoch == epoch) = some p →
     s.slate p.2.handle = some p.2 →
       ∃ t, exec (.epochCancel epoch) s = .next t ∧
         (∀ c ∈ p.2.cores, (t.core c.2.1 c.2.2).pc = 0 ∧ (t.core c.2.1 c.2.2).phase = 0) ∧
         (∃ x ∈ t.slates, x.2.handle = p.2.handle ∧ x.2.epoch = (s.allocEpoch (p.2.groups.headD {}).site).1) ∧
         Only [.regs, .back, .bar2, .out, .ram, .hmem, .slotRings, .cueQs, .binFlags, .slates, .cancels, .tqs, .sched, .dqs, .cores, .cmbs, .engs, .mmus, .poison] s t) ∧
  (∀ (s : State) (epoch k : Nat) (e : Entry),
     (s.slates.all (fun x => !(x.2.kind == 2 && x.2.running && x.2.epoch == epoch))) = true →
     (List.range 128).find? (fun k => (s.tq (k / 8) (k % 8)).entries.any (fun e => (e.st == 1 || e.st == 2) && e.epoch == epoch)) = some k →
     (s.tq (k / 8) (k % 8)).entries.find? (fun e => (e.st == 1 || e.st == 2) && e.epoch == epoch) = some e →
     s.findEntry (k / 8) (k % 8) e.n = some e →
       ∃ t, exec (.epochCancel epoch) s = .next t ∧
         ((∃ z ∈ (t.tq (k / 8) (k % 8)).entries, z.n = e.n ∧ z.st = 3 ∧ z.status = 0x0301)) ∧
         (∀ d ∈ (e.cores.map (fun c => c.2.1)), t.cancelled d epoch = true) ∧
         Only [.regs, .back, .bar2, .out, .ram, .hmem, .slotRings, .cueQs, .binFlags, .slates, .cancels, .tqs, .sched, .dqs, .cores, .cmbs, .engs, .mmus, .poison] s t)

/-- MMU_CMD and the mailbox set a tenant's root, invalidate, list faults and resume the units halted on a record, which go on or, in Fail
mode, end with their take. (11_memory_and_faults.md R230, 11_memory_and_faults.md R232, 11_memory_and_faults.md R234,
11_memory_and_faults.md R235, 11_memory_and_faults.md R245) -/
def Obligations.MmuCommandsAndMailboxRequests : Prop :=
  (∀ (s : State) (req n : Nat) (val : Word),
     n < 16 →
     s.takes 0x0A req 8 (0x40 + n) 0x54 = true →
     (s.isMember && s.ensSt == 2) = false →
     bitOf val 0 = true →
     bitOf val 1 = false →
       ∃ t, exec (.mmuCmdInvalidate req n val) s = .next t ∧
         t.regBit (mmuPage n + 0x58) 0 = true ∧
         Only [.regs] s t ∧
         RegsBut [mmuPage n + 0x58] s t) ∧
  (∀ (s : State) (req n : Nat) (val : Word) (id t0 k n0 : Nat) (u : HUnit),
     n < 16 →
     s.takes 0x0A req 8 (0x40 + n) 0x54 = true →
     (s.isMember && s.ensSt == 2) = false →
     bitOf val 1 = true →
     bitOf val 2 = false →
     bitOf val 0 = false →
     fld val 8 5 = id →
     s.fltValid n id = true →
     id < 32 →
     (s.mmu n).units = [u] →
     u.slot = some id →
     u.work = some (.take t0 k n0) →
     s.workTenant (.take t0 k n0) = n →
     u.kind ≤ 1 →
     (match s.translate n u.ta u.write .stack with | .absent _ => false | _ => true) = true →
       ∃ t, exec (.mmuCmdResume req n val) s = .next t ∧
         t.fltValid n id = false ∧
         (t.mmu n).units = [] ∧
         (t.dq u.site (u.unit / 4) (u.unit % 4)).halted = false ∧
         (∀ z ∈ (t.tq t0 k).entries, z.n = n0 → z.st ≠ 2) ∧
         Only [.regs, .back, .bar2, .out, .ram, .hmem, .slotRings, .slates, .cancels, .tqs, .dqs, .cores, .cmbs, .engs, .mmus, .poison] s t) ∧
  (∀ (s : State) (req n : Nat) (val : Word) (id t0 k n0 : Nat) (u : HUnit) (e : Entry),
     n < 16 →
     s.takes 0x0A req 8 (0x40 + n) 0x54 = true →
     (s.isMember && s.ensSt == 2) = false →
     bitOf val 1 = true →
     bitOf val 2 = true →
     bitOf val 0 = false →
     fld val 8 5 = id →
     s.fltValid n id = true →
     id < 32 →
     (s.mmu n).units = [u] →
     u.slot = some id →
     u.work = some (.take t0 k n0) →
     s.workTenant (.take t0 k n0) = n →
     s.findEntry t0 k n0 = some e →
       ∃ t, exec (.mmuCmdResumeFail req n val) s = .next t ∧
         t.fltValid n id = false ∧
         (t.mmu n).units = [] ∧
         ((∃ z ∈ (t.tq t0 k).entries, z.n = n0 ∧ z.st = 3 ∧ z.status = 0x0202 ∧ z.detail = some 0x0105)) ∧
         Only [.regs, .back, .bar2, .out, .ram, .hmem, .slotRings, .slates, .cancels, .tqs, .sched, .dqs, .cores, .cmbs, .engs, .mmus, .poison] s t) ∧
  (∀ (s : State) (req n : Nat) (val : Word),
     n < 16 →
     s.takes 0x0A req 8 (0x40 + n) 0x54 = true →
     (s.isMember && s.ensSt == 2) = false →
     bitOf val 1 = true →
     s.fltValid n (fld val 8 5) = false →
     bitOf val 2 = false →
       ∃ t, exec (.mmuCmdResume req n val) s = .next t ∧
         t.reg (mmuPage n + 0x34) = BitVec.ofNat 32 (0x54 + 3 * 2 ^ 12 + req % 32 * 2 ^ 16) ∧
         Only [.regs, .bar2, .out] s t ∧
         RegsBut (rejRegs (mmuPage n)) s t) ∧
  (∀ (s : State) (n : Nat),
     n < 16 →
     s.ready = true →
     s.isMember = false →
     s.regFld (mbPage n + 0x44) 0 2 = 1 →
     s.regFld (mbPage n + 0x100) 0 16 = 32 →
     s.regFld (mbPage n + 0x100) 16 16 = 8 →
     s.hasSlates n = false →
     ((List.range 8).any (fun q => s.st (tqPage n q) != 0)) = false →
     s.restarting 8 = false →
       ∃ t, exec (.mmuSetRoot n) s = .next t ∧
         t.regFld (mbPage n + 0x200) 0 16 = 0 ∧
         t.regFld (mbPage n + 0x44) 0 2 = 2 ∧
         t.wide (mmuPage n + 0x40) = s.mbArg n 0 8 / 4096 * 4096 ∧
         Only [.regs, .bar2, .out, .loads] s t ∧
         PagesBut [mbPage n, pg 8 6, mmuPage n] s t) ∧
  (∀ (s : State) (x : Nat),
     s.ready = true →
     s.isMember = false →
     s.regFld (mbPage 0 + 0x44) 0 2 = 1 →
     s.regFld (mbPage 0 + 0x100) 0 16 = 32 →
     s.regFld (mbPage 0 + 0x100) 16 16 = 9 →
     s.mbArg 0 8 1 = x →
     x < 16 →
     s.hasSlates x = false →
     ((List.range 8).any (fun q => s.st (tqPage x q) != 0)) = false →
     s.restarting 8 = false →
       ∃ t, exec (.mmuSetRoot 0) s = .next t ∧
         t.regFld (mbPage 0 + 0x200) 0 16 = 0 ∧
         t.wide (mmuPage x + 0x40) = s.mbArg 0 0 8 / 4096 * 4096 ∧
         Only [.regs, .bar2, .out, .loads] s t ∧
         PagesBut [mbPage 0, pg 8 6, mmuPage x] s t) ∧
  (∀ (s : State) (n : Nat),
     n < 16 →
     s.ready = true →
     s.isMember = false →
     s.regFld (mbPage n + 0x44) 0 2 = 1 →
     s.regFld (mbPage n + 0x100) 0 16 = 32 →
     s.regFld (mbPage n + 0x100) 16 16 = 8 →
     s.hasSlates n = true →
     s.restarting 8 = false →
       ∃ t, exec (.mmuSetRoot n) s = .next t ∧
         t.regFld (mbPage n + 0x200) 0 16 = 0x120 ∧
         t.regFld (mbPage n + 0x44) 0 2 = 2 ∧
         Only [.regs, .bar2, .out, .loads] s t ∧
         PagesBut [mbPage n, pg 8 6] s t) ∧
  (∀ (s : State) (n : Nat),
     n < 16 →
     s.ready = true →
     s.isMember = false →
     s.regFld (mbPage n + 0x44) 0 2 = 1 →
     s.regFld (mbPage n + 0x100) 0 16 = 33 →
     s.regFld (mbPage n + 0x100) 16 16 = 12 →
     s.restarting 8 = false →
       ∃ t, exec (.mmuInvalidate n) s = .next t ∧
         t.regBit (mmuPage n + 0x58) 0 = true ∧
         (t.mmu n).waiter = true ∧
         t.regFld (mbPage n + 0x44) 0 2 = 1 ∧
         t.reg (mmuPage n + 0x48) = BitVec.ofNat 32 (s.mbArg n 0 4 / 4096 * 4096) ∧
         t.reg (mmuPage n + 0x4C) = BitVec.ofNat 32 (s.mbArg n 4 2) ∧
         t.reg (mmuPage n + 0x50) = BitVec.ofNat 32 (s.mbArg n 8 4) ∧
         Only [.regs, .mmus] s t ∧
         PagesBut [mmuPage n] s t) ∧
  (∀ (s : State) (n : Nat),
     s.mainOk = true →
     n < 16 →
     s.regBit (mmuPage n + 0x58) 0 = true →
     (s.dqs.any (fun d => !d.2.flights.isEmpty && (match d.2.work with | some w => s.workTenant w == n | none => false))) = false →
     (s.mmu n).waiter = true →
     (s.mmu n).units = [] →
     (s.engs.any (fun e => e.2.busy && e.2.writes.any (fun w => w.1 == spStack) && e.2.lastTenant == some n)) = false →
       ∃ t, exec (.invDone n) s = .next t ∧
         t.regBit (mmuPage n + 0x58) 0 = false ∧
         t.latched (mmuPage n) 1 = true ∧
         (t.mmu n).waiter = false ∧
         (∀ m, m < 16 → s.invTenant m = some n → t.regFld (mbPage m + 0x44) 0 2 = 2 ∧ t.regFld (mbPage m + 0x200) 0 16 = 0) ∧
         Only [.regs, .back, .bar2, .out, .mmus, .loads] s t) ∧
  (∀ (s : State) (n : Nat),
     let l := (List.range 32).filter (fun i => s.fltValid n i)
     n < 16 →
     s.ready = true →
     s.isMember = false →
     s.regFld (mbPage n + 0x44) 0 2 = 1 →
     s.regFld (mbPage n + 0x100) 0 16 = 34 →
     s.regFld (mbPage n + 0x100) 16 16 = 0 →
     s.restarting 8 = false →
       ∃ t, exec (.faultList n) s = .next t ∧
         t.regFld (mbPage n + 0x200) 0 16 = 0 ∧
         t.regFld (mbPage n + 0x44) 0 2 = 2 ∧
         t.regFld (mbPage n + 0x208) 0 8 = min 15 l.length ∧
         (∀ i j, i < min 15 l.length → j < 4 → t.reg (mbPage n + 0x210 + 16 * i + 4 * j) = s.reg (fltReg n (l.getD i 0) + 4 * j)) ∧
         Only [.regs, .bar2, .out, .loads] s t ∧
         PagesBut [mbPage n, pg 8 6] s t) ∧
  (∀ (s : State) (n : Nat),
     n < 16 →
     s.ready = true →
     s.isMember = false →
     s.regFld (mbPage n + 0x44) 0 2 = 1 →
     s.regFld (mbPage n + 0x100) 0 16 = 35 →
     s.regFld (mbPage n + 0x100) 16 16 = 2 →
     s.fltValid n (s.mbArg n 0 1) = true →
     s.mbArg n 0 1 < 32 →
     s.mbArg n 1 1 = 0 →
     (s.mmu n).units = [] →
     s.restarting 8 = false →
       ∃ t, exec (.resume n) s = .next t ∧
         t.regFld (mbPage n + 0x200) 0 16 = 0 ∧
         t.regFld (mbPage n + 0x44) 0 2 = 2 ∧
         t.fltValid n (s.mbArg n 0 1) = false ∧
         Only [.regs, .back, .bar2, .out, .mmus, .loads] s t) ∧
  (∀ (s : State) (n : Nat),
     n < 16 →
     s.ready = true →
     s.isMember = false →
     s.regFld (mbPage n + 0x44) 0 2 = 1 →
     s.regFld (mbPage n + 0x100) 0 16 = 35 →
     s.regFld (mbPage n + 0x100) 16 16 = 2 →
     s.fltValid n (s.mbArg n 0 1) = false →
     s.restarting 8 = false →
       ∃ t, exec (.resume n) s = .next t ∧
         t.regFld (mbPage n + 0x200) 0 16 = 0x121 ∧
         t.regFld (mbPage n + 0x44) 0 2 = 2 ∧
         Only [.regs, .bar2, .out, .loads] s t ∧
         PagesBut [mbPage n, pg 8 6] s t)

/-- GRAN_OWNER gives a granule to a tenant or frees it; GRAN_DONE has zeroed it and nothing else. (11_memory_and_faults.md R229,
20_security.md R409) -/
def Obligations.GranulesChangeHandsZeroed : Prop :=
  (∀ (s : State) (req i : Nat) (val : Word),
     s.takes 0x0B req 8 5 0x50 = true →
     s.granBusy = none →
     s.regFld (memPage + 0x4C) 0 16 = i →
     i * 2 ^ 21 < dpaTenantEnd s.asm →
       ∃ t, exec (.granOwner req val) s = .next t ∧
         (tabGet 0 t.grans i = (if bitOf val 7 then fld val 0 4 + 1 else 0)) ∧
         t.granBusy = some i ∧
         Only [.regs, .bar2, .out, .tenants, .sec, .grans, .granBusy] s t) ∧
  (∀ (s : State) (req i : Nat) (val : Word),
     s.takes 0x0B req 8 5 0x50 = true →
     s.granBusy = some i →
       ∃ t, exec (.granOwner req val) s = .next t ∧
         t.reg (memPage + 0x34) = BitVec.ofNat 32 (0x50 + 5 * 2 ^ 12 + req % 32 * 2 ^ 16) ∧
         Only [.regs, .bar2, .out] s t ∧
         RegsBut (rejRegs memPage) s t) ∧
  (∀ (s : State) (i : Nat),
     s.mainOk = true →
     s.granBusy = some i →
       ∃ t, exec (.granDone) s = .next t ∧
         (∀ a, i * 2 ^ 21 ≤ a → a < (i + 1) * 2 ^ 21 → tabGet 0#8 t.ram (ramKey spStack a) = 0#8) ∧
         t.granBusy = none ∧
         t.latched memPage 3 = true ∧
         Only [.regs, .bar2, .out, .ram, .granBusy, .poison] s t ∧
         RamBut (ramKey spStack (i * 2 ^ 21)) (2 ^ 21) s t)

/-- Errors and replays are counted, uncorrectable words poisoned or their holders ended; a die-fatal error takes its die down, a package-
fatal one every take. (01_assemblies.md R22, 11_memory_and_faults.md R237, 11_memory_and_faults.md R238, 11_memory_and_faults.md R239,
11_memory_and_faults.md R240, 11_memory_and_faults.md R241, 11_memory_and_faults.md R242, 11_memory_and_faults.md R243) -/
def Obligations.MemoryErrorsPoisonAndTakeDiesDown : Prop :=
  (∀ (s : State) (site kind unit : Nat),
     1 ≤ kind →
     kind ≤ 4 →
     s.dieUp site = true →
       ∃ t, exec (.correctedError site kind unit) s = .next t ∧
         (t.reg (pg site 0x0A + 0x40 + 4 * (kind - 1))).toNat = min 0xFFFFFFFF ((s.reg (pg site 0x0A + 0x40 + 4 * (kind - 1))).toNat + 1) ∧
         Only [.regs, .bar2, .out, .ces] s t ∧
         RegsBut ((pg site 0x0A + 0x40 + 4 * (kind - 1)) :: evtRegs memPage) s t) ∧
  (∀ (s : State) (site unit : Nat),
     s.stackAt site unit = true →
     (s.reg (memPage + 0x54)).toNat ≤ 1 →
       ∃ t, exec (.correctedError site 0 unit) s = .next t ∧
         (t.reg (pg site (12 + unit) + 0x40)).toNat = min 0xFFFFFFFF ((s.reg (pg site (12 + unit) + 0x40)).toNat + 1) ∧
         t.latched memPage 0 = true ∧
         Only [.regs, .bar2, .out, .ces] s t) ∧
  (∀ (s : State) (site addr : Nat),
     s.mainOk = true →
     addr < dpaEnd s.asm →
     s.dpaSite addr = site →
       ∃ t, exec (.uncorrectableError site 0 addr) s = .next t ∧
         ramKey spStack (addr / 64 * 64) ∈ t.poison ∧
         (t.reg (s.ctlPage addr + 0x44)).toNat = min 0xFFFFFFFF ((s.reg (s.ctlPage addr + 0x44)).toNat + 1) ∧
         Only [.regs, .poison] s t ∧
         RegsBut [s.ctlPage addr + 0x44] s t) ∧
  (∀ (s : State) (site addr : Nat),
     s.dieUp site = true →
       ∃ t, exec (.uncorrectableError site 1 addr) s = .next t ∧
         ramKey (spBin site) (addr % 2 ^ 26 / 8 * 8) ∈ t.poison ∧
         Only [.poison] s t) ∧
  (∀ (s : State) (site addr : Nat),
     s.dieUp site = true →
       ∃ t, exec (.uncorrectableError site 2 addr) s = .next t ∧
         ramKey (spCore site (addr / 2 ^ 20 % 64)) (addr % 2 ^ 20 / wordLen (spCore site (addr / 2 ^ 20 % 64)) * wordLen (spCore site (addr / 2 ^ 20 % 64))) ∈ t.poison ∧
         Only [.poison] s t) ∧
  (∀ (s : State) (site addr : Nat),
     s.dieUp site = true →
     addr / 2 ^ 24 < 6 →
     addr % 2 ^ 24 < 2 ^ 19 →
       ∃ t, exec (.uncorrectableError site 3 addr) s = .next t ∧
         ramKey (spLine site (addr / 2 ^ 24)) (addr % 2 ^ 24 / wordLen (spLine site (addr / 2 ^ 24)) * wordLen (spLine site (addr / 2 ^ 24))) ∈ t.poison ∧
         Only [.poison] s t) ∧
  (∀ (s : State) (site addr : Nat) (p : Nat × Slate),
     s.dieUp site = true →
     s.slates.find? (fun x => x.2.state != 3 && x.2.groups.any (fun g => g.site == site && decide (g.flag ≤ addr) && decide (addr < g.flag + cFlags x.2.cont))) = some p →
     p.2.kind = 2 →
     s.slate p.2.handle = some p.2 →
       ∃ t, exec (.uncorrectableError site 4 addr) s = .next t ∧
         (∃ z ∈ t.slates, z.2.handle = p.2.handle ∧ z.2.faulted = true) ∧
         Only [.regs, .back, .bar2, .out, .ram, .hmem, .slotRings, .cueQs, .binFlags, .slates, .cancels, .tqs, .sched, .dqs, .cores, .cmbs, .engs, .mmus, .poison] s t) ∧
  (∀ (s : State) (site ctl : Nat),
     let i := tabGet 0 s.scrubs (site * 2 + ctl)
     s.stackAt site ctl = true →
     i + 1 < 2 ^ 28 →
       ∃ t, exec (.scrub site ctl 0) s = .next t ∧
         tabGet 0 t.scrubs (site * 2 + ctl) = i + 1 ∧
         (t.reg (pg site (12 + ctl) + 0x48)).toNat = (i + 1) / 1024 ∧
         Only [.regs, .scrubs] s t ∧
         RegsBut [pg site (12 + ctl) + 0x48] s t) ∧
  (∀ (s : State) (site ctl : Nat),
     s.stackAt site ctl = true →
     tabGet 0 s.scrubs (site * 2 + ctl) + 1 = 2 ^ 28 →
       ∃ t, exec (.scrub site ctl 0) s = .next t ∧
         tabGet 0 t.scrubs (site * 2 + ctl) = 0 ∧
         (t.reg (pg site (12 + ctl) + 0x4C)).toNat = min 0xFFFFFFFF ((s.reg (pg site (12 + ctl) + 0x4C)).toNat + 1) ∧
         Only [.regs, .scrubs] s t) ∧
  (∀ (s : State) (site n : Nat),
     s.dieUp site = true →
     n ≤ 8 →
       ∃ t, exec (.linkReplay site n) s = .next t ∧
         (t.reg (pg site 0x0A + 0x50)).toNat = min 0xFFFFFFFF ((s.reg (pg site 0x0A + 0x50)).toNat + 1) ∧
         Only [.regs] s t ∧
         RegsBut [pg site 0x0A + 0x50] s t) ∧
  (∀ (s : State) (site n : Nat),
     s.dieUp site = true →
     8 < n →
     s.st memPage ≠ 5 →
       ∃ t, exec (.linkReplay site n) s = .next t ∧
         t.st memPage = 5 ∧
         t.latched memPage 2 = true ∧
         Output.aerInternal 0x0101 ∈ t.out ∧
         Only [.regs, .back, .bar2, .out, .ram, .hmem, .rings, .strms, .axes, .grps, .slotRings, .cancels, .tqs, .sched, .dqs, .cores, .cmbs, .engs, .mmus, .poison] s t) ∧
  (∀ (s : State) (site code : Nat),
     s.mainDie site = true →
     s.siteUp site = true →
     s.mainOk = true →
       ∃ t, exec (.dieFatalError site code) s = .next t ∧
         t.siteUp site = false ∧
         t.latched (pg 8 0) 1 = true ∧
         (∀ n q e, q < 8 → e ∈ (s.tq n q).entries → e.st ≤ 2 → e.op = 1 → (s.slate e.slate).any (fun x => x.groups.any (fun g => g.site == site)) = true → ∃ z ∈ (t.tq n q).entries, z.n = e.n ∧ z.st = 3) ∧
         (∀ k, ramKey (site * 256) 0 ≤ k → k < ramKey (site * 256) 0 + 2 ^ 56 → tabGet 0#8 t.ram k = 0#8) ∧
         (∀ b ∈ (if site < 4 then [2 * site, 2 * site + 1] else [site % 8 + 8]), t.regBit (bootPage + 0x54) b = false) ∧
         (∀ u, u / 1024 = site → tabGet {} t.dqs u = {}) ∧
         Only [.regs, .latch, .back, .bar2, .out, .slots, .groups, .ports, .ram, .hmem, .loads, .rings, .strms, .axes, .grps, .slotRings, .cueQs, .binFlags, .slates, .cancels, .tqs, .sched, .dqs, .cores, .cmbs, .engs, .mmus, .poison, .arbs, .capQs, .bndTaken] s t) ∧
  (∀ (s : State) (site : Nat),
     s.mainDie site = true →
     s.mainOk = true →
     s.siteUp site = false →
     s.ready = true →
       ∃ t, exec (.siteReturned site) s = .next t ∧
         t.siteUp site = true ∧
         t.latched (pg 8 0) 2 = true ∧
         (∀ b ∈ (if site < 4 then [2 * site, 2 * site + 1] else [site % 8 + 8]), t.regBit (bootPage + 0x54) b = true) ∧
         t.ram = (if site < 4 then s.loadSection s.mainImage 4 site site else s.loadSection s.mainImage 5 site (site - 8)).ram ∧
         Only [.regs, .bar2, .out, .ram, .free] s t) ∧
  (∀ (s : State) (code : Nat),
     0x0100 ≤ code →
     code ≤ 0x0102 →
     s.mainOk = true →
     s.st memPage ≠ 5 →
       ∃ t, exec (.pkgFatal code) s = .next t ∧
         t.st memPage = 5 ∧
         t.latched memPage 2 = true ∧
         (∀ n q e, q < 8 → e ∈ (s.tq n q).entries → e.st ≤ 2 → e.op = 1 → ∃ z ∈ (t.tq n q).entries, z.n = e.n ∧ z.st = 3) ∧
         Output.aerInternal code ∈ t.out ∧
         (s.ensSt = 2 → t.ensSt = 3) ∧
         (code ≠ 0x0100 → t.mute = s.mute) ∧
         Only [.regs, .back, .bar2, .out, .mute, .ram, .hmem, .rings, .strms, .axes, .grps, .slotRings, .cancels, .tqs, .sched, .dqs, .cores, .cmbs, .engs, .mmus, .poison, .free] s t)

/-- FILTER_UNIT, PYRAMID_UNIT and MATCH_UNIT start when their triggers are met, and hold the unit's results until it is done.
(12_vision_engines.md R249, 12_vision_engines.md R250, 12_vision_engines.md R251, 12_vision_engines.md R252, 12_vision_engines.md R253,
12_vision_engines.md R254, 12_vision_engines.md R257, 12_vision_engines.md R258) -/
def Obligations.EnginesRunUnits : Prop :=
  (∀ (s : State) (site e : Nat) (y : Slate),
     let x := s.eng site e
     let j := decodeJob x.job
     let lag := jobLag y.cont x.group 4 j
     let b := x.base.getD (x.unit, 0)
     let stripe := b.2 + (x.unit - b.1) * j.rows
     let from_ := x.next.headD b.2
     let n := if from_ + j.kh / 2 ≤ stripe + j.rows - 1 - lag then stripe + j.rows - 1 - lag - j.kh / 2 + 1 - from_ else 0
     let rows := x.rows ++ s.unitRows x y j
     let coef := rowPix 2 (if j.func = 0 then j.kw + j.kh else j.kw * j.kh) ((paramSec y.cont).drop (j.p 8 4))
     s.engineAt site e 0 y = true →
     s.stripeReady x y j = true →
     ((List.range n).all (fun i => decide ((from_ + i + lag + j.kh / 2 - stripe) * j.outStride + j.width * vPix j.fout ≤ (s.unitOutput y x j).2.2))) = true →
     s.linePoison site e j = [] →
       ∃ t, exec (.filterUnit site e) s = .next t ∧
         (t.eng site e).busy = true ∧
         (t.eng site e).unit = x.unit ∧
         (t.eng site e).cost = j.cycles (fun _ => 0) ∧
         (t.eng site e).writes.length = n ∧
         (∀ i, i < n → (t.eng site e).writes.getD i (0, 0, []) = ((s.unitOutput y x j).1, (s.unitOutput y x j).2.1 + (from_ + i + lag + j.kh / 2 - stripe) * j.outStride, (List.range j.width).flatMap (fun c => pixPut j.fout (satPix j.fout (filterPix j coef ((List.range j.kh).flatMap (fun (a : Nat) => (List.range j.kw).map (fun (v : Nat) => pixAt rows 0 j.border (pixOf j.fin (j.p 4 2)) j.width b.2 ((from_ + i + a : Nat) - ((j.kh / 2 : Nat) : Int)) ((c + v : Nat) - ((j.kw / 2 : Nat) : Int))))))).1))) ∧
         (t.eng site e).begun = s.now ∧
         Only [.regs, .engs] s t ∧
         RegsBut [engPage site e + 0x40] s t) ∧
  (∀ (s : State) (site e : Nat) (y : Slate) (ps : List (List (Nat × Nat × Nat))),
     let x := s.eng site e
     let j := decodeJob x.job
     let b := x.base.getD (x.unit, 0)
     let first := b.2 + (x.unit - b.1) * j.rows
     let lag := jobLag y.cont x.group 4 j
     let r := pyrAll j.width b.2 x.next (j.p 0 1) 0 (first + j.rows - lag) (x.rows ++ s.unitRows x y j)
     let ws := (r.1.filter (fun q => if q.1 = 0 then decide (first - lag ≤ q.2.1) else decide (x.next.getD (q.1 - 1) 0 ≤ q.2.1))).filter (fun q => decide (0 < (j.lvl y.cont q.1).rows))
     s.engineAt site e 1 y = true →
     s.stripeReady x y j = true →
     s.levelsAt y x.group true (ws.map (fun q => (j.lvl y.cont q.1, q.2.1, q.2.2.length * vPix j.fout))) ps = true →
     s.linePoison site e j = [] →
       ∃ t, exec (.pyramidUnit site e) s = .next t ∧
         (t.eng site e).busy = true ∧
         (t.eng site e).cost = j.cycles (fun _ => 0) ∧
         (t.eng site e).next = r.2 ∧
         (t.eng site e).writes = (List.range ws.length).flatMap (fun i => cutWrites (ps.getD i []) (((ws.getD i (0, 0, [])).2.2.map (satPix j.fout)).flatMap (fun v => pixPut j.fout v.1))) ∧
         (t.eng site e).begun = s.now ∧
         Only [.regs, .engs] s t ∧
         RegsBut [engPage site e + 0x40] s t) ∧
  (∀ (s : State) (site e : Nat) (y : Slate) (h : Nat) (rest : List Nat),
     let x := s.eng site e
     let j := decodeJob x.job
     let q := y.cueAt (j.trigIn / 2 ^ 16 % 2 ^ 12) (j.trigIn % 64)
     let d := decodeFDesc h
     let nb := (blocksAt j.width j.lvlF j.bsz d.first d.last).1 * (blocksAt j.width j.lvlF j.bsz d.first d.last).2
     s.engineAt site e 2 y = true →
     x.busy = false →
     s.unitOut y x j = true →
     s.cueLive q.1 q.2 = h :: rest →
     j.linesMin ≤ d.last + 1 - d.first →
     d.last + 1 - d.first ≤ j.linesMax →
     d.valid = false →
     (matchSlot (List.replicate nb (0, 0)) (List.replicate nb (0, 8))).length ≤ (s.unitOutput y x j).2.2 →
     s.linePoison site e j = [] →
       ∃ t, exec (.matchUnit site e) s = .next t ∧
         (t.eng site e).busy = true ∧
         t.cue q.1 q.2 = rest ∧
         (t.eng site e).writes = [((s.unitOutput y x j).1, (s.unitOutput y x j).2.1, matchSlot (List.replicate nb (0, 0)) (List.replicate nb (0, 8)))] ∧
         t.latched (engPage site e) 2 = true ∧
         (t.eng site e).cost = j.cycles (fun l => (blocksAt j.width l j.bsz d.first d.last).1 * (blocksAt j.width l j.bsz d.first d.last).2) ∧
         Only [.regs, .bar2, .out, .cueQs, .engs] s t ∧
         RegsBut ((engPage site e + 0x40) :: evtRegs (engPage site e)) s t) ∧
  (∀ (s : State) (site e : Nat) (y : Slate) (h : Nat) (rest : List Nat),
     let x := s.eng site e
     let j := decodeJob x.job
     let q := y.cueAt (j.trigIn / 2 ^ 16 % 2 ^ 12) (j.trigIn % 64)
     let d := decodeFDesc h
     let n := cdiv (lvlWidth j.width j.lvlF) j.bsz * cdiv (cdiv j.linesMax (2 ^ j.lvlF)) j.bsz
     s.engineAt site e 2 y = true →
     x.busy = false →
     s.unitOut y x j = true →
     s.linePoison site e j = [] →
     s.cueLive q.1 q.2 = h :: rest →
     d.last + 1 - d.first < j.linesMin ∨ j.linesMax < d.last + 1 - d.first →
     d.valid = false →
     (matchSlot (List.replicate n (0, 0)) (List.replicate n (0, 40))).length ≤ (s.unitOutput y x j).2.2 →
       ∃ t, exec (.matchUnit site e) s = .next t ∧
         (t.eng site e).busy = true ∧
         t.cue q.1 q.2 = rest ∧
         (t.eng site e).writes = [((s.unitOutput y x j).1, (s.unitOutput y x j).2.1, matchSlot (List.replicate n (0, 0)) (List.replicate n (0, 40)))] ∧
         (t.eng site e).cost = j.worst ∧
         t.latched (engPage site e) 2 = true ∧
         t.latched (engPage site e) 3 = true ∧
         Only [.regs, .bar2, .out, .cueQs, .engs] s t ∧
         RegsBut ((engPage site e + 0x40) :: evtRegs (engPage site e)) s t) ∧
  (∀ (s : State) (site e : Nat) (y : Slate) (h : Nat) (rest : List Nat) (ps : List (List (Nat × Nat × Nat))),
     let x := s.eng site e
     let j := decodeJob x.job
     let q := y.cueAt (j.trigIn / 2 ^ 16 % 2 ^ 12) (j.trigIn % 64)
     let d := decodeFDesc h
     let ls := (List.range (j.lvlC + 1 - j.lvlF)).map (fun i => j.lvlF + i)
     let l := j.lvlF
     let reqs := ls.flatMap (matchRows j y.cont d)
     let lev := ls.flatMap (fun m => List.replicate (matchRows j y.cont d m).length m)
     let rows := fun (n : Nat) => ((List.range reqs.length).filter (fun i => lev.getD i 0 == n)).map (fun i => rowPix j.fin (lvlWidth j.width n) (s.gather (ps.getD i [])))
     let img := fun (n : Nat) => (({ rows := (rows n).take (d.last / 2 ^ n + 1 - d.first / 2 ^ n), w := lvlWidth j.width n } : Img), ({ rows := (rows n).drop (d.last / 2 ^ n + 1 - d.first / 2 ^ n), w := lvlWidth j.width n } : Img))
     let cur := (img l).1
     let ref := (img l).2
     let fs := matchLevels j img (fun _ _ => (rneDiv d.dy (2 ^ (8 + j.lvlC)), rneDiv d.dx (2 ^ (8 + j.lvlC)))) (j.lvlC - j.lvlF) l
     let m := fs.map (fun f => ((satPix 2 (f.vec.1 * 2 ^ l)).1, (satPix 2 (f.vec.2 * 2 ^ l)).1))
     let cf := (List.range fs.length).map (fun i => confFlags j (fs.getD i {}) (backward j cur ref (cur.block j.bsz i) (fs.getD i {})) (decide ((cur.block j.bsz i).2.2.1 < j.bsz) || decide ((cur.block j.bsz i).2.2.2 < j.bsz)))
     s.engineAt site e 2 y = true →
     x.busy = false →
     s.unitOut y x j = true →
     s.cueLive q.1 q.2 = h :: rest →
     j.linesMin ≤ d.last + 1 - d.first →
     d.last + 1 - d.first ≤ j.linesMax →
     d.valid = true →
     (reqs.all (fun r => r.1.rows != 0)) = true →
     s.levelsAt y x.group false reqs ps = true →
     (ps.all (fun p => p.all (fun r => !s.poisoned r.1 r.2.1 r.2.2))) = true →
     (matchSlot m cf).length ≤ (s.unitOutput y x j).2.2 →
     s.linePoison site e j = [] →
       ∃ t, exec (.matchUnit site e) s = .next t ∧
         (t.eng site e).busy = true ∧
         t.cue q.1 q.2 = rest ∧
         (t.eng site e).writes = [((s.unitOutput y x j).1, (s.unitOutput y x j).2.1, matchSlot m cf)] ∧
         Only [.regs, .cueQs, .engs] s t ∧
         RegsBut [engPage site e + 0x40] s t) ∧
  (∀ (a b : Img) (y x : Int) (h w : Nat) (c : Int × Int) (ry rx : Nat),
     (∀ i k : Nat, i < 2 * ry + 1 → k < 2 * rx + 1 → (search a b y x h w c ry rx).cost ≤ sad a b y x h w (c.1 + i - ry, c.2 + k - rx)) ∧
     (search a b y x h w c ry rx).cost = sad a b y x h w (search a b y x h w c ry rx).best)

/-- UNIT_DONE makes the writes readable, adds 1 to DONE and starts the next unit's wait; UNIT_OVERRUN faults the stage; CLR_MAX.
(12_vision_engines.md R249, 12_vision_engines.md R260, 12_vision_engines.md R263, 12_vision_engines.md R267, 10_data_movement.md R210) -/
def Obligations.UnitsComplete : Prop :=
  (∀ (s : State) (site e : Nat) (y : Slate) (wr : Nat × Nat × List Byte),
     let x := s.eng site e
     let j := decodeJob x.job
     let f := y.flagAt (j.done / 2 ^ 16 % 2 ^ 12) (j.done % 1024)
     s.engineAt site e (e / 2) y = true →
     x.busy = true →
     x.cost ≤ j.cyc →
     (x.used.all (fun ep => !s.cancelled site ep)) = true →
     x.writes = [wr] →
     s.zeroing wr.1 wr.2.1 = false →
     s.ownsAt y.tenant wr.1 wr.2.1 = true →
       ∃ t, exec (.unitDone site e) s = .next t ∧
         (t.eng site e).busy = false ∧
         (t.eng site e).unit = x.unit + 1 ∧
         t.ramGet wr.1 wr.2.1 wr.2.2.length = wr.2.2 ∧
         t.bflag f.1 f.2 = (s.flagValue f.1 f.2 + 1) % 65536 + x.used.headD 0 * 65536 ∧
         t.latched (engPage site e) 0 = true ∧
         (s.conf y.tenant = false → t.reg (engPage site e + 0x48) = s.reg (engPage site e + 0x48) + 1#32 ∧ (j.cyc < 2 ^ 32 → x.cost ≤ (t.reg (engPage site e + 0x4C)).toNat ∧ (t.reg (engPage site e + 0x4C)).toNat ≤ j.cyc)) ∧
         Only [.regs, .bar2, .out, .ram, .slotRings, .binFlags, .engs, .poison, .free] s t ∧
         RamBut (ramKey wr.1 wr.2.1) wr.2.2.length s t) ∧
  (∀ (s : State) (site e : Nat) (y : Slate),
     let x := s.eng site e
     s.engineAt site e (e / 2) y = true →
     x.busy = true →
     s.bndTaken.contains (workKey (.stage x.handle)) = false →
       ∃ t, exec (.unitOverrun site e) s = .next t ∧
         t.st (engPage site e) = 5 ∧
         ((s.regFld (engPage site e + 0x1C) 16 3 < 2 → t.regFld (engPage site e + 0x1C) 0 16 = 0x0100)) ∧
         (∃ z ∈ t.slates, z.2.handle = y.handle ∧ z.2.faulted = true) ∧
         (t.eng site e).busy = false ∧
         Only [.regs, .back, .bar2, .out, .ram, .hmem, .slotRings, .slates, .cancels, .tqs, .sched, .dqs, .cores, .cmbs, .engs, .mmus, .poison, .bndTaken, .free] s t) ∧
  (∀ (s : State) (req site e : Nat) (val : Word),
     e < 6 →
     s.takes (0x49 + e / 2) req site (0x60 + e) 0x58 = true →
     val = 1#32 →
       ∃ t, exec (.clrMax req site e val) s = .next t ∧
         t.reg (engPage site e + 0x50) = 0#32 ∧
         Only [.regs] s t ∧
         RegsBut [engPage site e + 0x50] s t)

/-- Bursts join the line in its window and RD_CLOSE ends it, lost taps counted; a lost clock is a fault; alignment shows f_DCO or fails.
(13_gates.md R270, 13_gates.md R271, 13_gates.md R273, 13_gates.md R274, 13_gates.md R276, 13_gates.md R277, 13_gates.md R285) -/
def Obligations.LineReadoutClockAndAlignment : Prop :=
  (∀ (s : State) (site g : Nat) (tap : Nat) (words : List Nat) (cap : Cap),
     s.isField site = true →
     g < 8 →
     (s.gate site g).cur = some cap →
     cap.trig + fld (cap.cfg.getD 3 0#32) 0 16 ≤ s.now →
     s.now ≤ cap.trig + fld (cap.cfg.getD 3 0#32) 16 16 →
     tap < capTaps cap.cfg →
     words.length = capPixels cap.cfg * capPlanes cap.cfg / capTaps cap.cfg →
     (cap.taps.any (fun t => t.1 == tap)) = false →
       ∃ t, exec (.tapBurst site g tap words) s = .next t ∧
         (t.gate site g).cur = some { cap with taps := cap.taps ++ [(tap, words)] } ∧
         Only [.gates] s t) ∧
  (∀ (s : State) (site g : Nat) (tap : Nat) (words : List Nat) (cap : Cap),
     s.isField site = true →
     g < 8 →
     (s.gate site g).cur = some cap →
     cap.trig + fld (cap.cfg.getD 3 0#32) 16 16 < s.now →
       ∃ t, exec (.tapBurst site g tap words) s = .next t ∧
         (t.reg (gatePage site g + 0xB0)).toNat = min 0xFFFFFFFF ((s.reg (gatePage site g + 0xB0)).toNat + words.length) ∧
         t.latched (gatePage site g) 4 = true ∧
         Only [.regs, .bar2, .out] s t ∧
         RegsBut ((gatePage site g + 0xB0) :: evtRegs (gatePage site g)) s t) ∧
  (∀ (s : State) (site g : Nat) (cap : Cap),
     s.isField site = true →
     g < 8 →
     (s.gate site g).cur = some cap →
     cap.trig + fld (cap.cfg.getD 3 0#32) 16 16 ≤ s.now →
     cap.retaken = false →
     ((List.range (capTaps cap.cfg)).all (fun k => cap.taps.any (fun u => u.1 == k))) = true →
       ∃ t, exec (.rdClose site g) s = .next t ∧
         (t.gate site g).cur = none ∧
         (t.gate site g).runFirst = none ∧
         t.regFld (gatePage site g + 0xA4) 4 2 = 0 ∧
         t.reg (gatePage site g + 0xAC) = s.reg (gatePage site g + 0xAC) ∧
         ((cap.takers = [2 * g] → s.stillTakes site (2 * g) cap.line = true → t.reg (strPage site (2 * g) + 0x58) = BitVec.ofNat 32 (cap.line % 2 ^ 32))) ∧
         Only [.regs, .bar2, .out, .ram, .hmem, .rings, .strms, .gates, .axes, .grps, .slotRings, .cueQs, .binFlags, .slates, .cancels, .dqs, .cores, .cmbs, .engs, .poison] s t) ∧
  (∀ (s : State) (site g : Nat) (cap : Cap),
     s.isField site = true →
     g < 8 →
     (s.gate site g).cur = some cap →
     cap.trig + fld (cap.cfg.getD 3 0#32) 16 16 ≤ s.now →
     cap.retaken = false →
     capTaps cap.cfg = 4 →
     (cap.taps.map (fun u => u.1)) = [0, 1, 3] →
     s.regFld (gatePage site g + 0xA4) 4 2 < 2 →
       ∃ t, exec (.rdClose site g) s = .next t ∧
         (t.gate site g).cur = none ∧
         t.regFld (gatePage site g + 0xA4) 4 2 = s.regFld (gatePage site g + 0xA4) 4 2 + 1 ∧
         (t.reg (gatePage site g + 0xAC)).toNat = min 0xFFFFFFFF ((s.reg (gatePage site g + 0xAC)).toNat + 1) ∧
         t.latched (gatePage site g) 0 = true ∧
         (t.gate site g).stopped = (s.gate site g).stopped ∧
         Only [.regs, .bar2, .out, .ram, .hmem, .rings, .strms, .gates, .axes, .grps, .slotRings, .cueQs, .binFlags, .slates, .cancels, .dqs, .cores, .cmbs, .engs, .poison] s t) ∧
  (∀ (s : State) (site g : Nat) (cap : Cap),
     s.isField site = true →
     g < 8 →
     (s.gate site g).cur = some cap →
     cap.trig + fld (cap.cfg.getD 3 0#32) 16 16 ≤ s.now →
     cap.retaken = false →
     capTaps cap.cfg = 4 →
     (cap.taps.map (fun u => u.1)) = [0, 1, 3] →
     s.regFld (gatePage site g + 0xA4) 4 2 = 2 →
     (s.gate site g).top ≠ 0 →
     (s.gate site g).stopped = false →
     (s.grp site g).retake = none →
       ∃ t, exec (.rdClose site g) s = .next t ∧
         (t.gate site g).stopped = true ∧
         t.latched (gatePage site g) 1 = true ∧
         Only [.regs, .bar2, .out, .ram, .hmem, .rings, .strms, .gates, .axes, .grps, .slotRings, .cueQs, .binFlags, .slates, .cancels, .dqs, .cores, .cmbs, .engs, .poison] s t) ∧
  (∀ (s : State) (site g : Nat),
     s.isField site = true →
     g < 8 →
     s.active (gatePage site g) = true →
     s.regBit (gatePage site g + 0xA4) 2 = true →
       ∃ t, exec (.dcoLost site g) s = .next t ∧
         t.regBit (gatePage site g + 0xA4) 2 = false ∧
         t.latched (gatePage site g) 3 = true ∧
         t.latched (gatePage site g) 1 = true ∧
         Only [.regs, .bar2, .out, .ram, .hmem, .rings, .strms, .gates, .axes, .grps, .slotRings, .cueQs, .binFlags, .slates, .cancels, .dqs, .cores, .cmbs, .engs, .poison] s t) ∧
  (∀ (s : State) (site g : Nat),
     s.isField site = true →
     g < 8 →
     s.active (gatePage site g) = true →
     s.regBit (gatePage site g + 0xA4) 2 = false →
       ∃ t, exec (.dcoReturn site g) s = .next t ∧
         t.regBit (gatePage site g + 0xA4) 2 = true ∧
         t.regBit (gatePage site g + 0xA4) 0 = false ∧
         Only [.regs] s t ∧
         RegsBut [gatePage site g + 0xA4] s t) ∧
  (∀ (s : State) (site g : Nat) (khz : Nat),
     s.isField site = true →
     g < 8 →
     s.aligning site g = true →
     khz ≤ 750000 →
     s.burstsFit site g khz = true →
       ∃ t, exec (.aligned site g khz) s = .next t ∧
         t.reg (gatePage site g + 0xA8) = BitVec.ofNat 32 khz ∧
         t.regBit (gatePage site g + 0xA4) 0 = true ∧
         t.regBit (gatePage site g + 0xA4) 2 = true ∧
         t.latched (gatePage site g) 2 = true ∧
         Only [.regs, .bar2, .out, .free] s t ∧
         RegsBut ([gatePage site g + 0xA8, gatePage site g + 0xA4, gatePage site g + 0xB4, gatePage site g + 0xB8] ++ evtRegs (gatePage site g)) s t) ∧
  (∀ (s : State) (site g : Nat) (khz : Nat),
     s.isField site = true →
     g < 8 →
     s.st (gatePage site g) = 1 →
     750000 < khz →
       ∃ t, exec (.aligned site g khz) s = .next t ∧
         t.st (gatePage site g) = 5 ∧
         t.regBit (gatePage site g + 0xA4) 0 = false ∧
         Only [.regs, .bar2, .out, .ram, .hmem, .rings, .strms, .axes, .grps, .slotRings, .cueQs, .binFlags, .slates, .cancels, .dqs, .cores, .cmbs, .engs, .poison, .free] s t) ∧
  (∀ (s : State) (site g : Nat),
     s.isField site = true →
     g < 8 →
     s.st (gatePage site g) = 1 →
       ∃ t, exec (.alignFail site g) s = .next t ∧
         t.st (gatePage site g) = 5 ∧
         t.regBit (gatePage site g + 0xA4) 0 = false ∧
         t.latched (gatePage site g) 26 = true ∧
         Only [.regs, .bar2, .out, .ram, .hmem, .rings, .strms, .axes, .grps, .slotRings, .cueQs, .binFlags, .slates, .cancels, .dqs, .cores, .cmbs, .engs, .poison] s t)

/-- GO and the poll send their bytes, one at a time; the reply of a transfer is held, that of a poll compared. (13_gates.md R284,
13_gates.md R285) -/
def Obligations.SensorSpiTransfers : Prop :=
  (∀ (s : State) (req site g : Nat),
     g < 8 →
     s.takes 0x35 req site (0x38 + g) 0x44 = true →
     s.openSlot site (0x38 + g) = none →
     s.regBit (spiPage site g + 0x44) 8 = false →
     s.regBit (spiPage site g + 0x44) 9 = false →
       ∃ t, exec (.goSpi req site g 1#32) s = .next t ∧
         t.out = s.out ++ [.spi site g (s.regFld (spiPage site g + 0x40) 13 1) (s.regFld (spiPage site g + 0x40) 0 2) (s.regFld (spiPage site g + 0x40) 2 6) (s.regFld (spiPage site g + 0x40) 8 5 + 1) (s.regBit (spiPage site g + 0x40) 14) ((s.regBytes (spiPage site g + 0x100) 8).take (s.regFld (spiPage site g + 0x40) 16 8))] ∧
         t.regBit (spiPage site g + 0x44) 8 = true ∧
         (∀ k, k ≠ site * 8 + g → tabGet {} t.gates k = tabGet {} s.gates k) ∧
         Only [.regs, .out, .gates] s t ∧
         RegsBut [spiPage site g + 0x44] s t) ∧
  (∀ (s : State) (req site g : Nat),
     g < 8 →
     s.takes 0x35 req site (0x38 + g) 0x44 = true →
     s.openSlot site (0x38 + g) = none →
     s.regBit (spiPage site g + 0x44) 8 = false →
     s.regBit (spiPage site g + 0x44) 9 = true →
       ∃ t, exec (.goSpi req site g 1#32) s = .next t ∧
         (t.gate site g).spiWait = true ∧
         t.regBit (spiPage site g + 0x44) 8 = true ∧
         Only [.regs, .gates] s t ∧
         RegsBut [spiPage site g + 0x44] s t) ∧
  (∀ (s : State) (req site g : Nat),
     g < 8 →
     s.takes 0x35 req site (0x38 + g) 0x44 = true →
     s.openSlot site (0x38 + g) = none →
     s.regBit (spiPage site g + 0x44) 8 = true →
       ∃ t, exec (.goSpi req site g 1#32) s = .next t ∧
         t.reg (spiPage site g + 0x34) = BitVec.ofNat 32 (0x44 + 5 * 2 ^ 12 + req % 32 * 2 ^ 16) ∧
         Only [.regs, .bar2, .out] s t ∧
         RegsBut (rejRegs (spiPage site g)) s t) ∧
  (∀ (s : State) (site g : Nat) (rx : Nat),
     s.isField site = true →
     g < 8 →
     s.regBit (spiPage site g + 0x44) 8 = true →
     (s.gate site g).spiWait = false →
     s.regFld (spiPage site g + 0x40) 16 8 = 4 →
       ∃ t, exec (.spiDone site g rx) s = .next t ∧
         t.regBit (spiPage site g + 0x44) 8 = false ∧
         t.reg (spiPage site g + 0x120) = BitVec.ofNat 32 (rx % 2 ^ 32) ∧
         t.latched (spiPage site g) 0 = true ∧
         Only [.regs, .bar2, .out] s t) ∧
  (∀ (s : State) (site g : Nat),
     s.isField site = true →
     g < 8 →
     s.regFld (spiPage site g + 0x48) 0 16 ≠ 0 →
     s.active (gatePage site g) = true →
     s.regFld (spiPage site g + 0x48) 0 16 ≤ (s.gate site g).polls →
     s.regBit (spiPage site g + 0x44) 8 = false →
       ∃ t, exec (.sensorPoll site g) s = .next t ∧
         t.out = s.out ++ [.spi site g (s.regFld (spiPage site g + 0x40) 13 1) (s.regFld (spiPage site g + 0x40) 0 2) (s.regFld (spiPage site g + 0x40) 2 6) (s.regFld (spiPage site g + 0x40) 8 5 + 1) (s.regBit (spiPage site g + 0x40) 14) ((s.regBytes (spiPage site g + 0x140) 8).take (s.regFld (spiPage site g + 0x48) 16 8))] ∧
         (t.gate site g).polls = 0 ∧
         t.regBit (spiPage site g + 0x44) 9 = true ∧
         (∀ k, k ≠ site * 8 + g → tabGet {} t.gates k = tabGet {} s.gates k) ∧
         Only [.regs, .out, .gates] s t ∧
         RegsBut [spiPage site g + 0x44] s t) ∧
  (∀ (s : State) (site g : Nat) (rx : Nat),
     s.isField site = true →
     g < 8 →
     s.regBit (spiPage site g + 0x44) 9 = true →
     BitVec.ofNat 32 rx &&& s.reg (spiPage site g + 0x4C) = s.reg (spiPage site g + 0x50) →
     (s.gate site g).spiWait = false →
       ∃ t, exec (.pollEnd site g rx) s = .next t ∧
         t.regBit (spiPage site g + 0x44) 9 = false ∧
         Only [.regs] s t ∧
         RegsBut [spiPage site g + 0x44] s t) ∧
  (∀ (s : State) (site g : Nat) (rx : Nat),
     s.isField site = true →
     g < 8 →
     s.regBit (spiPage site g + 0x44) 9 = true →
     BitVec.ofNat 32 rx &&& s.reg (spiPage site g + 0x4C) ≠ s.reg (spiPage site g + 0x50) →
     (s.gate site g).spiWait = false →
       ∃ t, exec (.pollEnd site g rx) s = .next t ∧
         t.latched (spiPage site g) 1 = true ∧
         t.latched (gatePage site g) 5 = true ∧
         t.latched (gatePage site g) 1 = true ∧
         Only [.regs, .bar2, .out, .ram, .hmem, .rings, .strms, .gates, .axes, .grps, .slotRings, .cueQs, .binFlags, .slates, .cancels, .dqs, .cores, .cmbs, .engs, .poison] s t)

/-- SHD_DATA reads and writes the half SHD_ADDR names; DARK and FLAT sum 2^N exposures and write the half; ABORT ends one. (13_gates.md
R279, 18_calibration.md R384, 18_calibration.md R385) -/
def Obligations.ShadingMemoryAndMeasurement : Prop :=
  (∀ (s : State) (req site g : Nat) (val : Word),
     g < 8 →
     s.takes 0x33 req site (0x20 + g) 0xC0 = true →
     s.halfInUse site g (s.regFld (gatePage site g + 0xBC) 16 1) = false →
     (s.gate site g).shade = none ∨ (s.gate site g).shHalf ≠ s.regFld (gatePage site g + 0xBC) 16 1 →
       ∃ t, exec (.shdDataWrite req site g val) s = .next t ∧
         t.shade site g (s.regFld (gatePage site g + 0xBC) 16 1) (s.regFld (gatePage site g + 0xBC) 0 16) = val ∧
         t.regFld (gatePage site g + 0xBC) 0 16 = (s.regFld (gatePage site g + 0xBC) 0 16 + 1) % 65536 ∧
         (∀ h i, i < 65536 → (h, i) ≠ ((s.regFld (gatePage site g + 0xBC) 16 1), s.regFld (gatePage site g + 0xBC) 0 16) → t.shade site g h i = s.shade site g h i) ∧
         Only [.regs, .gates] s t ∧
         RegsBut [gatePage site g + 0xBC] s t) ∧
  (∀ (s : State) (req site g : Nat),
     s.isField site = true →
     g < 8 →
     s.reach req site (0x20 + g) = true →
       ∃ t, exec (.shdDataRead req site g) s = .next t ∧
         t.rdata = s.shade site g (s.regFld (gatePage site g + 0xBC) 16 1) (s.regFld (gatePage site g + 0xBC) 0 16) ∧
         t.regFld (gatePage site g + 0xBC) 0 16 = (s.regFld (gatePage site g + 0xBC) 0 16 + 1) % 65536 ∧
         Only [.regs, .rdata] s t ∧
         RegsBut [gatePage site g + 0xBC] s t) ∧
  (∀ (s : State) (req site g : Nat),
     g < 8 →
     s.takes 0x33 req site (0x20 + g) 0xE0 = true →
     s.st (gatePage site g) = 2 →
     s.regBit (gatePage site g + 0xA4) 0 = true →
     s.st (strPage site (2 * g)) = 0 →
     s.st (strPage site (2 * g + 1)) = 0 →
     s.halfInUse site g (s.regFld (gatePage site g + 0xCC) 4 1) = false →
     (s.gate site g).shade = none →
       ∃ t, exec (.scCmdDark req site g 1#32) s = .next t ∧
         (t.gate site g).shade = some false ∧
         (t.gate site g).exps = 0 ∧
         t.regBit (gatePage site g + 0xE4) 0 = true ∧
         (t.gate site g).shHalf = s.regFld (gatePage site g + 0xCC) 4 1 ∧
         (t.gate site g).shN = 2 ^ s.regFld (gatePage site g + 0xCC) 0 4 ∧
         RegsBut [gatePage site g + 0xE4] s t ∧
         Only [.regs, .gates] s t) ∧
  (∀ (s : State) (req site g : Nat),
     g < 8 →
     s.takes 0x33 req site (0x20 + g) 0xE0 = true →
     s.st (gatePage site g) = 2 →
     s.regBit (gatePage site g + 0xA4) 0 = true →
     s.st (strPage site (2 * g)) = 0 →
     s.st (strPage site (2 * g + 1)) = 0 →
     s.halfInUse site g (s.regFld (gatePage site g + 0xCC) 4 1) = false →
     (s.gate site g).shade = none →
     s.regFld (gatePage site g + 0xD4) 0 16 ≠ 0 →
       ∃ t, exec (.scCmdFlat req site g 2#32) s = .next t ∧
         (t.gate site g).shade = some true ∧
         (t.gate site g).exps = 0 ∧
         t.regBit (gatePage site g + 0xE4) 0 = true ∧
         (t.gate site g).shHalf = s.regFld (gatePage site g + 0xCC) 4 1 ∧
         (t.gate site g).shN = 2 ^ s.regFld (gatePage site g + 0xCC) 0 4 ∧
         RegsBut [gatePage site g + 0xE4] s t ∧
         Only [.regs, .gates] s t) ∧
  (∀ (s : State) (req site g : Nat),
     g < 8 →
     s.takes 0x33 req site (0x20 + g) 0xE0 = true →
     (s.gate site g).shade.isSome = true →
       ∃ t, exec (.scCmdAbort req site g 4#32) s = .next t ∧
         (t.gate site g).shade = none ∧
         t.regFld (gatePage site g + 0xE4) 4 4 = 2 ∧
         (t.gate site g).shd = (s.gate site g).shd ∧
         RegsBut [gatePage site g + 0xE4] s t ∧
         Only [.regs, .gates] s t) ∧
  (∀ (s : State) (site g : Nat) (codes : List Nat) (flat : Bool),
     s.isField site = true →
     g < 8 →
     (s.gate site g).shade = some flat →
     (s.gate site g).exps + 1 < (s.gate site g).shN →
     (s.gate site g).shAt ≤ s.now →
       ∃ t, exec (.shadeExposure site g codes false) s = .next t ∧
         (t.gate site g).exps = (s.gate site g).exps + 1 ∧
         (t.gate site g).sums = addCodes (s.gate site g).sums (codes.map (fun c => c % 2 ^ (10 + 2 * s.regFld (gatePage site g + 0x40) 9 2))) ∧
         (t.gate site g).shAt = s.now + max (s.reg (gatePage site g + 0xD0)).toNat (s.reg (gatePage site g + 0x48)).toNat ∧
         Only [.gates] s t) ∧
  (∀ (s : State) (site g : Nat) (codes : List Nat),
     s.isField site = true →
     g < 8 →
     (s.gate site g).shade = some false →
     (s.gate site g).shN ≤ (s.gate site g).exps + 1 →
     (s.gate site g).shAt ≤ s.now →
       ∃ t, exec (.shadeExposure site g codes false) s = .next t ∧
         (t.gate site g).shade = none ∧
         t.latched (gatePage site g) 7 = true ∧
         (∀ q c, q < s.regFld (gatePage site g + 0x40) 12 2 + 1 → c < s.regFld (gatePage site g + 0x44) 0 15 → c < 16384 → t.shade site g (s.gate site g).shHalf (q * 16384 + c) = shadeEntry false (s.shade site g (s.gate site g).shHalf (q * 16384 + c)) ((addCodes (s.gate site g).sums (codes.map (fun c => c % 2 ^ (10 + 2 * s.regFld (gatePage site g + 0x40) 9 2)))).getD (q * s.regFld (gatePage site g + 0x44) 0 15 + c) 0) (s.gate site g).shN (s.regFld (gatePage site g + 0xD4) 0 16) (s.regFld (gatePage site g + 0xD8) 0 16) (s.regFld (gatePage site g + 0xD8) 16 16) (s.regFld (gatePage site g + 0xDC) 0 16)) ∧
         Only [.regs, .bar2, .out, .gates] s t)

/-- Slots go to the entry stage, PIPE_SET binds or refuses, reports close frames, layers are taken and frames emitted in order or at their
hold's end. (14_stripe_pipeline.md R290, 14_stripe_pipeline.md R292, 14_stripe_pipeline.md R294, 14_stripe_pipeline.md R295,
14_stripe_pipeline.md R299, 14_stripe_pipeline.md R300, 14_stripe_pipeline.md R301, 14_stripe_pipeline.md R302, 14_stripe_pipeline.md
R303, 14_stripe_pipeline.md R304, 14_stripe_pipeline.md R305) -/
def Obligations.PipelinesAndFrames : Prop :=
  (∀ (s : State) (site k : Nat) (y : Slate),
     let stopping := s.st (strPage site k) == 3 && s.lineDone site k
     let u := if stopping = true then s.finalRows site k true else s
     let x := u.strm site k
     let rows := x.rows.take (u.slotRows site k)
     let ep := if y.disp = 0 then (y.epoch, u) else u.allocEpoch (y.groups.headD {}).site
     let r := ep.2.sring (u.destSite site k) (u.destCore site k) (u.destRing site k)
     let a := ep.2.slotAddr (u.destSite site k) (u.destCore site k) (u.destRing site k) (ep.2.ringTail (u.destSite site k) (u.destCore site k) (u.destRing site k))
     let bytes := (padTo (u.slotRows site k * ((rows.headD {}).data).length) (rows.flatMap (fun q => q.data)) ++ rows.flatMap (rowTag (packageStream u.asm site k))).take r.slotBytes
     s.isField site = true →
     k < 16 →
     u.slotRows site k ≠ 0 →
     rows ≠ [] →
     rows.length = u.slotRows site k ∨ (stopping = true ∧ x.rows.length ≤ u.slotRows site k) →
     (rows.all (fun r => r.final)) = true →
     u.destFree site k ≠ 0 →
     u.passThrough site k = false →
     u.entryStage site k = some y →
     (u.cue (y.cueAt 0 0).1 (y.cueAt 0 0).2).length < 64 →
       ∃ t, exec (.slotPublish site k) s = .next t ∧
         t.ramGet r.sp a bytes.length = bytes ∧
         (t.strm site k).rows = x.rows.drop (u.slotRows site k) ∧
         (t.strm site k).pub = x.pub + 1 ∧
         (t.cue (y.cueAt 0 0).1 (y.cueAt 0 0).2 = ep.2.cue (y.cueAt 0 0).1 (y.cueAt 0 0).2 ++ [mkHandle (a - (y.groups.headD {}).bin) ((rows.flatMap (fun q => q.data)).length / 64) ((if (rows.headD {}).line = x.l0.getD 0 then 1 else 0) + (if stopping = true ∧ x.rows.length ≤ u.slotRows site k then 2 else 0) + (if (x.priming && rows.any (fun r => decide (r.line ≤ u.watermark site k))) = true then 4 else 0)) ep.1]) ∧
         Only [.regs, .bar2, .out, .ram, .rings, .strms, .slotRings, .cueQs, .binFlags, .slates, .cancels, .engs, .poison] s t ∧
         RamBut (ramKey r.sp a) bytes.length s t) ∧
  (∀ (s : State) (site k : Nat),
     let stopping := s.st (strPage site k) == 3 && s.lineDone site k
     let u := if stopping = true then s.finalRows site k true else s
     let x := u.strm site k
     let rows := x.rows.take (u.slotRows site k)
     s.isField site = true →
     k < 16 →
     u.slotRows site k ≠ 0 →
     rows ≠ [] →
     rows.length = u.slotRows site k ∨ (stopping = true ∧ x.rows.length ≤ u.slotRows site k) →
     (rows.all (fun r => r.final)) = true →
     u.destFree site k ≠ 0 →
     u.passThrough site k = true →
       ∃ t, exec (.slotPublish site k) s = .next t ∧
         (t.strm site k).rows = x.rows.drop (u.slotRows site k) ∧
         (t.strm site k).pub = x.pub + 1 ∧
         Only [.regs, .bar2, .out, .rings, .strms] s t) ∧
  (∀ (s : State) (n : Nat),
     let site := streamSite s.asm (s.mbArg n 0 1)
     let k := s.mbArg n 0 1 % 16
     let stages := s.pipeStages n (s.mbArg n 1 1)
     let ls := s.pipeLayers n (s.mbArg n 1 1) (s.mbArg n 2 1)
     let ys := stages.filterMap (fun q => s.slate q.1)
     let why := s.pipeRefusal n site k (s.mbArg n 3 1) (s.mbArg n 6 1) (s.mbArg n 4 1) (s.mbArg n 5 1) stages ls
     n < 16 →
     s.ready = true →
     s.isMember = false →
     s.regFld (mbPage n + 0x44) 0 2 = 1 →
     s.regFld (mbPage n + 0x100) 0 16 = 0x30 →
     s.regFld (mbPage n + 0x100) 16 16 = 8 + 8 * s.mbArg n 1 1 + (if s.mbArg n 1 1 = 0 then 0 else 12 * s.mbArg n 2 1) →
     s.mbArg n 0 1 < streamCount s.asm →
     s.st (strPage site k) = 0 ∨ (s.spliced site k = true ∧ (s.strm site k).lost = true) →
     s.mbArg n 1 1 ≠ 0 →
     s.restarting 8 = false →
     s.restarting site = false →
     why ≠ 0 ∨ s.mbArg n 7 1 % 2 = 1 →
       ∃ t, exec (.pipeSet n) s = .next t ∧
         t.regFld (mbPage n + 0x44) 0 2 = 2 ∧
         t.regFld (mbPage n + 0x200) 0 16 = why % 65536 ∧
         ((why = 0 → t.reg (mbPage n + 0x208) = BitVec.ofNat 32 (s.pipeLag site k ys % 2 ^ 32))) ∧
         Only [.regs, .bar2, .out, .loads] s t) ∧
  (∀ (s : State) (n : Nat),
     let site := streamSite s.asm (s.mbArg n 0 1)
     let k := s.mbArg n 0 1 % 16
     let stages := s.pipeStages n (s.mbArg n 1 1)
     let ls := s.pipeLayers n (s.mbArg n 1 1) (s.mbArg n 2 1)
     let ys := stages.filterMap (fun q => s.slate q.1)
     let why := s.pipeRefusal n site k (s.mbArg n 3 1) (s.mbArg n 6 1) (s.mbArg n 4 1) (s.mbArg n 5 1) stages ls
     n < 16 →
     s.ready = true →
     s.isMember = false →
     s.regFld (mbPage n + 0x44) 0 2 = 1 →
     s.regFld (mbPage n + 0x100) 0 16 = 0x30 →
     s.regFld (mbPage n + 0x100) 16 16 = 8 + 8 * s.mbArg n 1 1 + (if s.mbArg n 1 1 = 0 then 0 else 12 * s.mbArg n 2 1) →
     s.mbArg n 0 1 < streamCount s.asm →
     s.st (strPage site k) = 0 ∨ (s.spliced site k = true ∧ (s.strm site k).lost = true) →
     s.mbArg n 1 1 ≠ 0 →
     s.restarting 8 = false →
     s.restarting site = false →
     why = 0 →
     s.mbArg n 7 1 % 2 = 0 →
       ∃ t, exec (.pipeSet n) s = .next t ∧
         t.regFld (mbPage n + 0x44) 0 2 = 2 ∧
         t.regFld (mbPage n + 0x200) 0 16 = 0 ∧
         t.reg (mbPage n + 0x208) = BitVec.ofNat 32 (s.pipeLag site k ys % 2 ^ 32) ∧
         (t.strm site k).pipe.map (fun b => (b.stages, b.layers, b.tenant)) = some (stages, ls, n) ∧
         t.reg (pipePage site k + 0x5C) = BitVec.ofNat 32 (s.pipeLag site k ys % 2 ^ 32) ∧
         t.regBit (pipePage site k + 0x80) 0 = true ∧
         Only [.regs, .back, .bar2, .out, .ram, .hmem, .loads, .strms, .slotRings, .cueQs, .binFlags, .slates, .cancels, .dqs, .cores, .cmbs, .engs, .mmus, .poison, .bndTaken] s t) ∧
  (∀ (s : State) (n : Nat) (b : PipeB),
     let site := streamSite s.asm (s.mbArg n 0 1)
     let k := s.mbArg n 0 1 % 16
     n < 16 →
     s.ready = true →
     s.isMember = false →
     s.regFld (mbPage n + 0x44) 0 2 = 1 →
     s.regFld (mbPage n + 0x100) 0 16 = 0x30 →
     s.regFld (mbPage n + 0x100) 16 16 = 8 →
     s.mbArg n 0 1 < streamCount s.asm →
     s.st (strPage site k) = 0 →
     s.mbArg n 1 1 = 0 →
     (s.strm site k).pipe = some b →
     b.tenant = n ∨ n = 0 →
     s.restarting 8 = false →
     s.restarting site = false →
       ∃ t, exec (.pipeSet n) s = .next t ∧
         t.regFld (mbPage n + 0x44) 0 2 = 2 ∧
         t.regFld (mbPage n + 0x200) 0 16 = 0 ∧
         (t.strm site k).pipe = none ∧
         t.reg (pipePage site k + 0x5C) = 0#32 ∧
         t.regBit (pipePage site k + 0x80) 0 = false ∧
         Only [.regs, .back, .bar2, .out, .ram, .hmem, .loads, .strms, .slotRings, .cueQs, .binFlags, .slates, .cancels, .dqs, .cores, .cmbs, .engs, .mmus, .poison, .bndTaken] s t) ∧
  (∀ (s : State) (site k : Nat) (b : PipeB) (y : Slate) (h first : Nat) (rest : List Nat),
     let x := s.strm site k
     let n := match x.reports.getLast? with | some r => r.1 + 1 | none => 0
     let rep := s.ramGet (spBin (y.groups.headD {}).site) ((y.groups.headD {}).bin + handleOff h) 64
     let edges := (List.range (min 7 (leAt rep 0 1))).map (fun i => (16 * (x.l0.getD 0 + n * b.stripeH) + leAt rep (8 + 8 * i) 4, leAt rep (12 + 8 * i) 1))
     let off := fun (e : Nat) => ((e : Int) - (s.reg (pipePage site k + 0x50)).toInt - 16 * s.predict site k first).natAbs
     let good := (x.reports.flatMap (fun r => r.2) ++ edges).filter (fun e => decide (s.regFld (pipePage site k + 0x40) 8 8 ≤ e.2) && decide (off e.1 ≤ 16 * s.perfWin site k))
     let best := good.foldl (fun (m : Option Nat) e => match m with | none => some e.1 | some v => if off e.1 < off v ∨ (off e.1 = off v ∧ e.1 < v) then some e.1 else some v) none
     let bnd := max (first + 1) (min (match best with | some e => (rneDiv ((e : Int) - (s.reg (pipePage site k + 0x50)).toInt) 16).toNat | none => s.predict site k first) (first + s.frameMax site k))
     s.isField site = true →
     s.mainOk = true →
     x.pipe = some b →
     s.boundStage b b.perfStage = some y →
     s.cueLive (y.cueAt 0 b.perfCue).1 (y.cueAt 0 b.perfCue).2 = h :: rest →
     s.perfEn site k = true →
     s.framesEn site k = true →
     x.open_ = some first →
     (x.frames.any (fun f => f.first == first && f.last.isNone)) = true →
     (s.predict site k first + s.perfWin site k - x.l0.getD 0) / max 1 b.stripeH ≤ n →
       ∃ t, exec (.perfReport site k) s = .next t ∧
         t.cue (y.cueAt 0 b.perfCue).1 (y.cueAt 0 b.perfCue).2 = rest ∧
         ((t.strm site k).frames.any (fun f => f.first == first && f.last == some (bnd - 1))) = true ∧
         Only [.regs, .bar2, .out, .rings, .strms, .cueQs] s t) ∧
  (∀ (s : State) (site k : Nat) (b : PipeB) (y : Slate) (f : Frame) (l ei e : Nat) (j : Job),
     let x := s.strm site k
     let pj := fun (q : Nat × Nat) => decodeJob (s.eng q.1 q.2).job
     let q := y.cueAt 0 b.matchCue
     s.mainOk = true →
     x.pipe = some b →
     s.boundStage b b.matchStage = some y →
     x.frames.find? (fun g => !g.pushed) = some f →
     f.last = some l →
     ((secRecs y.cont 11 64).map (fun r => decodeJob r.2.2.2)).find? (fun j => j.engine == 2) = some j →
     y.engs.find? (fun q => (pj q).engine == 1 && (pj q).lvlOff == j.lvlOff) = some (ei, e) →
     ((s.eng ei e).base.any (fun u => decide (l + 2 ^ (j.lvlC + 1) - 2 < u.2 + ((s.eng ei e).unit - u.1) * b.stripeH))) = true →
     y.faulted = false →
     y.state ≠ 3 →
     (s.cue q.1 q.2).length < 64 →
       ∃ t, exec (.frameDescPush site k) s = .next t ∧
         t.cue q.1 q.2 = s.cue q.1 q.2 ++ [mkHandle 0 1 0 (s.flagEpoch y (pj (ei, e)).done) + leNat (fdescBytes { idx := f.idx, first := f.first, last := l, refFirst := (x.refF.getD (0, 0)).1, refLast := (x.refF.getD (0, 0)).2, valid := !f.afterGap && x.refF.isSome, dy := (Config.framePred 0 (s.tp site (k / 2) f.first) (s.tp site (k / 2) (x.refF.getD (0, 0)).1)).toInt, dx := (Config.framePred 1 (s.tp site (k / 2) f.first) (s.tp site (k / 2) (x.refF.getD (0, 0)).1)).toInt }) * 2 ^ 64] ∧
         (t.strm site k).refF = some (f.first, l) ∧
         Only [.strms, .cueQs] s t) ∧
  (∀ (s : State) (site k : Nat) (i h : Nat) (rest : List Nat) (b : PipeB) (y : Slate),
     let u := s.reserve site k
     let x := u.strm site k
     let d := u.ringOf site k
     let def_ := b.layers.getD i {}
     let g := y.groups.headD {}
     let q := y.cueAt 0 def_.index
     let line := u.layerAt site k i true
     let rows := if def_.rowBytes = 0 then 0 else handleLen h / def_.rowBytes
     (s.strm site k).pipe = some b →
     i < b.layers.length →
     u.boundStage b def_.stage = some y →
     s.ringRuns d = true →
     def_.source = 0 →
     u.cueLive q.1 q.2 = h :: rest →
     ((List.range rows).any (fun m => u.rowTo site k i (line + m) == .wait)) = false →
     (u.copyRows site k i def_ d (spBin g.site) (g.bin + handleOff h) line rows).2 = none →
     (x.frames.map (fun f => f.idx)).Nodup →
     u.rowsPoisoned site k i def_ (spBin g.site) (g.bin + handleOff h) line rows = none →
     x.parts.find? (fun z => z.1 == i) = none →
       ∃ t, exec (.layerReceive site k i) s = .next t ∧
         t.cue q.1 q.2 = rest ∧
         t.layerAt site k i true = line + rows ∧
         (∀ f ∈ x.frames, i < f.layers.length → ∃ f2 ∈ (t.strm site k).frames, f2.idx = f.idx ∧ (f2.layers.getD i (0, 0, false, false)).2.1 = (f.layers.getD i (0, 0, false, false)).2.1 + def_.rowBytes * ((List.range rows).filter (fun m => u.rowTo site k i (line + m) == .frame f.idx)).length) ∧
         Only [.regs, .bar2, .out, .ram, .hmem, .rings, .strms, .slotRings, .cueQs, .mmus, .poison] s t) ∧
  (∀ (s : State) (site k : Nat) (i h : Nat) (rest : List Nat) (b : PipeB) (y : Slate) (f : Frame),
     let u := s.reserve site k
     let x := u.strm site k
     let d := u.ringOf site k
     let def_ := b.layers.getD i {}
     let g := y.groups.headD {}
     let q := y.cueAt 0 def_.index
     let n := u.layerAt site k i false
     (s.strm site k).pipe = some b →
     i < b.layers.length →
     u.boundStage b def_.stage = some y →
     s.ringRuns d = true →
     def_.source = 1 →
     u.cueLive q.1 q.2 = h :: rest →
     x.frames.find? (fun f => f.idx == n) = some f →
     (f.layers.getD i (0, 0, false, false)).2.2.2 = false →
     i < f.layers.length →
     (match u.takeFrameLayer site k i d n (u.ramGet (spBin g.site) (g.bin + handleOff h) (handleLen h)) with | some (_, none) => true | _ => false) = true →
     u.poisoned (spBin g.site) (g.bin + handleOff h) (handleLen h) = false →
       ∃ t, exec (.layerReceive site k i) s = .next t ∧
         t.cue q.1 q.2 = rest ∧
         t.layerAt site k i false = n + 1 ∧
         (((t.strm site k).frames.find? (fun f => f.idx == n)).map (fun f => (f.layers.getD i (0, 0, false, true)).2)) = some (handleLen h, true, false) ∧
         Only [.regs, .bar2, .out, .ram, .hmem, .rings, .strms, .slotRings, .cueQs, .mmus, .poison] s t) ∧
  (∀ (s : State) (site k : Nat) (i : Nat) (b : PipeB) (y : Slate) (f : Frame) (l : Nat),
     let u := s.reserve site k
     let x := u.strm site k
     let d := u.ringOf site k
     let def_ := b.layers.getD i {}
     let r := y.engRing 0 def_.index
     let z := u.sring r.1 r.2.1 r.2.2
     let n := u.layerAt site k i false
     let part := slotPart y def_ z.slotBytes f.first l
     let mates := (List.range b.layers.length).filter (fun m => let e := b.layers.getD m {}; e.source == 2 && e.stage == def_.stage && e.index == def_.index)
     (s.strm site k).pipe = some b →
     i < b.layers.length →
     u.boundStage b def_.stage = some y →
     s.ringRuns d = true →
     def_.source = 2 →
     u.ringCount r.1 r.2.1 r.2.2 ≠ 0 →
     (mates.any (fun m => decide (u.layerAt site k m false < n))) = false →
     u.cancelled r.1 (z.epochs.headD 0) = false →
     x.frames.find? (fun f => f.idx == n) = some f →
     f.last = some l →
     (f.layers.getD i (0, 0, false, false)).2.2.2 = false →
     i < f.layers.length →
     (match u.takeFrameLayer site k i d n (u.ramGet z.sp (u.slotAddr r.1 r.2.1 r.2.2 (u.ringHead r.1 r.2.1 r.2.2) + part.1) part.2) with | some (_, none) => true | _ => false) = true →
     u.poisoned z.sp (u.slotAddr r.1 r.2.1 r.2.2 (u.ringHead r.1 r.2.1 r.2.2) + part.1) part.2 = false →
       ∃ t, exec (.layerReceive site k i) s = .next t ∧
         t.layerAt site k i false = n + 1 ∧
         (((t.strm site k).frames.find? (fun f => f.idx == n)).map (fun f => (f.layers.getD i (0, 0, false, true)).2)) = some (part.2, true, false) ∧
         (mates = [i] → t.ringCount r.1 r.2.1 r.2.2 = u.ringCount r.1 r.2.1 r.2.2 - 1) ∧
         Only [.regs, .bar2, .out, .ram, .hmem, .rings, .strms, .slotRings, .cueQs, .mmus, .poison] s t) ∧
  (∀ (s : State) (site k : Nat) (f0 : Frame) (fs : List Frame) (l : Nat),
     let defs := match (s.strm site k).pipe with | some b => b.layers | none => []
     let f := f0.giveUp defs (fun i => s.frameDue site k f0 && (s.frameHold site k == 0 || (match (s.strm site k).pipe with | some b => s.stageBad b (defs.getD i {}).stage | none => true)))
     s.isField site = true →
     s.mainOk = true →
     (s.strm site k).frames = f0 :: fs →
     f0.last = some l →
     (s.strm site k).priming = false ∨ s.watermark site k < l →
     f.missing defs = [] →
     defs ≠ [] →
       ∃ t, exec (.frameEmit site k) s = .next t ∧
         (t.ring (s.ringOf site k)).queue = (s.ring (s.ringOf site k)).queue ++ [{ body := s.frameRec site k f defs l, frame := some (f0.first, l) }] ∧
         t.reg (pipePage site k + 0x6C) = BitVec.ofNat 32 ((f0.idx + 1) % 2 ^ 32) ∧
         ((t.strm site k).frames.map (fun g => g.idx)) = (fs.map (fun g => g.idx)).filter (fun n => n != f0.idx) ∧
         (t.strm site k).sentF = (s.strm site k).sentF ++ [f] ∧
         Only [.regs, .bar2, .out, .rings, .strms] s t) ∧
  (∀ (s : State) (site k : Nat) (f0 : Frame) (fs : List Frame) (l : Nat),
     let defs := match (s.strm site k).pipe with | some b => b.layers | none => []
     let f := f0.giveUp defs (fun _ => true)
     s.isField site = true →
     s.mainOk = true →
     (s.strm site k).frames = f0 :: fs →
     f0.last = some l →
     s.holdOver site k f0 = true →
     f0.missing defs ≠ [] →
       ∃ t, exec (.frameHoldExpire site k) s = .next t ∧
         (t.ring (s.ringOf site k)).queue = (s.ring (s.ringOf site k)).queue ++ [{ body := s.frameRec site k f defs l, frame := some (f0.first, l) }] ∧
         t.reg (pipePage site k + 0x6C) = BitVec.ofNat 32 ((f0.idx + 1) % 2 ^ 32) ∧
         ((t.strm site k).frames.map (fun g => g.idx)) = (fs.map (fun g => g.idx)).filter (fun n => n != f0.idx) ∧
         (t.strm site k).sentF = (s.strm site k).sentF ++ [f] ∧
         Only [.regs, .bar2, .out, .rings, .strms] s t)

/-- SEG_TAIL appends segments whose exact derivative keeps VMAX; starts run the group's waiting segments; a segment's end carries, rests
or underruns. (15_dolly.md R316, 15_dolly.md R317, 15_dolly.md R318, 15_dolly.md R319, 15_dolly.md R485) -/
def Obligations.AxesRunCertifiedSegments : Prop :=
  (∀ (s : State) (req site a : Nat) (val : Word),
     let n := (fld val 0 8 + 256 - s.segHead site a) % 256
     let n0 := (s.segTail site a + 256 - s.segHead site a) % 256
     s.takes 0x37 req site (0x40 + a) 0xAC = true →
     n ≤ 64 →
     n0 ≤ n →
     s.segsOk site a (n - n0) (s.segTail site a) (s.predecessor site a (s.segTail site a)).1 (s.predecessor site a (s.segTail site a)).2 = true →
       ∃ t, exec (.segTail req site a val) s = .next t ∧
         t.reg (axPage site a + 0xAC) = BitVec.ofNat 32 (fld val 0 8) ∧
         Only [.regs] s t ∧
         RegsBut [axPage site a + 0xAC] s t) ∧
  (∀ (s : State) (req site a : Nat) (val : Word),
     let n := (fld val 0 8 + 256 - s.segHead site a) % 256
     let n0 := (s.segTail site a + 256 - s.segHead site a) % 256
     s.takes 0x37 req site (0x40 + a) 0xAC = true →
     64 < n ∨ n < n0 ∨ s.segsOk site a (n - n0) (s.segTail site a) (s.predecessor site a (s.segTail site a)).1 (s.predecessor site a (s.segTail site a)).2 = false →
       ∃ t, exec (.segTail req site a val) s = .next t ∧
         t.reg (axPage site a + 0x34) = BitVec.ofNat 32 (0xAC + 3 * 2 ^ 12 + req % 32 * 2 ^ 16) ∧
         Only [.regs, .bar2, .out] s t ∧
         RegsBut (rejRegs (axPage site a)) s t) ∧
  (∀ (p0 v0 : Int) (g : Seg) (vmax : Nat), g.dur ≠ 0 →
     (curveOk p0 v0 g vmax = true ↔ ∀ x : ℚ, 0 ≤ x → x ≤ 1 →
       |(6 * x ^ 2 - 6 * x) * ((p0 - g.pos : Int) : ℚ) + (g.dur : ℚ) * ((3 * x ^ 2 - 4 * x + 1) * (v0 : ℚ) + (3 * x ^ 2 - 2 * x) * (g.vel : ℚ))| ≤ (vmax : ℚ) * (g.dur : ℚ))) ∧
  (∀ (s : State) (req site a : Nat) (val : Word) (w : When),
     s.takes 0x37 req site (0x40 + a) 0xB8 = true →
     bitOf val 0 = true →
     decodeWhen s.asm (s.wide (axPage site a + 0xB0)) = some w →
     w.kind ≠ 0 →
     s.passed site w = false →
     s.leader site (s.grpOf site a) = some a →
     ((s.groupAxes site (s.grpOf site a)).any (fun b => s.axSource site b == 2 && (s.limUnknown site b 1 || s.limUnknown site b (-1)))) = false →
       ∃ t, exec (.segArm req site a val) s = .next t ∧
         t.segArm site a = some (s.armed site w (bitOf val 1)) ∧
         t.order = s.order + 1 ∧
         t.regBit (axPage site a + 0xB8) 8 = true ∧
         Only [.regs, .segArms, .order] s t ∧
         RegsBut [axPage site a + 0xB8] s t) ∧
  (∀ (s : State) (req site a : Nat) (val : Word),
     s.takes 0x37 req site (0x40 + a) 0xB8 = true →
     bitOf val 0 = true →
     s.wide (axPage site a + 0xB0) = 0 →
     s.leader site (s.grpOf site a) = some a →
     ((s.groupAxes site (s.grpOf site a)).any (fun b => s.axSource site b == 2 && (s.limUnknown site b 1 || s.limUnknown site b (-1)))) = false →
     s.groupHeld site (s.grpOf site a) = false →
     (s.grp site (s.grpOf site a)).stage = 0 →
       ∃ t, exec (.segArm req site a val) s = .next t ∧
         (∀ b ∈ s.groupAxes site (s.grpOf site a), (s.axis site b).run = false → s.axSource site b = 0 → s.segHead site b ≠ s.segTail site b → (s.seg site b (s.segHead site b)).wait = true → s.active (axPage site b) = true → (t.axis site b).run = true ∧ (t.axis site b).tau = 0 ∧ (t.axis site b).p0 = (s.axis site b).phase ∧ (t.axis site b).v0 = (s.axis site b).vel) ∧
         t.regBit (axPage site a + 0xB8) 8 = false ∧
         Only [.regs, .bar2, .out, .segArms, .order, .axes, .grps] s t) ∧
  (∀ (s : State) (req site a : Nat) (val : Word),
     s.takes 0x37 req site (0x40 + a) 0xB8 = true →
     bitOf val 0 = true →
     s.leader site (s.grpOf site a) ≠ some a →
     (s.leader site (s.grpOf site a)).isSome = true →
       ∃ t, exec (.segArm req site a val) s = .next t ∧
         t.reg (axPage site a + 0x34) = BitVec.ofNat 32 (0xB8 + 5 * 2 ^ 12 + req % 32 * 2 ^ 16) ∧
         Only [.regs, .bar2, .out] s t ∧
         RegsBut (rejRegs (axPage site a)) s t) ∧
  (∀ (s : State) (site a : Nat) (x : Armed),
     s.isField site = true →
     a < 16 →
     s.segArm site a = some x →
     s.due site x = true →
     x.late = false →
     s.groupHeld site (s.grpOf site a) = false →
     (s.grp site (s.grpOf site a)).stage = 0 →
       ∃ t, exec (.segStart site a) s = .next t ∧
         (∀ b ∈ s.groupAxes site (s.grpOf site a), (s.axis site b).run = false → s.axSource site b = 0 → s.segHead site b ≠ s.segTail site b → (s.seg site b (s.segHead site b)).wait = true → s.active (axPage site b) = true → (t.axis site b).run = true ∧ (t.axis site b).tau = 0 ∧ (t.axis site b).p0 = (s.axis site b).phase ∧ (t.axis site b).v0 = (s.axis site b).vel) ∧
         t.segArm site a = none ∧
         t.regBit (axPage site a + 0xB8) 8 = false ∧
         Only [.regs, .bar2, .out, .segArms, .axes, .grps] s t) ∧
  (∀ (s : State) (site a : Nat),
     let x := s.axis site a
     let g := s.seg site a (s.segHead site a)
     let nx := s.seg site a (s.segHead site a + 1)
     let last := decide ((s.segHead site a + 1) % 256 = s.segTail site a)
     s.isField site = true →
     a < 16 →
     x.run = true →
     65536 * g.dur ≤ x.tau →
       ∃ t, exec (.segDone site a) s = .next t ∧
         t.segHead site a = (s.segHead site a + 1) % 256 ∧
         t.latched (axPage site a) 4 = true ∧
         ((last = true → (t.axis site a).run = false ∧ (g.vel ≠ 0 → t.latched (axPage site a) 5 = true ∧ t.groupHeld site (s.grpOf site a) = true))) ∧
         ((last = false → (t.axis site a).run = !nx.wait ∧ (t.axis site a).tau = (if nx.wait = true then 0 else x.tau - 65536 * g.dur) ∧ (t.axis site a).p0 = g.pos ∧ (t.axis site a).v0 = g.vel)) ∧
         Only [.regs, .bar2, .out, .ram, .hmem, .rings, .strms, .axes, .grps, .slotRings, .cueQs, .binFlags, .slates, .cancels, .dqs, .cores, .cmbs, .engs, .poison] s t)

/-- The observer declares loss of lock once; modes switch by speed at a zero crossing; quiet duty is the amplitude over the coil table;
stops abandon segments, hold the group and end at RELEASE; PACE slews. (15_dolly.md R322, 15_dolly.md R324, 15_dolly.md R325, 15_dolly.md
R326, 15_dolly.md R327, 15_dolly.md R328, 15_dolly.md R330, 15_dolly.md R333) -/
def Obligations.DollyDriveModesAndGroupStops : Prop :=
  (∀ (s : State) (site a : Nat) (o : Observer) (c : Int × Int),
     let g := s.grpOf site a
     s.isField site = true →
     a < 16 →
     s.axLive site a = true →
     s.regBit (axPage site a + 0x94) 6 = false →
     s.speedGe site a (s.regFld (axPage site a + 0x5C) 0 16) = true →
     s.regFld (axPage site a + 0x5C) 16 8 ≤ o.conf →
     256 < o.angle.natAbs →
     o.samples.getLast? = some c →
       ∃ t, exec (.pwmPeriod site a o) s = .next t ∧
         t.reg (axPage site a + 0xA0) = BitVec.ofNat 32 ((BitVec.ofInt 12 c.1).toNat + (BitVec.ofInt 12 c.2).toNat * 2 ^ 16) ∧
         t.regBit (axPage site a + 0x94) 6 = true ∧
         t.latched (axPage site a) 0 = true ∧
         ((g < 8 → t.regFld (encPage site (s.encOf site g) + 0x50) 0 16 = 0xFFFF)) ∧
         ((s.regBit (axPage site a + 0x40) 10 = false → t.groupHeld site g = true ∧ (s.groupHeld site g = false → (t.grp site g).cause = 3))) ∧
         Only [.regs, .bar2, .out, .ram, .hmem, .rings, .strms, .axes, .grps, .slotRings, .cueQs, .binFlags, .slates, .cancels, .dqs, .cores, .cmbs, .engs, .poison] s t) ∧
  (∀ (s : State) (site a : Nat) (o : Observer),
     s.isField site = true →
     a < 16 →
     s.axLive site a = true →
     s.regBit (axPage site a + 0x94) 6 = false →
     s.regFld (axPage site a + 0x40) 8 2 = 0 →
     s.regBit (axPage site a + 0x94) 1 = false →
     s.speedGe site a (s.regFld (axPage site a + 0x58) 16 16) = true →
     s.speedGe site a (s.regFld (axPage site a + 0x5C) 0 16) = false →
       ∃ t, exec (.pwmPeriod site a o) s = .next t ∧
         (t.axis site a).modeTo = some true ∧
         t.regBit (axPage site a + 0x94) 1 = false ∧
         t.regBit (axPage site a + 0x94) 9 = false ∧
         t.regBit (axPage site a + 0x94) 6 = false ∧
         Only [.regs, .bar2, .out, .axes] s t) ∧
  (∀ (s : State) (site a : Nat) (o : Observer),
     let x := s.axis site a
     let d := s.demand site a
     let n := s.amplitude site a
     s.isField site = true →
     a < 16 →
     s.axLive site a = true →
     s.regBit (axPage site a + 0x94) 6 = false →
     s.regFld (axPage site a + 0x40) 8 2 = 1 →
     s.regBit (axPage site a + 0x94) 1 = false →
     s.speedGe site a (s.regFld (axPage site a + 0x5C) 0 16) = false →
       ∃ t, exec (.pwmPeriod site a o) s = .next t ∧
         (t.axis site a).duty = (if x.keep = true then x.duty else (signed d.1 (quotOpen (n * d.1.natAbs) 4095), signed d.2 (quotOpen (n * d.2.natAbs) 4095))) ∧
         (t.axis site a).keep = false ∧
         (t.axis site a).modeTo = none ∧
         t.regBit (axPage site a + 0x94) 1 = false ∧
         t.regBit (axPage site a + 0x94) 8 = false ∧
         t.regBit (axPage site a + 0x94) 9 = false ∧
         Only [.regs, .bar2, .out, .axes] s t) ∧
  (∀ (s : State) (site a : Nat) (m : Bool),
     s.isField site = true →
     a < 16 →
     (s.axis site a).modeTo = some m →
     (s.axis site a).crossed = true ∨ cosSign (s.theta site a) = 0 →
       ∃ t, exec (.modeSwitch site a) s = .next t ∧
         t.regBit (axPage site a + 0x94) 1 = m ∧
         (t.axis site a) = { s.axis site a with modeTo := none, keep := true } ∧
         t.latched (axPage site a) 2 = true ∧
         Only [.regs, .bar2, .out, .axes] s t ∧
         RegsBut ((axPage site a + 0x94) :: evtRegs (axPage site a)) s t) ∧
  (∀ (s : State) (site a : Nat),
     s.isField site = true →
     a < 16 →
     s.active (axPage site a) = true →
     (s.axis site a).vel = 0 →
     (s.axis site a).restAt + 20000000 ≤ s.now →
     s.axSource site a ≠ 2 ∨ s.regBit (axPage site a + 0x6C) 3 = false →
       ∃ t, exec (.atHold site a) s = .next t ∧
         t.regBit (axPage site a + 0x94) 10 = true ∧
         Only [.regs] s t ∧
         RegsBut [axPage site a + 0x94] s t) ∧
  (∀ (s : State) (req site a : Nat) (val : Word),
     s.takes 0x37 req site (0x40 + a) 0xC0 = true →
     bitOf val 0 = true →
     (s.axis site a).vel = 0 →
       ∃ t, exec (.clrLock req site a val) s = .next t ∧
         t.regBit (axPage site a + 0x94) 6 = false ∧
         t.regBit (axPage site a + 0x94) 8 = false ∧
         Only [.regs] s t ∧
         RegsBut [axPage site a + 0x94] s t) ∧
  (∀ (s : State) (req site a : Nat) (val : Word),
     s.takes 0x37 req site (0x40 + a) 0xC0 = true →
     bitOf val 0 = true →
     (s.axis site a).vel ≠ 0 →
       ∃ t, exec (.clrLock req site a val) s = .next t ∧
         t.reg (axPage site a + 0x34) = BitVec.ofNat 32 (0xC0 + 5 * 2 ^ 12 + req % 32 * 2 ^ 16) ∧
         Only [.regs, .bar2, .out] s t ∧
         RegsBut (rejRegs (axPage site a)) s t) ∧
  (∀ (s : State) (req site g : Nat),
     s.takes 0x38 req site (0x50 + g) 0x58 = true →
     g < 8 →
     s.isField site = true →
     s.groupHeld site g = false →
       ∃ t, exec (.grpCmdStop req site g 1#32) s = .next t ∧
         (t.grp site g).stopping = true ∧
         (t.grp site g).cause = 1 ∧
         (∀ b ∈ s.groupAxes site g, (t.axis site b).run = false ∧ t.segHead site b = s.segTail site b) ∧
         t.latched (grpPage site g) 0 = true ∧
         Only [.regs, .bar2, .out, .ram, .hmem, .rings, .strms, .axes, .grps, .slotRings, .cueQs, .binFlags, .slates, .cancels, .dqs, .cores, .cmbs, .engs, .poison] s t) ∧
  (∀ (s : State) (req site g : Nat),
     s.takes 0x38 req site (0x50 + g) 0x58 = true →
     g < 8 →
     s.groupHeld site g = true →
       ∃ t, exec (.grpCmdStop req site g 1#32) s = .next t ∧
         t.grps = s.grps ∧
         t.axes = s.axes ∧
         t.strms = s.strms ∧
         t.latched (grpPage site g) 3 = true ∧
         Only [.regs, .bar2, .out] s t) ∧
  (∀ (s : State) (req site g : Nat),
     s.takes 0x38 req site (0x50 + g) 0x58 = true →
     g < 8 →
     s.groupAtRest site g = true →
     ((s.groupAxes site g).any (fun b => s.causePresent site b)) = false →
       ∃ t, exec (.grpCmdRelease req site g 2#32) s = .next t ∧
         t.groupHeld site g = false ∧
         (t.grp site g).cause = 0 ∧
         t.latched (grpPage site g) 2 = true ∧
         Only [.regs, .bar2, .out, .axes, .grps] s t) ∧
  (∀ (s : State) (req site g : Nat),
     s.takes 0x38 req site (0x50 + g) 0x58 = true →
     g < 8 →
     s.groupAtRest site g = false ∨ ((s.groupAxes site g).any (fun b => s.causePresent site b)) = true →
       ∃ t, exec (.grpCmdRelease req site g 2#32) s = .next t ∧
         t.reg (grpPage site g + 0x34) = BitVec.ofNat 32 (0x58 + 5 * 2 ^ 12 + req % 32 * 2 ^ 16) ∧
         Only [.regs, .bar2, .out] s t ∧
         RegsBut (rejRegs (grpPage site g)) s t) ∧
  (∀ (s : State) (site a : Nat),
     s.isField site = true →
     a < 16 →
     s.axLive site a = true ∨ s.st (axPage site a) = 1 →
       ∃ t, exec (.overcurrent site a) s = .next t ∧
         t.st (axPage site a) = 5 ∧
         ((s.regFld (axPage site a + 0x1C) 16 3 < 1 → t.regFld (axPage site a + 0x1C) 0 16 = 0x0100)) ∧
         (t.axis site a).vel = 0 ∧
         t.groupHeld site (s.grpOf site a) = true ∧
         Only [.regs, .bar2, .out, .ram, .hmem, .rings, .strms, .axes, .grps, .slotRings, .cueQs, .binFlags, .slates, .cancels, .dqs, .cores, .cmbs, .engs, .poison] s t) ∧
  (∀ (s : State) (site a : Nat),
     s.isField site = true →
     a < 16 →
     s.axLive site a = true ∨ s.st (axPage site a) = 1 →
       ∃ t, exec (.senseFail site a) s = .next t ∧
         t.st (axPage site a) = 5 ∧
         ((s.regFld (axPage site a + 0x1C) 16 3 < 1 → t.regFld (axPage site a + 0x1C) 0 16 = 0x0101)) ∧
         (t.axis site a).vel = 0 ∧
         t.groupHeld site (s.grpOf site a) = true ∧
         Only [.regs, .bar2, .out, .ram, .hmem, .rings, .strms, .axes, .grps, .slotRings, .cueQs, .binFlags, .slates, .cancels, .dqs, .cores, .cmbs, .engs, .poison] s t) ∧
  (∀ (s : State) (site g : Nat),
     let k := (s.grp site g).paceK + 1
     let slew := s.regFld (grpPage site g + 0x50) 0 17
     let step := k * slew / 40 - (k - 1) * slew / 40
     let pace := s.regFld (grpPage site g + 0x48) 0 17
     let tgt := s.regFld (grpPage site g + 0x4C) 0 17
     s.isField site = true →
     g < 8 →
       ∃ t, exec (.paceStep site g) s = .next t ∧
         (t.regFld (grpPage site g + 0x48) 0 17 = (if pace < tgt then min tgt (pace + step) else max tgt (pace - step))) ∧
         (t.grp site g).paceK = k % 40 ∧
         Only [.regs, .grps] s t ∧
         RegsBut [grpPage site g + 0x48] s t)

/-- The pacing law sets PACE_TARGET or splices; STOP splices at the last line; RESUME and SKIP restart from TP(L_r) or are rejected;
ACHIEVED is the mean. (16_pacing_splice.md R336, 16_pacing_splice.md R337, 16_pacing_splice.md R339, 16_pacing_splice.md R340,
16_pacing_splice.md R341, 16_pacing_splice.md R342, 16_pacing_splice.md R345, 16_pacing_splice.md R346, 16_pacing_splice.md R349,
16_pacing_splice.md R350) -/
def Obligations.PacingSplicesAndRestarts : Prop :=
  (∀ (s : State) (site g : Nat),
     let ks := s.taking site g
     let mn := s.regFld (pacePage site g + 0x50) 0 17
     let mx := s.regFld (pacePage site g + 0x54) 0 17
     s.isField site = true →
     g < 8 →
     s.taking site g ≠ [] →
       ∃ t, exec (.pacingTick site g) s = .next t ∧
         (t.regFld (grpPage site g + 0x4C) 0 17 = (if s.regBit (pacePage site g + 0x40) 0 = true then min (max mn (min (s.pBuf site g ks).1 mx)) (s.pCap site g ks) else 65536)) ∧
         t.reg (pacePage site g + 0x5C) = BitVec.ofNat 32 (s.rateMhz site g % 2 ^ 32) ∧
         (((s.pBuf site g ks).2 = true → ((s.grp site g).stage = 0 ∨ (s.grp site g).stage = 4) → s.groupHeld site g = false → t.groupHeld site g = true ∧ t.latched (pacePage site g) 2 = true ∧ ∀ k ∈ s.taking site g, t.st (strPage site k) = 4 ∧ t.splState site k = 1 ∧ t.splCause site k = 1 ∧ t.splLine site k = s.splicePoint site g)) ∧
         Only [.regs, .bar2, .out, .ram, .hmem, .rings, .strms, .axes, .grps, .slotRings, .cueQs, .binFlags, .slates, .cancels, .dqs, .cores, .cmbs, .engs, .poison] s t) ∧
  (∀ (s : State) (site g : Nat) (ks : List Nat) (x : Nat),
     x ≤ (s.pBuf site g ks).1 ↔ x ≤ 65536 ∧ ∀ k ∈ ks, x ≤ ramp16 (s.headroomOf site k) (s.regFld (pacePage site g + 0x44) 0 16) (s.regFld (pacePage site g + 0x44) 16 16) ∧ x ≤ ramp16 (s.drainLines site k) (s.reg (pacePage site g + 0x48)).toNat (s.reg (pacePage site g + 0x4C)).toNat) ∧
  (∀ (s : State) (site g : Nat),
     s.isField site = true →
     g < 8 →
       ∃ t, exec (.achievedReport site g) s = .next t ∧
         (∀ k ∈ s.taking site g, t.reg (strPage site k + 0xB0) = BitVec.ofNat 32 (if (s.strm site k).achN = 0 then 0 else (s.strm site k).achSum / (s.strm site k).achN) ∧ (t.strm site k).achN = 0 ∧ (t.strm site k).achSum = 0) ∧
         Only [.regs, .rings, .strms] s t ∧
         PagesBut [strPage site (2 * g), strPage site (2 * g + 1)] s t) ∧
  (∀ (s : State) (req site g : Nat),
     s.takes 0x3A req site (0x70 + g) 0x78 = true →
     s.isField site = true →
     g < 8 →
       ∃ t, exec (.pcCmdStop req site g 2#32) s = .next t ∧
         t.groupHeld site g = true ∧
         (∀ k ∈ s.taking site g, t.st (strPage site k) = 4 ∧ t.splState site k = 1 ∧ t.splCause site k = 6 ∧ t.splLine site k = s.splicePoint site g) ∧
         Only [.regs, .bar2, .out, .poss, .ram, .hmem, .rings, .strms, .gates, .axes, .grps, .slotRings, .cueQs, .binFlags, .slates, .cancels, .dqs, .cores, .cmbs, .engs, .poison] s t) ∧
  (∀ (s : State) (req site g : Nat),
     s.takes 0x3A req site (0x70 + g) 0x78 = true →
     s.isField site = true →
     g < 8 →
     s.resumeOk site g false = true →
       ∃ t, exec (.pcCmdResume req site g 1#32) s = .next t ∧
         (t.pos site g).line = s.restartAt site g false ∧
         (t.pos site g).next = t.tp site g (s.restartAt site g false) ∧
         t.groupHeld site g = false ∧
         (t.grp site g).lr = s.restartAt site g false ∧
         ((t.grp site g).stage = (if s.regBit (pacePage site g + 0x40) 2 = true then 0 else 1)) ∧
         (∀ k ∈ s.splicedStreams site g, t.splState site k = 3 ∧ (t.strm site k).from_ = (if (s.strm site k).lost = true then min (s.restartAt site g false) (s.primeLine site k) else (s.splLine site k + 1) % 2 ^ 48) ∧ (t.strm site k).priming = (s.strm site k).lost ∧ ((s.strm site k).back < 8 → t.st (strPage site k) = (s.strm site k).back)) ∧
         Only [.regs, .bar2, .out, .poss, .ram, .hmem, .rings, .strms, .gates, .axes, .grps, .slotRings, .cueQs, .binFlags, .slates, .cancels, .dqs, .cores, .cmbs, .engs, .poison] s t) ∧
  (∀ (s : State) (req site g : Nat),
     s.takes 0x3A req site (0x70 + g) 0x78 = true →
     s.isField site = true →
     g < 8 →
     s.resumeOk site g false = false →
       ∃ t, exec (.pcCmdResume req site g 1#32) s = .next t ∧
         t.reg (pacePage site g + 0x34) = BitVec.ofNat 32 (0x78 + 5 * 2 ^ 12 + req % 32 * 2 ^ 16) ∧
         Only [.regs, .bar2, .out] s t ∧
         RegsBut (rejRegs (pacePage site g)) s t) ∧
  (∀ (s : State) (req site g : Nat),
     s.takes 0x3A req site (0x70 + g) 0x78 = true →
     s.isField site = true →
     g < 8 →
     s.resumeOk site g true = true →
       ∃ t, exec (.pcCmdSkip req site g 5#32) s = .next t ∧
         (t.pos site g).line = s.restartLine site g ∧
         (t.pos site g).next = t.tp site g (s.restartLine site g) ∧
         t.groupHeld site g = false ∧
         (t.grp site g).lr = s.restartLine site g ∧
         ((t.grp site g).stage = (if s.regBit (pacePage site g + 0x40) 2 = true then 0 else 1)) ∧
         (∀ k ∈ s.splicedStreams site g, t.splState site k = 3 ∧ (t.strm site k).from_ = (if (s.strm site k).lost = true then min (s.restartLine site g) (s.primeLine site k) else (s.splLine site k + 1) % 2 ^ 48) ∧ (t.strm site k).priming = (s.strm site k).lost ∧ ((s.strm site k).back < 8 → t.st (strPage site k) = (s.strm site k).back)) ∧
         Only [.regs, .bar2, .out, .poss, .ram, .hmem, .rings, .strms, .gates, .axes, .grps, .slotRings, .cueQs, .binFlags, .slates, .cancels, .dqs, .cores, .cmbs, .engs, .poison] s t) ∧
  (∀ (s : State) (req site g : Nat) (k : Nat),
     s.takes 0x3A req site (0x70 + g) 0x78 = true →
     s.isField site = true →
     g < 8 →
     k ∈ s.splicedStreams site g →
     s.splLine site k ≠ 2 ^ 48 - 1 →
     s.restartLine site g ≤ s.splLine site k →
       ∃ t, exec (.pcCmdSkip req site g 5#32) s = .next t ∧
         t.reg (pacePage site g + 0x34) = BitVec.ofNat 32 (0x78 + 5 * 2 ^ 12 + req % 32 * 2 ^ 16) ∧
         Only [.regs, .bar2, .out] s t ∧
         RegsBut (rejRegs (pacePage site g)) s t) ∧
  (∀ (s : State) (site g : Nat),
     s.isField site = true →
     g < 8 →
     (s.grp site g).stage = 1 ∨ (s.grp site g).stage = 2 →
     s.behind site g = true →
     s.leaderVel site g = 0 →
       ∃ t, exec (.restartRunUp site g) s = .next t ∧
         t.grp site g = { s.grp site g with stage := 3 } ∧
         Only [.grps] s t) ∧
  (∀ (s : State) (site g : Nat),
     s.isField site = true →
     g < 8 →
     s.regBit (pacePage site g + 0x40) 1 = true →
     s.splicedStreams site g ≠ [] →
     ((s.splicedStreams site g).all (fun k => s.splCause site k == 1 && s.splState site k == 2)) = true →
     49152 ≤ (s.pBuf site g (s.splicedStreams site g)).1 →
     s.resumeOk site g false = true →
       ∃ t, exec (.autoResumed site g) s = .next t ∧
         (t.pos site g).line = s.restartAt site g false ∧
         (t.pos site g).next = t.tp site g (s.restartAt site g false) ∧
         t.groupHeld site g = false ∧
         (t.grp site g).lr = s.restartAt site g false ∧
         ((t.grp site g).stage = (if s.regBit (pacePage site g + 0x40) 2 = true then 0 else 1)) ∧
         (∀ k ∈ s.splicedStreams site g, t.splState site k = 3 ∧ (t.strm site k).from_ = (if (s.strm site k).lost = true then min (s.restartAt site g false) (s.primeLine site k) else (s.splLine site k + 1) % 2 ^ 48) ∧ (t.strm site k).priming = (s.strm site k).lost ∧ ((s.strm site k).back < 8 → t.st (strPage site k) = (s.strm site k).back)) ∧
         t.latched (pacePage site g) 3 = true ∧
         Only [.regs, .bar2, .out, .poss, .strms, .gates, .axes, .grps] s t)

/-- A conversion yields a value, OVER, FAULT or nothing; cuts, clamps and ADC or REFIN faults act; outputs encode the value; configuration
restarts it. (17_meter.md R356, 17_meter.md R360, 17_meter.md R362, 17_meter.md R363, 17_meter.md R364, 17_meter.md R365, 17_meter.md
R369, 17_meter.md R371, 17_meter.md R372, 17_meter.md R374, 17_meter.md R375, 17_meter.md R376) -/
def Obligations.MeterConversionsFaultsAndOutputs : Prop :=
  (∀ (s : State) (site m : Nat) (conv : MeterSample) (v : Word),
     let u := s.refreshCj site conv.cj
     let p := mtrPage site m
     let codes := conv.codes.map (u.corrected site m)
     let isBo := mBo u site m == 2 && decide (mMode u site m ≤ 1) && (u.meter site m).sinceBo == 15
     let w := (u.setReg (p + 0x7C) (wordOfInt (codes.getLastD 0))).meterCauses site m conv (codes.getD 0 0) isBo
     let big := (codes.map Int.natAbs).foldl max 0
     let x := toF32 (w.signalX site m (codes.map (w.codeValue site m)) (conv.excs.map (w.excTrue site m)))
     s.isField site = true →
     m < 8 →
     u.st p = 2 →
     u.regBit (p + 0x70) 8 = false →
     (u.meter site m).settle + convTicks u site m ≤ u.now →
     (u.calib site).active ≠ some m ∨ (u.calib site).waitLive = true →
     mCause w site m = 0 →
     isBo = false →
     big < 2 ^ 23 - 1 →
     w.linearise site m x = some v →
       ∃ t, exec (.meterConversion site m conv) s = .next t ∧
         t.reg (p + 0x74) = v ∧
         t.reg (p + 0x78) = x ∧
         t.reg (p + 0x7C) = wordOfInt (codes.getLastD 0) ∧
         t.reg (p + 0x84) = BitVec.ofNat 32 (s.us % 2 ^ 32) ∧
         t.reg (p + 0x88) = s.reg (p + 0x88) + 1#32 ∧
         (mAuto u site m = false → (u.calib site).active ≠ some m → mVstate t site m = 1) ∧
         (t.meter site m).outWait = [] ∧
         (t.meter site m).lastValid = some s.now ∧
         t.latched p 0 = true ∧
         Only [.regs, .bar2, .out, .meters, .calibs, .mons] s t) ∧
  (∀ (s : State) (site m : Nat) (conv : MeterSample),
     let u := s.refreshCj site conv.cj
     let p := mtrPage site m
     let codes := conv.codes.map (u.corrected site m)
     let isBo := mBo u site m == 2 && decide (mMode u site m ≤ 1) && (u.meter site m).sinceBo == 15
     let w := (u.setReg (p + 0x7C) (wordOfInt (codes.getLastD 0))).meterCauses site m conv (codes.getD 0 0) isBo
     s.isField site = true →
     m < 8 →
     u.st p = 2 →
     u.regBit (p + 0x70) 8 = false →
     (u.meter site m).settle + convTicks u site m ≤ u.now →
     (u.calib site).active ≠ some m ∨ (u.calib site).waitLive = true →
     mCause w site m ≠ 0 →
       ∃ t, exec (.meterConversion site m conv) s = .next t ∧
         mVstate t site m = 4 ∧
         t.regBit (p + 0x70) 6 = true ∧
         t.reg (p + 0x74) = s.reg (p + 0x74) ∧
         t.reg (p + 0x7C) = wordOfInt (codes.getLastD 0) ∧
         Only [.regs, .bar2, .out, .meters, .calibs, .mons] s t) ∧
  (∀ (s : State) (site m : Nat) (conv : MeterSample),
     let u := s.refreshCj site conv.cj
     let p := mtrPage site m
     let codes := conv.codes.map (u.corrected site m)
     let isBo := mBo u site m == 2 && decide (mMode u site m ≤ 1) && (u.meter site m).sinceBo == 15
     let w := (u.setReg (p + 0x7C) (wordOfInt (codes.getLastD 0))).meterCauses site m conv (codes.getD 0 0) isBo
     s.isField site = true →
     m < 8 →
     u.st p = 2 →
     u.regBit (p + 0x70) 8 = false →
     (u.meter site m).settle + convTicks u site m ≤ u.now →
     (u.calib site).active ≠ some m ∨ (u.calib site).waitLive = true →
     mCause w site m = 0 →
     isBo = true →
       ∃ t, exec (.meterConversion site m conv) s = .next t ∧
         mVstate t site m = mVstate u site m ∧
         t.reg (p + 0x74) = s.reg (p + 0x74) ∧
         t.reg (p + 0x7C) = wordOfInt (codes.getLastD 0) ∧
         (t.meter site m).sinceBo = 0 ∧
         Only [.regs, .bar2, .out, .meters, .calibs, .mons] s t) ∧
  (∀ (s : State) (site m : Nat) (conv : MeterSample),
     let u := s.refreshCj site conv.cj
     let p := mtrPage site m
     let codes := conv.codes.map (u.corrected site m)
     let isBo := mBo u site m == 2 && decide (mMode u site m ≤ 1) && (u.meter site m).sinceBo == 15
     let w := (u.setReg (p + 0x7C) (wordOfInt (codes.getLastD 0))).meterCauses site m conv (codes.getD 0 0) isBo
     let big := (codes.map Int.natAbs).foldl max 0
     let x := toF32 (w.signalX site m (codes.map (w.codeValue site m)) (conv.excs.map (w.excTrue site m)))
     s.isField site = true →
     m < 8 →
     u.st p = 2 →
     u.regBit (p + 0x70) 8 = false →
     (u.meter site m).settle + convTicks u site m ≤ u.now →
     (u.calib site).active ≠ some m ∨ (u.calib site).waitLive = true →
     mCause w site m = 0 →
     isBo = false →
     2 ^ 23 - 1 ≤ big ∧ (mRange w site m = u.regFld (p + 0x44) 4 3 ∨ mAuto u site m = false) ∨ big < 2 ^ 23 - 1 ∧ w.linearise site m x = none →
       ∃ t, exec (.meterConversion site m conv) s = .next t ∧
         mVstate t site m = (if mVstate u site m = 4 then 4 else 3) ∧
         (mVstate u site m ≠ 4 → t.regBit (p + 0x70) 6 = true) ∧
         t.reg (p + 0x74) = s.reg (p + 0x74) ∧
         t.reg (p + 0x7C) = wordOfInt (codes.getLastD 0) ∧
         Only [.regs, .bar2, .out, .meters, .calibs, .mons] s t) ∧
  (∀ (s : State) (site m : Nat) (conv : MeterSample),
     let u := s.refreshCj site conv.cj
     let p := mtrPage site m
     let codes := conv.codes.map (u.corrected site m)
     let isBo := mBo u site m == 2 && decide (mMode u site m ≤ 1) && (u.meter site m).sinceBo == 15
     let w := (u.setReg (p + 0x7C) (wordOfInt (codes.getLastD 0))).meterCauses site m conv (codes.getD 0 0) isBo
     let big := (codes.map Int.natAbs).foldl max 0
     s.isField site = true →
     m < 8 →
     u.st p = 2 →
     u.regBit (p + 0x70) 8 = false →
     (u.meter site m).settle + convTicks u site m ≤ u.now →
     (u.calib site).active ≠ some m ∨ (u.calib site).waitLive = true →
     mCause w site m = 0 →
     isBo = false →
     2 ^ 23 - 1 ≤ big →
     mAuto u site m = true →
     u.regFld (p + 0x44) 4 3 < mRange u site m →
     mRange u site m ≤ u.regFld (p + 0x44) 8 3 + 1 →
       ∃ t, exec (.meterConversion site m conv) s = .next t ∧
         mRange t site m = mRange u site m - 1 ∧
         mVstate t site m = (if mVstate u site m = 1 then 2 else mVstate u site m) ∧
         t.latched p 1 = true ∧
         t.reg (p + 0x74) = s.reg (p + 0x74) ∧
         t.reg (p + 0x7C) = wordOfInt (codes.getLastD 0) ∧
         Only [.regs, .bar2, .out, .meters, .calibs, .mons] s t) ∧
  (∀ (s : State) (site m : Nat) (conv : MeterSample),
     let u := s.refreshCj site conv.cj
     let p := mtrPage site m
     u.regBit (p + 0x70) 8 = true ∨ u.now < (u.meter site m).settle + convTicks u site m ∨ (u.calib site).active = some m ∧ (u.calib site).waitLive = false →
       ∃ t, exec (.meterConversion site m conv) s = .next t ∧
         t = u.monTrack site ∧
         t.reg (p + 0x74) = s.reg (p + 0x74) ∧
         t.reg (p + 0x7C) = s.reg (p + 0x7C) ∧
         Only [.regs, .bar2, .out, .meters, .calibs, .mons] s t) ∧
  (∀ (s : State) (site m : Nat),
     s.isField site = true →
     m < 8 →
     s.st (mtrPage site m) = 1 ∨ s.st (mtrPage site m) = 2 →
     mMode s site m = 5 →
       ∃ t, exec (.excOvercurrent site m) s = .next t ∧
         (t.meter site m).excOn = false ∧
         (t.meter site m).cutEnd = some s.now ∧
         t.regBit (mtrPage site m + 0x70) 11 = true ∧
         t.regBit (mtrPage site m + 0x70) 10 = true ∧
         t.regBit (mtrPage site m + 0x70) 17 = true ∧
         mVstate t site m = 4 ∧
         Only [.regs, .bar2, .out, .meters, .mons] s t) ∧
  (∀ (s : State) (site m : Nat) (n : Nat),
     s.isField site = true →
     m < 8 →
     (s.meter site m).cutEnd = some n →
     s.regBit (mtrPage site m + 0x70) 11 = true →
     (s.meter site m).clampAt = none →
     n + 20000000 ≤ s.now →
       ∃ t, exec (.excReturn site m) s = .next t ∧
         t.regBit (mtrPage site m + 0x70) 11 = false ∧
         t.regBit (mtrPage site m + 0x70) 10 = false ∧
         (t.meter site m).excOn = ((isRtd (mMode s site m) || mMode s site m == 5) && s.fioOk site && (s.active (mtrPage site m) || s.st (mtrPage site m) == 1)) ∧
         ((s.st (mtrPage site m) = 2 → (mVstate s site m = 1 → mVstate t site m = 2) ∧ t.latched (mtrPage site m) 1 = true ∧ s.now + 200000 ≤ (t.meter site m).settle)) ∧
         Only [.regs, .bar2, .out, .meters, .mons] s t) ∧
  (∀ (s : State) (site m : Nat),
     s.isField site = true →
     m < 8 →
     s.regBit (mtrPage site m + 0x70) 8 = false →
       ∃ t, exec (.clamp site m) s = .next t ∧
         t.regBit (mtrPage site m + 0x70) 8 = true ∧
         t.regBit (mtrPage site m + 0x70) 11 = true ∧
         (t.meter site m).excOn = false ∧
         (t.meter site m).clampAt = some s.now ∧
         t.latched (mtrPage site m) 5 = true ∧
         Only [.regs, .bar2, .out, .meters, .mons] s t) ∧
  (∀ (s : State) (site m : Nat),
     s.isField site = true →
     m < 8 →
     s.regBit (mtrPage site m + 0x70) 8 = true →
       ∃ t, exec (.clampEnd site m) s = .next t ∧
         t.regBit (mtrPage site m + 0x70) 8 = false ∧
         (t.meter site m).clampAt = none ∧
         (t.meter site m).cutEnd = some s.now ∧
         s.now ≤ (t.meter site m).settle ∧
         Only [.regs, .meters, .mons] s t) ∧
  (∀ (s : State) (site m : Nat) (n : Nat),
     s.isField site = true →
     m < 8 →
     (s.meter site m).clampAt = some n →
     n + 20000000 ≤ s.now →
     s.active (mtrPage site m) = true →
       ∃ t, exec (.clampFault site m) s = .next t ∧
         t.regBit (mtrPage site m + 0x70) 18 = true ∧
         mVstate t site m = 4 ∧
         Only [.regs, .bar2, .out, .meters, .mons] s t) ∧
  (∀ (s : State) (site m : Nat),
     s.isField site = true →
     m < 8 →
     s.st (mtrPage site m) = 1 ∨ s.st (mtrPage site m) = 2 ∨ s.st (mtrPage site m) = 3 →
       ∃ t, exec (.adcFail site m) s = .next t ∧
         t.st (mtrPage site m) = 5 ∧
         (t.meter site m).excOn = false ∧
         (∀ o, o < 8 → s.regFld (outPage site o + 0x40) 0 3 = m → o ∈ (t.meter site m).outWait) ∧
         Only [.regs, .bar2, .out, .meters, .mons] s t) ∧
  (∀ (s : State) (site mv : Nat),
     s.isField site = true →
     1000 ≤ mv →
     mv ≤ 2600 →
       ∃ t, exec (.refFault site mv) s = .next t ∧
         t.regBit (mcomPage site + 0x48) 0 = true ∧
         t.reg (mcomPage site + 0x44) = BitVec.ofNat 32 mv ∧
         (∀ m, m < 8 → t.regBit (mtrPage site m + 0x70) 20 = false) ∧
         Only [.regs, .bar2, .out, .meters, .mons] s t) ∧
  (∀ (s : State) (site mv : Nat),
     s.isField site = true →
     mv < 1000 ∨ 2600 < mv →
       ∃ t, exec (.refFault site mv) s = .next t ∧
         t.regBit (mcomPage site + 0x48) 0 = false ∧
         (∀ m, m < 8 → s.active (mtrPage site m) = true → t.regBit (mtrPage site m + 0x70) 20 = true ∧ mVstate t site m = 4) ∧
         Only [.regs, .bar2, .out, .meters, .mons] s t) ∧
  (∀ (s : State) (site o : Nat),
     let m := s.regFld (outPage site o + 0x40) 0 3
     let on := s.st (outPage site o) == 2 && s.st (mtrPage site m) == 2 && mVstate s site m != 0 && decide (o ∉ (s.meter site m).outWait)
     let freq := s.regBit (outPage site o + 0x40) 3
     let v := f32Div (f32Sub (s.reg (mtrPage site m + 0x74)) (s.reg (outPage site o + 0x44))) (f32Sub (s.reg (outPage site o + 0x48)) (s.reg (outPage site o + 0x44)))
     s.isField site = true →
     o < 8 →
       ∃ t, exec (.outputPeriod site o) s = .next t ∧
         (on = false → t.reg (outPage site o + 0x50) = 0#32) ∧
         (on = true → mVstate s site m = 1 → fpLe (.fin false 0 1) (f32 v) = true → fpLe (f32 v) (.fin false 1 1) = true → t.reg (outPage site o + 0x50) = BitVec.ofNat 32 (if freq = true then (fpRne (fpDiv (fpOfInt 200000000) (fpAdd (fpOfInt 1000) (fpMul (fpOfInt 8000) (f32 v))))).toNat else 20000 + (fpRne (fpMul (fpOfInt 160000) (f32 v))).toNat)) ∧
         (on = true → mVstate s site m = 1 → fpLt (f32 v) (.fin false 0 1) = true → t.reg (outPage site o + 0x50) = (if freq = true then 200000#32 else 20000#32) ∧ t.latched (outPage site o) 0 = true) ∧
         (on = true → mVstate s site m = 1 ∧ fpLt (.fin false 1 1) (f32 v) = true ∨ mVstate s site m = 3 ∧ s.reg (outPage site o + 0x50) ≠ 0#32 → t.reg (outPage site o + 0x50) = (if freq = true then 21053#32 else 190000#32) ∧ t.latched (outPage site o) 1 = true) ∧
         (on = true → mVstate s site m = 4 → s.reg (outPage site o + 0x50) ≠ 0#32 → t.reg (outPage site o + 0x50) = (if freq = true then 400000#32 else 10000#32) ∧ t.latched (outPage site o) 2 = true) ∧
         (on = true → mVstate s site m = 2 → t.reg (outPage site o + 0x50) = s.reg (outPage site o + 0x50)) ∧
         Only [.regs, .bar2, .out, .free] s t ∧
         RegsBut ([outPage site o + 0x4C, outPage site o + 0x50] ++ evtRegs (outPage site o)) s t) ∧
  (∀ (s : State) (req site m off : Nat) (val : Word) (r : RegDef),
     m < 8 →
     0x40 ≤ off →
     s.takes 0x3B req site (0x78 + m) off = true →
     findReg 0x3B off = some r →
     staticReason r val = none →
     r.acc = .rws →
     s.openSlot site (0x78 + m) = none →
     s.valueBad site (0x78 + m) off val = false →
     s.guardReg site (0x78 + m) off = false →
     s.typeAt site (0x78 + m) = 0x3B →
     s.active (mtrPage site m) = true →
     off ∈ [0x4C, 0x50, 0x54, 0x68] ∨ 0x100 ≤ off →
     maskedWrite r (s.reg (mtrPage site m + off)) val ≠ s.reg (mtrPage site m + off) →
       ∃ t, exec (.meterConfigWrite req site m off val) s = .next t ∧
         t.reg (mtrPage site m + off) = maskedWrite r (s.reg (mtrPage site m + off)) val ∧
         mVstate t site m = 0 ∧
         t.regBit (mtrPage site m + 0x70) 6 = true ∧
         Only [.regs, .bar2, .out, .encs, .poss, .slots, .meters, .calibs, .mons, .ram, .hmem, .rings, .strms, .gates, .axes, .grps, .slotRings, .cueQs, .binFlags, .slates, .cancels, .dqs, .cores, .cmbs, .engs, .poison] s t) ∧
  (∀ (s : State) (req site m off : Nat) (val : Word) (r : RegDef),
     m < 8 →
     0x40 ≤ off →
     s.takes 0x3B req site (0x78 + m) off = true →
     findReg 0x3B off = some r →
     staticReason r val = none →
     r.acc = .rws →
     s.openSlot site (0x78 + m) = none →
     s.valueBad site (0x78 + m) off val = false →
     s.guardReg site (0x78 + m) off = false →
     s.typeAt site (0x78 + m) = 0x3B →
     s.active (mtrPage site m) = true →
     off = 0x48 →
     maskedWrite r (s.reg (mtrPage site m + off)) val ≠ s.reg (mtrPage site m + off) →
       ∃ t, exec (.meterConfigWrite req site m off val) s = .next t ∧
         t.reg (mtrPage site m + off) = maskedWrite r (s.reg (mtrPage site m + off)) val ∧
         mVstate t site m = (if mVstate s site m = 1 then 2 else mVstate s site m) ∧
         t.latched (mtrPage site m) 1 = true ∧
         Only [.regs, .bar2, .out, .encs, .poss, .slots, .meters, .calibs, .mons, .ram, .hmem, .rings, .strms, .gates, .axes, .grps, .slotRings, .cueQs, .binFlags, .slates, .cancels, .dqs, .cores, .cmbs, .engs, .poison] s t) ∧
  (∀ (s : State) (req site m off : Nat) (val : Word) (r : RegDef),
     m < 8 →
     0x40 ≤ off →
     s.takes 0x3B req site (0x78 + m) off = true →
     findReg 0x3B off = some r →
     staticReason r val = none →
     r.acc = .rws →
     s.openSlot site (0x78 + m) = none →
     s.valueBad site (0x78 + m) off val = false →
     s.guardReg site (0x78 + m) off = false →
     s.typeAt site (0x78 + m) = 0x3B →
     s.st (mtrPage site m) = 0 →
     (s.calib site).active ≠ some m →
     m ∉ (s.calib site).pendingRuns →
       ∃ t, exec (.meterConfigWrite req site m off val) s = .next t ∧
         t.reg (mtrPage site m + off) = maskedWrite r (s.reg (mtrPage site m + off)) val ∧
         Only [.regs] s t ∧
         RegsBut [mtrPage site m + off] s t)

/-- START queues runs; a step is judged, retried and at the end its run writes the channel's table at once; failures and aborts write
nothing; CAL_DATA and RESTORE. (18_calibration.md R377, 18_calibration.md R378, 18_calibration.md R379, 18_calibration.md R380,
18_calibration.md R382, 18_calibration.md R383, 18_calibration.md R387) -/
def Obligations.CalibrationRunsAndTables : Prop :=
  (∀ (s : State) (req site : Nat) (val : Word),
     let chs := (List.range 8).filter (fun i => bitOf val i)
     s.takes 0x3D req site 0x88 0x58 = true →
     s.reg (mcomPage site + 0x4C) ≠ 0#32 →
     s.reg (mcomPage site + 0x50) ≠ 0#32 →
     (chs.any (fun m => (s.guardMeter site m && s.st (mtrPage site m) == 2) || !(s.st (mtrPage site m) == 0 || s.st (mtrPage site m) == 2))) = false →
     (s.calib site).active = none →
     fld val 0 8 ≠ 0 →
     bitOf val 8 = false →
     bitOf val 20 = false →
       ∃ t, exec (.calCmdStart req site val) s = .next t ∧
         ((∀ ch rest, (List.range 8).filter (fun i => decide (i ∈ (s.calib site).pendingRuns) || bitOf val i) = ch :: rest → (t.calib site).active = some ch ∧ (t.calib site).pendingRuns = rest ∧ (t.calib site).full = (s.st (mtrPage site ch) == 0) ∧ (t.calib site).steps = calSteps s site ch (s.st (mtrPage site ch) == 0) ∧ t.regBit (mcomPage site + 0x60) 19 = true)) ∧
         Only [.regs, .bar2, .out, .meters, .calibs] s t) ∧
  (∀ (s : State) (req site : Nat) (val : Word),
     let chs := (List.range 8).filter (fun i => bitOf val i)
     s.takes 0x3D req site 0x88 0x58 = true →
     fld val 0 8 ≠ 0 →
     s.reg (mcomPage site + 0x4C) = 0#32 ∨ s.reg (mcomPage site + 0x50) = 0#32 ∨ (chs.any (fun m => (s.guardMeter site m && s.st (mtrPage site m) == 2) || !(s.st (mtrPage site m) == 0 || s.st (mtrPage site m) == 2))) = true →
       ∃ t, exec (.calCmdStart req site val) s = .next t ∧
         t.reg (mcomPage site + 0x34) = BitVec.ofNat 32 (0x58 + 5 * 2 ^ 12 + req % 32 * 2 ^ 16) ∧
         Only [.regs, .bar2, .out] s t ∧
         RegsBut (rejRegs (mcomPage site)) s t) ∧
  (∀ (s : State) (site ch : Nat) (k : CalKind) (rest : List CalKind) (r : CalSample),
     let c := s.calib site
     let q : CalSample := { r with clamped := r.clamped || s.regBit (mtrPage site ch + 0x70) 8 }
     s.isField site = true →
     c.active = some ch →
     c.steps = k :: rest →
     c.waitLive = false →
     c.checked = true ∨ calRefOk s site r = true →
     (calResult s site ch k q).2.2 = true →
     rest ≠ [] →
       ∃ t, exec (.calStep site r) s = .next t ∧
         (t.calib site).steps = rest ∧
         (t.calib site).got = c.got ++ [((calResult s site ch k q).1, (calResult s site ch k q).2.1)] ∧
         (t.calib site).tries = 0 ∧
         (t.calib site).active = some ch ∧
         (t.calib site).waitLive = (s.st (mtrPage site ch) == 2) ∧
         (∀ m w, t.calWord site m w = s.calWord site m w) ∧
         Only [.regs, .bar2, .out, .meters, .calibs] s t) ∧
  (∀ (s : State) (site ch : Nat) (k : CalKind) (rest : List CalKind) (r : CalSample),
     let c := s.calib site
     let q : CalSample := { r with clamped := r.clamped || s.regBit (mtrPage site ch + 0x70) 8 }
     let got := c.got ++ [((calResult s site ch k q).1, (calResult s site ch k q).2.1)]
     s.isField site = true →
     c.active = some ch →
     c.steps = k :: rest →
     c.waitLive = false →
     c.checked = true ∨ calRefOk s site r = true →
     (calResult s site ch k q).2.2 = true →
     rest = [] →
     ch < 8 →
       ∃ t, exec (.calStep site r) s = .next t ∧
         (∀ w, w < 27 → t.calWord site ch w = ((got.reverse.find? (fun e => e.1 == w)).map (fun e => e.2)).getD (s.calWord site ch w)) ∧
         t.calWord site ch 27 = s.reg (mcomPage site + 0x40) ∧
         t.calWord site ch 28 = BitVec.ofNat 32 (s.ns / 1000000000) ∧
         t.calWord site ch 29 = s.reg (mcomPage site + 0x4C) ∧
         t.calWord site ch 30 = s.reg (mcomPage site + 0x50) ∧
         (c.full = true → t.calValid site ch = true) ∧
         t.regFld (mcomPage site + 0x60) 20 4 = 1 ∧
         t.latched (mcomPage site) 1 = true ∧
         Only [.regs, .bar2, .out, .meters, .calibs] s t) ∧
  (∀ (s : State) (site ch : Nat) (k : CalKind) (rest : List CalKind) (r : CalSample),
     let c := s.calib site
     let q : CalSample := { r with clamped := r.clamped || s.regBit (mtrPage site ch + 0x70) 8 }
     s.isField site = true →
     c.active = some ch →
     c.steps = k :: rest →
     c.waitLive = false →
     c.checked = true ∨ calRefOk s site r = true →
     (calResult s site ch k q).2.2 = false →
     c.tries < 3 →
       ∃ t, exec (.calStep site r) s = .next t ∧
         (t.calib site).tries = c.tries + 1 ∧
         (t.calib site).steps = c.steps ∧
         (∀ m w, t.calWord site m w = s.calWord site m w) ∧
         (t.calib site).active = some ch ∧
         Only [.calibs] s t) ∧
  (∀ (s : State) (site ch : Nat) (k : CalKind) (rest : List CalKind) (r : CalSample),
     let c := s.calib site
     let q : CalSample := { r with clamped := r.clamped || s.regBit (mtrPage site ch + 0x70) 8 }
     s.isField site = true →
     c.active = some ch →
     c.steps = k :: rest →
     c.waitLive = false →
     c.checked = true ∨ calRefOk s site r = true →
     (calResult s site ch k q).2.2 = false →
     3 ≤ c.tries →
       ∃ t, exec (.calStep site r) s = .next t ∧
         (t.regFld (mcomPage site + 0x60) 20 4 = (if q.clamped = true then 5 else 4)) ∧
         (∀ m w, t.calWord site m w = s.calWord site m w) ∧
         t.latched (mcomPage site) 2 = true ∧
         Only [.regs, .bar2, .out, .meters, .calibs] s t) ∧
  (∀ (s : State) (site ch : Nat) (k : CalKind) (rest : List CalKind) (r : CalSample),
     let c := s.calib site
     s.isField site = true →
     c.active = some ch →
     c.steps = k :: rest →
     c.waitLive = false →
     c.checked = false →
     calRefOk s site r = false →
       ∃ t, exec (.calStep site r) s = .next t ∧
         t.regFld (mcomPage site + 0x60) 20 4 = 3 ∧
         (∀ m w, t.calWord site m w = s.calWord site m w) ∧
         t.latched (mcomPage site) 2 = true ∧
         Only [.regs, .bar2, .out, .meters, .calibs] s t) ∧
  (∀ (s : State) (req site : Nat) (val : Word) (ch : Nat),
     s.takes 0x3D req site 0x88 0x58 = true →
     (s.calib site).active = some ch →
     fld val 0 8 = 0 →
     bitOf val 8 = true →
     bitOf val 20 = false →
       ∃ t, exec (.calCmdAbort req site val) s = .next t ∧
         t.regFld (mcomPage site + 0x60) 20 4 = 2 ∧
         (∀ m w, t.calWord site m w = s.calWord site m w) ∧
         t.latched (mcomPage site) 2 = true ∧
         Only [.regs, .bar2, .out, .meters, .calibs] s t) ∧
  (∀ (s : State) (req site : Nat) (val : Word),
     s.takes 0x3D req site 0x88 0x58 = true →
     fld val 16 4 < 8 →
     s.reg (mcomPage site + 0x5C) = s.calCrc site (fld val 16 4) →
     fld val 0 8 = 0 →
     bitOf val 8 = false →
     bitOf val 20 = true →
       ∃ t, exec (.calCmdRestore req site val) s = .next t ∧
         t.calValid site (fld val 16 4) = true ∧
         Only [.regs, .bar2, .out] s t) ∧
  (∀ (s : State) (req site : Nat) (val : Word),
     s.takes 0x3D req site 0x88 0x58 = true →
     8 ≤ fld val 16 4 ∨ s.reg (mcomPage site + 0x5C) ≠ s.calCrc site (fld val 16 4) →
     fld val 0 8 = 0 →
     bitOf val 20 = true →
       ∃ t, exec (.calCmdRestore req site val) s = .next t ∧
         t.reg (mcomPage site + 0x34) = BitVec.ofNat 32 (0x58 + 3 * 2 ^ 12 + req % 32 * 2 ^ 16) ∧
         Only [.regs, .bar2, .out] s t ∧
         RegsBut (rejRegs (mcomPage site)) s t) ∧
  (∀ (s : State) (req site : Nat) (val : Word),
     let c := s.calib site
     let a := s.regFld (mcomPage site + 0x64) 0 8
     s.takes 0x3D req site 0x88 0x68 = true →
     a % 32 ≠ 31 →
     s.st (mtrPage site (a / 32)) = 0 →
     c.active ≠ some (a / 32) →
     a / 32 ∉ c.pendingRuns →
       ∃ t, exec (.calDataWrite req site val) s = .next t ∧
         t.calWord site (a / 32) (a % 32) = val ∧
         (∀ m w, w < 32 → (m, w) ≠ (a / 32, a % 32) → t.calWord site m w = s.calWord site m w) ∧
         t.calValid site (a / 32) = false ∧
         t.reg (mcomPage site + 0x64) = BitVec.ofNat 32 ((a + 1) % 256) ∧
         Only [.regs, .calibs] s t ∧
         RegsBut [mcomPage site + 0x60, mcomPage site + 0x64] s t) ∧
  (∀ (s : State) (req site : Nat) (val : Word),
     let a := s.regFld (mcomPage site + 0x64) 0 8
     s.takes 0x3D req site 0x88 0x68 = true →
     a % 32 = 31 →
       ∃ t, exec (.calDataWrite req site val) s = .next t ∧
         t.reg (mcomPage site + 0x34) = BitVec.ofNat 32 (0x68 + 1 * 2 ^ 12 + req % 32 * 2 ^ 16) ∧
         Only [.regs, .bar2, .out] s t ∧
         RegsBut (rejRegs (mcomPage site)) s t) ∧
  (∀ (s : State) (req site : Nat),
     let a := s.regFld (mcomPage site + 0x64) 0 8
     s.present site 0x88 = true →
     s.reach req site 0x88 = true →
       ∃ t, exec (.calDataRead req site) s = .next t ∧
         (t.rdata = (if a % 32 = 31 then s.calCrc site (a / 32) else s.calWord site (a / 32) (a % 32))) ∧
         t.reg (mcomPage site + 0x64) = BitVec.ofNat 32 ((a + 1) % 256) ∧
         Only [.regs, .rdata] s t ∧
         RegsBut [mcomPage site + 0x64] s t)

/-- E_ACC follows the budget; a budget write refills it or is RANGE; a tick sets each die's clock by R394 and R396; a trip stops the
clocks and the caps read 0. (19_gaffer.md R389, 19_gaffer.md R390, 19_gaffer.md R393, 19_gaffer.md R394, 19_gaffer.md R396, 19_gaffer.md
R397, 19_gaffer.md R398) -/
def Obligations.GafferAccountsClocksAndTrips : Prop :=
  (∀ (s : State) (nJ : Nat) (dies : List Nat),
     s.mainOk = true →
     s.gaffer.running = true →
       ∃ t, exec (.energyTick ⟨nJ, dies⟩) s = .next t ∧
         t.gaffer.eAcc = min (((s.reg (gafPage + 0x40)).toNat * (s.reg (gafPage + 0x48)).toNat * 1000000 : Nat) : Int) (s.gaffer.eAcc + (((s.reg (gafPage + 0x40)).toNat * 10000 : Nat) : Int) - (nJ : Int)) ∧
         t.gaffer.tickNj = s.gaffer.tickNj + nJ ∧
         t.gaffer.ticks = s.gaffer.ticks + 1 ∧
         (∀ c, c < 4 → tabGet 0 t.gaffer.dieNj c = tabGet 0 s.gaffer.dieNj c + dies.getD c 0) ∧
         t.reg (gafPage + 0x50) = wordOfInt (satInt (2 ^ 31 - 1) (t.gaffer.eAcc / 1000000)) ∧
         Only [.regs, .gaffer] s t ∧
         RegsBut [gafPage + 0x50] s t) ∧
  (∀ (s : State) (req : Nat) (val : Word),
     let w := fld val 0 10
     s.takes 0x0C req 8 7 0x40 = true →
     w ≤ asmBudget s.asm →
     powLe s.streamUw (w * 1000000, 1) = true →
     powLe (powAdd s.streamUw s.takeUw) (2 * w * 1000000, 1) = true →
       ∃ t, exec (.pkgBudgetWrite req 0x40 val) s = .next t ∧
         t.reg (gafPage + 0x40) = BitVec.ofNat 32 w ∧
         t.gaffer.eAcc = ((w * (s.reg (gafPage + 0x48)).toNat * 1000000 : Nat) : Int) ∧
         Only [.regs, .gaffer] s t ∧
         RegsBut [gafPage + 0x40, gafPage + 0x50] s t) ∧
  (∀ (s : State) (req : Nat) (val : Word),
     let w := fld val 0 10
     s.takes 0x0C req 8 7 0x48 = true →
     10 ≤ w →
     w ≤ 1000 →
       ∃ t, exec (.pkgBudgetWrite req 0x48 val) s = .next t ∧
         t.reg (gafPage + 0x48) = BitVec.ofNat 32 w ∧
         t.gaffer.eAcc = (((s.reg (gafPage + 0x40)).toNat * w * 1000000 : Nat) : Int) ∧
         Only [.regs, .gaffer] s t ∧
         RegsBut [gafPage + 0x48, gafPage + 0x50] s t) ∧
  (∀ (s : State) (req : Nat) (val : Word),
     let w := fld val 0 10
     s.takes 0x0C req 8 7 0x40 = true →
     asmBudget s.asm < w ∨ powLe s.streamUw (w * 1000000, 1) = false ∨ powLe (powAdd s.streamUw s.takeUw) (2 * w * 1000000, 1) = false →
       ∃ t, exec (.pkgBudgetWrite req 0x40 val) s = .next t ∧
         t.reg (gafPage + 0x34) = BitVec.ofNat 32 (0x40 + 3 * 2 ^ 12 + req % 32 * 2 ^ 16) ∧
         Only [.regs, .bar2, .out] s t ∧
         RegsBut (rejRegs gafPage) s t) ∧
  (∀ (s : State) (req : Nat) (val : Word),
     let w := fld val 0 10
     s.takes 0x0C req 8 7 0x48 = true →
     w < 10 ∨ 1000 < w →
       ∃ t, exec (.pkgBudgetWrite req 0x48 val) s = .next t ∧
         t.reg (gafPage + 0x34) = BitVec.ofNat 32 (0x48 + 3 * 2 ^ 12 + req % 32 * 2 ^ 16) ∧
         Only [.regs, .bar2, .out] s t ∧
         RegsBut (rejRegs gafPage) s t) ∧
  (∀ (s : State) (temps : List (List Int)) (c : Nat),
     let td := tDie (s.setTemps c (temps.getD c [])) c
     let f := s.regFld (dpPage c + 0x44) 0 12
     let lim0 := (s.reg (dpPage c + 0x4C)).toNat
     let floor := max (s.regFld (dpPage c + 0x40) 0 12) (s.dieFloor c)
     let raw := if s.gaffer.eAcc < 0 ∧ s.dieTake c = true then f - 25 else if s.eCap ≤ 4 * s.gaffer.eAcc then f + 25 else f
     let pw := min (max raw floor) (max (if s.dieTake c = true then s.regFld (dpPage c + 0x40) 16 12 else floor) floor)
     let hold := s.regBit (dpPage c + 0x94) 5
     let next := max 400 (min pw (min lim0 (if hold = true then 400 else 1600)))
     let now := if next ≤ f ∨ (vfTable ((next - 400) / 25) ≤ s.regFld (dpPage c + 0x48) 0 10 ∧ (s.avsAt c).all (fun m => decide (m + 4000 ≤ s.now)) = true) then next else f
     let lim := if 1600 ≤ td then max 400 (now - 25) else if td < 1552 then min 1600 (lim0 + 25) else lim0
     s.mainOk = true →
     s.gaffer.running = true →
     c < 4 →
     dieAt s.asm c = .compute →
     s.siteUp c = true →
     s.regBit (dpPage c + 0x94) 1 = false →
       ∃ t, exec (.gafferTick temps) s = .next t ∧
         t.regFld (dpPage c + 0x44) 0 12 = now ∧
         t.regFld (dpPage c + 0x44) 16 12 = floor % 4096 ∧
         t.reg (dpPage c + 0x4C) = BitVec.ofNat 32 lim ∧
         t.regBit (dpPage c + 0x94) 0 = decide (lim < 1600) ∧
         t.regBit (dpPage c + 0x94) 3 = decide (raw < floor) ∧
         t.regBit (dpPage c + 0x94) 4 = (hold || (decide (now < floor) && decide (lim0 < floor))) ∧
         t.gaffer.eAcc = s.gaffer.eAcc ∧
         t.gaffer.tickNj = 0 ∧
         Only [.regs, .bar2, .out, .gaffer, .buckets, .cores, .dqs] s t) ∧
  (∀ (s : State) (site : Nat) (temps : List Int),
     s.present site 0x0B = true →
     s.typeAt site 0x0B = 0x4C →
     s.regBit (dpPage site + 0x94) 1 = false →
     (temps.any (fun x => decide (1840 ≤ x))) = true →
     site < 4 →
       ∃ t, exec (.trip site temps) s = .next t ∧
         t.regFld (dpPage site + 0x44) 0 12 = 0 ∧
         t.regBit (dpPage site + 0x94) 1 = true ∧
         t.regBit (dpPage site + 0x94) 4 = true ∧
         t.latched (dpPage site) 1 = true ∧
         (∀ f ∈ [9, 11], s.isField f = true → ∀ g, g < 8 → (∃ z ∈ s.gateStages f g, z.1 = site) → t.reg (pg f (0x70 + g) + 0x58) = 0#32) ∧
         Only [.regs, .bar2, .out, .buckets, .cores, .dqs] s t) ∧
  (∀ (s : State) (site : Nat) (temps : List Int),
     s.present site 0x0B = true →
     s.typeAt site 0x0B = 0x4C →
     s.regBit (dpPage site + 0x94) 1 = true →
     temps.length = 16 →
     (temps.all (fun x => decide (x < 1600))) = true →
     site < 4 →
       ∃ t, exec (.tripClear site temps) s = .next t ∧
         t.regFld (dpPage site + 0x44) 0 12 = 400 ∧
         t.regBit (dpPage site + 0x94) 1 = false ∧
         t.reg (dpPage site + 0x4C) = 400#32 ∧
         t.latched (dpPage site) 2 = true ∧
         Only [.regs, .bar2, .out, .buckets, .cores, .dqs] s t)

/-- The TRNG becomes VALID after its samples, falls on a failed test, faults on the third or after 40 ms; the DRBG reseeds; RAND reads 0
without VALID. (20_security.md R405, 20_security.md R406, 20_security.md R407, 20_security.md R408) -/
def Obligations.EntropyTestsAndRandomBits : Prop :=
  (∀ (s : State),
     s.mainOk = true →
     s.trngOk = false →
     s.regFld (trngPage + 0x40) 0 2 = 0 →
     1536 ≤ s.trngSamples →
       ∃ t, exec (.trngValid) s = .next t ∧
         t.trngOk = true ∧
         t.regFld (trngPage + 0x40) 0 2 = 1 ∧
         t.reg (trngPage + 0x44) = 256#32 ∧
         t.sec.reserveKey = some (s.sec.reserveKey.getD (s.sec.keyCount + 1)) ∧
         t.sec.drbgCount = 0 ∧
         t.sec.instantiated = true ∧
         t.regBit (kmPage + 0x40) 0 = true ∧
         t.latched trngPage 0 = true ∧
         Only [.regs, .bar2, .out, .sec] s t) ∧
  (∀ (s : State) (kind : HealthTest),
     s.mainOk = true →
     s.regFld (trngPage + 0x40) 0 2 = 0 ∨ kind = .startup →
     s.regFld (trngPage + 0x40) 0 2 ≠ 2 →
       ∃ t, exec (.healthFail kind) s = .next t ∧
         t.trngOk = false ∧
         t.regFld (trngPage + 0x40) 0 2 = 0 ∧
         t.reg (trngPage + 0x44) = 0#32 ∧
         t.latched trngPage 2 = true ∧
         t.sec.trngAt = s.now ∧
         Only [.regs, .bar2, .out, .sec] s t) ∧
  (∀ (s : State) (kind : HealthTest),
     s.mainOk = true →
     s.regFld (trngPage + 0x40) 0 2 = 1 →
     kind ≠ .startup →
     (s.sec.fails.filter (fun m => decide (s.now < m + 200000000))).length < 2 →
       ∃ t, exec (.healthFail kind) s = .next t ∧
         t.trngOk = false ∧
         t.regFld (trngPage + 0x40) 0 2 = 0 ∧
         t.sec.fails = s.sec.fails.filter (fun m => decide (s.now < m + 200000000)) ++ [s.now] ∧
         Only [.regs, .bar2, .out, .sec] s t) ∧
  (∀ (s : State) (kind : HealthTest),
     s.mainOk = true →
     s.regFld (trngPage + 0x40) 0 2 = 1 →
     kind ≠ .startup →
     2 ≤ (s.sec.fails.filter (fun m => decide (s.now < m + 200000000))).length →
       ∃ t, exec (.healthFail kind) s = .next t ∧
         t.trngOk = false ∧
         t.regFld (trngPage + 0x40) 0 2 = 2 ∧
         t.latched trngPage 26 = true ∧
         Only [.regs, .bar2, .out, .sec] s t) ∧
  (∀ (s : State),
     s.mainOk = true →
     s.trngOk = false →
     s.regFld (trngPage + 0x40) 0 2 ≠ 2 →
     s.sec.everValid = false →
     s.sec.releasedAt + 8000000 ≤ s.now →
       ∃ t, exec (.entropyFail) s = .next t ∧
         t.regFld (trngPage + 0x40) 0 2 = 2 ∧
         t.latched trngPage 26 = true ∧
         t.trngOk = false ∧
         Only [.regs, .bar2, .out, .sec] s t) ∧
  (∀ (s : State),
     s.mainOk = true →
     s.sec.owed = true ∨ s.trngOk = true ∧ (2 ^ 20 ≤ s.sec.drbgCount ∨ s.sec.reseedAt + 2000000000 ≤ s.now) →
       ∃ t, exec .drbgReseed s = .next t ∧
         (t.trngOk = true ∧ t.sec = { s.sec with drbgCount := 0, reseedAt := s.now, keyCount := s.sec.keyCount + 1, owed := false } ∧
             (s.sec.owed = true → t.latched trngPage 0 = true) ∨
           t.trngOk = false ∧ t.sec = { s.sec with owed := true } ∧ (s.trngOk = true → t.latched trngPage 1 = true)) ∧
         Only [.regs, .bar2, .out, .sec, .free] s t ∧
         RegsBut ((trngPage + 0x40) :: evtRegs trngPage) s t) ∧
  (∀ (s : State) (req : Nat),
     s.present 8 9 = true →
     s.reach req 8 9 = true →
     s.trngOk = true →
       ∃ t, exec (.rand req) s = .next t ∧
         t.rdata = Config.drbg s.sec.keyCount s.sec.drbgCount ∧
         t.sec = { s.sec with drbgCount := s.sec.drbgCount + 1 } ∧
         Only [.rdata, .sec] s t) ∧
  (∀ (s : State) (req : Nat),
     s.trngOk = false →
       ∃ t, exec (.rand req) s = .next t ∧
         t.rdata = 0#32 ∧
         Only [.rdata] s t)

/-- SESSION, CONF and ATTEST requests do what R411 to R418 say or answer why not; the debug window and the TAP keep within a confidential
tenant's bounds. (20_security.md R404, 20_security.md R407, 20_security.md R411, 20_security.md R412, 20_security.md R416, 20_security.md
R417, 20_security.md R418) -/
def Obligations.SessionsConfidentialModeAndDebug : Prop :=
  (∀ (s : State) (n : Nat),
     let body := reportBody s n (s.sec.sessionCount + 1) (s.sec.keyCount + 1) (s.mbReq n 8 32)
     n < 16 →
     s.ready = true →
     s.isMember = false →
     s.regFld (mbPage n + 0x44) 0 2 = 1 →
     s.regFld (mbPage n + 0x100) 0 16 = 0x40 →
     s.regFld (mbPage n + 0x100) 16 16 = 40 →
     (s.tenant n).session = 0 →
     s.trngOk = true →
     s.restarting 8 = false →
     s.loads.head? = some n →
       ∃ t, exec (.sessionOpen n) s = .next t ∧
         (t.tenant n).session = 1 ∧
         (t.tenant n).sessionId = s.sec.sessionCount + 1 ∧
         (t.tenant n).nonce = s.mbReq n 8 32 ∧
         t.regFld (kmPage + 0x44) (2 * n) 2 = 1 ∧
         t.hmem = (s.tmemPut n (s.mbArg n 0 8) (body ++ leBytes 96 (Config.identitySign (Config.sha384 body)))).hmem ∧
         t.reg (mbPage n + 0x208) = BitVec.ofNat 32 (s.sec.sessionCount + 1) ∧
         t.regFld (mbPage n + 0x200) 0 16 = 0 ∧
         t.regFld (mbPage n + 0x44) 0 2 = 2 ∧
         t.loads = s.loads.filter (· != n) ∧
         Only [.regs, .bar2, .out, .tenants, .sec, .ram, .hmem, .poison, .loads] s t) ∧
  (∀ (s : State) (n : Nat),
     n < 16 →
     s.ready = true →
     s.isMember = false →
     s.regFld (mbPage n + 0x44) 0 2 = 1 →
     s.regFld (mbPage n + 0x100) 0 16 = 0x40 →
     s.regFld (mbPage n + 0x100) 16 16 = 40 →
     (s.tenant n).session = 0 →
     s.trngOk = false →
     s.restarting 8 = false →
     s.loads.head? = some n →
       ∃ t, exec (.sessionOpen n) s = .next t ∧
         (t.regFld (mbPage n + 0x200) 0 16 = (if s.regFld (trngPage + 0x40) 0 2 = 2 then 0x141 else 0x140)) ∧
         t.regFld (mbPage n + 0x44) 0 2 = 2 ∧
         t.loads = s.loads.filter (· != n) ∧
         Only [.regs, .bar2, .out, .loads] s t ∧
         PagesBut [mbPage n, pg 8 6] s t) ∧
  (∀ (s : State) (n : Nat),
     n < 16 →
     s.ready = true →
     s.isMember = false →
     s.regFld (mbPage n + 0x44) 0 2 = 1 →
     s.regFld (mbPage n + 0x100) 0 16 = 0x40 →
     s.regFld (mbPage n + 0x100) 16 16 = 40 →
     (s.tenant n).session ≠ 0 →
     s.restarting 8 = false →
     s.loads.head? = some n →
       ∃ t, exec (.sessionOpen n) s = .next t ∧
         t.regFld (mbPage n + 0x200) 0 16 = 0x142 ∧
         t.regFld (mbPage n + 0x44) 0 2 = 2 ∧
         t.loads = s.loads.filter (· != n) ∧
         Only [.regs, .bar2, .out, .loads] s t ∧
         PagesBut [mbPage n, pg 8 6] s t) ∧
  (∀ (s : State) (n : Nat),
     n < 16 →
     s.ready = true →
     s.isMember = false →
     s.regFld (mbPage n + 0x44) 0 2 = 1 →
     s.regFld (mbPage n + 0x100) 0 16 = 0x41 →
     s.regFld (mbPage n + 0x100) 16 16 = 96 →
     (s.tenant n).session = 1 →
     s.restarting 8 = false →
     s.loads.head? = some n →
       ∃ t, exec (.sessionBind n) s = .next t ∧
         t.regFld (mbPage n + 0x44) 0 2 = 2 ∧
         ((Config.onCurve (s.mbReq n 0 96) = true → (t.tenant n).session = 2 ∧ (t.tenant n).wrapKey = some (wrapKey (s.tenant n) n (s.mbReq n 0 96)) ∧ (t.tenant n).ephemeral = 0 ∧ t.regFld (mbPage n + 0x200) 0 16 = 0)) ∧
         ((Config.onCurve (s.mbReq n 0 96) = false → t.tenants = s.tenants ∧ t.regFld (mbPage n + 0x200) 0 16 = 0x143)) ∧
         t.loads = s.loads.filter (· != n) ∧
         Only [.regs, .bar2, .out, .tenants, .loads] s t) ∧
  (∀ (s : State) (n : Nat),
     n < 16 →
     s.ready = true →
     s.isMember = false →
     s.regFld (mbPage n + 0x44) 0 2 = 1 →
     s.regFld (mbPage n + 0x100) 0 16 = 0x42 →
     s.regFld (mbPage n + 0x100) 16 16 = 0 →
     (s.tenant n).session ≠ 0 →
     s.conf n = false →
     s.restarting 8 = false →
     s.loads.head? = some n →
       ∃ t, exec (.sessionClose n) s = .next t ∧
         (t.tenant n).session = 0 ∧
         (t.tenant n).wrapKey = none ∧
         (t.tenant n).ephemeral = 0 ∧
         (t.tenant n).memKey = (s.tenant n).memKey ∧
         t.regFld (mbPage n + 0x200) 0 16 = 0 ∧
         t.regFld (mbPage n + 0x44) 0 2 = 2 ∧
         t.loads = s.loads.filter (· != n) ∧
         Only [.regs, .bar2, .out, .tenants, .loads] s t) ∧
  (∀ (s : State) (n : Nat),
     n < 16 →
     s.ready = true →
     s.isMember = false →
     s.regFld (mbPage n + 0x44) 0 2 = 1 →
     s.regFld (mbPage n + 0x100) 0 16 = 0x43 →
     s.regFld (mbPage n + 0x100) 16 16 = 0 →
     n ≠ 0 →
     (s.tenant n).session = 2 →
     s.conf n = false →
     s.trngOk = true →
     s.confBusy n = false →
     s.restarting 8 = false →
     s.loads.head? = some n →
       ∃ t, exec (.confEnter n) s = .next t ∧
         t.conf n = true ∧
         t.st dbgPage = 7 ∧
         (∀ z ∈ s.grans, z.2 = n + 1 → ∀ k, k < 2 ^ 21 → tabGet 0#8 t.ram (ramKey spStack (z.1 * 2 ^ 21) + k) = 0#8) ∧
         (((s.tenant n).memKey.isSome = true → (t.tenant n).memKey = some (s.sec.keyCount + 1))) ∧
         t.regFld (mbPage n + 0x200) 0 16 = 0 ∧
         t.regFld (mbPage n + 0x44) 0 2 = 2 ∧
         t.loads = s.loads.filter (· != n) ∧
         Only [.regs, .bar2, .out, .tenants, .sec, .ram, .loads] s t) ∧
  (∀ (s : State),
     0 < 16 →
     s.ready = true →
     s.isMember = false →
     s.regFld (mbPage 0 + 0x44) 0 2 = 1 →
     s.regFld (mbPage 0 + 0x100) 0 16 = 0x43 →
     s.regFld (mbPage 0 + 0x100) 16 16 = 0 →
     s.restarting 8 = false →
     s.loads.head? = some 0 →
       ∃ t, exec (.confEnter 0) s = .next t ∧
         t.regFld (mbPage 0 + 0x200) 0 16 = 3 ∧
         t.regFld (mbPage 0 + 0x44) 0 2 = 2 ∧
         t.loads = s.loads.filter (· != 0) ∧
         Only [.regs, .bar2, .out, .loads] s t ∧
         PagesBut [mbPage 0, pg 8 6] s t) ∧
  (∀ (s : State) (n : Nat),
     n < 16 →
     s.ready = true →
     s.isMember = false →
     s.regFld (mbPage n + 0x44) 0 2 = 1 →
     s.regFld (mbPage n + 0x100) 0 16 = 0x44 →
     s.regFld (mbPage n + 0x100) 16 16 = 0 →
     n ≠ 0 →
     s.conf n = true →
     s.confBusy n = false →
     s.restarting 8 = false →
     s.loads.head? = some n →
       ∃ t, exec (.confExit n) s = .next t ∧
         t.conf n = false ∧
         (t.tenant n).session = 0 ∧
         (t.tenant n).memKey = none ∧
         (t.tenant n).wrapKey = none ∧
         (∀ z ∈ s.grans, z.2 = n + 1 → ∀ k, k < 2 ^ 21 → tabGet 0#8 t.ram (ramKey spStack (z.1 * 2 ^ 21) + k) = 0#8) ∧
         t.regFld (mbPage n + 0x200) 0 16 = 0 ∧
         t.regFld (mbPage n + 0x44) 0 2 = 2 ∧
         t.loads = s.loads.filter (· != n) ∧
         Only [.regs, .back, .bar2, .out, .tenants, .ram, .hmem, .loads, .slotRings, .cueQs, .binFlags, .slates, .cancels, .tqs, .sched, .dqs, .cores, .cmbs, .engs, .mmus, .poison, .bndTaken] s t) ∧
  (∀ (s : State) (n : Nat),
     n < 16 →
     s.ready = true →
     s.isMember = false →
     s.regFld (mbPage n + 0x44) 0 2 = 1 →
     s.regFld (mbPage n + 0x100) 0 16 = 0x44 →
     s.regFld (mbPage n + 0x100) 16 16 = 0 →
     n ≠ 0 →
     s.conf n = true →
     s.confBusy n = true →
     s.restarting 8 = false →
     s.loads.head? = some n →
       ∃ t, exec (.confExit n) s = .next t ∧
         t.regFld (mbPage n + 0x200) 0 16 = 0x144 ∧
         t.regFld (mbPage n + 0x44) 0 2 = 2 ∧
         t.loads = s.loads.filter (· != n) ∧
         Only [.regs, .bar2, .out, .loads] s t ∧
         PagesBut [mbPage n, pg 8 6] s t) ∧
  (∀ (s : State) (n : Nat),
     let c := Config.certChain.take 4096
     n < 16 →
     s.ready = true →
     s.isMember = false →
     s.regFld (mbPage n + 0x44) 0 2 = 1 →
     s.regFld (mbPage n + 0x100) 0 16 = 0x45 →
     s.regFld (mbPage n + 0x100) 16 16 = 12 →
     s.restarting 8 = false →
     s.loads.head? = some n →
       ∃ t, exec (.attestCert n) s = .next t ∧
         t.regFld (mbPage n + 0x44) 0 2 = 2 ∧
         ((s.mbArg n 8 4 < c.length → t.hmem = s.hmem ∧ t.ram = s.ram ∧ t.regFld (mbPage n + 0x200) 0 16 = 0x145)) ∧
         ((c.length ≤ s.mbArg n 8 4 → t.hmem = (s.tmemPut n (s.mbArg n 0 8) c).hmem ∧ t.regFld (mbPage n + 0x200) 0 16 = 0)) ∧
         t.loads = s.loads.filter (· != n) ∧
         Only [.regs, .bar2, .out, .ram, .hmem, .poison, .loads] s t) ∧
  (∀ (s : State) (val : Word),
     s.takes 0x0F 19 8 0x0A 0x4C = true →
     dbgOpen 19 s = true →
       ∃ t, exec (.dbgWinDataWrite 19 val) s = .next t ∧
         t.ramGet (dbgSpace s) (s.reg (dbgPage + 0x48)).toNat 4 = leBytes 4 val.toNat ∧
         t.reg (dbgPage + 0x48) = s.reg (dbgPage + 0x48) + 4 ∧
         Only [.regs, .ram] s t ∧
         RegsBut [dbgPage + 0x48] s t ∧ RamBut (ramKey (dbgSpace s) (s.reg (dbgPage + 0x48)).toNat) 4 s t) ∧
  (∀ (s : State) (req : Nat),
     dbgOpen req s = true →
       ∃ t, exec (.dbgWinDataRead req) s = .next t ∧
         t.rdata = BitVec.ofNat 32 (leNat (s.ramGet (dbgSpace s) (s.reg (dbgPage + 0x48)).toNat 4)) ∧
         t.reg (dbgPage + 0x48) = s.reg (dbgPage + 0x48) + 4 ∧
         Only [.regs, .rdata] s t ∧
         RegsBut [dbgPage + 0x48] s t) ∧
  (∀ (s : State) (req : Nat) (val : Word),
     s.takes 0x0F req 8 0x0A 0x4C = true →
     dbgOpen req s = false →
       ∃ t, exec (.dbgWinDataWrite req val) s = .next t ∧
         t.reg (dbgPage + 0x34) = BitVec.ofNat 32 (0x4C + 4 * 2 ^ 12 + req % 32 * 2 ^ 16) ∧
         Only [.regs, .bar2, .out] s t ∧
         RegsBut (rejRegs dbgPage) s t) ∧
  (∀ (s : State) (code : Nat),
     s.mainOk = false ∨ s.regFld (kmPage + 0x48) 0 16 = 0 ∨ code ≤ 2 →
       ∃ t, exec (.tapInstruction code) s = .next t ∧
         t.sec.tap = code ∧
         Only [.sec] s t) ∧
  (∀ (s : State) (code : Nat),
     s.mainOk = true →
     s.regFld (kmPage + 0x48) 0 16 ≠ 0 →
     2 < code →
       ∃ t, exec (.tapInstruction code) s = .next t ∧
         t.sec.tap = 1 ∧
         Only [.sec] s t)

/-- Ports train, authenticate and fail as R425 to R427 say; frames are taken once and in order, acknowledged, sent on or asked for again;
the eighth failure faults. (21_ensemble.md R425, 21_ensemble.md R426, 21_ensemble.md R427, 21_ensemble.md R429, 21_ensemble.md R438) -/
def Obligations.RelayPortsTrainAuthenticateAndCarry : Prop :=
  (∀ (s : State) (site p : Nat),
     s.hasPort site p = true →
     s.st (rpPage site p) = 1 ∨ s.st (rpPage site p) = 5 ∨ site = 10 ∧ s.st (rpPage site p) = 0 →
       ∃ t, exec (.portTrained site p) s = .next t ∧
         t.st (rpPage site p) = 1 ∧
         t.regBit (rpPage site p + 0x40) 0 = true ∧
         t.regBit (rpPage site p + 0x40) 1 = true ∧
         Only [.regs, .bar2, .out] s t) ∧
  (∀ (s : State) (site p : Nat),
     s.hasPort site p = true →
     s.st (rpPage site p) = 1 →
       ∃ t, exec (.trainFail site p) s = .next t ∧
         t.st (rpPage site p) = 5 ∧
         t.regFld (rpPage site p + 0x40) 0 3 = 0 ∧
         Only [.regs, .bar2, .out] s t ∧
         RegsBut ((rpPage site p + 0x40) :: faultRegs (rpPage site p)) s t) ∧
  (∀ (s : State) (site p : Nat) (peer : PeerStatement),
     s.hasPort site p = true →
     s.st (rpPage site p) = 1 →
     s.regFld (rpPage site p + 0x40) 0 2 = 3 →
     peer.chainOk = true →
     peer.sigOk = true →
     peer.fwMeasure = s.boot.measure →
     peer.asm ≠ 3 →
       ∃ t, exec (.peerAuth site p peer) s = .next t ∧
         t.st (rpPage site p) = 2 ∧
         (t.port site p).key = some (s.sec.keyCount + 1) ∧
         t.reg (rpPage site p + 0x40) = BitVec.ofNat 32 (7 + peer.package % 16 * 16 + peer.port % 8 * 2 ^ 8 + (if peer.onX2 = true then 2 ^ 11 else 0)) ∧
         Only [.regs, .bar2, .out, .sec, .ports] s t) ∧
  (∀ (s : State) (site p : Nat) (peer : PeerStatement),
     s.hasPort site p = true →
     s.st (rpPage site p) = 1 →
     s.regFld (rpPage site p + 0x40) 0 2 = 3 →
     peer.chainOk = false ∨ peer.sigOk = false ∨ peer.fwMeasure ≠ s.boot.measure ∨ peer.asm = 3 →
       ∃ t, exec (.peerAuth site p peer) s = .next t ∧
         t.st (rpPage site p) = 5 ∧
         t.regFld (rpPage site p + 0x40) 0 3 = 0 ∧
         Only [.regs, .bar2, .out] s t) ∧
  (∀ (s : State) (site p : Nat) (f : RelayFrame),
     s.hasPort site p = true →
     s.st (rpPage site p) = 2 →
     f.fecOk = true →
     f.tagOk = true →
     f.seq = (s.port site p).rxSeq →
     s.formed = false ∨ f.dstPkg = s.pkg →
       ∃ t, exec (.dataFrame site p f) s = .next t ∧
         (t.port site p).rxSeq = (s.port site p).rxSeq + 1 ∧
         (t.port site p).fails = 0 ∧
         t.out = s.out ++ [.relay site p 2 (s.port site p).txSeq] ∧
         Only [.regs, .out, .ports] s t ∧
         RegsBut [rpPage site p + 0x44] s t) ∧
  (∀ (s : State) (site p : Nat) (f : RelayFrame) (q : Nat × Nat),
     let n := if q = (site, p) then (s.port site p).txSeq + 1 else (s.port q.1 q.2).txSeq
     s.hasPort site p = true →
     s.st (rpPage site p) = 2 →
     f.fecOk = true →
     f.tagOk = true →
     f.seq = (s.port site p).rxSeq →
     s.formed = true →
     f.dstPkg ≠ s.pkg →
     s.routePort f.dstPkg = some q →
     q.2 < 4 →
     p < 4 →
       ∃ t, exec (.dataFrame site p f) s = .next t ∧
         t.out = s.out ++ [.relay site p 2 (s.port site p).txSeq, .relay q.1 q.2 1 n] ∧
         (t.port q.1 q.2).unacked = (s.port q.1 q.2).unacked ++ [(n, f.dstPkg)] ∧
         Only [.regs, .out, .ports] s t ∧
         RegsBut [rpPage site p + 0x44] s t) ∧
  (∀ (s : State) (site p : Nat) (f : RelayFrame),
     s.hasPort site p = true →
     s.st (rpPage site p) = 2 →
     f.fecOk = true →
     f.tagOk = true →
     f.seq ≠ (s.port site p).rxSeq →
       ∃ t, exec (.dataFrame site p f) s = .next t ∧
         (t.port site p).rxSeq = (s.port site p).rxSeq ∧
         (t.port site p).unacked = (s.port site p).unacked ∧
         t.out = s.out ++ [.relay site p 2 (s.port site p).txSeq] ∧
         Only [.regs, .out, .ports] s t ∧
         RegsBut [rpPage site p + 0x44, rpPage site p + 0x4C] s t) ∧
  (∀ (s : State) (site p : Nat) (f : RelayFrame),
     s.hasPort site p = true →
     s.st (rpPage site p) = 2 →
     f.fecOk = false ∨ f.tagOk = false →
     (s.port site p).fails + 1 < 8 →
       ∃ t, exec (.dataFrame site p f) s = .next t ∧
         (t.port site p).rxSeq = (s.port site p).rxSeq ∧
         (t.port site p).fails = (s.port site p).fails + 1 ∧
         (t.reg (rpPage site p + 0x4C)).toNat = min 0xFFFFFFFF ((s.reg (rpPage site p + 0x4C)).toNat + 1) ∧
         Only [.regs, .bar2, .out, .ports] s t) ∧
  (∀ (s : State) (site p : Nat) (f : RelayFrame),
     s.hasPort site p = true →
     s.st (rpPage site p) = 2 →
     f.fecOk = false ∨ f.tagOk = false →
     8 ≤ (s.port site p).fails + 1 →
       ∃ t, exec (.dataFrame site p f) s = .next t ∧
         t.st (rpPage site p) = 5 ∧
         t.regFld (rpPage site p + 0x40) 0 3 = 0 ∧
         Only [.regs, .bar2, .out, .ports] s t) ∧
  (∀ (s : State) (site p : Nat) (f : RelayFrame),
     s.hasPort site p = true →
     s.st (rpPage site p) = 2 →
     f.fecOk = true →
     f.tagOk = true →
     f.seq = (s.port site p).rxSeq →
       ∃ t, exec (.ackFrame site p f) s = .next t ∧
         (t.port site p).rxSeq = (s.port site p).rxSeq + 1 ∧
         (t.port site p).unacked = (s.port site p).unacked.filter (fun u => decide (f.ackSeq < u.1)) ∧
         Only [.regs, .bar2, .out, .ports] s t ∧
         RegsBut [rpPage site p + 0x44] s t) ∧
  (∀ (s : State) (site p : Nat),
     s.hasPort site p = true →
     s.st (rpPage site p) = 2 →
       ∃ t, exec (.lossOfSignal site p) s = .next t ∧
         t.st (rpPage site p) = 5 ∧
         t.regFld (rpPage site p + 0x40) 0 3 = 0 ∧
         (s.formed = false → t.port site p = {}) ∧
         (s.formed = true → t.latched ensPage 3 = true) ∧
         Only [.regs, .bar2, .out, .ports] s t)

/-- A lead forms, readmits and dissolves an ensemble or answers why not; members take their number and the lead's time; a lost package and
isolation. (21_ensemble.md R423, 21_ensemble.md R424, 21_ensemble.md R428, 21_ensemble.md R432, 21_ensemble.md R440, 21_ensemble.md R441,
21_ensemble.md R442) -/
def Obligations.EnsemblesFormKeepTimeAndLosePackages : Prop :=
  (∀ (s : State) (site p : Nat) (f : RelayFrame),
     s.hasPort site p = true →
     s.st (rpPage site p) = 2 →
     f.fecOk = true →
     f.tagOk = true →
     f.seq = (s.port site p).rxSeq →
     s.isMember = true →
       ∃ t, exec (.timeFrame site p f) s = .next t ∧
         (t.port site p).rxSeq = (s.port site p).rxSeq + 1 ∧
         t.reg (ensPage + 0xD0) = wordOfInt (satInt (2 ^ 31 - 1) ((s.ns : Int) - (f.leadNs + f.delayNs : Nat))) ∧
         (t.clkLock = (if ((s.ns : Int) - (f.leadNs + f.delayNs : Nat)).natAbs ≤ 12 * (f.hops + 1) then 2 else 1)) ∧
         Only [.regs, .bar2, .out, .clk, .ports] s t) ∧
  (∀ (s : State) (found : EnsFound),
     let n := s.mbArg 0 0 1
     0 < 16 →
     s.ready = true →
     s.isMember = false →
     s.regFld (mbPage 0 + 0x44) 0 2 = 1 →
     s.regFld (mbPage 0 + 0x100) 0 16 = 0x50 →
     s.regFld (mbPage 0 + 0x100) 16 16 = 4 →
     s.lead = true →
     s.linkSites.isEmpty = false →
     s.mbArg 0 2 1 % 2 = 0 →
     s.ensSt = 0 →
     s.ensIdle = true →
     found.idle = true →
     (s.mbArg 0 1 1 = 0 ∧ 2 ≤ n ∧ n ≤ 15) ∨ (s.mbArg 0 1 1 = 1 ∧ n = 16) →
     found.packages = n →
     found.wired = true →
     found.authenticated = true →
     found.inTime = true →
     s.restarting 8 = false →
       ∃ t, exec (.ensForm 0 found) s = .next t ∧
         t.ensSt = 2 ∧
         t.pkg = 0 ∧
         t.ensN = n ∧
         t.torus = (s.mbArg 0 1 1 == 1) ∧
         t.reg (ensPage + 0x44) = BitVec.ofNat 32 (2 ^ n - 1) ∧
         t.latched ensPage 0 = true ∧
         t.regFld (mbPage 0 + 0x200) 0 16 = 0 ∧
         t.regFld (mbPage 0 + 0x44) 0 2 = 2 ∧
         t.loads = s.loads.filter (· != 0) ∧
         Only [.regs, .bar2, .out, .ens, .loads] s t) ∧
  (∀ (s : State) (found : EnsFound),
     0 < 16 →
     s.ready = true →
     s.isMember = false →
     s.regFld (mbPage 0 + 0x44) 0 2 = 1 →
     s.regFld (mbPage 0 + 0x100) 0 16 = 0x50 →
     s.regFld (mbPage 0 + 0x100) 16 16 = 4 →
     s.lead = true →
     s.linkSites.isEmpty = false →
     s.mbArg 0 2 1 % 2 = 0 →
     s.ensSt ≠ 0 ∨ s.ensIdle = false ∨ found.idle = false →
     s.restarting 8 = false →
       ∃ t, exec (.ensForm 0 found) s = .next t ∧
         t.regFld (mbPage 0 + 0x200) 0 16 = 0x150 ∧
         t.regFld (mbPage 0 + 0x44) 0 2 = 2 ∧
         t.loads = s.loads.filter (· != 0) ∧
         Only [.regs, .bar2, .out, .loads] s t) ∧
  (∀ (s : State) (found : EnsFound),
     let n := s.mbArg 0 0 1
     let c := if found.packages ≠ n ∨ found.wired = false then 0x151 else if found.authenticated = false then 0x152 else if found.inTime = false then 0x153 else 0
     0 < 16 →
     s.ready = true →
     s.isMember = false →
     s.regFld (mbPage 0 + 0x44) 0 2 = 1 →
     s.regFld (mbPage 0 + 0x100) 0 16 = 0x50 →
     s.regFld (mbPage 0 + 0x100) 16 16 = 4 →
     s.lead = true →
     s.linkSites.isEmpty = false →
     s.mbArg 0 2 1 % 2 = 0 →
     s.ensSt = 0 →
     s.ensIdle = true →
     found.idle = true →
     (s.mbArg 0 1 1 = 0 ∧ 2 ≤ n ∧ n ≤ 15) ∨ (s.mbArg 0 1 1 = 1 ∧ n = 16) →
     c ≠ 0 →
     s.restarting 8 = false →
       ∃ t, exec (.ensForm 0 found) s = .next t ∧
         t.ensSt = 0 ∧
         t.regFld (ensPage + 0x40) 16 3 = c - 0x150 ∧
         t.regFld (mbPage 0 + 0x200) 0 16 = c ∧
         t.regFld (mbPage 0 + 0x44) 0 2 = 2 ∧
         t.loads = s.loads.filter (· != 0) ∧
         Only [.regs, .bar2, .out, .loads] s t) ∧
  (∀ (s : State) (found : EnsFound),
     0 < 16 →
     s.ready = true →
     s.isMember = false →
     s.regFld (mbPage 0 + 0x44) 0 2 = 1 →
     s.regFld (mbPage 0 + 0x100) 0 16 = 0x50 →
     s.regFld (mbPage 0 + 0x100) 16 16 = 4 →
     s.lead = true →
     s.linkSites.isEmpty = false →
     s.mbArg 0 2 1 % 2 = 1 →
     s.ensSt = 3 →
     s.mbArg 0 0 1 = s.ensN →
     (s.mbArg 0 1 1 == 1) = s.torus →
     s.mbArg 0 1 1 ≤ 1 →
     found.wired = true →
     found.authenticated = true →
     found.inTime = true →
     s.restarting 8 = false →
       ∃ t, exec (.ensRejoin 0 found) s = .next t ∧
         t.reg (ensPage + 0x48) = BitVec.ofNat 32 ((s.reg (ensPage + 0x48)).toNat ^^^ ((s.reg (ensPage + 0x48)).toNat &&& found.back)) ∧
         t.reg (ensPage + 0x44) = BitVec.ofNat 32 ((s.reg (ensPage + 0x44)).toNat ||| ((s.reg (ensPage + 0x48)).toNat &&& found.back)) ∧
         (t.ensSt = (if (s.reg (ensPage + 0x48)).toNat ^^^ ((s.reg (ensPage + 0x48)).toNat &&& found.back) = 0 then 2 else 3)) ∧
         t.pkg = s.pkg ∧
         t.regFld (mbPage 0 + 0x200) 0 16 = 0 ∧
         t.regFld (mbPage 0 + 0x44) 0 2 = 2 ∧
         t.loads = s.loads.filter (· != 0) ∧
         Only [.regs, .bar2, .out, .ens, .loads] s t) ∧
  (∀ (s : State),
     0 < 16 →
     s.ready = true →
     s.isMember = false →
     s.regFld (mbPage 0 + 0x44) 0 2 = 1 →
     s.regFld (mbPage 0 + 0x100) 0 16 = 0x51 →
     s.regFld (mbPage 0 + 0x100) 16 16 = 0 →
     s.lead = true →
     s.linkSites.isEmpty = false →
     s.formed = true →
     s.ensIdle = true →
     s.restarting 8 = false →
       ∃ t, exec (.ensDissolve 0) s = .next t ∧
         t.ensSt = 0 ∧
         t.reg (ensPage + 0x44) = 1#32 ∧
         t.ens.carriage = [] ∧
         t.regFld (mbPage 0 + 0x200) 0 16 = 0 ∧
         t.regFld (mbPage 0 + 0x44) 0 2 = 2 ∧
         t.loads = s.loads.filter (· != 0) ∧
         Only [.regs, .bar2, .out, .ens, .ports, .loads] s t) ∧
  (∀ (s : State) (p : Nat) (cause : LossCause),
     s.mainOk = true →
     s.formed = true →
     s.lead = true →
     p < 16 →
     p ≠ s.pkg →
     s.ensUp p = true →
       ∃ t, exec (.pkgLost p cause) s = .next t ∧
         t.ensSt = 3 ∧
         t.ensUp p = false ∧
         t.regBit (ensPage + 0x48) p = true ∧
         p ∉ t.ens.carriage ∧
         t.reg (ensPage + 0x50 + 4 * p) = 0#32 ∧
         t.latched ensPage 2 = true ∧
         (∀ g, g < 16 → s.regBit (ensPage + 0x90 + 4 * g) p = true → t.group g = {}) ∧
         (∀ x q, s.hasPort x q = true → s.st (rpPage x q) = 2 → s.regFld (rpPage x q + 0x40) 4 4 = p → t.port x q = {} ∧ t.st (rpPage x q) = 1) ∧
         Only [.regs, .bar2, .out, .slots, .groups, .ens, .ports] s t) ∧
  (∀ (s : State),
     s.mainOk = true →
     s.isMember = true →
       ∃ t, exec (.isolated) s = .next t ∧
         t.ensSt = 4 ∧
         t.ens.carriage = [] ∧
         t.latched ensPage 4 = true ∧
         (∀ m q, m < 16 → q < 8 → (t.tq m q).entries = []) ∧
         (∀ z ∈ t.slates, z.1 = z.2.handle % 65536 → 16 ≤ z.2.tenant) ∧
         (∀ x ∈ s.allStreams, s.active (strPage x.1 x.2) = true → t.st (strPage x.1 x.2) = 4 ∧ t.splCause x.1 x.2 = 5) ∧
         (∀ x q, s.hasPort x q = true → s.st (rpPage x q) = 2 → t.port x q = {} ∧ t.st (rpPage x q) = 1) ∧
         Only [.regs, .back, .bar2, .out, .clk, .ens, .ports, .ram, .hmem, .rings, .strms, .axes, .grps, .slotRings, .cueQs, .binFlags, .slates, .cancels, .tqs, .sched, .dqs, .cores, .cmbs, .engs, .mmus, .poison, .bndTaken] s t) ∧
  (∀ (s : State) (site p : Nat) (f : RelayFrame),
     s.hasPort site p = true →
     s.st (rpPage site p) = 2 →
     f.fecOk = true →
     f.tagOk = true →
     f.seq = (s.port site p).rxSeq →
     f.msg = 1 →
     s.lead = false →
     s.ensSt = 0 ∨ s.ensSt = 4 →
     s.ready = true →
       ∃ t, exec (.controlFrame site p f) s = .next t ∧
         (t.port site p).rxSeq = (s.port site p).rxSeq + 1 ∧
         t.ensSt = 2 ∧
         t.pkg = f.arg % 16 ∧
         t.ensN = f.arg / 16 % 32 ∧
         t.latched ensPage 0 = true ∧
         Only [.regs, .bar2, .out, .slots, .groups, .ens, .ports] s t) ∧
  (∀ (s : State) (site p : Nat) (f : RelayFrame),
     let pk := f.arg % 16
     s.hasPort site p = true →
     s.st (rpPage site p) = 2 →
     f.fecOk = true →
     f.tagOk = true →
     f.seq = (s.port site p).rxSeq →
     f.msg = 2 ∧ s.isMember = true ∨ f.msg = 6 ∧ s.lead = true ∧ s.formed = true →
     pk ≠ s.pkg →
     s.ensUp pk = true →
       ∃ t, exec (.controlFrame site p f) s = .next t ∧
         t.ensSt = 3 ∧
         t.ensUp pk = false ∧
         t.regBit (ensPage + 0x48) pk = true ∧
         pk ∉ t.ens.carriage ∧
         t.latched ensPage 2 = true ∧
         Only [.regs, .bar2, .out, .slots, .groups, .ens, .ports] s t) ∧
  (∀ (s : State) (site p : Nat) (f : RelayFrame),
     s.hasPort site p = true →
     s.st (rpPage site p) = 2 →
     f.fecOk = true →
     f.tagOk = true →
     f.seq = (s.port site p).rxSeq →
     f.msg = 3 →
     s.isMember = true →
       ∃ t, exec (.controlFrame site p f) s = .next t ∧
         t.ensSt = 0 ∧
         t.reg (ensPage + 0x44) = 1#32 ∧
         t.ens.carriage = [] ∧
         t.port site p = {} ∧
         t.st (rpPage site p) = 1 ∧
         Only [.regs, .bar2, .out, .ens, .ports] s t) ∧
  (∀ (s : State) (site p : Nat) (f : RelayFrame),
     s.hasPort site p = true →
     s.st (rpPage site p) = 2 →
     f.fecOk = true →
     f.tagOk = true →
     f.seq = (s.port site p).rxSeq →
     f.msg = 4 →
     s.lead = true →
     s.formed = true →
       ∃ t, exec (.controlFrame site p f) s = .next t ∧
         (t.port site p).rxSeq = (s.port site p).rxSeq + 1 ∧
         t.regBit (ensPage + 0x4C) (f.arg % 16) = (f.arg / 256 % 2 == 1) ∧
         Only [.regs, .bar2, .out, .ports] s t)

/-- Demands of either channel, VFIO or die heat take pairs off in category 0 or 1 and lock axes; only an accepted RESET energises them;
limit inputs and rest. (15_dolly.md R331, 15_dolly.md R332, 22_continuity.md R446, 22_continuity.md R448, 22_continuity.md R449,
22_continuity.md R450, 22_continuity.md R452, 22_continuity.md R453) -/
def Obligations.ContinuityMonitorDemandsAndResets : Prop :=
  (∀ (s : State) (site e n : Nat) (chanB : Bool),
     let m := s.mon site
     let g := m.gate e
     s.isField site = true →
     m.st = 3 →
     e < 16 →
     n < 4 →
     m.names e n = true →
     guardCond s site e chanB = true →
     m.cat1 e = false ∨ s.groupAtRest site g = true →
       ∃ t, exec (.guardDemand site (.entry e chanB)) s = .next t ∧
         ((t.mon site).pair n).st = 0 ∧
         ((t.mon site).pair n).latched = true ∧
         (∀ b ∈ s.groupAxes site g, t.st (axPage site b) = 7) ∧
         t.groupHeld site g = true ∧
         (s.groupHeld site g = false → (t.grp site g).cause = 7) ∧
         t.latched (monPage site) 0 = true ∧
         Only [.regs, .bar2, .out, .mons, .ram, .hmem, .rings, .strms, .axes, .grps, .slotRings, .cueQs, .binFlags, .slates, .cancels, .dqs, .cores, .cmbs, .engs, .poison] s t) ∧
  (∀ (s : State) (site e n : Nat) (chanB : Bool),
     let m := s.mon site
     let g := m.gate e
     let d := s.now + fld (m.word e 0) 16 16 * 200000
     s.isField site = true →
     m.st = 3 →
     e < 16 →
     n < 4 →
     m.names e n = true →
     guardCond s site e chanB = true →
     m.cat1 e = true →
     s.groupAtRest site g = false →
       ∃ t, exec (.guardDemand site (.entry e chanB)) s = .next t ∧
         ((t.mon site).pair n).st = (if (m.pair n).st = 1 then 2 else (m.pair n).st) ∧
         ((t.mon site).pair n).deadline = some (min d ((m.pair n).deadline.getD d)) ∧
         ((t.mon site).pair n).stopGates = (m.pair n).stopGates ++ [g] ∧
         ((m.pair n).st = 1 → ((t.mon site).pair n).first = e ∧ t.regFld (monPage site + 0x58 + 4 * n) 0 2 = 2) ∧
         t.groupHeld site g = true ∧
         (s.groupHeld site g = false → (t.grp site g).cause = 7) ∧
         Only [.regs, .bar2, .out, .mons, .ram, .hmem, .rings, .strms, .axes, .grps, .slotRings, .cueQs, .binFlags, .slates, .cancels, .dqs, .cores, .cmbs, .engs, .poison] s t) ∧
  (∀ (s : State) (site : Nat) (mv : Nat),
     s.isField site = true →
     s.regBit (pg site 2 + 0x40) 4 = false ∨ 31000 < mv →
       ∃ t, exec (.guardDemand site (.supply mv)) s = .next t ∧
         (t.mon site).supply = true ∧
         (∀ n, n < 4 → ((t.mon site).pair n).st = 0 ∧ ((t.mon site).pair n).latched = true) ∧
         t.regBit (monPage site + 0x50) 0 = true ∧
         t.latched (monPage site) 0 = true ∧
         Only [.regs, .bar2, .out, .mons, .ram, .hmem, .rings, .strms, .axes, .grps, .slotRings, .cueQs, .binFlags, .slates, .cancels, .dqs, .cores, .cmbs, .engs, .poison] s t) ∧
  (∀ (s : State) (site : Nat) (temp : Int),
     let m := s.mon site
     s.isField site = true →
     115 ≤ temp →
       ∃ t, exec (.guardDemand site (.dieHeat temp)) s = .next t ∧
         (t.mon site).dieHeat = true ∧
         (∀ n, n < 4 → ((ruler m n).all (fun r => !m.cat1 r)) = true → ((t.mon site).pair n).st = 0 ∧ ((t.mon site).pair n).latched = true) ∧
         (∀ n, n < 4 → ((ruler m n).any (fun r => m.cat1 r)) = true → ((pairGates m n).all (fun g => !s.groupAtRest site g)) = true → ((t.mon site).pair n).st = (if (m.pair n).st = 1 then 2 else (m.pair n).st)) ∧
         (∀ n, n < 4 → ∀ g ∈ pairGates m n, t.groupHeld site g = true) ∧
         t.regBit (monPage site + 0x50) 1 = true ∧
         t.latched (monPage site) 0 = true ∧
         Only [.regs, .bar2, .out, .mons, .ram, .hmem, .rings, .strms, .axes, .grps, .slotRings, .cueQs, .binFlags, .slates, .cancels, .dqs, .cores, .cmbs, .engs, .poison] s t) ∧
  (∀ (s : State) (site e : Nat),
     let m := s.mon site
     let x := motionEntry s site e (m.entry e)
     s.isField site = true →
     m.st = 3 →
     e < 16 →
     m.type e = 4 →
       ∃ t, exec (.motionWindow site) s = .next t ∧
         (t.mon site).entry e = x ∧
         (x.motion = true → (∀ n, n < 4 → m.names e n = true → ((t.mon site).pair n).st ≠ 1 ∧ (m.cat1 e = false → ((t.mon site).pair n).st = 0 ∧ ((t.mon site).pair n).latched = true)) ∧ t.groupHeld site (m.gate e) = true ∧ t.latched (monPage site) 0 = true) ∧
         Only [.regs, .bar2, .out, .mons, .ram, .hmem, .rings, .strms, .axes, .grps, .slotRings, .cueQs, .binFlags, .slates, .cancels, .dqs, .cores, .cmbs, .engs, .poison] s t) ∧
  (∀ (s : State) (site e n : Nat) (t0 : Nat),
     let m := s.mon site
     s.isField site = true →
     m.st = 3 →
     e < 16 →
     n < 4 →
     m.names e n = true →
     (m.entry e).discAt = some t0 →
     (m.entry e).fault = false →
     t0 + fld (m.word e 2) 0 16 * 200000 ≤ s.now →
       ∃ t, exec (.inputFault site e) s = .next t ∧
         ((t.mon site).entry e).fault = true ∧
         t.regBit (monPage site + 0x68) e = true ∧
         t.latched (monPage site) 3 = true ∧
         ((t.mon site).pair n).st ≠ 1 ∧
         (m.cat1 e = false → ((t.mon site).pair n).st = 0 ∧ ((t.mon site).pair n).latched = true) ∧
         t.groupHeld site (m.gate e) = true ∧
         Only [.regs, .bar2, .out, .mons, .ram, .hmem, .rings, .strms, .axes, .grps, .slotRings, .cueQs, .binFlags, .slates, .cancels, .dqs, .cores, .cmbs, .engs, .poison] s t) ∧
  (∀ (s : State) (site e t0 : Nat),
     s.isField site = true →
     e < 16 →
     ((s.mon site).entry e).agreeAt = some t0 →
     ((s.mon site).entry e).fault = true →
     t0 + 20000000 ≤ s.now →
     guardCond s site e false = false →
     guardCond s site e true = false →
       ∃ t, exec (.inputFaultClear site e) s = .next t ∧
         ((t.mon site).entry e).fault = false ∧
         t.regBit (monPage site + 0x68) e = false ∧
         (t.mon site).pairs = (s.mon site).pairs ∧
         Only [.regs, .mons] s t) ∧
  (∀ (s : State) (site n d : Nat),
     s.isField site = true →
     n < 4 →
     ((s.mon site).pair n).deadline = some d →
     d ≤ s.now →
       ∃ t, exec (.stopMsExpire site n) s = .next t ∧
         ((t.mon site).pair n).st = 0 ∧
         ((t.mon site).pair n).latched = true ∧
         ((t.mon site).pair n).deadline = none ∧
         (∀ g ∈ ((s.mon site).pair n).stopGates, ∀ b ∈ s.groupAxes site g, t.st (axPage site b) = 7) ∧
         (((s.mon site).pair n).st ≠ 0 → t.latched (monPage site) 1 = true) ∧
         Only [.regs, .bar2, .out, .mons, .axes] s t) ∧
  (∀ (s : State) (req site : Nat),
     s.takes 0x3E req site 0x90 0x44 = true →
     (s.mon site).st = 3 →
     s.fieldUp site = true →
     s.regBit (pg site 2 + 0x40) 4 = true →
     (s.mon site).supply = false →
     (s.mon site).dieHeat = false →
     ((s.mon site).latchedPairs.any (fun n => pairBlocked s site n)) = false →
       ∃ t, exec (.monCmdReset req site 4#32) s = .next t ∧
         (∀ n, n < 4 → ((t.mon site).pair n).st = (if ((s.mon site).pair n).latched = true then 1 else ((s.mon site).pair n).st)) ∧
         (∀ n, n < 4 → ((t.mon site).pair n).latched = false) ∧
         (∀ n g b, n < 4 → ((s.mon site).pair n).latched = true → g ∈ ((s.mon site).pair n).lockGates → b ∈ s.groupAxes site g → s.st (axPage site b) = 7 → s.regBit (axPage site b + 0xC) 5 = false → t.st (axPage site b) = 0) ∧
         Only [.regs, .bar2, .out, .mons] s t) ∧
  (∀ (s : State) (req site : Nat),
     s.takes 0x3E req site 0x90 0x44 = true →
     (s.mon site).st ≠ 3 ∨ s.fieldUp site = false ∨ s.regBit (pg site 2 + 0x40) 4 = false ∨ (s.mon site).supply = true ∨ (s.mon site).dieHeat = true ∨ ((s.mon site).latchedPairs.any (fun n => pairBlocked s site n)) = true →
       ∃ t, exec (.monCmdReset req site 4#32) s = .next t ∧
         t.reg (monPage site + 0x34) = BitVec.ofNat 32 (0x44 + 5 * 2 ^ 12 + req % 32 * 2 ^ 16) ∧
         t.latched (monPage site) 8 = true ∧
         Only [.regs, .bar2, .out] s t ∧
         RegsBut (rejRegs (monPage site) ++ evtRegs (monPage site)) s t) ∧
  (∀ (s : State) (site ms : Nat),
     s.isField site = true →
     bitOf (s.mon site).committedReset 5 = true →
     100 ≤ ms →
     ms ≤ 5000 →
     (s.mon site).st = 3 →
     s.fieldUp site = true →
     s.regBit (pg site 2 + 0x40) 4 = true →
     (s.mon site).supply = false →
     (s.mon site).dieHeat = false →
     ((s.mon site).latchedPairs.any (fun n => pairBlocked s site n)) = false →
       ∃ t, exec (.resetIn site ms) s = .next t ∧
         (∀ n, n < 4 → ((t.mon site).pair n).st = (if ((s.mon site).pair n).latched = true then 1 else ((s.mon site).pair n).st)) ∧
         (∀ n, n < 4 → ((t.mon site).pair n).latched = false) ∧
         (∀ n g b, n < 4 → ((s.mon site).pair n).latched = true → g ∈ ((s.mon site).pair n).lockGates → b ∈ s.groupAxes site g → s.st (axPage site b) = 7 → s.regBit (axPage site b + 0xC) 5 = false → t.st (axPage site b) = 0) ∧
         Only [.regs, .bar2, .out, .mons] s t) ∧
  (∀ (s : State) (site ms : Nat),
     s.isField site = true →
     bitOf (s.mon site).committedReset 5 = true →
     100 ≤ ms →
     ms ≤ 5000 →
     (s.mon site).st ≠ 3 ∨ s.fieldUp site = false ∨ s.regBit (pg site 2 + 0x40) 4 = false ∨ (s.mon site).supply = true ∨ (s.mon site).dieHeat = true ∨ ((s.mon site).latchedPairs.any (fun n => pairBlocked s site n)) = true →
       ∃ t, exec (.resetIn site ms) s = .next t ∧
         t.latched (monPage site) 8 = true ∧
         Only [.regs, .bar2, .out] s t ∧
         RegsBut (evtRegs (monPage site)) s t) ∧
  (∀ (s : State) (site n : Nat) (outB : Bool),
     let x := (s.mon site).pair n
     s.isField site = true →
     n < 4 →
       ∃ t, exec (.testPulse site n outB true) s = .next t ∧
         (x.st = 0 → ((t.mon site).pair n) = (if outB = true then { x with lowB := some (x.lowB.getD s.now) } else { x with lowA := some (x.lowA.getD s.now) })) ∧
         (x.st ≠ 0 → t = s) ∧
         Only [.mons] s t) ∧
  (∀ (s : State) (site n : Nat) (outB : Bool),
     s.isField site = true →
     n < 4 →
       ∃ t, exec (.testPulse site n outB false) s = .next t ∧
         ((t.mon site).pair n).st = 0 ∧
         ((t.mon site).pair n).latched = true ∧
         ((t.mon site).pair n).fault = true ∧
         t.latched (monPage site) 4 = true ∧
         (((s.mon site).pair n).st = 0 → (if outB = true then ((t.mon site).pair n).lowB else ((t.mon site).pair n).lowA) = none) ∧
         Only [.regs, .bar2, .out, .mons, .ram, .hmem, .rings, .strms, .axes, .grps, .slotRings, .cueQs, .binFlags, .slates, .cancels, .dqs, .cores, .cmbs, .engs, .poison] s t) ∧
  (∀ (s : State) (site n : Nat) (outB : Bool),
     s.isField site = true →
     n < 4 →
     ((s.mon site).pair n).st ≠ 0 →
       ∃ t, exec (.ssoCurrentLimit site n outB) s = .next t ∧
         ((t.mon site).pair n).st = 0 ∧
         ((t.mon site).pair n).latched = true ∧
         ((t.mon site).pair n).fault = true ∧
         t.latched (monPage site) 4 = true ∧
         Only [.regs, .bar2, .out, .mons, .ram, .hmem, .rings, .strms, .axes, .grps, .slotRings, .cueQs, .binFlags, .slates, .cancels, .dqs, .cores, .cmbs, .engs, .poison] s t) ∧
  (∀ (s : State) (site g : Nat),
     s.isField site = true →
     g < 8 →
     (s.grp site g).stopping = true →
     s.groupStill site g = true →
       ∃ t, exec (.atRest site g) s = .next t ∧
         t.latched (grpPage site g) 1 = true ∧
         ((s.grp site g).retake = none → (t.grp site g).atRest = true ∧ (t.grp site g).stopping = false) ∧
         (∀ n, n < 4 → ((s.mon site).pair n).stopGates.contains g = true → ((t.mon site).pair n).st = 0 ∧ ((t.mon site).pair n).latched = true) ∧
         Only [.regs, .bar2, .out, .fios, .poss, .mons, .strms, .gates, .axes, .grps] s t) ∧
  (∀ (s : State) (site i : Nat),
     s.isField site = true →
     i < 32 →
     s.regBit (pg site 2 + 0x40) 4 = true →
       ∃ t, exec (.limitQualify site i .band) s = .next t ∧
         t.regBit (dollyPage site + 0x54) i = true ∧
         Only [.regs] s t ∧
         RegsBut [dollyPage site + 0x54] s t) ∧
  (∀ (s : State) (site i : Nat) (level : LimitLevel),
     let on := (level == .high) == s.regBit (dollyPage site + 0x48) i
     s.isField site = true →
     i < 32 →
     s.regBit (pg site 2 + 0x40) 4 = true →
     level ≠ .band →
       ∃ t, exec (.limitQualify site i level) s = .next t ∧
         t.regBit (dollyPage site + 0x50) i = true ∧
         t.regBit (dollyPage site + 0x54) i = false ∧
         t.regBit (dollyPage site + 0x4C) i = on ∧
         ((s.regBit (dollyPage site + 0x4C) i ≠ on → t.latched (dollyPage site) 0 = true)) ∧
         (∀ a, a < 16 → on = true → (s.axis site a).vel ≠ 0 → s.guardInput site a (s.axis site a).vel = some i → t.groupHeld site (s.grpOf site a) = true) ∧
         Only [.regs, .bar2, .out, .mons, .ram, .hmem, .rings, .strms, .axes, .grps, .slotRings, .cueQs, .binFlags, .slates, .cancels, .dqs, .cores, .cmbs, .engs, .poison] s t)

/-- UNLOCK and COMMIT in two steps, ABORT_CFG, the self-test and the diagnostics move the monitor between its states; a fault locks the
die's field pages. (22_continuity.md R452, 22_continuity.md R454, 22_continuity.md R455, 22_continuity.md R456, 22_continuity.md R458) -/
def Obligations.ContinuityMonitorConfigurationAndDiagnostics : Prop :=
  (∀ (s : State) (req site : Nat),
     s.takes 0x3E req site 0x90 0x44 = true →
     twoStepOk s req site = true →
     ((List.range 4).all (fun n => ((s.mon site).pair n).st == 0) && (List.range 8).all (fun g => s.groupQuiet site g)) = true →
     (s.mon site).st ≠ 1 →
     (s.mon site).st ≠ 2 →
     s.reg (monPage site + 0x48) = s.reg (monPage site + 0x4C) →
       ∃ t, exec (.monCmdUnlock req site 1#32) s = .next t ∧
         (t.mon site).st = 1 ∧
         (t.mon site).from_ = (s.mon site).st ∧
         (t.mon site).pairs = (s.mon site).pairs ∧
         (t.mon site).committed = (s.mon site).committed ∧
         Only [.regs, .bar2, .out, .mons] s t) ∧
  (∀ (s : State) (req site : Nat),
     s.takes 0x3E req site 0x90 0x44 = true →
     twoStepOk s req site = false ∨ (((List.range 4).all (fun n => ((s.mon site).pair n).st == 0) && (List.range 8).all (fun g => s.groupQuiet site g))) = false →
       ∃ t, exec (.monCmdUnlock req site 1#32) s = .next t ∧
         t.reg (monPage site + 0x34) = BitVec.ofNat 32 (0x44 + 5 * 2 ^ 12 + req % 32 * 2 ^ 16) ∧
         Only [.regs, .bar2, .out] s t ∧
         RegsBut (rejRegs (monPage site)) s t) ∧
  (∀ (s : State) (req site : Nat),
     s.takes 0x3E req site 0x90 0x44 = true →
     twoStepOk s req site = true →
     ((List.range 4).all (fun n => ((s.mon site).pair n).st == 0) && (List.range 8).all (fun g => s.groupQuiet site g)) = true →
     (s.mon site).st ≠ 1 →
     (s.mon site).st ≠ 2 →
     s.reg (monPage site + 0x48) ≠ s.reg (monPage site + 0x4C) →
       ∃ t, exec (.monCmdUnlock req site 1#32) s = .next t ∧
         t.reg (monPage site + 0x34) = BitVec.ofNat 32 (0x44 + 3 * 2 ^ 12 + req % 32 * 2 ^ 16) ∧
         Only [.regs, .bar2, .out] s t ∧
         RegsBut (rejRegs (monPage site)) s t) ∧
  (∀ (s : State) (req site : Nat),
     let crc := BitVec.ofNat 32 (crc32 ((monRegion s site).flatMap (fun x => leBytes 4 x.toNat)))
     s.takes 0x3E req site 0x90 0x44 = true →
     twoStepOk s req site = true →
     (s.mon site).st = 1 →
     s.reg (monPage site + 0x48) = crc →
     ((List.range 16).all (fun e => entryOk s site (monRegion s site) e)) = true →
       ∃ t, exec (.monCmdCommit req site 2#32) s = .next t ∧
         (t.mon site).st = 2 ∧
         (t.mon site).committed = monRegion s site ∧
         (t.mon site).committedReset = s.reg (monPage site + 0x54) ∧
         t.reg (monPage site + 0x4C) = crc ∧
         (t.mon site).cfgValid = true ∧
         Only [.regs, .bar2, .out, .mons] s t) ∧
  (∀ (s : State) (req site : Nat),
     let crc := BitVec.ofNat 32 (crc32 ((monRegion s site).flatMap (fun x => leBytes 4 x.toNat)))
     s.takes 0x3E req site 0x90 0x44 = true →
     twoStepOk s req site = true →
     (s.mon site).st = 1 →
     s.reg (monPage site + 0x48) ≠ crc →
       ∃ t, exec (.monCmdCommit req site 2#32) s = .next t ∧
         t.reg (monPage site + 0x34) = BitVec.ofNat 32 (0x44 + 3 * 2 ^ 12 + req % 32 * 2 ^ 16) ∧
         (t.mon site).st = 1 ∧
         (t.mon site).committed = (s.mon site).committed ∧
         Only [.regs, .bar2, .out, .mons] s t) ∧
  (∀ (s : State) (req site : Nat) (e : Nat),
     let crc := BitVec.ofNat 32 (crc32 ((monRegion s site).flatMap (fun x => leBytes 4 x.toNat)))
     s.takes 0x3E req site 0x90 0x44 = true →
     twoStepOk s req site = true →
     (s.mon site).st = 1 →
     s.reg (monPage site + 0x48) = crc →
     ((List.range 16).find? (fun e => !entryOk s site (monRegion s site) e)) = some e →
       ∃ t, exec (.monCmdCommit req site 2#32) s = .next t ∧
         t.reg (monPage site + 0x34) = BitVec.ofNat 32 (0x44 + 3 * 2 ^ 12 + req % 32 * 2 ^ 16) ∧
         (t.mon site).st = 1 ∧
         (t.mon site).cfgErr = e ∧
         Only [.regs, .bar2, .out, .mons] s t) ∧
  (∀ (s : State) (req site : Nat),
     s.takes 0x3E req site 0x90 0x44 = true →
     (s.mon site).st ≠ 1 ∨ twoStepOk s req site = false →
       ∃ t, exec (.monCmdCommit req site 2#32) s = .next t ∧
         t.reg (monPage site + 0x34) = BitVec.ofNat 32 (0x44 + 5 * 2 ^ 12 + req % 32 * 2 ^ 16) ∧
         Only [.regs, .bar2, .out] s t ∧
         RegsBut (rejRegs (monPage site)) s t) ∧
  (∀ (s : State) (req site : Nat),
     s.takes 0x3E req site 0x90 0x44 = true →
     (s.mon site).st = 1 →
       ∃ t, exec (.monCmdAbortCfg req site 8#32) s = .next t ∧
         ((t.mon site).st = (if (s.mon site).from_ = 4 then 0 else (s.mon site).from_)) ∧
         (∀ i, i < 64 → t.reg (monPage site + 0x100 + 4 * i) = (s.mon site).committed.getD i 0#32) ∧
         t.reg (monPage site + 0x54) = (s.mon site).committedReset ∧
         (t.mon site).pairs = (s.mon site).pairs ∧
         Only [.regs, .bar2, .out, .mons] s t) ∧
  (∀ (s : State) (site : Nat),
     s.isField site = true →
     (s.mon site).st = 2 →
       ∃ t, exec (.selfTestDone site true) s = .next t ∧
         (t.mon site).st = 3 ∧
         (∀ n, n < 4 → ((t.mon site).pair n).st = 0 ∧ ((t.mon site).pair n).latched = true) ∧
         t.latched (monPage site) 6 = true ∧
         Only [.regs, .bar2, .out, .mons] s t) ∧
  (∀ (s : State) (site : Nat),
     s.isField site = true →
     (s.mon site).st = 2 →
       ∃ t, exec (.selfTestDone site false) s = .next t ∧
         (t.mon site).st = 4 ∧
         t.st (monPage site) = 5 ∧
         ((s.regFld (monPage site + 0x1C) 16 3 < 1 → t.regFld (monPage site + 0x1C) 0 16 = 0x105)) ∧
         (∀ n, n < 4 → ((t.mon site).pair n).st = 0 ∧ ((t.mon site).pair n).latched = true) ∧
         Only [.regs, .bar2, .out, .meters, .calibs, .mons, .ram, .hmem, .rings, .strms, .axes, .grps, .slotRings, .cueQs, .binFlags, .slates, .cancels, .dqs, .cores, .cmbs, .engs, .poison] s t) ∧
  (∀ (s : State) (site : Nat),
     s.isField site = true →
       ∃ t, exec (.diagInterval site none) s = .next t ∧
         t.reg (monPage site + 0x70) = s.reg (monPage site + 0x70) + 1#32 ∧
         Only [.regs] s t ∧
         RegsBut [monPage site + 0x70] s t) ∧
  (∀ (s : State) (site : Nat) (d : DiagFault),
     s.isField site = true →
     (s.mon site).st ≠ 4 →
       ∃ t, exec (.diagInterval site (some d)) s = .next t ∧
         (t.mon site).st = 4 ∧
         t.st (monPage site) = 5 ∧
         ((s.regFld (monPage site + 0x1C) 16 3 < 1 → t.regFld (monPage site + 0x1C) 0 16 = (match d with | .clock => 0x100 | .crc => 0x101 | .compare => 0x102 | .memory => 0x103 | .supply => 0x104))) ∧
         (∀ n, n < 4 → ((t.mon site).pair n).st = 0 ∧ ((t.mon site).pair n).latched = true) ∧
         (∀ a, a < 16 → t.st (axPage site a) = 7) ∧
         (∀ i, i < 8 → t.st (mtrPage site i) = 7 ∧ t.st (outPage site i) = 7) ∧
         t.latched (monPage site) 5 = true ∧
         Only [.regs, .bar2, .out, .meters, .calibs, .mons, .ram, .hmem, .rings, .strms, .axes, .grps, .slotRings, .cueQs, .binFlags, .slates, .cancels, .dqs, .cores, .cmbs, .engs, .poison] s t)
end

