-- ==== Sys2Proof/Laws/Sparse.lean ====
section
/-!
SUPPORT. Laws/Sparse.lean: reading after writing a sparse table, and that every table operation keeps the canonical form.
-/
namespace Sys2Proof.Machine

variable {β : Type}

theorem tabGet_tabDrop_same (d : β) (t : List (Nat × β)) (k : Nat) : tabGet d (tabDrop k t) k = d := by
  induction t with
  | nil => rfl
  | cons p t ih =>
    obtain ⟨a, b⟩ := p
    by_cases h : a = k
    · simp [tabDrop, h, ih]
    · simp [tabDrop, tabGet, h, ih]

theorem tabGet_tabDrop_ne (d : β) (t : List (Nat × β)) {k j : Nat} (hj : j ≠ k) : tabGet d (tabDrop k t) j = tabGet d t j := by
  induction t with
  | nil => rfl
  | cons p t ih =>
    obtain ⟨a, b⟩ := p
    by_cases h : a = k
    · subst h
      have : a ≠ j := fun e => hj e.symm
      simp [tabDrop, tabGet, ih, this]
    · simp [tabDrop, tabGet, h, ih]

theorem tabGet_tabIns_same (d : β) (t : List (Nat × β)) (k : Nat) (v : β) : tabGet d (tabIns k v t) k = v := by
  induction t with
  | nil => simp [tabIns, tabGet]
  | cons p t ih =>
    obtain ⟨a, b⟩ := p
    by_cases h : a < k
    · have : a ≠ k := Nat.ne_of_lt h
      simp [tabIns, tabGet, h, this, ih]
    · simp [tabIns, tabGet, h]

theorem tabGet_tabIns_ne (d : β) (t : List (Nat × β)) {k j : Nat} (v : β) (hj : j ≠ k) : tabGet d (tabIns k v t) j = tabGet d t j := by
  have hk : k ≠ j := fun e => hj e.symm
  induction t with
  | nil => simp [tabIns, tabGet, hk]
  | cons p t ih =>
    obtain ⟨a, b⟩ := p
    by_cases h : a < k
    · simp [tabIns, tabGet, h, ih]
    · simp [tabIns, tabGet, h, hk]

/-- A read after a write to the same key gives the value written. -/
theorem tabGet_tabPut_same [DecidableEq β] (d : β) (t : List (Nat × β)) (k : Nat) (v : β) : tabGet d (tabPut d t k v) k = v := by
  by_cases h : v = d
  · simp [tabPut, h, tabGet_tabDrop_same]
  · simp [tabPut, h, tabGet_tabIns_same]

/-- A write leaves every other key alone. -/
theorem tabGet_tabPut_ne [DecidableEq β] (e d : β) (t : List (Nat × β)) {k j : Nat} (v : β) (hj : j ≠ k) :
    tabGet e (tabPut d t k v) j = tabGet e t j := by
  by_cases h : v = d
  · simp [tabPut, h, tabGet_tabDrop_ne e t hj]
  · simp [tabPut, h, tabGet_tabIns_ne e _ v hj, tabGet_tabDrop_ne e t hj]

theorem tabRising_mono {lo hi : Nat} (t : List (Nat × β)) (hl : lo ≤ hi) (h : tabRising hi t = true) : tabRising lo t = true := by
  cases t with
  | nil => rfl
  | cons p t =>
    obtain ⟨a, b⟩ := p
    simp only [tabRising, Bool.and_eq_true, decide_eq_true_eq] at h ⊢
    exact ⟨Nat.le_trans hl h.1, h.2⟩

/-- Keeping some entries of a rising table leaves it rising. -/
theorem tabRising_filter (f : Nat × β → Bool) (t : List (Nat × β)) : ∀ lo, tabRising lo t = true → tabRising lo (t.filter f) = true := by
  induction t with
  | nil => intro lo _; rfl
  | cons p t ih =>
    obtain ⟨a, b⟩ := p
    intro lo h
    simp only [tabRising, Bool.and_eq_true, decide_eq_true_eq] at h
    by_cases hf : f (a, b) = true
    · simp only [List.filter_cons, hf, if_true, tabRising, Bool.and_eq_true, decide_eq_true_eq]
      exact ⟨h.1, ih _ h.2⟩
    · simp only [List.filter_cons, hf]
      exact tabRising_mono _ (Nat.le_succ_of_le h.1) (ih _ h.2)

theorem tabDrop_eq_filter (k : Nat) (t : List (Nat × β)) : tabDrop k t = t.filter (fun p => decide (p.1 ≠ k)) := by
  induction t with
  | nil => rfl
  | cons p t ih =>
    obtain ⟨a, b⟩ := p
    by_cases h : a = k <;> simp [tabDrop, h, ih]

theorem tabDropRange_eq_filter (lo n : Nat) (t : List (Nat × β)) :
    tabDropRange lo n t = t.filter (fun p => !(decide (lo ≤ p.1) && decide (p.1 < lo + n))) := by
  induction t with
  | nil => rfl
  | cons p t ih =>
    obtain ⟨a, b⟩ := p
    by_cases h : lo ≤ a ∧ a < lo + n
    · simp [tabDropRange, h, ih]
    · by_cases h1 : lo ≤ a
      · have h2 : ¬ a < lo + n := fun e => h ⟨h1, e⟩
        simp [tabDropRange, h1, h2, ih]
      · simp [tabDropRange, h1, ih]

theorem tabRising_tabIns (k : Nat) (v : β) (t : List (Nat × β)) : ∀ lo, lo ≤ k → tabRising lo t = true →
    (∀ p ∈ t, p.1 ≠ k) → tabRising lo (tabIns k v t) = true := by
  induction t with
  | nil => intro lo hlo _ _; simp [tabIns, tabRising, hlo]
  | cons p t ih =>
    obtain ⟨a, b⟩ := p
    intro lo hlo h hne
    simp only [tabRising, Bool.and_eq_true, decide_eq_true_eq] at h
    by_cases hk : a < k
    · simp only [tabIns, hk, if_true, tabRising, Bool.and_eq_true, decide_eq_true_eq]
      exact ⟨h.1, ih (a + 1) hk h.2 (fun p hp => hne p (List.mem_cons_of_mem _ hp))⟩
    · have hak : a ≠ k := hne (a, b) List.mem_cons_self
      have : k + 1 ≤ a := by omega
      simp [tabIns, hk, tabRising, hlo, this, h.2]

theorem tabIns_mem (k : Nat) (v : β) (t : List (Nat × β)) : ∀ p ∈ tabIns k v t, p = (k, v) ∨ p ∈ t := by
  induction t with
  | nil => intro p hp; simpa [tabIns] using hp
  | cons q t ih =>
    obtain ⟨a, b⟩ := q
    intro p hp
    by_cases h : a < k
    · simp only [tabIns, h, if_true, List.mem_cons] at hp
      rcases hp with hp | hp
      · exact .inr (by simp [hp])
      · rcases ih p hp with hq | hq
        · exact .inl hq
        · exact .inr (List.mem_cons_of_mem _ hq)
    · simp only [tabIns, h, if_false, List.mem_cons] at hp ⊢
      exact hp

theorem tabWf_filter [DecidableEq β] (d : Nat → β) (f : Nat × β → Bool) (t : List (Nat × β)) (h : tabWf d t = true) :
    tabWf d (t.filter f) = true := by
  simp only [tabWf, Bool.and_eq_true, List.all_eq_true] at h ⊢
  exact ⟨tabRising_filter f t 0 h.1, fun p hp => h.2 p ((List.mem_filter.mp hp).1)⟩

theorem tabWf_tabDrop [DecidableEq β] (d : Nat → β) (k : Nat) (t : List (Nat × β)) (h : tabWf d t = true) : tabWf d (tabDrop k t) = true := by
  rw [tabDrop_eq_filter]; exact tabWf_filter d _ t h

theorem tabWf_tabDropRange [DecidableEq β] (d : Nat → β) (lo n : Nat) (t : List (Nat × β)) (h : tabWf d t = true) :
    tabWf d (tabDropRange lo n t) = true := by
  rw [tabDropRange_eq_filter]; exact tabWf_filter d _ t h

/-- A write keeps the canonical form. -/
theorem tabWf_tabPut [DecidableEq β] (d : Nat → β) (t : List (Nat × β)) (k : Nat) (v : β) (h : tabWf d t = true) :
    tabWf d (tabPut (d k) t k v) = true := by
  have hd := tabWf_tabDrop d k t h
  by_cases hv : v = d k
  · simp only [tabPut, hv, if_true]; exact hd
  · simp only [tabPut, hv, if_false]
    simp only [tabWf, Bool.and_eq_true, List.all_eq_true, decide_eq_true_eq] at hd ⊢
    refine ⟨tabRising_tabIns k v _ 0 (Nat.zero_le _) hd.1 ?_, ?_⟩
    · intro p hp; rw [tabDrop_eq_filter] at hp; simpa using (List.mem_filter.mp hp).2
    · intro p hp
      rcases tabIns_mem k v _ p hp with rfl | hq
      · exact hv
      · exact hd.2 p hq

theorem tabWf_tabPutList [DecidableEq β] (d : β) (vs : List β) : ∀ (t : List (Nat × β)) (k : Nat), tabWf (fun _ => d) t = true →
    tabWf (fun _ => d) (tabPutList d t k vs) = true := by
  induction vs with
  | nil => intro t k h; exact h
  | cons v vs ih => intro t k h; exact ih _ _ (tabWf_tabPut (fun _ => d) t k v h)

end Sys2Proof.Machine
end

