-- ==== Sys2Proof/Laws/State.lean ====
section
/-!
SUPPORT. Laws/State.lean: reading State after each of its elementary updates: one lemma per field and update, and what a register or a
record table reads after a write to it.
-/
namespace Sys2Proof.Machine

@[simp] theorem State.setReg_asm (s : State) (a : Nat) (v : Word) : (s.setReg a v).asm = s.asm := rfl
@[simp] theorem State.setReg_lead (s : State) (a : Nat) (v : Word) : (s.setReg a v).lead = s.lead := rfl
@[simp] theorem State.setReg_latch (s : State) (a : Nat) (v : Word) : (s.setReg a v).latch = s.latch := rfl
@[simp] theorem State.setReg_rdata (s : State) (a : Nat) (v : Word) : (s.setReg a v).rdata = s.rdata := rfl
@[simp] theorem State.setReg_rdataHi (s : State) (a : Nat) (v : Word) : (s.setReg a v).rdataHi = s.rdataHi := rfl
@[simp] theorem State.setReg_back (s : State) (a : Nat) (v : Word) : (s.setReg a v).back = s.back := rfl
@[simp] theorem State.setReg_bar2 (s : State) (a : Nat) (v : Word) : (s.setReg a v).bar2 = s.bar2 := rfl
@[simp] theorem State.setReg_out (s : State) (a : Nat) (v : Word) : (s.setReg a v).out = s.out := rfl
@[simp] theorem State.setReg_now (s : State) (a : Nat) (v : Word) : (s.setReg a v).now = s.now := rfl
@[simp] theorem State.setReg_clapper (s : State) (a : Nat) (v : Word) : (s.setReg a v).clapper = s.clapper := rfl
@[simp] theorem State.setReg_clk (s : State) (a : Nat) (v : Word) : (s.setReg a v).clk = s.clk := rfl
@[simp] theorem State.setReg_sup (s : State) (a : Nat) (v : Word) : (s.setReg a v).sup = s.sup := rfl
@[simp] theorem State.setReg_fios (s : State) (a : Nat) (v : Word) : (s.setReg a v).fios = s.fios := rfl
@[simp] theorem State.setReg_ticks (s : State) (a : Nat) (v : Word) : (s.setReg a v).ticks = s.ticks := rfl
@[simp] theorem State.setReg_encs (s : State) (a : Nat) (v : Word) : (s.setReg a v).encs = s.encs := rfl
@[simp] theorem State.setReg_poss (s : State) (a : Nat) (v : Word) : (s.setReg a v).poss = s.poss := rfl
@[simp] theorem State.setReg_cevs (s : State) (a : Nat) (v : Word) : (s.setReg a v).cevs = s.cevs := rfl
@[simp] theorem State.setReg_segArms (s : State) (a : Nat) (v : Word) : (s.setReg a v).segArms = s.segArms := rfl
@[simp] theorem State.setReg_slots (s : State) (a : Nat) (v : Word) : (s.setReg a v).slots = s.slots := rfl
@[simp] theorem State.setReg_groups (s : State) (a : Nat) (v : Word) : (s.setReg a v).groups = s.groups := rfl
@[simp] theorem State.setReg_order (s : State) (a : Nat) (v : Word) : (s.setReg a v).order = s.order := rfl
@[simp] theorem State.setReg_meters (s : State) (a : Nat) (v : Word) : (s.setReg a v).meters = s.meters := rfl
@[simp] theorem State.setReg_calibs (s : State) (a : Nat) (v : Word) : (s.setReg a v).calibs = s.calibs := rfl
@[simp] theorem State.setReg_gaffer (s : State) (a : Nat) (v : Word) : (s.setReg a v).gaffer = s.gaffer := rfl
@[simp] theorem State.setReg_tenants (s : State) (a : Nat) (v : Word) : (s.setReg a v).tenants = s.tenants := rfl
@[simp] theorem State.setReg_sec (s : State) (a : Nat) (v : Word) : (s.setReg a v).sec = s.sec := rfl
@[simp] theorem State.setReg_ens (s : State) (a : Nat) (v : Word) : (s.setReg a v).ens = s.ens := rfl
@[simp] theorem State.setReg_ports (s : State) (a : Nat) (v : Word) : (s.setReg a v).ports = s.ports := rfl
@[simp] theorem State.setReg_mons (s : State) (a : Nat) (v : Word) : (s.setReg a v).mons = s.mons := rfl
@[simp] theorem State.setReg_boot (s : State) (a : Nat) (v : Word) : (s.setReg a v).boot = s.boot := rfl
@[simp] theorem State.setReg_ram (s : State) (a : Nat) (v : Word) : (s.setReg a v).ram = s.ram := rfl
@[simp] theorem State.setReg_hmem (s : State) (a : Nat) (v : Word) : (s.setReg a v).hmem = s.hmem := rfl
@[simp] theorem State.setReg_badCpl (s : State) (a : Nat) (v : Word) : (s.setReg a v).badCpl = s.badCpl := rfl
@[simp] theorem State.setReg_mute (s : State) (a : Nat) (v : Word) : (s.setReg a v).mute = s.mute := rfl
@[simp] theorem State.setReg_flash (s : State) (a : Nat) (v : Word) : (s.setReg a v).flash = s.flash := rfl
@[simp] theorem State.setReg_weak (s : State) (a : Nat) (v : Word) : (s.setReg a v).weak = s.weak := rfl
@[simp] theorem State.setReg_loads (s : State) (a : Nat) (v : Word) : (s.setReg a v).loads = s.loads := rfl
@[simp] theorem State.setReg_restarts (s : State) (a : Nat) (v : Word) : (s.setReg a v).restarts = s.restarts := rfl
@[simp] theorem State.setReg_rings (s : State) (a : Nat) (v : Word) : (s.setReg a v).rings = s.rings := rfl
@[simp] theorem State.setReg_strms (s : State) (a : Nat) (v : Word) : (s.setReg a v).strms = s.strms := rfl
@[simp] theorem State.setReg_gates (s : State) (a : Nat) (v : Word) : (s.setReg a v).gates = s.gates := rfl
@[simp] theorem State.setReg_axes (s : State) (a : Nat) (v : Word) : (s.setReg a v).axes = s.axes := rfl
@[simp] theorem State.setReg_grps (s : State) (a : Nat) (v : Word) : (s.setReg a v).grps = s.grps := rfl
@[simp] theorem State.setReg_slotRings (s : State) (a : Nat) (v : Word) : (s.setReg a v).slotRings = s.slotRings := rfl
@[simp] theorem State.setReg_cueQs (s : State) (a : Nat) (v : Word) : (s.setReg a v).cueQs = s.cueQs := rfl
@[simp] theorem State.setReg_binFlags (s : State) (a : Nat) (v : Word) : (s.setReg a v).binFlags = s.binFlags := rfl
@[simp] theorem State.setReg_slates (s : State) (a : Nat) (v : Word) : (s.setReg a v).slates = s.slates := rfl
@[simp] theorem State.setReg_gens (s : State) (a : Nat) (v : Word) : (s.setReg a v).gens = s.gens := rfl
@[simp] theorem State.setReg_cancels (s : State) (a : Nat) (v : Word) : (s.setReg a v).cancels = s.cancels := rfl
@[simp] theorem State.setReg_tqs (s : State) (a : Nat) (v : Word) : (s.setReg a v).tqs = s.tqs := rfl
@[simp] theorem State.setReg_sched (s : State) (a : Nat) (v : Word) : (s.setReg a v).sched = s.sched := rfl
@[simp] theorem State.setReg_dqs (s : State) (a : Nat) (v : Word) : (s.setReg a v).dqs = s.dqs := rfl
@[simp] theorem State.setReg_cores (s : State) (a : Nat) (v : Word) : (s.setReg a v).cores = s.cores := rfl
@[simp] theorem State.setReg_cmbs (s : State) (a : Nat) (v : Word) : (s.setReg a v).cmbs = s.cmbs := rfl
@[simp] theorem State.setReg_engs (s : State) (a : Nat) (v : Word) : (s.setReg a v).engs = s.engs := rfl
@[simp] theorem State.setReg_mmus (s : State) (a : Nat) (v : Word) : (s.setReg a v).mmus = s.mmus := rfl
@[simp] theorem State.setReg_grans (s : State) (a : Nat) (v : Word) : (s.setReg a v).grans = s.grans := rfl
@[simp] theorem State.setReg_granBusy (s : State) (a : Nat) (v : Word) : (s.setReg a v).granBusy = s.granBusy := rfl
@[simp] theorem State.setReg_poison (s : State) (a : Nat) (v : Word) : (s.setReg a v).poison = s.poison := rfl
@[simp] theorem State.setReg_buckets (s : State) (a : Nat) (v : Word) : (s.setReg a v).buckets = s.buckets := rfl
@[simp] theorem State.setReg_arbs (s : State) (a : Nat) (v : Word) : (s.setReg a v).arbs = s.arbs := rfl
@[simp] theorem State.setReg_capQs (s : State) (a : Nat) (v : Word) : (s.setReg a v).capQs = s.capQs := rfl
@[simp] theorem State.setReg_avs (s : State) (a : Nat) (v : Word) : (s.setReg a v).avs = s.avs := rfl
@[simp] theorem State.setReg_bndTaken (s : State) (a : Nat) (v : Word) : (s.setReg a v).bndTaken = s.bndTaken := rfl
@[simp] theorem State.setReg_ces (s : State) (a : Nat) (v : Word) : (s.setReg a v).ces = s.ces := rfl
@[simp] theorem State.setReg_scrubs (s : State) (a : Nat) (v : Word) : (s.setReg a v).scrubs = s.scrubs := rfl
@[simp] theorem State.setReg_free (s : State) (a : Nat) (v : Word) : (s.setReg a v).free = s.free := rfl
@[simp] theorem State.setReg_pending (s : State) (a : Nat) (v : Word) : (s.setReg a v).pending = s.pending := rfl
@[simp] theorem State.emit_asm (s : State) (o : Output) : (s.emit o).asm = s.asm := rfl
@[simp] theorem State.emit_lead (s : State) (o : Output) : (s.emit o).lead = s.lead := rfl
@[simp] theorem State.emit_regs (s : State) (o : Output) : (s.emit o).regs = s.regs := rfl
@[simp] theorem State.emit_latch (s : State) (o : Output) : (s.emit o).latch = s.latch := rfl
@[simp] theorem State.emit_rdata (s : State) (o : Output) : (s.emit o).rdata = s.rdata := rfl
@[simp] theorem State.emit_rdataHi (s : State) (o : Output) : (s.emit o).rdataHi = s.rdataHi := rfl
@[simp] theorem State.emit_back (s : State) (o : Output) : (s.emit o).back = s.back := rfl
@[simp] theorem State.emit_bar2 (s : State) (o : Output) : (s.emit o).bar2 = s.bar2 := rfl
@[simp] theorem State.emit_now (s : State) (o : Output) : (s.emit o).now = s.now := rfl
@[simp] theorem State.emit_clapper (s : State) (o : Output) : (s.emit o).clapper = s.clapper := rfl
@[simp] theorem State.emit_clk (s : State) (o : Output) : (s.emit o).clk = s.clk := rfl
@[simp] theorem State.emit_sup (s : State) (o : Output) : (s.emit o).sup = s.sup := rfl
@[simp] theorem State.emit_fios (s : State) (o : Output) : (s.emit o).fios = s.fios := rfl
@[simp] theorem State.emit_ticks (s : State) (o : Output) : (s.emit o).ticks = s.ticks := rfl
@[simp] theorem State.emit_encs (s : State) (o : Output) : (s.emit o).encs = s.encs := rfl
@[simp] theorem State.emit_poss (s : State) (o : Output) : (s.emit o).poss = s.poss := rfl
@[simp] theorem State.emit_cevs (s : State) (o : Output) : (s.emit o).cevs = s.cevs := rfl
@[simp] theorem State.emit_segArms (s : State) (o : Output) : (s.emit o).segArms = s.segArms := rfl
@[simp] theorem State.emit_slots (s : State) (o : Output) : (s.emit o).slots = s.slots := rfl
@[simp] theorem State.emit_groups (s : State) (o : Output) : (s.emit o).groups = s.groups := rfl
@[simp] theorem State.emit_order (s : State) (o : Output) : (s.emit o).order = s.order := rfl
@[simp] theorem State.emit_meters (s : State) (o : Output) : (s.emit o).meters = s.meters := rfl
@[simp] theorem State.emit_calibs (s : State) (o : Output) : (s.emit o).calibs = s.calibs := rfl
@[simp] theorem State.emit_gaffer (s : State) (o : Output) : (s.emit o).gaffer = s.gaffer := rfl
@[simp] theorem State.emit_tenants (s : State) (o : Output) : (s.emit o).tenants = s.tenants := rfl
@[simp] theorem State.emit_sec (s : State) (o : Output) : (s.emit o).sec = s.sec := rfl
@[simp] theorem State.emit_ens (s : State) (o : Output) : (s.emit o).ens = s.ens := rfl
@[simp] theorem State.emit_ports (s : State) (o : Output) : (s.emit o).ports = s.ports := rfl
@[simp] theorem State.emit_mons (s : State) (o : Output) : (s.emit o).mons = s.mons := rfl
@[simp] theorem State.emit_boot (s : State) (o : Output) : (s.emit o).boot = s.boot := rfl
@[simp] theorem State.emit_ram (s : State) (o : Output) : (s.emit o).ram = s.ram := rfl
@[simp] theorem State.emit_hmem (s : State) (o : Output) : (s.emit o).hmem = s.hmem := rfl
@[simp] theorem State.emit_badCpl (s : State) (o : Output) : (s.emit o).badCpl = s.badCpl := rfl
@[simp] theorem State.emit_mute (s : State) (o : Output) : (s.emit o).mute = s.mute := rfl
@[simp] theorem State.emit_flash (s : State) (o : Output) : (s.emit o).flash = s.flash := rfl
@[simp] theorem State.emit_weak (s : State) (o : Output) : (s.emit o).weak = s.weak := rfl
@[simp] theorem State.emit_loads (s : State) (o : Output) : (s.emit o).loads = s.loads := rfl
@[simp] theorem State.emit_restarts (s : State) (o : Output) : (s.emit o).restarts = s.restarts := rfl
@[simp] theorem State.emit_rings (s : State) (o : Output) : (s.emit o).rings = s.rings := rfl
@[simp] theorem State.emit_strms (s : State) (o : Output) : (s.emit o).strms = s.strms := rfl
@[simp] theorem State.emit_gates (s : State) (o : Output) : (s.emit o).gates = s.gates := rfl
@[simp] theorem State.emit_axes (s : State) (o : Output) : (s.emit o).axes = s.axes := rfl
@[simp] theorem State.emit_grps (s : State) (o : Output) : (s.emit o).grps = s.grps := rfl
@[simp] theorem State.emit_slotRings (s : State) (o : Output) : (s.emit o).slotRings = s.slotRings := rfl
@[simp] theorem State.emit_cueQs (s : State) (o : Output) : (s.emit o).cueQs = s.cueQs := rfl
@[simp] theorem State.emit_binFlags (s : State) (o : Output) : (s.emit o).binFlags = s.binFlags := rfl
@[simp] theorem State.emit_slates (s : State) (o : Output) : (s.emit o).slates = s.slates := rfl
@[simp] theorem State.emit_gens (s : State) (o : Output) : (s.emit o).gens = s.gens := rfl
@[simp] theorem State.emit_cancels (s : State) (o : Output) : (s.emit o).cancels = s.cancels := rfl
@[simp] theorem State.emit_tqs (s : State) (o : Output) : (s.emit o).tqs = s.tqs := rfl
@[simp] theorem State.emit_sched (s : State) (o : Output) : (s.emit o).sched = s.sched := rfl
@[simp] theorem State.emit_dqs (s : State) (o : Output) : (s.emit o).dqs = s.dqs := rfl
@[simp] theorem State.emit_cores (s : State) (o : Output) : (s.emit o).cores = s.cores := rfl
@[simp] theorem State.emit_cmbs (s : State) (o : Output) : (s.emit o).cmbs = s.cmbs := rfl
@[simp] theorem State.emit_engs (s : State) (o : Output) : (s.emit o).engs = s.engs := rfl
@[simp] theorem State.emit_mmus (s : State) (o : Output) : (s.emit o).mmus = s.mmus := rfl
@[simp] theorem State.emit_grans (s : State) (o : Output) : (s.emit o).grans = s.grans := rfl
@[simp] theorem State.emit_granBusy (s : State) (o : Output) : (s.emit o).granBusy = s.granBusy := rfl
@[simp] theorem State.emit_poison (s : State) (o : Output) : (s.emit o).poison = s.poison := rfl
@[simp] theorem State.emit_buckets (s : State) (o : Output) : (s.emit o).buckets = s.buckets := rfl
@[simp] theorem State.emit_arbs (s : State) (o : Output) : (s.emit o).arbs = s.arbs := rfl
@[simp] theorem State.emit_capQs (s : State) (o : Output) : (s.emit o).capQs = s.capQs := rfl
@[simp] theorem State.emit_avs (s : State) (o : Output) : (s.emit o).avs = s.avs := rfl
@[simp] theorem State.emit_bndTaken (s : State) (o : Output) : (s.emit o).bndTaken = s.bndTaken := rfl
@[simp] theorem State.emit_ces (s : State) (o : Output) : (s.emit o).ces = s.ces := rfl
@[simp] theorem State.emit_scrubs (s : State) (o : Output) : (s.emit o).scrubs = s.scrubs := rfl
@[simp] theorem State.emit_free (s : State) (o : Output) : (s.emit o).free = s.free := rfl
@[simp] theorem State.emit_pending (s : State) (o : Output) : (s.emit o).pending = s.pending := rfl
@[simp] theorem State.emit_reg (s : State) (o : Output) (a_ : Nat) : (s.emit o).reg a_ = s.reg a_ := rfl
@[simp] theorem State.setBar2_asm (s : State) (k : Nat) (v : Word) : (s.setBar2 k v).asm = s.asm := rfl
@[simp] theorem State.setBar2_lead (s : State) (k : Nat) (v : Word) : (s.setBar2 k v).lead = s.lead := rfl
@[simp] theorem State.setBar2_regs (s : State) (k : Nat) (v : Word) : (s.setBar2 k v).regs = s.regs := rfl
@[simp] theorem State.setBar2_latch (s : State) (k : Nat) (v : Word) : (s.setBar2 k v).latch = s.latch := rfl
@[simp] theorem State.setBar2_rdata (s : State) (k : Nat) (v : Word) : (s.setBar2 k v).rdata = s.rdata := rfl
@[simp] theorem State.setBar2_rdataHi (s : State) (k : Nat) (v : Word) : (s.setBar2 k v).rdataHi = s.rdataHi := rfl
@[simp] theorem State.setBar2_back (s : State) (k : Nat) (v : Word) : (s.setBar2 k v).back = s.back := rfl
@[simp] theorem State.setBar2_now (s : State) (k : Nat) (v : Word) : (s.setBar2 k v).now = s.now := rfl
@[simp] theorem State.setBar2_clapper (s : State) (k : Nat) (v : Word) : (s.setBar2 k v).clapper = s.clapper := rfl
@[simp] theorem State.setBar2_clk (s : State) (k : Nat) (v : Word) : (s.setBar2 k v).clk = s.clk := rfl
@[simp] theorem State.setBar2_sup (s : State) (k : Nat) (v : Word) : (s.setBar2 k v).sup = s.sup := rfl
@[simp] theorem State.setBar2_fios (s : State) (k : Nat) (v : Word) : (s.setBar2 k v).fios = s.fios := rfl
@[simp] theorem State.setBar2_ticks (s : State) (k : Nat) (v : Word) : (s.setBar2 k v).ticks = s.ticks := rfl
@[simp] theorem State.setBar2_encs (s : State) (k : Nat) (v : Word) : (s.setBar2 k v).encs = s.encs := rfl
@[simp] theorem State.setBar2_poss (s : State) (k : Nat) (v : Word) : (s.setBar2 k v).poss = s.poss := rfl
@[simp] theorem State.setBar2_cevs (s : State) (k : Nat) (v : Word) : (s.setBar2 k v).cevs = s.cevs := rfl
@[simp] theorem State.setBar2_segArms (s : State) (k : Nat) (v : Word) : (s.setBar2 k v).segArms = s.segArms := rfl
@[simp] theorem State.setBar2_slots (s : State) (k : Nat) (v : Word) : (s.setBar2 k v).slots = s.slots := rfl
@[simp] theorem State.setBar2_groups (s : State) (k : Nat) (v : Word) : (s.setBar2 k v).groups = s.groups := rfl
@[simp] theorem State.setBar2_order (s : State) (k : Nat) (v : Word) : (s.setBar2 k v).order = s.order := rfl
@[simp] theorem State.setBar2_meters (s : State) (k : Nat) (v : Word) : (s.setBar2 k v).meters = s.meters := rfl
@[simp] theorem State.setBar2_calibs (s : State) (k : Nat) (v : Word) : (s.setBar2 k v).calibs = s.calibs := rfl
@[simp] theorem State.setBar2_gaffer (s : State) (k : Nat) (v : Word) : (s.setBar2 k v).gaffer = s.gaffer := rfl
@[simp] theorem State.setBar2_tenants (s : State) (k : Nat) (v : Word) : (s.setBar2 k v).tenants = s.tenants := rfl
@[simp] theorem State.setBar2_sec (s : State) (k : Nat) (v : Word) : (s.setBar2 k v).sec = s.sec := rfl
@[simp] theorem State.setBar2_ens (s : State) (k : Nat) (v : Word) : (s.setBar2 k v).ens = s.ens := rfl
@[simp] theorem State.setBar2_ports (s : State) (k : Nat) (v : Word) : (s.setBar2 k v).ports = s.ports := rfl
@[simp] theorem State.setBar2_mons (s : State) (k : Nat) (v : Word) : (s.setBar2 k v).mons = s.mons := rfl
@[simp] theorem State.setBar2_boot (s : State) (k : Nat) (v : Word) : (s.setBar2 k v).boot = s.boot := rfl
@[simp] theorem State.setBar2_ram (s : State) (k : Nat) (v : Word) : (s.setBar2 k v).ram = s.ram := rfl
@[simp] theorem State.setBar2_hmem (s : State) (k : Nat) (v : Word) : (s.setBar2 k v).hmem = s.hmem := rfl
@[simp] theorem State.setBar2_badCpl (s : State) (k : Nat) (v : Word) : (s.setBar2 k v).badCpl = s.badCpl := rfl
@[simp] theorem State.setBar2_mute (s : State) (k : Nat) (v : Word) : (s.setBar2 k v).mute = s.mute := rfl
@[simp] theorem State.setBar2_flash (s : State) (k : Nat) (v : Word) : (s.setBar2 k v).flash = s.flash := rfl
@[simp] theorem State.setBar2_weak (s : State) (k : Nat) (v : Word) : (s.setBar2 k v).weak = s.weak := rfl
@[simp] theorem State.setBar2_loads (s : State) (k : Nat) (v : Word) : (s.setBar2 k v).loads = s.loads := rfl
@[simp] theorem State.setBar2_restarts (s : State) (k : Nat) (v : Word) : (s.setBar2 k v).restarts = s.restarts := rfl
@[simp] theorem State.setBar2_rings (s : State) (k : Nat) (v : Word) : (s.setBar2 k v).rings = s.rings := rfl
@[simp] theorem State.setBar2_strms (s : State) (k : Nat) (v : Word) : (s.setBar2 k v).strms = s.strms := rfl
@[simp] theorem State.setBar2_gates (s : State) (k : Nat) (v : Word) : (s.setBar2 k v).gates = s.gates := rfl
@[simp] theorem State.setBar2_axes (s : State) (k : Nat) (v : Word) : (s.setBar2 k v).axes = s.axes := rfl
@[simp] theorem State.setBar2_grps (s : State) (k : Nat) (v : Word) : (s.setBar2 k v).grps = s.grps := rfl
@[simp] theorem State.setBar2_slotRings (s : State) (k : Nat) (v : Word) : (s.setBar2 k v).slotRings = s.slotRings := rfl
@[simp] theorem State.setBar2_cueQs (s : State) (k : Nat) (v : Word) : (s.setBar2 k v).cueQs = s.cueQs := rfl
@[simp] theorem State.setBar2_binFlags (s : State) (k : Nat) (v : Word) : (s.setBar2 k v).binFlags = s.binFlags := rfl
@[simp] theorem State.setBar2_slates (s : State) (k : Nat) (v : Word) : (s.setBar2 k v).slates = s.slates := rfl
@[simp] theorem State.setBar2_gens (s : State) (k : Nat) (v : Word) : (s.setBar2 k v).gens = s.gens := rfl
@[simp] theorem State.setBar2_cancels (s : State) (k : Nat) (v : Word) : (s.setBar2 k v).cancels = s.cancels := rfl
@[simp] theorem State.setBar2_tqs (s : State) (k : Nat) (v : Word) : (s.setBar2 k v).tqs = s.tqs := rfl
@[simp] theorem State.setBar2_sched (s : State) (k : Nat) (v : Word) : (s.setBar2 k v).sched = s.sched := rfl
@[simp] theorem State.setBar2_dqs (s : State) (k : Nat) (v : Word) : (s.setBar2 k v).dqs = s.dqs := rfl
@[simp] theorem State.setBar2_cores (s : State) (k : Nat) (v : Word) : (s.setBar2 k v).cores = s.cores := rfl
@[simp] theorem State.setBar2_cmbs (s : State) (k : Nat) (v : Word) : (s.setBar2 k v).cmbs = s.cmbs := rfl
@[simp] theorem State.setBar2_engs (s : State) (k : Nat) (v : Word) : (s.setBar2 k v).engs = s.engs := rfl
@[simp] theorem State.setBar2_mmus (s : State) (k : Nat) (v : Word) : (s.setBar2 k v).mmus = s.mmus := rfl
@[simp] theorem State.setBar2_grans (s : State) (k : Nat) (v : Word) : (s.setBar2 k v).grans = s.grans := rfl
@[simp] theorem State.setBar2_granBusy (s : State) (k : Nat) (v : Word) : (s.setBar2 k v).granBusy = s.granBusy := rfl
@[simp] theorem State.setBar2_poison (s : State) (k : Nat) (v : Word) : (s.setBar2 k v).poison = s.poison := rfl
@[simp] theorem State.setBar2_buckets (s : State) (k : Nat) (v : Word) : (s.setBar2 k v).buckets = s.buckets := rfl
@[simp] theorem State.setBar2_arbs (s : State) (k : Nat) (v : Word) : (s.setBar2 k v).arbs = s.arbs := rfl
@[simp] theorem State.setBar2_capQs (s : State) (k : Nat) (v : Word) : (s.setBar2 k v).capQs = s.capQs := rfl
@[simp] theorem State.setBar2_avs (s : State) (k : Nat) (v : Word) : (s.setBar2 k v).avs = s.avs := rfl
@[simp] theorem State.setBar2_bndTaken (s : State) (k : Nat) (v : Word) : (s.setBar2 k v).bndTaken = s.bndTaken := rfl
@[simp] theorem State.setBar2_ces (s : State) (k : Nat) (v : Word) : (s.setBar2 k v).ces = s.ces := rfl
@[simp] theorem State.setBar2_scrubs (s : State) (k : Nat) (v : Word) : (s.setBar2 k v).scrubs = s.scrubs := rfl
@[simp] theorem State.setBar2_free (s : State) (k : Nat) (v : Word) : (s.setBar2 k v).free = s.free := rfl
@[simp] theorem State.setBar2_pending (s : State) (k : Nat) (v : Word) : (s.setBar2 k v).pending = s.pending := rfl
@[simp] theorem State.setBar2_reg (s : State) (k : Nat) (v : Word) (a_ : Nat) : (s.setBar2 k v).reg a_ = s.reg a_ := rfl
@[simp] theorem State.setBar2_out (s : State) (k : Nat) (v : Word) : (s.setBar2 k v).out = s.out := rfl
@[simp] theorem State.draw_asm (s : State) : (s.draw).asm = s.asm := rfl
@[simp] theorem State.draw_lead (s : State) : (s.draw).lead = s.lead := rfl
@[simp] theorem State.draw_regs (s : State) : (s.draw).regs = s.regs := rfl
@[simp] theorem State.draw_latch (s : State) : (s.draw).latch = s.latch := rfl
@[simp] theorem State.draw_rdata (s : State) : (s.draw).rdata = s.rdata := rfl
@[simp] theorem State.draw_rdataHi (s : State) : (s.draw).rdataHi = s.rdataHi := rfl
@[simp] theorem State.draw_back (s : State) : (s.draw).back = s.back := rfl
@[simp] theorem State.draw_bar2 (s : State) : (s.draw).bar2 = s.bar2 := rfl
@[simp] theorem State.draw_out (s : State) : (s.draw).out = s.out := rfl
@[simp] theorem State.draw_now (s : State) : (s.draw).now = s.now := rfl
@[simp] theorem State.draw_clapper (s : State) : (s.draw).clapper = s.clapper := rfl
@[simp] theorem State.draw_clk (s : State) : (s.draw).clk = s.clk := rfl
@[simp] theorem State.draw_sup (s : State) : (s.draw).sup = s.sup := rfl
@[simp] theorem State.draw_fios (s : State) : (s.draw).fios = s.fios := rfl
@[simp] theorem State.draw_ticks (s : State) : (s.draw).ticks = s.ticks := rfl
@[simp] theorem State.draw_encs (s : State) : (s.draw).encs = s.encs := rfl
@[simp] theorem State.draw_poss (s : State) : (s.draw).poss = s.poss := rfl
@[simp] theorem State.draw_cevs (s : State) : (s.draw).cevs = s.cevs := rfl
@[simp] theorem State.draw_segArms (s : State) : (s.draw).segArms = s.segArms := rfl
@[simp] theorem State.draw_slots (s : State) : (s.draw).slots = s.slots := rfl
@[simp] theorem State.draw_groups (s : State) : (s.draw).groups = s.groups := rfl
@[simp] theorem State.draw_order (s : State) : (s.draw).order = s.order := rfl
@[simp] theorem State.draw_meters (s : State) : (s.draw).meters = s.meters := rfl
@[simp] theorem State.draw_calibs (s : State) : (s.draw).calibs = s.calibs := rfl
@[simp] theorem State.draw_gaffer (s : State) : (s.draw).gaffer = s.gaffer := rfl
@[simp] theorem State.draw_tenants (s : State) : (s.draw).tenants = s.tenants := rfl
@[simp] theorem State.draw_sec (s : State) : (s.draw).sec = s.sec := rfl
@[simp] theorem State.draw_ens (s : State) : (s.draw).ens = s.ens := rfl
@[simp] theorem State.draw_ports (s : State) : (s.draw).ports = s.ports := rfl
@[simp] theorem State.draw_mons (s : State) : (s.draw).mons = s.mons := rfl
@[simp] theorem State.draw_boot (s : State) : (s.draw).boot = s.boot := rfl
@[simp] theorem State.draw_ram (s : State) : (s.draw).ram = s.ram := rfl
@[simp] theorem State.draw_hmem (s : State) : (s.draw).hmem = s.hmem := rfl
@[simp] theorem State.draw_badCpl (s : State) : (s.draw).badCpl = s.badCpl := rfl
@[simp] theorem State.draw_mute (s : State) : (s.draw).mute = s.mute := rfl
@[simp] theorem State.draw_flash (s : State) : (s.draw).flash = s.flash := rfl
@[simp] theorem State.draw_weak (s : State) : (s.draw).weak = s.weak := rfl
@[simp] theorem State.draw_loads (s : State) : (s.draw).loads = s.loads := rfl
@[simp] theorem State.draw_restarts (s : State) : (s.draw).restarts = s.restarts := rfl
@[simp] theorem State.draw_rings (s : State) : (s.draw).rings = s.rings := rfl
@[simp] theorem State.draw_strms (s : State) : (s.draw).strms = s.strms := rfl
@[simp] theorem State.draw_gates (s : State) : (s.draw).gates = s.gates := rfl
@[simp] theorem State.draw_axes (s : State) : (s.draw).axes = s.axes := rfl
@[simp] theorem State.draw_grps (s : State) : (s.draw).grps = s.grps := rfl
@[simp] theorem State.draw_slotRings (s : State) : (s.draw).slotRings = s.slotRings := rfl
@[simp] theorem State.draw_cueQs (s : State) : (s.draw).cueQs = s.cueQs := rfl
@[simp] theorem State.draw_binFlags (s : State) : (s.draw).binFlags = s.binFlags := rfl
@[simp] theorem State.draw_slates (s : State) : (s.draw).slates = s.slates := rfl
@[simp] theorem State.draw_gens (s : State) : (s.draw).gens = s.gens := rfl
@[simp] theorem State.draw_cancels (s : State) : (s.draw).cancels = s.cancels := rfl
@[simp] theorem State.draw_tqs (s : State) : (s.draw).tqs = s.tqs := rfl
@[simp] theorem State.draw_sched (s : State) : (s.draw).sched = s.sched := rfl
@[simp] theorem State.draw_dqs (s : State) : (s.draw).dqs = s.dqs := rfl
@[simp] theorem State.draw_cores (s : State) : (s.draw).cores = s.cores := rfl
@[simp] theorem State.draw_cmbs (s : State) : (s.draw).cmbs = s.cmbs := rfl
@[simp] theorem State.draw_engs (s : State) : (s.draw).engs = s.engs := rfl
@[simp] theorem State.draw_mmus (s : State) : (s.draw).mmus = s.mmus := rfl
@[simp] theorem State.draw_grans (s : State) : (s.draw).grans = s.grans := rfl
@[simp] theorem State.draw_granBusy (s : State) : (s.draw).granBusy = s.granBusy := rfl
@[simp] theorem State.draw_poison (s : State) : (s.draw).poison = s.poison := rfl
@[simp] theorem State.draw_buckets (s : State) : (s.draw).buckets = s.buckets := rfl
@[simp] theorem State.draw_arbs (s : State) : (s.draw).arbs = s.arbs := rfl
@[simp] theorem State.draw_capQs (s : State) : (s.draw).capQs = s.capQs := rfl
@[simp] theorem State.draw_avs (s : State) : (s.draw).avs = s.avs := rfl
@[simp] theorem State.draw_bndTaken (s : State) : (s.draw).bndTaken = s.bndTaken := rfl
@[simp] theorem State.draw_ces (s : State) : (s.draw).ces = s.ces := rfl
@[simp] theorem State.draw_scrubs (s : State) : (s.draw).scrubs = s.scrubs := rfl
@[simp] theorem State.draw_pending (s : State) : (s.draw).pending = s.pending := rfl
@[simp] theorem State.draw_reg (s : State) (a_ : Nat) : (s.draw).reg a_ = s.reg a_ := rfl
@[simp] theorem State.setPos_asm (s : State) (site g : Nat) (x : Pos) : (s.setPos site g x).asm = s.asm := rfl
@[simp] theorem State.setPos_lead (s : State) (site g : Nat) (x : Pos) : (s.setPos site g x).lead = s.lead := rfl
@[simp] theorem State.setPos_regs (s : State) (site g : Nat) (x : Pos) : (s.setPos site g x).regs = s.regs := rfl
@[simp] theorem State.setPos_latch (s : State) (site g : Nat) (x : Pos) : (s.setPos site g x).latch = s.latch := rfl
@[simp] theorem State.setPos_rdata (s : State) (site g : Nat) (x : Pos) : (s.setPos site g x).rdata = s.rdata := rfl
@[simp] theorem State.setPos_rdataHi (s : State) (site g : Nat) (x : Pos) : (s.setPos site g x).rdataHi = s.rdataHi := rfl
@[simp] theorem State.setPos_back (s : State) (site g : Nat) (x : Pos) : (s.setPos site g x).back = s.back := rfl
@[simp] theorem State.setPos_bar2 (s : State) (site g : Nat) (x : Pos) : (s.setPos site g x).bar2 = s.bar2 := rfl
@[simp] theorem State.setPos_out (s : State) (site g : Nat) (x : Pos) : (s.setPos site g x).out = s.out := rfl
@[simp] theorem State.setPos_now (s : State) (site g : Nat) (x : Pos) : (s.setPos site g x).now = s.now := rfl
@[simp] theorem State.setPos_clapper (s : State) (site g : Nat) (x : Pos) : (s.setPos site g x).clapper = s.clapper := rfl
@[simp] theorem State.setPos_clk (s : State) (site g : Nat) (x : Pos) : (s.setPos site g x).clk = s.clk := rfl
@[simp] theorem State.setPos_sup (s : State) (site g : Nat) (x : Pos) : (s.setPos site g x).sup = s.sup := rfl
@[simp] theorem State.setPos_fios (s : State) (site g : Nat) (x : Pos) : (s.setPos site g x).fios = s.fios := rfl
@[simp] theorem State.setPos_ticks (s : State) (site g : Nat) (x : Pos) : (s.setPos site g x).ticks = s.ticks := rfl
@[simp] theorem State.setPos_encs (s : State) (site g : Nat) (x : Pos) : (s.setPos site g x).encs = s.encs := rfl
@[simp] theorem State.setPos_cevs (s : State) (site g : Nat) (x : Pos) : (s.setPos site g x).cevs = s.cevs := rfl
@[simp] theorem State.setPos_segArms (s : State) (site g : Nat) (x : Pos) : (s.setPos site g x).segArms = s.segArms := rfl
@[simp] theorem State.setPos_slots (s : State) (site g : Nat) (x : Pos) : (s.setPos site g x).slots = s.slots := rfl
@[simp] theorem State.setPos_groups (s : State) (site g : Nat) (x : Pos) : (s.setPos site g x).groups = s.groups := rfl
@[simp] theorem State.setPos_order (s : State) (site g : Nat) (x : Pos) : (s.setPos site g x).order = s.order := rfl
@[simp] theorem State.setPos_meters (s : State) (site g : Nat) (x : Pos) : (s.setPos site g x).meters = s.meters := rfl
@[simp] theorem State.setPos_calibs (s : State) (site g : Nat) (x : Pos) : (s.setPos site g x).calibs = s.calibs := rfl
@[simp] theorem State.setPos_gaffer (s : State) (site g : Nat) (x : Pos) : (s.setPos site g x).gaffer = s.gaffer := rfl
@[simp] theorem State.setPos_tenants (s : State) (site g : Nat) (x : Pos) : (s.setPos site g x).tenants = s.tenants := rfl
@[simp] theorem State.setPos_sec (s : State) (site g : Nat) (x : Pos) : (s.setPos site g x).sec = s.sec := rfl
@[simp] theorem State.setPos_ens (s : State) (site g : Nat) (x : Pos) : (s.setPos site g x).ens = s.ens := rfl
@[simp] theorem State.setPos_ports (s : State) (site g : Nat) (x : Pos) : (s.setPos site g x).ports = s.ports := rfl
@[simp] theorem State.setPos_mons (s : State) (site g : Nat) (x : Pos) : (s.setPos site g x).mons = s.mons := rfl
@[simp] theorem State.setPos_boot (s : State) (site g : Nat) (x : Pos) : (s.setPos site g x).boot = s.boot := rfl
@[simp] theorem State.setPos_ram (s : State) (site g : Nat) (x : Pos) : (s.setPos site g x).ram = s.ram := rfl
@[simp] theorem State.setPos_hmem (s : State) (site g : Nat) (x : Pos) : (s.setPos site g x).hmem = s.hmem := rfl
@[simp] theorem State.setPos_badCpl (s : State) (site g : Nat) (x : Pos) : (s.setPos site g x).badCpl = s.badCpl := rfl
@[simp] theorem State.setPos_mute (s : State) (site g : Nat) (x : Pos) : (s.setPos site g x).mute = s.mute := rfl
@[simp] theorem State.setPos_flash (s : State) (site g : Nat) (x : Pos) : (s.setPos site g x).flash = s.flash := rfl
@[simp] theorem State.setPos_weak (s : State) (site g : Nat) (x : Pos) : (s.setPos site g x).weak = s.weak := rfl
@[simp] theorem State.setPos_loads (s : State) (site g : Nat) (x : Pos) : (s.setPos site g x).loads = s.loads := rfl
@[simp] theorem State.setPos_restarts (s : State) (site g : Nat) (x : Pos) : (s.setPos site g x).restarts = s.restarts := rfl
@[simp] theorem State.setPos_rings (s : State) (site g : Nat) (x : Pos) : (s.setPos site g x).rings = s.rings := rfl
@[simp] theorem State.setPos_strms (s : State) (site g : Nat) (x : Pos) : (s.setPos site g x).strms = s.strms := rfl
@[simp] theorem State.setPos_gates (s : State) (site g : Nat) (x : Pos) : (s.setPos site g x).gates = s.gates := rfl
@[simp] theorem State.setPos_axes (s : State) (site g : Nat) (x : Pos) : (s.setPos site g x).axes = s.axes := rfl
@[simp] theorem State.setPos_grps (s : State) (site g : Nat) (x : Pos) : (s.setPos site g x).grps = s.grps := rfl
@[simp] theorem State.setPos_slotRings (s : State) (site g : Nat) (x : Pos) : (s.setPos site g x).slotRings = s.slotRings := rfl
@[simp] theorem State.setPos_cueQs (s : State) (site g : Nat) (x : Pos) : (s.setPos site g x).cueQs = s.cueQs := rfl
@[simp] theorem State.setPos_binFlags (s : State) (site g : Nat) (x : Pos) : (s.setPos site g x).binFlags = s.binFlags := rfl
@[simp] theorem State.setPos_slates (s : State) (site g : Nat) (x : Pos) : (s.setPos site g x).slates = s.slates := rfl
@[simp] theorem State.setPos_gens (s : State) (site g : Nat) (x : Pos) : (s.setPos site g x).gens = s.gens := rfl
@[simp] theorem State.setPos_cancels (s : State) (site g : Nat) (x : Pos) : (s.setPos site g x).cancels = s.cancels := rfl
@[simp] theorem State.setPos_tqs (s : State) (site g : Nat) (x : Pos) : (s.setPos site g x).tqs = s.tqs := rfl
@[simp] theorem State.setPos_sched (s : State) (site g : Nat) (x : Pos) : (s.setPos site g x).sched = s.sched := rfl
@[simp] theorem State.setPos_dqs (s : State) (site g : Nat) (x : Pos) : (s.setPos site g x).dqs = s.dqs := rfl
@[simp] theorem State.setPos_cores (s : State) (site g : Nat) (x : Pos) : (s.setPos site g x).cores = s.cores := rfl
@[simp] theorem State.setPos_cmbs (s : State) (site g : Nat) (x : Pos) : (s.setPos site g x).cmbs = s.cmbs := rfl
@[simp] theorem State.setPos_engs (s : State) (site g : Nat) (x : Pos) : (s.setPos site g x).engs = s.engs := rfl
@[simp] theorem State.setPos_mmus (s : State) (site g : Nat) (x : Pos) : (s.setPos site g x).mmus = s.mmus := rfl
@[simp] theorem State.setPos_grans (s : State) (site g : Nat) (x : Pos) : (s.setPos site g x).grans = s.grans := rfl
@[simp] theorem State.setPos_granBusy (s : State) (site g : Nat) (x : Pos) : (s.setPos site g x).granBusy = s.granBusy := rfl
@[simp] theorem State.setPos_poison (s : State) (site g : Nat) (x : Pos) : (s.setPos site g x).poison = s.poison := rfl
@[simp] theorem State.setPos_buckets (s : State) (site g : Nat) (x : Pos) : (s.setPos site g x).buckets = s.buckets := rfl
@[simp] theorem State.setPos_arbs (s : State) (site g : Nat) (x : Pos) : (s.setPos site g x).arbs = s.arbs := rfl
@[simp] theorem State.setPos_capQs (s : State) (site g : Nat) (x : Pos) : (s.setPos site g x).capQs = s.capQs := rfl
@[simp] theorem State.setPos_avs (s : State) (site g : Nat) (x : Pos) : (s.setPos site g x).avs = s.avs := rfl
@[simp] theorem State.setPos_bndTaken (s : State) (site g : Nat) (x : Pos) : (s.setPos site g x).bndTaken = s.bndTaken := rfl
@[simp] theorem State.setPos_ces (s : State) (site g : Nat) (x : Pos) : (s.setPos site g x).ces = s.ces := rfl
@[simp] theorem State.setPos_scrubs (s : State) (site g : Nat) (x : Pos) : (s.setPos site g x).scrubs = s.scrubs := rfl
@[simp] theorem State.setPos_free (s : State) (site g : Nat) (x : Pos) : (s.setPos site g x).free = s.free := rfl
@[simp] theorem State.setPos_pending (s : State) (site g : Nat) (x : Pos) : (s.setPos site g x).pending = s.pending := rfl
@[simp] theorem State.setPos_reg (s : State) (site g : Nat) (x : Pos) (a_ : Nat) : (s.setPos site g x).reg a_ = s.reg a_ := rfl
@[simp] theorem State.setMeter_asm (s : State) (site m : Nat) (x : Meter) : (s.setMeter site m x).asm = s.asm := rfl
@[simp] theorem State.setMeter_lead (s : State) (site m : Nat) (x : Meter) : (s.setMeter site m x).lead = s.lead := rfl
@[simp] theorem State.setMeter_regs (s : State) (site m : Nat) (x : Meter) : (s.setMeter site m x).regs = s.regs := rfl
@[simp] theorem State.setMeter_latch (s : State) (site m : Nat) (x : Meter) : (s.setMeter site m x).latch = s.latch := rfl
@[simp] theorem State.setMeter_rdata (s : State) (site m : Nat) (x : Meter) : (s.setMeter site m x).rdata = s.rdata := rfl
@[simp] theorem State.setMeter_rdataHi (s : State) (site m : Nat) (x : Meter) : (s.setMeter site m x).rdataHi = s.rdataHi := rfl
@[simp] theorem State.setMeter_back (s : State) (site m : Nat) (x : Meter) : (s.setMeter site m x).back = s.back := rfl
@[simp] theorem State.setMeter_bar2 (s : State) (site m : Nat) (x : Meter) : (s.setMeter site m x).bar2 = s.bar2 := rfl
@[simp] theorem State.setMeter_out (s : State) (site m : Nat) (x : Meter) : (s.setMeter site m x).out = s.out := rfl
@[simp] theorem State.setMeter_now (s : State) (site m : Nat) (x : Meter) : (s.setMeter site m x).now = s.now := rfl
@[simp] theorem State.setMeter_clapper (s : State) (site m : Nat) (x : Meter) : (s.setMeter site m x).clapper = s.clapper := rfl
@[simp] theorem State.setMeter_clk (s : State) (site m : Nat) (x : Meter) : (s.setMeter site m x).clk = s.clk := rfl
@[simp] theorem State.setMeter_sup (s : State) (site m : Nat) (x : Meter) : (s.setMeter site m x).sup = s.sup := rfl
@[simp] theorem State.setMeter_fios (s : State) (site m : Nat) (x : Meter) : (s.setMeter site m x).fios = s.fios := rfl
@[simp] theorem State.setMeter_ticks (s : State) (site m : Nat) (x : Meter) : (s.setMeter site m x).ticks = s.ticks := rfl
@[simp] theorem State.setMeter_encs (s : State) (site m : Nat) (x : Meter) : (s.setMeter site m x).encs = s.encs := rfl
@[simp] theorem State.setMeter_poss (s : State) (site m : Nat) (x : Meter) : (s.setMeter site m x).poss = s.poss := rfl
@[simp] theorem State.setMeter_cevs (s : State) (site m : Nat) (x : Meter) : (s.setMeter site m x).cevs = s.cevs := rfl
@[simp] theorem State.setMeter_segArms (s : State) (site m : Nat) (x : Meter) : (s.setMeter site m x).segArms = s.segArms := rfl
@[simp] theorem State.setMeter_slots (s : State) (site m : Nat) (x : Meter) : (s.setMeter site m x).slots = s.slots := rfl
@[simp] theorem State.setMeter_groups (s : State) (site m : Nat) (x : Meter) : (s.setMeter site m x).groups = s.groups := rfl
@[simp] theorem State.setMeter_order (s : State) (site m : Nat) (x : Meter) : (s.setMeter site m x).order = s.order := rfl
@[simp] theorem State.setMeter_calibs (s : State) (site m : Nat) (x : Meter) : (s.setMeter site m x).calibs = s.calibs := rfl
@[simp] theorem State.setMeter_gaffer (s : State) (site m : Nat) (x : Meter) : (s.setMeter site m x).gaffer = s.gaffer := rfl
@[simp] theorem State.setMeter_tenants (s : State) (site m : Nat) (x : Meter) : (s.setMeter site m x).tenants = s.tenants := rfl
@[simp] theorem State.setMeter_sec (s : State) (site m : Nat) (x : Meter) : (s.setMeter site m x).sec = s.sec := rfl
@[simp] theorem State.setMeter_ens (s : State) (site m : Nat) (x : Meter) : (s.setMeter site m x).ens = s.ens := rfl
@[simp] theorem State.setMeter_ports (s : State) (site m : Nat) (x : Meter) : (s.setMeter site m x).ports = s.ports := rfl
@[simp] theorem State.setMeter_mons (s : State) (site m : Nat) (x : Meter) : (s.setMeter site m x).mons = s.mons := rfl
@[simp] theorem State.setMeter_boot (s : State) (site m : Nat) (x : Meter) : (s.setMeter site m x).boot = s.boot := rfl
@[simp] theorem State.setMeter_ram (s : State) (site m : Nat) (x : Meter) : (s.setMeter site m x).ram = s.ram := rfl
@[simp] theorem State.setMeter_hmem (s : State) (site m : Nat) (x : Meter) : (s.setMeter site m x).hmem = s.hmem := rfl
@[simp] theorem State.setMeter_badCpl (s : State) (site m : Nat) (x : Meter) : (s.setMeter site m x).badCpl = s.badCpl := rfl
@[simp] theorem State.setMeter_mute (s : State) (site m : Nat) (x : Meter) : (s.setMeter site m x).mute = s.mute := rfl
@[simp] theorem State.setMeter_flash (s : State) (site m : Nat) (x : Meter) : (s.setMeter site m x).flash = s.flash := rfl
@[simp] theorem State.setMeter_weak (s : State) (site m : Nat) (x : Meter) : (s.setMeter site m x).weak = s.weak := rfl
@[simp] theorem State.setMeter_loads (s : State) (site m : Nat) (x : Meter) : (s.setMeter site m x).loads = s.loads := rfl
@[simp] theorem State.setMeter_restarts (s : State) (site m : Nat) (x : Meter) : (s.setMeter site m x).restarts = s.restarts := rfl
@[simp] theorem State.setMeter_rings (s : State) (site m : Nat) (x : Meter) : (s.setMeter site m x).rings = s.rings := rfl
@[simp] theorem State.setMeter_strms (s : State) (site m : Nat) (x : Meter) : (s.setMeter site m x).strms = s.strms := rfl
@[simp] theorem State.setMeter_gates (s : State) (site m : Nat) (x : Meter) : (s.setMeter site m x).gates = s.gates := rfl
@[simp] theorem State.setMeter_axes (s : State) (site m : Nat) (x : Meter) : (s.setMeter site m x).axes = s.axes := rfl
@[simp] theorem State.setMeter_grps (s : State) (site m : Nat) (x : Meter) : (s.setMeter site m x).grps = s.grps := rfl
@[simp] theorem State.setMeter_slotRings (s : State) (site m : Nat) (x : Meter) : (s.setMeter site m x).slotRings = s.slotRings := rfl
@[simp] theorem State.setMeter_cueQs (s : State) (site m : Nat) (x : Meter) : (s.setMeter site m x).cueQs = s.cueQs := rfl
@[simp] theorem State.setMeter_binFlags (s : State) (site m : Nat) (x : Meter) : (s.setMeter site m x).binFlags = s.binFlags := rfl
@[simp] theorem State.setMeter_slates (s : State) (site m : Nat) (x : Meter) : (s.setMeter site m x).slates = s.slates := rfl
@[simp] theorem State.setMeter_gens (s : State) (site m : Nat) (x : Meter) : (s.setMeter site m x).gens = s.gens := rfl
@[simp] theorem State.setMeter_cancels (s : State) (site m : Nat) (x : Meter) : (s.setMeter site m x).cancels = s.cancels := rfl
@[simp] theorem State.setMeter_tqs (s : State) (site m : Nat) (x : Meter) : (s.setMeter site m x).tqs = s.tqs := rfl
@[simp] theorem State.setMeter_sched (s : State) (site m : Nat) (x : Meter) : (s.setMeter site m x).sched = s.sched := rfl
@[simp] theorem State.setMeter_dqs (s : State) (site m : Nat) (x : Meter) : (s.setMeter site m x).dqs = s.dqs := rfl
@[simp] theorem State.setMeter_cores (s : State) (site m : Nat) (x : Meter) : (s.setMeter site m x).cores = s.cores := rfl
@[simp] theorem State.setMeter_cmbs (s : State) (site m : Nat) (x : Meter) : (s.setMeter site m x).cmbs = s.cmbs := rfl
@[simp] theorem State.setMeter_engs (s : State) (site m : Nat) (x : Meter) : (s.setMeter site m x).engs = s.engs := rfl
@[simp] theorem State.setMeter_mmus (s : State) (site m : Nat) (x : Meter) : (s.setMeter site m x).mmus = s.mmus := rfl
@[simp] theorem State.setMeter_grans (s : State) (site m : Nat) (x : Meter) : (s.setMeter site m x).grans = s.grans := rfl
@[simp] theorem State.setMeter_granBusy (s : State) (site m : Nat) (x : Meter) : (s.setMeter site m x).granBusy = s.granBusy := rfl
@[simp] theorem State.setMeter_poison (s : State) (site m : Nat) (x : Meter) : (s.setMeter site m x).poison = s.poison := rfl
@[simp] theorem State.setMeter_buckets (s : State) (site m : Nat) (x : Meter) : (s.setMeter site m x).buckets = s.buckets := rfl
@[simp] theorem State.setMeter_arbs (s : State) (site m : Nat) (x : Meter) : (s.setMeter site m x).arbs = s.arbs := rfl
@[simp] theorem State.setMeter_capQs (s : State) (site m : Nat) (x : Meter) : (s.setMeter site m x).capQs = s.capQs := rfl
@[simp] theorem State.setMeter_avs (s : State) (site m : Nat) (x : Meter) : (s.setMeter site m x).avs = s.avs := rfl
@[simp] theorem State.setMeter_bndTaken (s : State) (site m : Nat) (x : Meter) : (s.setMeter site m x).bndTaken = s.bndTaken := rfl
@[simp] theorem State.setMeter_ces (s : State) (site m : Nat) (x : Meter) : (s.setMeter site m x).ces = s.ces := rfl
@[simp] theorem State.setMeter_scrubs (s : State) (site m : Nat) (x : Meter) : (s.setMeter site m x).scrubs = s.scrubs := rfl
@[simp] theorem State.setMeter_free (s : State) (site m : Nat) (x : Meter) : (s.setMeter site m x).free = s.free := rfl
@[simp] theorem State.setMeter_pending (s : State) (site m : Nat) (x : Meter) : (s.setMeter site m x).pending = s.pending := rfl
@[simp] theorem State.setMeter_reg (s : State) (site m : Nat) (x : Meter) (a_ : Nat) : (s.setMeter site m x).reg a_ = s.reg a_ := rfl
@[simp] theorem State.setCalib_asm (s : State) (site : Nat) (x : Calib) : (s.setCalib site x).asm = s.asm := rfl
@[simp] theorem State.setCalib_lead (s : State) (site : Nat) (x : Calib) : (s.setCalib site x).lead = s.lead := rfl
@[simp] theorem State.setCalib_regs (s : State) (site : Nat) (x : Calib) : (s.setCalib site x).regs = s.regs := rfl
@[simp] theorem State.setCalib_latch (s : State) (site : Nat) (x : Calib) : (s.setCalib site x).latch = s.latch := rfl
@[simp] theorem State.setCalib_rdata (s : State) (site : Nat) (x : Calib) : (s.setCalib site x).rdata = s.rdata := rfl
@[simp] theorem State.setCalib_rdataHi (s : State) (site : Nat) (x : Calib) : (s.setCalib site x).rdataHi = s.rdataHi := rfl
@[simp] theorem State.setCalib_back (s : State) (site : Nat) (x : Calib) : (s.setCalib site x).back = s.back := rfl
@[simp] theorem State.setCalib_bar2 (s : State) (site : Nat) (x : Calib) : (s.setCalib site x).bar2 = s.bar2 := rfl
@[simp] theorem State.setCalib_out (s : State) (site : Nat) (x : Calib) : (s.setCalib site x).out = s.out := rfl
@[simp] theorem State.setCalib_now (s : State) (site : Nat) (x : Calib) : (s.setCalib site x).now = s.now := rfl
@[simp] theorem State.setCalib_clapper (s : State) (site : Nat) (x : Calib) : (s.setCalib site x).clapper = s.clapper := rfl
@[simp] theorem State.setCalib_clk (s : State) (site : Nat) (x : Calib) : (s.setCalib site x).clk = s.clk := rfl
@[simp] theorem State.setCalib_sup (s : State) (site : Nat) (x : Calib) : (s.setCalib site x).sup = s.sup := rfl
@[simp] theorem State.setCalib_fios (s : State) (site : Nat) (x : Calib) : (s.setCalib site x).fios = s.fios := rfl
@[simp] theorem State.setCalib_ticks (s : State) (site : Nat) (x : Calib) : (s.setCalib site x).ticks = s.ticks := rfl
@[simp] theorem State.setCalib_encs (s : State) (site : Nat) (x : Calib) : (s.setCalib site x).encs = s.encs := rfl
@[simp] theorem State.setCalib_poss (s : State) (site : Nat) (x : Calib) : (s.setCalib site x).poss = s.poss := rfl
@[simp] theorem State.setCalib_cevs (s : State) (site : Nat) (x : Calib) : (s.setCalib site x).cevs = s.cevs := rfl
@[simp] theorem State.setCalib_segArms (s : State) (site : Nat) (x : Calib) : (s.setCalib site x).segArms = s.segArms := rfl
@[simp] theorem State.setCalib_slots (s : State) (site : Nat) (x : Calib) : (s.setCalib site x).slots = s.slots := rfl
@[simp] theorem State.setCalib_groups (s : State) (site : Nat) (x : Calib) : (s.setCalib site x).groups = s.groups := rfl
@[simp] theorem State.setCalib_order (s : State) (site : Nat) (x : Calib) : (s.setCalib site x).order = s.order := rfl
@[simp] theorem State.setCalib_meters (s : State) (site : Nat) (x : Calib) : (s.setCalib site x).meters = s.meters := rfl
@[simp] theorem State.setCalib_gaffer (s : State) (site : Nat) (x : Calib) : (s.setCalib site x).gaffer = s.gaffer := rfl
@[simp] theorem State.setCalib_tenants (s : State) (site : Nat) (x : Calib) : (s.setCalib site x).tenants = s.tenants := rfl
@[simp] theorem State.setCalib_sec (s : State) (site : Nat) (x : Calib) : (s.setCalib site x).sec = s.sec := rfl
@[simp] theorem State.setCalib_ens (s : State) (site : Nat) (x : Calib) : (s.setCalib site x).ens = s.ens := rfl
@[simp] theorem State.setCalib_ports (s : State) (site : Nat) (x : Calib) : (s.setCalib site x).ports = s.ports := rfl
@[simp] theorem State.setCalib_mons (s : State) (site : Nat) (x : Calib) : (s.setCalib site x).mons = s.mons := rfl
@[simp] theorem State.setCalib_boot (s : State) (site : Nat) (x : Calib) : (s.setCalib site x).boot = s.boot := rfl
@[simp] theorem State.setCalib_ram (s : State) (site : Nat) (x : Calib) : (s.setCalib site x).ram = s.ram := rfl
@[simp] theorem State.setCalib_hmem (s : State) (site : Nat) (x : Calib) : (s.setCalib site x).hmem = s.hmem := rfl
@[simp] theorem State.setCalib_badCpl (s : State) (site : Nat) (x : Calib) : (s.setCalib site x).badCpl = s.badCpl := rfl
@[simp] theorem State.setCalib_mute (s : State) (site : Nat) (x : Calib) : (s.setCalib site x).mute = s.mute := rfl
@[simp] theorem State.setCalib_flash (s : State) (site : Nat) (x : Calib) : (s.setCalib site x).flash = s.flash := rfl
@[simp] theorem State.setCalib_weak (s : State) (site : Nat) (x : Calib) : (s.setCalib site x).weak = s.weak := rfl
@[simp] theorem State.setCalib_loads (s : State) (site : Nat) (x : Calib) : (s.setCalib site x).loads = s.loads := rfl
@[simp] theorem State.setCalib_restarts (s : State) (site : Nat) (x : Calib) : (s.setCalib site x).restarts = s.restarts := rfl
@[simp] theorem State.setCalib_rings (s : State) (site : Nat) (x : Calib) : (s.setCalib site x).rings = s.rings := rfl
@[simp] theorem State.setCalib_strms (s : State) (site : Nat) (x : Calib) : (s.setCalib site x).strms = s.strms := rfl
@[simp] theorem State.setCalib_gates (s : State) (site : Nat) (x : Calib) : (s.setCalib site x).gates = s.gates := rfl
@[simp] theorem State.setCalib_axes (s : State) (site : Nat) (x : Calib) : (s.setCalib site x).axes = s.axes := rfl
@[simp] theorem State.setCalib_grps (s : State) (site : Nat) (x : Calib) : (s.setCalib site x).grps = s.grps := rfl
@[simp] theorem State.setCalib_slotRings (s : State) (site : Nat) (x : Calib) : (s.setCalib site x).slotRings = s.slotRings := rfl
@[simp] theorem State.setCalib_cueQs (s : State) (site : Nat) (x : Calib) : (s.setCalib site x).cueQs = s.cueQs := rfl
@[simp] theorem State.setCalib_binFlags (s : State) (site : Nat) (x : Calib) : (s.setCalib site x).binFlags = s.binFlags := rfl
@[simp] theorem State.setCalib_slates (s : State) (site : Nat) (x : Calib) : (s.setCalib site x).slates = s.slates := rfl
@[simp] theorem State.setCalib_gens (s : State) (site : Nat) (x : Calib) : (s.setCalib site x).gens = s.gens := rfl
@[simp] theorem State.setCalib_cancels (s : State) (site : Nat) (x : Calib) : (s.setCalib site x).cancels = s.cancels := rfl
@[simp] theorem State.setCalib_tqs (s : State) (site : Nat) (x : Calib) : (s.setCalib site x).tqs = s.tqs := rfl
@[simp] theorem State.setCalib_sched (s : State) (site : Nat) (x : Calib) : (s.setCalib site x).sched = s.sched := rfl
@[simp] theorem State.setCalib_dqs (s : State) (site : Nat) (x : Calib) : (s.setCalib site x).dqs = s.dqs := rfl
@[simp] theorem State.setCalib_cores (s : State) (site : Nat) (x : Calib) : (s.setCalib site x).cores = s.cores := rfl
@[simp] theorem State.setCalib_cmbs (s : State) (site : Nat) (x : Calib) : (s.setCalib site x).cmbs = s.cmbs := rfl
@[simp] theorem State.setCalib_engs (s : State) (site : Nat) (x : Calib) : (s.setCalib site x).engs = s.engs := rfl
@[simp] theorem State.setCalib_mmus (s : State) (site : Nat) (x : Calib) : (s.setCalib site x).mmus = s.mmus := rfl
@[simp] theorem State.setCalib_grans (s : State) (site : Nat) (x : Calib) : (s.setCalib site x).grans = s.grans := rfl
@[simp] theorem State.setCalib_granBusy (s : State) (site : Nat) (x : Calib) : (s.setCalib site x).granBusy = s.granBusy := rfl
@[simp] theorem State.setCalib_poison (s : State) (site : Nat) (x : Calib) : (s.setCalib site x).poison = s.poison := rfl
@[simp] theorem State.setCalib_buckets (s : State) (site : Nat) (x : Calib) : (s.setCalib site x).buckets = s.buckets := rfl
@[simp] theorem State.setCalib_arbs (s : State) (site : Nat) (x : Calib) : (s.setCalib site x).arbs = s.arbs := rfl
@[simp] theorem State.setCalib_capQs (s : State) (site : Nat) (x : Calib) : (s.setCalib site x).capQs = s.capQs := rfl
@[simp] theorem State.setCalib_avs (s : State) (site : Nat) (x : Calib) : (s.setCalib site x).avs = s.avs := rfl
@[simp] theorem State.setCalib_bndTaken (s : State) (site : Nat) (x : Calib) : (s.setCalib site x).bndTaken = s.bndTaken := rfl
@[simp] theorem State.setCalib_ces (s : State) (site : Nat) (x : Calib) : (s.setCalib site x).ces = s.ces := rfl
@[simp] theorem State.setCalib_scrubs (s : State) (site : Nat) (x : Calib) : (s.setCalib site x).scrubs = s.scrubs := rfl
@[simp] theorem State.setCalib_free (s : State) (site : Nat) (x : Calib) : (s.setCalib site x).free = s.free := rfl
@[simp] theorem State.setCalib_pending (s : State) (site : Nat) (x : Calib) : (s.setCalib site x).pending = s.pending := rfl
@[simp] theorem State.setCalib_reg (s : State) (site : Nat) (x : Calib) (a_ : Nat) : (s.setCalib site x).reg a_ = s.reg a_ := rfl
@[simp] theorem State.ramPut_asm (s : State) (sp a : Nat) (bs : List Byte) : (s.ramPut sp a bs).asm = s.asm := rfl
@[simp] theorem State.ramPut_lead (s : State) (sp a : Nat) (bs : List Byte) : (s.ramPut sp a bs).lead = s.lead := rfl
@[simp] theorem State.ramPut_regs (s : State) (sp a : Nat) (bs : List Byte) : (s.ramPut sp a bs).regs = s.regs := rfl
@[simp] theorem State.ramPut_latch (s : State) (sp a : Nat) (bs : List Byte) : (s.ramPut sp a bs).latch = s.latch := rfl
@[simp] theorem State.ramPut_rdata (s : State) (sp a : Nat) (bs : List Byte) : (s.ramPut sp a bs).rdata = s.rdata := rfl
@[simp] theorem State.ramPut_rdataHi (s : State) (sp a : Nat) (bs : List Byte) : (s.ramPut sp a bs).rdataHi = s.rdataHi := rfl
@[simp] theorem State.ramPut_back (s : State) (sp a : Nat) (bs : List Byte) : (s.ramPut sp a bs).back = s.back := rfl
@[simp] theorem State.ramPut_bar2 (s : State) (sp a : Nat) (bs : List Byte) : (s.ramPut sp a bs).bar2 = s.bar2 := rfl
@[simp] theorem State.ramPut_out (s : State) (sp a : Nat) (bs : List Byte) : (s.ramPut sp a bs).out = s.out := rfl
@[simp] theorem State.ramPut_now (s : State) (sp a : Nat) (bs : List Byte) : (s.ramPut sp a bs).now = s.now := rfl
@[simp] theorem State.ramPut_clapper (s : State) (sp a : Nat) (bs : List Byte) : (s.ramPut sp a bs).clapper = s.clapper := rfl
@[simp] theorem State.ramPut_clk (s : State) (sp a : Nat) (bs : List Byte) : (s.ramPut sp a bs).clk = s.clk := rfl
@[simp] theorem State.ramPut_sup (s : State) (sp a : Nat) (bs : List Byte) : (s.ramPut sp a bs).sup = s.sup := rfl
@[simp] theorem State.ramPut_fios (s : State) (sp a : Nat) (bs : List Byte) : (s.ramPut sp a bs).fios = s.fios := rfl
@[simp] theorem State.ramPut_ticks (s : State) (sp a : Nat) (bs : List Byte) : (s.ramPut sp a bs).ticks = s.ticks := rfl
@[simp] theorem State.ramPut_encs (s : State) (sp a : Nat) (bs : List Byte) : (s.ramPut sp a bs).encs = s.encs := rfl
@[simp] theorem State.ramPut_poss (s : State) (sp a : Nat) (bs : List Byte) : (s.ramPut sp a bs).poss = s.poss := rfl
@[simp] theorem State.ramPut_cevs (s : State) (sp a : Nat) (bs : List Byte) : (s.ramPut sp a bs).cevs = s.cevs := rfl
@[simp] theorem State.ramPut_segArms (s : State) (sp a : Nat) (bs : List Byte) : (s.ramPut sp a bs).segArms = s.segArms := rfl
@[simp] theorem State.ramPut_slots (s : State) (sp a : Nat) (bs : List Byte) : (s.ramPut sp a bs).slots = s.slots := rfl
@[simp] theorem State.ramPut_groups (s : State) (sp a : Nat) (bs : List Byte) : (s.ramPut sp a bs).groups = s.groups := rfl
@[simp] theorem State.ramPut_order (s : State) (sp a : Nat) (bs : List Byte) : (s.ramPut sp a bs).order = s.order := rfl
@[simp] theorem State.ramPut_meters (s : State) (sp a : Nat) (bs : List Byte) : (s.ramPut sp a bs).meters = s.meters := rfl
@[simp] theorem State.ramPut_calibs (s : State) (sp a : Nat) (bs : List Byte) : (s.ramPut sp a bs).calibs = s.calibs := rfl
@[simp] theorem State.ramPut_gaffer (s : State) (sp a : Nat) (bs : List Byte) : (s.ramPut sp a bs).gaffer = s.gaffer := rfl
@[simp] theorem State.ramPut_tenants (s : State) (sp a : Nat) (bs : List Byte) : (s.ramPut sp a bs).tenants = s.tenants := rfl
@[simp] theorem State.ramPut_sec (s : State) (sp a : Nat) (bs : List Byte) : (s.ramPut sp a bs).sec = s.sec := rfl
@[simp] theorem State.ramPut_ens (s : State) (sp a : Nat) (bs : List Byte) : (s.ramPut sp a bs).ens = s.ens := rfl
@[simp] theorem State.ramPut_ports (s : State) (sp a : Nat) (bs : List Byte) : (s.ramPut sp a bs).ports = s.ports := rfl
@[simp] theorem State.ramPut_mons (s : State) (sp a : Nat) (bs : List Byte) : (s.ramPut sp a bs).mons = s.mons := rfl
@[simp] theorem State.ramPut_boot (s : State) (sp a : Nat) (bs : List Byte) : (s.ramPut sp a bs).boot = s.boot := rfl
@[simp] theorem State.ramPut_hmem (s : State) (sp a : Nat) (bs : List Byte) : (s.ramPut sp a bs).hmem = s.hmem := rfl
@[simp] theorem State.ramPut_badCpl (s : State) (sp a : Nat) (bs : List Byte) : (s.ramPut sp a bs).badCpl = s.badCpl := rfl
@[simp] theorem State.ramPut_mute (s : State) (sp a : Nat) (bs : List Byte) : (s.ramPut sp a bs).mute = s.mute := rfl
@[simp] theorem State.ramPut_flash (s : State) (sp a : Nat) (bs : List Byte) : (s.ramPut sp a bs).flash = s.flash := rfl
@[simp] theorem State.ramPut_weak (s : State) (sp a : Nat) (bs : List Byte) : (s.ramPut sp a bs).weak = s.weak := rfl
@[simp] theorem State.ramPut_loads (s : State) (sp a : Nat) (bs : List Byte) : (s.ramPut sp a bs).loads = s.loads := rfl
@[simp] theorem State.ramPut_restarts (s : State) (sp a : Nat) (bs : List Byte) : (s.ramPut sp a bs).restarts = s.restarts := rfl
@[simp] theorem State.ramPut_rings (s : State) (sp a : Nat) (bs : List Byte) : (s.ramPut sp a bs).rings = s.rings := rfl
@[simp] theorem State.ramPut_strms (s : State) (sp a : Nat) (bs : List Byte) : (s.ramPut sp a bs).strms = s.strms := rfl
@[simp] theorem State.ramPut_gates (s : State) (sp a : Nat) (bs : List Byte) : (s.ramPut sp a bs).gates = s.gates := rfl
@[simp] theorem State.ramPut_axes (s : State) (sp a : Nat) (bs : List Byte) : (s.ramPut sp a bs).axes = s.axes := rfl
@[simp] theorem State.ramPut_grps (s : State) (sp a : Nat) (bs : List Byte) : (s.ramPut sp a bs).grps = s.grps := rfl
@[simp] theorem State.ramPut_slotRings (s : State) (sp a : Nat) (bs : List Byte) : (s.ramPut sp a bs).slotRings = s.slotRings := rfl
@[simp] theorem State.ramPut_cueQs (s : State) (sp a : Nat) (bs : List Byte) : (s.ramPut sp a bs).cueQs = s.cueQs := rfl
@[simp] theorem State.ramPut_binFlags (s : State) (sp a : Nat) (bs : List Byte) : (s.ramPut sp a bs).binFlags = s.binFlags := rfl
@[simp] theorem State.ramPut_slates (s : State) (sp a : Nat) (bs : List Byte) : (s.ramPut sp a bs).slates = s.slates := rfl
@[simp] theorem State.ramPut_gens (s : State) (sp a : Nat) (bs : List Byte) : (s.ramPut sp a bs).gens = s.gens := rfl
@[simp] theorem State.ramPut_cancels (s : State) (sp a : Nat) (bs : List Byte) : (s.ramPut sp a bs).cancels = s.cancels := rfl
@[simp] theorem State.ramPut_tqs (s : State) (sp a : Nat) (bs : List Byte) : (s.ramPut sp a bs).tqs = s.tqs := rfl
@[simp] theorem State.ramPut_sched (s : State) (sp a : Nat) (bs : List Byte) : (s.ramPut sp a bs).sched = s.sched := rfl
@[simp] theorem State.ramPut_dqs (s : State) (sp a : Nat) (bs : List Byte) : (s.ramPut sp a bs).dqs = s.dqs := rfl
@[simp] theorem State.ramPut_cores (s : State) (sp a : Nat) (bs : List Byte) : (s.ramPut sp a bs).cores = s.cores := rfl
@[simp] theorem State.ramPut_cmbs (s : State) (sp a : Nat) (bs : List Byte) : (s.ramPut sp a bs).cmbs = s.cmbs := rfl
@[simp] theorem State.ramPut_engs (s : State) (sp a : Nat) (bs : List Byte) : (s.ramPut sp a bs).engs = s.engs := rfl
@[simp] theorem State.ramPut_mmus (s : State) (sp a : Nat) (bs : List Byte) : (s.ramPut sp a bs).mmus = s.mmus := rfl
@[simp] theorem State.ramPut_grans (s : State) (sp a : Nat) (bs : List Byte) : (s.ramPut sp a bs).grans = s.grans := rfl
@[simp] theorem State.ramPut_granBusy (s : State) (sp a : Nat) (bs : List Byte) : (s.ramPut sp a bs).granBusy = s.granBusy := rfl
@[simp] theorem State.ramPut_poison (s : State) (sp a : Nat) (bs : List Byte) : (s.ramPut sp a bs).poison = s.poison := rfl
@[simp] theorem State.ramPut_buckets (s : State) (sp a : Nat) (bs : List Byte) : (s.ramPut sp a bs).buckets = s.buckets := rfl
@[simp] theorem State.ramPut_arbs (s : State) (sp a : Nat) (bs : List Byte) : (s.ramPut sp a bs).arbs = s.arbs := rfl
@[simp] theorem State.ramPut_capQs (s : State) (sp a : Nat) (bs : List Byte) : (s.ramPut sp a bs).capQs = s.capQs := rfl
@[simp] theorem State.ramPut_avs (s : State) (sp a : Nat) (bs : List Byte) : (s.ramPut sp a bs).avs = s.avs := rfl
@[simp] theorem State.ramPut_bndTaken (s : State) (sp a : Nat) (bs : List Byte) : (s.ramPut sp a bs).bndTaken = s.bndTaken := rfl
@[simp] theorem State.ramPut_ces (s : State) (sp a : Nat) (bs : List Byte) : (s.ramPut sp a bs).ces = s.ces := rfl
@[simp] theorem State.ramPut_scrubs (s : State) (sp a : Nat) (bs : List Byte) : (s.ramPut sp a bs).scrubs = s.scrubs := rfl
@[simp] theorem State.ramPut_free (s : State) (sp a : Nat) (bs : List Byte) : (s.ramPut sp a bs).free = s.free := rfl
@[simp] theorem State.ramPut_pending (s : State) (sp a : Nat) (bs : List Byte) : (s.ramPut sp a bs).pending = s.pending := rfl
@[simp] theorem State.ramPut_reg (s : State) (sp a : Nat) (bs : List Byte) (a_ : Nat) : (s.ramPut sp a bs).reg a_ = s.reg a_ := rfl
@[simp] theorem State.hmemPut_asm (s : State) (a : Nat) (bs : List Byte) : (s.hmemPut a bs).asm = s.asm := rfl
@[simp] theorem State.hmemPut_lead (s : State) (a : Nat) (bs : List Byte) : (s.hmemPut a bs).lead = s.lead := rfl
@[simp] theorem State.hmemPut_regs (s : State) (a : Nat) (bs : List Byte) : (s.hmemPut a bs).regs = s.regs := rfl
@[simp] theorem State.hmemPut_latch (s : State) (a : Nat) (bs : List Byte) : (s.hmemPut a bs).latch = s.latch := rfl
@[simp] theorem State.hmemPut_rdata (s : State) (a : Nat) (bs : List Byte) : (s.hmemPut a bs).rdata = s.rdata := rfl
@[simp] theorem State.hmemPut_rdataHi (s : State) (a : Nat) (bs : List Byte) : (s.hmemPut a bs).rdataHi = s.rdataHi := rfl
@[simp] theorem State.hmemPut_back (s : State) (a : Nat) (bs : List Byte) : (s.hmemPut a bs).back = s.back := rfl
@[simp] theorem State.hmemPut_bar2 (s : State) (a : Nat) (bs : List Byte) : (s.hmemPut a bs).bar2 = s.bar2 := rfl
@[simp] theorem State.hmemPut_out (s : State) (a : Nat) (bs : List Byte) : (s.hmemPut a bs).out = s.out := rfl
@[simp] theorem State.hmemPut_now (s : State) (a : Nat) (bs : List Byte) : (s.hmemPut a bs).now = s.now := rfl
@[simp] theorem State.hmemPut_clapper (s : State) (a : Nat) (bs : List Byte) : (s.hmemPut a bs).clapper = s.clapper := rfl
@[simp] theorem State.hmemPut_clk (s : State) (a : Nat) (bs : List Byte) : (s.hmemPut a bs).clk = s.clk := rfl
@[simp] theorem State.hmemPut_sup (s : State) (a : Nat) (bs : List Byte) : (s.hmemPut a bs).sup = s.sup := rfl
@[simp] theorem State.hmemPut_fios (s : State) (a : Nat) (bs : List Byte) : (s.hmemPut a bs).fios = s.fios := rfl
@[simp] theorem State.hmemPut_ticks (s : State) (a : Nat) (bs : List Byte) : (s.hmemPut a bs).ticks = s.ticks := rfl
@[simp] theorem State.hmemPut_encs (s : State) (a : Nat) (bs : List Byte) : (s.hmemPut a bs).encs = s.encs := rfl
@[simp] theorem State.hmemPut_poss (s : State) (a : Nat) (bs : List Byte) : (s.hmemPut a bs).poss = s.poss := rfl
@[simp] theorem State.hmemPut_cevs (s : State) (a : Nat) (bs : List Byte) : (s.hmemPut a bs).cevs = s.cevs := rfl
@[simp] theorem State.hmemPut_segArms (s : State) (a : Nat) (bs : List Byte) : (s.hmemPut a bs).segArms = s.segArms := rfl
@[simp] theorem State.hmemPut_slots (s : State) (a : Nat) (bs : List Byte) : (s.hmemPut a bs).slots = s.slots := rfl
@[simp] theorem State.hmemPut_groups (s : State) (a : Nat) (bs : List Byte) : (s.hmemPut a bs).groups = s.groups := rfl
@[simp] theorem State.hmemPut_order (s : State) (a : Nat) (bs : List Byte) : (s.hmemPut a bs).order = s.order := rfl
@[simp] theorem State.hmemPut_meters (s : State) (a : Nat) (bs : List Byte) : (s.hmemPut a bs).meters = s.meters := rfl
@[simp] theorem State.hmemPut_calibs (s : State) (a : Nat) (bs : List Byte) : (s.hmemPut a bs).calibs = s.calibs := rfl
@[simp] theorem State.hmemPut_gaffer (s : State) (a : Nat) (bs : List Byte) : (s.hmemPut a bs).gaffer = s.gaffer := rfl
@[simp] theorem State.hmemPut_tenants (s : State) (a : Nat) (bs : List Byte) : (s.hmemPut a bs).tenants = s.tenants := rfl
@[simp] theorem State.hmemPut_sec (s : State) (a : Nat) (bs : List Byte) : (s.hmemPut a bs).sec = s.sec := rfl
@[simp] theorem State.hmemPut_ens (s : State) (a : Nat) (bs : List Byte) : (s.hmemPut a bs).ens = s.ens := rfl
@[simp] theorem State.hmemPut_ports (s : State) (a : Nat) (bs : List Byte) : (s.hmemPut a bs).ports = s.ports := rfl
@[simp] theorem State.hmemPut_mons (s : State) (a : Nat) (bs : List Byte) : (s.hmemPut a bs).mons = s.mons := rfl
@[simp] theorem State.hmemPut_boot (s : State) (a : Nat) (bs : List Byte) : (s.hmemPut a bs).boot = s.boot := rfl
@[simp] theorem State.hmemPut_ram (s : State) (a : Nat) (bs : List Byte) : (s.hmemPut a bs).ram = s.ram := rfl
@[simp] theorem State.hmemPut_badCpl (s : State) (a : Nat) (bs : List Byte) : (s.hmemPut a bs).badCpl = s.badCpl := rfl
@[simp] theorem State.hmemPut_mute (s : State) (a : Nat) (bs : List Byte) : (s.hmemPut a bs).mute = s.mute := rfl
@[simp] theorem State.hmemPut_flash (s : State) (a : Nat) (bs : List Byte) : (s.hmemPut a bs).flash = s.flash := rfl
@[simp] theorem State.hmemPut_weak (s : State) (a : Nat) (bs : List Byte) : (s.hmemPut a bs).weak = s.weak := rfl
@[simp] theorem State.hmemPut_loads (s : State) (a : Nat) (bs : List Byte) : (s.hmemPut a bs).loads = s.loads := rfl
@[simp] theorem State.hmemPut_restarts (s : State) (a : Nat) (bs : List Byte) : (s.hmemPut a bs).restarts = s.restarts := rfl
@[simp] theorem State.hmemPut_rings (s : State) (a : Nat) (bs : List Byte) : (s.hmemPut a bs).rings = s.rings := rfl
@[simp] theorem State.hmemPut_strms (s : State) (a : Nat) (bs : List Byte) : (s.hmemPut a bs).strms = s.strms := rfl
@[simp] theorem State.hmemPut_gates (s : State) (a : Nat) (bs : List Byte) : (s.hmemPut a bs).gates = s.gates := rfl
@[simp] theorem State.hmemPut_axes (s : State) (a : Nat) (bs : List Byte) : (s.hmemPut a bs).axes = s.axes := rfl
@[simp] theorem State.hmemPut_grps (s : State) (a : Nat) (bs : List Byte) : (s.hmemPut a bs).grps = s.grps := rfl
@[simp] theorem State.hmemPut_slotRings (s : State) (a : Nat) (bs : List Byte) : (s.hmemPut a bs).slotRings = s.slotRings := rfl
@[simp] theorem State.hmemPut_cueQs (s : State) (a : Nat) (bs : List Byte) : (s.hmemPut a bs).cueQs = s.cueQs := rfl
@[simp] theorem State.hmemPut_binFlags (s : State) (a : Nat) (bs : List Byte) : (s.hmemPut a bs).binFlags = s.binFlags := rfl
@[simp] theorem State.hmemPut_slates (s : State) (a : Nat) (bs : List Byte) : (s.hmemPut a bs).slates = s.slates := rfl
@[simp] theorem State.hmemPut_gens (s : State) (a : Nat) (bs : List Byte) : (s.hmemPut a bs).gens = s.gens := rfl
@[simp] theorem State.hmemPut_cancels (s : State) (a : Nat) (bs : List Byte) : (s.hmemPut a bs).cancels = s.cancels := rfl
@[simp] theorem State.hmemPut_tqs (s : State) (a : Nat) (bs : List Byte) : (s.hmemPut a bs).tqs = s.tqs := rfl
@[simp] theorem State.hmemPut_sched (s : State) (a : Nat) (bs : List Byte) : (s.hmemPut a bs).sched = s.sched := rfl
@[simp] theorem State.hmemPut_dqs (s : State) (a : Nat) (bs : List Byte) : (s.hmemPut a bs).dqs = s.dqs := rfl
@[simp] theorem State.hmemPut_cores (s : State) (a : Nat) (bs : List Byte) : (s.hmemPut a bs).cores = s.cores := rfl
@[simp] theorem State.hmemPut_cmbs (s : State) (a : Nat) (bs : List Byte) : (s.hmemPut a bs).cmbs = s.cmbs := rfl
@[simp] theorem State.hmemPut_engs (s : State) (a : Nat) (bs : List Byte) : (s.hmemPut a bs).engs = s.engs := rfl
@[simp] theorem State.hmemPut_mmus (s : State) (a : Nat) (bs : List Byte) : (s.hmemPut a bs).mmus = s.mmus := rfl
@[simp] theorem State.hmemPut_grans (s : State) (a : Nat) (bs : List Byte) : (s.hmemPut a bs).grans = s.grans := rfl
@[simp] theorem State.hmemPut_granBusy (s : State) (a : Nat) (bs : List Byte) : (s.hmemPut a bs).granBusy = s.granBusy := rfl
@[simp] theorem State.hmemPut_poison (s : State) (a : Nat) (bs : List Byte) : (s.hmemPut a bs).poison = s.poison := rfl
@[simp] theorem State.hmemPut_buckets (s : State) (a : Nat) (bs : List Byte) : (s.hmemPut a bs).buckets = s.buckets := rfl
@[simp] theorem State.hmemPut_arbs (s : State) (a : Nat) (bs : List Byte) : (s.hmemPut a bs).arbs = s.arbs := rfl
@[simp] theorem State.hmemPut_capQs (s : State) (a : Nat) (bs : List Byte) : (s.hmemPut a bs).capQs = s.capQs := rfl
@[simp] theorem State.hmemPut_avs (s : State) (a : Nat) (bs : List Byte) : (s.hmemPut a bs).avs = s.avs := rfl
@[simp] theorem State.hmemPut_bndTaken (s : State) (a : Nat) (bs : List Byte) : (s.hmemPut a bs).bndTaken = s.bndTaken := rfl
@[simp] theorem State.hmemPut_ces (s : State) (a : Nat) (bs : List Byte) : (s.hmemPut a bs).ces = s.ces := rfl
@[simp] theorem State.hmemPut_scrubs (s : State) (a : Nat) (bs : List Byte) : (s.hmemPut a bs).scrubs = s.scrubs := rfl
@[simp] theorem State.hmemPut_free (s : State) (a : Nat) (bs : List Byte) : (s.hmemPut a bs).free = s.free := rfl
@[simp] theorem State.hmemPut_pending (s : State) (a : Nat) (bs : List Byte) : (s.hmemPut a bs).pending = s.pending := rfl
@[simp] theorem State.hmemPut_reg (s : State) (a : Nat) (bs : List Byte) (a_ : Nat) : (s.hmemPut a bs).reg a_ = s.reg a_ := rfl
@[simp] theorem State.setRing_asm (s : State) (d : Nat) (x : DRing) : (s.setRing d x).asm = s.asm := rfl
@[simp] theorem State.setRing_lead (s : State) (d : Nat) (x : DRing) : (s.setRing d x).lead = s.lead := rfl
@[simp] theorem State.setRing_regs (s : State) (d : Nat) (x : DRing) : (s.setRing d x).regs = s.regs := rfl
@[simp] theorem State.setRing_latch (s : State) (d : Nat) (x : DRing) : (s.setRing d x).latch = s.latch := rfl
@[simp] theorem State.setRing_rdata (s : State) (d : Nat) (x : DRing) : (s.setRing d x).rdata = s.rdata := rfl
@[simp] theorem State.setRing_rdataHi (s : State) (d : Nat) (x : DRing) : (s.setRing d x).rdataHi = s.rdataHi := rfl
@[simp] theorem State.setRing_back (s : State) (d : Nat) (x : DRing) : (s.setRing d x).back = s.back := rfl
@[simp] theorem State.setRing_bar2 (s : State) (d : Nat) (x : DRing) : (s.setRing d x).bar2 = s.bar2 := rfl
@[simp] theorem State.setRing_out (s : State) (d : Nat) (x : DRing) : (s.setRing d x).out = s.out := rfl
@[simp] theorem State.setRing_now (s : State) (d : Nat) (x : DRing) : (s.setRing d x).now = s.now := rfl
@[simp] theorem State.setRing_clapper (s : State) (d : Nat) (x : DRing) : (s.setRing d x).clapper = s.clapper := rfl
@[simp] theorem State.setRing_clk (s : State) (d : Nat) (x : DRing) : (s.setRing d x).clk = s.clk := rfl
@[simp] theorem State.setRing_sup (s : State) (d : Nat) (x : DRing) : (s.setRing d x).sup = s.sup := rfl
@[simp] theorem State.setRing_fios (s : State) (d : Nat) (x : DRing) : (s.setRing d x).fios = s.fios := rfl
@[simp] theorem State.setRing_ticks (s : State) (d : Nat) (x : DRing) : (s.setRing d x).ticks = s.ticks := rfl
@[simp] theorem State.setRing_encs (s : State) (d : Nat) (x : DRing) : (s.setRing d x).encs = s.encs := rfl
@[simp] theorem State.setRing_poss (s : State) (d : Nat) (x : DRing) : (s.setRing d x).poss = s.poss := rfl
@[simp] theorem State.setRing_cevs (s : State) (d : Nat) (x : DRing) : (s.setRing d x).cevs = s.cevs := rfl
@[simp] theorem State.setRing_segArms (s : State) (d : Nat) (x : DRing) : (s.setRing d x).segArms = s.segArms := rfl
@[simp] theorem State.setRing_slots (s : State) (d : Nat) (x : DRing) : (s.setRing d x).slots = s.slots := rfl
@[simp] theorem State.setRing_groups (s : State) (d : Nat) (x : DRing) : (s.setRing d x).groups = s.groups := rfl
@[simp] theorem State.setRing_order (s : State) (d : Nat) (x : DRing) : (s.setRing d x).order = s.order := rfl
@[simp] theorem State.setRing_meters (s : State) (d : Nat) (x : DRing) : (s.setRing d x).meters = s.meters := rfl
@[simp] theorem State.setRing_calibs (s : State) (d : Nat) (x : DRing) : (s.setRing d x).calibs = s.calibs := rfl
@[simp] theorem State.setRing_gaffer (s : State) (d : Nat) (x : DRing) : (s.setRing d x).gaffer = s.gaffer := rfl
@[simp] theorem State.setRing_tenants (s : State) (d : Nat) (x : DRing) : (s.setRing d x).tenants = s.tenants := rfl
@[simp] theorem State.setRing_sec (s : State) (d : Nat) (x : DRing) : (s.setRing d x).sec = s.sec := rfl
@[simp] theorem State.setRing_ens (s : State) (d : Nat) (x : DRing) : (s.setRing d x).ens = s.ens := rfl
@[simp] theorem State.setRing_ports (s : State) (d : Nat) (x : DRing) : (s.setRing d x).ports = s.ports := rfl
@[simp] theorem State.setRing_mons (s : State) (d : Nat) (x : DRing) : (s.setRing d x).mons = s.mons := rfl
@[simp] theorem State.setRing_boot (s : State) (d : Nat) (x : DRing) : (s.setRing d x).boot = s.boot := rfl
@[simp] theorem State.setRing_ram (s : State) (d : Nat) (x : DRing) : (s.setRing d x).ram = s.ram := rfl
@[simp] theorem State.setRing_hmem (s : State) (d : Nat) (x : DRing) : (s.setRing d x).hmem = s.hmem := rfl
@[simp] theorem State.setRing_badCpl (s : State) (d : Nat) (x : DRing) : (s.setRing d x).badCpl = s.badCpl := rfl
@[simp] theorem State.setRing_mute (s : State) (d : Nat) (x : DRing) : (s.setRing d x).mute = s.mute := rfl
@[simp] theorem State.setRing_flash (s : State) (d : Nat) (x : DRing) : (s.setRing d x).flash = s.flash := rfl
@[simp] theorem State.setRing_weak (s : State) (d : Nat) (x : DRing) : (s.setRing d x).weak = s.weak := rfl
@[simp] theorem State.setRing_loads (s : State) (d : Nat) (x : DRing) : (s.setRing d x).loads = s.loads := rfl
@[simp] theorem State.setRing_restarts (s : State) (d : Nat) (x : DRing) : (s.setRing d x).restarts = s.restarts := rfl
@[simp] theorem State.setRing_strms (s : State) (d : Nat) (x : DRing) : (s.setRing d x).strms = s.strms := rfl
@[simp] theorem State.setRing_gates (s : State) (d : Nat) (x : DRing) : (s.setRing d x).gates = s.gates := rfl
@[simp] theorem State.setRing_axes (s : State) (d : Nat) (x : DRing) : (s.setRing d x).axes = s.axes := rfl
@[simp] theorem State.setRing_grps (s : State) (d : Nat) (x : DRing) : (s.setRing d x).grps = s.grps := rfl
@[simp] theorem State.setRing_slotRings (s : State) (d : Nat) (x : DRing) : (s.setRing d x).slotRings = s.slotRings := rfl
@[simp] theorem State.setRing_cueQs (s : State) (d : Nat) (x : DRing) : (s.setRing d x).cueQs = s.cueQs := rfl
@[simp] theorem State.setRing_binFlags (s : State) (d : Nat) (x : DRing) : (s.setRing d x).binFlags = s.binFlags := rfl
@[simp] theorem State.setRing_slates (s : State) (d : Nat) (x : DRing) : (s.setRing d x).slates = s.slates := rfl
@[simp] theorem State.setRing_gens (s : State) (d : Nat) (x : DRing) : (s.setRing d x).gens = s.gens := rfl
@[simp] theorem State.setRing_cancels (s : State) (d : Nat) (x : DRing) : (s.setRing d x).cancels = s.cancels := rfl
@[simp] theorem State.setRing_tqs (s : State) (d : Nat) (x : DRing) : (s.setRing d x).tqs = s.tqs := rfl
@[simp] theorem State.setRing_sched (s : State) (d : Nat) (x : DRing) : (s.setRing d x).sched = s.sched := rfl
@[simp] theorem State.setRing_dqs (s : State) (d : Nat) (x : DRing) : (s.setRing d x).dqs = s.dqs := rfl
@[simp] theorem State.setRing_cores (s : State) (d : Nat) (x : DRing) : (s.setRing d x).cores = s.cores := rfl
@[simp] theorem State.setRing_cmbs (s : State) (d : Nat) (x : DRing) : (s.setRing d x).cmbs = s.cmbs := rfl
@[simp] theorem State.setRing_engs (s : State) (d : Nat) (x : DRing) : (s.setRing d x).engs = s.engs := rfl
@[simp] theorem State.setRing_mmus (s : State) (d : Nat) (x : DRing) : (s.setRing d x).mmus = s.mmus := rfl
@[simp] theorem State.setRing_grans (s : State) (d : Nat) (x : DRing) : (s.setRing d x).grans = s.grans := rfl
@[simp] theorem State.setRing_granBusy (s : State) (d : Nat) (x : DRing) : (s.setRing d x).granBusy = s.granBusy := rfl
@[simp] theorem State.setRing_poison (s : State) (d : Nat) (x : DRing) : (s.setRing d x).poison = s.poison := rfl
@[simp] theorem State.setRing_buckets (s : State) (d : Nat) (x : DRing) : (s.setRing d x).buckets = s.buckets := rfl
@[simp] theorem State.setRing_arbs (s : State) (d : Nat) (x : DRing) : (s.setRing d x).arbs = s.arbs := rfl
@[simp] theorem State.setRing_capQs (s : State) (d : Nat) (x : DRing) : (s.setRing d x).capQs = s.capQs := rfl
@[simp] theorem State.setRing_avs (s : State) (d : Nat) (x : DRing) : (s.setRing d x).avs = s.avs := rfl
@[simp] theorem State.setRing_bndTaken (s : State) (d : Nat) (x : DRing) : (s.setRing d x).bndTaken = s.bndTaken := rfl
@[simp] theorem State.setRing_ces (s : State) (d : Nat) (x : DRing) : (s.setRing d x).ces = s.ces := rfl
@[simp] theorem State.setRing_scrubs (s : State) (d : Nat) (x : DRing) : (s.setRing d x).scrubs = s.scrubs := rfl
@[simp] theorem State.setRing_free (s : State) (d : Nat) (x : DRing) : (s.setRing d x).free = s.free := rfl
@[simp] theorem State.setRing_pending (s : State) (d : Nat) (x : DRing) : (s.setRing d x).pending = s.pending := rfl
@[simp] theorem State.setRing_reg (s : State) (d : Nat) (x : DRing) (a_ : Nat) : (s.setRing d x).reg a_ = s.reg a_ := rfl
@[simp] theorem State.setEnc_asm (s : State) (site e : Nat) (x : Enc) : (s.setEnc site e x).asm = s.asm := rfl
@[simp] theorem State.setEnc_lead (s : State) (site e : Nat) (x : Enc) : (s.setEnc site e x).lead = s.lead := rfl
@[simp] theorem State.setEnc_regs (s : State) (site e : Nat) (x : Enc) : (s.setEnc site e x).regs = s.regs := rfl
@[simp] theorem State.setEnc_latch (s : State) (site e : Nat) (x : Enc) : (s.setEnc site e x).latch = s.latch := rfl
@[simp] theorem State.setEnc_rdata (s : State) (site e : Nat) (x : Enc) : (s.setEnc site e x).rdata = s.rdata := rfl
@[simp] theorem State.setEnc_rdataHi (s : State) (site e : Nat) (x : Enc) : (s.setEnc site e x).rdataHi = s.rdataHi := rfl
@[simp] theorem State.setEnc_back (s : State) (site e : Nat) (x : Enc) : (s.setEnc site e x).back = s.back := rfl
@[simp] theorem State.setEnc_bar2 (s : State) (site e : Nat) (x : Enc) : (s.setEnc site e x).bar2 = s.bar2 := rfl
@[simp] theorem State.setEnc_out (s : State) (site e : Nat) (x : Enc) : (s.setEnc site e x).out = s.out := rfl
@[simp] theorem State.setEnc_now (s : State) (site e : Nat) (x : Enc) : (s.setEnc site e x).now = s.now := rfl
@[simp] theorem State.setEnc_clapper (s : State) (site e : Nat) (x : Enc) : (s.setEnc site e x).clapper = s.clapper := rfl
@[simp] theorem State.setEnc_clk (s : State) (site e : Nat) (x : Enc) : (s.setEnc site e x).clk = s.clk := rfl
@[simp] theorem State.setEnc_sup (s : State) (site e : Nat) (x : Enc) : (s.setEnc site e x).sup = s.sup := rfl
@[simp] theorem State.setEnc_fios (s : State) (site e : Nat) (x : Enc) : (s.setEnc site e x).fios = s.fios := rfl
@[simp] theorem State.setEnc_ticks (s : State) (site e : Nat) (x : Enc) : (s.setEnc site e x).ticks = s.ticks := rfl
@[simp] theorem State.setEnc_poss (s : State) (site e : Nat) (x : Enc) : (s.setEnc site e x).poss = s.poss := rfl
@[simp] theorem State.setEnc_cevs (s : State) (site e : Nat) (x : Enc) : (s.setEnc site e x).cevs = s.cevs := rfl
@[simp] theorem State.setEnc_segArms (s : State) (site e : Nat) (x : Enc) : (s.setEnc site e x).segArms = s.segArms := rfl
@[simp] theorem State.setEnc_slots (s : State) (site e : Nat) (x : Enc) : (s.setEnc site e x).slots = s.slots := rfl
@[simp] theorem State.setEnc_groups (s : State) (site e : Nat) (x : Enc) : (s.setEnc site e x).groups = s.groups := rfl
@[simp] theorem State.setEnc_order (s : State) (site e : Nat) (x : Enc) : (s.setEnc site e x).order = s.order := rfl
@[simp] theorem State.setEnc_meters (s : State) (site e : Nat) (x : Enc) : (s.setEnc site e x).meters = s.meters := rfl
@[simp] theorem State.setEnc_calibs (s : State) (site e : Nat) (x : Enc) : (s.setEnc site e x).calibs = s.calibs := rfl
@[simp] theorem State.setEnc_gaffer (s : State) (site e : Nat) (x : Enc) : (s.setEnc site e x).gaffer = s.gaffer := rfl
@[simp] theorem State.setEnc_tenants (s : State) (site e : Nat) (x : Enc) : (s.setEnc site e x).tenants = s.tenants := rfl
@[simp] theorem State.setEnc_sec (s : State) (site e : Nat) (x : Enc) : (s.setEnc site e x).sec = s.sec := rfl
@[simp] theorem State.setEnc_ens (s : State) (site e : Nat) (x : Enc) : (s.setEnc site e x).ens = s.ens := rfl
@[simp] theorem State.setEnc_ports (s : State) (site e : Nat) (x : Enc) : (s.setEnc site e x).ports = s.ports := rfl
@[simp] theorem State.setEnc_mons (s : State) (site e : Nat) (x : Enc) : (s.setEnc site e x).mons = s.mons := rfl
@[simp] theorem State.setEnc_boot (s : State) (site e : Nat) (x : Enc) : (s.setEnc site e x).boot = s.boot := rfl
@[simp] theorem State.setEnc_ram (s : State) (site e : Nat) (x : Enc) : (s.setEnc site e x).ram = s.ram := rfl
@[simp] theorem State.setEnc_hmem (s : State) (site e : Nat) (x : Enc) : (s.setEnc site e x).hmem = s.hmem := rfl
@[simp] theorem State.setEnc_badCpl (s : State) (site e : Nat) (x : Enc) : (s.setEnc site e x).badCpl = s.badCpl := rfl
@[simp] theorem State.setEnc_mute (s : State) (site e : Nat) (x : Enc) : (s.setEnc site e x).mute = s.mute := rfl
@[simp] theorem State.setEnc_flash (s : State) (site e : Nat) (x : Enc) : (s.setEnc site e x).flash = s.flash := rfl
@[simp] theorem State.setEnc_weak (s : State) (site e : Nat) (x : Enc) : (s.setEnc site e x).weak = s.weak := rfl
@[simp] theorem State.setEnc_loads (s : State) (site e : Nat) (x : Enc) : (s.setEnc site e x).loads = s.loads := rfl
@[simp] theorem State.setEnc_restarts (s : State) (site e : Nat) (x : Enc) : (s.setEnc site e x).restarts = s.restarts := rfl
@[simp] theorem State.setEnc_rings (s : State) (site e : Nat) (x : Enc) : (s.setEnc site e x).rings = s.rings := rfl
@[simp] theorem State.setEnc_strms (s : State) (site e : Nat) (x : Enc) : (s.setEnc site e x).strms = s.strms := rfl
@[simp] theorem State.setEnc_gates (s : State) (site e : Nat) (x : Enc) : (s.setEnc site e x).gates = s.gates := rfl
@[simp] theorem State.setEnc_axes (s : State) (site e : Nat) (x : Enc) : (s.setEnc site e x).axes = s.axes := rfl
@[simp] theorem State.setEnc_grps (s : State) (site e : Nat) (x : Enc) : (s.setEnc site e x).grps = s.grps := rfl
@[simp] theorem State.setEnc_slotRings (s : State) (site e : Nat) (x : Enc) : (s.setEnc site e x).slotRings = s.slotRings := rfl
@[simp] theorem State.setEnc_cueQs (s : State) (site e : Nat) (x : Enc) : (s.setEnc site e x).cueQs = s.cueQs := rfl
@[simp] theorem State.setEnc_binFlags (s : State) (site e : Nat) (x : Enc) : (s.setEnc site e x).binFlags = s.binFlags := rfl
@[simp] theorem State.setEnc_slates (s : State) (site e : Nat) (x : Enc) : (s.setEnc site e x).slates = s.slates := rfl
@[simp] theorem State.setEnc_gens (s : State) (site e : Nat) (x : Enc) : (s.setEnc site e x).gens = s.gens := rfl
@[simp] theorem State.setEnc_cancels (s : State) (site e : Nat) (x : Enc) : (s.setEnc site e x).cancels = s.cancels := rfl
@[simp] theorem State.setEnc_tqs (s : State) (site e : Nat) (x : Enc) : (s.setEnc site e x).tqs = s.tqs := rfl
@[simp] theorem State.setEnc_sched (s : State) (site e : Nat) (x : Enc) : (s.setEnc site e x).sched = s.sched := rfl
@[simp] theorem State.setEnc_dqs (s : State) (site e : Nat) (x : Enc) : (s.setEnc site e x).dqs = s.dqs := rfl
@[simp] theorem State.setEnc_cores (s : State) (site e : Nat) (x : Enc) : (s.setEnc site e x).cores = s.cores := rfl
@[simp] theorem State.setEnc_cmbs (s : State) (site e : Nat) (x : Enc) : (s.setEnc site e x).cmbs = s.cmbs := rfl
@[simp] theorem State.setEnc_engs (s : State) (site e : Nat) (x : Enc) : (s.setEnc site e x).engs = s.engs := rfl
@[simp] theorem State.setEnc_mmus (s : State) (site e : Nat) (x : Enc) : (s.setEnc site e x).mmus = s.mmus := rfl
@[simp] theorem State.setEnc_grans (s : State) (site e : Nat) (x : Enc) : (s.setEnc site e x).grans = s.grans := rfl
@[simp] theorem State.setEnc_granBusy (s : State) (site e : Nat) (x : Enc) : (s.setEnc site e x).granBusy = s.granBusy := rfl
@[simp] theorem State.setEnc_poison (s : State) (site e : Nat) (x : Enc) : (s.setEnc site e x).poison = s.poison := rfl
@[simp] theorem State.setEnc_buckets (s : State) (site e : Nat) (x : Enc) : (s.setEnc site e x).buckets = s.buckets := rfl
@[simp] theorem State.setEnc_arbs (s : State) (site e : Nat) (x : Enc) : (s.setEnc site e x).arbs = s.arbs := rfl
@[simp] theorem State.setEnc_capQs (s : State) (site e : Nat) (x : Enc) : (s.setEnc site e x).capQs = s.capQs := rfl
@[simp] theorem State.setEnc_avs (s : State) (site e : Nat) (x : Enc) : (s.setEnc site e x).avs = s.avs := rfl
@[simp] theorem State.setEnc_bndTaken (s : State) (site e : Nat) (x : Enc) : (s.setEnc site e x).bndTaken = s.bndTaken := rfl
@[simp] theorem State.setEnc_ces (s : State) (site e : Nat) (x : Enc) : (s.setEnc site e x).ces = s.ces := rfl
@[simp] theorem State.setEnc_scrubs (s : State) (site e : Nat) (x : Enc) : (s.setEnc site e x).scrubs = s.scrubs := rfl
@[simp] theorem State.setEnc_free (s : State) (site e : Nat) (x : Enc) : (s.setEnc site e x).free = s.free := rfl
@[simp] theorem State.setEnc_pending (s : State) (site e : Nat) (x : Enc) : (s.setEnc site e x).pending = s.pending := rfl
@[simp] theorem State.setEnc_reg (s : State) (site e : Nat) (x : Enc) (a_ : Nat) : (s.setEnc site e x).reg a_ = s.reg a_ := rfl
@[simp] theorem State.setStrm_asm (s : State) (site k : Nat) (x : Strm) : (s.setStrm site k x).asm = s.asm := rfl
@[simp] theorem State.setStrm_lead (s : State) (site k : Nat) (x : Strm) : (s.setStrm site k x).lead = s.lead := rfl
@[simp] theorem State.setStrm_regs (s : State) (site k : Nat) (x : Strm) : (s.setStrm site k x).regs = s.regs := rfl
@[simp] theorem State.setStrm_latch (s : State) (site k : Nat) (x : Strm) : (s.setStrm site k x).latch = s.latch := rfl
@[simp] theorem State.setStrm_rdata (s : State) (site k : Nat) (x : Strm) : (s.setStrm site k x).rdata = s.rdata := rfl
@[simp] theorem State.setStrm_rdataHi (s : State) (site k : Nat) (x : Strm) : (s.setStrm site k x).rdataHi = s.rdataHi := rfl
@[simp] theorem State.setStrm_back (s : State) (site k : Nat) (x : Strm) : (s.setStrm site k x).back = s.back := rfl
@[simp] theorem State.setStrm_bar2 (s : State) (site k : Nat) (x : Strm) : (s.setStrm site k x).bar2 = s.bar2 := rfl
@[simp] theorem State.setStrm_out (s : State) (site k : Nat) (x : Strm) : (s.setStrm site k x).out = s.out := rfl
@[simp] theorem State.setStrm_now (s : State) (site k : Nat) (x : Strm) : (s.setStrm site k x).now = s.now := rfl
@[simp] theorem State.setStrm_clapper (s : State) (site k : Nat) (x : Strm) : (s.setStrm site k x).clapper = s.clapper := rfl
@[simp] theorem State.setStrm_clk (s : State) (site k : Nat) (x : Strm) : (s.setStrm site k x).clk = s.clk := rfl
@[simp] theorem State.setStrm_sup (s : State) (site k : Nat) (x : Strm) : (s.setStrm site k x).sup = s.sup := rfl
@[simp] theorem State.setStrm_fios (s : State) (site k : Nat) (x : Strm) : (s.setStrm site k x).fios = s.fios := rfl
@[simp] theorem State.setStrm_ticks (s : State) (site k : Nat) (x : Strm) : (s.setStrm site k x).ticks = s.ticks := rfl
@[simp] theorem State.setStrm_encs (s : State) (site k : Nat) (x : Strm) : (s.setStrm site k x).encs = s.encs := rfl
@[simp] theorem State.setStrm_poss (s : State) (site k : Nat) (x : Strm) : (s.setStrm site k x).poss = s.poss := rfl
@[simp] theorem State.setStrm_cevs (s : State) (site k : Nat) (x : Strm) : (s.setStrm site k x).cevs = s.cevs := rfl
@[simp] theorem State.setStrm_segArms (s : State) (site k : Nat) (x : Strm) : (s.setStrm site k x).segArms = s.segArms := rfl
@[simp] theorem State.setStrm_slots (s : State) (site k : Nat) (x : Strm) : (s.setStrm site k x).slots = s.slots := rfl
@[simp] theorem State.setStrm_groups (s : State) (site k : Nat) (x : Strm) : (s.setStrm site k x).groups = s.groups := rfl
@[simp] theorem State.setStrm_order (s : State) (site k : Nat) (x : Strm) : (s.setStrm site k x).order = s.order := rfl
@[simp] theorem State.setStrm_meters (s : State) (site k : Nat) (x : Strm) : (s.setStrm site k x).meters = s.meters := rfl
@[simp] theorem State.setStrm_calibs (s : State) (site k : Nat) (x : Strm) : (s.setStrm site k x).calibs = s.calibs := rfl
@[simp] theorem State.setStrm_gaffer (s : State) (site k : Nat) (x : Strm) : (s.setStrm site k x).gaffer = s.gaffer := rfl
@[simp] theorem State.setStrm_tenants (s : State) (site k : Nat) (x : Strm) : (s.setStrm site k x).tenants = s.tenants := rfl
@[simp] theorem State.setStrm_sec (s : State) (site k : Nat) (x : Strm) : (s.setStrm site k x).sec = s.sec := rfl
@[simp] theorem State.setStrm_ens (s : State) (site k : Nat) (x : Strm) : (s.setStrm site k x).ens = s.ens := rfl
@[simp] theorem State.setStrm_ports (s : State) (site k : Nat) (x : Strm) : (s.setStrm site k x).ports = s.ports := rfl
@[simp] theorem State.setStrm_mons (s : State) (site k : Nat) (x : Strm) : (s.setStrm site k x).mons = s.mons := rfl
@[simp] theorem State.setStrm_boot (s : State) (site k : Nat) (x : Strm) : (s.setStrm site k x).boot = s.boot := rfl
@[simp] theorem State.setStrm_ram (s : State) (site k : Nat) (x : Strm) : (s.setStrm site k x).ram = s.ram := rfl
@[simp] theorem State.setStrm_hmem (s : State) (site k : Nat) (x : Strm) : (s.setStrm site k x).hmem = s.hmem := rfl
@[simp] theorem State.setStrm_badCpl (s : State) (site k : Nat) (x : Strm) : (s.setStrm site k x).badCpl = s.badCpl := rfl
@[simp] theorem State.setStrm_mute (s : State) (site k : Nat) (x : Strm) : (s.setStrm site k x).mute = s.mute := rfl
@[simp] theorem State.setStrm_flash (s : State) (site k : Nat) (x : Strm) : (s.setStrm site k x).flash = s.flash := rfl
@[simp] theorem State.setStrm_weak (s : State) (site k : Nat) (x : Strm) : (s.setStrm site k x).weak = s.weak := rfl
@[simp] theorem State.setStrm_loads (s : State) (site k : Nat) (x : Strm) : (s.setStrm site k x).loads = s.loads := rfl
@[simp] theorem State.setStrm_restarts (s : State) (site k : Nat) (x : Strm) : (s.setStrm site k x).restarts = s.restarts := rfl
@[simp] theorem State.setStrm_rings (s : State) (site k : Nat) (x : Strm) : (s.setStrm site k x).rings = s.rings := rfl
@[simp] theorem State.setStrm_gates (s : State) (site k : Nat) (x : Strm) : (s.setStrm site k x).gates = s.gates := rfl
@[simp] theorem State.setStrm_axes (s : State) (site k : Nat) (x : Strm) : (s.setStrm site k x).axes = s.axes := rfl
@[simp] theorem State.setStrm_grps (s : State) (site k : Nat) (x : Strm) : (s.setStrm site k x).grps = s.grps := rfl
@[simp] theorem State.setStrm_slotRings (s : State) (site k : Nat) (x : Strm) : (s.setStrm site k x).slotRings = s.slotRings := rfl
@[simp] theorem State.setStrm_cueQs (s : State) (site k : Nat) (x : Strm) : (s.setStrm site k x).cueQs = s.cueQs := rfl
@[simp] theorem State.setStrm_binFlags (s : State) (site k : Nat) (x : Strm) : (s.setStrm site k x).binFlags = s.binFlags := rfl
@[simp] theorem State.setStrm_slates (s : State) (site k : Nat) (x : Strm) : (s.setStrm site k x).slates = s.slates := rfl
@[simp] theorem State.setStrm_gens (s : State) (site k : Nat) (x : Strm) : (s.setStrm site k x).gens = s.gens := rfl
@[simp] theorem State.setStrm_cancels (s : State) (site k : Nat) (x : Strm) : (s.setStrm site k x).cancels = s.cancels := rfl
@[simp] theorem State.setStrm_tqs (s : State) (site k : Nat) (x : Strm) : (s.setStrm site k x).tqs = s.tqs := rfl
@[simp] theorem State.setStrm_sched (s : State) (site k : Nat) (x : Strm) : (s.setStrm site k x).sched = s.sched := rfl
@[simp] theorem State.setStrm_dqs (s : State) (site k : Nat) (x : Strm) : (s.setStrm site k x).dqs = s.dqs := rfl
@[simp] theorem State.setStrm_cores (s : State) (site k : Nat) (x : Strm) : (s.setStrm site k x).cores = s.cores := rfl
@[simp] theorem State.setStrm_cmbs (s : State) (site k : Nat) (x : Strm) : (s.setStrm site k x).cmbs = s.cmbs := rfl
@[simp] theorem State.setStrm_engs (s : State) (site k : Nat) (x : Strm) : (s.setStrm site k x).engs = s.engs := rfl
@[simp] theorem State.setStrm_mmus (s : State) (site k : Nat) (x : Strm) : (s.setStrm site k x).mmus = s.mmus := rfl
@[simp] theorem State.setStrm_grans (s : State) (site k : Nat) (x : Strm) : (s.setStrm site k x).grans = s.grans := rfl
@[simp] theorem State.setStrm_granBusy (s : State) (site k : Nat) (x : Strm) : (s.setStrm site k x).granBusy = s.granBusy := rfl
@[simp] theorem State.setStrm_poison (s : State) (site k : Nat) (x : Strm) : (s.setStrm site k x).poison = s.poison := rfl
@[simp] theorem State.setStrm_buckets (s : State) (site k : Nat) (x : Strm) : (s.setStrm site k x).buckets = s.buckets := rfl
@[simp] theorem State.setStrm_arbs (s : State) (site k : Nat) (x : Strm) : (s.setStrm site k x).arbs = s.arbs := rfl
@[simp] theorem State.setStrm_capQs (s : State) (site k : Nat) (x : Strm) : (s.setStrm site k x).capQs = s.capQs := rfl
@[simp] theorem State.setStrm_avs (s : State) (site k : Nat) (x : Strm) : (s.setStrm site k x).avs = s.avs := rfl
@[simp] theorem State.setStrm_bndTaken (s : State) (site k : Nat) (x : Strm) : (s.setStrm site k x).bndTaken = s.bndTaken := rfl
@[simp] theorem State.setStrm_ces (s : State) (site k : Nat) (x : Strm) : (s.setStrm site k x).ces = s.ces := rfl
@[simp] theorem State.setStrm_scrubs (s : State) (site k : Nat) (x : Strm) : (s.setStrm site k x).scrubs = s.scrubs := rfl
@[simp] theorem State.setStrm_free (s : State) (site k : Nat) (x : Strm) : (s.setStrm site k x).free = s.free := rfl
@[simp] theorem State.setStrm_pending (s : State) (site k : Nat) (x : Strm) : (s.setStrm site k x).pending = s.pending := rfl
@[simp] theorem State.setStrm_reg (s : State) (site k : Nat) (x : Strm) (a_ : Nat) : (s.setStrm site k x).reg a_ = s.reg a_ := rfl
@[simp] theorem State.setGate_asm (s : State) (site g : Nat) (x : Gate) : (s.setGate site g x).asm = s.asm := rfl
@[simp] theorem State.setGate_lead (s : State) (site g : Nat) (x : Gate) : (s.setGate site g x).lead = s.lead := rfl
@[simp] theorem State.setGate_regs (s : State) (site g : Nat) (x : Gate) : (s.setGate site g x).regs = s.regs := rfl
@[simp] theorem State.setGate_latch (s : State) (site g : Nat) (x : Gate) : (s.setGate site g x).latch = s.latch := rfl
@[simp] theorem State.setGate_rdata (s : State) (site g : Nat) (x : Gate) : (s.setGate site g x).rdata = s.rdata := rfl
@[simp] theorem State.setGate_rdataHi (s : State) (site g : Nat) (x : Gate) : (s.setGate site g x).rdataHi = s.rdataHi := rfl
@[simp] theorem State.setGate_back (s : State) (site g : Nat) (x : Gate) : (s.setGate site g x).back = s.back := rfl
@[simp] theorem State.setGate_bar2 (s : State) (site g : Nat) (x : Gate) : (s.setGate site g x).bar2 = s.bar2 := rfl
@[simp] theorem State.setGate_out (s : State) (site g : Nat) (x : Gate) : (s.setGate site g x).out = s.out := rfl
@[simp] theorem State.setGate_now (s : State) (site g : Nat) (x : Gate) : (s.setGate site g x).now = s.now := rfl
@[simp] theorem State.setGate_clapper (s : State) (site g : Nat) (x : Gate) : (s.setGate site g x).clapper = s.clapper := rfl
@[simp] theorem State.setGate_clk (s : State) (site g : Nat) (x : Gate) : (s.setGate site g x).clk = s.clk := rfl
@[simp] theorem State.setGate_sup (s : State) (site g : Nat) (x : Gate) : (s.setGate site g x).sup = s.sup := rfl
@[simp] theorem State.setGate_fios (s : State) (site g : Nat) (x : Gate) : (s.setGate site g x).fios = s.fios := rfl
@[simp] theorem State.setGate_ticks (s : State) (site g : Nat) (x : Gate) : (s.setGate site g x).ticks = s.ticks := rfl
@[simp] theorem State.setGate_encs (s : State) (site g : Nat) (x : Gate) : (s.setGate site g x).encs = s.encs := rfl
@[simp] theorem State.setGate_poss (s : State) (site g : Nat) (x : Gate) : (s.setGate site g x).poss = s.poss := rfl
@[simp] theorem State.setGate_cevs (s : State) (site g : Nat) (x : Gate) : (s.setGate site g x).cevs = s.cevs := rfl
@[simp] theorem State.setGate_segArms (s : State) (site g : Nat) (x : Gate) : (s.setGate site g x).segArms = s.segArms := rfl
@[simp] theorem State.setGate_slots (s : State) (site g : Nat) (x : Gate) : (s.setGate site g x).slots = s.slots := rfl
@[simp] theorem State.setGate_groups (s : State) (site g : Nat) (x : Gate) : (s.setGate site g x).groups = s.groups := rfl
@[simp] theorem State.setGate_order (s : State) (site g : Nat) (x : Gate) : (s.setGate site g x).order = s.order := rfl
@[simp] theorem State.setGate_meters (s : State) (site g : Nat) (x : Gate) : (s.setGate site g x).meters = s.meters := rfl
@[simp] theorem State.setGate_calibs (s : State) (site g : Nat) (x : Gate) : (s.setGate site g x).calibs = s.calibs := rfl
@[simp] theorem State.setGate_gaffer (s : State) (site g : Nat) (x : Gate) : (s.setGate site g x).gaffer = s.gaffer := rfl
@[simp] theorem State.setGate_tenants (s : State) (site g : Nat) (x : Gate) : (s.setGate site g x).tenants = s.tenants := rfl
@[simp] theorem State.setGate_sec (s : State) (site g : Nat) (x : Gate) : (s.setGate site g x).sec = s.sec := rfl
@[simp] theorem State.setGate_ens (s : State) (site g : Nat) (x : Gate) : (s.setGate site g x).ens = s.ens := rfl
@[simp] theorem State.setGate_ports (s : State) (site g : Nat) (x : Gate) : (s.setGate site g x).ports = s.ports := rfl
@[simp] theorem State.setGate_mons (s : State) (site g : Nat) (x : Gate) : (s.setGate site g x).mons = s.mons := rfl
@[simp] theorem State.setGate_boot (s : State) (site g : Nat) (x : Gate) : (s.setGate site g x).boot = s.boot := rfl
@[simp] theorem State.setGate_ram (s : State) (site g : Nat) (x : Gate) : (s.setGate site g x).ram = s.ram := rfl
@[simp] theorem State.setGate_hmem (s : State) (site g : Nat) (x : Gate) : (s.setGate site g x).hmem = s.hmem := rfl
@[simp] theorem State.setGate_badCpl (s : State) (site g : Nat) (x : Gate) : (s.setGate site g x).badCpl = s.badCpl := rfl
@[simp] theorem State.setGate_mute (s : State) (site g : Nat) (x : Gate) : (s.setGate site g x).mute = s.mute := rfl
@[simp] theorem State.setGate_flash (s : State) (site g : Nat) (x : Gate) : (s.setGate site g x).flash = s.flash := rfl
@[simp] theorem State.setGate_weak (s : State) (site g : Nat) (x : Gate) : (s.setGate site g x).weak = s.weak := rfl
@[simp] theorem State.setGate_loads (s : State) (site g : Nat) (x : Gate) : (s.setGate site g x).loads = s.loads := rfl
@[simp] theorem State.setGate_restarts (s : State) (site g : Nat) (x : Gate) : (s.setGate site g x).restarts = s.restarts := rfl
@[simp] theorem State.setGate_rings (s : State) (site g : Nat) (x : Gate) : (s.setGate site g x).rings = s.rings := rfl
@[simp] theorem State.setGate_strms (s : State) (site g : Nat) (x : Gate) : (s.setGate site g x).strms = s.strms := rfl
@[simp] theorem State.setGate_axes (s : State) (site g : Nat) (x : Gate) : (s.setGate site g x).axes = s.axes := rfl
@[simp] theorem State.setGate_grps (s : State) (site g : Nat) (x : Gate) : (s.setGate site g x).grps = s.grps := rfl
@[simp] theorem State.setGate_slotRings (s : State) (site g : Nat) (x : Gate) : (s.setGate site g x).slotRings = s.slotRings := rfl
@[simp] theorem State.setGate_cueQs (s : State) (site g : Nat) (x : Gate) : (s.setGate site g x).cueQs = s.cueQs := rfl
@[simp] theorem State.setGate_binFlags (s : State) (site g : Nat) (x : Gate) : (s.setGate site g x).binFlags = s.binFlags := rfl
@[simp] theorem State.setGate_slates (s : State) (site g : Nat) (x : Gate) : (s.setGate site g x).slates = s.slates := rfl
@[simp] theorem State.setGate_gens (s : State) (site g : Nat) (x : Gate) : (s.setGate site g x).gens = s.gens := rfl
@[simp] theorem State.setGate_cancels (s : State) (site g : Nat) (x : Gate) : (s.setGate site g x).cancels = s.cancels := rfl
@[simp] theorem State.setGate_tqs (s : State) (site g : Nat) (x : Gate) : (s.setGate site g x).tqs = s.tqs := rfl
@[simp] theorem State.setGate_sched (s : State) (site g : Nat) (x : Gate) : (s.setGate site g x).sched = s.sched := rfl
@[simp] theorem State.setGate_dqs (s : State) (site g : Nat) (x : Gate) : (s.setGate site g x).dqs = s.dqs := rfl
@[simp] theorem State.setGate_cores (s : State) (site g : Nat) (x : Gate) : (s.setGate site g x).cores = s.cores := rfl
@[simp] theorem State.setGate_cmbs (s : State) (site g : Nat) (x : Gate) : (s.setGate site g x).cmbs = s.cmbs := rfl
@[simp] theorem State.setGate_engs (s : State) (site g : Nat) (x : Gate) : (s.setGate site g x).engs = s.engs := rfl
@[simp] theorem State.setGate_mmus (s : State) (site g : Nat) (x : Gate) : (s.setGate site g x).mmus = s.mmus := rfl
@[simp] theorem State.setGate_grans (s : State) (site g : Nat) (x : Gate) : (s.setGate site g x).grans = s.grans := rfl
@[simp] theorem State.setGate_granBusy (s : State) (site g : Nat) (x : Gate) : (s.setGate site g x).granBusy = s.granBusy := rfl
@[simp] theorem State.setGate_poison (s : State) (site g : Nat) (x : Gate) : (s.setGate site g x).poison = s.poison := rfl
@[simp] theorem State.setGate_buckets (s : State) (site g : Nat) (x : Gate) : (s.setGate site g x).buckets = s.buckets := rfl
@[simp] theorem State.setGate_arbs (s : State) (site g : Nat) (x : Gate) : (s.setGate site g x).arbs = s.arbs := rfl
@[simp] theorem State.setGate_capQs (s : State) (site g : Nat) (x : Gate) : (s.setGate site g x).capQs = s.capQs := rfl
@[simp] theorem State.setGate_avs (s : State) (site g : Nat) (x : Gate) : (s.setGate site g x).avs = s.avs := rfl
@[simp] theorem State.setGate_bndTaken (s : State) (site g : Nat) (x : Gate) : (s.setGate site g x).bndTaken = s.bndTaken := rfl
@[simp] theorem State.setGate_ces (s : State) (site g : Nat) (x : Gate) : (s.setGate site g x).ces = s.ces := rfl
@[simp] theorem State.setGate_scrubs (s : State) (site g : Nat) (x : Gate) : (s.setGate site g x).scrubs = s.scrubs := rfl
@[simp] theorem State.setGate_free (s : State) (site g : Nat) (x : Gate) : (s.setGate site g x).free = s.free := rfl
@[simp] theorem State.setGate_pending (s : State) (site g : Nat) (x : Gate) : (s.setGate site g x).pending = s.pending := rfl
@[simp] theorem State.setGate_reg (s : State) (site g : Nat) (x : Gate) (a_ : Nat) : (s.setGate site g x).reg a_ = s.reg a_ := rfl
@[simp] theorem State.setAxis_asm (s : State) (site a : Nat) (x : Axis) : (s.setAxis site a x).asm = s.asm := rfl
@[simp] theorem State.setAxis_lead (s : State) (site a : Nat) (x : Axis) : (s.setAxis site a x).lead = s.lead := rfl
@[simp] theorem State.setAxis_regs (s : State) (site a : Nat) (x : Axis) : (s.setAxis site a x).regs = s.regs := rfl
@[simp] theorem State.setAxis_latch (s : State) (site a : Nat) (x : Axis) : (s.setAxis site a x).latch = s.latch := rfl
@[simp] theorem State.setAxis_rdata (s : State) (site a : Nat) (x : Axis) : (s.setAxis site a x).rdata = s.rdata := rfl
@[simp] theorem State.setAxis_rdataHi (s : State) (site a : Nat) (x : Axis) : (s.setAxis site a x).rdataHi = s.rdataHi := rfl
@[simp] theorem State.setAxis_back (s : State) (site a : Nat) (x : Axis) : (s.setAxis site a x).back = s.back := rfl
@[simp] theorem State.setAxis_bar2 (s : State) (site a : Nat) (x : Axis) : (s.setAxis site a x).bar2 = s.bar2 := rfl
@[simp] theorem State.setAxis_out (s : State) (site a : Nat) (x : Axis) : (s.setAxis site a x).out = s.out := rfl
@[simp] theorem State.setAxis_now (s : State) (site a : Nat) (x : Axis) : (s.setAxis site a x).now = s.now := rfl
@[simp] theorem State.setAxis_clapper (s : State) (site a : Nat) (x : Axis) : (s.setAxis site a x).clapper = s.clapper := rfl
@[simp] theorem State.setAxis_clk (s : State) (site a : Nat) (x : Axis) : (s.setAxis site a x).clk = s.clk := rfl
@[simp] theorem State.setAxis_sup (s : State) (site a : Nat) (x : Axis) : (s.setAxis site a x).sup = s.sup := rfl
@[simp] theorem State.setAxis_fios (s : State) (site a : Nat) (x : Axis) : (s.setAxis site a x).fios = s.fios := rfl
@[simp] theorem State.setAxis_ticks (s : State) (site a : Nat) (x : Axis) : (s.setAxis site a x).ticks = s.ticks := rfl
@[simp] theorem State.setAxis_encs (s : State) (site a : Nat) (x : Axis) : (s.setAxis site a x).encs = s.encs := rfl
@[simp] theorem State.setAxis_poss (s : State) (site a : Nat) (x : Axis) : (s.setAxis site a x).poss = s.poss := rfl
@[simp] theorem State.setAxis_cevs (s : State) (site a : Nat) (x : Axis) : (s.setAxis site a x).cevs = s.cevs := rfl
@[simp] theorem State.setAxis_segArms (s : State) (site a : Nat) (x : Axis) : (s.setAxis site a x).segArms = s.segArms := rfl
@[simp] theorem State.setAxis_slots (s : State) (site a : Nat) (x : Axis) : (s.setAxis site a x).slots = s.slots := rfl
@[simp] theorem State.setAxis_groups (s : State) (site a : Nat) (x : Axis) : (s.setAxis site a x).groups = s.groups := rfl
@[simp] theorem State.setAxis_order (s : State) (site a : Nat) (x : Axis) : (s.setAxis site a x).order = s.order := rfl
@[simp] theorem State.setAxis_meters (s : State) (site a : Nat) (x : Axis) : (s.setAxis site a x).meters = s.meters := rfl
@[simp] theorem State.setAxis_calibs (s : State) (site a : Nat) (x : Axis) : (s.setAxis site a x).calibs = s.calibs := rfl
@[simp] theorem State.setAxis_gaffer (s : State) (site a : Nat) (x : Axis) : (s.setAxis site a x).gaffer = s.gaffer := rfl
@[simp] theorem State.setAxis_tenants (s : State) (site a : Nat) (x : Axis) : (s.setAxis site a x).tenants = s.tenants := rfl
@[simp] theorem State.setAxis_sec (s : State) (site a : Nat) (x : Axis) : (s.setAxis site a x).sec = s.sec := rfl
@[simp] theorem State.setAxis_ens (s : State) (site a : Nat) (x : Axis) : (s.setAxis site a x).ens = s.ens := rfl
@[simp] theorem State.setAxis_ports (s : State) (site a : Nat) (x : Axis) : (s.setAxis site a x).ports = s.ports := rfl
@[simp] theorem State.setAxis_mons (s : State) (site a : Nat) (x : Axis) : (s.setAxis site a x).mons = s.mons := rfl
@[simp] theorem State.setAxis_boot (s : State) (site a : Nat) (x : Axis) : (s.setAxis site a x).boot = s.boot := rfl
@[simp] theorem State.setAxis_ram (s : State) (site a : Nat) (x : Axis) : (s.setAxis site a x).ram = s.ram := rfl
@[simp] theorem State.setAxis_hmem (s : State) (site a : Nat) (x : Axis) : (s.setAxis site a x).hmem = s.hmem := rfl
@[simp] theorem State.setAxis_badCpl (s : State) (site a : Nat) (x : Axis) : (s.setAxis site a x).badCpl = s.badCpl := rfl
@[simp] theorem State.setAxis_mute (s : State) (site a : Nat) (x : Axis) : (s.setAxis site a x).mute = s.mute := rfl
@[simp] theorem State.setAxis_flash (s : State) (site a : Nat) (x : Axis) : (s.setAxis site a x).flash = s.flash := rfl
@[simp] theorem State.setAxis_weak (s : State) (site a : Nat) (x : Axis) : (s.setAxis site a x).weak = s.weak := rfl
@[simp] theorem State.setAxis_loads (s : State) (site a : Nat) (x : Axis) : (s.setAxis site a x).loads = s.loads := rfl
@[simp] theorem State.setAxis_restarts (s : State) (site a : Nat) (x : Axis) : (s.setAxis site a x).restarts = s.restarts := rfl
@[simp] theorem State.setAxis_rings (s : State) (site a : Nat) (x : Axis) : (s.setAxis site a x).rings = s.rings := rfl
@[simp] theorem State.setAxis_strms (s : State) (site a : Nat) (x : Axis) : (s.setAxis site a x).strms = s.strms := rfl
@[simp] theorem State.setAxis_gates (s : State) (site a : Nat) (x : Axis) : (s.setAxis site a x).gates = s.gates := rfl
@[simp] theorem State.setAxis_grps (s : State) (site a : Nat) (x : Axis) : (s.setAxis site a x).grps = s.grps := rfl
@[simp] theorem State.setAxis_slotRings (s : State) (site a : Nat) (x : Axis) : (s.setAxis site a x).slotRings = s.slotRings := rfl
@[simp] theorem State.setAxis_cueQs (s : State) (site a : Nat) (x : Axis) : (s.setAxis site a x).cueQs = s.cueQs := rfl
@[simp] theorem State.setAxis_binFlags (s : State) (site a : Nat) (x : Axis) : (s.setAxis site a x).binFlags = s.binFlags := rfl
@[simp] theorem State.setAxis_slates (s : State) (site a : Nat) (x : Axis) : (s.setAxis site a x).slates = s.slates := rfl
@[simp] theorem State.setAxis_gens (s : State) (site a : Nat) (x : Axis) : (s.setAxis site a x).gens = s.gens := rfl
@[simp] theorem State.setAxis_cancels (s : State) (site a : Nat) (x : Axis) : (s.setAxis site a x).cancels = s.cancels := rfl
@[simp] theorem State.setAxis_tqs (s : State) (site a : Nat) (x : Axis) : (s.setAxis site a x).tqs = s.tqs := rfl
@[simp] theorem State.setAxis_sched (s : State) (site a : Nat) (x : Axis) : (s.setAxis site a x).sched = s.sched := rfl
@[simp] theorem State.setAxis_dqs (s : State) (site a : Nat) (x : Axis) : (s.setAxis site a x).dqs = s.dqs := rfl
@[simp] theorem State.setAxis_cores (s : State) (site a : Nat) (x : Axis) : (s.setAxis site a x).cores = s.cores := rfl
@[simp] theorem State.setAxis_cmbs (s : State) (site a : Nat) (x : Axis) : (s.setAxis site a x).cmbs = s.cmbs := rfl
@[simp] theorem State.setAxis_engs (s : State) (site a : Nat) (x : Axis) : (s.setAxis site a x).engs = s.engs := rfl
@[simp] theorem State.setAxis_mmus (s : State) (site a : Nat) (x : Axis) : (s.setAxis site a x).mmus = s.mmus := rfl
@[simp] theorem State.setAxis_grans (s : State) (site a : Nat) (x : Axis) : (s.setAxis site a x).grans = s.grans := rfl
@[simp] theorem State.setAxis_granBusy (s : State) (site a : Nat) (x : Axis) : (s.setAxis site a x).granBusy = s.granBusy := rfl
@[simp] theorem State.setAxis_poison (s : State) (site a : Nat) (x : Axis) : (s.setAxis site a x).poison = s.poison := rfl
@[simp] theorem State.setAxis_buckets (s : State) (site a : Nat) (x : Axis) : (s.setAxis site a x).buckets = s.buckets := rfl
@[simp] theorem State.setAxis_arbs (s : State) (site a : Nat) (x : Axis) : (s.setAxis site a x).arbs = s.arbs := rfl
@[simp] theorem State.setAxis_capQs (s : State) (site a : Nat) (x : Axis) : (s.setAxis site a x).capQs = s.capQs := rfl
@[simp] theorem State.setAxis_avs (s : State) (site a : Nat) (x : Axis) : (s.setAxis site a x).avs = s.avs := rfl
@[simp] theorem State.setAxis_bndTaken (s : State) (site a : Nat) (x : Axis) : (s.setAxis site a x).bndTaken = s.bndTaken := rfl
@[simp] theorem State.setAxis_ces (s : State) (site a : Nat) (x : Axis) : (s.setAxis site a x).ces = s.ces := rfl
@[simp] theorem State.setAxis_scrubs (s : State) (site a : Nat) (x : Axis) : (s.setAxis site a x).scrubs = s.scrubs := rfl
@[simp] theorem State.setAxis_free (s : State) (site a : Nat) (x : Axis) : (s.setAxis site a x).free = s.free := rfl
@[simp] theorem State.setAxis_pending (s : State) (site a : Nat) (x : Axis) : (s.setAxis site a x).pending = s.pending := rfl
@[simp] theorem State.setAxis_reg (s : State) (site a : Nat) (x : Axis) (a_ : Nat) : (s.setAxis site a x).reg a_ = s.reg a_ := rfl
@[simp] theorem State.setGrp_asm (s : State) (site g : Nat) (x : Grp) : (s.setGrp site g x).asm = s.asm := rfl
@[simp] theorem State.setGrp_lead (s : State) (site g : Nat) (x : Grp) : (s.setGrp site g x).lead = s.lead := rfl
@[simp] theorem State.setGrp_regs (s : State) (site g : Nat) (x : Grp) : (s.setGrp site g x).regs = s.regs := rfl
@[simp] theorem State.setGrp_latch (s : State) (site g : Nat) (x : Grp) : (s.setGrp site g x).latch = s.latch := rfl
@[simp] theorem State.setGrp_rdata (s : State) (site g : Nat) (x : Grp) : (s.setGrp site g x).rdata = s.rdata := rfl
@[simp] theorem State.setGrp_rdataHi (s : State) (site g : Nat) (x : Grp) : (s.setGrp site g x).rdataHi = s.rdataHi := rfl
@[simp] theorem State.setGrp_back (s : State) (site g : Nat) (x : Grp) : (s.setGrp site g x).back = s.back := rfl
@[simp] theorem State.setGrp_bar2 (s : State) (site g : Nat) (x : Grp) : (s.setGrp site g x).bar2 = s.bar2 := rfl
@[simp] theorem State.setGrp_out (s : State) (site g : Nat) (x : Grp) : (s.setGrp site g x).out = s.out := rfl
@[simp] theorem State.setGrp_now (s : State) (site g : Nat) (x : Grp) : (s.setGrp site g x).now = s.now := rfl
@[simp] theorem State.setGrp_clapper (s : State) (site g : Nat) (x : Grp) : (s.setGrp site g x).clapper = s.clapper := rfl
@[simp] theorem State.setGrp_clk (s : State) (site g : Nat) (x : Grp) : (s.setGrp site g x).clk = s.clk := rfl
@[simp] theorem State.setGrp_sup (s : State) (site g : Nat) (x : Grp) : (s.setGrp site g x).sup = s.sup := rfl
@[simp] theorem State.setGrp_fios (s : State) (site g : Nat) (x : Grp) : (s.setGrp site g x).fios = s.fios := rfl
@[simp] theorem State.setGrp_ticks (s : State) (site g : Nat) (x : Grp) : (s.setGrp site g x).ticks = s.ticks := rfl
@[simp] theorem State.setGrp_encs (s : State) (site g : Nat) (x : Grp) : (s.setGrp site g x).encs = s.encs := rfl
@[simp] theorem State.setGrp_poss (s : State) (site g : Nat) (x : Grp) : (s.setGrp site g x).poss = s.poss := rfl
@[simp] theorem State.setGrp_cevs (s : State) (site g : Nat) (x : Grp) : (s.setGrp site g x).cevs = s.cevs := rfl
@[simp] theorem State.setGrp_segArms (s : State) (site g : Nat) (x : Grp) : (s.setGrp site g x).segArms = s.segArms := rfl
@[simp] theorem State.setGrp_slots (s : State) (site g : Nat) (x : Grp) : (s.setGrp site g x).slots = s.slots := rfl
@[simp] theorem State.setGrp_groups (s : State) (site g : Nat) (x : Grp) : (s.setGrp site g x).groups = s.groups := rfl
@[simp] theorem State.setGrp_order (s : State) (site g : Nat) (x : Grp) : (s.setGrp site g x).order = s.order := rfl
@[simp] theorem State.setGrp_meters (s : State) (site g : Nat) (x : Grp) : (s.setGrp site g x).meters = s.meters := rfl
@[simp] theorem State.setGrp_calibs (s : State) (site g : Nat) (x : Grp) : (s.setGrp site g x).calibs = s.calibs := rfl
@[simp] theorem State.setGrp_gaffer (s : State) (site g : Nat) (x : Grp) : (s.setGrp site g x).gaffer = s.gaffer := rfl
@[simp] theorem State.setGrp_tenants (s : State) (site g : Nat) (x : Grp) : (s.setGrp site g x).tenants = s.tenants := rfl
@[simp] theorem State.setGrp_sec (s : State) (site g : Nat) (x : Grp) : (s.setGrp site g x).sec = s.sec := rfl
@[simp] theorem State.setGrp_ens (s : State) (site g : Nat) (x : Grp) : (s.setGrp site g x).ens = s.ens := rfl
@[simp] theorem State.setGrp_ports (s : State) (site g : Nat) (x : Grp) : (s.setGrp site g x).ports = s.ports := rfl
@[simp] theorem State.setGrp_mons (s : State) (site g : Nat) (x : Grp) : (s.setGrp site g x).mons = s.mons := rfl
@[simp] theorem State.setGrp_boot (s : State) (site g : Nat) (x : Grp) : (s.setGrp site g x).boot = s.boot := rfl
@[simp] theorem State.setGrp_ram (s : State) (site g : Nat) (x : Grp) : (s.setGrp site g x).ram = s.ram := rfl
@[simp] theorem State.setGrp_hmem (s : State) (site g : Nat) (x : Grp) : (s.setGrp site g x).hmem = s.hmem := rfl
@[simp] theorem State.setGrp_badCpl (s : State) (site g : Nat) (x : Grp) : (s.setGrp site g x).badCpl = s.badCpl := rfl
@[simp] theorem State.setGrp_mute (s : State) (site g : Nat) (x : Grp) : (s.setGrp site g x).mute = s.mute := rfl
@[simp] theorem State.setGrp_flash (s : State) (site g : Nat) (x : Grp) : (s.setGrp site g x).flash = s.flash := rfl
@[simp] theorem State.setGrp_weak (s : State) (site g : Nat) (x : Grp) : (s.setGrp site g x).weak = s.weak := rfl
@[simp] theorem State.setGrp_loads (s : State) (site g : Nat) (x : Grp) : (s.setGrp site g x).loads = s.loads := rfl
@[simp] theorem State.setGrp_restarts (s : State) (site g : Nat) (x : Grp) : (s.setGrp site g x).restarts = s.restarts := rfl
@[simp] theorem State.setGrp_rings (s : State) (site g : Nat) (x : Grp) : (s.setGrp site g x).rings = s.rings := rfl
@[simp] theorem State.setGrp_strms (s : State) (site g : Nat) (x : Grp) : (s.setGrp site g x).strms = s.strms := rfl
@[simp] theorem State.setGrp_gates (s : State) (site g : Nat) (x : Grp) : (s.setGrp site g x).gates = s.gates := rfl
@[simp] theorem State.setGrp_axes (s : State) (site g : Nat) (x : Grp) : (s.setGrp site g x).axes = s.axes := rfl
@[simp] theorem State.setGrp_slotRings (s : State) (site g : Nat) (x : Grp) : (s.setGrp site g x).slotRings = s.slotRings := rfl
@[simp] theorem State.setGrp_cueQs (s : State) (site g : Nat) (x : Grp) : (s.setGrp site g x).cueQs = s.cueQs := rfl
@[simp] theorem State.setGrp_binFlags (s : State) (site g : Nat) (x : Grp) : (s.setGrp site g x).binFlags = s.binFlags := rfl
@[simp] theorem State.setGrp_slates (s : State) (site g : Nat) (x : Grp) : (s.setGrp site g x).slates = s.slates := rfl
@[simp] theorem State.setGrp_gens (s : State) (site g : Nat) (x : Grp) : (s.setGrp site g x).gens = s.gens := rfl
@[simp] theorem State.setGrp_cancels (s : State) (site g : Nat) (x : Grp) : (s.setGrp site g x).cancels = s.cancels := rfl
@[simp] theorem State.setGrp_tqs (s : State) (site g : Nat) (x : Grp) : (s.setGrp site g x).tqs = s.tqs := rfl
@[simp] theorem State.setGrp_sched (s : State) (site g : Nat) (x : Grp) : (s.setGrp site g x).sched = s.sched := rfl
@[simp] theorem State.setGrp_dqs (s : State) (site g : Nat) (x : Grp) : (s.setGrp site g x).dqs = s.dqs := rfl
@[simp] theorem State.setGrp_cores (s : State) (site g : Nat) (x : Grp) : (s.setGrp site g x).cores = s.cores := rfl
@[simp] theorem State.setGrp_cmbs (s : State) (site g : Nat) (x : Grp) : (s.setGrp site g x).cmbs = s.cmbs := rfl
@[simp] theorem State.setGrp_engs (s : State) (site g : Nat) (x : Grp) : (s.setGrp site g x).engs = s.engs := rfl
@[simp] theorem State.setGrp_mmus (s : State) (site g : Nat) (x : Grp) : (s.setGrp site g x).mmus = s.mmus := rfl
@[simp] theorem State.setGrp_grans (s : State) (site g : Nat) (x : Grp) : (s.setGrp site g x).grans = s.grans := rfl
@[simp] theorem State.setGrp_granBusy (s : State) (site g : Nat) (x : Grp) : (s.setGrp site g x).granBusy = s.granBusy := rfl
@[simp] theorem State.setGrp_poison (s : State) (site g : Nat) (x : Grp) : (s.setGrp site g x).poison = s.poison := rfl
@[simp] theorem State.setGrp_buckets (s : State) (site g : Nat) (x : Grp) : (s.setGrp site g x).buckets = s.buckets := rfl
@[simp] theorem State.setGrp_arbs (s : State) (site g : Nat) (x : Grp) : (s.setGrp site g x).arbs = s.arbs := rfl
@[simp] theorem State.setGrp_capQs (s : State) (site g : Nat) (x : Grp) : (s.setGrp site g x).capQs = s.capQs := rfl
@[simp] theorem State.setGrp_avs (s : State) (site g : Nat) (x : Grp) : (s.setGrp site g x).avs = s.avs := rfl
@[simp] theorem State.setGrp_bndTaken (s : State) (site g : Nat) (x : Grp) : (s.setGrp site g x).bndTaken = s.bndTaken := rfl
@[simp] theorem State.setGrp_ces (s : State) (site g : Nat) (x : Grp) : (s.setGrp site g x).ces = s.ces := rfl
@[simp] theorem State.setGrp_scrubs (s : State) (site g : Nat) (x : Grp) : (s.setGrp site g x).scrubs = s.scrubs := rfl
@[simp] theorem State.setGrp_free (s : State) (site g : Nat) (x : Grp) : (s.setGrp site g x).free = s.free := rfl
@[simp] theorem State.setGrp_pending (s : State) (site g : Nat) (x : Grp) : (s.setGrp site g x).pending = s.pending := rfl
@[simp] theorem State.setGrp_reg (s : State) (site g : Nat) (x : Grp) (a_ : Nat) : (s.setGrp site g x).reg a_ = s.reg a_ := rfl
@[simp] theorem State.setSegArm_asm (s : State) (site a : Nat) (x : Armed) : (s.setSegArm site a x).asm = s.asm := rfl
@[simp] theorem State.setSegArm_lead (s : State) (site a : Nat) (x : Armed) : (s.setSegArm site a x).lead = s.lead := rfl
@[simp] theorem State.setSegArm_regs (s : State) (site a : Nat) (x : Armed) : (s.setSegArm site a x).regs = s.regs := rfl
@[simp] theorem State.setSegArm_latch (s : State) (site a : Nat) (x : Armed) : (s.setSegArm site a x).latch = s.latch := rfl
@[simp] theorem State.setSegArm_rdata (s : State) (site a : Nat) (x : Armed) : (s.setSegArm site a x).rdata = s.rdata := rfl
@[simp] theorem State.setSegArm_rdataHi (s : State) (site a : Nat) (x : Armed) : (s.setSegArm site a x).rdataHi = s.rdataHi := rfl
@[simp] theorem State.setSegArm_back (s : State) (site a : Nat) (x : Armed) : (s.setSegArm site a x).back = s.back := rfl
@[simp] theorem State.setSegArm_bar2 (s : State) (site a : Nat) (x : Armed) : (s.setSegArm site a x).bar2 = s.bar2 := rfl
@[simp] theorem State.setSegArm_out (s : State) (site a : Nat) (x : Armed) : (s.setSegArm site a x).out = s.out := rfl
@[simp] theorem State.setSegArm_now (s : State) (site a : Nat) (x : Armed) : (s.setSegArm site a x).now = s.now := rfl
@[simp] theorem State.setSegArm_clapper (s : State) (site a : Nat) (x : Armed) : (s.setSegArm site a x).clapper = s.clapper := rfl
@[simp] theorem State.setSegArm_clk (s : State) (site a : Nat) (x : Armed) : (s.setSegArm site a x).clk = s.clk := rfl
@[simp] theorem State.setSegArm_sup (s : State) (site a : Nat) (x : Armed) : (s.setSegArm site a x).sup = s.sup := rfl
@[simp] theorem State.setSegArm_fios (s : State) (site a : Nat) (x : Armed) : (s.setSegArm site a x).fios = s.fios := rfl
@[simp] theorem State.setSegArm_ticks (s : State) (site a : Nat) (x : Armed) : (s.setSegArm site a x).ticks = s.ticks := rfl
@[simp] theorem State.setSegArm_encs (s : State) (site a : Nat) (x : Armed) : (s.setSegArm site a x).encs = s.encs := rfl
@[simp] theorem State.setSegArm_poss (s : State) (site a : Nat) (x : Armed) : (s.setSegArm site a x).poss = s.poss := rfl
@[simp] theorem State.setSegArm_cevs (s : State) (site a : Nat) (x : Armed) : (s.setSegArm site a x).cevs = s.cevs := rfl
@[simp] theorem State.setSegArm_slots (s : State) (site a : Nat) (x : Armed) : (s.setSegArm site a x).slots = s.slots := rfl
@[simp] theorem State.setSegArm_groups (s : State) (site a : Nat) (x : Armed) : (s.setSegArm site a x).groups = s.groups := rfl
@[simp] theorem State.setSegArm_order (s : State) (site a : Nat) (x : Armed) : (s.setSegArm site a x).order = s.order := rfl
@[simp] theorem State.setSegArm_meters (s : State) (site a : Nat) (x : Armed) : (s.setSegArm site a x).meters = s.meters := rfl
@[simp] theorem State.setSegArm_calibs (s : State) (site a : Nat) (x : Armed) : (s.setSegArm site a x).calibs = s.calibs := rfl
@[simp] theorem State.setSegArm_gaffer (s : State) (site a : Nat) (x : Armed) : (s.setSegArm site a x).gaffer = s.gaffer := rfl
@[simp] theorem State.setSegArm_tenants (s : State) (site a : Nat) (x : Armed) : (s.setSegArm site a x).tenants = s.tenants := rfl
@[simp] theorem State.setSegArm_sec (s : State) (site a : Nat) (x : Armed) : (s.setSegArm site a x).sec = s.sec := rfl
@[simp] theorem State.setSegArm_ens (s : State) (site a : Nat) (x : Armed) : (s.setSegArm site a x).ens = s.ens := rfl
@[simp] theorem State.setSegArm_ports (s : State) (site a : Nat) (x : Armed) : (s.setSegArm site a x).ports = s.ports := rfl
@[simp] theorem State.setSegArm_mons (s : State) (site a : Nat) (x : Armed) : (s.setSegArm site a x).mons = s.mons := rfl
@[simp] theorem State.setSegArm_boot (s : State) (site a : Nat) (x : Armed) : (s.setSegArm site a x).boot = s.boot := rfl
@[simp] theorem State.setSegArm_ram (s : State) (site a : Nat) (x : Armed) : (s.setSegArm site a x).ram = s.ram := rfl
@[simp] theorem State.setSegArm_hmem (s : State) (site a : Nat) (x : Armed) : (s.setSegArm site a x).hmem = s.hmem := rfl
@[simp] theorem State.setSegArm_badCpl (s : State) (site a : Nat) (x : Armed) : (s.setSegArm site a x).badCpl = s.badCpl := rfl
@[simp] theorem State.setSegArm_mute (s : State) (site a : Nat) (x : Armed) : (s.setSegArm site a x).mute = s.mute := rfl
@[simp] theorem State.setSegArm_flash (s : State) (site a : Nat) (x : Armed) : (s.setSegArm site a x).flash = s.flash := rfl
@[simp] theorem State.setSegArm_weak (s : State) (site a : Nat) (x : Armed) : (s.setSegArm site a x).weak = s.weak := rfl
@[simp] theorem State.setSegArm_loads (s : State) (site a : Nat) (x : Armed) : (s.setSegArm site a x).loads = s.loads := rfl
@[simp] theorem State.setSegArm_restarts (s : State) (site a : Nat) (x : Armed) : (s.setSegArm site a x).restarts = s.restarts := rfl
@[simp] theorem State.setSegArm_rings (s : State) (site a : Nat) (x : Armed) : (s.setSegArm site a x).rings = s.rings := rfl
@[simp] theorem State.setSegArm_strms (s : State) (site a : Nat) (x : Armed) : (s.setSegArm site a x).strms = s.strms := rfl
@[simp] theorem State.setSegArm_gates (s : State) (site a : Nat) (x : Armed) : (s.setSegArm site a x).gates = s.gates := rfl
@[simp] theorem State.setSegArm_axes (s : State) (site a : Nat) (x : Armed) : (s.setSegArm site a x).axes = s.axes := rfl
@[simp] theorem State.setSegArm_grps (s : State) (site a : Nat) (x : Armed) : (s.setSegArm site a x).grps = s.grps := rfl
@[simp] theorem State.setSegArm_slotRings (s : State) (site a : Nat) (x : Armed) : (s.setSegArm site a x).slotRings = s.slotRings := rfl
@[simp] theorem State.setSegArm_cueQs (s : State) (site a : Nat) (x : Armed) : (s.setSegArm site a x).cueQs = s.cueQs := rfl
@[simp] theorem State.setSegArm_binFlags (s : State) (site a : Nat) (x : Armed) : (s.setSegArm site a x).binFlags = s.binFlags := rfl
@[simp] theorem State.setSegArm_slates (s : State) (site a : Nat) (x : Armed) : (s.setSegArm site a x).slates = s.slates := rfl
@[simp] theorem State.setSegArm_gens (s : State) (site a : Nat) (x : Armed) : (s.setSegArm site a x).gens = s.gens := rfl
@[simp] theorem State.setSegArm_cancels (s : State) (site a : Nat) (x : Armed) : (s.setSegArm site a x).cancels = s.cancels := rfl
@[simp] theorem State.setSegArm_tqs (s : State) (site a : Nat) (x : Armed) : (s.setSegArm site a x).tqs = s.tqs := rfl
@[simp] theorem State.setSegArm_sched (s : State) (site a : Nat) (x : Armed) : (s.setSegArm site a x).sched = s.sched := rfl
@[simp] theorem State.setSegArm_dqs (s : State) (site a : Nat) (x : Armed) : (s.setSegArm site a x).dqs = s.dqs := rfl
@[simp] theorem State.setSegArm_cores (s : State) (site a : Nat) (x : Armed) : (s.setSegArm site a x).cores = s.cores := rfl
@[simp] theorem State.setSegArm_cmbs (s : State) (site a : Nat) (x : Armed) : (s.setSegArm site a x).cmbs = s.cmbs := rfl
@[simp] theorem State.setSegArm_engs (s : State) (site a : Nat) (x : Armed) : (s.setSegArm site a x).engs = s.engs := rfl
@[simp] theorem State.setSegArm_mmus (s : State) (site a : Nat) (x : Armed) : (s.setSegArm site a x).mmus = s.mmus := rfl
@[simp] theorem State.setSegArm_grans (s : State) (site a : Nat) (x : Armed) : (s.setSegArm site a x).grans = s.grans := rfl
@[simp] theorem State.setSegArm_granBusy (s : State) (site a : Nat) (x : Armed) : (s.setSegArm site a x).granBusy = s.granBusy := rfl
@[simp] theorem State.setSegArm_poison (s : State) (site a : Nat) (x : Armed) : (s.setSegArm site a x).poison = s.poison := rfl
@[simp] theorem State.setSegArm_buckets (s : State) (site a : Nat) (x : Armed) : (s.setSegArm site a x).buckets = s.buckets := rfl
@[simp] theorem State.setSegArm_arbs (s : State) (site a : Nat) (x : Armed) : (s.setSegArm site a x).arbs = s.arbs := rfl
@[simp] theorem State.setSegArm_capQs (s : State) (site a : Nat) (x : Armed) : (s.setSegArm site a x).capQs = s.capQs := rfl
@[simp] theorem State.setSegArm_avs (s : State) (site a : Nat) (x : Armed) : (s.setSegArm site a x).avs = s.avs := rfl
@[simp] theorem State.setSegArm_bndTaken (s : State) (site a : Nat) (x : Armed) : (s.setSegArm site a x).bndTaken = s.bndTaken := rfl
@[simp] theorem State.setSegArm_ces (s : State) (site a : Nat) (x : Armed) : (s.setSegArm site a x).ces = s.ces := rfl
@[simp] theorem State.setSegArm_scrubs (s : State) (site a : Nat) (x : Armed) : (s.setSegArm site a x).scrubs = s.scrubs := rfl
@[simp] theorem State.setSegArm_free (s : State) (site a : Nat) (x : Armed) : (s.setSegArm site a x).free = s.free := rfl
@[simp] theorem State.setSegArm_pending (s : State) (site a : Nat) (x : Armed) : (s.setSegArm site a x).pending = s.pending := rfl
@[simp] theorem State.setSegArm_reg (s : State) (site a : Nat) (x : Armed) (a_ : Nat) : (s.setSegArm site a x).reg a_ = s.reg a_ := rfl
@[simp] theorem State.setClk_asm (s : State) (c : Clk) : (s.setClk c).asm = s.asm := rfl
@[simp] theorem State.setClk_lead (s : State) (c : Clk) : (s.setClk c).lead = s.lead := rfl
@[simp] theorem State.setClk_regs (s : State) (c : Clk) : (s.setClk c).regs = s.regs := rfl
@[simp] theorem State.setClk_latch (s : State) (c : Clk) : (s.setClk c).latch = s.latch := rfl
@[simp] theorem State.setClk_rdata (s : State) (c : Clk) : (s.setClk c).rdata = s.rdata := rfl
@[simp] theorem State.setClk_rdataHi (s : State) (c : Clk) : (s.setClk c).rdataHi = s.rdataHi := rfl
@[simp] theorem State.setClk_back (s : State) (c : Clk) : (s.setClk c).back = s.back := rfl
@[simp] theorem State.setClk_bar2 (s : State) (c : Clk) : (s.setClk c).bar2 = s.bar2 := rfl
@[simp] theorem State.setClk_out (s : State) (c : Clk) : (s.setClk c).out = s.out := rfl
@[simp] theorem State.setClk_now (s : State) (c : Clk) : (s.setClk c).now = s.now := rfl
@[simp] theorem State.setClk_clapper (s : State) (c : Clk) : (s.setClk c).clapper = s.clapper := rfl
@[simp] theorem State.setClk_sup (s : State) (c : Clk) : (s.setClk c).sup = s.sup := rfl
@[simp] theorem State.setClk_fios (s : State) (c : Clk) : (s.setClk c).fios = s.fios := rfl
@[simp] theorem State.setClk_ticks (s : State) (c : Clk) : (s.setClk c).ticks = s.ticks := rfl
@[simp] theorem State.setClk_encs (s : State) (c : Clk) : (s.setClk c).encs = s.encs := rfl
@[simp] theorem State.setClk_poss (s : State) (c : Clk) : (s.setClk c).poss = s.poss := rfl
@[simp] theorem State.setClk_cevs (s : State) (c : Clk) : (s.setClk c).cevs = s.cevs := rfl
@[simp] theorem State.setClk_segArms (s : State) (c : Clk) : (s.setClk c).segArms = s.segArms := rfl
@[simp] theorem State.setClk_slots (s : State) (c : Clk) : (s.setClk c).slots = s.slots := rfl
@[simp] theorem State.setClk_groups (s : State) (c : Clk) : (s.setClk c).groups = s.groups := rfl
@[simp] theorem State.setClk_order (s : State) (c : Clk) : (s.setClk c).order = s.order := rfl
@[simp] theorem State.setClk_meters (s : State) (c : Clk) : (s.setClk c).meters = s.meters := rfl
@[simp] theorem State.setClk_calibs (s : State) (c : Clk) : (s.setClk c).calibs = s.calibs := rfl
@[simp] theorem State.setClk_gaffer (s : State) (c : Clk) : (s.setClk c).gaffer = s.gaffer := rfl
@[simp] theorem State.setClk_tenants (s : State) (c : Clk) : (s.setClk c).tenants = s.tenants := rfl
@[simp] theorem State.setClk_sec (s : State) (c : Clk) : (s.setClk c).sec = s.sec := rfl
@[simp] theorem State.setClk_ens (s : State) (c : Clk) : (s.setClk c).ens = s.ens := rfl
@[simp] theorem State.setClk_ports (s : State) (c : Clk) : (s.setClk c).ports = s.ports := rfl
@[simp] theorem State.setClk_mons (s : State) (c : Clk) : (s.setClk c).mons = s.mons := rfl
@[simp] theorem State.setClk_boot (s : State) (c : Clk) : (s.setClk c).boot = s.boot := rfl
@[simp] theorem State.setClk_ram (s : State) (c : Clk) : (s.setClk c).ram = s.ram := rfl
@[simp] theorem State.setClk_hmem (s : State) (c : Clk) : (s.setClk c).hmem = s.hmem := rfl
@[simp] theorem State.setClk_badCpl (s : State) (c : Clk) : (s.setClk c).badCpl = s.badCpl := rfl
@[simp] theorem State.setClk_mute (s : State) (c : Clk) : (s.setClk c).mute = s.mute := rfl
@[simp] theorem State.setClk_flash (s : State) (c : Clk) : (s.setClk c).flash = s.flash := rfl
@[simp] theorem State.setClk_weak (s : State) (c : Clk) : (s.setClk c).weak = s.weak := rfl
@[simp] theorem State.setClk_loads (s : State) (c : Clk) : (s.setClk c).loads = s.loads := rfl
@[simp] theorem State.setClk_restarts (s : State) (c : Clk) : (s.setClk c).restarts = s.restarts := rfl
@[simp] theorem State.setClk_rings (s : State) (c : Clk) : (s.setClk c).rings = s.rings := rfl
@[simp] theorem State.setClk_strms (s : State) (c : Clk) : (s.setClk c).strms = s.strms := rfl
@[simp] theorem State.setClk_gates (s : State) (c : Clk) : (s.setClk c).gates = s.gates := rfl
@[simp] theorem State.setClk_axes (s : State) (c : Clk) : (s.setClk c).axes = s.axes := rfl
@[simp] theorem State.setClk_grps (s : State) (c : Clk) : (s.setClk c).grps = s.grps := rfl
@[simp] theorem State.setClk_slotRings (s : State) (c : Clk) : (s.setClk c).slotRings = s.slotRings := rfl
@[simp] theorem State.setClk_cueQs (s : State) (c : Clk) : (s.setClk c).cueQs = s.cueQs := rfl
@[simp] theorem State.setClk_binFlags (s : State) (c : Clk) : (s.setClk c).binFlags = s.binFlags := rfl
@[simp] theorem State.setClk_slates (s : State) (c : Clk) : (s.setClk c).slates = s.slates := rfl
@[simp] theorem State.setClk_gens (s : State) (c : Clk) : (s.setClk c).gens = s.gens := rfl
@[simp] theorem State.setClk_cancels (s : State) (c : Clk) : (s.setClk c).cancels = s.cancels := rfl
@[simp] theorem State.setClk_tqs (s : State) (c : Clk) : (s.setClk c).tqs = s.tqs := rfl
@[simp] theorem State.setClk_sched (s : State) (c : Clk) : (s.setClk c).sched = s.sched := rfl
@[simp] theorem State.setClk_dqs (s : State) (c : Clk) : (s.setClk c).dqs = s.dqs := rfl
@[simp] theorem State.setClk_cores (s : State) (c : Clk) : (s.setClk c).cores = s.cores := rfl
@[simp] theorem State.setClk_cmbs (s : State) (c : Clk) : (s.setClk c).cmbs = s.cmbs := rfl
@[simp] theorem State.setClk_engs (s : State) (c : Clk) : (s.setClk c).engs = s.engs := rfl
@[simp] theorem State.setClk_mmus (s : State) (c : Clk) : (s.setClk c).mmus = s.mmus := rfl
@[simp] theorem State.setClk_grans (s : State) (c : Clk) : (s.setClk c).grans = s.grans := rfl
@[simp] theorem State.setClk_granBusy (s : State) (c : Clk) : (s.setClk c).granBusy = s.granBusy := rfl
@[simp] theorem State.setClk_poison (s : State) (c : Clk) : (s.setClk c).poison = s.poison := rfl
@[simp] theorem State.setClk_buckets (s : State) (c : Clk) : (s.setClk c).buckets = s.buckets := rfl
@[simp] theorem State.setClk_arbs (s : State) (c : Clk) : (s.setClk c).arbs = s.arbs := rfl
@[simp] theorem State.setClk_capQs (s : State) (c : Clk) : (s.setClk c).capQs = s.capQs := rfl
@[simp] theorem State.setClk_avs (s : State) (c : Clk) : (s.setClk c).avs = s.avs := rfl
@[simp] theorem State.setClk_bndTaken (s : State) (c : Clk) : (s.setClk c).bndTaken = s.bndTaken := rfl
@[simp] theorem State.setClk_ces (s : State) (c : Clk) : (s.setClk c).ces = s.ces := rfl
@[simp] theorem State.setClk_scrubs (s : State) (c : Clk) : (s.setClk c).scrubs = s.scrubs := rfl
@[simp] theorem State.setClk_free (s : State) (c : Clk) : (s.setClk c).free = s.free := rfl
@[simp] theorem State.setClk_pending (s : State) (c : Clk) : (s.setClk c).pending = s.pending := rfl
@[simp] theorem State.setClk_reg (s : State) (c : Clk) (a_ : Nat) : (s.setClk c).reg a_ = s.reg a_ := rfl
@[simp] theorem State.setSring_asm (s : State) (site core r : Nat) (x : SRing) : (s.setSring site core r x).asm = s.asm := rfl
@[simp] theorem State.setSring_lead (s : State) (site core r : Nat) (x : SRing) : (s.setSring site core r x).lead = s.lead := rfl
@[simp] theorem State.setSring_regs (s : State) (site core r : Nat) (x : SRing) : (s.setSring site core r x).regs = s.regs := rfl
@[simp] theorem State.setSring_latch (s : State) (site core r : Nat) (x : SRing) : (s.setSring site core r x).latch = s.latch := rfl
@[simp] theorem State.setSring_rdata (s : State) (site core r : Nat) (x : SRing) : (s.setSring site core r x).rdata = s.rdata := rfl
@[simp] theorem State.setSring_rdataHi (s : State) (site core r : Nat) (x : SRing) : (s.setSring site core r x).rdataHi = s.rdataHi := rfl
@[simp] theorem State.setSring_back (s : State) (site core r : Nat) (x : SRing) : (s.setSring site core r x).back = s.back := rfl
@[simp] theorem State.setSring_bar2 (s : State) (site core r : Nat) (x : SRing) : (s.setSring site core r x).bar2 = s.bar2 := rfl
@[simp] theorem State.setSring_out (s : State) (site core r : Nat) (x : SRing) : (s.setSring site core r x).out = s.out := rfl
@[simp] theorem State.setSring_now (s : State) (site core r : Nat) (x : SRing) : (s.setSring site core r x).now = s.now := rfl
@[simp] theorem State.setSring_clapper (s : State) (site core r : Nat) (x : SRing) : (s.setSring site core r x).clapper = s.clapper := rfl
@[simp] theorem State.setSring_clk (s : State) (site core r : Nat) (x : SRing) : (s.setSring site core r x).clk = s.clk := rfl
@[simp] theorem State.setSring_sup (s : State) (site core r : Nat) (x : SRing) : (s.setSring site core r x).sup = s.sup := rfl
@[simp] theorem State.setSring_fios (s : State) (site core r : Nat) (x : SRing) : (s.setSring site core r x).fios = s.fios := rfl
@[simp] theorem State.setSring_ticks (s : State) (site core r : Nat) (x : SRing) : (s.setSring site core r x).ticks = s.ticks := rfl
@[simp] theorem State.setSring_encs (s : State) (site core r : Nat) (x : SRing) : (s.setSring site core r x).encs = s.encs := rfl
@[simp] theorem State.setSring_poss (s : State) (site core r : Nat) (x : SRing) : (s.setSring site core r x).poss = s.poss := rfl
@[simp] theorem State.setSring_cevs (s : State) (site core r : Nat) (x : SRing) : (s.setSring site core r x).cevs = s.cevs := rfl
@[simp] theorem State.setSring_segArms (s : State) (site core r : Nat) (x : SRing) : (s.setSring site core r x).segArms = s.segArms := rfl
@[simp] theorem State.setSring_slots (s : State) (site core r : Nat) (x : SRing) : (s.setSring site core r x).slots = s.slots := rfl
@[simp] theorem State.setSring_groups (s : State) (site core r : Nat) (x : SRing) : (s.setSring site core r x).groups = s.groups := rfl
@[simp] theorem State.setSring_order (s : State) (site core r : Nat) (x : SRing) : (s.setSring site core r x).order = s.order := rfl
@[simp] theorem State.setSring_meters (s : State) (site core r : Nat) (x : SRing) : (s.setSring site core r x).meters = s.meters := rfl
@[simp] theorem State.setSring_calibs (s : State) (site core r : Nat) (x : SRing) : (s.setSring site core r x).calibs = s.calibs := rfl
@[simp] theorem State.setSring_gaffer (s : State) (site core r : Nat) (x : SRing) : (s.setSring site core r x).gaffer = s.gaffer := rfl
@[simp] theorem State.setSring_tenants (s : State) (site core r : Nat) (x : SRing) : (s.setSring site core r x).tenants = s.tenants := rfl
@[simp] theorem State.setSring_sec (s : State) (site core r : Nat) (x : SRing) : (s.setSring site core r x).sec = s.sec := rfl
@[simp] theorem State.setSring_ens (s : State) (site core r : Nat) (x : SRing) : (s.setSring site core r x).ens = s.ens := rfl
@[simp] theorem State.setSring_ports (s : State) (site core r : Nat) (x : SRing) : (s.setSring site core r x).ports = s.ports := rfl
@[simp] theorem State.setSring_mons (s : State) (site core r : Nat) (x : SRing) : (s.setSring site core r x).mons = s.mons := rfl
@[simp] theorem State.setSring_boot (s : State) (site core r : Nat) (x : SRing) : (s.setSring site core r x).boot = s.boot := rfl
@[simp] theorem State.setSring_ram (s : State) (site core r : Nat) (x : SRing) : (s.setSring site core r x).ram = s.ram := rfl
@[simp] theorem State.setSring_hmem (s : State) (site core r : Nat) (x : SRing) : (s.setSring site core r x).hmem = s.hmem := rfl
@[simp] theorem State.setSring_badCpl (s : State) (site core r : Nat) (x : SRing) : (s.setSring site core r x).badCpl = s.badCpl := rfl
@[simp] theorem State.setSring_mute (s : State) (site core r : Nat) (x : SRing) : (s.setSring site core r x).mute = s.mute := rfl
@[simp] theorem State.setSring_flash (s : State) (site core r : Nat) (x : SRing) : (s.setSring site core r x).flash = s.flash := rfl
@[simp] theorem State.setSring_weak (s : State) (site core r : Nat) (x : SRing) : (s.setSring site core r x).weak = s.weak := rfl
@[simp] theorem State.setSring_loads (s : State) (site core r : Nat) (x : SRing) : (s.setSring site core r x).loads = s.loads := rfl
@[simp] theorem State.setSring_restarts (s : State) (site core r : Nat) (x : SRing) : (s.setSring site core r x).restarts = s.restarts := rfl
@[simp] theorem State.setSring_rings (s : State) (site core r : Nat) (x : SRing) : (s.setSring site core r x).rings = s.rings := rfl
@[simp] theorem State.setSring_strms (s : State) (site core r : Nat) (x : SRing) : (s.setSring site core r x).strms = s.strms := rfl
@[simp] theorem State.setSring_gates (s : State) (site core r : Nat) (x : SRing) : (s.setSring site core r x).gates = s.gates := rfl
@[simp] theorem State.setSring_axes (s : State) (site core r : Nat) (x : SRing) : (s.setSring site core r x).axes = s.axes := rfl
@[simp] theorem State.setSring_grps (s : State) (site core r : Nat) (x : SRing) : (s.setSring site core r x).grps = s.grps := rfl
@[simp] theorem State.setSring_cueQs (s : State) (site core r : Nat) (x : SRing) : (s.setSring site core r x).cueQs = s.cueQs := rfl
@[simp] theorem State.setSring_binFlags (s : State) (site core r : Nat) (x : SRing) : (s.setSring site core r x).binFlags = s.binFlags := rfl
@[simp] theorem State.setSring_slates (s : State) (site core r : Nat) (x : SRing) : (s.setSring site core r x).slates = s.slates := rfl
@[simp] theorem State.setSring_gens (s : State) (site core r : Nat) (x : SRing) : (s.setSring site core r x).gens = s.gens := rfl
@[simp] theorem State.setSring_cancels (s : State) (site core r : Nat) (x : SRing) : (s.setSring site core r x).cancels = s.cancels := rfl
@[simp] theorem State.setSring_tqs (s : State) (site core r : Nat) (x : SRing) : (s.setSring site core r x).tqs = s.tqs := rfl
@[simp] theorem State.setSring_sched (s : State) (site core r : Nat) (x : SRing) : (s.setSring site core r x).sched = s.sched := rfl
@[simp] theorem State.setSring_dqs (s : State) (site core r : Nat) (x : SRing) : (s.setSring site core r x).dqs = s.dqs := rfl
@[simp] theorem State.setSring_cores (s : State) (site core r : Nat) (x : SRing) : (s.setSring site core r x).cores = s.cores := rfl
@[simp] theorem State.setSring_cmbs (s : State) (site core r : Nat) (x : SRing) : (s.setSring site core r x).cmbs = s.cmbs := rfl
@[simp] theorem State.setSring_engs (s : State) (site core r : Nat) (x : SRing) : (s.setSring site core r x).engs = s.engs := rfl
@[simp] theorem State.setSring_mmus (s : State) (site core r : Nat) (x : SRing) : (s.setSring site core r x).mmus = s.mmus := rfl
@[simp] theorem State.setSring_grans (s : State) (site core r : Nat) (x : SRing) : (s.setSring site core r x).grans = s.grans := rfl
@[simp] theorem State.setSring_granBusy (s : State) (site core r : Nat) (x : SRing) : (s.setSring site core r x).granBusy = s.granBusy := rfl
@[simp] theorem State.setSring_poison (s : State) (site core r : Nat) (x : SRing) : (s.setSring site core r x).poison = s.poison := rfl
@[simp] theorem State.setSring_buckets (s : State) (site core r : Nat) (x : SRing) : (s.setSring site core r x).buckets = s.buckets := rfl
@[simp] theorem State.setSring_arbs (s : State) (site core r : Nat) (x : SRing) : (s.setSring site core r x).arbs = s.arbs := rfl
@[simp] theorem State.setSring_capQs (s : State) (site core r : Nat) (x : SRing) : (s.setSring site core r x).capQs = s.capQs := rfl
@[simp] theorem State.setSring_avs (s : State) (site core r : Nat) (x : SRing) : (s.setSring site core r x).avs = s.avs := rfl
@[simp] theorem State.setSring_bndTaken (s : State) (site core r : Nat) (x : SRing) : (s.setSring site core r x).bndTaken = s.bndTaken := rfl
@[simp] theorem State.setSring_ces (s : State) (site core r : Nat) (x : SRing) : (s.setSring site core r x).ces = s.ces := rfl
@[simp] theorem State.setSring_scrubs (s : State) (site core r : Nat) (x : SRing) : (s.setSring site core r x).scrubs = s.scrubs := rfl
@[simp] theorem State.setSring_free (s : State) (site core r : Nat) (x : SRing) : (s.setSring site core r x).free = s.free := rfl
@[simp] theorem State.setSring_pending (s : State) (site core r : Nat) (x : SRing) : (s.setSring site core r x).pending = s.pending := rfl
@[simp] theorem State.setSring_reg (s : State) (site core r : Nat) (x : SRing) (a_ : Nat) : (s.setSring site core r x).reg a_ = s.reg a_ := rfl
@[simp] theorem State.setCue_asm (s : State) (site q : Nat) (hs : List Nat) : (s.setCue site q hs).asm = s.asm := rfl
@[simp] theorem State.setCue_lead (s : State) (site q : Nat) (hs : List Nat) : (s.setCue site q hs).lead = s.lead := rfl
@[simp] theorem State.setCue_regs (s : State) (site q : Nat) (hs : List Nat) : (s.setCue site q hs).regs = s.regs := rfl
@[simp] theorem State.setCue_latch (s : State) (site q : Nat) (hs : List Nat) : (s.setCue site q hs).latch = s.latch := rfl
@[simp] theorem State.setCue_rdata (s : State) (site q : Nat) (hs : List Nat) : (s.setCue site q hs).rdata = s.rdata := rfl
@[simp] theorem State.setCue_rdataHi (s : State) (site q : Nat) (hs : List Nat) : (s.setCue site q hs).rdataHi = s.rdataHi := rfl
@[simp] theorem State.setCue_back (s : State) (site q : Nat) (hs : List Nat) : (s.setCue site q hs).back = s.back := rfl
@[simp] theorem State.setCue_bar2 (s : State) (site q : Nat) (hs : List Nat) : (s.setCue site q hs).bar2 = s.bar2 := rfl
@[simp] theorem State.setCue_out (s : State) (site q : Nat) (hs : List Nat) : (s.setCue site q hs).out = s.out := rfl
@[simp] theorem State.setCue_now (s : State) (site q : Nat) (hs : List Nat) : (s.setCue site q hs).now = s.now := rfl
@[simp] theorem State.setCue_clapper (s : State) (site q : Nat) (hs : List Nat) : (s.setCue site q hs).clapper = s.clapper := rfl
@[simp] theorem State.setCue_clk (s : State) (site q : Nat) (hs : List Nat) : (s.setCue site q hs).clk = s.clk := rfl
@[simp] theorem State.setCue_sup (s : State) (site q : Nat) (hs : List Nat) : (s.setCue site q hs).sup = s.sup := rfl
@[simp] theorem State.setCue_fios (s : State) (site q : Nat) (hs : List Nat) : (s.setCue site q hs).fios = s.fios := rfl
@[simp] theorem State.setCue_ticks (s : State) (site q : Nat) (hs : List Nat) : (s.setCue site q hs).ticks = s.ticks := rfl
@[simp] theorem State.setCue_encs (s : State) (site q : Nat) (hs : List Nat) : (s.setCue site q hs).encs = s.encs := rfl
@[simp] theorem State.setCue_poss (s : State) (site q : Nat) (hs : List Nat) : (s.setCue site q hs).poss = s.poss := rfl
@[simp] theorem State.setCue_cevs (s : State) (site q : Nat) (hs : List Nat) : (s.setCue site q hs).cevs = s.cevs := rfl
@[simp] theorem State.setCue_segArms (s : State) (site q : Nat) (hs : List Nat) : (s.setCue site q hs).segArms = s.segArms := rfl
@[simp] theorem State.setCue_slots (s : State) (site q : Nat) (hs : List Nat) : (s.setCue site q hs).slots = s.slots := rfl
@[simp] theorem State.setCue_groups (s : State) (site q : Nat) (hs : List Nat) : (s.setCue site q hs).groups = s.groups := rfl
@[simp] theorem State.setCue_order (s : State) (site q : Nat) (hs : List Nat) : (s.setCue site q hs).order = s.order := rfl
@[simp] theorem State.setCue_meters (s : State) (site q : Nat) (hs : List Nat) : (s.setCue site q hs).meters = s.meters := rfl
@[simp] theorem State.setCue_calibs (s : State) (site q : Nat) (hs : List Nat) : (s.setCue site q hs).calibs = s.calibs := rfl
@[simp] theorem State.setCue_gaffer (s : State) (site q : Nat) (hs : List Nat) : (s.setCue site q hs).gaffer = s.gaffer := rfl
@[simp] theorem State.setCue_tenants (s : State) (site q : Nat) (hs : List Nat) : (s.setCue site q hs).tenants = s.tenants := rfl
@[simp] theorem State.setCue_sec (s : State) (site q : Nat) (hs : List Nat) : (s.setCue site q hs).sec = s.sec := rfl
@[simp] theorem State.setCue_ens (s : State) (site q : Nat) (hs : List Nat) : (s.setCue site q hs).ens = s.ens := rfl
@[simp] theorem State.setCue_ports (s : State) (site q : Nat) (hs : List Nat) : (s.setCue site q hs).ports = s.ports := rfl
@[simp] theorem State.setCue_mons (s : State) (site q : Nat) (hs : List Nat) : (s.setCue site q hs).mons = s.mons := rfl
@[simp] theorem State.setCue_boot (s : State) (site q : Nat) (hs : List Nat) : (s.setCue site q hs).boot = s.boot := rfl
@[simp] theorem State.setCue_ram (s : State) (site q : Nat) (hs : List Nat) : (s.setCue site q hs).ram = s.ram := rfl
@[simp] theorem State.setCue_hmem (s : State) (site q : Nat) (hs : List Nat) : (s.setCue site q hs).hmem = s.hmem := rfl
@[simp] theorem State.setCue_badCpl (s : State) (site q : Nat) (hs : List Nat) : (s.setCue site q hs).badCpl = s.badCpl := rfl
@[simp] theorem State.setCue_mute (s : State) (site q : Nat) (hs : List Nat) : (s.setCue site q hs).mute = s.mute := rfl
@[simp] theorem State.setCue_flash (s : State) (site q : Nat) (hs : List Nat) : (s.setCue site q hs).flash = s.flash := rfl
@[simp] theorem State.setCue_weak (s : State) (site q : Nat) (hs : List Nat) : (s.setCue site q hs).weak = s.weak := rfl
@[simp] theorem State.setCue_loads (s : State) (site q : Nat) (hs : List Nat) : (s.setCue site q hs).loads = s.loads := rfl
@[simp] theorem State.setCue_restarts (s : State) (site q : Nat) (hs : List Nat) : (s.setCue site q hs).restarts = s.restarts := rfl
@[simp] theorem State.setCue_rings (s : State) (site q : Nat) (hs : List Nat) : (s.setCue site q hs).rings = s.rings := rfl
@[simp] theorem State.setCue_strms (s : State) (site q : Nat) (hs : List Nat) : (s.setCue site q hs).strms = s.strms := rfl
@[simp] theorem State.setCue_gates (s : State) (site q : Nat) (hs : List Nat) : (s.setCue site q hs).gates = s.gates := rfl
@[simp] theorem State.setCue_axes (s : State) (site q : Nat) (hs : List Nat) : (s.setCue site q hs).axes = s.axes := rfl
@[simp] theorem State.setCue_grps (s : State) (site q : Nat) (hs : List Nat) : (s.setCue site q hs).grps = s.grps := rfl
@[simp] theorem State.setCue_slotRings (s : State) (site q : Nat) (hs : List Nat) : (s.setCue site q hs).slotRings = s.slotRings := rfl
@[simp] theorem State.setCue_binFlags (s : State) (site q : Nat) (hs : List Nat) : (s.setCue site q hs).binFlags = s.binFlags := rfl
@[simp] theorem State.setCue_slates (s : State) (site q : Nat) (hs : List Nat) : (s.setCue site q hs).slates = s.slates := rfl
@[simp] theorem State.setCue_gens (s : State) (site q : Nat) (hs : List Nat) : (s.setCue site q hs).gens = s.gens := rfl
@[simp] theorem State.setCue_cancels (s : State) (site q : Nat) (hs : List Nat) : (s.setCue site q hs).cancels = s.cancels := rfl
@[simp] theorem State.setCue_tqs (s : State) (site q : Nat) (hs : List Nat) : (s.setCue site q hs).tqs = s.tqs := rfl
@[simp] theorem State.setCue_sched (s : State) (site q : Nat) (hs : List Nat) : (s.setCue site q hs).sched = s.sched := rfl
@[simp] theorem State.setCue_dqs (s : State) (site q : Nat) (hs : List Nat) : (s.setCue site q hs).dqs = s.dqs := rfl
@[simp] theorem State.setCue_cores (s : State) (site q : Nat) (hs : List Nat) : (s.setCue site q hs).cores = s.cores := rfl
@[simp] theorem State.setCue_cmbs (s : State) (site q : Nat) (hs : List Nat) : (s.setCue site q hs).cmbs = s.cmbs := rfl
@[simp] theorem State.setCue_engs (s : State) (site q : Nat) (hs : List Nat) : (s.setCue site q hs).engs = s.engs := rfl
@[simp] theorem State.setCue_mmus (s : State) (site q : Nat) (hs : List Nat) : (s.setCue site q hs).mmus = s.mmus := rfl
@[simp] theorem State.setCue_grans (s : State) (site q : Nat) (hs : List Nat) : (s.setCue site q hs).grans = s.grans := rfl
@[simp] theorem State.setCue_granBusy (s : State) (site q : Nat) (hs : List Nat) : (s.setCue site q hs).granBusy = s.granBusy := rfl
@[simp] theorem State.setCue_poison (s : State) (site q : Nat) (hs : List Nat) : (s.setCue site q hs).poison = s.poison := rfl
@[simp] theorem State.setCue_buckets (s : State) (site q : Nat) (hs : List Nat) : (s.setCue site q hs).buckets = s.buckets := rfl
@[simp] theorem State.setCue_arbs (s : State) (site q : Nat) (hs : List Nat) : (s.setCue site q hs).arbs = s.arbs := rfl
@[simp] theorem State.setCue_capQs (s : State) (site q : Nat) (hs : List Nat) : (s.setCue site q hs).capQs = s.capQs := rfl
@[simp] theorem State.setCue_avs (s : State) (site q : Nat) (hs : List Nat) : (s.setCue site q hs).avs = s.avs := rfl
@[simp] theorem State.setCue_bndTaken (s : State) (site q : Nat) (hs : List Nat) : (s.setCue site q hs).bndTaken = s.bndTaken := rfl
@[simp] theorem State.setCue_ces (s : State) (site q : Nat) (hs : List Nat) : (s.setCue site q hs).ces = s.ces := rfl
@[simp] theorem State.setCue_scrubs (s : State) (site q : Nat) (hs : List Nat) : (s.setCue site q hs).scrubs = s.scrubs := rfl
@[simp] theorem State.setCue_free (s : State) (site q : Nat) (hs : List Nat) : (s.setCue site q hs).free = s.free := rfl
@[simp] theorem State.setCue_pending (s : State) (site q : Nat) (hs : List Nat) : (s.setCue site q hs).pending = s.pending := rfl
@[simp] theorem State.setCue_reg (s : State) (site q : Nat) (hs : List Nat) (a_ : Nat) : (s.setCue site q hs).reg a_ = s.reg a_ := rfl
@[simp] theorem State.setBflag_asm (s : State) (site i v : Nat) : (s.setBflag site i v).asm = s.asm := rfl
@[simp] theorem State.setBflag_lead (s : State) (site i v : Nat) : (s.setBflag site i v).lead = s.lead := rfl
@[simp] theorem State.setBflag_regs (s : State) (site i v : Nat) : (s.setBflag site i v).regs = s.regs := rfl
@[simp] theorem State.setBflag_latch (s : State) (site i v : Nat) : (s.setBflag site i v).latch = s.latch := rfl
@[simp] theorem State.setBflag_rdata (s : State) (site i v : Nat) : (s.setBflag site i v).rdata = s.rdata := rfl
@[simp] theorem State.setBflag_rdataHi (s : State) (site i v : Nat) : (s.setBflag site i v).rdataHi = s.rdataHi := rfl
@[simp] theorem State.setBflag_back (s : State) (site i v : Nat) : (s.setBflag site i v).back = s.back := rfl
@[simp] theorem State.setBflag_bar2 (s : State) (site i v : Nat) : (s.setBflag site i v).bar2 = s.bar2 := rfl
@[simp] theorem State.setBflag_out (s : State) (site i v : Nat) : (s.setBflag site i v).out = s.out := rfl
@[simp] theorem State.setBflag_now (s : State) (site i v : Nat) : (s.setBflag site i v).now = s.now := rfl
@[simp] theorem State.setBflag_clapper (s : State) (site i v : Nat) : (s.setBflag site i v).clapper = s.clapper := rfl
@[simp] theorem State.setBflag_clk (s : State) (site i v : Nat) : (s.setBflag site i v).clk = s.clk := rfl
@[simp] theorem State.setBflag_sup (s : State) (site i v : Nat) : (s.setBflag site i v).sup = s.sup := rfl
@[simp] theorem State.setBflag_fios (s : State) (site i v : Nat) : (s.setBflag site i v).fios = s.fios := rfl
@[simp] theorem State.setBflag_ticks (s : State) (site i v : Nat) : (s.setBflag site i v).ticks = s.ticks := rfl
@[simp] theorem State.setBflag_encs (s : State) (site i v : Nat) : (s.setBflag site i v).encs = s.encs := rfl
@[simp] theorem State.setBflag_poss (s : State) (site i v : Nat) : (s.setBflag site i v).poss = s.poss := rfl
@[simp] theorem State.setBflag_cevs (s : State) (site i v : Nat) : (s.setBflag site i v).cevs = s.cevs := rfl
@[simp] theorem State.setBflag_segArms (s : State) (site i v : Nat) : (s.setBflag site i v).segArms = s.segArms := rfl
@[simp] theorem State.setBflag_slots (s : State) (site i v : Nat) : (s.setBflag site i v).slots = s.slots := rfl
@[simp] theorem State.setBflag_groups (s : State) (site i v : Nat) : (s.setBflag site i v).groups = s.groups := rfl
@[simp] theorem State.setBflag_order (s : State) (site i v : Nat) : (s.setBflag site i v).order = s.order := rfl
@[simp] theorem State.setBflag_meters (s : State) (site i v : Nat) : (s.setBflag site i v).meters = s.meters := rfl
@[simp] theorem State.setBflag_calibs (s : State) (site i v : Nat) : (s.setBflag site i v).calibs = s.calibs := rfl
@[simp] theorem State.setBflag_gaffer (s : State) (site i v : Nat) : (s.setBflag site i v).gaffer = s.gaffer := rfl
@[simp] theorem State.setBflag_tenants (s : State) (site i v : Nat) : (s.setBflag site i v).tenants = s.tenants := rfl
@[simp] theorem State.setBflag_sec (s : State) (site i v : Nat) : (s.setBflag site i v).sec = s.sec := rfl
@[simp] theorem State.setBflag_ens (s : State) (site i v : Nat) : (s.setBflag site i v).ens = s.ens := rfl
@[simp] theorem State.setBflag_ports (s : State) (site i v : Nat) : (s.setBflag site i v).ports = s.ports := rfl
@[simp] theorem State.setBflag_mons (s : State) (site i v : Nat) : (s.setBflag site i v).mons = s.mons := rfl
@[simp] theorem State.setBflag_boot (s : State) (site i v : Nat) : (s.setBflag site i v).boot = s.boot := rfl
@[simp] theorem State.setBflag_ram (s : State) (site i v : Nat) : (s.setBflag site i v).ram = s.ram := rfl
@[simp] theorem State.setBflag_hmem (s : State) (site i v : Nat) : (s.setBflag site i v).hmem = s.hmem := rfl
@[simp] theorem State.setBflag_badCpl (s : State) (site i v : Nat) : (s.setBflag site i v).badCpl = s.badCpl := rfl
@[simp] theorem State.setBflag_mute (s : State) (site i v : Nat) : (s.setBflag site i v).mute = s.mute := rfl
@[simp] theorem State.setBflag_flash (s : State) (site i v : Nat) : (s.setBflag site i v).flash = s.flash := rfl
@[simp] theorem State.setBflag_weak (s : State) (site i v : Nat) : (s.setBflag site i v).weak = s.weak := rfl
@[simp] theorem State.setBflag_loads (s : State) (site i v : Nat) : (s.setBflag site i v).loads = s.loads := rfl
@[simp] theorem State.setBflag_restarts (s : State) (site i v : Nat) : (s.setBflag site i v).restarts = s.restarts := rfl
@[simp] theorem State.setBflag_rings (s : State) (site i v : Nat) : (s.setBflag site i v).rings = s.rings := rfl
@[simp] theorem State.setBflag_strms (s : State) (site i v : Nat) : (s.setBflag site i v).strms = s.strms := rfl
@[simp] theorem State.setBflag_gates (s : State) (site i v : Nat) : (s.setBflag site i v).gates = s.gates := rfl
@[simp] theorem State.setBflag_axes (s : State) (site i v : Nat) : (s.setBflag site i v).axes = s.axes := rfl
@[simp] theorem State.setBflag_grps (s : State) (site i v : Nat) : (s.setBflag site i v).grps = s.grps := rfl
@[simp] theorem State.setBflag_slotRings (s : State) (site i v : Nat) : (s.setBflag site i v).slotRings = s.slotRings := rfl
@[simp] theorem State.setBflag_cueQs (s : State) (site i v : Nat) : (s.setBflag site i v).cueQs = s.cueQs := rfl
@[simp] theorem State.setBflag_slates (s : State) (site i v : Nat) : (s.setBflag site i v).slates = s.slates := rfl
@[simp] theorem State.setBflag_gens (s : State) (site i v : Nat) : (s.setBflag site i v).gens = s.gens := rfl
@[simp] theorem State.setBflag_cancels (s : State) (site i v : Nat) : (s.setBflag site i v).cancels = s.cancels := rfl
@[simp] theorem State.setBflag_tqs (s : State) (site i v : Nat) : (s.setBflag site i v).tqs = s.tqs := rfl
@[simp] theorem State.setBflag_sched (s : State) (site i v : Nat) : (s.setBflag site i v).sched = s.sched := rfl
@[simp] theorem State.setBflag_dqs (s : State) (site i v : Nat) : (s.setBflag site i v).dqs = s.dqs := rfl
@[simp] theorem State.setBflag_cores (s : State) (site i v : Nat) : (s.setBflag site i v).cores = s.cores := rfl
@[simp] theorem State.setBflag_cmbs (s : State) (site i v : Nat) : (s.setBflag site i v).cmbs = s.cmbs := rfl
@[simp] theorem State.setBflag_engs (s : State) (site i v : Nat) : (s.setBflag site i v).engs = s.engs := rfl
@[simp] theorem State.setBflag_mmus (s : State) (site i v : Nat) : (s.setBflag site i v).mmus = s.mmus := rfl
@[simp] theorem State.setBflag_grans (s : State) (site i v : Nat) : (s.setBflag site i v).grans = s.grans := rfl
@[simp] theorem State.setBflag_granBusy (s : State) (site i v : Nat) : (s.setBflag site i v).granBusy = s.granBusy := rfl
@[simp] theorem State.setBflag_poison (s : State) (site i v : Nat) : (s.setBflag site i v).poison = s.poison := rfl
@[simp] theorem State.setBflag_buckets (s : State) (site i v : Nat) : (s.setBflag site i v).buckets = s.buckets := rfl
@[simp] theorem State.setBflag_arbs (s : State) (site i v : Nat) : (s.setBflag site i v).arbs = s.arbs := rfl
@[simp] theorem State.setBflag_capQs (s : State) (site i v : Nat) : (s.setBflag site i v).capQs = s.capQs := rfl
@[simp] theorem State.setBflag_avs (s : State) (site i v : Nat) : (s.setBflag site i v).avs = s.avs := rfl
@[simp] theorem State.setBflag_bndTaken (s : State) (site i v : Nat) : (s.setBflag site i v).bndTaken = s.bndTaken := rfl
@[simp] theorem State.setBflag_ces (s : State) (site i v : Nat) : (s.setBflag site i v).ces = s.ces := rfl
@[simp] theorem State.setBflag_scrubs (s : State) (site i v : Nat) : (s.setBflag site i v).scrubs = s.scrubs := rfl
@[simp] theorem State.setBflag_free (s : State) (site i v : Nat) : (s.setBflag site i v).free = s.free := rfl
@[simp] theorem State.setBflag_pending (s : State) (site i v : Nat) : (s.setBflag site i v).pending = s.pending := rfl
@[simp] theorem State.setBflag_reg (s : State) (site i v : Nat) (a_ : Nat) : (s.setBflag site i v).reg a_ = s.reg a_ := rfl
@[simp] theorem State.setSlate_asm (s : State) (x : Slate) : (s.setSlate x).asm = s.asm := rfl
@[simp] theorem State.setSlate_lead (s : State) (x : Slate) : (s.setSlate x).lead = s.lead := rfl
@[simp] theorem State.setSlate_regs (s : State) (x : Slate) : (s.setSlate x).regs = s.regs := rfl
@[simp] theorem State.setSlate_latch (s : State) (x : Slate) : (s.setSlate x).latch = s.latch := rfl
@[simp] theorem State.setSlate_rdata (s : State) (x : Slate) : (s.setSlate x).rdata = s.rdata := rfl
@[simp] theorem State.setSlate_rdataHi (s : State) (x : Slate) : (s.setSlate x).rdataHi = s.rdataHi := rfl
@[simp] theorem State.setSlate_back (s : State) (x : Slate) : (s.setSlate x).back = s.back := rfl
@[simp] theorem State.setSlate_bar2 (s : State) (x : Slate) : (s.setSlate x).bar2 = s.bar2 := rfl
@[simp] theorem State.setSlate_out (s : State) (x : Slate) : (s.setSlate x).out = s.out := rfl
@[simp] theorem State.setSlate_now (s : State) (x : Slate) : (s.setSlate x).now = s.now := rfl
@[simp] theorem State.setSlate_clapper (s : State) (x : Slate) : (s.setSlate x).clapper = s.clapper := rfl
@[simp] theorem State.setSlate_clk (s : State) (x : Slate) : (s.setSlate x).clk = s.clk := rfl
@[simp] theorem State.setSlate_sup (s : State) (x : Slate) : (s.setSlate x).sup = s.sup := rfl
@[simp] theorem State.setSlate_fios (s : State) (x : Slate) : (s.setSlate x).fios = s.fios := rfl
@[simp] theorem State.setSlate_ticks (s : State) (x : Slate) : (s.setSlate x).ticks = s.ticks := rfl
@[simp] theorem State.setSlate_encs (s : State) (x : Slate) : (s.setSlate x).encs = s.encs := rfl
@[simp] theorem State.setSlate_poss (s : State) (x : Slate) : (s.setSlate x).poss = s.poss := rfl
@[simp] theorem State.setSlate_cevs (s : State) (x : Slate) : (s.setSlate x).cevs = s.cevs := rfl
@[simp] theorem State.setSlate_segArms (s : State) (x : Slate) : (s.setSlate x).segArms = s.segArms := rfl
@[simp] theorem State.setSlate_slots (s : State) (x : Slate) : (s.setSlate x).slots = s.slots := rfl
@[simp] theorem State.setSlate_groups (s : State) (x : Slate) : (s.setSlate x).groups = s.groups := rfl
@[simp] theorem State.setSlate_order (s : State) (x : Slate) : (s.setSlate x).order = s.order := rfl
@[simp] theorem State.setSlate_meters (s : State) (x : Slate) : (s.setSlate x).meters = s.meters := rfl
@[simp] theorem State.setSlate_calibs (s : State) (x : Slate) : (s.setSlate x).calibs = s.calibs := rfl
@[simp] theorem State.setSlate_gaffer (s : State) (x : Slate) : (s.setSlate x).gaffer = s.gaffer := rfl
@[simp] theorem State.setSlate_tenants (s : State) (x : Slate) : (s.setSlate x).tenants = s.tenants := rfl
@[simp] theorem State.setSlate_sec (s : State) (x : Slate) : (s.setSlate x).sec = s.sec := rfl
@[simp] theorem State.setSlate_ens (s : State) (x : Slate) : (s.setSlate x).ens = s.ens := rfl
@[simp] theorem State.setSlate_ports (s : State) (x : Slate) : (s.setSlate x).ports = s.ports := rfl
@[simp] theorem State.setSlate_mons (s : State) (x : Slate) : (s.setSlate x).mons = s.mons := rfl
@[simp] theorem State.setSlate_boot (s : State) (x : Slate) : (s.setSlate x).boot = s.boot := rfl
@[simp] theorem State.setSlate_ram (s : State) (x : Slate) : (s.setSlate x).ram = s.ram := rfl
@[simp] theorem State.setSlate_hmem (s : State) (x : Slate) : (s.setSlate x).hmem = s.hmem := rfl
@[simp] theorem State.setSlate_badCpl (s : State) (x : Slate) : (s.setSlate x).badCpl = s.badCpl := rfl
@[simp] theorem State.setSlate_mute (s : State) (x : Slate) : (s.setSlate x).mute = s.mute := rfl
@[simp] theorem State.setSlate_flash (s : State) (x : Slate) : (s.setSlate x).flash = s.flash := rfl
@[simp] theorem State.setSlate_weak (s : State) (x : Slate) : (s.setSlate x).weak = s.weak := rfl
@[simp] theorem State.setSlate_loads (s : State) (x : Slate) : (s.setSlate x).loads = s.loads := rfl
@[simp] theorem State.setSlate_restarts (s : State) (x : Slate) : (s.setSlate x).restarts = s.restarts := rfl
@[simp] theorem State.setSlate_rings (s : State) (x : Slate) : (s.setSlate x).rings = s.rings := rfl
@[simp] theorem State.setSlate_strms (s : State) (x : Slate) : (s.setSlate x).strms = s.strms := rfl
@[simp] theorem State.setSlate_gates (s : State) (x : Slate) : (s.setSlate x).gates = s.gates := rfl
@[simp] theorem State.setSlate_axes (s : State) (x : Slate) : (s.setSlate x).axes = s.axes := rfl
@[simp] theorem State.setSlate_grps (s : State) (x : Slate) : (s.setSlate x).grps = s.grps := rfl
@[simp] theorem State.setSlate_slotRings (s : State) (x : Slate) : (s.setSlate x).slotRings = s.slotRings := rfl
@[simp] theorem State.setSlate_cueQs (s : State) (x : Slate) : (s.setSlate x).cueQs = s.cueQs := rfl
@[simp] theorem State.setSlate_binFlags (s : State) (x : Slate) : (s.setSlate x).binFlags = s.binFlags := rfl
@[simp] theorem State.setSlate_gens (s : State) (x : Slate) : (s.setSlate x).gens = s.gens := rfl
@[simp] theorem State.setSlate_cancels (s : State) (x : Slate) : (s.setSlate x).cancels = s.cancels := rfl
@[simp] theorem State.setSlate_tqs (s : State) (x : Slate) : (s.setSlate x).tqs = s.tqs := rfl
@[simp] theorem State.setSlate_sched (s : State) (x : Slate) : (s.setSlate x).sched = s.sched := rfl
@[simp] theorem State.setSlate_dqs (s : State) (x : Slate) : (s.setSlate x).dqs = s.dqs := rfl
@[simp] theorem State.setSlate_cores (s : State) (x : Slate) : (s.setSlate x).cores = s.cores := rfl
@[simp] theorem State.setSlate_cmbs (s : State) (x : Slate) : (s.setSlate x).cmbs = s.cmbs := rfl
@[simp] theorem State.setSlate_engs (s : State) (x : Slate) : (s.setSlate x).engs = s.engs := rfl
@[simp] theorem State.setSlate_mmus (s : State) (x : Slate) : (s.setSlate x).mmus = s.mmus := rfl
@[simp] theorem State.setSlate_grans (s : State) (x : Slate) : (s.setSlate x).grans = s.grans := rfl
@[simp] theorem State.setSlate_granBusy (s : State) (x : Slate) : (s.setSlate x).granBusy = s.granBusy := rfl
@[simp] theorem State.setSlate_poison (s : State) (x : Slate) : (s.setSlate x).poison = s.poison := rfl
@[simp] theorem State.setSlate_buckets (s : State) (x : Slate) : (s.setSlate x).buckets = s.buckets := rfl
@[simp] theorem State.setSlate_arbs (s : State) (x : Slate) : (s.setSlate x).arbs = s.arbs := rfl
@[simp] theorem State.setSlate_capQs (s : State) (x : Slate) : (s.setSlate x).capQs = s.capQs := rfl
@[simp] theorem State.setSlate_avs (s : State) (x : Slate) : (s.setSlate x).avs = s.avs := rfl
@[simp] theorem State.setSlate_bndTaken (s : State) (x : Slate) : (s.setSlate x).bndTaken = s.bndTaken := rfl
@[simp] theorem State.setSlate_ces (s : State) (x : Slate) : (s.setSlate x).ces = s.ces := rfl
@[simp] theorem State.setSlate_scrubs (s : State) (x : Slate) : (s.setSlate x).scrubs = s.scrubs := rfl
@[simp] theorem State.setSlate_free (s : State) (x : Slate) : (s.setSlate x).free = s.free := rfl
@[simp] theorem State.setSlate_pending (s : State) (x : Slate) : (s.setSlate x).pending = s.pending := rfl
@[simp] theorem State.setSlate_reg (s : State) (x : Slate) (a_ : Nat) : (s.setSlate x).reg a_ = s.reg a_ := rfl
@[simp] theorem State.setMmu_asm (s : State) (t : Nat) (x : Mmu) : (s.setMmu t x).asm = s.asm := rfl
@[simp] theorem State.setMmu_lead (s : State) (t : Nat) (x : Mmu) : (s.setMmu t x).lead = s.lead := rfl
@[simp] theorem State.setMmu_regs (s : State) (t : Nat) (x : Mmu) : (s.setMmu t x).regs = s.regs := rfl
@[simp] theorem State.setMmu_latch (s : State) (t : Nat) (x : Mmu) : (s.setMmu t x).latch = s.latch := rfl
@[simp] theorem State.setMmu_rdata (s : State) (t : Nat) (x : Mmu) : (s.setMmu t x).rdata = s.rdata := rfl
@[simp] theorem State.setMmu_rdataHi (s : State) (t : Nat) (x : Mmu) : (s.setMmu t x).rdataHi = s.rdataHi := rfl
@[simp] theorem State.setMmu_back (s : State) (t : Nat) (x : Mmu) : (s.setMmu t x).back = s.back := rfl
@[simp] theorem State.setMmu_bar2 (s : State) (t : Nat) (x : Mmu) : (s.setMmu t x).bar2 = s.bar2 := rfl
@[simp] theorem State.setMmu_out (s : State) (t : Nat) (x : Mmu) : (s.setMmu t x).out = s.out := rfl
@[simp] theorem State.setMmu_now (s : State) (t : Nat) (x : Mmu) : (s.setMmu t x).now = s.now := rfl
@[simp] theorem State.setMmu_clapper (s : State) (t : Nat) (x : Mmu) : (s.setMmu t x).clapper = s.clapper := rfl
@[simp] theorem State.setMmu_clk (s : State) (t : Nat) (x : Mmu) : (s.setMmu t x).clk = s.clk := rfl
@[simp] theorem State.setMmu_sup (s : State) (t : Nat) (x : Mmu) : (s.setMmu t x).sup = s.sup := rfl
@[simp] theorem State.setMmu_fios (s : State) (t : Nat) (x : Mmu) : (s.setMmu t x).fios = s.fios := rfl
@[simp] theorem State.setMmu_ticks (s : State) (t : Nat) (x : Mmu) : (s.setMmu t x).ticks = s.ticks := rfl
@[simp] theorem State.setMmu_encs (s : State) (t : Nat) (x : Mmu) : (s.setMmu t x).encs = s.encs := rfl
@[simp] theorem State.setMmu_poss (s : State) (t : Nat) (x : Mmu) : (s.setMmu t x).poss = s.poss := rfl
@[simp] theorem State.setMmu_cevs (s : State) (t : Nat) (x : Mmu) : (s.setMmu t x).cevs = s.cevs := rfl
@[simp] theorem State.setMmu_segArms (s : State) (t : Nat) (x : Mmu) : (s.setMmu t x).segArms = s.segArms := rfl
@[simp] theorem State.setMmu_slots (s : State) (t : Nat) (x : Mmu) : (s.setMmu t x).slots = s.slots := rfl
@[simp] theorem State.setMmu_groups (s : State) (t : Nat) (x : Mmu) : (s.setMmu t x).groups = s.groups := rfl
@[simp] theorem State.setMmu_order (s : State) (t : Nat) (x : Mmu) : (s.setMmu t x).order = s.order := rfl
@[simp] theorem State.setMmu_meters (s : State) (t : Nat) (x : Mmu) : (s.setMmu t x).meters = s.meters := rfl
@[simp] theorem State.setMmu_calibs (s : State) (t : Nat) (x : Mmu) : (s.setMmu t x).calibs = s.calibs := rfl
@[simp] theorem State.setMmu_gaffer (s : State) (t : Nat) (x : Mmu) : (s.setMmu t x).gaffer = s.gaffer := rfl
@[simp] theorem State.setMmu_tenants (s : State) (t : Nat) (x : Mmu) : (s.setMmu t x).tenants = s.tenants := rfl
@[simp] theorem State.setMmu_sec (s : State) (t : Nat) (x : Mmu) : (s.setMmu t x).sec = s.sec := rfl
@[simp] theorem State.setMmu_ens (s : State) (t : Nat) (x : Mmu) : (s.setMmu t x).ens = s.ens := rfl
@[simp] theorem State.setMmu_ports (s : State) (t : Nat) (x : Mmu) : (s.setMmu t x).ports = s.ports := rfl
@[simp] theorem State.setMmu_mons (s : State) (t : Nat) (x : Mmu) : (s.setMmu t x).mons = s.mons := rfl
@[simp] theorem State.setMmu_boot (s : State) (t : Nat) (x : Mmu) : (s.setMmu t x).boot = s.boot := rfl
@[simp] theorem State.setMmu_ram (s : State) (t : Nat) (x : Mmu) : (s.setMmu t x).ram = s.ram := rfl
@[simp] theorem State.setMmu_hmem (s : State) (t : Nat) (x : Mmu) : (s.setMmu t x).hmem = s.hmem := rfl
@[simp] theorem State.setMmu_badCpl (s : State) (t : Nat) (x : Mmu) : (s.setMmu t x).badCpl = s.badCpl := rfl
@[simp] theorem State.setMmu_mute (s : State) (t : Nat) (x : Mmu) : (s.setMmu t x).mute = s.mute := rfl
@[simp] theorem State.setMmu_flash (s : State) (t : Nat) (x : Mmu) : (s.setMmu t x).flash = s.flash := rfl
@[simp] theorem State.setMmu_weak (s : State) (t : Nat) (x : Mmu) : (s.setMmu t x).weak = s.weak := rfl
@[simp] theorem State.setMmu_loads (s : State) (t : Nat) (x : Mmu) : (s.setMmu t x).loads = s.loads := rfl
@[simp] theorem State.setMmu_restarts (s : State) (t : Nat) (x : Mmu) : (s.setMmu t x).restarts = s.restarts := rfl
@[simp] theorem State.setMmu_rings (s : State) (t : Nat) (x : Mmu) : (s.setMmu t x).rings = s.rings := rfl
@[simp] theorem State.setMmu_strms (s : State) (t : Nat) (x : Mmu) : (s.setMmu t x).strms = s.strms := rfl
@[simp] theorem State.setMmu_gates (s : State) (t : Nat) (x : Mmu) : (s.setMmu t x).gates = s.gates := rfl
@[simp] theorem State.setMmu_axes (s : State) (t : Nat) (x : Mmu) : (s.setMmu t x).axes = s.axes := rfl
@[simp] theorem State.setMmu_grps (s : State) (t : Nat) (x : Mmu) : (s.setMmu t x).grps = s.grps := rfl
@[simp] theorem State.setMmu_slotRings (s : State) (t : Nat) (x : Mmu) : (s.setMmu t x).slotRings = s.slotRings := rfl
@[simp] theorem State.setMmu_cueQs (s : State) (t : Nat) (x : Mmu) : (s.setMmu t x).cueQs = s.cueQs := rfl
@[simp] theorem State.setMmu_binFlags (s : State) (t : Nat) (x : Mmu) : (s.setMmu t x).binFlags = s.binFlags := rfl
@[simp] theorem State.setMmu_slates (s : State) (t : Nat) (x : Mmu) : (s.setMmu t x).slates = s.slates := rfl
@[simp] theorem State.setMmu_gens (s : State) (t : Nat) (x : Mmu) : (s.setMmu t x).gens = s.gens := rfl
@[simp] theorem State.setMmu_cancels (s : State) (t : Nat) (x : Mmu) : (s.setMmu t x).cancels = s.cancels := rfl
@[simp] theorem State.setMmu_tqs (s : State) (t : Nat) (x : Mmu) : (s.setMmu t x).tqs = s.tqs := rfl
@[simp] theorem State.setMmu_sched (s : State) (t : Nat) (x : Mmu) : (s.setMmu t x).sched = s.sched := rfl
@[simp] theorem State.setMmu_dqs (s : State) (t : Nat) (x : Mmu) : (s.setMmu t x).dqs = s.dqs := rfl
@[simp] theorem State.setMmu_cores (s : State) (t : Nat) (x : Mmu) : (s.setMmu t x).cores = s.cores := rfl
@[simp] theorem State.setMmu_cmbs (s : State) (t : Nat) (x : Mmu) : (s.setMmu t x).cmbs = s.cmbs := rfl
@[simp] theorem State.setMmu_engs (s : State) (t : Nat) (x : Mmu) : (s.setMmu t x).engs = s.engs := rfl
@[simp] theorem State.setMmu_grans (s : State) (t : Nat) (x : Mmu) : (s.setMmu t x).grans = s.grans := rfl
@[simp] theorem State.setMmu_granBusy (s : State) (t : Nat) (x : Mmu) : (s.setMmu t x).granBusy = s.granBusy := rfl
@[simp] theorem State.setMmu_poison (s : State) (t : Nat) (x : Mmu) : (s.setMmu t x).poison = s.poison := rfl
@[simp] theorem State.setMmu_buckets (s : State) (t : Nat) (x : Mmu) : (s.setMmu t x).buckets = s.buckets := rfl
@[simp] theorem State.setMmu_arbs (s : State) (t : Nat) (x : Mmu) : (s.setMmu t x).arbs = s.arbs := rfl
@[simp] theorem State.setMmu_capQs (s : State) (t : Nat) (x : Mmu) : (s.setMmu t x).capQs = s.capQs := rfl
@[simp] theorem State.setMmu_avs (s : State) (t : Nat) (x : Mmu) : (s.setMmu t x).avs = s.avs := rfl
@[simp] theorem State.setMmu_bndTaken (s : State) (t : Nat) (x : Mmu) : (s.setMmu t x).bndTaken = s.bndTaken := rfl
@[simp] theorem State.setMmu_ces (s : State) (t : Nat) (x : Mmu) : (s.setMmu t x).ces = s.ces := rfl
@[simp] theorem State.setMmu_scrubs (s : State) (t : Nat) (x : Mmu) : (s.setMmu t x).scrubs = s.scrubs := rfl
@[simp] theorem State.setMmu_free (s : State) (t : Nat) (x : Mmu) : (s.setMmu t x).free = s.free := rfl
@[simp] theorem State.setMmu_pending (s : State) (t : Nat) (x : Mmu) : (s.setMmu t x).pending = s.pending := rfl
@[simp] theorem State.setMmu_reg (s : State) (t : Nat) (x : Mmu) (a_ : Nat) : (s.setMmu t x).reg a_ = s.reg a_ := rfl
@[simp] theorem State.setTq_asm (s : State) (t q : Nat) (x : TQ) : (s.setTq t q x).asm = s.asm := rfl
@[simp] theorem State.setTq_lead (s : State) (t q : Nat) (x : TQ) : (s.setTq t q x).lead = s.lead := rfl
@[simp] theorem State.setTq_regs (s : State) (t q : Nat) (x : TQ) : (s.setTq t q x).regs = s.regs := rfl
@[simp] theorem State.setTq_latch (s : State) (t q : Nat) (x : TQ) : (s.setTq t q x).latch = s.latch := rfl
@[simp] theorem State.setTq_rdata (s : State) (t q : Nat) (x : TQ) : (s.setTq t q x).rdata = s.rdata := rfl
@[simp] theorem State.setTq_rdataHi (s : State) (t q : Nat) (x : TQ) : (s.setTq t q x).rdataHi = s.rdataHi := rfl
@[simp] theorem State.setTq_back (s : State) (t q : Nat) (x : TQ) : (s.setTq t q x).back = s.back := rfl
@[simp] theorem State.setTq_bar2 (s : State) (t q : Nat) (x : TQ) : (s.setTq t q x).bar2 = s.bar2 := rfl
@[simp] theorem State.setTq_out (s : State) (t q : Nat) (x : TQ) : (s.setTq t q x).out = s.out := rfl
@[simp] theorem State.setTq_now (s : State) (t q : Nat) (x : TQ) : (s.setTq t q x).now = s.now := rfl
@[simp] theorem State.setTq_clapper (s : State) (t q : Nat) (x : TQ) : (s.setTq t q x).clapper = s.clapper := rfl
@[simp] theorem State.setTq_clk (s : State) (t q : Nat) (x : TQ) : (s.setTq t q x).clk = s.clk := rfl
@[simp] theorem State.setTq_sup (s : State) (t q : Nat) (x : TQ) : (s.setTq t q x).sup = s.sup := rfl
@[simp] theorem State.setTq_fios (s : State) (t q : Nat) (x : TQ) : (s.setTq t q x).fios = s.fios := rfl
@[simp] theorem State.setTq_ticks (s : State) (t q : Nat) (x : TQ) : (s.setTq t q x).ticks = s.ticks := rfl
@[simp] theorem State.setTq_encs (s : State) (t q : Nat) (x : TQ) : (s.setTq t q x).encs = s.encs := rfl
@[simp] theorem State.setTq_poss (s : State) (t q : Nat) (x : TQ) : (s.setTq t q x).poss = s.poss := rfl
@[simp] theorem State.setTq_cevs (s : State) (t q : Nat) (x : TQ) : (s.setTq t q x).cevs = s.cevs := rfl
@[simp] theorem State.setTq_segArms (s : State) (t q : Nat) (x : TQ) : (s.setTq t q x).segArms = s.segArms := rfl
@[simp] theorem State.setTq_slots (s : State) (t q : Nat) (x : TQ) : (s.setTq t q x).slots = s.slots := rfl
@[simp] theorem State.setTq_groups (s : State) (t q : Nat) (x : TQ) : (s.setTq t q x).groups = s.groups := rfl
@[simp] theorem State.setTq_order (s : State) (t q : Nat) (x : TQ) : (s.setTq t q x).order = s.order := rfl
@[simp] theorem State.setTq_meters (s : State) (t q : Nat) (x : TQ) : (s.setTq t q x).meters = s.meters := rfl
@[simp] theorem State.setTq_calibs (s : State) (t q : Nat) (x : TQ) : (s.setTq t q x).calibs = s.calibs := rfl
@[simp] theorem State.setTq_gaffer (s : State) (t q : Nat) (x : TQ) : (s.setTq t q x).gaffer = s.gaffer := rfl
@[simp] theorem State.setTq_tenants (s : State) (t q : Nat) (x : TQ) : (s.setTq t q x).tenants = s.tenants := rfl
@[simp] theorem State.setTq_sec (s : State) (t q : Nat) (x : TQ) : (s.setTq t q x).sec = s.sec := rfl
@[simp] theorem State.setTq_ens (s : State) (t q : Nat) (x : TQ) : (s.setTq t q x).ens = s.ens := rfl
@[simp] theorem State.setTq_ports (s : State) (t q : Nat) (x : TQ) : (s.setTq t q x).ports = s.ports := rfl
@[simp] theorem State.setTq_mons (s : State) (t q : Nat) (x : TQ) : (s.setTq t q x).mons = s.mons := rfl
@[simp] theorem State.setTq_boot (s : State) (t q : Nat) (x : TQ) : (s.setTq t q x).boot = s.boot := rfl
@[simp] theorem State.setTq_ram (s : State) (t q : Nat) (x : TQ) : (s.setTq t q x).ram = s.ram := rfl
@[simp] theorem State.setTq_hmem (s : State) (t q : Nat) (x : TQ) : (s.setTq t q x).hmem = s.hmem := rfl
@[simp] theorem State.setTq_badCpl (s : State) (t q : Nat) (x : TQ) : (s.setTq t q x).badCpl = s.badCpl := rfl
@[simp] theorem State.setTq_mute (s : State) (t q : Nat) (x : TQ) : (s.setTq t q x).mute = s.mute := rfl
@[simp] theorem State.setTq_flash (s : State) (t q : Nat) (x : TQ) : (s.setTq t q x).flash = s.flash := rfl
@[simp] theorem State.setTq_weak (s : State) (t q : Nat) (x : TQ) : (s.setTq t q x).weak = s.weak := rfl
@[simp] theorem State.setTq_loads (s : State) (t q : Nat) (x : TQ) : (s.setTq t q x).loads = s.loads := rfl
@[simp] theorem State.setTq_restarts (s : State) (t q : Nat) (x : TQ) : (s.setTq t q x).restarts = s.restarts := rfl
@[simp] theorem State.setTq_rings (s : State) (t q : Nat) (x : TQ) : (s.setTq t q x).rings = s.rings := rfl
@[simp] theorem State.setTq_strms (s : State) (t q : Nat) (x : TQ) : (s.setTq t q x).strms = s.strms := rfl
@[simp] theorem State.setTq_gates (s : State) (t q : Nat) (x : TQ) : (s.setTq t q x).gates = s.gates := rfl
@[simp] theorem State.setTq_axes (s : State) (t q : Nat) (x : TQ) : (s.setTq t q x).axes = s.axes := rfl
@[simp] theorem State.setTq_grps (s : State) (t q : Nat) (x : TQ) : (s.setTq t q x).grps = s.grps := rfl
@[simp] theorem State.setTq_slotRings (s : State) (t q : Nat) (x : TQ) : (s.setTq t q x).slotRings = s.slotRings := rfl
@[simp] theorem State.setTq_cueQs (s : State) (t q : Nat) (x : TQ) : (s.setTq t q x).cueQs = s.cueQs := rfl
@[simp] theorem State.setTq_binFlags (s : State) (t q : Nat) (x : TQ) : (s.setTq t q x).binFlags = s.binFlags := rfl
@[simp] theorem State.setTq_slates (s : State) (t q : Nat) (x : TQ) : (s.setTq t q x).slates = s.slates := rfl
@[simp] theorem State.setTq_gens (s : State) (t q : Nat) (x : TQ) : (s.setTq t q x).gens = s.gens := rfl
@[simp] theorem State.setTq_cancels (s : State) (t q : Nat) (x : TQ) : (s.setTq t q x).cancels = s.cancels := rfl
@[simp] theorem State.setTq_sched (s : State) (t q : Nat) (x : TQ) : (s.setTq t q x).sched = s.sched := rfl
@[simp] theorem State.setTq_dqs (s : State) (t q : Nat) (x : TQ) : (s.setTq t q x).dqs = s.dqs := rfl
@[simp] theorem State.setTq_cores (s : State) (t q : Nat) (x : TQ) : (s.setTq t q x).cores = s.cores := rfl
@[simp] theorem State.setTq_cmbs (s : State) (t q : Nat) (x : TQ) : (s.setTq t q x).cmbs = s.cmbs := rfl
@[simp] theorem State.setTq_engs (s : State) (t q : Nat) (x : TQ) : (s.setTq t q x).engs = s.engs := rfl
@[simp] theorem State.setTq_mmus (s : State) (t q : Nat) (x : TQ) : (s.setTq t q x).mmus = s.mmus := rfl
@[simp] theorem State.setTq_grans (s : State) (t q : Nat) (x : TQ) : (s.setTq t q x).grans = s.grans := rfl
@[simp] theorem State.setTq_granBusy (s : State) (t q : Nat) (x : TQ) : (s.setTq t q x).granBusy = s.granBusy := rfl
@[simp] theorem State.setTq_poison (s : State) (t q : Nat) (x : TQ) : (s.setTq t q x).poison = s.poison := rfl
@[simp] theorem State.setTq_buckets (s : State) (t q : Nat) (x : TQ) : (s.setTq t q x).buckets = s.buckets := rfl
@[simp] theorem State.setTq_arbs (s : State) (t q : Nat) (x : TQ) : (s.setTq t q x).arbs = s.arbs := rfl
@[simp] theorem State.setTq_capQs (s : State) (t q : Nat) (x : TQ) : (s.setTq t q x).capQs = s.capQs := rfl
@[simp] theorem State.setTq_avs (s : State) (t q : Nat) (x : TQ) : (s.setTq t q x).avs = s.avs := rfl
@[simp] theorem State.setTq_bndTaken (s : State) (t q : Nat) (x : TQ) : (s.setTq t q x).bndTaken = s.bndTaken := rfl
@[simp] theorem State.setTq_ces (s : State) (t q : Nat) (x : TQ) : (s.setTq t q x).ces = s.ces := rfl
@[simp] theorem State.setTq_scrubs (s : State) (t q : Nat) (x : TQ) : (s.setTq t q x).scrubs = s.scrubs := rfl
@[simp] theorem State.setTq_free (s : State) (t q : Nat) (x : TQ) : (s.setTq t q x).free = s.free := rfl
@[simp] theorem State.setTq_pending (s : State) (t q : Nat) (x : TQ) : (s.setTq t q x).pending = s.pending := rfl
@[simp] theorem State.setTq_reg (s : State) (t q : Nat) (x : TQ) (a_ : Nat) : (s.setTq t q x).reg a_ = s.reg a_ := rfl
@[simp] theorem State.setCore_asm (s : State) (site c : Nat) (x : Core) : (s.setCore site c x).asm = s.asm := rfl
@[simp] theorem State.setCore_lead (s : State) (site c : Nat) (x : Core) : (s.setCore site c x).lead = s.lead := rfl
@[simp] theorem State.setCore_regs (s : State) (site c : Nat) (x : Core) : (s.setCore site c x).regs = s.regs := rfl
@[simp] theorem State.setCore_latch (s : State) (site c : Nat) (x : Core) : (s.setCore site c x).latch = s.latch := rfl
@[simp] theorem State.setCore_rdata (s : State) (site c : Nat) (x : Core) : (s.setCore site c x).rdata = s.rdata := rfl
@[simp] theorem State.setCore_rdataHi (s : State) (site c : Nat) (x : Core) : (s.setCore site c x).rdataHi = s.rdataHi := rfl
@[simp] theorem State.setCore_back (s : State) (site c : Nat) (x : Core) : (s.setCore site c x).back = s.back := rfl
@[simp] theorem State.setCore_bar2 (s : State) (site c : Nat) (x : Core) : (s.setCore site c x).bar2 = s.bar2 := rfl
@[simp] theorem State.setCore_out (s : State) (site c : Nat) (x : Core) : (s.setCore site c x).out = s.out := rfl
@[simp] theorem State.setCore_now (s : State) (site c : Nat) (x : Core) : (s.setCore site c x).now = s.now := rfl
@[simp] theorem State.setCore_clapper (s : State) (site c : Nat) (x : Core) : (s.setCore site c x).clapper = s.clapper := rfl
@[simp] theorem State.setCore_clk (s : State) (site c : Nat) (x : Core) : (s.setCore site c x).clk = s.clk := rfl
@[simp] theorem State.setCore_sup (s : State) (site c : Nat) (x : Core) : (s.setCore site c x).sup = s.sup := rfl
@[simp] theorem State.setCore_fios (s : State) (site c : Nat) (x : Core) : (s.setCore site c x).fios = s.fios := rfl
@[simp] theorem State.setCore_ticks (s : State) (site c : Nat) (x : Core) : (s.setCore site c x).ticks = s.ticks := rfl
@[simp] theorem State.setCore_encs (s : State) (site c : Nat) (x : Core) : (s.setCore site c x).encs = s.encs := rfl
@[simp] theorem State.setCore_poss (s : State) (site c : Nat) (x : Core) : (s.setCore site c x).poss = s.poss := rfl
@[simp] theorem State.setCore_cevs (s : State) (site c : Nat) (x : Core) : (s.setCore site c x).cevs = s.cevs := rfl
@[simp] theorem State.setCore_segArms (s : State) (site c : Nat) (x : Core) : (s.setCore site c x).segArms = s.segArms := rfl
@[simp] theorem State.setCore_slots (s : State) (site c : Nat) (x : Core) : (s.setCore site c x).slots = s.slots := rfl
@[simp] theorem State.setCore_groups (s : State) (site c : Nat) (x : Core) : (s.setCore site c x).groups = s.groups := rfl
@[simp] theorem State.setCore_order (s : State) (site c : Nat) (x : Core) : (s.setCore site c x).order = s.order := rfl
@[simp] theorem State.setCore_meters (s : State) (site c : Nat) (x : Core) : (s.setCore site c x).meters = s.meters := rfl
@[simp] theorem State.setCore_calibs (s : State) (site c : Nat) (x : Core) : (s.setCore site c x).calibs = s.calibs := rfl
@[simp] theorem State.setCore_gaffer (s : State) (site c : Nat) (x : Core) : (s.setCore site c x).gaffer = s.gaffer := rfl
@[simp] theorem State.setCore_tenants (s : State) (site c : Nat) (x : Core) : (s.setCore site c x).tenants = s.tenants := rfl
@[simp] theorem State.setCore_sec (s : State) (site c : Nat) (x : Core) : (s.setCore site c x).sec = s.sec := rfl
@[simp] theorem State.setCore_ens (s : State) (site c : Nat) (x : Core) : (s.setCore site c x).ens = s.ens := rfl
@[simp] theorem State.setCore_ports (s : State) (site c : Nat) (x : Core) : (s.setCore site c x).ports = s.ports := rfl
@[simp] theorem State.setCore_mons (s : State) (site c : Nat) (x : Core) : (s.setCore site c x).mons = s.mons := rfl
@[simp] theorem State.setCore_boot (s : State) (site c : Nat) (x : Core) : (s.setCore site c x).boot = s.boot := rfl
@[simp] theorem State.setCore_ram (s : State) (site c : Nat) (x : Core) : (s.setCore site c x).ram = s.ram := rfl
@[simp] theorem State.setCore_hmem (s : State) (site c : Nat) (x : Core) : (s.setCore site c x).hmem = s.hmem := rfl
@[simp] theorem State.setCore_badCpl (s : State) (site c : Nat) (x : Core) : (s.setCore site c x).badCpl = s.badCpl := rfl
@[simp] theorem State.setCore_mute (s : State) (site c : Nat) (x : Core) : (s.setCore site c x).mute = s.mute := rfl
@[simp] theorem State.setCore_flash (s : State) (site c : Nat) (x : Core) : (s.setCore site c x).flash = s.flash := rfl
@[simp] theorem State.setCore_weak (s : State) (site c : Nat) (x : Core) : (s.setCore site c x).weak = s.weak := rfl
@[simp] theorem State.setCore_loads (s : State) (site c : Nat) (x : Core) : (s.setCore site c x).loads = s.loads := rfl
@[simp] theorem State.setCore_restarts (s : State) (site c : Nat) (x : Core) : (s.setCore site c x).restarts = s.restarts := rfl
@[simp] theorem State.setCore_rings (s : State) (site c : Nat) (x : Core) : (s.setCore site c x).rings = s.rings := rfl
@[simp] theorem State.setCore_strms (s : State) (site c : Nat) (x : Core) : (s.setCore site c x).strms = s.strms := rfl
@[simp] theorem State.setCore_gates (s : State) (site c : Nat) (x : Core) : (s.setCore site c x).gates = s.gates := rfl
@[simp] theorem State.setCore_axes (s : State) (site c : Nat) (x : Core) : (s.setCore site c x).axes = s.axes := rfl
@[simp] theorem State.setCore_grps (s : State) (site c : Nat) (x : Core) : (s.setCore site c x).grps = s.grps := rfl
@[simp] theorem State.setCore_slotRings (s : State) (site c : Nat) (x : Core) : (s.setCore site c x).slotRings = s.slotRings := rfl
@[simp] theorem State.setCore_cueQs (s : State) (site c : Nat) (x : Core) : (s.setCore site c x).cueQs = s.cueQs := rfl
@[simp] theorem State.setCore_binFlags (s : State) (site c : Nat) (x : Core) : (s.setCore site c x).binFlags = s.binFlags := rfl
@[simp] theorem State.setCore_slates (s : State) (site c : Nat) (x : Core) : (s.setCore site c x).slates = s.slates := rfl
@[simp] theorem State.setCore_gens (s : State) (site c : Nat) (x : Core) : (s.setCore site c x).gens = s.gens := rfl
@[simp] theorem State.setCore_cancels (s : State) (site c : Nat) (x : Core) : (s.setCore site c x).cancels = s.cancels := rfl
@[simp] theorem State.setCore_tqs (s : State) (site c : Nat) (x : Core) : (s.setCore site c x).tqs = s.tqs := rfl
@[simp] theorem State.setCore_sched (s : State) (site c : Nat) (x : Core) : (s.setCore site c x).sched = s.sched := rfl
@[simp] theorem State.setCore_dqs (s : State) (site c : Nat) (x : Core) : (s.setCore site c x).dqs = s.dqs := rfl
@[simp] theorem State.setCore_cmbs (s : State) (site c : Nat) (x : Core) : (s.setCore site c x).cmbs = s.cmbs := rfl
@[simp] theorem State.setCore_engs (s : State) (site c : Nat) (x : Core) : (s.setCore site c x).engs = s.engs := rfl
@[simp] theorem State.setCore_mmus (s : State) (site c : Nat) (x : Core) : (s.setCore site c x).mmus = s.mmus := rfl
@[simp] theorem State.setCore_grans (s : State) (site c : Nat) (x : Core) : (s.setCore site c x).grans = s.grans := rfl
@[simp] theorem State.setCore_granBusy (s : State) (site c : Nat) (x : Core) : (s.setCore site c x).granBusy = s.granBusy := rfl
@[simp] theorem State.setCore_poison (s : State) (site c : Nat) (x : Core) : (s.setCore site c x).poison = s.poison := rfl
@[simp] theorem State.setCore_buckets (s : State) (site c : Nat) (x : Core) : (s.setCore site c x).buckets = s.buckets := rfl
@[simp] theorem State.setCore_arbs (s : State) (site c : Nat) (x : Core) : (s.setCore site c x).arbs = s.arbs := rfl
@[simp] theorem State.setCore_capQs (s : State) (site c : Nat) (x : Core) : (s.setCore site c x).capQs = s.capQs := rfl
@[simp] theorem State.setCore_avs (s : State) (site c : Nat) (x : Core) : (s.setCore site c x).avs = s.avs := rfl
@[simp] theorem State.setCore_bndTaken (s : State) (site c : Nat) (x : Core) : (s.setCore site c x).bndTaken = s.bndTaken := rfl
@[simp] theorem State.setCore_ces (s : State) (site c : Nat) (x : Core) : (s.setCore site c x).ces = s.ces := rfl
@[simp] theorem State.setCore_scrubs (s : State) (site c : Nat) (x : Core) : (s.setCore site c x).scrubs = s.scrubs := rfl
@[simp] theorem State.setCore_free (s : State) (site c : Nat) (x : Core) : (s.setCore site c x).free = s.free := rfl
@[simp] theorem State.setCore_pending (s : State) (site c : Nat) (x : Core) : (s.setCore site c x).pending = s.pending := rfl
@[simp] theorem State.setCore_reg (s : State) (site c : Nat) (x : Core) (a_ : Nat) : (s.setCore site c x).reg a_ = s.reg a_ := rfl
@[simp] theorem State.setDq_asm (s : State) (site c q : Nat) (x : DQ) : (s.setDq site c q x).asm = s.asm := rfl
@[simp] theorem State.setDq_lead (s : State) (site c q : Nat) (x : DQ) : (s.setDq site c q x).lead = s.lead := rfl
@[simp] theorem State.setDq_regs (s : State) (site c q : Nat) (x : DQ) : (s.setDq site c q x).regs = s.regs := rfl
@[simp] theorem State.setDq_latch (s : State) (site c q : Nat) (x : DQ) : (s.setDq site c q x).latch = s.latch := rfl
@[simp] theorem State.setDq_rdata (s : State) (site c q : Nat) (x : DQ) : (s.setDq site c q x).rdata = s.rdata := rfl
@[simp] theorem State.setDq_rdataHi (s : State) (site c q : Nat) (x : DQ) : (s.setDq site c q x).rdataHi = s.rdataHi := rfl
@[simp] theorem State.setDq_back (s : State) (site c q : Nat) (x : DQ) : (s.setDq site c q x).back = s.back := rfl
@[simp] theorem State.setDq_bar2 (s : State) (site c q : Nat) (x : DQ) : (s.setDq site c q x).bar2 = s.bar2 := rfl
@[simp] theorem State.setDq_out (s : State) (site c q : Nat) (x : DQ) : (s.setDq site c q x).out = s.out := rfl
@[simp] theorem State.setDq_now (s : State) (site c q : Nat) (x : DQ) : (s.setDq site c q x).now = s.now := rfl
@[simp] theorem State.setDq_clapper (s : State) (site c q : Nat) (x : DQ) : (s.setDq site c q x).clapper = s.clapper := rfl
@[simp] theorem State.setDq_clk (s : State) (site c q : Nat) (x : DQ) : (s.setDq site c q x).clk = s.clk := rfl
@[simp] theorem State.setDq_sup (s : State) (site c q : Nat) (x : DQ) : (s.setDq site c q x).sup = s.sup := rfl
@[simp] theorem State.setDq_fios (s : State) (site c q : Nat) (x : DQ) : (s.setDq site c q x).fios = s.fios := rfl
@[simp] theorem State.setDq_ticks (s : State) (site c q : Nat) (x : DQ) : (s.setDq site c q x).ticks = s.ticks := rfl
@[simp] theorem State.setDq_encs (s : State) (site c q : Nat) (x : DQ) : (s.setDq site c q x).encs = s.encs := rfl
@[simp] theorem State.setDq_poss (s : State) (site c q : Nat) (x : DQ) : (s.setDq site c q x).poss = s.poss := rfl
@[simp] theorem State.setDq_cevs (s : State) (site c q : Nat) (x : DQ) : (s.setDq site c q x).cevs = s.cevs := rfl
@[simp] theorem State.setDq_segArms (s : State) (site c q : Nat) (x : DQ) : (s.setDq site c q x).segArms = s.segArms := rfl
@[simp] theorem State.setDq_slots (s : State) (site c q : Nat) (x : DQ) : (s.setDq site c q x).slots = s.slots := rfl
@[simp] theorem State.setDq_groups (s : State) (site c q : Nat) (x : DQ) : (s.setDq site c q x).groups = s.groups := rfl
@[simp] theorem State.setDq_order (s : State) (site c q : Nat) (x : DQ) : (s.setDq site c q x).order = s.order := rfl
@[simp] theorem State.setDq_meters (s : State) (site c q : Nat) (x : DQ) : (s.setDq site c q x).meters = s.meters := rfl
@[simp] theorem State.setDq_calibs (s : State) (site c q : Nat) (x : DQ) : (s.setDq site c q x).calibs = s.calibs := rfl
@[simp] theorem State.setDq_gaffer (s : State) (site c q : Nat) (x : DQ) : (s.setDq site c q x).gaffer = s.gaffer := rfl
@[simp] theorem State.setDq_tenants (s : State) (site c q : Nat) (x : DQ) : (s.setDq site c q x).tenants = s.tenants := rfl
@[simp] theorem State.setDq_sec (s : State) (site c q : Nat) (x : DQ) : (s.setDq site c q x).sec = s.sec := rfl
@[simp] theorem State.setDq_ens (s : State) (site c q : Nat) (x : DQ) : (s.setDq site c q x).ens = s.ens := rfl
@[simp] theorem State.setDq_ports (s : State) (site c q : Nat) (x : DQ) : (s.setDq site c q x).ports = s.ports := rfl
@[simp] theorem State.setDq_mons (s : State) (site c q : Nat) (x : DQ) : (s.setDq site c q x).mons = s.mons := rfl
@[simp] theorem State.setDq_boot (s : State) (site c q : Nat) (x : DQ) : (s.setDq site c q x).boot = s.boot := rfl
@[simp] theorem State.setDq_ram (s : State) (site c q : Nat) (x : DQ) : (s.setDq site c q x).ram = s.ram := rfl
@[simp] theorem State.setDq_hmem (s : State) (site c q : Nat) (x : DQ) : (s.setDq site c q x).hmem = s.hmem := rfl
@[simp] theorem State.setDq_badCpl (s : State) (site c q : Nat) (x : DQ) : (s.setDq site c q x).badCpl = s.badCpl := rfl
@[simp] theorem State.setDq_mute (s : State) (site c q : Nat) (x : DQ) : (s.setDq site c q x).mute = s.mute := rfl
@[simp] theorem State.setDq_flash (s : State) (site c q : Nat) (x : DQ) : (s.setDq site c q x).flash = s.flash := rfl
@[simp] theorem State.setDq_weak (s : State) (site c q : Nat) (x : DQ) : (s.setDq site c q x).weak = s.weak := rfl
@[simp] theorem State.setDq_loads (s : State) (site c q : Nat) (x : DQ) : (s.setDq site c q x).loads = s.loads := rfl
@[simp] theorem State.setDq_restarts (s : State) (site c q : Nat) (x : DQ) : (s.setDq site c q x).restarts = s.restarts := rfl
@[simp] theorem State.setDq_rings (s : State) (site c q : Nat) (x : DQ) : (s.setDq site c q x).rings = s.rings := rfl
@[simp] theorem State.setDq_strms (s : State) (site c q : Nat) (x : DQ) : (s.setDq site c q x).strms = s.strms := rfl
@[simp] theorem State.setDq_gates (s : State) (site c q : Nat) (x : DQ) : (s.setDq site c q x).gates = s.gates := rfl
@[simp] theorem State.setDq_axes (s : State) (site c q : Nat) (x : DQ) : (s.setDq site c q x).axes = s.axes := rfl
@[simp] theorem State.setDq_grps (s : State) (site c q : Nat) (x : DQ) : (s.setDq site c q x).grps = s.grps := rfl
@[simp] theorem State.setDq_slotRings (s : State) (site c q : Nat) (x : DQ) : (s.setDq site c q x).slotRings = s.slotRings := rfl
@[simp] theorem State.setDq_cueQs (s : State) (site c q : Nat) (x : DQ) : (s.setDq site c q x).cueQs = s.cueQs := rfl
@[simp] theorem State.setDq_binFlags (s : State) (site c q : Nat) (x : DQ) : (s.setDq site c q x).binFlags = s.binFlags := rfl
@[simp] theorem State.setDq_slates (s : State) (site c q : Nat) (x : DQ) : (s.setDq site c q x).slates = s.slates := rfl
@[simp] theorem State.setDq_gens (s : State) (site c q : Nat) (x : DQ) : (s.setDq site c q x).gens = s.gens := rfl
@[simp] theorem State.setDq_cancels (s : State) (site c q : Nat) (x : DQ) : (s.setDq site c q x).cancels = s.cancels := rfl
@[simp] theorem State.setDq_tqs (s : State) (site c q : Nat) (x : DQ) : (s.setDq site c q x).tqs = s.tqs := rfl
@[simp] theorem State.setDq_sched (s : State) (site c q : Nat) (x : DQ) : (s.setDq site c q x).sched = s.sched := rfl
@[simp] theorem State.setDq_cores (s : State) (site c q : Nat) (x : DQ) : (s.setDq site c q x).cores = s.cores := rfl
@[simp] theorem State.setDq_cmbs (s : State) (site c q : Nat) (x : DQ) : (s.setDq site c q x).cmbs = s.cmbs := rfl
@[simp] theorem State.setDq_engs (s : State) (site c q : Nat) (x : DQ) : (s.setDq site c q x).engs = s.engs := rfl
@[simp] theorem State.setDq_mmus (s : State) (site c q : Nat) (x : DQ) : (s.setDq site c q x).mmus = s.mmus := rfl
@[simp] theorem State.setDq_grans (s : State) (site c q : Nat) (x : DQ) : (s.setDq site c q x).grans = s.grans := rfl
@[simp] theorem State.setDq_granBusy (s : State) (site c q : Nat) (x : DQ) : (s.setDq site c q x).granBusy = s.granBusy := rfl
@[simp] theorem State.setDq_poison (s : State) (site c q : Nat) (x : DQ) : (s.setDq site c q x).poison = s.poison := rfl
@[simp] theorem State.setDq_buckets (s : State) (site c q : Nat) (x : DQ) : (s.setDq site c q x).buckets = s.buckets := rfl
@[simp] theorem State.setDq_arbs (s : State) (site c q : Nat) (x : DQ) : (s.setDq site c q x).arbs = s.arbs := rfl
@[simp] theorem State.setDq_capQs (s : State) (site c q : Nat) (x : DQ) : (s.setDq site c q x).capQs = s.capQs := rfl
@[simp] theorem State.setDq_avs (s : State) (site c q : Nat) (x : DQ) : (s.setDq site c q x).avs = s.avs := rfl
@[simp] theorem State.setDq_bndTaken (s : State) (site c q : Nat) (x : DQ) : (s.setDq site c q x).bndTaken = s.bndTaken := rfl
@[simp] theorem State.setDq_ces (s : State) (site c q : Nat) (x : DQ) : (s.setDq site c q x).ces = s.ces := rfl
@[simp] theorem State.setDq_scrubs (s : State) (site c q : Nat) (x : DQ) : (s.setDq site c q x).scrubs = s.scrubs := rfl
@[simp] theorem State.setDq_free (s : State) (site c q : Nat) (x : DQ) : (s.setDq site c q x).free = s.free := rfl
@[simp] theorem State.setDq_pending (s : State) (site c q : Nat) (x : DQ) : (s.setDq site c q x).pending = s.pending := rfl
@[simp] theorem State.setDq_reg (s : State) (site c q : Nat) (x : DQ) (a_ : Nat) : (s.setDq site c q x).reg a_ = s.reg a_ := rfl
@[simp] theorem State.setCmb_asm (s : State) (site b : Nat) (x : Cmb) : (s.setCmb site b x).asm = s.asm := rfl
@[simp] theorem State.setCmb_lead (s : State) (site b : Nat) (x : Cmb) : (s.setCmb site b x).lead = s.lead := rfl
@[simp] theorem State.setCmb_regs (s : State) (site b : Nat) (x : Cmb) : (s.setCmb site b x).regs = s.regs := rfl
@[simp] theorem State.setCmb_latch (s : State) (site b : Nat) (x : Cmb) : (s.setCmb site b x).latch = s.latch := rfl
@[simp] theorem State.setCmb_rdata (s : State) (site b : Nat) (x : Cmb) : (s.setCmb site b x).rdata = s.rdata := rfl
@[simp] theorem State.setCmb_rdataHi (s : State) (site b : Nat) (x : Cmb) : (s.setCmb site b x).rdataHi = s.rdataHi := rfl
@[simp] theorem State.setCmb_back (s : State) (site b : Nat) (x : Cmb) : (s.setCmb site b x).back = s.back := rfl
@[simp] theorem State.setCmb_bar2 (s : State) (site b : Nat) (x : Cmb) : (s.setCmb site b x).bar2 = s.bar2 := rfl
@[simp] theorem State.setCmb_out (s : State) (site b : Nat) (x : Cmb) : (s.setCmb site b x).out = s.out := rfl
@[simp] theorem State.setCmb_now (s : State) (site b : Nat) (x : Cmb) : (s.setCmb site b x).now = s.now := rfl
@[simp] theorem State.setCmb_clapper (s : State) (site b : Nat) (x : Cmb) : (s.setCmb site b x).clapper = s.clapper := rfl
@[simp] theorem State.setCmb_clk (s : State) (site b : Nat) (x : Cmb) : (s.setCmb site b x).clk = s.clk := rfl
@[simp] theorem State.setCmb_sup (s : State) (site b : Nat) (x : Cmb) : (s.setCmb site b x).sup = s.sup := rfl
@[simp] theorem State.setCmb_fios (s : State) (site b : Nat) (x : Cmb) : (s.setCmb site b x).fios = s.fios := rfl
@[simp] theorem State.setCmb_ticks (s : State) (site b : Nat) (x : Cmb) : (s.setCmb site b x).ticks = s.ticks := rfl
@[simp] theorem State.setCmb_encs (s : State) (site b : Nat) (x : Cmb) : (s.setCmb site b x).encs = s.encs := rfl
@[simp] theorem State.setCmb_poss (s : State) (site b : Nat) (x : Cmb) : (s.setCmb site b x).poss = s.poss := rfl
@[simp] theorem State.setCmb_cevs (s : State) (site b : Nat) (x : Cmb) : (s.setCmb site b x).cevs = s.cevs := rfl
@[simp] theorem State.setCmb_segArms (s : State) (site b : Nat) (x : Cmb) : (s.setCmb site b x).segArms = s.segArms := rfl
@[simp] theorem State.setCmb_slots (s : State) (site b : Nat) (x : Cmb) : (s.setCmb site b x).slots = s.slots := rfl
@[simp] theorem State.setCmb_groups (s : State) (site b : Nat) (x : Cmb) : (s.setCmb site b x).groups = s.groups := rfl
@[simp] theorem State.setCmb_order (s : State) (site b : Nat) (x : Cmb) : (s.setCmb site b x).order = s.order := rfl
@[simp] theorem State.setCmb_meters (s : State) (site b : Nat) (x : Cmb) : (s.setCmb site b x).meters = s.meters := rfl
@[simp] theorem State.setCmb_calibs (s : State) (site b : Nat) (x : Cmb) : (s.setCmb site b x).calibs = s.calibs := rfl
@[simp] theorem State.setCmb_gaffer (s : State) (site b : Nat) (x : Cmb) : (s.setCmb site b x).gaffer = s.gaffer := rfl
@[simp] theorem State.setCmb_tenants (s : State) (site b : Nat) (x : Cmb) : (s.setCmb site b x).tenants = s.tenants := rfl
@[simp] theorem State.setCmb_sec (s : State) (site b : Nat) (x : Cmb) : (s.setCmb site b x).sec = s.sec := rfl
@[simp] theorem State.setCmb_ens (s : State) (site b : Nat) (x : Cmb) : (s.setCmb site b x).ens = s.ens := rfl
@[simp] theorem State.setCmb_ports (s : State) (site b : Nat) (x : Cmb) : (s.setCmb site b x).ports = s.ports := rfl
@[simp] theorem State.setCmb_mons (s : State) (site b : Nat) (x : Cmb) : (s.setCmb site b x).mons = s.mons := rfl
@[simp] theorem State.setCmb_boot (s : State) (site b : Nat) (x : Cmb) : (s.setCmb site b x).boot = s.boot := rfl
@[simp] theorem State.setCmb_ram (s : State) (site b : Nat) (x : Cmb) : (s.setCmb site b x).ram = s.ram := rfl
@[simp] theorem State.setCmb_hmem (s : State) (site b : Nat) (x : Cmb) : (s.setCmb site b x).hmem = s.hmem := rfl
@[simp] theorem State.setCmb_badCpl (s : State) (site b : Nat) (x : Cmb) : (s.setCmb site b x).badCpl = s.badCpl := rfl
@[simp] theorem State.setCmb_mute (s : State) (site b : Nat) (x : Cmb) : (s.setCmb site b x).mute = s.mute := rfl
@[simp] theorem State.setCmb_flash (s : State) (site b : Nat) (x : Cmb) : (s.setCmb site b x).flash = s.flash := rfl
@[simp] theorem State.setCmb_weak (s : State) (site b : Nat) (x : Cmb) : (s.setCmb site b x).weak = s.weak := rfl
@[simp] theorem State.setCmb_loads (s : State) (site b : Nat) (x : Cmb) : (s.setCmb site b x).loads = s.loads := rfl
@[simp] theorem State.setCmb_restarts (s : State) (site b : Nat) (x : Cmb) : (s.setCmb site b x).restarts = s.restarts := rfl
@[simp] theorem State.setCmb_rings (s : State) (site b : Nat) (x : Cmb) : (s.setCmb site b x).rings = s.rings := rfl
@[simp] theorem State.setCmb_strms (s : State) (site b : Nat) (x : Cmb) : (s.setCmb site b x).strms = s.strms := rfl
@[simp] theorem State.setCmb_gates (s : State) (site b : Nat) (x : Cmb) : (s.setCmb site b x).gates = s.gates := rfl
@[simp] theorem State.setCmb_axes (s : State) (site b : Nat) (x : Cmb) : (s.setCmb site b x).axes = s.axes := rfl
@[simp] theorem State.setCmb_grps (s : State) (site b : Nat) (x : Cmb) : (s.setCmb site b x).grps = s.grps := rfl
@[simp] theorem State.setCmb_slotRings (s : State) (site b : Nat) (x : Cmb) : (s.setCmb site b x).slotRings = s.slotRings := rfl
@[simp] theorem State.setCmb_cueQs (s : State) (site b : Nat) (x : Cmb) : (s.setCmb site b x).cueQs = s.cueQs := rfl
@[simp] theorem State.setCmb_binFlags (s : State) (site b : Nat) (x : Cmb) : (s.setCmb site b x).binFlags = s.binFlags := rfl
@[simp] theorem State.setCmb_slates (s : State) (site b : Nat) (x : Cmb) : (s.setCmb site b x).slates = s.slates := rfl
@[simp] theorem State.setCmb_gens (s : State) (site b : Nat) (x : Cmb) : (s.setCmb site b x).gens = s.gens := rfl
@[simp] theorem State.setCmb_cancels (s : State) (site b : Nat) (x : Cmb) : (s.setCmb site b x).cancels = s.cancels := rfl
@[simp] theorem State.setCmb_tqs (s : State) (site b : Nat) (x : Cmb) : (s.setCmb site b x).tqs = s.tqs := rfl
@[simp] theorem State.setCmb_sched (s : State) (site b : Nat) (x : Cmb) : (s.setCmb site b x).sched = s.sched := rfl
@[simp] theorem State.setCmb_dqs (s : State) (site b : Nat) (x : Cmb) : (s.setCmb site b x).dqs = s.dqs := rfl
@[simp] theorem State.setCmb_cores (s : State) (site b : Nat) (x : Cmb) : (s.setCmb site b x).cores = s.cores := rfl
@[simp] theorem State.setCmb_engs (s : State) (site b : Nat) (x : Cmb) : (s.setCmb site b x).engs = s.engs := rfl
@[simp] theorem State.setCmb_mmus (s : State) (site b : Nat) (x : Cmb) : (s.setCmb site b x).mmus = s.mmus := rfl
@[simp] theorem State.setCmb_grans (s : State) (site b : Nat) (x : Cmb) : (s.setCmb site b x).grans = s.grans := rfl
@[simp] theorem State.setCmb_granBusy (s : State) (site b : Nat) (x : Cmb) : (s.setCmb site b x).granBusy = s.granBusy := rfl
@[simp] theorem State.setCmb_poison (s : State) (site b : Nat) (x : Cmb) : (s.setCmb site b x).poison = s.poison := rfl
@[simp] theorem State.setCmb_buckets (s : State) (site b : Nat) (x : Cmb) : (s.setCmb site b x).buckets = s.buckets := rfl
@[simp] theorem State.setCmb_arbs (s : State) (site b : Nat) (x : Cmb) : (s.setCmb site b x).arbs = s.arbs := rfl
@[simp] theorem State.setCmb_capQs (s : State) (site b : Nat) (x : Cmb) : (s.setCmb site b x).capQs = s.capQs := rfl
@[simp] theorem State.setCmb_avs (s : State) (site b : Nat) (x : Cmb) : (s.setCmb site b x).avs = s.avs := rfl
@[simp] theorem State.setCmb_bndTaken (s : State) (site b : Nat) (x : Cmb) : (s.setCmb site b x).bndTaken = s.bndTaken := rfl
@[simp] theorem State.setCmb_ces (s : State) (site b : Nat) (x : Cmb) : (s.setCmb site b x).ces = s.ces := rfl
@[simp] theorem State.setCmb_scrubs (s : State) (site b : Nat) (x : Cmb) : (s.setCmb site b x).scrubs = s.scrubs := rfl
@[simp] theorem State.setCmb_free (s : State) (site b : Nat) (x : Cmb) : (s.setCmb site b x).free = s.free := rfl
@[simp] theorem State.setCmb_pending (s : State) (site b : Nat) (x : Cmb) : (s.setCmb site b x).pending = s.pending := rfl
@[simp] theorem State.setCmb_reg (s : State) (site b : Nat) (x : Cmb) (a_ : Nat) : (s.setCmb site b x).reg a_ = s.reg a_ := rfl
@[simp] theorem State.setEng_asm (s : State) (site e : Nat) (x : Eng) : (s.setEng site e x).asm = s.asm := rfl
@[simp] theorem State.setEng_lead (s : State) (site e : Nat) (x : Eng) : (s.setEng site e x).lead = s.lead := rfl
@[simp] theorem State.setEng_regs (s : State) (site e : Nat) (x : Eng) : (s.setEng site e x).regs = s.regs := rfl
@[simp] theorem State.setEng_latch (s : State) (site e : Nat) (x : Eng) : (s.setEng site e x).latch = s.latch := rfl
@[simp] theorem State.setEng_rdata (s : State) (site e : Nat) (x : Eng) : (s.setEng site e x).rdata = s.rdata := rfl
@[simp] theorem State.setEng_rdataHi (s : State) (site e : Nat) (x : Eng) : (s.setEng site e x).rdataHi = s.rdataHi := rfl
@[simp] theorem State.setEng_back (s : State) (site e : Nat) (x : Eng) : (s.setEng site e x).back = s.back := rfl
@[simp] theorem State.setEng_bar2 (s : State) (site e : Nat) (x : Eng) : (s.setEng site e x).bar2 = s.bar2 := rfl
@[simp] theorem State.setEng_out (s : State) (site e : Nat) (x : Eng) : (s.setEng site e x).out = s.out := rfl
@[simp] theorem State.setEng_now (s : State) (site e : Nat) (x : Eng) : (s.setEng site e x).now = s.now := rfl
@[simp] theorem State.setEng_clapper (s : State) (site e : Nat) (x : Eng) : (s.setEng site e x).clapper = s.clapper := rfl
@[simp] theorem State.setEng_clk (s : State) (site e : Nat) (x : Eng) : (s.setEng site e x).clk = s.clk := rfl
@[simp] theorem State.setEng_sup (s : State) (site e : Nat) (x : Eng) : (s.setEng site e x).sup = s.sup := rfl
@[simp] theorem State.setEng_fios (s : State) (site e : Nat) (x : Eng) : (s.setEng site e x).fios = s.fios := rfl
@[simp] theorem State.setEng_ticks (s : State) (site e : Nat) (x : Eng) : (s.setEng site e x).ticks = s.ticks := rfl
@[simp] theorem State.setEng_encs (s : State) (site e : Nat) (x : Eng) : (s.setEng site e x).encs = s.encs := rfl
@[simp] theorem State.setEng_poss (s : State) (site e : Nat) (x : Eng) : (s.setEng site e x).poss = s.poss := rfl
@[simp] theorem State.setEng_cevs (s : State) (site e : Nat) (x : Eng) : (s.setEng site e x).cevs = s.cevs := rfl
@[simp] theorem State.setEng_segArms (s : State) (site e : Nat) (x : Eng) : (s.setEng site e x).segArms = s.segArms := rfl
@[simp] theorem State.setEng_slots (s : State) (site e : Nat) (x : Eng) : (s.setEng site e x).slots = s.slots := rfl
@[simp] theorem State.setEng_groups (s : State) (site e : Nat) (x : Eng) : (s.setEng site e x).groups = s.groups := rfl
@[simp] theorem State.setEng_order (s : State) (site e : Nat) (x : Eng) : (s.setEng site e x).order = s.order := rfl
@[simp] theorem State.setEng_meters (s : State) (site e : Nat) (x : Eng) : (s.setEng site e x).meters = s.meters := rfl
@[simp] theorem State.setEng_calibs (s : State) (site e : Nat) (x : Eng) : (s.setEng site e x).calibs = s.calibs := rfl
@[simp] theorem State.setEng_gaffer (s : State) (site e : Nat) (x : Eng) : (s.setEng site e x).gaffer = s.gaffer := rfl
@[simp] theorem State.setEng_tenants (s : State) (site e : Nat) (x : Eng) : (s.setEng site e x).tenants = s.tenants := rfl
@[simp] theorem State.setEng_sec (s : State) (site e : Nat) (x : Eng) : (s.setEng site e x).sec = s.sec := rfl
@[simp] theorem State.setEng_ens (s : State) (site e : Nat) (x : Eng) : (s.setEng site e x).ens = s.ens := rfl
@[simp] theorem State.setEng_ports (s : State) (site e : Nat) (x : Eng) : (s.setEng site e x).ports = s.ports := rfl
@[simp] theorem State.setEng_mons (s : State) (site e : Nat) (x : Eng) : (s.setEng site e x).mons = s.mons := rfl
@[simp] theorem State.setEng_boot (s : State) (site e : Nat) (x : Eng) : (s.setEng site e x).boot = s.boot := rfl
@[simp] theorem State.setEng_ram (s : State) (site e : Nat) (x : Eng) : (s.setEng site e x).ram = s.ram := rfl
@[simp] theorem State.setEng_hmem (s : State) (site e : Nat) (x : Eng) : (s.setEng site e x).hmem = s.hmem := rfl
@[simp] theorem State.setEng_badCpl (s : State) (site e : Nat) (x : Eng) : (s.setEng site e x).badCpl = s.badCpl := rfl
@[simp] theorem State.setEng_mute (s : State) (site e : Nat) (x : Eng) : (s.setEng site e x).mute = s.mute := rfl
@[simp] theorem State.setEng_flash (s : State) (site e : Nat) (x : Eng) : (s.setEng site e x).flash = s.flash := rfl
@[simp] theorem State.setEng_weak (s : State) (site e : Nat) (x : Eng) : (s.setEng site e x).weak = s.weak := rfl
@[simp] theorem State.setEng_loads (s : State) (site e : Nat) (x : Eng) : (s.setEng site e x).loads = s.loads := rfl
@[simp] theorem State.setEng_restarts (s : State) (site e : Nat) (x : Eng) : (s.setEng site e x).restarts = s.restarts := rfl
@[simp] theorem State.setEng_rings (s : State) (site e : Nat) (x : Eng) : (s.setEng site e x).rings = s.rings := rfl
@[simp] theorem State.setEng_strms (s : State) (site e : Nat) (x : Eng) : (s.setEng site e x).strms = s.strms := rfl
@[simp] theorem State.setEng_gates (s : State) (site e : Nat) (x : Eng) : (s.setEng site e x).gates = s.gates := rfl
@[simp] theorem State.setEng_axes (s : State) (site e : Nat) (x : Eng) : (s.setEng site e x).axes = s.axes := rfl
@[simp] theorem State.setEng_grps (s : State) (site e : Nat) (x : Eng) : (s.setEng site e x).grps = s.grps := rfl
@[simp] theorem State.setEng_slotRings (s : State) (site e : Nat) (x : Eng) : (s.setEng site e x).slotRings = s.slotRings := rfl
@[simp] theorem State.setEng_cueQs (s : State) (site e : Nat) (x : Eng) : (s.setEng site e x).cueQs = s.cueQs := rfl
@[simp] theorem State.setEng_binFlags (s : State) (site e : Nat) (x : Eng) : (s.setEng site e x).binFlags = s.binFlags := rfl
@[simp] theorem State.setEng_slates (s : State) (site e : Nat) (x : Eng) : (s.setEng site e x).slates = s.slates := rfl
@[simp] theorem State.setEng_gens (s : State) (site e : Nat) (x : Eng) : (s.setEng site e x).gens = s.gens := rfl
@[simp] theorem State.setEng_cancels (s : State) (site e : Nat) (x : Eng) : (s.setEng site e x).cancels = s.cancels := rfl
@[simp] theorem State.setEng_tqs (s : State) (site e : Nat) (x : Eng) : (s.setEng site e x).tqs = s.tqs := rfl
@[simp] theorem State.setEng_sched (s : State) (site e : Nat) (x : Eng) : (s.setEng site e x).sched = s.sched := rfl
@[simp] theorem State.setEng_dqs (s : State) (site e : Nat) (x : Eng) : (s.setEng site e x).dqs = s.dqs := rfl
@[simp] theorem State.setEng_cores (s : State) (site e : Nat) (x : Eng) : (s.setEng site e x).cores = s.cores := rfl
@[simp] theorem State.setEng_cmbs (s : State) (site e : Nat) (x : Eng) : (s.setEng site e x).cmbs = s.cmbs := rfl
@[simp] theorem State.setEng_mmus (s : State) (site e : Nat) (x : Eng) : (s.setEng site e x).mmus = s.mmus := rfl
@[simp] theorem State.setEng_grans (s : State) (site e : Nat) (x : Eng) : (s.setEng site e x).grans = s.grans := rfl
@[simp] theorem State.setEng_granBusy (s : State) (site e : Nat) (x : Eng) : (s.setEng site e x).granBusy = s.granBusy := rfl
@[simp] theorem State.setEng_poison (s : State) (site e : Nat) (x : Eng) : (s.setEng site e x).poison = s.poison := rfl
@[simp] theorem State.setEng_buckets (s : State) (site e : Nat) (x : Eng) : (s.setEng site e x).buckets = s.buckets := rfl
@[simp] theorem State.setEng_arbs (s : State) (site e : Nat) (x : Eng) : (s.setEng site e x).arbs = s.arbs := rfl
@[simp] theorem State.setEng_capQs (s : State) (site e : Nat) (x : Eng) : (s.setEng site e x).capQs = s.capQs := rfl
@[simp] theorem State.setEng_avs (s : State) (site e : Nat) (x : Eng) : (s.setEng site e x).avs = s.avs := rfl
@[simp] theorem State.setEng_bndTaken (s : State) (site e : Nat) (x : Eng) : (s.setEng site e x).bndTaken = s.bndTaken := rfl
@[simp] theorem State.setEng_ces (s : State) (site e : Nat) (x : Eng) : (s.setEng site e x).ces = s.ces := rfl
@[simp] theorem State.setEng_scrubs (s : State) (site e : Nat) (x : Eng) : (s.setEng site e x).scrubs = s.scrubs := rfl
@[simp] theorem State.setEng_free (s : State) (site e : Nat) (x : Eng) : (s.setEng site e x).free = s.free := rfl
@[simp] theorem State.setEng_pending (s : State) (site e : Nat) (x : Eng) : (s.setEng site e x).pending = s.pending := rfl
@[simp] theorem State.setEng_reg (s : State) (site e : Nat) (x : Eng) (a_ : Nat) : (s.setEng site e x).reg a_ = s.reg a_ := rfl
@[simp] theorem State.setTenant_asm (s : State) (t : Nat) (x : Tenant) : (s.setTenant t x).asm = s.asm := rfl
@[simp] theorem State.setTenant_lead (s : State) (t : Nat) (x : Tenant) : (s.setTenant t x).lead = s.lead := rfl
@[simp] theorem State.setTenant_regs (s : State) (t : Nat) (x : Tenant) : (s.setTenant t x).regs = s.regs := rfl
@[simp] theorem State.setTenant_latch (s : State) (t : Nat) (x : Tenant) : (s.setTenant t x).latch = s.latch := rfl
@[simp] theorem State.setTenant_rdata (s : State) (t : Nat) (x : Tenant) : (s.setTenant t x).rdata = s.rdata := rfl
@[simp] theorem State.setTenant_rdataHi (s : State) (t : Nat) (x : Tenant) : (s.setTenant t x).rdataHi = s.rdataHi := rfl
@[simp] theorem State.setTenant_back (s : State) (t : Nat) (x : Tenant) : (s.setTenant t x).back = s.back := rfl
@[simp] theorem State.setTenant_bar2 (s : State) (t : Nat) (x : Tenant) : (s.setTenant t x).bar2 = s.bar2 := rfl
@[simp] theorem State.setTenant_out (s : State) (t : Nat) (x : Tenant) : (s.setTenant t x).out = s.out := rfl
@[simp] theorem State.setTenant_now (s : State) (t : Nat) (x : Tenant) : (s.setTenant t x).now = s.now := rfl
@[simp] theorem State.setTenant_clapper (s : State) (t : Nat) (x : Tenant) : (s.setTenant t x).clapper = s.clapper := rfl
@[simp] theorem State.setTenant_clk (s : State) (t : Nat) (x : Tenant) : (s.setTenant t x).clk = s.clk := rfl
@[simp] theorem State.setTenant_sup (s : State) (t : Nat) (x : Tenant) : (s.setTenant t x).sup = s.sup := rfl
@[simp] theorem State.setTenant_fios (s : State) (t : Nat) (x : Tenant) : (s.setTenant t x).fios = s.fios := rfl
@[simp] theorem State.setTenant_ticks (s : State) (t : Nat) (x : Tenant) : (s.setTenant t x).ticks = s.ticks := rfl
@[simp] theorem State.setTenant_encs (s : State) (t : Nat) (x : Tenant) : (s.setTenant t x).encs = s.encs := rfl
@[simp] theorem State.setTenant_poss (s : State) (t : Nat) (x : Tenant) : (s.setTenant t x).poss = s.poss := rfl
@[simp] theorem State.setTenant_cevs (s : State) (t : Nat) (x : Tenant) : (s.setTenant t x).cevs = s.cevs := rfl
@[simp] theorem State.setTenant_segArms (s : State) (t : Nat) (x : Tenant) : (s.setTenant t x).segArms = s.segArms := rfl
@[simp] theorem State.setTenant_slots (s : State) (t : Nat) (x : Tenant) : (s.setTenant t x).slots = s.slots := rfl
@[simp] theorem State.setTenant_groups (s : State) (t : Nat) (x : Tenant) : (s.setTenant t x).groups = s.groups := rfl
@[simp] theorem State.setTenant_order (s : State) (t : Nat) (x : Tenant) : (s.setTenant t x).order = s.order := rfl
@[simp] theorem State.setTenant_meters (s : State) (t : Nat) (x : Tenant) : (s.setTenant t x).meters = s.meters := rfl
@[simp] theorem State.setTenant_calibs (s : State) (t : Nat) (x : Tenant) : (s.setTenant t x).calibs = s.calibs := rfl
@[simp] theorem State.setTenant_gaffer (s : State) (t : Nat) (x : Tenant) : (s.setTenant t x).gaffer = s.gaffer := rfl
@[simp] theorem State.setTenant_sec (s : State) (t : Nat) (x : Tenant) : (s.setTenant t x).sec = s.sec := rfl
@[simp] theorem State.setTenant_ens (s : State) (t : Nat) (x : Tenant) : (s.setTenant t x).ens = s.ens := rfl
@[simp] theorem State.setTenant_ports (s : State) (t : Nat) (x : Tenant) : (s.setTenant t x).ports = s.ports := rfl
@[simp] theorem State.setTenant_mons (s : State) (t : Nat) (x : Tenant) : (s.setTenant t x).mons = s.mons := rfl
@[simp] theorem State.setTenant_boot (s : State) (t : Nat) (x : Tenant) : (s.setTenant t x).boot = s.boot := rfl
@[simp] theorem State.setTenant_ram (s : State) (t : Nat) (x : Tenant) : (s.setTenant t x).ram = s.ram := rfl
@[simp] theorem State.setTenant_hmem (s : State) (t : Nat) (x : Tenant) : (s.setTenant t x).hmem = s.hmem := rfl
@[simp] theorem State.setTenant_badCpl (s : State) (t : Nat) (x : Tenant) : (s.setTenant t x).badCpl = s.badCpl := rfl
@[simp] theorem State.setTenant_mute (s : State) (t : Nat) (x : Tenant) : (s.setTenant t x).mute = s.mute := rfl
@[simp] theorem State.setTenant_flash (s : State) (t : Nat) (x : Tenant) : (s.setTenant t x).flash = s.flash := rfl
@[simp] theorem State.setTenant_weak (s : State) (t : Nat) (x : Tenant) : (s.setTenant t x).weak = s.weak := rfl
@[simp] theorem State.setTenant_loads (s : State) (t : Nat) (x : Tenant) : (s.setTenant t x).loads = s.loads := rfl
@[simp] theorem State.setTenant_restarts (s : State) (t : Nat) (x : Tenant) : (s.setTenant t x).restarts = s.restarts := rfl
@[simp] theorem State.setTenant_rings (s : State) (t : Nat) (x : Tenant) : (s.setTenant t x).rings = s.rings := rfl
@[simp] theorem State.setTenant_strms (s : State) (t : Nat) (x : Tenant) : (s.setTenant t x).strms = s.strms := rfl
@[simp] theorem State.setTenant_gates (s : State) (t : Nat) (x : Tenant) : (s.setTenant t x).gates = s.gates := rfl
@[simp] theorem State.setTenant_axes (s : State) (t : Nat) (x : Tenant) : (s.setTenant t x).axes = s.axes := rfl
@[simp] theorem State.setTenant_grps (s : State) (t : Nat) (x : Tenant) : (s.setTenant t x).grps = s.grps := rfl
@[simp] theorem State.setTenant_slotRings (s : State) (t : Nat) (x : Tenant) : (s.setTenant t x).slotRings = s.slotRings := rfl
@[simp] theorem State.setTenant_cueQs (s : State) (t : Nat) (x : Tenant) : (s.setTenant t x).cueQs = s.cueQs := rfl
@[simp] theorem State.setTenant_binFlags (s : State) (t : Nat) (x : Tenant) : (s.setTenant t x).binFlags = s.binFlags := rfl
@[simp] theorem State.setTenant_slates (s : State) (t : Nat) (x : Tenant) : (s.setTenant t x).slates = s.slates := rfl
@[simp] theorem State.setTenant_gens (s : State) (t : Nat) (x : Tenant) : (s.setTenant t x).gens = s.gens := rfl
@[simp] theorem State.setTenant_cancels (s : State) (t : Nat) (x : Tenant) : (s.setTenant t x).cancels = s.cancels := rfl
@[simp] theorem State.setTenant_tqs (s : State) (t : Nat) (x : Tenant) : (s.setTenant t x).tqs = s.tqs := rfl
@[simp] theorem State.setTenant_sched (s : State) (t : Nat) (x : Tenant) : (s.setTenant t x).sched = s.sched := rfl
@[simp] theorem State.setTenant_dqs (s : State) (t : Nat) (x : Tenant) : (s.setTenant t x).dqs = s.dqs := rfl
@[simp] theorem State.setTenant_cores (s : State) (t : Nat) (x : Tenant) : (s.setTenant t x).cores = s.cores := rfl
@[simp] theorem State.setTenant_cmbs (s : State) (t : Nat) (x : Tenant) : (s.setTenant t x).cmbs = s.cmbs := rfl
@[simp] theorem State.setTenant_engs (s : State) (t : Nat) (x : Tenant) : (s.setTenant t x).engs = s.engs := rfl
@[simp] theorem State.setTenant_mmus (s : State) (t : Nat) (x : Tenant) : (s.setTenant t x).mmus = s.mmus := rfl
@[simp] theorem State.setTenant_grans (s : State) (t : Nat) (x : Tenant) : (s.setTenant t x).grans = s.grans := rfl
@[simp] theorem State.setTenant_granBusy (s : State) (t : Nat) (x : Tenant) : (s.setTenant t x).granBusy = s.granBusy := rfl
@[simp] theorem State.setTenant_poison (s : State) (t : Nat) (x : Tenant) : (s.setTenant t x).poison = s.poison := rfl
@[simp] theorem State.setTenant_buckets (s : State) (t : Nat) (x : Tenant) : (s.setTenant t x).buckets = s.buckets := rfl
@[simp] theorem State.setTenant_arbs (s : State) (t : Nat) (x : Tenant) : (s.setTenant t x).arbs = s.arbs := rfl
@[simp] theorem State.setTenant_capQs (s : State) (t : Nat) (x : Tenant) : (s.setTenant t x).capQs = s.capQs := rfl
@[simp] theorem State.setTenant_avs (s : State) (t : Nat) (x : Tenant) : (s.setTenant t x).avs = s.avs := rfl
@[simp] theorem State.setTenant_bndTaken (s : State) (t : Nat) (x : Tenant) : (s.setTenant t x).bndTaken = s.bndTaken := rfl
@[simp] theorem State.setTenant_ces (s : State) (t : Nat) (x : Tenant) : (s.setTenant t x).ces = s.ces := rfl
@[simp] theorem State.setTenant_scrubs (s : State) (t : Nat) (x : Tenant) : (s.setTenant t x).scrubs = s.scrubs := rfl
@[simp] theorem State.setTenant_free (s : State) (t : Nat) (x : Tenant) : (s.setTenant t x).free = s.free := rfl
@[simp] theorem State.setTenant_pending (s : State) (t : Nat) (x : Tenant) : (s.setTenant t x).pending = s.pending := rfl
@[simp] theorem State.setTenant_reg (s : State) (t : Nat) (x : Tenant) (a_ : Nat) : (s.setTenant t x).reg a_ = s.reg a_ := rfl
@[simp] theorem State.setAvsAt_asm (s : State) (site at_ : Nat) : (s.setAvsAt site at_).asm = s.asm := rfl
@[simp] theorem State.setAvsAt_lead (s : State) (site at_ : Nat) : (s.setAvsAt site at_).lead = s.lead := rfl
@[simp] theorem State.setAvsAt_regs (s : State) (site at_ : Nat) : (s.setAvsAt site at_).regs = s.regs := rfl
@[simp] theorem State.setAvsAt_latch (s : State) (site at_ : Nat) : (s.setAvsAt site at_).latch = s.latch := rfl
@[simp] theorem State.setAvsAt_rdata (s : State) (site at_ : Nat) : (s.setAvsAt site at_).rdata = s.rdata := rfl
@[simp] theorem State.setAvsAt_rdataHi (s : State) (site at_ : Nat) : (s.setAvsAt site at_).rdataHi = s.rdataHi := rfl
@[simp] theorem State.setAvsAt_back (s : State) (site at_ : Nat) : (s.setAvsAt site at_).back = s.back := rfl
@[simp] theorem State.setAvsAt_bar2 (s : State) (site at_ : Nat) : (s.setAvsAt site at_).bar2 = s.bar2 := rfl
@[simp] theorem State.setAvsAt_out (s : State) (site at_ : Nat) : (s.setAvsAt site at_).out = s.out := rfl
@[simp] theorem State.setAvsAt_now (s : State) (site at_ : Nat) : (s.setAvsAt site at_).now = s.now := rfl
@[simp] theorem State.setAvsAt_clapper (s : State) (site at_ : Nat) : (s.setAvsAt site at_).clapper = s.clapper := rfl
@[simp] theorem State.setAvsAt_clk (s : State) (site at_ : Nat) : (s.setAvsAt site at_).clk = s.clk := rfl
@[simp] theorem State.setAvsAt_sup (s : State) (site at_ : Nat) : (s.setAvsAt site at_).sup = s.sup := rfl
@[simp] theorem State.setAvsAt_fios (s : State) (site at_ : Nat) : (s.setAvsAt site at_).fios = s.fios := rfl
@[simp] theorem State.setAvsAt_ticks (s : State) (site at_ : Nat) : (s.setAvsAt site at_).ticks = s.ticks := rfl
@[simp] theorem State.setAvsAt_encs (s : State) (site at_ : Nat) : (s.setAvsAt site at_).encs = s.encs := rfl
@[simp] theorem State.setAvsAt_poss (s : State) (site at_ : Nat) : (s.setAvsAt site at_).poss = s.poss := rfl
@[simp] theorem State.setAvsAt_cevs (s : State) (site at_ : Nat) : (s.setAvsAt site at_).cevs = s.cevs := rfl
@[simp] theorem State.setAvsAt_segArms (s : State) (site at_ : Nat) : (s.setAvsAt site at_).segArms = s.segArms := rfl
@[simp] theorem State.setAvsAt_slots (s : State) (site at_ : Nat) : (s.setAvsAt site at_).slots = s.slots := rfl
@[simp] theorem State.setAvsAt_groups (s : State) (site at_ : Nat) : (s.setAvsAt site at_).groups = s.groups := rfl
@[simp] theorem State.setAvsAt_order (s : State) (site at_ : Nat) : (s.setAvsAt site at_).order = s.order := rfl
@[simp] theorem State.setAvsAt_meters (s : State) (site at_ : Nat) : (s.setAvsAt site at_).meters = s.meters := rfl
@[simp] theorem State.setAvsAt_calibs (s : State) (site at_ : Nat) : (s.setAvsAt site at_).calibs = s.calibs := rfl
@[simp] theorem State.setAvsAt_gaffer (s : State) (site at_ : Nat) : (s.setAvsAt site at_).gaffer = s.gaffer := rfl
@[simp] theorem State.setAvsAt_tenants (s : State) (site at_ : Nat) : (s.setAvsAt site at_).tenants = s.tenants := rfl
@[simp] theorem State.setAvsAt_sec (s : State) (site at_ : Nat) : (s.setAvsAt site at_).sec = s.sec := rfl
@[simp] theorem State.setAvsAt_ens (s : State) (site at_ : Nat) : (s.setAvsAt site at_).ens = s.ens := rfl
@[simp] theorem State.setAvsAt_ports (s : State) (site at_ : Nat) : (s.setAvsAt site at_).ports = s.ports := rfl
@[simp] theorem State.setAvsAt_mons (s : State) (site at_ : Nat) : (s.setAvsAt site at_).mons = s.mons := rfl
@[simp] theorem State.setAvsAt_boot (s : State) (site at_ : Nat) : (s.setAvsAt site at_).boot = s.boot := rfl
@[simp] theorem State.setAvsAt_ram (s : State) (site at_ : Nat) : (s.setAvsAt site at_).ram = s.ram := rfl
@[simp] theorem State.setAvsAt_hmem (s : State) (site at_ : Nat) : (s.setAvsAt site at_).hmem = s.hmem := rfl
@[simp] theorem State.setAvsAt_badCpl (s : State) (site at_ : Nat) : (s.setAvsAt site at_).badCpl = s.badCpl := rfl
@[simp] theorem State.setAvsAt_mute (s : State) (site at_ : Nat) : (s.setAvsAt site at_).mute = s.mute := rfl
@[simp] theorem State.setAvsAt_flash (s : State) (site at_ : Nat) : (s.setAvsAt site at_).flash = s.flash := rfl
@[simp] theorem State.setAvsAt_weak (s : State) (site at_ : Nat) : (s.setAvsAt site at_).weak = s.weak := rfl
@[simp] theorem State.setAvsAt_loads (s : State) (site at_ : Nat) : (s.setAvsAt site at_).loads = s.loads := rfl
@[simp] theorem State.setAvsAt_restarts (s : State) (site at_ : Nat) : (s.setAvsAt site at_).restarts = s.restarts := rfl
@[simp] theorem State.setAvsAt_rings (s : State) (site at_ : Nat) : (s.setAvsAt site at_).rings = s.rings := rfl
@[simp] theorem State.setAvsAt_strms (s : State) (site at_ : Nat) : (s.setAvsAt site at_).strms = s.strms := rfl
@[simp] theorem State.setAvsAt_gates (s : State) (site at_ : Nat) : (s.setAvsAt site at_).gates = s.gates := rfl
@[simp] theorem State.setAvsAt_axes (s : State) (site at_ : Nat) : (s.setAvsAt site at_).axes = s.axes := rfl
@[simp] theorem State.setAvsAt_grps (s : State) (site at_ : Nat) : (s.setAvsAt site at_).grps = s.grps := rfl
@[simp] theorem State.setAvsAt_slotRings (s : State) (site at_ : Nat) : (s.setAvsAt site at_).slotRings = s.slotRings := rfl
@[simp] theorem State.setAvsAt_cueQs (s : State) (site at_ : Nat) : (s.setAvsAt site at_).cueQs = s.cueQs := rfl
@[simp] theorem State.setAvsAt_binFlags (s : State) (site at_ : Nat) : (s.setAvsAt site at_).binFlags = s.binFlags := rfl
@[simp] theorem State.setAvsAt_slates (s : State) (site at_ : Nat) : (s.setAvsAt site at_).slates = s.slates := rfl
@[simp] theorem State.setAvsAt_gens (s : State) (site at_ : Nat) : (s.setAvsAt site at_).gens = s.gens := rfl
@[simp] theorem State.setAvsAt_cancels (s : State) (site at_ : Nat) : (s.setAvsAt site at_).cancels = s.cancels := rfl
@[simp] theorem State.setAvsAt_tqs (s : State) (site at_ : Nat) : (s.setAvsAt site at_).tqs = s.tqs := rfl
@[simp] theorem State.setAvsAt_sched (s : State) (site at_ : Nat) : (s.setAvsAt site at_).sched = s.sched := rfl
@[simp] theorem State.setAvsAt_dqs (s : State) (site at_ : Nat) : (s.setAvsAt site at_).dqs = s.dqs := rfl
@[simp] theorem State.setAvsAt_cores (s : State) (site at_ : Nat) : (s.setAvsAt site at_).cores = s.cores := rfl
@[simp] theorem State.setAvsAt_cmbs (s : State) (site at_ : Nat) : (s.setAvsAt site at_).cmbs = s.cmbs := rfl
@[simp] theorem State.setAvsAt_engs (s : State) (site at_ : Nat) : (s.setAvsAt site at_).engs = s.engs := rfl
@[simp] theorem State.setAvsAt_mmus (s : State) (site at_ : Nat) : (s.setAvsAt site at_).mmus = s.mmus := rfl
@[simp] theorem State.setAvsAt_grans (s : State) (site at_ : Nat) : (s.setAvsAt site at_).grans = s.grans := rfl
@[simp] theorem State.setAvsAt_granBusy (s : State) (site at_ : Nat) : (s.setAvsAt site at_).granBusy = s.granBusy := rfl
@[simp] theorem State.setAvsAt_poison (s : State) (site at_ : Nat) : (s.setAvsAt site at_).poison = s.poison := rfl
@[simp] theorem State.setAvsAt_buckets (s : State) (site at_ : Nat) : (s.setAvsAt site at_).buckets = s.buckets := rfl
@[simp] theorem State.setAvsAt_arbs (s : State) (site at_ : Nat) : (s.setAvsAt site at_).arbs = s.arbs := rfl
@[simp] theorem State.setAvsAt_capQs (s : State) (site at_ : Nat) : (s.setAvsAt site at_).capQs = s.capQs := rfl
@[simp] theorem State.setAvsAt_bndTaken (s : State) (site at_ : Nat) : (s.setAvsAt site at_).bndTaken = s.bndTaken := rfl
@[simp] theorem State.setAvsAt_ces (s : State) (site at_ : Nat) : (s.setAvsAt site at_).ces = s.ces := rfl
@[simp] theorem State.setAvsAt_scrubs (s : State) (site at_ : Nat) : (s.setAvsAt site at_).scrubs = s.scrubs := rfl
@[simp] theorem State.setAvsAt_free (s : State) (site at_ : Nat) : (s.setAvsAt site at_).free = s.free := rfl
@[simp] theorem State.setAvsAt_pending (s : State) (site at_ : Nat) : (s.setAvsAt site at_).pending = s.pending := rfl
@[simp] theorem State.setAvsAt_reg (s : State) (site at_ : Nat) (a_ : Nat) : (s.setAvsAt site at_).reg a_ = s.reg a_ := rfl
@[simp] theorem State.setMon_asm (s : State) (site : Nat) (x : Mon) : (s.setMon site x).asm = s.asm := rfl
@[simp] theorem State.setMon_lead (s : State) (site : Nat) (x : Mon) : (s.setMon site x).lead = s.lead := rfl
@[simp] theorem State.setMon_regs (s : State) (site : Nat) (x : Mon) : (s.setMon site x).regs = s.regs := rfl
@[simp] theorem State.setMon_latch (s : State) (site : Nat) (x : Mon) : (s.setMon site x).latch = s.latch := rfl
@[simp] theorem State.setMon_rdata (s : State) (site : Nat) (x : Mon) : (s.setMon site x).rdata = s.rdata := rfl
@[simp] theorem State.setMon_rdataHi (s : State) (site : Nat) (x : Mon) : (s.setMon site x).rdataHi = s.rdataHi := rfl
@[simp] theorem State.setMon_back (s : State) (site : Nat) (x : Mon) : (s.setMon site x).back = s.back := rfl
@[simp] theorem State.setMon_bar2 (s : State) (site : Nat) (x : Mon) : (s.setMon site x).bar2 = s.bar2 := rfl
@[simp] theorem State.setMon_out (s : State) (site : Nat) (x : Mon) : (s.setMon site x).out = s.out := rfl
@[simp] theorem State.setMon_now (s : State) (site : Nat) (x : Mon) : (s.setMon site x).now = s.now := rfl
@[simp] theorem State.setMon_clapper (s : State) (site : Nat) (x : Mon) : (s.setMon site x).clapper = s.clapper := rfl
@[simp] theorem State.setMon_clk (s : State) (site : Nat) (x : Mon) : (s.setMon site x).clk = s.clk := rfl
@[simp] theorem State.setMon_sup (s : State) (site : Nat) (x : Mon) : (s.setMon site x).sup = s.sup := rfl
@[simp] theorem State.setMon_fios (s : State) (site : Nat) (x : Mon) : (s.setMon site x).fios = s.fios := rfl
@[simp] theorem State.setMon_ticks (s : State) (site : Nat) (x : Mon) : (s.setMon site x).ticks = s.ticks := rfl
@[simp] theorem State.setMon_encs (s : State) (site : Nat) (x : Mon) : (s.setMon site x).encs = s.encs := rfl
@[simp] theorem State.setMon_poss (s : State) (site : Nat) (x : Mon) : (s.setMon site x).poss = s.poss := rfl
@[simp] theorem State.setMon_cevs (s : State) (site : Nat) (x : Mon) : (s.setMon site x).cevs = s.cevs := rfl
@[simp] theorem State.setMon_segArms (s : State) (site : Nat) (x : Mon) : (s.setMon site x).segArms = s.segArms := rfl
@[simp] theorem State.setMon_slots (s : State) (site : Nat) (x : Mon) : (s.setMon site x).slots = s.slots := rfl
@[simp] theorem State.setMon_groups (s : State) (site : Nat) (x : Mon) : (s.setMon site x).groups = s.groups := rfl
@[simp] theorem State.setMon_order (s : State) (site : Nat) (x : Mon) : (s.setMon site x).order = s.order := rfl
@[simp] theorem State.setMon_meters (s : State) (site : Nat) (x : Mon) : (s.setMon site x).meters = s.meters := rfl
@[simp] theorem State.setMon_calibs (s : State) (site : Nat) (x : Mon) : (s.setMon site x).calibs = s.calibs := rfl
@[simp] theorem State.setMon_gaffer (s : State) (site : Nat) (x : Mon) : (s.setMon site x).gaffer = s.gaffer := rfl
@[simp] theorem State.setMon_tenants (s : State) (site : Nat) (x : Mon) : (s.setMon site x).tenants = s.tenants := rfl
@[simp] theorem State.setMon_sec (s : State) (site : Nat) (x : Mon) : (s.setMon site x).sec = s.sec := rfl
@[simp] theorem State.setMon_ens (s : State) (site : Nat) (x : Mon) : (s.setMon site x).ens = s.ens := rfl
@[simp] theorem State.setMon_ports (s : State) (site : Nat) (x : Mon) : (s.setMon site x).ports = s.ports := rfl
@[simp] theorem State.setMon_boot (s : State) (site : Nat) (x : Mon) : (s.setMon site x).boot = s.boot := rfl
@[simp] theorem State.setMon_ram (s : State) (site : Nat) (x : Mon) : (s.setMon site x).ram = s.ram := rfl
@[simp] theorem State.setMon_hmem (s : State) (site : Nat) (x : Mon) : (s.setMon site x).hmem = s.hmem := rfl
@[simp] theorem State.setMon_badCpl (s : State) (site : Nat) (x : Mon) : (s.setMon site x).badCpl = s.badCpl := rfl
@[simp] theorem State.setMon_mute (s : State) (site : Nat) (x : Mon) : (s.setMon site x).mute = s.mute := rfl
@[simp] theorem State.setMon_flash (s : State) (site : Nat) (x : Mon) : (s.setMon site x).flash = s.flash := rfl
@[simp] theorem State.setMon_weak (s : State) (site : Nat) (x : Mon) : (s.setMon site x).weak = s.weak := rfl
@[simp] theorem State.setMon_loads (s : State) (site : Nat) (x : Mon) : (s.setMon site x).loads = s.loads := rfl
@[simp] theorem State.setMon_restarts (s : State) (site : Nat) (x : Mon) : (s.setMon site x).restarts = s.restarts := rfl
@[simp] theorem State.setMon_rings (s : State) (site : Nat) (x : Mon) : (s.setMon site x).rings = s.rings := rfl
@[simp] theorem State.setMon_strms (s : State) (site : Nat) (x : Mon) : (s.setMon site x).strms = s.strms := rfl
@[simp] theorem State.setMon_gates (s : State) (site : Nat) (x : Mon) : (s.setMon site x).gates = s.gates := rfl
@[simp] theorem State.setMon_axes (s : State) (site : Nat) (x : Mon) : (s.setMon site x).axes = s.axes := rfl
@[simp] theorem State.setMon_grps (s : State) (site : Nat) (x : Mon) : (s.setMon site x).grps = s.grps := rfl
@[simp] theorem State.setMon_slotRings (s : State) (site : Nat) (x : Mon) : (s.setMon site x).slotRings = s.slotRings := rfl
@[simp] theorem State.setMon_cueQs (s : State) (site : Nat) (x : Mon) : (s.setMon site x).cueQs = s.cueQs := rfl
@[simp] theorem State.setMon_binFlags (s : State) (site : Nat) (x : Mon) : (s.setMon site x).binFlags = s.binFlags := rfl
@[simp] theorem State.setMon_slates (s : State) (site : Nat) (x : Mon) : (s.setMon site x).slates = s.slates := rfl
@[simp] theorem State.setMon_gens (s : State) (site : Nat) (x : Mon) : (s.setMon site x).gens = s.gens := rfl
@[simp] theorem State.setMon_cancels (s : State) (site : Nat) (x : Mon) : (s.setMon site x).cancels = s.cancels := rfl
@[simp] theorem State.setMon_tqs (s : State) (site : Nat) (x : Mon) : (s.setMon site x).tqs = s.tqs := rfl
@[simp] theorem State.setMon_sched (s : State) (site : Nat) (x : Mon) : (s.setMon site x).sched = s.sched := rfl
@[simp] theorem State.setMon_dqs (s : State) (site : Nat) (x : Mon) : (s.setMon site x).dqs = s.dqs := rfl
@[simp] theorem State.setMon_cores (s : State) (site : Nat) (x : Mon) : (s.setMon site x).cores = s.cores := rfl
@[simp] theorem State.setMon_cmbs (s : State) (site : Nat) (x : Mon) : (s.setMon site x).cmbs = s.cmbs := rfl
@[simp] theorem State.setMon_engs (s : State) (site : Nat) (x : Mon) : (s.setMon site x).engs = s.engs := rfl
@[simp] theorem State.setMon_mmus (s : State) (site : Nat) (x : Mon) : (s.setMon site x).mmus = s.mmus := rfl
@[simp] theorem State.setMon_grans (s : State) (site : Nat) (x : Mon) : (s.setMon site x).grans = s.grans := rfl
@[simp] theorem State.setMon_granBusy (s : State) (site : Nat) (x : Mon) : (s.setMon site x).granBusy = s.granBusy := rfl
@[simp] theorem State.setMon_poison (s : State) (site : Nat) (x : Mon) : (s.setMon site x).poison = s.poison := rfl
@[simp] theorem State.setMon_buckets (s : State) (site : Nat) (x : Mon) : (s.setMon site x).buckets = s.buckets := rfl
@[simp] theorem State.setMon_arbs (s : State) (site : Nat) (x : Mon) : (s.setMon site x).arbs = s.arbs := rfl
@[simp] theorem State.setMon_capQs (s : State) (site : Nat) (x : Mon) : (s.setMon site x).capQs = s.capQs := rfl
@[simp] theorem State.setMon_avs (s : State) (site : Nat) (x : Mon) : (s.setMon site x).avs = s.avs := rfl
@[simp] theorem State.setMon_bndTaken (s : State) (site : Nat) (x : Mon) : (s.setMon site x).bndTaken = s.bndTaken := rfl
@[simp] theorem State.setMon_ces (s : State) (site : Nat) (x : Mon) : (s.setMon site x).ces = s.ces := rfl
@[simp] theorem State.setMon_scrubs (s : State) (site : Nat) (x : Mon) : (s.setMon site x).scrubs = s.scrubs := rfl
@[simp] theorem State.setMon_free (s : State) (site : Nat) (x : Mon) : (s.setMon site x).free = s.free := rfl
@[simp] theorem State.setMon_pending (s : State) (site : Nat) (x : Mon) : (s.setMon site x).pending = s.pending := rfl
@[simp] theorem State.setMon_reg (s : State) (site : Nat) (x : Mon) (a_ : Nat) : (s.setMon site x).reg a_ = s.reg a_ := rfl
@[simp] theorem State.setFio_asm (s : State) (site : Nat) (x : Fio) : (s.setFio site x).asm = s.asm := rfl
@[simp] theorem State.setFio_lead (s : State) (site : Nat) (x : Fio) : (s.setFio site x).lead = s.lead := rfl
@[simp] theorem State.setFio_regs (s : State) (site : Nat) (x : Fio) : (s.setFio site x).regs = s.regs := rfl
@[simp] theorem State.setFio_latch (s : State) (site : Nat) (x : Fio) : (s.setFio site x).latch = s.latch := rfl
@[simp] theorem State.setFio_rdata (s : State) (site : Nat) (x : Fio) : (s.setFio site x).rdata = s.rdata := rfl
@[simp] theorem State.setFio_rdataHi (s : State) (site : Nat) (x : Fio) : (s.setFio site x).rdataHi = s.rdataHi := rfl
@[simp] theorem State.setFio_back (s : State) (site : Nat) (x : Fio) : (s.setFio site x).back = s.back := rfl
@[simp] theorem State.setFio_bar2 (s : State) (site : Nat) (x : Fio) : (s.setFio site x).bar2 = s.bar2 := rfl
@[simp] theorem State.setFio_out (s : State) (site : Nat) (x : Fio) : (s.setFio site x).out = s.out := rfl
@[simp] theorem State.setFio_now (s : State) (site : Nat) (x : Fio) : (s.setFio site x).now = s.now := rfl
@[simp] theorem State.setFio_clapper (s : State) (site : Nat) (x : Fio) : (s.setFio site x).clapper = s.clapper := rfl
@[simp] theorem State.setFio_clk (s : State) (site : Nat) (x : Fio) : (s.setFio site x).clk = s.clk := rfl
@[simp] theorem State.setFio_sup (s : State) (site : Nat) (x : Fio) : (s.setFio site x).sup = s.sup := rfl
@[simp] theorem State.setFio_ticks (s : State) (site : Nat) (x : Fio) : (s.setFio site x).ticks = s.ticks := rfl
@[simp] theorem State.setFio_encs (s : State) (site : Nat) (x : Fio) : (s.setFio site x).encs = s.encs := rfl
@[simp] theorem State.setFio_poss (s : State) (site : Nat) (x : Fio) : (s.setFio site x).poss = s.poss := rfl
@[simp] theorem State.setFio_cevs (s : State) (site : Nat) (x : Fio) : (s.setFio site x).cevs = s.cevs := rfl
@[simp] theorem State.setFio_segArms (s : State) (site : Nat) (x : Fio) : (s.setFio site x).segArms = s.segArms := rfl
@[simp] theorem State.setFio_slots (s : State) (site : Nat) (x : Fio) : (s.setFio site x).slots = s.slots := rfl
@[simp] theorem State.setFio_groups (s : State) (site : Nat) (x : Fio) : (s.setFio site x).groups = s.groups := rfl
@[simp] theorem State.setFio_order (s : State) (site : Nat) (x : Fio) : (s.setFio site x).order = s.order := rfl
@[simp] theorem State.setFio_meters (s : State) (site : Nat) (x : Fio) : (s.setFio site x).meters = s.meters := rfl
@[simp] theorem State.setFio_calibs (s : State) (site : Nat) (x : Fio) : (s.setFio site x).calibs = s.calibs := rfl
@[simp] theorem State.setFio_gaffer (s : State) (site : Nat) (x : Fio) : (s.setFio site x).gaffer = s.gaffer := rfl
@[simp] theorem State.setFio_tenants (s : State) (site : Nat) (x : Fio) : (s.setFio site x).tenants = s.tenants := rfl
@[simp] theorem State.setFio_sec (s : State) (site : Nat) (x : Fio) : (s.setFio site x).sec = s.sec := rfl
@[simp] theorem State.setFio_ens (s : State) (site : Nat) (x : Fio) : (s.setFio site x).ens = s.ens := rfl
@[simp] theorem State.setFio_ports (s : State) (site : Nat) (x : Fio) : (s.setFio site x).ports = s.ports := rfl
@[simp] theorem State.setFio_mons (s : State) (site : Nat) (x : Fio) : (s.setFio site x).mons = s.mons := rfl
@[simp] theorem State.setFio_boot (s : State) (site : Nat) (x : Fio) : (s.setFio site x).boot = s.boot := rfl
@[simp] theorem State.setFio_ram (s : State) (site : Nat) (x : Fio) : (s.setFio site x).ram = s.ram := rfl
@[simp] theorem State.setFio_hmem (s : State) (site : Nat) (x : Fio) : (s.setFio site x).hmem = s.hmem := rfl
@[simp] theorem State.setFio_badCpl (s : State) (site : Nat) (x : Fio) : (s.setFio site x).badCpl = s.badCpl := rfl
@[simp] theorem State.setFio_mute (s : State) (site : Nat) (x : Fio) : (s.setFio site x).mute = s.mute := rfl
@[simp] theorem State.setFio_flash (s : State) (site : Nat) (x : Fio) : (s.setFio site x).flash = s.flash := rfl
@[simp] theorem State.setFio_weak (s : State) (site : Nat) (x : Fio) : (s.setFio site x).weak = s.weak := rfl
@[simp] theorem State.setFio_loads (s : State) (site : Nat) (x : Fio) : (s.setFio site x).loads = s.loads := rfl
@[simp] theorem State.setFio_restarts (s : State) (site : Nat) (x : Fio) : (s.setFio site x).restarts = s.restarts := rfl
@[simp] theorem State.setFio_rings (s : State) (site : Nat) (x : Fio) : (s.setFio site x).rings = s.rings := rfl
@[simp] theorem State.setFio_strms (s : State) (site : Nat) (x : Fio) : (s.setFio site x).strms = s.strms := rfl
@[simp] theorem State.setFio_gates (s : State) (site : Nat) (x : Fio) : (s.setFio site x).gates = s.gates := rfl
@[simp] theorem State.setFio_axes (s : State) (site : Nat) (x : Fio) : (s.setFio site x).axes = s.axes := rfl
@[simp] theorem State.setFio_grps (s : State) (site : Nat) (x : Fio) : (s.setFio site x).grps = s.grps := rfl
@[simp] theorem State.setFio_slotRings (s : State) (site : Nat) (x : Fio) : (s.setFio site x).slotRings = s.slotRings := rfl
@[simp] theorem State.setFio_cueQs (s : State) (site : Nat) (x : Fio) : (s.setFio site x).cueQs = s.cueQs := rfl
@[simp] theorem State.setFio_binFlags (s : State) (site : Nat) (x : Fio) : (s.setFio site x).binFlags = s.binFlags := rfl
@[simp] theorem State.setFio_slates (s : State) (site : Nat) (x : Fio) : (s.setFio site x).slates = s.slates := rfl
@[simp] theorem State.setFio_gens (s : State) (site : Nat) (x : Fio) : (s.setFio site x).gens = s.gens := rfl
@[simp] theorem State.setFio_cancels (s : State) (site : Nat) (x : Fio) : (s.setFio site x).cancels = s.cancels := rfl
@[simp] theorem State.setFio_tqs (s : State) (site : Nat) (x : Fio) : (s.setFio site x).tqs = s.tqs := rfl
@[simp] theorem State.setFio_sched (s : State) (site : Nat) (x : Fio) : (s.setFio site x).sched = s.sched := rfl
@[simp] theorem State.setFio_dqs (s : State) (site : Nat) (x : Fio) : (s.setFio site x).dqs = s.dqs := rfl
@[simp] theorem State.setFio_cores (s : State) (site : Nat) (x : Fio) : (s.setFio site x).cores = s.cores := rfl
@[simp] theorem State.setFio_cmbs (s : State) (site : Nat) (x : Fio) : (s.setFio site x).cmbs = s.cmbs := rfl
@[simp] theorem State.setFio_engs (s : State) (site : Nat) (x : Fio) : (s.setFio site x).engs = s.engs := rfl
@[simp] theorem State.setFio_mmus (s : State) (site : Nat) (x : Fio) : (s.setFio site x).mmus = s.mmus := rfl
@[simp] theorem State.setFio_grans (s : State) (site : Nat) (x : Fio) : (s.setFio site x).grans = s.grans := rfl
@[simp] theorem State.setFio_granBusy (s : State) (site : Nat) (x : Fio) : (s.setFio site x).granBusy = s.granBusy := rfl
@[simp] theorem State.setFio_poison (s : State) (site : Nat) (x : Fio) : (s.setFio site x).poison = s.poison := rfl
@[simp] theorem State.setFio_buckets (s : State) (site : Nat) (x : Fio) : (s.setFio site x).buckets = s.buckets := rfl
@[simp] theorem State.setFio_arbs (s : State) (site : Nat) (x : Fio) : (s.setFio site x).arbs = s.arbs := rfl
@[simp] theorem State.setFio_capQs (s : State) (site : Nat) (x : Fio) : (s.setFio site x).capQs = s.capQs := rfl
@[simp] theorem State.setFio_avs (s : State) (site : Nat) (x : Fio) : (s.setFio site x).avs = s.avs := rfl
@[simp] theorem State.setFio_bndTaken (s : State) (site : Nat) (x : Fio) : (s.setFio site x).bndTaken = s.bndTaken := rfl
@[simp] theorem State.setFio_ces (s : State) (site : Nat) (x : Fio) : (s.setFio site x).ces = s.ces := rfl
@[simp] theorem State.setFio_scrubs (s : State) (site : Nat) (x : Fio) : (s.setFio site x).scrubs = s.scrubs := rfl
@[simp] theorem State.setFio_free (s : State) (site : Nat) (x : Fio) : (s.setFio site x).free = s.free := rfl
@[simp] theorem State.setFio_pending (s : State) (site : Nat) (x : Fio) : (s.setFio site x).pending = s.pending := rfl
@[simp] theorem State.setFio_reg (s : State) (site : Nat) (x : Fio) (a_ : Nat) : (s.setFio site x).reg a_ = s.reg a_ := rfl
@[simp] theorem State.setSlot_asm (s : State) (site k : Nat) (x : Slot) : (s.setSlot site k x).asm = s.asm := rfl
@[simp] theorem State.setSlot_lead (s : State) (site k : Nat) (x : Slot) : (s.setSlot site k x).lead = s.lead := rfl
@[simp] theorem State.setSlot_regs (s : State) (site k : Nat) (x : Slot) : (s.setSlot site k x).regs = s.regs := rfl
@[simp] theorem State.setSlot_latch (s : State) (site k : Nat) (x : Slot) : (s.setSlot site k x).latch = s.latch := rfl
@[simp] theorem State.setSlot_rdata (s : State) (site k : Nat) (x : Slot) : (s.setSlot site k x).rdata = s.rdata := rfl
@[simp] theorem State.setSlot_rdataHi (s : State) (site k : Nat) (x : Slot) : (s.setSlot site k x).rdataHi = s.rdataHi := rfl
@[simp] theorem State.setSlot_back (s : State) (site k : Nat) (x : Slot) : (s.setSlot site k x).back = s.back := rfl
@[simp] theorem State.setSlot_bar2 (s : State) (site k : Nat) (x : Slot) : (s.setSlot site k x).bar2 = s.bar2 := rfl
@[simp] theorem State.setSlot_out (s : State) (site k : Nat) (x : Slot) : (s.setSlot site k x).out = s.out := rfl
@[simp] theorem State.setSlot_now (s : State) (site k : Nat) (x : Slot) : (s.setSlot site k x).now = s.now := rfl
@[simp] theorem State.setSlot_clapper (s : State) (site k : Nat) (x : Slot) : (s.setSlot site k x).clapper = s.clapper := rfl
@[simp] theorem State.setSlot_clk (s : State) (site k : Nat) (x : Slot) : (s.setSlot site k x).clk = s.clk := rfl
@[simp] theorem State.setSlot_sup (s : State) (site k : Nat) (x : Slot) : (s.setSlot site k x).sup = s.sup := rfl
@[simp] theorem State.setSlot_fios (s : State) (site k : Nat) (x : Slot) : (s.setSlot site k x).fios = s.fios := rfl
@[simp] theorem State.setSlot_ticks (s : State) (site k : Nat) (x : Slot) : (s.setSlot site k x).ticks = s.ticks := rfl
@[simp] theorem State.setSlot_encs (s : State) (site k : Nat) (x : Slot) : (s.setSlot site k x).encs = s.encs := rfl
@[simp] theorem State.setSlot_poss (s : State) (site k : Nat) (x : Slot) : (s.setSlot site k x).poss = s.poss := rfl
@[simp] theorem State.setSlot_cevs (s : State) (site k : Nat) (x : Slot) : (s.setSlot site k x).cevs = s.cevs := rfl
@[simp] theorem State.setSlot_segArms (s : State) (site k : Nat) (x : Slot) : (s.setSlot site k x).segArms = s.segArms := rfl
@[simp] theorem State.setSlot_groups (s : State) (site k : Nat) (x : Slot) : (s.setSlot site k x).groups = s.groups := rfl
@[simp] theorem State.setSlot_order (s : State) (site k : Nat) (x : Slot) : (s.setSlot site k x).order = s.order := rfl
@[simp] theorem State.setSlot_meters (s : State) (site k : Nat) (x : Slot) : (s.setSlot site k x).meters = s.meters := rfl
@[simp] theorem State.setSlot_calibs (s : State) (site k : Nat) (x : Slot) : (s.setSlot site k x).calibs = s.calibs := rfl
@[simp] theorem State.setSlot_gaffer (s : State) (site k : Nat) (x : Slot) : (s.setSlot site k x).gaffer = s.gaffer := rfl
@[simp] theorem State.setSlot_tenants (s : State) (site k : Nat) (x : Slot) : (s.setSlot site k x).tenants = s.tenants := rfl
@[simp] theorem State.setSlot_sec (s : State) (site k : Nat) (x : Slot) : (s.setSlot site k x).sec = s.sec := rfl
@[simp] theorem State.setSlot_ens (s : State) (site k : Nat) (x : Slot) : (s.setSlot site k x).ens = s.ens := rfl
@[simp] theorem State.setSlot_ports (s : State) (site k : Nat) (x : Slot) : (s.setSlot site k x).ports = s.ports := rfl
@[simp] theorem State.setSlot_mons (s : State) (site k : Nat) (x : Slot) : (s.setSlot site k x).mons = s.mons := rfl
@[simp] theorem State.setSlot_boot (s : State) (site k : Nat) (x : Slot) : (s.setSlot site k x).boot = s.boot := rfl
@[simp] theorem State.setSlot_ram (s : State) (site k : Nat) (x : Slot) : (s.setSlot site k x).ram = s.ram := rfl
@[simp] theorem State.setSlot_hmem (s : State) (site k : Nat) (x : Slot) : (s.setSlot site k x).hmem = s.hmem := rfl
@[simp] theorem State.setSlot_badCpl (s : State) (site k : Nat) (x : Slot) : (s.setSlot site k x).badCpl = s.badCpl := rfl
@[simp] theorem State.setSlot_mute (s : State) (site k : Nat) (x : Slot) : (s.setSlot site k x).mute = s.mute := rfl
@[simp] theorem State.setSlot_flash (s : State) (site k : Nat) (x : Slot) : (s.setSlot site k x).flash = s.flash := rfl
@[simp] theorem State.setSlot_weak (s : State) (site k : Nat) (x : Slot) : (s.setSlot site k x).weak = s.weak := rfl
@[simp] theorem State.setSlot_loads (s : State) (site k : Nat) (x : Slot) : (s.setSlot site k x).loads = s.loads := rfl
@[simp] theorem State.setSlot_restarts (s : State) (site k : Nat) (x : Slot) : (s.setSlot site k x).restarts = s.restarts := rfl
@[simp] theorem State.setSlot_rings (s : State) (site k : Nat) (x : Slot) : (s.setSlot site k x).rings = s.rings := rfl
@[simp] theorem State.setSlot_strms (s : State) (site k : Nat) (x : Slot) : (s.setSlot site k x).strms = s.strms := rfl
@[simp] theorem State.setSlot_gates (s : State) (site k : Nat) (x : Slot) : (s.setSlot site k x).gates = s.gates := rfl
@[simp] theorem State.setSlot_axes (s : State) (site k : Nat) (x : Slot) : (s.setSlot site k x).axes = s.axes := rfl
@[simp] theorem State.setSlot_grps (s : State) (site k : Nat) (x : Slot) : (s.setSlot site k x).grps = s.grps := rfl
@[simp] theorem State.setSlot_slotRings (s : State) (site k : Nat) (x : Slot) : (s.setSlot site k x).slotRings = s.slotRings := rfl
@[simp] theorem State.setSlot_cueQs (s : State) (site k : Nat) (x : Slot) : (s.setSlot site k x).cueQs = s.cueQs := rfl
@[simp] theorem State.setSlot_binFlags (s : State) (site k : Nat) (x : Slot) : (s.setSlot site k x).binFlags = s.binFlags := rfl
@[simp] theorem State.setSlot_slates (s : State) (site k : Nat) (x : Slot) : (s.setSlot site k x).slates = s.slates := rfl
@[simp] theorem State.setSlot_gens (s : State) (site k : Nat) (x : Slot) : (s.setSlot site k x).gens = s.gens := rfl
@[simp] theorem State.setSlot_cancels (s : State) (site k : Nat) (x : Slot) : (s.setSlot site k x).cancels = s.cancels := rfl
@[simp] theorem State.setSlot_tqs (s : State) (site k : Nat) (x : Slot) : (s.setSlot site k x).tqs = s.tqs := rfl
@[simp] theorem State.setSlot_sched (s : State) (site k : Nat) (x : Slot) : (s.setSlot site k x).sched = s.sched := rfl
@[simp] theorem State.setSlot_dqs (s : State) (site k : Nat) (x : Slot) : (s.setSlot site k x).dqs = s.dqs := rfl
@[simp] theorem State.setSlot_cores (s : State) (site k : Nat) (x : Slot) : (s.setSlot site k x).cores = s.cores := rfl
@[simp] theorem State.setSlot_cmbs (s : State) (site k : Nat) (x : Slot) : (s.setSlot site k x).cmbs = s.cmbs := rfl
@[simp] theorem State.setSlot_engs (s : State) (site k : Nat) (x : Slot) : (s.setSlot site k x).engs = s.engs := rfl
@[simp] theorem State.setSlot_mmus (s : State) (site k : Nat) (x : Slot) : (s.setSlot site k x).mmus = s.mmus := rfl
@[simp] theorem State.setSlot_grans (s : State) (site k : Nat) (x : Slot) : (s.setSlot site k x).grans = s.grans := rfl
@[simp] theorem State.setSlot_granBusy (s : State) (site k : Nat) (x : Slot) : (s.setSlot site k x).granBusy = s.granBusy := rfl
@[simp] theorem State.setSlot_poison (s : State) (site k : Nat) (x : Slot) : (s.setSlot site k x).poison = s.poison := rfl
@[simp] theorem State.setSlot_buckets (s : State) (site k : Nat) (x : Slot) : (s.setSlot site k x).buckets = s.buckets := rfl
@[simp] theorem State.setSlot_arbs (s : State) (site k : Nat) (x : Slot) : (s.setSlot site k x).arbs = s.arbs := rfl
@[simp] theorem State.setSlot_capQs (s : State) (site k : Nat) (x : Slot) : (s.setSlot site k x).capQs = s.capQs := rfl
@[simp] theorem State.setSlot_avs (s : State) (site k : Nat) (x : Slot) : (s.setSlot site k x).avs = s.avs := rfl
@[simp] theorem State.setSlot_bndTaken (s : State) (site k : Nat) (x : Slot) : (s.setSlot site k x).bndTaken = s.bndTaken := rfl
@[simp] theorem State.setSlot_ces (s : State) (site k : Nat) (x : Slot) : (s.setSlot site k x).ces = s.ces := rfl
@[simp] theorem State.setSlot_scrubs (s : State) (site k : Nat) (x : Slot) : (s.setSlot site k x).scrubs = s.scrubs := rfl
@[simp] theorem State.setSlot_free (s : State) (site k : Nat) (x : Slot) : (s.setSlot site k x).free = s.free := rfl
@[simp] theorem State.setSlot_pending (s : State) (site k : Nat) (x : Slot) : (s.setSlot site k x).pending = s.pending := rfl
@[simp] theorem State.setSlot_reg (s : State) (site k : Nat) (x : Slot) (a_ : Nat) : (s.setSlot site k x).reg a_ = s.reg a_ := rfl
@[simp] theorem State.setGroup_asm (s : State) (g : Nat) (x : Group) : (s.setGroup g x).asm = s.asm := rfl
@[simp] theorem State.setGroup_lead (s : State) (g : Nat) (x : Group) : (s.setGroup g x).lead = s.lead := rfl
@[simp] theorem State.setGroup_regs (s : State) (g : Nat) (x : Group) : (s.setGroup g x).regs = s.regs := rfl
@[simp] theorem State.setGroup_latch (s : State) (g : Nat) (x : Group) : (s.setGroup g x).latch = s.latch := rfl
@[simp] theorem State.setGroup_rdata (s : State) (g : Nat) (x : Group) : (s.setGroup g x).rdata = s.rdata := rfl
@[simp] theorem State.setGroup_rdataHi (s : State) (g : Nat) (x : Group) : (s.setGroup g x).rdataHi = s.rdataHi := rfl
@[simp] theorem State.setGroup_back (s : State) (g : Nat) (x : Group) : (s.setGroup g x).back = s.back := rfl
@[simp] theorem State.setGroup_bar2 (s : State) (g : Nat) (x : Group) : (s.setGroup g x).bar2 = s.bar2 := rfl
@[simp] theorem State.setGroup_out (s : State) (g : Nat) (x : Group) : (s.setGroup g x).out = s.out := rfl
@[simp] theorem State.setGroup_now (s : State) (g : Nat) (x : Group) : (s.setGroup g x).now = s.now := rfl
@[simp] theorem State.setGroup_clapper (s : State) (g : Nat) (x : Group) : (s.setGroup g x).clapper = s.clapper := rfl
@[simp] theorem State.setGroup_clk (s : State) (g : Nat) (x : Group) : (s.setGroup g x).clk = s.clk := rfl
@[simp] theorem State.setGroup_sup (s : State) (g : Nat) (x : Group) : (s.setGroup g x).sup = s.sup := rfl
@[simp] theorem State.setGroup_fios (s : State) (g : Nat) (x : Group) : (s.setGroup g x).fios = s.fios := rfl
@[simp] theorem State.setGroup_ticks (s : State) (g : Nat) (x : Group) : (s.setGroup g x).ticks = s.ticks := rfl
@[simp] theorem State.setGroup_encs (s : State) (g : Nat) (x : Group) : (s.setGroup g x).encs = s.encs := rfl
@[simp] theorem State.setGroup_poss (s : State) (g : Nat) (x : Group) : (s.setGroup g x).poss = s.poss := rfl
@[simp] theorem State.setGroup_cevs (s : State) (g : Nat) (x : Group) : (s.setGroup g x).cevs = s.cevs := rfl
@[simp] theorem State.setGroup_segArms (s : State) (g : Nat) (x : Group) : (s.setGroup g x).segArms = s.segArms := rfl
@[simp] theorem State.setGroup_slots (s : State) (g : Nat) (x : Group) : (s.setGroup g x).slots = s.slots := rfl
@[simp] theorem State.setGroup_order (s : State) (g : Nat) (x : Group) : (s.setGroup g x).order = s.order := rfl
@[simp] theorem State.setGroup_meters (s : State) (g : Nat) (x : Group) : (s.setGroup g x).meters = s.meters := rfl
@[simp] theorem State.setGroup_calibs (s : State) (g : Nat) (x : Group) : (s.setGroup g x).calibs = s.calibs := rfl
@[simp] theorem State.setGroup_gaffer (s : State) (g : Nat) (x : Group) : (s.setGroup g x).gaffer = s.gaffer := rfl
@[simp] theorem State.setGroup_tenants (s : State) (g : Nat) (x : Group) : (s.setGroup g x).tenants = s.tenants := rfl
@[simp] theorem State.setGroup_sec (s : State) (g : Nat) (x : Group) : (s.setGroup g x).sec = s.sec := rfl
@[simp] theorem State.setGroup_ens (s : State) (g : Nat) (x : Group) : (s.setGroup g x).ens = s.ens := rfl
@[simp] theorem State.setGroup_ports (s : State) (g : Nat) (x : Group) : (s.setGroup g x).ports = s.ports := rfl
@[simp] theorem State.setGroup_mons (s : State) (g : Nat) (x : Group) : (s.setGroup g x).mons = s.mons := rfl
@[simp] theorem State.setGroup_boot (s : State) (g : Nat) (x : Group) : (s.setGroup g x).boot = s.boot := rfl
@[simp] theorem State.setGroup_ram (s : State) (g : Nat) (x : Group) : (s.setGroup g x).ram = s.ram := rfl
@[simp] theorem State.setGroup_hmem (s : State) (g : Nat) (x : Group) : (s.setGroup g x).hmem = s.hmem := rfl
@[simp] theorem State.setGroup_badCpl (s : State) (g : Nat) (x : Group) : (s.setGroup g x).badCpl = s.badCpl := rfl
@[simp] theorem State.setGroup_mute (s : State) (g : Nat) (x : Group) : (s.setGroup g x).mute = s.mute := rfl
@[simp] theorem State.setGroup_flash (s : State) (g : Nat) (x : Group) : (s.setGroup g x).flash = s.flash := rfl
@[simp] theorem State.setGroup_weak (s : State) (g : Nat) (x : Group) : (s.setGroup g x).weak = s.weak := rfl
@[simp] theorem State.setGroup_loads (s : State) (g : Nat) (x : Group) : (s.setGroup g x).loads = s.loads := rfl
@[simp] theorem State.setGroup_restarts (s : State) (g : Nat) (x : Group) : (s.setGroup g x).restarts = s.restarts := rfl
@[simp] theorem State.setGroup_rings (s : State) (g : Nat) (x : Group) : (s.setGroup g x).rings = s.rings := rfl
@[simp] theorem State.setGroup_strms (s : State) (g : Nat) (x : Group) : (s.setGroup g x).strms = s.strms := rfl
@[simp] theorem State.setGroup_gates (s : State) (g : Nat) (x : Group) : (s.setGroup g x).gates = s.gates := rfl
@[simp] theorem State.setGroup_axes (s : State) (g : Nat) (x : Group) : (s.setGroup g x).axes = s.axes := rfl
@[simp] theorem State.setGroup_grps (s : State) (g : Nat) (x : Group) : (s.setGroup g x).grps = s.grps := rfl
@[simp] theorem State.setGroup_slotRings (s : State) (g : Nat) (x : Group) : (s.setGroup g x).slotRings = s.slotRings := rfl
@[simp] theorem State.setGroup_cueQs (s : State) (g : Nat) (x : Group) : (s.setGroup g x).cueQs = s.cueQs := rfl
@[simp] theorem State.setGroup_binFlags (s : State) (g : Nat) (x : Group) : (s.setGroup g x).binFlags = s.binFlags := rfl
@[simp] theorem State.setGroup_slates (s : State) (g : Nat) (x : Group) : (s.setGroup g x).slates = s.slates := rfl
@[simp] theorem State.setGroup_gens (s : State) (g : Nat) (x : Group) : (s.setGroup g x).gens = s.gens := rfl
@[simp] theorem State.setGroup_cancels (s : State) (g : Nat) (x : Group) : (s.setGroup g x).cancels = s.cancels := rfl
@[simp] theorem State.setGroup_tqs (s : State) (g : Nat) (x : Group) : (s.setGroup g x).tqs = s.tqs := rfl
@[simp] theorem State.setGroup_sched (s : State) (g : Nat) (x : Group) : (s.setGroup g x).sched = s.sched := rfl
@[simp] theorem State.setGroup_dqs (s : State) (g : Nat) (x : Group) : (s.setGroup g x).dqs = s.dqs := rfl
@[simp] theorem State.setGroup_cores (s : State) (g : Nat) (x : Group) : (s.setGroup g x).cores = s.cores := rfl
@[simp] theorem State.setGroup_cmbs (s : State) (g : Nat) (x : Group) : (s.setGroup g x).cmbs = s.cmbs := rfl
@[simp] theorem State.setGroup_engs (s : State) (g : Nat) (x : Group) : (s.setGroup g x).engs = s.engs := rfl
@[simp] theorem State.setGroup_mmus (s : State) (g : Nat) (x : Group) : (s.setGroup g x).mmus = s.mmus := rfl
@[simp] theorem State.setGroup_grans (s : State) (g : Nat) (x : Group) : (s.setGroup g x).grans = s.grans := rfl
@[simp] theorem State.setGroup_granBusy (s : State) (g : Nat) (x : Group) : (s.setGroup g x).granBusy = s.granBusy := rfl
@[simp] theorem State.setGroup_poison (s : State) (g : Nat) (x : Group) : (s.setGroup g x).poison = s.poison := rfl
@[simp] theorem State.setGroup_buckets (s : State) (g : Nat) (x : Group) : (s.setGroup g x).buckets = s.buckets := rfl
@[simp] theorem State.setGroup_arbs (s : State) (g : Nat) (x : Group) : (s.setGroup g x).arbs = s.arbs := rfl
@[simp] theorem State.setGroup_capQs (s : State) (g : Nat) (x : Group) : (s.setGroup g x).capQs = s.capQs := rfl
@[simp] theorem State.setGroup_avs (s : State) (g : Nat) (x : Group) : (s.setGroup g x).avs = s.avs := rfl
@[simp] theorem State.setGroup_bndTaken (s : State) (g : Nat) (x : Group) : (s.setGroup g x).bndTaken = s.bndTaken := rfl
@[simp] theorem State.setGroup_ces (s : State) (g : Nat) (x : Group) : (s.setGroup g x).ces = s.ces := rfl
@[simp] theorem State.setGroup_scrubs (s : State) (g : Nat) (x : Group) : (s.setGroup g x).scrubs = s.scrubs := rfl
@[simp] theorem State.setGroup_free (s : State) (g : Nat) (x : Group) : (s.setGroup g x).free = s.free := rfl
@[simp] theorem State.setGroup_pending (s : State) (g : Nat) (x : Group) : (s.setGroup g x).pending = s.pending := rfl
@[simp] theorem State.setGroup_reg (s : State) (g : Nat) (x : Group) (a_ : Nat) : (s.setGroup g x).reg a_ = s.reg a_ := rfl
@[simp] theorem State.flashPut_asm (s : State) (a : Nat) (cells : List (Byte × Byte)) : (s.flashPut a cells).asm = s.asm := rfl
@[simp] theorem State.flashPut_lead (s : State) (a : Nat) (cells : List (Byte × Byte)) : (s.flashPut a cells).lead = s.lead := rfl
@[simp] theorem State.flashPut_regs (s : State) (a : Nat) (cells : List (Byte × Byte)) : (s.flashPut a cells).regs = s.regs := rfl
@[simp] theorem State.flashPut_latch (s : State) (a : Nat) (cells : List (Byte × Byte)) : (s.flashPut a cells).latch = s.latch := rfl
@[simp] theorem State.flashPut_rdata (s : State) (a : Nat) (cells : List (Byte × Byte)) : (s.flashPut a cells).rdata = s.rdata := rfl
@[simp] theorem State.flashPut_rdataHi (s : State) (a : Nat) (cells : List (Byte × Byte)) : (s.flashPut a cells).rdataHi = s.rdataHi := rfl
@[simp] theorem State.flashPut_back (s : State) (a : Nat) (cells : List (Byte × Byte)) : (s.flashPut a cells).back = s.back := rfl
@[simp] theorem State.flashPut_bar2 (s : State) (a : Nat) (cells : List (Byte × Byte)) : (s.flashPut a cells).bar2 = s.bar2 := rfl
@[simp] theorem State.flashPut_out (s : State) (a : Nat) (cells : List (Byte × Byte)) : (s.flashPut a cells).out = s.out := rfl
@[simp] theorem State.flashPut_now (s : State) (a : Nat) (cells : List (Byte × Byte)) : (s.flashPut a cells).now = s.now := rfl
@[simp] theorem State.flashPut_clapper (s : State) (a : Nat) (cells : List (Byte × Byte)) : (s.flashPut a cells).clapper = s.clapper := rfl
@[simp] theorem State.flashPut_clk (s : State) (a : Nat) (cells : List (Byte × Byte)) : (s.flashPut a cells).clk = s.clk := rfl
@[simp] theorem State.flashPut_sup (s : State) (a : Nat) (cells : List (Byte × Byte)) : (s.flashPut a cells).sup = s.sup := rfl
@[simp] theorem State.flashPut_fios (s : State) (a : Nat) (cells : List (Byte × Byte)) : (s.flashPut a cells).fios = s.fios := rfl
@[simp] theorem State.flashPut_ticks (s : State) (a : Nat) (cells : List (Byte × Byte)) : (s.flashPut a cells).ticks = s.ticks := rfl
@[simp] theorem State.flashPut_encs (s : State) (a : Nat) (cells : List (Byte × Byte)) : (s.flashPut a cells).encs = s.encs := rfl
@[simp] theorem State.flashPut_poss (s : State) (a : Nat) (cells : List (Byte × Byte)) : (s.flashPut a cells).poss = s.poss := rfl
@[simp] theorem State.flashPut_cevs (s : State) (a : Nat) (cells : List (Byte × Byte)) : (s.flashPut a cells).cevs = s.cevs := rfl
@[simp] theorem State.flashPut_segArms (s : State) (a : Nat) (cells : List (Byte × Byte)) : (s.flashPut a cells).segArms = s.segArms := rfl
@[simp] theorem State.flashPut_slots (s : State) (a : Nat) (cells : List (Byte × Byte)) : (s.flashPut a cells).slots = s.slots := rfl
@[simp] theorem State.flashPut_groups (s : State) (a : Nat) (cells : List (Byte × Byte)) : (s.flashPut a cells).groups = s.groups := rfl
@[simp] theorem State.flashPut_order (s : State) (a : Nat) (cells : List (Byte × Byte)) : (s.flashPut a cells).order = s.order := rfl
@[simp] theorem State.flashPut_meters (s : State) (a : Nat) (cells : List (Byte × Byte)) : (s.flashPut a cells).meters = s.meters := rfl
@[simp] theorem State.flashPut_calibs (s : State) (a : Nat) (cells : List (Byte × Byte)) : (s.flashPut a cells).calibs = s.calibs := rfl
@[simp] theorem State.flashPut_gaffer (s : State) (a : Nat) (cells : List (Byte × Byte)) : (s.flashPut a cells).gaffer = s.gaffer := rfl
@[simp] theorem State.flashPut_tenants (s : State) (a : Nat) (cells : List (Byte × Byte)) : (s.flashPut a cells).tenants = s.tenants := rfl
@[simp] theorem State.flashPut_sec (s : State) (a : Nat) (cells : List (Byte × Byte)) : (s.flashPut a cells).sec = s.sec := rfl
@[simp] theorem State.flashPut_ens (s : State) (a : Nat) (cells : List (Byte × Byte)) : (s.flashPut a cells).ens = s.ens := rfl
@[simp] theorem State.flashPut_ports (s : State) (a : Nat) (cells : List (Byte × Byte)) : (s.flashPut a cells).ports = s.ports := rfl
@[simp] theorem State.flashPut_mons (s : State) (a : Nat) (cells : List (Byte × Byte)) : (s.flashPut a cells).mons = s.mons := rfl
@[simp] theorem State.flashPut_boot (s : State) (a : Nat) (cells : List (Byte × Byte)) : (s.flashPut a cells).boot = s.boot := rfl
@[simp] theorem State.flashPut_ram (s : State) (a : Nat) (cells : List (Byte × Byte)) : (s.flashPut a cells).ram = s.ram := rfl
@[simp] theorem State.flashPut_hmem (s : State) (a : Nat) (cells : List (Byte × Byte)) : (s.flashPut a cells).hmem = s.hmem := rfl
@[simp] theorem State.flashPut_badCpl (s : State) (a : Nat) (cells : List (Byte × Byte)) : (s.flashPut a cells).badCpl = s.badCpl := rfl
@[simp] theorem State.flashPut_mute (s : State) (a : Nat) (cells : List (Byte × Byte)) : (s.flashPut a cells).mute = s.mute := rfl
@[simp] theorem State.flashPut_loads (s : State) (a : Nat) (cells : List (Byte × Byte)) : (s.flashPut a cells).loads = s.loads := rfl
@[simp] theorem State.flashPut_restarts (s : State) (a : Nat) (cells : List (Byte × Byte)) : (s.flashPut a cells).restarts = s.restarts := rfl
@[simp] theorem State.flashPut_rings (s : State) (a : Nat) (cells : List (Byte × Byte)) : (s.flashPut a cells).rings = s.rings := rfl
@[simp] theorem State.flashPut_strms (s : State) (a : Nat) (cells : List (Byte × Byte)) : (s.flashPut a cells).strms = s.strms := rfl
@[simp] theorem State.flashPut_gates (s : State) (a : Nat) (cells : List (Byte × Byte)) : (s.flashPut a cells).gates = s.gates := rfl
@[simp] theorem State.flashPut_axes (s : State) (a : Nat) (cells : List (Byte × Byte)) : (s.flashPut a cells).axes = s.axes := rfl
@[simp] theorem State.flashPut_grps (s : State) (a : Nat) (cells : List (Byte × Byte)) : (s.flashPut a cells).grps = s.grps := rfl
@[simp] theorem State.flashPut_slotRings (s : State) (a : Nat) (cells : List (Byte × Byte)) : (s.flashPut a cells).slotRings = s.slotRings := rfl
@[simp] theorem State.flashPut_cueQs (s : State) (a : Nat) (cells : List (Byte × Byte)) : (s.flashPut a cells).cueQs = s.cueQs := rfl
@[simp] theorem State.flashPut_binFlags (s : State) (a : Nat) (cells : List (Byte × Byte)) : (s.flashPut a cells).binFlags = s.binFlags := rfl
@[simp] theorem State.flashPut_slates (s : State) (a : Nat) (cells : List (Byte × Byte)) : (s.flashPut a cells).slates = s.slates := rfl
@[simp] theorem State.flashPut_gens (s : State) (a : Nat) (cells : List (Byte × Byte)) : (s.flashPut a cells).gens = s.gens := rfl
@[simp] theorem State.flashPut_cancels (s : State) (a : Nat) (cells : List (Byte × Byte)) : (s.flashPut a cells).cancels = s.cancels := rfl
@[simp] theorem State.flashPut_tqs (s : State) (a : Nat) (cells : List (Byte × Byte)) : (s.flashPut a cells).tqs = s.tqs := rfl
@[simp] theorem State.flashPut_sched (s : State) (a : Nat) (cells : List (Byte × Byte)) : (s.flashPut a cells).sched = s.sched := rfl
@[simp] theorem State.flashPut_dqs (s : State) (a : Nat) (cells : List (Byte × Byte)) : (s.flashPut a cells).dqs = s.dqs := rfl
@[simp] theorem State.flashPut_cores (s : State) (a : Nat) (cells : List (Byte × Byte)) : (s.flashPut a cells).cores = s.cores := rfl
@[simp] theorem State.flashPut_cmbs (s : State) (a : Nat) (cells : List (Byte × Byte)) : (s.flashPut a cells).cmbs = s.cmbs := rfl
@[simp] theorem State.flashPut_engs (s : State) (a : Nat) (cells : List (Byte × Byte)) : (s.flashPut a cells).engs = s.engs := rfl
@[simp] theorem State.flashPut_mmus (s : State) (a : Nat) (cells : List (Byte × Byte)) : (s.flashPut a cells).mmus = s.mmus := rfl
@[simp] theorem State.flashPut_grans (s : State) (a : Nat) (cells : List (Byte × Byte)) : (s.flashPut a cells).grans = s.grans := rfl
@[simp] theorem State.flashPut_granBusy (s : State) (a : Nat) (cells : List (Byte × Byte)) : (s.flashPut a cells).granBusy = s.granBusy := rfl
@[simp] theorem State.flashPut_poison (s : State) (a : Nat) (cells : List (Byte × Byte)) : (s.flashPut a cells).poison = s.poison := rfl
@[simp] theorem State.flashPut_buckets (s : State) (a : Nat) (cells : List (Byte × Byte)) : (s.flashPut a cells).buckets = s.buckets := rfl
@[simp] theorem State.flashPut_arbs (s : State) (a : Nat) (cells : List (Byte × Byte)) : (s.flashPut a cells).arbs = s.arbs := rfl
@[simp] theorem State.flashPut_capQs (s : State) (a : Nat) (cells : List (Byte × Byte)) : (s.flashPut a cells).capQs = s.capQs := rfl
@[simp] theorem State.flashPut_avs (s : State) (a : Nat) (cells : List (Byte × Byte)) : (s.flashPut a cells).avs = s.avs := rfl
@[simp] theorem State.flashPut_bndTaken (s : State) (a : Nat) (cells : List (Byte × Byte)) : (s.flashPut a cells).bndTaken = s.bndTaken := rfl
@[simp] theorem State.flashPut_ces (s : State) (a : Nat) (cells : List (Byte × Byte)) : (s.flashPut a cells).ces = s.ces := rfl
@[simp] theorem State.flashPut_scrubs (s : State) (a : Nat) (cells : List (Byte × Byte)) : (s.flashPut a cells).scrubs = s.scrubs := rfl
@[simp] theorem State.flashPut_free (s : State) (a : Nat) (cells : List (Byte × Byte)) : (s.flashPut a cells).free = s.free := rfl
@[simp] theorem State.flashPut_pending (s : State) (a : Nat) (cells : List (Byte × Byte)) : (s.flashPut a cells).pending = s.pending := rfl
@[simp] theorem State.flashPut_reg (s : State) (a : Nat) (cells : List (Byte × Byte)) (a_ : Nat) : (s.flashPut a cells).reg a_ = s.reg a_ := rfl
@[simp] theorem State.setPort_asm (s : State) (site p : Nat) (x : Port) : (s.setPort site p x).asm = s.asm := rfl
@[simp] theorem State.setPort_lead (s : State) (site p : Nat) (x : Port) : (s.setPort site p x).lead = s.lead := rfl
@[simp] theorem State.setPort_regs (s : State) (site p : Nat) (x : Port) : (s.setPort site p x).regs = s.regs := rfl
@[simp] theorem State.setPort_latch (s : State) (site p : Nat) (x : Port) : (s.setPort site p x).latch = s.latch := rfl
@[simp] theorem State.setPort_rdata (s : State) (site p : Nat) (x : Port) : (s.setPort site p x).rdata = s.rdata := rfl
@[simp] theorem State.setPort_rdataHi (s : State) (site p : Nat) (x : Port) : (s.setPort site p x).rdataHi = s.rdataHi := rfl
@[simp] theorem State.setPort_back (s : State) (site p : Nat) (x : Port) : (s.setPort site p x).back = s.back := rfl
@[simp] theorem State.setPort_bar2 (s : State) (site p : Nat) (x : Port) : (s.setPort site p x).bar2 = s.bar2 := rfl
@[simp] theorem State.setPort_out (s : State) (site p : Nat) (x : Port) : (s.setPort site p x).out = s.out := rfl
@[simp] theorem State.setPort_now (s : State) (site p : Nat) (x : Port) : (s.setPort site p x).now = s.now := rfl
@[simp] theorem State.setPort_clapper (s : State) (site p : Nat) (x : Port) : (s.setPort site p x).clapper = s.clapper := rfl
@[simp] theorem State.setPort_clk (s : State) (site p : Nat) (x : Port) : (s.setPort site p x).clk = s.clk := rfl
@[simp] theorem State.setPort_sup (s : State) (site p : Nat) (x : Port) : (s.setPort site p x).sup = s.sup := rfl
@[simp] theorem State.setPort_fios (s : State) (site p : Nat) (x : Port) : (s.setPort site p x).fios = s.fios := rfl
@[simp] theorem State.setPort_ticks (s : State) (site p : Nat) (x : Port) : (s.setPort site p x).ticks = s.ticks := rfl
@[simp] theorem State.setPort_encs (s : State) (site p : Nat) (x : Port) : (s.setPort site p x).encs = s.encs := rfl
@[simp] theorem State.setPort_poss (s : State) (site p : Nat) (x : Port) : (s.setPort site p x).poss = s.poss := rfl
@[simp] theorem State.setPort_cevs (s : State) (site p : Nat) (x : Port) : (s.setPort site p x).cevs = s.cevs := rfl
@[simp] theorem State.setPort_segArms (s : State) (site p : Nat) (x : Port) : (s.setPort site p x).segArms = s.segArms := rfl
@[simp] theorem State.setPort_slots (s : State) (site p : Nat) (x : Port) : (s.setPort site p x).slots = s.slots := rfl
@[simp] theorem State.setPort_groups (s : State) (site p : Nat) (x : Port) : (s.setPort site p x).groups = s.groups := rfl
@[simp] theorem State.setPort_order (s : State) (site p : Nat) (x : Port) : (s.setPort site p x).order = s.order := rfl
@[simp] theorem State.setPort_meters (s : State) (site p : Nat) (x : Port) : (s.setPort site p x).meters = s.meters := rfl
@[simp] theorem State.setPort_calibs (s : State) (site p : Nat) (x : Port) : (s.setPort site p x).calibs = s.calibs := rfl
@[simp] theorem State.setPort_gaffer (s : State) (site p : Nat) (x : Port) : (s.setPort site p x).gaffer = s.gaffer := rfl
@[simp] theorem State.setPort_tenants (s : State) (site p : Nat) (x : Port) : (s.setPort site p x).tenants = s.tenants := rfl
@[simp] theorem State.setPort_sec (s : State) (site p : Nat) (x : Port) : (s.setPort site p x).sec = s.sec := rfl
@[simp] theorem State.setPort_ens (s : State) (site p : Nat) (x : Port) : (s.setPort site p x).ens = s.ens := rfl
@[simp] theorem State.setPort_mons (s : State) (site p : Nat) (x : Port) : (s.setPort site p x).mons = s.mons := rfl
@[simp] theorem State.setPort_boot (s : State) (site p : Nat) (x : Port) : (s.setPort site p x).boot = s.boot := rfl
@[simp] theorem State.setPort_ram (s : State) (site p : Nat) (x : Port) : (s.setPort site p x).ram = s.ram := rfl
@[simp] theorem State.setPort_hmem (s : State) (site p : Nat) (x : Port) : (s.setPort site p x).hmem = s.hmem := rfl
@[simp] theorem State.setPort_badCpl (s : State) (site p : Nat) (x : Port) : (s.setPort site p x).badCpl = s.badCpl := rfl
@[simp] theorem State.setPort_mute (s : State) (site p : Nat) (x : Port) : (s.setPort site p x).mute = s.mute := rfl
@[simp] theorem State.setPort_flash (s : State) (site p : Nat) (x : Port) : (s.setPort site p x).flash = s.flash := rfl
@[simp] theorem State.setPort_weak (s : State) (site p : Nat) (x : Port) : (s.setPort site p x).weak = s.weak := rfl
@[simp] theorem State.setPort_loads (s : State) (site p : Nat) (x : Port) : (s.setPort site p x).loads = s.loads := rfl
@[simp] theorem State.setPort_restarts (s : State) (site p : Nat) (x : Port) : (s.setPort site p x).restarts = s.restarts := rfl
@[simp] theorem State.setPort_rings (s : State) (site p : Nat) (x : Port) : (s.setPort site p x).rings = s.rings := rfl
@[simp] theorem State.setPort_strms (s : State) (site p : Nat) (x : Port) : (s.setPort site p x).strms = s.strms := rfl
@[simp] theorem State.setPort_gates (s : State) (site p : Nat) (x : Port) : (s.setPort site p x).gates = s.gates := rfl
@[simp] theorem State.setPort_axes (s : State) (site p : Nat) (x : Port) : (s.setPort site p x).axes = s.axes := rfl
@[simp] theorem State.setPort_grps (s : State) (site p : Nat) (x : Port) : (s.setPort site p x).grps = s.grps := rfl
@[simp] theorem State.setPort_slotRings (s : State) (site p : Nat) (x : Port) : (s.setPort site p x).slotRings = s.slotRings := rfl
@[simp] theorem State.setPort_cueQs (s : State) (site p : Nat) (x : Port) : (s.setPort site p x).cueQs = s.cueQs := rfl
@[simp] theorem State.setPort_binFlags (s : State) (site p : Nat) (x : Port) : (s.setPort site p x).binFlags = s.binFlags := rfl
@[simp] theorem State.setPort_slates (s : State) (site p : Nat) (x : Port) : (s.setPort site p x).slates = s.slates := rfl
@[simp] theorem State.setPort_gens (s : State) (site p : Nat) (x : Port) : (s.setPort site p x).gens = s.gens := rfl
@[simp] theorem State.setPort_cancels (s : State) (site p : Nat) (x : Port) : (s.setPort site p x).cancels = s.cancels := rfl
@[simp] theorem State.setPort_tqs (s : State) (site p : Nat) (x : Port) : (s.setPort site p x).tqs = s.tqs := rfl
@[simp] theorem State.setPort_sched (s : State) (site p : Nat) (x : Port) : (s.setPort site p x).sched = s.sched := rfl
@[simp] theorem State.setPort_dqs (s : State) (site p : Nat) (x : Port) : (s.setPort site p x).dqs = s.dqs := rfl
@[simp] theorem State.setPort_cores (s : State) (site p : Nat) (x : Port) : (s.setPort site p x).cores = s.cores := rfl
@[simp] theorem State.setPort_cmbs (s : State) (site p : Nat) (x : Port) : (s.setPort site p x).cmbs = s.cmbs := rfl
@[simp] theorem State.setPort_engs (s : State) (site p : Nat) (x : Port) : (s.setPort site p x).engs = s.engs := rfl
@[simp] theorem State.setPort_mmus (s : State) (site p : Nat) (x : Port) : (s.setPort site p x).mmus = s.mmus := rfl
@[simp] theorem State.setPort_grans (s : State) (site p : Nat) (x : Port) : (s.setPort site p x).grans = s.grans := rfl
@[simp] theorem State.setPort_granBusy (s : State) (site p : Nat) (x : Port) : (s.setPort site p x).granBusy = s.granBusy := rfl
@[simp] theorem State.setPort_poison (s : State) (site p : Nat) (x : Port) : (s.setPort site p x).poison = s.poison := rfl
@[simp] theorem State.setPort_buckets (s : State) (site p : Nat) (x : Port) : (s.setPort site p x).buckets = s.buckets := rfl
@[simp] theorem State.setPort_arbs (s : State) (site p : Nat) (x : Port) : (s.setPort site p x).arbs = s.arbs := rfl
@[simp] theorem State.setPort_capQs (s : State) (site p : Nat) (x : Port) : (s.setPort site p x).capQs = s.capQs := rfl
@[simp] theorem State.setPort_avs (s : State) (site p : Nat) (x : Port) : (s.setPort site p x).avs = s.avs := rfl
@[simp] theorem State.setPort_bndTaken (s : State) (site p : Nat) (x : Port) : (s.setPort site p x).bndTaken = s.bndTaken := rfl
@[simp] theorem State.setPort_ces (s : State) (site p : Nat) (x : Port) : (s.setPort site p x).ces = s.ces := rfl
@[simp] theorem State.setPort_scrubs (s : State) (site p : Nat) (x : Port) : (s.setPort site p x).scrubs = s.scrubs := rfl
@[simp] theorem State.setPort_free (s : State) (site p : Nat) (x : Port) : (s.setPort site p x).free = s.free := rfl
@[simp] theorem State.setPort_pending (s : State) (site p : Nat) (x : Port) : (s.setPort site p x).pending = s.pending := rfl
@[simp] theorem State.setPort_reg (s : State) (site p : Nat) (x : Port) (a_ : Nat) : (s.setPort site p x).reg a_ = s.reg a_ := rfl

/-- A register reads back what was written to it. -/
@[simp] theorem State.reg_setReg_same (s : State) (a : Nat) (v : Word) : (s.setReg a v).reg a = v :=
  tabGet_tabPut_same _ _ _ _

/-- A register write leaves every other register alone. -/
@[simp] theorem State.bar2Reg_setBar2_same (s : State) (k : Nat) (v : Word) : (s.setBar2 k v).bar2Reg k = v := tabGet_tabPut_same _ _ _ _

theorem State.reg_setReg_ne (s : State) {a b : Nat} (v : Word) (h : b ≠ a) : (s.setReg a v).reg b = s.reg b :=
  tabGet_tabPut_ne _ _ _ _ h

theorem State.reg_setReg (s : State) (a b : Nat) (v : Word) : (s.setReg a v).reg b = if b = a then v else s.reg b := by
  split
  · next h => subst h; exact State.reg_setReg_same s b v
  · next h => exact State.reg_setReg_ne s v h

@[simp] theorem State.pos_setPos_same (s : State) (site g : Nat) (x_ : Pos) : (s.setPos site g x_).pos site g = x_ := tabGet_tabPut_same _ _ _ _
@[simp] theorem State.meter_setMeter_same (s : State) (site m : Nat) (x_ : Meter) : (s.setMeter site m x_).meter site m = x_ := tabGet_tabPut_same _ _ _ _
@[simp] theorem State.calib_setCalib_same (s : State) (site : Nat) (x_ : Calib) : (s.setCalib site x_).calib site = x_ := tabGet_tabPut_same _ _ _ _
@[simp] theorem State.ring_setRing_same (s : State) (d : Nat) (x_ : DRing) : (s.setRing d x_).ring d = x_ := tabGet_tabPut_same _ _ _ _
@[simp] theorem State.enc_setEnc_same (s : State) (site e : Nat) (x_ : Enc) : (s.setEnc site e x_).enc site e = x_ := tabGet_tabPut_same _ _ _ _
@[simp] theorem State.strm_setStrm_same (s : State) (site k : Nat) (x_ : Strm) : (s.setStrm site k x_).strm site k = x_ := tabGet_tabPut_same _ _ _ _
@[simp] theorem State.gate_setGate_same (s : State) (site g : Nat) (x_ : Gate) : (s.setGate site g x_).gate site g = x_ := tabGet_tabPut_same _ _ _ _
@[simp] theorem State.axis_setAxis_same (s : State) (site a : Nat) (x_ : Axis) : (s.setAxis site a x_).axis site a = x_ := tabGet_tabPut_same _ _ _ _
@[simp] theorem State.grp_setGrp_same (s : State) (site g : Nat) (x_ : Grp) : (s.setGrp site g x_).grp site g = x_ := tabGet_tabPut_same _ _ _ _
@[simp] theorem State.sring_setSring_same (s : State) (site core r : Nat) (x_ : SRing) : (s.setSring site core r x_).sring site core r = x_ := tabGet_tabPut_same _ _ _ _
@[simp] theorem State.cue_setCue_same (s : State) (site q : Nat) (x_ : List Nat) : (s.setCue site q x_).cue site q = x_ := tabGet_tabPut_same _ _ _ _
@[simp] theorem State.bflag_setBflag_same (s : State) (site i : Nat) (x_ : Nat) : (s.setBflag site i x_).bflag site i = x_ := tabGet_tabPut_same _ _ _ _
@[simp] theorem State.mmu_setMmu_same (s : State) (t : Nat) (x_ : Mmu) : (s.setMmu t x_).mmu t = x_ := tabGet_tabPut_same _ _ _ _
@[simp] theorem State.tq_setTq_same (s : State) (t q : Nat) (x_ : TQ) : (s.setTq t q x_).tq t q = x_ := tabGet_tabPut_same _ _ _ _
@[simp] theorem State.core_setCore_same (s : State) (site c : Nat) (x_ : Core) : (s.setCore site c x_).core site c = x_ := tabGet_tabPut_same _ _ _ _
@[simp] theorem State.dq_setDq_same (s : State) (site c q : Nat) (x_ : DQ) : (s.setDq site c q x_).dq site c q = x_ := tabGet_tabPut_same _ _ _ _
@[simp] theorem State.cmb_setCmb_same (s : State) (site b : Nat) (x_ : Cmb) : (s.setCmb site b x_).cmb site b = x_ := tabGet_tabPut_same _ _ _ _
@[simp] theorem State.eng_setEng_same (s : State) (site e : Nat) (x_ : Eng) : (s.setEng site e x_).eng site e = x_ := tabGet_tabPut_same _ _ _ _
@[simp] theorem State.tenant_setTenant_same (s : State) (t : Nat) (x_ : Tenant) : (s.setTenant t x_).tenant t = x_ := tabGet_tabPut_same _ _ _ _
@[simp] theorem State.mon_setMon_same (s : State) (site : Nat) (x_ : Mon) : (s.setMon site x_).mon site = x_ := tabGet_tabPut_same _ _ _ _
@[simp] theorem State.fio_setFio_same (s : State) (site : Nat) (x_ : Fio) : (s.setFio site x_).fio site = x_ := tabGet_tabPut_same _ _ _ _
@[simp] theorem State.slot_setSlot_same (s : State) (site k : Nat) (x_ : Slot) : (s.setSlot site k x_).slot site k = x_ := tabGet_tabPut_same _ _ _ _
@[simp] theorem State.group_setGroup_same (s : State) (g : Nat) (x_ : Group) : (s.setGroup g x_).group g = x_ := tabGet_tabPut_same _ _ _ _
@[simp] theorem State.port_setPort_same (s : State) (site p : Nat) (x_ : Port) : (s.setPort site p x_).port site p = x_ := tabGet_tabPut_same _ _ _ _

end Sys2Proof.Machine
end

