-- ==== Sys2Proof/Laws/Events.lean ====
section
/-!
SUPPORT. Laws/Events.lean: what the operations of Machine/Ops.lean leave in the registers: one lemma that says where an operation may
write, and one for what it writes.
-/
namespace Sys2Proof.Machine

theorem bitOf_setBit (v : Word) {i : Nat} (hi : i < 32) (b : Bool) : bitOf (setBit v i b) i = b := by
  cases b <;> simp [bitOf, setBit, hi]

theorem bitOf_setBit_ne (v : Word) {i j : Nat} (h : j ≠ i) (b : Bool) : bitOf (setBit v i b) j = bitOf v j := by
  by_cases hj : j < 32
  · have : ¬ (j - i = 0 ∧ i ≤ j) := by omega
    cases b <;> simp [bitOf, setBit, hj] <;> omega
  · have e : ∀ w : Word, w.getLsbD j = false := fun w => BitVec.getLsbD_of_ge _ _ (by omega)
    simp [bitOf, e]

theorem pg_aligned (site blk : Nat) : pg site blk % 0x1000 = 0 := by
  unfold pg; omega

theorem State.reg_setNat (s : State) (a b n : Nat) : (s.setNat a n).reg b = if b = a then BitVec.ofNat 32 n else s.reg b :=
  State.reg_setReg s a b _

theorem State.reg_putBit (s : State) (a b i : Nat) (x : Bool) : (s.putBit a i x).reg b = if b = a then setBit (s.reg a) i x else s.reg b :=
  State.reg_setReg s a b _

theorem State.reg_putFld (s : State) (a b lo w x : Nat) : (s.putFld a lo w x).reg b = if b = a then setFld (s.reg a) lo w x else s.reg b :=
  State.reg_setReg s a b _

theorem State.reg_addSat (s : State) (a b n : Nat) :
    (s.addSat a n).reg b = if b = a then BitVec.ofNat 32 (satNat 0xFFFFFFFF ((s.reg a).toNat + n)) else s.reg b :=
  State.reg_setReg s a b _

theorem State.reg_addWrap (s : State) (a b n : Nat) : (s.addWrap a n).reg b = if b = a then s.reg a + BitVec.ofNat 32 n else s.reg b :=
  State.reg_setReg s a b _

@[simp] theorem State.reg_emit (s : State) (o : Output) (a : Nat) : (s.emit o).reg a = s.reg a := rfl
@[simp] theorem State.reg_draw (s : State) (a : Nat) : s.draw.reg a = s.reg a := rfl

/-- A vector signalled or held pending leaves every register (06 R109). -/
@[simp] theorem State.reg_msix (s : State) (fn vec a : Nat) : (s.msix fn vec).reg a = s.reg a := by
  unfold State.msix; split <;> rfl

@[simp] theorem State.reg_signal (s : State) (w : Word) (p a : Nat) : (s.signal w p).reg a = s.reg a := by
  unfold State.signal; split
  · exact State.reg_msix _ _ _ _
  · rfl

theorem State.reg_showPend (s : State) (p a : Nat) (h1 : a ≠ p + 0x18) (h2 : a ≠ pendReg p) : (s.showPend p).reg a = s.reg a := by
  have e : ∀ t : State, ∀ b, (t.putBit (pendReg p) (blkOf p % 32) b).reg a = t.reg a := fun t b => by
    rw [State.reg_putBit]; simp [h2]
  have e1 : (s.setReg (p + 0x18) (s.pend p)).reg a = s.reg a := by rw [State.reg_setReg]; simp [h1]
  unfold State.showPend
  simp only
  split
  · exact (e _ _).trans e1
  · exact e1

/-- An event shows in EVT_RAW, EVT_PEND and PEND_MAP alone (03 R57). -/
theorem State.reg_evt (s : State) (p bit a : Nat) (h : a ∉ evtRegs p) : (s.evt p bit).reg a = s.reg a := by
  simp only [evtRegs, List.mem_cons, List.not_mem_nil, or_false, not_or] at h
  unfold State.evt
  rw [State.reg_signal, State.reg_showPend _ _ _ h.2.1 h.2.2, State.reg_putBit]
  simp [h.1]

theorem pendReg_ne {p off : Nat} (hp : p % 0x1000 = 0) (h : off < 0x100) : p + off ≠ pendReg p := by
  intro e
  have hb : blkOf p < 1024 := by unfold blkOf; omega
  have hs : p = siteOf p * 0x400000 + blkOf p * 0x1000 := by unfold siteOf blkOf; omega
  unfold pendReg pg at e
  generalize siteOf p = k at *
  generalize blkOf p = b at *
  have hj : b / 32 < 32 := by omega
  rcases Nat.lt_trichotomy k 8 with hk | hk | hk <;> omega

theorem State.regBit_evt (s : State) {p bit : Nat} (hp : p % 0x1000 = 0) (hb : bit < 32) : (s.evt p bit).latched p bit = true := by
  have h : (s.evt p bit).reg (p + 0x10) = setBit (s.reg (p + 0x10)) bit true := by
    unfold State.evt
    rw [State.reg_signal, State.reg_showPend _ _ _ (by omega) (pendReg_ne hp (by decide)), State.reg_putBit]
    simp
  simp [State.latched, State.regBit, h, bitOf_setBit _ hb]

theorem State.latched_evt (s : State) {p bit : Nat} (hp : p % 0x1000 = 0) (hb : bit < 32) (q i : Nat) :
    (s.evt p bit).latched q i = if q = p ∧ i = bit then true else (s.evt p bit).latched q i := by
  split
  · rename_i h
    rw [h.1, h.2, State.regBit_evt s hp hb]
  · rfl

/-- A rejection shows in REJ_INFO and in the event WR_REJECT (03 R71). -/
theorem State.reg_reject (s : State) (req p off reason a : Nat) (h : a ∉ rejRegs p) : (s.reject req p off reason).reg a = s.reg a := by
  simp only [rejRegs, List.mem_cons, not_or] at h
  unfold State.reject
  rw [State.reg_evt _ _ _ _ h.2, State.reg_setNat]
  simp [h.1]

theorem State.rejInfo_reject (s : State) {p : Nat} (hp : p % 0x1000 = 0) (req off reason : Nat) :
    (s.reject req p off reason).reg (p + 0x34) = BitVec.ofNat 32 (off % 4096 + reason * 2 ^ 12 + req % 32 * 2 ^ 16) := by
  unfold State.reject
  rw [State.reg_evt, State.reg_setNat]
  · simp
  · simp only [evtRegs, List.mem_cons, List.not_mem_nil, or_false, not_or]
    exact ⟨by omega, by omega, pendReg_ne hp (by decide)⟩

theorem State.latched_reject (s : State) {p : Nat} (hp : p % 0x1000 = 0) (req off reason : Nat) :
    (s.reject req p off reason).latched p 24 = true :=
  State.regBit_evt _ hp (by decide)

/-- A register of the page header or beyond it that an event leaves alone. -/
theorem not_evtReg {p off : Nat} (hp : p % 0x1000 = 0) (h : off < 0x100) (h1 : off ≠ 0x10) (h2 : off ≠ 0x18) : p + off ∉ evtRegs p := by
  simp only [evtRegs, List.mem_cons, List.not_mem_nil, or_false, not_or]
  exact ⟨by omega, by omega, pendReg_ne hp h⟩

theorem fld_setFld_low (v : Word) {w x : Nat} (hw : w ≤ 16) (hx : x < 2 ^ w) : fld (setFld v 0 w x) 0 w = x := by
  have h1 : (v &&& ~~~ fldMask 0 w).toNat % 2 ^ w = 0 := by
    have : ∀ i, i < w → (v &&& ~~~ fldMask 0 w).getLsbD i = false := by
      intro i hi
      have : i < 32 := by omega
      simp [fldMask, BitVec.getLsbD_ofNat, this, Nat.testBit_two_pow_sub_one, hi]
    apply Nat.eq_of_testBit_eq
    intro i
    by_cases hi : i < w
    · have := this i hi
      simp [Nat.testBit_mod_two_pow, hi]
      simpa [BitVec.getLsbD] using this
    · simp [Nat.testBit_mod_two_pow, hi]
  have h2 : x < 2 ^ 32 := Nat.lt_of_lt_of_le hx (Nat.pow_le_pow_right (by decide) (by omega))
  unfold fld setFld
  simp only [Nat.pow_zero, Nat.mul_one, Nat.div_one, BitVec.toNat_or, BitVec.toNat_ofNat, Nat.mod_eq_of_lt hx, Nat.mod_eq_of_lt h2]
  rw [Nat.or_mod_two_pow, h1, Nat.zero_or, Nat.mod_eq_of_lt hx]

/-- The state a page is moved to is the state it then is in (03 R54). -/
theorem State.st_setSt (s : State) {p x : Nat} (hp : p % 0x1000 = 0) (hx : x < 8) : (s.setSt p x).st p = x := by
  unfold State.setSt
  split
  · assumption
  · have e : ((s.putFld (p + 0xC) 0 3 x).evt p 25).reg (p + 0xC) = setFld (s.reg (p + 0xC)) 0 3 x := by
      rw [State.reg_evt _ _ _ _ (not_evtReg hp (by decide) (by decide) (by decide)), State.reg_putFld]; simp
    unfold State.st State.regFld
    rw [e]
    exact fld_setFld_low _ (by decide) hx

/-- A change of state shows in STATE and in the event STATE_CHANGE (03 R54). -/
theorem State.reg_setSt (s : State) (p x a : Nat) (h : a ∉ stRegs p) : (s.setSt p x).reg a = s.reg a := by
  simp only [stRegs, List.mem_cons, not_or] at h
  unfold State.setSt
  split
  · rfl
  · rw [State.reg_evt _ _ _ _ h.2, State.reg_putFld]
    simp [h.1]

theorem State.st_of_reg {s t : State} {p : Nat} (h : t.reg (p + 0xC) = s.reg (p + 0xC)) : t.st p = s.st p := by
  unfold State.st State.regFld; rw [h]

theorem State.st_evt (s : State) {p : Nat} (hp : p % 0x1000 = 0) (bit : Nat) : (s.evt p bit).st p = s.st p :=
  State.st_of_reg (State.reg_evt _ _ _ _ (not_evtReg hp (by decide) (by decide) (by decide)))

/-- Entering FAULT (03 R54, R58). -/
theorem State.st_toFault (s : State) {p : Nat} (hp : p % 0x1000 = 0) (code cls : Nat) : (s.toFault p code cls).st p = 5 := by
  unfold State.toFault
  rw [State.st_evt _ hp, State.st_setSt _ hp (by decide)]

theorem State.latched_toFault (s : State) {p : Nat} (hp : p % 0x1000 = 0) (code cls : Nat) : (s.toFault p code cls).latched p 26 = true :=
  State.regBit_evt _ hp (by decide)

theorem State.reg_faultRec (s : State) (p code cls a : Nat) (h : a ≠ p + 0x1C) : (s.faultRec p code cls).reg a = s.reg a := by
  unfold State.faultRec
  split
  · rw [State.reg_setNat]; simp [h]
  · rw [State.reg_putBit]; simp [h]

theorem State.reg_toFault (s : State) (p code cls a : Nat) (h : a ∉ faultRegs p) : (s.toFault p code cls).reg a = s.reg a := by
  simp only [faultRegs, stRegs, List.mem_cons, not_or] at h
  unfold State.toFault
  rw [State.reg_evt _ _ _ _ h.2.2.2, State.reg_setSt, State.reg_putBit, State.reg_faultRec _ _ _ _ _ h.2.1]
  · simp [h.1]
  · simp only [stRegs, List.mem_cons, not_or]; exact h.2.2

theorem State.reg_blockFault (s : State) (p code cls a : Nat) (h : a ∉ faultRegs p) : (s.blockFault p code cls).reg a = s.reg a := by
  have h1 : a ≠ p + 0x1C := by
    simp only [faultRegs, List.mem_cons, not_or] at h; exact h.2.1
  unfold State.blockFault
  split
  · exact State.reg_faultRec _ _ _ _ _ h1
  · split
    · exact State.reg_faultRec _ _ _ _ _ h1
    · exact State.reg_toFault _ _ _ _ _ h

theorem State.st_blockFault (s : State) {p : Nat} (hp : p % 0x1000 = 0) (code cls : Nat)
    (h : s.st p ≠ 0 ∧ s.st p ≠ 7) : (s.blockFault p code cls).st p = 5 := by
  unfold State.blockFault
  rw [if_neg (by omega)]
  split
  · rename_i h5
    rw [← h5]
    exact State.st_of_reg (State.reg_faultRec _ _ _ _ _ (by omega))
  · exact State.st_toFault _ hp _ _

theorem State.gateWrite_takes {s : State} {ty req site blk off : Nat} (h : s.takes ty req site blk off = true) :
    s.gateWrite req site blk off = none ∧ s.typeAt site blk = ty ∧ s.noneDue site = true := by
  simpa [State.takes, Bool.and_eq_true, and_assoc] using h

/-- A write that its page takes runs its own rule. -/
theorem State.asWrite_takes {s : State} {ty req site blk off : Nat} {k : State → State} (h : s.takes ty req site blk off = true) :
    s.asWrite ty req site blk off k = k s := by
  obtain ⟨h1, h2, -⟩ := State.gateWrite_takes h
  simp [State.asWrite, h1, h2]

/-- Where no commit of a site is due, a direct write finds the site as it stands (03 R66). -/
theorem State.commitsFirst_none {s : State} {site : Nat} (h : s.noneDue site = true) : s.commitsFirst site = s := by
  have e : s.commitNext site = s := by
    have : [0, 1, 2, 3].find? (fun k => s.slotNext site k) = none := by
      simp only [State.noneDue, List.all_eq_true, Bool.not_eq_true'] at h
      simp only [List.find?_eq_none, State.slotNext, Bool.and_eq_true, not_and]
      intro k hk hd
      rw [h k hk] at hd
      cases hd
    simp [State.commitNext, this]
  have : ∀ l : List Nat, l.foldl (fun s _ => s.commitNext site) s = s := by
    intro l
    induction l with
    | nil => rfl
    | cons a l ih => simp [e, ih]
  exact this _

theorem State.directWrite_takes {s : State} {ty req site blk off : Nat} {k : State → State} (h : s.takes ty req site blk off = true) :
    s.directWrite ty req site blk off k = k s := by
  unfold State.directWrite
  rw [State.asWrite_takes h, State.commitsFirst_none (State.gateWrite_takes h).2.2]

end Sys2Proof.Machine
end

