-- ==== Sys2Proof/Laws/Kept.lean ====
section
/-!
SUPPORT. Laws/Kept.lean: the relation "all but these fields is kept, and the canonical form too", its steps, and one lemma per raw
update of State.
-/
namespace Sys2Proof.Machine

theorem Field.sub_trans {a b c : List Field} (h1 : Field.sub a b = true) (h2 : Field.sub b c = true) : Field.sub a c = true := by
  simp only [Field.sub, List.all_eq_true, decide_eq_true_eq] at h1 h2 ⊢
  exact fun x hx => h2 x (h1 x hx)

theorem Field.sub_refl (a : List Field) : Field.sub a a = true := by
  simp [Field.sub]

theorem Field.mem_of_sub {f : Field} {w : List Field} (h : Field.sub [f] w = true) : f ∈ w := by
  simpa [Field.sub] using h

theorem Kept.refl (w : List Field) (s : State) : Kept w s s := ⟨fun f _ => by cases f <;> rfl, id⟩

theorem Kept.trans {w : List Field} {a b c : State} (h1 : Kept w a b) (h2 : Kept w b c) : Kept w a c := by
  refine ⟨fun f hf => ?_, fun h => h2.wf (h1.wf h)⟩
  have x := h1.same f hf
  have y := h2.same f hf
  cases f <;> simp only [Field.same] at x y ⊢ <;> rw [y, x]

theorem Kept.mono {v w : List Field} {a b : State} (hs : Field.sub v w = true) (h : Kept v a b) : Kept w a b := by
  simp only [Field.sub, List.all_eq_true, decide_eq_true_eq] at hs
  exact ⟨fun f hf => h.same f (fun hv => hf (hs f hv)), h.wf⟩

theorem Kept.ite {w : List Field} {s a b : State} {c : Prop} [Decidable c] (h1 : Kept w s a) (h2 : Kept w s b) :
    Kept w s (if c then a else b) := by
  split
  · exact h1
  · exact h2

theorem Kept.ite_fst {α : Type} {w : List Field} {s : State} {a b : State × α} {c : Prop} [Decidable c] (h1 : Kept w s a.1) (h2 : Kept w s b.1) :
    Kept w s (if c then a else b).1 := by
  split
  · exact h1
  · exact h2

theorem Kept.foldl {α : Type} {w : List Field} {s : State} {f : State → α → State} (hf : ∀ t x, Kept w s t → Kept w s (f t x)) :
    ∀ (l : List α) (t : State), Kept w s t → Kept w s (l.foldl f t) := by
  intro l
  induction l with
  | nil => exact fun _ h => h
  | cons x l ih => exact fun t h => ih _ (hf t x h)

theorem Kept.foldl_fst {α β : Type} {w : List Field} {s : State} {f : State × β → α → State × β}
    (hf : ∀ t x, Kept w s t.1 → Kept w s (f t x).1) : ∀ (l : List α) (t : State × β), Kept w s t.1 → Kept w s (l.foldl f t).1 := by
  intro l
  induction l with
  | nil => exact fun _ h => h
  | cons x l ih => exact fun t h => ih _ (hf t x h)

/-- What an operation that may answer no state answers. -/
def KeptO (w : List Field) (s : State) (o : Option State) : Prop := ∀ t, o = some t → Kept w s t
theorem KeptO.none {w : List Field} {s : State} : KeptO w s none := fun _ e => by cases e
theorem KeptO.some {w : List Field} {s a : State} (h : Kept w s a) : KeptO w s (some a) := fun _ e => by cases e; exact h
theorem KeptO.ite {w : List Field} {s : State} {a b : Option State} {c : Prop} [Decidable c] (h1 : KeptO w s a) (h2 : KeptO w s b) :
    KeptO w s (if c then a else b) := by
  split
  · exact h1
  · exact h2

theorem KeptO.of {w : List Field} {s t : State} {o : Option State} (h : KeptO w s o) (e : o = Option.some t) : Kept w s t := h t e
theorem Kept.of_fst {α : Type} {w : List Field} {s t : State} {p : State × α} {x : α} (h : Kept w s p.1) (e : p = (t, x)) : Kept w s t := by
  subst e; exact h
theorem Kept.of_snd {α : Type} {w : List Field} {s t : State} {p : α × State} {x : α} (h : Kept w s p.2) (e : p = (x, t)) : Kept w s t := by
  subst e; exact h

/-- What an operation answers that gives a state and a value, or nothing. -/
def KeptOP {α : Type} (w : List Field) (s : State) (o : Option (State × α)) : Prop := ∀ t x, o = some (t, x) → Kept w s t
theorem KeptOP.none {α : Type} {w : List Field} {s : State} : KeptOP (α := α) w s none := fun _ _ e => by cases e
theorem KeptOP.some {α : Type} {w : List Field} {s a : State} {x : α} (h : Kept w s a) : KeptOP w s (some (a, x)) := fun _ _ e => by cases e; exact h
theorem KeptOP.ite {α : Type} {w : List Field} {s : State} {a b : Option (State × α)} {c : Prop} [Decidable c] (h1 : KeptOP w s a) (h2 : KeptOP w s b) :
    KeptOP w s (if c then a else b) := by
  split
  · exact h1
  · exact h2
theorem KeptOP.of {α : Type} {w : List Field} {s t : State} {x : α} {o : Option (State × α)} (h : KeptOP w s o) (e : o = Option.some (t, x)) : Kept w s t :=
  h t x e
def KeptOQ {α : Type} (w : List Field) (s : State) (o : Option (α × State)) : Prop := ∀ x t, o = some (x, t) → Kept w s t
theorem KeptOQ.none {α : Type} {w : List Field} {s : State} : KeptOQ (α := α) w s none := fun _ _ e => by cases e
theorem KeptOQ.some {α : Type} {w : List Field} {s a : State} {x : α} (h : Kept w s a) : KeptOQ w s (some (x, a)) := fun _ _ e => by cases e; exact h
theorem KeptOQ.ite {α : Type} {w : List Field} {s : State} {a b : Option (α × State)} {c : Prop} [Decidable c] (h1 : KeptOQ w s a) (h2 : KeptOQ w s b) :
    KeptOQ w s (if c then a else b) := by
  split
  · exact h1
  · exact h2
theorem KeptOQ.of {α : Type} {w : List Field} {s t : State} {x : α} {o : Option (α × State)} (h : KeptOQ w s o) (e : o = Option.some (x, t)) : Kept w s t :=
  h x t e

/-- What writing a record answers. -/
def KeptR (w : List Field) (s : State) : RecOut → Prop
  | .wrote t => Kept w s t
  | .noRoom => True
  | .notYet => True
  | .page t _ _ => Kept w s t
theorem KeptR.ite {w : List Field} {s : State} {a b : RecOut} {c : Prop} [Decidable c] (h1 : KeptR w s a) (h2 : KeptR w s b) :
    KeptR w s (if c then a else b) := by
  split
  · exact h1
  · exact h2

theorem Kept.after_next {w : List Field} {s a b : State} (h : Kept w s a) : Kept w s (after b (.next a)) := h

/-- An update of fields of `w` none of which the canonical form rests on. -/
theorem Kept.set {w : List Field} {s a b : State} (h : Kept w s a)
    (hb : ∀ f : Field, f ∉ w → f.same a b)
    (hw : b.asm = a.asm ∧ b.regs = a.regs ∧ b.ram = a.ram ∧ b.hmem = a.hmem ∧ b.flash = a.flash ∧ b.weak = a.weak) : Kept w s b := by
  refine h.trans ⟨hb, fun x => ?_⟩
  obtain ⟨h1, h2, h3, h4, h5, h6⟩ := hw
  simpa only [State.wf, h1, h2, h3, h4, h5, h6] using x

theorem Kept.set_lead {w : List Field} {s a : State} (x) (hw : Field.sub [.lead] w = true) (h : Kept w s a) : Kept w s { a with lead := x } :=
  h.set (fun f hf => by cases f <;> first | rfl | exact absurd (Field.mem_of_sub hw) hf) ⟨rfl, rfl, rfl, rfl, rfl, rfl⟩
theorem Kept.set_latch {w : List Field} {s a : State} (x) (hw : Field.sub [.latch] w = true) (h : Kept w s a) : Kept w s { a with latch := x } :=
  h.set (fun f hf => by cases f <;> first | rfl | exact absurd (Field.mem_of_sub hw) hf) ⟨rfl, rfl, rfl, rfl, rfl, rfl⟩
theorem Kept.set_rdata {w : List Field} {s a : State} (x) (hw : Field.sub [.rdata] w = true) (h : Kept w s a) : Kept w s { a with rdata := x } :=
  h.set (fun f hf => by cases f <;> first | rfl | exact absurd (Field.mem_of_sub hw) hf) ⟨rfl, rfl, rfl, rfl, rfl, rfl⟩
theorem Kept.set_rdataHi {w : List Field} {s a : State} (x) (hw : Field.sub [.rdataHi] w = true) (h : Kept w s a) : Kept w s { a with rdataHi := x } :=
  h.set (fun f hf => by cases f <;> first | rfl | exact absurd (Field.mem_of_sub hw) hf) ⟨rfl, rfl, rfl, rfl, rfl, rfl⟩
theorem Kept.set_back {w : List Field} {s a : State} (x) (hw : Field.sub [.back] w = true) (h : Kept w s a) : Kept w s { a with back := x } :=
  h.set (fun f hf => by cases f <;> first | rfl | exact absurd (Field.mem_of_sub hw) hf) ⟨rfl, rfl, rfl, rfl, rfl, rfl⟩
theorem Kept.set_bar2 {w : List Field} {s a : State} (x) (hw : Field.sub [.bar2] w = true) (h : Kept w s a) : Kept w s { a with bar2 := x } :=
  h.set (fun f hf => by cases f <;> first | rfl | exact absurd (Field.mem_of_sub hw) hf) ⟨rfl, rfl, rfl, rfl, rfl, rfl⟩
theorem Kept.set_out {w : List Field} {s a : State} (x) (hw : Field.sub [.out] w = true) (h : Kept w s a) : Kept w s { a with out := x } :=
  h.set (fun f hf => by cases f <;> first | rfl | exact absurd (Field.mem_of_sub hw) hf) ⟨rfl, rfl, rfl, rfl, rfl, rfl⟩
theorem Kept.set_now {w : List Field} {s a : State} (x) (hw : Field.sub [.now] w = true) (h : Kept w s a) : Kept w s { a with now := x } :=
  h.set (fun f hf => by cases f <;> first | rfl | exact absurd (Field.mem_of_sub hw) hf) ⟨rfl, rfl, rfl, rfl, rfl, rfl⟩
theorem Kept.set_clapper {w : List Field} {s a : State} (x) (hw : Field.sub [.clapper] w = true) (h : Kept w s a) : Kept w s { a with clapper := x } :=
  h.set (fun f hf => by cases f <;> first | rfl | exact absurd (Field.mem_of_sub hw) hf) ⟨rfl, rfl, rfl, rfl, rfl, rfl⟩
theorem Kept.set_clk {w : List Field} {s a : State} (x) (hw : Field.sub [.clk] w = true) (h : Kept w s a) : Kept w s { a with clk := x } :=
  h.set (fun f hf => by cases f <;> first | rfl | exact absurd (Field.mem_of_sub hw) hf) ⟨rfl, rfl, rfl, rfl, rfl, rfl⟩
theorem Kept.set_sup {w : List Field} {s a : State} (x) (hw : Field.sub [.sup] w = true) (h : Kept w s a) : Kept w s { a with sup := x } :=
  h.set (fun f hf => by cases f <;> first | rfl | exact absurd (Field.mem_of_sub hw) hf) ⟨rfl, rfl, rfl, rfl, rfl, rfl⟩
theorem Kept.set_fios {w : List Field} {s a : State} (x) (hw : Field.sub [.fios] w = true) (h : Kept w s a) : Kept w s { a with fios := x } :=
  h.set (fun f hf => by cases f <;> first | rfl | exact absurd (Field.mem_of_sub hw) hf) ⟨rfl, rfl, rfl, rfl, rfl, rfl⟩
theorem Kept.set_ticks {w : List Field} {s a : State} (x) (hw : Field.sub [.ticks] w = true) (h : Kept w s a) : Kept w s { a with ticks := x } :=
  h.set (fun f hf => by cases f <;> first | rfl | exact absurd (Field.mem_of_sub hw) hf) ⟨rfl, rfl, rfl, rfl, rfl, rfl⟩
theorem Kept.set_encs {w : List Field} {s a : State} (x) (hw : Field.sub [.encs] w = true) (h : Kept w s a) : Kept w s { a with encs := x } :=
  h.set (fun f hf => by cases f <;> first | rfl | exact absurd (Field.mem_of_sub hw) hf) ⟨rfl, rfl, rfl, rfl, rfl, rfl⟩
theorem Kept.set_poss {w : List Field} {s a : State} (x) (hw : Field.sub [.poss] w = true) (h : Kept w s a) : Kept w s { a with poss := x } :=
  h.set (fun f hf => by cases f <;> first | rfl | exact absurd (Field.mem_of_sub hw) hf) ⟨rfl, rfl, rfl, rfl, rfl, rfl⟩
theorem Kept.set_cevs {w : List Field} {s a : State} (x) (hw : Field.sub [.cevs] w = true) (h : Kept w s a) : Kept w s { a with cevs := x } :=
  h.set (fun f hf => by cases f <;> first | rfl | exact absurd (Field.mem_of_sub hw) hf) ⟨rfl, rfl, rfl, rfl, rfl, rfl⟩
theorem Kept.set_segArms {w : List Field} {s a : State} (x) (hw : Field.sub [.segArms] w = true) (h : Kept w s a) : Kept w s { a with segArms := x } :=
  h.set (fun f hf => by cases f <;> first | rfl | exact absurd (Field.mem_of_sub hw) hf) ⟨rfl, rfl, rfl, rfl, rfl, rfl⟩
theorem Kept.set_slots {w : List Field} {s a : State} (x) (hw : Field.sub [.slots] w = true) (h : Kept w s a) : Kept w s { a with slots := x } :=
  h.set (fun f hf => by cases f <;> first | rfl | exact absurd (Field.mem_of_sub hw) hf) ⟨rfl, rfl, rfl, rfl, rfl, rfl⟩
theorem Kept.set_groups {w : List Field} {s a : State} (x) (hw : Field.sub [.groups] w = true) (h : Kept w s a) : Kept w s { a with groups := x } :=
  h.set (fun f hf => by cases f <;> first | rfl | exact absurd (Field.mem_of_sub hw) hf) ⟨rfl, rfl, rfl, rfl, rfl, rfl⟩
theorem Kept.set_order {w : List Field} {s a : State} (x) (hw : Field.sub [.order] w = true) (h : Kept w s a) : Kept w s { a with order := x } :=
  h.set (fun f hf => by cases f <;> first | rfl | exact absurd (Field.mem_of_sub hw) hf) ⟨rfl, rfl, rfl, rfl, rfl, rfl⟩
theorem Kept.set_meters {w : List Field} {s a : State} (x) (hw : Field.sub [.meters] w = true) (h : Kept w s a) : Kept w s { a with meters := x } :=
  h.set (fun f hf => by cases f <;> first | rfl | exact absurd (Field.mem_of_sub hw) hf) ⟨rfl, rfl, rfl, rfl, rfl, rfl⟩
theorem Kept.set_calibs {w : List Field} {s a : State} (x) (hw : Field.sub [.calibs] w = true) (h : Kept w s a) : Kept w s { a with calibs := x } :=
  h.set (fun f hf => by cases f <;> first | rfl | exact absurd (Field.mem_of_sub hw) hf) ⟨rfl, rfl, rfl, rfl, rfl, rfl⟩
theorem Kept.set_gaffer {w : List Field} {s a : State} (x) (hw : Field.sub [.gaffer] w = true) (h : Kept w s a) : Kept w s { a with gaffer := x } :=
  h.set (fun f hf => by cases f <;> first | rfl | exact absurd (Field.mem_of_sub hw) hf) ⟨rfl, rfl, rfl, rfl, rfl, rfl⟩
theorem Kept.set_tenants {w : List Field} {s a : State} (x) (hw : Field.sub [.tenants] w = true) (h : Kept w s a) : Kept w s { a with tenants := x } :=
  h.set (fun f hf => by cases f <;> first | rfl | exact absurd (Field.mem_of_sub hw) hf) ⟨rfl, rfl, rfl, rfl, rfl, rfl⟩
theorem Kept.set_sec {w : List Field} {s a : State} (x) (hw : Field.sub [.sec] w = true) (h : Kept w s a) : Kept w s { a with sec := x } :=
  h.set (fun f hf => by cases f <;> first | rfl | exact absurd (Field.mem_of_sub hw) hf) ⟨rfl, rfl, rfl, rfl, rfl, rfl⟩
theorem Kept.set_ens {w : List Field} {s a : State} (x) (hw : Field.sub [.ens] w = true) (h : Kept w s a) : Kept w s { a with ens := x } :=
  h.set (fun f hf => by cases f <;> first | rfl | exact absurd (Field.mem_of_sub hw) hf) ⟨rfl, rfl, rfl, rfl, rfl, rfl⟩
theorem Kept.set_ports {w : List Field} {s a : State} (x) (hw : Field.sub [.ports] w = true) (h : Kept w s a) : Kept w s { a with ports := x } :=
  h.set (fun f hf => by cases f <;> first | rfl | exact absurd (Field.mem_of_sub hw) hf) ⟨rfl, rfl, rfl, rfl, rfl, rfl⟩
theorem Kept.set_mons {w : List Field} {s a : State} (x) (hw : Field.sub [.mons] w = true) (h : Kept w s a) : Kept w s { a with mons := x } :=
  h.set (fun f hf => by cases f <;> first | rfl | exact absurd (Field.mem_of_sub hw) hf) ⟨rfl, rfl, rfl, rfl, rfl, rfl⟩
theorem Kept.set_boot {w : List Field} {s a : State} (x) (hw : Field.sub [.boot] w = true) (h : Kept w s a) : Kept w s { a with boot := x } :=
  h.set (fun f hf => by cases f <;> first | rfl | exact absurd (Field.mem_of_sub hw) hf) ⟨rfl, rfl, rfl, rfl, rfl, rfl⟩
theorem Kept.set_badCpl {w : List Field} {s a : State} (x) (hw : Field.sub [.badCpl] w = true) (h : Kept w s a) : Kept w s { a with badCpl := x } :=
  h.set (fun f hf => by cases f <;> first | rfl | exact absurd (Field.mem_of_sub hw) hf) ⟨rfl, rfl, rfl, rfl, rfl, rfl⟩
theorem Kept.set_mute {w : List Field} {s a : State} (x) (hw : Field.sub [.mute] w = true) (h : Kept w s a) : Kept w s { a with mute := x } :=
  h.set (fun f hf => by cases f <;> first | rfl | exact absurd (Field.mem_of_sub hw) hf) ⟨rfl, rfl, rfl, rfl, rfl, rfl⟩
theorem Kept.set_loads {w : List Field} {s a : State} (x) (hw : Field.sub [.loads] w = true) (h : Kept w s a) : Kept w s { a with loads := x } :=
  h.set (fun f hf => by cases f <;> first | rfl | exact absurd (Field.mem_of_sub hw) hf) ⟨rfl, rfl, rfl, rfl, rfl, rfl⟩
theorem Kept.set_restarts {w : List Field} {s a : State} (x) (hw : Field.sub [.restarts] w = true) (h : Kept w s a) : Kept w s { a with restarts := x } :=
  h.set (fun f hf => by cases f <;> first | rfl | exact absurd (Field.mem_of_sub hw) hf) ⟨rfl, rfl, rfl, rfl, rfl, rfl⟩
theorem Kept.set_rings {w : List Field} {s a : State} (x) (hw : Field.sub [.rings] w = true) (h : Kept w s a) : Kept w s { a with rings := x } :=
  h.set (fun f hf => by cases f <;> first | rfl | exact absurd (Field.mem_of_sub hw) hf) ⟨rfl, rfl, rfl, rfl, rfl, rfl⟩
theorem Kept.set_strms {w : List Field} {s a : State} (x) (hw : Field.sub [.strms] w = true) (h : Kept w s a) : Kept w s { a with strms := x } :=
  h.set (fun f hf => by cases f <;> first | rfl | exact absurd (Field.mem_of_sub hw) hf) ⟨rfl, rfl, rfl, rfl, rfl, rfl⟩
theorem Kept.set_gates {w : List Field} {s a : State} (x) (hw : Field.sub [.gates] w = true) (h : Kept w s a) : Kept w s { a with gates := x } :=
  h.set (fun f hf => by cases f <;> first | rfl | exact absurd (Field.mem_of_sub hw) hf) ⟨rfl, rfl, rfl, rfl, rfl, rfl⟩
theorem Kept.set_axes {w : List Field} {s a : State} (x) (hw : Field.sub [.axes] w = true) (h : Kept w s a) : Kept w s { a with axes := x } :=
  h.set (fun f hf => by cases f <;> first | rfl | exact absurd (Field.mem_of_sub hw) hf) ⟨rfl, rfl, rfl, rfl, rfl, rfl⟩
theorem Kept.set_grps {w : List Field} {s a : State} (x) (hw : Field.sub [.grps] w = true) (h : Kept w s a) : Kept w s { a with grps := x } :=
  h.set (fun f hf => by cases f <;> first | rfl | exact absurd (Field.mem_of_sub hw) hf) ⟨rfl, rfl, rfl, rfl, rfl, rfl⟩
theorem Kept.set_slotRings {w : List Field} {s a : State} (x) (hw : Field.sub [.slotRings] w = true) (h : Kept w s a) : Kept w s { a with slotRings := x } :=
  h.set (fun f hf => by cases f <;> first | rfl | exact absurd (Field.mem_of_sub hw) hf) ⟨rfl, rfl, rfl, rfl, rfl, rfl⟩
theorem Kept.set_cueQs {w : List Field} {s a : State} (x) (hw : Field.sub [.cueQs] w = true) (h : Kept w s a) : Kept w s { a with cueQs := x } :=
  h.set (fun f hf => by cases f <;> first | rfl | exact absurd (Field.mem_of_sub hw) hf) ⟨rfl, rfl, rfl, rfl, rfl, rfl⟩
theorem Kept.set_binFlags {w : List Field} {s a : State} (x) (hw : Field.sub [.binFlags] w = true) (h : Kept w s a) : Kept w s { a with binFlags := x } :=
  h.set (fun f hf => by cases f <;> first | rfl | exact absurd (Field.mem_of_sub hw) hf) ⟨rfl, rfl, rfl, rfl, rfl, rfl⟩
theorem Kept.set_slates {w : List Field} {s a : State} (x) (hw : Field.sub [.slates] w = true) (h : Kept w s a) : Kept w s { a with slates := x } :=
  h.set (fun f hf => by cases f <;> first | rfl | exact absurd (Field.mem_of_sub hw) hf) ⟨rfl, rfl, rfl, rfl, rfl, rfl⟩
theorem Kept.set_gens {w : List Field} {s a : State} (x) (hw : Field.sub [.gens] w = true) (h : Kept w s a) : Kept w s { a with gens := x } :=
  h.set (fun f hf => by cases f <;> first | rfl | exact absurd (Field.mem_of_sub hw) hf) ⟨rfl, rfl, rfl, rfl, rfl, rfl⟩
theorem Kept.set_cancels {w : List Field} {s a : State} (x) (hw : Field.sub [.cancels] w = true) (h : Kept w s a) : Kept w s { a with cancels := x } :=
  h.set (fun f hf => by cases f <;> first | rfl | exact absurd (Field.mem_of_sub hw) hf) ⟨rfl, rfl, rfl, rfl, rfl, rfl⟩
theorem Kept.set_tqs {w : List Field} {s a : State} (x) (hw : Field.sub [.tqs] w = true) (h : Kept w s a) : Kept w s { a with tqs := x } :=
  h.set (fun f hf => by cases f <;> first | rfl | exact absurd (Field.mem_of_sub hw) hf) ⟨rfl, rfl, rfl, rfl, rfl, rfl⟩
theorem Kept.set_sched {w : List Field} {s a : State} (x) (hw : Field.sub [.sched] w = true) (h : Kept w s a) : Kept w s { a with sched := x } :=
  h.set (fun f hf => by cases f <;> first | rfl | exact absurd (Field.mem_of_sub hw) hf) ⟨rfl, rfl, rfl, rfl, rfl, rfl⟩
theorem Kept.set_dqs {w : List Field} {s a : State} (x) (hw : Field.sub [.dqs] w = true) (h : Kept w s a) : Kept w s { a with dqs := x } :=
  h.set (fun f hf => by cases f <;> first | rfl | exact absurd (Field.mem_of_sub hw) hf) ⟨rfl, rfl, rfl, rfl, rfl, rfl⟩
theorem Kept.set_cores {w : List Field} {s a : State} (x) (hw : Field.sub [.cores] w = true) (h : Kept w s a) : Kept w s { a with cores := x } :=
  h.set (fun f hf => by cases f <;> first | rfl | exact absurd (Field.mem_of_sub hw) hf) ⟨rfl, rfl, rfl, rfl, rfl, rfl⟩
theorem Kept.set_cmbs {w : List Field} {s a : State} (x) (hw : Field.sub [.cmbs] w = true) (h : Kept w s a) : Kept w s { a with cmbs := x } :=
  h.set (fun f hf => by cases f <;> first | rfl | exact absurd (Field.mem_of_sub hw) hf) ⟨rfl, rfl, rfl, rfl, rfl, rfl⟩
theorem Kept.set_engs {w : List Field} {s a : State} (x) (hw : Field.sub [.engs] w = true) (h : Kept w s a) : Kept w s { a with engs := x } :=
  h.set (fun f hf => by cases f <;> first | rfl | exact absurd (Field.mem_of_sub hw) hf) ⟨rfl, rfl, rfl, rfl, rfl, rfl⟩
theorem Kept.set_mmus {w : List Field} {s a : State} (x) (hw : Field.sub [.mmus] w = true) (h : Kept w s a) : Kept w s { a with mmus := x } :=
  h.set (fun f hf => by cases f <;> first | rfl | exact absurd (Field.mem_of_sub hw) hf) ⟨rfl, rfl, rfl, rfl, rfl, rfl⟩
theorem Kept.set_grans {w : List Field} {s a : State} (x) (hw : Field.sub [.grans] w = true) (h : Kept w s a) : Kept w s { a with grans := x } :=
  h.set (fun f hf => by cases f <;> first | rfl | exact absurd (Field.mem_of_sub hw) hf) ⟨rfl, rfl, rfl, rfl, rfl, rfl⟩
theorem Kept.set_granBusy {w : List Field} {s a : State} (x) (hw : Field.sub [.granBusy] w = true) (h : Kept w s a) : Kept w s { a with granBusy := x } :=
  h.set (fun f hf => by cases f <;> first | rfl | exact absurd (Field.mem_of_sub hw) hf) ⟨rfl, rfl, rfl, rfl, rfl, rfl⟩
theorem Kept.set_poison {w : List Field} {s a : State} (x) (hw : Field.sub [.poison] w = true) (h : Kept w s a) : Kept w s { a with poison := x } :=
  h.set (fun f hf => by cases f <;> first | rfl | exact absurd (Field.mem_of_sub hw) hf) ⟨rfl, rfl, rfl, rfl, rfl, rfl⟩
theorem Kept.set_buckets {w : List Field} {s a : State} (x) (hw : Field.sub [.buckets] w = true) (h : Kept w s a) : Kept w s { a with buckets := x } :=
  h.set (fun f hf => by cases f <;> first | rfl | exact absurd (Field.mem_of_sub hw) hf) ⟨rfl, rfl, rfl, rfl, rfl, rfl⟩
theorem Kept.set_arbs {w : List Field} {s a : State} (x) (hw : Field.sub [.arbs] w = true) (h : Kept w s a) : Kept w s { a with arbs := x } :=
  h.set (fun f hf => by cases f <;> first | rfl | exact absurd (Field.mem_of_sub hw) hf) ⟨rfl, rfl, rfl, rfl, rfl, rfl⟩
theorem Kept.set_capQs {w : List Field} {s a : State} (x) (hw : Field.sub [.capQs] w = true) (h : Kept w s a) : Kept w s { a with capQs := x } :=
  h.set (fun f hf => by cases f <;> first | rfl | exact absurd (Field.mem_of_sub hw) hf) ⟨rfl, rfl, rfl, rfl, rfl, rfl⟩
theorem Kept.set_avs {w : List Field} {s a : State} (x) (hw : Field.sub [.avs] w = true) (h : Kept w s a) : Kept w s { a with avs := x } :=
  h.set (fun f hf => by cases f <;> first | rfl | exact absurd (Field.mem_of_sub hw) hf) ⟨rfl, rfl, rfl, rfl, rfl, rfl⟩
theorem Kept.set_bndTaken {w : List Field} {s a : State} (x) (hw : Field.sub [.bndTaken] w = true) (h : Kept w s a) : Kept w s { a with bndTaken := x } :=
  h.set (fun f hf => by cases f <;> first | rfl | exact absurd (Field.mem_of_sub hw) hf) ⟨rfl, rfl, rfl, rfl, rfl, rfl⟩
theorem Kept.set_ces {w : List Field} {s a : State} (x) (hw : Field.sub [.ces] w = true) (h : Kept w s a) : Kept w s { a with ces := x } :=
  h.set (fun f hf => by cases f <;> first | rfl | exact absurd (Field.mem_of_sub hw) hf) ⟨rfl, rfl, rfl, rfl, rfl, rfl⟩
theorem Kept.set_scrubs {w : List Field} {s a : State} (x) (hw : Field.sub [.scrubs] w = true) (h : Kept w s a) : Kept w s { a with scrubs := x } :=
  h.set (fun f hf => by cases f <;> first | rfl | exact absurd (Field.mem_of_sub hw) hf) ⟨rfl, rfl, rfl, rfl, rfl, rfl⟩
theorem Kept.set_free {w : List Field} {s a : State} (x) (hw : Field.sub [.free] w = true) (h : Kept w s a) : Kept w s { a with free := x } :=
  h.set (fun f hf => by cases f <;> first | rfl | exact absurd (Field.mem_of_sub hw) hf) ⟨rfl, rfl, rfl, rfl, rfl, rfl⟩
theorem Kept.set_rdata_rdataHi {w : List Field} {s a : State} (x y) (ha : Field.sub [.rdata] w = true) (hb : Field.sub [.rdataHi] w = true) (h : Kept w s a) :
    Kept w s { a with rdata := x, rdataHi := y } := (h.set_rdata x ha).set_rdataHi y hb
theorem Kept.set_bndTaken_free {w : List Field} {s a : State} (x y) (ha : Field.sub [.bndTaken] w = true) (hb : Field.sub [.free] w = true) (h : Kept w s a) :
    Kept w s { a with bndTaken := x, free := y } := (h.set_bndTaken x ha).set_free y hb
theorem Kept.set_restarts_free {w : List Field} {s a : State} (x y) (ha : Field.sub [.restarts] w = true) (hb : Field.sub [.free] w = true) (h : Kept w s a) :
    Kept w s { a with restarts := x, free := y } := (h.set_restarts x ha).set_free y hb
theorem Kept.set_cueQs_binFlags {w : List Field} {s a : State} (x y) (ha : Field.sub [.cueQs] w = true) (hb : Field.sub [.binFlags] w = true) (h : Kept w s a) :
    Kept w s { a with cueQs := x, binFlags := y } := (h.set_cueQs x ha).set_binFlags y hb
theorem Kept.set_cueQs_cancels {w : List Field} {s a : State} (x y) (ha : Field.sub [.cueQs] w = true) (hb : Field.sub [.cancels] w = true) (h : Kept w s a) :
    Kept w s { a with cueQs := x, cancels := y } := (h.set_cueQs x ha).set_cancels y hb
theorem Kept.set_sec_free {w : List Field} {s a : State} (x y) (ha : Field.sub [.sec] w = true) (hb : Field.sub [.free] w = true) (h : Kept w s a) :
    Kept w s { a with sec := x, free := y } := (h.set_sec x ha).set_free y hb
theorem Kept.set_slates_bndTaken {w : List Field} {s a : State} (x y) (ha : Field.sub [.slates] w = true) (hb : Field.sub [.bndTaken] w = true) (h : Kept w s a) :
    Kept w s { a with slates := x, bndTaken := y } := (h.set_slates x ha).set_bndTaken y hb
theorem Kept.set_rdata_sec {w : List Field} {s a : State} (x y) (ha : Field.sub [.rdata] w = true) (hb : Field.sub [.sec] w = true) (h : Kept w s a) :
    Kept w s { a with rdata := x, sec := y } := (h.set_rdata x ha).set_sec y hb
theorem Kept.set_cevs_order {w : List Field} {s a : State} (x y) (ha : Field.sub [.cevs] w = true) (hb : Field.sub [.order] w = true) (h : Kept w s a) :
    Kept w s { a with cevs := x, order := y } := (h.set_cevs x ha).set_order y hb
theorem Kept.set_grans_granBusy {w : List Field} {s a : State} (x y) (ha : Field.sub [.grans] w = true) (hb : Field.sub [.granBusy] w = true) (h : Kept w s a) :
    Kept w s { a with grans := x, granBusy := y } := (h.set_grans x ha).set_granBusy y hb
theorem Kept.set_granBusy_poison {w : List Field} {s a : State} (x y) (ha : Field.sub [.granBusy] w = true) (hb : Field.sub [.poison] w = true) (h : Kept w s a) :
    Kept w s { a with granBusy := x, poison := y } := (h.set_granBusy x ha).set_poison y hb
theorem Kept.set_cueQs_binFlags_cancels {w : List Field} {s a : State} (x y z) (ha : Field.sub [.cueQs] w = true) (hb : Field.sub [.binFlags] w = true) (hc : Field.sub [.cancels] w = true) (h : Kept w s a) :
    Kept w s { a with cueQs := x, binFlags := y, cancels := z } := ((h.set_cueQs x ha).set_binFlags y hb).set_cancels z hc
theorem Kept.set_sup_fios_sec {w : List Field} {s a : State} (x y z) (ha : Field.sub [.sup] w = true) (hb : Field.sub [.fios] w = true) (hc : Field.sub [.sec] w = true) (h : Kept w s a) :
    Kept w s { a with sup := x, fios := y, sec := z } := ((h.set_sup x ha).set_fios y hb).set_sec z hc

theorem Kept.set_regs {w : List Field} {s a : State} (x) (hw : Field.sub [.regs] w = true) (h : Kept w s a)
    (hx : tabWf (regReset a.asm) a.regs = true → tabWf (regReset a.asm) x = true) : Kept w s { a with regs := x } := by
  refine h.trans ⟨fun f hf => by cases f <;> first | rfl | exact absurd (Field.mem_of_sub hw) hf, fun q => ?_⟩
  simp only [State.wf, Bool.and_eq_true] at q ⊢
  obtain ⟨⟨⟨⟨q1, q2⟩, q3⟩, q4⟩, q5⟩ := q
  exact ⟨⟨⟨⟨hx q1, q2⟩, q3⟩, q4⟩, q5⟩
theorem Kept.set_ram {w : List Field} {s a : State} (x) (hw : Field.sub [.ram] w = true) (h : Kept w s a)
    (hx : Memory.wf 0#8 a.ram = true → Memory.wf 0#8 x = true) : Kept w s { a with ram := x } := by
  refine h.trans ⟨fun f hf => by cases f <;> first | rfl | exact absurd (Field.mem_of_sub hw) hf, fun q => ?_⟩
  simp only [State.wf, Bool.and_eq_true] at q ⊢
  obtain ⟨⟨⟨⟨q1, q2⟩, q3⟩, q4⟩, q5⟩ := q
  exact ⟨⟨⟨⟨q1, hx q2⟩, q3⟩, q4⟩, q5⟩
theorem Kept.set_hmem {w : List Field} {s a : State} (x) (hw : Field.sub [.hmem] w = true) (h : Kept w s a)
    (hx : Memory.wf 0#8 a.hmem = true → Memory.wf 0#8 x = true) : Kept w s { a with hmem := x } := by
  refine h.trans ⟨fun f hf => by cases f <;> first | rfl | exact absurd (Field.mem_of_sub hw) hf, fun q => ?_⟩
  simp only [State.wf, Bool.and_eq_true] at q ⊢
  obtain ⟨⟨⟨⟨q1, q2⟩, q3⟩, q4⟩, q5⟩ := q
  exact ⟨⟨⟨⟨q1, q2⟩, hx q3⟩, q4⟩, q5⟩
theorem Kept.set_flash {w : List Field} {s a : State} (x) (hw : Field.sub [.flash] w = true) (h : Kept w s a)
    (hx : Memory.wf 0xFF#8 a.flash = true → Memory.wf 0xFF#8 x = true) : Kept w s { a with flash := x } := by
  refine h.trans ⟨fun f hf => by cases f <;> first | rfl | exact absurd (Field.mem_of_sub hw) hf, fun q => ?_⟩
  simp only [State.wf, Bool.and_eq_true] at q ⊢
  obtain ⟨⟨⟨⟨q1, q2⟩, q3⟩, q4⟩, q5⟩ := q
  exact ⟨⟨⟨⟨q1, q2⟩, q3⟩, hx q4⟩, q5⟩
theorem Kept.set_weak {w : List Field} {s a : State} (x) (hw : Field.sub [.weak] w = true) (h : Kept w s a)
    (hx : Memory.wf 0#8 a.weak = true → Memory.wf 0#8 x = true) : Kept w s { a with weak := x } := by
  refine h.trans ⟨fun f hf => by cases f <;> first | rfl | exact absurd (Field.mem_of_sub hw) hf, fun q => ?_⟩
  simp only [State.wf, Bool.and_eq_true] at q ⊢
  obtain ⟨⟨⟨⟨q1, q2⟩, q3⟩, q4⟩, q5⟩ := q
  exact ⟨⟨⟨⟨q1, q2⟩, q3⟩, q4⟩, hx q5⟩

theorem Kept.ram_filter {w : List Field} {s a : State} (f) (hw : Field.sub [.ram] w = true) (h : Kept w s a) :
    Kept w s { a with ram := a.ram.filter f } := h.set_ram _ hw (tabWf_filter _ f _)
theorem Kept.ram_drop {w : List Field} {s a : State} (lo n) (hw : Field.sub [.ram] w = true) (h : Kept w s a) :
    Kept w s { a with ram := tabDropRange lo n a.ram } := h.set_ram _ hw (tabWf_tabDropRange _ lo n _)
theorem Kept.flash_drop {w : List Field} {s a : State} (lo n) (hf : Field.sub [.flash] w = true) (hw : Field.sub [.weak] w = true) (h : Kept w s a) :
    Kept w s { a with flash := tabDropRange lo n a.flash, weak := tabDropRange lo n a.weak } :=
  (h.set_flash _ hf (tabWf_tabDropRange _ lo n _)).set_weak _ hw (tabWf_tabDropRange _ lo n _)
theorem Kept.flash_put {w : List Field} {s a : State} (k) (xs ys) (hf : Field.sub [.flash] w = true) (hw : Field.sub [.weak] w = true) (h : Kept w s a) :
    Kept w s { a with flash := tabPutList 0xFF#8 a.flash k xs, weak := tabPutList 0#8 a.weak k ys } :=
  (h.set_flash _ hf (tabWf_tabPutList _ xs _ k)).set_weak _ hw (tabWf_tabPutList _ ys _ k)
theorem Kept.regs_filter {w : List Field} {s a : State} (f) (hw : Field.sub [.regs] w = true) (h : Kept w s a) :
    Kept w s { a with regs := a.regs.filter f } := h.set_regs _ hw (tabWf_filter _ f _)

theorem Kept.set_ram_hmem {w : List Field} {s a b : State} (hr : Field.sub [.ram] w = true) (hh : Field.sub [.hmem] w = true)
    (h : Kept w s a) (hwf : a.wf = true → b.wf = true) :
    Kept w s { a with hmem := b.hmem, ram := b.ram } := by
  refine h.trans ⟨fun f hf => by cases f <;> first | rfl | exact absurd (Field.mem_of_sub hr) hf | exact absurd (Field.mem_of_sub hh) hf, fun q => ?_⟩
  have r := hwf q
  simp only [State.wf, Bool.and_eq_true] at q r ⊢
  obtain ⟨⟨⟨⟨q1, _⟩, _⟩, q4⟩, q5⟩ := q
  exact ⟨⟨⟨⟨q1, r.1.1.1.2⟩, r.1.1.2⟩, q4⟩, q5⟩

end Sys2Proof.Machine
end

