-- ==== Sys2Proof/Laws/KDailiesOps.lean ====
section
/-!
SUPPORT. Laws/KDailiesOps.lean: what each operation of Machine/DailiesOps.lean may change, and that it keeps the canonical form.
-/
namespace Sys2Proof.Machine

theorem State.setRing_kept {ws : List Field} {s₀ s : State} (hs_ : Field.sub [.rings] ws = true) (d : Nat) (x : DRing)
    (kh_ : Kept ws s₀ s) : Kept ws s₀ (State.setRing s d x) := by
  unfold State.setRing
  repeat' with_reducible first
    | assumption
    | intro _
    | apply Kept.ite
    | apply Kept.foldl
    | split
    | extract_lets
    | apply Kept.set_rings _ hs_

theorem State.queueRec_kept {ws : List Field} {s₀ s : State} (hs_ : Field.sub [.rings] ws = true) (d : Nat) (r : DRec)
    (kh_ : Kept ws s₀ s) : Kept ws s₀ (State.queueRec s d r) := by
  unfold State.queueRec
  extract_lets -merge _
  repeat' with_reducible first
    | assumption
    | intro _
    | apply Kept.ite
    | apply State.setRing_kept hs_
    | apply Kept.foldl
    | split
    | extract_lets

theorem State.eventTo_kept {ws : List Field} {s₀ s : State} (hs_ : Field.sub [.rings] ws = true) (d code site blk data line : Nat)
    (kh_ : Kept ws s₀ s) : Kept ws s₀ (State.eventTo s d code site blk data line) := by
  unfold State.eventTo
  repeat' with_reducible first
    | assumption
    | intro _
    | apply Kept.ite
    | apply State.queueRec_kept hs_
    | apply Kept.foldl
    | split
    | extract_lets

theorem State.streamEvent_kept {ws : List Field} {s₀ s : State} (hs_ : Field.sub [.rings] ws = true) (d code site blk data line : Nat)
    (kh_ : Kept ws s₀ s) : Kept ws s₀ (State.streamEvent s d code site blk data line) := by
  unfold State.streamEvent
  repeat' with_reducible first
    | assumption
    | intro _
    | apply Kept.ite
    | apply State.eventTo_kept hs_
    | apply Kept.foldl
    | split
    | extract_lets

theorem State.lateLine_kept {ws : List Field} {s₀ s : State} (hs_ : Field.sub [.rings] ws = true) (a : Armed) (line : Nat)
    (kh_ : Kept ws s₀ s) : Kept ws s₀ (State.lateLine s a line) := by
  unfold State.lateLine
  repeat' with_reducible first
    | assumption
    | intro _
    | apply Kept.ite
    | apply State.streamEvent_kept hs_
    | apply Kept.foldl
    | split
    | extract_lets

end Sys2Proof.Machine
end

