-- ==== Sys2Proof/Laws/KOps.lean ====
section
/-!
SUPPORT. Laws/KOps.lean: what each operation of Machine/Ops.lean may change, and that it keeps the canonical form.
-/
namespace Sys2Proof.Machine

theorem State.setReg_kept {ws : List Field} {s₀ s : State} (hs_ : Field.sub [.regs] ws = true) (a : Nat) (v : Word) (h : Kept ws s₀ s) :
    Kept ws s₀ (s.setReg a v) := h.set_regs _ hs_ (tabWf_tabPut (regReset s.asm) s.regs a v)

theorem State.putFld_kept {ws : List Field} {s₀ s : State} (hs_ : Field.sub [.regs] ws = true) (a lo w x : Nat)
    (kh_ : Kept ws s₀ s) : Kept ws s₀ (State.putFld s a lo w x) := by
  unfold State.putFld
  repeat' with_reducible first
    | assumption
    | intro _
    | apply Kept.ite
    | apply State.setReg_kept hs_
    | apply Kept.foldl
    | split
    | extract_lets

theorem State.putBit_kept {ws : List Field} {s₀ s : State} (hs_ : Field.sub [.regs] ws = true) (a i : Nat) (b : Bool)
    (kh_ : Kept ws s₀ s) : Kept ws s₀ (State.putBit s a i b) := by
  unfold State.putBit
  repeat' with_reducible first
    | assumption
    | intro _
    | apply Kept.ite
    | apply State.setReg_kept hs_
    | apply Kept.foldl
    | split
    | extract_lets

theorem State.addSat_kept {ws : List Field} {s₀ s : State} (hs_ : Field.sub [.regs] ws = true) (a n : Nat)
    (kh_ : Kept ws s₀ s) : Kept ws s₀ (State.addSat s a n) := by
  unfold State.addSat
  repeat' with_reducible first
    | assumption
    | intro _
    | apply Kept.ite
    | apply State.setReg_kept hs_
    | apply Kept.foldl
    | split
    | extract_lets

theorem State.addWrap_kept {ws : List Field} {s₀ s : State} (hs_ : Field.sub [.regs] ws = true) (a n : Nat)
    (kh_ : Kept ws s₀ s) : Kept ws s₀ (State.addWrap s a n) := by
  unfold State.addWrap
  repeat' with_reducible first
    | assumption
    | intro _
    | apply Kept.ite
    | apply State.setReg_kept hs_
    | apply Kept.foldl
    | split
    | extract_lets

theorem State.setNat_kept {ws : List Field} {s₀ s : State} (hs_ : Field.sub [.regs] ws = true) (a n : Nat)
    (kh_ : Kept ws s₀ s) : Kept ws s₀ (State.setNat s a n) := by
  unfold State.setNat
  repeat' with_reducible first
    | assumption
    | intro _
    | apply Kept.ite
    | apply State.setReg_kept hs_
    | apply Kept.foldl
    | split
    | extract_lets

theorem State.setWide_kept {ws : List Field} {s₀ s : State} (hs_ : Field.sub [.regs] ws = true) (a n : Nat)
    (kh_ : Kept ws s₀ s) : Kept ws s₀ (State.setWide s a n) := by
  unfold State.setWide
  repeat' with_reducible first
    | assumption
    | intro _
    | apply Kept.ite
    | apply State.setNat_kept hs_
    | apply Kept.foldl
    | split
    | extract_lets

theorem State.emit_kept {ws : List Field} {s₀ s : State} (hs_ : Field.sub [.out] ws = true) (o : Output)
    (kh_ : Kept ws s₀ s) : Kept ws s₀ (State.emit s o) := by
  unfold State.emit
  repeat' with_reducible first
    | assumption
    | intro _
    | apply Kept.ite
    | apply Kept.foldl
    | split
    | extract_lets
    | apply Kept.set_out _ hs_

theorem State.draw_kept {ws : List Field} {s₀ s : State} (hs_ : Field.sub [.free] ws = true)
    (kh_ : Kept ws s₀ s) : Kept ws s₀ (State.draw s) := by
  unfold State.draw
  repeat' with_reducible first
    | assumption
    | intro _
    | apply Kept.ite
    | apply Kept.foldl
    | split
    | extract_lets
    | apply Kept.set_free _ hs_

theorem State.setBar2_kept {ws : List Field} {s₀ s : State} (hs_ : Field.sub [.bar2] ws = true) (k : Nat) (v : Word)
    (kh_ : Kept ws s₀ s) : Kept ws s₀ (State.setBar2 s k v) := by
  unfold State.setBar2
  repeat' with_reducible first
    | assumption
    | intro _
    | apply Kept.ite
    | apply Kept.foldl
    | split
    | extract_lets
    | apply Kept.set_bar2 _ hs_

theorem State.msix_kept {ws : List Field} {s₀ s : State} (hs_ : Field.sub [.bar2, .out] ws = true) (fn vec : Nat)
    (kh_ : Kept ws s₀ s) : Kept ws s₀ (State.msix s fn vec) := by
  have q0 := Field.sub_trans (by decide : Field.sub [.bar2] [.bar2, .out] = true) hs_
  have q1 := Field.sub_trans (by decide : Field.sub [.out] [.bar2, .out] = true) hs_
  unfold State.msix
  extract_lets -merge pba
  clear_value pba
  repeat' with_reducible first
    | assumption
    | intro _
    | apply Kept.ite
    | apply State.setBar2_kept q0
    | apply State.emit_kept q1
    | apply Kept.foldl
    | split
    | extract_lets

theorem State.bar2Write_kept {ws : List Field} {s₀ s : State} (hs_ : Field.sub [.bar2, .out] ws = true) (fn off : Nat) (val : Word)
    (kh_ : Kept ws s₀ s) : Kept ws s₀ (State.bar2Write s fn off val) := by
  have q0 := Field.sub_trans (by decide : Field.sub [.bar2] [.bar2, .out] = true) hs_
  have q1 := Field.sub_trans (by decide : Field.sub [.out] [.bar2, .out] = true) hs_
  unfold State.bar2Write
  extract_lets -merge k vec pba s1
  clear_value k vec pba
  have k_s1 : Kept ws s₀ s1 := by
    unfold s1
    repeat' with_reducible first
      | assumption
      | intro _
      | apply Kept.ite
      | apply State.setBar2_kept q0
      | apply State.emit_kept q1
      | apply Kept.foldl
      | split
      | extract_lets
  clear_value s1
  repeat' with_reducible first
    | assumption
    | intro _
    | apply Kept.ite
    | apply State.setBar2_kept q0
    | apply State.emit_kept q1
    | apply Kept.foldl
    | split
    | extract_lets

theorem State.bar2Clear_kept {ws : List Field} {s₀ s : State} (hs_ : Field.sub [.bar2] ws = true) (fn : Nat)
    (kh_ : Kept ws s₀ s) : Kept ws s₀ (State.bar2Clear s fn) := by
  unfold State.bar2Clear
  repeat' with_reducible first
    | assumption
    | intro _
    | apply Kept.ite
    | apply Kept.foldl
    | split
    | extract_lets
    | apply Kept.set_bar2 _ hs_

theorem State.signal_kept {ws : List Field} {s₀ s : State} (hs_ : Field.sub [.bar2, .out] ws = true) (before : Word) (p : Nat)
    (kh_ : Kept ws s₀ s) : Kept ws s₀ (State.signal s before p) := by
  unfold State.signal
  repeat' with_reducible first
    | assumption
    | intro _
    | apply Kept.ite
    | apply State.msix_kept hs_
    | apply Kept.foldl
    | split
    | extract_lets

theorem State.showPend_kept {ws : List Field} {s₀ s : State} (hs_ : Field.sub [.regs] ws = true) (p : Nat)
    (kh_ : Kept ws s₀ s) : Kept ws s₀ (State.showPend s p) := by
  unfold State.showPend
  extract_lets -merge s1
  have k_s1 : Kept ws s₀ s1 := by
    unfold s1
    repeat' with_reducible first
      | assumption
      | intro _
      | apply Kept.ite
      | apply State.putBit_kept hs_
      | apply State.setReg_kept hs_
      | apply Kept.foldl
      | split
      | extract_lets
  clear_value s1
  repeat' with_reducible first
    | assumption
    | intro _
    | apply Kept.ite
    | apply State.putBit_kept hs_
    | apply State.setReg_kept hs_
    | apply Kept.foldl
    | split
    | extract_lets

theorem State.evt_kept {ws : List Field} {s₀ s : State} (hs_ : Field.sub [.regs, .bar2, .out] ws = true) (p bit : Nat)
    (kh_ : Kept ws s₀ s) : Kept ws s₀ (State.evt s p bit) := by
  have q0 := Field.sub_trans (by decide : Field.sub [.regs] [.regs, .bar2, .out] = true) hs_
  have q1 := Field.sub_trans (by decide : Field.sub [.bar2, .out] [.regs, .bar2, .out] = true) hs_
  unfold State.evt
  repeat' with_reducible first
    | assumption
    | intro _
    | apply Kept.ite
    | apply State.showPend_kept q0
    | apply State.signal_kept q1
    | apply State.putBit_kept q0
    | apply Kept.foldl
    | split
    | extract_lets

theorem State.evtIf_kept {ws : List Field} {s₀ s : State} (hs_ : Field.sub [.regs, .bar2, .out] ws = true) (c : Bool) (p bit : Nat)
    (kh_ : Kept ws s₀ s) : Kept ws s₀ (State.evtIf s c p bit) := by
  unfold State.evtIf
  repeat' with_reducible first
    | assumption
    | intro _
    | apply Kept.ite
    | apply State.evt_kept hs_
    | apply Kept.foldl
    | split
    | extract_lets

theorem State.reject_kept {ws : List Field} {s₀ s : State} (hs_ : Field.sub [.regs, .bar2, .out] ws = true) (req p off reason : Nat)
    (kh_ : Kept ws s₀ s) : Kept ws s₀ (State.reject s req p off reason) := by
  have q0 := Field.sub_trans (by decide : Field.sub [.regs] [.regs, .bar2, .out] = true) hs_
  unfold State.reject
  repeat' with_reducible first
    | assumption
    | intro _
    | apply Kept.ite
    | apply State.evt_kept hs_
    | apply State.setNat_kept q0
    | apply Kept.foldl
    | split
    | extract_lets

theorem State.absent_kept {ws : List Field} {s₀ s : State} (hs_ : Field.sub [.regs, .bar2, .out] ws = true) (addr : Nat)
    (kh_ : Kept ws s₀ s) : Kept ws s₀ (State.absent s addr) := by
  have q0 := Field.sub_trans (by decide : Field.sub [.regs] [.regs, .bar2, .out] = true) hs_
  unfold State.absent
  repeat' with_reducible first
    | assumption
    | intro _
    | apply Kept.ite
    | apply State.evt_kept hs_
    | apply State.setNat_kept q0
    | apply Kept.foldl
    | split
    | extract_lets

theorem State.setSt_kept {ws : List Field} {s₀ s : State} (hs_ : Field.sub [.regs, .bar2, .out] ws = true) (p x : Nat)
    (kh_ : Kept ws s₀ s) : Kept ws s₀ (State.setSt s p x) := by
  have q0 := Field.sub_trans (by decide : Field.sub [.regs] [.regs, .bar2, .out] = true) hs_
  unfold State.setSt
  repeat' with_reducible first
    | assumption
    | intro _
    | apply Kept.ite
    | apply State.evt_kept hs_
    | apply State.putFld_kept q0
    | apply Kept.foldl
    | split
    | extract_lets

theorem State.faultRec_kept {ws : List Field} {s₀ s : State} (hs_ : Field.sub [.regs] ws = true) (p code cls : Nat)
    (kh_ : Kept ws s₀ s) : Kept ws s₀ (State.faultRec s p code cls) := by
  unfold State.faultRec
  repeat' with_reducible first
    | assumption
    | intro _
    | apply Kept.ite
    | apply State.setNat_kept hs_
    | apply State.putBit_kept hs_
    | apply Kept.foldl
    | split
    | extract_lets

theorem State.toFault_kept {ws : List Field} {s₀ s : State} (hs_ : Field.sub [.regs, .bar2, .out] ws = true) (p code cls : Nat)
    (kh_ : Kept ws s₀ s) : Kept ws s₀ (State.toFault s p code cls) := by
  have q0 := Field.sub_trans (by decide : Field.sub [.regs] [.regs, .bar2, .out] = true) hs_
  unfold State.toFault
  repeat' with_reducible first
    | assumption
    | intro _
    | apply Kept.ite
    | apply State.faultRec_kept q0
    | apply State.setSt_kept hs_
    | apply State.evt_kept hs_
    | apply State.putBit_kept q0
    | apply Kept.foldl
    | split
    | extract_lets

theorem State.blockFault_kept {ws : List Field} {s₀ s : State} (hs_ : Field.sub [.regs, .bar2, .out] ws = true) (p code cls : Nat)
    (kh_ : Kept ws s₀ s) : Kept ws s₀ (State.blockFault s p code cls) := by
  have q0 := Field.sub_trans (by decide : Field.sub [.regs] [.regs, .bar2, .out] = true) hs_
  unfold State.blockFault
  repeat' with_reducible first
    | assumption
    | intro _
    | apply Kept.ite
    | apply State.toFault_kept hs_
    | apply State.faultRec_kept q0
    | apply Kept.foldl
    | split
    | extract_lets

theorem State.halt_kept {ws : List Field} {s₀ s : State} (hs_ : Field.sub [.regs, .back, .bar2, .out] ws = true) (p : Nat)
    (kh_ : Kept ws s₀ s) : Kept ws s₀ (State.halt s p) := by
  have q0 := Field.sub_trans (by decide : Field.sub [.regs, .bar2, .out] [.regs, .back, .bar2, .out] = true) hs_
  have q1 := Field.sub_trans (by decide : Field.sub [.back] [.regs, .back, .bar2, .out] = true) hs_
  unfold State.halt
  extract_lets -merge _
  repeat' with_reducible first
    | assumption
    | intro _
    | apply Kept.ite
    | apply State.setSt_kept q0
    | apply Kept.foldl
    | split
    | extract_lets
    | apply Kept.set_back _ q1

theorem State.unhalt_kept {ws : List Field} {s₀ s : State} (hs_ : Field.sub [.regs, .back, .bar2, .out] ws = true) (p : Nat)
    (kh_ : Kept ws s₀ s) : Kept ws s₀ (State.unhalt s p) := by
  have q0 := Field.sub_trans (by decide : Field.sub [.regs, .bar2, .out] [.regs, .back, .bar2, .out] = true) hs_
  have q1 := Field.sub_trans (by decide : Field.sub [.back] [.regs, .back, .bar2, .out] = true) hs_
  unfold State.unhalt
  extract_lets -merge _
  repeat' with_reducible first
    | assumption
    | intro _
    | apply Kept.ite
    | apply State.setSt_kept q0
    | apply Kept.foldl
    | split
    | extract_lets
    | apply Kept.set_back _ q1

theorem State.lock_kept {ws : List Field} {s₀ s : State} (hs_ : Field.sub [.regs, .bar2, .out] ws = true) (p : Nat) (safety : Bool)
    (kh_ : Kept ws s₀ s) : Kept ws s₀ (State.lock s p safety) := by
  have q0 := Field.sub_trans (by decide : Field.sub [.regs] [.regs, .bar2, .out] = true) hs_
  unfold State.lock
  repeat' with_reducible first
    | assumption
    | intro _
    | apply Kept.ite
    | apply State.setSt_kept hs_
    | apply State.putBit_kept q0
    | apply Kept.foldl
    | split
    | extract_lets

theorem State.unlock_kept {ws : List Field} {s₀ s : State} (hs_ : Field.sub [.regs, .bar2, .out] ws = true) (p : Nat) (safety : Bool)
    (kh_ : Kept ws s₀ s) : Kept ws s₀ (State.unlock s p safety) := by
  have q0 := Field.sub_trans (by decide : Field.sub [.regs] [.regs, .bar2, .out] = true) hs_
  unfold State.unlock
  extract_lets -merge s1
  have k_s1 : Kept ws s₀ s1 := by
    unfold s1
    repeat' with_reducible first
      | assumption
      | intro _
      | apply Kept.ite
      | apply State.setSt_kept hs_
      | apply State.putBit_kept q0
      | apply Kept.foldl
      | split
      | extract_lets
  clear_value s1
  repeat' with_reducible first
    | assumption
    | intro _
    | apply Kept.ite
    | apply State.setSt_kept hs_
    | apply State.putBit_kept q0
    | apply Kept.foldl
    | split
    | extract_lets

theorem State.gateWrite_kept {ws : List Field} {s₀ s : State} (hs_ : Field.sub [.regs, .bar2, .out] ws = true) (req site blk off : Nat)
    (kh_ : Kept ws s₀ s) : KeptO ws s₀ (State.gateWrite s req site blk off) := by
  unfold State.gateWrite
  repeat' with_reducible first
    | assumption
    | intro _
    | apply KeptO.ite
    | apply KeptO.some
    | exact KeptO.none
    | apply Kept.ite
    | apply State.absent_kept hs_
    | apply State.reject_kept hs_
    | apply Kept.foldl
    | split
    | extract_lets

theorem State.asWrite_kept {ws : List Field} {s₀ s : State} (hs_ : Field.sub [.regs, .bar2, .out] ws = true) (ty req site blk off : Nat) (k : State → State) (h_k : ∀ t0, Kept ws s₀ t0 → Kept ws s₀ (k t0))
    (kh_ : Kept ws s₀ s) : Kept ws s₀ (State.asWrite s ty req site blk off k) := by
  unfold State.asWrite
  repeat' with_reducible first
    | assumption
    | intro _
    | apply h_k
    | apply Kept.ite
    | apply State.gateWrite_kept hs_
    | refine KeptO.of (State.gateWrite_kept hs_ _ _ _ _ ?_) ‹_›
    | apply Kept.foldl
    | split
    | extract_lets

theorem State.setPos_kept {ws : List Field} {s₀ s : State} (hs_ : Field.sub [.poss] ws = true) (site g : Nat) (x : Pos)
    (kh_ : Kept ws s₀ s) : Kept ws s₀ (State.setPos s site g x) := by
  unfold State.setPos
  repeat' with_reducible first
    | assumption
    | intro _
    | apply Kept.ite
    | apply Kept.foldl
    | split
    | extract_lets
    | apply Kept.set_poss _ hs_

end Sys2Proof.Machine
end

