-- ==== Sys2Proof/Laws/KEncoder.lean ====
section
/-!
SUPPORT. Laws/KEncoder.lean: what each operation of Machine/Encoder.lean may change, and that it keeps the canonical form.
-/
namespace Sys2Proof.Machine

theorem State.setEnc_kept {ws : List Field} {s₀ s : State} (hs_ : Field.sub [.encs] ws = true) (site e : Nat) (x : Enc)
    (kh_ : Kept ws s₀ s) : Kept ws s₀ (State.setEnc s site e x) := by
  unfold State.setEnc
  repeat' with_reducible first
    | assumption
    | intro _
    | apply Kept.ite
    | apply Kept.foldl
    | split
    | extract_lets
    | apply Kept.set_encs _ hs_

theorem State.setUnc_kept {ws : List Field} {s₀ s : State} (hs_ : Field.sub [.regs] ws = true) (site e u : Nat)
    (kh_ : Kept ws s₀ s) : Kept ws s₀ (State.setUnc s site e u) := by
  unfold State.setUnc
  repeat' with_reducible first
    | assumption
    | intro _
    | apply Kept.ite
    | apply State.setNat_kept hs_
    | apply Kept.foldl
    | split
    | extract_lets

theorem State.widenUnc_kept {ws : List Field} {s₀ s : State} (hs_ : Field.sub [.regs] ws = true) (site e : Nat)
    (kh_ : Kept ws s₀ s) : Kept ws s₀ (State.widenUnc s site e) := by
  unfold State.widenUnc
  extract_lets -merge u
  clear_value u
  repeat' with_reducible first
    | assumption
    | intro _
    | apply Kept.ite
    | apply State.setUnc_kept hs_
    | apply Kept.foldl
    | split
    | extract_lets

theorem State.encFault_kept {ws : List Field} {s₀ s : State} (hs_ : Field.sub [.regs, .bar2, .out] ws = true) (site e code : Nat)
    (kh_ : Kept ws s₀ s) : Kept ws s₀ (State.encFault s site e code) := by
  have q0 := Field.sub_trans (by decide : Field.sub [.regs] [.regs, .bar2, .out] = true) hs_
  unfold State.encFault
  extract_lets -merge p s1
  clear_value p
  have k_s1 : Kept ws s₀ s1 := by
    unfold s1
    repeat' with_reducible first
      | assumption
      | intro _
      | apply Kept.ite
      | apply State.toFault_kept hs_
      | apply State.faultRec_kept q0
      | apply State.evt_kept hs_
      | apply State.setUnc_kept q0
      | apply Kept.foldl
      | split
      | extract_lets
  clear_value s1
  repeat' with_reducible first
    | assumption
    | intro _
    | apply Kept.ite
    | apply State.toFault_kept hs_
    | apply State.faultRec_kept q0
    | apply State.evt_kept hs_
    | apply State.setUnc_kept q0
    | apply Kept.foldl
    | split
    | extract_lets

theorem State.encErr_kept {ws : List Field} {s₀ s : State} (hs_ : Field.sub [.regs, .bar2, .out, .encs] ws = true) (site e : Nat)
    (kh_ : Kept ws s₀ s) : Kept ws s₀ (State.encErr s site e) := by
  have q0 := Field.sub_trans (by decide : Field.sub [.regs, .bar2, .out] [.regs, .bar2, .out, .encs] = true) hs_
  have q1 := Field.sub_trans (by decide : Field.sub [.encs] [.regs, .bar2, .out, .encs] = true) hs_
  unfold State.encErr
  extract_lets -merge x errs s1
  clear_value x errs
  have k_s1 : Kept ws s₀ s1 := by
    unfold s1
    repeat' with_reducible first
      | assumption
      | intro _
      | apply Kept.ite
      | apply State.encFault_kept q0
      | apply State.setEnc_kept q1
      | apply Kept.foldl
      | split
      | extract_lets
  clear_value s1
  repeat' with_reducible first
    | assumption
    | intro _
    | apply Kept.ite
    | apply State.encFault_kept q0
    | apply State.setEnc_kept q1
    | apply Kept.foldl
    | split
    | extract_lets

theorem State.trackPos_kept {ws : List Field} {s₀ s : State} (hs_ : Field.sub [.poss] ws = true) (site e : Nat)
    (kh_ : Kept ws s₀ s) : Kept ws s₀ (State.trackPos s site e) := by
  unfold State.trackPos
  repeat' with_reducible first
    | assumption
    | intro _
    | apply Kept.ite
    | apply State.setPos_kept hs_
    | apply Kept.foldl
    | split
    | extract_lets

theorem State.encEdgeDo_kept {ws : List Field} {s₀ s : State} (hs_ : Field.sub [.regs, .bar2, .out, .encs, .poss] ws = true) (site e : Nat) (lineB : Bool)
    (kh_ : Kept ws s₀ s) : Kept ws s₀ (State.encEdgeDo s site e lineB) := by
  have q0 := Field.sub_trans (by decide : Field.sub [.regs, .bar2, .out] [.regs, .bar2, .out, .encs, .poss] = true) hs_
  have q1 := Field.sub_trans (by decide : Field.sub [.poss] [.regs, .bar2, .out, .encs, .poss] = true) hs_
  have q2 := Field.sub_trans (by decide : Field.sub [.regs, .bar2, .out, .encs] [.regs, .bar2, .out, .encs, .poss] = true) hs_
  have q3 := Field.sub_trans (by decide : Field.sub [.regs] [.regs, .bar2, .out, .encs, .poss] = true) hs_
  have q4 := Field.sub_trans (by decide : Field.sub [.encs] [.regs, .bar2, .out, .encs, .poss] = true) hs_
  unfold State.encEdgeDo
  extract_lets -merge p s0 x fast y s1 s2 s3
  clear_value p x fast y
  have k_s0 : Kept ws s₀ s0 := by
    unfold s0
    repeat' with_reducible first
      | assumption
      | intro _
      | apply Kept.ite
      | apply State.evtIf_kept q0
      | apply State.evt_kept q0
      | apply State.trackPos_kept q1
      | apply State.encErr_kept q2
      | apply State.widenUnc_kept q3
      | apply State.setNat_kept q3
      | apply State.setEnc_kept q4
      | apply Kept.foldl
      | split
      | extract_lets
  clear_value s0
  have k_s1 : Kept ws s₀ s1 := by
    unfold s1
    repeat' with_reducible first
      | assumption
      | intro _
      | apply Kept.ite
      | apply State.evtIf_kept q0
      | apply State.evt_kept q0
      | apply State.trackPos_kept q1
      | apply State.encErr_kept q2
      | apply State.widenUnc_kept q3
      | apply State.setNat_kept q3
      | apply State.setEnc_kept q4
      | apply Kept.foldl
      | split
      | extract_lets
  clear_value s1
  have k_s2 : Kept ws s₀ s2 := by
    unfold s2
    repeat' with_reducible first
      | assumption
      | intro _
      | apply Kept.ite
      | apply State.evtIf_kept q0
      | apply State.evt_kept q0
      | apply State.trackPos_kept q1
      | apply State.encErr_kept q2
      | apply State.widenUnc_kept q3
      | apply State.setNat_kept q3
      | apply State.setEnc_kept q4
      | apply Kept.foldl
      | split
      | extract_lets
  clear_value s2
  have k_s3 : Kept ws s₀ s3 := by
    unfold s3
    repeat' with_reducible first
      | assumption
      | intro _
      | apply Kept.ite
      | apply State.evtIf_kept q0
      | apply State.evt_kept q0
      | apply State.trackPos_kept q1
      | apply State.encErr_kept q2
      | apply State.widenUnc_kept q3
      | apply State.setNat_kept q3
      | apply State.setEnc_kept q4
      | apply Kept.foldl
      | split
      | extract_lets
  clear_value s3
  repeat' with_reducible first
    | assumption
    | intro _
    | apply Kept.ite
    | apply State.evtIf_kept q0
    | apply State.evt_kept q0
    | apply State.trackPos_kept q1
    | apply State.encErr_kept q2
    | apply State.widenUnc_kept q3
    | apply State.setNat_kept q3
    | apply State.setEnc_kept q4
    | apply Kept.foldl
    | split
    | extract_lets

theorem execEncoderEdge_kept {ws : List Field} {s₀ s : State} (hs_ : Field.sub [.regs, .bar2, .out, .encs, .poss] ws = true) (site e : Nat) (lineB : Bool)
    (kh_ : Kept ws s₀ s) : Kept ws s₀ (after s (execEncoderEdge site e lineB s)) := by
  unfold execEncoderEdge
  repeat' with_reducible first
    | assumption
    | intro _
    | apply Kept.after_next
    | apply Kept.ite
    | apply State.encEdgeDo_kept hs_
    | apply Kept.foldl
    | split
    | extract_lets

theorem State.qerrDo_kept {ws : List Field} {s₀ s : State} (hs_ : Field.sub [.regs, .bar2, .out, .encs] ws = true) (site e : Nat)
    (kh_ : Kept ws s₀ s) : Kept ws s₀ (State.qerrDo s site e) := by
  have q0 := Field.sub_trans (by decide : Field.sub [.regs, .bar2, .out] [.regs, .bar2, .out, .encs] = true) hs_
  have q1 := Field.sub_trans (by decide : Field.sub [.regs] [.regs, .bar2, .out, .encs] = true) hs_
  have q2 := Field.sub_trans (by decide : Field.sub [.encs] [.regs, .bar2, .out, .encs] = true) hs_
  unfold State.qerrDo
  extract_lets -merge p x s1 s2
  clear_value p x
  have k_s1 : Kept ws s₀ s1 := by
    unfold s1
    repeat' with_reducible first
      | assumption
      | intro _
      | apply Kept.ite
      | apply State.evt_kept q0
      | apply State.encErr_kept hs_
      | apply State.widenUnc_kept q1
      | apply State.setNat_kept q1
      | apply State.setEnc_kept q2
      | apply Kept.foldl
      | split
      | extract_lets
  clear_value s1
  have k_s2 : Kept ws s₀ s2 := by
    unfold s2
    repeat' with_reducible first
      | assumption
      | intro _
      | apply Kept.ite
      | apply State.evt_kept q0
      | apply State.encErr_kept hs_
      | apply State.widenUnc_kept q1
      | apply State.setNat_kept q1
      | apply State.setEnc_kept q2
      | apply Kept.foldl
      | split
      | extract_lets
  clear_value s2
  repeat' with_reducible first
    | assumption
    | intro _
    | apply Kept.ite
    | apply State.evt_kept q0
    | apply State.encErr_kept hs_
    | apply State.widenUnc_kept q1
    | apply State.setNat_kept q1
    | apply State.setEnc_kept q2
    | apply Kept.foldl
    | split
    | extract_lets

theorem execQerr_kept {ws : List Field} {s₀ s : State} (hs_ : Field.sub [.regs, .bar2, .out, .encs] ws = true) (site e : Nat)
    (kh_ : Kept ws s₀ s) : Kept ws s₀ (after s (execQerr site e s)) := by
  unfold execQerr
  repeat' with_reducible first
    | assumption
    | intro _
    | apply Kept.after_next
    | apply Kept.ite
    | apply State.qerrDo_kept hs_
    | apply Kept.foldl
    | split
    | extract_lets

theorem execEncLineBroken_kept {ws : List Field} {s₀ s : State} (hs_ : Field.sub [.regs, .bar2, .out] ws = true) (site e : Nat) (pair : EncPair)
    (kh_ : Kept ws s₀ s) : Kept ws s₀ (after s (execEncLineBroken site e pair s)) := by
  unfold execEncLineBroken
  repeat' with_reducible first
    | assumption
    | intro _
    | apply Kept.after_next
    | apply Kept.ite
    | apply State.evt_kept hs_
    | apply State.encFault_kept hs_
    | apply Kept.foldl
    | split
    | extract_lets

theorem State.indexDo_kept {ws : List Field} {s₀ s : State} (hs_ : Field.sub [.regs, .bar2, .out, .encs] ws = true) (site e : Nat)
    (kh_ : Kept ws s₀ s) : Kept ws s₀ (State.indexDo s site e) := by
  have q0 := Field.sub_trans (by decide : Field.sub [.regs, .bar2, .out] [.regs, .bar2, .out, .encs] = true) hs_
  have q1 := Field.sub_trans (by decide : Field.sub [.regs] [.regs, .bar2, .out, .encs] = true) hs_
  have q2 := Field.sub_trans (by decide : Field.sub [.encs] [.regs, .bar2, .out, .encs] = true) hs_
  unfold State.indexDo
  extract_lets -merge p x cpr unc s1
  clear_value p x cpr unc
  have k_s1 : Kept ws s₀ s1 := by
    unfold s1
    repeat' with_reducible first
      | assumption
      | intro _
      | apply Kept.ite
      | apply State.evt_kept q0
      | apply State.setUnc_kept q1
      | apply State.setEnc_kept q2
      | apply State.setReg_kept q1
      | apply Kept.foldl
      | split
      | extract_lets
  clear_value s1
  repeat' with_reducible first
    | assumption
    | intro _
    | apply Kept.ite
    | apply State.evt_kept q0
    | apply State.setUnc_kept q1
    | apply State.setEnc_kept q2
    | apply State.setReg_kept q1
    | apply Kept.foldl
    | split
    | extract_lets

theorem execIndex_kept {ws : List Field} {s₀ s : State} (hs_ : Field.sub [.regs, .bar2, .out, .encs] ws = true) (site e : Nat) (rising : Bool)
    (kh_ : Kept ws s₀ s) : Kept ws s₀ (after s (execIndex site e rising s)) := by
  have q0 := Field.sub_trans (by decide : Field.sub [.encs] [.regs, .bar2, .out, .encs] = true) hs_
  unfold execIndex
  extract_lets -merge p _ s1
  clear_value p
  have k_s1 : Kept ws s₀ s1 := by
    unfold s1
    repeat' with_reducible first
      | assumption
      | intro _
      | apply Kept.after_next
      | apply Kept.ite
      | apply State.indexDo_kept hs_
      | apply State.setEnc_kept q0
      | apply Kept.foldl
      | split
      | extract_lets
  clear_value s1
  repeat' with_reducible first
    | assumption
    | intro _
    | apply Kept.after_next
    | apply Kept.ite
    | apply State.indexDo_kept hs_
    | apply State.setEnc_kept q0
    | apply Kept.foldl
    | split
    | extract_lets

theorem execPeriodNoMotion_kept {ws : List Field} {s₀ s : State} (hs_ : Field.sub [.regs] ws = true) (site e : Nat)
    (kh_ : Kept ws s₀ s) : Kept ws s₀ (after s (execPeriodNoMotion site e s)) := by
  unfold execPeriodNoMotion
  repeat' with_reducible first
    | assumption
    | intro _
    | apply Kept.after_next
    | apply Kept.ite
    | apply State.setNat_kept hs_
    | apply Kept.foldl
    | split
    | extract_lets

theorem State.uncClr_kept {ws : List Field} {s₀ s : State} (hs_ : Field.sub [.regs, .bar2, .out] ws = true) (req site e : Nat)
    (kh_ : Kept ws s₀ s) : Kept ws s₀ (State.uncClr s req site e) := by
  have q0 := Field.sub_trans (by decide : Field.sub [.regs] [.regs, .bar2, .out] = true) hs_
  unfold State.uncClr
  repeat' with_reducible first
    | assumption
    | intro _
    | apply Kept.ite
    | apply State.reject_kept hs_
    | apply State.setUnc_kept q0
    | apply Kept.foldl
    | split
    | extract_lets

end Sys2Proof.Machine
end

