-- ==== Sys2Proof/Laws/KMeterOps.lean ====
section
/-!
SUPPORT. Laws/KMeterOps.lean: what each operation of Machine/MeterOps.lean may change, and that it keeps the canonical form.
-/
namespace Sys2Proof.Machine

theorem State.setMeter_kept {ws : List Field} {s₀ s : State} (hs_ : Field.sub [.meters] ws = true) (site m : Nat) (x : Meter)
    (kh_ : Kept ws s₀ s) : Kept ws s₀ (State.setMeter s site m x) := by
  unfold State.setMeter
  repeat' with_reducible first
    | assumption
    | intro _
    | apply Kept.ite
    | apply Kept.foldl
    | split
    | extract_lets
    | apply Kept.set_meters _ hs_

theorem State.setCalib_kept {ws : List Field} {s₀ s : State} (hs_ : Field.sub [.calibs] ws = true) (site : Nat) (x : Calib)
    (kh_ : Kept ws s₀ s) : Kept ws s₀ (State.setCalib s site x) := by
  unfold State.setCalib
  repeat' with_reducible first
    | assumption
    | intro _
    | apply Kept.ite
    | apply Kept.foldl
    | split
    | extract_lets
    | apply Kept.set_calibs _ hs_

theorem State.setCalWord_kept {ws : List Field} {s₀ s : State} (hs_ : Field.sub [.calibs] ws = true) (site ch w : Nat) (v : Word)
    (kh_ : Kept ws s₀ s) : Kept ws s₀ (State.setCalWord s site ch w v) := by
  unfold State.setCalWord
  extract_lets -merge c
  clear_value c
  repeat' with_reducible first
    | assumption
    | intro _
    | apply Kept.ite
    | apply State.setCalib_kept hs_
    | apply Kept.foldl
    | split
    | extract_lets

theorem State.setCmp_kept {ws : List Field} {s₀ s : State} (hs_ : Field.sub [.regs, .bar2, .out] ws = true) (site m : Nat) (asserted known : Bool)
    (kh_ : Kept ws s₀ s) : Kept ws s₀ (State.setCmp s site m asserted known) := by
  have q0 := Field.sub_trans (by decide : Field.sub [.regs] [.regs, .bar2, .out] = true) hs_
  unfold State.setCmp
  extract_lets -merge p s1
  clear_value p
  have k_s1 : Kept ws s₀ s1 := by
    unfold s1
    repeat' with_reducible first
      | assumption
      | intro _
      | apply Kept.ite
      | apply State.evtIf_kept hs_
      | apply State.putBit_kept q0
      | apply Kept.foldl
      | split
      | extract_lets
  clear_value s1
  repeat' with_reducible first
    | assumption
    | intro _
    | apply Kept.ite
    | apply State.evtIf_kept hs_
    | apply State.putBit_kept q0
    | apply Kept.foldl
    | split
    | extract_lets

theorem State.setVstate_kept {ws : List Field} {s₀ s : State} (hs_ : Field.sub [.regs, .bar2, .out, .meters] ws = true) (site m vs : Nat)
    (kh_ : Kept ws s₀ s) : Kept ws s₀ (State.setVstate s site m vs) := by
  have q0 := Field.sub_trans (by decide : Field.sub [.regs, .bar2, .out] [.regs, .bar2, .out, .meters] = true) hs_
  have q1 := Field.sub_trans (by decide : Field.sub [.regs] [.regs, .bar2, .out, .meters] = true) hs_
  have q2 := Field.sub_trans (by decide : Field.sub [.meters] [.regs, .bar2, .out, .meters] = true) hs_
  unfold State.setVstate
  extract_lets -merge p old s1 _
  clear_value p old
  have k_s1 : Kept ws s₀ s1 := by
    unfold s1
    repeat' with_reducible first
      | assumption
      | intro _
      | apply Kept.ite
      | apply State.setCmp_kept q0
      | apply State.evtIf_kept q0
      | apply State.putFld_kept q1
      | apply State.setMeter_kept q2
      | apply Kept.foldl
      | split
      | extract_lets
  clear_value s1
  repeat' with_reducible first
    | assumption
    | intro _
    | apply Kept.ite
    | apply State.setCmp_kept q0
    | apply State.evtIf_kept q0
    | apply State.putFld_kept q1
    | apply State.setMeter_kept q2
    | apply Kept.foldl
    | split
    | extract_lets

theorem State.setCause_kept {ws : List Field} {s₀ s : State} (hs_ : Field.sub [.regs] ws = true) (site m bit : Nat) (on : Bool)
    (kh_ : Kept ws s₀ s) : Kept ws s₀ (State.setCause s site m bit on) := by
  unfold State.setCause
  repeat' with_reducible first
    | assumption
    | intro _
    | apply Kept.ite
    | apply State.putBit_kept hs_
    | apply Kept.foldl
    | split
    | extract_lets

theorem State.rangeChange_kept {ws : List Field} {s₀ s : State} (hs_ : Field.sub [.regs, .bar2, .out, .meters] ws = true) (site m idx dur : Nat)
    (kh_ : Kept ws s₀ s) : Kept ws s₀ (State.rangeChange s site m idx dur) := by
  have q0 := Field.sub_trans (by decide : Field.sub [.regs, .bar2, .out] [.regs, .bar2, .out, .meters] = true) hs_
  have q1 := Field.sub_trans (by decide : Field.sub [.regs] [.regs, .bar2, .out, .meters] = true) hs_
  have q2 := Field.sub_trans (by decide : Field.sub [.meters] [.regs, .bar2, .out, .meters] = true) hs_
  unfold State.rangeChange
  extract_lets -merge p k till s1
  clear_value p k till
  have k_s1 : Kept ws s₀ s1 := by
    unfold s1
    repeat' with_reducible first
      | assumption
      | intro _
      | apply Kept.ite
      | apply State.evt_kept q0
      | apply State.putFld_kept q1
      | apply State.setMeter_kept q2
      | apply Kept.foldl
      | split
      | extract_lets
  clear_value s1
  repeat' with_reducible first
    | assumption
    | intro _
    | apply Kept.ite
    | apply State.evt_kept q0
    | apply State.putFld_kept q1
    | apply State.setMeter_kept q2
    | apply Kept.foldl
    | split
    | extract_lets

theorem State.cmpValue_kept {ws : List Field} {s₀ s : State} (hs_ : Field.sub [.regs, .bar2, .out, .meters] ws = true) (site m : Nat) (v : Word)
    (kh_ : Kept ws s₀ s) : Kept ws s₀ (State.cmpValue s site m v) := by
  have q0 := Field.sub_trans (by decide : Field.sub [.regs, .bar2, .out] [.regs, .bar2, .out, .meters] = true) hs_
  have q1 := Field.sub_trans (by decide : Field.sub [.meters] [.regs, .bar2, .out, .meters] = true) hs_
  unfold State.cmpValue
  extract_lets -merge p set clr high unsafe_ beyond k s1
  clear_value p set clr high unsafe_ beyond k
  have k_s1 : Kept ws s₀ s1 := by
    unfold s1
    repeat' with_reducible first
      | assumption
      | intro _
      | apply Kept.ite
      | apply State.setCmp_kept q0
      | apply State.setMeter_kept q1
      | apply Kept.foldl
      | split
      | extract_lets
  clear_value s1
  repeat' with_reducible first
    | assumption
    | intro _
    | apply Kept.ite
    | apply State.setCmp_kept q0
    | apply State.setMeter_kept q1
    | apply Kept.foldl
    | split
    | extract_lets

theorem State.shadeDue_kept {ws : List Field} {s₀ s : State} (hs_ : Field.sub [.regs, .bar2, .out] ws = true) (site m : Nat) (v : Word)
    (kh_ : Kept ws s₀ s) : Kept ws s₀ (State.shadeDue s site m v) := by
  unfold State.shadeDue
  repeat' with_reducible first
    | assumption
    | intro _
    | apply Kept.ite
    | apply State.evtIf_kept hs_
    | apply Kept.foldl
    | split
    | extract_lets

theorem State.validValue_kept {ws : List Field} {s₀ s : State} (hs_ : Field.sub [.regs, .bar2, .out, .meters] ws = true) (site m : Nat) (x v : Word)
    (kh_ : Kept ws s₀ s) : Kept ws s₀ (State.validValue s site m x v) := by
  have q0 := Field.sub_trans (by decide : Field.sub [.regs, .bar2, .out] [.regs, .bar2, .out, .meters] = true) hs_
  have q1 := Field.sub_trans (by decide : Field.sub [.regs] [.regs, .bar2, .out, .meters] = true) hs_
  have q2 := Field.sub_trans (by decide : Field.sub [.meters] [.regs, .bar2, .out, .meters] = true) hs_
  unfold State.validValue
  extract_lets -merge p s1 k s2
  clear_value p k
  have k_s1 : Kept ws s₀ s1 := by
    unfold s1
    repeat' with_reducible first
      | assumption
      | intro _
      | apply Kept.ite
      | apply State.shadeDue_kept q0
      | apply State.cmpValue_kept hs_
      | apply State.setVstate_kept hs_
      | apply State.evtIf_kept q0
      | apply State.evt_kept q0
      | apply State.setNat_kept q1
      | apply State.addWrap_kept q1
      | apply State.setMeter_kept q2
      | apply State.setReg_kept q1
      | apply Kept.foldl
      | split
      | extract_lets
  clear_value s1
  have k_s2 : Kept ws s₀ s2 := by
    unfold s2
    repeat' with_reducible first
      | assumption
      | intro _
      | apply Kept.ite
      | apply State.shadeDue_kept q0
      | apply State.cmpValue_kept hs_
      | apply State.setVstate_kept hs_
      | apply State.evtIf_kept q0
      | apply State.evt_kept q0
      | apply State.setNat_kept q1
      | apply State.addWrap_kept q1
      | apply State.setMeter_kept q2
      | apply State.setReg_kept q1
      | apply Kept.foldl
      | split
      | extract_lets
  clear_value s2
  repeat' with_reducible first
    | assumption
    | intro _
    | apply Kept.ite
    | apply State.shadeDue_kept q0
    | apply State.cmpValue_kept hs_
    | apply State.setVstate_kept hs_
    | apply State.evtIf_kept q0
    | apply State.evt_kept q0
    | apply State.setNat_kept q1
    | apply State.addWrap_kept q1
    | apply State.setMeter_kept q2
    | apply State.setReg_kept q1
    | apply Kept.foldl
    | split
    | extract_lets

theorem State.autoRange_kept {ws : List Field} {s₀ s : State} (hs_ : Field.sub [.regs, .bar2, .out, .meters] ws = true) (site m c : Nat)
    (kh_ : Kept ws s₀ s) : Kept ws s₀ (State.autoRange s site m c) := by
  have q0 := Field.sub_trans (by decide : Field.sub [.regs, .bar2, .out] [.regs, .bar2, .out, .meters] = true) hs_
  have q1 := Field.sub_trans (by decide : Field.sub [.regs] [.regs, .bar2, .out, .meters] = true) hs_
  unfold State.autoRange
  extract_lets -merge p i down want
  clear_value p i down want
  repeat' with_reducible first
    | assumption
    | intro _
    | apply Kept.ite
    | apply State.rangeChange_kept hs_
    | apply State.evtIf_kept q0
    | apply State.putBit_kept q1
    | apply Kept.foldl
    | split
    | extract_lets

theorem State.cutExc_kept {ws : List Field} {s₀ s : State} (hs_ : Field.sub [.regs, .bar2, .out, .meters] ws = true) (site m : Nat)
    (kh_ : Kept ws s₀ s) : Kept ws s₀ (State.cutExc s site m) := by
  have q0 := Field.sub_trans (by decide : Field.sub [.regs, .bar2, .out] [.regs, .bar2, .out, .meters] = true) hs_
  have q1 := Field.sub_trans (by decide : Field.sub [.regs] [.regs, .bar2, .out, .meters] = true) hs_
  have q2 := Field.sub_trans (by decide : Field.sub [.meters] [.regs, .bar2, .out, .meters] = true) hs_
  unfold State.cutExc
  extract_lets -merge p _ s1
  clear_value p
  have k_s1 : Kept ws s₀ s1 := by
    unfold s1
    repeat' with_reducible first
      | assumption
      | intro _
      | apply Kept.ite
      | apply State.evtIf_kept q0
      | apply State.putBit_kept q1
      | apply State.setMeter_kept q2
      | apply Kept.foldl
      | split
      | extract_lets
  clear_value s1
  repeat' with_reducible first
    | assumption
    | intro _
    | apply Kept.ite
    | apply State.evtIf_kept q0
    | apply State.putBit_kept q1
    | apply State.setMeter_kept q2
    | apply Kept.foldl
    | split
    | extract_lets

theorem State.outsLow_kept {ws : List Field} {s₀ s : State} (hs_ : Field.sub [.meters] ws = true) (site m : Nat)
    (kh_ : Kept ws s₀ s) : Kept ws s₀ (State.outsLow s site m) := by
  unfold State.outsLow
  extract_lets -merge _
  repeat' with_reducible first
    | assumption
    | intro _
    | apply Kept.ite
    | apply State.setMeter_kept hs_
    | apply Kept.foldl
    | split
    | extract_lets

theorem State.outsZero_kept {ws : List Field} {s₀ s : State} (hs_ : Field.sub [.regs] ws = true) (site : Nat)
    (kh_ : Kept ws s₀ s) : Kept ws s₀ (State.outsZero s site) := by
  unfold State.outsZero
  repeat' with_reducible first
    | assumption
    | intro _
    | apply Kept.ite
    | apply State.setNat_kept hs_
    | apply Kept.foldl
    | split
    | extract_lets

theorem State.noValue_kept {ws : List Field} {s₀ s : State} (hs_ : Field.sub [.regs, .bar2, .out, .meters] ws = true) (site m : Nat)
    (kh_ : Kept ws s₀ s) : Kept ws s₀ (State.noValue s site m) := by
  have q0 := Field.sub_trans (by decide : Field.sub [.meters] [.regs, .bar2, .out, .meters] = true) hs_
  unfold State.noValue
  extract_lets -merge _
  repeat' with_reducible first
    | assumption
    | intro _
    | apply Kept.ite
    | apply State.outsLow_kept q0
    | apply State.setVstate_kept hs_
    | apply State.setMeter_kept q0
    | apply Kept.foldl
    | split
    | extract_lets

theorem State.meterStart_kept {ws : List Field} {s₀ s : State} (hs_ : Field.sub [.regs, .meters] ws = true) (site m : Nat)
    (kh_ : Kept ws s₀ s) : Kept ws s₀ (State.meterStart s site m) := by
  have q0 := Field.sub_trans (by decide : Field.sub [.regs] [.regs, .meters] = true) hs_
  have q1 := Field.sub_trans (by decide : Field.sub [.meters] [.regs, .meters] = true) hs_
  unfold State.meterStart
  extract_lets -merge p k s1 st
  clear_value p k st
  have k_s1 : Kept ws s₀ s1 := by
    unfold s1
    repeat' with_reducible first
      | assumption
      | intro _
      | apply Kept.ite
      | apply State.setNat_kept q0
      | apply State.setMeter_kept q1
      | apply Kept.foldl
      | split
      | extract_lets
  clear_value s1
  repeat' with_reducible first
    | assumption
    | intro _
    | apply Kept.ite
    | apply State.setNat_kept q0
    | apply State.setMeter_kept q1
    | apply Kept.foldl
    | split
    | extract_lets

theorem State.meterRun_kept {ws : List Field} {s₀ s : State} (hs_ : Field.sub [.regs, .bar2, .out, .meters] ws = true) (site m : Nat)
    (kh_ : Kept ws s₀ s) : Kept ws s₀ (State.meterRun s site m) := by
  have q0 := Field.sub_trans (by decide : Field.sub [.regs] [.regs, .bar2, .out, .meters] = true) hs_
  have q1 := Field.sub_trans (by decide : Field.sub [.meters] [.regs, .bar2, .out, .meters] = true) hs_
  unfold State.meterRun
  extract_lets -merge p _ s1 s2
  clear_value p
  have k_s1 : Kept ws s₀ s1 := by
    unfold s1
    repeat' with_reducible first
      | assumption
      | intro _
      | apply Kept.ite
      | apply State.setCause_kept q0
      | apply State.setVstate_kept hs_
      | apply State.putFld_kept q0
      | apply State.setMeter_kept q1
      | apply Kept.foldl
      | split
      | extract_lets
  clear_value s1
  have k_s2 : Kept ws s₀ s2 := by
    unfold s2
    repeat' with_reducible first
      | assumption
      | intro _
      | apply Kept.ite
      | apply State.setCause_kept q0
      | apply State.setVstate_kept hs_
      | apply State.putFld_kept q0
      | apply State.setMeter_kept q1
      | apply Kept.foldl
      | split
      | extract_lets
  clear_value s2
  repeat' with_reducible first
    | assumption
    | intro _
    | apply Kept.ite
    | apply State.setCause_kept q0
    | apply State.setVstate_kept hs_
    | apply State.putFld_kept q0
    | apply State.setMeter_kept q1
    | apply Kept.foldl
    | split
    | extract_lets

theorem State.meterStop_kept {ws : List Field} {s₀ s : State} (hs_ : Field.sub [.regs, .bar2, .out, .meters] ws = true) (site m : Nat)
    (kh_ : Kept ws s₀ s) : Kept ws s₀ (State.meterStop s site m) := by
  have q0 := Field.sub_trans (by decide : Field.sub [.regs, .bar2, .out] [.regs, .bar2, .out, .meters] = true) hs_
  have q1 := Field.sub_trans (by decide : Field.sub [.meters] [.regs, .bar2, .out, .meters] = true) hs_
  unfold State.meterStop
  extract_lets -merge s1 _
  have k_s1 : Kept ws s₀ s1 := by
    unfold s1
    repeat' with_reducible first
      | assumption
      | intro _
      | apply Kept.ite
      | apply State.noValue_kept hs_
      | apply State.setCmp_kept q0
      | apply State.setMeter_kept q1
      | apply Kept.foldl
      | split
      | extract_lets
  clear_value s1
  repeat' with_reducible first
    | assumption
    | intro _
    | apply Kept.ite
    | apply State.noValue_kept hs_
    | apply State.setCmp_kept q0
    | apply State.setMeter_kept q1
    | apply Kept.foldl
    | split
    | extract_lets

theorem State.meterChanged_kept {ws : List Field} {s₀ s : State} (hs_ : Field.sub [.regs, .bar2, .out, .meters] ws = true) (site m off : Nat) (old new : Word)
    (kh_ : Kept ws s₀ s) : Kept ws s₀ (State.meterChanged s site m off old new) := by
  have q0 := Field.sub_trans (by decide : Field.sub [.regs, .bar2, .out] [.regs, .bar2, .out, .meters] = true) hs_
  have q1 := Field.sub_trans (by decide : Field.sub [.meters] [.regs, .bar2, .out, .meters] = true) hs_
  unfold State.meterChanged
  extract_lets -merge rangeTo k i
  clear_value k i
  have k_to : ∀ x0, Kept ws s₀ (rangeTo x0) := by
    unfold rangeTo
    repeat' with_reducible first
      | assumption
      | intro _
      | apply Kept.ite
      | apply State.noValue_kept hs_
      | apply State.rangeChange_kept hs_
      | apply State.setCmp_kept q0
      | apply State.setMeter_kept q1
      | apply Kept.foldl
      | split
      | extract_lets
  clear_value rangeTo
  repeat' with_reducible first
    | assumption
    | intro _
    | apply k_to
    | apply Kept.ite
    | apply State.noValue_kept hs_
    | apply State.rangeChange_kept hs_
    | apply State.setCmp_kept q0
    | apply State.setMeter_kept q1
    | apply Kept.foldl
    | split
    | extract_lets

theorem State.stepBack_kept {ws : List Field} {s₀ s : State} (hs_ : Field.sub [.meters] ws = true) (site ch : Nat)
    (kh_ : Kept ws s₀ s) : Kept ws s₀ (State.stepBack s site ch) := by
  unfold State.stepBack
  extract_lets -merge _
  repeat' with_reducible first
    | assumption
    | intro _
    | apply Kept.ite
    | apply State.setMeter_kept hs_
    | apply Kept.foldl
    | split
    | extract_lets

theorem State.calNext_kept {ws : List Field} {s₀ s : State} (hs_ : Field.sub [.regs, .bar2, .out, .meters, .calibs] ws = true) (site : Nat)
    (kh_ : Kept ws s₀ s) : Kept ws s₀ (State.calNext s site) := by
  have q0 := Field.sub_trans (by decide : Field.sub [.regs, .bar2, .out, .meters] [.regs, .bar2, .out, .meters, .calibs] = true) hs_
  have q1 := Field.sub_trans (by decide : Field.sub [.regs] [.regs, .bar2, .out, .meters, .calibs] = true) hs_
  have q2 := Field.sub_trans (by decide : Field.sub [.calibs] [.regs, .bar2, .out, .meters, .calibs] = true) hs_
  unfold State.calNext
  extract_lets -merge c
  clear_value c
  repeat' with_reducible first
    | assumption
    | intro _
    | apply Kept.ite
    | apply State.rangeChange_kept q0
    | apply State.putBit_kept q1
    | apply State.setCalib_kept q2
    | apply State.putFld_kept q1
    | apply Kept.foldl
    | split
    | extract_lets

theorem State.calEnd_kept {ws : List Field} {s₀ s : State} (hs_ : Field.sub [.regs, .meters, .calibs] ws = true) (site result : Nat)
    (kh_ : Kept ws s₀ s) : Kept ws s₀ (State.calEnd s site result) := by
  have q0 := Field.sub_trans (by decide : Field.sub [.meters] [.regs, .meters, .calibs] = true) hs_
  have q1 := Field.sub_trans (by decide : Field.sub [.regs] [.regs, .meters, .calibs] = true) hs_
  have q2 := Field.sub_trans (by decide : Field.sub [.calibs] [.regs, .meters, .calibs] = true) hs_
  unfold State.calEnd
  extract_lets -merge p c s0 s1
  clear_value p c
  have k_s0 : Kept ws s₀ s0 := by
    unfold s0
    repeat' with_reducible first
      | assumption
      | intro _
      | apply Kept.ite
      | apply State.stepBack_kept q0
      | apply State.putBit_kept q1
      | apply State.setCalib_kept q2
      | apply State.putFld_kept q1
      | apply Kept.foldl
      | split
      | extract_lets
  clear_value s0
  have k_s1 : Kept ws s₀ s1 := by
    unfold s1
    repeat' with_reducible first
      | assumption
      | intro _
      | apply Kept.ite
      | apply State.stepBack_kept q0
      | apply State.putBit_kept q1
      | apply State.setCalib_kept q2
      | apply State.putFld_kept q1
      | apply Kept.foldl
      | split
      | extract_lets
  clear_value s1
  repeat' with_reducible first
    | assumption
    | intro _
    | apply Kept.ite
    | apply State.stepBack_kept q0
    | apply State.putBit_kept q1
    | apply State.setCalib_kept q2
    | apply State.putFld_kept q1
    | apply Kept.foldl
    | split
    | extract_lets

theorem State.calAbortCh_kept {ws : List Field} {s₀ s : State} (hs_ : Field.sub [.regs, .bar2, .out, .meters, .calibs] ws = true) (site ch result : Nat)
    (kh_ : Kept ws s₀ s) : Kept ws s₀ (State.calAbortCh s site ch result) := by
  have q0 := Field.sub_trans (by decide : Field.sub [.regs, .meters, .calibs] [.regs, .bar2, .out, .meters, .calibs] = true) hs_
  have q1 := Field.sub_trans (by decide : Field.sub [.regs, .bar2, .out] [.regs, .bar2, .out, .meters, .calibs] = true) hs_
  have q2 := Field.sub_trans (by decide : Field.sub [.regs] [.regs, .bar2, .out, .meters, .calibs] = true) hs_
  have q3 := Field.sub_trans (by decide : Field.sub [.calibs] [.regs, .bar2, .out, .meters, .calibs] = true) hs_
  unfold State.calAbortCh
  extract_lets -merge c rest
  clear_value c rest
  repeat' with_reducible first
    | assumption
    | intro _
    | apply Kept.ite
    | apply State.calEnd_kept q0
    | apply State.calNext_kept hs_
    | apply State.evt_kept q1
    | apply State.putBit_kept q2
    | apply State.setCalib_kept q3
    | apply State.putFld_kept q2
    | apply Kept.foldl
    | split
    | extract_lets

theorem State.calAbortAll_kept {ws : List Field} {s₀ s : State} (hs_ : Field.sub [.regs, .bar2, .out, .meters, .calibs] ws = true) (site result : Nat)
    (kh_ : Kept ws s₀ s) : Kept ws s₀ (State.calAbortAll s site result) := by
  have q0 := Field.sub_trans (by decide : Field.sub [.regs, .meters, .calibs] [.regs, .bar2, .out, .meters, .calibs] = true) hs_
  have q1 := Field.sub_trans (by decide : Field.sub [.regs, .bar2, .out] [.regs, .bar2, .out, .meters, .calibs] = true) hs_
  have q2 := Field.sub_trans (by decide : Field.sub [.regs] [.regs, .bar2, .out, .meters, .calibs] = true) hs_
  have q3 := Field.sub_trans (by decide : Field.sub [.calibs] [.regs, .bar2, .out, .meters, .calibs] = true) hs_
  unfold State.calAbortAll
  extract_lets -merge c s1
  clear_value c
  have k_s1 : Kept ws s₀ s1 := by
    unfold s1
    repeat' with_reducible first
      | assumption
      | intro _
      | apply Kept.ite
      | apply State.calEnd_kept q0
      | apply State.evt_kept q1
      | apply State.putBit_kept q2
      | apply State.setCalib_kept q3
      | apply State.putFld_kept q2
      | apply Kept.foldl
      | split
      | extract_lets
  clear_value s1
  repeat' with_reducible first
    | assumption
    | intro _
    | apply Kept.ite
    | apply State.calEnd_kept q0
    | apply State.evt_kept q1
    | apply State.putBit_kept q2
    | apply State.setCalib_kept q3
    | apply State.putFld_kept q2
    | apply Kept.foldl
    | split
    | extract_lets

theorem State.refreshDue_kept {ws : List Field} {s₀ s : State} (hs_ : Field.sub [.regs, .bar2, .out] ws = true) (site ch : Nat)
    (kh_ : Kept ws s₀ s) : Kept ws s₀ (State.refreshDue s site ch) := by
  have q0 := Field.sub_trans (by decide : Field.sub [.regs] [.regs, .bar2, .out] = true) hs_
  unfold State.refreshDue
  extract_lets -merge p d
  clear_value p d
  repeat' with_reducible first
    | assumption
    | intro _
    | apply Kept.ite
    | apply State.evtIf_kept hs_
    | apply State.putBit_kept q0
    | apply Kept.foldl
    | split
    | extract_lets

end Sys2Proof.Machine
end

