-- ==== Sys2Proof/Laws/KStreamOps.lean ====
section
/-!
SUPPORT. Laws/KStreamOps.lean: what each operation of Machine/StreamOps.lean may change, and that it keeps the canonical form.
-/
namespace Sys2Proof.Machine

theorem State.setStrm_kept {ws : List Field} {s₀ s : State} (hs_ : Field.sub [.strms] ws = true) (site k : Nat) (x : Strm)
    (kh_ : Kept ws s₀ s) : Kept ws s₀ (State.setStrm s site k x) := by
  unfold State.setStrm
  repeat' with_reducible first
    | assumption
    | intro _
    | apply Kept.ite
    | apply Kept.foldl
    | split
    | extract_lets
    | apply Kept.set_strms _ hs_

theorem State.setGate_kept {ws : List Field} {s₀ s : State} (hs_ : Field.sub [.gates] ws = true) (site g : Nat) (x : Gate)
    (kh_ : Kept ws s₀ s) : Kept ws s₀ (State.setGate s site g x) := by
  unfold State.setGate
  repeat' with_reducible first
    | assumption
    | intro _
    | apply Kept.ite
    | apply Kept.foldl
    | split
    | extract_lets
    | apply Kept.set_gates _ hs_

theorem State.setAxis_kept {ws : List Field} {s₀ s : State} (hs_ : Field.sub [.axes] ws = true) (site a : Nat) (x : Axis)
    (kh_ : Kept ws s₀ s) : Kept ws s₀ (State.setAxis s site a x) := by
  unfold State.setAxis
  repeat' with_reducible first
    | assumption
    | intro _
    | apply Kept.ite
    | apply Kept.foldl
    | split
    | extract_lets
    | apply Kept.set_axes _ hs_

theorem State.setGrp_kept {ws : List Field} {s₀ s : State} (hs_ : Field.sub [.grps] ws = true) (site g : Nat) (x : Grp)
    (kh_ : Kept ws s₀ s) : Kept ws s₀ (State.setGrp s site g x) := by
  unfold State.setGrp
  repeat' with_reducible first
    | assumption
    | intro _
    | apply Kept.ite
    | apply Kept.foldl
    | split
    | extract_lets
    | apply Kept.set_grps _ hs_

theorem State.fixStop_kept {ws : List Field} {s₀ s : State} (hs_ : Field.sub [.rings, .free] ws = true) (site k : Nat)
    (kh_ : Kept ws s₀ s) : Kept ws s₀ (State.fixStop s site k) := by
  have q0 := Field.sub_trans (by decide : Field.sub [.free] [.rings, .free] = true) hs_
  have q1 := Field.sub_trans (by decide : Field.sub [.rings] [.rings, .free] = true) hs_
  unfold State.fixStop
  extract_lets -merge d x
  clear_value d x
  repeat' with_reducible first
    | assumption
    | intro _
    | apply Kept.ite
    | apply State.draw_kept q0
    | apply State.setRing_kept q1
    | apply Kept.foldl
    | split
    | extract_lets

theorem State.writeSplice_kept {ws : List Field} {s₀ s : State} (hs_ : Field.sub [.regs] ws = true) (site k cause line : Nat) (vel : Int)
    (kh_ : Kept ws s₀ s) : Kept ws s₀ (State.writeSplice s site k cause line vel) := by
  unfold State.writeSplice
  extract_lets -merge p st s1 w s2
  clear_value p st
  have k_s1 : Kept ws s₀ s1 := by
    unfold s1
    repeat' with_reducible first
      | assumption
      | intro _
      | apply Kept.ite
      | apply State.setNat_kept hs_
      | apply State.setReg_kept hs_
      | apply Kept.foldl
      | split
      | extract_lets
  clear_value s1
  have k_w : ∀ x0 x1 x2, Kept ws s₀ x0 → Kept ws s₀ (w x0 x1 x2) := by
    unfold w
    repeat' with_reducible first
      | assumption
      | intro _
      | apply Kept.ite
      | apply State.setNat_kept hs_
      | apply State.setReg_kept hs_
      | apply Kept.foldl
      | split
      | extract_lets
  clear_value w
  have k_s2 : Kept ws s₀ s2 := by
    unfold s2
    repeat' with_reducible first
      | assumption
      | intro _
      | apply k_w
      | apply Kept.ite
      | apply State.setNat_kept hs_
      | apply State.setReg_kept hs_
      | apply Kept.foldl
      | split
      | extract_lets
  clear_value s2
  repeat' with_reducible first
    | assumption
    | intro _
    | apply k_w
    | apply Kept.ite
    | apply State.setNat_kept hs_
    | apply State.setReg_kept hs_
    | apply Kept.foldl
    | split
    | extract_lets

theorem State.dropRows_kept {ws : List Field} {s₀ s : State} (hs_ : Field.sub [.strms] ws = true) (site k line : Nat)
    (kh_ : Kept ws s₀ s) : Kept ws s₀ (State.dropRows s site k line) := by
  unfold State.dropRows
  extract_lets -merge x keep
  clear_value x keep
  repeat' with_reducible first
    | assumption
    | intro _
    | apply Kept.ite
    | apply State.setStrm_kept hs_
    | apply Kept.foldl
    | split
    | extract_lets

theorem State.spliceRest_kept {ws : List Field} {s₀ s : State} (hs_ : Field.sub [.regs, .bar2, .out] ws = true) (site k : Nat)
    (kh_ : Kept ws s₀ s) : Kept ws s₀ (State.spliceRest s site k) := by
  have q0 := Field.sub_trans (by decide : Field.sub [.regs] [.regs, .bar2, .out] = true) hs_
  unfold State.spliceRest
  extract_lets -merge p
  clear_value p
  repeat' with_reducible first
    | assumption
    | intro _
    | apply Kept.ite
    | apply State.evt_kept hs_
    | apply State.putFld_kept q0
    | apply Kept.foldl
    | split
    | extract_lets

theorem State.losePipe_kept {ws : List Field} {s₀ s : State} (hs_ : Field.sub [.regs, .strms] ws = true) (site k : Nat)
    (kh_ : Kept ws s₀ s) : Kept ws s₀ (State.losePipe s site k) := by
  have q0 := Field.sub_trans (by decide : Field.sub [.regs] [.regs, .strms] = true) hs_
  have q1 := Field.sub_trans (by decide : Field.sub [.strms] [.regs, .strms] = true) hs_
  unfold State.losePipe
  extract_lets -merge _ s1
  have k_s1 : Kept ws s₀ s1 := by
    unfold s1
    repeat' with_reducible first
      | assumption
      | intro _
      | apply Kept.ite
      | apply State.putBit_kept q0
      | apply State.setStrm_kept q1
      | apply Kept.foldl
      | split
      | extract_lets
  clear_value s1
  repeat' with_reducible first
    | assumption
    | intro _
    | apply Kept.ite
    | apply State.putBit_kept q0
    | apply State.setStrm_kept q1
    | apply Kept.foldl
    | split
    | extract_lets

theorem State.spliceOne_kept {ws : List Field} {s₀ s : State} (hs_ : Field.sub [.regs, .bar2, .out, .rings, .strms] ws = true) (site k cause line : Nat) (vel : Int)
    (kh_ : Kept ws s₀ s) : Kept ws s₀ (State.spliceOne s site k cause line vel) := by
  have q0 := Field.sub_trans (by decide : Field.sub [.regs, .bar2, .out] [.regs, .bar2, .out, .rings, .strms] = true) hs_
  have q1 := Field.sub_trans (by decide : Field.sub [.strms] [.regs, .bar2, .out, .rings, .strms] = true) hs_
  have q2 := Field.sub_trans (by decide : Field.sub [.regs] [.regs, .bar2, .out, .rings, .strms] = true) hs_
  have q3 := Field.sub_trans (by decide : Field.sub [.rings] [.regs, .bar2, .out, .rings, .strms] = true) hs_
  unfold State.spliceOne
  extract_lets -merge p back s1 _ s2 s3
  clear_value p back
  have k_s1 : Kept ws s₀ s1 := by
    unfold s1
    repeat' with_reducible first
      | assumption
      | intro _
      | apply Kept.ite
      | apply State.setSt_kept q0
      | apply State.evt_kept q0
      | apply State.spliceRest_kept q0
      | apply State.dropRows_kept q1
      | apply State.writeSplice_kept q2
      | apply State.queueRec_kept q3
      | apply State.setStrm_kept q1
      | apply Kept.foldl
      | split
      | extract_lets
  clear_value s1
  have k_s2 : Kept ws s₀ s2 := by
    unfold s2
    repeat' with_reducible first
      | assumption
      | intro _
      | apply Kept.ite
      | apply State.setSt_kept q0
      | apply State.evt_kept q0
      | apply State.spliceRest_kept q0
      | apply State.dropRows_kept q1
      | apply State.writeSplice_kept q2
      | apply State.queueRec_kept q3
      | apply State.setStrm_kept q1
      | apply Kept.foldl
      | split
      | extract_lets
  clear_value s2
  have k_s3 : Kept ws s₀ s3 := by
    unfold s3
    repeat' with_reducible first
      | assumption
      | intro _
      | apply Kept.ite
      | apply State.setSt_kept q0
      | apply State.evt_kept q0
      | apply State.spliceRest_kept q0
      | apply State.dropRows_kept q1
      | apply State.writeSplice_kept q2
      | apply State.queueRec_kept q3
      | apply State.setStrm_kept q1
      | apply Kept.foldl
      | split
      | extract_lets
  clear_value s3
  repeat' with_reducible first
    | assumption
    | intro _
    | apply Kept.ite
    | apply State.setSt_kept q0
    | apply State.evt_kept q0
    | apply State.spliceRest_kept q0
    | apply State.dropRows_kept q1
    | apply State.writeSplice_kept q2
    | apply State.queueRec_kept q3
    | apply State.setStrm_kept q1
    | apply Kept.foldl
    | split
    | extract_lets

theorem State.clearSplice_kept {ws : List Field} {s₀ s : State} (hs_ : Field.sub [.regs] ws = true) (site k : Nat)
    (kh_ : Kept ws s₀ s) : Kept ws s₀ (State.clearSplice s site k) := by
  unfold State.clearSplice
  repeat' with_reducible first
    | assumption
    | intro _
    | apply Kept.ite
    | apply State.setNat_kept hs_
    | apply Kept.foldl
    | split
    | extract_lets

end Sys2Proof.Machine
end

