-- ==== Sys2Proof/Laws/KMemOps.lean ====
section
/-!
SUPPORT. Laws/KMemOps.lean: what each operation of Machine/MemOps.lean may change, and that it keeps the canonical form.
-/
namespace Sys2Proof.Machine

theorem State.ramPut_kept {ws : List Field} {s₀ s : State} (hs_ : Field.sub [.ram] ws = true) (sp a : Nat) (bs : List Byte) (h : Kept ws s₀ s) :
    Kept ws s₀ (s.ramPut sp a bs) := h.set_ram _ hs_ (tabWf_tabPutList 0#8 bs s.ram _)

theorem State.ramZero_kept {ws : List Field} {s₀ s : State} (hs_ : Field.sub [.ram] ws = true) (sp a n : Nat) (h : Kept ws s₀ s) :
    Kept ws s₀ (s.ramZero sp a n) := h.ram_drop _ _ hs_

theorem State.ramClear_kept {ws : List Field} {s₀ s : State} (hs_ : Field.sub [.ram] ws = true) (sp : Nat)
    (kh_ : Kept ws s₀ s) : Kept ws s₀ (State.ramClear s sp) := by
  unfold State.ramClear
  repeat' with_reducible first
    | assumption
    | intro _
    | apply Kept.ite
    | apply State.ramZero_kept hs_
    | apply Kept.foldl
    | split
    | extract_lets

theorem State.hmemPut_kept {ws : List Field} {s₀ s : State} (hs_ : Field.sub [.hmem] ws = true) (a : Nat) (bs : List Byte) (h : Kept ws s₀ s) :
    Kept ws s₀ (s.hmemPut a bs) := h.set_hmem _ hs_ (tabWf_tabPutList 0#8 bs s.hmem _)

theorem State.putBytes_kept {ws : List Field} {s₀ : State} (hs_ : Field.sub [.regs] ws = true) :
    ∀ (bs : List Byte) (s : State) (a : Nat), Kept ws s₀ s → Kept ws s₀ (s.putBytes a bs)
  | [], _, _, h => h
  | [_], _, _, h => State.setNat_kept hs_ _ _ h
  | [_, _], _, _, h => State.setNat_kept hs_ _ _ h
  | [_, _, _], _, _, h => State.setNat_kept hs_ _ _ h
  | _ :: _ :: _ :: _ :: bs, _, _, h => State.putBytes_kept hs_ bs _ _ (State.setNat_kept hs_ _ _ h)

theorem State.mbReply_kept {ws : List Field} {s₀ s : State} (hs_ : Field.sub [.regs, .bar2, .out, .loads] ws = true) (t status : Nat) (payload : List Byte)
    (kh_ : Kept ws s₀ s) : Kept ws s₀ (State.mbReply s t status payload) := by
  have q0 := Field.sub_trans (by decide : Field.sub [.regs, .bar2, .out] [.regs, .bar2, .out, .loads] = true) hs_
  have q1 := Field.sub_trans (by decide : Field.sub [.regs] [.regs, .bar2, .out, .loads] = true) hs_
  have q2 := Field.sub_trans (by decide : Field.sub [.loads] [.regs, .bar2, .out, .loads] = true) hs_
  unfold State.mbReply
  extract_lets -merge p s1 _
  clear_value p
  have k_s1 : Kept ws s₀ s1 := by
    unfold s1
    repeat' with_reducible first
      | assumption
      | intro _
      | apply Kept.ite
      | apply State.evt_kept q0
      | apply State.setNat_kept q1
      | apply State.putBytes_kept q1
      | apply Kept.foldl
      | split
      | extract_lets
      | apply Kept.set_loads _ q2
  clear_value s1
  repeat' with_reducible first
    | assumption
    | intro _
    | apply Kept.ite
    | apply State.evt_kept q0
    | apply State.setNat_kept q1
    | apply State.putBytes_kept q1
    | apply Kept.foldl
    | split
    | extract_lets
    | apply Kept.set_loads _ q2

theorem State.mbServe_kept {ws : List Field} {s₀ s : State} (hs_ : Field.sub [.regs, .bar2, .out, .loads] ws = true) (t op len : Nat) (k : State → State) (h_k : ∀ t0, Kept ws s₀ t0 → Kept ws s₀ (k t0))
    (kh_ : Kept ws s₀ s) : Kept ws s₀ (State.mbServe s t op len k) := by
  unfold State.mbServe
  extract_lets -merge p
  clear_value p
  repeat' with_reducible first
    | assumption
    | intro _
    | apply h_k
    | apply Kept.ite
    | apply State.mbReply_kept hs_
    | apply Kept.foldl
    | split
    | extract_lets

end Sys2Proof.Machine
end

