-- ==== Sys2Proof/Laws/KMmuOps.lean ====
section
/-!
SUPPORT. Laws/KMmuOps.lean: what each operation of Machine/MmuOps.lean may change, and that it keeps the canonical form.
-/
namespace Sys2Proof.Machine

theorem State.consumePoison_kept {ws : List Field} {s₀ s : State} (hs_ : Field.sub [.regs, .bar2, .out] ws = true) (site page code : Nat)
    (kh_ : Kept ws s₀ s) : Kept ws s₀ (State.consumePoison s site page code) := by
  have q0 := Field.sub_trans (by decide : Field.sub [.regs] [.regs, .bar2, .out] = true) hs_
  unfold State.consumePoison
  extract_lets -merge s1
  have k_s1 : Kept ws s₀ s1 := by
    unfold s1
    repeat' with_reducible first
      | assumption
      | intro _
      | apply Kept.ite
      | apply State.faultRec_kept q0
      | apply State.evt_kept hs_
      | apply State.addSat_kept q0
      | apply Kept.foldl
      | split
      | extract_lets
  clear_value s1
  repeat' with_reducible first
    | assumption
    | intro _
    | apply Kept.ite
    | apply State.faultRec_kept q0
    | apply State.evt_kept hs_
    | apply State.addSat_kept q0
    | apply Kept.foldl
    | split
    | extract_lets

theorem State.scrub_kept {ws : List Field} {s₀ s : State} (hs_ : Field.sub [.ram, .poison] ws = true) (sp : Nat)
    (kh_ : Kept ws s₀ s) : Kept ws s₀ (State.scrub s sp) := by
  have q0 := Field.sub_trans (by decide : Field.sub [.ram] [.ram, .poison] = true) hs_
  have q1 := Field.sub_trans (by decide : Field.sub [.poison] [.ram, .poison] = true) hs_
  unfold State.scrub
  extract_lets -merge s1
  have k_s1 : Kept ws s₀ s1 := by
    unfold s1
    repeat' with_reducible first
      | assumption
      | intro _
      | apply Kept.ite
      | apply State.ramClear_kept q0
      | apply Kept.foldl
      | split
      | extract_lets
      | apply Kept.set_poison _ q1
  clear_value s1
  repeat' with_reducible first
    | assumption
    | intro _
    | apply Kept.ite
    | apply State.ramClear_kept q0
    | apply Kept.foldl
    | split
    | extract_lets
    | apply Kept.set_poison _ q1

theorem State.ramWrite_kept {ws : List Field} {s₀ s : State} (hs_ : Field.sub [.ram, .poison] ws = true) (sp a : Nat) (bs : List Byte)
    (kh_ : Kept ws s₀ s) : Kept ws s₀ (State.ramWrite s sp a bs) := by
  have q0 := Field.sub_trans (by decide : Field.sub [.ram] [.ram, .poison] = true) hs_
  have q1 := Field.sub_trans (by decide : Field.sub [.poison] [.ram, .poison] = true) hs_
  unfold State.ramWrite
  extract_lets -merge s1
  have k_s1 : Kept ws s₀ s1 := by
    unfold s1
    repeat' with_reducible first
      | assumption
      | intro _
      | apply Kept.ite
      | apply State.ramPut_kept q0
      | apply Kept.foldl
      | split
      | extract_lets
      | apply Kept.set_poison _ q1
  clear_value s1
  repeat' with_reducible first
    | assumption
    | intro _
    | apply Kept.ite
    | apply State.ramPut_kept q0
    | apply Kept.foldl
    | split
    | extract_lets
    | apply Kept.set_poison _ q1

theorem State.taPut_kept {ws : List Field} {s₀ : State} (hs_ : Field.sub [.ram, .hmem, .poison] ws = true) (t : Nat) (want : Want) : ∀ (f ta : Nat) (bs : List Byte)
    {s : State}, Kept ws s₀ s → Kept ws s₀ (s.taPut t want f ta bs).1 := by
  have q0 : Field.sub [.ram, .poison] ws = true := Field.sub_trans (by decide) hs_
  have q1 : Field.sub [.hmem] ws = true := Field.sub_trans (by decide) hs_
  intro f
  induction f with
  | zero => intro ta bs s h; exact h
  | succ f ih =>
    intro ta bs s h
    simp only [State.taPut]
    split
    · exact h
    · split
      · exact ih _ _ (State.ramWrite_kept q0 _ _ _ h)
      · exact ih _ _ (State.hmemPut_kept q1 _ _ h)
      · exact h

theorem State.taWrite_kept {ws : List Field} {s₀ s : State} (hs_ : Field.sub [.ram, .hmem, .poison] ws = true) (t : Nat) (want : Want) (ta : Nat) (bs : List Byte)
    (h : Kept ws s₀ s) : Kept ws s₀ (s.taWrite t want ta bs).1 := State.taPut_kept hs_ t want _ _ _ h

theorem State.tmemPut_kept {ws : List Field} {s₀ s : State} (hs_ : Field.sub [.ram, .hmem, .poison] ws = true) (t ta : Nat) (bs : List Byte)
    (kh_ : Kept ws s₀ s) : Kept ws s₀ (State.tmemPut s t ta bs) := by
  unfold State.tmemPut
  repeat' with_reducible first
    | assumption
    | intro _
    | apply Kept.ite
    | apply State.taWrite_kept hs_
    | refine Kept.of_fst (State.taWrite_kept hs_ _ _ _ _ ?_) ‹_›
    | apply Kept.foldl
    | split
    | extract_lets

theorem State.setMmu_kept {ws : List Field} {s₀ s : State} (hs_ : Field.sub [.mmus] ws = true) (t : Nat) (x : Mmu)
    (kh_ : Kept ws s₀ s) : Kept ws s₀ (State.setMmu s t x) := by
  unfold State.setMmu
  repeat' with_reducible first
    | assumption
    | intro _
    | apply Kept.ite
    | apply Kept.foldl
    | split
    | extract_lets
    | apply Kept.set_mmus _ hs_

theorem State.showFlt_kept {ws : List Field} {s₀ s : State} (hs_ : Field.sub [.regs] ws = true) (t : Nat)
    (kh_ : Kept ws s₀ s) : Kept ws s₀ (State.showFlt s t) := by
  unfold State.showFlt
  repeat' with_reducible first
    | assumption
    | intro _
    | apply Kept.ite
    | apply State.putFld_kept hs_
    | apply Kept.foldl
    | split
    | extract_lets

theorem State.haltUnit_kept {ws : List Field} {s₀ s : State} (hs_ : Field.sub [.regs, .back, .bar2, .out, .mmus] ws = true) (t : Nat) (u : HUnit) (vec : Option Nat)
    (kh_ : Kept ws s₀ s) : Kept ws s₀ (State.haltUnit s t u vec) := by
  have q0 := Field.sub_trans (by decide : Field.sub [.regs] [.regs, .back, .bar2, .out, .mmus] = true) hs_
  have q1 := Field.sub_trans (by decide : Field.sub [.mmus] [.regs, .back, .bar2, .out, .mmus] = true) hs_
  have q2 := Field.sub_trans (by decide : Field.sub [.regs, .back, .bar2, .out] [.regs, .back, .bar2, .out, .mmus] = true) hs_
  have q3 := Field.sub_trans (by decide : Field.sub [.regs, .bar2, .out] [.regs, .back, .bar2, .out, .mmus] = true) hs_
  have q4 := Field.sub_trans (by decide : Field.sub [.bar2, .out] [.regs, .back, .bar2, .out, .mmus] = true) hs_
  unfold State.haltUnit
  extract_lets -merge p m v
  clear_value p m v
  repeat' with_reducible first
    | assumption
    | intro _
    | apply Kept.ite
    | apply State.showFlt_kept q0
    | apply State.setMmu_kept q1
    | apply State.halt_kept q2
    | apply State.evt_kept q3
    | apply State.msix_kept q4
    | apply State.setWide_kept q0
    | apply State.setNat_kept q0
    | apply State.putBit_kept q0
    | apply State.putFld_kept q0
    | apply Kept.foldl
    | split
    | extract_lets

theorem State.freeFlt_kept {ws : List Field} {s₀ s : State} (hs_ : Field.sub [.regs] ws = true) (t i : Nat)
    (kh_ : Kept ws s₀ s) : Kept ws s₀ (State.freeFlt s t i) := by
  unfold State.freeFlt
  extract_lets -merge a
  clear_value a
  repeat' with_reducible first
    | assumption
    | intro _
    | apply Kept.ite
    | apply State.showFlt_kept hs_
    | apply State.setNat_kept hs_
    | apply Kept.foldl
    | split
    | extract_lets

theorem State.mmuUnhalt_kept {ws : List Field} {s₀ s : State} (hs_ : Field.sub [.regs, .back, .bar2, .out] ws = true) (t : Nat)
    (kh_ : Kept ws s₀ s) : Kept ws s₀ (State.mmuUnhalt s t) := by
  unfold State.mmuUnhalt
  repeat' with_reducible first
    | assumption
    | intro _
    | apply Kept.ite
    | apply State.unhalt_kept hs_
    | apply Kept.foldl
    | split
    | extract_lets

theorem State.dropUnits_kept {ws : List Field} {s₀ s : State} (hs_ : Field.sub [.regs, .back, .bar2, .out, .mmus] ws = true) (t : Nat) (gone : HUnit → Bool)
    (kh_ : Kept ws s₀ s) : Kept ws s₀ (State.dropUnits s t gone) := by
  have q0 := Field.sub_trans (by decide : Field.sub [.regs, .back, .bar2, .out] [.regs, .back, .bar2, .out, .mmus] = true) hs_
  have q1 := Field.sub_trans (by decide : Field.sub [.regs] [.regs, .back, .bar2, .out, .mmus] = true) hs_
  have q2 := Field.sub_trans (by decide : Field.sub [.mmus] [.regs, .back, .bar2, .out, .mmus] = true) hs_
  unfold State.dropUnits
  extract_lets -merge m keep s1 s2
  clear_value m keep
  have k_s1 : Kept ws s₀ s1 := by
    unfold s1
    repeat' with_reducible first
      | assumption
      | intro _
      | apply Kept.ite
      | apply State.mmuUnhalt_kept q0
      | apply State.freeFlt_kept q1
      | apply State.setMmu_kept q2
      | apply State.putFld_kept q1
      | apply Kept.foldl
      | split
      | extract_lets
  clear_value s1
  have k_s2 : Kept ws s₀ s2 := by
    unfold s2
    repeat' with_reducible first
      | assumption
      | intro _
      | apply Kept.ite
      | apply State.mmuUnhalt_kept q0
      | apply State.freeFlt_kept q1
      | apply State.setMmu_kept q2
      | apply State.putFld_kept q1
      | apply Kept.foldl
      | split
      | extract_lets
  clear_value s2
  repeat' with_reducible first
    | assumption
    | intro _
    | apply Kept.ite
    | apply State.mmuUnhalt_kept q0
    | apply State.freeFlt_kept q1
    | apply State.setMmu_kept q2
    | apply State.putFld_kept q1
    | apply Kept.foldl
    | split
    | extract_lets

end Sys2Proof.Machine
end

