-- ==== Sys2Proof/Laws/KRingOps.lean ====
section
/-!
SUPPORT. Laws/KRingOps.lean: what each operation of Machine/RingOps.lean may change, and that it keeps the canonical form.
-/
namespace Sys2Proof.Machine

theorem State.setSring_kept {ws : List Field} {s₀ s : State} (hs_ : Field.sub [.slotRings] ws = true) (site core r : Nat) (x : SRing)
    (kh_ : Kept ws s₀ s) : Kept ws s₀ (State.setSring s site core r x) := by
  unfold State.setSring
  repeat' with_reducible first
    | assumption
    | intro _
    | apply Kept.ite
    | apply Kept.foldl
    | split
    | extract_lets
    | apply Kept.set_slotRings _ hs_

theorem State.publish_kept {ws : List Field} {s₀ s : State} (hs_ : Field.sub [.regs, .slotRings] ws = true) (site core r epoch : Nat)
    (kh_ : Kept ws s₀ s) : Kept ws s₀ (State.publish s site core r epoch) := by
  have q0 := Field.sub_trans (by decide : Field.sub [.regs] [.regs, .slotRings] = true) hs_
  have q1 := Field.sub_trans (by decide : Field.sub [.slotRings] [.regs, .slotRings] = true) hs_
  unfold State.publish
  extract_lets -merge n x s1
  clear_value n x
  have k_s1 : Kept ws s₀ s1 := by
    unfold s1
    repeat' with_reducible first
      | assumption
      | intro _
      | apply Kept.ite
      | apply State.putFld_kept q0
      | apply State.setSring_kept q1
      | apply Kept.foldl
      | split
      | extract_lets
  clear_value s1
  repeat' with_reducible first
    | assumption
    | intro _
    | apply Kept.ite
    | apply State.putFld_kept q0
    | apply State.setSring_kept q1
    | apply Kept.foldl
    | split
    | extract_lets

theorem State.passVoids_kept {ws : List Field} {s₀ s : State} (hs_ : Field.sub [.regs, .slotRings] ws = true) (site core r : Nat)
    (kh_ : Kept ws s₀ s) : Kept ws s₀ (State.passVoids s site core r) := by
  have q0 := Field.sub_trans (by decide : Field.sub [.regs] [.regs, .slotRings] = true) hs_
  have q1 := Field.sub_trans (by decide : Field.sub [.slotRings] [.regs, .slotRings] = true) hs_
  unfold State.passVoids
  extract_lets -merge x k n
  clear_value x k n
  repeat' with_reducible first
    | assumption
    | intro _
    | apply Kept.ite
    | apply State.putFld_kept q0
    | apply State.setSring_kept q1
    | apply Kept.foldl
    | split
    | extract_lets

theorem State.skipSlot_kept {ws : List Field} {s₀ s : State} (hs_ : Field.sub [.regs, .slotRings] ws = true) (site core r : Nat)
    (kh_ : Kept ws s₀ s) : Kept ws s₀ (State.skipSlot s site core r) := by
  have q0 := Field.sub_trans (by decide : Field.sub [.regs] [.regs, .slotRings] = true) hs_
  have q1 := Field.sub_trans (by decide : Field.sub [.slotRings] [.regs, .slotRings] = true) hs_
  unfold State.skipSlot
  extract_lets -merge n x
  clear_value n x
  repeat' with_reducible first
    | assumption
    | intro _
    | apply Kept.ite
    | apply State.passVoids_kept hs_
    | apply State.putFld_kept q0
    | apply State.setSring_kept q1
    | apply Kept.foldl
    | split
    | extract_lets

theorem State.discardSlots_kept {ws : List Field} {s₀ s : State} (hs_ : Field.sub [.regs, .slotRings] ws = true) (site e : Nat)
    (kh_ : Kept ws s₀ s) : Kept ws s₀ (State.discardSlots s site e) := by
  have q0 := Field.sub_trans (by decide : Field.sub [.regs] [.regs, .slotRings] = true) hs_
  have q1 := Field.sub_trans (by decide : Field.sub [.slotRings] [.regs, .slotRings] = true) hs_
  unfold State.discardSlots
  repeat' with_reducible first
    | assumption
    | intro _
    | apply Kept.ite
    | apply State.passVoids_kept hs_
    | apply State.putFld_kept q0
    | apply State.setSring_kept q1
    | apply Kept.foldl
    | split
    | extract_lets

theorem State.release_kept {ws : List Field} {s₀ s : State} (hs_ : Field.sub [.regs, .slotRings] ws = true) (site core r : Nat)
    (kh_ : Kept ws s₀ s) : Kept ws s₀ (State.release s site core r) := by
  have q0 := Field.sub_trans (by decide : Field.sub [.regs] [.regs, .slotRings] = true) hs_
  have q1 := Field.sub_trans (by decide : Field.sub [.slotRings] [.regs, .slotRings] = true) hs_
  unfold State.release
  extract_lets -merge n x s1
  clear_value n x
  have k_s1 : Kept ws s₀ s1 := by
    unfold s1
    repeat' with_reducible first
      | assumption
      | intro _
      | apply Kept.ite
      | apply State.passVoids_kept hs_
      | apply State.putFld_kept q0
      | apply State.setSring_kept q1
      | apply Kept.foldl
      | split
      | extract_lets
  clear_value s1
  repeat' with_reducible first
    | assumption
    | intro _
    | apply Kept.ite
    | apply State.passVoids_kept hs_
    | apply State.putFld_kept q0
    | apply State.setSring_kept q1
    | apply Kept.foldl
    | split
    | extract_lets

theorem State.setCue_kept {ws : List Field} {s₀ s : State} (hs_ : Field.sub [.cueQs] ws = true) (site q : Nat) (hs : List Nat)
    (kh_ : Kept ws s₀ s) : Kept ws s₀ (State.setCue s site q hs) := by
  unfold State.setCue
  repeat' with_reducible first
    | assumption
    | intro _
    | apply Kept.ite
    | apply Kept.foldl
    | split
    | extract_lets
    | apply Kept.set_cueQs _ hs_

theorem State.setBflag_kept {ws : List Field} {s₀ s : State} (hs_ : Field.sub [.binFlags] ws = true) (site i v : Nat)
    (kh_ : Kept ws s₀ s) : Kept ws s₀ (State.setBflag s site i v) := by
  unfold State.setBflag
  repeat' with_reducible first
    | assumption
    | intro _
    | apply Kept.ite
    | apply Kept.foldl
    | split
    | extract_lets
    | apply Kept.set_binFlags _ hs_

theorem State.flagSet_kept {ws : List Field} {s₀ s : State} (hs_ : Field.sub [.binFlags] ws = true) (site i v epoch : Nat) (add : Bool)
    (kh_ : Kept ws s₀ s) : Kept ws s₀ (State.flagSet s site i v epoch add) := by
  unfold State.flagSet
  repeat' with_reducible first
    | assumption
    | intro _
    | apply Kept.ite
    | apply State.setBflag_kept hs_
    | apply Kept.foldl
    | split
    | extract_lets

theorem State.setSlate_kept {ws : List Field} {s₀ s : State} (hs_ : Field.sub [.slates] ws = true) (x : Slate)
    (kh_ : Kept ws s₀ s) : Kept ws s₀ (State.setSlate s x) := by
  unfold State.setSlate
  repeat' with_reducible first
    | assumption
    | intro _
    | apply Kept.ite
    | apply Kept.foldl
    | split
    | extract_lets
    | apply Kept.set_slates _ hs_

end Sys2Proof.Machine
end

