-- ==== Sys2Proof/Laws/KFrameOps.lean ====
section
/-!
SUPPORT. Laws/KFrameOps.lean: what each operation of Machine/FrameOps.lean may change, and that it keeps the canonical form.
-/
namespace Sys2Proof.Machine

theorem State.allocData_kept {ws : List Field} {s₀ s : State} (hs_ : Field.sub [.regs, .rings] ws = true) (d n : Nat)
    (kh_ : Kept ws s₀ s) : KeptOQ ws s₀ (State.allocData s d n) := by
  have q0 := Field.sub_trans (by decide : Field.sub [.regs] [.regs, .rings] = true) hs_
  have q1 := Field.sub_trans (by decide : Field.sub [.rings] [.regs, .rings] = true) hs_
  unfold State.allocData
  extract_lets -merge nx _
  clear_value nx
  repeat' with_reducible first
    | assumption
    | intro _
    | apply KeptOQ.ite
    | apply KeptOQ.some
    | exact KeptOQ.none
    | apply Kept.ite
    | apply State.setNat_kept q0
    | apply State.setRing_kept q1
    | apply Kept.foldl
    | split
    | extract_lets

theorem State.showRing_kept {ws : List Field} {s₀ s : State} (hs_ : Field.sub [.regs, .bar2, .out] ws = true) (d : Nat)
    (kh_ : Kept ws s₀ s) : Kept ws s₀ (State.showRing s d) := by
  have q0 := Field.sub_trans (by decide : Field.sub [.regs] [.regs, .bar2, .out] = true) hs_
  unfold State.showRing
  extract_lets -merge p stall
  clear_value p stall
  repeat' with_reducible first
    | assumption
    | intro _
    | apply Kept.ite
    | apply State.evtIf_kept hs_
    | apply State.setNat_kept q0
    | apply Kept.foldl
    | split
    | extract_lets

theorem State.openFrame_kept {ws : List Field} {s₀ s : State} (hs_ : Field.sub [.strms] ws = true) (site k l : Nat) (gap : Bool)
    (kh_ : Kept ws s₀ s) : Kept ws s₀ (State.openFrame s site k l gap) := by
  unfold State.openFrame
  extract_lets -merge x row n f
  clear_value x row n f
  repeat' with_reducible first
    | assumption
    | intro _
    | apply Kept.ite
    | apply State.setStrm_kept hs_
    | apply Kept.foldl
    | split
    | extract_lets

theorem State.closeFrame_kept {ws : List Field} {s₀ s : State} (hs_ : Field.sub [.strms] ws = true) (site k last : Nat)
    (kh_ : Kept ws s₀ s) : Kept ws s₀ (State.closeFrame s site k last) := by
  unfold State.closeFrame
  extract_lets -merge x
  clear_value x
  repeat' with_reducible first
    | assumption
    | intro _
    | apply Kept.ite
    | apply State.setStrm_kept hs_
    | apply Kept.foldl
    | split
    | extract_lets

theorem State.frameLine_kept {ws : List Field} {s₀ s : State} (hs_ : Field.sub [.regs, .bar2, .out, .strms] ws = true) (site k l : Nat) (afterGap : Bool)
    (kh_ : Kept ws s₀ s) : Kept ws s₀ (State.frameLine s site k l afterGap) := by
  have q0 := Field.sub_trans (by decide : Field.sub [.regs, .bar2, .out] [.regs, .bar2, .out, .strms] = true) hs_
  have q1 := Field.sub_trans (by decide : Field.sub [.strms] [.regs, .bar2, .out, .strms] = true) hs_
  unfold State.frameLine
  extract_lets -merge x org
  clear_value x org
  repeat' with_reducible first
    | assumption
    | intro _
    | apply Kept.ite
    | apply State.evt_kept q0
    | apply State.closeFrame_kept q1
    | apply State.openFrame_kept q1
    | apply Kept.foldl
    | split
    | extract_lets

theorem State.reserveLayers_kept {ws : List Field} {s₀ : State} (hs_ : Field.sub [.regs, .rings] ws = true) (site k d : Nat) : ∀ (defs : List LayerDef)
    {s : State}, Kept ws s₀ s → KeptOQ ws s₀ (s.reserveLayers site k d defs) := by
  have q0 : Field.sub [.regs, .rings] ws = true := Field.sub_trans (by decide) hs_
  intro defs
  induction defs with
  | nil => intro s h; exact KeptOQ.some h
  | cons l ls ih =>
    intro s h
    unfold State.reserveLayers
    split
    · split
      · exact KeptOQ.none
      · next e =>
        have h1 := KeptOQ.of (State.allocData_kept q0 _ _ h) e
        split
        · exact KeptOQ.none
        · next e2 => exact KeptOQ.some (KeptOQ.of (ih h1) e2)
    · split
      · exact KeptOQ.none
      · next e2 => exact KeptOQ.some (KeptOQ.of (ih h) e2)

theorem State.reserve_kept {ws : List Field} {s₀ s : State} (hs_ : Field.sub [.regs, .bar2, .out, .rings, .strms] ws = true) (site k : Nat)
    (kh_ : Kept ws s₀ s) : Kept ws s₀ (State.reserve s site k) := by
  have q0 := Field.sub_trans (by decide : Field.sub [.regs, .rings] [.regs, .bar2, .out, .rings, .strms] = true) hs_
  have q1 := Field.sub_trans (by decide : Field.sub [.regs, .bar2, .out] [.regs, .bar2, .out, .rings, .strms] = true) hs_
  have q2 := Field.sub_trans (by decide : Field.sub [.strms] [.regs, .bar2, .out, .rings, .strms] = true) hs_
  unfold State.reserve
  extract_lets -merge d
  clear_value d
  repeat' with_reducible first
    | assumption
    | intro _
    | apply Kept.ite
    | apply State.reserveLayers_kept q0
    | refine KeptOQ.of (State.reserveLayers_kept q0 _ _ _ _ ?_) ‹_›
    | apply State.showRing_kept q1
    | apply State.setStrm_kept q2
    | apply Kept.foldl
    | split
    | extract_lets

theorem State.heldAt_kept {ws : List Field} {s₀ s : State} (hs_ : Field.sub [.regs, .bar2, .out] ws = true) (site k line : Nat)
    (kh_ : Kept ws s₀ s) : Kept ws s₀ (State.heldAt s site k line) := by
  unfold State.heldAt
  repeat' with_reducible first
    | assumption
    | intro _
    | apply Kept.ite
    | apply State.evtIf_kept hs_
    | apply Kept.foldl
    | split
    | extract_lets

theorem State.showPipe_kept {ws : List Field} {s₀ s : State} (hs_ : Field.sub [.regs] ws = true) (site k : Nat)
    (kh_ : Kept ws s₀ s) : Kept ws s₀ (State.showPipe s site k) := by
  unfold State.showPipe
  extract_lets -merge x b stages bad mask held
  clear_value x b stages bad mask held
  repeat' with_reducible first
    | assumption
    | intro _
    | apply Kept.ite
    | apply State.setNat_kept hs_
    | apply Kept.foldl
    | split
    | extract_lets

end Sys2Proof.Machine
end

