-- ==== Sys2Proof/Laws/KTakeOps.lean ====
section
/-!
SUPPORT. Laws/KTakeOps.lean: what each operation of Machine/TakeOps.lean may change, and that it keeps the canonical form.
-/
namespace Sys2Proof.Machine

theorem State.setTq_kept {ws : List Field} {s₀ s : State} (hs_ : Field.sub [.tqs] ws = true) (t q : Nat) (x : TQ)
    (kh_ : Kept ws s₀ s) : Kept ws s₀ (State.setTq s t q x) := by
  unfold State.setTq
  repeat' with_reducible first
    | assumption
    | intro _
    | apply Kept.ite
    | apply Kept.foldl
    | split
    | extract_lets
    | apply Kept.set_tqs _ hs_

theorem State.setCore_kept {ws : List Field} {s₀ s : State} (hs_ : Field.sub [.cores] ws = true) (site c : Nat) (x : Core)
    (kh_ : Kept ws s₀ s) : Kept ws s₀ (State.setCore s site c x) := by
  unfold State.setCore
  repeat' with_reducible first
    | assumption
    | intro _
    | apply Kept.ite
    | apply Kept.foldl
    | split
    | extract_lets
    | apply Kept.set_cores _ hs_

theorem State.setDq_kept {ws : List Field} {s₀ s : State} (hs_ : Field.sub [.dqs] ws = true) (site c q : Nat) (x : DQ)
    (kh_ : Kept ws s₀ s) : Kept ws s₀ (State.setDq s site c q x) := by
  unfold State.setDq
  repeat' with_reducible first
    | assumption
    | intro _
    | apply Kept.ite
    | apply Kept.foldl
    | split
    | extract_lets
    | apply Kept.set_dqs _ hs_

theorem State.setCmb_kept {ws : List Field} {s₀ s : State} (hs_ : Field.sub [.cmbs] ws = true) (site b : Nat) (x : Cmb)
    (kh_ : Kept ws s₀ s) : Kept ws s₀ (State.setCmb s site b x) := by
  unfold State.setCmb
  repeat' with_reducible first
    | assumption
    | intro _
    | apply Kept.ite
    | apply Kept.foldl
    | split
    | extract_lets
    | apply Kept.set_cmbs _ hs_

theorem State.setEng_kept {ws : List Field} {s₀ s : State} (hs_ : Field.sub [.engs] ws = true) (site e : Nat) (x : Eng)
    (kh_ : Kept ws s₀ s) : Kept ws s₀ (State.setEng s site e x) := by
  unfold State.setEng
  repeat' with_reducible first
    | assumption
    | intro _
    | apply Kept.ite
    | apply Kept.foldl
    | split
    | extract_lets
    | apply Kept.set_engs _ hs_

theorem State.setTenant_kept {ws : List Field} {s₀ s : State} (hs_ : Field.sub [.tenants] ws = true) (t : Nat) (x : Tenant)
    (kh_ : Kept ws s₀ s) : Kept ws s₀ (State.setTenant s t x) := by
  unfold State.setTenant
  repeat' with_reducible first
    | assumption
    | intro _
    | apply Kept.ite
    | apply Kept.foldl
    | split
    | extract_lets
    | apply Kept.set_tenants _ hs_

theorem State.updEntry_kept {ws : List Field} {s₀ s : State} (hs_ : Field.sub [.tqs] ws = true) (t q n : Nat) (f : Entry → Entry)
    (kh_ : Kept ws s₀ s) : Kept ws s₀ (State.updEntry s t q n f) := by
  unfold State.updEntry
  extract_lets -merge x
  clear_value x
  repeat' with_reducible first
    | assumption
    | intro _
    | apply Kept.ite
    | apply State.setTq_kept hs_
    | apply Kept.foldl
    | split
    | extract_lets

theorem State.allocEpoch_kept {ws : List Field} {s₀ s : State} (hs_ : Field.sub [.regs, .slotRings, .cueQs, .binFlags, .cancels] ws = true) (site : Nat)
    (kh_ : Kept ws s₀ s) : Kept ws s₀ (State.allocEpoch s site).2 := by
  have q0 := Field.sub_trans (by decide : Field.sub [.regs, .slotRings] [.regs, .slotRings, .cueQs, .binFlags, .cancels] = true) hs_
  have q1 := Field.sub_trans (by decide : Field.sub [.regs] [.regs, .slotRings, .cueQs, .binFlags, .cancels] = true) hs_
  have q2 := Field.sub_trans (by decide : Field.sub [.cueQs] [.regs, .slotRings, .cueQs, .binFlags, .cancels] = true) hs_
  have q3 := Field.sub_trans (by decide : Field.sub [.binFlags] [.regs, .slotRings, .cueQs, .binFlags, .cancels] = true) hs_
  have q4 := Field.sub_trans (by decide : Field.sub [.cancels] [.regs, .slotRings, .cueQs, .binFlags, .cancels] = true) hs_
  unfold State.allocEpoch
  extract_lets -merge p c e onDie s1 s2
  clear_value p c e onDie
  have k_s1 : Kept ws s₀ s1 := by
    unfold s1
    repeat' with_reducible first
      | assumption
      | intro _
      | apply Kept.ite
      | apply State.discardSlots_kept q0
      | apply State.setNat_kept q1
      | apply Kept.foldl
      | split
      | extract_lets
      | apply Kept.set_cueQs_binFlags_cancels _ _ _ q2 q3 q4
      | apply Kept.set_cueQs_cancels _ _ q2 q4
  clear_value s1
  have k_s2 : Kept ws s₀ s2 := by
    unfold s2
    repeat' with_reducible first
      | assumption
      | intro _
      | apply Kept.ite
      | apply State.discardSlots_kept q0
      | apply State.setNat_kept q1
      | apply Kept.foldl
      | split
      | extract_lets
      | apply Kept.set_cueQs_binFlags_cancels _ _ _ q2 q3 q4
      | apply Kept.set_cueQs_cancels _ _ q2 q4
  clear_value s2
  repeat' with_reducible first
    | assumption
    | intro _
    | apply Kept.ite
    | apply State.discardSlots_kept q0
    | apply State.setNat_kept q1
    | apply Kept.foldl
    | split
    | extract_lets
    | apply Kept.set_cueQs_binFlags_cancels _ _ _ q2 q3 q4
    | apply Kept.set_cueQs_cancels _ _ q2 q4

theorem State.abandonEngs_kept {ws : List Field} {s₀ s : State} (hs_ : Field.sub [.regs, .bar2, .out, .slotRings, .engs] ws = true) (site e : Nat)
    (kh_ : Kept ws s₀ s) : Kept ws s₀ (State.abandonEngs s site e) := by
  have q0 := Field.sub_trans (by decide : Field.sub [.regs, .bar2, .out] [.regs, .bar2, .out, .slotRings, .engs] = true) hs_
  have q1 := Field.sub_trans (by decide : Field.sub [.regs, .slotRings] [.regs, .bar2, .out, .slotRings, .engs] = true) hs_
  have q2 := Field.sub_trans (by decide : Field.sub [.regs] [.regs, .bar2, .out, .slotRings, .engs] = true) hs_
  have q3 := Field.sub_trans (by decide : Field.sub [.engs] [.regs, .bar2, .out, .slotRings, .engs] = true) hs_
  unfold State.abandonEngs
  repeat' with_reducible first
    | assumption
    | intro _
    | apply Kept.ite
    | apply State.evt_kept q0
    | apply State.release_kept q1
    | apply State.putFld_kept q2
    | apply State.setEng_kept q3
    | apply Kept.foldl
    | split
    | extract_lets

theorem State.cancelOn_kept {ws : List Field} {s₀ s : State} (hs_ : Field.sub [.regs, .bar2, .out, .slotRings, .cancels, .engs] ws = true) (conf : Bool) (e : Nat) (dies : List Nat)
    (kh_ : Kept ws s₀ s) : Kept ws s₀ (State.cancelOn s conf e dies) := by
  have q0 := Field.sub_trans (by decide : Field.sub [.regs, .bar2, .out, .slotRings, .engs] [.regs, .bar2, .out, .slotRings, .cancels, .engs] = true) hs_
  have q1 := Field.sub_trans (by decide : Field.sub [.regs, .bar2, .out] [.regs, .bar2, .out, .slotRings, .cancels, .engs] = true) hs_
  have q2 := Field.sub_trans (by decide : Field.sub [.regs] [.regs, .bar2, .out, .slotRings, .cancels, .engs] = true) hs_
  have q3 := Field.sub_trans (by decide : Field.sub [.cancels] [.regs, .bar2, .out, .slotRings, .cancels, .engs] = true) hs_
  unfold State.cancelOn
  repeat' with_reducible first
    | assumption
    | intro _
    | apply Kept.ite
    | apply State.abandonEngs_kept q0
    | apply State.evt_kept q1
    | apply State.addSat_kept q2
    | apply Kept.foldl
    | split
    | extract_lets
    | apply Kept.set_cancels _ q3

theorem State.showCore_kept {ws : List Field} {s₀ s : State} (hs_ : Field.sub [.regs] ws = true) (site c : Nat)
    (kh_ : Kept ws s₀ s) : Kept ws s₀ (State.showCore s site c) := by
  unfold State.showCore
  extract_lets -merge x p
  clear_value x p
  repeat' with_reducible first
    | assumption
    | intro _
    | apply Kept.ite
    | apply State.setNat_kept hs_
    | apply Kept.foldl
    | split
    | extract_lets

theorem State.prof_kept {ws : List Field} {s₀ s : State} (hs_ : Field.sub [.regs] ws = true) (site phys i n : Nat)
    (kh_ : Kept ws s₀ s) : Kept ws s₀ (State.prof s site phys i n) := by
  unfold State.prof
  extract_lets -merge p conf
  clear_value p conf
  repeat' with_reducible first
    | assumption
    | intro _
    | apply Kept.ite
    | apply State.setWide_kept hs_
    | apply Kept.foldl
    | split
    | extract_lets

theorem State.coreWait_kept {ws : List Field} {s₀ s : State} (hs_ : Field.sub [.cores] ws = true) (site c : Nat)
    (kh_ : Kept ws s₀ s) : Kept ws s₀ (State.coreWait s site c) := by
  unfold State.coreWait
  extract_lets -merge x
  clear_value x
  repeat' with_reducible first
    | assumption
    | intro _
    | apply Kept.ite
    | apply State.setCore_kept hs_
    | apply Kept.foldl
    | split
    | extract_lets

theorem State.coreGo_kept {ws : List Field} {s₀ s : State} (hs_ : Field.sub [.regs, .cores] ws = true) (site c : Nat) (again : Bool)
    (kh_ : Kept ws s₀ s) : Kept ws s₀ (State.coreGo s site c again) := by
  have q0 := Field.sub_trans (by decide : Field.sub [.regs] [.regs, .cores] = true) hs_
  have q1 := Field.sub_trans (by decide : Field.sub [.cores] [.regs, .cores] = true) hs_
  unfold State.coreGo
  extract_lets -merge x
  clear_value x
  repeat' with_reducible first
    | assumption
    | intro _
    | apply Kept.ite
    | apply State.prof_kept q0
    | apply State.setCore_kept q1
    | apply Kept.foldl
    | split
    | extract_lets

theorem State.queueGo_kept {ws : List Field} {s₀ s : State} (hs_ : Field.sub [.regs, .dqs] ws = true) (site c q : Nat) (again : Bool)
    (kh_ : Kept ws s₀ s) : Kept ws s₀ (State.queueGo s site c q again) := by
  have q0 := Field.sub_trans (by decide : Field.sub [.regs] [.regs, .dqs] = true) hs_
  have q1 := Field.sub_trans (by decide : Field.sub [.dqs] [.regs, .dqs] = true) hs_
  unfold State.queueGo
  extract_lets -merge d s1
  clear_value d
  have k_s1 : Kept ws s₀ s1 := by
    unfold s1
    repeat' with_reducible first
      | assumption
      | intro _
      | apply Kept.ite
      | apply State.addSat_kept q0
      | apply State.setDq_kept q1
      | apply Kept.foldl
      | split
      | extract_lets
  clear_value s1
  repeat' with_reducible first
    | assumption
    | intro _
    | apply Kept.ite
    | apply State.addSat_kept q0
    | apply State.setDq_kept q1
    | apply Kept.foldl
    | split
    | extract_lets

theorem State.spend_kept {ws : List Field} {s₀ s : State} (hs_ : Field.sub [.buckets] ws = true) (y : Slate) (g k n : Nat)
    (kh_ : Kept ws s₀ s) : Kept ws s₀ (State.spend s y g k n) := by
  unfold State.spend
  repeat' with_reducible first
    | assumption
    | intro _
    | apply Kept.ite
    | apply Kept.foldl
    | split
    | extract_lets
    | apply Kept.set_buckets _ hs_

theorem State.settleBuckets_kept {ws : List Field} {s₀ s : State} (hs_ : Field.sub [.buckets] ws = true) (site : Nat)
    (kh_ : Kept ws s₀ s) : Kept ws s₀ (State.settleBuckets s site) := by
  unfold State.settleBuckets
  repeat' with_reducible first
    | assumption
    | intro _
    | apply Kept.ite
    | apply State.spend_kept hs_
    | apply Kept.foldl
    | split
    | extract_lets

theorem State.setMhz_kept {ws : List Field} {s₀ s : State} (hs_ : Field.sub [.regs, .dqs, .cores, .buckets] ws = true) (site mhz : Nat)
    (kh_ : Kept ws s₀ s) : Kept ws s₀ (State.setMhz s site mhz) := by
  have q0 := Field.sub_trans (by decide : Field.sub [.buckets] [.regs, .dqs, .cores, .buckets] = true) hs_
  have q1 := Field.sub_trans (by decide : Field.sub [.regs, .dqs] [.regs, .dqs, .cores, .buckets] = true) hs_
  have q2 := Field.sub_trans (by decide : Field.sub [.regs, .cores] [.regs, .dqs, .cores, .buckets] = true) hs_
  have q3 := Field.sub_trans (by decide : Field.sub [.regs] [.regs, .dqs, .cores, .buckets] = true) hs_
  unfold State.setMhz
  extract_lets -merge s1
  have k_s1 : Kept ws s₀ s1 := by
    unfold s1
    repeat' with_reducible first
      | assumption
      | intro _
      | apply Kept.ite
      | apply State.settleBuckets_kept q0
      | apply State.queueGo_kept q1
      | apply State.coreGo_kept q2
      | apply State.putFld_kept q3
      | apply Kept.foldl
      | split
      | extract_lets
  clear_value s1
  repeat' with_reducible first
    | assumption
    | intro _
    | apply Kept.ite
    | apply State.settleBuckets_kept q0
    | apply State.queueGo_kept q1
    | apply State.coreGo_kept q2
    | apply State.putFld_kept q3
    | apply Kept.foldl
    | split
    | extract_lets

theorem State.landFlights_kept {ws : List Field} {s₀ s : State} (hs_ : Field.sub [.ram, .hmem, .poison] ws = true) (t : Nat) (fs : List Xfer)
    (kh_ : Kept ws s₀ s) : Kept ws s₀ (State.landFlights s t fs) := by
  have q0 := Field.sub_trans (by decide : Field.sub [.ram, .poison] [.ram, .hmem, .poison] = true) hs_
  have q1 := Field.sub_trans (by decide : Field.sub [.hmem] [.ram, .hmem, .poison] = true) hs_
  unfold State.landFlights
  repeat' with_reducible first
    | assumption
    | intro _
    | apply Kept.ite
    | apply State.ramWrite_kept q0
    | apply State.hmemPut_kept q1
    | apply Kept.foldl
    | split
    | extract_lets

theorem State.showInflight_kept {ws : List Field} {s₀ s : State} (hs_ : Field.sub [.regs, .bar2, .out] ws = true) (site : Nat)
    (kh_ : Kept ws s₀ s) : Kept ws s₀ (State.showInflight s site) := by
  have q0 := Field.sub_trans (by decide : Field.sub [.regs] [.regs, .bar2, .out] = true) hs_
  unfold State.showInflight
  extract_lets -merge open_ n p
  clear_value open_ n p
  repeat' with_reducible first
    | assumption
    | intro _
    | apply Kept.ite
    | apply State.evtIf_kept hs_
    | apply State.putFld_kept q0
    | apply Kept.foldl
    | split
    | extract_lets

theorem State.showDq_kept {ws : List Field} {s₀ s : State} (hs_ : Field.sub [.regs] ws = true) (site c q : Nat)
    (kh_ : Kept ws s₀ s) : Kept ws s₀ (State.showDq s site c q) := by
  unfold State.showDq
  extract_lets -merge x a
  clear_value x a
  repeat' with_reducible first
    | assumption
    | intro _
    | apply Kept.ite
    | apply State.setNat_kept hs_
    | apply Kept.foldl
    | split
    | extract_lets

theorem State.restartCore_kept {ws : List Field} {s₀ s : State} (hs_ : Field.sub [.regs, .cores] ws = true) (w : Work) (c : Nat × Nat × Nat)
    (kh_ : Kept ws s₀ s) : Kept ws s₀ (State.restartCore s w c) := by
  have q0 := Field.sub_trans (by decide : Field.sub [.regs] [.regs, .cores] = true) hs_
  have q1 := Field.sub_trans (by decide : Field.sub [.cores] [.regs, .cores] = true) hs_
  unfold State.restartCore
  extract_lets -merge s_1
  have k_s_1 : Kept ws s₀ s_1 := by
    unfold s_1
    repeat' with_reducible first
      | assumption
      | intro _
      | apply Kept.ite
      | apply State.coreGo_kept hs_
      | apply State.showCore_kept q0
      | apply State.setCore_kept q1
      | apply Kept.foldl
      | split
      | extract_lets
  clear_value s_1
  repeat' with_reducible first
    | assumption
    | intro _
    | apply Kept.ite
    | apply State.coreGo_kept hs_
    | apply State.showCore_kept q0
    | apply State.setCore_kept q1
    | apply Kept.foldl
    | split
    | extract_lets

theorem State.freeCore_kept {ws : List Field} {s₀ s : State} (hs_ : Field.sub [.regs, .bar2, .out, .ram, .hmem, .slotRings, .dqs, .cores, .poison] ws = true) (site c : Nat)
    (kh_ : Kept ws s₀ s) : Kept ws s₀ (State.freeCore s site c) := by
  have q0 := Field.sub_trans (by decide : Field.sub [.regs] [.regs, .bar2, .out, .ram, .hmem, .slotRings, .dqs, .cores, .poison] = true) hs_
  have q1 := Field.sub_trans (by decide : Field.sub [.regs, .bar2, .out] [.regs, .bar2, .out, .ram, .hmem, .slotRings, .dqs, .cores, .poison] = true) hs_
  have q2 := Field.sub_trans (by decide : Field.sub [.ram, .hmem, .poison] [.regs, .bar2, .out, .ram, .hmem, .slotRings, .dqs, .cores, .poison] = true) hs_
  have q3 := Field.sub_trans (by decide : Field.sub [.dqs] [.regs, .bar2, .out, .ram, .hmem, .slotRings, .dqs, .cores, .poison] = true) hs_
  have q4 := Field.sub_trans (by decide : Field.sub [.slotRings] [.regs, .bar2, .out, .ram, .hmem, .slotRings, .dqs, .cores, .poison] = true) hs_
  have q5 := Field.sub_trans (by decide : Field.sub [.cores] [.regs, .bar2, .out, .ram, .hmem, .slotRings, .dqs, .cores, .poison] = true) hs_
  unfold State.freeCore
  extract_lets -merge x w s1 s2 last s3 s4
  clear_value x w last
  have k_s1 : Kept ws s₀ s1 := by
    unfold s1
    repeat' with_reducible first
      | assumption
      | intro _
      | apply Kept.ite
      | apply State.showDq_kept q0
      | apply State.showInflight_kept q1
      | apply State.landFlights_kept q2
      | apply State.showCore_kept q0
      | apply State.setSt_kept q1
      | apply State.setNat_kept q0
      | apply State.putBit_kept q0
      | apply State.setDq_kept q3
      | apply State.setSring_kept q4
      | apply State.setCore_kept q5
      | apply Kept.foldl
      | split
      | extract_lets
  clear_value s1
  have k_s2 : Kept ws s₀ s2 := by
    unfold s2
    repeat' with_reducible first
      | assumption
      | intro _
      | apply Kept.ite
      | apply State.showDq_kept q0
      | apply State.showInflight_kept q1
      | apply State.landFlights_kept q2
      | apply State.showCore_kept q0
      | apply State.setSt_kept q1
      | apply State.setNat_kept q0
      | apply State.putBit_kept q0
      | apply State.setDq_kept q3
      | apply State.setSring_kept q4
      | apply State.setCore_kept q5
      | apply Kept.foldl
      | split
      | extract_lets
  clear_value s2
  have k_s3 : Kept ws s₀ s3 := by
    unfold s3
    repeat' with_reducible first
      | assumption
      | intro _
      | apply Kept.ite
      | apply State.showDq_kept q0
      | apply State.showInflight_kept q1
      | apply State.landFlights_kept q2
      | apply State.showCore_kept q0
      | apply State.setSt_kept q1
      | apply State.setNat_kept q0
      | apply State.putBit_kept q0
      | apply State.setDq_kept q3
      | apply State.setSring_kept q4
      | apply State.setCore_kept q5
      | apply Kept.foldl
      | split
      | extract_lets
  clear_value s3
  have k_s4 : Kept ws s₀ s4 := by
    unfold s4
    repeat' with_reducible first
      | assumption
      | intro _
      | apply Kept.ite
      | apply State.showDq_kept q0
      | apply State.showInflight_kept q1
      | apply State.landFlights_kept q2
      | apply State.showCore_kept q0
      | apply State.setSt_kept q1
      | apply State.setNat_kept q0
      | apply State.putBit_kept q0
      | apply State.setDq_kept q3
      | apply State.setSring_kept q4
      | apply State.setCore_kept q5
      | apply Kept.foldl
      | split
      | extract_lets
  clear_value s4
  repeat' with_reducible first
    | assumption
    | intro _
    | apply Kept.ite
    | apply State.showDq_kept q0
    | apply State.showInflight_kept q1
    | apply State.landFlights_kept q2
    | apply State.showCore_kept q0
    | apply State.setSt_kept q1
    | apply State.setNat_kept q0
    | apply State.putBit_kept q0
    | apply State.setDq_kept q3
    | apply State.setSring_kept q4
    | apply State.setCore_kept q5
    | apply Kept.foldl
    | split
    | extract_lets

theorem State.showCmb_kept {ws : List Field} {s₀ s : State} (hs_ : Field.sub [.regs] ws = true) (site b : Nat)
    (kh_ : Kept ws s₀ s) : Kept ws s₀ (State.showCmb s site b) := by
  unfold State.showCmb
  extract_lets -merge x p
  clear_value x p
  repeat' with_reducible first
    | assumption
    | intro _
    | apply Kept.ite
    | apply State.setNat_kept hs_
    | apply Kept.foldl
    | split
    | extract_lets

theorem State.keepNodes_kept {ws : List Field} {s₀ s : State} (hs_ : Field.sub [.regs, .bar2, .out, .cmbs] ws = true) (keep : Node → Bool)
    (kh_ : Kept ws s₀ s) : Kept ws s₀ (State.keepNodes s keep) := by
  have q0 := Field.sub_trans (by decide : Field.sub [.regs] [.regs, .bar2, .out, .cmbs] = true) hs_
  have q1 := Field.sub_trans (by decide : Field.sub [.regs, .bar2, .out] [.regs, .bar2, .out, .cmbs] = true) hs_
  have q2 := Field.sub_trans (by decide : Field.sub [.cmbs] [.regs, .bar2, .out, .cmbs] = true) hs_
  unfold State.keepNodes
  repeat' with_reducible first
    | assumption
    | intro _
    | apply Kept.ite
    | apply State.showCmb_kept q0
    | apply State.setSt_kept q1
    | apply State.setCmb_kept q2
    | apply Kept.foldl
    | split
    | extract_lets

theorem State.dropNodes_kept {ws : List Field} {s₀ s : State} (hs_ : Field.sub [.regs, .bar2, .out, .cmbs] ws = true) (w : Work)
    (kh_ : Kept ws s₀ s) : Kept ws s₀ (State.dropNodes s w) := by
  unfold State.dropNodes
  repeat' with_reducible first
    | assumption
    | intro _
    | apply Kept.ite
    | apply State.keepNodes_kept hs_
    | apply Kept.foldl
    | split
    | extract_lets

theorem State.fences_kept {ws : List Field} {s₀ s : State} (hs_ : Field.sub [.tqs] ws = true) (t q : Nat)
    (kh_ : Kept ws s₀ s) : Kept ws s₀ (State.fences s t q) := by
  unfold State.fences
  extract_lets -merge x
  clear_value x
  repeat' with_reducible first
    | assumption
    | intro _
    | apply Kept.ite
    | apply State.setTq_kept hs_
    | apply Kept.foldl
    | split
    | extract_lets

theorem State.showHalt_kept {ws : List Field} {s₀ s : State} (hs_ : Field.sub [.regs, .back, .bar2, .out] ws = true) (t q : Nat)
    (kh_ : Kept ws s₀ s) : Kept ws s₀ (State.showHalt s t q) := by
  have q0 := Field.sub_trans (by decide : Field.sub [.regs] [.regs, .back, .bar2, .out] = true) hs_
  unfold State.showHalt
  extract_lets -merge p
  clear_value p
  repeat' with_reducible first
    | assumption
    | intro _
    | apply Kept.ite
    | apply State.unhalt_kept hs_
    | apply State.halt_kept hs_
    | apply State.putBit_kept q0
    | apply Kept.foldl
    | split
    | extract_lets

theorem State.showPass_kept {ws : List Field} {s₀ s : State} (hs_ : Field.sub [.regs, .bar2, .out] ws = true)
    (kh_ : Kept ws s₀ s) : Kept ws s₀ (State.showPass s) := by
  have q0 := Field.sub_trans (by decide : Field.sub [.regs] [.regs, .bar2, .out] = true) hs_
  unfold State.showPass
  repeat' with_reducible first
    | assumption
    | intro _
    | apply Kept.ite
    | apply State.evtIf_kept hs_
    | apply State.setNat_kept q0
    | apply State.putBit_kept q0
    | apply State.putFld_kept q0
    | apply Kept.foldl
    | split
    | extract_lets

theorem State.dropPass_kept {ws : List Field} {s₀ s : State} (hs_ : Field.sub [.regs, .bar2, .out, .sched] ws = true)
    (kh_ : Kept ws s₀ s) : Kept ws s₀ (State.dropPass s) := by
  have q0 := Field.sub_trans (by decide : Field.sub [.regs, .bar2, .out] [.regs, .bar2, .out, .sched] = true) hs_
  have q1 := Field.sub_trans (by decide : Field.sub [.sched] [.regs, .bar2, .out, .sched] = true) hs_
  unfold State.dropPass
  extract_lets -merge _
  repeat' with_reducible first
    | assumption
    | intro _
    | apply Kept.ite
    | apply State.showPass_kept q0
    | apply Kept.foldl
    | split
    | extract_lets
    | apply Kept.set_sched _ q1

theorem State.endTake_kept {ws : List Field} {s₀ s : State} (hs_ : Field.sub [.regs, .back, .bar2, .out, .ram, .hmem, .slotRings, .cancels, .tqs, .sched, .dqs, .cores, .cmbs, .engs, .mmus, .poison] ws = true) (t q n status : Nat) (detail : Option Nat)
    (kh_ : Kept ws s₀ s) : Kept ws s₀ (State.endTake s t q n status detail) := by
  have q0 := Field.sub_trans (by decide : Field.sub [.regs, .bar2, .out, .sched] [.regs, .back, .bar2, .out, .ram, .hmem, .slotRings, .cancels, .tqs, .sched, .dqs, .cores, .cmbs, .engs, .mmus, .poison] = true) hs_
  have q1 := Field.sub_trans (by decide : Field.sub [.regs, .back, .bar2, .out] [.regs, .back, .bar2, .out, .ram, .hmem, .slotRings, .cancels, .tqs, .sched, .dqs, .cores, .cmbs, .engs, .mmus, .poison] = true) hs_
  have q2 := Field.sub_trans (by decide : Field.sub [.tqs] [.regs, .back, .bar2, .out, .ram, .hmem, .slotRings, .cancels, .tqs, .sched, .dqs, .cores, .cmbs, .engs, .mmus, .poison] = true) hs_
  have q3 := Field.sub_trans (by decide : Field.sub [.regs, .bar2, .out, .cmbs] [.regs, .back, .bar2, .out, .ram, .hmem, .slotRings, .cancels, .tqs, .sched, .dqs, .cores, .cmbs, .engs, .mmus, .poison] = true) hs_
  have q4 := Field.sub_trans (by decide : Field.sub [.regs, .bar2, .out, .ram, .hmem, .slotRings, .dqs, .cores, .poison] [.regs, .back, .bar2, .out, .ram, .hmem, .slotRings, .cancels, .tqs, .sched, .dqs, .cores, .cmbs, .engs, .mmus, .poison] = true) hs_
  have q5 := Field.sub_trans (by decide : Field.sub [.regs, .back, .bar2, .out, .mmus] [.regs, .back, .bar2, .out, .ram, .hmem, .slotRings, .cancels, .tqs, .sched, .dqs, .cores, .cmbs, .engs, .mmus, .poison] = true) hs_
  have q6 := Field.sub_trans (by decide : Field.sub [.regs, .cores] [.regs, .back, .bar2, .out, .ram, .hmem, .slotRings, .cancels, .tqs, .sched, .dqs, .cores, .cmbs, .engs, .mmus, .poison] = true) hs_
  have q7 := Field.sub_trans (by decide : Field.sub [.regs, .bar2, .out, .slotRings, .cancels, .engs] [.regs, .back, .bar2, .out, .ram, .hmem, .slotRings, .cancels, .tqs, .sched, .dqs, .cores, .cmbs, .engs, .mmus, .poison] = true) hs_
  unfold State.endTake
  extract_lets -merge w
  clear_value w
  repeat' with_reducible first
    | assumption
    | intro _
    | apply Kept.ite
    | apply State.dropPass_kept q0
    | apply State.showHalt_kept q1
    | apply State.fences_kept q2
    | apply State.dropNodes_kept q3
    | apply State.freeCore_kept q4
    | apply State.dropUnits_kept q5
    | apply State.coreGo_kept q6
    | apply State.cancelOn_kept q7
    | apply State.updEntry_kept q2
    | apply Kept.foldl
    | split
    | extract_lets

theorem State.faultStage_kept {ws : List Field} {s₀ s : State} (hs_ : Field.sub [.regs, .back, .bar2, .out, .ram, .hmem, .slotRings, .slates, .cancels, .dqs, .cores, .cmbs, .engs, .mmus, .poison] ws = true) (h : Nat)
    (kh_ : Kept ws s₀ s) : Kept ws s₀ (State.faultStage s h) := by
  have q0 := Field.sub_trans (by decide : Field.sub [.regs, .bar2, .out, .cmbs] [.regs, .back, .bar2, .out, .ram, .hmem, .slotRings, .slates, .cancels, .dqs, .cores, .cmbs, .engs, .mmus, .poison] = true) hs_
  have q1 := Field.sub_trans (by decide : Field.sub [.regs, .cores] [.regs, .back, .bar2, .out, .ram, .hmem, .slotRings, .slates, .cancels, .dqs, .cores, .cmbs, .engs, .mmus, .poison] = true) hs_
  have q2 := Field.sub_trans (by decide : Field.sub [.regs] [.regs, .back, .bar2, .out, .ram, .hmem, .slotRings, .slates, .cancels, .dqs, .cores, .cmbs, .engs, .mmus, .poison] = true) hs_
  have q3 := Field.sub_trans (by decide : Field.sub [.ram, .hmem, .poison] [.regs, .back, .bar2, .out, .ram, .hmem, .slotRings, .slates, .cancels, .dqs, .cores, .cmbs, .engs, .mmus, .poison] = true) hs_
  have q4 := Field.sub_trans (by decide : Field.sub [.regs, .back, .bar2, .out, .mmus] [.regs, .back, .bar2, .out, .ram, .hmem, .slotRings, .slates, .cancels, .dqs, .cores, .cmbs, .engs, .mmus, .poison] = true) hs_
  have q5 := Field.sub_trans (by decide : Field.sub [.regs, .bar2, .out, .slotRings, .cancels, .engs] [.regs, .back, .bar2, .out, .ram, .hmem, .slotRings, .slates, .cancels, .dqs, .cores, .cmbs, .engs, .mmus, .poison] = true) hs_
  have q6 := Field.sub_trans (by decide : Field.sub [.regs, .bar2, .out] [.regs, .back, .bar2, .out, .ram, .hmem, .slotRings, .slates, .cancels, .dqs, .cores, .cmbs, .engs, .mmus, .poison] = true) hs_
  have q7 := Field.sub_trans (by decide : Field.sub [.slates] [.regs, .back, .bar2, .out, .ram, .hmem, .slotRings, .slates, .cancels, .dqs, .cores, .cmbs, .engs, .mmus, .poison] = true) hs_
  have q8 := Field.sub_trans (by decide : Field.sub [.dqs] [.regs, .back, .bar2, .out, .ram, .hmem, .slotRings, .slates, .cancels, .dqs, .cores, .cmbs, .engs, .mmus, .poison] = true) hs_
  unfold State.faultStage
  extract_lets -merge w
  clear_value w
  repeat' with_reducible first
    | assumption
    | intro _
    | apply Kept.ite
    | apply State.dropNodes_kept q0
    | apply State.restartCore_kept q1
    | apply State.showDq_kept q2
    | apply State.landFlights_kept q3
    | apply State.dropUnits_kept q4
    | apply State.showPipe_kept q2
    | apply State.cancelOn_kept q5
    | apply State.evt_kept q6
    | apply State.setSlate_kept q7
    | apply State.setNat_kept q2
    | apply State.setDq_kept q8
    | apply Kept.foldl
    | split
    | extract_lets

theorem State.contained_kept {ws : List Field} {s₀ s : State} (hs_ : Field.sub [.regs, .back, .bar2, .out, .ram, .hmem, .slotRings, .slates, .cancels, .tqs, .sched, .dqs, .cores, .cmbs, .engs, .mmus, .poison] ws = true) (w : Work) (code : Nat)
    (kh_ : Kept ws s₀ s) : Kept ws s₀ (State.contained s w code) := by
  have q0 := Field.sub_trans (by decide : Field.sub [.regs, .back, .bar2, .out, .ram, .hmem, .slotRings, .slates, .cancels, .dqs, .cores, .cmbs, .engs, .mmus, .poison] [.regs, .back, .bar2, .out, .ram, .hmem, .slotRings, .slates, .cancels, .tqs, .sched, .dqs, .cores, .cmbs, .engs, .mmus, .poison] = true) hs_
  have q1 := Field.sub_trans (by decide : Field.sub [.regs, .back, .bar2, .out, .ram, .hmem, .slotRings, .cancels, .tqs, .sched, .dqs, .cores, .cmbs, .engs, .mmus, .poison] [.regs, .back, .bar2, .out, .ram, .hmem, .slotRings, .slates, .cancels, .tqs, .sched, .dqs, .cores, .cmbs, .engs, .mmus, .poison] = true) hs_
  unfold State.contained
  repeat' with_reducible first
    | assumption
    | intro _
    | apply Kept.ite
    | apply State.faultStage_kept q0
    | apply State.endTake_kept q1
    | apply Kept.foldl
    | split
    | extract_lets

theorem State.eatPoison_kept {ws : List Field} {s₀ s : State} (hs_ : Field.sub [.regs, .back, .bar2, .out, .ram, .hmem, .slotRings, .slates, .cancels, .tqs, .sched, .dqs, .cores, .cmbs, .engs, .mmus, .poison] ws = true) (site : Nat) (w : Work) (sp a : Nat)
    (kh_ : Kept ws s₀ s) : Kept ws s₀ (State.eatPoison s site w sp a) := by
  have q0 := Field.sub_trans (by decide : Field.sub [.regs, .bar2, .out] [.regs, .back, .bar2, .out, .ram, .hmem, .slotRings, .slates, .cancels, .tqs, .sched, .dqs, .cores, .cmbs, .engs, .mmus, .poison] = true) hs_
  unfold State.eatPoison
  extract_lets -merge r
  clear_value r
  repeat' with_reducible first
    | assumption
    | intro _
    | apply Kept.ite
    | apply State.contained_kept hs_
    | apply State.consumePoison_kept q0
    | apply Kept.foldl
    | split
    | extract_lets

theorem State.freshBnd_kept {ws : List Field} {s₀ s : State} (hs_ : Field.sub [.bndTaken] ws = true) (w : Work)
    (kh_ : Kept ws s₀ s) : Kept ws s₀ (State.freshBnd s w) := by
  unfold State.freshBnd
  repeat' with_reducible first
    | assumption
    | intro _
    | apply Kept.ite
    | apply Kept.foldl
    | split
    | extract_lets
    | apply Kept.set_bndTaken _ hs_

theorem State.boundFault_kept {ws : List Field} {s₀ s : State} (hs_ : Field.sub [.regs, .back, .bar2, .out, .ram, .hmem, .slotRings, .slates, .cancels, .tqs, .sched, .dqs, .cores, .cmbs, .engs, .mmus, .poison, .bndTaken, .free] ws = true) (site kind unit unitNo : Nat) (w : Work) (op addr limit : Nat)
    (kh_ : Kept ws s₀ s) : Kept ws s₀ (State.boundFault s site kind unit unitNo w op addr limit) := by
  have q0 := Field.sub_trans (by decide : Field.sub [.regs, .back, .bar2, .out, .ram, .hmem, .slotRings, .slates, .cancels, .dqs, .cores, .cmbs, .engs, .mmus, .poison] [.regs, .back, .bar2, .out, .ram, .hmem, .slotRings, .slates, .cancels, .tqs, .sched, .dqs, .cores, .cmbs, .engs, .mmus, .poison, .bndTaken, .free] = true) hs_
  have q1 := Field.sub_trans (by decide : Field.sub [.regs, .back, .bar2, .out, .ram, .hmem, .slotRings, .cancels, .tqs, .sched, .dqs, .cores, .cmbs, .engs, .mmus, .poison] [.regs, .back, .bar2, .out, .ram, .hmem, .slotRings, .slates, .cancels, .tqs, .sched, .dqs, .cores, .cmbs, .engs, .mmus, .poison, .bndTaken, .free] = true) hs_
  have q2 := Field.sub_trans (by decide : Field.sub [.regs, .bar2, .out] [.regs, .back, .bar2, .out, .ram, .hmem, .slotRings, .slates, .cancels, .tqs, .sched, .dqs, .cores, .cmbs, .engs, .mmus, .poison, .bndTaken, .free] = true) hs_
  have q3 := Field.sub_trans (by decide : Field.sub [.regs] [.regs, .back, .bar2, .out, .ram, .hmem, .slotRings, .slates, .cancels, .tqs, .sched, .dqs, .cores, .cmbs, .engs, .mmus, .poison, .bndTaken, .free] = true) hs_
  have q4 := Field.sub_trans (by decide : Field.sub [.bndTaken] [.regs, .back, .bar2, .out, .ram, .hmem, .slotRings, .slates, .cancels, .tqs, .sched, .dqs, .cores, .cmbs, .engs, .mmus, .poison, .bndTaken, .free] = true) hs_
  have q5 := Field.sub_trans (by decide : Field.sub [.free] [.regs, .back, .bar2, .out, .ram, .hmem, .slotRings, .slates, .cancels, .tqs, .sched, .dqs, .cores, .cmbs, .engs, .mmus, .poison, .bndTaken, .free] = true) hs_
  unfold State.boundFault
  extract_lets -merge p t conf h next a sq z words s1 s2 others s3
  clear_value p t conf h next a sq z words others
  have k_s1 : Kept ws s₀ s1 := by
    unfold s1
    repeat' with_reducible first
      | assumption
      | intro _
      | apply Kept.ite
      | apply State.faultStage_kept q0
      | apply State.endTake_kept q1
      | apply State.evt_kept q2
      | apply State.setNat_kept q3
      | apply State.putFld_kept q3
      | apply Kept.foldl
      | split
      | extract_lets
      | apply Kept.set_bndTaken_free _ _ q4 q5
  clear_value s1
  have k_s2 : Kept ws s₀ s2 := by
    unfold s2
    repeat' with_reducible first
      | assumption
      | intro _
      | apply Kept.ite
      | apply State.faultStage_kept q0
      | apply State.endTake_kept q1
      | apply State.evt_kept q2
      | apply State.setNat_kept q3
      | apply State.putFld_kept q3
      | apply Kept.foldl
      | split
      | extract_lets
      | apply Kept.set_bndTaken_free _ _ q4 q5
  clear_value s2
  have k_s3 : Kept ws s₀ s3 := by
    unfold s3
    repeat' with_reducible first
      | assumption
      | intro _
      | apply Kept.ite
      | apply State.faultStage_kept q0
      | apply State.endTake_kept q1
      | apply State.evt_kept q2
      | apply State.setNat_kept q3
      | apply State.putFld_kept q3
      | apply Kept.foldl
      | split
      | extract_lets
      | apply Kept.set_bndTaken_free _ _ q4 q5
  clear_value s3
  repeat' with_reducible first
    | assumption
    | intro _
    | apply Kept.ite
    | apply State.faultStage_kept q0
    | apply State.endTake_kept q1
    | apply State.evt_kept q2
    | apply State.setNat_kept q3
    | apply State.putFld_kept q3
    | apply Kept.foldl
    | split
    | extract_lets
    | apply Kept.set_bndTaken_free _ _ q4 q5

theorem State.haltWork_kept {ws : List Field} {s₀ s : State} (hs_ : Field.sub [.regs, .back, .bar2, .out, .slates, .tqs] ws = true) (w : Work)
    (kh_ : Kept ws s₀ s) : Kept ws s₀ (State.haltWork s w) := by
  have q0 := Field.sub_trans (by decide : Field.sub [.regs, .back, .bar2, .out] [.regs, .back, .bar2, .out, .slates, .tqs] = true) hs_
  have q1 := Field.sub_trans (by decide : Field.sub [.regs, .bar2, .out] [.regs, .back, .bar2, .out, .slates, .tqs] = true) hs_
  have q2 := Field.sub_trans (by decide : Field.sub [.slates] [.regs, .back, .bar2, .out, .slates, .tqs] = true) hs_
  have q3 := Field.sub_trans (by decide : Field.sub [.tqs] [.regs, .back, .bar2, .out, .slates, .tqs] = true) hs_
  unfold State.haltWork
  extract_lets -merge s1
  have k_s1 : Kept ws s₀ s1 := by
    unfold s1
    repeat' with_reducible first
      | assumption
      | intro _
      | apply Kept.ite
      | apply State.showHalt_kept q0
      | apply State.setSt_kept q1
      | apply State.setSlate_kept q2
      | apply State.updEntry_kept q3
      | apply Kept.foldl
      | split
      | extract_lets
  clear_value s1
  repeat' with_reducible first
    | assumption
    | intro _
    | apply Kept.ite
    | apply State.showHalt_kept q0
    | apply State.setSt_kept q1
    | apply State.setSlate_kept q2
    | apply State.updEntry_kept q3
    | apply Kept.foldl
    | split
    | extract_lets

theorem State.unhaltWork_kept {ws : List Field} {s₀ s : State} (hs_ : Field.sub [.regs, .back, .bar2, .out, .slates, .tqs] ws = true) (w : Work)
    (kh_ : Kept ws s₀ s) : Kept ws s₀ (State.unhaltWork s w) := by
  have q0 := Field.sub_trans (by decide : Field.sub [.regs, .back, .bar2, .out] [.regs, .back, .bar2, .out, .slates, .tqs] = true) hs_
  have q1 := Field.sub_trans (by decide : Field.sub [.regs, .bar2, .out] [.regs, .back, .bar2, .out, .slates, .tqs] = true) hs_
  have q2 := Field.sub_trans (by decide : Field.sub [.slates] [.regs, .back, .bar2, .out, .slates, .tqs] = true) hs_
  have q3 := Field.sub_trans (by decide : Field.sub [.tqs] [.regs, .back, .bar2, .out, .slates, .tqs] = true) hs_
  unfold State.unhaltWork
  extract_lets -merge s1
  have k_s1 : Kept ws s₀ s1 := by
    unfold s1
    repeat' with_reducible first
      | assumption
      | intro _
      | apply Kept.ite
      | apply State.showHalt_kept q0
      | apply State.setSt_kept q1
      | apply State.setSlate_kept q2
      | apply State.updEntry_kept q3
      | apply Kept.foldl
      | split
      | extract_lets
  clear_value s1
  repeat' with_reducible first
    | assumption
    | intro _
    | apply Kept.ite
    | apply State.showHalt_kept q0
    | apply State.setSt_kept q1
    | apply State.setSlate_kept q2
    | apply State.updEntry_kept q3
    | apply Kept.foldl
    | split
    | extract_lets

theorem State.pageStop_kept {ws : List Field} {s₀ s : State} (hs_ : Field.sub [.regs, .back, .bar2, .out, .ram, .hmem, .slotRings, .slates, .cancels, .tqs, .sched, .dqs, .cores, .cmbs, .engs, .mmus, .poison] ws = true) (w : Work) (kind site unit ta : Nat) (write : Bool) (a : Walk)
    (kh_ : Kept ws s₀ s) : Kept ws s₀ (State.pageStop s w kind site unit ta write a) := by
  have q0 := Field.sub_trans (by decide : Field.sub [.regs, .back, .bar2, .out, .slates, .tqs] [.regs, .back, .bar2, .out, .ram, .hmem, .slotRings, .slates, .cancels, .tqs, .sched, .dqs, .cores, .cmbs, .engs, .mmus, .poison] = true) hs_
  have q1 := Field.sub_trans (by decide : Field.sub [.regs, .back, .bar2, .out, .mmus] [.regs, .back, .bar2, .out, .ram, .hmem, .slotRings, .slates, .cancels, .tqs, .sched, .dqs, .cores, .cmbs, .engs, .mmus, .poison] = true) hs_
  unfold State.pageStop
  extract_lets -merge sq
  clear_value sq
  repeat' with_reducible first
    | assumption
    | intro _
    | apply Kept.ite
    | apply State.haltWork_kept q0
    | apply State.contained_kept hs_
    | apply State.haltUnit_kept q1
    | apply Kept.foldl
    | split
    | extract_lets

theorem State.dropSlate_kept {ws : List Field} {s₀ s : State} (hs_ : Field.sub [.regs, .back, .bar2, .out, .ram, .hmem, .slotRings, .cueQs, .binFlags, .slates, .dqs, .cores, .cmbs, .engs, .mmus, .poison, .bndTaken] ws = true) (h : Nat)
    (kh_ : Kept ws s₀ s) : Kept ws s₀ (State.dropSlate s h) := by
  have q0 := Field.sub_trans (by decide : Field.sub [.regs, .bar2, .out, .cmbs] [.regs, .back, .bar2, .out, .ram, .hmem, .slotRings, .cueQs, .binFlags, .slates, .dqs, .cores, .cmbs, .engs, .mmus, .poison, .bndTaken] = true) hs_
  have q1 := Field.sub_trans (by decide : Field.sub [.regs, .bar2, .out, .ram, .hmem, .slotRings, .dqs, .cores, .poison] [.regs, .back, .bar2, .out, .ram, .hmem, .slotRings, .cueQs, .binFlags, .slates, .dqs, .cores, .cmbs, .engs, .mmus, .poison, .bndTaken] = true) hs_
  have q2 := Field.sub_trans (by decide : Field.sub [.regs, .back, .bar2, .out, .mmus] [.regs, .back, .bar2, .out, .ram, .hmem, .slotRings, .cueQs, .binFlags, .slates, .dqs, .cores, .cmbs, .engs, .mmus, .poison, .bndTaken] = true) hs_
  have q3 := Field.sub_trans (by decide : Field.sub [.regs, .bar2, .out] [.regs, .back, .bar2, .out, .ram, .hmem, .slotRings, .cueQs, .binFlags, .slates, .dqs, .cores, .cmbs, .engs, .mmus, .poison, .bndTaken] = true) hs_
  have q4 := Field.sub_trans (by decide : Field.sub [.regs] [.regs, .back, .bar2, .out, .ram, .hmem, .slotRings, .cueQs, .binFlags, .slates, .dqs, .cores, .cmbs, .engs, .mmus, .poison, .bndTaken] = true) hs_
  have q5 := Field.sub_trans (by decide : Field.sub [.engs] [.regs, .back, .bar2, .out, .ram, .hmem, .slotRings, .cueQs, .binFlags, .slates, .dqs, .cores, .cmbs, .engs, .mmus, .poison, .bndTaken] = true) hs_
  have q6 := Field.sub_trans (by decide : Field.sub [.cueQs] [.regs, .back, .bar2, .out, .ram, .hmem, .slotRings, .cueQs, .binFlags, .slates, .dqs, .cores, .cmbs, .engs, .mmus, .poison, .bndTaken] = true) hs_
  have q7 := Field.sub_trans (by decide : Field.sub [.binFlags] [.regs, .back, .bar2, .out, .ram, .hmem, .slotRings, .cueQs, .binFlags, .slates, .dqs, .cores, .cmbs, .engs, .mmus, .poison, .bndTaken] = true) hs_
  have q8 := Field.sub_trans (by decide : Field.sub [.slates] [.regs, .back, .bar2, .out, .ram, .hmem, .slotRings, .cueQs, .binFlags, .slates, .dqs, .cores, .cmbs, .engs, .mmus, .poison, .bndTaken] = true) hs_
  have q9 := Field.sub_trans (by decide : Field.sub [.bndTaken] [.regs, .back, .bar2, .out, .ram, .hmem, .slotRings, .cueQs, .binFlags, .slates, .dqs, .cores, .cmbs, .engs, .mmus, .poison, .bndTaken] = true) hs_
  unfold State.dropSlate
  extract_lets -merge w
  clear_value w
  repeat' with_reducible first
    | assumption
    | intro _
    | apply Kept.ite
    | apply State.dropNodes_kept q0
    | apply State.freeCore_kept q1
    | apply State.dropUnits_kept q2
    | apply State.setSt_kept q3
    | apply State.setNat_kept q4
    | apply State.setEng_kept q5
    | apply Kept.foldl
    | split
    | extract_lets
    | apply Kept.set_cueQs_binFlags _ _ q6 q7
    | apply Kept.set_slates_bndTaken _ _ q8 q9

theorem State.showPower_kept {ws : List Field} {s₀ s : State} (hs_ : Field.sub [.regs] ws = true)
    (kh_ : Kept ws s₀ s) : Kept ws s₀ (State.showPower s) := by
  unfold State.showPower
  repeat' with_reducible first
    | assumption
    | intro _
    | apply Kept.ite
    | apply State.setNat_kept hs_
    | apply Kept.foldl
    | split
    | extract_lets

theorem State.setAvsAt_kept {ws : List Field} {s₀ s : State} (hs_ : Field.sub [.avs] ws = true) (site at_ : Nat)
    (kh_ : Kept ws s₀ s) : Kept ws s₀ (State.setAvsAt s site at_) := by
  unfold State.setAvsAt
  repeat' with_reducible first
    | assumption
    | intro _
    | apply Kept.ite
    | apply Kept.foldl
    | split
    | extract_lets
    | apply Kept.set_avs _ hs_

theorem State.endTakes_kept {ws : List Field} {s₀ s : State} (hs_ : Field.sub [.regs, .back, .bar2, .out, .ram, .hmem, .slotRings, .cancels, .tqs, .sched, .dqs, .cores, .cmbs, .engs, .mmus, .poison] ws = true) (t : Nat)
    (kh_ : Kept ws s₀ s) : Kept ws s₀ (State.endTakes s t) := by
  have q0 := Field.sub_trans (by decide : Field.sub [.regs, .bar2, .out, .sched] [.regs, .back, .bar2, .out, .ram, .hmem, .slotRings, .cancels, .tqs, .sched, .dqs, .cores, .cmbs, .engs, .mmus, .poison] = true) hs_
  have q1 := Field.sub_trans (by decide : Field.sub [.regs, .back, .bar2, .out] [.regs, .back, .bar2, .out, .ram, .hmem, .slotRings, .cancels, .tqs, .sched, .dqs, .cores, .cmbs, .engs, .mmus, .poison] = true) hs_
  have q2 := Field.sub_trans (by decide : Field.sub [.tqs] [.regs, .back, .bar2, .out, .ram, .hmem, .slotRings, .cancels, .tqs, .sched, .dqs, .cores, .cmbs, .engs, .mmus, .poison] = true) hs_
  unfold State.endTakes
  repeat' with_reducible first
    | assumption
    | intro _
    | apply Kept.ite
    | apply State.endTake_kept hs_
    | apply State.dropPass_kept q0
    | apply State.showHalt_kept q1
    | apply State.setTq_kept q2
    | apply Kept.foldl
    | split
    | extract_lets

theorem State.unloadTenant_kept {ws : List Field} {s₀ s : State} (hs_ : Field.sub [.regs, .back, .bar2, .out, .ram, .hmem, .slotRings, .cueQs, .binFlags, .slates, .dqs, .cores, .cmbs, .engs, .mmus, .poison, .bndTaken] ws = true) (t : Nat)
    (kh_ : Kept ws s₀ s) : Kept ws s₀ (State.unloadTenant s t) := by
  have q0 := Field.sub_trans (by decide : Field.sub [.regs] [.regs, .back, .bar2, .out, .ram, .hmem, .slotRings, .cueQs, .binFlags, .slates, .dqs, .cores, .cmbs, .engs, .mmus, .poison, .bndTaken] = true) hs_
  unfold State.unloadTenant
  repeat' with_reducible first
    | assumption
    | intro _
    | apply Kept.ite
    | apply State.showPower_kept q0
    | apply State.dropSlate_kept hs_
    | apply Kept.foldl
    | split
    | extract_lets

theorem State.zeroGranules_kept {ws : List Field} {s₀ s : State} (hs_ : Field.sub [.ram] ws = true) (t : Nat)
    (kh_ : Kept ws s₀ s) : Kept ws s₀ (State.zeroGranules s t) := by
  unfold State.zeroGranules
  repeat' with_reducible first
    | assumption
    | intro _
    | apply Kept.ite
    | apply State.ramZero_kept hs_
    | apply Kept.foldl
    | split
    | extract_lets

theorem State.zeroUnits_kept {ws : List Field} {s₀ s : State} (hs_ : Field.sub [.ram, .cores, .cmbs, .engs, .poison] ws = true) (t : Nat)
    (kh_ : Kept ws s₀ s) : Kept ws s₀ (State.zeroUnits s t) := by
  have q0 := Field.sub_trans (by decide : Field.sub [.ram, .poison] [.ram, .cores, .cmbs, .engs, .poison] = true) hs_
  have q1 := Field.sub_trans (by decide : Field.sub [.engs] [.ram, .cores, .cmbs, .engs, .poison] = true) hs_
  have q2 := Field.sub_trans (by decide : Field.sub [.cmbs] [.ram, .cores, .cmbs, .engs, .poison] = true) hs_
  have q3 := Field.sub_trans (by decide : Field.sub [.cores] [.ram, .cores, .cmbs, .engs, .poison] = true) hs_
  unfold State.zeroUnits
  extract_lets -merge s1 s2
  have k_s1 : Kept ws s₀ s1 := by
    unfold s1
    repeat' with_reducible first
      | assumption
      | intro _
      | apply Kept.ite
      | apply State.scrub_kept q0
      | apply State.setEng_kept q1
      | apply State.setCmb_kept q2
      | apply State.setCore_kept q3
      | apply Kept.foldl
      | split
      | extract_lets
  clear_value s1
  have k_s2 : Kept ws s₀ s2 := by
    unfold s2
    repeat' with_reducible first
      | assumption
      | intro _
      | apply Kept.ite
      | apply State.scrub_kept q0
      | apply State.setEng_kept q1
      | apply State.setCmb_kept q2
      | apply State.setCore_kept q3
      | apply Kept.foldl
      | split
      | extract_lets
  clear_value s2
  repeat' with_reducible first
    | assumption
    | intro _
    | apply Kept.ite
    | apply State.scrub_kept q0
    | apply State.setEng_kept q1
    | apply State.setCmb_kept q2
    | apply State.setCore_kept q3
    | apply Kept.foldl
    | split
    | extract_lets

end Sys2Proof.Machine
end

