-- ==== Sys2Proof/Laws/KTileOps.lean ====
section
/-!
SUPPORT. Laws/KTileOps.lean: what each operation of Machine/TileOps.lean may change, and that it keeps the canonical form.
-/
namespace Sys2Proof.Machine

theorem State.installTrees_kept {ws : List Field} {s₀ s : State} (hs_ : Field.sub [.regs, .bar2, .out, .cmbs] ws = true) (w : Work) (c : List Byte)
    (kh_ : Kept ws s₀ s) : Kept ws s₀ (State.installTrees s w c) := by
  have q0 := Field.sub_trans (by decide : Field.sub [.regs] [.regs, .bar2, .out, .cmbs] = true) hs_
  have q1 := Field.sub_trans (by decide : Field.sub [.regs, .bar2, .out] [.regs, .bar2, .out, .cmbs] = true) hs_
  have q2 := Field.sub_trans (by decide : Field.sub [.cmbs] [.regs, .bar2, .out, .cmbs] = true) hs_
  unfold State.installTrees
  repeat' with_reducible first
    | assumption
    | intro _
    | apply Kept.ite
    | apply State.showCmb_kept q0
    | apply State.setSt_kept q1
    | apply State.setCmb_kept q2
    | apply Kept.foldl
    | split
    | extract_lets

theorem State.declareRings_kept {ws : List Field} {s₀ s : State} (hs_ : Field.sub [.regs, .slotRings] ws = true) (site phys loc : Nat) (c : List Byte) (bin : Nat)
    (kh_ : Kept ws s₀ s) : Kept ws s₀ (State.declareRings s site phys loc c bin) := by
  have q0 := Field.sub_trans (by decide : Field.sub [.regs] [.regs, .slotRings] = true) hs_
  have q1 := Field.sub_trans (by decide : Field.sub [.slotRings] [.regs, .slotRings] = true) hs_
  unfold State.declareRings
  repeat' with_reducible first
    | assumption
    | intro _
    | apply Kept.ite
    | apply State.setNat_kept q0
    | apply State.setSring_kept q1
    | apply Kept.foldl
    | split
    | extract_lets

theorem State.clrOnTake_kept {ws : List Field} {s₀ s : State} (hs_ : Field.sub [.regs] ws = true) (w : Work) (site phys : Nat)
    (kh_ : Kept ws s₀ s) : Kept ws s₀ (State.clrOnTake s w site phys) := by
  unfold State.clrOnTake
  repeat' with_reducible first
    | assumption
    | intro _
    | apply Kept.ite
    | apply State.setNat_kept hs_
    | apply Kept.foldl
    | split
    | extract_lets

theorem State.giveCore_kept {ws : List Field} {s₀ s : State} (hs_ : Field.sub [.regs, .bar2, .out, .slotRings, .dqs, .cores] ws = true) (w : Work) (cont : List Byte) (bin : Nat) (pl : Nat × Nat × Nat)
    (kh_ : Kept ws s₀ s) : Kept ws s₀ (State.giveCore s w cont bin pl) := by
  have q0 := Field.sub_trans (by decide : Field.sub [.regs] [.regs, .bar2, .out, .slotRings, .dqs, .cores] = true) hs_
  have q1 := Field.sub_trans (by decide : Field.sub [.regs, .slotRings] [.regs, .bar2, .out, .slotRings, .dqs, .cores] = true) hs_
  have q2 := Field.sub_trans (by decide : Field.sub [.regs, .bar2, .out] [.regs, .bar2, .out, .slotRings, .dqs, .cores] = true) hs_
  have q3 := Field.sub_trans (by decide : Field.sub [.dqs] [.regs, .bar2, .out, .slotRings, .dqs, .cores] = true) hs_
  have q4 := Field.sub_trans (by decide : Field.sub [.cores] [.regs, .bar2, .out, .slotRings, .dqs, .cores] = true) hs_
  unfold State.giveCore
  extract_lets -merge site phys p x s1 s2 s3
  clear_value site phys p x
  have k_s1 : Kept ws s₀ s1 := by
    unfold s1
    repeat' with_reducible first
      | assumption
      | intro _
      | apply Kept.ite
      | apply State.showDq_kept q0
      | apply State.clrOnTake_kept q0
      | apply State.declareRings_kept q1
      | apply State.showCore_kept q0
      | apply State.setSt_kept q2
      | apply State.evt_kept q2
      | apply State.putBit_kept q0
      | apply State.setDq_kept q3
      | apply State.setCore_kept q4
      | apply Kept.foldl
      | split
      | extract_lets
  clear_value s1
  have k_s2 : Kept ws s₀ s2 := by
    unfold s2
    repeat' with_reducible first
      | assumption
      | intro _
      | apply Kept.ite
      | apply State.showDq_kept q0
      | apply State.clrOnTake_kept q0
      | apply State.declareRings_kept q1
      | apply State.showCore_kept q0
      | apply State.setSt_kept q2
      | apply State.evt_kept q2
      | apply State.putBit_kept q0
      | apply State.setDq_kept q3
      | apply State.setCore_kept q4
      | apply Kept.foldl
      | split
      | extract_lets
  clear_value s2
  have k_s3 : Kept ws s₀ s3 := by
    unfold s3
    repeat' with_reducible first
      | assumption
      | intro _
      | apply Kept.ite
      | apply State.showDq_kept q0
      | apply State.clrOnTake_kept q0
      | apply State.declareRings_kept q1
      | apply State.showCore_kept q0
      | apply State.setSt_kept q2
      | apply State.evt_kept q2
      | apply State.putBit_kept q0
      | apply State.setDq_kept q3
      | apply State.setCore_kept q4
      | apply Kept.foldl
      | split
      | extract_lets
  clear_value s3
  repeat' with_reducible first
    | assumption
    | intro _
    | apply Kept.ite
    | apply State.showDq_kept q0
    | apply State.clrOnTake_kept q0
    | apply State.declareRings_kept q1
    | apply State.showCore_kept q0
    | apply State.setSt_kept q2
    | apply State.evt_kept q2
    | apply State.putBit_kept q0
    | apply State.setDq_kept q3
    | apply State.setCore_kept q4
    | apply Kept.foldl
    | split
    | extract_lets

theorem State.coreReady_kept {ws : List Field} {s₀ s : State} (hs_ : Field.sub [.regs, .ram, .cores, .poison] ws = true) (site phys : Nat)
    (kh_ : Kept ws s₀ s) : Kept ws s₀ (State.coreReady s site phys) := by
  have q0 := Field.sub_trans (by decide : Field.sub [.regs] [.regs, .ram, .cores, .poison] = true) hs_
  have q1 := Field.sub_trans (by decide : Field.sub [.ram, .poison] [.regs, .ram, .cores, .poison] = true) hs_
  have q2 := Field.sub_trans (by decide : Field.sub [.cores] [.regs, .ram, .cores, .poison] = true) hs_
  unfold State.coreReady
  extract_lets -merge x
  clear_value x
  repeat' with_reducible first
    | assumption
    | intro _
    | apply Kept.ite
    | apply State.prof_kept q0
    | apply State.showCore_kept q0
    | apply State.scrub_kept q1
    | apply State.setCore_kept q2
    | apply Kept.foldl
    | split
    | extract_lets

theorem State.restripe_kept {ws : List Field} {s₀ s : State} (hs_ : Field.sub [.regs, .bar2, .out, .ram, .hmem, .slotRings, .cueQs, .binFlags, .slates, .cancels, .dqs, .cores, .cmbs, .engs, .poison] ws = true) (h : Nat)
    (kh_ : Kept ws s₀ s) : Kept ws s₀ (State.restripe s h) := by
  have q0 := Field.sub_trans (by decide : Field.sub [.regs, .bar2, .out, .cmbs] [.regs, .bar2, .out, .ram, .hmem, .slotRings, .cueQs, .binFlags, .slates, .cancels, .dqs, .cores, .cmbs, .engs, .poison] = true) hs_
  have q1 := Field.sub_trans (by decide : Field.sub [.regs, .cores] [.regs, .bar2, .out, .ram, .hmem, .slotRings, .cueQs, .binFlags, .slates, .cancels, .dqs, .cores, .cmbs, .engs, .poison] = true) hs_
  have q2 := Field.sub_trans (by decide : Field.sub [.regs] [.regs, .bar2, .out, .ram, .hmem, .slotRings, .cueQs, .binFlags, .slates, .cancels, .dqs, .cores, .cmbs, .engs, .poison] = true) hs_
  have q3 := Field.sub_trans (by decide : Field.sub [.ram, .hmem, .poison] [.regs, .bar2, .out, .ram, .hmem, .slotRings, .cueQs, .binFlags, .slates, .cancels, .dqs, .cores, .cmbs, .engs, .poison] = true) hs_
  have q4 := Field.sub_trans (by decide : Field.sub [.regs, .bar2, .out, .slotRings, .cancels, .engs] [.regs, .bar2, .out, .ram, .hmem, .slotRings, .cueQs, .binFlags, .slates, .cancels, .dqs, .cores, .cmbs, .engs, .poison] = true) hs_
  have q5 := Field.sub_trans (by decide : Field.sub [.regs, .slotRings, .cueQs, .binFlags, .cancels] [.regs, .bar2, .out, .ram, .hmem, .slotRings, .cueQs, .binFlags, .slates, .cancels, .dqs, .cores, .cmbs, .engs, .poison] = true) hs_
  have q6 := Field.sub_trans (by decide : Field.sub [.slates] [.regs, .bar2, .out, .ram, .hmem, .slotRings, .cueQs, .binFlags, .slates, .cancels, .dqs, .cores, .cmbs, .engs, .poison] = true) hs_
  have q7 := Field.sub_trans (by decide : Field.sub [.cueQs] [.regs, .bar2, .out, .ram, .hmem, .slotRings, .cueQs, .binFlags, .slates, .cancels, .dqs, .cores, .cmbs, .engs, .poison] = true) hs_
  have q8 := Field.sub_trans (by decide : Field.sub [.dqs] [.regs, .bar2, .out, .ram, .hmem, .slotRings, .cueQs, .binFlags, .slates, .cancels, .dqs, .cores, .cmbs, .engs, .poison] = true) hs_
  have q9 := Field.sub_trans (by decide : Field.sub [.slotRings] [.regs, .bar2, .out, .ram, .hmem, .slotRings, .cueQs, .binFlags, .slates, .cancels, .dqs, .cores, .cmbs, .engs, .poison] = true) hs_
  unfold State.restripe
  extract_lets -merge w
  clear_value w
  repeat' with_reducible first
    | assumption
    | intro _
    | apply Kept.ite
    | apply State.dropNodes_kept q0
    | apply State.restartCore_kept q1
    | apply State.showDq_kept q2
    | apply State.landFlights_kept q3
    | apply State.installTrees_kept q0
    | apply State.cancelOn_kept q4
    | apply State.allocEpoch_kept q5
    | refine Kept.of_snd (State.allocEpoch_kept q5 _ ?_) ‹_›
    | apply State.setSlate_kept q6
    | apply State.setCue_kept q7
    | apply State.setDq_kept q8
    | apply Kept.foldl
    | split
    | extract_lets
    | apply Kept.set_slotRings _ q9

theorem State.cancelAhead_kept {ws : List Field} {s₀ s : State} (hs_ : Field.sub [.regs, .bar2, .out, .ram, .hmem, .slotRings, .cueQs, .binFlags, .slates, .cancels, .dqs, .cores, .cmbs, .engs, .poison] ws = true) (site k : Nat)
    (kh_ : Kept ws s₀ s) : Kept ws s₀ (State.cancelAhead s site k) := by
  unfold State.cancelAhead
  repeat' with_reducible first
    | assumption
    | intro _
    | apply Kept.ite
    | apply State.restripe_kept hs_
    | apply Kept.foldl
    | split
    | extract_lets

end Sys2Proof.Machine
end

