-- ==== Sys2Proof/Laws/KMotion.lean ====
section
/-!
SUPPORT. Laws/KMotion.lean: what each operation of Machine/Motion.lean may change, and that it keeps the canonical form.
-/
namespace Sys2Proof.Machine

theorem State.putGrp_kept {ws : List Field} {s₀ s : State} (hs_ : Field.sub [.regs, .grps] ws = true) (site g : Nat) (x : Grp)
    (kh_ : Kept ws s₀ s) : Kept ws s₀ (State.putGrp s site g x) := by
  have q0 := Field.sub_trans (by decide : Field.sub [.regs] [.regs, .grps] = true) hs_
  have q1 := Field.sub_trans (by decide : Field.sub [.grps] [.regs, .grps] = true) hs_
  unfold State.putGrp
  extract_lets -merge s1
  have k_s1 : Kept ws s₀ s1 := by
    unfold s1
    repeat' with_reducible first
      | assumption
      | intro _
      | apply Kept.ite
      | apply State.setNat_kept q0
      | apply State.setGrp_kept q1
      | apply Kept.foldl
      | split
      | extract_lets
  clear_value s1
  repeat' with_reducible first
    | assumption
    | intro _
    | apply Kept.ite
    | apply State.setNat_kept q0
    | apply State.setGrp_kept q1
    | apply Kept.foldl
    | split
    | extract_lets

theorem State.abandon_kept {ws : List Field} {s₀ s : State} (hs_ : Field.sub [.regs, .axes] ws = true) (site a : Nat)
    (kh_ : Kept ws s₀ s) : Kept ws s₀ (State.abandon s site a) := by
  have q0 := Field.sub_trans (by decide : Field.sub [.regs] [.regs, .axes] = true) hs_
  have q1 := Field.sub_trans (by decide : Field.sub [.axes] [.regs, .axes] = true) hs_
  unfold State.abandon
  extract_lets -merge _
  repeat' with_reducible first
    | assumption
    | intro _
    | apply Kept.ite
    | apply State.setNat_kept q0
    | apply State.setAxis_kept q1
    | apply Kept.foldl
    | split
    | extract_lets

theorem State.stopCore_kept {ws : List Field} {s₀ s : State} (hs_ : Field.sub [.regs, .bar2, .out, .axes, .grps] ws = true) (site g cause : Nat)
    (kh_ : Kept ws s₀ s) : Kept ws s₀ (State.stopCore s site g cause) := by
  have q0 := Field.sub_trans (by decide : Field.sub [.regs, .bar2, .out] [.regs, .bar2, .out, .axes, .grps] = true) hs_
  have q1 := Field.sub_trans (by decide : Field.sub [.regs, .axes] [.regs, .bar2, .out, .axes, .grps] = true) hs_
  have q2 := Field.sub_trans (by decide : Field.sub [.regs, .grps] [.regs, .bar2, .out, .axes, .grps] = true) hs_
  unfold State.stopCore
  extract_lets -merge x s1 s2
  clear_value x
  have k_s1 : Kept ws s₀ s1 := by
    unfold s1
    repeat' with_reducible first
      | assumption
      | intro _
      | apply Kept.ite
      | apply State.evt_kept q0
      | apply State.abandon_kept q1
      | apply State.putGrp_kept q2
      | apply Kept.foldl
      | split
      | extract_lets
  clear_value s1
  have k_s2 : Kept ws s₀ s2 := by
    unfold s2
    repeat' with_reducible first
      | assumption
      | intro _
      | apply Kept.ite
      | apply State.evt_kept q0
      | apply State.abandon_kept q1
      | apply State.putGrp_kept q2
      | apply Kept.foldl
      | split
      | extract_lets
  clear_value s2
  repeat' with_reducible first
    | assumption
    | intro _
    | apply Kept.ite
    | apply State.evt_kept q0
    | apply State.abandon_kept q1
    | apply State.putGrp_kept q2
    | apply Kept.foldl
    | split
    | extract_lets

theorem State.spliceGate_kept {ws : List Field} {s₀ s : State} (hs_ : Field.sub [.regs, .bar2, .out, .ram, .hmem, .rings, .strms, .slotRings, .cueQs, .binFlags, .slates, .cancels, .dqs, .cores, .cmbs, .engs, .poison] ws = true) (site g cause line : Nat)
    (kh_ : Kept ws s₀ s) : Kept ws s₀ (State.spliceGate s site g cause line) := by
  have q0 := Field.sub_trans (by decide : Field.sub [.regs, .bar2, .out, .ram, .hmem, .slotRings, .cueQs, .binFlags, .slates, .cancels, .dqs, .cores, .cmbs, .engs, .poison] [.regs, .bar2, .out, .ram, .hmem, .rings, .strms, .slotRings, .cueQs, .binFlags, .slates, .cancels, .dqs, .cores, .cmbs, .engs, .poison] = true) hs_
  have q1 := Field.sub_trans (by decide : Field.sub [.regs, .bar2, .out, .rings, .strms] [.regs, .bar2, .out, .ram, .hmem, .rings, .strms, .slotRings, .cueQs, .binFlags, .slates, .cancels, .dqs, .cores, .cmbs, .engs, .poison] = true) hs_
  unfold State.spliceGate
  extract_lets -merge v
  clear_value v
  repeat' with_reducible first
    | assumption
    | intro _
    | apply Kept.ite
    | apply State.cancelAhead_kept q0
    | apply State.spliceOne_kept q1
    | apply Kept.foldl
    | split
    | extract_lets

theorem State.endRetake_kept {ws : List Field} {s₀ s : State} (hs_ : Field.sub [.regs] ws = true) (site g : Nat)
    (kh_ : Kept ws s₀ s) : Kept ws s₀ (State.endRetake s site g) := by
  unfold State.endRetake
  repeat' with_reducible first
    | assumption
    | intro _
    | apply Kept.ite
    | apply State.putBit_kept hs_
    | apply Kept.foldl
    | split
    | extract_lets

theorem State.groupStop_kept {ws : List Field} {s₀ s : State} (hs_ : Field.sub [.regs, .bar2, .out, .ram, .hmem, .rings, .strms, .axes, .grps, .slotRings, .cueQs, .binFlags, .slates, .cancels, .dqs, .cores, .cmbs, .engs, .poison] ws = true) (site g cause : Nat)
    (kh_ : Kept ws s₀ s) : Kept ws s₀ (State.groupStop s site g cause) := by
  have q0 := Field.sub_trans (by decide : Field.sub [.regs] [.regs, .bar2, .out, .ram, .hmem, .rings, .strms, .axes, .grps, .slotRings, .cueQs, .binFlags, .slates, .cancels, .dqs, .cores, .cmbs, .engs, .poison] = true) hs_
  have q1 := Field.sub_trans (by decide : Field.sub [.regs, .bar2, .out, .ram, .hmem, .rings, .strms, .slotRings, .cueQs, .binFlags, .slates, .cancels, .dqs, .cores, .cmbs, .engs, .poison] [.regs, .bar2, .out, .ram, .hmem, .rings, .strms, .axes, .grps, .slotRings, .cueQs, .binFlags, .slates, .cancels, .dqs, .cores, .cmbs, .engs, .poison] = true) hs_
  have q2 := Field.sub_trans (by decide : Field.sub [.regs, .bar2, .out, .axes, .grps] [.regs, .bar2, .out, .ram, .hmem, .rings, .strms, .axes, .grps, .slotRings, .cueQs, .binFlags, .slates, .cancels, .dqs, .cores, .cmbs, .engs, .poison] = true) hs_
  unfold State.groupStop
  extract_lets -merge line s1
  clear_value line
  have k_s1 : Kept ws s₀ s1 := by
    unfold s1
    repeat' with_reducible first
      | assumption
      | intro _
      | apply Kept.ite
      | apply State.endRetake_kept q0
      | apply State.spliceGate_kept q1
      | apply State.stopCore_kept q2
      | apply Kept.foldl
      | split
      | extract_lets
  clear_value s1
  repeat' with_reducible first
    | assumption
    | intro _
    | apply Kept.ite
    | apply State.endRetake_kept q0
    | apply State.spliceGate_kept q1
    | apply State.stopCore_kept q2
    | apply Kept.foldl
    | split
    | extract_lets

theorem State.declareSplice_kept {ws : List Field} {s₀ s : State} (hs_ : Field.sub [.regs, .bar2, .out, .ram, .hmem, .rings, .strms, .axes, .grps, .slotRings, .cueQs, .binFlags, .slates, .cancels, .dqs, .cores, .cmbs, .engs, .poison] ws = true) (site g cause line : Nat)
    (kh_ : Kept ws s₀ s) : Kept ws s₀ (State.declareSplice s site g cause line) := by
  have q0 := Field.sub_trans (by decide : Field.sub [.regs, .bar2, .out, .ram, .hmem, .rings, .strms, .slotRings, .cueQs, .binFlags, .slates, .cancels, .dqs, .cores, .cmbs, .engs, .poison] [.regs, .bar2, .out, .ram, .hmem, .rings, .strms, .axes, .grps, .slotRings, .cueQs, .binFlags, .slates, .cancels, .dqs, .cores, .cmbs, .engs, .poison] = true) hs_
  have q1 := Field.sub_trans (by decide : Field.sub [.regs, .bar2, .out, .axes, .grps] [.regs, .bar2, .out, .ram, .hmem, .rings, .strms, .axes, .grps, .slotRings, .cueQs, .binFlags, .slates, .cancels, .dqs, .cores, .cmbs, .engs, .poison] = true) hs_
  unfold State.declareSplice
  extract_lets -merge s1
  have k_s1 : Kept ws s₀ s1 := by
    unfold s1
    repeat' with_reducible first
      | assumption
      | intro _
      | apply Kept.ite
      | apply State.spliceGate_kept q0
      | apply State.stopCore_kept q1
      | apply Kept.foldl
      | split
      | extract_lets
  clear_value s1
  repeat' with_reducible first
    | assumption
    | intro _
    | apply Kept.ite
    | apply State.spliceGate_kept q0
    | apply State.stopCore_kept q1
    | apply Kept.foldl
    | split
    | extract_lets

theorem State.showLims_kept {ws : List Field} {s₀ s : State} (hs_ : Field.sub [.regs] ws = true) (site a : Nat)
    (kh_ : Kept ws s₀ s) : Kept ws s₀ (State.showLims s site a) := by
  unfold State.showLims
  extract_lets -merge p asserted
  clear_value p asserted
  repeat' with_reducible first
    | assumption
    | intro _
    | apply Kept.ite
    | apply State.putBit_kept hs_
    | apply Kept.foldl
    | split
    | extract_lets

theorem State.moveAxis_kept {ws : List Field} {s₀ s : State} (hs_ : Field.sub [.regs, .axes] ws = true) (site a : Nat) (v : Int) (acc : Nat)
    (kh_ : Kept ws s₀ s) : Kept ws s₀ (State.moveAxis s site a v acc) := by
  have q0 := Field.sub_trans (by decide : Field.sub [.regs] [.regs, .axes] = true) hs_
  have q1 := Field.sub_trans (by decide : Field.sub [.axes] [.regs, .axes] = true) hs_
  unfold State.moveAxis
  extract_lets -merge p x y th th2 z s1
  have k_s1 : Kept ws s₀ s1 := by
    unfold s1
    repeat' with_reducible first
      | assumption
      | intro _
      | apply Kept.ite
      | apply State.putBit_kept q0
      | apply State.setAxis_kept q1
      | apply State.setReg_kept q0
      | apply Kept.foldl
      | split
      | extract_lets
  clear_value s1
  repeat' with_reducible first
    | assumption
    | intro _
    | apply Kept.ite
    | apply State.putBit_kept q0
    | apply State.setAxis_kept q1
    | apply State.setReg_kept q0
    | apply Kept.foldl
    | split
    | extract_lets

theorem State.axSat_kept {ws : List Field} {s₀ s : State} (hs_ : Field.sub [.regs, .bar2, .out, .axes] ws = true) (site a : Nat) (x : Axis)
    (kh_ : Kept ws s₀ s) : Kept ws s₀ (State.axSat s site a x) := by
  have q0 := Field.sub_trans (by decide : Field.sub [.regs, .bar2, .out] [.regs, .bar2, .out, .axes] = true) hs_
  have q1 := Field.sub_trans (by decide : Field.sub [.regs] [.regs, .bar2, .out, .axes] = true) hs_
  have q2 := Field.sub_trans (by decide : Field.sub [.axes] [.regs, .bar2, .out, .axes] = true) hs_
  unfold State.axSat
  extract_lets -merge on
  clear_value on
  repeat' with_reducible first
    | assumption
    | intro _
    | apply Kept.ite
    | apply State.evtIf_kept q0
    | apply State.putBit_kept q1
    | apply State.setAxis_kept q2
    | apply Kept.foldl
    | split
    | extract_lets

theorem State.tension_kept {ws : List Field} {s₀ s : State} (hs_ : Field.sub [.regs, .bar2, .out, .axes] ws = true) (site a : Nat)
    (kh_ : Kept ws s₀ s) : Kept ws s₀ (State.tension s site a) := by
  have q0 := Field.sub_trans (by decide : Field.sub [.regs, .bar2, .out] [.regs, .bar2, .out, .axes] = true) hs_
  have q1 := Field.sub_trans (by decide : Field.sub [.regs] [.regs, .bar2, .out, .axes] = true) hs_
  unfold State.tension
  extract_lets -merge p m cnt x e mx kpe lo hi cl i raw t
  clear_value p m cnt x e mx kpe lo hi cl i raw t
  repeat' with_reducible first
    | assumption
    | intro _
    | apply Kept.ite
    | apply State.axSat_kept hs_
    | apply State.evt_kept q0
    | apply State.setReg_kept q1
    | apply Kept.foldl
    | split
    | extract_lets

theorem State.coarse_kept {ws : List Field} {s₀ s : State} (hs_ : Field.sub [.regs, .bar2, .out, .axes] ws = true) (site a : Nat)
    (kh_ : Kept ws s₀ s) : Kept ws s₀ (State.coarse s site a) := by
  have q0 := Field.sub_trans (by decide : Field.sub [.regs, .bar2, .out] [.regs, .bar2, .out, .axes] = true) hs_
  have q1 := Field.sub_trans (by decide : Field.sub [.axes] [.regs, .bar2, .out, .axes] = true) hs_
  unfold State.coarse
  extract_lets -merge p e _ s1
  clear_value p e
  have k_s1 : Kept ws s₀ s1 := by
    unfold s1
    repeat' with_reducible first
      | assumption
      | intro _
      | apply Kept.ite
      | apply State.evt_kept q0
      | apply State.setAxis_kept q1
      | apply Kept.foldl
      | split
      | extract_lets
  clear_value s1
  repeat' with_reducible first
    | assumption
    | intro _
    | apply Kept.ite
    | apply State.evt_kept q0
    | apply State.setAxis_kept q1
    | apply Kept.foldl
    | split
    | extract_lets

theorem State.autoRun_kept {ws : List Field} {s₀ s : State} (hs_ : Field.sub [.axes] ws = true) (site a : Nat)
    (kh_ : Kept ws s₀ s) : Kept ws s₀ (State.autoRun s site a) := by
  unfold State.autoRun
  extract_lets -merge x g
  clear_value x g
  repeat' with_reducible first
    | assumption
    | intro _
    | apply Kept.ite
    | apply State.setAxis_kept hs_
    | apply Kept.foldl
    | split
    | extract_lets

theorem State.tickAxis_kept {ws : List Field} {s₀ s : State} (hs_ : Field.sub [.regs, .bar2, .out, .axes] ws = true) (site a : Nat) (frozen : Bool)
    (kh_ : Kept ws s₀ s) : Kept ws s₀ (State.tickAxis s site a frozen) := by
  have q0 := Field.sub_trans (by decide : Field.sub [.regs, .axes] [.regs, .bar2, .out, .axes] = true) hs_
  have q1 := Field.sub_trans (by decide : Field.sub [.regs, .bar2, .out] [.regs, .bar2, .out, .axes] = true) hs_
  have q2 := Field.sub_trans (by decide : Field.sub [.axes] [.regs, .bar2, .out, .axes] = true) hs_
  unfold State.tickAxis
  extract_lets -merge p g x w seg dir clamped sat v s1 s2 _ s3 slow
  clear_value p g x w seg dir clamped sat v slow
  have k_s1 : Kept ws s₀ s1 := by
    unfold s1
    repeat' with_reducible first
      | assumption
      | intro _
      | apply Kept.ite
      | apply State.axSat_kept hs_
      | apply State.moveAxis_kept q0
      | apply State.setSt_kept q1
      | apply State.setAxis_kept q2
      | apply Kept.foldl
      | split
      | extract_lets
  clear_value s1
  have k_s2 : Kept ws s₀ s2 := by
    unfold s2
    repeat' with_reducible first
      | assumption
      | intro _
      | apply Kept.ite
      | apply State.axSat_kept hs_
      | apply State.moveAxis_kept q0
      | apply State.setSt_kept q1
      | apply State.setAxis_kept q2
      | apply Kept.foldl
      | split
      | extract_lets
  clear_value s2
  have k_s3 : Kept ws s₀ s3 := by
    unfold s3
    repeat' with_reducible first
      | assumption
      | intro _
      | apply Kept.ite
      | apply State.axSat_kept hs_
      | apply State.moveAxis_kept q0
      | apply State.setSt_kept q1
      | apply State.setAxis_kept q2
      | apply Kept.foldl
      | split
      | extract_lets
  clear_value s3
  repeat' with_reducible first
    | assumption
    | intro _
    | apply Kept.ite
    | apply State.axSat_kept hs_
    | apply State.moveAxis_kept q0
    | apply State.setSt_kept q1
    | apply State.setAxis_kept q2
    | apply Kept.foldl
    | split
    | extract_lets

theorem State.releaseGroup_kept {ws : List Field} {s₀ s : State} (hs_ : Field.sub [.regs, .bar2, .out, .axes, .grps] ws = true) (site g : Nat)
    (kh_ : Kept ws s₀ s) : Kept ws s₀ (State.releaseGroup s site g) := by
  have q0 := Field.sub_trans (by decide : Field.sub [.regs, .bar2, .out] [.regs, .bar2, .out, .axes, .grps] = true) hs_
  have q1 := Field.sub_trans (by decide : Field.sub [.regs, .grps] [.regs, .bar2, .out, .axes, .grps] = true) hs_
  have q2 := Field.sub_trans (by decide : Field.sub [.axes] [.regs, .bar2, .out, .axes, .grps] = true) hs_
  unfold State.releaseGroup
  extract_lets -merge _ s1 s2
  have k_s1 : Kept ws s₀ s1 := by
    unfold s1
    repeat' with_reducible first
      | assumption
      | intro _
      | apply Kept.ite
      | apply State.evt_kept q0
      | apply State.putGrp_kept q1
      | apply State.setAxis_kept q2
      | apply Kept.foldl
      | split
      | extract_lets
  clear_value s1
  have k_s2 : Kept ws s₀ s2 := by
    unfold s2
    repeat' with_reducible first
      | assumption
      | intro _
      | apply Kept.ite
      | apply State.evt_kept q0
      | apply State.putGrp_kept q1
      | apply State.setAxis_kept q2
      | apply Kept.foldl
      | split
      | extract_lets
  clear_value s2
  repeat' with_reducible first
    | assumption
    | intro _
    | apply Kept.ite
    | apply State.evt_kept q0
    | apply State.putGrp_kept q1
    | apply State.setAxis_kept q2
    | apply Kept.foldl
    | split
    | extract_lets

theorem State.tickGroup_kept {ws : List Field} {s₀ s : State} (hs_ : Field.sub [.regs, .bar2, .out, .ram, .hmem, .rings, .strms, .axes, .grps, .slotRings, .cueQs, .binFlags, .slates, .cancels, .dqs, .cores, .cmbs, .engs, .poison] ws = true) (site g : Nat)
    (kh_ : Kept ws s₀ s) : Kept ws s₀ (State.tickGroup s site g) := by
  have q0 := Field.sub_trans (by decide : Field.sub [.regs, .bar2, .out, .axes, .grps] [.regs, .bar2, .out, .ram, .hmem, .rings, .strms, .axes, .grps, .slotRings, .cueQs, .binFlags, .slates, .cancels, .dqs, .cores, .cmbs, .engs, .poison] = true) hs_
  have q1 := Field.sub_trans (by decide : Field.sub [.regs, .bar2, .out, .axes] [.regs, .bar2, .out, .ram, .hmem, .rings, .strms, .axes, .grps, .slotRings, .cueQs, .binFlags, .slates, .cancels, .dqs, .cores, .cmbs, .engs, .poison] = true) hs_
  have q2 := Field.sub_trans (by decide : Field.sub [.axes] [.regs, .bar2, .out, .ram, .hmem, .rings, .strms, .axes, .grps, .slotRings, .cueQs, .binFlags, .slates, .cancels, .dqs, .cores, .cmbs, .engs, .poison] = true) hs_
  have q3 := Field.sub_trans (by decide : Field.sub [.regs, .bar2, .out] [.regs, .bar2, .out, .ram, .hmem, .rings, .strms, .axes, .grps, .slotRings, .cueQs, .binFlags, .slates, .cancels, .dqs, .cores, .cmbs, .engs, .poison] = true) hs_
  have q4 := Field.sub_trans (by decide : Field.sub [.grps] [.regs, .bar2, .out, .ram, .hmem, .rings, .strms, .axes, .grps, .slotRings, .cueQs, .binFlags, .slates, .cancels, .dqs, .cores, .cmbs, .engs, .poison] = true) hs_
  unfold State.tickGroup
  extract_lets -merge axes s1 bad t t_1 s2 frozen lead s3 gr
  clear_value axes bad frozen lead gr
  have k_s1 : Kept ws s₀ s1 := by
    unfold s1
    repeat' with_reducible first
      | assumption
      | intro _
      | apply Kept.ite
      | apply State.releaseGroup_kept q0
      | apply State.tickAxis_kept q1
      | apply State.autoRun_kept q2
      | apply State.coarse_kept q1
      | apply State.tension_kept q1
      | apply State.evt_kept q3
      | apply State.groupStop_kept hs_
      | apply State.setGrp_kept q4
      | apply State.setAxis_kept q2
      | apply Kept.foldl
      | split
      | extract_lets
  clear_value s1
  have k_t : Kept ws s₀ t := by
    unfold t
    repeat' with_reducible first
      | assumption
      | intro _
      | apply Kept.ite
      | apply State.releaseGroup_kept q0
      | apply State.tickAxis_kept q1
      | apply State.autoRun_kept q2
      | apply State.coarse_kept q1
      | apply State.tension_kept q1
      | apply State.evt_kept q3
      | apply State.groupStop_kept hs_
      | apply State.setGrp_kept q4
      | apply State.setAxis_kept q2
      | apply Kept.foldl
      | split
      | extract_lets
  clear_value t
  have k_t_1 : Kept ws s₀ t_1 := by
    unfold t_1
    repeat' with_reducible first
      | assumption
      | intro _
      | apply Kept.ite
      | apply State.releaseGroup_kept q0
      | apply State.tickAxis_kept q1
      | apply State.autoRun_kept q2
      | apply State.coarse_kept q1
      | apply State.tension_kept q1
      | apply State.evt_kept q3
      | apply State.groupStop_kept hs_
      | apply State.setGrp_kept q4
      | apply State.setAxis_kept q2
      | apply Kept.foldl
      | split
      | extract_lets
  clear_value t_1
  have k_s2 : Kept ws s₀ s2 := by
    unfold s2
    repeat' with_reducible first
      | assumption
      | intro _
      | apply Kept.ite
      | apply State.releaseGroup_kept q0
      | apply State.tickAxis_kept q1
      | apply State.autoRun_kept q2
      | apply State.coarse_kept q1
      | apply State.tension_kept q1
      | apply State.evt_kept q3
      | apply State.groupStop_kept hs_
      | apply State.setGrp_kept q4
      | apply State.setAxis_kept q2
      | apply Kept.foldl
      | split
      | extract_lets
  clear_value s2
  have k_s3 : Kept ws s₀ s3 := by
    unfold s3
    repeat' with_reducible first
      | assumption
      | intro _
      | apply Kept.ite
      | apply State.releaseGroup_kept q0
      | apply State.tickAxis_kept q1
      | apply State.autoRun_kept q2
      | apply State.coarse_kept q1
      | apply State.tension_kept q1
      | apply State.evt_kept q3
      | apply State.groupStop_kept hs_
      | apply State.setGrp_kept q4
      | apply State.setAxis_kept q2
      | apply Kept.foldl
      | split
      | extract_lets
  clear_value s3
  repeat' with_reducible first
    | assumption
    | intro _
    | apply Kept.ite
    | apply State.releaseGroup_kept q0
    | apply State.tickAxis_kept q1
    | apply State.autoRun_kept q2
    | apply State.coarse_kept q1
    | apply State.tension_kept q1
    | apply State.evt_kept q3
    | apply State.groupStop_kept hs_
    | apply State.setGrp_kept q4
    | apply State.setAxis_kept q2
    | apply Kept.foldl
    | split
    | extract_lets

theorem State.tickDie_kept {ws : List Field} {s₀ s : State} (hs_ : Field.sub [.regs, .bar2, .out, .ticks, .ram, .hmem, .rings, .strms, .axes, .grps, .slotRings, .cueQs, .binFlags, .slates, .cancels, .dqs, .cores, .cmbs, .engs, .poison] ws = true) (site : Nat)
    (kh_ : Kept ws s₀ s) : Kept ws s₀ (State.tickDie s site) := by
  have q0 := Field.sub_trans (by decide : Field.sub [.regs, .bar2, .out, .ram, .hmem, .rings, .strms, .axes, .grps, .slotRings, .cueQs, .binFlags, .slates, .cancels, .dqs, .cores, .cmbs, .engs, .poison] [.regs, .bar2, .out, .ticks, .ram, .hmem, .rings, .strms, .axes, .grps, .slotRings, .cueQs, .binFlags, .slates, .cancels, .dqs, .cores, .cmbs, .engs, .poison] = true) hs_
  have q1 := Field.sub_trans (by decide : Field.sub [.ticks] [.regs, .bar2, .out, .ticks, .ram, .hmem, .rings, .strms, .axes, .grps, .slotRings, .cueQs, .binFlags, .slates, .cancels, .dqs, .cores, .cmbs, .engs, .poison] = true) hs_
  unfold State.tickDie
  extract_lets -merge s1
  have k_s1 : Kept ws s₀ s1 := by
    unfold s1
    repeat' with_reducible first
      | assumption
      | intro _
      | apply Kept.ite
      | apply State.tickGroup_kept q0
      | apply Kept.foldl
      | split
      | extract_lets
      | apply Kept.set_ticks _ q1
  clear_value s1
  repeat' with_reducible first
    | assumption
    | intro _
    | apply Kept.ite
    | apply State.tickGroup_kept q0
    | apply Kept.foldl
    | split
    | extract_lets
    | apply Kept.set_ticks _ q1

theorem State.axisFault_kept {ws : List Field} {s₀ s : State} (hs_ : Field.sub [.regs, .bar2, .out, .ram, .hmem, .rings, .strms, .axes, .grps, .slotRings, .cueQs, .binFlags, .slates, .cancels, .dqs, .cores, .cmbs, .engs, .poison] ws = true) (site a code : Nat)
    (kh_ : Kept ws s₀ s) : Kept ws s₀ (State.axisFault s site a code) := by
  have q0 := Field.sub_trans (by decide : Field.sub [.regs, .axes] [.regs, .bar2, .out, .ram, .hmem, .rings, .strms, .axes, .grps, .slotRings, .cueQs, .binFlags, .slates, .cancels, .dqs, .cores, .cmbs, .engs, .poison] = true) hs_
  have q1 := Field.sub_trans (by decide : Field.sub [.regs, .bar2, .out] [.regs, .bar2, .out, .ram, .hmem, .rings, .strms, .axes, .grps, .slotRings, .cueQs, .binFlags, .slates, .cancels, .dqs, .cores, .cmbs, .engs, .poison] = true) hs_
  have q2 := Field.sub_trans (by decide : Field.sub [.regs] [.regs, .bar2, .out, .ram, .hmem, .rings, .strms, .axes, .grps, .slotRings, .cueQs, .binFlags, .slates, .cancels, .dqs, .cores, .cmbs, .engs, .poison] = true) hs_
  unfold State.axisFault
  extract_lets -merge p s1
  clear_value p
  have k_s1 : Kept ws s₀ s1 := by
    unfold s1
    repeat' with_reducible first
      | assumption
      | intro _
      | apply Kept.ite
      | apply State.moveAxis_kept q0
      | apply State.blockFault_kept q1
      | apply State.faultRec_kept q2
      | apply State.groupStop_kept hs_
      | apply Kept.foldl
      | split
      | extract_lets
  clear_value s1
  repeat' with_reducible first
    | assumption
    | intro _
    | apply Kept.ite
    | apply State.moveAxis_kept q0
    | apply State.blockFault_kept q1
    | apply State.faultRec_kept q2
    | apply State.groupStop_kept hs_
    | apply Kept.foldl
    | split
    | extract_lets

theorem State.lockAxis_kept {ws : List Field} {s₀ s : State} (hs_ : Field.sub [.regs, .bar2, .out, .axes] ws = true) (site a : Nat)
    (kh_ : Kept ws s₀ s) : Kept ws s₀ (State.lockAxis s site a) := by
  have q0 := Field.sub_trans (by decide : Field.sub [.regs, .axes] [.regs, .bar2, .out, .axes] = true) hs_
  have q1 := Field.sub_trans (by decide : Field.sub [.regs, .bar2, .out] [.regs, .bar2, .out, .axes] = true) hs_
  unfold State.lockAxis
  repeat' with_reducible first
    | assumption
    | intro _
    | apply Kept.ite
    | apply State.moveAxis_kept q0
    | apply State.lock_kept q1
    | apply Kept.foldl
    | split
    | extract_lets

theorem State.lockGateAxes_kept {ws : List Field} {s₀ s : State} (hs_ : Field.sub [.regs, .bar2, .out, .axes] ws = true) (site g : Nat)
    (kh_ : Kept ws s₀ s) : Kept ws s₀ (State.lockGateAxes s site g) := by
  unfold State.lockGateAxes
  repeat' with_reducible first
    | assumption
    | intro _
    | apply Kept.ite
    | apply State.lockAxis_kept hs_
    | apply Kept.foldl
    | split
    | extract_lets

theorem State.unlockGateAxes_kept {ws : List Field} {s₀ s : State} (hs_ : Field.sub [.regs, .bar2, .out] ws = true) (site g : Nat)
    (kh_ : Kept ws s₀ s) : Kept ws s₀ (State.unlockGateAxes s site g) := by
  unfold State.unlockGateAxes
  repeat' with_reducible first
    | assumption
    | intro _
    | apply Kept.ite
    | apply State.unlock_kept hs_
    | apply Kept.foldl
    | split
    | extract_lets

theorem State.lockFieldPages_kept {ws : List Field} {s₀ s : State} (hs_ : Field.sub [.regs, .bar2, .out, .meters, .calibs, .axes] ws = true) (site : Nat)
    (kh_ : Kept ws s₀ s) : Kept ws s₀ (State.lockFieldPages s site) := by
  have q0 := Field.sub_trans (by decide : Field.sub [.regs, .bar2, .out, .meters, .calibs] [.regs, .bar2, .out, .meters, .calibs, .axes] = true) hs_
  have q1 := Field.sub_trans (by decide : Field.sub [.regs, .bar2, .out, .axes] [.regs, .bar2, .out, .meters, .calibs, .axes] = true) hs_
  have q2 := Field.sub_trans (by decide : Field.sub [.regs, .bar2, .out, .meters] [.regs, .bar2, .out, .meters, .calibs, .axes] = true) hs_
  have q3 := Field.sub_trans (by decide : Field.sub [.regs] [.regs, .bar2, .out, .meters, .calibs, .axes] = true) hs_
  have q4 := Field.sub_trans (by decide : Field.sub [.regs, .bar2, .out] [.regs, .bar2, .out, .meters, .calibs, .axes] = true) hs_
  unfold State.lockFieldPages
  extract_lets -merge s1 s2
  have k_s1 : Kept ws s₀ s1 := by
    unfold s1
    repeat' with_reducible first
      | assumption
      | intro _
      | apply Kept.ite
      | apply State.calAbortAll_kept q0
      | apply State.lockAxis_kept q1
      | apply State.meterStop_kept q2
      | apply State.outsZero_kept q3
      | apply State.lock_kept q4
      | apply Kept.foldl
      | split
      | extract_lets
  clear_value s1
  have k_s2 : Kept ws s₀ s2 := by
    unfold s2
    repeat' with_reducible first
      | assumption
      | intro _
      | apply Kept.ite
      | apply State.calAbortAll_kept q0
      | apply State.lockAxis_kept q1
      | apply State.meterStop_kept q2
      | apply State.outsZero_kept q3
      | apply State.lock_kept q4
      | apply Kept.foldl
      | split
      | extract_lets
  clear_value s2
  repeat' with_reducible first
    | assumption
    | intro _
    | apply Kept.ite
    | apply State.calAbortAll_kept q0
    | apply State.lockAxis_kept q1
    | apply State.meterStop_kept q2
    | apply State.outsZero_kept q3
    | apply State.lock_kept q4
    | apply Kept.foldl
    | split
    | extract_lets

theorem State.unlockFieldPages_kept {ws : List Field} {s₀ s : State} (hs_ : Field.sub [.regs, .bar2, .out] ws = true) (site : Nat)
    (kh_ : Kept ws s₀ s) : Kept ws s₀ (State.unlockFieldPages s site) := by
  unfold State.unlockFieldPages
  extract_lets -merge s1 s2
  have k_s1 : Kept ws s₀ s1 := by
    unfold s1
    repeat' with_reducible first
      | assumption
      | intro _
      | apply Kept.ite
      | apply State.unlock_kept hs_
      | apply Kept.foldl
      | split
      | extract_lets
  clear_value s1
  have k_s2 : Kept ws s₀ s2 := by
    unfold s2
    repeat' with_reducible first
      | assumption
      | intro _
      | apply Kept.ite
      | apply State.unlock_kept hs_
      | apply Kept.foldl
      | split
      | extract_lets
  clear_value s2
  repeat' with_reducible first
    | assumption
    | intro _
    | apply Kept.ite
    | apply State.unlock_kept hs_
    | apply Kept.foldl
    | split
    | extract_lets

end Sys2Proof.Machine
end

