-- ==== Sys2Proof/Laws/KDolly.lean ====
section
/-!
SUPPORT. Laws/KDolly.lean: what each operation of Machine/Dolly.lean may change, and that it keeps the canonical form.
-/
namespace Sys2Proof.Machine

theorem State.writeSegTail_kept {ws : List Field} {s₀ s : State} (hs_ : Field.sub [.regs, .bar2, .out] ws = true) (req site a : Nat) (val : Word)
    (kh_ : Kept ws s₀ s) : Kept ws s₀ (State.writeSegTail s req site a val) := by
  have q0 := Field.sub_trans (by decide : Field.sub [.regs] [.regs, .bar2, .out] = true) hs_
  unfold State.writeSegTail
  extract_lets -merge head tail n n0 pr
  clear_value head tail n n0 pr
  repeat' with_reducible first
    | assumption
    | intro _
    | apply Kept.ite
    | apply State.reject_kept hs_
    | apply State.setNat_kept q0
    | apply Kept.foldl
    | split
    | extract_lets

theorem State.setSegArm_kept {ws : List Field} {s₀ s : State} (hs_ : Field.sub [.segArms] ws = true) (site a : Nat) (x : Armed)
    (kh_ : Kept ws s₀ s) : Kept ws s₀ (State.setSegArm s site a x) := by
  unfold State.setSegArm
  repeat' with_reducible first
    | assumption
    | intro _
    | apply Kept.ite
    | apply Kept.foldl
    | split
    | extract_lets
    | apply Kept.set_segArms _ hs_

theorem State.clearSegArm_kept {ws : List Field} {s₀ s : State} (hs_ : Field.sub [.regs, .segArms] ws = true) (site a : Nat)
    (kh_ : Kept ws s₀ s) : Kept ws s₀ (State.clearSegArm s site a) := by
  have q0 := Field.sub_trans (by decide : Field.sub [.regs] [.regs, .segArms] = true) hs_
  have q1 := Field.sub_trans (by decide : Field.sub [.segArms] [.regs, .segArms] = true) hs_
  unfold State.clearSegArm
  repeat' with_reducible first
    | assumption
    | intro _
    | apply Kept.ite
    | apply State.putBit_kept q0
    | apply Kept.foldl
    | split
    | extract_lets
    | apply Kept.set_segArms _ q1

theorem State.startSegs_kept {ws : List Field} {s₀ s : State} (hs_ : Field.sub [.axes, .grps] ws = true) (site g : Nat)
    (kh_ : Kept ws s₀ s) : Kept ws s₀ (State.startSegs s site g) := by
  have q0 := Field.sub_trans (by decide : Field.sub [.grps] [.axes, .grps] = true) hs_
  have q1 := Field.sub_trans (by decide : Field.sub [.axes] [.axes, .grps] = true) hs_
  unfold State.startSegs
  extract_lets -merge cruise s1 _
  have k_s1 : Kept ws s₀ s1 := by
    unfold s1
    repeat' with_reducible first
      | assumption
      | intro _
      | apply Kept.ite
      | apply State.setGrp_kept q0
      | apply State.setAxis_kept q1
      | apply Kept.foldl
      | split
      | extract_lets
  clear_value s1
  repeat' with_reducible first
    | assumption
    | intro _
    | apply Kept.ite
    | apply State.setGrp_kept q0
    | apply State.setAxis_kept q1
    | apply Kept.foldl
    | split
    | extract_lets

theorem State.fireSeg_kept {ws : List Field} {s₀ s : State} (hs_ : Field.sub [.regs, .bar2, .out, .segArms, .rings, .axes, .grps] ws = true) (site a line : Nat) (x : Armed)
    (kh_ : Kept ws s₀ s) : Kept ws s₀ (State.fireSeg s site a line x) := by
  have q0 := Field.sub_trans (by decide : Field.sub [.regs, .bar2, .out] [.regs, .bar2, .out, .segArms, .rings, .axes, .grps] = true) hs_
  have q1 := Field.sub_trans (by decide : Field.sub [.rings] [.regs, .bar2, .out, .segArms, .rings, .axes, .grps] = true) hs_
  have q2 := Field.sub_trans (by decide : Field.sub [.axes, .grps] [.regs, .bar2, .out, .segArms, .rings, .axes, .grps] = true) hs_
  have q3 := Field.sub_trans (by decide : Field.sub [.regs, .segArms] [.regs, .bar2, .out, .segArms, .rings, .axes, .grps] = true) hs_
  have q4 := Field.sub_trans (by decide : Field.sub [.segArms] [.regs, .bar2, .out, .segArms, .rings, .axes, .grps] = true) hs_
  have q5 := Field.sub_trans (by decide : Field.sub [.regs] [.regs, .bar2, .out, .segArms, .rings, .axes, .grps] = true) hs_
  unfold State.fireSeg
  extract_lets -merge p g held isLate s1
  clear_value p g held isLate
  have k_s1 : Kept ws s₀ s1 := by
    unfold s1
    repeat' with_reducible first
      | assumption
      | intro _
      | apply Kept.ite
      | apply State.evt_kept q0
      | apply State.lateLine_kept q1
      | apply State.startSegs_kept q2
      | apply State.clearSegArm_kept q3
      | apply State.setSegArm_kept q4
      | apply State.setNat_kept q5
      | apply State.putBit_kept q5
      | apply Kept.foldl
      | split
      | extract_lets
  clear_value s1
  repeat' with_reducible first
    | assumption
    | intro _
    | apply Kept.ite
    | apply State.evt_kept q0
    | apply State.lateLine_kept q1
    | apply State.startSegs_kept q2
    | apply State.clearSegArm_kept q3
    | apply State.setSegArm_kept q4
    | apply State.setNat_kept q5
    | apply State.putBit_kept q5
    | apply Kept.foldl
    | split
    | extract_lets

theorem State.armSeg_kept {ws : List Field} {s₀ s : State} (hs_ : Field.sub [.regs, .bar2, .out, .segArms, .order, .rings, .axes, .grps] ws = true) (site a : Nat) (w : When) (x : Armed)
    (kh_ : Kept ws s₀ s) : Kept ws s₀ (State.armSeg s site a w x) := by
  have q0 := Field.sub_trans (by decide : Field.sub [.regs, .bar2, .out, .segArms, .rings, .axes, .grps] [.regs, .bar2, .out, .segArms, .order, .rings, .axes, .grps] = true) hs_
  have q1 := Field.sub_trans (by decide : Field.sub [.segArms] [.regs, .bar2, .out, .segArms, .order, .rings, .axes, .grps] = true) hs_
  have q2 := Field.sub_trans (by decide : Field.sub [.order] [.regs, .bar2, .out, .segArms, .order, .rings, .axes, .grps] = true) hs_
  unfold State.armSeg
  extract_lets -merge s1
  have k_s1 : Kept ws s₀ s1 := by
    unfold s1
    repeat' with_reducible first
      | assumption
      | intro _
      | apply Kept.ite
      | apply State.fireSeg_kept q0
      | apply State.setSegArm_kept q1
      | apply Kept.foldl
      | split
      | extract_lets
      | apply Kept.set_order _ q2
  clear_value s1
  repeat' with_reducible first
    | assumption
    | intro _
    | apply Kept.ite
    | apply State.fireSeg_kept q0
    | apply State.setSegArm_kept q1
    | apply Kept.foldl
    | split
    | extract_lets
    | apply Kept.set_order _ q2

theorem State.writeSegCtl_kept {ws : List Field} {s₀ s : State} (hs_ : Field.sub [.regs, .bar2, .out, .segArms, .order, .rings, .axes, .grps] ws = true) (req site a : Nat) (val : Word)
    (kh_ : Kept ws s₀ s) : Kept ws s₀ (State.writeSegCtl s req site a val) := by
  have q0 := Field.sub_trans (by decide : Field.sub [.regs, .bar2, .out] [.regs, .bar2, .out, .segArms, .order, .rings, .axes, .grps] = true) hs_
  have q1 := Field.sub_trans (by decide : Field.sub [.regs] [.regs, .bar2, .out, .segArms, .order, .rings, .axes, .grps] = true) hs_
  unfold State.writeSegCtl
  extract_lets -merge p g place clamped base
  clear_value p g place clamped
  have k_base : Kept ws s₀ base := by
    unfold base
    repeat' with_reducible first
      | assumption
      | intro _
      | apply Kept.ite
      | apply State.reject_kept q0
      | apply State.armSeg_kept hs_
      | apply State.putBit_kept q1
      | apply Kept.foldl
      | split
      | extract_lets
  clear_value base
  repeat' with_reducible first
    | assumption
    | intro _
    | apply Kept.ite
    | apply State.reject_kept q0
    | apply State.armSeg_kept hs_
    | apply State.putBit_kept q1
    | apply Kept.foldl
    | split
    | extract_lets

theorem execSegStart_kept {ws : List Field} {s₀ s : State} (hs_ : Field.sub [.regs, .bar2, .out, .segArms, .rings, .axes, .grps] ws = true) (site a : Nat)
    (kh_ : Kept ws s₀ s) : Kept ws s₀ (after s (execSegStart site a s)) := by
  unfold execSegStart
  repeat' with_reducible first
    | assumption
    | intro _
    | apply Kept.after_next
    | apply Kept.ite
    | apply State.fireSeg_kept hs_
    | apply Kept.foldl
    | split
    | extract_lets

theorem State.endSeg_kept {ws : List Field} {s₀ s : State} (hs_ : Field.sub [.regs, .bar2, .out, .ram, .hmem, .rings, .strms, .axes, .grps, .slotRings, .cueQs, .binFlags, .slates, .cancels, .dqs, .cores, .cmbs, .engs, .poison] ws = true) (site a : Nat)
    (kh_ : Kept ws s₀ s) : Kept ws s₀ (State.endSeg s site a) := by
  have q0 := Field.sub_trans (by decide : Field.sub [.regs, .axes] [.regs, .bar2, .out, .ram, .hmem, .rings, .strms, .axes, .grps, .slotRings, .cueQs, .binFlags, .slates, .cancels, .dqs, .cores, .cmbs, .engs, .poison] = true) hs_
  have q1 := Field.sub_trans (by decide : Field.sub [.regs, .bar2, .out] [.regs, .bar2, .out, .ram, .hmem, .rings, .strms, .axes, .grps, .slotRings, .cueQs, .binFlags, .slates, .cancels, .dqs, .cores, .cmbs, .engs, .poison] = true) hs_
  have q2 := Field.sub_trans (by decide : Field.sub [.regs] [.regs, .bar2, .out, .ram, .hmem, .rings, .strms, .axes, .grps, .slotRings, .cueQs, .binFlags, .slates, .cancels, .dqs, .cores, .cmbs, .engs, .poison] = true) hs_
  have q3 := Field.sub_trans (by decide : Field.sub [.axes] [.regs, .bar2, .out, .ram, .hmem, .rings, .strms, .axes, .grps, .slotRings, .cueQs, .binFlags, .slates, .cancels, .dqs, .cores, .cmbs, .engs, .poison] = true) hs_
  unfold State.endSeg
  extract_lets -merge p x head g s1 y s2 s2_1 v
  clear_value p x head g y v
  have k_s1 : Kept ws s₀ s1 := by
    unfold s1
    repeat' with_reducible first
      | assumption
      | intro _
      | apply Kept.ite
      | apply State.moveAxis_kept q0
      | apply State.evt_kept q1
      | apply State.groupStop_kept hs_
      | apply State.setNat_kept q2
      | apply State.setAxis_kept q3
      | apply State.setReg_kept q2
      | apply Kept.foldl
      | split
      | extract_lets
  clear_value s1
  have k_s2 : Kept ws s₀ s2 := by
    unfold s2
    repeat' with_reducible first
      | assumption
      | intro _
      | apply Kept.ite
      | apply State.moveAxis_kept q0
      | apply State.evt_kept q1
      | apply State.groupStop_kept hs_
      | apply State.setNat_kept q2
      | apply State.setAxis_kept q3
      | apply State.setReg_kept q2
      | apply Kept.foldl
      | split
      | extract_lets
  clear_value s2
  have k_s2_1 : Kept ws s₀ s2_1 := by
    unfold s2_1
    repeat' with_reducible first
      | assumption
      | intro _
      | apply Kept.ite
      | apply State.moveAxis_kept q0
      | apply State.evt_kept q1
      | apply State.groupStop_kept hs_
      | apply State.setNat_kept q2
      | apply State.setAxis_kept q3
      | apply State.setReg_kept q2
      | apply Kept.foldl
      | split
      | extract_lets
  clear_value s2_1
  repeat' with_reducible first
    | assumption
    | intro _
    | apply Kept.ite
    | apply State.moveAxis_kept q0
    | apply State.evt_kept q1
    | apply State.groupStop_kept hs_
    | apply State.setNat_kept q2
    | apply State.setAxis_kept q3
    | apply State.setReg_kept q2
    | apply Kept.foldl
    | split
    | extract_lets

theorem execSegDone_kept {ws : List Field} {s₀ s : State} (hs_ : Field.sub [.regs, .bar2, .out, .ram, .hmem, .rings, .strms, .axes, .grps, .slotRings, .cueQs, .binFlags, .slates, .cancels, .dqs, .cores, .cmbs, .engs, .poison] ws = true) (site a : Nat)
    (kh_ : Kept ws s₀ s) : Kept ws s₀ (after s (execSegDone site a s)) := by
  unfold execSegDone
  extract_lets -merge x
  clear_value x
  repeat' with_reducible first
    | assumption
    | intro _
    | apply Kept.after_next
    | apply Kept.ite
    | apply State.endSeg_kept hs_
    | apply Kept.foldl
    | split
    | extract_lets

theorem State.countLock_kept {ws : List Field} {s₀ s : State} (hs_ : Field.sub [.regs, .bar2, .out] ws = true) (site a : Nat)
    (kh_ : Kept ws s₀ s) : Kept ws s₀ (State.countLock s site a) := by
  have q0 := Field.sub_trans (by decide : Field.sub [.regs] [.regs, .bar2, .out] = true) hs_
  unfold State.countLock
  repeat' with_reducible first
    | assumption
    | intro _
    | apply Kept.ite
    | apply State.evt_kept hs_
    | apply State.addSat_kept q0
    | apply Kept.foldl
    | split
    | extract_lets

theorem State.loseLock_kept {ws : List Field} {s₀ s : State} (hs_ : Field.sub [.regs, .bar2, .out, .ram, .hmem, .rings, .strms, .axes, .grps, .slotRings, .cueQs, .binFlags, .slates, .cancels, .dqs, .cores, .cmbs, .engs, .poison] ws = true) (site a : Nat)
    (kh_ : Kept ws s₀ s) : Kept ws s₀ (State.loseLock s site a) := by
  have q0 := Field.sub_trans (by decide : Field.sub [.regs, .bar2, .out] [.regs, .bar2, .out, .ram, .hmem, .rings, .strms, .axes, .grps, .slotRings, .cueQs, .binFlags, .slates, .cancels, .dqs, .cores, .cmbs, .engs, .poison] = true) hs_
  have q1 := Field.sub_trans (by decide : Field.sub [.regs] [.regs, .bar2, .out, .ram, .hmem, .rings, .strms, .axes, .grps, .slotRings, .cueQs, .binFlags, .slates, .cancels, .dqs, .cores, .cmbs, .engs, .poison] = true) hs_
  unfold State.loseLock
  extract_lets -merge p g s1 s2
  clear_value p g
  have k_s1 : Kept ws s₀ s1 := by
    unfold s1
    repeat' with_reducible first
      | assumption
      | intro _
      | apply Kept.ite
      | apply State.evt_kept q0
      | apply State.countLock_kept q0
      | apply State.groupStop_kept hs_
      | apply State.setUnc_kept q1
      | apply State.putBit_kept q1
      | apply Kept.foldl
      | split
      | extract_lets
  clear_value s1
  have k_s2 : Kept ws s₀ s2 := by
    unfold s2
    repeat' with_reducible first
      | assumption
      | intro _
      | apply Kept.ite
      | apply State.evt_kept q0
      | apply State.countLock_kept q0
      | apply State.groupStop_kept hs_
      | apply State.setUnc_kept q1
      | apply State.putBit_kept q1
      | apply Kept.foldl
      | split
      | extract_lets
  clear_value s2
  repeat' with_reducible first
    | assumption
    | intro _
    | apply Kept.ite
    | apply State.evt_kept q0
    | apply State.countLock_kept q0
    | apply State.groupStop_kept hs_
    | apply State.setUnc_kept q1
    | apply State.putBit_kept q1
    | apply Kept.foldl
    | split
    | extract_lets

theorem State.observe_kept {ws : List Field} {s₀ s : State} (hs_ : Field.sub [.regs, .bar2, .out, .ram, .hmem, .rings, .strms, .axes, .grps, .slotRings, .cueQs, .binFlags, .slates, .cancels, .dqs, .cores, .cmbs, .engs, .poison] ws = true) (site a : Nat) (o : Observer)
    (kh_ : Kept ws s₀ s) : Kept ws s₀ (State.observe s site a o) := by
  have q0 := Field.sub_trans (by decide : Field.sub [.regs, .bar2, .out] [.regs, .bar2, .out, .ram, .hmem, .rings, .strms, .axes, .grps, .slotRings, .cueQs, .binFlags, .slates, .cancels, .dqs, .cores, .cmbs, .engs, .poison] = true) hs_
  have q1 := Field.sub_trans (by decide : Field.sub [.regs] [.regs, .bar2, .out, .ram, .hmem, .rings, .strms, .axes, .grps, .slotRings, .cueQs, .binFlags, .slates, .cancels, .dqs, .cores, .cmbs, .engs, .poison] = true) hs_
  have q2 := Field.sub_trans (by decide : Field.sub [.axes] [.regs, .bar2, .out, .ram, .hmem, .rings, .strms, .axes, .grps, .slotRings, .cueQs, .binFlags, .slates, .cancels, .dqs, .cores, .cmbs, .engs, .poison] = true) hs_
  unfold State.observe
  extract_lets -merge p s1 x s2 pos at_ s2_1 _
  clear_value p x pos at_
  have k_s1 : Kept ws s₀ s1 := by
    unfold s1
    repeat' with_reducible first
      | assumption
      | intro _
      | apply Kept.ite
      | apply State.evtIf_kept q0
      | apply State.loseLock_kept hs_
      | apply State.setNat_kept q1
      | apply State.putBit_kept q1
      | apply State.setAxis_kept q2
      | apply Kept.foldl
      | split
      | extract_lets
  clear_value s1
  have k_s2 : Kept ws s₀ s2 := by
    unfold s2
    repeat' with_reducible first
      | assumption
      | intro _
      | apply Kept.ite
      | apply State.evtIf_kept q0
      | apply State.loseLock_kept hs_
      | apply State.setNat_kept q1
      | apply State.putBit_kept q1
      | apply State.setAxis_kept q2
      | apply Kept.foldl
      | split
      | extract_lets
  clear_value s2
  have k_s2_1 : Kept ws s₀ s2_1 := by
    unfold s2_1
    repeat' with_reducible first
      | assumption
      | intro _
      | apply Kept.ite
      | apply State.evtIf_kept q0
      | apply State.loseLock_kept hs_
      | apply State.setNat_kept q1
      | apply State.putBit_kept q1
      | apply State.setAxis_kept q2
      | apply Kept.foldl
      | split
      | extract_lets
  clear_value s2_1
  repeat' with_reducible first
    | assumption
    | intro _
    | apply Kept.ite
    | apply State.evtIf_kept q0
    | apply State.loseLock_kept hs_
    | apply State.setNat_kept q1
    | apply State.putBit_kept q1
    | apply State.setAxis_kept q2
    | apply Kept.foldl
    | split
    | extract_lets

theorem State.chopOffs_kept {ws : List Field} {s₀ s : State} (hs_ : Field.sub [.regs, .bar2, .out, .axes] ws = true) (site a : Nat) (d : Int)
    (kh_ : Kept ws s₀ s) : Kept ws s₀ (State.chopOffs s site a d) := by
  have q0 := Field.sub_trans (by decide : Field.sub [.regs] [.regs, .bar2, .out, .axes] = true) hs_
  unfold State.chopOffs
  extract_lets -merge p offs lo hi want n _
  clear_value p offs lo hi want n
  repeat' with_reducible first
    | assumption
    | intro _
    | apply Kept.ite
    | apply State.axSat_kept hs_
    | apply State.setNat_kept q0
    | apply Kept.foldl
    | split
    | extract_lets

theorem State.chopDrive_kept {ws : List Field} {s₀ s : State} (hs_ : Field.sub [.axes] ws = true) (site a : Nat) (codes : List (Int × Int))
    (kh_ : Kept ws s₀ s) : Kept ws s₀ (State.chopDrive s site a codes) := by
  unfold State.chopDrive
  extract_lets -merge p x dem per h toff run ca cb
  clear_value p x dem per h toff run ca cb
  repeat' with_reducible first
    | assumption
    | intro _
    | apply Kept.ite
    | apply State.setAxis_kept hs_
    | apply Kept.foldl
    | split
    | extract_lets

theorem State.drive_kept {ws : List Field} {s₀ s : State} (hs_ : Field.sub [.regs, .bar2, .out, .axes] ws = true) (site a : Nat) (codes : List (Int × Int))
    (kh_ : Kept ws s₀ s) : Kept ws s₀ (State.drive s site a codes) := by
  have q0 := Field.sub_trans (by decide : Field.sub [.axes] [.regs, .bar2, .out, .axes] = true) hs_
  unfold State.drive
  extract_lets -merge x dem n s1 _
  clear_value x dem n
  have k_s1 : Kept ws s₀ s1 := by
    unfold s1
    repeat' with_reducible first
      | assumption
      | intro _
      | apply Kept.ite
      | apply State.chopDrive_kept q0
      | apply State.axSat_kept hs_
      | apply State.setAxis_kept q0
      | apply Kept.foldl
      | split
      | extract_lets
  clear_value s1
  repeat' with_reducible first
    | assumption
    | intro _
    | apply Kept.ite
    | apply State.chopDrive_kept q0
    | apply State.axSat_kept hs_
    | apply State.setAxis_kept q0
    | apply Kept.foldl
    | split
    | extract_lets

theorem State.electrical_kept {ws : List Field} {s₀ s : State} (hs_ : Field.sub [.regs, .bar2, .out, .axes] ws = true) (site a : Nat)
    (kh_ : Kept ws s₀ s) : Kept ws s₀ (State.electrical s site a) := by
  have q0 := Field.sub_trans (by decide : Field.sub [.axes] [.regs, .bar2, .out, .axes] = true) hs_
  unfold State.electrical
  extract_lets -merge x e s1
  clear_value x e
  have k_s1 : Kept ws s₀ s1 := by
    unfold s1
    repeat' with_reducible first
      | assumption
      | intro _
      | apply Kept.ite
      | apply State.chopOffs_kept hs_
      | apply State.setAxis_kept q0
      | apply Kept.foldl
      | split
      | extract_lets
  clear_value s1
  repeat' with_reducible first
    | assumption
    | intro _
    | apply Kept.ite
    | apply State.chopOffs_kept hs_
    | apply State.setAxis_kept q0
    | apply Kept.foldl
    | split
    | extract_lets

theorem State.modePolicy_kept {ws : List Field} {s₀ s : State} (hs_ : Field.sub [.regs, .bar2, .out, .axes] ws = true) (site a : Nat)
    (kh_ : Kept ws s₀ s) : Kept ws s₀ (State.modePolicy s site a) := by
  have q0 := Field.sub_trans (by decide : Field.sub [.regs, .bar2, .out] [.regs, .bar2, .out, .axes] = true) hs_
  have q1 := Field.sub_trans (by decide : Field.sub [.regs] [.regs, .bar2, .out, .axes] = true) hs_
  have q2 := Field.sub_trans (by decide : Field.sub [.axes] [.regs, .bar2, .out, .axes] = true) hs_
  unfold State.modePolicy
  extract_lets -merge p x strong policy s1 forced want next
  clear_value p x strong policy forced want next
  have k_s1 : Kept ws s₀ s1 := by
    unfold s1
    repeat' with_reducible first
      | assumption
      | intro _
      | apply Kept.ite
      | apply State.evtIf_kept q0
      | apply State.putBit_kept q1
      | apply State.setAxis_kept q2
      | apply Kept.foldl
      | split
      | extract_lets
  clear_value s1
  repeat' with_reducible first
    | assumption
    | intro _
    | apply Kept.ite
    | apply State.evtIf_kept q0
    | apply State.putBit_kept q1
    | apply State.setAxis_kept q2
    | apply Kept.foldl
    | split
    | extract_lets

theorem State.senseShow_kept {ws : List Field} {s₀ s : State} (hs_ : Field.sub [.regs] ws = true) (site a : Nat) (codes : List (Int × Int))
    (kh_ : Kept ws s₀ s) : Kept ws s₀ (State.senseShow s site a codes) := by
  unfold State.senseShow
  repeat' with_reducible first
    | assumption
    | intro _
    | apply Kept.ite
    | apply State.setNat_kept hs_
    | apply Kept.foldl
    | split
    | extract_lets

theorem execPwmPeriod_kept {ws : List Field} {s₀ s : State} (hs_ : Field.sub [.regs, .bar2, .out, .ram, .hmem, .rings, .strms, .axes, .grps, .slotRings, .cueQs, .binFlags, .slates, .cancels, .dqs, .cores, .cmbs, .engs, .poison] ws = true) (site a : Nat) (obs : Observer)
    (kh_ : Kept ws s₀ s) : Kept ws s₀ (after s (execPwmPeriod site a obs s)) := by
  have q0 := Field.sub_trans (by decide : Field.sub [.regs] [.regs, .bar2, .out, .ram, .hmem, .rings, .strms, .axes, .grps, .slotRings, .cueQs, .binFlags, .slates, .cancels, .dqs, .cores, .cmbs, .engs, .poison] = true) hs_
  have q1 := Field.sub_trans (by decide : Field.sub [.regs, .bar2, .out, .axes] [.regs, .bar2, .out, .ram, .hmem, .rings, .strms, .axes, .grps, .slotRings, .cueQs, .binFlags, .slates, .cancels, .dqs, .cores, .cmbs, .engs, .poison] = true) hs_
  unfold execPwmPeriod
  repeat' with_reducible first
    | assumption
    | intro _
    | apply Kept.after_next
    | apply Kept.ite
    | apply State.senseShow_kept q0
    | apply State.modePolicy_kept q1
    | apply State.electrical_kept q1
    | apply State.drive_kept q1
    | apply State.observe_kept hs_
    | apply Kept.foldl
    | split
    | extract_lets

theorem execModeSwitch_kept {ws : List Field} {s₀ s : State} (hs_ : Field.sub [.regs, .bar2, .out, .axes] ws = true) (site a : Nat)
    (kh_ : Kept ws s₀ s) : Kept ws s₀ (after s (execModeSwitch site a s)) := by
  have q0 := Field.sub_trans (by decide : Field.sub [.regs, .bar2, .out] [.regs, .bar2, .out, .axes] = true) hs_
  have q1 := Field.sub_trans (by decide : Field.sub [.regs] [.regs, .bar2, .out, .axes] = true) hs_
  have q2 := Field.sub_trans (by decide : Field.sub [.axes] [.regs, .bar2, .out, .axes] = true) hs_
  unfold execModeSwitch
  extract_lets -merge _
  repeat' with_reducible first
    | assumption
    | intro _
    | apply Kept.after_next
    | apply Kept.ite
    | apply State.evt_kept q0
    | apply State.putBit_kept q1
    | apply State.setAxis_kept q2
    | apply Kept.foldl
    | split
    | extract_lets

theorem State.axisReady_kept {ws : List Field} {s₀ s : State} (hs_ : Field.sub [.regs, .axes] ws = true) (site a : Nat)
    (kh_ : Kept ws s₀ s) : Kept ws s₀ (State.axisReady s site a) := by
  have q0 := Field.sub_trans (by decide : Field.sub [.regs] [.regs, .axes] = true) hs_
  have q1 := Field.sub_trans (by decide : Field.sub [.axes] [.regs, .axes] = true) hs_
  unfold State.axisReady
  extract_lets -merge p hold strong _
  clear_value p hold strong
  repeat' with_reducible first
    | assumption
    | intro _
    | apply Kept.ite
    | apply State.putBit_kept q0
    | apply State.setAxis_kept q1
    | apply Kept.foldl
    | split
    | extract_lets

theorem execAtHold_kept {ws : List Field} {s₀ s : State} (hs_ : Field.sub [.regs] ws = true) (site a : Nat)
    (kh_ : Kept ws s₀ s) : Kept ws s₀ (after s (execAtHold site a s)) := by
  unfold execAtHold
  extract_lets -merge x
  clear_value x
  repeat' with_reducible first
    | assumption
    | intro _
    | apply Kept.after_next
    | apply Kept.ite
    | apply State.putBit_kept hs_
    | apply Kept.foldl
    | split
    | extract_lets

theorem State.clrLock_kept {ws : List Field} {s₀ s : State} (hs_ : Field.sub [.regs, .bar2, .out] ws = true) (req site a : Nat) (val : Word)
    (kh_ : Kept ws s₀ s) : Kept ws s₀ (State.clrLock s req site a val) := by
  have q0 := Field.sub_trans (by decide : Field.sub [.regs] [.regs, .bar2, .out] = true) hs_
  unfold State.clrLock
  extract_lets -merge p
  clear_value p
  repeat' with_reducible first
    | assumption
    | intro _
    | apply Kept.ite
    | apply State.reject_kept hs_
    | apply State.putBit_kept q0
    | apply Kept.foldl
    | split
    | extract_lets

theorem State.grpCmd_kept {ws : List Field} {s₀ s : State} (hs_ : Field.sub [.regs, .bar2, .out, .ram, .hmem, .rings, .strms, .axes, .grps, .slotRings, .cueQs, .binFlags, .slates, .cancels, .dqs, .cores, .cmbs, .engs, .poison] ws = true) (req site g : Nat) (val : Word)
    (kh_ : Kept ws s₀ s) : Kept ws s₀ (State.grpCmd s req site g val) := by
  have q0 := Field.sub_trans (by decide : Field.sub [.regs, .bar2, .out, .axes, .grps] [.regs, .bar2, .out, .ram, .hmem, .rings, .strms, .axes, .grps, .slotRings, .cueQs, .binFlags, .slates, .cancels, .dqs, .cores, .cmbs, .engs, .poison] = true) hs_
  have q1 := Field.sub_trans (by decide : Field.sub [.regs, .bar2, .out] [.regs, .bar2, .out, .ram, .hmem, .rings, .strms, .axes, .grps, .slotRings, .cueQs, .binFlags, .slates, .cancels, .dqs, .cores, .cmbs, .engs, .poison] = true) hs_
  unfold State.grpCmd
  repeat' with_reducible first
    | assumption
    | intro _
    | apply Kept.ite
    | apply State.releaseGroup_kept q0
    | apply State.reject_kept q1
    | apply State.groupStop_kept hs_
    | apply Kept.foldl
    | split
    | extract_lets

theorem execOvercurrent_kept {ws : List Field} {s₀ s : State} (hs_ : Field.sub [.regs, .bar2, .out, .ram, .hmem, .rings, .strms, .axes, .grps, .slotRings, .cueQs, .binFlags, .slates, .cancels, .dqs, .cores, .cmbs, .engs, .poison] ws = true) (site a : Nat)
    (kh_ : Kept ws s₀ s) : Kept ws s₀ (after s (execOvercurrent site a s)) := by
  unfold execOvercurrent
  repeat' with_reducible first
    | assumption
    | intro _
    | apply Kept.after_next
    | apply Kept.ite
    | apply State.axisFault_kept hs_
    | apply Kept.foldl
    | split
    | extract_lets

theorem execSenseFail_kept {ws : List Field} {s₀ s : State} (hs_ : Field.sub [.regs, .bar2, .out, .ram, .hmem, .rings, .strms, .axes, .grps, .slotRings, .cueQs, .binFlags, .slates, .cancels, .dqs, .cores, .cmbs, .engs, .poison] ws = true) (site a : Nat)
    (kh_ : Kept ws s₀ s) : Kept ws s₀ (after s (execSenseFail site a s)) := by
  unfold execSenseFail
  repeat' with_reducible first
    | assumption
    | intro _
    | apply Kept.after_next
    | apply Kept.ite
    | apply State.axisFault_kept hs_
    | apply Kept.foldl
    | split
    | extract_lets

theorem execPaceStep_kept {ws : List Field} {s₀ s : State} (hs_ : Field.sub [.regs, .grps] ws = true) (site g : Nat)
    (kh_ : Kept ws s₀ s) : Kept ws s₀ (after s (execPaceStep site g s)) := by
  have q0 := Field.sub_trans (by decide : Field.sub [.regs] [.regs, .grps] = true) hs_
  have q1 := Field.sub_trans (by decide : Field.sub [.grps] [.regs, .grps] = true) hs_
  unfold execPaceStep
  extract_lets -merge p k slew step pace tgt n _
  clear_value p k slew step pace tgt n
  repeat' with_reducible first
    | assumption
    | intro _
    | apply Kept.after_next
    | apply Kept.ite
    | apply State.setNat_kept q0
    | apply State.setGrp_kept q1
    | apply Kept.foldl
    | split
    | extract_lets

end Sys2Proof.Machine
end

