-- ==== Sys2Proof/Laws/KGateOps.lean ====
section
/-!
SUPPORT. Laws/KGateOps.lean: what each operation of Machine/GateOps.lean may change, and that it keeps the canonical form.
-/
namespace Sys2Proof.Machine

theorem State.showStream_kept {ws : List Field} {s₀ s : State} (hs_ : Field.sub [.regs] ws = true) (site k : Nat)
    (kh_ : Kept ws s₀ s) : Kept ws s₀ (State.showStream s site k) := by
  unfold State.showStream
  repeat' with_reducible first
    | assumption
    | intro _
    | apply Kept.ite
    | apply State.setNat_kept hs_
    | apply Kept.foldl
    | split
    | extract_lets

theorem State.showAdmit_kept {ws : List Field} {s₀ s : State} (hs_ : Field.sub [.regs] ws = true)
    (kh_ : Kept ws s₀ s) : Kept ws s₀ (State.showAdmit s) := by
  unfold State.showAdmit
  repeat' with_reducible first
    | assumption
    | intro _
    | apply Kept.ite
    | apply State.setNat_kept hs_
    | apply Kept.foldl
    | split
    | extract_lets

theorem State.attach_kept {ws : List Field} {s₀ s : State} (hs_ : Field.sub [.regs, .bar2, .out] ws = true) (site k die core ring rows slots : Nat)
    (kh_ : Kept ws s₀ s) : Kept ws s₀ (State.attach s site k die core ring rows slots) := by
  have q0 := Field.sub_trans (by decide : Field.sub [.regs] [.regs, .bar2, .out] = true) hs_
  unfold State.attach
  extract_lets -merge p s1
  clear_value p
  have k_s1 : Kept ws s₀ s1 := by
    unfold s1
    repeat' with_reducible first
      | assumption
      | intro _
      | apply Kept.ite
      | apply State.evt_kept hs_
      | apply State.showAdmit_kept q0
      | apply State.showStream_kept q0
      | apply State.setNat_kept q0
      | apply Kept.foldl
      | split
      | extract_lets
  clear_value s1
  repeat' with_reducible first
    | assumption
    | intro _
    | apply Kept.ite
    | apply State.evt_kept hs_
    | apply State.showAdmit_kept q0
    | apply State.showStream_kept q0
    | apply State.setNat_kept q0
    | apply Kept.foldl
    | split
    | extract_lets

theorem State.detach_kept {ws : List Field} {s₀ s : State} (hs_ : Field.sub [.regs, .bar2, .out] ws = true) (site k : Nat)
    (kh_ : Kept ws s₀ s) : Kept ws s₀ (State.detach s site k) := by
  have q0 := Field.sub_trans (by decide : Field.sub [.regs] [.regs, .bar2, .out] = true) hs_
  unfold State.detach
  extract_lets -merge p s1
  clear_value p
  have k_s1 : Kept ws s₀ s1 := by
    unfold s1
    repeat' with_reducible first
      | assumption
      | intro _
      | apply Kept.ite
      | apply State.evt_kept hs_
      | apply State.showAdmit_kept q0
      | apply State.showStream_kept q0
      | apply State.setNat_kept q0
      | apply Kept.foldl
      | split
      | extract_lets
  clear_value s1
  repeat' with_reducible first
    | assumption
    | intro _
    | apply Kept.ite
    | apply State.evt_kept hs_
    | apply State.showAdmit_kept q0
    | apply State.showStream_kept q0
    | apply State.setNat_kept q0
    | apply Kept.foldl
    | split
    | extract_lets

theorem State.attachPass_kept {ws : List Field} {s₀ s : State} (hs_ : Field.sub [.regs, .bar2, .out] ws = true) (site k : Nat)
    (kh_ : Kept ws s₀ s) : Kept ws s₀ (State.attachPass s site k) := by
  unfold State.attachPass
  repeat' with_reducible first
    | assumption
    | intro _
    | apply Kept.ite
    | apply State.attach_kept hs_
    | apply Kept.foldl
    | split
    | extract_lets

theorem State.losePass_kept {ws : List Field} {s₀ s : State} (hs_ : Field.sub [.regs, .bar2, .out] ws = true) (site k : Nat)
    (kh_ : Kept ws s₀ s) : Kept ws s₀ (State.losePass s site k) := by
  unfold State.losePass
  repeat' with_reducible first
    | assumption
    | intro _
    | apply Kept.ite
    | apply State.detach_kept hs_
    | apply Kept.foldl
    | split
    | extract_lets

theorem State.showFifo_kept {ws : List Field} {s₀ s : State} (hs_ : Field.sub [.regs] ws = true) (site g : Nat)
    (kh_ : Kept ws s₀ s) : Kept ws s₀ (State.showFifo s site g) := by
  unfold State.showFifo
  repeat' with_reducible first
    | assumption
    | intro _
    | apply Kept.ite
    | apply State.putFld_kept hs_
    | apply Kept.foldl
    | split
    | extract_lets

theorem State.firstLine_kept {ws : List Field} {s₀ s : State} (hs_ : Field.sub [.regs, .bar2, .out, .rings, .strms, .free] ws = true) (site k l : Nat)
    (kh_ : Kept ws s₀ s) : Kept ws s₀ (State.firstLine s site k l) := by
  have q0 := Field.sub_trans (by decide : Field.sub [.regs, .bar2, .out] [.regs, .bar2, .out, .rings, .strms, .free] = true) hs_
  have q1 := Field.sub_trans (by decide : Field.sub [.rings] [.regs, .bar2, .out, .rings, .strms, .free] = true) hs_
  have q2 := Field.sub_trans (by decide : Field.sub [.free] [.regs, .bar2, .out, .rings, .strms, .free] = true) hs_
  have q3 := Field.sub_trans (by decide : Field.sub [.regs] [.regs, .bar2, .out, .rings, .strms, .free] = true) hs_
  have q4 := Field.sub_trans (by decide : Field.sub [.strms] [.regs, .bar2, .out, .rings, .strms, .free] = true) hs_
  unfold State.firstLine
  extract_lets -merge x s1 s2 a b
  clear_value x a b
  have k_s1 : Kept ws s₀ s1 := by
    unfold s1
    repeat' with_reducible first
      | assumption
      | intro _
      | apply Kept.ite
      | apply State.evt_kept q0
      | apply State.queueRec_kept q1
      | apply State.draw_kept q2
      | apply State.setNat_kept q3
      | apply State.setStrm_kept q4
      | apply Kept.foldl
      | split
      | extract_lets
  clear_value s1
  have k_s2 : Kept ws s₀ s2 := by
    unfold s2
    repeat' with_reducible first
      | assumption
      | intro _
      | apply Kept.ite
      | apply State.evt_kept q0
      | apply State.queueRec_kept q1
      | apply State.draw_kept q2
      | apply State.setNat_kept q3
      | apply State.setStrm_kept q4
      | apply Kept.foldl
      | split
      | extract_lets
  clear_value s2
  repeat' with_reducible first
    | assumption
    | intro _
    | apply Kept.ite
    | apply State.evt_kept q0
    | apply State.queueRec_kept q1
    | apply State.draw_kept q2
    | apply State.setNat_kept q3
    | apply State.setStrm_kept q4
    | apply Kept.foldl
    | split
    | extract_lets

theorem State.resumeAt_kept {ws : List Field} {s₀ s : State} (hs_ : Field.sub [.regs, .bar2, .out, .rings, .strms, .free] ws = true) (site k l : Nat)
    (kh_ : Kept ws s₀ s) : Kept ws s₀ (State.resumeAt s site k l) := by
  have q0 := Field.sub_trans (by decide : Field.sub [.regs, .bar2, .out] [.regs, .bar2, .out, .rings, .strms, .free] = true) hs_
  have q1 := Field.sub_trans (by decide : Field.sub [.regs] [.regs, .bar2, .out, .rings, .strms, .free] = true) hs_
  have q2 := Field.sub_trans (by decide : Field.sub [.rings] [.regs, .bar2, .out, .rings, .strms, .free] = true) hs_
  have q3 := Field.sub_trans (by decide : Field.sub [.rings, .free] [.regs, .bar2, .out, .rings, .strms, .free] = true) hs_
  have q4 := Field.sub_trans (by decide : Field.sub [.free] [.regs, .bar2, .out, .rings, .strms, .free] = true) hs_
  have q5 := Field.sub_trans (by decide : Field.sub [.strms] [.regs, .bar2, .out, .rings, .strms, .free] = true) hs_
  unfold State.resumeAt
  extract_lets -merge p d sl posn s0 ns sec s1 n gap s2 s3 _
  clear_value p d sl posn ns sec n gap
  have k_s0 : Kept ws s₀ s0 := by
    unfold s0
    repeat' with_reducible first
      | assumption
      | intro _
      | apply Kept.ite
      | apply State.evt_kept q0
      | apply State.clearSplice_kept q1
      | apply State.queueRec_kept q2
      | apply State.fixStop_kept q3
      | apply State.draw_kept q4
      | apply State.setStrm_kept q5
      | apply Kept.foldl
      | split
      | extract_lets
  clear_value s0
  have k_s1 : Kept ws s₀ s1 := by
    unfold s1
    repeat' with_reducible first
      | assumption
      | intro _
      | apply Kept.ite
      | apply State.evt_kept q0
      | apply State.clearSplice_kept q1
      | apply State.queueRec_kept q2
      | apply State.fixStop_kept q3
      | apply State.draw_kept q4
      | apply State.setStrm_kept q5
      | apply Kept.foldl
      | split
      | extract_lets
  clear_value s1
  have k_s2 : Kept ws s₀ s2 := by
    unfold s2
    repeat' with_reducible first
      | assumption
      | intro _
      | apply Kept.ite
      | apply State.evt_kept q0
      | apply State.clearSplice_kept q1
      | apply State.queueRec_kept q2
      | apply State.fixStop_kept q3
      | apply State.draw_kept q4
      | apply State.setStrm_kept q5
      | apply Kept.foldl
      | split
      | extract_lets
  clear_value s2
  have k_s3 : Kept ws s₀ s3 := by
    unfold s3
    repeat' with_reducible first
      | assumption
      | intro _
      | apply Kept.ite
      | apply State.evt_kept q0
      | apply State.clearSplice_kept q1
      | apply State.queueRec_kept q2
      | apply State.fixStop_kept q3
      | apply State.draw_kept q4
      | apply State.setStrm_kept q5
      | apply Kept.foldl
      | split
      | extract_lets
  clear_value s3
  repeat' with_reducible first
    | assumption
    | intro _
    | apply Kept.ite
    | apply State.evt_kept q0
    | apply State.clearSplice_kept q1
    | apply State.queueRec_kept q2
    | apply State.fixStop_kept q3
    | apply State.draw_kept q4
    | apply State.setStrm_kept q5
    | apply Kept.foldl
    | split
    | extract_lets

theorem State.restartDone_kept {ws : List Field} {s₀ s : State} (hs_ : Field.sub [.regs, .bar2, .out] ws = true) (site g : Nat)
    (kh_ : Kept ws s₀ s) : Kept ws s₀ (State.restartDone s site g) := by
  have q0 := Field.sub_trans (by decide : Field.sub [.regs] [.regs, .bar2, .out] = true) hs_
  unfold State.restartDone
  extract_lets -merge p
  clear_value p
  repeat' with_reducible first
    | assumption
    | intro _
    | apply Kept.ite
    | apply State.evt_kept hs_
    | apply State.putBit_kept q0
    | apply Kept.foldl
    | split
    | extract_lets

theorem State.takeLine_kept {ws : List Field} {s₀ s : State} (hs_ : Field.sub [.regs, .bar2, .out, .rings, .strms, .free] ws = true) (site k : Nat) (row : LRow)
    (kh_ : Kept ws s₀ s) : Kept ws s₀ (State.takeLine s site k row) := by
  have q0 := Field.sub_trans (by decide : Field.sub [.regs] [.regs, .bar2, .out, .rings, .strms, .free] = true) hs_
  have q1 := Field.sub_trans (by decide : Field.sub [.regs, .bar2, .out] [.regs, .bar2, .out, .rings, .strms, .free] = true) hs_
  have q2 := Field.sub_trans (by decide : Field.sub [.regs, .bar2, .out, .rings, .strms] [.regs, .bar2, .out, .rings, .strms, .free] = true) hs_
  have q3 := Field.sub_trans (by decide : Field.sub [.regs, .bar2, .out, .strms] [.regs, .bar2, .out, .rings, .strms, .free] = true) hs_
  have q4 := Field.sub_trans (by decide : Field.sub [.strms] [.regs, .bar2, .out, .rings, .strms, .free] = true) hs_
  unfold State.takeLine
  extract_lets -merge s1 x gap s2 fresh s3 _ s4
  clear_value x gap fresh
  have k_s1 : Kept ws s₀ s1 := by
    unfold s1
    repeat' with_reducible first
      | assumption
      | intro _
      | apply Kept.ite
      | apply State.resumeAt_kept hs_
      | apply State.firstLine_kept hs_
      | apply State.showPipe_kept q0
      | apply State.heldAt_kept q1
      | apply State.reserve_kept q2
      | apply State.frameLine_kept q3
      | apply State.setStrm_kept q4
      | apply Kept.foldl
      | split
      | extract_lets
  clear_value s1
  have k_s2 : Kept ws s₀ s2 := by
    unfold s2
    repeat' with_reducible first
      | assumption
      | intro _
      | apply Kept.ite
      | apply State.resumeAt_kept hs_
      | apply State.firstLine_kept hs_
      | apply State.showPipe_kept q0
      | apply State.heldAt_kept q1
      | apply State.reserve_kept q2
      | apply State.frameLine_kept q3
      | apply State.setStrm_kept q4
      | apply Kept.foldl
      | split
      | extract_lets
  clear_value s2
  have k_s3 : Kept ws s₀ s3 := by
    unfold s3
    repeat' with_reducible first
      | assumption
      | intro _
      | apply Kept.ite
      | apply State.resumeAt_kept hs_
      | apply State.firstLine_kept hs_
      | apply State.showPipe_kept q0
      | apply State.heldAt_kept q1
      | apply State.reserve_kept q2
      | apply State.frameLine_kept q3
      | apply State.setStrm_kept q4
      | apply Kept.foldl
      | split
      | extract_lets
  clear_value s3
  have k_s4 : Kept ws s₀ s4 := by
    unfold s4
    repeat' with_reducible first
      | assumption
      | intro _
      | apply Kept.ite
      | apply State.resumeAt_kept hs_
      | apply State.firstLine_kept hs_
      | apply State.showPipe_kept q0
      | apply State.heldAt_kept q1
      | apply State.reserve_kept q2
      | apply State.frameLine_kept q3
      | apply State.setStrm_kept q4
      | apply Kept.foldl
      | split
      | extract_lets
  clear_value s4
  repeat' with_reducible first
    | assumption
    | intro _
    | apply Kept.ite
    | apply State.resumeAt_kept hs_
    | apply State.firstLine_kept hs_
    | apply State.showPipe_kept q0
    | apply State.heldAt_kept q1
    | apply State.reserve_kept q2
    | apply State.frameLine_kept q3
    | apply State.setStrm_kept q4
    | apply Kept.foldl
    | split
    | extract_lets

theorem State.capture_kept {ws : List Field} {s₀ s : State} (hs_ : Field.sub [.regs, .bar2, .out, .poss, .rings, .strms, .gates, .free] ws = true) (site g : Nat) (late : Bool)
    (kh_ : Kept ws s₀ s) : Kept ws s₀ (State.capture s site g late) := by
  have q0 := Field.sub_trans (by decide : Field.sub [.poss] [.regs, .bar2, .out, .poss, .rings, .strms, .gates, .free] = true) hs_
  have q1 := Field.sub_trans (by decide : Field.sub [.regs, .bar2, .out, .rings, .strms, .free] [.regs, .bar2, .out, .poss, .rings, .strms, .gates, .free] = true) hs_
  have q2 := Field.sub_trans (by decide : Field.sub [.regs, .bar2, .out] [.regs, .bar2, .out, .poss, .rings, .strms, .gates, .free] = true) hs_
  have q3 := Field.sub_trans (by decide : Field.sub [.regs] [.regs, .bar2, .out, .poss, .rings, .strms, .gates, .free] = true) hs_
  have q4 := Field.sub_trans (by decide : Field.sub [.gates] [.regs, .bar2, .out, .poss, .rings, .strms, .gates, .free] = true) hs_
  unfold State.capture
  extract_lets -merge x l gt rescan e pitch runs now old used snaps unc retaken flags at_ cap s1 nx s2 p s3 row s4 _
  clear_value x l gt rescan e pitch runs now old used snaps unc retaken flags at_ cap nx p row
  have k_s1 : Kept ws s₀ s1 := by
    unfold s1
    repeat' with_reducible first
      | assumption
      | intro _
      | apply Kept.ite
      | apply State.setPos_kept q0
      | apply State.takeLine_kept q1
      | apply State.restartDone_kept q2
      | apply State.evt_kept q2
      | apply State.trackPos_kept q0
      | apply State.setNat_kept q3
      | apply State.setGate_kept q4
      | apply State.setReg_kept q3
      | apply Kept.foldl
      | split
      | extract_lets
  clear_value s1
  have k_s2 : Kept ws s₀ s2 := by
    unfold s2
    repeat' with_reducible first
      | assumption
      | intro _
      | apply Kept.ite
      | apply State.setPos_kept q0
      | apply State.takeLine_kept q1
      | apply State.restartDone_kept q2
      | apply State.evt_kept q2
      | apply State.trackPos_kept q0
      | apply State.setNat_kept q3
      | apply State.setGate_kept q4
      | apply State.setReg_kept q3
      | apply Kept.foldl
      | split
      | extract_lets
  clear_value s2
  have k_s3 : Kept ws s₀ s3 := by
    unfold s3
    repeat' with_reducible first
      | assumption
      | intro _
      | apply Kept.ite
      | apply State.setPos_kept q0
      | apply State.takeLine_kept q1
      | apply State.restartDone_kept q2
      | apply State.evt_kept q2
      | apply State.trackPos_kept q0
      | apply State.setNat_kept q3
      | apply State.setGate_kept q4
      | apply State.setReg_kept q3
      | apply Kept.foldl
      | split
      | extract_lets
  clear_value s3
  have k_s4 : Kept ws s₀ s4 := by
    unfold s4
    repeat' with_reducible first
      | assumption
      | intro _
      | apply Kept.ite
      | apply State.setPos_kept q0
      | apply State.takeLine_kept q1
      | apply State.restartDone_kept q2
      | apply State.evt_kept q2
      | apply State.trackPos_kept q0
      | apply State.setNat_kept q3
      | apply State.setGate_kept q4
      | apply State.setReg_kept q3
      | apply Kept.foldl
      | split
      | extract_lets
  clear_value s4
  repeat' with_reducible first
    | assumption
    | intro _
    | apply Kept.ite
    | apply State.setPos_kept q0
    | apply State.takeLine_kept q1
    | apply State.restartDone_kept q2
    | apply State.evt_kept q2
    | apply State.trackPos_kept q0
    | apply State.setNat_kept q3
    | apply State.setGate_kept q4
    | apply State.setReg_kept q3
    | apply Kept.foldl
    | split
    | extract_lets

theorem State.recordRows_kept {ws : List Field} {s₀ : State} (hs_ : Field.sub [.rings] ws = true) (site k : Nat) : ∀ (l : List LRow)
    {s : State}, Kept ws s₀ s → Kept ws s₀ (s.recordRows site k l).2 := by
  intro l
  induction l with
  | nil => intro s h; exact h
  | cons r l ih =>
    intro s h
    simp only [State.recordRows]
    split
    · exact h
    · exact ih (Kept.ite h (State.queueRec_kept hs_ _ _ h))

theorem State.finalRows_kept {ws : List Field} {s₀ s : State} (hs_ : Field.sub [.rings, .strms] ws = true) (site k : Nat) (all : Bool)
    (kh_ : Kept ws s₀ s) : Kept ws s₀ (State.finalRows s site k all) := by
  have q0 := Field.sub_trans (by decide : Field.sub [.rings] [.rings, .strms] = true) hs_
  have q1 := Field.sub_trans (by decide : Field.sub [.strms] [.rings, .strms] = true) hs_
  unfold State.finalRows
  extract_lets -merge x rows t _
  clear_value x rows
  have k_t : Kept ws s₀ t.2 := by
    unfold t
    repeat' with_reducible first
      | assumption
      | intro _
      | apply Kept.ite
      | apply State.recordRows_kept q0
      | refine Kept.of_snd (State.recordRows_kept q0 _ _ _ ?_) ‹_›
      | apply State.setStrm_kept q1
      | apply Kept.foldl
      | split
      | extract_lets
  clear_value t
  repeat' with_reducible first
    | assumption
    | intro _
    | refine Kept.of_snd k_t ‹_›
    | apply Kept.ite
    | apply State.recordRows_kept q0
    | refine Kept.of_snd (State.recordRows_kept q0 _ _ _ ?_) ‹_›
    | apply State.setStrm_kept q1
    | apply Kept.foldl
    | split
    | extract_lets

theorem State.beginRestart_kept {ws : List Field} {s₀ s : State} (hs_ : Field.sub [.regs, .bar2, .out, .poss, .strms, .gates, .axes, .grps] ws = true) (site g lr : Nat)
    (kh_ : Kept ws s₀ s) : Kept ws s₀ (State.beginRestart s site g lr) := by
  have q0 := Field.sub_trans (by decide : Field.sub [.regs, .bar2, .out, .axes, .grps] [.regs, .bar2, .out, .poss, .strms, .gates, .axes, .grps] = true) hs_
  have q1 := Field.sub_trans (by decide : Field.sub [.poss] [.regs, .bar2, .out, .poss, .strms, .gates, .axes, .grps] = true) hs_
  have q2 := Field.sub_trans (by decide : Field.sub [.regs, .bar2, .out] [.regs, .bar2, .out, .poss, .strms, .gates, .axes, .grps] = true) hs_
  have q3 := Field.sub_trans (by decide : Field.sub [.regs] [.regs, .bar2, .out, .poss, .strms, .gates, .axes, .grps] = true) hs_
  have q4 := Field.sub_trans (by decide : Field.sub [.grps] [.regs, .bar2, .out, .poss, .strms, .gates, .axes, .grps] = true) hs_
  have q5 := Field.sub_trans (by decide : Field.sub [.gates] [.regs, .bar2, .out, .poss, .strms, .gates, .axes, .grps] = true) hs_
  have q6 := Field.sub_trans (by decide : Field.sub [.strms] [.regs, .bar2, .out, .poss, .strms, .gates, .axes, .grps] = true) hs_
  unfold State.beginRestart
  extract_lets -merge x runs head runs2 nx s1 pp s2 s3 spl least rv v ext s4 _ s5 s6 _ s7
  clear_value x runs head runs2 nx pp spl least rv v ext
  have k_s1 : Kept ws s₀ s1 := by
    unfold s1
    repeat' with_reducible first
      | assumption
      | intro _
      | apply Kept.ite
      | apply State.releaseGroup_kept q0
      | apply State.setPos_kept q1
      | apply State.setSt_kept q2
      | apply State.trackPos_kept q1
      | apply State.setNat_kept q3
      | apply State.setGrp_kept q4
      | apply State.putBit_kept q3
      | apply State.setGate_kept q5
      | apply State.setStrm_kept q6
      | apply State.putFld_kept q3
      | apply State.setReg_kept q3
      | apply Kept.foldl
      | split
      | extract_lets
  clear_value s1
  have k_s2 : Kept ws s₀ s2 := by
    unfold s2
    repeat' with_reducible first
      | assumption
      | intro _
      | apply Kept.ite
      | apply State.releaseGroup_kept q0
      | apply State.setPos_kept q1
      | apply State.setSt_kept q2
      | apply State.trackPos_kept q1
      | apply State.setNat_kept q3
      | apply State.setGrp_kept q4
      | apply State.putBit_kept q3
      | apply State.setGate_kept q5
      | apply State.setStrm_kept q6
      | apply State.putFld_kept q3
      | apply State.setReg_kept q3
      | apply Kept.foldl
      | split
      | extract_lets
  clear_value s2
  have k_s3 : Kept ws s₀ s3 := by
    unfold s3
    repeat' with_reducible first
      | assumption
      | intro _
      | apply Kept.ite
      | apply State.releaseGroup_kept q0
      | apply State.setPos_kept q1
      | apply State.setSt_kept q2
      | apply State.trackPos_kept q1
      | apply State.setNat_kept q3
      | apply State.setGrp_kept q4
      | apply State.putBit_kept q3
      | apply State.setGate_kept q5
      | apply State.setStrm_kept q6
      | apply State.putFld_kept q3
      | apply State.setReg_kept q3
      | apply Kept.foldl
      | split
      | extract_lets
  clear_value s3
  have k_s4 : Kept ws s₀ s4 := by
    unfold s4
    repeat' with_reducible first
      | assumption
      | intro _
      | apply Kept.ite
      | apply State.releaseGroup_kept q0
      | apply State.setPos_kept q1
      | apply State.setSt_kept q2
      | apply State.trackPos_kept q1
      | apply State.setNat_kept q3
      | apply State.setGrp_kept q4
      | apply State.putBit_kept q3
      | apply State.setGate_kept q5
      | apply State.setStrm_kept q6
      | apply State.putFld_kept q3
      | apply State.setReg_kept q3
      | apply Kept.foldl
      | split
      | extract_lets
  clear_value s4
  have k_s5 : Kept ws s₀ s5 := by
    unfold s5
    repeat' with_reducible first
      | assumption
      | intro _
      | apply Kept.ite
      | apply State.releaseGroup_kept q0
      | apply State.setPos_kept q1
      | apply State.setSt_kept q2
      | apply State.trackPos_kept q1
      | apply State.setNat_kept q3
      | apply State.setGrp_kept q4
      | apply State.putBit_kept q3
      | apply State.setGate_kept q5
      | apply State.setStrm_kept q6
      | apply State.putFld_kept q3
      | apply State.setReg_kept q3
      | apply Kept.foldl
      | split
      | extract_lets
  clear_value s5
  have k_s6 : Kept ws s₀ s6 := by
    unfold s6
    repeat' with_reducible first
      | assumption
      | intro _
      | apply Kept.ite
      | apply State.releaseGroup_kept q0
      | apply State.setPos_kept q1
      | apply State.setSt_kept q2
      | apply State.trackPos_kept q1
      | apply State.setNat_kept q3
      | apply State.setGrp_kept q4
      | apply State.putBit_kept q3
      | apply State.setGate_kept q5
      | apply State.setStrm_kept q6
      | apply State.putFld_kept q3
      | apply State.setReg_kept q3
      | apply Kept.foldl
      | split
      | extract_lets
  clear_value s6
  have k_s7 : Kept ws s₀ s7 := by
    unfold s7
    repeat' with_reducible first
      | assumption
      | intro _
      | apply Kept.ite
      | apply State.releaseGroup_kept q0
      | apply State.setPos_kept q1
      | apply State.setSt_kept q2
      | apply State.trackPos_kept q1
      | apply State.setNat_kept q3
      | apply State.setGrp_kept q4
      | apply State.putBit_kept q3
      | apply State.setGate_kept q5
      | apply State.setStrm_kept q6
      | apply State.putFld_kept q3
      | apply State.setReg_kept q3
      | apply Kept.foldl
      | split
      | extract_lets
  clear_value s7
  repeat' with_reducible first
    | assumption
    | intro _
    | apply Kept.ite
    | apply State.releaseGroup_kept q0
    | apply State.setPos_kept q1
    | apply State.setSt_kept q2
    | apply State.trackPos_kept q1
    | apply State.setNat_kept q3
    | apply State.setGrp_kept q4
    | apply State.putBit_kept q3
    | apply State.setGate_kept q5
    | apply State.setStrm_kept q6
    | apply State.putFld_kept q3
    | apply State.setReg_kept q3
    | apply Kept.foldl
    | split
    | extract_lets

theorem State.showRetake_kept {ws : List Field} {s₀ s : State} (hs_ : Field.sub [.regs] ws = true) (site g : Nat) (on : Bool) (attempt : Nat)
    (kh_ : Kept ws s₀ s) : Kept ws s₀ (State.showRetake s site g on attempt) := by
  unfold State.showRetake
  repeat' with_reducible first
    | assumption
    | intro _
    | apply Kept.ite
    | apply State.putBit_kept hs_
    | apply State.putFld_kept hs_
    | apply Kept.foldl
    | split
    | extract_lets

theorem State.retakeStart_kept {ws : List Field} {s₀ s : State} (hs_ : Field.sub [.regs, .bar2, .out, .ram, .hmem, .rings, .strms, .gates, .axes, .grps, .slotRings, .cueQs, .binFlags, .slates, .cancels, .dqs, .cores, .cmbs, .engs, .poison] ws = true) (site g f lf attempt : Nat)
    (kh_ : Kept ws s₀ s) : Kept ws s₀ (State.retakeStart s site g f lf attempt) := by
  have q0 := Field.sub_trans (by decide : Field.sub [.regs] [.regs, .bar2, .out, .ram, .hmem, .rings, .strms, .gates, .axes, .grps, .slotRings, .cueQs, .binFlags, .slates, .cancels, .dqs, .cores, .cmbs, .engs, .poison] = true) hs_
  have q1 := Field.sub_trans (by decide : Field.sub [.regs, .bar2, .out, .ram, .hmem, .rings, .strms, .axes, .grps, .slotRings, .cueQs, .binFlags, .slates, .cancels, .dqs, .cores, .cmbs, .engs, .poison] [.regs, .bar2, .out, .ram, .hmem, .rings, .strms, .gates, .axes, .grps, .slotRings, .cueQs, .binFlags, .slates, .cancels, .dqs, .cores, .cmbs, .engs, .poison] = true) hs_
  have q2 := Field.sub_trans (by decide : Field.sub [.grps] [.regs, .bar2, .out, .ram, .hmem, .rings, .strms, .gates, .axes, .grps, .slotRings, .cueQs, .binFlags, .slates, .cancels, .dqs, .cores, .cmbs, .engs, .poison] = true) hs_
  have q3 := Field.sub_trans (by decide : Field.sub [.gates] [.regs, .bar2, .out, .ram, .hmem, .rings, .strms, .gates, .axes, .grps, .slotRings, .cueQs, .binFlags, .slates, .cancels, .dqs, .cores, .cmbs, .engs, .poison] = true) hs_
  unfold State.retakeStart
  extract_lets -merge s1 _ s2 _ s3
  have k_s1 : Kept ws s₀ s1 := by
    unfold s1
    repeat' with_reducible first
      | assumption
      | intro _
      | apply Kept.ite
      | apply State.showRetake_kept q0
      | apply State.declareSplice_kept q1
      | apply State.setGrp_kept q2
      | apply State.setGate_kept q3
      | apply Kept.foldl
      | split
      | extract_lets
  clear_value s1
  have k_s2 : Kept ws s₀ s2 := by
    unfold s2
    repeat' with_reducible first
      | assumption
      | intro _
      | apply Kept.ite
      | apply State.showRetake_kept q0
      | apply State.declareSplice_kept q1
      | apply State.setGrp_kept q2
      | apply State.setGate_kept q3
      | apply Kept.foldl
      | split
      | extract_lets
  clear_value s2
  have k_s3 : Kept ws s₀ s3 := by
    unfold s3
    repeat' with_reducible first
      | assumption
      | intro _
      | apply Kept.ite
      | apply State.showRetake_kept q0
      | apply State.declareSplice_kept q1
      | apply State.setGrp_kept q2
      | apply State.setGate_kept q3
      | apply Kept.foldl
      | split
      | extract_lets
  clear_value s3
  repeat' with_reducible first
    | assumption
    | intro _
    | apply Kept.ite
    | apply State.showRetake_kept q0
    | apply State.declareSplice_kept q1
    | apply State.setGrp_kept q2
    | apply State.setGate_kept q3
    | apply Kept.foldl
    | split
    | extract_lets

theorem State.gateFault_kept {ws : List Field} {s₀ s : State} (hs_ : Field.sub [.regs, .bar2, .out, .ram, .hmem, .rings, .strms, .gates, .axes, .grps, .slotRings, .cueQs, .binFlags, .slates, .cancels, .dqs, .cores, .cmbs, .engs, .poison] ws = true) (site g code first last : Nat)
    (kh_ : Kept ws s₀ s) : Kept ws s₀ (State.gateFault s site g code first last) := by
  have q0 := Field.sub_trans (by decide : Field.sub [.rings, .strms] [.regs, .bar2, .out, .ram, .hmem, .rings, .strms, .gates, .axes, .grps, .slotRings, .cueQs, .binFlags, .slates, .cancels, .dqs, .cores, .cmbs, .engs, .poison] = true) hs_
  have q1 := Field.sub_trans (by decide : Field.sub [.regs] [.regs, .bar2, .out, .ram, .hmem, .rings, .strms, .gates, .axes, .grps, .slotRings, .cueQs, .binFlags, .slates, .cancels, .dqs, .cores, .cmbs, .engs, .poison] = true) hs_
  have q2 := Field.sub_trans (by decide : Field.sub [.regs, .bar2, .out] [.regs, .bar2, .out, .ram, .hmem, .rings, .strms, .gates, .axes, .grps, .slotRings, .cueQs, .binFlags, .slates, .cancels, .dqs, .cores, .cmbs, .engs, .poison] = true) hs_
  have q3 := Field.sub_trans (by decide : Field.sub [.regs, .bar2, .out, .ram, .hmem, .rings, .strms, .axes, .grps, .slotRings, .cueQs, .binFlags, .slates, .cancels, .dqs, .cores, .cmbs, .engs, .poison] [.regs, .bar2, .out, .ram, .hmem, .rings, .strms, .gates, .axes, .grps, .slotRings, .cueQs, .binFlags, .slates, .cancels, .dqs, .cores, .cmbs, .engs, .poison] = true) hs_
  have q4 := Field.sub_trans (by decide : Field.sub [.grps] [.regs, .bar2, .out, .ram, .hmem, .rings, .strms, .gates, .axes, .grps, .slotRings, .cueQs, .binFlags, .slates, .cancels, .dqs, .cores, .cmbs, .engs, .poison] = true) hs_
  have q5 := Field.sub_trans (by decide : Field.sub [.gates] [.regs, .bar2, .out, .ram, .hmem, .rings, .strms, .gates, .axes, .grps, .slotRings, .cueQs, .binFlags, .slates, .cancels, .dqs, .cores, .cmbs, .engs, .poison] = true) hs_
  unfold State.gateFault
  extract_lets -merge p s1 gr s2 s3 s4 _
  clear_value p gr
  have k_s1 : Kept ws s₀ s1 := by
    unfold s1
    repeat' with_reducible first
      | assumption
      | intro _
      | apply Kept.ite
      | apply State.retakeStart_kept hs_
      | apply State.finalRows_kept q0
      | apply State.faultRec_kept q1
      | apply State.evt_kept q2
      | apply State.declareSplice_kept q3
      | apply State.setNat_kept q1
      | apply State.setGrp_kept q4
      | apply State.setGate_kept q5
      | apply Kept.foldl
      | split
      | extract_lets
  clear_value s1
  have k_s2 : Kept ws s₀ s2 := by
    unfold s2
    repeat' with_reducible first
      | assumption
      | intro _
      | apply Kept.ite
      | apply State.retakeStart_kept hs_
      | apply State.finalRows_kept q0
      | apply State.faultRec_kept q1
      | apply State.evt_kept q2
      | apply State.declareSplice_kept q3
      | apply State.setNat_kept q1
      | apply State.setGrp_kept q4
      | apply State.setGate_kept q5
      | apply Kept.foldl
      | split
      | extract_lets
  clear_value s2
  have k_s3 : Kept ws s₀ s3 := by
    unfold s3
    repeat' with_reducible first
      | assumption
      | intro _
      | apply Kept.ite
      | apply State.retakeStart_kept hs_
      | apply State.finalRows_kept q0
      | apply State.faultRec_kept q1
      | apply State.evt_kept q2
      | apply State.declareSplice_kept q3
      | apply State.setNat_kept q1
      | apply State.setGrp_kept q4
      | apply State.setGate_kept q5
      | apply Kept.foldl
      | split
      | extract_lets
  clear_value s3
  have k_s4 : Kept ws s₀ s4 := by
    unfold s4
    repeat' with_reducible first
      | assumption
      | intro _
      | apply Kept.ite
      | apply State.retakeStart_kept hs_
      | apply State.finalRows_kept q0
      | apply State.faultRec_kept q1
      | apply State.evt_kept q2
      | apply State.declareSplice_kept q3
      | apply State.setNat_kept q1
      | apply State.setGrp_kept q4
      | apply State.setGate_kept q5
      | apply Kept.foldl
      | split
      | extract_lets
  clear_value s4
  repeat' with_reducible first
    | assumption
    | intro _
    | apply Kept.ite
    | apply State.retakeStart_kept hs_
    | apply State.finalRows_kept q0
    | apply State.faultRec_kept q1
    | apply State.evt_kept q2
    | apply State.declareSplice_kept q3
    | apply State.setNat_kept q1
    | apply State.setGrp_kept q4
    | apply State.setGate_kept q5
    | apply Kept.foldl
    | split
    | extract_lets

theorem State.judgeRetake_kept {ws : List Field} {s₀ s : State} (hs_ : Field.sub [.regs, .bar2, .out, .ram, .hmem, .rings, .strms, .gates, .axes, .grps, .slotRings, .cueQs, .binFlags, .slates, .cancels, .dqs, .cores, .cmbs, .engs, .poison] ws = true) (site g : Nat)
    (kh_ : Kept ws s₀ s) : Kept ws s₀ (State.judgeRetake s site g) := by
  have q0 := Field.sub_trans (by decide : Field.sub [.regs] [.regs, .bar2, .out, .ram, .hmem, .rings, .strms, .gates, .axes, .grps, .slotRings, .cueQs, .binFlags, .slates, .cancels, .dqs, .cores, .cmbs, .engs, .poison] = true) hs_
  have q1 := Field.sub_trans (by decide : Field.sub [.rings, .strms] [.regs, .bar2, .out, .ram, .hmem, .rings, .strms, .gates, .axes, .grps, .slotRings, .cueQs, .binFlags, .slates, .cancels, .dqs, .cores, .cmbs, .engs, .poison] = true) hs_
  have q2 := Field.sub_trans (by decide : Field.sub [.regs, .bar2, .out] [.regs, .bar2, .out, .ram, .hmem, .rings, .strms, .gates, .axes, .grps, .slotRings, .cueQs, .binFlags, .slates, .cancels, .dqs, .cores, .cmbs, .engs, .poison] = true) hs_
  have q3 := Field.sub_trans (by decide : Field.sub [.regs, .bar2, .out, .ram, .hmem, .rings, .strms, .axes, .grps, .slotRings, .cueQs, .binFlags, .slates, .cancels, .dqs, .cores, .cmbs, .engs, .poison] [.regs, .bar2, .out, .ram, .hmem, .rings, .strms, .gates, .axes, .grps, .slotRings, .cueQs, .binFlags, .slates, .cancels, .dqs, .cores, .cmbs, .engs, .poison] = true) hs_
  have q4 := Field.sub_trans (by decide : Field.sub [.grps] [.regs, .bar2, .out, .ram, .hmem, .rings, .strms, .gates, .axes, .grps, .slotRings, .cueQs, .binFlags, .slates, .cancels, .dqs, .cores, .cmbs, .engs, .poison] = true) hs_
  have q5 := Field.sub_trans (by decide : Field.sub [.gates] [.regs, .bar2, .out, .ram, .hmem, .rings, .strms, .gates, .axes, .grps, .slotRings, .cueQs, .binFlags, .slates, .cancels, .dqs, .cores, .cmbs, .engs, .poison] = true) hs_
  unfold State.judgeRetake
  extract_lets -merge gr fin clear p s1
  clear_value gr p
  have k_fin : ∀ x0, Kept ws s₀ x0 → Kept ws s₀ (fin x0) := by
    unfold fin
    repeat' with_reducible first
      | assumption
      | intro _
      | apply Kept.ite
      | apply State.retakeStart_kept hs_
      | apply State.showRetake_kept q0
      | apply State.finalRows_kept q1
      | apply State.faultRec_kept q0
      | apply State.evt_kept q2
      | apply State.declareSplice_kept q3
      | apply State.setGrp_kept q4
      | apply State.setGate_kept q5
      | apply Kept.foldl
      | split
      | extract_lets
  clear_value fin
  have k_clear : ∀ x0, Kept ws s₀ x0 → Kept ws s₀ (clear x0) := by
    unfold clear
    repeat' with_reducible first
      | assumption
      | intro _
      | apply k_fin
      | apply Kept.ite
      | apply State.retakeStart_kept hs_
      | apply State.showRetake_kept q0
      | apply State.finalRows_kept q1
      | apply State.faultRec_kept q0
      | apply State.evt_kept q2
      | apply State.declareSplice_kept q3
      | apply State.setGrp_kept q4
      | apply State.setGate_kept q5
      | apply Kept.foldl
      | split
      | extract_lets
  clear_value clear
  have k_s1 : Kept ws s₀ s1 := by
    unfold s1
    repeat' with_reducible first
      | assumption
      | intro _
      | apply k_clear
      | apply k_fin
      | apply Kept.ite
      | apply State.retakeStart_kept hs_
      | apply State.showRetake_kept q0
      | apply State.finalRows_kept q1
      | apply State.faultRec_kept q0
      | apply State.evt_kept q2
      | apply State.declareSplice_kept q3
      | apply State.setGrp_kept q4
      | apply State.setGate_kept q5
      | apply Kept.foldl
      | split
      | extract_lets
  clear_value s1
  repeat' with_reducible first
    | assumption
    | intro _
    | apply k_clear
    | apply k_fin
    | apply Kept.ite
    | apply State.retakeStart_kept hs_
    | apply State.showRetake_kept q0
    | apply State.finalRows_kept q1
    | apply State.faultRec_kept q0
    | apply State.evt_kept q2
    | apply State.declareSplice_kept q3
    | apply State.setGrp_kept q4
    | apply State.setGate_kept q5
    | apply Kept.foldl
    | split
    | extract_lets

theorem State.retakeRest_kept {ws : List Field} {s₀ s : State} (hs_ : Field.sub [.regs, .bar2, .out, .poss, .strms, .gates, .axes, .grps] ws = true) (site g : Nat)
    (kh_ : Kept ws s₀ s) : Kept ws s₀ (State.retakeRest s site g) := by
  unfold State.retakeRest
  repeat' with_reducible first
    | assumption
    | intro _
    | apply Kept.ite
    | apply State.beginRestart_kept hs_
    | apply Kept.foldl
    | split
    | extract_lets

end Sys2Proof.Machine
end

