-- ==== Sys2Proof/Laws/KSlotOps.lean ====
section
/-!
SUPPORT. Laws/KSlotOps.lean: what each operation of Machine/SlotOps.lean may change, and that it keeps the canonical form.
-/
namespace Sys2Proof.Machine

theorem State.setSlot_kept {ws : List Field} {s₀ s : State} (hs_ : Field.sub [.slots] ws = true) (site k : Nat) (x : Slot)
    (kh_ : Kept ws s₀ s) : Kept ws s₀ (State.setSlot s site k x) := by
  unfold State.setSlot
  repeat' with_reducible first
    | assumption
    | intro _
    | apply Kept.ite
    | apply Kept.foldl
    | split
    | extract_lets
    | apply Kept.set_slots _ hs_

theorem State.setGroup_kept {ws : List Field} {s₀ s : State} (hs_ : Field.sub [.groups] ws = true) (g : Nat) (x : Group)
    (kh_ : Kept ws s₀ s) : Kept ws s₀ (State.setGroup s g x) := by
  unfold State.setGroup
  repeat' with_reducible first
    | assumption
    | intro _
    | apply Kept.ite
    | apply Kept.foldl
    | split
    | extract_lets
    | apply Kept.set_groups _ hs_

theorem State.showTxnPage_kept {ws : List Field} {s₀ s : State} (hs_ : Field.sub [.regs] ws = true) (site blk : Nat)
    (kh_ : Kept ws s₀ s) : Kept ws s₀ (State.showTxnPage s site blk) := by
  unfold State.showTxnPage
  extract_lets -merge p x
  clear_value p x
  repeat' with_reducible first
    | assumption
    | intro _
    | apply Kept.ite
    | apply State.setNat_kept hs_
    | apply Kept.foldl
    | split
    | extract_lets

theorem State.showTxn_kept {ws : List Field} {s₀ s : State} (hs_ : Field.sub [.regs] ws = true) (site k : Nat)
    (kh_ : Kept ws s₀ s) : Kept ws s₀ (State.showTxn s site k) := by
  unfold State.showTxn
  repeat' with_reducible first
    | assumption
    | intro _
    | apply Kept.ite
    | apply State.showTxnPage_kept hs_
    | apply Kept.foldl
    | split
    | extract_lets

theorem State.abortSlot_kept {ws : List Field} {s₀ s : State} (hs_ : Field.sub [.regs, .bar2, .out, .slots] ws = true) (site k reason : Nat) (late : Bool)
    (kh_ : Kept ws s₀ s) : Kept ws s₀ (State.abortSlot s site k reason late) := by
  have q0 := Field.sub_trans (by decide : Field.sub [.regs, .bar2, .out] [.regs, .bar2, .out, .slots] = true) hs_
  have q1 := Field.sub_trans (by decide : Field.sub [.regs] [.regs, .bar2, .out, .slots] = true) hs_
  have q2 := Field.sub_trans (by decide : Field.sub [.slots] [.regs, .bar2, .out, .slots] = true) hs_
  unfold State.abortSlot
  extract_lets -merge x s1 s2
  clear_value x
  have k_s1 : Kept ws s₀ s1 := by
    unfold s1
    repeat' with_reducible first
      | assumption
      | intro _
      | apply Kept.ite
      | apply State.evtIf_kept q0
      | apply State.evt_kept q0
      | apply State.showTxn_kept q1
      | apply State.setSlot_kept q2
      | apply Kept.foldl
      | split
      | extract_lets
  clear_value s1
  have k_s2 : Kept ws s₀ s2 := by
    unfold s2
    repeat' with_reducible first
      | assumption
      | intro _
      | apply Kept.ite
      | apply State.evtIf_kept q0
      | apply State.evt_kept q0
      | apply State.showTxn_kept q1
      | apply State.setSlot_kept q2
      | apply Kept.foldl
      | split
      | extract_lets
  clear_value s2
  repeat' with_reducible first
    | assumption
    | intro _
    | apply Kept.ite
    | apply State.evtIf_kept q0
    | apply State.evt_kept q0
    | apply State.showTxn_kept q1
    | apply State.setSlot_kept q2
    | apply Kept.foldl
    | split
    | extract_lets

theorem State.abortGroup_kept {ws : List Field} {s₀ s : State} (hs_ : Field.sub [.regs, .bar2, .out, .slots, .groups] ws = true) (g reason : Nat) (late : Bool)
    (kh_ : Kept ws s₀ s) : Kept ws s₀ (State.abortGroup s g reason late) := by
  have q0 := Field.sub_trans (by decide : Field.sub [.regs, .bar2, .out, .slots] [.regs, .bar2, .out, .slots, .groups] = true) hs_
  have q1 := Field.sub_trans (by decide : Field.sub [.groups] [.regs, .bar2, .out, .slots, .groups] = true) hs_
  unfold State.abortGroup
  repeat' with_reducible first
    | assumption
    | intro _
    | apply Kept.ite
    | apply State.abortSlot_kept q0
    | apply State.setGroup_kept q1
    | apply Kept.foldl
    | split
    | extract_lets

theorem State.abortMember_kept {ws : List Field} {s₀ s : State} (hs_ : Field.sub [.regs, .bar2, .out, .slots, .groups] ws = true) (site k reason : Nat) (late : Bool)
    (kh_ : Kept ws s₀ s) : Kept ws s₀ (State.abortMember s site k reason late) := by
  have q0 := Field.sub_trans (by decide : Field.sub [.regs, .bar2, .out, .slots] [.regs, .bar2, .out, .slots, .groups] = true) hs_
  unfold State.abortMember
  extract_lets -merge x s1
  clear_value x
  have k_s1 : Kept ws s₀ s1 := by
    unfold s1
    repeat' with_reducible first
      | assumption
      | intro _
      | apply Kept.ite
      | apply State.abortGroup_kept hs_
      | apply State.abortSlot_kept q0
      | apply Kept.foldl
      | split
      | extract_lets
  clear_value s1
  repeat' with_reducible first
    | assumption
    | intro _
    | apply Kept.ite
    | apply State.abortGroup_kept hs_
    | apply State.abortSlot_kept q0
    | apply Kept.foldl
    | split
    | extract_lets

theorem State.siteSlotsLost_kept {ws : List Field} {s₀ s : State} (hs_ : Field.sub [.regs, .bar2, .out, .slots, .groups] ws = true) (site : Nat)
    (kh_ : Kept ws s₀ s) : Kept ws s₀ (State.siteSlotsLost s site) := by
  have q0 := Field.sub_trans (by decide : Field.sub [.slots] [.regs, .bar2, .out, .slots, .groups] = true) hs_
  unfold State.siteSlotsLost
  extract_lets -merge s1
  have k_s1 : Kept ws s₀ s1 := by
    unfold s1
    repeat' with_reducible first
      | assumption
      | intro _
      | apply Kept.ite
      | apply State.abortGroup_kept hs_
      | apply State.setSlot_kept q0
      | apply Kept.foldl
      | split
      | extract_lets
  clear_value s1
  repeat' with_reducible first
    | assumption
    | intro _
    | apply Kept.ite
    | apply State.abortGroup_kept hs_
    | apply State.setSlot_kept q0
    | apply Kept.foldl
    | split
    | extract_lets

end Sys2Proof.Machine
end

