-- ==== Sys2Proof/Laws/KDieOps.lean ====
section
/-!
SUPPORT. Laws/KDieOps.lean: what each operation of Machine/DieOps.lean may change, and that it keeps the canonical form.
-/
namespace Sys2Proof.Machine

theorem State.dropRecs_kept {ws : List Field} {s₀ s : State} (hs_ : Field.sub [.regs, .rings, .strms] ws = true) (site k line : Nat)
    (kh_ : Kept ws s₀ s) : Kept ws s₀ (State.dropRecs s site k line) := by
  have q0 := Field.sub_trans (by decide : Field.sub [.regs] [.regs, .rings, .strms] = true) hs_
  have q1 := Field.sub_trans (by decide : Field.sub [.strms] [.regs, .rings, .strms] = true) hs_
  have q2 := Field.sub_trans (by decide : Field.sub [.rings] [.regs, .rings, .strms] = true) hs_
  unfold State.dropRecs
  extract_lets -merge d above gone x y back s1
  clear_value d above gone x y back
  have k_s1 : Kept ws s₀ s1 := by
    unfold s1
    repeat' with_reducible first
      | assumption
      | intro _
      | apply Kept.ite
      | apply State.setNat_kept q0
      | apply State.setStrm_kept q1
      | apply State.setRing_kept q2
      | apply Kept.foldl
      | split
      | extract_lets
  clear_value s1
  repeat' with_reducible first
    | assumption
    | intro _
    | apply Kept.ite
    | apply State.setNat_kept q0
    | apply State.setStrm_kept q1
    | apply State.setRing_kept q2
    | apply Kept.foldl
    | split
    | extract_lets

theorem State.hardSpliceOne_kept {ws : List Field} {s₀ s : State} (hs_ : Field.sub [.regs, .bar2, .out, .rings, .strms] ws = true) (site k cause : Nat) (v : Int)
    (kh_ : Kept ws s₀ s) : Kept ws s₀ (State.hardSpliceOne s site k cause v) := by
  have q0 := Field.sub_trans (by decide : Field.sub [.strms] [.regs, .bar2, .out, .rings, .strms] = true) hs_
  have q1 := Field.sub_trans (by decide : Field.sub [.regs] [.regs, .bar2, .out, .rings, .strms] = true) hs_
  have q2 := Field.sub_trans (by decide : Field.sub [.regs, .rings, .strms] [.regs, .bar2, .out, .rings, .strms] = true) hs_
  have q3 := Field.sub_trans (by decide : Field.sub [.rings] [.regs, .bar2, .out, .rings, .strms] = true) hs_
  unfold State.hardSpliceOne
  extract_lets -merge line st x d s1 _
  clear_value line st x d
  have k_s1 : Kept ws s₀ s1 := by
    unfold s1
    repeat' with_reducible first
      | assumption
      | intro _
      | apply Kept.ite
      | apply State.spliceOne_kept hs_
      | apply State.dropRows_kept q0
      | apply State.writeSplice_kept q1
      | apply State.setStrm_kept q0
      | apply State.putFld_kept q1
      | apply State.dropRecs_kept q2
      | apply State.setRing_kept q3
      | apply Kept.foldl
      | split
      | extract_lets
  clear_value s1
  repeat' with_reducible first
    | assumption
    | intro _
    | apply Kept.ite
    | apply State.spliceOne_kept hs_
    | apply State.dropRows_kept q0
    | apply State.writeSplice_kept q1
    | apply State.setStrm_kept q0
    | apply State.putFld_kept q1
    | apply State.dropRecs_kept q2
    | apply State.setRing_kept q3
    | apply Kept.foldl
    | split
    | extract_lets

theorem State.hardSplice_kept {ws : List Field} {s₀ s : State} (hs_ : Field.sub [.regs, .bar2, .out, .rings, .strms, .axes, .grps] ws = true) (site g : Nat) (ks : List Nat) (cause : Nat) (stop : Bool)
    (kh_ : Kept ws s₀ s) : Kept ws s₀ (State.hardSplice s site g ks cause stop) := by
  have q0 := Field.sub_trans (by decide : Field.sub [.regs] [.regs, .bar2, .out, .rings, .strms, .axes, .grps] = true) hs_
  have q1 := Field.sub_trans (by decide : Field.sub [.regs, .bar2, .out, .axes, .grps] [.regs, .bar2, .out, .rings, .strms, .axes, .grps] = true) hs_
  have q2 := Field.sub_trans (by decide : Field.sub [.regs, .bar2, .out, .rings, .strms] [.regs, .bar2, .out, .rings, .strms, .axes, .grps] = true) hs_
  have q3 := Field.sub_trans (by decide : Field.sub [.grps] [.regs, .bar2, .out, .rings, .strms, .axes, .grps] = true) hs_
  unfold State.hardSplice
  extract_lets -merge v hit touched s1 low _ s2
  clear_value v hit touched low
  have k_s1 : Kept ws s₀ s1 := by
    unfold s1
    repeat' with_reducible first
      | assumption
      | intro _
      | apply Kept.ite
      | apply State.showRetake_kept q0
      | apply State.stopCore_kept q1
      | apply State.hardSpliceOne_kept q2
      | apply State.setGrp_kept q3
      | apply Kept.foldl
      | split
      | extract_lets
  clear_value s1
  have k_s2 : Kept ws s₀ s2 := by
    unfold s2
    repeat' with_reducible first
      | assumption
      | intro _
      | apply Kept.ite
      | apply State.showRetake_kept q0
      | apply State.stopCore_kept q1
      | apply State.hardSpliceOne_kept q2
      | apply State.setGrp_kept q3
      | apply Kept.foldl
      | split
      | extract_lets
  clear_value s2
  repeat' with_reducible first
    | assumption
    | intro _
    | apply Kept.ite
    | apply State.showRetake_kept q0
    | apply State.stopCore_kept q1
    | apply State.hardSpliceOne_kept q2
    | apply State.setGrp_kept q3
    | apply Kept.foldl
    | split
    | extract_lets

theorem State.endTakesFor_kept {ws : List Field} {s₀ s : State} (hs_ : Field.sub [.regs, .back, .bar2, .out, .ram, .hmem, .slotRings, .cancels, .tqs, .sched, .dqs, .cores, .cmbs, .engs, .mmus, .poison] ws = true) (hit : Entry → Bool) (status : Nat) (detail : Option Nat)
    (kh_ : Kept ws s₀ s) : Kept ws s₀ (State.endTakesFor s hit status detail) := by
  unfold State.endTakesFor
  repeat' with_reducible first
    | assumption
    | intro _
    | apply Kept.ite
    | apply State.endTake_kept hs_
    | apply Kept.foldl
    | split
    | extract_lets

theorem State.pipeLost_kept {ws : List Field} {s₀ s : State} (hs_ : Field.sub [.regs, .strms] ws = true) (x : Slate) (h : Nat)
    (kh_ : Kept ws s₀ s) : Kept ws s₀ (State.pipeLost x h s) := by
  have q0 := Field.sub_trans (by decide : Field.sub [.regs] [.regs, .strms] = true) hs_
  unfold State.pipeLost
  extract_lets -merge site k y
  clear_value site k y
  repeat' with_reducible first
    | assumption
    | intro _
    | apply Kept.ite
    | apply State.showPipe_kept q0
    | apply State.losePipe_kept hs_
    | apply State.setNat_kept q0
    | apply Kept.foldl
    | split
    | extract_lets

theorem State.pipeLostOf_kept {ws : List Field} {s₀ s : State} (hs_ : Field.sub [.regs, .strms] ws = true) (x : Slate)
    (kh_ : Kept ws s₀ s) : Kept ws s₀ (State.pipeLostOf s x) := by
  unfold State.pipeLostOf
  repeat' with_reducible first
    | assumption
    | intro _
    | apply Kept.ite
    | apply State.pipeLost_kept hs_
    | apply Kept.foldl
    | split
    | extract_lets

theorem State.loseSlate_kept {ws : List Field} {s₀ s : State} (hs_ : Field.sub [.regs, .back, .bar2, .out, .ram, .hmem, .loads, .strms, .slotRings, .cueQs, .binFlags, .slates, .cancels, .dqs, .cores, .cmbs, .engs, .mmus, .poison, .bndTaken] ws = true) (h : Nat)
    (kh_ : Kept ws s₀ s) : Kept ws s₀ (State.loseSlate s h) := by
  have q0 := Field.sub_trans (by decide : Field.sub [.regs] [.regs, .back, .bar2, .out, .ram, .hmem, .loads, .strms, .slotRings, .cueQs, .binFlags, .slates, .cancels, .dqs, .cores, .cmbs, .engs, .mmus, .poison, .bndTaken] = true) hs_
  have q1 := Field.sub_trans (by decide : Field.sub [.regs, .back, .bar2, .out, .ram, .hmem, .slotRings, .cueQs, .binFlags, .slates, .dqs, .cores, .cmbs, .engs, .mmus, .poison, .bndTaken] [.regs, .back, .bar2, .out, .ram, .hmem, .loads, .strms, .slotRings, .cueQs, .binFlags, .slates, .cancels, .dqs, .cores, .cmbs, .engs, .mmus, .poison, .bndTaken] = true) hs_
  have q2 := Field.sub_trans (by decide : Field.sub [.regs, .bar2, .out, .cmbs] [.regs, .back, .bar2, .out, .ram, .hmem, .loads, .strms, .slotRings, .cueQs, .binFlags, .slates, .cancels, .dqs, .cores, .cmbs, .engs, .mmus, .poison, .bndTaken] = true) hs_
  have q3 := Field.sub_trans (by decide : Field.sub [.regs, .bar2, .out, .ram, .hmem, .slotRings, .dqs, .cores, .poison] [.regs, .back, .bar2, .out, .ram, .hmem, .loads, .strms, .slotRings, .cueQs, .binFlags, .slates, .cancels, .dqs, .cores, .cmbs, .engs, .mmus, .poison, .bndTaken] = true) hs_
  have q4 := Field.sub_trans (by decide : Field.sub [.regs, .back, .bar2, .out, .mmus] [.regs, .back, .bar2, .out, .ram, .hmem, .loads, .strms, .slotRings, .cueQs, .binFlags, .slates, .cancels, .dqs, .cores, .cmbs, .engs, .mmus, .poison, .bndTaken] = true) hs_
  have q5 := Field.sub_trans (by decide : Field.sub [.regs, .bar2, .out, .slotRings, .cancels, .engs] [.regs, .back, .bar2, .out, .ram, .hmem, .loads, .strms, .slotRings, .cueQs, .binFlags, .slates, .cancels, .dqs, .cores, .cmbs, .engs, .mmus, .poison, .bndTaken] = true) hs_
  have q6 := Field.sub_trans (by decide : Field.sub [.regs, .bar2, .out] [.regs, .back, .bar2, .out, .ram, .hmem, .loads, .strms, .slotRings, .cueQs, .binFlags, .slates, .cancels, .dqs, .cores, .cmbs, .engs, .mmus, .poison, .bndTaken] = true) hs_
  have q7 := Field.sub_trans (by decide : Field.sub [.slates] [.regs, .back, .bar2, .out, .ram, .hmem, .loads, .strms, .slotRings, .cueQs, .binFlags, .slates, .cancels, .dqs, .cores, .cmbs, .engs, .mmus, .poison, .bndTaken] = true) hs_
  have q8 := Field.sub_trans (by decide : Field.sub [.regs, .strms] [.regs, .back, .bar2, .out, .ram, .hmem, .loads, .strms, .slotRings, .cueQs, .binFlags, .slates, .cancels, .dqs, .cores, .cmbs, .engs, .mmus, .poison, .bndTaken] = true) hs_
  have q9 := Field.sub_trans (by decide : Field.sub [.regs, .bar2, .out, .loads] [.regs, .back, .bar2, .out, .ram, .hmem, .loads, .strms, .slotRings, .cueQs, .binFlags, .slates, .cancels, .dqs, .cores, .cmbs, .engs, .mmus, .poison, .bndTaken] = true) hs_
  have q10 := Field.sub_trans (by decide : Field.sub [.engs] [.regs, .back, .bar2, .out, .ram, .hmem, .loads, .strms, .slotRings, .cueQs, .binFlags, .slates, .cancels, .dqs, .cores, .cmbs, .engs, .mmus, .poison, .bndTaken] = true) hs_
  unfold State.loseSlate
  extract_lets -merge w
  clear_value w
  repeat' with_reducible first
    | assumption
    | intro _
    | apply Kept.ite
    | apply State.showPower_kept q0
    | apply State.dropSlate_kept q1
    | apply State.dropNodes_kept q2
    | apply State.freeCore_kept q3
    | apply State.dropUnits_kept q4
    | apply State.cancelOn_kept q5
    | apply State.setSt_kept q6
    | apply State.setSlate_kept q7
    | apply State.pipeLost_kept q8
    | apply State.mbReply_kept q9
    | apply State.setEng_kept q10
    | apply Kept.foldl
    | split
    | extract_lets

theorem State.loseSlates_kept {ws : List Field} {s₀ s : State} (hs_ : Field.sub [.regs, .back, .bar2, .out, .ram, .hmem, .loads, .strms, .slotRings, .cueQs, .binFlags, .slates, .cancels, .dqs, .cores, .cmbs, .engs, .mmus, .poison, .bndTaken] ws = true) (hit : Slate → Bool)
    (kh_ : Kept ws s₀ s) : Kept ws s₀ (State.loseSlates s hit) := by
  have q0 := Field.sub_trans (by decide : Field.sub [.regs] [.regs, .back, .bar2, .out, .ram, .hmem, .loads, .strms, .slotRings, .cueQs, .binFlags, .slates, .cancels, .dqs, .cores, .cmbs, .engs, .mmus, .poison, .bndTaken] = true) hs_
  unfold State.loseSlates
  repeat' with_reducible first
    | assumption
    | intro _
    | apply Kept.ite
    | apply State.showPower_kept q0
    | apply State.loseSlate_kept hs_
    | apply Kept.foldl
    | split
    | extract_lets

theorem State.wipeDie_kept {ws : List Field} {s₀ s : State} (hs_ : Field.sub [.regs, .latch, .back, .ports, .ram, .slotRings, .cueQs, .binFlags, .cancels, .dqs, .cores, .cmbs, .engs, .poison, .arbs, .capQs] ws = true) (site : Nat)
    (kh_ : Kept ws s₀ s) : Kept ws s₀ (State.wipeDie s site) := by
  have q0 : Field.sub [.regs] ws = true := Field.sub_trans (by decide) hs_
  unfold State.wipeDie
  extract_lets mine pendMap s1
  have k1 : Kept ws s₀ s1 := by
    refine kh_.trans ⟨fun f hf => ?_, fun q => ?_⟩
    · have hm : ∀ g : Field, Field.sub [g] [.regs, .latch, .back, .ports, .ram, .slotRings, .cueQs, .binFlags, .cancels, .dqs, .cores, .cmbs, .engs, .poison, .arbs, .capQs] = true → g ∈ ws := fun g hg => Field.mem_of_sub (Field.sub_trans hg hs_)
      cases f <;> first | rfl | exact absurd (hm _ (by decide)) hf
    · simp only [State.wf, Bool.and_eq_true] at q ⊢
      obtain ⟨⟨⟨⟨q1, q2⟩, q3⟩, q4⟩, q5⟩ := q
      exact ⟨⟨⟨⟨tabWf_filter _ _ _ q1, tabWf_tabDropRange _ _ _ _ q2⟩, q3⟩, q4⟩, q5⟩
  exact State.showPend_kept q0 _ (State.showPend_kept q0 _ k1)

theorem State.coresUp_kept {ws : List Field} {s₀ s : State} (hs_ : Field.sub [.regs] ws = true) (site : Nat) (on : Bool)
    (kh_ : Kept ws s₀ s) : Kept ws s₀ (State.coresUp s site on) := by
  unfold State.coresUp
  extract_lets -merge p
  clear_value p
  repeat' with_reducible first
    | assumption
    | intro _
    | apply Kept.ite
    | apply State.putBit_kept hs_
    | apply Kept.foldl
    | split
    | extract_lets

theorem State.siteDown_kept {ws : List Field} {s₀ s : State} (hs_ : Field.sub [.regs, .bar2, .out] ws = true) (site : Nat)
    (kh_ : Kept ws s₀ s) : Kept ws s₀ (State.siteDown s site) := by
  have q0 := Field.sub_trans (by decide : Field.sub [.regs] [.regs, .bar2, .out] = true) hs_
  unfold State.siteDown
  repeat' with_reducible first
    | assumption
    | intro _
    | apply Kept.ite
    | apply State.evt_kept hs_
    | apply State.coresUp_kept q0
    | apply State.putBit_kept q0
    | apply Kept.foldl
    | split
    | extract_lets

theorem State.siteBack_kept {ws : List Field} {s₀ s : State} (hs_ : Field.sub [.regs, .bar2, .out] ws = true) (site : Nat)
    (kh_ : Kept ws s₀ s) : Kept ws s₀ (State.siteBack s site) := by
  have q0 := Field.sub_trans (by decide : Field.sub [.regs] [.regs, .bar2, .out] = true) hs_
  unfold State.siteBack
  repeat' with_reducible first
    | assumption
    | intro _
    | apply Kept.ite
    | apply State.evt_kept hs_
    | apply State.coresUp_kept q0
    | apply State.putBit_kept q0
    | apply Kept.foldl
    | split
    | extract_lets

theorem State.passRings_kept {ws : List Field} {s₀ s : State} (hs_ : Field.sub [.regs, .bar2, .out] ws = true)
    (kh_ : Kept ws s₀ s) : Kept ws s₀ (State.passRings s) := by
  unfold State.passRings
  repeat' with_reducible first
    | assumption
    | intro _
    | apply Kept.ite
    | apply State.losePass_kept hs_
    | apply State.attachPass_kept hs_
    | apply Kept.foldl
    | split
    | extract_lets

theorem State.loseFlights_kept {ws : List Field} {s₀ s : State} (hs_ : Field.sub [.dqs] ws = true) (site : Nat)
    (kh_ : Kept ws s₀ s) : Kept ws s₀ (State.loseFlights s site) := by
  unfold State.loseFlights
  repeat' with_reducible first
    | assumption
    | intro _
    | apply Kept.ite
    | apply Kept.foldl
    | split
    | extract_lets
    | apply Kept.set_dqs _ hs_

theorem State.dieFatal_kept {ws : List Field} {s₀ s : State} (hs_ : Field.sub [.regs, .latch, .back, .bar2, .out, .slots, .groups, .ports, .ram, .hmem, .loads, .rings, .strms, .axes, .grps, .slotRings, .cueQs, .binFlags, .slates, .cancels, .tqs, .sched, .dqs, .cores, .cmbs, .engs, .mmus, .poison, .arbs, .capQs, .bndTaken] ws = true) (site : Nat)
    (kh_ : Kept ws s₀ s) : Kept ws s₀ (State.dieFatal s site) := by
  have q0 := Field.sub_trans (by decide : Field.sub [.dqs] [.regs, .latch, .back, .bar2, .out, .slots, .groups, .ports, .ram, .hmem, .loads, .rings, .strms, .axes, .grps, .slotRings, .cueQs, .binFlags, .slates, .cancels, .tqs, .sched, .dqs, .cores, .cmbs, .engs, .mmus, .poison, .arbs, .capQs, .bndTaken] = true) hs_
  have q1 := Field.sub_trans (by decide : Field.sub [.regs, .bar2, .out] [.regs, .latch, .back, .bar2, .out, .slots, .groups, .ports, .ram, .hmem, .loads, .rings, .strms, .axes, .grps, .slotRings, .cueQs, .binFlags, .slates, .cancels, .tqs, .sched, .dqs, .cores, .cmbs, .engs, .mmus, .poison, .arbs, .capQs, .bndTaken] = true) hs_
  have q2 := Field.sub_trans (by decide : Field.sub [.regs, .latch, .back, .ports, .ram, .slotRings, .cueQs, .binFlags, .cancels, .dqs, .cores, .cmbs, .engs, .poison, .arbs, .capQs] [.regs, .latch, .back, .bar2, .out, .slots, .groups, .ports, .ram, .hmem, .loads, .rings, .strms, .axes, .grps, .slotRings, .cueQs, .binFlags, .slates, .cancels, .tqs, .sched, .dqs, .cores, .cmbs, .engs, .mmus, .poison, .arbs, .capQs, .bndTaken] = true) hs_
  have q3 := Field.sub_trans (by decide : Field.sub [.regs, .back, .bar2, .out, .ram, .hmem, .loads, .strms, .slotRings, .cueQs, .binFlags, .slates, .cancels, .dqs, .cores, .cmbs, .engs, .mmus, .poison, .bndTaken] [.regs, .latch, .back, .bar2, .out, .slots, .groups, .ports, .ram, .hmem, .loads, .rings, .strms, .axes, .grps, .slotRings, .cueQs, .binFlags, .slates, .cancels, .tqs, .sched, .dqs, .cores, .cmbs, .engs, .mmus, .poison, .arbs, .capQs, .bndTaken] = true) hs_
  have q4 := Field.sub_trans (by decide : Field.sub [.regs, .back, .bar2, .out, .ram, .hmem, .slotRings, .cancels, .tqs, .sched, .dqs, .cores, .cmbs, .engs, .mmus, .poison] [.regs, .latch, .back, .bar2, .out, .slots, .groups, .ports, .ram, .hmem, .loads, .rings, .strms, .axes, .grps, .slotRings, .cueQs, .binFlags, .slates, .cancels, .tqs, .sched, .dqs, .cores, .cmbs, .engs, .mmus, .poison, .arbs, .capQs, .bndTaken] = true) hs_
  have q5 := Field.sub_trans (by decide : Field.sub [.regs, .bar2, .out, .slots, .groups] [.regs, .latch, .back, .bar2, .out, .slots, .groups, .ports, .ram, .hmem, .loads, .rings, .strms, .axes, .grps, .slotRings, .cueQs, .binFlags, .slates, .cancels, .tqs, .sched, .dqs, .cores, .cmbs, .engs, .mmus, .poison, .arbs, .capQs, .bndTaken] = true) hs_
  have q6 := Field.sub_trans (by decide : Field.sub [.regs, .bar2, .out, .rings, .strms, .axes, .grps] [.regs, .latch, .back, .bar2, .out, .slots, .groups, .ports, .ram, .hmem, .loads, .rings, .strms, .axes, .grps, .slotRings, .cueQs, .binFlags, .slates, .cancels, .tqs, .sched, .dqs, .cores, .cmbs, .engs, .mmus, .poison, .arbs, .capQs, .bndTaken] = true) hs_
  unfold State.dieFatal
  extract_lets -merge uses s1 s2 ss s3 s4 s5
  clear_value uses ss
  have k_s1 : Kept ws s₀ s1 := by
    unfold s1
    repeat' with_reducible first
      | assumption
      | intro _
      | apply Kept.ite
      | apply State.loseFlights_kept q0
      | apply State.passRings_kept q1
      | apply State.siteDown_kept q1
      | apply State.wipeDie_kept q2
      | apply State.loseSlates_kept q3
      | apply State.endTakesFor_kept q4
      | apply State.siteSlotsLost_kept q5
      | apply State.hardSplice_kept q6
      | apply Kept.foldl
      | split
      | extract_lets
  clear_value s1
  have k_s2 : Kept ws s₀ s2 := by
    unfold s2
    repeat' with_reducible first
      | assumption
      | intro _
      | apply Kept.ite
      | apply State.loseFlights_kept q0
      | apply State.passRings_kept q1
      | apply State.siteDown_kept q1
      | apply State.wipeDie_kept q2
      | apply State.loseSlates_kept q3
      | apply State.endTakesFor_kept q4
      | apply State.siteSlotsLost_kept q5
      | apply State.hardSplice_kept q6
      | apply Kept.foldl
      | split
      | extract_lets
  clear_value s2
  have k_s3 : Kept ws s₀ s3 := by
    unfold s3
    repeat' with_reducible first
      | assumption
      | intro _
      | apply Kept.ite
      | apply State.loseFlights_kept q0
      | apply State.passRings_kept q1
      | apply State.siteDown_kept q1
      | apply State.wipeDie_kept q2
      | apply State.loseSlates_kept q3
      | apply State.endTakesFor_kept q4
      | apply State.siteSlotsLost_kept q5
      | apply State.hardSplice_kept q6
      | apply Kept.foldl
      | split
      | extract_lets
  clear_value s3
  have k_s4 : Kept ws s₀ s4 := by
    unfold s4
    repeat' with_reducible first
      | assumption
      | intro _
      | apply Kept.ite
      | apply State.loseFlights_kept q0
      | apply State.passRings_kept q1
      | apply State.siteDown_kept q1
      | apply State.wipeDie_kept q2
      | apply State.loseSlates_kept q3
      | apply State.endTakesFor_kept q4
      | apply State.siteSlotsLost_kept q5
      | apply State.hardSplice_kept q6
      | apply Kept.foldl
      | split
      | extract_lets
  clear_value s4
  have k_s5 : Kept ws s₀ s5 := by
    unfold s5
    repeat' with_reducible first
      | assumption
      | intro _
      | apply Kept.ite
      | apply State.loseFlights_kept q0
      | apply State.passRings_kept q1
      | apply State.siteDown_kept q1
      | apply State.wipeDie_kept q2
      | apply State.loseSlates_kept q3
      | apply State.endTakesFor_kept q4
      | apply State.siteSlotsLost_kept q5
      | apply State.hardSplice_kept q6
      | apply Kept.foldl
      | split
      | extract_lets
  clear_value s5
  repeat' with_reducible first
    | assumption
    | intro _
    | apply Kept.ite
    | apply State.loseFlights_kept q0
    | apply State.passRings_kept q1
    | apply State.siteDown_kept q1
    | apply State.wipeDie_kept q2
    | apply State.loseSlates_kept q3
    | apply State.endTakesFor_kept q4
    | apply State.siteSlotsLost_kept q5
    | apply State.hardSplice_kept q6
    | apply Kept.foldl
    | split
    | extract_lets

theorem State.pkgFatal_kept {ws : List Field} {s₀ s : State} (hs_ : Field.sub [.regs, .back, .bar2, .out, .ram, .hmem, .mute, .rings, .strms, .axes, .grps, .slotRings, .cancels, .tqs, .sched, .dqs, .cores, .cmbs, .engs, .mmus, .poison, .free] ws = true) (code : Nat)
    (kh_ : Kept ws s₀ s) : Kept ws s₀ (State.pkgFatal s code) := by
  have q0 := Field.sub_trans (by decide : Field.sub [.regs, .bar2, .out] [.regs, .back, .bar2, .out, .ram, .hmem, .mute, .rings, .strms, .axes, .grps, .slotRings, .cancels, .tqs, .sched, .dqs, .cores, .cmbs, .engs, .mmus, .poison, .free] = true) hs_
  have q1 := Field.sub_trans (by decide : Field.sub [.regs] [.regs, .back, .bar2, .out, .ram, .hmem, .mute, .rings, .strms, .axes, .grps, .slotRings, .cancels, .tqs, .sched, .dqs, .cores, .cmbs, .engs, .mmus, .poison, .free] = true) hs_
  have q2 := Field.sub_trans (by decide : Field.sub [.regs, .back, .bar2, .out, .ram, .hmem, .slotRings, .cancels, .tqs, .sched, .dqs, .cores, .cmbs, .engs, .mmus, .poison] [.regs, .back, .bar2, .out, .ram, .hmem, .mute, .rings, .strms, .axes, .grps, .slotRings, .cancels, .tqs, .sched, .dqs, .cores, .cmbs, .engs, .mmus, .poison, .free] = true) hs_
  have q3 := Field.sub_trans (by decide : Field.sub [.free] [.regs, .back, .bar2, .out, .ram, .hmem, .mute, .rings, .strms, .axes, .grps, .slotRings, .cancels, .tqs, .sched, .dqs, .cores, .cmbs, .engs, .mmus, .poison, .free] = true) hs_
  have q4 := Field.sub_trans (by decide : Field.sub [.regs, .bar2, .out, .rings, .strms, .axes, .grps] [.regs, .back, .bar2, .out, .ram, .hmem, .mute, .rings, .strms, .axes, .grps, .slotRings, .cancels, .tqs, .sched, .dqs, .cores, .cmbs, .engs, .mmus, .poison, .free] = true) hs_
  have q5 := Field.sub_trans (by decide : Field.sub [.out] [.regs, .back, .bar2, .out, .ram, .hmem, .mute, .rings, .strms, .axes, .grps, .slotRings, .cancels, .tqs, .sched, .dqs, .cores, .cmbs, .engs, .mmus, .poison, .free] = true) hs_
  have q6 := Field.sub_trans (by decide : Field.sub [.mute] [.regs, .back, .bar2, .out, .ram, .hmem, .mute, .rings, .strms, .axes, .grps, .slotRings, .cancels, .tqs, .sched, .dqs, .cores, .cmbs, .engs, .mmus, .poison, .free] = true) hs_
  unfold State.pkgFatal
  extract_lets -merge _ s0 s1 s2 s3
  have k_s0 : Kept ws s₀ s0 := by
    unfold s0
    repeat' with_reducible first
      | assumption
      | intro _
      | apply Kept.ite
      | apply State.toFault_kept q0
      | apply State.faultRec_kept q1
      | apply State.evt_kept q0
      | apply State.endTakesFor_kept q2
      | apply State.draw_kept q3
      | apply State.hardSplice_kept q4
      | apply State.emit_kept q5
      | apply State.putFld_kept q1
      | apply Kept.foldl
      | split
      | extract_lets
      | apply Kept.set_mute _ q6
  clear_value s0
  have k_s1 : Kept ws s₀ s1 := by
    unfold s1
    repeat' with_reducible first
      | assumption
      | intro _
      | apply Kept.ite
      | apply State.toFault_kept q0
      | apply State.faultRec_kept q1
      | apply State.evt_kept q0
      | apply State.endTakesFor_kept q2
      | apply State.draw_kept q3
      | apply State.hardSplice_kept q4
      | apply State.emit_kept q5
      | apply State.putFld_kept q1
      | apply Kept.foldl
      | split
      | extract_lets
      | apply Kept.set_mute _ q6
  clear_value s1
  have k_s2 : Kept ws s₀ s2 := by
    unfold s2
    repeat' with_reducible first
      | assumption
      | intro _
      | apply Kept.ite
      | apply State.toFault_kept q0
      | apply State.faultRec_kept q1
      | apply State.evt_kept q0
      | apply State.endTakesFor_kept q2
      | apply State.draw_kept q3
      | apply State.hardSplice_kept q4
      | apply State.emit_kept q5
      | apply State.putFld_kept q1
      | apply Kept.foldl
      | split
      | extract_lets
      | apply Kept.set_mute _ q6
  clear_value s2
  have k_s3 : Kept ws s₀ s3 := by
    unfold s3
    repeat' with_reducible first
      | assumption
      | intro _
      | apply Kept.ite
      | apply State.toFault_kept q0
      | apply State.faultRec_kept q1
      | apply State.evt_kept q0
      | apply State.endTakesFor_kept q2
      | apply State.draw_kept q3
      | apply State.hardSplice_kept q4
      | apply State.emit_kept q5
      | apply State.putFld_kept q1
      | apply Kept.foldl
      | split
      | extract_lets
      | apply Kept.set_mute _ q6
  clear_value s3
  repeat' with_reducible first
    | assumption
    | intro _
    | apply Kept.ite
    | apply State.toFault_kept q0
    | apply State.faultRec_kept q1
    | apply State.evt_kept q0
    | apply State.endTakesFor_kept q2
    | apply State.draw_kept q3
    | apply State.hardSplice_kept q4
    | apply State.emit_kept q5
    | apply State.putFld_kept q1
    | apply Kept.foldl
    | split
    | extract_lets
    | apply Kept.set_mute _ q6

end Sys2Proof.Machine
end

