-- ==== Sys2Proof/Laws/KGaffer.lean ====
section
/-!
SUPPORT. Laws/KGaffer.lean: what each operation of Machine/Gaffer.lean may change, and that it keeps the canonical form.
-/
namespace Sys2Proof.Machine

theorem State.setEacc_kept {ws : List Field} {s₀ s : State} (hs_ : Field.sub [.regs, .gaffer] ws = true) (x : Int)
    (kh_ : Kept ws s₀ s) : Kept ws s₀ (State.setEacc s x) := by
  have q0 := Field.sub_trans (by decide : Field.sub [.regs] [.regs, .gaffer] = true) hs_
  have q1 := Field.sub_trans (by decide : Field.sub [.gaffer] [.regs, .gaffer] = true) hs_
  unfold State.setEacc
  extract_lets -merge _
  repeat' with_reducible first
    | assumption
    | intro _
    | apply Kept.ite
    | apply State.setReg_kept q0
    | apply Kept.foldl
    | split
    | extract_lets
    | apply Kept.set_gaffer _ q1

theorem execEnergyTick_kept {ws : List Field} {s₀ s : State} (hs_ : Field.sub [.regs, .gaffer] ws = true) (e : Energy)
    (kh_ : Kept ws s₀ s) : Kept ws s₀ (after s (execEnergyTick e s)) := by
  have q0 := Field.sub_trans (by decide : Field.sub [.gaffer] [.regs, .gaffer] = true) hs_
  unfold execEnergyTick
  extract_lets -merge s1 dieNj _
  clear_value dieNj
  have k_s1 : Kept ws s₀ s1 := by
    unfold s1
    repeat' with_reducible first
      | assumption
      | intro _
      | apply Kept.after_next
      | apply Kept.ite
      | apply State.setEacc_kept hs_
      | apply Kept.foldl
      | split
      | extract_lets
      | apply Kept.set_gaffer _ q0
  clear_value s1
  repeat' with_reducible first
    | assumption
    | intro _
    | apply Kept.after_next
    | apply Kept.ite
    | apply State.setEacc_kept hs_
    | apply Kept.foldl
    | split
    | extract_lets
    | apply Kept.set_gaffer _ q0

theorem State.budgetWrite_kept {ws : List Field} {s₀ s : State} (hs_ : Field.sub [.regs, .bar2, .out, .gaffer] ws = true) (req off : Nat) (val : Word)
    (kh_ : Kept ws s₀ s) : Kept ws s₀ (State.budgetWrite s req off val) := by
  have q0 := Field.sub_trans (by decide : Field.sub [.regs, .bar2, .out] [.regs, .bar2, .out, .gaffer] = true) hs_
  have q1 := Field.sub_trans (by decide : Field.sub [.regs] [.regs, .bar2, .out, .gaffer] = true) hs_
  have q2 := Field.sub_trans (by decide : Field.sub [.regs, .gaffer] [.regs, .bar2, .out, .gaffer] = true) hs_
  unfold State.budgetWrite
  extract_lets -merge w s1 s1_1
  clear_value w
  have k_s1 : Kept ws s₀ s1 := by
    unfold s1
    repeat' with_reducible first
      | assumption
      | intro _
      | apply Kept.ite
      | apply State.reject_kept q0
      | apply State.setNat_kept q1
      | apply State.setEacc_kept q2
      | apply Kept.foldl
      | split
      | extract_lets
  clear_value s1
  have k_s1_1 : Kept ws s₀ s1_1 := by
    unfold s1_1
    repeat' with_reducible first
      | assumption
      | intro _
      | apply Kept.ite
      | apply State.reject_kept q0
      | apply State.setNat_kept q1
      | apply State.setEacc_kept q2
      | apply Kept.foldl
      | split
      | extract_lets
  clear_value s1_1
  repeat' with_reducible first
    | assumption
    | intro _
    | apply Kept.ite
    | apply State.reject_kept q0
    | apply State.setNat_kept q1
    | apply State.setEacc_kept q2
    | apply Kept.foldl
    | split
    | extract_lets

theorem execPkgBudgetWrite_kept {ws : List Field} {s₀ s : State} (hs_ : Field.sub [.regs, .bar2, .out, .gaffer] ws = true) (req off : Nat) (val : Word)
    (kh_ : Kept ws s₀ s) : Kept ws s₀ (after s (execPkgBudgetWrite req off val s)) := by
  have q0 := Field.sub_trans (by decide : Field.sub [.regs, .bar2, .out] [.regs, .bar2, .out, .gaffer] = true) hs_
  unfold execPkgBudgetWrite
  repeat' with_reducible first
    | assumption
    | intro _
    | apply Kept.after_next
    | apply Kept.ite
    | apply State.asWrite_kept q0
    | apply State.budgetWrite_kept hs_
    | apply Kept.foldl
    | split
    | extract_lets

theorem State.writeCaps_kept {ws : List Field} {s₀ s : State} (hs_ : Field.sub [.regs, .bar2, .out] ws = true)
    (kh_ : Kept ws s₀ s) : Kept ws s₀ (State.writeCaps s) := by
  have q0 := Field.sub_trans (by decide : Field.sub [.regs] [.regs, .bar2, .out] = true) hs_
  unfold State.writeCaps
  repeat' with_reducible first
    | assumption
    | intro _
    | apply Kept.ite
    | apply State.evt_kept hs_
    | apply State.setNat_kept q0
    | apply Kept.foldl
    | split
    | extract_lets

theorem State.setTemps_kept {ws : List Field} {s₀ s : State} (hs_ : Field.sub [.regs] ws = true) (site : Nat) (ts : List Int)
    (kh_ : Kept ws s₀ s) : Kept ws s₀ (State.setTemps s site ts) := by
  unfold State.setTemps
  repeat' with_reducible first
    | assumption
    | intro _
    | apply Kept.ite
    | apply State.setNat_kept hs_
    | apply Kept.foldl
    | split
    | extract_lets

theorem State.dpBit_kept {ws : List Field} {s₀ s : State} (hs_ : Field.sub [.regs, .bar2, .out] ws = true) (site b evb gevb : Nat) (on : Bool)
    (kh_ : Kept ws s₀ s) : Kept ws s₀ (State.dpBit s site b evb gevb on) := by
  have q0 := Field.sub_trans (by decide : Field.sub [.regs] [.regs, .bar2, .out] = true) hs_
  unfold State.dpBit
  extract_lets -merge p rise
  clear_value p rise
  repeat' with_reducible first
    | assumption
    | intro _
    | apply Kept.ite
    | apply State.evtIf_kept hs_
    | apply State.putBit_kept q0
    | apply Kept.foldl
    | split
    | extract_lets

theorem State.avsSend_kept {ws : List Field} {s₀ s : State} (hs_ : Field.sub [.out, .gaffer] ws = true) (rail : Nat) (c : AvsCmd)
    (kh_ : Kept ws s₀ s) : Kept ws s₀ (State.avsSend s rail c) := by
  have q0 := Field.sub_trans (by decide : Field.sub [.out] [.out, .gaffer] = true) hs_
  have q1 := Field.sub_trans (by decide : Field.sub [.gaffer] [.out, .gaffer] = true) hs_
  unfold State.avsSend
  extract_lets -merge _
  repeat' with_reducible first
    | assumption
    | intro _
    | apply Kept.ite
    | apply State.emit_kept q0
    | apply Kept.foldl
    | split
    | extract_lets
    | apply Kept.set_gaffer _ q1

theorem State.clockTo_kept {ws : List Field} {s₀ s : State} (hs_ : Field.sub [.regs, .out, .gaffer, .dqs, .cores, .buckets] ws = true) (site next : Nat)
    (kh_ : Kept ws s₀ s) : Kept ws s₀ (State.clockTo s site next) := by
  have q0 := Field.sub_trans (by decide : Field.sub [.regs, .dqs, .cores, .buckets] [.regs, .out, .gaffer, .dqs, .cores, .buckets] = true) hs_
  have q1 := Field.sub_trans (by decide : Field.sub [.out, .gaffer] [.regs, .out, .gaffer, .dqs, .cores, .buckets] = true) hs_
  have q2 := Field.sub_trans (by decide : Field.sub [.gaffer] [.regs, .out, .gaffer, .dqs, .cores, .buckets] = true) hs_
  unfold State.clockTo
  extract_lets -merge p f hold switch _ _
  clear_value p f hold
  have k_switch : ∀ x0, Kept ws s₀ x0 → Kept ws s₀ (switch x0) := by
    unfold switch
    repeat' with_reducible first
      | assumption
      | intro _
      | apply Kept.ite
      | apply State.setMhz_kept q0
      | apply State.avsSend_kept q1
      | apply Kept.foldl
      | split
      | extract_lets
      | apply Kept.set_gaffer _ q2
  clear_value switch
  repeat' with_reducible first
    | assumption
    | intro _
    | apply k_switch
    | apply Kept.ite
    | apply State.setMhz_kept q0
    | apply State.avsSend_kept q1
    | apply Kept.foldl
    | split
    | extract_lets
    | apply Kept.set_gaffer _ q2

theorem State.raiseClocks_kept {ws : List Field} {s₀ s : State} (hs_ : Field.sub [.regs, .bar2, .out, .gaffer, .dqs, .cores, .buckets] ws = true)
    (kh_ : Kept ws s₀ s) : Kept ws s₀ (State.raiseClocks s) := by
  have q0 := Field.sub_trans (by decide : Field.sub [.regs, .out, .gaffer, .dqs, .cores, .buckets] [.regs, .bar2, .out, .gaffer, .dqs, .cores, .buckets] = true) hs_
  have q1 := Field.sub_trans (by decide : Field.sub [.regs, .bar2, .out] [.regs, .bar2, .out, .gaffer, .dqs, .cores, .buckets] = true) hs_
  unfold State.raiseClocks
  repeat' with_reducible first
    | assumption
    | intro _
    | apply Kept.ite
    | apply State.clockTo_kept q0
    | apply State.writeCaps_kept q1
    | apply Kept.foldl
    | split
    | extract_lets

theorem State.gafferDie_kept {ws : List Field} {s₀ s : State} (hs_ : Field.sub [.regs, .bar2, .out, .gaffer, .dqs, .cores, .buckets] ws = true) (site : Nat)
    (kh_ : Kept ws s₀ s) : Kept ws s₀ (State.gafferDie s site) := by
  have q0 := Field.sub_trans (by decide : Field.sub [.regs, .out, .gaffer, .dqs, .cores, .buckets] [.regs, .bar2, .out, .gaffer, .dqs, .cores, .buckets] = true) hs_
  have q1 := Field.sub_trans (by decide : Field.sub [.regs, .bar2, .out] [.regs, .bar2, .out, .gaffer, .dqs, .cores, .buckets] = true) hs_
  have q2 := Field.sub_trans (by decide : Field.sub [.regs] [.regs, .bar2, .out, .gaffer, .dqs, .cores, .buckets] = true) hs_
  unfold State.gafferDie
  extract_lets -merge p f fmin fmax floor take t lim0 want acc raw pw hold next s1 now lim s2 s3
  clear_value p f fmin fmax floor take t lim0 want acc raw pw hold next now lim
  have k_s1 : Kept ws s₀ s1 := by
    unfold s1
    repeat' with_reducible first
      | assumption
      | intro _
      | apply Kept.ite
      | apply State.clockTo_kept q0
      | apply State.dpBit_kept q1
      | apply State.setNat_kept q2
      | apply State.putBit_kept q2
      | apply State.putFld_kept q2
      | apply Kept.foldl
      | split
      | extract_lets
  clear_value s1
  have k_s2 : Kept ws s₀ s2 := by
    unfold s2
    repeat' with_reducible first
      | assumption
      | intro _
      | apply Kept.ite
      | apply State.clockTo_kept q0
      | apply State.dpBit_kept q1
      | apply State.setNat_kept q2
      | apply State.putBit_kept q2
      | apply State.putFld_kept q2
      | apply Kept.foldl
      | split
      | extract_lets
  clear_value s2
  have k_s3 : Kept ws s₀ s3 := by
    unfold s3
    repeat' with_reducible first
      | assumption
      | intro _
      | apply Kept.ite
      | apply State.clockTo_kept q0
      | apply State.dpBit_kept q1
      | apply State.setNat_kept q2
      | apply State.putBit_kept q2
      | apply State.putFld_kept q2
      | apply Kept.foldl
      | split
      | extract_lets
  clear_value s3
  repeat' with_reducible first
    | assumption
    | intro _
    | apply Kept.ite
    | apply State.clockTo_kept q0
    | apply State.dpBit_kept q1
    | apply State.setNat_kept q2
    | apply State.putBit_kept q2
    | apply State.putFld_kept q2
    | apply Kept.foldl
    | split
    | extract_lets

theorem execGafferTick_kept {ws : List Field} {s₀ s : State} (hs_ : Field.sub [.regs, .bar2, .out, .gaffer, .dqs, .cores, .buckets] ws = true) (temps : List (List Int))
    (kh_ : Kept ws s₀ s) : Kept ws s₀ (after s (execGafferTick temps s)) := by
  have q0 := Field.sub_trans (by decide : Field.sub [.regs, .bar2, .out] [.regs, .bar2, .out, .gaffer, .dqs, .cores, .buckets] = true) hs_
  have q1 := Field.sub_trans (by decide : Field.sub [.out, .gaffer] [.regs, .bar2, .out, .gaffer, .dqs, .cores, .buckets] = true) hs_
  have q2 := Field.sub_trans (by decide : Field.sub [.regs] [.regs, .bar2, .out, .gaffer, .dqs, .cores, .buckets] = true) hs_
  have q3 := Field.sub_trans (by decide : Field.sub [.gaffer] [.regs, .bar2, .out, .gaffer, .dqs, .cores, .buckets] = true) hs_
  unfold execGafferTick
  extract_lets -merge s1 sat pol s2 s3 s4 _
  clear_value sat pol
  have k_s1 : Kept ws s₀ s1 := by
    unfold s1
    repeat' with_reducible first
      | assumption
      | intro _
      | apply Kept.after_next
      | apply Kept.ite
      | apply State.evtIf_kept q0
      | apply State.gafferDie_kept hs_
      | apply State.avsSend_kept q1
      | apply State.setTemps_kept q2
      | apply State.writeCaps_kept q0
      | apply State.setNat_kept q2
      | apply State.putBit_kept q2
      | apply Kept.foldl
      | split
      | extract_lets
      | apply Kept.set_gaffer _ q3
  clear_value s1
  have k_s2 : Kept ws s₀ s2 := by
    unfold s2
    repeat' with_reducible first
      | assumption
      | intro _
      | apply Kept.after_next
      | apply Kept.ite
      | apply State.evtIf_kept q0
      | apply State.gafferDie_kept hs_
      | apply State.avsSend_kept q1
      | apply State.setTemps_kept q2
      | apply State.writeCaps_kept q0
      | apply State.setNat_kept q2
      | apply State.putBit_kept q2
      | apply Kept.foldl
      | split
      | extract_lets
      | apply Kept.set_gaffer _ q3
  clear_value s2
  have k_s3 : Kept ws s₀ s3 := by
    unfold s3
    repeat' with_reducible first
      | assumption
      | intro _
      | apply Kept.after_next
      | apply Kept.ite
      | apply State.evtIf_kept q0
      | apply State.gafferDie_kept hs_
      | apply State.avsSend_kept q1
      | apply State.setTemps_kept q2
      | apply State.writeCaps_kept q0
      | apply State.setNat_kept q2
      | apply State.putBit_kept q2
      | apply Kept.foldl
      | split
      | extract_lets
      | apply Kept.set_gaffer _ q3
  clear_value s3
  have k_s4 : Kept ws s₀ s4 := by
    unfold s4
    repeat' with_reducible first
      | assumption
      | intro _
      | apply Kept.after_next
      | apply Kept.ite
      | apply State.evtIf_kept q0
      | apply State.gafferDie_kept hs_
      | apply State.avsSend_kept q1
      | apply State.setTemps_kept q2
      | apply State.writeCaps_kept q0
      | apply State.setNat_kept q2
      | apply State.putBit_kept q2
      | apply Kept.foldl
      | split
      | extract_lets
      | apply Kept.set_gaffer _ q3
  clear_value s4
  repeat' with_reducible first
    | assumption
    | intro _
    | apply Kept.after_next
    | apply Kept.ite
    | apply State.evtIf_kept q0
    | apply State.gafferDie_kept hs_
    | apply State.avsSend_kept q1
    | apply State.setTemps_kept q2
    | apply State.writeCaps_kept q0
    | apply State.setNat_kept q2
    | apply State.putBit_kept q2
    | apply Kept.foldl
    | split
    | extract_lets
    | apply Kept.set_gaffer _ q3

theorem execTrip_kept {ws : List Field} {s₀ s : State} (hs_ : Field.sub [.regs, .bar2, .out, .dqs, .cores, .buckets] ws = true) (site : Nat) (temps : List Int)
    (kh_ : Kept ws s₀ s) : Kept ws s₀ (after s (execTrip site temps s)) := by
  have q0 := Field.sub_trans (by decide : Field.sub [.regs, .dqs, .cores, .buckets] [.regs, .bar2, .out, .dqs, .cores, .buckets] = true) hs_
  have q1 := Field.sub_trans (by decide : Field.sub [.regs, .bar2, .out] [.regs, .bar2, .out, .dqs, .cores, .buckets] = true) hs_
  have q2 := Field.sub_trans (by decide : Field.sub [.regs] [.regs, .bar2, .out, .dqs, .cores, .buckets] = true) hs_
  unfold execTrip
  extract_lets -merge p s1
  clear_value p
  have k_s1 : Kept ws s₀ s1 := by
    unfold s1
    repeat' with_reducible first
      | assumption
      | intro _
      | apply Kept.after_next
      | apply Kept.ite
      | apply State.setMhz_kept q0
      | apply State.dpBit_kept q1
      | apply State.setTemps_kept q2
      | apply State.writeCaps_kept q1
      | apply State.putBit_kept q2
      | apply Kept.foldl
      | split
      | extract_lets
  clear_value s1
  repeat' with_reducible first
    | assumption
    | intro _
    | apply Kept.after_next
    | apply Kept.ite
    | apply State.setMhz_kept q0
    | apply State.dpBit_kept q1
    | apply State.setTemps_kept q2
    | apply State.writeCaps_kept q1
    | apply State.putBit_kept q2
    | apply Kept.foldl
    | split
    | extract_lets

theorem execTripClear_kept {ws : List Field} {s₀ s : State} (hs_ : Field.sub [.regs, .bar2, .out, .dqs, .cores, .buckets] ws = true) (site : Nat) (temps : List Int)
    (kh_ : Kept ws s₀ s) : Kept ws s₀ (after s (execTripClear site temps s)) := by
  have q0 := Field.sub_trans (by decide : Field.sub [.regs, .dqs, .cores, .buckets] [.regs, .bar2, .out, .dqs, .cores, .buckets] = true) hs_
  have q1 := Field.sub_trans (by decide : Field.sub [.regs, .bar2, .out] [.regs, .bar2, .out, .dqs, .cores, .buckets] = true) hs_
  have q2 := Field.sub_trans (by decide : Field.sub [.regs] [.regs, .bar2, .out, .dqs, .cores, .buckets] = true) hs_
  unfold execTripClear
  extract_lets -merge p s1
  clear_value p
  have k_s1 : Kept ws s₀ s1 := by
    unfold s1
    repeat' with_reducible first
      | assumption
      | intro _
      | apply Kept.after_next
      | apply Kept.ite
      | apply State.setMhz_kept q0
      | apply State.evt_kept q1
      | apply State.setTemps_kept q2
      | apply State.writeCaps_kept q1
      | apply State.setNat_kept q2
      | apply State.putBit_kept q2
      | apply Kept.foldl
      | split
      | extract_lets
  clear_value s1
  repeat' with_reducible first
    | assumption
    | intro _
    | apply Kept.after_next
    | apply Kept.ite
    | apply State.setMhz_kept q0
    | apply State.evt_kept q1
    | apply State.setTemps_kept q2
    | apply State.writeCaps_kept q1
    | apply State.setNat_kept q2
    | apply State.putBit_kept q2
    | apply Kept.foldl
    | split
    | extract_lets

theorem State.avsDown_kept {ws : List Field} {s₀ s : State} (hs_ : Field.sub [.regs, .bar2, .out, .gaffer, .dqs, .cores, .buckets] ws = true) (rail : Nat) (alert : Bool)
    (kh_ : Kept ws s₀ s) : Kept ws s₀ (State.avsDown s rail alert) := by
  have q0 := Field.sub_trans (by decide : Field.sub [.regs, .dqs, .cores, .buckets] [.regs, .bar2, .out, .gaffer, .dqs, .cores, .buckets] = true) hs_
  have q1 := Field.sub_trans (by decide : Field.sub [.regs, .bar2, .out] [.regs, .bar2, .out, .gaffer, .dqs, .cores, .buckets] = true) hs_
  have q2 := Field.sub_trans (by decide : Field.sub [.regs] [.regs, .bar2, .out, .gaffer, .dqs, .cores, .buckets] = true) hs_
  have q3 := Field.sub_trans (by decide : Field.sub [.gaffer] [.regs, .bar2, .out, .gaffer, .dqs, .cores, .buckets] = true) hs_
  unfold State.avsDown
  extract_lets -merge s1 _ s2 p s3 s4
  clear_value p
  have k_s1 : Kept ws s₀ s1 := by
    unfold s1
    repeat' with_reducible first
      | assumption
      | intro _
      | apply Kept.ite
      | apply State.setMhz_kept q0
      | apply State.evt_kept q1
      | apply State.dpBit_kept q1
      | apply State.writeCaps_kept q1
      | apply State.putBit_kept q2
      | apply Kept.foldl
      | split
      | extract_lets
      | apply Kept.set_gaffer _ q3
  clear_value s1
  have k_s2 : Kept ws s₀ s2 := by
    unfold s2
    repeat' with_reducible first
      | assumption
      | intro _
      | apply Kept.ite
      | apply State.setMhz_kept q0
      | apply State.evt_kept q1
      | apply State.dpBit_kept q1
      | apply State.writeCaps_kept q1
      | apply State.putBit_kept q2
      | apply Kept.foldl
      | split
      | extract_lets
      | apply Kept.set_gaffer _ q3
  clear_value s2
  have k_s3 : Kept ws s₀ s3 := by
    unfold s3
    repeat' with_reducible first
      | assumption
      | intro _
      | apply Kept.ite
      | apply State.setMhz_kept q0
      | apply State.evt_kept q1
      | apply State.dpBit_kept q1
      | apply State.writeCaps_kept q1
      | apply State.putBit_kept q2
      | apply Kept.foldl
      | split
      | extract_lets
      | apply Kept.set_gaffer _ q3
  clear_value s3
  have k_s4 : Kept ws s₀ s4 := by
    unfold s4
    repeat' with_reducible first
      | assumption
      | intro _
      | apply Kept.ite
      | apply State.setMhz_kept q0
      | apply State.evt_kept q1
      | apply State.dpBit_kept q1
      | apply State.writeCaps_kept q1
      | apply State.putBit_kept q2
      | apply Kept.foldl
      | split
      | extract_lets
      | apply Kept.set_gaffer _ q3
  clear_value s4
  repeat' with_reducible first
    | assumption
    | intro _
    | apply Kept.ite
    | apply State.setMhz_kept q0
    | apply State.evt_kept q1
    | apply State.dpBit_kept q1
    | apply State.writeCaps_kept q1
    | apply State.putBit_kept q2
    | apply Kept.foldl
    | split
    | extract_lets
    | apply Kept.set_gaffer _ q3

theorem execAvsFault_kept {ws : List Field} {s₀ s : State} (hs_ : Field.sub [.regs, .bar2, .out, .gaffer, .dqs, .cores, .buckets] ws = true) (rail : Nat) (alert : Bool)
    (kh_ : Kept ws s₀ s) : Kept ws s₀ (after s (execAvsFault rail alert s)) := by
  unfold execAvsFault
  repeat' with_reducible first
    | assumption
    | intro _
    | apply Kept.after_next
    | apply Kept.ite
    | apply State.avsDown_kept hs_
    | apply Kept.foldl
    | split
    | extract_lets

theorem execAvsAck_kept {ws : List Field} {s₀ s : State} (hs_ : Field.sub [.regs, .bar2, .out, .gaffer, .dqs, .cores, .buckets, .avs] ws = true) (rail : Nat) (answer : AvsAnswer)
    (kh_ : Kept ws s₀ s) : Kept ws s₀ (after s (execAvsAck rail answer s)) := by
  have q0 := Field.sub_trans (by decide : Field.sub [.avs] [.regs, .bar2, .out, .gaffer, .dqs, .cores, .buckets, .avs] = true) hs_
  have q1 := Field.sub_trans (by decide : Field.sub [.regs, .bar2, .out, .gaffer, .dqs, .cores, .buckets] [.regs, .bar2, .out, .gaffer, .dqs, .cores, .buckets, .avs] = true) hs_
  have q2 := Field.sub_trans (by decide : Field.sub [.out, .gaffer] [.regs, .bar2, .out, .gaffer, .dqs, .cores, .buckets, .avs] = true) hs_
  have q3 := Field.sub_trans (by decide : Field.sub [.regs] [.regs, .bar2, .out, .gaffer, .dqs, .cores, .buckets, .avs] = true) hs_
  have q4 := Field.sub_trans (by decide : Field.sub [.gaffer] [.regs, .bar2, .out, .gaffer, .dqs, .cores, .buckets, .avs] = true) hs_
  unfold execAvsAck
  extract_lets -merge mv tries _ put s1 s2
  clear_value mv tries
  have k_put : ∀ x0, Kept ws s₀ (put x0) := by
    unfold put
    repeat' with_reducible first
      | assumption
      | intro _
      | apply Kept.after_next
      | apply Kept.ite
      | apply State.setAvsAt_kept q0
      | apply State.avsDown_kept q1
      | apply State.avsSend_kept q2
      | apply State.setNat_kept q3
      | apply State.putBit_kept q3
      | apply Kept.foldl
      | split
      | extract_lets
      | apply Kept.set_gaffer _ q4
  clear_value put
  have k_s1 : Kept ws s₀ s1 := by
    unfold s1
    repeat' with_reducible first
      | assumption
      | intro _
      | apply k_put
      | apply Kept.after_next
      | apply Kept.ite
      | apply State.setAvsAt_kept q0
      | apply State.avsDown_kept q1
      | apply State.avsSend_kept q2
      | apply State.setNat_kept q3
      | apply State.putBit_kept q3
      | apply Kept.foldl
      | split
      | extract_lets
      | apply Kept.set_gaffer _ q4
  clear_value s1
  have k_s2 : Kept ws s₀ s2 := by
    unfold s2
    repeat' with_reducible first
      | assumption
      | intro _
      | apply k_put
      | apply Kept.after_next
      | apply Kept.ite
      | apply State.setAvsAt_kept q0
      | apply State.avsDown_kept q1
      | apply State.avsSend_kept q2
      | apply State.setNat_kept q3
      | apply State.putBit_kept q3
      | apply Kept.foldl
      | split
      | extract_lets
      | apply Kept.set_gaffer _ q4
  clear_value s2
  repeat' with_reducible first
    | assumption
    | intro _
    | apply k_put
    | apply Kept.after_next
    | apply Kept.ite
    | apply State.setAvsAt_kept q0
    | apply State.avsDown_kept q1
    | apply State.avsSend_kept q2
    | apply State.setNat_kept q3
    | apply State.putBit_kept q3
    | apply Kept.foldl
    | split
    | extract_lets
    | apply Kept.set_gaffer _ q4

end Sys2Proof.Machine
end

