-- ==== Sys2Proof/Laws/KSecurity.lean ====
section
/-!
SUPPORT. Laws/KSecurity.lean: what each operation of Machine/Security.lean may change, and that it keeps the canonical form.
-/
namespace Sys2Proof.Machine

theorem execTrngValid_kept {ws : List Field} {s₀ s : State} (hs_ : Field.sub [.regs, .bar2, .out, .sec] ws = true)
    (kh_ : Kept ws s₀ s) : Kept ws s₀ (after s (execTrngValid s)) := by
  have q0 := Field.sub_trans (by decide : Field.sub [.regs, .bar2, .out] [.regs, .bar2, .out, .sec] = true) hs_
  have q1 := Field.sub_trans (by decide : Field.sub [.regs] [.regs, .bar2, .out, .sec] = true) hs_
  have q2 := Field.sub_trans (by decide : Field.sub [.sec] [.regs, .bar2, .out, .sec] = true) hs_
  unfold execTrngValid
  extract_lets -merge s1 s2 _ s3
  have k_s1 : Kept ws s₀ s1 := by
    unfold s1
    repeat' with_reducible first
      | assumption
      | intro _
      | apply Kept.after_next
      | apply Kept.ite
      | apply State.evt_kept q0
      | apply State.setNat_kept q1
      | apply State.putBit_kept q1
      | apply State.putFld_kept q1
      | apply Kept.foldl
      | split
      | extract_lets
      | apply Kept.set_sec _ q2
  clear_value s1
  have k_s2 : Kept ws s₀ s2 := by
    unfold s2
    repeat' with_reducible first
      | assumption
      | intro _
      | apply Kept.after_next
      | apply Kept.ite
      | apply State.evt_kept q0
      | apply State.setNat_kept q1
      | apply State.putBit_kept q1
      | apply State.putFld_kept q1
      | apply Kept.foldl
      | split
      | extract_lets
      | apply Kept.set_sec _ q2
  clear_value s2
  have k_s3 : Kept ws s₀ s3 := by
    unfold s3
    repeat' with_reducible first
      | assumption
      | intro _
      | apply Kept.after_next
      | apply Kept.ite
      | apply State.evt_kept q0
      | apply State.setNat_kept q1
      | apply State.putBit_kept q1
      | apply State.putFld_kept q1
      | apply Kept.foldl
      | split
      | extract_lets
      | apply Kept.set_sec _ q2
  clear_value s3
  repeat' with_reducible first
    | assumption
    | intro _
    | apply Kept.after_next
    | apply Kept.ite
    | apply State.evt_kept q0
    | apply State.setNat_kept q1
    | apply State.putBit_kept q1
    | apply State.putFld_kept q1
    | apply Kept.foldl
    | split
    | extract_lets
    | apply Kept.set_sec _ q2

theorem State.trngRestart_kept {ws : List Field} {s₀ s : State} (hs_ : Field.sub [.regs, .bar2, .out, .sec] ws = true)
    (kh_ : Kept ws s₀ s) : Kept ws s₀ (State.trngRestart s) := by
  have q0 := Field.sub_trans (by decide : Field.sub [.regs, .bar2, .out] [.regs, .bar2, .out, .sec] = true) hs_
  have q1 := Field.sub_trans (by decide : Field.sub [.regs] [.regs, .bar2, .out, .sec] = true) hs_
  have q2 := Field.sub_trans (by decide : Field.sub [.sec] [.regs, .bar2, .out, .sec] = true) hs_
  unfold State.trngRestart
  extract_lets -merge s1 _
  have k_s1 : Kept ws s₀ s1 := by
    unfold s1
    repeat' with_reducible first
      | assumption
      | intro _
      | apply Kept.ite
      | apply State.evtIf_kept q0
      | apply State.setNat_kept q1
      | apply State.putBit_kept q1
      | apply State.putFld_kept q1
      | apply Kept.foldl
      | split
      | extract_lets
      | apply Kept.set_sec _ q2
  clear_value s1
  repeat' with_reducible first
    | assumption
    | intro _
    | apply Kept.ite
    | apply State.evtIf_kept q0
    | apply State.setNat_kept q1
    | apply State.putBit_kept q1
    | apply State.putFld_kept q1
    | apply Kept.foldl
    | split
    | extract_lets
    | apply Kept.set_sec _ q2

theorem State.trngFault_kept {ws : List Field} {s₀ s : State} (hs_ : Field.sub [.regs, .bar2, .out, .sec] ws = true)
    (kh_ : Kept ws s₀ s) : Kept ws s₀ (State.trngFault s) := by
  have q0 := Field.sub_trans (by decide : Field.sub [.regs] [.regs, .bar2, .out, .sec] = true) hs_
  have q1 := Field.sub_trans (by decide : Field.sub [.regs, .bar2, .out] [.regs, .bar2, .out, .sec] = true) hs_
  unfold State.trngFault
  extract_lets -merge s1
  have k_s1 : Kept ws s₀ s1 := by
    unfold s1
    repeat' with_reducible first
      | assumption
      | intro _
      | apply Kept.ite
      | apply State.faultRec_kept q0
      | apply State.evt_kept q1
      | apply State.trngRestart_kept hs_
      | apply State.putFld_kept q0
      | apply Kept.foldl
      | split
      | extract_lets
  clear_value s1
  repeat' with_reducible first
    | assumption
    | intro _
    | apply Kept.ite
    | apply State.faultRec_kept q0
    | apply State.evt_kept q1
    | apply State.trngRestart_kept hs_
    | apply State.putFld_kept q0
    | apply Kept.foldl
    | split
    | extract_lets

theorem execHealthFail_kept {ws : List Field} {s₀ s : State} (hs_ : Field.sub [.regs, .bar2, .out, .sec] ws = true) (kind : HealthTest)
    (kh_ : Kept ws s₀ s) : Kept ws s₀ (after s (execHealthFail kind s)) := by
  have q0 := Field.sub_trans (by decide : Field.sub [.regs, .bar2, .out] [.regs, .bar2, .out, .sec] = true) hs_
  have q1 := Field.sub_trans (by decide : Field.sub [.regs] [.regs, .bar2, .out, .sec] = true) hs_
  have q2 := Field.sub_trans (by decide : Field.sub [.sec] [.regs, .bar2, .out, .sec] = true) hs_
  unfold execHealthFail
  extract_lets -merge stt s1 fails _ s2
  clear_value stt fails
  have k_s1 : Kept ws s₀ s1 := by
    unfold s1
    repeat' with_reducible first
      | assumption
      | intro _
      | apply Kept.after_next
      | apply Kept.ite
      | apply State.evt_kept q0
      | apply State.trngFault_kept hs_
      | apply State.trngRestart_kept hs_
      | apply State.addSat_kept q1
      | apply State.putFld_kept q1
      | apply Kept.foldl
      | split
      | extract_lets
      | apply Kept.set_sec _ q2
  clear_value s1
  have k_s2 : Kept ws s₀ s2 := by
    unfold s2
    repeat' with_reducible first
      | assumption
      | intro _
      | apply Kept.after_next
      | apply Kept.ite
      | apply State.evt_kept q0
      | apply State.trngFault_kept hs_
      | apply State.trngRestart_kept hs_
      | apply State.addSat_kept q1
      | apply State.putFld_kept q1
      | apply Kept.foldl
      | split
      | extract_lets
      | apply Kept.set_sec _ q2
  clear_value s2
  repeat' with_reducible first
    | assumption
    | intro _
    | apply Kept.after_next
    | apply Kept.ite
    | apply State.evt_kept q0
    | apply State.trngFault_kept hs_
    | apply State.trngRestart_kept hs_
    | apply State.addSat_kept q1
    | apply State.putFld_kept q1
    | apply Kept.foldl
    | split
    | extract_lets
    | apply Kept.set_sec _ q2

theorem execEntropyFail_kept {ws : List Field} {s₀ s : State} (hs_ : Field.sub [.regs, .bar2, .out, .sec] ws = true)
    (kh_ : Kept ws s₀ s) : Kept ws s₀ (after s (execEntropyFail s)) := by
  unfold execEntropyFail
  repeat' with_reducible first
    | assumption
    | intro _
    | apply Kept.after_next
    | apply Kept.ite
    | apply State.trngFault_kept hs_
    | apply Kept.foldl
    | split
    | extract_lets

theorem execDrbgReseed_kept {ws : List Field} {s₀ s : State} (hs_ : Field.sub [.regs, .bar2, .out, .sec, .free] ws = true)
    (kh_ : Kept ws s₀ s) : Kept ws s₀ (after s (execDrbgReseed s)) := by
  have q0 := Field.sub_trans (by decide : Field.sub [.regs, .bar2, .out] [.regs, .bar2, .out, .sec, .free] = true) hs_
  have q1 := Field.sub_trans (by decide : Field.sub [.regs] [.regs, .bar2, .out, .sec, .free] = true) hs_
  have q2 := Field.sub_trans (by decide : Field.sub [.sec] [.regs, .bar2, .out, .sec, .free] = true) hs_
  have q3 := Field.sub_trans (by decide : Field.sub [.free] [.regs, .bar2, .out, .sec, .free] = true) hs_
  unfold execDrbgReseed
  extract_lets -merge ok s1 _ _
  clear_value ok
  have k_s1 : Kept ws s₀ s1 := by
    unfold s1
    repeat' with_reducible first
      | assumption
      | intro _
      | apply Kept.after_next
      | apply Kept.ite
      | apply State.evtIf_kept q0
      | apply State.putBit_kept q1
      | apply State.draw_kept q3
      | apply Kept.foldl
      | split
      | extract_lets
      | apply Kept.set_sec _ q2
  clear_value s1
  repeat' with_reducible first
    | assumption
    | intro _
    | apply Kept.after_next
    | apply Kept.ite
    | apply State.evtIf_kept q0
    | apply State.putBit_kept q1
    | apply State.draw_kept q3
    | apply Kept.foldl
    | split
    | extract_lets
    | apply Kept.set_sec _ q2

theorem execRand_kept {ws : List Field} {s₀ s : State} (hs_ : Field.sub [.rdata, .sec] ws = true) (req : Nat)
    (kh_ : Kept ws s₀ s) : Kept ws s₀ (after s (execRand req s)) := by
  have q0 := Field.sub_trans (by decide : Field.sub [.rdata] [.rdata, .sec] = true) hs_
  have q1 := Field.sub_trans (by decide : Field.sub [.sec] [.rdata, .sec] = true) hs_
  unfold execRand
  extract_lets -merge _
  repeat' with_reducible first
    | assumption
    | intro _
    | apply Kept.after_next
    | apply Kept.ite
    | apply Kept.foldl
    | split
    | extract_lets
    | apply Kept.set_rdata_sec _ _ q0 q1
    | apply Kept.set_rdata _ q0

theorem State.setSess_kept {ws : List Field} {s₀ s : State} (hs_ : Field.sub [.regs] ws = true) (t x : Nat)
    (kh_ : Kept ws s₀ s) : Kept ws s₀ (State.setSess s t x) := by
  unfold State.setSess
  repeat' with_reducible first
    | assumption
    | intro _
    | apply Kept.ite
    | apply State.putFld_kept hs_
    | apply Kept.foldl
    | split
    | extract_lets

theorem execSessionOpen_kept {ws : List Field} {s₀ s : State} (hs_ : Field.sub [.regs, .bar2, .out, .tenants, .sec, .ram, .hmem, .loads, .poison] ws = true) (t : Nat)
    (kh_ : Kept ws s₀ s) : Kept ws s₀ (after s (execSessionOpen t s)) := by
  have q0 := Field.sub_trans (by decide : Field.sub [.ram, .hmem, .poison] [.regs, .bar2, .out, .tenants, .sec, .ram, .hmem, .loads, .poison] = true) hs_
  have q1 := Field.sub_trans (by decide : Field.sub [.regs, .bar2, .out] [.regs, .bar2, .out, .tenants, .sec, .ram, .hmem, .loads, .poison] = true) hs_
  have q2 := Field.sub_trans (by decide : Field.sub [.regs] [.regs, .bar2, .out, .tenants, .sec, .ram, .hmem, .loads, .poison] = true) hs_
  have q3 := Field.sub_trans (by decide : Field.sub [.regs, .bar2, .out, .loads] [.regs, .bar2, .out, .tenants, .sec, .ram, .hmem, .loads, .poison] = true) hs_
  have q4 := Field.sub_trans (by decide : Field.sub [.tenants] [.regs, .bar2, .out, .tenants, .sec, .ram, .hmem, .loads, .poison] = true) hs_
  have q5 := Field.sub_trans (by decide : Field.sub [.sec] [.regs, .bar2, .out, .tenants, .sec, .ram, .hmem, .loads, .poison] = true) hs_
  unfold execSessionOpen
  repeat' with_reducible first
    | assumption
    | intro _
    | apply Kept.after_next
    | apply Kept.ite
    | apply State.tmemPut_kept q0
    | apply State.evt_kept q1
    | apply State.setSess_kept q2
    | apply State.mbServe_kept q3
    | apply State.mbReply_kept q3
    | apply State.setTenant_kept q4
    | apply Kept.foldl
    | split
    | extract_lets
    | apply Kept.set_sec _ q5

theorem execSessionBind_kept {ws : List Field} {s₀ s : State} (hs_ : Field.sub [.regs, .bar2, .out, .tenants, .loads] ws = true) (t : Nat)
    (kh_ : Kept ws s₀ s) : Kept ws s₀ (after s (execSessionBind t s)) := by
  have q0 := Field.sub_trans (by decide : Field.sub [.regs] [.regs, .bar2, .out, .tenants, .loads] = true) hs_
  have q1 := Field.sub_trans (by decide : Field.sub [.regs, .bar2, .out, .loads] [.regs, .bar2, .out, .tenants, .loads] = true) hs_
  have q2 := Field.sub_trans (by decide : Field.sub [.tenants] [.regs, .bar2, .out, .tenants, .loads] = true) hs_
  unfold execSessionBind
  repeat' with_reducible first
    | assumption
    | intro _
    | apply Kept.after_next
    | apply Kept.ite
    | apply State.setSess_kept q0
    | apply State.mbServe_kept q1
    | apply State.mbReply_kept q1
    | apply State.setTenant_kept q2
    | apply Kept.foldl
    | split
    | extract_lets

theorem State.endSession_kept {ws : List Field} {s₀ s : State} (hs_ : Field.sub [.regs, .bar2, .out, .tenants] ws = true) (t : Nat)
    (kh_ : Kept ws s₀ s) : Kept ws s₀ (State.endSession s t) := by
  have q0 := Field.sub_trans (by decide : Field.sub [.regs, .bar2, .out] [.regs, .bar2, .out, .tenants] = true) hs_
  have q1 := Field.sub_trans (by decide : Field.sub [.regs] [.regs, .bar2, .out, .tenants] = true) hs_
  have q2 := Field.sub_trans (by decide : Field.sub [.tenants] [.regs, .bar2, .out, .tenants] = true) hs_
  unfold State.endSession
  extract_lets -merge x
  clear_value x
  repeat' with_reducible first
    | assumption
    | intro _
    | apply Kept.ite
    | apply State.evt_kept q0
    | apply State.setSess_kept q1
    | apply State.setTenant_kept q2
    | apply Kept.foldl
    | split
    | extract_lets

theorem execSessionClose_kept {ws : List Field} {s₀ s : State} (hs_ : Field.sub [.regs, .bar2, .out, .tenants, .loads] ws = true) (t : Nat)
    (kh_ : Kept ws s₀ s) : Kept ws s₀ (after s (execSessionClose t s)) := by
  have q0 := Field.sub_trans (by decide : Field.sub [.regs, .bar2, .out, .tenants] [.regs, .bar2, .out, .tenants, .loads] = true) hs_
  have q1 := Field.sub_trans (by decide : Field.sub [.regs, .bar2, .out, .loads] [.regs, .bar2, .out, .tenants, .loads] = true) hs_
  unfold execSessionClose
  repeat' with_reducible first
    | assumption
    | intro _
    | apply Kept.after_next
    | apply Kept.ite
    | apply State.endSession_kept q0
    | apply State.mbServe_kept q1
    | apply State.mbReply_kept q1
    | apply Kept.foldl
    | split
    | extract_lets

theorem State.endMemory_kept {ws : List Field} {s₀ s : State} (hs_ : Field.sub [.regs, .tenants] ws = true) (t : Nat)
    (kh_ : Kept ws s₀ s) : Kept ws s₀ (State.endMemory s t) := by
  have q0 := Field.sub_trans (by decide : Field.sub [.regs] [.regs, .tenants] = true) hs_
  have q1 := Field.sub_trans (by decide : Field.sub [.tenants] [.regs, .tenants] = true) hs_
  unfold State.endMemory
  extract_lets -merge _
  repeat' with_reducible first
    | assumption
    | intro _
    | apply Kept.ite
    | apply State.putBit_kept q0
    | apply State.setTenant_kept q1
    | apply Kept.foldl
    | split
    | extract_lets

theorem State.needKey_kept {ws : List Field} {s₀ s : State} (hs_ : Field.sub [.regs, .tenants, .sec] ws = true) (t : Nat)
    (kh_ : Kept ws s₀ s) : Kept ws s₀ (State.needKey s t) := by
  have q0 := Field.sub_trans (by decide : Field.sub [.regs] [.regs, .tenants, .sec] = true) hs_
  have q1 := Field.sub_trans (by decide : Field.sub [.tenants] [.regs, .tenants, .sec] = true) hs_
  have q2 := Field.sub_trans (by decide : Field.sub [.sec] [.regs, .tenants, .sec] = true) hs_
  unfold State.needKey
  extract_lets -merge _ _
  repeat' with_reducible first
    | assumption
    | intro _
    | apply Kept.ite
    | apply State.putBit_kept q0
    | apply State.setTenant_kept q1
    | apply Kept.foldl
    | split
    | extract_lets
    | apply Kept.set_sec _ q2

theorem State.memCheck_kept {ws : List Field} {s₀ s : State} (hs_ : Field.sub [.regs, .tenants] ws = true) (t : Nat)
    (kh_ : Kept ws s₀ s) : Kept ws s₀ (State.memCheck s t) := by
  unfold State.memCheck
  repeat' with_reducible first
    | assumption
    | intro _
    | apply Kept.ite
    | apply State.endMemory_kept hs_
    | apply Kept.foldl
    | split
    | extract_lets

theorem execConfEnter_kept {ws : List Field} {s₀ s : State} (hs_ : Field.sub [.regs, .bar2, .out, .tenants, .sec, .ram, .loads] ws = true) (t : Nat)
    (kh_ : Kept ws s₀ s) : Kept ws s₀ (after s (execConfEnter t s)) := by
  have q0 := Field.sub_trans (by decide : Field.sub [.ram] [.regs, .bar2, .out, .tenants, .sec, .ram, .loads] = true) hs_
  have q1 := Field.sub_trans (by decide : Field.sub [.regs, .bar2, .out] [.regs, .bar2, .out, .tenants, .sec, .ram, .loads] = true) hs_
  have q2 := Field.sub_trans (by decide : Field.sub [.regs, .bar2, .out, .loads] [.regs, .bar2, .out, .tenants, .sec, .ram, .loads] = true) hs_
  have q3 := Field.sub_trans (by decide : Field.sub [.regs] [.regs, .bar2, .out, .tenants, .sec, .ram, .loads] = true) hs_
  have q4 := Field.sub_trans (by decide : Field.sub [.tenants] [.regs, .bar2, .out, .tenants, .sec, .ram, .loads] = true) hs_
  have q5 := Field.sub_trans (by decide : Field.sub [.sec] [.regs, .bar2, .out, .tenants, .sec, .ram, .loads] = true) hs_
  unfold execConfEnter
  repeat' with_reducible first
    | assumption
    | intro _
    | apply Kept.after_next
    | apply Kept.ite
    | apply State.zeroGranules_kept q0
    | apply State.lock_kept q1
    | apply State.evt_kept q1
    | apply State.mbServe_kept q2
    | apply State.mbReply_kept q2
    | apply State.putBit_kept q3
    | apply State.setTenant_kept q4
    | apply Kept.foldl
    | split
    | extract_lets
    | apply Kept.set_sec _ q5

theorem State.endConf_kept {ws : List Field} {s₀ s : State} (hs_ : Field.sub [.regs, .back, .bar2, .out, .tenants, .ram, .hmem, .slotRings, .cueQs, .binFlags, .slates, .cancels, .tqs, .sched, .dqs, .cores, .cmbs, .engs, .mmus, .poison, .bndTaken] ws = true) (t : Nat)
    (kh_ : Kept ws s₀ s) : Kept ws s₀ (State.endConf s t) := by
  have q0 := Field.sub_trans (by decide : Field.sub [.ram, .cores, .cmbs, .engs, .poison] [.regs, .back, .bar2, .out, .tenants, .ram, .hmem, .slotRings, .cueQs, .binFlags, .slates, .cancels, .tqs, .sched, .dqs, .cores, .cmbs, .engs, .mmus, .poison, .bndTaken] = true) hs_
  have q1 := Field.sub_trans (by decide : Field.sub [.ram] [.regs, .back, .bar2, .out, .tenants, .ram, .hmem, .slotRings, .cueQs, .binFlags, .slates, .cancels, .tqs, .sched, .dqs, .cores, .cmbs, .engs, .mmus, .poison, .bndTaken] = true) hs_
  have q2 := Field.sub_trans (by decide : Field.sub [.regs, .back, .bar2, .out, .ram, .hmem, .slotRings, .cueQs, .binFlags, .slates, .dqs, .cores, .cmbs, .engs, .mmus, .poison, .bndTaken] [.regs, .back, .bar2, .out, .tenants, .ram, .hmem, .slotRings, .cueQs, .binFlags, .slates, .cancels, .tqs, .sched, .dqs, .cores, .cmbs, .engs, .mmus, .poison, .bndTaken] = true) hs_
  have q3 := Field.sub_trans (by decide : Field.sub [.regs, .back, .bar2, .out, .ram, .hmem, .slotRings, .cancels, .tqs, .sched, .dqs, .cores, .cmbs, .engs, .mmus, .poison] [.regs, .back, .bar2, .out, .tenants, .ram, .hmem, .slotRings, .cueQs, .binFlags, .slates, .cancels, .tqs, .sched, .dqs, .cores, .cmbs, .engs, .mmus, .poison, .bndTaken] = true) hs_
  have q4 := Field.sub_trans (by decide : Field.sub [.regs, .bar2, .out] [.regs, .back, .bar2, .out, .tenants, .ram, .hmem, .slotRings, .cueQs, .binFlags, .slates, .cancels, .tqs, .sched, .dqs, .cores, .cmbs, .engs, .mmus, .poison, .bndTaken] = true) hs_
  have q5 := Field.sub_trans (by decide : Field.sub [.regs, .tenants] [.regs, .back, .bar2, .out, .tenants, .ram, .hmem, .slotRings, .cueQs, .binFlags, .slates, .cancels, .tqs, .sched, .dqs, .cores, .cmbs, .engs, .mmus, .poison, .bndTaken] = true) hs_
  have q6 := Field.sub_trans (by decide : Field.sub [.regs, .bar2, .out, .tenants] [.regs, .back, .bar2, .out, .tenants, .ram, .hmem, .slotRings, .cueQs, .binFlags, .slates, .cancels, .tqs, .sched, .dqs, .cores, .cmbs, .engs, .mmus, .poison, .bndTaken] = true) hs_
  have q7 := Field.sub_trans (by decide : Field.sub [.regs] [.regs, .back, .bar2, .out, .tenants, .ram, .hmem, .slotRings, .cueQs, .binFlags, .slates, .cancels, .tqs, .sched, .dqs, .cores, .cmbs, .engs, .mmus, .poison, .bndTaken] = true) hs_
  unfold State.endConf
  extract_lets -merge s1 s2 s3
  have k_s1 : Kept ws s₀ s1 := by
    unfold s1
    repeat' with_reducible first
      | assumption
      | intro _
      | apply Kept.ite
      | apply State.zeroUnits_kept q0
      | apply State.zeroGranules_kept q1
      | apply State.unloadTenant_kept q2
      | apply State.endTakes_kept q3
      | apply State.unlock_kept q4
      | apply State.endMemory_kept q5
      | apply State.evt_kept q4
      | apply State.endSession_kept q6
      | apply State.putBit_kept q7
      | apply Kept.foldl
      | split
      | extract_lets
  clear_value s1
  have k_s2 : Kept ws s₀ s2 := by
    unfold s2
    repeat' with_reducible first
      | assumption
      | intro _
      | apply Kept.ite
      | apply State.zeroUnits_kept q0
      | apply State.zeroGranules_kept q1
      | apply State.unloadTenant_kept q2
      | apply State.endTakes_kept q3
      | apply State.unlock_kept q4
      | apply State.endMemory_kept q5
      | apply State.evt_kept q4
      | apply State.endSession_kept q6
      | apply State.putBit_kept q7
      | apply Kept.foldl
      | split
      | extract_lets
  clear_value s2
  have k_s3 : Kept ws s₀ s3 := by
    unfold s3
    repeat' with_reducible first
      | assumption
      | intro _
      | apply Kept.ite
      | apply State.zeroUnits_kept q0
      | apply State.zeroGranules_kept q1
      | apply State.unloadTenant_kept q2
      | apply State.endTakes_kept q3
      | apply State.unlock_kept q4
      | apply State.endMemory_kept q5
      | apply State.evt_kept q4
      | apply State.endSession_kept q6
      | apply State.putBit_kept q7
      | apply Kept.foldl
      | split
      | extract_lets
  clear_value s3
  repeat' with_reducible first
    | assumption
    | intro _
    | apply Kept.ite
    | apply State.zeroUnits_kept q0
    | apply State.zeroGranules_kept q1
    | apply State.unloadTenant_kept q2
    | apply State.endTakes_kept q3
    | apply State.unlock_kept q4
    | apply State.endMemory_kept q5
    | apply State.evt_kept q4
    | apply State.endSession_kept q6
    | apply State.putBit_kept q7
    | apply Kept.foldl
    | split
    | extract_lets

theorem execConfExit_kept {ws : List Field} {s₀ s : State} (hs_ : Field.sub [.regs, .back, .bar2, .out, .tenants, .ram, .hmem, .loads, .slotRings, .cueQs, .binFlags, .slates, .cancels, .tqs, .sched, .dqs, .cores, .cmbs, .engs, .mmus, .poison, .bndTaken] ws = true) (t : Nat)
    (kh_ : Kept ws s₀ s) : Kept ws s₀ (after s (execConfExit t s)) := by
  have q0 := Field.sub_trans (by decide : Field.sub [.regs, .back, .bar2, .out, .tenants, .ram, .hmem, .slotRings, .cueQs, .binFlags, .slates, .cancels, .tqs, .sched, .dqs, .cores, .cmbs, .engs, .mmus, .poison, .bndTaken] [.regs, .back, .bar2, .out, .tenants, .ram, .hmem, .loads, .slotRings, .cueQs, .binFlags, .slates, .cancels, .tqs, .sched, .dqs, .cores, .cmbs, .engs, .mmus, .poison, .bndTaken] = true) hs_
  have q1 := Field.sub_trans (by decide : Field.sub [.regs, .bar2, .out, .loads] [.regs, .back, .bar2, .out, .tenants, .ram, .hmem, .loads, .slotRings, .cueQs, .binFlags, .slates, .cancels, .tqs, .sched, .dqs, .cores, .cmbs, .engs, .mmus, .poison, .bndTaken] = true) hs_
  unfold execConfExit
  repeat' with_reducible first
    | assumption
    | intro _
    | apply Kept.after_next
    | apply Kept.ite
    | apply State.endConf_kept q0
    | apply State.mbServe_kept q1
    | apply State.mbReply_kept q1
    | apply Kept.foldl
    | split
    | extract_lets

theorem execAttestCert_kept {ws : List Field} {s₀ s : State} (hs_ : Field.sub [.regs, .bar2, .out, .ram, .hmem, .loads, .poison] ws = true) (t : Nat)
    (kh_ : Kept ws s₀ s) : Kept ws s₀ (after s (execAttestCert t s)) := by
  have q0 := Field.sub_trans (by decide : Field.sub [.ram, .hmem, .poison] [.regs, .bar2, .out, .ram, .hmem, .loads, .poison] = true) hs_
  have q1 := Field.sub_trans (by decide : Field.sub [.regs, .bar2, .out, .loads] [.regs, .bar2, .out, .ram, .hmem, .loads, .poison] = true) hs_
  unfold execAttestCert
  extract_lets -merge c
  clear_value c
  repeat' with_reducible first
    | assumption
    | intro _
    | apply Kept.after_next
    | apply Kept.ite
    | apply State.tmemPut_kept q0
    | apply State.mbServe_kept q1
    | apply State.mbReply_kept q1
    | apply Kept.foldl
    | split
    | extract_lets

theorem execDbgWinDataWrite_kept {ws : List Field} {s₀ s : State} (hs_ : Field.sub [.regs, .bar2, .out, .ram] ws = true) (req : Nat) (val : Word)
    (kh_ : Kept ws s₀ s) : Kept ws s₀ (after s (execDbgWinDataWrite req val s)) := by
  have q0 := Field.sub_trans (by decide : Field.sub [.regs, .bar2, .out] [.regs, .bar2, .out, .ram] = true) hs_
  have q1 := Field.sub_trans (by decide : Field.sub [.regs] [.regs, .bar2, .out, .ram] = true) hs_
  have q2 := Field.sub_trans (by decide : Field.sub [.ram] [.regs, .bar2, .out, .ram] = true) hs_
  unfold execDbgWinDataWrite
  repeat' with_reducible first
    | assumption
    | intro _
    | apply Kept.after_next
    | apply Kept.ite
    | apply State.asWrite_kept q0
    | apply State.reject_kept q0
    | apply State.addWrap_kept q1
    | apply State.ramPut_kept q2
    | apply Kept.foldl
    | split
    | extract_lets

theorem execDbgWinDataRead_kept {ws : List Field} {s₀ s : State} (hs_ : Field.sub [.regs, .rdata] ws = true) (req : Nat)
    (kh_ : Kept ws s₀ s) : Kept ws s₀ (after s (execDbgWinDataRead req s)) := by
  have q0 := Field.sub_trans (by decide : Field.sub [.regs] [.regs, .rdata] = true) hs_
  have q1 := Field.sub_trans (by decide : Field.sub [.rdata] [.regs, .rdata] = true) hs_
  unfold execDbgWinDataRead
  extract_lets -merge a
  clear_value a
  repeat' with_reducible first
    | assumption
    | intro _
    | apply Kept.after_next
    | apply Kept.ite
    | apply State.addWrap_kept q0
    | apply Kept.foldl
    | split
    | extract_lets
    | apply Kept.set_rdata _ q1

theorem execTapInstruction_kept {ws : List Field} {s₀ s : State} (hs_ : Field.sub [.sec] ws = true) (code : Nat)
    (kh_ : Kept ws s₀ s) : Kept ws s₀ (after s (execTapInstruction code s)) := by
  unfold execTapInstruction
  extract_lets -merge confAny _
  clear_value confAny
  repeat' with_reducible first
    | assumption
    | intro _
    | apply Kept.after_next
    | apply Kept.ite
    | apply Kept.foldl
    | split
    | extract_lets
    | apply Kept.set_sec _ hs_

end Sys2Proof.Machine
end

