-- ==== Sys2Proof/Laws/KMmuCmds.lean ====
section
/-!
SUPPORT. Laws/KMmuCmds.lean: what each operation of Machine/MmuCmds.lean may change, and that it keeps the canonical form.
-/
namespace Sys2Proof.Machine

theorem State.unitResume_kept {ws : List Field} {s₀ s : State} (hs_ : Field.sub [.regs, .back, .bar2, .out, .dqs] ws = true) (u : HUnit)
    (kh_ : Kept ws s₀ s) : Kept ws s₀ (State.unitResume s u) := by
  have q0 := Field.sub_trans (by decide : Field.sub [.regs] [.regs, .back, .bar2, .out, .dqs] = true) hs_
  have q1 := Field.sub_trans (by decide : Field.sub [.regs, .back, .bar2, .out] [.regs, .back, .bar2, .out, .dqs] = true) hs_
  have q2 := Field.sub_trans (by decide : Field.sub [.dqs] [.regs, .back, .bar2, .out, .dqs] = true) hs_
  unfold State.unitResume
  extract_lets -merge d
  clear_value d
  repeat' with_reducible first
    | assumption
    | intro _
    | apply Kept.ite
    | apply State.showDq_kept q0
    | apply State.unhalt_kept q1
    | apply State.setDq_kept q2
    | apply Kept.foldl
    | split
    | extract_lets

theorem State.rewalk_kept {ws : List Field} {s₀ s : State} (hs_ : Field.sub [.regs, .back, .bar2, .out, .slates, .tqs, .dqs, .mmus] ws = true) (t : Nat) (pick : HUnit → Bool)
    (kh_ : Kept ws s₀ s) : Kept ws s₀ (State.rewalk s t pick) := by
  have q0 := Field.sub_trans (by decide : Field.sub [.regs, .back, .bar2, .out, .slates, .tqs] [.regs, .back, .bar2, .out, .slates, .tqs, .dqs, .mmus] = true) hs_
  have q1 := Field.sub_trans (by decide : Field.sub [.regs, .back, .bar2, .out, .mmus] [.regs, .back, .bar2, .out, .slates, .tqs, .dqs, .mmus] = true) hs_
  have q2 := Field.sub_trans (by decide : Field.sub [.regs] [.regs, .back, .bar2, .out, .slates, .tqs, .dqs, .mmus] = true) hs_
  have q3 := Field.sub_trans (by decide : Field.sub [.regs, .back, .bar2, .out, .dqs] [.regs, .back, .bar2, .out, .slates, .tqs, .dqs, .mmus] = true) hs_
  unfold State.rewalk
  extract_lets -merge us s1 s2 s3
  clear_value us
  have k_s1 : Kept ws s₀ s1 := by
    unfold s1
    repeat' with_reducible first
      | assumption
      | intro _
      | apply Kept.ite
      | apply State.unhaltWork_kept q0
      | apply State.dropUnits_kept q1
      | apply State.haltUnit_kept q1
      | apply State.putBit_kept q2
      | apply State.unitResume_kept q3
      | apply Kept.foldl
      | split
      | extract_lets
  clear_value s1
  have k_s2 : Kept ws s₀ s2 := by
    unfold s2
    repeat' with_reducible first
      | assumption
      | intro _
      | apply Kept.ite
      | apply State.unhaltWork_kept q0
      | apply State.dropUnits_kept q1
      | apply State.haltUnit_kept q1
      | apply State.putBit_kept q2
      | apply State.unitResume_kept q3
      | apply Kept.foldl
      | split
      | extract_lets
  clear_value s2
  have k_s3 : Kept ws s₀ s3 := by
    unfold s3
    repeat' with_reducible first
      | assumption
      | intro _
      | apply Kept.ite
      | apply State.unhaltWork_kept q0
      | apply State.dropUnits_kept q1
      | apply State.haltUnit_kept q1
      | apply State.putBit_kept q2
      | apply State.unitResume_kept q3
      | apply Kept.foldl
      | split
      | extract_lets
  clear_value s3
  repeat' with_reducible first
    | assumption
    | intro _
    | apply Kept.ite
    | apply State.unhaltWork_kept q0
    | apply State.dropUnits_kept q1
    | apply State.haltUnit_kept q1
    | apply State.putBit_kept q2
    | apply State.unitResume_kept q3
    | apply Kept.foldl
    | split
    | extract_lets

theorem State.resumeRec_kept {ws : List Field} {s₀ s : State} (hs_ : Field.sub [.regs, .back, .bar2, .out, .ram, .hmem, .slotRings, .slates, .cancels, .tqs, .sched, .dqs, .cores, .cmbs, .engs, .mmus, .poison] ws = true) (t id : Nat) (fail : Bool)
    (kh_ : Kept ws s₀ s) : KeptO ws s₀ (State.resumeRec s t id fail) := by
  have q0 := Field.sub_trans (by decide : Field.sub [.regs, .back, .bar2, .out, .mmus] [.regs, .back, .bar2, .out, .ram, .hmem, .slotRings, .slates, .cancels, .tqs, .sched, .dqs, .cores, .cmbs, .engs, .mmus, .poison] = true) hs_
  have q1 := Field.sub_trans (by decide : Field.sub [.regs, .bar2, .out] [.regs, .back, .bar2, .out, .ram, .hmem, .slotRings, .slates, .cancels, .tqs, .sched, .dqs, .cores, .cmbs, .engs, .mmus, .poison] = true) hs_
  have q2 := Field.sub_trans (by decide : Field.sub [.regs, .back, .bar2, .out, .slates, .tqs, .dqs, .mmus] [.regs, .back, .bar2, .out, .ram, .hmem, .slotRings, .slates, .cancels, .tqs, .sched, .dqs, .cores, .cmbs, .engs, .mmus, .poison] = true) hs_
  unfold State.resumeRec
  extract_lets -merge us s1 s2
  clear_value us
  have k_s1 : Kept ws s₀ s1 := by
    unfold s1
    repeat' with_reducible first
      | assumption
      | intro _
      | apply KeptO.ite
      | apply KeptO.some
      | exact KeptO.none
      | apply Kept.ite
      | apply State.contained_kept hs_
      | apply State.dropUnits_kept q0
      | apply State.toFault_kept q1
      | apply State.rewalk_kept q2
      | apply Kept.foldl
      | split
      | extract_lets
  clear_value s1
  have k_s2 : Kept ws s₀ s2 := by
    unfold s2
    repeat' with_reducible first
      | assumption
      | intro _
      | apply KeptO.ite
      | apply KeptO.some
      | exact KeptO.none
      | apply Kept.ite
      | apply State.contained_kept hs_
      | apply State.dropUnits_kept q0
      | apply State.toFault_kept q1
      | apply State.rewalk_kept q2
      | apply Kept.foldl
      | split
      | extract_lets
  clear_value s2
  repeat' with_reducible first
    | assumption
    | intro _
    | apply KeptO.ite
    | apply KeptO.some
    | exact KeptO.none
    | apply Kept.ite
    | apply State.contained_kept hs_
    | apply State.dropUnits_kept q0
    | apply State.toFault_kept q1
    | apply State.rewalk_kept q2
    | apply Kept.foldl
    | split
    | extract_lets

theorem State.mmuCmd_kept {ws : List Field} {s₀ s : State} (hs_ : Field.sub [.regs, .back, .bar2, .out, .ram, .hmem, .slotRings, .slates, .cancels, .tqs, .sched, .dqs, .cores, .cmbs, .engs, .mmus, .poison] ws = true) (req t : Nat) (val : Word)
    (kh_ : Kept ws s₀ s) : Kept ws s₀ (State.mmuCmd s req t val) := by
  have q0 := Field.sub_trans (by decide : Field.sub [.regs, .bar2, .out] [.regs, .back, .bar2, .out, .ram, .hmem, .slotRings, .slates, .cancels, .tqs, .sched, .dqs, .cores, .cmbs, .engs, .mmus, .poison] = true) hs_
  have q1 := Field.sub_trans (by decide : Field.sub [.regs] [.regs, .back, .bar2, .out, .ram, .hmem, .slotRings, .slates, .cancels, .tqs, .sched, .dqs, .cores, .cmbs, .engs, .mmus, .poison] = true) hs_
  unfold State.mmuCmd
  extract_lets -merge p r
  clear_value p
  have k_r : KeptO ws s₀ r := by
    unfold r
    repeat' with_reducible first
      | assumption
      | intro _
      | apply KeptO.ite
      | apply KeptO.some
      | exact KeptO.none
      | apply Kept.ite
      | apply State.reject_kept q0
      | apply State.resumeRec_kept hs_
      | refine KeptO.of (State.resumeRec_kept hs_ _ _ _ ?_) ‹_›
      | apply State.putBit_kept q1
      | apply Kept.foldl
      | split
      | extract_lets
  clear_value r
  repeat' with_reducible first
    | assumption
    | intro _
    | exact KeptO.of k_r rfl
    | refine KeptO.of k_r ‹_›
    | exact k_r
    | apply KeptO.ite
    | apply KeptO.some
    | exact KeptO.none
    | apply Kept.ite
    | apply State.reject_kept q0
    | apply State.resumeRec_kept hs_
    | refine KeptO.of (State.resumeRec_kept hs_ _ _ _ ?_) ‹_›
    | apply State.putBit_kept q1
    | apply Kept.foldl
    | split
    | extract_lets

theorem State.mmuWrite_kept {ws : List Field} {s₀ s : State} (hs_ : Field.sub [.regs, .back, .bar2, .out, .ram, .hmem, .slotRings, .slates, .cancels, .tqs, .sched, .dqs, .cores, .cmbs, .engs, .mmus, .poison] ws = true) (req t : Nat) (val : Word) (c : Bool)
    (kh_ : Kept ws s₀ s) : Kept ws s₀ (State.mmuWrite s req t val c) := by
  have q0 := Field.sub_trans (by decide : Field.sub [.regs, .bar2, .out] [.regs, .back, .bar2, .out, .ram, .hmem, .slotRings, .slates, .cancels, .tqs, .sched, .dqs, .cores, .cmbs, .engs, .mmus, .poison] = true) hs_
  unfold State.mmuWrite
  repeat' with_reducible first
    | assumption
    | intro _
    | apply Kept.ite
    | apply State.asWrite_kept q0
    | apply State.mmuCmd_kept hs_
    | apply Kept.foldl
    | split
    | extract_lets

theorem execMmuCmdInvalidate_kept {ws : List Field} {s₀ s : State} (hs_ : Field.sub [.regs, .back, .bar2, .out, .ram, .hmem, .slotRings, .slates, .cancels, .tqs, .sched, .dqs, .cores, .cmbs, .engs, .mmus, .poison] ws = true) (req t : Nat) (val : Word)
    (kh_ : Kept ws s₀ s) : Kept ws s₀ (after s (execMmuCmdInvalidate req t val s)) := by
  unfold execMmuCmdInvalidate
  repeat' with_reducible first
    | assumption
    | intro _
    | apply Kept.after_next
    | apply Kept.ite
    | apply State.mmuWrite_kept hs_
    | apply Kept.foldl
    | split
    | extract_lets

theorem execMmuCmdResume_kept {ws : List Field} {s₀ s : State} (hs_ : Field.sub [.regs, .back, .bar2, .out, .ram, .hmem, .slotRings, .slates, .cancels, .tqs, .sched, .dqs, .cores, .cmbs, .engs, .mmus, .poison] ws = true) (req t : Nat) (val : Word)
    (kh_ : Kept ws s₀ s) : Kept ws s₀ (after s (execMmuCmdResume req t val s)) := by
  unfold execMmuCmdResume
  repeat' with_reducible first
    | assumption
    | intro _
    | apply Kept.after_next
    | apply Kept.ite
    | apply State.mmuWrite_kept hs_
    | apply Kept.foldl
    | split
    | extract_lets

theorem execMmuCmdResumeFail_kept {ws : List Field} {s₀ s : State} (hs_ : Field.sub [.regs, .back, .bar2, .out, .ram, .hmem, .slotRings, .slates, .cancels, .tqs, .sched, .dqs, .cores, .cmbs, .engs, .mmus, .poison] ws = true) (req t : Nat) (val : Word)
    (kh_ : Kept ws s₀ s) : Kept ws s₀ (after s (execMmuCmdResumeFail req t val s)) := by
  unfold execMmuCmdResumeFail
  repeat' with_reducible first
    | assumption
    | intro _
    | apply Kept.after_next
    | apply Kept.ite
    | apply State.mmuWrite_kept hs_
    | apply Kept.foldl
    | split
    | extract_lets

theorem State.mbServeFor_kept {ws : List Field} {s₀ s : State} (hs_ : Field.sub [.regs, .bar2, .out, .loads] ws = true) (t op len : Nat) (k : Nat → State → State) (h_k : ∀ t0 t1, Kept ws s₀ t1 → Kept ws s₀ (k t0 t1))
    (kh_ : Kept ws s₀ s) : Kept ws s₀ (State.mbServeFor s t op len k) := by
  unfold State.mbServeFor
  repeat' with_reducible first
    | assumption
    | intro _
    | apply h_k
    | apply Kept.ite
    | apply State.mbServe_kept hs_
    | apply State.mbReply_kept hs_
    | apply Kept.foldl
    | split
    | extract_lets

theorem execMmuSetRoot_kept {ws : List Field} {s₀ s : State} (hs_ : Field.sub [.regs, .bar2, .out, .loads] ws = true) (t : Nat)
    (kh_ : Kept ws s₀ s) : Kept ws s₀ (after s (execMmuSetRoot t s)) := by
  have q0 := Field.sub_trans (by decide : Field.sub [.regs] [.regs, .bar2, .out, .loads] = true) hs_
  unfold execMmuSetRoot
  repeat' with_reducible first
    | assumption
    | intro _
    | apply Kept.after_next
    | apply Kept.ite
    | apply State.mbServeFor_kept hs_
    | apply State.mbReply_kept hs_
    | apply State.setWide_kept q0
    | apply Kept.foldl
    | split
    | extract_lets

theorem execMmuInvalidate_kept {ws : List Field} {s₀ s : State} (hs_ : Field.sub [.regs, .bar2, .out, .loads, .mmus] ws = true) (t : Nat)
    (kh_ : Kept ws s₀ s) : Kept ws s₀ (after s (execMmuInvalidate t s)) := by
  have q0 := Field.sub_trans (by decide : Field.sub [.mmus] [.regs, .bar2, .out, .loads, .mmus] = true) hs_
  have q1 := Field.sub_trans (by decide : Field.sub [.regs, .bar2, .out, .loads] [.regs, .bar2, .out, .loads, .mmus] = true) hs_
  have q2 := Field.sub_trans (by decide : Field.sub [.regs] [.regs, .bar2, .out, .loads, .mmus] = true) hs_
  unfold execMmuInvalidate
  repeat' with_reducible first
    | assumption
    | intro _
    | apply Kept.after_next
    | apply Kept.ite
    | apply State.setMmu_kept q0
    | apply State.mbServeFor_kept q1
    | apply State.setNat_kept q2
    | apply State.putBit_kept q2
    | apply Kept.foldl
    | split
    | extract_lets

theorem execInvDone_kept {ws : List Field} {s₀ s : State} (hs_ : Field.sub [.regs, .back, .bar2, .out, .loads, .slates, .tqs, .dqs, .mmus] ws = true) (t : Nat)
    (kh_ : Kept ws s₀ s) : Kept ws s₀ (after s (execInvDone t s)) := by
  have q0 := Field.sub_trans (by decide : Field.sub [.mmus] [.regs, .back, .bar2, .out, .loads, .slates, .tqs, .dqs, .mmus] = true) hs_
  have q1 := Field.sub_trans (by decide : Field.sub [.regs, .bar2, .out] [.regs, .back, .bar2, .out, .loads, .slates, .tqs, .dqs, .mmus] = true) hs_
  have q2 := Field.sub_trans (by decide : Field.sub [.regs, .bar2, .out, .loads] [.regs, .back, .bar2, .out, .loads, .slates, .tqs, .dqs, .mmus] = true) hs_
  have q3 := Field.sub_trans (by decide : Field.sub [.regs] [.regs, .back, .bar2, .out, .loads, .slates, .tqs, .dqs, .mmus] = true) hs_
  have q4 := Field.sub_trans (by decide : Field.sub [.regs, .back, .bar2, .out, .slates, .tqs, .dqs, .mmus] [.regs, .back, .bar2, .out, .loads, .slates, .tqs, .dqs, .mmus] = true) hs_
  unfold execInvDone
  extract_lets -merge p flying ta n hit s1 _
  clear_value p flying ta n hit
  have k_s1 : Kept ws s₀ s1 := by
    unfold s1
    repeat' with_reducible first
      | assumption
      | intro _
      | apply Kept.after_next
      | apply Kept.ite
      | apply State.setMmu_kept q0
      | apply State.evt_kept q1
      | apply State.mbReply_kept q2
      | apply State.putBit_kept q3
      | apply State.rewalk_kept q4
      | apply Kept.foldl
      | split
      | extract_lets
  clear_value s1
  repeat' with_reducible first
    | assumption
    | intro _
    | apply Kept.after_next
    | apply Kept.ite
    | apply State.setMmu_kept q0
    | apply State.evt_kept q1
    | apply State.mbReply_kept q2
    | apply State.putBit_kept q3
    | apply State.rewalk_kept q4
    | apply Kept.foldl
    | split
    | extract_lets

theorem execFaultList_kept {ws : List Field} {s₀ s : State} (hs_ : Field.sub [.regs, .bar2, .out, .loads] ws = true) (t : Nat)
    (kh_ : Kept ws s₀ s) : Kept ws s₀ (after s (execFaultList t s)) := by
  unfold execFaultList
  repeat' with_reducible first
    | assumption
    | intro _
    | apply Kept.after_next
    | apply Kept.ite
    | apply State.mbServeFor_kept hs_
    | apply State.mbReply_kept hs_
    | apply Kept.foldl
    | split
    | extract_lets

theorem execResume_kept {ws : List Field} {s₀ s : State} (hs_ : Field.sub [.regs, .back, .bar2, .out, .ram, .hmem, .loads, .slotRings, .slates, .cancels, .tqs, .sched, .dqs, .cores, .cmbs, .engs, .mmus, .poison] ws = true) (t : Nat)
    (kh_ : Kept ws s₀ s) : Kept ws s₀ (after s (execResume t s)) := by
  have q0 := Field.sub_trans (by decide : Field.sub [.regs, .bar2, .out, .loads] [.regs, .back, .bar2, .out, .ram, .hmem, .loads, .slotRings, .slates, .cancels, .tqs, .sched, .dqs, .cores, .cmbs, .engs, .mmus, .poison] = true) hs_
  have q1 := Field.sub_trans (by decide : Field.sub [.regs, .back, .bar2, .out, .ram, .hmem, .slotRings, .slates, .cancels, .tqs, .sched, .dqs, .cores, .cmbs, .engs, .mmus, .poison] [.regs, .back, .bar2, .out, .ram, .hmem, .loads, .slotRings, .slates, .cancels, .tqs, .sched, .dqs, .cores, .cmbs, .engs, .mmus, .poison] = true) hs_
  unfold execResume
  repeat' with_reducible first
    | assumption
    | intro _
    | apply Kept.after_next
    | apply Kept.ite
    | apply State.mbServeFor_kept q0
    | apply State.mbReply_kept q0
    | apply State.resumeRec_kept q1
    | refine KeptO.of (State.resumeRec_kept q1 _ _ _ ?_) ‹_›
    | apply Kept.foldl
    | split
    | extract_lets

theorem State.showGran_kept {ws : List Field} {s₀ s : State} (hs_ : Field.sub [.regs] ws = true)
    (kh_ : Kept ws s₀ s) : Kept ws s₀ (State.showGran s) := by
  unfold State.showGran
  extract_lets -merge o
  clear_value o
  repeat' with_reducible first
    | assumption
    | intro _
    | apply Kept.ite
    | apply State.setNat_kept hs_
    | apply Kept.foldl
    | split
    | extract_lets

theorem execGranOwner_kept {ws : List Field} {s₀ s : State} (hs_ : Field.sub [.regs, .bar2, .out, .tenants, .sec, .grans, .granBusy] ws = true) (req : Nat) (val : Word)
    (kh_ : Kept ws s₀ s) : Kept ws s₀ (after s (execGranOwner req val s)) := by
  have q0 := Field.sub_trans (by decide : Field.sub [.regs, .bar2, .out] [.regs, .bar2, .out, .tenants, .sec, .grans, .granBusy] = true) hs_
  have q1 := Field.sub_trans (by decide : Field.sub [.regs, .tenants] [.regs, .bar2, .out, .tenants, .sec, .grans, .granBusy] = true) hs_
  have q2 := Field.sub_trans (by decide : Field.sub [.regs, .tenants, .sec] [.regs, .bar2, .out, .tenants, .sec, .grans, .granBusy] = true) hs_
  have q3 := Field.sub_trans (by decide : Field.sub [.regs] [.regs, .bar2, .out, .tenants, .sec, .grans, .granBusy] = true) hs_
  have q4 := Field.sub_trans (by decide : Field.sub [.grans] [.regs, .bar2, .out, .tenants, .sec, .grans, .granBusy] = true) hs_
  have q5 := Field.sub_trans (by decide : Field.sub [.granBusy] [.regs, .bar2, .out, .tenants, .sec, .grans, .granBusy] = true) hs_
  unfold execGranOwner
  repeat' with_reducible first
    | assumption
    | intro _
    | apply Kept.after_next
    | apply Kept.ite
    | apply State.asWrite_kept q0
    | apply State.memCheck_kept q1
    | apply State.reject_kept q0
    | apply State.needKey_kept q2
    | apply State.showGran_kept q3
    | apply Kept.foldl
    | split
    | extract_lets
    | apply Kept.set_grans_granBusy _ _ q4 q5

theorem execGranDone_kept {ws : List Field} {s₀ s : State} (hs_ : Field.sub [.regs, .bar2, .out, .ram, .granBusy, .poison] ws = true)
    (kh_ : Kept ws s₀ s) : Kept ws s₀ (after s (execGranDone s)) := by
  have q0 := Field.sub_trans (by decide : Field.sub [.regs, .bar2, .out] [.regs, .bar2, .out, .ram, .granBusy, .poison] = true) hs_
  have q1 := Field.sub_trans (by decide : Field.sub [.regs] [.regs, .bar2, .out, .ram, .granBusy, .poison] = true) hs_
  have q2 := Field.sub_trans (by decide : Field.sub [.ram] [.regs, .bar2, .out, .ram, .granBusy, .poison] = true) hs_
  have q3 := Field.sub_trans (by decide : Field.sub [.granBusy] [.regs, .bar2, .out, .ram, .granBusy, .poison] = true) hs_
  have q4 := Field.sub_trans (by decide : Field.sub [.poison] [.regs, .bar2, .out, .ram, .granBusy, .poison] = true) hs_
  unfold execGranDone
  repeat' with_reducible first
    | assumption
    | intro _
    | apply Kept.after_next
    | apply Kept.ite
    | apply State.evt_kept q0
    | apply State.showGran_kept q1
    | apply State.ramZero_kept q2
    | apply Kept.foldl
    | split
    | extract_lets
    | apply Kept.set_granBusy_poison _ _ q3 q4

theorem State.countCe_kept {ws : List Field} {s₀ s : State} (hs_ : Field.sub [.regs, .bar2, .out, .ces] ws = true) (site : Nat)
    (kh_ : Kept ws s₀ s) : Kept ws s₀ (State.countCe s site) := by
  have q0 := Field.sub_trans (by decide : Field.sub [.regs, .bar2, .out] [.regs, .bar2, .out, .ces] = true) hs_
  have q1 := Field.sub_trans (by decide : Field.sub [.ces] [.regs, .bar2, .out, .ces] = true) hs_
  unfold State.countCe
  extract_lets -merge h c n
  clear_value h c n
  repeat' with_reducible first
    | assumption
    | intro _
    | apply Kept.ite
    | apply State.evtIf_kept q0
    | apply Kept.foldl
    | split
    | extract_lets
    | apply Kept.set_ces _ q1

theorem execCorrectedError_kept {ws : List Field} {s₀ s : State} (hs_ : Field.sub [.regs, .bar2, .out, .ces] ws = true) (site kind unit : Nat)
    (kh_ : Kept ws s₀ s) : Kept ws s₀ (after s (execCorrectedError site kind unit s)) := by
  have q0 := Field.sub_trans (by decide : Field.sub [.regs] [.regs, .bar2, .out, .ces] = true) hs_
  unfold execCorrectedError
  repeat' with_reducible first
    | assumption
    | intro _
    | apply Kept.after_next
    | apply Kept.ite
    | apply State.countCe_kept hs_
    | apply State.addSat_kept q0
    | apply Kept.foldl
    | split
    | extract_lets

theorem State.poisonAt_kept {ws : List Field} {s₀ s : State} (hs_ : Field.sub [.poison] ws = true) (sp a : Nat)
    (kh_ : Kept ws s₀ s) : Kept ws s₀ (State.poisonAt s sp a) := by
  unfold State.poisonAt
  extract_lets -merge k
  clear_value k
  repeat' with_reducible first
    | assumption
    | intro _
    | apply Kept.ite
    | apply Kept.foldl
    | split
    | extract_lets
    | apply Kept.set_poison _ hs_

theorem State.flagUe_kept {ws : List Field} {s₀ s : State} (hs_ : Field.sub [.regs, .back, .bar2, .out, .ram, .hmem, .slotRings, .slates, .cancels, .tqs, .sched, .dqs, .cores, .cmbs, .engs, .mmus, .poison] ws = true) (site : Nat) (holds : Slate → GroupAt → Bool)
    (kh_ : Kept ws s₀ s) : Kept ws s₀ (State.flagUe s site holds) := by
  have q0 := Field.sub_trans (by decide : Field.sub [.regs] [.regs, .back, .bar2, .out, .ram, .hmem, .slotRings, .slates, .cancels, .tqs, .sched, .dqs, .cores, .cmbs, .engs, .mmus, .poison] = true) hs_
  unfold State.flagUe
  extract_lets -merge s1
  have k_s1 : Kept ws s₀ s1 := by
    unfold s1
    repeat' with_reducible first
      | assumption
      | intro _
      | apply Kept.ite
      | apply State.contained_kept hs_
      | apply State.faultRec_kept q0
      | apply Kept.foldl
      | split
      | extract_lets
  clear_value s1
  repeat' with_reducible first
    | assumption
    | intro _
    | apply Kept.ite
    | apply State.contained_kept hs_
    | apply State.faultRec_kept q0
    | apply Kept.foldl
    | split
    | extract_lets

theorem State.mbNotReady_kept {ws : List Field} {s₀ s : State} (hs_ : Field.sub [.regs, .bar2, .out, .loads, .slates, .mmus] ws = true) (t : Nat)
    (kh_ : Kept ws s₀ s) : Kept ws s₀ (State.mbNotReady s t) := by
  have q0 := Field.sub_trans (by decide : Field.sub [.mmus] [.regs, .bar2, .out, .loads, .slates, .mmus] = true) hs_
  have q1 := Field.sub_trans (by decide : Field.sub [.regs, .bar2, .out, .loads] [.regs, .bar2, .out, .loads, .slates, .mmus] = true) hs_
  have q2 := Field.sub_trans (by decide : Field.sub [.slates] [.regs, .bar2, .out, .loads, .slates, .mmus] = true) hs_
  unfold State.mbNotReady
  extract_lets -merge s1 s2
  have k_s1 : Kept ws s₀ s1 := by
    unfold s1
    repeat' with_reducible first
      | assumption
      | intro _
      | apply Kept.ite
      | apply State.setMmu_kept q0
      | apply State.mbReply_kept q1
      | apply Kept.foldl
      | split
      | extract_lets
      | apply Kept.set_slates _ q2
  clear_value s1
  have k_s2 : Kept ws s₀ s2 := by
    unfold s2
    repeat' with_reducible first
      | assumption
      | intro _
      | apply Kept.ite
      | apply State.setMmu_kept q0
      | apply State.mbReply_kept q1
      | apply Kept.foldl
      | split
      | extract_lets
      | apply Kept.set_slates _ q2
  clear_value s2
  repeat' with_reducible first
    | assumption
    | intro _
    | apply Kept.ite
    | apply State.setMmu_kept q0
    | apply State.mbReply_kept q1
    | apply Kept.foldl
    | split
    | extract_lets
    | apply Kept.set_slates _ q2

theorem State.coreRestart_kept {ws : List Field} {s₀ s : State} (hs_ : Field.sub [.regs, .bar2, .out, .slots, .groups, .loads, .restarts, .slates, .mmus, .free] ws = true) (site : Nat)
    (kh_ : Kept ws s₀ s) : Kept ws s₀ (State.coreRestart s site) := by
  have q0 := Field.sub_trans (by decide : Field.sub [.regs, .bar2, .out, .loads, .slates, .mmus] [.regs, .bar2, .out, .slots, .groups, .loads, .restarts, .slates, .mmus, .free] = true) hs_
  have q1 := Field.sub_trans (by decide : Field.sub [.regs, .bar2, .out] [.regs, .bar2, .out, .slots, .groups, .loads, .restarts, .slates, .mmus, .free] = true) hs_
  have q2 := Field.sub_trans (by decide : Field.sub [.regs, .bar2, .out, .slots, .groups] [.regs, .bar2, .out, .slots, .groups, .loads, .restarts, .slates, .mmus, .free] = true) hs_
  have q3 := Field.sub_trans (by decide : Field.sub [.restarts] [.regs, .bar2, .out, .slots, .groups, .loads, .restarts, .slates, .mmus, .free] = true) hs_
  have q4 := Field.sub_trans (by decide : Field.sub [.free] [.regs, .bar2, .out, .slots, .groups, .loads, .restarts, .slates, .mmus, .free] = true) hs_
  unfold State.coreRestart
  extract_lets -merge s1 s2 s3
  have k_s1 : Kept ws s₀ s1 := by
    unfold s1
    repeat' with_reducible first
      | assumption
      | intro _
      | apply Kept.ite
      | apply State.mbNotReady_kept q0
      | apply State.evt_kept q1
      | apply State.abortGroup_kept q2
      | apply Kept.foldl
      | split
      | extract_lets
      | apply Kept.set_restarts_free _ _ q3 q4
  clear_value s1
  have k_s2 : Kept ws s₀ s2 := by
    unfold s2
    repeat' with_reducible first
      | assumption
      | intro _
      | apply Kept.ite
      | apply State.mbNotReady_kept q0
      | apply State.evt_kept q1
      | apply State.abortGroup_kept q2
      | apply Kept.foldl
      | split
      | extract_lets
      | apply Kept.set_restarts_free _ _ q3 q4
  clear_value s2
  have k_s3 : Kept ws s₀ s3 := by
    unfold s3
    repeat' with_reducible first
      | assumption
      | intro _
      | apply Kept.ite
      | apply State.mbNotReady_kept q0
      | apply State.evt_kept q1
      | apply State.abortGroup_kept q2
      | apply Kept.foldl
      | split
      | extract_lets
      | apply Kept.set_restarts_free _ _ q3 q4
  clear_value s3
  repeat' with_reducible first
    | assumption
    | intro _
    | apply Kept.ite
    | apply State.mbNotReady_kept q0
    | apply State.evt_kept q1
    | apply State.abortGroup_kept q2
    | apply Kept.foldl
    | split
    | extract_lets
    | apply Kept.set_restarts_free _ _ q3 q4

theorem execUncorrectableError_kept {ws : List Field} {s₀ s : State} (hs_ : Field.sub [.regs, .latch, .back, .bar2, .out, .slots, .groups, .ports, .ram, .hmem, .loads, .restarts, .rings, .strms, .axes, .grps, .slotRings, .cueQs, .binFlags, .slates, .cancels, .tqs, .sched, .dqs, .cores, .cmbs, .engs, .mmus, .poison, .arbs, .capQs, .bndTaken, .free] ws = true) (site kind addr : Nat)
    (kh_ : Kept ws s₀ s) : Kept ws s₀ (after s (execUncorrectableError site kind addr s)) := by
  have q0 := Field.sub_trans (by decide : Field.sub [.regs, .bar2, .out, .slots, .groups, .loads, .restarts, .slates, .mmus, .free] [.regs, .latch, .back, .bar2, .out, .slots, .groups, .ports, .ram, .hmem, .loads, .restarts, .rings, .strms, .axes, .grps, .slotRings, .cueQs, .binFlags, .slates, .cancels, .tqs, .sched, .dqs, .cores, .cmbs, .engs, .mmus, .poison, .arbs, .capQs, .bndTaken, .free] = true) hs_
  have q1 := Field.sub_trans (by decide : Field.sub [.regs, .back, .bar2, .out, .ram, .hmem, .slotRings, .slates, .cancels, .tqs, .sched, .dqs, .cores, .cmbs, .engs, .mmus, .poison] [.regs, .latch, .back, .bar2, .out, .slots, .groups, .ports, .ram, .hmem, .loads, .restarts, .rings, .strms, .axes, .grps, .slotRings, .cueQs, .binFlags, .slates, .cancels, .tqs, .sched, .dqs, .cores, .cmbs, .engs, .mmus, .poison, .arbs, .capQs, .bndTaken, .free] = true) hs_
  have q2 := Field.sub_trans (by decide : Field.sub [.regs] [.regs, .latch, .back, .bar2, .out, .slots, .groups, .ports, .ram, .hmem, .loads, .restarts, .rings, .strms, .axes, .grps, .slotRings, .cueQs, .binFlags, .slates, .cancels, .tqs, .sched, .dqs, .cores, .cmbs, .engs, .mmus, .poison, .arbs, .capQs, .bndTaken, .free] = true) hs_
  have q3 := Field.sub_trans (by decide : Field.sub [.poison] [.regs, .latch, .back, .bar2, .out, .slots, .groups, .ports, .ram, .hmem, .loads, .restarts, .rings, .strms, .axes, .grps, .slotRings, .cueQs, .binFlags, .slates, .cancels, .tqs, .sched, .dqs, .cores, .cmbs, .engs, .mmus, .poison, .arbs, .capQs, .bndTaken, .free] = true) hs_
  have q4 := Field.sub_trans (by decide : Field.sub [.regs, .latch, .back, .bar2, .out, .slots, .groups, .ports, .ram, .hmem, .loads, .rings, .strms, .axes, .grps, .slotRings, .cueQs, .binFlags, .slates, .cancels, .tqs, .sched, .dqs, .cores, .cmbs, .engs, .mmus, .poison, .arbs, .capQs, .bndTaken] [.regs, .latch, .back, .bar2, .out, .slots, .groups, .ports, .ram, .hmem, .loads, .restarts, .rings, .strms, .axes, .grps, .slotRings, .cueQs, .binFlags, .slates, .cancels, .tqs, .sched, .dqs, .cores, .cmbs, .engs, .mmus, .poison, .arbs, .capQs, .bndTaken, .free] = true) hs_
  unfold execUncorrectableError
  repeat' with_reducible first
    | assumption
    | intro _
    | apply Kept.after_next
    | apply Kept.ite
    | apply State.coreRestart_kept q0
    | apply State.flagUe_kept q1
    | apply State.faultRec_kept q2
    | apply State.poisonAt_kept q3
    | apply State.dieFatal_kept q4
    | apply State.addSat_kept q2
    | apply Kept.foldl
    | split
    | extract_lets

theorem execScrub_kept {ws : List Field} {s₀ s : State} (hs_ : Field.sub [.regs, .bar2, .out, .poison, .ces, .scrubs] ws = true) (site ctl result : Nat)
    (kh_ : Kept ws s₀ s) : Kept ws s₀ (after s (execScrub site ctl result s)) := by
  have q0 := Field.sub_trans (by decide : Field.sub [.poison] [.regs, .bar2, .out, .poison, .ces, .scrubs] = true) hs_
  have q1 := Field.sub_trans (by decide : Field.sub [.regs, .bar2, .out, .ces] [.regs, .bar2, .out, .poison, .ces, .scrubs] = true) hs_
  have q2 := Field.sub_trans (by decide : Field.sub [.regs] [.regs, .bar2, .out, .poison, .ces, .scrubs] = true) hs_
  have q3 := Field.sub_trans (by decide : Field.sub [.scrubs] [.regs, .bar2, .out, .poison, .ces, .scrubs] = true) hs_
  unfold execScrub
  extract_lets -merge i p s1 last j s2
  clear_value i p last j
  have k_s1 : Kept ws s₀ s1 := by
    unfold s1
    repeat' with_reducible first
      | assumption
      | intro _
      | apply Kept.after_next
      | apply Kept.ite
      | apply State.poisonAt_kept q0
      | apply State.countCe_kept q1
      | apply State.setNat_kept q2
      | apply State.addSat_kept q2
      | apply Kept.foldl
      | split
      | extract_lets
      | apply Kept.set_scrubs _ q3
  clear_value s1
  have k_s2 : Kept ws s₀ s2 := by
    unfold s2
    repeat' with_reducible first
      | assumption
      | intro _
      | apply Kept.after_next
      | apply Kept.ite
      | apply State.poisonAt_kept q0
      | apply State.countCe_kept q1
      | apply State.setNat_kept q2
      | apply State.addSat_kept q2
      | apply Kept.foldl
      | split
      | extract_lets
      | apply Kept.set_scrubs _ q3
  clear_value s2
  repeat' with_reducible first
    | assumption
    | intro _
    | apply Kept.after_next
    | apply Kept.ite
    | apply State.poisonAt_kept q0
    | apply State.countCe_kept q1
    | apply State.setNat_kept q2
    | apply State.addSat_kept q2
    | apply Kept.foldl
    | split
    | extract_lets
    | apply Kept.set_scrubs _ q3

theorem execDieFatalError_kept {ws : List Field} {s₀ s : State} (hs_ : Field.sub [.regs, .latch, .back, .bar2, .out, .slots, .groups, .ports, .ram, .hmem, .loads, .rings, .strms, .axes, .grps, .slotRings, .cueQs, .binFlags, .slates, .cancels, .tqs, .sched, .dqs, .cores, .cmbs, .engs, .mmus, .poison, .arbs, .capQs, .bndTaken] ws = true) (site _code : Nat)
    (kh_ : Kept ws s₀ s) : Kept ws s₀ (after s (execDieFatalError site _code s)) := by
  unfold execDieFatalError
  repeat' with_reducible first
    | assumption
    | intro _
    | apply Kept.after_next
    | apply Kept.ite
    | apply State.dieFatal_kept hs_
    | apply Kept.foldl
    | split
    | extract_lets

theorem execPkgFatal_kept {ws : List Field} {s₀ s : State} (hs_ : Field.sub [.regs, .back, .bar2, .out, .ram, .hmem, .mute, .rings, .strms, .axes, .grps, .slotRings, .cancels, .tqs, .sched, .dqs, .cores, .cmbs, .engs, .mmus, .poison, .free] ws = true) (code : Nat)
    (kh_ : Kept ws s₀ s) : Kept ws s₀ (after s (execPkgFatal code s)) := by
  unfold execPkgFatal
  repeat' with_reducible first
    | assumption
    | intro _
    | apply Kept.after_next
    | apply Kept.ite
    | apply State.pkgFatal_kept hs_
    | apply Kept.foldl
    | split
    | extract_lets

theorem execLinkReplay_kept {ws : List Field} {s₀ s : State} (hs_ : Field.sub [.regs, .back, .bar2, .out, .ram, .hmem, .mute, .rings, .strms, .axes, .grps, .slotRings, .cancels, .tqs, .sched, .dqs, .cores, .cmbs, .engs, .mmus, .poison, .free] ws = true) (site n : Nat)
    (kh_ : Kept ws s₀ s) : Kept ws s₀ (after s (execLinkReplay site n s)) := by
  have q0 := Field.sub_trans (by decide : Field.sub [.regs] [.regs, .back, .bar2, .out, .ram, .hmem, .mute, .rings, .strms, .axes, .grps, .slotRings, .cancels, .tqs, .sched, .dqs, .cores, .cmbs, .engs, .mmus, .poison, .free] = true) hs_
  unfold execLinkReplay
  repeat' with_reducible first
    | assumption
    | intro _
    | apply Kept.after_next
    | apply Kept.ite
    | apply State.pkgFatal_kept hs_
    | apply State.addSat_kept q0
    | apply Kept.foldl
    | split
    | extract_lets

end Sys2Proof.Machine
end

