-- ==== Sys2Proof/Laws/KMonOps.lean ====
section
/-!
SUPPORT. Laws/KMonOps.lean: what each operation of Machine/MonOps.lean may change, and that it keeps the canonical form.
-/
namespace Sys2Proof.Machine

theorem State.setMon_kept {ws : List Field} {s₀ s : State} (hs_ : Field.sub [.mons] ws = true) (site : Nat) (x : Mon)
    (kh_ : Kept ws s₀ s) : Kept ws s₀ (State.setMon s site x) := by
  unfold State.setMon
  repeat' with_reducible first
    | assumption
    | intro _
    | apply Kept.ite
    | apply Kept.foldl
    | split
    | extract_lets
    | apply Kept.set_mons _ hs_

end Sys2Proof.Machine
end

