-- ==== Sys2Proof/Laws/KMonitor.lean ====
section
/-!
SUPPORT. Laws/KMonitor.lean: what each operation of Machine/Monitor.lean may change, and that it keeps the canonical form.
-/
namespace Sys2Proof.Machine

theorem State.showMon_kept {ws : List Field} {s₀ s : State} (hs_ : Field.sub [.regs] ws = true) (site : Nat)
    (kh_ : Kept ws s₀ s) : Kept ws s₀ (State.showMon s site) := by
  unfold State.showMon
  extract_lets -merge p m s1 s2
  clear_value p m
  have k_s1 : Kept ws s₀ s1 := by
    unfold s1
    repeat' with_reducible first
      | assumption
      | intro _
      | apply Kept.ite
      | apply State.setNat_kept hs_
      | apply Kept.foldl
      | split
      | extract_lets
  clear_value s1
  have k_s2 : Kept ws s₀ s2 := by
    unfold s2
    repeat' with_reducible first
      | assumption
      | intro _
      | apply Kept.ite
      | apply State.setNat_kept hs_
      | apply Kept.foldl
      | split
      | extract_lets
  clear_value s2
  repeat' with_reducible first
    | assumption
    | intro _
    | apply Kept.ite
    | apply State.setNat_kept hs_
    | apply Kept.foldl
    | split
    | extract_lets

theorem State.pairOff_kept {ws : List Field} {s₀ s : State} (hs_ : Field.sub [.regs, .bar2, .out, .mons, .axes] ws = true) (site n : Nat) (gates : List Nat)
    (kh_ : Kept ws s₀ s) : Kept ws s₀ (State.pairOff s site n gates) := by
  have q0 := Field.sub_trans (by decide : Field.sub [.regs, .bar2, .out, .axes] [.regs, .bar2, .out, .mons, .axes] = true) hs_
  have q1 := Field.sub_trans (by decide : Field.sub [.regs, .bar2, .out] [.regs, .bar2, .out, .mons, .axes] = true) hs_
  have q2 := Field.sub_trans (by decide : Field.sub [.mons] [.regs, .bar2, .out, .mons, .axes] = true) hs_
  unfold State.pairOff
  extract_lets -merge m x was gs s1
  clear_value m x was gs
  have k_s1 : Kept ws s₀ s1 := by
    unfold s1
    repeat' with_reducible first
      | assumption
      | intro _
      | apply Kept.ite
      | apply State.lockGateAxes_kept q0
      | apply State.evtIf_kept q1
      | apply State.setMon_kept q2
      | apply Kept.foldl
      | split
      | extract_lets
  clear_value s1
  repeat' with_reducible first
    | assumption
    | intro _
    | apply Kept.ite
    | apply State.lockGateAxes_kept q0
    | apply State.evtIf_kept q1
    | apply State.setMon_kept q2
    | apply Kept.foldl
    | split
    | extract_lets

theorem State.pairStop_kept {ws : List Field} {s₀ s : State} (hs_ : Field.sub [.regs, .bar2, .out, .mons, .ram, .hmem, .rings, .strms, .axes, .grps, .slotRings, .cueQs, .binFlags, .slates, .cancels, .dqs, .cores, .cmbs, .engs, .poison] ws = true) (site n : Nat) (cat1 : Bool) (stopMs g : Nat)
    (kh_ : Kept ws s₀ s) : Kept ws s₀ (State.pairStop s site n cat1 stopMs g) := by
  have q0 := Field.sub_trans (by decide : Field.sub [.regs, .bar2, .out, .ram, .hmem, .rings, .strms, .axes, .grps, .slotRings, .cueQs, .binFlags, .slates, .cancels, .dqs, .cores, .cmbs, .engs, .poison] [.regs, .bar2, .out, .mons, .ram, .hmem, .rings, .strms, .axes, .grps, .slotRings, .cueQs, .binFlags, .slates, .cancels, .dqs, .cores, .cmbs, .engs, .poison] = true) hs_
  have q1 := Field.sub_trans (by decide : Field.sub [.regs, .bar2, .out, .mons, .axes] [.regs, .bar2, .out, .mons, .ram, .hmem, .rings, .strms, .axes, .grps, .slotRings, .cueQs, .binFlags, .slates, .cancels, .dqs, .cores, .cmbs, .engs, .poison] = true) hs_
  have q2 := Field.sub_trans (by decide : Field.sub [.mons] [.regs, .bar2, .out, .mons, .ram, .hmem, .rings, .strms, .axes, .grps, .slotRings, .cueQs, .binFlags, .slates, .cancels, .dqs, .cores, .cmbs, .engs, .poison] = true) hs_
  unfold State.pairStop
  extract_lets -merge s1
  have k_s1 : Kept ws s₀ s1 := by
    unfold s1
    repeat' with_reducible first
      | assumption
      | intro _
      | apply Kept.ite
      | apply State.groupStop_kept q0
      | apply State.pairOff_kept q1
      | apply State.setMon_kept q2
      | apply Kept.foldl
      | split
      | extract_lets
  clear_value s1
  repeat' with_reducible first
    | assumption
    | intro _
    | apply Kept.ite
    | apply State.groupStop_kept q0
    | apply State.pairOff_kept q1
    | apply State.setMon_kept q2
    | apply Kept.foldl
    | split
    | extract_lets

theorem State.entryReact_kept {ws : List Field} {s₀ s : State} (hs_ : Field.sub [.regs, .bar2, .out, .mons, .ram, .hmem, .rings, .strms, .axes, .grps, .slotRings, .cueQs, .binFlags, .slates, .cancels, .dqs, .cores, .cmbs, .engs, .poison] ws = true) (site e : Nat)
    (kh_ : Kept ws s₀ s) : Kept ws s₀ (State.entryReact s site e) := by
  have q0 := Field.sub_trans (by decide : Field.sub [.regs, .bar2, .out] [.regs, .bar2, .out, .mons, .ram, .hmem, .rings, .strms, .axes, .grps, .slotRings, .cueQs, .binFlags, .slates, .cancels, .dqs, .cores, .cmbs, .engs, .poison] = true) hs_
  have q1 := Field.sub_trans (by decide : Field.sub [.mons] [.regs, .bar2, .out, .mons, .ram, .hmem, .rings, .strms, .axes, .grps, .slotRings, .cueQs, .binFlags, .slates, .cancels, .dqs, .cores, .cmbs, .engs, .poison] = true) hs_
  unfold State.entryReact
  extract_lets -merge m
  clear_value m
  repeat' with_reducible first
    | assumption
    | intro _
    | apply Kept.ite
    | apply State.evt_kept q0
    | apply State.pairStop_kept hs_
    | apply State.setMon_kept q1
    | apply Kept.foldl
    | split
    | extract_lets

theorem State.heatReact_kept {ws : List Field} {s₀ s : State} (hs_ : Field.sub [.regs, .bar2, .out, .mons, .ram, .hmem, .rings, .strms, .axes, .grps, .slotRings, .cueQs, .binFlags, .slates, .cancels, .dqs, .cores, .cmbs, .engs, .poison] ws = true) (site : Nat)
    (kh_ : Kept ws s₀ s) : Kept ws s₀ (State.heatReact s site) := by
  have q0 := Field.sub_trans (by decide : Field.sub [.regs, .bar2, .out, .mons, .axes] [.regs, .bar2, .out, .mons, .ram, .hmem, .rings, .strms, .axes, .grps, .slotRings, .cueQs, .binFlags, .slates, .cancels, .dqs, .cores, .cmbs, .engs, .poison] = true) hs_
  unfold State.heatReact
  extract_lets -merge m
  clear_value m
  repeat' with_reducible first
    | assumption
    | intro _
    | apply Kept.ite
    | apply State.pairStop_kept hs_
    | apply State.pairOff_kept q0
    | apply Kept.foldl
    | split
    | extract_lets

theorem State.allPairsOff_kept {ws : List Field} {s₀ s : State} (hs_ : Field.sub [.regs, .bar2, .out, .mons, .ram, .hmem, .rings, .strms, .axes, .grps, .slotRings, .cueQs, .binFlags, .slates, .cancels, .dqs, .cores, .cmbs, .engs, .poison] ws = true) (site : Nat)
    (kh_ : Kept ws s₀ s) : Kept ws s₀ (State.allPairsOff s site) := by
  have q0 := Field.sub_trans (by decide : Field.sub [.regs, .bar2, .out, .ram, .hmem, .rings, .strms, .axes, .grps, .slotRings, .cueQs, .binFlags, .slates, .cancels, .dqs, .cores, .cmbs, .engs, .poison] [.regs, .bar2, .out, .mons, .ram, .hmem, .rings, .strms, .axes, .grps, .slotRings, .cueQs, .binFlags, .slates, .cancels, .dqs, .cores, .cmbs, .engs, .poison] = true) hs_
  have q1 := Field.sub_trans (by decide : Field.sub [.regs, .bar2, .out, .mons, .axes] [.regs, .bar2, .out, .mons, .ram, .hmem, .rings, .strms, .axes, .grps, .slotRings, .cueQs, .binFlags, .slates, .cancels, .dqs, .cores, .cmbs, .engs, .poison] = true) hs_
  unfold State.allPairsOff
  repeat' with_reducible first
    | assumption
    | intro _
    | apply Kept.ite
    | apply State.groupStop_kept q0
    | apply State.pairOff_kept q1
    | apply Kept.foldl
    | split
    | extract_lets

theorem State.monTrack_kept {ws : List Field} {s₀ s : State} (hs_ : Field.sub [.mons] ws = true) (site : Nat)
    (kh_ : Kept ws s₀ s) : Kept ws s₀ (State.monTrack s site) := by
  unfold State.monTrack
  extract_lets -merge m
  clear_value m
  repeat' with_reducible first
    | assumption
    | intro _
    | apply Kept.ite
    | apply State.setMon_kept hs_
    | apply Kept.foldl
    | split
    | extract_lets

theorem execGuardDemand_kept {ws : List Field} {s₀ s : State} (hs_ : Field.sub [.regs, .bar2, .out, .mons, .ram, .hmem, .rings, .strms, .axes, .grps, .slotRings, .cueQs, .binFlags, .slates, .cancels, .dqs, .cores, .cmbs, .engs, .poison] ws = true) (site : Nat) (src : DemandSource)
    (kh_ : Kept ws s₀ s) : Kept ws s₀ (after s (execGuardDemand site src s)) := by
  have q0 := Field.sub_trans (by decide : Field.sub [.regs, .bar2, .out] [.regs, .bar2, .out, .mons, .ram, .hmem, .rings, .strms, .axes, .grps, .slotRings, .cueQs, .binFlags, .slates, .cancels, .dqs, .cores, .cmbs, .engs, .poison] = true) hs_
  have q1 := Field.sub_trans (by decide : Field.sub [.mons] [.regs, .bar2, .out, .mons, .ram, .hmem, .rings, .strms, .axes, .grps, .slotRings, .cueQs, .binFlags, .slates, .cancels, .dqs, .cores, .cmbs, .engs, .poison] = true) hs_
  have q2 := Field.sub_trans (by decide : Field.sub [.regs] [.regs, .bar2, .out, .mons, .ram, .hmem, .rings, .strms, .axes, .grps, .slotRings, .cueQs, .binFlags, .slates, .cancels, .dqs, .cores, .cmbs, .engs, .poison] = true) hs_
  unfold execGuardDemand
  extract_lets -merge s1 _ _
  have k_s1 : Kept ws s₀ s1 := by
    unfold s1
    repeat' with_reducible first
      | assumption
      | intro _
      | apply Kept.after_next
      | apply Kept.ite
      | apply State.evt_kept q0
      | apply State.monTrack_kept q1
      | apply State.allPairsOff_kept hs_
      | apply State.heatReact_kept hs_
      | apply State.entryReact_kept hs_
      | apply State.showMon_kept q2
      | apply State.putFld_kept q2
      | apply State.setMon_kept q1
      | apply Kept.foldl
      | split
      | extract_lets
  clear_value s1
  repeat' with_reducible first
    | assumption
    | intro _
    | apply Kept.after_next
    | apply Kept.ite
    | apply State.evt_kept q0
    | apply State.monTrack_kept q1
    | apply State.allPairsOff_kept hs_
    | apply State.heatReact_kept hs_
    | apply State.entryReact_kept hs_
    | apply State.showMon_kept q2
    | apply State.putFld_kept q2
    | apply State.setMon_kept q1
    | apply Kept.foldl
    | split
    | extract_lets

theorem execMotionWindow_kept {ws : List Field} {s₀ s : State} (hs_ : Field.sub [.regs, .bar2, .out, .mons, .ram, .hmem, .rings, .strms, .axes, .grps, .slotRings, .cueQs, .binFlags, .slates, .cancels, .dqs, .cores, .cmbs, .engs, .poison] ws = true) (site : Nat)
    (kh_ : Kept ws s₀ s) : Kept ws s₀ (after s (execMotionWindow site s)) := by
  have q0 := Field.sub_trans (by decide : Field.sub [.regs] [.regs, .bar2, .out, .mons, .ram, .hmem, .rings, .strms, .axes, .grps, .slotRings, .cueQs, .binFlags, .slates, .cancels, .dqs, .cores, .cmbs, .engs, .poison] = true) hs_
  have q1 := Field.sub_trans (by decide : Field.sub [.mons] [.regs, .bar2, .out, .mons, .ram, .hmem, .rings, .strms, .axes, .grps, .slotRings, .cueQs, .binFlags, .slates, .cancels, .dqs, .cores, .cmbs, .engs, .poison] = true) hs_
  unfold execMotionWindow
  repeat' with_reducible first
    | assumption
    | intro _
    | apply Kept.after_next
    | apply Kept.ite
    | apply State.entryReact_kept hs_
    | apply State.showMon_kept q0
    | apply State.setMon_kept q1
    | apply Kept.foldl
    | split
    | extract_lets

theorem execInputFault_kept {ws : List Field} {s₀ s : State} (hs_ : Field.sub [.regs, .bar2, .out, .mons, .ram, .hmem, .rings, .strms, .axes, .grps, .slotRings, .cueQs, .binFlags, .slates, .cancels, .dqs, .cores, .cmbs, .engs, .poison] ws = true) (site e : Nat)
    (kh_ : Kept ws s₀ s) : Kept ws s₀ (after s (execInputFault site e s)) := by
  have q0 := Field.sub_trans (by decide : Field.sub [.regs, .bar2, .out] [.regs, .bar2, .out, .mons, .ram, .hmem, .rings, .strms, .axes, .grps, .slotRings, .cueQs, .binFlags, .slates, .cancels, .dqs, .cores, .cmbs, .engs, .poison] = true) hs_
  have q1 := Field.sub_trans (by decide : Field.sub [.regs] [.regs, .bar2, .out, .mons, .ram, .hmem, .rings, .strms, .axes, .grps, .slotRings, .cueQs, .binFlags, .slates, .cancels, .dqs, .cores, .cmbs, .engs, .poison] = true) hs_
  have q2 := Field.sub_trans (by decide : Field.sub [.mons] [.regs, .bar2, .out, .mons, .ram, .hmem, .rings, .strms, .axes, .grps, .slotRings, .cueQs, .binFlags, .slates, .cancels, .dqs, .cores, .cmbs, .engs, .poison] = true) hs_
  unfold execInputFault
  extract_lets -merge m g
  clear_value m g
  repeat' with_reducible first
    | assumption
    | intro _
    | apply Kept.after_next
    | apply Kept.ite
    | apply State.evt_kept q0
    | apply State.entryReact_kept hs_
    | apply State.showMon_kept q1
    | apply State.setMon_kept q2
    | apply Kept.foldl
    | split
    | extract_lets

theorem execInputFaultClear_kept {ws : List Field} {s₀ s : State} (hs_ : Field.sub [.regs, .mons] ws = true) (site e : Nat)
    (kh_ : Kept ws s₀ s) : Kept ws s₀ (after s (execInputFaultClear site e s)) := by
  have q0 := Field.sub_trans (by decide : Field.sub [.regs] [.regs, .mons] = true) hs_
  have q1 := Field.sub_trans (by decide : Field.sub [.mons] [.regs, .mons] = true) hs_
  unfold execInputFaultClear
  extract_lets -merge m g
  clear_value m g
  repeat' with_reducible first
    | assumption
    | intro _
    | apply Kept.after_next
    | apply Kept.ite
    | apply State.showMon_kept q0
    | apply State.setMon_kept q1
    | apply Kept.foldl
    | split
    | extract_lets

theorem execStopMsExpire_kept {ws : List Field} {s₀ s : State} (hs_ : Field.sub [.regs, .bar2, .out, .mons, .axes] ws = true) (site n : Nat)
    (kh_ : Kept ws s₀ s) : Kept ws s₀ (after s (execStopMsExpire site n s)) := by
  have q0 := Field.sub_trans (by decide : Field.sub [.regs] [.regs, .bar2, .out, .mons, .axes] = true) hs_
  unfold execStopMsExpire
  extract_lets -merge x
  clear_value x
  repeat' with_reducible first
    | assumption
    | intro _
    | apply Kept.after_next
    | apply Kept.ite
    | apply State.pairOff_kept hs_
    | apply State.showMon_kept q0
    | apply Kept.foldl
    | split
    | extract_lets

theorem State.monReset_kept {ws : List Field} {s₀ s : State} (hs_ : Field.sub [.regs, .bar2, .out, .mons] ws = true) (site : Nat)
    (kh_ : Kept ws s₀ s) : Kept ws s₀ (State.monReset s site) := by
  have q0 := Field.sub_trans (by decide : Field.sub [.regs, .bar2, .out] [.regs, .bar2, .out, .mons] = true) hs_
  have q1 := Field.sub_trans (by decide : Field.sub [.regs] [.regs, .bar2, .out, .mons] = true) hs_
  have q2 := Field.sub_trans (by decide : Field.sub [.mons] [.regs, .bar2, .out, .mons] = true) hs_
  unfold State.monReset
  extract_lets -merge m gates s1 s2 s3
  clear_value m gates
  have k_s1 : Kept ws s₀ s1 := by
    unfold s1
    repeat' with_reducible first
      | assumption
      | intro _
      | apply Kept.ite
      | apply State.unlockFieldPages_kept q0
      | apply State.unlockGateAxes_kept q0
      | apply State.evtIf_kept q0
      | apply State.showMon_kept q1
      | apply State.setMon_kept q2
      | apply Kept.foldl
      | split
      | extract_lets
  clear_value s1
  have k_s2 : Kept ws s₀ s2 := by
    unfold s2
    repeat' with_reducible first
      | assumption
      | intro _
      | apply Kept.ite
      | apply State.unlockFieldPages_kept q0
      | apply State.unlockGateAxes_kept q0
      | apply State.evtIf_kept q0
      | apply State.showMon_kept q1
      | apply State.setMon_kept q2
      | apply Kept.foldl
      | split
      | extract_lets
  clear_value s2
  have k_s3 : Kept ws s₀ s3 := by
    unfold s3
    repeat' with_reducible first
      | assumption
      | intro _
      | apply Kept.ite
      | apply State.unlockFieldPages_kept q0
      | apply State.unlockGateAxes_kept q0
      | apply State.evtIf_kept q0
      | apply State.showMon_kept q1
      | apply State.setMon_kept q2
      | apply Kept.foldl
      | split
      | extract_lets
  clear_value s3
  repeat' with_reducible first
    | assumption
    | intro _
    | apply Kept.ite
    | apply State.unlockFieldPages_kept q0
    | apply State.unlockGateAxes_kept q0
    | apply State.evtIf_kept q0
    | apply State.showMon_kept q1
    | apply State.setMon_kept q2
    | apply Kept.foldl
    | split
    | extract_lets

theorem execResetIn_kept {ws : List Field} {s₀ s : State} (hs_ : Field.sub [.regs, .bar2, .out, .mons] ws = true) (site ms : Nat)
    (kh_ : Kept ws s₀ s) : Kept ws s₀ (after s (execResetIn site ms s)) := by
  have q0 := Field.sub_trans (by decide : Field.sub [.regs, .bar2, .out] [.regs, .bar2, .out, .mons] = true) hs_
  unfold execResetIn
  repeat' with_reducible first
    | assumption
    | intro _
    | apply Kept.after_next
    | apply Kept.ite
    | apply State.monReset_kept hs_
    | apply State.evt_kept q0
    | apply Kept.foldl
    | split
    | extract_lets

theorem State.readbackFault_kept {ws : List Field} {s₀ s : State} (hs_ : Field.sub [.regs, .bar2, .out, .mons, .ram, .hmem, .rings, .strms, .axes, .grps, .slotRings, .cueQs, .binFlags, .slates, .cancels, .dqs, .cores, .cmbs, .engs, .poison] ws = true) (site n : Nat) (crossA crossB : Bool)
    (kh_ : Kept ws s₀ s) : Kept ws s₀ (State.readbackFault s site n crossA crossB) := by
  have q0 := Field.sub_trans (by decide : Field.sub [.regs, .bar2, .out] [.regs, .bar2, .out, .mons, .ram, .hmem, .rings, .strms, .axes, .grps, .slotRings, .cueQs, .binFlags, .slates, .cancels, .dqs, .cores, .cmbs, .engs, .poison] = true) hs_
  have q1 := Field.sub_trans (by decide : Field.sub [.regs, .bar2, .out, .ram, .hmem, .rings, .strms, .axes, .grps, .slotRings, .cueQs, .binFlags, .slates, .cancels, .dqs, .cores, .cmbs, .engs, .poison] [.regs, .bar2, .out, .mons, .ram, .hmem, .rings, .strms, .axes, .grps, .slotRings, .cueQs, .binFlags, .slates, .cancels, .dqs, .cores, .cmbs, .engs, .poison] = true) hs_
  have q2 := Field.sub_trans (by decide : Field.sub [.regs, .bar2, .out, .mons, .axes] [.regs, .bar2, .out, .mons, .ram, .hmem, .rings, .strms, .axes, .grps, .slotRings, .cueQs, .binFlags, .slates, .cancels, .dqs, .cores, .cmbs, .engs, .poison] = true) hs_
  have q3 := Field.sub_trans (by decide : Field.sub [.regs] [.regs, .bar2, .out, .mons, .ram, .hmem, .rings, .strms, .axes, .grps, .slotRings, .cueQs, .binFlags, .slates, .cancels, .dqs, .cores, .cmbs, .engs, .poison] = true) hs_
  have q4 := Field.sub_trans (by decide : Field.sub [.mons] [.regs, .bar2, .out, .mons, .ram, .hmem, .rings, .strms, .axes, .grps, .slotRings, .cueQs, .binFlags, .slates, .cancels, .dqs, .cores, .cmbs, .engs, .poison] = true) hs_
  unfold State.readbackFault
  extract_lets -merge gates s1 m x
  clear_value gates m x
  have k_s1 : Kept ws s₀ s1 := by
    unfold s1
    repeat' with_reducible first
      | assumption
      | intro _
      | apply Kept.ite
      | apply State.evt_kept q0
      | apply State.groupStop_kept q1
      | apply State.pairOff_kept q2
      | apply State.showMon_kept q3
      | apply State.setMon_kept q4
      | apply Kept.foldl
      | split
      | extract_lets
  clear_value s1
  repeat' with_reducible first
    | assumption
    | intro _
    | apply Kept.ite
    | apply State.evt_kept q0
    | apply State.groupStop_kept q1
    | apply State.pairOff_kept q2
    | apply State.showMon_kept q3
    | apply State.setMon_kept q4
    | apply Kept.foldl
    | split
    | extract_lets

theorem execTestPulse_kept {ws : List Field} {s₀ s : State} (hs_ : Field.sub [.regs, .bar2, .out, .mons, .ram, .hmem, .rings, .strms, .axes, .grps, .slotRings, .cueQs, .binFlags, .slates, .cancels, .dqs, .cores, .cmbs, .engs, .poison] ws = true) (site n : Nat) (outB ok : Bool)
    (kh_ : Kept ws s₀ s) : Kept ws s₀ (after s (execTestPulse site n outB ok s)) := by
  have q0 := Field.sub_trans (by decide : Field.sub [.mons] [.regs, .bar2, .out, .mons, .ram, .hmem, .rings, .strms, .axes, .grps, .slotRings, .cueQs, .binFlags, .slates, .cancels, .dqs, .cores, .cmbs, .engs, .poison] = true) hs_
  unfold execTestPulse
  extract_lets -merge m x off
  clear_value m x off
  repeat' with_reducible first
    | assumption
    | intro _
    | apply Kept.after_next
    | apply Kept.ite
    | apply State.readbackFault_kept hs_
    | apply State.setMon_kept q0
    | apply Kept.foldl
    | split
    | extract_lets

theorem execSsoCurrentLimit_kept {ws : List Field} {s₀ s : State} (hs_ : Field.sub [.regs, .bar2, .out, .mons, .ram, .hmem, .rings, .strms, .axes, .grps, .slotRings, .cueQs, .binFlags, .slates, .cancels, .dqs, .cores, .cmbs, .engs, .poison] ws = true) (site n : Nat) (_outB : Bool)
    (kh_ : Kept ws s₀ s) : Kept ws s₀ (after s (execSsoCurrentLimit site n _outB s)) := by
  unfold execSsoCurrentLimit
  repeat' with_reducible first
    | assumption
    | intro _
    | apply Kept.after_next
    | apply Kept.ite
    | apply State.readbackFault_kept hs_
    | apply Kept.foldl
    | split
    | extract_lets

theorem State.monFault_kept {ws : List Field} {s₀ s : State} (hs_ : Field.sub [.regs, .bar2, .out, .meters, .calibs, .mons, .ram, .hmem, .rings, .strms, .axes, .grps, .slotRings, .cueQs, .binFlags, .slates, .cancels, .dqs, .cores, .cmbs, .engs, .poison] ws = true) (site code : Nat)
    (kh_ : Kept ws s₀ s) : Kept ws s₀ (State.monFault s site code) := by
  have q0 := Field.sub_trans (by decide : Field.sub [.regs, .bar2, .out, .meters, .calibs, .axes] [.regs, .bar2, .out, .meters, .calibs, .mons, .ram, .hmem, .rings, .strms, .axes, .grps, .slotRings, .cueQs, .binFlags, .slates, .cancels, .dqs, .cores, .cmbs, .engs, .poison] = true) hs_
  have q1 := Field.sub_trans (by decide : Field.sub [.regs] [.regs, .bar2, .out, .meters, .calibs, .mons, .ram, .hmem, .rings, .strms, .axes, .grps, .slotRings, .cueQs, .binFlags, .slates, .cancels, .dqs, .cores, .cmbs, .engs, .poison] = true) hs_
  have q2 := Field.sub_trans (by decide : Field.sub [.regs, .bar2, .out] [.regs, .bar2, .out, .meters, .calibs, .mons, .ram, .hmem, .rings, .strms, .axes, .grps, .slotRings, .cueQs, .binFlags, .slates, .cancels, .dqs, .cores, .cmbs, .engs, .poison] = true) hs_
  have q3 := Field.sub_trans (by decide : Field.sub [.regs, .bar2, .out, .mons, .ram, .hmem, .rings, .strms, .axes, .grps, .slotRings, .cueQs, .binFlags, .slates, .cancels, .dqs, .cores, .cmbs, .engs, .poison] [.regs, .bar2, .out, .meters, .calibs, .mons, .ram, .hmem, .rings, .strms, .axes, .grps, .slotRings, .cueQs, .binFlags, .slates, .cancels, .dqs, .cores, .cmbs, .engs, .poison] = true) hs_
  have q4 := Field.sub_trans (by decide : Field.sub [.mons] [.regs, .bar2, .out, .meters, .calibs, .mons, .ram, .hmem, .rings, .strms, .axes, .grps, .slotRings, .cueQs, .binFlags, .slates, .cancels, .dqs, .cores, .cmbs, .engs, .poison] = true) hs_
  unfold State.monFault
  extract_lets -merge s1 _ s2
  have k_s1 : Kept ws s₀ s1 := by
    unfold s1
    repeat' with_reducible first
      | assumption
      | intro _
      | apply Kept.ite
      | apply State.lockFieldPages_kept q0
      | apply State.faultRec_kept q1
      | apply State.setSt_kept q2
      | apply State.evt_kept q2
      | apply State.allPairsOff_kept q3
      | apply State.showMon_kept q1
      | apply State.setMon_kept q4
      | apply Kept.foldl
      | split
      | extract_lets
  clear_value s1
  have k_s2 : Kept ws s₀ s2 := by
    unfold s2
    repeat' with_reducible first
      | assumption
      | intro _
      | apply Kept.ite
      | apply State.lockFieldPages_kept q0
      | apply State.faultRec_kept q1
      | apply State.setSt_kept q2
      | apply State.evt_kept q2
      | apply State.allPairsOff_kept q3
      | apply State.showMon_kept q1
      | apply State.setMon_kept q4
      | apply Kept.foldl
      | split
      | extract_lets
  clear_value s2
  repeat' with_reducible first
    | assumption
    | intro _
    | apply Kept.ite
    | apply State.lockFieldPages_kept q0
    | apply State.faultRec_kept q1
    | apply State.setSt_kept q2
    | apply State.evt_kept q2
    | apply State.allPairsOff_kept q3
    | apply State.showMon_kept q1
    | apply State.setMon_kept q4
    | apply Kept.foldl
    | split
    | extract_lets

theorem execDiagInterval_kept {ws : List Field} {s₀ s : State} (hs_ : Field.sub [.regs, .bar2, .out, .meters, .calibs, .mons, .ram, .hmem, .rings, .strms, .axes, .grps, .slotRings, .cueQs, .binFlags, .slates, .cancels, .dqs, .cores, .cmbs, .engs, .poison] ws = true) (site : Nat) (fail : Option DiagFault)
    (kh_ : Kept ws s₀ s) : Kept ws s₀ (after s (execDiagInterval site fail s)) := by
  have q0 := Field.sub_trans (by decide : Field.sub [.regs] [.regs, .bar2, .out, .meters, .calibs, .mons, .ram, .hmem, .rings, .strms, .axes, .grps, .slotRings, .cueQs, .binFlags, .slates, .cancels, .dqs, .cores, .cmbs, .engs, .poison] = true) hs_
  unfold execDiagInterval
  repeat' with_reducible first
    | assumption
    | intro _
    | apply Kept.after_next
    | apply Kept.ite
    | apply State.monFault_kept hs_
    | apply State.addWrap_kept q0
    | apply Kept.foldl
    | split
    | extract_lets

theorem State.monUnlock_kept {ws : List Field} {s₀ s : State} (hs_ : Field.sub [.regs, .bar2, .out, .mons] ws = true) (site : Nat)
    (kh_ : Kept ws s₀ s) : Kept ws s₀ (State.monUnlock s site) := by
  have q0 := Field.sub_trans (by decide : Field.sub [.regs, .bar2, .out] [.regs, .bar2, .out, .mons] = true) hs_
  have q1 := Field.sub_trans (by decide : Field.sub [.regs] [.regs, .bar2, .out, .mons] = true) hs_
  have q2 := Field.sub_trans (by decide : Field.sub [.mons] [.regs, .bar2, .out, .mons] = true) hs_
  unfold State.monUnlock
  extract_lets -merge m
  clear_value m
  repeat' with_reducible first
    | assumption
    | intro _
    | apply Kept.ite
    | apply State.setSt_kept q0
    | apply State.showMon_kept q1
    | apply State.setMon_kept q2
    | apply Kept.foldl
    | split
    | extract_lets

theorem State.monCommitFail_kept {ws : List Field} {s₀ s : State} (hs_ : Field.sub [.regs, .mons] ws = true) (site : Nat)
    (kh_ : Kept ws s₀ s) : Kept ws s₀ (State.monCommitFail s site) := by
  have q0 := Field.sub_trans (by decide : Field.sub [.regs] [.regs, .mons] = true) hs_
  have q1 := Field.sub_trans (by decide : Field.sub [.mons] [.regs, .mons] = true) hs_
  unfold State.monCommitFail
  extract_lets -merge e _
  clear_value e
  repeat' with_reducible first
    | assumption
    | intro _
    | apply Kept.ite
    | apply State.showMon_kept q0
    | apply State.setMon_kept q1
    | apply Kept.foldl
    | split
    | extract_lets

theorem State.monCommit_kept {ws : List Field} {s₀ s : State} (hs_ : Field.sub [.regs, .mons] ws = true) (site : Nat)
    (kh_ : Kept ws s₀ s) : Kept ws s₀ (State.monCommit s site) := by
  have q0 := Field.sub_trans (by decide : Field.sub [.regs] [.regs, .mons] = true) hs_
  have q1 := Field.sub_trans (by decide : Field.sub [.mons] [.regs, .mons] = true) hs_
  unfold State.monCommit
  extract_lets -merge p _ m'
  clear_value p m'
  repeat' with_reducible first
    | assumption
    | intro _
    | apply Kept.ite
    | apply State.showMon_kept q0
    | apply State.setMon_kept q1
    | apply State.setReg_kept q0
    | apply Kept.foldl
    | split
    | extract_lets

theorem State.monAbortCfg_kept {ws : List Field} {s₀ s : State} (hs_ : Field.sub [.regs, .mons] ws = true) (site : Nat)
    (kh_ : Kept ws s₀ s) : Kept ws s₀ (State.monAbortCfg s site) := by
  have q0 := Field.sub_trans (by decide : Field.sub [.regs] [.regs, .mons] = true) hs_
  have q1 := Field.sub_trans (by decide : Field.sub [.mons] [.regs, .mons] = true) hs_
  unfold State.monAbortCfg
  extract_lets -merge p m s1
  clear_value p m
  have k_s1 : Kept ws s₀ s1 := by
    unfold s1
    repeat' with_reducible first
      | assumption
      | intro _
      | apply Kept.ite
      | apply State.showMon_kept q0
      | apply State.setMon_kept q1
      | apply State.setReg_kept q0
      | apply Kept.foldl
      | split
      | extract_lets
  clear_value s1
  repeat' with_reducible first
    | assumption
    | intro _
    | apply Kept.ite
    | apply State.showMon_kept q0
    | apply State.setMon_kept q1
    | apply State.setReg_kept q0
    | apply Kept.foldl
    | split
    | extract_lets

theorem State.monCmd_kept {ws : List Field} {s₀ s : State} (hs_ : Field.sub [.regs, .bar2, .out, .mons] ws = true) (req site : Nat) (val : Word)
    (kh_ : Kept ws s₀ s) : Kept ws s₀ (State.monCmd s req site val) := by
  have q0 := Field.sub_trans (by decide : Field.sub [.regs, .mons] [.regs, .bar2, .out, .mons] = true) hs_
  have q1 := Field.sub_trans (by decide : Field.sub [.regs, .bar2, .out] [.regs, .bar2, .out, .mons] = true) hs_
  unfold State.monCmd
  extract_lets -merge p s1 s2 s3
  clear_value p
  have k_s1 : Kept ws s₀ s1 := by
    unfold s1
    repeat' with_reducible first
      | assumption
      | intro _
      | apply Kept.ite
      | apply State.monAbortCfg_kept q0
      | apply State.monCommit_kept q0
      | apply State.monCommitFail_kept q0
      | apply State.monUnlock_kept hs_
      | apply State.monReset_kept hs_
      | apply State.reject_kept q1
      | apply State.evt_kept q1
      | apply Kept.foldl
      | split
      | extract_lets
  clear_value s1
  have k_s2 : Kept ws s₀ s2 := by
    unfold s2
    repeat' with_reducible first
      | assumption
      | intro _
      | apply Kept.ite
      | apply State.monAbortCfg_kept q0
      | apply State.monCommit_kept q0
      | apply State.monCommitFail_kept q0
      | apply State.monUnlock_kept hs_
      | apply State.monReset_kept hs_
      | apply State.reject_kept q1
      | apply State.evt_kept q1
      | apply Kept.foldl
      | split
      | extract_lets
  clear_value s2
  have k_s3 : Kept ws s₀ s3 := by
    unfold s3
    repeat' with_reducible first
      | assumption
      | intro _
      | apply Kept.ite
      | apply State.monAbortCfg_kept q0
      | apply State.monCommit_kept q0
      | apply State.monCommitFail_kept q0
      | apply State.monUnlock_kept hs_
      | apply State.monReset_kept hs_
      | apply State.reject_kept q1
      | apply State.evt_kept q1
      | apply Kept.foldl
      | split
      | extract_lets
  clear_value s3
  repeat' with_reducible first
    | assumption
    | intro _
    | apply Kept.ite
    | apply State.monAbortCfg_kept q0
    | apply State.monCommit_kept q0
    | apply State.monCommitFail_kept q0
    | apply State.monUnlock_kept hs_
    | apply State.monReset_kept hs_
    | apply State.reject_kept q1
    | apply State.evt_kept q1
    | apply Kept.foldl
    | split
    | extract_lets

theorem execSelfTestDone_kept {ws : List Field} {s₀ s : State} (hs_ : Field.sub [.regs, .bar2, .out, .meters, .calibs, .mons, .ram, .hmem, .rings, .strms, .axes, .grps, .slotRings, .cueQs, .binFlags, .slates, .cancels, .dqs, .cores, .cmbs, .engs, .poison] ws = true) (site : Nat) (ok : Bool)
    (kh_ : Kept ws s₀ s) : Kept ws s₀ (after s (execSelfTestDone site ok s)) := by
  have q0 := Field.sub_trans (by decide : Field.sub [.regs, .bar2, .out] [.regs, .bar2, .out, .meters, .calibs, .mons, .ram, .hmem, .rings, .strms, .axes, .grps, .slotRings, .cueQs, .binFlags, .slates, .cancels, .dqs, .cores, .cmbs, .engs, .poison] = true) hs_
  have q1 := Field.sub_trans (by decide : Field.sub [.regs] [.regs, .bar2, .out, .meters, .calibs, .mons, .ram, .hmem, .rings, .strms, .axes, .grps, .slotRings, .cueQs, .binFlags, .slates, .cancels, .dqs, .cores, .cmbs, .engs, .poison] = true) hs_
  have q2 := Field.sub_trans (by decide : Field.sub [.mons] [.regs, .bar2, .out, .meters, .calibs, .mons, .ram, .hmem, .rings, .strms, .axes, .grps, .slotRings, .cueQs, .binFlags, .slates, .cancels, .dqs, .cores, .cmbs, .engs, .poison] = true) hs_
  unfold execSelfTestDone
  extract_lets -merge m m'
  clear_value m m'
  repeat' with_reducible first
    | assumption
    | intro _
    | apply Kept.after_next
    | apply Kept.ite
    | apply State.monFault_kept hs_
    | apply State.evt_kept q0
    | apply State.showMon_kept q1
    | apply State.setMon_kept q2
    | apply Kept.foldl
    | split
    | extract_lets

end Sys2Proof.Machine
end

