-- ==== Sys2Proof/Laws/KRest.lean ====
section
/-!
SUPPORT. Laws/KRest.lean: what each operation of Machine/Rest.lean may change, and that it keeps the canonical form.
-/
namespace Sys2Proof.Machine

theorem State.setFio_kept {ws : List Field} {s₀ s : State} (hs_ : Field.sub [.fios] ws = true) (site : Nat) (x : Fio)
    (kh_ : Kept ws s₀ s) : Kept ws s₀ (State.setFio s site x) := by
  unfold State.setFio
  repeat' with_reducible first
    | assumption
    | intro _
    | apply Kept.ite
    | apply Kept.foldl
    | split
    | extract_lets
    | apply Kept.set_fios _ hs_

theorem State.pairsRest_kept {ws : List Field} {s₀ s : State} (hs_ : Field.sub [.regs, .bar2, .out, .mons, .axes] ws = true) (site g : Nat)
    (kh_ : Kept ws s₀ s) : Kept ws s₀ (State.pairsRest s site g) := by
  unfold State.pairsRest
  repeat' with_reducible first
    | assumption
    | intro _
    | apply Kept.ite
    | apply State.pairOff_kept hs_
    | apply Kept.foldl
    | split
    | extract_lets

theorem State.spliceDone_kept {ws : List Field} {s₀ s : State} (hs_ : Field.sub [.regs, .bar2, .out, .fios] ws = true) (site : Nat)
    (kh_ : Kept ws s₀ s) : Kept ws s₀ (State.spliceDone s site) := by
  have q0 := Field.sub_trans (by decide : Field.sub [.regs, .bar2, .out] [.regs, .bar2, .out, .fios] = true) hs_
  have q1 := Field.sub_trans (by decide : Field.sub [.fios] [.regs, .bar2, .out, .fios] = true) hs_
  unfold State.spliceDone
  extract_lets -merge _
  repeat' with_reducible first
    | assumption
    | intro _
    | apply Kept.ite
    | apply State.evt_kept q0
    | apply State.setFio_kept q1
    | apply Kept.foldl
    | split
    | extract_lets

theorem State.comeToRest_kept {ws : List Field} {s₀ s : State} (hs_ : Field.sub [.regs, .bar2, .out, .fios, .poss, .mons, .strms, .gates, .axes, .grps] ws = true) (site g : Nat)
    (kh_ : Kept ws s₀ s) : Kept ws s₀ (State.comeToRest s site g) := by
  have q0 := Field.sub_trans (by decide : Field.sub [.regs, .bar2, .out, .poss, .strms, .gates, .axes, .grps] [.regs, .bar2, .out, .fios, .poss, .mons, .strms, .gates, .axes, .grps] = true) hs_
  have q1 := Field.sub_trans (by decide : Field.sub [.regs, .bar2, .out] [.regs, .bar2, .out, .fios, .poss, .mons, .strms, .gates, .axes, .grps] = true) hs_
  have q2 := Field.sub_trans (by decide : Field.sub [.regs, .grps] [.regs, .bar2, .out, .fios, .poss, .mons, .strms, .gates, .axes, .grps] = true) hs_
  have q3 := Field.sub_trans (by decide : Field.sub [.regs] [.regs, .bar2, .out, .fios, .poss, .mons, .strms, .gates, .axes, .grps] = true) hs_
  have q4 := Field.sub_trans (by decide : Field.sub [.regs, .bar2, .out, .fios] [.regs, .bar2, .out, .fios, .poss, .mons, .strms, .gates, .axes, .grps] = true) hs_
  have q5 := Field.sub_trans (by decide : Field.sub [.regs, .bar2, .out, .mons, .axes] [.regs, .bar2, .out, .fios, .poss, .mons, .strms, .gates, .axes, .grps] = true) hs_
  unfold State.comeToRest
  extract_lets -merge _ s1 s2
  have k_s1 : Kept ws s₀ s1 := by
    unfold s1
    repeat' with_reducible first
      | assumption
      | intro _
      | apply Kept.ite
      | apply State.retakeRest_kept q0
      | apply State.evt_kept q1
      | apply State.spliceRest_kept q1
      | apply State.putGrp_kept q2
      | apply State.showMon_kept q3
      | apply State.spliceDone_kept q4
      | apply State.pairsRest_kept q5
      | apply Kept.foldl
      | split
      | extract_lets
  clear_value s1
  have k_s2 : Kept ws s₀ s2 := by
    unfold s2
    repeat' with_reducible first
      | assumption
      | intro _
      | apply Kept.ite
      | apply State.retakeRest_kept q0
      | apply State.evt_kept q1
      | apply State.spliceRest_kept q1
      | apply State.putGrp_kept q2
      | apply State.showMon_kept q3
      | apply State.spliceDone_kept q4
      | apply State.pairsRest_kept q5
      | apply Kept.foldl
      | split
      | extract_lets
  clear_value s2
  repeat' with_reducible first
    | assumption
    | intro _
    | apply Kept.ite
    | apply State.retakeRest_kept q0
    | apply State.evt_kept q1
    | apply State.spliceRest_kept q1
    | apply State.putGrp_kept q2
    | apply State.showMon_kept q3
    | apply State.spliceDone_kept q4
    | apply State.pairsRest_kept q5
    | apply Kept.foldl
    | split
    | extract_lets

theorem execAtRest_kept {ws : List Field} {s₀ s : State} (hs_ : Field.sub [.regs, .bar2, .out, .fios, .poss, .mons, .strms, .gates, .axes, .grps] ws = true) (site g : Nat)
    (kh_ : Kept ws s₀ s) : Kept ws s₀ (after s (execAtRest site g s)) := by
  unfold execAtRest
  repeat' with_reducible first
    | assumption
    | intro _
    | apply Kept.after_next
    | apply Kept.ite
    | apply State.comeToRest_kept hs_
    | apply Kept.foldl
    | split
    | extract_lets

theorem State.limAxis_kept {ws : List Field} {s₀ s : State} (hs_ : Field.sub [.regs, .bar2, .out, .ram, .hmem, .rings, .strms, .axes, .grps, .slotRings, .cueQs, .binFlags, .slates, .cancels, .dqs, .cores, .cmbs, .engs, .poison] ws = true) (site a i : Nat) (first asserted : Bool)
    (kh_ : Kept ws s₀ s) : Kept ws s₀ (State.limAxis s site a i first asserted) := by
  have q0 := Field.sub_trans (by decide : Field.sub [.regs, .bar2, .out] [.regs, .bar2, .out, .ram, .hmem, .rings, .strms, .axes, .grps, .slotRings, .cueQs, .binFlags, .slates, .cancels, .dqs, .cores, .cmbs, .engs, .poison] = true) hs_
  have q1 := Field.sub_trans (by decide : Field.sub [.regs] [.regs, .bar2, .out, .ram, .hmem, .rings, .strms, .axes, .grps, .slotRings, .cueQs, .binFlags, .slates, .cancels, .dqs, .cores, .cmbs, .engs, .poison] = true) hs_
  have q2 := Field.sub_trans (by decide : Field.sub [.axes] [.regs, .bar2, .out, .ram, .hmem, .rings, .strms, .axes, .grps, .slotRings, .cueQs, .binFlags, .slates, .cancels, .dqs, .cores, .cmbs, .engs, .poison] = true) hs_
  unfold State.limAxis
  extract_lets -merge p names s1 v s2 s3
  clear_value p names v
  have k_s1 : Kept ws s₀ s1 := by
    unfold s1
    repeat' with_reducible first
      | assumption
      | intro _
      | apply Kept.ite
      | apply State.evtIf_kept q0
      | apply State.evt_kept q0
      | apply State.showLims_kept q1
      | apply State.groupStop_kept hs_
      | apply State.setAxis_kept q2
      | apply Kept.foldl
      | split
      | extract_lets
  clear_value s1
  have k_s2 : Kept ws s₀ s2 := by
    unfold s2
    repeat' with_reducible first
      | assumption
      | intro _
      | apply Kept.ite
      | apply State.evtIf_kept q0
      | apply State.evt_kept q0
      | apply State.showLims_kept q1
      | apply State.groupStop_kept hs_
      | apply State.setAxis_kept q2
      | apply Kept.foldl
      | split
      | extract_lets
  clear_value s2
  have k_s3 : Kept ws s₀ s3 := by
    unfold s3
    repeat' with_reducible first
      | assumption
      | intro _
      | apply Kept.ite
      | apply State.evtIf_kept q0
      | apply State.evt_kept q0
      | apply State.showLims_kept q1
      | apply State.groupStop_kept hs_
      | apply State.setAxis_kept q2
      | apply Kept.foldl
      | split
      | extract_lets
  clear_value s3
  repeat' with_reducible first
    | assumption
    | intro _
    | apply Kept.ite
    | apply State.evtIf_kept q0
    | apply State.evt_kept q0
    | apply State.showLims_kept q1
    | apply State.groupStop_kept hs_
    | apply State.setAxis_kept q2
    | apply Kept.foldl
    | split
    | extract_lets

theorem State.qualify_kept {ws : List Field} {s₀ s : State} (hs_ : Field.sub [.regs, .bar2, .out, .mons, .ram, .hmem, .rings, .strms, .axes, .grps, .slotRings, .cueQs, .binFlags, .slates, .cancels, .dqs, .cores, .cmbs, .engs, .poison] ws = true) (site i : Nat) (high : Bool)
    (kh_ : Kept ws s₀ s) : Kept ws s₀ (State.qualify s site i high) := by
  have q0 := Field.sub_trans (by decide : Field.sub [.regs, .bar2, .out] [.regs, .bar2, .out, .mons, .ram, .hmem, .rings, .strms, .axes, .grps, .slotRings, .cueQs, .binFlags, .slates, .cancels, .dqs, .cores, .cmbs, .engs, .poison] = true) hs_
  have q1 := Field.sub_trans (by decide : Field.sub [.mons] [.regs, .bar2, .out, .mons, .ram, .hmem, .rings, .strms, .axes, .grps, .slotRings, .cueQs, .binFlags, .slates, .cancels, .dqs, .cores, .cmbs, .engs, .poison] = true) hs_
  have q2 := Field.sub_trans (by decide : Field.sub [.regs, .bar2, .out, .ram, .hmem, .rings, .strms, .axes, .grps, .slotRings, .cueQs, .binFlags, .slates, .cancels, .dqs, .cores, .cmbs, .engs, .poison] [.regs, .bar2, .out, .mons, .ram, .hmem, .rings, .strms, .axes, .grps, .slotRings, .cueQs, .binFlags, .slates, .cancels, .dqs, .cores, .cmbs, .engs, .poison] = true) hs_
  have q3 := Field.sub_trans (by decide : Field.sub [.regs] [.regs, .bar2, .out, .mons, .ram, .hmem, .rings, .strms, .axes, .grps, .slotRings, .cueQs, .binFlags, .slates, .cancels, .dqs, .cores, .cmbs, .engs, .poison] = true) hs_
  unfold State.qualify
  extract_lets -merge p asserted first s1 s2
  clear_value p asserted first
  have k_s1 : Kept ws s₀ s1 := by
    unfold s1
    repeat' with_reducible first
      | assumption
      | intro _
      | apply Kept.ite
      | apply State.evtIf_kept q0
      | apply State.monTrack_kept q1
      | apply State.limAxis_kept q2
      | apply State.putBit_kept q3
      | apply Kept.foldl
      | split
      | extract_lets
  clear_value s1
  have k_s2 : Kept ws s₀ s2 := by
    unfold s2
    repeat' with_reducible first
      | assumption
      | intro _
      | apply Kept.ite
      | apply State.evtIf_kept q0
      | apply State.monTrack_kept q1
      | apply State.limAxis_kept q2
      | apply State.putBit_kept q3
      | apply Kept.foldl
      | split
      | extract_lets
  clear_value s2
  repeat' with_reducible first
    | assumption
    | intro _
    | apply Kept.ite
    | apply State.evtIf_kept q0
    | apply State.monTrack_kept q1
    | apply State.limAxis_kept q2
    | apply State.putBit_kept q3
    | apply Kept.foldl
    | split
    | extract_lets

theorem execLimitQualify_kept {ws : List Field} {s₀ s : State} (hs_ : Field.sub [.regs, .bar2, .out, .mons, .ram, .hmem, .rings, .strms, .axes, .grps, .slotRings, .cueQs, .binFlags, .slates, .cancels, .dqs, .cores, .cmbs, .engs, .poison] ws = true) (site i : Nat) (level : LimitLevel)
    (kh_ : Kept ws s₀ s) : Kept ws s₀ (after s (execLimitQualify site i level s)) := by
  have q0 := Field.sub_trans (by decide : Field.sub [.regs] [.regs, .bar2, .out, .mons, .ram, .hmem, .rings, .strms, .axes, .grps, .slotRings, .cueQs, .binFlags, .slates, .cancels, .dqs, .cores, .cmbs, .engs, .poison] = true) hs_
  unfold execLimitQualify
  repeat' with_reducible first
    | assumption
    | intro _
    | apply Kept.after_next
    | apply Kept.ite
    | apply State.qualify_kept hs_
    | apply State.putBit_kept q0
    | apply Kept.foldl
    | split
    | extract_lets

end Sys2Proof.Machine
end

