-- ==== Sys2Proof/Laws/KSupplyOps.lean ====
section
/-!
SUPPORT. Laws/KSupplyOps.lean: what each operation of Machine/SupplyOps.lean may change, and that it keeps the canonical form.
-/
namespace Sys2Proof.Machine

theorem State.supEvt_kept {ws : List Field} {s₀ s : State} (hs_ : Field.sub [.regs, .bar2, .out, .rings] ws = true) (bit : Nat)
    (kh_ : Kept ws s₀ s) : Kept ws s₀ (State.supEvt s bit) := by
  have q0 := Field.sub_trans (by decide : Field.sub [.regs, .bar2, .out] [.regs, .bar2, .out, .rings] = true) hs_
  have q1 := Field.sub_trans (by decide : Field.sub [.rings] [.regs, .bar2, .out, .rings] = true) hs_
  unfold State.supEvt
  extract_lets -merge s1
  have k_s1 : Kept ws s₀ s1 := by
    unfold s1
    repeat' with_reducible first
      | assumption
      | intro _
      | apply Kept.ite
      | apply State.evt_kept q0
      | apply State.eventTo_kept q1
      | apply Kept.foldl
      | split
      | extract_lets
  clear_value s1
  repeat' with_reducible first
    | assumption
    | intro _
    | apply Kept.ite
    | apply State.evt_kept q0
    | apply State.eventTo_kept q1
    | apply Kept.foldl
    | split
    | extract_lets

theorem State.supplySplice_kept {ws : List Field} {s₀ s : State} (hs_ : Field.sub [.regs, .bar2, .out, .fios, .ram, .hmem, .rings, .strms, .axes, .grps, .slotRings, .cueQs, .binFlags, .slates, .cancels, .dqs, .cores, .cmbs, .engs, .poison] ws = true) (site : Nat)
    (kh_ : Kept ws s₀ s) : Kept ws s₀ (State.supplySplice s site) := by
  have q0 := Field.sub_trans (by decide : Field.sub [.regs, .bar2, .out] [.regs, .bar2, .out, .fios, .ram, .hmem, .rings, .strms, .axes, .grps, .slotRings, .cueQs, .binFlags, .slates, .cancels, .dqs, .cores, .cmbs, .engs, .poison] = true) hs_
  have q1 := Field.sub_trans (by decide : Field.sub [.regs, .bar2, .out, .ram, .hmem, .rings, .strms, .axes, .grps, .slotRings, .cueQs, .binFlags, .slates, .cancels, .dqs, .cores, .cmbs, .engs, .poison] [.regs, .bar2, .out, .fios, .ram, .hmem, .rings, .strms, .axes, .grps, .slotRings, .cueQs, .binFlags, .slates, .cancels, .dqs, .cores, .cmbs, .engs, .poison] = true) hs_
  have q2 := Field.sub_trans (by decide : Field.sub [.regs, .bar2, .out, .rings, .strms, .axes, .grps] [.regs, .bar2, .out, .fios, .ram, .hmem, .rings, .strms, .axes, .grps, .slotRings, .cueQs, .binFlags, .slates, .cancels, .dqs, .cores, .cmbs, .engs, .poison] = true) hs_
  have q3 := Field.sub_trans (by decide : Field.sub [.regs] [.regs, .bar2, .out, .fios, .ram, .hmem, .rings, .strms, .axes, .grps, .slotRings, .cueQs, .binFlags, .slates, .cancels, .dqs, .cores, .cmbs, .engs, .poison] = true) hs_
  have q4 := Field.sub_trans (by decide : Field.sub [.regs, .bar2, .out, .fios] [.regs, .bar2, .out, .fios, .ram, .hmem, .rings, .strms, .axes, .grps, .slotRings, .cueQs, .binFlags, .slates, .cancels, .dqs, .cores, .cmbs, .engs, .poison] = true) hs_
  have q5 := Field.sub_trans (by decide : Field.sub [.fios] [.regs, .bar2, .out, .fios, .ram, .hmem, .rings, .strms, .axes, .grps, .slotRings, .cueQs, .binFlags, .slates, .cancels, .dqs, .cores, .cmbs, .engs, .poison] = true) hs_
  unfold State.supplySplice
  extract_lets -merge live old gatesOf gs s1 s2 _ s3
  clear_value live old gatesOf gs
  have k_s1 : Kept ws s₀ s1 := by
    unfold s1
    repeat' with_reducible first
      | assumption
      | intro _
      | apply Kept.ite
      | apply State.evt_kept q0
      | apply State.groupStop_kept q1
      | apply State.hardSplice_kept q2
      | apply State.setNat_kept q3
      | apply State.spliceDone_kept q4
      | apply State.setFio_kept q5
      | apply Kept.foldl
      | split
      | extract_lets
  clear_value s1
  have k_s2 : Kept ws s₀ s2 := by
    unfold s2
    repeat' with_reducible first
      | assumption
      | intro _
      | apply Kept.ite
      | apply State.evt_kept q0
      | apply State.groupStop_kept q1
      | apply State.hardSplice_kept q2
      | apply State.setNat_kept q3
      | apply State.spliceDone_kept q4
      | apply State.setFio_kept q5
      | apply Kept.foldl
      | split
      | extract_lets
  clear_value s2
  have k_s3 : Kept ws s₀ s3 := by
    unfold s3
    repeat' with_reducible first
      | assumption
      | intro _
      | apply Kept.ite
      | apply State.evt_kept q0
      | apply State.groupStop_kept q1
      | apply State.hardSplice_kept q2
      | apply State.setNat_kept q3
      | apply State.spliceDone_kept q4
      | apply State.setFio_kept q5
      | apply Kept.foldl
      | split
      | extract_lets
  clear_value s3
  repeat' with_reducible first
    | assumption
    | intro _
    | apply Kept.ite
    | apply State.evt_kept q0
    | apply State.groupStop_kept q1
    | apply State.hardSplice_kept q2
    | apply State.setNat_kept q3
    | apply State.spliceDone_kept q4
    | apply State.setFio_kept q5
    | apply Kept.foldl
    | split
    | extract_lets

theorem State.resetMain_kept {ws : List Field} {s₀ s : State} (hs_ : Field.sub [.regs, .latch, .back, .bar2, .out, .slots, .groups, .gaffer, .tenants, .sec, .ens, .ports, .boot, .ram, .mute, .loads, .rings, .strms, .slotRings, .cueQs, .binFlags, .slates, .cancels, .tqs, .sched, .dqs, .cores, .cmbs, .engs, .mmus, .grans, .granBusy, .poison, .buckets, .arbs, .capQs, .avs, .bndTaken, .ces, .scrubs] ws = true)
    (kh_ : Kept ws s₀ s) : Kept ws s₀ (State.resetMain s) := by
  have q0 : Field.sub [.regs] ws = true := Field.sub_trans (by decide) hs_
  have q1 : Field.sub [.regs, .bar2, .out] ws = true := Field.sub_trans (by decide) hs_
  have q2 : Field.sub [.regs, .bar2, .out, .slots, .groups] ws = true := Field.sub_trans (by decide) hs_
  have q3 : Field.sub [.regs, .strms] ws = true := Field.sub_trans (by decide) hs_
  have q4 : Field.sub [.regs, .bar2, .out] ws = true := Field.sub_trans (by decide) hs_
  unfold State.resetMain
  extract_lets s0 s1 s2 s3 keep _ s4 s5 s6 aon
  have k0 : Kept ws s₀ s0 := State.putBit_kept q0 _ _ _ kh_
  have k1 : Kept ws s₀ s1 := Kept.foldl (fun t x ht => State.siteSlotsLost_kept q2 _ (State.siteDown_kept q1 _ ht)) _ _ k0
  have k2 : Kept ws s₀ s2 := State.setNat_kept q0 _ _ (State.putFld_kept q0 _ _ _ _ k1)
  have k3 : Kept ws s₀ s3 := Kept.foldl (fun t x ht => State.pipeLostOf_kept q3 _ ht) _ _ k2
  have k4 : Kept ws s₀ s4 := by
    refine k3.trans ⟨fun f hf => ?_, fun q => ?_⟩
    · have hm : ∀ g : Field, Field.sub [g] [.regs, .latch, .back, .bar2, .out, .slots, .groups, .gaffer, .tenants, .sec, .ens, .ports, .boot, .ram, .mute, .loads, .rings, .strms, .slotRings, .cueQs, .binFlags, .slates, .cancels, .tqs, .sched, .dqs, .cores, .cmbs, .engs, .mmus, .grans, .granBusy, .poison, .buckets, .arbs, .capQs, .avs, .bndTaken, .ces, .scrubs] = true → g ∈ ws := fun g hg => Field.mem_of_sub (Field.sub_trans hg hs_)
      cases f <;> first | rfl | exact absurd (hm _ (by decide)) hf
    · simp only [State.wf, Bool.and_eq_true] at q ⊢
      obtain ⟨⟨⟨⟨q1, q2⟩, q3⟩, q4⟩, q5⟩ := q
      exact ⟨⟨⟨⟨tabWf_filter _ _ _ q1, tabWf_filter _ _ _ q2⟩, q3⟩, q4⟩, q5⟩
  clear_value s4
  have k5 : Kept ws s₀ s5 := Kept.foldl (fun t x ht => State.putBit_kept q0 _ _ _ ht) _ _ k4
  clear_value s5
  have k6 : Kept ws s₀ s6 := Kept.ite (State.putFld_kept q0 _ _ _ _ k5) k5
  exact State.passRings_kept q4 (State.setReg_kept q0 _ _ k6)

theorem State.showPends_kept {ws : List Field} {s₀ s : State} (hs_ : Field.sub [.regs] ws = true)
    (kh_ : Kept ws s₀ s) : Kept ws s₀ (State.showPends s) := by
  unfold State.showPends
  repeat' with_reducible first
    | assumption
    | intro _
    | apply Kept.ite
    | apply State.showPend_kept hs_
    | apply Kept.foldl
    | split
    | extract_lets

theorem State.mainBooting_kept {ws : List Field} {s₀ s : State} (hs_ : Field.sub [.regs] ws = true)
    (kh_ : Kept ws s₀ s) : Kept ws s₀ (State.mainBooting s) := by
  unfold State.mainBooting
  repeat' with_reducible first
    | assumption
    | intro _
    | apply Kept.ite
    | apply State.putFld_kept hs_
    | apply Kept.foldl
    | split
    | extract_lets

theorem State.mainUp_kept {ws : List Field} {s₀ s : State} (hs_ : Field.sub [.regs, .bar2, .out, .sec, .rings] ws = true)
    (kh_ : Kept ws s₀ s) : Kept ws s₀ (State.mainUp s) := by
  have q0 := Field.sub_trans (by decide : Field.sub [.regs, .bar2, .out] [.regs, .bar2, .out, .sec, .rings] = true) hs_
  have q1 := Field.sub_trans (by decide : Field.sub [.regs] [.regs, .bar2, .out, .sec, .rings] = true) hs_
  have q2 := Field.sub_trans (by decide : Field.sub [.regs, .bar2, .out, .rings] [.regs, .bar2, .out, .sec, .rings] = true) hs_
  have q3 := Field.sub_trans (by decide : Field.sub [.sec] [.regs, .bar2, .out, .sec, .rings] = true) hs_
  unfold State.mainUp
  extract_lets -merge s1 _ s2 s3
  have k_s1 : Kept ws s₀ s1 := by
    unfold s1
    repeat' with_reducible first
      | assumption
      | intro _
      | apply Kept.ite
      | apply State.evt_kept q0
      | apply State.mainBooting_kept q1
      | apply State.showPends_kept q1
      | apply State.putBit_kept q1
      | apply State.putFld_kept q1
      | apply State.supEvt_kept q2
      | apply Kept.foldl
      | split
      | extract_lets
      | apply Kept.set_sec _ q3
  clear_value s1
  have k_s2 : Kept ws s₀ s2 := by
    unfold s2
    repeat' with_reducible first
      | assumption
      | intro _
      | apply Kept.ite
      | apply State.evt_kept q0
      | apply State.mainBooting_kept q1
      | apply State.showPends_kept q1
      | apply State.putBit_kept q1
      | apply State.putFld_kept q1
      | apply State.supEvt_kept q2
      | apply Kept.foldl
      | split
      | extract_lets
      | apply Kept.set_sec _ q3
  clear_value s2
  have k_s3 : Kept ws s₀ s3 := by
    unfold s3
    repeat' with_reducible first
      | assumption
      | intro _
      | apply Kept.ite
      | apply State.evt_kept q0
      | apply State.mainBooting_kept q1
      | apply State.showPends_kept q1
      | apply State.putBit_kept q1
      | apply State.putFld_kept q1
      | apply State.supEvt_kept q2
      | apply Kept.foldl
      | split
      | extract_lets
      | apply Kept.set_sec _ q3
  clear_value s3
  repeat' with_reducible first
    | assumption
    | intro _
    | apply Kept.ite
    | apply State.evt_kept q0
    | apply State.mainBooting_kept q1
    | apply State.showPends_kept q1
    | apply State.putBit_kept q1
    | apply State.putFld_kept q1
    | apply State.supEvt_kept q2
    | apply Kept.foldl
    | split
    | extract_lets
    | apply Kept.set_sec _ q3

theorem State.mainReset_kept {ws : List Field} {s₀ s : State} (hs_ : Field.sub [.regs, .latch, .back, .bar2, .out, .fios, .slots, .groups, .gaffer, .tenants, .sec, .ens, .ports, .boot, .ram, .hmem, .mute, .loads, .rings, .strms, .axes, .grps, .slotRings, .cueQs, .binFlags, .slates, .cancels, .tqs, .sched, .dqs, .cores, .cmbs, .engs, .mmus, .grans, .granBusy, .poison, .buckets, .arbs, .capQs, .avs, .bndTaken, .ces, .scrubs] ws = true) (cause : Nat)
    (kh_ : Kept ws s₀ s) : Kept ws s₀ (State.mainReset s cause) := by
  have q0 := Field.sub_trans (by decide : Field.sub [.regs, .bar2, .out, .sec, .rings] [.regs, .latch, .back, .bar2, .out, .fios, .slots, .groups, .gaffer, .tenants, .sec, .ens, .ports, .boot, .ram, .hmem, .mute, .loads, .rings, .strms, .axes, .grps, .slotRings, .cueQs, .binFlags, .slates, .cancels, .tqs, .sched, .dqs, .cores, .cmbs, .engs, .mmus, .grans, .granBusy, .poison, .buckets, .arbs, .capQs, .avs, .bndTaken, .ces, .scrubs] = true) hs_
  have q1 := Field.sub_trans (by decide : Field.sub [.regs, .latch, .back, .bar2, .out, .slots, .groups, .gaffer, .tenants, .sec, .ens, .ports, .boot, .ram, .mute, .loads, .rings, .strms, .slotRings, .cueQs, .binFlags, .slates, .cancels, .tqs, .sched, .dqs, .cores, .cmbs, .engs, .mmus, .grans, .granBusy, .poison, .buckets, .arbs, .capQs, .avs, .bndTaken, .ces, .scrubs] [.regs, .latch, .back, .bar2, .out, .fios, .slots, .groups, .gaffer, .tenants, .sec, .ens, .ports, .boot, .ram, .hmem, .mute, .loads, .rings, .strms, .axes, .grps, .slotRings, .cueQs, .binFlags, .slates, .cancels, .tqs, .sched, .dqs, .cores, .cmbs, .engs, .mmus, .grans, .granBusy, .poison, .buckets, .arbs, .capQs, .avs, .bndTaken, .ces, .scrubs] = true) hs_
  have q2 := Field.sub_trans (by decide : Field.sub [.regs] [.regs, .latch, .back, .bar2, .out, .fios, .slots, .groups, .gaffer, .tenants, .sec, .ens, .ports, .boot, .ram, .hmem, .mute, .loads, .rings, .strms, .axes, .grps, .slotRings, .cueQs, .binFlags, .slates, .cancels, .tqs, .sched, .dqs, .cores, .cmbs, .engs, .mmus, .grans, .granBusy, .poison, .buckets, .arbs, .capQs, .avs, .bndTaken, .ces, .scrubs] = true) hs_
  have q3 := Field.sub_trans (by decide : Field.sub [.regs, .bar2, .out, .fios, .ram, .hmem, .rings, .strms, .axes, .grps, .slotRings, .cueQs, .binFlags, .slates, .cancels, .dqs, .cores, .cmbs, .engs, .poison] [.regs, .latch, .back, .bar2, .out, .fios, .slots, .groups, .gaffer, .tenants, .sec, .ens, .ports, .boot, .ram, .hmem, .mute, .loads, .rings, .strms, .axes, .grps, .slotRings, .cueQs, .binFlags, .slates, .cancels, .tqs, .sched, .dqs, .cores, .cmbs, .engs, .mmus, .grans, .granBusy, .poison, .buckets, .arbs, .capQs, .avs, .bndTaken, .ces, .scrubs] = true) hs_
  unfold State.mainReset
  extract_lets -merge s1 s2
  have k_s1 : Kept ws s₀ s1 := by
    unfold s1
    repeat' with_reducible first
      | assumption
      | intro _
      | apply Kept.ite
      | apply State.mainUp_kept q0
      | apply State.resetMain_kept q1
      | apply State.setNat_kept q2
      | apply State.supplySplice_kept q3
      | apply Kept.foldl
      | split
      | extract_lets
  clear_value s1
  have k_s2 : Kept ws s₀ s2 := by
    unfold s2
    repeat' with_reducible first
      | assumption
      | intro _
      | apply Kept.ite
      | apply State.mainUp_kept q0
      | apply State.resetMain_kept q1
      | apply State.setNat_kept q2
      | apply State.supplySplice_kept q3
      | apply Kept.foldl
      | split
      | extract_lets
  clear_value s2
  repeat' with_reducible first
    | assumption
    | intro _
    | apply Kept.ite
    | apply State.mainUp_kept q0
    | apply State.resetMain_kept q1
    | apply State.setNat_kept q2
    | apply State.supplySplice_kept q3
    | apply Kept.foldl
    | split
    | extract_lets

theorem State.flashPut_kept {ws : List Field} {s₀ s : State} (hs_ : Field.sub [.flash, .weak] ws = true) (a : Nat) (cells : List (Byte × Byte)) (h : Kept ws s₀ s) :
    Kept ws s₀ (s.flashPut a cells) :=
  h.flash_put _ _ _ (Field.sub_trans (by decide) hs_) (Field.sub_trans (by decide) hs_)

theorem State.flashTorn_kept {ws : List Field} {s₀ s : State} (hs_ : Field.sub [.flash, .weak] ws = true)
    (kh_ : Kept ws s₀ s) : Kept ws s₀ (State.flashTorn s) := by
  unfold State.flashTorn
  extract_lets -merge old new
  clear_value old new
  repeat' with_reducible first
    | assumption
    | intro _
    | apply Kept.ite
    | apply State.flashPut_kept hs_
    | apply Kept.foldl
    | split
    | extract_lets

theorem State.flashEnd_kept {ws : List Field} {s₀ s : State} (hs_ : Field.sub [.flash, .weak] ws = true) (h : Kept ws s₀ s) :
    Kept ws s₀ s.flashEnd :=
  Kept.ite (State.flashPut_kept hs_ _ _ h) (h.flash_drop _ _ (Field.sub_trans (by decide) hs_) (Field.sub_trans (by decide) hs_))

theorem State.showSup_kept {ws : List Field} {s₀ s : State} (hs_ : Field.sub [.regs] ws = true)
    (kh_ : Kept ws s₀ s) : Kept ws s₀ (State.showSup s) := by
  unfold State.showSup
  repeat' with_reducible first
    | assumption
    | intro _
    | apply Kept.ite
    | apply State.putBit_kept hs_
    | apply Kept.foldl
    | split
    | extract_lets

theorem State.showFio_kept {ws : List Field} {s₀ s : State} (hs_ : Field.sub [.regs] ws = true) (site : Nat)
    (kh_ : Kept ws s₀ s) : Kept ws s₀ (State.showFio s site) := by
  unfold State.showFio
  extract_lets -merge f p
  clear_value f p
  repeat' with_reducible first
    | assumption
    | intro _
    | apply Kept.ite
    | apply State.putBit_kept hs_
    | apply Kept.foldl
    | split
    | extract_lets

theorem State.fioLetGo_kept {ws : List Field} {s₀ s : State} (hs_ : Field.sub [.fios] ws = true) (site : Nat)
    (kh_ : Kept ws s₀ s) : Kept ws s₀ (State.fioLetGo s site) := by
  unfold State.fioLetGo
  extract_lets -merge _
  repeat' with_reducible first
    | assumption
    | intro _
    | apply Kept.ite
    | apply State.setFio_kept hs_
    | apply Kept.foldl
    | split
    | extract_lets

theorem State.packageReset_kept {ws : List Field} {s₀ s : State} (hs_ : Field.sub [.asm, .lead, .regs, .latch, .rdata, .rdataHi, .back, .bar2, .out, .now, .clapper, .clk, .sup, .fios, .ticks, .encs, .poss, .cevs, .segArms, .slots, .groups, .order, .meters, .calibs, .gaffer, .tenants, .sec, .ens, .ports, .mons, .boot, .ram, .hmem, .badCpl, .mute, .flash, .weak, .loads, .restarts, .rings, .strms, .gates, .axes, .grps, .slotRings, .cueQs, .binFlags, .slates, .gens, .cancels, .tqs, .sched, .dqs, .cores, .cmbs, .engs, .mmus, .grans, .granBusy, .poison, .buckets, .arbs, .capQs, .avs, .bndTaken, .ces, .scrubs, .free, .pending] ws = true) (cause : Nat)
    (kh_ : Kept ws s₀ s) : Kept ws s₀ (State.packageReset s cause) := by
  have q0 : Field.sub [.flash, .weak] ws = true := Field.sub_trans (by decide) hs_
  have q1 : Field.sub [.regs] ws = true := Field.sub_trans (by decide) hs_
  have q2 : Field.sub [.fios] ws = true := Field.sub_trans (by decide) hs_
  unfold State.packageReset
  extract_lets -merge t pgHigh _ r r1 r2
  have kt : Kept ws s₀ t := Kept.ite kh_ (Kept.ite (State.flashTorn_kept q0 kh_) (State.flashEnd_kept q0 kh_))
  have ht : Kept [.flash, .weak] s t :=
    Kept.ite (Kept.refl _ _) (Kept.ite (State.flashTorn_kept (by decide) (Kept.refl _ _)) (State.flashEnd_kept (by decide) (Kept.refl _ _)))
  have kr : Kept ws s₀ r := by
    refine kt.trans ⟨fun f hf => ?_, fun q => ?_⟩
    · have hm : ∀ g : Field, Field.sub [g] [.asm, .lead, .regs, .latch, .rdata, .rdataHi, .back, .bar2, .out, .now, .clapper, .clk, .sup, .fios, .ticks, .encs, .poss, .cevs, .segArms, .slots, .groups, .order, .meters, .calibs, .gaffer, .tenants, .sec, .ens, .ports, .mons, .boot, .ram, .hmem, .badCpl, .mute, .flash, .weak, .loads, .restarts, .rings, .strms, .gates, .axes, .grps, .slotRings, .cueQs, .binFlags, .slates, .gens, .cancels, .tqs, .sched, .dqs, .cores, .cmbs, .engs, .mmus, .grans, .granBusy, .poison, .buckets, .arbs, .capQs, .avs, .bndTaken, .ces, .scrubs, .free, .pending] = true → g ∈ ws := fun g hg => Field.mem_of_sub (Field.sub_trans hg hs_)
      cases f <;> first
        | exact absurd (hm _ (by decide)) hf
        | exact (ht.same .asm (by decide)).symm
        | exact (ht.same .hmem (by decide)).symm
        | exact (ht.same .badCpl (by decide)).symm
        | exact (ht.same .pending (by decide)).symm
        | exact (ht.same .out (by decide)).symm
        | exact (ht.same .free (by decide)).symm
        | rfl
    · simp only [State.wf, Bool.and_eq_true] at q ⊢
      obtain ⟨⟨⟨⟨_, _⟩, q3⟩, q4⟩, q5⟩ := q
      exact ⟨⟨⟨⟨rfl, rfl⟩, (ht.same .hmem (by decide)) ▸ q3⟩, q4⟩, q5⟩
  clear_value r
  have k2 : Kept ws s₀ r2 := State.showSup_kept q1 (State.putBit_kept q1 _ _ _ (State.putBit_kept q1 _ _ _ (State.setNat_kept q1 _ _ (State.setReg_kept q1 _ _ kr))))
  clear_value r2
  exact Kept.foldl (fun t x ht => State.fioLetGo_kept q2 _ (State.showFio_kept q1 _ (State.putBit_kept q1 _ _ _ ht))) _ _ k2

end Sys2Proof.Machine
end

