-- ==== Sys2Proof/Laws/KBoot.lean ====
section
/-!
SUPPORT. Laws/KBoot.lean: what each operation of Machine/Boot.lean may change, and that it keeps the canonical form.
-/
namespace Sys2Proof.Machine

theorem State.loadSection_kept {ws : List Field} {s₀ s : State} (hs_ : Field.sub [.ram] ws = true) (img : List Byte) (type site i : Nat)
    (kh_ : Kept ws s₀ s) : Kept ws s₀ (State.loadSection s img type site i) := by
  unfold State.loadSection
  repeat' with_reducible first
    | assumption
    | intro _
    | apply Kept.ite
    | apply State.ramPut_kept hs_
    | apply Kept.foldl
    | split
    | extract_lets

theorem State.loadAon_kept {ws : List Field} {s₀ s : State} (hs_ : Field.sub [.ram] ws = true) (img : List Byte)
    (kh_ : Kept ws s₀ s) : Kept ws s₀ (State.loadAon s img) := by
  unfold State.loadAon
  repeat' with_reducible first
    | assumption
    | intro _
    | apply Kept.ite
    | apply State.loadSection_kept hs_
    | apply Kept.foldl
    | split
    | extract_lets

theorem State.loadMain_kept {ws : List Field} {s₀ s : State} (hs_ : Field.sub [.ram] ws = true) (img : List Byte)
    (kh_ : Kept ws s₀ s) : Kept ws s₀ (State.loadMain s img) := by
  unfold State.loadMain
  repeat' with_reducible first
    | assumption
    | intro _
    | apply Kept.ite
    | apply State.loadSection_kept hs_
    | apply Kept.foldl
    | split
    | extract_lets

theorem State.recoveryWait_kept {ws : List Field} {s₀ s : State} (hs_ : Field.sub [.regs, .bar2, .out] ws = true) (fail : Nat)
    (kh_ : Kept ws s₀ s) : Kept ws s₀ (State.recoveryWait s fail) := by
  have q0 := Field.sub_trans (by decide : Field.sub [.regs] [.regs, .bar2, .out] = true) hs_
  unfold State.recoveryWait
  repeat' with_reducible first
    | assumption
    | intro _
    | apply Kept.ite
    | apply State.evt_kept hs_
    | apply State.putFld_kept q0
    | apply Kept.foldl
    | split
    | extract_lets

theorem State.aonUp_kept {ws : List Field} {s₀ s : State} (hs_ : Field.sub [.regs] ws = true)
    (kh_ : Kept ws s₀ s) : Kept ws s₀ (State.aonUp s) := by
  unfold State.aonUp
  extract_lets -merge s1
  have k_s1 : Kept ws s₀ s1 := by
    unfold s1
    repeat' with_reducible first
      | assumption
      | intro _
      | apply Kept.ite
      | apply State.putBit_kept hs_
      | apply Kept.foldl
      | split
      | extract_lets
  clear_value s1
  repeat' with_reducible first
    | assumption
    | intro _
    | apply Kept.ite
    | apply State.putBit_kept hs_
    | apply Kept.foldl
    | split
    | extract_lets

theorem State.aonStart_kept {ws : List Field} {s₀ s : State} (hs_ : Field.sub [.regs, .bar2, .out, .boot, .ram] ws = true) (img : List Byte) (slot : Option Nat)
    (kh_ : Kept ws s₀ s) : Kept ws s₀ (State.aonStart s img slot) := by
  have q0 := Field.sub_trans (by decide : Field.sub [.regs, .bar2, .out] [.regs, .bar2, .out, .boot, .ram] = true) hs_
  have q1 := Field.sub_trans (by decide : Field.sub [.regs] [.regs, .bar2, .out, .boot, .ram] = true) hs_
  have q2 := Field.sub_trans (by decide : Field.sub [.ram] [.regs, .bar2, .out, .boot, .ram] = true) hs_
  have q3 := Field.sub_trans (by decide : Field.sub [.boot] [.regs, .bar2, .out, .boot, .ram] = true) hs_
  unfold State.aonStart
  extract_lets -merge p s1 s2 _ b
  clear_value p b
  have k_s1 : Kept ws s₀ s1 := by
    unfold s1
    repeat' with_reducible first
      | assumption
      | intro _
      | apply Kept.ite
      | apply State.evt_kept q0
      | apply State.mainBooting_kept q1
      | apply State.aonUp_kept q1
      | apply State.loadAon_kept q2
      | apply State.setNat_kept q1
      | apply State.putBit_kept q1
      | apply Kept.foldl
      | split
      | extract_lets
      | apply Kept.set_boot _ q3
  clear_value s1
  have k_s2 : Kept ws s₀ s2 := by
    unfold s2
    repeat' with_reducible first
      | assumption
      | intro _
      | apply Kept.ite
      | apply State.evt_kept q0
      | apply State.mainBooting_kept q1
      | apply State.aonUp_kept q1
      | apply State.loadAon_kept q2
      | apply State.setNat_kept q1
      | apply State.putBit_kept q1
      | apply Kept.foldl
      | split
      | extract_lets
      | apply Kept.set_boot _ q3
  clear_value s2
  repeat' with_reducible first
    | assumption
    | intro _
    | apply Kept.ite
    | apply State.evt_kept q0
    | apply State.mainBooting_kept q1
    | apply State.aonUp_kept q1
    | apply State.loadAon_kept q2
    | apply State.setNat_kept q1
    | apply State.putBit_kept q1
    | apply Kept.foldl
    | split
    | extract_lets
    | apply Kept.set_boot _ q3

theorem execAonBoot_kept {ws : List Field} {s₀ s0 : State} (hs_ : Field.sub [.lead, .regs, .bar2, .out, .boot, .ram, .free] ws = true) (bootRecN ensLeadN : Bool)
    (kh_ : Kept ws s₀ s0) : Kept ws s₀ (after s0 (execAonBoot bootRecN ensLeadN s0)) := by
  have q0 := Field.sub_trans (by decide : Field.sub [.regs, .bar2, .out, .boot, .ram] [.lead, .regs, .bar2, .out, .boot, .ram, .free] = true) hs_
  have q1 := Field.sub_trans (by decide : Field.sub [.regs, .bar2, .out] [.lead, .regs, .bar2, .out, .boot, .ram, .free] = true) hs_
  have q2 := Field.sub_trans (by decide : Field.sub [.regs] [.lead, .regs, .bar2, .out, .boot, .ram, .free] = true) hs_
  have q3 := Field.sub_trans (by decide : Field.sub [.lead] [.lead, .regs, .bar2, .out, .boot, .ram, .free] = true) hs_
  have q4 := Field.sub_trans (by decide : Field.sub [.free] [.lead, .regs, .bar2, .out, .boot, .ram, .free] = true) hs_
  unfold execAonBoot
  extract_lets -merge s dens r tried s1 s2
  clear_value dens tried
  have k_s : Kept ws s₀ s := by
    unfold s
    repeat' with_reducible first
      | assumption
      | intro _
      | apply Kept.after_next
      | apply Kept.ite
      | apply State.aonStart_kept q0
      | apply State.recoveryWait_kept q1
      | apply State.putFld_kept q2
      | apply Kept.foldl
      | split
      | extract_lets
      | apply Kept.set_lead _ q3
      | apply Kept.set_free _ q4
  clear_value s
  have k_r : Kept ws s₀ r := by
    unfold r
    repeat' with_reducible first
      | assumption
      | intro _
      | apply Kept.after_next
      | apply Kept.ite
      | apply State.aonStart_kept q0
      | apply State.recoveryWait_kept q1
      | apply State.putFld_kept q2
      | apply Kept.foldl
      | split
      | extract_lets
      | apply Kept.set_lead _ q3
      | apply Kept.set_free _ q4
  clear_value r
  have k_s1 : Kept ws s₀ s1 := by
    unfold s1
    repeat' with_reducible first
      | assumption
      | intro _
      | apply Kept.after_next
      | apply Kept.ite
      | apply State.aonStart_kept q0
      | apply State.recoveryWait_kept q1
      | apply State.putFld_kept q2
      | apply Kept.foldl
      | split
      | extract_lets
      | apply Kept.set_lead _ q3
      | apply Kept.set_free _ q4
  clear_value s1
  have k_s2 : Kept ws s₀ s2 := by
    unfold s2
    repeat' with_reducible first
      | assumption
      | intro _
      | apply Kept.after_next
      | apply Kept.ite
      | apply State.aonStart_kept q0
      | apply State.recoveryWait_kept q1
      | apply State.putFld_kept q2
      | apply Kept.foldl
      | split
      | extract_lets
      | apply Kept.set_lead _ q3
      | apply Kept.set_free _ q4
  clear_value s2
  repeat' with_reducible first
    | assumption
    | intro _
    | apply Kept.after_next
    | apply Kept.ite
    | apply State.aonStart_kept q0
    | apply State.recoveryWait_kept q1
    | apply State.putFld_kept q2
    | apply Kept.foldl
    | split
    | extract_lets
    | apply Kept.set_lead _ q3
    | apply Kept.set_free _ q4

theorem State.assemblyMismatch_kept {ws : List Field} {s₀ s : State} (hs_ : Field.sub [.regs, .bar2, .out, .free] ws = true)
    (kh_ : Kept ws s₀ s) : Kept ws s₀ (State.assemblyMismatch s) := by
  have q0 := Field.sub_trans (by decide : Field.sub [.regs, .bar2, .out] [.regs, .bar2, .out, .free] = true) hs_
  have q1 := Field.sub_trans (by decide : Field.sub [.free] [.regs, .bar2, .out, .free] = true) hs_
  unfold State.assemblyMismatch
  extract_lets -merge code cls
  clear_value code cls
  repeat' with_reducible first
    | assumption
    | intro _
    | apply Kept.ite
    | apply State.toFault_kept q0
    | apply State.recoveryWait_kept q0
    | apply Kept.foldl
    | split
    | extract_lets
    | apply Kept.set_free _ q1

theorem State.bringUp_kept {ws : List Field} {s₀ s : State} (hs_ : Field.sub [.regs, .bar2, .out] ws = true) (failedSites failedLinks : Nat)
    (kh_ : Kept ws s₀ s) : Kept ws s₀ (State.bringUp s failedSites failedLinks) := by
  have q0 := Field.sub_trans (by decide : Field.sub [.regs] [.regs, .bar2, .out] = true) hs_
  unfold State.bringUp
  extract_lets -merge p up links s1
  clear_value p up links
  have k_s1 : Kept ws s₀ s1 := by
    unfold s1
    repeat' with_reducible first
      | assumption
      | intro _
      | apply Kept.ite
      | apply State.setSt_kept hs_
      | apply State.setNat_kept q0
      | apply State.putBit_kept q0
      | apply Kept.foldl
      | split
      | extract_lets
  clear_value s1
  repeat' with_reducible first
    | assumption
    | intro _
    | apply Kept.ite
    | apply State.setSt_kept hs_
    | apply State.setNat_kept q0
    | apply State.putBit_kept q0
    | apply Kept.foldl
    | split
    | extract_lets

theorem State.readVolts_kept {ws : List Field} {s₀ s : State} (hs_ : Field.sub [.out, .gaffer] ws = true)
    (kh_ : Kept ws s₀ s) : Kept ws s₀ (State.readVolts s) := by
  unfold State.readVolts
  repeat' with_reducible first
    | assumption
    | intro _
    | apply Kept.ite
    | apply State.avsSend_kept hs_
    | apply Kept.foldl
    | split
    | extract_lets

theorem execMainBoot_kept {ws : List Field} {s₀ s0 : State} (hs_ : Field.sub [.regs, .bar2, .out, .gaffer, .ram, .free] ws = true) (failedSites failedLinks : Nat)
    (kh_ : Kept ws s₀ s0) : Kept ws s₀ (after s0 (execMainBoot failedSites failedLinks s0)) := by
  have q0 := Field.sub_trans (by decide : Field.sub [.regs, .bar2, .out] [.regs, .bar2, .out, .gaffer, .ram, .free] = true) hs_
  have q1 := Field.sub_trans (by decide : Field.sub [.out, .gaffer] [.regs, .bar2, .out, .gaffer, .ram, .free] = true) hs_
  have q2 := Field.sub_trans (by decide : Field.sub [.regs, .bar2, .out, .free] [.regs, .bar2, .out, .gaffer, .ram, .free] = true) hs_
  have q3 := Field.sub_trans (by decide : Field.sub [.ram] [.regs, .bar2, .out, .gaffer, .ram, .free] = true) hs_
  have q4 := Field.sub_trans (by decide : Field.sub [.regs] [.regs, .bar2, .out, .gaffer, .ram, .free] = true) hs_
  have q5 := Field.sub_trans (by decide : Field.sub [.regs, .gaffer] [.regs, .bar2, .out, .gaffer, .ram, .free] = true) hs_
  have q6 := Field.sub_trans (by decide : Field.sub [.free] [.regs, .bar2, .out, .gaffer, .ram, .free] = true) hs_
  have q7 := Field.sub_trans (by decide : Field.sub [.gaffer] [.regs, .bar2, .out, .gaffer, .ram, .free] = true) hs_
  unfold execMainBoot
  extract_lets -merge img s r bad s1 s2 _ s3
  clear_value img r bad
  have k_s : Kept ws s₀ s := by
    unfold s
    repeat' with_reducible first
      | assumption
      | intro _
      | apply Kept.after_next
      | apply Kept.ite
      | apply State.setSt_kept q0
      | apply State.evt_kept q0
      | apply State.passRings_kept q0
      | apply State.readVolts_kept q1
      | apply State.bringUp_kept q0
      | apply State.assemblyMismatch_kept q2
      | apply State.recoveryWait_kept q0
      | apply State.loadMain_kept q3
      | apply State.setNat_kept q4
      | apply State.putFld_kept q4
      | apply State.setEacc_kept q5
      | apply Kept.foldl
      | split
      | extract_lets
      | apply Kept.set_free _ q6
      | apply Kept.set_gaffer _ q7
  clear_value s
  have k_s1 : Kept ws s₀ s1 := by
    unfold s1
    repeat' with_reducible first
      | assumption
      | intro _
      | apply Kept.after_next
      | apply Kept.ite
      | apply State.setSt_kept q0
      | apply State.evt_kept q0
      | apply State.passRings_kept q0
      | apply State.readVolts_kept q1
      | apply State.bringUp_kept q0
      | apply State.assemblyMismatch_kept q2
      | apply State.recoveryWait_kept q0
      | apply State.loadMain_kept q3
      | apply State.setNat_kept q4
      | apply State.putFld_kept q4
      | apply State.setEacc_kept q5
      | apply Kept.foldl
      | split
      | extract_lets
      | apply Kept.set_free _ q6
      | apply Kept.set_gaffer _ q7
  clear_value s1
  have k_s2 : Kept ws s₀ s2 := by
    unfold s2
    repeat' with_reducible first
      | assumption
      | intro _
      | apply Kept.after_next
      | apply Kept.ite
      | apply State.setSt_kept q0
      | apply State.evt_kept q0
      | apply State.passRings_kept q0
      | apply State.readVolts_kept q1
      | apply State.bringUp_kept q0
      | apply State.assemblyMismatch_kept q2
      | apply State.recoveryWait_kept q0
      | apply State.loadMain_kept q3
      | apply State.setNat_kept q4
      | apply State.putFld_kept q4
      | apply State.setEacc_kept q5
      | apply Kept.foldl
      | split
      | extract_lets
      | apply Kept.set_free _ q6
      | apply Kept.set_gaffer _ q7
  clear_value s2
  have k_s3 : Kept ws s₀ s3 := by
    unfold s3
    repeat' with_reducible first
      | assumption
      | intro _
      | apply Kept.after_next
      | apply Kept.ite
      | apply State.setSt_kept q0
      | apply State.evt_kept q0
      | apply State.passRings_kept q0
      | apply State.readVolts_kept q1
      | apply State.bringUp_kept q0
      | apply State.assemblyMismatch_kept q2
      | apply State.recoveryWait_kept q0
      | apply State.loadMain_kept q3
      | apply State.setNat_kept q4
      | apply State.putFld_kept q4
      | apply State.setEacc_kept q5
      | apply Kept.foldl
      | split
      | extract_lets
      | apply Kept.set_free _ q6
      | apply Kept.set_gaffer _ q7
  clear_value s3
  repeat' with_reducible first
    | assumption
    | intro _
    | apply Kept.after_next
    | apply Kept.ite
    | apply State.setSt_kept q0
    | apply State.evt_kept q0
    | apply State.passRings_kept q0
    | apply State.readVolts_kept q1
    | apply State.bringUp_kept q0
    | apply State.assemblyMismatch_kept q2
    | apply State.recoveryWait_kept q0
    | apply State.loadMain_kept q3
    | apply State.setNat_kept q4
    | apply State.putFld_kept q4
    | apply State.setEacc_kept q5
    | apply Kept.foldl
    | split
    | extract_lets
    | apply Kept.set_free _ q6
    | apply Kept.set_gaffer _ q7

theorem execSiteReturned_kept {ws : List Field} {s₀ s : State} (hs_ : Field.sub [.regs, .bar2, .out, .ram, .free] ws = true) (site : Nat)
    (kh_ : Kept ws s₀ s) : Kept ws s₀ (after s (execSiteReturned site s)) := by
  have q0 := Field.sub_trans (by decide : Field.sub [.regs, .bar2, .out] [.regs, .bar2, .out, .ram, .free] = true) hs_
  have q1 := Field.sub_trans (by decide : Field.sub [.ram] [.regs, .bar2, .out, .ram, .free] = true) hs_
  have q2 := Field.sub_trans (by decide : Field.sub [.free] [.regs, .bar2, .out, .ram, .free] = true) hs_
  unfold execSiteReturned
  extract_lets -merge s1
  have k_s1 : Kept ws s₀ s1 := by
    unfold s1
    repeat' with_reducible first
      | assumption
      | intro _
      | apply Kept.after_next
      | apply Kept.ite
      | apply State.passRings_kept q0
      | apply State.siteBack_kept q0
      | apply State.loadSection_kept q1
      | apply Kept.foldl
      | split
      | extract_lets
      | apply Kept.set_free _ q2
  clear_value s1
  repeat' with_reducible first
    | assumption
    | intro _
    | apply Kept.after_next
    | apply Kept.ite
    | apply State.passRings_kept q0
    | apply State.siteBack_kept q0
    | apply State.loadSection_kept q1
    | apply Kept.foldl
    | split
    | extract_lets
    | apply Kept.set_free _ q2

theorem State.enableVfs_kept {ws : List Field} {s₀ s : State} (hs_ : Field.sub [.regs] ws = true) (n : Nat)
    (kh_ : Kept ws s₀ s) : Kept ws s₀ (State.enableVfs s n) := by
  unfold State.enableVfs
  repeat' with_reducible first
    | assumption
    | intro _
    | apply Kept.ite
    | apply State.putFld_kept hs_
    | apply Kept.foldl
    | split
    | extract_lets

theorem execPcieConfigRequest_kept {ws : List Field} {s₀ s : State} (hs_ : Field.sub [.regs, .out] ws = true) (r : ConfigReq)
    (kh_ : Kept ws s₀ s) : Kept ws s₀ (after s (execPcieConfigRequest r s)) := by
  have q0 := Field.sub_trans (by decide : Field.sub [.regs] [.regs, .out] = true) hs_
  have q1 := Field.sub_trans (by decide : Field.sub [.out] [.regs, .out] = true) hs_
  unfold execPcieConfigRequest
  repeat' with_reducible first
    | assumption
    | intro _
    | apply Kept.after_next
    | apply Kept.ite
    | apply State.enableVfs_kept q0
    | apply State.emit_kept q1
    | apply Kept.foldl
    | split
    | extract_lets

theorem execRecCmdGo_kept {ws : List Field} {s₀ s : State} (hs_ : Field.sub [.regs, .bar2, .out, .boot, .ram] ws = true) (req : Nat) (val : Word)
    (kh_ : Kept ws s₀ s) : Kept ws s₀ (after s (execRecCmdGo req val s)) := by
  have q0 := Field.sub_trans (by decide : Field.sub [.regs, .bar2, .out] [.regs, .bar2, .out, .boot, .ram] = true) hs_
  have q1 := Field.sub_trans (by decide : Field.sub [.regs] [.regs, .bar2, .out, .boot, .ram] = true) hs_
  have q2 := Field.sub_trans (by decide : Field.sub [.boot] [.regs, .bar2, .out, .boot, .ram] = true) hs_
  unfold execRecCmdGo
  extract_lets -merge p
  clear_value p
  repeat' with_reducible first
    | assumption
    | intro _
    | apply Kept.after_next
    | apply Kept.ite
    | apply State.asWrite_kept q0
    | apply State.reject_kept q0
    | apply State.mainBooting_kept q1
    | apply State.aonStart_kept hs_
    | apply State.putFld_kept q1
    | apply Kept.foldl
    | split
    | extract_lets
    | apply Kept.set_boot _ q2

theorem execWatchdogExpire_kept {ws : List Field} {s₀ s : State} (hs_ : Field.sub [.regs, .latch, .back, .bar2, .out, .slots, .groups, .ports, .ram, .hmem, .loads, .restarts, .rings, .strms, .axes, .grps, .slotRings, .cueQs, .binFlags, .slates, .cancels, .tqs, .sched, .dqs, .cores, .cmbs, .engs, .mmus, .poison, .arbs, .capQs, .bndTaken, .free] ws = true) (site _core : Nat)
    (kh_ : Kept ws s₀ s) : Kept ws s₀ (after s (execWatchdogExpire site _core s)) := by
  have q0 := Field.sub_trans (by decide : Field.sub [.regs, .bar2, .out, .slots, .groups, .loads, .restarts, .slates, .mmus, .free] [.regs, .latch, .back, .bar2, .out, .slots, .groups, .ports, .ram, .hmem, .loads, .restarts, .rings, .strms, .axes, .grps, .slotRings, .cueQs, .binFlags, .slates, .cancels, .tqs, .sched, .dqs, .cores, .cmbs, .engs, .mmus, .poison, .arbs, .capQs, .bndTaken, .free] = true) hs_
  have q1 := Field.sub_trans (by decide : Field.sub [.regs] [.regs, .latch, .back, .bar2, .out, .slots, .groups, .ports, .ram, .hmem, .loads, .restarts, .rings, .strms, .axes, .grps, .slotRings, .cueQs, .binFlags, .slates, .cancels, .tqs, .sched, .dqs, .cores, .cmbs, .engs, .mmus, .poison, .arbs, .capQs, .bndTaken, .free] = true) hs_
  have q2 := Field.sub_trans (by decide : Field.sub [.regs, .latch, .back, .bar2, .out, .slots, .groups, .ports, .ram, .hmem, .loads, .rings, .strms, .axes, .grps, .slotRings, .cueQs, .binFlags, .slates, .cancels, .tqs, .sched, .dqs, .cores, .cmbs, .engs, .mmus, .poison, .arbs, .capQs, .bndTaken] [.regs, .latch, .back, .bar2, .out, .slots, .groups, .ports, .ram, .hmem, .loads, .restarts, .rings, .strms, .axes, .grps, .slotRings, .cueQs, .binFlags, .slates, .cancels, .tqs, .sched, .dqs, .cores, .cmbs, .engs, .mmus, .poison, .arbs, .capQs, .bndTaken, .free] = true) hs_
  unfold execWatchdogExpire
  repeat' with_reducible first
    | assumption
    | intro _
    | apply Kept.after_next
    | apply Kept.ite
    | apply State.coreRestart_kept q0
    | apply State.faultRec_kept q1
    | apply State.dieFatal_kept q2
    | apply Kept.foldl
    | split
    | extract_lets

theorem execMbAck_kept {ws : List Field} {s₀ s : State} (hs_ : Field.sub [.regs, .bar2, .out] ws = true) (req t : Nat) (val : Word)
    (kh_ : Kept ws s₀ s) : Kept ws s₀ (after s (execMbAck req t val s)) := by
  have q0 := Field.sub_trans (by decide : Field.sub [.regs] [.regs, .bar2, .out] = true) hs_
  unfold execMbAck
  repeat' with_reducible first
    | assumption
    | intro _
    | apply Kept.after_next
    | apply Kept.ite
    | apply State.asWrite_kept hs_
    | apply State.setNat_kept q0
    | apply Kept.foldl
    | split
    | extract_lets

theorem execGetFwInfo_kept {ws : List Field} {s₀ s : State} (hs_ : Field.sub [.regs, .bar2, .out, .loads] ws = true) (t : Nat)
    (kh_ : Kept ws s₀ s) : Kept ws s₀ (after s (execGetFwInfo t s)) := by
  unfold execGetFwInfo
  extract_lets -merge p
  clear_value p
  repeat' with_reducible first
    | assumption
    | intro _
    | apply Kept.after_next
    | apply Kept.ite
    | apply State.mbServe_kept hs_
    | apply State.mbReply_kept hs_
    | apply Kept.foldl
    | split
    | extract_lets

theorem execSvnRaise_kept {ws : List Field} {s₀ s : State} (hs_ : Field.sub [.regs, .bar2, .out, .loads] ws = true) (t : Nat)
    (kh_ : Kept ws s₀ s) : Kept ws s₀ (after s (execSvnRaise t s)) := by
  have q0 := Field.sub_trans (by decide : Field.sub [.regs] [.regs, .bar2, .out, .loads] = true) hs_
  unfold execSvnRaise
  repeat' with_reducible first
    | assumption
    | intro _
    | apply Kept.after_next
    | apply Kept.ite
    | apply State.mbServe_kept hs_
    | apply State.mbReply_kept hs_
    | apply State.setNat_kept q0
    | apply Kept.foldl
    | split
    | extract_lets

theorem State.flCmd_kept {ws : List Field} {s₀ s : State} (hs_ : Field.sub [.regs, .bar2, .out, .boot] ws = true) (req op : Nat)
    (kh_ : Kept ws s₀ s) : Kept ws s₀ (State.flCmd s req op) := by
  have q0 := Field.sub_trans (by decide : Field.sub [.regs, .bar2, .out] [.regs, .bar2, .out, .boot] = true) hs_
  have q1 := Field.sub_trans (by decide : Field.sub [.regs] [.regs, .bar2, .out, .boot] = true) hs_
  have q2 := Field.sub_trans (by decide : Field.sub [.boot] [.regs, .bar2, .out, .boot] = true) hs_
  unfold State.flCmd
  extract_lets -merge p unit
  clear_value p unit
  repeat' with_reducible first
    | assumption
    | intro _
    | apply Kept.ite
    | apply State.asWrite_kept q0
    | apply State.reject_kept q0
    | apply State.setNat_kept q1
    | apply Kept.foldl
    | split
    | extract_lets
    | apply Kept.set_boot _ q2

theorem execFlRead_kept {ws : List Field} {s₀ s : State} (hs_ : Field.sub [.regs, .bar2, .out, .boot] ws = true) (req : Nat)
    (kh_ : Kept ws s₀ s) : Kept ws s₀ (after s (execFlRead req s)) := by
  unfold execFlRead
  repeat' with_reducible first
    | assumption
    | intro _
    | apply Kept.after_next
    | apply Kept.ite
    | apply State.flCmd_kept hs_
    | apply Kept.foldl
    | split
    | extract_lets

theorem execFlProgram_kept {ws : List Field} {s₀ s : State} (hs_ : Field.sub [.regs, .bar2, .out, .boot] ws = true) (req : Nat)
    (kh_ : Kept ws s₀ s) : Kept ws s₀ (after s (execFlProgram req s)) := by
  unfold execFlProgram
  repeat' with_reducible first
    | assumption
    | intro _
    | apply Kept.after_next
    | apply Kept.ite
    | apply State.flCmd_kept hs_
    | apply Kept.foldl
    | split
    | extract_lets

theorem execErase4K_kept {ws : List Field} {s₀ s : State} (hs_ : Field.sub [.regs, .bar2, .out, .boot] ws = true) (req : Nat)
    (kh_ : Kept ws s₀ s) : Kept ws s₀ (after s (execErase4K req s)) := by
  unfold execErase4K
  repeat' with_reducible first
    | assumption
    | intro _
    | apply Kept.after_next
    | apply Kept.ite
    | apply State.flCmd_kept hs_
    | apply Kept.foldl
    | split
    | extract_lets

theorem execErase64K_kept {ws : List Field} {s₀ s : State} (hs_ : Field.sub [.regs, .bar2, .out, .boot] ws = true) (req : Nat)
    (kh_ : Kept ws s₀ s) : Kept ws s₀ (after s (execErase64K req s)) := by
  unfold execErase64K
  repeat' with_reducible first
    | assumption
    | intro _
    | apply Kept.after_next
    | apply Kept.ite
    | apply State.flCmd_kept hs_
    | apply Kept.foldl
    | split
    | extract_lets

theorem execFlDone_kept {ws : List Field} {s₀ s : State} (hs_ : Field.sub [.regs, .bar2, .out, .boot, .flash, .weak, .free] ws = true) (err us : Nat)
    (kh_ : Kept ws s₀ s) : Kept ws s₀ (after s (execFlDone err us s)) := by
  have q0 := Field.sub_trans (by decide : Field.sub [.flash, .weak] [.regs, .bar2, .out, .boot, .flash, .weak, .free] = true) hs_
  have q1 := Field.sub_trans (by decide : Field.sub [.regs, .bar2, .out] [.regs, .bar2, .out, .boot, .flash, .weak, .free] = true) hs_
  have q2 := Field.sub_trans (by decide : Field.sub [.regs] [.regs, .bar2, .out, .boot, .flash, .weak, .free] = true) hs_
  have q3 := Field.sub_trans (by decide : Field.sub [.boot] [.regs, .bar2, .out, .boot, .flash, .weak, .free] = true) hs_
  have q4 := Field.sub_trans (by decide : Field.sub [.free] [.regs, .bar2, .out, .boot, .flash, .weak, .free] = true) hs_
  unfold execFlDone
  extract_lets -merge op p late fin a bs _ s1
  clear_value op p a bs
  have k_fin : ∀ x0 x1, Kept ws s₀ x0 → Kept ws s₀ (fin x0 x1) := by
    unfold fin
    repeat' with_reducible first
      | assumption
      | intro _
      | apply Kept.after_next
      | apply Kept.ite
      | apply State.flashEnd_kept q0
      | apply State.flashTorn_kept q0
      | apply State.evt_kept q1
      | apply State.setNat_kept q2
      | apply State.putBytes_kept q2
      | apply Kept.foldl
      | split
      | extract_lets
      | apply Kept.set_boot _ q3
      | apply Kept.set_free _ q4
  clear_value fin
  have k_s1 : Kept ws s₀ s1 := by
    unfold s1
    repeat' with_reducible first
      | assumption
      | intro _
      | apply k_fin
      | apply Kept.after_next
      | apply Kept.ite
      | apply State.flashEnd_kept q0
      | apply State.flashTorn_kept q0
      | apply State.evt_kept q1
      | apply State.setNat_kept q2
      | apply State.putBytes_kept q2
      | apply Kept.foldl
      | split
      | extract_lets
      | apply Kept.set_boot _ q3
      | apply Kept.set_free _ q4
  clear_value s1
  repeat' with_reducible first
    | assumption
    | intro _
    | apply k_fin
    | apply Kept.after_next
    | apply Kept.ite
    | apply State.flashEnd_kept q0
    | apply State.flashTorn_kept q0
    | apply State.evt_kept q1
    | apply State.setNat_kept q2
    | apply State.putBytes_kept q2
    | apply Kept.foldl
    | split
    | extract_lets
    | apply Kept.set_boot _ q3
    | apply Kept.set_free _ q4

theorem execLinkFail_kept {ws : List Field} {s₀ s : State} (hs_ : Field.sub [.regs, .bar2, .out] ws = true)
    (kh_ : Kept ws s₀ s) : Kept ws s₀ (after s (execLinkFail s)) := by
  have q0 := Field.sub_trans (by decide : Field.sub [.regs] [.regs, .bar2, .out] = true) hs_
  unfold execLinkFail
  repeat' with_reducible first
    | assumption
    | intro _
    | apply Kept.after_next
    | apply Kept.ite
    | apply State.evt_kept hs_
    | apply State.setReg_kept q0
    | apply Kept.foldl
    | split
    | extract_lets

theorem execLinkChange_kept {ws : List Field} {s₀ s : State} (hs_ : Field.sub [.regs, .bar2, .out] ws = true) (width rate : Nat)
    (kh_ : Kept ws s₀ s) : Kept ws s₀ (after s (execLinkChange width rate s)) := by
  have q0 := Field.sub_trans (by decide : Field.sub [.regs] [.regs, .bar2, .out] = true) hs_
  unfold execLinkChange
  repeat' with_reducible first
    | assumption
    | intro _
    | apply Kept.after_next
    | apply Kept.ite
    | apply State.evt_kept hs_
    | apply State.putBit_kept q0
    | apply State.putFld_kept q0
    | apply Kept.foldl
    | split
    | extract_lets

theorem State.clearPage_kept {ws : List Field} {s₀ s : State} (hs_ : Field.sub [.regs, .latch] ws = true) (p : Nat)
    (kh_ : Kept ws s₀ s) : Kept ws s₀ (State.clearPage s p) := by
  have q0 := Field.sub_trans (by decide : Field.sub [.regs] [.regs, .latch] = true) hs_
  have q1 := Field.sub_trans (by decide : Field.sub [.latch] [.regs, .latch] = true) hs_
  have k1 : ∀ f x, Kept ws s₀ { s with regs := s.regs.filter f, latch := x } := fun f x => Kept.set_latch _ q1 (Kept.regs_filter f q0 kh_)
  unfold State.clearPage
  exact Kept.ite (State.showPend_kept q0 _ (k1 _ _)) (k1 _ _)

theorem State.loseData_kept {ws : List Field} {s₀ s : State} (hs_ : Field.sub [.rings, .strms] ws = true) (d : Nat)
    (kh_ : Kept ws s₀ s) : Kept ws s₀ (State.loseData s d) := by
  have q0 := Field.sub_trans (by decide : Field.sub [.strms] [.rings, .strms] = true) hs_
  have q1 := Field.sub_trans (by decide : Field.sub [.rings] [.rings, .strms] = true) hs_
  unfold State.loseData
  extract_lets -merge site k x gone absent y s1
  clear_value site k x gone absent y
  have k_s1 : Kept ws s₀ s1 := by
    unfold s1
    repeat' with_reducible first
      | assumption
      | intro _
      | apply Kept.ite
      | apply State.setStrm_kept q0
      | apply State.setRing_kept q1
      | apply Kept.foldl
      | split
      | extract_lets
  clear_value s1
  repeat' with_reducible first
    | assumption
    | intro _
    | apply Kept.ite
    | apply State.setStrm_kept q0
    | apply State.setRing_kept q1
    | apply Kept.foldl
    | split
    | extract_lets

theorem State.resetTenant_kept {ws : List Field} {s₀ s : State} (hs_ : Field.sub [.regs, .latch, .back, .bar2, .out, .tenants, .ram, .hmem, .rings, .strms, .slotRings, .cueQs, .binFlags, .slates, .cancels, .tqs, .sched, .dqs, .cores, .cmbs, .engs, .mmus, .poison, .bndTaken] ws = true) (t : Nat)
    (kh_ : Kept ws s₀ s) : Kept ws s₀ (State.resetTenant s t) := by
  have q0 := Field.sub_trans (by decide : Field.sub [.regs, .back, .bar2, .out, .ram, .hmem, .slotRings, .cancels, .tqs, .sched, .dqs, .cores, .cmbs, .engs, .mmus, .poison] [.regs, .latch, .back, .bar2, .out, .tenants, .ram, .hmem, .rings, .strms, .slotRings, .cueQs, .binFlags, .slates, .cancels, .tqs, .sched, .dqs, .cores, .cmbs, .engs, .mmus, .poison, .bndTaken] = true) hs_
  have q1 := Field.sub_trans (by decide : Field.sub [.rings, .strms] [.regs, .latch, .back, .bar2, .out, .tenants, .ram, .hmem, .rings, .strms, .slotRings, .cueQs, .binFlags, .slates, .cancels, .tqs, .sched, .dqs, .cores, .cmbs, .engs, .mmus, .poison, .bndTaken] = true) hs_
  have q2 := Field.sub_trans (by decide : Field.sub [.regs, .latch] [.regs, .latch, .back, .bar2, .out, .tenants, .ram, .hmem, .rings, .strms, .slotRings, .cueQs, .binFlags, .slates, .cancels, .tqs, .sched, .dqs, .cores, .cmbs, .engs, .mmus, .poison, .bndTaken] = true) hs_
  have q3 := Field.sub_trans (by decide : Field.sub [.regs, .back, .bar2, .out, .mmus] [.regs, .latch, .back, .bar2, .out, .tenants, .ram, .hmem, .rings, .strms, .slotRings, .cueQs, .binFlags, .slates, .cancels, .tqs, .sched, .dqs, .cores, .cmbs, .engs, .mmus, .poison, .bndTaken] = true) hs_
  have q4 := Field.sub_trans (by decide : Field.sub [.regs, .back, .bar2, .out, .tenants, .ram, .hmem, .slotRings, .cueQs, .binFlags, .slates, .cancels, .tqs, .sched, .dqs, .cores, .cmbs, .engs, .mmus, .poison, .bndTaken] [.regs, .latch, .back, .bar2, .out, .tenants, .ram, .hmem, .rings, .strms, .slotRings, .cueQs, .binFlags, .slates, .cancels, .tqs, .sched, .dqs, .cores, .cmbs, .engs, .mmus, .poison, .bndTaken] = true) hs_
  have q5 := Field.sub_trans (by decide : Field.sub [.regs, .bar2, .out, .tenants] [.regs, .latch, .back, .bar2, .out, .tenants, .ram, .hmem, .rings, .strms, .slotRings, .cueQs, .binFlags, .slates, .cancels, .tqs, .sched, .dqs, .cores, .cmbs, .engs, .mmus, .poison, .bndTaken] = true) hs_
  have q6 := Field.sub_trans (by decide : Field.sub [.bar2] [.regs, .latch, .back, .bar2, .out, .tenants, .ram, .hmem, .rings, .strms, .slotRings, .cueQs, .binFlags, .slates, .cancels, .tqs, .sched, .dqs, .cores, .cmbs, .engs, .mmus, .poison, .bndTaken] = true) hs_
  have q7 := Field.sub_trans (by decide : Field.sub [.rings] [.regs, .latch, .back, .bar2, .out, .tenants, .ram, .hmem, .rings, .strms, .slotRings, .cueQs, .binFlags, .slates, .cancels, .tqs, .sched, .dqs, .cores, .cmbs, .engs, .mmus, .poison, .bndTaken] = true) hs_
  have q8 := Field.sub_trans (by decide : Field.sub [.tqs] [.regs, .latch, .back, .bar2, .out, .tenants, .ram, .hmem, .rings, .strms, .slotRings, .cueQs, .binFlags, .slates, .cancels, .tqs, .sched, .dqs, .cores, .cmbs, .engs, .mmus, .poison, .bndTaken] = true) hs_
  unfold State.resetTenant
  extract_lets -merge s1 mine s2
  clear_value mine
  have k_s1 : Kept ws s₀ s1 := by
    unfold s1
    repeat' with_reducible first
      | assumption
      | intro _
      | apply Kept.ite
      | apply State.endTakes_kept q0
      | apply State.loseData_kept q1
      | apply State.clearPage_kept q2
      | apply State.dropUnits_kept q3
      | apply State.endConf_kept q4
      | apply State.endSession_kept q5
      | apply State.bar2Clear_kept q6
      | apply State.setRing_kept q7
      | apply State.setTq_kept q8
      | apply Kept.foldl
      | split
      | extract_lets
  clear_value s1
  have k_s2 : Kept ws s₀ s2 := by
    unfold s2
    repeat' with_reducible first
      | assumption
      | intro _
      | apply Kept.ite
      | apply State.endTakes_kept q0
      | apply State.loseData_kept q1
      | apply State.clearPage_kept q2
      | apply State.dropUnits_kept q3
      | apply State.endConf_kept q4
      | apply State.endSession_kept q5
      | apply State.bar2Clear_kept q6
      | apply State.setRing_kept q7
      | apply State.setTq_kept q8
      | apply Kept.foldl
      | split
      | extract_lets
  clear_value s2
  repeat' with_reducible first
    | assumption
    | intro _
    | apply Kept.ite
    | apply State.endTakes_kept q0
    | apply State.loseData_kept q1
    | apply State.clearPage_kept q2
    | apply State.dropUnits_kept q3
    | apply State.endConf_kept q4
    | apply State.endSession_kept q5
    | apply State.bar2Clear_kept q6
    | apply State.setRing_kept q7
    | apply State.setTq_kept q8
    | apply Kept.foldl
    | split
    | extract_lets

theorem State.resetFunctions_kept {ws : List Field} {s₀ s : State} (hs_ : Field.sub [.regs, .latch, .back, .bar2, .out, .tenants, .ram, .hmem, .rings, .strms, .slotRings, .cueQs, .binFlags, .slates, .cancels, .tqs, .sched, .dqs, .cores, .cmbs, .engs, .mmus, .poison, .bndTaken] ws = true)
    (kh_ : Kept ws s₀ s) : Kept ws s₀ (State.resetFunctions s) := by
  have q0 := Field.sub_trans (by decide : Field.sub [.regs] [.regs, .latch, .back, .bar2, .out, .tenants, .ram, .hmem, .rings, .strms, .slotRings, .cueQs, .binFlags, .slates, .cancels, .tqs, .sched, .dqs, .cores, .cmbs, .engs, .mmus, .poison, .bndTaken] = true) hs_
  unfold State.resetFunctions
  repeat' with_reducible first
    | assumption
    | intro _
    | apply Kept.ite
    | apply State.resetTenant_kept hs_
    | apply State.putFld_kept q0
    | apply Kept.foldl
    | split
    | extract_lets

theorem execPerst_kept {ws : List Field} {s₀ s : State} (hs_ : Field.sub [.regs, .latch, .back, .bar2, .out, .tenants, .ram, .hmem, .rings, .strms, .slotRings, .cueQs, .binFlags, .slates, .cancels, .tqs, .sched, .dqs, .cores, .cmbs, .engs, .mmus, .poison, .bndTaken] ws = true)
    (kh_ : Kept ws s₀ s) : Kept ws s₀ (after s (execPerst s)) := by
  have q0 := Field.sub_trans (by decide : Field.sub [.regs] [.regs, .latch, .back, .bar2, .out, .tenants, .ram, .hmem, .rings, .strms, .slotRings, .cueQs, .binFlags, .slates, .cancels, .tqs, .sched, .dqs, .cores, .cmbs, .engs, .mmus, .poison, .bndTaken] = true) hs_
  unfold execPerst
  repeat' with_reducible first
    | assumption
    | intro _
    | apply Kept.after_next
    | apply Kept.ite
    | apply State.resetFunctions_kept hs_
    | apply State.setNat_kept q0
    | apply Kept.foldl
    | split
    | extract_lets

theorem execFlr_kept {ws : List Field} {s₀ s : State} (hs_ : Field.sub [.regs, .latch, .back, .bar2, .out, .tenants, .ram, .hmem, .rings, .strms, .slotRings, .cueQs, .binFlags, .slates, .cancels, .tqs, .sched, .dqs, .cores, .cmbs, .engs, .mmus, .poison, .bndTaken] ws = true) (fn : Nat)
    (kh_ : Kept ws s₀ s) : Kept ws s₀ (after s (execFlr fn s)) := by
  have q0 := Field.sub_trans (by decide : Field.sub [.regs, .back, .bar2, .out, .ram, .hmem, .slotRings, .cueQs, .binFlags, .slates, .dqs, .cores, .cmbs, .engs, .mmus, .poison, .bndTaken] [.regs, .latch, .back, .bar2, .out, .tenants, .ram, .hmem, .rings, .strms, .slotRings, .cueQs, .binFlags, .slates, .cancels, .tqs, .sched, .dqs, .cores, .cmbs, .engs, .mmus, .poison, .bndTaken] = true) hs_
  unfold execFlr
  repeat' with_reducible first
    | assumption
    | intro _
    | apply Kept.after_next
    | apply Kept.ite
    | apply State.unloadTenant_kept q0
    | apply State.resetFunctions_kept hs_
    | apply State.resetTenant_kept hs_
    | apply Kept.foldl
    | split
    | extract_lets

end Sys2Proof.Machine
end

