-- ==== Sys2Proof/Laws/KDailies.lean ====
section
/-!
SUPPORT. Laws/KDailies.lean: what each operation of Machine/Dailies.lean may change, and that it keeps the canonical form.
-/
namespace Sys2Proof.Machine

theorem State.showWatermark_kept {ws : List Field} {s₀ s : State} (hs_ : Field.sub [.regs] ws = true) (site k : Nat)
    (kh_ : Kept ws s₀ s) : Kept ws s₀ (State.showWatermark s site k) := by
  unfold State.showWatermark
  extract_lets -merge x lines w
  clear_value x lines w
  repeat' with_reducible first
    | assumption
    | intro _
    | apply Kept.ite
    | apply State.setNat_kept hs_
    | apply Kept.foldl
    | split
    | extract_lets

theorem State.delivered_kept {ws : List Field} {s₀ s : State} (hs_ : Field.sub [.regs, .strms] ws = true) (d : Nat) (r : DRec)
    (kh_ : Kept ws s₀ s) : Kept ws s₀ (State.delivered s d r) := by
  have q0 := Field.sub_trans (by decide : Field.sub [.regs] [.regs, .strms] = true) hs_
  have q1 := Field.sub_trans (by decide : Field.sub [.strms] [.regs, .strms] = true) hs_
  unfold State.delivered
  extract_lets -merge site k p _ s1 x s2
  clear_value site k p x
  have k_s1 : Kept ws s₀ s1 := by
    unfold s1
    repeat' with_reducible first
      | assumption
      | intro _
      | apply Kept.ite
      | apply State.setNat_kept q0
      | apply State.putBit_kept q0
      | apply State.setStrm_kept q1
      | apply State.showWatermark_kept q0
      | apply Kept.foldl
      | split
      | extract_lets
  clear_value s1
  have k_s2 : Kept ws s₀ s2 := by
    unfold s2
    repeat' with_reducible first
      | assumption
      | intro _
      | apply Kept.ite
      | apply State.setNat_kept q0
      | apply State.putBit_kept q0
      | apply State.setStrm_kept q1
      | apply State.showWatermark_kept q0
      | apply Kept.foldl
      | split
      | extract_lets
  clear_value s2
  repeat' with_reducible first
    | assumption
    | intro _
    | apply Kept.ite
    | apply State.setNat_kept q0
    | apply State.putBit_kept q0
    | apply State.setStrm_kept q1
    | apply State.showWatermark_kept q0
    | apply Kept.foldl
    | split
    | extract_lets

theorem State.recMessage_kept {ws : List Field} {s₀ s : State} (hs_ : Field.sub [.regs, .bar2, .out, .rings] ws = true) (d : Nat)
    (kh_ : Kept ws s₀ s) : Kept ws s₀ (State.recMessage s d) := by
  have q0 := Field.sub_trans (by decide : Field.sub [.regs] [.regs, .bar2, .out, .rings] = true) hs_
  have q1 := Field.sub_trans (by decide : Field.sub [.bar2, .out] [.regs, .bar2, .out, .rings] = true) hs_
  have q2 := Field.sub_trans (by decide : Field.sub [.rings] [.regs, .bar2, .out, .rings] = true) hs_
  unfold State.recMessage
  extract_lets -merge p x n s1 s2
  clear_value p x n
  have k_s1 : Kept ws s₀ s1 := by
    unfold s1
    repeat' with_reducible first
      | assumption
      | intro _
      | apply Kept.ite
      | apply State.showPend_kept q0
      | apply State.msix_kept q1
      | apply State.putBit_kept q0
      | apply State.setRing_kept q2
      | apply Kept.foldl
      | split
      | extract_lets
  clear_value s1
  have k_s2 : Kept ws s₀ s2 := by
    unfold s2
    repeat' with_reducible first
      | assumption
      | intro _
      | apply Kept.ite
      | apply State.showPend_kept q0
      | apply State.msix_kept q1
      | apply State.putBit_kept q0
      | apply State.setRing_kept q2
      | apply Kept.foldl
      | split
      | extract_lets
  clear_value s2
  repeat' with_reducible first
    | assumption
    | intro _
    | apply Kept.ite
    | apply State.showPend_kept q0
    | apply State.msix_kept q1
    | apply State.putBit_kept q0
    | apply State.setRing_kept q2
    | apply Kept.foldl
    | split
    | extract_lets

theorem State.placePayload_kept {ws : List Field} {s₀ s : State} (hs_ : Field.sub [.regs, .rings] ws = true) (d : Nat) (r : DRec)
    (kh_ : Kept ws s₀ s) : KeptOQ ws s₀ (State.placePayload s d r) := by
  unfold State.placePayload
  repeat' with_reducible first
    | assumption
    | intro _
    | apply KeptOQ.ite
    | apply KeptOQ.some
    | exact KeptOQ.none
    | apply Kept.ite
    | apply State.allocData_kept hs_
    | refine KeptOQ.of (State.allocData_kept hs_ _ _ ?_) ‹_›
    | apply Kept.foldl
    | split
    | extract_lets

theorem State.recWritten_kept {ws : List Field} {s₀ s : State} (hs_ : Field.sub [.regs, .bar2, .out, .rings, .strms] ws = true) (d : Nat) (r : DRec) (parts : List (Nat × Nat)) (pays : List Nat) (seq recTo : Nat) (wrap : Bool)
    (kh_ : Kept ws s₀ s) : Kept ws s₀ (State.recWritten s d r parts pays seq recTo wrap) := by
  have q0 := Field.sub_trans (by decide : Field.sub [.regs, .bar2, .out, .rings] [.regs, .bar2, .out, .rings, .strms] = true) hs_
  have q1 := Field.sub_trans (by decide : Field.sub [.regs, .strms] [.regs, .bar2, .out, .rings, .strms] = true) hs_
  have q2 := Field.sub_trans (by decide : Field.sub [.rings] [.regs, .bar2, .out, .rings, .strms] = true) hs_
  unfold State.recWritten
  extract_lets -merge x x2 upTo
  clear_value x x2 upTo
  repeat' with_reducible first
    | assumption
    | intro _
    | apply Kept.ite
    | apply State.recMessage_kept q0
    | apply State.delivered_kept q1
    | apply State.setRing_kept q2
    | apply Kept.foldl
    | split
    | extract_lets

theorem State.writeRec_kept {ws : List Field} {s₀ s : State} {d : Nat} {r : DRec} {rs : List DRec} (hs_ : Field.sub [.regs, .bar2, .out, .ram, .hmem, .rings, .strms, .poison, .free] ws = true) (h : Kept ws s₀ s) :
    KeptR ws s₀ (s.writeRec d r rs) := by
  have q0 : Field.sub [.regs, .rings] ws = true := Field.sub_trans (by decide) hs_
  have q1 : Field.sub [.ram, .hmem, .poison] ws = true := Field.sub_trans (by decide) hs_
  have q2 : Field.sub [.rings] ws = true := Field.sub_trans (by decide) hs_
  have q3 : Field.sub [.regs, .bar2, .out, .rings, .strms] ws = true := Field.sub_trans (by decide) hs_
  have q4 : Field.sub [.free] ws = true := Field.sub_trans (by decide) hs_
  have q5 : Field.sub [.regs] ws = true := Field.sub_trans (by decide) hs_
  unfold State.writeRec
  extract_lets p body0 units ring tail pad t want seq padRec at_ recTo
  refine KeptR.ite trivial (KeptR.ite trivial ?_)
  split
  · trivial
  · next off s0 e =>
    have k0 := KeptOQ.of (State.placePayload_kept q0 _ _ h) e
    extract_lets hold at0 w1 body1 body w2 w3 s3 s4 pays parts
    have k1 : Kept ws s₀ w1.1 := State.taWrite_kept q1 _ _ _ _ k0
    have k2 : Kept ws s₀ w2.1 := State.taWrite_kept q1 _ _ _ _ k1
    have k3 : Kept ws s₀ w3.1 := by
      unfold w3
      split
      · exact State.taWrite_kept q1 _ _ _ _ k2
      · exact k2
    have hh : ∀ (u : State) n, Kept ws s₀ u → Kept ws s₀ (hold u n) := fun u n hu => State.setRing_kept q2 _ _ hu
    clear_value hold w2 w1
    split
    · exact hh _ _ k1
    · split
      · exact hh _ _ k3
      · have k4 : Kept ws s₀ s4 := Kept.ite (State.draw_kept q4 (State.draw_kept q4 (State.setNat_kept q5 _ _ k3))) (State.setNat_kept q5 _ _ k3)
        exact State.recWritten_kept q3 _ _ _ _ _ _ _ k4

theorem State.ringPage_kept {ws : List Field} {s₀ s : State} (hs_ : Field.sub [.regs, .back, .bar2, .out, .mmus] ws = true) (d ta : Nat) (write : Bool) (a : Walk)
    (kh_ : Kept ws s₀ s) : Kept ws s₀ (State.ringPage s d ta write a) := by
  have q0 := Field.sub_trans (by decide : Field.sub [.regs, .back, .bar2, .out] [.regs, .back, .bar2, .out, .mmus] = true) hs_
  have q1 := Field.sub_trans (by decide : Field.sub [.regs, .bar2, .out] [.regs, .back, .bar2, .out, .mmus] = true) hs_
  unfold State.ringPage
  extract_lets -merge t
  clear_value t
  repeat' with_reducible first
    | assumption
    | intro _
    | apply Kept.ite
    | apply State.haltUnit_kept hs_
    | apply State.halt_kept q0
    | apply State.toFault_kept q1
    | apply State.showRing_kept q1
    | apply Kept.foldl
    | split
    | extract_lets

theorem State.writeRecs_kept {ws : List Field} {s₀ : State} (hs_ : Field.sub [.regs, .back, .bar2, .out, .ram, .hmem, .rings, .strms, .mmus, .poison, .free] ws = true) (d : Nat) : ∀ (l : List DRec) {s : State},
    Kept ws s₀ s → Kept ws s₀ (s.writeRecs d l) := by
  have q0 : Field.sub [.rings] ws = true := Field.sub_trans (by decide) hs_
  have q1 : Field.sub [.regs, .bar2, .out] ws = true := Field.sub_trans (by decide) hs_
  have q2 : Field.sub [.regs, .back, .bar2, .out, .mmus] ws = true := Field.sub_trans (by decide) hs_
  have q3 : Field.sub [.regs, .bar2, .out, .ram, .hmem, .rings, .strms, .poison, .free] ws = true := Field.sub_trans (by decide) hs_
  intro l
  induction l with
  | nil => intro s h; exact State.showRing_kept q1 _ (State.setRing_kept q0 _ _ h)
  | cons r l ih =>
    intro s h
    have hr := State.writeRec_kept (d := d) (r := r) (rs := l) q3 h
    simp only [State.writeRecs]
    split
    · next e => rw [e] at hr; exact ih hr
    · exact State.showRing_kept q1 _ (State.setRing_kept q0 _ _ h)
    · exact State.showRing_kept q1 _ (State.setRing_kept q0 _ _ h)
    · next e => rw [e] at hr; exact State.ringPage_kept q2 _ _ _ _ hr

theorem execDailiesWrite_kept {ws : List Field} {s₀ s : State} (hs_ : Field.sub [.regs, .back, .bar2, .out, .ram, .hmem, .rings, .strms, .mmus, .poison, .free] ws = true) (d : Nat)
    (kh_ : Kept ws s₀ s) : Kept ws s₀ (after s (execDailiesWrite d s)) := by
  unfold execDailiesWrite
  repeat' with_reducible first
    | assumption
    | intro _
    | apply Kept.after_next
    | apply Kept.ite
    | apply State.writeRecs_kept hs_
    | apply Kept.foldl
    | split
    | extract_lets

theorem State.sendFrame_kept {ws : List Field} {s₀ s : State} (hs_ : Field.sub [.regs, .back, .bar2, .out, .mmus] ws = true) (d : Nat) (again : Bool) (f : Nat × Nat × Nat)
    (kh_ : Kept ws s₀ s) : Kept ws s₀ (State.sendFrame s d again f) := by
  have q0 := Field.sub_trans (by decide : Field.sub [.out] [.regs, .back, .bar2, .out, .mmus] = true) hs_
  unfold State.sendFrame
  extract_lets -merge x b
  clear_value x b
  repeat' with_reducible first
    | assumption
    | intro _
    | apply Kept.ite
    | apply State.ringPage_kept hs_
    | apply State.emit_kept q0
    | apply Kept.foldl
    | split
    | extract_lets

theorem execExportData_kept {ws : List Field} {s₀ s : State} (hs_ : Field.sub [.regs, .back, .bar2, .out, .rings, .mmus] ws = true) (d : Nat)
    (kh_ : Kept ws s₀ s) : Kept ws s₀ (after s (execExportData d s)) := by
  have q0 := Field.sub_trans (by decide : Field.sub [.regs, .back, .bar2, .out, .mmus] [.regs, .back, .bar2, .out, .rings, .mmus] = true) hs_
  have q1 := Field.sub_trans (by decide : Field.sub [.rings] [.regs, .back, .bar2, .out, .rings, .mmus] = true) hs_
  unfold execExportData
  extract_lets -merge x n f s1
  clear_value x n f
  have k_s1 : Kept ws s₀ s1 := by
    unfold s1
    repeat' with_reducible first
      | assumption
      | intro _
      | apply Kept.after_next
      | apply Kept.ite
      | apply State.sendFrame_kept q0
      | apply State.ringPage_kept q0
      | apply State.setRing_kept q1
      | apply Kept.foldl
      | split
      | extract_lets
  clear_value s1
  repeat' with_reducible first
    | assumption
    | intro _
    | apply Kept.after_next
    | apply Kept.ite
    | apply State.sendFrame_kept q0
    | apply State.ringPage_kept q0
    | apply State.setRing_kept q1
    | apply Kept.foldl
    | split
    | extract_lets

theorem State.ackSpans_kept {ws : List Field} {s₀ : State} (hs_ : Field.sub [.regs, .rings, .strms] ws = true) (d upto : Nat) : ∀ (l : List Span)
    {s : State}, Kept ws s₀ s → Kept ws s₀ (s.ackSpans d upto l) := by
  have q0 : Field.sub [.regs] ws = true := Field.sub_trans (by decide) hs_
  have q1 : Field.sub [.rings] ws = true := Field.sub_trans (by decide) hs_
  have q2 : Field.sub [.regs, .strms] ws = true := Field.sub_trans (by decide) hs_
  intro l
  induction l with
  | nil => intro s h; exact State.setRing_kept q1 _ _ h
  | cons x l ih =>
    intro s h
    simp only [State.ackSpans]
    split
    · exact ih (State.delivered_kept q2 _ _ (State.setNat_kept q0 _ _ h))
    · exact State.setRing_kept q1 _ _ h

theorem State.freeData_kept {ws : List Field} {s₀ s : State} (hs_ : Field.sub [.regs] ws = true) (d : Nat)
    (kh_ : Kept ws s₀ s) : Kept ws s₀ (State.freeData s d) := by
  unfold State.freeData
  repeat' with_reducible first
    | assumption
    | intro _
    | apply Kept.ite
    | apply State.setNat_kept hs_
    | apply Kept.foldl
    | split
    | extract_lets

theorem execExportAck_kept {ws : List Field} {s₀ s : State} (hs_ : Field.sub [.regs, .bar2, .out, .rings, .strms] ws = true) (d ackPsn window : Nat)
    (kh_ : Kept ws s₀ s) : Kept ws s₀ (after s (execExportAck d ackPsn window s)) := by
  have q0 := Field.sub_trans (by decide : Field.sub [.regs] [.regs, .bar2, .out, .rings, .strms] = true) hs_
  have q1 := Field.sub_trans (by decide : Field.sub [.regs, .rings, .strms] [.regs, .bar2, .out, .rings, .strms] = true) hs_
  have q2 := Field.sub_trans (by decide : Field.sub [.regs, .bar2, .out] [.regs, .bar2, .out, .rings, .strms] = true) hs_
  have q3 := Field.sub_trans (by decide : Field.sub [.rings] [.regs, .bar2, .out, .rings, .strms] = true) hs_
  unfold execExportAck
  extract_lets -merge x first ahead rest acked x2 x3
  clear_value x first ahead rest acked x2 x3
  repeat' with_reducible first
    | assumption
    | intro _
    | apply Kept.after_next
    | apply Kept.ite
    | apply State.freeData_kept q0
    | apply State.ackSpans_kept q1
    | apply State.showRing_kept q2
    | apply State.setRing_kept q3
    | apply Kept.foldl
    | split
    | extract_lets

theorem execExportRetry_kept {ws : List Field} {s₀ s : State} (hs_ : Field.sub [.regs, .back, .bar2, .out, .rings, .mmus] ws = true) (d : Nat)
    (kh_ : Kept ws s₀ s) : Kept ws s₀ (after s (execExportRetry d s)) := by
  have q0 := Field.sub_trans (by decide : Field.sub [.regs, .back, .bar2, .out, .mmus] [.regs, .back, .bar2, .out, .rings, .mmus] = true) hs_
  have q1 := Field.sub_trans (by decide : Field.sub [.regs, .bar2, .out] [.regs, .back, .bar2, .out, .rings, .mmus] = true) hs_
  have q2 := Field.sub_trans (by decide : Field.sub [.rings] [.regs, .back, .bar2, .out, .rings, .mmus] = true) hs_
  unfold execExportRetry
  extract_lets -merge x s1
  clear_value x
  have k_s1 : Kept ws s₀ s1 := by
    unfold s1
    repeat' with_reducible first
      | assumption
      | intro _
      | apply Kept.after_next
      | apply Kept.ite
      | apply State.sendFrame_kept q0
      | apply State.toFault_kept q1
      | apply State.evt_kept q1
      | apply State.setRing_kept q2
      | apply Kept.foldl
      | split
      | extract_lets
  clear_value s1
  repeat' with_reducible first
    | assumption
    | intro _
    | apply Kept.after_next
    | apply Kept.ite
    | apply State.sendFrame_kept q0
    | apply State.toFault_kept q1
    | apply State.evt_kept q1
    | apply State.setRing_kept q2
    | apply Kept.foldl
    | split
    | extract_lets

end Sys2Proof.Machine
end

