-- ==== Sys2Proof/Laws/KClapper.lean ====
section
/-!
SUPPORT. Laws/KClapper.lean: what each operation of Machine/Clapper.lean may change, and that it keeps the canonical form.
-/
namespace Sys2Proof.Machine

theorem State.setClk_kept {ws : List Field} {s₀ s : State} (hs_ : Field.sub [.clk] ws = true) (c : Clk)
    (kh_ : Kept ws s₀ s) : Kept ws s₀ (State.setClk s c) := by
  unfold State.setClk
  repeat' with_reducible first
    | assumption
    | intro _
    | apply Kept.ite
    | apply Kept.foldl
    | split
    | extract_lets
    | apply Kept.set_clk _ hs_

theorem State.setLock_kept {ws : List Field} {s₀ s : State} (hs_ : Field.sub [.regs, .bar2, .out, .clk] ws = true) (l : Nat)
    (kh_ : Kept ws s₀ s) : Kept ws s₀ (State.setLock s l) := by
  have q0 := Field.sub_trans (by decide : Field.sub [.regs, .bar2, .out] [.regs, .bar2, .out, .clk] = true) hs_
  have q1 := Field.sub_trans (by decide : Field.sub [.regs] [.regs, .bar2, .out, .clk] = true) hs_
  have q2 := Field.sub_trans (by decide : Field.sub [.clk] [.regs, .bar2, .out, .clk] = true) hs_
  unfold State.setLock
  extract_lets -merge s1 _ s2
  have k_s1 : Kept ws s₀ s1 := by
    unfold s1
    repeat' with_reducible first
      | assumption
      | intro _
      | apply Kept.ite
      | apply State.evtIf_kept q0
      | apply State.putFld_kept q1
      | apply State.setClk_kept q2
      | apply Kept.foldl
      | split
      | extract_lets
  clear_value s1
  have k_s2 : Kept ws s₀ s2 := by
    unfold s2
    repeat' with_reducible first
      | assumption
      | intro _
      | apply Kept.ite
      | apply State.evtIf_kept q0
      | apply State.putFld_kept q1
      | apply State.setClk_kept q2
      | apply Kept.foldl
      | split
      | extract_lets
  clear_value s2
  repeat' with_reducible first
    | assumption
    | intro _
    | apply Kept.ite
    | apply State.evtIf_kept q0
    | apply State.putFld_kept q1
    | apply State.setClk_kept q2
    | apply Kept.foldl
    | split
    | extract_lets

theorem State.acquire_kept {ws : List Field} {s₀ s : State} (hs_ : Field.sub [.regs, .bar2, .out, .clk] ws = true)
    (kh_ : Kept ws s₀ s) : Kept ws s₀ (State.acquire s) := by
  have q0 := Field.sub_trans (by decide : Field.sub [.clk] [.regs, .bar2, .out, .clk] = true) hs_
  unfold State.acquire
  extract_lets -merge s1 _
  have k_s1 : Kept ws s₀ s1 := by
    unfold s1
    repeat' with_reducible first
      | assumption
      | intro _
      | apply Kept.ite
      | apply State.setLock_kept hs_
      | apply State.setClk_kept q0
      | apply Kept.foldl
      | split
      | extract_lets
  clear_value s1
  repeat' with_reducible first
    | assumption
    | intro _
    | apply Kept.ite
    | apply State.setLock_kept hs_
    | apply State.setClk_kept q0
    | apply Kept.foldl
    | split
    | extract_lets

theorem State.stepClapper_kept {ws : List Field} {s₀ s : State} (hs_ : Field.sub [.regs, .bar2, .out, .clapper, .clk, .cevs, .segArms, .slots] ws = true) (t : Nat)
    (kh_ : Kept ws s₀ s) : Kept ws s₀ (State.stepClapper s t) := by
  have q0 := Field.sub_trans (by decide : Field.sub [.regs, .bar2, .out] [.regs, .bar2, .out, .clapper, .clk, .cevs, .segArms, .slots] = true) hs_
  have q1 := Field.sub_trans (by decide : Field.sub [.clk] [.regs, .bar2, .out, .clapper, .clk, .cevs, .segArms, .slots] = true) hs_
  have q2 := Field.sub_trans (by decide : Field.sub [.clapper] [.regs, .bar2, .out, .clapper, .clk, .cevs, .segArms, .slots] = true) hs_
  have q3 := Field.sub_trans (by decide : Field.sub [.cevs] [.regs, .bar2, .out, .clapper, .clk, .cevs, .segArms, .slots] = true) hs_
  have q4 := Field.sub_trans (by decide : Field.sub [.segArms] [.regs, .bar2, .out, .clapper, .clk, .cevs, .segArms, .slots] = true) hs_
  have q5 := Field.sub_trans (by decide : Field.sub [.slots] [.regs, .bar2, .out, .clapper, .clk, .cevs, .segArms, .slots] = true) hs_
  unfold State.stepClapper
  extract_lets -merge ns s1 s2 s3 s4 _
  clear_value ns
  have k_s1 : Kept ws s₀ s1 := by
    unfold s1
    repeat' with_reducible first
      | assumption
      | intro _
      | apply Kept.ite
      | apply State.evt_kept q0
      | apply State.setClk_kept q1
      | apply Kept.foldl
      | split
      | extract_lets
      | apply Kept.set_clapper _ q2
      | apply Kept.set_cevs _ q3
      | apply Kept.set_segArms _ q4
      | apply Kept.set_slots _ q5
  clear_value s1
  have k_s2 : Kept ws s₀ s2 := by
    unfold s2
    repeat' with_reducible first
      | assumption
      | intro _
      | apply Kept.ite
      | apply State.evt_kept q0
      | apply State.setClk_kept q1
      | apply Kept.foldl
      | split
      | extract_lets
      | apply Kept.set_clapper _ q2
      | apply Kept.set_cevs _ q3
      | apply Kept.set_segArms _ q4
      | apply Kept.set_slots _ q5
  clear_value s2
  have k_s3 : Kept ws s₀ s3 := by
    unfold s3
    repeat' with_reducible first
      | assumption
      | intro _
      | apply Kept.ite
      | apply State.evt_kept q0
      | apply State.setClk_kept q1
      | apply Kept.foldl
      | split
      | extract_lets
      | apply Kept.set_clapper _ q2
      | apply Kept.set_cevs _ q3
      | apply Kept.set_segArms _ q4
      | apply Kept.set_slots _ q5
  clear_value s3
  have k_s4 : Kept ws s₀ s4 := by
    unfold s4
    repeat' with_reducible first
      | assumption
      | intro _
      | apply Kept.ite
      | apply State.evt_kept q0
      | apply State.setClk_kept q1
      | apply Kept.foldl
      | split
      | extract_lets
      | apply Kept.set_clapper _ q2
      | apply Kept.set_cevs _ q3
      | apply Kept.set_segArms _ q4
      | apply Kept.set_slots _ q5
  clear_value s4
  repeat' with_reducible first
    | assumption
    | intro _
    | apply Kept.ite
    | apply State.evt_kept q0
    | apply State.setClk_kept q1
    | apply Kept.foldl
    | split
    | extract_lets
    | apply Kept.set_clapper _ q2
    | apply Kept.set_cevs _ q3
    | apply Kept.set_segArms _ q4
    | apply Kept.set_slots _ q5

theorem State.slew_kept {ws : List Field} {s₀ s : State} (hs_ : Field.sub [.regs, .bar2, .out] ws = true) (off : Int)
    (kh_ : Kept ws s₀ s) : Kept ws s₀ (State.slew s off) := by
  have q0 := Field.sub_trans (by decide : Field.sub [.regs] [.regs, .bar2, .out] = true) hs_
  unfold State.slew
  extract_lets -merge nom bound want d sat s1
  clear_value nom bound want d sat
  have k_s1 : Kept ws s₀ s1 := by
    unfold s1
    repeat' with_reducible first
      | assumption
      | intro _
      | apply Kept.ite
      | apply State.evtIf_kept hs_
      | apply State.putBit_kept q0
      | apply State.setReg_kept q0
      | apply Kept.foldl
      | split
      | extract_lets
  clear_value s1
  repeat' with_reducible first
    | assumption
    | intro _
    | apply Kept.ite
    | apply State.evtIf_kept hs_
    | apply State.putBit_kept q0
    | apply State.setReg_kept q0
    | apply Kept.foldl
    | split
    | extract_lets

theorem State.measure_kept {ws : List Field} {s₀ s : State} (hs_ : Field.sub [.regs, .bar2, .out, .clapper, .clk, .cevs, .segArms, .slots] ws = true) (off : Int)
    (kh_ : Kept ws s₀ s) : Kept ws s₀ (State.measure s off) := by
  have q0 := Field.sub_trans (by decide : Field.sub [.regs, .bar2, .out] [.regs, .bar2, .out, .clapper, .clk, .cevs, .segArms, .slots] = true) hs_
  have q1 := Field.sub_trans (by decide : Field.sub [.regs, .bar2, .out, .clk] [.regs, .bar2, .out, .clapper, .clk, .cevs, .segArms, .slots] = true) hs_
  have q2 := Field.sub_trans (by decide : Field.sub [.clk] [.regs, .bar2, .out, .clapper, .clk, .cevs, .segArms, .slots] = true) hs_
  have q3 := Field.sub_trans (by decide : Field.sub [.regs] [.regs, .bar2, .out, .clapper, .clk, .cevs, .segArms, .slots] = true) hs_
  unfold State.measure
  extract_lets -merge s0 s1 big s2 good _ s3 s2_1 overs _ s3_1
  clear_value big good overs
  have k_s0 : Kept ws s₀ s0 := by
    unfold s0
    repeat' with_reducible first
      | assumption
      | intro _
      | apply Kept.ite
      | apply State.slew_kept q0
      | apply State.stepClapper_kept hs_
      | apply State.acquire_kept q1
      | apply State.setLock_kept q1
      | apply State.setClk_kept q2
      | apply State.setReg_kept q3
      | apply Kept.foldl
      | split
      | extract_lets
  clear_value s0
  have k_s1 : Kept ws s₀ s1 := by
    unfold s1
    repeat' with_reducible first
      | assumption
      | intro _
      | apply Kept.ite
      | apply State.slew_kept q0
      | apply State.stepClapper_kept hs_
      | apply State.acquire_kept q1
      | apply State.setLock_kept q1
      | apply State.setClk_kept q2
      | apply State.setReg_kept q3
      | apply Kept.foldl
      | split
      | extract_lets
  clear_value s1
  have k_s2 : Kept ws s₀ s2 := by
    unfold s2
    repeat' with_reducible first
      | assumption
      | intro _
      | apply Kept.ite
      | apply State.slew_kept q0
      | apply State.stepClapper_kept hs_
      | apply State.acquire_kept q1
      | apply State.setLock_kept q1
      | apply State.setClk_kept q2
      | apply State.setReg_kept q3
      | apply Kept.foldl
      | split
      | extract_lets
  clear_value s2
  have k_s3 : Kept ws s₀ s3 := by
    unfold s3
    repeat' with_reducible first
      | assumption
      | intro _
      | apply Kept.ite
      | apply State.slew_kept q0
      | apply State.stepClapper_kept hs_
      | apply State.acquire_kept q1
      | apply State.setLock_kept q1
      | apply State.setClk_kept q2
      | apply State.setReg_kept q3
      | apply Kept.foldl
      | split
      | extract_lets
  clear_value s3
  have k_s2_1 : Kept ws s₀ s2_1 := by
    unfold s2_1
    repeat' with_reducible first
      | assumption
      | intro _
      | apply Kept.ite
      | apply State.slew_kept q0
      | apply State.stepClapper_kept hs_
      | apply State.acquire_kept q1
      | apply State.setLock_kept q1
      | apply State.setClk_kept q2
      | apply State.setReg_kept q3
      | apply Kept.foldl
      | split
      | extract_lets
  clear_value s2_1
  have k_s3_1 : Kept ws s₀ s3_1 := by
    unfold s3_1
    repeat' with_reducible first
      | assumption
      | intro _
      | apply Kept.ite
      | apply State.slew_kept q0
      | apply State.stepClapper_kept hs_
      | apply State.acquire_kept q1
      | apply State.setLock_kept q1
      | apply State.setClk_kept q2
      | apply State.setReg_kept q3
      | apply Kept.foldl
      | split
      | extract_lets
  clear_value s3_1
  repeat' with_reducible first
    | assumption
    | intro _
    | apply Kept.ite
    | apply State.slew_kept q0
    | apply State.stepClapper_kept hs_
    | apply State.acquire_kept q1
    | apply State.setLock_kept q1
    | apply State.setClk_kept q2
    | apply State.setReg_kept q3
    | apply Kept.foldl
    | split
    | extract_lets

theorem State.synced_kept {ws : List Field} {s₀ s : State} (hs_ : Field.sub [.regs, .bar2, .out, .clapper, .clk, .cevs, .segArms, .slots] ws = true) (t1 : Int) (t2 : Nat)
    (kh_ : Kept ws s₀ s) : Kept ws s₀ (State.synced s t1 t2) := by
  have q0 := Field.sub_trans (by decide : Field.sub [.clk] [.regs, .bar2, .out, .clapper, .clk, .cevs, .segArms, .slots] = true) hs_
  unfold State.synced
  extract_lets -merge _ s1
  have k_s1 : Kept ws s₀ s1 := by
    unfold s1
    repeat' with_reducible first
      | assumption
      | intro _
      | apply Kept.ite
      | apply State.measure_kept hs_
      | apply State.setClk_kept q0
      | apply Kept.foldl
      | split
      | extract_lets
  clear_value s1
  repeat' with_reducible first
    | assumption
    | intro _
    | apply Kept.ite
    | apply State.measure_kept hs_
    | apply State.setClk_kept q0
    | apply Kept.foldl
    | split
    | extract_lets

theorem execPtpSync_kept {ws : List Field} {s₀ s : State} (hs_ : Field.sub [.regs, .bar2, .out, .clapper, .clk, .cevs, .segArms, .slots] ws = true) (m : PtpMsg)
    (kh_ : Kept ws s₀ s) : Kept ws s₀ (after s (execPtpSync m s)) := by
  have q0 := Field.sub_trans (by decide : Field.sub [.clk] [.regs, .bar2, .out, .clapper, .clk, .cevs, .segArms, .slots] = true) hs_
  unfold execPtpSync
  extract_lets -merge _
  repeat' with_reducible first
    | assumption
    | intro _
    | apply Kept.after_next
    | apply Kept.ite
    | apply State.synced_kept hs_
    | apply State.setClk_kept q0
    | apply Kept.foldl
    | split
    | extract_lets

theorem execPtpFollowUp_kept {ws : List Field} {s₀ s : State} (hs_ : Field.sub [.regs, .bar2, .out, .clapper, .clk, .cevs, .segArms, .slots] ws = true) (m : PtpMsg)
    (kh_ : Kept ws s₀ s) : Kept ws s₀ (after s (execPtpFollowUp m s)) := by
  unfold execPtpFollowUp
  repeat' with_reducible first
    | assumption
    | intro _
    | apply Kept.after_next
    | apply Kept.ite
    | apply State.synced_kept hs_
    | apply Kept.foldl
    | split
    | extract_lets

theorem execDelayReq_kept {ws : List Field} {s₀ s : State} (hs_ : Field.sub [.out, .clk] ws = true)
    (kh_ : Kept ws s₀ s) : Kept ws s₀ (after s (execDelayReq s)) := by
  have q0 := Field.sub_trans (by decide : Field.sub [.out] [.out, .clk] = true) hs_
  have q1 := Field.sub_trans (by decide : Field.sub [.clk] [.out, .clk] = true) hs_
  unfold execDelayReq
  extract_lets -merge _
  repeat' with_reducible first
    | assumption
    | intro _
    | apply Kept.after_next
    | apply Kept.ite
    | apply State.emit_kept q0
    | apply State.setClk_kept q1
    | apply Kept.foldl
    | split
    | extract_lets

theorem execPtpDelayResp_kept {ws : List Field} {s₀ s : State} (hs_ : Field.sub [.regs, .bar2, .out, .clapper, .clk, .cevs, .segArms, .slots] ws = true) (m : PtpMsg)
    (kh_ : Kept ws s₀ s) : Kept ws s₀ (after s (execPtpDelayResp m s)) := by
  have q0 := Field.sub_trans (by decide : Field.sub [.clk] [.regs, .bar2, .out, .clapper, .clk, .cevs, .segArms, .slots] = true) hs_
  unfold execPtpDelayResp
  extract_lets -merge t4 _
  clear_value t4
  repeat' with_reducible first
    | assumption
    | intro _
    | apply Kept.after_next
    | apply Kept.ite
    | apply State.measure_kept hs_
    | apply State.setClk_kept q0
    | apply Kept.foldl
    | split
    | extract_lets

theorem State.announce_kept {ws : List Field} {s₀ s : State} (hs_ : Field.sub [.regs, .bar2, .out, .clk] ws = true) (a : PtpAnnounce)
    (kh_ : Kept ws s₀ s) : Kept ws s₀ (State.announce s a) := by
  have q0 := Field.sub_trans (by decide : Field.sub [.regs] [.regs, .bar2, .out, .clk] = true) hs_
  have q1 := Field.sub_trans (by decide : Field.sub [.clk] [.regs, .bar2, .out, .clk] = true) hs_
  unfold State.announce
  extract_lets -merge fresh changed _ s1 s2 _
  clear_value fresh changed
  have k_s1 : Kept ws s₀ s1 := by
    unfold s1
    repeat' with_reducible first
      | assumption
      | intro _
      | apply Kept.ite
      | apply State.setNat_kept q0
      | apply State.acquire_kept hs_
      | apply State.setClk_kept q1
      | apply Kept.foldl
      | split
      | extract_lets
  clear_value s1
  have k_s2 : Kept ws s₀ s2 := by
    unfold s2
    repeat' with_reducible first
      | assumption
      | intro _
      | apply Kept.ite
      | apply State.setNat_kept q0
      | apply State.acquire_kept hs_
      | apply State.setClk_kept q1
      | apply Kept.foldl
      | split
      | extract_lets
  clear_value s2
  repeat' with_reducible first
    | assumption
    | intro _
    | apply Kept.ite
    | apply State.setNat_kept q0
    | apply State.acquire_kept hs_
    | apply State.setClk_kept q1
    | apply Kept.foldl
    | split
    | extract_lets

theorem execPtpAnnounce_kept {ws : List Field} {s₀ s : State} (hs_ : Field.sub [.regs, .bar2, .out, .clk] ws = true) (a : PtpAnnounce)
    (kh_ : Kept ws s₀ s) : Kept ws s₀ (after s (execPtpAnnounce a s)) := by
  unfold execPtpAnnounce
  repeat' with_reducible first
    | assumption
    | intro _
    | apply Kept.after_next
    | apply Kept.ite
    | apply State.announce_kept hs_
    | apply Kept.foldl
    | split
    | extract_lets

theorem State.sourceLost_kept {ws : List Field} {s₀ s : State} (hs_ : Field.sub [.regs, .bar2, .out, .clk] ws = true)
    (kh_ : Kept ws s₀ s) : Kept ws s₀ (State.sourceLost s) := by
  unfold State.sourceLost
  repeat' with_reducible first
    | assumption
    | intro _
    | apply Kept.ite
    | apply State.setLock_kept hs_
    | apply Kept.foldl
    | split
    | extract_lets

theorem execAnnounceReceiptTimeout_kept {ws : List Field} {s₀ s : State} (hs_ : Field.sub [.regs, .bar2, .out, .clk] ws = true)
    (kh_ : Kept ws s₀ s) : Kept ws s₀ (after s (execAnnounceReceiptTimeout s)) := by
  have q0 := Field.sub_trans (by decide : Field.sub [.clk] [.regs, .bar2, .out, .clk] = true) hs_
  unfold execAnnounceReceiptTimeout
  extract_lets -merge _
  repeat' with_reducible first
    | assumption
    | intro _
    | apply Kept.after_next
    | apply Kept.ite
    | apply State.sourceLost_kept hs_
    | apply State.setClk_kept q0
    | apply Kept.foldl
    | split
    | extract_lets

theorem execPpsInEdge_kept {ws : List Field} {s₀ s : State} (hs_ : Field.sub [.regs, .bar2, .out, .clapper, .clk, .cevs, .segArms, .slots] ws = true)
    (kh_ : Kept ws s₀ s) : Kept ws s₀ (after s (execPpsInEdge s)) := by
  have q0 := Field.sub_trans (by decide : Field.sub [.regs] [.regs, .bar2, .out, .clapper, .clk, .cevs, .segArms, .slots] = true) hs_
  have q1 := Field.sub_trans (by decide : Field.sub [.clk] [.regs, .bar2, .out, .clapper, .clk, .cevs, .segArms, .slots] = true) hs_
  unfold execPpsInEdge
  extract_lets -merge _ s1
  have k_s1 : Kept ws s₀ s1 := by
    unfold s1
    repeat' with_reducible first
      | assumption
      | intro _
      | apply Kept.after_next
      | apply Kept.ite
      | apply State.measure_kept hs_
      | apply State.putBit_kept q0
      | apply State.setClk_kept q1
      | apply Kept.foldl
      | split
      | extract_lets
  clear_value s1
  repeat' with_reducible first
    | assumption
    | intro _
    | apply Kept.after_next
    | apply Kept.ite
    | apply State.measure_kept hs_
    | apply State.putBit_kept q0
    | apply State.setClk_kept q1
    | apply Kept.foldl
    | split
    | extract_lets

theorem execPpsMissing_kept {ws : List Field} {s₀ s : State} (hs_ : Field.sub [.regs, .bar2, .out, .clk] ws = true)
    (kh_ : Kept ws s₀ s) : Kept ws s₀ (after s (execPpsMissing s)) := by
  have q0 := Field.sub_trans (by decide : Field.sub [.regs] [.regs, .bar2, .out, .clk] = true) hs_
  unfold execPpsMissing
  extract_lets -merge s1
  have k_s1 : Kept ws s₀ s1 := by
    unfold s1
    repeat' with_reducible first
      | assumption
      | intro _
      | apply Kept.after_next
      | apply Kept.ite
      | apply State.sourceLost_kept hs_
      | apply State.putBit_kept q0
      | apply Kept.foldl
      | split
      | extract_lets
  clear_value s1
  repeat' with_reducible first
    | assumption
    | intro _
    | apply Kept.after_next
    | apply Kept.ite
    | apply State.sourceLost_kept hs_
    | apply State.putBit_kept q0
    | apply Kept.foldl
    | split
    | extract_lets

theorem execHoldoverMaxExpire_kept {ws : List Field} {s₀ s : State} (hs_ : Field.sub [.regs, .bar2, .out, .clk] ws = true)
    (kh_ : Kept ws s₀ s) : Kept ws s₀ (after s (execHoldoverMaxExpire s)) := by
  unfold execHoldoverMaxExpire
  repeat' with_reducible first
    | assumption
    | intro _
    | apply Kept.after_next
    | apply Kept.ite
    | apply State.setLock_kept hs_
    | apply Kept.foldl
    | split
    | extract_lets

theorem execPpsOut_kept {ws : List Field} {s₀ s : State} (hs_ : Field.sub [.out, .clk] ws = true)
    (kh_ : Kept ws s₀ s) : Kept ws s₀ (after s (execPpsOut s)) := by
  have q0 := Field.sub_trans (by decide : Field.sub [.out] [.out, .clk] = true) hs_
  have q1 := Field.sub_trans (by decide : Field.sub [.clk] [.out, .clk] = true) hs_
  unfold execPpsOut
  extract_lets -merge sec _
  clear_value sec
  repeat' with_reducible first
    | assumption
    | intro _
    | apply Kept.after_next
    | apply Kept.ite
    | apply State.emit_kept q0
    | apply State.setClk_kept q1
    | apply Kept.foldl
    | split
    | extract_lets

theorem State.clkSet_kept {ws : List Field} {s₀ s : State} (hs_ : Field.sub [.regs, .bar2, .out, .clapper, .clk, .cevs, .segArms, .slots] ws = true) (req : Nat) (val : Word)
    (kh_ : Kept ws s₀ s) : Kept ws s₀ (State.clkSet s req val) := by
  have q0 := Field.sub_trans (by decide : Field.sub [.regs, .bar2, .out] [.regs, .bar2, .out, .clapper, .clk, .cevs, .segArms, .slots] = true) hs_
  unfold State.clkSet
  extract_lets -merge sec
  clear_value sec
  repeat' with_reducible first
    | assumption
    | intro _
    | apply Kept.ite
    | apply State.reject_kept q0
    | apply State.stepClapper_kept hs_
    | apply Kept.foldl
    | split
    | extract_lets

theorem execClkCmdSet_kept {ws : List Field} {s₀ s : State} (hs_ : Field.sub [.regs, .bar2, .out, .clapper, .clk, .cevs, .segArms, .slots] ws = true) (req : Nat) (val : Word)
    (kh_ : Kept ws s₀ s) : Kept ws s₀ (after s (execClkCmdSet req val s)) := by
  have q0 := Field.sub_trans (by decide : Field.sub [.regs, .bar2, .out] [.regs, .bar2, .out, .clapper, .clk, .cevs, .segArms, .slots] = true) hs_
  unfold execClkCmdSet
  repeat' with_reducible first
    | assumption
    | intro _
    | apply Kept.after_next
    | apply Kept.ite
    | apply State.asWrite_kept q0
    | apply State.clkSet_kept hs_
    | apply Kept.foldl
    | split
    | extract_lets

theorem State.clkCfg_kept {ws : List Field} {s₀ s : State} (hs_ : Field.sub [.regs, .bar2, .out, .clk] ws = true) (req : Nat) (val : Word)
    (kh_ : Kept ws s₀ s) : Kept ws s₀ (State.clkCfg s req val) := by
  have q0 := Field.sub_trans (by decide : Field.sub [.regs, .bar2, .out] [.regs, .bar2, .out, .clk] = true) hs_
  have q1 := Field.sub_trans (by decide : Field.sub [.regs] [.regs, .bar2, .out, .clk] = true) hs_
  have q2 := Field.sub_trans (by decide : Field.sub [.clk] [.regs, .bar2, .out, .clk] = true) hs_
  unfold State.clkCfg
  extract_lets -merge old
  clear_value old
  repeat' with_reducible first
    | assumption
    | intro _
    | apply Kept.ite
    | apply State.reject_kept q0
    | apply State.setNat_kept q1
    | apply State.acquire_kept hs_
    | apply State.putBit_kept q1
    | apply State.setLock_kept hs_
    | apply State.setClk_kept q2
    | apply State.setReg_kept q1
    | apply Kept.foldl
    | split
    | extract_lets

theorem execClkCfgWrite_kept {ws : List Field} {s₀ s : State} (hs_ : Field.sub [.regs, .bar2, .out, .clk] ws = true) (req : Nat) (val : Word)
    (kh_ : Kept ws s₀ s) : Kept ws s₀ (after s (execClkCfgWrite req val s)) := by
  have q0 := Field.sub_trans (by decide : Field.sub [.regs, .bar2, .out] [.regs, .bar2, .out, .clk] = true) hs_
  unfold execClkCfgWrite
  repeat' with_reducible first
    | assumption
    | intro _
    | apply Kept.after_next
    | apply Kept.ite
    | apply State.asWrite_kept q0
    | apply State.clkCfg_kept hs_
    | apply Kept.foldl
    | split
    | extract_lets

end Sys2Proof.Machine
end

