-- ==== Sys2Proof/Laws/KEnsemble.lean ====
section
/-!
SUPPORT. Laws/KEnsemble.lean: what each operation of Machine/Ensemble.lean may change, and that it keeps the canonical form.
-/
namespace Sys2Proof.Machine

theorem State.setPort_kept {ws : List Field} {s₀ s : State} (hs_ : Field.sub [.ports] ws = true) (site p : Nat) (x : Port)
    (kh_ : Kept ws s₀ s) : Kept ws s₀ (State.setPort s site p x) := by
  unfold State.setPort
  repeat' with_reducible first
    | assumption
    | intro _
    | apply Kept.ite
    | apply Kept.foldl
    | split
    | extract_lets
    | apply Kept.set_ports _ hs_

theorem State.setRoute_kept {ws : List Field} {s₀ s : State} (hs_ : Field.sub [.regs] ws = true) (d port site hops : Nat)
    (kh_ : Kept ws s₀ s) : Kept ws s₀ (State.setRoute s d port site hops) := by
  unfold State.setRoute
  repeat' with_reducible first
    | assumption
    | intro _
    | apply Kept.ite
    | apply State.setNat_kept hs_
    | apply Kept.foldl
    | split
    | extract_lets

theorem State.reroute_kept {ws : List Field} {s₀ s : State} (hs_ : Field.sub [.regs] ws = true) (d : Nat)
    (kh_ : Kept ws s₀ s) : Kept ws s₀ (State.reroute s d) := by
  unfold State.reroute
  extract_lets -merge me cands
  clear_value me cands
  repeat' with_reducible first
    | assumption
    | intro _
    | apply Kept.ite
    | apply State.setRoute_kept hs_
    | apply State.setNat_kept hs_
    | apply Kept.foldl
    | split
    | extract_lets

theorem State.formRoutes_kept {ws : List Field} {s₀ s : State} (hs_ : Field.sub [.regs] ws = true)
    (kh_ : Kept ws s₀ s) : Kept ws s₀ (State.formRoutes s) := by
  unfold State.formRoutes
  repeat' with_reducible first
    | assumption
    | intro _
    | apply Kept.ite
    | apply State.reroute_kept hs_
    | apply State.setRoute_kept hs_
    | apply State.setNat_kept hs_
    | apply Kept.foldl
    | split
    | extract_lets

theorem State.sendRelay_kept {ws : List Field} {s₀ s : State} (hs_ : Field.sub [.out, .ports] ws = true) (site p ty dst : Nat)
    (kh_ : Kept ws s₀ s) : Kept ws s₀ (State.sendRelay s site p ty dst) := by
  have q0 := Field.sub_trans (by decide : Field.sub [.out] [.out, .ports] = true) hs_
  have q1 := Field.sub_trans (by decide : Field.sub [.ports] [.out, .ports] = true) hs_
  unfold State.sendRelay
  extract_lets -merge x
  clear_value x
  repeat' with_reducible first
    | assumption
    | intro _
    | apply Kept.ite
    | apply State.emit_kept q0
    | apply State.setPort_kept q1
    | apply Kept.foldl
    | split
    | extract_lets

theorem State.forward_kept {ws : List Field} {s₀ s : State} (hs_ : Field.sub [.out, .ports] ws = true) (dst : Nat)
    (kh_ : Kept ws s₀ s) : Kept ws s₀ (State.forward s dst) := by
  unfold State.forward
  repeat' with_reducible first
    | assumption
    | intro _
    | apply Kept.ite
    | apply State.sendRelay_kept hs_
    | apply Kept.foldl
    | split
    | extract_lets

theorem State.portDown_kept {ws : List Field} {s₀ s : State} (hs_ : Field.sub [.regs, .bar2, .out, .ports] ws = true) (site p code : Nat)
    (kh_ : Kept ws s₀ s) : Kept ws s₀ (State.portDown s site p code) := by
  have q0 := Field.sub_trans (by decide : Field.sub [.regs, .bar2, .out] [.regs, .bar2, .out, .ports] = true) hs_
  have q1 := Field.sub_trans (by decide : Field.sub [.out, .ports] [.regs, .bar2, .out, .ports] = true) hs_
  have q2 := Field.sub_trans (by decide : Field.sub [.regs] [.regs, .bar2, .out, .ports] = true) hs_
  have q3 := Field.sub_trans (by decide : Field.sub [.ports] [.regs, .bar2, .out, .ports] = true) hs_
  unfold State.portDown
  extract_lets -merge x s1 s2 s3
  clear_value x
  have k_s1 : Kept ws s₀ s1 := by
    unfold s1
    repeat' with_reducible first
      | assumption
      | intro _
      | apply Kept.ite
      | apply State.toFault_kept q0
      | apply State.evt_kept q0
      | apply State.forward_kept q1
      | apply State.reroute_kept q2
      | apply State.putFld_kept q2
      | apply State.setPort_kept q3
      | apply Kept.foldl
      | split
      | extract_lets
  clear_value s1
  have k_s2 : Kept ws s₀ s2 := by
    unfold s2
    repeat' with_reducible first
      | assumption
      | intro _
      | apply Kept.ite
      | apply State.toFault_kept q0
      | apply State.evt_kept q0
      | apply State.forward_kept q1
      | apply State.reroute_kept q2
      | apply State.putFld_kept q2
      | apply State.setPort_kept q3
      | apply Kept.foldl
      | split
      | extract_lets
  clear_value s2
  have k_s3 : Kept ws s₀ s3 := by
    unfold s3
    repeat' with_reducible first
      | assumption
      | intro _
      | apply Kept.ite
      | apply State.toFault_kept q0
      | apply State.evt_kept q0
      | apply State.forward_kept q1
      | apply State.reroute_kept q2
      | apply State.putFld_kept q2
      | apply State.setPort_kept q3
      | apply Kept.foldl
      | split
      | extract_lets
  clear_value s3
  repeat' with_reducible first
    | assumption
    | intro _
    | apply Kept.ite
    | apply State.toFault_kept q0
    | apply State.evt_kept q0
    | apply State.forward_kept q1
    | apply State.reroute_kept q2
    | apply State.putFld_kept q2
    | apply State.setPort_kept q3
    | apply Kept.foldl
    | split
    | extract_lets

theorem execPortTrained_kept {ws : List Field} {s₀ s : State} (hs_ : Field.sub [.regs, .bar2, .out] ws = true) (site p : Nat)
    (kh_ : Kept ws s₀ s) : Kept ws s₀ (after s (execPortTrained site p s)) := by
  have q0 := Field.sub_trans (by decide : Field.sub [.regs] [.regs, .bar2, .out] = true) hs_
  unfold execPortTrained
  extract_lets -merge a
  clear_value a
  repeat' with_reducible first
    | assumption
    | intro _
    | apply Kept.after_next
    | apply Kept.ite
    | apply State.setSt_kept hs_
    | apply State.putBit_kept q0
    | apply Kept.foldl
    | split
    | extract_lets

theorem execTrainFail_kept {ws : List Field} {s₀ s : State} (hs_ : Field.sub [.regs, .bar2, .out] ws = true) (site p : Nat)
    (kh_ : Kept ws s₀ s) : Kept ws s₀ (after s (execTrainFail site p s)) := by
  have q0 := Field.sub_trans (by decide : Field.sub [.regs] [.regs, .bar2, .out] = true) hs_
  unfold execTrainFail
  repeat' with_reducible first
    | assumption
    | intro _
    | apply Kept.after_next
    | apply Kept.ite
    | apply State.toFault_kept hs_
    | apply State.putFld_kept q0
    | apply Kept.foldl
    | split
    | extract_lets

theorem execPeerAuth_kept {ws : List Field} {s₀ s : State} (hs_ : Field.sub [.regs, .bar2, .out, .sec, .ports] ws = true) (site p : Nat) (peer : PeerStatement)
    (kh_ : Kept ws s₀ s) : Kept ws s₀ (after s (execPeerAuth site p peer s)) := by
  have q0 := Field.sub_trans (by decide : Field.sub [.regs, .bar2, .out] [.regs, .bar2, .out, .sec, .ports] = true) hs_
  have q1 := Field.sub_trans (by decide : Field.sub [.regs] [.regs, .bar2, .out, .sec, .ports] = true) hs_
  have q2 := Field.sub_trans (by decide : Field.sub [.ports] [.regs, .bar2, .out, .sec, .ports] = true) hs_
  have q3 := Field.sub_trans (by decide : Field.sub [.sec] [.regs, .bar2, .out, .sec, .ports] = true) hs_
  unfold execPeerAuth
  extract_lets -merge a key _ s1 s2
  clear_value a key
  have k_s1 : Kept ws s₀ s1 := by
    unfold s1
    repeat' with_reducible first
      | assumption
      | intro _
      | apply Kept.after_next
      | apply Kept.ite
      | apply State.toFault_kept q0
      | apply State.setSt_kept q0
      | apply State.setNat_kept q1
      | apply State.putFld_kept q1
      | apply State.setPort_kept q2
      | apply Kept.foldl
      | split
      | extract_lets
      | apply Kept.set_sec _ q3
  clear_value s1
  have k_s2 : Kept ws s₀ s2 := by
    unfold s2
    repeat' with_reducible first
      | assumption
      | intro _
      | apply Kept.after_next
      | apply Kept.ite
      | apply State.toFault_kept q0
      | apply State.setSt_kept q0
      | apply State.setNat_kept q1
      | apply State.putFld_kept q1
      | apply State.setPort_kept q2
      | apply Kept.foldl
      | split
      | extract_lets
      | apply Kept.set_sec _ q3
  clear_value s2
  repeat' with_reducible first
    | assumption
    | intro _
    | apply Kept.after_next
    | apply Kept.ite
    | apply State.toFault_kept q0
    | apply State.setSt_kept q0
    | apply State.setNat_kept q1
    | apply State.putFld_kept q1
    | apply State.setPort_kept q2
    | apply Kept.foldl
    | split
    | extract_lets
    | apply Kept.set_sec _ q3

theorem State.relayIn_kept {ws : List Field} {s₀ s : State} (hs_ : Field.sub [.regs, .bar2, .out, .ports] ws = true) (site p : Nat) (f : RelayFrame) (k : State → State) (h_k : ∀ t0, Kept ws s₀ t0 → Kept ws s₀ (k t0))
    (kh_ : Kept ws s₀ s) : Kept ws s₀ (State.relayIn s site p f k) := by
  have q0 := Field.sub_trans (by decide : Field.sub [.out, .ports] [.regs, .bar2, .out, .ports] = true) hs_
  have q1 := Field.sub_trans (by decide : Field.sub [.regs] [.regs, .bar2, .out, .ports] = true) hs_
  have q2 := Field.sub_trans (by decide : Field.sub [.ports] [.regs, .bar2, .out, .ports] = true) hs_
  unfold State.relayIn
  extract_lets -merge a x s1 s2 s3
  clear_value a x
  have k_s1 : Kept ws s₀ s1 := by
    unfold s1
    repeat' with_reducible first
      | assumption
      | intro _
      | apply h_k
      | apply Kept.ite
      | apply State.portDown_kept hs_
      | apply State.sendRelay_kept q0
      | apply State.addSat_kept q1
      | apply State.setPort_kept q2
      | apply Kept.foldl
      | split
      | extract_lets
  clear_value s1
  have k_s2 : Kept ws s₀ s2 := by
    unfold s2
    repeat' with_reducible first
      | assumption
      | intro _
      | apply h_k
      | apply Kept.ite
      | apply State.portDown_kept hs_
      | apply State.sendRelay_kept q0
      | apply State.addSat_kept q1
      | apply State.setPort_kept q2
      | apply Kept.foldl
      | split
      | extract_lets
  clear_value s2
  have k_s3 : Kept ws s₀ s3 := by
    unfold s3
    repeat' with_reducible first
      | assumption
      | intro _
      | apply h_k
      | apply Kept.ite
      | apply State.portDown_kept hs_
      | apply State.sendRelay_kept q0
      | apply State.addSat_kept q1
      | apply State.setPort_kept q2
      | apply Kept.foldl
      | split
      | extract_lets
  clear_value s3
  repeat' with_reducible first
    | assumption
    | intro _
    | apply h_k
    | apply Kept.ite
    | apply State.portDown_kept hs_
    | apply State.sendRelay_kept q0
    | apply State.addSat_kept q1
    | apply State.setPort_kept q2
    | apply Kept.foldl
    | split
    | extract_lets

theorem execDataFrame_kept {ws : List Field} {s₀ s : State} (hs_ : Field.sub [.regs, .bar2, .out, .ports] ws = true) (site p : Nat) (f : RelayFrame)
    (kh_ : Kept ws s₀ s) : Kept ws s₀ (after s (execDataFrame site p f s)) := by
  have q0 := Field.sub_trans (by decide : Field.sub [.out, .ports] [.regs, .bar2, .out, .ports] = true) hs_
  unfold execDataFrame
  repeat' with_reducible first
    | assumption
    | intro _
    | apply Kept.after_next
    | apply Kept.ite
    | apply State.relayIn_kept hs_
    | apply State.forward_kept q0
    | apply State.sendRelay_kept q0
    | apply Kept.foldl
    | split
    | extract_lets

theorem execAckFrame_kept {ws : List Field} {s₀ s : State} (hs_ : Field.sub [.regs, .bar2, .out, .ports] ws = true) (site p : Nat) (f : RelayFrame)
    (kh_ : Kept ws s₀ s) : Kept ws s₀ (after s (execAckFrame site p f s)) := by
  have q0 := Field.sub_trans (by decide : Field.sub [.ports] [.regs, .bar2, .out, .ports] = true) hs_
  unfold execAckFrame
  repeat' with_reducible first
    | assumption
    | intro _
    | apply Kept.after_next
    | apply Kept.ite
    | apply State.relayIn_kept hs_
    | apply State.setPort_kept q0
    | apply Kept.foldl
    | split
    | extract_lets

theorem execTimeFrame_kept {ws : List Field} {s₀ s : State} (hs_ : Field.sub [.regs, .bar2, .out, .clk, .ports] ws = true) (site p : Nat) (f : RelayFrame)
    (kh_ : Kept ws s₀ s) : Kept ws s₀ (after s (execTimeFrame site p f s)) := by
  have q0 := Field.sub_trans (by decide : Field.sub [.regs, .bar2, .out, .ports] [.regs, .bar2, .out, .clk, .ports] = true) hs_
  have q1 := Field.sub_trans (by decide : Field.sub [.regs, .bar2, .out] [.regs, .bar2, .out, .clk, .ports] = true) hs_
  have q2 := Field.sub_trans (by decide : Field.sub [.regs, .bar2, .out, .clk] [.regs, .bar2, .out, .clk, .ports] = true) hs_
  have q3 := Field.sub_trans (by decide : Field.sub [.regs] [.regs, .bar2, .out, .clk, .ports] = true) hs_
  unfold execTimeFrame
  repeat' with_reducible first
    | assumption
    | intro _
    | apply Kept.after_next
    | apply Kept.ite
    | apply State.relayIn_kept q0
    | apply State.slew_kept q1
    | apply State.setLock_kept q2
    | apply State.setReg_kept q3
    | apply Kept.foldl
    | split
    | extract_lets

theorem State.dropKeys_kept {ws : List Field} {s₀ s : State} (hs_ : Field.sub [.regs, .bar2, .out, .ens, .ports] ws = true) (links : Bool)
    (kh_ : Kept ws s₀ s) : Kept ws s₀ (State.dropKeys s links) := by
  have q0 := Field.sub_trans (by decide : Field.sub [.regs, .bar2, .out] [.regs, .bar2, .out, .ens, .ports] = true) hs_
  have q1 := Field.sub_trans (by decide : Field.sub [.regs] [.regs, .bar2, .out, .ens, .ports] = true) hs_
  have q2 := Field.sub_trans (by decide : Field.sub [.ports] [.regs, .bar2, .out, .ens, .ports] = true) hs_
  have q3 := Field.sub_trans (by decide : Field.sub [.ens] [.regs, .bar2, .out, .ens, .ports] = true) hs_
  unfold State.dropKeys
  extract_lets -merge _ s1
  have k_s1 : Kept ws s₀ s1 := by
    unfold s1
    repeat' with_reducible first
      | assumption
      | intro _
      | apply Kept.ite
      | apply State.setSt_kept q0
      | apply State.putFld_kept q1
      | apply State.setPort_kept q2
      | apply Kept.foldl
      | split
      | extract_lets
      | apply Kept.set_ens _ q3
  clear_value s1
  repeat' with_reducible first
    | assumption
    | intro _
    | apply Kept.ite
    | apply State.setSt_kept q0
    | apply State.putFld_kept q1
    | apply State.setPort_kept q2
    | apply Kept.foldl
    | split
    | extract_lets
    | apply Kept.set_ens _ q3

theorem State.solo_kept {ws : List Field} {s₀ s : State} (hs_ : Field.sub [.regs] ws = true) (fail : Nat)
    (kh_ : Kept ws s₀ s) : Kept ws s₀ (State.solo s fail) := by
  unfold State.solo
  extract_lets -merge lead s1
  clear_value lead
  have k_s1 : Kept ws s₀ s1 := by
    unfold s1
    repeat' with_reducible first
      | assumption
      | intro _
      | apply Kept.ite
      | apply State.setNat_kept hs_
      | apply Kept.foldl
      | split
      | extract_lets
  clear_value s1
  repeat' with_reducible first
    | assumption
    | intro _
    | apply Kept.ite
    | apply State.setNat_kept hs_
    | apply Kept.foldl
    | split
    | extract_lets

theorem State.formAs_kept {ws : List Field} {s₀ s : State} (hs_ : Field.sub [.regs, .ens] ws = true) (me n : Nat) (torus : Bool) (st up lost : Nat)
    (kh_ : Kept ws s₀ s) : Kept ws s₀ (State.formAs s me n torus st up lost) := by
  have q0 := Field.sub_trans (by decide : Field.sub [.regs] [.regs, .ens] = true) hs_
  have q1 := Field.sub_trans (by decide : Field.sub [.ens] [.regs, .ens] = true) hs_
  unfold State.formAs
  extract_lets -merge lead s1 _ s2
  clear_value lead
  have k_s1 : Kept ws s₀ s1 := by
    unfold s1
    repeat' with_reducible first
      | assumption
      | intro _
      | apply Kept.ite
      | apply State.formRoutes_kept q0
      | apply State.setNat_kept q0
      | apply Kept.foldl
      | split
      | extract_lets
      | apply Kept.set_ens _ q1
  clear_value s1
  have k_s2 : Kept ws s₀ s2 := by
    unfold s2
    repeat' with_reducible first
      | assumption
      | intro _
      | apply Kept.ite
      | apply State.formRoutes_kept q0
      | apply State.setNat_kept q0
      | apply Kept.foldl
      | split
      | extract_lets
      | apply Kept.set_ens _ q1
  clear_value s2
  repeat' with_reducible first
    | assumption
    | intro _
    | apply Kept.ite
    | apply State.formRoutes_kept q0
    | apply State.setNat_kept q0
    | apply Kept.foldl
    | split
    | extract_lets
    | apply Kept.set_ens _ q1

theorem State.ensServe_kept {ws : List Field} {s₀ s : State} (hs_ : Field.sub [.regs, .bar2, .out, .loads] ws = true) (t op len : Nat) (k : State → State) (h_k : ∀ t0, Kept ws s₀ t0 → Kept ws s₀ (k t0))
    (kh_ : Kept ws s₀ s) : Kept ws s₀ (State.ensServe s t op len k) := by
  unfold State.ensServe
  repeat' with_reducible first
    | assumption
    | intro _
    | apply h_k
    | apply Kept.ite
    | apply State.mbServe_kept hs_
    | apply State.mbReply_kept hs_
    | apply Kept.foldl
    | split
    | extract_lets

theorem execEnsForm_kept {ws : List Field} {s₀ s : State} (hs_ : Field.sub [.regs, .bar2, .out, .ens, .loads] ws = true) (t : Nat) (found : EnsFound)
    (kh_ : Kept ws s₀ s) : Kept ws s₀ (after s (execEnsForm t found s)) := by
  have q0 := Field.sub_trans (by decide : Field.sub [.regs, .bar2, .out, .loads] [.regs, .bar2, .out, .ens, .loads] = true) hs_
  have q1 := Field.sub_trans (by decide : Field.sub [.regs, .ens] [.regs, .bar2, .out, .ens, .loads] = true) hs_
  have q2 := Field.sub_trans (by decide : Field.sub [.regs] [.regs, .bar2, .out, .ens, .loads] = true) hs_
  have q3 := Field.sub_trans (by decide : Field.sub [.regs, .bar2, .out] [.regs, .bar2, .out, .ens, .loads] = true) hs_
  unfold execEnsForm
  repeat' with_reducible first
    | assumption
    | intro _
    | apply Kept.after_next
    | apply Kept.ite
    | apply State.ensServe_kept q0
    | apply State.formAs_kept q1
    | apply State.solo_kept q2
    | apply State.evt_kept q3
    | apply State.mbReply_kept q0
    | apply Kept.foldl
    | split
    | extract_lets

theorem execEnsRejoin_kept {ws : List Field} {s₀ s : State} (hs_ : Field.sub [.regs, .bar2, .out, .ens, .loads] ws = true) (t : Nat) (found : EnsFound)
    (kh_ : Kept ws s₀ s) : Kept ws s₀ (after s (execEnsRejoin t found s)) := by
  have q0 := Field.sub_trans (by decide : Field.sub [.regs, .bar2, .out, .loads] [.regs, .bar2, .out, .ens, .loads] = true) hs_
  have q1 := Field.sub_trans (by decide : Field.sub [.regs, .ens] [.regs, .bar2, .out, .ens, .loads] = true) hs_
  have q2 := Field.sub_trans (by decide : Field.sub [.regs, .bar2, .out] [.regs, .bar2, .out, .ens, .loads] = true) hs_
  unfold execEnsRejoin
  repeat' with_reducible first
    | assumption
    | intro _
    | apply Kept.after_next
    | apply Kept.ite
    | apply State.ensServe_kept q0
    | apply State.formAs_kept q1
    | apply State.evtIf_kept q2
    | apply State.mbReply_kept q0
    | apply Kept.foldl
    | split
    | extract_lets

theorem execEnsDissolve_kept {ws : List Field} {s₀ s : State} (hs_ : Field.sub [.regs, .bar2, .out, .ens, .ports, .loads] ws = true) (t : Nat)
    (kh_ : Kept ws s₀ s) : Kept ws s₀ (after s (execEnsDissolve t s)) := by
  have q0 := Field.sub_trans (by decide : Field.sub [.regs, .bar2, .out, .loads] [.regs, .bar2, .out, .ens, .ports, .loads] = true) hs_
  have q1 := Field.sub_trans (by decide : Field.sub [.regs] [.regs, .bar2, .out, .ens, .ports, .loads] = true) hs_
  have q2 := Field.sub_trans (by decide : Field.sub [.regs, .bar2, .out, .ens, .ports] [.regs, .bar2, .out, .ens, .ports, .loads] = true) hs_
  unfold execEnsDissolve
  repeat' with_reducible first
    | assumption
    | intro _
    | apply Kept.after_next
    | apply Kept.ite
    | apply State.ensServe_kept q0
    | apply State.solo_kept q1
    | apply State.dropKeys_kept q2
    | apply State.mbReply_kept q0
    | apply Kept.foldl
    | split
    | extract_lets

theorem State.dropPeer_kept {ws : List Field} {s₀ s : State} (hs_ : Field.sub [.regs, .bar2, .out, .ports] ws = true) (p : Nat)
    (kh_ : Kept ws s₀ s) : Kept ws s₀ (State.dropPeer s p) := by
  have q0 := Field.sub_trans (by decide : Field.sub [.regs, .bar2, .out] [.regs, .bar2, .out, .ports] = true) hs_
  have q1 := Field.sub_trans (by decide : Field.sub [.regs] [.regs, .bar2, .out, .ports] = true) hs_
  have q2 := Field.sub_trans (by decide : Field.sub [.ports] [.regs, .bar2, .out, .ports] = true) hs_
  unfold State.dropPeer
  repeat' with_reducible first
    | assumption
    | intro _
    | apply Kept.ite
    | apply State.setSt_kept q0
    | apply State.putFld_kept q1
    | apply State.setPort_kept q2
    | apply Kept.foldl
    | split
    | extract_lets

theorem State.losePackage_kept {ws : List Field} {s₀ s : State} (hs_ : Field.sub [.regs, .bar2, .out, .slots, .groups, .ens, .ports] ws = true) (p : Nat)
    (kh_ : Kept ws s₀ s) : Kept ws s₀ (State.losePackage s p) := by
  have q0 := Field.sub_trans (by decide : Field.sub [.regs, .bar2, .out, .ports] [.regs, .bar2, .out, .slots, .groups, .ens, .ports] = true) hs_
  have q1 := Field.sub_trans (by decide : Field.sub [.regs, .bar2, .out] [.regs, .bar2, .out, .slots, .groups, .ens, .ports] = true) hs_
  have q2 := Field.sub_trans (by decide : Field.sub [.regs] [.regs, .bar2, .out, .slots, .groups, .ens, .ports] = true) hs_
  have q3 := Field.sub_trans (by decide : Field.sub [.regs, .bar2, .out, .slots, .groups] [.regs, .bar2, .out, .slots, .groups, .ens, .ports] = true) hs_
  have q4 := Field.sub_trans (by decide : Field.sub [.ens] [.regs, .bar2, .out, .slots, .groups, .ens, .ports] = true) hs_
  unfold State.losePackage
  extract_lets -merge deg s1 _ s2 s3 s4
  clear_value deg
  have k_s1 : Kept ws s₀ s1 := by
    unfold s1
    repeat' with_reducible first
      | assumption
      | intro _
      | apply Kept.ite
      | apply State.dropPeer_kept q0
      | apply State.evtIf_kept q1
      | apply State.evt_kept q1
      | apply State.reroute_kept q2
      | apply State.abortGroup_kept q3
      | apply State.setNat_kept q2
      | apply State.putBit_kept q2
      | apply State.putFld_kept q2
      | apply Kept.foldl
      | split
      | extract_lets
      | apply Kept.set_ens _ q4
  clear_value s1
  have k_s2 : Kept ws s₀ s2 := by
    unfold s2
    repeat' with_reducible first
      | assumption
      | intro _
      | apply Kept.ite
      | apply State.dropPeer_kept q0
      | apply State.evtIf_kept q1
      | apply State.evt_kept q1
      | apply State.reroute_kept q2
      | apply State.abortGroup_kept q3
      | apply State.setNat_kept q2
      | apply State.putBit_kept q2
      | apply State.putFld_kept q2
      | apply Kept.foldl
      | split
      | extract_lets
      | apply Kept.set_ens _ q4
  clear_value s2
  have k_s3 : Kept ws s₀ s3 := by
    unfold s3
    repeat' with_reducible first
      | assumption
      | intro _
      | apply Kept.ite
      | apply State.dropPeer_kept q0
      | apply State.evtIf_kept q1
      | apply State.evt_kept q1
      | apply State.reroute_kept q2
      | apply State.abortGroup_kept q3
      | apply State.setNat_kept q2
      | apply State.putBit_kept q2
      | apply State.putFld_kept q2
      | apply Kept.foldl
      | split
      | extract_lets
      | apply Kept.set_ens _ q4
  clear_value s3
  have k_s4 : Kept ws s₀ s4 := by
    unfold s4
    repeat' with_reducible first
      | assumption
      | intro _
      | apply Kept.ite
      | apply State.dropPeer_kept q0
      | apply State.evtIf_kept q1
      | apply State.evt_kept q1
      | apply State.reroute_kept q2
      | apply State.abortGroup_kept q3
      | apply State.setNat_kept q2
      | apply State.putBit_kept q2
      | apply State.putFld_kept q2
      | apply Kept.foldl
      | split
      | extract_lets
      | apply Kept.set_ens _ q4
  clear_value s4
  repeat' with_reducible first
    | assumption
    | intro _
    | apply Kept.ite
    | apply State.dropPeer_kept q0
    | apply State.evtIf_kept q1
    | apply State.evt_kept q1
    | apply State.reroute_kept q2
    | apply State.abortGroup_kept q3
    | apply State.setNat_kept q2
    | apply State.putBit_kept q2
    | apply State.putFld_kept q2
    | apply Kept.foldl
    | split
    | extract_lets
    | apply Kept.set_ens _ q4

theorem execPkgLost_kept {ws : List Field} {s₀ s : State} (hs_ : Field.sub [.regs, .bar2, .out, .slots, .groups, .ens, .ports] ws = true) (p : Nat) (_cause : LossCause)
    (kh_ : Kept ws s₀ s) : Kept ws s₀ (after s (execPkgLost p _cause s)) := by
  unfold execPkgLost
  repeat' with_reducible first
    | assumption
    | intro _
    | apply Kept.after_next
    | apply Kept.ite
    | apply State.losePackage_kept hs_
    | apply Kept.foldl
    | split
    | extract_lets

theorem State.isolate_kept {ws : List Field} {s₀ s : State} (hs_ : Field.sub [.regs, .back, .bar2, .out, .clk, .ens, .ports, .ram, .hmem, .rings, .strms, .axes, .grps, .slotRings, .cueQs, .binFlags, .slates, .cancels, .tqs, .sched, .dqs, .cores, .cmbs, .engs, .mmus, .poison, .bndTaken] ws = true)
    (kh_ : Kept ws s₀ s) : Kept ws s₀ (State.isolate s) := by
  have q0 := Field.sub_trans (by decide : Field.sub [.regs, .back, .bar2, .out, .ram, .hmem, .slotRings, .cueQs, .binFlags, .slates, .dqs, .cores, .cmbs, .engs, .mmus, .poison, .bndTaken] [.regs, .back, .bar2, .out, .clk, .ens, .ports, .ram, .hmem, .rings, .strms, .axes, .grps, .slotRings, .cueQs, .binFlags, .slates, .cancels, .tqs, .sched, .dqs, .cores, .cmbs, .engs, .mmus, .poison, .bndTaken] = true) hs_
  have q1 := Field.sub_trans (by decide : Field.sub [.regs, .back, .bar2, .out, .ram, .hmem, .slotRings, .cancels, .tqs, .sched, .dqs, .cores, .cmbs, .engs, .mmus, .poison] [.regs, .back, .bar2, .out, .clk, .ens, .ports, .ram, .hmem, .rings, .strms, .axes, .grps, .slotRings, .cueQs, .binFlags, .slates, .cancels, .tqs, .sched, .dqs, .cores, .cmbs, .engs, .mmus, .poison, .bndTaken] = true) hs_
  have q2 := Field.sub_trans (by decide : Field.sub [.regs, .bar2, .out, .ens, .ports] [.regs, .back, .bar2, .out, .clk, .ens, .ports, .ram, .hmem, .rings, .strms, .axes, .grps, .slotRings, .cueQs, .binFlags, .slates, .cancels, .tqs, .sched, .dqs, .cores, .cmbs, .engs, .mmus, .poison, .bndTaken] = true) hs_
  have q3 := Field.sub_trans (by decide : Field.sub [.regs, .bar2, .out, .clk] [.regs, .back, .bar2, .out, .clk, .ens, .ports, .ram, .hmem, .rings, .strms, .axes, .grps, .slotRings, .cueQs, .binFlags, .slates, .cancels, .tqs, .sched, .dqs, .cores, .cmbs, .engs, .mmus, .poison, .bndTaken] = true) hs_
  have q4 := Field.sub_trans (by decide : Field.sub [.regs, .bar2, .out] [.regs, .back, .bar2, .out, .clk, .ens, .ports, .ram, .hmem, .rings, .strms, .axes, .grps, .slotRings, .cueQs, .binFlags, .slates, .cancels, .tqs, .sched, .dqs, .cores, .cmbs, .engs, .mmus, .poison, .bndTaken] = true) hs_
  have q5 := Field.sub_trans (by decide : Field.sub [.regs, .bar2, .out, .rings, .strms, .axes, .grps] [.regs, .back, .bar2, .out, .clk, .ens, .ports, .ram, .hmem, .rings, .strms, .axes, .grps, .slotRings, .cueQs, .binFlags, .slates, .cancels, .tqs, .sched, .dqs, .cores, .cmbs, .engs, .mmus, .poison, .bndTaken] = true) hs_
  have q6 := Field.sub_trans (by decide : Field.sub [.regs] [.regs, .back, .bar2, .out, .clk, .ens, .ports, .ram, .hmem, .rings, .strms, .axes, .grps, .slotRings, .cueQs, .binFlags, .slates, .cancels, .tqs, .sched, .dqs, .cores, .cmbs, .engs, .mmus, .poison, .bndTaken] = true) hs_
  unfold State.isolate
  extract_lets -merge s1 gates s2 s3 s4
  clear_value gates
  have k_s1 : Kept ws s₀ s1 := by
    unfold s1
    repeat' with_reducible first
      | assumption
      | intro _
      | apply Kept.ite
      | apply State.unloadTenant_kept q0
      | apply State.endTakes_kept q1
      | apply State.dropKeys_kept q2
      | apply State.sourceLost_kept q3
      | apply State.evt_kept q4
      | apply State.hardSplice_kept q5
      | apply State.putFld_kept q6
      | apply Kept.foldl
      | split
      | extract_lets
  clear_value s1
  have k_s2 : Kept ws s₀ s2 := by
    unfold s2
    repeat' with_reducible first
      | assumption
      | intro _
      | apply Kept.ite
      | apply State.unloadTenant_kept q0
      | apply State.endTakes_kept q1
      | apply State.dropKeys_kept q2
      | apply State.sourceLost_kept q3
      | apply State.evt_kept q4
      | apply State.hardSplice_kept q5
      | apply State.putFld_kept q6
      | apply Kept.foldl
      | split
      | extract_lets
  clear_value s2
  have k_s3 : Kept ws s₀ s3 := by
    unfold s3
    repeat' with_reducible first
      | assumption
      | intro _
      | apply Kept.ite
      | apply State.unloadTenant_kept q0
      | apply State.endTakes_kept q1
      | apply State.dropKeys_kept q2
      | apply State.sourceLost_kept q3
      | apply State.evt_kept q4
      | apply State.hardSplice_kept q5
      | apply State.putFld_kept q6
      | apply Kept.foldl
      | split
      | extract_lets
  clear_value s3
  have k_s4 : Kept ws s₀ s4 := by
    unfold s4
    repeat' with_reducible first
      | assumption
      | intro _
      | apply Kept.ite
      | apply State.unloadTenant_kept q0
      | apply State.endTakes_kept q1
      | apply State.dropKeys_kept q2
      | apply State.sourceLost_kept q3
      | apply State.evt_kept q4
      | apply State.hardSplice_kept q5
      | apply State.putFld_kept q6
      | apply Kept.foldl
      | split
      | extract_lets
  clear_value s4
  repeat' with_reducible first
    | assumption
    | intro _
    | apply Kept.ite
    | apply State.unloadTenant_kept q0
    | apply State.endTakes_kept q1
    | apply State.dropKeys_kept q2
    | apply State.sourceLost_kept q3
    | apply State.evt_kept q4
    | apply State.hardSplice_kept q5
    | apply State.putFld_kept q6
    | apply Kept.foldl
    | split
    | extract_lets

theorem execIsolated_kept {ws : List Field} {s₀ s : State} (hs_ : Field.sub [.regs, .back, .bar2, .out, .clk, .ens, .ports, .ram, .hmem, .rings, .strms, .axes, .grps, .slotRings, .cueQs, .binFlags, .slates, .cancels, .tqs, .sched, .dqs, .cores, .cmbs, .engs, .mmus, .poison, .bndTaken] ws = true)
    (kh_ : Kept ws s₀ s) : Kept ws s₀ (after s (execIsolated s)) := by
  unfold execIsolated
  repeat' with_reducible first
    | assumption
    | intro _
    | apply Kept.after_next
    | apply Kept.ite
    | apply State.isolate_kept hs_
    | apply Kept.foldl
    | split
    | extract_lets

theorem State.ensConf_kept {ws : List Field} {s₀ s : State} (hs_ : Field.sub [.regs, .bar2, .out] ws = true) (on : Bool)
    (kh_ : Kept ws s₀ s) : Kept ws s₀ (State.ensConf s on) := by
  have q0 := Field.sub_trans (by decide : Field.sub [.regs] [.regs, .bar2, .out] = true) hs_
  unfold State.ensConf
  repeat' with_reducible first
    | assumption
    | intro _
    | apply Kept.ite
    | apply State.unlock_kept hs_
    | apply State.lock_kept hs_
    | apply State.putBit_kept q0
    | apply Kept.foldl
    | split
    | extract_lets

theorem execControlFrame_kept {ws : List Field} {s₀ s : State} (hs_ : Field.sub [.regs, .bar2, .out, .slots, .groups, .ens, .ports] ws = true) (site p : Nat) (f : RelayFrame)
    (kh_ : Kept ws s₀ s) : Kept ws s₀ (after s (execControlFrame site p f s)) := by
  have q0 := Field.sub_trans (by decide : Field.sub [.regs, .bar2, .out] [.regs, .bar2, .out, .slots, .groups, .ens, .ports] = true) hs_
  have q1 := Field.sub_trans (by decide : Field.sub [.regs, .ens] [.regs, .bar2, .out, .slots, .groups, .ens, .ports] = true) hs_
  have q2 := Field.sub_trans (by decide : Field.sub [.regs] [.regs, .bar2, .out, .slots, .groups, .ens, .ports] = true) hs_
  have q3 := Field.sub_trans (by decide : Field.sub [.regs, .bar2, .out, .ens, .ports] [.regs, .bar2, .out, .slots, .groups, .ens, .ports] = true) hs_
  have q4 := Field.sub_trans (by decide : Field.sub [.regs, .bar2, .out, .ports] [.regs, .bar2, .out, .slots, .groups, .ens, .ports] = true) hs_
  have q5 := Field.sub_trans (by decide : Field.sub [.bar2, .out] [.regs, .bar2, .out, .slots, .groups, .ens, .ports] = true) hs_
  unfold execControlFrame
  extract_lets -merge pk on
  clear_value pk on
  repeat' with_reducible first
    | assumption
    | intro _
    | apply Kept.after_next
    | apply Kept.ite
    | apply State.ensConf_kept q0
    | apply State.losePackage_kept hs_
    | apply State.formAs_kept q1
    | apply State.solo_kept q2
    | apply State.dropKeys_kept q3
    | apply State.evt_kept q0
    | apply State.relayIn_kept q4
    | apply State.msix_kept q5
    | apply State.putBit_kept q2
    | apply Kept.foldl
    | split
    | extract_lets

theorem execLossOfSignal_kept {ws : List Field} {s₀ s : State} (hs_ : Field.sub [.regs, .bar2, .out, .ports] ws = true) (site p : Nat)
    (kh_ : Kept ws s₀ s) : Kept ws s₀ (after s (execLossOfSignal site p s)) := by
  unfold execLossOfSignal
  repeat' with_reducible first
    | assumption
    | intro _
    | apply Kept.after_next
    | apply Kept.ite
    | apply State.portDown_kept hs_
    | apply Kept.foldl
    | split
    | extract_lets

end Sys2Proof.Machine
end

