-- ==== Sys2Proof/Laws/KGate.lean ====
section
/-!
SUPPORT. Laws/KGate.lean: what each operation of Machine/Gate.lean may change, and that it keeps the canonical form.
-/
namespace Sys2Proof.Machine

theorem execTapBurst_kept {ws : List Field} {s₀ s : State} (hs_ : Field.sub [.regs, .bar2, .out, .gates] ws = true) (site g tap : Nat) (words : List Nat)
    (kh_ : Kept ws s₀ s) : Kept ws s₀ (after s (execTapBurst site g tap words s)) := by
  have q0 := Field.sub_trans (by decide : Field.sub [.regs, .bar2, .out] [.regs, .bar2, .out, .gates] = true) hs_
  have q1 := Field.sub_trans (by decide : Field.sub [.regs] [.regs, .bar2, .out, .gates] = true) hs_
  have q2 := Field.sub_trans (by decide : Field.sub [.gates] [.regs, .bar2, .out, .gates] = true) hs_
  unfold execTapBurst
  extract_lets -merge gt p stray
  clear_value gt p
  have k_stray : Kept ws s₀ stray := by
    unfold stray
    repeat' with_reducible first
      | assumption
      | intro _
      | apply Kept.after_next
      | apply Kept.ite
      | apply State.evt_kept q0
      | apply State.setNat_kept q1
      | apply State.setGate_kept q2
      | apply Kept.foldl
      | split
      | extract_lets
  clear_value stray
  repeat' with_reducible first
    | assumption
    | intro _
    | apply Kept.after_next
    | apply Kept.ite
    | apply State.evt_kept q0
    | apply State.setNat_kept q1
    | apply State.setGate_kept q2
    | apply Kept.foldl
    | split
    | extract_lets

theorem State.addRow_kept {ws : List Field} {s₀ s : State} (hs_ : Field.sub [.regs, .rings, .strms] ws = true) (site g k : Nat) (cap : Cap) (flags : Nat) (clean : Bool)
    (kh_ : Kept ws s₀ s) : Kept ws s₀ (State.addRow s site g k cap flags clean) := by
  have q0 := Field.sub_trans (by decide : Field.sub [.rings, .strms] [.regs, .rings, .strms] = true) hs_
  have q1 := Field.sub_trans (by decide : Field.sub [.regs] [.regs, .rings, .strms] = true) hs_
  have q2 := Field.sub_trans (by decide : Field.sub [.strms] [.regs, .rings, .strms] = true) hs_
  unfold State.addRow
  extract_lets -merge r x row s1 p s2
  clear_value r x row p
  have k_s1 : Kept ws s₀ s1 := by
    unfold s1
    repeat' with_reducible first
      | assumption
      | intro _
      | apply Kept.ite
      | apply State.finalRows_kept q0
      | apply State.showStream_kept q1
      | apply State.setNat_kept q1
      | apply State.setStrm_kept q2
      | apply Kept.foldl
      | split
      | extract_lets
  clear_value s1
  have k_s2 : Kept ws s₀ s2 := by
    unfold s2
    repeat' with_reducible first
      | assumption
      | intro _
      | apply Kept.ite
      | apply State.finalRows_kept q0
      | apply State.showStream_kept q1
      | apply State.setNat_kept q1
      | apply State.setStrm_kept q2
      | apply Kept.foldl
      | split
      | extract_lets
  clear_value s2
  repeat' with_reducible first
    | assumption
    | intro _
    | apply Kept.ite
    | apply State.finalRows_kept q0
    | apply State.showStream_kept q1
    | apply State.setNat_kept q1
    | apply State.setStrm_kept q2
    | apply Kept.foldl
    | split
    | extract_lets

theorem State.closeLine_kept {ws : List Field} {s₀ s : State} (hs_ : Field.sub [.regs, .bar2, .out, .ram, .hmem, .rings, .strms, .gates, .axes, .grps, .slotRings, .cueQs, .binFlags, .slates, .cancels, .dqs, .cores, .cmbs, .engs, .poison] ws = true) (site g : Nat) (cap : Cap)
    (kh_ : Kept ws s₀ s) : Kept ws s₀ (State.closeLine s site g cap) := by
  have q0 := Field.sub_trans (by decide : Field.sub [.regs, .bar2, .out] [.regs, .bar2, .out, .ram, .hmem, .rings, .strms, .gates, .axes, .grps, .slotRings, .cueQs, .binFlags, .slates, .cancels, .dqs, .cores, .cmbs, .engs, .poison] = true) hs_
  have q1 := Field.sub_trans (by decide : Field.sub [.regs] [.regs, .bar2, .out, .ram, .hmem, .rings, .strms, .gates, .axes, .grps, .slotRings, .cueQs, .binFlags, .slates, .cancels, .dqs, .cores, .cmbs, .engs, .poison] = true) hs_
  have q2 := Field.sub_trans (by decide : Field.sub [.regs, .rings, .strms] [.regs, .bar2, .out, .ram, .hmem, .rings, .strms, .gates, .axes, .grps, .slotRings, .cueQs, .binFlags, .slates, .cancels, .dqs, .cores, .cmbs, .engs, .poison] = true) hs_
  have q3 := Field.sub_trans (by decide : Field.sub [.grps] [.regs, .bar2, .out, .ram, .hmem, .rings, .strms, .gates, .axes, .grps, .slotRings, .cueQs, .binFlags, .slates, .cancels, .dqs, .cores, .cmbs, .engs, .poison] = true) hs_
  have q4 := Field.sub_trans (by decide : Field.sub [.gates] [.regs, .bar2, .out, .ram, .hmem, .rings, .strms, .gates, .axes, .grps, .slotRings, .cueQs, .binFlags, .slates, .cancels, .dqs, .cores, .cmbs, .engs, .poison] = true) hs_
  unfold State.closeLine
  extract_lets -merge p lost clean gt run first flags s1 s2 s3 s4 multi _ s5
  clear_value p lost clean gt run first flags multi
  have k_s1 : Kept ws s₀ s1 := by
    unfold s1
    repeat' with_reducible first
      | assumption
      | intro _
      | apply Kept.ite
      | apply State.judgeRetake_kept hs_
      | apply State.gateFault_kept hs_
      | apply State.evt_kept q0
      | apply State.showFifo_kept q1
      | apply State.setNat_kept q1
      | apply State.addRow_kept q2
      | apply State.setGrp_kept q3
      | apply State.setGate_kept q4
      | apply State.putFld_kept q1
      | apply Kept.foldl
      | split
      | extract_lets
  clear_value s1
  have k_s2 : Kept ws s₀ s2 := by
    unfold s2
    repeat' with_reducible first
      | assumption
      | intro _
      | apply Kept.ite
      | apply State.judgeRetake_kept hs_
      | apply State.gateFault_kept hs_
      | apply State.evt_kept q0
      | apply State.showFifo_kept q1
      | apply State.setNat_kept q1
      | apply State.addRow_kept q2
      | apply State.setGrp_kept q3
      | apply State.setGate_kept q4
      | apply State.putFld_kept q1
      | apply Kept.foldl
      | split
      | extract_lets
  clear_value s2
  have k_s3 : Kept ws s₀ s3 := by
    unfold s3
    repeat' with_reducible first
      | assumption
      | intro _
      | apply Kept.ite
      | apply State.judgeRetake_kept hs_
      | apply State.gateFault_kept hs_
      | apply State.evt_kept q0
      | apply State.showFifo_kept q1
      | apply State.setNat_kept q1
      | apply State.addRow_kept q2
      | apply State.setGrp_kept q3
      | apply State.setGate_kept q4
      | apply State.putFld_kept q1
      | apply Kept.foldl
      | split
      | extract_lets
  clear_value s3
  have k_s4 : Kept ws s₀ s4 := by
    unfold s4
    repeat' with_reducible first
      | assumption
      | intro _
      | apply Kept.ite
      | apply State.judgeRetake_kept hs_
      | apply State.gateFault_kept hs_
      | apply State.evt_kept q0
      | apply State.showFifo_kept q1
      | apply State.setNat_kept q1
      | apply State.addRow_kept q2
      | apply State.setGrp_kept q3
      | apply State.setGate_kept q4
      | apply State.putFld_kept q1
      | apply Kept.foldl
      | split
      | extract_lets
  clear_value s4
  have k_s5 : Kept ws s₀ s5 := by
    unfold s5
    repeat' with_reducible first
      | assumption
      | intro _
      | apply Kept.ite
      | apply State.judgeRetake_kept hs_
      | apply State.gateFault_kept hs_
      | apply State.evt_kept q0
      | apply State.showFifo_kept q1
      | apply State.setNat_kept q1
      | apply State.addRow_kept q2
      | apply State.setGrp_kept q3
      | apply State.setGate_kept q4
      | apply State.putFld_kept q1
      | apply Kept.foldl
      | split
      | extract_lets
  clear_value s5
  repeat' with_reducible first
    | assumption
    | intro _
    | apply Kept.ite
    | apply State.judgeRetake_kept hs_
    | apply State.gateFault_kept hs_
    | apply State.evt_kept q0
    | apply State.showFifo_kept q1
    | apply State.setNat_kept q1
    | apply State.addRow_kept q2
    | apply State.setGrp_kept q3
    | apply State.setGate_kept q4
    | apply State.putFld_kept q1
    | apply Kept.foldl
    | split
    | extract_lets

theorem execRdClose_kept {ws : List Field} {s₀ s : State} (hs_ : Field.sub [.regs, .bar2, .out, .ram, .hmem, .rings, .strms, .gates, .axes, .grps, .slotRings, .cueQs, .binFlags, .slates, .cancels, .dqs, .cores, .cmbs, .engs, .poison] ws = true) (site g : Nat)
    (kh_ : Kept ws s₀ s) : Kept ws s₀ (after s (execRdClose site g s)) := by
  unfold execRdClose
  repeat' with_reducible first
    | assumption
    | intro _
    | apply Kept.after_next
    | apply Kept.ite
    | apply State.closeLine_kept hs_
    | apply Kept.foldl
    | split
    | extract_lets

theorem State.shadeFail_kept {ws : List Field} {s₀ s : State} (hs_ : Field.sub [.regs, .gates] ws = true) (site g result : Nat)
    (kh_ : Kept ws s₀ s) : Kept ws s₀ (State.shadeFail s site g result) := by
  have q0 := Field.sub_trans (by decide : Field.sub [.regs] [.regs, .gates] = true) hs_
  have q1 := Field.sub_trans (by decide : Field.sub [.gates] [.regs, .gates] = true) hs_
  unfold State.shadeFail
  extract_lets -merge p _
  clear_value p
  repeat' with_reducible first
    | assumption
    | intro _
    | apply Kept.ite
    | apply State.setNat_kept q0
    | apply State.setGate_kept q1
    | apply Kept.foldl
    | split
    | extract_lets

theorem State.gateFaultLast_kept {ws : List Field} {s₀ s : State} (hs_ : Field.sub [.regs, .bar2, .out, .ram, .hmem, .rings, .strms, .gates, .axes, .grps, .slotRings, .cueQs, .binFlags, .slates, .cancels, .dqs, .cores, .cmbs, .engs, .poison] ws = true) (site g code : Nat)
    (kh_ : Kept ws s₀ s) : Kept ws s₀ (State.gateFaultLast s site g code) := by
  unfold State.gateFaultLast
  extract_lets -merge l
  clear_value l
  repeat' with_reducible first
    | assumption
    | intro _
    | apply Kept.ite
    | apply State.gateFault_kept hs_
    | apply Kept.foldl
    | split
    | extract_lets

theorem execDcoLost_kept {ws : List Field} {s₀ s : State} (hs_ : Field.sub [.regs, .bar2, .out, .ram, .hmem, .rings, .strms, .gates, .axes, .grps, .slotRings, .cueQs, .binFlags, .slates, .cancels, .dqs, .cores, .cmbs, .engs, .poison] ws = true) (site g : Nat)
    (kh_ : Kept ws s₀ s) : Kept ws s₀ (after s (execDcoLost site g s)) := by
  have q0 := Field.sub_trans (by decide : Field.sub [.regs, .bar2, .out] [.regs, .bar2, .out, .ram, .hmem, .rings, .strms, .gates, .axes, .grps, .slotRings, .cueQs, .binFlags, .slates, .cancels, .dqs, .cores, .cmbs, .engs, .poison] = true) hs_
  have q1 := Field.sub_trans (by decide : Field.sub [.regs, .gates] [.regs, .bar2, .out, .ram, .hmem, .rings, .strms, .gates, .axes, .grps, .slotRings, .cueQs, .binFlags, .slates, .cancels, .dqs, .cores, .cmbs, .engs, .poison] = true) hs_
  have q2 := Field.sub_trans (by decide : Field.sub [.regs] [.regs, .bar2, .out, .ram, .hmem, .rings, .strms, .gates, .axes, .grps, .slotRings, .cueQs, .binFlags, .slates, .cancels, .dqs, .cores, .cmbs, .engs, .poison] = true) hs_
  unfold execDcoLost
  extract_lets -merge p
  clear_value p
  repeat' with_reducible first
    | assumption
    | intro _
    | apply Kept.after_next
    | apply Kept.ite
    | apply State.evt_kept q0
    | apply State.gateFaultLast_kept hs_
    | apply State.shadeFail_kept q1
    | apply State.putBit_kept q2
    | apply Kept.foldl
    | split
    | extract_lets

theorem execDcoReturn_kept {ws : List Field} {s₀ s : State} (hs_ : Field.sub [.regs] ws = true) (site g : Nat)
    (kh_ : Kept ws s₀ s) : Kept ws s₀ (after s (execDcoReturn site g s)) := by
  unfold execDcoReturn
  extract_lets -merge p
  clear_value p
  repeat' with_reducible first
    | assumption
    | intro _
    | apply Kept.after_next
    | apply Kept.ite
    | apply State.putBit_kept hs_
    | apply Kept.foldl
    | split
    | extract_lets

theorem State.alignFail_kept {ws : List Field} {s₀ s : State} (hs_ : Field.sub [.regs, .bar2, .out, .ram, .hmem, .rings, .strms, .axes, .grps, .slotRings, .cueQs, .binFlags, .slates, .cancels, .dqs, .cores, .cmbs, .engs, .poison] ws = true) (site g : Nat)
    (kh_ : Kept ws s₀ s) : Kept ws s₀ (State.alignFail s site g) := by
  have q0 := Field.sub_trans (by decide : Field.sub [.regs, .bar2, .out] [.regs, .bar2, .out, .ram, .hmem, .rings, .strms, .axes, .grps, .slotRings, .cueQs, .binFlags, .slates, .cancels, .dqs, .cores, .cmbs, .engs, .poison] = true) hs_
  have q1 := Field.sub_trans (by decide : Field.sub [.regs] [.regs, .bar2, .out, .ram, .hmem, .rings, .strms, .axes, .grps, .slotRings, .cueQs, .binFlags, .slates, .cancels, .dqs, .cores, .cmbs, .engs, .poison] = true) hs_
  unfold State.alignFail
  extract_lets -merge p s1
  clear_value p
  have k_s1 : Kept ws s₀ s1 := by
    unfold s1
    repeat' with_reducible first
      | assumption
      | intro _
      | apply Kept.ite
      | apply State.blockFault_kept q0
      | apply State.declareSplice_kept hs_
      | apply State.endRetake_kept q1
      | apply State.putBit_kept q1
      | apply Kept.foldl
      | split
      | extract_lets
  clear_value s1
  repeat' with_reducible first
    | assumption
    | intro _
    | apply Kept.ite
    | apply State.blockFault_kept q0
    | apply State.declareSplice_kept hs_
    | apply State.endRetake_kept q1
    | apply State.putBit_kept q1
    | apply Kept.foldl
    | split
    | extract_lets

theorem execAligned_kept {ws : List Field} {s₀ s : State} (hs_ : Field.sub [.regs, .bar2, .out, .ram, .hmem, .rings, .strms, .axes, .grps, .slotRings, .cueQs, .binFlags, .slates, .cancels, .dqs, .cores, .cmbs, .engs, .poison, .free] ws = true) (site g khz : Nat)
    (kh_ : Kept ws s₀ s) : Kept ws s₀ (after s (execAligned site g khz s)) := by
  have q0 := Field.sub_trans (by decide : Field.sub [.regs, .bar2, .out] [.regs, .bar2, .out, .ram, .hmem, .rings, .strms, .axes, .grps, .slotRings, .cueQs, .binFlags, .slates, .cancels, .dqs, .cores, .cmbs, .engs, .poison, .free] = true) hs_
  have q1 := Field.sub_trans (by decide : Field.sub [.regs, .bar2, .out, .ram, .hmem, .rings, .strms, .axes, .grps, .slotRings, .cueQs, .binFlags, .slates, .cancels, .dqs, .cores, .cmbs, .engs, .poison] [.regs, .bar2, .out, .ram, .hmem, .rings, .strms, .axes, .grps, .slotRings, .cueQs, .binFlags, .slates, .cancels, .dqs, .cores, .cmbs, .engs, .poison, .free] = true) hs_
  have q2 := Field.sub_trans (by decide : Field.sub [.free] [.regs, .bar2, .out, .ram, .hmem, .rings, .strms, .axes, .grps, .slotRings, .cueQs, .binFlags, .slates, .cancels, .dqs, .cores, .cmbs, .engs, .poison, .free] = true) hs_
  have q3 := Field.sub_trans (by decide : Field.sub [.regs] [.regs, .bar2, .out, .ram, .hmem, .rings, .strms, .axes, .grps, .slotRings, .cueQs, .binFlags, .slates, .cancels, .dqs, .cores, .cmbs, .engs, .poison, .free] = true) hs_
  unfold execAligned
  extract_lets -merge p s1 s2
  clear_value p
  have k_s1 : Kept ws s₀ s1 := by
    unfold s1
    repeat' with_reducible first
      | assumption
      | intro _
      | apply Kept.after_next
      | apply Kept.ite
      | apply State.evt_kept q0
      | apply State.alignFail_kept q1
      | apply State.draw_kept q2
      | apply State.setNat_kept q3
      | apply State.putBit_kept q3
      | apply State.setReg_kept q3
      | apply Kept.foldl
      | split
      | extract_lets
  clear_value s1
  have k_s2 : Kept ws s₀ s2 := by
    unfold s2
    repeat' with_reducible first
      | assumption
      | intro _
      | apply Kept.after_next
      | apply Kept.ite
      | apply State.evt_kept q0
      | apply State.alignFail_kept q1
      | apply State.draw_kept q2
      | apply State.setNat_kept q3
      | apply State.putBit_kept q3
      | apply State.setReg_kept q3
      | apply Kept.foldl
      | split
      | extract_lets
  clear_value s2
  repeat' with_reducible first
    | assumption
    | intro _
    | apply Kept.after_next
    | apply Kept.ite
    | apply State.evt_kept q0
    | apply State.alignFail_kept q1
    | apply State.draw_kept q2
    | apply State.setNat_kept q3
    | apply State.putBit_kept q3
    | apply State.setReg_kept q3
    | apply Kept.foldl
    | split
    | extract_lets

theorem execAlignFail_kept {ws : List Field} {s₀ s : State} (hs_ : Field.sub [.regs, .bar2, .out, .ram, .hmem, .rings, .strms, .axes, .grps, .slotRings, .cueQs, .binFlags, .slates, .cancels, .dqs, .cores, .cmbs, .engs, .poison] ws = true) (site g : Nat)
    (kh_ : Kept ws s₀ s) : Kept ws s₀ (after s (execAlignFail site g s)) := by
  unfold execAlignFail
  repeat' with_reducible first
    | assumption
    | intro _
    | apply Kept.after_next
    | apply Kept.ite
    | apply State.alignFail_kept hs_
    | apply Kept.foldl
    | split
    | extract_lets

theorem State.spiSend_kept {ws : List Field} {s₀ s : State} (hs_ : Field.sub [.out, .gates] ws = true) (site g : Nat) (tx : List Byte)
    (kh_ : Kept ws s₀ s) : Kept ws s₀ (State.spiSend s site g tx) := by
  have q0 := Field.sub_trans (by decide : Field.sub [.out] [.out, .gates] = true) hs_
  have q1 := Field.sub_trans (by decide : Field.sub [.gates] [.out, .gates] = true) hs_
  unfold State.spiSend
  extract_lets -merge p _
  clear_value p
  repeat' with_reducible first
    | assumption
    | intro _
    | apply Kept.ite
    | apply State.emit_kept q0
    | apply State.setGate_kept q1
    | apply Kept.foldl
    | split
    | extract_lets

theorem State.spiStart_kept {ws : List Field} {s₀ s : State} (hs_ : Field.sub [.regs, .out, .gates] ws = true) (site g : Nat)
    (kh_ : Kept ws s₀ s) : Kept ws s₀ (State.spiStart s site g) := by
  have q0 := Field.sub_trans (by decide : Field.sub [.out, .gates] [.regs, .out, .gates] = true) hs_
  have q1 := Field.sub_trans (by decide : Field.sub [.regs] [.regs, .out, .gates] = true) hs_
  have q2 := Field.sub_trans (by decide : Field.sub [.gates] [.regs, .out, .gates] = true) hs_
  unfold State.spiStart
  extract_lets -merge p s1 _
  clear_value p
  have k_s1 : Kept ws s₀ s1 := by
    unfold s1
    repeat' with_reducible first
      | assumption
      | intro _
      | apply Kept.ite
      | apply State.spiSend_kept q0
      | apply State.putBit_kept q1
      | apply State.setGate_kept q2
      | apply Kept.foldl
      | split
      | extract_lets
  clear_value s1
  repeat' with_reducible first
    | assumption
    | intro _
    | apply Kept.ite
    | apply State.spiSend_kept q0
    | apply State.putBit_kept q1
    | apply State.setGate_kept q2
    | apply Kept.foldl
    | split
    | extract_lets

theorem execSensorPoll_kept {ws : List Field} {s₀ s : State} (hs_ : Field.sub [.regs, .out, .gates] ws = true) (site g : Nat)
    (kh_ : Kept ws s₀ s) : Kept ws s₀ (after s (execSensorPoll site g s)) := by
  have q0 := Field.sub_trans (by decide : Field.sub [.out, .gates] [.regs, .out, .gates] = true) hs_
  have q1 := Field.sub_trans (by decide : Field.sub [.regs] [.regs, .out, .gates] = true) hs_
  have q2 := Field.sub_trans (by decide : Field.sub [.gates] [.regs, .out, .gates] = true) hs_
  unfold execSensorPoll
  extract_lets -merge p n _ s1
  clear_value p n
  have k_s1 : Kept ws s₀ s1 := by
    unfold s1
    repeat' with_reducible first
      | assumption
      | intro _
      | apply Kept.after_next
      | apply Kept.ite
      | apply State.spiSend_kept q0
      | apply State.putBit_kept q1
      | apply State.setGate_kept q2
      | apply Kept.foldl
      | split
      | extract_lets
  clear_value s1
  repeat' with_reducible first
    | assumption
    | intro _
    | apply Kept.after_next
    | apply Kept.ite
    | apply State.spiSend_kept q0
    | apply State.putBit_kept q1
    | apply State.setGate_kept q2
    | apply Kept.foldl
    | split
    | extract_lets

theorem execPollEnd_kept {ws : List Field} {s₀ s : State} (hs_ : Field.sub [.regs, .bar2, .out, .ram, .hmem, .rings, .strms, .gates, .axes, .grps, .slotRings, .cueQs, .binFlags, .slates, .cancels, .dqs, .cores, .cmbs, .engs, .poison] ws = true) (site g rx : Nat)
    (kh_ : Kept ws s₀ s) : Kept ws s₀ (after s (execPollEnd site g rx s)) := by
  have q0 := Field.sub_trans (by decide : Field.sub [.regs, .out, .gates] [.regs, .bar2, .out, .ram, .hmem, .rings, .strms, .gates, .axes, .grps, .slotRings, .cueQs, .binFlags, .slates, .cancels, .dqs, .cores, .cmbs, .engs, .poison] = true) hs_
  have q1 := Field.sub_trans (by decide : Field.sub [.regs, .bar2, .out] [.regs, .bar2, .out, .ram, .hmem, .rings, .strms, .gates, .axes, .grps, .slotRings, .cueQs, .binFlags, .slates, .cancels, .dqs, .cores, .cmbs, .engs, .poison] = true) hs_
  have q2 := Field.sub_trans (by decide : Field.sub [.regs, .gates] [.regs, .bar2, .out, .ram, .hmem, .rings, .strms, .gates, .axes, .grps, .slotRings, .cueQs, .binFlags, .slates, .cancels, .dqs, .cores, .cmbs, .engs, .poison] = true) hs_
  have q3 := Field.sub_trans (by decide : Field.sub [.regs] [.regs, .bar2, .out, .ram, .hmem, .rings, .strms, .gates, .axes, .grps, .slotRings, .cueQs, .binFlags, .slates, .cancels, .dqs, .cores, .cmbs, .engs, .poison] = true) hs_
  have q4 := Field.sub_trans (by decide : Field.sub [.gates] [.regs, .bar2, .out, .ram, .hmem, .rings, .strms, .gates, .axes, .grps, .slotRings, .cueQs, .binFlags, .slates, .cancels, .dqs, .cores, .cmbs, .engs, .poison] = true) hs_
  unfold execPollEnd
  extract_lets -merge p s1 bad s2 _
  clear_value p bad
  have k_s1 : Kept ws s₀ s1 := by
    unfold s1
    repeat' with_reducible first
      | assumption
      | intro _
      | apply Kept.after_next
      | apply Kept.ite
      | apply State.spiStart_kept q0
      | apply State.evt_kept q1
      | apply State.gateFaultLast_kept hs_
      | apply State.shadeFail_kept q2
      | apply State.putBit_kept q3
      | apply State.setGate_kept q4
      | apply Kept.foldl
      | split
      | extract_lets
  clear_value s1
  have k_s2 : Kept ws s₀ s2 := by
    unfold s2
    repeat' with_reducible first
      | assumption
      | intro _
      | apply Kept.after_next
      | apply Kept.ite
      | apply State.spiStart_kept q0
      | apply State.evt_kept q1
      | apply State.gateFaultLast_kept hs_
      | apply State.shadeFail_kept q2
      | apply State.putBit_kept q3
      | apply State.setGate_kept q4
      | apply Kept.foldl
      | split
      | extract_lets
  clear_value s2
  repeat' with_reducible first
    | assumption
    | intro _
    | apply Kept.after_next
    | apply Kept.ite
    | apply State.spiStart_kept q0
    | apply State.evt_kept q1
    | apply State.gateFaultLast_kept hs_
    | apply State.shadeFail_kept q2
    | apply State.putBit_kept q3
    | apply State.setGate_kept q4
    | apply Kept.foldl
    | split
    | extract_lets

theorem execSpiDone_kept {ws : List Field} {s₀ s : State} (hs_ : Field.sub [.regs, .bar2, .out] ws = true) (site g rx : Nat)
    (kh_ : Kept ws s₀ s) : Kept ws s₀ (after s (execSpiDone site g rx s)) := by
  have q0 := Field.sub_trans (by decide : Field.sub [.regs] [.regs, .bar2, .out] = true) hs_
  unfold execSpiDone
  extract_lets -merge p
  clear_value p
  repeat' with_reducible first
    | assumption
    | intro _
    | apply Kept.after_next
    | apply Kept.ite
    | apply State.evt_kept hs_
    | apply State.putBytes_kept q0
    | apply State.putBit_kept q0
    | apply Kept.foldl
    | split
    | extract_lets

theorem State.shdNext_kept {ws : List Field} {s₀ s : State} (hs_ : Field.sub [.regs] ws = true) (site g : Nat)
    (kh_ : Kept ws s₀ s) : Kept ws s₀ (State.shdNext s site g) := by
  unfold State.shdNext
  repeat' with_reducible first
    | assumption
    | intro _
    | apply Kept.ite
    | apply State.putFld_kept hs_
    | apply Kept.foldl
    | split
    | extract_lets

theorem State.shdWrite_kept {ws : List Field} {s₀ s : State} (hs_ : Field.sub [.regs, .bar2, .out, .gates] ws = true) (req site g : Nat) (val : Word)
    (kh_ : Kept ws s₀ s) : Kept ws s₀ (State.shdWrite s req site g val) := by
  have q0 := Field.sub_trans (by decide : Field.sub [.regs] [.regs, .bar2, .out, .gates] = true) hs_
  have q1 := Field.sub_trans (by decide : Field.sub [.regs, .bar2, .out] [.regs, .bar2, .out, .gates] = true) hs_
  have q2 := Field.sub_trans (by decide : Field.sub [.gates] [.regs, .bar2, .out, .gates] = true) hs_
  unfold State.shdWrite
  extract_lets -merge p half busy gt
  clear_value p half busy gt
  repeat' with_reducible first
    | assumption
    | intro _
    | apply Kept.ite
    | apply State.shdNext_kept q0
    | apply State.reject_kept q1
    | apply State.setGate_kept q2
    | apply Kept.foldl
    | split
    | extract_lets

theorem execShdDataRead_kept {ws : List Field} {s₀ s : State} (hs_ : Field.sub [.regs, .rdata] ws = true) (req site g : Nat)
    (kh_ : Kept ws s₀ s) : Kept ws s₀ (after s (execShdDataRead req site g s)) := by
  have q0 := Field.sub_trans (by decide : Field.sub [.regs] [.regs, .rdata] = true) hs_
  have q1 := Field.sub_trans (by decide : Field.sub [.rdata] [.regs, .rdata] = true) hs_
  unfold execShdDataRead
  extract_lets -merge p s1
  clear_value p
  have k_s1 : Kept ws s₀ s1 := by
    unfold s1
    repeat' with_reducible first
      | assumption
      | intro _
      | apply Kept.after_next
      | apply Kept.ite
      | apply State.shdNext_kept q0
      | apply Kept.foldl
      | split
      | extract_lets
      | apply Kept.set_rdata _ q1
  clear_value s1
  repeat' with_reducible first
    | assumption
    | intro _
    | apply Kept.after_next
    | apply Kept.ite
    | apply State.shdNext_kept q0
    | apply Kept.foldl
    | split
    | extract_lets
    | apply Kept.set_rdata _ q1

theorem State.scCmd_kept {ws : List Field} {s₀ s : State} (hs_ : Field.sub [.regs, .bar2, .out, .gates] ws = true) (req site g : Nat) (val : Word)
    (kh_ : Kept ws s₀ s) : Kept ws s₀ (State.scCmd s req site g val) := by
  have q0 := Field.sub_trans (by decide : Field.sub [.regs, .bar2, .out] [.regs, .bar2, .out, .gates] = true) hs_
  have q1 := Field.sub_trans (by decide : Field.sub [.regs, .gates] [.regs, .bar2, .out, .gates] = true) hs_
  have q2 := Field.sub_trans (by decide : Field.sub [.regs] [.regs, .bar2, .out, .gates] = true) hs_
  have q3 := Field.sub_trans (by decide : Field.sub [.gates] [.regs, .bar2, .out, .gates] = true) hs_
  unfold State.scCmd
  extract_lets -merge p dark flat _
  clear_value p dark flat
  repeat' with_reducible first
    | assumption
    | intro _
    | apply Kept.ite
    | apply State.reject_kept q0
    | apply State.shadeFail_kept q1
    | apply State.setNat_kept q2
    | apply State.setGate_kept q3
    | apply Kept.foldl
    | split
    | extract_lets

theorem State.shadeDone_kept {ws : List Field} {s₀ s : State} (hs_ : Field.sub [.regs, .bar2, .out, .gates] ws = true) (site g : Nat) (flat : Bool) (sums : List Nat) (n : Nat)
    (kh_ : Kept ws s₀ s) : Kept ws s₀ (State.shadeDone s site g flat sums n) := by
  have q0 := Field.sub_trans (by decide : Field.sub [.regs, .bar2, .out] [.regs, .bar2, .out, .gates] = true) hs_
  have q1 := Field.sub_trans (by decide : Field.sub [.regs] [.regs, .bar2, .out, .gates] = true) hs_
  have q2 := Field.sub_trans (by decide : Field.sub [.gates] [.regs, .bar2, .out, .gates] = true) hs_
  unfold State.shadeDone
  extract_lets -merge p half pixels planes cells entries gt s1 bad done s2 s3
  clear_value p half pixels planes cells entries gt bad done
  have k_s1 : Kept ws s₀ s1 := by
    unfold s1
    repeat' with_reducible first
      | assumption
      | intro _
      | apply Kept.ite
      | apply State.evt_kept q0
      | apply State.setNat_kept q1
      | apply State.setGate_kept q2
      | apply State.setReg_kept q1
      | apply Kept.foldl
      | split
      | extract_lets
  clear_value s1
  have k_s2 : Kept ws s₀ s2 := by
    unfold s2
    repeat' with_reducible first
      | assumption
      | intro _
      | apply Kept.ite
      | apply State.evt_kept q0
      | apply State.setNat_kept q1
      | apply State.setGate_kept q2
      | apply State.setReg_kept q1
      | apply Kept.foldl
      | split
      | extract_lets
  clear_value s2
  have k_s3 : Kept ws s₀ s3 := by
    unfold s3
    repeat' with_reducible first
      | assumption
      | intro _
      | apply Kept.ite
      | apply State.evt_kept q0
      | apply State.setNat_kept q1
      | apply State.setGate_kept q2
      | apply State.setReg_kept q1
      | apply Kept.foldl
      | split
      | extract_lets
  clear_value s3
  repeat' with_reducible first
    | assumption
    | intro _
    | apply Kept.ite
    | apply State.evt_kept q0
    | apply State.setNat_kept q1
    | apply State.setGate_kept q2
    | apply State.setReg_kept q1
    | apply Kept.foldl
    | split
    | extract_lets

theorem execShadeExposure_kept {ws : List Field} {s₀ s : State} (hs_ : Field.sub [.regs, .bar2, .out, .gates] ws = true) (site g : Nat) (codes : List Nat) (lost : Bool)
    (kh_ : Kept ws s₀ s) : Kept ws s₀ (after s (execShadeExposure site g codes lost s)) := by
  have q0 := Field.sub_trans (by decide : Field.sub [.regs, .gates] [.regs, .bar2, .out, .gates] = true) hs_
  have q1 := Field.sub_trans (by decide : Field.sub [.gates] [.regs, .bar2, .out, .gates] = true) hs_
  unfold execShadeExposure
  extract_lets -merge gt next n depth sums s1
  clear_value gt next n depth sums
  have k_s1 : Kept ws s₀ s1 := by
    unfold s1
    repeat' with_reducible first
      | assumption
      | intro _
      | apply Kept.after_next
      | apply Kept.ite
      | apply State.shadeDone_kept hs_
      | apply State.shadeFail_kept q0
      | apply State.setGate_kept q1
      | apply Kept.foldl
      | split
      | extract_lets
  clear_value s1
  repeat' with_reducible first
    | assumption
    | intro _
    | apply Kept.after_next
    | apply Kept.ite
    | apply State.shadeDone_kept hs_
    | apply State.shadeFail_kept q0
    | apply State.setGate_kept q1
    | apply Kept.foldl
    | split
    | extract_lets

end Sys2Proof.Machine
end

