-- ==== Sys2Proof/Laws/KPipe.lean ====
section
/-!
SUPPORT. Laws/KPipe.lean: what each operation of Machine/Pipe.lean may change, and that it keeps the canonical form.
-/
namespace Sys2Proof.Machine

theorem State.primeDone_kept {ws : List Field} {s₀ s : State} (hs_ : Field.sub [.regs, .bar2, .out, .strms] ws = true) (site k : Nat) (rows : List LRow)
    (kh_ : Kept ws s₀ s) : Kept ws s₀ (State.primeDone s site k rows) := by
  have q0 := Field.sub_trans (by decide : Field.sub [.regs] [.regs, .bar2, .out, .strms] = true) hs_
  have q1 := Field.sub_trans (by decide : Field.sub [.regs, .bar2, .out] [.regs, .bar2, .out, .strms] = true) hs_
  have q2 := Field.sub_trans (by decide : Field.sub [.strms] [.regs, .bar2, .out, .strms] = true) hs_
  unfold State.primeDone
  extract_lets -merge x
  clear_value x
  repeat' with_reducible first
    | assumption
    | intro _
    | apply Kept.ite
    | apply State.showPipe_kept q0
    | apply State.evt_kept q1
    | apply State.setStrm_kept q2
    | apply Kept.foldl
    | split
    | extract_lets

theorem State.baseEngines_kept {ws : List Field} {s₀ s : State} (hs_ : Field.sub [.engs] ws = true) (site k line : Nat)
    (kh_ : Kept ws s₀ s) : Kept ws s₀ (State.baseEngines s site k line) := by
  unfold State.baseEngines
  repeat' with_reducible first
    | assumption
    | intro _
    | apply Kept.ite
    | apply State.setEng_kept hs_
    | apply Kept.foldl
    | split
    | extract_lets

theorem State.slackMissed_kept {ws : List Field} {s₀ s : State} (hs_ : Field.sub [.regs, .bar2, .out] ws = true) (die slack : Nat)
    (kh_ : Kept ws s₀ s) : Kept ws s₀ (State.slackMissed s die slack) := by
  have q0 := Field.sub_trans (by decide : Field.sub [.regs] [.regs, .bar2, .out] = true) hs_
  unfold State.slackMissed
  repeat' with_reducible first
    | assumption
    | intro _
    | apply Kept.ite
    | apply State.evt_kept hs_
    | apply State.addSat_kept q0
    | apply Kept.foldl
    | split
    | extract_lets

theorem State.slotPublish_kept {ws : List Field} {s₀ s0 : State} (hs_ : Field.sub [.regs, .bar2, .out, .ram, .rings, .strms, .slotRings, .cueQs, .binFlags, .slates, .cancels, .engs, .poison] ws = true) (site k : Nat)
    (kh_ : Kept ws s₀ s0) : Kept ws s₀ (State.slotPublish s0 site k) := by
  have q0 := Field.sub_trans (by decide : Field.sub [.rings, .strms] [.regs, .bar2, .out, .ram, .rings, .strms, .slotRings, .cueQs, .binFlags, .slates, .cancels, .engs, .poison] = true) hs_
  have q1 := Field.sub_trans (by decide : Field.sub [.regs, .slotRings, .cueQs, .binFlags, .cancels] [.regs, .bar2, .out, .ram, .rings, .strms, .slotRings, .cueQs, .binFlags, .slates, .cancels, .engs, .poison] = true) hs_
  have q2 := Field.sub_trans (by decide : Field.sub [.ram, .poison] [.regs, .bar2, .out, .ram, .rings, .strms, .slotRings, .cueQs, .binFlags, .slates, .cancels, .engs, .poison] = true) hs_
  have q3 := Field.sub_trans (by decide : Field.sub [.regs] [.regs, .bar2, .out, .ram, .rings, .strms, .slotRings, .cueQs, .binFlags, .slates, .cancels, .engs, .poison] = true) hs_
  have q4 := Field.sub_trans (by decide : Field.sub [.slates] [.regs, .bar2, .out, .ram, .rings, .strms, .slotRings, .cueQs, .binFlags, .slates, .cancels, .engs, .poison] = true) hs_
  have q5 := Field.sub_trans (by decide : Field.sub [.cueQs] [.regs, .bar2, .out, .ram, .rings, .strms, .slotRings, .cueQs, .binFlags, .slates, .cancels, .engs, .poison] = true) hs_
  have q6 := Field.sub_trans (by decide : Field.sub [.regs, .bar2, .out] [.regs, .bar2, .out, .ram, .rings, .strms, .slotRings, .cueQs, .binFlags, .slates, .cancels, .engs, .poison] = true) hs_
  have q7 := Field.sub_trans (by decide : Field.sub [.regs, .slotRings] [.regs, .bar2, .out, .ram, .rings, .strms, .slotRings, .cueQs, .binFlags, .slates, .cancels, .engs, .poison] = true) hs_
  have q8 := Field.sub_trans (by decide : Field.sub [.engs] [.regs, .bar2, .out, .ram, .rings, .strms, .slotRings, .cueQs, .binFlags, .slates, .cancels, .engs, .poison] = true) hs_
  have q9 := Field.sub_trans (by decide : Field.sub [.regs, .bar2, .out, .strms] [.regs, .bar2, .out, .ram, .rings, .strms, .slotRings, .cueQs, .binFlags, .slates, .cancels, .engs, .poison] = true) hs_
  have q10 := Field.sub_trans (by decide : Field.sub [.strms] [.regs, .bar2, .out, .ram, .rings, .strms, .slotRings, .cueQs, .binFlags, .slates, .cancels, .engs, .poison] = true) hs_
  unfold State.slotPublish
  extract_lets -merge stopping s x n last rows done dst data first prime tag
  clear_value stopping x n last rows dst data first prime tag
  have k_s : Kept ws s₀ s := by
    unfold s
    repeat' with_reducible first
      | assumption
      | intro _
      | apply Kept.ite
      | apply State.finalRows_kept q0
      | apply State.allocEpoch_kept q1
      | refine Kept.of_snd (State.allocEpoch_kept q1 _ ?_) ‹_›
      | apply State.ramWrite_kept q2
      | apply State.showFifo_kept q3
      | apply State.setSlate_kept q4
      | apply State.showStream_kept q3
      | apply State.setCue_kept q5
      | apply State.slackMissed_kept q6
      | apply State.publish_kept q7
      | apply State.baseEngines_kept q8
      | apply State.primeDone_kept q9
      | apply State.setStrm_kept q10
      | apply Kept.foldl
      | split
      | extract_lets
  clear_value s
  have k_done : ∀ x0, Kept ws s₀ x0 → Kept ws s₀ (done x0) := by
    unfold done
    repeat' with_reducible first
      | assumption
      | intro _
      | apply Kept.ite
      | apply State.finalRows_kept q0
      | apply State.allocEpoch_kept q1
      | refine Kept.of_snd (State.allocEpoch_kept q1 _ ?_) ‹_›
      | apply State.ramWrite_kept q2
      | apply State.showFifo_kept q3
      | apply State.setSlate_kept q4
      | apply State.showStream_kept q3
      | apply State.setCue_kept q5
      | apply State.slackMissed_kept q6
      | apply State.publish_kept q7
      | apply State.baseEngines_kept q8
      | apply State.primeDone_kept q9
      | apply State.setStrm_kept q10
      | apply Kept.foldl
      | split
      | extract_lets
  clear_value done
  repeat' with_reducible first
    | assumption
    | intro _
    | apply k_done
    | apply Kept.ite
    | apply State.finalRows_kept q0
    | apply State.allocEpoch_kept q1
    | refine Kept.of_snd (State.allocEpoch_kept q1 _ ?_) ‹_›
    | apply State.ramWrite_kept q2
    | apply State.showFifo_kept q3
    | apply State.setSlate_kept q4
    | apply State.showStream_kept q3
    | apply State.setCue_kept q5
    | apply State.slackMissed_kept q6
    | apply State.publish_kept q7
    | apply State.baseEngines_kept q8
    | apply State.primeDone_kept q9
    | apply State.setStrm_kept q10
    | apply Kept.foldl
    | split
    | extract_lets

theorem execSlotPublish_kept {ws : List Field} {s₀ s : State} (hs_ : Field.sub [.regs, .bar2, .out, .ram, .rings, .strms, .slotRings, .cueQs, .binFlags, .slates, .cancels, .engs, .poison] ws = true) (site str : Nat)
    (kh_ : Kept ws s₀ s) : Kept ws s₀ (after s (execSlotPublish site str s)) := by
  unfold execSlotPublish
  repeat' with_reducible first
    | assumption
    | intro _
    | apply Kept.after_next
    | apply Kept.ite
    | apply State.slotPublish_kept hs_
    | apply Kept.foldl
    | split
    | extract_lets

theorem State.startStage_kept {ws : List Field} {s₀ s : State} (hs_ : Field.sub [.regs, .bar2, .out, .slotRings, .cueQs, .binFlags, .slates, .cancels, .dqs, .cores, .cmbs, .bndTaken] ws = true) (y : Slate)
    (kh_ : Kept ws s₀ s) : Kept ws s₀ (State.startStage s y) := by
  have q0 := Field.sub_trans (by decide : Field.sub [.bndTaken] [.regs, .bar2, .out, .slotRings, .cueQs, .binFlags, .slates, .cancels, .dqs, .cores, .cmbs, .bndTaken] = true) hs_
  have q1 := Field.sub_trans (by decide : Field.sub [.regs, .bar2, .out, .cmbs] [.regs, .bar2, .out, .slotRings, .cueQs, .binFlags, .slates, .cancels, .dqs, .cores, .cmbs, .bndTaken] = true) hs_
  have q2 := Field.sub_trans (by decide : Field.sub [.regs, .bar2, .out, .slotRings, .dqs, .cores] [.regs, .bar2, .out, .slotRings, .cueQs, .binFlags, .slates, .cancels, .dqs, .cores, .cmbs, .bndTaken] = true) hs_
  have q3 := Field.sub_trans (by decide : Field.sub [.regs, .slotRings, .cueQs, .binFlags, .cancels] [.regs, .bar2, .out, .slotRings, .cueQs, .binFlags, .slates, .cancels, .dqs, .cores, .cmbs, .bndTaken] = true) hs_
  have q4 := Field.sub_trans (by decide : Field.sub [.slates] [.regs, .bar2, .out, .slotRings, .cueQs, .binFlags, .slates, .cancels, .dqs, .cores, .cmbs, .bndTaken] = true) hs_
  unfold State.startStage
  extract_lets -merge w ep s1 s2
  clear_value w
  have k_ep : Kept ws s₀ ep.2 := by
    unfold ep
    repeat' with_reducible first
      | assumption
      | intro _
      | apply Kept.ite
      | apply State.freshBnd_kept q0
      | apply State.dropNodes_kept q1
      | apply State.giveCore_kept q2
      | apply State.installTrees_kept q1
      | apply State.allocEpoch_kept q3
      | refine Kept.of_snd (State.allocEpoch_kept q3 _ ?_) ‹_›
      | apply State.setSlate_kept q4
      | apply Kept.foldl
      | split
      | extract_lets
  clear_value ep
  have k_s1 : Kept ws s₀ s1 := by
    unfold s1
    repeat' with_reducible first
      | assumption
      | intro _
      | refine Kept.of_snd k_ep ‹_›
      | apply Kept.ite
      | apply State.freshBnd_kept q0
      | apply State.dropNodes_kept q1
      | apply State.giveCore_kept q2
      | apply State.installTrees_kept q1
      | apply State.allocEpoch_kept q3
      | refine Kept.of_snd (State.allocEpoch_kept q3 _ ?_) ‹_›
      | apply State.setSlate_kept q4
      | apply Kept.foldl
      | split
      | extract_lets
  clear_value s1
  have k_s2 : Kept ws s₀ s2 := by
    unfold s2
    repeat' with_reducible first
      | assumption
      | intro _
      | refine Kept.of_snd k_ep ‹_›
      | apply Kept.ite
      | apply State.freshBnd_kept q0
      | apply State.dropNodes_kept q1
      | apply State.giveCore_kept q2
      | apply State.installTrees_kept q1
      | apply State.allocEpoch_kept q3
      | refine Kept.of_snd (State.allocEpoch_kept q3 _ ?_) ‹_›
      | apply State.setSlate_kept q4
      | apply Kept.foldl
      | split
      | extract_lets
  clear_value s2
  repeat' with_reducible first
    | assumption
    | intro _
    | refine Kept.of_snd k_ep ‹_›
    | apply Kept.ite
    | apply State.freshBnd_kept q0
    | apply State.dropNodes_kept q1
    | apply State.giveCore_kept q2
    | apply State.installTrees_kept q1
    | apply State.allocEpoch_kept q3
    | refine Kept.of_snd (State.allocEpoch_kept q3 _ ?_) ‹_›
    | apply State.setSlate_kept q4
    | apply Kept.foldl
    | split
    | extract_lets

theorem State.stopStage_kept {ws : List Field} {s₀ s : State} (hs_ : Field.sub [.regs, .back, .bar2, .out, .ram, .hmem, .slotRings, .slates, .cancels, .dqs, .cores, .cmbs, .engs, .mmus, .poison] ws = true) (h : Nat)
    (kh_ : Kept ws s₀ s) : Kept ws s₀ (State.stopStage s h) := by
  have q0 := Field.sub_trans (by decide : Field.sub [.regs, .bar2, .out, .cmbs] [.regs, .back, .bar2, .out, .ram, .hmem, .slotRings, .slates, .cancels, .dqs, .cores, .cmbs, .engs, .mmus, .poison] = true) hs_
  have q1 := Field.sub_trans (by decide : Field.sub [.regs, .bar2, .out, .ram, .hmem, .slotRings, .dqs, .cores, .poison] [.regs, .back, .bar2, .out, .ram, .hmem, .slotRings, .slates, .cancels, .dqs, .cores, .cmbs, .engs, .mmus, .poison] = true) hs_
  have q2 := Field.sub_trans (by decide : Field.sub [.regs, .back, .bar2, .out, .mmus] [.regs, .back, .bar2, .out, .ram, .hmem, .slotRings, .slates, .cancels, .dqs, .cores, .cmbs, .engs, .mmus, .poison] = true) hs_
  have q3 := Field.sub_trans (by decide : Field.sub [.regs, .bar2, .out, .slotRings, .cancels, .engs] [.regs, .back, .bar2, .out, .ram, .hmem, .slotRings, .slates, .cancels, .dqs, .cores, .cmbs, .engs, .mmus, .poison] = true) hs_
  have q4 := Field.sub_trans (by decide : Field.sub [.slates] [.regs, .back, .bar2, .out, .ram, .hmem, .slotRings, .slates, .cancels, .dqs, .cores, .cmbs, .engs, .mmus, .poison] = true) hs_
  unfold State.stopStage
  extract_lets -merge w
  clear_value w
  repeat' with_reducible first
    | assumption
    | intro _
    | apply Kept.ite
    | apply State.dropNodes_kept q0
    | apply State.freeCore_kept q1
    | apply State.dropUnits_kept q2
    | apply State.cancelOn_kept q3
    | apply State.setSlate_kept q4
    | apply Kept.foldl
    | split
    | extract_lets

theorem State.unbind_kept {ws : List Field} {s₀ s : State} (hs_ : Field.sub [.regs, .back, .bar2, .out, .ram, .hmem, .strms, .slotRings, .slates, .cancels, .dqs, .cores, .cmbs, .engs, .mmus, .poison] ws = true) (site k : Nat)
    (kh_ : Kept ws s₀ s) : Kept ws s₀ (State.unbind s site k) := by
  have q0 := Field.sub_trans (by decide : Field.sub [.regs] [.regs, .back, .bar2, .out, .ram, .hmem, .strms, .slotRings, .slates, .cancels, .dqs, .cores, .cmbs, .engs, .mmus, .poison] = true) hs_
  have q1 := Field.sub_trans (by decide : Field.sub [.regs, .back, .bar2, .out, .ram, .hmem, .slotRings, .slates, .cancels, .dqs, .cores, .cmbs, .engs, .mmus, .poison] [.regs, .back, .bar2, .out, .ram, .hmem, .strms, .slotRings, .slates, .cancels, .dqs, .cores, .cmbs, .engs, .mmus, .poison] = true) hs_
  have q2 := Field.sub_trans (by decide : Field.sub [.strms] [.regs, .back, .bar2, .out, .ram, .hmem, .strms, .slotRings, .slates, .cancels, .dqs, .cores, .cmbs, .engs, .mmus, .poison] = true) hs_
  unfold State.unbind
  repeat' with_reducible first
    | assumption
    | intro _
    | apply Kept.ite
    | apply State.showPipe_kept q0
    | apply State.stopStage_kept q1
    | apply State.showStream_kept q0
    | apply State.setNat_kept q0
    | apply State.setStrm_kept q2
    | apply Kept.foldl
    | split
    | extract_lets

theorem State.rebind_kept {ws : List Field} {s₀ s : State} (hs_ : Field.sub [.strms] ws = true) (site k : Nat)
    (kh_ : Kept ws s₀ s) : Kept ws s₀ (State.rebind s site k) := by
  unfold State.rebind
  extract_lets -merge x p wf
  clear_value x p wf
  repeat' with_reducible first
    | assumption
    | intro _
    | apply Kept.ite
    | apply State.setStrm_kept hs_
    | apply Kept.foldl
    | split
    | extract_lets

theorem State.bind_kept {ws : List Field} {s₀ s : State} (hs_ : Field.sub [.regs, .back, .bar2, .out, .ram, .hmem, .strms, .slotRings, .cueQs, .binFlags, .slates, .cancels, .dqs, .cores, .cmbs, .engs, .mmus, .poison, .bndTaken] ws = true) (t site k : Nat) (stages : List (Nat × Nat)) (ls : List LayerDef) (perf perfCue match_ matchCue lag hold : Nat)
    (kh_ : Kept ws s₀ s) : Kept ws s₀ (State.bind s t site k stages ls perf perfCue match_ matchCue lag hold) := by
  have q0 := Field.sub_trans (by decide : Field.sub [.strms] [.regs, .back, .bar2, .out, .ram, .hmem, .strms, .slotRings, .cueQs, .binFlags, .slates, .cancels, .dqs, .cores, .cmbs, .engs, .mmus, .poison, .bndTaken] = true) hs_
  have q1 := Field.sub_trans (by decide : Field.sub [.regs, .back, .bar2, .out, .ram, .hmem, .strms, .slotRings, .slates, .cancels, .dqs, .cores, .cmbs, .engs, .mmus, .poison] [.regs, .back, .bar2, .out, .ram, .hmem, .strms, .slotRings, .cueQs, .binFlags, .slates, .cancels, .dqs, .cores, .cmbs, .engs, .mmus, .poison, .bndTaken] = true) hs_
  have q2 := Field.sub_trans (by decide : Field.sub [.regs] [.regs, .back, .bar2, .out, .ram, .hmem, .strms, .slotRings, .cueQs, .binFlags, .slates, .cancels, .dqs, .cores, .cmbs, .engs, .mmus, .poison, .bndTaken] = true) hs_
  have q3 := Field.sub_trans (by decide : Field.sub [.regs, .bar2, .out, .slotRings, .cueQs, .binFlags, .slates, .cancels, .dqs, .cores, .cmbs, .bndTaken] [.regs, .back, .bar2, .out, .ram, .hmem, .strms, .slotRings, .cueQs, .binFlags, .slates, .cancels, .dqs, .cores, .cmbs, .engs, .mmus, .poison, .bndTaken] = true) hs_
  unfold State.bind
  extract_lets -merge s0 ys h halo s1 b _ s2 s3 s4
  clear_value ys h halo b
  have k_s0 : Kept ws s₀ s0 := by
    unfold s0
    repeat' with_reducible first
      | assumption
      | intro _
      | apply Kept.ite
      | apply State.rebind_kept q0
      | apply State.unbind_kept q1
      | apply State.showPipe_kept q2
      | apply State.startStage_kept q3
      | apply State.showStream_kept q2
      | apply State.setNat_kept q2
      | apply State.setStrm_kept q0
      | apply Kept.foldl
      | split
      | extract_lets
  clear_value s0
  have k_s1 : Kept ws s₀ s1 := by
    unfold s1
    repeat' with_reducible first
      | assumption
      | intro _
      | apply Kept.ite
      | apply State.rebind_kept q0
      | apply State.unbind_kept q1
      | apply State.showPipe_kept q2
      | apply State.startStage_kept q3
      | apply State.showStream_kept q2
      | apply State.setNat_kept q2
      | apply State.setStrm_kept q0
      | apply Kept.foldl
      | split
      | extract_lets
  clear_value s1
  have k_s2 : Kept ws s₀ s2 := by
    unfold s2
    repeat' with_reducible first
      | assumption
      | intro _
      | apply Kept.ite
      | apply State.rebind_kept q0
      | apply State.unbind_kept q1
      | apply State.showPipe_kept q2
      | apply State.startStage_kept q3
      | apply State.showStream_kept q2
      | apply State.setNat_kept q2
      | apply State.setStrm_kept q0
      | apply Kept.foldl
      | split
      | extract_lets
  clear_value s2
  have k_s3 : Kept ws s₀ s3 := by
    unfold s3
    repeat' with_reducible first
      | assumption
      | intro _
      | apply Kept.ite
      | apply State.rebind_kept q0
      | apply State.unbind_kept q1
      | apply State.showPipe_kept q2
      | apply State.startStage_kept q3
      | apply State.showStream_kept q2
      | apply State.setNat_kept q2
      | apply State.setStrm_kept q0
      | apply Kept.foldl
      | split
      | extract_lets
  clear_value s3
  have k_s4 : Kept ws s₀ s4 := by
    unfold s4
    repeat' with_reducible first
      | assumption
      | intro _
      | apply Kept.ite
      | apply State.rebind_kept q0
      | apply State.unbind_kept q1
      | apply State.showPipe_kept q2
      | apply State.startStage_kept q3
      | apply State.showStream_kept q2
      | apply State.setNat_kept q2
      | apply State.setStrm_kept q0
      | apply Kept.foldl
      | split
      | extract_lets
  clear_value s4
  repeat' with_reducible first
    | assumption
    | intro _
    | apply Kept.ite
    | apply State.rebind_kept q0
    | apply State.unbind_kept q1
    | apply State.showPipe_kept q2
    | apply State.startStage_kept q3
    | apply State.showStream_kept q2
    | apply State.setNat_kept q2
    | apply State.setStrm_kept q0
    | apply Kept.foldl
    | split
    | extract_lets

theorem execPipeSet_kept {ws : List Field} {s₀ s : State} (hs_ : Field.sub [.regs, .back, .bar2, .out, .ram, .hmem, .loads, .strms, .slotRings, .cueQs, .binFlags, .slates, .cancels, .dqs, .cores, .cmbs, .engs, .mmus, .poison, .bndTaken] ws = true) (t : Nat)
    (kh_ : Kept ws s₀ s) : Kept ws s₀ (after s (execPipeSet t s)) := by
  have q0 := Field.sub_trans (by decide : Field.sub [.regs, .back, .bar2, .out, .ram, .hmem, .strms, .slotRings, .cueQs, .binFlags, .slates, .cancels, .dqs, .cores, .cmbs, .engs, .mmus, .poison, .bndTaken] [.regs, .back, .bar2, .out, .ram, .hmem, .loads, .strms, .slotRings, .cueQs, .binFlags, .slates, .cancels, .dqs, .cores, .cmbs, .engs, .mmus, .poison, .bndTaken] = true) hs_
  have q1 := Field.sub_trans (by decide : Field.sub [.regs, .back, .bar2, .out, .ram, .hmem, .strms, .slotRings, .slates, .cancels, .dqs, .cores, .cmbs, .engs, .mmus, .poison] [.regs, .back, .bar2, .out, .ram, .hmem, .loads, .strms, .slotRings, .cueQs, .binFlags, .slates, .cancels, .dqs, .cores, .cmbs, .engs, .mmus, .poison, .bndTaken] = true) hs_
  have q2 := Field.sub_trans (by decide : Field.sub [.regs, .bar2, .out, .loads] [.regs, .back, .bar2, .out, .ram, .hmem, .loads, .strms, .slotRings, .cueQs, .binFlags, .slates, .cancels, .dqs, .cores, .cmbs, .engs, .mmus, .poison, .bndTaken] = true) hs_
  unfold execPipeSet
  extract_lets -merge n m
  clear_value n m
  repeat' with_reducible first
    | assumption
    | intro _
    | apply Kept.after_next
    | apply Kept.ite
    | apply State.bind_kept q0
    | apply State.unbind_kept q1
    | apply State.mbServe_kept q2
    | apply State.mbReply_kept q2
    | apply Kept.foldl
    | split
    | extract_lets

theorem State.chooseBounds_kept {ws : List Field} {s₀ : State} (hs_ : Field.sub [.regs, .bar2, .out, .rings, .strms] ws = true) (site k : Nat) : ∀ (f : Nat) {s : State},
    Kept ws s₀ s → Kept ws s₀ (s.chooseBounds site k f) := by
  have q0 : Field.sub [.strms] ws = true := Field.sub_trans (by decide) hs_
  have q1 : Field.sub [.regs, .bar2, .out, .rings, .strms] ws = true := Field.sub_trans (by decide) hs_
  have q2 : Field.sub [.strms] ws = true := Field.sub_trans (by decide) hs_
  have q3 : Field.sub [.strms] ws = true := Field.sub_trans (by decide) hs_
  have q4 : Field.sub [.regs, .bar2, .out] ws = true := Field.sub_trans (by decide) hs_
  have q5 : Field.sub [.regs] ws = true := Field.sub_trans (by decide) hs_
  intro f
  induction f with
  | zero => intro s h; exact h
  | succ f ih =>
    intro s h
    unfold State.chooseBounds
    extract_lets
    split
    · extract_lets
      refine Kept.ite h (ih (State.setStrm_kept q0 _ _ _ (State.reserve_kept q1 _ _ (State.openFrame_kept q2 _ _ _ _ (State.closeFrame_kept q3 _ _ _ ?_)))))
      exact Kept.ite (State.evt_kept q4 _ _ (State.addSat_kept q5 _ _ h)) h
    · exact h

theorem execPerfReport_kept {ws : List Field} {s₀ s : State} (hs_ : Field.sub [.regs, .bar2, .out, .rings, .strms, .cueQs] ws = true) (site str : Nat)
    (kh_ : Kept ws s₀ s) : Kept ws s₀ (after s (execPerfReport site str s)) := by
  have q0 := Field.sub_trans (by decide : Field.sub [.regs, .bar2, .out, .rings, .strms] [.regs, .bar2, .out, .rings, .strms, .cueQs] = true) hs_
  have q1 := Field.sub_trans (by decide : Field.sub [.regs] [.regs, .bar2, .out, .rings, .strms, .cueQs] = true) hs_
  have q2 := Field.sub_trans (by decide : Field.sub [.cueQs] [.regs, .bar2, .out, .rings, .strms, .cueQs] = true) hs_
  have q3 := Field.sub_trans (by decide : Field.sub [.strms] [.regs, .bar2, .out, .rings, .strms, .cueQs] = true) hs_
  unfold execPerfReport
  extract_lets -merge x n
  clear_value x n
  repeat' with_reducible first
    | assumption
    | intro _
    | apply Kept.after_next
    | apply Kept.ite
    | apply State.chooseBounds_kept q0
    | apply State.showPipe_kept q1
    | apply State.setCue_kept q2
    | apply State.setStrm_kept q3
    | apply Kept.foldl
    | split
    | extract_lets

theorem execFrameDescPush_kept {ws : List Field} {s₀ s : State} (hs_ : Field.sub [.strms, .cueQs] ws = true) (site str : Nat)
    (kh_ : Kept ws s₀ s) : Kept ws s₀ (after s (execFrameDescPush site str s)) := by
  have q0 := Field.sub_trans (by decide : Field.sub [.cueQs] [.strms, .cueQs] = true) hs_
  have q1 := Field.sub_trans (by decide : Field.sub [.strms] [.strms, .cueQs] = true) hs_
  unfold execFrameDescPush
  extract_lets -merge x ref
  clear_value x ref
  repeat' with_reducible first
    | assumption
    | intro _
    | apply Kept.after_next
    | apply Kept.ite
    | apply State.setCue_kept q0
    | apply State.setStrm_kept q1
    | apply Kept.foldl
    | split
    | extract_lets

theorem State.setLayer_kept {ws : List Field} {s₀ s : State} (hs_ : Field.sub [.strms] ws = true) (site k idx i : Nat) (v : Nat × Nat × Bool × Bool)
    (kh_ : Kept ws s₀ s) : Kept ws s₀ (State.setLayer s site k idx i v) := by
  unfold State.setLayer
  extract_lets -merge x
  clear_value x
  repeat' with_reducible first
    | assumption
    | intro _
    | apply Kept.ite
    | apply State.setStrm_kept hs_
    | apply Kept.foldl
    | split
    | extract_lets

theorem State.setPart_kept {ws : List Field} {s₀ s : State} (hs_ : Field.sub [.strms] ws = true) (site k i : Nat) (v : Option (Nat × Nat))
    (kh_ : Kept ws s₀ s) : Kept ws s₀ (State.setPart s site k i v) := by
  unfold State.setPart
  extract_lets -merge x
  clear_value x
  repeat' with_reducible first
    | assumption
    | intro _
    | apply Kept.ite
    | apply State.setStrm_kept hs_
    | apply Kept.foldl
    | split
    | extract_lets

theorem State.copyRows_kept {ws : List Field} {s₀ : State} (hs_ : Field.sub [.ram, .hmem, .strms, .poison] ws = true) (site k i : Nat) (def_ : LayerDef) (d sp : Nat) :
    ∀ (n addr line : Nat) {s : State}, Kept ws s₀ s → Kept ws s₀ (s.copyRows site k i def_ d sp addr line n).1 := by
  have q0 : Field.sub [.ram, .hmem, .poison] ws = true := Field.sub_trans (by decide) hs_
  have q1 : Field.sub [.strms] ws = true := Field.sub_trans (by decide) hs_
  have q2 : Field.sub [.strms] ws = true := Field.sub_trans (by decide) hs_
  intro n
  induction n with
  | zero => intro addr line s h; exact h
  | succ n ih =>
    intro addr line s h
    unfold State.copyRows
    extract_lets go part m
    have hgo : ∀ {u : State}, Kept ws s₀ u → Kept ws s₀ (go u).1 := fun hu => ih _ _ hu
    clear_value go part
    refine Kept.ite_fst (hgo h) ?_
    · split
      · split
        · exact hgo h
        · extract_lets v at0 w
          have hw : Kept ws s₀ w.1 := State.taWrite_kept q0 _ _ _ _ h
          clear_value w
          split
          · exact State.setPart_kept q2 _ _ _ _ hw
          · exact hgo (State.setLayer_kept q1 _ _ _ _ _ hw)
      · exact hgo h

theorem State.placeLayer_kept {ws : List Field} {s₀ s : State} (hs_ : Field.sub [.regs, .rings] ws = true) (site k i d n : Nat)
    (kh_ : Kept ws s₀ s) : KeptOQ ws s₀ (State.placeLayer s site k i d n) := by
  unfold State.placeLayer
  split
  · exact KeptOQ.some kh_
  · intro x t e
    rw [Option.map_eq_some_iff] at e
    obtain ⟨⟨off, u⟩, e, f⟩ := e
    cases f
    exact KeptOQ.of (State.allocData_kept hs_ _ _ kh_) e

theorem State.takeFrameLayer_kept {ws : List Field} {s₀ s : State} (hs_ : Field.sub [.regs, .ram, .hmem, .rings, .strms, .poison] ws = true) (site k i d idx : Nat) (bytes : List Byte)
    (kh_ : Kept ws s₀ s) : KeptOP ws s₀ (State.takeFrameLayer s site k i d idx bytes) := by
  have q0 := Field.sub_trans (by decide : Field.sub [.regs, .rings] [.regs, .ram, .hmem, .rings, .strms, .poison] = true) hs_
  have q1 := Field.sub_trans (by decide : Field.sub [.strms] [.regs, .ram, .hmem, .rings, .strms, .poison] = true) hs_
  have q2 := Field.sub_trans (by decide : Field.sub [.ram, .hmem, .poison] [.regs, .ram, .hmem, .rings, .strms, .poison] = true) hs_
  unfold State.takeFrameLayer
  repeat' with_reducible first
    | assumption
    | intro _
    | apply KeptOP.ite
    | apply KeptOP.some
    | exact KeptOP.none
    | apply Kept.ite
    | apply State.placeLayer_kept q0
    | refine KeptOQ.of (State.placeLayer_kept q0 _ _ _ _ _ ?_) ‹_›
    | apply State.setPart_kept q1
    | apply State.setLayer_kept q1
    | apply State.taWrite_kept q2
    | refine Kept.of_fst (State.taWrite_kept q2 _ _ _ _ ?_) ‹_›
    | apply Kept.foldl
    | split
    | extract_lets

theorem State.holdLayer_kept {ws : List Field} {s₀ s : State} (hs_ : Field.sub [.regs, .bar2, .out, .rings] ws = true) (d : Nat) (v : Option Nat)
    (kh_ : Kept ws s₀ s) : Kept ws s₀ (State.holdLayer s d v) := by
  have q0 := Field.sub_trans (by decide : Field.sub [.regs, .bar2, .out] [.regs, .bar2, .out, .rings] = true) hs_
  have q1 := Field.sub_trans (by decide : Field.sub [.rings] [.regs, .bar2, .out, .rings] = true) hs_
  unfold State.holdLayer
  extract_lets -merge _
  repeat' with_reducible first
    | assumption
    | intro _
    | apply Kept.ite
    | apply State.showRing_kept q0
    | apply State.setRing_kept q1
    | apply Kept.foldl
    | split
    | extract_lets

theorem State.unholdLayer_kept {ws : List Field} {s₀ s : State} (hs_ : Field.sub [.regs, .bar2, .out, .rings] ws = true) (d i : Nat)
    (kh_ : Kept ws s₀ s) : Kept ws s₀ (State.unholdLayer s d i) := by
  unfold State.unholdLayer
  repeat' with_reducible first
    | assumption
    | intro _
    | apply Kept.ite
    | apply State.holdLayer_kept hs_
    | apply Kept.foldl
    | split
    | extract_lets

theorem State.setLayerAt_kept {ws : List Field} {s₀ s : State} (hs_ : Field.sub [.strms] ws = true) (site k i n v : Nat) (defs : List LayerDef)
    (kh_ : Kept ws s₀ s) : Kept ws s₀ (State.setLayerAt s site k i n v defs) := by
  unfold State.setLayerAt
  extract_lets -merge x
  clear_value x
  repeat' with_reducible first
    | assumption
    | intro _
    | apply Kept.ite
    | apply State.setStrm_kept hs_
    | apply Kept.foldl
    | split
    | extract_lets

theorem execLayerReceive_kept {ws : List Field} {s₀ s0 : State} (hs_ : Field.sub [.regs, .back, .bar2, .out, .ram, .hmem, .rings, .strms, .slotRings, .cueQs, .slates, .cancels, .tqs, .sched, .dqs, .cores, .cmbs, .engs, .mmus, .poison] ws = true) (site k layer : Nat)
    (kh_ : Kept ws s₀ s0) : Kept ws s₀ (after s0 (execLayerReceive site k layer s0)) := by
  have q0 := Field.sub_trans (by decide : Field.sub [.strms] [.regs, .back, .bar2, .out, .ram, .hmem, .rings, .strms, .slotRings, .cueQs, .slates, .cancels, .tqs, .sched, .dqs, .cores, .cmbs, .engs, .mmus, .poison] = true) hs_
  have q1 := Field.sub_trans (by decide : Field.sub [.regs, .bar2, .out, .rings] [.regs, .back, .bar2, .out, .ram, .hmem, .rings, .strms, .slotRings, .cueQs, .slates, .cancels, .tqs, .sched, .dqs, .cores, .cmbs, .engs, .mmus, .poison] = true) hs_
  have q2 := Field.sub_trans (by decide : Field.sub [.regs, .ram, .hmem, .rings, .strms, .poison] [.regs, .back, .bar2, .out, .ram, .hmem, .rings, .strms, .slotRings, .cueQs, .slates, .cancels, .tqs, .sched, .dqs, .cores, .cmbs, .engs, .mmus, .poison] = true) hs_
  have q3 := Field.sub_trans (by decide : Field.sub [.regs, .back, .bar2, .out, .ram, .hmem, .slotRings, .slates, .cancels, .tqs, .sched, .dqs, .cores, .cmbs, .engs, .mmus, .poison] [.regs, .back, .bar2, .out, .ram, .hmem, .rings, .strms, .slotRings, .cueQs, .slates, .cancels, .tqs, .sched, .dqs, .cores, .cmbs, .engs, .mmus, .poison] = true) hs_
  have q4 := Field.sub_trans (by decide : Field.sub [.ram, .hmem, .strms, .poison] [.regs, .back, .bar2, .out, .ram, .hmem, .rings, .strms, .slotRings, .cueQs, .slates, .cancels, .tqs, .sched, .dqs, .cores, .cmbs, .engs, .mmus, .poison] = true) hs_
  have q5 := Field.sub_trans (by decide : Field.sub [.regs, .back, .bar2, .out, .mmus] [.regs, .back, .bar2, .out, .ram, .hmem, .rings, .strms, .slotRings, .cueQs, .slates, .cancels, .tqs, .sched, .dqs, .cores, .cmbs, .engs, .mmus, .poison] = true) hs_
  have q6 := Field.sub_trans (by decide : Field.sub [.regs, .bar2, .out, .rings, .strms] [.regs, .back, .bar2, .out, .ram, .hmem, .rings, .strms, .slotRings, .cueQs, .slates, .cancels, .tqs, .sched, .dqs, .cores, .cmbs, .engs, .mmus, .poison] = true) hs_
  have q7 := Field.sub_trans (by decide : Field.sub [.cueQs] [.regs, .back, .bar2, .out, .ram, .hmem, .rings, .strms, .slotRings, .cueQs, .slates, .cancels, .tqs, .sched, .dqs, .cores, .cmbs, .engs, .mmus, .poison] = true) hs_
  have q8 := Field.sub_trans (by decide : Field.sub [.regs, .slotRings] [.regs, .back, .bar2, .out, .ram, .hmem, .rings, .strms, .slotRings, .cueQs, .slates, .cancels, .tqs, .sched, .dqs, .cores, .cmbs, .engs, .mmus, .poison] = true) hs_
  unfold execLayerReceive
  extract_lets -merge s x d idx idx_1 line
  clear_value x d idx idx_1 line
  have k_s : Kept ws s₀ s := by
    unfold s
    repeat' with_reducible first
      | assumption
      | intro _
      | apply Kept.after_next
      | apply Kept.ite
      | apply State.setLayerAt_kept q0
      | apply State.unholdLayer_kept q1
      | apply State.holdLayer_kept q1
      | apply State.takeFrameLayer_kept q2
      | refine KeptOP.of (State.takeFrameLayer_kept q2 _ _ _ _ _ _ ?_) ‹_›
      | apply State.eatPoison_kept q3
      | apply State.copyRows_kept q4
      | refine Kept.of_fst (State.copyRows_kept q4 _ _ _ _ _ _ _ _ _ ?_) ‹_›
      | apply State.setPart_kept q0
      | apply State.ringPage_kept q5
      | apply State.reserve_kept q6
      | apply State.setCue_kept q7
      | apply State.release_kept q8
      | apply Kept.foldl
      | split
      | extract_lets
  clear_value s
  repeat' with_reducible first
    | assumption
    | intro _
    | apply Kept.after_next
    | apply Kept.ite
    | apply State.setLayerAt_kept q0
    | apply State.unholdLayer_kept q1
    | apply State.holdLayer_kept q1
    | apply State.takeFrameLayer_kept q2
    | refine KeptOP.of (State.takeFrameLayer_kept q2 _ _ _ _ _ _ ?_) ‹_›
    | apply State.eatPoison_kept q3
    | apply State.copyRows_kept q4
    | refine Kept.of_fst (State.copyRows_kept q4 _ _ _ _ _ _ _ _ _ ?_) ‹_›
    | apply State.setPart_kept q0
    | apply State.ringPage_kept q5
    | apply State.reserve_kept q6
    | apply State.setCue_kept q7
    | apply State.release_kept q8
    | apply Kept.foldl
    | split
    | extract_lets

theorem State.emitFrame_kept {ws : List Field} {s₀ s : State} (hs_ : Field.sub [.regs, .bar2, .out, .rings, .strms] ws = true) (site k : Nat) (f : Frame) (defs : List LayerDef) (last : Nat)
    (kh_ : Kept ws s₀ s) : Kept ws s₀ (State.emitFrame s site k f defs last) := by
  have q0 := Field.sub_trans (by decide : Field.sub [.regs] [.regs, .bar2, .out, .rings, .strms] = true) hs_
  have q1 := Field.sub_trans (by decide : Field.sub [.regs, .bar2, .out] [.regs, .bar2, .out, .rings, .strms] = true) hs_
  have q2 := Field.sub_trans (by decide : Field.sub [.rings] [.regs, .bar2, .out, .rings, .strms] = true) hs_
  have q3 := Field.sub_trans (by decide : Field.sub [.strms] [.regs, .bar2, .out, .rings, .strms] = true) hs_
  unfold State.emitFrame
  extract_lets -merge p x absent s1 s2 s3
  clear_value p x absent
  have k_s1 : Kept ws s₀ s1 := by
    unfold s1
    repeat' with_reducible first
      | assumption
      | intro _
      | apply Kept.ite
      | apply State.showPipe_kept q0
      | apply State.evtIf_kept q1
      | apply State.reserve_kept hs_
      | apply State.queueRec_kept q2
      | apply State.setNat_kept q0
      | apply State.addSat_kept q0
      | apply State.setStrm_kept q3
      | apply Kept.foldl
      | split
      | extract_lets
  clear_value s1
  have k_s2 : Kept ws s₀ s2 := by
    unfold s2
    repeat' with_reducible first
      | assumption
      | intro _
      | apply Kept.ite
      | apply State.showPipe_kept q0
      | apply State.evtIf_kept q1
      | apply State.reserve_kept hs_
      | apply State.queueRec_kept q2
      | apply State.setNat_kept q0
      | apply State.addSat_kept q0
      | apply State.setStrm_kept q3
      | apply Kept.foldl
      | split
      | extract_lets
  clear_value s2
  have k_s3 : Kept ws s₀ s3 := by
    unfold s3
    repeat' with_reducible first
      | assumption
      | intro _
      | apply Kept.ite
      | apply State.showPipe_kept q0
      | apply State.evtIf_kept q1
      | apply State.reserve_kept hs_
      | apply State.queueRec_kept q2
      | apply State.setNat_kept q0
      | apply State.addSat_kept q0
      | apply State.setStrm_kept q3
      | apply Kept.foldl
      | split
      | extract_lets
  clear_value s3
  repeat' with_reducible first
    | assumption
    | intro _
    | apply Kept.ite
    | apply State.showPipe_kept q0
    | apply State.evtIf_kept q1
    | apply State.reserve_kept hs_
    | apply State.queueRec_kept q2
    | apply State.setNat_kept q0
    | apply State.addSat_kept q0
    | apply State.setStrm_kept q3
    | apply Kept.foldl
    | split
    | extract_lets

theorem execFrameEmit_kept {ws : List Field} {s₀ s : State} (hs_ : Field.sub [.regs, .bar2, .out, .rings, .strms] ws = true) (site str : Nat)
    (kh_ : Kept ws s₀ s) : Kept ws s₀ (after s (execFrameEmit site str s)) := by
  unfold execFrameEmit
  extract_lets -merge x defs
  clear_value x defs
  repeat' with_reducible first
    | assumption
    | intro _
    | apply Kept.after_next
    | apply Kept.ite
    | apply State.emitFrame_kept hs_
    | apply Kept.foldl
    | split
    | extract_lets

theorem execFrameHoldExpire_kept {ws : List Field} {s₀ s : State} (hs_ : Field.sub [.regs, .bar2, .out, .rings, .strms] ws = true) (site str : Nat)
    (kh_ : Kept ws s₀ s) : Kept ws s₀ (after s (execFrameHoldExpire site str s)) := by
  unfold execFrameHoldExpire
  extract_lets -merge x defs
  clear_value x
  repeat' with_reducible first
    | assumption
    | intro _
    | apply Kept.after_next
    | apply Kept.ite
    | apply State.emitFrame_kept hs_
    | apply Kept.foldl
    | split
    | extract_lets

theorem State.freshStream_kept {ws : List Field} {s₀ s : State} (hs_ : Field.sub [.regs, .strms, .slotRings, .slates, .engs] ws = true) (site k : Nat)
    (kh_ : Kept ws s₀ s) : Kept ws s₀ (State.freshStream s site k) := by
  have q0 := Field.sub_trans (by decide : Field.sub [.regs] [.regs, .strms, .slotRings, .slates, .engs] = true) hs_
  have q1 := Field.sub_trans (by decide : Field.sub [.slates] [.regs, .strms, .slotRings, .slates, .engs] = true) hs_
  have q2 := Field.sub_trans (by decide : Field.sub [.regs, .slotRings] [.regs, .strms, .slotRings, .slates, .engs] = true) hs_
  have q3 := Field.sub_trans (by decide : Field.sub [.strms] [.regs, .strms, .slotRings, .slates, .engs] = true) hs_
  have q4 := Field.sub_trans (by decide : Field.sub [.engs] [.regs, .strms, .slotRings, .slates, .engs] = true) hs_
  unfold State.freshStream
  extract_lets -merge x s1 s2 s3
  clear_value x
  have k_s1 : Kept ws s₀ s1 := by
    unfold s1
    repeat' with_reducible first
      | assumption
      | intro _
      | apply Kept.ite
      | apply State.showPipe_kept q0
      | apply State.setSlate_kept q1
      | apply State.showStream_kept q0
      | apply State.release_kept q2
      | apply State.setNat_kept q0
      | apply State.setStrm_kept q3
      | apply State.setEng_kept q4
      | apply Kept.foldl
      | split
      | extract_lets
  clear_value s1
  have k_s2 : Kept ws s₀ s2 := by
    unfold s2
    repeat' with_reducible first
      | assumption
      | intro _
      | apply Kept.ite
      | apply State.showPipe_kept q0
      | apply State.setSlate_kept q1
      | apply State.showStream_kept q0
      | apply State.release_kept q2
      | apply State.setNat_kept q0
      | apply State.setStrm_kept q3
      | apply State.setEng_kept q4
      | apply Kept.foldl
      | split
      | extract_lets
  clear_value s2
  have k_s3 : Kept ws s₀ s3 := by
    unfold s3
    repeat' with_reducible first
      | assumption
      | intro _
      | apply Kept.ite
      | apply State.showPipe_kept q0
      | apply State.setSlate_kept q1
      | apply State.showStream_kept q0
      | apply State.release_kept q2
      | apply State.setNat_kept q0
      | apply State.setStrm_kept q3
      | apply State.setEng_kept q4
      | apply Kept.foldl
      | split
      | extract_lets
  clear_value s3
  repeat' with_reducible first
    | assumption
    | intro _
    | apply Kept.ite
    | apply State.showPipe_kept q0
    | apply State.setSlate_kept q1
    | apply State.showStream_kept q0
    | apply State.release_kept q2
    | apply State.setNat_kept q0
    | apply State.setStrm_kept q3
    | apply State.setEng_kept q4
    | apply Kept.foldl
    | split
    | extract_lets

end Sys2Proof.Machine
end

