-- ==== Sys2Proof/Laws/KVision.lean ====
section
/-!
SUPPORT. Laws/KVision.lean: what each operation of Machine/Vision.lean may change, and that it keeps the canonical form.
-/
namespace Sys2Proof.Machine

theorem State.showEng_kept {ws : List Field} {s₀ s : State} (hs_ : Field.sub [.regs] ws = true) (site e : Nat)
    (kh_ : Kept ws s₀ s) : Kept ws s₀ (State.showEng s site e) := by
  unfold State.showEng
  extract_lets -merge x p j
  clear_value x p j
  repeat' with_reducible first
    | assumption
    | intro _
    | apply Kept.ite
    | apply State.setNat_kept hs_
    | apply Kept.foldl
    | split
    | extract_lets

theorem State.onEngine_kept {ws : List Field} {s₀ s : State} (hs_ : Field.sub [] ws = true) (site e kind : Nat) (k : State →   Eng → Slate → Job → State) (h_k : ∀ t0 t1 t2 t3, Kept ws s₀ t0 → Kept ws s₀ (k t0 t1 t2 t3))
    (kh_ : Kept ws s₀ s) : Kept ws s₀ (State.onEngine s site e kind k) := by
  unfold State.onEngine
  extract_lets -merge x j
  clear_value x j
  repeat' with_reducible first
    | assumption
    | intro _
    | apply h_k
    | apply Kept.ite
    | apply Kept.foldl
    | split
    | extract_lets

theorem State.engBound_kept {ws : List Field} {s₀ s : State} (hs_ : Field.sub [.regs, .back, .bar2, .out, .ram, .hmem, .slotRings, .slates, .cancels, .tqs, .sched, .dqs, .cores, .cmbs, .engs, .mmus, .poison, .bndTaken, .free] ws = true) (site e kind addr limit : Nat) (x : Eng)
    (kh_ : Kept ws s₀ s) : Kept ws s₀ (State.engBound s site e kind addr limit x) := by
  unfold State.engBound
  repeat' with_reducible first
    | assumption
    | intro _
    | apply Kept.ite
    | apply State.boundFault_kept hs_
    | apply Kept.foldl
    | split
    | extract_lets

theorem State.onLine_kept {ws : List Field} {s₀ s : State} (hs_ : Field.sub [.regs, .back, .bar2, .out, .ram, .hmem, .slotRings, .slates, .cancels, .tqs, .sched, .dqs, .cores, .cmbs, .engs, .mmus, .poison, .free] ws = true) (site e : Nat) (x : Eng) (j : Job) (k : State → State) (h_k : ∀ t0, Kept ws s₀ t0 → Kept ws s₀ (k t0))
    (kh_ : Kept ws s₀ s) : Kept ws s₀ (State.onLine s site e x j k) := by
  have q0 := Field.sub_trans (by decide : Field.sub [.regs, .back, .bar2, .out, .ram, .hmem, .slotRings, .slates, .cancels, .tqs, .sched, .dqs, .cores, .cmbs, .engs, .mmus, .poison] [.regs, .back, .bar2, .out, .ram, .hmem, .slotRings, .slates, .cancels, .tqs, .sched, .dqs, .cores, .cmbs, .engs, .mmus, .poison, .free] = true) hs_
  have q1 := Field.sub_trans (by decide : Field.sub [.regs, .bar2, .out] [.regs, .back, .bar2, .out, .ram, .hmem, .slotRings, .slates, .cancels, .tqs, .sched, .dqs, .cores, .cmbs, .engs, .mmus, .poison, .free] = true) hs_
  have q2 := Field.sub_trans (by decide : Field.sub [.free] [.regs, .back, .bar2, .out, .ram, .hmem, .slotRings, .slates, .cancels, .tqs, .sched, .dqs, .cores, .cmbs, .engs, .mmus, .poison, .free] = true) hs_
  have q3 := Field.sub_trans (by decide : Field.sub [.poison] [.regs, .back, .bar2, .out, .ram, .hmem, .slotRings, .slates, .cancels, .tqs, .sched, .dqs, .cores, .cmbs, .engs, .mmus, .poison, .free] = true) hs_
  unfold State.onLine
  extract_lets -merge ps s1
  clear_value ps
  have k_s1 : Kept ws s₀ s1 := by
    unfold s1
    repeat' with_reducible first
      | assumption
      | intro _
      | apply h_k
      | apply Kept.ite
      | apply State.contained_kept q0
      | apply State.toFault_kept q1
      | apply State.consumePoison_kept q1
      | apply State.draw_kept q2
      | apply Kept.foldl
      | split
      | extract_lets
      | apply Kept.set_poison _ q3
  clear_value s1
  repeat' with_reducible first
    | assumption
    | intro _
    | apply h_k
    | apply Kept.ite
    | apply State.contained_kept q0
    | apply State.toFault_kept q1
    | apply State.consumePoison_kept q1
    | apply State.draw_kept q2
    | apply Kept.foldl
    | split
    | extract_lets
    | apply Kept.set_poison _ q3

theorem State.stripeUnit_kept {ws : List Field} {s₀ s : State} (hs_ : Field.sub [.regs, .back, .bar2, .out, .ram, .hmem, .slotRings, .slates, .cancels, .tqs, .sched, .dqs, .cores, .cmbs, .engs, .mmus, .poison, .bndTaken, .free] ws = true) (site e : Nat) (x : Eng) (y : Slate) (j : Job) (k : State → Nat → List (Nat × Nat × List Int) → Nat → List Nat → State) (h_k : ∀ t0 t1 t2 t3 t4, Kept ws s₀ t0 → Kept ws s₀ (k t0 t1 t2 t3 t4))
    (kh_ : Kept ws s₀ s) : Kept ws s₀ (State.stripeUnit s site e x y j k) := by
  have q0 := Field.sub_trans (by decide : Field.sub [.regs, .back, .bar2, .out, .ram, .hmem, .slotRings, .slates, .cancels, .tqs, .sched, .dqs, .cores, .cmbs, .engs, .mmus, .poison] [.regs, .back, .bar2, .out, .ram, .hmem, .slotRings, .slates, .cancels, .tqs, .sched, .dqs, .cores, .cmbs, .engs, .mmus, .poison, .bndTaken, .free] = true) hs_
  have q1 := Field.sub_trans (by decide : Field.sub [.regs, .back, .bar2, .out, .ram, .hmem, .slotRings, .slates, .cancels, .tqs, .sched, .dqs, .cores, .cmbs, .engs, .mmus, .poison, .free] [.regs, .back, .bar2, .out, .ram, .hmem, .slotRings, .slates, .cancels, .tqs, .sched, .dqs, .cores, .cmbs, .engs, .mmus, .poison, .bndTaken, .free] = true) hs_
  unfold State.stripeUnit
  extract_lets -merge px inp len b lag first
  clear_value px inp len b lag first
  repeat' with_reducible first
    | assumption
    | intro _
    | apply h_k
    | apply Kept.ite
    | apply State.eatPoison_kept q0
    | apply State.onLine_kept q1
    | apply State.engBound_kept hs_
    | apply Kept.foldl
    | split
    | extract_lets

theorem execFilterUnit_kept {ws : List Field} {s₀ s : State} (hs_ : Field.sub [.regs, .back, .bar2, .out, .ram, .hmem, .slotRings, .slates, .cancels, .tqs, .sched, .dqs, .cores, .cmbs, .engs, .mmus, .poison, .bndTaken, .free] ws = true) (site e : Nat)
    (kh_ : Kept ws s₀ s) : Kept ws s₀ (after s (execFilterUnit site e s)) := by
  have q0 := Field.sub_trans (by decide : Field.sub [] [.regs, .back, .bar2, .out, .ram, .hmem, .slotRings, .slates, .cancels, .tqs, .sched, .dqs, .cores, .cmbs, .engs, .mmus, .poison, .bndTaken, .free] = true) hs_
  have q1 := Field.sub_trans (by decide : Field.sub [.regs] [.regs, .back, .bar2, .out, .ram, .hmem, .slotRings, .slates, .cancels, .tqs, .sched, .dqs, .cores, .cmbs, .engs, .mmus, .poison, .bndTaken, .free] = true) hs_
  have q2 := Field.sub_trans (by decide : Field.sub [.engs] [.regs, .back, .bar2, .out, .ram, .hmem, .slotRings, .slates, .cancels, .tqs, .sched, .dqs, .cores, .cmbs, .engs, .mmus, .poison, .bndTaken, .free] = true) hs_
  unfold execFilterUnit
  repeat' with_reducible first
    | assumption
    | intro _
    | apply Kept.after_next
    | apply Kept.ite
    | apply State.stripeUnit_kept hs_
    | apply State.engBound_kept hs_
    | apply State.onEngine_kept q0
    | apply State.showEng_kept q1
    | apply State.setEng_kept q2
    | apply Kept.foldl
    | split
    | extract_lets

theorem State.engPageStop_kept {ws : List Field} {s₀ s : State} (hs_ : Field.sub [.regs, .back, .bar2, .out, .ram, .hmem, .slotRings, .slates, .cancels, .tqs, .sched, .dqs, .cores, .cmbs, .engs, .mmus, .poison] ws = true) (site e ta : Nat) (write : Bool) (x : Eng) (f : Walk)
    (kh_ : Kept ws s₀ s) : Kept ws s₀ (State.engPageStop s site e ta write x f) := by
  have q0 := Field.sub_trans (by decide : Field.sub [.regs, .back, .bar2, .out] [.regs, .back, .bar2, .out, .ram, .hmem, .slotRings, .slates, .cancels, .tqs, .sched, .dqs, .cores, .cmbs, .engs, .mmus, .poison] = true) hs_
  unfold State.engPageStop
  extract_lets -merge s1
  have k_s1 : Kept ws s₀ s1 := by
    unfold s1
    repeat' with_reducible first
      | assumption
      | intro _
      | apply Kept.ite
      | apply State.pageStop_kept hs_
      | apply State.halt_kept q0
      | apply Kept.foldl
      | split
      | extract_lets
  clear_value s1
  repeat' with_reducible first
    | assumption
    | intro _
    | apply Kept.ite
    | apply State.pageStop_kept hs_
    | apply State.halt_kept q0
    | apply Kept.foldl
    | split
    | extract_lets

theorem execPyramidUnit_kept {ws : List Field} {s₀ s : State} (hs_ : Field.sub [.regs, .back, .bar2, .out, .ram, .hmem, .slotRings, .slates, .cancels, .tqs, .sched, .dqs, .cores, .cmbs, .engs, .mmus, .poison, .bndTaken, .free] ws = true) (site e : Nat)
    (kh_ : Kept ws s₀ s) : Kept ws s₀ (after s (execPyramidUnit site e s)) := by
  have q0 := Field.sub_trans (by decide : Field.sub [.regs, .back, .bar2, .out, .ram, .hmem, .slotRings, .slates, .cancels, .tqs, .sched, .dqs, .cores, .cmbs, .engs, .mmus, .poison] [.regs, .back, .bar2, .out, .ram, .hmem, .slotRings, .slates, .cancels, .tqs, .sched, .dqs, .cores, .cmbs, .engs, .mmus, .poison, .bndTaken, .free] = true) hs_
  have q1 := Field.sub_trans (by decide : Field.sub [] [.regs, .back, .bar2, .out, .ram, .hmem, .slotRings, .slates, .cancels, .tqs, .sched, .dqs, .cores, .cmbs, .engs, .mmus, .poison, .bndTaken, .free] = true) hs_
  have q2 := Field.sub_trans (by decide : Field.sub [.regs] [.regs, .back, .bar2, .out, .ram, .hmem, .slotRings, .slates, .cancels, .tqs, .sched, .dqs, .cores, .cmbs, .engs, .mmus, .poison, .bndTaken, .free] = true) hs_
  have q3 := Field.sub_trans (by decide : Field.sub [.engs] [.regs, .back, .bar2, .out, .ram, .hmem, .slotRings, .slates, .cancels, .tqs, .sched, .dqs, .cores, .cmbs, .engs, .mmus, .poison, .bndTaken, .free] = true) hs_
  unfold execPyramidUnit
  repeat' with_reducible first
    | assumption
    | intro _
    | apply Kept.after_next
    | apply Kept.ite
    | apply State.engPageStop_kept q0
    | apply State.stripeUnit_kept hs_
    | apply State.engBound_kept hs_
    | apply State.onEngine_kept q1
    | apply State.showEng_kept q2
    | apply State.setEng_kept q3
    | apply Kept.foldl
    | split
    | extract_lets

theorem State.matchBegin_kept {ws : List Field} {s₀ s : State} (hs_ : Field.sub [.regs, .back, .bar2, .out, .ram, .hmem, .slotRings, .cueQs, .slates, .cancels, .tqs, .sched, .dqs, .cores, .cmbs, .engs, .mmus, .poison, .bndTaken, .free] ws = true) (site e : Nat) (x : Eng) (y : Slate) (j : Job) (q : Nat × Nat) (h : Nat) (rest : List Nat) (cost : Nat) (bytes : List Byte)
    (kh_ : Kept ws s₀ s) : Kept ws s₀ (State.matchBegin s site e x y j q h rest cost bytes) := by
  have q0 := Field.sub_trans (by decide : Field.sub [.regs, .back, .bar2, .out, .ram, .hmem, .slotRings, .slates, .cancels, .tqs, .sched, .dqs, .cores, .cmbs, .engs, .mmus, .poison, .bndTaken, .free] [.regs, .back, .bar2, .out, .ram, .hmem, .slotRings, .cueQs, .slates, .cancels, .tqs, .sched, .dqs, .cores, .cmbs, .engs, .mmus, .poison, .bndTaken, .free] = true) hs_
  have q1 := Field.sub_trans (by decide : Field.sub [.regs] [.regs, .back, .bar2, .out, .ram, .hmem, .slotRings, .cueQs, .slates, .cancels, .tqs, .sched, .dqs, .cores, .cmbs, .engs, .mmus, .poison, .bndTaken, .free] = true) hs_
  have q2 := Field.sub_trans (by decide : Field.sub [.cueQs] [.regs, .back, .bar2, .out, .ram, .hmem, .slotRings, .cueQs, .slates, .cancels, .tqs, .sched, .dqs, .cores, .cmbs, .engs, .mmus, .poison, .bndTaken, .free] = true) hs_
  have q3 := Field.sub_trans (by decide : Field.sub [.engs] [.regs, .back, .bar2, .out, .ram, .hmem, .slotRings, .cueQs, .slates, .cancels, .tqs, .sched, .dqs, .cores, .cmbs, .engs, .mmus, .poison, .bndTaken, .free] = true) hs_
  unfold State.matchBegin
  extract_lets -merge out
  clear_value out
  repeat' with_reducible first
    | assumption
    | intro _
    | apply Kept.ite
    | apply State.engBound_kept q0
    | apply State.showEng_kept q1
    | apply State.setCue_kept q2
    | apply State.setEng_kept q3
    | apply Kept.foldl
    | split
    | extract_lets

theorem execMatchUnit_kept {ws : List Field} {s₀ s : State} (hs_ : Field.sub [.regs, .back, .bar2, .out, .ram, .hmem, .slotRings, .cueQs, .slates, .cancels, .tqs, .sched, .dqs, .cores, .cmbs, .engs, .mmus, .poison, .bndTaken, .free] ws = true) (site e : Nat)
    (kh_ : Kept ws s₀ s) : Kept ws s₀ (after s (execMatchUnit site e s)) := by
  have q0 := Field.sub_trans (by decide : Field.sub [.regs, .back, .bar2, .out, .ram, .hmem, .slotRings, .slates, .cancels, .tqs, .sched, .dqs, .cores, .cmbs, .engs, .mmus, .poison] [.regs, .back, .bar2, .out, .ram, .hmem, .slotRings, .cueQs, .slates, .cancels, .tqs, .sched, .dqs, .cores, .cmbs, .engs, .mmus, .poison, .bndTaken, .free] = true) hs_
  have q1 := Field.sub_trans (by decide : Field.sub [.regs, .bar2, .out] [.regs, .back, .bar2, .out, .ram, .hmem, .slotRings, .cueQs, .slates, .cancels, .tqs, .sched, .dqs, .cores, .cmbs, .engs, .mmus, .poison, .bndTaken, .free] = true) hs_
  have q2 := Field.sub_trans (by decide : Field.sub [.regs, .back, .bar2, .out, .ram, .hmem, .slotRings, .slates, .cancels, .tqs, .sched, .dqs, .cores, .cmbs, .engs, .mmus, .poison, .free] [.regs, .back, .bar2, .out, .ram, .hmem, .slotRings, .cueQs, .slates, .cancels, .tqs, .sched, .dqs, .cores, .cmbs, .engs, .mmus, .poison, .bndTaken, .free] = true) hs_
  have q3 := Field.sub_trans (by decide : Field.sub [.regs, .back, .bar2, .out, .ram, .hmem, .slotRings, .slates, .cancels, .tqs, .sched, .dqs, .cores, .cmbs, .engs, .mmus, .poison, .bndTaken, .free] [.regs, .back, .bar2, .out, .ram, .hmem, .slotRings, .cueQs, .slates, .cancels, .tqs, .sched, .dqs, .cores, .cmbs, .engs, .mmus, .poison, .bndTaken, .free] = true) hs_
  have q4 := Field.sub_trans (by decide : Field.sub [] [.regs, .back, .bar2, .out, .ram, .hmem, .slotRings, .cueQs, .slates, .cancels, .tqs, .sched, .dqs, .cores, .cmbs, .engs, .mmus, .poison, .bndTaken, .free] = true) hs_
  unfold execMatchUnit
  repeat' with_reducible first
    | assumption
    | intro _
    | apply Kept.after_next
    | apply Kept.ite
    | apply State.matchBegin_kept hs_
    | apply State.eatPoison_kept q0
    | apply State.engPageStop_kept q0
    | apply State.evtIf_kept q1
    | apply State.evt_kept q1
    | apply State.onLine_kept q2
    | apply State.engBound_kept q3
    | apply State.onEngine_kept q4
    | apply Kept.foldl
    | split
    | extract_lets

theorem execUnitDone_kept {ws : List Field} {s₀ s : State} (hs_ : Field.sub [.regs, .back, .bar2, .out, .ram, .hmem, .slotRings, .binFlags, .slates, .cancels, .tqs, .sched, .dqs, .cores, .cmbs, .engs, .mmus, .poison, .free] ws = true) (site e : Nat)
    (kh_ : Kept ws s₀ s) : Kept ws s₀ (after s (execUnitDone site e s)) := by
  have q0 := Field.sub_trans (by decide : Field.sub [.regs, .back, .bar2, .out, .ram, .hmem, .slotRings, .slates, .cancels, .tqs, .sched, .dqs, .cores, .cmbs, .engs, .mmus, .poison] [.regs, .back, .bar2, .out, .ram, .hmem, .slotRings, .binFlags, .slates, .cancels, .tqs, .sched, .dqs, .cores, .cmbs, .engs, .mmus, .poison, .free] = true) hs_
  have q1 := Field.sub_trans (by decide : Field.sub [.regs, .bar2, .out, .slotRings, .engs] [.regs, .back, .bar2, .out, .ram, .hmem, .slotRings, .binFlags, .slates, .cancels, .tqs, .sched, .dqs, .cores, .cmbs, .engs, .mmus, .poison, .free] = true) hs_
  have q2 := Field.sub_trans (by decide : Field.sub [.regs, .bar2, .out] [.regs, .back, .bar2, .out, .ram, .hmem, .slotRings, .binFlags, .slates, .cancels, .tqs, .sched, .dqs, .cores, .cmbs, .engs, .mmus, .poison, .free] = true) hs_
  have q3 := Field.sub_trans (by decide : Field.sub [.ram, .poison] [.regs, .back, .bar2, .out, .ram, .hmem, .slotRings, .binFlags, .slates, .cancels, .tqs, .sched, .dqs, .cores, .cmbs, .engs, .mmus, .poison, .free] = true) hs_
  have q4 := Field.sub_trans (by decide : Field.sub [] [.regs, .back, .bar2, .out, .ram, .hmem, .slotRings, .binFlags, .slates, .cancels, .tqs, .sched, .dqs, .cores, .cmbs, .engs, .mmus, .poison, .free] = true) hs_
  have q5 := Field.sub_trans (by decide : Field.sub [.binFlags] [.regs, .back, .bar2, .out, .ram, .hmem, .slotRings, .binFlags, .slates, .cancels, .tqs, .sched, .dqs, .cores, .cmbs, .engs, .mmus, .poison, .free] = true) hs_
  have q6 := Field.sub_trans (by decide : Field.sub [.regs] [.regs, .back, .bar2, .out, .ram, .hmem, .slotRings, .binFlags, .slates, .cancels, .tqs, .sched, .dqs, .cores, .cmbs, .engs, .mmus, .poison, .free] = true) hs_
  have q7 := Field.sub_trans (by decide : Field.sub [.regs, .slotRings] [.regs, .back, .bar2, .out, .ram, .hmem, .slotRings, .binFlags, .slates, .cancels, .tqs, .sched, .dqs, .cores, .cmbs, .engs, .mmus, .poison, .free] = true) hs_
  have q8 := Field.sub_trans (by decide : Field.sub [.free] [.regs, .back, .bar2, .out, .ram, .hmem, .slotRings, .binFlags, .slates, .cancels, .tqs, .sched, .dqs, .cores, .cmbs, .engs, .mmus, .poison, .free] = true) hs_
  have q9 := Field.sub_trans (by decide : Field.sub [.engs] [.regs, .back, .bar2, .out, .ram, .hmem, .slotRings, .binFlags, .slates, .cancels, .tqs, .sched, .dqs, .cores, .cmbs, .engs, .mmus, .poison, .free] = true) hs_
  unfold execUnitDone
  extract_lets -merge p
  clear_value p
  repeat' with_reducible first
    | assumption
    | intro _
    | apply Kept.after_next
    | apply Kept.ite
    | apply State.contained_kept q0
    | apply State.abandonEngs_kept q1
    | apply State.evtIf_kept q2
    | apply State.evt_kept q2
    | apply State.ramWrite_kept q3
    | apply State.onEngine_kept q4
    | apply State.flagSet_kept q5
    | apply State.showEng_kept q6
    | apply State.release_kept q7
    | apply State.draw_kept q8
    | apply State.setNat_kept q6
    | apply State.addWrap_kept q6
    | apply State.publish_kept q7
    | apply State.addSat_kept q6
    | apply State.setEng_kept q9
    | apply Kept.foldl
    | split
    | extract_lets

theorem execUnitOverrun_kept {ws : List Field} {s₀ s : State} (hs_ : Field.sub [.regs, .back, .bar2, .out, .ram, .hmem, .slotRings, .slates, .cancels, .tqs, .sched, .dqs, .cores, .cmbs, .engs, .mmus, .poison, .bndTaken, .free] ws = true) (site e : Nat)
    (kh_ : Kept ws s₀ s) : Kept ws s₀ (after s (execUnitOverrun site e s)) := by
  have q0 := Field.sub_trans (by decide : Field.sub [.regs, .bar2, .out] [.regs, .back, .bar2, .out, .ram, .hmem, .slotRings, .slates, .cancels, .tqs, .sched, .dqs, .cores, .cmbs, .engs, .mmus, .poison, .bndTaken, .free] = true) hs_
  have q1 := Field.sub_trans (by decide : Field.sub [] [.regs, .back, .bar2, .out, .ram, .hmem, .slotRings, .slates, .cancels, .tqs, .sched, .dqs, .cores, .cmbs, .engs, .mmus, .poison, .bndTaken, .free] = true) hs_
  have q2 := Field.sub_trans (by decide : Field.sub [.engs] [.regs, .back, .bar2, .out, .ram, .hmem, .slotRings, .slates, .cancels, .tqs, .sched, .dqs, .cores, .cmbs, .engs, .mmus, .poison, .bndTaken, .free] = true) hs_
  unfold execUnitOverrun
  repeat' with_reducible first
    | assumption
    | intro _
    | apply Kept.after_next
    | apply Kept.ite
    | apply State.toFault_kept q0
    | apply State.engBound_kept hs_
    | apply State.onEngine_kept q1
    | apply State.setEng_kept q2
    | apply Kept.foldl
    | split
    | extract_lets

theorem execClrMax_kept {ws : List Field} {s₀ s : State} (hs_ : Field.sub [.regs, .bar2, .out] ws = true) (req site e : Nat) (val : Word)
    (kh_ : Kept ws s₀ s) : Kept ws s₀ (after s (execClrMax req site e val s)) := by
  have q0 := Field.sub_trans (by decide : Field.sub [.regs] [.regs, .bar2, .out] = true) hs_
  unfold execClrMax
  repeat' with_reducible first
    | assumption
    | intro _
    | apply Kept.after_next
    | apply Kept.ite
    | apply State.asWrite_kept hs_
    | apply State.reject_kept hs_
    | apply State.setNat_kept q0
    | apply Kept.foldl
    | split
    | extract_lets

end Sys2Proof.Machine
end

