-- ==== Sys2Proof/Laws/KControl.lean ====
section
/-!
SUPPORT. Laws/KControl.lean: what each operation of Machine/Control.lean may change, and that it keeps the canonical form.
-/
namespace Sys2Proof.Machine

theorem State.shadowPut_kept {ws : List Field} {s₀ s : State} (hs_ : Field.sub [.regs, .bar2, .out, .slots] ws = true) (req site k addr : Nat) (val : Word)
    (kh_ : Kept ws s₀ s) : Kept ws s₀ (State.shadowPut s req site k addr val) := by
  have q0 := Field.sub_trans (by decide : Field.sub [.regs, .bar2, .out] [.regs, .bar2, .out, .slots] = true) hs_
  have q1 := Field.sub_trans (by decide : Field.sub [.regs] [.regs, .bar2, .out, .slots] = true) hs_
  have q2 := Field.sub_trans (by decide : Field.sub [.slots] [.regs, .bar2, .out, .slots] = true) hs_
  unfold State.shadowPut
  extract_lets -merge x p
  clear_value x p
  repeat' with_reducible first
    | assumption
    | intro _
    | apply Kept.ite
    | apply State.reject_kept q0
    | apply State.showTxn_kept q1
    | apply State.setSlot_kept q2
    | apply Kept.foldl
    | split
    | extract_lets

theorem State.shadowOr_kept {ws : List Field} {s₀ s : State} (hs_ : Field.sub [.regs, .bar2, .out, .slots] ws = true) (req site blk off : Nat) (val : Word) (k : State → State) (h_k : ∀ t0, Kept ws s₀ t0 → Kept ws s₀ (k t0))
    (kh_ : Kept ws s₀ s) : Kept ws s₀ (State.shadowOr s req site blk off val k) := by
  have q0 := Field.sub_trans (by decide : Field.sub [.regs, .bar2, .out] [.regs, .bar2, .out, .slots] = true) hs_
  unfold State.shadowOr
  repeat' with_reducible first
    | assumption
    | intro _
    | apply h_k
    | apply Kept.ite
    | apply State.reject_kept q0
    | apply State.shadowPut_kept hs_
    | apply Kept.foldl
    | split
    | extract_lets

theorem State.startGate_kept {ws : List Field} {s₀ s : State} (hs_ : Field.sub [.regs, .out, .poss, .gates, .grps] ws = true) (site g : Nat)
    (kh_ : Kept ws s₀ s) : Kept ws s₀ (State.startGate s site g) := by
  have q0 := Field.sub_trans (by decide : Field.sub [.regs] [.regs, .out, .poss, .gates, .grps] = true) hs_
  have q1 := Field.sub_trans (by decide : Field.sub [.poss] [.regs, .out, .poss, .gates, .grps] = true) hs_
  have q2 := Field.sub_trans (by decide : Field.sub [.out] [.regs, .out, .poss, .gates, .grps] = true) hs_
  have q3 := Field.sub_trans (by decide : Field.sub [.grps] [.regs, .out, .poss, .gates, .grps] = true) hs_
  have q4 := Field.sub_trans (by decide : Field.sub [.gates] [.regs, .out, .poss, .gates, .grps] = true) hs_
  unfold State.startGate
  extract_lets -merge p u gt org x s1 s2 s3 _ s4 s5
  clear_value p u gt org x
  have k_s1 : Kept ws s₀ s1 := by
    unfold s1
    repeat' with_reducible first
      | assumption
      | intro _
      | apply Kept.ite
      | apply State.showRetake_kept q0
      | apply State.setPos_kept q1
      | apply State.showFifo_kept q0
      | apply State.trackPos_kept q1
      | apply State.emit_kept q2
      | apply State.setWide_kept q0
      | apply State.setNat_kept q0
      | apply State.setGrp_kept q3
      | apply State.setGate_kept q4
      | apply State.putFld_kept q0
      | apply State.setReg_kept q0
      | apply Kept.foldl
      | split
      | extract_lets
  clear_value s1
  have k_s2 : Kept ws s₀ s2 := by
    unfold s2
    repeat' with_reducible first
      | assumption
      | intro _
      | apply Kept.ite
      | apply State.showRetake_kept q0
      | apply State.setPos_kept q1
      | apply State.showFifo_kept q0
      | apply State.trackPos_kept q1
      | apply State.emit_kept q2
      | apply State.setWide_kept q0
      | apply State.setNat_kept q0
      | apply State.setGrp_kept q3
      | apply State.setGate_kept q4
      | apply State.putFld_kept q0
      | apply State.setReg_kept q0
      | apply Kept.foldl
      | split
      | extract_lets
  clear_value s2
  have k_s3 : Kept ws s₀ s3 := by
    unfold s3
    repeat' with_reducible first
      | assumption
      | intro _
      | apply Kept.ite
      | apply State.showRetake_kept q0
      | apply State.setPos_kept q1
      | apply State.showFifo_kept q0
      | apply State.trackPos_kept q1
      | apply State.emit_kept q2
      | apply State.setWide_kept q0
      | apply State.setNat_kept q0
      | apply State.setGrp_kept q3
      | apply State.setGate_kept q4
      | apply State.putFld_kept q0
      | apply State.setReg_kept q0
      | apply Kept.foldl
      | split
      | extract_lets
  clear_value s3
  have k_s4 : Kept ws s₀ s4 := by
    unfold s4
    repeat' with_reducible first
      | assumption
      | intro _
      | apply Kept.ite
      | apply State.showRetake_kept q0
      | apply State.setPos_kept q1
      | apply State.showFifo_kept q0
      | apply State.trackPos_kept q1
      | apply State.emit_kept q2
      | apply State.setWide_kept q0
      | apply State.setNat_kept q0
      | apply State.setGrp_kept q3
      | apply State.setGate_kept q4
      | apply State.putFld_kept q0
      | apply State.setReg_kept q0
      | apply Kept.foldl
      | split
      | extract_lets
  clear_value s4
  have k_s5 : Kept ws s₀ s5 := by
    unfold s5
    repeat' with_reducible first
      | assumption
      | intro _
      | apply Kept.ite
      | apply State.showRetake_kept q0
      | apply State.setPos_kept q1
      | apply State.showFifo_kept q0
      | apply State.trackPos_kept q1
      | apply State.emit_kept q2
      | apply State.setWide_kept q0
      | apply State.setNat_kept q0
      | apply State.setGrp_kept q3
      | apply State.setGate_kept q4
      | apply State.putFld_kept q0
      | apply State.setReg_kept q0
      | apply Kept.foldl
      | split
      | extract_lets
  clear_value s5
  repeat' with_reducible first
    | assumption
    | intro _
    | apply Kept.ite
    | apply State.showRetake_kept q0
    | apply State.setPos_kept q1
    | apply State.showFifo_kept q0
    | apply State.trackPos_kept q1
    | apply State.emit_kept q2
    | apply State.setWide_kept q0
    | apply State.setNat_kept q0
    | apply State.setGrp_kept q3
    | apply State.setGate_kept q4
    | apply State.putFld_kept q0
    | apply State.setReg_kept q0
    | apply Kept.foldl
    | split
    | extract_lets

theorem State.startRing_kept {ws : List Field} {s₀ s : State} (hs_ : Field.sub [.regs, .rings] ws = true) (d : Nat)
    (kh_ : Kept ws s₀ s) : Kept ws s₀ (State.startRing s d) := by
  have q0 := Field.sub_trans (by decide : Field.sub [.regs] [.regs, .rings] = true) hs_
  have q1 := Field.sub_trans (by decide : Field.sub [.rings] [.regs, .rings] = true) hs_
  unfold State.startRing
  extract_lets -merge x s1
  clear_value x
  have k_s1 : Kept ws s₀ s1 := by
    unfold s1
    repeat' with_reducible first
      | assumption
      | intro _
      | apply Kept.ite
      | apply State.freeData_kept q0
      | apply State.setReg_kept q0
      | apply State.setRing_kept q1
      | apply Kept.foldl
      | split
      | extract_lets
  clear_value s1
  repeat' with_reducible first
    | assumption
    | intro _
    | apply Kept.ite
    | apply State.freeData_kept q0
    | apply State.setReg_kept q0
    | apply State.setRing_kept q1
    | apply Kept.foldl
    | split
    | extract_lets

theorem State.startHook_kept {ws : List Field} {s₀ s : State} (hs_ : Field.sub [.regs, .bar2, .out, .poss, .meters, .rings, .gates, .grps, .tqs] ws = true) (site blk : Nat)
    (kh_ : Kept ws s₀ s) : Kept ws s₀ (State.startHook s site blk) := by
  have q0 := Field.sub_trans (by decide : Field.sub [.regs, .meters] [.regs, .bar2, .out, .poss, .meters, .rings, .gates, .grps, .tqs] = true) hs_
  have q1 := Field.sub_trans (by decide : Field.sub [.regs, .bar2, .out] [.regs, .bar2, .out, .poss, .meters, .rings, .gates, .grps, .tqs] = true) hs_
  have q2 := Field.sub_trans (by decide : Field.sub [.regs, .rings] [.regs, .bar2, .out, .poss, .meters, .rings, .gates, .grps, .tqs] = true) hs_
  have q3 := Field.sub_trans (by decide : Field.sub [.regs, .out, .poss, .gates, .grps] [.regs, .bar2, .out, .poss, .meters, .rings, .gates, .grps, .tqs] = true) hs_
  have q4 := Field.sub_trans (by decide : Field.sub [.tqs] [.regs, .bar2, .out, .poss, .meters, .rings, .gates, .grps, .tqs] = true) hs_
  unfold State.startHook
  extract_lets -merge ty _
  clear_value ty
  repeat' with_reducible first
    | assumption
    | intro _
    | apply Kept.ite
    | apply State.meterStart_kept q0
    | apply State.attachPass_kept q1
    | apply State.startRing_kept q2
    | apply State.startGate_kept q3
    | apply State.setTq_kept q4
    | apply Kept.foldl
    | split
    | extract_lets

theorem State.start_kept {ws : List Field} {s₀ s : State} (hs_ : Field.sub [.regs, .bar2, .out, .poss, .meters, .rings, .gates, .grps, .tqs] ws = true) (site blk : Nat)
    (kh_ : Kept ws s₀ s) : Kept ws s₀ (State.start s site blk) := by
  have q0 := Field.sub_trans (by decide : Field.sub [.regs, .bar2, .out] [.regs, .bar2, .out, .poss, .meters, .rings, .gates, .grps, .tqs] = true) hs_
  unfold State.start
  repeat' with_reducible first
    | assumption
    | intro _
    | apply Kept.ite
    | apply State.setSt_kept q0
    | apply State.startHook_kept hs_
    | apply Kept.foldl
    | split
    | extract_lets

theorem State.stopStream_kept {ws : List Field} {s₀ s : State} (hs_ : Field.sub [.regs, .bar2, .out, .gates] ws = true) (site k : Nat)
    (kh_ : Kept ws s₀ s) : Kept ws s₀ (State.stopStream s site k) := by
  have q0 := Field.sub_trans (by decide : Field.sub [.regs, .bar2, .out] [.regs, .bar2, .out, .gates] = true) hs_
  have q1 := Field.sub_trans (by decide : Field.sub [.regs] [.regs, .bar2, .out, .gates] = true) hs_
  have q2 := Field.sub_trans (by decide : Field.sub [.gates] [.regs, .bar2, .out, .gates] = true) hs_
  unfold State.stopStream
  extract_lets -merge g gt past s1
  clear_value g gt past
  have k_s1 : Kept ws s₀ s1 := by
    unfold s1
    repeat' with_reducible first
      | assumption
      | intro _
      | apply Kept.ite
      | apply State.setSt_kept q0
      | apply State.putBit_kept q1
      | apply State.setGate_kept q2
      | apply Kept.foldl
      | split
      | extract_lets
  clear_value s1
  repeat' with_reducible first
    | assumption
    | intro _
    | apply Kept.ite
    | apply State.setSt_kept q0
    | apply State.putBit_kept q1
    | apply State.setGate_kept q2
    | apply Kept.foldl
    | split
    | extract_lets

theorem State.stopHook_kept {ws : List Field} {s₀ s : State} (hs_ : Field.sub [.regs, .bar2, .out, .meters, .calibs, .ram, .hmem, .rings, .strms, .gates, .axes, .grps, .slotRings, .cueQs, .binFlags, .slates, .cancels, .dqs, .cores, .cmbs, .engs, .poison] ws = true) (site blk : Nat)
    (kh_ : Kept ws s₀ s) : Kept ws s₀ (State.stopHook s site blk) := by
  have q0 := Field.sub_trans (by decide : Field.sub [.regs, .bar2, .out, .meters, .calibs] [.regs, .bar2, .out, .meters, .calibs, .ram, .hmem, .rings, .strms, .gates, .axes, .grps, .slotRings, .cueQs, .binFlags, .slates, .cancels, .dqs, .cores, .cmbs, .engs, .poison] = true) hs_
  have q1 := Field.sub_trans (by decide : Field.sub [.regs, .bar2, .out, .meters] [.regs, .bar2, .out, .meters, .calibs, .ram, .hmem, .rings, .strms, .gates, .axes, .grps, .slotRings, .cueQs, .binFlags, .slates, .cancels, .dqs, .cores, .cmbs, .engs, .poison] = true) hs_
  have q2 := Field.sub_trans (by decide : Field.sub [.regs, .bar2, .out, .gates] [.regs, .bar2, .out, .meters, .calibs, .ram, .hmem, .rings, .strms, .gates, .axes, .grps, .slotRings, .cueQs, .binFlags, .slates, .cancels, .dqs, .cores, .cmbs, .engs, .poison] = true) hs_
  have q3 := Field.sub_trans (by decide : Field.sub [.regs, .bar2, .out, .ram, .hmem, .rings, .strms, .axes, .grps, .slotRings, .cueQs, .binFlags, .slates, .cancels, .dqs, .cores, .cmbs, .engs, .poison] [.regs, .bar2, .out, .meters, .calibs, .ram, .hmem, .rings, .strms, .gates, .axes, .grps, .slotRings, .cueQs, .binFlags, .slates, .cancels, .dqs, .cores, .cmbs, .engs, .poison] = true) hs_
  have q4 := Field.sub_trans (by decide : Field.sub [.regs, .gates] [.regs, .bar2, .out, .meters, .calibs, .ram, .hmem, .rings, .strms, .gates, .axes, .grps, .slotRings, .cueQs, .binFlags, .slates, .cancels, .dqs, .cores, .cmbs, .engs, .poison] = true) hs_
  unfold State.stopHook
  extract_lets -merge ty g g_1
  clear_value ty g g_1
  repeat' with_reducible first
    | assumption
    | intro _
    | apply Kept.ite
    | apply State.calAbortCh_kept q0
    | apply State.meterStop_kept q1
    | apply State.stopStream_kept q2
    | apply State.groupStop_kept q3
    | apply State.shadeFail_kept q4
    | apply Kept.foldl
    | split
    | extract_lets

theorem State.stop_kept {ws : List Field} {s₀ s : State} (hs_ : Field.sub [.regs, .bar2, .out, .meters, .calibs, .ram, .hmem, .rings, .strms, .gates, .axes, .grps, .slotRings, .cueQs, .binFlags, .slates, .cancels, .dqs, .cores, .cmbs, .engs, .poison] ws = true) (site blk : Nat)
    (kh_ : Kept ws s₀ s) : Kept ws s₀ (State.stop s site blk) := by
  have q0 := Field.sub_trans (by decide : Field.sub [.regs, .bar2, .out] [.regs, .bar2, .out, .meters, .calibs, .ram, .hmem, .rings, .strms, .gates, .axes, .grps, .slotRings, .cueQs, .binFlags, .slates, .cancels, .dqs, .cores, .cmbs, .engs, .poison] = true) hs_
  have q1 := Field.sub_trans (by decide : Field.sub [.regs, .bar2, .out, .gates] [.regs, .bar2, .out, .meters, .calibs, .ram, .hmem, .rings, .strms, .gates, .axes, .grps, .slotRings, .cueQs, .binFlags, .slates, .cancels, .dqs, .cores, .cmbs, .engs, .poison] = true) hs_
  unfold State.stop
  repeat' with_reducible first
    | assumption
    | intro _
    | apply Kept.ite
    | apply State.setSt_kept q0
    | apply State.stopHook_kept hs_
    | apply State.stopStream_kept q1
    | apply Kept.foldl
    | split
    | extract_lets

theorem State.enSet_kept {ws : List Field} {s₀ s : State} (hs_ : Field.sub [.regs, .bar2, .out, .poss, .meters, .rings, .gates, .grps, .tqs] ws = true) (site blk : Nat)
    (kh_ : Kept ws s₀ s) : Kept ws s₀ (State.enSet s site blk) := by
  have q0 := Field.sub_trans (by decide : Field.sub [.regs] [.regs, .bar2, .out, .poss, .meters, .rings, .gates, .grps, .tqs] = true) hs_
  unfold State.enSet
  extract_lets -merge p
  clear_value p
  repeat' with_reducible first
    | assumption
    | intro _
    | apply Kept.ite
    | apply State.start_kept hs_
    | apply State.putBit_kept q0
    | apply Kept.foldl
    | split
    | extract_lets

theorem State.enClear_kept {ws : List Field} {s₀ s : State} (hs_ : Field.sub [.regs, .bar2, .out, .meters, .calibs, .ram, .hmem, .rings, .strms, .gates, .axes, .grps, .slotRings, .cueQs, .binFlags, .slates, .cancels, .dqs, .cores, .cmbs, .engs, .poison] ws = true) (site blk : Nat)
    (kh_ : Kept ws s₀ s) : Kept ws s₀ (State.enClear s site blk) := by
  have q0 := Field.sub_trans (by decide : Field.sub [.regs, .bar2, .out] [.regs, .bar2, .out, .meters, .calibs, .ram, .hmem, .rings, .strms, .gates, .axes, .grps, .slotRings, .cueQs, .binFlags, .slates, .cancels, .dqs, .cores, .cmbs, .engs, .poison] = true) hs_
  have q1 := Field.sub_trans (by decide : Field.sub [.regs] [.regs, .bar2, .out, .meters, .calibs, .ram, .hmem, .rings, .strms, .gates, .axes, .grps, .slotRings, .cueQs, .binFlags, .slates, .cancels, .dqs, .cores, .cmbs, .engs, .poison] = true) hs_
  unfold State.enClear
  extract_lets -merge p s1 s2
  clear_value p
  have k_s1 : Kept ws s₀ s1 := by
    unfold s1
    repeat' with_reducible first
      | assumption
      | intro _
      | apply Kept.ite
      | apply State.evt_kept q0
      | apply State.stop_kept hs_
      | apply State.putBit_kept q1
      | apply Kept.foldl
      | split
      | extract_lets
  clear_value s1
  have k_s2 : Kept ws s₀ s2 := by
    unfold s2
    repeat' with_reducible first
      | assumption
      | intro _
      | apply Kept.ite
      | apply State.evt_kept q0
      | apply State.stop_kept hs_
      | apply State.putBit_kept q1
      | apply Kept.foldl
      | split
      | extract_lets
  clear_value s2
  repeat' with_reducible first
    | assumption
    | intro _
    | apply Kept.ite
    | apply State.evt_kept q0
    | apply State.stop_kept hs_
    | apply State.putBit_kept q1
    | apply Kept.foldl
    | split
    | extract_lets

theorem State.disarmLines_kept {ws : List Field} {s₀ s : State} (hs_ : Field.sub [.regs, .bar2, .out, .poss, .segArms, .slots, .groups] ws = true) (site g : Nat)
    (kh_ : Kept ws s₀ s) : Kept ws s₀ (State.disarmLines s site g) := by
  have q0 := Field.sub_trans (by decide : Field.sub [.poss] [.regs, .bar2, .out, .poss, .segArms, .slots, .groups] = true) hs_
  have q1 := Field.sub_trans (by decide : Field.sub [.regs, .bar2, .out] [.regs, .bar2, .out, .poss, .segArms, .slots, .groups] = true) hs_
  have q2 := Field.sub_trans (by decide : Field.sub [.regs, .segArms] [.regs, .bar2, .out, .poss, .segArms, .slots, .groups] = true) hs_
  have q3 := Field.sub_trans (by decide : Field.sub [.regs, .bar2, .out, .slots, .groups] [.regs, .bar2, .out, .poss, .segArms, .slots, .groups] = true) hs_
  have q4 := Field.sub_trans (by decide : Field.sub [.regs] [.regs, .bar2, .out, .poss, .segArms, .slots, .groups] = true) hs_
  unfold State.disarmLines
  extract_lets -merge u _ s1 s2
  clear_value u
  have k_s1 : Kept ws s₀ s1 := by
    unfold s1
    repeat' with_reducible first
      | assumption
      | intro _
      | apply Kept.ite
      | apply State.setPos_kept q0
      | apply State.evt_kept q1
      | apply State.clearSegArm_kept q2
      | apply State.abortMember_kept q3
      | apply State.putBit_kept q4
      | apply Kept.foldl
      | split
      | extract_lets
  clear_value s1
  have k_s2 : Kept ws s₀ s2 := by
    unfold s2
    repeat' with_reducible first
      | assumption
      | intro _
      | apply Kept.ite
      | apply State.setPos_kept q0
      | apply State.evt_kept q1
      | apply State.clearSegArm_kept q2
      | apply State.abortMember_kept q3
      | apply State.putBit_kept q4
      | apply Kept.foldl
      | split
      | extract_lets
  clear_value s2
  repeat' with_reducible first
    | assumption
    | intro _
    | apply Kept.ite
    | apply State.setPos_kept q0
    | apply State.evt_kept q1
    | apply State.clearSegArm_kept q2
    | apply State.abortMember_kept q3
    | apply State.putBit_kept q4
    | apply Kept.foldl
    | split
    | extract_lets

theorem State.gateOff_kept {ws : List Field} {s₀ s : State} (hs_ : Field.sub [.regs, .bar2, .out, .poss, .segArms, .slots, .groups, .grps] ws = true) (site g : Nat)
    (kh_ : Kept ws s₀ s) : Kept ws s₀ (State.gateOff s site g) := by
  have q0 := Field.sub_trans (by decide : Field.sub [.regs] [.regs, .bar2, .out, .poss, .segArms, .slots, .groups, .grps] = true) hs_
  have q1 := Field.sub_trans (by decide : Field.sub [.regs, .bar2, .out, .poss, .segArms, .slots, .groups] [.regs, .bar2, .out, .poss, .segArms, .slots, .groups, .grps] = true) hs_
  have q2 := Field.sub_trans (by decide : Field.sub [.out] [.regs, .bar2, .out, .poss, .segArms, .slots, .groups, .grps] = true) hs_
  have q3 := Field.sub_trans (by decide : Field.sub [.grps] [.regs, .bar2, .out, .poss, .segArms, .slots, .groups, .grps] = true) hs_
  unfold State.gateOff
  extract_lets -merge p s1 _
  clear_value p
  have k_s1 : Kept ws s₀ s1 := by
    unfold s1
    repeat' with_reducible first
      | assumption
      | intro _
      | apply Kept.ite
      | apply State.showRetake_kept q0
      | apply State.disarmLines_kept q1
      | apply State.emit_kept q2
      | apply State.setGrp_kept q3
      | apply State.putFld_kept q0
      | apply Kept.foldl
      | split
      | extract_lets
  clear_value s1
  repeat' with_reducible first
    | assumption
    | intro _
    | apply Kept.ite
    | apply State.showRetake_kept q0
    | apply State.disarmLines_kept q1
    | apply State.emit_kept q2
    | apply State.setGrp_kept q3
    | apply State.putFld_kept q0
    | apply Kept.foldl
    | split
    | extract_lets

theorem State.streamOff_kept {ws : List Field} {s₀ s : State} (hs_ : Field.sub [.regs, .rings, .strms, .free] ws = true) (site k : Nat)
    (kh_ : Kept ws s₀ s) : Kept ws s₀ (State.streamOff s site k) := by
  have q0 := Field.sub_trans (by decide : Field.sub [.regs] [.regs, .rings, .strms, .free] = true) hs_
  have q1 := Field.sub_trans (by decide : Field.sub [.strms] [.regs, .rings, .strms, .free] = true) hs_
  have q2 := Field.sub_trans (by decide : Field.sub [.rings, .free] [.regs, .rings, .strms, .free] = true) hs_
  unfold State.streamOff
  extract_lets -merge s1
  have k_s1 : Kept ws s₀ s1 := by
    unfold s1
    repeat' with_reducible first
      | assumption
      | intro _
      | apply Kept.ite
      | apply State.showPipe_kept q0
      | apply State.clearSplice_kept q0
      | apply State.closeFrame_kept q1
      | apply State.showStream_kept q0
      | apply State.fixStop_kept q2
      | apply Kept.foldl
      | split
      | extract_lets
  clear_value s1
  repeat' with_reducible first
    | assumption
    | intro _
    | apply Kept.ite
    | apply State.showPipe_kept q0
    | apply State.clearSplice_kept q0
    | apply State.closeFrame_kept q1
    | apply State.showStream_kept q0
    | apply State.fixStop_kept q2
    | apply Kept.foldl
    | split
    | extract_lets

theorem State.offHook_kept {ws : List Field} {s₀ s : State} (hs_ : Field.sub [.regs, .bar2, .out, .poss, .segArms, .slots, .groups, .ram, .hmem, .rings, .strms, .grps, .slotRings, .dqs, .cores, .cmbs, .engs, .poison, .free] ws = true) (site blk : Nat)
    (kh_ : Kept ws s₀ s) : Kept ws s₀ (State.offHook s site blk) := by
  have q0 := Field.sub_trans (by decide : Field.sub [.regs, .bar2, .out, .ram, .hmem, .slotRings, .dqs, .cores, .poison] [.regs, .bar2, .out, .poss, .segArms, .slots, .groups, .ram, .hmem, .rings, .strms, .grps, .slotRings, .dqs, .cores, .cmbs, .engs, .poison, .free] = true) hs_
  have q1 := Field.sub_trans (by decide : Field.sub [.regs, .rings, .strms, .free] [.regs, .bar2, .out, .poss, .segArms, .slots, .groups, .ram, .hmem, .rings, .strms, .grps, .slotRings, .dqs, .cores, .cmbs, .engs, .poison, .free] = true) hs_
  have q2 := Field.sub_trans (by decide : Field.sub [.regs, .bar2, .out, .poss, .segArms, .slots, .groups, .grps] [.regs, .bar2, .out, .poss, .segArms, .slots, .groups, .ram, .hmem, .rings, .strms, .grps, .slotRings, .dqs, .cores, .cmbs, .engs, .poison, .free] = true) hs_
  have q3 := Field.sub_trans (by decide : Field.sub [.regs] [.regs, .bar2, .out, .poss, .segArms, .slots, .groups, .ram, .hmem, .rings, .strms, .grps, .slotRings, .dqs, .cores, .cmbs, .engs, .poison, .free] = true) hs_
  have q4 := Field.sub_trans (by decide : Field.sub [.engs] [.regs, .bar2, .out, .poss, .segArms, .slots, .groups, .ram, .hmem, .rings, .strms, .grps, .slotRings, .dqs, .cores, .cmbs, .engs, .poison, .free] = true) hs_
  have q5 := Field.sub_trans (by decide : Field.sub [.cmbs] [.regs, .bar2, .out, .poss, .segArms, .slots, .groups, .ram, .hmem, .rings, .strms, .grps, .slotRings, .dqs, .cores, .cmbs, .engs, .poison, .free] = true) hs_
  unfold State.offHook
  extract_lets -merge ty
  clear_value ty
  repeat' with_reducible first
    | assumption
    | intro _
    | apply Kept.ite
    | apply State.freeCore_kept q0
    | apply State.streamOff_kept q1
    | apply State.gateOff_kept q2
    | apply State.setNat_kept q3
    | apply State.setEng_kept q4
    | apply State.setCmb_kept q5
    | apply Kept.foldl
    | split
    | extract_lets

theorem execStopComplete_kept {ws : List Field} {s₀ s : State} (hs_ : Field.sub [.regs, .bar2, .out, .poss, .segArms, .slots, .groups, .ram, .hmem, .rings, .strms, .grps, .slotRings, .dqs, .cores, .cmbs, .engs, .poison, .free] ws = true) (site blk : Nat)
    (kh_ : Kept ws s₀ s) : Kept ws s₀ (after s (execStopComplete site blk s)) := by
  have q0 := Field.sub_trans (by decide : Field.sub [.regs, .bar2, .out] [.regs, .bar2, .out, .poss, .segArms, .slots, .groups, .ram, .hmem, .rings, .strms, .grps, .slotRings, .dqs, .cores, .cmbs, .engs, .poison, .free] = true) hs_
  unfold execStopComplete
  repeat' with_reducible first
    | assumption
    | intro _
    | apply Kept.after_next
    | apply Kept.ite
    | apply State.offHook_kept hs_
    | apply State.setSt_kept q0
    | apply Kept.foldl
    | split
    | extract_lets

theorem execPendingStart_kept {ws : List Field} {s₀ s : State} (hs_ : Field.sub [.regs, .bar2, .out, .poss, .meters, .rings, .gates, .grps, .tqs] ws = true) (site blk : Nat)
    (kh_ : Kept ws s₀ s) : Kept ws s₀ (after s (execPendingStart site blk s)) := by
  have q0 := Field.sub_trans (by decide : Field.sub [.regs] [.regs, .bar2, .out, .poss, .meters, .rings, .gates, .grps, .tqs] = true) hs_
  unfold execPendingStart
  repeat' with_reducible first
    | assumption
    | intro _
    | apply Kept.after_next
    | apply Kept.ite
    | apply State.start_kept hs_
    | apply State.putBit_kept q0
    | apply Kept.foldl
    | split
    | extract_lets

theorem State.engReady_kept {ws : List Field} {s₀ s : State} (hs_ : Field.sub [.regs, .ram, .engs, .poison] ws = true) (site e : Nat)
    (kh_ : Kept ws s₀ s) : Kept ws s₀ (State.engReady s site e) := by
  have q0 := Field.sub_trans (by decide : Field.sub [.ram, .poison] [.regs, .ram, .engs, .poison] = true) hs_
  have q1 := Field.sub_trans (by decide : Field.sub [.regs] [.regs, .ram, .engs, .poison] = true) hs_
  have q2 := Field.sub_trans (by decide : Field.sub [.engs] [.regs, .ram, .engs, .poison] = true) hs_
  unfold State.engReady
  extract_lets -merge x t s1
  have k_s1 : Kept ws s₀ s1 := by
    unfold s1
    repeat' with_reducible first
      | assumption
      | intro _
      | apply Kept.ite
      | apply State.scrub_kept q0
      | apply State.showEng_kept q1
      | apply State.setEng_kept q2
      | apply Kept.foldl
      | split
      | extract_lets
  clear_value s1
  repeat' with_reducible first
    | assumption
    | intro _
    | apply Kept.ite
    | apply State.scrub_kept q0
    | apply State.showEng_kept q1
    | apply State.setEng_kept q2
    | apply Kept.foldl
    | split
    | extract_lets

theorem State.replayStop_kept {ws : List Field} {s₀ s : State} (hs_ : Field.sub [.rings] ws = true) (d : Nat)
    (kh_ : Kept ws s₀ s) : Kept ws s₀ (State.replayStop s d) := by
  unfold State.replayStop
  extract_lets -merge site k x
  clear_value site k x
  repeat' with_reducible first
    | assumption
    | intro _
    | apply Kept.ite
    | apply State.setRing_kept hs_
    | apply Kept.foldl
    | split
    | extract_lets

theorem State.readyHook_kept {ws : List Field} {s₀ s : State} (hs_ : Field.sub [.regs, .bar2, .out, .meters, .ram, .rings, .strms, .axes, .slotRings, .slates, .cores, .engs, .poison] ws = true) (site blk : Nat)
    (kh_ : Kept ws s₀ s) : Kept ws s₀ (State.readyHook s site blk) := by
  have q0 := Field.sub_trans (by decide : Field.sub [.regs, .strms, .slotRings, .slates, .engs] [.regs, .bar2, .out, .meters, .ram, .rings, .strms, .axes, .slotRings, .slates, .cores, .engs, .poison] = true) hs_
  have q1 := Field.sub_trans (by decide : Field.sub [.regs, .axes] [.regs, .bar2, .out, .meters, .ram, .rings, .strms, .axes, .slotRings, .slates, .cores, .engs, .poison] = true) hs_
  have q2 := Field.sub_trans (by decide : Field.sub [.regs, .bar2, .out, .meters] [.regs, .bar2, .out, .meters, .ram, .rings, .strms, .axes, .slotRings, .slates, .cores, .engs, .poison] = true) hs_
  have q3 := Field.sub_trans (by decide : Field.sub [.rings] [.regs, .bar2, .out, .meters, .ram, .rings, .strms, .axes, .slotRings, .slates, .cores, .engs, .poison] = true) hs_
  have q4 := Field.sub_trans (by decide : Field.sub [.regs, .ram, .engs, .poison] [.regs, .bar2, .out, .meters, .ram, .rings, .strms, .axes, .slotRings, .slates, .cores, .engs, .poison] = true) hs_
  have q5 := Field.sub_trans (by decide : Field.sub [.regs, .ram, .cores, .poison] [.regs, .bar2, .out, .meters, .ram, .rings, .strms, .axes, .slotRings, .slates, .cores, .engs, .poison] = true) hs_
  have q6 := Field.sub_trans (by decide : Field.sub [.regs, .bar2, .out] [.regs, .bar2, .out, .meters, .ram, .rings, .strms, .axes, .slotRings, .slates, .cores, .engs, .poison] = true) hs_
  have q7 := Field.sub_trans (by decide : Field.sub [.regs] [.regs, .bar2, .out, .meters, .ram, .rings, .strms, .axes, .slotRings, .slates, .cores, .engs, .poison] = true) hs_
  unfold State.readyHook
  extract_lets -merge ty
  clear_value ty
  repeat' with_reducible first
    | assumption
    | intro _
    | apply Kept.ite
    | apply State.freshStream_kept q0
    | apply State.axisReady_kept q1
    | apply State.meterRun_kept q2
    | apply State.replayStop_kept q3
    | apply State.engReady_kept q4
    | apply State.coreReady_kept q5
    | apply State.setSt_kept q6
    | apply State.showRing_kept q6
    | apply State.putFld_kept q7
    | apply Kept.foldl
    | split
    | extract_lets

theorem execBlockReady_kept {ws : List Field} {s₀ s : State} (hs_ : Field.sub [.regs, .bar2, .out, .meters, .ram, .rings, .strms, .axes, .slotRings, .slates, .cores, .engs, .poison] ws = true) (site blk : Nat)
    (kh_ : Kept ws s₀ s) : Kept ws s₀ (after s (execBlockReady site blk s)) := by
  have q0 := Field.sub_trans (by decide : Field.sub [.regs, .bar2, .out] [.regs, .bar2, .out, .meters, .ram, .rings, .strms, .axes, .slotRings, .slates, .cores, .engs, .poison] = true) hs_
  unfold execBlockReady
  repeat' with_reducible first
    | assumption
    | intro _
    | apply Kept.after_next
    | apply Kept.ite
    | apply State.readyHook_kept hs_
    | apply State.setSt_kept q0
    | apply Kept.foldl
    | split
    | extract_lets

theorem State.resetHook_kept {ws : List Field} {s₀ s : State} (hs_ : Field.sub [.regs, .bar2, .out, .encs, .poss, .segArms, .slots, .groups, .meters, .calibs, .ports, .mons, .rings, .strms, .gates, .axes, .grps, .tqs, .cores, .cmbs, .engs] ws = true) (site blk was : Nat)
    (kh_ : Kept ws s₀ s) : Kept ws s₀ (State.resetHook s site blk was) := by
  have q0 := Field.sub_trans (by decide : Field.sub [.regs, .bar2, .out, .meters, .calibs] [.regs, .bar2, .out, .encs, .poss, .segArms, .slots, .groups, .meters, .calibs, .ports, .mons, .rings, .strms, .gates, .axes, .grps, .tqs, .cores, .cmbs, .engs] = true) hs_
  have q1 := Field.sub_trans (by decide : Field.sub [.poss] [.regs, .bar2, .out, .encs, .poss, .segArms, .slots, .groups, .meters, .calibs, .ports, .mons, .rings, .strms, .gates, .axes, .grps, .tqs, .cores, .cmbs, .engs] = true) hs_
  have q2 := Field.sub_trans (by decide : Field.sub [.regs, .bar2, .out, .poss, .segArms, .slots, .groups, .grps] [.regs, .bar2, .out, .encs, .poss, .segArms, .slots, .groups, .meters, .calibs, .ports, .mons, .rings, .strms, .gates, .axes, .grps, .tqs, .cores, .cmbs, .engs] = true) hs_
  have q3 := Field.sub_trans (by decide : Field.sub [.regs] [.regs, .bar2, .out, .encs, .poss, .segArms, .slots, .groups, .meters, .calibs, .ports, .mons, .rings, .strms, .gates, .axes, .grps, .tqs, .cores, .cmbs, .engs] = true) hs_
  have q4 := Field.sub_trans (by decide : Field.sub [.regs, .bar2, .out, .gates] [.regs, .bar2, .out, .encs, .poss, .segArms, .slots, .groups, .meters, .calibs, .ports, .mons, .rings, .strms, .gates, .axes, .grps, .tqs, .cores, .cmbs, .engs] = true) hs_
  have q5 := Field.sub_trans (by decide : Field.sub [.mons] [.regs, .bar2, .out, .encs, .poss, .segArms, .slots, .groups, .meters, .calibs, .ports, .mons, .rings, .strms, .gates, .axes, .grps, .tqs, .cores, .cmbs, .engs] = true) hs_
  have q6 := Field.sub_trans (by decide : Field.sub [.axes] [.regs, .bar2, .out, .encs, .poss, .segArms, .slots, .groups, .meters, .calibs, .ports, .mons, .rings, .strms, .gates, .axes, .grps, .tqs, .cores, .cmbs, .engs] = true) hs_
  have q7 := Field.sub_trans (by decide : Field.sub [.gates] [.regs, .bar2, .out, .encs, .poss, .segArms, .slots, .groups, .meters, .calibs, .ports, .mons, .rings, .strms, .gates, .axes, .grps, .tqs, .cores, .cmbs, .engs] = true) hs_
  have q8 := Field.sub_trans (by decide : Field.sub [.strms] [.regs, .bar2, .out, .encs, .poss, .segArms, .slots, .groups, .meters, .calibs, .ports, .mons, .rings, .strms, .gates, .axes, .grps, .tqs, .cores, .cmbs, .engs] = true) hs_
  have q9 := Field.sub_trans (by decide : Field.sub [.engs] [.regs, .bar2, .out, .encs, .poss, .segArms, .slots, .groups, .meters, .calibs, .ports, .mons, .rings, .strms, .gates, .axes, .grps, .tqs, .cores, .cmbs, .engs] = true) hs_
  have q10 := Field.sub_trans (by decide : Field.sub [.meters] [.regs, .bar2, .out, .encs, .poss, .segArms, .slots, .groups, .meters, .calibs, .ports, .mons, .rings, .strms, .gates, .axes, .grps, .tqs, .cores, .cmbs, .engs] = true) hs_
  have q11 := Field.sub_trans (by decide : Field.sub [.cmbs] [.regs, .bar2, .out, .encs, .poss, .segArms, .slots, .groups, .meters, .calibs, .ports, .mons, .rings, .strms, .gates, .axes, .grps, .tqs, .cores, .cmbs, .engs] = true) hs_
  have q12 := Field.sub_trans (by decide : Field.sub [.encs] [.regs, .bar2, .out, .encs, .poss, .segArms, .slots, .groups, .meters, .calibs, .ports, .mons, .rings, .strms, .gates, .axes, .grps, .tqs, .cores, .cmbs, .engs] = true) hs_
  have q13 := Field.sub_trans (by decide : Field.sub [.ports] [.regs, .bar2, .out, .encs, .poss, .segArms, .slots, .groups, .meters, .calibs, .ports, .mons, .rings, .strms, .gates, .axes, .grps, .tqs, .cores, .cmbs, .engs] = true) hs_
  have q14 := Field.sub_trans (by decide : Field.sub [.cores] [.regs, .bar2, .out, .encs, .poss, .segArms, .slots, .groups, .meters, .calibs, .ports, .mons, .rings, .strms, .gates, .axes, .grps, .tqs, .cores, .cmbs, .engs] = true) hs_
  have q15 := Field.sub_trans (by decide : Field.sub [.rings] [.regs, .bar2, .out, .encs, .poss, .segArms, .slots, .groups, .meters, .calibs, .ports, .mons, .rings, .strms, .gates, .axes, .grps, .tqs, .cores, .cmbs, .engs] = true) hs_
  have q16 := Field.sub_trans (by decide : Field.sub [.tqs] [.regs, .bar2, .out, .encs, .poss, .segArms, .slots, .groups, .meters, .calibs, .ports, .mons, .rings, .strms, .gates, .axes, .grps, .tqs, .cores, .cmbs, .engs] = true) hs_
  have q17 := Field.sub_trans (by decide : Field.sub [.segArms] [.regs, .bar2, .out, .encs, .poss, .segArms, .slots, .groups, .meters, .calibs, .ports, .mons, .rings, .strms, .gates, .axes, .grps, .tqs, .cores, .cmbs, .engs] = true) hs_
  unfold State.resetHook
  extract_lets -merge ty x _ g s1 gt k x_1 _ a x_2
  clear_value ty x g gt k x_1 a x_2
  have k_s1 : Kept ws s₀ s1 := by
    unfold s1
    repeat' with_reducible first
      | assumption
      | intro _
      | apply Kept.ite
      | apply State.calAbortCh_kept q0
      | apply State.setPos_kept q1
      | apply State.gateOff_kept q2
      | apply State.showFifo_kept q3
      | apply State.stopStream_kept q4
      | apply State.showLims_kept q3
      | apply State.monTrack_kept q5
      | apply State.showStream_kept q3
      | apply State.setNat_kept q3
      | apply State.setAxis_kept q6
      | apply State.setGate_kept q7
      | apply State.setStrm_kept q8
      | apply State.setEng_kept q9
      | apply State.setMeter_kept q10
      | apply State.setCmb_kept q11
      | apply State.setEnc_kept q12
      | apply State.setPort_kept q13
      | apply State.setCore_kept q14
      | apply State.setRing_kept q15
      | apply State.setTq_kept q16
      | apply Kept.foldl
      | split
      | extract_lets
      | apply Kept.set_segArms _ q17
  clear_value s1
  repeat' with_reducible first
    | assumption
    | intro _
    | apply Kept.ite
    | apply State.calAbortCh_kept q0
    | apply State.setPos_kept q1
    | apply State.gateOff_kept q2
    | apply State.showFifo_kept q3
    | apply State.stopStream_kept q4
    | apply State.showLims_kept q3
    | apply State.monTrack_kept q5
    | apply State.showStream_kept q3
    | apply State.setNat_kept q3
    | apply State.setAxis_kept q6
    | apply State.setGate_kept q7
    | apply State.setStrm_kept q8
    | apply State.setEng_kept q9
    | apply State.setMeter_kept q10
    | apply State.setCmb_kept q11
    | apply State.setEnc_kept q12
    | apply State.setPort_kept q13
    | apply State.setCore_kept q14
    | apply State.setRing_kept q15
    | apply State.setTq_kept q16
    | apply Kept.foldl
    | split
    | extract_lets
    | apply Kept.set_segArms _ q17

theorem State.softReset_kept {ws : List Field} {s₀ s : State} (hs_ : Field.sub [.regs, .latch, .bar2, .out, .encs, .poss, .segArms, .slots, .groups, .meters, .calibs, .ports, .mons, .rings, .strms, .gates, .axes, .grps, .tqs, .cores, .cmbs, .engs] ws = true) (site blk : Nat)
    (kh_ : Kept ws s₀ s) : Kept ws s₀ (State.softReset s site blk) := by
  have q0 := Field.sub_trans (by decide : Field.sub [.regs, .latch] [.regs, .latch, .bar2, .out, .encs, .poss, .segArms, .slots, .groups, .meters, .calibs, .ports, .mons, .rings, .strms, .gates, .axes, .grps, .tqs, .cores, .cmbs, .engs] = true) hs_
  have q1 := Field.sub_trans (by decide : Field.sub [.regs, .bar2, .out, .encs, .poss, .segArms, .slots, .groups, .meters, .calibs, .ports, .mons, .rings, .strms, .gates, .axes, .grps, .tqs, .cores, .cmbs, .engs] [.regs, .latch, .bar2, .out, .encs, .poss, .segArms, .slots, .groups, .meters, .calibs, .ports, .mons, .rings, .strms, .gates, .axes, .grps, .tqs, .cores, .cmbs, .engs] = true) hs_
  have q2 := Field.sub_trans (by decide : Field.sub [.regs, .bar2, .out, .slots, .groups] [.regs, .latch, .bar2, .out, .encs, .poss, .segArms, .slots, .groups, .meters, .calibs, .ports, .mons, .rings, .strms, .gates, .axes, .grps, .tqs, .cores, .cmbs, .engs] = true) hs_
  have q3 := Field.sub_trans (by decide : Field.sub [.regs] [.regs, .latch, .bar2, .out, .encs, .poss, .segArms, .slots, .groups, .meters, .calibs, .ports, .mons, .rings, .strms, .gates, .axes, .grps, .tqs, .cores, .cmbs, .engs] = true) hs_
  unfold State.softReset
  extract_lets -merge s1 s2
  have k_s1 : Kept ws s₀ s1 := by
    unfold s1
    repeat' with_reducible first
      | assumption
      | intro _
      | apply Kept.ite
      | apply State.clearPage_kept q0
      | apply State.resetHook_kept q1
      | apply State.abortMember_kept q2
      | apply State.showTxnPage_kept q3
      | apply Kept.foldl
      | split
      | extract_lets
  clear_value s1
  have k_s2 : Kept ws s₀ s2 := by
    unfold s2
    repeat' with_reducible first
      | assumption
      | intro _
      | apply Kept.ite
      | apply State.clearPage_kept q0
      | apply State.resetHook_kept q1
      | apply State.abortMember_kept q2
      | apply State.showTxnPage_kept q3
      | apply Kept.foldl
      | split
      | extract_lets
  clear_value s2
  repeat' with_reducible first
    | assumption
    | intro _
    | apply Kept.ite
    | apply State.clearPage_kept q0
    | apply State.resetHook_kept q1
    | apply State.abortMember_kept q2
    | apply State.showTxnPage_kept q3
    | apply Kept.foldl
    | split
    | extract_lets

theorem State.ctrlRule_kept {ws : List Field} {s₀ s : State} (hs_ : Field.sub [.regs, .latch, .bar2, .out, .encs, .poss, .segArms, .slots, .groups, .meters, .calibs, .ports, .mons, .ram, .hmem, .rings, .strms, .gates, .axes, .grps, .slotRings, .cueQs, .binFlags, .slates, .cancels, .tqs, .dqs, .cores, .cmbs, .engs, .poison] ws = true) (req site blk : Nat) (val : Word)
    (kh_ : Kept ws s₀ s) : Kept ws s₀ (State.ctrlRule s req site blk val) := by
  have q0 := Field.sub_trans (by decide : Field.sub [.regs, .latch, .bar2, .out, .encs, .poss, .segArms, .slots, .groups, .meters, .calibs, .ports, .mons, .rings, .strms, .gates, .axes, .grps, .tqs, .cores, .cmbs, .engs] [.regs, .latch, .bar2, .out, .encs, .poss, .segArms, .slots, .groups, .meters, .calibs, .ports, .mons, .ram, .hmem, .rings, .strms, .gates, .axes, .grps, .slotRings, .cueQs, .binFlags, .slates, .cancels, .tqs, .dqs, .cores, .cmbs, .engs, .poison] = true) hs_
  have q1 := Field.sub_trans (by decide : Field.sub [.regs] [.regs, .latch, .bar2, .out, .encs, .poss, .segArms, .slots, .groups, .meters, .calibs, .ports, .mons, .ram, .hmem, .rings, .strms, .gates, .axes, .grps, .slotRings, .cueQs, .binFlags, .slates, .cancels, .tqs, .dqs, .cores, .cmbs, .engs, .poison] = true) hs_
  have q2 := Field.sub_trans (by decide : Field.sub [.regs, .bar2, .out, .meters, .calibs, .ram, .hmem, .rings, .strms, .gates, .axes, .grps, .slotRings, .cueQs, .binFlags, .slates, .cancels, .dqs, .cores, .cmbs, .engs, .poison] [.regs, .latch, .bar2, .out, .encs, .poss, .segArms, .slots, .groups, .meters, .calibs, .ports, .mons, .ram, .hmem, .rings, .strms, .gates, .axes, .grps, .slotRings, .cueQs, .binFlags, .slates, .cancels, .tqs, .dqs, .cores, .cmbs, .engs, .poison] = true) hs_
  have q3 := Field.sub_trans (by decide : Field.sub [.regs, .bar2, .out] [.regs, .latch, .bar2, .out, .encs, .poss, .segArms, .slots, .groups, .meters, .calibs, .ports, .mons, .ram, .hmem, .rings, .strms, .gates, .axes, .grps, .slotRings, .cueQs, .binFlags, .slates, .cancels, .tqs, .dqs, .cores, .cmbs, .engs, .poison] = true) hs_
  have q4 := Field.sub_trans (by decide : Field.sub [.regs, .bar2, .out, .poss, .meters, .rings, .gates, .grps, .tqs] [.regs, .latch, .bar2, .out, .encs, .poss, .segArms, .slots, .groups, .meters, .calibs, .ports, .mons, .ram, .hmem, .rings, .strms, .gates, .axes, .grps, .slotRings, .cueQs, .binFlags, .slates, .cancels, .tqs, .dqs, .cores, .cmbs, .engs, .poison] = true) hs_
  have q5 := Field.sub_trans (by decide : Field.sub [.regs, .bar2, .out, .slots] [.regs, .latch, .bar2, .out, .encs, .poss, .segArms, .slots, .groups, .meters, .calibs, .ports, .mons, .ram, .hmem, .rings, .strms, .gates, .axes, .grps, .slotRings, .cueQs, .binFlags, .slates, .cancels, .tqs, .dqs, .cores, .cmbs, .engs, .poison] = true) hs_
  unfold State.ctrlRule
  extract_lets -merge p ty
  clear_value p ty
  repeat' with_reducible first
    | assumption
    | intro _
    | apply Kept.ite
    | apply State.softReset_kept q0
    | apply State.faultRec_kept q1
    | apply State.enClear_kept q2
    | apply State.reject_kept q3
    | apply State.enSet_kept q4
    | apply State.shadowOr_kept q5
    | apply Kept.foldl
    | split
    | extract_lets

theorem State.evtClear_kept {ws : List Field} {s₀ s : State} (hs_ : Field.sub [.regs] ws = true) (p : Nat) (mask recur : Word)
    (kh_ : Kept ws s₀ s) : Kept ws s₀ (State.evtClear s p mask recur) := by
  unfold State.evtClear
  repeat' with_reducible first
    | assumption
    | intro _
    | apply Kept.ite
    | apply State.showPend_kept hs_
    | apply State.setReg_kept hs_
    | apply Kept.foldl
    | split
    | extract_lets

theorem State.faultClear_kept {ws : List Field} {s₀ s : State} (hs_ : Field.sub [.regs, .bar2, .out] ws = true) (req p : Nat) (val : Word)
    (kh_ : Kept ws s₀ s) : Kept ws s₀ (State.faultClear s req p val) := by
  have q0 := Field.sub_trans (by decide : Field.sub [.regs] [.regs, .bar2, .out] = true) hs_
  unfold State.faultClear
  repeat' with_reducible first
    | assumption
    | intro _
    | apply Kept.ite
    | apply State.reject_kept hs_
    | apply State.setNat_kept q0
    | apply Kept.foldl
    | split
    | extract_lets

theorem State.regParity_kept {ws : List Field} {s₀ s : State} (hs_ : Field.sub [.regs, .bar2, .out, .meters, .calibs, .mons, .ram, .hmem, .rings, .strms, .axes, .grps, .slotRings, .cueQs, .binFlags, .slates, .cancels, .dqs, .cores, .cmbs, .engs, .poison] ws = true) (site blk : Nat)
    (kh_ : Kept ws s₀ s) : Kept ws s₀ (State.regParity s site blk) := by
  have q0 := Field.sub_trans (by decide : Field.sub [.regs, .bar2, .out, .meters, .calibs] [.regs, .bar2, .out, .meters, .calibs, .mons, .ram, .hmem, .rings, .strms, .axes, .grps, .slotRings, .cueQs, .binFlags, .slates, .cancels, .dqs, .cores, .cmbs, .engs, .poison] = true) hs_
  have q1 := Field.sub_trans (by decide : Field.sub [.regs, .bar2, .out, .ram, .hmem, .rings, .strms, .axes, .grps, .slotRings, .cueQs, .binFlags, .slates, .cancels, .dqs, .cores, .cmbs, .engs, .poison] [.regs, .bar2, .out, .meters, .calibs, .mons, .ram, .hmem, .rings, .strms, .axes, .grps, .slotRings, .cueQs, .binFlags, .slates, .cancels, .dqs, .cores, .cmbs, .engs, .poison] = true) hs_
  have q2 := Field.sub_trans (by decide : Field.sub [.regs, .bar2, .out, .meters] [.regs, .bar2, .out, .meters, .calibs, .mons, .ram, .hmem, .rings, .strms, .axes, .grps, .slotRings, .cueQs, .binFlags, .slates, .cancels, .dqs, .cores, .cmbs, .engs, .poison] = true) hs_
  have q3 := Field.sub_trans (by decide : Field.sub [.regs, .bar2, .out] [.regs, .bar2, .out, .meters, .calibs, .mons, .ram, .hmem, .rings, .strms, .axes, .grps, .slotRings, .cueQs, .binFlags, .slates, .cancels, .dqs, .cores, .cmbs, .engs, .poison] = true) hs_
  have q4 := Field.sub_trans (by decide : Field.sub [.mons] [.regs, .bar2, .out, .meters, .calibs, .mons, .ram, .hmem, .rings, .strms, .axes, .grps, .slotRings, .cueQs, .binFlags, .slates, .cancels, .dqs, .cores, .cmbs, .engs, .poison] = true) hs_
  have q5 := Field.sub_trans (by decide : Field.sub [.regs] [.regs, .bar2, .out, .meters, .calibs, .mons, .ram, .hmem, .rings, .strms, .axes, .grps, .slotRings, .cueQs, .binFlags, .slates, .cancels, .dqs, .cores, .cmbs, .engs, .poison] = true) hs_
  unfold State.regParity
  extract_lets -merge ty p
  clear_value ty p
  repeat' with_reducible first
    | assumption
    | intro _
    | apply Kept.ite
    | apply State.calAbortCh_kept q0
    | apply State.axisFault_kept q1
    | apply State.meterStop_kept q2
    | apply State.monFault_kept hs_
    | apply State.blockFault_kept q3
    | apply State.monTrack_kept q4
    | apply State.encFault_kept q3
    | apply State.setNat_kept q5
    | apply Kept.foldl
    | split
    | extract_lets

theorem execRegParity_kept {ws : List Field} {s₀ s : State} (hs_ : Field.sub [.regs, .latch, .back, .bar2, .out, .slots, .groups, .meters, .calibs, .ports, .mons, .ram, .hmem, .mute, .loads, .rings, .strms, .axes, .grps, .slotRings, .cueQs, .binFlags, .slates, .cancels, .tqs, .sched, .dqs, .cores, .cmbs, .engs, .mmus, .poison, .arbs, .capQs, .bndTaken, .free] ws = true) (site blk : Nat)
    (kh_ : Kept ws s₀ s) : Kept ws s₀ (after s (execRegParity site blk s)) := by
  have q0 := Field.sub_trans (by decide : Field.sub [.regs, .bar2, .out, .meters, .calibs, .mons, .ram, .hmem, .rings, .strms, .axes, .grps, .slotRings, .cueQs, .binFlags, .slates, .cancels, .dqs, .cores, .cmbs, .engs, .poison] [.regs, .latch, .back, .bar2, .out, .slots, .groups, .meters, .calibs, .ports, .mons, .ram, .hmem, .mute, .loads, .rings, .strms, .axes, .grps, .slotRings, .cueQs, .binFlags, .slates, .cancels, .tqs, .sched, .dqs, .cores, .cmbs, .engs, .mmus, .poison, .arbs, .capQs, .bndTaken, .free] = true) hs_
  have q1 := Field.sub_trans (by decide : Field.sub [.regs, .back, .bar2, .out, .ram, .hmem, .mute, .rings, .strms, .axes, .grps, .slotRings, .cancels, .tqs, .sched, .dqs, .cores, .cmbs, .engs, .mmus, .poison, .free] [.regs, .latch, .back, .bar2, .out, .slots, .groups, .meters, .calibs, .ports, .mons, .ram, .hmem, .mute, .loads, .rings, .strms, .axes, .grps, .slotRings, .cueQs, .binFlags, .slates, .cancels, .tqs, .sched, .dqs, .cores, .cmbs, .engs, .mmus, .poison, .arbs, .capQs, .bndTaken, .free] = true) hs_
  have q2 := Field.sub_trans (by decide : Field.sub [.regs, .latch, .back, .bar2, .out, .slots, .groups, .ports, .ram, .hmem, .loads, .rings, .strms, .axes, .grps, .slotRings, .cueQs, .binFlags, .slates, .cancels, .tqs, .sched, .dqs, .cores, .cmbs, .engs, .mmus, .poison, .arbs, .capQs, .bndTaken] [.regs, .latch, .back, .bar2, .out, .slots, .groups, .meters, .calibs, .ports, .mons, .ram, .hmem, .mute, .loads, .rings, .strms, .axes, .grps, .slotRings, .cueQs, .binFlags, .slates, .cancels, .tqs, .sched, .dqs, .cores, .cmbs, .engs, .mmus, .poison, .arbs, .capQs, .bndTaken, .free] = true) hs_
  unfold execRegParity
  repeat' with_reducible first
    | assumption
    | intro _
    | apply Kept.after_next
    | apply Kept.ite
    | apply State.regParity_kept q0
    | apply State.pkgFatal_kept q1
    | apply State.dieFatal_kept q2
    | apply Kept.foldl
    | split
    | extract_lets

end Sys2Proof.Machine
end

