-- ==== Sys2Proof/Laws/KRegOps.lean ====
section
/-!
SUPPORT. Laws/KRegOps.lean: what each operation of Machine/RegOps.lean may change, and that it keeps the canonical form.
-/
namespace Sys2Proof.Machine

theorem State.limPol_kept {ws : List Field} {s₀ s : State} (hs_ : Field.sub [.regs, .bar2, .out, .mons, .ram, .hmem, .rings, .strms, .axes, .grps, .slotRings, .cueQs, .binFlags, .slates, .cancels, .dqs, .cores, .cmbs, .engs, .poison] ws = true) (site : Nat) (old new : Word)
    (kh_ : Kept ws s₀ s) : Kept ws s₀ (State.limPol s site old new) := by
  have q0 := Field.sub_trans (by decide : Field.sub [.regs] [.regs, .bar2, .out, .mons, .ram, .hmem, .rings, .strms, .axes, .grps, .slotRings, .cueQs, .binFlags, .slates, .cancels, .dqs, .cores, .cmbs, .engs, .poison] = true) hs_
  unfold State.limPol
  extract_lets -merge p
  clear_value p
  repeat' with_reducible first
    | assumption
    | intro _
    | apply Kept.ite
    | apply State.qualify_kept hs_
    | apply State.putBit_kept q0
    | apply Kept.foldl
    | split
    | extract_lets

theorem State.regDone_kept {ws : List Field} {s₀ s : State} (hs_ : Field.sub [.regs, .bar2, .out, .encs, .poss, .meters, .calibs, .mons, .ram, .hmem, .rings, .strms, .axes, .grps, .slotRings, .cueQs, .binFlags, .slates, .cancels, .dqs, .cores, .cmbs, .engs, .poison] ws = true) (site blk off : Nat) (old new : Word)
    (kh_ : Kept ws s₀ s) : Kept ws s₀ (State.regDone s site blk off old new) := by
  have q0 := Field.sub_trans (by decide : Field.sub [.regs, .bar2, .out, .meters, .calibs] [.regs, .bar2, .out, .encs, .poss, .meters, .calibs, .mons, .ram, .hmem, .rings, .strms, .axes, .grps, .slotRings, .cueQs, .binFlags, .slates, .cancels, .dqs, .cores, .cmbs, .engs, .poison] = true) hs_
  have q1 := Field.sub_trans (by decide : Field.sub [.regs, .bar2, .out, .meters] [.regs, .bar2, .out, .encs, .poss, .meters, .calibs, .mons, .ram, .hmem, .rings, .strms, .axes, .grps, .slotRings, .cueQs, .binFlags, .slates, .cancels, .dqs, .cores, .cmbs, .engs, .poison] = true) hs_
  have q2 := Field.sub_trans (by decide : Field.sub [.regs, .bar2, .out, .mons, .ram, .hmem, .rings, .strms, .axes, .grps, .slotRings, .cueQs, .binFlags, .slates, .cancels, .dqs, .cores, .cmbs, .engs, .poison] [.regs, .bar2, .out, .encs, .poss, .meters, .calibs, .mons, .ram, .hmem, .rings, .strms, .axes, .grps, .slotRings, .cueQs, .binFlags, .slates, .cancels, .dqs, .cores, .cmbs, .engs, .poison] = true) hs_
  have q3 := Field.sub_trans (by decide : Field.sub [.regs, .bar2, .out, .rings, .strms] [.regs, .bar2, .out, .encs, .poss, .meters, .calibs, .mons, .ram, .hmem, .rings, .strms, .axes, .grps, .slotRings, .cueQs, .binFlags, .slates, .cancels, .dqs, .cores, .cmbs, .engs, .poison] = true) hs_
  have q4 := Field.sub_trans (by decide : Field.sub [.regs] [.regs, .bar2, .out, .encs, .poss, .meters, .calibs, .mons, .ram, .hmem, .rings, .strms, .axes, .grps, .slotRings, .cueQs, .binFlags, .slates, .cancels, .dqs, .cores, .cmbs, .engs, .poison] = true) hs_
  have q5 := Field.sub_trans (by decide : Field.sub [.bar2, .out] [.regs, .bar2, .out, .encs, .poss, .meters, .calibs, .mons, .ram, .hmem, .rings, .strms, .axes, .grps, .slotRings, .cueQs, .binFlags, .slates, .cancels, .dqs, .cores, .cmbs, .engs, .poison] = true) hs_
  have q6 := Field.sub_trans (by decide : Field.sub [.regs, .bar2, .out] [.regs, .bar2, .out, .encs, .poss, .meters, .calibs, .mons, .ram, .hmem, .rings, .strms, .axes, .grps, .slotRings, .cueQs, .binFlags, .slates, .cancels, .dqs, .cores, .cmbs, .engs, .poison] = true) hs_
  have q7 := Field.sub_trans (by decide : Field.sub [.poss] [.regs, .bar2, .out, .encs, .poss, .meters, .calibs, .mons, .ram, .hmem, .rings, .strms, .axes, .grps, .slotRings, .cueQs, .binFlags, .slates, .cancels, .dqs, .cores, .cmbs, .engs, .poison] = true) hs_
  have q8 := Field.sub_trans (by decide : Field.sub [.meters] [.regs, .bar2, .out, .encs, .poss, .meters, .calibs, .mons, .ram, .hmem, .rings, .strms, .axes, .grps, .slotRings, .cueQs, .binFlags, .slates, .cancels, .dqs, .cores, .cmbs, .engs, .poison] = true) hs_
  have q9 := Field.sub_trans (by decide : Field.sub [.encs] [.regs, .bar2, .out, .encs, .poss, .meters, .calibs, .mons, .ram, .hmem, .rings, .strms, .axes, .grps, .slotRings, .cueQs, .binFlags, .slates, .cancels, .dqs, .cores, .cmbs, .engs, .poison] = true) hs_
  unfold State.regDone
  extract_lets -merge ty p e _ g m cfg s1 x d
  clear_value ty p e g m cfg x d
  have k_s1 : Kept ws s₀ s1 := by
    unfold s1
    repeat' with_reducible first
      | assumption
      | intro _
      | apply Kept.ite
      | apply State.calAbortCh_kept q0
      | apply State.meterChanged_kept q1
      | apply State.limPol_kept q2
      | apply State.reserve_kept q3
      | apply State.showPend_kept q4
      | apply State.signal_kept q5
      | apply State.showGran_kept q4
      | apply State.showLims_kept q4
      | apply State.showAdmit_kept q4
      | apply State.showStream_kept q4
      | apply State.showRing_kept q6
      | apply State.trackPos_kept q7
      | apply State.setMeter_kept q8
      | apply State.setEnc_kept q9
      | apply Kept.foldl
      | split
      | extract_lets
  clear_value s1
  repeat' with_reducible first
    | assumption
    | intro _
    | apply Kept.ite
    | apply State.calAbortCh_kept q0
    | apply State.meterChanged_kept q1
    | apply State.limPol_kept q2
    | apply State.reserve_kept q3
    | apply State.showPend_kept q4
    | apply State.signal_kept q5
    | apply State.showGran_kept q4
    | apply State.showLims_kept q4
    | apply State.showAdmit_kept q4
    | apply State.showStream_kept q4
    | apply State.showRing_kept q6
    | apply State.trackPos_kept q7
    | apply State.setMeter_kept q8
    | apply State.setEnc_kept q9
    | apply Kept.foldl
    | split
    | extract_lets

theorem State.regApply_kept {ws : List Field} {s₀ s : State} (hs_ : Field.sub [.regs, .bar2, .out, .encs, .poss, .meters, .calibs, .mons, .ram, .hmem, .rings, .strms, .axes, .grps, .slotRings, .cueQs, .binFlags, .slates, .cancels, .dqs, .cores, .cmbs, .engs, .poison] ws = true) (site blk off : Nat) (r : RegDef) (v : Word)
    (kh_ : Kept ws s₀ s) : Kept ws s₀ (State.regApply s site blk off r v) := by
  have q0 := Field.sub_trans (by decide : Field.sub [.regs] [.regs, .bar2, .out, .encs, .poss, .meters, .calibs, .mons, .ram, .hmem, .rings, .strms, .axes, .grps, .slotRings, .cueQs, .binFlags, .slates, .cancels, .dqs, .cores, .cmbs, .engs, .poison] = true) hs_
  unfold State.regApply
  extract_lets -merge a old new
  clear_value a old new
  repeat' with_reducible first
    | assumption
    | intro _
    | apply Kept.ite
    | apply State.regDone_kept hs_
    | apply State.setReg_kept q0
    | apply Kept.foldl
    | split
    | extract_lets

theorem State.overlay_kept {ws : List Field} {s₀ s : State} (hs_ : Field.sub [.regs] ws = true) (site k : Nat)
    (kh_ : Kept ws s₀ s) : Kept ws s₀ (State.overlay s site k) := by
  unfold State.overlay
  repeat' with_reducible first
    | assumption
    | intro _
    | apply Kept.ite
    | apply State.setReg_kept hs_
    | apply Kept.foldl
    | split
    | extract_lets

theorem State.spiGo_kept {ws : List Field} {s₀ s : State} (hs_ : Field.sub [.regs, .bar2, .out, .gates] ws = true) (req site g : Nat)
    (kh_ : Kept ws s₀ s) : Kept ws s₀ (State.spiGo s req site g) := by
  have q0 := Field.sub_trans (by decide : Field.sub [.regs, .bar2, .out] [.regs, .bar2, .out, .gates] = true) hs_
  have q1 := Field.sub_trans (by decide : Field.sub [.regs, .out, .gates] [.regs, .bar2, .out, .gates] = true) hs_
  unfold State.spiGo
  repeat' with_reducible first
    | assumption
    | intro _
    | apply Kept.ite
    | apply State.reject_kept q0
    | apply State.spiStart_kept q1
    | apply Kept.foldl
    | split
    | extract_lets

theorem State.regRule_kept {ws : List Field} {s₀ s : State} (hs_ : Field.sub [.regs, .bar2, .out, .encs, .poss, .slots, .meters, .calibs, .mons, .ram, .hmem, .rings, .strms, .gates, .axes, .grps, .slotRings, .cueQs, .binFlags, .slates, .cancels, .dqs, .cores, .cmbs, .engs, .poison] ws = true) (req site blk off : Nat) (r : RegDef) (v : Word)
    (kh_ : Kept ws s₀ s) : Kept ws s₀ (State.regRule s req site blk off r v) := by
  have q0 := Field.sub_trans (by decide : Field.sub [.regs, .bar2, .out, .gates] [.regs, .bar2, .out, .encs, .poss, .slots, .meters, .calibs, .mons, .ram, .hmem, .rings, .strms, .gates, .axes, .grps, .slotRings, .cueQs, .binFlags, .slates, .cancels, .dqs, .cores, .cmbs, .engs, .poison] = true) hs_
  have q1 := Field.sub_trans (by decide : Field.sub [.regs, .bar2, .out, .encs, .poss, .meters, .calibs, .mons, .ram, .hmem, .rings, .strms, .axes, .grps, .slotRings, .cueQs, .binFlags, .slates, .cancels, .dqs, .cores, .cmbs, .engs, .poison] [.regs, .bar2, .out, .encs, .poss, .slots, .meters, .calibs, .mons, .ram, .hmem, .rings, .strms, .gates, .axes, .grps, .slotRings, .cueQs, .binFlags, .slates, .cancels, .dqs, .cores, .cmbs, .engs, .poison] = true) hs_
  have q2 := Field.sub_trans (by decide : Field.sub [.regs, .bar2, .out] [.regs, .bar2, .out, .encs, .poss, .slots, .meters, .calibs, .mons, .ram, .hmem, .rings, .strms, .gates, .axes, .grps, .slotRings, .cueQs, .binFlags, .slates, .cancels, .dqs, .cores, .cmbs, .engs, .poison] = true) hs_
  have q3 := Field.sub_trans (by decide : Field.sub [.regs, .bar2, .out, .slots] [.regs, .bar2, .out, .encs, .poss, .slots, .meters, .calibs, .mons, .ram, .hmem, .rings, .strms, .gates, .axes, .grps, .slotRings, .cueQs, .binFlags, .slates, .cancels, .dqs, .cores, .cmbs, .engs, .poison] = true) hs_
  unfold State.regRule
  extract_lets -merge p old rws range direct
  clear_value p old rws range
  have k_direct : ∀ x0, Kept ws s₀ x0 → Kept ws s₀ (direct x0) := by
    unfold direct
    repeat' with_reducible first
      | assumption
      | intro _
      | apply Kept.ite
      | apply State.spiGo_kept q0
      | apply State.regApply_kept q1
      | apply State.reject_kept q2
      | apply State.shadowPut_kept q3
      | apply Kept.foldl
      | split
      | extract_lets
  clear_value direct
  repeat' with_reducible first
    | assumption
    | intro _
    | apply k_direct
    | apply Kept.ite
    | apply State.spiGo_kept q0
    | apply State.regApply_kept q1
    | apply State.reject_kept q2
    | apply State.shadowPut_kept q3
    | apply Kept.foldl
    | split
    | extract_lets

end Sys2Proof.Machine
end

