-- ==== Sys2Proof/Laws/KTxn.lean ====
section
/-!
SUPPORT. Laws/KTxn.lean: what each operation of Machine/Txn.lean may change, and that it keeps the canonical form.
-/
namespace Sys2Proof.Machine

theorem State.txnStore_kept {ws : List Field} {s₀ s : State} (hs_ : Field.sub [.regs] ws = true) (site blk : Nat) (val : Word)
    (kh_ : Kept ws s₀ s) : Kept ws s₀ (State.txnStore s site blk val) := by
  unfold State.txnStore
  repeat' with_reducible first
    | assumption
    | intro _
    | apply Kept.ite
    | apply State.showTxnPage_kept hs_
    | apply State.setReg_kept hs_
    | apply Kept.foldl
    | split
    | extract_lets

theorem State.txnOpen_kept {ws : List Field} {s₀ s : State} (hs_ : Field.sub [.regs, .bar2, .out, .slots] ws = true) (req site blk : Nat) (val : Word)
    (kh_ : Kept ws s₀ s) : Kept ws s₀ (State.txnOpen s req site blk val) := by
  have q0 := Field.sub_trans (by decide : Field.sub [.regs, .bar2, .out] [.regs, .bar2, .out, .slots] = true) hs_
  have q1 := Field.sub_trans (by decide : Field.sub [.regs] [.regs, .bar2, .out, .slots] = true) hs_
  have q2 := Field.sub_trans (by decide : Field.sub [.slots] [.regs, .bar2, .out, .slots] = true) hs_
  unfold State.txnOpen
  extract_lets -merge p k x other y
  repeat' with_reducible first
    | assumption
    | intro _
    | apply Kept.ite
    | apply State.reject_kept q0
    | apply State.showTxn_kept q1
    | apply State.setSlot_kept q2
    | apply State.txnStore_kept q1
    | apply Kept.foldl
    | split
    | extract_lets

theorem State.armSlot_kept {ws : List Field} {s₀ s : State} (hs_ : Field.sub [.regs, .bar2, .out, .slots, .groups, .order] ws = true) (site k : Nat) (y : Slot)
    (kh_ : Kept ws s₀ s) : Kept ws s₀ (State.armSlot s site k y) := by
  have q0 := Field.sub_trans (by decide : Field.sub [.regs, .bar2, .out, .slots, .groups] [.regs, .bar2, .out, .slots, .groups, .order] = true) hs_
  have q1 := Field.sub_trans (by decide : Field.sub [.regs] [.regs, .bar2, .out, .slots, .groups, .order] = true) hs_
  have q2 := Field.sub_trans (by decide : Field.sub [.groups] [.regs, .bar2, .out, .slots, .groups, .order] = true) hs_
  have q3 := Field.sub_trans (by decide : Field.sub [.slots] [.regs, .bar2, .out, .slots, .groups, .order] = true) hs_
  have q4 := Field.sub_trans (by decide : Field.sub [.order] [.regs, .bar2, .out, .slots, .groups, .order] = true) hs_
  unfold State.armSlot
  extract_lets -merge s1 s2 s3
  have k_s1 : Kept ws s₀ s1 := by
    unfold s1
    repeat' with_reducible first
      | assumption
      | intro _
      | apply Kept.ite
      | apply State.abortGroup_kept q0
      | apply State.showTxn_kept q1
      | apply State.setGroup_kept q2
      | apply State.setSlot_kept q3
      | apply Kept.foldl
      | split
      | extract_lets
      | apply Kept.set_order _ q4
  clear_value s1
  have k_s2 : Kept ws s₀ s2 := by
    unfold s2
    repeat' with_reducible first
      | assumption
      | intro _
      | apply Kept.ite
      | apply State.abortGroup_kept q0
      | apply State.showTxn_kept q1
      | apply State.setGroup_kept q2
      | apply State.setSlot_kept q3
      | apply Kept.foldl
      | split
      | extract_lets
      | apply Kept.set_order _ q4
  clear_value s2
  have k_s3 : Kept ws s₀ s3 := by
    unfold s3
    repeat' with_reducible first
      | assumption
      | intro _
      | apply Kept.ite
      | apply State.abortGroup_kept q0
      | apply State.showTxn_kept q1
      | apply State.setGroup_kept q2
      | apply State.setSlot_kept q3
      | apply Kept.foldl
      | split
      | extract_lets
      | apply Kept.set_order _ q4
  clear_value s3
  repeat' with_reducible first
    | assumption
    | intro _
    | apply Kept.ite
    | apply State.abortGroup_kept q0
    | apply State.showTxn_kept q1
    | apply State.setGroup_kept q2
    | apply State.setSlot_kept q3
    | apply Kept.foldl
    | split
    | extract_lets
    | apply Kept.set_order _ q4

theorem State.txnCommit_kept {ws : List Field} {s₀ s : State} (hs_ : Field.sub [.regs, .bar2, .out, .slots, .groups, .order] ws = true) (req site blk : Nat) (val : Word)
    (kh_ : Kept ws s₀ s) : Kept ws s₀ (State.txnCommit s req site blk val) := by
  have q0 := Field.sub_trans (by decide : Field.sub [.regs, .bar2, .out] [.regs, .bar2, .out, .slots, .groups, .order] = true) hs_
  have q1 := Field.sub_trans (by decide : Field.sub [.regs] [.regs, .bar2, .out, .slots, .groups, .order] = true) hs_
  unfold State.txnCommit
  extract_lets -merge p k x cross g sites
  clear_value p k x cross g sites
  repeat' with_reducible first
    | assumption
    | intro _
    | apply Kept.ite
    | apply State.reject_kept q0
    | apply State.armSlot_kept hs_
    | apply State.txnStore_kept q1
    | apply Kept.foldl
    | split
    | extract_lets

theorem State.txnAbort_kept {ws : List Field} {s₀ s : State} (hs_ : Field.sub [.regs, .bar2, .out, .slots, .groups] ws = true) (req site blk : Nat) (val : Word)
    (kh_ : Kept ws s₀ s) : Kept ws s₀ (State.txnAbort s req site blk val) := by
  have q0 := Field.sub_trans (by decide : Field.sub [.regs, .bar2, .out] [.regs, .bar2, .out, .slots, .groups] = true) hs_
  have q1 := Field.sub_trans (by decide : Field.sub [.regs] [.regs, .bar2, .out, .slots, .groups] = true) hs_
  unfold State.txnAbort
  extract_lets -merge p k x
  clear_value p k x
  repeat' with_reducible first
    | assumption
    | intro _
    | apply Kept.ite
    | apply State.reject_kept q0
    | apply State.abortMember_kept hs_
    | apply State.txnStore_kept q1
    | apply Kept.foldl
    | split
    | extract_lets

theorem State.txnRule_kept {ws : List Field} {s₀ s : State} (hs_ : Field.sub [.regs, .bar2, .out, .slots, .groups, .order] ws = true) (req site blk : Nat) (val : Word)
    (kh_ : Kept ws s₀ s) : Kept ws s₀ (State.txnRule s req site blk val) := by
  have q0 := Field.sub_trans (by decide : Field.sub [.regs, .bar2, .out] [.regs, .bar2, .out, .slots, .groups, .order] = true) hs_
  have q1 := Field.sub_trans (by decide : Field.sub [.regs, .bar2, .out, .slots, .groups] [.regs, .bar2, .out, .slots, .groups, .order] = true) hs_
  have q2 := Field.sub_trans (by decide : Field.sub [.regs, .bar2, .out, .slots] [.regs, .bar2, .out, .slots, .groups, .order] = true) hs_
  have q3 := Field.sub_trans (by decide : Field.sub [.regs] [.regs, .bar2, .out, .slots, .groups, .order] = true) hs_
  unfold State.txnRule
  extract_lets -merge p cmds
  clear_value p cmds
  repeat' with_reducible first
    | assumption
    | intro _
    | apply Kept.ite
    | apply State.reject_kept q0
    | apply State.txnAbort_kept q1
    | apply State.txnCommit_kept hs_
    | apply State.txnOpen_kept q2
    | apply State.txnStore_kept q3
    | apply Kept.foldl
    | split
    | extract_lets

theorem execTxnStaged_kept {ws : List Field} {s₀ s : State} (hs_ : Field.sub [.regs, .slots] ws = true) (site slot : Nat)
    (kh_ : Kept ws s₀ s) : Kept ws s₀ (after s (execTxnStaged site slot s)) := by
  have q0 := Field.sub_trans (by decide : Field.sub [.regs] [.regs, .slots] = true) hs_
  have q1 := Field.sub_trans (by decide : Field.sub [.slots] [.regs, .slots] = true) hs_
  unfold execTxnStaged
  extract_lets -merge x late _ arm
  clear_value x late arm
  repeat' with_reducible first
    | assumption
    | intro _
    | apply Kept.after_next
    | apply Kept.ite
    | apply State.showTxn_kept q0
    | apply State.setSlot_kept q1
    | apply Kept.foldl
    | split
    | extract_lets

theorem State.staged_kept {ws : List Field} {s₀ s : State} (hs_ : Field.sub [.regs] ws = true) (site k : Nat)
    (kh_ : Kept ws s₀ s) : Kept ws s₀ (State.staged s site k) := by
  unfold State.staged
  repeat' with_reducible first
    | assumption
    | intro _
    | apply Kept.ite
    | apply State.setReg_kept hs_
    | apply Kept.foldl
    | split
    | extract_lets

theorem State.applyEntry_kept {ws : List Field} {s₀ s : State} (hs_ : Field.sub [.regs, .bar2, .out, .encs, .poss, .meters, .calibs, .mons, .ram, .hmem, .rings, .strms, .gates, .axes, .grps, .slotRings, .cueQs, .binFlags, .slates, .cancels, .dqs, .cores, .cmbs, .engs, .poison] ws = true) (site : Nat) (e : Nat × Word)
    (kh_ : Kept ws s₀ s) : Kept ws s₀ (State.applyEntry s site e) := by
  have q0 := Field.sub_trans (by decide : Field.sub [.regs, .bar2, .out, .encs, .poss, .meters, .calibs, .mons, .ram, .hmem, .rings, .strms, .axes, .grps, .slotRings, .cueQs, .binFlags, .slates, .cancels, .dqs, .cores, .cmbs, .engs, .poison] [.regs, .bar2, .out, .encs, .poss, .meters, .calibs, .mons, .ram, .hmem, .rings, .strms, .gates, .axes, .grps, .slotRings, .cueQs, .binFlags, .slates, .cancels, .dqs, .cores, .cmbs, .engs, .poison] = true) hs_
  have q1 := Field.sub_trans (by decide : Field.sub [.regs, .out, .gates] [.regs, .bar2, .out, .encs, .poss, .meters, .calibs, .mons, .ram, .hmem, .rings, .strms, .gates, .axes, .grps, .slotRings, .cueQs, .binFlags, .slates, .cancels, .dqs, .cores, .cmbs, .engs, .poison] = true) hs_
  unfold State.applyEntry
  extract_lets -merge blk off ty
  clear_value blk off ty
  repeat' with_reducible first
    | assumption
    | intro _
    | apply Kept.ite
    | apply State.regApply_kept q0
    | apply State.spiStart_kept q1
    | apply Kept.foldl
    | split
    | extract_lets

theorem State.applyCtrl_kept {ws : List Field} {s₀ s : State} (hs_ : Field.sub [.regs, .bar2, .out, .poss, .meters, .calibs, .ram, .hmem, .rings, .strms, .gates, .axes, .grps, .slotRings, .cueQs, .binFlags, .slates, .cancels, .tqs, .dqs, .cores, .cmbs, .engs, .poison] ws = true) (site : Nat) (e : Nat × Word)
    (kh_ : Kept ws s₀ s) : Kept ws s₀ (State.applyCtrl s site e) := by
  have q0 := Field.sub_trans (by decide : Field.sub [.regs, .bar2, .out, .meters, .calibs, .ram, .hmem, .rings, .strms, .gates, .axes, .grps, .slotRings, .cueQs, .binFlags, .slates, .cancels, .dqs, .cores, .cmbs, .engs, .poison] [.regs, .bar2, .out, .poss, .meters, .calibs, .ram, .hmem, .rings, .strms, .gates, .axes, .grps, .slotRings, .cueQs, .binFlags, .slates, .cancels, .tqs, .dqs, .cores, .cmbs, .engs, .poison] = true) hs_
  have q1 := Field.sub_trans (by decide : Field.sub [.regs, .bar2, .out, .poss, .meters, .rings, .gates, .grps, .tqs] [.regs, .bar2, .out, .poss, .meters, .calibs, .ram, .hmem, .rings, .strms, .gates, .axes, .grps, .slotRings, .cueQs, .binFlags, .slates, .cancels, .tqs, .dqs, .cores, .cmbs, .engs, .poison] = true) hs_
  have q2 := Field.sub_trans (by decide : Field.sub [.regs] [.regs, .bar2, .out, .poss, .meters, .calibs, .ram, .hmem, .rings, .strms, .gates, .axes, .grps, .slotRings, .cueQs, .binFlags, .slates, .cancels, .tqs, .dqs, .cores, .cmbs, .engs, .poison] = true) hs_
  unfold State.applyCtrl
  extract_lets -merge blk p
  clear_value blk p
  repeat' with_reducible first
    | assumption
    | intro _
    | apply Kept.ite
    | apply State.enClear_kept q0
    | apply State.enSet_kept q1
    | apply State.putBit_kept q2
    | apply Kept.foldl
    | split
    | extract_lets

theorem State.applySlot_kept {ws : List Field} {s₀ s : State} (hs_ : Field.sub [.regs, .bar2, .out, .encs, .poss, .slots, .meters, .calibs, .mons, .ram, .hmem, .rings, .strms, .gates, .axes, .grps, .slotRings, .cueQs, .binFlags, .slates, .cancels, .tqs, .dqs, .cores, .cmbs, .engs, .poison] ws = true) (site k stamp : Nat) (late : Bool)
    (kh_ : Kept ws s₀ s) : Kept ws s₀ (State.applySlot s site k stamp late) := by
  have q0 := Field.sub_trans (by decide : Field.sub [.regs, .bar2, .out, .poss, .meters, .calibs, .ram, .hmem, .rings, .strms, .gates, .axes, .grps, .slotRings, .cueQs, .binFlags, .slates, .cancels, .tqs, .dqs, .cores, .cmbs, .engs, .poison] [.regs, .bar2, .out, .encs, .poss, .slots, .meters, .calibs, .mons, .ram, .hmem, .rings, .strms, .gates, .axes, .grps, .slotRings, .cueQs, .binFlags, .slates, .cancels, .tqs, .dqs, .cores, .cmbs, .engs, .poison] = true) hs_
  have q1 := Field.sub_trans (by decide : Field.sub [.regs, .bar2, .out, .encs, .poss, .meters, .calibs, .mons, .ram, .hmem, .rings, .strms, .gates, .axes, .grps, .slotRings, .cueQs, .binFlags, .slates, .cancels, .dqs, .cores, .cmbs, .engs, .poison] [.regs, .bar2, .out, .encs, .poss, .slots, .meters, .calibs, .mons, .ram, .hmem, .rings, .strms, .gates, .axes, .grps, .slotRings, .cueQs, .binFlags, .slates, .cancels, .tqs, .dqs, .cores, .cmbs, .engs, .poison] = true) hs_
  have q2 := Field.sub_trans (by decide : Field.sub [.regs, .bar2, .out] [.regs, .bar2, .out, .encs, .poss, .slots, .meters, .calibs, .mons, .ram, .hmem, .rings, .strms, .gates, .axes, .grps, .slotRings, .cueQs, .binFlags, .slates, .cancels, .tqs, .dqs, .cores, .cmbs, .engs, .poison] = true) hs_
  have q3 := Field.sub_trans (by decide : Field.sub [.regs] [.regs, .bar2, .out, .encs, .poss, .slots, .meters, .calibs, .mons, .ram, .hmem, .rings, .strms, .gates, .axes, .grps, .slotRings, .cueQs, .binFlags, .slates, .cancels, .tqs, .dqs, .cores, .cmbs, .engs, .poison] = true) hs_
  have q4 := Field.sub_trans (by decide : Field.sub [.slots] [.regs, .bar2, .out, .encs, .poss, .slots, .meters, .calibs, .mons, .ram, .hmem, .rings, .strms, .gates, .axes, .grps, .slotRings, .cueQs, .binFlags, .slates, .cancels, .tqs, .dqs, .cores, .cmbs, .engs, .poison] = true) hs_
  unfold State.applySlot
  extract_lets -merge x s1 s2 s3 s4
  clear_value x
  have k_s1 : Kept ws s₀ s1 := by
    unfold s1
    repeat' with_reducible first
      | assumption
      | intro _
      | apply Kept.ite
      | apply State.applyCtrl_kept q0
      | apply State.applyEntry_kept q1
      | apply State.evt_kept q2
      | apply State.setNat_kept q3
      | apply State.showTxn_kept q3
      | apply State.setSlot_kept q4
      | apply Kept.foldl
      | split
      | extract_lets
  clear_value s1
  have k_s2 : Kept ws s₀ s2 := by
    unfold s2
    repeat' with_reducible first
      | assumption
      | intro _
      | apply Kept.ite
      | apply State.applyCtrl_kept q0
      | apply State.applyEntry_kept q1
      | apply State.evt_kept q2
      | apply State.setNat_kept q3
      | apply State.showTxn_kept q3
      | apply State.setSlot_kept q4
      | apply Kept.foldl
      | split
      | extract_lets
  clear_value s2
  have k_s3 : Kept ws s₀ s3 := by
    unfold s3
    repeat' with_reducible first
      | assumption
      | intro _
      | apply Kept.ite
      | apply State.applyCtrl_kept q0
      | apply State.applyEntry_kept q1
      | apply State.evt_kept q2
      | apply State.setNat_kept q3
      | apply State.showTxn_kept q3
      | apply State.setSlot_kept q4
      | apply Kept.foldl
      | split
      | extract_lets
  clear_value s3
  have k_s4 : Kept ws s₀ s4 := by
    unfold s4
    repeat' with_reducible first
      | assumption
      | intro _
      | apply Kept.ite
      | apply State.applyCtrl_kept q0
      | apply State.applyEntry_kept q1
      | apply State.evt_kept q2
      | apply State.setNat_kept q3
      | apply State.showTxn_kept q3
      | apply State.setSlot_kept q4
      | apply Kept.foldl
      | split
      | extract_lets
  clear_value s4
  repeat' with_reducible first
    | assumption
    | intro _
    | apply Kept.ite
    | apply State.applyCtrl_kept q0
    | apply State.applyEntry_kept q1
    | apply State.evt_kept q2
    | apply State.setNat_kept q3
    | apply State.showTxn_kept q3
    | apply State.setSlot_kept q4
    | apply Kept.foldl
    | split
    | extract_lets

theorem State.boundary_kept {ws : List Field} {s₀ s : State} (hs_ : Field.sub [.regs, .bar2, .out, .encs, .poss, .slots, .meters, .calibs, .mons, .ram, .hmem, .rings, .strms, .gates, .axes, .grps, .slotRings, .cueQs, .binFlags, .slates, .cancels, .tqs, .dqs, .cores, .cmbs, .engs, .poison] ws = true) (site k line : Nat) (late : Bool)
    (kh_ : Kept ws s₀ s) : Kept ws s₀ (State.boundary s site k line late) := by
  have q0 := Field.sub_trans (by decide : Field.sub [.rings] [.regs, .bar2, .out, .encs, .poss, .slots, .meters, .calibs, .mons, .ram, .hmem, .rings, .strms, .gates, .axes, .grps, .slotRings, .cueQs, .binFlags, .slates, .cancels, .tqs, .dqs, .cores, .cmbs, .engs, .poison] = true) hs_
  have q1 := Field.sub_trans (by decide : Field.sub [.regs, .bar2, .out, .slots] [.regs, .bar2, .out, .encs, .poss, .slots, .meters, .calibs, .mons, .ram, .hmem, .rings, .strms, .gates, .axes, .grps, .slotRings, .cueQs, .binFlags, .slates, .cancels, .tqs, .dqs, .cores, .cmbs, .engs, .poison] = true) hs_
  unfold State.boundary
  extract_lets -merge x s1
  clear_value x
  have k_s1 : Kept ws s₀ s1 := by
    unfold s1
    repeat' with_reducible first
      | assumption
      | intro _
      | apply Kept.ite
      | apply State.applySlot_kept hs_
      | apply State.lateLine_kept q0
      | apply State.abortSlot_kept q1
      | apply Kept.foldl
      | split
      | extract_lets
  clear_value s1
  repeat' with_reducible first
    | assumption
    | intro _
    | apply Kept.ite
    | apply State.applySlot_kept hs_
    | apply State.lateLine_kept q0
    | apply State.abortSlot_kept q1
    | apply Kept.foldl
    | split
    | extract_lets

theorem State.commitNext_kept {ws : List Field} {s₀ s : State} (hs_ : Field.sub [.regs, .bar2, .out, .encs, .poss, .slots, .meters, .calibs, .mons, .ram, .hmem, .rings, .strms, .gates, .axes, .grps, .slotRings, .cueQs, .binFlags, .slates, .cancels, .tqs, .dqs, .cores, .cmbs, .engs, .poison] ws = true) (site : Nat)
    (kh_ : Kept ws s₀ s) : Kept ws s₀ (State.commitNext s site) := by
  unfold State.commitNext
  repeat' with_reducible first
    | assumption
    | intro _
    | apply Kept.ite
    | apply State.boundary_kept hs_
    | apply Kept.foldl
    | split
    | extract_lets

theorem State.commitsFirst_kept {ws : List Field} {s₀ s : State} (hs_ : Field.sub [.regs, .bar2, .out, .encs, .poss, .slots, .meters, .calibs, .mons, .ram, .hmem, .rings, .strms, .gates, .axes, .grps, .slotRings, .cueQs, .binFlags, .slates, .cancels, .tqs, .dqs, .cores, .cmbs, .engs, .poison] ws = true) (site : Nat)
    (kh_ : Kept ws s₀ s) : Kept ws s₀ (State.commitsFirst s site) := by
  unfold State.commitsFirst
  repeat' with_reducible first
    | assumption
    | intro _
    | apply Kept.ite
    | apply State.commitNext_kept hs_
    | apply Kept.foldl
    | split
    | extract_lets

theorem State.ctrlWrite_kept {ws : List Field} {s₀ s : State} (hs_ : Field.sub [.regs, .latch, .bar2, .out, .encs, .poss, .segArms, .slots, .groups, .meters, .calibs, .ports, .mons, .ram, .hmem, .rings, .strms, .gates, .axes, .grps, .slotRings, .cueQs, .binFlags, .slates, .cancels, .tqs, .dqs, .cores, .cmbs, .engs, .poison] ws = true) (req site blk : Nat) (val : Word)
    (kh_ : Kept ws s₀ s) : Kept ws s₀ (State.ctrlWrite s req site blk val) := by
  have q0 := Field.sub_trans (by decide : Field.sub [.regs, .bar2, .out] [.regs, .latch, .bar2, .out, .encs, .poss, .segArms, .slots, .groups, .meters, .calibs, .ports, .mons, .ram, .hmem, .rings, .strms, .gates, .axes, .grps, .slotRings, .cueQs, .binFlags, .slates, .cancels, .tqs, .dqs, .cores, .cmbs, .engs, .poison] = true) hs_
  have q1 := Field.sub_trans (by decide : Field.sub [.regs, .bar2, .out, .encs, .poss, .slots, .meters, .calibs, .mons, .ram, .hmem, .rings, .strms, .gates, .axes, .grps, .slotRings, .cueQs, .binFlags, .slates, .cancels, .tqs, .dqs, .cores, .cmbs, .engs, .poison] [.regs, .latch, .bar2, .out, .encs, .poss, .segArms, .slots, .groups, .meters, .calibs, .ports, .mons, .ram, .hmem, .rings, .strms, .gates, .axes, .grps, .slotRings, .cueQs, .binFlags, .slates, .cancels, .tqs, .dqs, .cores, .cmbs, .engs, .poison] = true) hs_
  unfold State.ctrlWrite
  repeat' with_reducible first
    | assumption
    | intro _
    | apply Kept.ite
    | apply State.ctrlRule_kept hs_
    | apply State.gateWrite_kept q0
    | refine KeptO.of (State.gateWrite_kept q0 _ _ _ _ ?_) ‹_›
    | apply State.commitsFirst_kept q1
    | apply Kept.foldl
    | split
    | extract_lets

theorem execCtrlEnSet_kept {ws : List Field} {s₀ s : State} (hs_ : Field.sub [.regs, .latch, .bar2, .out, .encs, .poss, .segArms, .slots, .groups, .meters, .calibs, .ports, .mons, .ram, .hmem, .rings, .strms, .gates, .axes, .grps, .slotRings, .cueQs, .binFlags, .slates, .cancels, .tqs, .dqs, .cores, .cmbs, .engs, .poison] ws = true) (req site blk : Nat)
    (kh_ : Kept ws s₀ s) : Kept ws s₀ (after s (execCtrlEnSet req site blk s)) := by
  unfold execCtrlEnSet
  repeat' with_reducible first
    | assumption
    | intro _
    | apply Kept.after_next
    | apply Kept.ite
    | apply State.ctrlWrite_kept hs_
    | apply Kept.foldl
    | split
    | extract_lets

theorem execCtrlEnClear_kept {ws : List Field} {s₀ s : State} (hs_ : Field.sub [.regs, .latch, .bar2, .out, .encs, .poss, .segArms, .slots, .groups, .meters, .calibs, .ports, .mons, .ram, .hmem, .rings, .strms, .gates, .axes, .grps, .slotRings, .cueQs, .binFlags, .slates, .cancels, .tqs, .dqs, .cores, .cmbs, .engs, .poison] ws = true) (req site blk : Nat)
    (kh_ : Kept ws s₀ s) : Kept ws s₀ (after s (execCtrlEnClear req site blk s)) := by
  unfold execCtrlEnClear
  repeat' with_reducible first
    | assumption
    | intro _
    | apply Kept.after_next
    | apply Kept.ite
    | apply State.ctrlWrite_kept hs_
    | apply Kept.foldl
    | split
    | extract_lets

theorem execSoftReset_kept {ws : List Field} {s₀ s : State} (hs_ : Field.sub [.regs, .latch, .bar2, .out, .encs, .poss, .segArms, .slots, .groups, .meters, .calibs, .ports, .mons, .ram, .hmem, .rings, .strms, .gates, .axes, .grps, .slotRings, .cueQs, .binFlags, .slates, .cancels, .tqs, .dqs, .cores, .cmbs, .engs, .poison] ws = true) (req site blk : Nat)
    (kh_ : Kept ws s₀ s) : Kept ws s₀ (after s (execSoftReset req site blk s)) := by
  unfold execSoftReset
  repeat' with_reducible first
    | assumption
    | intro _
    | apply Kept.after_next
    | apply Kept.ite
    | apply State.ctrlWrite_kept hs_
    | apply Kept.foldl
    | split
    | extract_lets

theorem State.setGo_kept {ws : List Field} {s₀ s : State} (hs_ : Field.sub [.regs, .bar2, .out, .slots, .groups] ws = true) (g : Nat)
    (kh_ : Kept ws s₀ s) : Kept ws s₀ (State.setGo s g) := by
  have q0 := Field.sub_trans (by decide : Field.sub [.groups] [.regs, .bar2, .out, .slots, .groups] = true) hs_
  unfold State.setGo
  extract_lets -merge x ahead
  clear_value x ahead
  repeat' with_reducible first
    | assumption
    | intro _
    | apply Kept.ite
    | apply State.abortGroup_kept hs_
    | apply State.setGroup_kept q0
    | apply Kept.foldl
    | split
    | extract_lets

theorem execStagedReport_kept {ws : List Field} {s₀ s : State} (hs_ : Field.sub [.regs, .bar2, .out, .slots, .groups] ws = true) (pkg site group : Nat)
    (kh_ : Kept ws s₀ s) : Kept ws s₀ (after s (execStagedReport pkg site group s)) := by
  have q0 := Field.sub_trans (by decide : Field.sub [.groups] [.regs, .bar2, .out, .slots, .groups] = true) hs_
  unfold execStagedReport
  extract_lets -merge add
  have k_add : ∀ x0, Kept ws s₀ x0 → Kept ws s₀ (add x0) := by
    unfold add
    repeat' with_reducible first
      | assumption
      | intro _
      | apply Kept.after_next
      | apply Kept.ite
      | apply State.setGo_kept hs_
      | apply State.abortGroup_kept hs_
      | apply State.setGroup_kept q0
      | apply Kept.foldl
      | split
      | extract_lets
  clear_value add
  repeat' with_reducible first
    | assumption
    | intro _
    | apply k_add
    | apply Kept.after_next
    | apply Kept.ite
    | apply State.setGo_kept hs_
    | apply State.abortGroup_kept hs_
    | apply State.setGroup_kept q0
    | apply Kept.foldl
    | split
    | extract_lets

theorem execGroupReportDeadline_kept {ws : List Field} {s₀ s : State} (hs_ : Field.sub [.regs, .bar2, .out, .slots, .groups] ws = true) (group : Nat)
    (kh_ : Kept ws s₀ s) : Kept ws s₀ (after s (execGroupReportDeadline group s)) := by
  have q0 := Field.sub_trans (by decide : Field.sub [.groups] [.regs, .bar2, .out, .slots, .groups] = true) hs_
  unfold execGroupReportDeadline
  extract_lets -merge _
  repeat' with_reducible first
    | assumption
    | intro _
    | apply Kept.after_next
    | apply Kept.ite
    | apply State.abortGroup_kept hs_
    | apply State.setGroup_kept q0
    | apply Kept.foldl
    | split
    | extract_lets

theorem execGroupAbort_kept {ws : List Field} {s₀ s : State} (hs_ : Field.sub [.regs, .bar2, .out, .slots, .groups] ws = true) (group : Nat)
    (kh_ : Kept ws s₀ s) : Kept ws s₀ (after s (execGroupAbort group s)) := by
  unfold execGroupAbort
  repeat' with_reducible first
    | assumption
    | intro _
    | apply Kept.after_next
    | apply Kept.ite
    | apply State.abortGroup_kept hs_
    | apply Kept.foldl
    | split
    | extract_lets

theorem execCrossApply_kept {ws : List Field} {s₀ s : State} (hs_ : Field.sub [.regs, .bar2, .out, .encs, .poss, .slots, .groups, .meters, .calibs, .mons, .ram, .hmem, .rings, .strms, .gates, .axes, .grps, .slotRings, .cueQs, .binFlags, .slates, .cancels, .tqs, .dqs, .cores, .cmbs, .engs, .poison] ws = true) (site group : Nat)
    (kh_ : Kept ws s₀ s) : Kept ws s₀ (after s (execCrossApply site group s)) := by
  have q0 := Field.sub_trans (by decide : Field.sub [.regs, .bar2, .out, .encs, .poss, .slots, .meters, .calibs, .mons, .ram, .hmem, .rings, .strms, .gates, .axes, .grps, .slotRings, .cueQs, .binFlags, .slates, .cancels, .tqs, .dqs, .cores, .cmbs, .engs, .poison] [.regs, .bar2, .out, .encs, .poss, .slots, .groups, .meters, .calibs, .mons, .ram, .hmem, .rings, .strms, .gates, .axes, .grps, .slotRings, .cueQs, .binFlags, .slates, .cancels, .tqs, .dqs, .cores, .cmbs, .engs, .poison] = true) hs_
  have q1 := Field.sub_trans (by decide : Field.sub [.regs, .bar2, .out, .slots, .groups] [.regs, .bar2, .out, .encs, .poss, .slots, .groups, .meters, .calibs, .mons, .ram, .hmem, .rings, .strms, .gates, .axes, .grps, .slotRings, .cueQs, .binFlags, .slates, .cancels, .tqs, .dqs, .cores, .cmbs, .engs, .poison] = true) hs_
  unfold execCrossApply
  extract_lets -merge gr
  clear_value gr
  repeat' with_reducible first
    | assumption
    | intro _
    | apply Kept.after_next
    | apply Kept.ite
    | apply State.applySlot_kept q0
    | apply State.abortGroup_kept q1
    | apply Kept.foldl
    | split
    | extract_lets

end Sys2Proof.Machine
end

