-- ==== Sys2Proof/Laws/KActions.lean ====
section
/-!
SUPPORT. Laws/KActions.lean: what each operation of Machine/Actions.lean may change, and that it keeps the canonical form.
-/
namespace Sys2Proof.Machine

theorem State.pitchRun_kept {ws : List Field} {s₀ s : State} (hs_ : Field.sub [.regs, .bar2, .out, .poss, .rings] ws = true) (site g line : Nat) (a : Armed) (late : Bool)
    (kh_ : Kept ws s₀ s) : Kept ws s₀ (State.pitchRun s site g line a late) := by
  have q0 := Field.sub_trans (by decide : Field.sub [.poss] [.regs, .bar2, .out, .poss, .rings] = true) hs_
  have q1 := Field.sub_trans (by decide : Field.sub [.regs, .bar2, .out] [.regs, .bar2, .out, .poss, .rings] = true) hs_
  have q2 := Field.sub_trans (by decide : Field.sub [.rings] [.regs, .bar2, .out, .poss, .rings] = true) hs_
  have q3 := Field.sub_trans (by decide : Field.sub [.regs] [.regs, .bar2, .out, .poss, .rings] = true) hs_
  unfold State.pitchRun
  extract_lets -merge p x s1 mark s2
  clear_value p x
  have k_s1 : Kept ws s₀ s1 := by
    unfold s1
    repeat' with_reducible first
      | assumption
      | intro _
      | apply Kept.ite
      | apply State.setPos_kept q0
      | apply State.evt_kept q1
      | apply State.lateLine_kept q2
      | apply State.setNat_kept q3
      | apply State.putBit_kept q3
      | apply Kept.foldl
      | split
      | extract_lets
  clear_value s1
  have k_mark : ∀ x0, Kept ws s₀ x0 → Kept ws s₀ (mark x0) := by
    unfold mark
    repeat' with_reducible first
      | assumption
      | intro _
      | apply Kept.ite
      | apply State.setPos_kept q0
      | apply State.evt_kept q1
      | apply State.lateLine_kept q2
      | apply State.setNat_kept q3
      | apply State.putBit_kept q3
      | apply Kept.foldl
      | split
      | extract_lets
  clear_value mark
  have k_s2 : Kept ws s₀ s2 := by
    unfold s2
    repeat' with_reducible first
      | assumption
      | intro _
      | apply k_mark
      | apply Kept.ite
      | apply State.setPos_kept q0
      | apply State.evt_kept q1
      | apply State.lateLine_kept q2
      | apply State.setNat_kept q3
      | apply State.putBit_kept q3
      | apply Kept.foldl
      | split
      | extract_lets
  clear_value s2
  repeat' with_reducible first
    | assumption
    | intro _
    | apply k_mark
    | apply Kept.ite
    | apply State.setPos_kept q0
    | apply State.evt_kept q1
    | apply State.lateLine_kept q2
    | apply State.setNat_kept q3
    | apply State.putBit_kept q3
    | apply Kept.foldl
    | split
    | extract_lets

theorem State.runLineAct_kept {ws : List Field} {s₀ s : State} (hs_ : Field.sub [.regs, .bar2, .out, .encs, .poss, .segArms, .slots, .meters, .calibs, .mons, .ram, .hmem, .rings, .strms, .gates, .axes, .grps, .slotRings, .cueQs, .binFlags, .slates, .cancels, .tqs, .dqs, .cores, .cmbs, .engs, .poison] ws = true) (site g l : Nat) (a : LineAct)
    (kh_ : Kept ws s₀ s) : Kept ws s₀ (State.runLineAct s site g l a) := by
  have q0 := Field.sub_trans (by decide : Field.sub [.regs, .bar2, .out, .encs, .poss, .slots, .meters, .calibs, .mons, .ram, .hmem, .rings, .strms, .gates, .axes, .grps, .slotRings, .cueQs, .binFlags, .slates, .cancels, .tqs, .dqs, .cores, .cmbs, .engs, .poison] [.regs, .bar2, .out, .encs, .poss, .segArms, .slots, .meters, .calibs, .mons, .ram, .hmem, .rings, .strms, .gates, .axes, .grps, .slotRings, .cueQs, .binFlags, .slates, .cancels, .tqs, .dqs, .cores, .cmbs, .engs, .poison] = true) hs_
  have q1 := Field.sub_trans (by decide : Field.sub [.regs, .bar2, .out, .segArms, .rings, .axes, .grps] [.regs, .bar2, .out, .encs, .poss, .segArms, .slots, .meters, .calibs, .mons, .ram, .hmem, .rings, .strms, .gates, .axes, .grps, .slotRings, .cueQs, .binFlags, .slates, .cancels, .tqs, .dqs, .cores, .cmbs, .engs, .poison] = true) hs_
  have q2 := Field.sub_trans (by decide : Field.sub [.regs, .bar2, .out, .poss, .rings] [.regs, .bar2, .out, .encs, .poss, .segArms, .slots, .meters, .calibs, .mons, .ram, .hmem, .rings, .strms, .gates, .axes, .grps, .slotRings, .cueQs, .binFlags, .slates, .cancels, .tqs, .dqs, .cores, .cmbs, .engs, .poison] = true) hs_
  unfold State.runLineAct
  repeat' with_reducible first
    | assumption
    | intro _
    | apply Kept.ite
    | apply State.boundary_kept q0
    | apply State.fireSeg_kept q1
    | apply State.pitchRun_kept q2
    | apply Kept.foldl
    | split
    | extract_lets

theorem State.startLine_kept {ws : List Field} {s₀ s : State} (hs_ : Field.sub [.regs, .bar2, .out, .encs, .poss, .segArms, .slots, .meters, .calibs, .mons, .ram, .hmem, .rings, .strms, .gates, .axes, .grps, .slotRings, .cueQs, .binFlags, .slates, .cancels, .tqs, .dqs, .cores, .cmbs, .engs, .poison, .free] ws = true) (site g : Nat) (late : Bool)
    (kh_ : Kept ws s₀ s) : Kept ws s₀ (State.startLine s site g late) := by
  have q0 := Field.sub_trans (by decide : Field.sub [.regs, .bar2, .out, .poss, .rings, .strms, .gates, .free] [.regs, .bar2, .out, .encs, .poss, .segArms, .slots, .meters, .calibs, .mons, .ram, .hmem, .rings, .strms, .gates, .axes, .grps, .slotRings, .cueQs, .binFlags, .slates, .cancels, .tqs, .dqs, .cores, .cmbs, .engs, .poison, .free] = true) hs_
  have q1 := Field.sub_trans (by decide : Field.sub [.regs, .bar2, .out, .encs, .poss, .segArms, .slots, .meters, .calibs, .mons, .ram, .hmem, .rings, .strms, .gates, .axes, .grps, .slotRings, .cueQs, .binFlags, .slates, .cancels, .tqs, .dqs, .cores, .cmbs, .engs, .poison] [.regs, .bar2, .out, .encs, .poss, .segArms, .slots, .meters, .calibs, .mons, .ram, .hmem, .rings, .strms, .gates, .axes, .grps, .slotRings, .cueQs, .binFlags, .slates, .cancels, .tqs, .dqs, .cores, .cmbs, .engs, .poison, .free] = true) hs_
  unfold State.startLine
  extract_lets -merge l acts
  clear_value l acts
  repeat' with_reducible first
    | assumption
    | intro _
    | apply Kept.ite
    | apply State.capture_kept q0
    | apply State.runLineAct_kept q1
    | apply Kept.foldl
    | split
    | extract_lets

theorem execLineTrigger_kept {ws : List Field} {s₀ s : State} (hs_ : Field.sub [.regs, .bar2, .out, .encs, .poss, .segArms, .slots, .meters, .calibs, .mons, .ram, .hmem, .rings, .strms, .gates, .axes, .grps, .slotRings, .cueQs, .binFlags, .slates, .cancels, .tqs, .dqs, .cores, .cmbs, .engs, .poison, .free] ws = true) (site g : Nat)
    (kh_ : Kept ws s₀ s) : Kept ws s₀ (after s (execLineTrigger site g s)) := by
  have q0 := Field.sub_trans (by decide : Field.sub [.regs, .bar2, .out] [.regs, .bar2, .out, .encs, .poss, .segArms, .slots, .meters, .calibs, .mons, .ram, .hmem, .rings, .strms, .gates, .axes, .grps, .slotRings, .cueQs, .binFlags, .slates, .cancels, .tqs, .dqs, .cores, .cmbs, .engs, .poison, .free] = true) hs_
  have q1 := Field.sub_trans (by decide : Field.sub [.gates] [.regs, .bar2, .out, .encs, .poss, .segArms, .slots, .meters, .calibs, .mons, .ram, .hmem, .rings, .strms, .gates, .axes, .grps, .slotRings, .cueQs, .binFlags, .slates, .cancels, .tqs, .dqs, .cores, .cmbs, .engs, .poison, .free] = true) hs_
  unfold execLineTrigger
  extract_lets -merge x _
  clear_value x
  repeat' with_reducible first
    | assumption
    | intro _
    | apply Kept.after_next
    | apply Kept.ite
    | apply State.evt_kept q0
    | apply State.startLine_kept hs_
    | apply State.setGate_kept q1
    | apply Kept.foldl
    | split
    | extract_lets

theorem execLateTrigger_kept {ws : List Field} {s₀ s : State} (hs_ : Field.sub [.regs, .bar2, .out, .encs, .poss, .segArms, .slots, .meters, .calibs, .mons, .ram, .hmem, .rings, .strms, .gates, .axes, .grps, .slotRings, .cueQs, .binFlags, .slates, .cancels, .tqs, .dqs, .cores, .cmbs, .engs, .poison, .free] ws = true) (site g : Nat)
    (kh_ : Kept ws s₀ s) : Kept ws s₀ (after s (execLateTrigger site g s)) := by
  unfold execLateTrigger
  repeat' with_reducible first
    | assumption
    | intro _
    | apply Kept.after_next
    | apply Kept.ite
    | apply State.startLine_kept hs_
    | apply Kept.foldl
    | split
    | extract_lets

theorem State.armPitch_kept {ws : List Field} {s₀ s : State} (hs_ : Field.sub [.regs, .bar2, .out, .poss, .order, .rings] ws = true) (site g : Nat) (w : When) (a : Armed)
    (kh_ : Kept ws s₀ s) : Kept ws s₀ (State.armPitch s site g w a) := by
  have q0 := Field.sub_trans (by decide : Field.sub [.poss] [.regs, .bar2, .out, .poss, .order, .rings] = true) hs_
  have q1 := Field.sub_trans (by decide : Field.sub [.regs, .bar2, .out, .poss, .rings] [.regs, .bar2, .out, .poss, .order, .rings] = true) hs_
  have q2 := Field.sub_trans (by decide : Field.sub [.order] [.regs, .bar2, .out, .poss, .order, .rings] = true) hs_
  unfold State.armPitch
  extract_lets -merge x s1
  clear_value x
  have k_s1 : Kept ws s₀ s1 := by
    unfold s1
    repeat' with_reducible first
      | assumption
      | intro _
      | apply Kept.ite
      | apply State.setPos_kept q0
      | apply State.pitchRun_kept q1
      | apply Kept.foldl
      | split
      | extract_lets
      | apply Kept.set_order _ q2
  clear_value s1
  repeat' with_reducible first
    | assumption
    | intro _
    | apply Kept.ite
    | apply State.setPos_kept q0
    | apply State.pitchRun_kept q1
    | apply Kept.foldl
    | split
    | extract_lets
    | apply Kept.set_order _ q2

theorem State.pitchCtl_kept {ws : List Field} {s₀ s : State} (hs_ : Field.sub [.regs, .bar2, .out, .poss, .order, .rings] ws = true) (req site g : Nat) (val : Word)
    (kh_ : Kept ws s₀ s) : Kept ws s₀ (State.pitchCtl s req site g val) := by
  have q0 := Field.sub_trans (by decide : Field.sub [.regs, .bar2, .out] [.regs, .bar2, .out, .poss, .order, .rings] = true) hs_
  have q1 := Field.sub_trans (by decide : Field.sub [.regs] [.regs, .bar2, .out, .poss, .order, .rings] = true) hs_
  unfold State.pitchCtl
  extract_lets -merge p base
  clear_value p
  have k_base : Kept ws s₀ base := by
    unfold base
    repeat' with_reducible first
      | assumption
      | intro _
      | apply Kept.ite
      | apply State.reject_kept q0
      | apply State.armPitch_kept hs_
      | apply State.putBit_kept q1
      | apply Kept.foldl
      | split
      | extract_lets
  clear_value base
  repeat' with_reducible first
    | assumption
    | intro _
    | apply Kept.ite
    | apply State.reject_kept q0
    | apply State.armPitch_kept hs_
    | apply State.putBit_kept q1
    | apply Kept.foldl
    | split
    | extract_lets

theorem State.cevRun_kept {ws : List Field} {s₀ s : State} (hs_ : Field.sub [.regs, .bar2, .out, .cevs, .rings] ws = true) (n : Nat) (a : Armed)
    (kh_ : Kept ws s₀ s) : Kept ws s₀ (State.cevRun s n a) := by
  have q0 := Field.sub_trans (by decide : Field.sub [.regs, .bar2, .out] [.regs, .bar2, .out, .cevs, .rings] = true) hs_
  have q1 := Field.sub_trans (by decide : Field.sub [.rings] [.regs, .bar2, .out, .cevs, .rings] = true) hs_
  have q2 := Field.sub_trans (by decide : Field.sub [.regs] [.regs, .bar2, .out, .cevs, .rings] = true) hs_
  have q3 := Field.sub_trans (by decide : Field.sub [.cevs] [.regs, .bar2, .out, .cevs, .rings] = true) hs_
  unfold State.cevRun
  extract_lets -merge r s1 mark s2 s3
  clear_value r
  have k_s1 : Kept ws s₀ s1 := by
    unfold s1
    repeat' with_reducible first
      | assumption
      | intro _
      | apply Kept.ite
      | apply State.evt_kept q0
      | apply State.eventTo_kept q1
      | apply State.setNat_kept q2
      | apply State.putBit_kept q2
      | apply Kept.foldl
      | split
      | extract_lets
      | apply Kept.set_cevs _ q3
  clear_value s1
  have k_mark : ∀ x0, Kept ws s₀ x0 → Kept ws s₀ (mark x0) := by
    unfold mark
    repeat' with_reducible first
      | assumption
      | intro _
      | apply Kept.ite
      | apply State.evt_kept q0
      | apply State.eventTo_kept q1
      | apply State.setNat_kept q2
      | apply State.putBit_kept q2
      | apply Kept.foldl
      | split
      | extract_lets
      | apply Kept.set_cevs _ q3
  clear_value mark
  have k_s2 : Kept ws s₀ s2 := by
    unfold s2
    repeat' with_reducible first
      | assumption
      | intro _
      | apply k_mark
      | apply Kept.ite
      | apply State.evt_kept q0
      | apply State.eventTo_kept q1
      | apply State.setNat_kept q2
      | apply State.putBit_kept q2
      | apply Kept.foldl
      | split
      | extract_lets
      | apply Kept.set_cevs _ q3
  clear_value s2
  have k_s3 : Kept ws s₀ s3 := by
    unfold s3
    repeat' with_reducible first
      | assumption
      | intro _
      | apply k_mark
      | apply Kept.ite
      | apply State.evt_kept q0
      | apply State.eventTo_kept q1
      | apply State.setNat_kept q2
      | apply State.putBit_kept q2
      | apply Kept.foldl
      | split
      | extract_lets
      | apply Kept.set_cevs _ q3
  clear_value s3
  repeat' with_reducible first
    | assumption
    | intro _
    | apply k_mark
    | apply Kept.ite
    | apply State.evt_kept q0
    | apply State.eventTo_kept q1
    | apply State.setNat_kept q2
    | apply State.putBit_kept q2
    | apply Kept.foldl
    | split
    | extract_lets
    | apply Kept.set_cevs _ q3

theorem State.armCev_kept {ws : List Field} {s₀ s : State} (hs_ : Field.sub [.regs, .bar2, .out, .cevs, .order, .rings] ws = true) (n : Nat) (w : When) (a : Armed)
    (kh_ : Kept ws s₀ s) : Kept ws s₀ (State.armCev s n w a) := by
  have q0 := Field.sub_trans (by decide : Field.sub [.regs, .bar2, .out, .cevs, .rings] [.regs, .bar2, .out, .cevs, .order, .rings] = true) hs_
  have q1 := Field.sub_trans (by decide : Field.sub [.cevs] [.regs, .bar2, .out, .cevs, .order, .rings] = true) hs_
  have q2 := Field.sub_trans (by decide : Field.sub [.order] [.regs, .bar2, .out, .cevs, .order, .rings] = true) hs_
  unfold State.armCev
  extract_lets -merge s1
  have k_s1 : Kept ws s₀ s1 := by
    unfold s1
    repeat' with_reducible first
      | assumption
      | intro _
      | apply Kept.ite
      | apply State.cevRun_kept q0
      | apply Kept.foldl
      | split
      | extract_lets
      | apply Kept.set_cevs_order _ _ q1 q2
  clear_value s1
  repeat' with_reducible first
    | assumption
    | intro _
    | apply Kept.ite
    | apply State.cevRun_kept q0
    | apply Kept.foldl
    | split
    | extract_lets
    | apply Kept.set_cevs_order _ _ q1 q2

theorem State.cevCtl_kept {ws : List Field} {s₀ s : State} (hs_ : Field.sub [.regs, .bar2, .out, .cevs, .order, .rings] ws = true) (req n : Nat) (val : Word)
    (kh_ : Kept ws s₀ s) : Kept ws s₀ (State.cevCtl s req n val) := by
  have q0 := Field.sub_trans (by decide : Field.sub [.regs, .bar2, .out] [.regs, .bar2, .out, .cevs, .order, .rings] = true) hs_
  have q1 := Field.sub_trans (by decide : Field.sub [.regs] [.regs, .bar2, .out, .cevs, .order, .rings] = true) hs_
  unfold State.cevCtl
  extract_lets -merge r base
  clear_value r
  have k_base : Kept ws s₀ base := by
    unfold base
    repeat' with_reducible first
      | assumption
      | intro _
      | apply Kept.ite
      | apply State.reject_kept q0
      | apply State.armCev_kept hs_
      | apply State.putBit_kept q1
      | apply Kept.foldl
      | split
      | extract_lets
  clear_value base
  repeat' with_reducible first
    | assumption
    | intro _
    | apply Kept.ite
    | apply State.reject_kept q0
    | apply State.armCev_kept hs_
    | apply State.putBit_kept q1
    | apply Kept.foldl
    | split
    | extract_lets

theorem execCevArm_kept {ws : List Field} {s₀ s : State} (hs_ : Field.sub [.regs, .bar2, .out, .cevs, .order, .rings] ws = true) (req n : Nat) (val : Word)
    (kh_ : Kept ws s₀ s) : Kept ws s₀ (after s (execCevArm req n val s)) := by
  have q0 := Field.sub_trans (by decide : Field.sub [.regs, .bar2, .out] [.regs, .bar2, .out, .cevs, .order, .rings] = true) hs_
  unfold execCevArm
  repeat' with_reducible first
    | assumption
    | intro _
    | apply Kept.after_next
    | apply Kept.ite
    | apply State.asWrite_kept q0
    | apply State.cevCtl_kept hs_
    | apply Kept.foldl
    | split
    | extract_lets

theorem State.runRef_kept {ws : List Field} {s₀ s : State} (hs_ : Field.sub [.regs, .bar2, .out, .encs, .poss, .cevs, .segArms, .slots, .meters, .calibs, .mons, .ram, .hmem, .rings, .strms, .gates, .axes, .grps, .slotRings, .cueQs, .binFlags, .slates, .cancels, .tqs, .dqs, .cores, .cmbs, .engs, .poison] ws = true) (a : Armed) (a1 : ActionRef)
    (kh_ : Kept ws s₀ s) : Kept ws s₀ (State.runRef s a a1) := by
  have q0 := Field.sub_trans (by decide : Field.sub [.regs, .bar2, .out, .encs, .poss, .slots, .meters, .calibs, .mons, .ram, .hmem, .rings, .strms, .gates, .axes, .grps, .slotRings, .cueQs, .binFlags, .slates, .cancels, .tqs, .dqs, .cores, .cmbs, .engs, .poison] [.regs, .bar2, .out, .encs, .poss, .cevs, .segArms, .slots, .meters, .calibs, .mons, .ram, .hmem, .rings, .strms, .gates, .axes, .grps, .slotRings, .cueQs, .binFlags, .slates, .cancels, .tqs, .dqs, .cores, .cmbs, .engs, .poison] = true) hs_
  have q1 := Field.sub_trans (by decide : Field.sub [.regs, .bar2, .out, .cevs, .rings] [.regs, .bar2, .out, .encs, .poss, .cevs, .segArms, .slots, .meters, .calibs, .mons, .ram, .hmem, .rings, .strms, .gates, .axes, .grps, .slotRings, .cueQs, .binFlags, .slates, .cancels, .tqs, .dqs, .cores, .cmbs, .engs, .poison] = true) hs_
  have q2 := Field.sub_trans (by decide : Field.sub [.regs, .bar2, .out, .segArms, .rings, .axes, .grps] [.regs, .bar2, .out, .encs, .poss, .cevs, .segArms, .slots, .meters, .calibs, .mons, .ram, .hmem, .rings, .strms, .gates, .axes, .grps, .slotRings, .cueQs, .binFlags, .slates, .cancels, .tqs, .dqs, .cores, .cmbs, .engs, .poison] = true) hs_
  unfold State.runRef
  repeat' with_reducible first
    | assumption
    | intro _
    | apply Kept.ite
    | apply State.boundary_kept q0
    | apply State.cevRun_kept q1
    | apply State.fireSeg_kept q2
    | apply Kept.foldl
    | split
    | extract_lets

theorem State.runAction_kept {ws : List Field} {s₀ s : State} (hs_ : Field.sub [.regs, .bar2, .out, .encs, .poss, .cevs, .segArms, .slots, .meters, .calibs, .mons, .ram, .hmem, .rings, .strms, .gates, .axes, .grps, .slotRings, .cueQs, .binFlags, .slates, .cancels, .tqs, .dqs, .cores, .cmbs, .engs, .poison] ws = true) (kind : Nat) (act : ActionRef)
    (kh_ : Kept ws s₀ s) : Kept ws s₀ (State.runAction s kind act) := by
  unfold State.runAction
  repeat' with_reducible first
    | assumption
    | intro _
    | apply Kept.ite
    | apply State.runRef_kept hs_
    | apply Kept.foldl
    | split
    | extract_lets

theorem execClapperAction_kept {ws : List Field} {s₀ s : State} (hs_ : Field.sub [.regs, .bar2, .out, .encs, .poss, .cevs, .segArms, .slots, .meters, .calibs, .mons, .ram, .hmem, .rings, .strms, .gates, .axes, .grps, .slotRings, .cueQs, .binFlags, .slates, .cancels, .tqs, .dqs, .cores, .cmbs, .engs, .poison] ws = true) (act : ActionRef)
    (kh_ : Kept ws s₀ s) : Kept ws s₀ (after s (execClapperAction act s)) := by
  unfold execClapperAction
  repeat' with_reducible first
    | assumption
    | intro _
    | apply Kept.after_next
    | apply Kept.ite
    | apply State.runAction_kept hs_
    | apply Kept.foldl
    | split
    | extract_lets

theorem execTickAction_kept {ws : List Field} {s₀ s : State} (hs_ : Field.sub [.regs, .bar2, .out, .encs, .poss, .cevs, .segArms, .slots, .meters, .calibs, .mons, .ram, .hmem, .rings, .strms, .gates, .axes, .grps, .slotRings, .cueQs, .binFlags, .slates, .cancels, .tqs, .dqs, .cores, .cmbs, .engs, .poison] ws = true) (act : ActionRef)
    (kh_ : Kept ws s₀ s) : Kept ws s₀ (after s (execTickAction act s)) := by
  unfold execTickAction
  repeat' with_reducible first
    | assumption
    | intro _
    | apply Kept.after_next
    | apply Kept.ite
    | apply State.runAction_kept hs_
    | apply Kept.foldl
    | split
    | extract_lets

theorem execTxnBoundary_kept {ws : List Field} {s₀ s : State} (hs_ : Field.sub [.regs, .bar2, .out, .encs, .poss, .slots, .meters, .calibs, .mons, .ram, .hmem, .rings, .strms, .gates, .axes, .grps, .slotRings, .cueQs, .binFlags, .slates, .cancels, .tqs, .dqs, .cores, .cmbs, .engs, .poison] ws = true) (site slot : Nat)
    (kh_ : Kept ws s₀ s) : Kept ws s₀ (after s (execTxnBoundary site slot s)) := by
  unfold execTxnBoundary
  extract_lets -merge a
  clear_value a
  repeat' with_reducible first
    | assumption
    | intro _
    | apply Kept.after_next
    | apply Kept.ite
    | apply State.boundary_kept hs_
    | apply Kept.foldl
    | split
    | extract_lets

end Sys2Proof.Machine
end

