-- ==== Sys2Proof/Laws/KArbiter.lean ====
section
/-!
SUPPORT. Laws/KArbiter.lean: what each operation of Machine/Arbiter.lean may change, and that it keeps the canonical form.
-/
namespace Sys2Proof.Machine

theorem State.grant_kept {ws : List Field} {s₀ s : State} (hs_ : Field.sub [.regs, .bar2, .out, .arbs] ws = true) (site unit : Nat) (conf : Bool) (f : Xfer)
    (kh_ : Kept ws s₀ s) : Kept ws s₀ (State.grant s site unit conf f) := by
  have q0 := Field.sub_trans (by decide : Field.sub [.regs, .bar2, .out] [.regs, .bar2, .out, .arbs] = true) hs_
  have q1 := Field.sub_trans (by decide : Field.sub [.regs] [.regs, .bar2, .out, .arbs] = true) hs_
  have q2 := Field.sub_trans (by decide : Field.sub [.arbs] [.regs, .bar2, .out, .arbs] = true) hs_
  unfold State.grant
  repeat' with_reducible first
    | assumption
    | intro _
    | apply Kept.ite
    | apply State.evt_kept q0
    | apply State.addSat_kept q1
    | apply Kept.foldl
    | split
    | extract_lets
    | apply Kept.set_arbs _ q2

theorem State.waitPlace_kept {ws : List Field} {s₀ s : State} (hs_ : Field.sub [.capQs] ws = true) (site unit : Nat) (stream : Bool)
    (kh_ : Kept ws s₀ s) : Kept ws s₀ (State.waitPlace s site unit stream) := by
  unfold State.waitPlace
  extract_lets -merge c
  clear_value c
  repeat' with_reducible first
    | assumption
    | intro _
    | apply Kept.ite
    | apply Kept.foldl
    | split
    | extract_lets
    | apply Kept.set_capQs _ hs_

theorem State.turnPlace_kept {ws : List Field} {s₀ s : State} (hs_ : Field.sub [.capQs] ws = true) (site unit : Nat)
    (kh_ : Kept ws s₀ s) : Kept ws s₀ (State.turnPlace s site unit) := by
  unfold State.turnPlace
  extract_lets -merge c
  clear_value c
  repeat' with_reducible first
    | assumption
    | intro _
    | apply Kept.ite
    | apply Kept.foldl
    | split
    | extract_lets
    | apply Kept.set_capQs _ hs_

end Sys2Proof.Machine
end

