-- ==== Sys2Proof/Laws/KCoreOps.lean ====
section
/-!
SUPPORT. Laws/KCoreOps.lean: what each operation of Machine/CoreOps.lean may change, and that it keeps the canonical form.
-/
namespace Sys2Proof.Machine

theorem State.coreFault_kept {ws : List Field} {s₀ s : State} (hs_ : Field.sub [.regs, .back, .bar2, .out, .ram, .hmem, .slotRings, .slates, .cancels, .tqs, .sched, .dqs, .cores, .cmbs, .engs, .mmus, .poison] ws = true) (site c : Nat) (w : Work) (code : Nat)
    (kh_ : Kept ws s₀ s) : Kept ws s₀ (State.coreFault s site c w code) := by
  have q0 := Field.sub_trans (by decide : Field.sub [.regs, .bar2, .out] [.regs, .back, .bar2, .out, .ram, .hmem, .slotRings, .slates, .cancels, .tqs, .sched, .dqs, .cores, .cmbs, .engs, .mmus, .poison] = true) hs_
  unfold State.coreFault
  repeat' with_reducible first
    | assumption
    | intro _
    | apply Kept.ite
    | apply State.contained_kept hs_
    | apply State.toFault_kept q0
    | apply Kept.foldl
    | split
    | extract_lets

theorem State.coreBound_kept {ws : List Field} {s₀ s : State} (hs_ : Field.sub [.regs, .back, .bar2, .out, .ram, .hmem, .slotRings, .slates, .cancels, .tqs, .sched, .dqs, .cores, .cmbs, .engs, .mmus, .poison, .bndTaken, .free] ws = true) (site c : Nat) (w : Work) (kind addr limit : Nat)
    (kh_ : Kept ws s₀ s) : Kept ws s₀ (State.coreBound s site c w kind addr limit) := by
  have q0 := Field.sub_trans (by decide : Field.sub [.regs, .bar2, .out] [.regs, .back, .bar2, .out, .ram, .hmem, .slotRings, .slates, .cancels, .tqs, .sched, .dqs, .cores, .cmbs, .engs, .mmus, .poison, .bndTaken, .free] = true) hs_
  unfold State.coreBound
  extract_lets -merge x s1
  clear_value x
  have k_s1 : Kept ws s₀ s1 := by
    unfold s1
    repeat' with_reducible first
      | assumption
      | intro _
      | apply Kept.ite
      | apply State.boundFault_kept hs_
      | apply State.toFault_kept q0
      | apply State.evt_kept q0
      | apply Kept.foldl
      | split
      | extract_lets
  clear_value s1
  repeat' with_reducible first
    | assumption
    | intro _
    | apply Kept.ite
    | apply State.boundFault_kept hs_
    | apply State.toFault_kept q0
    | apply State.evt_kept q0
    | apply Kept.foldl
    | split
    | extract_lets

theorem State.opDone_kept {ws : List Field} {s₀ s : State} (hs_ : Field.sub [.regs, .cores] ws = true) (site c cost : Nat) (o : Op) (used : List Nat)
    (kh_ : Kept ws s₀ s) : Kept ws s₀ (State.opDone s site c cost o used) := by
  have q0 := Field.sub_trans (by decide : Field.sub [.regs] [.regs, .cores] = true) hs_
  have q1 := Field.sub_trans (by decide : Field.sub [.cores] [.regs, .cores] = true) hs_
  unfold State.opDone
  extract_lets -merge s_1 x p s1 conf
  clear_value x p conf
  have k_s_1 : Kept ws s₀ s_1 := by
    unfold s_1
    repeat' with_reducible first
      | assumption
      | intro _
      | apply Kept.ite
      | apply State.coreGo_kept hs_
      | apply State.putBit_kept q0
      | apply State.setCore_kept q1
      | apply Kept.foldl
      | split
      | extract_lets
  clear_value s_1
  have k_s1 : Kept ws s₀ s1 := by
    unfold s1
    repeat' with_reducible first
      | assumption
      | intro _
      | apply Kept.ite
      | apply State.coreGo_kept hs_
      | apply State.putBit_kept q0
      | apply State.setCore_kept q1
      | apply Kept.foldl
      | split
      | extract_lets
  clear_value s1
  repeat' with_reducible first
    | assumption
    | intro _
    | apply Kept.ite
    | apply State.coreGo_kept hs_
    | apply State.putBit_kept q0
    | apply State.setCore_kept q1
    | apply Kept.foldl
    | split
    | extract_lets

theorem State.countSats_kept {ws : List Field} {s₀ s : State} (hs_ : Field.sub [.regs, .bar2, .out] ws = true) (site c n : Nat)
    (kh_ : Kept ws s₀ s) : Kept ws s₀ (State.countSats s site c n) := by
  have q0 := Field.sub_trans (by decide : Field.sub [.regs] [.regs, .bar2, .out] = true) hs_
  unfold State.countSats
  repeat' with_reducible first
    | assumption
    | intro _
    | apply Kept.ite
    | apply State.prof_kept q0
    | apply State.evt_kept hs_
    | apply Kept.foldl
    | split
    | extract_lets

theorem State.runOp_kept {ws : List Field} {s₀ s : State} (hs_ : Field.sub [.regs, .back, .bar2, .out, .ram, .hmem, .slotRings, .slates, .cancels, .tqs, .sched, .dqs, .cores, .cmbs, .engs, .mmus, .poison] ws = true) (site c code : Nat) (k : State → Work → List Byte → Op → State) (h_k : ∀ t0 t1 t2 t3, Kept ws s₀ t0 → Kept ws s₀ (k t0 t1 t2 t3))
    (kh_ : Kept ws s₀ s) : Kept ws s₀ (State.runOp s site c code k) := by
  unfold State.runOp
  extract_lets -merge x
  clear_value x
  repeat' with_reducible first
    | assumption
    | intro _
    | apply h_k
    | apply Kept.ite
    | apply State.coreFault_kept hs_
    | apply Kept.foldl
    | split
    | extract_lets

theorem State.withOps_kept {ws : List Field} {s₀ s : State} (hs_ : Field.sub [.regs, .back, .bar2, .out, .ram, .hmem, .slotRings, .slates, .cancels, .tqs, .sched, .dqs, .cores, .cmbs, .engs, .mmus, .poison, .bndTaken, .free] ws = true) (site c : Nat) (w : Work) (cont : List Byte) (ok : Bool) (ops : List Operand) (k : List (Nat × Nat) → State) (h_k : ∀ t0, Kept ws s₀ (k t0))
    (kh_ : Kept ws s₀ s) : Kept ws s₀ (State.withOps s site c w cont ok ops k) := by
  have q0 := Field.sub_trans (by decide : Field.sub [.regs, .back, .bar2, .out, .ram, .hmem, .slotRings, .slates, .cancels, .tqs, .sched, .dqs, .cores, .cmbs, .engs, .mmus, .poison] [.regs, .back, .bar2, .out, .ram, .hmem, .slotRings, .slates, .cancels, .tqs, .sched, .dqs, .cores, .cmbs, .engs, .mmus, .poison, .bndTaken, .free] = true) hs_
  have q1 := Field.sub_trans (by decide : Field.sub [.cores] [.regs, .back, .bar2, .out, .ram, .hmem, .slotRings, .slates, .cancels, .tqs, .sched, .dqs, .cores, .cmbs, .engs, .mmus, .poison, .bndTaken, .free] = true) hs_
  have q2 := Field.sub_trans (by decide : Field.sub [.regs, .bar2, .out] [.regs, .back, .bar2, .out, .ram, .hmem, .slotRings, .slates, .cancels, .tqs, .sched, .dqs, .cores, .cmbs, .engs, .mmus, .poison, .bndTaken, .free] = true) hs_
  unfold State.withOps
  repeat' with_reducible first
    | assumption
    | intro _
    | apply h_k
    | apply Kept.ite
    | apply State.contained_kept q0
    | apply State.coreWait_kept q1
    | apply State.consumePoison_kept q2
    | apply State.coreBound_kept hs_
    | apply State.coreFault_kept q0
    | apply Kept.foldl
    | split
    | extract_lets

theorem State.putElem_kept {ws : List Field} {s₀ s : State} (hs_ : Field.sub [.ram, .poison] ws = true) (code sp base bit v : Nat)
    (kh_ : Kept ws s₀ s) : Kept ws s₀ (State.putElem s code sp base bit v) := by
  unfold State.putElem
  extract_lets -merge a b
  clear_value a b
  repeat' with_reducible first
    | assumption
    | intro _
    | apply Kept.ite
    | apply State.ramWrite_kept hs_
    | apply Kept.foldl
    | split
    | extract_lets

end Sys2Proof.Machine
end

