-- ==== Sys2Proof/Laws/KArray.lean ====
section
/-!
SUPPORT. Laws/KArray.lean: what each operation of Machine/Array.lean may change, and that it keeps the canonical form.
-/
namespace Sys2Proof.Machine

theorem State.arrayWrite_kept {ws : List Field} {s₀ s0 s : State} (hs_ : Field.sub [.ram, .poison] ws = true) (o : Op) (sh : Shape) (pa pw pp po : Nat × Nat)
    (h : Kept ws s₀ s) : Kept ws s₀ (s0.arrayWrite s o sh pa pw pp po).1 := by
  unfold State.arrayWrite
  extract_lets
  refine Kept.foldl_fst (fun t x ht => Kept.foldl_fst (fun t x ht => Kept.foldl_fst (fun t x ht => ?_) _ _ ht) _ _ ht) _ _ h
  extract_lets
  split
  · exact ht
  · exact State.putElem_kept hs_ _ _ _ _ _ ht

theorem State.runArray_kept {ws : List Field} {s₀ s : State} (hs_ : Field.sub [.regs, .back, .bar2, .out, .ram, .hmem, .slotRings, .slates, .cancels, .tqs, .sched, .dqs, .cores, .cmbs, .engs, .mmus, .poison, .bndTaken, .free] ws = true) (site c : Nat) (w : Work) (cont : List Byte) (o : Op)
    (kh_ : Kept ws s₀ s) : Kept ws s₀ (State.runArray s site c w cont o) := by
  have q0 := Field.sub_trans (by decide : Field.sub [.ram, .poison] [.regs, .back, .bar2, .out, .ram, .hmem, .slotRings, .slates, .cancels, .tqs, .sched, .dqs, .cores, .cmbs, .engs, .mmus, .poison, .bndTaken, .free] = true) hs_
  have q1 := Field.sub_trans (by decide : Field.sub [.regs] [.regs, .back, .bar2, .out, .ram, .hmem, .slotRings, .slates, .cancels, .tqs, .sched, .dqs, .cores, .cmbs, .engs, .mmus, .poison, .bndTaken, .free] = true) hs_
  have q2 := Field.sub_trans (by decide : Field.sub [.regs, .bar2, .out] [.regs, .back, .bar2, .out, .ram, .hmem, .slotRings, .slates, .cancels, .tqs, .sched, .dqs, .cores, .cmbs, .engs, .mmus, .poison, .bndTaken, .free] = true) hs_
  have q3 := Field.sub_trans (by decide : Field.sub [.regs, .cores] [.regs, .back, .bar2, .out, .ram, .hmem, .slotRings, .slates, .cancels, .tqs, .sched, .dqs, .cores, .cmbs, .engs, .mmus, .poison, .bndTaken, .free] = true) hs_
  have q4 := Field.sub_trans (by decide : Field.sub [.cores] [.regs, .back, .bar2, .out, .ram, .hmem, .slotRings, .slates, .cancels, .tqs, .sched, .dqs, .cores, .cmbs, .engs, .mmus, .poison, .bndTaken, .free] = true) hs_
  unfold State.runArray
  extract_lets -merge x leaf o_1 sh used cost macs s1
  clear_value x leaf o_1 sh used cost macs
  have k_s1 : Kept ws s₀ s1 := by
    unfold s1
    repeat' with_reducible first
      | assumption
      | intro _
      | apply Kept.ite
      | apply State.arrayWrite_kept q0
      | refine Kept.of_fst (State.arrayWrite_kept q0 _ _ _ _ _ _ ?_) ‹_›
      | apply State.prof_kept q1
      | apply State.withOps_kept hs_
      | apply State.countSats_kept q2
      | apply State.opDone_kept q3
      | apply State.setCore_kept q4
      | apply Kept.foldl
      | split
      | extract_lets
  clear_value s1
  repeat' with_reducible first
    | assumption
    | intro _
    | apply Kept.ite
    | apply State.arrayWrite_kept q0
    | refine Kept.of_fst (State.arrayWrite_kept q0 _ _ _ _ _ _ ?_) ‹_›
    | apply State.prof_kept q1
    | apply State.withOps_kept hs_
    | apply State.countSats_kept q2
    | apply State.opDone_kept q3
    | apply State.setCore_kept q4
    | apply Kept.foldl
    | split
    | extract_lets

theorem execMatmul_kept {ws : List Field} {s₀ s : State} (hs_ : Field.sub [.regs, .back, .bar2, .out, .ram, .hmem, .slotRings, .slates, .cancels, .tqs, .sched, .dqs, .cores, .cmbs, .engs, .mmus, .poison, .bndTaken, .free] ws = true) (site core : Nat)
    (kh_ : Kept ws s₀ s) : Kept ws s₀ (after s (execMatmul site core s)) := by
  have q0 := Field.sub_trans (by decide : Field.sub [.regs, .back, .bar2, .out, .ram, .hmem, .slotRings, .slates, .cancels, .tqs, .sched, .dqs, .cores, .cmbs, .engs, .mmus, .poison] [.regs, .back, .bar2, .out, .ram, .hmem, .slotRings, .slates, .cancels, .tqs, .sched, .dqs, .cores, .cmbs, .engs, .mmus, .poison, .bndTaken, .free] = true) hs_
  unfold execMatmul
  repeat' with_reducible first
    | assumption
    | intro _
    | apply Kept.after_next
    | apply Kept.ite
    | apply State.runArray_kept hs_
    | apply State.runOp_kept q0
    | apply Kept.foldl
    | split
    | extract_lets

theorem execMatmulAct_kept {ws : List Field} {s₀ s : State} (hs_ : Field.sub [.regs, .back, .bar2, .out, .ram, .hmem, .slotRings, .slates, .cancels, .tqs, .sched, .dqs, .cores, .cmbs, .engs, .mmus, .poison, .bndTaken, .free] ws = true) (site core : Nat)
    (kh_ : Kept ws s₀ s) : Kept ws s₀ (after s (execMatmulAct site core s)) := by
  have q0 := Field.sub_trans (by decide : Field.sub [.regs, .back, .bar2, .out, .ram, .hmem, .slotRings, .slates, .cancels, .tqs, .sched, .dqs, .cores, .cmbs, .engs, .mmus, .poison] [.regs, .back, .bar2, .out, .ram, .hmem, .slotRings, .slates, .cancels, .tqs, .sched, .dqs, .cores, .cmbs, .engs, .mmus, .poison, .bndTaken, .free] = true) hs_
  unfold execMatmulAct
  repeat' with_reducible first
    | assumption
    | intro _
    | apply Kept.after_next
    | apply Kept.ite
    | apply State.runArray_kept hs_
    | apply State.runOp_kept q0
    | apply Kept.foldl
    | split
    | extract_lets

theorem execConv2d_kept {ws : List Field} {s₀ s : State} (hs_ : Field.sub [.regs, .back, .bar2, .out, .ram, .hmem, .slotRings, .slates, .cancels, .tqs, .sched, .dqs, .cores, .cmbs, .engs, .mmus, .poison, .bndTaken, .free] ws = true) (site core : Nat)
    (kh_ : Kept ws s₀ s) : Kept ws s₀ (after s (execConv2d site core s)) := by
  have q0 := Field.sub_trans (by decide : Field.sub [.regs, .back, .bar2, .out, .ram, .hmem, .slotRings, .slates, .cancels, .tqs, .sched, .dqs, .cores, .cmbs, .engs, .mmus, .poison] [.regs, .back, .bar2, .out, .ram, .hmem, .slotRings, .slates, .cancels, .tqs, .sched, .dqs, .cores, .cmbs, .engs, .mmus, .poison, .bndTaken, .free] = true) hs_
  unfold execConv2d
  repeat' with_reducible first
    | assumption
    | intro _
    | apply Kept.after_next
    | apply Kept.ite
    | apply State.runArray_kept hs_
    | apply State.runOp_kept q0
    | apply Kept.foldl
    | split
    | extract_lets

end Sys2Proof.Machine
end

