-- ==== Sys2Proof/Laws/KCombine.lean ====
section
/-!
SUPPORT. Laws/KCombine.lean: what each operation of Machine/Combine.lean may change, and that it keeps the canonical form.
-/
namespace Sys2Proof.Machine

theorem State.putNode_kept {ws : List Field} {s₀ s : State} (hs_ : Field.sub [.cmbs] ws = true) (site b : Nat) (n : Node)
    (kh_ : Kept ws s₀ s) : Kept ws s₀ (State.putNode s site b n) := by
  unfold State.putNode
  extract_lets -merge x
  clear_value x
  repeat' with_reducible first
    | assumption
    | intro _
    | apply Kept.ite
    | apply State.setCmb_kept hs_
    | apply Kept.foldl
    | split
    | extract_lets

theorem State.cmbFault_kept {ws : List Field} {s₀ s : State} (hs_ : Field.sub [.regs, .back, .bar2, .out, .ram, .hmem, .slotRings, .slates, .cancels, .tqs, .sched, .dqs, .cores, .cmbs, .engs, .mmus, .poison] ws = true) (site b : Nat) (w : Work) (code : Nat)
    (kh_ : Kept ws s₀ s) : Kept ws s₀ (State.cmbFault s site b w code) := by
  have q0 := Field.sub_trans (by decide : Field.sub [.regs, .bar2, .out, .cmbs] [.regs, .back, .bar2, .out, .ram, .hmem, .slotRings, .slates, .cancels, .tqs, .sched, .dqs, .cores, .cmbs, .engs, .mmus, .poison] = true) hs_
  have q1 := Field.sub_trans (by decide : Field.sub [.regs, .bar2, .out] [.regs, .back, .bar2, .out, .ram, .hmem, .slotRings, .slates, .cancels, .tqs, .sched, .dqs, .cores, .cmbs, .engs, .mmus, .poison] = true) hs_
  unfold State.cmbFault
  repeat' with_reducible first
    | assumption
    | intro _
    | apply Kept.ite
    | apply State.contained_kept hs_
    | apply State.dropNodes_kept q0
    | apply State.blockFault_kept q1
    | apply Kept.foldl
    | split
    | extract_lets

theorem State.takeRows_kept {ws : List Field} {s₀ s : State} (hs_ : Field.sub [.cores] ws = true) (w : Work) (ref : Bool × Nat) (tile : Nat)
    (kh_ : Kept ws s₀ s) : Kept ws s₀ (State.takeRows s w ref tile) := by
  unfold State.takeRows
  repeat' with_reducible first
    | assumption
    | intro _
    | apply Kept.ite
    | apply State.setCore_kept hs_
    | apply Kept.foldl
    | split
    | extract_lets

theorem execPartialArrive_kept {ws : List Field} {s₀ s : State} (hs_ : Field.sub [.regs, .back, .bar2, .out, .ram, .hmem, .slotRings, .slates, .cancels, .tqs, .sched, .dqs, .cores, .cmbs, .engs, .mmus, .poison] ws = true) (site bay node : Nat) (right : Bool) (tile core : Nat)
    (kh_ : Kept ws s₀ s) : Kept ws s₀ (after s (execPartialArrive site bay node right tile core s)) := by
  have q0 := Field.sub_trans (by decide : Field.sub [.cores] [.regs, .back, .bar2, .out, .ram, .hmem, .slotRings, .slates, .cancels, .tqs, .sched, .dqs, .cores, .cmbs, .engs, .mmus, .poison] = true) hs_
  have q1 := Field.sub_trans (by decide : Field.sub [.cmbs] [.regs, .back, .bar2, .out, .ram, .hmem, .slotRings, .slates, .cancels, .tqs, .sched, .dqs, .cores, .cmbs, .engs, .mmus, .poison] = true) hs_
  unfold execPartialArrive
  extract_lets -merge c
  clear_value c
  repeat' with_reducible first
    | assumption
    | intro _
    | apply Kept.after_next
    | apply Kept.ite
    | apply State.takeRows_kept q0
    | apply State.cmbFault_kept hs_
    | apply State.putNode_kept q1
    | apply Kept.foldl
    | split
    | extract_lets

theorem State.treeDone_kept {ws : List Field} {s₀ s : State} (hs_ : Field.sub [.regs, .bar2, .out, .cmbs] ws = true) (w : Work) (layer block site bay : Nat)
    (kh_ : Kept ws s₀ s) : Kept ws s₀ (State.treeDone s w layer block site bay) := by
  have q0 := Field.sub_trans (by decide : Field.sub [.regs, .bar2, .out] [.regs, .bar2, .out, .cmbs] = true) hs_
  unfold State.treeDone
  repeat' with_reducible first
    | assumption
    | intro _
    | apply Kept.ite
    | apply State.keepNodes_kept hs_
    | apply State.evt_kept q0
    | apply Kept.foldl
    | split
    | extract_lets

theorem execCombineNodeTile_kept {ws : List Field} {s₀ s : State} (hs_ : Field.sub [.regs, .back, .bar2, .out, .ram, .hmem, .slotRings, .slates, .cancels, .tqs, .sched, .dqs, .cores, .cmbs, .engs, .mmus, .poison, .bndTaken, .free] ws = true) (site bay node tile core : Nat)
    (kh_ : Kept ws s₀ s) : Kept ws s₀ (after s (execCombineNodeTile site bay node tile core s)) := by
  have q0 := Field.sub_trans (by decide : Field.sub [.regs, .bar2, .out] [.regs, .back, .bar2, .out, .ram, .hmem, .slotRings, .slates, .cancels, .tqs, .sched, .dqs, .cores, .cmbs, .engs, .mmus, .poison, .bndTaken, .free] = true) hs_
  have q1 := Field.sub_trans (by decide : Field.sub [.ram, .poison] [.regs, .back, .bar2, .out, .ram, .hmem, .slotRings, .slates, .cancels, .tqs, .sched, .dqs, .cores, .cmbs, .engs, .mmus, .poison, .bndTaken, .free] = true) hs_
  have q2 := Field.sub_trans (by decide : Field.sub [.regs, .bar2, .out, .cmbs] [.regs, .back, .bar2, .out, .ram, .hmem, .slotRings, .slates, .cancels, .tqs, .sched, .dqs, .cores, .cmbs, .engs, .mmus, .poison, .bndTaken, .free] = true) hs_
  have q3 := Field.sub_trans (by decide : Field.sub [.regs] [.regs, .back, .bar2, .out, .ram, .hmem, .slotRings, .slates, .cancels, .tqs, .sched, .dqs, .cores, .cmbs, .engs, .mmus, .poison, .bndTaken, .free] = true) hs_
  have q4 := Field.sub_trans (by decide : Field.sub [.regs, .slotRings] [.regs, .back, .bar2, .out, .ram, .hmem, .slotRings, .slates, .cancels, .tqs, .sched, .dqs, .cores, .cmbs, .engs, .mmus, .poison, .bndTaken, .free] = true) hs_
  have q5 := Field.sub_trans (by decide : Field.sub [.cmbs] [.regs, .back, .bar2, .out, .ram, .hmem, .slotRings, .slates, .cancels, .tqs, .sched, .dqs, .cores, .cmbs, .engs, .mmus, .poison, .bndTaken, .free] = true) hs_
  unfold execCombineNodeTile
  extract_lets -merge c p
  clear_value c p
  repeat' with_reducible first
    | assumption
    | intro _
    | apply Kept.after_next
    | apply Kept.ite
    | apply State.evtIf_kept q0
    | apply State.putElem_kept q1
    | apply State.treeDone_kept q2
    | apply State.addWrap_kept q3
    | apply State.publish_kept q4
    | apply State.addSat_kept q3
    | apply State.putNode_kept q5
    | apply State.coreBound_kept hs_
    | apply Kept.foldl
    | split
    | extract_lets

theorem execCmbParity_kept {ws : List Field} {s₀ s : State} (hs_ : Field.sub [.regs, .back, .bar2, .out, .ram, .hmem, .slotRings, .slates, .cancels, .tqs, .sched, .dqs, .cores, .cmbs, .engs, .mmus, .poison] ws = true) (site bay : Nat)
    (kh_ : Kept ws s₀ s) : Kept ws s₀ (after s (execCmbParity site bay s)) := by
  have q0 := Field.sub_trans (by decide : Field.sub [.regs, .bar2, .out] [.regs, .back, .bar2, .out, .ram, .hmem, .slotRings, .slates, .cancels, .tqs, .sched, .dqs, .cores, .cmbs, .engs, .mmus, .poison] = true) hs_
  unfold execCmbParity
  repeat' with_reducible first
    | assumption
    | intro _
    | apply Kept.after_next
    | apply Kept.ite
    | apply State.blockFault_kept q0
    | apply State.cmbFault_kept hs_
    | apply Kept.foldl
    | split
    | extract_lets

end Sys2Proof.Machine
end

