-- ==== Sys2Proof/Laws/KMeter.lean ====
section
/-!
SUPPORT. Laws/KMeter.lean: what each operation of Machine/Meter.lean may change, and that it keeps the canonical form.
-/
namespace Sys2Proof.Machine

theorem State.meterCauses_kept {ws : List Field} {s₀ s : State} (hs_ : Field.sub [.regs] ws = true) (site m : Nat) (conv : MeterSample) (raw : Int) (isBo : Bool)
    (kh_ : Kept ws s₀ s) : Kept ws s₀ (State.meterCauses s site m conv raw isBo) := by
  unfold State.meterCauses
  extract_lets -merge p mode is iset vset bo k boAmp rise sat open_ exc cj ts
  clear_value p mode is iset vset bo k boAmp rise sat open_ exc cj ts
  repeat' with_reducible first
    | assumption
    | intro _
    | apply Kept.ite
    | apply State.setCause_kept hs_
    | apply Kept.foldl
    | split
    | extract_lets

theorem State.autoCal_kept {ws : List Field} {s₀ s : State} (hs_ : Field.sub [.regs, .calibs] ws = true) (site ch : Nat)
    (kh_ : Kept ws s₀ s) : Kept ws s₀ (State.autoCal s site ch) := by
  have q0 := Field.sub_trans (by decide : Field.sub [.regs] [.regs, .calibs] = true) hs_
  have q1 := Field.sub_trans (by decide : Field.sub [.calibs] [.regs, .calibs] = true) hs_
  unfold State.autoCal
  extract_lets -merge c
  clear_value c
  repeat' with_reducible first
    | assumption
    | intro _
    | apply Kept.ite
    | apply State.putBit_kept q0
    | apply State.setCalib_kept q1
    | apply Kept.foldl
    | split
    | extract_lets

theorem State.refreshCj_kept {ws : List Field} {s₀ s : State} (hs_ : Field.sub [.regs, .bar2, .out, .meters, .calibs] ws = true) (site : Nat) (cj : Option Word)
    (kh_ : Kept ws s₀ s) : Kept ws s₀ (State.refreshCj s site cj) := by
  have q0 := Field.sub_trans (by decide : Field.sub [.regs, .bar2, .out] [.regs, .bar2, .out, .meters, .calibs] = true) hs_
  have q1 := Field.sub_trans (by decide : Field.sub [.regs, .calibs] [.regs, .bar2, .out, .meters, .calibs] = true) hs_
  have q2 := Field.sub_trans (by decide : Field.sub [.regs] [.regs, .bar2, .out, .meters, .calibs] = true) hs_
  unfold State.refreshCj
  repeat' with_reducible first
    | assumption
    | intro _
    | apply Kept.ite
    | apply State.refreshDue_kept q0
    | apply State.calNext_kept hs_
    | apply State.autoCal_kept q1
    | apply State.setReg_kept q2
    | apply Kept.foldl
    | split
    | extract_lets

theorem State.overValue_kept {ws : List Field} {s₀ s : State} (hs_ : Field.sub [.regs, .bar2, .out, .meters] ws = true) (site m : Nat)
    (kh_ : Kept ws s₀ s) : Kept ws s₀ (State.overValue s site m) := by
  unfold State.overValue
  repeat' with_reducible first
    | assumption
    | intro _
    | apply Kept.ite
    | apply State.setVstate_kept hs_
    | apply Kept.foldl
    | split
    | extract_lets

theorem State.convResult_kept {ws : List Field} {s₀ s : State} (hs_ : Field.sub [.regs, .bar2, .out, .meters, .calibs] ws = true) (site m : Nat) (codes : List Int) (excs : List Word)
    (kh_ : Kept ws s₀ s) : Kept ws s₀ (State.convResult s site m codes excs) := by
  have q0 := Field.sub_trans (by decide : Field.sub [.regs, .bar2, .out, .meters] [.regs, .bar2, .out, .meters, .calibs] = true) hs_
  have q1 := Field.sub_trans (by decide : Field.sub [.calibs] [.regs, .bar2, .out, .meters, .calibs] = true) hs_
  unfold State.convResult
  extract_lets -merge big sat x
  clear_value big sat x
  repeat' with_reducible first
    | assumption
    | intro _
    | apply Kept.ite
    | apply State.autoRange_kept q0
    | apply State.validValue_kept q0
    | apply State.rangeChange_kept q0
    | apply State.setVstate_kept q0
    | apply State.overValue_kept q0
    | apply State.setCalib_kept q1
    | apply Kept.foldl
    | split
    | extract_lets

theorem meterConversionState_kept {ws : List Field} {s₀ s0 : State} (hs_ : Field.sub [.regs, .bar2, .out, .meters, .calibs] ws = true) (site m : Nat) (conv : MeterSample)
    (kh_ : Kept ws s₀ s0) : Kept ws s₀ (meterConversionState site m conv s0) := by
  have q0 := Field.sub_trans (by decide : Field.sub [.regs, .bar2, .out, .meters] [.regs, .bar2, .out, .meters, .calibs] = true) hs_
  have q1 := Field.sub_trans (by decide : Field.sub [.meters] [.regs, .bar2, .out, .meters, .calibs] = true) hs_
  have q2 := Field.sub_trans (by decide : Field.sub [.regs] [.regs, .bar2, .out, .meters, .calibs] = true) hs_
  unfold meterConversionState
  extract_lets -merge s p k codes c0 isBo s1 s2 _ s3
  clear_value p k codes c0 isBo
  have k_s : Kept ws s₀ s := by
    unfold s
    repeat' with_reducible first
      | assumption
      | intro _
      | apply Kept.ite
      | apply State.setVstate_kept q0
      | apply State.convResult_kept hs_
      | apply State.refreshCj_kept hs_
      | apply State.setMeter_kept q1
      | apply State.setReg_kept q2
      | apply State.meterCauses_kept q2
      | apply Kept.foldl
      | split
      | extract_lets
  clear_value s
  have k_s1 : Kept ws s₀ s1 := by
    unfold s1
    repeat' with_reducible first
      | assumption
      | intro _
      | apply Kept.ite
      | apply State.setVstate_kept q0
      | apply State.convResult_kept hs_
      | apply State.refreshCj_kept hs_
      | apply State.setMeter_kept q1
      | apply State.setReg_kept q2
      | apply State.meterCauses_kept q2
      | apply Kept.foldl
      | split
      | extract_lets
  clear_value s1
  have k_s2 : Kept ws s₀ s2 := by
    unfold s2
    repeat' with_reducible first
      | assumption
      | intro _
      | apply Kept.ite
      | apply State.setVstate_kept q0
      | apply State.convResult_kept hs_
      | apply State.refreshCj_kept hs_
      | apply State.setMeter_kept q1
      | apply State.setReg_kept q2
      | apply State.meterCauses_kept q2
      | apply Kept.foldl
      | split
      | extract_lets
  clear_value s2
  have k_s3 : Kept ws s₀ s3 := by
    unfold s3
    repeat' with_reducible first
      | assumption
      | intro _
      | apply Kept.ite
      | apply State.setVstate_kept q0
      | apply State.convResult_kept hs_
      | apply State.refreshCj_kept hs_
      | apply State.setMeter_kept q1
      | apply State.setReg_kept q2
      | apply State.meterCauses_kept q2
      | apply Kept.foldl
      | split
      | extract_lets
  clear_value s3
  repeat' with_reducible first
    | assumption
    | intro _
    | apply Kept.ite
    | apply State.setVstate_kept q0
    | apply State.convResult_kept hs_
    | apply State.refreshCj_kept hs_
    | apply State.setMeter_kept q1
    | apply State.setReg_kept q2
    | apply State.meterCauses_kept q2
    | apply Kept.foldl
    | split
    | extract_lets

theorem execMeterConversion_kept {ws : List Field} {s₀ s : State} (hs_ : Field.sub [.regs, .bar2, .out, .meters, .calibs, .mons] ws = true) (site m : Nat) (conv : MeterSample)
    (kh_ : Kept ws s₀ s) : Kept ws s₀ (after s (execMeterConversion site m conv s)) := by
  have q0 := Field.sub_trans (by decide : Field.sub [.mons] [.regs, .bar2, .out, .meters, .calibs, .mons] = true) hs_
  have q1 := Field.sub_trans (by decide : Field.sub [.regs, .bar2, .out, .meters, .calibs] [.regs, .bar2, .out, .meters, .calibs, .mons] = true) hs_
  unfold execMeterConversion
  repeat' with_reducible first
    | assumption
    | intro _
    | apply Kept.after_next
    | apply Kept.ite
    | apply State.monTrack_kept q0
    | apply meterConversionState_kept q1
    | apply Kept.foldl
    | split
    | extract_lets

theorem execExcOvercurrent_kept {ws : List Field} {s₀ s : State} (hs_ : Field.sub [.regs, .bar2, .out, .meters, .mons] ws = true) (site m : Nat)
    (kh_ : Kept ws s₀ s) : Kept ws s₀ (after s (execExcOvercurrent site m s)) := by
  have q0 := Field.sub_trans (by decide : Field.sub [.regs, .bar2, .out, .meters] [.regs, .bar2, .out, .meters, .mons] = true) hs_
  have q1 := Field.sub_trans (by decide : Field.sub [.regs] [.regs, .bar2, .out, .meters, .mons] = true) hs_
  have q2 := Field.sub_trans (by decide : Field.sub [.mons] [.regs, .bar2, .out, .meters, .mons] = true) hs_
  have q3 := Field.sub_trans (by decide : Field.sub [.meters] [.regs, .bar2, .out, .meters, .mons] = true) hs_
  unfold execExcOvercurrent
  extract_lets -merge s1 _
  have k_s1 : Kept ws s₀ s1 := by
    unfold s1
    repeat' with_reducible first
      | assumption
      | intro _
      | apply Kept.after_next
      | apply Kept.ite
      | apply State.cutExc_kept q0
      | apply State.setCause_kept q1
      | apply State.setVstate_kept q0
      | apply State.monTrack_kept q2
      | apply State.setMeter_kept q3
      | apply Kept.foldl
      | split
      | extract_lets
  clear_value s1
  repeat' with_reducible first
    | assumption
    | intro _
    | apply Kept.after_next
    | apply Kept.ite
    | apply State.cutExc_kept q0
    | apply State.setCause_kept q1
    | apply State.setVstate_kept q0
    | apply State.monTrack_kept q2
    | apply State.setMeter_kept q3
    | apply Kept.foldl
    | split
    | extract_lets

theorem execExcReturn_kept {ws : List Field} {s₀ s : State} (hs_ : Field.sub [.regs, .bar2, .out, .meters, .mons] ws = true) (site m : Nat)
    (kh_ : Kept ws s₀ s) : Kept ws s₀ (after s (execExcReturn site m s)) := by
  have q0 := Field.sub_trans (by decide : Field.sub [.regs, .bar2, .out, .meters] [.regs, .bar2, .out, .meters, .mons] = true) hs_
  have q1 := Field.sub_trans (by decide : Field.sub [.regs] [.regs, .bar2, .out, .meters, .mons] = true) hs_
  have q2 := Field.sub_trans (by decide : Field.sub [.mons] [.regs, .bar2, .out, .meters, .mons] = true) hs_
  have q3 := Field.sub_trans (by decide : Field.sub [.meters] [.regs, .bar2, .out, .meters, .mons] = true) hs_
  unfold execExcReturn
  extract_lets -merge p k s1 _ s1_1 s2 _
  clear_value p k
  have k_s1 : Kept ws s₀ s1 := by
    unfold s1
    repeat' with_reducible first
      | assumption
      | intro _
      | apply Kept.after_next
      | apply Kept.ite
      | apply State.rangeChange_kept q0
      | apply State.setCause_kept q1
      | apply State.monTrack_kept q2
      | apply State.putBit_kept q1
      | apply State.setMeter_kept q3
      | apply Kept.foldl
      | split
      | extract_lets
  clear_value s1
  have k_s1_1 : Kept ws s₀ s1_1 := by
    unfold s1_1
    repeat' with_reducible first
      | assumption
      | intro _
      | apply Kept.after_next
      | apply Kept.ite
      | apply State.rangeChange_kept q0
      | apply State.setCause_kept q1
      | apply State.monTrack_kept q2
      | apply State.putBit_kept q1
      | apply State.setMeter_kept q3
      | apply Kept.foldl
      | split
      | extract_lets
  clear_value s1_1
  have k_s2 : Kept ws s₀ s2 := by
    unfold s2
    repeat' with_reducible first
      | assumption
      | intro _
      | apply Kept.after_next
      | apply Kept.ite
      | apply State.rangeChange_kept q0
      | apply State.setCause_kept q1
      | apply State.monTrack_kept q2
      | apply State.putBit_kept q1
      | apply State.setMeter_kept q3
      | apply Kept.foldl
      | split
      | extract_lets
  clear_value s2
  repeat' with_reducible first
    | assumption
    | intro _
    | apply Kept.after_next
    | apply Kept.ite
    | apply State.rangeChange_kept q0
    | apply State.setCause_kept q1
    | apply State.monTrack_kept q2
    | apply State.putBit_kept q1
    | apply State.setMeter_kept q3
    | apply Kept.foldl
    | split
    | extract_lets

theorem execClamp_kept {ws : List Field} {s₀ s : State} (hs_ : Field.sub [.regs, .bar2, .out, .meters, .mons] ws = true) (site m : Nat)
    (kh_ : Kept ws s₀ s) : Kept ws s₀ (after s (execClamp site m s)) := by
  have q0 := Field.sub_trans (by decide : Field.sub [.regs, .bar2, .out, .meters] [.regs, .bar2, .out, .meters, .mons] = true) hs_
  have q1 := Field.sub_trans (by decide : Field.sub [.regs, .bar2, .out] [.regs, .bar2, .out, .meters, .mons] = true) hs_
  have q2 := Field.sub_trans (by decide : Field.sub [.mons] [.regs, .bar2, .out, .meters, .mons] = true) hs_
  have q3 := Field.sub_trans (by decide : Field.sub [.regs] [.regs, .bar2, .out, .meters, .mons] = true) hs_
  have q4 := Field.sub_trans (by decide : Field.sub [.meters] [.regs, .bar2, .out, .meters, .mons] = true) hs_
  unfold execClamp
  extract_lets -merge p _ s1
  clear_value p
  have k_s1 : Kept ws s₀ s1 := by
    unfold s1
    repeat' with_reducible first
      | assumption
      | intro _
      | apply Kept.after_next
      | apply Kept.ite
      | apply State.cutExc_kept q0
      | apply State.evt_kept q1
      | apply State.monTrack_kept q2
      | apply State.putBit_kept q3
      | apply State.setMeter_kept q4
      | apply Kept.foldl
      | split
      | extract_lets
  clear_value s1
  repeat' with_reducible first
    | assumption
    | intro _
    | apply Kept.after_next
    | apply Kept.ite
    | apply State.cutExc_kept q0
    | apply State.evt_kept q1
    | apply State.monTrack_kept q2
    | apply State.putBit_kept q3
    | apply State.setMeter_kept q4
    | apply Kept.foldl
    | split
    | extract_lets

theorem execClampEnd_kept {ws : List Field} {s₀ s : State} (hs_ : Field.sub [.regs, .meters, .mons] ws = true) (site m : Nat)
    (kh_ : Kept ws s₀ s) : Kept ws s₀ (after s (execClampEnd site m s)) := by
  have q0 := Field.sub_trans (by decide : Field.sub [.mons] [.regs, .meters, .mons] = true) hs_
  have q1 := Field.sub_trans (by decide : Field.sub [.regs] [.regs, .meters, .mons] = true) hs_
  have q2 := Field.sub_trans (by decide : Field.sub [.meters] [.regs, .meters, .mons] = true) hs_
  unfold execClampEnd
  extract_lets -merge p _
  clear_value p
  repeat' with_reducible first
    | assumption
    | intro _
    | apply Kept.after_next
    | apply Kept.ite
    | apply State.monTrack_kept q0
    | apply State.putBit_kept q1
    | apply State.setMeter_kept q2
    | apply Kept.foldl
    | split
    | extract_lets

theorem execClampFault_kept {ws : List Field} {s₀ s : State} (hs_ : Field.sub [.regs, .bar2, .out, .meters, .mons] ws = true) (site m : Nat)
    (kh_ : Kept ws s₀ s) : Kept ws s₀ (after s (execClampFault site m s)) := by
  have q0 := Field.sub_trans (by decide : Field.sub [.regs] [.regs, .bar2, .out, .meters, .mons] = true) hs_
  have q1 := Field.sub_trans (by decide : Field.sub [.regs, .bar2, .out, .meters] [.regs, .bar2, .out, .meters, .mons] = true) hs_
  have q2 := Field.sub_trans (by decide : Field.sub [.mons] [.regs, .bar2, .out, .meters, .mons] = true) hs_
  unfold execClampFault
  repeat' with_reducible first
    | assumption
    | intro _
    | apply Kept.after_next
    | apply Kept.ite
    | apply State.setCause_kept q0
    | apply State.setVstate_kept q1
    | apply State.monTrack_kept q2
    | apply Kept.foldl
    | split
    | extract_lets

theorem execAdcFail_kept {ws : List Field} {s₀ s : State} (hs_ : Field.sub [.regs, .bar2, .out, .meters, .mons] ws = true) (site m : Nat)
    (kh_ : Kept ws s₀ s) : Kept ws s₀ (after s (execAdcFail site m s)) := by
  have q0 := Field.sub_trans (by decide : Field.sub [.regs, .bar2, .out, .meters] [.regs, .bar2, .out, .meters, .mons] = true) hs_
  have q1 := Field.sub_trans (by decide : Field.sub [.regs, .bar2, .out] [.regs, .bar2, .out, .meters, .mons] = true) hs_
  have q2 := Field.sub_trans (by decide : Field.sub [.mons] [.regs, .bar2, .out, .meters, .mons] = true) hs_
  unfold execAdcFail
  extract_lets -merge p
  clear_value p
  repeat' with_reducible first
    | assumption
    | intro _
    | apply Kept.after_next
    | apply Kept.ite
    | apply State.meterStop_kept q0
    | apply State.blockFault_kept q1
    | apply State.monTrack_kept q2
    | apply Kept.foldl
    | split
    | extract_lets

theorem execRefFault_kept {ws : List Field} {s₀ s : State} (hs_ : Field.sub [.regs, .bar2, .out, .meters, .mons] ws = true) (site mv : Nat)
    (kh_ : Kept ws s₀ s) : Kept ws s₀ (after s (execRefFault site mv s)) := by
  have q0 := Field.sub_trans (by decide : Field.sub [.regs] [.regs, .bar2, .out, .meters, .mons] = true) hs_
  have q1 := Field.sub_trans (by decide : Field.sub [.regs, .bar2, .out, .meters] [.regs, .bar2, .out, .meters, .mons] = true) hs_
  have q2 := Field.sub_trans (by decide : Field.sub [.mons] [.regs, .bar2, .out, .meters, .mons] = true) hs_
  unfold execRefFault
  extract_lets -merge ok s1
  clear_value ok
  have k_s1 : Kept ws s₀ s1 := by
    unfold s1
    repeat' with_reducible first
      | assumption
      | intro _
      | apply Kept.after_next
      | apply Kept.ite
      | apply State.setCause_kept q0
      | apply State.setVstate_kept q1
      | apply State.monTrack_kept q2
      | apply State.setNat_kept q0
      | apply State.putBit_kept q0
      | apply Kept.foldl
      | split
      | extract_lets
  clear_value s1
  repeat' with_reducible first
    | assumption
    | intro _
    | apply Kept.after_next
    | apply Kept.ite
    | apply State.setCause_kept q0
    | apply State.setVstate_kept q1
    | apply State.monTrack_kept q2
    | apply State.setNat_kept q0
    | apply State.putBit_kept q0
    | apply Kept.foldl
    | split
    | extract_lets

theorem execOutputPeriod_kept {ws : List Field} {s₀ s : State} (hs_ : Field.sub [.regs, .bar2, .out, .free] ws = true) (site o : Nat)
    (kh_ : Kept ws s₀ s) : Kept ws s₀ (after s (execOutputPeriod site o s)) := by
  have q0 := Field.sub_trans (by decide : Field.sub [.regs, .bar2, .out] [.regs, .bar2, .out, .free] = true) hs_
  have q1 := Field.sub_trans (by decide : Field.sub [.free] [.regs, .bar2, .out, .free] = true) hs_
  have q2 := Field.sub_trans (by decide : Field.sub [.regs] [.regs, .bar2, .out, .free] = true) hs_
  unfold execOutputPeriod
  extract_lets -merge p c s1
  clear_value p c
  have k_s1 : Kept ws s₀ s1 := by
    unfold s1
    repeat' with_reducible first
      | assumption
      | intro _
      | apply Kept.after_next
      | apply Kept.ite
      | apply State.evtIf_kept q0
      | apply State.draw_kept q1
      | apply State.setNat_kept q2
      | apply Kept.foldl
      | split
      | extract_lets
  clear_value s1
  repeat' with_reducible first
    | assumption
    | intro _
    | apply Kept.after_next
    | apply Kept.ite
    | apply State.evtIf_kept q0
    | apply State.draw_kept q1
    | apply State.setNat_kept q2
    | apply Kept.foldl
    | split
    | extract_lets

theorem State.calStart_kept {ws : List Field} {s₀ s : State} (hs_ : Field.sub [.regs, .bar2, .out, .meters, .calibs] ws = true) (site : Nat) (val : Word)
    (kh_ : Kept ws s₀ s) : Kept ws s₀ (State.calStart s site val) := by
  have q0 := Field.sub_trans (by decide : Field.sub [.calibs] [.regs, .bar2, .out, .meters, .calibs] = true) hs_
  unfold State.calStart
  extract_lets -merge c named
  clear_value c named
  repeat' with_reducible first
    | assumption
    | intro _
    | apply Kept.ite
    | apply State.calNext_kept hs_
    | apply State.setCalib_kept q0
    | apply Kept.foldl
    | split
    | extract_lets

theorem State.calAbort_kept {ws : List Field} {s₀ s : State} (hs_ : Field.sub [.regs, .bar2, .out, .meters, .calibs] ws = true) (site : Nat)
    (kh_ : Kept ws s₀ s) : Kept ws s₀ (State.calAbort s site) := by
  unfold State.calAbort
  repeat' with_reducible first
    | assumption
    | intro _
    | apply Kept.ite
    | apply State.calAbortCh_kept hs_
    | apply Kept.foldl
    | split
    | extract_lets

theorem State.calRestore_kept {ws : List Field} {s₀ s : State} (hs_ : Field.sub [.regs, .bar2, .out] ws = true) (site : Nat) (val : Word)
    (kh_ : Kept ws s₀ s) : Kept ws s₀ (State.calRestore s site val) := by
  have q0 := Field.sub_trans (by decide : Field.sub [.regs] [.regs, .bar2, .out] = true) hs_
  unfold State.calRestore
  extract_lets -merge ch
  clear_value ch
  repeat' with_reducible first
    | assumption
    | intro _
    | apply Kept.ite
    | apply State.refreshDue_kept hs_
    | apply State.putBit_kept q0
    | apply Kept.foldl
    | split
    | extract_lets

theorem State.calCmd_kept {ws : List Field} {s₀ s : State} (hs_ : Field.sub [.regs, .bar2, .out, .meters, .calibs] ws = true) (req site : Nat) (val : Word)
    (kh_ : Kept ws s₀ s) : Kept ws s₀ (State.calCmd s req site val) := by
  have q0 := Field.sub_trans (by decide : Field.sub [.regs, .bar2, .out] [.regs, .bar2, .out, .meters, .calibs] = true) hs_
  unfold State.calCmd
  extract_lets -merge start s1 s2
  clear_value start
  have k_s1 : Kept ws s₀ s1 := by
    unfold s1
    repeat' with_reducible first
      | assumption
      | intro _
      | apply Kept.ite
      | apply State.calRestore_kept q0
      | apply State.calAbort_kept hs_
      | apply State.calStart_kept hs_
      | apply State.reject_kept q0
      | apply Kept.foldl
      | split
      | extract_lets
  clear_value s1
  have k_s2 : Kept ws s₀ s2 := by
    unfold s2
    repeat' with_reducible first
      | assumption
      | intro _
      | apply Kept.ite
      | apply State.calRestore_kept q0
      | apply State.calAbort_kept hs_
      | apply State.calStart_kept hs_
      | apply State.reject_kept q0
      | apply Kept.foldl
      | split
      | extract_lets
  clear_value s2
  repeat' with_reducible first
    | assumption
    | intro _
    | apply Kept.ite
    | apply State.calRestore_kept q0
    | apply State.calAbort_kept hs_
    | apply State.calStart_kept hs_
    | apply State.reject_kept q0
    | apply Kept.foldl
    | split
    | extract_lets

theorem State.calDone_kept {ws : List Field} {s₀ s : State} (hs_ : Field.sub [.regs, .bar2, .out, .meters, .calibs] ws = true) (site ch : Nat) (got : List (Nat × Word)) (full : Bool)
    (kh_ : Kept ws s₀ s) : Kept ws s₀ (State.calDone s site ch got full) := by
  have q0 := Field.sub_trans (by decide : Field.sub [.regs, .meters, .calibs] [.regs, .bar2, .out, .meters, .calibs] = true) hs_
  have q1 := Field.sub_trans (by decide : Field.sub [.regs, .bar2, .out] [.regs, .bar2, .out, .meters, .calibs] = true) hs_
  have q2 := Field.sub_trans (by decide : Field.sub [.calibs] [.regs, .bar2, .out, .meters, .calibs] = true) hs_
  have q3 := Field.sub_trans (by decide : Field.sub [.regs] [.regs, .bar2, .out, .meters, .calibs] = true) hs_
  unfold State.calDone
  extract_lets -merge p s1 s2 s3
  clear_value p
  have k_s1 : Kept ws s₀ s1 := by
    unfold s1
    repeat' with_reducible first
      | assumption
      | intro _
      | apply Kept.ite
      | apply State.calEnd_kept q0
      | apply State.calNext_kept hs_
      | apply State.evt_kept q1
      | apply State.setCalWord_kept q2
      | apply State.putBit_kept q3
      | apply Kept.foldl
      | split
      | extract_lets
  clear_value s1
  have k_s2 : Kept ws s₀ s2 := by
    unfold s2
    repeat' with_reducible first
      | assumption
      | intro _
      | apply Kept.ite
      | apply State.calEnd_kept q0
      | apply State.calNext_kept hs_
      | apply State.evt_kept q1
      | apply State.setCalWord_kept q2
      | apply State.putBit_kept q3
      | apply Kept.foldl
      | split
      | extract_lets
  clear_value s2
  have k_s3 : Kept ws s₀ s3 := by
    unfold s3
    repeat' with_reducible first
      | assumption
      | intro _
      | apply Kept.ite
      | apply State.calEnd_kept q0
      | apply State.calNext_kept hs_
      | apply State.evt_kept q1
      | apply State.setCalWord_kept q2
      | apply State.putBit_kept q3
      | apply Kept.foldl
      | split
      | extract_lets
  clear_value s3
  repeat' with_reducible first
    | assumption
    | intro _
    | apply Kept.ite
    | apply State.calEnd_kept q0
    | apply State.calNext_kept hs_
    | apply State.evt_kept q1
    | apply State.setCalWord_kept q2
    | apply State.putBit_kept q3
    | apply Kept.foldl
    | split
    | extract_lets

theorem calStepState_kept {ws : List Field} {s₀ s : State} (hs_ : Field.sub [.regs, .bar2, .out, .meters, .calibs] ws = true) (site : Nat) (res : CalSample)
    (kh_ : Kept ws s₀ s) : Kept ws s₀ (calStepState site res s) := by
  have q0 := Field.sub_trans (by decide : Field.sub [.regs, .meters, .calibs] [.regs, .bar2, .out, .meters, .calibs] = true) hs_
  have q1 := Field.sub_trans (by decide : Field.sub [.meters] [.regs, .bar2, .out, .meters, .calibs] = true) hs_
  have q2 := Field.sub_trans (by decide : Field.sub [.regs, .bar2, .out] [.regs, .bar2, .out, .meters, .calibs] = true) hs_
  have q3 := Field.sub_trans (by decide : Field.sub [.calibs] [.regs, .bar2, .out, .meters, .calibs] = true) hs_
  unfold calStepState
  extract_lets -merge c
  clear_value c
  repeat' with_reducible first
    | assumption
    | intro _
    | apply Kept.ite
    | apply State.calEnd_kept q0
    | apply State.calNext_kept hs_
    | apply State.stepBack_kept q1
    | apply State.calDone_kept hs_
    | apply State.evt_kept q2
    | apply State.setCalib_kept q3
    | apply Kept.foldl
    | split
    | extract_lets

theorem execCalStep_kept {ws : List Field} {s₀ s : State} (hs_ : Field.sub [.regs, .bar2, .out, .meters, .calibs] ws = true) (site : Nat) (res : CalSample)
    (kh_ : Kept ws s₀ s) : Kept ws s₀ (after s (execCalStep site res s)) := by
  unfold execCalStep
  repeat' with_reducible first
    | assumption
    | intro _
    | apply Kept.after_next
    | apply Kept.ite
    | apply calStepState_kept hs_
    | apply Kept.foldl
    | split
    | extract_lets

theorem State.calDataWrite_kept {ws : List Field} {s₀ s : State} (hs_ : Field.sub [.regs, .bar2, .out, .calibs] ws = true) (req site : Nat) (val : Word)
    (kh_ : Kept ws s₀ s) : Kept ws s₀ (State.calDataWrite s req site val) := by
  have q0 := Field.sub_trans (by decide : Field.sub [.regs, .bar2, .out] [.regs, .bar2, .out, .calibs] = true) hs_
  have q1 := Field.sub_trans (by decide : Field.sub [.regs] [.regs, .bar2, .out, .calibs] = true) hs_
  have q2 := Field.sub_trans (by decide : Field.sub [.calibs] [.regs, .bar2, .out, .calibs] = true) hs_
  unfold State.calDataWrite
  extract_lets -merge p a ch c
  clear_value p a ch c
  repeat' with_reducible first
    | assumption
    | intro _
    | apply Kept.ite
    | apply State.reject_kept q0
    | apply State.setNat_kept q1
    | apply State.setCalWord_kept q2
    | apply State.putBit_kept q1
    | apply Kept.foldl
    | split
    | extract_lets

theorem execCalDataRead_kept {ws : List Field} {s₀ s : State} (hs_ : Field.sub [.regs, .rdata] ws = true) (req site : Nat)
    (kh_ : Kept ws s₀ s) : Kept ws s₀ (after s (execCalDataRead req site s)) := by
  have q0 := Field.sub_trans (by decide : Field.sub [.regs] [.regs, .rdata] = true) hs_
  have q1 := Field.sub_trans (by decide : Field.sub [.rdata] [.regs, .rdata] = true) hs_
  unfold execCalDataRead
  extract_lets -merge p a v
  clear_value p a v
  repeat' with_reducible first
    | assumption
    | intro _
    | apply Kept.after_next
    | apply Kept.ite
    | apply State.setNat_kept q0
    | apply Kept.foldl
    | split
    | extract_lets
    | apply Kept.set_rdata _ q1

end Sys2Proof.Machine
end

