-- ==== Sys2Proof/Laws/KPacing.lean ====
section
/-!
SUPPORT. Laws/KPacing.lean: what each operation of Machine/Pacing.lean may change, and that it keeps the canonical form.
-/
namespace Sys2Proof.Machine

theorem State.pacedStream_kept {ws : List Field} {s₀ s : State} (hs_ : Field.sub [.regs, .bar2, .out, .rings, .strms] ws = true) (site g k : Nat) (slow : Bool)
    (kh_ : Kept ws s₀ s) : Kept ws s₀ (State.pacedStream s site g k slow) := by
  have q0 := Field.sub_trans (by decide : Field.sub [.regs, .bar2, .out] [.regs, .bar2, .out, .rings, .strms] = true) hs_
  have q1 := Field.sub_trans (by decide : Field.sub [.rings] [.regs, .bar2, .out, .rings, .strms] = true) hs_
  have q2 := Field.sub_trans (by decide : Field.sub [.strms] [.regs, .bar2, .out, .rings, .strms] = true) hs_
  unfold State.pacedStream
  extract_lets -merge p d l s1 _
  clear_value p d l
  have k_s1 : Kept ws s₀ s1 := by
    unfold s1
    repeat' with_reducible first
      | assumption
      | intro _
      | apply Kept.ite
      | apply State.setSt_kept q0
      | apply State.streamEvent_kept q1
      | apply State.setStrm_kept q2
      | apply Kept.foldl
      | split
      | extract_lets
  clear_value s1
  repeat' with_reducible first
    | assumption
    | intro _
    | apply Kept.ite
    | apply State.setSt_kept q0
    | apply State.streamEvent_kept q1
    | apply State.setStrm_kept q2
    | apply Kept.foldl
    | split
    | extract_lets

theorem State.showMargins_kept {ws : List Field} {s₀ s : State} (hs_ : Field.sub [.regs] ws = true) (site g : Nat) (ks : List Nat)
    (kh_ : Kept ws s₀ s) : Kept ws s₀ (State.showMargins s site g ks) := by
  unfold State.showMargins
  extract_lets -merge s1 least
  clear_value least
  have k_s1 : Kept ws s₀ s1 := by
    unfold s1
    repeat' with_reducible first
      | assumption
      | intro _
      | apply Kept.ite
      | apply State.showStream_kept hs_
      | apply State.setNat_kept hs_
      | apply Kept.foldl
      | split
      | extract_lets
  clear_value s1
  repeat' with_reducible first
    | assumption
    | intro _
    | apply Kept.ite
    | apply State.showStream_kept hs_
    | apply State.setNat_kept hs_
    | apply Kept.foldl
    | split
    | extract_lets

theorem State.pcBit_kept {ws : List Field} {s₀ s : State} (hs_ : Field.sub [.regs, .bar2, .out] ws = true) (site g b : Nat) (on : Bool)
    (kh_ : Kept ws s₀ s) : Kept ws s₀ (State.pcBit s site g b on) := by
  have q0 := Field.sub_trans (by decide : Field.sub [.regs] [.regs, .bar2, .out] = true) hs_
  unfold State.pcBit
  repeat' with_reducible first
    | assumption
    | intro _
    | apply Kept.ite
    | apply State.evtIf_kept hs_
    | apply State.putBit_kept q0
    | apply Kept.foldl
    | split
    | extract_lets

theorem State.paceLaw_kept {ws : List Field} {s₀ s : State} (hs_ : Field.sub [.regs, .bar2, .out, .ram, .hmem, .rings, .strms, .axes, .grps, .slotRings, .cueQs, .binFlags, .slates, .cancels, .dqs, .cores, .cmbs, .engs, .poison] ws = true) (site g : Nat) (ks : List Nat)
    (kh_ : Kept ws s₀ s) : Kept ws s₀ (State.paceLaw s site g ks) := by
  have q0 := Field.sub_trans (by decide : Field.sub [.regs, .bar2, .out] [.regs, .bar2, .out, .ram, .hmem, .rings, .strms, .axes, .grps, .slotRings, .cueQs, .binFlags, .slates, .cancels, .dqs, .cores, .cmbs, .engs, .poison] = true) hs_
  have q1 := Field.sub_trans (by decide : Field.sub [.regs] [.regs, .bar2, .out, .ram, .hmem, .rings, .strms, .axes, .grps, .slotRings, .cueQs, .binFlags, .slates, .cancels, .dqs, .cores, .cmbs, .engs, .poison] = true) hs_
  have q2 := Field.sub_trans (by decide : Field.sub [.regs, .bar2, .out, .rings, .strms] [.regs, .bar2, .out, .ram, .hmem, .rings, .strms, .axes, .grps, .slotRings, .cueQs, .binFlags, .slates, .cancels, .dqs, .cores, .cmbs, .engs, .poison] = true) hs_
  have q3 := Field.sub_trans (by decide : Field.sub [.strms] [.regs, .bar2, .out, .ram, .hmem, .rings, .strms, .axes, .grps, .slotRings, .cueQs, .binFlags, .slates, .cancels, .dqs, .cores, .cmbs, .engs, .poison] = true) hs_
  unfold State.paceLaw
  extract_lets -merge p b mn mx cap buf tgt sat past limit s1 s2 s3 slow s4 stage s5
  clear_value p b mn mx cap buf tgt sat past limit slow stage
  have k_s1 : Kept ws s₀ s1 := by
    unfold s1
    repeat' with_reducible first
      | assumption
      | intro _
      | apply Kept.ite
      | apply State.evt_kept q0
      | apply State.declareSplice_kept hs_
      | apply State.endRetake_kept q1
      | apply State.pcBit_kept q0
      | apply State.showMargins_kept q1
      | apply State.pacedStream_kept q2
      | apply State.setNat_kept q1
      | apply State.setStrm_kept q3
      | apply State.putFld_kept q1
      | apply Kept.foldl
      | split
      | extract_lets
  clear_value s1
  have k_s2 : Kept ws s₀ s2 := by
    unfold s2
    repeat' with_reducible first
      | assumption
      | intro _
      | apply Kept.ite
      | apply State.evt_kept q0
      | apply State.declareSplice_kept hs_
      | apply State.endRetake_kept q1
      | apply State.pcBit_kept q0
      | apply State.showMargins_kept q1
      | apply State.pacedStream_kept q2
      | apply State.setNat_kept q1
      | apply State.setStrm_kept q3
      | apply State.putFld_kept q1
      | apply Kept.foldl
      | split
      | extract_lets
  clear_value s2
  have k_s3 : Kept ws s₀ s3 := by
    unfold s3
    repeat' with_reducible first
      | assumption
      | intro _
      | apply Kept.ite
      | apply State.evt_kept q0
      | apply State.declareSplice_kept hs_
      | apply State.endRetake_kept q1
      | apply State.pcBit_kept q0
      | apply State.showMargins_kept q1
      | apply State.pacedStream_kept q2
      | apply State.setNat_kept q1
      | apply State.setStrm_kept q3
      | apply State.putFld_kept q1
      | apply Kept.foldl
      | split
      | extract_lets
  clear_value s3
  have k_s4 : Kept ws s₀ s4 := by
    unfold s4
    repeat' with_reducible first
      | assumption
      | intro _
      | apply Kept.ite
      | apply State.evt_kept q0
      | apply State.declareSplice_kept hs_
      | apply State.endRetake_kept q1
      | apply State.pcBit_kept q0
      | apply State.showMargins_kept q1
      | apply State.pacedStream_kept q2
      | apply State.setNat_kept q1
      | apply State.setStrm_kept q3
      | apply State.putFld_kept q1
      | apply Kept.foldl
      | split
      | extract_lets
  clear_value s4
  have k_s5 : Kept ws s₀ s5 := by
    unfold s5
    repeat' with_reducible first
      | assumption
      | intro _
      | apply Kept.ite
      | apply State.evt_kept q0
      | apply State.declareSplice_kept hs_
      | apply State.endRetake_kept q1
      | apply State.pcBit_kept q0
      | apply State.showMargins_kept q1
      | apply State.pacedStream_kept q2
      | apply State.setNat_kept q1
      | apply State.setStrm_kept q3
      | apply State.putFld_kept q1
      | apply Kept.foldl
      | split
      | extract_lets
  clear_value s5
  repeat' with_reducible first
    | assumption
    | intro _
    | apply Kept.ite
    | apply State.evt_kept q0
    | apply State.declareSplice_kept hs_
    | apply State.endRetake_kept q1
    | apply State.pcBit_kept q0
    | apply State.showMargins_kept q1
    | apply State.pacedStream_kept q2
    | apply State.setNat_kept q1
    | apply State.setStrm_kept q3
    | apply State.putFld_kept q1
    | apply Kept.foldl
    | split
    | extract_lets

theorem execPacingTick_kept {ws : List Field} {s₀ s : State} (hs_ : Field.sub [.regs, .bar2, .out, .ram, .hmem, .rings, .strms, .axes, .grps, .slotRings, .cueQs, .binFlags, .slates, .cancels, .dqs, .cores, .cmbs, .engs, .poison] ws = true) (site g : Nat)
    (kh_ : Kept ws s₀ s) : Kept ws s₀ (after s (execPacingTick site g s)) := by
  unfold execPacingTick
  repeat' with_reducible first
    | assumption
    | intro _
    | apply Kept.after_next
    | apply Kept.ite
    | apply State.paceLaw_kept hs_
    | apply Kept.foldl
    | split
    | extract_lets

theorem State.achieved_kept {ws : List Field} {s₀ s : State} (hs_ : Field.sub [.regs, .rings, .strms] ws = true) (site g k : Nat)
    (kh_ : Kept ws s₀ s) : Kept ws s₀ (State.achieved s site g k) := by
  have q0 := Field.sub_trans (by decide : Field.sub [.rings] [.regs, .rings, .strms] = true) hs_
  have q1 := Field.sub_trans (by decide : Field.sub [.regs] [.regs, .rings, .strms] = true) hs_
  have q2 := Field.sub_trans (by decide : Field.sub [.strms] [.regs, .rings, .strms] = true) hs_
  unfold State.achieved
  extract_lets -merge p x a s1 diff _
  clear_value p x a diff
  have k_s1 : Kept ws s₀ s1 := by
    unfold s1
    repeat' with_reducible first
      | assumption
      | intro _
      | apply Kept.ite
      | apply State.streamEvent_kept q0
      | apply State.setNat_kept q1
      | apply State.setStrm_kept q2
      | apply Kept.foldl
      | split
      | extract_lets
  clear_value s1
  repeat' with_reducible first
    | assumption
    | intro _
    | apply Kept.ite
    | apply State.streamEvent_kept q0
    | apply State.setNat_kept q1
    | apply State.setStrm_kept q2
    | apply Kept.foldl
    | split
    | extract_lets

theorem execAchievedReport_kept {ws : List Field} {s₀ s : State} (hs_ : Field.sub [.regs, .rings, .strms] ws = true) (site g : Nat)
    (kh_ : Kept ws s₀ s) : Kept ws s₀ (after s (execAchievedReport site g s)) := by
  unfold execAchievedReport
  repeat' with_reducible first
    | assumption
    | intro _
    | apply Kept.after_next
    | apply Kept.ite
    | apply State.achieved_kept hs_
    | apply Kept.foldl
    | split
    | extract_lets

theorem State.resumeGate_kept {ws : List Field} {s₀ s : State} (hs_ : Field.sub [.regs, .bar2, .out, .poss, .strms, .gates, .axes, .grps] ws = true) (site g : Nat) (skip : Bool)
    (kh_ : Kept ws s₀ s) : Kept ws s₀ (State.resumeGate s site g skip) := by
  have q0 := Field.sub_trans (by decide : Field.sub [.regs] [.regs, .bar2, .out, .poss, .strms, .gates, .axes, .grps] = true) hs_
  have q1 := Field.sub_trans (by decide : Field.sub [.grps] [.regs, .bar2, .out, .poss, .strms, .gates, .axes, .grps] = true) hs_
  unfold State.resumeGate
  extract_lets -merge s1 _ _
  have k_s1 : Kept ws s₀ s1 := by
    unfold s1
    repeat' with_reducible first
      | assumption
      | intro _
      | apply Kept.ite
      | apply State.showRetake_kept q0
      | apply State.beginRestart_kept hs_
      | apply State.setGrp_kept q1
      | apply State.putBit_kept q0
      | apply Kept.foldl
      | split
      | extract_lets
  clear_value s1
  repeat' with_reducible first
    | assumption
    | intro _
    | apply Kept.ite
    | apply State.showRetake_kept q0
    | apply State.beginRestart_kept hs_
    | apply State.setGrp_kept q1
    | apply State.putBit_kept q0
    | apply Kept.foldl
    | split
    | extract_lets

theorem State.pcCmd_kept {ws : List Field} {s₀ s : State} (hs_ : Field.sub [.regs, .bar2, .out, .poss, .ram, .hmem, .rings, .strms, .gates, .axes, .grps, .slotRings, .cueQs, .binFlags, .slates, .cancels, .dqs, .cores, .cmbs, .engs, .poison] ws = true) (req site g : Nat) (val : Word)
    (kh_ : Kept ws s₀ s) : Kept ws s₀ (State.pcCmd s req site g val) := by
  have q0 := Field.sub_trans (by decide : Field.sub [.regs, .bar2, .out, .poss, .strms, .gates, .axes, .grps] [.regs, .bar2, .out, .poss, .ram, .hmem, .rings, .strms, .gates, .axes, .grps, .slotRings, .cueQs, .binFlags, .slates, .cancels, .dqs, .cores, .cmbs, .engs, .poison] = true) hs_
  have q1 := Field.sub_trans (by decide : Field.sub [.regs, .bar2, .out] [.regs, .bar2, .out, .poss, .ram, .hmem, .rings, .strms, .gates, .axes, .grps, .slotRings, .cueQs, .binFlags, .slates, .cancels, .dqs, .cores, .cmbs, .engs, .poison] = true) hs_
  have q2 := Field.sub_trans (by decide : Field.sub [.regs, .bar2, .out, .ram, .hmem, .rings, .strms, .axes, .grps, .slotRings, .cueQs, .binFlags, .slates, .cancels, .dqs, .cores, .cmbs, .engs, .poison] [.regs, .bar2, .out, .poss, .ram, .hmem, .rings, .strms, .gates, .axes, .grps, .slotRings, .cueQs, .binFlags, .slates, .cancels, .dqs, .cores, .cmbs, .engs, .poison] = true) hs_
  have q3 := Field.sub_trans (by decide : Field.sub [.regs] [.regs, .bar2, .out, .poss, .ram, .hmem, .rings, .strms, .gates, .axes, .grps, .slotRings, .cueQs, .binFlags, .slates, .cancels, .dqs, .cores, .cmbs, .engs, .poison] = true) hs_
  unfold State.pcCmd
  extract_lets -merge p
  clear_value p
  repeat' with_reducible first
    | assumption
    | intro _
    | apply Kept.ite
    | apply State.resumeGate_kept q0
    | apply State.reject_kept q1
    | apply State.declareSplice_kept q2
    | apply State.endRetake_kept q3
    | apply Kept.foldl
    | split
    | extract_lets

theorem execRestartRunUp_kept {ws : List Field} {s₀ s : State} (hs_ : Field.sub [.grps] ws = true) (site g : Nat)
    (kh_ : Kept ws s₀ s) : Kept ws s₀ (after s (execRestartRunUp site g s)) := by
  unfold execRestartRunUp
  extract_lets -merge gr
  clear_value gr
  repeat' with_reducible first
    | assumption
    | intro _
    | apply Kept.after_next
    | apply Kept.ite
    | apply State.setGrp_kept hs_
    | apply Kept.foldl
    | split
    | extract_lets

theorem execAutoResumed_kept {ws : List Field} {s₀ s : State} (hs_ : Field.sub [.regs, .bar2, .out, .poss, .strms, .gates, .axes, .grps] ws = true) (site g : Nat)
    (kh_ : Kept ws s₀ s) : Kept ws s₀ (after s (execAutoResumed site g s)) := by
  have q0 := Field.sub_trans (by decide : Field.sub [.regs, .bar2, .out] [.regs, .bar2, .out, .poss, .strms, .gates, .axes, .grps] = true) hs_
  unfold execAutoResumed
  extract_lets -merge ks
  clear_value ks
  repeat' with_reducible first
    | assumption
    | intro _
    | apply Kept.after_next
    | apply Kept.ite
    | apply State.resumeGate_kept hs_
    | apply State.evt_kept q0
    | apply Kept.foldl
    | split
    | extract_lets

end Sys2Proof.Machine
end

