-- ==== Sys2Proof/Laws/KDirectWrites.lean ====
section
/-!
SUPPORT. Laws/KDirectWrites.lean: what each operation of Machine/DirectWrites.lean may change, and that it keeps the canonical form.
-/
namespace Sys2Proof.Machine

theorem State.directWrite_kept {ws : List Field} {s₀ s : State} (hs_ : Field.sub [.regs, .bar2, .out, .encs, .poss, .slots, .meters, .calibs, .mons, .ram, .hmem, .rings, .strms, .gates, .axes, .grps, .slotRings, .cueQs, .binFlags, .slates, .cancels, .tqs, .dqs, .cores, .cmbs, .engs, .poison] ws = true) (ty req site blk off : Nat) (k : State → State) (h_k : ∀ t0, Kept ws s₀ t0 → Kept ws s₀ (k t0))
    (kh_ : Kept ws s₀ s) : Kept ws s₀ (State.directWrite s ty req site blk off k) := by
  have q0 := Field.sub_trans (by decide : Field.sub [.regs, .bar2, .out] [.regs, .bar2, .out, .encs, .poss, .slots, .meters, .calibs, .mons, .ram, .hmem, .rings, .strms, .gates, .axes, .grps, .slotRings, .cueQs, .binFlags, .slates, .cancels, .tqs, .dqs, .cores, .cmbs, .engs, .poison] = true) hs_
  unfold State.directWrite
  repeat' with_reducible first
    | assumption
    | intro _
    | apply h_k
    | apply Kept.ite
    | apply State.asWrite_kept q0
    | apply State.commitsFirst_kept hs_
    | apply Kept.foldl
    | split
    | extract_lets

theorem execPitchArm_kept {ws : List Field} {s₀ s : State} (hs_ : Field.sub [.regs, .bar2, .out, .encs, .poss, .slots, .order, .meters, .calibs, .mons, .ram, .hmem, .rings, .strms, .gates, .axes, .grps, .slotRings, .cueQs, .binFlags, .slates, .cancels, .tqs, .dqs, .cores, .cmbs, .engs, .poison] ws = true) (req site g : Nat) (val : Word)
    (kh_ : Kept ws s₀ s) : Kept ws s₀ (after s (execPitchArm req site g val s)) := by
  have q0 := Field.sub_trans (by decide : Field.sub [.regs, .bar2, .out, .poss, .order, .rings] [.regs, .bar2, .out, .encs, .poss, .slots, .order, .meters, .calibs, .mons, .ram, .hmem, .rings, .strms, .gates, .axes, .grps, .slotRings, .cueQs, .binFlags, .slates, .cancels, .tqs, .dqs, .cores, .cmbs, .engs, .poison] = true) hs_
  have q1 := Field.sub_trans (by decide : Field.sub [.regs, .bar2, .out, .encs, .poss, .slots, .meters, .calibs, .mons, .ram, .hmem, .rings, .strms, .gates, .axes, .grps, .slotRings, .cueQs, .binFlags, .slates, .cancels, .tqs, .dqs, .cores, .cmbs, .engs, .poison] [.regs, .bar2, .out, .encs, .poss, .slots, .order, .meters, .calibs, .mons, .ram, .hmem, .rings, .strms, .gates, .axes, .grps, .slotRings, .cueQs, .binFlags, .slates, .cancels, .tqs, .dqs, .cores, .cmbs, .engs, .poison] = true) hs_
  unfold execPitchArm
  repeat' with_reducible first
    | assumption
    | intro _
    | apply Kept.after_next
    | apply Kept.ite
    | apply State.pitchCtl_kept q0
    | apply State.directWrite_kept q1
    | apply Kept.foldl
    | split
    | extract_lets

theorem execSegTail_kept {ws : List Field} {s₀ s : State} (hs_ : Field.sub [.regs, .bar2, .out, .encs, .poss, .slots, .meters, .calibs, .mons, .ram, .hmem, .rings, .strms, .gates, .axes, .grps, .slotRings, .cueQs, .binFlags, .slates, .cancels, .tqs, .dqs, .cores, .cmbs, .engs, .poison] ws = true) (req site a : Nat) (val : Word)
    (kh_ : Kept ws s₀ s) : Kept ws s₀ (after s (execSegTail req site a val s)) := by
  have q0 := Field.sub_trans (by decide : Field.sub [.regs, .bar2, .out] [.regs, .bar2, .out, .encs, .poss, .slots, .meters, .calibs, .mons, .ram, .hmem, .rings, .strms, .gates, .axes, .grps, .slotRings, .cueQs, .binFlags, .slates, .cancels, .tqs, .dqs, .cores, .cmbs, .engs, .poison] = true) hs_
  unfold execSegTail
  repeat' with_reducible first
    | assumption
    | intro _
    | apply Kept.after_next
    | apply Kept.ite
    | apply State.writeSegTail_kept q0
    | apply State.directWrite_kept hs_
    | apply Kept.foldl
    | split
    | extract_lets

theorem execSegArm_kept {ws : List Field} {s₀ s : State} (hs_ : Field.sub [.regs, .bar2, .out, .encs, .poss, .segArms, .slots, .order, .meters, .calibs, .mons, .ram, .hmem, .rings, .strms, .gates, .axes, .grps, .slotRings, .cueQs, .binFlags, .slates, .cancels, .tqs, .dqs, .cores, .cmbs, .engs, .poison] ws = true) (req site a : Nat) (val : Word)
    (kh_ : Kept ws s₀ s) : Kept ws s₀ (after s (execSegArm req site a val s)) := by
  have q0 := Field.sub_trans (by decide : Field.sub [.regs, .bar2, .out, .segArms, .order, .rings, .axes, .grps] [.regs, .bar2, .out, .encs, .poss, .segArms, .slots, .order, .meters, .calibs, .mons, .ram, .hmem, .rings, .strms, .gates, .axes, .grps, .slotRings, .cueQs, .binFlags, .slates, .cancels, .tqs, .dqs, .cores, .cmbs, .engs, .poison] = true) hs_
  have q1 := Field.sub_trans (by decide : Field.sub [.regs, .bar2, .out, .encs, .poss, .slots, .meters, .calibs, .mons, .ram, .hmem, .rings, .strms, .gates, .axes, .grps, .slotRings, .cueQs, .binFlags, .slates, .cancels, .tqs, .dqs, .cores, .cmbs, .engs, .poison] [.regs, .bar2, .out, .encs, .poss, .segArms, .slots, .order, .meters, .calibs, .mons, .ram, .hmem, .rings, .strms, .gates, .axes, .grps, .slotRings, .cueQs, .binFlags, .slates, .cancels, .tqs, .dqs, .cores, .cmbs, .engs, .poison] = true) hs_
  unfold execSegArm
  repeat' with_reducible first
    | assumption
    | intro _
    | apply Kept.after_next
    | apply Kept.ite
    | apply State.writeSegCtl_kept q0
    | apply State.directWrite_kept q1
    | apply Kept.foldl
    | split
    | extract_lets

theorem execClrLock_kept {ws : List Field} {s₀ s : State} (hs_ : Field.sub [.regs, .bar2, .out, .encs, .poss, .slots, .meters, .calibs, .mons, .ram, .hmem, .rings, .strms, .gates, .axes, .grps, .slotRings, .cueQs, .binFlags, .slates, .cancels, .tqs, .dqs, .cores, .cmbs, .engs, .poison] ws = true) (req site a : Nat) (val : Word)
    (kh_ : Kept ws s₀ s) : Kept ws s₀ (after s (execClrLock req site a val s)) := by
  have q0 := Field.sub_trans (by decide : Field.sub [.regs, .bar2, .out] [.regs, .bar2, .out, .encs, .poss, .slots, .meters, .calibs, .mons, .ram, .hmem, .rings, .strms, .gates, .axes, .grps, .slotRings, .cueQs, .binFlags, .slates, .cancels, .tqs, .dqs, .cores, .cmbs, .engs, .poison] = true) hs_
  unfold execClrLock
  repeat' with_reducible first
    | assumption
    | intro _
    | apply Kept.after_next
    | apply Kept.ite
    | apply State.clrLock_kept q0
    | apply State.directWrite_kept hs_
    | apply Kept.foldl
    | split
    | extract_lets

theorem execGrpCmdStop_kept {ws : List Field} {s₀ s : State} (hs_ : Field.sub [.regs, .bar2, .out, .encs, .poss, .slots, .meters, .calibs, .mons, .ram, .hmem, .rings, .strms, .gates, .axes, .grps, .slotRings, .cueQs, .binFlags, .slates, .cancels, .tqs, .dqs, .cores, .cmbs, .engs, .poison] ws = true) (req site g : Nat) (val : Word)
    (kh_ : Kept ws s₀ s) : Kept ws s₀ (after s (execGrpCmdStop req site g val s)) := by
  have q0 := Field.sub_trans (by decide : Field.sub [.regs, .bar2, .out, .ram, .hmem, .rings, .strms, .axes, .grps, .slotRings, .cueQs, .binFlags, .slates, .cancels, .dqs, .cores, .cmbs, .engs, .poison] [.regs, .bar2, .out, .encs, .poss, .slots, .meters, .calibs, .mons, .ram, .hmem, .rings, .strms, .gates, .axes, .grps, .slotRings, .cueQs, .binFlags, .slates, .cancels, .tqs, .dqs, .cores, .cmbs, .engs, .poison] = true) hs_
  unfold execGrpCmdStop
  repeat' with_reducible first
    | assumption
    | intro _
    | apply Kept.after_next
    | apply Kept.ite
    | apply State.grpCmd_kept q0
    | apply State.directWrite_kept hs_
    | apply Kept.foldl
    | split
    | extract_lets

theorem execGrpCmdRelease_kept {ws : List Field} {s₀ s : State} (hs_ : Field.sub [.regs, .bar2, .out, .encs, .poss, .slots, .meters, .calibs, .mons, .ram, .hmem, .rings, .strms, .gates, .axes, .grps, .slotRings, .cueQs, .binFlags, .slates, .cancels, .tqs, .dqs, .cores, .cmbs, .engs, .poison] ws = true) (req site g : Nat) (val : Word)
    (kh_ : Kept ws s₀ s) : Kept ws s₀ (after s (execGrpCmdRelease req site g val s)) := by
  have q0 := Field.sub_trans (by decide : Field.sub [.regs, .bar2, .out, .ram, .hmem, .rings, .strms, .axes, .grps, .slotRings, .cueQs, .binFlags, .slates, .cancels, .dqs, .cores, .cmbs, .engs, .poison] [.regs, .bar2, .out, .encs, .poss, .slots, .meters, .calibs, .mons, .ram, .hmem, .rings, .strms, .gates, .axes, .grps, .slotRings, .cueQs, .binFlags, .slates, .cancels, .tqs, .dqs, .cores, .cmbs, .engs, .poison] = true) hs_
  unfold execGrpCmdRelease
  repeat' with_reducible first
    | assumption
    | intro _
    | apply Kept.after_next
    | apply Kept.ite
    | apply State.grpCmd_kept q0
    | apply State.directWrite_kept hs_
    | apply Kept.foldl
    | split
    | extract_lets

theorem execUncClr_kept {ws : List Field} {s₀ s : State} (hs_ : Field.sub [.regs, .bar2, .out, .encs, .poss, .slots, .meters, .calibs, .mons, .ram, .hmem, .rings, .strms, .gates, .axes, .grps, .slotRings, .cueQs, .binFlags, .slates, .cancels, .tqs, .dqs, .cores, .cmbs, .engs, .poison] ws = true) (req site e : Nat)
    (kh_ : Kept ws s₀ s) : Kept ws s₀ (after s (execUncClr req site e s)) := by
  have q0 := Field.sub_trans (by decide : Field.sub [.regs, .bar2, .out] [.regs, .bar2, .out, .encs, .poss, .slots, .meters, .calibs, .mons, .ram, .hmem, .rings, .strms, .gates, .axes, .grps, .slotRings, .cueQs, .binFlags, .slates, .cancels, .tqs, .dqs, .cores, .cmbs, .engs, .poison] = true) hs_
  unfold execUncClr
  repeat' with_reducible first
    | assumption
    | intro _
    | apply Kept.after_next
    | apply Kept.ite
    | apply State.uncClr_kept q0
    | apply State.directWrite_kept hs_
    | apply Kept.foldl
    | split
    | extract_lets

theorem execShdDataWrite_kept {ws : List Field} {s₀ s : State} (hs_ : Field.sub [.regs, .bar2, .out, .encs, .poss, .slots, .meters, .calibs, .mons, .ram, .hmem, .rings, .strms, .gates, .axes, .grps, .slotRings, .cueQs, .binFlags, .slates, .cancels, .tqs, .dqs, .cores, .cmbs, .engs, .poison] ws = true) (req site g : Nat) (val : Word)
    (kh_ : Kept ws s₀ s) : Kept ws s₀ (after s (execShdDataWrite req site g val s)) := by
  have q0 := Field.sub_trans (by decide : Field.sub [.regs, .bar2, .out, .gates] [.regs, .bar2, .out, .encs, .poss, .slots, .meters, .calibs, .mons, .ram, .hmem, .rings, .strms, .gates, .axes, .grps, .slotRings, .cueQs, .binFlags, .slates, .cancels, .tqs, .dqs, .cores, .cmbs, .engs, .poison] = true) hs_
  unfold execShdDataWrite
  repeat' with_reducible first
    | assumption
    | intro _
    | apply Kept.after_next
    | apply Kept.ite
    | apply State.shdWrite_kept q0
    | apply State.directWrite_kept hs_
    | apply Kept.foldl
    | split
    | extract_lets

theorem execScCmdDark_kept {ws : List Field} {s₀ s : State} (hs_ : Field.sub [.regs, .bar2, .out, .encs, .poss, .slots, .meters, .calibs, .mons, .ram, .hmem, .rings, .strms, .gates, .axes, .grps, .slotRings, .cueQs, .binFlags, .slates, .cancels, .tqs, .dqs, .cores, .cmbs, .engs, .poison] ws = true) (req site g : Nat) (val : Word)
    (kh_ : Kept ws s₀ s) : Kept ws s₀ (after s (execScCmdDark req site g val s)) := by
  have q0 := Field.sub_trans (by decide : Field.sub [.regs, .bar2, .out, .gates] [.regs, .bar2, .out, .encs, .poss, .slots, .meters, .calibs, .mons, .ram, .hmem, .rings, .strms, .gates, .axes, .grps, .slotRings, .cueQs, .binFlags, .slates, .cancels, .tqs, .dqs, .cores, .cmbs, .engs, .poison] = true) hs_
  unfold execScCmdDark
  repeat' with_reducible first
    | assumption
    | intro _
    | apply Kept.after_next
    | apply Kept.ite
    | apply State.scCmd_kept q0
    | apply State.directWrite_kept hs_
    | apply Kept.foldl
    | split
    | extract_lets

theorem execScCmdFlat_kept {ws : List Field} {s₀ s : State} (hs_ : Field.sub [.regs, .bar2, .out, .encs, .poss, .slots, .meters, .calibs, .mons, .ram, .hmem, .rings, .strms, .gates, .axes, .grps, .slotRings, .cueQs, .binFlags, .slates, .cancels, .tqs, .dqs, .cores, .cmbs, .engs, .poison] ws = true) (req site g : Nat) (val : Word)
    (kh_ : Kept ws s₀ s) : Kept ws s₀ (after s (execScCmdFlat req site g val s)) := by
  have q0 := Field.sub_trans (by decide : Field.sub [.regs, .bar2, .out, .gates] [.regs, .bar2, .out, .encs, .poss, .slots, .meters, .calibs, .mons, .ram, .hmem, .rings, .strms, .gates, .axes, .grps, .slotRings, .cueQs, .binFlags, .slates, .cancels, .tqs, .dqs, .cores, .cmbs, .engs, .poison] = true) hs_
  unfold execScCmdFlat
  repeat' with_reducible first
    | assumption
    | intro _
    | apply Kept.after_next
    | apply Kept.ite
    | apply State.scCmd_kept q0
    | apply State.directWrite_kept hs_
    | apply Kept.foldl
    | split
    | extract_lets

theorem execScCmdAbort_kept {ws : List Field} {s₀ s : State} (hs_ : Field.sub [.regs, .bar2, .out, .encs, .poss, .slots, .meters, .calibs, .mons, .ram, .hmem, .rings, .strms, .gates, .axes, .grps, .slotRings, .cueQs, .binFlags, .slates, .cancels, .tqs, .dqs, .cores, .cmbs, .engs, .poison] ws = true) (req site g : Nat) (val : Word)
    (kh_ : Kept ws s₀ s) : Kept ws s₀ (after s (execScCmdAbort req site g val s)) := by
  have q0 := Field.sub_trans (by decide : Field.sub [.regs, .bar2, .out, .gates] [.regs, .bar2, .out, .encs, .poss, .slots, .meters, .calibs, .mons, .ram, .hmem, .rings, .strms, .gates, .axes, .grps, .slotRings, .cueQs, .binFlags, .slates, .cancels, .tqs, .dqs, .cores, .cmbs, .engs, .poison] = true) hs_
  unfold execScCmdAbort
  repeat' with_reducible first
    | assumption
    | intro _
    | apply Kept.after_next
    | apply Kept.ite
    | apply State.scCmd_kept q0
    | apply State.directWrite_kept hs_
    | apply Kept.foldl
    | split
    | extract_lets

theorem execCalCmdStart_kept {ws : List Field} {s₀ s : State} (hs_ : Field.sub [.regs, .bar2, .out, .encs, .poss, .slots, .meters, .calibs, .mons, .ram, .hmem, .rings, .strms, .gates, .axes, .grps, .slotRings, .cueQs, .binFlags, .slates, .cancels, .tqs, .dqs, .cores, .cmbs, .engs, .poison] ws = true) (req site : Nat) (val : Word)
    (kh_ : Kept ws s₀ s) : Kept ws s₀ (after s (execCalCmdStart req site val s)) := by
  have q0 := Field.sub_trans (by decide : Field.sub [.regs, .bar2, .out, .meters, .calibs] [.regs, .bar2, .out, .encs, .poss, .slots, .meters, .calibs, .mons, .ram, .hmem, .rings, .strms, .gates, .axes, .grps, .slotRings, .cueQs, .binFlags, .slates, .cancels, .tqs, .dqs, .cores, .cmbs, .engs, .poison] = true) hs_
  unfold execCalCmdStart
  repeat' with_reducible first
    | assumption
    | intro _
    | apply Kept.after_next
    | apply Kept.ite
    | apply State.calCmd_kept q0
    | apply State.directWrite_kept hs_
    | apply Kept.foldl
    | split
    | extract_lets

theorem execCalCmdAbort_kept {ws : List Field} {s₀ s : State} (hs_ : Field.sub [.regs, .bar2, .out, .encs, .poss, .slots, .meters, .calibs, .mons, .ram, .hmem, .rings, .strms, .gates, .axes, .grps, .slotRings, .cueQs, .binFlags, .slates, .cancels, .tqs, .dqs, .cores, .cmbs, .engs, .poison] ws = true) (req site : Nat) (val : Word)
    (kh_ : Kept ws s₀ s) : Kept ws s₀ (after s (execCalCmdAbort req site val s)) := by
  have q0 := Field.sub_trans (by decide : Field.sub [.regs, .bar2, .out, .meters, .calibs] [.regs, .bar2, .out, .encs, .poss, .slots, .meters, .calibs, .mons, .ram, .hmem, .rings, .strms, .gates, .axes, .grps, .slotRings, .cueQs, .binFlags, .slates, .cancels, .tqs, .dqs, .cores, .cmbs, .engs, .poison] = true) hs_
  unfold execCalCmdAbort
  repeat' with_reducible first
    | assumption
    | intro _
    | apply Kept.after_next
    | apply Kept.ite
    | apply State.calCmd_kept q0
    | apply State.directWrite_kept hs_
    | apply Kept.foldl
    | split
    | extract_lets

theorem execCalCmdRestore_kept {ws : List Field} {s₀ s : State} (hs_ : Field.sub [.regs, .bar2, .out, .encs, .poss, .slots, .meters, .calibs, .mons, .ram, .hmem, .rings, .strms, .gates, .axes, .grps, .slotRings, .cueQs, .binFlags, .slates, .cancels, .tqs, .dqs, .cores, .cmbs, .engs, .poison] ws = true) (req site : Nat) (val : Word)
    (kh_ : Kept ws s₀ s) : Kept ws s₀ (after s (execCalCmdRestore req site val s)) := by
  have q0 := Field.sub_trans (by decide : Field.sub [.regs, .bar2, .out, .meters, .calibs] [.regs, .bar2, .out, .encs, .poss, .slots, .meters, .calibs, .mons, .ram, .hmem, .rings, .strms, .gates, .axes, .grps, .slotRings, .cueQs, .binFlags, .slates, .cancels, .tqs, .dqs, .cores, .cmbs, .engs, .poison] = true) hs_
  unfold execCalCmdRestore
  repeat' with_reducible first
    | assumption
    | intro _
    | apply Kept.after_next
    | apply Kept.ite
    | apply State.calCmd_kept q0
    | apply State.directWrite_kept hs_
    | apply Kept.foldl
    | split
    | extract_lets

theorem execCalDataWrite_kept {ws : List Field} {s₀ s : State} (hs_ : Field.sub [.regs, .bar2, .out, .encs, .poss, .slots, .meters, .calibs, .mons, .ram, .hmem, .rings, .strms, .gates, .axes, .grps, .slotRings, .cueQs, .binFlags, .slates, .cancels, .tqs, .dqs, .cores, .cmbs, .engs, .poison] ws = true) (req site : Nat) (val : Word)
    (kh_ : Kept ws s₀ s) : Kept ws s₀ (after s (execCalDataWrite req site val s)) := by
  have q0 := Field.sub_trans (by decide : Field.sub [.regs, .bar2, .out, .calibs] [.regs, .bar2, .out, .encs, .poss, .slots, .meters, .calibs, .mons, .ram, .hmem, .rings, .strms, .gates, .axes, .grps, .slotRings, .cueQs, .binFlags, .slates, .cancels, .tqs, .dqs, .cores, .cmbs, .engs, .poison] = true) hs_
  unfold execCalDataWrite
  repeat' with_reducible first
    | assumption
    | intro _
    | apply Kept.after_next
    | apply Kept.ite
    | apply State.calDataWrite_kept q0
    | apply State.directWrite_kept hs_
    | apply Kept.foldl
    | split
    | extract_lets

theorem execMonCmdReset_kept {ws : List Field} {s₀ s : State} (hs_ : Field.sub [.regs, .bar2, .out, .encs, .poss, .slots, .meters, .calibs, .mons, .ram, .hmem, .rings, .strms, .gates, .axes, .grps, .slotRings, .cueQs, .binFlags, .slates, .cancels, .tqs, .dqs, .cores, .cmbs, .engs, .poison] ws = true) (req site : Nat) (val : Word)
    (kh_ : Kept ws s₀ s) : Kept ws s₀ (after s (execMonCmdReset req site val s)) := by
  have q0 := Field.sub_trans (by decide : Field.sub [.regs, .bar2, .out, .mons] [.regs, .bar2, .out, .encs, .poss, .slots, .meters, .calibs, .mons, .ram, .hmem, .rings, .strms, .gates, .axes, .grps, .slotRings, .cueQs, .binFlags, .slates, .cancels, .tqs, .dqs, .cores, .cmbs, .engs, .poison] = true) hs_
  unfold execMonCmdReset
  repeat' with_reducible first
    | assumption
    | intro _
    | apply Kept.after_next
    | apply Kept.ite
    | apply State.monCmd_kept q0
    | apply State.directWrite_kept hs_
    | apply Kept.foldl
    | split
    | extract_lets

theorem execMonCmdUnlock_kept {ws : List Field} {s₀ s : State} (hs_ : Field.sub [.regs, .bar2, .out, .encs, .poss, .slots, .meters, .calibs, .mons, .ram, .hmem, .rings, .strms, .gates, .axes, .grps, .slotRings, .cueQs, .binFlags, .slates, .cancels, .tqs, .dqs, .cores, .cmbs, .engs, .poison] ws = true) (req site : Nat) (val : Word)
    (kh_ : Kept ws s₀ s) : Kept ws s₀ (after s (execMonCmdUnlock req site val s)) := by
  have q0 := Field.sub_trans (by decide : Field.sub [.regs, .bar2, .out, .mons] [.regs, .bar2, .out, .encs, .poss, .slots, .meters, .calibs, .mons, .ram, .hmem, .rings, .strms, .gates, .axes, .grps, .slotRings, .cueQs, .binFlags, .slates, .cancels, .tqs, .dqs, .cores, .cmbs, .engs, .poison] = true) hs_
  unfold execMonCmdUnlock
  repeat' with_reducible first
    | assumption
    | intro _
    | apply Kept.after_next
    | apply Kept.ite
    | apply State.monCmd_kept q0
    | apply State.directWrite_kept hs_
    | apply Kept.foldl
    | split
    | extract_lets

theorem execMonCmdCommit_kept {ws : List Field} {s₀ s : State} (hs_ : Field.sub [.regs, .bar2, .out, .encs, .poss, .slots, .meters, .calibs, .mons, .ram, .hmem, .rings, .strms, .gates, .axes, .grps, .slotRings, .cueQs, .binFlags, .slates, .cancels, .tqs, .dqs, .cores, .cmbs, .engs, .poison] ws = true) (req site : Nat) (val : Word)
    (kh_ : Kept ws s₀ s) : Kept ws s₀ (after s (execMonCmdCommit req site val s)) := by
  have q0 := Field.sub_trans (by decide : Field.sub [.regs, .bar2, .out, .mons] [.regs, .bar2, .out, .encs, .poss, .slots, .meters, .calibs, .mons, .ram, .hmem, .rings, .strms, .gates, .axes, .grps, .slotRings, .cueQs, .binFlags, .slates, .cancels, .tqs, .dqs, .cores, .cmbs, .engs, .poison] = true) hs_
  unfold execMonCmdCommit
  repeat' with_reducible first
    | assumption
    | intro _
    | apply Kept.after_next
    | apply Kept.ite
    | apply State.monCmd_kept q0
    | apply State.directWrite_kept hs_
    | apply Kept.foldl
    | split
    | extract_lets

theorem execMonCmdAbortCfg_kept {ws : List Field} {s₀ s : State} (hs_ : Field.sub [.regs, .bar2, .out, .encs, .poss, .slots, .meters, .calibs, .mons, .ram, .hmem, .rings, .strms, .gates, .axes, .grps, .slotRings, .cueQs, .binFlags, .slates, .cancels, .tqs, .dqs, .cores, .cmbs, .engs, .poison] ws = true) (req site : Nat) (val : Word)
    (kh_ : Kept ws s₀ s) : Kept ws s₀ (after s (execMonCmdAbortCfg req site val s)) := by
  have q0 := Field.sub_trans (by decide : Field.sub [.regs, .bar2, .out, .mons] [.regs, .bar2, .out, .encs, .poss, .slots, .meters, .calibs, .mons, .ram, .hmem, .rings, .strms, .gates, .axes, .grps, .slotRings, .cueQs, .binFlags, .slates, .cancels, .tqs, .dqs, .cores, .cmbs, .engs, .poison] = true) hs_
  unfold execMonCmdAbortCfg
  repeat' with_reducible first
    | assumption
    | intro _
    | apply Kept.after_next
    | apply Kept.ite
    | apply State.monCmd_kept q0
    | apply State.directWrite_kept hs_
    | apply Kept.foldl
    | split
    | extract_lets

theorem execPcCmdStop_kept {ws : List Field} {s₀ s : State} (hs_ : Field.sub [.regs, .bar2, .out, .encs, .poss, .slots, .meters, .calibs, .mons, .ram, .hmem, .rings, .strms, .gates, .axes, .grps, .slotRings, .cueQs, .binFlags, .slates, .cancels, .tqs, .dqs, .cores, .cmbs, .engs, .poison] ws = true) (req site g : Nat) (val : Word)
    (kh_ : Kept ws s₀ s) : Kept ws s₀ (after s (execPcCmdStop req site g val s)) := by
  have q0 := Field.sub_trans (by decide : Field.sub [.regs, .bar2, .out, .poss, .ram, .hmem, .rings, .strms, .gates, .axes, .grps, .slotRings, .cueQs, .binFlags, .slates, .cancels, .dqs, .cores, .cmbs, .engs, .poison] [.regs, .bar2, .out, .encs, .poss, .slots, .meters, .calibs, .mons, .ram, .hmem, .rings, .strms, .gates, .axes, .grps, .slotRings, .cueQs, .binFlags, .slates, .cancels, .tqs, .dqs, .cores, .cmbs, .engs, .poison] = true) hs_
  unfold execPcCmdStop
  repeat' with_reducible first
    | assumption
    | intro _
    | apply Kept.after_next
    | apply Kept.ite
    | apply State.pcCmd_kept q0
    | apply State.directWrite_kept hs_
    | apply Kept.foldl
    | split
    | extract_lets

theorem execPcCmdResume_kept {ws : List Field} {s₀ s : State} (hs_ : Field.sub [.regs, .bar2, .out, .encs, .poss, .slots, .meters, .calibs, .mons, .ram, .hmem, .rings, .strms, .gates, .axes, .grps, .slotRings, .cueQs, .binFlags, .slates, .cancels, .tqs, .dqs, .cores, .cmbs, .engs, .poison] ws = true) (req site g : Nat) (val : Word)
    (kh_ : Kept ws s₀ s) : Kept ws s₀ (after s (execPcCmdResume req site g val s)) := by
  have q0 := Field.sub_trans (by decide : Field.sub [.regs, .bar2, .out, .poss, .ram, .hmem, .rings, .strms, .gates, .axes, .grps, .slotRings, .cueQs, .binFlags, .slates, .cancels, .dqs, .cores, .cmbs, .engs, .poison] [.regs, .bar2, .out, .encs, .poss, .slots, .meters, .calibs, .mons, .ram, .hmem, .rings, .strms, .gates, .axes, .grps, .slotRings, .cueQs, .binFlags, .slates, .cancels, .tqs, .dqs, .cores, .cmbs, .engs, .poison] = true) hs_
  unfold execPcCmdResume
  repeat' with_reducible first
    | assumption
    | intro _
    | apply Kept.after_next
    | apply Kept.ite
    | apply State.pcCmd_kept q0
    | apply State.directWrite_kept hs_
    | apply Kept.foldl
    | split
    | extract_lets

theorem execPcCmdSkip_kept {ws : List Field} {s₀ s : State} (hs_ : Field.sub [.regs, .bar2, .out, .encs, .poss, .slots, .meters, .calibs, .mons, .ram, .hmem, .rings, .strms, .gates, .axes, .grps, .slotRings, .cueQs, .binFlags, .slates, .cancels, .tqs, .dqs, .cores, .cmbs, .engs, .poison] ws = true) (req site g : Nat) (val : Word)
    (kh_ : Kept ws s₀ s) : Kept ws s₀ (after s (execPcCmdSkip req site g val s)) := by
  have q0 := Field.sub_trans (by decide : Field.sub [.regs, .bar2, .out, .poss, .ram, .hmem, .rings, .strms, .gates, .axes, .grps, .slotRings, .cueQs, .binFlags, .slates, .cancels, .dqs, .cores, .cmbs, .engs, .poison] [.regs, .bar2, .out, .encs, .poss, .slots, .meters, .calibs, .mons, .ram, .hmem, .rings, .strms, .gates, .axes, .grps, .slotRings, .cueQs, .binFlags, .slates, .cancels, .tqs, .dqs, .cores, .cmbs, .engs, .poison] = true) hs_
  unfold execPcCmdSkip
  repeat' with_reducible first
    | assumption
    | intro _
    | apply Kept.after_next
    | apply Kept.ite
    | apply State.pcCmd_kept q0
    | apply State.directWrite_kept hs_
    | apply Kept.foldl
    | split
    | extract_lets

theorem execEvtRawClear_kept {ws : List Field} {s₀ s : State} (hs_ : Field.sub [.regs, .bar2, .out, .encs, .poss, .slots, .meters, .calibs, .mons, .ram, .hmem, .rings, .strms, .gates, .axes, .grps, .slotRings, .cueQs, .binFlags, .slates, .cancels, .tqs, .dqs, .cores, .cmbs, .engs, .poison] ws = true) (req site blk : Nat) (mask recur : Word)
    (kh_ : Kept ws s₀ s) : Kept ws s₀ (after s (execEvtRawClear req site blk mask recur s)) := by
  have q0 := Field.sub_trans (by decide : Field.sub [.regs] [.regs, .bar2, .out, .encs, .poss, .slots, .meters, .calibs, .mons, .ram, .hmem, .rings, .strms, .gates, .axes, .grps, .slotRings, .cueQs, .binFlags, .slates, .cancels, .tqs, .dqs, .cores, .cmbs, .engs, .poison] = true) hs_
  have q1 := Field.sub_trans (by decide : Field.sub [.regs, .bar2, .out] [.regs, .bar2, .out, .encs, .poss, .slots, .meters, .calibs, .mons, .ram, .hmem, .rings, .strms, .gates, .axes, .grps, .slotRings, .cueQs, .binFlags, .slates, .cancels, .tqs, .dqs, .cores, .cmbs, .engs, .poison] = true) hs_
  unfold execEvtRawClear
  repeat' with_reducible first
    | assumption
    | intro _
    | apply Kept.after_next
    | apply Kept.ite
    | apply State.evtClear_kept q0
    | apply State.gateWrite_kept q1
    | refine KeptO.of (State.gateWrite_kept q1 _ _ _ _ ?_) ‹_›
    | apply State.commitsFirst_kept hs_
    | apply Kept.foldl
    | split
    | extract_lets

theorem execFaultCodeClear_kept {ws : List Field} {s₀ s : State} (hs_ : Field.sub [.regs, .bar2, .out, .encs, .poss, .slots, .meters, .calibs, .mons, .ram, .hmem, .rings, .strms, .gates, .axes, .grps, .slotRings, .cueQs, .binFlags, .slates, .cancels, .tqs, .dqs, .cores, .cmbs, .engs, .poison] ws = true) (req site blk : Nat) (val : Word)
    (kh_ : Kept ws s₀ s) : Kept ws s₀ (after s (execFaultCodeClear req site blk val s)) := by
  have q0 := Field.sub_trans (by decide : Field.sub [.regs, .bar2, .out] [.regs, .bar2, .out, .encs, .poss, .slots, .meters, .calibs, .mons, .ram, .hmem, .rings, .strms, .gates, .axes, .grps, .slotRings, .cueQs, .binFlags, .slates, .cancels, .tqs, .dqs, .cores, .cmbs, .engs, .poison] = true) hs_
  unfold execFaultCodeClear
  repeat' with_reducible first
    | assumption
    | intro _
    | apply Kept.after_next
    | apply Kept.ite
    | apply State.faultClear_kept q0
    | apply State.gateWrite_kept q0
    | refine KeptO.of (State.gateWrite_kept q0 _ _ _ _ ?_) ‹_›
    | apply State.commitsFirst_kept hs_
    | apply Kept.foldl
    | split
    | extract_lets

theorem State.txnWrite_kept {ws : List Field} {s₀ s : State} (hs_ : Field.sub [.regs, .bar2, .out, .encs, .poss, .slots, .groups, .order, .meters, .calibs, .mons, .ram, .hmem, .rings, .strms, .gates, .axes, .grps, .slotRings, .cueQs, .binFlags, .slates, .cancels, .tqs, .dqs, .cores, .cmbs, .engs, .poison] ws = true) (req site blk : Nat) (val : Word)
    (kh_ : Kept ws s₀ s) : Kept ws s₀ (State.txnWrite s req site blk val) := by
  have q0 := Field.sub_trans (by decide : Field.sub [.regs, .bar2, .out] [.regs, .bar2, .out, .encs, .poss, .slots, .groups, .order, .meters, .calibs, .mons, .ram, .hmem, .rings, .strms, .gates, .axes, .grps, .slotRings, .cueQs, .binFlags, .slates, .cancels, .tqs, .dqs, .cores, .cmbs, .engs, .poison] = true) hs_
  have q1 := Field.sub_trans (by decide : Field.sub [.regs, .bar2, .out, .encs, .poss, .slots, .meters, .calibs, .mons, .ram, .hmem, .rings, .strms, .gates, .axes, .grps, .slotRings, .cueQs, .binFlags, .slates, .cancels, .tqs, .dqs, .cores, .cmbs, .engs, .poison] [.regs, .bar2, .out, .encs, .poss, .slots, .groups, .order, .meters, .calibs, .mons, .ram, .hmem, .rings, .strms, .gates, .axes, .grps, .slotRings, .cueQs, .binFlags, .slates, .cancels, .tqs, .dqs, .cores, .cmbs, .engs, .poison] = true) hs_
  have q2 := Field.sub_trans (by decide : Field.sub [.regs, .bar2, .out, .slots, .groups, .order] [.regs, .bar2, .out, .encs, .poss, .slots, .groups, .order, .meters, .calibs, .mons, .ram, .hmem, .rings, .strms, .gates, .axes, .grps, .slotRings, .cueQs, .binFlags, .slates, .cancels, .tqs, .dqs, .cores, .cmbs, .engs, .poison] = true) hs_
  unfold State.txnWrite
  repeat' with_reducible first
    | assumption
    | intro _
    | apply Kept.ite
    | apply State.gateWrite_kept q0
    | refine KeptO.of (State.gateWrite_kept q0 _ _ _ _ ?_) ‹_›
    | apply State.commitsFirst_kept q1
    | apply State.txnRule_kept q2
    | apply Kept.foldl
    | split
    | extract_lets

theorem execTxnOpen_kept {ws : List Field} {s₀ s : State} (hs_ : Field.sub [.regs, .bar2, .out, .encs, .poss, .slots, .groups, .order, .meters, .calibs, .mons, .ram, .hmem, .rings, .strms, .gates, .axes, .grps, .slotRings, .cueQs, .binFlags, .slates, .cancels, .tqs, .dqs, .cores, .cmbs, .engs, .poison] ws = true) (req site blk : Nat) (val : Word)
    (kh_ : Kept ws s₀ s) : Kept ws s₀ (after s (execTxnOpen req site blk val s)) := by
  unfold execTxnOpen
  repeat' with_reducible first
    | assumption
    | intro _
    | apply Kept.after_next
    | apply Kept.ite
    | apply State.txnWrite_kept hs_
    | apply Kept.foldl
    | split
    | extract_lets

theorem execTxnCommit_kept {ws : List Field} {s₀ s : State} (hs_ : Field.sub [.regs, .bar2, .out, .encs, .poss, .slots, .groups, .order, .meters, .calibs, .mons, .ram, .hmem, .rings, .strms, .gates, .axes, .grps, .slotRings, .cueQs, .binFlags, .slates, .cancels, .tqs, .dqs, .cores, .cmbs, .engs, .poison] ws = true) (req site blk : Nat) (val : Word)
    (kh_ : Kept ws s₀ s) : Kept ws s₀ (after s (execTxnCommit req site blk val s)) := by
  unfold execTxnCommit
  repeat' with_reducible first
    | assumption
    | intro _
    | apply Kept.after_next
    | apply Kept.ite
    | apply State.txnWrite_kept hs_
    | apply Kept.foldl
    | split
    | extract_lets

theorem execTxnAbort_kept {ws : List Field} {s₀ s : State} (hs_ : Field.sub [.regs, .bar2, .out, .encs, .poss, .slots, .groups, .order, .meters, .calibs, .mons, .ram, .hmem, .rings, .strms, .gates, .axes, .grps, .slotRings, .cueQs, .binFlags, .slates, .cancels, .tqs, .dqs, .cores, .cmbs, .engs, .poison] ws = true) (req site blk : Nat) (val : Word)
    (kh_ : Kept ws s₀ s) : Kept ws s₀ (after s (execTxnAbort req site blk val s)) := by
  unfold execTxnAbort
  repeat' with_reducible first
    | assumption
    | intro _
    | apply Kept.after_next
    | apply Kept.ite
    | apply State.txnWrite_kept hs_
    | apply Kept.foldl
    | split
    | extract_lets

end Sys2Proof.Machine
end

