-- ==== Sys2Proof/Laws/KIdle.lean ====
section
/-!
SUPPORT. Laws/KIdle.lean: what each operation of Machine/Idle.lean may change, and that it keeps the canonical form.
-/
namespace Sys2Proof.Machine

theorem State.idleClapper_kept {ws : List Field} {s₀ s : State} (hs_ : Field.sub [.clapper] ws = true)
    (kh_ : Kept ws s₀ s) : Kept ws s₀ (State.idleClapper s) := by
  unfold State.idleClapper
  repeat' with_reducible first
    | assumption
    | intro _
    | apply Kept.ite
    | apply Kept.foldl
    | split
    | extract_lets
    | apply Kept.set_clapper _ hs_

theorem State.idleTicks_kept {ws : List Field} {s₀ s : State} (hs_ : Field.sub [.regs, .bar2, .out, .ticks, .ram, .hmem, .rings, .strms, .axes, .grps, .slotRings, .cueQs, .binFlags, .slates, .cancels, .dqs, .cores, .cmbs, .engs, .poison] ws = true)
    (kh_ : Kept ws s₀ s) : Kept ws s₀ (State.idleTicks s) := by
  unfold State.idleTicks
  repeat' with_reducible first
    | assumption
    | intro _
    | apply Kept.ite
    | apply State.tickDie_kept hs_
    | apply Kept.foldl
    | split
    | extract_lets

theorem State.idlePps_kept {ws : List Field} {s₀ s : State} (hs_ : Field.sub [.out, .clk] ws = true)
    (kh_ : Kept ws s₀ s) : Kept ws s₀ (State.idlePps s) := by
  have q0 := Field.sub_trans (by decide : Field.sub [.out] [.out, .clk] = true) hs_
  have q1 := Field.sub_trans (by decide : Field.sub [.clk] [.out, .clk] = true) hs_
  unfold State.idlePps
  extract_lets -merge _
  repeat' with_reducible first
    | assumption
    | intro _
    | apply Kept.ite
    | apply State.emit_kept q0
    | apply State.setClk_kept q1
    | apply Kept.foldl
    | split
    | extract_lets

theorem State.idleHoldover_kept {ws : List Field} {s₀ s : State} (hs_ : Field.sub [.regs] ws = true)
    (kh_ : Kept ws s₀ s) : Kept ws s₀ (State.idleHoldover s) := by
  unfold State.idleHoldover
  repeat' with_reducible first
    | assumption
    | intro _
    | apply Kept.ite
    | apply State.putFld_kept hs_
    | apply Kept.foldl
    | split
    | extract_lets

theorem State.idleVolts_kept {ws : List Field} {s₀ s : State} (hs_ : Field.sub [.regs] ws = true)
    (kh_ : Kept ws s₀ s) : Kept ws s₀ (State.idleVolts s) := by
  unfold State.idleVolts
  repeat' with_reducible first
    | assumption
    | intro _
    | apply Kept.ite
    | apply State.setNat_kept hs_
    | apply Kept.foldl
    | split
    | extract_lets

theorem State.idleReset_kept {ws : List Field} {s₀ s : State} (hs_ : Field.sub [.asm, .lead, .regs, .latch, .rdata, .rdataHi, .back, .bar2, .out, .now, .clapper, .clk, .sup, .fios, .ticks, .encs, .poss, .cevs, .segArms, .slots, .groups, .order, .meters, .calibs, .gaffer, .tenants, .sec, .ens, .ports, .mons, .boot, .ram, .hmem, .badCpl, .mute, .flash, .weak, .loads, .restarts, .rings, .strms, .gates, .axes, .grps, .slotRings, .cueQs, .binFlags, .slates, .gens, .cancels, .tqs, .sched, .dqs, .cores, .cmbs, .engs, .mmus, .grans, .granBusy, .poison, .buckets, .arbs, .capQs, .avs, .bndTaken, .ces, .scrubs, .free, .pending] ws = true)
    (kh_ : Kept ws s₀ s) : Kept ws s₀ (State.idleReset s) := by
  unfold State.idleReset
  repeat' with_reducible first
    | assumption
    | intro _
    | apply Kept.ite
    | apply State.packageReset_kept hs_
    | apply Kept.foldl
    | split
    | extract_lets

theorem State.idleHeld_kept {ws : List Field} {s₀ s : State} (hs_ : Field.sub [.sup, .free] ws = true) (n : Nat)
    (kh_ : Kept ws s₀ s) : Kept ws s₀ (State.idleHeld s n) := by
  have q0 := Field.sub_trans (by decide : Field.sub [.sup] [.sup, .free] = true) hs_
  have q1 := Field.sub_trans (by decide : Field.sub [.free] [.sup, .free] = true) hs_
  unfold State.idleHeld
  repeat' with_reducible first
    | assumption
    | intro _
    | apply Kept.ite
    | apply Kept.foldl
    | split
    | extract_lets
    | apply State.draw_kept q1
    | apply Kept.set_sup _ q0

theorem State.idle_kept {ws : List Field} {s₀ s : State} (hs_ : Field.sub [.asm, .lead, .regs, .latch, .rdata, .rdataHi, .back, .bar2, .out, .now, .clapper, .clk, .sup, .fios, .ticks, .encs, .poss, .cevs, .segArms, .slots, .groups, .order, .meters, .calibs, .gaffer, .tenants, .sec, .ens, .ports, .mons, .boot, .ram, .hmem, .badCpl, .mute, .flash, .weak, .loads, .restarts, .rings, .strms, .gates, .axes, .grps, .slotRings, .cueQs, .binFlags, .slates, .gens, .cancels, .tqs, .sched, .dqs, .cores, .cmbs, .engs, .mmus, .grans, .granBusy, .poison, .buckets, .arbs, .capQs, .avs, .bndTaken, .ces, .scrubs, .free, .pending] ws = true)
    (kh_ : Kept ws s₀ s) : Kept ws s₀ (State.idle s) := by
  have q0 := Field.sub_trans (by decide : Field.sub [.regs, .bar2, .out, .gaffer, .dqs, .cores, .buckets] [.asm, .lead, .regs, .latch, .rdata, .rdataHi, .back, .bar2, .out, .now, .clapper, .clk, .sup, .fios, .ticks, .encs, .poss, .cevs, .segArms, .slots, .groups, .order, .meters, .calibs, .gaffer, .tenants, .sec, .ens, .ports, .mons, .boot, .ram, .hmem, .badCpl, .mute, .flash, .weak, .loads, .restarts, .rings, .strms, .gates, .axes, .grps, .slotRings, .cueQs, .binFlags, .slates, .gens, .cancels, .tqs, .sched, .dqs, .cores, .cmbs, .engs, .mmus, .grans, .granBusy, .poison, .buckets, .arbs, .capQs, .avs, .bndTaken, .ces, .scrubs, .free, .pending] = true) hs_
  have q1 := Field.sub_trans (by decide : Field.sub [.sup, .free] [.asm, .lead, .regs, .latch, .rdata, .rdataHi, .back, .bar2, .out, .now, .clapper, .clk, .sup, .fios, .ticks, .encs, .poss, .cevs, .segArms, .slots, .groups, .order, .meters, .calibs, .gaffer, .tenants, .sec, .ens, .ports, .mons, .boot, .ram, .hmem, .badCpl, .mute, .flash, .weak, .loads, .restarts, .rings, .strms, .gates, .axes, .grps, .slotRings, .cueQs, .binFlags, .slates, .gens, .cancels, .tqs, .sched, .dqs, .cores, .cmbs, .engs, .mmus, .grans, .granBusy, .poison, .buckets, .arbs, .capQs, .avs, .bndTaken, .ces, .scrubs, .free, .pending] = true) hs_
  have q2 := Field.sub_trans (by decide : Field.sub [.regs] [.asm, .lead, .regs, .latch, .rdata, .rdataHi, .back, .bar2, .out, .now, .clapper, .clk, .sup, .fios, .ticks, .encs, .poss, .cevs, .segArms, .slots, .groups, .order, .meters, .calibs, .gaffer, .tenants, .sec, .ens, .ports, .mons, .boot, .ram, .hmem, .badCpl, .mute, .flash, .weak, .loads, .restarts, .rings, .strms, .gates, .axes, .grps, .slotRings, .cueQs, .binFlags, .slates, .gens, .cancels, .tqs, .sched, .dqs, .cores, .cmbs, .engs, .mmus, .grans, .granBusy, .poison, .buckets, .arbs, .capQs, .avs, .bndTaken, .ces, .scrubs, .free, .pending] = true) hs_
  have q3 := Field.sub_trans (by decide : Field.sub [.out, .clk] [.asm, .lead, .regs, .latch, .rdata, .rdataHi, .back, .bar2, .out, .now, .clapper, .clk, .sup, .fios, .ticks, .encs, .poss, .cevs, .segArms, .slots, .groups, .order, .meters, .calibs, .gaffer, .tenants, .sec, .ens, .ports, .mons, .boot, .ram, .hmem, .badCpl, .mute, .flash, .weak, .loads, .restarts, .rings, .strms, .gates, .axes, .grps, .slotRings, .cueQs, .binFlags, .slates, .gens, .cancels, .tqs, .sched, .dqs, .cores, .cmbs, .engs, .mmus, .grans, .granBusy, .poison, .buckets, .arbs, .capQs, .avs, .bndTaken, .ces, .scrubs, .free, .pending] = true) hs_
  have q4 := Field.sub_trans (by decide : Field.sub [.regs, .bar2, .out, .ticks, .ram, .hmem, .rings, .strms, .axes, .grps, .slotRings, .cueQs, .binFlags, .slates, .cancels, .dqs, .cores, .cmbs, .engs, .poison] [.asm, .lead, .regs, .latch, .rdata, .rdataHi, .back, .bar2, .out, .now, .clapper, .clk, .sup, .fios, .ticks, .encs, .poss, .cevs, .segArms, .slots, .groups, .order, .meters, .calibs, .gaffer, .tenants, .sec, .ens, .ports, .mons, .boot, .ram, .hmem, .badCpl, .mute, .flash, .weak, .loads, .restarts, .rings, .strms, .gates, .axes, .grps, .slotRings, .cueQs, .binFlags, .slates, .gens, .cancels, .tqs, .sched, .dqs, .cores, .cmbs, .engs, .mmus, .grans, .granBusy, .poison, .buckets, .arbs, .capQs, .avs, .bndTaken, .ces, .scrubs, .free, .pending] = true) hs_
  have q5 := Field.sub_trans (by decide : Field.sub [.clapper] [.asm, .lead, .regs, .latch, .rdata, .rdataHi, .back, .bar2, .out, .now, .clapper, .clk, .sup, .fios, .ticks, .encs, .poss, .cevs, .segArms, .slots, .groups, .order, .meters, .calibs, .gaffer, .tenants, .sec, .ens, .ports, .mons, .boot, .ram, .hmem, .badCpl, .mute, .flash, .weak, .loads, .restarts, .rings, .strms, .gates, .axes, .grps, .slotRings, .cueQs, .binFlags, .slates, .gens, .cancels, .tqs, .sched, .dqs, .cores, .cmbs, .engs, .mmus, .grans, .granBusy, .poison, .buckets, .arbs, .capQs, .avs, .bndTaken, .ces, .scrubs, .free, .pending] = true) hs_
  have q6 := Field.sub_trans (by decide : Field.sub [.now] [.asm, .lead, .regs, .latch, .rdata, .rdataHi, .back, .bar2, .out, .now, .clapper, .clk, .sup, .fios, .ticks, .encs, .poss, .cevs, .segArms, .slots, .groups, .order, .meters, .calibs, .gaffer, .tenants, .sec, .ens, .ports, .mons, .boot, .ram, .hmem, .badCpl, .mute, .flash, .weak, .loads, .restarts, .rings, .strms, .gates, .axes, .grps, .slotRings, .cueQs, .binFlags, .slates, .gens, .cancels, .tqs, .sched, .dqs, .cores, .cmbs, .engs, .mmus, .grans, .granBusy, .poison, .buckets, .arbs, .capQs, .avs, .bndTaken, .ces, .scrubs, .free, .pending] = true) hs_
  unfold State.idle
  repeat' with_reducible first
    | assumption
    | intro _
    | apply Kept.ite
    | apply State.raiseClocks_kept q0
    | apply State.idleHeld_kept q1
    | apply State.idleReset_kept hs_
    | apply State.idleVolts_kept q2
    | apply State.idleHoldover_kept q2
    | apply State.idlePps_kept q3
    | apply State.idleTicks_kept q4
    | apply State.idleClapper_kept q5
    | apply Kept.foldl
    | split
    | extract_lets
    | apply Kept.set_now _ q6

end Sys2Proof.Machine
end

