-- ==== Sys2Proof/Laws/KLoader.lean ====
section
/-!
SUPPORT. Laws/KLoader.lean: what each operation of Machine/Loader.lean may change, and that it keeps the canonical form.
-/
namespace Sys2Proof.Machine

theorem State.giveEng_kept {ws : List Field} {s₀ s : State} (hs_ : Field.sub [.regs, .bar2, .out, .engs] ws = true) (t handle g site e : Nat) (job : List Byte)
    (kh_ : Kept ws s₀ s) : Kept ws s₀ (State.giveEng s t handle g site e job) := by
  have q0 := Field.sub_trans (by decide : Field.sub [.regs, .bar2, .out] [.regs, .bar2, .out, .engs] = true) hs_
  have q1 := Field.sub_trans (by decide : Field.sub [.regs] [.regs, .bar2, .out, .engs] = true) hs_
  have q2 := Field.sub_trans (by decide : Field.sub [.engs] [.regs, .bar2, .out, .engs] = true) hs_
  unfold State.giveEng
  extract_lets -merge p x s1 s2
  clear_value p x
  have k_s1 : Kept ws s₀ s1 := by
    unfold s1
    repeat' with_reducible first
      | assumption
      | intro _
      | apply Kept.ite
      | apply State.setSt_kept q0
      | apply State.setNat_kept q1
      | apply State.putBit_kept q1
      | apply State.setEng_kept q2
      | apply Kept.foldl
      | split
      | extract_lets
  clear_value s1
  have k_s2 : Kept ws s₀ s2 := by
    unfold s2
    repeat' with_reducible first
      | assumption
      | intro _
      | apply Kept.ite
      | apply State.setSt_kept q0
      | apply State.setNat_kept q1
      | apply State.putBit_kept q1
      | apply State.setEng_kept q2
      | apply Kept.foldl
      | split
      | extract_lets
  clear_value s2
  repeat' with_reducible first
    | assumption
    | intro _
    | apply Kept.ite
    | apply State.setSt_kept q0
    | apply State.setNat_kept q1
    | apply State.putBit_kept q1
    | apply State.setEng_kept q2
    | apply Kept.foldl
    | split
    | extract_lets

theorem State.showDest_kept {ws : List Field} {s₀ s : State} (hs_ : Field.sub [.regs, .bar2, .out, .strms] ws = true) (stream : Nat)
    (kh_ : Kept ws s₀ s) : Kept ws s₀ (State.showDest s stream) := by
  have q0 := Field.sub_trans (by decide : Field.sub [.regs, .bar2, .out] [.regs, .bar2, .out, .strms] = true) hs_
  have q1 := Field.sub_trans (by decide : Field.sub [.strms] [.regs, .bar2, .out, .strms] = true) hs_
  unfold State.showDest
  extract_lets -merge site k ls r _ s1 s2
  clear_value site k ls r
  have k_s1 : Kept ws s₀ s1 := by
    unfold s1
    repeat' with_reducible first
      | assumption
      | intro _
      | apply Kept.ite
      | apply State.attachPass_kept q0
      | apply State.detach_kept q0
      | apply State.attach_kept q0
      | apply State.setStrm_kept q1
      | apply Kept.foldl
      | split
      | extract_lets
  clear_value s1
  have k_s2 : Kept ws s₀ s2 := by
    unfold s2
    repeat' with_reducible first
      | assumption
      | intro _
      | apply Kept.ite
      | apply State.attachPass_kept q0
      | apply State.detach_kept q0
      | apply State.attach_kept q0
      | apply State.setStrm_kept q1
      | apply Kept.foldl
      | split
      | extract_lets
  clear_value s2
  repeat' with_reducible first
    | assumption
    | intro _
    | apply Kept.ite
    | apply State.attachPass_kept q0
    | apply State.detach_kept q0
    | apply State.attach_kept q0
    | apply State.setStrm_kept q1
    | apply Kept.foldl
    | split
    | extract_lets

theorem State.admitSlate_kept {ws : List Field} {s₀ s : State} (hs_ : Field.sub [.regs, .bar2, .out, .tenants, .sec, .strms, .slates, .gens, .engs] ws = true) (t : Nat) (c : List Byte) (stream floor rmax lineBytes : Nat) (ps : List Placed)
    (kh_ : Kept ws s₀ s) : Kept ws s₀ (State.admitSlate s t c stream floor rmax lineBytes ps).2 := by
  have q0 := Field.sub_trans (by decide : Field.sub [.regs] [.regs, .bar2, .out, .tenants, .sec, .strms, .slates, .gens, .engs] = true) hs_
  have q1 := Field.sub_trans (by decide : Field.sub [.regs, .tenants, .sec] [.regs, .bar2, .out, .tenants, .sec, .strms, .slates, .gens, .engs] = true) hs_
  have q2 := Field.sub_trans (by decide : Field.sub [.regs, .bar2, .out, .strms] [.regs, .bar2, .out, .tenants, .sec, .strms, .slates, .gens, .engs] = true) hs_
  have q3 := Field.sub_trans (by decide : Field.sub [.regs, .bar2, .out, .engs] [.regs, .bar2, .out, .tenants, .sec, .strms, .slates, .gens, .engs] = true) hs_
  have q4 := Field.sub_trans (by decide : Field.sub [.slates] [.regs, .bar2, .out, .tenants, .sec, .strms, .slates, .gens, .engs] = true) hs_
  have q5 := Field.sub_trans (by decide : Field.sub [.gens] [.regs, .bar2, .out, .tenants, .sec, .strms, .slates, .gens, .engs] = true) hs_
  unfold State.admitSlate
  extract_lets -merge idx gen handle st cores engs w x s1 s2 s3 s4
  clear_value idx gen handle st cores engs w x
  have k_s1 : Kept ws s₀ s1 := by
    unfold s1
    repeat' with_reducible first
      | assumption
      | intro _
      | apply Kept.ite
      | apply State.showPower_kept q0
      | apply State.needKey_kept q1
      | apply State.showDest_kept q2
      | apply State.giveEng_kept q3
      | apply State.setSlate_kept q4
      | apply State.showAdmit_kept q0
      | apply Kept.foldl
      | split
      | extract_lets
      | apply Kept.set_gens _ q5
  clear_value s1
  have k_s2 : Kept ws s₀ s2 := by
    unfold s2
    repeat' with_reducible first
      | assumption
      | intro _
      | apply Kept.ite
      | apply State.showPower_kept q0
      | apply State.needKey_kept q1
      | apply State.showDest_kept q2
      | apply State.giveEng_kept q3
      | apply State.setSlate_kept q4
      | apply State.showAdmit_kept q0
      | apply Kept.foldl
      | split
      | extract_lets
      | apply Kept.set_gens _ q5
  clear_value s2
  have k_s3 : Kept ws s₀ s3 := by
    unfold s3
    repeat' with_reducible first
      | assumption
      | intro _
      | apply Kept.ite
      | apply State.showPower_kept q0
      | apply State.needKey_kept q1
      | apply State.showDest_kept q2
      | apply State.giveEng_kept q3
      | apply State.setSlate_kept q4
      | apply State.showAdmit_kept q0
      | apply Kept.foldl
      | split
      | extract_lets
      | apply Kept.set_gens _ q5
  clear_value s3
  have k_s4 : Kept ws s₀ s4 := by
    unfold s4
    repeat' with_reducible first
      | assumption
      | intro _
      | apply Kept.ite
      | apply State.showPower_kept q0
      | apply State.needKey_kept q1
      | apply State.showDest_kept q2
      | apply State.giveEng_kept q3
      | apply State.setSlate_kept q4
      | apply State.showAdmit_kept q0
      | apply Kept.foldl
      | split
      | extract_lets
      | apply Kept.set_gens _ q5
  clear_value s4
  repeat' with_reducible first
    | assumption
    | intro _
    | apply Kept.ite
    | apply State.showPower_kept q0
    | apply State.needKey_kept q1
    | apply State.showDest_kept q2
    | apply State.giveEng_kept q3
    | apply State.setSlate_kept q4
    | apply State.showAdmit_kept q0
    | apply Kept.foldl
    | split
    | extract_lets
    | apply Kept.set_gens _ q5

theorem execSlateLoad_kept {ws : List Field} {s₀ s : State} (hs_ : Field.sub [.regs, .bar2, .out, .tenants, .sec, .loads, .strms, .slates, .gens, .engs] ws = true) (t : Nat) (cont : List Byte)
    (kh_ : Kept ws s₀ s) : Kept ws s₀ (after s (execSlateLoad t cont s)) := by
  have q0 := Field.sub_trans (by decide : Field.sub [.regs, .bar2, .out] [.regs, .bar2, .out, .tenants, .sec, .loads, .strms, .slates, .gens, .engs] = true) hs_
  have q1 := Field.sub_trans (by decide : Field.sub [.regs, .bar2, .out, .tenants, .sec, .strms, .slates, .gens, .engs] [.regs, .bar2, .out, .tenants, .sec, .loads, .strms, .slates, .gens, .engs] = true) hs_
  have q2 := Field.sub_trans (by decide : Field.sub [.regs, .bar2, .out, .loads] [.regs, .bar2, .out, .tenants, .sec, .loads, .strms, .slates, .gens, .engs] = true) hs_
  unfold execSlateLoad
  repeat' with_reducible first
    | assumption
    | intro _
    | apply Kept.after_next
    | apply Kept.ite
    | apply State.evtIf_kept q0
    | apply State.admitSlate_kept q1
    | refine Kept.of_snd (State.admitSlate_kept q1 _ _ _ _ _ _ _ ?_) ‹_›
    | apply State.mbServe_kept q2
    | apply State.mbReply_kept q2
    | apply Kept.foldl
    | split
    | extract_lets

theorem State.unload_kept {ws : List Field} {s₀ s : State} (hs_ : Field.sub [.regs, .back, .bar2, .out, .tenants, .ram, .hmem, .strms, .slotRings, .cueQs, .binFlags, .slates, .dqs, .cores, .cmbs, .engs, .mmus, .poison, .bndTaken] ws = true) (x : Slate)
    (kh_ : Kept ws s₀ s) : Kept ws s₀ (State.unload s x) := by
  have q0 := Field.sub_trans (by decide : Field.sub [.regs] [.regs, .back, .bar2, .out, .tenants, .ram, .hmem, .strms, .slotRings, .cueQs, .binFlags, .slates, .dqs, .cores, .cmbs, .engs, .mmus, .poison, .bndTaken] = true) hs_
  have q1 := Field.sub_trans (by decide : Field.sub [.regs, .back, .bar2, .out, .ram, .hmem, .slotRings, .cueQs, .binFlags, .slates, .dqs, .cores, .cmbs, .engs, .mmus, .poison, .bndTaken] [.regs, .back, .bar2, .out, .tenants, .ram, .hmem, .strms, .slotRings, .cueQs, .binFlags, .slates, .dqs, .cores, .cmbs, .engs, .mmus, .poison, .bndTaken] = true) hs_
  have q2 := Field.sub_trans (by decide : Field.sub [.regs, .tenants] [.regs, .back, .bar2, .out, .tenants, .ram, .hmem, .strms, .slotRings, .cueQs, .binFlags, .slates, .dqs, .cores, .cmbs, .engs, .mmus, .poison, .bndTaken] = true) hs_
  have q3 := Field.sub_trans (by decide : Field.sub [.regs, .bar2, .out, .strms] [.regs, .back, .bar2, .out, .tenants, .ram, .hmem, .strms, .slotRings, .cueQs, .binFlags, .slates, .dqs, .cores, .cmbs, .engs, .mmus, .poison, .bndTaken] = true) hs_
  have q4 := Field.sub_trans (by decide : Field.sub [.regs, .strms] [.regs, .back, .bar2, .out, .tenants, .ram, .hmem, .strms, .slotRings, .cueQs, .binFlags, .slates, .dqs, .cores, .cmbs, .engs, .mmus, .poison, .bndTaken] = true) hs_
  have q5 := Field.sub_trans (by decide : Field.sub [.strms] [.regs, .back, .bar2, .out, .tenants, .ram, .hmem, .strms, .slotRings, .cueQs, .binFlags, .slates, .dqs, .cores, .cmbs, .engs, .mmus, .poison, .bndTaken] = true) hs_
  unfold State.unload
  extract_lets -merge s1 site k y bound s2 s2_1
  clear_value site k y bound
  have k_s1 : Kept ws s₀ s1 := by
    unfold s1
    repeat' with_reducible first
      | assumption
      | intro _
      | apply Kept.ite
      | apply State.showPower_kept q0
      | apply State.dropSlate_kept q1
      | apply State.showPipe_kept q0
      | apply State.memCheck_kept q2
      | apply State.showDest_kept q3
      | apply State.losePipe_kept q4
      | apply State.showAdmit_kept q0
      | apply State.setNat_kept q0
      | apply State.setStrm_kept q5
      | apply Kept.foldl
      | split
      | extract_lets
  clear_value s1
  have k_s2 : Kept ws s₀ s2 := by
    unfold s2
    repeat' with_reducible first
      | assumption
      | intro _
      | apply Kept.ite
      | apply State.showPower_kept q0
      | apply State.dropSlate_kept q1
      | apply State.showPipe_kept q0
      | apply State.memCheck_kept q2
      | apply State.showDest_kept q3
      | apply State.losePipe_kept q4
      | apply State.showAdmit_kept q0
      | apply State.setNat_kept q0
      | apply State.setStrm_kept q5
      | apply Kept.foldl
      | split
      | extract_lets
  clear_value s2
  have k_s2_1 : Kept ws s₀ s2_1 := by
    unfold s2_1
    repeat' with_reducible first
      | assumption
      | intro _
      | apply Kept.ite
      | apply State.showPower_kept q0
      | apply State.dropSlate_kept q1
      | apply State.showPipe_kept q0
      | apply State.memCheck_kept q2
      | apply State.showDest_kept q3
      | apply State.losePipe_kept q4
      | apply State.showAdmit_kept q0
      | apply State.setNat_kept q0
      | apply State.setStrm_kept q5
      | apply Kept.foldl
      | split
      | extract_lets
  clear_value s2_1
  repeat' with_reducible first
    | assumption
    | intro _
    | apply Kept.ite
    | apply State.showPower_kept q0
    | apply State.dropSlate_kept q1
    | apply State.showPipe_kept q0
    | apply State.memCheck_kept q2
    | apply State.showDest_kept q3
    | apply State.losePipe_kept q4
    | apply State.showAdmit_kept q0
    | apply State.setNat_kept q0
    | apply State.setStrm_kept q5
    | apply Kept.foldl
    | split
    | extract_lets

theorem execSlateUnload_kept {ws : List Field} {s₀ s : State} (hs_ : Field.sub [.regs, .back, .bar2, .out, .tenants, .ram, .hmem, .loads, .strms, .slotRings, .cueQs, .binFlags, .slates, .dqs, .cores, .cmbs, .engs, .mmus, .poison, .bndTaken] ws = true) (t : Nat)
    (kh_ : Kept ws s₀ s) : Kept ws s₀ (after s (execSlateUnload t s)) := by
  have q0 := Field.sub_trans (by decide : Field.sub [.regs, .back, .bar2, .out, .tenants, .ram, .hmem, .strms, .slotRings, .cueQs, .binFlags, .slates, .dqs, .cores, .cmbs, .engs, .mmus, .poison, .bndTaken] [.regs, .back, .bar2, .out, .tenants, .ram, .hmem, .loads, .strms, .slotRings, .cueQs, .binFlags, .slates, .dqs, .cores, .cmbs, .engs, .mmus, .poison, .bndTaken] = true) hs_
  have q1 := Field.sub_trans (by decide : Field.sub [.slates] [.regs, .back, .bar2, .out, .tenants, .ram, .hmem, .loads, .strms, .slotRings, .cueQs, .binFlags, .slates, .dqs, .cores, .cmbs, .engs, .mmus, .poison, .bndTaken] = true) hs_
  have q2 := Field.sub_trans (by decide : Field.sub [.regs, .bar2, .out, .loads] [.regs, .back, .bar2, .out, .tenants, .ram, .hmem, .loads, .strms, .slotRings, .cueQs, .binFlags, .slates, .dqs, .cores, .cmbs, .engs, .mmus, .poison, .bndTaken] = true) hs_
  unfold execSlateUnload
  repeat' with_reducible first
    | assumption
    | intro _
    | apply Kept.after_next
    | apply Kept.ite
    | apply State.unload_kept q0
    | apply State.setSlate_kept q1
    | apply State.mbServe_kept q2
    | apply State.mbReply_kept q2
    | apply Kept.foldl
    | split
    | extract_lets

theorem execUnloadComplete_kept {ws : List Field} {s₀ s : State} (hs_ : Field.sub [.regs, .back, .bar2, .out, .tenants, .ram, .hmem, .loads, .strms, .slotRings, .cueQs, .binFlags, .slates, .dqs, .cores, .cmbs, .engs, .mmus, .poison, .bndTaken] ws = true) (handle : Nat)
    (kh_ : Kept ws s₀ s) : Kept ws s₀ (after s (execUnloadComplete handle s)) := by
  have q0 := Field.sub_trans (by decide : Field.sub [.regs, .back, .bar2, .out, .tenants, .ram, .hmem, .strms, .slotRings, .cueQs, .binFlags, .slates, .dqs, .cores, .cmbs, .engs, .mmus, .poison, .bndTaken] [.regs, .back, .bar2, .out, .tenants, .ram, .hmem, .loads, .strms, .slotRings, .cueQs, .binFlags, .slates, .dqs, .cores, .cmbs, .engs, .mmus, .poison, .bndTaken] = true) hs_
  have q1 := Field.sub_trans (by decide : Field.sub [.regs, .bar2, .out, .loads] [.regs, .back, .bar2, .out, .tenants, .ram, .hmem, .loads, .strms, .slotRings, .cueQs, .binFlags, .slates, .dqs, .cores, .cmbs, .engs, .mmus, .poison, .bndTaken] = true) hs_
  unfold execUnloadComplete
  repeat' with_reducible first
    | assumption
    | intro _
    | apply Kept.after_next
    | apply Kept.ite
    | apply State.unload_kept q0
    | apply State.mbReply_kept q1
    | apply Kept.foldl
    | split
    | extract_lets

theorem execSlateQuery_kept {ws : List Field} {s₀ s : State} (hs_ : Field.sub [.regs, .bar2, .out, .loads] ws = true) (t : Nat)
    (kh_ : Kept ws s₀ s) : Kept ws s₀ (after s (execSlateQuery t s)) := by
  unfold execSlateQuery
  repeat' with_reducible first
    | assumption
    | intro _
    | apply Kept.after_next
    | apply Kept.ite
    | apply State.mbServe_kept hs_
    | apply State.mbReply_kept hs_
    | apply Kept.foldl
    | split
    | extract_lets

theorem execBoundRecord_kept {ws : List Field} {s₀ s : State} (hs_ : Field.sub [.regs, .bar2, .out, .loads] ws = true) (t : Nat)
    (kh_ : Kept ws s₀ s) : Kept ws s₀ (after s (execBoundRecord t s)) := by
  unfold execBoundRecord
  repeat' with_reducible first
    | assumption
    | intro _
    | apply Kept.after_next
    | apply Kept.ite
    | apply State.mbServe_kept hs_
    | apply State.mbReply_kept hs_
    | apply Kept.foldl
    | split
    | extract_lets

theorem execClearAll_kept {ws : List Field} {s₀ s : State} (hs_ : Field.sub [.regs, .bar2, .out] ws = true) (req site : Nat) (val : Word)
    (kh_ : Kept ws s₀ s) : Kept ws s₀ (after s (execClearAll req site val s)) := by
  have q0 := Field.sub_trans (by decide : Field.sub [.regs] [.regs, .bar2, .out] = true) hs_
  unfold execClearAll
  repeat' with_reducible first
    | assumption
    | intro _
    | apply Kept.after_next
    | apply Kept.ite
    | apply State.asWrite_kept hs_
    | apply State.setNat_kept q0
    | apply Kept.foldl
    | split
    | extract_lets

end Sys2Proof.Machine
end

