-- ==== Sys2Proof/Laws/KMovement.lean ====
section
/-!
SUPPORT. Laws/KMovement.lean: what each operation of Machine/Movement.lean may change, and that it keeps the canonical form.
-/
namespace Sys2Proof.Machine

theorem State.doneAction_kept {ws : List Field} {s₀ s : State} (hs_ : Field.sub [.regs, .back, .bar2, .out, .ram, .hmem, .slotRings, .cueQs, .binFlags, .slates, .cancels, .tqs, .sched, .dqs, .cores, .cmbs, .engs, .mmus, .poison, .bndTaken, .free] ws = true) (site c : Nat) (w : Work) (y : Slate) (loc : Nat) (d : Desc) (i : IDesc)
    (kh_ : Kept ws s₀ s) : KeptO ws s₀ (State.doneAction s site c w y loc d i) := by
  have q0 := Field.sub_trans (by decide : Field.sub [.regs, .back, .bar2, .out, .ram, .hmem, .slotRings, .slates, .cancels, .tqs, .sched, .dqs, .cores, .cmbs, .engs, .mmus, .poison, .bndTaken, .free] [.regs, .back, .bar2, .out, .ram, .hmem, .slotRings, .cueQs, .binFlags, .slates, .cancels, .tqs, .sched, .dqs, .cores, .cmbs, .engs, .mmus, .poison, .bndTaken, .free] = true) hs_
  have q1 := Field.sub_trans (by decide : Field.sub [.binFlags] [.regs, .back, .bar2, .out, .ram, .hmem, .slotRings, .cueQs, .binFlags, .slates, .cancels, .tqs, .sched, .dqs, .cores, .cmbs, .engs, .mmus, .poison, .bndTaken, .free] = true) hs_
  have q2 := Field.sub_trans (by decide : Field.sub [.cueQs] [.regs, .back, .bar2, .out, .ram, .hmem, .slotRings, .cueQs, .binFlags, .slates, .cancels, .tqs, .sched, .dqs, .cores, .cmbs, .engs, .mmus, .poison, .bndTaken, .free] = true) hs_
  have q3 := Field.sub_trans (by decide : Field.sub [.regs, .slotRings] [.regs, .back, .bar2, .out, .ram, .hmem, .slotRings, .cueQs, .binFlags, .slates, .cancels, .tqs, .sched, .dqs, .cores, .cmbs, .engs, .mmus, .poison, .bndTaken, .free] = true) hs_
  unfold State.doneAction
  extract_lets -merge stale s1 s2 f q off len
  clear_value stale f q off len
  have k_s1 : Kept ws s₀ s1 := by
    unfold s1
    repeat' with_reducible first
      | assumption
      | intro _
      | apply KeptO.ite
      | apply KeptO.some
      | exact KeptO.none
      | apply Kept.ite
      | apply State.boundFault_kept q0
      | apply State.flagSet_kept q1
      | apply State.setCue_kept q2
      | apply State.release_kept q3
      | apply State.skipSlot_kept q3
      | apply State.publish_kept q3
      | apply Kept.foldl
      | split
      | extract_lets
  clear_value s1
  have k_s2 : Kept ws s₀ s2 := by
    unfold s2
    repeat' with_reducible first
      | assumption
      | intro _
      | apply KeptO.ite
      | apply KeptO.some
      | exact KeptO.none
      | apply Kept.ite
      | apply State.boundFault_kept q0
      | apply State.flagSet_kept q1
      | apply State.setCue_kept q2
      | apply State.release_kept q3
      | apply State.skipSlot_kept q3
      | apply State.publish_kept q3
      | apply Kept.foldl
      | split
      | extract_lets
  clear_value s2
  repeat' with_reducible first
    | assumption
    | intro _
    | apply KeptO.ite
    | apply KeptO.some
    | exact KeptO.none
    | apply Kept.ite
    | apply State.boundFault_kept q0
    | apply State.flagSet_kept q1
    | apply State.setCue_kept q2
    | apply State.release_kept q3
    | apply State.skipSlot_kept q3
    | apply State.publish_kept q3
    | apply Kept.foldl
    | split
    | extract_lets

theorem State.retireDescs_kept {ws : List Field} {s₀ : State} (hs_ : Field.sub [.regs, .back, .bar2, .out, .ram, .hmem, .slotRings, .cueQs, .binFlags, .slates, .cancels, .tqs, .sched, .dqs, .cores, .cmbs, .engs, .mmus, .poison, .bndTaken, .free] ws = true) (site c q : Nat) (wk : Work) (y : Slate) (loc : Nat) :
    ∀ (l : List IDesc) {s : State}, Kept ws s₀ s → Kept ws s₀ (s.retireDescs site c q wk y loc l) := by
  have q0 : Field.sub [.regs, .back, .bar2, .out, .ram, .hmem, .slotRings, .cueQs, .binFlags, .slates, .cancels, .tqs, .sched, .dqs, .cores, .cmbs, .engs, .mmus, .poison, .bndTaken, .free] ws = true := Field.sub_trans (by decide) hs_
  have q1 : Field.sub [.dqs] ws = true := Field.sub_trans (by decide) hs_
  intro l
  induction l with
  | nil => intro s h; exact h
  | cons i l ih =>
    intro s h
    simp only [State.retireDescs]
    split
    · split
      · exact h
      · next e =>
        have h1 := KeptO.of (State.doneAction_kept q0 _ _ _ _ _ _ _ h) e
        exact Kept.ite (ih (State.setDq_kept q1 _ _ _ _ h1)) h1
    · exact h

theorem State.onQueue_kept {ws : List Field} {s₀ s : State} (hs_ : Field.sub [] ws = true) (site c q : Nat) (k : Work → Slate → DQ → State) (h_k : ∀ t0 t1 t2, Kept ws s₀ (k t0 t1 t2))
    (kh_ : Kept ws s₀ s) : Kept ws s₀ (State.onQueue s site c q k) := by
  unfold State.onQueue
  extract_lets -merge d
  clear_value d
  repeat' with_reducible first
    | assumption
    | intro _
    | apply h_k
    | apply Kept.ite
    | apply Kept.foldl
    | split
    | extract_lets

theorem State.queueStop_kept {ws : List Field} {s₀ s : State} (hs_ : Field.sub [.regs, .back, .bar2, .out, .ram, .hmem, .slotRings, .slates, .cancels, .tqs, .sched, .dqs, .cores, .cmbs, .engs, .mmus, .poison] ws = true) (site c q : Nat) (w : Work) (kind ta : Nat) (write : Bool) (wk : Walk)
    (kh_ : Kept ws s₀ s) : Kept ws s₀ (State.queueStop s site c q w kind ta write wk) := by
  have q0 := Field.sub_trans (by decide : Field.sub [.regs] [.regs, .back, .bar2, .out, .ram, .hmem, .slotRings, .slates, .cancels, .tqs, .sched, .dqs, .cores, .cmbs, .engs, .mmus, .poison] = true) hs_
  have q1 := Field.sub_trans (by decide : Field.sub [.dqs] [.regs, .back, .bar2, .out, .ram, .hmem, .slotRings, .slates, .cancels, .tqs, .sched, .dqs, .cores, .cmbs, .engs, .mmus, .poison] = true) hs_
  unfold State.queueStop
  extract_lets -merge _ s1
  have k_s1 : Kept ws s₀ s1 := by
    unfold s1
    repeat' with_reducible first
      | assumption
      | intro _
      | apply Kept.ite
      | apply State.pageStop_kept hs_
      | apply State.showDq_kept q0
      | apply State.setDq_kept q1
      | apply Kept.foldl
      | split
      | extract_lets
  clear_value s1
  repeat' with_reducible first
    | assumption
    | intro _
    | apply Kept.ite
    | apply State.pageStop_kept hs_
    | apply State.showDq_kept q0
    | apply State.setDq_kept q1
    | apply Kept.foldl
    | split
    | extract_lets

theorem State.launch_kept {ws : List Field} {s₀ s : State} (hs_ : Field.sub [.regs, .bar2, .out, .dqs, .buckets, .capQs] ws = true) (site c q : Nat) (w : Work) (y : Slate) (i : IDesc) (bulk : Option Nat) (f : Xfer) (n rowBytes : Nat)
    (kh_ : Kept ws s₀ s) : Kept ws s₀ (State.launch s site c q w y i bulk f n rowBytes) := by
  have q0 := Field.sub_trans (by decide : Field.sub [.regs] [.regs, .bar2, .out, .dqs, .buckets, .capQs] = true) hs_
  have q1 := Field.sub_trans (by decide : Field.sub [.regs, .bar2, .out] [.regs, .bar2, .out, .dqs, .buckets, .capQs] = true) hs_
  have q2 := Field.sub_trans (by decide : Field.sub [.buckets] [.regs, .bar2, .out, .dqs, .buckets, .capQs] = true) hs_
  have q3 := Field.sub_trans (by decide : Field.sub [.regs, .dqs] [.regs, .bar2, .out, .dqs, .buckets, .capQs] = true) hs_
  have q4 := Field.sub_trans (by decide : Field.sub [.capQs] [.regs, .bar2, .out, .dqs, .buckets, .capQs] = true) hs_
  have q5 := Field.sub_trans (by decide : Field.sub [.dqs] [.regs, .bar2, .out, .dqs, .buckets, .capQs] = true) hs_
  unfold State.launch
  extract_lets -merge loc unit dq join j s1 s2 fs _ s3 s4
  clear_value loc unit dq join j fs
  have k_s1 : Kept ws s₀ s1 := by
    unfold s1
    repeat' with_reducible first
      | assumption
      | intro _
      | apply Kept.ite
      | apply State.showDq_kept q0
      | apply State.showInflight_kept q1
      | apply State.spend_kept q2
      | apply State.queueGo_kept q3
      | apply State.turnPlace_kept q4
      | apply State.waitPlace_kept q4
      | apply State.addSat_kept q0
      | apply State.setDq_kept q5
      | apply Kept.foldl
      | split
      | extract_lets
  clear_value s1
  have k_s2 : Kept ws s₀ s2 := by
    unfold s2
    repeat' with_reducible first
      | assumption
      | intro _
      | apply Kept.ite
      | apply State.showDq_kept q0
      | apply State.showInflight_kept q1
      | apply State.spend_kept q2
      | apply State.queueGo_kept q3
      | apply State.turnPlace_kept q4
      | apply State.waitPlace_kept q4
      | apply State.addSat_kept q0
      | apply State.setDq_kept q5
      | apply Kept.foldl
      | split
      | extract_lets
  clear_value s2
  have k_s3 : Kept ws s₀ s3 := by
    unfold s3
    repeat' with_reducible first
      | assumption
      | intro _
      | apply Kept.ite
      | apply State.showDq_kept q0
      | apply State.showInflight_kept q1
      | apply State.spend_kept q2
      | apply State.queueGo_kept q3
      | apply State.turnPlace_kept q4
      | apply State.waitPlace_kept q4
      | apply State.addSat_kept q0
      | apply State.setDq_kept q5
      | apply Kept.foldl
      | split
      | extract_lets
  clear_value s3
  have k_s4 : Kept ws s₀ s4 := by
    unfold s4
    repeat' with_reducible first
      | assumption
      | intro _
      | apply Kept.ite
      | apply State.showDq_kept q0
      | apply State.showInflight_kept q1
      | apply State.spend_kept q2
      | apply State.queueGo_kept q3
      | apply State.turnPlace_kept q4
      | apply State.waitPlace_kept q4
      | apply State.addSat_kept q0
      | apply State.setDq_kept q5
      | apply Kept.foldl
      | split
      | extract_lets
  clear_value s4
  repeat' with_reducible first
    | assumption
    | intro _
    | apply Kept.ite
    | apply State.showDq_kept q0
    | apply State.showInflight_kept q1
    | apply State.spend_kept q2
    | apply State.queueGo_kept q3
    | apply State.turnPlace_kept q4
    | apply State.waitPlace_kept q4
    | apply State.addSat_kept q0
    | apply State.setDq_kept q5
    | apply Kept.foldl
    | split
    | extract_lets

theorem State.bucketWait_kept {ws : List Field} {s₀ s : State} (hs_ : Field.sub [.dqs] ws = true) (site c q : Nat)
    (kh_ : Kept ws s₀ s) : Kept ws s₀ (State.bucketWait s site c q) := by
  unfold State.bucketWait
  extract_lets -merge dq
  clear_value dq
  repeat' with_reducible first
    | assumption
    | intro _
    | apply Kept.ite
    | apply State.setDq_kept hs_
    | apply Kept.foldl
    | split
    | extract_lets

theorem State.issue_kept {ws : List Field} {s₀ s : State} (hs_ : Field.sub [.regs, .back, .bar2, .out, .ram, .hmem, .slotRings, .cueQs, .binFlags, .slates, .cancels, .tqs, .sched, .dqs, .cores, .cmbs, .engs, .mmus, .poison, .buckets, .capQs, .bndTaken, .free] ws = true) (site c q : Nat) (w : Work) (y : Slate) (dq : DQ)
    (kh_ : Kept ws s₀ s) : Kept ws s₀ (State.issue s site c q w y dq) := by
  have q0 := Field.sub_trans (by decide : Field.sub [.regs, .back, .bar2, .out, .ram, .hmem, .slotRings, .slates, .cancels, .tqs, .sched, .dqs, .cores, .cmbs, .engs, .mmus, .poison, .bndTaken, .free] [.regs, .back, .bar2, .out, .ram, .hmem, .slotRings, .cueQs, .binFlags, .slates, .cancels, .tqs, .sched, .dqs, .cores, .cmbs, .engs, .mmus, .poison, .buckets, .capQs, .bndTaken, .free] = true) hs_
  have q1 := Field.sub_trans (by decide : Field.sub [.regs, .back, .bar2, .out, .ram, .hmem, .slotRings, .slates, .cancels, .tqs, .sched, .dqs, .cores, .cmbs, .engs, .mmus, .poison] [.regs, .back, .bar2, .out, .ram, .hmem, .slotRings, .cueQs, .binFlags, .slates, .cancels, .tqs, .sched, .dqs, .cores, .cmbs, .engs, .mmus, .poison, .buckets, .capQs, .bndTaken, .free] = true) hs_
  have q2 := Field.sub_trans (by decide : Field.sub [.dqs] [.regs, .back, .bar2, .out, .ram, .hmem, .slotRings, .cueQs, .binFlags, .slates, .cancels, .tqs, .sched, .dqs, .cores, .cmbs, .engs, .mmus, .poison, .buckets, .capQs, .bndTaken, .free] = true) hs_
  have q3 := Field.sub_trans (by decide : Field.sub [.regs] [.regs, .back, .bar2, .out, .ram, .hmem, .slotRings, .cueQs, .binFlags, .slates, .cancels, .tqs, .sched, .dqs, .cores, .cmbs, .engs, .mmus, .poison, .buckets, .capQs, .bndTaken, .free] = true) hs_
  have q4 := Field.sub_trans (by decide : Field.sub [.regs, .bar2, .out, .dqs, .buckets, .capQs] [.regs, .back, .bar2, .out, .ram, .hmem, .slotRings, .cueQs, .binFlags, .slates, .cancels, .tqs, .sched, .dqs, .cores, .cmbs, .engs, .mmus, .poison, .buckets, .capQs, .bndTaken, .free] = true) hs_
  have q5 := Field.sub_trans (by decide : Field.sub [.regs, .back, .bar2, .out, .ram, .hmem, .slotRings, .cueQs, .binFlags, .slates, .cancels, .tqs, .sched, .dqs, .cores, .cmbs, .engs, .mmus, .poison, .bndTaken, .free] [.regs, .back, .bar2, .out, .ram, .hmem, .slotRings, .cueQs, .binFlags, .slates, .cancels, .tqs, .sched, .dqs, .cores, .cmbs, .engs, .mmus, .poison, .buckets, .capQs, .bndTaken, .free] = true) hs_
  unfold State.issue
  extract_lets -merge loc
  clear_value loc
  repeat' with_reducible first
    | assumption
    | intro _
    | apply Kept.ite
    | apply State.boundFault_kept q0
    | apply State.eatPoison_kept q1
    | apply State.bucketWait_kept q2
    | apply State.showDq_kept q3
    | apply State.launch_kept q4
    | apply State.queueStop_kept q1
    | apply State.retireDescs_kept q5
    | apply State.setDq_kept q2
    | apply Kept.foldl
    | split
    | extract_lets

theorem execDmaTransfer_kept {ws : List Field} {s₀ s : State} (hs_ : Field.sub [.regs, .back, .bar2, .out, .ram, .hmem, .slotRings, .cueQs, .binFlags, .slates, .cancels, .tqs, .sched, .dqs, .cores, .cmbs, .engs, .mmus, .poison, .buckets, .capQs, .bndTaken, .free] ws = true) (site core q : Nat)
    (kh_ : Kept ws s₀ s) : Kept ws s₀ (after s (execDmaTransfer site core q s)) := by
  have q0 := Field.sub_trans (by decide : Field.sub [] [.regs, .back, .bar2, .out, .ram, .hmem, .slotRings, .cueQs, .binFlags, .slates, .cancels, .tqs, .sched, .dqs, .cores, .cmbs, .engs, .mmus, .poison, .buckets, .capQs, .bndTaken, .free] = true) hs_
  unfold execDmaTransfer
  repeat' with_reducible first
    | assumption
    | intro _
    | apply Kept.after_next
    | apply Kept.ite
    | apply State.issue_kept hs_
    | apply State.onQueue_kept q0
    | apply Kept.foldl
    | split
    | extract_lets

theorem State.landOne_kept {ws : List Field} {s₀ s : State} (hs_ : Field.sub [.regs, .back, .bar2, .out, .ram, .hmem, .slotRings, .cueQs, .binFlags, .slates, .cancels, .tqs, .sched, .dqs, .cores, .cmbs, .engs, .mmus, .poison, .arbs, .bndTaken, .free] ws = true) (site c q : Nat) (w : Work) (y : Slate) (dq : DQ)
    (kh_ : Kept ws s₀ s) : Kept ws s₀ (State.landOne s site c q w y dq) := by
  have q0 := Field.sub_trans (by decide : Field.sub [.regs, .back, .bar2, .out, .ram, .hmem, .slotRings, .slates, .cancels, .tqs, .sched, .dqs, .cores, .cmbs, .engs, .mmus, .poison] [.regs, .back, .bar2, .out, .ram, .hmem, .slotRings, .cueQs, .binFlags, .slates, .cancels, .tqs, .sched, .dqs, .cores, .cmbs, .engs, .mmus, .poison, .arbs, .bndTaken, .free] = true) hs_
  have q1 := Field.sub_trans (by decide : Field.sub [.regs] [.regs, .back, .bar2, .out, .ram, .hmem, .slotRings, .cueQs, .binFlags, .slates, .cancels, .tqs, .sched, .dqs, .cores, .cmbs, .engs, .mmus, .poison, .arbs, .bndTaken, .free] = true) hs_
  have q2 := Field.sub_trans (by decide : Field.sub [.regs, .bar2, .out] [.regs, .back, .bar2, .out, .ram, .hmem, .slotRings, .cueQs, .binFlags, .slates, .cancels, .tqs, .sched, .dqs, .cores, .cmbs, .engs, .mmus, .poison, .arbs, .bndTaken, .free] = true) hs_
  have q3 := Field.sub_trans (by decide : Field.sub [.ram, .hmem, .poison] [.regs, .back, .bar2, .out, .ram, .hmem, .slotRings, .cueQs, .binFlags, .slates, .cancels, .tqs, .sched, .dqs, .cores, .cmbs, .engs, .mmus, .poison, .arbs, .bndTaken, .free] = true) hs_
  have q4 := Field.sub_trans (by decide : Field.sub [.regs, .back, .bar2, .out, .ram, .hmem, .slotRings, .cueQs, .binFlags, .slates, .cancels, .tqs, .sched, .dqs, .cores, .cmbs, .engs, .mmus, .poison, .bndTaken, .free] [.regs, .back, .bar2, .out, .ram, .hmem, .slotRings, .cueQs, .binFlags, .slates, .cancels, .tqs, .sched, .dqs, .cores, .cmbs, .engs, .mmus, .poison, .arbs, .bndTaken, .free] = true) hs_
  have q5 := Field.sub_trans (by decide : Field.sub [.regs, .bar2, .out, .arbs] [.regs, .back, .bar2, .out, .ram, .hmem, .slotRings, .cueQs, .binFlags, .slates, .cancels, .tqs, .sched, .dqs, .cores, .cmbs, .engs, .mmus, .poison, .arbs, .bndTaken, .free] = true) hs_
  have q6 := Field.sub_trans (by decide : Field.sub [.free] [.regs, .back, .bar2, .out, .ram, .hmem, .slotRings, .cueQs, .binFlags, .slates, .cancels, .tqs, .sched, .dqs, .cores, .cmbs, .engs, .mmus, .poison, .arbs, .bndTaken, .free] = true) hs_
  have q7 := Field.sub_trans (by decide : Field.sub [.dqs] [.regs, .back, .bar2, .out, .ram, .hmem, .slotRings, .cueQs, .binFlags, .slates, .cancels, .tqs, .sched, .dqs, .cores, .cmbs, .engs, .mmus, .poison, .arbs, .bndTaken, .free] = true) hs_
  unfold State.landOne
  extract_lets -merge unit ok
  clear_value unit ok
  repeat' with_reducible first
    | assumption
    | intro _
    | apply Kept.ite
    | apply State.contained_kept q0
    | apply State.showDq_kept q1
    | apply State.showInflight_kept q2
    | apply State.landFlights_kept q3
    | apply State.retireDescs_kept q4
    | apply State.grant_kept q5
    | apply State.draw_kept q6
    | apply State.setDq_kept q7
    | apply Kept.foldl
    | split
    | extract_lets

theorem execDmaTransferDone_kept {ws : List Field} {s₀ s : State} (hs_ : Field.sub [.regs, .back, .bar2, .out, .ram, .hmem, .slotRings, .cueQs, .binFlags, .slates, .cancels, .tqs, .sched, .dqs, .cores, .cmbs, .engs, .mmus, .poison, .arbs, .bndTaken, .free] ws = true) (site core q : Nat)
    (kh_ : Kept ws s₀ s) : Kept ws s₀ (after s (execDmaTransferDone site core q s)) := by
  unfold execDmaTransferDone
  extract_lets -merge d
  clear_value d
  repeat' with_reducible first
    | assumption
    | intro _
    | apply Kept.after_next
    | apply Kept.ite
    | apply State.landOne_kept hs_
    | apply Kept.foldl
    | split
    | extract_lets

theorem State.relay_kept {ws : List Field} {s₀ s : State} (hs_ : Field.sub [.regs, .back, .bar2, .out, .ram, .hmem, .slotRings, .cueQs, .binFlags, .slates, .cancels, .tqs, .sched, .dqs, .cores, .cmbs, .engs, .mmus, .poison, .buckets, .capQs, .bndTaken, .free] ws = true) (site c q : Nat) (w : Work) (y : Slate) (dq : DQ)
    (kh_ : Kept ws s₀ s) : Kept ws s₀ (State.relay s site c q w y dq) := by
  have q0 := Field.sub_trans (by decide : Field.sub [.regs, .back, .bar2, .out, .ram, .hmem, .slotRings, .slates, .cancels, .tqs, .sched, .dqs, .cores, .cmbs, .engs, .mmus, .poison, .bndTaken, .free] [.regs, .back, .bar2, .out, .ram, .hmem, .slotRings, .cueQs, .binFlags, .slates, .cancels, .tqs, .sched, .dqs, .cores, .cmbs, .engs, .mmus, .poison, .buckets, .capQs, .bndTaken, .free] = true) hs_
  have q1 := Field.sub_trans (by decide : Field.sub [.regs, .back, .bar2, .out, .ram, .hmem, .slotRings, .slates, .cancels, .tqs, .sched, .dqs, .cores, .cmbs, .engs, .mmus, .poison] [.regs, .back, .bar2, .out, .ram, .hmem, .slotRings, .cueQs, .binFlags, .slates, .cancels, .tqs, .sched, .dqs, .cores, .cmbs, .engs, .mmus, .poison, .buckets, .capQs, .bndTaken, .free] = true) hs_
  have q2 := Field.sub_trans (by decide : Field.sub [.dqs] [.regs, .back, .bar2, .out, .ram, .hmem, .slotRings, .cueQs, .binFlags, .slates, .cancels, .tqs, .sched, .dqs, .cores, .cmbs, .engs, .mmus, .poison, .buckets, .capQs, .bndTaken, .free] = true) hs_
  have q3 := Field.sub_trans (by decide : Field.sub [.regs] [.regs, .back, .bar2, .out, .ram, .hmem, .slotRings, .cueQs, .binFlags, .slates, .cancels, .tqs, .sched, .dqs, .cores, .cmbs, .engs, .mmus, .poison, .buckets, .capQs, .bndTaken, .free] = true) hs_
  have q4 := Field.sub_trans (by decide : Field.sub [.regs, .bar2, .out, .dqs, .buckets, .capQs] [.regs, .back, .bar2, .out, .ram, .hmem, .slotRings, .cueQs, .binFlags, .slates, .cancels, .tqs, .sched, .dqs, .cores, .cmbs, .engs, .mmus, .poison, .buckets, .capQs, .bndTaken, .free] = true) hs_
  have q5 := Field.sub_trans (by decide : Field.sub [.regs, .back, .bar2, .out, .ram, .hmem, .slotRings, .cueQs, .binFlags, .slates, .cancels, .tqs, .sched, .dqs, .cores, .cmbs, .engs, .mmus, .poison, .bndTaken, .free] [.regs, .back, .bar2, .out, .ram, .hmem, .slotRings, .cueQs, .binFlags, .slates, .cancels, .tqs, .sched, .dqs, .cores, .cmbs, .engs, .mmus, .poison, .buckets, .capQs, .bndTaken, .free] = true) hs_
  unfold State.relay
  extract_lets -merge loc own
  clear_value loc own
  repeat' with_reducible first
    | assumption
    | intro _
    | apply Kept.ite
    | apply State.boundFault_kept q0
    | apply State.eatPoison_kept q1
    | apply State.bucketWait_kept q2
    | apply State.showDq_kept q3
    | apply State.launch_kept q4
    | apply State.queueStop_kept q1
    | apply State.retireDescs_kept q5
    | apply Kept.foldl
    | split
    | extract_lets

theorem execRelayTile_kept {ws : List Field} {s₀ s : State} (hs_ : Field.sub [.regs, .back, .bar2, .out, .ram, .hmem, .slotRings, .cueQs, .binFlags, .slates, .cancels, .tqs, .sched, .dqs, .cores, .cmbs, .engs, .mmus, .poison, .buckets, .capQs, .bndTaken, .free] ws = true) (site core q : Nat)
    (kh_ : Kept ws s₀ s) : Kept ws s₀ (after s (execRelayTile site core q s)) := by
  have q0 := Field.sub_trans (by decide : Field.sub [] [.regs, .back, .bar2, .out, .ram, .hmem, .slotRings, .cueQs, .binFlags, .slates, .cancels, .tqs, .sched, .dqs, .cores, .cmbs, .engs, .mmus, .poison, .buckets, .capQs, .bndTaken, .free] = true) hs_
  unfold execRelayTile
  repeat' with_reducible first
    | assumption
    | intro _
    | apply Kept.after_next
    | apply Kept.ite
    | apply State.relay_kept hs_
    | apply State.onQueue_kept q0
    | apply Kept.foldl
    | split
    | extract_lets

theorem State.moveFault_kept {ws : List Field} {s₀ s : State} (hs_ : Field.sub [.regs, .back, .bar2, .out, .ram, .hmem, .slotRings, .slates, .cancels, .tqs, .sched, .dqs, .cores, .cmbs, .engs, .mmus, .poison] ws = true) (site : Nat) (w : Work) (code : Nat)
    (kh_ : Kept ws s₀ s) : Kept ws s₀ (State.moveFault s site w code) := by
  have q0 := Field.sub_trans (by decide : Field.sub [.regs] [.regs, .back, .bar2, .out, .ram, .hmem, .slotRings, .slates, .cancels, .tqs, .sched, .dqs, .cores, .cmbs, .engs, .mmus, .poison] = true) hs_
  unfold State.moveFault
  repeat' with_reducible first
    | assumption
    | intro _
    | apply Kept.ite
    | apply State.contained_kept hs_
    | apply State.faultRec_kept q0
    | apply Kept.foldl
    | split
    | extract_lets

theorem execDmaTimeout_kept {ws : List Field} {s₀ s : State} (hs_ : Field.sub [.regs, .back, .bar2, .out, .ram, .hmem, .slotRings, .slates, .cancels, .tqs, .sched, .dqs, .cores, .cmbs, .engs, .mmus, .poison] ws = true) (site core q : Nat)
    (kh_ : Kept ws s₀ s) : Kept ws s₀ (after s (execDmaTimeout site core q s)) := by
  have q0 := Field.sub_trans (by decide : Field.sub [] [.regs, .back, .bar2, .out, .ram, .hmem, .slotRings, .slates, .cancels, .tqs, .sched, .dqs, .cores, .cmbs, .engs, .mmus, .poison] = true) hs_
  unfold execDmaTimeout
  repeat' with_reducible first
    | assumption
    | intro _
    | apply Kept.after_next
    | apply Kept.ite
    | apply State.moveFault_kept hs_
    | apply State.onQueue_kept q0
    | apply Kept.foldl
    | split
    | extract_lets

theorem execDmaParity_kept {ws : List Field} {s₀ s : State} (hs_ : Field.sub [.regs, .back, .bar2, .out, .ram, .hmem, .slotRings, .slates, .cancels, .tqs, .sched, .dqs, .cores, .cmbs, .engs, .mmus, .poison] ws = true) (site core q : Nat)
    (kh_ : Kept ws s₀ s) : Kept ws s₀ (after s (execDmaParity site core q s)) := by
  have q0 := Field.sub_trans (by decide : Field.sub [] [.regs, .back, .bar2, .out, .ram, .hmem, .slotRings, .slates, .cancels, .tqs, .sched, .dqs, .cores, .cmbs, .engs, .mmus, .poison] = true) hs_
  unfold execDmaParity
  repeat' with_reducible first
    | assumption
    | intro _
    | apply Kept.after_next
    | apply Kept.ite
    | apply State.moveFault_kept hs_
    | apply State.onQueue_kept q0
    | apply Kept.foldl
    | split
    | extract_lets

theorem execRelayParity_kept {ws : List Field} {s₀ s : State} (hs_ : Field.sub [.regs, .back, .bar2, .out, .ram, .hmem, .slotRings, .slates, .cancels, .tqs, .sched, .dqs, .cores, .cmbs, .engs, .mmus, .poison] ws = true) (site core : Nat)
    (kh_ : Kept ws s₀ s) : Kept ws s₀ (after s (execRelayParity site core s)) := by
  unfold execRelayParity
  repeat' with_reducible first
    | assumption
    | intro _
    | apply Kept.after_next
    | apply Kept.ite
    | apply State.moveFault_kept hs_
    | apply Kept.foldl
    | split
    | extract_lets

theorem execClrPeak_kept {ws : List Field} {s₀ s : State} (hs_ : Field.sub [.regs, .bar2, .out] ws = true) (req site : Nat) (val : Word)
    (kh_ : Kept ws s₀ s) : Kept ws s₀ (after s (execClrPeak req site val s)) := by
  have q0 := Field.sub_trans (by decide : Field.sub [.regs] [.regs, .bar2, .out] = true) hs_
  unfold execClrPeak
  repeat' with_reducible first
    | assumption
    | intro _
    | apply Kept.after_next
    | apply Kept.ite
    | apply State.asWrite_kept hs_
    | apply State.reject_kept hs_
    | apply State.putFld_kept q0
    | apply Kept.foldl
    | split
    | extract_lets

theorem execEpochCancel_kept {ws : List Field} {s₀ s : State} (hs_ : Field.sub [.regs, .back, .bar2, .out, .ram, .hmem, .slotRings, .cueQs, .binFlags, .slates, .cancels, .tqs, .sched, .dqs, .cores, .cmbs, .engs, .mmus, .poison] ws = true) (epoch : Nat)
    (kh_ : Kept ws s₀ s) : Kept ws s₀ (after s (execEpochCancel epoch s)) := by
  have q0 := Field.sub_trans (by decide : Field.sub [.regs, .back, .bar2, .out, .ram, .hmem, .slotRings, .cancels, .tqs, .sched, .dqs, .cores, .cmbs, .engs, .mmus, .poison] [.regs, .back, .bar2, .out, .ram, .hmem, .slotRings, .cueQs, .binFlags, .slates, .cancels, .tqs, .sched, .dqs, .cores, .cmbs, .engs, .mmus, .poison] = true) hs_
  have q1 := Field.sub_trans (by decide : Field.sub [.regs, .bar2, .out, .ram, .hmem, .slotRings, .cueQs, .binFlags, .slates, .cancels, .dqs, .cores, .cmbs, .engs, .poison] [.regs, .back, .bar2, .out, .ram, .hmem, .slotRings, .cueQs, .binFlags, .slates, .cancels, .tqs, .sched, .dqs, .cores, .cmbs, .engs, .mmus, .poison] = true) hs_
  unfold execEpochCancel
  repeat' with_reducible first
    | assumption
    | intro _
    | apply Kept.after_next
    | apply Kept.ite
    | apply State.endTake_kept q0
    | apply State.restripe_kept q1
    | apply Kept.foldl
    | split
    | extract_lets

end Sys2Proof.Machine
end

