-- ==== Sys2Proof/Laws/KSequencer.lean ====
section
/-!
SUPPORT. Laws/KSequencer.lean: what each operation of Machine/Sequencer.lean may change, and that it keeps the canonical form.
-/
namespace Sys2Proof.Machine

theorem execBarrier_kept {ws : List Field} {s₀ s : State} (hs_ : Field.sub [.regs, .back, .bar2, .out, .ram, .hmem, .slotRings, .slates, .cancels, .tqs, .sched, .dqs, .cores, .cmbs, .engs, .mmus, .poison, .bndTaken, .free] ws = true) (site core : Nat)
    (kh_ : Kept ws s₀ s) : Kept ws s₀ (after s (execBarrier site core s)) := by
  have q0 := Field.sub_trans (by decide : Field.sub [.regs, .cores] [.regs, .back, .bar2, .out, .ram, .hmem, .slotRings, .slates, .cancels, .tqs, .sched, .dqs, .cores, .cmbs, .engs, .mmus, .poison, .bndTaken, .free] = true) hs_
  have q1 := Field.sub_trans (by decide : Field.sub [.cores] [.regs, .back, .bar2, .out, .ram, .hmem, .slotRings, .slates, .cancels, .tqs, .sched, .dqs, .cores, .cmbs, .engs, .mmus, .poison, .bndTaken, .free] = true) hs_
  have q2 := Field.sub_trans (by decide : Field.sub [.regs, .back, .bar2, .out, .ram, .hmem, .slotRings, .slates, .cancels, .tqs, .sched, .dqs, .cores, .cmbs, .engs, .mmus, .poison] [.regs, .back, .bar2, .out, .ram, .hmem, .slotRings, .slates, .cancels, .tqs, .sched, .dqs, .cores, .cmbs, .engs, .mmus, .poison, .bndTaken, .free] = true) hs_
  unfold execBarrier
  repeat' with_reducible first
    | assumption
    | intro _
    | apply Kept.after_next
    | apply Kept.ite
    | apply State.coreGo_kept q0
    | apply State.coreWait_kept q1
    | apply State.withOps_kept hs_
    | apply State.runOp_kept q2
    | apply State.setCore_kept q1
    | apply Kept.foldl
    | split
    | extract_lets

theorem execBarrierRelease_kept {ws : List Field} {s₀ s : State} (hs_ : Field.sub [.regs, .slotRings, .cores] ws = true) (site core : Nat)
    (kh_ : Kept ws s₀ s) : Kept ws s₀ (after s (execBarrierRelease site core s)) := by
  have q0 := Field.sub_trans (by decide : Field.sub [.regs, .cores] [.regs, .slotRings, .cores] = true) hs_
  have q1 := Field.sub_trans (by decide : Field.sub [.regs] [.regs, .slotRings, .cores] = true) hs_
  have q2 := Field.sub_trans (by decide : Field.sub [.regs, .slotRings] [.regs, .slotRings, .cores] = true) hs_
  have q3 := Field.sub_trans (by decide : Field.sub [.cores] [.regs, .slotRings, .cores] = true) hs_
  unfold execBarrierRelease
  extract_lets -merge x cs
  clear_value x cs
  repeat' with_reducible first
    | assumption
    | intro _
    | apply Kept.after_next
    | apply Kept.ite
    | apply State.coreGo_kept q0
    | apply State.prof_kept q1
    | apply State.showCore_kept q1
    | apply State.release_kept q2
    | apply State.setCore_kept q3
    | apply Kept.foldl
    | split
    | extract_lets

theorem execFlagWait_kept {ws : List Field} {s₀ s : State} (hs_ : Field.sub [.regs, .back, .bar2, .out, .ram, .hmem, .slotRings, .slates, .cancels, .tqs, .sched, .dqs, .cores, .cmbs, .engs, .mmus, .poison, .bndTaken, .free] ws = true) (site core : Nat)
    (kh_ : Kept ws s₀ s) : Kept ws s₀ (after s (execFlagWait site core s)) := by
  have q0 := Field.sub_trans (by decide : Field.sub [.cores] [.regs, .back, .bar2, .out, .ram, .hmem, .slotRings, .slates, .cancels, .tqs, .sched, .dqs, .cores, .cmbs, .engs, .mmus, .poison, .bndTaken, .free] = true) hs_
  have q1 := Field.sub_trans (by decide : Field.sub [.regs, .back, .bar2, .out, .ram, .hmem, .slotRings, .slates, .cancels, .tqs, .sched, .dqs, .cores, .cmbs, .engs, .mmus, .poison] [.regs, .back, .bar2, .out, .ram, .hmem, .slotRings, .slates, .cancels, .tqs, .sched, .dqs, .cores, .cmbs, .engs, .mmus, .poison, .bndTaken, .free] = true) hs_
  have q2 := Field.sub_trans (by decide : Field.sub [.regs, .cores] [.regs, .back, .bar2, .out, .ram, .hmem, .slotRings, .slates, .cancels, .tqs, .sched, .dqs, .cores, .cmbs, .engs, .mmus, .poison, .bndTaken, .free] = true) hs_
  unfold execFlagWait
  repeat' with_reducible first
    | assumption
    | intro _
    | apply Kept.after_next
    | apply Kept.ite
    | apply State.coreWait_kept q0
    | apply State.runOp_kept q1
    | apply State.opDone_kept q2
    | apply State.coreBound_kept hs_
    | apply State.setCore_kept q0
    | apply State.coreFault_kept q1
    | apply Kept.foldl
    | split
    | extract_lets

theorem execFlagSet_kept {ws : List Field} {s₀ s : State} (hs_ : Field.sub [.regs, .back, .bar2, .out, .ram, .hmem, .slotRings, .binFlags, .slates, .cancels, .tqs, .sched, .dqs, .cores, .cmbs, .engs, .mmus, .poison, .bndTaken, .free] ws = true) (site core : Nat)
    (kh_ : Kept ws s₀ s) : Kept ws s₀ (after s (execFlagSet site core s)) := by
  have q0 := Field.sub_trans (by decide : Field.sub [.binFlags] [.regs, .back, .bar2, .out, .ram, .hmem, .slotRings, .binFlags, .slates, .cancels, .tqs, .sched, .dqs, .cores, .cmbs, .engs, .mmus, .poison, .bndTaken, .free] = true) hs_
  have q1 := Field.sub_trans (by decide : Field.sub [.regs, .back, .bar2, .out, .ram, .hmem, .slotRings, .slates, .cancels, .tqs, .sched, .dqs, .cores, .cmbs, .engs, .mmus, .poison] [.regs, .back, .bar2, .out, .ram, .hmem, .slotRings, .binFlags, .slates, .cancels, .tqs, .sched, .dqs, .cores, .cmbs, .engs, .mmus, .poison, .bndTaken, .free] = true) hs_
  have q2 := Field.sub_trans (by decide : Field.sub [.regs, .cores] [.regs, .back, .bar2, .out, .ram, .hmem, .slotRings, .binFlags, .slates, .cancels, .tqs, .sched, .dqs, .cores, .cmbs, .engs, .mmus, .poison, .bndTaken, .free] = true) hs_
  have q3 := Field.sub_trans (by decide : Field.sub [.regs, .back, .bar2, .out, .ram, .hmem, .slotRings, .slates, .cancels, .tqs, .sched, .dqs, .cores, .cmbs, .engs, .mmus, .poison, .bndTaken, .free] [.regs, .back, .bar2, .out, .ram, .hmem, .slotRings, .binFlags, .slates, .cancels, .tqs, .sched, .dqs, .cores, .cmbs, .engs, .mmus, .poison, .bndTaken, .free] = true) hs_
  unfold execFlagSet
  repeat' with_reducible first
    | assumption
    | intro _
    | apply Kept.after_next
    | apply Kept.ite
    | apply State.flagSet_kept q0
    | apply State.runOp_kept q1
    | apply State.opDone_kept q2
    | apply State.coreBound_kept q3
    | apply State.coreFault_kept q1
    | apply Kept.foldl
    | split
    | extract_lets

theorem execCuePush_kept {ws : List Field} {s₀ s : State} (hs_ : Field.sub [.regs, .back, .bar2, .out, .ram, .hmem, .slotRings, .cueQs, .slates, .cancels, .tqs, .sched, .dqs, .cores, .cmbs, .engs, .mmus, .poison, .bndTaken, .free] ws = true) (site core : Nat)
    (kh_ : Kept ws s₀ s) : Kept ws s₀ (after s (execCuePush site core s)) := by
  have q0 := Field.sub_trans (by decide : Field.sub [.cores] [.regs, .back, .bar2, .out, .ram, .hmem, .slotRings, .cueQs, .slates, .cancels, .tqs, .sched, .dqs, .cores, .cmbs, .engs, .mmus, .poison, .bndTaken, .free] = true) hs_
  have q1 := Field.sub_trans (by decide : Field.sub [.regs, .back, .bar2, .out, .ram, .hmem, .slotRings, .slates, .cancels, .tqs, .sched, .dqs, .cores, .cmbs, .engs, .mmus, .poison] [.regs, .back, .bar2, .out, .ram, .hmem, .slotRings, .cueQs, .slates, .cancels, .tqs, .sched, .dqs, .cores, .cmbs, .engs, .mmus, .poison, .bndTaken, .free] = true) hs_
  have q2 := Field.sub_trans (by decide : Field.sub [.regs, .cores] [.regs, .back, .bar2, .out, .ram, .hmem, .slotRings, .cueQs, .slates, .cancels, .tqs, .sched, .dqs, .cores, .cmbs, .engs, .mmus, .poison, .bndTaken, .free] = true) hs_
  have q3 := Field.sub_trans (by decide : Field.sub [.cueQs] [.regs, .back, .bar2, .out, .ram, .hmem, .slotRings, .cueQs, .slates, .cancels, .tqs, .sched, .dqs, .cores, .cmbs, .engs, .mmus, .poison, .bndTaken, .free] = true) hs_
  have q4 := Field.sub_trans (by decide : Field.sub [.regs, .back, .bar2, .out, .ram, .hmem, .slotRings, .slates, .cancels, .tqs, .sched, .dqs, .cores, .cmbs, .engs, .mmus, .poison, .bndTaken, .free] [.regs, .back, .bar2, .out, .ram, .hmem, .slotRings, .cueQs, .slates, .cancels, .tqs, .sched, .dqs, .cores, .cmbs, .engs, .mmus, .poison, .bndTaken, .free] = true) hs_
  unfold execCuePush
  repeat' with_reducible first
    | assumption
    | intro _
    | apply Kept.after_next
    | apply Kept.ite
    | apply State.coreWait_kept q0
    | apply State.runOp_kept q1
    | apply State.opDone_kept q2
    | apply State.setCue_kept q3
    | apply State.coreBound_kept q4
    | apply State.coreFault_kept q1
    | apply Kept.foldl
    | split
    | extract_lets

theorem execCuePop_kept {ws : List Field} {s₀ s : State} (hs_ : Field.sub [.regs, .back, .bar2, .out, .ram, .hmem, .slotRings, .cueQs, .slates, .cancels, .tqs, .sched, .dqs, .cores, .cmbs, .engs, .mmus, .poison, .bndTaken, .free] ws = true) (site core : Nat)
    (kh_ : Kept ws s₀ s) : Kept ws s₀ (after s (execCuePop site core s)) := by
  have q0 := Field.sub_trans (by decide : Field.sub [.cores] [.regs, .back, .bar2, .out, .ram, .hmem, .slotRings, .cueQs, .slates, .cancels, .tqs, .sched, .dqs, .cores, .cmbs, .engs, .mmus, .poison, .bndTaken, .free] = true) hs_
  have q1 := Field.sub_trans (by decide : Field.sub [.ram, .poison] [.regs, .back, .bar2, .out, .ram, .hmem, .slotRings, .cueQs, .slates, .cancels, .tqs, .sched, .dqs, .cores, .cmbs, .engs, .mmus, .poison, .bndTaken, .free] = true) hs_
  have q2 := Field.sub_trans (by decide : Field.sub [.regs, .back, .bar2, .out, .ram, .hmem, .slotRings, .slates, .cancels, .tqs, .sched, .dqs, .cores, .cmbs, .engs, .mmus, .poison, .bndTaken, .free] [.regs, .back, .bar2, .out, .ram, .hmem, .slotRings, .cueQs, .slates, .cancels, .tqs, .sched, .dqs, .cores, .cmbs, .engs, .mmus, .poison, .bndTaken, .free] = true) hs_
  have q3 := Field.sub_trans (by decide : Field.sub [.slates] [.regs, .back, .bar2, .out, .ram, .hmem, .slotRings, .cueQs, .slates, .cancels, .tqs, .sched, .dqs, .cores, .cmbs, .engs, .mmus, .poison, .bndTaken, .free] = true) hs_
  have q4 := Field.sub_trans (by decide : Field.sub [.regs, .back, .bar2, .out, .ram, .hmem, .slotRings, .slates, .cancels, .tqs, .sched, .dqs, .cores, .cmbs, .engs, .mmus, .poison] [.regs, .back, .bar2, .out, .ram, .hmem, .slotRings, .cueQs, .slates, .cancels, .tqs, .sched, .dqs, .cores, .cmbs, .engs, .mmus, .poison, .bndTaken, .free] = true) hs_
  have q5 := Field.sub_trans (by decide : Field.sub [.regs, .cores] [.regs, .back, .bar2, .out, .ram, .hmem, .slotRings, .cueQs, .slates, .cancels, .tqs, .sched, .dqs, .cores, .cmbs, .engs, .mmus, .poison, .bndTaken, .free] = true) hs_
  have q6 := Field.sub_trans (by decide : Field.sub [.cueQs] [.regs, .back, .bar2, .out, .ram, .hmem, .slotRings, .cueQs, .slates, .cancels, .tqs, .sched, .dqs, .cores, .cmbs, .engs, .mmus, .poison, .bndTaken, .free] = true) hs_
  unfold execCuePop
  repeat' with_reducible first
    | assumption
    | intro _
    | apply Kept.after_next
    | apply Kept.ite
    | apply State.coreWait_kept q0
    | apply State.ramWrite_kept q1
    | apply State.withOps_kept q2
    | apply State.setSlate_kept q3
    | apply State.runOp_kept q4
    | apply State.opDone_kept q5
    | apply State.setCue_kept q6
    | apply State.coreBound_kept q2
    | apply State.setCore_kept q0
    | apply State.coreFault_kept q4
    | apply Kept.foldl
    | split
    | extract_lets

theorem execDma_kept {ws : List Field} {s₀ s : State} (hs_ : Field.sub [.regs, .back, .bar2, .out, .ram, .hmem, .slotRings, .slates, .cancels, .tqs, .sched, .dqs, .cores, .cmbs, .engs, .mmus, .poison] ws = true) (site core : Nat)
    (kh_ : Kept ws s₀ s) : Kept ws s₀ (after s (execDma site core s)) := by
  have q0 := Field.sub_trans (by decide : Field.sub [.regs] [.regs, .back, .bar2, .out, .ram, .hmem, .slotRings, .slates, .cancels, .tqs, .sched, .dqs, .cores, .cmbs, .engs, .mmus, .poison] = true) hs_
  have q1 := Field.sub_trans (by decide : Field.sub [.cores] [.regs, .back, .bar2, .out, .ram, .hmem, .slotRings, .slates, .cancels, .tqs, .sched, .dqs, .cores, .cmbs, .engs, .mmus, .poison] = true) hs_
  have q2 := Field.sub_trans (by decide : Field.sub [.regs, .cores] [.regs, .back, .bar2, .out, .ram, .hmem, .slotRings, .slates, .cancels, .tqs, .sched, .dqs, .cores, .cmbs, .engs, .mmus, .poison] = true) hs_
  have q3 := Field.sub_trans (by decide : Field.sub [.dqs] [.regs, .back, .bar2, .out, .ram, .hmem, .slotRings, .slates, .cancels, .tqs, .sched, .dqs, .cores, .cmbs, .engs, .mmus, .poison] = true) hs_
  unfold execDma
  repeat' with_reducible first
    | assumption
    | intro _
    | apply Kept.after_next
    | apply Kept.ite
    | apply State.showDq_kept q0
    | apply State.coreWait_kept q1
    | apply State.runOp_kept hs_
    | apply State.opDone_kept q2
    | apply State.putBit_kept q0
    | apply State.setDq_kept q3
    | apply State.coreFault_kept hs_
    | apply Kept.foldl
    | split
    | extract_lets

theorem State.stripeDone_kept {ws : List Field} {s₀ s : State} (hs_ : Field.sub [.regs, .bar2, .out, .slotRings, .cueQs, .binFlags, .slates, .cancels, .cores, .cmbs] ws = true) (h : Nat)
    (kh_ : Kept ws s₀ s) : Kept ws s₀ (State.stripeDone s h) := by
  have q0 := Field.sub_trans (by decide : Field.sub [.regs, .cores] [.regs, .bar2, .out, .slotRings, .cueQs, .binFlags, .slates, .cancels, .cores, .cmbs] = true) hs_
  have q1 := Field.sub_trans (by decide : Field.sub [.regs] [.regs, .bar2, .out, .slotRings, .cueQs, .binFlags, .slates, .cancels, .cores, .cmbs] = true) hs_
  have q2 := Field.sub_trans (by decide : Field.sub [.regs, .bar2, .out, .cmbs] [.regs, .bar2, .out, .slotRings, .cueQs, .binFlags, .slates, .cancels, .cores, .cmbs] = true) hs_
  have q3 := Field.sub_trans (by decide : Field.sub [.regs, .bar2, .out] [.regs, .bar2, .out, .slotRings, .cueQs, .binFlags, .slates, .cancels, .cores, .cmbs] = true) hs_
  have q4 := Field.sub_trans (by decide : Field.sub [.regs, .slotRings, .cueQs, .binFlags, .cancels] [.regs, .bar2, .out, .slotRings, .cueQs, .binFlags, .slates, .cancels, .cores, .cmbs] = true) hs_
  have q5 := Field.sub_trans (by decide : Field.sub [.slates] [.regs, .bar2, .out, .slotRings, .cueQs, .binFlags, .slates, .cancels, .cores, .cmbs] = true) hs_
  have q6 := Field.sub_trans (by decide : Field.sub [.regs, .slotRings] [.regs, .bar2, .out, .slotRings, .cueQs, .binFlags, .slates, .cancels, .cores, .cmbs] = true) hs_
  unfold State.stripeDone
  extract_lets -merge w
  clear_value w
  repeat' with_reducible first
    | assumption
    | intro _
    | apply Kept.ite
    | apply State.restartCore_kept q0
    | apply State.clrOnTake_kept q1
    | apply State.installTrees_kept q2
    | apply State.evt_kept q3
    | apply State.allocEpoch_kept q4
    | refine Kept.of_snd (State.allocEpoch_kept q4 _ ?_) ‹_›
    | apply State.setSlate_kept q5
    | apply State.release_kept q6
    | apply Kept.foldl
    | split
    | extract_lets

theorem execEndOp_kept {ws : List Field} {s₀ s : State} (hs_ : Field.sub [.regs, .back, .bar2, .out, .ram, .hmem, .slotRings, .cueQs, .binFlags, .slates, .cancels, .tqs, .sched, .dqs, .cores, .cmbs, .engs, .mmus, .poison, .bndTaken, .free] ws = true) (site core : Nat)
    (kh_ : Kept ws s₀ s) : Kept ws s₀ (after s (execEndOp site core s)) := by
  have q0 := Field.sub_trans (by decide : Field.sub [.cores] [.regs, .back, .bar2, .out, .ram, .hmem, .slotRings, .cueQs, .binFlags, .slates, .cancels, .tqs, .sched, .dqs, .cores, .cmbs, .engs, .mmus, .poison, .bndTaken, .free] = true) hs_
  have q1 := Field.sub_trans (by decide : Field.sub [.regs] [.regs, .back, .bar2, .out, .ram, .hmem, .slotRings, .cueQs, .binFlags, .slates, .cancels, .tqs, .sched, .dqs, .cores, .cmbs, .engs, .mmus, .poison, .bndTaken, .free] = true) hs_
  have q2 := Field.sub_trans (by decide : Field.sub [.regs, .bar2, .out, .slotRings, .cueQs, .binFlags, .slates, .cancels, .cores, .cmbs] [.regs, .back, .bar2, .out, .ram, .hmem, .slotRings, .cueQs, .binFlags, .slates, .cancels, .tqs, .sched, .dqs, .cores, .cmbs, .engs, .mmus, .poison, .bndTaken, .free] = true) hs_
  have q3 := Field.sub_trans (by decide : Field.sub [.regs, .back, .bar2, .out, .ram, .hmem, .slotRings, .slates, .cancels, .tqs, .sched, .dqs, .cores, .cmbs, .engs, .mmus, .poison] [.regs, .back, .bar2, .out, .ram, .hmem, .slotRings, .cueQs, .binFlags, .slates, .cancels, .tqs, .sched, .dqs, .cores, .cmbs, .engs, .mmus, .poison, .bndTaken, .free] = true) hs_
  have q4 := Field.sub_trans (by decide : Field.sub [.regs, .back, .bar2, .out, .ram, .hmem, .slotRings, .slates, .cancels, .tqs, .sched, .dqs, .cores, .cmbs, .engs, .mmus, .poison, .bndTaken, .free] [.regs, .back, .bar2, .out, .ram, .hmem, .slotRings, .cueQs, .binFlags, .slates, .cancels, .tqs, .sched, .dqs, .cores, .cmbs, .engs, .mmus, .poison, .bndTaken, .free] = true) hs_
  unfold execEndOp
  repeat' with_reducible first
    | assumption
    | intro _
    | apply Kept.after_next
    | apply Kept.ite
    | apply State.coreWait_kept q0
    | apply State.prof_kept q1
    | apply State.showCore_kept q1
    | apply State.stripeDone_kept q2
    | apply State.runOp_kept q3
    | apply State.coreBound_kept q4
    | apply State.setCore_kept q0
    | apply State.coreFault_kept q3
    | apply Kept.foldl
    | split
    | extract_lets

theorem execOpRetire_kept {ws : List Field} {s₀ s : State} (hs_ : Field.sub [.regs, .slotRings, .cores, .free] ws = true) (site core : Nat)
    (kh_ : Kept ws s₀ s) : Kept ws s₀ (after s (execOpRetire site core s)) := by
  have q0 := Field.sub_trans (by decide : Field.sub [.regs] [.regs, .slotRings, .cores, .free] = true) hs_
  have q1 := Field.sub_trans (by decide : Field.sub [.regs, .slotRings] [.regs, .slotRings, .cores, .free] = true) hs_
  have q2 := Field.sub_trans (by decide : Field.sub [.free] [.regs, .slotRings, .cores, .free] = true) hs_
  have q3 := Field.sub_trans (by decide : Field.sub [.cores] [.regs, .slotRings, .cores, .free] = true) hs_
  unfold execOpRetire
  extract_lets -merge x stale s1
  clear_value x stale
  have k_s1 : Kept ws s₀ s1 := by
    unfold s1
    repeat' with_reducible first
      | assumption
      | intro _
      | apply Kept.after_next
      | apply Kept.ite
      | apply State.prof_kept q0
      | apply State.showCore_kept q0
      | apply State.release_kept q1
      | apply State.draw_kept q2
      | apply State.publish_kept q1
      | apply State.setCore_kept q3
      | apply Kept.foldl
      | split
      | extract_lets
  clear_value s1
  repeat' with_reducible first
    | assumption
    | intro _
    | apply Kept.after_next
    | apply Kept.ite
    | apply State.prof_kept q0
    | apply State.showCore_kept q0
    | apply State.release_kept q1
    | apply State.draw_kept q2
    | apply State.publish_kept q1
    | apply State.setCore_kept q3
    | apply Kept.foldl
    | split
    | extract_lets

theorem execOpOverrun_kept {ws : List Field} {s₀ s : State} (hs_ : Field.sub [.regs, .back, .bar2, .out, .ram, .hmem, .slotRings, .slates, .cancels, .tqs, .sched, .dqs, .cores, .cmbs, .engs, .mmus, .poison, .bndTaken, .free] ws = true) (site core : Nat)
    (kh_ : Kept ws s₀ s) : Kept ws s₀ (after s (execOpOverrun site core s)) := by
  unfold execOpOverrun
  extract_lets -merge x
  clear_value x
  repeat' with_reducible first
    | assumption
    | intro _
    | apply Kept.after_next
    | apply Kept.ite
    | apply State.coreBound_kept hs_
    | apply Kept.foldl
    | split
    | extract_lets

theorem execProfClr_kept {ws : List Field} {s₀ s : State} (hs_ : Field.sub [.regs, .bar2, .out, .cores] ws = true) (req site core : Nat) (val : Word)
    (kh_ : Kept ws s₀ s) : Kept ws s₀ (after s (execProfClr req site core val s)) := by
  have q0 := Field.sub_trans (by decide : Field.sub [.regs, .bar2, .out] [.regs, .bar2, .out, .cores] = true) hs_
  have q1 := Field.sub_trans (by decide : Field.sub [.regs, .cores] [.regs, .bar2, .out, .cores] = true) hs_
  have q2 := Field.sub_trans (by decide : Field.sub [.regs] [.regs, .bar2, .out, .cores] = true) hs_
  unfold execProfClr
  extract_lets -merge p
  clear_value p
  repeat' with_reducible first
    | assumption
    | intro _
    | apply Kept.after_next
    | apply Kept.ite
    | apply State.asWrite_kept q0
    | apply State.coreGo_kept q1
    | apply State.reject_kept q0
    | apply State.setNat_kept q2
    | apply State.setReg_kept q2
    | apply Kept.foldl
    | split
    | extract_lets

end Sys2Proof.Machine
end

