-- ==== Sys2Proof/Laws/KSupply.lean ====
section
/-!
SUPPORT. Laws/KSupply.lean: what each operation of Machine/Supply.lean may change, and that it keeps the canonical form.
-/
namespace Sys2Proof.Machine

theorem State.vaon_kept {ws : List Field} {s₀ s : State} (hs_ : Field.sub [.regs, .sup] ws = true) (a b : Nat)
    (kh_ : Kept ws s₀ s) : Kept ws s₀ (State.vaon s a b) := by
  have q0 := Field.sub_trans (by decide : Field.sub [.regs] [.regs, .sup] = true) hs_
  have q1 := Field.sub_trans (by decide : Field.sub [.sup] [.regs, .sup] = true) hs_
  unfold State.vaon
  extract_lets -merge on _ s1
  clear_value on
  have k_s1 : Kept ws s₀ s1 := by
    unfold s1
    repeat' with_reducible first
      | assumption
      | intro _
      | apply Kept.ite
      | apply State.showSup_kept q0
      | apply State.putBit_kept q0
      | apply Kept.foldl
      | split
      | extract_lets
      | apply Kept.set_sup _ q1
  clear_value s1
  repeat' with_reducible first
    | assumption
    | intro _
    | apply Kept.ite
    | apply State.showSup_kept q0
    | apply State.putBit_kept q0
    | apply Kept.foldl
    | split
    | extract_lets
    | apply Kept.set_sup _ q1

theorem State.backToA_kept {ws : List Field} {s₀ s : State} (hs_ : Field.sub [.regs, .bar2, .out, .sup, .rings] ws = true)
    (kh_ : Kept ws s₀ s) : Kept ws s₀ (State.backToA s) := by
  have q0 := Field.sub_trans (by decide : Field.sub [.regs] [.regs, .bar2, .out, .sup, .rings] = true) hs_
  have q1 := Field.sub_trans (by decide : Field.sub [.regs, .bar2, .out, .rings] [.regs, .bar2, .out, .sup, .rings] = true) hs_
  have q2 := Field.sub_trans (by decide : Field.sub [.sup] [.regs, .bar2, .out, .sup, .rings] = true) hs_
  unfold State.backToA
  extract_lets -merge s1 _
  have k_s1 : Kept ws s₀ s1 := by
    unfold s1
    repeat' with_reducible first
      | assumption
      | intro _
      | apply Kept.ite
      | apply State.putBit_kept q0
      | apply State.supEvt_kept q1
      | apply Kept.foldl
      | split
      | extract_lets
      | apply Kept.set_sup _ q2
  clear_value s1
  repeat' with_reducible first
    | assumption
    | intro _
    | apply Kept.ite
    | apply State.putBit_kept q0
    | apply State.supEvt_kept q1
    | apply Kept.foldl
    | split
    | extract_lets
    | apply Kept.set_sup _ q2

theorem State.aonSwitch_kept {ws : List Field} {s₀ s : State} (hs_ : Field.sub [.regs, .bar2, .out, .sup, .rings] ws = true) (a b : Nat) (fell : Bool)
    (kh_ : Kept ws s₀ s) : Kept ws s₀ (State.aonSwitch s a b fell) := by
  have q0 := Field.sub_trans (by decide : Field.sub [.regs] [.regs, .bar2, .out, .sup, .rings] = true) hs_
  have q1 := Field.sub_trans (by decide : Field.sub [.regs, .bar2, .out, .rings] [.regs, .bar2, .out, .sup, .rings] = true) hs_
  have q2 := Field.sub_trans (by decide : Field.sub [.regs, .sup] [.regs, .bar2, .out, .sup, .rings] = true) hs_
  unfold State.aonSwitch
  extract_lets -merge p s1 s2 s3
  clear_value p
  have k_s1 : Kept ws s₀ s1 := by
    unfold s1
    repeat' with_reducible first
      | assumption
      | intro _
      | apply Kept.ite
      | apply State.setNat_kept q0
      | apply State.putBit_kept q0
      | apply State.putFld_kept q0
      | apply State.supEvt_kept q1
      | apply State.backToA_kept hs_
      | apply State.vaon_kept q2
      | apply Kept.foldl
      | split
      | extract_lets
  clear_value s1
  have k_s2 : Kept ws s₀ s2 := by
    unfold s2
    repeat' with_reducible first
      | assumption
      | intro _
      | apply Kept.ite
      | apply State.setNat_kept q0
      | apply State.putBit_kept q0
      | apply State.putFld_kept q0
      | apply State.supEvt_kept q1
      | apply State.backToA_kept hs_
      | apply State.vaon_kept q2
      | apply Kept.foldl
      | split
      | extract_lets
  clear_value s2
  have k_s3 : Kept ws s₀ s3 := by
    unfold s3
    repeat' with_reducible first
      | assumption
      | intro _
      | apply Kept.ite
      | apply State.setNat_kept q0
      | apply State.putBit_kept q0
      | apply State.putFld_kept q0
      | apply State.supEvt_kept q1
      | apply State.backToA_kept hs_
      | apply State.vaon_kept q2
      | apply Kept.foldl
      | split
      | extract_lets
  clear_value s3
  repeat' with_reducible first
    | assumption
    | intro _
    | apply Kept.ite
    | apply State.setNat_kept q0
    | apply State.putBit_kept q0
    | apply State.putFld_kept q0
    | apply State.supEvt_kept q1
    | apply State.backToA_kept hs_
    | apply State.vaon_kept q2
    | apply Kept.foldl
    | split
    | extract_lets

theorem execToBackup_kept {ws : List Field} {s₀ s : State} (hs_ : Field.sub [.regs, .bar2, .out, .sup, .rings] ws = true) (aMv bMv : Nat)
    (kh_ : Kept ws s₀ s) : Kept ws s₀ (after s (execToBackup aMv bMv s)) := by
  unfold execToBackup
  repeat' with_reducible first
    | assumption
    | intro _
    | apply Kept.after_next
    | apply Kept.ite
    | apply State.aonSwitch_kept hs_
    | apply Kept.foldl
    | split
    | extract_lets

theorem execToMain_kept {ws : List Field} {s₀ s : State} (hs_ : Field.sub [.regs, .bar2, .out, .sup, .rings] ws = true)
    (kh_ : Kept ws s₀ s) : Kept ws s₀ (after s (execToMain s)) := by
  unfold execToMain
  repeat' with_reducible first
    | assumption
    | intro _
    | apply Kept.after_next
    | apply Kept.ite
    | apply State.backToA_kept hs_
    | apply Kept.foldl
    | split
    | extract_lets

theorem execVaonAReturn_kept {ws : List Field} {s₀ s : State} (hs_ : Field.sub [.regs, .bar2, .out, .sup, .rings] ws = true) (aMv bMv : Nat)
    (kh_ : Kept ws s₀ s) : Kept ws s₀ (after s (execVaonAReturn aMv bMv s)) := by
  unfold execVaonAReturn
  repeat' with_reducible first
    | assumption
    | intro _
    | apply Kept.after_next
    | apply Kept.ite
    | apply State.aonSwitch_kept hs_
    | apply Kept.foldl
    | split
    | extract_lets

theorem execVaonBFall_kept {ws : List Field} {s₀ s : State} (hs_ : Field.sub [.regs, .bar2, .out, .sup, .rings] ws = true) (aMv bMv : Nat)
    (kh_ : Kept ws s₀ s) : Kept ws s₀ (after s (execVaonBFall aMv bMv s)) := by
  unfold execVaonBFall
  repeat' with_reducible first
    | assumption
    | intro _
    | apply Kept.after_next
    | apply Kept.ite
    | apply State.aonSwitch_kept hs_
    | apply Kept.foldl
    | split
    | extract_lets

theorem State.fioDown_kept {ws : List Field} {s₀ s : State} (hs_ : Field.sub [.regs, .bar2, .out, .meters, .calibs, .mons, .ram, .hmem, .rings, .strms, .axes, .grps, .slotRings, .cueQs, .binFlags, .slates, .cancels, .dqs, .cores, .cmbs, .engs, .poison] ws = true) (site : Nat)
    (kh_ : Kept ws s₀ s) : Kept ws s₀ (State.fioDown s site) := by
  have q0 := Field.sub_trans (by decide : Field.sub [.regs, .bar2, .out, .meters, .calibs] [.regs, .bar2, .out, .meters, .calibs, .mons, .ram, .hmem, .rings, .strms, .axes, .grps, .slotRings, .cueQs, .binFlags, .slates, .cancels, .dqs, .cores, .cmbs, .engs, .poison] = true) hs_
  have q1 := Field.sub_trans (by decide : Field.sub [.regs, .bar2, .out, .ram, .hmem, .rings, .strms, .axes, .grps, .slotRings, .cueQs, .binFlags, .slates, .cancels, .dqs, .cores, .cmbs, .engs, .poison] [.regs, .bar2, .out, .meters, .calibs, .mons, .ram, .hmem, .rings, .strms, .axes, .grps, .slotRings, .cueQs, .binFlags, .slates, .cancels, .dqs, .cores, .cmbs, .engs, .poison] = true) hs_
  have q2 := Field.sub_trans (by decide : Field.sub [.regs] [.regs, .bar2, .out, .meters, .calibs, .mons, .ram, .hmem, .rings, .strms, .axes, .grps, .slotRings, .cueQs, .binFlags, .slates, .cancels, .dqs, .cores, .cmbs, .engs, .poison] = true) hs_
  have q3 := Field.sub_trans (by decide : Field.sub [.meters] [.regs, .bar2, .out, .meters, .calibs, .mons, .ram, .hmem, .rings, .strms, .axes, .grps, .slotRings, .cueQs, .binFlags, .slates, .cancels, .dqs, .cores, .cmbs, .engs, .poison] = true) hs_
  have q4 := Field.sub_trans (by decide : Field.sub [.regs, .bar2, .out, .meters] [.regs, .bar2, .out, .meters, .calibs, .mons, .ram, .hmem, .rings, .strms, .axes, .grps, .slotRings, .cueQs, .binFlags, .slates, .cancels, .dqs, .cores, .cmbs, .engs, .poison] = true) hs_
  have q5 := Field.sub_trans (by decide : Field.sub [.regs, .bar2, .out] [.regs, .bar2, .out, .meters, .calibs, .mons, .ram, .hmem, .rings, .strms, .axes, .grps, .slotRings, .cueQs, .binFlags, .slates, .cancels, .dqs, .cores, .cmbs, .engs, .poison] = true) hs_
  have q6 := Field.sub_trans (by decide : Field.sub [.mons] [.regs, .bar2, .out, .meters, .calibs, .mons, .ram, .hmem, .rings, .strms, .axes, .grps, .slotRings, .cueQs, .binFlags, .slates, .cancels, .dqs, .cores, .cmbs, .engs, .poison] = true) hs_
  have q7 := Field.sub_trans (by decide : Field.sub [.regs, .bar2, .out, .mons, .ram, .hmem, .rings, .strms, .axes, .grps, .slotRings, .cueQs, .binFlags, .slates, .cancels, .dqs, .cores, .cmbs, .engs, .poison] [.regs, .bar2, .out, .meters, .calibs, .mons, .ram, .hmem, .rings, .strms, .axes, .grps, .slotRings, .cueQs, .binFlags, .slates, .cancels, .dqs, .cores, .cmbs, .engs, .poison] = true) hs_
  unfold State.fioDown
  extract_lets -merge s2 s3 s4 s5 s5_1 _ s6
  have k_s2 : Kept ws s₀ s2 := by
    unfold s2
    repeat' with_reducible first
      | assumption
      | intro _
      | apply Kept.ite
      | apply State.calAbortAll_kept q0
      | apply State.axisFault_kept q1
      | apply State.outsZero_kept q2
      | apply State.outsLow_kept q3
      | apply State.setCause_kept q2
      | apply State.setVstate_kept q4
      | apply State.evt_kept q5
      | apply State.showLims_kept q2
      | apply State.monTrack_kept q6
      | apply State.allPairsOff_kept q7
      | apply State.showMon_kept q2
      | apply State.setNat_kept q2
      | apply State.setMeter_kept q3
      | apply State.setMon_kept q6
      | apply Kept.foldl
      | split
      | extract_lets
  clear_value s2
  have k_s3 : Kept ws s₀ s3 := by
    unfold s3
    repeat' with_reducible first
      | assumption
      | intro _
      | apply Kept.ite
      | apply State.calAbortAll_kept q0
      | apply State.axisFault_kept q1
      | apply State.outsZero_kept q2
      | apply State.outsLow_kept q3
      | apply State.setCause_kept q2
      | apply State.setVstate_kept q4
      | apply State.evt_kept q5
      | apply State.showLims_kept q2
      | apply State.monTrack_kept q6
      | apply State.allPairsOff_kept q7
      | apply State.showMon_kept q2
      | apply State.setNat_kept q2
      | apply State.setMeter_kept q3
      | apply State.setMon_kept q6
      | apply Kept.foldl
      | split
      | extract_lets
  clear_value s3
  have k_s4 : Kept ws s₀ s4 := by
    unfold s4
    repeat' with_reducible first
      | assumption
      | intro _
      | apply Kept.ite
      | apply State.calAbortAll_kept q0
      | apply State.axisFault_kept q1
      | apply State.outsZero_kept q2
      | apply State.outsLow_kept q3
      | apply State.setCause_kept q2
      | apply State.setVstate_kept q4
      | apply State.evt_kept q5
      | apply State.showLims_kept q2
      | apply State.monTrack_kept q6
      | apply State.allPairsOff_kept q7
      | apply State.showMon_kept q2
      | apply State.setNat_kept q2
      | apply State.setMeter_kept q3
      | apply State.setMon_kept q6
      | apply Kept.foldl
      | split
      | extract_lets
  clear_value s4
  have k_s5 : Kept ws s₀ s5 := by
    unfold s5
    repeat' with_reducible first
      | assumption
      | intro _
      | apply Kept.ite
      | apply State.calAbortAll_kept q0
      | apply State.axisFault_kept q1
      | apply State.outsZero_kept q2
      | apply State.outsLow_kept q3
      | apply State.setCause_kept q2
      | apply State.setVstate_kept q4
      | apply State.evt_kept q5
      | apply State.showLims_kept q2
      | apply State.monTrack_kept q6
      | apply State.allPairsOff_kept q7
      | apply State.showMon_kept q2
      | apply State.setNat_kept q2
      | apply State.setMeter_kept q3
      | apply State.setMon_kept q6
      | apply Kept.foldl
      | split
      | extract_lets
  clear_value s5
  have k_s5_1 : Kept ws s₀ s5_1 := by
    unfold s5_1
    repeat' with_reducible first
      | assumption
      | intro _
      | apply Kept.ite
      | apply State.calAbortAll_kept q0
      | apply State.axisFault_kept q1
      | apply State.outsZero_kept q2
      | apply State.outsLow_kept q3
      | apply State.setCause_kept q2
      | apply State.setVstate_kept q4
      | apply State.evt_kept q5
      | apply State.showLims_kept q2
      | apply State.monTrack_kept q6
      | apply State.allPairsOff_kept q7
      | apply State.showMon_kept q2
      | apply State.setNat_kept q2
      | apply State.setMeter_kept q3
      | apply State.setMon_kept q6
      | apply Kept.foldl
      | split
      | extract_lets
  clear_value s5_1
  have k_s6 : Kept ws s₀ s6 := by
    unfold s6
    repeat' with_reducible first
      | assumption
      | intro _
      | apply Kept.ite
      | apply State.calAbortAll_kept q0
      | apply State.axisFault_kept q1
      | apply State.outsZero_kept q2
      | apply State.outsLow_kept q3
      | apply State.setCause_kept q2
      | apply State.setVstate_kept q4
      | apply State.evt_kept q5
      | apply State.showLims_kept q2
      | apply State.monTrack_kept q6
      | apply State.allPairsOff_kept q7
      | apply State.showMon_kept q2
      | apply State.setNat_kept q2
      | apply State.setMeter_kept q3
      | apply State.setMon_kept q6
      | apply Kept.foldl
      | split
      | extract_lets
  clear_value s6
  repeat' with_reducible first
    | assumption
    | intro _
    | apply Kept.ite
    | apply State.calAbortAll_kept q0
    | apply State.axisFault_kept q1
    | apply State.outsZero_kept q2
    | apply State.outsLow_kept q3
    | apply State.setCause_kept q2
    | apply State.setVstate_kept q4
    | apply State.evt_kept q5
    | apply State.showLims_kept q2
    | apply State.monTrack_kept q6
    | apply State.allPairsOff_kept q7
    | apply State.showMon_kept q2
    | apply State.setNat_kept q2
    | apply State.setMeter_kept q3
    | apply State.setMon_kept q6
    | apply Kept.foldl
    | split
    | extract_lets

theorem State.fioUp_kept {ws : List Field} {s₀ s : State} (hs_ : Field.sub [.regs, .bar2, .out, .meters, .mons] ws = true) (site : Nat)
    (kh_ : Kept ws s₀ s) : Kept ws s₀ (State.fioUp s site) := by
  have q0 := Field.sub_trans (by decide : Field.sub [.regs, .meters] [.regs, .bar2, .out, .meters, .mons] = true) hs_
  have q1 := Field.sub_trans (by decide : Field.sub [.regs, .bar2, .out] [.regs, .bar2, .out, .meters, .mons] = true) hs_
  have q2 := Field.sub_trans (by decide : Field.sub [.regs] [.regs, .bar2, .out, .meters, .mons] = true) hs_
  have q3 := Field.sub_trans (by decide : Field.sub [.mons] [.regs, .bar2, .out, .meters, .mons] = true) hs_
  unfold State.fioUp
  extract_lets -merge s2 s3 s4 _
  have k_s2 : Kept ws s₀ s2 := by
    unfold s2
    repeat' with_reducible first
      | assumption
      | intro _
      | apply Kept.ite
      | apply State.meterStart_kept q0
      | apply State.setSt_kept q1
      | apply State.evt_kept q1
      | apply State.showLims_kept q2
      | apply State.monTrack_kept q3
      | apply State.showMon_kept q2
      | apply State.setNat_kept q2
      | apply State.setMon_kept q3
      | apply Kept.foldl
      | split
      | extract_lets
  clear_value s2
  have k_s3 : Kept ws s₀ s3 := by
    unfold s3
    repeat' with_reducible first
      | assumption
      | intro _
      | apply Kept.ite
      | apply State.meterStart_kept q0
      | apply State.setSt_kept q1
      | apply State.evt_kept q1
      | apply State.showLims_kept q2
      | apply State.monTrack_kept q3
      | apply State.showMon_kept q2
      | apply State.setNat_kept q2
      | apply State.setMon_kept q3
      | apply Kept.foldl
      | split
      | extract_lets
  clear_value s3
  have k_s4 : Kept ws s₀ s4 := by
    unfold s4
    repeat' with_reducible first
      | assumption
      | intro _
      | apply Kept.ite
      | apply State.meterStart_kept q0
      | apply State.setSt_kept q1
      | apply State.evt_kept q1
      | apply State.showLims_kept q2
      | apply State.monTrack_kept q3
      | apply State.showMon_kept q2
      | apply State.setNat_kept q2
      | apply State.setMon_kept q3
      | apply Kept.foldl
      | split
      | extract_lets
  clear_value s4
  repeat' with_reducible first
    | assumption
    | intro _
    | apply Kept.ite
    | apply State.meterStart_kept q0
    | apply State.setSt_kept q1
    | apply State.evt_kept q1
    | apply State.showLims_kept q2
    | apply State.monTrack_kept q3
    | apply State.showMon_kept q2
    | apply State.setNat_kept q2
    | apply State.setMon_kept q3
    | apply Kept.foldl
    | split
    | extract_lets

theorem State.fioEdge_kept {ws : List Field} {s₀ s : State} (hs_ : Field.sub [.regs, .bar2, .out, .fios, .meters, .calibs, .mons, .ram, .hmem, .rings, .strms, .axes, .grps, .slotRings, .cueQs, .binFlags, .slates, .cancels, .dqs, .cores, .cmbs, .engs, .poison] ws = true) (site : Nat)
    (kh_ : Kept ws s₀ s) : Kept ws s₀ (State.fioEdge s site) := by
  have q0 := Field.sub_trans (by decide : Field.sub [.fios] [.regs, .bar2, .out, .fios, .meters, .calibs, .mons, .ram, .hmem, .rings, .strms, .axes, .grps, .slotRings, .cueQs, .binFlags, .slates, .cancels, .dqs, .cores, .cmbs, .engs, .poison] = true) hs_
  have q1 := Field.sub_trans (by decide : Field.sub [.regs] [.regs, .bar2, .out, .fios, .meters, .calibs, .mons, .ram, .hmem, .rings, .strms, .axes, .grps, .slotRings, .cueQs, .binFlags, .slates, .cancels, .dqs, .cores, .cmbs, .engs, .poison] = true) hs_
  have q2 := Field.sub_trans (by decide : Field.sub [.regs, .bar2, .out, .meters, .mons] [.regs, .bar2, .out, .fios, .meters, .calibs, .mons, .ram, .hmem, .rings, .strms, .axes, .grps, .slotRings, .cueQs, .binFlags, .slates, .cancels, .dqs, .cores, .cmbs, .engs, .poison] = true) hs_
  have q3 := Field.sub_trans (by decide : Field.sub [.regs, .bar2, .out, .meters, .calibs, .mons, .ram, .hmem, .rings, .strms, .axes, .grps, .slotRings, .cueQs, .binFlags, .slates, .cancels, .dqs, .cores, .cmbs, .engs, .poison] [.regs, .bar2, .out, .fios, .meters, .calibs, .mons, .ram, .hmem, .rings, .strms, .axes, .grps, .slotRings, .cueQs, .binFlags, .slates, .cancels, .dqs, .cores, .cmbs, .engs, .poison] = true) hs_
  unfold State.fioEdge
  extract_lets -merge was s1 is
  clear_value was is
  have k_s1 : Kept ws s₀ s1 := by
    unfold s1
    repeat' with_reducible first
      | assumption
      | intro _
      | apply Kept.ite
      | apply State.fioLetGo_kept q0
      | apply State.showFio_kept q1
      | apply State.fioUp_kept q2
      | apply State.fioDown_kept q3
      | apply Kept.foldl
      | split
      | extract_lets
  clear_value s1
  repeat' with_reducible first
    | assumption
    | intro _
    | apply Kept.ite
    | apply State.fioLetGo_kept q0
    | apply State.showFio_kept q1
    | apply State.fioUp_kept q2
    | apply State.fioDown_kept q3
    | apply Kept.foldl
    | split
    | extract_lets

theorem State.vfio_kept {ws : List Field} {s₀ s : State} (hs_ : Field.sub [.regs, .fios] ws = true) (site a b : Nat)
    (kh_ : Kept ws s₀ s) : Kept ws s₀ (State.vfio s site a b) := by
  have q0 := Field.sub_trans (by decide : Field.sub [.regs] [.regs, .fios] = true) hs_
  have q1 := Field.sub_trans (by decide : Field.sub [.fios] [.regs, .fios] = true) hs_
  unfold State.vfio
  extract_lets -merge on f
  clear_value on f
  repeat' with_reducible first
    | assumption
    | intro _
    | apply Kept.ite
    | apply State.putBit_kept q0
    | apply State.setFio_kept q1
    | apply Kept.foldl
    | split
    | extract_lets

theorem State.fioBackToA_kept {ws : List Field} {s₀ s : State} (hs_ : Field.sub [.regs, .bar2, .out, .fios, .meters, .calibs, .mons, .ram, .hmem, .rings, .strms, .axes, .grps, .slotRings, .cueQs, .binFlags, .slates, .cancels, .dqs, .cores, .cmbs, .engs, .poison] ws = true) (site : Nat)
    (kh_ : Kept ws s₀ s) : Kept ws s₀ (State.fioBackToA s site) := by
  have q0 := Field.sub_trans (by decide : Field.sub [.regs, .bar2, .out] [.regs, .bar2, .out, .fios, .meters, .calibs, .mons, .ram, .hmem, .rings, .strms, .axes, .grps, .slotRings, .cueQs, .binFlags, .slates, .cancels, .dqs, .cores, .cmbs, .engs, .poison] = true) hs_
  have q1 := Field.sub_trans (by decide : Field.sub [.regs] [.regs, .bar2, .out, .fios, .meters, .calibs, .mons, .ram, .hmem, .rings, .strms, .axes, .grps, .slotRings, .cueQs, .binFlags, .slates, .cancels, .dqs, .cores, .cmbs, .engs, .poison] = true) hs_
  have q2 := Field.sub_trans (by decide : Field.sub [.fios] [.regs, .bar2, .out, .fios, .meters, .calibs, .mons, .ram, .hmem, .rings, .strms, .axes, .grps, .slotRings, .cueQs, .binFlags, .slates, .cancels, .dqs, .cores, .cmbs, .engs, .poison] = true) hs_
  unfold State.fioBackToA
  extract_lets -merge p _ s1
  clear_value p
  have k_s1 : Kept ws s₀ s1 := by
    unfold s1
    repeat' with_reducible first
      | assumption
      | intro _
      | apply Kept.ite
      | apply State.evt_kept q0
      | apply State.fioEdge_kept hs_
      | apply State.putBit_kept q1
      | apply State.setFio_kept q2
      | apply Kept.foldl
      | split
      | extract_lets
  clear_value s1
  repeat' with_reducible first
    | assumption
    | intro _
    | apply Kept.ite
    | apply State.evt_kept q0
    | apply State.fioEdge_kept hs_
    | apply State.putBit_kept q1
    | apply State.setFio_kept q2
    | apply Kept.foldl
    | split
    | extract_lets

theorem State.fioSwitch_kept {ws : List Field} {s₀ s : State} (hs_ : Field.sub [.regs, .bar2, .out, .fios, .meters, .calibs, .mons, .ram, .hmem, .rings, .strms, .axes, .grps, .slotRings, .cueQs, .binFlags, .slates, .cancels, .dqs, .cores, .cmbs, .engs, .poison] ws = true) (site a b : Nat) (fell : Bool)
    (kh_ : Kept ws s₀ s) : Kept ws s₀ (State.fioSwitch s site a b fell) := by
  have q0 := Field.sub_trans (by decide : Field.sub [.regs, .bar2, .out] [.regs, .bar2, .out, .fios, .meters, .calibs, .mons, .ram, .hmem, .rings, .strms, .axes, .grps, .slotRings, .cueQs, .binFlags, .slates, .cancels, .dqs, .cores, .cmbs, .engs, .poison] = true) hs_
  have q1 := Field.sub_trans (by decide : Field.sub [.regs, .fios] [.regs, .bar2, .out, .fios, .meters, .calibs, .mons, .ram, .hmem, .rings, .strms, .axes, .grps, .slotRings, .cueQs, .binFlags, .slates, .cancels, .dqs, .cores, .cmbs, .engs, .poison] = true) hs_
  have q2 := Field.sub_trans (by decide : Field.sub [.regs] [.regs, .bar2, .out, .fios, .meters, .calibs, .mons, .ram, .hmem, .rings, .strms, .axes, .grps, .slotRings, .cueQs, .binFlags, .slates, .cancels, .dqs, .cores, .cmbs, .engs, .poison] = true) hs_
  unfold State.fioSwitch
  extract_lets -merge p s1
  clear_value p
  have k_s1 : Kept ws s₀ s1 := by
    unfold s1
    repeat' with_reducible first
      | assumption
      | intro _
      | apply Kept.ite
      | apply State.evtIf_kept q0
      | apply State.evt_kept q0
      | apply State.fioBackToA_kept hs_
      | apply State.vfio_kept q1
      | apply State.fioEdge_kept hs_
      | apply State.putBit_kept q2
      | apply Kept.foldl
      | split
      | extract_lets
  clear_value s1
  repeat' with_reducible first
    | assumption
    | intro _
    | apply Kept.ite
    | apply State.evtIf_kept q0
    | apply State.evt_kept q0
    | apply State.fioBackToA_kept hs_
    | apply State.vfio_kept q1
    | apply State.fioEdge_kept hs_
    | apply State.putBit_kept q2
    | apply Kept.foldl
    | split
    | extract_lets

theorem execFioToBackup_kept {ws : List Field} {s₀ s : State} (hs_ : Field.sub [.regs, .bar2, .out, .fios, .meters, .calibs, .mons, .ram, .hmem, .rings, .strms, .axes, .grps, .slotRings, .cueQs, .binFlags, .slates, .cancels, .dqs, .cores, .cmbs, .engs, .poison] ws = true) (site aMv bMv : Nat)
    (kh_ : Kept ws s₀ s) : Kept ws s₀ (after s (execFioToBackup site aMv bMv s)) := by
  unfold execFioToBackup
  repeat' with_reducible first
    | assumption
    | intro _
    | apply Kept.after_next
    | apply Kept.ite
    | apply State.fioSwitch_kept hs_
    | apply Kept.foldl
    | split
    | extract_lets

theorem execFioToMain_kept {ws : List Field} {s₀ s : State} (hs_ : Field.sub [.regs, .bar2, .out, .fios, .meters, .calibs, .mons, .ram, .hmem, .rings, .strms, .axes, .grps, .slotRings, .cueQs, .binFlags, .slates, .cancels, .dqs, .cores, .cmbs, .engs, .poison] ws = true) (site : Nat)
    (kh_ : Kept ws s₀ s) : Kept ws s₀ (after s (execFioToMain site s)) := by
  unfold execFioToMain
  repeat' with_reducible first
    | assumption
    | intro _
    | apply Kept.after_next
    | apply Kept.ite
    | apply State.fioBackToA_kept hs_
    | apply Kept.foldl
    | split
    | extract_lets

theorem execVfioAReturn_kept {ws : List Field} {s₀ s : State} (hs_ : Field.sub [.regs, .bar2, .out, .fios, .meters, .calibs, .mons, .ram, .hmem, .rings, .strms, .axes, .grps, .slotRings, .cueQs, .binFlags, .slates, .cancels, .dqs, .cores, .cmbs, .engs, .poison] ws = true) (site aMv bMv : Nat)
    (kh_ : Kept ws s₀ s) : Kept ws s₀ (after s (execVfioAReturn site aMv bMv s)) := by
  unfold execVfioAReturn
  repeat' with_reducible first
    | assumption
    | intro _
    | apply Kept.after_next
    | apply Kept.ite
    | apply State.fioSwitch_kept hs_
    | apply Kept.foldl
    | split
    | extract_lets

theorem execFioLost_kept {ws : List Field} {s₀ s : State} (hs_ : Field.sub [.regs, .bar2, .out, .fios, .meters, .calibs, .mons, .ram, .hmem, .rings, .strms, .axes, .grps, .slotRings, .cueQs, .binFlags, .slates, .cancels, .dqs, .cores, .cmbs, .engs, .poison] ws = true) (site aMv bMv : Nat)
    (kh_ : Kept ws s₀ s) : Kept ws s₀ (after s (execFioLost site aMv bMv s)) := by
  have q0 := Field.sub_trans (by decide : Field.sub [.regs, .fios] [.regs, .bar2, .out, .fios, .meters, .calibs, .mons, .ram, .hmem, .rings, .strms, .axes, .grps, .slotRings, .cueQs, .binFlags, .slates, .cancels, .dqs, .cores, .cmbs, .engs, .poison] = true) hs_
  unfold execFioLost
  repeat' with_reducible first
    | assumption
    | intro _
    | apply Kept.after_next
    | apply Kept.ite
    | apply State.vfio_kept q0
    | apply State.fioEdge_kept hs_
    | apply Kept.foldl
    | split
    | extract_lets

theorem execFioRestored_kept {ws : List Field} {s₀ s : State} (hs_ : Field.sub [.regs, .bar2, .out, .fios, .meters, .calibs, .mons, .ram, .hmem, .rings, .strms, .axes, .grps, .slotRings, .cueQs, .binFlags, .slates, .cancels, .dqs, .cores, .cmbs, .engs, .poison] ws = true) (site aMv bMv : Nat)
    (kh_ : Kept ws s₀ s) : Kept ws s₀ (after s (execFioRestored site aMv bMv s)) := by
  have q0 := Field.sub_trans (by decide : Field.sub [.regs, .fios] [.regs, .bar2, .out, .fios, .meters, .calibs, .mons, .ram, .hmem, .rings, .strms, .axes, .grps, .slotRings, .cueQs, .binFlags, .slates, .cancels, .dqs, .cores, .cmbs, .engs, .poison] = true) hs_
  unfold execFioRestored
  repeat' with_reducible first
    | assumption
    | intro _
    | apply Kept.after_next
    | apply Kept.ite
    | apply State.vfio_kept q0
    | apply State.fioEdge_kept hs_
    | apply Kept.foldl
    | split
    | extract_lets

theorem execMainLost_kept {ws : List Field} {s₀ s : State} (hs_ : Field.sub [.regs, .latch, .back, .bar2, .out, .sup, .fios, .slots, .groups, .gaffer, .tenants, .sec, .ens, .ports, .boot, .ram, .hmem, .mute, .loads, .rings, .strms, .axes, .grps, .slotRings, .cueQs, .binFlags, .slates, .cancels, .tqs, .sched, .dqs, .cores, .cmbs, .engs, .mmus, .grans, .granBusy, .poison, .buckets, .arbs, .capQs, .avs, .bndTaken, .ces, .scrubs] ws = true)
    (kh_ : Kept ws s₀ s) : Kept ws s₀ (after s (execMainLost s)) := by
  have q0 := Field.sub_trans (by decide : Field.sub [.regs, .bar2, .out] [.regs, .latch, .back, .bar2, .out, .sup, .fios, .slots, .groups, .gaffer, .tenants, .sec, .ens, .ports, .boot, .ram, .hmem, .mute, .loads, .rings, .strms, .axes, .grps, .slotRings, .cueQs, .binFlags, .slates, .cancels, .tqs, .sched, .dqs, .cores, .cmbs, .engs, .mmus, .grans, .granBusy, .poison, .buckets, .arbs, .capQs, .avs, .bndTaken, .ces, .scrubs] = true) hs_
  have q1 := Field.sub_trans (by decide : Field.sub [.regs, .latch, .back, .bar2, .out, .slots, .groups, .gaffer, .tenants, .sec, .ens, .ports, .boot, .ram, .mute, .loads, .rings, .strms, .slotRings, .cueQs, .binFlags, .slates, .cancels, .tqs, .sched, .dqs, .cores, .cmbs, .engs, .mmus, .grans, .granBusy, .poison, .buckets, .arbs, .capQs, .avs, .bndTaken, .ces, .scrubs] [.regs, .latch, .back, .bar2, .out, .sup, .fios, .slots, .groups, .gaffer, .tenants, .sec, .ens, .ports, .boot, .ram, .hmem, .mute, .loads, .rings, .strms, .axes, .grps, .slotRings, .cueQs, .binFlags, .slates, .cancels, .tqs, .sched, .dqs, .cores, .cmbs, .engs, .mmus, .grans, .granBusy, .poison, .buckets, .arbs, .capQs, .avs, .bndTaken, .ces, .scrubs] = true) hs_
  have q2 := Field.sub_trans (by decide : Field.sub [.regs] [.regs, .latch, .back, .bar2, .out, .sup, .fios, .slots, .groups, .gaffer, .tenants, .sec, .ens, .ports, .boot, .ram, .hmem, .mute, .loads, .rings, .strms, .axes, .grps, .slotRings, .cueQs, .binFlags, .slates, .cancels, .tqs, .sched, .dqs, .cores, .cmbs, .engs, .mmus, .grans, .granBusy, .poison, .buckets, .arbs, .capQs, .avs, .bndTaken, .ces, .scrubs] = true) hs_
  have q3 := Field.sub_trans (by decide : Field.sub [.regs, .bar2, .out, .fios, .ram, .hmem, .rings, .strms, .axes, .grps, .slotRings, .cueQs, .binFlags, .slates, .cancels, .dqs, .cores, .cmbs, .engs, .poison] [.regs, .latch, .back, .bar2, .out, .sup, .fios, .slots, .groups, .gaffer, .tenants, .sec, .ens, .ports, .boot, .ram, .hmem, .mute, .loads, .rings, .strms, .axes, .grps, .slotRings, .cueQs, .binFlags, .slates, .cancels, .tqs, .sched, .dqs, .cores, .cmbs, .engs, .mmus, .grans, .granBusy, .poison, .buckets, .arbs, .capQs, .avs, .bndTaken, .ces, .scrubs] = true) hs_
  have q4 := Field.sub_trans (by decide : Field.sub [.sup] [.regs, .latch, .back, .bar2, .out, .sup, .fios, .slots, .groups, .gaffer, .tenants, .sec, .ens, .ports, .boot, .ram, .hmem, .mute, .loads, .rings, .strms, .axes, .grps, .slotRings, .cueQs, .binFlags, .slates, .cancels, .tqs, .sched, .dqs, .cores, .cmbs, .engs, .mmus, .grans, .granBusy, .poison, .buckets, .arbs, .capQs, .avs, .bndTaken, .ces, .scrubs] = true) hs_
  unfold execMainLost
  extract_lets -merge s1 s2 _ _
  have k_s1 : Kept ws s₀ s1 := by
    unfold s1
    repeat' with_reducible first
      | assumption
      | intro _
      | apply Kept.after_next
      | apply Kept.ite
      | apply State.evt_kept q0
      | apply State.resetMain_kept q1
      | apply State.setNat_kept q2
      | apply State.supplySplice_kept q3
      | apply State.putBit_kept q2
      | apply Kept.foldl
      | split
      | extract_lets
      | apply Kept.set_sup _ q4
  clear_value s1
  have k_s2 : Kept ws s₀ s2 := by
    unfold s2
    repeat' with_reducible first
      | assumption
      | intro _
      | apply Kept.after_next
      | apply Kept.ite
      | apply State.evt_kept q0
      | apply State.resetMain_kept q1
      | apply State.setNat_kept q2
      | apply State.supplySplice_kept q3
      | apply State.putBit_kept q2
      | apply Kept.foldl
      | split
      | extract_lets
      | apply Kept.set_sup _ q4
  clear_value s2
  repeat' with_reducible first
    | assumption
    | intro _
    | apply Kept.after_next
    | apply Kept.ite
    | apply State.evt_kept q0
    | apply State.resetMain_kept q1
    | apply State.setNat_kept q2
    | apply State.supplySplice_kept q3
    | apply State.putBit_kept q2
    | apply Kept.foldl
    | split
    | extract_lets
    | apply Kept.set_sup _ q4

theorem execMainPgRise_kept {ws : List Field} {s₀ s : State} (hs_ : Field.sub [.regs, .bar2, .out, .sup, .fios, .ram, .hmem, .rings, .strms, .axes, .grps, .slotRings, .cueQs, .binFlags, .slates, .cancels, .dqs, .cores, .cmbs, .engs, .poison] ws = true)
    (kh_ : Kept ws s₀ s) : Kept ws s₀ (after s (execMainPgRise s)) := by
  have q0 := Field.sub_trans (by decide : Field.sub [.regs] [.regs, .bar2, .out, .sup, .fios, .ram, .hmem, .rings, .strms, .axes, .grps, .slotRings, .cueQs, .binFlags, .slates, .cancels, .dqs, .cores, .cmbs, .engs, .poison] = true) hs_
  have q1 := Field.sub_trans (by decide : Field.sub [.regs, .bar2, .out, .fios, .ram, .hmem, .rings, .strms, .axes, .grps, .slotRings, .cueQs, .binFlags, .slates, .cancels, .dqs, .cores, .cmbs, .engs, .poison] [.regs, .bar2, .out, .sup, .fios, .ram, .hmem, .rings, .strms, .axes, .grps, .slotRings, .cueQs, .binFlags, .slates, .cancels, .dqs, .cores, .cmbs, .engs, .poison] = true) hs_
  have q2 := Field.sub_trans (by decide : Field.sub [.sup] [.regs, .bar2, .out, .sup, .fios, .ram, .hmem, .rings, .strms, .axes, .grps, .slotRings, .cueQs, .binFlags, .slates, .cancels, .dqs, .cores, .cmbs, .engs, .poison] = true) hs_
  unfold execMainPgRise
  extract_lets -merge s1 s2 _
  have k_s1 : Kept ws s₀ s1 := by
    unfold s1
    repeat' with_reducible first
      | assumption
      | intro _
      | apply Kept.after_next
      | apply Kept.ite
      | apply State.setNat_kept q0
      | apply State.supplySplice_kept q1
      | apply State.putBit_kept q0
      | apply Kept.foldl
      | split
      | extract_lets
      | apply Kept.set_sup _ q2
  clear_value s1
  have k_s2 : Kept ws s₀ s2 := by
    unfold s2
    repeat' with_reducible first
      | assumption
      | intro _
      | apply Kept.after_next
      | apply Kept.ite
      | apply State.setNat_kept q0
      | apply State.supplySplice_kept q1
      | apply State.putBit_kept q0
      | apply Kept.foldl
      | split
      | extract_lets
      | apply Kept.set_sup _ q2
  clear_value s2
  repeat' with_reducible first
    | assumption
    | intro _
    | apply Kept.after_next
    | apply Kept.ite
    | apply State.setNat_kept q0
    | apply State.supplySplice_kept q1
    | apply State.putBit_kept q0
    | apply Kept.foldl
    | split
    | extract_lets
    | apply Kept.set_sup _ q2

theorem execMainRelease_kept {ws : List Field} {s₀ s : State} (hs_ : Field.sub [.regs, .bar2, .out, .sec, .rings] ws = true)
    (kh_ : Kept ws s₀ s) : Kept ws s₀ (after s (execMainRelease s)) := by
  unfold execMainRelease
  repeat' with_reducible first
    | assumption
    | intro _
    | apply Kept.after_next
    | apply Kept.ite
    | apply State.mainUp_kept hs_
    | apply Kept.foldl
    | split
    | extract_lets

theorem execAonPowerOnReset_kept {ws : List Field} {s₀ s : State} (hs_ : Field.sub [.asm, .lead, .regs, .latch, .rdata, .rdataHi, .back, .bar2, .out, .now, .clapper, .clk, .sup, .fios, .ticks, .encs, .poss, .cevs, .segArms, .slots, .groups, .order, .meters, .calibs, .gaffer, .tenants, .sec, .ens, .ports, .mons, .boot, .ram, .hmem, .badCpl, .mute, .flash, .weak, .loads, .restarts, .rings, .strms, .gates, .axes, .grps, .slotRings, .cueQs, .binFlags, .slates, .gens, .cancels, .tqs, .sched, .dqs, .cores, .cmbs, .engs, .mmus, .grans, .granBusy, .poison, .buckets, .arbs, .capQs, .avs, .bndTaken, .ces, .scrubs, .free, .pending] ws = true)
    (kh_ : Kept ws s₀ s) : Kept ws s₀ (after s (execAonPowerOnReset s)) := by
  have q0 := Field.sub_trans (by decide : Field.sub [.sup] [.asm, .lead, .regs, .latch, .rdata, .rdataHi, .back, .bar2, .out, .now, .clapper, .clk, .sup, .fios, .ticks, .encs, .poss, .cevs, .segArms, .slots, .groups, .order, .meters, .calibs, .gaffer, .tenants, .sec, .ens, .ports, .mons, .boot, .ram, .hmem, .badCpl, .mute, .flash, .weak, .loads, .restarts, .rings, .strms, .gates, .axes, .grps, .slotRings, .cueQs, .binFlags, .slates, .gens, .cancels, .tqs, .sched, .dqs, .cores, .cmbs, .engs, .mmus, .grans, .granBusy, .poison, .buckets, .arbs, .capQs, .avs, .bndTaken, .ces, .scrubs, .free, .pending] = true) hs_
  have q1 := Field.sub_trans (by decide : Field.sub [.free] [.asm, .lead, .regs, .latch, .rdata, .rdataHi, .back, .bar2, .out, .now, .clapper, .clk, .sup, .fios, .ticks, .encs, .poss, .cevs, .segArms, .slots, .groups, .order, .meters, .calibs, .gaffer, .tenants, .sec, .ens, .ports, .mons, .boot, .ram, .hmem, .badCpl, .mute, .flash, .weak, .loads, .restarts, .rings, .strms, .gates, .axes, .grps, .slotRings, .cueQs, .binFlags, .slates, .gens, .cancels, .tqs, .sched, .dqs, .cores, .cmbs, .engs, .mmus, .grans, .granBusy, .poison, .buckets, .arbs, .capQs, .avs, .bndTaken, .ces, .scrubs, .free, .pending] = true) hs_
  unfold execAonPowerOnReset
  extract_lets -merge mv _
  clear_value mv
  repeat' with_reducible first
    | assumption
    | intro _
    | apply Kept.after_next
    | apply Kept.ite
    | apply State.packageReset_kept hs_
    | apply Kept.foldl
    | split
    | extract_lets
    | apply State.draw_kept q1
    | apply Kept.set_sup _ q0

theorem execPorN_kept {ws : List Field} {s₀ s : State} (hs_ : Field.sub [.asm, .lead, .regs, .latch, .rdata, .rdataHi, .back, .bar2, .out, .now, .clapper, .clk, .sup, .fios, .ticks, .encs, .poss, .cevs, .segArms, .slots, .groups, .order, .meters, .calibs, .gaffer, .tenants, .sec, .ens, .ports, .mons, .boot, .ram, .hmem, .badCpl, .mute, .flash, .weak, .loads, .restarts, .rings, .strms, .gates, .axes, .grps, .slotRings, .cueQs, .binFlags, .slates, .gens, .cancels, .tqs, .sched, .dqs, .cores, .cmbs, .engs, .mmus, .grans, .granBusy, .poison, .buckets, .arbs, .capQs, .avs, .bndTaken, .ces, .scrubs, .free, .pending] ws = true) (lowNs : Nat)
    (kh_ : Kept ws s₀ s) : Kept ws s₀ (after s (execPorN lowNs s)) := by
  have q0 := Field.sub_trans (by decide : Field.sub [.free] [.asm, .lead, .regs, .latch, .rdata, .rdataHi, .back, .bar2, .out, .now, .clapper, .clk, .sup, .fios, .ticks, .encs, .poss, .cevs, .segArms, .slots, .groups, .order, .meters, .calibs, .gaffer, .tenants, .sec, .ens, .ports, .mons, .boot, .ram, .hmem, .badCpl, .mute, .flash, .weak, .loads, .restarts, .rings, .strms, .gates, .axes, .grps, .slotRings, .cueQs, .binFlags, .slates, .gens, .cancels, .tqs, .sched, .dqs, .cores, .cmbs, .engs, .mmus, .grans, .granBusy, .poison, .buckets, .arbs, .capQs, .avs, .bndTaken, .ces, .scrubs, .free, .pending] = true) hs_
  unfold execPorN
  repeat' with_reducible first
    | assumption
    | intro _
    | apply Kept.after_next
    | apply Kept.ite
    | apply State.packageReset_kept hs_
    | apply State.draw_kept q0
    | apply Kept.foldl
    | split
    | extract_lets

theorem execRstCmd_kept {ws : List Field} {s₀ s : State} (hs_ : Field.sub [.regs, .bar2, .out, .sup] ws = true) (req : Nat) (val : Word)
    (kh_ : Kept ws s₀ s) : Kept ws s₀ (after s (execRstCmd req val s)) := by
  have q0 := Field.sub_trans (by decide : Field.sub [.regs, .bar2, .out] [.regs, .bar2, .out, .sup] = true) hs_
  have q1 := Field.sub_trans (by decide : Field.sub [.sup] [.regs, .bar2, .out, .sup] = true) hs_
  unfold execRstCmd
  repeat' with_reducible first
    | assumption
    | intro _
    | apply Kept.after_next
    | apply Kept.ite
    | apply State.asWrite_kept q0
    | apply State.reject_kept q0
    | apply Kept.foldl
    | split
    | extract_lets
    | apply Kept.set_sup _ q1

theorem execSysRstN_kept {ws : List Field} {s₀ s : State} (hs_ : Field.sub [.regs, .latch, .back, .bar2, .out, .fios, .slots, .groups, .gaffer, .tenants, .sec, .ens, .ports, .boot, .ram, .hmem, .mute, .loads, .rings, .strms, .axes, .grps, .slotRings, .cueQs, .binFlags, .slates, .cancels, .tqs, .sched, .dqs, .cores, .cmbs, .engs, .mmus, .grans, .granBusy, .poison, .buckets, .arbs, .capQs, .avs, .bndTaken, .ces, .scrubs, .free] ws = true) (lowNs : Nat)
    (kh_ : Kept ws s₀ s) : Kept ws s₀ (after s (execSysRstN lowNs s)) := by
  have q0 := Field.sub_trans (by decide : Field.sub [.regs, .latch, .back, .bar2, .out, .fios, .slots, .groups, .gaffer, .tenants, .sec, .ens, .ports, .boot, .ram, .hmem, .mute, .loads, .rings, .strms, .axes, .grps, .slotRings, .cueQs, .binFlags, .slates, .cancels, .tqs, .sched, .dqs, .cores, .cmbs, .engs, .mmus, .grans, .granBusy, .poison, .buckets, .arbs, .capQs, .avs, .bndTaken, .ces, .scrubs] [.regs, .latch, .back, .bar2, .out, .fios, .slots, .groups, .gaffer, .tenants, .sec, .ens, .ports, .boot, .ram, .hmem, .mute, .loads, .rings, .strms, .axes, .grps, .slotRings, .cueQs, .binFlags, .slates, .cancels, .tqs, .sched, .dqs, .cores, .cmbs, .engs, .mmus, .grans, .granBusy, .poison, .buckets, .arbs, .capQs, .avs, .bndTaken, .ces, .scrubs, .free] = true) hs_
  have q1 := Field.sub_trans (by decide : Field.sub [.free] [.regs, .latch, .back, .bar2, .out, .fios, .slots, .groups, .gaffer, .tenants, .sec, .ens, .ports, .boot, .ram, .hmem, .mute, .loads, .rings, .strms, .axes, .grps, .slotRings, .cueQs, .binFlags, .slates, .cancels, .tqs, .sched, .dqs, .cores, .cmbs, .engs, .mmus, .grans, .granBusy, .poison, .buckets, .arbs, .capQs, .avs, .bndTaken, .ces, .scrubs, .free] = true) hs_
  unfold execSysRstN
  repeat' with_reducible first
    | assumption
    | intro _
    | apply Kept.after_next
    | apply Kept.ite
    | apply State.mainReset_kept q0
    | apply State.draw_kept q1
    | apply Kept.foldl
    | split
    | extract_lets

theorem execTrstN_kept {ws : List Field} {s₀ s : State} (hs_ : Field.sub [.sec, .free] ws = true) (lowNs : Nat)
    (kh_ : Kept ws s₀ s) : Kept ws s₀ (after s (execTrstN lowNs s)) := by
  have q0 := Field.sub_trans (by decide : Field.sub [.free] [.sec, .free] = true) hs_
  have q1 := Field.sub_trans (by decide : Field.sub [.sec] [.sec, .free] = true) hs_
  unfold execTrstN
  extract_lets -merge _
  repeat' with_reducible first
    | assumption
    | intro _
    | apply Kept.after_next
    | apply Kept.ite
    | apply State.draw_kept q0
    | apply Kept.foldl
    | split
    | extract_lets
    | apply Kept.set_sec_free _ _ q1 q0

end Sys2Proof.Machine
end

