-- ==== Sys2Proof/Laws/KTakes.lean ====
section
/-!
SUPPORT. Laws/KTakes.lean: what each operation of Machine/Takes.lean may change, and that it keeps the canonical form.
-/
namespace Sys2Proof.Machine

theorem State.doorbell_kept {ws : List Field} {s₀ s : State} (hs_ : Field.sub [.regs, .bar2, .out] ws = true) (req t q : Nat) (val : Word)
    (kh_ : Kept ws s₀ s) : Kept ws s₀ (State.doorbell s req t q val) := by
  have q0 := Field.sub_trans (by decide : Field.sub [.regs] [.regs, .bar2, .out] = true) hs_
  unfold State.doorbell
  extract_lets -merge p v
  clear_value p v
  repeat' with_reducible first
    | assumption
    | intro _
    | apply Kept.ite
    | apply State.reject_kept hs_
    | apply State.evt_kept hs_
    | apply State.putBit_kept q0
    | apply State.setReg_kept q0
    | apply Kept.foldl
    | split
    | extract_lets

theorem execSqTail_kept {ws : List Field} {s₀ s : State} (hs_ : Field.sub [.regs, .bar2, .out] ws = true) (req t q : Nat) (val : Word)
    (kh_ : Kept ws s₀ s) : Kept ws s₀ (after s (execSqTail req t q val s)) := by
  unfold execSqTail
  repeat' with_reducible first
    | assumption
    | intro _
    | apply Kept.after_next
    | apply Kept.ite
    | apply State.asWrite_kept hs_
    | apply State.doorbell_kept hs_
    | apply Kept.foldl
    | split
    | extract_lets

theorem State.pushEntry_kept {ws : List Field} {s₀ s : State} (hs_ : Field.sub [.regs, .tqs] ws = true) (t q : Nat) (e : Entry)
    (kh_ : Kept ws s₀ s) : Kept ws s₀ (State.pushEntry s t q e) := by
  have q0 := Field.sub_trans (by decide : Field.sub [.tqs] [.regs, .tqs] = true) hs_
  have q1 := Field.sub_trans (by decide : Field.sub [.regs] [.regs, .tqs] = true) hs_
  unfold State.pushEntry
  extract_lets -merge x p
  clear_value x p
  repeat' with_reducible first
    | assumption
    | intro _
    | apply Kept.ite
    | apply State.fences_kept q0
    | apply State.addWrap_kept q1
    | apply State.setTq_kept q0
    | apply Kept.foldl
    | split
    | extract_lets

theorem State.refuseTake_kept {ws : List Field} {s₀ s : State} (hs_ : Field.sub [.regs, .bar2, .out, .tqs] ws = true) (t q status : Nat) (e : Entry)
    (kh_ : Kept ws s₀ s) : Kept ws s₀ (State.refuseTake s t q status e) := by
  have q0 := Field.sub_trans (by decide : Field.sub [.regs, .bar2, .out] [.regs, .bar2, .out, .tqs] = true) hs_
  have q1 := Field.sub_trans (by decide : Field.sub [.regs] [.regs, .bar2, .out, .tqs] = true) hs_
  have q2 := Field.sub_trans (by decide : Field.sub [.regs, .tqs] [.regs, .bar2, .out, .tqs] = true) hs_
  unfold State.refuseTake
  extract_lets -merge p idx s1
  clear_value p idx
  have k_s1 : Kept ws s₀ s1 := by
    unfold s1
    repeat' with_reducible first
      | assumption
      | intro _
      | apply Kept.ite
      | apply State.evt_kept q0
      | apply State.setNat_kept q1
      | apply State.pushEntry_kept q2
      | apply Kept.foldl
      | split
      | extract_lets
  clear_value s1
  repeat' with_reducible first
    | assumption
    | intro _
    | apply Kept.ite
    | apply State.evt_kept q0
    | apply State.setNat_kept q1
    | apply State.pushEntry_kept q2
    | apply Kept.foldl
    | split
    | extract_lets

theorem State.fetchTake_kept {ws : List Field} {s₀ s : State} (hs_ : Field.sub [.regs, .bar2, .out, .tqs] ws = true) (t q : Nat) (d : List Byte)
    (kh_ : Kept ws s₀ s) : Kept ws s₀ (State.fetchTake s t q d) := by
  have q0 := Field.sub_trans (by decide : Field.sub [.regs, .tqs] [.regs, .bar2, .out, .tqs] = true) hs_
  have q1 := Field.sub_trans (by decide : Field.sub [.tqs] [.regs, .bar2, .out, .tqs] = true) hs_
  unfold State.fetchTake
  extract_lets -merge e f now x est
  clear_value e f now x est
  repeat' with_reducible first
    | assumption
    | intro _
    | apply Kept.ite
    | apply State.refuseTake_kept hs_
    | apply State.pushEntry_kept q0
    | apply State.setTq_kept q1
    | apply Kept.foldl
    | split
    | extract_lets

theorem execTake_kept {ws : List Field} {s₀ s : State} (hs_ : Field.sub [.regs, .bar2, .out, .tqs] ws = true) (t q : Nat) (desc : List Byte)
    (kh_ : Kept ws s₀ s) : Kept ws s₀ (after s (execTake t q desc s)) := by
  unfold execTake
  repeat' with_reducible first
    | assumption
    | intro _
    | apply Kept.after_next
    | apply Kept.ite
    | apply State.fetchTake_kept hs_
    | apply Kept.foldl
    | split
    | extract_lets

theorem State.fetchFence_kept {ws : List Field} {s₀ s : State} (hs_ : Field.sub [.regs, .bar2, .out, .tqs] ws = true) (t q : Nat) (d : List Byte)
    (kh_ : Kept ws s₀ s) : Kept ws s₀ (State.fetchFence s t q d) := by
  have q0 := Field.sub_trans (by decide : Field.sub [.regs, .tqs] [.regs, .bar2, .out, .tqs] = true) hs_
  have q1 := Field.sub_trans (by decide : Field.sub [.tqs] [.regs, .bar2, .out, .tqs] = true) hs_
  unfold State.fetchFence
  extract_lets -merge e clean x
  clear_value e clean x
  repeat' with_reducible first
    | assumption
    | intro _
    | apply Kept.ite
    | apply State.refuseTake_kept hs_
    | apply State.pushEntry_kept q0
    | apply State.setTq_kept q1
    | apply Kept.foldl
    | split
    | extract_lets

theorem execFence_kept {ws : List Field} {s₀ s : State} (hs_ : Field.sub [.regs, .bar2, .out, .tqs] ws = true) (t q : Nat) (desc : List Byte)
    (kh_ : Kept ws s₀ s) : Kept ws s₀ (after s (execFence t q desc s)) := by
  unfold execFence
  repeat' with_reducible first
    | assumption
    | intro _
    | apply Kept.after_next
    | apply Kept.ite
    | apply State.fetchFence_kept hs_
    | apply Kept.foldl
    | split
    | extract_lets

theorem State.giveCredit_kept {ws : List Field} {s₀ s : State} (hs_ : Field.sub [.sched] ws = true) (k : Nat) (ts : List Nat)
    (kh_ : Kept ws s₀ s) : Kept ws s₀ (State.giveCredit s k ts) := by
  unfold State.giveCredit
  repeat' with_reducible first
    | assumption
    | intro _
    | apply Kept.ite
    | apply Kept.foldl
    | split
    | extract_lets
    | apply Kept.set_sched _ hs_

theorem State.startTake_kept {ws : List Field} {s₀ s : State} (hs_ : Field.sub [.regs, .bar2, .out, .slotRings, .cueQs, .binFlags, .cancels, .tqs, .sched, .dqs, .cores, .cmbs, .bndTaken] ws = true) (t q : Nat) (e : Entry) (cores : List (Nat × Nat × Nat)) (cost : Nat)
    (kh_ : Kept ws s₀ s) : Kept ws s₀ (State.startTake s t q e cores cost) := by
  have q0 := Field.sub_trans (by decide : Field.sub [.regs] [.regs, .bar2, .out, .slotRings, .cueQs, .binFlags, .cancels, .tqs, .sched, .dqs, .cores, .cmbs, .bndTaken] = true) hs_
  have q1 := Field.sub_trans (by decide : Field.sub [.bndTaken] [.regs, .bar2, .out, .slotRings, .cueQs, .binFlags, .cancels, .tqs, .sched, .dqs, .cores, .cmbs, .bndTaken] = true) hs_
  have q2 := Field.sub_trans (by decide : Field.sub [.regs, .bar2, .out, .slotRings, .dqs, .cores] [.regs, .bar2, .out, .slotRings, .cueQs, .binFlags, .cancels, .tqs, .sched, .dqs, .cores, .cmbs, .bndTaken] = true) hs_
  have q3 := Field.sub_trans (by decide : Field.sub [.regs, .bar2, .out, .cmbs] [.regs, .bar2, .out, .slotRings, .cueQs, .binFlags, .cancels, .tqs, .sched, .dqs, .cores, .cmbs, .bndTaken] = true) hs_
  have q4 := Field.sub_trans (by decide : Field.sub [.regs, .slotRings, .cueQs, .binFlags, .cancels] [.regs, .bar2, .out, .slotRings, .cueQs, .binFlags, .cancels, .tqs, .sched, .dqs, .cores, .cmbs, .bndTaken] = true) hs_
  have q5 := Field.sub_trans (by decide : Field.sub [.tqs] [.regs, .bar2, .out, .slotRings, .cueQs, .binFlags, .cancels, .tqs, .sched, .dqs, .cores, .cmbs, .bndTaken] = true) hs_
  have q6 := Field.sub_trans (by decide : Field.sub [.sched] [.regs, .bar2, .out, .slotRings, .cueQs, .binFlags, .cancels, .tqs, .sched, .dqs, .cores, .cmbs, .bndTaken] = true) hs_
  unfold State.startTake
  extract_lets -merge w
  clear_value w
  repeat' with_reducible first
    | assumption
    | intro _
    | apply Kept.ite
    | apply State.showPower_kept q0
    | apply State.freshBnd_kept q1
    | apply State.giveCore_kept q2
    | apply State.installTrees_kept q3
    | apply State.allocEpoch_kept q4
    | refine Kept.of_snd (State.allocEpoch_kept q4 _ ?_) ‹_›
    | apply State.updEntry_kept q5
    | apply Kept.foldl
    | split
    | extract_lets
    | apply Kept.set_sched _ q6

theorem State.chooseTake_kept {ws : List Field} {s₀ s : State} (hs_ : Field.sub [.regs, .bar2, .out, .slotRings, .cueQs, .binFlags, .cancels, .tqs, .sched, .dqs, .cores, .cmbs, .bndTaken] ws = true)
    (kh_ : Kept ws s₀ s) : Kept ws s₀ (State.chooseTake s) := by
  have q0 := Field.sub_trans (by decide : Field.sub [.regs, .bar2, .out] [.regs, .bar2, .out, .slotRings, .cueQs, .binFlags, .cancels, .tqs, .sched, .dqs, .cores, .cmbs, .bndTaken] = true) hs_
  have q1 := Field.sub_trans (by decide : Field.sub [.sched] [.regs, .bar2, .out, .slotRings, .cueQs, .binFlags, .cancels, .tqs, .sched, .dqs, .cores, .cmbs, .bndTaken] = true) hs_
  unfold State.chooseTake
  extract_lets -merge cs may fitting weighted k s1 afford
  clear_value cs may fitting weighted k afford
  have k_s1 : Kept ws s₀ s1 := by
    unfold s1
    repeat' with_reducible first
      | assumption
      | intro _
      | apply Kept.ite
      | apply State.showPass_kept q0
      | apply State.startTake_kept hs_
      | apply State.giveCredit_kept q1
      | apply Kept.foldl
      | split
      | extract_lets
      | apply Kept.set_sched _ q1
  clear_value s1
  repeat' with_reducible first
    | assumption
    | intro _
    | apply Kept.ite
    | apply State.showPass_kept q0
    | apply State.startTake_kept hs_
    | apply State.giveCredit_kept q1
    | apply Kept.foldl
    | split
    | extract_lets
    | apply Kept.set_sched _ q1

theorem execTakeStart_kept {ws : List Field} {s₀ s : State} (hs_ : Field.sub [.regs, .bar2, .out, .slotRings, .cueQs, .binFlags, .cancels, .tqs, .sched, .dqs, .cores, .cmbs, .bndTaken] ws = true)
    (kh_ : Kept ws s₀ s) : Kept ws s₀ (after s (execTakeStart s)) := by
  unfold execTakeStart
  repeat' with_reducible first
    | assumption
    | intro _
    | apply Kept.after_next
    | apply Kept.ite
    | apply State.chooseTake_kept hs_
    | apply Kept.foldl
    | split
    | extract_lets

theorem execTakeEnd_kept {ws : List Field} {s₀ s : State} (hs_ : Field.sub [.regs, .back, .bar2, .out, .ram, .hmem, .slotRings, .cancels, .tqs, .sched, .dqs, .cores, .cmbs, .engs, .mmus, .poison] ws = true) (t q idx : Nat)
    (kh_ : Kept ws s₀ s) : Kept ws s₀ (after s (execTakeEnd t q idx s)) := by
  have q0 := Field.sub_trans (by decide : Field.sub [.regs] [.regs, .back, .bar2, .out, .ram, .hmem, .slotRings, .cancels, .tqs, .sched, .dqs, .cores, .cmbs, .engs, .mmus, .poison] = true) hs_
  have q1 := Field.sub_trans (by decide : Field.sub [.regs, .bar2, .out] [.regs, .back, .bar2, .out, .ram, .hmem, .slotRings, .cancels, .tqs, .sched, .dqs, .cores, .cmbs, .engs, .mmus, .poison] = true) hs_
  unfold execTakeEnd
  repeat' with_reducible first
    | assumption
    | intro _
    | apply Kept.after_next
    | apply Kept.ite
    | apply State.showPower_kept q0
    | apply State.endTake_kept hs_
    | apply State.evt_kept q1
    | apply Kept.foldl
    | split
    | extract_lets

theorem State.releaseRecord_kept {ws : List Field} {s₀ s : State} (hs_ : Field.sub [.regs, .bar2, .out, .ram, .hmem, .tqs, .poison] ws = true) (t q : Nat)
    (kh_ : Kept ws s₀ s) : Kept ws s₀ (State.releaseRecord s t q) := by
  have q0 := Field.sub_trans (by decide : Field.sub [.ram, .hmem, .poison] [.regs, .bar2, .out, .ram, .hmem, .tqs, .poison] = true) hs_
  have q1 := Field.sub_trans (by decide : Field.sub [.regs, .bar2, .out] [.regs, .bar2, .out, .ram, .hmem, .tqs, .poison] = true) hs_
  have q2 := Field.sub_trans (by decide : Field.sub [.regs] [.regs, .bar2, .out, .ram, .hmem, .tqs, .poison] = true) hs_
  have q3 := Field.sub_trans (by decide : Field.sub [.bar2, .out] [.regs, .bar2, .out, .ram, .hmem, .tqs, .poison] = true) hs_
  have q4 := Field.sub_trans (by decide : Field.sub [.tqs] [.regs, .bar2, .out, .ram, .hmem, .tqs, .poison] = true) hs_
  unfold State.releaseRecord
  extract_lets -merge x p size tail wrap n
  clear_value x p size tail wrap n
  repeat' with_reducible first
    | assumption
    | intro _
    | apply Kept.ite
    | apply State.taWrite_kept q0
    | refine Kept.of_fst (State.taWrite_kept q0 _ _ _ _ ?_) ‹_›
    | apply State.evtIf_kept q1
    | apply State.showPend_kept q2
    | apply State.msix_kept q3
    | apply State.addWrap_kept q2
    | apply State.putBit_kept q2
    | apply State.setTq_kept q4
    | apply Kept.foldl
    | split
    | extract_lets

theorem execCompletionRecord_kept {ws : List Field} {s₀ s : State} (hs_ : Field.sub [.regs, .bar2, .out, .ram, .hmem, .tqs, .poison] ws = true) (t q : Nat)
    (kh_ : Kept ws s₀ s) : Kept ws s₀ (after s (execCompletionRecord t q s)) := by
  unfold execCompletionRecord
  repeat' with_reducible first
    | assumption
    | intro _
    | apply Kept.after_next
    | apply Kept.ite
    | apply State.releaseRecord_kept hs_
    | apply Kept.foldl
    | split
    | extract_lets

theorem execIntModDelay_kept {ws : List Field} {s₀ s : State} (hs_ : Field.sub [.bar2, .out, .rings, .tqs] ws = true) (t q : Nat)
    (kh_ : Kept ws s₀ s) : Kept ws s₀ (after s (execIntModDelay t q s)) := by
  have q0 := Field.sub_trans (by decide : Field.sub [.bar2, .out] [.bar2, .out, .rings, .tqs] = true) hs_
  have q1 := Field.sub_trans (by decide : Field.sub [.rings] [.bar2, .out, .rings, .tqs] = true) hs_
  have q2 := Field.sub_trans (by decide : Field.sub [.tqs] [.bar2, .out, .rings, .tqs] = true) hs_
  unfold execIntModDelay
  extract_lets -merge p x d s1 p_1 x_1 d_1 s1_1
  clear_value p x d p_1 x_1 d_1
  have k_s1 : Kept ws s₀ s1 := by
    unfold s1
    repeat' with_reducible first
      | assumption
      | intro _
      | apply Kept.after_next
      | apply Kept.ite
      | apply State.msix_kept q0
      | apply State.setRing_kept q1
      | apply State.setTq_kept q2
      | apply Kept.foldl
      | split
      | extract_lets
  clear_value s1
  have k_s1_1 : Kept ws s₀ s1_1 := by
    unfold s1_1
    repeat' with_reducible first
      | assumption
      | intro _
      | apply Kept.after_next
      | apply Kept.ite
      | apply State.msix_kept q0
      | apply State.setRing_kept q1
      | apply State.setTq_kept q2
      | apply Kept.foldl
      | split
      | extract_lets
  clear_value s1_1
  repeat' with_reducible first
    | assumption
    | intro _
    | apply Kept.after_next
    | apply Kept.ite
    | apply State.msix_kept q0
    | apply State.setRing_kept q1
    | apply State.setTq_kept q2
    | apply Kept.foldl
    | split
    | extract_lets

theorem State.abortQueue_kept {ws : List Field} {s₀ s : State} (hs_ : Field.sub [.regs, .back, .bar2, .out, .ram, .hmem, .slotRings, .cancels, .tqs, .sched, .dqs, .cores, .cmbs, .engs, .mmus, .poison] ws = true) (t q : Nat) (tags : List Nat)
    (kh_ : Kept ws s₀ s) : Kept ws s₀ (State.abortQueue s t q tags) := by
  have q0 := Field.sub_trans (by decide : Field.sub [.regs] [.regs, .back, .bar2, .out, .ram, .hmem, .slotRings, .cancels, .tqs, .sched, .dqs, .cores, .cmbs, .engs, .mmus, .poison] = true) hs_
  have q1 := Field.sub_trans (by decide : Field.sub [.tqs] [.regs, .back, .bar2, .out, .ram, .hmem, .slotRings, .cancels, .tqs, .sched, .dqs, .cores, .cmbs, .engs, .mmus, .poison] = true) hs_
  have q2 := Field.sub_trans (by decide : Field.sub [.regs, .tqs] [.regs, .back, .bar2, .out, .ram, .hmem, .slotRings, .cancels, .tqs, .sched, .dqs, .cores, .cmbs, .engs, .mmus, .poison] = true) hs_
  unfold State.abortQueue
  extract_lets -merge p s1 left s2
  clear_value p left
  have k_s1 : Kept ws s₀ s1 := by
    unfold s1
    repeat' with_reducible first
      | assumption
      | intro _
      | apply Kept.ite
      | apply State.showPower_kept q0
      | apply State.endTake_kept hs_
      | apply State.updEntry_kept q1
      | apply State.pushEntry_kept q2
      | apply Kept.foldl
      | split
      | extract_lets
  clear_value s1
  have k_s2 : Kept ws s₀ s2 := by
    unfold s2
    repeat' with_reducible first
      | assumption
      | intro _
      | apply Kept.ite
      | apply State.showPower_kept q0
      | apply State.endTake_kept hs_
      | apply State.updEntry_kept q1
      | apply State.pushEntry_kept q2
      | apply Kept.foldl
      | split
      | extract_lets
  clear_value s2
  repeat' with_reducible first
    | assumption
    | intro _
    | apply Kept.ite
    | apply State.showPower_kept q0
    | apply State.endTake_kept hs_
    | apply State.updEntry_kept q1
    | apply State.pushEntry_kept q2
    | apply Kept.foldl
    | split
    | extract_lets

theorem execAbortAll_kept {ws : List Field} {s₀ s : State} (hs_ : Field.sub [.regs, .back, .bar2, .out, .ram, .hmem, .slotRings, .cancels, .tqs, .sched, .dqs, .cores, .cmbs, .engs, .mmus, .poison] ws = true) (req t q : Nat) (val : Word) (tags : List Nat)
    (kh_ : Kept ws s₀ s) : Kept ws s₀ (after s (execAbortAll req t q val tags s)) := by
  have q0 := Field.sub_trans (by decide : Field.sub [.regs, .bar2, .out] [.regs, .back, .bar2, .out, .ram, .hmem, .slotRings, .cancels, .tqs, .sched, .dqs, .cores, .cmbs, .engs, .mmus, .poison] = true) hs_
  unfold execAbortAll
  repeat' with_reducible first
    | assumption
    | intro _
    | apply Kept.after_next
    | apply Kept.ite
    | apply State.abortQueue_kept hs_
    | apply State.asWrite_kept q0
    | apply Kept.foldl
    | split
    | extract_lets

end Sys2Proof.Machine
end

