-- ==== Sys2Proof/Laws/KRegWrite.lean ====
section
/-!
SUPPORT. Laws/KRegWrite.lean: what each operation of Machine/RegWrite.lean may change, and that it keeps the canonical form.
-/
namespace Sys2Proof.Machine

theorem State.mbDoorbell_kept {ws : List Field} {s₀ s : State} (hs_ : Field.sub [.regs, .bar2, .out, .loads] ws = true) (req t : Nat) (val : Word)
    (kh_ : Kept ws s₀ s) : Kept ws s₀ (State.mbDoorbell s req t val) := by
  have q0 := Field.sub_trans (by decide : Field.sub [.regs, .bar2, .out] [.regs, .bar2, .out, .loads] = true) hs_
  have q1 := Field.sub_trans (by decide : Field.sub [.regs] [.regs, .bar2, .out, .loads] = true) hs_
  have q2 := Field.sub_trans (by decide : Field.sub [.loads] [.regs, .bar2, .out, .loads] = true) hs_
  unfold State.mbDoorbell
  extract_lets -merge p op s1
  clear_value p op
  have k_s1 : Kept ws s₀ s1 := by
    unfold s1
    repeat' with_reducible first
      | assumption
      | intro _
      | apply Kept.ite
      | apply State.reject_kept q0
      | apply State.mbReply_kept hs_
      | apply State.setNat_kept q1
      | apply State.setReg_kept q1
      | apply Kept.foldl
      | split
      | extract_lets
      | apply Kept.set_loads _ q2
  clear_value s1
  repeat' with_reducible first
    | assumption
    | intro _
    | apply Kept.ite
    | apply State.reject_kept q0
    | apply State.mbReply_kept hs_
    | apply State.setNat_kept q1
    | apply State.setReg_kept q1
    | apply Kept.foldl
    | split
    | extract_lets
    | apply Kept.set_loads _ q2

theorem State.monArg_kept {ws : List Field} {s₀ s : State} (hs_ : Field.sub [.regs, .mons] ws = true) (req site : Nat) (val : Word)
    (kh_ : Kept ws s₀ s) : Kept ws s₀ (State.monArg s req site val) := by
  have q0 := Field.sub_trans (by decide : Field.sub [.mons] [.regs, .mons] = true) hs_
  have q1 := Field.sub_trans (by decide : Field.sub [.regs] [.regs, .mons] = true) hs_
  unfold State.monArg
  extract_lets -merge _
  repeat' with_reducible first
    | assumption
    | intro _
    | apply Kept.ite
    | apply State.setMon_kept q0
    | apply State.setReg_kept q1
    | apply Kept.foldl
    | split
    | extract_lets

theorem State.flWrite_kept {ws : List Field} {s₀ s : State} (hs_ : Field.sub [.regs, .bar2, .out, .boot] ws = true) (req : Nat) (val : Word)
    (kh_ : Kept ws s₀ s) : Kept ws s₀ (State.flWrite s req val) := by
  have q0 := Field.sub_trans (by decide : Field.sub [.regs, .bar2, .out] [.regs, .bar2, .out, .boot] = true) hs_
  unfold State.flWrite
  extract_lets -merge op
  clear_value op
  repeat' with_reducible first
    | assumption
    | intro _
    | apply Kept.ite
    | apply State.flCmd_kept hs_
    | apply State.reject_kept q0
    | apply Kept.foldl
    | split
    | extract_lets

theorem State.ownRule_kept {ws : List Field} {s₀ s : State} (hs_ : Field.sub [.regs, .latch, .back, .bar2, .out, .clapper, .clk, .sup, .encs, .poss, .cevs, .segArms, .slots, .groups, .order, .meters, .calibs, .gaffer, .tenants, .sec, .ports, .mons, .boot, .ram, .hmem, .loads, .rings, .strms, .gates, .axes, .grps, .slotRings, .cueQs, .binFlags, .slates, .cancels, .tqs, .sched, .dqs, .cores, .cmbs, .engs, .mmus, .grans, .granBusy, .poison] ws = true) (req site blk off : Nat) (val : Word)
    (kh_ : Kept ws s₀ s) : KeptO ws s₀ (State.ownRule s req site blk off val) := by
  have q0 := Field.sub_trans (by decide : Field.sub [.regs, .bar2, .out] [.regs, .latch, .back, .bar2, .out, .clapper, .clk, .sup, .encs, .poss, .cevs, .segArms, .slots, .groups, .order, .meters, .calibs, .gaffer, .tenants, .sec, .ports, .mons, .boot, .ram, .hmem, .loads, .rings, .strms, .gates, .axes, .grps, .slotRings, .cueQs, .binFlags, .slates, .cancels, .tqs, .sched, .dqs, .cores, .cmbs, .engs, .mmus, .grans, .granBusy, .poison] = true) hs_
  have q1 := Field.sub_trans (by decide : Field.sub [.regs] [.regs, .latch, .back, .bar2, .out, .clapper, .clk, .sup, .encs, .poss, .cevs, .segArms, .slots, .groups, .order, .meters, .calibs, .gaffer, .tenants, .sec, .ports, .mons, .boot, .ram, .hmem, .loads, .rings, .strms, .gates, .axes, .grps, .slotRings, .cueQs, .binFlags, .slates, .cancels, .tqs, .sched, .dqs, .cores, .cmbs, .engs, .mmus, .grans, .granBusy, .poison] = true) hs_
  have q2 := Field.sub_trans (by decide : Field.sub [.regs, .bar2, .out, .mons] [.regs, .latch, .back, .bar2, .out, .clapper, .clk, .sup, .encs, .poss, .cevs, .segArms, .slots, .groups, .order, .meters, .calibs, .gaffer, .tenants, .sec, .ports, .mons, .boot, .ram, .hmem, .loads, .rings, .strms, .gates, .axes, .grps, .slotRings, .cueQs, .binFlags, .slates, .cancels, .tqs, .sched, .dqs, .cores, .cmbs, .engs, .mmus, .grans, .granBusy, .poison] = true) hs_
  have q3 := Field.sub_trans (by decide : Field.sub [.regs, .latch, .bar2, .out, .encs, .poss, .segArms, .slots, .groups, .meters, .calibs, .ports, .mons, .ram, .hmem, .rings, .strms, .gates, .axes, .grps, .slotRings, .cueQs, .binFlags, .slates, .cancels, .tqs, .dqs, .cores, .cmbs, .engs, .poison] [.regs, .latch, .back, .bar2, .out, .clapper, .clk, .sup, .encs, .poss, .cevs, .segArms, .slots, .groups, .order, .meters, .calibs, .gaffer, .tenants, .sec, .ports, .mons, .boot, .ram, .hmem, .loads, .rings, .strms, .gates, .axes, .grps, .slotRings, .cueQs, .binFlags, .slates, .cancels, .tqs, .sched, .dqs, .cores, .cmbs, .engs, .mmus, .grans, .granBusy, .poison] = true) hs_
  have q4 := Field.sub_trans (by decide : Field.sub [.regs, .bar2, .out, .ram, .hmem, .rings, .strms, .axes, .grps, .slotRings, .cueQs, .binFlags, .slates, .cancels, .dqs, .cores, .cmbs, .engs, .poison] [.regs, .latch, .back, .bar2, .out, .clapper, .clk, .sup, .encs, .poss, .cevs, .segArms, .slots, .groups, .order, .meters, .calibs, .gaffer, .tenants, .sec, .ports, .mons, .boot, .ram, .hmem, .loads, .rings, .strms, .gates, .axes, .grps, .slotRings, .cueQs, .binFlags, .slates, .cancels, .tqs, .sched, .dqs, .cores, .cmbs, .engs, .mmus, .grans, .granBusy, .poison] = true) hs_
  have q5 := Field.sub_trans (by decide : Field.sub [.regs, .bar2, .out, .calibs] [.regs, .latch, .back, .bar2, .out, .clapper, .clk, .sup, .encs, .poss, .cevs, .segArms, .slots, .groups, .order, .meters, .calibs, .gaffer, .tenants, .sec, .ports, .mons, .boot, .ram, .hmem, .loads, .rings, .strms, .gates, .axes, .grps, .slotRings, .cueQs, .binFlags, .slates, .cancels, .tqs, .sched, .dqs, .cores, .cmbs, .engs, .mmus, .grans, .granBusy, .poison] = true) hs_
  have q6 := Field.sub_trans (by decide : Field.sub [.regs, .back, .bar2, .out, .ram, .hmem, .slotRings, .cancels, .tqs, .sched, .dqs, .cores, .cmbs, .engs, .mmus, .poison] [.regs, .latch, .back, .bar2, .out, .clapper, .clk, .sup, .encs, .poss, .cevs, .segArms, .slots, .groups, .order, .meters, .calibs, .gaffer, .tenants, .sec, .ports, .mons, .boot, .ram, .hmem, .loads, .rings, .strms, .gates, .axes, .grps, .slotRings, .cueQs, .binFlags, .slates, .cancels, .tqs, .sched, .dqs, .cores, .cmbs, .engs, .mmus, .grans, .granBusy, .poison] = true) hs_
  have q7 := Field.sub_trans (by decide : Field.sub [.regs, .bar2, .out, .meters, .calibs] [.regs, .latch, .back, .bar2, .out, .clapper, .clk, .sup, .encs, .poss, .cevs, .segArms, .slots, .groups, .order, .meters, .calibs, .gaffer, .tenants, .sec, .ports, .mons, .boot, .ram, .hmem, .loads, .rings, .strms, .gates, .axes, .grps, .slotRings, .cueQs, .binFlags, .slates, .cancels, .tqs, .sched, .dqs, .cores, .cmbs, .engs, .mmus, .grans, .granBusy, .poison] = true) hs_
  have q8 := Field.sub_trans (by decide : Field.sub [.regs, .bar2, .out, .clk] [.regs, .latch, .back, .bar2, .out, .clapper, .clk, .sup, .encs, .poss, .cevs, .segArms, .slots, .groups, .order, .meters, .calibs, .gaffer, .tenants, .sec, .ports, .mons, .boot, .ram, .hmem, .loads, .rings, .strms, .gates, .axes, .grps, .slotRings, .cueQs, .binFlags, .slates, .cancels, .tqs, .sched, .dqs, .cores, .cmbs, .engs, .mmus, .grans, .granBusy, .poison] = true) hs_
  have q9 := Field.sub_trans (by decide : Field.sub [.regs, .bar2, .out, .clapper, .clk, .cevs, .segArms, .slots] [.regs, .latch, .back, .bar2, .out, .clapper, .clk, .sup, .encs, .poss, .cevs, .segArms, .slots, .groups, .order, .meters, .calibs, .gaffer, .tenants, .sec, .ports, .mons, .boot, .ram, .hmem, .loads, .rings, .strms, .gates, .axes, .grps, .slotRings, .cueQs, .binFlags, .slates, .cancels, .tqs, .sched, .dqs, .cores, .cmbs, .engs, .mmus, .grans, .granBusy, .poison] = true) hs_
  have q10 := Field.sub_trans (by decide : Field.sub [.regs, .bar2, .out, .ram] [.regs, .latch, .back, .bar2, .out, .clapper, .clk, .sup, .encs, .poss, .cevs, .segArms, .slots, .groups, .order, .meters, .calibs, .gaffer, .tenants, .sec, .ports, .mons, .boot, .ram, .hmem, .loads, .rings, .strms, .gates, .axes, .grps, .slotRings, .cueQs, .binFlags, .slates, .cancels, .tqs, .sched, .dqs, .cores, .cmbs, .engs, .mmus, .grans, .granBusy, .poison] = true) hs_
  have q11 := Field.sub_trans (by decide : Field.sub [.regs, .bar2, .out, .cores] [.regs, .latch, .back, .bar2, .out, .clapper, .clk, .sup, .encs, .poss, .cevs, .segArms, .slots, .groups, .order, .meters, .calibs, .gaffer, .tenants, .sec, .ports, .mons, .boot, .ram, .hmem, .loads, .rings, .strms, .gates, .axes, .grps, .slotRings, .cueQs, .binFlags, .slates, .cancels, .tqs, .sched, .dqs, .cores, .cmbs, .engs, .mmus, .grans, .granBusy, .poison] = true) hs_
  have q12 := Field.sub_trans (by decide : Field.sub [.regs, .bar2, .out, .gates] [.regs, .latch, .back, .bar2, .out, .clapper, .clk, .sup, .encs, .poss, .cevs, .segArms, .slots, .groups, .order, .meters, .calibs, .gaffer, .tenants, .sec, .ports, .mons, .boot, .ram, .hmem, .loads, .rings, .strms, .gates, .axes, .grps, .slotRings, .cueQs, .binFlags, .slates, .cancels, .tqs, .sched, .dqs, .cores, .cmbs, .engs, .mmus, .grans, .granBusy, .poison] = true) hs_
  have q13 := Field.sub_trans (by decide : Field.sub [.regs, .bar2, .out, .boot, .ram] [.regs, .latch, .back, .bar2, .out, .clapper, .clk, .sup, .encs, .poss, .cevs, .segArms, .slots, .groups, .order, .meters, .calibs, .gaffer, .tenants, .sec, .ports, .mons, .boot, .ram, .hmem, .loads, .rings, .strms, .gates, .axes, .grps, .slotRings, .cueQs, .binFlags, .slates, .cancels, .tqs, .sched, .dqs, .cores, .cmbs, .engs, .mmus, .grans, .granBusy, .poison] = true) hs_
  have q14 := Field.sub_trans (by decide : Field.sub [.regs, .bar2, .out, .sup] [.regs, .latch, .back, .bar2, .out, .clapper, .clk, .sup, .encs, .poss, .cevs, .segArms, .slots, .groups, .order, .meters, .calibs, .gaffer, .tenants, .sec, .ports, .mons, .boot, .ram, .hmem, .loads, .rings, .strms, .gates, .axes, .grps, .slotRings, .cueQs, .binFlags, .slates, .cancels, .tqs, .sched, .dqs, .cores, .cmbs, .engs, .mmus, .grans, .granBusy, .poison] = true) hs_
  have q15 := Field.sub_trans (by decide : Field.sub [.regs, .bar2, .out, .poss, .ram, .hmem, .rings, .strms, .gates, .axes, .grps, .slotRings, .cueQs, .binFlags, .slates, .cancels, .dqs, .cores, .cmbs, .engs, .poison] [.regs, .latch, .back, .bar2, .out, .clapper, .clk, .sup, .encs, .poss, .cevs, .segArms, .slots, .groups, .order, .meters, .calibs, .gaffer, .tenants, .sec, .ports, .mons, .boot, .ram, .hmem, .loads, .rings, .strms, .gates, .axes, .grps, .slotRings, .cueQs, .binFlags, .slates, .cancels, .tqs, .sched, .dqs, .cores, .cmbs, .engs, .mmus, .grans, .granBusy, .poison] = true) hs_
  have q16 := Field.sub_trans (by decide : Field.sub [.regs, .bar2, .out, .tenants, .sec, .grans, .granBusy] [.regs, .latch, .back, .bar2, .out, .clapper, .clk, .sup, .encs, .poss, .cevs, .segArms, .slots, .groups, .order, .meters, .calibs, .gaffer, .tenants, .sec, .ports, .mons, .boot, .ram, .hmem, .loads, .rings, .strms, .gates, .axes, .grps, .slotRings, .cueQs, .binFlags, .slates, .cancels, .tqs, .sched, .dqs, .cores, .cmbs, .engs, .mmus, .grans, .granBusy, .poison] = true) hs_
  have q17 := Field.sub_trans (by decide : Field.sub [.regs, .bar2, .out, .cevs, .order, .rings] [.regs, .latch, .back, .bar2, .out, .clapper, .clk, .sup, .encs, .poss, .cevs, .segArms, .slots, .groups, .order, .meters, .calibs, .gaffer, .tenants, .sec, .ports, .mons, .boot, .ram, .hmem, .loads, .rings, .strms, .gates, .axes, .grps, .slotRings, .cueQs, .binFlags, .slates, .cancels, .tqs, .sched, .dqs, .cores, .cmbs, .engs, .mmus, .grans, .granBusy, .poison] = true) hs_
  have q18 := Field.sub_trans (by decide : Field.sub [.regs, .bar2, .out, .slots, .groups, .order] [.regs, .latch, .back, .bar2, .out, .clapper, .clk, .sup, .encs, .poss, .cevs, .segArms, .slots, .groups, .order, .meters, .calibs, .gaffer, .tenants, .sec, .ports, .mons, .boot, .ram, .hmem, .loads, .rings, .strms, .gates, .axes, .grps, .slotRings, .cueQs, .binFlags, .slates, .cancels, .tqs, .sched, .dqs, .cores, .cmbs, .engs, .mmus, .grans, .granBusy, .poison] = true) hs_
  have q19 := Field.sub_trans (by decide : Field.sub [.regs, .bar2, .out, .segArms, .order, .rings, .axes, .grps] [.regs, .latch, .back, .bar2, .out, .clapper, .clk, .sup, .encs, .poss, .cevs, .segArms, .slots, .groups, .order, .meters, .calibs, .gaffer, .tenants, .sec, .ports, .mons, .boot, .ram, .hmem, .loads, .rings, .strms, .gates, .axes, .grps, .slotRings, .cueQs, .binFlags, .slates, .cancels, .tqs, .sched, .dqs, .cores, .cmbs, .engs, .mmus, .grans, .granBusy, .poison] = true) hs_
  have q20 := Field.sub_trans (by decide : Field.sub [.regs, .bar2, .out, .poss, .order, .rings] [.regs, .latch, .back, .bar2, .out, .clapper, .clk, .sup, .encs, .poss, .cevs, .segArms, .slots, .groups, .order, .meters, .calibs, .gaffer, .tenants, .sec, .ports, .mons, .boot, .ram, .hmem, .loads, .rings, .strms, .gates, .axes, .grps, .slotRings, .cueQs, .binFlags, .slates, .cancels, .tqs, .sched, .dqs, .cores, .cmbs, .engs, .mmus, .grans, .granBusy, .poison] = true) hs_
  have q21 := Field.sub_trans (by decide : Field.sub [.regs, .bar2, .out, .boot] [.regs, .latch, .back, .bar2, .out, .clapper, .clk, .sup, .encs, .poss, .cevs, .segArms, .slots, .groups, .order, .meters, .calibs, .gaffer, .tenants, .sec, .ports, .mons, .boot, .ram, .hmem, .loads, .rings, .strms, .gates, .axes, .grps, .slotRings, .cueQs, .binFlags, .slates, .cancels, .tqs, .sched, .dqs, .cores, .cmbs, .engs, .mmus, .grans, .granBusy, .poison] = true) hs_
  have q22 := Field.sub_trans (by decide : Field.sub [.regs, .back, .bar2, .out, .ram, .hmem, .slotRings, .slates, .cancels, .tqs, .sched, .dqs, .cores, .cmbs, .engs, .mmus, .poison] [.regs, .latch, .back, .bar2, .out, .clapper, .clk, .sup, .encs, .poss, .cevs, .segArms, .slots, .groups, .order, .meters, .calibs, .gaffer, .tenants, .sec, .ports, .mons, .boot, .ram, .hmem, .loads, .rings, .strms, .gates, .axes, .grps, .slotRings, .cueQs, .binFlags, .slates, .cancels, .tqs, .sched, .dqs, .cores, .cmbs, .engs, .mmus, .grans, .granBusy, .poison] = true) hs_
  have q23 := Field.sub_trans (by decide : Field.sub [.regs, .mons] [.regs, .latch, .back, .bar2, .out, .clapper, .clk, .sup, .encs, .poss, .cevs, .segArms, .slots, .groups, .order, .meters, .calibs, .gaffer, .tenants, .sec, .ports, .mons, .boot, .ram, .hmem, .loads, .rings, .strms, .gates, .axes, .grps, .slotRings, .cueQs, .binFlags, .slates, .cancels, .tqs, .sched, .dqs, .cores, .cmbs, .engs, .mmus, .grans, .granBusy, .poison] = true) hs_
  have q24 := Field.sub_trans (by decide : Field.sub [.regs, .bar2, .out, .loads] [.regs, .latch, .back, .bar2, .out, .clapper, .clk, .sup, .encs, .poss, .cevs, .segArms, .slots, .groups, .order, .meters, .calibs, .gaffer, .tenants, .sec, .ports, .mons, .boot, .ram, .hmem, .loads, .rings, .strms, .gates, .axes, .grps, .slotRings, .cueQs, .binFlags, .slates, .cancels, .tqs, .sched, .dqs, .cores, .cmbs, .engs, .mmus, .grans, .granBusy, .poison] = true) hs_
  have q25 := Field.sub_trans (by decide : Field.sub [.regs, .bar2, .out, .gaffer] [.regs, .latch, .back, .bar2, .out, .clapper, .clk, .sup, .encs, .poss, .cevs, .segArms, .slots, .groups, .order, .meters, .calibs, .gaffer, .tenants, .sec, .ports, .mons, .boot, .ram, .hmem, .loads, .rings, .strms, .gates, .axes, .grps, .slotRings, .cueQs, .binFlags, .slates, .cancels, .tqs, .sched, .dqs, .cores, .cmbs, .engs, .mmus, .grans, .granBusy, .poison] = true) hs_
  unfold State.ownRule
  extract_lets -merge ty p t q a
  clear_value ty p t q a
  repeat' with_reducible first
    | assumption
    | intro _
    | apply KeptO.ite
    | apply KeptO.some
    | exact KeptO.none
    | apply Kept.ite
    | apply execClrMax_kept q0
    | apply execClrPeak_kept q0
    | apply State.faultClear_kept q0
    | apply State.evtClear_kept q1
    | apply State.monCmd_kept q2
    | apply State.ctrlRule_kept q3
    | apply State.grpCmd_kept q4
    | apply State.calDataWrite_kept q5
    | apply State.clrLock_kept q0
    | apply State.abortQueue_kept q6
    | apply execClearAll_kept q0
    | apply State.calCmd_kept q7
    | apply State.clkCfg_kept q8
    | apply State.clkSet_kept q9
    | apply execDbgWinDataWrite_kept q10
    | apply execMbAck_kept q0
    | apply execProfClr_kept q11
    | apply State.scCmd_kept q12
    | apply State.shdWrite_kept q12
    | apply execRecCmdGo_kept q13
    | apply execRstCmd_kept q14
    | apply State.pcCmd_kept q15
    | apply State.uncClr_kept q0
    | apply execGranOwner_kept q16
    | apply State.cevCtl_kept q17
    | apply State.txnRule_kept q18
    | apply State.writeSegCtl_kept q19
    | apply State.pitchCtl_kept q20
    | apply State.flWrite_kept q21
    | apply State.mmuCmd_kept q22
    | apply State.monArg_kept q23
    | apply State.writeSegTail_kept q0
    | apply State.mbDoorbell_kept q24
    | apply State.budgetWrite_kept q25
    | apply State.doorbell_kept q0
    | apply Kept.foldl
    | split
    | extract_lets

theorem State.pageWrite_kept {ws : List Field} {s₀ s : State} (hs_ : Field.sub [.regs, .latch, .back, .bar2, .out, .clapper, .clk, .sup, .encs, .poss, .cevs, .segArms, .slots, .groups, .order, .meters, .calibs, .gaffer, .tenants, .sec, .ports, .mons, .boot, .ram, .hmem, .loads, .rings, .strms, .gates, .axes, .grps, .slotRings, .cueQs, .binFlags, .slates, .cancels, .tqs, .sched, .dqs, .cores, .cmbs, .engs, .mmus, .grans, .granBusy, .poison] ws = true) (req site blk off : Nat) (r : RegDef) (val : Word)
    (kh_ : Kept ws s₀ s) : Kept ws s₀ (State.pageWrite s req site blk off r val) := by
  have q0 := Field.sub_trans (by decide : Field.sub [.regs, .bar2, .out, .encs, .poss, .slots, .meters, .calibs, .mons, .ram, .hmem, .rings, .strms, .gates, .axes, .grps, .slotRings, .cueQs, .binFlags, .slates, .cancels, .dqs, .cores, .cmbs, .engs, .poison] [.regs, .latch, .back, .bar2, .out, .clapper, .clk, .sup, .encs, .poss, .cevs, .segArms, .slots, .groups, .order, .meters, .calibs, .gaffer, .tenants, .sec, .ports, .mons, .boot, .ram, .hmem, .loads, .rings, .strms, .gates, .axes, .grps, .slotRings, .cueQs, .binFlags, .slates, .cancels, .tqs, .sched, .dqs, .cores, .cmbs, .engs, .mmus, .grans, .granBusy, .poison] = true) hs_
  unfold State.pageWrite
  repeat' with_reducible first
    | assumption
    | intro _
    | apply Kept.ite
    | apply State.regRule_kept q0
    | apply State.ownRule_kept hs_
    | refine KeptO.of (State.ownRule_kept hs_ _ _ _ _ _ ?_) ‹_›
    | apply Kept.foldl
    | split
    | extract_lets

theorem State.write_kept {ws : List Field} {s₀ s : State} (hs_ : Field.sub [.regs, .latch, .back, .bar2, .out, .clapper, .clk, .sup, .encs, .poss, .cevs, .segArms, .slots, .groups, .order, .meters, .calibs, .gaffer, .tenants, .sec, .ports, .mons, .boot, .ram, .hmem, .loads, .rings, .strms, .gates, .axes, .grps, .slotRings, .cueQs, .binFlags, .slates, .cancels, .tqs, .sched, .dqs, .cores, .cmbs, .engs, .mmus, .grans, .granBusy, .poison] ws = true) (req addr : Nat) (val : Word) (be : Nat)
    (kh_ : Kept ws s₀ s) : Kept ws s₀ (State.write s req addr val be) := by
  have q0 := Field.sub_trans (by decide : Field.sub [.regs, .bar2, .out] [.regs, .latch, .back, .bar2, .out, .clapper, .clk, .sup, .encs, .poss, .cevs, .segArms, .slots, .groups, .order, .meters, .calibs, .gaffer, .tenants, .sec, .ports, .mons, .boot, .ram, .hmem, .loads, .rings, .strms, .gates, .axes, .grps, .slotRings, .cueQs, .binFlags, .slates, .cancels, .tqs, .sched, .dqs, .cores, .cmbs, .engs, .mmus, .grans, .granBusy, .poison] = true) hs_
  have q1 := Field.sub_trans (by decide : Field.sub [.regs, .bar2, .out, .encs, .poss, .slots, .meters, .calibs, .mons, .ram, .hmem, .rings, .strms, .gates, .axes, .grps, .slotRings, .cueQs, .binFlags, .slates, .cancels, .tqs, .dqs, .cores, .cmbs, .engs, .poison] [.regs, .latch, .back, .bar2, .out, .clapper, .clk, .sup, .encs, .poss, .cevs, .segArms, .slots, .groups, .order, .meters, .calibs, .gaffer, .tenants, .sec, .ports, .mons, .boot, .ram, .hmem, .loads, .rings, .strms, .gates, .axes, .grps, .slotRings, .cueQs, .binFlags, .slates, .cancels, .tqs, .sched, .dqs, .cores, .cmbs, .engs, .mmus, .grans, .granBusy, .poison] = true) hs_
  have q2 := Field.sub_trans (by decide : Field.sub [.bar2, .out] [.regs, .latch, .back, .bar2, .out, .clapper, .clk, .sup, .encs, .poss, .cevs, .segArms, .slots, .groups, .order, .meters, .calibs, .gaffer, .tenants, .sec, .ports, .mons, .boot, .ram, .hmem, .loads, .rings, .strms, .gates, .axes, .grps, .slotRings, .cueQs, .binFlags, .slates, .cancels, .tqs, .sched, .dqs, .cores, .cmbs, .engs, .mmus, .grans, .granBusy, .poison] = true) hs_
  have q3 := Field.sub_trans (by decide : Field.sub [.out, .ports] [.regs, .latch, .back, .bar2, .out, .clapper, .clk, .sup, .encs, .poss, .cevs, .segArms, .slots, .groups, .order, .meters, .calibs, .gaffer, .tenants, .sec, .ports, .mons, .boot, .ram, .hmem, .loads, .rings, .strms, .gates, .axes, .grps, .slotRings, .cueQs, .binFlags, .slates, .cancels, .tqs, .sched, .dqs, .cores, .cmbs, .engs, .mmus, .grans, .granBusy, .poison] = true) hs_
  unfold State.write
  extract_lets -merge site blk off
  clear_value site blk off
  repeat' with_reducible first
    | assumption
    | intro _
    | apply Kept.ite
    | apply State.gateWrite_kept q0
    | refine KeptO.of (State.gateWrite_kept q0 _ _ _ _ ?_) ‹_›
    | apply State.commitsFirst_kept q1
    | apply State.absent_kept q0
    | apply State.reject_kept q0
    | apply State.pageWrite_kept hs_
    | apply State.bar2Write_kept q2
    | apply State.forward_kept q3
    | apply Kept.foldl
    | split
    | extract_lets

theorem State.write64_kept {ws : List Field} {s₀ s : State} (hs_ : Field.sub [.regs, .latch, .back, .bar2, .out, .clapper, .clk, .sup, .encs, .poss, .cevs, .segArms, .slots, .groups, .order, .meters, .calibs, .gaffer, .tenants, .sec, .ports, .mons, .boot, .ram, .hmem, .loads, .rings, .strms, .gates, .axes, .grps, .slotRings, .cueQs, .binFlags, .slates, .cancels, .tqs, .sched, .dqs, .cores, .cmbs, .engs, .mmus, .grans, .granBusy, .poison] ws = true) (req addr : Nat) (lo hi : Word) (be : Nat)
    (kh_ : Kept ws s₀ s) : Kept ws s₀ (State.write64 s req addr lo hi be) := by
  unfold State.write64
  extract_lets -merge ok
  repeat' with_reducible first
    | assumption
    | intro _
    | apply Kept.ite
    | apply State.write_kept hs_
    | apply Kept.foldl
    | split
    | extract_lets

theorem execRegisterWrite_kept {ws : List Field} {s₀ s : State} (hs_ : Field.sub [.regs, .latch, .back, .bar2, .out, .clapper, .clk, .sup, .encs, .poss, .cevs, .segArms, .slots, .groups, .order, .meters, .calibs, .gaffer, .tenants, .sec, .ports, .mons, .boot, .ram, .hmem, .loads, .rings, .strms, .gates, .axes, .grps, .slotRings, .cueQs, .binFlags, .slates, .cancels, .tqs, .sched, .dqs, .cores, .cmbs, .engs, .mmus, .grans, .granBusy, .poison] ws = true) (req addr : Nat) (val : WriteData) (be : Nat)
    (kh_ : Kept ws s₀ s) : Kept ws s₀ (after s (execRegisterWrite req addr val be s)) := by
  unfold execRegisterWrite
  repeat' with_reducible first
    | assumption
    | intro _
    | apply Kept.after_next
    | apply Kept.ite
    | apply State.write64_kept hs_
    | apply State.write_kept hs_
    | apply Kept.foldl
    | split
    | extract_lets

theorem execAbsentWrite_kept {ws : List Field} {s₀ s : State} (hs_ : Field.sub [.regs, .bar2, .out] ws = true) (req addr : Nat)
    (kh_ : Kept ws s₀ s) : Kept ws s₀ (after s (execAbsentWrite req addr s)) := by
  unfold execAbsentWrite
  repeat' with_reducible first
    | assumption
    | intro _
    | apply Kept.after_next
    | apply Kept.ite
    | apply State.absent_kept hs_
    | apply Kept.foldl
    | split
    | extract_lets

theorem execGoSpi_kept {ws : List Field} {s₀ s : State} (hs_ : Field.sub [.regs, .bar2, .out, .encs, .poss, .slots, .meters, .calibs, .mons, .ram, .hmem, .rings, .strms, .gates, .axes, .grps, .slotRings, .cueQs, .binFlags, .slates, .cancels, .tqs, .dqs, .cores, .cmbs, .engs, .poison] ws = true) (req site g : Nat) (val : Word)
    (kh_ : Kept ws s₀ s) : Kept ws s₀ (after s (execGoSpi req site g val s)) := by
  have q0 := Field.sub_trans (by decide : Field.sub [.regs, .bar2, .out, .encs, .poss, .slots, .meters, .calibs, .mons, .ram, .hmem, .rings, .strms, .gates, .axes, .grps, .slotRings, .cueQs, .binFlags, .slates, .cancels, .dqs, .cores, .cmbs, .engs, .poison] [.regs, .bar2, .out, .encs, .poss, .slots, .meters, .calibs, .mons, .ram, .hmem, .rings, .strms, .gates, .axes, .grps, .slotRings, .cueQs, .binFlags, .slates, .cancels, .tqs, .dqs, .cores, .cmbs, .engs, .poison] = true) hs_
  unfold execGoSpi
  repeat' with_reducible first
    | assumption
    | intro _
    | apply Kept.after_next
    | apply Kept.ite
    | apply State.regRule_kept q0
    | apply State.directWrite_kept hs_
    | apply Kept.foldl
    | split
    | extract_lets

theorem execMeterConfigWrite_kept {ws : List Field} {s₀ s : State} (hs_ : Field.sub [.regs, .bar2, .out, .encs, .poss, .slots, .meters, .calibs, .mons, .ram, .hmem, .rings, .strms, .gates, .axes, .grps, .slotRings, .cueQs, .binFlags, .slates, .cancels, .tqs, .dqs, .cores, .cmbs, .engs, .poison] ws = true) (req site m off : Nat) (val : Word)
    (kh_ : Kept ws s₀ s) : Kept ws s₀ (after s (execMeterConfigWrite req site m off val s)) := by
  have q0 := Field.sub_trans (by decide : Field.sub [.regs, .bar2, .out, .encs, .poss, .slots, .meters, .calibs, .mons, .ram, .hmem, .rings, .strms, .gates, .axes, .grps, .slotRings, .cueQs, .binFlags, .slates, .cancels, .dqs, .cores, .cmbs, .engs, .poison] [.regs, .bar2, .out, .encs, .poss, .slots, .meters, .calibs, .mons, .ram, .hmem, .rings, .strms, .gates, .axes, .grps, .slotRings, .cueQs, .binFlags, .slates, .cancels, .tqs, .dqs, .cores, .cmbs, .engs, .poison] = true) hs_
  have q1 := Field.sub_trans (by decide : Field.sub [.regs, .bar2, .out] [.regs, .bar2, .out, .encs, .poss, .slots, .meters, .calibs, .mons, .ram, .hmem, .rings, .strms, .gates, .axes, .grps, .slotRings, .cueQs, .binFlags, .slates, .cancels, .tqs, .dqs, .cores, .cmbs, .engs, .poison] = true) hs_
  unfold execMeterConfigWrite
  repeat' with_reducible first
    | assumption
    | intro _
    | apply Kept.after_next
    | apply Kept.ite
    | apply State.regRule_kept q0
    | apply State.reject_kept q1
    | apply State.directWrite_kept hs_
    | apply Kept.foldl
    | split
    | extract_lets

theorem State.read_kept {ws : List Field} {s₀ s : State} (hs_ : Field.sub [.latch, .rdata, .rdataHi, .out, .ports, .free] ws = true) (req addr : Nat)
    (kh_ : Kept ws s₀ s) : Kept ws s₀ (State.read s req addr) := by
  have q0 := Field.sub_trans (by decide : Field.sub [.out, .ports] [.latch, .rdata, .rdataHi, .out, .ports, .free] = true) hs_
  have q1 := Field.sub_trans (by decide : Field.sub [.free] [.latch, .rdata, .rdataHi, .out, .ports, .free] = true) hs_
  have q2 := Field.sub_trans (by decide : Field.sub [.rdata] [.latch, .rdata, .rdataHi, .out, .ports, .free] = true) hs_
  have q3 := Field.sub_trans (by decide : Field.sub [.rdataHi] [.latch, .rdata, .rdataHi, .out, .ports, .free] = true) hs_
  have q4 := Field.sub_trans (by decide : Field.sub [.latch] [.latch, .rdata, .rdataHi, .out, .ports, .free] = true) hs_
  unfold State.read
  extract_lets -merge site blk off ty _ s1
  clear_value site blk off ty
  have k_s1 : Kept ws s₀ s1 := by
    unfold s1
    repeat' with_reducible first
      | assumption
      | intro _
      | apply Kept.ite
      | apply State.forward_kept q0
      | apply State.draw_kept q1
      | apply Kept.foldl
      | split
      | extract_lets
      | apply Kept.set_rdata_rdataHi _ _ q2 q3
      | apply Kept.set_latch _ q4
  clear_value s1
  repeat' with_reducible first
    | assumption
    | intro _
    | apply Kept.ite
    | apply State.forward_kept q0
    | apply State.draw_kept q1
    | apply Kept.foldl
    | split
    | extract_lets
    | apply Kept.set_rdata_rdataHi _ _ q2 q3
    | apply Kept.set_latch _ q4

theorem State.readAny_kept {ws : List Field} {s₀ s : State} (hs_ : Field.sub [.regs, .latch, .rdata, .rdataHi, .out, .sec, .ports, .free] ws = true) (req addr : Nat)
    (kh_ : Kept ws s₀ s) : Kept ws s₀ (State.readAny s req addr) := by
  have q0 := Field.sub_trans (by decide : Field.sub [.regs, .rdata] [.regs, .latch, .rdata, .rdataHi, .out, .sec, .ports, .free] = true) hs_
  have q1 := Field.sub_trans (by decide : Field.sub [.latch, .rdata, .rdataHi, .out, .ports, .free] [.regs, .latch, .rdata, .rdataHi, .out, .sec, .ports, .free] = true) hs_
  have q2 := Field.sub_trans (by decide : Field.sub [.rdata, .sec] [.regs, .latch, .rdata, .rdataHi, .out, .sec, .ports, .free] = true) hs_
  unfold State.readAny
  extract_lets -merge a site blk off ty
  clear_value a site blk off ty
  repeat' with_reducible first
    | assumption
    | intro _
    | apply Kept.ite
    | apply execCalDataRead_kept q0
    | apply State.read_kept q1
    | apply execDbgWinDataRead_kept q0
    | apply execShdDataRead_kept q0
    | apply execRand_kept q2
    | apply Kept.foldl
    | split
    | extract_lets

theorem State.read64_kept {ws : List Field} {s₀ s : State} (hs_ : Field.sub [.regs, .latch, .rdata, .rdataHi, .out, .sec, .ports, .free] ws = true) (req addr : Nat)
    (kh_ : Kept ws s₀ s) : Kept ws s₀ (State.read64 s req addr) := by
  have q0 := Field.sub_trans (by decide : Field.sub [.rdataHi] [.regs, .latch, .rdata, .rdataHi, .out, .sec, .ports, .free] = true) hs_
  have q1 := Field.sub_trans (by decide : Field.sub [.rdata] [.regs, .latch, .rdata, .rdataHi, .out, .sec, .ports, .free] = true) hs_
  unfold State.read64
  extract_lets -merge s1 s2
  have k_s1 : Kept ws s₀ s1 := by
    unfold s1
    repeat' with_reducible first
      | assumption
      | intro _
      | apply Kept.ite
      | apply State.readAny_kept hs_
      | apply Kept.foldl
      | split
      | extract_lets
      | apply Kept.set_rdataHi _ q0
      | apply Kept.set_rdata_rdataHi _ _ q1 q0
  clear_value s1
  have k_s2 : Kept ws s₀ s2 := by
    unfold s2
    repeat' with_reducible first
      | assumption
      | intro _
      | apply Kept.ite
      | apply State.readAny_kept hs_
      | apply Kept.foldl
      | split
      | extract_lets
      | apply Kept.set_rdataHi _ q0
      | apply Kept.set_rdata_rdataHi _ _ q1 q0
  clear_value s2
  repeat' with_reducible first
    | assumption
    | intro _
    | apply Kept.ite
    | apply State.readAny_kept hs_
    | apply Kept.foldl
    | split
    | extract_lets
    | apply Kept.set_rdataHi _ q0
    | apply Kept.set_rdata_rdataHi _ _ q1 q0

theorem execLatchedRead_kept {ws : List Field} {s₀ s : State} (hs_ : Field.sub [.regs, .latch, .rdata, .rdataHi, .out, .sec, .ports, .free] ws = true) (req : Nat) (at_ : ReadAt)
    (kh_ : Kept ws s₀ s) : Kept ws s₀ (after s (execLatchedRead req at_ s)) := by
  unfold execLatchedRead
  repeat' with_reducible first
    | assumption
    | intro _
    | apply Kept.after_next
    | apply Kept.ite
    | apply State.read64_kept hs_
    | apply State.readAny_kept hs_
    | apply Kept.foldl
    | split
    | extract_lets

end Sys2Proof.Machine
end

