-- ==== Sys2Proof/Machine/Pins.lean ====
section
/-!
DEFINITION. Machine/Pins.lean: what the pin groups show (04 R88, R89; 23 R470), read from the state: no pin has a register of its own.
-/
namespace Sys2Proof.Machine

/-- The pin groups of 04 R88 whose state a register or a record of the model decides. -/
inductive PinGroup
  | pcie | ethernet | flash | avsBus | pps
  | sensorTiming (site g : Nat) | laneReceivers (site g : Nat) | sensorSpi (site g : Nat)
  | bridge (site a : Nat) | excitation (site m : Nat) | meterOutput (site o : Nat) | safeStop (site n : Nat)
  deriving DecidableEq, Repr

/-- A pin group is unpowered and high-impedance (04 R89), holds its power-up state (04 R88), or is let go: its unit drives it. -/
inductive PinState | highZ | held | live
  deriving DecidableEq, Repr

/-- Whether the event of 04 R88's third column has happened. DEDUCED (log 83): the firmware enables the Ethernet port by READY. -/
def State.pinLive (s : State) : PinGroup → Bool
  | .pcie => s.mainOk
  | .ethernet => s.mainOk && s.ready
  | .flash => s.bootSt != 0
  | .avsBus => s.gaffer.avsUsed
  | .pps => s.clk.ppsHigh.isSome
  | .sensorTiming site g => s.st (gatePage site g) != 0
  | .laneReceivers site g => s.st (gatePage site g) != 0
  | .sensorSpi site g => (s.gate site g).spiUsed
  | .bridge site a => s.fieldUp site && s.axLive site a
  | .excitation site m => s.fieldUp site && (s.meter site m).excOn
  | .meterOutput site o => s.fieldUp site && s.reg (outPage site o + 0x50) != 0#32
  | .safeStop site n => ((s.mon site).pair n).st != 0

/-- Whether a group's pins lie in the main domain (04 R76, R89). -/
def PinGroup.main : PinGroup → Bool
  | .pcie => true
  | .ethernet => true
  | _ => false

/-- What a pin group shows (04 R88, R89): main-domain pins are high-impedance while the main domain is isolated and hold their power-up
state from then to the event of R88; the others know no isolation. -/
def State.pin (s : State) (p : PinGroup) : PinState :=
  if p.main && !s.regBit (supPage + 0x40) 4 then .highZ else if s.pinLive p then .live else .held

/-- The high time of an axis channel's two outputs in one PWM period, in ticks of the 40 MHz axis clock (23 R470; 15):
rne(duty × PWM_TICKS ÷ 4095). -/
def State.bridgeTicks (s : State) (site a ch : Nat) : Nat × Nat :=
  let n := s.regFld (axPage site a + 0x44) 0 12
  let t (d : Nat) : Nat := (rneDiv ((d * n : Nat) : Int) 4095).toNat
  (t (s.bridge site a ch).1, t (s.bridge site a ch).2)

/-- The dead time between a falling edge of one output of a channel and a rising edge of the other, in ticks (23 R470). -/
def State.deadTicks (s : State) (site a : Nat) : Nat := s.regFld (axPage site a + 0x44) 16 8

end Sys2Proof.Machine
end

