-- ==== Sys2Proof/Tests/Slice0.lean ====
section
/-!
SUPPORT. Tests/Slice0.lean: small states to run commands on, tests of the well-formedness checks and of values the manual works out, and
for every statement with hypotheses a state and operands that meet them.
-/
namespace Sys2Proof.Tests
open Sys2Proof Sys2Proof.Machine
set_option Elab.async false

/-- A state with registers set. -/
def poke (s : State) (l : List (Nat × Nat)) : State := l.foldl (fun s e => s.setNat e.1 e.2) s
/-- A Gate node whose main domain is up and which has booted. -/
def bench : State := poke State.reset [(pg 8 2 + 0x40, 0x3E), (bootPage + 0x40, 4), (pg 8 0 + 0x4C, siteFitted 2)]
/-- `bench` with an identity map of the first GiB of host memory for tenant 0. -/
def mapBench : State := poke { bench with hmem := [(0x1000, 0x01#8), (0x1001, 0x20#8), (0x2000, 0x17#8)] } [(mmuPage 0 + 0x40, 0x1000), (mmuPage 0 + 0xC, 2)]
/-- Mailbox request words of tenant t: opcode and length, then payload. -/
def mbBench (t op len : Nat) (l : List Nat) : State := poke bench ([(mbPage t + 0x44, 1), (mbPage t + 0x100, op + len * 65536)] ++ (List.range l.length).map (fun i => (mbPage t + 0x108 + 4 * i, l.getD i 0)))

/-- Bytes with fields (offset, size, value) set. -/
def fields (n : Nat) (l : List (Nat × Nat × Nat)) : List Byte := l.foldl (fun b x => patch b x.1 (leBytes x.2.1 x.2.2)) (List.replicate n 0#8)
/-- An op record: opcode, then fields. -/
def opRec (l : List (Nat × Nat × Nat)) : List Byte := fields 64 l
/-- A container whose core 0 runs these ops and holds these descriptors: 64 KiB of core store, 4 KiB of bin, 8 cues, 8 rings, 8 flags. -/
def contOf (ops descs : List (List Byte)) : List Byte :=
  fields 0xC0 [(6, 1, 2), (0x10, 2, 2), (0x12, 2, 1), (0x1C, 4, 0x10000), (0x20, 4, 0x1000), (0x24, 1, 8), (0x25, 1, 8), (0x26, 2, 8), (0x28, 4, 0x04040404),
    (0x2C, 4, 0x10000), (0x30, 4, 0x10000), (0x34, 4, 0x10000), (0x80, 2, 1), (0x84, 4, 0xC0), (0x88, 4, 64 * ops.length), (0x90, 2, 4),
    (0x94, 4, 0xC0 + 64 * ops.length), (0x98, 4, 64 * descs.length)] ++ ops.flatten ++ descs.flatten
/-- The slate and the take of the tests' cores: core 5 of site 0 is slate-local core 0. -/
def opSlate (ops descs : List (List Byte)) : Slate :=
  { handle := 7, kind := 2, cont := contOf ops descs, groups := [{}], running := true, cores := [(0, 0, 5)], epoch := 3 }
/-- Core 5 of site 0 at the first op of a stage slate. -/
def opBench (ops descs : List (List Byte)) : State :=
  { poke bench [(corePage 0 5 + 0xC, 2)] with slates := [(7, opSlate ops descs)], cores := [(5, { work := some (.stage 7) })] }
/-- Core 5 of site 0 at the first op of a take. -/
def takeBench (ops descs : List (List Byte)) : State :=
  { opBench ops descs with tqs := [(1, { entries := [{ n := 0, op := 1, slate := 7, st := 1, cores := [(0, 0, 5)], epoch := 3 }] })], cores := [(5, { work := some (.take 0 1 0) })] }
/-- A container of two cores whose layer 0 is one MATMUL split two ways along K, its tree of one node at 0x240. -/
def treeCont : List Byte :=
  let op := opRec [(0, 1, 1), (6, 2, 1), (8, 4, 1), (12, 4, 2), (16, 4, 16), (0x1C, 4, 0x100), (0x28, 4, 8)]
  ((contOf [op, op] []).foldl (fun b x => b ++ [x]) []) |> fun b => patch (patch (patch b 0x10 (leBytes 2 3)) 0x12 (leBytes 2 2)) 0xA0 (leBytes 2 2 ++ leBytes 2 0 ++ leBytes 4 0x200 ++ leBytes 4 64)
    |> fun b => b.take 0x140 ++ List.replicate (0x200 - b.length) 0#8 ++ fields 64 [(0x1C, 2, 1), (0x1E, 2, 1), (0x20, 2, 2), (0x24, 4, 0x240)] ++ fields 24 [(0, 1, 1), (16, 2, 0), (18, 2, 1)]
/-- A take on two cores of bay 0 in that layer: the leaves' partials are `a` and `b`, and the node holds `l` and `r`. -/
def treeBench (a b l r : List (Nat × List Word)) : State :=
  { poke bench [(corePage 0 0 + 0xC, 2), (corePage 0 1 + 0xC, 2), (cmbPage 0 0 + 0xC, 2)] with
    slates := [(7, { handle := 7, cont := treeCont, groups := [{}] })],
    tqs := [(1, { entries := [{ n := 0, op := 1, slate := 7, st := 1, cores := [(0, 0, 0), (1, 0, 1)], epoch := 3 }] })],
    cores := [(0, { work := some (.take 0 1 0), loc := 0, partials := a }), (1, { work := some (.take 0 1 0), loc := 1, partials := b })],
    cmbs := [(0, { nodes := [{ work := .take 0 1 0, left := l, right := r }] })] }
/-- Engine e of site 0 with a job of slate 7, one unit of input received (flag 0 at 1). -/
def engBench (e : Nat) (job : List (Nat × Nat × Nat)) (x : Eng) : State :=
  { poke bench [(engPage 0 e + 0xC, 2)] with slates := [(7, opSlate [] [])], engs := [(e, { x with handle := 7, job := fields 64 job })], binFlags := [(0, 1)] }

/-- A take's container that the loader admits: one core, one END op of bound 4, one cycle entry. -/
def loadCont : List Byte :=
  fields 0x100 [(0, 4, 0x4C534D41), (4, 2, 1), (6, 1, 1), (8, 4, 0x100), (0xC, 4, 2104164646), (0x10, 2, 2), (0x12, 2, 1), (0x14, 2, 1), (0x1C, 4, 0x200), (0x20, 4, 0x1000),
    (0x28, 4, 0x01010101), (0x4C, 4, 1), (0x80, 2, 1), (0x84, 4, 0xA0), (0x88, 4, 64), (0x90, 2, 8), (0x94, 4, 0xE0), (0x98, 4, 8), (0xA0, 1, 0x2F), (0xDC, 4, 4), (0xE0, 4, 1), (0xE4, 4, 100)]

/-- The CRC register after half of a zero configuration region, and after half of one whose entry 1 names TYPE 5. -/
theorem crc_half_zero : (List.replicate 128 0#8).foldl crcByte 0xFFFFFFFF = 1029113186 := by decide +kernel
theorem crc_half_type5 : (List.replicate 16 0#8 ++ [5#8] ++ List.replicate 111 0#8).foldl crcByte 0xFFFFFFFF = 3411015073 := by decide +kernel
/-- The CRC register after the second half. -/
theorem crc_second_zero : (List.replicate 128 0#8).foldl crcByte 1029113186 = 4066998951 := by decide +kernel
theorem crc_second_type5 : (List.replicate 128 0#8).foldl crcByte 3411015073 = 4089531038 := by decide +kernel
/-- The CRC of bytes in two parts. -/
theorem crc_two (a b : List Byte) (x y : Nat) (ha : a.foldl crcByte 0xFFFFFFFF = x) (hb : b.foldl crcByte x = y) : crc32 (a ++ b) = y ^^^ 0xFFFFFFFF := by
  unfold crc32
  rw [List.foldl_append, ha, hb]
/-- The CRC of a configuration region of zeros, and of one whose entry 1 names TYPE 5. -/
theorem crc_zero_region : crc32 (List.replicate 128 0#8 ++ List.replicate 128 0#8) = 4066998951 ^^^ 0xFFFFFFFF :=
  crc_two _ _ _ _ crc_half_zero crc_second_zero
theorem crc_type5_region : crc32 ((List.replicate 16 0#8 ++ [5#8] ++ List.replicate 111 0#8) ++ List.replicate 128 0#8) = 4089531038 ^^^ 0xFFFFFFFF :=
  crc_two _ _ _ _ crc_half_type5 crc_second_type5
/-- The CRC of a monitor's region whose bytes are these. -/
theorem region_crc (s : State) (site : Nat) (l : List Byte) (v : Nat) (h : (monRegion s site).flatMap (fun x => leBytes 4 x.toNat) = l) (hv : crc32 l = v) :
    BitVec.ofNat 32 (crc32 ((monRegion s site).flatMap (fun x => leBytes 4 x.toNat))) = BitVec.ofNat 32 v := by
  rw [h, hv]

/-! Ill-formed commands: each operand out of its range is refused. -/
theorem test_ill_formed_req : Instr.wf (.registerWrite 20 0 ⟨0#32, none⟩ 15) = false := by decide
theorem test_ill_formed_site : Instr.wf (.fioToMain 12) = false := by decide
theorem test_ill_formed_blk : Instr.wf (.ctrlEnSet 0 8 1024) = false := by decide
theorem test_ill_formed_addr : Instr.wf (.absentWrite 0 (2 ^ 33)) = false := by decide
theorem test_ill_formed_byte_enables : Instr.wf (.registerWrite 0 0 ⟨0#32, none⟩ 16) = false := by decide
theorem test_ill_formed_encoder : Instr.wf (.qerr 11 8) = false := by decide
theorem test_ill_formed_axis : Instr.wf (.atHold 11 16) = false := by decide
theorem test_ill_formed_limit_input : Instr.wf (.limitQualify 11 32 .band) = false := by decide
theorem test_ill_formed_slot : Instr.wf (.txnStaged 11 4) = false := by decide
theorem test_ill_formed_package : Instr.wf (.pkgLost 16 .noRoute) = false := by decide
theorem test_ill_formed_core : Instr.wf (.matmul 0 64) = false := by decide
theorem test_ill_formed_tenant : Instr.wf (.getFwInfo 16) = false := by decide
theorem test_ill_formed_ring : Instr.wf (.dailiesWrite 33) = false := by decide
theorem test_ill_formed_offset : Instr.wf (.pkgBudgetWrite 0 0x42 0#32) = false := by decide
theorem test_ill_formed_node : Instr.wf (.combineNodeTile 0 0 64 0 0) = false := by decide
theorem test_ill_formed_descriptor : Instr.wf (.take 0 0 [0#8]) = false := by decide
theorem test_ill_formed_epoch : Instr.wf (.epochCancel 1024) = false := by decide
theorem test_ill_formed_engine : Instr.wf (.filterUnit 0 6) = false := by decide
theorem test_ill_formed_message : Instr.wf (.ptpSync { domain := 256 }) = false := by decide
theorem test_ill_formed_announce : Instr.wf (.ptpAnnounce { prio1 := 256 }) = false := by decide
theorem test_ill_formed_action : Instr.wf (.clapperAction (.cev 4)) = false := by decide
theorem test_ill_formed_frame : Instr.wf (.dataFrame 9 0 { dstPkg := 16 }) = false := by decide
theorem test_ill_formed_peer : Instr.wf (.peerAuth 9 0 { port := 4 }) = false := by decide
theorem test_well_formed : Instr.wf (.monCmdReset 0 11 4#32) = true := by decide

/-! Values the manual works out. -/
/-- 03 Worked example: the position unit of gate 2, encoder 2; 15: axis 4, group 2, the dolly page; 07: core 37 of C0; 17: channel 5 and
output 2; 22: the monitor page, all of the die at X3 but the core. -/
theorem test_page_addresses : [puPage 11 2, encPage 11 2, axPage 11 4, grpPage 11 2, dollyPage 11, corePage 0 37, mtrPage 11 5, outPage 11 2, monPage 11] =
    [0x02C1A000, 0x02C12000, 0x02C44000, 0x02C52000, 0x02C58000, 0x00125000, 0x02C7D000, 0x02C82000, 0x02C90000] := by decide +kernel
/-- 03 Worked example: WHEN of KIND LINE, stream 4, value 160 000. -/
theorem test_when_line : decodeWhen 2 (0x12000000 * 2 ^ 32 + 0x00027100) = some { kind := 1, stream := 4, value := 160000 } := by decide +kernel
/-- 03 Worked example: 1 234 000 200 µs. -/
theorem test_when_clapper : decodeWhen 2 (0x30000000 * 2 ^ 32 + 0x498D5948) = some { kind := 3, value := 1234000200 } := by decide +kernel
/-- 07 Worked example: requantisation to 69, and a tie to the even 68. -/
theorem test_requant : (requant 18765 (-1200) (2 ^ 30) 7 0).1 = 69 := by decide +kernel
theorem test_requant_tie : (requant 18736 (-1200) (2 ^ 30) 7 0).1 = 68 := by decide +kernel
/-- 07 Worked example: 16 M tiles of 256 rows, one N tile and 18 K tiles cost 74 008 cycles. -/
theorem test_array_cost : arrayCost { code := 1, mt := 256, m := 4096, n := 32, k := 288 } { mp := 4096, n := 32, k := 288, ml := 4096, nl := 32, kl := 288 } = 74008 := by decide +kernel
/-- 15 Worked example: the run-up over 6400 microsteps to 6 871 948 in 8 000 000 ticks keeps within a VMAX of END_VEL. -/
theorem test_curve_run_up : curveOk 0 0 { dur := 8000000, pos := 6400 * 2 ^ 32, vel := 6871948 } 6871948 = true := by decide +kernel
/-- 22 Worked example: entry 1 is a tension guard of gate 2 on pair 0 in category 1, STOP_MS 300; entry 3 a motion guard. -/
theorem test_guard_entry : (({ committed := [0x0123#32, 0x0908#32, 0x32#32, 0#32, 0x012C1121#32, 0x0100#32, 0x32#32, 0#32] } : Mon).type 1,
    ({ committed := [0x0123#32, 0x0908#32, 0x32#32, 0#32, 0x012C1121#32, 0x0100#32, 0x32#32, 0#32] } : Mon).gate 1,
    ({ committed := [0x0123#32, 0x0908#32, 0x32#32, 0#32, 0x012C1121#32, 0x0100#32, 0x32#32, 0#32] } : Mon).cat1 1,
    ({ committed := [0x0123#32, 0x0908#32, 0x32#32, 0#32, 0x012C1121#32, 0x0100#32, 0x32#32, 0#32] } : Mon).names 1 0) = (1, 2, true, true) := by decide +kernel
/-- A queue of two commands: the front one runs and the other waits. -/
theorem test_step_pops : (match step { bench with pending := [.monCmdReset 0 11 4#32, .ppsOut] } with | .next t => t.pending | _ => []) = [.ppsOut] := by decide +kernel

/-! Each statement's hypotheses are met. -/
theorem witness_StepRunsTheFrontCommand_1 : ∃ (s : State) (c : Instr) (rest : List Instr), s.pending = c :: rest :=
  ⟨{ State.reset with pending := [.ppsOut, .isolated] }, .ppsOut, [.isolated], rfl⟩
theorem witness_StepRunsTheFrontCommand_2 : ∃ (s : State), s.pending = [] :=
  ⟨State.reset, rfl⟩
theorem witness_ResetLeavesTheSpecsValues_1 : ∃ (site : Nat) (blk : Nat), site < 16 ∧ blk < 1024 :=
  ⟨0, 0, by decide⟩
theorem witness_ResetLeavesTheSpecsValues_3 : ∃ (site : Nat), State.reset.isField site = true :=
  ⟨11, by decide +kernel⟩
theorem witness_EveryStepKeepsTheCanonicalForm_1 : ∃ (s : State) (t : State), s.wf = true ∧ step s = .next t :=
  ⟨{ State.reset with pending := [.recCmdGo 0 1#32] }, _, by decide +kernel, rfl⟩
theorem witness_EveryCommandKeepsAssemblyAndQueue_2 : ∃ (s : State) (c : Instr) (rest : List Instr), s.pending = c :: rest :=
  ⟨{ State.reset with pending := [.ppsOut, .isolated] }, .ppsOut, [.isolated], rfl⟩
theorem witness_WritesOutOfReachOnlyLeaveTheirRecord_1 : ∃ (s : State) (c : Instr) (req : Nat) (site : Nat) (blk : Nat) (off : Nat), writeOf c = some (req, site, blk, off) ∧ s.sup.held = none ∧ (s.present site blk = false ∨ s.bar0 req site blk = false) :=
  ⟨bench, .monCmdReset 0 10 4#32, 0, 10, 0x90, 0x44, rfl, by decide +kernel, by decide +kernel⟩
theorem witness_WritesOutOfReachOnlyLeaveTheirRecord_2 : ∃ (s : State) (c : Instr) (req : Nat) (site : Nat) (blk : Nat) (off : Nat), writeOf c = some (req, site, blk, off) ∧ s.sup.held = none ∧ s.present site blk = true ∧ s.bar0 req site blk = true ∧ s.writeReach req site blk off = false :=
  ⟨bench, .monCmdReset 3 11 4#32, 3, 11, 0x90, 0x44, rfl, by decide +kernel, by decide +kernel, by decide +kernel, by decide +kernel⟩
theorem witness_WritesOutOfReachOnlyLeaveTheirRecord_3 : ∃ (s : State) (c : Instr) (req : Nat) (site : Nat) (blk : Nat) (off : Nat), writeOf c = some (req, site, blk, off) ∧ s.sup.held ≠ none :=
  ⟨{ bench with sup := { bench.sup with held := some 0 } }, .monCmdReset 0 10 4#32, 0, 10, 0x90, 0x44, rfl, by decide +kernel⟩
theorem witness_EncoderEdgesAndErrors_1 : ∃ (s : State) (site : Nat) (e : Nat) (lineB : Bool), s.isField site = true ∧ e < 8 ∧ overrate (s.enc site e) lineB (s.regFld (encPage site e + 0x40) 0 8) s.now = false :=
  ⟨poke bench [(pg 11 0x15 + 0x40, 0x100)], 11, 5, false, by decide +kernel⟩
theorem witness_EncoderEdgesAndErrors_2 : ∃ (s : State) (site : Nat) (e : Nat) (n : Nat) (lineB : Bool), s.isField site = true ∧ e < 8 ∧ overrate (s.enc site e) lineB (s.regFld (encPage site e + 0x40) 0 8) s.now = true ∧ (s.enc site e).errs = [] ∧ 1 ≤ s.regFld (encPage site e + 0x40) 16 8 ∧ s.regFld (encPage site e + 0x50) 0 16 = n ∧ n < 0xFFFD :=
  ⟨poke ({ bench with now := 40 } : State) [(pg 11 0x10 + 0x40, 0x00080020)] |>.setEnc 11 0 { last := some 20, lastA := some 20, edges := 7 }, 11, 0, 0, false, by decide +kernel⟩
theorem witness_EncoderEdgesAndErrors_3 : ∃ (s : State) (site : Nat) (e : Nat) (n : Nat) (c : Nat), s.isField site = true ∧ e < 8 ∧ (s.enc site e).errs = [] ∧ 1 ≤ s.regFld (encPage site e + 0x40) 16 8 ∧ s.regFld (encPage site e + 0x50) 0 16 = n ∧ n < 0xFFFD ∧ (s.reg (encPage site e + 0x54)).toNat = c ∧ c < 0xFFFF :=
  ⟨poke bench [(pg 11 0x17 + 0x40, 0x00080020), (pg 11 0x17 + 0x54, 0xFFFE)], 11, 7, 0, 0xFFFE, by decide +kernel⟩
theorem witness_EncoderEdgesAndErrors_4 : ∃ (s : State) (site : Nat) (e : Nat), s.isField site = true ∧ e < 8 ∧ s.regFld (encPage site e + 0x40) 16 8 ≤ ((s.enc site e).errs.filter (fun k => decide ((s.enc site e).edges < k + 1024))).length :=
  ⟨bench.setEnc 11 0 { edges := 5, errs := [1, 1, 1, 1, 1, 1, 1, 1, 1] }, 11, 0, by decide +kernel⟩
theorem witness_EncoderEdgesAndErrors_5 : ∃ (s : State) (site : Nat) (e : Nat) (pair : EncPair), s.isField site = true ∧ e < 8 ∧ (pair ≠ .z ∨ s.regBit (encPage site e + 0x40) 9 = true) :=
  ⟨bench, 11, 7, .b, by decide +kernel⟩
theorem witness_IndexUncertaintyAndPeriod_1 : ∃ (s : State) (site : Nat) (e : Nat) (rising : Bool) (k : Int) (dev : Int), s.isField site = true ∧ e < 8 ∧ s.regBit (encPage site e + 0x40) 9 = true ∧ s.reg (encPage site e + 0x44) ≠ 0#32 ∧ rising ≠ s.regBit (encPage site e + 0x40) 10 ∧ (s.enc site e).idx = some k ∧ dev = (s.enc site e).count - (if (s.enc site e).dir = some false then k - ((s.reg (encPage site e + 0x44)).toNat : Int) else k + ((s.reg (encPage site e + 0x44)).toNat : Int)) ∧ s.regFld (encPage site e + 0x50) 0 16 ≠ 0xFFFF ∧ dev.natAbs ≤ s.regFld (encPage site e + 0x50) 0 16 ∧ s.st (encPage site e) ≠ 5 :=
  ⟨poke bench [(pg 11 0x10 + 0x40, 0x200), (pg 11 0x10 + 0x44, 4000), (pg 11 0x10 + 0x50, 2)] |>.setEnc 11 0 { count := 4002, dir := some true, idx := some 0 }, 11, 0, true, 0, 2, by decide +kernel⟩
theorem witness_IndexUncertaintyAndPeriod_2 : ∃ (s : State) (site : Nat) (e : Nat) (rising : Bool) (k : Int) (dev : Int), s.isField site = true ∧ e < 8 ∧ s.regBit (encPage site e + 0x40) 9 = true ∧ s.reg (encPage site e + 0x44) ≠ 0#32 ∧ rising ≠ s.regBit (encPage site e + 0x40) 10 ∧ (s.enc site e).idx = some k ∧ dev = (s.enc site e).count - (if (s.enc site e).dir = some false then k - ((s.reg (encPage site e + 0x44)).toNat : Int) else k + ((s.reg (encPage site e + 0x44)).toNat : Int)) ∧ s.regFld (encPage site e + 0x50) 0 16 ≠ 0xFFFF ∧ s.regFld (encPage site e + 0x50) 0 16 < dev.natAbs :=
  ⟨poke bench [(pg 11 0x10 + 0x40, 0x200), (pg 11 0x10 + 0x44, 4000), (pg 11 0x10 + 0x50, 2)] |>.setEnc 11 0 { count := -4003, dir := some false, idx := some 0 }, 11, 0, true, 0, -3, by decide +kernel⟩
theorem witness_IndexUncertaintyAndPeriod_3 : ∃ (s : State) (req : Nat) (site : Nat) (e : Nat), s.takes 0x30 req site (0x10 + e) 0x6C = true ∧ s.st (encPage site e) ≠ 5 :=
  ⟨poke bench [(pg 11 0x10 + 0x50, 9)], 0, 11, 0, by decide +kernel⟩
theorem witness_IndexUncertaintyAndPeriod_4 : ∃ (s : State) (req : Nat) (site : Nat) (e : Nat), s.takes 0x30 req site (0x10 + e) 0x6C = true ∧ s.st (encPage site e) = 5 :=
  ⟨poke bench [(pg 11 0x10 + 0xC, 5)], 0, 11, 0, by decide +kernel⟩
theorem witness_IndexUncertaintyAndPeriod_5 : ∃ (s : State) (site : Nat) (e : Nat) (n : Nat), s.isField site = true ∧ e < 8 ∧ (s.enc site e).last = some n ∧ n + 0xFFFFFF ≤ s.now :=
  ⟨({ bench with now := 0xFFFFFF + 4 } : State).setEnc 11 0 { last := some 4 }, 11, 0, 4, by decide +kernel⟩
theorem witness_LineTriggersAndPitch_1 : ∃ (s : State) (site : Nat) (g : Nat) (l : Nat) (org : Int) (pitch : Nat), s.triggers site g = true ∧ (s.pos site g).below = true ∧ (s.pos site g).next / 256 ≤ s.encPos site (s.encOf site g) ∧ (s.gate site g).late = false ∧ s.sensorReady site g = true ∧ s.lineActs site g (s.pos site g).line = [] ∧ (s.pos site g).line = l ∧ (s.gate site g).top ≤ l ∧ (s.pos site g).runs = [(0, org, pitch)] ∧ (s.reg (puPage site g + 0x44)).toNat = pitch :=
  ⟨poke ({ bench with now := 5000 } : State) [(gatePage 11 1 + 0xC, 2), (gatePage 11 1 + 0xA4, 1), (strPage 11 2 + 0xC, 2), (puPage 11 1 + 0x40, 0), (puPage 11 1 + 0x44, 65536)] |>.setPos 11 1 { below := true, line := 1, next := 65536, runs := [(0, 0, 65536)] } |>.setEnc 11 0 { count := 1 }, 11, 1, 1, 0, 65536, by decide +kernel⟩
theorem witness_LineTriggersAndPitch_2 : ∃ (s : State) (site : Nat) (g : Nat), s.triggers site g = true ∧ (s.pos site g).below = true ∧ (s.pos site g).next / 256 ≤ s.encPos site (s.encOf site g) ∧ (s.gate site g).late = false ∧ s.sensorReady site g = false :=
  ⟨poke ({ bench with now := 5000 } : State) [(gatePage 11 1 + 0xC, 2), (gatePage 11 1 + 0xA4, 1), (strPage 11 2 + 0xC, 2), (puPage 11 1 + 0x40, 0), (puPage 11 1 + 0x44, 65536)] |>.setPos 11 1 { below := true, line := 1, next := 65536, runs := [(0, 0, 65536)], lastTrig := some 5000 } |>.setEnc 11 0 { count := 1 } |> fun s => poke s [(gatePage 11 1 + 0x58, 9)], 11, 1, by decide +kernel⟩
theorem witness_LineTriggersAndPitch_3 : ∃ (s : State) (site : Nat) (g : Nat) (l : Nat) (org : Int) (pitch : Nat), s.triggers site g = true ∧ (s.gate site g).late = true ∧ s.sensorReady site g = true ∧ s.lineActs site g (s.pos site g).line = [] ∧ (s.pos site g).line = l ∧ (s.gate site g).top ≤ l ∧ (s.pos site g).runs = [(0, org, pitch)] ∧ (s.reg (puPage site g + 0x44)).toNat = pitch :=
  ⟨poke ({ bench with now := 5000 } : State) [(gatePage 11 1 + 0xC, 2), (gatePage 11 1 + 0xA4, 1), (strPage 11 2 + 0xC, 2), (puPage 11 1 + 0x40, 0), (puPage 11 1 + 0x44, 65536)] |>.setPos 11 1 { line := 1, next := 65536, runs := [(0, 0, 65536)] } |>.setGate 11 1 { late := true }, 11, 1, 1, 0, 65536, by decide +kernel⟩
theorem witness_LineTriggersAndPitch_4 : ∃ (s : State) (req : Nat) (site : Nat) (g : Nat) (val : Word) (w : When), s.takes 0x31 req site (0x18 + g) 0x5C = true ∧ bitOf val 0 = true ∧ s.reg (puPage site g + 0x50) ≠ 0#32 ∧ decodeWhen s.asm (s.wide (puPage site g + 0x54)) = some w ∧ w.kind = 1 ∧ s.lineOf site g (s.armed site w (bitOf val 1)) = true ∧ s.passed site w = false :=
  ⟨poke ({ bench with now := 5000 } : State) [(gatePage 11 1 + 0xC, 2), (gatePage 11 1 + 0xA4, 1), (strPage 11 2 + 0xC, 2), (puPage 11 1 + 0x40, 0), (puPage 11 1 + 0x44, 65536)] |> fun s => poke s [(puPage 11 1 + 0x50, 70000), (puPage 11 1 + 0x54, 9), (puPage 11 1 + 0x58, 0x11000000)], 0, 11, 1, 1#32, { kind := 1, stream := 2, value := 9 }, by decide +kernel⟩
theorem witness_LineTriggersAndPitch_5 : ∃ (s : State) (req : Nat) (site : Nat) (g : Nat) (val : Word), s.takes 0x31 req site (0x18 + g) 0x5C = true ∧ bitOf val 0 = true ∧ s.reg (puPage site g + 0x50) ≠ 0#32 ∧ s.wide (puPage site g + 0x54) = 0 :=
  ⟨poke ({ bench with now := 5000 } : State) [(gatePage 11 1 + 0xC, 2), (gatePage 11 1 + 0xA4, 1), (strPage 11 2 + 0xC, 2), (puPage 11 1 + 0x40, 0), (puPage 11 1 + 0x44, 65536)] |> fun s => poke s [(puPage 11 1 + 0x50, 70000)], 0, 11, 1, 1#32, by decide +kernel⟩
theorem witness_ScheduledActionsRun_1 : ∃ (s : State) (req : Nat) (n : Nat) (val : Word) (w : When), n < 4 ∧ s.takes 0x02 req 8 1 (0x88 + 16 * n) = true ∧ bitOf val 0 = true ∧ decodeWhen s.asm (s.wide (cevReg n)) = some w ∧ w.kind = 3 ∧ s.passed 8 w = false :=
  ⟨poke bench [(cevReg 3, 5), (cevReg 3 + 4, 0x30000000)], 0, 3, 1#32, { kind := 3, value := 5 }, by decide +kernel⟩
theorem witness_ScheduledActionsRun_2 : ∃ (s : State) (n : Nat) (a : Armed), n < 4 ∧ s.cev n = some a ∧ a.at_.kind = 3 ∧ s.due 8 a = true ∧ a.late = false ∧ s.regBit (cevReg n + 8) 2 = false :=
  ⟨{ bench with clapper := 5000 * 2 ^ 24, cevs := [(0, { at_ := { kind := 3, value := 5 } })] }, 0, { at_ := { kind := 3, value := 5 } }, by decide +kernel⟩
theorem witness_ScheduledActionsRun_3 : ∃ (s : State) (n : Nat) (a : Armed), n < 4 ∧ s.cev n = some a ∧ a.at_.kind = 3 ∧ s.due 8 a = true ∧ a.late = true ∧ a.discard = true :=
  ⟨{ bench with clapper := 5000 * 2 ^ 24, cevs := [(3, { at_ := { kind := 3, value := 2 }, discard := true, late := true, lateAt := 5 })] }, 3, { at_ := { kind := 3, value := 2 }, discard := true, late := true, lateAt := 5 }, by decide +kernel⟩
theorem witness_ScheduledActionsRun_4 : ∃ (s : State) (site : Nat) (k : Nat), s.slotDue site k = true ∧ (s.slot site k).arm.at_.kind = 3 ∧ (s.slot site k).arm.late = false ∧ s.boundaryReason site k = none :=
  ⟨({ bench with clapper := 5000 * 2 ^ 24 } : State).setSlot 11 0 { st := 3, arm := { at_ := { kind := 3, value := 5 } } }, 11, 0, by decide +kernel⟩
theorem witness_ScheduledActionsRun_5 : ∃ (s : State) (site : Nat) (a : Nat) (x : Armed), s.isField site = true ∧ a < 16 ∧ s.segArm site a = some x ∧ x.at_.kind = 2 ∧ s.due site x = true ∧ x.late = false ∧ s.groupHeld site (s.grpOf site a) = false :=
  ⟨{ bench with ticks := [(11, 7)], segArms := [(11 * 16 + 15, { at_ := { kind := 2, value := 7 } })] }, 11, 15, { at_ := { kind := 2, value := 7 } }, by decide +kernel⟩
theorem witness_PtpMessagesDriveTheServo_1 : ∃ (s : State) (m : PtpMsg), s.fromMaster m = true ∧ syncAccepted m = true ∧ m.twoStep = true :=
  ⟨poke ({ bench with clapper := 1000 * 2 ^ 24, clk := { best := some { port := 0, domain := 0, gm := 9, prio1 := 1, cls := 1, acc := 1, var := 1, prio2 := 1, steps := 0, utc := 37, utcValid := true } } } : State) [(clkPage + 0x40, 1)], ({ port := 0, domain := 0, gm := 9, seq := 4, twoStep := true, originNs := 700, corrNs := 3 } : PtpMsg), by decide +kernel⟩
theorem witness_PtpMessagesDriveTheServo_2 : ∃ (s : State) (m : PtpMsg) (y : PtpMsg) (rx : Nat), s.fromMaster m = true ∧ s.clk.sync = some (y, rx) ∧ y.seq = m.seq ∧ y.gm = m.gm ∧ s.clk.delay = none :=
  ⟨{ poke ({ bench with clapper := 1000 * 2 ^ 24, clk := { best := some { port := 0, domain := 0, gm := 9, prio1 := 1, cls := 1, acc := 1, var := 1, prio2 := 1, steps := 0, utc := 37, utcValid := true } } } : State) [(clkPage + 0x40, 1)] with clk := { (poke ({ bench with clapper := 1000 * 2 ^ 24, clk := { best := some { port := 0, domain := 0, gm := 9, prio1 := 1, cls := 1, acc := 1, var := 1, prio2 := 1, steps := 0, utc := 37, utcValid := true } } } : State) [(clkPage + 0x40, 1)]).clk with sync := some (({ port := 0, domain := 0, gm := 9, seq := 4, twoStep := true, originNs := 700, corrNs := 3 } : PtpMsg), 1000) } }, ({ port := 0, domain := 0, gm := 9, seq := 4, twoStep := true, originNs := 700, corrNs := 3 } : PtpMsg), ({ port := 0, domain := 0, gm := 9, seq := 4, twoStep := true, originNs := 700, corrNs := 3 } : PtpMsg), 1000, by decide +kernel⟩
theorem witness_PtpMessagesDriveTheServo_3 : ∃ (s : State) (b : PtpAnnounce), s.clkSource = 1 ∧ s.mainOk = true ∧ s.clk.best = some b ∧ s.clk.reqAt.all (fun a => decide (a + logInterval s.clk.minDelay ≤ s.now)) = true :=
  ⟨poke ({ bench with clapper := 1000 * 2 ^ 24, clk := { best := some { port := 0, domain := 0, gm := 9, prio1 := 1, cls := 1, acc := 1, var := 1, prio2 := 1, steps := 0, utc := 37, utcValid := true } } } : State) [(clkPage + 0x40, 1)], ({ port := 0, domain := 0, gm := 9, prio1 := 1, cls := 1, acc := 1, var := 1, prio2 := 1, steps := 0, utc := 37, utcValid := true } : PtpAnnounce), by decide +kernel⟩
theorem witness_PtpMessagesDriveTheServo_4 : ∃ (s : State) (m : PtpMsg) (sent : Nat) (rx : Nat) (org : Nat) (d : Nat) (d0 : Nat), s.fromMaster m = true ∧ m.toUs = true ∧ m.seq = s.clk.reqSeq ∧ s.clk.t3 = some sent ∧ s.clk.t1t2 = some (org, rx) ∧ s.clk.delay = some d0 ∧ (d : Int) = (((rx : Int) - org) + ((m.originNs : Int) - m.corrNs - sent)) / 2 :=
  ⟨{ poke ({ bench with clapper := 1000 * 2 ^ 24, clk := { best := some { port := 0, domain := 0, gm := 9, prio1 := 1, cls := 1, acc := 1, var := 1, prio2 := 1, steps := 0, utc := 37, utcValid := true } } } : State) [(clkPage + 0x40, 1)] with clk := { best := some { port := 0, domain := 0, gm := 9, prio1 := 1, cls := 1, acc := 1, var := 1, prio2 := 1, steps := 0, utc := 37, utcValid := true }, t3 := some 600, t1t2 := some (700, 900), delay := some 5, reqSeq := 4 } }, ({ port := 0, domain := 0, gm := 9, seq := 4, twoStep := true, originNs := 700, corrNs := 3 } : PtpMsg), 600, 900, 700, 148, 5, by decide +kernel⟩
theorem witness_PtpMessagesDriveTheServo_5 : ∃ (s : State) (a : PtpAnnounce), s.ptpHears a.port a.transport a.domain = true ∧ s.clk.best = none :=
  ⟨poke bench [(clkPage + 0x40, 1)], { port := 0, domain := 0, gm := 9, prio1 := 1, cls := 1, acc := 1, var := 1, prio2 := 1, steps := 0, utc := 37, utcValid := true }, by decide +kernel⟩
theorem witness_PtpMessagesDriveTheServo_6 : ∃ (s : State), s.clkSource = 1 ∧ s.clkLock = 2 :=
  ⟨poke bench [(clkPage + 0x40, 1), (clkPage + 0x44, 2)], by decide +kernel⟩
theorem witness_PpsHoldoverAndClockWrites_1 : ∃ (s : State), s.clkSource ≠ 2 :=
  ⟨bench, by decide +kernel⟩
theorem witness_PpsHoldoverAndClockWrites_2 : ∃ (s : State), s.clkSource = 2 ∧ s.clkLock = 1 ∧ s.regBit (clkPage + 0x44) 2 = false ∧ (s.reg (clkPage + 0x70)).toNat < (secDistance s.ns).natAbs :=
  ⟨poke ({ bench with clapper := 2000 * 2 ^ 24 } : State) [(clkPage + 0x40, 2), (clkPage + 0x44, 1), (clkPage + 0x70, 1999)], by decide +kernel⟩
theorem witness_PpsHoldoverAndClockWrites_3 : ∃ (s : State) (e : Nat), s.clk.lastPps = some e ∧ e + 300000000 ≤ s.now ∧ s.clkSource = 2 ∧ s.clkLock = 2 :=
  ⟨poke ({ bench with now := 300000004, clk := { lastPps := some 4 } } : State) [(clkPage + 0x40, 2), (clkPage + 0x44, 10)], 4, by decide +kernel⟩
theorem witness_PpsHoldoverAndClockWrites_4 : ∃ (s : State) (e : Nat), s.clk.holdAt = some e ∧ s.clkLock = 3 ∧ e + s.holdoverMax ≤ s.now :=
  ⟨poke ({ bench with now := 2000000004, clk := { holdAt := some 4 } } : State) [(clkPage + 0x40, 0x01000000), (clkPage + 0x44, 3)], 4, by decide +kernel⟩
theorem witness_PpsHoldoverAndClockWrites_5 : ∃ (s : State), s.clk.ppsSec ≠ s.ns / 10 ^ 9 :=
  ⟨{ bench with clapper := 10 ^ 9 * 2 ^ 24 }, by decide +kernel⟩
theorem witness_PpsHoldoverAndClockWrites_6 : ∃ (s : State) (req : Nat) (val : Word), s.takes 0x02 req 8 1 0x60 = true ∧ bitOf val 0 = true ∧ s.clkSource ≠ 1 :=
  ⟨poke bench [(clkPage + 0x54, 7), (clkPage + 0x58, 2)], 0, 1#32, by decide +kernel⟩
theorem witness_PpsHoldoverAndClockWrites_7 : ∃ (s : State) (req : Nat) (val : Word), s.takes 0x02 req 8 1 0x60 = true ∧ bitOf val 0 = true ∧ s.clkSource = 1 :=
  ⟨poke bench [(clkPage + 0x40, 1)], 0, 1#32, by decide +kernel⟩
theorem witness_PpsHoldoverAndClockWrites_8 : ∃ (s : State) (req : Nat) (val : Word) (r : RegDef), s.takes 0x02 req 8 1 0x40 = true ∧ findReg 0x02 0x40 = some r ∧ staticReason r val = none ∧ s.isMember = false ∧ s.clkSource ≠ 2 ∧ fld (maskedWrite r (s.reg (clkPage + 0x40)) val) 0 2 = 2 ∧ s.clkLock ≠ 1 :=
  ⟨bench, 0, 0x00640002#32, (findReg 0x02 0x40).getD { off := 0, acc := .ro }, by decide +kernel⟩
theorem witness_AbsentWriteRecorded_1 : ∃ (s : State) (addr : Nat), addr < 2 ^ 26 ∧ s.sup.held = none ∧ s.present (siteOf addr) (blkOf addr) = false :=
  ⟨bench, pg 10 0 + 0x40, by decide +kernel⟩
theorem witness_AbsentWriteRecorded_2 : ∃ (s : State) (addr : Nat), addr < 2 ^ 26 ∧ s.present (siteOf addr) (blkOf addr) = false :=
  ⟨bench, pg 4 0 + 8, by decide +kernel⟩
theorem witness_UndefinedOffsetsReadZeroAndRejectWrites_1 : ∃ (s : State) (addr : Nat), s.present (siteOf addr) (blkOf addr) = true ∧ s.mapped (siteOf addr) (blkOf addr) (offOf addr) = none ∧ addr % 4 = 0 :=
  ⟨bench, pg 11 0x10 + 0xFF0, by decide +kernel⟩
theorem witness_UndefinedOffsetsReadZeroAndRejectWrites_2 : ∃ (s : State) (req : Nat) (addr : Nat), s.gateWrite req (siteOf addr) (blkOf addr) (offOf addr) = none ∧ s.noneDue (siteOf addr) = true ∧ addr % 4 = 0 ∧ s.mapped (siteOf addr) (blkOf addr) (offOf addr) = none :=
  ⟨bench, 16, pg 11 0x10 + 0xFF0, by decide +kernel⟩
theorem witness_RegisterWriteEffect_1 : ∃ (s : State) (req : Nat) (addr : Nat) (val : Word) (r : RegDef), s.gateWrite req (siteOf addr) (blkOf addr) (offOf addr) = none ∧ s.noneDue (siteOf addr) = true ∧ addr % 4 = 0 ∧ s.mapped (siteOf addr) (blkOf addr) (offOf addr) = some r ∧ offOf addr = 0x14 ∧ staticReason r val = none ∧ r.acc = .rw ∧ s.valueBad (siteOf addr) (blkOf addr) 0x14 val = false ∧ s.typeAt (siteOf addr) (blkOf addr) ≠ 0x35 ∧ s.stateReason req (siteOf addr) (blkOf addr) 0x14 (s.reg addr) (maskedWrite r (s.reg addr) val) = none :=
  ⟨poke bench [(pg 11 0x10 + 0x10, 5)], 0, pg 11 0x10 + 0x14, 4#32, (findReg 0x30 0x14).getD { off := 0, acc := .ro }, by decide +kernel⟩
theorem witness_RegisterWriteEffect_2 : ∃ (s : State) (req : Nat) (addr : Nat) (val : Word) (r : RegDef), s.gateWrite req (siteOf addr) (blkOf addr) (offOf addr) = none ∧ s.noneDue (siteOf addr) = true ∧ addr % 4 = 0 ∧ s.mapped (siteOf addr) (blkOf addr) (offOf addr) = some r ∧ offOf addr ≠ 0x14 ∧ (s.ownRule req (siteOf addr) (blkOf addr) (offOf addr) val).isNone = true ∧ staticReason r val = none ∧ (r.acc ≠ .rwl ∨ s.st (pg (siteOf addr) (blkOf addr)) ≠ 7) ∧ (r.acc ≠ .rws ∨ s.openSlot (siteOf addr) (blkOf addr) = none) ∧ s.valueBad (siteOf addr) (blkOf addr) (offOf addr) val = false ∧ s.stateReason req (siteOf addr) (blkOf addr) (offOf addr) (s.reg addr) (maskedWrite r (s.reg addr) val) = none ∧ s.typeAt (siteOf addr) (blkOf addr) ∉ [0x09, 0x0B, 0x30, 0x31, 0x33, 0x34, 0x35, 0x37, 0x39, 0x3B, 0x3C] :=
  ⟨bench, 0, pg 11 0x70 + 0x44, 0x00100008#32, (findReg 0x3A 0x44).getD { off := 0, acc := .ro }, by decide +kernel⟩
theorem witness_RegisterWriteEffect_3 : ∃ (s : State) (req : Nat) (addr : Nat) (be : Nat), s.gateWrite req (siteOf addr) (blkOf addr) (offOf addr) = none ∧ s.noneDue (siteOf addr) = true ∧ be ≠ 15 :=
  ⟨bench, 0, pg 11 0x70 + 0x44, 3, by decide +kernel⟩
theorem witness_RegisterWriteEffect_4 : ∃ (s : State) (a : State) (b : State) (req : Nat) (addr : Nat) (lo : Word) (hi : Word), addr % 8 = 0 ∧ exec (.registerWrite req addr ⟨lo, none⟩ 15) s = .next a ∧ exec (.registerWrite req (addr + 4) ⟨hi, none⟩ 15) a = .next b :=
  ⟨bench, _, _, 0, pg 11 0x70 + 0x40, 0#32, 0#32, by decide +kernel, rfl, rfl⟩
theorem witness_EnableStopAndPendingStart_1 : ∃ (s : State) (req : Nat) (site : Nat) (blk : Nat), s.gateWrite req site blk 8 = none ∧ s.noneDue site = true ∧ hasCtrl (s.typeAt site blk) = true ∧ s.typeAt site blk ≠ 0x47 ∧ ctrlOwn (s.typeAt site blk) req = true ∧ s.openSlot site blk = none ∧ s.guardCtrl site blk true = false ∧ s.enReason site blk = none ∧ s.st (pg site blk) = 0 ∧ s.regBit (pg site blk + 8) 1 = false :=
  ⟨bench, 0, 11, 0x10, by decide +kernel⟩
theorem witness_EnableStopAndPendingStart_2 : ∃ (s : State) (req : Nat) (site : Nat) (blk : Nat), s.gateWrite req site blk 8 = none ∧ s.noneDue site = true ∧ hasCtrl (s.typeAt site blk) = true ∧ s.typeAt site blk ≠ 0x47 ∧ ctrlOwn (s.typeAt site blk) req = true ∧ s.openSlot site blk = none ∧ s.guardCtrl site blk true = false ∧ s.enReason site blk = none ∧ s.st (pg site blk) = 3 :=
  ⟨poke bench [(pg 11 0x10 + 0xC, 3)], 0, 11, 0x10, by decide +kernel⟩
theorem witness_EnableStopAndPendingStart_3 : ∃ (s : State) (req : Nat) (site : Nat) (blk : Nat), s.gateWrite req site blk 8 = none ∧ s.noneDue site = true ∧ hasCtrl (s.typeAt site blk) = true ∧ s.typeAt site blk ≠ 0x47 ∧ ctrlOwn (s.typeAt site blk) req = true ∧ s.openSlot site blk = none ∧ s.guardCtrl site blk true = false ∧ s.st (pg site blk) = 5 :=
  ⟨poke bench [(pg 11 0x10 + 0xC, 5)], 17, 11, 0x10, by decide +kernel⟩
theorem witness_EnableStopAndPendingStart_4 : ∃ (s : State) (req : Nat) (site : Nat) (blk : Nat), s.gateWrite req site blk 8 = none ∧ s.noneDue site = true ∧ hasCtrl (s.typeAt site blk) = true ∧ ctrlOwn (s.typeAt site blk) req = true ∧ s.openSlot site blk = none ∧ s.guardCtrl site blk false = false ∧ (s.st (pg site blk) = 0 ∨ s.st (pg site blk) = 3) ∧ s.regBit (pg site blk + 8) 1 = true :=
  ⟨poke bench [(pg 11 0x10 + 0xC, 3), (pg 11 0x10 + 8, 3)], 0, 11, 0x10, by decide +kernel⟩
theorem witness_EnableStopAndPendingStart_5 : ∃ (s : State) (req : Nat) (site : Nat) (blk : Nat), s.gateWrite req site blk 8 = none ∧ s.noneDue site = true ∧ hasCtrl (s.typeAt site blk) = true ∧ ctrlOwn (s.typeAt site blk) req = true ∧ s.openSlot site blk = none ∧ s.guardCtrl site blk false = false ∧ s.st (pg site blk) ∈ [1, 2, 4, 5, 6] ∧ s.regBit (pg site blk + 8) 1 = false :=
  ⟨poke bench [(pg 11 0x10 + 0xC, 6), (pg 11 0x10 + 8, 1)], 0, 11, 0x10, by decide +kernel⟩
theorem witness_EnableStopAndPendingStart_6 : ∃ (s : State) (site : Nat) (blk : Nat), s.present site blk = true ∧ s.st (pg site blk) = 0 ∧ s.regBit (pg site blk + 8) 1 = true :=
  ⟨poke bench [(pg 11 0x10 + 8, 3)], 11, 0x10, by decide +kernel⟩
theorem witness_EnableStopAndPendingStart_7 : ∃ (s : State) (site : Nat) (blk : Nat), s.present site blk = true ∧ hasCtrl (s.typeAt site blk) = true ∧ s.st (pg site blk) = 3 ∧ s.stopDone site blk = true :=
  ⟨poke bench [(pg 11 0x10 + 0xC, 3)], 11, 0x10, by decide +kernel⟩
theorem witness_EnableStopAndPendingStart_8 : ∃ (s : State) (site : Nat) (blk : Nat), s.present site blk = true ∧ s.st (pg site blk) = 1 ∧ s.startDone site blk = true ∧ s.typeAt site blk ∉ [0x09, 0x0A, 0x0F, 0x3B, 0x40, 0x49, 0x4A, 0x4B] :=
  ⟨poke bench [(pg 11 0x10 + 0xC, 1)], 11, 0x10, by decide +kernel⟩
theorem witness_SoftResetEventAndFaultClear_1 : ∃ (s : State) (req : Nat) (site : Nat) (blk : Nat), s.gateWrite req site blk 8 = none ∧ s.noneDue site = true ∧ hasCtrl (s.typeAt site blk) = true ∧ ctrlOwn (s.typeAt site blk) req = true ∧ (s.st (pg site blk) = 0 ∨ s.st (pg site blk) = 5) ∧ s.slotsOf site blk = [] ∧ s.typeAt site blk ∉ [0x08, 0x09, 0x30, 0x31, 0x33, 0x34, 0x35, 0x37, 0x3B, 0x40, 0x44, 0x47, 0x49, 0x4A, 0x4B, 0x50] ∧ hasTxn (s.typeAt site blk) = false :=
  ⟨poke bench [(pg 8 0x40 + 0xC, 5), (pg 8 0x40 + 0x44, 9)], 0, 8, 0x40, by decide +kernel⟩
theorem witness_SoftResetEventAndFaultClear_2 : ∃ (s : State) (req : Nat) (site : Nat) (blk : Nat), s.gateWrite req site blk 8 = none ∧ s.noneDue site = true ∧ hasCtrl (s.typeAt site blk) = true ∧ ctrlOwn (s.typeAt site blk) req = true ∧ s.st (pg site blk) ∈ [1, 2, 3, 4, 6] :=
  ⟨poke bench [(pg 11 0x10 + 0xC, 2)], 0, 11, 0x10, by decide +kernel⟩
theorem witness_SoftResetEventAndFaultClear_3 : ∃ (s : State) (req : Nat) (site : Nat) (blk : Nat), s.gateWrite req site blk 0x10 = none ∧ s.noneDue site = true :=
  ⟨poke bench [(pg 11 0x10 + 0x10, 7)], 0, 11, 0x10, by decide +kernel⟩
theorem witness_SoftResetEventAndFaultClear_4 : ∃ (s : State) (req : Nat) (site : Nat) (blk : Nat), s.gateWrite req site blk 0x1C = none ∧ s.noneDue site = true ∧ s.st (pg site blk) ≠ 5 :=
  ⟨poke bench [(pg 11 0x10 + 0x1C, 0x10101)], 0, 11, 0x10, by decide +kernel⟩
theorem witness_SoftResetEventAndFaultClear_5 : ∃ (s : State) (req : Nat) (site : Nat) (blk : Nat) (val : Word), s.gateWrite req site blk 0x1C = none ∧ s.noneDue site = true ∧ (val ≠ 0#32 ∨ s.st (pg site blk) = 5) :=
  ⟨poke bench [(pg 11 0x10 + 0xC, 5)], 0, 11, 0x10, 0#32, by decide +kernel⟩
theorem witness_SoftResetEventAndFaultClear_6 : ∃ (s : State) (site : Nat) (blk : Nat), s.isField site = true ∧ s.present site blk = true ∧ s.typeAt site blk ∉ [0x30, 0x37, 0x3B, 0x3C, 0x3E] ∧ s.st (pg site blk) ∈ [1, 2, 3, 4, 6] :=
  ⟨poke bench [(pg 11 0x20 + 0xC, 3), (pg 11 0x20 + 8, 3)], 11, 0x20, by decide +kernel⟩
theorem witness_TransactionSlotCommands_1 : ∃ (s : State) (req : Nat) (site : Nat) (blk : Nat) (k : Nat), k < 4 ∧ s.gateWrite req site blk 0x20 = none ∧ s.noneDue site = true ∧ hasTxn (s.typeAt site blk) = true ∧ s.openSlot site blk = none ∧ (s.slot site k).st ∈ [0, 4, 5] :=
  ⟨bench, 0, 11, 0x10, 3, by decide +kernel⟩
theorem witness_TransactionSlotCommands_2 : ∃ (s : State) (req : Nat) (site : Nat) (blk : Nat) (k : Nat), k < 4 ∧ s.gateWrite req site blk 0x20 = none ∧ s.noneDue site = true ∧ hasTxn (s.typeAt site blk) = true ∧ (s.slot site k).busy = true ∧ (s.slot site k).owner ≠ req :=
  ⟨bench.setSlot 11 3 { st := 1, owner := 16, members := [0x12] }, 0, 11, 0x10, 3, by decide +kernel⟩
theorem witness_TransactionSlotCommands_3 : ∃ (s : State) (req : Nat) (site : Nat) (blk : Nat) (k : Nat) (val : Word) (w : When), s.gateWrite req site blk 0x20 = none ∧ s.noneDue site = true ∧ hasTxn (s.typeAt site blk) = true ∧ fld val 0 2 = k ∧ val &&& 0xFF00F0D4#32 = 0#32 ∧ (s.slot site k).st = 1 ∧ (s.slot site k).owner = req ∧ (s.slot site k).members.contains blk = true ∧ (s.slot site k).overflow = false ∧ decodeWhen s.asm (s.wide (pg site blk + 0x28)) = some w ∧ s.whenOk site (fld val 8 4) false w = true :=
  ⟨bench.setSlot 11 1 { st := 1, owner := 0, members := [0x10] }, 0, 11, 0x10, 1, 1#32, { kind := 0 }, by decide +kernel⟩
theorem witness_TransactionSlotCommands_4 : ∃ (s : State) (req : Nat) (site : Nat) (blk : Nat) (k : Nat) (val : Word), s.gateWrite req site blk 0x20 = none ∧ s.noneDue site = true ∧ hasTxn (s.typeAt site blk) = true ∧ fld val 0 2 = k ∧ val &&& 0xFF00F034#32 = 0#32 ∧ (s.slot site k).busy = true ∧ (s.slot site k).owner = req ∧ (s.slot site k).cross = false :=
  ⟨bench.setSlot 11 1 { st := 3, owner := 0, members := [0x10], arm := { at_ := { kind := 3, value := 1000 } } }, 0, 11, 0x10, 1, 1#32, by decide +kernel⟩
theorem witness_TransactionSlotCommands_5 : ∃ (s : State) (req : Nat) (site : Nat) (blk : Nat) (val : Word), s.gateWrite req site blk 0x20 = none ∧ s.noneDue site = true ∧ hasTxn (s.typeAt site blk) = true ∧ val &&& 0xFF00F034#32 = 0#32 ∧ (s.slot site (fld val 0 2)).busy = false :=
  ⟨bench.setSlot 11 1 { st := 4, owner := 0, members := [0x10] }, 0, 11, 0x10, 1#32, by decide +kernel⟩
theorem witness_TransactionSlotCommands_6 : ∃ (s : State) (site : Nat) (k : Nat), k < 4 ∧ (s.slot site k).st = 2 :=
  ⟨bench.setSlot 11 1 { st := 2, owner := 0, members := [0x10] }, 11, 1, by decide +kernel⟩
theorem witness_TransactionSlotCommands_7 : ∃ (s : State) (site : Nat) (k : Nat), s.slotDue site k = true ∧ (s.slot site k).arm.late = false ∧ s.boundaryReason site k = none :=
  ⟨bench.setSlot 11 1 { st := 3, owner := 0, members := [0x10] }, 11, 1, by decide +kernel⟩
theorem witness_TransactionSlotCommands_8 : ∃ (s : State) (site : Nat) (k : Nat) (blk : Nat) (off : Nat) (v : Word) (r : RegDef), s.slotDue site k = true ∧ (s.slot site k).arm.late = false ∧ s.boundaryReason site k = none ∧ (s.slot site k).members = [blk] ∧ (s.slot site k).entries = [(pg site blk + off, v)] ∧ s.typeAt site blk = 0x30 ∧ blk < 1024 ∧ off < 0x1000 ∧ 0x40 ≤ off ∧ findReg 0x30 off = some r ∧ r.acc = .rws :=
  ⟨bench.setSlot 11 1 { st := 3, owner := 0, members := [0x12], entries := [(pg 11 0x12 + 0x40, 0x00100008#32)] }, 11, 1, 0x12, 0x40, 0x00100008#32, (findReg 0x30 0x40).getD { off := 0, acc := .ro }, by decide +kernel⟩
theorem witness_TransactionSlotCommands_9 : ∃ (s : State) (site : Nat) (k : Nat) (r : Nat), s.slotDue site k = true ∧ (s.slot site k).arm.late = false ∧ s.boundaryReason site k = some r :=
  ⟨poke (bench.setSlot 11 1 { st := 3, owner := 0, members := [0x10] }) [(pg 11 0x10 + 0xC, 5)], 11, 1, 4, by decide +kernel⟩
theorem witness_CrossSiteGroupCommands_1 : ∃ (s : State) (site : Nat) (g : Nat) (k : Nat × Nat), g < 16 ∧ (s.group g).go = false ∧ (s.group g).reports.contains (s.pkg, site, 0) = false ∧ (s.groupSlots g).find? (fun k => k.1 == site && (s.slot k.1 k.2).st == 3) = some k ∧ s.boundaryReason k.1 k.2 = none ∧ (s.setGroup g { s.group g with reports := (s.group g).reports ++ [(s.pkg, site, 0)] }).allReported g = false :=
  ⟨bench.setSlot 11 1 { st := 3, owner := 0, members := [0x10], cross := true, group := 2, sites := 0x90, arm := { at_ := { kind := 3, value := 1000 } } }, 11, 2, (11, 1), by decide +kernel⟩
theorem witness_CrossSiteGroupCommands_2 : ∃ (s : State) (site : Nat) (g : Nat) (k : Nat × Nat) (a : Armed), g < 16 ∧ (s.group g).go = false ∧ (s.group g).waiting = false ∧ (s.group g).reports.contains (s.pkg, site, 0) = false ∧ (s.groupSlots g).find? (fun k => k.1 == site && (s.slot k.1 k.2).st == 3) = some k ∧ s.boundaryReason k.1 k.2 = none ∧ (s.setGroup g { s.group g with reports := (s.group g).reports ++ [(s.pkg, site, 0)] }).allReported g = true ∧ s.groupWhen g = some a ∧ s.ns + s.groupMargin g * 1000 ≤ a.at_.value * 1000 :=
  ⟨bench.setSlot 11 1 { st := 3, owner := 0, members := [0x10], cross := true, group := 2, sites := 0x80, arm := { at_ := { kind := 3, value := 1000 } } }, 11, 2, (11, 1), { at_ := { kind := 3, value := 1000 } }, by decide +kernel⟩
theorem witness_CrossSiteGroupCommands_3 : ∃ (s : State) (g : Nat) (a : Armed), s.groupWhen g = some a ∧ (s.group g).go = false ∧ a.at_.value * 1000 ≤ s.ns + s.groupMargin g * 1000 ∧ a.discard = false :=
  ⟨bench.setSlot 11 1 { st := 3, owner := 0, members := [0x10], cross := true, group := 2, sites := 0x80, arm := { at_ := { kind := 3, value := 10 } } }, 2, { at_ := { kind := 3, value := 10 } }, by decide +kernel⟩
theorem witness_CrossSiteGroupCommands_4 : ∃ (s : State) (g : Nat) (a : Armed), s.groupWhen g = some a ∧ (s.group g).go = false ∧ a.at_.value * 1000 ≤ s.ns + s.groupMargin g * 1000 ∧ a.discard = true :=
  ⟨bench.setSlot 11 1 { st := 3, owner := 0, members := [0x10], cross := true, group := 2, sites := 0x80, arm := { at_ := { kind := 3, value := 10 }, discard := true } }, 2, { at_ := { kind := 3, value := 10 }, discard := true }, by decide +kernel⟩
theorem witness_CrossSiteGroupCommands_5 : ∃ (s : State) (g : Nat) (a : Armed), s.groupWhen g = some a ∧ (s.group g).go = false ∧ a.at_.value * 1000 + 1000000 ≤ s.ns :=
  ⟨({ bench with clapper := 2000000 * 2 ^ 24 } : State).setSlot 11 1 { st := 3, owner := 0, members := [0x10], cross := true, group := 2, sites := 0x80, arm := { at_ := { kind := 3, value := 10 } } }, 2, { at_ := { kind := 3, value := 10 } }, by decide +kernel⟩
theorem witness_CrossSiteGroupCommands_6 : ∃ (s : State) (site : Nat) (g : Nat) (k : Nat × Nat), (s.groupSlots g).find? (fun k => k.1 == site) = some k ∧ (s.group g).go = true ∧ (s.group g).tGo * 1000 ≤ s.ns :=
  ⟨(({ bench with clapper := 2000000 * 2 ^ 24 } : State).setSlot 11 1 { st := 3, owner := 0, members := [0x10], cross := true, group := 2, sites := 0x80, arm := { at_ := { kind := 3, value := 10 } } }).setGroup 2 { go := true, tGo := 10 }, 11, 2, (11, 1), by decide +kernel⟩
theorem witness_CrossSiteGroupCommands_7 : ∃ (s : State) (site : Nat) (g : Nat) (k : Nat × Nat), (s.groupSlots g).find? (fun k => k.1 == site) = some k ∧ (s.group g).go = false ∧ (s.group g).waiting = false ∧ (s.slot k.1 k.2).arm.at_.value * 1000 ≤ s.ns :=
  ⟨({ bench with clapper := 2000000 * 2 ^ 24 } : State).setSlot 11 1 { st := 3, owner := 0, members := [0x10], cross := true, group := 2, sites := 0x80, arm := { at_ := { kind := 3, value := 10 } } }, 11, 2, (11, 1), by decide +kernel⟩
theorem witness_ReadsAndLatches_1 : ∃ (s : State) (req : Nat) (addr : Nat), addr % 4 = 0 ∧ s.readable req (siteOf addr) (blkOf addr) (offOf addr) = true ∧ (s.latch.find? (fun e => e.1 == latchKey req (pg (siteOf addr) (blkOf addr) + offOf addr))).isNone = true ∧ (s.typeAt (siteOf addr) (blkOf addr), offOf addr) ∉ [(0x33, 0xC0), (0x3D, 0x68), (0x0F, 0x4C), (0x0E, 0x48)] :=
  ⟨bench, 0, clkPage + 0x48, by decide +kernel⟩
theorem witness_ReadsAndLatches_2 : ∃ (s : State) (req : Nat) (addr : Nat) (v : Word), addr % 4 = 0 ∧ s.readable req (siteOf addr) (blkOf addr) (offOf addr) = true ∧ s.latch.find? (fun e => e.1 == latchKey req (pg (siteOf addr) (blkOf addr) + offOf addr)) = some (latchKey req (pg (siteOf addr) (blkOf addr) + offOf addr), v) ∧ (s.typeAt (siteOf addr) (blkOf addr), offOf addr) ∉ [(0x33, 0xC0), (0x3D, 0x68), (0x0F, 0x4C), (0x0E, 0x48)] :=
  ⟨{ bench with latch := [(latchKey 0 (pg 8 1 + 0x4C), 77#32)] }, 0, clkPage + 0x4C, 77#32, by decide +kernel⟩
theorem witness_ReadsAndLatches_3 : ∃ (s : State) (addr : Nat), addr % 4 = 0 ∧ addr < 2 ^ 26 ∧ s.present (siteOf addr) (blkOf addr) = false ∧ s.typeAt (siteOf addr) (blkOf addr) ∉ [0x33, 0x3D, 0x0F, 0x0E] :=
  ⟨bench, pg 10 0, by decide +kernel⟩
theorem witness_ReadsAndLatches_4 : ∃ (s : State) (a : State) (b : State) (req : Nat) (addr : Nat), addr % 8 = 0 ∧ exec (.latchedRead req ⟨addr, false⟩) s = .next a ∧ exec (.latchedRead req ⟨addr + 4, false⟩) a = .next b :=
  ⟨bench, _, _, 0, clkPage + 0x48, by decide +kernel, rfl, rfl⟩
theorem witness_SupplySwitchOver_1 : ∃ (s : State) (aMv : Nat) (bMv : Nat), s.regBit (supPage + 0x40) 0 = false ∧ aMv < 3000 ∧ 3000 ≤ bMv :=
  ⟨bench, 2999, 3000, by decide +kernel⟩
theorem witness_SupplySwitchOver_2 : ∃ (s : State) (aMv : Nat) (bMv : Nat), s.regBit (supPage + 0x40) 0 = false ∧ aMv < 3000 ∧ bMv < 3000 :=
  ⟨poke bench [(supPage + 0x40, 0x3E)], 2999, 2999, by decide +kernel⟩
theorem witness_SupplySwitchOver_3 : ∃ (s : State) (n : Nat), s.sup.retAt = some n ∧ s.regBit (supPage + 0x40) 0 = true ∧ n + 20000000 ≤ s.now ∧ 3100 ≤ s.sup.vaonA :=
  ⟨poke { bench with now := 20000007, sup := { bench.sup with retAt := some 7 } } [(supPage + 0x40, 0x39)], 7, by decide +kernel⟩
theorem witness_SupplySwitchOver_4 : ∃ (s : State) (aMv : Nat) (bMv : Nat), s.regBit (supPage + 0x40) 0 = true ∧ 3100 ≤ aMv ∧ 3000 ≤ bMv :=
  ⟨poke bench [(supPage + 0x40, 0x39)], 3100, 3000, by decide +kernel⟩
theorem witness_SupplySwitchOver_5 : ∃ (s : State) (aMv : Nat) (bMv : Nat), s.regBit (supPage + 0x40) 0 = true ∧ aMv < 3100 ∧ 3000 ≤ bMv :=
  ⟨poke { bench with sup := { bench.sup with retAt := some 7 } } [(supPage + 0x40, 0x39)], 3099, 3000, by decide +kernel⟩
theorem witness_SupplySwitchOver_6 : ∃ (s : State) (aMv : Nat) (bMv : Nat), s.regBit (supPage + 0x40) 0 = true ∧ 3000 ≤ aMv ∧ bMv < 3000 :=
  ⟨poke bench [(supPage + 0x40, 0x39)], 3000, 2999, by decide +kernel⟩
theorem witness_SupplySwitchOver_7 : ∃ (s : State) (aMv : Nat) (bMv : Nat), s.regBit (supPage + 0x40) 0 = false ∧ s.regBit (supPage + 0x40) 2 = true ∧ 3000 ≤ aMv ∧ bMv < 3000 :=
  ⟨bench, 3000, 2999, by decide +kernel⟩
theorem witness_SupplySwitchOver_8 : ∃ (s : State) (site : Nat) (aMv : Nat) (bMv : Nat), s.isField site = true ∧ s.regBit (fioPage site + 0x40) 0 = false ∧ s.regBit (fioPage site + 0x40) 4 = true ∧ aMv < 19000 ∧ 19000 ≤ bMv :=
  ⟨bench, 11, 18999, 19000, by decide +kernel⟩
theorem witness_SupplySwitchOver_9 : ∃ (s : State) (site : Nat) (n : Nat), s.isField site = true ∧ (s.fio site).retAt = some n ∧ s.regBit (fioPage site + 0x40) 0 = true ∧ s.regBit (fioPage site + 0x40) 4 = true ∧ 20000 ≤ (s.fio site).a ∧ n + 20000000 ≤ s.now :=
  ⟨poke { bench with now := 20000007, fios := [(11, { retAt := some 7 })] } [(fioPage 11 + 0x40, 0x19)], 11, 7, by decide +kernel⟩
theorem witness_SupplySwitchOver_10 : ∃ (s : State) (site : Nat) (aMv : Nat) (bMv : Nat), s.isField site = true ∧ s.regBit (fioPage site + 0x40) 0 = true ∧ s.regBit (fioPage site + 0x40) 4 = true ∧ 20000 ≤ aMv ∧ 19000 ≤ bMv :=
  ⟨poke bench [(fioPage 11 + 0x40, 0x19)], 11, 20000, 19000, by decide +kernel⟩
theorem witness_FieldSupplyAndMainPower_1 : ∃ (s : State) (site : Nat) (aMv : Nat) (bMv : Nat), s.isField site = true ∧ s.regBit (fioPage site + 0x40) 4 = true ∧ (if s.regBit (fioPage site + 0x40) 0 then bMv else aMv) < 17000 :=
  ⟨bench, 11, 16999, 24000, by decide +kernel⟩
theorem witness_FieldSupplyAndMainPower_2 : ∃ (s : State) (site : Nat) (aMv : Nat) (bMv : Nat), s.isField site = true ∧ s.regBit (fioPage site + 0x40) 4 = false ∧ 17000 ≤ (if s.regBit (fioPage site + 0x40) 0 then bMv else aMv) :=
  ⟨poke bench [(fioPage 11 + 0x40, 0x20)], 11, 17000, 0, by decide +kernel⟩
theorem witness_FieldSupplyAndMainPower_3 : ∃ (s : State), s.regBit (supPage + 0x40) 4 = true :=
  ⟨bench, by decide +kernel⟩
theorem witness_FieldSupplyAndMainPower_4 : ∃ (s : State), s.regBit (supPage + 0x40) 4 = false :=
  ⟨poke bench [(supPage + 0x40, 6)], by decide +kernel⟩
theorem witness_FieldSupplyAndMainPower_5 : ∃ (s : State) (n : Nat), s.sup.pgAt = some n ∧ s.regBit (supPage + 0x40) 4 = true ∧ s.mainOk = false ∧ n + 200000 ≤ s.now ∧ s.boot.recovery = false ∧ s.sup.held = none :=
  ⟨poke { bench with now := 200003, sup := { bench.sup with pgAt := some 3 } } [(supPage + 0x40, 0x16)], 3, by decide +kernel⟩
theorem witness_ResetSourcesReach_2 : ∃ (lowNs : Nat), 1000 ≤ lowNs :=
  ⟨1000, by decide +kernel⟩
theorem witness_ResetSourcesReach_3 : ∃ (lowNs : Nat), lowNs < 100 :=
  ⟨99, by decide +kernel⟩
theorem witness_ResetSourcesReach_4 : ∃ (lowNs : Nat), 100 ≤ lowNs ∧ lowNs < 1000 :=
  ⟨999, by decide +kernel⟩
theorem witness_ResetSourcesReach_5 : ∃ (s : State) (lowNs : Nat), 1000 ≤ lowNs ∧ s.mainOk = true ∧ s.boot.recovery = false :=
  ⟨bench, 1000, by decide +kernel⟩
theorem witness_ResetSourcesReach_6 : ∃ (lowNs : Nat), 1000 ≤ lowNs :=
  ⟨1000, by decide +kernel⟩
theorem witness_ResetSourcesReach_7 : ∃ (s : State) (req : Nat), s.takes 0x03 req 8 2 0x6C = true ∧ (req = 0 ∨ req = 17) :=
  ⟨bench, 17, by decide +kernel⟩
theorem witness_ResetSourcesReach_8 : ∃ (s : State) (req : Nat) (n : Nat), s.takes 0x03 req 8 2 0x6C = true ∧ (req = 0 ∨ req = 17) ∧ s.sup.rstFirst = some (req, n) ∧ s.now ≤ n + 200000 :=
  ⟨{ bench with now := 200001, sup := { bench.sup with rstFirst := some (0, 1) } }, 0, 1, by decide +kernel⟩
theorem witness_ResetSourcesReach_9 : ∃ (s : State) (n : Nat), s.pending = [] ∧ s.sup.held = none ∧ s.sup.rstAt = some n ∧ n + 2000 ≤ s.now :=
  ⟨{ bench with now := 2000, sup := { bench.sup with rstAt := some 0 } }, 0, by decide +kernel⟩
theorem witness_ResetSourcesReach_10 : ∃ (s : State) (req : Nat) (val : Word), s.takes 0x03 req 8 2 0x6C = true ∧ val ≠ 0x52#32 ∧ val ≠ 0xA5#32 :=
  ⟨bench, 0, 0x51#32, by decide +kernel⟩
theorem witness_RegulatorsAndWatchdogs_1 : ∃ (s : State) (rail : Nat), rail < 4 ∧ dieAt s.asm rail = .compute ∧ s.mainOk = true ∧ s.siteUp rail = true :=
  ⟨bench, 3, by decide +kernel⟩
theorem witness_RegulatorsAndWatchdogs_2 : ∃ (s : State) (rail : Nat) (mv : Nat), rail < 4 ∧ dieAt s.asm rail = .compute ∧ s.mainOk = true ∧ s.siteUp rail = true ∧ s.regBit (dpPage rail + 0x94) 5 = false ∧ avsVolts mv = true :=
  ⟨bench, 0, 750, by decide +kernel⟩
theorem witness_RegulatorsAndWatchdogs_3 : ∃ (s : State) (rail : Nat) (mv : Nat), rail < 4 ∧ dieAt s.asm rail = .compute ∧ s.mainOk = true ∧ s.regBit (dpPage rail + 0x94) 5 = false ∧ avsVolts mv = true ∧ tabGet 0 s.gaffer.avsTries rail < 2 :=
  ⟨bench, 0, 750, by decide +kernel⟩
theorem witness_RegulatorsAndWatchdogs_4 : ∃ (s : State) (rail : Nat) (mv : Nat), rail < 4 ∧ dieAt s.asm rail = .compute ∧ s.mainOk = true ∧ s.regBit (dpPage rail + 0x94) 5 = false ∧ avsVolts mv = true ∧ tabGet 0 s.gaffer.avsTries rail = 2 :=
  ⟨{ bench with gaffer := { bench.gaffer with avsTries := [(0, 2)] } }, 0, 750, by decide +kernel⟩
theorem witness_RegulatorsAndWatchdogs_6 : ∃ (s : State) (site : Nat), s.isField site = true :=
  ⟨bench, 11, by decide +kernel⟩
theorem witness_RegulatorsAndWatchdogs_7 : ∃ (s : State) (site : Nat), s.mainDie site = true ∧ s.siteUp site = true ∧ s.mainOk = true :=
  ⟨bench, 2, by decide +kernel⟩
theorem witness_FirmwareBoot_1 : ∃ (s : State), s.bootSt = 0 ∧ s.sup.held = none ∧ s.boot.flOp = 0 ∧ 24 ≤ s.regFld (flashPage + 0x40) 0 8 ∧ s.regFld (flashPage + 0x40) 0 8 ≤ 26 :=
  ⟨State.reset, by decide +kernel⟩
theorem witness_FirmwareBoot_2 : ∃ (s : State), s.bootSt = 0 ∧ s.sup.held = none ∧ s.boot.flOp = 0 :=
  ⟨State.reset, by decide +kernel⟩
theorem witness_FirmwareBoot_3 : ∃ (s : State), s.mainOk = true ∧ (s.bootSt = 2 ∨ s.bootSt = 3) ∧ s.boot.flOp = 0 ∧ s.asm < 4 :=
  ⟨poke bench [(bootPage + 0x40, 2)], by decide +kernel⟩
theorem witness_FirmwareBoot_4 : ∃ (s : State) (fs : Nat) (i : Nat), s.mainOk = true ∧ (s.bootSt = 2 ∨ s.bootSt = 3) ∧ s.boot.flOp = 0 ∧ s.boot.slot.all (fun x => checkBody (s.slotImage x) == 1) = true ∧ i < 16 ∧ siteFitted s.asm / 2 ^ i % 2 = 1 ∧ fs / 2 ^ i % 2 = 1 :=
  ⟨{ poke bench [(bootPage + 0x40, 2)] with boot := { bench.boot with slot := none } }, 1, 0, by decide +kernel⟩
theorem witness_FirmwareBoot_5 : ∃ (s : State) (fn : Nat), s.mainOk = true ∧ ((s.bootSt = 4 ∧ fn < 16) ∨ (s.bootSt = 5 ∧ fn = 0)) :=
  ⟨bench, 15, by decide +kernel⟩
theorem witness_FirmwareBoot_6 : ∃ (s : State) (k : Nat), s.mainOk = true ∧ (s.bootSt = 4 ∨ s.bootSt = 5) ∧ k < 16 :=
  ⟨bench, 15, by decide +kernel⟩
theorem witness_FirmwareBoot_7 : ∃ (s : State), (s.mainOk = false ∨ (s.bootSt ≠ 4 ∧ s.bootSt ≠ 5)) :=
  ⟨State.reset, by decide +kernel⟩
theorem witness_FirmwareBoot_8 : ∃ (s : State) (val : Word), s.takes 0x04 0 8 3 0x64 = true ∧ bitOf val 0 = true ∧ s.bootSt = 5 ∧ s.boot.recovery = false :=
  ⟨poke State.reset [(bootPage + 0x40, 5)], 1#32, by decide +kernel⟩
theorem witness_FirmwareBoot_9 : ∃ (s : State) (val : Word), s.takes 0x04 0 8 3 0x64 = true ∧ bitOf val 0 = true ∧ s.bootSt = 5 ∧ s.boot.recovery = true :=
  ⟨{ poke State.reset [(bootPage + 0x40, 5)] with boot := { State.reset.boot with recovery := true } }, 1#32, by decide +kernel⟩
theorem witness_MailboxFirmwareRequests_1 : ∃ (s : State) (n : Nat), n < 16 ∧ s.ready = true ∧ s.restarting 8 = false ∧ s.regFld (mbPage n + 0x44) 0 2 = 1 ∧ s.regFld (mbPage n + 0x100) 0 16 = 1 ∧ s.regFld (mbPage n + 0x100) 16 16 = 0 :=
  ⟨mbBench 15 1 0 [], 15, by decide +kernel⟩
theorem witness_MailboxFirmwareRequests_2 : ∃ (s : State) (n : Nat), n < 16 ∧ s.mainOk = true ∧ (s.ready = false ∨ s.restarting 8 = true) ∧ s.regFld (mbPage n + 0x44) 0 2 = 1 ∧ s.regFld (mbPage n + 0x100) 0 16 = 1 :=
  ⟨{ mbBench 15 1 0 [] with restarts := [(8, 1)] }, 15, by decide +kernel⟩
theorem witness_MailboxFirmwareRequests_3 : ∃ (s : State) (n : Nat), n < 16 ∧ s.ready = true ∧ s.restarting 8 = false ∧ s.regFld (mbPage n + 0x44) 0 2 = 1 ∧ s.regFld (mbPage n + 0x100) 0 16 = 1 ∧ s.regFld (mbPage n + 0x100) 16 16 ≠ 0 :=
  ⟨mbBench 0 1 1 [], 0, by decide +kernel⟩
theorem witness_MailboxFirmwareRequests_4 : ∃ (s : State), s.ready = true ∧ s.restarting 8 = false ∧ s.isMember = false ∧ s.regFld (mbPage 0 + 0x44) 0 2 = 1 ∧ s.regFld (mbPage 0 + 0x100) 0 16 = 2 ∧ s.regFld (mbPage 0 + 0x100) 16 16 = 0 :=
  ⟨mbBench 0 2 0 [], by decide +kernel⟩
theorem witness_MailboxFirmwareRequests_5 : ∃ (s : State) (n : Nat), n < 16 ∧ s.ready = true ∧ s.restarting 8 = false ∧ s.regFld (mbPage n + 0x44) 0 2 = 1 ∧ s.regFld (mbPage n + 0x100) 0 16 = 2 ∧ s.regFld (mbPage n + 0x100) 16 16 = 0 ∧ (n ≠ 0 ∨ s.isMember = true) :=
  ⟨mbBench 1 2 0 [], 1, by decide +kernel⟩
theorem witness_MailboxFirmwareRequests_6 : ∃ (s : State) (n : Nat) (val : Word), n < 16 ∧ s.takes 0x06 n 8 (0x20 + n) 0x48 = true ∧ bitOf val 0 = true ∧ s.regFld (mbPage n + 0x44) 0 2 = 2 :=
  ⟨poke bench [(mbPage 15 + 0x44, 2)], 15, 1#32, by decide +kernel⟩
theorem witness_FlashCommands_1 : ∃ (s : State) (req : Nat), s.takes 0x05 req 8 4 0x48 = true ∧ (req = 0 ∨ req = 17) ∧ s.regFld (flashPage + 0x4C) 0 2 ≠ 1 :=
  ⟨bench, 0, by decide +kernel⟩
theorem witness_FlashCommands_2 : ∃ (s : State) (req : Nat), s.takes 0x05 req 8 4 0x48 = true ∧ (req = 0 ∨ req = 17) ∧ s.regFld (flashPage + 0x4C) 0 2 ≠ 1 ∧ s.flAddr % 256 = 0 ∧ s.inActive s.flAddr = false :=
  ⟨poke bench [(flashPage + 0x44, 0x100)], 0, by decide +kernel⟩
theorem witness_FlashCommands_3 : ∃ (s : State) (req : Nat), s.takes 0x05 req 8 4 0x48 = true ∧ (req = 0 ∨ req = 17) ∧ s.regFld (flashPage + 0x4C) 0 2 ≠ 1 ∧ s.flAddr % 4096 = 0 ∧ s.inActive s.flAddr = false :=
  ⟨bench, 17, by decide +kernel⟩
theorem witness_FlashCommands_4 : ∃ (s : State) (req : Nat), s.takes 0x05 req 8 4 0x48 = true ∧ (req = 0 ∨ req = 17) ∧ s.regFld (flashPage + 0x4C) 0 2 ≠ 1 ∧ s.flAddr % 65536 = 0 ∧ s.regBit (flashPage + 0x40) 9 = true ∧ s.inActive s.flAddr = false :=
  ⟨bench, 0, by decide +kernel⟩
theorem witness_FlashCommands_5 : ∃ (s : State) (a : Nat), s.boot.flOp = 1 ∧ s.boot.flAddr = a :=
  ⟨{ bench with boot := { bench.boot with flOp := 1, flAddr := 0x103 }, flash := [(0x103, 5#8), (0x202, 6#8)] }, 0x103, by decide +kernel⟩
theorem witness_FlashCommands_6 : ∃ (s : State) (us : Nat) (a : Nat), s.boot.flOp = 2 ∧ s.boot.flAddr = a ∧ us ≤ 3000 :=
  ⟨{ poke bench [(flashPage + 0x100, 0x1234), (flashPage + 0x1FC, 0x5678)] with boot := { bench.boot with flOp := 2, flAddr := 0x100 } }, 3000, 0x100, by decide +kernel⟩
theorem witness_FlashCommands_7 : ∃ (s : State) (us : Nat) (a : Nat) (op : Nat) (n : Nat), ((op = 3 ∧ n = 4096) ∨ (op = 4 ∧ n = 65536)) ∧ s.boot.flOp = op ∧ s.boot.flAddr = a ∧ us ≤ min 2000000 (Config.eraseMaxUs (op - 3)) :=
  ⟨{ bench with boot := { bench.boot with flOp := 3, flAddr := 0x1000 }, flash := [(0x1003, 5#8)] }, 0, 0x1000, 3, 4096, by decide, rfl, rfl, Nat.zero_le _⟩
theorem witness_FlashCommands_8 : ∃ (s : State) (err : Nat) (us : Nat) (a : Nat), s.boot.flOp = 2 ∧ s.boot.flAddr = a ∧ (err ≠ 0 ∨ 3000 < us) :=
  ⟨{ bench with boot := { bench.boot with flOp := 2, flAddr := 0x100 } }, 0, 3001, 0x100, by decide +kernel⟩
theorem witness_FlashCommands_9 : ∃ (s : State) (req : Nat), s.sup.held = none ∧ s.bar0 req 8 4 = true ∧ s.typeAt 8 4 = 0x05 ∧ s.present 8 4 = true ∧ req ≠ 0 ∧ req ≠ 17 :=
  ⟨bench, 16, by decide +kernel⟩
theorem witness_LinkAndFunctionResets_1 : ∃ (s : State), s.mainOk = true :=
  ⟨bench, by decide +kernel⟩
theorem witness_LinkAndFunctionResets_2 : ∃ (s : State) (width : Nat) (rate : Nat), s.mainOk = true ∧ width < 32 ∧ rate < 8 :=
  ⟨bench, 16, 7, by decide +kernel⟩
theorem witness_LinkAndFunctionResets_3 : ∃ (s : State), s.mainOk = true :=
  ⟨bench, by decide +kernel⟩
theorem witness_LinkAndFunctionResets_4 : ∃ (s : State), s.mainOk = true :=
  ⟨poke bench [(pg 8 6 + 0x40, 0xFFFE0090)], by decide +kernel⟩
theorem witness_LinkAndFunctionResets_5 : ∃ (s : State) (fn : Nat), s.mainOk = true ∧ 0 < fn ∧ fn < 16 :=
  ⟨bench, 15, by decide +kernel⟩
theorem witness_TakeQueueFetch_1 : ∃ (s : State) (n : Nat) (q : Nat) (val : Word), n < 16 ∧ q < 8 ∧ s.takes 0x08 n 8 (0x100 + 8 * n + q) 0x54 = true ∧ cntSub val.toNat (s.reg (tqPage n q + 0x60)).toNat ≤ s.tqSize n q ∧ cntSub val.toNat (s.reg (tqPage n q + 0x54)).toNat ≤ s.tqSize n q :=
  ⟨poke bench [(tqPage 0 1 + 0xC, 2), (tqPage 0 1 + 0x54, 1), (tqPage 0 1 + 0x50, 4)], 0, 1, 16#32, by decide +kernel⟩
theorem witness_TakeQueueFetch_2 : ∃ (s : State) (n : Nat) (q : Nat) (val : Word), n < 16 ∧ q < 8 ∧ s.takes 0x08 n 8 (0x100 + 8 * n + q) 0x54 = true ∧ s.tqSize n q < cntSub val.toNat (s.reg (tqPage n q + 0x60)).toNat :=
  ⟨poke bench [(tqPage 0 1 + 0xC, 2), (tqPage 0 1 + 0x54, 1), (tqPage 0 1 + 0x50, 4)], 0, 1, 17#32, by decide +kernel⟩
theorem witness_TakeQueueFetch_3 : ∃ (s : State) (n : Nat) (q : Nat) (val : Word), n < 16 ∧ q < 8 ∧ s.takes 0x08 n 8 (0x100 + 8 * n + q) 0x54 = true ∧ cntSub val.toNat (s.reg (tqPage n q + 0x60)).toNat ≤ s.tqSize n q ∧ s.tqSize n q < cntSub val.toNat (s.reg (tqPage n q + 0x54)).toNat :=
  ⟨poke bench [(tqPage 0 1 + 0xC, 2), (tqPage 0 1 + 0x54, 1), (tqPage 0 1 + 0x50, 4)], 0, 1, 0#32, by decide +kernel⟩
theorem witness_TakeQueueFetch_4 : ∃ (s : State) (n : Nat) (q : Nat) (est : Nat) (d : List Byte) (x : Slate), let e := entryOf d; s.fetches n q = true ∧ leAt d 0 1 ≠ 2 ∧ s.takeRefusal n d = none ∧ s.slate e.slate = some x ∧ est = (if e.flags / 4 % 2 = 1 then max (s.tq n q).est (s.us * 1600) + declaredCycles x.cont e.dyn else max (s.tq n q).est (s.us * 1600 + declaredCycles x.cont e.dyn)) ∧ (e.flags / 2 % 2 = 0 ∨ est ≤ e.deadline * 1600) :=
  ⟨{ (poke bench [(tqPage 0 1 + 0xC, 2), (tqPage 0 1 + 0x54, 1), (tqPage 0 1 + 0x50, 4)]) with slates := [(7, { handle := 7 })] }, 0, 1, 0, [1#8, 2#8, 0#8, 0#8, 7#8], { handle := 7 }, by decide +kernel⟩
theorem witness_TakeQueueFetch_5 : ∃ (s : State) (n : Nat) (q : Nat) (d : List Byte) (x : Slate), let e := entryOf d; s.fetches n q = true ∧ leAt d 0 1 ≠ 2 ∧ s.takeRefusal n d = none ∧ s.slate e.slate = some x ∧ e.deadline * 1600 < (if e.flags / 4 % 2 = 1 then max (s.tq n q).est (s.us * 1600) + declaredCycles x.cont e.dyn else max (s.tq n q).est (s.us * 1600 + declaredCycles x.cont e.dyn)) ∧ e.flags / 2 % 2 = 1 :=
  ⟨{ (poke bench [(tqPage 0 1 + 0xC, 2), (tqPage 0 1 + 0x54, 1), (tqPage 0 1 + 0x50, 4)]) with slates := [(7, { handle := 7 })], tqs := [(1, { est := 1 })] }, 0, 1, [1#8, 2#8, 0#8, 0#8, 7#8], { handle := 7 }, by decide +kernel⟩
theorem witness_TakeQueueFetch_6 : ∃ (s : State) (n : Nat) (q : Nat) (st : Nat) (d : List Byte), s.fetches n q = true ∧ leAt d 0 1 ≠ 2 ∧ s.takeRefusal n d = some st :=
  ⟨poke bench [(tqPage 0 1 + 0xC, 2), (tqPage 0 1 + 0x54, 1), (tqPage 0 1 + 0x50, 4)], 0, 1, 0x0102, [1#8, 0#8, 0#8, 0#8, 7#8], by decide +kernel⟩
theorem witness_TakeQueueFetch_7 : ∃ (s : State) (n : Nat) (q : Nat) (d : List Byte), let e := entryOf d; s.fetches n q = true ∧ leAt d 0 1 = 2 ∧ e.flags / 8 = 0 ∧ ((d.drop 2).take 6 ++ (d.drop 16).take 48).any (fun b => b != 0#8) = false :=
  ⟨poke bench [(tqPage 0 1 + 0xC, 2), (tqPage 0 1 + 0x54, 1), (tqPage 0 1 + 0x50, 4)], 0, 1, [2#8, 1#8], by decide +kernel⟩
theorem witness_TakeQueueFetch_8 : ∃ (s : State) (n : Nat) (q : Nat) (d : List Byte), let e := entryOf d; s.fetches n q = true ∧ leAt d 0 1 = 2 ∧ (e.flags / 8 ≠ 0 ∨ ((d.drop 2).take 6 ++ (d.drop 16).take 48).any (fun b => b != 0#8) = true) :=
  ⟨poke bench [(tqPage 0 1 + 0xC, 2), (tqPage 0 1 + 0x54, 1), (tqPage 0 1 + 0x50, 4)], 0, 1, [2#8, 8#8], by decide +kernel⟩
theorem witness_TakesStartEndAndAreRecorded_1 : ∃ (s : State) (n : Nat) (q : Nat) (cost : Nat) (e : Entry) (cores : List (Nat × Nat × Nat)) (x : Slate), s.mainOk = true ∧ s.ready = true ∧ s.candidates = [(n, q, e, some cores, cost)] ∧ 0 < s.weight n ∧ cost ≤ s.credit n ∧ s.sched.passed = none ∧ s.fits e (some cores) = true ∧ s.slate e.slate = some x :=
  ⟨({ (poke bench [(tqPage 0 1 + 0xC, 2), (tqPage 0 1 + 0x54, 1), (tqPage 0 1 + 0x50, 4)]) with slates := [(7, { handle := 7, groups := [{}] })], tqs := [(1, { entries := [{ n := 0, slate := 7 }] })], sched := { credit := [(0, 9)] } } : State) |> fun s => poke s [(gafPage + 0x40, 100), (tqPage 0 0 + 0x70, 1)], 0, 1, 0, { n := 0, slate := 7 }, [], { handle := 7, groups := [{}] }, by decide +kernel, by decide +kernel, rfl, by decide +kernel, by decide +kernel, by decide +kernel, by decide +kernel, by decide +kernel⟩
theorem witness_TakesStartEndAndAreRecorded_2 : ∃ (s : State) (n : Nat) (q : Nat) (idx : Nat) (e : Entry), (s.tq n q).entries.find? (fun e => e.n % s.tqSize n q == idx && e.st == 1) = some e ∧ s.findEntry n q e.n = some e ∧ (e.cores.all (fun c => (s.core c.2.1 c.2.2).phase == 3 && (List.range 4).all (fun k => (s.dq c.2.1 c.2.2 k).descs.isEmpty))) = true :=
  ⟨{ (poke bench [(tqPage 0 1 + 0xC, 2), (tqPage 0 1 + 0x54, 1), (tqPage 0 1 + 0x50, 4)]) with tqs := [(1, { entries := [{ n := 16, slate := 7, st := 1, cores := [(0, 2, 5)] }] })], cores := [(2 * 256 + 5, { phase := 3 })] }, 0, 1, 0, { n := 16, slate := 7, st := 1, cores := [(0, 2, 5)] }, by decide +kernel⟩
theorem witness_TakesStartEndAndAreRecorded_3 : ∃ (s : State) (m : State) (n : Nat) (q : Nat) (a : Nat) (e : Entry) (es : List Entry), n < 16 ∧ q < 8 ∧ s.mainOk = true ∧ s.mute = false ∧ s.st (tqPage n q) ≠ 0 ∧ (s.tq n q).entries = e :: es ∧ e.st = 3 ∧ a = s.wide (tqPage n q + 0x48) + (s.reg (tqPage n q + 0x5C)).toNat % s.tqSize n q * 32 ∧ s.taWrite n .host a (s.complRec n q e) = (m, none) :=
  ⟨{ poke mapBench [(tqPage 0 7 + 0xC, 3), (tqPage 0 7 + 0x48, 0x8000), (tqPage 0 7 + 0x50, 4)] with tqs := [(7, { entries := [{ n := 2, st := 3, status := 5 }] })] }, (State.taWrite { poke mapBench [(tqPage 0 7 + 0xC, 3), (tqPage 0 7 + 0x48, 0x8000), (tqPage 0 7 + 0x50, 4)] with tqs := [(7, { entries := [{ n := 2, st := 3, status := 5 }] })] } 0 .host 0x8000 (State.complRec { poke mapBench [(tqPage 0 7 + 0xC, 3), (tqPage 0 7 + 0x48, 0x8000), (tqPage 0 7 + 0x50, 4)] with tqs := [(7, { entries := [{ n := 2, st := 3, status := 5 }] })] } 0 7 { n := 2, st := 3, status := 5 })).1, 0, 7, 0x8000, { n := 2, st := 3, status := 5 }, [], by decide +kernel⟩
theorem witness_TakesStartEndAndAreRecorded_4 : ∃ (s : State) (n : Nat) (q : Nat) (f : Nat) (d : Nat), n < 16 ∧ q < 8 ∧ (s.tq n q).firstAt = some f ∧ s.regFld (tqPage n q + 0x64) 16 16 = d ∧ d ≠ 0 ∧ f + d * 200 ≤ s.now ∧ s.mainOk = true ∧ s.regBit (tqPage n q + 0x14) 0 = true :=
  ⟨{ (poke bench [(tqPage 0 1 + 0xC, 2), (tqPage 0 1 + 0x54, 1), (tqPage 0 1 + 0x50, 4)]) with now := 200, tqs := [(1, { since := 3, firstAt := some 0 })] } |> fun s => poke s [(tqPage 0 1 + 0x64, 0x10000), (tqPage 0 1 + 0x14, 1)], 0, 1, 0, 1, by decide +kernel⟩
theorem witness_TakesStartEndAndAreRecorded_5 : ∃ (s : State) (k : Nat) (f : Nat) (d : Nat), s.ringRuns k = true ∧ k ≤ 32 ∧ (s.ring k).firstAt = some f ∧ s.regFld (drPage k + 0x70) 16 16 = d ∧ d ≠ 0 ∧ f + d * 200 ≤ s.now ∧ s.regBit (drPage k + 0x14) 0 = true ∧ bitOf (s.bar2Reg (bar2At (s.drOwner k) ((32 + k) * 16 + 12))) 0 = false :=
  ⟨poke { bench with now := 200, rings := [(32, { since := 3, firstAt := some 0 })], bar2 := [(bar2At 0 (64 * 16 + 12), 0#32)] } [(drPage 32 + 0xC, 2), (drPage 32 + 0x70, 0x10000), (drPage 32 + 0x14, 1)], 32, 0, 1, by decide +kernel⟩
theorem witness_TakesStartEndAndAreRecorded_6 : ∃ (s : State) (n : Nat) (q : Nat) (left : Nat) (val : Word), n < 16 ∧ q < 8 ∧ s.takes 0x08 n 8 (0x100 + 8 * n + q) 0x6C = true ∧ bitOf val 0 = true ∧ left = min (cntSub (s.reg (tqPage n q + 0x54)).toNat (s.reg (tqPage n q + 0x58)).toNat) (s.tqSize n q) :=
  ⟨{ poke bench [(tqPage 0 1 + 0xC, 2), (tqPage 0 1 + 0x54, 2), (tqPage 0 1 + 0x50, 4)] with tqs := [(1, { entries := [{ n := 0, tag := 9, st := 3, status := 0x102 }, { n := 1, tag := 8, st := 1, cores := [(0, 2, 5)] }] })] }, 0, 1, 2, 1#32, by decide +kernel⟩
theorem witness_DailiesWriterAndExport_1 : ∃ (s : State) (m : State) (d : Nat) (tail : Nat) (b : List Byte), s.ringRuns d = true ∧ s.drNet d = false ∧ (s.ring d).queue = [{ body := b }] ∧ b.length = 64 ∧ (s.reg (drPage d + 0x60)).toNat = tail ∧ 1 ≤ s.recFree d ∧ 64 ≤ s.recBytes d ∧ s.taWrite (s.drOwner d) .ringHost (s.wide (drPage d + 0x48) + tail % (s.recBytes d / 64) * 64) (patch b 4 (leBytes 4 (s.ring d).seq)) = (m, none) :=
  ⟨{ poke mapBench [(drPage 32 + 0xC, 2), (drPage 32 + 0x48, 0x9000), (drPage 32 + 0x50, 12)] with rings := [(32, { queue := [{ body := List.replicate 64 3#8 }], seq := 5 })] }, (State.taWrite { poke mapBench [(drPage 32 + 0xC, 2), (drPage 32 + 0x48, 0x9000), (drPage 32 + 0x50, 12)] with rings := [(32, { queue := [{ body := List.replicate 64 3#8 }], seq := 5 })] } 0 .ringHost 0x9000 (patch (List.replicate 64 3#8) 4 (leBytes 4 5))).1, 32, 0, List.replicate 64 3#8, by decide +kernel⟩
theorem witness_DailiesWriterAndExport_2 : ∃ (s : State) (d : Nat) (n : Nat) (b : List Byte), let x := s.ring d; s.ringRuns d = true ∧ s.drNet d = true ∧ n = min (s.exportMax d) (min (x.total - x.sentTo) (x.acked + x.window - x.sentTo)) ∧ 0 < n ∧ s.readParts d (x.spans.flatMap (fun y => y.parts)) (x.sentTo - x.oldest) n = (b, none) :=
  ⟨{ poke mapBench [(drPage 32 + 0xC, 2), (drPage 32 + 0x44, 1)] with rings := [(32, { total := 64, spans := [{ stop := 64, parts := [(0x8000, 64)] }], window := 40, psn := 9 })] }, 32, 40, List.replicate 40 0#8, by decide +kernel⟩
theorem witness_DailiesWriterAndExport_3 : ∃ (s : State) (d : Nat) (a : Nat) (f : Nat × Nat × Nat) (fs : List (Nat × Nat × Nat)) (y : Span), s.ringRuns d = true ∧ s.drNet d = true ∧ (s.ring d).sent = f :: fs ∧ f.1 < 2 ^ 32 ∧ a = (fs.head?.map (fun g => g.2.1)).getD (s.ring d).sentTo ∧ (s.ring d).spans = [y] :=
  ⟨{ poke bench [(drPage 3 + 0xC, 2), (drPage 3 + 0x44, 1)] with rings := [(3, { total := 20, spans := [{ stop := 20, parts := [(0x8000, 20)], recTo := 7 }], sent := [(0xFFFFFFFF, 0, 20)], sentTo := 20, psn := 0, resends := 63 })] }, 3, 20, (0xFFFFFFFF, 0, 20), [], { stop := 20, parts := [(0x8000, 20)], recTo := 7 }, by decide +kernel⟩
theorem witness_DailiesWriterAndExport_4 : ∃ (s : State) (d : Nat), let x := s.ring d; s.ringRuns d = true ∧ s.drNet d = true ∧ x.sent ≠ [] ∧ x.progress + 200000 ≤ s.now ∧ x.resends < 64 ∧ x.sent.all (fun f => (s.readParts d (x.spans.flatMap (fun y => y.parts)) (f.2.1 - x.oldest) f.2.2).2.isNone) = true :=
  ⟨{ poke mapBench [(drPage 32 + 0xC, 2), (drPage 32 + 0x44, 1)] with now := 200000, rings := [(32, { total := 20, spans := [{ stop := 20, parts := [(0x8000, 20)], recTo := 7 }], sent := [(0, 0, 10), (1, 10, 10)], sentTo := 20, psn := 2, resends := 63 })] }, 32, by decide +kernel⟩
theorem witness_DailiesWriterAndExport_5 : ∃ (s : State) (d : Nat), s.ringRuns d = true ∧ s.drNet d = true ∧ (s.ring d).sent ≠ [] ∧ (s.ring d).progress + 200000 ≤ s.now ∧ 64 ≤ (s.ring d).resends :=
  ⟨{ poke bench [(drPage 3 + 0xC, 2), (drPage 3 + 0x44, 1)] with now := 200000, rings := [(3, { sent := [(0, 0, 1)], resends := 64 })] }, 3, by decide +kernel⟩
theorem witness_ElementwiseVectorOpsWriteTheirRows_1 : ∃ (s : State) (site : Nat) (core : Nat) (w : Work) (y : Slate) (ps : List (Nat × Nat)), let o := s.presentOp site core y; let rb := runBytes o.fw (if o.k = 2 then 1 else o.n); let sb := if o.k = 1 then 0 else if o.k = 2 then rb else o.sa * fmtBits o.fw / fmtBits o.fa; s.atOp site core 0x10 w y = true ∧ (!o.resv && decide (o.fa ≤ 7) && decide (o.fo ≤ 7) && decide (o.sub ≤ 4) && decide (o.fw ≤ 7) && decide (o.k ≤ 2)) = true ∧ s.operandsAt site core y.cont (vecOps o (span o.m (runBytes o.fa o.n) o.sa) (span o.m rb sb) (0) (span o.m (runBytes o.fo o.n) o.so)) ps = true :=
  ⟨opBench [opRec [(0, 1, 0x10), (1, 1, 0), (2, 2, 0), (8, 4, 2), (12, 4, 3), (16, 4, 2), (0x14, 4, 0x100), (0x18, 4, 0x200), (0x1C, 4, 0x1300), (0x20, 4, 0x400), (0x24, 4, 64), (0x28, 4, 64)]] [], 0, 5, .stage 7, opSlate [opRec [(0, 1, 0x10), (1, 1, 0), (2, 2, 0), (8, 4, 2), (12, 4, 3), (16, 4, 2), (0x14, 4, 0x100), (0x18, 4, 0x200), (0x1C, 4, 0x1300), (0x20, 4, 0x400), (0x24, 4, 64), (0x28, 4, 64)]] [], [(69, 0x100), (69, 0x200), (0, 0), (69, 0x1300)], by decide +kernel⟩
theorem witness_ElementwiseVectorOpsWriteTheirRows_2 : ∃ (s : State) (site : Nat) (core : Nat) (w : Work) (y : Slate) (ps : List (Nat × Nat)), let o := s.presentOp site core y; s.atOp site core 0x11 w y = true ∧ (!o.resv && decide (o.fa ≤ 7) && decide (o.fo ≤ 7) && decide (o.sub ≤ 7)) = true ∧ s.operandsAt site core y.cont (vecOps o (span o.m (runBytes o.fa o.n) o.sa) (0) (0) (span o.m (runBytes o.fo o.n) o.so)) ps = true :=
  ⟨opBench [opRec [(0, 1, 0x11), (1, 1, 0), (2, 2, 256), (8, 4, 2), (12, 4, 3), (16, 4, 0), (0x14, 4, 0x100), (0x18, 4, 0x200), (0x1C, 4, 0x1300), (0x20, 4, 0x400), (0x24, 4, 64), (0x28, 4, 64)]] [], 0, 5, .stage 7, opSlate [opRec [(0, 1, 0x11), (1, 1, 0), (2, 2, 256), (8, 4, 2), (12, 4, 3), (16, 4, 0), (0x14, 4, 0x100), (0x18, 4, 0x200), (0x1C, 4, 0x1300), (0x20, 4, 0x400), (0x24, 4, 64), (0x28, 4, 64)]] [], [(69, 0x100), (0, 0), (0, 0), (69, 0x1300)], by decide +kernel⟩
theorem witness_ElementwiseVectorOpsWriteTheirRows_3 : ∃ (s : State) (site : Nat) (core : Nat) (w : Work) (y : Slate) (ps : List (Nat × Nat)), let o := s.presentOp site core y; s.atOp site core 0x12 w y = true ∧ (!o.resv && decide (o.fa ≤ 7) && decide (o.fo ≤ 7) && o.sub == 0) = true ∧ s.operandsAt site core y.cont (vecOps o (span o.m (runBytes o.fa o.n) o.sa) (0) (if o.fa = 7 ∧ o.fo = 0 then paramLen o o.n else 0) (span o.m (runBytes o.fo o.n) o.so)) ps = true :=
  ⟨opBench [opRec [(0, 1, 0x12), (1, 1, 0), (2, 2, 1792), (8, 4, 2), (12, 4, 3), (16, 4, 0), (0x14, 4, 0x100), (0x18, 4, 0x200), (0x1C, 4, 0x1300), (0x20, 4, 0x400), (0x24, 4, 64), (0x28, 4, 64)]] [], 0, 5, .stage 7, opSlate [opRec [(0, 1, 0x12), (1, 1, 0), (2, 2, 1792), (8, 4, 2), (12, 4, 3), (16, 4, 0), (0x14, 4, 0x100), (0x18, 4, 0x200), (0x1C, 4, 0x1300), (0x20, 4, 0x400), (0x24, 4, 64), (0x28, 4, 64)]] [], [(69, 0x100), (0, 0), (0, 0), (69, 0x1300)], by decide +kernel⟩
theorem witness_ElementwiseVectorOpsWriteTheirRows_4 : ∃ (s : State) (site : Nat) (core : Nat) (w : Work) (y : Slate) (ps : List (Nat × Nat)), let o := s.presentOp site core y; s.atOp site core 0x15 w y = true ∧ (!o.resv && decide (o.fa ≤ 7) && decide (o.fo ≤ 7) && decide (o.sub ≤ 2)) = true ∧ s.operandsAt site core y.cont (vecOps o (span o.m (runBytes o.fa o.n) o.sa) (0) (0) (span o.m (runBytes o.fo 1) o.so)) ps = true :=
  ⟨opBench [opRec [(0, 1, 0x15), (1, 1, 1), (2, 2, 1792), (8, 4, 2), (12, 4, 3), (16, 4, 0), (0x14, 4, 0x100), (0x18, 4, 0x200), (0x1C, 4, 0x1300), (0x20, 4, 0x400), (0x24, 4, 64), (0x28, 4, 64)]] [], 0, 5, .stage 7, opSlate [opRec [(0, 1, 0x15), (1, 1, 1), (2, 2, 1792), (8, 4, 2), (12, 4, 3), (16, 4, 0), (0x14, 4, 0x100), (0x18, 4, 0x200), (0x1C, 4, 0x1300), (0x20, 4, 0x400), (0x24, 4, 64), (0x28, 4, 64)]] [], [(69, 0x100), (0, 0), (0, 0), (69, 0x1300)], by decide +kernel⟩
theorem witness_ElementwiseVectorOpsWriteTheirRows_5 : ∃ (s : State) (site : Nat) (core : Nat) (w : Work) (y : Slate) (ps : List (Nat × Nat)), let o := s.presentOp site core y; s.atOp site core 0x13 w y = true ∧ (!o.resv && decide (o.fa ≤ 7) && decide (o.fo ≤ 7) && decide (o.sub ≤ 1)) = true ∧ s.operandsAt site core y.cont (vecOps o (span o.m (runBytes o.fa o.n) o.sa) (0) (8 * o.n) (span o.m (runBytes o.fo o.n) o.so)) ps = true :=
  ⟨opBench [opRec [(0, 1, 0x13), (1, 1, 0), (2, 2, 1542), (8, 4, 2), (12, 4, 3), (16, 4, 0), (0x14, 4, 0x100), (0x18, 4, 0x200), (0x1C, 4, 0x1300), (0x20, 4, 0x400), (0x24, 4, 64), (0x28, 4, 64)]] [], 0, 5, .stage 7, opSlate [opRec [(0, 1, 0x13), (1, 1, 0), (2, 2, 1542), (8, 4, 2), (12, 4, 3), (16, 4, 0), (0x14, 4, 0x100), (0x18, 4, 0x200), (0x1C, 4, 0x1300), (0x20, 4, 0x400), (0x24, 4, 64), (0x28, 4, 64)]] [], [(69, 0x100), (0, 0), (69, 0x400), (69, 0x1300)], by decide +kernel⟩
theorem witness_ElementwiseVectorOpsWriteTheirRows_6 : ∃ (s : State) (site : Nat) (core : Nat) (w : Work) (y : Slate) (ps : List (Nat × Nat)), let o := s.presentOp site core y; s.atOp site core 0x14 w y = true ∧ (!o.resv && decide (o.fa ≤ 7) && decide (o.fo ≤ 7) && o.sub == 0) = true ∧ s.operandsAt site core y.cont (vecOps o (span o.m (runBytes o.fa o.n) o.sa) (0) (0) (span o.m (runBytes o.fo o.n) o.so)) ps = true :=
  ⟨opBench [opRec [(0, 1, 0x14), (1, 1, 0), (2, 2, 1540), (8, 4, 2), (12, 4, 3), (16, 4, 0), (0x14, 4, 0x100), (0x18, 4, 0x200), (0x1C, 4, 0x1300), (0x20, 4, 0x400), (0x24, 4, 64), (0x28, 4, 64), (4, 2, 4)]] [], 0, 5, .stage 7, opSlate [opRec [(0, 1, 0x14), (1, 1, 0), (2, 2, 1540), (8, 4, 2), (12, 4, 3), (16, 4, 0), (0x14, 4, 0x100), (0x18, 4, 0x200), (0x1C, 4, 0x1300), (0x20, 4, 0x400), (0x24, 4, 64), (0x28, 4, 64), (4, 2, 4)]] [], [(69, 0x100), (0, 0), (0, 0), (69, 0x1300)], by decide +kernel⟩
theorem witness_ShapedVectorOpsWriteTheirRows_1 : ∃ (s : State) (site : Nat) (core : Nat) (w : Work) (y : Slate) (ps : List (Nat × Nat)), let o := s.presentOp site core y; s.atOp site core 0x18 w y = true ∧ (!o.resv && decide (o.fa ≤ 7) && decide (o.fo ≤ 7) && o.sub == 0) = true ∧ s.operandsAt site core y.cont (vecOps o (span o.m (runBytes o.fa o.n) o.sa) (0) (0) (span o.n (runBytes o.fo o.m) o.so)) ps = true :=
  ⟨opBench [opRec [(0, 1, 0x18), (1, 1, 0), (2, 2, 0), (8, 4, 2), (12, 4, 3), (16, 4, 0), (0x14, 4, 0x100), (0x18, 4, 0x200), (0x1C, 4, 0x1300), (0x20, 4, 0x400), (0x24, 4, 64), (0x28, 4, 64)]] [], 0, 5, .stage 7, opSlate [opRec [(0, 1, 0x18), (1, 1, 0), (2, 2, 0), (8, 4, 2), (12, 4, 3), (16, 4, 0), (0x14, 4, 0x100), (0x18, 4, 0x200), (0x1C, 4, 0x1300), (0x20, 4, 0x400), (0x24, 4, 64), (0x28, 4, 64)]] [], [(69, 0x100), (0, 0), (0, 0), (69, 0x1300)], by decide +kernel⟩
theorem witness_ShapedVectorOpsWriteTheirRows_2 : ∃ (s : State) (site : Nat) (core : Nat) (w : Work) (y : Slate) (ps : List (Nat × Nat)), let o := s.presentOp site core y; let ph := o.geom.getD 6 0; let pw := o.geom.getD 7 0; s.atOp site core 0x1A w y = true ∧ (!o.resv && decide (o.fa ≤ 7) && decide (o.fo ≤ 7) && o.sub == 0) = true ∧ s.operandsAt site core y.cont (vecOps o (span o.m (runBytes o.fa o.n) o.sa) (0) (0) (span (o.m + 2 * ph) (runBytes o.fo (o.n + 2 * pw)) o.so)) ps = true :=
  ⟨opBench [opRec [(0, 1, 0x1A), (1, 1, 0), (2, 2, 0), (8, 4, 2), (12, 4, 3), (16, 4, 0), (0x14, 4, 0x100), (0x18, 4, 0x200), (0x1C, 4, 0x1300), (0x20, 4, 0x400), (0x24, 4, 64), (0x28, 4, 64), (0x32, 1, 1), (0x33, 1, 2), (0x38, 4, 7)]] [], 0, 5, .stage 7, opSlate [opRec [(0, 1, 0x1A), (1, 1, 0), (2, 2, 0), (8, 4, 2), (12, 4, 3), (16, 4, 0), (0x14, 4, 0x100), (0x18, 4, 0x200), (0x1C, 4, 0x1300), (0x20, 4, 0x400), (0x24, 4, 64), (0x28, 4, 64), (0x32, 1, 1), (0x33, 1, 2), (0x38, 4, 7)]] [], [(69, 0x100), (0, 0), (0, 0), (69, 0x1300)], by decide +kernel⟩
theorem witness_ShapedVectorOpsWriteTheirRows_3 : ∃ (s : State) (site : Nat) (core : Nat) (w : Work) (y : Slate) (sp : Nat) (at_ : Nat) (room : Nat) (ps : List (Nat × Nat)), let o := s.presentOp site core y; s.atOp site core 0x19 w y = true ∧ (!o.resv && decide (o.fa ≤ 7) && decide (o.fo ≤ 7) && o.sub == 0) = true ∧ s.place site core y.cont o.w false = .at_ sp at_ room ∧ s.operandsAt site core y.cont (vecOps o ((((List.range o.m).map (fun r => s.elem 7 (sp, at_) 0 r)).foldl max 0) * o.sa + runBytes o.fa o.n) (4 * o.m) (0) (span o.m (runBytes o.fo o.n) o.so)) ps = true :=
  ⟨opBench [opRec [(0, 1, 0x19), (1, 1, 0), (2, 2, 0), (8, 4, 2), (12, 4, 3), (16, 4, 0), (0x14, 4, 0x100), (0x18, 4, 0x200), (0x1C, 4, 0x1300), (0x20, 4, 0x400), (0x24, 4, 64), (0x28, 4, 64)]] [], 0, 5, .stage 7, opSlate [opRec [(0, 1, 0x19), (1, 1, 0), (2, 2, 0), (8, 4, 2), (12, 4, 3), (16, 4, 0), (0x14, 4, 0x100), (0x18, 4, 0x200), (0x1C, 4, 0x1300), (0x20, 4, 0x400), (0x24, 4, 64), (0x28, 4, 64)]] [], 69, 0x200, 0xFE00, [(69, 0x100), (69, 0x200), (0, 0), (69, 0x1300)], by decide +kernel⟩
theorem witness_ShapedVectorOpsWriteTheirRows_4 : ∃ (s : State) (site : Nat) (core : Nat) (w : Work) (y : Slate) (ps : List (Nat × Nat)), let o := s.presentOp site core y; let v := winOf o; s.atOp site core 0x16 w y = true ∧ (!o.resv && decide (o.fa ≤ 7) && decide (o.fo ≤ 7) && decide (o.sub ≤ 1) && winOk v 8 8) = true ∧ s.operandsAt site core y.cont (vecOps o (span v.h (runBytes o.fa (v.w * o.n)) o.sa) (0) (0) (span (cdiv o.m (max 1 v.wo)) (runBytes o.fo (v.wo * o.n)) o.so)) ps = true :=
  ⟨opBench [opRec [(0, 1, 0x16), (1, 1, 0), (2, 2, 0), (8, 4, 4), (12, 4, 1), (16, 4, 0), (0x14, 4, 0x100), (0x18, 4, 0x200), (0x1C, 4, 0x1300), (0x20, 4, 0x400), (0x24, 4, 64), (0x28, 4, 64), (0x24, 4, 4), (0x28, 4, 2), (0x2C, 4, 0x01010202)]] [], 0, 5, .stage 7, opSlate [opRec [(0, 1, 0x16), (1, 1, 0), (2, 2, 0), (8, 4, 4), (12, 4, 1), (16, 4, 0), (0x14, 4, 0x100), (0x18, 4, 0x200), (0x1C, 4, 0x1300), (0x20, 4, 0x400), (0x24, 4, 64), (0x28, 4, 64), (0x24, 4, 4), (0x28, 4, 2), (0x2C, 4, 0x01010202)]] [], [(69, 0x100), (0, 0), (0, 0), (69, 0x1300)], by decide +kernel⟩
theorem witness_ShapedVectorOpsWriteTheirRows_5 : ∃ (s : State) (site : Nat) (core : Nat) (w : Work) (y : Slate) (ps : List (Nat × Nat)), let o := s.presentOp site core y; let v := winOf o; s.atOp site core 0x17 w y = true ∧ (!o.resv && decide (o.fa ≤ 7) && decide (o.fo ≤ 7) && o.sub == 0 && decide (o.fw ≤ 7) && winOk v 7 4) = true ∧ s.operandsAt site core y.cont (vecOps o (span v.h (runBytes o.fa (v.w * o.n)) o.sa) (runBytes o.fw (v.kh * v.kw * o.n)) (if o.bias then 4 * o.n else 0) (span (cdiv o.m (max 1 v.wo)) (runBytes o.fo (v.wo * o.n)) o.so)) ps = true :=
  ⟨opBench [opRec [(0, 1, 0x17), (1, 1, 0), (2, 2, 0), (8, 4, 4), (12, 4, 1), (16, 4, 0), (0x14, 4, 0x100), (0x18, 4, 0x200), (0x1C, 4, 0x1300), (0x20, 4, 0x400), (0x24, 4, 64), (0x28, 4, 64), (0x24, 4, 4), (0x28, 4, 2), (0x2C, 4, 0x01010202)]] [], 0, 5, .stage 7, opSlate [opRec [(0, 1, 0x17), (1, 1, 0), (2, 2, 0), (8, 4, 4), (12, 4, 1), (16, 4, 0), (0x14, 4, 0x100), (0x18, 4, 0x200), (0x1C, 4, 0x1300), (0x20, 4, 0x400), (0x24, 4, 64), (0x28, 4, 64), (0x24, 4, 4), (0x28, 4, 2), (0x2C, 4, 0x01010202)]] [], [(69, 0x100), (69, 0x200), (0, 0), (69, 0x1300)], by decide +kernel⟩
theorem witness_ArrayOpsWriteRequantisedProducts_1 : ∃ (s : State) (site : Nat) (core : Nat) (w : Work) (y : Slate) (ps : List (Nat × Nat)), let o := s.presentOp site core y; let sh := s.shapeOf w y.cont (s.core site core).loc (s.core site core).layer (s.core site core).pc o; s.atOp site core 0x01 w y = true ∧ isLeaf y.cont (s.core site core).layer (s.core site core).loc = false ∧ arrayOk o = true ∧ s.operandsAt site core y.cont (arrayOps o sh false) ps = true ∧ o.fa = 0 ∧ o.fo = 0 ∧ sh.g = 1 ∧ o.n ≤ o.so :=
  ⟨opBench [opRec [(0, 1, 0x01), (1, 1, 0), (6, 2, 1), (8, 4, 2), (12, 4, 3), (16, 4, 4), (0x14, 4, 0x100), (0x18, 4, 0x200), (0x1C, 4, 0x1300), (0x24, 4, 64), (0x28, 4, 64)]] [], 0, 5, .stage 7, opSlate [opRec [(0, 1, 0x01), (1, 1, 0), (6, 2, 1), (8, 4, 2), (12, 4, 3), (16, 4, 4), (0x14, 4, 0x100), (0x18, 4, 0x200), (0x1C, 4, 0x1300), (0x24, 4, 64), (0x28, 4, 64)]] [], [(69, 0x100), (69, 0x200), (0, 0), (69, 0x1300)], by decide +kernel⟩
theorem witness_ArrayOpsWriteRequantisedProducts_2 : ∃ (s : State) (site : Nat) (core : Nat) (w : Work) (y : Slate) (ps : List (Nat × Nat)), let o := s.presentOp site core y; let sh := s.shapeOf w y.cont (s.core site core).loc (s.core site core).layer (s.core site core).pc o; s.atOp site core 0x01 w y = true ∧ isLeaf y.cont (s.core site core).layer (s.core site core).loc = false ∧ arrayOk o = true ∧ s.operandsAt site core y.cont (arrayOps o sh false) ps = true :=
  ⟨opBench [opRec [(0, 1, 0x01), (1, 1, 2), (6, 2, 1), (8, 4, 2), (12, 4, 3), (16, 4, 4), (0x14, 4, 0x100), (0x18, 4, 0x200), (0x1C, 4, 0x1300), (0x24, 4, 64), (0x28, 4, 64)]] [], 0, 5, .stage 7, opSlate [opRec [(0, 1, 0x01), (1, 1, 2), (6, 2, 1), (8, 4, 2), (12, 4, 3), (16, 4, 4), (0x14, 4, 0x100), (0x18, 4, 0x200), (0x1C, 4, 0x1300), (0x24, 4, 64), (0x28, 4, 64)]] [], [(69, 0x100), (69, 0x200), (0, 0), (69, 0x1300)], by decide +kernel⟩
theorem witness_ArrayOpsWriteRequantisedProducts_3 : ∃ (s : State) (site : Nat) (core : Nat) (w : Work) (y : Slate) (ps : List (Nat × Nat)), let o := s.presentOp site core y; let sh := s.shapeOf w y.cont (s.core site core).loc (s.core site core).layer (s.core site core).pc o; s.atOp site core 0x02 w y = true ∧ isLeaf y.cont (s.core site core).layer (s.core site core).loc = false ∧ arrayOk o = true ∧ s.operandsAt site core y.cont (arrayOps o sh false) ps = true ∧ o.fa = 0 ∧ o.fo = 0 ∧ sh.g = 1 ∧ o.n ≤ o.so :=
  ⟨opBench [opRec [(0, 1, 0x02), (1, 1, 0), (6, 2, 1), (8, 4, 2), (12, 4, 3), (16, 4, 4), (0x14, 4, 0x100), (0x18, 4, 0x200), (0x1C, 4, 0x1300), (0x24, 4, 64), (0x28, 4, 64)]] [], 0, 5, .stage 7, opSlate [opRec [(0, 1, 0x02), (1, 1, 0), (6, 2, 1), (8, 4, 2), (12, 4, 3), (16, 4, 4), (0x14, 4, 0x100), (0x18, 4, 0x200), (0x1C, 4, 0x1300), (0x24, 4, 64), (0x28, 4, 64)]] [], [(69, 0x100), (69, 0x200), (0, 0), (69, 0x1300)], by decide +kernel⟩
theorem witness_ArrayOpsWriteRequantisedProducts_4 : ∃ (s : State) (site : Nat) (core : Nat) (w : Work) (y : Slate) (ps : List (Nat × Nat)), let o := s.presentOp site core y; let sh := s.shapeOf w y.cont (s.core site core).loc (s.core site core).layer (s.core site core).pc o; s.atOp site core 0x02 w y = true ∧ isLeaf y.cont (s.core site core).layer (s.core site core).loc = false ∧ arrayOk o = true ∧ s.operandsAt site core y.cont (arrayOps o sh false) ps = true :=
  ⟨opBench [opRec [(0, 1, 0x02), (1, 1, 0), (6, 2, 1), (8, 4, 2), (12, 4, 3), (16, 4, 4), (0x14, 4, 0x100), (0x18, 4, 0x200), (0x1C, 4, 0x1300), (0x24, 4, 64), (0x28, 4, 64), (2, 2, 0x44), (0x28, 4, 64)]] [], 0, 5, .stage 7, opSlate [opRec [(0, 1, 0x02), (1, 1, 0), (6, 2, 1), (8, 4, 2), (12, 4, 3), (16, 4, 4), (0x14, 4, 0x100), (0x18, 4, 0x200), (0x1C, 4, 0x1300), (0x24, 4, 64), (0x28, 4, 64), (2, 2, 0x44), (0x28, 4, 64)]] [], [(69, 0x100), (69, 0x200), (0, 0), (69, 0x1300)], by decide +kernel⟩
theorem witness_ArrayOpsWriteRequantisedProducts_5 : ∃ (s : State) (site : Nat) (core : Nat) (w : Work) (y : Slate) (ps : List (Nat × Nat)), let o := s.presentOp site core y; let sh := s.shapeOf w y.cont (s.core site core).loc (s.core site core).layer (s.core site core).pc o; s.atOp site core 0x03 w y = true ∧ isLeaf y.cont (s.core site core).layer (s.core site core).loc = false ∧ arrayOk o = true ∧ s.operandsAt site core y.cont (arrayOps o sh false) ps = true :=
  ⟨opBench [opRec [(0, 1, 0x03), (1, 1, 1), (6, 2, 1), (8, 4, 4), (12, 4, 2), (16, 4, 4), (0x14, 4, 0x100), (0x18, 4, 0x200), (0x1C, 4, 0x1300), (0x24, 4, 64), (0x28, 4, 64), (0x24, 4, 3), (0x28, 4, 4), (0x2C, 8, 0x0000010101010202)]] [], 0, 5, .stage 7, opSlate [opRec [(0, 1, 0x03), (1, 1, 1), (6, 2, 1), (8, 4, 4), (12, 4, 2), (16, 4, 4), (0x14, 4, 0x100), (0x18, 4, 0x200), (0x1C, 4, 0x1300), (0x24, 4, 64), (0x28, 4, 64), (0x24, 4, 3), (0x28, 4, 4), (0x2C, 8, 0x0000010101010202)]] [], [(69, 0x100), (69, 0x200), (0, 0), (69, 0x1300)], by decide +kernel⟩
theorem witness_ArrayOpsWriteRequantisedProducts_6 : ∃ (s : State) (site : Nat) (core : Nat) (w : Work) (y : Slate) (ps : List (Nat × Nat)), let x := s.core site core; let o := leafView y.cont x.layer (s.presentOp site core y); let sh := s.shapeOf w y.cont x.loc x.layer x.pc o; s.atOp site core 0x01 w y = true ∧ isLeaf y.cont x.layer x.loc = true ∧ arrayOk o = true ∧ s.operandsAt site core y.cont (arrayOps o sh true) ps = true :=
  ⟨{ treeBench [] [] [] [] with slates := [(7, { handle := 7, cont := treeCont, groups := [{}] })] }, 0, 0, .take 0 1 0, { handle := 7, cont := treeCont, groups := [{}] }, [(64, 0), (64, 0), (0, 0), (0, 0)], by decide +kernel⟩
theorem witness_ArrayOpsWriteRequantisedProducts_7 : ∃ (s : State) (site : Nat) (core : Nat) (w : Work) (y : Slate) (ps : List (Nat × Nat)), let x := s.core site core; let o := leafView y.cont x.layer (s.presentOp site core y); let sh := s.shapeOf w y.cont x.loc x.layer x.pc o; s.atOp site core 0x02 w y = true ∧ isLeaf y.cont x.layer x.loc = true ∧ arrayOk o = true ∧ s.operandsAt site core y.cont (arrayOps o sh true) ps = true :=
  ⟨{ treeBench [] [] [] [] with slates := [(7, { handle := 7, cont := patch treeCont 0xC0 [2#8], groups := [{}] })] }, 0, 0, .take 0 1 0, { handle := 7, cont := patch treeCont 0xC0 [2#8], groups := [{}] }, [(64, 0), (64, 0), (0, 0), (0, 0)], by decide +kernel⟩
theorem witness_ArrayOpsWriteRequantisedProducts_8 : ∃ (s : State) (site : Nat) (core : Nat) (w : Work) (y : Slate) (ps : List (Nat × Nat)), let x := s.core site core; let o := leafView y.cont x.layer (s.presentOp site core y); let sh := s.shapeOf w y.cont x.loc x.layer x.pc o; s.atOp site core 0x03 w y = true ∧ isLeaf y.cont x.layer x.loc = true ∧ arrayOk o = true ∧ s.operandsAt site core y.cont (arrayOps o sh true) ps = true :=
  ⟨{ treeBench [] [] [] [] with slates := [(7, { handle := 7, cont := patch (patch treeCont 0xC0 [3#8, 1#8]) 0xEC (leBytes 8 0x0000010101010202), groups := [{}] })] }, 0, 0, .take 0 1 0, { handle := 7, cont := patch (patch treeCont 0xC0 [3#8, 1#8]) 0xEC (leBytes 8 0x0000010101010202), groups := [{}] }, [(0, 0), (64, 0), (0, 0), (0, 0)], by decide +kernel⟩
theorem witness_SequencerOpsOnFlagsCuesAndQueues_1 : ∃ (s : State) (site : Nat) (core : Nat) (w : Work) (y : Slate), let o := s.presentOp site core y; let f := y.flagAt (o.m / 2 ^ 16 % 2 ^ 12) (o.m % 1024); s.atOp site core 0x21 w y = true ∧ o.sub ≤ 1 ∧ o.resv = false ∧ refOk y (cFlags y.cont) o.m = true ∧ (if o.sub = 0 then decide (o.n ≤ s.flagValue f.1 f.2) else s.flagValue f.1 f.2 == o.n) = true :=
  ⟨opBench [opRec [(0, 1, 0x21)]] [], 0, 5, .stage 7, opSlate [opRec [(0, 1, 0x21)]] [], by decide +kernel⟩
theorem witness_SequencerOpsOnFlagsCuesAndQueues_2 : ∃ (s : State) (site : Nat) (core : Nat) (w : Work) (y : Slate), let o := s.presentOp site core y; let f := y.flagAt (o.m / 2 ^ 16 % 2 ^ 12) (o.m % 1024); s.atOp site core 0x21 w y = true ∧ o.sub ≤ 1 ∧ o.resv = false ∧ refOk y (cFlags y.cont) o.m = true ∧ (if o.sub = 0 then decide (o.n ≤ s.flagValue f.1 f.2) else s.flagValue f.1 f.2 == o.n) = false :=
  ⟨opBench [opRec [(0, 1, 0x21), (12, 4, 1)]] [], 0, 5, .stage 7, opSlate [opRec [(0, 1, 0x21), (12, 4, 1)]] [], by decide +kernel⟩
theorem witness_SequencerOpsOnFlagsCuesAndQueues_3 : ∃ (s : State) (site : Nat) (core : Nat) (w : Work) (y : Slate), let o := s.presentOp site core y; s.atOp site core 0x22 w y = true ∧ o.sub ≤ 1 ∧ refOk y (cFlags y.cont) o.m = true :=
  ⟨opBench [opRec [(0, 1, 0x22), (1, 1, 1), (12, 4, 5)]] [], 0, 5, .stage 7, opSlate [opRec [(0, 1, 0x22), (1, 1, 1), (12, 4, 5)]] [], by decide +kernel⟩
theorem witness_SequencerOpsOnFlagsCuesAndQueues_4 : ∃ (s : State) (site : Nat) (core : Nat) (w : Work) (y : Slate), let o := s.presentOp site core y; let q := y.cueAt (o.m / 2 ^ 16 % 2 ^ 12) (o.m % 64); s.atOp site core 0x23 w y = true ∧ o.sub = 0 ∧ refOk y (cCues y.cont) (o.m / 2 ^ 16 * 2 ^ 16 + o.m % 64) = true ∧ (s.cue q.1 q.2).length < 64 :=
  ⟨opBench [opRec [(0, 1, 0x23), (8, 4, 3), (0x14, 4, 64)]] [], 0, 5, .stage 7, opSlate [opRec [(0, 1, 0x23), (8, 4, 3), (0x14, 4, 64)]] [], by decide +kernel⟩
theorem witness_SequencerOpsOnFlagsCuesAndQueues_5 : ∃ (s : State) (site : Nat) (core : Nat) (w : Work) (y : Slate), let o := s.presentOp site core y; let q := y.cueAt (o.m / 2 ^ 16 % 2 ^ 12) (o.m % 64); s.atOp site core 0x23 w y = true ∧ o.sub = 0 ∧ refOk y (cCues y.cont) (o.m / 2 ^ 16 * 2 ^ 16 + o.m % 64) = true ∧ 64 ≤ (s.cue q.1 q.2).length :=
  ⟨{ opBench [opRec [(0, 1, 0x23)]] [] with cueQs := [(0, List.replicate 64 1)] }, 0, 5, .stage 7, opSlate [opRec [(0, 1, 0x23)]] [], by decide +kernel⟩
theorem witness_SequencerOpsOnFlagsCuesAndQueues_6 : ∃ (s : State) (site : Nat) (core : Nat) (w : Work) (y : Slate) (h : Nat) (rest : List Nat), let o := s.presentOp site core y; let q := y.cueAt (o.m / 2 ^ 16 % 2 ^ 12) (o.m % 64); s.atOp site core 0x24 w y = true ∧ o.sub = 0 ∧ refOk y (cCues y.cont) (o.m / 2 ^ 16 * 2 ^ 16 + o.m % 64) = true ∧ s.cueLive q.1 q.2 = h :: rest ∧ o.out + 8 ≤ cCs y.cont ∧ o.out < 2 ^ 31 :=
  ⟨{ opBench [opRec [(0, 1, 0x24), (0x1C, 4, 0x40)]] [] with cueQs := [(0, [9, 4])] }, 0, 5, .stage 7, opSlate [opRec [(0, 1, 0x24), (0x1C, 4, 0x40)]] [], 9, [4], by decide +kernel⟩
theorem witness_SequencerOpsOnFlagsCuesAndQueues_7 : ∃ (s : State) (site : Nat) (core : Nat) (w : Work) (y : Slate), let o := s.presentOp site core y; let q := y.cueAt (o.m / 2 ^ 16 % 2 ^ 12) (o.m % 64); s.atOp site core 0x24 w y = true ∧ o.sub = 0 ∧ refOk y (cCues y.cont) (o.m / 2 ^ 16 * 2 ^ 16 + o.m % 64) = true ∧ s.cueLive q.1 q.2 = [] :=
  ⟨opBench [opRec [(0, 1, 0x24), (0x1C, 4, 0x40)]] [], 0, 5, .stage 7, opSlate [opRec [(0, 1, 0x24), (0x1C, 4, 0x40)]] [], by decide +kernel⟩
theorem witness_SequencerOpsOnFlagsCuesAndQueues_8 : ∃ (s : State) (site : Nat) (core : Nat) (w : Work) (y : Slate), let o := s.presentOp site core y; let x := s.core site core; s.atOp site core 0x25 w y = true ∧ o.sub < 4 ∧ o.m < descCount y.cont x.loc ∧ (leAt (descAt y.cont x.loc o.m) 0 1 = 1 ∨ leAt (descAt y.cont x.loc o.m) 0 1 = 2) ∧ (s.dq site core o.sub).descs.length < 16 :=
  ⟨opBench [opRec [(0, 1, 0x25), (1, 1, 3)]] [opRec [(0, 1, 1)]], 0, 5, .stage 7, opSlate [opRec [(0, 1, 0x25), (1, 1, 3)]] [opRec [(0, 1, 1)]], by decide +kernel⟩
theorem witness_SequencerOpsOnFlagsCuesAndQueues_9 : ∃ (s : State) (site : Nat) (core : Nat) (w : Work) (y : Slate), let o := s.presentOp site core y; let x := s.core site core; s.atOp site core 0x25 w y = true ∧ o.sub < 4 ∧ o.m < descCount y.cont x.loc ∧ (leAt (descAt y.cont x.loc o.m) 0 1 = 1 ∨ leAt (descAt y.cont x.loc o.m) 0 1 = 2) ∧ 16 ≤ (s.dq site core o.sub).descs.length :=
  ⟨{ opBench [opRec [(0, 1, 0x25), (1, 1, 3)]] [opRec [(0, 1, 1)]] with dqs := [((0 * 256 + 5) * 4 + 3, { descs := List.replicate 16 {} })] }, 0, 5, .stage 7, opSlate [opRec [(0, 1, 0x25), (1, 1, 3)]] [opRec [(0, 1, 1)]], by decide +kernel⟩
theorem witness_OpsRetireInOrder_1 : ∃ (s : State) (site : Nat) (core : Nat) (w : Work) (y : Slate) (ps : List (Nat × Nat)), let o := s.presentOp site core y; s.atOp site core 0x20 w y = true ∧ o.sub = 0 ∧ o.resv = false ∧ s.operandsAt site core y.cont [{ addr := o.param, len := 8 }] ps = true :=
  ⟨opBench [opRec [(0, 1, 0x20)]] [], 0, 5, .stage 7, opSlate [opRec [(0, 1, 0x20)]] [], [(69, 0)], by decide +kernel⟩
theorem witness_OpsRetireInOrder_2 : ∃ (s : State) (site : Nat) (core : Nat) (w : Work) (y : Slate), s.inOp site core 2 w y = true ∧ ((s.barrierCores site core).all (fun c => s.barrierMet w y (s.core site core) c)) = true ∧ ((s.core site core).loc, site, core) ∈ s.barrierCores site core ∧ ((s.barrierCores site core).map (fun c => c.2.1 * 256 + c.2.2)).Nodup :=
  ⟨{ opBench [opRec [(0, 1, 0x20), (0x3C, 4, 8)]] [] with cores := [(5, { work := some (.stage 7), phase := 2, cost := 8, mask := 1 })] }, 0, 5, .stage 7, opSlate [opRec [(0, 1, 0x20), (0x3C, 4, 8)]] [], by decide +kernel⟩
theorem witness_OpsRetireInOrder_3 : ∃ (s : State) (site : Nat) (core : Nat) (w : Work) (y : Slate), let o := s.presentOp site core y; let x := s.core site core; s.inOp site core 1 w y = true ∧ x.cost ≤ o.bound :=
  ⟨{ opBench [opRec [(0, 1, 1), (0x3C, 4, 30)]] [] with cores := [(5, { work := some (.stage 7), phase := 1, cost := 30 })] }, 0, 5, .stage 7, opSlate [opRec [(0, 1, 1), (0x3C, 4, 30)]] [], by decide +kernel⟩
theorem witness_OpsRetireInOrder_4 : ∃ (s : State) (site : Nat) (core : Nat) (t0 : Nat) (q : Nat) (n : Nat) (ph : Nat) (y : Slate) (r : Nat) (e : Entry), let o := s.presentOp site core y; (ph = 1 ∨ ph = 2) ∧ s.inOp site core ph (.take t0 q n) y = true ∧ o.bound < (s.core site core).cost ∧ s.regFld (bndPage site + 0x40) 0 6 = r ∧ s.bndTaken.contains (workKey (.take t0 q n)) = false ∧ s.findEntry t0 q n = some e :=
  ⟨{ takeBench [opRec [(0, 1, 1), (0x3C, 4, 30)]] [] with cores := [(5, { work := some (.take 0 1 0), phase := 1, cost := 31 })] }, 0, 5, 0, 1, 0, 1, opSlate [opRec [(0, 1, 1), (0x3C, 4, 30)]] [], 0, { n := 0, op := 1, slate := 7, st := 1, cores := [(0, 0, 5)], epoch := 3 }, by decide +kernel⟩
theorem witness_OpsRetireInOrder_5 : ∃ (s : State) (site : Nat) (core : Nat) (h : Nat) (ph : Nat) (y : Slate), let o := s.presentOp site core y; (ph = 1 ∨ ph = 2) ∧ s.inOp site core ph (.stage h) y = true ∧ o.bound < (s.core site core).cost ∧ s.bndTaken.contains (workKey (.stage h)) = false ∧ y.handle = h :=
  ⟨{ opBench [opRec [(0, 1, 1), (0x3C, 4, 30)]] [] with cores := [(5, { work := some (.stage 7), phase := 1, cost := 31 })] }, 0, 5, 7, 1, opSlate [opRec [(0, 1, 1), (0x3C, 4, 30)]] [], by decide +kernel⟩
theorem witness_OpsRetireInOrder_6 : ∃ (s : State) (site : Nat) (core : Nat) (t0 : Nat) (q : Nat) (n : Nat) (y : Slate), let o := s.presentOp site core y; s.atOp site core 0x2F (.take t0 q n) y = true ∧ o.sub = 0 ∧ o.resv = false ∧ 4 ≤ o.bound :=
  ⟨takeBench [opRec [(0, 1, 0x2F), (0x3C, 4, 4)]] [], 0, 5, 0, 1, 0, opSlate [opRec [(0, 1, 0x2F), (0x3C, 4, 4)]] [], by decide +kernel⟩
theorem witness_OpsRetireInOrder_7 : ∃ (s : State) (site : Nat) (core : Nat) (h : Nat) (y : Slate) (loc : Nat), let o := s.presentOp site core y; s.atOp site core 0x2F (.stage h) y = true ∧ o.sub = 0 ∧ o.resv = false ∧ 4 ≤ o.bound ∧ ((List.range 4).all (fun q => (s.dq site core q).descs.isEmpty)) = true ∧ y.cores = [(loc, site, core)] ∧ y.handle = h :=
  ⟨opBench [opRec [(0, 1, 0x2F), (0x3C, 4, 4)]] [], 0, 5, 7, opSlate [opRec [(0, 1, 0x2F), (0x3C, 4, 4)]] [], 0, by decide +kernel⟩
theorem witness_OpsRetireInOrder_8 : ∃ (s : State) (req : Nat) (site : Nat) (core : Nat) (val : Word), core < 64 ∧ s.takes 0x40 req site (0x100 + core) 0x50 = true ∧ (match (s.core site core).work with | some w => s.conf (s.workTenant w) | none => false) = false ∧ val &&& 0xFFFFFFF8#32 = 0#32 :=
  ⟨poke bench [(corePage 0 63 + 0x60, 5)], 0, 0, 63, 7#32, by decide +kernel⟩
theorem witness_CombineTreeAddsInOrder_1 : ∃ (s : State) (site : Nat) (bay : Nat) (node : Nat) (tile : Nat) (core : Nat) (t0 : Nat) (q : Nat) (n0 : Nat) (y : Slate) (off : Nat) (n : Node) (rows : List Word), let c := s.core (core / 256) (core % 256); s.clocked site = true ∧ bay < 4 ∧ (s.core (core / 256) (core % 256)).work = some (.take t0 q n0) ∧ s.workSlate (.take t0 q n0) = some y ∧ treeOf y.cont c.layer = some off ∧ (s.cmb site bay).node (.take t0 q n0) c.layer node = some n ∧ s.operandRows (.take t0 q n0) y.cont c.layer off (nodeOps y.cont off node).1 tile = some rows ∧ tileOf n.left tile = none ∧ s.cancelled site (s.workEpoch (.take t0 q n0)) = false :=
  ⟨treeBench [(0, List.replicate 64 1#32)] [] [] [], 0, 0, 0, 0, 0, 0, 1, 0, { handle := 7, cont := treeCont, groups := [{}] }, 0x240, { work := .take 0 1 0 }, List.replicate 64 1#32, by decide +kernel⟩
theorem witness_CombineTreeAddsInOrder_2 : ∃ (s : State) (site : Nat) (bay : Nat) (node : Nat) (tile : Nat) (core : Nat) (t0 : Nat) (q : Nat) (n0 : Nat) (y : Slate) (off : Nat) (n : Node) (rows : List Word), let c := s.core (core / 256) (core % 256); s.clocked site = true ∧ bay < 4 ∧ (s.core (core / 256) (core % 256)).work = some (.take t0 q n0) ∧ s.workSlate (.take t0 q n0) = some y ∧ treeOf y.cont c.layer = some off ∧ (s.cmb site bay).node (.take t0 q n0) c.layer node = some n ∧ s.operandRows (.take t0 q n0) y.cont c.layer off (nodeOps y.cont off node).2 tile = some rows ∧ tileOf n.right tile = none ∧ s.cancelled site (s.workEpoch (.take t0 q n0)) = false :=
  ⟨treeBench [] [(0, List.replicate 64 1#32)] [] [], 0, 0, 0, 0, 0, 0, 1, 0, { handle := 7, cont := treeCont, groups := [{}] }, 0x240, { work := .take 0 1 0 }, List.replicate 64 1#32, by decide +kernel⟩
theorem witness_CombineTreeAddsInOrder_3 : ∃ (s : State) (site : Nat) (bay : Nat) (node : Nat) (core : Nat) (t0 : Nat) (q : Nat) (n0 : Nat) (y : Slate) (e : Entry), let c := s.core (core / 256) (core % 256); s.clocked site = true ∧ bay < 4 ∧ (s.core (core / 256) (core % 256)).work = some (.take t0 q n0) ∧ s.workSlate (.take t0 q n0) = some y ∧ (s.cmb site bay).node (.take t0 q n0) c.layer node = none ∧ c.partials ≠ [] ∧ s.findEntry t0 q n0 = some e ∧ s.cancelled site (s.workEpoch (.take t0 q n0)) = false :=
  ⟨treeBench [(0, List.replicate 64 1#32)] [] [] [], 0, 3, 0, 0, 0, 1, 0, { handle := 7, cont := treeCont, groups := [{}] }, { n := 0, op := 1, slate := 7, st := 1, cores := [(0, 0, 0), (1, 0, 1)], epoch := 3 }, by decide +kernel⟩
theorem witness_CombineTreeAddsInOrder_4 : ∃ (s : State) (site : Nat) (bay : Nat) (node : Nat) (tile : Nat) (core : Nat) (t0 : Nat) (q : Nat) (n0 : Nat) (y : Slate) (off : Nat) (n : Node) (l : List Word) (r : List Word) (pc : Nat) (lo : Op) (tt : Nat), let c := s.core (core / 256) (core % 256); let loc := leftLeaf y.cont off 64 (node / 64 * 64 + nodeCount y.cont off - 1); s.clocked site = true ∧ bay < 4 ∧ (s.core (core / 256) (core % 256)).work = some (.take t0 q n0) ∧ s.workSlate (.take t0 q n0) = some y ∧ treeOf y.cont c.layer = some off ∧ (s.cmb site bay).node (.take t0 q n0) c.layer node = some n ∧ leafOf y.cont loc c.layer tile = some (pc, lo, tt) ∧ s.st (cmbPage site bay) = 2 ∧ tileOf n.left tile = some l ∧ tileOf n.right tile = some r ∧ tileOf n.outs tile = none ∧ s.cmbConf site bay = false ∧ node % 64 + 1 ≠ nodeCount y.cont off :=
  ⟨{ treeBench [] [] [] [] with cmbs := [(0, { nodes := [{ work := .take 0 1 0, idx := 1, left := [(0, [0x7FFFFFFF#32, 0x3F800000#32])], right := [(0, [1#32, 0x40000000#32])] }] })] }, 0, 0, 1, 0, 0, 0, 1, 0, { handle := 7, cont := treeCont, groups := [{}] }, 0x240, { work := .take 0 1 0, idx := 1, left := [(0, [0x7FFFFFFF#32, 0x3F800000#32])], right := [(0, [1#32, 0x40000000#32])] }, [0x7FFFFFFF#32, 0x3F800000#32], [1#32, 0x40000000#32], 0, opAt treeCont 0 0, 0, by decide +kernel⟩
theorem witness_CombineTreeAddsInOrder_5 : ∃ (s : State) (site : Nat) (bay : Nat) (node : Nat) (tile : Nat) (core : Nat) (t0 : Nat) (q : Nat) (n0 : Nat) (y : Slate) (off : Nat) (n : Node) (l : List Word) (r : List Word) (pc : Nat) (lo : Op) (tt : Nat) (pl : Nat × Nat) (sp : Nat) (base : Nat) (room : Nat), let c := s.core (core / 256) (core % 256); let loc := leftLeaf y.cont off 64 (node / 64 * 64 + nodeCount y.cont off - 1); let o := leafView y.cont c.layer lo; let tl := rootTile y.cont (treeHead y.cont off node) o (s.shapeOf (.take t0 q n0) y.cont loc c.layer pc o) tt ((List.range l.length).map (fun i => (nodeSum (isIntFmt o.fa) (l.getD i 0#32).toNat (r.getD i 0#32).toNat).1)); s.clocked site = true ∧ bay < 4 ∧ (s.core (core / 256) (core % 256)).work = some (.take t0 q n0) ∧ s.workSlate (.take t0 q n0) = some y ∧ treeOf y.cont c.layer = some off ∧ (s.cmb site bay).node (.take t0 q n0) c.layer node = some n ∧ leafOf y.cont loc c.layer tile = some (pc, lo, tt) ∧ s.st (cmbPage site bay) = 2 ∧ tileOf n.left tile = some l ∧ tileOf n.right tile = some r ∧ tileOf n.outs tile = none ∧ node % 64 + 1 = nodeCount y.cont off ∧ s.corePlace (.take t0 q n0) loc = some pl ∧ s.place pl.1 pl.2 y.cont o.out true = .at_ sp base room ∧ (tl.1.any (fun e => decide (room * 8 < e.1 + fmtBits o.fo))) = false ∧ s.cancelled pl.1 (s.workEpoch (.take t0 q n0)) = false :=
  ⟨treeBench [(0, [])] [] [(0, List.replicate 64 1#32)] [(0, List.replicate 64 2#32)], 0, 0, 0, 0, 0, 0, 1, 0, { handle := 7, cont := treeCont, groups := [{}] }, 0x240, { work := .take 0 1 0, left := [(0, List.replicate 64 1#32)], right := [(0, List.replicate 64 2#32)] }, List.replicate 64 1#32, List.replicate 64 2#32, 0, opAt treeCont 0 0, 0, (0, 0), 64, 0x100, 0xFF00, by decide +kernel⟩
theorem witness_CombineTreeAddsInOrder_6 : ∃ (s : State) (site : Nat) (bay : Nat) (t0 : Nat) (q : Nat) (n0 : Nat) (e : Entry) (m : Node) (ms : List Node), s.dieUp site = true ∧ bay < 4 ∧ (s.cmb site bay).nodes = m :: ms ∧ m.work = .take t0 q n0 ∧ s.findEntry t0 q n0 = some e :=
  ⟨treeBench [] [] [] [], 0, 0, 0, 1, 0, { n := 0, op := 1, slate := 7, st := 1, cores := [(0, 0, 0), (1, 0, 1)], epoch := 3 }, { work := .take 0 1 0 }, [], by decide +kernel⟩
theorem witness_SlatesLoadUnloadAndKeepBounds_1 : ∃ (s : State) (n : Nat) (cont : List Byte) (r : Nat × Nat), let stream := s.mbArg n 12 1; let place := s.mbArg n 16 4; let site := streamSite s.asm stream; let real := decide (stream < streamCount s.asm); let lb := if real then s.lineBytes site (stream % 16) else 0; n < 16 ∧ s.ready = true ∧ s.isMember = false ∧ s.restarting 8 = false ∧ s.loads.head? = some n ∧ s.regFld (mbPage n + 0x44) 0 2 = 1 ∧ s.regFld (mbPage n + 0x100) 0 16 = 16 ∧ s.regFld (mbPage n + 0x100) 16 16 = 20 ∧ s.sec.reserveKey.isSome = true ∧ s.chkAll n cont (s.mbArg n 8 4) stream place lb = some r :=
  ⟨{ mbBench 0 16 20 [] with sec := { reserveKey := some 1 }, loads := [0] }, 0, [], (0x100, 0), by decide +kernel⟩
theorem witness_SlatesLoadUnloadAndKeepBounds_2 : ∃ (s : State) (n : Nat) (cont : List Byte), let stream := s.mbArg n 12 1; let place := s.mbArg n 16 4; let site := streamSite s.asm stream; let real := decide (stream < streamCount s.asm); let lb := if real then s.lineBytes site (stream % 16) else 0; let rmax := if real then (s.reg (strPage site (stream % 16) + 0x48)).toNat else 0; let m := s.chkMachine n cont stream (s.mbArg n 14 2) place rmax lb; n < 16 ∧ s.ready = true ∧ s.isMember = false ∧ s.restarting 8 = false ∧ s.loads.head? = some n ∧ s.regFld (mbPage n + 0x44) 0 2 = 1 ∧ s.regFld (mbPage n + 0x100) 0 16 = 16 ∧ s.regFld (mbPage n + 0x100) 16 16 = 20 ∧ s.sec.reserveKey.isSome = true ∧ s.chkAll n cont (s.mbArg n 8 4) stream place lb = none ∧ (m.2 ≠ 0 ∨ s.mbArg n 13 1 % 2 = 1) :=
  ⟨poke { mbBench 0 16 20 [0, 0, 0x100, 0x1FF] with sec := { reserveKey := some 1 }, loads := [0] } [(gafPage + 0x40, 100)], 0, loadCont, by decide +kernel⟩
theorem witness_SlatesLoadUnloadAndKeepBounds_3 : ∃ (s : State) (n : Nat) (cont : List Byte), let stream := s.mbArg n 12 1; let place := s.mbArg n 16 4; let site := streamSite s.asm stream; let real := decide (stream < streamCount s.asm); let lb := if real then s.lineBytes site (stream % 16) else 0; let rmax := if real then (s.reg (strPage site (stream % 16) + 0x48)).toNat else 0; let m := s.chkMachine n cont stream (s.mbArg n 14 2) place rmax lb; n < 16 ∧ s.ready = true ∧ s.isMember = false ∧ s.restarting 8 = false ∧ s.loads.head? = some n ∧ s.regFld (mbPage n + 0x44) 0 2 = 1 ∧ s.regFld (mbPage n + 0x100) 0 16 = 16 ∧ s.regFld (mbPage n + 0x100) 16 16 = 20 ∧ s.sec.reserveKey.isSome = true ∧ s.mbArg n 13 1 % 2 = 0 ∧ s.chkAll n cont (s.mbArg n 8 4) stream place lb = none ∧ m.2 = 0 :=
  ⟨poke { mbBench 0 16 20 [0, 0, 0x100, 0xFF] with sec := { reserveKey := some 1 }, loads := [0] } [(gafPage + 0x40, 100)], 0, loadCont, by decide +kernel⟩
theorem witness_SlatesLoadUnloadAndKeepBounds_4 : ∃ (s : State) (n : Nat) (x : Slate), n < 16 ∧ s.ready = true ∧ s.isMember = false ∧ s.regFld (mbPage n + 0x44) 0 2 = 1 ∧ s.regFld (mbPage n + 0x100) 0 16 = 17 ∧ s.regFld (mbPage n + 0x100) 16 16 = 4 ∧ s.ownSlate n (s.mbArg n 0 4) = some x ∧ (x.kind ≠ 2 ∨ x.state = 3 ∨ s.st (strPage (streamSite s.asm x.stream) (x.stream % 16)) = 0) ∧ (x.kind = 2 ∨ x.state = 3 ∨ s.slateBusy x.handle = false) ∧ s.restarting 8 = false ∧ s.loads.head? = some n :=
  ⟨{ mbBench 0 17 4 [7] with slates := [(7, { handle := 7 })], loads := [0] }, 0, { handle := 7 }, by decide +kernel⟩
theorem witness_SlatesLoadUnloadAndKeepBounds_5 : ∃ (s : State) (n : Nat) (x : Slate), n < 16 ∧ s.ready = true ∧ s.isMember = false ∧ s.regFld (mbPage n + 0x44) 0 2 = 1 ∧ s.regFld (mbPage n + 0x100) 0 16 = 17 ∧ s.regFld (mbPage n + 0x100) 16 16 = 4 ∧ s.ownSlate n (s.mbArg n 0 4) = some x ∧ x.kind ≠ 2 ∧ x.state ≠ 3 ∧ s.slateBusy x.handle = true ∧ s.restarting 8 = false ∧ s.loads.head? = some n :=
  ⟨{ mbBench 0 17 4 [7] with slates := [(7, { handle := 7 })], tqs := [(1, { entries := [{ op := 1, slate := 7 }] })], loads := [0, 3] }, 0, { handle := 7 }, by decide +kernel⟩
theorem witness_SlatesLoadUnloadAndKeepBounds_6 : ∃ (s : State) (n : Nat) (x : Slate), n < 16 ∧ s.ready = true ∧ s.isMember = false ∧ s.regFld (mbPage n + 0x44) 0 2 = 1 ∧ s.regFld (mbPage n + 0x100) 0 16 = 17 ∧ s.regFld (mbPage n + 0x100) 16 16 = 4 ∧ s.ownSlate n (s.mbArg n 0 4) = some x ∧ x.kind = 2 ∧ x.state ≠ 3 ∧ s.st (strPage (streamSite s.asm x.stream) (x.stream % 16)) ≠ 0 ∧ s.restarting 8 = false ∧ s.loads.head? = some n :=
  ⟨{ poke (mbBench 0 17 4 [7]) [(strPage 11 0 + 0xC, 2)] with slates := [(7, { handle := 7, kind := 2, stream := 0 })], loads := [0] }, 0, { handle := 7, kind := 2, stream := 0 }, by decide +kernel⟩
theorem witness_SlatesLoadUnloadAndKeepBounds_7 : ∃ (s : State) (n : Nat) (h : Nat) (x : Slate), n < 16 ∧ s.slate h = some x ∧ x.state = 2 ∧ s.slateBusy h = false ∧ x.waiter = some n ∧ x.handle = h :=
  ⟨{ bench with slates := [(7, { handle := 7, state := 2, waiter := some 3 })], loads := [3, 5] }, 3, 7, { handle := 7, state := 2, waiter := some 3 }, by decide +kernel⟩
theorem witness_SlatesLoadUnloadAndKeepBounds_8 : ∃ (s : State) (n : Nat) (x : Slate), n < 16 ∧ s.ready = true ∧ s.isMember = false ∧ s.regFld (mbPage n + 0x44) 0 2 = 1 ∧ s.regFld (mbPage n + 0x100) 0 16 = 18 ∧ s.regFld (mbPage n + 0x100) 16 16 = 4 ∧ s.ownSlate n (s.mbArg n 0 4) = some x ∧ s.restarting 8 = false :=
  ⟨{ mbBench 0 18 4 [7] with slates := [(7, { handle := 7, floor := 900, groups := [{}] })] }, 0, { handle := 7, floor := 900, groups := [{}] }, by decide +kernel⟩
theorem witness_SlatesLoadUnloadAndKeepBounds_9 : ∃ (s : State) (n : Nat), n < 16 ∧ s.ready = true ∧ s.isMember = false ∧ s.regFld (mbPage n + 0x44) 0 2 = 1 ∧ s.regFld (mbPage n + 0x100) 0 16 = 18 ∧ s.regFld (mbPage n + 0x100) 16 16 = 4 ∧ s.ownSlate n (s.mbArg n 0 4) = none ∧ s.restarting 8 = false :=
  ⟨mbBench 0 18 4 [7], 0, by decide +kernel⟩
theorem witness_SlatesLoadUnloadAndKeepBounds_10 : ∃ (s : State) (n : Nat) (d : Nat), n < 16 ∧ s.ready = true ∧ s.isMember = false ∧ s.regFld (mbPage n + 0x44) 0 2 = 1 ∧ s.regFld (mbPage n + 0x100) 0 16 = 19 ∧ s.regFld (mbPage n + 0x100) 16 16 = 4 ∧ s.mbArg n 0 4 = d ∧ d / 65536 = 0 ∧ d / 4096 % 16 = s.pkg ∧ s.dieUp (d / 256 % 16) = true ∧ d % 256 < min 64 (s.regFld (bndPage (d / 256 % 16) + 0x40) 8 7) ∧ s.regFld (bndPage (d / 256 % 16) + 0x100 + 32 * (d % 256) + 4) 0 8 = n ∧ s.restarting 8 = false :=
  ⟨poke (mbBench 3 19 4 [1]) [(bndPage 0 + 0x40, 0x202), (bndPage 0 + 0x124, 3)], 3, 1, by decide +kernel⟩
theorem witness_SlatesLoadUnloadAndKeepBounds_11 : ∃ (s : State) (n : Nat) (d : Nat), n < 16 ∧ s.ready = true ∧ s.isMember = false ∧ s.regFld (mbPage n + 0x44) 0 2 = 1 ∧ s.regFld (mbPage n + 0x100) 0 16 = 19 ∧ s.regFld (mbPage n + 0x100) 16 16 = 4 ∧ s.mbArg n 0 4 = d ∧ s.regFld (bndPage (d / 256 % 16) + 0x100 + 32 * (d % 256) + 4) 0 8 ≠ n ∧ s.restarting 8 = false :=
  ⟨mbBench 3 19 4 [1], 3, 1, by decide +kernel⟩
theorem witness_SlatesLoadUnloadAndKeepBounds_12 : ∃ (s : State) (req : Nat) (site : Nat) (val : Word), s.takes 0x46 req site 8 0x44 = true ∧ bitOf val 0 = true :=
  ⟨poke bench [(bndPage 0 + 0x40, 0x202)], 0, 0, 1#32, by decide +kernel⟩
theorem witness_DmaTransfersMoveBytesInOrder_1 : ∃ (s : State) (site : Nat) (core : Nat) (q : Nat) (w : Work) (y : Slate) (i : IDesc) (j : IDesc) (n : Nat) (sa : Nat) (a : Nat) (sb : Nat) (b : Nat), let d := decodeDesc (descAt y.cont (s.core site core).loc i.idx); let far := if s.landSite site (.ram sa a) = site then s.landSite site (.ram sb b) else s.landSite site (.ram sa a); let k := bucketOf site far d.dstSp; let slack := if d.stream = true ∧ d.dstSp = 4 then s.ringCount site core d.dstRing * (s.sring site core d.dstRing).period * 1000000 / max 1 (s.regFld (pg site 0x0B + 0x44) 0 12) else 0; let f : Xfer := { serial := j.serial, sp := sb, addr := b, data := s.ramGet sa a n, issued := s.now, src := (sa, a), dst := (sb, b), stream := d.stream, slack := slack, point := s.arbPoint site (.ram sa a) (.ram sb b), share := k }; s.queueAt site core q w y = true ∧ (s.dq site core q).next = some i ∧ d.kind = 1 ∧ (s.dq site core q).halted = false ∧ s.takeSlots site core d i = some j ∧ n = min (d.rowBytes - j.col) (min (4096 - a % 4096) (4096 - b % 4096)) ∧ (s.srcSpot site core w y d j 1).isMem sa a = true ∧ (s.dstSpot site core w y d j 1).isMem sb b = true ∧ (s.srcSpot site core w y d j n).isMem sa a = true ∧ (s.dstSpot site core w y d j n).isMem sb b = true ∧ s.poisoned sa a n = false ∧ (d.stream = true ∨ s.spent y ((s.core site core).loc / 64) k + n * 320000 ≤ 65536 * 320000) ∧ s.merges site y.cont (s.core site core).loc (s.dq site core q) j f = false ∧ (s.dq site core q).flights.length < max 1 (cDmaOut y.cont q) ∧ s.hasPlace site ((site * 256 + core) * 4 + q) 1 d.stream = true :=
  ⟨{ opBench [] [opRec [(0, 1, 1), (1, 1, 1), (3, 1, 1), (4, 4, 0x20), (12, 4, 0x40), (0x14, 4, 8), (0x18, 4, 2), (0x1C, 4, 8), (0x20, 4, 8)]] with dqs := [(22, { work := some (.stage 7), descs := [{ rows := 2 }] })], slates := [(7, { opSlate [] [opRec [(0, 1, 1), (1, 1, 1), (3, 1, 1), (4, 4, 0x20), (12, 4, 0x40), (0x14, 4, 8), (0x18, 4, 2), (0x1C, 4, 8), (0x20, 4, 8)]] with weights := [] })] }, 0, 5, 2, .stage 7, { opSlate [] [opRec [(0, 1, 1), (1, 1, 1), (3, 1, 1), (4, 4, 0x20), (12, 4, 0x40), (0x14, 4, 8), (0x18, 4, 2), (0x1C, 4, 8), (0x20, 4, 8)]] with weights := [] }, { rows := 2 }, { rows := 2 }, 8, 69, 0x20, 1, 0x40, by decide +kernel⟩
theorem witness_DmaTransfersMoveBytesInOrder_2 : ∃ (s : State) (site : Nat) (core : Nat) (q : Nat) (w : Work) (y : Slate) (i : IDesc) (j : IDesc) (n : Nat) (sa : Nat) (a : Nat) (sb : Nat) (b : Nat), let d := decodeDesc (descAt y.cont (s.core site core).loc i.idx); let far := if s.landSite site (.ram sa a) = site then s.landSite site (.ram sb b) else s.landSite site (.ram sa a); let k := bucketOf site far d.dstSp; let slack := if d.stream = true ∧ d.dstSp = 4 then s.ringCount site core d.dstRing * (s.sring site core d.dstRing).period * 1000000 / max 1 (s.regFld (pg site 0x0B + 0x44) 0 12) else 0; let f : Xfer := { serial := j.serial, sp := sb, addr := b, data := s.ramGet sa a n, issued := s.now, src := (sa, a), dst := (sb, b), stream := d.stream, slack := slack, point := s.arbPoint site (.ram sa a) (.ram sb b), share := k }; let l := s.dq site core q; s.queueAt site core q w y = true ∧ (s.dq site core q).next = some i ∧ d.kind = 1 ∧ (s.dq site core q).halted = false ∧ s.takeSlots site core d i = some j ∧ n = min (d.rowBytes - j.col) (min (4096 - a % 4096) (4096 - b % 4096)) ∧ (s.srcSpot site core w y d j 1).isMem sa a = true ∧ (s.dstSpot site core w y d j 1).isMem sb b = true ∧ (s.srcSpot site core w y d j n).isMem sa a = true ∧ (s.dstSpot site core w y d j n).isMem sb b = true ∧ s.poisoned sa a n = false ∧ (d.stream = true ∨ s.spent y ((s.core site core).loc / 64) k + n * 320000 ≤ 65536 * 320000) ∧ s.merges site y.cont (s.core site core).loc l j f = true ∧ s.conf (s.workTenant w) = false :=
  ⟨{ opBench [] [opRec [(0, 1, 1), (1, 1, 1), (3, 1, 1), (4, 4, 0x20), (12, 4, 0x40), (0x14, 4, 8), (0x18, 4, 2), (0x1C, 4, 8), (0x20, 4, 8)]] with dqs := [(22, { work := some (.stage 7), flights := [{ sp := 1, addr := 0x40, data := List.replicate 8 1#8, src := (69, 0x20), dst := (1, 0x40), stream := true }], descs := [{ rows := 2, row := 1, flying := 1 }] })], slates := [(7, { opSlate [] [opRec [(0, 1, 1), (1, 1, 1), (3, 1, 1), (4, 4, 0x20), (12, 4, 0x40), (0x14, 4, 8), (0x18, 4, 2), (0x1C, 4, 8), (0x20, 4, 8)]] with weights := [] })] }, 0, 5, 2, .stage 7, { opSlate [] [opRec [(0, 1, 1), (1, 1, 1), (3, 1, 1), (4, 4, 0x20), (12, 4, 0x40), (0x14, 4, 8), (0x18, 4, 2), (0x1C, 4, 8), (0x20, 4, 8)]] with weights := [] }, { rows := 2, row := 1, flying := 1 }, { rows := 2, row := 1, flying := 1 }, 8, 69, 0x28, 1, 0x48, by decide +kernel⟩
theorem witness_DmaTransfersMoveBytesInOrder_3 : ∃ (s : State) (site : Nat) (core : Nat) (q : Nat) (w : Work) (y : Slate) (i : IDesc) (j : IDesc) (n : Nat) (sa : Nat) (a : Nat) (sb : Nat) (b : Nat), let d := decodeDesc (descAt y.cont (s.core site core).loc i.idx); let far := if s.landSite site (.ram sa a) = site then s.landSite site (.ram sb b) else s.landSite site (.ram sa a); let k := bucketOf site far d.dstSp; let slack := if d.stream = true ∧ d.dstSp = 4 then s.ringCount site core d.dstRing * (s.sring site core d.dstRing).period * 1000000 / max 1 (s.regFld (pg site 0x0B + 0x44) 0 12) else 0; let f : Xfer := { serial := j.serial, sp := sb, addr := b, data := s.ramGet sa a n, issued := s.now, src := (sa, a), dst := (sb, b), stream := d.stream, slack := slack, point := s.arbPoint site (.ram sa a) (.ram sb b), share := k }; s.queueAt site core q w y = true ∧ (s.dq site core q).next = some i ∧ d.kind = 1 ∧ (s.dq site core q).halted = false ∧ s.takeSlots site core d i = some j ∧ n = min (d.rowBytes - j.col) (min (4096 - a % 4096) (4096 - b % 4096)) ∧ (s.srcSpot site core w y d j 1).isMem sa a = true ∧ (s.dstSpot site core w y d j 1).isMem sb b = true ∧ (s.srcSpot site core w y d j n).isMem sa a = true ∧ (s.dstSpot site core w y d j n).isMem sb b = true ∧ s.poisoned sa a n = false ∧ (d.stream = true ∨ s.spent y ((s.core site core).loc / 64) k + n * 320000 ≤ 65536 * 320000) ∧ s.merges site y.cont (s.core site core).loc (s.dq site core q) j f = false ∧ (s.dq site core q).flights.length < max 1 (cDmaOut y.cont q) ∧ s.hasPlace site ((site * 256 + core) * 4 + q) 1 d.stream = false :=
  ⟨{ opBench [] [opRec [(0, 1, 1), (1, 1, 1), (3, 1, 1), (4, 4, 0x20), (12, 4, 0x40), (0x14, 4, 8), (0x18, 4, 2), (0x1C, 4, 8), (0x20, 4, 8)]] with dqs := [(21, { flights := [{ heads := 256 }] }), (22, { work := some (.stage 7), descs := [{ rows := 2 }] })], slates := [(7, { opSlate [] [opRec [(0, 1, 1), (1, 1, 1), (3, 1, 1), (4, 4, 0x20), (12, 4, 0x40), (0x14, 4, 8), (0x18, 4, 2), (0x1C, 4, 8), (0x20, 4, 8)]] with weights := [] })] }, 0, 5, 2, .stage 7, { opSlate [] [opRec [(0, 1, 1), (1, 1, 1), (3, 1, 1), (4, 4, 0x20), (12, 4, 0x40), (0x14, 4, 8), (0x18, 4, 2), (0x1C, 4, 8), (0x20, 4, 8)]] with weights := [] }, { rows := 2 }, { rows := 2 }, 8, 69, 0x20, 1, 0x40, by decide +kernel⟩
theorem witness_DmaTransfersMoveBytesInOrder_4 : ∃ (s : State) (site : Nat) (core : Nat) (q : Nat) (w : Work) (y : Slate) (i : IDesc) (is : List IDesc), let l := s.dq site core q; let u := (site * 256 + core) * 4 + q; let fs := (List.range l.flights.length).zip l.flights; s.queueAt site core q w y = true ∧ l.flights.all (fun f => f.more.isEmpty && (f.host || (!s.zeroing f.sp f.addr && s.ownsAt y.tenant f.sp f.addr))) = true ∧ fs.any (fun x => s.granted u x.1 x.2) = true ∧ l.descs = i :: is ∧ i.row < i.rows :=
  ⟨{ opBench [] [opRec [(0, 1, 1), (1, 1, 1), (3, 1, 1), (4, 4, 0x20), (12, 4, 0x40), (0x14, 4, 8), (0x18, 4, 2), (0x1C, 4, 8), (0x20, 4, 8)]] with dqs := [(22, { work := some (.stage 7), flights := [{ sp := 1, addr := 0x40, data := [1#8, 2#8] }], descs := [{ rows := 2, row := 1, flying := 1 }] })], slates := [(7, { opSlate [] [opRec [(0, 1, 1), (1, 1, 1), (3, 1, 1), (4, 4, 0x20), (12, 4, 0x40), (0x14, 4, 8), (0x18, 4, 2), (0x1C, 4, 8), (0x20, 4, 8)]] with weights := [] })] }, 0, 5, 2, .stage 7, { opSlate [] [opRec [(0, 1, 1), (1, 1, 1), (3, 1, 1), (4, 4, 0x20), (12, 4, 0x40), (0x14, 4, 8), (0x18, 4, 2), (0x1C, 4, 8), (0x20, 4, 8)]] with weights := [] }, { rows := 2, row := 1, flying := 1 }, [], by decide +kernel⟩
theorem witness_DmaTransfersMoveBytesInOrder_5 : ∃ (s : State) (site : Nat) (core : Nat) (q : Nat) (w : Work) (y : Slate) (f : Xfer) (i : IDesc), let d := decodeDesc (descAt y.cont (s.core site core).loc i.idx); s.queueAt site core q w y = true ∧ (s.dq site core q).flights = [f] ∧ f.more = [] ∧ (f.host = true ∨ s.zeroing f.sp f.addr = false ∧ s.ownsAt y.tenant f.sp f.addr = true) ∧ s.granted ((site * 256 + core) * 4 + q) 0 f = true ∧ (s.dq site core q).descs = [i] ∧ i.rows ≤ i.row ∧ i.flying = 1 ∧ f.serial = i.serial ∧ d.onDone = 1 ∧ refOk y (cFlags y.cont) d.doneRef = true ∧ s.staleDesc site i = false :=
  ⟨{ opBench [] [opRec [(0, 1, 1), (1, 1, 8), (3, 1, 1), (0x28, 4, 5), (4, 4, 0x20), (12, 4, 0x40), (0x14, 4, 8), (0x18, 4, 1)]] with dqs := [(22, { work := some (.stage 7), flights := [{ serial := 0, sp := 1, addr := 0x40, data := [1#8, 2#8] }], descs := [{ rows := 1, row := 1, flying := 1 }] })], slates := [(7, { opSlate [] [opRec [(0, 1, 1), (1, 1, 8), (3, 1, 1), (0x28, 4, 5), (4, 4, 0x20), (12, 4, 0x40), (0x14, 4, 8), (0x18, 4, 1)]] with weights := [] })] }, 0, 5, 2, .stage 7, { opSlate [] [opRec [(0, 1, 1), (1, 1, 8), (3, 1, 1), (0x28, 4, 5), (4, 4, 0x20), (12, 4, 0x40), (0x14, 4, 8), (0x18, 4, 1)]] with weights := [] }, { serial := 0, sp := 1, addr := 0x40, data := [1#8, 2#8] }, { rows := 1, row := 1, flying := 1 }, by decide +kernel⟩
theorem witness_DmaTransfersMoveBytesInOrder_6 : ∃ (s : State) (site : Nat) (core : Nat) (q : Nat) (w : Work) (y : Slate) (i : IDesc), let d := decodeDesc (descAt y.cont (s.core site core).loc i.idx); let dests := (s.workCores w).filter (fun x => x.1 / 64 == (s.core site core).loc / 64 && d.mask / 2 ^ (x.1 % 64) % 2 == 1); let src := d.src + i.row * d.srcStride + i.col; let dst := d.dst + i.row * d.rowBytes + i.col; let n := min (d.rowBytes - i.col) (min (4096 - src % 4096) (4096 - dst % 4096)); let bays := (dests.map (fun x => x.2.2 / 16)).eraseDups; let f : Xfer := { serial := i.serial, sp := ((dests.map (fun x => spCore x.2.1 x.2.2)).headD (spCore site core)), addr := dst, data := if dests.isEmpty then [] else (y.weights.drop src).take n, issued := s.now, more := (dests.map (fun x => (spCore x.2.1 x.2.2, dst))).drop 1, heads := max 1 bays.length, point := bays.head?.map (fun b => site * 64 + 48 + b), share := bucketOf site site 0 }; s.queueAt site core q w y = true ∧ (s.dq site core q).next = some i ∧ d.kind = 2 ∧ (s.dq site core q).halted = false ∧ (s.dq site core q).flights.length < max 1 (cDmaOut y.cont q) ∧ s.merges site y.cont (s.core site core).loc (s.dq site core q) i f = false ∧ s.hasPlace site ((site * 256 + core) * 4 + q) f.heads false = true ∧ dst + n ≤ cCs y.cont ∧ y.weights ≠ [] ∧ s.spent y ((s.core site core).loc / 64) (bucketOf site site 0) + n * 320000 ≤ 65536 * 320000 :=
  ⟨{ opBench [] [opRec [(0, 1, 2), (4, 4, 0), (12, 4, 0x40), (0x14, 4, 8), (0x18, 4, 1), (0x30, 8, 1)]] with dqs := [(22, { work := some (.stage 7), descs := [{ rows := 1 }] })], slates := [(7, { opSlate [] [opRec [(0, 1, 2), (4, 4, 0), (12, 4, 0x40), (0x14, 4, 8), (0x18, 4, 1), (0x30, 8, 1)]] with weights := [1#8, 2#8, 3#8] })] }, 0, 5, 2, .stage 7, { opSlate [] [opRec [(0, 1, 2), (4, 4, 0), (12, 4, 0x40), (0x14, 4, 8), (0x18, 4, 1), (0x30, 8, 1)]] with weights := [1#8, 2#8, 3#8] }, { rows := 1 }, by decide +kernel⟩
theorem witness_DmaTransfersMoveBytesInOrder_7 : ∃ (s : State) (site : Nat) (core : Nat) (q : Nat) (w : Work) (y : Slate) (f : Xfer) (i : IDesc) (is : List IDesc), let ms := (f.sp, f.addr) :: f.more; s.queueAt site core q w y = true ∧ (s.dq site core q).flights = [f] ∧ f.host = false ∧ s.zeroing f.sp f.addr = false ∧ s.ownsAt y.tenant f.sp f.addr = true ∧ s.granted ((site * 256 + core) * 4 + q) 0 f = true ∧ (s.dq site core q).descs = i :: is ∧ i.row < i.rows ∧ (ms.map (fun m => m.1)).Nodup ∧ ms.all (fun m => decide (m.2 + f.data.length ≤ 2 ^ 48)) = true :=
  ⟨{ opBench [] [opRec [(0, 1, 2), (4, 4, 0), (12, 4, 0x40), (0x14, 4, 8), (0x18, 4, 1), (0x30, 8, 1)]] with dqs := [(22, { work := some (.stage 7), flights := [{ sp := 69, addr := 0x40, data := [1#8, 2#8], more := [(70, 0x40), (71, 0x40)], point := some 48 }], descs := [{ rows := 2, row := 1, flying := 1 }] })], slates := [(7, { opSlate [] [opRec [(0, 1, 2), (4, 4, 0), (12, 4, 0x40), (0x14, 4, 8), (0x18, 4, 1), (0x30, 8, 1)]] with weights := [] })] }, 0, 5, 2, .stage 7, { opSlate [] [opRec [(0, 1, 2), (4, 4, 0), (12, 4, 0x40), (0x14, 4, 8), (0x18, 4, 1), (0x30, 8, 1)]] with weights := [] }, { sp := 69, addr := 0x40, data := [1#8, 2#8], more := [(70, 0x40), (71, 0x40)], point := some 48 }, { rows := 2, row := 1, flying := 1 }, [], by decide +kernel⟩
theorem witness_DmaErrorsAndCancellation_1 : ∃ (s : State) (site : Nat) (core : Nat) (q : Nat) (t0 : Nat) (k : Nat) (n0 : Nat) (y : Slate) (e : Entry) (f : Xfer), s.queueAt site core q (.take t0 k n0) y = true ∧ s.findEntry t0 k n0 = some e ∧ f ∈ (s.dq site core q).flights ∧ (s.dq site core q).halted = false ∧ f.issued + 400000 ≤ s.now :=
  ⟨{ takeBench [] [] with now := 400000, dqs := [(20, { work := some (.take 0 1 0), flights := [{ serial := 1 }] })] }, 0, 5, 0, 0, 1, 0, opSlate [] [], { n := 0, op := 1, slate := 7, st := 1, cores := [(0, 0, 5)], epoch := 3 }, { serial := 1 }, by decide +kernel⟩
theorem witness_DmaErrorsAndCancellation_2 : ∃ (s : State) (site : Nat) (core : Nat) (q : Nat) (t0 : Nat) (k : Nat) (n0 : Nat) (y : Slate) (e : Entry), s.queueAt site core q (.take t0 k n0) y = true ∧ s.findEntry t0 k n0 = some e ∧ (s.dq site core q).flights ≠ [] :=
  ⟨{ takeBench [] [] with dqs := [(20, { work := some (.take 0 1 0), flights := [{ serial := 1 }] })] }, 0, 5, 0, 0, 1, 0, opSlate [] [], { n := 0, op := 1, slate := 7, st := 1, cores := [(0, 0, 5)], epoch := 3 }, by decide +kernel⟩
theorem witness_DmaErrorsAndCancellation_3 : ∃ (s : State) (site : Nat) (core : Nat) (t0 : Nat) (k : Nat) (n0 : Nat) (e : Entry) (d : Nat × DQ), s.dieUp site = true ∧ core < 64 ∧ s.dqs.find? (fun d => d.1 / 1024 == site && d.2.flights.any (fun f => f.onChain site (core / 16))) = some d ∧ d.2.work = some (.take t0 k n0) ∧ s.findEntry t0 k n0 = some e :=
  ⟨{ takeBench [] [] with dqs := [(20, { work := some (.take 0 1 0), flights := [{ serial := 1, sp := 69, point := some 48 }] })] }, 0, 6, 0, 1, 0, { n := 0, op := 1, slate := 7, st := 1, cores := [(0, 0, 5)], epoch := 3 }, (20, { work := some (.take 0 1 0), flights := [{ serial := 1, sp := 69, point := some 48 }] }), by decide +kernel⟩
theorem witness_DmaErrorsAndCancellation_4 : ∃ (s : State) (req : Nat) (site : Nat) (val : Word), s.takes 0x45 req site 9 0x54 = true ∧ val = 1#32 :=
  ⟨poke bench [(movePage 0 + 0x40, 0x50003)], 0, 0, 1#32, by decide +kernel⟩
theorem witness_DmaErrorsAndCancellation_5 : ∃ (s : State) (epoch : Nat) (p : Nat × Slate), s.slates.find? (fun x => x.2.kind == 2 && x.2.running && x.2.epoch == epoch) = some p ∧ s.slate p.2.handle = some p.2 :=
  ⟨opBench [] [], 3, (7, opSlate [] []), by decide +kernel⟩
theorem witness_DmaErrorsAndCancellation_6 : ∃ (s : State) (epoch : Nat) (k : Nat) (e : Entry), (s.slates.all (fun x => !(x.2.kind == 2 && x.2.running && x.2.epoch == epoch))) = true ∧ (List.range 128).find? (fun k => (s.tq (k / 8) (k % 8)).entries.any (fun e => (e.st == 1 || e.st == 2) && e.epoch == epoch)) = some k ∧ (s.tq (k / 8) (k % 8)).entries.find? (fun e => (e.st == 1 || e.st == 2) && e.epoch == epoch) = some e ∧ s.findEntry (k / 8) (k % 8) e.n = some e :=
  ⟨{ takeBench [] [] with slates := [] }, 3, 1, { n := 0, op := 1, slate := 7, st := 1, cores := [(0, 0, 5)], epoch := 3 }, by decide +kernel⟩
theorem witness_MmuCommandsAndMailboxRequests_1 : ∃ (s : State) (req : Nat) (n : Nat) (val : Word), n < 16 ∧ s.takes 0x0A req 8 (0x40 + n) 0x54 = true ∧ (s.isMember && s.ensSt == 2) = false ∧ bitOf val 0 = true ∧ bitOf val 1 = false :=
  ⟨bench, 0, 3, 1#32, by decide +kernel⟩
theorem witness_MmuCommandsAndMailboxRequests_2 : ∃ (s : State) (req : Nat) (n : Nat) (val : Word) (id : Nat) (t0 : Nat) (k : Nat) (n0 : Nat) (u : HUnit), n < 16 ∧ s.takes 0x0A req 8 (0x40 + n) 0x54 = true ∧ (s.isMember && s.ensSt == 2) = false ∧ bitOf val 1 = true ∧ bitOf val 2 = false ∧ bitOf val 0 = false ∧ fld val 8 5 = id ∧ s.fltValid n id = true ∧ id < 32 ∧ (s.mmu n).units = [u] ∧ u.slot = some id ∧ u.work = some (.take t0 k n0) ∧ s.workTenant (.take t0 k n0) = n ∧ u.kind ≤ 1 ∧ (match s.translate n u.ta u.write .stack with | .absent _ => false | _ => true) = true :=
  ⟨poke ({ takeBench [] [] with mmus := [(0, { units := [{ slot := some 1, kind := 0, site := 0, unit := 20, ta := 0x1000, work := some (.take 0 1 0) }] })], hmem := [(0x1000, 0x01#8), (0x1001, 0x20#8), (0x2000, 0x17#8)], dqs := [(20, { work := some (.take 0 1 0), halted := true })], tqs := [(1, { entries := [{ n := 0, op := 1, slate := 7, st := 2, cores := [(0, 0, 5)], epoch := 3 }] })] }) [(mmuPage 0 + 0x110, 0x1005), (mmuPage 0 + 0x114, 0), (mmuPage 0 + 0x11C, 0x1000000), (mmuPage 0 + 0x40, 0x1000), (mmuPage 0 + 0xC, 4)], 0, 0, 0x102#32, 1, 0, 1, 0, { slot := some 1, kind := 0, site := 0, unit := 20, ta := 0x1000, work := some (.take 0 1 0) }, by decide +kernel⟩
theorem witness_MmuCommandsAndMailboxRequests_3 : ∃ (s : State) (req : Nat) (n : Nat) (val : Word) (id : Nat) (t0 : Nat) (k : Nat) (n0 : Nat) (u : HUnit) (e : Entry), n < 16 ∧ s.takes 0x0A req 8 (0x40 + n) 0x54 = true ∧ (s.isMember && s.ensSt == 2) = false ∧ bitOf val 1 = true ∧ bitOf val 2 = true ∧ bitOf val 0 = false ∧ fld val 8 5 = id ∧ s.fltValid n id = true ∧ id < 32 ∧ (s.mmu n).units = [u] ∧ u.slot = some id ∧ u.work = some (.take t0 k n0) ∧ s.workTenant (.take t0 k n0) = n ∧ s.findEntry t0 k n0 = some e :=
  ⟨poke ({ takeBench [] [] with mmus := [(0, { units := [{ slot := some 1, kind := 0, site := 0, unit := 20, ta := 0x1000, work := some (.take 0 1 0) }] })], tqs := [(1, { entries := [{ n := 0, op := 1, slate := 7, st := 2, cores := [(0, 0, 5)], epoch := 3 }] })] }) [(mmuPage 0 + 0x110, 0x1005), (mmuPage 0 + 0x114, 0), (mmuPage 0 + 0x11C, 0x1000000)], 0, 0, 0x106#32, 1, 0, 1, 0, { slot := some 1, kind := 0, site := 0, unit := 20, ta := 0x1000, work := some (.take 0 1 0) }, { n := 0, op := 1, slate := 7, st := 2, cores := [(0, 0, 5)], epoch := 3 }, by decide +kernel⟩
theorem witness_MmuCommandsAndMailboxRequests_4 : ∃ (s : State) (req : Nat) (n : Nat) (val : Word), n < 16 ∧ s.takes 0x0A req 8 (0x40 + n) 0x54 = true ∧ (s.isMember && s.ensSt == 2) = false ∧ bitOf val 1 = true ∧ s.fltValid n (fld val 8 5) = false ∧ bitOf val 2 = false :=
  ⟨bench, 0, 3, 2#32, by decide +kernel⟩
theorem witness_MmuCommandsAndMailboxRequests_5 : ∃ (s : State) (n : Nat), n < 16 ∧ s.ready = true ∧ s.isMember = false ∧ s.regFld (mbPage n + 0x44) 0 2 = 1 ∧ s.regFld (mbPage n + 0x100) 0 16 = 32 ∧ s.regFld (mbPage n + 0x100) 16 16 = 8 ∧ s.hasSlates n = false ∧ ((List.range 8).any (fun q => s.st (tqPage n q) != 0)) = false ∧ s.restarting 8 = false :=
  ⟨mbBench 3 32 8 [0x5000, 1], 3, by decide +kernel⟩
theorem witness_MmuCommandsAndMailboxRequests_6 : ∃ (s : State) (x : Nat), s.ready = true ∧ s.isMember = false ∧ s.regFld (mbPage 0 + 0x44) 0 2 = 1 ∧ s.regFld (mbPage 0 + 0x100) 0 16 = 32 ∧ s.regFld (mbPage 0 + 0x100) 16 16 = 9 ∧ s.mbArg 0 8 1 = x ∧ x < 16 ∧ s.hasSlates x = false ∧ ((List.range 8).any (fun q => s.st (tqPage x q) != 0)) = false ∧ s.restarting 8 = false :=
  ⟨mbBench 0 32 9 [0x5000, 1, 3], 3, by decide +kernel⟩
theorem witness_MmuCommandsAndMailboxRequests_7 : ∃ (s : State) (n : Nat), n < 16 ∧ s.ready = true ∧ s.isMember = false ∧ s.regFld (mbPage n + 0x44) 0 2 = 1 ∧ s.regFld (mbPage n + 0x100) 0 16 = 32 ∧ s.regFld (mbPage n + 0x100) 16 16 = 8 ∧ s.hasSlates n = true ∧ s.restarting 8 = false :=
  ⟨{ mbBench 3 32 8 [0x5000] with slates := [(7, { handle := 7, tenant := 3 })] }, 3, by decide +kernel⟩
theorem witness_MmuCommandsAndMailboxRequests_8 : ∃ (s : State) (n : Nat), n < 16 ∧ s.ready = true ∧ s.isMember = false ∧ s.regFld (mbPage n + 0x44) 0 2 = 1 ∧ s.regFld (mbPage n + 0x100) 0 16 = 33 ∧ s.regFld (mbPage n + 0x100) 16 16 = 12 ∧ s.restarting 8 = false :=
  ⟨mbBench 3 33 12 [0x5000, 1, 3], 3, by decide +kernel⟩
theorem witness_MmuCommandsAndMailboxRequests_9 : ∃ (s : State) (n : Nat), s.mainOk = true ∧ n < 16 ∧ s.regBit (mmuPage n + 0x58) 0 = true ∧ (s.dqs.any (fun d => !d.2.flights.isEmpty && (match d.2.work with | some w => s.workTenant w == n | none => false))) = false ∧ (s.mmu n).waiter = true ∧ (s.mmu n).units = [] ∧ (s.engs.any (fun e => e.2.busy && e.2.writes.any (fun w => w.1 == spStack) && e.2.lastTenant == some n)) = false :=
  ⟨{ poke (mbBench 3 33 12 [0x5000, 1, 3]) [(mmuPage 3 + 0x58, 1)] with mmus := [(3, { waiter := true })] }, 3, by decide +kernel⟩
theorem witness_MmuCommandsAndMailboxRequests_10 : ∃ (s : State) (n : Nat), n < 16 ∧ s.ready = true ∧ s.isMember = false ∧ s.regFld (mbPage n + 0x44) 0 2 = 1 ∧ s.regFld (mbPage n + 0x100) 0 16 = 34 ∧ s.regFld (mbPage n + 0x100) 16 16 = 0 ∧ s.restarting 8 = false :=
  ⟨poke (mbBench 3 34 0 []) [(mmuPage 3 + 0x110, 1)], 3, by decide +kernel⟩
theorem witness_MmuCommandsAndMailboxRequests_11 : ∃ (s : State) (n : Nat), n < 16 ∧ s.ready = true ∧ s.isMember = false ∧ s.regFld (mbPage n + 0x44) 0 2 = 1 ∧ s.regFld (mbPage n + 0x100) 0 16 = 35 ∧ s.regFld (mbPage n + 0x100) 16 16 = 2 ∧ s.fltValid n (s.mbArg n 0 1) = true ∧ s.mbArg n 0 1 < 32 ∧ s.mbArg n 1 1 = 0 ∧ (s.mmu n).units = [] ∧ s.restarting 8 = false :=
  ⟨poke (mbBench 3 35 2 [1]) [(mmuPage 3 + 0x110, 1)], 3, by decide +kernel⟩
theorem witness_MmuCommandsAndMailboxRequests_12 : ∃ (s : State) (n : Nat), n < 16 ∧ s.ready = true ∧ s.isMember = false ∧ s.regFld (mbPage n + 0x44) 0 2 = 1 ∧ s.regFld (mbPage n + 0x100) 0 16 = 35 ∧ s.regFld (mbPage n + 0x100) 16 16 = 2 ∧ s.fltValid n (s.mbArg n 0 1) = false ∧ s.restarting 8 = false :=
  ⟨mbBench 3 35 2 [1], 3, by decide +kernel⟩
theorem witness_GranulesChangeHandsZeroed_1 : ∃ (s : State) (req : Nat) (i : Nat), s.takes 0x0B req 8 5 0x50 = true ∧ s.granBusy = none ∧ s.regFld (memPage + 0x4C) 0 16 = i ∧ i * 2 ^ 21 < dpaTenantEnd s.asm :=
  ⟨poke bench [(memPage + 0x4C, 5)], 0, 5, by decide +kernel⟩
theorem witness_GranulesChangeHandsZeroed_2 : ∃ (s : State) (req : Nat) (i : Nat), s.takes 0x0B req 8 5 0x50 = true ∧ s.granBusy = some i :=
  ⟨{ bench with granBusy := some 5 }, 0, 5, by decide +kernel⟩
theorem witness_GranulesChangeHandsZeroed_3 : ∃ (s : State) (i : Nat), s.mainOk = true ∧ s.granBusy = some i :=
  ⟨{ bench with granBusy := some 5, ram := [(ramKey spStack (5 * 2 ^ 21), 1#8), (ramKey spStack (6 * 2 ^ 21), 1#8)] }, 5, by decide +kernel⟩
theorem witness_MemoryErrorsPoisonAndTakeDiesDown_1 : ∃ (s : State) (site : Nat) (kind : Nat), 1 ≤ kind ∧ kind ≤ 4 ∧ s.dieUp site = true :=
  ⟨bench, 0, 4, by decide +kernel⟩
theorem witness_MemoryErrorsPoisonAndTakeDiesDown_2 : ∃ (s : State) (site : Nat) (unit : Nat), s.stackAt site unit = true ∧ (s.reg (memPage + 0x54)).toNat ≤ 1 :=
  ⟨poke bench [(memPage + 0x54, 1)], 0, 0, by decide +kernel⟩
theorem witness_MemoryErrorsPoisonAndTakeDiesDown_3 : ∃ (s : State) (site : Nat) (addr : Nat), s.mainOk = true ∧ addr < dpaEnd s.asm ∧ s.dpaSite addr = site :=
  ⟨bench, 0, 0x40, by decide +kernel⟩
theorem witness_MemoryErrorsPoisonAndTakeDiesDown_4 : ∃ (s : State) (site : Nat), s.dieUp site = true :=
  ⟨bench, 0, by decide +kernel⟩
theorem witness_MemoryErrorsPoisonAndTakeDiesDown_5 : ∃ (s : State) (site : Nat), s.dieUp site = true :=
  ⟨bench, 0, by decide +kernel⟩
theorem witness_MemoryErrorsPoisonAndTakeDiesDown_6 : ∃ (s : State) (site : Nat) (addr : Nat), s.dieUp site = true ∧ addr / 2 ^ 24 < 6 ∧ addr % 2 ^ 24 < 2 ^ 19 :=
  ⟨bench, 0, 0x2000040, by decide +kernel⟩
theorem witness_MemoryErrorsPoisonAndTakeDiesDown_7 : ∃ (s : State) (site : Nat) (addr : Nat) (p : Nat × Slate), s.dieUp site = true ∧ s.slates.find? (fun x => x.2.state != 3 && x.2.groups.any (fun g => g.site == site && decide (g.flag ≤ addr) && decide (addr < g.flag + cFlags x.2.cont))) = some p ∧ p.2.kind = 2 ∧ s.slate p.2.handle = some p.2 :=
  ⟨opBench [] [], 0, 3, (7, opSlate [] []), by decide +kernel⟩
theorem witness_MemoryErrorsPoisonAndTakeDiesDown_8 : ∃ (s : State) (site : Nat) (ctl : Nat), let i := tabGet 0 s.scrubs (site * 2 + ctl); s.stackAt site ctl = true ∧ i + 1 < 2 ^ 28 :=
  ⟨bench, 0, 0, by decide +kernel⟩
theorem witness_MemoryErrorsPoisonAndTakeDiesDown_9 : ∃ (s : State) (site : Nat) (ctl : Nat), s.stackAt site ctl = true ∧ tabGet 0 s.scrubs (site * 2 + ctl) + 1 = 2 ^ 28 :=
  ⟨{ bench with scrubs := [(0, 0xFFFFFFF)] }, 0, 0, by decide +kernel⟩
theorem witness_MemoryErrorsPoisonAndTakeDiesDown_10 : ∃ (s : State) (site : Nat) (n : Nat), s.dieUp site = true ∧ n ≤ 8 :=
  ⟨bench, 0, 8, by decide +kernel⟩
theorem witness_MemoryErrorsPoisonAndTakeDiesDown_11 : ∃ (s : State) (site : Nat) (n : Nat), s.dieUp site = true ∧ 8 < n ∧ s.st memPage ≠ 5 :=
  ⟨bench, 0, 9, by decide +kernel⟩
theorem witness_MemoryErrorsPoisonAndTakeDiesDown_12 : ∃ (s : State) (site : Nat), s.mainDie site = true ∧ s.siteUp site = true ∧ s.mainOk = true :=
  ⟨takeBench [] [], 0, by decide +kernel⟩
theorem witness_MemoryErrorsPoisonAndTakeDiesDown_13 : ∃ (s : State) (site : Nat), s.mainDie site = true ∧ s.mainOk = true ∧ s.siteUp site = false ∧ s.ready = true :=
  ⟨poke bench [(pg 8 0 + 0x4C, 0)], 0, by decide +kernel⟩
theorem witness_MemoryErrorsPoisonAndTakeDiesDown_14 : ∃ (s : State) (code : Nat), 0x0100 ≤ code ∧ code ≤ 0x0102 ∧ s.mainOk = true ∧ s.st memPage ≠ 5 :=
  ⟨takeBench [] [], 0x0101, by decide +kernel⟩
theorem witness_EnginesRunUnits_1 : ∃ (s : State) (site : Nat) (e : Nat) (y : Slate), let x := s.eng site e; let j := decodeJob x.job; let lag := jobLag y.cont x.group 4 j; let b := x.base.getD (x.unit, 0); let stripe := b.2 + (x.unit - b.1) * j.rows; let from_ := x.next.headD b.2; let n := if from_ + j.kh / 2 ≤ stripe + j.rows - 1 - lag then stripe + j.rows - 1 - lag - j.kh / 2 + 1 - from_ else 0; s.engineAt site e 0 y = true ∧ s.stripeReady x y j = true ∧ ((List.range n).all (fun i => decide ((from_ + i + lag + j.kh / 2 - stripe) * j.outStride + j.width * vPix j.fout ≤ (s.unitOutput y x j).2.2))) = true ∧ s.linePoison site e j = [] :=
  ⟨engBench 0 [(2, 1, 0), (4, 4, 0x100), (8, 4, 4), (0xC, 4, 0x200), (0x10, 4, 4), (0x14, 2, 4), (0x16, 2, 2), (0x1C, 4, 0xFFFFFFFF), (1, 1, 3), (0x28, 4, 100), (0x30, 1, 3), (0x31, 1, 3), (0x24, 4, 1)] {}, 0, 0, opSlate [] [], by decide +kernel⟩
theorem witness_EnginesRunUnits_2 : ∃ (s : State) (site : Nat) (e : Nat) (y : Slate) (ps : List (List (Nat × Nat × Nat))), let x := s.eng site e; let j := decodeJob x.job; let b := x.base.getD (x.unit, 0); let first := b.2 + (x.unit - b.1) * j.rows; let lag := jobLag y.cont x.group 4 j; let r := pyrAll j.width b.2 x.next (j.p 0 1) 0 (first + j.rows - lag) (x.rows ++ s.unitRows x y j); let ws := (r.1.filter (fun q => if q.1 = 0 then decide (first - lag ≤ q.2.1) else decide (x.next.getD (q.1 - 1) 0 ≤ q.2.1))).filter (fun q => decide (0 < (j.lvl y.cont q.1).rows)); s.engineAt site e 1 y = true ∧ s.stripeReady x y j = true ∧ s.levelsAt y x.group true (ws.map (fun q => (j.lvl y.cont q.1, q.2.1, q.2.2.length * vPix j.fout))) ps = true ∧ s.linePoison site e j = [] :=
  ⟨engBench 2 [(0, 1, 1), (4, 4, 0x100), (8, 4, 4), (0x14, 2, 4), (0x16, 2, 4), (0x1C, 4, 0xFFFFFFFF), (0x28, 4, 100), (0x30, 1, 1), (0x24, 4, 1)] {}, 0, 2, opSlate [] [], [], by decide +kernel⟩
theorem witness_EnginesRunUnits_3 : ∃ (s : State) (site : Nat) (e : Nat) (y : Slate) (h : Nat) (rest : List Nat), let x := s.eng site e; let j := decodeJob x.job; let q := y.cueAt (j.trigIn / 2 ^ 16 % 2 ^ 12) (j.trigIn % 64); let d := decodeFDesc h; let nb := (blocksAt j.width j.lvlF j.bsz d.first d.last).1 * (blocksAt j.width j.lvlF j.bsz d.first d.last).2; s.engineAt site e 2 y = true ∧ x.busy = false ∧ s.unitOut y x j = true ∧ s.cueLive q.1 q.2 = h :: rest ∧ j.linesMin ≤ d.last + 1 - d.first ∧ d.last + 1 - d.first ≤ j.linesMax ∧ d.valid = false ∧ (matchSlot (List.replicate nb (0, 0)) (List.replicate nb (0, 8))).length ≤ (s.unitOutput y x j).2.2 ∧ s.linePoison site e j = [] :=
  ⟨{ engBench 4 [(0, 1, 2), (2, 1, 0), (0xC, 4, 0x200), (0x14, 2, 16), (0x1C, 4, 0xFFFFFFFF), (0x28, 4, 100), (0x32, 1, 8), (0x33, 1, 1), (0x34, 1, 1), (0x35, 1, 1), (0x36, 1, 1), (0x3C, 2, 1), (0x3E, 2, 16), (0x24, 4, 1)] {} with cueQs := [(0, [leNat (leBytes 8 0 ++ fields 64 [(4, 6, 0), (10, 6, 7)])])] }, 0, 4, opSlate [] [], leNat (leBytes 8 0 ++ fields 64 [(4, 6, 0), (10, 6, 7)]), [], by decide +kernel⟩
theorem witness_EnginesRunUnits_4 : ∃ (s : State) (site : Nat) (e : Nat) (y : Slate) (h : Nat) (rest : List Nat), let x := s.eng site e; let j := decodeJob x.job; let q := y.cueAt (j.trigIn / 2 ^ 16 % 2 ^ 12) (j.trigIn % 64); let d := decodeFDesc h; let n := cdiv (lvlWidth j.width j.lvlF) j.bsz * cdiv (cdiv j.linesMax (2 ^ j.lvlF)) j.bsz; s.engineAt site e 2 y = true ∧ x.busy = false ∧ s.unitOut y x j = true ∧ s.linePoison site e j = [] ∧ s.cueLive q.1 q.2 = h :: rest ∧ (d.last + 1 - d.first < j.linesMin ∨ j.linesMax < d.last + 1 - d.first) ∧ d.valid = false ∧ (matchSlot (List.replicate n (0, 0)) (List.replicate n (0, 40))).length ≤ (s.unitOutput y x j).2.2 :=
  ⟨{ engBench 4 [(0, 1, 2), (2, 1, 0), (0xC, 4, 0x200), (0x14, 2, 16), (0x1C, 4, 0xFFFFFFFF), (0x28, 4, 100), (0x32, 1, 8), (0x33, 1, 1), (0x34, 1, 1), (0x35, 1, 1), (0x36, 1, 1), (0x3C, 2, 9), (0x3E, 2, 16), (0x24, 4, 1)] {} with cueQs := [(0, [leNat (leBytes 8 0 ++ fields 64 [(4, 6, 0), (10, 6, 7)])])] }, 0, 4, opSlate [] [], leNat (leBytes 8 0 ++ fields 64 [(4, 6, 0), (10, 6, 7)]), [], by decide +kernel⟩
theorem witness_EnginesRunUnits_5 : ∃ (s : State) (site : Nat) (e : Nat) (y : Slate) (h : Nat) (rest : List Nat) (ps : List (List (Nat × Nat × Nat))), let x := s.eng site e; let j := decodeJob x.job; let q := y.cueAt (j.trigIn / 2 ^ 16 % 2 ^ 12) (j.trigIn % 64); let d := decodeFDesc h; let ls := (List.range (j.lvlC + 1 - j.lvlF)).map (fun i => j.lvlF + i); let l := j.lvlF; let reqs := ls.flatMap (matchRows j y.cont d); let lev := ls.flatMap (fun m => List.replicate (matchRows j y.cont d m).length m); let rows := fun (n : Nat) => ((List.range reqs.length).filter (fun i => lev.getD i 0 == n)).map (fun i => rowPix j.fin (lvlWidth j.width n) (s.gather (ps.getD i []))); let img := fun (n : Nat) => (({ rows := (rows n).take (d.last / 2 ^ n + 1 - d.first / 2 ^ n), w := lvlWidth j.width n } : Img), ({ rows := (rows n).drop (d.last / 2 ^ n + 1 - d.first / 2 ^ n), w := lvlWidth j.width n } : Img)); let cur := (img l).1; let ref := (img l).2; let fs := matchLevels j img (fun _ _ => (rneDiv d.dy (2 ^ (8 + j.lvlC)), rneDiv d.dx (2 ^ (8 + j.lvlC)))) (j.lvlC - j.lvlF) l; let m := fs.map (fun f => ((satPix 2 (f.vec.1 * 2 ^ l)).1, (satPix 2 (f.vec.2 * 2 ^ l)).1)); let cf := (List.range fs.length).map (fun i => confFlags j (fs.getD i {}) (backward j cur ref (cur.block j.bsz i) (fs.getD i {})) (decide ((cur.block j.bsz i).2.2.1 < j.bsz) || decide ((cur.block j.bsz i).2.2.2 < j.bsz))); s.engineAt site e 2 y = true ∧ x.busy = false ∧ s.unitOut y x j = true ∧ s.cueLive q.1 q.2 = h :: rest ∧ j.linesMin ≤ d.last + 1 - d.first ∧ d.last + 1 - d.first ≤ j.linesMax ∧ d.valid = true ∧ (reqs.all (fun r => r.1.rows != 0)) = true ∧ s.levelsAt y x.group false reqs ps = true ∧ (ps.all (fun p => p.all (fun r => !s.poisoned r.1 r.2.1 r.2.2))) = true ∧ (matchSlot m cf).length ≤ (s.unitOutput y x j).2.2 ∧ s.linePoison site e j = [] :=
  ⟨{ engBench 4 [(0, 1, 2), (2, 1, 0), (0xC, 4, 0x200), (0x14, 2, 16), (0x1C, 4, 0xFFFFFFFF), (0x28, 4, 100), (0x32, 1, 8), (0x33, 1, 1), (0x34, 1, 1), (0x35, 1, 1), (0x36, 1, 1), (0x3C, 2, 1), (0x3E, 2, 16), (0x24, 4, 1)] {} with cueQs := [(0, [leNat (leBytes 8 0 ++ fields 64 [(4, 6, 0), (10, 6, 7), (16, 6, 8), (22, 6, 15), (28, 1, 1)])])], slates := [(7, { opSlate [] [] with cont := (contOf [] []) |> fun b => patch (patch b 0x10 (leBytes 2 3)) 0xA0 (leBytes 2 5 ++ leBytes 2 0 ++ leBytes 4 0xC0 ++ leBytes 4 32) |> fun b => b ++ leBytes 8 0x300 ++ leBytes 4 16 ++ leBytes 2 16 ++ leBytes 2 1 })] }, 0, 4, { opSlate [] [] with cont := (contOf [] []) |> fun b => patch (patch b 0x10 (leBytes 2 3)) 0xA0 (leBytes 2 5 ++ leBytes 2 0 ++ leBytes 4 0xC0 ++ leBytes 4 32) |> fun b => b ++ leBytes 8 0x300 ++ leBytes 4 16 ++ leBytes 2 16 ++ leBytes 2 1 }, leNat (leBytes 8 0 ++ fields 64 [(4, 6, 0), (10, 6, 7), (16, 6, 8), (22, 6, 15), (28, 1, 1)]), [], (List.range 8).map (fun i => [(1, 0x300 + 16 * i, 16)]) ++ (List.range 8).map (fun i => [(1, 0x380 + 16 * i, 16)]), by decide +kernel⟩
theorem witness_UnitsComplete_1 : ∃ (s : State) (site : Nat) (e : Nat) (y : Slate) (wr : Nat × Nat × List Byte), let x := s.eng site e; let j := decodeJob x.job; s.engineAt site e (e / 2) y = true ∧ x.busy = true ∧ x.cost ≤ j.cyc ∧ (x.used.all (fun ep => !s.cancelled site ep)) = true ∧ x.writes = [wr] ∧ s.zeroing wr.1 wr.2.1 = false ∧ s.ownsAt y.tenant wr.1 wr.2.1 = true :=
  ⟨engBench 0 [(2, 1, 0), (4, 4, 0x100), (8, 4, 4), (0xC, 4, 0x200), (0x10, 4, 4), (0x14, 2, 4), (0x16, 2, 2), (0x1C, 4, 0xFFFFFFFF), (1, 1, 3), (0x28, 4, 100), (0x30, 1, 3), (0x31, 1, 3), (0x24, 4, 1)] { busy := true, cost := 40, used := [0], writes := [(1, 0x200, [1#8, 2#8])] }, 0, 0, opSlate [] [], (1, 0x200, [1#8, 2#8]), by decide +kernel⟩
theorem witness_UnitsComplete_2 : ∃ (s : State) (site : Nat) (e : Nat) (y : Slate), let x := s.eng site e; s.engineAt site e (e / 2) y = true ∧ x.busy = true ∧ s.bndTaken.contains (workKey (.stage x.handle)) = false :=
  ⟨engBench 0 [(2, 1, 0), (4, 4, 0x100), (8, 4, 4), (0xC, 4, 0x200), (0x10, 4, 4), (0x14, 2, 4), (0x16, 2, 2), (0x1C, 4, 0xFFFFFFFF), (1, 1, 3), (0x28, 4, 100), (0x30, 1, 3), (0x31, 1, 3), (0x24, 4, 1)] { busy := true, cost := 40, used := [0], writes := [(1, 0x200, [1#8, 2#8])] }, 0, 0, opSlate [] [], by decide +kernel⟩
theorem witness_UnitsComplete_3 : ∃ (s : State) (req : Nat) (site : Nat) (e : Nat) (val : Word), e < 6 ∧ s.takes (0x49 + e / 2) req site (0x60 + e) 0x58 = true ∧ val = 1#32 :=
  ⟨bench, 0, 0, 5, 1#32, by decide +kernel⟩
theorem witness_LineReadoutClockAndAlignment_1 : ∃ (s : State) (site : Nat) (g : Nat) (tap : Nat) (words : List Nat) (cap : Cap), s.isField site = true ∧ g < 8 ∧ (s.gate site g).cur = some cap ∧ cap.trig + fld (cap.cfg.getD 3 0#32) 0 16 ≤ s.now ∧ s.now ≤ cap.trig + fld (cap.cfg.getD 3 0#32) 16 16 ∧ tap < capTaps cap.cfg ∧ words.length = capPixels cap.cfg * capPlanes cap.cfg / capTaps cap.cfg ∧ (cap.taps.any (fun t => t.1 == tap)) = false :=
  ⟨{ poke bench [(gatePage 11 1 + 0xC, 2), (gatePage 11 1 + 0xA4, 5)] with now := 150, gates := [(11 * 8 + 1, { cur := some { line := 41, trig := 100, taps := [], takers := [2], cfg := [0x200#32, 4#32, 0#32, 0x00640000#32, 1#32, 0x40000#32, 0#32, 0#32] } })] }, 11, 1, 0, [1, 2, 3, 4], { line := 41, trig := 100, taps := [], takers := [2], cfg := [0x200#32, 4#32, 0#32, 0x00640000#32, 1#32, 0x40000#32, 0#32, 0#32] }, by decide +kernel⟩
theorem witness_LineReadoutClockAndAlignment_2 : ∃ (s : State) (site : Nat) (g : Nat) (cap : Cap), s.isField site = true ∧ g < 8 ∧ (s.gate site g).cur = some cap ∧ cap.trig + fld (cap.cfg.getD 3 0#32) 16 16 < s.now :=
  ⟨{ poke bench [(gatePage 11 1 + 0xC, 2), (gatePage 11 1 + 0xA4, 5)] with now := 300, gates := [(11 * 8 + 1, { cur := some { line := 41, trig := 100, taps := [], takers := [2], cfg := [0x200#32, 4#32, 0#32, 0x00640000#32, 1#32, 0x40000#32, 0#32, 0#32] } })] }, 11, 1, { line := 41, trig := 100, taps := [], takers := [2], cfg := [0x200#32, 4#32, 0#32, 0x00640000#32, 1#32, 0x40000#32, 0#32, 0#32] }, by decide +kernel⟩
theorem witness_LineReadoutClockAndAlignment_3 : ∃ (s : State) (site : Nat) (g : Nat) (cap : Cap), s.isField site = true ∧ g < 8 ∧ (s.gate site g).cur = some cap ∧ cap.trig + fld (cap.cfg.getD 3 0#32) 16 16 ≤ s.now ∧ cap.retaken = false ∧ ((List.range (capTaps cap.cfg)).all (fun k => cap.taps.any (fun u => u.1 == k))) = true :=
  ⟨{ poke bench [(gatePage 11 1 + 0xC, 2), (gatePage 11 1 + 0xA4, 5)] with now := 300, gates := [(11 * 8 + 1, { cur := some { line := 41, trig := 100, taps := [(0, [1, 2, 3, 4])], takers := [2], cfg := [0x200#32, 4#32, 0#32, 0x00640000#32, 1#32, 0x40000#32, 0#32, 0#32] } })] }, 11, 1, { line := 41, trig := 100, taps := [(0, [1, 2, 3, 4])], takers := [2], cfg := [0x200#32, 4#32, 0#32, 0x00640000#32, 1#32, 0x40000#32, 0#32, 0#32] }, by decide +kernel⟩
theorem witness_LineReadoutClockAndAlignment_4 : ∃ (s : State) (site : Nat) (g : Nat) (cap : Cap), s.isField site = true ∧ g < 8 ∧ (s.gate site g).cur = some cap ∧ cap.trig + fld (cap.cfg.getD 3 0#32) 16 16 ≤ s.now ∧ cap.retaken = false ∧ capTaps cap.cfg = 4 ∧ (cap.taps.map (fun u => u.1)) = [0, 1, 3] ∧ s.regFld (gatePage site g + 0xA4) 4 2 < 2 :=
  ⟨{ poke bench [(gatePage 11 1 + 0xC, 2), (gatePage 11 1 + 0xA4, 5)] with now := 300, gates := [(11 * 8 + 1, { cur := some { line := 41, trig := 100, taps := [(0, []), (1, []), (3, [])], cfg := [0x202#32, 4#32, 0#32, 0x00640000#32] } })] }, 11, 1, { line := 41, trig := 100, taps := [(0, []), (1, []), (3, [])], cfg := [0x202#32, 4#32, 0#32, 0x00640000#32] }, by decide +kernel⟩
theorem witness_LineReadoutClockAndAlignment_5 : ∃ (s : State) (site : Nat) (g : Nat) (cap : Cap), s.isField site = true ∧ g < 8 ∧ (s.gate site g).cur = some cap ∧ cap.trig + fld (cap.cfg.getD 3 0#32) 16 16 ≤ s.now ∧ cap.retaken = false ∧ capTaps cap.cfg = 4 ∧ (cap.taps.map (fun u => u.1)) = [0, 1, 3] ∧ s.regFld (gatePage site g + 0xA4) 4 2 = 2 ∧ (s.gate site g).top ≠ 0 ∧ (s.gate site g).stopped = false ∧ (s.grp site g).retake = none :=
  ⟨{ poke bench [(gatePage 11 1 + 0xC, 2), (gatePage 11 1 + 0xA4, 5), (gatePage 11 1 + 0xA4, 0x25)] with now := 300, gates := [(11 * 8 + 1, { top := 42, cur := some { line := 41, trig := 100, taps := [(0, []), (1, []), (3, [])], cfg := [0x202#32, 4#32, 0#32, 0x00640000#32] } })] }, 11, 1, { line := 41, trig := 100, taps := [(0, []), (1, []), (3, [])], cfg := [0x202#32, 4#32, 0#32, 0x00640000#32] }, by decide +kernel⟩
theorem witness_LineReadoutClockAndAlignment_6 : ∃ (s : State) (site : Nat) (g : Nat), s.isField site = true ∧ g < 8 ∧ s.active (gatePage site g) = true ∧ s.regBit (gatePage site g + 0xA4) 2 = true :=
  ⟨{ poke bench [(gatePage 11 1 + 0xC, 2), (gatePage 11 1 + 0xA4, 5)] with now := 300, gates := [(11 * 8 + 1, {})] }, 11, 1, by decide +kernel⟩
theorem witness_LineReadoutClockAndAlignment_7 : ∃ (s : State) (site : Nat) (g : Nat), s.isField site = true ∧ g < 8 ∧ s.active (gatePage site g) = true ∧ s.regBit (gatePage site g + 0xA4) 2 = false :=
  ⟨{ poke bench [(gatePage 11 1 + 0xC, 2), (gatePage 11 1 + 0xA4, 5), (gatePage 11 1 + 0xA4, 0)] with now := 300, gates := [(11 * 8 + 1, {})] }, 11, 1, by decide +kernel⟩
theorem witness_LineReadoutClockAndAlignment_8 : ∃ (s : State) (site : Nat) (g : Nat) (khz : Nat), s.isField site = true ∧ g < 8 ∧ s.aligning site g = true ∧ khz ≤ 750000 ∧ s.burstsFit site g khz = true :=
  ⟨{ poke bench [(gatePage 11 1 + 0xC, 2), (gatePage 11 1 + 0xA4, 5), (gatePage 11 1 + 0xA4, 4), (gatePage 11 1 + 0x5C, 0x640000), (gatePage 11 1 + 0x44, 4)] with now := 300, gates := [(11 * 8 + 1, {})] }, 11, 1, 600000, by decide +kernel⟩
theorem witness_LineReadoutClockAndAlignment_9 : ∃ (s : State) (site : Nat) (g : Nat) (khz : Nat), s.isField site = true ∧ g < 8 ∧ s.st (gatePage site g) = 1 ∧ 750000 < khz :=
  ⟨{ poke bench [(gatePage 11 1 + 0xC, 2), (gatePage 11 1 + 0xA4, 5), (gatePage 11 1 + 0xC, 1)] with now := 300, gates := [(11 * 8 + 1, {})] }, 11, 1, 750001, by decide +kernel⟩
theorem witness_LineReadoutClockAndAlignment_10 : ∃ (s : State) (site : Nat) (g : Nat), s.isField site = true ∧ g < 8 ∧ s.st (gatePage site g) = 1 :=
  ⟨{ poke bench [(gatePage 11 1 + 0xC, 2), (gatePage 11 1 + 0xA4, 5), (gatePage 11 1 + 0xC, 1)] with now := 300, gates := [(11 * 8 + 1, {})] }, 11, 1, by decide +kernel⟩
theorem witness_SensorSpiTransfers_1 : ∃ (s : State) (req : Nat) (site : Nat) (g : Nat), g < 8 ∧ s.takes 0x35 req site (0x38 + g) 0x44 = true ∧ s.openSlot site (0x38 + g) = none ∧ s.regBit (spiPage site g + 0x44) 8 = false ∧ s.regBit (spiPage site g + 0x44) 9 = false :=
  ⟨bench, 0, 11, 7, by decide +kernel⟩
theorem witness_SensorSpiTransfers_2 : ∃ (s : State) (req : Nat) (site : Nat) (g : Nat), g < 8 ∧ s.takes 0x35 req site (0x38 + g) 0x44 = true ∧ s.openSlot site (0x38 + g) = none ∧ s.regBit (spiPage site g + 0x44) 8 = false ∧ s.regBit (spiPage site g + 0x44) 9 = true :=
  ⟨poke bench [(spiPage 11 7 + 0x44, 0x200)], 0, 11, 7, by decide +kernel⟩
theorem witness_SensorSpiTransfers_3 : ∃ (s : State) (req : Nat) (site : Nat) (g : Nat), g < 8 ∧ s.takes 0x35 req site (0x38 + g) 0x44 = true ∧ s.openSlot site (0x38 + g) = none ∧ s.regBit (spiPage site g + 0x44) 8 = true :=
  ⟨poke bench [(spiPage 11 7 + 0x44, 0x100)], 0, 11, 7, by decide +kernel⟩
theorem witness_SensorSpiTransfers_4 : ∃ (s : State) (site : Nat) (g : Nat), s.isField site = true ∧ g < 8 ∧ s.regBit (spiPage site g + 0x44) 8 = true ∧ (s.gate site g).spiWait = false ∧ s.regFld (spiPage site g + 0x40) 16 8 = 4 :=
  ⟨poke bench [(spiPage 11 7 + 0x44, 0x100), (spiPage 11 7 + 0x40, 0x40000)], 11, 7, by decide +kernel⟩
theorem witness_SensorSpiTransfers_5 : ∃ (s : State) (site : Nat) (g : Nat), s.isField site = true ∧ g < 8 ∧ s.regFld (spiPage site g + 0x48) 0 16 ≠ 0 ∧ s.active (gatePage site g) = true ∧ s.regFld (spiPage site g + 0x48) 0 16 ≤ (s.gate site g).polls ∧ s.regBit (spiPage site g + 0x44) 8 = false :=
  ⟨{ poke bench [(gatePage 11 1 + 0xC, 2), (gatePage 11 1 + 0xA4, 5), (spiPage 11 1 + 0x48, 0x10005)] with now := 300, gates := [(11 * 8 + 1, { polls := 5 })] }, 11, 1, by decide +kernel⟩
theorem witness_SensorSpiTransfers_6 : ∃ (s : State) (site : Nat) (g : Nat) (rx : Nat), s.isField site = true ∧ g < 8 ∧ s.regBit (spiPage site g + 0x44) 9 = true ∧ BitVec.ofNat 32 rx &&& s.reg (spiPage site g + 0x4C) = s.reg (spiPage site g + 0x50) ∧ (s.gate site g).spiWait = false :=
  ⟨{ poke bench [(gatePage 11 1 + 0xC, 2), (gatePage 11 1 + 0xA4, 5), (spiPage 11 1 + 0x44, 0x200), (spiPage 11 1 + 0x4C, 1), (spiPage 11 1 + 0x50, 1)] with now := 300, gates := [(11 * 8 + 1, {})] }, 11, 1, 3, by decide +kernel⟩
theorem witness_SensorSpiTransfers_7 : ∃ (s : State) (site : Nat) (g : Nat) (rx : Nat), s.isField site = true ∧ g < 8 ∧ s.regBit (spiPage site g + 0x44) 9 = true ∧ BitVec.ofNat 32 rx &&& s.reg (spiPage site g + 0x4C) ≠ s.reg (spiPage site g + 0x50) ∧ (s.gate site g).spiWait = false :=
  ⟨{ poke bench [(gatePage 11 1 + 0xC, 2), (gatePage 11 1 + 0xA4, 5), (spiPage 11 1 + 0x44, 0x200), (spiPage 11 1 + 0x4C, 1), (spiPage 11 1 + 0x50, 1)] with now := 300, gates := [(11 * 8 + 1, {})] }, 11, 1, 2, by decide +kernel⟩
theorem witness_ShadingMemoryAndMeasurement_1 : ∃ (s : State) (req : Nat) (site : Nat) (g : Nat), g < 8 ∧ s.takes 0x33 req site (0x20 + g) 0xC0 = true ∧ s.halfInUse site g (s.regFld (gatePage site g + 0xBC) 16 1) = false ∧ ((s.gate site g).shade = none ∨ (s.gate site g).shHalf ≠ s.regFld (gatePage site g + 0xBC) 16 1) :=
  ⟨bench, 0, 11, 1, by decide +kernel⟩
theorem witness_ShadingMemoryAndMeasurement_2 : ∃ (s : State) (req : Nat) (site : Nat) (g : Nat), s.isField site = true ∧ g < 8 ∧ s.reach req site (0x20 + g) = true :=
  ⟨{ bench with gates := [(89, { shd := [(0, 9#32)] })] }, 0, 11, 1, by decide +kernel⟩
theorem witness_ShadingMemoryAndMeasurement_3 : ∃ (s : State) (req : Nat) (site : Nat) (g : Nat), g < 8 ∧ s.takes 0x33 req site (0x20 + g) 0xE0 = true ∧ s.st (gatePage site g) = 2 ∧ s.regBit (gatePage site g + 0xA4) 0 = true ∧ s.st (strPage site (2 * g)) = 0 ∧ s.st (strPage site (2 * g + 1)) = 0 ∧ s.halfInUse site g (s.regFld (gatePage site g + 0xCC) 4 1) = false ∧ (s.gate site g).shade = none :=
  ⟨{ poke bench [(gatePage 11 1 + 0xC, 2), (gatePage 11 1 + 0xA4, 5)] with now := 300, gates := [(11 * 8 + 1, {})] }, 0, 11, 1, by decide +kernel⟩
theorem witness_ShadingMemoryAndMeasurement_4 : ∃ (s : State) (req : Nat) (site : Nat) (g : Nat), g < 8 ∧ s.takes 0x33 req site (0x20 + g) 0xE0 = true ∧ s.st (gatePage site g) = 2 ∧ s.regBit (gatePage site g + 0xA4) 0 = true ∧ s.st (strPage site (2 * g)) = 0 ∧ s.st (strPage site (2 * g + 1)) = 0 ∧ s.halfInUse site g (s.regFld (gatePage site g + 0xCC) 4 1) = false ∧ (s.gate site g).shade = none ∧ s.regFld (gatePage site g + 0xD4) 0 16 ≠ 0 :=
  ⟨{ poke bench [(gatePage 11 1 + 0xC, 2), (gatePage 11 1 + 0xA4, 5), (gatePage 11 1 + 0xD4, 9)] with now := 300, gates := [(11 * 8 + 1, {})] }, 0, 11, 1, by decide +kernel⟩
theorem witness_ShadingMemoryAndMeasurement_5 : ∃ (s : State) (req : Nat) (site : Nat) (g : Nat), g < 8 ∧ s.takes 0x33 req site (0x20 + g) 0xE0 = true ∧ (s.gate site g).shade.isSome = true :=
  ⟨{ poke bench [(gatePage 11 1 + 0xC, 2), (gatePage 11 1 + 0xA4, 5)] with now := 300, gates := [(11 * 8 + 1, { shade := some true })] }, 0, 11, 1, by decide +kernel⟩
theorem witness_ShadingMemoryAndMeasurement_6 : ∃ (s : State) (site : Nat) (g : Nat) (flat : Bool), s.isField site = true ∧ g < 8 ∧ (s.gate site g).shade = some flat ∧ (s.gate site g).exps + 1 < (s.gate site g).shN ∧ (s.gate site g).shAt ≤ s.now :=
  ⟨{ poke bench [(gatePage 11 1 + 0xC, 2), (gatePage 11 1 + 0xA4, 5)] with now := 300, gates := [(11 * 8 + 1, { shade := some true, shN := 4 })] }, 11, 1, true, by decide +kernel⟩
theorem witness_ShadingMemoryAndMeasurement_7 : ∃ (s : State) (site : Nat) (g : Nat), s.isField site = true ∧ g < 8 ∧ (s.gate site g).shade = some false ∧ (s.gate site g).shN ≤ (s.gate site g).exps + 1 ∧ (s.gate site g).shAt ≤ s.now :=
  ⟨{ poke bench [(gatePage 11 1 + 0xC, 2), (gatePage 11 1 + 0xA4, 5), (gatePage 11 1 + 0xCC, 0), (gatePage 11 1 + 0x44, 2)] with now := 300, gates := [(11 * 8 + 1, { shade := some false, shN := 1 })] }, 11, 1, by decide +kernel⟩
theorem witness_PipelinesAndFrames_1 : ∃ (s : State) (site : Nat) (k : Nat) (y : Slate), let stopping := s.st (strPage site k) == 3 && s.lineDone site k; let u := if stopping = true then s.finalRows site k true else s; let x := u.strm site k; let rows := x.rows.take (u.slotRows site k); let ep := if y.disp = 0 then (y.epoch, u) else u.allocEpoch (y.groups.headD {}).site; let r := ep.2.sring (u.destSite site k) (u.destCore site k) (u.destRing site k); s.isField site = true ∧ k < 16 ∧ u.slotRows site k ≠ 0 ∧ rows ≠ [] ∧ (rows.length = u.slotRows site k ∨ (stopping = true ∧ x.rows.length ≤ u.slotRows site k)) ∧ (rows.all (fun r => r.final)) = true ∧ u.destFree site k ≠ 0 ∧ u.passThrough site k = false ∧ u.entryStage site k = some y ∧ (u.cue (y.cueAt 0 0).1 (y.cueAt 0 0).2).length < 64 :=
  ⟨{ poke bench [(strPage 11 0 + 0xC, 2), (strPage 11 0 + 0x4C, 0x8050), (strPage 11 0 + 0x50, 2), (ringReg 0 5 0, 4), (drPage 0 + 0xC, 2), (drPage 0 + 0x50, 12), (drPage 0 + 0x5C, 20), (pipePage 11 0 + 0x40, 3), (pipePage 11 0 + 0x54, 8), (pipePage 11 0 + 0x44, 0x40000)] with slates := [(7, { opSlate [] [] with stream := 0 })], strms := [(176, { rmax := some 1, l0 := some 0, pipe := some { stages := [(7, 0)], stripeH := 2, lag := 5 }, rows := [{ line := 0, data := List.replicate 64 1#8 }, { line := 1, data := List.replicate 64 2#8 }, { line := 2, data := List.replicate 64 3#8 }] })], slotRings := [((0 * 256 + 5) * 8, { sp := spBin 0, base := 0x100, slotBytes := 0x100 })] }, 11, 0, { opSlate [] [] with stream := 0 }, by decide +kernel⟩
theorem witness_PipelinesAndFrames_2 : ∃ (s : State) (site : Nat) (k : Nat), let stopping := s.st (strPage site k) == 3 && s.lineDone site k; let u := if stopping = true then s.finalRows site k true else s; let x := u.strm site k; let rows := x.rows.take (u.slotRows site k); s.isField site = true ∧ k < 16 ∧ u.slotRows site k ≠ 0 ∧ rows ≠ [] ∧ (rows.length = u.slotRows site k ∨ (stopping = true ∧ x.rows.length ≤ u.slotRows site k)) ∧ (rows.all (fun r => r.final)) = true ∧ u.destFree site k ≠ 0 ∧ u.passThrough site k = true :=
  ⟨{ poke bench [(strPage 11 0 + 0xC, 2), (strPage 11 0 + 0x4C, 0x8050), (strPage 11 0 + 0x50, 2), (ringReg 0 5 0, 4), (drPage 0 + 0xC, 2), (drPage 0 + 0x50, 12), (drPage 0 + 0x5C, 20)] with strms := [(176, { l0 := some 0, rows := [{ line := 0, data := List.replicate 64 1#8, final := true }, { line := 1, data := List.replicate 64 2#8, final := true }, { line := 2, data := List.replicate 64 3#8 }] })], slotRings := [((0 * 256 + 5) * 8, { sp := spBin 0, base := 0x100, slotBytes := 0x100 })] }, 11, 0, by decide +kernel⟩
theorem witness_PipelinesAndFrames_3 : ∃ (s : State) (n : Nat), let site := streamSite s.asm (s.mbArg n 0 1); let k := s.mbArg n 0 1 % 16; let stages := s.pipeStages n (s.mbArg n 1 1); let ls := s.pipeLayers n (s.mbArg n 1 1) (s.mbArg n 2 1); let why := s.pipeRefusal n site k (s.mbArg n 3 1) (s.mbArg n 6 1) (s.mbArg n 4 1) (s.mbArg n 5 1) stages ls; n < 16 ∧ s.ready = true ∧ s.isMember = false ∧ s.regFld (mbPage n + 0x44) 0 2 = 1 ∧ s.regFld (mbPage n + 0x100) 0 16 = 0x30 ∧ s.regFld (mbPage n + 0x100) 16 16 = 8 + 8 * s.mbArg n 1 1 + (if s.mbArg n 1 1 = 0 then 0 else 12 * s.mbArg n 2 1) ∧ s.mbArg n 0 1 < streamCount s.asm ∧ (s.st (strPage site k) = 0 ∨ (s.spliced site k = true ∧ (s.strm site k).lost = true)) ∧ s.mbArg n 1 1 ≠ 0 ∧ s.restarting 8 = false ∧ s.restarting site = false ∧ (why ≠ 0 ∨ s.mbArg n 7 1 % 2 = 1) :=
  ⟨{ mbBench 0 0x30 16 [0x100, 0, 7, 0] with slates := [(7, { opSlate [] [] with stream := 0 })] }, 0, by decide +kernel⟩
theorem witness_PipelinesAndFrames_4 : ∃ (s : State) (n : Nat), let site := streamSite s.asm (s.mbArg n 0 1); let k := s.mbArg n 0 1 % 16; let stages := s.pipeStages n (s.mbArg n 1 1); let ls := s.pipeLayers n (s.mbArg n 1 1) (s.mbArg n 2 1); let why := s.pipeRefusal n site k (s.mbArg n 3 1) (s.mbArg n 6 1) (s.mbArg n 4 1) (s.mbArg n 5 1) stages ls; n < 16 ∧ s.ready = true ∧ s.isMember = false ∧ s.regFld (mbPage n + 0x44) 0 2 = 1 ∧ s.regFld (mbPage n + 0x100) 0 16 = 0x30 ∧ s.regFld (mbPage n + 0x100) 16 16 = 8 + 8 * s.mbArg n 1 1 + (if s.mbArg n 1 1 = 0 then 0 else 12 * s.mbArg n 2 1) ∧ s.mbArg n 0 1 < streamCount s.asm ∧ (s.st (strPage site k) = 0 ∨ (s.spliced site k = true ∧ (s.strm site k).lost = true)) ∧ s.mbArg n 1 1 ≠ 0 ∧ s.restarting 8 = false ∧ s.restarting site = false ∧ why = 0 ∧ s.mbArg n 7 1 % 2 = 0 :=
  ⟨{ mbBench 0 0x30 16 [0x100, 0, 7, 0] with slates := [(7, { opSlate [] [opRec [(0, 1, 3), (0x11, 1, 2)]] with stream := 0 })] }, 0, by decide +kernel⟩
theorem witness_PipelinesAndFrames_5 : ∃ (s : State) (n : Nat) (b : PipeB), let site := streamSite s.asm (s.mbArg n 0 1); let k := s.mbArg n 0 1 % 16; n < 16 ∧ s.ready = true ∧ s.isMember = false ∧ s.regFld (mbPage n + 0x44) 0 2 = 1 ∧ s.regFld (mbPage n + 0x100) 0 16 = 0x30 ∧ s.regFld (mbPage n + 0x100) 16 16 = 8 ∧ s.mbArg n 0 1 < streamCount s.asm ∧ s.st (strPage site k) = 0 ∧ s.mbArg n 1 1 = 0 ∧ (s.strm site k).pipe = some b ∧ (b.tenant = n ∨ n = 0) ∧ s.restarting 8 = false ∧ s.restarting site = false :=
  ⟨{ mbBench 0 0x30 8 [0, 0] with strms := [(176, { pipe := some {} })] }, 0, {}, by decide +kernel⟩
theorem witness_PipelinesAndFrames_6 : ∃ (s : State) (site : Nat) (k : Nat) (b : PipeB) (y : Slate) (h : Nat) (first : Nat) (rest : List Nat), let x := s.strm site k; let n := match x.reports.getLast? with | some r => r.1 + 1 | none => 0; s.isField site = true ∧ s.mainOk = true ∧ x.pipe = some b ∧ s.boundStage b b.perfStage = some y ∧ s.cueLive (y.cueAt 0 b.perfCue).1 (y.cueAt 0 b.perfCue).2 = h :: rest ∧ s.perfEn site k = true ∧ s.framesEn site k = true ∧ x.open_ = some first ∧ (x.frames.any (fun f => f.first == first && f.last.isNone)) = true ∧ (s.predict site k first + s.perfWin site k - x.l0.getD 0) / max 1 b.stripeH ≤ n :=
  ⟨{ poke bench [(strPage 11 0 + 0xC, 2), (strPage 11 0 + 0x4C, 0x8050), (strPage 11 0 + 0x50, 2), (ringReg 0 5 0, 4), (drPage 0 + 0xC, 2), (drPage 0 + 0x50, 12), (drPage 0 + 0x5C, 20), (pipePage 11 0 + 0x40, 3), (pipePage 11 0 + 0x54, 8), (pipePage 11 0 + 0x44, 0x40000)] with slates := [(7, { opSlate [] [] with stream := 0 })], strms := [(176, { pipe := some { stages := [(7, 0)], stripeH := 16, lag := 5, perfStage := 1, perfCue := 2 }, l0 := some 0, open_ := some 0, fidx := 1, frames := [{ first := 0 }] })], cueQs := [(2, [0])], poss := [(88, { line := 9, runs := [(0, 0, 65536)] })] }, 11, 0, { stages := [(7, 0)], stripeH := 16, lag := 5, perfStage := 1, perfCue := 2 }, { opSlate [] [] with stream := 0 }, 0, 0, [], by decide +kernel⟩
theorem witness_PipelinesAndFrames_7 : ∃ (s : State) (site : Nat) (k : Nat) (b : PipeB) (y : Slate) (f : Frame) (l : Nat) (ei : Nat) (e : Nat) (j : Job), let x := s.strm site k; let pj := fun (q : Nat × Nat) => decodeJob (s.eng q.1 q.2).job; let q := y.cueAt 0 b.matchCue; s.mainOk = true ∧ x.pipe = some b ∧ s.boundStage b b.matchStage = some y ∧ x.frames.find? (fun g => !g.pushed) = some f ∧ f.last = some l ∧ ((secRecs y.cont 11 64).map (fun r => decodeJob r.2.2.2)).find? (fun j => j.engine == 2) = some j ∧ y.engs.find? (fun q => (pj q).engine == 1 && (pj q).lvlOff == j.lvlOff) = some (ei, e) ∧ ((s.eng ei e).base.any (fun u => decide (l + 2 ^ (j.lvlC + 1) - 2 < u.2 + ((s.eng ei e).unit - u.1) * b.stripeH))) = true ∧ y.faulted = false ∧ y.state ≠ 3 ∧ (s.cue q.1 q.2).length < 64 :=
  ⟨{ poke bench [(strPage 11 0 + 0xC, 2), (strPage 11 0 + 0x4C, 0x8050), (strPage 11 0 + 0x50, 2), (ringReg 0 5 0, 4), (drPage 0 + 0xC, 2), (drPage 0 + 0x50, 12), (drPage 0 + 0x5C, 20), (pipePage 11 0 + 0x40, 3), (pipePage 11 0 + 0x54, 8), (pipePage 11 0 + 0x44, 0x40000)] with slates := [(7, { opSlate [] [] with stream := 0, engs := [(0, 2)], cont := (contOf [] []) |> fun b => patch (patch b 0x10 (leBytes 2 3)) 0xA0 (leBytes 2 11 ++ leBytes 2 0 ++ leBytes 4 0xC0 ++ leBytes 4 64) |> fun b => b ++ fields 64 [(0, 1, 2), (2, 1, 0), (0xC, 4, 0x200), (0x14, 2, 16), (0x1C, 4, 0xFFFFFFFF), (0x28, 4, 100), (0x32, 1, 8), (0x33, 1, 1), (0x34, 1, 1), (0x35, 1, 1), (0x36, 1, 1), (0x3C, 2, 1), (0x3E, 2, 16), (0x24, 4, 1)] })], strms := [(176, { pipe := some { stages := [(7, 0)], stripeH := 2, lag := 5, matchStage := 1, matchCue := 3 }, l0 := some 0, frames := [{ last := some 1 }] })], engs := [(2, { unit := 9, base := some (0, 0), job := fields 64 [(0, 1, 1), (4, 4, 0x100), (8, 4, 4), (0x14, 2, 4), (0x16, 2, 4), (0x1C, 4, 0xFFFFFFFF), (0x28, 4, 100), (0x30, 1, 1), (0x24, 4, 1)] })] }, 11, 0, { stages := [(7, 0)], stripeH := 2, lag := 5, matchStage := 1, matchCue := 3 }, { opSlate [] [] with stream := 0, engs := [(0, 2)], cont := (contOf [] []) |> fun b => patch (patch b 0x10 (leBytes 2 3)) 0xA0 (leBytes 2 11 ++ leBytes 2 0 ++ leBytes 4 0xC0 ++ leBytes 4 64) |> fun b => b ++ fields 64 [(0, 1, 2), (2, 1, 0), (0xC, 4, 0x200), (0x14, 2, 16), (0x1C, 4, 0xFFFFFFFF), (0x28, 4, 100), (0x32, 1, 8), (0x33, 1, 1), (0x34, 1, 1), (0x35, 1, 1), (0x36, 1, 1), (0x3C, 2, 1), (0x3E, 2, 16), (0x24, 4, 1)] }, { last := some 1 }, 1, 0, 2, decodeJob (fields 64 [(0, 1, 2), (2, 1, 0), (0xC, 4, 0x200), (0x14, 2, 16), (0x1C, 4, 0xFFFFFFFF), (0x28, 4, 100), (0x32, 1, 8), (0x33, 1, 1), (0x34, 1, 1), (0x35, 1, 1), (0x36, 1, 1), (0x3C, 2, 1), (0x3E, 2, 16), (0x24, 4, 1)]), by decide +kernel⟩
theorem witness_PipelinesAndFrames_8 : ∃ (s : State) (site : Nat) (k : Nat) (i : Nat) (h : Nat) (rest : List Nat) (b : PipeB) (y : Slate), let u := s.reserve site k; let x := u.strm site k; let d := u.ringOf site k; let def_ := b.layers.getD i {}; let g := y.groups.headD {}; let q := y.cueAt 0 def_.index; let line := u.layerAt site k i true; let rows := if def_.rowBytes = 0 then 0 else handleLen h / def_.rowBytes; (s.strm site k).pipe = some b ∧ i < b.layers.length ∧ u.boundStage b def_.stage = some y ∧ s.ringRuns d = true ∧ def_.source = 0 ∧ u.cueLive q.1 q.2 = h :: rest ∧ ((List.range rows).any (fun m => u.rowTo site k i (line + m) == .wait)) = false ∧ (u.copyRows site k i def_ d (spBin g.site) (g.bin + handleOff h) line rows).2 = none ∧ (x.frames.map (fun f => f.idx)).Nodup ∧ u.rowsPoisoned site k i def_ (spBin g.site) (g.bin + handleOff h) line rows = none ∧ x.parts.find? (fun z => z.1 == i) = none :=
  ⟨{ poke bench [(strPage 11 0 + 0xC, 2), (strPage 11 0 + 0x4C, 0x8050), (strPage 11 0 + 0x50, 2), (ringReg 0 5 0, 4), (drPage 0 + 0xC, 2), (drPage 0 + 0x50, 12), (drPage 0 + 0x5C, 20), (pipePage 11 0 + 0x40, 3), (pipePage 11 0 + 0x54, 8), (pipePage 11 0 + 0x44, 0x40000), (mmuPage 0 + 0x40, 0x1000), (mmuPage 0 + 0xC, 2)] with slates := [(7, { opSlate [] [] with stream := 0 })], strms := [(176, { pipe := some { stages := [(7, 0)], stripeH := 2, lag := 5, layers := [{ source := 0, stage := 1, index := 1, rowBytes := 64, kind := 1 }] }, l0 := some 0, frames := [{ idx := 0, first := 0, last := some 1, reserved := true, layers := [(0, 0, false, false)] }] })], cueQs := [(1, [mkHandle 0x100 2 0 0])], hmem := mapBench.hmem }, 11, 0, 0, mkHandle 0x100 2 0 0, [], { stages := [(7, 0)], stripeH := 2, lag := 5, layers := [{ source := 0, stage := 1, index := 1, rowBytes := 64, kind := 1 }] }, { opSlate [] [] with stream := 0 }, by decide +kernel⟩
theorem witness_PipelinesAndFrames_9 : ∃ (s : State) (site : Nat) (k : Nat) (i : Nat) (h : Nat) (rest : List Nat) (b : PipeB) (y : Slate) (f : Frame), let u := s.reserve site k; let x := u.strm site k; let d := u.ringOf site k; let def_ := b.layers.getD i {}; let g := y.groups.headD {}; let q := y.cueAt 0 def_.index; let n := u.layerAt site k i false; (s.strm site k).pipe = some b ∧ i < b.layers.length ∧ u.boundStage b def_.stage = some y ∧ s.ringRuns d = true ∧ def_.source = 1 ∧ u.cueLive q.1 q.2 = h :: rest ∧ x.frames.find? (fun f => f.idx == n) = some f ∧ (f.layers.getD i (0, 0, false, false)).2.2.2 = false ∧ i < f.layers.length ∧ (match u.takeFrameLayer site k i d n (u.ramGet (spBin g.site) (g.bin + handleOff h) (handleLen h)) with | some (_, none) => true | _ => false) = true ∧ u.poisoned (spBin g.site) (g.bin + handleOff h) (handleLen h) = false :=
  ⟨{ poke bench [(strPage 11 0 + 0xC, 2), (strPage 11 0 + 0x4C, 0x8050), (strPage 11 0 + 0x50, 2), (ringReg 0 5 0, 4), (drPage 0 + 0xC, 2), (drPage 0 + 0x50, 12), (drPage 0 + 0x5C, 20), (pipePage 11 0 + 0x40, 3), (pipePage 11 0 + 0x54, 8), (pipePage 11 0 + 0x44, 0x40000), (mmuPage 0 + 0x40, 0x1000), (mmuPage 0 + 0xC, 2)] with slates := [(7, { opSlate [] [] with stream := 0 })], strms := [(176, { pipe := some { stages := [(7, 0)], stripeH := 2, lag := 5, layers := [{ source := 1, stage := 1, index := 1, rowBytes := 64, kind := 1 }] }, l0 := some 0, frames := [{ idx := 0, first := 0, last := some 1, reserved := true, layers := [(0, 0, false, false)] }] })], cueQs := [(1, [mkHandle 0x100 2 0 0])], hmem := mapBench.hmem }, 11, 0, 0, mkHandle 0x100 2 0 0, [], { stages := [(7, 0)], stripeH := 2, lag := 5, layers := [{ source := 1, stage := 1, index := 1, rowBytes := 64, kind := 1 }] }, { opSlate [] [] with stream := 0 }, { idx := 0, first := 0, last := some 1, reserved := true, layers := [(0, 0, false, false)] }, by decide +kernel⟩
theorem witness_PipelinesAndFrames_10 : ∃ (s : State) (site : Nat) (k : Nat) (i : Nat) (b : PipeB) (y : Slate) (f : Frame) (l : Nat), let u := s.reserve site k; let x := u.strm site k; let d := u.ringOf site k; let def_ := b.layers.getD i {}; let r := y.engRing 0 def_.index; let z := u.sring r.1 r.2.1 r.2.2; let n := u.layerAt site k i false; let part := slotPart y def_ z.slotBytes f.first l; let mates := (List.range b.layers.length).filter (fun m => let e := b.layers.getD m {}; e.source == 2 && e.stage == def_.stage && e.index == def_.index); (s.strm site k).pipe = some b ∧ i < b.layers.length ∧ u.boundStage b def_.stage = some y ∧ s.ringRuns d = true ∧ def_.source = 2 ∧ u.ringCount r.1 r.2.1 r.2.2 ≠ 0 ∧ (mates.any (fun m => decide (u.layerAt site k m false < n))) = false ∧ u.cancelled r.1 (z.epochs.headD 0) = false ∧ x.frames.find? (fun f => f.idx == n) = some f ∧ f.last = some l ∧ (f.layers.getD i (0, 0, false, false)).2.2.2 = false ∧ i < f.layers.length ∧ (match u.takeFrameLayer site k i d n (u.ramGet z.sp (u.slotAddr r.1 r.2.1 r.2.2 (u.ringHead r.1 r.2.1 r.2.2) + part.1) part.2) with | some (_, none) => true | _ => false) = true ∧ u.poisoned z.sp (u.slotAddr r.1 r.2.1 r.2.2 (u.ringHead r.1 r.2.1 r.2.2) + part.1) part.2 = false :=
  ⟨{ poke bench [(strPage 11 0 + 0xC, 2), (strPage 11 0 + 0x4C, 0x8050), (strPage 11 0 + 0x50, 2), (ringReg 0 5 0, 4), (drPage 0 + 0xC, 2), (drPage 0 + 0x50, 12), (drPage 0 + 0x5C, 20), (pipePage 11 0 + 0x40, 3), (pipePage 11 0 + 0x54, 8), (pipePage 11 0 + 0x44, 0x40000), (mmuPage 0 + 0x40, 0x1000), (mmuPage 0 + 0xC, 2), (ringReg 0 5 1, 4 + 1 * 2 ^ 13)] with slates := [(7, { opSlate [] [] with stream := 0 })], strms := [(176, { pipe := some { stages := [(7, 0)], stripeH := 2, lag := 5, layers := [{ source := 2, stage := 1, index := 1, rowBytes := 64, kind := 1 }] }, l0 := some 0, frames := [{ idx := 0, first := 0, last := some 1, reserved := true, layers := [(0, 0, false, false)] }] })], slotRings := [((0 * 256 + 5) * 8 + 1, { sp := spBin 0, base := 0x100, slotBytes := 0x80, epochs := [3] })], hmem := mapBench.hmem }, 11, 0, 0, { stages := [(7, 0)], stripeH := 2, lag := 5, layers := [{ source := 2, stage := 1, index := 1, rowBytes := 64, kind := 1 }] }, { opSlate [] [] with stream := 0 }, { idx := 0, first := 0, last := some 1, reserved := true, layers := [(0, 0, false, false)] }, 1, by decide +kernel⟩
theorem witness_PipelinesAndFrames_11 : ∃ (s : State) (site : Nat) (k : Nat) (f0 : Frame) (fs : List Frame) (l : Nat), let defs := match (s.strm site k).pipe with | some b => b.layers | none => []; let f := f0.giveUp defs (fun i => s.frameDue site k f0 && (s.frameHold site k == 0 || (match (s.strm site k).pipe with | some b => s.stageBad b (defs.getD i {}).stage | none => true))); s.isField site = true ∧ s.mainOk = true ∧ (s.strm site k).frames = f0 :: fs ∧ f0.last = some l ∧ ((s.strm site k).priming = false ∨ s.watermark site k < l) ∧ f.missing defs = [] ∧ defs ≠ [] :=
  ⟨{ poke bench [(strPage 11 0 + 0xC, 2), (strPage 11 0 + 0x4C, 0x8050), (strPage 11 0 + 0x50, 2), (ringReg 0 5 0, 4), (drPage 0 + 0xC, 2), (drPage 0 + 0x50, 12), (drPage 0 + 0x5C, 20), (pipePage 11 0 + 0x40, 3), (pipePage 11 0 + 0x54, 8), (pipePage 11 0 + 0x44, 0x40000)] with slates := [(7, { opSlate [] [] with stream := 0 })], strms := [(176, { pipe := some { stages := [(7, 0)], stripeH := 2, lag := 5, layers := [{ source := 1, stage := 1, index := 1, rowBytes := 64, kind := 1 }] }, l0 := some 0, frames := [{ idx := 0, first := 0, last := some 1, reserved := true, layers := [(0, 64, true, false)] }] })] }, 11, 0, { idx := 0, first := 0, last := some 1, reserved := true, layers := [(0, 64, true, false)] }, [], 1, by decide +kernel⟩
theorem witness_PipelinesAndFrames_12 : ∃ (s : State) (site : Nat) (k : Nat) (f0 : Frame) (fs : List Frame) (l : Nat), let defs := match (s.strm site k).pipe with | some b => b.layers | none => []; s.isField site = true ∧ s.mainOk = true ∧ (s.strm site k).frames = f0 :: fs ∧ f0.last = some l ∧ s.holdOver site k f0 = true ∧ f0.missing defs ≠ [] :=
  ⟨{ poke bench [(strPage 11 0 + 0xC, 2), (strPage 11 0 + 0x4C, 0x8050), (strPage 11 0 + 0x50, 2), (ringReg 0 5 0, 4), (drPage 0 + 0xC, 2), (drPage 0 + 0x50, 12), (drPage 0 + 0x5C, 20), (pipePage 11 0 + 0x40, 3), (pipePage 11 0 + 0x54, 8), (pipePage 11 0 + 0x44, 0x40000)] with slates := [(7, { opSlate [] [] with stream := 0 })], strms := [(176, { pipe := some { stages := [(7, 0)], stripeH := 2, lag := 5, layers := [{ source := 1, stage := 1, index := 1, rowBytes := 64, kind := 1 }] }, l0 := some 0, frames := [{ idx := 0, first := 0, last := some 1, reserved := true, layers := [(0, 0, false, false)] }] })], poss := [(88, { line := 9 })] }, 11, 0, { idx := 0, first := 0, last := some 1, reserved := true, layers := [(0, 0, false, false)] }, [], 1, by decide +kernel⟩
theorem witness_AxesRunCertifiedSegments_1 : ∃ (s : State) (req : Nat) (site : Nat) (a : Nat) (val : Word), let n := (fld val 0 8 + 256 - s.segHead site a) % 256; let n0 := (s.segTail site a + 256 - s.segHead site a) % 256; s.takes 0x37 req site (0x40 + a) 0xAC = true ∧ n ≤ 64 ∧ n0 ≤ n ∧ s.segsOk site a (n - n0) (s.segTail site a) (s.predecessor site a (s.segTail site a)).1 (s.predecessor site a (s.segTail site a)).2 = true :=
  ⟨{ poke bench [(axPage 11 2 + 0xC, 2), (dollyPage 11 + 0x40, 0xFFFFF1FF), (axPage 11 2 + 0x64, 1000), (grpPage 11 1 + 0x40, 0x12), (axPage 11 2 + 0x400, 10)] with axes := [(11 * 16 + 2, {})], grps := [(11 * 32 + 1, {})] }, 0, 11, 2, 1#32, by decide +kernel⟩
theorem witness_AxesRunCertifiedSegments_2 : ∃ (s : State) (req : Nat) (site : Nat) (a : Nat) (val : Word), let n := (fld val 0 8 + 256 - s.segHead site a) % 256; let n0 := (s.segTail site a + 256 - s.segHead site a) % 256; s.takes 0x37 req site (0x40 + a) 0xAC = true ∧ (64 < n ∨ n < n0 ∨ s.segsOk site a (n - n0) (s.segTail site a) (s.predecessor site a (s.segTail site a)).1 (s.predecessor site a (s.segTail site a)).2 = false) :=
  ⟨{ poke bench [(axPage 11 2 + 0xC, 2), (dollyPage 11 + 0x40, 0xFFFFF1FF), (axPage 11 2 + 0x64, 1000), (grpPage 11 1 + 0x40, 0x12), (axPage 11 2 + 0x400, 10)] with axes := [(11 * 16 + 2, {})], grps := [(11 * 32 + 1, {})] }, 0, 11, 2, 2#32, by decide +kernel⟩
theorem witness_AxesRunCertifiedSegments_3 : ∃ (g : Seg), g.dur ≠ 0 :=
  ⟨{ dur := 10, pos := 40 }, by decide +kernel⟩
theorem witness_AxesRunCertifiedSegments_4 : ∃ (s : State) (req : Nat) (site : Nat) (a : Nat) (val : Word) (w : When), s.takes 0x37 req site (0x40 + a) 0xB8 = true ∧ bitOf val 0 = true ∧ decodeWhen s.asm (s.wide (axPage site a + 0xB0)) = some w ∧ w.kind ≠ 0 ∧ s.passed site w = false ∧ s.leader site (s.grpOf site a) = some a ∧ ((s.groupAxes site (s.grpOf site a)).any (fun b => s.axSource site b == 2 && (s.limUnknown site b 1 || s.limUnknown site b (-1)))) = false :=
  ⟨{ poke bench [(axPage 11 2 + 0xC, 2), (dollyPage 11 + 0x40, 0xFFFFF1FF), (axPage 11 2 + 0x64, 1000), (grpPage 11 1 + 0x40, 0x12), (axPage 11 2 + 0x400, 10), (axPage 11 2 + 0xB4, 0x20000000), (axPage 11 2 + 0xB0, 77)] with axes := [(11 * 16 + 2, {})], grps := [(11 * 32 + 1, {})] }, 0, 11, 2, 1#32, { kind := 2, value := 77 }, by decide +kernel⟩
theorem witness_AxesRunCertifiedSegments_5 : ∃ (s : State) (req : Nat) (site : Nat) (a : Nat) (val : Word), s.takes 0x37 req site (0x40 + a) 0xB8 = true ∧ bitOf val 0 = true ∧ s.wide (axPage site a + 0xB0) = 0 ∧ s.leader site (s.grpOf site a) = some a ∧ ((s.groupAxes site (s.grpOf site a)).any (fun b => s.axSource site b == 2 && (s.limUnknown site b 1 || s.limUnknown site b (-1)))) = false ∧ s.groupHeld site (s.grpOf site a) = false ∧ (s.grp site (s.grpOf site a)).stage = 0 :=
  ⟨{ poke bench [(axPage 11 2 + 0xC, 2), (dollyPage 11 + 0x40, 0xFFFFF1FF), (axPage 11 2 + 0x64, 1000), (grpPage 11 1 + 0x40, 0x12), (axPage 11 2 + 0x400, 10), (axPage 11 2 + 0x408, 0x10000), (axPage 11 2 + 0xAC, 1)] with axes := [(11 * 16 + 2, {})], grps := [(11 * 32 + 1, {})] }, 0, 11, 2, 1#32, by decide +kernel⟩
theorem witness_AxesRunCertifiedSegments_6 : ∃ (s : State) (req : Nat) (site : Nat) (a : Nat) (val : Word), s.takes 0x37 req site (0x40 + a) 0xB8 = true ∧ bitOf val 0 = true ∧ s.leader site (s.grpOf site a) ≠ some a ∧ (s.leader site (s.grpOf site a)).isSome = true :=
  ⟨{ poke bench [(axPage 11 2 + 0xC, 2), (dollyPage 11 + 0x40, 0xFFFFF1FF), (axPage 11 2 + 0x64, 1000), (grpPage 11 1 + 0x40, 0x12), (axPage 11 2 + 0x400, 10), (grpPage 11 1 + 0x40, 0x13)] with axes := [(11 * 16 + 2, {})], grps := [(11 * 32 + 1, {})] }, 0, 11, 2, 1#32, by decide +kernel⟩
theorem witness_AxesRunCertifiedSegments_7 : ∃ (s : State) (site : Nat) (a : Nat) (x : Armed), s.isField site = true ∧ a < 16 ∧ s.segArm site a = some x ∧ s.due site x = true ∧ x.late = false ∧ s.groupHeld site (s.grpOf site a) = false ∧ (s.grp site (s.grpOf site a)).stage = 0 :=
  ⟨{ poke bench [(axPage 11 2 + 0xC, 2), (dollyPage 11 + 0x40, 0xFFFFF1FF), (axPage 11 2 + 0x64, 1000), (grpPage 11 1 + 0x40, 0x12), (axPage 11 2 + 0x400, 10), (axPage 11 2 + 0x408, 0x10000), (axPage 11 2 + 0xAC, 1)] with axes := [(11 * 16 + 2, {})], grps := [(11 * 32 + 1, {})], segArms := [(11 * 16 + 2, {})] }, 11, 2, {}, by decide +kernel⟩
theorem witness_AxesRunCertifiedSegments_8 : ∃ (s : State) (site : Nat) (a : Nat), let x := s.axis site a; let g := s.seg site a (s.segHead site a); s.isField site = true ∧ a < 16 ∧ x.run = true ∧ 65536 * g.dur ≤ x.tau :=
  ⟨{ poke bench [(axPage 11 2 + 0xC, 2), (dollyPage 11 + 0x40, 0xFFFFF1FF), (axPage 11 2 + 0x64, 1000), (grpPage 11 1 + 0x40, 0x12), (axPage 11 2 + 0x400, 10), (axPage 11 2 + 0xAC, 2)] with axes := [(11 * 16 + 2, { run := true, tau := 655361 })], grps := [(11 * 32 + 1, {})] }, 11, 2, by decide +kernel⟩
theorem witness_DollyDriveModesAndGroupStops_1 : ∃ (s : State) (site : Nat) (a : Nat) (o : Observer) (c : Int × Int), s.isField site = true ∧ a < 16 ∧ s.axLive site a = true ∧ s.regBit (axPage site a + 0x94) 6 = false ∧ s.speedGe site a (s.regFld (axPage site a + 0x5C) 0 16) = true ∧ s.regFld (axPage site a + 0x5C) 16 8 ≤ o.conf ∧ 256 < o.angle.natAbs ∧ o.samples.getLast? = some c :=
  ⟨{ poke bench [(axPage 11 2 + 0xC, 2), (dollyPage 11 + 0x40, 0xFFFFF1FF), (axPage 11 2 + 0x64, 1000), (grpPage 11 1 + 0x40, 0x12), (axPage 11 2 + 0x400, 10)] with axes := [(11 * 16 + 2, { vel := 500000000 })], grps := [(11 * 32 + 1, {})] }, 11, 2, { samples := [(5, -6), (7, -8)], angle := 300, conf := 255 }, (7, -8), by decide +kernel⟩
theorem witness_DollyDriveModesAndGroupStops_2 : ∃ (s : State) (site : Nat) (a : Nat), s.isField site = true ∧ a < 16 ∧ s.axLive site a = true ∧ s.regBit (axPage site a + 0x94) 6 = false ∧ s.regFld (axPage site a + 0x40) 8 2 = 0 ∧ s.regBit (axPage site a + 0x94) 1 = false ∧ s.speedGe site a (s.regFld (axPage site a + 0x58) 16 16) = true ∧ s.speedGe site a (s.regFld (axPage site a + 0x5C) 0 16) = false :=
  ⟨{ poke bench [(axPage 11 2 + 0xC, 2), (dollyPage 11 + 0x40, 0xFFFFF1FF), (axPage 11 2 + 0x64, 1000), (grpPage 11 1 + 0x40, 0x12), (axPage 11 2 + 0x400, 10), (axPage 11 2 + 0x40, 0), (axPage 11 2 + 0x58, 0), (axPage 11 2 + 0x5C, 0xFFFF)] with axes := [(11 * 16 + 2, { vel := 50000 })], grps := [(11 * 32 + 1, {})] }, 11, 2, by decide +kernel⟩
theorem witness_DollyDriveModesAndGroupStops_3 : ∃ (s : State) (site : Nat) (a : Nat), s.isField site = true ∧ a < 16 ∧ s.axLive site a = true ∧ s.regBit (axPage site a + 0x94) 6 = false ∧ s.regFld (axPage site a + 0x40) 8 2 = 1 ∧ s.regBit (axPage site a + 0x94) 1 = false ∧ s.speedGe site a (s.regFld (axPage site a + 0x5C) 0 16) = false :=
  ⟨{ poke bench [(axPage 11 2 + 0xC, 2), (dollyPage 11 + 0x40, 0xFFFFF1FF), (axPage 11 2 + 0x64, 1000), (grpPage 11 1 + 0x40, 0x12), (axPage 11 2 + 0x400, 10), (axPage 11 2 + 0x40, 0x100), (axPage 11 2 + 0x54, 0), (axPage 11 2 + 0x5C, 0xFFFF)] with axes := [(11 * 16 + 2, { keep := true, duty := (5, -5) })], grps := [(11 * 32 + 1, {})] }, 11, 2, by decide +kernel⟩
theorem witness_DollyDriveModesAndGroupStops_4 : ∃ (s : State) (site : Nat) (a : Nat) (m : Bool), s.isField site = true ∧ a < 16 ∧ (s.axis site a).modeTo = some m ∧ ((s.axis site a).crossed = true ∨ cosSign (s.theta site a) = 0) :=
  ⟨{ poke bench [(axPage 11 2 + 0xC, 2), (dollyPage 11 + 0x40, 0xFFFFF1FF), (axPage 11 2 + 0x64, 1000), (grpPage 11 1 + 0x40, 0x12), (axPage 11 2 + 0x400, 10)] with axes := [(11 * 16 + 2, { modeTo := some true, crossed := true })], grps := [(11 * 32 + 1, {})] }, 11, 2, true, by decide +kernel⟩
theorem witness_DollyDriveModesAndGroupStops_5 : ∃ (s : State) (site : Nat) (a : Nat), s.isField site = true ∧ a < 16 ∧ s.active (axPage site a) = true ∧ (s.axis site a).vel = 0 ∧ (s.axis site a).restAt + 20000000 ≤ s.now ∧ (s.axSource site a ≠ 2 ∨ s.regBit (axPage site a + 0x6C) 3 = false) :=
  ⟨{ poke bench [(axPage 11 2 + 0xC, 2), (dollyPage 11 + 0x40, 0xFFFFF1FF), (axPage 11 2 + 0x64, 1000), (grpPage 11 1 + 0x40, 0x12), (axPage 11 2 + 0x400, 10)] with axes := [(11 * 16 + 2, {})], grps := [(11 * 32 + 1, {})], now := 20000000 }, 11, 2, by decide +kernel⟩
theorem witness_DollyDriveModesAndGroupStops_6 : ∃ (s : State) (req : Nat) (site : Nat) (a : Nat) (val : Word), s.takes 0x37 req site (0x40 + a) 0xC0 = true ∧ bitOf val 0 = true ∧ (s.axis site a).vel = 0 :=
  ⟨{ poke bench [(axPage 11 2 + 0xC, 2), (dollyPage 11 + 0x40, 0xFFFFF1FF), (axPage 11 2 + 0x64, 1000), (grpPage 11 1 + 0x40, 0x12), (axPage 11 2 + 0x400, 10), (axPage 11 2 + 0x94, 0x140)] with axes := [(11 * 16 + 2, {})], grps := [(11 * 32 + 1, {})] }, 0, 11, 2, 1#32, by decide +kernel⟩
theorem witness_DollyDriveModesAndGroupStops_7 : ∃ (s : State) (req : Nat) (site : Nat) (a : Nat) (val : Word), s.takes 0x37 req site (0x40 + a) 0xC0 = true ∧ bitOf val 0 = true ∧ (s.axis site a).vel ≠ 0 :=
  ⟨{ poke bench [(axPage 11 2 + 0xC, 2), (dollyPage 11 + 0x40, 0xFFFFF1FF), (axPage 11 2 + 0x64, 1000), (grpPage 11 1 + 0x40, 0x12), (axPage 11 2 + 0x400, 10)] with axes := [(11 * 16 + 2, { vel := 1 })], grps := [(11 * 32 + 1, {})] }, 0, 11, 2, 1#32, by decide +kernel⟩
theorem witness_DollyDriveModesAndGroupStops_8 : ∃ (s : State) (req : Nat) (site : Nat) (g : Nat), s.takes 0x38 req site (0x50 + g) 0x58 = true ∧ g < 8 ∧ s.isField site = true ∧ s.groupHeld site g = false :=
  ⟨{ poke bench [(axPage 11 2 + 0xC, 2), (dollyPage 11 + 0x40, 0xFFFFF1FF), (axPage 11 2 + 0x64, 1000), (grpPage 11 1 + 0x40, 0x12), (axPage 11 2 + 0x400, 10), (axPage 11 2 + 0x408, 0x10000), (axPage 11 2 + 0xAC, 1)] with axes := [(11 * 16 + 2, { vel := 9, run := true })], grps := [(11 * 32 + 1, {})] }, 0, 11, 1, by decide +kernel⟩
theorem witness_DollyDriveModesAndGroupStops_9 : ∃ (s : State) (req : Nat) (site : Nat) (g : Nat), s.takes 0x38 req site (0x50 + g) 0x58 = true ∧ g < 8 ∧ s.groupHeld site g = true :=
  ⟨{ poke bench [(axPage 11 2 + 0xC, 2), (dollyPage 11 + 0x40, 0xFFFFF1FF), (axPage 11 2 + 0x64, 1000), (grpPage 11 1 + 0x40, 0x12), (axPage 11 2 + 0x400, 10)] with axes := [(11 * 16 + 2, {})], grps := [(11 * 32 + 1, { stopping := true, cause := 2 })] }, 0, 11, 1, by decide +kernel⟩
theorem witness_DollyDriveModesAndGroupStops_10 : ∃ (s : State) (req : Nat) (site : Nat) (g : Nat), s.takes 0x38 req site (0x50 + g) 0x58 = true ∧ g < 8 ∧ s.groupAtRest site g = true ∧ ((s.groupAxes site g).any (fun b => s.causePresent site b)) = false :=
  ⟨{ poke bench [(axPage 11 2 + 0xC, 2), (dollyPage 11 + 0x40, 0xFFFFF1FF), (axPage 11 2 + 0x64, 1000), (grpPage 11 1 + 0x40, 0x12), (axPage 11 2 + 0x400, 10)] with axes := [(11 * 16 + 2, {})], grps := [(11 * 32 + 1, { atRest := true, cause := 2 })] }, 0, 11, 1, by decide +kernel⟩
theorem witness_DollyDriveModesAndGroupStops_11 : ∃ (s : State) (req : Nat) (site : Nat) (g : Nat), s.takes 0x38 req site (0x50 + g) 0x58 = true ∧ g < 8 ∧ (s.groupAtRest site g = false ∨ ((s.groupAxes site g).any (fun b => s.causePresent site b)) = true) :=
  ⟨{ poke bench [(axPage 11 2 + 0xC, 2), (dollyPage 11 + 0x40, 0xFFFFF1FF), (axPage 11 2 + 0x64, 1000), (grpPage 11 1 + 0x40, 0x12), (axPage 11 2 + 0x400, 10)] with axes := [(11 * 16 + 2, {})], grps := [(11 * 32 + 1, { stopping := true, cause := 2 })] }, 0, 11, 1, by decide +kernel⟩
theorem witness_DollyDriveModesAndGroupStops_12 : ∃ (s : State) (site : Nat) (a : Nat), s.isField site = true ∧ a < 16 ∧ (s.axLive site a = true ∨ s.st (axPage site a) = 1) :=
  ⟨{ poke bench [(axPage 11 2 + 0xC, 2), (dollyPage 11 + 0x40, 0xFFFFF1FF), (axPage 11 2 + 0x64, 1000), (grpPage 11 1 + 0x40, 0x12), (axPage 11 2 + 0x400, 10)] with axes := [(11 * 16 + 2, { vel := 5 })], grps := [(11 * 32 + 1, {})] }, 11, 2, by decide +kernel⟩
theorem witness_DollyDriveModesAndGroupStops_13 : ∃ (s : State) (site : Nat) (a : Nat), s.isField site = true ∧ a < 16 ∧ (s.axLive site a = true ∨ s.st (axPage site a) = 1) :=
  ⟨{ poke bench [(axPage 11 2 + 0xC, 2), (dollyPage 11 + 0x40, 0xFFFFF1FF), (axPage 11 2 + 0x64, 1000), (grpPage 11 1 + 0x40, 0x12), (axPage 11 2 + 0x400, 10)] with axes := [(11 * 16 + 2, { vel := 5 })], grps := [(11 * 32 + 1, {})] }, 11, 2, by decide +kernel⟩
theorem witness_DollyDriveModesAndGroupStops_14 : ∃ (s : State) (site : Nat) (g : Nat), s.isField site = true ∧ g < 8 :=
  ⟨{ poke bench [(axPage 11 2 + 0xC, 2), (dollyPage 11 + 0x40, 0xFFFFF1FF), (axPage 11 2 + 0x64, 1000), (grpPage 11 1 + 0x40, 0x12), (axPage 11 2 + 0x400, 10), (grpPage 11 1 + 0x48, 1000), (grpPage 11 1 + 0x50, 400)] with axes := [(11 * 16 + 2, {})], grps := [(11 * 32 + 1, {})] }, 11, 1, by decide +kernel⟩
theorem witness_PacingSplicesAndRestarts_1 : ∃ (s : State) (site : Nat) (g : Nat), s.isField site = true ∧ g < 8 ∧ s.taking site g ≠ [] :=
  ⟨{ poke bench [(axPage 11 2 + 0xC, 2), (dollyPage 11 + 0x40, 0xFFFFF1FF), (axPage 11 2 + 0x64, 1000), (grpPage 11 1 + 0x40, 0x12), (axPage 11 2 + 0x400, 10), (strPage 11 2 + 0xC, 2), (strPage 11 2 + 0x4C, 0x8050), (strPage 11 2 + 0x50, 64), (encPage 11 0 + 0x58, 1000), (puPage 11 1 + 0x44, 65536), (drPage 2 + 0xC, 2), (drPage 2 + 0x50, 12), (drPage 2 + 0x5C, 20)] with axes := [(11 * 16 + 2, {})], grps := [(11 * 32 + 1, {})], poss := [(11 * 8 + 1, { line := 9, runs := [(0, 0, 65536)] })] }, 11, 1, by decide +kernel⟩
theorem witness_PacingSplicesAndRestarts_3 : ∃ (s : State) (site : Nat) (g : Nat), s.isField site = true ∧ g < 8 :=
  ⟨{ poke bench [(axPage 11 2 + 0xC, 2), (dollyPage 11 + 0x40, 0xFFFFF1FF), (axPage 11 2 + 0x64, 1000), (grpPage 11 1 + 0x40, 0x12), (axPage 11 2 + 0x400, 10), (strPage 11 2 + 0xC, 2), (strPage 11 2 + 0x4C, 0x8050), (strPage 11 2 + 0x50, 64), (encPage 11 0 + 0x58, 1000), (puPage 11 1 + 0x44, 65536), (drPage 2 + 0xC, 2), (drPage 2 + 0x50, 12), (drPage 2 + 0x5C, 20)] with axes := [(11 * 16 + 2, {})], grps := [(11 * 32 + 1, {})], poss := [(11 * 8 + 1, { line := 9, runs := [(0, 0, 65536)] })] }, 11, 1, by decide +kernel⟩
theorem witness_PacingSplicesAndRestarts_4 : ∃ (s : State) (req : Nat) (site : Nat) (g : Nat), s.takes 0x3A req site (0x70 + g) 0x78 = true ∧ s.isField site = true ∧ g < 8 :=
  ⟨{ poke bench [(axPage 11 2 + 0xC, 2), (dollyPage 11 + 0x40, 0xFFFFF1FF), (axPage 11 2 + 0x64, 1000), (grpPage 11 1 + 0x40, 0x12), (axPage 11 2 + 0x400, 10), (strPage 11 2 + 0xC, 2), (strPage 11 2 + 0x4C, 0x8050), (strPage 11 2 + 0x50, 64), (encPage 11 0 + 0x58, 1000), (puPage 11 1 + 0x44, 65536), (drPage 2 + 0xC, 2), (drPage 2 + 0x50, 12), (drPage 2 + 0x5C, 20)] with axes := [(11 * 16 + 2, {})], grps := [(11 * 32 + 1, {})], poss := [(11 * 8 + 1, { line := 9, runs := [(0, 0, 65536)] })] }, 0, 11, 1, by decide +kernel⟩
theorem witness_PacingSplicesAndRestarts_5 : ∃ (s : State) (req : Nat) (site : Nat) (g : Nat), s.takes 0x3A req site (0x70 + g) 0x78 = true ∧ s.isField site = true ∧ g < 8 ∧ s.resumeOk site g false = true :=
  ⟨{ poke bench [(axPage 11 2 + 0xC, 2), (dollyPage 11 + 0x40, 0xFFFFF1FF), (axPage 11 2 + 0x64, 1000), (grpPage 11 1 + 0x40, 0x12), (axPage 11 2 + 0x400, 10), (strPage 11 2 + 0xC, 4), (strPage 11 2 + 0x4C, 0x8050), (strPage 11 2 + 0x50, 64), (encPage 11 0 + 0x58, 1000), (puPage 11 1 + 0x44, 65536), (drPage 2 + 0xC, 2), (drPage 2 + 0x50, 12), (drPage 2 + 0x5C, 20), (strPage 11 2 + 0x80, 98), (strPage 11 2 + 0x84, 8)] with axes := [(11 * 16 + 2, {})], grps := [(11 * 32 + 1, { atRest := true })], poss := [(11 * 8 + 1, { line := 9, runs := [(0, 0, 65536)] })] }, 0, 11, 1, by decide +kernel⟩
theorem witness_PacingSplicesAndRestarts_6 : ∃ (s : State) (req : Nat) (site : Nat) (g : Nat), s.takes 0x3A req site (0x70 + g) 0x78 = true ∧ s.isField site = true ∧ g < 8 ∧ s.resumeOk site g false = false :=
  ⟨{ poke bench [(axPage 11 2 + 0xC, 2), (dollyPage 11 + 0x40, 0xFFFFF1FF), (axPage 11 2 + 0x64, 1000), (grpPage 11 1 + 0x40, 0x12), (axPage 11 2 + 0x400, 10), (strPage 11 2 + 0xC, 2), (strPage 11 2 + 0x4C, 0x8050), (strPage 11 2 + 0x50, 64), (encPage 11 0 + 0x58, 1000), (puPage 11 1 + 0x44, 65536), (drPage 2 + 0xC, 2), (drPage 2 + 0x50, 12), (drPage 2 + 0x5C, 20)] with axes := [(11 * 16 + 2, {})], grps := [(11 * 32 + 1, {})], poss := [(11 * 8 + 1, { line := 9, runs := [(0, 0, 65536)] })] }, 0, 11, 1, by decide +kernel⟩
theorem witness_PacingSplicesAndRestarts_7 : ∃ (s : State) (req : Nat) (site : Nat) (g : Nat), s.takes 0x3A req site (0x70 + g) 0x78 = true ∧ s.isField site = true ∧ g < 8 ∧ s.resumeOk site g true = true :=
  ⟨{ poke bench [(axPage 11 2 + 0xC, 2), (dollyPage 11 + 0x40, 0xFFFFF1FF), (axPage 11 2 + 0x64, 1000), (grpPage 11 1 + 0x40, 0x12), (axPage 11 2 + 0x400, 10), (strPage 11 2 + 0xC, 4), (strPage 11 2 + 0x4C, 0x8050), (strPage 11 2 + 0x50, 64), (encPage 11 0 + 0x58, 1000), (puPage 11 1 + 0x44, 65536), (drPage 2 + 0xC, 2), (drPage 2 + 0x50, 12), (drPage 2 + 0x5C, 20), (strPage 11 2 + 0x80, 98), (strPage 11 2 + 0x84, 8), (pacePage 11 1 + 0x70, 20)] with axes := [(11 * 16 + 2, {})], grps := [(11 * 32 + 1, { atRest := true })], poss := [(11 * 8 + 1, { line := 9, runs := [(0, 0, 65536)] })] }, 0, 11, 1, by decide +kernel⟩
theorem witness_PacingSplicesAndRestarts_8 : ∃ (s : State) (req : Nat) (site : Nat) (g : Nat) (k : Nat), s.takes 0x3A req site (0x70 + g) 0x78 = true ∧ s.isField site = true ∧ g < 8 ∧ k ∈ s.splicedStreams site g ∧ s.splLine site k ≠ 2 ^ 48 - 1 ∧ s.restartLine site g ≤ s.splLine site k :=
  ⟨{ poke bench [(axPage 11 2 + 0xC, 2), (dollyPage 11 + 0x40, 0xFFFFF1FF), (axPage 11 2 + 0x64, 1000), (grpPage 11 1 + 0x40, 0x12), (axPage 11 2 + 0x400, 10), (strPage 11 2 + 0xC, 4), (strPage 11 2 + 0x4C, 0x8050), (strPage 11 2 + 0x50, 64), (encPage 11 0 + 0x58, 1000), (puPage 11 1 + 0x44, 65536), (drPage 2 + 0xC, 2), (drPage 2 + 0x50, 12), (drPage 2 + 0x5C, 20), (strPage 11 2 + 0x80, 98), (strPage 11 2 + 0x84, 8)] with axes := [(11 * 16 + 2, {})], grps := [(11 * 32 + 1, { atRest := true })], poss := [(11 * 8 + 1, { line := 9, runs := [(0, 0, 65536)] })] }, 0, 11, 1, 2, by decide +kernel⟩
theorem witness_PacingSplicesAndRestarts_9 : ∃ (s : State) (site : Nat) (g : Nat), s.isField site = true ∧ g < 8 ∧ ((s.grp site g).stage = 1 ∨ (s.grp site g).stage = 2) ∧ s.behind site g = true ∧ s.leaderVel site g = 0 :=
  ⟨{ poke bench [(axPage 11 2 + 0xC, 2), (dollyPage 11 + 0x40, 0xFFFFF1FF), (axPage 11 2 + 0x64, 1000), (grpPage 11 1 + 0x40, 0x12), (axPage 11 2 + 0x400, 10), (strPage 11 2 + 0xC, 2), (strPage 11 2 + 0x4C, 0x8050), (strPage 11 2 + 0x50, 64), (encPage 11 0 + 0x58, 1000), (puPage 11 1 + 0x44, 65536), (drPage 2 + 0xC, 2), (drPage 2 + 0x50, 12), (drPage 2 + 0x5C, 20)] with axes := [(11 * 16 + 2, {})], grps := [(11 * 32 + 1, { stage := 1, lr := 9 })], poss := [(11 * 8 + 1, { line := 9, runs := [(0, 0, 65536)] })], encs := [(88, { count := -1000000 })] }, 11, 1, by decide +kernel⟩
theorem witness_PacingSplicesAndRestarts_10 : ∃ (s : State) (site : Nat) (g : Nat), s.isField site = true ∧ g < 8 ∧ s.regBit (pacePage site g + 0x40) 1 = true ∧ s.splicedStreams site g ≠ [] ∧ ((s.splicedStreams site g).all (fun k => s.splCause site k == 1 && s.splState site k == 2)) = true ∧ 49152 ≤ (s.pBuf site g (s.splicedStreams site g)).1 ∧ s.resumeOk site g false = true :=
  ⟨poke ({ poke bench [(axPage 11 2 + 0xC, 2), (dollyPage 11 + 0x40, 0xFFFFF1FF), (axPage 11 2 + 0x64, 1000), (grpPage 11 1 + 0x40, 0x12), (axPage 11 2 + 0x400, 10), (strPage 11 2 + 0xC, 4), (strPage 11 2 + 0x4C, 0x8050), (strPage 11 2 + 0x50, 64), (encPage 11 0 + 0x58, 1000), (puPage 11 1 + 0x44, 65536), (drPage 2 + 0xC, 2), (drPage 2 + 0x50, 12), (drPage 2 + 0x5C, 20), (strPage 11 2 + 0x80, 18), (strPage 11 2 + 0x84, 8), (pacePage 11 1 + 0x40, 2), (pacePage 11 1 + 0x44, 0x10000), (pacePage 11 1 + 0x4C, 1)] with axes := [(11 * 16 + 2, {})], grps := [(11 * 32 + 1, { atRest := true })], poss := [(11 * 8 + 1, { line := 9, runs := [(0, 0, 65536)] })] }) [(strPage 11 2 + 0xA8, 64), (strPage 11 2 + 0x50, 0x40040)], 11, 1, by decide +kernel⟩
theorem witness_MeterConversionsFaultsAndOutputs_1 : ∃ (s : State) (site : Nat) (m : Nat) (conv : MeterSample) (v : Word), let u := s.refreshCj site conv.cj; let p := mtrPage site m; let codes := conv.codes.map (u.corrected site m); let isBo := mBo u site m == 2 && decide (mMode u site m ≤ 1) && (u.meter site m).sinceBo == 15; let w := (u.setReg (p + 0x7C) (wordOfInt (codes.getLastD 0))).meterCauses site m conv (codes.getD 0 0) isBo; let big := (codes.map Int.natAbs).foldl max 0; let x := toF32 (w.signalX site m (codes.map (w.codeValue site m)) (conv.excs.map (w.excTrue site m))); s.isField site = true ∧ m < 8 ∧ u.st p = 2 ∧ u.regBit (p + 0x70) 8 = false ∧ (u.meter site m).settle + convTicks u site m ≤ u.now ∧ ((u.calib site).active ≠ some m ∨ (u.calib site).waitLive = true) ∧ mCause w site m = 0 ∧ isBo = false ∧ big < 2 ^ 23 - 1 ∧ w.linearise site m x = some v :=
  ⟨{ poke bench [(mtrPage 11 1 + 0xC, 2), (mtrPage 11 1 + 0x40, 80), (mtrPage 11 1 + 0x70, 65), (mcomPage 11 + 0x4C, 0x40200000)] with meters := [(11 * 8 + 1, {})], now := 8000000 }, 11, 1, { codes := [1000] }, toF32 (({ poke bench [(mtrPage 11 1 + 0xC, 2), (mtrPage 11 1 + 0x40, 80), (mtrPage 11 1 + 0x70, 65), (mcomPage 11 + 0x4C, 0x40200000)] with meters := [(11 * 8 + 1, {})], now := 8000000 } : State).signalX 11 1 [({ poke bench [(mtrPage 11 1 + 0xC, 2), (mtrPage 11 1 + 0x40, 80), (mtrPage 11 1 + 0x70, 65), (mcomPage 11 + 0x4C, 0x40200000)] with meters := [(11 * 8 + 1, {})], now := 8000000 } : State).codeValue 11 1 1000] []), by decide +kernel⟩
theorem witness_MeterConversionsFaultsAndOutputs_2 : ∃ (s : State) (site : Nat) (m : Nat) (conv : MeterSample), let u := s.refreshCj site conv.cj; let p := mtrPage site m; let codes := conv.codes.map (u.corrected site m); let isBo := mBo u site m == 2 && decide (mMode u site m ≤ 1) && (u.meter site m).sinceBo == 15; let w := (u.setReg (p + 0x7C) (wordOfInt (codes.getLastD 0))).meterCauses site m conv (codes.getD 0 0) isBo; s.isField site = true ∧ m < 8 ∧ u.st p = 2 ∧ u.regBit (p + 0x70) 8 = false ∧ (u.meter site m).settle + convTicks u site m ≤ u.now ∧ ((u.calib site).active ≠ some m ∨ (u.calib site).waitLive = true) ∧ mCause w site m ≠ 0 :=
  ⟨{ poke bench [(mtrPage 11 1 + 0xC, 2), (mtrPage 11 1 + 0x40, 2), (mtrPage 11 1 + 0x70, 65), (mcomPage 11 + 0x4C, 0x40200000), (mtrPage 11 1 + 0x48, 100)] with meters := [(11 * 8 + 1, {})], now := 800000000 }, 11, 1, { codes := [1000], compliance := true }, by decide +kernel⟩
theorem witness_MeterConversionsFaultsAndOutputs_3 : ∃ (s : State) (site : Nat) (m : Nat) (conv : MeterSample), let u := s.refreshCj site conv.cj; let p := mtrPage site m; let codes := conv.codes.map (u.corrected site m); let isBo := mBo u site m == 2 && decide (mMode u site m ≤ 1) && (u.meter site m).sinceBo == 15; let w := (u.setReg (p + 0x7C) (wordOfInt (codes.getLastD 0))).meterCauses site m conv (codes.getD 0 0) isBo; s.isField site = true ∧ m < 8 ∧ u.st p = 2 ∧ u.regBit (p + 0x70) 8 = false ∧ (u.meter site m).settle + convTicks u site m ≤ u.now ∧ ((u.calib site).active ≠ some m ∨ (u.calib site).waitLive = true) ∧ mCause w site m = 0 ∧ isBo = true :=
  ⟨{ poke bench [(mtrPage 11 1 + 0xC, 2), (mtrPage 11 1 + 0x40, 65616), (mtrPage 11 1 + 0x70, 65), (mcomPage 11 + 0x4C, 0x40200000)] with meters := [(11 * 8 + 1, { sinceBo := 15 })], now := 8000000 }, 11, 1, { codes := [1000] }, by decide +kernel⟩
theorem witness_MeterConversionsFaultsAndOutputs_4 : ∃ (s : State) (site : Nat) (m : Nat) (conv : MeterSample), let u := s.refreshCj site conv.cj; let p := mtrPage site m; let codes := conv.codes.map (u.corrected site m); let isBo := mBo u site m == 2 && decide (mMode u site m ≤ 1) && (u.meter site m).sinceBo == 15; let w := (u.setReg (p + 0x7C) (wordOfInt (codes.getLastD 0))).meterCauses site m conv (codes.getD 0 0) isBo; let big := (codes.map Int.natAbs).foldl max 0; let x := toF32 (w.signalX site m (codes.map (w.codeValue site m)) (conv.excs.map (w.excTrue site m))); s.isField site = true ∧ m < 8 ∧ u.st p = 2 ∧ u.regBit (p + 0x70) 8 = false ∧ (u.meter site m).settle + convTicks u site m ≤ u.now ∧ ((u.calib site).active ≠ some m ∨ (u.calib site).waitLive = true) ∧ mCause w site m = 0 ∧ isBo = false ∧ (2 ^ 23 - 1 ≤ big ∧ (mRange w site m = u.regFld (p + 0x44) 4 3 ∨ mAuto u site m = false) ∨ big < 2 ^ 23 - 1 ∧ w.linearise site m x = none) :=
  ⟨{ poke bench [(mtrPage 11 1 + 0xC, 2), (mtrPage 11 1 + 0x40, 80), (mtrPage 11 1 + 0x70, 65), (mcomPage 11 + 0x4C, 0x40200000)] with meters := [(11 * 8 + 1, {})], now := 8000000 }, 11, 1, { codes := [8388607] }, by decide +kernel⟩
theorem witness_MeterConversionsFaultsAndOutputs_5 : ∃ (s : State) (site : Nat) (m : Nat) (conv : MeterSample), let u := s.refreshCj site conv.cj; let p := mtrPage site m; let codes := conv.codes.map (u.corrected site m); let isBo := mBo u site m == 2 && decide (mMode u site m ≤ 1) && (u.meter site m).sinceBo == 15; let w := (u.setReg (p + 0x7C) (wordOfInt (codes.getLastD 0))).meterCauses site m conv (codes.getD 0 0) isBo; let big := (codes.map Int.natAbs).foldl max 0; s.isField site = true ∧ m < 8 ∧ u.st p = 2 ∧ u.regBit (p + 0x70) 8 = false ∧ (u.meter site m).settle + convTicks u site m ≤ u.now ∧ ((u.calib site).active ≠ some m ∨ (u.calib site).waitLive = true) ∧ mCause w site m = 0 ∧ isBo = false ∧ 2 ^ 23 - 1 ≤ big ∧ mAuto u site m = true ∧ u.regFld (p + 0x44) 4 3 < mRange u site m ∧ mRange u site m ≤ u.regFld (p + 0x44) 8 3 + 1 :=
  ⟨{ poke bench [(mtrPage 11 1 + 0xC, 2), (mtrPage 11 1 + 0x40, 8272), (mtrPage 11 1 + 0x70, 81), (mcomPage 11 + 0x4C, 0x40200000), (mtrPage 11 1 + 0x44, 0x700)] with meters := [(11 * 8 + 1, {})], now := 8000000 }, 11, 1, { codes := [8388607] }, by decide +kernel⟩
theorem witness_MeterConversionsFaultsAndOutputs_6 : ∃ (s : State) (site : Nat) (m : Nat) (conv : MeterSample), let u := s.refreshCj site conv.cj; let p := mtrPage site m; (u.regBit (p + 0x70) 8 = true ∨ u.now < (u.meter site m).settle + convTicks u site m ∨ (u.calib site).active = some m ∧ (u.calib site).waitLive = false) :=
  ⟨{ poke bench [(mtrPage 11 1 + 0xC, 2), (mtrPage 11 1 + 0x40, 80), (mtrPage 11 1 + 0x70, 65), (mcomPage 11 + 0x4C, 0x40200000)] with meters := [(11 * 8 + 1, {})] }, 11, 1, { codes := [1000] }, by decide +kernel⟩
theorem witness_MeterConversionsFaultsAndOutputs_7 : ∃ (s : State) (site : Nat) (m : Nat), s.isField site = true ∧ m < 8 ∧ (s.st (mtrPage site m) = 1 ∨ s.st (mtrPage site m) = 2) ∧ mMode s site m = 5 :=
  ⟨{ poke bench [(mtrPage 11 1 + 0xC, 2), (mtrPage 11 1 + 0x40, 85), (mtrPage 11 1 + 0x70, 65), (mcomPage 11 + 0x4C, 0x40200000)] with meters := [(11 * 8 + 1, { excOn := true })] }, 11, 1, by decide +kernel⟩
theorem witness_MeterConversionsFaultsAndOutputs_8 : ∃ (s : State) (site : Nat) (m : Nat) (n : Nat), s.isField site = true ∧ m < 8 ∧ (s.meter site m).cutEnd = some n ∧ s.regBit (mtrPage site m + 0x70) 11 = true ∧ (s.meter site m).clampAt = none ∧ n + 20000000 ≤ s.now :=
  ⟨{ poke bench [(mtrPage 11 1 + 0xC, 2), (mtrPage 11 1 + 0x40, 85), (mtrPage 11 1 + 0x70, 3137), (mcomPage 11 + 0x4C, 0x40200000)] with meters := [(11 * 8 + 1, { cutEnd := some 0 })], now := 20000000 }, 11, 1, 0, by decide +kernel⟩
theorem witness_MeterConversionsFaultsAndOutputs_9 : ∃ (s : State) (site : Nat) (m : Nat), s.isField site = true ∧ m < 8 ∧ s.regBit (mtrPage site m + 0x70) 8 = false :=
  ⟨{ poke bench [(mtrPage 11 1 + 0xC, 2), (mtrPage 11 1 + 0x40, 80), (mtrPage 11 1 + 0x70, 65), (mcomPage 11 + 0x4C, 0x40200000)] with meters := [(11 * 8 + 1, {})] }, 11, 1, by decide +kernel⟩
theorem witness_MeterConversionsFaultsAndOutputs_10 : ∃ (s : State) (site : Nat) (m : Nat), s.isField site = true ∧ m < 8 ∧ s.regBit (mtrPage site m + 0x70) 8 = true :=
  ⟨{ poke bench [(mtrPage 11 1 + 0xC, 2), (mtrPage 11 1 + 0x40, 80), (mtrPage 11 1 + 0x70, 321), (mcomPage 11 + 0x4C, 0x40200000)] with meters := [(11 * 8 + 1, {})] }, 11, 1, by decide +kernel⟩
theorem witness_MeterConversionsFaultsAndOutputs_11 : ∃ (s : State) (site : Nat) (m : Nat) (n : Nat), s.isField site = true ∧ m < 8 ∧ (s.meter site m).clampAt = some n ∧ n + 20000000 ≤ s.now ∧ s.active (mtrPage site m) = true :=
  ⟨{ poke bench [(mtrPage 11 1 + 0xC, 2), (mtrPage 11 1 + 0x40, 80), (mtrPage 11 1 + 0x70, 65), (mcomPage 11 + 0x4C, 0x40200000)] with meters := [(11 * 8 + 1, { clampAt := some 0 })], now := 20000000 }, 11, 1, 0, by decide +kernel⟩
theorem witness_MeterConversionsFaultsAndOutputs_12 : ∃ (s : State) (site : Nat) (m : Nat), s.isField site = true ∧ m < 8 ∧ (s.st (mtrPage site m) = 1 ∨ s.st (mtrPage site m) = 2 ∨ s.st (mtrPage site m) = 3) :=
  ⟨{ poke bench [(mtrPage 11 1 + 0xC, 2), (mtrPage 11 1 + 0x40, 80), (mtrPage 11 1 + 0x70, 65), (mcomPage 11 + 0x4C, 0x40200000)] with meters := [(11 * 8 + 1, {})] }, 11, 1, by decide +kernel⟩
theorem witness_MeterConversionsFaultsAndOutputs_13 : ∃ (s : State) (site : Nat) (mv : Nat), s.isField site = true ∧ 1000 ≤ mv ∧ mv ≤ 2600 :=
  ⟨{ poke bench [(mtrPage 11 1 + 0xC, 2), (mtrPage 11 1 + 0x40, 80), (mtrPage 11 1 + 0x70, 65), (mcomPage 11 + 0x4C, 0x40200000)] with meters := [(11 * 8 + 1, {})] }, 11, 2500, by decide +kernel⟩
theorem witness_MeterConversionsFaultsAndOutputs_14 : ∃ (s : State) (site : Nat) (mv : Nat), s.isField site = true ∧ (mv < 1000 ∨ 2600 < mv) :=
  ⟨{ poke bench [(mtrPage 11 1 + 0xC, 2), (mtrPage 11 1 + 0x40, 80), (mtrPage 11 1 + 0x70, 65), (mcomPage 11 + 0x4C, 0x40200000)] with meters := [(11 * 8 + 1, {})] }, 11, 900, by decide +kernel⟩
theorem witness_MeterConversionsFaultsAndOutputs_15 : ∃ (s : State) (site : Nat) (o : Nat), s.isField site = true ∧ o < 8 :=
  ⟨{ poke bench [(mtrPage 11 1 + 0xC, 2), (mtrPage 11 1 + 0x40, 80), (mtrPage 11 1 + 0x70, 65), (mcomPage 11 + 0x4C, 0x40200000)] with meters := [(11 * 8 + 1, {})] } |> fun s => poke s [(outPage 11 0 + 0xC, 2), (outPage 11 0 + 0x40, 1), (outPage 11 0 + 0x48, 0x40000000), (mtrPage 11 1 + 0x74, 0x3F800000)], 11, 0, by decide +kernel⟩
theorem witness_MeterConversionsFaultsAndOutputs_16 : ∃ (s : State) (req : Nat) (site : Nat) (m : Nat) (off : Nat) (val : Word) (r : RegDef), m < 8 ∧ 0x40 ≤ off ∧ s.takes 0x3B req site (0x78 + m) off = true ∧ findReg 0x3B off = some r ∧ staticReason r val = none ∧ r.acc = .rws ∧ s.openSlot site (0x78 + m) = none ∧ s.valueBad site (0x78 + m) off val = false ∧ s.guardReg site (0x78 + m) off = false ∧ s.typeAt site (0x78 + m) = 0x3B ∧ s.active (mtrPage site m) = true ∧ (off ∈ [0x4C, 0x50, 0x54, 0x68] ∨ 0x100 ≤ off) ∧ maskedWrite r (s.reg (mtrPage site m + off)) val ≠ s.reg (mtrPage site m + off) :=
  ⟨{ poke bench [(mtrPage 11 1 + 0xC, 2), (mtrPage 11 1 + 0x40, 80), (mtrPage 11 1 + 0x70, 65), (mcomPage 11 + 0x4C, 0x40200000)] with meters := [(11 * 8 + 1, {})] }, 0, 11, 1, 0x4C, 0x89#32, (findReg 0x3B 0x4C).getD { off := 0, acc := .ro }, by decide +kernel⟩
theorem witness_MeterConversionsFaultsAndOutputs_17 : ∃ (s : State) (req : Nat) (site : Nat) (m : Nat) (off : Nat) (val : Word) (r : RegDef), m < 8 ∧ 0x40 ≤ off ∧ s.takes 0x3B req site (0x78 + m) off = true ∧ findReg 0x3B off = some r ∧ staticReason r val = none ∧ r.acc = .rws ∧ s.openSlot site (0x78 + m) = none ∧ s.valueBad site (0x78 + m) off val = false ∧ s.guardReg site (0x78 + m) off = false ∧ s.typeAt site (0x78 + m) = 0x3B ∧ s.active (mtrPage site m) = true ∧ off = 0x48 ∧ maskedWrite r (s.reg (mtrPage site m + off)) val ≠ s.reg (mtrPage site m + off) :=
  ⟨{ poke bench [(mtrPage 11 1 + 0xC, 2), (mtrPage 11 1 + 0x40, 80), (mtrPage 11 1 + 0x70, 65), (mcomPage 11 + 0x4C, 0x40200000)] with meters := [(11 * 8 + 1, {})] }, 0, 11, 1, 0x48, 0x64#32, (findReg 0x3B 0x48).getD { off := 0, acc := .ro }, by decide +kernel⟩
theorem witness_MeterConversionsFaultsAndOutputs_18 : ∃ (s : State) (req : Nat) (site : Nat) (m : Nat) (off : Nat) (val : Word) (r : RegDef), m < 8 ∧ 0x40 ≤ off ∧ s.takes 0x3B req site (0x78 + m) off = true ∧ findReg 0x3B off = some r ∧ staticReason r val = none ∧ r.acc = .rws ∧ s.openSlot site (0x78 + m) = none ∧ s.valueBad site (0x78 + m) off val = false ∧ s.guardReg site (0x78 + m) off = false ∧ s.typeAt site (0x78 + m) = 0x3B ∧ s.st (mtrPage site m) = 0 ∧ (s.calib site).active ≠ some m ∧ m ∉ (s.calib site).pendingRuns :=
  ⟨{ poke bench [(mtrPage 11 1 + 0xC, 0), (mtrPage 11 1 + 0x40, 80), (mtrPage 11 1 + 0x70, 65), (mcomPage 11 + 0x4C, 0x40200000)] with meters := [(11 * 8 + 1, {})] }, 0, 11, 1, 0x48, 0x64#32, (findReg 0x3B 0x48).getD { off := 0, acc := .ro }, by decide +kernel⟩
theorem witness_CalibrationRunsAndTables_1 : ∃ (s : State) (req : Nat) (site : Nat) (val : Word), let chs := (List.range 8).filter (fun i => bitOf val i); s.takes 0x3D req site 0x88 0x58 = true ∧ s.reg (mcomPage site + 0x4C) ≠ 0#32 ∧ s.reg (mcomPage site + 0x50) ≠ 0#32 ∧ (chs.any (fun m => (s.guardMeter site m && s.st (mtrPage site m) == 2) || !(s.st (mtrPage site m) == 0 || s.st (mtrPage site m) == 2))) = false ∧ (s.calib site).active = none ∧ fld val 0 8 ≠ 0 ∧ bitOf val 8 = false ∧ bitOf val 20 = false :=
  ⟨{ poke bench [(mcomPage 11 + 0x4C, 0x40200000), (mcomPage 11 + 0x50, 0x44FA0000), (mcomPage 11 + 0x54, 0x108), (mtrPage 11 1 + 0x70, 0x41), (mcomPage 11 + 0x44, 2500), (mcomPage 11 + 0x48, 1)] with calibs := [(11, {})] }, 0, 11, 6#32, by decide +kernel⟩
theorem witness_CalibrationRunsAndTables_2 : ∃ (s : State) (req : Nat) (site : Nat) (val : Word), let chs := (List.range 8).filter (fun i => bitOf val i); s.takes 0x3D req site 0x88 0x58 = true ∧ fld val 0 8 ≠ 0 ∧ (s.reg (mcomPage site + 0x4C) = 0#32 ∨ s.reg (mcomPage site + 0x50) = 0#32 ∨ (chs.any (fun m => (s.guardMeter site m && s.st (mtrPage site m) == 2) || !(s.st (mtrPage site m) == 0 || s.st (mtrPage site m) == 2))) = true) :=
  ⟨{ poke bench [(mcomPage 11 + 0x4C, 0x40200000), (mcomPage 11 + 0x50, 0x44FA0000), (mcomPage 11 + 0x54, 0x108), (mtrPage 11 1 + 0x70, 0x41), (mcomPage 11 + 0x44, 2500), (mcomPage 11 + 0x48, 1), (mtrPage 11 1 + 0xC, 3)] with calibs := [(11, {})] }, 0, 11, 2#32, by decide +kernel⟩
theorem witness_CalibrationRunsAndTables_3 : ∃ (s : State) (site : Nat) (ch : Nat) (k : CalKind) (rest : List CalKind) (r : CalSample), let c := s.calib site; let q : CalSample := { r with clamped := r.clamped || s.regBit (mtrPage site ch + 0x70) 8 }; s.isField site = true ∧ c.active = some ch ∧ c.steps = k :: rest ∧ c.waitLive = false ∧ (c.checked = true ∨ calRefOk s site r = true) ∧ (calResult s site ch k q).2.2 = true ∧ rest ≠ [] :=
  ⟨{ poke bench [(mcomPage 11 + 0x4C, 0x40200000), (mcomPage 11 + 0x50, 0x44FA0000), (mcomPage 11 + 0x54, 0x108), (mtrPage 11 1 + 0x70, 0x41), (mcomPage 11 + 0x44, 2500), (mcomPage 11 + 0x48, 1)] with calibs := [(11, { active := some 1, checked := true, steps := [.zero 0, .gain 0] })] }, 11, 1, .zero 0, [.gain 0], { sum := 5 }, by decide +kernel⟩
theorem witness_CalibrationRunsAndTables_4 : ∃ (s : State) (site : Nat) (ch : Nat) (k : CalKind) (rest : List CalKind) (r : CalSample), let c := s.calib site; let q : CalSample := { r with clamped := r.clamped || s.regBit (mtrPage site ch + 0x70) 8 }; s.isField site = true ∧ c.active = some ch ∧ c.steps = k :: rest ∧ c.waitLive = false ∧ (c.checked = true ∨ calRefOk s site r = true) ∧ (calResult s site ch k q).2.2 = true ∧ rest = [] ∧ ch < 8 :=
  ⟨{ poke bench [(mcomPage 11 + 0x4C, 0x40200000), (mcomPage 11 + 0x50, 0x44FA0000), (mcomPage 11 + 0x54, 0x108), (mtrPage 11 1 + 0x70, 0x41), (mcomPage 11 + 0x44, 2500), (mcomPage 11 + 0x48, 1)] with calibs := [(11, { active := some 1, checked := true, full := true, steps := [.zero 0] })] }, 11, 1, .zero 0, [], { sum := 5 }, by decide +kernel⟩
theorem witness_CalibrationRunsAndTables_5 : ∃ (s : State) (site : Nat) (ch : Nat) (k : CalKind) (rest : List CalKind) (r : CalSample), let c := s.calib site; let q : CalSample := { r with clamped := r.clamped || s.regBit (mtrPage site ch + 0x70) 8 }; s.isField site = true ∧ c.active = some ch ∧ c.steps = k :: rest ∧ c.waitLive = false ∧ (c.checked = true ∨ calRefOk s site r = true) ∧ (calResult s site ch k q).2.2 = false ∧ c.tries < 3 :=
  ⟨{ poke bench [(mcomPage 11 + 0x4C, 0x40200000), (mcomPage 11 + 0x50, 0x44FA0000), (mcomPage 11 + 0x54, 0x108), (mtrPage 11 1 + 0x70, 0x141), (mcomPage 11 + 0x44, 2500), (mcomPage 11 + 0x48, 1)] with calibs := [(11, { active := some 1, checked := true, steps := [.zero 0] })] }, 11, 1, .zero 0, [], { sum := 5 }, by decide +kernel⟩
theorem witness_CalibrationRunsAndTables_6 : ∃ (s : State) (site : Nat) (ch : Nat) (k : CalKind) (rest : List CalKind) (r : CalSample), let c := s.calib site; let q : CalSample := { r with clamped := r.clamped || s.regBit (mtrPage site ch + 0x70) 8 }; s.isField site = true ∧ c.active = some ch ∧ c.steps = k :: rest ∧ c.waitLive = false ∧ (c.checked = true ∨ calRefOk s site r = true) ∧ (calResult s site ch k q).2.2 = false ∧ 3 ≤ c.tries :=
  ⟨{ poke bench [(mcomPage 11 + 0x4C, 0x40200000), (mcomPage 11 + 0x50, 0x44FA0000), (mcomPage 11 + 0x54, 0x108), (mtrPage 11 1 + 0x70, 0x41), (mcomPage 11 + 0x44, 2500), (mcomPage 11 + 0x48, 1)] with calibs := [(11, { active := some 1, checked := true, tries := 3, steps := [.zero 0] })] }, 11, 1, .zero 0, [], { sum := 5, clamped := true }, by decide +kernel⟩
theorem witness_CalibrationRunsAndTables_7 : ∃ (s : State) (site : Nat) (ch : Nat) (k : CalKind) (rest : List CalKind) (r : CalSample), let c := s.calib site; s.isField site = true ∧ c.active = some ch ∧ c.steps = k :: rest ∧ c.waitLive = false ∧ c.checked = false ∧ calRefOk s site r = false :=
  ⟨{ poke bench [(mcomPage 11 + 0x4C, 0x40200000), (mcomPage 11 + 0x50, 0x44FA0000), (mcomPage 11 + 0x54, 0x108), (mtrPage 11 1 + 0x70, 0x41), (mcomPage 11 + 0x44, 2500), (mcomPage 11 + 0x48, 1)] with calibs := [(11, { active := some 1, steps := [.zero 0] })] }, 11, 1, .zero 0, [], { sum := 5 }, by decide +kernel⟩
theorem witness_CalibrationRunsAndTables_8 : ∃ (s : State) (req : Nat) (site : Nat) (val : Word) (ch : Nat), s.takes 0x3D req site 0x88 0x58 = true ∧ (s.calib site).active = some ch ∧ fld val 0 8 = 0 ∧ bitOf val 8 = true ∧ bitOf val 20 = false :=
  ⟨{ poke bench [(mcomPage 11 + 0x4C, 0x40200000), (mcomPage 11 + 0x50, 0x44FA0000), (mcomPage 11 + 0x54, 0x108), (mtrPage 11 1 + 0x70, 0x41), (mcomPage 11 + 0x44, 2500), (mcomPage 11 + 0x48, 1)] with calibs := [(11, { active := some 1, steps := [.zero 0] })] }, 0, 11, 0x100#32, 1, by decide +kernel⟩
theorem witness_CalibrationRunsAndTables_9 : ∃ (s : State) (req : Nat) (site : Nat) (val : Word), s.takes 0x3D req site 0x88 0x58 = true ∧ fld val 16 4 < 8 ∧ s.reg (mcomPage site + 0x5C) = s.calCrc site (fld val 16 4) ∧ fld val 0 8 = 0 ∧ bitOf val 8 = false ∧ bitOf val 20 = true :=
  ⟨{ poke bench [(mcomPage 11 + 0x4C, 0x40200000), (mcomPage 11 + 0x50, 0x44FA0000), (mcomPage 11 + 0x54, 0x108), (mtrPage 11 1 + 0x70, 0x41), (mcomPage 11 + 0x44, 2500), (mcomPage 11 + 0x48, 1), (mcomPage 11 + 0x5C, (bench.calCrc 11 1).toNat)] with calibs := [(11, {})] }, 0, 11, 0x110000#32, by decide +kernel⟩
theorem witness_CalibrationRunsAndTables_10 : ∃ (s : State) (req : Nat) (site : Nat) (val : Word), s.takes 0x3D req site 0x88 0x58 = true ∧ (8 ≤ fld val 16 4 ∨ s.reg (mcomPage site + 0x5C) ≠ s.calCrc site (fld val 16 4)) ∧ fld val 0 8 = 0 ∧ bitOf val 20 = true :=
  ⟨{ poke bench [(mcomPage 11 + 0x4C, 0x40200000), (mcomPage 11 + 0x50, 0x44FA0000), (mcomPage 11 + 0x54, 0x108), (mtrPage 11 1 + 0x70, 0x41), (mcomPage 11 + 0x44, 2500), (mcomPage 11 + 0x48, 1)] with calibs := [(11, {})] }, 0, 11, 0x110000#32, by decide +kernel⟩
theorem witness_CalibrationRunsAndTables_11 : ∃ (s : State) (req : Nat) (site : Nat), let c := s.calib site; let a := s.regFld (mcomPage site + 0x64) 0 8; s.takes 0x3D req site 0x88 0x68 = true ∧ a % 32 ≠ 31 ∧ s.st (mtrPage site (a / 32)) = 0 ∧ c.active ≠ some (a / 32) ∧ a / 32 ∉ c.pendingRuns :=
  ⟨{ poke bench [(mcomPage 11 + 0x4C, 0x40200000), (mcomPage 11 + 0x50, 0x44FA0000), (mcomPage 11 + 0x54, 0x108), (mtrPage 11 1 + 0x70, 0x41), (mcomPage 11 + 0x44, 2500), (mcomPage 11 + 0x48, 1)] with calibs := [(11, {})] }, 0, 11, by decide +kernel⟩
theorem witness_CalibrationRunsAndTables_12 : ∃ (s : State) (req : Nat) (site : Nat), let a := s.regFld (mcomPage site + 0x64) 0 8; s.takes 0x3D req site 0x88 0x68 = true ∧ a % 32 = 31 :=
  ⟨{ poke bench [(mcomPage 11 + 0x4C, 0x40200000), (mcomPage 11 + 0x50, 0x44FA0000), (mcomPage 11 + 0x54, 0x108), (mtrPage 11 1 + 0x70, 0x41), (mcomPage 11 + 0x44, 2500), (mcomPage 11 + 0x48, 1), (mcomPage 11 + 0x64, 31)] with calibs := [(11, {})] }, 0, 11, by decide +kernel⟩
theorem witness_CalibrationRunsAndTables_13 : ∃ (s : State) (req : Nat) (site : Nat), s.present site 0x88 = true ∧ s.reach req site 0x88 = true :=
  ⟨{ poke bench [(mcomPage 11 + 0x4C, 0x40200000), (mcomPage 11 + 0x50, 0x44FA0000), (mcomPage 11 + 0x54, 0x108), (mtrPage 11 1 + 0x70, 0x41), (mcomPage 11 + 0x44, 2500), (mcomPage 11 + 0x48, 1), (mcomPage 11 + 0x64, 31)] with calibs := [(11, {})] }, 0, 11, by decide +kernel⟩
theorem witness_GafferAccountsClocksAndTrips_1 : ∃ (s : State), s.mainOk = true ∧ s.gaffer.running = true :=
  ⟨{ poke bench [(gafPage + 0x40, 300), (gafPage + 0x48, 100), (dpPage 0 + 0x44, 800), (dpPage 0 + 0x40, 0x06400190), (dpPage 0 + 0x4C, 1600), (dpPage 0 + 0x48, 900)] with gaffer := { running := true, eAcc := 30000000000 } }, by decide +kernel⟩
theorem witness_GafferAccountsClocksAndTrips_2 : ∃ (s : State) (req : Nat) (val : Word), let w := fld val 0 10; s.takes 0x0C req 8 7 0x40 = true ∧ w ≤ asmBudget s.asm ∧ powLe s.streamUw (w * 1000000, 1) = true ∧ powLe (powAdd s.streamUw s.takeUw) (2 * w * 1000000, 1) = true :=
  ⟨{ poke bench [(gafPage + 0x40, 300), (gafPage + 0x48, 100), (dpPage 0 + 0x44, 800), (dpPage 0 + 0x40, 0x06400190), (dpPage 0 + 0x4C, 1600), (dpPage 0 + 0x48, 900)] with gaffer := { running := true, eAcc := 30000000000 } }, 0, 200#32, by decide +kernel⟩
theorem witness_GafferAccountsClocksAndTrips_3 : ∃ (s : State) (req : Nat) (val : Word), let w := fld val 0 10; s.takes 0x0C req 8 7 0x48 = true ∧ 10 ≤ w ∧ w ≤ 1000 :=
  ⟨{ poke bench [(gafPage + 0x40, 300), (gafPage + 0x48, 100), (dpPage 0 + 0x44, 800), (dpPage 0 + 0x40, 0x06400190), (dpPage 0 + 0x4C, 1600), (dpPage 0 + 0x48, 900)] with gaffer := { running := true, eAcc := 30000000000 } }, 0, 50#32, by decide +kernel⟩
theorem witness_GafferAccountsClocksAndTrips_4 : ∃ (s : State) (req : Nat) (val : Word), let w := fld val 0 10; s.takes 0x0C req 8 7 0x40 = true ∧ (asmBudget s.asm < w ∨ powLe s.streamUw (w * 1000000, 1) = false ∨ powLe (powAdd s.streamUw s.takeUw) (2 * w * 1000000, 1) = false) :=
  ⟨{ poke bench [(gafPage + 0x40, 300), (gafPage + 0x48, 100), (dpPage 0 + 0x44, 800), (dpPage 0 + 0x40, 0x06400190), (dpPage 0 + 0x4C, 1600), (dpPage 0 + 0x48, 900)] with gaffer := { running := true, eAcc := 30000000000 } }, 0, 1000#32, by decide +kernel⟩
theorem witness_GafferAccountsClocksAndTrips_5 : ∃ (s : State) (req : Nat) (val : Word), let w := fld val 0 10; s.takes 0x0C req 8 7 0x48 = true ∧ (w < 10 ∨ 1000 < w) :=
  ⟨{ poke bench [(gafPage + 0x40, 300), (gafPage + 0x48, 100)] with gaffer := { running := true, eAcc := 30000000000 } }, 0, 9#32, by decide +kernel⟩
theorem witness_GafferAccountsClocksAndTrips_6 : ∃ (s : State) (c : Nat), s.mainOk = true ∧ s.gaffer.running = true ∧ c < 4 ∧ dieAt s.asm c = .compute ∧ s.siteUp c = true ∧ s.regBit (dpPage c + 0x94) 1 = false :=
  ⟨{ poke bench [(gafPage + 0x40, 300), (gafPage + 0x48, 100), (dpPage 0 + 0x44, 800), (dpPage 0 + 0x40, 0x06400190), (dpPage 0 + 0x4C, 1600), (dpPage 0 + 0x48, 900)] with gaffer := { running := true, eAcc := 30000000000 } }, 0, by decide +kernel⟩
theorem witness_GafferAccountsClocksAndTrips_7 : ∃ (s : State) (site : Nat) (temps : List Int), s.present site 0x0B = true ∧ s.typeAt site 0x0B = 0x4C ∧ s.regBit (dpPage site + 0x94) 1 = false ∧ (temps.any (fun x => decide (1840 ≤ x))) = true ∧ site < 4 :=
  ⟨{ poke bench [(gafPage + 0x40, 300), (gafPage + 0x48, 100), (dpPage 0 + 0x44, 800), (dpPage 0 + 0x40, 0x06400190), (dpPage 0 + 0x4C, 1600), (dpPage 0 + 0x48, 900)] with gaffer := { running := true, eAcc := 30000000000 } }, 0, [1840], by decide +kernel⟩
theorem witness_GafferAccountsClocksAndTrips_8 : ∃ (s : State) (site : Nat) (temps : List Int), s.present site 0x0B = true ∧ s.typeAt site 0x0B = 0x4C ∧ s.regBit (dpPage site + 0x94) 1 = true ∧ temps.length = 16 ∧ (temps.all (fun x => decide (x < 1600))) = true ∧ site < 4 :=
  ⟨{ poke bench [(gafPage + 0x40, 300), (gafPage + 0x48, 100), (dpPage 0 + 0x44, 800), (dpPage 0 + 0x40, 0x06400190), (dpPage 0 + 0x4C, 1600), (dpPage 0 + 0x48, 900), (dpPage 0 + 0x94, 2)] with gaffer := { running := true, eAcc := 30000000000 } }, 0, List.replicate 16 1000, by decide +kernel⟩
theorem witness_EntropyTestsAndRandomBits_1 : ∃ (s : State), s.mainOk = true ∧ s.trngOk = false ∧ s.regFld (trngPage + 0x40) 0 2 = 0 ∧ 1536 ≤ s.trngSamples :=
  ⟨{ bench with now := 614400 }, by decide +kernel⟩
theorem witness_EntropyTestsAndRandomBits_2 : ∃ (s : State) (kind : HealthTest), s.mainOk = true ∧ (s.regFld (trngPage + 0x40) 0 2 = 0 ∨ kind = .startup) ∧ s.regFld (trngPage + 0x40) 0 2 ≠ 2 :=
  ⟨bench, .startup, by decide +kernel⟩
theorem witness_EntropyTestsAndRandomBits_3 : ∃ (s : State) (kind : HealthTest), s.mainOk = true ∧ s.regFld (trngPage + 0x40) 0 2 = 1 ∧ kind ≠ .startup ∧ (s.sec.fails.filter (fun m => decide (s.now < m + 200000000))).length < 2 :=
  ⟨{ poke (bench) [(trngPage + 0x40, 5)] with sec := {} }, .repetition, by decide +kernel⟩
theorem witness_EntropyTestsAndRandomBits_4 : ∃ (s : State) (kind : HealthTest), s.mainOk = true ∧ s.regFld (trngPage + 0x40) 0 2 = 1 ∧ kind ≠ .startup ∧ 2 ≤ (s.sec.fails.filter (fun m => decide (s.now < m + 200000000))).length :=
  ⟨{ poke (bench) [(trngPage + 0x40, 5)] with sec := { fails := [0, 0] } }, .proportion, by decide +kernel⟩
theorem witness_EntropyTestsAndRandomBits_5 : ∃ (s : State), s.mainOk = true ∧ s.trngOk = false ∧ s.regFld (trngPage + 0x40) 0 2 ≠ 2 ∧ s.sec.everValid = false ∧ s.sec.releasedAt + 8000000 ≤ s.now :=
  ⟨{ bench with now := 8000000 }, by decide +kernel⟩
theorem witness_EntropyTestsAndRandomBits_6 : ∃ (s : State), s.mainOk = true ∧ (s.sec.owed = true ∨ s.trngOk = true ∧ (2 ^ 20 ≤ s.sec.drbgCount ∨ s.sec.reseedAt + 2000000000 ≤ s.now)) :=
  ⟨{ poke (bench) [(trngPage + 0x40, 5)] with sec := { drbgCount := 0x100000 } }, by decide +kernel⟩
theorem witness_EntropyTestsAndRandomBits_7 : ∃ (s : State) (req : Nat), s.present 8 9 = true ∧ s.reach req 8 9 = true ∧ s.trngOk = true :=
  ⟨{ poke (bench) [(trngPage + 0x40, 5)] with sec := {} }, 0, by decide +kernel⟩
theorem witness_EntropyTestsAndRandomBits_8 : ∃ (s : State), s.trngOk = false :=
  ⟨bench, by decide +kernel⟩
theorem witness_SessionsConfidentialModeAndDebug_1 : ∃ (s : State) (n : Nat), n < 16 ∧ s.ready = true ∧ s.isMember = false ∧ s.regFld (mbPage n + 0x44) 0 2 = 1 ∧ s.regFld (mbPage n + 0x100) 0 16 = 0x40 ∧ s.regFld (mbPage n + 0x100) 16 16 = 40 ∧ (s.tenant n).session = 0 ∧ s.trngOk = true ∧ s.restarting 8 = false ∧ s.loads.head? = some n :=
  ⟨{ ({ poke (mbBench 1 0x40 40 [0x1000, 0]) [(trngPage + 0x40, 5)] with tenants := [(1, {})] }) with loads := [1, 5] }, 1, by decide +kernel⟩
theorem witness_SessionsConfidentialModeAndDebug_2 : ∃ (s : State) (n : Nat), n < 16 ∧ s.ready = true ∧ s.isMember = false ∧ s.regFld (mbPage n + 0x44) 0 2 = 1 ∧ s.regFld (mbPage n + 0x100) 0 16 = 0x40 ∧ s.regFld (mbPage n + 0x100) 16 16 = 40 ∧ (s.tenant n).session = 0 ∧ s.trngOk = false ∧ s.restarting 8 = false ∧ s.loads.head? = some n :=
  ⟨{ (mbBench 1 0x40 40 [0x1000, 0]) with loads := [1, 5] }, 1, by decide +kernel⟩
theorem witness_SessionsConfidentialModeAndDebug_3 : ∃ (s : State) (n : Nat), n < 16 ∧ s.ready = true ∧ s.isMember = false ∧ s.regFld (mbPage n + 0x44) 0 2 = 1 ∧ s.regFld (mbPage n + 0x100) 0 16 = 0x40 ∧ s.regFld (mbPage n + 0x100) 16 16 = 40 ∧ (s.tenant n).session ≠ 0 ∧ s.restarting 8 = false ∧ s.loads.head? = some n :=
  ⟨{ ({ poke (mbBench 1 0x40 40 [0x1000, 0]) [(trngPage + 0x40, 5)] with tenants := [(1, { session := 1 })] }) with loads := [1, 5] }, 1, by decide +kernel⟩
theorem witness_SessionsConfidentialModeAndDebug_4 : ∃ (s : State) (n : Nat), n < 16 ∧ s.ready = true ∧ s.isMember = false ∧ s.regFld (mbPage n + 0x44) 0 2 = 1 ∧ s.regFld (mbPage n + 0x100) 0 16 = 0x41 ∧ s.regFld (mbPage n + 0x100) 16 16 = 96 ∧ (s.tenant n).session = 1 ∧ s.restarting 8 = false ∧ s.loads.head? = some n :=
  ⟨{ ({ poke (mbBench 1 0x41 96 []) [(trngPage + 0x40, 5)] with tenants := [(1, { session := 1 })] }) with loads := [1, 5] }, 1, by decide +kernel⟩
theorem witness_SessionsConfidentialModeAndDebug_5 : ∃ (s : State) (n : Nat), n < 16 ∧ s.ready = true ∧ s.isMember = false ∧ s.regFld (mbPage n + 0x44) 0 2 = 1 ∧ s.regFld (mbPage n + 0x100) 0 16 = 0x42 ∧ s.regFld (mbPage n + 0x100) 16 16 = 0 ∧ (s.tenant n).session ≠ 0 ∧ s.conf n = false ∧ s.restarting 8 = false ∧ s.loads.head? = some n :=
  ⟨{ ({ poke (mbBench 1 0x42 0 []) [(trngPage + 0x40, 5)] with tenants := [(1, { session := 1 })] }) with loads := [1, 5] }, 1, by decide +kernel⟩
theorem witness_SessionsConfidentialModeAndDebug_6 : ∃ (s : State) (n : Nat), n < 16 ∧ s.ready = true ∧ s.isMember = false ∧ s.regFld (mbPage n + 0x44) 0 2 = 1 ∧ s.regFld (mbPage n + 0x100) 0 16 = 0x43 ∧ s.regFld (mbPage n + 0x100) 16 16 = 0 ∧ n ≠ 0 ∧ (s.tenant n).session = 2 ∧ s.conf n = false ∧ s.trngOk = true ∧ s.confBusy n = false ∧ s.restarting 8 = false ∧ s.loads.head? = some n :=
  ⟨{ ({ poke (mbBench 1 0x43 0 []) [(trngPage + 0x40, 5)] with tenants := [(1, { session := 2, memKey := some 3 })], grans := [(4, 2)] }) with loads := [1, 5] }, 1, by decide +kernel⟩
theorem witness_SessionsConfidentialModeAndDebug_7 : ∃ (s : State), 0 < 16 ∧ s.ready = true ∧ s.isMember = false ∧ s.regFld (mbPage 0 + 0x44) 0 2 = 1 ∧ s.regFld (mbPage 0 + 0x100) 0 16 = 0x43 ∧ s.regFld (mbPage 0 + 0x100) 16 16 = 0 ∧ s.restarting 8 = false ∧ s.loads.head? = some 0 :=
  ⟨{ (mbBench 0 0x43 0 []) with loads := [0] }, by decide +kernel⟩
theorem witness_SessionsConfidentialModeAndDebug_8 : ∃ (s : State) (n : Nat), n < 16 ∧ s.ready = true ∧ s.isMember = false ∧ s.regFld (mbPage n + 0x44) 0 2 = 1 ∧ s.regFld (mbPage n + 0x100) 0 16 = 0x44 ∧ s.regFld (mbPage n + 0x100) 16 16 = 0 ∧ n ≠ 0 ∧ s.conf n = true ∧ s.confBusy n = false ∧ s.restarting 8 = false ∧ s.loads.head? = some n :=
  ⟨{ ({ poke (mbBench 1 0x44 0 []) [(trngPage + 0x40, 5), (kmPage + 0x48, 2), (dbgPage + 0xC, 0x27)] with tenants := [(1, { session := 2, memKey := some 3 })], grans := [(4, 2)] }) with loads := [1, 5] }, 1, by decide +kernel⟩
theorem witness_SessionsConfidentialModeAndDebug_9 : ∃ (s : State) (n : Nat), n < 16 ∧ s.ready = true ∧ s.isMember = false ∧ s.regFld (mbPage n + 0x44) 0 2 = 1 ∧ s.regFld (mbPage n + 0x100) 0 16 = 0x44 ∧ s.regFld (mbPage n + 0x100) 16 16 = 0 ∧ n ≠ 0 ∧ s.conf n = true ∧ s.confBusy n = true ∧ s.restarting 8 = false ∧ s.loads.head? = some n :=
  ⟨{ ({ poke (mbBench 1 0x44 0 []) [(trngPage + 0x40, 5), (kmPage + 0x48, 2), (tqPage 1 3 + 0xC, 2)] with tenants := [(1, { session := 2 })] }) with loads := [1, 5] }, 1, by decide +kernel⟩
theorem witness_SessionsConfidentialModeAndDebug_10 : ∃ (s : State) (n : Nat), n < 16 ∧ s.ready = true ∧ s.isMember = false ∧ s.regFld (mbPage n + 0x44) 0 2 = 1 ∧ s.regFld (mbPage n + 0x100) 0 16 = 0x45 ∧ s.regFld (mbPage n + 0x100) 16 16 = 12 ∧ s.restarting 8 = false ∧ s.loads.head? = some n :=
  ⟨{ (mbBench 1 0x45 12 [0x1000, 0, 4096]) with loads := [1, 5] }, 1, by decide +kernel⟩
theorem witness_SessionsConfidentialModeAndDebug_11 : ∃ (s : State), s.takes 0x0F 19 8 0x0A 0x4C = true ∧ dbgOpen 19 s = true :=
  ⟨poke bench [(dbgPage + 0xC, 2), (dbgPage + 0x44, 0x100)], by decide +kernel⟩
theorem witness_SessionsConfidentialModeAndDebug_12 : ∃ (s : State) (req : Nat), dbgOpen req s = true :=
  ⟨poke bench [(dbgPage + 0xC, 2), (dbgPage + 0x44, 0x100)], 19, by decide +kernel⟩
theorem witness_SessionsConfidentialModeAndDebug_13 : ∃ (s : State) (req : Nat), s.takes 0x0F req 8 0x0A 0x4C = true ∧ dbgOpen req s = false :=
  ⟨poke bench [(dbgPage + 0xC, 2), (dbgPage + 0x44, 0x300)], 19, by decide +kernel⟩
theorem witness_SessionsConfidentialModeAndDebug_14 : ∃ (s : State) (code : Nat), (s.mainOk = false ∨ s.regFld (kmPage + 0x48) 0 16 = 0 ∨ code ≤ 2) :=
  ⟨bench, 9, by decide +kernel⟩
theorem witness_SessionsConfidentialModeAndDebug_15 : ∃ (s : State) (code : Nat), s.mainOk = true ∧ s.regFld (kmPage + 0x48) 0 16 ≠ 0 ∧ 2 < code :=
  ⟨poke bench [(kmPage + 0x48, 4)], 9, by decide +kernel⟩
theorem witness_RelayPortsTrainAuthenticateAndCarry_1 : ∃ (s : State) (site : Nat) (p : Nat), s.hasPort site p = true ∧ (s.st (rpPage site p) = 1 ∨ s.st (rpPage site p) = 5 ∨ site = 10 ∧ s.st (rpPage site p) = 0) :=
  ⟨{ poke bench [(rpPage 9 1 + 0xC, 1)] with ports := [(37, {})] }, 9, 1, by decide +kernel⟩
theorem witness_RelayPortsTrainAuthenticateAndCarry_2 : ∃ (s : State) (site : Nat) (p : Nat), s.hasPort site p = true ∧ s.st (rpPage site p) = 1 :=
  ⟨{ poke bench [(rpPage 9 1 + 0xC, 1)] with ports := [(37, {})] }, 9, 1, by decide +kernel⟩
theorem witness_RelayPortsTrainAuthenticateAndCarry_3 : ∃ (s : State) (site : Nat) (p : Nat) (peer : PeerStatement), s.hasPort site p = true ∧ s.st (rpPage site p) = 1 ∧ s.regFld (rpPage site p + 0x40) 0 2 = 3 ∧ peer.chainOk = true ∧ peer.sigOk = true ∧ peer.fwMeasure = s.boot.measure ∧ peer.asm ≠ 3 :=
  ⟨{ poke bench [(rpPage 9 1 + 0xC, 1), (rpPage 9 1 + 0x40, 3)] with ports := [(37, {})] }, 9, 1, {}, by decide +kernel⟩
theorem witness_RelayPortsTrainAuthenticateAndCarry_4 : ∃ (s : State) (site : Nat) (p : Nat) (peer : PeerStatement), s.hasPort site p = true ∧ s.st (rpPage site p) = 1 ∧ s.regFld (rpPage site p + 0x40) 0 2 = 3 ∧ (peer.chainOk = false ∨ peer.sigOk = false ∨ peer.fwMeasure ≠ s.boot.measure ∨ peer.asm = 3) :=
  ⟨{ poke bench [(rpPage 9 1 + 0xC, 1), (rpPage 9 1 + 0x40, 3)] with ports := [(37, {})] }, 9, 1, { asm := 3 }, by decide +kernel⟩
theorem witness_RelayPortsTrainAuthenticateAndCarry_5 : ∃ (s : State) (site : Nat) (p : Nat) (f : RelayFrame), s.hasPort site p = true ∧ s.st (rpPage site p) = 2 ∧ f.fecOk = true ∧ f.tagOk = true ∧ f.seq = (s.port site p).rxSeq ∧ (s.formed = false ∨ f.dstPkg = s.pkg) :=
  ⟨{ poke bench [(rpPage 9 1 + 0xC, 2)] with ports := [(37, { rxSeq := 4, txSeq := 6 })] }, 9, 1, { seq := 4 }, by decide +kernel⟩
theorem witness_RelayPortsTrainAuthenticateAndCarry_6 : ∃ (s : State) (site : Nat) (p : Nat) (f : RelayFrame) (q : Nat × Nat), s.hasPort site p = true ∧ s.st (rpPage site p) = 2 ∧ f.fecOk = true ∧ f.tagOk = true ∧ f.seq = (s.port site p).rxSeq ∧ s.formed = true ∧ f.dstPkg ≠ s.pkg ∧ s.routePort f.dstPkg = some q ∧ q.2 < 4 ∧ p < 4 :=
  ⟨{ poke bench [(rpPage 9 1 + 0xC, 2), (ensPage + 0x40, 2 + 4 * 256), (ensPage + 0x50 + 8, 0x10)] with ports := [(37, { rxSeq := 4, txSeq := 6 })] }, 9, 1, { seq := 4, dstPkg := 2 }, (9, 0), by decide +kernel⟩
theorem witness_RelayPortsTrainAuthenticateAndCarry_7 : ∃ (s : State) (site : Nat) (p : Nat) (f : RelayFrame), s.hasPort site p = true ∧ s.st (rpPage site p) = 2 ∧ f.fecOk = true ∧ f.tagOk = true ∧ f.seq ≠ (s.port site p).rxSeq :=
  ⟨{ poke bench [(rpPage 9 1 + 0xC, 2)] with ports := [(37, { rxSeq := 4, txSeq := 6 })] }, 9, 1, { seq := 3 }, by decide +kernel⟩
theorem witness_RelayPortsTrainAuthenticateAndCarry_8 : ∃ (s : State) (site : Nat) (p : Nat) (f : RelayFrame), s.hasPort site p = true ∧ s.st (rpPage site p) = 2 ∧ (f.fecOk = false ∨ f.tagOk = false) ∧ (s.port site p).fails + 1 < 8 :=
  ⟨{ poke bench [(rpPage 9 1 + 0xC, 2)] with ports := [(37, {})] }, 9, 1, { tagOk := false }, by decide +kernel⟩
theorem witness_RelayPortsTrainAuthenticateAndCarry_9 : ∃ (s : State) (site : Nat) (p : Nat) (f : RelayFrame), s.hasPort site p = true ∧ s.st (rpPage site p) = 2 ∧ (f.fecOk = false ∨ f.tagOk = false) ∧ 8 ≤ (s.port site p).fails + 1 :=
  ⟨{ poke bench [(rpPage 9 1 + 0xC, 2)] with ports := [(37, { fails := 7 })] }, 9, 1, { tagOk := false }, by decide +kernel⟩
theorem witness_RelayPortsTrainAuthenticateAndCarry_10 : ∃ (s : State) (site : Nat) (p : Nat) (f : RelayFrame), s.hasPort site p = true ∧ s.st (rpPage site p) = 2 ∧ f.fecOk = true ∧ f.tagOk = true ∧ f.seq = (s.port site p).rxSeq :=
  ⟨{ poke bench [(rpPage 9 1 + 0xC, 2)] with ports := [(37, { unacked := [(3, 1), (5, 1)] })] }, 9, 1, { ackSeq := 3 }, by decide +kernel⟩
theorem witness_RelayPortsTrainAuthenticateAndCarry_11 : ∃ (s : State) (site : Nat) (p : Nat), s.hasPort site p = true ∧ s.st (rpPage site p) = 2 :=
  ⟨{ poke bench [(rpPage 9 1 + 0xC, 2)] with ports := [(37, {})] }, 9, 1, by decide +kernel⟩
theorem witness_EnsemblesFormKeepTimeAndLosePackages_1 : ∃ (s : State) (site : Nat) (p : Nat) (f : RelayFrame), s.hasPort site p = true ∧ s.st (rpPage site p) = 2 ∧ f.fecOk = true ∧ f.tagOk = true ∧ f.seq = (s.port site p).rxSeq ∧ s.isMember = true :=
  ⟨{ poke bench [(rpPage 9 1 + 0xC, 2), (ensPage + 0x40, 2 + 4 * 256 + 16)] with ports := [(37, {})] }, 9, 1, { leadNs := 5 }, by decide +kernel⟩
theorem witness_EnsemblesFormKeepTimeAndLosePackages_2 : ∃ (s : State) (found : EnsFound), let n := s.mbArg 0 0 1; 0 < 16 ∧ s.ready = true ∧ s.isMember = false ∧ s.regFld (mbPage 0 + 0x44) 0 2 = 1 ∧ s.regFld (mbPage 0 + 0x100) 0 16 = 0x50 ∧ s.regFld (mbPage 0 + 0x100) 16 16 = 4 ∧ s.lead = true ∧ s.linkSites.isEmpty = false ∧ s.mbArg 0 2 1 % 2 = 0 ∧ s.ensSt = 0 ∧ s.ensIdle = true ∧ found.idle = true ∧ ((s.mbArg 0 1 1 = 0 ∧ 2 ≤ n ∧ n ≤ 15) ∨ (s.mbArg 0 1 1 = 1 ∧ n = 16)) ∧ found.packages = n ∧ found.wired = true ∧ found.authenticated = true ∧ found.inTime = true ∧ s.restarting 8 = false :=
  ⟨{ poke (mbBench 0 0x50 4 [2]) [(rpPage 9 0 + 0xC, 2)] with lead := true }, { packages := 2 }, by decide +kernel⟩
theorem witness_EnsemblesFormKeepTimeAndLosePackages_3 : ∃ (s : State) (found : EnsFound), 0 < 16 ∧ s.ready = true ∧ s.isMember = false ∧ s.regFld (mbPage 0 + 0x44) 0 2 = 1 ∧ s.regFld (mbPage 0 + 0x100) 0 16 = 0x50 ∧ s.regFld (mbPage 0 + 0x100) 16 16 = 4 ∧ s.lead = true ∧ s.linkSites.isEmpty = false ∧ s.mbArg 0 2 1 % 2 = 0 ∧ (s.ensSt ≠ 0 ∨ s.ensIdle = false ∨ found.idle = false) ∧ s.restarting 8 = false :=
  ⟨{ poke (mbBench 0 0x50 4 [2]) [(rpPage 9 0 + 0xC, 2), (ensPage + 0x40, 2 + 4 * 256)] with lead := true }, { packages := 2 }, by decide +kernel⟩
theorem witness_EnsemblesFormKeepTimeAndLosePackages_4 : ∃ (s : State) (found : EnsFound), let n := s.mbArg 0 0 1; let c := if found.packages ≠ n ∨ found.wired = false then 0x151 else if found.authenticated = false then 0x152 else if found.inTime = false then 0x153 else 0; 0 < 16 ∧ s.ready = true ∧ s.isMember = false ∧ s.regFld (mbPage 0 + 0x44) 0 2 = 1 ∧ s.regFld (mbPage 0 + 0x100) 0 16 = 0x50 ∧ s.regFld (mbPage 0 + 0x100) 16 16 = 4 ∧ s.lead = true ∧ s.linkSites.isEmpty = false ∧ s.mbArg 0 2 1 % 2 = 0 ∧ s.ensSt = 0 ∧ s.ensIdle = true ∧ found.idle = true ∧ ((s.mbArg 0 1 1 = 0 ∧ 2 ≤ n ∧ n ≤ 15) ∨ (s.mbArg 0 1 1 = 1 ∧ n = 16)) ∧ c ≠ 0 ∧ s.restarting 8 = false :=
  ⟨{ poke (mbBench 0 0x50 4 [2]) [(rpPage 9 0 + 0xC, 2)] with lead := true }, { packages := 2, inTime := false }, by decide +kernel⟩
theorem witness_EnsemblesFormKeepTimeAndLosePackages_5 : ∃ (s : State) (found : EnsFound), 0 < 16 ∧ s.ready = true ∧ s.isMember = false ∧ s.regFld (mbPage 0 + 0x44) 0 2 = 1 ∧ s.regFld (mbPage 0 + 0x100) 0 16 = 0x50 ∧ s.regFld (mbPage 0 + 0x100) 16 16 = 4 ∧ s.lead = true ∧ s.linkSites.isEmpty = false ∧ s.mbArg 0 2 1 % 2 = 1 ∧ s.ensSt = 3 ∧ s.mbArg 0 0 1 = s.ensN ∧ (s.mbArg 0 1 1 == 1) = s.torus ∧ s.mbArg 0 1 1 ≤ 1 ∧ found.wired = true ∧ found.authenticated = true ∧ found.inTime = true ∧ s.restarting 8 = false :=
  ⟨{ poke (mbBench 0 0x50 4 [0x10004]) [(rpPage 9 0 + 0xC, 2), (ensPage + 0x40, 3 + 4 * 256), (ensPage + 0x48, 6), (ensPage + 0x44, 9)] with lead := true }, { back := 2 }, by decide +kernel⟩
theorem witness_EnsemblesFormKeepTimeAndLosePackages_6 : ∃ (s : State), 0 < 16 ∧ s.ready = true ∧ s.isMember = false ∧ s.regFld (mbPage 0 + 0x44) 0 2 = 1 ∧ s.regFld (mbPage 0 + 0x100) 0 16 = 0x51 ∧ s.regFld (mbPage 0 + 0x100) 16 16 = 0 ∧ s.lead = true ∧ s.linkSites.isEmpty = false ∧ s.formed = true ∧ s.ensIdle = true ∧ s.restarting 8 = false :=
  ⟨{ poke (mbBench 0 0x51 0 []) [(rpPage 9 0 + 0xC, 2), (ensPage + 0x40, 2 + 4 * 256)] with lead := true }, by decide +kernel⟩
theorem witness_EnsemblesFormKeepTimeAndLosePackages_7 : ∃ (s : State) (p : Nat), s.mainOk = true ∧ s.formed = true ∧ s.lead = true ∧ p < 16 ∧ p ≠ s.pkg ∧ s.ensUp p = true :=
  ⟨{ poke bench [(ensPage + 0x40, 2 + 4 * 256), (ensPage + 0x44, 15)] with lead := true }, 2, by decide +kernel⟩
theorem witness_EnsemblesFormKeepTimeAndLosePackages_8 : ∃ (s : State), s.mainOk = true ∧ s.isMember = true :=
  ⟨poke bench [(ensPage + 0x40, 2 + 16 + 4 * 256)], by decide +kernel⟩
theorem witness_EnsemblesFormKeepTimeAndLosePackages_9 : ∃ (s : State) (site : Nat) (p : Nat) (f : RelayFrame), s.hasPort site p = true ∧ s.st (rpPage site p) = 2 ∧ f.fecOk = true ∧ f.tagOk = true ∧ f.seq = (s.port site p).rxSeq ∧ f.msg = 1 ∧ s.lead = false ∧ (s.ensSt = 0 ∨ s.ensSt = 4) ∧ s.ready = true :=
  ⟨{ poke bench [(rpPage 9 1 + 0xC, 2)] with ports := [(37, {})] }, 9, 1, { msg := 1, arg := 0x30041 }, by decide +kernel⟩
theorem witness_EnsemblesFormKeepTimeAndLosePackages_10 : ∃ (s : State) (site : Nat) (p : Nat) (f : RelayFrame), let pk := f.arg % 16; s.hasPort site p = true ∧ s.st (rpPage site p) = 2 ∧ f.fecOk = true ∧ f.tagOk = true ∧ f.seq = (s.port site p).rxSeq ∧ (f.msg = 2 ∧ s.isMember = true ∨ f.msg = 6 ∧ s.lead = true ∧ s.formed = true) ∧ pk ≠ s.pkg ∧ s.ensUp pk = true :=
  ⟨{ poke bench [(rpPage 9 1 + 0xC, 2), (ensPage + 0x40, 2 + 4 * 256), (ensPage + 0x44, 15)] with ports := [(37, {})], lead := true }, 9, 1, { msg := 6, arg := 2 }, by decide +kernel⟩
theorem witness_EnsemblesFormKeepTimeAndLosePackages_11 : ∃ (s : State) (site : Nat) (p : Nat) (f : RelayFrame), s.hasPort site p = true ∧ s.st (rpPage site p) = 2 ∧ f.fecOk = true ∧ f.tagOk = true ∧ f.seq = (s.port site p).rxSeq ∧ f.msg = 3 ∧ s.isMember = true :=
  ⟨{ poke bench [(rpPage 9 1 + 0xC, 2), (ensPage + 0x40, 2 + 4 * 256 + 16), (ensPage + 0x44, 15)] with ports := [(37, {})] }, 9, 1, { msg := 3 }, by decide +kernel⟩
theorem witness_EnsemblesFormKeepTimeAndLosePackages_12 : ∃ (s : State) (site : Nat) (p : Nat) (f : RelayFrame), s.hasPort site p = true ∧ s.st (rpPage site p) = 2 ∧ f.fecOk = true ∧ f.tagOk = true ∧ f.seq = (s.port site p).rxSeq ∧ f.msg = 4 ∧ s.lead = true ∧ s.formed = true :=
  ⟨{ poke bench [(rpPage 9 1 + 0xC, 2), (ensPage + 0x40, 2 + 4 * 256)] with ports := [(37, {})], lead := true }, 9, 1, { msg := 4, arg := 0x101 }, by decide +kernel⟩
theorem witness_ContinuityMonitorDemandsAndResets_1 : ∃ (s : State) (site : Nat) (e : Nat) (n : Nat) (chanB : Bool), let m := s.mon site; let g := m.gate e; s.isField site = true ∧ m.st = 3 ∧ e < 16 ∧ n < 4 ∧ m.names e n = true ∧ guardCond s site e chanB = true ∧ (m.cat1 e = false ∨ s.groupAtRest site g = true) :=
  ⟨{ poke bench [(axPage 11 2 + 0xC, 2), (dollyPage 11 + 0x40, 0xFFFFF1FF), (monPage 11 + 0xC, 2), (dollyPage 11 + 0x4C, 0x100), (dollyPage 11 + 0x50, 0x300)] with axes := [(11 * 16 + 2, { vel := 5 })], grps := [(11 * 32 + 1, {})], mons := [(11, { st := 3, committed := [0x113#32, 0x908#32, 50#32, 0#32], pairs := [(0, { st := 1 })] })] }, 11, 0, 0, false, by decide +kernel⟩
theorem witness_ContinuityMonitorDemandsAndResets_2 : ∃ (s : State) (site : Nat) (e : Nat) (n : Nat) (chanB : Bool), let m := s.mon site; let g := m.gate e; s.isField site = true ∧ m.st = 3 ∧ e < 16 ∧ n < 4 ∧ m.names e n = true ∧ guardCond s site e chanB = true ∧ m.cat1 e = true ∧ s.groupAtRest site g = false :=
  ⟨{ poke bench [(axPage 11 2 + 0xC, 2), (dollyPage 11 + 0x40, 0xFFFFF1FF), (monPage 11 + 0xC, 2), (dollyPage 11 + 0x4C, 0x100), (dollyPage 11 + 0x50, 0x300)] with axes := [(11 * 16 + 2, { vel := 5 })], grps := [(11 * 32 + 1, {})], mons := [(11, { st := 3, committed := [0x12C1113#32, 0x908#32, 50#32, 0#32], pairs := [(0, { st := 1 })] })] }, 11, 0, 0, false, by decide +kernel⟩
theorem witness_ContinuityMonitorDemandsAndResets_3 : ∃ (s : State) (site : Nat) (mv : Nat), s.isField site = true ∧ (s.regBit (pg site 2 + 0x40) 4 = false ∨ 31000 < mv) :=
  ⟨{ poke bench [(axPage 11 2 + 0xC, 2), (dollyPage 11 + 0x40, 0xFFFFF1FF), (monPage 11 + 0xC, 2)] with axes := [(11 * 16 + 2, { vel := 5 })], grps := [(11 * 32 + 1, {})], mons := [(11, { st := 3, committed := [0x113#32, 0x908#32, 50#32, 0#32], pairs := [(0, { st := 1 })] })] }, 11, 32000, by decide +kernel⟩
theorem witness_ContinuityMonitorDemandsAndResets_4 : ∃ (s : State) (site : Nat) (temp : Int), s.isField site = true ∧ 115 ≤ temp :=
  ⟨{ poke bench [(axPage 11 2 + 0xC, 2), (dollyPage 11 + 0x40, 0xFFFFF1FF), (monPage 11 + 0xC, 2)] with axes := [(11 * 16 + 2, { vel := 5 })], grps := [(11 * 32 + 1, {})], mons := [(11, { st := 3, committed := [0x12C1113#32, 0x908#32, 50#32, 0#32], pairs := [(0, { st := 1 }), (1, { st := 1 })] })] }, 11, 115, by decide +kernel⟩
theorem witness_ContinuityMonitorDemandsAndResets_5 : ∃ (s : State) (site : Nat) (e : Nat), let m := s.mon site; s.isField site = true ∧ m.st = 3 ∧ e < 16 ∧ m.type e = 4 :=
  ⟨{ poke bench [(axPage 11 2 + 0xC, 2), (dollyPage 11 + 0x40, 0xFFFFF1FF), (monPage 11 + 0xC, 2)] with axes := [(11 * 16 + 2, { vel := 5 })], grps := [(11 * 32 + 1, {})], mons := [(11, { st := 3, committed := [0x114#32, 0xFA0020#32, 0xF424#32, 0xC80000#32], entries := [(0, { counts := [9000000, 1, 2, 3, 4], steps := [0, 0, 0, 0, 0] })], pairs := [(0, { st := 1 })] })] }, 11, 0, by decide +kernel⟩
theorem witness_ContinuityMonitorDemandsAndResets_6 : ∃ (s : State) (site : Nat) (e : Nat) (n : Nat) (t0 : Nat), let m := s.mon site; s.isField site = true ∧ m.st = 3 ∧ e < 16 ∧ n < 4 ∧ m.names e n = true ∧ (m.entry e).discAt = some t0 ∧ (m.entry e).fault = false ∧ t0 + fld (m.word e 2) 0 16 * 200000 ≤ s.now :=
  ⟨{ poke bench [(axPage 11 2 + 0xC, 2), (dollyPage 11 + 0x40, 0xFFFFF1FF), (monPage 11 + 0xC, 2)] with axes := [(11 * 16 + 2, { vel := 5 })], grps := [(11 * 32 + 1, {})], mons := [(11, { st := 3, committed := [0x113#32, 0x908#32, 50#32, 0#32], pairs := [(0, { st := 1 })], entries := [(0, { discAt := some 0 })] })], now := 10000000 }, 11, 0, 0, 0, by decide +kernel⟩
theorem witness_ContinuityMonitorDemandsAndResets_7 : ∃ (s : State) (site : Nat) (e : Nat) (t0 : Nat), s.isField site = true ∧ e < 16 ∧ ((s.mon site).entry e).agreeAt = some t0 ∧ ((s.mon site).entry e).fault = true ∧ t0 + 20000000 ≤ s.now ∧ guardCond s site e false = false ∧ guardCond s site e true = false :=
  ⟨{ poke bench [(axPage 11 2 + 0xC, 2), (dollyPage 11 + 0x40, 0xFFFFF1FF), (monPage 11 + 0xC, 2), (dollyPage 11 + 0x4C, 0)] with axes := [(11 * 16 + 2, { vel := 5 })], grps := [(11 * 32 + 1, {})], mons := [(11, { st := 3, committed := [0x113#32, 0x908#32, 50#32, 0#32], entries := [(0, { fault := true, agreeAt := some 0 })] })], now := 20000000 }, 11, 0, 0, by decide +kernel⟩
theorem witness_ContinuityMonitorDemandsAndResets_8 : ∃ (s : State) (site : Nat) (n : Nat) (d : Nat), s.isField site = true ∧ n < 4 ∧ ((s.mon site).pair n).deadline = some d ∧ d ≤ s.now :=
  ⟨{ poke bench [(axPage 11 2 + 0xC, 2), (dollyPage 11 + 0x40, 0xFFFFF1FF), (monPage 11 + 0xC, 2)] with axes := [(11 * 16 + 2, { vel := 5 })], grps := [(11 * 32 + 1, {})], mons := [(11, { st := 3, committed := [0x113#32, 0x908#32, 50#32, 0#32], pairs := [(0, { st := 2, deadline := some 5, stopGates := [1] })] })], now := 5 }, 11, 0, 5, by decide +kernel⟩
theorem witness_ContinuityMonitorDemandsAndResets_9 : ∃ (s : State) (req : Nat) (site : Nat), s.takes 0x3E req site 0x90 0x44 = true ∧ (s.mon site).st = 3 ∧ s.fieldUp site = true ∧ s.regBit (pg site 2 + 0x40) 4 = true ∧ (s.mon site).supply = false ∧ (s.mon site).dieHeat = false ∧ ((s.mon site).latchedPairs.any (fun n => pairBlocked s site n)) = false :=
  ⟨{ poke bench [(axPage 11 2 + 0xC, 2), (dollyPage 11 + 0x40, 0xFFFFF1FF), (monPage 11 + 0xC, 2), (pg 8 3 + 0x54, 0x800), (pg 11 2 + 0x40, 0x10), (dollyPage 11 + 0x4C, 0)] with axes := [(11 * 16 + 2, { vel := 5 })], grps := [(11 * 32 + 1, {})], mons := [(11, { st := 3, committed := [0x113#32, 0x908#32, 50#32, 0#32], pairs := [(0, { latched := true, lockGates := [1] })] })], fios := [(11, { up := true })] }, 0, 11, by decide +kernel⟩
theorem witness_ContinuityMonitorDemandsAndResets_10 : ∃ (s : State) (req : Nat) (site : Nat), s.takes 0x3E req site 0x90 0x44 = true ∧ ((s.mon site).st ≠ 3 ∨ s.fieldUp site = false ∨ s.regBit (pg site 2 + 0x40) 4 = false ∨ (s.mon site).supply = true ∨ (s.mon site).dieHeat = true ∨ ((s.mon site).latchedPairs.any (fun n => pairBlocked s site n)) = true) :=
  ⟨{ poke bench [(axPage 11 2 + 0xC, 2), (dollyPage 11 + 0x40, 0xFFFFF1FF), (monPage 11 + 0xC, 2), (pg 8 3 + 0x54, 0x800), (pg 11 2 + 0x40, 0x10), (dollyPage 11 + 0x4C, 0x100), (dollyPage 11 + 0x50, 0x300)] with axes := [(11 * 16 + 2, { vel := 5 })], grps := [(11 * 32 + 1, {})], mons := [(11, { st := 3, committed := [0x113#32, 0x908#32, 50#32, 0#32], pairs := [(0, { latched := true, lockGates := [1] })] })], fios := [(11, { up := true })] }, 0, 11, by decide +kernel⟩
theorem witness_ContinuityMonitorDemandsAndResets_11 : ∃ (s : State) (site : Nat) (ms : Nat), s.isField site = true ∧ bitOf (s.mon site).committedReset 5 = true ∧ 100 ≤ ms ∧ ms ≤ 5000 ∧ (s.mon site).st = 3 ∧ s.fieldUp site = true ∧ s.regBit (pg site 2 + 0x40) 4 = true ∧ (s.mon site).supply = false ∧ (s.mon site).dieHeat = false ∧ ((s.mon site).latchedPairs.any (fun n => pairBlocked s site n)) = false :=
  ⟨{ poke bench [(axPage 11 2 + 0xC, 2), (dollyPage 11 + 0x40, 0xFFFFF1FF), (monPage 11 + 0xC, 2), (pg 8 3 + 0x54, 0x800), (pg 11 2 + 0x40, 0x10), (dollyPage 11 + 0x4C, 0)] with axes := [(11 * 16 + 2, { vel := 5 })], grps := [(11 * 32 + 1, {})], mons := [(11, { st := 3, committed := [0x113#32, 0x908#32, 50#32, 0#32], pairs := [(0, { latched := true, lockGates := [1] })], committedReset := 0x20#32 })], fios := [(11, { up := true })] }, 11, 100, by decide +kernel⟩
theorem witness_ContinuityMonitorDemandsAndResets_12 : ∃ (s : State) (site : Nat) (ms : Nat), s.isField site = true ∧ bitOf (s.mon site).committedReset 5 = true ∧ 100 ≤ ms ∧ ms ≤ 5000 ∧ ((s.mon site).st ≠ 3 ∨ s.fieldUp site = false ∨ s.regBit (pg site 2 + 0x40) 4 = false ∨ (s.mon site).supply = true ∨ (s.mon site).dieHeat = true ∨ ((s.mon site).latchedPairs.any (fun n => pairBlocked s site n)) = true) :=
  ⟨{ poke bench [(axPage 11 2 + 0xC, 2), (dollyPage 11 + 0x40, 0xFFFFF1FF), (monPage 11 + 0xC, 2), (pg 8 3 + 0x54, 0x800), (pg 11 2 + 0x40, 0x10), (dollyPage 11 + 0x4C, 0x100), (dollyPage 11 + 0x50, 0x300)] with axes := [(11 * 16 + 2, { vel := 5 })], grps := [(11 * 32 + 1, {})], mons := [(11, { st := 3, committed := [0x113#32, 0x908#32, 50#32, 0#32], pairs := [(0, { latched := true, lockGates := [1] })], committedReset := 0x20#32 })], fios := [(11, { up := true })] }, 11, 100, by decide +kernel⟩
theorem witness_ContinuityMonitorDemandsAndResets_13 : ∃ (s : State) (site : Nat) (n : Nat), s.isField site = true ∧ n < 4 :=
  ⟨{ poke bench [(axPage 11 2 + 0xC, 2), (dollyPage 11 + 0x40, 0xFFFFF1FF), (monPage 11 + 0xC, 2)] with axes := [(11 * 16 + 2, { vel := 5 })], grps := [(11 * 32 + 1, {})], mons := [(11, { st := 3, committed := [0x113#32, 0x908#32, 50#32, 0#32] })] }, 11, 0, by decide +kernel⟩
theorem witness_ContinuityMonitorDemandsAndResets_14 : ∃ (s : State) (site : Nat) (n : Nat), s.isField site = true ∧ n < 4 :=
  ⟨{ poke bench [(axPage 11 2 + 0xC, 2), (dollyPage 11 + 0x40, 0xFFFFF1FF), (monPage 11 + 0xC, 2)] with axes := [(11 * 16 + 2, { vel := 5 })], grps := [(11 * 32 + 1, {})], mons := [(11, { st := 3, committed := [0x113#32, 0x908#32, 50#32, 0#32], pairs := [(0, { st := 1 })] })] }, 11, 0, by decide +kernel⟩
theorem witness_ContinuityMonitorDemandsAndResets_15 : ∃ (s : State) (site : Nat) (n : Nat), s.isField site = true ∧ n < 4 ∧ ((s.mon site).pair n).st ≠ 0 :=
  ⟨{ poke bench [(axPage 11 2 + 0xC, 2), (dollyPage 11 + 0x40, 0xFFFFF1FF), (monPage 11 + 0xC, 2)] with axes := [(11 * 16 + 2, { vel := 5 })], grps := [(11 * 32 + 1, {})], mons := [(11, { st := 3, committed := [0x113#32, 0x908#32, 50#32, 0#32], pairs := [(0, { st := 1 })] })] }, 11, 0, by decide +kernel⟩
theorem witness_ContinuityMonitorDemandsAndResets_16 : ∃ (s : State) (site : Nat) (g : Nat), s.isField site = true ∧ g < 8 ∧ (s.grp site g).stopping = true ∧ s.groupStill site g = true :=
  ⟨{ poke bench [(axPage 11 2 + 0xC, 2), (dollyPage 11 + 0x40, 0xFFFFF1FF), (monPage 11 + 0xC, 2)] with axes := [(11 * 16 + 2, {})], grps := [(11 * 32 + 1, { stopping := true, cause := 7 })], mons := [(11, { st := 3, committed := [0x113#32, 0x908#32, 50#32, 0#32], pairs := [(0, { st := 2, stopGates := [1] })] })] }, 11, 1, by decide +kernel⟩
theorem witness_ContinuityMonitorDemandsAndResets_17 : ∃ (s : State) (site : Nat) (i : Nat), s.isField site = true ∧ i < 32 ∧ s.regBit (pg site 2 + 0x40) 4 = true :=
  ⟨{ poke bench [(axPage 11 2 + 0xC, 2), (dollyPage 11 + 0x40, 0xFFFFF1FF), (monPage 11 + 0xC, 2), (pg 11 2 + 0x40, 0x10)] with axes := [(11 * 16 + 2, { vel := 5 })], grps := [(11 * 32 + 1, {})], mons := [(11, { st := 3, committed := [0x113#32, 0x908#32, 50#32, 0#32] })] }, 11, 8, by decide +kernel⟩
theorem witness_ContinuityMonitorDemandsAndResets_18 : ∃ (s : State) (site : Nat) (i : Nat) (level : LimitLevel), s.isField site = true ∧ i < 32 ∧ s.regBit (pg site 2 + 0x40) 4 = true ∧ level ≠ .band :=
  ⟨{ poke bench [(axPage 11 2 + 0xC, 2), (dollyPage 11 + 0x40, 0xFFFFF1FF), (monPage 11 + 0xC, 2), (pg 11 2 + 0x40, 0x10), (axPage 11 2 + 0x68, 0x28)] with axes := [(11 * 16 + 2, { vel := 5 })], grps := [(11 * 32 + 1, {})], mons := [(11, { st := 3, committed := [0x113#32, 0x908#32, 50#32, 0#32] })] }, 11, 8, .low, by decide +kernel⟩
theorem witness_ContinuityMonitorConfigurationAndDiagnostics_1 : ∃ (s : State) (req : Nat) (site : Nat), s.takes 0x3E req site 0x90 0x44 = true ∧ twoStepOk s req site = true ∧ ((List.range 4).all (fun n => ((s.mon site).pair n).st == 0) && (List.range 8).all (fun g => s.groupQuiet site g)) = true ∧ (s.mon site).st ≠ 1 ∧ (s.mon site).st ≠ 2 ∧ s.reg (monPage site + 0x48) = s.reg (monPage site + 0x4C) :=
  ⟨{ poke bench [(axPage 11 2 + 0xC, 2), (dollyPage 11 + 0x40, 0xFFFFF1FF), (monPage 11 + 0xC, 2), (monPage 11 + 0x48, 227968344)] with axes := [(11 * 16 + 2, {})], grps := [(11 * 32 + 1, { atRest := true })], mons := [(11, { st := 0, committed := [0x113#32, 0x908#32, 50#32, 0#32], argBy := some (0, 0) })] }, 0, 11, by decide +kernel⟩
theorem witness_ContinuityMonitorConfigurationAndDiagnostics_2 : ∃ (s : State) (req : Nat) (site : Nat), s.takes 0x3E req site 0x90 0x44 = true ∧ (twoStepOk s req site = false ∨ (((List.range 4).all (fun n => ((s.mon site).pair n).st == 0) && (List.range 8).all (fun g => s.groupQuiet site g))) = false) :=
  ⟨{ poke bench [(axPage 11 2 + 0xC, 2), (dollyPage 11 + 0x40, 0xFFFFF1FF), (monPage 11 + 0xC, 2)] with axes := [(11 * 16 + 2, { vel := 5 })], grps := [(11 * 32 + 1, {})], mons := [(11, { st := 3, committed := [0x113#32, 0x908#32, 50#32, 0#32], argBy := some (0, 0), pairs := [(0, { st := 1 })] })] }, 0, 11, by decide +kernel⟩
theorem witness_ContinuityMonitorConfigurationAndDiagnostics_3 : ∃ (s : State) (req : Nat) (site : Nat), s.takes 0x3E req site 0x90 0x44 = true ∧ twoStepOk s req site = true ∧ ((List.range 4).all (fun n => ((s.mon site).pair n).st == 0) && (List.range 8).all (fun g => s.groupQuiet site g)) = true ∧ (s.mon site).st ≠ 1 ∧ (s.mon site).st ≠ 2 ∧ s.reg (monPage site + 0x48) ≠ s.reg (monPage site + 0x4C) :=
  ⟨{ poke bench [(axPage 11 2 + 0xC, 2), (dollyPage 11 + 0x40, 0xFFFFF1FF), (monPage 11 + 0xC, 2), (monPage 11 + 0x48, 5)] with axes := [(11 * 16 + 2, {})], grps := [(11 * 32 + 1, { atRest := true })], mons := [(11, { st := 0, committed := [0x113#32, 0x908#32, 50#32, 0#32], argBy := some (0, 0) })] }, 0, 11, by decide +kernel⟩
theorem witness_ContinuityMonitorConfigurationAndDiagnostics_4 : ∃ (s : State) (req : Nat) (site : Nat), let crc := BitVec.ofNat 32 (crc32 ((monRegion s site).flatMap (fun x => leBytes 4 x.toNat))); s.takes 0x3E req site 0x90 0x44 = true ∧ twoStepOk s req site = true ∧ (s.mon site).st = 1 ∧ s.reg (monPage site + 0x48) = crc ∧ ((List.range 16).all (fun e => entryOk s site (monRegion s site) e)) = true :=
  ⟨{ poke bench [(axPage 11 2 + 0xC, 2), (dollyPage 11 + 0x40, 0xFFFFF1FF), (monPage 11 + 0xC, 2), (monPage 11 + 0x48, 227968344)] with axes := [(11 * 16 + 2, { vel := 5 })], grps := [(11 * 32 + 1, {})], mons := [(11, { st := 1, committed := [0x113#32, 0x908#32, 50#32, 0#32], argBy := some (0, 0) })] }, 0, 11, by decide +kernel, by decide +kernel, by decide +kernel, (show _ = BitVec.ofNat 32 (4066998951 ^^^ 0xFFFFFFFF) from by decide +kernel).trans (region_crc _ 11 _ _ (show _ = List.replicate 128 0#8 ++ List.replicate 128 0#8 from by decide +kernel) crc_zero_region).symm, by decide +kernel⟩
theorem witness_ContinuityMonitorConfigurationAndDiagnostics_5 : ∃ (s : State) (req : Nat) (site : Nat), let crc := BitVec.ofNat 32 (crc32 ((monRegion s site).flatMap (fun x => leBytes 4 x.toNat))); s.takes 0x3E req site 0x90 0x44 = true ∧ twoStepOk s req site = true ∧ (s.mon site).st = 1 ∧ s.reg (monPage site + 0x48) ≠ crc :=
  ⟨{ poke bench [(axPage 11 2 + 0xC, 2), (dollyPage 11 + 0x40, 0xFFFFF1FF), (monPage 11 + 0xC, 2)] with axes := [(11 * 16 + 2, { vel := 5 })], grps := [(11 * 32 + 1, {})], mons := [(11, { st := 1, committed := [0x113#32, 0x908#32, 50#32, 0#32], argBy := some (0, 0) })] }, 0, 11, by decide +kernel, by decide +kernel, by decide +kernel, (fun h => absurd (h.trans (region_crc _ 11 _ _ (show _ = List.replicate 128 0#8 ++ List.replicate 128 0#8 from by decide +kernel) crc_zero_region)) (by decide +kernel))⟩
theorem witness_ContinuityMonitorConfigurationAndDiagnostics_6 : ∃ (s : State) (req : Nat) (site : Nat) (e : Nat), let crc := BitVec.ofNat 32 (crc32 ((monRegion s site).flatMap (fun x => leBytes 4 x.toNat))); s.takes 0x3E req site 0x90 0x44 = true ∧ twoStepOk s req site = true ∧ (s.mon site).st = 1 ∧ s.reg (monPage site + 0x48) = crc ∧ ((List.range 16).find? (fun e => !entryOk s site (monRegion s site) e)) = some e :=
  ⟨poke ({ poke bench [(axPage 11 2 + 0xC, 2), (dollyPage 11 + 0x40, 0xFFFFF1FF), (monPage 11 + 0xC, 2)] with axes := [(11 * 16 + 2, { vel := 5 })], grps := [(11 * 32 + 1, {})], mons := [(11, { st := 1, committed := [0x113#32, 0x908#32, 50#32, 0#32], argBy := some (0, 0) })] }) [(monPage 11 + 0x110, 5), (monPage 11 + 0x48, 205436257)], 0, 11, 1, by decide +kernel, by decide +kernel, by decide +kernel, (show _ = BitVec.ofNat 32 (4089531038 ^^^ 0xFFFFFFFF) from by decide +kernel).trans (region_crc _ 11 _ _ (show _ = (List.replicate 16 0#8 ++ [5#8] ++ List.replicate 111 0#8) ++ List.replicate 128 0#8 from by decide +kernel) crc_type5_region).symm, by decide +kernel⟩
theorem witness_ContinuityMonitorConfigurationAndDiagnostics_7 : ∃ (s : State) (req : Nat) (site : Nat), s.takes 0x3E req site 0x90 0x44 = true ∧ ((s.mon site).st ≠ 1 ∨ twoStepOk s req site = false) :=
  ⟨{ poke bench [(axPage 11 2 + 0xC, 2), (dollyPage 11 + 0x40, 0xFFFFF1FF), (monPage 11 + 0xC, 2)] with axes := [(11 * 16 + 2, { vel := 5 })], grps := [(11 * 32 + 1, {})], mons := [(11, { st := 3, committed := [0x113#32, 0x908#32, 50#32, 0#32], argBy := some (0, 0) })] }, 0, 11, by decide +kernel⟩
theorem witness_ContinuityMonitorConfigurationAndDiagnostics_8 : ∃ (s : State) (req : Nat) (site : Nat), s.takes 0x3E req site 0x90 0x44 = true ∧ (s.mon site).st = 1 :=
  ⟨{ poke bench [(axPage 11 2 + 0xC, 2), (dollyPage 11 + 0x40, 0xFFFFF1FF), (monPage 11 + 0xC, 2)] with axes := [(11 * 16 + 2, { vel := 5 })], grps := [(11 * 32 + 1, {})], mons := [(11, { st := 1, committed := [0x113#32, 0x908#32, 50#32, 0#32], from_ := 4 })] }, 0, 11, by decide +kernel⟩
theorem witness_ContinuityMonitorConfigurationAndDiagnostics_9 : ∃ (s : State) (site : Nat), s.isField site = true ∧ (s.mon site).st = 2 :=
  ⟨{ poke bench [(axPage 11 2 + 0xC, 2), (dollyPage 11 + 0x40, 0xFFFFF1FF), (monPage 11 + 0xC, 2)] with axes := [(11 * 16 + 2, { vel := 5 })], grps := [(11 * 32 + 1, {})], mons := [(11, { st := 2, committed := [0x113#32, 0x908#32, 50#32, 0#32] })] }, 11, by decide +kernel⟩
theorem witness_ContinuityMonitorConfigurationAndDiagnostics_10 : ∃ (s : State) (site : Nat), s.isField site = true ∧ (s.mon site).st = 2 :=
  ⟨{ poke bench [(axPage 11 2 + 0xC, 2), (dollyPage 11 + 0x40, 0xFFFFF1FF), (monPage 11 + 0xC, 2)] with axes := [(11 * 16 + 2, { vel := 5 })], grps := [(11 * 32 + 1, {})], mons := [(11, { st := 2, committed := [0x113#32, 0x908#32, 50#32, 0#32] })] }, 11, by decide +kernel⟩
theorem witness_ContinuityMonitorConfigurationAndDiagnostics_11 : ∃ (s : State) (site : Nat), s.isField site = true :=
  ⟨{ poke bench [(axPage 11 2 + 0xC, 2), (dollyPage 11 + 0x40, 0xFFFFF1FF), (monPage 11 + 0xC, 2)] with axes := [(11 * 16 + 2, { vel := 5 })], grps := [(11 * 32 + 1, {})], mons := [(11, { st := 3, committed := [0x113#32, 0x908#32, 50#32, 0#32] })] }, 11, by decide +kernel⟩
theorem witness_ContinuityMonitorConfigurationAndDiagnostics_12 : ∃ (s : State) (site : Nat), s.isField site = true ∧ (s.mon site).st ≠ 4 :=
  ⟨{ poke bench [(axPage 11 2 + 0xC, 2), (dollyPage 11 + 0x40, 0xFFFFF1FF), (monPage 11 + 0xC, 2)] with axes := [(11 * 16 + 2, { vel := 5 })], grps := [(11 * 32 + 1, {})], mons := [(11, { st := 3, committed := [0x113#32, 0x908#32, 50#32, 0#32], pairs := [(0, { st := 1 })] })] }, 11, by decide +kernel⟩

end Sys2Proof.Tests
end

/-!
Every command answers a next state that differs in `commandFields` at most: the frame of the whole dispatch.
-/
namespace Sys2Proof.Machine

/-- Every field of State but the assembly and the queue of waiting commands: what a command may change. -/
def commandFields : List Field :=
  [.lead, .regs, .latch, .rdata, .rdataHi, .back, .bar2, .out, .now, .clapper, .clk, .sup, .fios, .ticks, .encs, .poss,
   .cevs, .segArms, .slots, .groups, .order, .meters, .calibs, .gaffer, .tenants, .sec, .ens, .ports, .mons, .boot, .ram,
   .hmem, .badCpl, .mute, .flash, .weak, .loads, .restarts, .rings, .strms, .gates, .axes, .grps, .slotRings, .cueQs,
   .binFlags, .slates, .gens, .cancels, .tqs, .sched, .dqs, .cores, .cmbs, .engs, .mmus, .grans, .granBusy, .poison,
   .buckets, .arbs, .capQs, .avs, .bndTaken, .ces, .scrubs, .free]

/-- A state whose assembly and queue are those of `s`, changed in fields that are neither, differs from `s` in `commandFields` at most. -/
theorem Kept.commandFields_of {v u : List Field} {s r t : State} (h : Kept v s t) (hr : Kept u r t) (hu : Field.sub u commandFields = true)
    (hasm : r.asm = s.asm) (hpending : r.pending = s.pending) : Kept commandFields s t := by
  have left : ∀ f : Field, f ∉ commandFields → f = .asm ∨ f = .pending := by intro f; cases f <;> decide
  refine ⟨fun f hf => ?_, h.wf⟩
  rcases left f hf with rfl | rfl
  · exact ((hr.mono hu).same .asm (by decide)).trans hasm
  · exact ((hr.mono hu).same .pending (by decide)).trans hpending

/-- A reset of the package is of the same fitting, and the commands that wait go on waiting (04 R83). -/
theorem State.packageReset_kept_commandFields (s : State) (cause : Nat) : Kept commandFields s (s.packageReset cause) := by
  have hall := State.packageReset_kept (ws := .asm :: .pending :: commandFields) rfl cause (Kept.refl _ s)
  unfold State.packageReset at hall ⊢
  extract_lets -merge t pgHigh _ r r1 r2 at hall ⊢
  refine hall.commandFields_of (r := r) (u := [.regs, .fios]) (Kept.foldl (fun u x hu => ?_) _ _ ?_) rfl rfl rfl
  · exact State.fioLetGo_kept rfl x (State.showFio_kept rfl x (State.putBit_kept rfl _ _ _ hu))
  · exact State.showSup_kept rfl (State.putBit_kept rfl _ _ _ (State.putBit_kept rfl _ _ _
      (State.setNat_kept rfl _ _ (State.setReg_kept rfl _ _ (Kept.refl _ r)))))

theorem execAonPowerOnReset_kept_commandFields (s : State) : Kept commandFields s (after s (execAonPowerOnReset s)) :=
  have h := State.draw_kept (ws := commandFields) rfl (State.draw_kept rfl (State.draw_kept rfl (Kept.refl _ s)))
  (Kept.set_sup _ rfl h).trans (State.packageReset_kept_commandFields _ 1)

theorem execPorN_kept_commandFields (s : State) (lowNs : Nat) : Kept commandFields s (after s (execPorN lowNs s)) :=
  have h := State.draw_kept (ws := commandFields) rfl (Kept.refl _ s)
  Kept.ite (h.trans (State.packageReset_kept_commandFields _ 2)) (Kept.ite (Kept.refl _ s) h)

/-- Every command leaves the assembly and the queue, and keeps the canonical form: each arm by its own lemma under Laws/. -/
theorem exec_kept (c : Instr) (s : State) : Kept commandFields s (after s (exec c s)) :=
  have h := Kept.refl commandFields s
  match c with
  | .registerWrite .. => execRegisterWrite_kept rfl _ _ _ _ h
  | .absentWrite .. => execAbsentWrite_kept rfl _ _ h
  | .ctrlEnSet .. => execCtrlEnSet_kept rfl _ _ _ h
  | .ctrlEnClear .. => execCtrlEnClear_kept rfl _ _ _ h
  | .softReset .. => execSoftReset_kept rfl _ _ _ h
  | .blockReady .. => execBlockReady_kept rfl _ _ h
  | .stopComplete .. => execStopComplete_kept rfl _ _ h
  | .pendingStart .. => execPendingStart_kept rfl _ _ h
  | .evtRawClear .. => execEvtRawClear_kept rfl _ _ _ _ _ h
  | .faultCodeClear .. => execFaultCodeClear_kept rfl _ _ _ _ h
  | .txnOpen .. => execTxnOpen_kept rfl _ _ _ _ h
  | .txnCommit .. => execTxnCommit_kept rfl _ _ _ _ h
  | .txnAbort .. => execTxnAbort_kept rfl _ _ _ _ h
  | .txnStaged .. => execTxnStaged_kept rfl _ _ h
  | .txnBoundary .. => execTxnBoundary_kept rfl _ _ h
  | .stagedReport .. => execStagedReport_kept rfl _ _ _ h
  | .groupReportDeadline .. => execGroupReportDeadline_kept rfl _ h
  | .groupAbort .. => execGroupAbort_kept rfl _ h
  | .crossApply .. => execCrossApply_kept rfl _ _ h
  | .encoderEdge .. => execEncoderEdge_kept rfl _ _ _ h
  | .qerr .. => execQerr_kept rfl _ _ h
  | .encLineBroken .. => execEncLineBroken_kept rfl _ _ _ h
  | .index .. => execIndex_kept rfl _ _ _ h
  | .periodNoMotion .. => execPeriodNoMotion_kept rfl _ _ h
  | .uncClr .. => execUncClr_kept rfl _ _ _ h
  | .lineTrigger .. => execLineTrigger_kept rfl _ _ h
  | .lateTrigger .. => execLateTrigger_kept rfl _ _ h
  | .pitchArm .. => execPitchArm_kept rfl _ _ _ _ h
  | .cevArm .. => execCevArm_kept rfl _ _ _ h
  | .clapperAction .. => execClapperAction_kept rfl _ h
  | .tickAction .. => execTickAction_kept rfl _ h
  | .ptpSync .. => execPtpSync_kept rfl _ h
  | .ptpFollowUp .. => execPtpFollowUp_kept rfl _ h
  | .delayReq => execDelayReq_kept rfl h
  | .ptpDelayResp .. => execPtpDelayResp_kept rfl _ h
  | .ptpAnnounce .. => execPtpAnnounce_kept rfl _ h
  | .announceReceiptTimeout => execAnnounceReceiptTimeout_kept rfl h
  | .ppsInEdge => execPpsInEdge_kept rfl h
  | .ppsMissing => execPpsMissing_kept rfl h
  | .holdoverMaxExpire => execHoldoverMaxExpire_kept rfl h
  | .ppsOut => execPpsOut_kept rfl h
  | .clkCmdSet .. => execClkCmdSet_kept rfl _ _ h
  | .clkCfgWrite .. => execClkCfgWrite_kept rfl _ _ h
  | .toBackup .. => execToBackup_kept rfl _ _ h
  | .toMain => execToMain_kept rfl h
  | .vaonBFall .. => execVaonBFall_kept rfl _ _ h
  | .fioToBackup .. => execFioToBackup_kept rfl _ _ _ h
  | .fioToMain .. => execFioToMain_kept rfl _ h
  | .fioLost .. => execFioLost_kept rfl _ _ _ h
  | .fioRestored .. => execFioRestored_kept rfl _ _ _ h
  | .mainLost => execMainLost_kept rfl h
  | .mainPgRise => execMainPgRise_kept rfl h
  | .mainRelease => execMainRelease_kept rfl h
  | .aonPowerOnReset => execAonPowerOnReset_kept_commandFields s
  | .porN lowNs => execPorN_kept_commandFields s lowNs
  | .rstCmd .. => execRstCmd_kept rfl _ _ h
  | .sysRstN .. => execSysRstN_kept rfl _ h
  | .perst => execPerst_kept rfl h
  | .trstN .. => execTrstN_kept rfl _ h
  | .avsFault .. => execAvsFault_kept rfl _ _ h
  | .avsAck .. => execAvsAck_kept rfl _ _ h
  | .watchdogExpire site core => execWatchdogExpire_kept rfl site core h
  | .aonBoot .. => execAonBoot_kept rfl _ _ h
  | .mainBoot .. => execMainBoot_kept rfl _ _ h
  | .pcieConfigRequest .. => execPcieConfigRequest_kept rfl _ h
  | .recCmdGo .. => execRecCmdGo_kept rfl _ _ h
  | .mbAck .. => execMbAck_kept rfl _ _ _ h
  | .getFwInfo .. => execGetFwInfo_kept rfl _ h
  | .svnRaise .. => execSvnRaise_kept rfl _ h
  | .flRead .. => execFlRead_kept rfl _ h
  | .flProgram .. => execFlProgram_kept rfl _ h
  | .erase4K .. => execErase4K_kept rfl _ h
  | .erase64K .. => execErase64K_kept rfl _ h
  | .flDone .. => execFlDone_kept rfl _ _ h
  | .linkFail => execLinkFail_kept rfl h
  | .linkChange .. => execLinkChange_kept rfl _ _ h
  | .sqTail .. => execSqTail_kept rfl _ _ _ _ h
  | .take .. => execTake_kept rfl _ _ _ h
  | .fence .. => execFence_kept rfl _ _ _ h
  | .takeStart => execTakeStart_kept rfl h
  | .takeEnd .. => execTakeEnd_kept rfl _ _ _ h
  | .completionRecord .. => execCompletionRecord_kept rfl _ _ h
  | .intModDelay .. => execIntModDelay_kept rfl _ _ h
  | .abortAll .. => execAbortAll_kept rfl _ _ _ _ _ h
  | .flr .. => execFlr_kept rfl _ h
  | .dailiesWrite .. => execDailiesWrite_kept rfl _ h
  | .exportData .. => execExportData_kept rfl _ h
  | .exportAck .. => execExportAck_kept rfl _ _ _ h
  | .exportRetry .. => execExportRetry_kept rfl _ h
  | .matmul .. => execMatmul_kept rfl _ _ h
  | .matmulAct .. => execMatmulAct_kept rfl _ _ h
  | .conv2d .. => execConv2d_kept rfl _ _ h
  | .ew .. => execEw_kept rfl _ _ h
  | .act .. => execAct_kept rfl _ _ h
  | .convert .. => execConvert_kept rfl _ _ h
  | .norm .. => execNorm_kept rfl _ _ h
  | .softmax .. => execSoftmax_kept rfl _ _ h
  | .reduce .. => execReduce_kept rfl _ _ h
  | .pool .. => execPool_kept rfl _ _ h
  | .dwconv .. => execDwconv_kept rfl _ _ h
  | .transpose .. => execTranspose_kept rfl _ _ h
  | .gather .. => execGather_kept rfl _ _ h
  | .copy .. => execCopy_kept rfl _ _ h
  | .barrier .. => execBarrier_kept rfl _ _ h
  | .barrierRelease .. => execBarrierRelease_kept rfl _ _ h
  | .flagWait .. => execFlagWait_kept rfl _ _ h
  | .flagSet .. => execFlagSet_kept rfl _ _ h
  | .cuePush .. => execCuePush_kept rfl _ _ h
  | .cuePop .. => execCuePop_kept rfl _ _ h
  | .dma .. => execDma_kept rfl _ _ h
  | .endOp .. => execEndOp_kept rfl _ _ h
  | .opRetire .. => execOpRetire_kept rfl _ _ h
  | .opOverrun .. => execOpOverrun_kept rfl _ _ h
  | .profClr .. => execProfClr_kept rfl _ _ _ _ h
  | .partialArrive .. => execPartialArrive_kept rfl _ _ _ _ _ _ h
  | .combineNodeTile .. => execCombineNodeTile_kept rfl _ _ _ _ _ h
  | .cmbParity .. => execCmbParity_kept rfl _ _ h
  | .slateLoad .. => execSlateLoad_kept rfl _ _ h
  | .slateUnload .. => execSlateUnload_kept rfl _ h
  | .unloadComplete .. => execUnloadComplete_kept rfl _ h
  | .slateQuery .. => execSlateQuery_kept rfl _ h
  | .boundRecord .. => execBoundRecord_kept rfl _ h
  | .clearAll .. => execClearAll_kept rfl _ _ _ h
  | .epochCancel .. => execEpochCancel_kept rfl _ h
  | .dmaTransfer .. => execDmaTransfer_kept rfl _ _ _ h
  | .dmaTransferDone .. => execDmaTransferDone_kept rfl _ _ _ h
  | .relayTile .. => execRelayTile_kept rfl _ _ _ h
  | .dmaTimeout .. => execDmaTimeout_kept rfl _ _ _ h
  | .dmaParity .. => execDmaParity_kept rfl _ _ _ h
  | .relayParity .. => execRelayParity_kept rfl _ _ h
  | .clrPeak .. => execClrPeak_kept rfl _ _ _ h
  | .mmuCmdInvalidate .. => execMmuCmdInvalidate_kept rfl _ _ _ h
  | .invDone .. => execInvDone_kept rfl _ h
  | .mmuCmdResume .. => execMmuCmdResume_kept rfl _ _ _ h
  | .mmuCmdResumeFail .. => execMmuCmdResumeFail_kept rfl _ _ _ h
  | .mmuSetRoot .. => execMmuSetRoot_kept rfl _ h
  | .mmuInvalidate .. => execMmuInvalidate_kept rfl _ h
  | .faultList .. => execFaultList_kept rfl _ h
  | .resume .. => execResume_kept rfl _ h
  | .granOwner .. => execGranOwner_kept rfl _ _ h
  | .granDone => execGranDone_kept rfl h
  | .correctedError .. => execCorrectedError_kept rfl _ _ _ h
  | .uncorrectableError .. => execUncorrectableError_kept rfl _ _ _ h
  | .scrub .. => execScrub_kept rfl _ _ _ h
  | .dieFatalError site code => execDieFatalError_kept rfl site code h
  | .siteReturned .. => execSiteReturned_kept rfl _ h
  | .pkgFatal .. => execPkgFatal_kept rfl _ h
  | .linkReplay .. => execLinkReplay_kept rfl _ _ h
  | .filterUnit .. => execFilterUnit_kept rfl _ _ h
  | .pyramidUnit .. => execPyramidUnit_kept rfl _ _ h
  | .matchUnit .. => execMatchUnit_kept rfl _ _ h
  | .unitDone .. => execUnitDone_kept rfl _ _ h
  | .unitOverrun .. => execUnitOverrun_kept rfl _ _ h
  | .clrMax .. => execClrMax_kept rfl _ _ _ _ h
  | .tapBurst .. => execTapBurst_kept rfl _ _ _ _ h
  | .rdClose .. => execRdClose_kept rfl _ _ h
  | .dcoLost .. => execDcoLost_kept rfl _ _ h
  | .dcoReturn .. => execDcoReturn_kept rfl _ _ h
  | .aligned .. => execAligned_kept rfl _ _ _ h
  | .alignFail .. => execAlignFail_kept rfl _ _ h
  | .sensorPoll .. => execSensorPoll_kept rfl _ _ h
  | .goSpi .. => execGoSpi_kept rfl _ _ _ _ h
  | .spiDone .. => execSpiDone_kept rfl _ _ _ h
  | .shdDataWrite .. => execShdDataWrite_kept rfl _ _ _ _ h
  | .shdDataRead .. => execShdDataRead_kept rfl _ _ _ h
  | .slotPublish .. => execSlotPublish_kept rfl _ _ h
  | .pipeSet .. => execPipeSet_kept rfl _ h
  | .perfReport .. => execPerfReport_kept rfl _ _ h
  | .frameDescPush .. => execFrameDescPush_kept rfl _ _ h
  | .layerReceive .. => execLayerReceive_kept rfl _ _ _ h
  | .frameEmit .. => execFrameEmit_kept rfl _ _ h
  | .frameHoldExpire .. => execFrameHoldExpire_kept rfl _ _ h
  | .segTail .. => execSegTail_kept rfl _ _ _ _ h
  | .segArm .. => execSegArm_kept rfl _ _ _ _ h
  | .segStart .. => execSegStart_kept rfl _ _ h
  | .segDone .. => execSegDone_kept rfl _ _ h
  | .pwmPeriod .. => execPwmPeriod_kept rfl _ _ _ h
  | .modeSwitch .. => execModeSwitch_kept rfl _ _ h
  | .atHold .. => execAtHold_kept rfl _ _ h
  | .clrLock .. => execClrLock_kept rfl _ _ _ _ h
  | .grpCmdStop .. => execGrpCmdStop_kept rfl _ _ _ _ h
  | .atRest .. => execAtRest_kept rfl _ _ h
  | .grpCmdRelease .. => execGrpCmdRelease_kept rfl _ _ _ _ h
  | .limitQualify .. => execLimitQualify_kept rfl _ _ _ h
  | .overcurrent .. => execOvercurrent_kept rfl _ _ h
  | .senseFail .. => execSenseFail_kept rfl _ _ h
  | .paceStep .. => execPaceStep_kept rfl _ _ h
  | .pacingTick .. => execPacingTick_kept rfl _ _ h
  | .achievedReport .. => execAchievedReport_kept rfl _ _ h
  | .pcCmdStop .. => execPcCmdStop_kept rfl _ _ _ _ h
  | .pcCmdResume .. => execPcCmdResume_kept rfl _ _ _ _ h
  | .pcCmdSkip .. => execPcCmdSkip_kept rfl _ _ _ _ h
  | .restartRunUp .. => execRestartRunUp_kept rfl _ _ h
  | .autoResumed .. => execAutoResumed_kept rfl _ _ h
  | .meterConversion .. => execMeterConversion_kept rfl _ _ _ h
  | .excOvercurrent .. => execExcOvercurrent_kept rfl _ _ h
  | .excReturn .. => execExcReturn_kept rfl _ _ h
  | .clamp .. => execClamp_kept rfl _ _ h
  | .clampFault .. => execClampFault_kept rfl _ _ h
  | .adcFail .. => execAdcFail_kept rfl _ _ h
  | .refFault .. => execRefFault_kept rfl _ _ h
  | .meterConfigWrite .. => execMeterConfigWrite_kept rfl _ _ _ _ _ h
  | .outputPeriod .. => execOutputPeriod_kept rfl _ _ h
  | .calCmdStart .. => execCalCmdStart_kept rfl _ _ _ h
  | .calStep .. => execCalStep_kept rfl _ _ h
  | .calCmdAbort .. => execCalCmdAbort_kept rfl _ _ _ h
  | .calCmdRestore .. => execCalCmdRestore_kept rfl _ _ _ h
  | .calDataWrite .. => execCalDataWrite_kept rfl _ _ _ h
  | .calDataRead .. => execCalDataRead_kept rfl _ _ h
  | .scCmdDark .. => execScCmdDark_kept rfl _ _ _ _ h
  | .scCmdFlat .. => execScCmdFlat_kept rfl _ _ _ _ h
  | .scCmdAbort .. => execScCmdAbort_kept rfl _ _ _ _ h
  | .shadeExposure .. => execShadeExposure_kept rfl _ _ _ _ h
  | .energyTick .. => execEnergyTick_kept rfl _ h
  | .gafferTick .. => execGafferTick_kept rfl _ h
  | .trip .. => execTrip_kept rfl _ _ h
  | .tripClear .. => execTripClear_kept rfl _ _ h
  | .pkgBudgetWrite .. => execPkgBudgetWrite_kept rfl _ _ _ h
  | .trngValid => execTrngValid_kept rfl h
  | .healthFail .. => execHealthFail_kept rfl _ h
  | .entropyFail => execEntropyFail_kept rfl h
  | .drbgReseed => execDrbgReseed_kept rfl h
  | .rand .. => execRand_kept rfl _ h
  | .sessionOpen .. => execSessionOpen_kept rfl _ h
  | .sessionBind .. => execSessionBind_kept rfl _ h
  | .sessionClose .. => execSessionClose_kept rfl _ h
  | .confEnter .. => execConfEnter_kept rfl _ h
  | .confExit .. => execConfExit_kept rfl _ h
  | .attestCert .. => execAttestCert_kept rfl _ h
  | .dbgWinDataWrite .. => execDbgWinDataWrite_kept rfl _ _ h
  | .dbgWinDataRead .. => execDbgWinDataRead_kept rfl _ h
  | .ensForm .. => execEnsForm_kept rfl _ _ h
  | .ensRejoin .. => execEnsRejoin_kept rfl _ _ h
  | .ensDissolve .. => execEnsDissolve_kept rfl _ h
  | .portTrained .. => execPortTrained_kept rfl _ _ h
  | .trainFail .. => execTrainFail_kept rfl _ _ h
  | .peerAuth .. => execPeerAuth_kept rfl _ _ _ h
  | .dataFrame .. => execDataFrame_kept rfl _ _ _ h
  | .ackFrame .. => execAckFrame_kept rfl _ _ _ h
  | .timeFrame .. => execTimeFrame_kept rfl _ _ _ h
  | .controlFrame .. => execControlFrame_kept rfl _ _ _ h
  | .lossOfSignal .. => execLossOfSignal_kept rfl _ _ h
  | .pkgLost p cause => execPkgLost_kept rfl p cause h
  | .isolated => execIsolated_kept rfl h
  | .guardDemand .. => execGuardDemand_kept rfl _ _ h
  | .motionWindow .. => execMotionWindow_kept rfl _ h
  | .inputFault .. => execInputFault_kept rfl _ _ h
  | .inputFaultClear .. => execInputFaultClear_kept rfl _ _ h
  | .stopMsExpire .. => execStopMsExpire_kept rfl _ _ h
  | .monCmdReset .. => execMonCmdReset_kept rfl _ _ _ h
  | .resetIn .. => execResetIn_kept rfl _ _ h
  | .testPulse .. => execTestPulse_kept rfl _ _ _ _ h
  | .diagInterval .. => execDiagInterval_kept rfl _ _ h
  | .monCmdUnlock .. => execMonCmdUnlock_kept rfl _ _ _ h
  | .monCmdCommit .. => execMonCmdCommit_kept rfl _ _ _ h
  | .monCmdAbortCfg .. => execMonCmdAbortCfg_kept rfl _ _ _ h
  | .selfTestDone .. => execSelfTestDone_kept rfl _ _ h
  | .ssoCurrentLimit site n outB => execSsoCurrentLimit_kept rfl site n outB h
  | .latchedRead .. => execLatchedRead_kept rfl _ _ h
  | .regParity .. => execRegParity_kept rfl _ _ h
  | .vaonAReturn .. => execVaonAReturn_kept rfl _ _ h
  | .vfioAReturn .. => execVfioAReturn_kept rfl _ _ _ h
  | .clampEnd .. => execClampEnd_kept rfl _ _ h
  | .pollEnd .. => execPollEnd_kept rfl _ _ _ h
  | .tapInstruction .. => execTapInstruction_kept rfl _ h

/-- No arm of the dispatch faults or is refused: a meaning that branches before it answers answers a next state in each branch. -/
theorem exec_answers (c : Instr) (s : State) : ∃ t, exec c s = .next t := by
  cases c
  all_goals dsimp -zeta only [exec,
    execEncoderEdge, execQerr, execEncLineBroken, execIndex, execPeriodNoMotion, execSegStart, execSegDone, execPwmPeriod,
    execModeSwitch, execAtHold, execOvercurrent, execSenseFail, execPaceStep, execPtpSync, execPtpFollowUp, execDelayReq,
    execPtpDelayResp, execPtpAnnounce, execAnnounceReceiptTimeout, execPpsInEdge, execPpsMissing, execHoldoverMaxExpire,
    execPpsOut, execEnergyTick, execGafferTick, execTrip, execTripClear, execAvsFault, execAvsAck, execExportData,
    execExportAck, execExportRetry, execGuardDemand, execMotionWindow, execInputFault, execInputFaultClear,
    execStopMsExpire, execResetIn, execTestPulse, execSsoCurrentLimit, execDiagInterval, execSelfTestDone, execAtRest,
    execLimitQualify, execTrngValid, execHealthFail, execEntropyFail, execDrbgReseed, execRand, execDbgWinDataRead,
    execTapBurst, execRdClose, execDcoLost, execDcoReturn, execAligned, execAlignFail, execSensorPoll, execPollEnd,
    execSpiDone, execShdDataRead, execShadeExposure, execIntModDelay, execPacingTick, execAchievedReport, execRestartRunUp,
    execAutoResumed, execExcOvercurrent, execExcReturn, execClamp, execClampEnd, execClampFault, execAdcFail, execRefFault,
    execOutputPeriod, execCalDataRead, execRegisterWrite]
  all_goals repeat' first
    | exact ⟨_, rfl⟩
    | split
    | extract_lets

/-- A command answers a next state, which differs in `commandFields` at most. -/
theorem exec_next_kept (c : Instr) (s : State) : ∃ t, exec c s = .next t ∧ Kept commandFields s t := by
  obtain ⟨t, ht⟩ := exec_answers c s
  have hk := exec_kept c s
  rw [ht] at hk
  exact ⟨t, ht, hk⟩

theorem asm_not_mem_commandFields : Field.asm ∉ commandFields := by decide
theorem pending_not_mem_commandFields : Field.pending ∉ commandFields := by decide

/-- Settles O4, from the frame that each command's own lemma gives. -/
theorem everyCommandKeepsAssemblyAndQueue : Obligations.EveryCommandKeepsAssemblyAndQueue := by
  unfold Obligations.EveryCommandKeepsAssemblyAndQueue
  have keeps : ∀ (c : Instr) (s : State), ∃ t, exec c s = .next t ∧ t.asm = s.asm ∧ t.pending = s.pending := by
    intro c s
    obtain ⟨t, ht, hk⟩ := exec_next_kept c s
    exact ⟨t, ht, hk.same .asm asm_not_mem_commandFields, hk.same .pending pending_not_mem_commandFields⟩
  refine ⟨keeps, fun s c rest hs => ?_⟩
  obtain ⟨t, ht, hasm, hpending⟩ := keeps c { s with pending := rest }
  exact ⟨t, by simp only [step, hs, ht], hpending, hasm⟩

end Sys2Proof.Machine

/-!
What a write to an absent page leaves (01 R19).
-/
namespace Sys2Proof.Machine

/-- What the record of a write to an absent page leaves, and all that it leaves (01 R19). -/
theorem State.absent_records (s : State) (addr : Nat) :
    (s.absent addr).reg (pg 8 0 + 0x50) = BitVec.ofNat 32 addr ∧ (s.absent addr).latched (pg 8 0) 0 = true ∧
      Only [.regs, .bar2, .out] s (s.absent addr) ∧ RegsBut ((pg 8 0 + 0x50) :: evtRegs (pg 8 0)) s (s.absent addr) := by
  have aligned := pg_aligned 8 0
  refine ⟨?_, State.regBit_evt _ aligned (by decide), (State.absent_kept rfl addr (Kept.refl _ s)).same, fun a ha => ?_⟩
  · unfold State.absent
    rw [State.reg_evt _ _ _ _ (not_evtReg aligned (by decide) (by decide) (by decide)), State.reg_setNat, if_pos rfl]
  · rw [List.mem_cons, not_or] at ha
    unfold State.absent
    rw [State.reg_evt _ _ _ _ ha.2, State.reg_setNat, if_neg ha.1]

/-- A write to an absent page goes no further than its record, outside a reset of the always-on domain (01 R19; 04 R81). -/
theorem State.gateWrite_of_absent {s : State} {site blk : Nat} (req off : Nat) (hheld : s.sup.held = none) (habsent : s.present site blk = false) :
    s.gateWrite req site blk off = some (s.absent (pg site blk + off)) := by
  simp [State.gateWrite, hheld, habsent]

/-- A register write whose page turns it away ends there, whatever its value and byte enables. -/
theorem execRegisterWrite_of_gateWrite {s t : State} {req addr : Nat} (val : Word) (be : Nat) (haddr : addr < 2 ^ 26)
    (hgate : s.gateWrite req (siteOf addr) (blkOf addr) (offOf addr) = some t) :
    exec (.registerWrite req addr ⟨val, none⟩ be) s = .next t := by
  have h26 : ¬ 2 ^ 26 ≤ addr := Nat.not_le.mpr haddr
  have h32 : ¬ 2 ^ 32 ≤ addr := by omega
  simp only [exec, execRegisterWrite, State.write, h26, h32, if_false, hgate]

/-- Settles O12: both commands end in the same record. -/
theorem absentWriteRecorded : Obligations.AbsentWriteRecorded := by
  unfold Obligations.AbsentWriteRecorded
  refine ⟨fun s req addr val be haddr hheld habsent => ?_, fun s req addr haddr habsent => ?_⟩
  · exact ⟨_, execRegisterWrite_of_gateWrite val be haddr (State.gateWrite_of_absent req _ hheld habsent), s.absent_records _⟩
  · have h26 : ¬ 2 ^ 26 ≤ addr := Nat.not_le.mpr haddr
    have hexec : exec (.absentWrite req addr) s = .next (s.absent addr) := by
      simp only [exec, execAbsentWrite, h26, if_false, habsent, true_or, if_true]
    exact ⟨_, hexec, s.absent_records addr⟩

end Sys2Proof.Machine

/-!
A write that is out of reach (06 R110).
-/
namespace Sys2Proof.Machine

/-- A METER_CONFIG_WRITE that its page turns away ends there. -/
theorem exec_meterConfigWrite_of_gateWrite {s t : State} {req site m off : Nat} (val : Word) (hm : m < 8 ∧ 0x40 ≤ off)
    (hgate : s.gateWrite req site (0x78 + m) off = some t) : exec (.meterConfigWrite req site m off val) s = .next t := by
  simp only [exec, execMeterConfigWrite, hm, and_self, if_true, State.directWrite, State.asWrite, hgate]

/-- A write of a present and exposed page by a requester that may not write it is rejected LOCKED (06 R110). -/
theorem State.gateWrite_of_locked {s : State} {req site blk off : Nat} (hheld : s.sup.held = none) (hpresent : s.present site blk = true)
    (hbar0 : s.bar0 req site blk = true) (hreach : s.writeReach req site blk off = false) :
    s.gateWrite req site blk off = some (s.reject req (pg site blk) off 4) := by
  simp [State.gateWrite, hheld, hpresent, hbar0, hreach]

/-- Refutes O5: its clause on LOCKED writes adds the command's whole offset to REJ_INFO, which holds an offset within the page. From
reset, tenant 1's METER_CONFIG_WRITE at offset 0x1040 of meter 0's page is rejected with offset 0x040, where the clause asks for 0x1040
and so for reason 5. -/
theorem not_writesOutOfReachOnlyLeaveTheirRecord : ¬ Obligations.WritesOutOfReachOnlyLeaveTheirRecord := by
  unfold Obligations.WritesOutOfReachOnlyLeaveTheirRecord
  rintro ⟨-, locked, -⟩
  have hheld : State.reset.sup.held = none := rfl
  have hpresent : State.reset.present 11 0x78 = true := by decide
  have hbar0 : State.reset.bar0 1 11 0x78 = true := by decide
  have hreach : State.reset.writeReach 1 11 0x78 0x1040 = false := by decide
  obtain ⟨t, hexec, hreg, -⟩ := locked State.reset (.meterConfigWrite 1 11 0 0x1040 0#32) 1 11 0x78 0x1040 rfl hheld hpresent hbar0 hreach
  rw [exec_meterConfigWrite_of_gateWrite (m := 0) 0#32 (by decide) (State.gateWrite_of_locked hheld hpresent hbar0 hreach)] at hexec
  cases hexec
  have hrecord := State.rejInfo_reject State.reset (pg_aligned 11 0x78) 1 0x1040 4
  exact absurd (hreg.symm.trans hrecord) (by decide)

end Sys2Proof.Machine

/-!
What the fall of a die or of the package leaves of the pages that report it: the operations that end takes, splice streams and lose
slates write none of their registers but for events, clear no event of theirs, and take back no output.
-/
namespace Sys2Proof.Machine

/-- A register of a page that reports a fall: the assembly, boot, memory and ensemble pages of X0. -/
def OnReportPage (a : Nat) : Prop := a / 0x1000 = 0x2000 ∨ a / 0x1000 = 0x2003 ∨ a / 0x1000 = 0x2005 ∨ a / 0x1000 = 0x200C

theorem onReportPage_iff {a : Nat} : OnReportPage a ↔ a / 0x1000 = 0x2000 ∨ a / 0x1000 = 0x2003 ∨ a / 0x1000 = 0x2005 ∨ a / 0x1000 = 0x200C := Iff.rfl

/-- The first address of a page of BAR0. -/
def IsPage (p : Nat) : Prop := p % 0x1000 = 0 ∧ p < 0x4000000

theorem isPage_iff {p : Nat} : IsPage p ↔ p % 0x1000 = 0 ∧ p < 0x4000000 := Iff.rfl

/-- The second state has the first one's registers of the reporting pages but for EVT_RAW and EVT_PEND, its events latched there, and its
outputs. -/
structure Spares (s t : State) : Prop where
  reg : ∀ a, OnReportPage a → a % 0x1000 ≠ 0x10 → a % 0x1000 ≠ 0x18 → t.reg a = s.reg a
  latched : ∀ p i, OnReportPage p → p % 0x1000 = 0 → s.latched p i = true → t.latched p i = true
  out : s.out ⊆ t.out

theorem isPage_pg (site blk : Nat) : IsPage (pg site blk) := by rw [isPage_iff]; unfold pg; omega

/-- Only the blocks 0, 3, 5 and 12 of X0 report a fall. -/
theorem offReport_pg {site blk off : Nat}
    (h : (blk % 1024 ≠ 0 ∧ blk % 1024 ≠ 3 ∧ blk % 1024 ≠ 5 ∧ blk % 1024 ≠ 12) ∧ off < 0x1000) : ¬ OnReportPage (pg site blk + off) := by
  rw [onReportPage_iff]; unfold pg; omega

theorem Spares.refl (s : State) : Spares s s := ⟨fun _ _ _ _ => rfl, fun _ _ _ _ h => h, fun _ h => h⟩

section
variable {s₀ s t : State}

theorem Spares.trans (h1 : Spares s₀ s) (h2 : Spares s t) : Spares s₀ t :=
  ⟨fun a ha h10 h18 => (h2.reg a ha h10 h18).trans (h1.reg a ha h10 h18),
    fun p i hp h0 hl => h2.latched p i hp h0 (h1.latched p i hp h0 hl), fun _ ho => h2.out (h1.out ho)⟩

theorem Spares.ite {c : Prop} [Decidable c] (h1 : Spares s₀ s) (h2 : Spares s₀ t) : Spares s₀ (if c then s else t) := by
  split
  · exact h1
  · exact h2

theorem Spares.foldl_mem {α : Type} {f : State → α → State} :
    ∀ (l : List α) {s : State}, (∀ t x, x ∈ l → Spares s₀ t → Spares s₀ (f t x)) → Spares s₀ s → Spares s₀ (l.foldl f s) := by
  intro l
  induction l with
  | nil => exact fun _ h => h
  | cons x l ih =>
    exact fun hf h => ih (fun t y hy => hf t y (List.mem_cons_of_mem _ hy)) (hf _ x List.mem_cons_self h)

theorem Spares.foldl {α : Type} {f : State → α → State} (hf : ∀ t x, Spares s₀ t → Spares s₀ (f t x)) (l : List α) (h : Spares s₀ s) :
    Spares s₀ (l.foldl f s) :=
  Spares.foldl_mem l (fun t x _ => hf t x) h

/-- A state with the same registers and outputs. -/
theorem Spares.of_same (h : Spares s₀ s) (hr : ∀ a, t.reg a = s.reg a) (ho : t.out = s.out) : Spares s₀ t :=
  h.trans ⟨fun a _ _ _ => hr a, fun p i _ _ hl => by simpa only [State.latched, State.regBit, hr] using hl, fun _ h => ho ▸ h⟩

/-- An operation that by its frame leaves assembly, registers and outputs. -/
theorem Spares.of_kept {w : List Field} (hk : Kept w s t) (h : Spares s₀ s) (ha : Field.asm ∉ w := by decide) (hr : Field.regs ∉ w := by decide)
    (ho : Field.out ∉ w := by decide) : Spares s₀ t := by
  have hasm : t.asm = s.asm := hk.same .asm ha
  have hregs : t.regs = s.regs := hk.same .regs hr
  exact h.of_same (fun a => by unfold State.reg; rw [hasm, hregs]) (hk.same .out ho)

theorem Spares.setReg (h : Spares s₀ s) {a : Nat} (ha : ¬ OnReportPage a) (v : Word) : Spares s₀ (s.setReg a v) := by
  have hne : ∀ b, OnReportPage b → (s.setReg a v).reg b = s.reg b := fun b hb => s.reg_setReg_ne v (fun e => ha (e ▸ hb))
  refine h.trans ⟨fun b hb _ _ => hne b hb, fun p i hp h0 hl => ?_, fun _ h => h⟩
  have hp10 : OnReportPage (p + 0x10) := by rw [onReportPage_iff] at hp ⊢; omega
  unfold State.latched State.regBit at hl ⊢
  rwa [hne _ hp10]

theorem Spares.setNat (h : Spares s₀ s) (a : Nat) (n : Nat) (ha : ¬ OnReportPage a) :
    Spares s₀ (s.setNat a n) := h.setReg ha _
theorem Spares.putFld (h : Spares s₀ s) (a : Nat) (lo w x : Nat) (ha : ¬ OnReportPage a) :
    Spares s₀ (s.putFld a lo w x) := h.setReg ha _
theorem Spares.putBit (h : Spares s₀ s) (a : Nat) (i : Nat) (b : Bool) (ha : ¬ OnReportPage a) :
    Spares s₀ (s.putBit a i b) := h.setReg ha _
theorem Spares.addSat (h : Spares s₀ s) (a : Nat) (n : Nat) (ha : ¬ OnReportPage a) :
    Spares s₀ (s.addSat a n) := h.setReg ha _

theorem Spares.setWide (h : Spares s₀ s) {a : Nat} (ha : ¬ OnReportPage a) (hb : ¬ OnReportPage (a + 4)) (n : Nat) :
    Spares s₀ (s.setWide a n) := (h.setNat a _ ha).setNat (a + 4) _ hb

theorem Spares.emit (h : Spares s₀ s) (o : Output) : Spares s₀ (s.emit o) :=
  h.trans ⟨fun _ _ _ _ => rfl, fun _ _ _ _ hl => hl, List.subset_append_left _ _⟩

theorem Spares.msix (h : Spares s₀ s) (fn vec : Nat) : Spares s₀ (s.msix fn vec) := by
  unfold State.msix
  exact Spares.ite (h.of_same (fun _ => rfl) rfl) (h.emit _)

theorem Spares.signal (h : Spares s₀ s) (w : Word) (p : Nat) : Spares s₀ (s.signal w p) := Spares.ite (h.msix _ _) h

/-- PEND_MAP lies on no reporting page. -/
theorem offReport_pendReg {p : Nat} (hp : IsPage p) : ¬ OnReportPage (pendReg p) := by
  rw [isPage_iff] at hp
  rw [onReportPage_iff]; unfold pendReg pg siteOf blkOf; omega

/-- An event of any page clears no other event, and shows beyond EVT_RAW and EVT_PEND in PEND_MAP alone. -/
theorem Spares.evt (h : Spares s₀ s) {p : Nat} (hp : IsPage p) (bit : Nat) : Spares s₀ (s.evt p bit) := by
  have hpend := offReport_pendReg hp
  have hout : s.out ⊆ (s.evt p bit).out := by
    unfold State.evt
    refine List.Subset.trans ?_ ((Spares.refl _).signal _ p).out
    unfold State.showPend
    dsimp only
    split <;> exact fun _ ho => ho
  refine h.trans ⟨fun a ha h10 h18 => s.reg_evt p bit a ?_, fun q i hq h0 hl => ?_, hout⟩
  · have hal : p % 0x1000 = 0 := hp.1
    simp only [evtRegs, List.mem_cons, List.not_mem_nil, or_false, not_or]
    exact ⟨by omega, by omega, fun e => hpend (e ▸ ha)⟩
  · have hraw : (s.evt p bit).reg (q + 0x10) = if q = p then setBit (s.reg (q + 0x10)) bit true else s.reg (q + 0x10) := by
      have hq10 : q + 0x10 ≠ pendReg p := fun e => hpend (e ▸ by rw [onReportPage_iff] at hq ⊢; omega)
      have hal : p % 0x1000 = 0 := hp.1
      unfold State.evt
      rw [State.reg_signal, State.reg_showPend _ _ _ (by omega) hq10, State.reg_putBit]
      by_cases e : q = p
      · simp [e]
      · simp [e]
    unfold State.latched State.regBit at hl ⊢
    rw [hraw]
    split
    · by_cases hi : i = bit
      · subst hi
        by_cases h32 : i < 32
        · exact bitOf_setBit _ h32 _
        · exact absurd hl (by simp [bitOf, BitVec.getLsbD_of_ge _ _ (Nat.not_lt.mp h32)])
      · rwa [bitOf_setBit_ne _ hi]
    · exact hl

theorem Spares.evtIf (h : Spares s₀ s) (c : Bool) {p : Nat} (hp : IsPage p) (bit : Nat) : Spares s₀ (s.evtIf c p bit) := Spares.ite (h.evt hp bit) h

theorem Spares.setSt (h : Spares s₀ s) {p : Nat} (hp : IsPage p) (x : Nat)
    (hr : ¬ OnReportPage (p + 0xC)) : Spares s₀ (s.setSt p x) :=
  Spares.ite h ((h.putFld (p + 0xC) 0 3 x hr).evt hp _)

theorem Spares.halt (h : Spares s₀ s) {p : Nat} (hp : IsPage p)
    (hr : ¬ OnReportPage (p + 0xC)) : Spares s₀ (s.halt p) :=
  Spares.ite ((h.setSt hp 4 hr).of_same (fun _ => rfl) rfl) h

theorem Spares.unhalt (h : Spares s₀ s) {p : Nat} (hp : IsPage p)
    (hr : ¬ OnReportPage (p + 0xC)) : Spares s₀ (s.unhalt p) :=
  Spares.ite ((h.setSt hp _ hr).of_same (fun _ => rfl) rfl) h

end

end Sys2Proof.Machine

/-!
The operations that end a take spare the pages that report a fall.
-/
namespace Sys2Proof.Machine

theorem offReport_ringReg (site core r : Nat) : ¬ OnReportPage (ringReg site core r) := by
  rw [onReportPage_iff]; unfold ringReg mvPage pg; omega

theorem offReport_fltReg (t : Nat) {i off : Nat} (hi : i < 32) (ho : off < 16) : ¬ OnReportPage (fltReg t i + off) := by
  rw [onReportPage_iff]; unfold fltReg mmuPage pg; omega

section
variable {s₀ s : State}

theorem Spares.setCore (h : Spares s₀ s) (site c : Nat) (x : Core) : Spares s₀ (s.setCore site c x) := h.of_same (fun _ => rfl) rfl
theorem Spares.setDq (h : Spares s₀ s) (site c q : Nat) (x : DQ) : Spares s₀ (s.setDq site c q x) := h.of_same (fun _ => rfl) rfl
theorem Spares.setCmb (h : Spares s₀ s) (site b : Nat) (x : Cmb) : Spares s₀ (s.setCmb site b x) := h.of_same (fun _ => rfl) rfl
theorem Spares.setEng (h : Spares s₀ s) (site e : Nat) (x : Eng) : Spares s₀ (s.setEng site e x) := h.of_same (fun _ => rfl) rfl
theorem Spares.setMmu (h : Spares s₀ s) (t : Nat) (x : Mmu) : Spares s₀ (s.setMmu t x) := h.of_same (fun _ => rfl) rfl
theorem Spares.setSring (h : Spares s₀ s) (site core r : Nat) (x : SRing) : Spares s₀ (s.setSring site core r x) :=
  h.of_same (fun _ => rfl) rfl

theorem Spares.prof (h : Spares s₀ s) (site phys n : Nat) {i : Nat} (hi : i < 16) : Spares s₀ (s.prof site phys i n) := by
  unfold State.prof
  extract_lets p conf
  have ha : ¬ OnReportPage (p + 0x60 + 8 * i) := by rw [onReportPage_iff]; unfold p corePage pg; omega
  have hb : ¬ OnReportPage (p + 0x60 + 8 * i + 4) := by rw [onReportPage_iff]; unfold p corePage pg; omega
  exact Spares.ite (h.setWide ha hb _) h

theorem Spares.coreGo (h : Spares s₀ s) (site c : Nat) (again : Bool) : Spares s₀ (s.coreGo site c again) := by
  unfold State.coreGo
  dsimp only
  split
  · exact h
  · have h1 := fun x n => (h.setCore site c x).prof site c n (i := 0) (by decide)
    exact Spares.ite (h1 _ _) ((h1 _ _).prof site c _ (by decide))

theorem Spares.passVoids (h : Spares s₀ s) (site core r : Nat) : Spares s₀ (s.passVoids site core r) :=
  Spares.ite h ((h.setSring site core r _).putFld _ _ _ _ (offReport_ringReg _ _ _))

theorem Spares.release (h : Spares s₀ s) (site core r : Nat) : Spares s₀ (s.release site core r) :=
  have hr := offReport_ringReg site core r
  Spares.ite h ((((h.setSring site core r _).putFld _ _ _ _ hr).putFld _ _ _ _ hr).passVoids site core r)

theorem Spares.abandonEngs (h : Spares s₀ s) (site e : Nat) : Spares s₀ (s.abandonEngs site e) := by
  unfold State.abandonEngs
  refine Spares.foldl (fun t i ht => ?_) _ h
  dsimp only
  split
  · have h1 : ∀ x, Spares s₀ (t.setEng site i x) := fun x => ht.setEng site i x
    exact ((Spares.ite ((h1 _).release _ _ _) (h1 _)).putFld (engPage site i + 0x40) 5 3 0 (offReport_pg (by omega))).evt (isPage_pg _ _) 1
  · exact ht

theorem Spares.cancelOn (h : Spares s₀ s) (conf : Bool) (e : Nat) (dies : List Nat) : Spares s₀ (s.cancelOn conf e dies) := by
  unfold State.cancelOn
  refine Spares.foldl (fun t d ht => ?_) _ h
  dsimp only
  split
  · exact ht
  · have h1 : ∀ x, Spares s₀ { t with cancels := x } := fun x => ht.of_same (fun _ => rfl) rfl
    split
    · exact (h1 _).abandonEngs d e
    · exact (((h1 _).abandonEngs d e).addSat (movePage d + 0x4C) 1 (offReport_pg (by omega))).evt (isPage_pg _ _) 2

theorem Spares.landFlights (h : Spares s₀ s) (t : Nat) (fs : List Xfer) : Spares s₀ (s.landFlights t fs) :=
  h.of_kept (State.landFlights_kept (ws := [.ram, .hmem, .poison]) rfl t fs (Kept.refl _ s))

theorem Spares.showDq (h : Spares s₀ s) (site c : Nat) {q : Nat} (hq : q < 4) : Spares s₀ (s.showDq site c q) := by
  have ha : ¬ OnReportPage (mvPage site c + 0x40 + 4 * q) := by rw [onReportPage_iff]; unfold mvPage pg; omega
  unfold State.showDq
  dsimp only
  split
  · exact h.setNat _ _ ha
  · exact Spares.ite (h.setNat _ _ ha) (h.setNat _ _ ha)

theorem Spares.showCore (h : Spares s₀ s) (site c : Nat) : Spares s₀ (s.showCore site c) := by
  have h3 : ∀ a b d, Spares s₀ (((s.setNat (corePage site c + 0x40) a).setNat (corePage site c + 0x44) b).setNat (corePage site c + 0x48) d) :=
    fun a b d => ((h.setNat _ a (offReport_pg (by omega))).setNat _ b (offReport_pg (by omega))).setNat _ d (offReport_pg (by omega))
  unfold State.showCore
  dsimp only
  split
  · exact h3 _ _ _
  · exact Spares.ite (h3 _ _ _) (h3 _ _ _)

theorem Spares.showInflight (h : Spares s₀ s) (site : Nat) : Spares s₀ (s.showInflight site) :=
  have hm : ¬ OnReportPage (movePage site + 0x40) := offReport_pg (by omega)
  ((h.putFld _ 0 9 _ hm).putFld _ 16 9 _ hm).evtIf _ (isPage_pg _ _) 1

theorem Spares.freeCore (h : Spares s₀ s) (site c : Nat) : Spares s₀ (s.freeCore site c) := by
  unfold State.freeCore
  extract_lets x w s1 s2 last s3 s4
  have h1 : Spares s₀ s1 := by
    refine Spares.foldl_mem _ (fun t q hq ht => ?_) h
    have hq4 : q < 4 := by simp only [List.mem_cons, List.not_mem_nil, or_false] at hq; omega
    exact ((ht.landFlights _ _).setDq site c q {}).showDq site c hq4
  have h2 : Spares s₀ s2 := Spares.foldl (fun t r ht => (ht.setSring site c r {}).setNat _ 0 (offReport_ringReg site c r)) _ h1
  have h3 : Spares s₀ s3 := h2.setCore site c _
  have hp : ∀ {off}, off < 0x1000 → ¬ OnReportPage (corePage site c + off) := fun ho => offReport_pg (by omega)
  have h4 : Spares s₀ s4 := (Spares.ite h3 (h3.setSt (isPage_pg _ _) 0 (hp (by decide)))).putBit _ 0 false (hp (by decide))
  exact (h4.showCore site c).showInflight site

theorem Spares.showCmb (h : Spares s₀ s) (site b : Nat) : Spares s₀ (s.showCmb site b) := by
  unfold State.showCmb
  dsimp only
  split
  · exact h.setNat (cmbPage site b + 0x40) _ (offReport_pg (by omega))
  · exact h.setNat (cmbPage site b + 0x40) _ (offReport_pg (by omega))
  · exact h.setNat (cmbPage site b + 0x40) _ (offReport_pg (by omega))

theorem Spares.keepNodes (h : Spares s₀ s) (keep : Node → Bool) : Spares s₀ (s.keepNodes keep) := by
  unfold State.keepNodes
  refine Spares.foldl (fun t i ht => ?_) _ h
  dsimp only
  split
  · exact ht
  · have h1 : ∀ x, Spares s₀ (t.setCmb (i / 4) (i % 4) x) := fun x => ht.setCmb _ _ x
    exact (Spares.ite ((h1 _).setSt (isPage_pg _ _) 0 (offReport_pg (by omega))) (h1 _)).showCmb _ _

theorem Spares.dropNodes (h : Spares s₀ s) (w : Work) : Spares s₀ (s.dropNodes w) := h.keepNodes _

theorem Spares.showFlt (h : Spares s₀ s) (t : Nat) : Spares s₀ (s.showFlt t) := h.putFld (mmuPage t + 0x58) 8 6 _ (offReport_pg (by omega))

theorem Spares.freeFlt (h : Spares s₀ s) (t : Nat) {i : Nat} (hi : i < 32) : Spares s₀ (s.freeFlt t i) :=
  ((((h.setNat (fltReg t i) 0 (offReport_fltReg t hi (off := 0) (by decide))).setNat _ 0 (offReport_fltReg t hi (by decide))).setNat _ 0
    (offReport_fltReg t hi (by decide))).setNat _ 0 (offReport_fltReg t hi (by decide))).showFlt t

theorem Spares.mmuUnhalt (h : Spares s₀ s) (t : Nat) : Spares s₀ (s.mmuUnhalt t) := Spares.ite (h.unhalt (isPage_pg _ _) (offReport_pg (by omega))) h

theorem Spares.dropUnits (h : Spares s₀ s) (t : Nat) (gone : HUnit → Bool) : Spares s₀ (s.dropUnits t gone) := by
  refine Spares.mmuUnhalt (Spares.foldl_mem _ (fun u i hi hu => Spares.ite ?_ hu) (h.setMmu t _)) t
  have hi32 := List.mem_range.mp hi
  exact Spares.ite (hu.freeFlt t hi32) (hu.putFld _ 24 8 _ (offReport_fltReg t hi32 (by decide)))

theorem Spares.updEntry (h : Spares s₀ s) (t q n : Nat) (f : Entry → Entry) : Spares s₀ (s.updEntry t q n f) := h.of_same (fun _ => rfl) rfl
theorem Spares.fences (h : Spares s₀ s) (t q : Nat) : Spares s₀ (s.fences t q) := h.of_same (fun _ => rfl) rfl

theorem Spares.showHalt (h : Spares s₀ s) (t q : Nat) : Spares s₀ (s.showHalt t q) :=
  have hst : ¬ OnReportPage (tqPage t q + 0xC) := offReport_pg (by omega)
  have hbit : ¬ OnReportPage (tqPage t q + 0x68) := offReport_pg (by omega)
  Spares.ite ((h.halt (isPage_pg _ _) hst).putBit _ 1 true hbit) ((h.unhalt (isPage_pg _ _) hst).putBit _ 1 false hbit)

theorem Spares.showPass (h : Spares s₀ s) : Spares s₀ s.showPass := by
  have h60 : ¬ OnReportPage (pg 8 7 + 0x60) := offReport_pg (by omega)
  have h5C : ¬ OnReportPage (pg 8 7 + 0x5C) := offReport_pg (by omega)
  unfold State.showPass
  split
  · exact ((h.setNat _ 0 h60).putBit _ 2 false h5C).putFld _ 4 7 0 h5C
  · exact (((h.setNat _ _ h60).putFld _ 4 7 _ h5C).putBit _ 2 _ h5C).evtIf _ (isPage_pg 8 7) 6

theorem Spares.dropPass (h : Spares s₀ s) : Spares s₀ s.dropPass := by
  unfold State.dropPass
  split
  · exact h
  · exact Spares.ite h (Spares.showPass (h.of_same (fun _ => rfl) rfl))

theorem Spares.endTake (h : Spares s₀ s) (t q n status : Nat) (detail : Option Nat) : Spares s₀ (s.endTake t q n status detail) := by
  unfold State.endTake
  split
  · exact h
  · extract_lets w sc s1 s2 s3 late s4
    have hc : Spares s₀ sc := Spares.foldl (fun u c hu => hu.coreGo _ _ _) _ h
    have h1 : Spares s₀ s1 := Spares.ite hc (hc.cancelOn _ _ _)
    have h2 : Spares s₀ s2 := Spares.foldl (fun u c hu => hu.freeCore _ _) _ (h1.dropNodes w)
    have h4 : Spares s₀ s4 := (h2.dropUnits t _).updEntry t q n _
    exact ((h4.fences t q).showHalt t q).dropPass

theorem Spares.endTakesFor (h : Spares s₀ s) (hit : Entry → Bool) (status : Nat) (detail : Option Nat) :
    Spares s₀ (s.endTakesFor hit status detail) :=
  Spares.foldl (fun _ _ ht => Spares.foldl (fun _ _ hu => Spares.ite (hu.endTake _ _ _ status detail) hu) _ ht) _ h

end

end Sys2Proof.Machine

/-!
Splices, the loss of slots, slates and pass-through rings, and the reset of a die spare the pages that report a fall.
-/
namespace Sys2Proof.Machine

/-- No page of another site than X0 reports a fall. -/
theorem offReport_of_site {site off : Nat} (blk : Nat) (hs : site % 16 ≠ 8) (ho : off < 0x1000) : ¬ OnReportPage (pg site blk + off) := by
  rw [onReportPage_iff]; unfold pg; omega

theorem site_of_field {asm site : Nat} (h : dieAt asm site = .field) : site = 9 ∨ site = 11 := by
  unfold dieAt at h
  grind

theorem not_hasTxn_ite {c : Prop} [Decidable c] {x y : Nat} (hx : hasTxn x = false) (hy : hasTxn y = false) : hasTxn (if c then x else y) = false := by
  split
  · exact hx
  · exact hy

/-- Only a field die's pages join a transaction slot. -/
theorem field_of_hasTxn {asm site b : Nat} (h : hasTxn (pageType asm site b) = true) : dieAt asm site = .field := by
  by_contra hf
  have hno : hasTxn (pageType asm site b) = false := by
    unfold pageType
    cases hd : dieAt asm site
    case field => exact absurd hd hf
    all_goals
      dsimp only
      repeat' apply not_hasTxn_ite
      all_goals rfl
  rw [h] at hno
  cases hno

theorem offReport_of_txnBlock {asm site b off : Nat} (hb : b ∈ txnBlocks asm site) (ho : off < 0x1000) :
    ¬ OnReportPage (pg site b + off) := by
  have hf := field_of_hasTxn (List.mem_filter.mp hb).2
  have hs := site_of_field hf
  exact offReport_of_site b (by omega) ho

/-- Streams splice for a die or package that falls, and their groups stop. -/
def State.spliceStreams (s : State) (ss : List (Nat × Nat)) : State := ss.foldl (fun s x => s.hardSplice x.1 (x.2 / 2) [x.2] 5 true) s

theorem State.spliceStreams_kept (s : State) (ss : List (Nat × Nat)) : Kept [.regs, .bar2, .out, .rings, .strms, .axes, .grps] s (s.spliceStreams ss) :=
  Kept.foldl (fun _ _ hu => State.hardSplice_kept rfl _ _ _ _ _ hu) ss s (Kept.refl _ s)

section
variable {s₀ s : State}

theorem Spares.setStrm (h : Spares s₀ s) (site k : Nat) (x : Strm) : Spares s₀ (s.setStrm site k x) := h.of_same (fun _ => rfl) rfl
theorem Spares.setRing (h : Spares s₀ s) (d : Nat) (x : DRing) : Spares s₀ (s.setRing d x) := h.of_same (fun _ => rfl) rfl
theorem Spares.setGrp (h : Spares s₀ s) (site g : Nat) (x : Grp) : Spares s₀ (s.setGrp site g x) := h.of_same (fun _ => rfl) rfl
theorem Spares.setAxis (h : Spares s₀ s) (site a : Nat) (x : Axis) : Spares s₀ (s.setAxis site a x) := h.of_same (fun _ => rfl) rfl
theorem Spares.setSlot (h : Spares s₀ s) (site k : Nat) (x : Slot) : Spares s₀ (s.setSlot site k x) := h.of_same (fun _ => rfl) rfl
theorem Spares.setGroup (h : Spares s₀ s) (g : Nat) (x : Group) : Spares s₀ (s.setGroup g x) := h.of_same (fun _ => rfl) rfl
theorem Spares.setSlate (h : Spares s₀ s) (x : Slate) : Spares s₀ (s.setSlate x) := h.of_same (fun _ => rfl) rfl

/-! Splices. -/
theorem Spares.dropRows (h : Spares s₀ s) (site k line : Nat) : Spares s₀ (s.dropRows site k line) := h.setStrm _ _ _

theorem Spares.queueRec (h : Spares s₀ s) (d : Nat) (r : DRec) : Spares s₀ (s.queueRec d r) := h.setRing _ _

theorem offReport_strPage (site k : Nat) {off : Nat} (ho : off < 0x1000) : ¬ OnReportPage (strPage site k + off) :=
  offReport_pg (by omega)

theorem Spares.writeSplice (h : Spares s₀ s) (site k cause line : Nat) (vel : Int) : Spares s₀ (s.writeSplice site k cause line vel) := by
  unfold State.writeSplice
  extract_lets p st s1 w s2
  have hp : ∀ {off}, off < 0x1000 → ¬ OnReportPage (p + off) := fun ho => offReport_strPage site k ho
  have h1 : Spares s₀ s1 := by
    refine Spares.setNat (Spares.setNat (Spares.setNat h _ _ ?_) _ _ ?_) _ _ ?_
    all_goals exact hp (by decide)
  have hw : ∀ u off x, Spares s₀ u → off < 0xFF0 → Spares s₀ (w u (p + off) x) := fun u off x hu ho =>
    (hu.setReg (hp (by omega)) _).setNat (p + off + 4) _ (by rw [Nat.add_assoc]; exact hp (by omega))
  have h2 : Spares s₀ s2 := (hw s1 0x8C _ h1 (by decide)).setNat (p + 0x94) _ (hp (by decide))
  exact ((hw s2 0x98 _ h2 (by decide)).setReg (hp (off := 0xA0) (by decide)) _).setNat (p + 0xA4) _ (hp (by decide))

theorem Spares.spliceRest (h : Spares s₀ s) (site k : Nat) : Spares s₀ (s.spliceRest site k) :=
  Spares.ite ((h.putFld (strPage site k + 0x80) 0 2 2 (offReport_pg (by omega))).evt (isPage_pg _ _) 4) h

theorem Spares.spliceOne (h : Spares s₀ s) (site k cause line : Nat) (vel : Int) : Spares s₀ (s.spliceOne site k cause line vel) := by
  unfold State.spliceOne
  extract_lets p back s1 x s2 s3
  have h2 : Spares s₀ s2 := Spares.setStrm ((h.writeSplice site k cause line vel).dropRows site k line) _ _ _
  have h3 : Spares s₀ s3 := Spares.queueRec ((h2.setSt (isPage_pg _ _) 4 (offReport_pg (by omega))).evt (isPage_pg _ _) 3) _ _
  exact Spares.ite (Spares.ite (h3.spliceRest site k) h3) h

theorem Spares.dropRecs (h : Spares s₀ s) (site k line : Nat) : Spares s₀ (s.dropRecs site k line) := by
  unfold State.dropRecs
  extract_lets d above gone x y back s1
  have h1 : Spares s₀ s1 := (h.setRing _ _).setStrm _ _ _
  cases back with
  | nil => exact h1
  | cons f fs => exact h1.setNat (pipePage site k + 0x6C) _ (offReport_pg (by omega))

theorem Spares.hardSpliceOne (h : Spares s₀ s) (site k cause : Nat) (v : Int) : Spares s₀ (s.hardSpliceOne site k cause v) := by
  unfold State.hardSpliceOne
  extract_lets line st x d s1
  have h1 : Spares s₀ s1 :=
    have hsplice := (h.writeSplice site k cause line v).putFld (strPage site k + 0x80) 0 2 (s.splState site k) (offReport_pg (by omega))
    ((hsplice.setStrm site k _).dropRows site k line).dropRecs site k line
  exact Spares.ite ((h.spliceOne site k cause line v).dropRecs site k line) (Spares.ite (h1.setRing _ _) h)

theorem Spares.showRetake (h : Spares s₀ s) (site g : Nat) (on : Bool) (attempt : Nat) : Spares s₀ (s.showRetake site g on attempt) :=
  have hpace : ¬ OnReportPage (pacePage site g + 0x64) := offReport_pg (by omega)
  ((h.putBit _ 5 on hpace).putFld _ 6 2 attempt hpace).putFld (gatePage site g + 0xA4) 8 2 attempt (offReport_pg (by omega))

theorem Spares.putGrp (h : Spares s₀ s) (site g : Nat) (x : Grp) : Spares s₀ (s.putGrp site g x) :=
  Spares.ite ((h.setGrp site g x).setNat (grpPage site g + 0x54) _ (offReport_pg (by omega))) (h.setGrp site g x)

theorem Spares.abandon (h : Spares s₀ s) (site a : Nat) : Spares s₀ (s.abandon site a) :=
  (h.setNat (axPage site a + 0xA8) _ (offReport_pg (by omega))).setAxis _ _ _

theorem Spares.stopCore (h : Spares s₀ s) (site g cause : Nat) : Spares s₀ (s.stopCore site g cause) := by
  unfold State.stopCore
  extract_lets x s1 s2
  have h2 : Spares s₀ s2 := Spares.foldl (fun t a ht => ht.abandon site a) _ (h.putGrp _ _ _)
  exact Spares.ite (Spares.ite (h.evt (isPage_pg _ _) 3) h) (Spares.ite (h2.evt (isPage_pg _ _) 0) h2)

theorem Spares.hardSplice (h : Spares s₀ s) (site g : Nat) (ks : List Nat) (cause : Nat) (stop : Bool) : Spares s₀ (s.hardSplice site g ks cause stop) := by
  unfold State.hardSplice
  extract_lets v hit touched s1 low x s2
  have h1 : Spares s₀ s1 := Spares.foldl (fun t k ht => ht.hardSpliceOne site k cause v) _ h
  have h2 : Spares s₀ s2 := by
    unfold s2
    split
    · exact Spares.ite (Spares.showRetake (h1.setGrp _ _ _) _ _ _ _) h1
    · exact h1
  exact Spares.ite h (Spares.ite h2 (h2.stopCore site g 1))

/-! Streams that splice for a fall. -/
theorem Spares.spliceStreams (h : Spares s₀ s) (ss : List (Nat × Nat)) : Spares s₀ (s.spliceStreams ss) :=
  Spares.foldl (fun _ _ ht => ht.hardSplice _ _ _ _ _) ss h

/-! Slots. -/
theorem Spares.showTxn (h : Spares s₀ s) (site k : Nat) : Spares s₀ (s.showTxn site k) :=
  Spares.foldl_mem _ (fun _ _ hb ht => Spares.ite (ht.setNat _ _ (offReport_of_txnBlock hb (by decide))) ht) h

theorem Spares.abortSlot (h : Spares s₀ s) (site k reason : Nat) (late : Bool) : Spares s₀ (s.abortSlot site k reason late) :=
  Spares.showTxn (Spares.foldl (fun _ _ ht => (ht.evt (isPage_pg _ _) 29).evtIf late (isPage_pg _ _) 28) _ (h.setSlot _ _ _)) site k

theorem Spares.abortGroup (h : Spares s₀ s) (g reason : Nat) (late : Bool) : Spares s₀ (s.abortGroup g reason late) :=
  Spares.setGroup (Spares.foldl (fun _ _ ht => ht.abortSlot _ _ reason late) _ h) g {}

theorem Spares.siteSlotsLost (h : Spares s₀ s) (site : Nat) : Spares s₀ (s.siteSlotsLost site) :=
  Spares.foldl (fun _ k ht => ht.setSlot site k {}) _ (Spares.foldl (fun _ g ht => Spares.ite (ht.abortGroup g 8 false) ht) _ h)

/-! Slates. -/
theorem Spares.dropSlate (h : Spares s₀ s) (hd : Nat) : Spares s₀ (s.dropSlate hd) := by
  unfold State.dropSlate
  split
  · exact h
  · extract_lets w s0 s1 s2 s3
    have h0 : Spares s₀ s0 := Spares.ite ((h.dropNodes _).dropUnits _ _) h
    have h1 : Spares s₀ s1 := Spares.foldl (fun t c ht => ht.freeCore _ _) _ h0
    have h2 : Spares s₀ s2 := by
      refine Spares.foldl (fun t e ht => ?_) _ h1
      have hp : ∀ {off}, off < 0x1000 → ¬ OnReportPage (engPage e.1 e.2 + off) := fun ho => offReport_pg (by omega)
      have hy : ∀ y, Spares s₀ (t.setEng e.1 e.2 y) := fun y => ht.setEng _ _ y
      exact ((Spares.ite (hy _) ((hy _).setSt (isPage_pg _ _) 0 (hp (by decide)))).setNat _ 0 (hp (by decide))).setNat _ 0 (hp (by decide))
    have h3 : Spares s₀ s3 := by
      refine Spares.foldl (fun t g ht => ?_) _ h2
      exact ht.of_same (fun _ => rfl) rfl
    exact h3.of_same (fun _ => rfl) rfl

theorem Spares.showPower (h : Spares s₀ s) : Spares s₀ s.showPower :=
  have hp : ∀ {off}, off < 0x1000 → ¬ OnReportPage (pg 8 7 + off) := fun ho => offReport_pg (by omega)
  ((h.setNat _ _ (hp (by decide))).setNat _ _ (hp (by decide))).setNat _ _ (hp (by decide))

theorem Spares.putBytes : ∀ (l : List Byte) (a : Nat) {s : State},
    (∀ i, i < l.length → ¬ OnReportPage (a + i)) → Spares s₀ s → Spares s₀ (s.putBytes a l)
  | [], _, _, _, h => h
  | [_], _, _, ha, h => h.setNat _ _ (ha 0 (by simp))
  | [_, _], _, _, ha, h => h.setNat _ _ (ha 0 (by simp))
  | [_, _, _], _, _, ha, h => h.setNat _ _ (ha 0 (by simp))
  | _ :: _ :: _ :: _ :: bs, a, _, ha, h =>
    Spares.putBytes bs (a + 4) (fun i hi => by
      have hai := ha (4 + i) (by simp only [List.length_cons]; omega)
      rwa [← Nat.add_assoc] at hai) (h.setNat _ _ (ha 0 (by simp)))

theorem Spares.setLoads (h : Spares s₀ s) (l : List Nat) : Spares s₀ { s with loads := l } := h.of_same (fun _ => rfl) rfl

/-- A mailbox response without payload. -/
theorem Spares.mbReply_nil (h : Spares s₀ s) (t status : Nat) : Spares s₀ (s.mbReply t status []) := by
  unfold State.mbReply
  extract_lets p s1
  have hp : ∀ {off}, off < 0x1000 → ¬ OnReportPage (p + off) := fun ho => offReport_pg (by omega)
  have h1 : Spares s₀ s1 := by
    refine Spares.putBytes _ _ (fun i hi => ?_) h
    rw [Nat.add_assoc]
    exact hp (by simp only [leBytes, List.length_append, List.length_cons, List.length_nil] at hi; omega)
  have h2 : Spares s₀ (s1.setNat (p + 0x44) 2) := h1.setNat _ _ (hp (by decide))
  exact Spares.evt (h2.setLoads _) (isPage_pg _ _) 0

theorem Spares.losePipe (h : Spares s₀ s) (site k : Nat) : Spares s₀ (s.losePipe site k) :=
  Spares.ite ((h.setStrm _ _ _).putBit (strPage site k + 0x80) 9 true (offReport_pg (by omega))) (h.setStrm _ _ _)

theorem Spares.showPipe (h : Spares s₀ s) (site k : Nat) : Spares s₀ (s.showPipe site k) :=
  h.setNat (pipePage site k + 0x80) _ (offReport_pg (by omega))

theorem Spares.pipeLost (h : Spares s₀ s) (x : Slate) (hd : Nat) : Spares s₀ (State.pipeLost x hd s) := by
  unfold State.pipeLost
  extract_lets site k y
  split
  · exact Spares.ite (((h.losePipe site k).setNat (pipePage site k + 0x60) 0 (offReport_pg (by omega))).showPipe site k) h
  · exact h

theorem Spares.loseSlate (h : Spares s₀ s) (hd : Nat) : Spares s₀ (s.loseSlate hd) := by
  unfold State.loseSlate
  split
  · exact h
  · extract_lets w s0 s1 s2 s3 s4
    have h0 : Spares s₀ s0 := Spares.ite (h.cancelOn _ _ _) h
    have h1 : Spares s₀ s1 := Spares.ite ((h0.dropNodes _).dropUnits _ _) h0
    have h2 : Spares s₀ s2 := Spares.foldl (fun t c ht => ht.freeCore _ _) _ h1
    have h3 : Spares s₀ s3 := Spares.foldl (fun t e ht => (ht.setEng _ _ _).setSt (isPage_pg _ _) 0 (offReport_pg (by omega))) _ h2
    split
    · split
      · exact ((h3.dropSlate hd).showPower).mbReply_nil _ 0
      · exact (h3.dropSlate hd).showPower
    · exact (h3.setSlate _).pipeLost _ _

theorem Spares.loseSlates (h : Spares s₀ s) (hit : Slate → Bool) : Spares s₀ (s.loseSlates hit) :=
  Spares.showPower (Spares.foldl (fun _ _ ht => Spares.ite (ht.loseSlate _) ht) _ h)

/-! Pass-through rings. -/
theorem Spares.showStream (h : Spares s₀ s) (site k : Nat) : Spares s₀ (s.showStream site k) :=
  (h.setNat (strPage site k + 0x54) _ (offReport_pg (by omega))).setNat (pipePage site k + 0x60) _ (offReport_pg (by omega))

theorem Spares.showAdmit (h : Spares s₀ s) : Spares s₀ s.showAdmit :=
  Spares.foldl (fun _ d ht => Spares.ite (ht.setNat (pg d 9 + 0x44) _ (offReport_pg (by omega))) ht) _ h

theorem Spares.attach (h : Spares s₀ s) (site k die core ring rows slots : Nat) : Spares s₀ (s.attach site k die core ring rows slots) :=
  have hp : ∀ {off}, off < 0x1000 → ¬ OnReportPage (strPage site k + off) := offReport_strPage site k
  ((((h.setNat _ _ (hp (by decide))).setNat _ _ (hp (by decide))).evt (isPage_pg _ _) 0).showStream site k).showAdmit

theorem Spares.detach (h : Spares s₀ s) (site k : Nat) : Spares s₀ (s.detach site k) :=
  have h1 := (h.setNat (strPage site k + 0x4C) 0 (offReport_pg (by omega))).setNat (strPage site k + 0x50) 0 (offReport_pg (by omega))
  ((Spares.ite (h1.evt (isPage_pg _ _) 1) h1).showStream site k).showAdmit

theorem Spares.attachPass (h : Spares s₀ s) (site k : Nat) : Spares s₀ (s.attachPass site k) := by
  unfold State.attachPass
  split
  · exact h
  · split
    · exact h.attach _ _ _ _ _ _ _
    · exact h

theorem Spares.losePass (h : Spares s₀ s) (site k : Nat) : Spares s₀ (s.losePass site k) := Spares.ite (h.detach site k) h

theorem Spares.passRings (h : Spares s₀ s) : Spares s₀ s.passRings :=
  Spares.foldl (fun _ x ht => Spares.ite (ht.losePass x.1 x.2) ((ht.losePass x.1 x.2).attachPass x.1 x.2)) _ h

end

end Sys2Proof.Machine

/-!
The entries of take queues while takes end: none is forgotten, and one that has ended stays so.
-/
namespace Sys2Proof.Machine

/-- Every entry of the first list stands in the second, ended where it had ended. -/
def EntriesKept (l l' : List Entry) : Prop := ∀ e ∈ l, ∃ z ∈ l', z.n = e.n ∧ (e.st = 3 → z.st = 3)

/-- Every entry of every take queue is kept. -/
def Settles (s t : State) : Prop := ∀ u, EntriesKept (tabGet {} s.tqs u).entries (tabGet {} t.tqs u).entries

/-- An entry of a queue stands there ended. -/
def TakeEnded (s : State) (t q n : Nat) : Prop := ∃ z ∈ (s.tq t q).entries, z.n = n ∧ z.st = 3

theorem EntriesKept.refl (l : List Entry) : EntriesKept l l := fun e he => ⟨e, he, rfl, id⟩

theorem EntriesKept.map {l : List Entry} {f : Entry → Entry} (hf : ∀ e, (f e).n = e.n ∧ (e.st = 3 → (f e).st = 3)) :
    EntriesKept l (l.map f) :=
  fun e he => ⟨f e, List.mem_map_of_mem he, hf e⟩

/-- Completing fences forgets no entry. -/
theorem entriesKept_fenceFrom (l : List Entry) : ∀ ok, EntriesKept l (fenceFrom ok l) := by
  induction l with
  | nil => exact fun _ => EntriesKept.refl _
  | cons x xs ih =>
    intro ok e he
    unfold fenceFrom
    extract_lets x2
    rcases List.mem_cons.mp he with rfl | he
    · refine ⟨x2, List.mem_cons_self, ?_⟩
      unfold x2
      split
      · exact ⟨rfl, fun _ => rfl⟩
      · exact ⟨rfl, id⟩
    · obtain ⟨z, hz, hzn⟩ := ih _ e he
      exact ⟨z, List.mem_cons_of_mem _ hz, hzn⟩

theorem Settles.refl (s : State) : Settles s s := fun _ => EntriesKept.refl _

section
variable {s₀ s t : State}

theorem Settles.trans (h1 : Settles s₀ s) (h2 : Settles s t) : Settles s₀ t := by
  intro u e he
  obtain ⟨y, hy, hyn, hy3⟩ := h1 u e he
  obtain ⟨z, hz, hzn, hz3⟩ := h2 u y hy
  exact ⟨z, hz, hzn.trans hyn, fun h => hz3 (hy3 h)⟩

/-- An operation that by its frame leaves the take queues. -/
theorem Settles.of_kept {w : List Field} (hk : Kept w s t) (hw : Field.tqs ∉ w := by decide) : Settles s t := by
  have htqs : t.tqs = s.tqs := hk.same .tqs hw
  intro u
  rw [htqs]
  exact EntriesKept.refl _

theorem Settles.foldl {α : Type} {f : State → α → State} (hf : ∀ t x, Settles t (f t x)) :
    ∀ (l : List α) (s : State), Settles s (l.foldl f s)
  | [], s => Settles.refl s
  | x :: l, s => (hf s x).trans (Settles.foldl hf l (f s x))

theorem Settles.setTq (s : State) (t q : Nat) {x : TQ} (hx : EntriesKept (s.tq t q).entries x.entries) : Settles s (s.setTq t q x) := by
  intro u
  change EntriesKept _ (tabGet {} (tabPut {} s.tqs (t * 8 + q) x) u).entries
  by_cases hu : u = t * 8 + q
  · subst hu
    rwa [tabGet_tabPut_same]
  · rw [tabGet_tabPut_ne _ _ _ _ hu]
    exact EntriesKept.refl _

theorem Settles.updEntry (s : State) (t q n : Nat) {f : Entry → Entry} (hf : ∀ e, (f e).n = e.n ∧ (e.st = 3 → (f e).st = 3)) :
    Settles s (s.updEntry t q n f) := by
  refine Settles.setTq s t q (EntriesKept.map fun e => ?_)
  split
  · exact hf e
  · exact ⟨rfl, id⟩

theorem Settles.fences (s : State) (t q : Nat) : Settles s (s.fences t q) := Settles.setTq s t q (entriesKept_fenceFrom _ _)

theorem TakeEnded.settles {t' q n : Nat} (h : TakeEnded s t' q n) (hst : Settles s t) : TakeEnded t t' q n := by
  obtain ⟨y, hy, hyn, hy3⟩ := h
  obtain ⟨z, hz, hzn, hz3⟩ := hst _ y hy
  exact ⟨z, hz, hzn.trans hyn, hz3 hy3⟩

end

/-- What an entry is once its take has ended. -/
def endedEntry (status : Nat) (detail : Option Nat) (late : Bool) (s : State) (e : Entry) : Entry :=
  { e with st := 3, status := status, detail := detail, cores := [], late := late && status == 0, cycles := s.entryCycles e }

/-- The state in which a take that ends has given up its cores, nodes and units. -/
theorem State.endTake_eq {s : State} {t q n : Nat} {e : Entry} (he : s.findEntry t q n = some e) (status : Nat) (detail : Option Nat) :
    ∃ u : State, ∃ f : Entry → Entry, Settles s u ∧ (∀ e, (f e).n = e.n ∧ (f e).st = 3) ∧
      Settles (u.updEntry t q n f) (s.endTake t q n status detail) := by
  generalize hr : s.endTake t q n status detail = r
  unfold State.endTake at hr
  rw [he] at hr
  dsimp -zeta only at hr
  extract_lets w sc s1 s2 s3 late s4 at hr
  have hc : Kept [.regs, .cores] s sc := Kept.foldl (fun _ _ hu => State.coreGo_kept rfl _ _ _ hu) _ _ (Kept.refl _ s)
  have h1 : Kept [.regs, .bar2, .out, .slotRings, .cancels, .engs] sc s1 := Kept.ite (Kept.refl _ _) (State.cancelOn_kept rfl _ _ _ (Kept.refl _ _))
  have h2 : Kept [.regs, .bar2, .out, .ram, .hmem, .slotRings, .dqs, .cores, .cmbs, .poison] s1 s2 :=
    Kept.foldl (fun _ _ hu => State.freeCore_kept rfl _ _ hu) _ _ (State.dropNodes_kept rfl w (Kept.refl _ _))
  have h3 : Kept [.regs, .back, .bar2, .out, .mmus] s2 s3 := State.dropUnits_kept rfl _ _ (Kept.refl _ _)
  refine ⟨s3, endedEntry status detail late sc, ?_, fun _ => ⟨rfl, rfl⟩, ?_⟩
  · exact (Settles.of_kept hc).trans ((Settles.of_kept h1).trans ((Settles.of_kept h2).trans (Settles.of_kept h3)))
  · rw [← hr]
    exact (Settles.fences s4 t q).trans ((Settles.of_kept (State.showHalt_kept (ws := [.regs, .back, .bar2, .out]) rfl t q (Kept.refl _ _))).trans
      (Settles.of_kept (State.dropPass_kept (ws := [.regs, .bar2, .out, .sched]) rfl (Kept.refl _ _))))

theorem Settles.endTake (s : State) (t q n status : Nat) (detail : Option Nat) : Settles s (s.endTake t q n status detail) := by
  cases he : s.findEntry t q n with
  | none =>
    unfold State.endTake
    rw [he]
    exact Settles.refl s
  | some _ =>
    obtain ⟨u, f, hu, hf, ht⟩ := State.endTake_eq he status detail
    exact hu.trans ((Settles.updEntry u t q n fun e => ⟨(hf e).1, fun _ => (hf e).2⟩).trans ht)

/-- A take that stands in its queue ends. -/
theorem State.takeEnded_endTake {s : State} {t q : Nat} {e : Entry} (he : e ∈ (s.tq t q).entries) (status : Nat) (detail : Option Nat) :
    TakeEnded (s.endTake t q e.n status detail) t q e.n := by
  cases hx : s.findEntry t q e.n with
  | none =>
    have hno := List.find?_eq_none.mp hx e he
    exact absurd (beq_self_eq_true e.n) hno
  | some x =>
    obtain ⟨u, f, hu, hf, ht⟩ := State.endTake_eq hx status detail
    obtain ⟨y, hy, hyn, -⟩ := hu _ e he
    have hup : TakeEnded (u.updEntry t q e.n f) t q e.n := by
      refine ⟨f y, ?_, (hf y).1.trans hyn, (hf y).2⟩
      unfold State.updEntry
      rw [State.tq_setTq_same]
      exact List.mem_map.mpr ⟨y, hy, by simp [hyn]⟩
    exact hup.settles ht

/-- What one pass of a fold establishes at an item of its list holds at the end, where no later pass undoes it. -/
theorem foldl_establishes {α : Type} {f : State → α → State} {P Q : State → Prop} {x : α} (hx : ∀ t, P t → Q (f t x))
    (hP : ∀ t y, P t → P (f t y)) (hQ : ∀ t y, Q t → Q (f t y)) : ∀ (l : List α) (s : State), x ∈ l → P s → Q (l.foldl f s) := by
  intro l
  have keep : ∀ (l : List α) (s : State), Q s → Q (l.foldl f s) := by
    intro l
    induction l with
    | nil => exact fun _ h => h
    | cons y l ih => exact fun s h => ih _ (hQ s y h)
  induction l with
  | nil => exact fun _ h => absurd h List.not_mem_nil
  | cons y l ih =>
    intro s hm hp
    rcases List.mem_cons.mp hm with rfl | hm
    · exact keep l _ (hx s hp)
    · exact ih _ hm (hP s y hp)

/-- The passes over one queue's entries in the ending of takes. -/
def endEntries (hit : Entry → Bool) (status : Nat) (detail : Option Nat) (s : State) (x : Nat × TQ) : State :=
  x.2.entries.foldl (fun s e => if e.st ≤ 2 ∧ e.op = 1 ∧ hit e = true then s.endTake (x.1 / 8) (x.1 % 8) e.n status detail else s) s

theorem State.endTakesFor_eq (s : State) (hit : Entry → Bool) (status : Nat) (detail : Option Nat) :
    s.endTakesFor hit status detail = s.tqs.foldl (endEntries hit status detail) s := rfl

theorem Settles.endEntry (s : State) (c : Prop) [Decidable c] (t q n status : Nat) (detail : Option Nat) :
    Settles s (if c then s.endTake t q n status detail else s) := by
  split
  · exact Settles.endTake s t q n status detail
  · exact Settles.refl s

theorem Settles.endEntries (hit : Entry → Bool) (status : Nat) (detail : Option Nat) (s : State) (x : Nat × TQ) :
    Settles s (endEntries hit status detail s x) :=
  Settles.foldl (fun t _ => Settles.endEntry t _ _ _ _ _ _) x.2.entries s

theorem Settles.endTakesFor (s : State) (hit : Entry → Bool) (status : Nat) (detail : Option Nat) : Settles s (s.endTakesFor hit status detail) :=
  Settles.foldl (fun t x => Settles.endEntries hit status detail t x) s.tqs s

theorem mem_of_tabGet_ne {α : Type} {d : α} (t : List (Nat × α)) (k : Nat) (h : tabGet d t k ≠ d) : (k, tabGet d t k) ∈ t := by
  induction t with
  | nil => exact absurd rfl h
  | cons p t ih =>
    unfold tabGet at h ⊢
    split at h
    next hk => rw [if_pos hk, ← hk]; exact List.mem_cons_self
    next hk => rw [if_neg hk]; exact List.mem_cons_of_mem _ (ih h)

/-- Every take that runs or waits, and for which `hit` holds, ends. -/
theorem State.takeEnded_endTakesFor {s : State} {hit : Entry → Bool} {t q : Nat} {e : Entry} (hq : q < 8) (he : e ∈ (s.tq t q).entries)
    (hst : e.st ≤ 2) (hop : e.op = 1) (hhit : hit e = true) (status : Nat) (detail : Option Nat) :
    TakeEnded (s.endTakesFor hit status detail) t q e.n := by
  have hmem : (t * 8 + q, s.tq t q) ∈ s.tqs := by
    refine mem_of_tabGet_ne s.tqs (t * 8 + q) (fun h0 => ?_)
    unfold State.tq at he
    rw [h0] at he
    exact absurd he List.not_mem_nil
  have ht : (t * 8 + q) / 8 = t := by omega
  have hq' : (t * 8 + q) % 8 = q := by omega
  rw [State.endTakesFor_eq]
  refine foldl_establishes (P := Settles s) (Q := fun u => TakeEnded u t q e.n) (fun u hu => ?_)
    (fun u x hu => hu.trans (Settles.endEntries hit status detail u x)) (fun u x hu => hu.settles (Settles.endEntries hit status detail u x))
    s.tqs s hmem (Settles.refl s)
  refine foldl_establishes (P := Settles s) (Q := fun u => TakeEnded u t q e.n) (fun u hu => ?_)
    (fun u x hu => hu.trans (Settles.endEntry u _ _ _ _ _ _)) (fun u x hu => hu.settles (Settles.endEntry u _ _ _ _ _ _)) _ u he hu
  obtain ⟨y, hy, hyn, -⟩ := hu _ e he
  rw [if_pos ⟨hst, hop, hhit⟩, ht, hq', ← hyn]
  exact State.takeEnded_endTake hy status detail

end Sys2Proof.Machine

/-!
A die that goes down: what its page and the boot page show, what its reset clears, and the takes that end.
-/
namespace Sys2Proof.Machine

theorem tabGet_filter_of_keep {β : Type} (d : β) {f : Nat × β → Bool} {k : Nat} (hf : ∀ v, f (k, v) = true) (t : List (Nat × β)) :
    tabGet d (t.filter f) k = tabGet d t k := by
  induction t with
  | nil => rfl
  | cons p t ih =>
    obtain ⟨a, b⟩ := p
    by_cases ha : a = k
    · subst ha
      simp [hf, tabGet]
    · by_cases hp : f (a, b) = true <;> simp [hp, tabGet, ha, ih]

theorem tabGet_filter_of_drop {β : Type} (d : β) {f : Nat × β → Bool} {k : Nat} (hf : ∀ v, f (k, v) = false) (t : List (Nat × β)) :
    tabGet d (t.filter f) k = d := by
  induction t with
  | nil => rfl
  | cons p t ih =>
    obtain ⟨a, b⟩ := p
    by_cases ha : a = k
    · subst ha
      simp [hf, ih]
    · by_cases hp : f (a, b) = true <;> simp [hp, tabGet, ha, ih]

section
variable {s t : State}

/-- A register of a reporting page that is neither EVT_RAW nor EVT_PEND reads as before. -/
theorem Spares.reg_pg (h : Spares s t) {blk off : Nat} (hb : blk = 0 ∨ blk = 3 ∨ blk = 5 ∨ blk = 12) (ho : off < 0x1000) (h10 : off ≠ 0x10)
    (h18 : off ≠ 0x18) : t.reg (pg 8 blk + off) = s.reg (pg 8 blk + off) := by
  refine h.reg _ ?_ ?_ ?_
  · rw [onReportPage_iff]; unfold pg; omega
  · unfold pg; omega
  · unfold pg; omega

theorem Spares.latched_pg (h : Spares s t) {blk bit : Nat} (hb : blk = 0 ∨ blk = 3 ∨ blk = 5 ∨ blk = 12) (hl : s.latched (pg 8 blk) bit = true) :
    t.latched (pg 8 blk) bit = true := by
  refine h.latched _ _ ?_ ?_ hl
  · rw [onReportPage_iff]; unfold pg; omega
  · unfold pg; omega

end

/-- CORE_UP's bits of a die's control cores (05). -/
def coreBits (site : Nat) : List Nat := if site < 4 then [2 * site, 2 * site + 1] else [site % 8 + 8]

theorem coreBits_of_compute {site : Nat} (h : site < 4) : coreBits site = [2 * site, 2 * site + 1] := if_pos h

theorem coreBits_of_link {site : Nat} (h : ¬ site < 4) : coreBits site = [site % 8 + 8] := if_neg h

/-- SITE_UP and CORE_UP show a die as up or down. -/
structure ShowsSite (s : State) (site : Nat) (on : Bool) : Prop where
  siteUp : s.siteUp site = on
  cores : ∀ b ∈ coreBits site, s.regBit (bootPage + 0x54) b = on

theorem ShowsSite.spares {s t : State} {site : Nat} {on : Bool} (h : ShowsSite s site on) (hst : Spares s t) : ShowsSite t site on := by
  refine ⟨?_, fun b hb => ?_⟩
  · have hreg := hst.reg_pg (blk := 0) (off := 0x4C) (by decide) (by decide) (by decide) (by decide)
    have := h.siteUp
    unfold State.siteUp State.regBit at this ⊢
    rwa [hreg]
  · have hreg := hst.reg_pg (blk := 3) (off := 0x54) (by decide) (by decide) (by decide) (by decide)
    have := h.cores b hb
    unfold State.regBit at this ⊢
    unfold bootPage at this ⊢
    rwa [hreg]

/-- A die's bits fall or rise, with the event that tells it. -/
def State.markSite (s : State) (site : Nat) (on : Bool) (bit : Nat) : State :=
  ((s.coresUp site on).putBit (pg 8 0 + 0x4C) (siteBit site) on).evt (pg 8 0) bit

theorem State.markSite_eq (s : State) (site : Nat) (on : Bool) (bit : Nat) :
    s.markSite site on bit = ((s.coresUp site on).putBit (pg 8 0 + 0x4C) (siteBit site) on).evt (pg 8 0) bit := rfl

theorem State.siteDown_of_up {s : State} {site : Nat} (h : s.siteUp site = true) : s.siteDown site = s.markSite site false 1 := if_pos h

theorem State.siteBack_of_down {s : State} {site : Nat} (h : s.siteUp site = false) : s.siteBack site = s.markSite site true 2 :=
  if_neg (by rw [h]; decide)

theorem State.regBit_coresUp (s : State) {site b : Nat} (hs : site < 16) (hb : b ∈ coreBits site) (on : Bool) :
    (s.coresUp site on).regBit (bootPage + 0x54) b = on := by
  unfold State.coresUp State.regBit bootPage
  by_cases h4 : site < 4
  · rw [coreBits_of_compute h4] at hb
    rw [if_pos h4, State.reg_putBit, if_pos rfl]
    simp only [List.mem_cons, List.not_mem_nil, or_false] at hb
    rcases hb with rfl | rfl
    · rw [bitOf_setBit_ne _ (by omega), State.reg_putBit, if_pos rfl, bitOf_setBit _ (by omega)]
    · exact bitOf_setBit _ (by omega) _
  · rw [coreBits_of_link h4] at hb
    rw [if_neg h4, State.reg_putBit, if_pos rfl, List.mem_singleton.mp hb]
    exact bitOf_setBit _ (by omega) _

theorem State.showsSite_markSite (s : State) {site : Nat} (hs : site < 16) (on : Bool) (bit : Nat) : ShowsSite (s.markSite site on bit) site on := by
  have ev : ∀ (u : State) {blk off : Nat}, blk = 0 ∨ blk = 3 → off = 0x4C ∨ off = 0x54 →
      (u.evt (pg 8 0) bit).reg (pg 8 blk + off) = u.reg (pg 8 blk + off) := by
    intro u blk off hb ho
    refine State.reg_evt u _ _ _ ?_
    simp only [evtRegs, List.mem_cons, List.not_mem_nil, or_false, not_or, pendReg, siteOf, blkOf, pg]
    omega
  refine ⟨?_, fun b hb => ?_⟩
  · have h32 : siteBit site < 32 := by unfold siteBit; split <;> omega
    rw [State.markSite_eq]
    unfold State.siteUp State.regBit
    rw [ev _ (Or.inl rfl) (Or.inl rfl), State.reg_putBit, if_pos rfl]
    exact bitOf_setBit _ h32 _
  · have hne : bootPage + 0x54 ≠ pg 8 0 + 0x4C := by decide
    have hc := s.regBit_coresUp hs hb on
    rw [State.markSite_eq]
    unfold State.regBit
    unfold State.regBit at hc
    unfold bootPage at hne hc ⊢
    rwa [ev _ (Or.inr rfl) (Or.inr rfl), State.reg_putBit, if_neg hne]

theorem State.latched_markSite (s : State) (site : Nat) (on : Bool) {bit : Nat} (hb : bit < 32) : (s.markSite site on bit).latched (pg 8 0) bit = true :=
  State.regBit_evt _ (by decide) hb

theorem State.markSite_kept (s : State) (site : Nat) (on : Bool) (bit : Nat) : Kept [.regs, .bar2, .out] s (s.markSite site on bit) :=
  State.evt_kept rfl _ _ (State.putBit_kept rfl _ _ _ (State.coresUp_kept rfl site on (Kept.refl _ s)))

theorem site_of_mainDie {s : State} {site : Nat} (h : s.mainDie site = true) : site < 12 ∧ site ≠ 8 := by
  unfold State.mainDie dieAt at h
  grind

theorem Spares.showPend {s₀ s : State} (h : Spares s₀ s) {p : Nat} (hp : IsPage p) (hr : ¬ OnReportPage (p + 0x18)) : Spares s₀ (s.showPend p) :=
  Spares.ite ((h.setReg hr _).putBit (pendReg p) _ _ (offReport_pendReg hp)) (h.setReg hr _)

/-- Resetting the registers of one die's pages, but for those of its memory controllers, spares another site's. -/
theorem State.reg_of_regs_filter {s t : State} {f : Nat × Word → Bool} (ht : t.regs = s.regs.filter f) (hasm : t.asm = s.asm) {a : Nat}
    (ha : ∀ v, f (a, v) = true) : t.reg a = s.reg a := by
  unfold State.reg
  rw [ht, hasm]
  exact tabGet_filter_of_keep _ ha _

/-- The reset of a die other than X0 spares the pages that report its fall. -/
theorem Spares.wipeDie {s₀ s : State} (h : Spares s₀ s) {site : Nat} (hs : site < 16) (h8 : site ≠ 8) : Spares s₀ (s.wipeDie site) := by
  unfold State.wipeDie
  extract_lets mine pendMap s1
  have hkeep : ∀ a, OnReportPage a → s1.reg a = s.reg a := by
    intro a ha
    refine State.reg_of_regs_filter (s := s) (t := s1)
      (f := fun r => !((siteOf r.1 == site && !(blkOf r.1 == 12 || blkOf r.1 == 13)) || pendMap r.1))
      rfl rfl (fun v => ?_)
    have hsite : siteOf a ≠ site := by rw [onReportPage_iff] at ha; unfold siteOf; omega
    have hmap : pendMap a = false := by
      rw [onReportPage_iff] at ha
      change (decide (pg 8 6 + 0x100 + 0x80 * site ≤ a) && decide (a < pg 8 6 + 0x180 + 0x80 * site)) = false
      rw [Bool.and_eq_false_iff, decide_eq_false_iff_not, decide_eq_false_iff_not]
      unfold pg
      omega
    simp [hsite, hmap]
  have h1 : Spares s₀ s1 := by
    refine h.trans ⟨fun a ha _ _ => hkeep a ha, fun p i hp h0 hl => ?_, fun _ ho => ho⟩
    have hp10 : OnReportPage (p + 0x10) := by rw [onReportPage_iff] at hp ⊢; omega
    unfold State.latched State.regBit at hl ⊢
    rwa [hkeep _ hp10]
  have hr : ∀ blk, ¬ OnReportPage (pg site blk + 0x18) := fun blk => offReport_of_site blk (by omega) (by decide)
  exact (h1.showPend (isPage_pg _ _) (hr _)).showPend (isPage_pg _ _) (hr _)

/-- The reset of a die clears its memories. -/
theorem State.ram_wipeDie (s : State) {site k : Nat} (h1 : ramKey (site * 256) 0 ≤ k) (h2 : k < ramKey (site * 256) 0 + 2 ^ 56) :
    tabGet 0#8 (s.wipeDie site).ram k = 0#8 := by
  unfold State.wipeDie
  extract_lets mine pendMap s1
  have hram : ((s1.showPend (pg site 12)).showPend (pg site 13)).ram = tabDropRange (ramKey (site * 256) 0) (2 ^ 56) s.ram :=
    (State.showPend_kept (ws := [.regs]) rfl _ (State.showPend_kept rfl _ (Kept.refl _ s1))).same .ram (by decide)
  rw [hram, tabDropRange_eq_filter]
  exact tabGet_filter_of_drop _ (fun v => by rw [decide_eq_true h1, decide_eq_true h2]; rfl) _

/-- The reset of a die clears its DMA queues. -/
theorem State.dqs_wipeDie (s : State) {site u : Nat} (h : u / 1024 = site) : tabGet {} (s.wipeDie site).dqs u = {} := by
  unfold State.wipeDie
  extract_lets mine pendMap s1
  have hdqs : ((s1.showPend (pg site 12)).showPend (pg site 13)).dqs = s.dqs.filter (fun c => !mine 1024 c.1) :=
    (State.showPend_kept (ws := [.regs]) rfl _ (State.showPend_kept rfl _ (Kept.refl _ s1))).same .dqs (by decide)
  rw [hdqs]
  exact tabGet_filter_of_drop _ (fun v => by simp [mine, h]) _

/-- Whether a take's slate has groups on a site. -/
def State.entryOn (s : State) (site : Nat) (e : Entry) : Bool :=
  match s.slate e.slate with | some x => x.groups.any (fun g => g.site == site) | none => false

theorem State.entryOn_eq_any (s : State) (site : Nat) (e : Entry) :
    s.entryOn site e = (s.slate e.slate).any (fun x => x.groups.any (fun g => g.site == site)) := by
  change (match s.slate e.slate with | some x => x.groups.any (fun g => g.site == site) | none => false) = _
  cases s.slate e.slate with
  | none => rfl
  | some _ => rfl

/-- The takes of a slate on a die end once its bits have fallen. -/
def State.takesFall (s : State) (site : Nat) : State := ((s.loseFlights site).siteDown site).endTakesFor (s.entryOn site) 0x0302 none

/-- A die-fatal error, up to the reset of the die: its streams splice, its slots and slates are lost. -/
def State.dieFalls (s : State) (site : Nat) : State :=
  (((s.takesFall site).spliceStreams (s.allStreams.filter (fun x => s.streamOn site x))).siteSlotsLost site).loseSlates
    (fun y => y.groups.any (fun g => g.site == site))

theorem State.dieFatal_eq {s : State} {site : Nat} (hd : s.mainDie site = true) (hu : s.siteUp site = true) (hm : s.mainOk = true) :
    s.dieFatal site = ((s.dieFalls site).wipeDie site).passRings :=
  if_neg (by simp [hd, hu, hm])

theorem Spares.dieFalls (s : State) (site : Nat) : Spares ((s.loseFlights site).siteDown site) (s.dieFalls site) :=
  have htakes : Spares ((s.loseFlights site).siteDown site) (s.takesFall site) := (Spares.refl _).endTakesFor _ _ _
  ((htakes.spliceStreams _).siteSlotsLost site).loseSlates _

theorem Settles.spliceStreams (s : State) (ss : List (Nat × Nat)) : Settles s (s.spliceStreams ss) := Settles.of_kept (s.spliceStreams_kept ss)

theorem Settles.siteSlotsLost (s : State) (site : Nat) : Settles s (s.siteSlotsLost site) :=
  Settles.of_kept (State.siteSlotsLost_kept (ws := [.regs, .bar2, .out, .slots, .groups]) rfl site (Kept.refl _ _))

theorem Settles.loseSlates (s : State) (hit : Slate → Bool) : Settles s (s.loseSlates hit) :=
  Settles.of_kept (State.loseSlates_kept (ws := [.regs, .back, .bar2, .out, .ram, .hmem, .loads, .strms, .slotRings, .cueQs, .binFlags, .slates,
    .cancels, .dqs, .cores, .cmbs, .engs, .mmus, .poison, .bndTaken]) rfl hit (Kept.refl _ _))

theorem Settles.dieFalls (s : State) (site : Nat) : Settles (s.takesFall site) (s.dieFalls site) :=
  ((Settles.spliceStreams _ _).trans (Settles.siteSlotsLost _ site)).trans (Settles.loseSlates _ _)

/-- After a die-fatal error on a die that was up, SITE_UP and CORE_UP show it down, with SITE_DOWN latched. -/
theorem State.shows_dieFatal {s : State} {site : Nat} (hd : s.mainDie site = true) (hu : s.siteUp site = true) (hm : s.mainOk = true) :
    ShowsSite (s.dieFatal site) site false ∧ (s.dieFatal site).latched (pg 8 0) 1 = true := by
  obtain ⟨h12, h8⟩ := site_of_mainDie hd
  have hdown : (s.loseFlights site).siteDown site = (s.loseFlights site).markSite site false 1 := State.siteDown_of_up hu
  have hsp : Spares ((s.loseFlights site).markSite site false 1) (s.dieFatal site) := by
    rw [State.dieFatal_eq hd hu hm, ← hdown]
    exact ((Spares.dieFalls s site).wipeDie (by omega) h8).passRings
  exact ⟨(State.showsSite_markSite _ (by omega) _ _).spares hsp, hsp.latched_pg (Or.inl rfl) (State.latched_markSite _ _ _ (by decide))⟩

/-- After a die-fatal error every take of a slate with groups on the die has ended. -/
theorem State.takeEnded_dieFatal {s : State} {site n q : Nat} {e : Entry} (hd : s.mainDie site = true) (hu : s.siteUp site = true)
    (hm : s.mainOk = true) (hq : q < 8) (he : e ∈ (s.tq n q).entries) (hst : e.st ≤ 2) (hop : e.op = 1) (hon : s.entryOn site e = true) :
    TakeEnded (s.dieFatal site) n q e.n := by
  have htqs : ((s.loseFlights site).siteDown site).tqs = s.tqs :=
    (State.siteDown_kept (ws := [.regs, .bar2, .out, .dqs]) rfl site (State.loseFlights_kept rfl site (Kept.refl _ s))).same .tqs (by decide)
  have hend : TakeEnded (s.takesFall site) n q e.n :=
    State.takeEnded_endTakesFor hq (by unfold State.tq; rwa [htqs]) hst hop hon _ _
  have hrest : Settles (s.dieFalls site) (s.dieFatal site) := by
    rw [State.dieFatal_eq hd hu hm]
    exact (Settles.of_kept (State.wipeDie_kept
      (ws := [.regs, .latch, .back, .ports, .ram, .slotRings, .cueQs, .binFlags, .cancels, .dqs, .cores, .cmbs, .engs, .poison, .arbs, .capQs])
      rfl site (Kept.refl _ _))).trans
      (Settles.of_kept (State.passRings_kept (ws := [.regs, .bar2, .out]) rfl (Kept.refl _ _)))
  exact hend.settles ((Settles.dieFalls s site).trans hrest)

end Sys2Proof.Machine

/-!
A package-fatal error: its report, the takes that end, and the ensemble. A die that has returned.
-/
namespace Sys2Proof.Machine

/-- The report of a package-fatal error: the memory page in FAULT with PKG_FATAL latched, and an AER report. -/
def State.reportFatal (s : State) (code : Nat) : State := ((s.toFault memPage code 4).evt memPage 2).emit (.aerInternal code)

/-- A package-fatal error after its report: every take ends and every stream splices. -/
def State.packageFalls (s : State) (code : Nat) : State :=
  let s2 := s.endTakesFor (fun _ => true) 0x0302 (some code)
  s2.spliceStreams s2.allStreams

/-- An ensemble ACTIVE before becomes DEGRADED. -/
def State.degradeEnsemble (s : State) : State := if s.ensSt = 2 then (s.putFld (pg 8 0x0C + 0x40) 0 3 3).evt (pg 8 0x0C) 1 else s

theorem State.degradeEnsemble_of_active {s : State} (h : s.ensSt = 2) :
    s.degradeEnsemble = (s.putFld (pg 8 0x0C + 0x40) 0 3 3).evt (pg 8 0x0C) 1 := if_pos h

theorem State.degradeEnsemble_of_not_active {s : State} (h : s.ensSt ≠ 2) : s.degradeEnsemble = s := if_neg h

/-- After a HOST_UE a free value says whether the host die can still write. -/
def State.freeMute (s : State) (code : Nat) : State := if code = 0x100 then { s.draw with mute := Config.freeBool s.free } else s

theorem State.freeMute_kept (s : State) (code : Nat) : Kept [.mute, .free] s (s.freeMute code) :=
  Kept.ite (Kept.set_mute _ rfl (State.draw_kept rfl (Kept.refl _ s))) (Kept.refl _ s)

theorem State.pkgFatal_eq {s : State} (code : Nat) (hm : s.mainOk = true) (h5 : s.st memPage ≠ 5) :
    s.pkgFatal code = (((s.freeMute code).reportFatal code).packageFalls code).degradeEnsemble := by
  unfold State.pkgFatal
  rw [if_neg (by simp [hm]), if_neg h5]
  rfl

theorem Spares.packageFalls (s : State) (code : Nat) : Spares s (s.packageFalls code) :=
  ((Spares.refl s).endTakesFor (fun _ => true) 0x0302 (some code)).spliceStreams _

/-- What a state's memory page and outputs tell of a package-fatal error. -/
structure TellsFatal (s : State) (code : Nat) : Prop where
  fault : s.st memPage = 5
  event : s.latched memPage 2 = true
  aer : Output.aerInternal code ∈ s.out

theorem State.tellsFatal_reportFatal (s : State) (code : Nat) : TellsFatal (s.reportFatal code) code := by
  refine ⟨?_, State.regBit_evt _ (by decide) (by decide), List.mem_append_right _ List.mem_cons_self⟩
  exact (State.st_evt _ (by decide) 2).trans (State.st_toFault _ (by decide) _ _)

theorem TellsFatal.spares {s t : State} {code : Nat} (h : TellsFatal s code) (hst : Spares s t) : TellsFatal t code :=
  ⟨(State.st_of_reg (hst.reg_pg (blk := 5) (off := 0xC) (by decide) (by decide) (by decide) (by decide))).trans h.fault,
    hst.latched_pg (by decide) h.event, hst.out h.aer⟩

/-- The ensemble's state and event lie on its own page. -/
theorem TellsFatal.degradeEnsemble {s : State} {code : Nat} (h : TellsFatal s code) : TellsFatal s.degradeEnsemble code := by
  by_cases h2 : s.ensSt = 2
  · rw [State.degradeEnsemble_of_active h2]
    have hreg : ∀ off, off < 0x100 → ((s.putFld (pg 8 0x0C + 0x40) 0 3 3).evt (pg 8 0x0C) 1).reg (memPage + off) = s.reg (memPage + off) := by
      intro off ho
      rw [State.reg_evt, State.reg_putFld, if_neg]
      · unfold memPage pg; omega
      · simp only [evtRegs, List.mem_cons, List.not_mem_nil, or_false, not_or, pendReg, siteOf, blkOf, memPage, pg]
        omega
    refine ⟨(State.st_of_reg (hreg _ (by decide))).trans h.fault, ?_, ?_⟩
    · have := h.event
      unfold State.latched State.regBit at this ⊢
      rwa [hreg _ (by decide)]
    · exact ((Spares.refl (s.putFld (pg 8 0x0C + 0x40) 0 3 3)).evt (isPage_pg 8 0x0C) 1).out h.aer
  · rwa [State.degradeEnsemble_of_not_active h2]

theorem State.ensSt_of_reg {s t : State} (h : t.reg (pg 8 0x0C + 0x40) = s.reg (pg 8 0x0C + 0x40)) : t.ensSt = s.ensSt := by
  unfold State.ensSt State.regFld; rw [h]

theorem State.ensSt_reportFatal (s : State) (code : Nat) : (s.reportFatal code).ensSt = s.ensSt := by
  refine State.ensSt_of_reg ?_
  change (((s.toFault memPage code 4).evt memPage 2).emit (.aerInternal code)).reg _ = _
  rw [State.reg_emit, State.reg_evt, State.reg_toFault]
  · decide
  · decide

theorem State.ensSt_degradeEnsemble {s : State} (h : s.ensSt = 2) : s.degradeEnsemble.ensSt = 3 := by
  rw [State.degradeEnsemble_of_active h]
  unfold State.ensSt State.regFld
  rw [State.reg_evt _ _ _ _ (not_evtReg (by decide) (by decide) (by decide) (by decide)), State.reg_putFld, if_pos rfl]
  exact fld_setFld_low _ (by decide) (by decide)

theorem State.ensSt_freeMute (s : State) (code : Nat) : (s.freeMute code).ensSt = s.ensSt := by
  have hasm : (s.freeMute code).asm = s.asm := (s.freeMute_kept code).same .asm (by decide)
  have hregs : (s.freeMute code).regs = s.regs := (s.freeMute_kept code).same .regs (by decide)
  refine State.ensSt_of_reg ?_
  unfold State.reg
  rw [hasm, hregs]

/-- What a package-fatal error shows, and what becomes of the ensemble. -/
theorem State.tellsFatal_pkgFatal {s : State} (code : Nat) (hm : s.mainOk = true) (h5 : s.st memPage ≠ 5) :
    TellsFatal (s.pkgFatal code) code ∧ (s.ensSt = 2 → (s.pkgFatal code).ensSt = 3) := by
  rw [State.pkgFatal_eq code hm h5]
  have hsp := Spares.packageFalls ((s.freeMute code).reportFatal code) code
  refine ⟨((State.tellsFatal_reportFatal _ code).spares hsp).degradeEnsemble, fun h2 => State.ensSt_degradeEnsemble ?_⟩
  rw [State.ensSt_of_reg (hsp.reg_pg (blk := 12) (off := 0x40) (by decide) (by decide) (by decide) (by decide)), State.ensSt_reportFatal,
    State.ensSt_freeMute, h2]

/-- The fields that a package-fatal error other than HOST_UE may change. -/
def fallFields : List Field :=
  [.regs, .back, .bar2, .out, .ram, .hmem, .rings, .strms, .axes, .grps, .slotRings, .cancels, .tqs, .sched, .dqs, .cores, .cmbs, .engs, .mmus, .poison]

theorem State.reportFatal_kept (s : State) (code : Nat) : Kept [.regs, .bar2, .out] s (s.reportFatal code) :=
  State.emit_kept rfl _ (State.evt_kept rfl _ _ (State.toFault_kept rfl _ _ _ (Kept.refl _ s)))

theorem State.degradeEnsemble_kept (s : State) : Kept [.regs, .bar2, .out] s s.degradeEnsemble :=
  Kept.ite (State.evt_kept rfl _ _ (State.putFld_kept rfl _ _ _ _ (Kept.refl _ s))) (Kept.refl _ s)

theorem State.packageFalls_kept (s : State) (code : Nat) : Kept fallFields s (s.packageFalls code) :=
  (State.endTakesFor_kept rfl (fun _ => true) 0x0302 (some code) (Kept.refl _ s)).trans (Kept.mono (by decide) (State.spliceStreams_kept _ _))

theorem State.pkgFatal_kept_of_ne {s : State} {code : Nat} (hm : s.mainOk = true) (h5 : s.st memPage ≠ 5) (hc : code ≠ 0x100) :
    Kept fallFields s (s.pkgFatal code) := by
  rw [State.pkgFatal_eq code hm h5, show s.freeMute code = s from if_neg hc]
  have h1 : Kept fallFields s (s.reportFatal code) := Kept.mono (by decide) (s.reportFatal_kept code)
  have h2 : Kept fallFields (s.reportFatal code) ((s.reportFatal code).packageFalls code) := State.packageFalls_kept _ code
  exact h1.trans (h2.trans (Kept.mono (by decide) (State.degradeEnsemble_kept _)))

theorem State.mute_pkgFatal {s : State} {code : Nat} (hm : s.mainOk = true) (h5 : s.st memPage ≠ 5) (hc : code ≠ 0x100) :
    (s.pkgFatal code).mute = s.mute :=
  (State.pkgFatal_kept_of_ne hm h5 hc).same .mute (by decide)

/-- A package-fatal error ends every take that runs or waits. -/
theorem State.takeEnded_pkgFatal {s : State} {code n q : Nat} {e : Entry} (hm : s.mainOk = true) (h5 : s.st memPage ≠ 5) (hq : q < 8)
    (he : e ∈ (s.tq n q).entries) (hst : e.st ≤ 2) (hop : e.op = 1) : TakeEnded (s.pkgFatal code) n q e.n := by
  rw [State.pkgFatal_eq code hm h5]
  have hmute : (s.freeMute code).tqs = s.tqs := (s.freeMute_kept code).same .tqs (by decide)
  have htqs : ((s.freeMute code).reportFatal code).tqs = s.tqs := ((State.reportFatal_kept _ code).same .tqs (by decide)).trans hmute
  have hend : TakeEnded (((s.freeMute code).reportFatal code).endTakesFor (fun _ => true) 0x0302 (some code)) n q e.n :=
    State.takeEnded_endTakesFor hq (by unfold State.tq; rwa [htqs]) hst hop rfl _ _
  have hsplice : Settles (((s.freeMute code).reportFatal code).endTakesFor (fun _ => true) 0x0302 (some code))
      (((s.freeMute code).reportFatal code).packageFalls code) := Settles.spliceStreams _ _
  exact hend.settles (hsplice.trans (Settles.of_kept (State.degradeEnsemble_kept _)))

/-- Loading a section reads and writes the on-package memories alone. -/
theorem State.ram_loadSection {s t : State} (h : t.ram = s.ram) (img : List Byte) (type site i : Nat) :
    (t.loadSection img type site i).ram = (s.loadSection img type site i).ram := by
  unfold State.loadSection
  generalize List.range (leAt img 0x18 2) = l
  induction l generalizing s t with
  | nil => exact h
  | cons k l ih =>
    refine ih ?_
    dsimp only
    split
    · exact congrArg (fun r => tabPutList 0#8 r _ _) h
    · exact h

/-- The section that a returned die's control core starts from. -/
def State.loadCore (s u : State) (site : Nat) : State :=
  if site < 4 then s.loadSection u.mainImage 4 site site else s.loadSection u.mainImage 5 site (site - 8)

theorem State.ram_loadCore {s t : State} (h : t.ram = s.ram) (u : State) (site : Nat) : (t.loadCore u site).ram = (s.loadCore u site).ram := by
  have hsections : ∀ c : Prop, ∀ _ : Decidable c, (if c then t.loadSection u.mainImage 4 site site else t.loadSection u.mainImage 5 site (site - 8)).ram =
      (if c then s.loadSection u.mainImage 4 site site else s.loadSection u.mainImage 5 site (site - 8)).ram := by
    intro c _
    split
    · exact State.ram_loadSection h _ _ _ _
    · exact State.ram_loadSection h _ _ _ _
  exact hsections (site < 4) inferInstance

/-- A returned die shows as up, with SITE_UP's event latched and its section loaded. -/
theorem execSiteReturned_shows {s : State} {site : Nat} (hd : s.mainDie site = true) (hm : s.mainOk = true) (hu : s.siteUp site = false)
    (hr : s.ready = true) :
    ∃ t, execSiteReturned site s = .next t ∧ ShowsSite t site true ∧ t.latched (pg 8 0) 2 = true ∧ t.ram = (s.loadCore s site).ram := by
  obtain ⟨h12, -⟩ := site_of_mainDie hd
  unfold execSiteReturned
  rw [if_pos ⟨hd, hm, hu, hr⟩]
  extract_lets s1
  have hcore : (if site < 4 then s1.loadSection s.mainImage 4 site site else s1.loadSection s.mainImage 5 site (site - 8)) = s1.loadCore s site := rfl
  rw [hcore]
  have hkept : Kept [.ram] s1 (s1.loadCore s site) :=
    Kept.ite (State.loadSection_kept rfl _ _ _ _ (Kept.refl _ s1)) (State.loadSection_kept rfl _ _ _ _ (Kept.refl _ s1))
  have hasm : (s1.loadCore s site).asm = s.asm := hkept.same .asm (by decide)
  have hregs : (s1.loadCore s site).regs = s.regs := hkept.same .regs (by decide)
  have hdown : (s1.loadCore s site).siteUp site = false := by
    unfold State.siteUp State.regBit State.reg at hu ⊢
    rwa [hasm, hregs]
  rw [State.siteBack_of_down hdown]
  have hsp : Spares ((s1.loadCore s site).markSite site true 2) (((s1.loadCore s site).markSite site true 2).passRings) := (Spares.refl _).passRings
  refine ⟨_, rfl, (State.showsSite_markSite _ (by omega) _ _).spares hsp, hsp.latched_pg (Or.inl rfl) (State.latched_markSite _ _ _ (by decide)), ?_⟩
  have hram : ((s1.loadCore s site).markSite site true 2).passRings.ram = (s1.loadCore s site).ram :=
    (State.passRings_kept (ws := [.regs, .bar2, .out]) rfl (State.markSite_kept _ _ _ _)).same .ram (by decide)
  exact hram.trans (State.ram_loadCore (s := s) (t := s1) rfl s site)

end Sys2Proof.Machine

/-!
Errors of the memories and links (11 R237 to R243).
-/
namespace Sys2Proof.Machine

theorem satNat_eq_min (m x : Nat) : satNat m x = min m x := by
  unfold satNat
  split <;> omega

/-- A counter register counts one more, and no further than its maximum. -/
theorem State.toNat_reg_addSat (s : State) (a : Nat) : ((s.addSat a 1).reg a).toNat = min 0xFFFFFFFF ((s.reg a).toNat + 1) := by
  rw [State.reg_addSat, if_pos rfl, satNat_eq_min, BitVec.toNat_ofNat, Nat.mod_eq_of_lt (by omega)]

theorem State.regsBut_addSat (s : State) (a n : Nat) : RegsBut [a] s (s.addSat a n) := by
  intro b hb
  rw [State.reg_addSat, if_neg (fun e => hb (List.mem_singleton.mpr e))]

theorem State.addSat_only (s : State) (a n : Nat) : Only [.regs] s (s.addSat a n) := (State.addSat_kept rfl a n (Kept.refl _ s)).same

theorem site_of_compute {asm site : Nat} (h : dieAt asm site = .compute) : site < 4 := by
  unfold dieAt at h
  grind

theorem site_of_dieUp {s : State} {site : Nat} (h : s.dieUp site = true) : site < 4 := by
  unfold State.dieUp at h
  simp only [Bool.and_eq_true, beq_iff_eq] at h
  exact site_of_compute h.1.1

theorem of_stackAt {s : State} {site k : Nat} (h : s.stackAt site k = true) : site < 4 ∧ k < 2 := by
  unfold State.stackAt at h
  simp only [Bool.and_eq_true, beq_iff_eq, decide_eq_true_eq] at h
  obtain ⟨⟨⟨hk, hd⟩, -⟩, -⟩ := h
  exact ⟨site_of_compute hd, hk⟩

theorem mainOk_of_dieUp {s : State} {site : Nat} (h : s.dieUp site = true) : s.mainOk = true := by
  unfold State.dieUp at h
  simp only [Bool.and_eq_true] at h
  exact h.1.2

/-- No register of a compute die shows the memory page's events. -/
theorem not_evtReg_memPage {site off : Nat} (blk : Nat) (hs : site < 4) (ho : off < 0x1000) : pg site blk + off ∉ evtRegs memPage := by
  simp only [evtRegs, List.mem_cons, List.not_mem_nil, or_false, not_or, pendReg, siteOf, blkOf, memPage, pg]
  omega

/-- Counting a corrected error shows in the memory page's events alone. -/
theorem State.reg_countCe (s : State) (site : Nat) {a : Nat} (ha : a ∉ evtRegs memPage) : (s.countCe site).reg a = s.reg a := by
  unfold State.countCe
  extract_lets h c n
  unfold State.evtIf
  split
  · exact State.reg_evt _ _ _ _ ha
  · rfl

/-- With a threshold of at most 1 every corrected error of the hour raises CE_HIGH. -/
theorem State.latched_countCe {s : State} (site : Nat) (h : (s.reg (memPage + 0x54)).toNat ≤ 1) : (s.countCe site).latched memPage 0 = true := by
  unfold State.countCe
  extract_lets hour c n
  have hn : 1 ≤ n := by
    unfold n
    split <;> omega
  rw [State.evtIf, if_pos (decide_eq_true (Nat.le_trans h hn))]
  exact State.regBit_evt _ (by decide) (by decide)

/-- A corrected error counted in a register of a compute die. -/
theorem State.countsError {s : State} {site off : Nat} (blk : Nat) (hs : site < 4) (ho : off < 0x1000) :
    let t := (s.addSat (pg site blk + off) 1).countCe site
    (t.reg (pg site blk + off)).toNat = min 0xFFFFFFFF ((s.reg (pg site blk + off)).toNat + 1) ∧ Only [.regs, .bar2, .out, .ces] s t ∧
      RegsBut ((pg site blk + off) :: evtRegs memPage) s t := by
  refine ⟨?_, (State.countCe_kept rfl site (State.addSat_kept rfl _ _ (Kept.refl _ s))).same, fun a ha => ?_⟩
  · rw [State.reg_countCe _ _ (not_evtReg_memPage blk hs ho)]
    exact s.toNat_reg_addSat _
  · rw [List.mem_cons, not_or] at ha
    rw [State.reg_countCe _ _ ha.2]
    exact s.regsBut_addSat _ _ a (fun hb => ha.1 (List.mem_singleton.mp hb))

theorem exec_correctedError_of_kind {s : State} {site kind : Nat} (unit : Nat) (h1 : 1 ≤ kind) (h4 : kind ≤ 4) (hup : s.dieUp site = true) :
    exec (.correctedError site kind unit) s = .next ((s.addSat (pg site 0x0A + 0x40 + 4 * (kind - 1)) 1).countCe site) := by
  change execCorrectedError site kind unit s = _
  unfold execCorrectedError
  rw [if_neg (by omega), if_neg (by omega), if_pos hup]

theorem exec_correctedError_of_stack {s : State} {site unit : Nat} (h : s.stackAt site unit = true) :
    exec (.correctedError site 0 unit) s = .next ((s.addSat (pg site (12 + unit) + 0x40) 1).countCe site) := by
  change execCorrectedError site 0 unit s = _
  unfold execCorrectedError
  rw [if_pos rfl, if_pos h]

/-- Poisoning marks the word that holds the address. -/
theorem State.mem_poisonAt (s : State) (sp a : Nat) : ramKey sp (a / wordLen sp * wordLen sp) ∈ (s.poisonAt sp a).poison := by
  unfold State.poisonAt
  extract_lets k
  split
  next h => exact List.contains_iff_mem.mp h
  next => exact List.mem_append_right _ List.mem_cons_self

theorem State.poisonAt_only (s : State) (sp a : Nat) : Only [.poison] s (s.poisonAt sp a) := (State.poisonAt_kept rfl sp a (Kept.refl _ s)).same

theorem State.reg_poisonAt (s : State) (sp a b : Nat) : (s.poisonAt sp a).reg b = s.reg b := by
  have hasm : (s.poisonAt sp a).asm = s.asm := s.poisonAt_only sp a .asm (by decide)
  have hregs : (s.poisonAt sp a).regs = s.regs := s.poisonAt_only sp a .regs (by decide)
  unfold State.reg
  rw [hasm, hregs]

/-! What an uncorrectable error of each kind does on a die that is up, or to a stack line. -/
theorem exec_uncorrectableError_stack {s : State} {site addr : Nat} (hm : s.mainOk = true) (ha : addr < dpaEnd s.asm) (hs : s.dpaSite addr = site) :
    exec (.uncorrectableError site 0 addr) s = .next ((s.poisonAt spStack addr).addSat (s.ctlPage addr + 0x44) 1) := by
  change execUncorrectableError site 0 addr s = _
  unfold execUncorrectableError
  rw [if_pos rfl, if_pos ⟨hm, ha, hs⟩]

theorem exec_uncorrectableError_bin {s : State} {site : Nat} (addr : Nat) (h : s.dieUp site = true) :
    exec (.uncorrectableError site 1 addr) s = .next (s.poisonAt (spBin site) (addr % 2 ^ 26)) := by
  change execUncorrectableError site 1 addr s = _
  simp [execUncorrectableError, h]

theorem exec_uncorrectableError_core {s : State} {site : Nat} (addr : Nat) (h : s.dieUp site = true) :
    exec (.uncorrectableError site 2 addr) s = .next (s.poisonAt (spCore site (addr / 2 ^ 20 % 64)) (addr % 2 ^ 20)) := by
  change execUncorrectableError site 2 addr s = _
  simp [execUncorrectableError, h]

theorem exec_uncorrectableError_line {s : State} {site addr : Nat} (h : s.dieUp site = true) (h6 : addr / 2 ^ 24 < 6) (h19 : addr % 2 ^ 24 < 2 ^ 19) :
    exec (.uncorrectableError site 3 addr) s = .next (s.poisonAt (spLine site (addr / 2 ^ 24)) (addr % 2 ^ 24)) := by
  change execUncorrectableError site 3 addr s = _
  unfold execUncorrectableError
  rw [if_neg (by decide), if_neg (by decide), if_neg (by simp [h]), if_neg (by decide), if_neg (by decide), if_pos rfl, if_pos ⟨h6, h19⟩]

/-- Whether a group of a slate holds the flag at an address of its die. -/
def holdsFlag (addr : Nat) (x : Slate) (g : GroupAt) : Bool := decide (g.flag ≤ addr) && decide (addr < g.flag + cFlags x.cont)

theorem exec_uncorrectableError_flag {s : State} {site : Nat} (addr : Nat) (h : s.dieUp site = true) :
    exec (.uncorrectableError site 4 addr) s = .next (s.flagUe site (holdsFlag addr)) := by
  change execUncorrectableError site 4 addr s = _
  unfold execUncorrectableError
  rw [if_neg (by decide), if_neg (by decide), if_neg (by simp [h]), if_neg (by decide), if_neg (by decide), if_neg (by decide), if_pos rfl]
  rfl

theorem mem_tabIns {β : Type} (k : Nat) (v : β) (t : List (Nat × β)) : (k, v) ∈ tabIns k v t := by
  induction t with
  | nil => exact List.mem_cons_self
  | cons p t ih =>
    unfold tabIns
    split
    · exact List.mem_cons_of_mem _ ih
    · exact List.mem_cons_self

/-- A stage that faults stands in its slate as faulted. -/
theorem State.faulted_faultStage {s : State} {h : Nat} {x : Slate} (hx : s.slate h = some x) :
    ∃ z ∈ (s.faultStage h).slates, z.2.handle = x.handle ∧ z.2.faulted = true := by
  generalize hr : s.faultStage h = r
  unfold State.faultStage at hr
  rw [hx] at hr
  dsimp -zeta only at hr
  extract_lets w s1 s2 s3 s4 site k at hr
  have hlast : r.slates = s4.slates := by
    have hshow : Kept [.regs, .bar2, .out] s4 r :=
      hr ▸ State.showPipe_kept rfl _ _ (State.evt_kept rfl _ _ (State.setNat_kept rfl _ _ (Kept.refl _ s4)))
    exact hshow.same .slates (by decide)
  rw [hlast]
  exact ⟨_, mem_tabIns _ _ _, rfl, rfl⟩

/-- The holder of a flag that a stage's slate holds is that stage. -/
theorem State.flagUe_of_stage {s : State} {site : Nat} {holds : Slate → GroupAt → Bool} {p : Nat × Slate}
    (hp : s.slates.find? (fun x => x.2.state != 3 && x.2.groups.any (fun g => g.site == site && holds x.2 g)) = some p) (hk : p.2.kind = 2) :
    s.flagUe site holds = (s.faultRec (pg site 0x0A) 0x0101 2).faultStage p.2.handle := by
  obtain ⟨k, x⟩ := p
  unfold State.flagUe
  rw [hp]
  exact if_pos hk

theorem State.slate_faultRec (s : State) (p code cls h : Nat) : (s.faultRec p code cls).slate h = s.slate h := by
  have hs : (s.faultRec p code cls).slates = s.slates := (State.faultRec_kept (ws := [.regs]) rfl p code cls (Kept.refl _ s)).same .slates (by decide)
  unfold State.slate
  rw [hs]

/-- The place of a stack's scrub pass moves to line `j`. -/
def State.scrubTo (s : State) (site ctl j : Nat) : State :=
  ({ s with scrubs := tabPut 0 s.scrubs (site * 2 + ctl) j }).setNat (pg site (12 + ctl) + 0x48) (j / 1024)

theorem State.scrubTo_kept (s : State) (site ctl j : Nat) : Kept [.regs, .scrubs] s (s.scrubTo site ctl j) :=
  State.setNat_kept rfl _ _ (Kept.set_scrubs _ rfl (Kept.refl _ s))

theorem State.scrubs_scrubTo (s : State) (site ctl j : Nat) : tabGet 0 (s.scrubTo site ctl j).scrubs (site * 2 + ctl) = j := tabGet_tabPut_same _ _ _ _

theorem State.reg_scrubTo (s : State) (site ctl j a : Nat) :
    (s.scrubTo site ctl j).reg a = if a = pg site (12 + ctl) + 0x48 then BitVec.ofNat 32 (j / 1024) else s.reg a :=
  State.reg_setNat _ _ _ _

/-- A clean line: the place of the pass moves on, and past the stack's last line a pass is counted. -/
theorem exec_scrub_clean {s : State} {site ctl : Nat} (h : s.stackAt site ctl = true) :
    exec (.scrub site ctl 0) s = .next (if 2 ^ 28 ≤ tabGet 0 s.scrubs (site * 2 + ctl) + 1 then (s.scrubTo site ctl 0).addSat (pg site (12 + ctl) + 0x4C) 1
      else s.scrubTo site ctl (tabGet 0 s.scrubs (site * 2 + ctl) + 1)) := by
  change execScrub site ctl 0 s = _
  unfold execScrub
  rw [if_neg (by simp [h])]
  extract_lets i p s1 last j s2
  by_cases hl : 2 ^ 28 ≤ i + 1
  · have hlast : last = true := decide_eq_true hl
    have hj : j = 0 := if_pos hlast
    rw [if_pos hlast, if_pos hl]
    unfold s2
    rw [hj]
    rfl
  · have hlast : ¬ last = true := by simpa [last] using hl
    have hj : j = i + 1 := if_neg hlast
    rw [if_neg hlast, if_neg hl]
    unfold s2
    rw [hj]
    rfl

theorem exec_linkReplay {s : State} {site : Nat} (n : Nat) (h : s.dieUp site = true) :
    exec (.linkReplay site n) s = .next (if 8 < n then s.pkgFatal 0x0101 else s.addSat (pg site 0x0A + 0x50) 1) := by
  change execLinkReplay site n s = _
  simp [execLinkReplay, h]

end Sys2Proof.Machine

/-!
The memory errors and the falls of dies and of the package, together.
-/
namespace Sys2Proof.Machine

theorem State.dieFatal_only (s : State) (site : Nat) :
    Only [.regs, .latch, .back, .bar2, .out, .slots, .groups, .ports, .ram, .hmem, .loads, .rings, .strms, .axes, .grps, .slotRings, .cueQs, .binFlags,
      .slates, .cancels, .tqs, .sched, .dqs, .cores, .cmbs, .engs, .mmus, .poison, .arbs, .capQs, .bndTaken] s (s.dieFatal site) :=
  (State.dieFatal_kept rfl site (Kept.refl _ s)).same

/-- A die-fatal error leaves the die's memories clear and its DMA queues idle. -/
theorem State.cleared_dieFatal {s : State} {site : Nat} (hd : s.mainDie site = true) (hu : s.siteUp site = true) (hm : s.mainOk = true) :
    (∀ k, ramKey (site * 256) 0 ≤ k → k < ramKey (site * 256) 0 + 2 ^ 56 → tabGet 0#8 (s.dieFatal site).ram k = 0#8) ∧
      ∀ u, u / 1024 = site → tabGet {} (s.dieFatal site).dqs u = {} := by
  have hk : Kept [.regs, .bar2, .out] ((s.dieFalls site).wipeDie site) (s.dieFatal site) := by
    rw [State.dieFatal_eq hd hu hm]
    exact State.passRings_kept rfl (Kept.refl _ _)
  have hram : (s.dieFatal site).ram = ((s.dieFalls site).wipeDie site).ram := hk.same .ram (by decide)
  have hdqs : (s.dieFatal site).dqs = ((s.dieFalls site).wipeDie site).dqs := hk.same .dqs (by decide)
  rw [hram, hdqs]
  exact ⟨fun _ h1 h2 => State.ram_wipeDie _ h1 h2, fun _ hu => State.dqs_wipeDie _ hu⟩

/-- A flag's uncorrectable error faults the stage whose slate holds it. -/
theorem State.faulted_flagUe {s : State} {site : Nat} {holds : Slate → GroupAt → Bool} {p : Nat × Slate}
    (hp : s.slates.find? (fun x => x.2.state != 3 && x.2.groups.any (fun g => g.site == site && holds x.2 g)) = some p) (hk : p.2.kind = 2)
    (hs : s.slate p.2.handle = some p.2) : ∃ z ∈ (s.flagUe site holds).slates, z.2.handle = p.2.handle ∧ z.2.faulted = true := by
  rw [State.flagUe_of_stage hp hk]
  exact State.faulted_faultStage ((s.slate_faultRec _ _ _ _).trans hs)

/-- Settles O42. Its frames are the operations' own; what a fall shows is carried through the operations that follow the mark by
`Spares`, and the takes that end through them by `Settles`. -/
theorem memoryErrorsPoisonAndTakeDiesDown : Obligations.MemoryErrorsPoisonAndTakeDiesDown := by
  unfold Obligations.MemoryErrorsPoisonAndTakeDiesDown
  refine ⟨fun s site kind unit h1 h4 hup => ?die, fun s site unit hat hthresh => ?stack, fun s site addr hm ha hs => ?line,
    fun s site addr hup => ?bin, fun s site addr hup => ?core, fun s site addr hup h6 h19 => ?buffer, fun s site addr p hup hp hk hs => ?flag,
    fun s site ctl hat hi => ?clean, fun s site ctl hat hi => ?last, fun s site n hup hn => ?replay, fun s site n hup hn h5 => ?ninth,
    fun s site code hd hu hm => ?falls, fun s site hd hm hu hr => ?returned, fun s code hlo hhi hm h5 => ?package⟩
  case die =>
    have hs := site_of_dieUp hup
    refine ⟨_, exec_correctedError_of_kind unit h1 h4 hup, ?_⟩
    rw [Nat.add_assoc]
    exact State.countsError 0x0A hs (by omega)
  case stack =>
    obtain ⟨hs, hu⟩ := of_stackAt hat
    obtain ⟨hcount, honly, -⟩ := State.countsError (s := s) (12 + unit) hs (off := 0x40) (by decide)
    refine ⟨_, exec_correctedError_of_stack hat, hcount, State.latched_countCe site ?_, honly⟩
    rwa [State.reg_addSat, if_neg (by unfold memPage pg; omega)]
  case line =>
    refine ⟨_, exec_uncorrectableError_stack hm ha hs, ?_, ?_, ?_, fun a hb => ?_⟩
    · have hpoison : ((s.poisonAt spStack addr).addSat (s.ctlPage addr + 0x44) 1).poison = (s.poisonAt spStack addr).poison :=
        State.addSat_only _ _ _ .poison (by decide)
      rw [hpoison]
      exact s.mem_poisonAt spStack addr
    · rw [State.toNat_reg_addSat, State.reg_poisonAt]
    · exact (State.addSat_kept rfl _ _ (State.poisonAt_kept rfl _ _ (Kept.refl _ s))).same
    · rw [State.regsBut_addSat _ _ _ a hb, State.reg_poisonAt]
  case bin =>
    refine ⟨_, exec_uncorrectableError_bin addr hup, ?_, State.poisonAt_only _ _ _⟩
    have hlen : wordLen (spBin site) = 8 := if_neg (by have := site_of_dieUp hup; unfold spBin spStack; omega)
    have hmem := s.mem_poisonAt (spBin site) (addr % 2 ^ 26)
    rwa [hlen] at hmem
  case core => exact ⟨_, exec_uncorrectableError_core addr hup, State.mem_poisonAt _ _ _, State.poisonAt_only _ _ _⟩
  case buffer => exact ⟨_, exec_uncorrectableError_line hup h6 h19, State.mem_poisonAt _ _ _, State.poisonAt_only _ _ _⟩
  case flag =>
    have hfind : s.slates.find? (fun x => x.2.state != 3 && x.2.groups.any (fun g => g.site == site && holdsFlag addr x.2 g)) = some p := by
      simpa only [holdsFlag, Bool.and_assoc] using hp
    refine ⟨_, exec_uncorrectableError_flag addr hup, State.faulted_flagUe hfind hk hs, ?_⟩
    exact (State.flagUe_kept rfl _ _ (Kept.refl _ s)).same
  case clean =>
    refine ⟨_, exec_scrub_clean hat, ?_⟩
    have hmore : ¬ 2 ^ 28 ≤ tabGet 0 s.scrubs (site * 2 + ctl) + 1 := by omega
    rw [if_neg hmore]
    refine ⟨State.scrubs_scrubTo _ _ _ _, ?_, (State.scrubTo_kept _ _ _ _).same, fun a ha => ?_⟩
    · rw [State.reg_scrubTo, if_pos rfl, BitVec.toNat_ofNat, Nat.mod_eq_of_lt (by omega)]
    · rw [State.reg_scrubTo, if_neg (fun e => ha (List.mem_singleton.mpr e))]
  case last =>
    refine ⟨_, exec_scrub_clean hat, ?_⟩
    have hend : 2 ^ 28 ≤ tabGet 0 s.scrubs (site * 2 + ctl) + 1 := by omega
    rw [if_pos hend]
    refine ⟨?_, ?_, (State.addSat_kept rfl _ _ (State.scrubTo_kept _ _ _ _)).same⟩
    · have hscrubs : ((s.scrubTo site ctl 0).addSat (pg site (12 + ctl) + 0x4C) 1).scrubs = (s.scrubTo site ctl 0).scrubs :=
        State.addSat_only _ _ _ .scrubs (by decide)
      rw [hscrubs]
      exact State.scrubs_scrubTo _ _ _ _
    · rw [State.toNat_reg_addSat, State.reg_scrubTo, if_neg (by omega)]
  case replay =>
    refine ⟨_, exec_linkReplay n hup, ?_⟩
    rw [if_neg (Nat.not_lt.mpr hn)]
    exact ⟨State.toNat_reg_addSat _ _, State.addSat_only _ _ _, State.regsBut_addSat _ _ _⟩
  case ninth =>
    have hm := mainOk_of_dieUp hup
    obtain ⟨⟨hfault, hevent, haer⟩, -⟩ := State.tellsFatal_pkgFatal 0x0101 hm h5
    refine ⟨_, exec_linkReplay n hup, ?_⟩
    rw [if_pos hn]
    exact ⟨hfault, hevent, haer, (State.pkgFatal_kept_of_ne hm h5 (by decide)).same⟩
  case falls =>
    obtain ⟨⟨hdown, hcores⟩, hevent⟩ := State.shows_dieFatal hd hu hm
    obtain ⟨hram, hdqs⟩ := State.cleared_dieFatal hd hu hm
    exact ⟨_, rfl, hdown, hevent, fun n q e hq he hst hop hon => State.takeEnded_dieFatal hd hu hm hq he hst hop ((s.entryOn_eq_any site e).trans hon), hram,
      hcores, hdqs, s.dieFatal_only site⟩
  case returned =>
    obtain ⟨t, hexec, ⟨hup, hcores⟩, hevent, hram⟩ := execSiteReturned_shows hd hm hu hr
    have hk := execSiteReturned_kept (ws := [.regs, .bar2, .out, .ram, .free]) rfl site (Kept.refl _ s)
    rw [hexec] at hk
    exact ⟨t, hexec, hup, hevent, hcores, hram, hk.same⟩
  case package =>
    obtain ⟨⟨hfault, hevent, haer⟩, hens⟩ := State.tellsFatal_pkgFatal code hm h5
    have hexec : exec (.pkgFatal code) s = .next (s.pkgFatal code) := by
      change execPkgFatal code s = _
      rw [execPkgFatal, if_pos ⟨hlo, hhi⟩]
    exact ⟨_, hexec, hfault, hevent, fun n q e hq he hst hop => State.takeEnded_pkgFatal hm h5 hq he hst hop, haer, hens,
      fun hc => State.mute_pkgFatal hm h5 hc, (State.pkgFatal_kept rfl code (Kept.refl _ s)).same⟩

end Sys2Proof.Machine

/-!
What an operation leaves: registers and records outside the fields that it may change, and the steps by which `RegsBut` is composed.
-/
namespace Sys2Proof.Machine

section
variable {v w : List Field} {s t u : State}

/-- An operation that by its frame leaves assembly and registers leaves what every register reads. -/
theorem State.reg_of_kept (h : Kept w s t) (a : Nat) (hr : Field.regs ∉ w := by decide) (ha : Field.asm ∉ w := by decide) : t.reg a = s.reg a := by
  have hasm : t.asm = s.asm := h.same .asm ha
  have hregs : t.regs = s.regs := h.same .regs hr
  unfold State.reg
  rw [hasm, hregs]

theorem State.enc_of_kept (h : Kept w s t) (site e : Nat) (he : Field.encs ∉ w := by decide) : t.enc site e = s.enc site e := by
  have hencs : t.encs = s.encs := h.same .encs he
  unfold State.enc
  rw [hencs]

theorem State.pos_of_kept (h : Kept w s t) (site g : Nat) (hp : Field.poss ∉ w := by decide) : t.pos site g = s.pos site g := by
  have hposs : t.poss = s.poss := h.same .poss hp
  unfold State.pos
  rw [hposs]

theorem State.gate_of_kept (h : Kept w s t) (site g : Nat) (hg : Field.gates ∉ w := by decide) : t.gate site g = s.gate site g := by
  have hgates : t.gates = s.gates := h.same .gates hg
  unfold State.gate
  rw [hgates]

theorem State.regFld_of_reg {a : Nat} (h : t.reg a = s.reg a) (lo n : Nat) : t.regFld a lo n = s.regFld a lo n := by
  unfold State.regFld
  rw [h]

theorem State.regBit_of_reg {a : Nat} (h : t.reg a = s.reg a) (i : Nat) : t.regBit a i = s.regBit a i := by
  unfold State.regBit
  rw [h]

theorem State.latched_of_reg {p : Nat} (h : t.reg (p + 0x10) = s.reg (p + 0x10)) (bit : Nat) : t.latched p bit = s.latched p bit :=
  State.regBit_of_reg h bit

/-- A register of a page, other than EVT_RAW and EVT_PEND, reads as before through an event of the page. -/
theorem State.reg_evt_page (s : State) {p off : Nat} (hp : p % 0x1000 = 0) (bit : Nat) (ho : off < 0x100 ∧ off ≠ 0x10 ∧ off ≠ 0x18 := by decide) :
    (s.evt p bit).reg (p + off) = s.reg (p + off) :=
  s.reg_evt p bit _ (not_evtReg hp ho.1 ho.2.1 ho.2.2)

end

section
variable {w : List Nat} {s t u : State}

theorem RegsBut.refl (w : List Nat) (s : State) : RegsBut w s s := fun _ _ => rfl

theorem RegsBut.trans (h1 : RegsBut w s t) (h2 : RegsBut w t u) : RegsBut w s u := fun a ha => (h2 a ha).trans (h1 a ha)

theorem RegsBut.mono {v : List Nat} (hvw : v ⊆ w) (h : RegsBut v s t) : RegsBut w s t := fun a ha => h a (fun hv => ha (hvw hv))

theorem RegsBut.of_reg (h : RegsBut w s t) (hu : ∀ a, u.reg a = t.reg a) : RegsBut w s u := fun a ha => (hu a).trans (h a ha)

theorem RegsBut.of_kept {v : List Field} (h : RegsBut w s t) (hk : Kept v t u) (hr : Field.regs ∉ v := by decide) (ha : Field.asm ∉ v := by decide) :
    RegsBut w s u := h.of_reg (fun a => State.reg_of_kept hk a hr ha)

theorem RegsBut.setReg (h : RegsBut w s t) {a : Nat} (v : Word) (ha : a ∈ w := by simp) : RegsBut w s (t.setReg a v) :=
  h.trans fun _ hb => t.reg_setReg_ne v (fun e => hb (e ▸ ha))

theorem RegsBut.setNat (h : RegsBut w s t) {a : Nat} (n : Nat) (ha : a ∈ w := by simp) : RegsBut w s (t.setNat a n) := h.setReg _ ha
theorem RegsBut.putFld (h : RegsBut w s t) {a : Nat} (lo n x : Nat) (ha : a ∈ w := by simp) : RegsBut w s (t.putFld a lo n x) := h.setReg _ ha
theorem RegsBut.putBit (h : RegsBut w s t) {a : Nat} (i : Nat) (b : Bool) (ha : a ∈ w := by simp) : RegsBut w s (t.putBit a i b) := h.setReg _ ha

theorem RegsBut.evt (h : RegsBut w s t) {p : Nat} (bit : Nat) (hp : evtRegs p ⊆ w := by intro _ h; simp [h]) : RegsBut w s (t.evt p bit) :=
  h.trans fun _ ha => t.reg_evt p bit _ (fun he => ha (hp he))

theorem RegsBut.evtIf (h : RegsBut w s t) (c : Bool) {p : Nat} (bit : Nat) (hp : evtRegs p ⊆ w := by intro _ h; simp [h]) :
    RegsBut w s (t.evtIf c p bit) := by
  unfold State.evtIf
  split
  · exact h.evt bit hp
  · exact h

theorem regsBut_reject (s : State) (req p off reason : Nat) : RegsBut (rejRegs p) s (s.reject req p off reason) :=
  fun a ha => s.reg_reject req p off reason a ha

end

end Sys2Proof.Machine

/-!
A step and the queue of commands.
-/
namespace Sys2Proof.Machine

/-- Settles O1: both clauses are the two arms of `step`. -/
theorem stepRunsTheFrontCommand : Obligations.StepRunsTheFrontCommand := by
  unfold Obligations.StepRunsTheFrontCommand
  constructor
  · intro s c rest hpending
    simp only [step, hpending]
  · intro s hpending
    simp only [step, hpending]

end Sys2Proof.Machine

/-!
Encoders (02 R23 to R30): what an edge, an error, a fault and an index leave.
-/
namespace Sys2Proof.Machine

theorem encPage_aligned (site e : Nat) : encPage site e % 0x1000 = 0 := pg_aligned _ _

/-- What a filtered edge of a line does to the record's count: forward or back by the other line's level (02 R23), as the truth table of the
line, DIR_INV and the two levels says. -/
theorem encEdge_count (x : Enc) (lineB inv : Bool) (now : Nat) :
    (encEdge x lineB inv now).count = if ((if lineB then x.a != x.b else x.a == x.b) == inv) then x.count - 1 else x.count + 1 := by
  obtain ⟨a, b⟩ := x
  unfold encEdge
  cases lineB <;> cases inv <;> cases a <;> cases b <;> rfl

theorem encEdge_a (x : Enc) (lineB inv : Bool) (now : Nat) : (encEdge x lineB inv now).a = x.a.xor (!lineB) := by
  cases lineB <;> simp [encEdge]

theorem encEdge_b (x : Enc) (lineB inv : Bool) (now : Nat) : (encEdge x lineB inv now).b = x.b.xor lineB := by
  cases lineB <;> simp [encEdge]

theorem encEdge_last (x : Enc) (lineB inv : Bool) (now : Nat) : (encEdge x lineB inv now).last = some now := rfl
theorem encEdge_edges (x : Enc) (lineB inv : Bool) (now : Nat) : (encEdge x lineB inv now).edges = x.edges + 1 := rfl
theorem encEdge_errs (x : Enc) (lineB inv : Bool) (now : Nat) : (encEdge x lineB inv now).errs = x.errs := rfl

/-- The record of an encoder after a filtered edge. -/
def State.edged (s : State) (site e : Nat) (lineB : Bool) : Enc :=
  encEdge (s.enc site e) lineB (s.regBit (encPage site e + 0x40) 8) s.now

/-- PERIOD shows a held period, and a change of direction its event (02 R28). -/
def State.showPeriod (s : State) (site e : Nat) (y : Enc) : State :=
  (match y.period with
    | some d => s.setNat (encPage site e + 0x58) (satNat 0xFFFFFF d)
    | none => s).evtIf y.turned (encPage site e) 5

/-- A filtered edge up to what makes it an overrate edge. -/
def State.countEdge (s : State) (site e : Nat) (lineB : Bool) : State :=
  ((s.trackPos site e).setEnc site e (s.edged site e lineB)).showPeriod site e (s.edged site e lineB)

/-- An overrate edge and a QERR widen UNC, latch their event and count towards QERR_LIMIT (02 R24, R25). -/
def State.countError (s : State) (site e bit : Nat) : State := ((s.widenUnc site e).evt (encPage site e) bit).encErr site e

section
variable (s : State) (site e : Nat)

theorem State.trackPos_only_poss : Kept [.poss] s (s.trackPos site e) := State.trackPos_kept rfl site e (Kept.refl _ s)

theorem State.showPeriod_kept (y : Enc) : Kept [.regs, .bar2, .out] s (s.showPeriod site e y) := by
  unfold State.showPeriod
  refine State.evtIf_kept rfl _ _ _ ?_
  split
  · exact State.setNat_kept rfl _ _ (Kept.refl _ s)
  · exact Kept.refl _ s

theorem State.regsBut_showPeriod (y : Enc) : RegsBut ((encPage site e + 0x58) :: evtRegs (encPage site e)) s (s.showPeriod site e y) := by
  unfold State.showPeriod
  refine RegsBut.evtIf ?_ _ _
  split
  · exact (RegsBut.refl _ s).setNat _
  · exact RegsBut.refl _ s

theorem State.encEdgeDo_eq (lineB : Bool) : s.encEdgeDo site e lineB =
    (if overrate (s.enc site e) lineB (s.regFld (encPage site e + 0x40) 0 8) s.now then (s.countEdge site e lineB).countError site e 4
      else s.countEdge site e lineB).trackPos site e := by
  have hx : (s.trackPos site e).enc site e = s.enc site e := State.enc_of_kept (s.trackPos_only_poss site e) site e
  unfold State.encEdgeDo State.countEdge State.countError State.edged State.showPeriod
  dsimp only
  rw [hx] <;> rfl

variable (lineB : Bool)

theorem State.countEdge_kept : Kept [.regs, .bar2, .out, .encs, .poss] s (s.countEdge site e lineB) :=
  (State.setEnc_kept rfl site e _ (State.trackPos_kept rfl site e (Kept.refl _ s))).trans ((State.showPeriod_kept _ site e _).mono rfl)

theorem State.enc_countEdge : (s.countEdge site e lineB).enc site e = s.edged site e lineB :=
  (State.enc_of_kept (State.showPeriod_kept _ site e _) site e).trans (State.enc_setEnc_same _ _ _ _)

theorem State.regsBut_countEdge : RegsBut ((encPage site e + 0x58) :: evtRegs (encPage site e)) s (s.countEdge site e lineB) :=
  ((RegsBut.refl _ s).of_kept (State.setEnc_kept (ws := [.poss, .encs]) rfl site e _ (State.trackPos_kept rfl site e (Kept.refl _ s)))).trans
    (State.regsBut_showPeriod _ site e _)

end

theorem encReg_not_edgeReg (site e : Nat) {off : Nat} (ho : off < 0x100 ∧ off ≠ 0x10 ∧ off ≠ 0x18 ∧ off ≠ 0x58 := by decide) :
    encPage site e + off ∉ (encPage site e + 0x58) :: evtRegs (encPage site e) := by
  obtain ⟨h, h10, h18, h58⟩ := ho
  rw [List.mem_cons, not_or]
  exact ⟨by omega, not_evtReg (encPage_aligned site e) h h10 h18⟩

section
variable {s : State} {site e : Nat}

theorem State.widenUnc_of_room {n : Nat} (hn : s.regFld (encPage site e + 0x50) 0 16 = n) (h : n < 0xFFFD) :
    s.widenUnc site e = s.setNat (encPage site e + 0x50) (n + 2) := by
  unfold State.widenUnc State.setUnc
  rw [hn, if_neg (by omega), satNat, if_neg (by omega)]

theorem State.widenUnc_regs (s : State) (site e : Nat) : RegsBut [encPage site e + 0x50] s (s.widenUnc site e) := by
  unfold State.widenUnc State.setUnc
  dsimp only
  split
  · exact RegsBut.refl _ s
  · exact (RegsBut.refl _ s).setNat _

/-- The first error of a window with room for it is noted, and nothing more. -/
theorem State.encErr_of_first (herrs : (s.enc site e).errs = []) (hlim : 1 ≤ s.regFld (encPage site e + 0x40) 16 8) :
    s.encErr site e = s.setEnc site e { s.enc site e with errs := [(s.enc site e).edges] } := by
  unfold State.encErr
  simp only [herrs, List.filter_nil, List.length_singleton]
  rw [if_neg (by omega)]

/-- An error past QERR_LIMIT is a fault (02 R24). -/
theorem State.encErr_of_full
    (hfull : s.regFld (encPage site e + 0x40) 16 8 ≤ ((s.enc site e).errs.filter (fun k => decide ((s.enc site e).edges < k + 1024))).length) :
    ∃ x, s.encErr site e = (s.setEnc site e x).encFault site e 0x0100 := by
  unfold State.encErr
  dsimp only
  rw [if_pos (by rw [List.length_cons]; omega)]
  exact ⟨_, rfl⟩

theorem State.countError_kept (s : State) (site e bit : Nat) : Kept [.regs, .bar2, .out, .encs] s (s.countError site e bit) :=
  State.encErr_kept rfl _ _ (State.evt_kept rfl _ _ (State.widenUnc_kept rfl _ _ (Kept.refl _ s)))

/-- The registers that an error is counted in before QERR_LIMIT is judged leave QERR_LIMIT and the record. -/
theorem State.widened_leaves (s : State) (site e bit : Nat) :
    ((s.widenUnc site e).evt (encPage site e) bit).enc site e = s.enc site e ∧
      ((s.widenUnc site e).evt (encPage site e) bit).reg (encPage site e + 0x40) = s.reg (encPage site e + 0x40) := by
  constructor
  · exact State.enc_of_kept (State.evt_kept (ws := [.regs, .bar2, .out]) rfl _ _ (State.widenUnc_kept rfl _ _ (Kept.refl _ s))) site e
  · rw [State.reg_evt_page _ (encPage_aligned site e)]
    exact s.widenUnc_regs site e _ (by simp)

/-- What an error within QERR_LIMIT leaves (02 R24, R25). -/
theorem State.countError_of_first {n bit : Nat} (hb : bit < 32) (herrs : (s.enc site e).errs = [])
    (hlim : 1 ≤ s.regFld (encPage site e + 0x40) 16 8) (hn : s.regFld (encPage site e + 0x50) 0 16 = n) (h : n < 0xFFFD) :
    (s.countError site e bit).enc site e = { s.enc site e with errs := [(s.enc site e).edges] } ∧
      (s.countError site e bit).reg (encPage site e + 0x50) = BitVec.ofNat 32 (n + 2) ∧
      (s.countError site e bit).latched (encPage site e) bit = true ∧
      RegsBut ((encPage site e + 0x50) :: evtRegs (encPage site e)) s (s.countError site e bit) := by
  obtain ⟨henc, hreg⟩ := s.widened_leaves site e bit
  have heq : s.countError site e bit = ((s.setNat (encPage site e + 0x50) (n + 2)).evt (encPage site e) bit).setEnc site e
      { s.enc site e with errs := [(s.enc site e).edges] } := by
    unfold State.countError
    rw [State.encErr_of_first (by rw [henc, herrs]) (by rw [State.regFld_of_reg hreg]; exact hlim), henc, State.widenUnc_of_room hn h]
  rw [heq]
  refine ⟨State.enc_setEnc_same _ _ _ _, ?_, ?_, ?_⟩
  · rw [State.setEnc_reg, State.reg_evt_page _ (encPage_aligned site e), State.reg_setNat, if_pos rfl]
  · rw [State.latched_of_reg (State.setEnc_reg _ _ _ _ _)]
    exact State.regBit_evt _ (encPage_aligned site e) hb
  · exact (((RegsBut.refl _ s).setNat _).evt _).of_reg (State.setEnc_reg _ _ _ _)

/-- What an encoder fault leaves, from any state (02 R27). -/
theorem State.encFault_faults (s : State) (site e code : Nat) :
    (s.encFault site e code).st (encPage site e) = 5 ∧ (s.encFault site e code).reg (encPage site e + 0x50) = 0xFFFF#32 ∧
      (s.encFault site e code).latched (encPage site e) 1 = true ∧
      RegsBut ((encPage site e + 0x50) :: faultRegs (encPage site e)) s (s.encFault site e code) := by
  have aligned := encPage_aligned site e
  unfold State.encFault State.setUnc
  extract_lets p s1
  have hp : p % 0x1000 = 0 := aligned
  have hunc : p + 0x50 ∉ faultRegs p := by
    simp only [faultRegs, stRegs, List.mem_cons, not_or]
    exact ⟨by omega, by omega, by omega, not_evtReg hp (by decide) (by decide) (by decide)⟩
  have h1C : p + 0x1C ∈ faultRegs p := by simp [faultRegs]
  have hu : ∃ u, (if s1.st p = 5 then s1.faultRec p code 1 else s1.toFault p code 1) = u ∧ u.st p = 5 ∧ RegsBut (faultRegs p) s1 u := by
    refine ⟨_, rfl, ?_⟩
    split
    next h5 =>
      have hreg : RegsBut (faultRegs p) s1 (s1.faultRec p code 1) := fun a ha => s1.reg_faultRec p code 1 a (fun h => ha (h ▸ h1C))
      exact ⟨(State.st_of_reg (s1.reg_faultRec p code 1 _ (by omega))).trans h5, hreg⟩
    next => exact ⟨State.st_toFault _ hp _ _, fun a ha => s1.reg_toFault p code 1 a ha⟩
  obtain ⟨u, hu, hst, hregs⟩ := hu
  rw [hu]
  refine ⟨(State.st_evt _ hp _).trans hst, ?_, State.regBit_evt _ hp (by decide), ?_⟩
  · rw [State.reg_evt_page _ hp, hregs _ hunc, State.reg_setNat, if_pos rfl]
  · have h1 : RegsBut ((p + 0x50) :: faultRegs p) s s1 := (RegsBut.refl _ s).setNat _ List.mem_cons_self
    exact (h1.trans (hregs.mono (List.subset_cons_self _ _))).evt _ (by intro _ h; simp [faultRegs, stRegs, h])

end

/-- A QERR up to its error: both levels have changed, and QERR_CNT counts it (02 R24). -/
def State.countQerr (s : State) (site e : Nat) : State :=
  let s1 := s.setEnc site e { s.enc site e with a := !(s.enc site e).a, b := !(s.enc site e).b, lastA := some s.now, lastB := some s.now }
  s1.setNat (encPage site e + 0x54) (satNat 0xFFFF ((s1.reg (encPage site e + 0x54)).toNat + 1))

theorem State.qerrDo_eq (s : State) (site e : Nat) : s.qerrDo site e = (s.countQerr site e).countError site e 0 := rfl

theorem State.enc_countQerr (s : State) (site e : Nat) : (s.countQerr site e).enc site e =
    { s.enc site e with a := !(s.enc site e).a, b := !(s.enc site e).b, lastA := some s.now, lastB := some s.now } :=
  (State.enc_of_kept (State.setNat_kept (ws := [.regs]) rfl _ _ (Kept.refl _ _)) site e).trans (State.enc_setEnc_same _ _ _ _)

theorem State.regsBut_countQerr (s : State) (site e : Nat) : RegsBut [encPage site e + 0x54] s (s.countQerr site e) :=
  ((RegsBut.refl _ s).of_reg (State.setEnc_reg s site e _)).setNat _

theorem State.encEdgeDo_only (s : State) (site e : Nat) (lineB : Bool) : Only [.regs, .bar2, .out, .encs, .poss] s (s.encEdgeDo site e lineB) :=
  (State.encEdgeDo_kept rfl site e lineB (Kept.refl _ s)).same

theorem State.qerrDo_only (s : State) (site e : Nat) : Only [.regs, .bar2, .out, .encs] s (s.qerrDo site e) :=
  (State.qerrDo_kept rfl site e (Kept.refl _ s)).same

section
variable {s : State} {site e : Nat}

theorem exec_encoderEdge_fitted (lineB : Bool) (hf : s.isField site = true) (he : e < 8) :
    exec (.encoderEdge site e lineB) s = .next (s.encEdgeDo site e lineB) := by
  change execEncoderEdge site e lineB s = _
  rw [execEncoderEdge, if_pos ⟨hf, he⟩]

theorem exec_qerr_fitted (hf : s.isField site = true) (he : e < 8) : exec (.qerr site e) s = .next (s.qerrDo site e) := by
  change execQerr site e s = _
  rw [execQerr, if_pos ⟨hf, he⟩]

theorem exec_encLineBroken_used {pair : EncPair} (hf : s.isField site = true) (he : e < 8)
    (hz : pair ≠ .z ∨ s.regBit (encPage site e + 0x40) 9 = true) :
    exec (.encLineBroken site e pair) s = .next ((s.encFault site e 0x0101).evt (encPage site e) 6) := by
  change execEncLineBroken site e pair s = _
  rw [execEncLineBroken, if_pos ⟨hf, he, hz⟩]

end

/-- Settles O6: an edge by its record and UNC, the errors by `countError`, the faults by `encFault`. -/
theorem encoderEdgesAndErrors : Obligations.EncoderEdgesAndErrors := by
  unfold Obligations.EncoderEdgesAndErrors
  refine ⟨?edge, ?overrateEdge, ?qerr, ?qerrFault, ?broken⟩
  case edge =>
    intro s site e lineB hf he hslow
    refine ⟨_, exec_encoderEdge_fitted lineB hf he, ?_⟩
    have honly := s.encEdgeDo_only site e lineB
    have hdo : s.encEdgeDo site e lineB = (s.countEdge site e lineB).trackPos site e := by
      rw [State.encEdgeDo_eq, hslow, if_neg (by decide)]
    have htrack := (s.countEdge site e lineB).trackPos_only_poss site e
    have henc : (s.encEdgeDo site e lineB).enc site e = s.edged site e lineB := by
      rw [hdo, State.enc_of_kept htrack, State.enc_countEdge]
    rw [henc]
    refine ⟨encEdge_count _ _ _ _, encEdge_a _ _ _ _, encEdge_b _ _ _ _, rfl, rfl, honly, ?_⟩
    rw [hdo]
    exact (s.regsBut_countEdge site e lineB).of_kept htrack
  case overrateEdge =>
    intro s site e n lineB hf he hfast herrs hlim hn hroom
    refine ⟨_, exec_encoderEdge_fitted lineB hf he, ?_⟩
    have honly := s.encEdgeDo_only site e lineB
    have hdo : s.encEdgeDo site e lineB = ((s.countEdge site e lineB).countError site e 4).trackPos site e := by
      rw [State.encEdgeDo_eq, hfast, if_pos rfl]
    have henc := s.enc_countEdge site e lineB
    have hregs := s.regsBut_countEdge site e lineB
    obtain ⟨hrec, hunc, hlatched, hbut⟩ := State.countError_of_first (s := s.countEdge site e lineB) (site := site) (e := e) (n := n) (bit := 4)
      (by decide) (by rw [henc]; exact herrs) (by rw [State.regFld_of_reg (hregs _ (encReg_not_edgeReg site e))]; exact hlim)
      (by rw [State.regFld_of_reg (hregs _ (encReg_not_edgeReg site e))]; exact hn) hroom
    have htrack := ((s.countEdge site e lineB).countError site e 4).trackPos_only_poss site e
    have hreg := State.reg_of_kept htrack
    refine ⟨?_, ?_, ?_, honly, ?_⟩
    · rw [hdo, hreg, hunc]
    · rw [hdo, State.latched_of_reg (hreg _), hlatched]
    · rw [hdo, State.enc_of_kept htrack, hrec, henc]
      rfl
    · rw [hdo]
      exact ((hregs.mono (List.subset_cons_self _ _)).trans (hbut.mono (List.cons_subset_cons _ (List.subset_cons_self _ _)))).of_kept htrack
  case qerr =>
    intro s site e n c hf he herrs hlim hn hroom hc hcount
    refine ⟨_, exec_qerr_fitted hf he, ?_⟩
    have honly := s.qerrDo_only site e
    have henc := s.enc_countQerr site e
    have hregs := s.regsBut_countQerr site e
    have hreg : ∀ {off}, off ≠ 0x54 → (s.countQerr site e).reg (encPage site e + off) = s.reg (encPage site e + off) :=
      fun ho => hregs _ (by simpa using ho)
    rw [State.qerrDo_eq] at honly ⊢
    obtain ⟨hrec, hunc, hlatched, hbut⟩ := State.countError_of_first (s := s.countQerr site e) (site := site) (e := e) (n := n) (bit := 0)
      (by decide) (by rw [henc]; exact herrs) (by rw [State.regFld_of_reg (hreg (by decide))]; exact hlim)
      (by rw [State.regFld_of_reg (hreg (by decide))]; exact hn) hroom
    have hcnt : encPage site e + 0x54 ∉ (encPage site e + 0x50) :: evtRegs (encPage site e) := by
      rw [List.mem_cons, not_or]
      exact ⟨by omega, not_evtReg (encPage_aligned site e) (by decide) (by decide) (by decide)⟩
    rw [hrec, henc]
    refine ⟨rfl, rfl, rfl, ?_, hunc, hlatched, honly, ?_⟩
    · rw [hbut _ hcnt, State.countQerr, State.reg_setNat, if_pos rfl, State.setEnc_reg, hc, satNat, if_neg (by omega)]
    · exact (hregs.mono (by simp)).trans (hbut.mono (List.cons_subset_cons _ (List.subset_cons_self _ _)))
  case qerrFault =>
    intro s site e hf he hfull
    refine ⟨_, exec_qerr_fitted hf he, ?_⟩
    have honly := s.qerrDo_only site e
    have henc := s.enc_countQerr site e
    have hlim : (s.countQerr site e).reg (encPage site e + 0x40) = s.reg (encPage site e + 0x40) := s.regsBut_countQerr site e _ (by simp)
    rw [State.qerrDo_eq] at honly ⊢
    obtain ⟨henc', hlim'⟩ := (s.countQerr site e).widened_leaves site e 0
    obtain ⟨x, hx⟩ := State.encErr_of_full (s := ((s.countQerr site e).widenUnc site e).evt (encPage site e) 0) (site := site) (e := e)
      (by rw [henc', henc, State.regFld_of_reg (hlim'.trans hlim)]; exact hfull)
    obtain ⟨hst, hunc, hlatched, -⟩ := State.encFault_faults
      ((((s.countQerr site e).widenUnc site e).evt (encPage site e) 0).setEnc site e x) site e 0x0100
    rw [State.countError, hx] at honly ⊢
    exact ⟨hst, hunc, hlatched, honly⟩
  case broken =>
    intro s site e pair hf he hz
    refine ⟨_, exec_encLineBroken_used hf he hz, ?_⟩
    have aligned := encPage_aligned site e
    obtain ⟨hst, hunc, -, hbut⟩ := s.encFault_faults site e 0x0101
    refine ⟨(State.st_evt _ aligned _).trans hst, ?_, State.regBit_evt _ aligned (by decide),
      (State.evt_kept rfl _ _ (State.encFault_kept rfl _ _ _ (Kept.refl _ s))).same, ?_⟩
    · rw [State.reg_evt_page _ aligned, hunc]
    · exact hbut.evt _ (by intro _ h; simp [faultRegs, stRegs, h])

end Sys2Proof.Machine

/-!
The index of an encoder (02 R30), UNC_CLR (R29, R484) and PERIOD at rest (R28).
-/
namespace Sys2Proof.Machine

/-- An index edge up to its verification: the index count is noted, and INDEX_POS shows it. -/
def State.noteIndex (s : State) (site e : Nat) : State :=
  ((s.setEnc site e { s.enc site e with idx := some (s.enc site e).count }).setReg (encPage site e + 0x5C) (wordOfInt (s.enc site e).count)).evt
    (encPage site e) 2

/-- The signed distance of the count from where the previous index count puts the next one (02 R30). -/
def State.indexDev (s : State) (site e : Nat) (k : Int) : Int :=
  (s.enc site e).count - (if (s.enc site e).dir = some false then k - ((s.reg (encPage site e + 0x44)).toNat : Int)
    else k + ((s.reg (encPage site e + 0x44)).toNat : Int))

/-- An index edge with its deviation shown. -/
def State.showIndex (s : State) (site e : Nat) (dev : Int) : State := (s.noteIndex site e).setReg (encPage site e + 0x60) (wordOfInt dev)

section
variable {s : State} {site e : Nat} {k : Int}

theorem State.indexDo_of_verified (hidx : (s.enc site e).idx = some k) (hknown : s.regFld (encPage site e + 0x50) 0 16 ≠ 0xFFFF)
    (hdev : (s.indexDev site e k).natAbs ≤ s.regFld (encPage site e + 0x50) 0 16) (hst : s.st (encPage site e) ≠ 5) :
    s.indexDo site e = (s.showIndex site e (s.indexDev site e k)).setNat (encPage site e + 0x50) 0 := by
  unfold State.indexDo
  simp only [hidx]
  rw [if_neg, if_neg hst]
  · rfl
  · rintro (⟨h, -⟩ | ⟨-, h⟩)
    · exact hknown h
    · exact absurd h (Nat.not_lt.mpr hdev)

theorem State.indexDo_of_mismatch (hidx : (s.enc site e).idx = some k) (hknown : s.regFld (encPage site e + 0x50) 0 16 ≠ 0xFFFF)
    (hdev : s.regFld (encPage site e + 0x50) 0 16 < (s.indexDev site e k).natAbs) :
    s.indexDo site e = (s.showIndex site e (s.indexDev site e k)).evt (encPage site e) 3 := by
  unfold State.indexDo
  simp only [hidx]
  rw [if_pos (Or.inr ⟨hknown, hdev⟩)]
  rfl

end

/-- The registers that an index edge shows in before it is judged. -/
def indexRegs (p : Nat) : List Nat := (p + 0x5C) :: (p + 0x60) :: evtRegs p

/-- What noting the index count leaves (02 R30). -/
theorem State.noteIndex_notes (s : State) (site e : Nat) :
    (s.noteIndex site e).reg (encPage site e + 0x5C) = wordOfInt (s.enc site e).count ∧
      ((s.noteIndex site e).enc site e).idx = some (s.enc site e).count ∧ (s.noteIndex site e).latched (encPage site e) 2 = true ∧
      RegsBut ((encPage site e + 0x5C) :: evtRegs (encPage site e)) s (s.noteIndex site e) := by
  have aligned := encPage_aligned site e
  unfold State.noteIndex
  generalize hu : s.setEnc site e { s.enc site e with idx := some (s.enc site e).count } = u
  have hreg : ∀ a, u.reg a = s.reg a := fun a => by rw [← hu, State.setEnc_reg]
  have henc : u.enc site e = { s.enc site e with idx := some (s.enc site e).count } := by rw [← hu, State.enc_setEnc_same]
  have hkept : Kept [.regs, .bar2, .out] u ((u.setReg (encPage site e + 0x5C) (wordOfInt (s.enc site e).count)).evt (encPage site e) 2) :=
    State.evt_kept rfl _ _ (State.setReg_kept rfl _ _ (Kept.refl _ u))
  refine ⟨?_, ?_, State.regBit_evt _ aligned (by decide), (((RegsBut.refl _ s).of_reg hreg).setReg _).evt _⟩
  · rw [State.reg_evt_page _ aligned, State.reg_setReg_same]
  · rw [State.enc_of_kept hkept, henc]

theorem indexRegs_subset (p : Nat) : indexRegs p ⊆ (p + 0x5C) :: (p + 0x60) :: (p + 0x50) :: evtRegs p := by
  intro a ha
  simp only [indexRegs, List.mem_cons] at ha ⊢
  tauto

theorem unc_not_indexReg (site e : Nat) : encPage site e + 0x50 ∉ indexRegs (encPage site e) := by
  rw [indexRegs, List.mem_cons, List.mem_cons, not_or, not_or]
  exact ⟨by omega, by omega, not_evtReg (encPage_aligned site e) (by decide) (by decide) (by decide)⟩

/-- UNC written leaves the page's other registers. -/
theorem State.reg_setUnc_ne (s : State) (site e n : Nat) {off : Nat} (h : off ≠ 0x50) :
    (s.setNat (encPage site e + 0x50) n).reg (encPage site e + off) = s.reg (encPage site e + off) := by
  rw [State.reg_setNat, if_neg (by omega)]

/-- What an index edge shows before it is judged (02 R30). -/
theorem State.showIndex_shows (s : State) (site e : Nat) (dev : Int) :
    (s.showIndex site e dev).reg (encPage site e + 0x5C) = wordOfInt (s.enc site e).count ∧
      (s.showIndex site e dev).reg (encPage site e + 0x60) = wordOfInt dev ∧
      ((s.showIndex site e dev).enc site e).idx = some (s.enc site e).count ∧
      (s.showIndex site e dev).latched (encPage site e) 2 = true ∧
      RegsBut (indexRegs (encPage site e)) s (s.showIndex site e dev) := by
  obtain ⟨hpos, hidx, hlatched, hbut⟩ := s.noteIndex_notes site e
  have hreg : ∀ {off}, off ≠ 0x60 → (s.showIndex site e dev).reg (encPage site e + off) = (s.noteIndex site e).reg (encPage site e + off) :=
    fun ho => State.reg_setReg_ne _ _ (by omega)
  have henc : (s.showIndex site e dev).enc site e = (s.noteIndex site e).enc site e :=
    State.enc_of_kept (State.setReg_kept (ws := [.regs]) rfl _ _ (Kept.refl _ _)) site e
  refine ⟨(hreg (by decide)).trans hpos, State.reg_setReg_same _ _ _, ?_, (State.latched_of_reg (hreg (by decide)) 2).trans hlatched, ?_⟩
  · rw [henc, hidx]
  · exact (hbut.mono (List.cons_subset_cons _ (List.subset_cons_self _ _))).setReg _

/-- A filtered Z edge: the level follows it. -/
def State.zEdge (s : State) (site e : Nat) (rising : Bool) : State := s.setEnc site e { s.enc site e with z := rising }

section
variable (s : State) (site e : Nat) (rising : Bool)

theorem State.enc_zEdge : (s.zEdge site e rising).enc site e = { s.enc site e with z := rising } := State.enc_setEnc_same _ _ _ _

theorem State.reg_zEdge (a : Nat) : (s.zEdge site e rising).reg a = s.reg a := rfl

theorem State.indexDev_zEdge (k : Int) : (s.zEdge site e rising).indexDev site e k = s.indexDev site e k := by
  rw [State.indexDev, State.enc_zEdge, State.reg_zEdge]
  rfl

theorem State.indexDo_zEdge_only : Only [.regs, .bar2, .out, .encs] s ((s.zEdge site e rising).indexDo site e) :=
  (State.indexDo_kept rfl site e (State.setEnc_kept rfl site e _ (Kept.refl _ s))).same

end

theorem exec_index_selected {s : State} {site e : Nat} {rising : Bool} (hf : s.isField site = true) (he : e < 8)
    (hz : s.regBit (encPage site e + 0x40) 9 = true) (hcpr : s.reg (encPage site e + 0x44) ≠ 0#32)
    (hpol : rising ≠ s.regBit (encPage site e + 0x40) 10) :
    exec (.index site e rising) s = .next ((s.zEdge site e rising).indexDo site e) := by
  change execIndex site e rising s = _
  rw [execIndex, if_pos ⟨hf, he⟩]
  exact if_pos ⟨hz, hcpr, hpol⟩

theorem exec_uncClr_takes {s : State} {req site e : Nat} (h : s.takes 0x30 req site (0x10 + e) 0x6C = true) :
    exec (.uncClr req site e) s = .next (s.uncClr req site e) := by
  change execUncClr req site e s = _
  rw [execUncClr, State.directWrite_takes h]

theorem exec_periodNoMotion_still {s : State} {site e n : Nat} (hf : s.isField site = true) (he : e < 8) (hlast : (s.enc site e).last = some n)
    (hnow : n + 0xFFFFFF ≤ s.now) : exec (.periodNoMotion site e) s = .next (s.setNat (encPage site e + 0x58) 0xFFFFFF) := by
  change execPeriodNoMotion site e s = _
  unfold execPeriodNoMotion
  rw [hlast]
  exact if_pos ⟨hf, he, hnow⟩

/-- A rejected write shows its reason and is latched, and nothing else has changed (03 R71). -/
theorem State.reject_records (s : State) {p : Nat} (hp : p % 0x1000 = 0) (req off reason : Nat) :
    (s.reject req p off reason).reg (p + 0x34) = BitVec.ofNat 32 (off % 4096 + reason * 2 ^ 12 + req % 32 * 2 ^ 16) ∧
      (s.reject req p off reason).latched p 24 = true ∧ Only [.regs, .bar2, .out] s (s.reject req p off reason) ∧
      RegsBut (rejRegs p) s (s.reject req p off reason) :=
  ⟨s.rejInfo_reject hp req off reason, s.latched_reject hp req off reason, (State.reject_kept rfl _ _ _ _ (Kept.refl _ s)).same,
    regsBut_reject s req p off reason⟩

/-- Settles O7: an index edge by what it shows and how it is judged; UNC_CLR and PERIOD by their one register. -/
theorem indexUncertaintyAndPeriod : Obligations.IndexUncertaintyAndPeriod := by
  unfold Obligations.IndexUncertaintyAndPeriod
  refine ⟨?verified, ?mismatch, ?clear, ?clearInFault, ?still⟩
  case verified =>
    intro s site e rising k dev hf he hz hcpr hpol hidx hdev hknown hwithin hst
    refine ⟨_, exec_index_selected hf he hz hcpr hpol, ?_⟩
    have henc := s.enc_zEdge site e rising
    have hdev' : (s.zEdge site e rising).indexDev site e k = dev := (s.indexDev_zEdge site e rising k).trans hdev.symm
    have honly := s.indexDo_zEdge_only site e rising
    have hreg := s.reg_zEdge site e rising
    have hunc := State.regFld_of_reg (hreg (encPage site e + 0x50)) 0 16
    rw [State.indexDo_of_verified (s := s.zEdge site e rising) (k := k) (by rw [henc]; exact hidx) (hunc.trans_ne hknown) (by rwa [hunc, hdev'])
      (by rwa [State.st_of_reg (hreg _)]), hdev'] at honly ⊢
    obtain ⟨hpos, hshown, hnoted, hlatched, hbut⟩ := (s.zEdge site e rising).showIndex_shows site e dev
    rw [henc] at hpos hnoted
    have hoff : ∀ {off}, off ≠ 0x50 → (((s.zEdge site e rising).showIndex site e dev).setNat (encPage site e + 0x50) 0).reg (encPage site e + off) =
        ((s.zEdge site e rising).showIndex site e dev).reg (encPage site e + off) := State.reg_setUnc_ne _ site e 0
    refine ⟨(hoff (by decide)).trans hpos, (hoff (by decide)).trans hshown, by rw [State.reg_setNat, if_pos rfl], ?_,
      (State.latched_of_reg (hoff (by decide)) 2).trans hlatched, honly, ?_⟩
    · exact (congrArg Enc.idx (State.enc_of_kept (State.setNat_kept (ws := [.regs]) rfl _ _ (Kept.refl _ _)) site e)).trans hnoted
    · exact (((RegsBut.refl _ s).of_reg hreg).trans (hbut.mono (indexRegs_subset _))).setNat _
  case mismatch =>
    intro s site e rising k dev hf he hz hcpr hpol hidx hdev hknown hbeyond
    refine ⟨_, exec_index_selected hf he hz hcpr hpol, ?_⟩
    have henc := s.enc_zEdge site e rising
    have hdev' : (s.zEdge site e rising).indexDev site e k = dev := (s.indexDev_zEdge site e rising k).trans hdev.symm
    have honly := s.indexDo_zEdge_only site e rising
    have hreg := s.reg_zEdge site e rising
    have hunc := State.regFld_of_reg (hreg (encPage site e + 0x50)) 0 16
    rw [State.indexDo_of_mismatch (s := s.zEdge site e rising) (k := k) (by rw [henc]; exact hidx) (hunc.trans_ne hknown) (by rwa [hunc, hdev']), hdev'] at honly ⊢
    obtain ⟨-, hshown, -, -, hbut⟩ := (s.zEdge site e rising).showIndex_shows site e dev
    have aligned := encPage_aligned site e
    have hall : RegsBut (indexRegs (encPage site e)) s (((s.zEdge site e rising).showIndex site e dev).evt (encPage site e) 3) :=
      (((RegsBut.refl _ s).of_reg hreg).trans hbut).evt _ (by intro _ h; simp [indexRegs, h])
    exact ⟨(State.reg_evt_page _ aligned _).trans hshown, hall _ (unc_not_indexReg site e), State.regBit_evt _ aligned (by decide), honly, hall⟩
  case clear =>
    intro s req site e htakes hst
    refine ⟨_, exec_uncClr_takes htakes, ?_⟩
    have hclr : s.uncClr req site e = s.setNat (encPage site e + 0x50) 0 := if_neg hst
    rw [hclr]
    exact ⟨by rw [State.reg_setNat, if_pos rfl], (State.setNat_kept rfl _ _ (Kept.refl _ s)).same, (RegsBut.refl _ s).setNat _⟩
  case clearInFault =>
    intro s req site e htakes hst
    refine ⟨_, exec_uncClr_takes htakes, ?_⟩
    have hclr : s.uncClr req site e = s.reject req (encPage site e) 0x6C 5 := if_pos hst
    rw [hclr]
    exact s.reject_records (encPage_aligned site e) req 0x6C 5
  case still =>
    intro s site e n hf he hlast hnow
    refine ⟨_, exec_periodNoMotion_still hf he hlast hnow, ?_, (State.setNat_kept rfl _ _ (Kept.refl _ s)).same, (RegsBut.refl _ s).setNat _⟩
    rw [State.reg_setNat, if_pos rfl]

end Sys2Proof.Machine

/-!
Line triggers and pitch changes (02 R31, R33, R39 to R44).
-/
namespace Sys2Proof.Machine

theorem puPage_aligned (site g : Nat) : puPage site g % 0x1000 = 0 := pg_aligned _ _

theorem State.pos_setPos_ne (s : State) {site g j : Nat} (x : Pos) (h : g ≠ j) : (s.setPos site j x).pos site g = s.pos site g :=
  tabGet_tabPut_ne _ _ _ _ (by omega)

/-- Following POS leaves of a position unit all but whether POS has been below NEXT_POS. -/
theorem State.pos_trackPos (s : State) (site e g : Nat) : ∃ b, (s.trackPos site e).pos site g = { s.pos site g with below := b } := by
  unfold State.trackPos
  refine List.foldlRecOn (motive := fun u : State => ∃ b, u.pos site g = { s.pos site g with below := b }) _ _ ⟨(s.pos site g).below, rfl⟩ ?_
  rintro u ⟨b, hu⟩ j -
  dsimp only
  split
  · by_cases hj : g = j
    · subst hj
      exact ⟨true, by rw [State.pos_setPos_same, hu]⟩
    · exact ⟨b, by rw [State.pos_setPos_ne _ _ hj, hu]⟩
  · exact ⟨b, hu⟩

/-- The trigger position after line L of a run of one pitch (02 R31). -/
theorem tpOf_single (org : Int) (pitch l : Nat) : tpOf [(0, org, pitch)] l = org + (l : Int) * pitch := by
  simp [tpOf]

/-- A line triggered in a run of one pitch: the next one lies a pitch further (02 R31, R33). -/
theorem State.pos_capture_of_run {s : State} {site g pitch : Nat} {org : Int} (hruns : (s.pos site g).runs = [(0, org, pitch)])
    (hpitch : (s.reg (puPage site g + 0x44)).toNat = pitch) (late : Bool) :
    ∃ b, (s.capture site g late).pos site g = { s.pos site g with
      line := (s.pos site g).line + 1, next := org + (((s.pos site g).line + 1 : Nat) : Int) * pitch, below := b, lastTrig := some s.now } := by
  unfold State.capture
  extract_lets x l gt rescan e pitch' runs now old used snaps unc retaken flags at_ cap s1 nx s2 p s3 row s4 last
  have hrun : runs = x.runs := by
    unfold runs
    split
    next h => exact absurd (h.symm.trans hruns) (List.cons_ne_nil _ _).symm
    next f tp q rest h =>
      have hq : q = pitch' := by
        have := h.symm.trans hruns
        simp only [List.cons.injEq, Prod.mk.injEq] at this
        exact this.1.2.2.trans hpitch.symm
      rw [if_pos (Or.inr hq), h]
  have hnx : nx = org + ((l + 1 : Nat) : Int) * pitch := by
    unfold nx
    rw [hrun, hruns, tpOf_single]
  have h2 : s2.pos site g = { x with line := l + 1, next := nx, below := false, lastTrig := some s.now, runs := runs } := State.pos_setPos_same _ _ _ _
  have hk : Kept [.regs, .bar2, .out, .rings, .strms, .free] s2 ((used.2.foldl (fun s k => s.takeLine site k row) s3).restartDone site g) := by
    refine State.restartDone_kept rfl site g (Kept.foldl (fun t k ht => State.takeLine_kept rfl site k row ht) _ _ ?_)
    exact State.setNat_kept rfl _ _ (State.setReg_kept rfl _ _ (State.setNat_kept rfl _ _ (State.setNat_kept rfl _ _ (Kept.refl _ s2))))
  obtain ⟨b, hb⟩ := State.pos_trackPos ((used.2.foldl (fun s k => s.takeLine site k row) s3).restartDone site g) site e g
  have hlate : Kept [.regs, .bar2, .out, .gates] s4 (if nx / 256 ≤ s.encPos site e then (s4.setGate site g { last with late := true }).evt p 2 else s4) :=
    Kept.ite (State.evt_kept rfl _ _ (State.setGate_kept rfl site g _ (Kept.refl _ s4))) (Kept.refl _ s4)
  refine ⟨b, ?_⟩
  rw [State.pos_of_kept hlate, hb, State.pos_of_kept hk, h2, hrun, hnx]

/-- With no action due at it, a new line is triggered at once (02 R43, R44). -/
theorem State.startLine_of_quiet {s : State} {site g : Nat} (hacts : s.lineActs site g (s.pos site g).line = [])
    (hnew : (s.gate site g).top ≤ (s.pos site g).line) (late : Bool) : s.startLine site g late = s.capture site g late := by
  unfold State.startLine
  dsimp only
  rw [if_neg (Nat.not_lt.mpr hnew), hacts]
  rfl

/-- What starting a new line in a run of one pitch leaves of the position unit. -/
theorem State.startLine_leaves {s : State} {site g l pitch : Nat} {org : Int} (hacts : s.lineActs site g (s.pos site g).line = [])
    (hl : (s.pos site g).line = l) (hnew : (s.gate site g).top ≤ l) (hruns : (s.pos site g).runs = [(0, org, pitch)])
    (hpitch : (s.reg (puPage site g + 0x44)).toNat = pitch) (late : Bool) :
    ((s.startLine site g late).pos site g).line = l + 1 ∧
      ((s.startLine site g late).pos site g).next = org + ((l + 1 : Nat) : Int) * pitch ∧
      ((s.startLine site g late).pos site g).lastTrig = some s.now := by
  subst hl
  obtain ⟨b, hb⟩ := State.pos_capture_of_run hruns hpitch late
  rw [State.startLine_of_quiet hacts hnew, hb]
  exact ⟨rfl, rfl, rfl⟩

theorem State.startLine_only (s : State) (site g : Nat) (late : Bool) :
    Only [.regs, .bar2, .out, .encs, .poss, .segArms, .slots, .meters, .calibs, .mons, .ram, .hmem, .rings, .strms, .gates, .axes, .grps,
      .slotRings, .cueQs, .binFlags, .slates, .cancels, .tqs, .dqs, .cores, .cmbs, .engs, .poison, .free] s (s.startLine site g late) :=
  (State.startLine_kept rfl site g late (Kept.refl _ s)).same

section
variable {s : State} {site g : Nat}

theorem exec_lineTrigger_at (htrig : s.triggers site g = true) (hbelow : (s.pos site g).below = true)
    (hat : (s.pos site g).next / 256 ≤ s.encPos site (s.encOf site g)) (hlate : (s.gate site g).late = false) :
    exec (.lineTrigger site g) s = .next (if s.sensorReady site g then s.startLine site g false
      else (s.setGate site g { s.gate site g with late := true }).evt (puPage site g) 2) := by
  change execLineTrigger site g s = _
  unfold execLineTrigger
  dsimp only
  rw [if_pos ⟨htrig, hbelow, hat, hlate⟩]

theorem exec_lateTrigger_ready (htrig : s.triggers site g = true) (hlate : (s.gate site g).late = true) (hready : s.sensorReady site g = true) :
    exec (.lateTrigger site g) s = .next (s.startLine site g true) := by
  change execLateTrigger site g s = _
  rw [execLateTrigger, if_pos ⟨htrig, hlate, hready⟩]

theorem exec_pitchArm_takes {req : Nat} {val : Word} (h : s.takes 0x31 req site (0x18 + g) 0x5C = true) :
    exec (.pitchArm req site g val) s = .next (s.pitchCtl req site g val) := by
  change execPitchArm req site g val s = _
  rw [execPitchArm, State.directWrite_takes h]

end

/-- PITCH_CTL with its ARMED bit set: POLICY takes the written bit, and a written 1 clears LATE. -/
def State.showPitchArm (s : State) (site g : Nat) (val : Word) : State :=
  (((s.putBit (puPage site g + 0x5C) 1 (bitOf val 1)).putBit (puPage site g + 0x5C) 9
    (s.regBit (puPage site g + 0x5C) 9 && !bitOf val 9))).putBit (puPage site g + 0x5C) 8 true

/-- An armed pitch change is held with PITCH_NEXT, and takes its place in arming order (02 R42, R44). -/
def State.holdPitch (s : State) (site g : Nat) (a : Armed) : State :=
  ({ s with order := s.order + 1 } : State).setPos site g { s.pos site g with pitchArm := some a, pitchNext := (s.reg (puPage site g + 0x50)).toNat }

section
variable {s : State} {site g : Nat}

theorem State.showPitchArm_kept (s : State) (site g : Nat) (val : Word) : Kept [.regs] s (s.showPitchArm site g val) :=
  State.putBit_kept rfl _ _ _ (State.putBit_kept rfl _ _ _ (State.putBit_kept rfl _ _ _ (Kept.refl _ s)))

theorem State.regsBut_showPitchArm (s : State) (site g : Nat) (val : Word) : RegsBut [puPage site g + 0x5C] s (s.showPitchArm site g val) :=
  (((RegsBut.refl _ s).putBit _ _).putBit _ _).putBit _ _

theorem State.armed_showPitchArm (s : State) (site g : Nat) (val : Word) : (s.showPitchArm site g val).regBit (puPage site g + 0x5C) 8 = true := by
  unfold State.showPitchArm State.regBit
  rw [State.reg_putBit, if_pos rfl]
  exact bitOf_setBit _ (by decide) _

theorem State.holdPitch_kept (s : State) (site g : Nat) (a : Armed) : Kept [.poss, .order] s (s.holdPitch site g a) :=
  State.setPos_kept rfl site g _ (Kept.set_order _ rfl (Kept.refl _ s))

theorem State.pos_holdPitch (s : State) (site g : Nat) (a : Armed) :
    (s.holdPitch site g a).pos site g = { s.pos site g with pitchArm := some a, pitchNext := (s.reg (puPage site g + 0x50)).toNat } :=
  State.pos_setPos_same _ _ _ _

theorem State.order_holdPitch (s : State) (site g : Nat) (a : Armed) : (s.holdPitch site g a).order = s.order + 1 := rfl

theorem State.pitchCtl_of_arm {req : Nat} {val : Word} {w : When} (harm : bitOf val 0 = true) (hnext : s.reg (puPage site g + 0x50) ≠ 0#32)
    (hw : decodeWhen s.asm (s.wide (puPage site g + 0x54)) = some w)
    (hkind : w.kind = 0 ∨ (w.kind = 1 ∧ s.lineOf site g (s.armed site w (bitOf val 1)) = true)) :
    s.pitchCtl req site g val = (s.showPitchArm site g val).armPitch site g w (s.armed site w (bitOf val 1)) := by
  unfold State.pitchCtl
  extract_lets p base
  rw [if_neg (by rw [harm]; decide), if_neg hnext]
  split
  next h => exact absurd (h.symm.trans hw) (Option.some_ne_none _).symm
  next w' h =>
    obtain rfl : w' = w := Option.some.inj (h.symm.trans hw)
    extract_lets a
    rw [if_neg (not_not.mpr hkind), State.showPitchArm]

theorem State.armPitch_of_held {w : When} {a : Armed} (hkind : w.kind ≠ 0) (hlate : a.late = false) : s.armPitch site g w a = s.holdPitch site g a := by
  unfold State.armPitch
  dsimp only
  rw [if_neg]
  · rfl
  · rintro (h | ⟨h, -⟩)
    · exact hkind h
    · rw [hlate] at h
      cases h

theorem State.armPitch_of_now {w : When} {a : Armed} (hkind : w.kind = 0) :
    s.armPitch site g w a = (s.holdPitch site g a).pitchRun site g (s.pos site g).line a a.late :=
  if_pos (Or.inl hkind)

/-- A pitch change that is not late sets PITCH to the value held at ARM (02 R44). -/
theorem State.pitchRun_of_due (line : Nat) (a : Armed) : s.pitchRun site g line a false =
    (((s.setPos site g { s.pos site g with pitchArm := none }).putBit (puPage site g + 0x5C) 8 false).setNat (puPage site g + 0x44)
      (s.pos site g).pitchNext).evt (puPage site g) 0 := by
  unfold State.pitchRun
  dsimp only
  rw [if_neg (by simp), if_neg (by decide)]

end

/-- The bits of NOW (02 R39). -/
theorem decodeWhen_zero (asm : Nat) : decodeWhen asm 0 = some { kind := 0 } := rfl

/-- No action for now is late (02 R40). -/
theorem State.late_armed_now (s : State) (site : Nat) (discard : Bool) : (s.armed site { kind := 0 } discard).late = false := rfl

/-- Settles O8: a line by what `startLine` leaves of the position unit, a pitch change by what ARM holds and what its run writes. -/
theorem lineTriggersAndPitch : Obligations.LineTriggersAndPitch := by
  unfold Obligations.LineTriggersAndPitch
  refine ⟨?line, ?notReady, ?lateLine, ?armed, ?now⟩
  case line =>
    intro s site g l org pitch htrig hbelow hat hlate hready hacts hl hnew hruns hpitch
    obtain ⟨hline, hnext, hlast⟩ := State.startLine_leaves hacts hl hnew hruns hpitch false
    refine ⟨_, ?_, hline, hnext, hlast, s.startLine_only site g false⟩
    rw [exec_lineTrigger_at htrig hbelow hat hlate, if_pos hready]
  case notReady =>
    intro s site g htrig hbelow hat hlate hready
    have hkept : Kept [.regs, .bar2, .out] (s.setGate site g { s.gate site g with late := true })
        ((s.setGate site g { s.gate site g with late := true }).evt (puPage site g) 2) := State.evt_kept rfl _ _ (Kept.refl _ _)
    refine ⟨(s.setGate site g { s.gate site g with late := true }).evt (puPage site g) 2, ?_, ?_, State.pos_of_kept hkept site g,
      State.regBit_evt _ (puPage_aligned site g) (by decide), ?_, ?_⟩
    · rw [exec_lineTrigger_at htrig hbelow hat hlate, if_neg (by rw [hready]; decide)]
    · rw [State.gate_of_kept hkept, State.gate_setGate_same]
    · exact (State.evt_kept rfl _ _ (State.setGate_kept rfl site g _ (Kept.refl _ s))).same
    · exact ((RegsBut.refl _ s).of_reg (State.setGate_reg s site g _)).evt _
  case lateLine =>
    intro s site g l org pitch htrig hlate hready hacts hl hnew hruns hpitch
    obtain ⟨hline, hnext, -⟩ := State.startLine_leaves hacts hl hnew hruns hpitch true
    exact ⟨_, exec_lateTrigger_ready htrig hlate hready, hline, hnext, s.startLine_only site g true⟩
  case armed =>
    intro s req site g val w htakes harm hnext hw hkind hline hpassed
    refine ⟨_, exec_pitchArm_takes htakes, ?_⟩
    rw [State.pitchCtl_of_arm harm hnext hw (Or.inr ⟨hkind, hline⟩), State.armPitch_of_held (by omega) hpassed]
    have hshow := s.showPitchArm_kept site g val
    have hregs := s.regsBut_showPitchArm site g val
    have hreg : ∀ {off}, off ≠ 0x5C → (s.showPitchArm site g val).reg (puPage site g + off) = s.reg (puPage site g + off) :=
      fun ho => hregs _ (by simpa using ho)
    have hhold := (s.showPitchArm site g val).holdPitch_kept site g (s.armed site w (bitOf val 1))
    have hpos := (s.showPitchArm site g val).pos_holdPitch site g (s.armed site w (bitOf val 1))
    refine ⟨?_, ?_, ?_, ?_, ?_, ?_, hregs.of_kept hhold⟩
    · rw [hpos]
    · rw [hpos, hreg (by decide)]
    · rw [State.order_holdPitch, hshow.same .order (by decide)]
    · rw [State.regBit_of_reg (State.reg_of_kept hhold _), State.armed_showPitchArm]
    · rw [State.reg_of_kept hhold, hreg (by decide)]
    · exact ((hshow.mono (w := [.regs, .bar2, .out, .poss, .order]) rfl).trans (hhold.mono rfl)).same
  case now =>
    intro s req site g val htakes harm hnext hwhen
    refine ⟨_, exec_pitchArm_takes htakes, ?_⟩
    have aligned := puPage_aligned site g
    rw [State.pitchCtl_of_arm (w := { kind := 0 }) harm hnext (by rw [hwhen, decodeWhen_zero]) (Or.inl rfl), State.armPitch_of_now rfl,
      State.late_armed_now, State.pitchRun_of_due]
    generalize hu : (s.showPitchArm site g val).holdPitch site g (s.armed site { kind := 0 } (bitOf val 1)) = u
    have hkept : Kept [.regs, .poss, .order] s u := by
      rw [← hu]
      exact ((s.showPitchArm_kept site g val).mono rfl).trans ((State.holdPitch_kept _ site g _).mono rfl)
    have hregs : RegsBut [puPage site g + 0x5C] s u := by
      rw [← hu]
      exact (s.regsBut_showPitchArm site g val).of_kept (State.holdPitch_kept _ site g _)
    have hheld : (u.pos site g).pitchNext = (s.reg (puPage site g + 0x50)).toNat := by
      rw [← hu, State.pos_holdPitch, s.regsBut_showPitchArm site g val _ (by simp)]
    have hlast : Kept [.regs, .bar2, .out] (u.setPos site g { u.pos site g with pitchArm := none })
        ((((u.setPos site g { u.pos site g with pitchArm := none }).putBit (puPage site g + 0x5C) 8 false).setNat (puPage site g + 0x44)
          (u.pos site g).pitchNext).evt (puPage site g) 0) :=
      State.evt_kept rfl _ _ (State.setNat_kept rfl _ _ (State.putBit_kept rfl _ _ _ (Kept.refl _ _)))
    refine ⟨?_, ?_, State.regBit_evt _ aligned (by decide), ?_, ?_⟩
    · rw [State.reg_evt_page _ aligned, State.reg_setNat, if_pos rfl, hheld, BitVec.ofNat_toNat, BitVec.setWidth_eq]
    · rw [State.pos_of_kept hlast, State.pos_setPos_same]
    · exact ((hkept.mono rfl).trans ((State.setPos_kept rfl site g _ (Kept.refl _ u)).trans (hlast.mono rfl))).same
    · have h0 : RegsBut ((puPage site g + 0x5C) :: (puPage site g + 0x44) :: evtRegs (puPage site g)) s u := hregs.mono (by simp)
      exact (((h0.of_reg (State.setPos_reg u site g _)).putBit _ _).setNat _).evt _

end Sys2Proof.Machine

/-!
Clapper actions in the arming order (02 R44).
-/
namespace Sys2Proof.Machine

/-- A CLAPPER action that is due does not run while another that comes before it waits (02 R44). -/
theorem exec_clapperAction_of_waits {s : State} {act : ActionRef} {a : Armed} (hdue : s.dueAct 3 act = some a) (hwaits : s.actNext 3 act a = false) :
    exec (.clapperAction act) s = .next s := by
  change execClapperAction act s = _
  unfold execClapperAction State.runAction
  rw [hdue]
  dsimp only
  rw [hwaits, if_neg (by decide)]

/-- Clapper event 0 of `twoEventsDue`, armed second. -/
def secondArmed : Armed := { at_ := { kind := 3 }, order := 1 }

/-- Two clapper events due at the same µs, event 1 armed before event 0. -/
def twoEventsDue : State := { State.reset with cevs := [(0, secondArmed), (1, { at_ := { kind := 3 } })] }

/-- Refutes O9: its clause on a clapper event that is due does not ask that no other action comes before it. Of two events armed for the
same µs the one armed first runs first, so CLAPPER_ACTION of the other leaves it armed (02 R44). -/
theorem not_scheduledActionsRun : ¬ Obligations.ScheduledActionsRun := by
  unfold Obligations.ScheduledActionsRun
  rintro ⟨-, runs, -⟩
  have hdue : twoEventsDue.due 8 secondArmed = true := by decide
  have hwaits : twoEventsDue.actNext 3 (.cev 0) secondArmed = false := by decide
  obtain ⟨t, hexec, hdisarmed, -⟩ := runs twoEventsDue 0 secondArmed (by decide) rfl rfl hdue rfl (by decide)
  rw [exec_clapperAction_of_waits rfl hwaits] at hexec
  cases hexec
  exact absurd hdisarmed (by decide)

end Sys2Proof.Machine

/-!
Fields of a register: what a write of one leaves of another.
-/
namespace Sys2Proof.Machine

theorem bitOf_setFld_of_off (v : Word) {lo w i : Nat} (x : Nat) (h : i < lo ∨ lo + w ≤ i) : bitOf (setFld v lo w x) i = bitOf v i := by
  have hmask : ∀ y : Nat, ((y % 2 ^ w) * 2 ^ lo).testBit i = false := by
    intro y
    rw [Nat.testBit_mul_two_pow, Nat.testBit_mod_two_pow]
    rcases h with h | h
    · simp [Nat.not_le.mpr h]
    · simp [show ¬ i - lo < w by omega]
  have hones : ((2 ^ w - 1) * 2 ^ lo).testBit i = false := by
    have := hmask (2 ^ w - 1)
    rwa [Nat.mod_eq_of_lt (Nat.sub_lt (Nat.two_pow_pos w) (by decide))] at this
  unfold bitOf setFld fldMask
  by_cases hi : i < 32
  · simp only [BitVec.getLsbD_or, BitVec.getLsbD_and, BitVec.getLsbD_not, BitVec.getLsbD_ofNat, hmask, hones]
    simp [hi]
  · rw [BitVec.getLsbD_of_ge _ _ (by omega), BitVec.getLsbD_of_ge _ _ (by omega)]

theorem fld_congr {u v : Word} {lo w : Nat} (h : ∀ i, i < w → bitOf u (lo + i) = bitOf v (lo + i)) : fld u lo w = fld v lo w := by
  unfold fld
  apply Nat.eq_of_testBit_eq
  intro i
  rw [Nat.testBit_mod_two_pow, Nat.testBit_mod_two_pow, Nat.testBit_div_two_pow, Nat.testBit_div_two_pow]
  by_cases hi : i < w
  · have := h i hi
    unfold bitOf BitVec.getLsbD at this
    rw [Nat.add_comm i lo, this]
  · simp [hi]

end Sys2Proof.Machine

/-!
The clapper's LOCK, its steps and its entry into ACQUIRING (02 R36 to R38, R45).
-/
namespace Sys2Proof.Machine

theorem clkPage_aligned : clkPage % 0x1000 = 0 := pg_aligned _ _

/-- LOCK is written and the holdover count starts over, before the event that tells it. -/
def State.lockTo (s : State) (l : Nat) : State :=
  ((s.putFld (clkPage + 0x44) 0 2 l).putFld (clkPage + 0x44) 16 16 0).setClk { s.clk with holdAt := if l = 3 then some s.now else none }

section
variable (s : State)

theorem State.lockTo_kept (l : Nat) : Kept [.regs, .clk] s (s.lockTo l) :=
  State.setClk_kept rfl _ (State.putFld_kept rfl _ _ _ _ (State.putFld_kept rfl _ _ _ _ (Kept.refl _ s)))

theorem State.regsBut_lockTo (l : Nat) : RegsBut [clkPage + 0x44] s (s.lockTo l) :=
  (((RegsBut.refl _ s).putFld _ _ _).putFld _ _ _).of_reg (State.setClk_reg _ _)

theorem State.reg_lockTo (l : Nat) : (s.lockTo l).reg (clkPage + 0x44) = setFld (setFld (s.reg (clkPage + 0x44)) 0 2 l) 16 16 0 := by
  rw [State.lockTo, State.setClk_reg, State.reg_putFld, if_pos rfl, State.reg_putFld, if_pos rfl]

theorem State.clkLock_lockTo {l : Nat} (hl : l < 4) : (s.lockTo l).clkLock = l := by
  unfold State.clkLock State.regFld
  rw [State.reg_lockTo, fld_congr (v := setFld (s.reg (clkPage + 0x44)) 0 2 l) (fun i hi => bitOf_setFld_of_off _ _ (by omega))]
  exact fld_setFld_low _ (by decide) hl

/-- The bits of CLK_STATUS between LOCK and the holdover seconds are left. -/
theorem State.regBit_lockTo (l : Nat) {i : Nat} (h2 : 2 ≤ i) (h16 : i < 16) : (s.lockTo l).regBit (clkPage + 0x44) i = s.regBit (clkPage + 0x44) i := by
  unfold State.regBit
  rw [State.reg_lockTo, bitOf_setFld_of_off _ _ (by omega), bitOf_setFld_of_off _ _ (by omega)]

variable {s}

theorem State.clk_setClk (s : State) (c : Clk) : (s.setClk c).clk = c := rfl

theorem State.setLock_of_same {l : Nat} (h : s.clkLock = l) : s.setLock l = s := if_pos h

theorem State.setLock_free (h : s.clkLock ≠ 0) : s.setLock 0 = (s.lockTo 0).evt clkPage 2 := if_neg h
theorem State.setLock_acquiring (h : s.clkLock ≠ 1) : s.setLock 1 = s.lockTo 1 := if_neg h
theorem State.setLock_holdover (h : s.clkLock ≠ 3) : s.setLock 3 = (s.lockTo 3).evt clkPage 1 := if_neg h

theorem State.clkLock_of_reg {t : State} (h : t.reg (clkPage + 0x44) = s.reg (clkPage + 0x44)) : t.clkLock = s.clkLock := State.regFld_of_reg h 0 2

theorem State.clkLock_evt (s : State) (bit : Nat) : (s.evt clkPage bit).clkLock = s.clkLock :=
  State.clkLock_of_reg (State.reg_evt_page s clkPage_aligned bit)

theorem State.clk_evt (s : State) (p bit : Nat) : (s.evt p bit).clk = s.clk :=
  (State.evt_kept (ws := [.regs, .bar2, .out]) rfl p bit (Kept.refl _ s)).same .clk (by decide)

theorem State.clapper_evt (s : State) (p bit : Nat) : (s.evt p bit).clapper = s.clapper :=
  (State.evt_kept (ws := [.regs, .bar2, .out]) rfl p bit (Kept.refl _ s)).same .clapper (by decide)

/-- A lock that falls to FREE or HOLDOVER: LOCK, the event and the holdover count (02 R38). -/
theorem State.lockFalls (s : State) {l bit : Nat} (hl : l < 4) (hb : bit < 32) :
    ((s.lockTo l).evt clkPage bit).clkLock = l ∧ ((s.lockTo l).evt clkPage bit).latched clkPage bit = true ∧
      ((s.lockTo l).evt clkPage bit).clk = { s.clk with holdAt := if l = 3 then some s.now else none } ∧
      Only [.regs, .bar2, .out, .clk] s ((s.lockTo l).evt clkPage bit) ∧
      RegsBut ((clkPage + 0x44) :: evtRegs clkPage) s ((s.lockTo l).evt clkPage bit) :=
  ⟨(State.clkLock_evt _ _).trans (s.clkLock_lockTo hl), State.regBit_evt _ clkPage_aligned hb, State.clk_evt _ _ _,
    (State.evt_kept rfl _ _ ((s.lockTo_kept l).mono rfl)).same, ((s.regsBut_lockTo l).mono (by simp)).evt _⟩

/-- The rate is no register that a fall of LOCK shows in: the last servo rate stays (02 R38). -/
theorem incr_not_lockReg : clkPage + 0x64 ∉ (clkPage + 0x44) :: evtRegs clkPage := by decide

theorem State.clk_lockTo (s : State) (l : Nat) : (s.lockTo l).clk = { s.clk with holdAt := if l = 3 then some s.now else none } := rfl

/-- Moving LOCK to ACQUIRING, where it is not there already. -/
theorem State.setLock_acquires (s : State) :
    (s.setLock 1).clkLock = 1 ∧ (s.setLock 1).clk.best = s.clk.best ∧ RegsBut [clkPage + 0x44] s (s.setLock 1) := by
  by_cases h : s.clkLock = 1
  · rw [State.setLock_of_same h]
    exact ⟨h, rfl, RegsBut.refl _ s⟩
  · rw [State.setLock_acquiring h, State.clk_lockTo]
    exact ⟨s.clkLock_lockTo (by decide), rfl, s.regsBut_lockTo 1⟩

/-- Entering ACQUIRING (02 R36): LOCK, and the runs of measurements that start over. -/
theorem State.acquire_enters (s : State) :
    s.acquire.clkLock = 1 ∧ s.acquire.clk.good = 0 ∧ s.acquire.clk.best = s.clk.best ∧ RegsBut [clkPage + 0x44] s s.acquire := by
  obtain ⟨hlock, hbest, hbut⟩ := s.setLock_acquires
  unfold State.acquire
  generalize s.setLock 1 = u at hlock hbest hbut
  exact ⟨(State.clkLock_of_reg (State.setClk_reg _ _ _)).trans hlock, rfl, hbest, hbut.of_reg (State.setClk_reg _ _)⟩

theorem State.acquire_only (s : State) : Kept [.regs, .bar2, .out, .clk] s s.acquire := State.acquire_kept rfl (Kept.refl _ s)

/-- A step: the clapper is loaded, and STEP is latched (02 R36, R45). -/
theorem State.stepClapper_steps (s : State) (t : Nat) :
    (s.stepClapper t).clapper = t ∧ (s.stepClapper t).latched clkPage 3 = true ∧ RegsBut (evtRegs clkPage) s (s.stepClapper t) := by
  unfold State.stepClapper
  extract_lets ns s1 s2 s3 s4
  have hkept : Kept [.clapper, .clk, .cevs, .segArms, .slots] s (s4.setClk { s4.clk with good := 0, sync := none, t1t2 := none, t3 := none, ppsSec := ns / 10 ^ 9 }) :=
    State.setClk_kept rfl _ (Kept.set_slots _ rfl (Kept.set_segArms _ rfl (Kept.set_cevs _ rfl (Kept.set_clapper t rfl (Kept.refl _ s)))))
  refine ⟨?_, State.regBit_evt _ clkPage_aligned (by decide), ((RegsBut.refl _ s).of_kept hkept).evt 3⟩
  rw [State.clapper_evt]
  rfl

end

end Sys2Proof.Machine

/-!
PTP messages (02 R35, R36, R38).
-/
namespace Sys2Proof.Machine

section
variable {s : State}

theorem State.setClk_only (s : State) (c : Clk) : Only [.clk] s (s.setClk c) := (State.setClk_kept rfl c (Kept.refl _ s)).same

theorem State.emit_setClk_only (s : State) (c : Clk) (o : Output) : Only [.out, .clk] s ((s.setClk c).emit o) :=
  (State.emit_kept rfl o (State.setClk_kept rfl c (Kept.refl _ s))).same

/-- A Sync with its origin time waits for a path delay where none is known (02 R36). -/
theorem State.synced_of_unknown {t1 : Int} {t2 : Nat} (h : s.clk.delay = none) :
    s.synced t1 t2 = s.setClk { s.clk with sync := none, t1t2 := some (t1.toNat, t2) } := by
  unfold State.synced
  dsimp only
  rw [show (s.setClk { s.clk with sync := none, t1t2 := some (t1.toNat, t2) }).clk.delay = none from h]

theorem exec_ptpSync_twoStep {m : PtpMsg} (hfrom : s.fromMaster m = true) (haccepted : syncAccepted m = true) (htwo : m.twoStep = true) :
    exec (.ptpSync m) s = .next (s.setClk { s.clk with sync := some (m, s.ns) }) := by
  change execPtpSync m s = _
  rw [execPtpSync, if_pos ⟨hfrom, haccepted⟩, if_pos htwo]

theorem exec_ptpFollowUp_of_seq {m y : PtpMsg} {rx : Nat} (hfrom : s.fromMaster m = true) (hsync : s.clk.sync = some (y, rx))
    (hseq : y.seq = m.seq) (hgm : y.gm = m.gm) :
    exec (.ptpFollowUp m) s = .next (s.synced ((m.originNs : Int) + m.corrNs + y.corrNs) rx) := by
  change execPtpFollowUp m s = _
  unfold execPtpFollowUp
  rw [hsync]
  exact if_pos ⟨hfrom, hseq, hgm⟩

theorem exec_delayReq_due {b : PtpAnnounce} (hsource : s.clkSource = 1) (hmain : s.mainOk = true) (hbest : s.clk.best = some b)
    (hinterval : s.clk.reqAt.all (fun a => decide (a + logInterval s.clk.minDelay ≤ s.now)) = true) :
    exec .delayReq s = .next ((s.setClk { s.clk with t3 := some s.ns, reqSeq := s.clk.nextSeq, nextSeq := (s.clk.nextSeq + 1) % 2 ^ 16, reqAt := some s.now }).emit
      (.ptpDelayReq (s.regFld (clkPage + 0x40) 2 1) s.clk.nextSeq s.ns)) := by
  have hdue : s.delayReqDue = true := by
    unfold State.delayReqDue
    cases hreq : s.clk.reqAt with
    | none => simp [hsource, hmain, hbest]
    | some a =>
      rw [hreq] at hinterval
      simpa [hsource, hmain, hbest] using hinterval
  change execDelayReq s = _
  rw [execDelayReq, if_pos hdue]

theorem exec_ptpDelayResp_again {m : PtpMsg} {sent rx org d0 : Nat} (hfrom : s.fromMaster m = true) (hus : m.toUs = true) (hseq : m.seq = s.clk.reqSeq)
    (ht3 : s.clk.t3 = some sent) (ht : s.clk.t1t2 = some (org, rx)) (hdelay : s.clk.delay = some (d0 : Int)) :
    exec (.ptpDelayResp m) s = .next (s.setClk { s.clk with
      t3 := none, delay := some ((((rx : Int) - org) + ((m.originNs : Int) - m.corrNs - sent)) / 2), minDelay := m.logMinDelay }) := by
  have hanswers : s.answersReq m = true := by simp [State.answersReq, hfrom, hus, hseq]
  change execPtpDelayResp m s = _
  unfold execPtpDelayResp
  rw [ht3, ht, hdelay]
  exact if_pos hanswers

theorem exec_ptpAnnounce_heard {a : PtpAnnounce} (h : s.ptpHears a.port a.transport a.domain = true) : exec (.ptpAnnounce a) s = .next (s.announce a) := by
  change execPtpAnnounce a s = _
  rw [execPtpAnnounce, if_pos h]

end

/-- A best master is noted, and GM_ID shows its grandmaster (02 R35). -/
def State.showMaster (s : State) (a : PtpAnnounce) : State :=
  (((s.setClk { s.clk with best := some a }).setNat (clkPage + 0x74) (gmWord a.gm 0)).setNat (clkPage + 0x78) (gmWord a.gm 4)).setNat (clkPage + 0x7C)
    (a.utc % 2 ^ 16 + (if a.utcValid then 2 ^ 16 else 0))

theorem State.clk_showMaster (s : State) (a : PtpAnnounce) : (s.showMaster a).clk = { s.clk with best := some a } :=
  (State.setNat_kept (ws := [.regs]) rfl _ _ (State.setNat_kept rfl _ _ (State.setNat_kept rfl _ _ (Kept.refl _ (s.setClk { s.clk with best := some a }))))).same
    .clk (by decide)

theorem State.showMaster_shows (s : State) (a : PtpAnnounce) :
    (s.showMaster a).reg (clkPage + 0x74) = BitVec.ofNat 32 (gmWord a.gm 0) ∧ (s.showMaster a).reg (clkPage + 0x78) = BitVec.ofNat 32 (gmWord a.gm 4) ∧
      RegsBut [clkPage + 0x74, clkPage + 0x78, clkPage + 0x7C] s (s.showMaster a) := by
  unfold State.showMaster
  refine ⟨?_, ?_, ((((RegsBut.refl _ s).of_reg (State.setClk_reg s _)).setNat _).setNat _).setNat _⟩
  · rw [State.reg_setNat, if_neg (by simp), State.reg_setNat, if_neg (by simp), State.reg_setNat, if_pos rfl]
  · rw [State.reg_setNat, if_neg (by simp), State.reg_setNat, if_pos rfl]

/-- The first Announce heard starts PTP over with its master, in ACQUIRING (02 R35, R36). -/
theorem State.announce_of_first {s : State} {a : PtpAnnounce} (h : s.clk.best = none) :
    s.announce a = ((s.showMaster a).setClk { (s.showMaster a).clk with sync := none, t1t2 := none, t3 := none, delay := none }).acquire := by
  unfold State.announce
  rw [h]
  rfl

theorem exec_announceReceiptTimeout_ptp {s : State} (h : s.clkSource = 1) :
    exec .announceReceiptTimeout s = .next ((s.setClk { s.clk with best := none, sync := none, t1t2 := none, t3 := none, delay := none }).sourceLost) := by
  change execAnnounceReceiptTimeout s = _
  rw [execAnnounceReceiptTimeout, if_pos h]

/-- A source lost in LOCKED: HOLDOVER (02 R38). -/
theorem State.sourceLost_of_locked {s : State} (h : s.clkLock = 2) : s.sourceLost = (s.lockTo 3).evt clkPage 1 := by
  rw [State.sourceLost, if_pos (Or.inr h), State.setLock_holdover (by omega)]

/-- Settles O10: a message by the servo record it leaves, the choice of master and its loss by `acquire` and `lockFalls`. -/
theorem ptpMessagesDriveTheServo : Obligations.PtpMessagesDriveTheServo := by
  unfold Obligations.PtpMessagesDriveTheServo
  refine ⟨?sync, ?followUp, ?request, ?response, ?announce, ?timeout⟩
  case sync =>
    intro s m hfrom haccepted htwo
    exact ⟨_, exec_ptpSync_twoStep hfrom haccepted htwo, rfl, s.setClk_only _⟩
  case followUp =>
    intro s m y rx hfrom hsync hseq hgm hdelay
    refine ⟨_, exec_ptpFollowUp_of_seq hfrom hsync hseq hgm, ?_⟩
    rw [State.synced_of_unknown hdelay]
    exact ⟨rfl, s.setClk_only _⟩
  case request =>
    intro s b hsource hmain hbest hinterval
    exact ⟨_, exec_delayReq_due hsource hmain hbest hinterval, rfl, rfl, s.emit_setClk_only _ _⟩
  case response =>
    intro s m sent rx org d d0 hfrom hus hseq ht3 ht hdelay hd
    refine ⟨_, exec_ptpDelayResp_again hfrom hus hseq ht3 ht hdelay, ?_, s.setClk_only _⟩
    rw [hd]
    rfl
  case announce =>
    intro s a hhears hbest
    refine ⟨_, exec_ptpAnnounce_heard hhears, ?_⟩
    have honly := (State.announce_kept (ws := [.regs, .bar2, .out, .clk]) rfl a (Kept.refl _ s)).same
    rw [State.announce_of_first hbest] at honly ⊢
    generalize hu : (s.showMaster a).setClk { (s.showMaster a).clk with sync := none, t1t2 := none, t3 := none, delay := none } = u at honly ⊢
    have hreg : ∀ b, u.reg b = (s.showMaster a).reg b := fun b => by rw [← hu, State.setClk_reg]
    have hbestu : u.clk.best = some a := by
      rw [← hu, State.clk_setClk, s.clk_showMaster a]
    obtain ⟨hhigh, hlow, hshown⟩ := s.showMaster_shows a
    obtain ⟨hlock, -, hkeeps, hbut⟩ := u.acquire_enters
    refine ⟨hkeeps.trans hbestu, hlock, ?_, ?_, honly, ?_⟩
    · rw [hbut _ (by simp), hreg, hhigh]
    · rw [hbut _ (by simp), hreg, hlow]
    · exact ((hshown.mono (by simp)).of_reg hreg).trans (hbut.mono (by simp))
  case timeout =>
    intro s hsource hlock
    refine ⟨_, exec_announceReceiptTimeout_ptp hsource, ?_⟩
    generalize hu : s.setClk { s.clk with best := none, sync := none, t1t2 := none, t3 := none, delay := none } = u
    have hreg : ∀ b, u.reg b = s.reg b := fun b => by rw [← hu, State.setClk_reg]
    have hkept : Kept [.regs, .bar2, .out, .clk] s u.sourceLost := by
      rw [← hu]
      exact State.sourceLost_kept rfl (State.setClk_kept rfl _ (Kept.refl _ s))
    rw [State.sourceLost_of_locked ((State.clkLock_of_reg (hreg _)).trans hlock)] at hkept ⊢
    obtain ⟨hfell, hlatched, hclk, -, hbut⟩ := u.lockFalls (l := 3) (bit := 1) (by decide) (by decide)
    refine ⟨?_, hfell, hlatched, ?_, ?_, hkept.same, ((RegsBut.refl _ s).of_reg hreg).trans hbut⟩
    · rw [hclk, ← hu]
      rfl
    · rw [hclk, ← hu]
      rfl
    · rw [hbut _ incr_not_lockReg, hreg]

end Sys2Proof.Machine

/-!
PPS, holdover's end and the clapper's own writes (02 R36 to R38, R45).
-/
namespace Sys2Proof.Machine

/-- A PPS edge is noted, and PPS_IN_PRESENT shows it. -/
def State.notePps (s : State) : State := (s.setClk { s.clk with lastPps := some s.now }).putBit (clkPage + 0x44) 3 true

section
variable {s : State}

theorem State.notePps_kept (s : State) : Kept [.regs, .clk] s s.notePps := State.putBit_kept rfl _ _ _ (State.setClk_kept rfl _ (Kept.refl _ s))

theorem State.regsBut_notePps (s : State) : RegsBut [clkPage + 0x44] s s.notePps := ((RegsBut.refl _ s).of_reg (State.setClk_reg _ _)).putBit _ _

/-- PPS_IN_PRESENT is no part of LOCK. -/
theorem State.clkLock_putBit_pps (s : State) (b : Bool) : (s.putBit (clkPage + 0x44) 3 b).clkLock = s.clkLock := by
  unfold State.clkLock State.regFld
  rw [State.reg_putBit, if_pos rfl]
  exact fld_congr (fun i hi => bitOf_setBit_ne _ (by omega) _)

theorem exec_ppsInEdge (s : State) : exec .ppsInEdge s = .next (if s.clkSource = 2 then s.notePps.measure (secDistance s.ns) else s.notePps) := by
  change execPpsInEdge s = _
  unfold execPpsInEdge
  dsimp only
  split <;> rfl

/-- In ACQUIRING a measurement over STEP_THRESH steps the clapper (02 R36). -/
theorem State.measure_of_big {off : Int} (hlock : s.clkLock = 1) (hbig : (s.reg (clkPage + 0x70)).toNat < off.natAbs) :
    s.measure off = (s.setReg (clkPage + 0x6C) (wordOfInt (satInt (2 ^ 31 - 1) off))).stepClapper (clapperLess s.clapper off) := by
  generalize hs0 : s.setReg (clkPage + 0x6C) (wordOfInt (satInt (2 ^ 31 - 1) off)) = s0
  have hl0 : s0.clkLock = 1 := by
    rw [← hs0]
    exact (State.clkLock_of_reg (State.reg_setReg_ne _ _ (by simp))).trans hlock
  have hbig0 : (s0.reg (clkPage + 0x70)).toNat < off.natAbs := by
    rw [← hs0, State.reg_setReg_ne _ _ (by simp)]
    exact hbig
  have hclapper : s0.clapper = s.clapper := by rw [← hs0]; rfl
  unfold State.measure
  rw [hs0]
  dsimp only
  rw [if_neg (show ¬(s0.clkLock = 3 ∨ s0.clkLock = 0) by omega), if_pos hl0, if_pos (decide_eq_true hbig0), hclapper]

theorem exec_ppsMissing_late {e : Nat} (hlast : s.clk.lastPps = some e) (hnow : e + 300000000 ≤ s.now) (hsource : s.clkSource = 2) :
    exec .ppsMissing s = .next (s.putBit (clkPage + 0x44) 3 false).sourceLost := by
  change execPpsMissing s = _
  unfold execPpsMissing
  rw [hlast]
  dsimp only
  rw [if_pos hnow, if_pos hsource]

theorem exec_holdoverMaxExpire_due {e : Nat} (hhold : s.clk.holdAt = some e) (hlock : s.clkLock = 3) (hdue : e + s.holdoverMax ≤ s.now) :
    exec .holdoverMaxExpire s = .next ((s.lockTo 0).evt clkPage 2) := by
  change execHoldoverMaxExpire s = _
  unfold execHoldoverMaxExpire
  rw [hhold]
  dsimp only
  rw [if_pos ⟨hlock, hdue⟩, State.setLock_free (by omega)]

theorem exec_ppsOut_rises (h : s.clk.ppsSec ≠ s.ns / 10 ^ 9) :
    exec .ppsOut s = .next ((s.setClk { s.clk with ppsSec := s.ns / 10 ^ 9, ppsHigh := some s.now }).emit (.ppsRise (s.ns / 10 ^ 9))) := by
  change execPpsOut s = _
  unfold execPpsOut
  dsimp only
  rw [if_pos h]

theorem exec_clkCmdSet_takes {req : Nat} {val : Word} (h : s.takes 0x02 req 8 1 0x60 = true) :
    exec (.clkCmdSet req val) s = .next (s.clkSet req val) := by
  change execClkCmdSet req val s = _
  rw [execClkCmdSet, State.asWrite_takes h]

theorem State.clkSet_of_ptp {req : Nat} {val : Word} (hset : bitOf val 0 = true) (hsource : s.clkSource = 1) :
    s.clkSet req val = s.reject req clkPage 0x60 5 := by
  rw [State.clkSet, if_neg (by rw [hset]; decide), if_pos hsource]

theorem State.clkSet_of_other {req : Nat} {val : Word} (hset : bitOf val 0 = true) (hsource : s.clkSource ≠ 1) :
    s.clkSet req val = s.stepClapper ((((s.reg (clkPage + 0x58)).toNat + s.regFld (clkPage + 0x5C) 0 16 * 2 ^ 32) * 10 ^ 9 +
      (s.reg (clkPage + 0x54)).toNat) * 2 ^ 24) := by
  rw [State.clkSet, if_neg (by rw [hset]; decide), if_neg hsource]

theorem exec_clkCfgWrite_takes {req : Nat} {val : Word} (h : s.takes 0x02 req 8 1 0x40 = true) :
    exec (.clkCfgWrite req val) s = .next (s.clkCfg req val) := by
  change execClkCfgWrite req val s = _
  rw [execClkCfgWrite, State.asWrite_takes h]

/-- A write of CLK_CFG that changes SOURCE to PTP or PPS stores it, may start PTP over, and enters ACQUIRING (02 R36). -/
theorem State.clkCfg_of_source {req : Nat} {val : Word} {r : RegDef} (hfind : findReg 0x02 0x40 = some r) (hok : staticReason r val = none)
    (hmember : s.isMember = false) (hchange : s.clkSource ≠ fld (maskedWrite r (s.reg (clkPage + 0x40)) val) 0 2)
    (hsource : fld (maskedWrite r (s.reg (clkPage + 0x40)) val) 0 2 ≠ 0) :
    ∃ u : State, (∃ c, u = (s.setReg (clkPage + 0x40) (maskedWrite r (s.reg (clkPage + 0x40)) val)).setClk c) ∧ s.clkCfg req val = u.acquire := by
  have hchange' : ¬ fld (s.reg (clkPage + 0x40)) 0 2 = fld (maskedWrite r (s.reg (clkPage + 0x40)) val) 0 2 := hchange
  unfold State.clkCfg
  rw [hfind]
  dsimp only
  rw [hok]
  dsimp only
  rw [if_neg (by rw [hmember]; simp), if_neg hchange', if_neg hsource]
  refine ⟨_, ?_, rfl⟩
  split
  · exact ⟨_, rfl⟩
  · exact ⟨(s.setReg (clkPage + 0x40) (maskedWrite r (s.reg (clkPage + 0x40)) val)).clk, rfl⟩

end

/-- Settles O11: an edge by what it notes and the step it makes, losses by `lockFalls`, the writes by a step or by `acquire`. -/
theorem ppsHoldoverAndClockWrites : Obligations.PpsHoldoverAndClockWrites := by
  unfold Obligations.PpsHoldoverAndClockWrites
  refine ⟨?noted, ?stepped, ?missing, ?expired, ?rise, ?set, ?setRejected, ?source⟩
  case noted =>
    intro s hsource
    refine ⟨s.notePps, ?_, rfl, ?_, s.notePps_kept.same, s.regsBut_notePps⟩
    · rw [exec_ppsInEdge, if_neg hsource]
    · unfold State.notePps State.regBit
      rw [State.reg_putBit, if_pos rfl]
      exact bitOf_setBit _ (by decide) _
  case stepped =>
    intro s hsource hlock _ hbig
    have hnoted : s.notePps.measure (secDistance s.ns) = _ := State.measure_of_big
      ((State.clkLock_putBit_pps _ true).trans hlock) (by rw [s.regsBut_notePps _ (by simp)]; exact hbig)
    have hkept := State.measure_kept (ws := [.regs, .bar2, .out, .clapper, .clk, .cevs, .segArms, .slots]) rfl (secDistance s.ns)
      (s.notePps_kept.mono rfl)
    refine ⟨s.notePps.measure (secDistance s.ns), ?_, ?_, ?_, hkept.same⟩
    · rw [exec_ppsInEdge, if_pos hsource]
    · rw [hnoted]
      exact (State.stepClapper_steps _ _).1
    · rw [hnoted]
      exact (State.stepClapper_steps _ _).2.1
  case missing =>
    intro s e hlast hnow hsource hlock
    refine ⟨_, exec_ppsMissing_late hlast hnow hsource, ?_⟩
    have hkept : Kept [.regs, .bar2, .out, .clk] s (s.putBit (clkPage + 0x44) 3 false).sourceLost :=
      State.sourceLost_kept rfl (State.putBit_kept rfl _ _ _ (Kept.refl _ s))
    rw [State.sourceLost_of_locked ((s.clkLock_putBit_pps false).trans hlock)] at hkept ⊢
    obtain ⟨hfell, hlatched, -, -, hbut⟩ := (s.putBit (clkPage + 0x44) 3 false).lockFalls (l := 3) (bit := 1) (by decide) (by decide)
    refine ⟨hfell, ?_, hlatched, hkept.same, ((RegsBut.refl _ s).putBit _ _).trans hbut⟩
    rw [State.regBit_of_reg (State.reg_evt_page _ clkPage_aligned 1), State.regBit_lockTo _ _ (by decide) (by decide), State.regBit, State.reg_putBit,
      if_pos rfl]
    exact bitOf_setBit _ (by decide) _
  case expired =>
    intro s e hhold hlock hdue
    obtain ⟨hfell, hlatched, -, honly, hbut⟩ := s.lockFalls (l := 0) (bit := 2) (by decide) (by decide)
    exact ⟨_, exec_holdoverMaxExpire_due hhold hlock hdue, hfell, hlatched, hbut _ incr_not_lockReg, honly, hbut⟩
  case rise =>
    intro s h
    exact ⟨_, exec_ppsOut_rises h, rfl, rfl, s.emit_setClk_only _ _⟩
  case set =>
    intro s req val htakes hset hsource
    refine ⟨_, exec_clkCmdSet_takes htakes, ?_⟩
    rw [State.clkSet_of_other hset hsource]
    obtain ⟨hclapper, hlatched, hbut⟩ := s.stepClapper_steps
      ((((s.reg (clkPage + 0x58)).toNat + s.regFld (clkPage + 0x5C) 0 16 * 2 ^ 32) * 10 ^ 9 + (s.reg (clkPage + 0x54)).toNat) * 2 ^ 24)
    exact ⟨hclapper, hlatched, (State.stepClapper_kept rfl _ (Kept.refl _ s)).same, hbut⟩
  case setRejected =>
    intro s req val htakes hset hsource
    refine ⟨_, exec_clkCmdSet_takes htakes, ?_⟩
    rw [State.clkSet_of_ptp hset hsource]
    exact s.reject_records clkPage_aligned req 0x60 5
  case source =>
    intro s req val r htakes hfind hok hmember hsource hpps _
    refine ⟨_, exec_clkCfgWrite_takes htakes, ?_⟩
    obtain ⟨u, ⟨c, hu⟩, hcfg⟩ := State.clkCfg_of_source (req := req) hfind hok hmember (by rw [hpps]; exact hsource) (by rw [hpps]; decide)
    rw [hcfg]
    obtain ⟨hlock, hgood, -, hbut⟩ := u.acquire_enters
    have hkept : Kept [.regs, .bar2, .out, .clk] s u := by
      rw [hu]
      exact State.setClk_kept rfl _ (State.setReg_kept rfl _ _ (Kept.refl _ s))
    have hregs : RegsBut ((clkPage + 0x40) :: (clkPage + 0x44) :: evtRegs clkPage) s u := by
      rw [hu]
      exact ((RegsBut.refl _ s).setReg _).of_reg (State.setClk_reg _ _)
    refine ⟨?_, hlock, hgood, (hkept.trans u.acquire_only).same, hregs.trans (hbut.mono (by simp))⟩
    rw [hbut _ (by simp), hu]
    exact State.reg_setReg_same s _ _

end Sys2Proof.Machine

/-!
The canonical form of everything addressed (03 R50) and what reset leaves of it.
-/
namespace Sys2Proof.Machine

/-- A command keeps the canonical form, whatever it answers. -/
theorem exec_keeps_wf {c : Instr} {s t : State} (hwf : s.wf = true) (hexec : exec c s = .next t) : t.wf = true := by
  have hkept := exec_kept c s
  rw [hexec] at hkept
  exact hkept.wf hwf

/-- A sample of the block's own clocks keeps the canonical form. -/
theorem State.idle_keeps_wf {s : State} (hwf : s.wf = true) : s.idle.wf = true :=
  (State.idle_kept (Field.sub_refl _) (Kept.refl _ s)).wf hwf

/-- Settles O3: a step runs the front command or idles, and each keeps the canonical form by its own frame. -/
theorem everyStepKeepsTheCanonicalForm : Obligations.EveryStepKeepsTheCanonicalForm := by
  unfold Obligations.EveryStepKeepsTheCanonicalForm
  intro s t hwf hstep
  cases hpending : s.pending with
  | nil =>
    simp only [step, hpending] at hstep
    cases hstep
    exact State.idle_keeps_wf hwf
  | cons c rest =>
    simp only [step, hpending] at hstep
    exact exec_keeps_wf (s := { s with pending := rest }) hwf hstep

theorem siteOf_pg_add {site blk off : Nat} (hs : site < 16) (ho : off < 0x1000) : siteOf (pg site blk + off) = site := by
  unfold siteOf pg; omega

theorem blkOf_pg_add (site : Nat) {blk off : Nat} (hb : blk < 1024) (ho : off < 0x1000) : blkOf (pg site blk + off) = blk := by
  unfold blkOf pg; omega

theorem offOf_pg_add (site blk : Nat) {off : Nat} (ho : off < 0x1000) : offOf (pg site blk + off) = off := by
  unfold offOf pg; omega

/-- STATE after reset: RUNNING on the pages that always run, 0 on every other (03 R54). -/
theorem regReset_state (asm : Nat) {site blk : Nat} (hs : site < 16) (hb : blk < 1024) :
    regReset asm (pg site blk + 0xC) = if pageType asm site blk ≠ 0 ∧ alwaysRunning (pageType asm site blk) = true then 2#32 else 0#32 := by
  unfold regReset
  rw [siteOf_pg_add hs (by decide), blkOf_pg_add site hb (by decide), offOf_pg_add site blk (by decide)]
  by_cases h : pageType asm site blk = 0 <;> simp [h]

theorem State.reg_reset (a : Nat) : State.reset.reg a = regReset 2 a := rfl

/-- Settles O2: what reset lists is nothing, so that every register reads its reset value and every record its default. -/
theorem resetLeavesTheSpecsValues : Obligations.ResetLeavesTheSpecsValues := by
  unfold Obligations.ResetLeavesTheSpecsValues
  refine ⟨fun site blk hs hb => ?_, fun site n => ⟨rfl, rfl⟩, fun site hf => ?_, rfl, rfl, rfl, by decide, by decide⟩
  · unfold State.st State.regFld
    rw [State.reg_reset, regReset_state 2 hs hb]
    change fld (if State.reset.typeAt site blk ≠ 0 ∧ alwaysRunning (State.reset.typeAt site blk) = true then 2#32 else 0#32) 0 3 = _
    split <;> decide
  · have h : site = 11 := by
      rcases site_of_field (of_decide_eq_true hf) with rfl | rfl
      · exact absurd hf (by decide)
      · rfl
    subst h
    decide

end Sys2Proof.Machine

/-!
Where a register access goes once its page answers (03 R50, R51).
-/
namespace Sys2Proof.Machine
theorem exec_registerWrite32 (s : State) (req addr : Nat) (val : Word) (be : Nat) :
    exec (.registerWrite req addr ⟨val, none⟩ be) s = .next (s.write req addr val be) := rfl

theorem exec_registerWrite64 (s : State) (req addr : Nat) (lo hi : Word) (be : Nat) :
    exec (.registerWrite req addr ⟨lo, some hi⟩ be) s = .next (s.write64 req addr lo hi be) := rfl

theorem exec_latchedRead32 (s : State) (req addr : Nat) : exec (.latchedRead req ⟨addr, false⟩) s = .next (s.readAny req addr) := rfl

theorem exec_latchedRead64 (s : State) (req addr : Nat) : exec (.latchedRead req ⟨addr, true⟩) s = .next (s.read64 req addr) := rfl

section
variable {s : State} {req site blk off addr : Nat}

/-- A present page lies at one of the twelve sites (01 R11). -/
theorem State.site_of_present (h : s.present site blk = true) : site < 12 := by
  refine Nat.lt_of_not_le fun hs => ?_
  have hdie : dieAt s.asm site = .none := by
    unfold dieAt
    simp (disch := omega) only [if_neg]
  simp [State.present, State.typeAt, pageType, hdie] at h

/-- A present page lies in the package's own 64 MiB of BAR0 (03 R49). -/
theorem State.addr_of_present (h : s.present (siteOf addr) blk = true) : addr < 2 ^ 26 := by
  have hs := State.site_of_present h
  unfold siteOf at hs
  omega

/-- An address is its page's and its offset in the page (03 R49). -/
theorem pg_add_offOf (h : siteOf addr < 16) : pg (siteOf addr) (blkOf addr) + offOf addr = addr := by
  unfold pg siteOf blkOf offOf at *
  omega

/-- A write that is let on names a present page. -/
theorem State.present_of_gateWrite (h : s.gateWrite req site blk off = none) : s.present site blk = true := by
  unfold State.gateWrite at h
  split at h
  · cases h
  · split at h
    · cases h
    · next h1 => simpa using (not_or.mp h1).1

theorem offOf_lt (addr : Nat) : offOf addr < 0x1000 := Nat.mod_lt _ (by decide)

variable (hgate : s.gateWrite req (siteOf addr) (blkOf addr) (offOf addr) = none)
include hgate

/-- A write of part of a register is rejected with SIZE (03 R51). -/
theorem exec_registerWrite_of_partial (val : Word) {be : Nat} (hbe : be ≠ 15) :
    exec (.registerWrite req addr ⟨val, none⟩ be) s = .next (s.reject req (pg (siteOf addr) (blkOf addr)) (offOf addr) 10) := by
  have h26 : ¬ 2 ^ 26 ≤ addr := Nat.not_le.mpr (State.addr_of_present (State.present_of_gateWrite hgate))
  have h32 : ¬ 2 ^ 32 ≤ addr := by omega
  rw [exec_registerWrite32]
  simp only [State.write, h26, h32, if_false, hgate, hbe, ne_eq, not_false_eq_true, true_or, if_true]

/-- A whole-register write at an offset that no field table defines is rejected with UNMAPPED (03 R50). -/
theorem exec_registerWrite_of_unmapped (val : Word) (h4 : addr % 4 = 0) (hmap : s.mapped (siteOf addr) (blkOf addr) (offOf addr) = none) :
    exec (.registerWrite req addr ⟨val, none⟩ 15) s = .next (s.reject req (pg (siteOf addr) (blkOf addr)) (offOf addr) 11) := by
  have h26 : ¬ 2 ^ 26 ≤ addr := Nat.not_le.mpr (State.addr_of_present (State.present_of_gateWrite hgate))
  have h32 : ¬ 2 ^ 32 ≤ addr := by omega
  rw [exec_registerWrite32]
  simp only [State.write, h26, h32, if_false, hgate, h4, ne_eq, not_true_eq_false, or_self, hmap]

/-- A whole-register write of a defined register runs the register's own rule (03 R51). -/
theorem exec_registerWrite_of_mapped (val : Word) {r : RegDef} (hdue : s.noneDue (siteOf addr) = true) (h4 : addr % 4 = 0)
    (hmap : s.mapped (siteOf addr) (blkOf addr) (offOf addr) = some r) :
    exec (.registerWrite req addr ⟨val, none⟩ 15) s = .next (s.pageWrite req (siteOf addr) (blkOf addr) (offOf addr) r val) := by
  have h26 : ¬ 2 ^ 26 ≤ addr := Nat.not_le.mpr (State.addr_of_present (State.present_of_gateWrite hgate))
  have h32 : ¬ 2 ^ 32 ≤ addr := by omega
  rw [exec_registerWrite32]
  simp only [State.write, h26, h32, if_false, hgate, h4, ne_eq, not_true_eq_false, or_self, hmap,
    State.commitsFirst_none hdue]

end

/-- A rejected write at an offset of a page, as REJ_INFO shows it. -/
theorem State.reject_records_page (s : State) (req site blk reason : Nat) {off : Nat} (ho : off < 0x1000) :
    (s.reject req (pg site blk) off reason).reg (pg site blk + 0x34) = BitVec.ofNat 32 (off + reason * 2 ^ 12 + req % 32 * 2 ^ 16) ∧
      (s.reject req (pg site blk) off reason).latched (pg site blk) 24 = true ∧
      Only [.regs, .bar2, .out] s (s.reject req (pg site blk) off reason) ∧
      RegsBut (rejRegs (pg site blk)) s (s.reject req (pg site blk) off reason) := by
  have h := s.reject_records (pg_aligned site blk) req off reason
  rwa [Nat.mod_eq_of_lt ho] at h

/-- The data ports, by block type and offset: a read of one is a command of its own (13 R279; 17 R373; 20 R411, R417). -/
abbrev dataPorts : List (Nat × Nat) := [(0x33, 0xC0), (0x3D, 0x68), (0x0F, 0x4C), (0x0E, 0x48)]

section
variable {s : State} {req addr : Nat}

/-- A 32-bit read of an aligned register that is no data port is the plain read (03 R51). -/
theorem exec_latchedRead_of_plain (h4 : addr % 4 = 0)
    (hport : (s.typeAt (siteOf addr) (blkOf addr), offOf addr) ∉ dataPorts) :
    exec (.latchedRead req ⟨addr, false⟩) s = .next (s.read req addr) := by
  have haddr : addr / 4 * 4 = addr := by omega
  simp only [List.mem_cons, Prod.mk.injEq, List.not_mem_nil, or_false, not_or] at hport
  obtain ⟨hshd, hcal, hdbg, hrand⟩ := hport
  rw [exec_latchedRead32]
  simp only [State.readAny, haddr, hshd, hcal, hdbg, hrand, if_false]

/-- What a read answers and latches nothing by. -/
def State.answer (s : State) (v : Word) : State := { s with rdata := v, rdataHi := 0#32 }

theorem State.answer_only (s : State) (v : Word) : Only [.rdata, .rdataHi] s (s.answer v) :=
  (Kept.set_rdata_rdataHi v 0#32 rfl rfl (Kept.refl _ s)).same

theorem State.read_of_unreadable (h26 : addr < 2 ^ 26) (h : s.readable req (siteOf addr) (blkOf addr) (offOf addr) = false) :
    s.read req addr = s.answer 0#32 := by
  have h26' : ¬ 2 ^ 26 ≤ addr := Nat.not_le.mpr h26
  have h32 : ¬ 2 ^ 32 ≤ addr := by omega
  simp only [State.read, h26', h32, if_false, h, if_true, State.answer]

theorem State.present_of_readable {site blk off : Nat} (h : s.readable req site blk off = true) : s.present site blk = true := by
  simp only [State.readable, Bool.and_eq_true] at h
  exact h.1.1.1.1

theorem State.unreadable_of_unmapped {site blk off : Nat} (h : s.mapped site blk off = none) : s.readable req site blk off = false := by
  simp [State.readable, h]

theorem State.unreadable_of_absent {site blk off : Nat} (h : s.present site blk = false) : s.readable req site blk off = false := by
  simp [State.readable, h]

theorem State.read_of_latched {v : Word} {k : Nat} (h : s.readable req (siteOf addr) (blkOf addr) (offOf addr) = true)
    (hlatch : s.latch.find? (fun e => e.1 == latchKey req (pg (siteOf addr) (blkOf addr) + offOf addr)) = some (k, v)) :
    s.read req addr = s.answer v := by
  have h26 : ¬ 2 ^ 26 ≤ addr := Nat.not_le.mpr (State.addr_of_present (State.present_of_readable h))
  have h32 : ¬ 2 ^ 32 ≤ addr := by omega
  simp only [State.read, h26, h32, if_false, h, Bool.true_eq_false, hlatch, State.answer]

/-- A read of the lowest register of a wide value latches another one of it for its requester (03 R53). -/
def State.latchReg (req site blk : Nat) (s : State) (o : Nat) : State :=
  { s with latch := (latchKey req (pg site blk + o), s.live site blk o) :: s.latch.filter (fun e => e.1 != latchKey req (pg site blk + o)) }

theorem State.read_of_live (h : s.readable req (siteOf addr) (blkOf addr) (offOf addr) = true)
    (hlatch : s.latch.find? (fun e => e.1 == latchKey req (pg (siteOf addr) (blkOf addr) + offOf addr)) = none) :
    s.read req addr = ((latchedBy (s.typeAt (siteOf addr) (blkOf addr)) (offOf addr)).foldl (State.latchReg req (siteOf addr) (blkOf addr)) s).answer
      (s.live (siteOf addr) (blkOf addr) (offOf addr)) := by
  have h26 : ¬ 2 ^ 26 ≤ addr := Nat.not_le.mpr (State.addr_of_present (State.present_of_readable h))
  have h32 : ¬ 2 ^ 32 ≤ addr := by omega
  simp only [State.read, h26, h32, if_false, h, Bool.true_eq_false, hlatch]
  rfl

theorem State.latchRegs_kept (req site blk : Nat) (l : List Nat) (s : State) : Kept [.latch] s (l.foldl (State.latchReg req site blk) s) :=
  Kept.foldl (fun _ _ h => Kept.set_latch _ rfl h) l s (Kept.refl _ s)

/-- Latching registers leaves each latched value of another register or requester. -/
theorem State.mem_latch_latchRegs {req site blk : Nat} {e : Nat × Word} :
    ∀ (l : List Nat) (s : State), (∀ o ∈ l, e.1 ≠ latchKey req (pg site blk + o)) → e ∈ s.latch → e ∈ (l.foldl (State.latchReg req site blk) s).latch
  | [], _, _, he => he
  | o :: l, s, hne, he => by
    refine State.mem_latch_latchRegs l _ (fun x hx => hne x (List.mem_cons_of_mem _ hx)) (List.mem_cons_of_mem _ (List.mem_filter.mpr ⟨he, ?_⟩))
    simpa using hne o List.mem_cons_self

end

/-- A data port is a register of its page. -/
theorem State.not_port_of_unmapped {s : State} {site blk off : Nat} (h : s.mapped site blk off = none) : (s.typeAt site blk, off) ∉ dataPorts := by
  have hdefined : ∀ p ∈ dataPorts, p.1 ≠ 8 ∧ findReg p.1 p.2 ≠ none := by decide
  intro hport
  obtain ⟨h8, hfind⟩ := hdefined _ hport
  rw [State.mapped, if_neg (fun hc => h8 hc.1)] at h
  exact hfind h

/-- Settles O13: what no field table defines is neither readable nor a register to write. -/
theorem undefinedOffsetsReadZeroAndRejectWrites : Obligations.UndefinedOffsetsReadZeroAndRejectWrites := by
  unfold Obligations.UndefinedOffsetsReadZeroAndRejectWrites
  constructor
  · intro s req addr hpresent hmap h4
    refine ⟨s.answer 0#32, ?_, rfl, rfl, s.answer_only _⟩
    rw [exec_latchedRead_of_plain h4 (State.not_port_of_unmapped hmap),
      State.read_of_unreadable (State.addr_of_present hpresent) (State.unreadable_of_unmapped hmap)]
  · intro s req addr val hgate _ h4 hmap
    exact ⟨_, exec_registerWrite_of_unmapped hgate val h4 hmap, s.reject_records_page req _ _ 11 (offOf_lt addr)⟩

/-- Settles O19: the plain read by whether a latch answers it, and a 64-bit read by its two halves. -/
theorem readsAndLatches : Obligations.ReadsAndLatches := by
  unfold Obligations.ReadsAndLatches
  refine ⟨?live, ?latched, ?absent, ?wide⟩
  case live =>
    intro s req addr h4 hread hlatch hport
    refine ⟨_, (exec_latchedRead_of_plain h4 hport).trans (congrArg _ (State.read_of_live hread (Option.isNone_iff_eq_none.mp hlatch))), rfl, ?_, rfl, ?_⟩
    · intro e he hne
      exact State.mem_latch_latchRegs _ s hne he
    · exact (Kept.set_rdata_rdataHi _ _ rfl rfl ((State.latchRegs_kept req _ _ _ s).mono rfl)).same
  case latched =>
    intro s req addr v h4 hread hlatch hport
    exact ⟨_, (exec_latchedRead_of_plain h4 hport).trans (congrArg _ (State.read_of_latched hread hlatch)), rfl, rfl, s.answer_only v⟩
  case absent =>
    intro s req addr h4 h26 habsent hty
    have hport : (s.typeAt (siteOf addr) (blkOf addr), offOf addr) ∉ dataPorts := by
      simp only [List.mem_cons, List.not_mem_nil, or_false, not_or, Prod.mk.injEq] at hty ⊢
      obtain ⟨h1, h2, h3, h4⟩ := hty
      simp [h1, h2, h3, h4]
    exact ⟨_, (exec_latchedRead_of_plain h4 hport).trans (congrArg _ (State.read_of_unreadable h26 (State.unreadable_of_absent habsent))), rfl, rfl,
      s.answer_only _⟩
  case wide =>
    intro s a b req addr h8 hlow hhigh
    have ha : s.readAny req addr = a := Host.Outcome.next.inj hlow
    have hb : a.readAny req (addr + 4) = b := Host.Outcome.next.inj hhigh
    refine ⟨{ b with rdata := a.rdata, rdataHi := b.rdata }, ?_, rfl, rfl, (Kept.set_rdata_rdataHi _ _ rfl rfl (Kept.refl _ b)).same⟩
    rw [exec_latchedRead64, State.read64, if_pos h8]
    simp only [ha, hb]

end Sys2Proof.Machine

/-!
A register write that passes its checks (03 R51, R57, R71).
-/
namespace Sys2Proof.Machine

/-- EVT_PEND shows EVT_RAW AND EVT_MASK (03 R57). -/
theorem State.reg_showPend_pend (s : State) {p : Nat} (hp : p % 0x1000 = 0) : (s.showPend p).reg (p + 0x18) = s.pend p := by
  have hshow : (s.setReg (p + 0x18) (s.pend p)).reg (p + 0x18) = s.pend p := s.reg_setReg_same _ _
  unfold State.showPend
  dsimp only
  split
  · exact (State.reg_setReg_ne _ _ (pendReg_ne hp (by decide))).trans hshow
  · exact hshow

theorem State.regsBut_showPend (s : State) (p : Nat) : RegsBut [p + 0x18, pendReg p] s (s.showPend p) := by
  intro a ha
  simp only [List.mem_cons, List.not_mem_nil, or_false, not_or] at ha
  exact s.reg_showPend p a ha.1 ha.2

theorem State.typeAt_of_kept {w : List Field} {s t : State} (h : Kept w s t) (ha : Field.asm ∉ w) (site blk : Nat) :
    t.typeAt site blk = s.typeAt site blk :=
  congrArg (fun asm => pageType asm site blk) (h.same .asm ha)

theorem State.typeAt_setReg (s : State) (a : Nat) (v : Word) (site blk : Nat) : (s.setReg a v).typeAt site blk = s.typeAt site blk :=
  State.typeAt_of_kept (State.setReg_kept (ws := [.regs]) rfl a v (Kept.refl _ s)) (by decide) site blk

section
variable {s : State} {req site blk off : Nat} {r : RegDef} {val : Word}

/-- A direct write that passes its checks is applied (03 R51, R60, R71). -/
theorem State.regRule_of_passes (hok : staticReason r val = none) (hrwl : r.acc ≠ .rwl ∨ s.st (pg site blk) ≠ 7)
    (hrws : r.acc ≠ .rws ∨ s.openSlot site blk = none) (hrange : s.valueBad site blk off val = false) (hspi : s.typeAt site blk ≠ 0x35)
    (hstate : s.stateReason req site blk off (s.reg (pg site blk + off)) (maskedWrite r (s.reg (pg site blk + off)) val) = none) :
    s.regRule req site blk off r val = s.regApply site blk off r val := by
  have hunlocked : ¬ (r.acc = .rwl ∧ s.st (pg site blk) = 7) := by tauto
  have hdirect : ¬ (s.typeAt site blk = 0x35 ∧ off = 0x44) := fun h => hspi h.1
  unfold State.regRule
  simp only [hok, if_neg hunlocked, hrange, Bool.false_eq_true, if_false, if_neg hdirect, hstate]
  rcases hrws with h | h
  · rw [if_neg (by simpa using h)]
  · rw [h]
    exact ite_self _

/-- EVT_MASK has no rule of its own on any page. -/
theorem State.ownRule_evtMask (s : State) (req site blk : Nat) (val : Word) : s.ownRule req site blk 0x14 val = none := by
  simp [State.ownRule]

/-- A write of a register without a rule of its own that passes its checks is applied. -/
theorem State.pageWrite_of_passes (hown : s.ownRule req site blk off val = none) (hok : staticReason r val = none)
    (hrwl : r.acc ≠ .rwl ∨ s.st (pg site blk) ≠ 7) (hrws : r.acc ≠ .rws ∨ s.openSlot site blk = none)
    (hrange : s.valueBad site blk off val = false) (hspi : s.typeAt site blk ≠ 0x35)
    (hstate : s.stateReason req site blk off (s.reg (pg site blk + off)) (maskedWrite r (s.reg (pg site blk + off)) val) = none) :
    s.pageWrite req site blk off r val = s.regApply site blk off r val := by
  unfold State.pageWrite
  rw [hown]
  exact State.regRule_of_passes hok hrwl hrws hrange hspi hstate

/-- A block without a further effect takes a change of a register as it is. -/
theorem State.regApply_of_plain (h14 : off ≠ 0x14) (hty : s.typeAt site blk ∉ [0x09, 0x0B, 0x30, 0x31, 0x33, 0x34, 0x35, 0x37, 0x39, 0x3B, 0x3C]) :
    s.regApply site blk off r val = s.setReg (pg site blk + off) (maskedWrite r (s.reg (pg site blk + off)) val) := by
  simp only [List.mem_cons, List.not_mem_nil, or_false, not_or] at hty
  simp only [State.regApply, State.regDone, h14, State.typeAt_setReg, hty, if_false]

theorem State.regDone_evtMask (s : State) (site blk : Nat) (old new : Word) :
    s.regDone site blk 0x14 old new = (s.showPend (pg site blk)).signal (s.reg (pg site blk + 0x10) &&& old) (pg site blk) := by
  unfold State.regDone
  exact if_pos rfl

/-- EVT_MASK as stored shows in EVT_PEND, and may signal the page's interrupt (03 R57). -/
theorem State.regApply_evtMask (s : State) (site blk : Nat) (r : RegDef) (val : Word) :
    ∃ before : Word, s.regApply site blk 0x14 r val =
      ((s.setReg (pg site blk + 0x14) (maskedWrite r (s.reg (pg site blk + 0x14)) val)).showPend (pg site blk)).signal before (pg site blk) := by
  unfold State.regApply
  dsimp only
  rw [State.regDone_evtMask]
  exact ⟨_, rfl⟩

end

/-- Settles O14: a write that passes its checks by `regApply`, one of part of a register by its rejection, a 64-bit one by its halves. -/
theorem registerWriteEffect : Obligations.RegisterWriteEffect := by
  unfold Obligations.RegisterWriteEffect
  refine ⟨?mask, ?plain, ?size, ?wide⟩
  case mask =>
    intro s req addr val r hgate hdue h4 hmap h14 hok hrw hrange hspi hstate
    have haddr : pg (siteOf addr) (blkOf addr) + 0x14 = addr := by
      rw [← h14]
      exact pg_add_offOf (by have := State.site_of_present (State.present_of_gateWrite hgate); omega)
    have aligned := pg_aligned (siteOf addr) (blkOf addr)
    have hexec := exec_registerWrite_of_mapped hgate val hdue h4 hmap
    rw [h14, State.pageWrite_of_passes (s.ownRule_evtMask _ _ _ _) hok (.inl (by rw [hrw]; decide)) (.inl (by rw [hrw]; decide)) hrange hspi
      (by rw [haddr]; exact hstate)] at hexec
    obtain ⟨before, happly⟩ := s.regApply_evtMask (siteOf addr) (blkOf addr) r val
    rw [happly] at hexec
    generalize pg (siteOf addr) (blkOf addr) = p at *
    have h18 : addr + 4 = p + 0x18 := by omega
    have h10 : addr - 4 = p + 0x10 := by omega
    refine ⟨_, hexec, ?_, ?_, ?_, ?_⟩
    · rw [State.reg_signal, State.reg_showPend _ _ _ (by omega) (haddr ▸ pendReg_ne aligned (by decide)), haddr, State.reg_setReg_same]
    · rw [State.reg_signal, h18, State.reg_showPend_pend _ aligned, State.pend, State.reg_setReg_same, State.reg_setReg_ne _ _ (by omega), h10, haddr]
    · exact (State.signal_kept rfl _ _ (State.showPend_kept rfl _ (State.setReg_kept rfl _ _ (Kept.refl _ s)))).same
    · have hbut := ((RegsBut.refl [addr, addr + 4, pendReg p] s).setReg (a := p + 0x14) (maskedWrite r (s.reg (p + 0x14)) val) (by simp [haddr])).trans
        ((State.regsBut_showPend _ p).mono (by simp [h18]))
      exact hbut.of_reg (fun a => State.reg_signal _ _ _ a)
  case plain =>
    intro s req addr val r hgate hdue h4 hmap h14 hown hok hrwl hrws hrange hstate hty
    have haddr : pg (siteOf addr) (blkOf addr) + offOf addr = addr :=
      pg_add_offOf (by have := State.site_of_present (State.present_of_gateWrite hgate); omega)
    have hexec := exec_registerWrite_of_mapped hgate val hdue h4 hmap
    rw [State.pageWrite_of_passes (Option.isNone_iff_eq_none.mp hown) hok hrwl hrws hrange (fun h => hty (by simp [h])) (by rw [haddr]; exact hstate),
      State.regApply_of_plain h14 hty, haddr] at hexec
    exact ⟨_, hexec, s.reg_setReg_same _ _, (State.setReg_kept rfl _ _ (Kept.refl _ s)).same, (RegsBut.refl _ s).setReg _ (by simp)⟩
  case size =>
    intro s req addr val be hgate _ hbe
    exact ⟨_, exec_registerWrite_of_partial hgate val hbe, s.reject_records_page req _ _ 10 (offOf_lt addr)⟩
  case wide =>
    intro s a b req addr lo hi h8 hlow hhigh
    have ha : s.write req addr lo 15 = a := Host.Outcome.next.inj hlow
    have hb : a.write req (addr + 4) hi 15 = b := Host.Outcome.next.inj hhigh
    rw [exec_registerWrite64, State.write64, ← hb, ← ha]
    simp only [h8, if_true]

end Sys2Proof.Machine

/-!
CTRL's soft reset, the clears of EVT_RAW and FAULT_CODE, and register parity (03 R54 to R58; 11 R241).
-/
namespace Sys2Proof.Machine

/-- A present page is one of the map's blocks (24 R479). -/
theorem State.blk_of_present {s : State} {site blk : Nat} (h : s.present site blk = true) : blk < 1024 := by
  refine Nat.lt_of_not_le fun hb => ?_
  have hstreams : streamCount s.asm ≤ 32 := by
    unfold streamCount
    split
    · decide
    · split <;> decide
  have hty : s.typeAt site blk = 0 := by
    unfold State.typeAt pageType
    split <;> simp (disch := omega) only [if_neg]
  simp [State.present, hty] at h

section
variable {s : State} {req site blk : Nat}

/-- A write of CTRL that its page takes runs the rule of CTRL (03 R51, R54). -/
theorem State.ctrlWrite_takes (hgate : s.gateWrite req site blk 8 = none) (hdue : s.noneDue site = true) (val : Word) :
    s.ctrlWrite req site blk val = s.ctrlRule req site blk val := by
  rw [State.ctrlWrite, hgate]
  exact congrArg (fun t : State => t.ctrlRule req site blk val) (State.commitsFirst_none hdue)

/-- SOFT_RESET of a page that has CTRL, is not LOCKED and takes it from this requester (03 R54, R56). -/
theorem State.ctrlRule_softReset (hctrl : hasCtrl (s.typeAt site blk) = true) (hown : ctrlOwn (s.typeAt site blk) req = true)
    (hlocked : s.st (pg site blk) ≠ 7) :
    s.ctrlRule req site blk 4#32 =
      if (s.st (pg site blk) ≠ 0 ∧ s.st (pg site blk) ≠ 5) ∨ (s.slotsOf site blk).any (fun k => s.slotGo site k) = true then
        s.reject req (pg site blk) 8 5
      else s.softReset site blk := by
  have hreserved : ¬ (4#32 &&& 0xFFFFFFF8#32 ≠ 0#32) := by decide
  have hen : bitOf 4#32 0 = false := by decide
  have hreset : bitOf 4#32 2 = true := by decide
  simp only [State.ctrlRule, hctrl, hlocked, hreserved, hen, hown, hreset, Bool.true_eq_false, Bool.false_eq_true, and_false, if_false, if_true]

/-- A page with its registers gone back to their reset values and its latches dropped. -/
def State.dropPage (s : State) (p : Nat) : State :=
  { s with regs := s.regs.filter (fun r => !(r.1 / 0x1000 == p / 0x1000)), latch := s.latch.filter (fun r => !(r.1 % 2 ^ 30 / 0x1000 == p / 0x1000)) }

theorem State.clearPage_eq (s : State) (p : Nat) :
    s.clearPage p = if s.pend p != 0#32 then (s.dropPage p).showPend p else s.dropPage p := rfl

theorem State.reg_dropPage (s : State) {p a : Nat} (h : a / 0x1000 = p / 0x1000) : (s.dropPage p).reg a = regReset s.asm a :=
  tabGet_filter_of_drop _ (fun _ => by simp [h]) s.regs

/-- EVT_RAW and EVT_PEND are 0 after reset (03 R72). -/
theorem regReset_evt (asm site blk : Nat) : regReset asm (pg site blk + 0x10) = 0#32 ∧ regReset asm (pg site blk + 0x18) = 0#32 := by
  have hraw : ∀ ty, findReg ty 0x10 = some { off := 0x010, acc := .rw, wm := 0, w1c := 0x7FFFFFFF } := fun _ => rfl
  have hpend : ∀ ty, findReg ty 0x18 = some { off := 0x018, acc := .ro } := fun _ => rfl
  unfold regReset
  rw [offOf_pg_add _ _ (by decide), offOf_pg_add _ _ (by decide)]
  simp [hraw, hpend]

/-- A page that is not the interrupt page reads its reset values once it is cleared (06 R138). -/
theorem State.reg_clearPage (s : State) {off : Nat} (hpend : pendReg (pg site blk) ≠ pg site blk + off) (ho : off < 0x1000) :
    (s.clearPage (pg site blk)).reg (pg site blk + off) = regReset s.asm (pg site blk + off) := by
  have aligned := pg_aligned site blk
  have hdrop : ∀ o, o < 0x1000 → (s.dropPage (pg site blk)).reg (pg site blk + o) = regReset s.asm (pg site blk + o) :=
    fun o h => s.reg_dropPage (by omega)
  obtain ⟨hraw, hshown⟩ := regReset_evt s.asm site blk
  rw [State.clearPage_eq]
  split
  · by_cases h18 : off = 0x18
    · subst h18
      rw [State.reg_showPend_pend _ aligned, hshown, State.pend, hdrop _ (by decide), hraw, BitVec.zero_and]
    · rw [State.reg_showPend _ _ _ (by omega) hpend.symm, hdrop off ho]
  · exact hdrop off ho

/-- A page without a record of its own has nothing to clear but its registers (03 R56). -/
theorem State.resetHook_of_plain (h : s.typeAt site blk ∉
    [0x08, 0x09, 0x30, 0x31, 0x33, 0x34, 0x35, 0x37, 0x3B, 0x40, 0x44, 0x47, 0x49, 0x4A, 0x4B, 0x50]) (was : Nat) : s.resetHook site blk was = s := by
  simp only [List.mem_cons, List.not_mem_nil, or_false, not_or] at h
  simp only [State.resetHook, h, or_self, if_false]

/-- A page of a block with CTRL is not the interrupt page, which shows what is pending (06). -/
theorem pendReg_off_page {off : Nat} (hpresent : s.present site blk = true) (hctrl : hasCtrl (s.typeAt site blk) = true) (ho : off < 0x1000) :
    pendReg (pg site blk) ≠ pg site blk + off := by
  have hs := State.site_of_present hpresent
  have hb := State.blk_of_present hpresent
  have hne : ¬ (site = 8 ∧ blk = 6) := by
    rintro ⟨rfl, rfl⟩
    have hint : s.typeAt 8 6 = 7 := rfl
    rw [hint] at hctrl
    exact absurd hctrl (by decide)
  have hsite : siteOf (pg site blk) = site := by unfold siteOf pg; omega
  have hblk : blkOf (pg site blk) = blk := by unfold blkOf pg; omega
  have hrow : blk / 32 < 32 := by omega
  unfold pendReg
  rw [hsite, hblk]
  unfold pg
  rw [Nat.mod_eq_of_lt (show site < 16 by omega), Nat.mod_eq_of_lt hb]
  clear hsite hblk
  rcases Nat.lt_trichotomy site 8 with h | h | h <;> omega

end

/-- Entering FAULT drops PENDING_EN (03 R55). -/
theorem State.pendingEn_toFault (s : State) {p : Nat} (hp : p % 0x1000 = 0) (code cls : Nat) : (s.toFault p code cls).regBit (p + 8) 1 = false := by
  have hreg : (s.toFault p code cls).reg (p + 8) = ((s.faultRec p code cls).putBit (p + 8) 1 false).reg (p + 8) := by
    unfold State.toFault
    rw [State.reg_evt_page _ hp _ (by decide), State.reg_setSt]
    have := not_evtReg (p := p) (off := 8) hp (by decide) (by decide) (by decide)
    simp [stRegs, this]
  rw [State.regBit, hreg, State.reg_putBit, if_pos rfl]
  exact bitOf_setBit _ (by decide) _

/-- A block fault of a page that is neither OFF nor LOCKED nor in FAULT moves it to FAULT (03 R54). -/
theorem State.blockFault_of_live {s : State} {p : Nat} (h : s.st p ∈ [1, 2, 3, 4, 6]) (code cls : Nat) : s.blockFault p code cls = s.toFault p code cls := by
  simp only [List.mem_cons, List.not_mem_nil, or_false] at h
  rw [State.blockFault, if_neg (by omega), if_neg (by omega)]

/-- A register parity error on a field-die page whose block's fault does nothing more than the page's (11 R241). -/
theorem exec_regParity_of_plain {s : State} {site blk : Nat} (hfield : s.isField site = true) (hpresent : s.present site blk = true)
    (hty : s.typeAt site blk ∉ [0x30, 0x37, 0x3B, 0x3C, 0x3E]) : exec (.regParity site blk) s = .next (s.blockFault (pg site blk) 1 1) := by
  have hmain : s.mainDie site = false := by
    have hdie : dieAt s.asm site = .field := of_decide_eq_true hfield
    unfold State.mainDie
    rw [hdie]
    rfl
  simp only [List.mem_cons, List.not_mem_nil, or_false, not_or] at hty
  change execRegParity site blk s = _
  simp only [execRegParity, hpresent, hmain, hfield, Bool.true_eq_false, Bool.false_eq_true, if_false, if_true, State.regParity, hty]

/-- EVT_RAW's clear leaves the bits not cleared, which EVT_PEND shows under EVT_MASK (03 R57). -/
theorem State.evtClear_leaves (s : State) {p : Nat} (hp : p % 0x1000 = 0) (mask recur : Word) :
    (s.evtClear p mask recur).reg (p + 0x10) = s.reg (p + 0x10) &&& ~~~(mask &&& 0x7FFFFFFF#32 &&& ~~~recur) ∧
      (s.evtClear p mask recur).reg (p + 0x18) = (s.evtClear p mask recur).reg (p + 0x10) &&& s.reg (p + 0x14) ∧
      Only [.regs] s (s.evtClear p mask recur) ∧ RegsBut (evtRegs p) s (s.evtClear p mask recur) := by
  have hraw : (s.evtClear p mask recur).reg (p + 0x10) = s.reg (p + 0x10) &&& ~~~(mask &&& 0x7FFFFFFF#32 &&& ~~~recur) :=
    (State.reg_showPend _ _ _ (by omega) (pendReg_ne hp (by decide))).trans (s.reg_setReg_same _ _)
  refine ⟨hraw, ?_, (State.evtClear_kept rfl _ _ _ (Kept.refl _ s)).same,
    ((RegsBut.refl _ s).setReg (a := p + 0x10) _ (by simp [evtRegs])).trans ((State.regsBut_showPend _ p).mono (by simp [evtRegs]))⟩
  rw [hraw]
  unfold State.evtClear
  rw [State.reg_showPend_pend _ hp, State.pend, State.reg_setReg_same, State.reg_setReg_ne _ _ (by omega)]

section
variable {s : State} {req site blk : Nat}

theorem exec_evtRawClear_takes (hgate : s.gateWrite req site blk 0x10 = none) (hdue : s.noneDue site = true) (mask recur : Word) :
    exec (.evtRawClear req site blk mask recur) s = .next (s.evtClear (pg site blk) mask recur) := by
  change execEvtRawClear req site blk mask recur s = _
  rw [execEvtRawClear, hgate, State.commitsFirst_none hdue]

theorem exec_faultCodeClear_takes (hgate : s.gateWrite req site blk 0x1C = none) (hdue : s.noneDue site = true) (val : Word) :
    exec (.faultCodeClear req site blk val) s =
      .next (if val ≠ 0#32 ∨ s.st (pg site blk) = 5 then s.reject req (pg site blk) 0x1C 5 else s.setNat (pg site blk + 0x1C) 0) := by
  change execFaultCodeClear req site blk val s = _
  rw [execFaultCodeClear, hgate, State.commitsFirst_none hdue]
  rfl

theorem exec_softReset_takes (hgate : s.gateWrite req site blk 8 = none) (hdue : s.noneDue site = true) :
    exec (.softReset req site blk) s = .next (s.ctrlRule req site blk 4#32) :=
  congrArg Host.Outcome.next (State.ctrlWrite_takes hgate hdue 4#32)

end

/-- Settles O16: each command by the one operation it comes to. -/
theorem softResetEventAndFaultClear : Obligations.SoftResetEventAndFaultClear := by
  unfold Obligations.SoftResetEventAndFaultClear
  refine ⟨?reset, ?resetRejected, ?evtRaw, ?faultCode, ?faultCodeRejected, ?parity⟩
  case reset =>
    intro s req site blk hgate hdue hctrl hown hst hslots hty htxn
    have hrun : s.ctrlRule req site blk 4#32 = s.clearPage (pg site blk) := by
      have hplain : (s.clearPage (pg site blk)).typeAt site blk = s.typeAt site blk :=
        State.typeAt_of_kept (State.clearPage_kept (ws := [.regs, .latch]) rfl _ (Kept.refl _ s)) (by decide) site blk
      rw [State.ctrlRule_softReset hctrl hown (by omega), if_neg (by rw [hslots]; simp; omega), State.softReset, hslots, htxn]
      exact State.resetHook_of_plain (by rw [List.foldl_nil, hplain]; exact hty) _
    have hexec := exec_softReset_takes hgate hdue
    rw [hrun] at hexec
    refine ⟨_, hexec, fun off ho => s.reg_clearPage (pendReg_off_page (State.present_of_gateWrite hgate) hctrl ho) ho, ?_⟩
    exact ((State.clearPage_kept (ws := [.regs, .latch]) rfl _ (Kept.refl _ s)).mono rfl).same
  case resetRejected =>
    intro s req site blk hgate hdue hctrl hown hst
    have hexec := exec_softReset_takes hgate hdue
    simp only [List.mem_cons, List.not_mem_nil, or_false] at hst
    rw [State.ctrlRule_softReset hctrl hown (by omega), if_pos (.inl (by omega))] at hexec
    exact ⟨_, hexec, s.reject_records_page req site blk 5 (by decide)⟩
  case evtRaw =>
    intro s req site blk mask recur hgate hdue
    exact ⟨_, exec_evtRawClear_takes hgate hdue mask recur, s.evtClear_leaves (pg_aligned site blk) mask recur⟩
  case faultCode =>
    intro s req site blk hgate hdue hst
    refine ⟨_, (exec_faultCodeClear_takes hgate hdue 0#32).trans (by rw [if_neg (by simpa using hst)]), ?_,
      (State.setNat_kept rfl _ _ (Kept.refl _ s)).same, (RegsBut.refl _ s).setNat _ (by simp)⟩
    rw [State.reg_setNat, if_pos rfl]
  case faultCodeRejected =>
    intro s req site blk val hgate hdue hwhy
    exact ⟨_, (exec_faultCodeClear_takes hgate hdue val).trans (by rw [if_pos hwhy]), s.reject_records_page req site blk 5 (by decide)⟩
  case parity =>
    intro s site blk hfield hpresent hty hst
    have aligned := pg_aligned site blk
    exact ⟨_, (exec_regParity_of_plain hfield hpresent hty).trans (by rw [State.blockFault_of_live hst]), s.st_toFault aligned 1 1,
      s.pendingEn_toFault aligned 1 1, s.latched_toFault aligned 1 1, (State.toFault_kept rfl _ _ _ (Kept.refl _ s)).same,
      fun a ha => s.reg_toFault _ 1 1 a ha⟩

end Sys2Proof.Machine

/-!
The start of an axis (03 R54; 15 R325).
-/
namespace Sys2Proof.Machine

/-- BLOCK_READY of an axis page that is STARTING moves it to RUNNING, and its coils are energised (03 R54; 15). -/
theorem exec_blockReady_axis {s : State} {site blk : Nat} (hpresent : s.present site blk = true) (hst : s.st (pg site blk) = 1)
    (hready : s.startDone site blk = true) (hty : s.typeAt site blk = 0x37) :
    exec (.blockReady site blk) s = .next ((s.setSt (pg site blk) 2).axisReady site (blk - 0x40)) := by
  have hty' : (s.setSt (pg site blk) 2).typeAt site blk = 0x37 :=
    (State.typeAt_of_kept (State.setSt_kept (ws := [.regs, .bar2, .out]) rfl _ _ (Kept.refl _ s)) (by decide) site blk).trans hty
  have hhook : (s.setSt (pg site blk) 2).readyHook site blk = (s.setSt (pg site blk) 2).axisReady site (blk - 0x40) := by
    unfold State.readyHook
    dsimp only
    rw [if_neg (by rw [hty']; decide), if_pos hty']
  rw [← hhook]
  exact congrArg Host.Outcome.next (if_pos ⟨hpresent, hst, hready⟩)

/-- Axis 0 of the field die of fitting 2, STARTING. -/
def axisStarting : State := { State.reset with regs := [(pg 11 0x40 + 0xC, 1#32)] }

/-- Refutes O15: its clause on BLOCK_READY lets an axis page change nothing but its STATE and events. An axis that becomes ready is energised
at I_HOLD, and AX_STATUS shows AT_HOLD (15 R325; log 80). -/
theorem not_enableStopAndPendingStart : ¬ Obligations.EnableStopAndPendingStart := by
  unfold Obligations.EnableStopAndPendingStart
  rintro ⟨-, -, -, -, -, -, -, ready⟩
  have hpresent : axisStarting.present 11 0x40 = true := by decide
  have hst : axisStarting.st (pg 11 0x40) = 1 := by decide
  have hready : axisStarting.startDone 11 0x40 = true := by decide
  obtain ⟨t, hexec, -, -, -, hbut⟩ := ready axisStarting 11 0x40 hpresent hst hready (by decide)
  rw [exec_blockReady_axis hpresent hst hready (by decide)] at hexec
  cases hexec
  have hshown : ((axisStarting.setSt (pg 11 0x40) 2).axisReady 11 0).regBit (axPage 11 0 + 0x94) 10 = true := by decide
  have hkept := State.regBit_of_reg (hbut (axPage 11 0 + 0x94) (by decide)) 10
  exact absurd (hshown.symm.trans hkept) (by decide)

end Sys2Proof.Machine

/-!
A slot's boundary, and the order in which due slots run (03 R66).
-/
namespace Sys2Proof.Machine

/-- A due slot does not apply while another of its site that comes before it waits (03 R66). -/
theorem exec_txnBoundary_of_waits {s : State} {site k : Nat} (h : s.slotNext site k = false) : exec (.txnBoundary site k) s = .next s :=
  congrArg Host.Outcome.next (if_neg (fun hc => Bool.false_ne_true (h.symm.trans hc.1)))

/-- Two STAGED slots of the field die of fitting 2, both committed NOW, slot 1 armed before slot 0. -/
def twoSlotsDue : State := { State.reset with slots := [(44, { st := 3, arm := { order := 1 } }), (45, { st := 3 })] }

/-- Refutes O17: its clause on a slot that is due does not ask that no other slot comes before it. Of two slots due at once the one armed
first applies first, so TXN_BOUNDARY of the other leaves it STAGED (03 R66). -/
theorem not_transactionSlotCommands : ¬ Obligations.TransactionSlotCommands := by
  unfold Obligations.TransactionSlotCommands
  rintro ⟨-, -, -, -, -, -, applies, -⟩
  have hwaits : twoSlotsDue.slotNext 11 0 = false := by decide
  obtain ⟨t, hexec, hdone, -⟩ := applies twoSlotsDue 11 0 (by decide) rfl (by decide)
  rw [exec_txnBoundary_of_waits hwaits] at hexec
  cases hexec
  exact absurd (congrArg Slot.st hdone) (by decide)

end Sys2Proof.Machine

/-!
Cross-site groups (03 R69, R70): what an abort and a commit leave of a slot.
-/
namespace Sys2Proof.Machine

section
variable {w : List Field} {s t : State}

theorem State.slot_of_kept (h : Kept w s t) (hs : Field.slots ∉ w) (site k : Nat) : t.slot site k = s.slot site k := by
  have hslots : t.slots = s.slots := h.same .slots hs
  unfold State.slot
  rw [hslots]

end

theorem State.slot_setSlot (s : State) (site k site' k' : Nat) (x : Slot) :
    (s.setSlot site' k' x).slot site k = if site * 4 + k = site' * 4 + k' then x else s.slot site k := by
  unfold State.slot State.setSlot
  split
  · next h => rw [h]; exact tabGet_tabPut_same _ _ _ _
  · next h => exact tabGet_tabPut_ne _ _ _ _ h

/-- An aborted slot: its entries are discarded, and its reason and lateness noted (03 R67). -/
def Slot.aborted (x : Slot) (reason : Nat) (late : Bool) : Slot := { x with st := 5, entries := [], reason := reason, late := x.late || late }

/-- A slot that has been aborted for a reason, and late where the abort is. -/
def Slot.Ended (reason : Nat) (late : Bool) (x : Slot) : Prop := x.st = 5 ∧ x.reason = reason ∧ (late = true → x.late = true)

theorem Slot.ended_aborted (x : Slot) (reason : Nat) (late : Bool) : (x.aborted reason late).Ended reason late :=
  ⟨rfl, rfl, fun h => by simp [Slot.aborted, h]⟩

/-- Beside the slot itself an abort leaves events and TXN_STATUS alone (03 R67). -/
theorem State.abortSlot_kept_setSlot (s : State) (site k reason : Nat) (late : Bool) :
    Kept [.regs, .bar2, .out] (s.setSlot site k ((s.slot site k).aborted reason late)) (s.abortSlot site k reason late) :=
  State.showTxn_kept rfl _ _ (Kept.foldl (fun _ _ h => State.evtIf_kept rfl _ _ _ (State.evt_kept rfl _ _ h)) _ _ (Kept.refl _ _))

theorem State.slot_abortSlot (s : State) (site k site' k' reason : Nat) (late : Bool) :
    (s.abortSlot site' k' reason late).slot site k =
      if site * 4 + k = site' * 4 + k' then (s.slot site' k').aborted reason late else s.slot site k :=
  (State.slot_of_kept (s.abortSlot_kept_setSlot site' k' reason late) (by decide) site k).trans (s.slot_setSlot site k site' k' _)

/-- A group's abort ends each of its slots, and the group is free (03 R70). -/
theorem State.abortGroup_ends (s : State) (g reason : Nat) (late : Bool) :
    (s.abortGroup g reason late).group g = {} ∧
      (∀ k ∈ s.groupSlots g, ((s.abortGroup g reason late).slot k.1 k.2).Ended reason late) ∧
      Only [.regs, .bar2, .out, .slots, .groups] s (s.abortGroup g reason late) := by
  refine ⟨State.group_setGroup_same _ _ _, fun k hk => ?_, (State.abortGroup_kept rfl g reason late (Kept.refl _ s)).same⟩
  have hfree := State.slot_of_kept (State.setGroup_kept (ws := [.groups]) rfl g {}
    (Kept.refl _ ((s.groupSlots g).foldl (fun s k => s.abortSlot k.1 k.2 reason late) s))) (by decide) k.1 k.2
  unfold State.abortGroup
  rw [hfree]
  refine foldl_establishes (P := fun _ => True) (Q := fun u => (u.slot k.1 k.2).Ended reason late) (x := k) (fun u _ => ?_) (fun _ _ _ => trivial)
    (fun u j hu => ?_) _ s hk trivial
  · rw [State.slot_abortSlot, if_pos rfl]
    exact Slot.ended_aborted _ reason late
  · rw [State.slot_abortSlot]
    split
    · exact Slot.ended_aborted _ reason late
    · exact hu

/-- A slot that applies is DONE and empty (03 R63). -/
theorem State.slot_applySlot (s : State) (site k stamp : Nat) (late : Bool) :
    (s.applySlot site k stamp late).slot site k = { s.slot site k with st := 4, entries := [], late := late } := by
  have hkept : ∃ u : State, Kept [.regs, .bar2, .out] (u.setSlot site k { s.slot site k with st := 4, entries := [], late := late })
      (s.applySlot site k stamp late) :=
    ⟨_, State.showTxn_kept rfl _ _ (Kept.foldl (fun _ _ h => State.evt_kept rfl _ _
      (Kept.ite (State.evt_kept rfl _ _ (State.setNat_kept rfl _ _ h)) h)) _ _ (Kept.refl _ _))⟩
  obtain ⟨u, hu⟩ := hkept
  exact (State.slot_of_kept hu (by decide) site k).trans (State.slot_setSlot_same _ _ _ _)

section
variable {s : State} {g : Nat}

/-- The group of a site whose slot is staged, with the site's report added (03 R69). -/
def State.reported (s : State) (site g : Nat) : State := s.setGroup g { s.group g with reports := (s.group g).reports ++ [(s.pkg, site, 0)] }

/-- STAGED_REPORT of a site whose checks pass adds its report, and sets GO if it was the last (03 R69). -/
theorem exec_stagedReport_adds {site : Nat} {k : Nat × Nat} (hg : g < 16) (hgo : (s.group g).go = false)
    (hnew : (s.group g).reports.contains (s.pkg, site, 0) = false)
    (hfind : (s.groupSlots g).find? (fun k => k.1 == site && (s.slot k.1 k.2).st == 3) = some k) (hchecks : s.boundaryReason k.1 k.2 = none) :
    exec (.stagedReport s.pkg site g) s = .next ((s.reported site g).setGo g) := by
  have hg' : ¬ 16 ≤ g := by omega
  change execStagedReport s.pkg site g s = _
  simp only [execStagedReport, hg', hgo, hnew, Bool.false_eq_true, or_self, if_false, ne_eq, not_true_eq_false, hfind, hchecks, State.reported]

/-- No GO while a report is missing (03 R69). -/
theorem State.setGo_of_missing (h : s.allReported g = false) : s.setGo g = s := by
  unfold State.setGo
  split
  · rfl
  · exact if_pos h

/-- GO at WHEN where the last report is in by WHEN - 10 µs (03 R69). -/
theorem State.setGo_of_inTime {a : Armed} (hwhen : s.groupWhen g = some a) (hall : s.allReported g = true) (hwaiting : (s.group g).waiting = false)
    (htime : s.ns + s.groupMargin g * 1000 ≤ a.at_.value * 1000) : s.setGo g = s.setGroup g { s.group g with go := true, tGo := a.at_.value } := by
  have hlate : ¬ a.at_.value * 1000 < s.ns + s.groupMargin g * 1000 := Nat.not_lt.mpr htime
  have hexpired : ¬ a.at_.value * 1000 + 1000000 < s.ns := Nat.not_lt.mpr ((Nat.le_add_right _ _).trans (htime.trans (Nat.le_add_right _ _)))
  unfold State.setGo
  simp only [hwhen, hall, hwaiting, hlate, hexpired, decide_false, Bool.or_self, Bool.true_eq_false, if_false, if_true]

/-- GROUP_REPORT_DEADLINE of a group without GO: EXECUTE waits, DISCARD aborts late (03 R69). -/
theorem exec_groupReportDeadline_due {a : Armed} (hwhen : s.groupWhen g = some a) (hgo : (s.group g).go = false)
    (hdue : a.at_.value * 1000 ≤ s.ns + s.groupMargin g * 1000) :
    exec (.groupReportDeadline g) s = .next (if a.discard = true then s.abortGroup g 2 true else s.setGroup g { s.group g with waiting := true }) := by
  have hearly : ¬ s.ns + s.groupMargin g * 1000 < a.at_.value * 1000 := Nat.not_lt.mpr hdue
  change execGroupReportDeadline g s = _
  simp only [execGroupReportDeadline, hwhen, hgo, hearly, Bool.false_eq_true, or_self, if_false]

/-- GROUP_ABORT of a group without GO at WHEN + 1 ms (03 R69). -/
theorem exec_groupAbort_due {a : Armed} (hwhen : s.groupWhen g = some a) (hgo : (s.group g).go = false) (hdue : a.at_.value * 1000 + 1000000 ≤ s.ns) :
    exec (.groupAbort g) s = .next (s.abortGroup g 9 true) := by
  have hearly : ¬ s.ns < a.at_.value * 1000 + 1000000 := by omega
  change execGroupAbort g s = _
  simp only [execGroupAbort, hwhen, hgo, hearly, Bool.false_eq_true, or_self, if_false]

section
variable {site : Nat} {k : Nat × Nat} (hfind : (s.groupSlots g).find? (fun k => k.1 == site) = some k)
include hfind

/-- CROSS_APPLY at T_GO (03 R69). -/
theorem exec_crossApply_go (hgo : (s.group g).go = true) (hdue : (s.group g).tGo * 1000 ≤ s.ns) :
    exec (.crossApply site g) s =
      .next (s.applySlot k.1 k.2 ((s.group g).tGo % 2 ^ 32) ((s.group g).tGo != (s.slot k.1 k.2).arm.at_.value)) := by
  change execCrossApply site g s = _
  simp only [execCrossApply, hfind, hgo, hdue, if_true]

/-- CROSS_APPLY at the boundary of a group without GO that does not wait (03 R70). -/
theorem exec_crossApply_noGo (hgo : (s.group g).go = false) (hwaiting : (s.group g).waiting = false)
    (hdue : (s.slot k.1 k.2).arm.at_.value * 1000 ≤ s.ns) : exec (.crossApply site g) s = .next (s.abortGroup g 9 false) := by
  change execCrossApply site g s = _
  simp only [execCrossApply, hfind, hgo, hwaiting, hdue, Bool.false_eq_true, and_self, if_false, if_true]

end

end

/-- Settles O18: reports by `setGo`, deadlines by what the abort of a group leaves, the boundary by what a slot that applies leaves. -/
theorem crossSiteGroupCommands : Obligations.CrossSiteGroupCommands := by
  unfold Obligations.CrossSiteGroupCommands
  refine ⟨?report, ?lastReport, ?waits, ?discards, ?expires, ?go, ?noGo⟩
  case report =>
    intro s site g k hg hgo hnew hfind hchecks hmissing
    have hexec := exec_stagedReport_adds hg hgo hnew hfind hchecks
    rw [State.setGo_of_missing (s := s.reported site g) hmissing] at hexec
    exact ⟨_, hexec, State.group_setGroup_same _ _ _, (State.setGroup_kept rfl _ _ (Kept.refl _ s)).same⟩
  case lastReport =>
    intro s site g k a hg hgo hwaiting hnew hfind hchecks hall hwhen htime
    have hexec := exec_stagedReport_adds hg hgo hnew hfind hchecks
    have hgroup : (s.reported site g).group g = { s.group g with reports := (s.group g).reports ++ [(s.pkg, site, 0)] } := State.group_setGroup_same _ _ _
    rw [State.setGo_of_inTime (s := s.reported site g) hwhen hall (by rw [hgroup]; exact hwaiting) htime] at hexec
    refine ⟨_, hexec, ?_, ?_, (State.setGroup_kept rfl _ _ (State.setGroup_kept rfl _ _ (Kept.refl _ s))).same⟩
    · rw [State.group_setGroup_same]
    · rw [State.group_setGroup_same]
  case waits =>
    intro s g a hwhen hgo hdue hpolicy
    have hexec := exec_groupReportDeadline_due hwhen hgo hdue
    rw [if_neg (by rw [hpolicy]; decide)] at hexec
    exact ⟨_, hexec, State.group_setGroup_same _ _ _, (State.setGroup_kept rfl _ _ (Kept.refl _ s)).same⟩
  case discards =>
    intro s g a hwhen hgo hdue hpolicy
    have hexec := exec_groupReportDeadline_due hwhen hgo hdue
    rw [if_pos hpolicy] at hexec
    obtain ⟨hfree, hended, honly⟩ := s.abortGroup_ends g 2 true
    refine ⟨_, hexec, hfree, fun k hk => ?_, honly⟩
    obtain ⟨hst, hreason, hlate⟩ := hended k hk
    exact ⟨hst, hreason, hlate rfl⟩
  case expires =>
    intro s g a hwhen hgo hdue
    obtain ⟨hfree, hended, honly⟩ := s.abortGroup_ends g 9 true
    refine ⟨_, exec_groupAbort_due hwhen hgo hdue, hfree, fun k hk => ?_, honly⟩
    obtain ⟨hst, hreason, hlate⟩ := hended k hk
    exact ⟨hst, hreason, hlate rfl⟩
  case go =>
    intro s site g k hfind hgo hdue
    have hslot := s.slot_applySlot k.1 k.2 ((s.group g).tGo % 2 ^ 32) ((s.group g).tGo != (s.slot k.1 k.2).arm.at_.value)
    exact ⟨_, exec_crossApply_go hfind hgo hdue, congrArg Slot.st hslot, congrArg Slot.entries hslot, congrArg Slot.late hslot,
      (State.applySlot_kept rfl _ _ _ _ (Kept.refl _ s)).same⟩
  case noGo =>
    intro s site g k hfind hgo hwaiting hdue
    obtain ⟨hfree, hended, honly⟩ := s.abortGroup_ends g 9 false
    refine ⟨_, exec_crossApply_noGo hfind hgo hwaiting hdue, hfree, fun j hj => ?_, honly⟩
    obtain ⟨hst, hreason, -⟩ := hended j hj
    exact ⟨hst, hreason⟩

end Sys2Proof.Machine

/-!
Where the registers of a page lie: block and offset of an address, the pages of a row of units, and the registers of an event (03 R49, R57).
-/
namespace Sys2Proof.Machine

theorem blkOf_add {p off : Nat} (hp : p % 0x1000 = 0) (ho : off < 0x1000) : blkOf (p + off) = blkOf p := by
  obtain ⟨k, rfl⟩ := Nat.dvd_of_mod_eq_zero hp
  unfold blkOf
  rw [Nat.mul_add_div (by decide), Nat.div_eq_of_lt ho, Nat.mul_div_cancel_left k (by decide), Nat.add_zero]

theorem offOf_add {p off : Nat} (hp : p % 0x1000 = 0) (ho : off < 0x1000) : offOf (p + off) = off := by
  unfold offOf
  rw [Nat.add_mod, hp, Nat.zero_add, Nat.mod_mod, Nat.mod_eq_of_lt ho]

theorem siteOf_le_add (p off : Nat) : siteOf p ≤ siteOf (p + off) := Nat.div_le_div_right (Nat.le_add_right p off)

/-- The pages of `n` units stand in a row from block `lo` on. -/
theorem row_lt (k : Nat) {lo n : Nat} (hrow : 0 < n ∧ lo + n ≤ 1024) : lo + k % n < 1024 :=
  (Nat.add_lt_add_left (Nat.mod_lt k hrow.1) lo).trans_le hrow.2

theorem blkOf_row (site k : Nat) {lo n off : Nat} (hrow : 0 < n ∧ lo + n ≤ 1024) (ho : off < 0x1000) :
    blkOf (pg site (lo + k % n) + off) = lo + k % n := blkOf_pg_add site (row_lt k hrow) ho

theorem ne_pg_add_of_blk {a site blk off : Nat} (hb : blk < 1024) (ho : off < 0x1000) (h : blkOf a ≠ blk) : a ≠ pg site blk + off :=
  fun e => h (e ▸ blkOf_pg_add site hb ho)

theorem siteOf_lt_of_isPage {p : Nat} (hp : IsPage p) : siteOf p < 16 := Nat.div_lt_of_lt_mul hp.2

/-- PEND_MAP lies at block 6. -/
theorem blkOf_pendReg {p : Nat} (hp : IsPage p) : blkOf (pendReg p) = 6 := by
  have hsite := siteOf_lt_of_isPage hp
  have hblk : blkOf p < 1024 := Nat.mod_lt _ (by decide)
  unfold pendReg
  rw [Nat.add_assoc, Nat.add_assoc]
  exact blkOf_pg_add 8 (by decide) (by omega)

theorem not_mem_evtRegs {a p : Nat} (hp : IsPage p) (h10 : a ≠ p + 0x10) (h18 : a ≠ p + 0x18) (h6 : blkOf a ≠ 6) : a ∉ evtRegs p := by
  simp only [evtRegs, List.mem_cons, List.not_mem_nil, or_false, not_or]
  exact ⟨h10, h18, fun e => h6 (e ▸ blkOf_pendReg hp)⟩

theorem not_mem_evtRegs_of_blk {a site blk : Nat} (hb : blk < 1024) (h : blkOf a ≠ blk) (h6 : blkOf a ≠ 6) : a ∉ evtRegs (pg site blk) :=
  not_mem_evtRegs (isPage_pg site blk) (ne_pg_add_of_blk hb (by decide) h) (ne_pg_add_of_blk hb (by decide) h) h6

end Sys2Proof.Machine

/-!
What the waits of a die's cores and queues, its status bits and the gates' caps leave of the registers (07 R153; 10 R214; 19 R398, R399).
-/
namespace Sys2Proof.Machine

/-- What every pass of a fold leaves, the fold leaves. -/
theorem foldl_keeps {σ α β : Type} {f : σ → α → σ} (r : σ → β) :
    ∀ (l : List α) (s : σ), (∀ t x, x ∈ l → r (f t x) = r t) → r (l.foldl f s) = r s
  | [], _, _ => rfl
  | x :: l, s, hf => (foldl_keeps r l (f s x) (fun t y hy => hf t y (List.mem_cons_of_mem _ hy))).trans (hf s x List.mem_cons_self)

theorem State.reg_ite {c : Prop} [Decidable c] {s t u : State} {a : Nat} (h1 : t.reg a = s.reg a) (h2 : u.reg a = s.reg a) :
    (if c then t else u).reg a = s.reg a := by
  split
  · exact h1
  · exact h2

/-- A register below the pages of the cores. -/
def BelowCores (a : Nat) : Prop := blkOf a < 0x100

theorem belowCores_iff {a : Nat} : BelowCores a ↔ blkOf a < 0x100 := Iff.rfl

/-- The pages of the cores and of their queues lie above. -/
theorem BelowCores.ne_row {a : Nat} (ha : BelowCores a) (site k : Nat) {lo n off : Nat} (hlo : 0x100 ≤ lo) (hrow : 0 < n ∧ lo + n ≤ 1024)
    (ho : off < 0x1000) : a ≠ pg site (lo + k % n) + off :=
  ne_pg_add_of_blk (row_lt k hrow) ho (Nat.ne_of_lt (ha.trans_le (hlo.trans (Nat.le_add_right _ _))))

section
variable {s : State} {a : Nat} (ha : BelowCores a)
include ha

theorem State.reg_prof (site phys i n : Nat) (hi : i < 4) : (s.prof site phys i n).reg a = s.reg a := by
  have hne : ∀ off, off < 0x1000 → a ≠ corePage site phys + off := fun _ ho => ha.ne_row site phys (by decide) (by decide) ho
  have hlo : a ≠ corePage site phys + 0x60 + 8 * i := by rw [Nat.add_assoc]; exact hne _ (by omega)
  have hhi : a ≠ corePage site phys + 0x60 + 8 * i + 4 := by rw [Nat.add_assoc, Nat.add_assoc]; exact hne _ (by omega)
  unfold State.prof
  extract_lets p conf
  split
  · unfold State.setWide
    rw [State.reg_setNat, if_neg hhi, State.reg_setNat, if_neg hlo]
  · rfl

theorem State.reg_coreGo (site c : Nat) (again : Bool) : (s.coreGo site c again).reg a = s.reg a := by
  have hcount : ∀ x n, ((s.setCore site c x).prof site c 0 n).reg a = s.reg a := fun x n => State.reg_prof ha site c 0 n (by decide)
  unfold State.coreGo
  dsimp only
  split
  · rfl
  · split
    · exact hcount _ _
    · exact (State.reg_prof ha site c 3 _ (by decide)).trans (hcount _ _)

theorem State.reg_queueGo (site c q : Nat) (again : Bool) : (s.queueGo site c q again).reg a = s.reg a := by
  have hmv : a ≠ mvPage site c + 0x74 := ha.ne_row site c (by decide) (by decide) (by decide)
  unfold State.queueGo
  dsimp only
  split
  · rfl
  · exact State.reg_ite rfl ((State.reg_addSat _ _ _ _).trans (if_neg hmv))

/-- A change of a die's clock shows in its F_NOW, and in what its cores and queues count (19 R393). -/
theorem State.reg_setMhz (site mhz : Nat) :
    (s.setMhz site mhz).reg a = if a = dpPage site + 0x44 then setFld (s.reg (dpPage site + 0x44)) 0 12 mhz else s.reg a := by
  unfold State.setMhz
  extract_lets s1
  have hwaits : ∀ b, BelowCores b → (s1.settleBuckets site).reg b = s.reg b := by
    intro b hb
    refine (State.reg_of_kept (State.settleBuckets_kept (ws := [.buckets]) rfl site (Kept.refl _ s1)) b (by decide) (by decide)).trans ?_
    refine foldl_keeps (fun t : State => t.reg b) _ s (fun t c _ => ?_)
    exact (foldl_keeps (fun t : State => t.reg b) _ _ (fun t q _ => State.reg_queueGo hb site c q true)).trans (State.reg_coreGo hb site c true)
  have hp : BelowCores (pg site 0x0B + 0x44) := by rw [belowCores_iff, blkOf_pg_add site (by decide) (by decide)]; decide
  rw [State.reg_putFld, hwaits _ hp, hwaits _ ha]
  rfl

end

section
variable {s : State} {a : Nat}

theorem State.reg_evtIf (c : Bool) {p : Nat} (bit : Nat) (h : a ∉ evtRegs p) : (s.evtIf c p bit).reg a = s.reg a := by
  unfold State.evtIf
  split
  · exact State.reg_evt s p bit a h
  · rfl

/-- A status bit of a die shows in the die's DP_STATUS beside the events. -/
theorem State.reg_dpBit {site : Nat} (b evb gevb : Nat) (on : Bool) (hdie : a ∉ evtRegs (dpPage site)) (hgaf : a ∉ evtRegs gafPage) :
    (s.dpBit site b evb gevb on).reg a = if a = dpPage site + 0x94 then setBit (s.reg (dpPage site + 0x94)) b on else s.reg a := by
  unfold State.dpBit
  extract_lets p rise
  rw [State.reg_evtIf _ _ hgaf, State.reg_evtIf _ _ hdie, State.reg_putBit]

/-- The caps of the gates show in their pacing pages and the gaffer's event. -/
theorem State.reg_writeCaps (hgaf : a ∉ evtRegs gafPage) (hblk : blkOf a < 0x70) : s.writeCaps.reg a = s.reg a := by
  have hcap : ∀ (t : State) (site g n : Nat), g < 8 → ((t.setNat (pg site (0x70 + g) + 0x58) n).evt gafPage 5).reg a = t.reg a := by
    intro t site g n hg
    have hne : a ≠ pg site (0x70 + g) + 0x58 := ne_pg_add_of_blk (by omega) (by decide) (by omega)
    rw [State.reg_evt _ _ _ _ hgaf, State.reg_setNat, if_neg hne]
  refine foldl_keeps (fun t : State => t.reg a) _ s (fun t site _ => State.reg_ite ?_ rfl)
  exact foldl_keeps (fun t : State => t.reg a) _ t (fun t g hg => State.reg_ite rfl (hcap t site g _ (List.mem_range.mp hg)))

end

end Sys2Proof.Machine

/-!
The regulators (04 R74, R75; 19 R399).
-/
namespace Sys2Proof.Machine

/-- The rail at fault is shown, and its frame and the raise that waits for it are given up. -/
def State.railFault (s : State) (rail : Nat) (alert : Bool) : State :=
  let s1 := (s.putBit (supPage + 0x58) (if alert then 4 + rail else rail) true).evt supPage 6
  { s1 with gaffer := { s1.gaffer with avsTries := tabPut 0 s1.gaffer.avsTries rail 0, raise := tabDrop rail s1.gaffer.raise } }

/-- A die is shown held by its regulator. -/
def State.showHold (s : State) (rail : Nat) : State :=
  ((s.putBit (dpPage rail + 0x94) 5 true).dpBit rail 4 5 1 true).putBit (gafPage + 0x5C) 1 true

/-- A die's clock is lowered to 400 MHz. -/
def State.slowDie (s : State) (rail : Nat) : State :=
  if 400 < s.regFld (dpPage rail + 0x44) 0 12 then
    (s.setMhz rail 400).dpBit rail 2 3 32 (decide (400 < s.regFld (dpPage rail + 0x44) 16 12))
  else s

theorem State.reg_railFault (s : State) (rail : Nat) (alert : Bool) {a : Nat} (ha : a ∉ evtRegs supPage) (h58 : a ≠ supPage + 0x58) :
    (s.railFault rail alert).reg a = s.reg a :=
  (State.reg_evt _ _ _ _ ha).trans ((State.reg_putBit _ _ _ _ _).trans (if_neg h58))

/-- The fault of a rail whose die is up holds the die. -/
theorem State.avsDown_of_up {s : State} {rail : Nat} (alert : Bool) (h : s.siteUp rail = true) :
    s.avsDown rail alert = (((s.railFault rail alert).showHold rail).slowDie rail).writeCaps := by
  have hup : (s.railFault rail alert).siteUp rail = true :=
    (State.regBit_of_reg (s.reg_railFault rail alert (by decide) (by decide)) _).trans h
  exact if_pos hup

theorem blkOf_dpPage (rail : Nat) {off : Nat} (ho : off < 0x1000) : blkOf (dpPage rail + off) = 0x0B := blkOf_pg_add rail (by decide) ho

theorem blkOf_supPage {off : Nat} (ho : off < 0x1000) : blkOf (supPage + off) = 2 := blkOf_pg_add 8 (by decide) ho

/-- The registers of a die's power page that its events leave. -/
theorem not_evtReg_dpPage (rail : Nat) {off : Nat} (ho : off = 0x44 ∨ off = 0x94) :
    dpPage rail + off ∉ evtRegs (dpPage rail) ∧ dpPage rail + off ∉ evtRegs gafPage := by
  have hblk : blkOf (dpPage rail + off) = 0x0B := blkOf_dpPage rail (by omega)
  exact ⟨not_mem_evtRegs (isPage_pg _ _) (by omega) (by omega) (by rw [hblk]; decide),
    not_mem_evtRegs_of_blk (by decide) (by rw [hblk]; decide) (by rw [hblk]; decide)⟩

/-- The registers of the supply page that a die's and the gaffer's events leave. -/
theorem not_evtReg_supPage (rail : Nat) {off : Nat} (ho : off < 0x1000) :
    supPage + off ∉ evtRegs (dpPage rail) ∧ supPage + off ∉ evtRegs gafPage := by
  have hblk := blkOf_supPage ho
  exact ⟨not_mem_evtRegs_of_blk (by decide) (by rw [hblk]; decide) (by rw [hblk]; decide),
    not_mem_evtRegs_of_blk (by decide) (by rw [hblk]; decide) (by rw [hblk]; decide)⟩

theorem supPage_ne_dpPage (rail : Nat) {off x : Nat} (ho : off < 0x1000) (hx : x < 0x1000) : supPage + off ≠ dpPage rail + x :=
  ne_pg_add_of_blk (by decide) hx (by rw [blkOf_supPage ho]; decide)

/-- Holding a die leaves every supply register. -/
theorem State.sup_held (s : State) (rail : Nat) {off : Nat} (ho : off < 0x1000) :
    (((s.showHold rail).slowDie rail).writeCaps).reg (supPage + off) = s.reg (supPage + off) := by
  obtain ⟨hdie, hgaf⟩ := not_evtReg_supPage rail ho
  have hblk := blkOf_supPage ho
  have hcap : supPage + off ≠ gafPage + 0x5C := ne_pg_add_of_blk (by decide) (by decide) (by rw [hblk]; decide)
  have hbit : ∀ (t : State) b evb gevb on, (t.dpBit rail b evb gevb on).reg (supPage + off) = t.reg (supPage + off) :=
    fun t b evb gevb on => (State.reg_dpBit b evb gevb on hdie hgaf).trans (if_neg (supPage_ne_dpPage rail ho (by decide)))
  have hmhz : ∀ t : State, (t.setMhz rail 400).reg (supPage + off) = t.reg (supPage + off) :=
    fun t => (State.reg_setMhz (by rw [belowCores_iff, hblk]; decide) rail 400).trans (if_neg (supPage_ne_dpPage rail ho (by decide)))
  have hslow : ((s.showHold rail).slowDie rail).reg (supPage + off) = (s.showHold rail).reg (supPage + off) :=
    State.reg_ite ((hbit _ _ _ _ _).trans (hmhz _)) rfl
  rw [State.reg_writeCaps hgaf (by rw [hblk]; decide), hslow]
  delta State.showHold
  rw [State.reg_putBit, if_neg hcap, hbit, State.reg_putBit, if_neg (supPage_ne_dpPage rail ho (by decide))]

theorem State.hold_dpBit (s : State) (rail : Nat) {b : Nat} (evb gevb : Nat) (on : Bool) (hb : b ≠ 5) :
    (s.dpBit rail b evb gevb on).regBit (dpPage rail + 0x94) 5 = s.regBit (dpPage rail + 0x94) 5 := by
  obtain ⟨hdie, hgaf⟩ := not_evtReg_dpPage rail (.inr rfl)
  unfold State.regBit
  rw [State.reg_dpBit b evb gevb on hdie hgaf, if_pos rfl, bitOf_setBit_ne _ (Ne.symm hb)]

theorem State.clock_dpBit (s : State) (rail : Nat) (b evb gevb : Nat) (on : Bool) :
    (s.dpBit rail b evb gevb on).regFld (dpPage rail + 0x44) 0 12 = s.regFld (dpPage rail + 0x44) 0 12 := by
  obtain ⟨hdie, hgaf⟩ := not_evtReg_dpPage rail (.inl rfl)
  exact State.regFld_of_reg ((State.reg_dpBit b evb gevb on hdie hgaf).trans (if_neg (by omega))) 0 12

/-- A die that is shown held is so while its clock is lowered. -/
theorem State.hold_slowDie (s : State) (rail : Nat) :
    (s.slowDie rail).regBit (dpPage rail + 0x94) 5 = s.regBit (dpPage rail + 0x94) 5 := by
  have hbelow : BelowCores (dpPage rail + 0x94) := by rw [belowCores_iff, blkOf_dpPage rail (by decide)]; decide
  delta State.slowDie
  split
  · rw [State.hold_dpBit _ rail _ _ _ (by decide)]
    exact State.regBit_of_reg ((State.reg_setMhz hbelow rail 400).trans (if_neg (by omega))) 5
  · rfl

/-- A clock that is lowered stands at 400 MHz at most. -/
theorem State.clock_slowDie (s : State) (rail : Nat) : (s.slowDie rail).regFld (dpPage rail + 0x44) 0 12 ≤ 400 := by
  have hbelow : BelowCores (dpPage rail + 0x44) := by rw [belowCores_iff, blkOf_dpPage rail (by decide)]; decide
  delta State.slowDie
  split
  case isTrue =>
    rw [State.clock_dpBit _ rail]
    unfold State.regFld
    rw [State.reg_setMhz hbelow, if_pos rfl, fld_setFld_low _ (by decide) (by decide)]
  case isFalse h => exact Nat.not_lt.mp h

/-- A fault of its rail holds a die that is up, and lowers its clock (04 R75). -/
theorem State.avsDown_holds {s : State} {rail : Nat} (hr : rail < 4) (alert : Bool) (hup : s.siteUp rail = true) :
    (s.avsDown rail alert).regBit (supPage + 0x58) (if alert then 4 + rail else rail) = true ∧
      (s.avsDown rail alert).regBit (dpPage rail + 0x94) 5 = true ∧ (s.avsDown rail alert).regFld (dpPage rail + 0x44) 0 12 ≤ 400 ∧
      (s.avsDown rail alert).latched supPage 6 = true := by
  rw [State.avsDown_of_up alert hup]
  have hcaps : ∀ (t : State) {off}, off = 0x44 ∨ off = 0x94 → t.writeCaps.reg (dpPage rail + off) = t.reg (dpPage rail + off) := fun t off ho =>
    State.reg_writeCaps (not_evtReg_dpPage rail ho).2 (by rw [blkOf_dpPage rail (by omega)]; decide)
  refine ⟨?rail, ?hold, ?clock, ?event⟩
  case rail =>
    have hbit : (if alert then 4 + rail else rail) < 32 := by split <;> omega
    rw [State.regBit_of_reg (State.sup_held _ rail (by decide))]
    change ((s.putBit (supPage + 0x58) _ true).evt supPage 6).regBit (supPage + 0x58) _ = true
    unfold State.regBit
    rw [State.reg_evt _ _ _ _ (by decide), State.reg_putBit, if_pos rfl, bitOf_setBit _ hbit]
  case hold =>
    rw [State.regBit_of_reg (hcaps _ (.inr rfl)), State.hold_slowDie _ rail]
    delta State.showHold
    have hgaf : dpPage rail + 0x94 ≠ gafPage + 0x5C := ne_pg_add_of_blk (by decide) (by decide) (by rw [blkOf_dpPage rail (by decide)]; decide)
    rw [State.regBit_of_reg ((State.reg_putBit _ _ _ _ _).trans (if_neg hgaf)), State.hold_dpBit _ rail _ _ _ (by decide)]
    unfold State.regBit
    rw [State.reg_putBit, if_pos rfl, bitOf_setBit _ (by decide)]
  case clock =>
    rw [State.regFld_of_reg (hcaps _ (.inl rfl))]
    exact State.clock_slowDie _ rail
  case event =>
    rw [State.latched_of_reg (State.sup_held _ rail (by decide))]
    exact State.regBit_evt _ (by decide) (by decide)

theorem exec_avsFault {s : State} {rail : Nat} (alert : Bool) (hr : rail < 4) (hdie : dieAt s.asm rail = .compute) (hmain : s.mainOk = true) :
    exec (.avsFault rail alert) s = .next (s.avsDown rail alert) := if_pos ⟨hr, hdie, hmain⟩

/-- The failed attempts at a rail's frame. -/
def State.setTries (s : State) (rail n : Nat) : State := { s with gaffer := { s.gaffer with avsTries := tabPut 0 s.gaffer.avsTries rail n } }

theorem State.avsTries_setTries (s : State) (rail n : Nat) : tabGet 0 (s.setTries rail n).gaffer.avsTries rail = n := tabGet_tabPut_same _ _ _ _

/-- A valid answer shows the voltage that it acknowledges. -/
def State.showVolts (s : State) (rail mv : Nat) : State :=
  (((s.setTries rail 0).setNat (supPage + 0x5C + 4 * rail) mv).putBit (supPage + 0x58) rail false).setNat (dpPage rail + 0x48) mv

theorem State.showVolts_kept (s : State) (rail mv : Nat) : Kept [.regs, .gaffer] s (s.showVolts rail mv) :=
  State.setNat_kept rfl _ _ (State.putBit_kept rfl _ _ _ (State.setNat_kept rfl _ _ (Kept.set_gaffer _ rfl (Kept.refl _ s))))

theorem State.avs_setAvsAt (s : State) (rail n : Nat) : tabGet 0 (s.setAvsAt rail n).avs rail = n + 1 := by
  unfold State.setAvsAt
  exact tabGet_tabPut_same (0 : Nat) s.avs rail (n + 1)

/-- What a valid answer shows (04 R74, R75). -/
theorem State.showVolts_shows (s : State) {rail : Nat} (mv : Nat) (hr : rail < 4) :
    (s.showVolts rail mv).reg (supPage + 0x5C + 4 * rail) = BitVec.ofNat 32 mv ∧ (s.showVolts rail mv).reg (dpPage rail + 0x48) = BitVec.ofNat 32 mv ∧
      (s.showVolts rail mv).regBit (supPage + 0x58) rail = false ∧
      RegsBut [supPage + 0x58, supPage + 0x5C + 4 * rail, dpPage rail + 0x48] s (s.showVolts rail mv) := by
  have hdp : ∀ {x}, x < 0x1000 → supPage + x ≠ dpPage rail + 0x48 := fun hx => supPage_ne_dpPage rail hx (by decide)
  delta State.showVolts
  refine ⟨?_, ?_, ?_, ?_⟩
  · rw [State.reg_setNat, Nat.add_assoc, if_neg (hdp (by omega)), State.reg_putBit, if_neg (by omega), State.reg_setNat, if_pos rfl]
  · rw [State.reg_setNat, if_pos rfl]
  · unfold State.regBit
    rw [State.reg_setNat, if_neg (hdp (by decide)), State.reg_putBit, if_pos rfl, bitOf_setBit _ (by omega)]
  · exact ((((RegsBut.refl _ s).of_reg (fun _ => rfl)).setNat _ (by simp)).putBit _ _ (by simp)).setNat _ (by simp)

/-- A valid answer without an alert: the voltage and the time of its acknowledgement, and no fault of the rail. -/
def State.acknowledge (s : State) (rail mv : Nat) : State := ((s.showVolts rail mv).setAvsAt rail s.now).putBit (supPage + 0x58) (4 + rail) false

theorem State.acknowledge_shows (s : State) {rail : Nat} (mv : Nat) (hr : rail < 4) :
    (s.acknowledge rail mv).reg (supPage + 0x5C + 4 * rail) = BitVec.ofNat 32 mv ∧ (s.acknowledge rail mv).reg (dpPage rail + 0x48) = BitVec.ofNat 32 mv ∧
      (s.acknowledge rail mv).regBit (supPage + 0x58) rail = false ∧ tabGet 0 (s.acknowledge rail mv).avs rail = s.now + 1 ∧
      Only [.regs, .gaffer, .avs] s (s.acknowledge rail mv) ∧
      RegsBut [supPage + 0x58, supPage + 0x5C + 4 * rail, dpPage rail + 0x48] s (s.acknowledge rail mv) := by
  obtain ⟨hmv, hvolt, hshown, hbut⟩ := s.showVolts_shows mv hr
  have hkept := s.showVolts_kept rail mv
  delta State.acknowledge
  generalize s.showVolts rail mv = u at hmv hvolt hshown hbut hkept ⊢
  have hregs : ∀ a, (u.setAvsAt rail s.now).reg a = u.reg a := fun _ => rfl
  refine ⟨?_, ?_, ?_, ?_, ?_, (hbut.of_reg hregs).putBit _ _ (by simp)⟩
  · rw [State.reg_putBit, if_neg (by omega), hregs, hmv]
  · rw [State.reg_putBit, if_neg (Ne.symm (supPage_ne_dpPage rail (by decide) (by decide))), hregs, hvolt]
  · unfold State.regBit at hshown ⊢
    rw [State.reg_putBit, if_pos rfl, hregs, bitOf_setBit_ne _ (by omega), hshown]
  · have hlast : Kept [.regs] (u.setAvsAt rail s.now) ((u.setAvsAt rail s.now).putBit (supPage + 0x58) (4 + rail) false) :=
      State.putBit_kept rfl _ _ _ (Kept.refl _ _)
    rw [hlast.same .avs (by decide), State.avs_setAvsAt]
  · exact (State.putBit_kept rfl _ _ _ (State.setAvsAt_kept rfl _ _ (Kept.mono rfl hkept))).same

section
variable {s : State} {rail mv : Nat} (hr : rail < 4) (hdie : dieAt s.asm rail = .compute) (hmain : s.mainOk = true)
  (hfree : s.regBit (dpPage rail + 0x94) 5 = false) (hvolts : avsVolts mv = true)
include hr hdie hmain hfree hvolts

/-- A frame whose CRC fails is sent again until the third in a row (04 R75). -/
theorem exec_avsAck_badCrc (alert : Bool) :
    exec (.avsAck rail ⟨mv, false, alert⟩) s = .next (if 3 ≤ tabGet 0 s.gaffer.avsTries rail + 1 then s.avsDown rail false
      else (s.setTries rail (tabGet 0 s.gaffer.avsTries rail + 1)).avsSend rail (.voltageWrite mv)) :=
  if_pos ⟨hr, hdie, hmain, hfree, hvolts⟩

theorem exec_avsAck_good (hup : s.siteUp rail = true) :
    exec (.avsAck rail ⟨mv, true, false⟩) s = .next (s.acknowledge rail mv) := by
  have hup' : (((s.setTries rail 0).setNat (supPage + 0x5C + 4 * rail) mv).putBit (supPage + 0x58) rail false).siteUp rail = true := by
    have hne : pg 8 0 + 0x4C ≠ supPage + 0x5C + 4 * rail := by
      rw [Nat.add_assoc]
      exact ne_pg_add_of_blk (by decide) (by omega) (by decide)
    refine (State.regBit_of_reg ?_ _).trans hup
    rw [State.reg_putBit, if_neg (by decide), State.reg_setNat, if_neg hne]
    rfl
  refine (if_pos ⟨hr, hdie, hmain, hfree, hvolts⟩).trans ?_
  exact congrArg (fun t : State => Host.Outcome.next (t.putBit (supPage + 0x58) (4 + rail) false)) (if_pos hup')

end

end Sys2Proof.Machine

/-!
The watchdogs (05 R91; 03 R70; 11 R242).
-/
namespace Sys2Proof.Machine

theorem State.group_setGroup (s : State) (g h : Nat) (x : Group) : (s.setGroup g x).group h = if h = g then x else s.group h := by
  split
  · next e => rw [e, State.group_setGroup_same]
  · next e => exact tabGet_tabPut_ne _ _ _ _ e

theorem State.group_abortGroup (s : State) (g reason : Nat) (late : Bool) (h : Nat) :
    (s.abortGroup g reason late).group h = if h = g then {} else s.group h := by
  have hslots : Kept [.regs, .bar2, .out, .slots] s ((s.groupSlots g).foldl (fun s k => s.abortSlot k.1 k.2 reason late) s) :=
    Kept.foldl (fun _ _ ht => State.abortSlot_kept rfl _ _ _ _ ht) _ _ (Kept.refl _ s)
  have hgroups := hslots.same .groups (by decide)
  unfold State.abortGroup
  rw [State.group_setGroup]
  unfold State.group
  rw [hgroups]

/-- The groups whose GO the boot master has not set abort (03 R70). -/
def State.abortUndecided (s : State) : State := (List.range 16).foldl (fun s g => if (s.group g).go = false then s.abortGroup g 9 false else s) s

theorem State.abortUndecided_kept (s : State) : Kept [.regs, .bar2, .out, .slots, .groups] s s.abortUndecided :=
  Kept.foldl (fun _ _ ht => Kept.ite (State.abortGroup_kept rfl _ _ _ ht) ht) _ _ (Kept.refl _ s)

theorem Spares.abortUndecided {s₀ s : State} (h : Spares s₀ s) : Spares s₀ s.abortUndecided :=
  Spares.foldl (fun _ g ht => Spares.ite (ht.abortGroup g 9 false) ht) _ h

/-- A group whose GO is not set is then free. -/
theorem State.group_abortUndecided {s : State} {g : Nat} (hg : g < 16) (hgo : (s.group g).go = false) : s.abortUndecided.group g = {} := by
  refine foldl_establishes (P := fun u => (u.group g).go = false) (Q := fun u => u.group g = {}) (x := g) (fun u hu => ?free) (fun u y hu => ?undecided)
    (fun u y hu => ?stays) _ s (List.mem_range.mpr hg) hgo
  case free => rw [if_pos hu, State.group_abortGroup, if_pos rfl]
  case undecided =>
    split
    · rw [State.group_abortGroup]
      split
      · rfl
      · exact hu
    · exact hu
  case stays =>
    split
    · rw [State.group_abortGroup]
      split
      · rfl
      · exact hu
    · exact hu

/-- Every mailbox request in progress is answered NOT_READY, while the main domain is up. -/
def State.refuseRequests (s : State) : State := if s.mainOk then (List.range 16).foldl (fun s t => s.mbNotReady t) s else s

theorem State.refuseRequests_kept (s : State) : Kept [.regs, .bar2, .out, .loads, .slates, .mmus] s s.refuseRequests :=
  Kept.ite (Kept.foldl (fun _ _ ht => State.mbNotReady_kept rfl _ ht) _ _ (Kept.refl _ s)) (Kept.refl _ s)

theorem Spares.mbNotReady {s₀ s : State} (h : Spares s₀ s) (t : Nat) : Spares s₀ (s.mbNotReady t) := by
  unfold State.mbNotReady
  split
  · extract_lets s1 s2
    have h1 : Spares s₀ s1 := h.of_same (fun _ => rfl) rfl
    have h2 : Spares s₀ s2 := by
      unfold s2
      split
      · exact h1.setMmu _ _
      · exact h1
    exact h2.mbReply_nil t 4
  · exact h

theorem Spares.refuseRequests {s₀ s : State} (h : Spares s₀ s) : Spares s₀ s.refuseRequests :=
  Spares.ite (Spares.foldl (fun _ t ht => ht.mbNotReady t) _ h) h

/-- A control core restarts, for a free time. -/
def State.restartCtl (s : State) (site : Nat) : State :=
  ({ s with restarts := tabPut 0 s.restarts site (s.now + (Config.freeWord s.free).toNat), free := s.free + 1 } : State).evt bootPage 3

theorem State.coreRestart_bootMaster (s : State) : s.coreRestart 8 = ((s.restartCtl 8).abortUndecided).refuseRequests := rfl

theorem State.coreRestart_of_ne (s : State) {site : Nat} (h : site ≠ 8) : s.coreRestart site = s.restartCtl site := if_neg h

theorem State.restarts_restartCtl (s : State) (site : Nat) :
    (s.restartCtl site).restarts = tabPut 0 s.restarts site (s.now + (Config.freeWord s.free).toNat) :=
  (State.evt_kept (ws := [.regs, .bar2, .out]) rfl bootPage 3 (Kept.refl _ _)).same .restarts (by decide)

theorem State.latched_restartCtl (s : State) (site : Nat) : (s.restartCtl site).latched bootPage 3 = true := State.regBit_evt _ (by decide) (by decide)

theorem exec_watchdogExpire_bootMaster (s : State) (core : Nat) : exec (.watchdogExpire 8 core) s = .next (s.coreRestart 8) := by
  have hmain : s.mainDie 8 = false := rfl
  change execWatchdogExpire 8 core s = _
  unfold execWatchdogExpire
  rw [if_neg (by rw [hmain]; decide), if_pos (.inr rfl)]

theorem exec_watchdogExpire_field {s : State} {site : Nat} (core : Nat) (h : s.isField site = true) :
    exec (.watchdogExpire site core) s = .next (s.coreRestart site) := by
  have hfield : dieAt s.asm site = .field := by simpa [State.isField] using h
  have hmain : s.mainDie site = false := by simp [State.mainDie, hfield]
  change execWatchdogExpire site core s = _
  unfold execWatchdogExpire
  rw [if_neg (by rw [hmain]; decide), if_pos (.inl h)]

/-- The watchdog of a compute or link die that is up is a die-fatal error (11 R242). -/
theorem exec_watchdogExpire_main {s : State} {site : Nat} (core : Nat) (hd : s.mainDie site = true) (hu : s.siteUp site = true) (hm : s.mainOk = true) :
    exec (.watchdogExpire site core) s = .next ((s.faultRec (pg site 0x0A) 0x0104 3).dieFatal site) := by
  change execWatchdogExpire site core s = _
  unfold execWatchdogExpire
  rw [if_pos hd, if_pos ⟨hu, hm⟩]

/-- After a die-fatal error no core and no cue queue of the die is left (11 R242). -/
theorem State.dropped_dieFatal {s : State} {site : Nat} (hd : s.mainDie site = true) (hu : s.siteUp site = true) (hm : s.mainOk = true) :
    (∀ c ∈ (s.dieFatal site).cores, c.1 / 256 ≠ site) ∧ ∀ c ∈ (s.dieFatal site).cueQs, c.1 / 4096 ≠ site := by
  have hwipe : Kept [.regs, .bar2, .out] ((s.dieFalls site).wipeDie site) (s.dieFatal site) := by
    rw [State.dieFatal_eq hd hu hm]
    exact State.passRings_kept rfl (Kept.refl _ _)
  rw [hwipe.same .cores (by decide), hwipe.same .cueQs (by decide)]
  generalize s.dieFalls site = u
  unfold State.wipeDie
  extract_lets mine pendMap s1
  have hshow : Kept [.regs] s1 ((s1.showPend (pg site 12)).showPend (pg site 13)) := State.showPend_kept rfl _ (State.showPend_kept rfl _ (Kept.refl _ s1))
  rw [hshow.same .cores (by decide), hshow.same .cueQs (by decide)]
  refine ⟨fun c hc => ?_, fun c hc => ?_⟩
  · simpa [mine] using (List.mem_filter.mp hc).2
  · simpa [mine] using (List.mem_filter.mp hc).2

/-- Settles O23: the regulators by what `avsDown` and an acknowledge leave, the watchdogs by a restart or a die-fatal error. -/
theorem regulatorsAndWatchdogs : Obligations.RegulatorsAndWatchdogs := by
  unfold Obligations.RegulatorsAndWatchdogs
  refine ⟨?fault, ?acknowledged, ?again, ?third, ?bootMaster, ?field, ?main⟩
  case fault =>
    intro s rail alert hr hdie hmain hup
    obtain ⟨hrail, hhold, hclock, hevent⟩ := State.avsDown_holds hr alert hup
    exact ⟨_, exec_avsFault alert hr hdie hmain, hrail, hhold, hclock, hevent, (State.avsDown_kept rfl rail alert (Kept.refl _ s)).same⟩
  case acknowledged =>
    intro s rail mv hr hdie hmain hup hfree hvolts
    exact ⟨_, exec_avsAck_good hr hdie hmain hfree hvolts hup, s.acknowledge_shows mv hr⟩
  case again =>
    intro s rail mv alert hr hdie hmain hfree hvolts htries
    refine ⟨(s.setTries rail (tabGet 0 s.gaffer.avsTries rail + 1)).avsSend rail (.voltageWrite mv),
      (exec_avsAck_badCrc hr hdie hmain hfree hvolts alert).trans (by rw [if_neg (by omega)]), rfl, ?_, ?_⟩
    · have hsent : ∀ u : State, (u.avsSend rail (.voltageWrite mv)).gaffer.avsTries = u.gaffer.avsTries := fun _ => rfl
      rw [hsent, State.avsTries_setTries]
    · exact (State.avsSend_kept rfl _ _ (Kept.set_gaffer _ rfl (Kept.refl _ s))).same
  case third =>
    intro s rail mv alert hr hdie hmain hfree hvolts htries
    rw [exec_avsAck_badCrc hr hdie hmain hfree hvolts, if_pos (by omega), exec_avsFault false hr hdie hmain]
  case bootMaster =>
    intro s core
    have hkept : Kept [.regs, .bar2, .out, .slots, .groups, .loads, .slates, .mmus] (s.restartCtl 8) (s.coreRestart 8) := by
      rw [State.coreRestart_bootMaster]
      exact (Kept.mono rfl (State.abortUndecided_kept _)).trans (Kept.mono rfl (State.refuseRequests_kept _))
    have hspares : Spares (s.restartCtl 8) (s.coreRestart 8) := (Spares.refl _).abortUndecided.refuseRequests
    refine ⟨_, exec_watchdogExpire_bootMaster s core, (hkept.same .restarts (by decide)).trans (s.restarts_restartCtl 8),
      hspares.latched_pg (blk := 3) (by decide) (s.latched_restartCtl 8), fun g hg hgo => ?_, (State.coreRestart_kept rfl 8 (Kept.refl _ s)).same⟩
    have hgroups : (s.coreRestart 8).groups = (s.restartCtl 8).abortUndecided.groups := (State.refuseRequests_kept _).same .groups (by decide)
    have hfirst : (s.restartCtl 8).groups = s.groups := (State.evt_kept (ws := [.regs, .bar2, .out]) rfl bootPage 3 (Kept.refl _ _)).same .groups (by decide)
    have hfree := State.group_abortUndecided (s := s.restartCtl 8) hg (by unfold State.group at hgo ⊢; rwa [hfirst])
    unfold State.group at hfree ⊢
    rwa [hgroups]
  case field =>
    intro s site core hfield
    have hsite := site_of_field (asm := s.asm) (by simpa [State.isField] using hfield)
    have hexec := exec_watchdogExpire_field core hfield
    rw [State.coreRestart_of_ne s (by omega)] at hexec
    refine ⟨_, hexec, s.restarts_restartCtl site, s.latched_restartCtl site, ?_, fun a ha => State.reg_evt _ _ _ _ ha⟩
    exact (State.evt_kept rfl _ _ (Kept.set_restarts_free _ _ rfl rfl (Kept.refl _ s))).same
  case main =>
    intro s site core hd hu hm
    have hreg : ∀ {blk}, blk = 0 ∨ blk = 2 → ∀ off, off < 0x1000 → (s.faultRec (pg site 0x0A) 0x0104 3).reg (pg 8 blk + off) = s.reg (pg 8 blk + off) :=
      fun hb off ho => State.reg_faultRec _ _ _ _ _ (ne_pg_add_of_blk (by decide) (by decide) (by rw [blkOf_pg_add 8 (by omega) ho]; omega))
    have hu' : (s.faultRec (pg site 0x0A) 0x0104 3).siteUp site = true := (State.regBit_of_reg (hreg (.inl rfl) _ (by decide)) _).trans hu
    have hm' : (s.faultRec (pg site 0x0A) 0x0104 3).mainOk = true := (State.regBit_of_reg (hreg (.inr rfl) _ (by decide)) _).trans hm
    have hfault : Kept [.regs] s (s.faultRec (pg site 0x0A) 0x0104 3) := State.faultRec_kept rfl _ _ _ (Kept.refl _ s)
    have hd' : (s.faultRec (pg site 0x0A) 0x0104 3).mainDie site = true := by
      unfold State.mainDie at hd ⊢
      rwa [hfault.same .asm (by decide)]
    obtain ⟨⟨hdown, -⟩, hevent⟩ := State.shows_dieFatal hd' hu' hm'
    obtain ⟨hcores, hcues⟩ := State.dropped_dieFatal hd' hu' hm'
    refine ⟨_, exec_watchdogExpire_main core hd hu hm, hdown, hevent, hcores, hcues, fun k hlo hhi => ?_, ?_⟩
    · have hkey : ramKey (site * 256) 0 = site * 2 ^ 56 := by norm_num [ramKey, Nat.mul_assoc]
      have hend : site * 2 ^ 56 + 2 ^ 56 = (site + 1) * 2 ^ 56 := by ring
      exact (State.cleared_dieFatal hd' hu' hm').1 k (by rwa [hkey]) (by rwa [hkey, hend])
    · exact (State.dieFatal_kept rfl site (State.faultRec_kept rfl _ _ _ (Kept.refl _ s))).same

end Sys2Proof.Machine

/-!
What splices, stops and restarts of stripes leave of the supplies: the operations that a lost supply sets off write neither the supply
pages' status nor the limit inputs, clear no event of those pages, and set no axis in motion.
-/
namespace Sys2Proof.Machine

/-- A register that shows a supply: EVT_RAW, status and RESET_CAUSE of the pages at block 2, and the limit inputs of a dolly page. -/
def SupplyReg (a : Nat) : Prop :=
  (blkOf a = 2 ∧ (offOf a = 0x10 ∨ offOf a = 0x40 ∨ offOf a = 0x44)) ∨ (blkOf a = 0x58 ∧ offOf a = 0x4C)

theorem supplyReg_iff {a : Nat} : SupplyReg a ↔
    (blkOf a = 2 ∧ (offOf a = 0x10 ∨ offOf a = 0x40 ∨ offOf a = 0x44)) ∨ (blkOf a = 0x58 ∧ offOf a = 0x4C) := Iff.rfl

/-- STATE of an axis page. -/
def AxisState (a : Nat) : Prop := 0x40 ≤ blkOf a ∧ blkOf a < 0x50 ∧ offOf a = 0xC

/-- A register by which a supply or the state of an axis is told. -/
def Telling (a : Nat) : Prop := SupplyReg a ∨ AxisState a

theorem telling_iff {a : Nat} : Telling a ↔ ((blkOf a = 2 ∧ (offOf a = 0x10 ∨ offOf a = 0x40 ∨ offOf a = 0x44)) ∨ (blkOf a = 0x58 ∧ offOf a = 0x4C)) ∨
    (0x40 ≤ blkOf a ∧ blkOf a < 0x50 ∧ offOf a = 0xC) := Iff.rfl

/-- The second state tells the supplies as the first one does, has its events latched on the supply pages, and no axis is live in it that
is not so in the first. -/
def KeepsSupply (s t : State) : Prop :=
  (∀ a, SupplyReg a → offOf a ≠ 0x10 → t.reg a = s.reg a) ∧ (∀ p i, p % 0x1000 = 0 → blkOf p = 2 → s.latched p i = true → t.latched p i = true) ∧
    ∀ site a, s.axLive site a = false → t.axLive site a = false

/-- Of the other blocks no register tells. -/
theorem not_telling_of_blk {a : Nat} (h : blkOf a ≠ 2 ∧ (blkOf a < 0x40 ∨ 0x50 ≤ blkOf a ∧ blkOf a ≠ 0x58)) : ¬ Telling a := by
  rw [telling_iff]; omega

/-- On a page, status and STATE are the registers that tell. -/
theorem not_telling_of_off {a : Nat} (h : offOf a ∉ [0xC, 0x10, 0x40, 0x44, 0x4C]) : ¬ Telling a := by
  rw [telling_iff]
  rintro ((⟨-, e | e | e⟩ | ⟨-, e⟩) | ⟨-, -, e⟩) <;> exact h (by rw [e]; decide)

theorem not_telling_pg (site : Nat) {blk off : Nat} (ho : off < 0x1000)
    (h : blk < 1024 ∧ (blk ≠ 2 ∧ (blk < 0x40 ∨ 0x50 ≤ blk ∧ blk ≠ 0x58) ∨ off ∉ [0xC, 0x10, 0x40, 0x44, 0x4C])) : ¬ Telling (pg site blk + off) := by
  obtain ⟨hb, hblk | hoff⟩ := h
  · exact not_telling_of_blk (by rwa [blkOf_pg_add site hb ho])
  · exact not_telling_of_off (by rwa [offOf_pg_add site blk ho])

/-- A row of pages of which no register tells: it ends before the axes' or begins behind them, off the dolly's page. -/
theorem not_telling_row (site k : Nat) {lo n off : Nat} (ho : off < 0x1000) (hrow : 0 < n ∧ lo + n ≤ 1024)
    (h : 2 < lo ∧ (lo + n ≤ 0x40 ∨ 0x50 ≤ lo ∧ lo + n ≤ 0x58 ∨ 0x58 < lo)) : ¬ Telling (pg site (lo + k % n) + off) := by
  have hk := Nat.mod_lt k hrow.1
  exact not_telling_pg site ho ⟨row_lt k hrow, .inl (by omega)⟩

theorem not_telling_axPage (site a : Nat) {off : Nat} (h : off < 0x1000 ∧ off ∉ [0xC, 0x10, 0x40, 0x44, 0x4C]) : ¬ Telling (axPage site a + off) :=
  not_telling_pg site h.1 ⟨row_lt a (by decide), .inr h.2⟩

theorem not_telling_engPage (site e : Nat) {off : Nat} (ho : off < 0x1000) : ¬ Telling (engPage site e + off) :=
  not_telling_row site e ho (by decide) (by decide)

theorem not_telling_mvPage (site c : Nat) {off : Nat} (ho : off < 0x1000) : ¬ Telling (mvPage site c + off) :=
  not_telling_row site c ho (by decide) (by decide)

theorem not_telling_corePage (site c : Nat) {off : Nat} (ho : off < 0x1000) : ¬ Telling (corePage site c + off) :=
  not_telling_row site c ho (by decide) (by decide)

theorem not_telling_strPage (site k : Nat) {off : Nat} (ho : off < 0x1000) : ¬ Telling (strPage site k + off) :=
  not_telling_row site k ho (by decide) (by decide)

theorem not_telling_pipePage (site k : Nat) {off : Nat} (ho : off < 0x1000) : ¬ Telling (pipePage site k + off) :=
  not_telling_row site k ho (by decide) (by decide)

theorem not_telling_pacePage (site g : Nat) {off : Nat} (ho : off < 0x1000) : ¬ Telling (pacePage site g + off) :=
  not_telling_row site g ho (by decide) (by decide)

theorem le_blkOf_cmbPage (site b : Nat) {off : Nat} (ho : off < 0x1000) : 0x50 ≤ blkOf (cmbPage site b + off) := by
  rw [show blkOf (cmbPage site b + off) = 0x50 + b % 16 from blkOf_row site b (by decide) ho]
  exact Nat.le_add_right _ _

/-- A combine unit's page may be the dolly's block on a compute die, whose limit inputs no register of a combine unit is. -/
theorem not_telling_cmbPage (site b : Nat) {off : Nat} (ho : off < 0x1000) (h4C : off ≠ 0x4C) : ¬ Telling (cmbPage site b + off) := by
  have hblk := le_blkOf_cmbPage site b ho
  have hoff : offOf (cmbPage site b + off) = off := offOf_pg_add site _ ho
  rw [telling_iff, hoff]
  omega

theorem axPage_aligned (site a : Nat) : axPage site a % 0x1000 = 0 := pg_aligned _ _

theorem telling_axState (site a : Nat) : Telling (axPage site a + 0xC) := by
  have hk : a % 16 < 16 := Nat.mod_lt a (by decide)
  have hblk : blkOf (axPage site a + 0xC) = 0x40 + a % 16 := blkOf_row site a (by decide) (by decide)
  have hoff : offOf (axPage site a + 0xC) = 0xC := offOf_pg_add site _ (by decide)
  rw [telling_iff, hblk, hoff]
  exact .inr ⟨Nat.le_add_right _ _, Nat.add_lt_add_left hk _, rfl⟩

theorem telling_raw {p : Nat} (h0 : p % 0x1000 = 0) (h2 : blkOf p = 2) : Telling (p + 0x10) := by
  rw [telling_iff, blkOf_add h0 (by decide), offOf_add h0 (by decide), h2]
  decide

theorem belowCores_of_telling {a : Nat} (h : Telling a) : BelowCores a := by
  rw [telling_iff] at h; rw [belowCores_iff]; omega

theorem State.axLive_of_st {s t : State} {site a : Nat} (h : t.st (axPage site a) = s.st (axPage site a)) : t.axLive site a = s.axLive site a := by
  unfold State.axLive State.active; rw [h]

section
variable {s₀ s t : State}

theorem KeepsSupply.intro (hreg : ∀ a, SupplyReg a → offOf a ≠ 0x10 → t.reg a = s.reg a)
    (hlatched : ∀ p i, p % 0x1000 = 0 → blkOf p = 2 → s.latched p i = true → t.latched p i = true)
    (hstill : ∀ site a, s.axLive site a = false → t.axLive site a = false) : KeepsSupply s t := ⟨hreg, hlatched, hstill⟩

theorem KeepsSupply.reg (h : KeepsSupply s t) : ∀ a, SupplyReg a → offOf a ≠ 0x10 → t.reg a = s.reg a := h.1

theorem KeepsSupply.latched (h : KeepsSupply s t) : ∀ p i, p % 0x1000 = 0 → blkOf p = 2 → s.latched p i = true → t.latched p i = true := h.2.1

theorem KeepsSupply.still (h : KeepsSupply s t) : ∀ site a, s.axLive site a = false → t.axLive site a = false := h.2.2

theorem KeepsSupply.refl (s : State) : KeepsSupply s s := .intro (fun _ _ _ => rfl) (fun _ _ _ _ h => h) (fun _ _ h => h)

theorem KeepsSupply.trans (h1 : KeepsSupply s₀ s) (h2 : KeepsSupply s t) : KeepsSupply s₀ t :=
  .intro (fun a ha h10 => (h2.reg a ha h10).trans (h1.reg a ha h10)) (fun p i h0 hp hl => h2.latched p i h0 hp (h1.latched p i h0 hp hl))
    (fun site a ha => h2.still site a (h1.still site a ha))

theorem KeepsSupply.ite {c : Prop} [Decidable c] (h1 : KeepsSupply s₀ s) (h2 : KeepsSupply s₀ t) : KeepsSupply s₀ (if c then s else t) := by
  split
  · exact h1
  · exact h2

theorem KeepsSupply.foldl_mem {α : Type} {f : State → α → State} :
    ∀ (l : List α) {s : State}, (∀ t x, x ∈ l → KeepsSupply s₀ t → KeepsSupply s₀ (f t x)) → KeepsSupply s₀ s → KeepsSupply s₀ (l.foldl f s) := by
  intro l
  induction l with
  | nil => exact fun _ h => h
  | cons x l ih => exact fun hf h => ih (fun t y hy => hf t y (List.mem_cons_of_mem _ hy)) (hf _ x List.mem_cons_self h)

theorem KeepsSupply.foldl {α : Type} {f : State → α → State} (hf : ∀ t x, KeepsSupply s₀ t → KeepsSupply s₀ (f t x)) (l : List α)
    (h : KeepsSupply s₀ s) : KeepsSupply s₀ (l.foldl f s) :=
  KeepsSupply.foldl_mem l (fun t x _ => hf t x) h

/-- A step that leaves every telling register. -/
theorem KeepsSupply.of_reg (h : KeepsSupply s₀ s) (hr : ∀ a, Telling a → t.reg a = s.reg a) : KeepsSupply s₀ t :=
  h.trans (.intro (fun a ha _ => hr a (.inl ha)) (fun _ i h0 h2 hl => (State.latched_of_reg (hr _ (telling_raw h0 h2)) i).trans hl)
    (fun site a ha => (State.axLive_of_st (State.st_of_reg (hr _ (telling_axState site a)))).trans ha))

/-- A step that leaves the registers. -/
theorem KeepsSupply.of_same (h : KeepsSupply s₀ s) (hr : ∀ a, t.reg a = s.reg a) : KeepsSupply s₀ t := h.of_reg (fun a _ => hr a)

/-- An operation that by its frame leaves assembly and registers. -/
theorem KeepsSupply.of_kept {w : List Field} (hk : Kept w s t) (h : KeepsSupply s₀ s) (hr : Field.regs ∉ w)
    (ha : Field.asm ∉ w) : KeepsSupply s₀ t := h.of_same (fun a => State.reg_of_kept hk a hr ha)

theorem KeepsSupply.setReg (h : KeepsSupply s₀ s) {a : Nat} (ha : ¬ Telling a) (v : Word) : KeepsSupply s₀ (s.setReg a v) :=
  h.of_reg (fun _ hb => s.reg_setReg_ne v (fun e => ha (e ▸ hb)))

theorem KeepsSupply.setNat (h : KeepsSupply s₀ s) (a n : Nat) (ha : ¬ Telling a) : KeepsSupply s₀ (s.setNat a n) := h.setReg ha _
theorem KeepsSupply.putFld (h : KeepsSupply s₀ s) (a lo w x : Nat) (ha : ¬ Telling a) : KeepsSupply s₀ (s.putFld a lo w x) := h.setReg ha _
theorem KeepsSupply.putBit (h : KeepsSupply s₀ s) (a i : Nat) (b : Bool) (ha : ¬ Telling a) : KeepsSupply s₀ (s.putBit a i b) := h.setReg ha _
theorem KeepsSupply.addSat (h : KeepsSupply s₀ s) (a n : Nat) (ha : ¬ Telling a) : KeepsSupply s₀ (s.addSat a n) := h.setReg ha _

/-- EVT_RAW of a page after an event of a page, its own or another's. -/
theorem State.reg_evt_raw (s : State) {p q : Nat} (hp : IsPage p) (hq : q % 0x1000 = 0) (h2 : blkOf q = 2) (bit : Nat) :
    (s.evt p bit).reg (q + 0x10) = if q = p then setBit (s.reg (q + 0x10)) bit true else s.reg (q + 0x10) := by
  have hal : p % 0x1000 = 0 := hp.1
  have hpend : q + 0x10 ≠ pendReg p := by
    intro e
    have h6 := blkOf_pendReg hp
    rw [← e, blkOf_add hq (by decide), h2] at h6
    exact absurd h6 (by decide)
  unfold State.evt
  rw [State.reg_signal, State.reg_showPend _ _ _ (by omega) hpend, State.reg_putBit]
  by_cases e : q = p
  · simp [e]
  · simp [e]

theorem bitOf_setBit_true {v : Word} {i : Nat} (bit : Nat) (h : bitOf v i = true) : bitOf (setBit v bit true) i = true := by
  by_cases hi : i = bit
  · subst hi
    by_cases h32 : i < 32
    · exact bitOf_setBit _ h32 _
    · exact absurd h (by simp [bitOf, BitVec.getLsbD_of_ge _ _ (Nat.not_lt.mp h32)])
  · rwa [bitOf_setBit_ne _ hi]

/-- An event of any page clears no other event. -/
theorem KeepsSupply.evt (h : KeepsSupply s₀ s) {p : Nat} (hp : IsPage p) (bit : Nat) : KeepsSupply s₀ (s.evt p bit) := by
  have hal : p % 0x1000 = 0 := hp.1
  have hregs : ∀ a, Telling a → offOf a ≠ 0x10 → a ∉ evtRegs p := by
    intro a ha h10
    refine not_mem_evtRegs hp (fun e => h10 (e ▸ offOf_add hal (by decide))) (fun e => ?_) (fun h6 => not_telling_of_blk (by omega) ha)
    exact not_telling_of_off (by rw [e, offOf_add hal (by decide)]; decide) ha
  refine h.trans (.intro (fun a ha h10 => s.reg_evt p bit a (hregs a (.inl ha) h10)) (fun q i h0 h2 hl => ?_) (fun site a ha => ?_))
  · unfold State.latched State.regBit at hl ⊢
    rw [s.reg_evt_raw hp h0 h2]
    split
    · exact bitOf_setBit_true bit hl
    · exact hl
  · have hoff : offOf (axPage site a + 0xC) ≠ 0x10 := by rw [offOf_add (axPage_aligned site a) (by decide)]; decide
    exact (State.axLive_of_st (State.st_of_reg (s.reg_evt p bit _ (hregs _ (telling_axState site a) hoff)))).trans ha

theorem KeepsSupply.evtIf (h : KeepsSupply s₀ s) (c : Bool) {p : Nat} (hp : IsPage p) (bit : Nat) : KeepsSupply s₀ (s.evtIf c p bit) :=
  KeepsSupply.ite (h.evt hp bit) h

theorem KeepsSupply.setSt (h : KeepsSupply s₀ s) {p : Nat} (hp : IsPage p) (x : Nat) (hr : ¬ Telling (p + 0xC)) : KeepsSupply s₀ (s.setSt p x) :=
  KeepsSupply.ite h ((h.putFld (p + 0xC) 0 3 x hr).evt hp _)

/-- An axis page may be written whole where the axis then is not live. -/
theorem KeepsSupply.axisStops (h : KeepsSupply s₀ s) {site a : Nat} (hr : ∀ b, Telling b → b ≠ axPage site a + 0xC → t.reg b = s.reg b)
    (hdead : t.axLive site a = false) : KeepsSupply s₀ t := by
  have hoff : offOf (axPage site a + 0xC) = 0xC := offOf_add (axPage_aligned site a) (by decide)
  refine h.trans (.intro (fun b hb _ => hr b (.inl hb) (fun e => ?_)) (fun p i h0 h2 hl => ?_) (fun site' a' ha => ?_))
  · rw [supplyReg_iff, e, hoff] at hb
    omega
  · refine (State.latched_of_reg (hr _ (telling_raw h0 h2) (fun e => ?_)) i).trans hl
    rw [← e, offOf_add h0 (by decide)] at hoff
    exact absurd hoff (by decide)
  · by_cases e : axPage site' a' = axPage site a
    · exact (congrArg (fun p => t.active p || t.st p == 3) e).trans hdead
    · exact (State.axLive_of_st (State.st_of_reg (hr _ (telling_axState site' a') (by omega)))).trans ha

end

end Sys2Proof.Machine

/-!
A stripe that is begun again leaves the supplies (09 R195; 10 R220; 14 R292).
-/
namespace Sys2Proof.Machine

theorem not_telling_ringReg (site core r : Nat) : ¬ Telling (ringReg site core r) := by
  unfold ringReg
  rw [Nat.add_assoc]
  exact not_telling_mvPage site core (by omega)

section
variable {s₀ s : State}

theorem KeepsSupply.setCore (h : KeepsSupply s₀ s) (site c : Nat) (x : Core) : KeepsSupply s₀ (s.setCore site c x) := h.of_same (fun _ => rfl)
theorem KeepsSupply.setDq (h : KeepsSupply s₀ s) (site c q : Nat) (x : DQ) : KeepsSupply s₀ (s.setDq site c q x) := h.of_same (fun _ => rfl)
theorem KeepsSupply.setCmb (h : KeepsSupply s₀ s) (site b : Nat) (x : Cmb) : KeepsSupply s₀ (s.setCmb site b x) := h.of_same (fun _ => rfl)
theorem KeepsSupply.setEng (h : KeepsSupply s₀ s) (site e : Nat) (x : Eng) : KeepsSupply s₀ (s.setEng site e x) := h.of_same (fun _ => rfl)
theorem KeepsSupply.setSring (h : KeepsSupply s₀ s) (site core r : Nat) (x : SRing) : KeepsSupply s₀ (s.setSring site core r x) :=
  h.of_same (fun _ => rfl)
theorem KeepsSupply.setCue (h : KeepsSupply s₀ s) (site q : Nat) (hs : List Nat) : KeepsSupply s₀ (s.setCue site q hs) := h.of_same (fun _ => rfl)
theorem KeepsSupply.setSlate (h : KeepsSupply s₀ s) (x : Slate) : KeepsSupply s₀ (s.setSlate x) := h.of_same (fun _ => rfl)

theorem KeepsSupply.coreGo (h : KeepsSupply s₀ s) (site c : Nat) (again : Bool) : KeepsSupply s₀ (s.coreGo site c again) :=
  h.of_reg (fun _ ha => State.reg_coreGo (belowCores_of_telling ha) site c again)

theorem KeepsSupply.passVoids (h : KeepsSupply s₀ s) (site core r : Nat) : KeepsSupply s₀ (s.passVoids site core r) :=
  KeepsSupply.ite h ((h.setSring site core r _).putFld _ _ _ _ (not_telling_ringReg _ _ _))

theorem KeepsSupply.release (h : KeepsSupply s₀ s) (site core r : Nat) : KeepsSupply s₀ (s.release site core r) :=
  have hr := not_telling_ringReg site core r
  KeepsSupply.ite h ((((h.setSring site core r _).putFld _ _ _ _ hr).putFld _ _ _ _ hr).passVoids site core r)

theorem KeepsSupply.discardSlots (h : KeepsSupply s₀ s) (site e : Nat) : KeepsSupply s₀ (s.discardSlots site e) :=
  KeepsSupply.foldl (fun _ _ ht => KeepsSupply.ite (((ht.setSring _ _ _ _).putFld _ _ _ _ (not_telling_ringReg _ _ _)).passVoids _ _ _) ht) _ h

theorem KeepsSupply.abandonEngs (h : KeepsSupply s₀ s) (site e : Nat) : KeepsSupply s₀ (s.abandonEngs site e) := by
  unfold State.abandonEngs
  refine KeepsSupply.foldl (fun t i ht => ?_) _ h
  dsimp only
  split
  · have h1 : ∀ x, KeepsSupply s₀ (t.setEng site i x) := fun x => ht.setEng site i x
    exact ((KeepsSupply.ite ((h1 _).release _ _ _) (h1 _)).putFld (engPage site i + 0x40) 5 3 0 (not_telling_engPage _ _ (by decide))).evt (isPage_pg _ _) 1
  · exact ht

theorem KeepsSupply.cancelOn (h : KeepsSupply s₀ s) (conf : Bool) (e : Nat) (dies : List Nat) : KeepsSupply s₀ (s.cancelOn conf e dies) := by
  unfold State.cancelOn
  refine KeepsSupply.foldl (fun t d ht => ?_) _ h
  dsimp only
  split
  · exact ht
  · have h1 : ∀ x, KeepsSupply s₀ { t with cancels := x } := fun x => ht.of_same (fun _ => rfl)
    split
    · exact (h1 _).abandonEngs d e
    · exact (((h1 _).abandonEngs d e).addSat (movePage d + 0x4C) 1 (not_telling_pg d (by decide) (by decide))).evt (isPage_pg _ _) 2

theorem KeepsSupply.allocEpoch (h : KeepsSupply s₀ s) (site : Nat) : KeepsSupply s₀ (s.allocEpoch site).2 := by
  unfold State.allocEpoch
  extract_lets p c e onDie s1 s2
  have h2 : KeepsSupply s₀ s2 := h.of_same (fun _ => rfl)
  exact (h2.discardSlots site e).setNat p _ (not_telling_pg site (by decide) (by decide))

theorem KeepsSupply.landFlights (h : KeepsSupply s₀ s) (t : Nat) (fs : List Xfer) : KeepsSupply s₀ (s.landFlights t fs) :=
  h.of_kept (State.landFlights_kept (ws := [.ram, .hmem, .poison]) rfl t fs (Kept.refl _ s)) (by decide) (by decide)

theorem KeepsSupply.showDq (h : KeepsSupply s₀ s) (site c : Nat) {q : Nat} (hq : q < 4) : KeepsSupply s₀ (s.showDq site c q) := by
  have ha : ¬ Telling (mvPage site c + 0x40 + 4 * q) := by
    rw [Nat.add_assoc]
    exact not_telling_mvPage site c (by omega)
  unfold State.showDq
  dsimp only
  split
  · exact h.setNat _ _ ha
  · exact KeepsSupply.ite (h.setNat _ _ ha) (h.setNat _ _ ha)

theorem KeepsSupply.showCore (h : KeepsSupply s₀ s) (site c : Nat) : KeepsSupply s₀ (s.showCore site c) := by
  have hp : ∀ {off}, off < 0x1000 → ¬ Telling (corePage site c + off) := fun ho => not_telling_corePage site c ho
  have h3 : ∀ a b d, KeepsSupply s₀ (((s.setNat (corePage site c + 0x40) a).setNat (corePage site c + 0x44) b).setNat (corePage site c + 0x48) d) :=
    fun a b d => ((h.setNat _ a (hp (by decide))).setNat _ b (hp (by decide))).setNat _ d (hp (by decide))
  unfold State.showCore
  dsimp only
  split
  · exact h3 _ _ _
  · exact KeepsSupply.ite (h3 _ _ _) (h3 _ _ _)

theorem KeepsSupply.restartCore (h : KeepsSupply s₀ s) (w : Work) (c : Nat × Nat × Nat) : KeepsSupply s₀ (s.restartCore w c) :=
  ((h.coreGo _ _ false).setCore _ _ _).showCore _ _

theorem KeepsSupply.showCmb (h : KeepsSupply s₀ s) (site b : Nat) : KeepsSupply s₀ (s.showCmb site b) := by
  unfold State.showCmb
  have h40 : ∀ n, KeepsSupply s₀ (s.setNat (cmbPage site b + 0x40) n) := fun n => h.setNat _ n (not_telling_cmbPage site b (by decide) (by decide))
  dsimp only
  split
  · exact h40 _
  · exact h40 _
  · exact h40 _

theorem KeepsSupply.dropNodes (h : KeepsSupply s₀ s) (w : Work) : KeepsSupply s₀ (s.dropNodes w) := by
  unfold State.dropNodes State.keepNodes
  refine KeepsSupply.foldl (fun t i ht => ?_) _ h
  dsimp only
  split
  · exact ht
  · have h1 : ∀ x, KeepsSupply s₀ (t.setCmb (i / 4) (i % 4) x) := fun x => ht.setCmb _ _ x
    exact (KeepsSupply.ite ((h1 _).setSt (isPage_pg _ _) 0 (not_telling_cmbPage _ _ (by decide) (by decide))) (h1 _)).showCmb _ _

theorem KeepsSupply.installTrees (h : KeepsSupply s₀ s) (w : Work) (c : List Byte) : KeepsSupply s₀ (s.installTrees w c) :=
  KeepsSupply.foldl (fun _ _ ht => KeepsSupply.ite ht (KeepsSupply.foldl (fun _ _ hu =>
    ((hu.setCmb _ _ _).setSt (isPage_pg _ _) 2 (not_telling_cmbPage _ _ (by decide) (by decide))).showCmb _ _) _ ht)) _ h

theorem KeepsSupply.restripe (h : KeepsSupply s₀ s) (hd : Nat) : KeepsSupply s₀ (s.restripe hd) := by
  unfold State.restripe
  split
  · exact h
  · extract_lets w s1 ep again r0 r1 c0 r2 s2 s3
    have h1 : KeepsSupply s₀ s1 := (h.cancelOn _ _ _).dropNodes w
    have h0 : KeepsSupply s₀ r0 := (h1.allocEpoch _).setSlate _
    have hr1 : KeepsSupply s₀ r1 := KeepsSupply.foldl (fun _ _ ht => ht.setCue _ _ _) _ h0
    have hr2 : KeepsSupply s₀ r2 := hr1.setCue _ _ _
    have h2 : KeepsSupply s₀ s2 := hr2.of_same (fun _ => rfl)
    have h3 : KeepsSupply s₀ s3 := by
      refine KeepsSupply.foldl (fun t c ht => KeepsSupply.restartCore (KeepsSupply.foldl_mem _ (fun u q hq hu => ?_) ht) w c) _ h2
      have hq4 : q < 4 := by simp only [List.mem_cons, List.not_mem_nil, or_false] at hq; omega
      exact ((hu.landFlights _ _).setDq _ _ q _).showDq _ _ hq4
    exact h3.installTrees w _

theorem KeepsSupply.cancelAhead (h : KeepsSupply s₀ s) (site k : Nat) : KeepsSupply s₀ (s.cancelAhead site k) := by
  unfold State.cancelAhead
  split
  · exact h
  · refine KeepsSupply.foldl (fun t st ht => ?_) _ h
    split
    · exact ht
    · exact KeepsSupply.ite (ht.restripe _) ht

end

end Sys2Proof.Machine

/-!
Splices, group stops and axis faults leave the supplies, and stop axes at most (15 R328 to R333; 16 R341 to R343).
-/
namespace Sys2Proof.Machine

theorem not_axLive_of_st {s : State} {site a x : Nat} (h : s.st (axPage site a) = x) (hx : x = 5 ∨ x = 7) : s.axLive site a = false := by
  unfold State.axLive State.active
  rcases hx with rfl | rfl <;> simp [h]

theorem State.st_lock (s : State) {p : Nat} (hp : p % 0x1000 = 0) (safety : Bool) : (s.lock p safety).st p = 7 := by
  have hctrl : ∀ t : State, (t.putBit (p + 8) 0 false).st p = t.st p := fun t => State.st_of_reg ((t.reg_putBit _ _ _ _).trans (if_neg (by omega)))
  unfold State.lock
  rw [hctrl, State.st_setSt _ hp (by decide)]

section
variable {s₀ s : State}

theorem KeepsSupply.setStrm (h : KeepsSupply s₀ s) (site k : Nat) (x : Strm) : KeepsSupply s₀ (s.setStrm site k x) := h.of_same (fun _ => rfl)
theorem KeepsSupply.setRing (h : KeepsSupply s₀ s) (d : Nat) (x : DRing) : KeepsSupply s₀ (s.setRing d x) := h.of_same (fun _ => rfl)
theorem KeepsSupply.setGrp (h : KeepsSupply s₀ s) (site g : Nat) (x : Grp) : KeepsSupply s₀ (s.setGrp site g x) := h.of_same (fun _ => rfl)
theorem KeepsSupply.setAxis (h : KeepsSupply s₀ s) (site a : Nat) (x : Axis) : KeepsSupply s₀ (s.setAxis site a x) := h.of_same (fun _ => rfl)
theorem KeepsSupply.setFio (h : KeepsSupply s₀ s) (site : Nat) (x : Fio) : KeepsSupply s₀ (s.setFio site x) := h.of_same (fun _ => rfl)
theorem KeepsSupply.setMon (h : KeepsSupply s₀ s) (site : Nat) (x : Mon) : KeepsSupply s₀ (s.setMon site x) := h.of_same (fun _ => rfl)

/-! Splices. -/
theorem KeepsSupply.dropRows (h : KeepsSupply s₀ s) (site k line : Nat) : KeepsSupply s₀ (s.dropRows site k line) := h.setStrm _ _ _
theorem KeepsSupply.queueRec (h : KeepsSupply s₀ s) (d : Nat) (r : DRec) : KeepsSupply s₀ (s.queueRec d r) := h.setRing _ _

theorem KeepsSupply.writeSplice (h : KeepsSupply s₀ s) (site k cause line : Nat) (vel : Int) : KeepsSupply s₀ (s.writeSplice site k cause line vel) := by
  unfold State.writeSplice
  extract_lets p st s1 w s2
  have hp : ∀ {off}, off < 0x1000 → ¬ Telling (p + off) := fun ho => not_telling_strPage site k ho
  have h1 : KeepsSupply s₀ s1 := by
    refine KeepsSupply.setNat (KeepsSupply.setNat (KeepsSupply.setNat h _ _ ?_) _ _ ?_) _ _ ?_
    all_goals exact hp (by decide)
  have hw : ∀ u off x, KeepsSupply s₀ u → off < 0xFF0 → KeepsSupply s₀ (w u (p + off) x) := fun u off x hu ho =>
    (hu.setReg (hp (by omega)) _).setNat (p + off + 4) _ (by rw [Nat.add_assoc]; exact hp (by omega))
  have h2 : KeepsSupply s₀ s2 := (hw s1 0x8C _ h1 (by decide)).setNat (p + 0x94) _ (hp (by decide))
  exact ((hw s2 0x98 _ h2 (by decide)).setReg (hp (off := 0xA0) (by decide)) _).setNat (p + 0xA4) _ (hp (by decide))

theorem KeepsSupply.spliceRest (h : KeepsSupply s₀ s) (site k : Nat) : KeepsSupply s₀ (s.spliceRest site k) :=
  KeepsSupply.ite ((h.putFld (strPage site k + 0x80) 0 2 2 (not_telling_strPage _ _ (by decide))).evt (isPage_pg _ _) 4) h

theorem KeepsSupply.spliceOne (h : KeepsSupply s₀ s) (site k cause line : Nat) (vel : Int) : KeepsSupply s₀ (s.spliceOne site k cause line vel) := by
  unfold State.spliceOne
  extract_lets p back s1 x s2 s3
  have h2 : KeepsSupply s₀ s2 := KeepsSupply.setStrm ((h.writeSplice site k cause line vel).dropRows site k line) _ _ _
  have h3 : KeepsSupply s₀ s3 := KeepsSupply.queueRec ((h2.setSt (isPage_pg _ _) 4 (not_telling_strPage _ _ (by decide))).evt (isPage_pg _ _) 3) _ _
  exact KeepsSupply.ite (KeepsSupply.ite (h3.spliceRest site k) h3) h

theorem KeepsSupply.dropRecs (h : KeepsSupply s₀ s) (site k line : Nat) : KeepsSupply s₀ (s.dropRecs site k line) := by
  unfold State.dropRecs
  extract_lets d above gone x y back s1
  have h1 : KeepsSupply s₀ s1 := (h.setRing _ _).setStrm _ _ _
  cases back with
  | nil => exact h1
  | cons f fs => exact h1.setNat (pipePage site k + 0x6C) _ (not_telling_pipePage _ _ (by decide))

theorem KeepsSupply.hardSpliceOne (h : KeepsSupply s₀ s) (site k cause : Nat) (v : Int) : KeepsSupply s₀ (s.hardSpliceOne site k cause v) := by
  unfold State.hardSpliceOne
  extract_lets line st x d s1
  have h1 : KeepsSupply s₀ s1 :=
    have hsplice := (h.writeSplice site k cause line v).putFld (strPage site k + 0x80) 0 2 (s.splState site k) (not_telling_strPage _ _ (by decide))
    ((hsplice.setStrm site k _).dropRows site k line).dropRecs site k line
  exact KeepsSupply.ite ((h.spliceOne site k cause line v).dropRecs site k line) (KeepsSupply.ite (h1.setRing _ _) h)

theorem KeepsSupply.showRetake (h : KeepsSupply s₀ s) (site g : Nat) (on : Bool) (attempt : Nat) : KeepsSupply s₀ (s.showRetake site g on attempt) :=
  have hpace : ¬ Telling (pacePage site g + 0x64) := not_telling_pacePage site g (by decide)
  ((h.putBit _ 5 on hpace).putFld _ 6 2 attempt hpace).putFld (gatePage site g + 0xA4) 8 2 attempt (not_telling_row site g (by decide) (by decide) (by decide))

theorem KeepsSupply.spliceGate (h : KeepsSupply s₀ s) (site g cause line : Nat) : KeepsSupply s₀ (s.spliceGate site g cause line) :=
  KeepsSupply.foldl (fun _ _ ht => KeepsSupply.ite ((ht.spliceOne _ _ _ _ _).cancelAhead _ _) ht) _ h

/-! Group stops. -/
theorem KeepsSupply.putGrp (h : KeepsSupply s₀ s) (site g : Nat) (x : Grp) : KeepsSupply s₀ (s.putGrp site g x) :=
  KeepsSupply.ite ((h.setGrp site g x).setNat (grpPage site g + 0x54) _ (not_telling_row site g (by decide) (by decide) (by decide))) (h.setGrp site g x)

theorem KeepsSupply.abandon (h : KeepsSupply s₀ s) (site a : Nat) : KeepsSupply s₀ (s.abandon site a) :=
  (h.setNat (axPage site a + 0xA8) _ (not_telling_axPage site a (by decide))).setAxis _ _ _

theorem KeepsSupply.stopCore (h : KeepsSupply s₀ s) (site g cause : Nat) : KeepsSupply s₀ (s.stopCore site g cause) := by
  unfold State.stopCore
  extract_lets x s1 s2
  have h2 : KeepsSupply s₀ s2 := KeepsSupply.foldl (fun t a ht => ht.abandon site a) _ (h.putGrp _ _ _)
  exact KeepsSupply.ite (KeepsSupply.ite (h.evt (isPage_pg _ _) 3) h) (KeepsSupply.ite (h2.evt (isPage_pg _ _) 0) h2)

theorem KeepsSupply.endRetake (h : KeepsSupply s₀ s) (site g : Nat) : KeepsSupply s₀ (s.endRetake site g) :=
  KeepsSupply.ite (h.putBit (pacePage site g + 0x64) 5 false (not_telling_pacePage site g (by decide))) h

theorem KeepsSupply.groupStop (h : KeepsSupply s₀ s) (site g cause : Nat) : KeepsSupply s₀ (s.groupStop site g cause) :=
  have h1 := (h.stopCore site g cause).endRetake site g
  KeepsSupply.ite h1 (h1.spliceGate site g _ _)

theorem KeepsSupply.hardSplice (h : KeepsSupply s₀ s) (site g : Nat) (ks : List Nat) (cause : Nat) (stop : Bool) :
    KeepsSupply s₀ (s.hardSplice site g ks cause stop) := by
  unfold State.hardSplice
  extract_lets v hit touched s1 low x s2
  have h1 : KeepsSupply s₀ s1 := KeepsSupply.foldl (fun t k ht => ht.hardSpliceOne site k cause v) _ h
  have h2 : KeepsSupply s₀ s2 := by
    unfold s2
    split
    · exact KeepsSupply.ite (KeepsSupply.showRetake (h1.setGrp _ _ _) _ _ _ _) h1
    · exact h1
  exact KeepsSupply.ite h (KeepsSupply.ite h2 (h2.stopCore site g 1))

theorem KeepsSupply.spliceDone (h : KeepsSupply s₀ s) (site : Nat) : KeepsSupply s₀ (s.spliceDone site) :=
  KeepsSupply.ite ((h.setFio site _).evt (isPage_pg _ _) 6) h

/-- The splices of a lost supply leave what shows the supplies (04 R85). -/
theorem KeepsSupply.supplySplice (h : KeepsSupply s₀ s) (site : Nat) : KeepsSupply s₀ (s.supplySplice site) := by
  unfold State.supplySplice
  extract_lets live old gatesOf gs s1 s2 f s3
  have h1 : KeepsSupply s₀ s1 := KeepsSupply.foldl (fun _ g ht => ht.hardSplice site g _ 4 false) _ h
  have h2 : KeepsSupply s₀ s2 := KeepsSupply.foldl (fun _ g ht => ht.groupStop site g 4) _ h1
  have h48 : ¬ Telling (fioPage site + 0x48) := not_telling_pg site (by decide) (by decide)
  have h3 : KeepsSupply s₀ s3 := (h2.setNat _ _ h48).setFio site _
  exact KeepsSupply.ite h1 ((h3.evt (isPage_pg _ _) 5).spliceDone site)

/-! Axes that fault or lock. -/
theorem KeepsSupply.moveAxis (h : KeepsSupply s₀ s) (site a : Nat) (v : Int) (acc : Nat) : KeepsSupply s₀ (s.moveAxis site a v acc) := by
  have h94 : ¬ Telling (axPage site a + 0x94) := not_telling_axPage site a (by decide)
  unfold State.moveAxis
  extract_lets p x y th th2 z s1
  have h1 : KeepsSupply s₀ s1 := ((h.setAxis site a z).setReg (not_telling_axPage site a (by decide)) _).putBit _ 0 _ h94
  exact KeepsSupply.ite (h1.putBit _ 10 false h94) h1

theorem KeepsSupply.faultRec (h : KeepsSupply s₀ s) (site a code cls : Nat) : KeepsSupply s₀ (s.faultRec (axPage site a) code cls) :=
  h.of_reg (fun b hb => State.reg_faultRec _ _ _ _ _ (fun e => not_telling_axPage site a (off := 0x1C) (by decide) (e ▸ hb)))

/-- Of an axis page's registers a fault shows in, STATE alone tells. -/
theorem not_faultReg_of_telling {site a b : Nat} (hb : Telling b) (hne : b ≠ axPage site a + 0xC) : b ∉ faultRegs (axPage site a) := by
  have hoff : ∀ off, off < 0x1000 ∧ off ∉ [0xC, 0x10, 0x40, 0x44, 0x4C] → b ≠ axPage site a + off := fun off ho e => not_telling_axPage site a ho (e ▸ hb)
  have hraw : b ≠ axPage site a + 0x10 := fun e => by
    have hk : a % 16 < 16 := Nat.mod_lt a (by decide)
    have hblk : blkOf (axPage site a + 0x10) = 0x40 + a % 16 := blkOf_row site a (by decide) (by decide)
    rw [telling_iff, e, hblk, offOf_add (axPage_aligned site a) (by decide)] at hb
    omega
  have hevt : b ∉ evtRegs (axPage site a) :=
    not_mem_evtRegs (isPage_pg _ _) hraw (hoff _ (by decide)) (fun h6 => not_telling_of_blk (by omega) hb)
  simp only [faultRegs, stRegs, List.mem_cons, not_or]
  exact ⟨hoff 8 (by decide), hoff _ (by decide), hne, hevt⟩

/-- A block fault of an axis leaves it in FAULT, or OFF or LOCKED as it was. -/
theorem State.axLive_blockFault (s : State) (site a code cls : Nat) : (s.blockFault (axPage site a) code cls).axLive site a = false := by
  by_cases hst : s.st (axPage site a) = 0 ∨ s.st (axPage site a) = 7
  · have hsame : (s.blockFault (axPage site a) code cls).st (axPage site a) = s.st (axPage site a) := by
      unfold State.blockFault
      rw [if_pos hst]
      exact State.st_of_reg (State.reg_faultRec _ _ _ _ _ (by omega))
    rw [State.axLive_of_st hsame]
    unfold State.axLive State.active
    rcases hst with e | e <;> simp [e]
  · exact not_axLive_of_st (State.st_blockFault s (axPage_aligned site a) code cls (not_or.mp hst)) (.inl rfl)

theorem KeepsSupply.blockFault (h : KeepsSupply s₀ s) (site a code cls : Nat) : KeepsSupply s₀ (s.blockFault (axPage site a) code cls) :=
  h.axisStops (fun _ hb hne => State.reg_blockFault _ _ _ _ _ (not_faultReg_of_telling hb hne)) (s.axLive_blockFault site a code cls)

theorem KeepsSupply.axisFault (h : KeepsSupply s₀ s) (site a code : Nat) : KeepsSupply s₀ (s.axisFault site a code) :=
  KeepsSupply.ite (h.faultRec site a code 1) (((h.blockFault site a code 1).moveAxis site a 0 0).groupStop site _ 5)

/-- An axis that faults is not live (15 R332, R333). -/
theorem State.axLive_axisFault (s : State) (site a code : Nat) : (s.axisFault site a code).axLive site a = false := by
  unfold State.axisFault
  extract_lets p s1
  split
  case isTrue hst =>
    refine (KeepsSupply.faultRec (KeepsSupply.refl s) site a code 1).still site a ?_
    unfold State.axLive State.active
    rcases hst with e | e | e <;> simp [p] at e <;> simp [e]
  case isFalse =>
    exact (((KeepsSupply.refl (s.blockFault p code 1)).moveAxis site a 0 0).groupStop site _ 5).still site a (s.axLive_blockFault site a code 1)

theorem KeepsSupply.lock (h : KeepsSupply s₀ s) (site a : Nat) (safety : Bool) : KeepsSupply s₀ (s.lock (axPage site a) safety) := by
  have h8 : ∀ b, Telling b → b ≠ axPage site a + 8 := fun b hb e => not_telling_axPage site a (off := 8) (by decide) (e ▸ hb)
  refine h.axisStops (site := site) (a := a) (fun b hb hne => ?_) (not_axLive_of_st (State.st_lock s (axPage_aligned site a) safety) (.inr rfl))
  have hst : b ∉ stRegs (axPage site a) := fun hm => not_faultReg_of_telling hb hne (by simp only [faultRegs, List.mem_cons]; exact .inr (.inr hm))
  unfold State.lock
  rw [State.reg_putBit, if_neg (h8 b hb), State.reg_setSt _ _ _ _ hst, State.reg_putBit, if_neg (h8 b hb), State.reg_putBit, if_neg hne]

theorem KeepsSupply.lockAxis (h : KeepsSupply s₀ s) (site a : Nat) : KeepsSupply s₀ (s.lockAxis site a) := (h.lock site a true).moveAxis site a 0 0

theorem KeepsSupply.showLims (h : KeepsSupply s₀ s) (site a : Nat) : KeepsSupply s₀ (s.showLims site a) :=
  have h94 : ¬ Telling (axPage site a + 0x94) := not_telling_axPage site a (by decide)
  (((h.putBit _ 2 _ h94).putBit _ 3 _ h94).putBit _ 4 _ h94).putBit _ 5 _ h94

end

end Sys2Proof.Machine

/-!
A field die's meters, calibration runs and pairs leave the supplies (17 R376; 18 R383; 22 R450).
-/
namespace Sys2Proof.Machine

section
variable {s₀ s : State}

theorem not_telling_mtrPage (site m : Nat) {off : Nat} (ho : off < 0x1000) : ¬ Telling (mtrPage site m + off) :=
  not_telling_row site m ho (by decide) (by decide)

theorem not_telling_mcomPage (site : Nat) {off : Nat} (ho : off < 0x1000) : ¬ Telling (mcomPage site + off) := not_telling_pg site ho ⟨by decide, .inl (by decide)⟩

theorem not_telling_monPage (site : Nat) {off : Nat} (ho : off < 0x1000) : ¬ Telling (monPage site + off) := not_telling_pg site ho ⟨by decide, .inl (by decide)⟩

theorem KeepsSupply.setMeter (h : KeepsSupply s₀ s) (site m : Nat) (x : Meter) : KeepsSupply s₀ (s.setMeter site m x) := h.of_same (fun _ => rfl)
theorem KeepsSupply.setCalib (h : KeepsSupply s₀ s) (site : Nat) (x : Calib) : KeepsSupply s₀ (s.setCalib site x) := h.of_same (fun _ => rfl)

/-! Calibration runs. -/
theorem KeepsSupply.calEnd (h : KeepsSupply s₀ s) (site result : Nat) : KeepsSupply s₀ (s.calEnd site result) := by
  have hp := not_telling_mcomPage site (off := 0x60) (by decide)
  unfold State.calEnd
  extract_lets p c s0 s1
  have h0 : KeepsSupply s₀ s0 := by
    unfold s0
    split
    · exact KeepsSupply.ite (h.setMeter _ _ _) h
    · exact h
  exact ((h0.putFld _ 20 4 result hp).putBit _ 19 _ hp).setCalib _ _

theorem KeepsSupply.calAbortAll (h : KeepsSupply s₀ s) (site result : Nat) : KeepsSupply s₀ (s.calAbortAll site result) := by
  have hp := not_telling_mcomPage site (off := 0x60) (by decide)
  unfold State.calAbortAll
  extract_lets c s1
  have h1 : KeepsSupply s₀ s1 := KeepsSupply.ite h (((h.setCalib _ _).putFld _ 20 4 result hp).putBit _ 19 _ hp)
  exact KeepsSupply.ite h1 ((h1.calEnd site result).evt (isPage_pg _ _) 2)

/-! Meters. -/
theorem KeepsSupply.setCmp (h : KeepsSupply s₀ s) (site m : Nat) (asserted known : Bool) : KeepsSupply s₀ (s.setCmp site m asserted known) :=
  have hp := not_telling_mtrPage site m (off := 0x70) (by decide)
  (((h.putBit _ 6 asserted hp).putBit _ 7 known hp).evtIf _ (isPage_pg _ _) 8).evtIf _ (isPage_pg _ _) 9

theorem KeepsSupply.setVstate (h : KeepsSupply s₀ s) (site m vs : Nat) : KeepsSupply s₀ (s.setVstate site m vs) := by
  have hp := not_telling_mtrPage site m (off := 0x70) (by decide)
  unfold State.setVstate
  extract_lets p old s1
  have h1 : KeepsSupply s₀ s1 := ((h.putFld _ 0 3 vs hp).evtIf _ (isPage_pg _ _) 3).evtIf _ (isPage_pg _ _) 4
  exact KeepsSupply.ite ((h1.setMeter _ _ _).setCmp _ _ _ _) h1

theorem KeepsSupply.setCause (h : KeepsSupply s₀ s) (site m bit : Nat) (on : Bool) : KeepsSupply s₀ (s.setCause site m bit on) :=
  h.putBit _ _ on (not_telling_mtrPage site m (by decide))

theorem KeepsSupply.outsZero (h : KeepsSupply s₀ s) (site : Nat) : KeepsSupply s₀ (s.outsZero site) :=
  have hp : ∀ {o off}, off < 0x1000 → ¬ Telling (outPage site o + off) := fun ho => not_telling_row site _ ho (by decide) (by decide)
  KeepsSupply.foldl (fun _ o ht => (ht.setNat (outPage site o + 0x4C) 0 (hp (by decide))).setNat (outPage site o + 0x50) 0 (hp (by decide))) _ h

theorem KeepsSupply.meterStart (h : KeepsSupply s₀ s) (site m : Nat) : KeepsSupply s₀ (s.meterStart site m) :=
  have hp : ∀ {off}, off < 0x1000 → ¬ Telling (mtrPage site m + off) := fun ho => not_telling_mtrPage site m ho
  ((((h.setMeter site m _).setNat _ _ (hp (by decide))).setNat _ 0 (hp (by decide))).setNat _ 0 (hp (by decide))).setNat _ 0 (hp (by decide))

/-! The continuity monitor. -/
theorem KeepsSupply.lockGateAxes (h : KeepsSupply s₀ s) (site g : Nat) : KeepsSupply s₀ (s.lockGateAxes site g) :=
  KeepsSupply.foldl (fun _ a ht => ht.lockAxis site a) _ h

theorem KeepsSupply.pairOff (h : KeepsSupply s₀ s) (site n : Nat) (gates : List Nat) : KeepsSupply s₀ (s.pairOff site n gates) :=
  (KeepsSupply.foldl (fun _ g ht => ht.lockGateAxes site g) _ (h.setMon site _)).evtIf _ (isPage_pg _ _) 1

theorem KeepsSupply.allPairsOff (h : KeepsSupply s₀ s) (site : Nat) : KeepsSupply s₀ (s.allPairsOff site) :=
  KeepsSupply.foldl (fun _ n ht => (KeepsSupply.foldl (fun _ g hu => hu.groupStop site g 7) _ ht).pairOff site n _) _ h

theorem KeepsSupply.monTrack (h : KeepsSupply s₀ s) (site : Nat) : KeepsSupply s₀ (s.monTrack site) := KeepsSupply.ite h (h.setMon site _)

theorem KeepsSupply.showMon (h : KeepsSupply s₀ s) (site : Nat) : KeepsSupply s₀ (s.showMon site) := by
  have hp : ∀ {off}, off < 0x1000 → ¬ Telling (monPage site + off) := fun ho => not_telling_monPage site ho
  refine KeepsSupply.foldl (fun t n ht => ?_) _ (((h.setNat _ _ (hp (by decide))).setNat _ _ (hp (by decide))).setNat _ _ (hp (by decide)))
  dsimp only
  split
  case isTrue hn => exact ht.setNat _ _ (by rw [Nat.add_assoc]; exact hp (by omega))
  case isFalse => exact ht

end

end Sys2Proof.Machine

/-!
The fall and the rise of a field die's supply (04 R79).
-/
namespace Sys2Proof.Machine

/-- Every limit input reads ASSERTED and is to qualify anew (15 R331). -/
def State.limitsLost (s : State) (site : Nat) : State := (s.setNat (dollyPage site + 0x4C) 0xFFFFFFFF).setNat (dollyPage site + 0x50) 0

/-- Every axis of a die that is live or starts faults (15 R333). -/
def State.axesFault (s : State) (site : Nat) : State :=
  (List.range 16).foldl (fun s a => (if s.axLive site a || s.st (axPage site a) == 1 then s.axisFault site a 0x0102 else s).showLims site a) s

/-- The running channels of a die have no value, its outputs are low (17 R376). -/
def State.metersLost (s : State) (site : Nat) : State :=
  ((List.range 8).foldl (fun s m => s.setMeter site m { s.meter site m with excOn := false })
    ((s.runningMeters site).foldl (fun s m => ((s.setCause site m 6 true).setVstate site m 4).outsLow site m) s)).outsZero site

/-- A die's axes, calibration runs and meters after the fall of its supply. -/
def State.fioFallen (s : State) (site : Nat) : State := (((s.limitsLost site).axesFault site).calAbortAll site 6).metersLost site

/-- The supply guard demands: the monitor's record is `x`, and every pair is taken off (22 R460). -/
def State.supplyGuard (s : State) (site : Nat) (x : Mon) : State :=
  ((((s.setMon site x).allPairsOff site).evt (monPage site) 0).monTrack site).showMon site

/-- A die's limit bits and meters after the rise of its supply: the running channels start over (17 R376). -/
def State.fioRisen (s : State) (site : Nat) : State :=
  let s1 := (List.range 16).foldl (fun s a => s.showLims site a) (s.limitsLost site)
  (s1.runningMeters site).foldl (fun s m => (s.meterStart site m).setSt (mtrPage site m) 1) s1

theorem State.fioDown_eq (s : State) (site : Nat) : s.fioDown site =
    ((s.fioFallen site).evt (fioPage site) 2).supplyGuard site { (s.fioFallen site).mon site with supply := true } := rfl

theorem State.fioUp_eq (s : State) (site : Nat) : s.fioUp site =
    ((((s.fioRisen site).evt (fioPage site) 3).setMon site
      { (s.fioRisen site).mon site with supply := decide (31000 < (s.fioRisen site).fioSel site) }).monTrack site).showMon site := rfl

theorem State.reg_limitsLost_of_blk (s : State) (site : Nat) {a : Nat} (ha : blkOf a ≠ 0x58) : (s.limitsLost site).reg a = s.reg a := by
  have hne : ∀ off, off < 0x1000 → a ≠ dollyPage site + off := fun off ho e => ha (e ▸ blkOf_pg_add site (by decide) ho)
  delta State.limitsLost
  rw [State.reg_setNat, if_neg (hne _ (by decide)), State.reg_setNat, if_neg (hne _ (by decide))]

theorem State.reg_limitsLost_inputs (s : State) (site : Nat) : (s.limitsLost site).reg (dollyPage site + 0x4C) = 0xFFFFFFFF#32 := by
  delta State.limitsLost
  rw [State.reg_setNat, if_neg (by omega), State.reg_setNat, if_pos rfl]

section
variable {s₀ s : State}

theorem KeepsSupply.axesFault (h : KeepsSupply s₀ s) (site : Nat) : KeepsSupply s₀ (s.axesFault site) :=
  KeepsSupply.foldl (fun _ a ht => (KeepsSupply.ite (ht.axisFault site a 0x0102) ht).showLims site a) _ h

theorem KeepsSupply.metersLost (h : KeepsSupply s₀ s) (site : Nat) : KeepsSupply s₀ (s.metersLost site) :=
  (KeepsSupply.foldl (fun _ m ht => ht.setMeter site m _) _
    (KeepsSupply.foldl (fun _ m ht => (((ht.setCause site m 6 true).setVstate site m 4).setMeter site m _)) _ h)).outsZero site

theorem KeepsSupply.supplyGuard (h : KeepsSupply s₀ s) (site : Nat) (x : Mon) : KeepsSupply s₀ (s.supplyGuard site x) :=
  ((((h.setMon site x).allPairsOff site).evt (isPage_pg _ _) 0).monTrack site).showMon site

end

/-- No axis of the die is then live (15 R333). -/
theorem State.axLive_axesFault (s : State) (site : Nat) {a : Nat} (ha : a < 16) : (s.axesFault site).axLive site a = false := by
  have hstep : ∀ (t : State) b, KeepsSupply t ((if t.axLive site b || t.st (axPage site b) == 1 then t.axisFault site b 0x0102 else t).showLims site b) :=
    fun t b => (KeepsSupply.ite ((KeepsSupply.refl t).axisFault site b _) (KeepsSupply.refl t)).showLims site b
  refine foldl_establishes (P := fun _ => True) (Q := fun t => t.axLive site a = false) (x := a) (fun t _ => ?_) (fun _ _ _ => trivial)
    (fun t b ht => (hstep t b).still site a ht) _ s (List.mem_range.mpr ha) trivial
  refine ((KeepsSupply.refl _).showLims site a).still site a ?_
  by_cases hlive : t.axLive site a = true
  · rw [if_pos (by rw [hlive]; rfl)]
    exact t.axLive_axisFault site a _
  · split
    · exact t.axLive_axisFault site a _
    · simpa using hlive

/-! The pairs of the monitor (22 R450). -/

theorem Mon.pair_setPair (m : Mon) (n k : Nat) (x : Pair) : (m.setPair n x).pair k = if k = n then x else m.pair k := by
  unfold Mon.pair Mon.setPair
  split
  · next e => rw [e]; exact tabGet_tabPut_same _ _ _ _
  · next e => exact tabGet_tabPut_ne _ _ _ _ e

theorem State.mon_setMon (s : State) (site : Nat) (x : Mon) : (s.setMon site x).mon site = x := tabGet_tabPut_same _ _ _ _

theorem State.mon_of_mons {s t : State} (h : t.mons = s.mons) (site : Nat) : t.mon site = s.mon site := by unfold State.mon; rw [h]

/-- A pair that is taken off is off, the others and the guards stand. -/
theorem State.mon_pairOff (s : State) (site n : Nat) (gates : List Nat) :
    (∀ k, (((s.pairOff site n gates).mon site).pair k).st = if k = n then 0 else ((s.mon site).pair k).st) ∧
      ((s.pairOff site n gates).mon site).supply = (s.mon site).supply := by
  unfold State.pairOff
  extract_lets m x was gs s1
  have hlocks : Kept [.regs, .bar2, .out, .axes] s1 ((gs.foldl (fun s g => s.lockGateAxes site g) s1).evtIf was (monPage site) 1) :=
    State.evtIf_kept rfl _ _ _ (Kept.foldl (fun _ _ ht => State.lockGateAxes_kept rfl _ _ ht) _ _ (Kept.refl _ s1))
  rw [State.mon_of_mons (hlocks.same .mons (by decide)), State.mon_setMon]
  refine ⟨fun k => ?_, rfl⟩
  rw [Mon.pair_setPair]
  split <;> rfl

theorem State.mon_groupStops (s : State) (site cause : Nat) (gs : List Nat) : (gs.foldl (fun s g => s.groupStop site g cause) s).mon site = s.mon site :=
  State.mon_of_mons ((Kept.foldl (fun _ _ ht => State.groupStop_kept (ws := [.regs, .bar2, .out, .ram, .hmem, .rings, .strms, .axes, .grps, .slotRings,
    .cueQs, .binFlags, .slates, .cancels, .dqs, .cores, .cmbs, .engs, .poison]) rfl _ _ _ ht) gs s (Kept.refl _ s)).same .mons (by decide)) site

theorem State.mon_allPairsOff (s : State) (site : Nat) :
    (∀ n, n < 4 → (((s.allPairsOff site).mon site).pair n).st = 0) ∧ ((s.allPairsOff site).mon site).supply = (s.mon site).supply := by
  have hpair : ∀ (t : State) (n : Nat) (gs gates : List Nat) (k : Nat), ((((gs.foldl (fun s g => s.groupStop site g 7) t).pairOff site n gates).mon site).pair k).st =
      if k = n then 0 else ((t.mon site).pair k).st := fun t n gs gates k => by
    rw [(State.mon_pairOff _ site n gates).1, State.mon_groupStops]
  refine ⟨fun n hn => ?_, ?_⟩
  · refine foldl_establishes (P := fun _ => True) (Q := fun t => ((t.mon site).pair n).st = 0) (x := n) (fun t _ => ?_) (fun _ _ _ => trivial)
      (fun t k ht => ?_) _ s (List.mem_range.mpr hn) trivial
    · rw [hpair, if_pos rfl]
    · rw [hpair]
      split
      · rfl
      · exact ht
  · exact foldl_keeps (fun t : State => (t.mon site).supply) _ s (fun t n _ =>
      ((State.mon_pairOff _ site n _).2).trans (congrArg Mon.supply (State.mon_groupStops t site 7 _)))

/-- Following the input pairs leaves pairs and guards. -/
theorem State.mon_monTrack (s : State) (site : Nat) :
    ((s.monTrack site).mon site).pairs = (s.mon site).pairs ∧ ((s.monTrack site).mon site).supply = (s.mon site).supply := by
  unfold State.monTrack
  extract_lets m
  split
  · exact ⟨rfl, rfl⟩
  · rw [State.mon_setMon]
    refine ⟨foldl_keeps Mon.pairs _ m (fun u e _ => ?_), foldl_keeps Mon.supply _ m (fun u e _ => ?_)⟩
    · split <;> rfl
    · split <;> rfl

/-- Where the supply guard demands, no pair is energised (22 R460). -/
theorem State.mon_supplyGuard (s : State) (site : Nat) (x : Mon) :
    (∀ n, n < 4 → (((s.supplyGuard site x).mon site).pair n).st = 0) ∧ ((s.supplyGuard site x).mon site).supply = x.supply := by
  have hshow : ∀ t : State, (t.showMon site).mon site = t.mon site := fun t =>
    State.mon_of_mons ((State.showMon_kept (ws := [.regs]) rfl site (Kept.refl _ t)).same .mons (by decide)) site
  have hevt : ∀ t : State, (t.evt (monPage site) 0).mon site = t.mon site := fun t =>
    State.mon_of_mons ((State.evt_kept (ws := [.regs, .bar2, .out]) rfl _ _ (Kept.refl _ t)).same .mons (by decide)) site
  obtain ⟨hoff, hsup⟩ := State.mon_allPairsOff (s.setMon site x) site
  obtain ⟨hpairs, hkept⟩ := State.mon_monTrack (((s.setMon site x).allPairsOff site).evt (monPage site) 0) site
  rw [hevt] at hpairs hkept
  delta State.supplyGuard
  rw [hshow, hkept, hsup, State.mon_setMon]
  refine ⟨fun n hn => ?_, rfl⟩
  unfold Mon.pair
  rw [hpairs]
  exact hoff n hn

/-! FIO_OK. -/

theorem State.fio_setFio (s : State) (site : Nat) (x : Fio) : (s.setFio site x).fio site = x := tabGet_tabPut_same _ _ _ _

theorem State.fio_of_fios {s t : State} (h : t.fios = s.fios) (site : Nat) : t.fio site = s.fio site := by unfold State.fio; rw [h]

theorem State.reg_fioLetGo (s : State) (site a : Nat) : (s.fioLetGo site).reg a = s.reg a := rfl

theorem State.fio_fioLetGo (s : State) (site : Nat) : ((s.fioLetGo site).fio site).a = (s.fio site).a ∧ ((s.fioLetGo site).fio site).b = (s.fio site).b := by
  unfold State.fioLetGo
  rw [State.fio_setFio]
  exact ⟨rfl, rfl⟩

/-- FIO_OK as the selected level shows it. -/
theorem State.fioOk_showFio (s : State) (site : Nat) :
    ((s.showFio site).fioLetGo site).regBit (fioPage site + 0x40) 4 = decide (17000 ≤ s.fioSel site) := by
  rw [State.regBit_of_reg (State.reg_fioLetGo _ site _)]
  unfold State.showFio State.regBit
  rw [State.reg_putBit, if_pos rfl, bitOf_setBit _ (by decide)]

theorem State.fio_showFio (s : State) (site : Nat) :
    (((s.showFio site).fioLetGo site).fio site).a = (s.fio site).a ∧ (((s.showFio site).fioLetGo site).fio site).b = (s.fio site).b := by
  have hfio : (s.showFio site).fio site = s.fio site :=
    State.fio_of_fios ((State.showFio_kept (ws := [.regs]) rfl site (Kept.refl _ s)).same .fios (by decide)) site
  obtain ⟨ha, hb⟩ := (s.showFio site).fio_fioLetGo site
  exact ⟨ha.trans (congrArg Fio.a hfio), hb.trans (congrArg Fio.b hfio)⟩

/-- FIO_OK falls. -/
theorem State.fioEdge_falls {s : State} {site : Nat} (hwas : s.regBit (fioPage site + 0x40) 4 = true) (his : s.fioSel site < 17000) :
    s.fioEdge site = ((s.showFio site).fioLetGo site).fioDown site := by
  have hnow := s.fioOk_showFio site
  rw [decide_eq_false (Nat.not_le.mpr his)] at hnow
  unfold State.fioEdge
  dsimp only
  rw [hwas, hnow, if_pos (by decide)]

/-- FIO_OK rises. -/
theorem State.fioEdge_rises {s : State} {site : Nat} (hwas : s.regBit (fioPage site + 0x40) 4 = false) (his : 17000 ≤ s.fioSel site) :
    s.fioEdge site = ((s.showFio site).fioLetGo site).fioUp site := by
  have hnow := s.fioOk_showFio site
  rw [decide_eq_true his] at hnow
  unfold State.fioEdge
  dsimp only
  rw [hwas, hnow, if_neg (by decide), if_pos (by decide)]

/-- New levels at the pins move neither FIO_OK nor the selection. -/
theorem State.bit_vfio (s : State) (site aMv bMv : Nat) {i : Nat} (hi : i ≠ 3) :
    (s.vfio site aMv bMv).regBit (fioPage site + 0x40) i = s.regBit (fioPage site + 0x40) i := by
  unfold State.vfio State.regBit
  rw [State.reg_putBit, if_pos rfl, bitOf_setBit_ne _ hi]
  rfl

theorem State.fio_vfio (s : State) (site aMv bMv : Nat) : ((s.vfio site aMv bMv).fio site).a = aMv ∧ ((s.vfio site aMv bMv).fio site).b = bMv := by
  have hfio : (s.vfio site aMv bMv).fio site = _ := tabGet_tabPut_same _ _ _ _
  rw [hfio]
  exact ⟨rfl, rfl⟩

theorem State.fioSel_vfio (s : State) (site aMv bMv : Nat) :
    (s.vfio site aMv bMv).fioSel site = if s.regBit (fioPage site + 0x40) 0 then bMv else aMv := by
  obtain ⟨ha, hb⟩ := s.fio_vfio site aMv bMv
  unfold State.fioSel
  rw [s.bit_vfio site aMv bMv (by decide), ha, hb]

/-- The die as its pins show it, before the edge of FIO_OK acts. -/
def State.fioShown (s : State) (site aMv bMv : Nat) : State := ((s.vfio site aMv bMv).showFio site).fioLetGo site

theorem State.fio_fioShown (s : State) (site aMv bMv : Nat) : ((s.fioShown site aMv bMv).fio site).a = aMv ∧ ((s.fioShown site aMv bMv).fio site).b = bMv := by
  obtain ⟨ha, hb⟩ := (s.vfio site aMv bMv).fio_showFio site
  obtain ⟨ha', hb'⟩ := s.fio_vfio site aMv bMv
  exact ⟨ha.trans ha', hb.trans hb'⟩

theorem State.fioOk_fioShown (s : State) (site aMv bMv : Nat) : (s.fioShown site aMv bMv).regBit (fioPage site + 0x40) 4 =
    decide (17000 ≤ if s.regBit (fioPage site + 0x40) 0 then bMv else aMv) := by
  rw [← s.fioSel_vfio site aMv bMv]
  exact (s.vfio site aMv bMv).fioOk_showFio site

section
variable {s : State} {site aMv bMv : Nat} (hfield : s.isField site = true)
include hfield

theorem exec_fioLost (hok : s.regBit (fioPage site + 0x40) 4 = true) (hlow : (if s.regBit (fioPage site + 0x40) 0 then bMv else aMv) < 17000) :
    exec (.fioLost site aMv bMv) s = .next ((s.fioShown site aMv bMv).fioDown site) := by
  have hedge : (s.vfio site aMv bMv).fioEdge site = (s.fioShown site aMv bMv).fioDown site :=
    State.fioEdge_falls ((s.bit_vfio site aMv bMv (by decide)).trans hok) (by rwa [State.fioSel_vfio])
  rw [← hedge]
  exact congrArg Host.Outcome.next (if_pos hfield)

theorem exec_fioRestored (hok : s.regBit (fioPage site + 0x40) 4 = false) (hhigh : 17000 ≤ if s.regBit (fioPage site + 0x40) 0 then bMv else aMv) :
    exec (.fioRestored site aMv bMv) s = .next ((s.fioShown site aMv bMv).fioUp site) := by
  have hedge : (s.vfio site aMv bMv).fioEdge site = (s.fioShown site aMv bMv).fioUp site :=
    State.fioEdge_rises ((s.bit_vfio site aMv bMv (by decide)).trans hok) (by rwa [State.fioSel_vfio])
  rw [← hedge]
  exact congrArg Host.Outcome.next (if_pos hfield)

end

theorem blkOf_fioPage (site : Nat) {off : Nat} (ho : off < 0x1000) : blkOf (fioPage site + off) = 2 := blkOf_pg_add site (by decide) ho

/-- FIO_OK tells the supply. -/
theorem supplyReg_fioOk (site : Nat) : SupplyReg (fioPage site + 0x40) ∧ offOf (fioPage site + 0x40) ≠ 0x10 := by
  rw [supplyReg_iff, blkOf_fioPage site (by decide), show offOf (fioPage site + 0x40) = 0x40 from offOf_pg_add site 2 (by decide)]
  decide

theorem supplyReg_limits (site : Nat) : SupplyReg (dollyPage site + 0x4C) ∧ offOf (dollyPage site + 0x4C) ≠ 0x10 := by
  rw [supplyReg_iff, show blkOf (dollyPage site + 0x4C) = 0x58 from blkOf_pg_add site (by decide) (by decide),
    show offOf (dollyPage site + 0x4C) = 0x4C from offOf_pg_add site _ (by decide)]
  decide

/-- What keeps the supplies once the limits read as lost leaves FIO_OK as it was before. -/
theorem KeepsSupply.fioOk {s t : State} {site : Nat} (h : KeepsSupply (s.limitsLost site) t) :
    t.regBit (fioPage site + 0x40) 4 = s.regBit (fioPage site + 0x40) 4 := by
  obtain ⟨hreg, hoff⟩ := supplyReg_fioOk site
  exact State.regBit_of_reg ((h.reg _ hreg hoff).trans (s.reg_limitsLost_of_blk site (by rw [blkOf_fioPage site (by decide)]; decide))) 4

theorem KeepsSupply.limits {s t : State} {site : Nat} (h : KeepsSupply (s.limitsLost site) t) : t.reg (dollyPage site + 0x4C) = 0xFFFFFFFF#32 := by
  obtain ⟨hreg, hoff⟩ := supplyReg_limits site
  exact (h.reg _ hreg hoff).trans (s.reg_limitsLost_inputs site)

theorem KeepsSupply.latched_fio {s t : State} {site i : Nat} (h : KeepsSupply (s.evt (fioPage site) i) t) (hi : i < 32) :
    t.latched (fioPage site) i = true :=
  h.latched _ i (pg_aligned _ _) (blkOf_fioPage site (off := 0) (by decide)) (State.regBit_evt _ (pg_aligned _ _) hi)

/-- What the fall of a die's supply shows (04 R79). -/
theorem State.fioDown_shows (s : State) (site : Nat) :
    (s.fioDown site).regBit (fioPage site + 0x40) 4 = s.regBit (fioPage site + 0x40) 4 ∧ (s.fioDown site).latched (fioPage site) 2 = true ∧
      (s.fioDown site).reg (dollyPage site + 0x4C) = 0xFFFFFFFF#32 ∧ (∀ a, a < 16 → (s.fioDown site).axLive site a = false) ∧
      (∀ n, n < 4 → (((s.fioDown site).mon site).pair n).st = 0) ∧ ((s.fioDown site).mon site).supply = true := by
  have hfault : KeepsSupply (s.limitsLost site) ((s.limitsLost site).axesFault site) := (KeepsSupply.refl _).axesFault site
  have hguard : ∀ u x, KeepsSupply u (u.supplyGuard site x) := fun u x => (KeepsSupply.refl u).supplyGuard site x
  have hrest : KeepsSupply ((s.limitsLost site).axesFault site) (s.fioDown site) := by
    rw [State.fioDown_eq]
    exact ((((KeepsSupply.refl _).calAbortAll site 6).metersLost site).evt (isPage_pg site 2) 2).supplyGuard site _
  obtain ⟨hpairs, hsupply⟩ := ((s.fioFallen site).evt (fioPage site) 2).mon_supplyGuard site { (s.fioFallen site).mon site with supply := true }
  exact ⟨(hfault.trans hrest).fioOk, KeepsSupply.latched_fio (hguard _ _) (by decide), (hfault.trans hrest).limits,
    fun a ha => hrest.still site a (State.axLive_axesFault _ site ha), hpairs, hsupply⟩

/-- What the rise of a die's supply shows (04 R79). -/
theorem State.fioUp_shows (s : State) (site : Nat) :
    (s.fioUp site).regBit (fioPage site + 0x40) 4 = s.regBit (fioPage site + 0x40) 4 ∧ (s.fioUp site).latched (fioPage site) 3 = true := by
  have hrest : ∀ {u v : State} (x : Mon), KeepsSupply u v → KeepsSupply u (((v.setMon site x).monTrack site).showMon site) :=
    fun x h => ((h.setMon site x).monTrack site).showMon site
  have hrisen : KeepsSupply (s.limitsLost site) (s.fioRisen site) := by
    delta State.fioRisen
    extract_lets s1
    have h1 : KeepsSupply (s.limitsLost site) s1 := KeepsSupply.foldl (fun _ a ht => ht.showLims site a) _ (KeepsSupply.refl _)
    exact KeepsSupply.foldl (fun _ m ht => (ht.meterStart site m).setSt (isPage_pg _ _) 1 (not_telling_mtrPage site m (by decide))) _ h1
  rw [State.fioUp_eq]
  exact ⟨(hrest _ (hrisen.evt (isPage_pg site 2) 3)).fioOk, KeepsSupply.latched_fio (hrest _ (KeepsSupply.refl _)) (by decide)⟩

end Sys2Proof.Machine

/-!
Slots, pipelines and pass-through rings that a fall of the main domain takes leave the supplies (03 R67 to R72; 13 R281; 14 R308).
-/
namespace Sys2Proof.Machine

theorem not_telling_txnStatus (site b : Nat) : ¬ Telling (pg site b + 0x24) := not_telling_of_off (by rw [offOf_pg_add site b (by decide)]; decide)

section
variable {s₀ s : State}

theorem KeepsSupply.setSlot (h : KeepsSupply s₀ s) (site k : Nat) (x : Slot) : KeepsSupply s₀ (s.setSlot site k x) := h.of_same (fun _ => rfl)
theorem KeepsSupply.setGroup (h : KeepsSupply s₀ s) (g : Nat) (x : Group) : KeepsSupply s₀ (s.setGroup g x) := h.of_same (fun _ => rfl)

theorem KeepsSupply.showTxn (h : KeepsSupply s₀ s) (site k : Nat) : KeepsSupply s₀ (s.showTxn site k) :=
  KeepsSupply.foldl (fun _ b ht => KeepsSupply.ite (ht.setNat _ _ (not_telling_txnStatus site b)) ht) _ h

theorem KeepsSupply.abortSlot (h : KeepsSupply s₀ s) (site k reason : Nat) (late : Bool) : KeepsSupply s₀ (s.abortSlot site k reason late) :=
  KeepsSupply.showTxn (KeepsSupply.foldl (fun _ _ ht => (ht.evt (isPage_pg _ _) 29).evtIf late (isPage_pg _ _) 28) _ (h.setSlot _ _ _)) site k

theorem KeepsSupply.abortGroup (h : KeepsSupply s₀ s) (g reason : Nat) (late : Bool) : KeepsSupply s₀ (s.abortGroup g reason late) :=
  KeepsSupply.setGroup (KeepsSupply.foldl (fun _ _ ht => ht.abortSlot _ _ reason late) _ h) g {}

theorem KeepsSupply.siteSlotsLost (h : KeepsSupply s₀ s) (site : Nat) : KeepsSupply s₀ (s.siteSlotsLost site) :=
  KeepsSupply.foldl (fun _ k ht => ht.setSlot site k {}) _ (KeepsSupply.foldl (fun _ g ht => KeepsSupply.ite (ht.abortGroup g 8 false) ht) _ h)

theorem KeepsSupply.siteDown (h : KeepsSupply s₀ s) (site : Nat) : KeepsSupply s₀ (s.siteDown site) := by
  have hup : KeepsSupply s₀ (s.coresUp site false) :=
    have hp : ¬ Telling (pg 8 3 + 0x54) := not_telling_pg 8 (by decide) (by decide)
    KeepsSupply.ite ((h.putBit _ _ false hp).putBit _ _ false hp) (h.putBit _ _ false hp)
  exact KeepsSupply.ite ((hup.putBit (pg 8 0 + 0x4C) _ false (not_telling_pg 8 (by decide) (by decide))).evt (isPage_pg 8 0) 1) h

theorem KeepsSupply.losePipe (h : KeepsSupply s₀ s) (site k : Nat) : KeepsSupply s₀ (s.losePipe site k) :=
  KeepsSupply.ite ((h.setStrm _ _ _).putBit (strPage site k + 0x80) 9 true (not_telling_strPage _ _ (by decide))) (h.setStrm _ _ _)

theorem KeepsSupply.pipeLostOf (h : KeepsSupply s₀ s) (x : Slate) : KeepsSupply s₀ (s.pipeLostOf x) := by
  unfold State.pipeLostOf State.pipeLost
  extract_lets site k y
  split
  · exact KeepsSupply.ite (((h.losePipe site k).setNat (pipePage site k + 0x60) 0 (not_telling_pipePage _ _ (by decide))).setNat (pipePage site k + 0x80) _
      (not_telling_pipePage _ _ (by decide))) h
  · exact h

/-! Pass-through rings. -/
theorem KeepsSupply.showStream (h : KeepsSupply s₀ s) (site k : Nat) : KeepsSupply s₀ (s.showStream site k) :=
  (h.setNat (strPage site k + 0x54) _ (not_telling_strPage _ _ (by decide))).setNat (pipePage site k + 0x60) _ (not_telling_pipePage _ _ (by decide))

theorem KeepsSupply.showAdmit (h : KeepsSupply s₀ s) : KeepsSupply s₀ s.showAdmit :=
  KeepsSupply.foldl (fun _ d ht => KeepsSupply.ite (ht.setNat (pg d 9 + 0x44) _ (not_telling_pg d (by decide) (by decide))) ht) _ h

theorem KeepsSupply.losePass (h : KeepsSupply s₀ s) (site k : Nat) : KeepsSupply s₀ (s.losePass site k) :=
  have h1 := (h.setNat (strPage site k + 0x4C) 0 (not_telling_strPage _ _ (by decide))).setNat (strPage site k + 0x50) 0 (not_telling_strPage _ _ (by decide))
  KeepsSupply.ite (((KeepsSupply.ite (h1.evt (isPage_pg _ _) 1) h1).showStream site k).showAdmit) h

end

end Sys2Proof.Machine

/-!
The main domain's reset (04 R76, R82, R83).
-/
namespace Sys2Proof.Machine

/-- The registers of the compute dies, X0 to X3, read as before. -/
def DiesStand (s t : State) : Prop := ∀ a, siteOf a < 4 → t.reg a = s.reg a

theorem DiesStand.refl (s : State) : DiesStand s s := fun _ _ => rfl

section
variable {s₀ s t : State}

theorem DiesStand.of_same (h : DiesStand s₀ s) (hr : ∀ a, t.reg a = s.reg a) : DiesStand s₀ t := fun a ha => (hr a).trans (h a ha)

theorem DiesStand.ite {c : Prop} [Decidable c] (h1 : DiesStand s₀ s) (h2 : DiesStand s₀ t) : DiesStand s₀ (if c then s else t) := by
  split
  · exact h1
  · exact h2

theorem DiesStand.setReg (h : DiesStand s₀ s) {b : Nat} (hb : 4 ≤ siteOf b) (v : Word) : DiesStand s₀ (s.setReg b v) :=
  fun a ha => (s.reg_setReg_ne v (fun e => by rw [e] at ha; omega)).trans (h a ha)

theorem DiesStand.setNat (h : DiesStand s₀ s) {b : Nat} (hb : 4 ≤ siteOf b) (n : Nat) : DiesStand s₀ (s.setNat b n) := h.setReg hb _
theorem DiesStand.putFld (h : DiesStand s₀ s) {b : Nat} (hb : 4 ≤ siteOf b) (lo w x : Nat) : DiesStand s₀ (s.putFld b lo w x) := h.setReg hb _
theorem DiesStand.putBit (h : DiesStand s₀ s) {b : Nat} (hb : 4 ≤ siteOf b) (i : Nat) (x : Bool) : DiesStand s₀ (s.putBit b i x) := h.setReg hb _

theorem siteOf_pendReg (p : Nat) : 4 ≤ siteOf (pendReg p) := by
  unfold siteOf pendReg
  rw [Nat.add_assoc, Nat.add_assoc]
  exact (Nat.le_div_iff_mul_le (by decide)).mpr ((by decide : 4 * 0x400000 ≤ pg 8 6).trans (Nat.le_add_right _ _))

theorem DiesStand.showPend (h : DiesStand s₀ s) {p : Nat} (hp : 4 ≤ siteOf p) : DiesStand s₀ (s.showPend p) :=
  have h18 : 4 ≤ siteOf (p + 0x18) := hp.trans (siteOf_le_add p 0x18)
  DiesStand.ite ((h.setReg h18 _).putBit (siteOf_pendReg p) _ _) (h.setReg h18 _)

theorem DiesStand.evt (h : DiesStand s₀ s) {p : Nat} (hp : 4 ≤ siteOf p) (bit : Nat) : DiesStand s₀ (s.evt p bit) := by
  refine fun a ha => (s.reg_evt p bit a ?_).trans (h a ha)
  have hne : ∀ b, 4 ≤ siteOf b → a ≠ b := fun b hb e => absurd (e ▸ ha) (Nat.not_lt.mpr hb)
  simp only [evtRegs, List.mem_cons, List.not_mem_nil, or_false, not_or]
  exact ⟨hne _ (hp.trans (siteOf_le_add p _)), hne _ (hp.trans (siteOf_le_add p _)), hne _ (siteOf_pendReg p)⟩

end

/-- No stream-class rate shows while the main domain is down. -/
theorem State.showAdmit_mainDown {s : State} (hm : s.mainOk = false) : s.showAdmit = s := by
  unfold State.showAdmit
  have hstep : ∀ d, (if dieAt s.asm d = .compute ∧ s.mainOk = true ∧ s.siteUp d = true then s.setNat (pg d 9 + 0x44) (cdiv (s.admitted d) 1000000) else s) = s :=
    fun d => if_neg (by rw [hm]; simp)
  simp only [List.foldl_cons, List.foldl_nil, hstep]

theorem State.attachPass_mainDown {s : State} (hm : s.mainOk = false) (site k : Nat) : s.attachPass site k = s := if_pos (.inr (.inl hm))

theorem supplyReg_mainOk : SupplyReg (pg 8 2 + 0x40) ∧ offOf (pg 8 2 + 0x40) ≠ 0x10 := by rw [supplyReg_iff]; decide

theorem KeepsSupply.mainOk {s t : State} (h : KeepsSupply s t) : t.mainOk = s.mainOk :=
  State.regBit_of_reg (h.reg _ supplyReg_mainOk.1 supplyReg_mainOk.2) 5

/-- A field die's pass-through ring goes without a write to a compute die's page while the main domain is down. -/
theorem DiesStand.losePass {s₀ s : State} (h : DiesStand s₀ s) {site : Nat} (hs : site = 9 ∨ site = 11) (hm : s.mainOk = false) (k : Nat) :
    DiesStand s₀ (s.losePass site k) := by
  have hsite : ∀ {blk off}, off < 0x1000 → 4 ≤ siteOf (pg site blk + off) := fun ho => by rw [siteOf_pg_add (by omega) ho]; omega
  have hstr : ∀ {off}, off < 0x1000 → 4 ≤ siteOf (strPage site k + off) := fun ho => hsite ho
  have hpage : 4 ≤ siteOf (strPage site k) := by simpa only [Nat.add_zero] using hstr (off := 0) (by decide)
  have hpipe : 4 ≤ siteOf (pipePage site k + 0x60) := hsite (by decide)
  unfold State.losePass State.detach
  extract_lets p s1
  have hk : KeepsSupply s s1 := ((KeepsSupply.refl s).setNat (strPage site k + 0x4C) 0 (not_telling_strPage _ _ (by decide))).setNat (strPage site k + 0x50) 0
    (not_telling_strPage _ _ (by decide))
  have hd : DiesStand s₀ s1 := (h.setNat (hstr (by decide)) 0).setNat (hstr (by decide)) 0
  have hk2 : KeepsSupply s (((if s.attached site k then s1.evt p 1 else s1)).showStream site k) :=
    (KeepsSupply.ite (hk.evt (isPage_pg _ _) 1) hk).showStream site k
  rw [State.showAdmit_mainDown (hk2.mainOk.trans hm)]
  exact DiesStand.ite (((DiesStand.ite (hd.evt hpage 1) hd).setNat (hstr (by decide)) _).setNat hpipe _) h

theorem State.site_of_allStreams {s : State} {x : Nat × Nat} (h : x ∈ s.allStreams) : x.1 = 9 ∨ x.1 = 11 := by
  unfold State.allStreams at h
  simp only [List.mem_flatMap, List.mem_filter, List.mem_map, List.mem_cons, List.not_mem_nil, or_false] at h
  obtain ⟨site, ⟨hsite, -⟩, k, -, rfl⟩ := h
  exact hsite

/-- The step of `passRings` for one stream. -/
def State.passStep (s : State) (x : Nat × Nat) : State :=
  let s1 := s.losePass x.1 x.2
  if s1.st (strPage x.1 x.2) = 0 then s1 else s1.attachPass x.1 x.2

/-- While the main domain is down pass-through rings are lost, and none is attached. -/
theorem State.passRings_mainDown {s : State} (hm : s.mainOk = false) : s.passRings.mainOk = false ∧ DiesStand s s.passRings := by
  refine List.foldlRecOn (motive := fun t : State => t.mainOk = false ∧ DiesStand s t) s.allStreams State.passStep ⟨hm, DiesStand.refl s⟩ ?_
  rintro t ⟨ht, hd⟩ x hx
  have h1 : (t.losePass x.1 x.2).mainOk = false := ((KeepsSupply.refl t).losePass x.1 x.2).mainOk.trans ht
  have hstep : t.passStep x = t.losePass x.1 x.2 := by
    delta State.passStep
    dsimp only
    rw [State.attachPass_mainDown h1, ite_self]
  rw [hstep]
  exact ⟨h1, hd.losePass (State.site_of_allStreams hx) ht x.2⟩

end Sys2Proof.Machine

/-!
What the loss and the return of main power show (04 R82, R85).
-/
namespace Sys2Proof.Machine

theorem State.site_of_fieldSites {s : State} {x : Nat} (h : x ∈ s.fieldSites) : x = 9 ∨ x = 11 := by
  unfold State.fieldSites at h
  simp only [List.mem_filter, List.mem_cons, List.not_mem_nil, or_false] at h
  exact h.1

theorem siteOf_supPage {off : Nat} (ho : off < 0x1000) : siteOf (supPage + off) = 8 := siteOf_pg_add (by decide) ho
theorem siteOf_bootPage {off : Nat} (ho : off < 0x1000) : siteOf (bootPage + off) = 8 := siteOf_pg_add (by decide) ho

/-- Bits that show on the supply pages of the field dies leave the registers of X0 and of the compute dies. -/
theorem State.reg_fioBits (s : State) (l : List Nat) (hl : ∀ x ∈ l, x = 9 ∨ x = 11) (i : Nat) (b : Bool) {a : Nat} (ha : siteOf a ≤ 8) :
    (l.foldl (fun s x => s.putBit (fioPage x + 0x40) i b) s).reg a = s.reg a := by
  refine foldl_keeps (fun t : State => t.reg a) l s (fun t x hx => ?_)
  have hne : a ≠ fioPage x + 0x40 := fun e => by
    have hsite : siteOf (fioPage x + 0x40) = x := siteOf_pg_add (by have := hl x hx; omega) (by decide)
    have := hl x hx
    rw [e, hsite] at ha
    omega
  exact (t.reg_putBit _ _ _ _).trans (if_neg hne)

theorem State.mainOk_of_reg {s t : State} (h : t.reg (supPage + 0x40) = s.reg (supPage + 0x40)) : t.mainOk = s.mainOk := State.regBit_of_reg h 5

theorem State.mainOk_putBit (s : State) (b : Bool) : (s.putBit (supPage + 0x40) 5 b).mainOk = b := by
  change bitOf ((s.putBit (supPage + 0x40) 5 b).reg (supPage + 0x40)) 5 = b
  rw [State.reg_putBit, if_pos rfl, bitOf_setBit _ (by decide)]

/-- The supply status lies in the always-on domain, every page of a compute die in the main domain (04 R76). -/
theorem mainAddr_supStatus (asm : Nat) : mainAddr asm (supPage + 0x40) = false := by
  have hsite : siteOf (supPage + 0x40) = 8 := siteOf_supPage (by decide)
  unfold mainAddr
  rw [hsite]
  rfl

theorem mainAddr_of_compute {asm a : Nat} (ha : siteOf a < 4) : mainAddr asm a = true := by
  have hdie : dieAt asm (siteOf a) = .compute ∨ dieAt asm (siteOf a) = .none := by
    by_cases h2 : siteOf a < 2
    · exact .inl (if_pos h2)
    · have hpair : dieAt asm (siteOf a) = if asm = 3 then .none else .compute := (if_neg h2).trans (if_pos ha)
      rw [hpair]
      split
      · exact .inr rfl
      · exact .inl rfl
  unfold mainAddr
  rcases hdie with h | h <;> rw [h]

/-- A register that a reset of its domain clears reads its reset value. -/
theorem State.reg_of_regs_dropped {s t : State} {f : Nat × Word → Bool} (ht : t.regs = s.regs.filter f) {a : Nat} (ha : ∀ v, f (a, v) = false) :
    t.reg a = regReset t.asm a := by
  unfold State.reg
  rw [ht]
  exact tabGet_filter_of_drop _ ha _

/-- A reset of the main domain (04 R76). -/
theorem State.resetMain_clears (s : State) : s.resetMain.cores = [] ∧ s.resetMain.tqs = [] ∧ s.resetMain.dqs = [] ∧ s.resetMain.mmus = [] ∧
    s.resetMain.tenants = [] ∧ s.resetMain.grans = [] ∧ s.resetMain.loads = [] ∧ (∀ x ∈ s.resetMain.slates, x.2.state = 3) ∧
    s.resetMain.mainOk = false ∧ ∀ a, siteOf a < 4 → s.resetMain.reg a = regReset s.resetMain.asm a := by
  unfold State.resetMain
  extract_lets s0 s1 s2 s3 keep image wiped s5 s6 aon
  have hfell : KeepsSupply s0 s3 := by
    have h1 : KeepsSupply s0 s1 := KeepsSupply.foldl (fun _ x ht => (ht.siteDown x).siteSlotsLost x) _ (KeepsSupply.refl s0)
    have h2 : KeepsSupply s0 s2 := (h1.putFld (pg 8 0 + 0x4C) 4 8 0 (not_telling_pg 8 (by decide) (by decide))).setNat (pg 8 0 + 0x54) 0 (not_telling_pg 8 (by decide) (by decide))
    exact KeepsSupply.foldl (fun _ x ht => ht.pipeLostOf x.2) _ h2
  have hwiped : wiped.mainOk = false := by
    have hsup : wiped.reg (supPage + 0x40) = s3.reg (supPage + 0x40) :=
      State.reg_of_regs_filter (s := s3) (t := wiped) (f := fun r => !mainAddr s.asm r.1) rfl rfl (fun _ => by rw [mainAddr_supStatus]; rfl)
    rw [State.mainOk_of_reg hsup, hfell.mainOk]
    exact s.mainOk_putBit false
  have hdies : ∀ a, siteOf a < 4 → wiped.reg a = regReset wiped.asm a := fun a ha =>
    State.reg_of_regs_dropped (s := s3) (t := wiped) (f := fun r => !mainAddr s.asm r.1) rfl (fun _ => by rw [mainAddr_of_compute ha]; rfl)
  have hlost : ∀ x ∈ wiped.slates, x.2.state = 3 := by
    intro x hx
    obtain ⟨y, -, rfl⟩ := List.mem_map.mp hx
    rfl
  have hshown : ∀ a, siteOf a ≤ 8 → a ≠ bootPage + 0x40 → a ≠ bootPage + 0x54 →
      (s6.setReg (bootPage + 0x54) (s6.reg (bootPage + 0x54) &&& BitVec.ofNat 32 aon)).reg a = wiped.reg a := by
    intro a ha h40 h54
    have h5 : s5.reg a = wiped.reg a := wiped.reg_fioBits _ (fun _ hx => State.site_of_fieldSites hx) 5 false ha
    rw [State.reg_setReg, if_neg h54]
    exact (State.reg_ite ((State.reg_putFld _ _ _ _ _ _).trans (if_neg h40)) rfl).trans h5
  have hkept : Kept [.regs] wiped (s6.setReg (bootPage + 0x54) (s6.reg (bootPage + 0x54) &&& BitVec.ofNat 32 aon)) := by
    have h5 : Kept [.regs] wiped s5 := Kept.foldl (fun _ _ ht => State.putBit_kept rfl _ _ _ ht) _ _ (Kept.refl _ wiped)
    exact State.setReg_kept rfl _ _ (Kept.ite (State.putFld_kept rfl _ _ _ _ h5) h5)
  generalize s6.setReg (bootPage + 0x54) (s6.reg (bootPage + 0x54) &&& BitVec.ofNat 32 aon) = u at hshown hkept
  have hmain : u.mainOk = false := (State.mainOk_of_reg (hshown _ (by rw [siteOf_supPage (by decide)]) (by decide) (by decide))).trans hwiped
  obtain ⟨hdown, hstand⟩ := State.passRings_mainDown hmain
  have hend : Kept [.regs, .bar2, .out] wiped u.passRings := (Kept.mono rfl hkept).trans (State.passRings_kept rfl (Kept.refl _ u))
  refine ⟨hend.same .cores (by decide), hend.same .tqs (by decide), hend.same .dqs (by decide), hend.same .mmus (by decide),
    hend.same .tenants (by decide), hend.same .grans (by decide), hend.same .loads (by decide), ?slates, hdown, fun a ha => ?dies⟩
  case slates =>
    have hslates : u.passRings.slates = wiped.slates := hend.same .slates (by decide)
    rwa [hslates]
  case dies =>
    have hasm : u.passRings.asm = wiped.asm := hend.same .asm (by decide)
    have h40 : a ≠ bootPage + 0x40 := fun e => by rw [e, siteOf_bootPage (by decide)] at ha; omega
    have h54 : a ≠ bootPage + 0x54 := fun e => by rw [e, siteOf_bootPage (by decide)] at ha; omega
    rw [hstand a ha, hshown a (by omega) h40 h54, hdies a ha, hasm]

end Sys2Proof.Machine

/-!
Main power falls, rises and is released (04 R82).
-/
namespace Sys2Proof.Machine

theorem only_of_next {w : List Field} {s t : State} {o : Host.Outcome State Fault Refusal} (ho : o = .next t) (hk : Kept w s (after s o)) : Only w s t := by
  subst ho
  exact hk.same

/-! MAIN_LOST. -/

/-- MAIN_PG has fallen and the field dies have spliced; the main domain is still to be reset. -/
def State.mainFallen (s : State) : State :=
  let s1 := (s.putBit (supPage + 0x40) 4 false).setNat (supPage + 0x54) (s.us % 2 ^ 32)
  s1.fieldSites.foldl (fun s x => s.supplySplice x) s1

/-- The main domain is reset, and no rise of MAIN_PG stands. -/
def State.mainWiped (s : State) : State := { s.mainFallen.resetMain with sup := { s.mainFallen.sup with pgAt := none } }

theorem execMainLost_of_pg {s : State} (hpg : s.regBit (supPage + 0x40) 4 = true) : execMainLost s = .next (s.mainWiped.evt supPage 2) :=
  congrArg Host.Outcome.next (if_neg (by rw [hpg]; decide))

theorem State.mainWiped_kept (s : State) : Kept [.sup] s.mainFallen.resetMain s.mainWiped := by
  delta State.mainWiped
  generalize s.mainFallen = u
  exact Kept.set_sup _ rfl (Kept.refl _ _)

/-- What the loss of main power leaves (04 R82). -/
theorem State.mainWiped_lost (s : State) : (s.mainWiped.evt supPage 2).mainOk = false ∧ DiesStand s.mainFallen.resetMain (s.mainWiped.evt supPage 2) ∧
    Kept [.regs, .bar2, .out, .sup] s.mainFallen.resetMain (s.mainWiped.evt supPage 2) := by
  obtain ⟨-, -, -, -, -, -, -, -, hdown, -⟩ := s.mainFallen.resetMain_clears
  have hregs : ∀ a, s.mainWiped.reg a = s.mainFallen.resetMain.reg a := fun a => State.reg_of_kept s.mainWiped_kept a (by decide) (by decide)
  have hdies : DiesStand s.mainFallen.resetMain (s.mainWiped.evt supPage 2) := ((DiesStand.refl _).of_same hregs).evt (by decide) 2
  have hok : (s.mainWiped.evt supPage 2).mainOk = s.mainWiped.mainOk := State.mainOk_of_reg (State.reg_evt _ _ _ _ (by decide))
  exact ⟨(hok.trans (State.mainOk_of_reg (hregs _))).trans hdown, hdies, State.evt_kept rfl _ _ (Kept.mono rfl s.mainWiped_kept)⟩

/-! MAIN_PG_RISE. -/

/-- MAIN_PG has risen, RESET_CAUSE is 4, and the field dies have spliced. -/
def State.mainRisen (s : State) : State :=
  let s1 := (s.putBit (supPage + 0x40) 4 true).setNat (supPage + 0x44) 4
  s1.fieldSites.foldl (fun s x => s.supplySplice x) s1

theorem execMainPgRise_of_pg {s : State} (hpg : s.regBit (supPage + 0x40) 4 = false) :
    execMainPgRise s = .next { s.mainRisen with sup := { s.mainRisen.sup with pgAt := some s.mainRisen.now } } :=
  congrArg Host.Outcome.next (if_neg (by rw [hpg]; decide))

theorem State.mainRisen_shows (s : State) :
    s.mainRisen.regBit (supPage + 0x40) 4 = true ∧ s.mainRisen.reg (supPage + 0x44) = 4#32 ∧ s.mainRisen.now = s.now := by
  delta State.mainRisen
  extract_lets s1
  have h1 : s1.reg (supPage + 0x40) = setBit (s.reg (supPage + 0x40)) 4 true := by
    unfold s1
    rw [State.reg_setNat, if_neg (by decide), State.reg_putBit, if_pos rfl]
  have hsplice : KeepsSupply s1 (s1.fieldSites.foldl (fun s x => s.supplySplice x) s1) :=
    KeepsSupply.foldl (fun _ x ht => ht.supplySplice x) _ (KeepsSupply.refl s1)
  have hkept : Kept [.regs, .bar2, .out, .fios, .ram, .hmem, .rings, .strms, .axes, .grps, .slotRings, .cueQs, .binFlags, .slates, .cancels, .dqs,
      .cores, .cmbs, .engs, .poison] s (s1.fieldSites.foldl (fun s x => s.supplySplice x) s1) :=
    Kept.foldl (fun _ x ht => State.supplySplice_kept rfl x ht) _ _ (State.setNat_kept rfl _ _ (State.putBit_kept rfl _ _ _ (Kept.refl _ s)))
  have hcause : SupplyReg (supPage + 0x44) ∧ offOf (supPage + 0x44) ≠ 0x10 := by rw [supplyReg_iff]; decide
  refine ⟨?_, (hsplice.reg _ hcause.1 hcause.2).trans ((State.reg_setNat _ _ _ _).trans (if_pos rfl)), hkept.same .now (by decide)⟩
  have h2 : (s1.fieldSites.foldl (fun s x => s.supplySplice x) s1).reg (supPage + 0x40) = s1.reg (supPage + 0x40) :=
    hsplice.reg _ supplyReg_mainOk.1 supplyReg_mainOk.2
  unfold State.regBit
  rw [h2, h1, bitOf_setBit _ (by decide)]

/-! MAIN_RELEASE. -/

theorem execMainRelease_of_held {s : State} {n : Nat} (hat : s.sup.pgAt = some n) (hpg : s.regBit (supPage + 0x40) 4 = true) (hdown : s.mainOk = false)
    (hlong : n + 200000 ≤ s.now) (hheld : s.sup.held = none) : execMainRelease s = .next s.mainUp := by
  unfold execMainRelease
  rw [hat]
  exact congrArg Host.Outcome.next (if_pos ⟨hpg, hdown, hheld, hlong⟩)

/-- The registers of the compute dies, and X0's status registers at its first pages, beside the pending events. -/
def BesidePending (a : Nat) : Prop := a < pg 8 6 ∧ (siteOf a < 4 ∨ (offOf a ≠ 0x10 ∧ offOf a ≠ 0x18))

theorem besidePending_iff {a : Nat} : BesidePending a ↔ a < pg 8 6 ∧ (siteOf a < 4 ∨ (offOf a ≠ 0x10 ∧ offOf a ≠ 0x18)) := Iff.rfl

theorem ne_pendReg_of_besidePending {a : Nat} (ha : BesidePending a) (p : Nat) : a ≠ pendReg p := by
  have hlow : a < pg 8 6 := ha.1
  unfold pendReg
  omega

theorem ne_pend_of_besidePending {a : Nat} (ha : BesidePending a) {x : Nat} (hx : x = 8 ∨ x = 9 ∨ x = 11) (b : Nat) : a ≠ pg x b + 0x18 := by
  intro e
  have hplace := ha.2
  rw [e, offOf_pg_add x b (by decide), siteOf_pg_add (by omega) (by decide)] at hplace
  omega

theorem not_evtReg_of_besidePending {a : Nat} (ha : BesidePending a) : a ∉ evtRegs supPage := by
  have hplace := ha.2
  simp only [evtRegs, List.mem_cons, List.not_mem_nil, or_false, not_or]
  refine ⟨fun e => ?_, ne_pend_of_besidePending ha (.inl rfl) 2, ne_pendReg_of_besidePending ha supPage⟩
  rw [e, siteOf_supPage (by decide), show offOf (supPage + 0x10) = 0x10 from offOf_pg_add 8 2 (by decide)] at hplace
  omega

theorem siteOf_of_besidePending {a : Nat} (ha : BesidePending a) : siteOf a ≤ 8 := by
  have hlow : a < pg 8 6 := ha.1
  unfold pg at hlow
  unfold siteOf
  omega

/-- PEND_MAP's bits of X0 and the field dies. -/
theorem State.reg_showPends (s : State) {a : Nat} (ha : BesidePending a) : s.showPends.reg a = s.reg a := by
  refine foldl_keeps (fun t : State => t.reg a) _ s (fun t p hp => State.reg_ite rfl ?_)
  simp only [List.mem_flatMap, List.mem_map, List.mem_cons] at hp
  obtain ⟨x, hx, b, -, rfl⟩ := hp
  have hsite : x = 8 ∨ x = 9 ∨ x = 11 := hx.imp id State.site_of_fieldSites
  exact State.reg_showPend t _ a (ne_pend_of_besidePending ha hsite b) (ne_pendReg_of_besidePending ha _)

theorem State.reg_supEvt (s : State) (bit a : Nat) : (s.supEvt bit).reg a = (s.evt supPage bit).reg a :=
  State.reg_of_kept (State.eventTo_kept (ws := [.rings]) rfl _ _ _ _ _ _ (Kept.refl _ _)) a (by decide) (by decide)

/-- The release and the TRNG's start are timed from now. -/
def State.stampRelease (s : State) : State := { s with sec := { s.sec with releasedAt := s.now, trngAt := s.now } }

/-- MAIN_OK shows on X0 and the field dies, their pending events in PEND_MAP. -/
def State.mainShown (s : State) : State :=
  let s1 := s.putBit (supPage + 0x40) 5 true
  (s1.fieldSites.foldl (fun s x => s.putBit (fioPage x + 0x40) 5 true) s1.stampRelease).showPends

theorem State.mainShown_kept (s : State) : Kept [.regs] (s.putBit (supPage + 0x40) 5 true).stampRelease s.mainShown :=
  State.showPends_kept rfl (Kept.foldl (fun _ _ ht => State.putBit_kept rfl _ _ _ ht) _ _ (Kept.refl _ _))

theorem State.reg_mainShown (s : State) {a : Nat} (ha : BesidePending a) : s.mainShown.reg a = (s.putBit (supPage + 0x40) 5 true).reg a :=
  (State.reg_showPends _ ha).trans (State.reg_fioBits _ _ (fun _ hx => State.site_of_fieldSites hx) 5 true (siteOf_of_besidePending ha))

/-- MAIN_RESTORED is latched; the boot is still to begin. -/
def State.mainFreed (s : State) : State := s.mainShown.supEvt 3

theorem State.mainFreed_kept (s : State) : Kept [.regs, .bar2, .out, .rings] (s.putBit (supPage + 0x40) 5 true).stampRelease s.mainFreed :=
  (Kept.mono rfl s.mainShown_kept).trans (State.supEvt_kept rfl 3 (Kept.refl _ _))

theorem State.reg_mainFreed (s : State) {a : Nat} (ha : BesidePending a) : s.mainFreed.reg a = (s.putBit (supPage + 0x40) 5 true).reg a :=
  ((State.reg_supEvt _ 3 a).trans (State.reg_evt _ _ _ _ (not_evtReg_of_besidePending ha))).trans (s.reg_mainShown ha)

theorem State.latched_mainFreed (s : State) : s.mainFreed.latched supPage 3 = true :=
  (State.latched_of_reg (State.reg_supEvt _ 3 _) 3).trans (State.regBit_evt _ (by decide) (by decide))

theorem State.mainUp_of_firmware {s : State} (hfirm : s.boot.recovery = false) : s.mainUp = s.mainFreed.mainBooting := by
  have hboot : s.mainFreed.boot.recovery = false := (congrArg Boot.recovery (s.mainFreed_kept.same .boot (by decide))).trans hfirm
  exact if_neg (Bool.eq_false_iff.mp hboot)

theorem State.reg_mainBooting (s : State) {a : Nat} (ha : a ≠ bootPage + 0x40) : s.mainBooting.reg a = s.reg a :=
  State.reg_ite ((State.reg_putFld _ _ _ _ _ _).trans (if_neg ha)) rfl

theorem State.bootSt_mainBooting {s : State} (hm : s.mainOk = true) (hb : s.bootSt = 2) : s.mainBooting.bootSt = 3 := by
  have hboot : s.mainBooting = s.putFld (bootPage + 0x40) 0 3 3 := if_pos ⟨hm, hb⟩
  rw [hboot]
  change fld ((s.putFld (bootPage + 0x40) 0 3 3).reg (bootPage + 0x40)) 0 3 = 3
  rw [State.reg_putFld, if_pos rfl, fld_setFld_low _ (by decide) (by decide)]

/-- What the release of the main domain shows (04 R82; 05 R98). -/
theorem State.mainUp_shows {s : State} (hfirm : s.boot.recovery = false) : s.mainUp.mainOk = true ∧ s.mainUp.latched supPage 3 = true ∧
    s.mainUp.sec.releasedAt = s.now ∧ (s.bootSt = 2 → s.mainUp.bootSt = 3) ∧ DiesStand s s.mainUp := by
  have hsup : BesidePending (supPage + 0x40) := by rw [besidePending_iff]; decide
  have hboot : BesidePending (bootPage + 0x40) := by rw [besidePending_iff]; decide
  have hmain : s.mainFreed.mainOk = true := (State.mainOk_of_reg (s.reg_mainFreed hsup)).trans (s.mainOk_putBit true)
  have hst : s.mainFreed.bootSt = s.bootSt :=
    State.regFld_of_reg ((s.reg_mainFreed hboot).trans ((State.reg_putBit _ _ _ _ _).trans (if_neg (by decide)))) 0 3
  have hsec : s.mainFreed.mainBooting.sec = (s.putBit (supPage + 0x40) 5 true).stampRelease.sec :=
    ((Kept.mono rfl s.mainFreed_kept).trans (State.mainBooting_kept (ws := [.regs, .bar2, .out, .rings]) rfl (Kept.refl _ _))).same .sec (by decide)
  rw [State.mainUp_of_firmware hfirm]
  refine ⟨?ok, ?restored, congrArg Sec.releasedAt hsec, fun h2 => State.bootSt_mainBooting hmain (hst.trans h2), fun a ha => ?dies⟩
  case ok => exact (State.mainOk_of_reg (State.reg_mainBooting _ (by decide))).trans hmain
  case restored => exact (State.latched_of_reg (State.reg_mainBooting _ (by decide)) 3).trans s.latched_mainFreed
  case dies =>
    have hbeside : BesidePending a := ⟨by unfold siteOf at ha; unfold pg; omega, .inl ha⟩
    have hnb : a ≠ bootPage + 0x40 := fun e => by rw [e, siteOf_bootPage (by decide)] at ha; omega
    have hns : a ≠ supPage + 0x40 := fun e => by rw [e, siteOf_supPage (by decide)] at ha; omega
    rw [State.reg_mainBooting _ hnb, s.reg_mainFreed hbeside, State.reg_putBit, if_neg hns]

/-- Settles O21, each command by what it shows: `fioDown_shows` and `fioUp_shows` for a field die, `resetMain_clears`, `mainRisen_shows` and
`mainUp_shows` for main power. -/
theorem fieldSupplyAndMainPower : Obligations.FieldSupplyAndMainPower := by
  unfold Obligations.FieldSupplyAndMainPower
  refine ⟨?lost, ?restored, ?mainLost, ?mainRise, ?mainRelease⟩
  case lost =>
    intro s site aMv bMv hfield hok hlow
    have hexec := exec_fioLost (aMv := aMv) (bMv := bMv) hfield hok hlow
    obtain ⟨hbit, hevent, hlimits, haxes, hpairs, hsupply⟩ := (s.fioShown site aMv bMv).fioDown_shows site
    obtain ⟨ha, hb⟩ := s.fio_fioShown site aMv bMv
    have hfios : ((s.fioShown site aMv bMv).fioDown site).fio site = (s.fioShown site aMv bMv).fio site :=
      State.fio_of_fios ((State.fioDown_kept (ws := [.regs, .bar2, .out, .meters, .calibs, .mons, .ram, .hmem, .rings, .strms, .axes, .grps, .slotRings,
        .cueQs, .binFlags, .slates, .cancels, .dqs, .cores, .cmbs, .engs, .poison]) rfl site (Kept.refl _ _)).same .fios (by decide)) site
    refine ⟨_, hexec, by rw [hfios, ha], by rw [hfios, hb], ?_, hevent, hlimits, haxes, hpairs, hsupply,
      only_of_next hexec (execFioLost_kept rfl site aMv bMv (Kept.refl _ s))⟩
    rw [hbit, State.fioOk_fioShown]
    exact decide_eq_false (Nat.not_le.mpr hlow)
  case restored =>
    intro s site aMv bMv hfield hok hhigh
    have hexec := exec_fioRestored (aMv := aMv) (bMv := bMv) hfield hok hhigh
    obtain ⟨hbit, hevent⟩ := (s.fioShown site aMv bMv).fioUp_shows site
    obtain ⟨ha, hb⟩ := s.fio_fioShown site aMv bMv
    have hup : Kept [.regs, .bar2, .out, .meters, .mons] (s.fioShown site aMv bMv) ((s.fioShown site aMv bMv).fioUp site) :=
      State.fioUp_kept rfl site (Kept.refl _ _)
    have hshown : Kept [.regs, .fios] s (s.fioShown site aMv bMv) :=
      State.fioLetGo_kept rfl site (State.showFio_kept rfl site (State.vfio_kept rfl site aMv bMv (Kept.refl _ s)))
    have hfios := State.fio_of_fios (hup.same .fios (by decide)) site
    have haxes : ((s.fioShown site aMv bMv).fioUp site).axes = s.axes := (hup.same .axes (by decide)).trans (hshown.same .axes (by decide))
    refine ⟨_, hexec, by rw [hfios, ha], by rw [hfios, hb], ?_, hevent, fun a => ?_,
      only_of_next hexec (execFioRestored_kept rfl site aMv bMv (Kept.refl _ s))⟩
    · rw [hbit, State.fioOk_fioShown]
      exact decide_eq_true hhigh
    · unfold State.axis
      rw [haxes]
  case mainLost =>
    intro s hpg
    have hexec := execMainLost_of_pg hpg
    have honly : Only [.regs, .latch, .back, .bar2, .out, .sup, .fios, .slots, .groups, .gaffer, .tenants, .sec, .ens, .ports, .boot, .ram, .hmem, .mute,
        .loads, .rings, .strms, .axes, .grps, .slotRings, .cueQs, .binFlags, .slates, .cancels, .tqs, .sched, .dqs, .cores, .cmbs, .engs, .mmus, .grans,
        .granBusy, .poison, .buckets, .arbs, .capQs, .avs, .bndTaken, .ces, .scrubs] s (s.mainWiped.evt supPage 2) :=
      only_of_next hexec (execMainLost_kept rfl (Kept.refl _ s))
    obtain ⟨hdown, hdies, hevt⟩ := s.mainWiped_lost
    obtain ⟨hcores, htqs, hdqs, hmmus, htenants, hgrans, hloads, hslates, -, hregs⟩ := s.mainFallen.resetMain_clears
    refine ⟨_, hexec, hdown, (hevt.same .cores (by decide)).trans hcores, (hevt.same .tqs (by decide)).trans htqs,
      (hevt.same .dqs (by decide)).trans hdqs, (hevt.same .mmus (by decide)).trans hmmus, (hevt.same .tenants (by decide)).trans htenants,
      (hevt.same .grans (by decide)).trans hgrans, (hevt.same .loads (by decide)).trans hloads, ?_, fun a ha => ?_,
      State.regBit_evt _ (by decide) (by decide), honly⟩
    · have hsame : (s.mainWiped.evt supPage 2).slates = s.mainFallen.resetMain.slates := hevt.same .slates (by decide)
      rwa [hsame]
    · have hasm : s.mainFallen.resetMain.asm = s.asm := (hevt.same .asm (by decide)).symm.trans (honly .asm (by decide))
      rw [hdies a ha, hregs a ha, hasm]
  case mainRise =>
    intro s hpg
    have hexec := execMainPgRise_of_pg hpg
    obtain ⟨hbit, hcause, hnow⟩ := s.mainRisen_shows
    exact ⟨_, hexec, hbit, hcause, congrArg some hnow, only_of_next hexec (execMainPgRise_kept rfl (Kept.refl _ s))⟩
  case mainRelease =>
    intro s n hat hpg hdown hlong hfirm hheld
    have hexec := execMainRelease_of_held hat hpg hdown hlong hheld
    obtain ⟨hok, hrestored, hstamp, hboot, hdies⟩ := State.mainUp_shows hfirm
    exact ⟨_, hexec, hok, hrestored, hstamp, hboot, hdies, only_of_next hexec (execMainRelease_kept rfl (Kept.refl _ s))⟩

end Sys2Proof.Machine

/-!
The reset that an accepted RST_CMD starts comes at the end of its sample, after that sample's axis tick (04 R83; 02 R41).
-/
namespace Sys2Proof.Machine

/-- One host word of a stage's transfer in flight. -/
def hostFlight : Xfer := { host := true, data := [1#8] }

/-- The reset of an RST_CMD pair is due in a sample that is an axis tick, on fitting 2. Axis 0 of the field die follows its TRIM of +1 into
limit input 0, which is qualified and reads ASSERTED; it belongs to gate 0, whose stream 0 is RUNNING and bound to stage 1; the stage has
run ahead on core 0, which has a transfer to the host in flight. -/
def limitHitAtReset : State :=
  { State.reset with
    now := 2004
    sup := { rstAt := some 0 }
    regs := [(strPage 11 0 + 0xC, 2#32), (axPage 11 0 + 0xC, 2#32), (axPage 11 0 + 0x40, 0x20#32), (axPage 11 0 + 0x68, 0x20#32),
      (axPage 11 0 + 0xA4, 1#32), (dollyPage 11 + 0x40, 0xFFFFFFF0#32), (dollyPage 11 + 0x50, 1#32)]
    strms := [(11 * 16, { pipe := some { stages := [(1, 0)] } })]
    slates := [(1, { handle := 1, kind := 2, running := true, cores := [(0, 0, 0)] })]
    cores := [(0, { pc := 1 })]
    dqs := [(0, { flights := [hostFlight] })] }

set_option maxRecDepth 4000 in
/-- The limit stops the group and splices the stream, so that the stage begins its stripe again and its transfers in flight land. -/
theorem hmem_idle_limitHitAtReset : limitHitAtReset.idle.hmem = [(0, 1#8)] := by decide

/-- Refutes O22: its clause on the reset of an RST_CMD pair says that host memory stays, in whatever state the reset finds the block. The
reset ends a sample whose axis tick comes first; where that tick meets a limit, a stage that has run ahead begins its stripe again and its
transfers to the host land (15 R331; 14 R292; 10 R225). -/
theorem not_resetSourcesReach : ¬ Obligations.ResetSourcesReach := by
  unfold Obligations.ResetSourcesReach
  rintro ⟨-, -, -, -, -, -, -, -, resets, -⟩
  obtain ⟨t, hstep, -, -, hhost, -⟩ := resets limitHitAtReset 0 rfl rfl rfl (by decide)
  have hidle : limitHitAtReset.idle = t := Host.Outcome.next.inj hstep
  rw [← hidle, hmem_idle_limitHitAtReset] at hhost
  exact absurd hhost (List.cons_ne_nil _ _)

end Sys2Proof.Machine
